-- ==== Sys2Proof/Word.lean ====
section
/-! DEFINITION. The word types of the WK512 (00 Notation: bits numbered from 0 at the least significant end). -/

set_option Elab.async false

namespace Sys2Proof

/-- One octet. -/
abbrev Byte := BitVec 8

/-- A 32-bit register or syllable. -/
abbrev Word := BitVec 32

/-- A 64-bit accumulator (03 R85). -/
abbrev DWord := BitVec 64

end Sys2Proof
end

