-- ==== Sys2Proof/Operand.lean ====
section
/-! DEFINITION. The kinds of operand that commands carry. They are the model's own (log 14): what the surroundings of a step supply. -/

set_option Elab.async false

namespace Sys2Proof

/-- A memory with the error code of R15; the order is that of the correction counters (log 16). -/
inductive MemId where
  | program | inst | shadow | image | scratch | trace | recorder | causeway | param | firmware
  deriving DecidableEq, Repr

/-- One error that a read of this step finds (R16, R17): the memory, the byte address of the group, and whether the code cannot correct it. -/
structure Ecc where
  mem : MemId
  addr : Nat
  hard : Bool
  deriving DecidableEq, Repr

/-- An upset of lane logic in this step (R112, R116): none, a fetched word or a general register whose bits are inverted under a mask. -/
inductive Upset where
  | none
  | fetch (word : Nat) (mask : Word)
  | reg (n : Nat) (mask : Word)
  deriving DecidableEq, Repr

/-- A master of the register fabric (R26), in the order of the master codes 0 to 4. -/
inductive Master where
  | sup0 | sup1 | met | host | debug
  deriving DecidableEq, Repr

/-- A channel of Kivasel (R330): a UDP peer, a CAN port, the service port or the ODX window. -/
inductive KChan where
  | udp (ip port : Nat)
  | can (n : Nat)
  | s1
  | odx
  deriving DecidableEq, Repr

/-- A PTP message as the port's parser hands it over (09 R270, R271; log 17): the fields the servo and the best master clock algorithm use; for a Sync the servo offset, the frequency correction that it asks for in ppb, and the node's PTP clock in ns as the servo leaves it; a delay request of another node. -/
inductive PtpMsg where
  | sync (offset freqPpb : Int) (clock : Nat)
  | announce (gmClass : Nat) (steps : Nat) (gm : Bool) (portState : Nat)
  | delayReq
  | pdelayReq
  | other
  deriving DecidableEq, Repr

/-- Why a start-up takes place (19 R517); `abort` is a Parked entry that a wake aborted (16 R471). -/
inductive StartRef where
  | vinValid | deviceReset | thermalRestart | wake | abort
  deriving DecidableEq, Repr

/-- What the surroundings settle for one start-up (19 R518; log 18): the verdicts of the boot checks that the model does not compute and the input samples the step takes. -/
structure StartEnv where
  /-- banks whose SIGNATURE verifies (15 R454; log 8) -/
  signed : List Nat
  /-- 01 R20 a lost T1 reference at start-up -/
  t1Lost : Bool
  /-- 02 R70 NON_RETAIN byte ranges of the instance store (log 12) -/
  nonRetain : List (Nat × Nat)
  /-- 01 R16, R17 errors that the reads of a start-up find: of the boot ROM in the firmware store, of the recorder's index in its region (13 R406), of step 4 in the parameter store -/
  ecc : List Ecc
  /-- errors that the checks of step 5 find: the epoch record of the program store (0) or of the instance store (1) reads uncorrectable at a byte address (19 R520 code 3, 01 R17) -/
  epochBad : Option (Nat × Nat)
  /-- VIN is lost while step 5 writes the pending image, so that its installation is interrupted (19 R516, R520 code 4) -/
  installCut : Bool
  /-- a domain that does not reach its power-good level (19 R520 code 2) -/
  domainBad : Option Nat
  /-- 13 R406 recorder slots that read corrupt, by SEQ -/
  corrupt : List Nat
  /-- 07 R203 the terms that the stations of the slots, in slot order, report as accepted during the start-up, 0 for none -/
  terms : List Nat
  /-- 08 R258, R260, 19 R508 the groups that qualify, and their VOLTAGE in mV, before the output release of a unit that does not negotiate -/
  groups : List (Nat × Nat)
  /-- 19 R510 backplate temperature at the start -/
  temp : Int
  /-- 19 R520 VIN at the pin, mV -/
  vinMv : Nat
  /-- the seal switch is closed at the MET power-up (17 R501) -/
  sealed : Bool
  /-- duration of the start-up up to the redundancy step, ms -/
  ms : Nat
  deriving DecidableEq, Repr

/-- What a causeway frame brings beside the bytes that R211 to R213 give (log 54). -/
structure CwIn where
  /-- 01 R16, R17 errors that the reads of the frame's groups find, at their byte offset in the frame -/
  ecc : List Ecc
  /-- the DIGEST of the image that the partner has staged (07 R238) -/
  digest : List Byte
  /-- the MIN_SET of that image (07 R227 code 4) -/
  minSet : Nat
  /-- the partner's table of applied batches (11 R339) -/
  table : List (Nat × Nat)
  deriving DecidableEq, Repr

end Sys2Proof
end

