-- ==== Sys2Proof/Syntax.lean ====
section
/-! DEFINITION. The commands of the block: one constructor of `Instr` per row of spec/opcode_table.json, in the table's order. The table gives no row bits or operands; the operands are the model's own (log 14): what the surroundings of a step supply. Instants `t` are nanoseconds of powered time. -/

namespace Sys2Proof

/-- The commands of the block. -/
inductive Instr where
  /-- BEAT_BOUNDARY (R40). -/
  | beatBoundary (t : Nat) (traceLate : Bool)
  /-- RUN_START (R177). -/
  | runStart (lset : Nat)
  /-- BUNDLE_ISSUE (R91). -/
  | bundleIssue (lane : Nat) (ecc : List Ecc) (upset : Upset)
  /-- RESULT_LANDING (R91). -/
  | resultLanding (lane : Nat)
  /-- CONTROL_TRANSFER (R107). -/
  | controlTransfer (lane : Nat)
  /-- REP_ITERATION (R142). -/
  | repIteration (lane : Nat) (ecc : List Ecc) (upset : Upset)
  /-- STRING_ITERATION (R136). -/
  | stringIteration (lane : Nat) (ecc : List Ecc)
  /-- RECORD_WRITEBACK (R163). -/
  | recordWriteback (lane : Nat) (upset : Upset)
  /-- RUN_COMPLETION (R41). -/
  | runCompletion (lset t : Nat)
  /-- MILESTONE_DURABLE (R56). -/
  | milestoneDurable (t : Nat)
  /-- SETTLE_DONE (R56). -/
  | settleDone (t : Nat)
  /-- FAULT_CLEAR (R109). -/
  | faultClear (task : Nat)
  /-- IMAGE_LOAD_SEGMENT (R190). -/
  | imageLoadSegment (off : Nat) (data : List Byte) (last : Bool)
  /-- LOAD_CMD_CHECK (R190). -/
  | loadCmdCheck
  /-- LOAD_CHECK_DONE (R191). -/
  | loadCheckDone
  /-- LOAD_CMD_INSTALL (R190). -/
  | loadCmdInstall
  /-- LOAD_CMD_DISCARD (R190). -/
  | loadCmdDiscard
  /-- SWAP_READY (R236). -/
  | swapReady (ecc : List Ecc)
  /-- ENTER_REDUCED (R469). -/
  | enterReduced (t : Nat)
  /-- RETURN_TO_RUN (R469). -/
  | returnToRun (t : Nat)
  /-- HEARTBEAT_SEND (R206). -/
  | heartbeatSend (t : Nat)
  /-- HEARTBEAT_RECEIVE (R212). -/
  | heartbeatReceive (lane t : Nat) (frame : List Byte) (env : CwIn)
  /-- HEARTBEAT_LOST (R206). -/
  | heartbeatLost (t : Nat)
  /-- LANE_DOWN (R206). -/
  | laneDown (lane : Nat)
  /-- CWA_CYCLE (R207). -/
  | cwaCycle (t : Nat) (burst : Option Byte)
  /-- CWA_MASTER_TAKEOVER (R207). -/
  | cwaMasterTakeover
  /-- NEGOTIATE_SEND (R209). -/
  | negotiateSend (t : Nat)
  /-- NEGOTIATE_RECEIVE (R210). -/
  | negotiateReceive (lane t : Nat) (frame : List Byte) (env : CwIn)
  /-- NEGOTIATION_TIMEOUT (R209). -/
  | negotiationTimeout (t : Nat)
  /-- MILESTONE_TRANSFER (R214). -/
  | milestoneTransfer
  /-- CAUSEWAY_TRANSFER_DONE (R18). -/
  | causewayTransferDone
  /-- STREAM_RECEIVE (R215). -/
  | streamReceive (lane t : Nat) (frame : List Byte) (env : CwIn)
  /-- RESEND_TIMEOUT (R216). -/
  | resendTimeout
  /-- BULK_SEND (R219). -/
  | bulkSend (n : Nat)
  /-- FAIL_RECEIVE (R223). -/
  | failReceive (lane t : Nat) (frame : List Byte) (env : CwIn)
  /-- TAKEOVER_EXECUTE (R225). -/
  | takeoverExecute (t : Nat)
  /-- TERM_CONFIRM_TIMEOUT (R233). -/
  | termConfirmTimeout (t : Nat)
  /-- SWAP_DRILL_CMD (R227). -/
  | swapDrillCmd (m : Master) (t : Nat)
  /-- PROGRAM_SWAP_CMD (R227). -/
  | programSwapCmd (m : Master) (t : Nat)
  /-- ABANDON_SWAP_CMD (R236). -/
  | abandonSwapCmd (m : Master)
  /-- HANDOVER_RECEIVE (R228). -/
  | handoverReceive (lane t : Nat) (frame : List Byte) (env : CwIn)
  /-- HANDOVER_GO_SEND (R228). -/
  | handoverGoSend (t : Nat)
  /-- HANDOVER_GO_RECEIVE (R229). -/
  | handoverGoReceive (lane t : Nat) (frame : List Byte) (env : CwIn)
  /-- HANDOVER_DRIVERS_OFF (R230). -/
  | handoverDriversOff (t : Nat)
  /-- DRILL_DUE (R231). -/
  | drillDue (t : Nat)
  /-- RAW_SAMPLE (R246). -/
  | rawSample (t : Nat) (pins : List (Nat × Int)) (supply : List Nat) (current : List Nat)
  /-- GROUP_QUALIFIED (R260). -/
  | groupQualified (g : Nat)
  /-- GRP_OVERCURRENT (R253). -/
  | grpOvercurrent (g : Nat)
  /-- GRP_ACK (R261). -/
  | grpAck (m : Master) (mask : Nat)
  /-- THERMAL_TRIP (R251). -/
  | thermalTrip (c : Nat)
  /-- THERMAL_COOLED (R251). -/
  | thermalCooled (c : Nat)
  /-- OVERLOAD_CLEAR (R251). -/
  | overloadClear (c : Nat)
  /-- OPEN_LOAD_DETECT (R252). -/
  | openLoadDetect (c : Nat)
  /-- OPEN_LOAD_CLEAR (R252). -/
  | openLoadClear (c : Nat)
  /-- STAGGERED_SWITCH_ON (R254). -/
  | staggeredSwitchOn (c t : Nat)
  /-- LOGIC_SILENCE_EXPIRY (R257). -/
  | logicSilenceExpiry
  /-- ETH_LINK_CHANGE (R268). -/
  | ethLinkChange (port : Nat) (up : Bool)
  /-- PRP_SUPERVISION_SEND (R269). -/
  | prpSupervisionSend (pair : Nat)
  /-- PTP_MESSAGE_RECEIVE (R271). -/
  | ptpMessageReceive (port t domain : Nat) (udp : Bool) (msg : PtpMsg)
  /-- ANNOUNCE_RECEIPT_TIMEOUT (R271). -/
  | announceReceiptTimeout (t : Nat)
  /-- PTP_SYNC_SEND (R270). -/
  | ptpSyncSend (port t : Nat)
  /-- PPS_IN_EDGE (R514). -/
  | ppsInEdge (offset : Int)
  /-- REF_LOST (R20). -/
  | refLost
  /-- STATION_INPUT_SEND (R281). -/
  | stationInputSend (t : Nat)
  /-- STATION_INPUT_RECEIVE (R282). -/
  | stationInputReceive (port t : Nat) (frame : List Byte)
  /-- OUTPUT_FRAME_RECEIVE (R286). -/
  | outputFrameReceive (port t : Nat) (frame : List Byte)
  /-- TERM_CLAIM_RECEIVE (R286). -/
  | termClaimReceive (port t : Nat) (frame : List Byte)
  /-- STATUS_RECEIVE (R278). -/
  | statusReceive (port t : Nat) (frame : List Byte)
  /-- KEEP_ALIVE_SEND (R284). -/
  | keepAliveSend (t : Nat)
  /-- WARM_START_FRAMES (R284). -/
  | warmStartFrames (t : Nat)
  /-- ACK_WAIT_EXPIRY (R285). -/
  | ackWaitExpiry (t : Nat)
  /-- TX_LATE_DROP (R284). -/
  | txLateDrop (t : Nat)
  /-- READMIT_ACK (R292). -/
  | readmitAck (slot t : Nat)
  /-- CAN_FRAME_RECEIVED (R301). -/
  | canFrameReceived (n t : Nat) (frame : List Word)
  /-- CAN_WINDOW_READ (R302). -/
  | canWindowRead (m : Master) (n w : Nat)
  /-- CAN_FIFO_READ (R304). -/
  | canFifoRead (m : Master) (n w : Nat)
  /-- CAN_LOCK_TIMEOUT (R302). -/
  | canLockTimeout (n : Nat) (fifo : Bool)
  /-- CAN_BUFSEL_WRITE (R302). -/
  | canBufselWrite (m : Master) (n : Nat) (v : Word)
  /-- CAN_TXREQ (R306). -/
  | canTxreq (m : Master) (n : Nat) (v : Word)
  /-- CAN_TXABORT (R306). -/
  | canTxabort (m : Master) (n : Nat) (v : Word)
  /-- CAN_TX_START (R310). -/
  | canTxStart (n t : Nat)
  /-- CAN_TX_END (R310). -/
  | canTxEnd (n t : Nat)
  /-- CAN_TX_ERROR (R311). -/
  | canTxError (n lec : Nat) (data arbitration ack stuff : Bool) (dom : Nat)
  /-- CAN_RECOVER (R313). -/
  | canRecover (m : Master) (n : Nat)
  /-- CAN_RECOVERY_END (R313). -/
  | canRecoveryEnd (n : Nat)
  /-- CAN_INIT_WRITE (R317). -/
  | canInitWrite (m : Master) (n : Nat) (v : Word)
  /-- CAN_BUS_INTEGRATION (R317). -/
  | canBusIntegration (n : Nat)
  /-- GATE_WINDOW_OPEN (R315). -/
  | gateWindowOpen (n gate t : Nat)
  /-- GATE_WINDOW_CLOSE (R315). -/
  | gateWindowClose (n t : Nat)
  /-- CAN_WAKE_PATTERN (R472). -/
  | canWakePattern
  /-- KIVASEL_UDP_RECEIVE (R342). -/
  | kivaselUdpReceive (ip port t : Nat) (bytes : List Byte)
  /-- KIVASEL_CAN_SEGMENT (R343). -/
  | kivaselCanSegment (n t : Nat) (bytes : List Byte)
  /-- KIVASEL_CAN_SEGMENT_TIMEOUT (R343). -/
  | kivaselCanSegmentTimeout (n : Nat)
  /-- KIVASEL_USB_TRANSFER (R344). -/
  | kivaselUsbTransfer (t : Nat) (bytes : List Byte)
  /-- ODX_GO (R345). -/
  | odxGo (m : Master) (t : Nat)
  /-- ODX_ACK (R345). -/
  | odxAck (m : Master)
  /-- OPEN (R333). -/
  | kOpen (t : Nat)
  /-- CLOSE (R333). -/
  | kClose (t : Nat)
  /-- CHALLENGE (R334). -/
  | kChallenge (t : Nat)
  /-- LOGIN (R334). -/
  | kLogin (t : Nat)
  /-- LOGIN_LOCKOUT_END (R334). -/
  | loginLockoutEnd (chan : KChan)
  /-- READ (R331). -/
  | kRead (t : Nat) (ecc : List Ecc)
  /-- READ_MULTI (R329). -/
  | kReadMulti (t : Nat) (ecc : List Ecc)
  /-- DESCRIBE (R331). -/
  | kDescribe (t : Nat)
  /-- WRITE (R325). -/
  | kWrite (t : Nat)
  /-- BATCH_OPEN (R339). -/
  | batchOpen (t : Nat)
  /-- BATCH_ADD (R338). -/
  | batchAdd (t : Nat)
  /-- BATCH_COMMIT (R338). -/
  | batchCommit (t : Nat)
  /-- BATCH_STATUS (R341). -/
  | batchStatus (t : Nat)
  /-- BATCH_DISCARD (R331). -/
  | batchDiscard (t : Nat)
  /-- SESSION_TIMEOUT (R333). -/
  | sessionTimeout (id t : Nat)
  /-- BATCH_IDLE_TIMEOUT (R338). -/
  | batchIdleTimeout (id t : Nat)
  /-- ACCESS_KEY_WRITE (R334). -/
  | accessKeyWrite (t : Nat)
  /-- FUSE_BLOW (R348). -/
  | fuseBlow (t : Nat)
  /-- FUSE_BLOW_END (R349). -/
  | fuseBlowEnd
  /-- RESTORE_DEFAULTS (R350). -/
  | restoreDefaults (t : Nat)
  /-- PUBLISH_MAP_SEGMENT (R327). -/
  | publishMapSegment (off : Nat) (data : List Byte) (last : Bool)
  /-- HOST_READ (R355). -/
  | hostRead (cmd addr n : Nat)
  /-- HOST_WRITE (R356). -/
  | hostWrite (cmd addr : Nat) (words : List Word)
  /-- HOST_STATUS (R354). -/
  | hostStatus (cmd n : Nat)
  /-- HOST_STALL_VIOLATION (R357). -/
  | hostStallViolation
  /-- HOST_ACCESS_TIMEOUT (R360). -/
  | hostAccessTimeout (write : Bool)
  /-- UNLOCK_CHALLENGE (R361). -/
  | unlockChallenge (m : Master)
  /-- UNLOCK_GO (R362). -/
  | unlockGo (m : Master)
  /-- UNLOCK_LOCK (R363). -/
  | unlockLock (m : Master)
  /-- HOST_LOCKOUT_END (R362). -/
  | hostLockoutEnd
  /-- REGISTER_WRITE (R364). -/
  | registerWrite (m : Master) (addr : Nat) (v : Word)
  /-- RCL_READ (R7). -/
  | rclRead (m : Master) (addr : Nat)
  /-- MBX_SEL_WRITE (R367). -/
  | mbxSelWrite (m : Master) (v : Word)
  /-- MBX_LATCH (R367). -/
  | mbxLatch (m : Master) (t : Nat)
  /-- MBX_DATA_READ (R369). -/
  | mbxDataRead (m : Master) (k : Nat)
  /-- INT_CLAIM (R376). -/
  | intClaim (m : Master)
  /-- INT_TAKE (R377). -/
  | intTake (m : Master) (n : Nat)
  /-- INT_DONE (R378). -/
  | intDone (m : Master) (v : Word)
  /-- INT_ROUTE_WRITE (R380). -/
  | intRouteWrite (m : Master) (n : Nat) (v : Word)
  /-- SYS_RESET (R373). -/
  | sysReset (m : Master) (v : Word)
  /-- ROLE_NEXT_WRITE (R1). -/
  | roleNextWrite (m : Master) (v : Word)
  /-- HOST_CHECKIN (R388). -/
  | hostCheckin (m : Master) (t : Nat) (v : Word)
  /-- SERVICE_CHECKIN (R388). -/
  | serviceCheckin (service t : Nat)
  /-- WAYMARK_PERIOD_END (R389). -/
  | waymarkPeriodEnd (slot t : Nat)
  /-- WATCHDOG_RESET_EXECUTE (R395). -/
  | watchdogResetExecute (t : Nat)
  /-- CLR_RESETS (R396). -/
  | clrResets (m : Master) (v : Word)
  /-- RECORD_WRITE (R403). -/
  | recordWrite (t : Nat)
  /-- EVR_WIN0_READ (R410). -/
  | evrWin0Read (m : Master) (ecc : List Ecc)
  /-- EVR_WIN63_READ (R410). -/
  | evrWin63Read (m : Master)
  /-- EVENT_CLEAR (R411). -/
  | eventClear (m : Master) (v : Word)
  /-- EVENT_CLEAR_DONE (R411). -/
  | eventClearDone
  /-- ANCHOR_REQUEST_INTERVAL (R422). -/
  | anchorRequestInterval (t : Nat)
  /-- ANCHOR_CMD (R422). -/
  | anchorCmd (m : Master)
  /-- ANCHOR_COPY_COMPLETE (R420). -/
  | anchorCopyComplete
  /-- ANCHOR_MISSED (R422). -/
  | anchorMissed
  /-- FREEZE (R424). -/
  | freeze (m : Master)
  /-- RING_FROZEN (R424). -/
  | ringFrozen
  /-- UNFREEZE (R424). -/
  | unfreeze (m : Master)
  /-- STREAM_DATAGRAM_SEND (R427). -/
  | streamDatagramSend (ecc : List Ecc)
  /-- REPLAY_LOAD_SEGMENT (R428). -/
  | replayLoadSegment (off : Nat) (data : List Byte) (last : Bool)
  /-- REPLAY_START (R429). -/
  | replayStart
  /-- REPLAY_STOP (R431). -/
  | replayStop
  /-- REPLAY_DISCARD (R434). -/
  | replayDiscard
  /-- NVP_RECORD_READ (R439). -/
  | nvpRecordRead (m : Master) (ecc : List Ecc)
  /-- NVP_RECORD_WRITE (R440). -/
  | nvpRecordWrite (m : Master)
  /-- NVP_RAW_READ (R444). -/
  | nvpRawRead (m : Master) (ecc : List Ecc)
  /-- NVP_RAW_WRITE (R442). -/
  | nvpRawWrite (m : Master)
  /-- NVP_RAW_ERASE (R442). -/
  | nvpRawErase (m : Master)
  /-- PAGE_STEP_DONE (R435). -/
  | pageStepDone (bad : Option Nat)
  /-- WAX_PASS_VISIT (R447). -/
  | waxPassVisit (weak : Bool) (ecc : List Ecc)
  /-- WAX_PASS_BEGIN (R447). -/
  | waxPassBegin (t : Nat)
  /-- WAX_LATE (R447). -/
  | waxLate (t : Nat)
  /-- CLR_CORR (R456). -/
  | clrCorr (m : Master)
  /-- FW_IMAGE_SEGMENT (R453). -/
  | fwImageSegment (off : Nat) (data : List Byte) (last : Bool)
  /-- FW_VERIFY_DONE (R453). -/
  | fwVerifyDone (signed : Bool) (ecc : List Ecc)
  /-- FW_CMD_ABANDON (R453). -/
  | fwCmdAbandon
  /-- CALENDAR_TICK (R458). -/
  | calendarTick
  /-- PERIODIC_WAKE (R467). -/
  | periodicWake
  /-- OSC_STOP (R460). -/
  | oscStop
  /-- SNAPSHOT_TAKE (R461). -/
  | snapshotTake (m : Master)
  /-- CALENDAR_SET_GO (R463). -/
  | calendarSetGo (m : Master)
  /-- CALENDAR_NOW_READ (R477). -/
  | calendarNowRead
  /-- SHIFT_START (R466). -/
  | shiftStart (m : Master) (v : Word)
  /-- PARK_REQUEST (R470). -/
  | parkRequest (m : Master) (v : Word)
  /-- PARK_COMMIT_EDGE (R471). -/
  | parkCommitEdge
  /-- HOST_WAKE_PIN (R472). -/
  | hostWakePin
  /-- WAKE_FRAME_RECEIVE (R473). -/
  | wakeFrameReceive (bytes : List Byte)
  /-- VIN_RETURN (R472). -/
  | vinReturn
  /-- POWER_CYCLE_RECORD (R474). -/
  | powerCycleRecord (t : Nat)
  /-- MET_POWER_UP (R479). -/
  | metPowerUp (closed : Bool)
  /-- CLOCK_PLAUSIBILITY_FAULT (R22). -/
  | clockPlausibilityFault (on : Bool)
  /-- BRIDGE_SAMPLE (R482). -/
  | bridgeSample (c t : Nat) (raw : Int) (supply sense : Bool)
  /-- NO_ZERO_TIMEOUT (R483). -/
  | noZeroTimeout (c t : Nat)
  /-- PULSE_EDGE (R481). -/
  | pulseEdge (q t : Nat)
  /-- PULSE_RECORD_PUBLISH (R488). -/
  | pulseRecordPublish (q t : Nat)
  /-- EXCITATION_FAULT (R480). -/
  | excitationFault (on : Bool)
  /-- SEAL_CHANGE (R484). -/
  | sealChange (closed : Bool)
  /-- ADJ_SET_ENTRY (R485). -/
  | adjSetEntry (bytes : List Byte)
  /-- ADJ_CAPTURE_ZERO (R485). -/
  | adjCaptureZero (bytes : List Byte)
  /-- ADJ_CAPTURE_SPAN (R485). -/
  | adjCaptureSpan (bytes : List Byte)
  /-- ADJ_NO_CHANGE (R485). -/
  | adjNoChange (bytes : List Byte)
  /-- TELEGRAM_GAP_TIMEOUT (R485). -/
  | telegramGapTimeout
  /-- MET_ALIVE_TIMEOUT (R490). -/
  | metAliveTimeout (t : Nat)
  /-- MET_RECORD_READ (R491). -/
  | metRecordRead (m : Master) (off : Nat)
  /-- START_UP (R518). -/
  | startUp (env : StartEnv)
  /-- START_RESUME_AFTER_VIN (R520). -/
  | startResumeAfterVin (env : StartEnv)
  /-- VIN_LOSS (R515). -/
  | vinLoss (cut : List Nat) (headErased : Bool)
  /-- OVERVOLTAGE (R505). -/
  | overvoltage (cut : List Nat) (headErased : Bool)
  /-- BACKPLATE_TEMP_REPORT (R510). -/
  | backplateTempReport (temp : Int) (cut : List Nat) (headErased : Bool)
  /-- THERMAL_RESTART (R517). -/
  | thermalRestart
  /-- VBAK_LOW (R506). -/
  | vbakLow
  /-- VIN_LOW (R469). -/
  | vinLow
  /-- CAN_RECEIVE_ERROR (R312). -/
  | canReceiveError (n : Nat) (exempt : Bool) (dom lec : Nat) (data : Bool)
  /-- ARP_ICMP_ECHO_REQUEST (R342). -/
  | arpIcmpEchoRequest (port : Nat) (frame : List Byte)
  /-- VBAK_RETURN (R460). -/
  | vbakReturn
  /-- START_UP_TEMPERATURE_HOLD_END (R510). -/
  | startUpTemperatureHoldEnd (temp : Int)
  /-- PPS_OUT_PULSE (R512). -/
  | ppsOutPulse
  /-- FW_BANK_STEP_DONE (R453). -/
  | fwBankStepDone (ok : Bool)
  /-- PTP_ANNOUNCE_SEND (R271). -/
  | ptpAnnounceSend (port : Nat)
  /-- PTP_DELAY_REQUEST_SEND (R270). -/
  | ptpDelayRequestSend (port : Nat)
  deriving DecidableEq, Repr

end Sys2Proof
end

