-- ==== Sys2Proof/Data.lean ====
section
/-! DEFINITION. The plain data that State is made of: cells, overlays, lane results, runs, milestones, and the entries of the queues. -/

set_option Elab.async false

namespace Sys2Proof.Machine

open Sys2Proof

/-- Sparse bytes in canonical form: addresses strictly rising, no entry equal to what an unlisted address reads as. -/
abbrev Mem := List (Nat × Byte)

/-- Bits written over a memory: address, mask and value, addresses strictly rising. -/
abbrev Ov := List (Nat × (Byte × Byte))

/-- The SHA-256 digest of no bytes: that of the empty metrology image of this part's manufacture (log 5). -/
def emptyDigest : List Byte :=
  [0xE3, 0xB0, 0xC4, 0x42, 0x98, 0xFC, 0x1C, 0x14, 0x9A, 0xFB, 0xF4, 0xC8, 0x99, 0x6F, 0xB9, 0x24,
   0x27, 0xAE, 0x41, 0xE4, 0x64, 0x9B, 0x93, 0x4C, 0xA4, 0x95, 0x99, 0x1B, 0x78, 0x52, 0xB8, 0x55]

/-- The flags of one A unit (03 R85): carry, half-carry per nibble, overflow. -/
structure Flags where
  cy : Bool
  hc : BitVec 8
  ov : Bool
  deriving DecidableEq, Repr

/-- All flags zero (03 R87). -/
def Flags.zero : Flags := ⟨false, 0, false⟩

/-- A descriptor register (05 R150): base, and the word with LEN, ESZ and MODE. -/
structure Desc where
  base : Word
  ctl : Word
  deriving DecidableEq, Repr

/-- A descriptor at run start (03 R87). -/
def Desc.zero : Desc := ⟨0, 0⟩

/-- An exchange register with the history that same-cycle reads and writes need (03 R88, R89): its value, the value before the cycle of the last write, that cycle and the writing lane. -/
structure XReg where
  cur : Word
  prev : Word
  cyc : Nat
  lane : Nat
  deriving DecidableEq, Repr

/-- An exchange register after power-up (03 R90). -/
def XReg.zero : XReg := ⟨0, 0, 0, 0⟩

/-- The register or flag that a result lands on, with the value (03 R91, 04 R121). -/
inductive Dest where
  | g (n : Nat) (v : Word)
  | b (n : Nat) (v : Bool)
  | a (n : Nat) (v : Word)
  | md (n : Nat) (v : Desc)
  | ac (n : Nat) (v : DWord)
  | rc (v : BitVec 16)
  | cy (unit : Nat) (v : Bool)
  | hc (unit : Nat) (v : BitVec 8)
  | ov (unit : Nat) (v : Bool)
  deriving DecidableEq, Repr

/-- A result in flight (03 R91, R94): the lane cycle it lands in, the cycle it was issued in, the unit code, the operation of a pair (0 A, 1 B). -/
structure Landing where
  cyc : Nat
  issued : Nat
  unit : Nat
  op : Nat
  dest : Dest
  deriving DecidableEq, Repr

/-- What a taken transfer does to the link stack (05 R157). -/
inductive XferKind where
  | branch
  | call (ip : Word)
  | ret
  deriving DecidableEq, Repr

/-- A transfer in progress (03 R107): delay bundles still to issue, whether it is taken, its target, and its kind. -/
structure Transfer where
  left : Nat
  taken : Bool
  target : Nat
  kind : XferKind
  deriving DecidableEq, Repr

/-- The state of a packed-decimal string operation (04 R136): carry, the words latched for iteration 0, an invalid digit seen, all words equal so far, hc of the last word, and the L unit's scratch stores of the bundle that take effect in e0 + 1 (04 R138). -/
structure StrState where
  carry : Bool
  words : Option (Word × Word)
  bad : Bool
  eq : Bool
  hc : BitVec 8
  deferred : List (Nat × Byte)
  deriving DecidableEq, Repr

/-- A repetition in progress (04 R142, R143): the repeated syllable, iterations left (the lane's ready cycle is that of the next one), the accumulators chained between iterations, and the string state. -/
structure Rep where
  word : Word
  /-- address of the bundle -/
  pc : Nat
  left : Nat
  ac0 : Option DWord
  ac1 : Option DWord
  str : Option StrState
  deriving DecidableEq, Repr

/-- A record write-back in flight (05 R163): its cycle, the record's address and its bytes. -/
structure Writeback where
  cyc : Nat
  addr : Nat
  bytes : List Byte
  deriving DecidableEq, Repr

/-- An item that a carriageway comparator compares (03 R112). -/
inductive Item where
  | store (addr mask : Nat) (data : Word) (tag : Nat)
  | bitStore (addr bit : Nat) (v : Bool) (tag : Nat)
  | xwrite (reg : Nat) (data : Word)
  | chkin (slot : Nat)
  | read (addr : Nat)
  | xread (reg : Nat)
  | fin
  | illegal (cause bundle : Nat)
  deriving DecidableEq, Repr

/-- What one lane cycle of a leading lane produced (03 R111, R112): its cycle, whether it is a write-back, the items, and the data of its reads for the trailing lane. -/
structure IssueRec where
  cyc : Nat
  wb : Bool
  items : List Item
  reads : List Word
  deriving DecidableEq, Repr

/-- A run from its release to its end (02 R38, R45 to R47, 06 R177). -/
structure Run where
  /-- 02 R73 release index -/
  rel : Nat
  /-- the lane cycle of the release boundary -/
  relCyc : Nat
  /-- the beat number of the release -/
  beat : Nat
  /-- beats since the first beat of this start-up, at the release -/
  beatsRun : Nat
  /-- 02 R70 FIRST flag -/
  first : Bool
  /-- 02 R47 the memory at the release -/
  base : Mem
  /-- 02 R45 the input view latched at the release -/
  view : Mem
  /-- 02 R46 the run's own stores -/
  writes : Ov
  /-- 05 R160 sel 5 -/
  calDate : Word
  /-- 05 R160 sel 6 -/
  calTime : Word
  /-- 06 R177 lane set, start order and start cycle of the table in force at the release -/
  lset : Nat
  order : Nat
  start : Nat
  /-- 06 R177 the run has left its lane set's queue -/
  started : Bool
  /-- 07 R226 a run re-executed after a takeover -/
  reexec : Bool
  deriving DecidableEq, Repr

/-- Where a shadow half stands (02 R53, R56, 01 R18). -/
inductive HalfPhase where
  | free | openHalf | journal | settle
  deriving DecidableEq, Repr

/-- One item of an edit batch (11 R338): the dictionary entry, its place in the L map, and the bytes. -/
structure EditItem where
  index : Nat
  sub : Nat
  addr : Nat
  bytes : List Byte
  deriving DecidableEq, Repr

/-- An edit batch (02 R76, 11 R338, R339). -/
structure Batch where
  client : Nat
  id : Nat
  /-- bytes that the batch takes in the reserve -/
  size : Nat
  /-- instant of acceptance, ns -/
  accepted : Nat
  items : List EditItem
  /-- the session that submitted it, for BATCH_DONE -/
  session : Nat
  /-- the channel of its BATCH_COMMIT -/
  chan : KChan
  /-- milestone that holds it, once closed -/
  ms : Option Nat
  deriving DecidableEq, Repr

/-- A staged recorder snapshot (13 R408, R409): the record's SEQ and its bytes. -/
structure Snap where
  seq : Nat
  bytes : List Byte
  deriving DecidableEq, Repr

/-- A milestone (02 R54). -/
structure Milestone where
  num : Nat
  firstBeat : Nat
  beats : Nat
  powered : Nat
  term : Nat
  words : List Nat
  batches : Nat
  volume : Nat
  /-- entries of the completed runs, by task -/
  entries : List (Nat × Ov)
  /-- the change that entries and edits make together, in the order they took effect (02 R80) -/
  net : Ov
  edits : List Batch
  snaps : List Snap
  deriving DecidableEq, Repr

/-- One row of a release table (06 R176). -/
structure TaskRow where
  task : Nat
  lset : Nat
  order : Nat
  policy : Nat
  period : Nat
  phase : Nat
  start : Nat
  entry : Nat
  ip : Nat
  wcet : Nat
  foot : Nat
  keep : Nat
  outFirst : Nat
  outCount : Nat
  winFirst : Nat
  winCount : Nat
  loopFirst : Nat
  loopCount : Nat
  zeros : Bool
  deriving DecidableEq, Repr

/-- One entry of the exchange table (06 R189). -/
structure XEntry where
  reg : Nat
  writer : Nat
  zero : Nat
  readers : Nat
  writeOff : Nat
  readOff : Nat
  deriving DecidableEq, Repr

/-- One entry of the instance map (06 R194). -/
structure InstEntry where
  newOff : Nat
  len : Nat
  type : Nat
  oldOff : Nat
  name : Nat
  zero : Nat
  deriving DecidableEq, Repr

/-- A schedule image, decoded (06 R174 to R176). -/
structure Image where
  bytes : List Byte
  imgLen : Nat
  single : Bool
  mainSet : Nat
  minSet : Nat
  tasks : Nat
  beatP : Nat
  hyper : Nat
  footMax : Nat
  occMax : Nat
  sections : List (Nat × Nat)
  prevDigest : List Byte
  digest : List Byte
  main : List TaskRow
  reduced : List TaskRow
  /-- KIND, FIRST, COUNT -/
  outs : List (Nat × Nat × Nat)
  /-- OFFSET, LENGTH -/
  wins : List (Nat × Nat)
  /-- BUNDLE, BOUND -/
  loops : List (Nat × Nat)
  xtab : List XEntry
  /-- OFFSET and bytes -/
  inits : List (Nat × List Byte)
  instances : List InstEntry
  names : List Byte
  deriving DecidableEq, Repr

/-- The role of a unit on the causeway (07 R201), in the order of the codes of CSW_STATUS.ROLE. -/
inductive RoleState where
  | solo | active | standby | syncing | failed | negotiating
  deriving DecidableEq, Repr

/-- The role of the module (00 R1), in the order of the codes of SYS_ROLE. -/
inductive Role where
  | controller | station | replay
  deriving DecidableEq, Repr

/-- The power state (16 R469). -/
inductive PowerState where
  | run | reduced | parked
  deriving DecidableEq, Repr

/-- An Ethernet frame of the station frame engine waiting at the ports or for its answer (09 R284, R285). -/
structure TxFrame where
  /-- station slot, or 256 for the controllers of a station -/
  slot : Nat
  bytes : List Byte
  /-- LAUNCH in ns, none for a frame without one -/
  launch : Option Nat
  /-- ns of the sending -/
  sentAt : Nat
  retried : Bool
  deriving DecidableEq, Repr

/-- The kinds of PTP message that the module sends (09 R270): event messages are two-step. -/
inductive PtpOut where
  | sync | followUp | delayReq | pdelayReq | delayResp | pdelayResp | pdelayFollowUp
  | announce (priority1 priority2 steps : Nat)
  deriving DecidableEq, Repr

/-- What has left the module (log 4). -/
inductive Sent where
  | eth (port : Nat) (bytes : List Byte)
  | cw (lane : Nat) (bytes : List Byte)
  | cwa (burst : Byte)
  | can (port : Nat) (words : List Word)
  | kivasel (chan : KChan) (bytes : List Byte)
  | met (bytes : List Byte)
  /-- a datagram of the trace stream: source address, destination address and port, payload (14 R426) -/
  | trace (source dest port : Nat) (bytes : List Byte)
  | host (bytes : List Byte)
  /-- a PTP message of a port: its kind, its clock reading, its domain number, whether it travels in UDP over IPv4, and logMessageInterval of a Sync as the byte that entry 0x1200 holds; its octets are those of IEEE 1588-2019 (log 17) -/
  | ptp (port : Nat) (kind : PtpOut) (clock domain : Nat) (udp : Bool) (logSync : Nat)
  /-- a PRP supervision frame of IEC 62439-3 (09 R269; log 26) -/
  | prp (port : Nat)
  deriving DecidableEq, Repr

/-- A CAN frame queued for transmission (10 R306, R310, R315): its words, queue stamp, counted attempts, and whether it missed its gate and competes late. -/
structure CanTx where
  words : List Word
  stamp : Nat
  tries : Nat
  late : Bool
  deriving DecidableEq, Repr

/-- A frame stored in an image-owned receive buffer, for the trace (14 R416 CAN): port, buffer, instant and frame words. -/
structure CanIn where
  port : Nat
  buf : Nat
  at' : Nat
  words : List Word
  deriving DecidableEq, Repr

/-- An INPUT frame used at a latch, for the trace (14 R416 STATION): slot, others superseded, instant and SEQ. -/
structure StnIn where
  slot : Nat
  many : Bool
  at' : Nat
  seq : Nat
  deriving DecidableEq, Repr

/-- A Kivasel session (11 R333, R334, R338). -/
structure Session where
  id : Nat
  client : Nat
  chan : KChan
  priv : Bool
  /-- the nonce of the last CHALLENGE, until a LOGIN uses it -/
  nonce : Option (List Byte)
  /-- instant of the last request, ns -/
  used : Nat
  /-- the open batch: BATCH_ID and its items -/
  batch : Option (Nat × List EditItem)
  /-- instant of the last unit of the open batch, ns -/
  batchAt : Nat
  deriving DecidableEq, Repr

/-- The ODX window's session (11 R335). -/
def Session.odx : Session := ⟨0, 0, .odx, false, none, 0, none, 0⟩

/-- One entry of a publication map (11 R327). -/
structure PubEntry where
  index : Nat
  sub : Nat
  type : Nat
  writable : Bool
  addr : Nat
  len : Nat
  deriving DecidableEq, Repr

/-- An occurrence in the recorder's queue (13 R403): what a record of it says, as it stood at the occurrence. -/
structure Occ where
  code : Nat
  source : Nat
  sev : Nat
  detail : List Byte
  cycles : Nat
  ot : Nat
  ms : Nat
  date : Nat
  time : Nat
  calValid : Bool
  term : Nat
  /-- the instant of the occurrence, ns of powered time -/
  at' : Nat
  deriving DecidableEq, Repr

/-- A record of the event recorder (13 R399); CHECK follows from the rest unless the slot is corrupt (13 R406). -/
structure Rec where
  code : Nat
  source : Nat
  sev : Nat
  calValid : Bool
  snapOmitted : Bool
  snapPending : Bool
  snapLost : Bool
  snapWords : Nat
  trigger : Nat
  repeats : Nat
  cycles : Nat
  otFirst : Nat
  otLast : Nat
  ms : Nat
  date : Nat
  time : Nat
  seq : Nat
  detail : List Byte
  term : Nat
  snap : List Byte
  corrupt : Bool
  deriving DecidableEq, Repr

/-- The content of an ANCHOR item (14 R419). -/
structure Anchor where
  /-- bytes 0 to 303: the milestone header -/
  head : List Byte
  digest : List Byte
  p : Nat
  laneMode : Nat
  table : Nat
  ptp : Bool
  sync : Bool
  complete : Bool
  x : List Word
  view : Mem
  outs : Mem
  inst : Mem
  deriving DecidableEq, Repr

/-- An item of the trace ring (14 R415, R416): an ANCHOR carries its content apart from the bytes. -/
structure TItem where
  type : Nat
  beat : Nat
  bytes : List Byte
  corrupt : Bool
  anchor : Option Anchor
  deriving DecidableEq, Repr

/-- Where the answer to a WRITE goes once its effect is durable (11 R325). -/
structure Reply where
  chan : KChan
  session : Nat
  tag : Nat
  deriving DecidableEq, Repr

/-- A page of the parameter store (15 R435): its bytes, unlisted ones erased, and the groups that read uncorrectable. -/
structure Page where
  bytes : Mem
  bad : List Nat
  deriving DecidableEq, Repr

/-- The operations of the parameter-store controller (15 R439 to R444); `sys` is the supervisor's own write of a system record. -/
inductive NvpOp where
  | recRead | recWrite | rawRead | rawWrite | erase | sys
  deriving DecidableEq, Repr

/-- A command of the parameter-store controller (15 R439 to R445, 11 R325): the master that gave it (none for the supervisor's own), its rights, record, length, page, group, count and data as they stood when it was given, the errors that its reads find, and, for a system record, the value's key and where its answer goes. -/
structure NvpCmd where
  who : Option Master
  priv : Bool
  op : NvpOp
  record : Nat
  len : Nat
  page : Nat
  group : Nat
  count : Nat
  data : List Byte
  ecc : List Ecc
  key : Nat
  reply : Option Reply
  deriving DecidableEq, Repr

/-- A page still to be written in the operation in progress: its number, the first group programmed and the bytes from there on (none: erase only). -/
structure PageJob where
  page : Nat
  first : Nat
  data : List Byte
  deriving DecidableEq, Repr

/-- The page operation in progress (15 R435, R449): the command that it serves (none for a rewrite of the controller's own), the page being written, whether its step is the erase, whether the write is being completed in a spare, and the pages that follow. -/
structure PageStep where
  cmd : Option NvpCmd
  job : PageJob
  erasing : Bool
  spare : Bool
  rest : List PageJob
  deriving DecidableEq, Repr

/-- Where a firmware load stands (15 R453): the erase of step 2, between segments, the programming of a segment, the verification. -/
inductive FwPhase where
  | erase | idle | program | verify
  deriving DecidableEq, Repr

/-- A firmware load in progress (15 R453): its bank, LENGTH of the body, the end of the bytes programmed, the pending segment and whether it is the last, and where its answer goes. -/
structure FwLoad where
  bank : Nat
  len : Nat
  phase : FwPhase
  next : Nat
  data : List Byte
  last : Bool
  reply : Option Reply
  deriving DecidableEq, Repr

end Sys2Proof.Machine
end

