-- ==== Sys2Proof/Machine/Bytes.lean ====
section
/-! DEFINITION. Bytes, bit fields, sparse memories in canonical form, and overlays of written bits. -/

set_option Elab.async false

namespace Sys2Proof.Machine

open Sys2Proof

/-! ### Numbers and bytes -/

/-- The field [hi:lo] of a number (00 Notation). -/
def field (x hi lo : Nat) : Nat := (x >>> lo) % 2 ^ (hi + 1 - lo)

/-- The field [hi:lo] of a word. -/
def wfield (w : Word) (hi lo : Nat) : Nat := field w.toNat hi lo

/-- A number as a 32-bit word, modulo 2^32. -/
def w32 (n : Nat) : Word := BitVec.ofNat 32 n

/-- An integer as a 32-bit word, modulo 2^32. -/
def i32 (n : Int) : Word := BitVec.ofInt 32 n

/-- 1 for true. -/
def bit (b : Bool) : Nat := if b then 1 else 0

/-- Add to a counter that saturates at its largest value. -/
def satAdd (max n k : Nat) : Nat := min max (n + k)

/-- A 32-bit saturating counter counts one. -/
def sat32 (n : Nat) : Nat := satAdd 0xFFFFFFFF n 1

/-- A 16-bit saturating counter counts one. -/
def sat16 (n : Nat) : Nat := satAdd 0xFFFF n 1

/-- The `n` little-endian bytes of a number, modulo 256^n (05 R147, 06). -/
def leBytes : Nat → Nat → List Byte
  | 0, _ => []
  | n + 1, v => BitVec.ofNat 8 v :: leBytes n (v / 256)

/-- The number that little-endian bytes spell. -/
def leNat : List Byte → Nat
  | [] => 0
  | b :: t => b.toNat + 256 * leNat t

/-- Bytes `off` to `off + n - 1` of a list. -/
def slice (l : List Byte) (off n : Nat) : List Byte := (l.drop off).take n

/-- The little-endian field of `n` bytes at `off`; bytes beyond the end read zero. -/
def getLE (l : List Byte) (off n : Nat) : Nat := leNat (slice l off n)

/-- A signed little-endian field of `n` bytes. -/
def getLEs (l : List Byte) (off n : Nat) : Int :=
  let v := getLE l off n
  if v < 2 ^ (8 * n - 1) then (v : Int) else (v : Int) - (2 ^ (8 * n) : Nat)

/-- The byte at `off`, zero beyond the end. -/
def byteAt (l : List Byte) (off : Nat) : Nat := (l[off]?.getD 0).toNat

/-- `n` zero bytes. -/
def zeros (n : Nat) : List Byte := List.replicate n 0

/-- Are all bytes zero? -/
def allZero (l : List Byte) : Bool := l.all (· = 0)

/-- A list cut or padded with zeros to `n` bytes. -/
def padTo (n : Nat) (l : List Byte) : List Byte := l.take n ++ zeros (n - l.length)

/-- Replace bytes of a list from `off` on; bytes that fall beyond the end are dropped. -/
def patch (l : List Byte) (off : Nat) (v : List Byte) : List Byte :=
  (l.take off ++ v ++ l.drop (off + v.length)).take l.length

/-- The bytes of a word, least significant first. -/
def wbytes (w : Word) : List Byte := leBytes 4 w.toNat

/-- Bit `i` of a word replaced. -/
def setBit (w : Word) (i : Nat) (v : Bool) : Word :=
  if v then w ||| (1#32 <<< i) else w &&& ~~~ (1#32 <<< i)

/-- One decimal BCD byte of a number below 100. -/
def bcd2 (n : Nat) : Nat := (n / 10 % 10) * 16 + n % 10

/-- Are all nibbles of the low `n` nibbles decimal digits? -/
def bcdOk : Nat → Nat → Bool
  | 0, _ => true
  | n + 1, v => decide (v % 16 ≤ 9) && bcdOk n (v / 16)

/-- The value of the low `n` BCD digits. -/
def bcdVal : Nat → Nat → Nat
  | 0, _ => 0
  | n + 1, v => v % 16 + 10 * bcdVal n (v / 16)

/-- The low `n` BCD digits of a value. -/
def toBcd : Nat → Nat → Nat
  | 0, _ => 0
  | n + 1, v => v % 10 + 16 * toBcd n (v / 10)

/-- Insert into an ascending list of numbers without repeats. -/
def insertNat (x : Nat) : List Nat → List Nat
  | [] => [x]
  | y :: t => if x < y then x :: y :: t else if x = y then y :: t else y :: insertNat x t

/-- Insert by an ascending key, after equal keys. -/
def insertBy {α : Type} (key : α → Nat) (x : α) : List α → List α
  | [] => [x]
  | y :: t => if key x < key y then x :: y :: t else y :: insertBy key x t

/-- Sort by an ascending key, keeping the order of equal keys. -/
def sortBy {α : Type} (key : α → Nat) (l : List α) : List α :=
  l.foldl (fun acc x => insertBy key x acc) []

/-! ### Vectors -/

/-- Element `i`, or `d` when there is none. -/
def vget {α : Type} {n : Nat} (v : Vector α n) (i : Nat) (d : α) : α := v[i]?.getD d

/-- Element `i` replaced; nothing when there is none. -/
def vset {α : Type} {n : Nat} (v : Vector α n) (i : Nat) (x : α) : Vector α n := v.setIfInBounds i x

/-- Element `i` updated; nothing when there is none. -/
def vup {α : Type} {n : Nat} (v : Vector α n) (i : Nat) (d : α) (k : α → α) : Vector α n :=
  vset v i (k (vget v i d))

/-! ### Association lists -/

/-- The value at a key. -/
def aget {β : Type} (l : List (Nat × β)) (k : Nat) : Option β := (l.find? (·.1 = k)).map (·.2)

/-- The value at a key put, keys rising. -/
def aput {β : Type} (k : Nat) (v : β) : List (Nat × β) → List (Nat × β)
  | [] => [(k, v)]
  | (i, x) :: t => if k < i then (k, v) :: (i, x) :: t else if k = i then (k, v) :: t else (i, x) :: aput k v t

/-- The key removed. -/
def adel {β : Type} (l : List (Nat × β)) (k : Nat) : List (Nat × β) := l.filter (·.1 ≠ k)

/-- A word of a sparse register array that reads `d` where unlisted, put in canonical form. -/
def aputd {β : Type} [DecidableEq β] (d : β) (l : List (Nat × β)) (k : Nat) (v : β) : List (Nat × β) :=
  if v = d then adel l k else aput k v l

/-! ### Sparse memories -/

/-- The byte at an address; unlisted addresses read `d`. -/
def cellGet (d : Byte) : Mem → Nat → Byte
  | [], _ => d
  | (k, v) :: t, a => if a = k then v else if a < k then d else cellGet d t a

/-- Write a byte, keeping the canonical form for the default `d`. -/
def cellSet (d : Byte) : Mem → Nat → Byte → Mem
  | [], a, b => if b = d then [] else [(a, b)]
  | (k, v) :: t, a, b =>
    if a < k then (if b = d then (k, v) :: t else (a, b) :: (k, v) :: t)
    else if a = k then (if b = d then t else (a, b) :: t)
    else (k, v) :: cellSet d t a b

/-- Every address of the list is at least `n`, addresses rise strictly, and no byte equals the default. -/
def cellsFrom (d : Byte) : Nat → Mem → Bool
  | _, [] => true
  | n, (k, v) :: t => decide (n ≤ k) && decide (v ≠ d) && cellsFrom d (k + 1) t

/-- The canonical form of a memory whose unlisted addresses read `d`. -/
def cellsWf (d : Byte) (m : Mem) : Bool := cellsFrom d 0 m

/-- The canonical form of a store (unlisted addresses read zero, log 2). -/
def Mem.wf (m : Mem) : Bool := cellsWf 0 m

/-- One byte of a store. -/
def memRead (m : Mem) (a : Nat) : Byte := cellGet 0 m a

/-- One byte of a store written. -/
def memWrite (m : Mem) (a : Nat) (b : Byte) : Mem := cellSet 0 m a b

/-- `n` bytes from an address. -/
def memBytes (m : Mem) (a : Nat) : Nat → List Byte
  | 0 => []
  | n + 1 => memRead m a :: memBytes m (a + 1) n

/-- Bytes written from an address on. -/
def memPut (m : Mem) (a : Nat) : List Byte → Mem
  | [] => m
  | b :: t => memPut (memWrite m a b) (a + 1) t

/-- The little-endian word at an address. -/
def memWord (m : Mem) (a : Nat) : Word := w32 (leNat (memBytes m a 4))

/-- All bytes from `lo` up to but not at `hi` set to zero: their entries go. -/
def memClear (m : Mem) (lo hi : Nat) : Mem := m.filter (fun c => decide (c.1 < lo) || decide (hi ≤ c.1))

/-- The bytes from `lo` up to but not at `hi`. -/
def memRange (m : Mem) (lo hi : Nat) : Mem := m.filter (fun c => decide (lo ≤ c.1) && decide (c.1 < hi))

/-- Cells laid into an empty memory: the memory that they spell, in canonical form. -/
def memOf (l : Mem) : Mem := l.foldl (fun m c => memWrite m c.1 c.2) []

/-! ### Overlays -/

/-- The bits of `v` under the mask `k`, the others from `b`. -/
def mixByte (b k v : Byte) : Byte := (b &&& ~~~ k) ||| (v &&& k)

/-- Bits of one byte added to an overlay. -/
def Ov.put (a : Nat) (k v : Byte) : Ov → Ov
  | [] => [(a, (k, v &&& k))]
  | (i, (m, x)) :: t =>
    if a < i then (a, (k, v &&& k)) :: (i, (m, x)) :: t
    else if a = i then (a, (m ||| k, mixByte x k v)) :: t
    else (i, (m, x)) :: Ov.put a k v t

/-- Whole bytes added from an address on. -/
def Ov.putBytes (o : Ov) (a : Nat) : List Byte → Ov
  | [] => o
  | b :: t => Ov.putBytes (Ov.put a 0xFF b o) (a + 1) t

/-- The later overlay `p` laid over `o`. -/
def Ov.over (o p : Ov) : Ov := p.foldl (fun acc e => Ov.put e.1 e.2.1 e.2.2 acc) o

/-- An overlay written into a memory. -/
def Ov.apply (o : Ov) (m : Mem) : Mem :=
  o.foldl (fun acc e => memWrite acc e.1 (mixByte (memRead acc e.1) e.2.1 e.2.2)) m

/-- One byte as the overlay leaves it over `b`. -/
def Ov.byte : Ov → Nat → Byte → Byte
  | [], _, b => b
  | (i, (k, v)) :: t, a, b => if a = i then mixByte b k v else Ov.byte t a b

/-- The 16-byte entries that an overlay touches, each once (02 R46). -/
def Ov.entries (o : Ov) : List Nat := o.foldl (fun acc e => insertNat (e.1 / 16) acc) []

/-- The bytes that an overlay's entries take (02 R46, R66). -/
def Ov.size (o : Ov) : Nat := 16 * (Ov.entries o).length

end Sys2Proof.Machine
end

