-- ==== Sys2Proof/Machine/State.lean ====
section
/-! DEFINITION. The state of the block as plain data: every register, store, queue and mode the spec gives it (INVENTORY.md, State), its value right after a device reset, and the reasons a step can stop. -/

namespace Sys2Proof.Machine

open Sys2Proof

/-- Why a step would end in a fault. No command of this block raises one (NOTES.md, Stops): the constructor is kept so that the outcome type has a name for an access to a place the spec says does not exist. Safe. -/
inductive Fault where
  /-- Raised by no command. Safe. -/
  | absent
  deriving DecidableEq, Repr

/-- Why a step would be refused. -/
inductive Refusal where
  /-- Raised by an arm of exec whose command has no meaning yet. Safe. -/
  | notModelled (mnemonic : String)
  deriving DecidableEq, Repr

/-- Time base, beat numbering and PTP (01, 02, 09). -/
structure Clk where
  /-- 00 (Notation), 02 R72 -/
  now : Nat
  /-- 02 R53, 19 R518 step 10 -/
  running : Bool
  /-- 02 R34, R35 -/
  beat : Nat
  /-- 02 R36, 09 R295 NET_STATUS.PTP_NUMBERING -/
  ptpNum : Bool
  /-- 02 R36 -/
  alignedPrev : Bool
  /-- 02 R97 -/
  beatAt : Nat
  /-- 02 R53 -/
  beatsRun : Nat
  /-- 02 R72 POWERED_BEAT_COUNT -/
  powered : Nat
  /-- 02 R33 -/
  p : Nat
  /-- 02 R43 -/
  adv : Nat
  /-- 02 R51 -/
  lead : Nat
  /-- 09 R271, R295 NET_STATUS.LOCKED -/
  locked : Bool
  /-- 09 R271, R295 -/
  holdover : Bool
  /-- 12 R368 selector 4 (bit 30) -/
  everLocked : Bool
  /-- 09 R271 -/
  inCount : Nat
  /-- 09 R271 -/
  outCount : Nat
  /-- 09 R295 NET_PTP_OFFSET -/
  offset : Int
  /-- 12 R368 selector 4 -/
  ptpOff : Int
  /-- 01 R21, 09 R271 -/
  freq : Int
  /-- 01 R21 -/
  slewLimited : Bool
  /-- 09 R271, R295 NET_PTP_STATE.STEPS -/
  steps : Nat
  /-- 09 R295 PORT_STATE -/
  portState : Nat
  /-- 09 R295 GM_CLASS -/
  gmClass : Nat
  /-- 09 R295 GM -/
  gm : Bool
  /-- 01 R20 -/
  refT1 : Bool
  /-- 19 R514 -/
  ppsSecond : Int
  /-- 19 R514 -/
  ppsAt : Nat
  /-- 12 R368 -/
  ptpServo : Int
  /-- 09 R281, R284 -/
  firstAt : Nat
  /-- 19 R512 -/
  ppsOut : Nat
  deriving DecidableEq, Repr

/-- Clk right after a device reset (the values INVENTORY.md lists, field by field). -/
def Clk.reset : Clk where
  now := 0
  running := false
  beat := 0
  ptpNum := false
  alignedPrev := false
  beatAt := 0
  beatsRun := 0
  powered := 0
  p := 1000
  adv := 20
  lead := 50
  locked := false
  holdover := false
  everLocked := false
  inCount := 0
  outCount := 0
  offset := 0
  ptpOff := 0
  freq := 0
  slewLimited := false
  steps := 0
  portState := 0
  gmClass := 0
  gm := false
  refT1 := false
  ppsSecond := 0
  ppsAt := 0
  ptpServo := 0
  firstAt := 0
  ppsOut := 0

/-- Register file of one lane (03 R85). -/
structure Reg where
  /-- 03 R85, R87 -/
  g : Vector Word 32
  /-- 03 R85, R87 -/
  b : Vector Bool 16
  /-- 03 R85, R87 -/
  a : Vector Word 8
  /-- 03 R85, 05 R150 -/
  md : Vector Desc 8
  /-- 03 R85, R87 -/
  ac : Vector DWord 2
  /-- 03 R85, R87 -/
  ip : Word
  /-- 03 R85, R87 -/
  rc : BitVec 16
  /-- 03 R85, R87 -/
  f0 : Flags
  /-- 03 R85, R87 -/
  f1 : Flags
  deriving DecidableEq, Repr

/-- Reg right after a device reset (the values INVENTORY.md lists, field by field). -/
def Reg.reset : Reg where
  g := (Vector.replicate 32 0)
  b := (Vector.replicate 16 false)
  a := (Vector.replicate 8 0)
  md := (Vector.replicate 8 Desc.zero)
  ac := (Vector.replicate 2 0)
  ip := 0
  rc := 0
  f0 := Flags.zero
  f1 := Flags.zero

/-- One execution lane (03, 04, 05). -/
structure Lane where
  /-- 03 R85 -/
  regs : Reg
  /-- 05 R157 -/
  link : List (Nat × Word)
  /-- 01 Memories, 05 R145 -/
  scratch : Mem
  /-- 06 R177 -/
  task : Option Nat
  /-- 03 R106 -/
  pc : Nat
  /-- 03 The exposed pipeline, R97 -/
  ready : Nat
  /-- 06 R177 -/
  firstReady : Nat
  /-- 03 R91, R94 -/
  inflight : List Landing
  /-- 03 R107 -/
  xfer : Option Transfer
  /-- 04 R142, R143 -/
  rep : Option Rep
  /-- 05 R163 -/
  wb : List Writeback
  /-- 03 R95 -/
  ended : Bool
  /-- 03 R95, 06 R177 -/
  endCyc : Nat
  /-- 03 R108 -/
  dead : Bool
  deriving DecidableEq, Repr

/-- Lane right after a device reset (the values INVENTORY.md lists, field by field). -/
def Lane.reset : Lane where
  regs := Reg.reset
  link := []
  scratch := []
  task := none
  pc := 0
  ready := 0
  firstReady := 0
  inflight := []
  xfer := none
  rep := none
  wb := []
  ended := false
  endCyc := 0
  dead := false

/-- Execution cluster (03, 06). -/
structure Cluster where
  /-- 03 R84, R85 -/
  lanes : Vector Lane 8
  /-- 03 R88, R90 -/
  x : Vector XReg 64
  /-- 03 R112 -/
  items : Vector (List IssueRec) 4
  /-- 03 R110, R117 LANE_MODE -/
  single : Bool
  /-- 03 R113 -/
  stopped : Bool
  /-- 03 R113 -/
  stopCyc : Nat
  /-- 03 R115 entry 0x4022 -/
  divRec : List Byte
  /-- 06 R177 -/
  queues : Vector (List Nat) 8
  deriving DecidableEq, Repr

/-- Cluster right after a device reset (the values INVENTORY.md lists, field by field). -/
def Cluster.reset : Cluster where
  lanes := (Vector.replicate 8 Lane.reset)
  x := (Vector.replicate 64 XReg.zero)
  items := (Vector.replicate 4 [])
  single := false
  stopped := false
  stopCyc := 0
  divRec := (List.replicate 32 0)
  queues := (Vector.replicate 8 [])

/-- Dynamic state of one task (02, 03, 06). -/
structure TaskSt where
  /-- 02 R39, R46, R47 -/
  run : Option Run
  /-- 03 R108, R109 -/
  faulted : Bool
  /-- 03 R117 FAULT_CAUSE -/
  faultCause : Nat
  /-- 03 R117 FAULT_BUNDLE -/
  faultBundle : Nat
  /-- 08 R256 -/
  faultSafe : Bool
  /-- 08 R256 -/
  safeDue : Bool
  /-- 02 R70 FIRST of the next run -/
  firstNext : Bool
  /-- 02 R63, R83 OVERRUN_COUNT -/
  overrun : Nat
  /-- 02 R52, R83 LATE_COUNT -/
  late : Nat
  /-- 02 R63, R83 TASK_STATE 3 -/
  overrunNow : Bool
  /-- 02 R83 LAST_RUN_TIME -/
  lastRunTime : Nat
  /-- 02 R54 RELIDX, R83 LAST_RELEASE_INDEX -/
  lastRel : Nat
  /-- 02 R54 COMPLETED -/
  completed : Bool
  /-- 02 R54 PENDING, LAUNCH -/
  pendingAt : Option Nat
  /-- 02 R49, R50 -/
  outs : Ov
  /-- 07 R225 step 2 -/
  dueView : Mem
  /-- 07 R225 -/
  dueBeat : Option Nat
  /-- 05 R160, 07 R225 -/
  dueCal : Word × Word
  /-- 07 R226, R241 TAKEOVER_MISSED: launch beat of the last launch before a takeover -/
  lastLaunch : Nat
  /-- 02 R61 -/
  outRun : Bool
  deriving DecidableEq, Repr

/-- TaskSt right after a device reset (the values INVENTORY.md lists, field by field). -/
def TaskSt.reset : TaskSt where
  run := none
  faulted := false
  faultCause := 0
  faultBundle := 0
  faultSafe := false
  safeDue := false
  firstNext := true
  overrun := 0
  late := 0
  overrunNow := false
  lastRunTime := 0
  lastRel := 0
  completed := false
  pendingAt := none
  outs := []
  dueView := []
  dueBeat := none
  dueCal := (0, 0)
  lastLaunch := 0
  outRun := false

/-- One shadow half (02 R46, R48, R53, R66, R68). -/
structure Half where
  /-- 02 R53, R56, 01 R18 -/
  phase : HalfPhase
  /-- 02 R54, R80 -/
  net : Ov
  /-- 02 R54 -/
  done : List (Nat × Ov)
  /-- 02 R48 -/
  kept : List (Nat × List Nat)
  /-- 02 R48, R68 -/
  keptEdit : List (Nat × List Nat)
  /-- 02 R54, R68 -/
  edits : List Batch
  /-- 02 R54, R68 -/
  snaps : List Snap
  /-- 02 R54 -/
  firstBeat : Nat
  /-- 02 R53 beats since the half opened -/
  beats : Nat
  /-- 01 R18, 07 R214 -/
  transfer : Bool
  deriving DecidableEq, Repr

/-- Half right after a device reset (the values INVENTORY.md lists, field by field). -/
def Half.reset : Half where
  phase := .free
  net := []
  done := []
  kept := []
  keptEdit := []
  edits := []
  snaps := []
  firstBeat := 0
  beats := 0
  transfer := true

/-- Store complex (02). -/
structure Store where
  /-- 01 Memories -/
  program : Mem
  /-- 02 R47, 05 R145 instance store and output images, in the L map -/
  lmem : Mem
  /-- 02 R58, R60 -/
  durable : Mem
  /-- 02 R45, 05 R145 input view last latched, in the L map -/
  inView : Mem
  /-- 02 R49, R50, 09 R292 -/
  launched : Mem
  /-- 01 Memories, 02 R53 -/
  half0 : Half
  /-- 01 Memories, 02 R53 -/
  half1 : Half
  /-- 02 R53 -/
  openHalf : Nat
  /-- 02 R53 -/
  isOpen : Bool
  /-- 02 R56, R57 -/
  journal : List Milestone
  /-- 02 R56 -/
  settling : List Milestone
  /-- 02 R55, R83 MILESTONE_COUNTER -/
  msCount : Nat
  /-- 02 R83 DURABLE_MILESTONE -/
  msDurable : Nat
  /-- 02 R54, R58 -/
  durHdr : Option Milestone
  /-- 02 Start-up (R70) -/
  warm : Bool
  /-- 02 R83 MERGE_COUNT -/
  mergeCount : Nat
  /-- 02 R83 RESERVE_REFUSALS -/
  refusals : Nat
  /-- 02 R77, R78 -/
  batches : List Batch
  /-- 11 R339 -/
  applied : List (Nat × Nat)
  /-- 11 R339 -/
  appliedDur : List (Nat × Nat)
  /-- 07 R218, 11 R340 -/
  unreported : List Batch
  /-- 11 R341 -/
  outcomes : List (Nat × (Nat × (Nat × Nat)))
  /-- 01 R16, by memory; that of the parameter store is NVP_CORR -/
  corr : Vector Nat 10
  /-- 03 R114 fail-safe halt -/
  halted : Bool
  /-- 06 R180 releases ended by an unavailable lane set -/
  noRelease : Bool
  /-- 06 R193 TABLE_IN_FORCE -/
  tableReduced : Bool
  /-- 06 R180 -/
  switching : Option Bool
  /-- 06 R180 step 1 of the switch has taken place -/
  switchStarted : Bool
  /-- 18 R503 a switch back waits -/
  switchBack : Bool
  /-- 06 R193 SWITCH_SKIPS -/
  switchSkips : Nat
  deriving DecidableEq, Repr

/-- Store right after a device reset (the values INVENTORY.md lists, field by field). -/
def Store.reset : Store where
  program := []
  lmem := []
  durable := []
  inView := []
  launched := []
  half0 := Half.reset
  half1 := Half.reset
  openHalf := 0
  isOpen := false
  journal := []
  settling := []
  msCount := 0
  msDurable := 0
  durHdr := none
  warm := false
  mergeCount := 0
  refusals := 0
  batches := []
  applied := []
  appliedDur := []
  unreported := []
  outcomes := []
  corr := (Vector.replicate 10 0)
  halted := false
  noRelease := false
  tableReduced := false
  switching := none
  switchStarted := false
  switchBack := false
  switchSkips := 0

/-- Image loading and program swap (06, 07). -/
structure Loader where
  /-- 06 R193 -/
  state : Nat
  /-- 06 R190 -/
  staged : List Byte
  /-- 06 R192 LOAD_RESULT -/
  result : List Byte
  /-- 06 R193 STAGED_DIGEST -/
  stagedDigest : List Byte
  /-- 06 R174, R190 -/
  img : Option Image
  /-- 06 R193 IMAGE_DIGEST -/
  digest : List Byte
  /-- 06 R190 an installation was interrupted -/
  installing : Bool
  /-- 07 R235, R236 -/
  converting : Bool
  /-- 07 R240 CSW_STATUS.SWAP_READY -/
  swapReady : Bool
  /-- 07 R236 -/
  conv : Mem
  /-- 07 R238 entry 0x6022 -/
  swapReport : List Byte
  deriving DecidableEq, Repr

/-- Loader right after a device reset (the values INVENTORY.md lists, field by field). -/
def Loader.reset : Loader where
  state := 0
  staged := []
  result := (List.replicate 16 0)
  stagedDigest := (List.replicate 32 0)
  img := none
  digest := (List.replicate 32 0)
  installing := false
  converting := false
  swapReady := false
  conv := []
  swapReport := []

/-- Redundancy subsystem (07). -/
structure Csw where
  /-- 07 R201, R240 CSW_STATUS.ROLE -/
  role : RoleState
  /-- 07 R240 PAIR -/
  pair : Bool
  /-- 07 R202, R240 TERM -/
  term : Nat
  /-- 07 R240 PARTNER_ROLE -/
  partnerRole : Nat
  /-- 07 R240 -/
  partnerSeen : Bool
  /-- 07 R240 PARTNER_SEEN: instant of the partner's last valid frame or burst -/
  seenAt : Nat
  /-- 07 R238 DIGEST of the image staged at the partner -/
  partnerDigest : List Byte
  /-- 07 R227 code 4 MIN_SET of that image -/
  partnerMinSet : Nat
  /-- 07 R236 the swap was abandoned here and the partner still reports SWAP_READY -/
  swapDropped : Bool
  /-- 07 R230 the old unit of a handover still claims on CWA -/
  claimOn : Bool
  /-- 07 R211 FIRST, LAST -/
  blocks : List (Nat × Nat)
  /-- 07 R214 lane of the next STREAM frame -/
  cwLane : Nat
  /-- 07 R240 -/
  hbCnt : Vector Nat 2
  /-- 07 R203 -/
  partnerTerm : Nat
  /-- 07 R212, R218 -/
  partnerDurable : Nat
  /-- 07 R212 ACK_POS of the partner -/
  partnerAck : Nat
  /-- 07 R212 LAUNCH of the partner -/
  partnerLaunch : Nat
  /-- 07 R240 REDUNDANCY_LOST -/
  redLost : Bool
  /-- 07 R240 CW0_UP, CW1_UP -/
  laneUp : Vector Bool 2
  /-- 07 R240 CWA_UP -/
  cwaUp : Bool
  /-- 07 R240 PARTNER_CLAIM -/
  claim : Bool
  /-- 07 R207 -/
  cwaMaster : Bool
  /-- 07 R207 consecutive cycles without a valid burst -/
  cwaMiss : Nat
  /-- 07 R207 consecutive 0xA5 after a claim -/
  cwaIdle : Nat
  /-- 07 R207 -/
  cwaSeenClaim : Bool
  /-- 07 R207 partner declared absent -/
  cwaAbsent : Bool
  /-- 07 R230, 13 R395 this unit drives 0xA5 -/
  withdraw : Bool
  /-- 07 R206 heartbeat declared lost -/
  hbLost : Bool
  /-- 07 R239 CSW_CAUSE -/
  cause : Word
  /-- 07 R239 CSW_CAUSE_EN -/
  causeEn : Word
  /-- 07 R240 BULK_PCT -/
  bulkPct : Nat
  /-- 07 R240 LAG -/
  lagList : List (Nat × (Nat × Option Nat))
  /-- 07 R240 LAG -/
  lag : Nat
  /-- 07 R208, R240 DELAY -/
  delay : Nat
  /-- 07 R239 CSW_RESENDS -/
  resends : Nat
  /-- 07 R240 MISS0 -/
  hbMiss0 : Nat
  /-- 07 R240 MISS1 -/
  hbMiss1 : Nat
  /-- instant of the last HEARTBEAT per lane, for CSW_HB_MISS; 07 R206, R239 -/
  hbAt : Vector Nat 2
  /-- 07 R239 CSW_FRAME_ERR -/
  frameErr : Nat
  /-- 07 R240 GAP -/
  gapUs : Nat
  /-- 07 R240 REASON -/
  gapReason : Nat
  /-- 07 R240 STATE -/
  cmdState : Nat
  /-- 07 R240 REFUSE -/
  cmdRefuse : Nat
  /-- 07 R212 KIND of the switchover in progress -/
  kind : Nat
  /-- 07 R228 -/
  handBeat : Option Nat
  /-- 07 R212 milestone closed at T(h) -/
  handMs : Nat
  /-- 07 R229 -/
  goPend : Option (Nat × Nat)
  /-- 07 R228 handover milestone closed -/
  handClosed : Bool
  /-- 07 R230 the old unit holds its outputs -/
  holdOutputs : Bool
  /-- 07 R230 -/
  heldOut : Mem
  /-- 07 R230 drivers wait for the first local launch -/
  awaitLaunch : Bool
  /-- 08 R255 row 2, R266 DRIVERS_OFF -/
  driversOff : Bool
  /-- 07 R213 stream position of the next byte to send -/
  pos : Nat
  /-- 07 R212 ACK_POS of a receiving unit -/
  ackPos : Nat
  /-- 07 R216 -/
  stream : List Byte
  /-- 07 R213, R215 -/
  rx : List Byte
  /-- 07 R214 -/
  sendMs : List Milestone
  /-- 01 R18, 07 R214 -/
  sending : Option Nat
  /-- 07 R215, R225 -/
  lastMs : Option Milestone
  /-- 07 R215 -/
  rxMs : Option Milestone
  /-- 02 R54, 07 R215 -/
  rxCheck : Nat
  /-- 07 R212 STATUS bit 3, R216 -/
  resync : Bool
  /-- 07 R219 next BULK offset -/
  bulkOff : Nat
  /-- 07 R213 BULK_END ARG -/
  bulkTotal : Nat
  /-- 07 R220 BULK_END applied -/
  bulkEnd : Bool
  /-- 07 R220 store marked complete -/
  storeComplete : Bool
  /-- 07 R209 start of the redundancy step -/
  negSince : Nat
  /-- 07 R209 NEGOTIATE or claim seen -/
  negHeard : Bool
  /-- 07 R241 LAST_TRANSITION -/
  lastTrans : List Byte
  /-- 07 R241 TAKEOVER_COUNT -/
  takeovers : Nat
  /-- 07 R241 TAKEOVER_MISSED -/
  missed : Nat
  /-- 07 R231 operating time at the last departure from ACTIVE -/
  sinceActive : Nat
  /-- 07 R231 operating time of the last DRILL_DUE -/
  drillLast : Option Nat
  /-- 07 R223, R224 -/
  takeoverPend : Option Nat
  /-- 07 R224 reference of the control gap -/
  takeoverRef : Nat
  /-- 07 R233 -/
  termNeedsConfirm : Bool
  /-- 07 R233 -/
  termConfirmed : Bool
  /-- 07 R222 -/
  failReason : Nat
  /-- 07 R525 -/
  launchPend : List (Nat × Nat × Ov)
  /-- 07 R199, 18 R494 causeway ports dark -/
  dark : Bool
  deriving DecidableEq, Repr

/-- Csw right after a device reset (the values INVENTORY.md lists, field by field). -/
def Csw.reset : Csw where
  role := .negotiating
  pair := false
  term := 0
  partnerRole := 0
  partnerSeen := false
  seenAt := 0
  partnerDigest := (List.replicate 32 0)
  partnerMinSet := 0
  swapDropped := false
  claimOn := false
  blocks := []
  cwLane := 0
  hbCnt := (Vector.replicate 2 0)
  partnerTerm := 0
  partnerDurable := 0
  partnerAck := 0
  partnerLaunch := 0
  redLost := false
  laneUp := (Vector.replicate 2 false)
  cwaUp := false
  claim := false
  cwaMaster := false
  cwaMiss := 0
  cwaIdle := 0
  cwaSeenClaim := false
  cwaAbsent := false
  withdraw := false
  hbLost := false
  cause := 0
  causeEn := 0x3FFF#32
  bulkPct := 0
  lagList := []
  lag := 0
  delay := 0
  resends := 0
  hbMiss0 := 0
  hbMiss1 := 0
  hbAt := (Vector.replicate 2 0)
  frameErr := 0
  gapUs := 0
  gapReason := 0
  cmdState := 0
  cmdRefuse := 0
  kind := 0
  handBeat := none
  handMs := 0
  goPend := none
  handClosed := false
  holdOutputs := false
  heldOut := []
  awaitLaunch := false
  driversOff := true
  pos := 0
  ackPos := 0
  stream := []
  rx := []
  sendMs := []
  sending := none
  lastMs := none
  rxMs := none
  rxCheck := 0
  resync := false
  bulkOff := 0
  bulkTotal := 0
  bulkEnd := false
  storeComplete := true
  negSince := 0
  negHeard := false
  lastTrans := (List.replicate 16 0)
  takeovers := 0
  missed := 0
  sinceActive := 0
  drillLast := none
  takeoverPend := none
  takeoverRef := 0
  termNeedsConfirm := false
  termConfirmed := false
  failReason := 0
  launchPend := []
  dark := true

/-- One field channel (08). -/
structure Chan where
  /-- 08 R244, R267 MODE in force -/
  mode : Nat
  /-- 08 R246, R267 FILTER in force -/
  filter : Nat
  /-- 08 R256, R267 SAFE_VALUE in force -/
  safeVal : Nat
  /-- 08 R252, R267 OPEN_LOAD_EN in force -/
  openEn : Bool
  /-- 08 R246 filtered value -/
  filtered : Bool
  /-- 08 R246 -/
  count : Nat
  /-- 08 R249 a first raw sample was taken -/
  sampled : Bool
  /-- 08 R246, R248 raw sample -/
  raw : Bool
  /-- 08 R251, R254 the switch conducts -/
  conduct : Bool
  /-- 08 R252, R265 FIO_OPENf -/
  openLoad : Bool
  /-- 08 R251, R265 FIO_OVLDf -/
  ovld : Bool
  /-- 08 R251 off because of a trip -/
  tripped : Bool
  /-- 08 R264 latched quality -/
  quality : Bool
  /-- 08 R256 a value was launched since FIO power-up -/
  everLaunched : Bool
  /-- 08 R254 the instant at which the channel is to switch on -/
  onAt : Option Nat
  deriving DecidableEq, Repr

/-- Chan right after a device reset (the values INVENTORY.md lists, field by field). -/
def Chan.reset : Chan where
  mode := 0
  filter := 3000
  safeVal := 0
  openEn := true
  filtered := false
  count := 0
  sampled := false
  raw := false
  conduct := false
  openLoad := false
  ovld := false
  tripped := false
  quality := false
  everLaunched := false
  onAt := none

/-- One field group (08). -/
structure FieldGroup where
  /-- 08 R266 USED -/
  used : Bool
  /-- 08 R266 RESTORE -/
  restore : Bool
  /-- 08 R266 WARN -/
  warn : Bool
  /-- 08 R266 LOW -/
  low : Bool
  /-- 08 R266 INVALID -/
  invalid : Bool
  /-- 08 R266 MISSING -/
  missing : Bool
  /-- 08 R266 HIGH -/
  high : Bool
  /-- 08 R266 OVERCURRENT -/
  overcurrent : Bool
  /-- 08 R266 QUALIFIED -/
  qualified : Bool
  /-- 19 R508 first qualification since FIO power-up -/
  everQualified : Bool
  /-- 08 R266 OFF -/
  off : Bool
  /-- 08 R260 -/
  qualCount : Nat
  /-- 08 R259 the sample before the last -/
  prevMv : Nat
  /-- 08 R266 VOLTAGE -/
  mv : Nat
  /-- 08 R266 CURRENT -/
  ma : Nat
  /-- 08 R262 re-application due at the next boundary -/
  reapply : Bool
  /-- 08 R259 samples taken since FIO power-up, up to 2 -/
  seen : Nat
  /-- 08 R264 crossed 15.0 V since its last qualification -/
  crossed15 : Bool
  deriving DecidableEq, Repr

/-- FieldGroup right after a device reset (the values INVENTORY.md lists, field by field). -/
def FieldGroup.reset : FieldGroup where
  used := true
  restore := false
  warn := false
  low := false
  invalid := false
  missing := false
  high := false
  overcurrent := false
  qualified := false
  everQualified := false
  off := false
  qualCount := 0
  prevMv := 0
  mv := 0
  ma := 0
  reapply := false
  seen := 0
  crossed15 := false

/-- Field input/output subsystem (08). -/
structure Fio where
  /-- 08 R242 -/
  chans : Vector Chan 512
  /-- 08 R242, R259 -/
  groups : Vector FieldGroup 8
  /-- 08 R265 FIO_CAUSE -/
  cause : Word
  /-- 08 R265 FIO_CAUSE_EN -/
  causeEn : Word
  /-- 08 R257, R266 TIMEOUT -/
  timeout : Nat
  /-- 08 R266 EXPIRED -/
  expired : Bool
  /-- 08 R266 CONFIG_PENDING -/
  pendingCfg : Bool
  /-- 08 R258 output release done -/
  released : Bool
  /-- 08 R256 a launch has occurred since the output release -/
  launchSeen : Bool
  /-- 08 R266 HALT_SAFE -/
  haltSafe : Bool
  deriving DecidableEq, Repr

/-- Fio right after a device reset (the values INVENTORY.md lists, field by field). -/
def Fio.reset : Fio where
  chans := (Vector.replicate 512 Chan.reset)
  groups := (Vector.replicate 8 FieldGroup.reset)
  cause := 0
  causeEn := 0xFFF#32
  timeout := 10
  expired := false
  pendingCfg := false
  released := false
  launchSeen := false
  haltSafe := false

/-- One station slot of a controller (09). -/
structure Slot where
  /-- 09 R283, R294 NET_STALEw -/
  stale : Bool
  /-- 09 R291, R294 NET_REJOINw -/
  rejoin : Bool
  /-- 09 R283 VALID at the last latch -/
  valid : Bool
  /-- 09 R292 READMIT_ACK since REJOINING -/
  acked : Bool
  /-- 02 R44, 09 R282 -/
  frames : List (Nat × List Byte)
  /-- 09 R282 -/
  lastBeat0 : Option Nat
  /-- 09 R282 -/
  lastBeat1 : Option Nat
  /-- 09 R283 -/
  qual : List Byte
  /-- 07 R203, 09 R276 -/
  accTerm : Nat
  /-- 09 R276 -/
  accNode : Nat
  /-- 09 R284 -/
  sentFor : List Nat
  deriving DecidableEq, Repr

/-- Slot right after a device reset (the values INVENTORY.md lists, field by field). -/
def Slot.reset : Slot where
  stale := false
  rejoin := false
  valid := false
  acked := false
  frames := []
  lastBeat0 := none
  lastBeat1 := none
  qual := (List.replicate 16 0)
  accTerm := 0
  accNode := 0xFFFF
  sentFor := []

/-- Network subsystem (09). -/
structure Net where
  /-- 09 R295 LINK -/
  link : BitVec 6
  /-- 09 R295 PRP_DEGRADED -/
  prpDeg : BitVec 2
  /-- 09 R294 NET_CAUSE -/
  cause : Word
  /-- 09 R294 NET_CAUSE_EN -/
  causeEn : Word
  /-- 09 R294 NET_RX_ERR -/
  rxErr : Nat
  /-- 09 R294 NET_RX_LATE -/
  rxLate : Nat
  /-- 09 R294 NET_SUPERSEDED -/
  superseded : Nat
  /-- 09 R294 NET_TX_LATE -/
  txLate : Nat
  /-- 09 R294 NET_TERM_REJECT -/
  termReject : Nat
  /-- 09 R294 NET_PRP_DUP -/
  prpDup : Nat
  /-- 09 R269 duplicate discard -/
  seen : List (Nat × List Byte)
  /-- 09 R269 -/
  prpSeq : Vector Nat 2
  /-- 09 R280 -/
  slots : Vector Slot 256
  /-- 09 R295 VALID_SLOTS -/
  validSlots : Nat
  /-- 09 R284 -/
  txq : List TxFrame
  /-- 09 R293 instant at which the port's line is free of the frames sent -/
  lineAt : Vector Nat 6
  /-- 09 R285 -/
  unacked : List TxFrame
  /-- 09 R286 station: accepted term -/
  accTerm : Nat
  /-- 09 R286 station: accepted node -/
  accNode : Nat
  /-- 09 R286 -/
  buf : List (List Byte)
  /-- 09 R286, R288 -/
  lastApp0 : List (Nat × Nat)
  /-- 09 R286, R288 -/
  lastApp1 : List (Nat × Nat)
  /-- 09 R286 check 6 -/
  ptpApplied : Bool
  /-- 09 R276 STATE.HOLD -/
  lastHold : Bool
  /-- 09 R291 STATE.REJOIN -/
  stRejoin : Bool
  /-- 09, 07, 11 -/
  sent : List Sent
  deriving DecidableEq, Repr

/-- Net right after a device reset (the values INVENTORY.md lists, field by field). -/
def Net.reset : Net where
  link := 0
  prpDeg := 0
  cause := 0
  causeEn := 0xFFF#32
  rxErr := 0
  rxLate := 0
  superseded := 0
  txLate := 0
  termReject := 0
  prpDup := 0
  seen := []
  prpSeq := (Vector.replicate 2 0)
  slots := (Vector.replicate 256 Slot.reset)
  validSlots := 0
  txq := []
  lineAt := (Vector.replicate 6 0)
  unacked := []
  accTerm := 0
  accNode := 0xFFFF
  buf := []
  lastApp0 := []
  lastApp1 := []
  ptpApplied := false
  lastHold := false
  stRejoin := true
  sent := []

/-- One CAN message buffer (10). -/
structure CanBuf where
  /-- 10 R318 CANn_BCFGb -/
  cfg : Word
  /-- 10 R318 CANn_BIDb -/
  fid : Word
  /-- 10 R318 CANn_BMASKb -/
  mask : Word
  /-- 10 R320 IMAGE_BASE in force -/
  base : Nat
  /-- 10 R300, R303, R306 -/
  frame : List Word
  /-- 10 R319 NEW -/
  new : Bool
  /-- 10 R319 LOCKED -/
  locked : Bool
  /-- 10 R319 OVERWRITE -/
  overwrite : Bool
  /-- 10 R306, R319 QLEVEL -/
  queue : List CanTx
  /-- 10 R319 IN_TX -/
  inTx : Bool
  /-- 10 R319 MISSED -/
  missed : Bool
  /-- 10 R319 ABORTED -/
  aborted : Bool
  /-- 10 R319 LATE -/
  late : Bool
  /-- 10 R309 -/
  lastSeq : Option Nat
  /-- 10 R308 -/
  rxCount : Nat
  /-- 10 R309 disabled at start-up -/
  disabled : Bool
  /-- 10 R306 the frame in transmission is not retried -/
  abortReq : Bool
  deriving DecidableEq, Repr

/-- CanBuf right after a device reset (the values INVENTORY.md lists, field by field). -/
def CanBuf.reset : CanBuf where
  cfg := 0
  fid := 0
  mask := 0
  base := 0
  frame := []
  new := false
  locked := false
  overwrite := false
  queue := []
  inTx := false
  missed := false
  aborted := false
  late := false
  lastSeq := none
  rxCount := 0
  disabled := false
  abortReq := false

/-- One CAN FD port (10). -/
structure Can where
  /-- 10 R299 -/
  bufs : Vector CanBuf 64
  /-- 10 R319 STATUS.INIT -/
  offBus : Bool
  /-- 10 R319 BUS_IDLE -/
  idle : Bool
  /-- 10 R318 CANn_CAUSE -/
  cause : Word
  /-- 10 R318 CANn_CAUSE_EN -/
  causeEn : Word
  /-- 10 R318 CANn_CTRL -/
  ctrl : Word
  /-- 10 R318 CANn_NBT -/
  nbt : Word
  /-- 10 R318 CANn_DBT -/
  dbt : Word
  /-- 10 R318 CANn_TDC -/
  tdc : Word
  /-- 10 R312, R319 TEC -/
  txErr : Nat
  /-- 10 R312, R319 REC -/
  rxErr : Nat
  /-- 10 R313, R319 STATE 2 -/
  busOff : Bool
  /-- 10 R319 RECOVERING -/
  recovering : Bool
  /-- 10 R319 LEC -/
  lec : Nat
  /-- 10 R319 DLEC -/
  dlec : Nat
  /-- 10 R319 FIFO_FULL -/
  dropFull : Nat
  /-- 10 R319 UNMATCHED -/
  dropUnm : Nat
  /-- 10 R318 CANn_TXDROP -/
  txDrop : Nat
  /-- 10 R318 CANn_MISSED -/
  missed : Nat
  /-- 10 R318 CANn_REF -/
  ref : Word
  /-- 10 R303, R319 LEVEL -/
  fifo : List (Nat × List Word)
  /-- 10 R319 HEAD_LOCKED -/
  fifoLock : Bool
  /-- 10 R318 CANn_BUFSEL -/
  bufSel : Nat
  /-- 10 R318 CANn_GATEg -/
  gates : List (Nat × Word)
  /-- 10 R318 CANn_CELLw -/
  cells : List (Nat × Word)
  /-- 10 R310 -/
  stamp : Nat
  /-- 10 R315 -/
  window : Option (Nat × Nat)
  /-- 10 R315 the frame of the open window has started -/
  winStarted : Bool
  /-- 10 R315 the reference frame of the open window has not started -/
  refPending : Bool
  /-- 10 R310 queue stamp of the reference frame -/
  refStamp : Nat
  /-- 10 R315 gate mode not entered (an offset not below P) -/
  gateOff : Bool
  /-- 10 R310 -/
  current : Option (Nat × CanTx)
  /-- 10 R317 transceiver powered -/
  xcvr : Bool
  /-- 11 R343 -/
  partUnit : List Byte
  /-- 11 R343 -/
  partialSeq : Option Nat
  /-- 11 R350 KIVASEL_SEG_ERR -/
  segErr : Nat
  /-- 11 R343 -/
  kvOut : List (List Word)
  deriving DecidableEq, Repr

/-- Can right after a device reset (the values INVENTORY.md lists, field by field). -/
def Can.reset : Can where
  bufs := (Vector.replicate 64 CanBuf.reset)
  offBus := true
  idle := false
  cause := 0
  causeEn := 0x1FFF#32
  ctrl := 0x15#32
  nbt := 0x078F3E00#32
  dbt := 0x03030E00#32
  tdc := 0x00000F01#32
  txErr := 0
  rxErr := 0
  busOff := false
  recovering := false
  lec := 0
  dlec := 0
  dropFull := 0
  dropUnm := 0
  txDrop := 0
  missed := 0
  ref := 0
  fifo := []
  fifoLock := false
  bufSel := 0
  gates := []
  cells := []
  stamp := 0
  window := none
  winStarted := false
  refPending := false
  refStamp := 0
  gateOff := false
  current := none
  xcvr := false
  partUnit := []
  partialSeq := none
  segErr := 0
  kvOut := []

/-- Object dictionary and Kivasel (11). -/
structure Dict where
  /-- 11 R325 -/
  stored : List (Nat × List Byte)
  /-- 11 R325 -/
  force : List (Nat × List Byte)
  /-- 11 R325 -/
  atBoundary : List (Nat × List Byte)
  /-- 13 R413, 14 R425 -/
  volatile : List (Nat × List Byte)
  /-- 11 R336 -/
  queue : List (KChan × List Byte)
  /-- 11 R333 -/
  sessions : List Session
  /-- 11 R335 -/
  session0 : Session
  /-- 11 R350 QUEUE_BUSY -/
  busyCount : Nat
  /-- 11 R350 AUTH_FAILURES -/
  authFail : Nat
  /-- 11 R334 -/
  lockedOut : List KChan
  /-- 11 R327 -/
  pubMap : List PubEntry
  /-- 11 R327 -/
  pubStaged : List Byte
  /-- 11 R328 -/
  pubNext : Option (List PubEntry)
  /-- 11 R328 -/
  pubPend : List PubEntry
  /-- 11 R329 -/
  pubSnap : Mem
  /-- 11 R329 -/
  pubView : Mem
  /-- 16 R470 step 1: requests answered BUSY -/
  parked : Bool
  /-- 11 R346 ODX_REQi -/
  odxReq : Mem
  /-- 11 R346 ODX_RESPi, RESP_LEN -/
  odxResp : List Byte
  /-- 11 R346 ODX_REQ_LEN -/
  odxLen : Nat
  /-- 11 R346 BUSY -/
  odxBusy : Bool
  /-- 11 R346 RESP_READY -/
  odxReady : Bool
  /-- 11 R346 ODX_CAUSE -/
  odxCause : Word
  /-- 11 R346 ODX_CAUSE_EN -/
  odxCauseEn : Word
  /-- 11 R347, 12 R373 SYS_FUSE -/
  fuses : BitVec 4
  /-- 11 R348 -/
  blowing : List Nat
  /-- 11 R350 RESTORE_DEFAULTS pending -/
  restoreDef : Bool
  /-- 11 R349 S1 detached -/
  usbOff : Bool
  /-- 18 R504 entry 0x2010 -/
  modeRefusal : List Byte
  deriving DecidableEq, Repr

/-- Dict right after a device reset (the values INVENTORY.md lists, field by field). -/
def Dict.reset : Dict where
  stored := []
  force := []
  atBoundary := []
  volatile := []
  queue := []
  sessions := []
  session0 := Session.odx
  busyCount := 0
  authFail := 0
  lockedOut := []
  pubMap := []
  pubStaged := []
  pubNext := none
  pubPend := []
  pubSnap := []
  pubView := []
  parked := false
  odxReq := []
  odxResp := []
  odxLen := 16
  odxBusy := false
  odxReady := false
  odxCause := 0
  odxCauseEn := 7#32
  fuses := 0
  blowing := []
  restoreDef := false
  usbOff := false
  modeRefusal := (List.replicate 16 0)

/-- Per-master register instances (12, 13, 15, 16, 17). -/
structure MasterRegs where
  /-- 12 R369 MBX_SEL -/
  mbxSel : Nat
  /-- 12 R369 VALID -/
  mbxValid : Bool
  /-- 12 R369 WORDS -/
  mbxWords : Nat
  /-- 12 R367 a latch is due -/
  mbxPending : Bool
  /-- 12 R369 STATUS.SEL -/
  mbxLatched : Nat
  /-- 12 R369 MBX_DATAi -/
  mbxData : List Word
  /-- 13 R412 EVR_CURSOR -/
  cursor : Nat
  /-- 13 R412 EVR_WINi -/
  window : List Byte
  /-- 13 R410 -/
  winSeq : Option Nat
  /-- 13 R412 STATUS.GAP -/
  gap : Bool
  /-- 15 R456 BUSY -/
  nvpBusy : Bool
  /-- 15 R456 UNCORR -/
  nvpUncorr : Bool
  /-- 15 R456 RECORD_TIE -/
  nvpTie : Bool
  /-- 15 R456 RESULT -/
  nvpResult : Nat
  /-- 15 R456 RECORD -/
  nvpRec : Nat
  /-- 15 R456 LENGTH -/
  nvpLen : Nat
  /-- 15 R456 PAGE -/
  nvpPage : Nat
  /-- 15 R456 GROUP -/
  nvpGroup : Nat
  /-- 15 R456 COUNT -/
  nvpCount : Nat
  /-- 15 R455 NVP_BUFi -/
  nvpBuf : Mem
  /-- 16 R476 DONE -/
  snapDone : Bool
  /-- 16 R476 CAL_VALID -/
  snapValid : Bool
  /-- 16 R475 RTC_SNAP_DATE -/
  snapDate : Word
  /-- 16 R475 RTC_SNAP_TIME -/
  snapTime : Word
  /-- 16 R475 RTC_SNAP_SUB -/
  snapSub : Word
  /-- 16 R475 RTC_SET_DATE -/
  setDate : Word
  /-- 16 R475 RTC_SET_TIME -/
  setTime : Word
  /-- 16 R475 RTC_SET_SUB -/
  setSub : Word
  /-- 17 R491 MET_AUDIT_SEL -/
  auditSel : Nat
  /-- 17 MET registers -/
  metLatch : List (Nat × List Byte)
  deriving DecidableEq, Repr

/-- MasterRegs right after a device reset (the values INVENTORY.md lists, field by field). -/
def MasterRegs.reset : MasterRegs where
  mbxSel := 0
  mbxValid := false
  mbxWords := 0
  mbxPending := false
  mbxLatched := 0
  mbxData := [0, 0, 0]
  cursor := 0
  window := []
  winSeq := none
  gap := false
  nvpBusy := false
  nvpUncorr := false
  nvpTie := false
  nvpResult := 0
  nvpRec := 768
  nvpLen := 0
  nvpPage := 0
  nvpGroup := 0
  nvpCount := 1
  nvpBuf := []
  snapDone := false
  snapValid := false
  snapDate := 0
  snapTime := 0
  snapSub := 0
  setDate := 0x20000101#32
  setTime := 0
  setSub := 0
  auditSel := 0
  metLatch := []

/-- Register fabric, host port, interrupts and SYS block (12). -/
structure HostSt where
  /-- 12 R367 -/
  regs : Vector MasterRegs 5
  /-- 12 R355 -/
  rdata : List Word
  /-- 12 R372 SYS_ACCESS_FAULT -/
  fault : Word
  /-- 12 R372 SYS_ACCESS_ADDR -/
  faultAddr : Nat
  /-- 12 R373 SYS_ROLE.NEXT -/
  roleNext : Nat
  /-- 12 R372 SYS_EXE_CAUSE -/
  exeCause : Word
  /-- 12 R372 -/
  exeCauseEn : Word
  /-- 12 R372 SYS_TASK_CAUSE -/
  taskCause : Word
  /-- 12 R372 SYS_MEM_CAUSE -/
  memCause : Word
  /-- 12 R372 -/
  memCauseEn : Word
  /-- 12 R372 SYS_POWER_CAUSE -/
  powerCause : Word
  /-- 12 R358 HOST_RDY -/
  ready : Bool
  /-- 12 R383 PRIV -/
  priv : Bool
  /-- 12 R383 LOCKOUT -/
  lockout : Bool
  /-- 12 R383 NONCE_FRESH -/
  fresh : Bool
  /-- 12 R383 HPT_NONCEi -/
  nonce : List Byte
  /-- 12 R383 HPT_PROOFi -/
  proof : List Byte
  /-- 12 R383 HPT_CAUSE -/
  hptCause : Word
  /-- 12 R383 -/
  hptCauseEn : Word
  /-- 12 R379 INT_ROUTEn -/
  routes : List (Nat × Nat)
  /-- 12 R375, R382 INT_SERVw -/
  serving : List (Nat × Nat)
  /-- 12 R375, R382 INT_COUNTn -/
  counts : List (Nat × Nat)
  /-- 11 R524, 12 R373 -/
  hwRev : Nat
  /-- 11 R524 PRODUCT_CODE -/
  code : Bool
  /-- 11 R524 -/
  serial : Nat
  /-- 11 R524 -/
  vendor : Nat
  deriving DecidableEq, Repr

/-- HostSt right after a device reset (the values INVENTORY.md lists, field by field). -/
def HostSt.reset : HostSt where
  regs := (Vector.replicate 5 MasterRegs.reset)
  rdata := []
  fault := 0
  faultAddr := 0
  roleNext := 0
  exeCause := 0
  exeCauseEn := 0xFF#32
  taskCause := 0
  memCause := 0
  memCauseEn := 7#32
  powerCause := 0
  ready := false
  priv := false
  lockout := false
  fresh := false
  nonce := (List.replicate 16 0)
  proof := (List.replicate 32 0)
  hptCause := 0
  hptCauseEn := 7#32
  routes := []
  serving := []
  counts := []
  hwRev := 1
  code := false
  serial := 1
  vendor := 1

/-- One waymark slot (13). -/
structure WSlot where
  /-- 13 R398 PERIOD -/
  period : Nat
  /-- 13 R398 WINDOW_OPEN -/
  winOpen : Nat
  /-- 13 R398 OWNER -/
  owner : Nat
  /-- 13 R398 NUMBER -/
  number : Nat
  /-- 13 R397 WDG_ARMED -/
  armed : Bool
  /-- 13 R397 WDG_WARNED -/
  warned : Bool
  /-- 13 R389 S -/
  start : Nat
  /-- 13 R398 CHECKED -/
  checked : Bool
  /-- 13 R398 FIRST_PERIOD -/
  first : Bool
  /-- 13 R390 the current period has failed -/
  failed : Bool
  /-- 13 R394 the previous period failed -/
  prevFailed : Bool
  /-- 13 R398 LAST_KIND -/
  lastKind : Nat
  /-- 13 R398 EXTRA -/
  extra : Nat
  /-- 13 R398 FAILS -/
  fails : Nat
  deriving DecidableEq, Repr

/-- WSlot right after a device reset (the values INVENTORY.md lists, field by field). -/
def WSlot.reset : WSlot where
  period := 1000
  winOpen := 0
  owner := 0
  number := 0
  armed := false
  warned := false
  start := 0
  checked := false
  first := false
  failed := false
  prevFailed := false
  lastKind := 0
  extra := 0
  fails := 0

/-- Watchdog (13). -/
structure Wdg where
  /-- 13 R384 -/
  slots : Vector WSlot 32
  /-- 13 R397 WDG_CAUSE -/
  cause : Word
  /-- 13 R397 -/
  causeEn : Word
  /-- 13 R398 WDG_FIRST.SLOT -/
  firstSlot : Nat
  /-- 13 R398 WDG_FIRST.KIND -/
  firstKind : Nat
  /-- 13 R398 WDG_FIRST.VALID -/
  firstValid : Bool
  /-- 13 R392 -/
  firstAt : Nat
  /-- 13 R396, R398 -/
  resets : Nat
  /-- 13 R398 LAST_SLOT -/
  lastSlot : Nat
  /-- 13 R398 LAST_KIND -/
  lastKind : Nat
  /-- 13 R395 -/
  resetting : Option (Nat × Nat × Nat)
  deriving DecidableEq, Repr

/-- Wdg right after a device reset (the values INVENTORY.md lists, field by field). -/
def Wdg.reset : Wdg where
  slots := (Vector.replicate 32 WSlot.reset)
  cause := 0
  causeEn := 0xFFFFFFFF#32
  firstSlot := 0
  firstKind := 0
  firstValid := false
  firstAt := 0
  resets := 0
  lastSlot := 0
  lastKind := 0
  resetting := none

/-- Event recorder (13). -/
structure Evr where
  /-- 13 R399 -/
  recs : List Rec
  /-- 13 R412 EVR_HEAD -/
  nextSeq : Nat
  /-- 13 R403 -/
  queue : List Occ
  /-- 13 R412 EVR_CAUSE -/
  cause : Word
  /-- 13 R412 -/
  causeEn : Word
  /-- 13 R412 EVR_LEVEL -/
  level : Nat
  /-- 13 R412 EVR_DROPv -/
  drops : Vector Nat 8
  /-- 13 R411, R412 CLEARING -/
  clearing : Option Nat
  /-- 13 R411 -/
  removed : Nat
  /-- 13 R406 -/
  indexed : Bool
  deriving DecidableEq, Repr

/-- Evr right after a device reset (the values INVENTORY.md lists, field by field). -/
def Evr.reset : Evr where
  recs := []
  nextSeq := 0
  queue := []
  cause := 0
  causeEn := 0x3F#32
  level := 3
  drops := (Vector.replicate 8 0)
  clearing := none
  removed := 0
  indexed := false

/-- Trace and replay (14). -/
structure Trc where
  /-- 14 R415 -/
  items : List TItem
  /-- 14 R415 -/
  pos : Nat
  /-- 14 R433 STATE -/
  st : Nat
  /-- 14 R424 -/
  postLeft : Nat
  /-- 14 R422 an anchor is requested -/
  anchorReq : Bool
  /-- 14 R422 the time of the last request -/
  anchorAt : Nat
  /-- 14 R420 -/
  anchorCopy : Option Nat
  /-- 14 R433 -/
  anchorBeat : Nat
  /-- 14 R422 -/
  anchorPos : Nat
  /-- 14 R422 -/
  anchorWait : Nat
  /-- 14 R433 TRC_CAUSE -/
  cause : Word
  /-- 14 R433 -/
  causeEn : Word
  /-- 14 R423, R433 TRC_CAPACITY -/
  cap : Nat
  /-- 14 R423 -/
  lost : Nat
  /-- 14 R427 -/
  streamPos : Nat
  /-- 14 R433 STREAMING -/
  streaming : Bool
  /-- 14 R427 GAP in the next datagram -/
  gapNext : Bool
  /-- 14 R433 TRC_STREAM_SKIP -/
  skip : Nat
  /-- 14 R433 TRC_CORRUPT -/
  corrupt : Nat
  /-- 14 R416 INPUT_DELTA -/
  prevView : Mem
  /-- 14 R416 -/
  beatBuf : List TItem
  /-- 14 R416 -/
  runs : List Byte
  /-- 14 R416 -/
  stations : List StnIn
  /-- 14 R416 -/
  cans : List CanIn
  /-- 14 R433 REPLAY_STATE -/
  replay : Nat
  /-- 14 R433 -/
  replayBeat : Nat
  /-- 14 R428 -/
  load : List Byte
  /-- 11 R331, 14 R428 -/
  loadPart : List Byte
  /-- 14 R429 -/
  replayItems : List TItem
  /-- 14 R430 -/
  replayRuns : List Byte
  /-- 14 R432 ANCHOR_BEAT -/
  replayFrom : Nat
  /-- 14 R432 -/
  report : List Byte
  /-- 14 R429 recorded MFTASK 5 -/
  mftask5 : Word
  /-- 14 R429 recorded MFTASK 6 -/
  mftask6 : Word
  deriving DecidableEq, Repr

/-- Trc right after a device reset (the values INVENTORY.md lists, field by field). -/
def Trc.reset : Trc where
  items := []
  pos := 0
  st := 0
  postLeft := 0
  anchorReq := false
  anchorAt := 0
  anchorCopy := none
  anchorBeat := 0
  anchorPos := 0
  anchorWait := 0
  cause := 0
  causeEn := 0xFF#32
  cap := 2147483648
  lost := 0
  streamPos := 0
  streaming := false
  gapNext := false
  skip := 0
  corrupt := 0
  prevView := []
  beatBuf := []
  runs := []
  stations := []
  cans := []
  replay := 0
  replayBeat := 0
  load := []
  loadPart := []
  replayItems := []
  replayRuns := []
  replayFrom := 0
  report := (List.replicate 64 0)
  mftask5 := 0
  mftask6 := 0

/-- Parameter store (15). -/
structure Nvp where
  /-- 15 R435, R442 -/
  pages : List (Nat × Page)
  /-- 15 NVP registers -/
  cmds : List NvpCmd
  /-- 15 R435 -/
  step : Option PageStep
  /-- 15 R437 -/
  marker : Option (Nat × Bool)
  /-- 15 R456 READY -/
  ready : Bool
  /-- 15 R456 FIRST_PASS -/
  firstPass : Bool
  /-- 15 R448 the pass history exists -/
  history : Bool
  /-- 15 R456 WORN -/
  worn : Bool
  /-- 15 R455 NVP_CAUSE -/
  cause : Word
  /-- 15 R455 -/
  causeEn : Word
  /-- 15 R456 PROT -/
  prot : Nat
  /-- 15 R456 LOCK -/
  lock : Bool
  /-- 00 R7, R9 NVP_PROTECT has been written, or LOCK was set, since reset -/
  lockWl : Bool
  /-- 15 R456 USED -/
  spares : Nat
  /-- 15 R449 -/
  remaps : List (Nat × Nat)
  /-- 15 R456 SPARES.LAST_PAGE -/
  lastRemap : Nat
  /-- 15 R450 -/
  readOnly : List Nat
  /-- 15 R456 TORN.LAST_PAGE -/
  tornPage : Nat
  /-- 15 R456 TORN.COUNT -/
  tornCount : Nat
  /-- 15 R456 WAX.PAGE -/
  waxPage : Nat
  /-- 15 R456 WAX_ACTIVE -/
  waxActive : Bool
  /-- 15 R447 a pass is in progress -/
  waxRunning : Bool
  /-- 15 R447 back to back after 7 days -/
  waxLate : Bool
  /-- 15 R456 HOURS: when the last full pass completed -/
  waxDone : Nat
  /-- 15 R447 when the last pass began -/
  waxBegan : Nat
  /-- 15 R457 WAX_ENABLE in force -/
  waxOn : Bool
  /-- 15 R456 NVP_CORR -/
  corr : Nat
  /-- 18 R500 -/
  rawHit : List Nat
  deriving DecidableEq, Repr

/-- Nvp right after a device reset (the values INVENTORY.md lists, field by field). -/
def Nvp.reset : Nvp where
  pages := []
  cmds := []
  step := none
  marker := none
  ready := false
  firstPass := false
  history := false
  worn := false
  cause := 0
  causeEn := 0x3F#32
  prot := 0
  lock := false
  lockWl := false
  spares := 0
  remaps := []
  lastRemap := 0
  readOnly := []
  tornPage := 0
  tornCount := 0
  waxPage := 0
  waxActive := false
  waxRunning := false
  waxLate := false
  waxDone := 0
  waxBegan := 0
  waxOn := true
  corr := 0
  rawHit := []

/-- One firmware bank (15). -/
structure Bank where
  /-- 15 R451 -/
  bytes : Mem
  /-- 15 R452 -/
  bad : List Nat
  deriving DecidableEq, Repr

/-- Bank right after a device reset (the values INVENTORY.md lists, field by field). -/
def Bank.reset : Bank where
  bytes := []
  bad := []

/-- Firmware store (15). -/
structure Fw where
  /-- 15 R451 -/
  bank0 : Bank
  /-- 15 R451 -/
  bank1 : Bank
  /-- 15 R453 -/
  active : Option Nat
  /-- 15 R453 -/
  load : Option FwLoad
  /-- 15 R457 FW_RESULT -/
  result : Nat
  /-- 13 R395, R400 code 0x3007 -/
  invalidated : Option Nat
  deriving DecidableEq, Repr

/-- Fw right after a device reset (the values INVENTORY.md lists, field by field). -/
def Fw.reset : Fw where
  bank0 := Bank.reset
  bank1 := Bank.reset
  active := none
  load := none
  result := 0
  invalidated := none

/-- Always-on block: calendar, wake, retained counters (16). -/
structure Rtc where
  /-- 16 R458, R460 -/
  date : Word
  /-- 16 R458, R460 -/
  time : Word
  /-- 16 R458 -/
  sub : Nat
  /-- 16 R466, R467 -/
  ticks : Nat
  /-- 16 R476 VALID -/
  valid : Bool
  /-- 16 R476 WRAP -/
  wrap : Bool
  /-- 16 R476 BADSET -/
  badset : Bool
  /-- 16 R476 OSC_STOP -/
  oscStop : Bool
  /-- 16 R463, R476 SET_BUSY -/
  setBusy : Option (Word × Word × Nat)
  /-- 16 R475 RTC_CAUSE -/
  cause : Word
  /-- 16 R475 -/
  causeEn : Word
  /-- 16 R476 CAP -/
  trim : Nat
  /-- 16 R465 -/
  trimNext : Option Nat
  /-- 16 R476 SHIFT.COUNT -/
  shift : Int
  /-- 16 R466 -/
  shiftTicks : Nat
  /-- 16 R476 -/
  alarmDate : Word
  /-- 16 R476 -/
  alarmTime : Word
  /-- 16 R476 INTERVAL -/
  interval : Nat
  /-- 16 R476 -/
  wakeEn : BitVec 6
  /-- 16 R476 -/
  wakePend : BitVec 6
  /-- 16 R476 WAKE_SRC -/
  wakeSrc : BitVec 6
  /-- 16 R476 ABORT_SRC -/
  abortSrc : BitVec 6
  /-- 16 R474, R476 -/
  pwrCycles : Nat
  /-- 16 R474, 12 R368 selector 3 -/
  opMs : Nat
  deriving DecidableEq, Repr

/-- Rtc right after a device reset (the values INVENTORY.md lists, field by field). -/
def Rtc.reset : Rtc where
  date := 0x20000101#32
  time := 0
  sub := 0
  ticks := 0
  valid := false
  wrap := false
  badset := false
  oscStop := false
  setBusy := none
  cause := 0
  causeEn := 0x3F#32
  trim := 32
  trimNext := none
  shift := 0
  shiftTicks := 0
  alarmDate := 0x20000101#32
  alarmTime := 0
  interval := 0
  wakeEn := 4#6
  wakePend := 0
  wakeSrc := 0
  abortSrc := 0
  pwrCycles := 0
  opMs := 0

/-- Power states, supplies and start-up (16, 19). -/
structure Pwr where
  /-- 16 R469, 12 R373 -/
  state : PowerState
  /-- 01 R23, 12 R373 DOMAINS -/
  domains : BitVec 12
  /-- 00 R1, 12 R373 SYS_ROLE.ROLE -/
  role : Role
  /-- 16 R470 -/
  parkReq : Nat
  /-- 16 R469, 19 R505 VIN at the pin -/
  vinMv : Nat
  /-- 19 R506 VBAK at the pin -/
  vbakMv : Nat
  /-- 19 R506 -/
  aoRunning : Bool
  /-- instant at which the start-up completed -/
  runAt : Nat
  /-- instant of the last copy of the power-cycle record -/
  recordAt : Nat
  /-- instant at which the start-up began, for START_REPORT; 19 R521 -/
  startAt : Nat
  /-- 19 R521, R523 -/
  report : List Byte
  /-- 19 R518 start-up completed -/
  started : Bool
  /-- 19 R517 reference of the coming start-up -/
  ref : StartRef
  /-- 19 R520 start-up stopped -/
  stopped : Bool
  /-- 15 R435 a SYS_RESET waits for the page step in progress -/
  resetPend : Bool
  /-- 19 R522 boot ROM recovery service -/
  recovery : Bool
  /-- 19 R523 BACKPLATE_TEMP -/
  temp : Int
  /-- 19 R523 OVER_TEMP -/
  overTemp : Bool
  /-- 19 R523 -/
  thermalStops : Nat
  /-- 19 R510 start-up held -/
  thermalHold : Bool
  /-- 16 R469 VIN below 9 V -/
  vinLow : Bool
  deriving DecidableEq, Repr

/-- Pwr right after a device reset (the values INVENTORY.md lists, field by field). -/
def Pwr.reset : Pwr where
  state := .run
  domains := 0x003#12
  role := .controller
  parkReq := 0
  vinMv := 24000
  vbakMv := 3000
  aoRunning := true
  runAt := 0
  recordAt := 0
  startAt := 0
  report := (List.replicate 16 0)
  started := false
  ref := .deviceReset
  stopped := false
  resetPend := false
  recovery := false
  temp := 25
  overTemp := false
  thermalStops := 0
  thermalHold := false
  vinLow := false

/-- One metrology channel inside the partition (17). -/
structure MetChan where
  /-- 17 R492 ENABLE -/
  enable : Bool
  /-- 17 R492 SIX_WIRE -/
  sixWire : Bool
  /-- 17 R492 MAX_E -/
  maxE : Nat
  /-- 17 R492 E_MANT -/
  eMant : Nat
  /-- 17 R492 E_EXP -/
  eExp : Int
  /-- 17 R492 ZERO -/
  zero : Int
  /-- 17 R492 SPAN -/
  span : Int
  /-- 17 R492 RATE -/
  rate : Nat
  /-- 17 R492 ZERO_TRACK -/
  zeroTrack : Bool
  /-- 17 R482, R483 zero correction -/
  z : Int
  /-- 17 R482 -/
  raw : Int
  /-- 17 R482 STABLE -/
  hist : List Int
  /-- 17 R483 initial zero set -/
  zSet : Bool
  /-- 17 R483 10 s passed -/
  zTimedOut : Bool
  /-- 17 R480 supply or sense out of tolerance -/
  excBad : Bool
  /-- 17 R481 totaliser -/
  total : Nat
  /-- 17 R481 -/
  rollover : Bool
  /-- 17 R481 POWER_GAP due -/
  gapFlag : Bool
  /-- 17 R481 the last edge counted -/
  edgeAt : Option Nat
  /-- 17 R488 SEQ -/
  seq : Nat
  /-- 17 R488, R491 MET_RECc_i -/
  record : List Byte
  /-- 17 R489 the record before it -/
  before : List Byte
  /-- 17 R489 the instant at which the record was completed -/
  recAt : Option Nat
  deriving DecidableEq, Repr

/-- MetChan right after a device reset (the values INVENTORY.md lists, field by field). -/
def MetChan.reset : MetChan where
  enable := false
  sixWire := false
  maxE := 3000
  eMant := 1
  eExp := 0
  zero := 0
  span := 0
  rate := 10
  zeroTrack := true
  z := 0
  raw := 0
  hist := []
  zSet := false
  zTimedOut := false
  excBad := false
  total := 0
  rollover := false
  gapFlag := false
  edgeAt := none
  seq := 0
  record := (List.replicate 32 0)
  before := (List.replicate 32 0)
  recAt := none

/-- Metrology partition and its mailbox (17). -/
structure Met where
  /-- 17 R488 -/
  chans : Vector MetChan 12
  /-- 17 R491 SEALED -/
  sealed : Bool
  /-- 17 R491 ID_OK -/
  idOk : Bool
  /-- 17 R491 CLOCK_FAULT, 01 R22 -/
  clockFault : Bool
  /-- 17 R491 EXC_FAULT -/
  excFault : Bool
  /-- 17 R491 ALIVE -/
  alive : Bool
  /-- 17 R490 when a record last changed -/
  lastRec : Nat
  /-- 17 R491 ADJ_RESULT -/
  adjResult : Nat
  /-- 17 R491 MET_CAUSE -/
  cause : Word
  /-- 17 R491 -/
  causeEn : Word
  /-- 17 R486 event counter -/
  events : Nat
  /-- 17 R486, R487 -/
  audit : List (List Byte)
  /-- 17 R491 MET_SW_VERSION -/
  swVersion : Word
  /-- 17 R479, R491 -/
  digest : List Byte
  /-- 17 R478, R479 -/
  image : List Byte
  /-- 17 R479 digest written at manufacture: that of the image -/
  refDigest : List Byte
  /-- 17 R487 MET_TIME at the last power-up -/
  metMs : Nat
  /-- 17 R487 the instant of that power-up -/
  metOn : Nat
  /-- 17 R487 MET_CYCLES -/
  metCycles : Nat
  /-- 17 R479 MET is on -/
  powered : Bool
  /-- 17 R485 -/
  telegram : List Byte
  /-- 17 R489 BASE in force -/
  base : Nat
  deriving DecidableEq, Repr

/-- Met right after a device reset (the values INVENTORY.md lists, field by field). -/
def Met.reset : Met where
  chans := (Vector.replicate 12 MetChan.reset)
  sealed := false
  idOk := false
  clockFault := false
  excFault := false
  alive := false
  lastRec := 0
  adjResult := 0
  cause := 0
  causeEn := 0xF#32
  events := 0
  audit := []
  swVersion := 0
  digest := (List.replicate 32 0)
  image := []
  refDigest := emptyDigest
  metMs := 0
  metOn := 0
  metCycles := 0
  powered := false
  telegram := []
  base := 0xFFFFFFFF

/-- The machine. -/
structure State where
  /-- 02, 09 -/
  clk : Clk
  /-- 03 -/
  clu : Cluster
  /-- 02 R37 -/
  tasks : Vector TaskSt 32
  /-- 02 -/
  sto : Store
  /-- 06 -/
  ldr : Loader
  /-- 07 -/
  csw : Csw
  /-- 08 -/
  fio : Fio
  /-- 09 -/
  net : Net
  /-- 10 -/
  can : Vector Can 8
  /-- 11 -/
  dict : Dict
  /-- 12 -/
  host : HostSt
  /-- 13 -/
  wdg : Wdg
  /-- 13 -/
  evr : Evr
  /-- 14 -/
  trc : Trc
  /-- 15 -/
  nvp : Nvp
  /-- 15 -/
  fw : Fw
  /-- 16 -/
  rtc : Rtc
  /-- 16, 19 -/
  pwr : Pwr
  /-- 17 -/
  met : Met
  /-- none: the MODEL's field, for free values -/
  free : Nat
  /-- the model's queue -/
  pending : List Instr
  deriving DecidableEq, Repr

/-- State right after a device reset (the values INVENTORY.md lists, field by field). -/
def State.reset : State where
  clk := Clk.reset
  clu := Cluster.reset
  tasks := (Vector.replicate 32 TaskSt.reset)
  sto := Store.reset
  ldr := Loader.reset
  csw := Csw.reset
  fio := Fio.reset
  net := Net.reset
  can := (Vector.replicate 8 Can.reset)
  dict := Dict.reset
  host := HostSt.reset
  wdg := Wdg.reset
  evr := Evr.reset
  trc := Trc.reset
  nvp := Nvp.reset
  fw := Fw.reset
  rtc := Rtc.reset
  pwr := Pwr.reset
  met := Met.reset
  free := 0
  pending := []

/-- Update the field `clk` of the state and nothing else. -/
def State.upClk (s : State) (k : Clk → Clk) : State := { s with clk := k s.clk }
/-- Update the field `clu` of the state and nothing else. -/
def State.upClu (s : State) (k : Cluster → Cluster) : State := { s with clu := k s.clu }
/-- Update the field `tasks` of the state and nothing else. -/
def State.upTasks (s : State) (k : Vector TaskSt 32 → Vector TaskSt 32) : State := { s with tasks := k s.tasks }
/-- Update the field `sto` of the state and nothing else. -/
def State.upSto (s : State) (k : Store → Store) : State := { s with sto := k s.sto }
/-- Update the field `ldr` of the state and nothing else. -/
def State.upLdr (s : State) (k : Loader → Loader) : State := { s with ldr := k s.ldr }
/-- Update the field `csw` of the state and nothing else. -/
def State.upCsw (s : State) (k : Csw → Csw) : State := { s with csw := k s.csw }
/-- Update the field `fio` of the state and nothing else. -/
def State.upFio (s : State) (k : Fio → Fio) : State := { s with fio := k s.fio }
/-- Update the field `net` of the state and nothing else. -/
def State.upNet (s : State) (k : Net → Net) : State := { s with net := k s.net }
/-- Update the field `can` of the state and nothing else. -/
def State.upCan (s : State) (k : Vector Can 8 → Vector Can 8) : State := { s with can := k s.can }
/-- Update the field `dict` of the state and nothing else. -/
def State.upDict (s : State) (k : Dict → Dict) : State := { s with dict := k s.dict }
/-- Update the field `host` of the state and nothing else. -/
def State.upHost (s : State) (k : HostSt → HostSt) : State := { s with host := k s.host }
/-- Update the field `wdg` of the state and nothing else. -/
def State.upWdg (s : State) (k : Wdg → Wdg) : State := { s with wdg := k s.wdg }
/-- Update the field `evr` of the state and nothing else. -/
def State.upEvr (s : State) (k : Evr → Evr) : State := { s with evr := k s.evr }
/-- Update the field `trc` of the state and nothing else. -/
def State.upTrc (s : State) (k : Trc → Trc) : State := { s with trc := k s.trc }
/-- Update the field `nvp` of the state and nothing else. -/
def State.upNvp (s : State) (k : Nvp → Nvp) : State := { s with nvp := k s.nvp }
/-- Update the field `fw` of the state and nothing else. -/
def State.upFw (s : State) (k : Fw → Fw) : State := { s with fw := k s.fw }
/-- Update the field `rtc` of the state and nothing else. -/
def State.upRtc (s : State) (k : Rtc → Rtc) : State := { s with rtc := k s.rtc }
/-- Update the field `pwr` of the state and nothing else. -/
def State.upPwr (s : State) (k : Pwr → Pwr) : State := { s with pwr := k s.pwr }
/-- Update the field `met` of the state and nothing else. -/
def State.upMet (s : State) (k : Met → Met) : State := { s with met := k s.met }
/-- Update the field `free` of the state and nothing else. -/
def State.upFree (s : State) (k : Nat → Nat) : State := { s with free := k s.free }
/-- Update the field `pending` of the state and nothing else. -/
def State.upPending (s : State) (k : List Instr → List Instr) : State := { s with pending := k s.pending }

end Sys2Proof.Machine
end

