-- ==== Sys2Proof/Machine/Ops.lean ====
section
/-! DEFINITION. Operations that many commands share: time, accessors, cause bits with their event records, interrupt lines, and the way a command's effect is answered. -/

set_option Elab.async false

namespace Sys2Proof.Machine

open Sys2Proof

/-! ### Accessors -/

/-- Task `t`. -/
def State.task (s : State) (t : Nat) : TaskSt := vget s.tasks t TaskSt.reset

/-- Task `t` updated. -/
def State.upTask (s : State) (t : Nat) (k : TaskSt → TaskSt) : State :=
  s.upTasks (fun v => vup v t TaskSt.reset k)

/-- Lane `l`. -/
def State.lane (s : State) (l : Nat) : Lane := vget s.clu.lanes l Lane.reset

/-- Lane `l` updated. -/
def State.upLane (s : State) (l : Nat) (k : Lane → Lane) : State :=
  s.upClu (fun c => { c with lanes := vup c.lanes l Lane.reset k })

/-- Field channel `c`. -/
def State.chan (s : State) (c : Nat) : Chan := vget s.fio.chans c Chan.reset

/-- Field channel `c` updated. -/
def State.upChan (s : State) (c : Nat) (k : Chan → Chan) : State :=
  s.upFio (fun f => { f with chans := vup f.chans c Chan.reset k })

/-- Field group `g`. -/
def State.group (s : State) (g : Nat) : FieldGroup := vget s.fio.groups g FieldGroup.reset

/-- Field group `g` updated. -/
def State.upGroup (s : State) (g : Nat) (k : FieldGroup → FieldGroup) : State :=
  s.upFio (fun f => { f with groups := vup f.groups g FieldGroup.reset k })

/-- Station slot `i`. -/
def State.slot (s : State) (i : Nat) : Slot := vget s.net.slots i Slot.reset

/-- Station slot `i` updated. -/
def State.upSlot (s : State) (i : Nat) (k : Slot → Slot) : State :=
  s.upNet (fun f => { f with slots := vup f.slots i Slot.reset k })

/-- CAN port `n`. -/
def State.canPort (s : State) (n : Nat) : Can := vget s.can n Can.reset

/-- CAN port `n` updated. -/
def State.upCanPort (s : State) (n : Nat) (k : Can → Can) : State :=
  s.upCan (fun v => vup v n Can.reset k)

/-- Message buffer `b` of port `n` updated. -/
def State.upBuf (s : State) (n b : Nat) (k : CanBuf → CanBuf) : State :=
  s.upCanPort n (fun c => { c with bufs := vup c.bufs b CanBuf.reset k })

/-- The number of a master: SUP0, SUP1, MET, HOST, DEBUG (12 R373 SYS_ACCESS_FAULT.MASTER). -/
def masterCode : Master → Nat
  | .sup0 => 0
  | .sup1 => 1
  | .met => 2
  | .host => 3
  | .debug => 4

/-- A master's own instances of registers (12 R367). -/
def State.mregs (s : State) (m : Master) : MasterRegs := vget s.host.regs (masterCode m) MasterRegs.reset

/-- A master's own instances updated. -/
def State.upMregs (s : State) (m : Master) (k : MasterRegs → MasterRegs) : State :=
  s.upHost (fun h => { h with regs := vup h.regs (masterCode m) MasterRegs.reset k })

/-- Waymark slot `i`. -/
def State.wslot (s : State) (i : Nat) : WSlot := vget s.wdg.slots i WSlot.reset

/-- Waymark slot `i` updated. -/
def State.upWslot (s : State) (i : Nat) (k : WSlot → WSlot) : State :=
  s.upWdg (fun w => { w with slots := vup w.slots i WSlot.reset k })

/-- Metrology channel `c` updated. -/
def State.upMetChan (s : State) (c : Nat) (k : MetChan → MetChan) : State :=
  s.upMet (fun m => { m with chans := vup m.chans c MetChan.reset k })

/-- The open shadow half updated. -/
def State.upOpen (s : State) (k : Half → Half) : State :=
  s.upSto (fun x => if x.openHalf = 0 then { x with half0 := k x.half0 } else { x with half1 := k x.half1 })

/-- The open shadow half. -/
def Store.opened (x : Store) : Half := if x.openHalf = 0 then x.half0 else x.half1

/-- The other shadow half. -/
def Store.other (x : Store) : Half := if x.openHalf = 0 then x.half1 else x.half0

/-- The other shadow half updated. -/
def State.upOther (s : State) (k : Half → Half) : State :=
  s.upSto (fun x => if x.openHalf = 0 then { x with half1 := k x.half1 } else { x with half0 := k x.half0 })

/-! ### Time -/

/-- Powered time reaches the instant `t`; it never goes back (log 15). -/
def State.reach (s : State) (t : Nat) : State := s.upClk (fun c => { c with now := max c.now t })

/-- Is power domain `d` on (01 R23: AO 0 to MET 11)? -/
def State.domainOn (s : State) (d : Nat) : Bool := s.pwr.domains.getLsbD d

/-- Operating time in ms (13 R399, 16 R474): that at the start of this powered period plus the time since in Run and Reduced, which the end of the start-up begins (16 R469). -/
def State.otMs (s : State) : Nat := s.rtc.opMs + (if s.pwr.started then (s.clk.now - s.pwr.runAt) / 1000000 else 0)

/-- Lane cycles in one beat (03 R97): N = P / 2 ns. -/
def State.beatCycles (s : State) : Nat := s.clk.p * 500

/-- How far the node's second boundary has been slewed towards the last PPS_IN edge at the instant `t`: at most 100 ppm of the time since (19 R514, 01 R21). -/
def Clk.slewed (c : Clk) (t : Nat) : Int :=
  let m : Int := ((t - c.ppsAt) / 10000 : Nat)
  max (-m) (min m c.ppsSecond)

/-- The node's PTP clock minus powered time at the instant `t` (12 R368). -/
def Clk.scale (c : Clk) (t : Nat) : Int := c.ptpOff - c.slewed t

/-- The calendar time as a task reads it (05 R160): bit 31 tells that the calendar is valid. -/
def State.calTime (s : State) : Word := setBit s.rtc.time 31 s.rtc.valid

/-- The node's PTP clock in ns (12 R368 selector 4). -/
def State.ptpNow (s : State) : Nat := ((s.clk.now : Int) + s.clk.scale s.clk.now).toNat

/-- The commit budget B of one beat in bytes (01 R31). -/
def budget (p : Nat) : Nat := min (2000 * p) 3145728

/-! ### Free values (log 6) -/

/-- The next free value's number is used up. -/
def State.useFree (s : State) : State := s.upFree (· + 1)

/-! ### Event records (13 R399 to R403) -/

/-- The severity of a code, with byte 0 of DETAIL for task events (13 R401). -/
def severityOf (code d0 : Nat) : Nat :=
  if code = 0x3005 then 1
  else if code = 0x0100 ∨ code = 0x0105 ∨ code = 0x0301 then 2
  else if code = 0x0200 then (if d0 = 3 then 3 else 4)
  else if code = 0x0001 ∨ code = 0x3007 ∨ code = 0x3008 then 3
  else if 0x0D00 ≤ code ∧ code < 0x1500 ∧ code % 256 = 0 then 3
  else if code / 256 = 6 ∨ code = 0x0102 ∨ code = 0x0103 then 4
  else if (0x3001 ≤ code ∧ code ≤ 0x3004) ∨ code = 0x3006 then 4
  else if code = 0x0300 then 6
  else 5

/-- Is a milestone being built (13 R402)? -/
def State.building (s : State) : Bool := s.sto.isOpen && s.clk.running && decide (s.pwr.role ≠ .station)

/-- MILESTONE of a record (13 R402). -/
def State.recMilestone (s : State) : Nat := if s.building then s.sto.msCount + 1 else s.sto.msDurable

/-- A drop counter counts (13 R403, R405). -/
def Evr.drop (e : Evr) (sev : Nat) : Evr := { e with drops := vup e.drops sev 0 sat32 }

/-- An occurrence enters the recorder's queue of 64, or is dropped and counted (13 R403). The QUEUE_FULL bit that turns from 0 to 1 makes an occurrence of its own, which is dropped in the same way (log 19). -/
def State.occurSev (s : State) (code source sev : Nat) (detail : List Byte) : State :=
  if s.evr.queue.length < 64 then
    s.upEvr (fun e => { e with queue := e.queue ++
      [{ code := code, source := source, sev := sev, detail := padTo 8 detail, cycles := s.rtc.pwrCycles,
         ot := s.otMs, ms := s.recMilestone, date := s.rtc.date.toNat, time := s.rtc.time.toNat,
         calValid := s.rtc.valid, term := s.csw.term, at' := s.clk.now }] })
  else
    s.upEvr (fun e =>
      let e := e.drop sev
      let e := if e.cause.getLsbD 2 then e else e.drop 5
      { e with cause := setBit e.cause 2 true })

/-- The last occurrences of the queue that satisfy `p` stand in ascending SOURCE (13 R403). -/
def Evr.sortTail (e : Evr) (p : Occ → Bool) : Evr :=
  let n := (e.queue.reverse.takeWhile p).length
  let k := e.queue.length - n
  { e with queue := e.queue.take k ++ sortBy Occ.source (e.queue.drop k) }

/-- An occurrence with the severity of R401. -/
def State.occur (s : State) (code source : Nat) (detail : List Byte) : State :=
  s.occurSev code source (severityOf code (byteAt detail 0)) detail

/-! ### Cause bits, each with its record (13 R400) -/

/-- SYS_EXE_CAUSE bit `b`. -/
def State.exeCause (s : State) (b : Nat) (detail : List Byte) : State :=
  (s.upHost (fun h => { h with exeCause := setBit h.exeCause b true })).occur (0x0100 + b) 0 detail

/-- SYS_TASK_CAUSE bit `t` with code 0x0200: 1 overrun, 2 late completion, 3 fault with its cause and bundle. -/
def State.taskCause (s : State) (t kind cause bundle : Nat) : State :=
  (s.upHost (fun h => { h with taskCause := setBit h.taskCause t true })).occur 0x0200 t
    (leBytes 1 kind ++ leBytes 1 cause ++ zeros 2 ++ leBytes 4 bundle)

/-- SYS_MEM_CAUSE bit `b`. -/
def State.memCause (s : State) (b source : Nat) (detail : List Byte) : State :=
  (s.upHost (fun h => { h with memCause := setBit h.memCause b true })).occur (0x0300 + b) source detail

/-- SYS_POWER_CAUSE bit `b`. -/
def State.powerCause (s : State) (b : Nat) : State :=
  (s.upHost (fun h => { h with powerCause := setBit h.powerCause b true })).occur (0x0400 + b) 0 []

/-- EVR_CAUSE bit `b`. -/
def State.evrCause (s : State) (b : Nat) : State :=
  (s.upEvr (fun h => { h with cause := setBit h.cause b true })).occur (0x0700 + b) 0 []

/-- RTC_CAUSE bit `b`. -/
def State.rtcCause (s : State) (b : Nat) : State :=
  (s.upRtc (fun h => { h with cause := setBit h.cause b true })).occur (0x0800 + b) 0 []

/-- NVP_CAUSE bit `b`. -/
def State.nvpCause (s : State) (b source : Nat) : State :=
  (s.upNvp (fun h => { h with cause := setBit h.cause b true })).occur (0x0900 + b) source []

/-- CSW_CAUSE bit `b`. -/
def State.cswCause (s : State) (b : Nat) : State :=
  (s.upCsw (fun h => { h with cause := setBit h.cause b true })).occur (0x0A00 + b) 0 []

/-- FIO_CAUSE bit `b`. -/
def State.fioCause (s : State) (b source : Nat) : State :=
  (s.upFio (fun h => { h with cause := setBit h.cause b true })).occur (0x0B00 + b) source []

/-- NET_CAUSE bit `b`. -/
def State.netCause (s : State) (b source : Nat) : State :=
  (s.upNet (fun h => { h with cause := setBit h.cause b true })).occur (0x0C00 + b) source []

/-- CANn_CAUSE bit `b`. -/
def State.canCause (s : State) (n b source : Nat) : State :=
  (s.upCanPort n (fun h => { h with cause := setBit h.cause b true })).occur (0x0D00 + 256 * n + b) source []

/-- TRC_CAUSE bit `b`. -/
def State.trcCause (s : State) (b : Nat) : State :=
  (s.upTrc (fun h => { h with cause := setBit h.cause b true })).occur (0x1500 + b) 0 []

/-- ODX_CAUSE bit `b`. -/
def State.odxCauseBit (s : State) (b : Nat) : State :=
  (s.upDict (fun h => { h with odxCause := setBit h.odxCause b true })).occur (0x1600 + b) 0 []

/-- HPT_CAUSE bit `b`. -/
def State.hptCauseBit (s : State) (b : Nat) : State :=
  (s.upHost (fun h => { h with hptCause := setBit h.hptCause b true })).occur (0x1700 + b) 0 []

/-- MET_CAUSE bit `b`. -/
def State.metCause (s : State) (b : Nat) : State :=
  (s.upMet (fun h => { h with cause := setBit h.cause b true })).occur (0x1800 + b) 0 []

/-! ### Entries in force (11 R325) -/

/-- The key of a dictionary entry. -/
def entryKey (idx sub : Nat) : Nat := idx * 256 + sub

/-- An unsigned entry in force, `d` being its default. -/
def State.inForce (s : State) (idx sub d : Nat) : Nat :=
  match aget s.dict.force (entryKey idx sub) with
  | some v => leNat v
  | none => d

/-- An unsigned stored entry: the value in force at the next start-up (11 R325). -/
def State.storedNat (s : State) (idx sub d : Nat) : Nat :=
  match aget s.dict.stored (entryKey idx sub) with
  | some v => leNat v
  | none => d

/-! ### Roles (07 R200, R201) -/

/-- The code of a role state (07 R201). -/
def RoleState.code : RoleState → Nat
  | .solo => 0
  | .active => 1
  | .standby => 2
  | .syncing => 3
  | .failed => 4
  | .negotiating => 5

/-- Does the unit act in SOLO or ACTIVE? -/
def State.governs (s : State) : Bool := decide (s.csw.role = .solo ∨ s.csw.role = .active)

/-- Do the lanes execute runs of a schedule image (07 R200, 01 R13)? -/
def State.executes (s : State) : Bool :=
  decide (s.pwr.role ≠ .station) && s.governs && !s.sto.halted && !s.clu.stopped

/-- A refused combination of modes is written to entry 0x2010 (18 R504). -/
def State.modeRefuse (s : State) (code : Nat) : State :=
  let n := satAdd 0xFFFFFFFF (getLE s.dict.modeRefusal 4 4) 1
  let st := if s.pwr.state = .reduced then 1 else 0
  s.upDict (fun d => { d with
    modeRefusal := leBytes 1 code ++ leBytes 1 s.csw.role.code ++ leBytes 1 st ++ zeros 1 ++ leBytes 4 n ++ leBytes 8 s.sto.msCount })

/-- A frame leaves the module: the newest entry of the model's record of what was sent (log 4). -/
def State.send (s : State) (x : Sent) : State := s.upNet (fun n => { n with sent := x :: n.sent })

/-! ### Interrupt lines (12 R374, R375) -/

/-- Has a cause register an enabled bit set? -/
def raised (cause en : Word) : Bool := decide (cause &&& en ≠ 0)

/-- SYS_EXE_CAUSE as it reads: bit 1 shows SYS_TASK_CAUSE (12 R373). -/
def HostSt.exeCauseRead (h : HostSt) : Word := setBit h.exeCause 1 (decide (h.taskCause ≠ 0))

/-- The metrology sources 12 to 15: new mailbox value, partition fault, seal change, audit entry (12 R374, 17 R491). -/
def Met.line (m : Met) (n : Nat) : Bool := raised m.cause m.causeEn && (m.cause &&& m.causeEn).getLsbD (n - 12)

/-- NET_STALEw: bit i for slot 32w + i (09 R294). -/
def Net.staleWord (x : Net) (w : Nat) : Bool :=
  (List.range 32).any (fun i => (vget x.slots (32 * w + i) Slot.reset).stale)

/-- The request line of a source other than 11 (12 R374). -/
def State.line (s : State) (n : Nat) : Bool :=
  if n = 0 then raised s.wdg.cause s.wdg.causeEn
  else if n = 1 then raised s.csw.cause s.csw.causeEn
  else if n = 2 then raised s.host.exeCauseRead s.host.exeCauseEn
  else if n = 3 then raised s.host.memCause s.host.memCauseEn
  else if n = 4 then raised s.fio.cause s.fio.causeEn
  else if n = 5 then raised s.net.cause s.net.causeEn
  else if n = 6 then decide (s.host.powerCause ≠ 0)
  else if n = 7 then raised s.evr.cause s.evr.causeEn
  else if n = 8 then raised s.nvp.cause s.nvp.causeEn
  else if n = 9 then raised s.dict.odxCause s.dict.odxCauseEn
  else if n = 10 then s.host.fault.getLsbD 0
  else if 12 ≤ n ∧ n ≤ 15 then s.met.line n
  else if 16 ≤ n ∧ n ≤ 23 then raised (s.canPort (n - 16)).cause (s.canPort (n - 16)).causeEn
  else if n = 24 then raised s.rtc.cause s.rtc.causeEn
  else if n = 25 then raised s.trc.cause s.trc.causeEn
  else if n = 26 then raised s.host.hptCause s.host.hptCauseEn
  else if 32 ≤ n ∧ n ≤ 63 then s.host.taskCause.getLsbD (n - 32)
  else if 64 ≤ n ∧ n ≤ 71 then s.net.staleWord (n - 64)
  else if 72 ≤ n ∧ n ≤ 79 then s.fio.cause.getLsbD (n - 72)
  else false

/-- Is a source number in use (12 R374)? -/
def sourceUsed (n : Nat) : Bool := decide (n ≤ 26) || decide (32 ≤ n ∧ n ≤ 79)

/-- The default route of a source at reset (12 R379). -/
def routeReset (n : Nat) : Nat := if n < 16 then 1 else 0

/-- ROUTE of a source. -/
def HostSt.route (h : HostSt) (n : Nat) : Nat := (aget h.routes n).getD (routeReset n)

/-- Is a scanned or vectored source other than 11 pending (12 R375)? -/
def State.pendingSrc (s : State) (n : Nat) : Bool :=
  sourceUsed n && decide (n ≠ 11) && s.line n && decide (s.host.route n ≠ 0) && (aget s.host.serving n).isNone

/-- The scan summary of a target (12 R374 source 11). -/
def State.scanSummary (s : State) (t : Nat) : Bool :=
  (List.range 64).any (fun i => s.pendingSrc (16 + i) && (s.host.route (16 + i)).testBit t)

/-- Is a vectored source pending and routed to a target (12 R376)? -/
def State.vectored (s : State) (t n : Nat) : Bool :=
  if n = 11 then s.scanSummary t && (s.host.route 11).testBit t
  else s.pendingSrc n && (s.host.route n).testBit t

/-- The request line of a target; HOST_INT_N is low while that of T3 is high (12 R381). -/
def State.targetLine (s : State) (t : Nat) : Bool := (List.range 16).any (s.vectored t)

/-- The line that INT_COUNT counts: for source 11 that of any target. -/
def State.countLine (s : State) (n : Nat) : Bool :=
  if n = 11 then (List.range 4).any s.scanSummary else s.line n

/-- Each rising edge of a line counts in INT_COUNTn, which saturates at 255 (12 R375). -/
def countEdges (s t : State) : State :=
  let n := (List.range 80).foldl (fun acc i =>
    if sourceUsed i && t.countLine i && !s.countLine i then
      aputd 0 acc i (satAdd 255 ((aget acc i).getD 0) 1)
    else acc) t.host.counts
  t.upHost (fun h => { h with counts := n })

/-- A command's effect is answered: the interrupt counters see the lines that rose. -/
def commit (s t : State) : Host.Outcome State Fault Refusal := .next (countEdges s t)

end Sys2Proof.Machine
end

