-- ==== Sys2Proof/Machine/Access.lean ====
section
/-! DEFINITION. How a block answers a register write that reached it (12 R364 checks 3 to 5), and field updates. -/

set_option Elab.async false

namespace Sys2Proof.Machine

open Sys2Proof

/-- A block's answer to a write: refused under the flag of that number in SYS_ACCESS_FAULT, refused with an effect of its own (a mode refusal's record), or done (an unlisted offset leaves the state unchanged). -/
inductive WriteAns where
  | refused (flag : Nat)
  | refusedIn (flag : Nat) (s : State)
  | done (s : State)
  deriving DecidableEq, Repr

/-- Bit number of the flag PRIV. -/
def flagPriv : Nat := 3

/-- Bit number of the flag LOCKED. -/
def flagLocked : Nat := 4

/-- Bit number of the flag RSVD. -/
def flagRsvd : Nat := 5

/-- Check 3, then the rest. -/
def needPriv (priv : Bool) (k : WriteAns) : WriteAns := if priv then k else .refused flagPriv

/-- Check 4, then the rest. -/
def needOpen (ok : Bool) (k : WriteAns) : WriteAns := if ok then k else .refused flagLocked

/-- Check 5, then the rest. -/
def needLegal (ok : Bool) (k : WriteAns) : WriteAns := if ok then k else .refused flagRsvd

/-- A W1C register after a write (00 R7). -/
def w1c (old v : Word) : Word := old &&& ~~~ v

/-- The bits of a word under a mask replaced. -/
def mixWord (old k v : Word) : Word := (old &&& ~~~ k) ||| (v &&& k)

/-- A field that a privileged master may read; to any other it reads zero (00 R8). -/
def privRead (priv : Bool) (w : Word) : Word := if priv then w else 0

end Sys2Proof.Machine
end

