-- ==== Sys2Proof/Config.lean ====
section
/-! DEFINITION. What the spec leaves open: free values, each an opaque constant that no proof can look into, applied to the number of the use (State.free) or to the operands it depends on (log 6). -/

set_option Elab.async false

namespace Sys2Proof.Config

open Sys2Proof Sys2Proof.Machine

/-- How channel `c` reads a pin voltage outside the protected range, or one inside the hysteresis of its threshold when it has read no other yet (08 R245). -/
opaque inputLevel : (use c : Nat) → Bool

/-- Where the falling threshold of channel `c` lies between 5 V and its level for 1 less the hysteresis of 1 V (08 R245): taken modulo that span, in mV. -/
opaque inputFall : (c : Nat) → Nat

/-- How far the rising threshold of channel `c` lies above the falling one, beyond 1 V (08 R245): taken modulo what its level for 1 leaves, in mV. -/
opaque inputRise : (c : Nat) → Nat

/-- A bridge weight in e where SPAN equals ZERO (17 R482 states no value there). -/
opaque weight : (use : Nat) → Int

/-- How far zero tracking moves the zero correction, in millionths of e, before the bound of 17 R483 is applied. -/
opaque zeroStep : (use : Nat) → Int

/-- The receive error counter of port `n` after a valid frame while it stood above 127: ISO 11898-1 lets it take any value from 119 to 127 (10 R312). -/
opaque recAfter : (use n : Nat) → Nat

/-- Is another node's frame on the bus of port `n` at a given time (10 R319 BUS_IDLE)? -/
opaque busBusy : (now n : Nat) → Bool

/-- The loop delay of the transceiver of port `n`, in CLK_CAN cycles (10 R298, R319 TDCV). -/
opaque loopDelay : (use n : Nat) → Nat

/-- Byte `i` of the module's own factory address (09 R273); the spec leaves its value to manufacture. -/
opaque macByte : (i : Nat) → Byte

/-- The clockClass of this node as grandmaster (09 R295 GM_CLASS): the spec states none. -/
opaque clockClass : Nat

/-- Does the loader's own analysis leave it open that operation `op` of the L syllable of the bundle at `addr` accesses a shared store, where the address is none that constants and registers followed from them give (03 R100, 06 R188)? How far the loader follows values is its own (log 9). -/
opaque mayShare : (image : List Byte) → (addr op : Nat) → Bool

/-- Does the loader's own analysis prove a scratch read of the bundle at `addr` covered, where its address or an earlier store's is none that constants and registers followed from them give (06 R188; log 9)? -/
opaque covers : (image : List Byte) → (addr : Nat) → Bool

/-- MFTASK 5 and 6 of a replay at the anchor's own beat (14 R429): the load does not hold the BEAT item of that beat. -/
opaque replayLabel : (use : Nat) → Word

/-- The system record that keeps the value of a key; the spec names no layout (log 11). -/
opaque systemRecord : (key : Nat) → Nat

/-- The bytes of a system record that the supervisor writes (log 11). -/
opaque systemData : (use : Nat) → List Byte

/-- Byte `i` of a fresh nonce (11 R334, 12 R361). -/
opaque nonceByte : (use i : Nat) → Byte

/-- Where the search for an unused session number begins (11 R333 states only its range). -/
opaque sessionSeed : (use : Nat) → Nat

/-- STATUS and INFO of an answer that the spec leaves open. -/
opaque openAnswer : (use : Nat) → Nat × Nat

/-- The code of an access right in answers to READ and DESCRIBE (11 R331 states none): RO 0, RW 1, WO 2, PRIV 3, SEALED 4, a published entry 5, a writable one 6. -/
opaque rightByte : (right : Nat) → Byte

/-- The default value of an entry whose table states none, as DESCRIBE answers it. -/
opaque defaultOf : (key : Nat) → List Byte

/-- The size that DESCRIBE answers for an entry of varying size. -/
opaque sizeOf' : (key : Nat) → Nat

/-- Is a fuse whose blow is cut by a power loss left blown (11 R348)? -/
opaque fuseCut : (use f : Nat) → Bool

end Sys2Proof.Config
end

