-- ==== Sys2Proof/Machine/Flags.lean ====
section
/-! DEFINITION. Arithmetic of the A and M units and every flag computation (04 R129 to R135, R139, R141), and the native timers, counters and edge detectors (05 R164 to R168). -/

set_option Elab.async false

namespace Sys2Proof.Machine

open Sys2Proof

/-! ### Binary adds and subtracts (04 R129) -/

/-- An 8-bit field with bit `i` set where `f i` holds. -/
def bits8 (f : Nat → Bool) : BitVec 8 :=
  BitVec.ofNat 8 ((List.range 8).foldl (fun acc i => acc + bit (f i) * 2 ^ i) 0)

/-- Is the carry out of the low `k` bits of a + b + c 1? -/
def carryOut (k : Nat) (a b : Word) (c : Bool) : Bool :=
  decide (2 ^ k ≤ a.toNat % 2 ^ k + b.toNat % 2 ^ k + bit c)

/-- Is the borrow out of the low `k` bits of a - b - c 1? -/
def borrowOut (k : Nat) (a b : Word) (c : Bool) : Bool :=
  decide (a.toNat % 2 ^ k < b.toNat % 2 ^ k + bit c)

/-- The sum modulo 2^32 with the flags of R129. -/
def addc (a b : Word) (c : Bool) : Word × Flags :=
  let r := a + b + w32 (bit c)
  (r, { cy := carryOut 32 a b c, hc := bits8 (fun i => carryOut (4 * i + 4) a b c),
        ov := decide (a.toInt + b.toInt + (bit c : Nat) ≠ r.toInt) })

/-- The difference modulo 2^32 with the flags of R129. -/
def subc (a b : Word) (c : Bool) : Word × Flags :=
  let r := a - b - w32 (bit c)
  (r, { cy := borrowOut 32 a b c, hc := bits8 (fun i => borrowOut (4 * i + 4) a b c),
        ov := decide (a.toInt - b.toInt - (bit c : Nat) ≠ r.toInt) })

/-! ### Decimal adjust and packed decimal (04 R132 to R135) -/

/-- Nibble `i` of a word. -/
def nibble (x : Word) (i : Nat) : Nat := (x.toNat >>> (4 * i)) % 16

/-- DADJA over the nibbles `i` of `l`, ascending: value so far, carry k, decimal carries (04 R132). -/
def dadjaFrom (x : Word) (hc : BitVec 8) : List Nat → Nat → Nat → Nat → Nat × Nat × Nat
  | [], r, k, d => (r, k, d)
  | i :: t, r, k, d =>
    let v := nibble x i + k
    let adj := hc.getLsbD i || decide (9 < v)
    let v := if adj then v + 6 else v
    let k' := v / 16
    dadjaFrom x hc t (r + (v % 16) * 16 ^ i) k' (d + bit (hc.getLsbD i || decide (k' ≠ 0)) * 2 ^ i)

/-- DADJA: the adjusted value, the final k and the decimal carries (04 R132). -/
def dadja (x : Word) (hc : BitVec 8) : Word × Bool × BitVec 8 :=
  let (r, k, d) := dadjaFrom x hc (List.range 8) 0 0 0
  (w32 r, decide (k ≠ 0), BitVec.ofNat 8 d)

/-- DADJS: the adjusted value (04 R132). -/
def dadjs (x : Word) (hc : BitVec 8) : Word :=
  w32 ((List.range 8).foldl (fun acc i =>
    acc + (if hc.getLsbD i then (nibble x i + 10) % 16 else nibble x i) * 16 ^ i) 0)

/-- Does a word hold an invalid digit (04 R132)? -/
def badDigit (x : Word) : Bool := (List.range 8).any (fun i => decide (9 < nibble x i))

/-- PADD and PADC (04 R133). -/
def padd (a b : Word) (c : Bool) : Word × Flags :=
  let (s, f) := addc a b c
  let (r, k, d) := dadja s f.hc
  (r, { cy := f.cy || k, hc := d, ov := badDigit a || badDigit b })

/-- PSUB and PSBC (04 R134). -/
def psub (a b : Word) (c : Bool) : Word × Flags :=
  let (s, f) := subc a b c
  (dadjs s f.hc, { cy := f.cy, hc := f.hc, ov := badDigit a || badDigit b })

/-- The flags of PCMP (04 R135). -/
def pcmp (a b : Word) : Flags :=
  { cy := decide (a.toNat < b.toNat), hc := if a = b then 1 else 0, ov := badDigit a || badDigit b }

/-! ### Logic, shifts and selections (04 R130) -/

/-- Shift left; 32 or more gives 0. -/
def shl (a b : Word) : Word := if 32 ≤ b.toNat then 0 else a <<< b.toNat

/-- Shift right logically; 32 or more gives 0. -/
def shr (a b : Word) : Word := if 32 ≤ b.toNat then 0 else a >>> b.toNat

/-- Shift right arithmetically; 32 or more gives 32 copies of the sign. -/
def sar (a b : Word) : Word := a.sshiftRight (min 32 b.toNat)

/-- Rotate left by b mod 32. -/
def rol (a b : Word) : Word := a.rotateLeft (b.toNat % 32)

/-- Signed minimum. -/
def mins (a b : Word) : Word := if a.toInt ≤ b.toInt then a else b

/-- Signed maximum. -/
def maxs (a b : Word) : Word := if a.toInt ≤ b.toInt then b else a

/-- Unsigned minimum. -/
def minu (a b : Word) : Word := if a.toNat ≤ b.toNat then a else b

/-- Unsigned maximum. -/
def maxu (a b : Word) : Word := if a.toNat ≤ b.toNat then b else a

/-- ABS and its overflow. -/
def absw (a : Word) : Word × Bool :=
  if a = 0x80000000#32 then (0x7FFFFFFF#32, true) else (if a.msb then -a else a, false)

/-- EXTU with pos = f[4:0] and len = f[8:5] + 1; bits beyond a[31] read 0. -/
def extu (a : Word) (f : Nat) : Word :=
  w32 ((a.toNat >>> field f 4 0) % 2 ^ (field f 8 5 + 1))

/-- EXTS: EXTU sign-extended from bit len - 1. -/
def exts (a : Word) (f : Nat) : Word :=
  let n := field f 8 5 + 1
  let v := (a.toNat >>> field f 4 0) % 2 ^ n
  if v < 2 ^ (n - 1) then w32 v else i32 ((v : Int) - (2 ^ n : Nat))

/-- INS: bits of a into d at pos; bits above 31 discarded. -/
def ins (d a : Word) (f : Nat) : Word :=
  let pos := field f 4 0
  let m := (2 ^ (field f 8 5 + 1) - 1) <<< pos
  (d &&& ~~~ w32 m) ||| (w32 (a.toNat <<< pos) &&& w32 m)

/-- Leading zero bits from bit `n - 1` down. -/
def clzFrom (a : Word) : Nat → Nat
  | 0 => 0
  | n + 1 => if a.getLsbD n then 0 else clzFrom a n + 1

/-- CLZ: 32 for zero. -/
def clz (a : Word) : Word := w32 (clzFrom a 32)

/-- POPC: number of one bits. -/
def popc (a : Word) : Word := w32 ((List.range 32).foldl (fun n i => n + bit (a.getLsbD i)) 0)

/-- The flags of a unit packed as MFF returns them. -/
def mff (f : Flags) : Word := w32 (bit f.cy + 2 * f.hc.toNat + 512 * bit f.ov)

/-- The flags that MTF sets. -/
def mtf (a : Word) : Flags :=
  { cy := a.getLsbD 0, hc := BitVec.ofNat 8 (wfield a 8 1), ov := a.getLsbD 9 }

/-- BFLAG: cy for 0, ov for 1, hc[sel - 2] above. -/
def bflag (f : Flags) (sel : Nat) : Bool :=
  if sel = 0 then f.cy else if sel = 1 then f.ov else f.hc.getLsbD (sel - 2)

/-! ### Products and accumulators (04 R139) -/

/-- An integer as a 64-bit value modulo 2^64. -/
def i64 (n : Int) : DWord := BitVec.ofInt 64 n

/-- An integer saturated to a signed 64-bit value. -/
def sat64 (n : Int) : DWord := i64 (max (-(2 ^ 63 : Int)) (min (2 ^ 63 - 1) n))

/-- An integer saturated to a signed 32-bit value. -/
def satS32 (n : Int) : Word := i32 (max (-(2 ^ 31 : Int)) (min (2 ^ 31 - 1) n))

/-- Bits [63:32] of an exact product. -/
def hi32 (p : Int) : Word := w32 ((i64 p).toNat >>> 32)

/-- The low and high halves of a word, signed. -/
def halfS (a : Word) (i : Nat) : Int := ((a >>> (16 * i)).setWidth 16 : BitVec 16).toInt

/-- ACEXT: an accumulator shifted right arithmetically by sh, saturated to 32 bits. -/
def acext (ac : DWord) (sh : Nat) : Word := satS32 (ac.sshiftRight sh).toInt

/-- ACEXTR: ACEXT after adding 2^(sh - 1) with saturation when sh ≥ 1. -/
def acextr (ac : DWord) (sh : Nat) : Word :=
  acext (if sh = 0 then ac else sat64 (ac.toInt + (2 ^ (sh - 1) : Nat))) sh

/-! ### The address generator (04 R141, 05 R150, R151) -/

/-- LEN of a descriptor. -/
def Desc.len (d : Desc) : Nat := wfield d.ctl 23 0

/-- ESZ of a descriptor: the element size is 2^s bytes. -/
def Desc.esz (d : Desc) : Nat := wfield d.ctl 25 24

/-- MODE of a descriptor. -/
def Desc.mode (d : Desc) : Nat := wfield d.ctl 27 26

/-- Add with carries running down from bit `j` of the list to the next: bits of `off` and `t` from m - 1 down to s (04 R141). -/
def revAdd (off t : Nat) : List Nat → Bool → Nat → Nat
  | [], _, acc => acc
  | j :: rest, c, acc =>
    let n := bit (off.testBit j) + bit (t.testBit j) + bit c
    revAdd off t rest (decide (2 ≤ n)) (acc + (n % 2) * 2 ^ j)

/-- The bit positions from `m - 1` down to `s`. -/
def downFrom (m s : Nat) : List Nat := (List.range (m - s)).map (fun i => m - 1 - i)

/-- The position of the highest set bit, 0 for zero. -/
def topBit (n : Nat) : Nat := Nat.log2 n

/-- The advance of x under a descriptor by step t (04 R141, 05 R151). -/
def advance (d : Desc) (x t : Word) : Word :=
  let off := x - d.base
  if d.mode = 1 then
    if d.len = 0 then d.base
    else d.base + i32 ((off.toInt + t.toInt) % (d.len : Int))
  else if d.mode = 2 then
    if d.len = 0 then d.base
    else
      let m := topBit d.len
      let low := off.toNat % 2 ^ m
      let s := d.esz
      if m ≤ s then d.base + w32 low
      else d.base + w32 (low % 2 ^ s + revAdd low t.toNat (downFrom m s) false 0)
  else x + t

/-- The step of the short MDADV (04 R141). -/
def shortStep (d : Desc) : Word :=
  if d.mode = 2 then w32 (2 ^ (topBit d.len - 1)) else w32 (2 ^ d.esz)

/-! ### Timers, counters and edge detectors (05 R164 to R168) -/

/-- A timer record (05 R164). -/
structure TimerRec where
  elapsed : Nat
  inn : Bool
  q : Bool
  valid : Bool
  run : Bool
  kind : Nat
  relidx : Nat
  ptLast : Nat
  deriving DecidableEq, Repr

/-- The timer record that 16 bytes hold. -/
def TimerRec.ofBytes (l : List Byte) : TimerRec :=
  let f := byteAt l 6
  { elapsed := getLE l 0 6, inn := f.testBit 0, q := f.testBit 1, valid := f.testBit 2, run := f.testBit 3,
    kind := byteAt l 7, relidx := getLE l 8 4, ptLast := getLE l 12 4 }

/-- The 16 bytes of a timer record. -/
def TimerRec.toBytes (r : TimerRec) : List Byte :=
  leBytes 6 r.elapsed ++ leBytes 1 (bit r.inn + 2 * bit r.q + 4 * bit r.valid + 8 * bit r.run) ++
    leBytes 1 r.kind ++ leBytes 4 r.relidx ++ leBytes 4 r.ptLast

/-- The step of an evaluation, in µs (05 R165). -/
def stepUs (valid : Bool) (ri relidx p : Nat) : Nat :=
  if valid then ((ri + (2 ^ 32 - relidx)) % 2 ^ 32) * p else 0

/-- TON (05 R166). -/
def tonBody (r : TimerRec) (inn : Bool) (pt delta : Nat) : TimerRec :=
  let r :=
    if inn = false then { r with elapsed := 0, q := false }
    else if r.inn = false then { r with elapsed := 0, q := decide (pt = 0) }
    else
      let e := min (r.elapsed + delta) pt
      { r with elapsed := e, q := decide (pt ≤ e) }
  { r with run := inn && !r.q }

/-- TOF (05 R166). -/
def tofBody (r : TimerRec) (inn : Bool) (pt delta : Nat) : TimerRec :=
  if inn then { r with elapsed := 0, q := true, run := false }
  else if r.inn then { r with elapsed := 0, q := decide (0 < pt), run := decide (0 < pt) }
  else if r.run then
    let e := min (r.elapsed + delta) pt
    { r with elapsed := e, q := decide (e < pt), run := decide (e < pt) }
  else r

/-- TP (05 R166). -/
def tpBody (r : TimerRec) (inn : Bool) (pt delta : Nat) : TimerRec :=
  let r :=
    if r.run then
      let e := min (r.elapsed + delta) pt
      if pt ≤ e then { r with elapsed := e, q := false, run := false } else { r with elapsed := e }
    else if inn && !r.inn then { r with elapsed := 0, q := decide (0 < pt), run := decide (0 < pt) }
    else r
  if !r.run && !inn then { r with elapsed := 0 } else r

/-- A timer evaluation: KIND 1 to 6 of R164, the PT operand, the release index, P in µs (05 R165, R166). -/
def timerEval (kind : Nat) (r : TimerRec) (inn : Bool) (ptOp ri p : Nat) : TimerRec :=
  let delta := stepUs r.valid ri r.relidx p
  let pt := if 4 ≤ kind then ptOp * 1000 else ptOp
  let r := if r.valid then r else { r with inn := inn }
  let r :=
    if kind = 1 ∨ kind = 4 then tonBody r inn pt delta
    else if kind = 2 ∨ kind = 5 then tofBody r inn pt delta
    else tpBody r inn pt delta
  { r with inn := inn, valid := true, relidx := ri, ptLast := ptOp, kind := kind }

/-- A counter record (05 R164). -/
structure CounterRec where
  cv : Int
  cu : Bool
  cd : Bool
  valid : Bool
  qu : Bool
  qd : Bool
  kind : Nat
  relidx : Nat
  pvLast : Int
  deriving DecidableEq, Repr

/-- The counter record that 16 bytes hold. -/
def CounterRec.ofBytes (l : List Byte) : CounterRec :=
  let f := byteAt l 6
  { cv := getLEs l 0 4, cu := f.testBit 0, cd := f.testBit 1, valid := f.testBit 2, qu := f.testBit 3,
    qd := f.testBit 4, kind := byteAt l 7, relidx := getLE l 8 4, pvLast := getLEs l 12 4 }

/-- The 16 bytes of a counter record. -/
def CounterRec.toBytes (r : CounterRec) : List Byte :=
  leBytes 4 (i32 r.cv).toNat ++ zeros 2 ++
    leBytes 1 (bit r.cu + 2 * bit r.cd + 4 * bit r.valid + 8 * bit r.qu + 16 * bit r.qd) ++
    leBytes 1 r.kind ++ leBytes 4 r.relidx ++ leBytes 4 (i32 r.pvLast).toNat

/-- A counter evaluation (05 R167). -/
def counterEval (kind : Nat) (c : CounterRec) (cu cd r ld : Bool) (pv : Int) (ri : Nat) : CounterRec :=
  let c := if c.valid then c else { c with cu := cu, cd := cd }
  let up := cu && !c.cu
  let down := cd && !c.cd
  let cv :=
    if r then 0
    else if ld then pv
    else if up && !down then min (c.cv + 1) 2147483647
    else if down && !up then max (c.cv - 1) (-2147483648)
    else c.cv
  { cv := cv, cu := cu, cd := cd, valid := true, qu := decide (pv ≤ cv), qd := decide (cv ≤ 0),
    kind := kind, relidx := ri, pvLast := pv }

/-- An edge evaluation: the new memory byte and Q (05 R168); `op` 0 RTRIG, 1 FTRIG, 2 CTRIG. -/
def edgeEval (op : Nat) (mem : Byte) (inn : Bool) : Byte × Bool :=
  let m := if mem.getLsbD 1 then mem.getLsbD 0 else inn
  let q := if op = 0 then inn && !m else if op = 1 then m && !inn else inn != m
  (BitVec.ofNat 8 (bit inn + 2), q)

end Sys2Proof.Machine
end

