-- ==== Sys2Proof/Machine/Operands.lean ====
section
/-! DEFINITION. Syllables and bundles: fields, operand forms, and every cause of R108 that the encoding fixes (03 R102 to R106, 04 R118 to R124, R144, 05 R153 to R162). -/

set_option Elab.async false

namespace Sys2Proof.Machine

open Sys2Proof

/-! ### Fields of a syllable (03 R102) -/

/-- S: last syllable of the bundle. -/
def sylS (w : Word) : Bool := w.getLsbD 31

/-- P: a pair of short operations. -/
def sylP (w : Word) : Bool := w.getLsbD 30

/-- U: unit code. -/
def sylU (w : Word) : Nat := wfield w 29 27

/-- OPC of a long operation. -/
def sylOpc (w : Word) : Nat := wfield w 26 20

/-- DST. -/
def sylDst (w : Word) : Nat := wfield w 19 15

/-- SRCA. -/
def sylA (w : Word) : Nat := wfield w 14 10

/-- IMM: immediate form. -/
def sylImm (w : Word) : Bool := w.getLsbD 9

/-- SRCB. -/
def sylB (w : Word) : Nat := wfield w 8 4

/-- MOD. -/
def sylMod (w : Word) : Nat := wfield w 3 0

/-- IMM9. -/
def sylImm9 (w : Word) : Nat := wfield w 8 0

/-- KIND of a prefix. -/
def sylKind (w : Word) : Nat := wfield w 26 24

/-- ARG of a prefix. -/
def sylArg (w : Word) : Nat := wfield w 23 0

/-- Short operation A or B of a pair: SOPC, SDST and SSRC. -/
def sylShort (w : Word) (op : Nat) : Nat × Nat × Nat :=
  let x := if op = 0 then wfield w 26 14 else wfield w 13 1
  (field x 12 8, field x 7 4, field x 3 0)

/-! ### Forms and register classes (04 R118, R119, 05 R162) -/

/-- How a long operation takes source B (04 R119); `f k` decodes `k` immediate bits, `t` is the record form (05 R162). -/
inductive Form where
  | rs | rz | r | f (k : Nat) | n | t
  deriving DecidableEq, Repr

/-- The class of register that an opcode names in a field; `z` for a field it does not use. -/
inductive Cls where
  | g | b | a | md | ac | z
  deriving DecidableEq, Repr

/-- How many numbers of a field the class allows (03 R85, R86); an unused field holds zero (04 R118). -/
def Cls.size : Cls → Nat
  | .g => 32
  | .b => 16
  | .a => 8
  | .md => 8
  | .ac => 2
  | .z => 1

/-- The fields of a long opcode: form, classes of DST, SRCA and SRCB, and whether MOD names a b register. -/
structure LongSpec where
  form : Form
  dst : Cls
  srca : Cls
  srcb : Cls
  modB : Bool
  deriving DecidableEq, Repr

/-- The long opcodes of B0 and B1 (04 R122). -/
def longB (opc : Nat) : Option LongSpec :=
  if 1 ≤ opc ∧ opc ≤ 8 then some ⟨.r, .b, .b, .b, false⟩
  else if opc = 0x09 ∨ opc = 0x0A then some ⟨.n, .b, .b, .z, false⟩
  else if opc = 0x0B then some ⟨.r, .b, .b, .b, true⟩
  else if 0x0C ≤ opc ∧ opc ≤ 0x0E then some ⟨.n, .b, .b, .z, false⟩
  else if 0x0F ≤ opc ∧ opc ≤ 0x11 then some ⟨.r, .b, .b, .b, false⟩
  else if 0x20 ≤ opc ∧ opc ≤ 0x2A then some ⟨.rz, .b, .g, .g, false⟩
  else none

/-- The long opcodes of A0 and A1 (04 R130); the string forms only in A0 (04 R136). -/
def longA (a0 : Bool) (opc : Nat) : Option LongSpec :=
  if 1 ≤ opc ∧ opc ≤ 5 then some ⟨.rs, .g, .g, .g, false⟩
  else if opc = 0x06 then some ⟨.rs, .g, .z, .g, false⟩
  else if 0x07 ≤ opc ∧ opc ≤ 0x0E then some ⟨.rz, .g, .g, .g, false⟩
  else if opc = 0x0F ∨ opc = 0x10 then some ⟨.rs, .g, .g, .g, false⟩
  else if opc = 0x11 ∨ opc = 0x12 then some ⟨.rz, .g, .g, .g, false⟩
  else if opc = 0x13 then some ⟨.n, .g, .g, .z, false⟩
  else if opc = 0x14 then some ⟨.r, .g, .g, .g, true⟩
  else if 0x15 ≤ opc ∧ opc ≤ 0x17 then some ⟨.f 9, .g, .g, .z, false⟩
  else if opc = 0x18 ∨ opc = 0x19 then some ⟨.n, .g, .g, .z, false⟩
  else if 0x1A ≤ opc ∧ opc ≤ 0x1F then some ⟨.rs, .b, .g, .g, false⟩
  else if 0x20 ≤ opc ∧ opc ≤ 0x24 then some ⟨.rz, .b, .g, .g, false⟩
  else if opc = 0x25 then some ⟨.n, .g, .z, .z, false⟩
  else if opc = 0x26 then some ⟨.n, .z, .g, .z, false⟩
  else if opc = 0x27 then some ⟨.f 4, .b, .z, .z, false⟩
  else if opc = 0x28 then some ⟨.n, .g, .z, .z, false⟩
  else if opc = 0x29 then some ⟨.n, .z, .g, .z, false⟩
  else if opc = 0x2A then some ⟨.rz, .z, .z, .g, false⟩
  else if opc = 0x2B then some ⟨.n, .g, .z, .z, false⟩
  else if opc = 0x2C then some ⟨.rz, .a, .z, .g, false⟩
  else if opc = 0x2D then some ⟨.rs, .a, .a, .g, false⟩
  else if opc = 0x2E then some ⟨.n, .g, .a, .z, false⟩
  else if opc = 0x2F ∨ opc = 0x30 then some ⟨.n, .g, .g, .z, false⟩
  else if 0x31 ≤ opc ∧ opc ≤ 0x34 then some ⟨.rz, .g, .g, .g, false⟩
  else if opc = 0x35 then some ⟨.rz, .z, .g, .g, false⟩
  else if 0x36 ≤ opc ∧ opc ≤ 0x3A then (if a0 then some ⟨.n, .a, .a, .z, false⟩ else none)
  else none

/-- The long opcodes of M (04 R139). -/
def longM (opc : Nat) : Option LongSpec :=
  if opc = 0x01 ∨ opc = 0x02 then some ⟨.rs, .g, .g, .g, false⟩
  else if opc = 0x03 then some ⟨.rz, .g, .g, .g, false⟩
  else if opc = 0x04 ∨ opc = 0x06 ∨ opc = 0x08 ∨ opc = 0x09 then some ⟨.rs, .ac, .g, .g, false⟩
  else if opc = 0x05 ∨ opc = 0x07 then some ⟨.rz, .ac, .g, .g, false⟩
  else if opc = 0x0A then some ⟨.r, .ac, .g, .g, false⟩
  else if opc = 0x0B ∨ opc = 0x0C then some ⟨.rz, .g, .ac, .g, false⟩
  else if opc = 0x0D ∨ opc = 0x0E then some ⟨.n, .g, .ac, .z, false⟩
  else if opc = 0x0F then some ⟨.r, .ac, .g, .g, false⟩
  else if opc = 0x10 then some ⟨.n, .ac, .g, .z, false⟩
  else if opc = 0x11 then some ⟨.r, .md, .g, .g, false⟩
  else if opc = 0x12 then some ⟨.rs, .a, .md, .g, false⟩
  else none

/-- The long opcodes of L (05 R153). -/
def longL (opc : Nat) : Option LongSpec :=
  if 0x01 ≤ opc ∧ opc ≤ 0x08 then some ⟨.rs, .g, .a, .g, false⟩
  else if 0x09 ≤ opc ∧ opc ≤ 0x0E then some ⟨.rs, .g, .z, .g, false⟩
  else if opc = 0x0F ∨ opc = 0x10 then some ⟨.rs, .b, .a, .g, false⟩
  else if opc = 0x11 ∨ opc = 0x12 then some ⟨.rs, .b, .z, .g, false⟩
  else if opc = 0x13 ∨ opc = 0x14 then some ⟨.rs, .g, .a, .g, false⟩
  else if opc = 0x15 ∨ opc = 0x16 then some ⟨.r, .g, .a, .md, false⟩
  else if opc = 0x17 then some ⟨.rs, .a, .a, .g, false⟩
  else if opc = 0x18 ∨ opc = 0x19 then some ⟨.f 6, .g, .z, .z, false⟩
  else none

/-- The long opcodes of C (05 R158). -/
def longC (opc : Nat) : Option LongSpec :=
  if opc = 0x01 then some ⟨.rz, .z, .z, .g, false⟩
  else if opc = 0x02 ∨ opc = 0x03 then some ⟨.rz, .z, .b, .g, false⟩
  else if opc = 0x04 ∨ opc = 0x05 then some ⟨.rz, .z, .g, .g, false⟩
  else if opc = 0x06 then some ⟨.rz, .g, .z, .g, false⟩
  else if opc = 0x07 then some ⟨.rz, .z, .a, .g, false⟩
  else if opc = 0x08 ∨ opc = 0x09 then some ⟨.n, .z, .z, .z, false⟩
  else if opc = 0x0A then some ⟨.rs, .a, .z, .g, false⟩
  else if opc = 0x0B then some ⟨.n, .b, .z, .z, false⟩
  else if opc = 0x0C then some ⟨.f 3, .g, .z, .z, false⟩
  else if opc = 0x0D then some ⟨.f 5, .z, .z, .z, false⟩
  else if 0x20 ≤ opc ∧ opc ≤ 0x28 then some ⟨.t, .b, .b, .g, false⟩
  else if 0x29 ≤ opc ∧ opc ≤ 0x2B then some ⟨.t, .b, .b, .z, false⟩
  else none

/-- The fields of a long opcode of a unit; none where the code is illegal (04 R120). -/
def longSpec (u opc : Nat) : Option LongSpec :=
  if u = 0 then longC opc
  else if u = 1 ∨ u = 2 then longB opc
  else if u = 3 then longA true opc
  else if u = 4 then longA false opc
  else if u = 5 then longM opc
  else longL opc

/-- The classes of SDST and SSRC of a short opcode; none where the code is illegal (04 R123, R131, R140, 05 R154, R159). Number classes above 15 do not arise in the four-bit fields. -/
def shortSpec (u opc : Nat) : Option (Cls × Cls) :=
  if u = 0 then
    if opc = 1 then some (.g, .z) else if opc = 2 then some (.b, .z) else none
  else if u = 1 ∨ u = 2 then
    if 1 ≤ opc ∧ opc ≤ 0x0A then some (.b, .b)
    else if opc = 0x0B ∨ opc = 0x0C then some (.b, .z) else none
  else if u = 3 ∨ u = 4 then
    if 1 ≤ opc ∧ opc ≤ 0x18 then some (.g, .g) else none
  else if u = 5 then
    if 1 ≤ opc ∧ opc ≤ 8 then some (.g, .g)
    else if opc = 9 ∨ opc = 0x0A then some (.g, .ac)
    else if opc = 0x0B then some (.a, .md) else none
  else
    if 1 ≤ opc ∧ opc ≤ 4 then some (.g, .a)
    else if opc = 5 ∨ opc = 6 then some (.g, .g)
    else if opc = 7 ∨ opc = 8 then some (.b, .g)
    else if opc = 9 ∨ opc = 0x0A then some (.g, .g) else none

/-! ### Operand B -/

/-- The raw immediate: EXT's 32-bit operand (03 R103) or IMM9. -/
def immRaw (ext : Option Nat) (w : Word) : Nat :=
  match ext with
  | some arg => (arg * 256 + wfield w 7 0) % 2 ^ 32
  | none => sylImm9 w

/-- Source B of an R/S operation: a register value, or the immediate sign-extended (04 R119). -/
def operandRS (ext : Option Nat) (w : Word) (reg : Nat → Word) : Word :=
  if sylImm w then
    match ext with
    | some _ => w32 (immRaw ext w)
    | none => if sylImm9 w < 256 then w32 (sylImm9 w) else i32 ((sylImm9 w : Int) - 512)
  else reg (sylB w)

/-- Source B of an R/Z operation: a register value, or the immediate zero-extended (04 R119). -/
def operandRZ (ext : Option Nat) (w : Word) (reg : Nat → Word) : Word :=
  if sylImm w then w32 (immRaw ext w) else reg (sylB w)

/-! ### Illegal encodings (03 R108, 04 R144) -/

/-- A transfer, call, return or end of run (03 R108 cause 8). -/
def isTransfer (w : Word) : Bool :=
  sylU w = 0 && !sylP w && decide (1 ≤ sylOpc w ∧ sylOpc w ≤ 9)

/-- A record operation of the C unit (05 R162). -/
def isRecord (w : Word) : Bool :=
  sylU w = 0 && !sylP w && decide (0x20 ≤ sylOpc w ∧ sylOpc w ≤ 0x2B)

/-- An image operation of a bit unit (04 R122). -/
def isImageOp (w : Word) : Bool :=
  (sylU w = 1 || sylU w = 2) && !sylP w && decide (0x20 ≤ sylOpc w ∧ sylOpc w ≤ 0x2A)

/-- A packed-decimal string operation (04 R136). -/
def isString (w : Word) : Bool :=
  sylU w = 3 && !sylP w && decide (0x36 ≤ sylOpc w ∧ sylOpc w ≤ 0x3A)

/-- Are the fields of a record operation within R162? -/
def recordFieldsOk (w : Word) : Bool :=
  let opc := sylOpc w
  !sylImm w && decide (sylMod w < 8) &&
    decide (sylDst w < (if opc = 0x28 then 15 else 16)) &&
    decide (sylA w < (if opc = 0x28 then 13 else if opc = 0x26 ∨ opc = 0x27 then 15 else 16)) &&
    (decide (opc < 0x29) || decide (sylB w = 0))

/-- Are the fields of a long operation as its form and classes require (04 R118, R119, R144 cause 3)? -/
def longFieldsOk (ext : Option Nat) (w : Word) (sp : LongSpec) : Bool :=
  let u := sylU w
  let opc := sylOpc w
  decide (sylDst w < sp.dst.size) && decide (sylA w < sp.srca.size) &&
    (match sp.form with
     | .rs | .rz => sylImm w || (decide (sylB w < sp.srcb.size) && decide (sylMod w = 0))
     | .r => !sylImm w && decide (sylB w < sp.srcb.size) && (sp.modB || decide (sylMod w = 0))
     | .f k => sylImm w && decide (immRaw ext w < 2 ^ k)
     | .n => !sylImm w && decide (sylB w = 0) && decide (sylMod w = 0)
     | .t => recordFieldsOk w) &&
    -- EDGR, EDGF, EDGC: DST equal to SRCB (04 R128)
    !((u = 1 || u = 2) && decide (0x0F ≤ opc ∧ opc ≤ 0x11) && decide (sylDst w = sylB w)) &&
    -- TSTBIT immediate above 31, BFLAG sel 10 to 15 (04 R130)
    !((u = 3 || u = 4) && decide (opc = 0x24) && sylImm w && decide (31 < immRaw ext w)) &&
    !((u = 3 || u = 4) && decide (opc = 0x27) && decide (9 < immRaw ext w)) &&
    -- ACEXT, ACEXTR immediate above 63 (04 R139)
    !(u = 5 && decide (opc = 0x0B ∨ opc = 0x0C) && sylImm w && decide (63 < immRaw ext w)) &&
    -- MFTASK sel 7 (05 R160)
    !(u = 0 && decide (opc = 0x0C) && decide (7 ≤ immRaw ext w))

/-- The causes of one short operation. -/
def shortCauses (u : Nat) (o : Nat × Nat × Nat) : List Nat :=
  match shortSpec u o.1 with
  | none => [1]
  | some (d, s) =>
    if o.2.1 < d.size ∧ o.2.2 < s.size then [] else [3]

/-- The causes of one syllable that is no prefix, its prefix given by `ext`. -/
def sylCauses (ext : Option Nat) (w : Word) : List Nat :=
  let u := sylU w
  if sylP w then
    (if w.getLsbD 0 then [3] else []) ++ shortCauses u (sylShort w 0) ++ shortCauses u (sylShort w 1)
  else
    match longSpec u (sylOpc w) with
    | none => [1]
    | some sp => if longFieldsOk ext w sp then [] else [3]

/-- May an EXT prefix precede the syllable (03 R103)? -/
def extOk (w : Word) : Bool :=
  decide (sylU w ≠ 7) && !sylP w && sylImm w && !w.getLsbD 8

/-- The causes of the syllables after the first, with the unit code before each (0 before the first: none). -/
def tailCauses (ext : Option Nat) : Option Nat → List Word → List Nat
  | _, [] => []
  | prev, w :: t =>
    if sylU w = 7 then
      -- a prefix after the first syllable
      6 :: (if 2 ≤ sylKind w then [2] else []) ++
        (if sylKind w = 0 ∧ sylArg w ≠ 0 then [3] else []) ++ tailCauses none prev t
    else
      (match prev with
       | some p => if p < sylU w then [] else [4]
       | none => []) ++ sylCauses ext w ++ tailCauses none (some (sylU w)) t

/-- The causes of a bundle's words, decoded from the first word on (03 R105, R108 causes 1 to 6). -/
def wordCauses (ws : List Word) : List Nat :=
  match ws with
  | [] => []
  | w :: t =>
    if sylU w = 7 then
      (if 2 ≤ sylKind w then [2] else []) ++
      (if sylS w || sylP w then [6] else []) ++
      (if sylKind w = 0 ∧ sylArg w ≠ 0 then [3] else []) ++
      (match t with
       | [] => []
       | x :: _ =>
         if sylKind w = 1 ∧ extOk x = false then [6]
         else if sylKind w = 0 ∧ sylU x < 3 then [6] else []) ++
      tailCauses (if sylKind w = 1 then some (sylArg w) else none) none t
    else tailCauses none none ws

/-- The words of a bundle up to the first with S = 1, at most the words given. -/
def uptoS : List Word → List Word × Bool
  | [] => ([], false)
  | w :: t => if sylS w then ([w], true) else let (r, ok) := uptoS t; (w :: r, ok)

/-- The least number of a list. -/
def leastOf (l : List Nat) : Option Nat := l.min?

/-- A decoded bundle: its words without the prefix, the EXT argument, whether REP repeats the first of them, its length in bytes. -/
structure Bundle where
  ext : Option Nat
  rep : Bool
  syls : List Word
  len : Nat
  deriving DecidableEq, Repr

/-- Decode a bundle at a program address from the words that a fetch gives (at most 8, fewer at the end of the store): the bundle, or the lowest cause of R108. -/
def decodeBundle (ws : List Word) (inDelay : Bool) : Except Nat Bundle :=
  let (b, ok) := uptoS ws
  let causes := wordCauses b ++ (if ok then [] else if b.length < 8 then [9] else [5]) ++
    (if inDelay && b.any isTransfer then [8] else [])
  match leastOf causes with
  | some c => .error c
  | none =>
    match b with
    | w :: t =>
      if sylU w = 7 then
        .ok { ext := if sylKind w = 1 then some (sylArg w) else none, rep := decide (sylKind w = 0),
              syls := t, len := 4 * b.length }
      else .ok { ext := none, rep := false, syls := b, len := 4 * b.length }
    | [] => .error 5

end Sys2Proof.Machine
end

