-- ==== Sys2Proof/Machine/Lanes.lean ====
section
/-! DEFINITION. What one syllable does in its issue cycle, as the effects it has: results in flight, stores, items for the comparator, transfers and operand faults (03, 04, 05). -/

set_option Elab.async false

namespace Sys2Proof.Machine

open Sys2Proof

/-! ### Registers of a lane (03 R85) -/

/-- g0 reads zero. -/
def Reg.getG (r : Reg) (n : Nat) : Word := if n = 0 then 0 else vget r.g n 0

/-- b0 reads one. -/
def Reg.getB (r : Reg) (n : Nat) : Bool := if n = 0 then true else vget r.b n false

/-- An a register. -/
def Reg.getA (r : Reg) (n : Nat) : Word := vget r.a n 0

/-- A descriptor register. -/
def Reg.getMd (r : Reg) (n : Nat) : Desc := vget r.md n Desc.zero

/-- An accumulator. -/
def Reg.getAc (r : Reg) (n : Nat) : DWord := vget r.ac n 0

/-- The flags of A0 (unit code 3) or A1. -/
def Reg.flags (r : Reg) (u : Nat) : Flags := if u = 3 then r.f0 else r.f1

/-- The flags of one A unit updated; an operation in A0 never changes A1's flags, nor the reverse (03 R87). -/
def Reg.upFlags (r : Reg) (u : Nat) (k : Flags → Flags) : Reg :=
  if u = 3 then { r with f0 := k r.f0 } else { r with f1 := k r.f1 }

/-- A result lands (03 R91); writes to g0 and b0 are discarded (03 R85). -/
def Reg.land (r : Reg) : Dest → Reg
  | .g n v => if n = 0 then r else { r with g := vset r.g n v }
  | .b n v => if n = 0 then r else { r with b := vset r.b n v }
  | .a n v => { r with a := vset r.a n v }
  | .md n v => { r with md := vset r.md n v }
  | .ac n v => { r with ac := vset r.ac n v }
  | .rc v => { r with rc := v }
  | .cy u v => r.upFlags u (fun f => { f with cy := v })
  | .hc u v => r.upFlags u (fun f => { f with hc := v })
  | .ov u v => r.upFlags u (fun f => { f with ov := v })

/-- The order in which results land: by cycle, then by issue, then by unit code, then by operation of a pair (03 R94). -/
def Landing.before (x y : Landing) : Bool :=
  if x.cyc ≠ y.cyc then decide (x.cyc < y.cyc)
  else if x.issued ≠ y.issued then decide (x.issued < y.issued)
  else if x.unit ≠ y.unit then decide (x.unit < y.unit)
  else decide (x.op ≤ y.op)

/-- A result put among those in flight, in landing order. -/
def addLanding (x : Landing) : List Landing → List Landing
  | [] => [x]
  | y :: t => if y.before x then y :: addLanding x t else x :: y :: t

/-- The registers with every result due by cycle `c` landed, and the results still in flight. -/
def landThrough (c : Nat) : List Landing → Reg → Reg × List Landing
  | [], r => (r, [])
  | x :: t, r => if x.cyc ≤ c then landThrough c t (r.land x.dest) else (r, x :: t)

/-! ### The address map (05 R145) -/

/-- The spaces of the L unit's address map. -/
inductive Space where
  | scratch | din | dout | ain | aout | quality | localQuality | inst
  deriving DecidableEq, Repr

/-- The space that a byte address lies in (05 R145). -/
def spaceOf (a : Nat) : Option Space :=
  if a ≤ 0x3FFFF then some .scratch
  else if 0x01000000 ≤ a ∧ a ≤ 0x01007FFF then some .din
  else if 0x01010000 ≤ a ∧ a ≤ 0x01017FFF then some .dout
  else if 0x01020000 ≤ a ∧ a ≤ 0x0105FFFF then some .ain
  else if 0x01060000 ≤ a ∧ a ≤ 0x0109FFFF then some .aout
  else if 0x010A0000 ≤ a ∧ a ≤ 0x010A0FFF then some .quality
  else if 0x010A1000 ≤ a ∧ a ≤ 0x010A103F then some .localQuality
  else if 0x02000000 ≤ a ∧ a ≤ 0x03FFFFFF then some .inst
  else none

/-- Base addresses of the image sections and the instance store in the L map (05 R145). -/
def dinBase : Nat := 0x01000000
@[inherit_doc dinBase] def doutBase : Nat := 0x01010000
@[inherit_doc dinBase] def ainBase : Nat := 0x01020000
@[inherit_doc dinBase] def aoutBase : Nat := 0x01060000
@[inherit_doc dinBase] def qualBase : Nat := 0x010A0000
@[inherit_doc dinBase] def localQualBase : Nat := 0x010A1000
@[inherit_doc dinBase] def instBase : Nat := 0x02000000

/-- Does an access to this address lie in a shared store (03 R100)? -/
def isShared (a : Nat) : Bool :=
  match spaceOf a with
  | some .scratch => false
  | some _ => true
  | none => false

/-- The load latency of a space (05 R145). -/
def loadLatency : Space → Nat
  | .scratch => 2
  | .inst => 6
  | _ => 4

/-- The bank of a byte address (03 R96, 05 R146). -/
def bankOf (a : Nat) : Nat := (a / 16) % 16

/-! ### What an issue sees and does -/

/-- What one syllable reads in its issue cycle. -/
structure Env where
  regs : Reg
  lane : Nat
  /-- the issue cycle, in lane cycles since the first boundary -/
  cyc : Nat
  /-- the beat cycle that MFTASK returns: the leading lane's (05 R160) -/
  beatCyc : Nat
  trailing : Bool
  ext : Option Nat
  scratch : Mem
  base : Mem
  view : Mem
  writes : Ov
  x : Vector XReg 64
  tag : Nat
  rel : Nat
  first : Bool
  calDate : Word
  calTime : Word
  period : Nat
  p : Nat
  task : Nat
  /-- the task's output ranges and write windows (05 R149) -/
  outs : List (Nat × Nat × Nat)
  wins : List (Nat × Nat)
  /-- entries on the link stack, and the top one -/
  depth : Nat
  pc : Nat
  len : Nat
  /-- accumulators chained between the iterations of a repetition (04 R143) -/
  ac0 : Option DWord
  ac1 : Option DWord
  /-- 1 when a string operation delays the L unit's scratch accesses (04 R138) -/
  late : Nat

/-- What the syllables of an issue do. -/
structure Eff where
  lands : List Landing
  scratch : List (Nat × Byte)
  stores : Ov
  items : List Item
  /-- data of shared-store and exchange reads, for the trailing lane (03 R111) -/
  reads : List Word
  /-- trailing lane: data still to be taken from the leading lane -/
  given : List Word
  xw : List (Nat × Word)
  xfer : Option Transfer
  ended : Bool
  checkins : List Nat
  wbs : List Writeback
  /-- causes 10 and 11 met -/
  faults : List Nat
  str : Option StrState
  ac0 : Option DWord
  ac1 : Option DWord
  /-- scratch groups read, for R17 -/
  scratchRead : List Nat
  /-- shared addresses read, for R17 -/
  sharedRead : List Nat
  deriving DecidableEq, Repr

/-- No effect; a trailing lane holds the data that the leading lane read. -/
def Eff.start (given : List Word) : Eff :=
  { lands := [], scratch := [], stores := [], items := [], reads := [], given := given, xw := [], xfer := none,
    ended := false, checkins := [], wbs := [], faults := [], str := none, ac0 := none, ac1 := none,
    scratchRead := [], sharedRead := [] }

/-- A result with a latency. -/
def Eff.land (f : Eff) (e : Env) (u op lat : Nat) (d : Dest) : Eff :=
  { f with lands := f.lands ++ [{ cyc := e.cyc + lat, issued := e.cyc, unit := u, op := op, dest := d }] }

/-- An operand fault (03 R108 causes 10 and 11). -/
def Eff.fault (f : Eff) (c : Nat) : Eff := { f with faults := c :: f.faults }

/-- A value that a shared-store or exchange read returns: the lane's own, or in a trailing lane the leading lane's (03 R111). -/
def Eff.read (f : Eff) (e : Env) (own : Word) (i : Item) : Word × Eff :=
  if e.trailing then
    (f.given.head?.getD 0, { f with given := f.given.tail, items := f.items ++ [i] })
  else (own, { f with reads := f.reads ++ [own], items := f.items ++ [i] })

/-! ### Loads and stores -/

/-- One byte as R47 gives it: the run's own latest store, else the value at the release. -/
def Env.r47 (e : Env) (a : Nat) : Byte := Ov.byte e.writes a (memRead e.base a)

/-- One byte of a shared space: the view for inputs and quality, R47 for the others (05 R145). -/
def Env.sharedByte (e : Env) (sp : Space) (a : Nat) : Byte :=
  match sp with
  | .dout | .aout | .inst => e.r47 a
  | _ => memRead e.view a

/-- `n` bytes of a space. -/
def Env.bytes (e : Env) (sp : Space) (a : Nat) : Nat → List Byte
  | 0 => []
  | n + 1 =>
    (match sp with
     | .scratch => memRead e.scratch a
     | _ => e.sharedByte sp a) :: e.bytes sp (a + 1) n

/-- Does digital output bit `j` belong to the task's output set (05 R149)? -/
def Env.ownsBit (e : Env) (j : Nat) : Bool :=
  e.outs.any (fun o => decide (o.1 = 0 ∧ o.2.1 ≤ j ∧ j < o.2.1 + o.2.2))

/-- Does analogue output word `j` belong to the task's output set? -/
def Env.ownsWord (e : Env) (j : Nat) : Bool :=
  e.outs.any (fun o => decide (o.1 = 1 ∧ o.2.1 ≤ j ∧ j < o.2.1 + o.2.2))

/-- Does a byte of the instance store lie in one of the task's write windows? -/
def Env.ownsInst (e : Env) (off : Nat) : Bool :=
  e.wins.any (fun w => decide (w.1 ≤ off ∧ off < w.1 + w.2))

/-- May the task store the byte at this address (05 R145, R149)? -/
def Env.mayStore (e : Env) (a : Nat) : Bool :=
  match spaceOf a with
  | some .scratch => true
  | some .dout => (List.range 8).all (fun i => e.ownsBit ((a - doutBase) * 8 + i))
  | some .aout => e.ownsWord ((a - aoutBase) / 4)
  | some .inst => e.ownsInst (a - instBase)
  | _ => false

/-- The store item of up to four bytes inside one word (03 R112, R115 KIND 1). -/
def storeItem (a : Nat) (bs : List Byte) (tag : Nat) : Item :=
  let o := a % 4
  .store a (((1 <<< bs.length) - 1) <<< o) (w32 (leNat bs <<< (8 * o))) tag

/-- A load of `n` bytes at `a` with its latency, as its little-endian value (05 R147, R152). -/
def Eff.load (f : Eff) (e : Env) (a n : Nat) : Option (Word × Nat) × Eff :=
  match spaceOf a with
  | none => (none, f.fault 10)
  | some sp =>
    if a % n ≠ 0 then (none, f.fault 10)
    else
      let v := w32 (leNat (e.bytes sp a n))
      if sp = .scratch then
        (some (v, loadLatency sp + e.late), { f with scratchRead := a / 16 :: f.scratchRead })
      else
        let (x, f') := f.read e v (.read a)
        (some (x, loadLatency sp), { f' with sharedRead := a :: f'.sharedRead })

/-- A store of bytes at `a` (05 R147, R149, R152). -/
def Eff.store (f : Eff) (e : Env) (a : Nat) (bs : List Byte) : Eff :=
  if a % bs.length ≠ 0 ∨ (List.range bs.length).all (fun i => e.mayStore (a + i)) = false then f.fault 10
  else if spaceOf a = some .scratch then
    { f with scratch := f.scratch ++ (List.range bs.length).map (fun i => (a + i, bs[i]?.getD 0)) }
  else
    { f with stores := Ov.putBytes f.stores a bs, items := f.items ++ [storeItem a bs e.tag] }

/-! ### The bit units (04 R122 to R128) -/

/-- A logic operation of two bits: codes 1 to 8 of R122 and R123. -/
def bitLogic (opc : Nat) (a b : Bool) : Bool :=
  if opc = 1 then a && b else if opc = 2 then a || b else if opc = 3 then a != b
  else if opc = 4 then a && !b else if opc = 5 then a || !b else if opc = 6 then !(a && b)
  else if opc = 7 then !(a || b) else a == b

/-- The operand X of an image operation (04 R124). -/
def imageX (r : Reg) (ext : Option Nat) (w : Word) : Nat :=
  (r.getG (sylA w) + operandRZ ext w r.getG).toNat

/-- The L-map byte that holds the image bit of an operand X (05 R148). -/
def imageByte (x : Nat) : Nat :=
  (if x.testBit 18 then doutBase else dinBase) + field x 17 0 / 8

/-- The image bit of an operand X as the run sees it (04 R126). -/
def Env.imageBit (e : Env) (x : Nat) : Bool :=
  let a := imageByte x
  (if x.testBit 18 then e.r47 a else memRead e.view a).getLsbD (field x 2 0)

/-- A store to one image bit (04 R126, 03 R112). -/
def Eff.storeBit (f : Eff) (e : Env) (x : Nat) (v : Bool) : Eff :=
  let a := imageByte x
  let m : Byte := 1#8 <<< field x 2 0
  { f with stores := Ov.put a m (if v then m else 0) f.stores, items := f.items ++ [.bitStore a (field x 2 0) v e.tag] }

/-- A long operation of B0 or B1 (04 R122, R124 to R128). -/
def execLongB (f : Eff) (e : Env) (u : Nat) (w : Word) : Eff :=
  let opc := sylOpc w
  let r := e.regs
  let d := sylDst w
  let a := r.getB (sylA w)
  let b := r.getB (sylB w)
  let one (v : Bool) : Eff := f.land e u 0 1 (.b d v)
  if opc ≤ 8 then one (bitLogic opc a b)
  else if opc = 0x09 then one a
  else if opc = 0x0A then one (!a)
  else if opc = 0x0B then one (if r.getB (sylMod w) then a else b)
  else if opc = 0x0C then (if a then one true else f)
  else if opc = 0x0D then (if a then one false else f)
  else if opc = 0x0E then (if a then one (!r.getB d) else f)
  else if opc ≤ 0x11 then
    let v := if opc = 0x0F then a && !b else if opc = 0x10 then !a && b else a != b
    (one v).land e u 0 1 (.b (sylB w) a)
  else
    let x := imageX r e.ext w
    let dv := r.getB d
    if field x 31 19 ≠ 0 then f.fault 10
    else if opc ≤ 0x25 then
      let (v, f') := f.read e (w32 (bit (e.imageBit x))) (.read (imageByte x))
      let t := v.getLsbD 0
      let res := if opc = 0x20 then t else if opc = 0x21 then !t else if opc = 0x22 then dv && t
        else if opc = 0x23 then dv || t else if opc = 0x24 then dv && !t else dv || !t
      { f' with sharedRead := imageByte x :: f'.sharedRead }.land e u 0 4 (.b d res)
    else if x.testBit 18 = false ∨ e.ownsBit (field x 17 0) = false then f.fault 10
    else if opc = 0x26 then f.storeBit e x dv
    else if opc = 0x27 then f.storeBit e x (!dv)
    else if dv = false then f
    else if opc = 0x28 then f.storeBit e x true
    else if opc = 0x29 then f.storeBit e x false
    else
      -- IBTGL: the bit read and its inverse written in one cycle (04 R127)
      let own := e.imageBit x
      let t := if e.trailing then (f.given.head?.getD 0).getLsbD 0 else own
      let f' := if e.trailing then { f with given := f.given.tail } else { f with reads := f.reads ++ [w32 (bit own)] }
      { f' with sharedRead := imageByte x :: f'.sharedRead }.storeBit e x (!t)

/-- A short operation of B0 or B1 (04 R123). -/
def execShortB (f : Eff) (e : Env) (u op : Nat) (o : Nat × Nat × Nat) : Eff :=
  let d := e.regs.getB o.2.1
  let s := e.regs.getB o.2.2
  let v :=
    if o.1 ≤ 8 then bitLogic o.1 d s
    else if o.1 = 9 then s else if o.1 = 0x0A then !s else decide (o.1 = 0x0C)
  f.land e u op 1 (.b o.2.1 v)

/-! ### The arithmetic units (04 R129 to R138) -/

/-- A result with all three flags of its unit. -/
def Eff.landF (f : Eff) (e : Env) (u op lat d : Nat) (v : Word × Flags) : Eff :=
  (((f.land e u op lat (.g d v.1)).land e u op lat (.cy u v.2.cy)).land e u op lat (.hc u v.2.hc)).land e u op lat
    (.ov u v.2.ov)

/-- All three flags of a unit. -/
def Eff.landFlags (f : Eff) (e : Env) (u op lat : Nat) (v : Flags) : Eff :=
  ((f.land e u op lat (.cy u v.cy)).land e u op lat (.hc u v.hc)).land e u op lat (.ov u v.ov)

/-- May a string operation read a word at this address (04 R137)? -/
def stringAddrOk (a : Nat) : Bool := decide (a % 4 = 0) && decide (spaceOf a = some .scratch)

/-- A long operation of A0 or A1 (04 R130); a string operation latches the words of iteration 0 (04 R136). -/
def execLongA (f : Eff) (e : Env) (u : Nat) (w : Word) : Eff :=
  let opc := sylOpc w
  let r := e.regs
  let fl := r.flags u
  let d := sylDst w
  let a := r.getG (sylA w)
  let bs := operandRS e.ext w r.getG
  let bz := operandRZ e.ext w r.getG
  let im := immRaw e.ext w
  let g (v : Word) : Eff := f.land e u 0 1 (.g d v)
  let cmp (v : Bool) : Eff := f.land e u 0 1 (.b d v)
  if opc = 0x01 then f.landF e u 0 1 d (addc a bs false)
  else if opc = 0x02 then f.landF e u 0 1 d (addc a bs fl.cy)
  else if opc = 0x03 then f.landF e u 0 1 d (subc a bs false)
  else if opc = 0x04 then f.landF e u 0 1 d (subc a bs fl.cy)
  else if opc = 0x05 then f.landF e u 0 1 d (subc bs a false)
  else if opc = 0x06 then g bs
  else if opc = 0x07 then g (a &&& bz)
  else if opc = 0x08 then g (a ||| bz)
  else if opc = 0x09 then g (a ^^^ bz)
  else if opc = 0x0A then g (a &&& ~~~ bz)
  else if opc = 0x0B then g (shl a bz)
  else if opc = 0x0C then g (shr a bz)
  else if opc = 0x0D then g (sar a bz)
  else if opc = 0x0E then g (rol a bz)
  else if opc = 0x0F then g (mins a bs)
  else if opc = 0x10 then g (maxs a bs)
  else if opc = 0x11 then g (minu a bz)
  else if opc = 0x12 then g (maxu a bz)
  else if opc = 0x13 then (g (absw a).1).land e u 0 1 (.ov u (absw a).2)
  else if opc = 0x14 then g (if r.getB (sylMod w) then a else r.getG (sylB w))
  else if opc = 0x15 then g (extu a im)
  else if opc = 0x16 then g (exts a im)
  else if opc = 0x17 then g (ins (r.getG d) a im)
  else if opc = 0x18 then g (clz a)
  else if opc = 0x19 then g (popc a)
  else if opc = 0x1A then cmp (decide (a = bs))
  else if opc = 0x1B then cmp (decide (a ≠ bs))
  else if opc = 0x1C then cmp (decide (a.toInt < bs.toInt))
  else if opc = 0x1D then cmp (decide (a.toInt ≤ bs.toInt))
  else if opc = 0x1E then cmp (decide (bs.toInt < a.toInt))
  else if opc = 0x1F then cmp (decide (bs.toInt ≤ a.toInt))
  else if opc = 0x20 then cmp (decide (a.toNat < bz.toNat))
  else if opc = 0x21 then cmp (decide (a.toNat ≤ bz.toNat))
  else if opc = 0x22 then cmp (decide (bz.toNat < a.toNat))
  else if opc = 0x23 then cmp (decide (bz.toNat ≤ a.toNat))
  else if opc = 0x24 then cmp (a.getLsbD (wfield bz 4 0))
  else if opc = 0x25 then
    g (w32 ((List.range 16).foldl (fun n i => n + bit (r.getB i) * 2 ^ i) 0))
  else if opc = 0x26 then
    (List.range 15).foldl (fun acc i => acc.land e u 0 1 (.b (i + 1) (a.getLsbD (i + 1)))) f
  else if opc = 0x27 then cmp (bflag fl im)
  else if opc = 0x28 then g (mff fl)
  else if opc = 0x29 then f.landFlags e u 0 1 (mtf a)
  else if opc = 0x2A then f.land e u 0 1 (.rc (bz.setWidth 16))
  else if opc = 0x2B then g (r.rc.setWidth 32)
  else if opc = 0x2C then f.land e u 0 1 (.a d bz)
  else if opc = 0x2D then f.land e u 0 1 (.a d (r.getA (sylA w) + bs))
  else if opc = 0x2E then g (r.getA (sylA w))
  else if opc = 0x2F then
    let v := dadja a fl.hc
    (g v.1).land e u 0 1 (.cy u (fl.cy || v.2.1))
  else if opc = 0x30 then g (dadjs a fl.hc)
  else if opc = 0x31 then f.landF e u 0 2 d (padd a bz false)
  else if opc = 0x32 then f.landF e u 0 2 d (padd a bz fl.cy)
  else if opc = 0x33 then f.landF e u 0 2 d (psub a bz false)
  else if opc = 0x34 then f.landF e u 0 2 d (psub a bz fl.cy)
  else if opc = 0x35 then f.landFlags e u 0 2 (pcmp a bz)
  else
    let x := (r.getA d).toNat
    let y := (r.getA (sylA w)).toNat
    if stringAddrOk x && stringAddrOk y then
      { f with
        str := some { carry := decide (opc = 0x37 ∨ opc = 0x39) && fl.cy,
                      words := some (memWord e.scratch x, memWord e.scratch y),
                      bad := false, eq := true, hc := 0, deferred := [] },
        scratchRead := x / 16 :: y / 16 :: f.scratchRead }
    else f.fault 10

/-- A short operation of A0 or A1 (04 R131). -/
def execShortA (f : Eff) (e : Env) (u op : Nat) (o : Nat × Nat × Nat) : Eff :=
  let fl := e.regs.flags u
  let d := e.regs.getG o.2.1
  let s := e.regs.getG o.2.2
  let n := o.2.1
  let g (v : Word) : Eff := f.land e u op 1 (.g n v)
  if o.1 = 0x01 then f.landF e u op 1 n (addc d s false)
  else if o.1 = 0x02 then f.landF e u op 1 n (addc d s fl.cy)
  else if o.1 = 0x03 then f.landF e u op 1 n (subc d s false)
  else if o.1 = 0x04 then f.landF e u op 1 n (subc d s fl.cy)
  else if o.1 = 0x05 then g (d &&& s)
  else if o.1 = 0x06 then g (d ||| s)
  else if o.1 = 0x07 then g (d ^^^ s)
  else if o.1 = 0x08 then g (d &&& ~~~ s)
  else if o.1 = 0x09 then g s
  else if o.1 = 0x0A then f.landF e u op 1 n (subc 0 s false)
  else if o.1 = 0x0B then g (~~~ s)
  else if o.1 = 0x0C then g (shl d s)
  else if o.1 = 0x0D then g (shr d s)
  else if o.1 = 0x0E then g (sar d s)
  else if o.1 = 0x0F then g (mins d s)
  else if o.1 = 0x10 then g (maxs d s)
  else if o.1 = 0x11 then
    let v := dadja s fl.hc
    (g v.1).land e u op 1 (.cy u (fl.cy || v.2.1))
  else if o.1 = 0x12 then g (dadjs s fl.hc)
  else if o.1 = 0x13 then f.landF e u op 2 n (padd d s false)
  else if o.1 = 0x14 then f.landF e u op 2 n (padd d s fl.cy)
  else if o.1 = 0x15 then f.landF e u op 2 n (psub d s false)
  else if o.1 = 0x16 then f.landF e u op 2 n (psub d s fl.cy)
  else if o.1 = 0x17 then g (s + 1)
  else g (s - 1)

/-! ### The multiply unit (04 R139 to R141) -/

/-- The accumulator that an accumulating operation adds onto: the previous iteration's under REP (04 R143). -/
def Env.chain (e : Env) (n : Nat) : DWord :=
  (if n = 0 then e.ac0 else e.ac1).getD (e.regs.getAc n)

/-- An accumulator result, kept for the next iteration of a repetition. -/
def Eff.landAc (f : Eff) (e : Env) (op n : Nat) (v : DWord) : Eff :=
  let f := f.land e 5 op 3 (.ac n v)
  if n = 0 then { f with ac0 := some v } else { f with ac1 := some v }

/-- A long operation of M (04 R139). -/
def execLongM (f : Eff) (e : Env) (w : Word) : Eff :=
  let opc := sylOpc w
  let r := e.regs
  let d := sylDst w
  let a := r.getG (sylA w)
  let bs := operandRS e.ext w r.getG
  let bz := operandRZ e.ext w r.getG
  let ps : Int := a.toInt * bs.toInt
  let pz : Int := (a.toNat : Int) * (bz.toNat : Int)
  let acs := r.getAc (sylA w)
  let sh := if sylImm w then immRaw e.ext w else wfield (r.getG (sylB w)) 5 0
  if opc = 0x01 then f.land e 5 0 3 (.g d (i32 ps))
  else if opc = 0x02 then f.land e 5 0 3 (.g d (hi32 ps))
  else if opc = 0x03 then f.land e 5 0 3 (.g d (hi32 pz))
  else if opc = 0x04 then f.land e 5 0 3 (.ac d (i64 ps))
  else if opc = 0x05 then f.land e 5 0 3 (.ac d (i64 pz))
  else if opc = 0x06 then f.landAc e 0 d (e.chain d + i64 ps)
  else if opc = 0x07 then f.landAc e 0 d (e.chain d + i64 pz)
  else if opc = 0x08 then f.landAc e 0 d (e.chain d - i64 ps)
  else if opc = 0x09 then f.landAc e 0 d (sat64 ((e.chain d).toInt + ps))
  else if opc = 0x0A then
    let b := r.getG (sylB w)
    f.landAc e 0 d (e.chain d + i64 (halfS a 0 * halfS b 0 + halfS a 1 * halfS b 1))
  else if opc = 0x0B then f.land e 5 0 1 (.g d (acext acs sh))
  else if opc = 0x0C then f.land e 5 0 1 (.g d (acextr acs sh))
  else if opc = 0x0D then f.land e 5 0 1 (.g d (w32 acs.toNat))
  else if opc = 0x0E then f.land e 5 0 1 (.g d (w32 (acs.toNat >>> 32)))
  else if opc = 0x0F then
    f.land e 5 0 1 (.ac d (BitVec.ofNat 64 (a.toNat * 2 ^ 32 + (r.getG (sylB w)).toNat)))
  else if opc = 0x10 then f.land e 5 0 1 (.ac d (i64 a.toInt))
  else if opc = 0x11 then f.land e 5 0 1 (.md d { base := a, ctl := r.getG (sylB w) })
  else f.land e 5 0 1 (.a d (advance (r.getMd (sylA w)) (r.getA d) bs))

/-- A short operation of M (04 R140). -/
def execShortM (f : Eff) (e : Env) (op : Nat) (o : Nat × Nat × Nat) : Eff :=
  let r := e.regs
  let d := r.getG o.2.1
  let s := r.getG o.2.2
  let p : Int := d.toInt * s.toInt
  if o.1 = 0x01 then f.land e 5 op 3 (.g o.2.1 (i32 p))
  else if o.1 = 0x02 then f.land e 5 op 3 (.g o.2.1 (hi32 p))
  else if o.1 = 0x03 then f.land e 5 op 3 (.g o.2.1 (hi32 ((d.toNat : Int) * (s.toNat : Int))))
  else if o.1 = 0x04 then f.land e 5 op 3 (.g o.2.1 (i32 (s.toInt * s.toInt)))
  else if o.1 = 0x05 then f.landAc e op 0 (e.chain 0 + i64 p)
  else if o.1 = 0x06 then f.landAc e op 1 (e.chain 1 + i64 p)
  else if o.1 = 0x07 then f.landAc e op 0 (e.chain 0 - i64 p)
  else if o.1 = 0x08 then f.landAc e op 1 (e.chain 1 - i64 p)
  else if o.1 = 0x09 then f.land e 5 op 1 (.g o.2.1 (w32 (r.getAc o.2.2).toNat))
  else if o.1 = 0x0A then f.land e 5 op 1 (.g o.2.1 (w32 ((r.getAc o.2.2).toNat >>> 32)))
  else
    let m := r.getMd o.2.2
    f.land e 5 op 1 (.a o.2.1 (advance m (r.getA o.2.1) (shortStep m)))

/-! ### The load/store unit (05 R152 to R155) -/

/-- The width in bytes of a load or store opcode (05 R153). -/
def accessBytes (opc : Nat) : Nat :=
  if opc = 0x01 ∨ opc = 0x06 ∨ opc = 0x09 ∨ opc = 0x0C ∨ 0x13 ≤ opc ∧ opc ≤ 0x17 then 4
  else if opc = 0x02 ∨ opc = 0x03 ∨ opc = 0x07 ∨ opc = 0x0A ∨ opc = 0x0D then 2
  else 1

/-- The address of a long L operation (05 R152). -/
def longLAddr (r : Reg) (ext : Option Nat) (w : Word) : Nat :=
  let opc := sylOpc w
  let b := operandRS ext w r.getG
  if (0x09 ≤ opc ∧ opc ≤ 0x0E) ∨ opc = 0x11 ∨ opc = 0x12 then (r.ip + b).toNat
  else if 0x13 ≤ opc ∧ opc ≤ 0x16 then (r.getA (sylA w)).toNat
  else (r.getA (sylA w) + b).toNat

/-- The address of a short L operation, when it has one (05 R154). -/
def shortLAddr (r : Reg) (o : Nat × Nat × Nat) : Option Nat :=
  if 1 ≤ o.1 ∧ o.1 ≤ 4 then some (r.getA o.2.2).toNat
  else if o.1 = 5 ∨ o.1 = 6 then some (r.ip + w32 (4 * o.2.2)).toNat
  else if o.1 = 7 ∨ o.1 = 8 then some (r.ip + w32 o.2.2).toNat
  else none

/-- A loaded value sign-extended from `n` bytes. -/
def signExt (n : Nat) (v : Word) : Word :=
  if n = 1 then (v.setWidth 8 : BitVec 8).signExtend 32
  else if n = 2 then (v.setWidth 16 : BitVec 16).signExtend 32 else v

/-- A load with its destination. -/
def Eff.loadTo (f : Eff) (e : Env) (op a n : Nat) (k : Word → Dest) : Eff :=
  match f.load e a n with
  | (some (v, lat), f') => f'.land e 6 op lat (k v)
  | (none, f') => f'

/-- An exchange read samples the register as it stood at the start of the cycle (03 R88). -/
def xSample (x : XReg) (cyc : Nat) : Word := if x.cyc < cyc then x.cur else x.prev

/-- An exchange read (03 R88, R111). -/
def Eff.xrd (f : Eff) (e : Env) (op d n : Nat) : Eff :=
  let (v, f') := f.read e (xSample (vget e.x n XReg.zero) e.cyc) (.xread n)
  f'.land e 6 op 3 (.g d v)

/-- An exchange write (03 R88); a later one of the bundle to the same register takes effect (05 R155). -/
def Eff.xwr (f : Eff) (n : Nat) (v : Word) : Eff :=
  { f with xw := f.xw.filter (·.1 ≠ n) ++ [(n, v)], items := f.items ++ [.xwrite n v] }

/-- A long operation of L (05 R153). -/
def execLongL (f : Eff) (e : Env) (w : Word) : Eff :=
  let opc := sylOpc w
  let r := e.regs
  let d := sylDst w
  let n := accessBytes opc
  let a := longLAddr r e.ext w
  let bit1 (v : Bool) : List Byte := [if v then 1 else 0]
  if opc = 0x18 then f.xrd e 0 d (immRaw e.ext w)
  else if opc = 0x19 then f.xwr (immRaw e.ext w) (r.getG d)
  else
    let f :=
      if opc = 0x01 ∨ opc = 0x03 ∨ opc = 0x05 ∨ opc = 0x09 ∨ opc = 0x0A ∨ opc = 0x0B ∨ opc = 0x13 ∨ opc = 0x15 then
        f.loadTo e 0 a n (.g d)
      else if opc = 0x02 ∨ opc = 0x04 then f.loadTo e 0 a n (fun v => .g d (signExt n v))
      else if opc = 0x0F ∨ opc = 0x11 then f.loadTo e 0 a 1 (fun v => .b d (decide (v ≠ 0)))
      else if opc = 0x17 then f.loadTo e 0 a 4 (.a d)
      else if opc = 0x10 ∨ opc = 0x12 then f.store e a (bit1 (r.getB d))
      else f.store e a ((wbytes (r.getG d)).take n)
    if opc = 0x13 ∨ opc = 0x14 then
      f.land e 6 0 1 (.a (sylA w) (r.getA (sylA w) + operandRS e.ext w r.getG))
    else if opc = 0x15 ∨ opc = 0x16 then
      let m := r.getMd (sylB w)
      f.land e 6 0 1 (.a (sylA w) (advance m (r.getA (sylA w)) (shortStep m)))
    else f

/-- A short operation of L (05 R154). -/
def execShortL (f : Eff) (e : Env) (op : Nat) (o : Nat × Nat × Nat) : Eff :=
  let r := e.regs
  let d := o.2.1
  match shortLAddr r o with
  | none => if o.1 = 9 then f.xrd e op d o.2.2 else f.xwr o.2.2 (r.getG d)
  | some a =>
    let f :=
      if o.1 = 1 ∨ o.1 = 3 ∨ o.1 = 5 then f.loadTo e op a 4 (.g d)
      else if o.1 = 7 then f.loadTo e op a 1 (fun v => .b d (decide (v ≠ 0)))
      else if o.1 = 8 then f.store e a [if r.getB d then 1 else 0]
      else f.store e a (wbytes (r.getG d))
    if o.1 = 3 ∨ o.1 = 4 then f.land e 6 op 1 (.a o.2.2 (r.getA o.2.2 + 4)) else f

/-! ### The control unit (05 R156 to R168) -/

/-- A transfer scheduled (03 R107). -/
def Eff.transfer (f : Eff) (taken : Bool) (target : Nat) (k : XferKind) : Eff :=
  { f with xfer := some { left := 2, taken := taken, target := target, kind := k } }

/-- A record operation (05 R162, R163): Q results and the write-back land at the issue cycle plus 7. -/
def execRecord (f : Eff) (e : Env) (w : Word) : Eff :=
  let opc := sylOpc w
  let r := e.regs
  let d := sylDst w
  let n := sylA w
  let a := (r.getA (sylMod w)).toNat
  let size := if 0x29 ≤ opc then 1 else 16
  if a % size ≠ 0 ∨ spaceOf a ≠ some .inst ∨ (List.range size).all (fun i => e.ownsInst (a - instBase + i)) = false then
    f.fault 10
  else
    let own := e.bytes .inst a size
    let words := (List.range ((size + 3) / 4)).map (fun i => w32 (getLE own (4 * i) (min 4 size)))
    -- the leading lane reads the record; the trailing lane receives its data (03 R111)
    let (bytes, f) : List Byte × Eff :=
      if e.trailing then
        ((((f.given.take words.length).map wbytes).flatten).take size,
         { f with given := f.given.drop words.length, items := f.items ++ [.read a] })
      else (own, { f with reads := f.reads ++ words, items := f.items ++ [.read a] })
    let f := { f with sharedRead := a :: f.sharedRead }
    let b (i : Nat) : Bool := r.getB (n + i)
    let pv := r.getG (sylB w)
    let fin (f : Eff) (bs : List Byte) : Eff := { f with wbs := f.wbs ++ [{ cyc := e.cyc + 7, addr := a, bytes := bs }] }
    if opc ≤ 0x25 then
      let t := timerEval (opc - 0x1F) (TimerRec.ofBytes bytes) (b 0) pv.toNat e.rel e.p
      fin (f.land e 0 0 7 (.b d t.q)) t.toBytes
    else if opc ≤ 0x28 then
      let c0 := CounterRec.ofBytes bytes
      let c :=
        if opc = 0x26 then counterEval 7 c0 (b 0) false (b 1) false pv.toInt e.rel
        else if opc = 0x27 then counterEval 8 c0 false (b 0) false (b 1) pv.toInt e.rel
        else counterEval 9 c0 (b 0) (b 1) (b 2) (b 3) pv.toInt e.rel
      let f := f.land e 0 0 7 (.b d (if opc = 0x27 then c.qd else c.qu))
      let f := if opc = 0x28 then f.land e 0 0 7 (.b (d + 1) c.qd) else f
      fin f c.toBytes
    else
      let m := edgeEval (opc - 0x29) (bytes.head?.getD 0) (b 0)
      fin (f.land e 0 0 7 (.b d m.2)) [m.1]

/-- The value that MFTASK returns (05 R160). -/
def mftask (e : Env) (sel : Nat) : Word :=
  if sel = 0 then w32 e.rel else if sel = 1 then w32 e.period else if sel = 2 then w32 e.p
  else if sel = 3 then w32 e.task else if sel = 4 then w32 e.beatCyc
  else if sel = 5 then e.calDate else e.calTime

/-- A long operation of C (05 R156 to R162). -/
def execLongC (f : Eff) (e : Env) (w : Word) : Eff :=
  let opc := sylOpc w
  let r := e.regs
  let d := sylDst w
  let target := 4 * (operandRZ e.ext w r.getG).toNat
  if opc = 0x01 then f.transfer true target .branch
  else if opc = 0x02 then f.transfer (r.getB (sylA w)) target .branch
  else if opc = 0x03 then f.transfer (!r.getB (sylA w)) target .branch
  else if opc = 0x04 then f.transfer (decide (r.getG (sylA w) = 0)) target .branch
  else if opc = 0x05 then f.transfer (decide (r.getG (sylA w) ≠ 0)) target .branch
  else if opc = 0x06 then
    let v := r.getG d - 1
    (f.land e 0 0 1 (.g d v)).transfer (decide (v ≠ 0)) target .branch
  else if opc = 0x07 then
    if 16 ≤ e.depth then f.fault 11 else f.transfer true target (.call (r.getA (sylA w)))
  else if opc = 0x08 then
    if e.depth = 0 then f.fault 11 else f.transfer true 0 .ret
  else if opc = 0x09 then { f with ended := true, items := f.items ++ [.fin] }
  else if opc = 0x0A then f.land e 0 0 1 (.a d (r.ip + operandRS e.ext w r.getG))
  else if opc = 0x0B then f.land e 0 0 1 (.b d e.first)
  else if opc = 0x0C then f.land e 0 0 1 (.g d (mftask e (immRaw e.ext w)))
  else if opc = 0x0D then
    { f with checkins := f.checkins ++ [immRaw e.ext w], items := f.items ++ [.chkin (immRaw e.ext w)] }
  else execRecord f e w

/-- A short operation of C (05 R159). -/
def execShortC (f : Eff) (e : Env) (op : Nat) (o : Nat × Nat × Nat) : Eff :=
  if o.1 = 1 then f.land e 0 op 1 (.g o.2.1 (w32 e.rel)) else f.land e 0 op 1 (.b o.2.1 e.first)

/-! ### A syllable and a bundle -/

/-- A syllable executes in its issue cycle; both operations of a pair read their sources before either writes (03 R104). -/
def execSyl (f : Eff) (e : Env) (w : Word) : Eff :=
  let u := sylU w
  if sylP w then
    let one (f : Eff) (op : Nat) : Eff :=
      let o := sylShort w op
      if u = 0 then execShortC f e op o
      else if u = 1 ∨ u = 2 then execShortB f e u op o
      else if u = 3 ∨ u = 4 then execShortA f e u op o
      else if u = 5 then execShortM f e op o
      else execShortL f e op o
    one (one f 0) 1
  else if u = 0 then execLongC f e w
  else if u = 1 ∨ u = 2 then execLongB f e u w
  else if u = 3 ∨ u = 4 then execLongA f e u w
  else if u = 5 then execLongM f e w
  else execLongL f e w

/-- The banks of the shared-store accesses that a syllable makes with these registers (03 R100, R125, 05 R145, R163). -/
def sylBanks (r : Reg) (ext : Option Nat) (w : Word) : List Nat :=
  if isImageOp w then [field (imageX r ext w) 10 7]
  else if isRecord w then [bankOf (r.getA (sylMod w)).toNat]
  else if sylU w = 6 then
    if sylP w then
      [0, 1].flatMap (fun op =>
        match shortLAddr r (sylShort w op) with
        | some a => if isShared a then [bankOf a] else []
        | none => [])
    else if sylOpc w ≤ 0x17 then
      let a := longLAddr r ext w
      if isShared a then [bankOf a] else []
    else []
  else []

/-- Does lane `k` own bank `b` in beat cycle `c` (03 R97)? -/
def ownsBank (k b c : Nat) : Bool := decide ((b + 32 * 16 - 2 * k + (16 - c % 16)) % 16 ≤ 1)

end Sys2Proof.Machine
end

