-- ==== Sys2Proof/Machine/Ring.lean ====
section
/-! DEFINITION. The trace ring: capture, trimming to the capacity, markers, and what a stop of beats writes (14 R414 to R417, R423). -/

set_option Elab.async false

namespace Sys2Proof.Machine

open Sys2Proof

/-! ### Items (14 R415) -/

/-- Payload bytes of an ANCHOR item. -/
def anchorLen : Nat := 34149440

/-- LENGTH of an item. -/
def TItem.length (x : TItem) : Nat := if x.anchor.isSome then anchorLen else x.bytes.length

/-- The POS span of an item: its header and its padded payload. -/
def TItem.span (x : TItem) : Nat := 16 + (x.length + 15) / 16 * 16

/-! ### The ring (14 R415, R423) -/

/-- The role, the state and entry 0x5300 let the trace unit capture (14 R414). -/
def State.traceOn (s : State) : Bool := decide (s.pwr.role = .controller) && s.governs && decide (s.inForce 0x5300 0 1 ≠ 0)

/-- The trace unit captures (14 R414, R424). -/
def State.capturing (s : State) : Bool :=
  s.traceOn && (decide (s.trc.st = 0) || (decide (s.trc.st = 1) && decide (0 < s.trc.postLeft)))

/-- The oldest items go while the ring holds more than its capacity. -/
def trimRing (cap pos : Nat) : List TItem → Nat → List TItem × Nat
  | [], lost => ([], lost)
  | x :: t, lost => if cap < pos - lost then trimRing cap pos t (lost + x.span) else (x :: t, lost)

/-- Is an item a complete anchor? -/
def TItem.anchored (x : TItem) : Bool :=
  match x.anchor with
  | some a => a.complete
  | none => false

/-- The ring is trimmed to its capacity; a stream that falls behind jumps (14 R427). When no complete anchor is left, TRC_ANCHOR_BEAT names none. -/
def State.trimTrace (s : State) : State :=
  let r := trimRing s.trc.cap s.trc.pos s.trc.items s.trc.lost
  let s := s.upTrc (fun q => { q with
    items := r.1, lost := r.2, anchorBeat := if q.lost = r.2 ∨ r.1.any TItem.anchored then q.anchorBeat else 0 })
  if s.trc.streaming && decide (s.trc.streamPos < s.trc.lost) then
    (s.upTrc (fun q => { q with
      skip := q.skip + (q.lost - q.streamPos), streamPos := q.lost, gapNext := true })).trcCause 3
  else s

/-- An item is written. -/
def State.traceWrite (s : State) (x : TItem) : State :=
  if s.capturing then
    (s.upTrc (fun q => { q with items := q.items ++ [x], pos := q.pos + x.span })).trimTrace
  else s

/-- An item of bytes, not written when it holds nothing. -/
def State.traceBytes (s : State) (type : Nat) (b : List Byte) : State :=
  if b.isEmpty then s else s.traceWrite { type := type, beat := s.clk.beat, bytes := b, corrupt := false, anchor := none }

/-- A MARKER of the beat in progress; markers stand after the beat's other items (14 R416). -/
def State.traceMark (s : State) (code : Nat) : State :=
  s.upTrc (fun q => { q with beatBuf := q.beatBuf ++
    [{ type := 9, beat := s.clk.beat, bytes := leBytes 1 code ++ zeros 7 ++ leBytes 8 s.sto.msCount, corrupt := false, anchor := none }] })

/-- The RUN item and the markers of the beat that ends are written, or dropped when they come too late (14 R417). -/
def State.traceFlush (s : State) (late : Bool) : State :=
  let s := if late then s else
    s.trc.beatBuf.foldl (fun acc x => acc.traceWrite x) (s.traceBytes 7 s.trc.runs)
  s.upTrc (fun q => { q with runs := [], beatBuf := [] })

/-- The ring becomes frozen (14 R424). -/
def State.ringFrozen (s : State) : State := (s.upTrc (fun q => { q with st := 2 })).trcCause 2

/-- Beats stop: what is buffered is written with a MARKER of code 6 (14 R416), and a ring that is freezing is frozen at once (14 R424). -/
def State.traceStop (s : State) : State :=
  let s := (s.traceMark 6).traceFlush false
  if s.trc.st = 1 then s.ringFrozen else s

/-! ### Requests for an anchor (14 R422) -/

/-- An anchor is requested; a request while one is pending or copied is merged. -/
def State.requestAnchor (s : State) : State :=
  s.upTrc (fun q => { q with anchorReq := q.anchorReq || q.anchorCopy.isNone, anchorAt := s.clk.now })

/-! ### The end of a replay (14 R430 to R432) -/

/-- Is a replay running? -/
def State.replaying (s : State) : Bool := decide (s.pwr.role = .replay) && decide (s.trc.replay = 2)

/-- The replay ends after `done` whole beats: its report, its state and its cause; a refusal reports no beat. -/
def State.endReplayAt (s : State) (done code kind task lset recd repl : Nat) : State :=
  let s := s.upTrc (fun q => { q with
    replay := if code = 2 then 4 else if code = 7 then 5 else 3
    report := leBytes 1 code ++ leBytes 1 kind ++ leBytes 1 task ++ leBytes 1 lset ++ zeros 4 ++
      leBytes 8 (if code = 7 then 0 else s.clk.beat) ++
      leBytes 8 q.replayFrom ++ leBytes 8 (if code = 7 then 0 else done) ++ leBytes 4 recd ++ leBytes 4 repl ++ zeros 24 })
  let s := if code = 7 then s else s.upClk (fun c => { c with running := false })
  if code = 2 then s.trcCause 7 else if code = 7 then s else s.trcCause 6

/-- The replay ends within the beat in progress. -/
def State.endReplay (s : State) (code kind task lset recd repl : Nat) : State :=
  s.endReplayAt (s.clk.beat - s.trc.replayFrom) code kind task lset recd repl

end Sys2Proof.Machine
end

