-- ==== Sys2Proof/Machine/Roles.lean ====
section
/-! DEFINITION. Role transitions, stopping the lanes, fail-safe halt and divergence (03 R113 to R115, 07 R200, R221 to R224), with the causeway frames they send and the entries in force that they read. -/

set_option Elab.async false

namespace Sys2Proof.Machine

open Sys2Proof

/-! ### Identities (09 R296, 07 R241) -/

/-- Own node identity (09 R296 NODE_ID). -/
def State.node (s : State) : Nat := s.inForce 0x1001 0 1023

/-- The partner's node identity (07 R241 PARTNER_NODE). -/
def State.partnerNode (s : State) : Nat := s.inForce 0x6001 0 0xFFFF

/-! ### The time base (01 R21, 02 R35, R36, 09 R271) -/

/-- Is the time base locked, and reported so (01 R21, 09 R271)? -/
def State.isLocked (s : State) : Bool := s.clk.locked && !s.clk.slewLimited

/-- FLAGS.SYNC: locked, and no longer flagged unsynchronised (02 R35, R36, 09 R271; log 27). -/
def State.sync (s : State) : Bool := s.isLocked && s.clk.ptpNum

/-! ### Instants of lane cycles (03 R97, R98) -/

/-- The lane cycle of the current boundary. -/
def State.boundaryCyc (s : State) : Nat := s.clk.beatsRun * s.beatCycles

/-- The lane cycle of the present instant. -/
def State.nowCyc (s : State) : Nat := s.boundaryCyc + (s.clk.now - s.clk.beatAt) / 2

/-- The instant of a lane cycle, ns. -/
def State.cycInstant (s : State) (c : Nat) : Nat := s.clk.beatAt + 2 * c - 2 * s.boundaryCyc

/-! ### Causeway frames (07 R211) -/

/-- A causeway frame: header group and payload groups. -/
def State.cwFrame (s : State) (type flags pos : Nat) (payload : List Byte) : List Byte :=
  leBytes 1 type ++ leBytes 1 flags ++ leBytes 2 s.csw.term ++ leBytes 2 (s.node + 1024 * s.csw.role.code) ++
    leBytes 2 (payload.length / 16) ++ leBytes 8 pos ++ payload

/-- A frame sent on each lane that is up. -/
def State.sendBoth (s : State) (type flags : Nat) (payload : List Byte) : State :=
  let f := s.cwFrame type flags 0 payload
  let f1 := s.cwFrame type (flags + 1) 0 payload
  let s := if vget s.csw.laneUp 0 false then s.send (.cw 0 f) else s
  if vget s.csw.laneUp 1 false then s.send (.cw 1 f1) else s

/-! ### Waymarks of tasks (13 R387) -/

/-- The task slots that satisfy `f` are disarmed. -/
def State.disarmTasks (s : State) (f : Nat → Bool) : State :=
  s.upWdg (fun w => { w with slots := w.slots.map (fun x =>
    if x.owner = 1 && f x.number then { x with armed := false } else x) })

/-! ### The open half is given up (03 R113, 13 R409) -/

/-- A snapshot goes into its record: SNAP_PENDING clears (13 R409). -/
def Evr.completeSnap (e : Evr) (x : Snap) : Evr :=
  { e with recs := e.recs.map (fun r =>
      if r.seq = x.seq && r.snapPending then { r with snap := x.bytes, snapPending := false } else r) }

/-- The open half is not committed; its pending snapshots are written directly. -/
def State.abandonOpen (s : State) : State :=
  let h := s.sto.opened
  ((s.upEvr (fun e => h.snaps.foldl Evr.completeSnap e)).upOpen (fun _ => Half.reset)).upSto
    (fun x => { x with isOpen := false })

/-- From the second cycle after cycle `c` no lane issues another bundle (03 R113). -/
def State.stopLanes (s : State) (c : Nat) : State :=
  s.upClu (fun u => if u.stopped then u else { u with stopped := true, stopCyc := c })

/-- FAILED and fail-safe halt empty every transmit queue (10 R316). -/
def State.canQuiet (s : State) : State :=
  s.upCan (fun ps => ps.map (fun c => { c with kvOut := [], bufs := c.bufs.map (fun b => { b with queue := [] }) }))

/-- Beats stop: what the trace buffers is written with its marker (11 R325, 14 R416). -/
def State.stopBeats (s : State) : State :=
  if s.clk.running then s.traceStop.upClk (fun c => { c with running := false }) else s

/-! ### Transitions (07 R221, R222, R241) -/

/-- Entry 0x6014 LAST_TRANSITION, and the departure from ACTIVE of entry 0x6012 (07 R231, R241). A unit that neither is ACTIVE nor SOLO sends no station frame that it still holds (07 R200). -/
def State.transition (s : State) (new : RoleState) (reason gap : Nat) : State :=
  let old := s.csw.role
  let s := s.upCsw (fun c => { c with
    role := new, claimOn := false
    sinceActive := if old = .active ∧ new ≠ .active then s.otMs else c.sinceActive
    drillLast := if new = .active then none else c.drillLast
    lastTrans := leBytes 8 s.sto.msCount ++ leBytes 1 old.code ++ leBytes 1 new.code ++ leBytes 1 reason ++
      zeros 1 ++ leBytes 4 gap })
  if s.governs then s else (s.upNet (fun n => { n with txq := [], unacked := [] })).disarmTasks (fun _ => true)

/-- The unit enters FAILED: lanes stop, the open half is given up, the local drivers go off, FAIL is sent ahead of all other traffic (07 R221, R222, R224). -/
def State.enterFailed (s : State) (reason : Nat) : State :=
  let wasActive := s.csw.role = .active
  let s := (s.stopBeats.transition .failed reason 0).upCsw (fun c => { c with
    failReason := reason, driversOff := true, redLost := false, takeoverPend := none,
    cmdState := if c.handBeat.isSome then 0 else c.cmdState, handBeat := none, handClosed := false })
  let s := (if wasActive then (s.stopLanes s.nowCyc).abandonOpen else s).canQuiet
  s.sendBoth 0x03 0 (leBytes 1 reason ++ zeros 7 ++ leBytes 8 s.ptpNow)

/-- Fail-safe halt: all tasks stop and the local outputs go to their safe states (03 R114, 08 R256). -/
def State.failSafeHalt (s : State) : State :=
  let s := ((s.stopLanes s.nowCyc).abandonOpen.canQuiet).stopBeats
  ((s.upSto (fun x => { x with halted := true })).upFio (fun f => { f with haltSafe := true })).exeCause 5 []

/-- A divergence or its equivalent has been reported: FAILED in a pair, fail-safe halt in SOLO; a STANDBY or SYNCING unit enters FAILED with reason 8 (01 R17, 03 R114, 07 R221). -/
def State.giveUp (s : State) : State :=
  match s.csw.role with
  | .solo => s.failSafeHalt
  | .standby => s.enterFailed 8
  | .syncing => s.enterFailed 8
  | .failed => s
  | _ => s.enterFailed 1

/-- Entry 0x4022 (03 R115). -/
def divergenceRecord (ms bcyc car kind lead trail : Nat) : List Byte :=
  leBytes 8 ms ++ leBytes 4 bcyc ++ leBytes 1 car ++ leBytes 1 kind ++ zeros 2 ++ leBytes 8 lead ++ leBytes 8 trail

/-- A divergence detected in lane cycle `c` (03 R113 to R115). -/
def State.divergence (s : State) (c car kind lead trail : Nat) : State :=
  let s := s.upClu (fun u => { u with
    divRec := divergenceRecord s.sto.msCount (c % s.beatCycles) car kind lead trail })
  let s := if s.replaying then s.endReplay 2 7 0xFF 0 0 0 else s
  let s := if s.governs then (s.stopLanes c).abandonOpen else s
  (s.exeCause 0 []).giveUp

/-! ### Errors of the stores (01 R16, R17) -/

/-- The number of a memory's correction counter. -/
def memIndex : MemId → Nat
  | .program => 0
  | .inst => 1
  | .shadow => 2
  | .image => 3
  | .scratch => 4
  | .trace => 5
  | .recorder => 6
  | .causeway => 7
  | .param => 8
  | .firmware => 9

/-- The largest value of a correction counter (log 16). -/
def corrMax : Nat := 0xFFFFFFFF

/-- A read found one symbol in error: the counter of the memory counts and holds at its maximum (01 R16). -/
def State.corrected (s : State) (m : MemId) (addr : Nat) : State :=
  let n := vget s.sto.corr (memIndex m) 0
  let s := s.upSto (fun x => { x with corr := vset x.corr (memIndex m) (satAdd corrMax n 1) })
  let s := s.memCause 0 (memIndex m) (leBytes 4 addr)
  if n + 1 = corrMax then s.memCause 2 (memIndex m) [] else s

/-- An uncorrectable read writes a record that names the memory and the address (01 R17). -/
def State.uncorrectable (s : State) (m : MemId) (addr : Nat) : State :=
  s.memCause 1 (memIndex m) (leBytes 4 addr)

/-- LEADING of a divergence of kind 6 (03 R115). -/
def uncorrWhere (m : MemId) (addr : Nat) : Nat :=
  match m with
  | .program => addr + 2 ^ 63
  | .shadow => addr + 2 ^ 62
  | _ => addr

/-- An uncorrectable read in the program, instance, shadow or image store (01 R17, 03 R115 kind 6). -/
def State.storeUncorrectable (s : State) (m : MemId) (addr car c : Nat) : State :=
  (s.uncorrectable m addr).divergence c car 6 (uncorrWhere m addr) 0

end Sys2Proof.Machine
end

