-- ==== Sys2Proof/Machine/Waymarks.lean ====
section
/-! DEFINITION. Waymark slots: arming, check-ins, the failures of a period, and the watchdog reset up to the device reset (13 R387 to R395). -/

set_option Elab.async false

namespace Sys2Proof.Machine

open Sys2Proof

/-- The length of a slot's period in ns. -/
def WSlot.periodNs (w : WSlot) : Nat := w.period * 1000000

/-- The first 1 µs tick at which the window of the current period is open (13 R389). -/
def WSlot.openTick (w : WSlot) : Nat := (16 * w.start + w.winOpen * w.periodNs + 15999) / 16000

/-- The 1 µs tick of the end of the current period. -/
def WSlot.endTick (w : WSlot) : Nat := (w.start + w.periodNs) / 1000

/-- A slot is armed: its first period starts at `t` (13 R387). -/
def WSlot.arm (w : WSlot) (t : Nat) : WSlot :=
  { w with armed := true, start := t, checked := false, first := true, failed := false, prevFailed := false,
           extra := 0, fails := 0, warned := false }

/-- The unarmed slots of task `t` are armed at its release (13 R387). -/
def State.armTask (s : State) (t now : Nat) : State :=
  s.upWdg (fun w => { w with slots := w.slots.map (fun x =>
    if x.owner = 1 && x.number = t && !x.armed then x.arm now else x) })

/-- The slots of services and of the host are armed at the end of start-up (13 R387). -/
def State.armServices (s : State) (now : Nat) : State :=
  s.upWdg (fun w => { w with slots := w.slots.map (fun x =>
    if x.owner = 2 || x.owner = 3 then x.arm now else x) })

/-- The first steps of a watchdog reset (13 R395 steps 1 to 4): record, lanes stopped, open half given up; ACTIVE drives 0xA5 and switches its drivers off, SOLO takes its safe states. -/
def State.watchdogReset (s : State) (slot kind : Nat) : State :=
  if s.wdg.resetting.isSome then s
  else
    let s := (s.upWdg (fun w => { w with resetting := some (slot, kind, s.clk.now) })).occur 0x3005 slot
      (leBytes 1 slot ++ leBytes 1 kind)
    let s := (if s.governs then (s.stopLanes s.nowCyc).abandonOpen else s).stopBeats
    if s.csw.role = .active then s.upCsw (fun c => { c with withdraw := true, driversOff := true })
    else if s.csw.role = .solo then s.upFio (fun f => { f with haltSafe := true })
    else s

/-- WDG_FIRST takes a failure detected at `t`: the first one, or that of the lowest slot in its CLK_FAB cycle of 4 ns (13 R392). -/
def Wdg.takeFirst (d : Wdg) (i kind t : Nat) : Wdg :=
  if d.firstValid && !(decide (t / 4 = d.firstAt) && decide (i < d.firstSlot)) then d
  else { d with firstSlot := i, firstKind := kind, firstValid := true, firstAt := t / 4 }

/-- A period fails at instant `t`: 1 early, 2 double, 3 missing (13 R390, R392 to R394). -/
def State.wayFail (s : State) (i kind t : Nat) : State :=
  let w := s.wslot i
  let s := s.upWslot i (fun x => { x with failed := true, lastKind := kind, fails := sat16 x.fails })
  let s := s.upWdg (fun d => { d with cause := setBit d.cause i true }.takeFirst i kind t)
  let s := (s.occur (0x0600 + i) i []).upEvr (·.sortTail (fun o => decide (o.at' = s.clk.now)))
  if w.prevFailed then s.watchdogReset i kind
  else s.upWslot i (fun x => { x with warned := true })

/-- A period ends: a missing check-in fails it, and the next one starts (13 R389, R394). -/
def State.wayPeriodEnd (s : State) (i : Nat) : State :=
  let w := s.wslot i
  let s := if !w.checked && !w.failed then s.wayFail i 3 (w.start + w.periodNs) else s
  s.upWslot i (fun x => { x with
    prevFailed := x.failed, warned := if x.failed then x.warned else false, failed := false, checked := false,
    first := false, start := x.start + x.periodNs })

/-- The periods that have ended by the tick of `t`. -/
def State.wayCatchUp (s : State) (i t : Nat) : Nat → State
  | 0 => s
  | n + 1 =>
    let w := s.wslot i
    if w.armed && decide (w.endTick ≤ t / 1000) then (s.wayPeriodEnd i).wayCatchUp i t n
    else s

/-- Enough turns for every period that can have ended by `t`. -/
def WSlot.turns (w : WSlot) (t : Nat) : Nat := if w.period = 0 then 0 else (t - w.start) / w.periodNs + 2

/-- A check-in to an armed slot at instant `t` (13 R389 to R391). -/
def State.wayCheckin (s : State) (i t : Nat) : State :=
  let s := s.wayCatchUp i t ((s.wslot i).turns t)
  let w := s.wslot i
  if !w.armed then s
  else if w.failed || (w.first && w.checked) then
    s.upWslot i (fun x => { x with extra := satAdd 15 x.extra 1 })
  else if w.first then s.upWslot i (fun x => { x with checked := true })
  else if t / 1000 < w.openTick then s.wayFail i 1 t
  else if w.checked then s.wayFail i 2 t
  else s.upWslot i (fun x => { x with checked := true })

/-- A task checks in with CHKIN: a slot not assigned to it discards the check-in with a record (05 R161). -/
def State.taskCheckin (s : State) (i task t : Nat) : State :=
  let w := s.wslot i
  if w.owner = 1 ∧ w.number = task then s.wayCheckin i t else s.occur 0x3004 i []

/-! ### Meanings -/

/-- SERVICE_CHECKIN (13 R388): a supervisor service checks in to each slot that it owns. -/
def execServiceCheckin (service t : Nat) (s : State) : Host.Outcome State Fault Refusal :=
  let s1 := s.reach t
  commit s ((List.range 32).foldl (fun acc i =>
    if (acc.wslot i).owner = 2 ∧ (acc.wslot i).number = service then acc.wayCheckin i t else acc) s1)

/-- WAYMARK_PERIOD_END (13 R389): the current period of an armed slot ends at `t`. -/
def execWaymarkPeriodEnd (slot t : Nat) (s : State) : Host.Outcome State Fault Refusal :=
  let s1 := s.reach t
  commit s (s1.wayCatchUp slot t ((s1.wslot slot).turns t))

end Sys2Proof.Machine
end

