-- ==== Sys2Proof/Machine/Shadow.lean ====
section
/-! DEFINITION. Release tables, runs, the open shadow half with its content and reserve, and task faults (02 R46 to R48, R66 to R69, 03 R108, 06 R176). -/

set_option Elab.async false

namespace Sys2Proof.Machine

open Sys2Proof

/-! ### Release tables (06 R176) -/

/-- A release table of an image; the main table serves when there is no reduced one (06 R179). -/
def Image.table (i : Image) (reduced : Bool) : List TaskRow :=
  if reduced && !i.reduced.isEmpty then i.reduced else i.main

/-- The row of a task. -/
def Image.row (i : Image) (reduced : Bool) (t : Nat) : Option TaskRow :=
  (i.table reduced).find? (fun r => r.task = t)

/-- The row of a task in the table in force. -/
def State.row (s : State) (t : Nat) : Option TaskRow :=
  match s.ldr.img with
  | some i => i.row s.sto.tableReduced t
  | none => none

/-- A task's output ranges. -/
def Image.rowOuts (i : Image) (r : TaskRow) : List (Nat × Nat × Nat) := (i.outs.drop r.outFirst).take r.outCount

/-- A task's write windows. -/
def Image.rowWins (i : Image) (r : TaskRow) : List (Nat × Nat) := (i.wins.drop r.winFirst).take r.winCount

/-- Is a task due at beat `n` (02 R38)? -/
def TaskRow.due (r : TaskRow) (n : Nat) : Bool :=
  decide (0 < r.period) && decide (r.phase ≤ n) && decide ((n - r.phase) % r.period = 0)

/-- The first beat after `n` at which the task is due. -/
def TaskRow.nextDue (r : TaskRow) (n : Nat) : Nat :=
  if r.period = 0 then n + 1
  else n + 1 + ((r.phase + r.period * (n + 1) - (n + 1)) % r.period)

/-- The latest beat up to `n` at which the task is due. -/
def TaskRow.lastDue (r : TaskRow) (n : Nat) : Nat :=
  if r.period = 0 ∨ n < r.phase then n else n - (n - r.phase) % r.period

/-! ### Content of the open half (02 R48, R66, R68) -/

/-- Bytes of edit batches. -/
def batchBytes (l : List Batch) : Nat := l.foldl (fun n b => n + b.size) 0

/-- Bytes of staged snapshots, in 16-byte entries (13 R409). -/
def snapBytes (l : List Snap) : Nat := l.foldl (fun n x => n + (x.bytes.length + 15) / 16 * 16) 0

/-- Bytes of committable entries. -/
def entryBytes (l : List (Nat × Ov)) : Nat := l.foldl (fun n e => n + Ov.size e.2) 0

/-- The volume of a half (02 R66). -/
def Half.volume (h : Half) : Nat := entryBytes h.done + batchBytes h.edits + snapBytes h.snaps

/-- The run-time reserve in use (02 R68). -/
def Half.reserve (h : Half) : Nat := batchBytes h.edits + 16 * h.keptEdit.length + snapBytes h.snaps

/-- Entries of the runs in progress. -/
def State.runBytes (s : State) : Nat :=
  s.tasks.toList.foldl (fun n t => match t.run with | some r => n + Ov.size r.writes | none => n) 0

/-- The total content of the open half (02 R48). -/
def State.openContent (s : State) : Nat :=
  s.sto.opened.volume + 16 * s.sto.opened.kept.length + 16 * s.sto.opened.keptEdit.length + s.runBytes

/-- The size of a shadow half. -/
def halfSize : Nat := 4194304

/-- The largest run-time reserve. -/
def reserveSize : Nat := 1048576

/-! ### Kept values (02 R48) -/

/-- The tasks with a run in progress, but for `t`. -/
def State.otherRuns (s : State) (t : Nat) : List Nat :=
  (List.range 32).filter (fun i => decide (i ≠ t) && (s.task i).run.isSome)

/-- Is an older value of entry `e` kept for the run of task `t`? -/
def holdsFor (kept : List (Nat × List Nat)) (e t : Nat) : Bool := kept.any (fun k => k.1 = e && k.2.contains t)

/-- The values of entries that change now are kept for the runs in progress for which no older value is kept, in this list or in the other; one value serves all of them (02 R47, R48). -/
def keepFor (kept other : List (Nat × List Nat)) (runs entries : List Nat) : List (Nat × List Nat) :=
  entries.foldl (fun acc e =>
    let need := runs.filter (fun t => !holdsFor acc e t && !holdsFor other e t)
    if need.isEmpty then acc else acc ++ [(e, need)]) kept

/-- A run has ended: the values kept for it alone are released. -/
def releaseKept (kept : List (Nat × List Nat)) (t : Nat) : List (Nat × List Nat) :=
  (kept.map (fun k => (k.1, k.2.filter (· ≠ t)))).filter (fun k => !k.2.isEmpty)

/-- The run of task `t` leaves the open half. -/
def State.forgetRun (s : State) (t : Nat) : State :=
  (s.upTask t (fun x => { x with run := none })).upOpen (fun h =>
    { h with kept := releaseKept h.kept t, keptEdit := releaseKept h.keptEdit t })

/-! ### Task faults (03 R108, R109) -/

/-- A task is faulted: its run ends, its outputs follow its policy, its waymarks are disarmed, a record is written (03 R108, 13 R387). -/
def State.faultTask (s : State) (t cause bundle : Nat) : State :=
  let safe := match s.row t with
    | some r => decide (r.policy = 1)
    | none => false
  let s := s.forgetRun t
  let s := s.upTask t (fun x => { x with
    faulted := true, faultCause := cause, faultBundle := bundle, safeDue := safe, overrunNow := false })
  (s.disarmTasks (fun n => n = t)).taskCause t 3 cause bundle

/-! ### Lanes of a lane set (03 R110, 06 R176) -/

/-- Does the carriageway of lane `l` run paired? -/
def State.paired (s : State) : Bool := !s.clu.single

/-- Is lane `l` a trailing lane? -/
def State.isTrailing (s : State) (l : Nat) : Bool := s.paired && decide (l % 2 = 1)

/-- The lanes of a lane set: leading and trailing, or one. -/
def State.setLanes (s : State) (set : Nat) : List Nat :=
  if s.paired then [2 * set, 2 * set + 1] else [set]

/-- The lane whose cycles decide the completion instant of a lane set (06 R177). -/
def State.lastLane (s : State) (set : Nat) : Nat := if s.paired then 2 * set + 1 else set

/-- CARRIAGEWAY of a lane. -/
def carOf (l : Nat) : Nat := l / 2

end Sys2Proof.Machine
end

