-- ==== Sys2Proof/Machine/Can.lean ====
section
/-! DEFINITION. The CAN FD ports and the gate matrix (10). -/

set_option Elab.async false

namespace Sys2Proof.Machine

open Sys2Proof

/-! ### Buffers and frames (10 R299, R300) -/

/-- Buffer `b` of a port. -/
def Can.buf (c : Can) (b : Nat) : CanBuf := vget c.bufs b CanBuf.reset

/-- BCFG.DIR: 1 receive, 2 transmit. -/
def CanBuf.dir (b : CanBuf) : Nat := wfield b.cfg 1 0
/-- BCFG.OWNER: 0 registers, 1 image, 2 Kivasel. -/
def CanBuf.owner (b : CanBuf) : Nat := wfield b.cfg 3 2
/-- BCFG.GATE. -/
def CanBuf.gate (b : CanBuf) : Bool := b.cfg.getLsbD 4
/-- BCFG.LATE_OK. -/
def CanBuf.lateOk (b : CanBuf) : Bool := b.cfg.getLsbD 5
/-- BCFG.TRIGGER. -/
def CanBuf.trigger (b : CanBuf) : Bool := b.cfg.getLsbD 6
/-- BCFG.RETRY. -/
def CanBuf.retry (b : CanBuf) : Nat := wfield b.cfg 10 7
/-- BCFG.UNLIM. -/
def CanBuf.unlim (b : CanBuf) : Bool := b.cfg.getLsbD 11
/-- BCFG.DWORDS. -/
def CanBuf.dwords (b : CanBuf) : Nat := wfield b.cfg 16 12
/-- BCFG.FILTER_FMT. -/
def CanBuf.fmt (b : CanBuf) : Nat := wfield b.cfg 18 17

/-- Word `i` of a frame; a frame that was never written reads zero. -/
def frameWord (f : List Word) (i : Nat) : Word := f[i]?.getD 0

/-- The data length of a frame (10 R300); a remote frame carries no data. -/
def dataLen (f : List Word) : Nat :=
  let dlc := wfield (frameWord f 1) 3 0
  if (frameWord f 0).getLsbD 30 then 0
  else if dlc ≤ 8 then dlc
  else if !(frameWord f 1).getLsbD 4 then 8
  else if dlc = 9 then 12 else if dlc = 10 then 16 else if dlc = 11 then 20 else if dlc = 12 then 24
  else if dlc = 13 then 32 else if dlc = 14 then 48 else 64

/-- The last word of a frame (10 R300). -/
def lastWord (f : List Word) : Nat := 1 + max 1 ((dataLen f + 3) / 4)

/-- Data word `i` with the bytes at and beyond `len` zero. -/
def dataWord (f : List Word) (len i : Nat) : Word :=
  let n := len - 4 * i
  if 4 ≤ n then frameWord f (2 + i) else w32 ((frameWord f (2 + i)).toNat % 256 ^ n)

/-- A frame of 18 words with word 1 bits 31:8 given by `hi`, and no data byte at or beyond `cut`. A base identifier has zeros below its bits, and a remote frame is classical (10 R297, R300). -/
def canFrame (f : List Word) (hi : Nat) (cut : Nat) : List Word :=
  let v := setBit (frameWord f 0) 31 false
  let w0 := if v.getLsbD 29 then v else v &&& 0x7FFC0000
  let w1 := w32 (wfield (frameWord f 1) (if v.getLsbD 30 then 3 else 6) 0 + 256 * hi)
  w0 :: w1 :: (List.range 16).map (dataWord f (min cut (dataLen f)))

/-- The words of a frame up to its last word. -/
def shownWords (f : List Word) : List Word := (List.range (lastWord f + 1)).map (frameWord f)

/-! ### Port state (10 R314, R316) -/

/-- Restricted operation is forced: a controller that is neither SOLO nor ACTIVE, fail-safe halt, or the replay role (10 R316). -/
def State.canForced (s : State) : Bool :=
  decide (s.pwr.role = .replay) || (decide (s.pwr.role = .controller) && (!s.governs || s.sto.halted))

/-- ROM_ACTIVE (10 R314). -/
def State.romActive (s : State) (n : Nat) : Bool := (s.canPort n).ctrl.getLsbD 1 || s.canForced

/-- CTRL.INIT. -/
def Can.init (c : Can) : Bool := c.ctrl.getLsbD 0

/-- The gate matrix runs (10 R315). -/
def State.gateActive (s : State) (n : Nat) : Bool :=
  (s.canPort n).ctrl.getLsbD 3 && !(s.canPort n).gateOff && s.clk.running

/-- STATE of CANn_ERR. -/
def Can.errState (c : Can) : Nat := if c.busOff then 2 else if 127 < c.txErr ∨ 127 < c.rxErr then 1 else 0

/-- The error counters take new values (10 R312, R313): warning, error passive and bus-off are reported as they are reached. -/
def State.canCounters (s : State) (n tec rec' : Nat) : State :=
  let c := s.canPort n
  let off := decide (255 < tec) && !c.busOff
  let s := s.upCanPort n (fun c => { c with
    txErr := min 255 tec, rxErr := min 255 rec'
    busOff := c.busOff || off
    recovering := c.recovering || (off && c.ctrl.getLsbD 4) })
  let s := if (96 ≤ tec ∧ c.txErr < 96) ∨ (96 ≤ rec' ∧ c.rxErr < 96) then s.canCause n 2 0 else s
  let s := if c.errState = 0 ∧ (127 < tec ∨ 127 < rec') then s.canCause n 1 0 else s
  if off then s.canCause n 0 0 else s

/-! ### Reception (10 R301 to R303, R308) -/

/-- Does the filter of a buffer match a frame (10 R301)? -/
def CanBuf.accepts (b : CanBuf) (f : List Word) : Bool :=
  let w := frameWord f 0
  decide (b.dir = 1) &&
  decide ((w ^^^ b.fid) &&& b.mask &&& 0x1FFFFFFF = 0) &&
  (decide (w.getLsbD 29 = b.fid.getLsbD 29) || !b.mask.getLsbD 29) &&
  (decide (b.fmt = 0) || (decide (b.fmt = 1) && !(frameWord f 1).getLsbD 4) ||
    (decide (b.fmt = 2) && (frameWord f 1).getLsbD 4))

/-- The lowest-numbered receive buffer whose filter matches. -/
def Can.target (c : Can) (f : List Word) : Option Nat := (List.range 64).find? (fun b => (c.buf b).accepts f)

/-- STAMP: µs from the beat boundary before, saturating. -/
def State.canStamp (s : State) (t : Nat) : Nat := min 0xFFFF ((t - s.clk.beatAt) / 1000)

/-- A valid frame is stored, queued in the overflow FIFO, or counted as discarded. One for the buffer of Kivasel goes on as its segment, which KIVASEL_CAN_SEGMENT stands for (log 29). -/
def State.canReceive (s : State) (n t : Nat) (raw : List Word) : State :=
  let c := s.canPort n
  let f := canFrame raw (256 * s.canStamp t) 64
  match c.target f with
  | none => s.upCanPort n (fun c => { c with dropUnm := sat16 c.dropUnm })
  | some b =>
    let x := c.buf b
    if x.owner = 2 then s
    else if x.owner = 1 then
      if s.pwr.role = .replay then s
      else
        let s := s.upBuf n b (fun x => { x with frame := f, rxCount := min 255 (x.rxCount + 1) })
        s.upTrc (fun q => { q with cans := q.cans ++ [⟨n, b, t, shownWords f⟩] })
    else if !x.locked then
      s.upBuf n b (fun x => { x with frame := f, overwrite := x.overwrite || x.new, new := true })
    else if c.fifo.length < 16 then s.upCanPort n (fun c => { c with fifo := c.fifo ++ [(b, f)] })
    else (s.upCanPort n (fun c => { c with dropFull := sat16 c.dropFull })).canCause n 6 b

/-- The input latch of the image-owned receive buffers at T(n) (10 R308); in the replay role the trace feeds the blocks. -/
def CanBuf.latch (b : CanBuf) (v : Mem) : Mem :=
  if b.dir = 1 ∧ b.owner = 1 then
    let f := canFrame b.frame 0 (4 * b.dwords)
    let w1 := w32 (wfield (frameWord f 1) 6 0 + 256 * b.rxCount + 65536 * wfield (frameWord b.frame 1) 31 16)
    let ws := if b.frame.isEmpty then List.replicate (2 + b.dwords) 0
      else frameWord f 0 :: w1 :: (f.drop 2).take b.dwords
    memPut v (ainBase + 4 * b.base) (ws.flatMap wbytes)
  else v

/-- Every port latches its image-owned receive buffers, and their counts restart. -/
def State.canLatch (s : State) : State :=
  if s.pwr.role = .replay then s
  else
    let v := s.can.toList.foldl (fun v c => c.bufs.toList.foldl (fun v b => b.latch v) v) s.sto.inView
    (s.upSto (fun x => { x with inView := v })).upCan (fun ps => ps.map (fun c =>
      { c with bufs := c.bufs.map (fun b => { b with rxCount := 0 }) }))

/-! ### Windows and locks (10 R302, R304) -/

/-- A read of CANn_WINi: the selected buffer's frame, which of a transmit buffer is its staging frame as it would be sent (10 R300). -/
def State.canWinRead (s : State) (n i : Nat) : Word × State :=
  let c := s.canPort n
  let b := c.buf c.bufSel
  let w := frameWord (if b.dir = 2 then canFrame b.frame 0 64 else b.frame) i
  if b.dir ≠ 1 ∨ b.owner = 1 then (w, s)
  else if i = 0 then (w, s.upBuf n c.bufSel (fun x => { x with locked := true }))
  else if i = lastWord b.frame then
    (w, s.upBuf n c.bufSel (fun x => { x with locked := false, new := false, overwrite := false }))
  else (w, s)

/-- A read of CANn_FIFOi. -/
def State.canFifoWord (s : State) (n i : Nat) : Word × State :=
  match (s.canPort n).fifo with
  | [] => (0, s)
  | (_, f) :: rest =>
    if i = 0 then (frameWord f i, s.upCanPort n (fun c => { c with fifoLock := true }))
    else if i = lastWord f then (frameWord f i, s.upCanPort n (fun c => { c with fifo := rest, fifoLock := false }))
    else (frameWord f i, s)

/-- A write to CANn_BUFSEL releases a lock that is held, of the buffer selected before and of the FIFO head (10 R302, R304). -/
def State.canBufSel (s : State) (n b : Nat) : State :=
  let c := s.canPort n
  let old := c.bufSel
  let s := s.upCanPort n (fun c => { c with bufSel := b })
  let s := if (c.buf old).locked then (s.upBuf n old (fun x => { x with locked := false })).canCause n 9 old else s
  if c.fifoLock then
    (s.upCanPort n (fun c => { c with fifoLock := false })).canCause n 9 ((c.fifo.head?.map (·.1)).getD 0)
  else s

/-! ### Transmit queues (10 R306, R309) -/

/-- A frame is appended to a buffer's queue of 4, or dropped. -/
def State.canQueue (s : State) (n b : Nat) (f : List Word) (drop : Bool) : State :=
  let c := s.canPort n
  if (c.buf b).queue.length < 4 then
    let s := s.upCanPort n (fun c => { c with stamp := c.stamp + 1 })
    s.upBuf n b (fun x => { x with queue := x.queue ++ [{ words := f, stamp := c.stamp, tries := 0, late := false }] })
  else
    let s := if drop then s.upCanPort n (fun c => { c with txDrop := sat32 c.txDrop }) else s
    s.canCause n 7 b

/-- A write to CANn_TXREQ (10 R306, R316). -/
def State.canTxReq (s : State) (n b : Nat) : State :=
  let x := (s.canPort n).buf b
  if s.csw.role = .standby ∨ s.csw.role = .syncing then s.canCause n 12 b
  else if x.dir ≠ 2 ∨ x.owner ≠ 0 then s
  else s.canQueue n b (canFrame x.frame 0 64) false

/-- Is buffer `b`'s head in transmission? -/
def Can.sending (c : Can) (b : Nat) : Bool :=
  match c.current with
  | some (k, _) => decide (k = b)
  | none => false

/-- A write to CANn_TXABORT (10 R306). -/
def State.canTxAbort (s : State) (n b : Nat) : State :=
  let tx := (s.canPort n).sending b
  s.upBuf n b (fun x => { x with queue := if tx then x.queue.take 1 else [], abortReq := x.abortReq || tx })

/-- The words of an image transmit block as last launched. -/
def State.txBlock (s : State) (b : CanBuf) : List Word :=
  (List.range (2 + b.dwords)).map (fun i => memWord s.sto.launched (aoutBase + 4 * (b.base + i)))

/-- Do all words of a block lie in the output ranges? -/
def blockIn (outs : List (Nat × Nat × Nat)) (b : CanBuf) : Bool :=
  (List.range (2 + b.dwords)).all (fun i =>
    outs.any (fun o => decide (o.1 = 1 ∧ o.2.1 ≤ b.base + i ∧ b.base + i < o.2.1 + o.2.2)))

/-- One buffer takes its block (10 R309). -/
def State.canTake1 (s : State) (n i : Nat) : State :=
  let b := (s.canPort n).buf i
  let ws := s.txBlock b
  let seq := wfield (frameWord ws 1) 31 16
  let s := s.upBuf n i (fun x => { x with lastSeq := some seq })
  if b.trigger || decide (b.lastSeq ≠ some seq) then s.canQueue n i (canFrame ws 0 (4 * b.dwords)) true else s

/-- At a launch of a task, the transmit buffers whose blocks its output set holds take them, after the launches (10 R309). -/
def State.canTake (s : State) (outs : List (Nat × Nat × Nat)) : State :=
  (List.range 8).foldl (fun s n => (List.range 64).foldl (fun s i =>
    let b := (s.canPort n).buf i
    if b.dir = 2 ∧ b.owner = 1 ∧ !b.disabled ∧ blockIn outs b then s.canTake1 n i else s) s) s

/-- A takeover: image transmit queues start empty and the next take always queues (10 R309, R316). -/
def State.canTakeover (s : State) : State :=
  s.upCan (fun ps => ps.map (fun c => { c with bufs := c.bufs.map (fun b =>
    if b.owner = 1 then { b with queue := [], lastSeq := none } else b) }))

/-! ### The next frame (10 R310) -/

/-- The arbitration field as a number: lower wins (10 R310, ISO 11898-1). -/
def arbKey (f : List Word) : Nat :=
  let w := frameWord f 0
  let rtr := bit (w.getLsbD 30)
  if w.getLsbD 29 then wfield w 28 18 * 2 ^ 21 + 2 ^ 20 + 2 ^ 19 + wfield w 17 0 * 2 + rtr
  else wfield w 28 18 * 2 ^ 21 + rtr * 2 ^ 20

/-- The queue heads with their buffers. -/
def Can.heads (c : Can) : List (Nat × CanTx) :=
  (List.range 64).filterMap (fun b => match (c.buf b).queue with
    | x :: _ => some (b, x)
    | [] => none)

/-- Is frame `x` before `y` in bus priority, then in queue stamp? -/
def CanTx.before (x y : CanTx) : Bool :=
  decide (arbKey x.words < arbKey y.words) || (decide (arbKey x.words = arbKey y.words) && decide (x.stamp < y.stamp))

/-- The best of a list of heads. -/
def bestHead : List (Nat × CanTx) → Option (Nat × CanTx)
  | [] => none
  | x :: t => match bestHead t with
    | some y => if y.2.before x.2 then some y else some x
    | none => some x

/-- The same identifier and IDE bit. -/
def sameId (x y : CanTx) : Bool := decide ((frameWord x.words 0) &&& 0x3FFFFFFF = (frameWord y.words 0) &&& 0x3FFFFFFF)

/-- The reference frame of beat `n` (10 R315). -/
def State.refFrame (s : State) (n : Nat) : List Word :=
  let b0 := s.clk.beat % 16 + 64 * bit s.clk.ptpNum + 128 * bit s.clk.locked
  canFrame ([(s.canPort n).ref &&& 0x3FFFFFFF, 8#32] ++
    [w32 (b0 + 256 * (s.clk.beat % 2 ^ 24)), w32 (s.clk.beat / 2 ^ 24)]) 0 64

/-- Is `x` the frame that the port has in transmission? -/
def Can.isCurrent (c : Can) (b : Nat) (x : CanTx) : Bool :=
  match c.current with
  | some (k, y) => decide (k = b ∧ y.stamp = x.stamp)
  | none => false

/-- The frame of the gate that has buffer `b` in its window: the first that is neither late nor in transmission already (10 R310, R315). -/
def Can.gateFrame (c : Can) (b : Nat) : Option CanTx := (c.buf b).queue.find? (fun x => !x.late && !c.isCurrent b x)

/-- The frame that a port offers for the gate's frame `g` while the head of its queue is `h`: one of the same identifier queued earlier in another buffer goes first, and no frame of a buffer passes its head (10 R310). -/
def Can.offerGate (c : Can) (g h : Nat × CanTx) : Nat × CanTx :=
  (bestHead (c.heads.filter (fun k => decide (k.1 ≠ h.1) && sameId k.2 g.2 && decide (k.2.stamp < g.2.stamp)))).getD h

/-- The frame a port offers (10 R310); buffer 64 stands for the reference frame. -/
def State.canOffer (s : State) (n : Nat) : Option (Nat × CanTx) :=
  let c := s.canPort n
  let hs := c.heads
  let free := hs.filter (fun h => !(c.buf h.1).gate || h.2.late)
  let other := bestHead free
  if !s.gateActive n then other
  else
    match c.window with
    | none => other
    | some (_, b) =>
      if c.refPending then
        let r : Nat × CanTx := (64, { words := s.refFrame n, stamp := c.refStamp, tries := 0, late := false })
        some (c.offerGate r r)
      else
        match c.gateFrame b, (c.buf b).queue with
        | some g, h :: _ => some (c.offerGate (b, g) (b, h))
        | _, _ => other

/-- A port starts the frame it offers. -/
def State.canStart (s : State) (n : Nat) : State :=
  let c := s.canPort n
  if c.offBus || c.init || c.busOff || s.romActive n || c.current.isSome then s
  else
    match s.canOffer n with
    | none => s
    | some (b, x) =>
      let mine := match c.window with
        | some (_, k) => decide (k = b) && !x.late
        | none => false
      let s := s.upCanPort n (fun c => { c with
        current := some (b, x), idle := false
        winStarted := c.winStarted || (mine && !c.refPending)
        refPending := c.refPending && decide (b ≠ 64) })
      s.upBuf n b (fun y => { y with inTx := true, late := x.late, missed := y.missed && !mine })

/-- The port is free again after an attempt: a pending INIT takes it off the bus (10 R317). -/
def Can.freed (c : Can) : Can :=
  { c with current := none, idle := !(c.offBus || c.init), offBus := c.offBus || c.init }

/-- A queue without the frame `x` that was in transmission at its head. -/
def leaveQueue (x : CanTx) : List CanTx → List CanTx
  | z :: rest => if z.stamp = x.stamp then rest else z :: rest
  | [] => []

/-- A queue whose head, the frame `x`, has made one more attempt that counts. -/
def countTry (x : CanTx) : List CanTx → List CanTx
  | z :: rest => if z.stamp = x.stamp then { z with tries := z.tries + 1 } :: rest else z :: rest
  | [] => []

/-- The frame in transmission leaves its queue. -/
def State.canRemove (s : State) (n b : Nat) (x : CanTx) : State :=
  s.upBuf n b (fun y => { y with queue := leaveQueue x y.queue, inTx := false, abortReq := false })

/-! ### Gate windows (10 R315) -/

/-- Gate `g`: enabled. -/
def Can.gateEn (c : Can) (g : Nat) : Bool := ((aget c.gates g).getD 0).getLsbD 15

/-- Gate `g`: OFFSET in µs. -/
def Can.gateOffset (c : Can) (g : Nat) : Nat := wfield ((aget c.gates g).getD 0) 13 0

/-- The buffer of cell (g, c), if the cell is enabled and names a gate buffer. -/
def Can.cell (c : Can) (g cyc : Nat) : Option Nat :=
  let k := 16 * g + cyc
  let v := byteAt (wbytes ((aget c.cells (k / 4)).getD 0)) (k % 4)
  let b := v % 64
  if 128 ≤ v ∧ (c.buf b).gate ∧ (c.buf b).dir = 2 then some b else none

/-- A queue in which the gate's frame `g` is missed: dropped, or kept as a late frame with a new stamp (10 R315). -/
def missFrame (g : CanTx) (lateOk : Bool) (stamp : Nat) (q : List CanTx) : List CanTx :=
  if lateOk then q.map (fun x => if x.stamp = g.stamp then { x with late := true, stamp := stamp } else x)
  else q.filter (fun x => decide (x.stamp ≠ g.stamp))

/-- The open window closes: the gate's frame is missed when it has not started (10 R315). -/
def State.gateClose (s : State) (n : Nat) : State :=
  let c := s.canPort n
  let shut (s : State) : State := s.upCanPort n (fun c => { c with window := none, refPending := false, winStarted := false })
  let count (s : State) (b : Nat) : State :=
    (s.upCanPort n (fun c => { c with missed := sat32 c.missed })).canCause n 4 b
  match c.window with
  | none => s
  | some (_, b) =>
    if c.refPending then shut (count s 0)
    else if c.winStarted ∨ b = 64 then shut s
    else
      match c.gateFrame b with
      | none => shut s
      | some g =>
        let s := s.upCanPort n (fun c => { c with stamp := c.stamp + 1 })
        let s := s.upBuf n b (fun y => { y with
          missed := true, queue := missFrame g y.lateOk c.stamp y.queue })
        shut (count s b)

/-- A window opens; one still open closes first. -/
def State.gateOpen (s : State) (n g : Nat) : State :=
  let c := s.canPort n
  if !s.gateActive n || !c.gateEn g then s
  else
    let ref := decide (g = 0) && c.ctrl.getLsbD 6
    match (if ref then some 64 else c.cell g (s.clk.beat % 16)) with
    | none => s
    | some b =>
      (s.gateClose n).upCanPort n (fun c => { c with
        window := some (g, b), winStarted := false, refPending := ref
        refStamp := if ref then c.stamp else c.refStamp, stamp := if ref then c.stamp + 1 else c.stamp })

/-! ### Registers (10 R298, R318, R319) -/

/-- Strictly ascending numbers below `p`. -/
def ascendingBelow (p : Nat) : List Nat → Bool
  | [] => true
  | [x] => decide (x < p)
  | x :: y :: t => decide (x < y) && ascendingBelow p (y :: t)

/-- Are the enabled offsets ascending and below P (10 R315)? -/
def gatesOk (p : Nat) (g : List (Nat × Word)) : Bool :=
  ascendingBelow p ((g.filter (fun x => x.2.getLsbD 15)).map (fun x => wfield x.2 13 0))

/-- Time quanta per bit times BRP, in 25 ns: nominal. -/
def nbtLen (w : Word) : Nat := (wfield w 7 0 + 1) * (1 + (wfield w 15 8 + 1) + (wfield w 22 16 + 1))

/-- Time quanta per bit times BRP, in 25 ns: data. -/
def dbtLen (w : Word) : Nat := (wfield w 4 0 + 1) * (1 + (wfield w 12 8 + 1) + (wfield w 19 16 + 1))

/-- Is a pair of bit timings within R298? -/
def timingOk (nbt dbt : Word) : Bool :=
  decide (40 ≤ nbtLen nbt ∧ nbtLen nbt ≤ 4000 ∧ 8 ≤ dbtLen dbt ∧ dbtLen dbt ≤ nbtLen nbt ∧
    wfield nbt 29 23 ≤ wfield nbt 22 16 ∧ wfield dbt 27 24 ≤ wfield dbt 19 16 ∧ 1 ≤ wfield nbt 15 8)

/-- BSTAT of a buffer. -/
def CanBuf.stat (b : CanBuf) : Word :=
  w32 (bit b.new + 2 * bit b.locked + 4 * bit b.overwrite + 8 * b.queue.length + 64 * bit b.inTx +
    128 * bit b.missed + 256 * bit b.aborted + 512 * bit b.late +
    1024 * min 15 (match b.queue with
      | x :: _ => x.tries
      | [] => 0))

/-- 32 flags of the buffers from 32w on, as a word. -/
def Can.flagWord (c : Can) (w : Nat) (f : CanBuf → Bool) : Word :=
  w32 ((List.range 32).foldl (fun n i => n + 2 ^ i * bit (f (c.buf (32 * w + i)))) 0)

/-- BUS_IDLE: no frame on the bus, the port's own or another node's, which the model does not see (10 R319; log 60). -/
def State.busIdle (s : State) (n : Nat) : Bool := (s.canPort n).idle && !Config.busBusy s.clk.now n

/-- CANn_STATUS. -/
def State.canStatus (s : State) (n : Nat) : Word :=
  let c := s.canPort n
  w32 (bit c.offBus + 2 * bit (s.romActive n) + 4 * bit (s.gateActive n) + 8 * bit (s.busIdle n) + 16 * (s.clk.beat % 16))

/-- A read of a register of port `n`; `priv` says whether the master is privileged. -/
def State.canRead (s : State) (n off : Nat) (priv : Bool) : Word × State :=
  let c := s.canPort n
  if off = 0x000 then (s.canStatus n, s)
  else if off = 0x004 then (c.cause, s)
  else if off = 0x008 then (c.causeEn, s)
  else if off = 0x00C then (privRead priv c.ctrl, s)
  else if off = 0x010 then (privRead priv c.nbt, s)
  else if off = 0x014 then (privRead priv c.dbt, s)
  else if off = 0x018 then (privRead priv c.tdc, s)
  else if off = 0x01C then
    (w32 ((if c.busOff then 255 else c.txErr) + 256 * c.rxErr + 65536 * c.errState + 2 ^ 18 * bit c.recovering), s)
  else if off = 0x020 then (w32 (c.lec + 16 * c.dlec), s.upCanPort n (fun c => { c with lec := 0, dlec := 0 }))
  else if off = 0x024 then
    (w32 (c.dropFull + 65536 * c.dropUnm), s.upCanPort n (fun c => { c with dropFull := 0, dropUnm := 0 }))
  else if off = 0x028 then (w32 c.txDrop, s.upCanPort n (fun c => { c with txDrop := 0 }))
  else if off = 0x02C then (w32 c.missed, s.upCanPort n (fun c => { c with missed := 0 }))
  else if off = 0x030 then (privRead priv c.ref, s)
  else if off = 0x034 then
    (w32 (c.fifo.length + 256 * (c.fifo.head?.map (·.1)).getD 0 + 16384 * bit c.fifoLock), s)
  else if off = 0x038 then (w32 c.bufSel, s)
  else if off = 0x044 ∨ off = 0x048 then (c.flagWord ((off - 0x044) / 4) (·.new), s)
  else if off = 0x04C ∨ off = 0x050 then (c.flagWord ((off - 0x04C) / 4) (fun b => !b.queue.isEmpty), s)
  else if 0x100 ≤ off ∧ off < 0x200 then (privRead priv ((aget c.gates ((off - 0x100) / 4)).getD 0), s)
  else if 0x200 ≤ off ∧ off < 0x600 then (privRead priv ((aget c.cells ((off - 0x200) / 4)).getD 0), s)
  else if 0x600 ≤ off ∧ off < 0xA00 then
    let b := c.buf ((off - 0x600) / 16)
    if off % 16 = 0 then (privRead priv b.cfg, s)
    else if off % 16 = 4 then (privRead priv b.fid, s)
    else if off % 16 = 8 then (privRead priv b.mask, s)
    else (b.stat, s)
  else if 0xA00 ≤ off ∧ off < 0xA48 then s.canWinRead n ((off - 0xA00) / 4)
  else if 0xA80 ≤ off ∧ off < 0xAC8 then s.canFifoWord n ((off - 0xA80) / 4)
  else (0, s)

/-- CTRL is written (10 R313, R317). -/
def State.canCtrl (s : State) (n : Nat) (v : Word) : State :=
  s.upCanPort n (fun c =>
    let on := v.getLsbD 0
    { c with
      ctrl := v &&& 0x1DF
      offBus := c.offBus || (on && c.current.isNone), idle := c.idle && !(on && c.current.isNone)
      xcvr := c.xcvr || !on
      recovering := c.recovering || (c.busOff && v.getLsbD 5) })

/-- A write of buffer configuration: the registers' share only (10 R299). -/
def CanBuf.config (b : CanBuf) (k : Nat) (v : Word) : CanBuf :=
  if k = 0 then { b with cfg := mixWord b.cfg 0x00060FF3 v }
  else if k = 4 then { b with fid := v &&& 0x3FFFFFFF }
  else { b with mask := v &&& 0x3FFFFFFF }

/-- A write to a register of port `n`. -/
def State.canWrite (s : State) (n off : Nat) (v : Word) (priv : Bool) : WriteAns :=
  let c := s.canPort n
  let cfg (ok : Bool) (k : Can → Can) : WriteAns :=
    needPriv priv (needOpen c.init (needLegal ok (.done (s.upCanPort n k))))
  if off = 0x004 then .done (s.upCanPort n (fun c => { c with cause := w1c c.cause v }))
  else if off = 0x008 then .done (s.upCanPort n (fun c => { c with causeEn := v &&& 0x1FFF }))
  else if off = 0x00C then
    needPriv priv (needLegal ((decide (n = 0) || !v.getLsbD 8) && (!v.getLsbD 6 || c.gateEn 0)) (.done (s.canCtrl n v)))
  else if off = 0x010 then cfg (timingOk v c.dbt) (fun c => { c with nbt := v &&& 0x3FFFFFFF })
  else if off = 0x014 then cfg (timingOk c.nbt v) (fun c => { c with dbt := v &&& 0x0F0F1F1F })
  else if off = 0x018 then cfg true (fun c => { c with tdc := mixWord c.tdc 0x00007F01 v })
  else if off = 0x030 then cfg true (fun c => { c with ref := v &&& 0x3FFFFFFF })
  else if off = 0x038 then .done (s.canBufSel n (wfield v 5 0))
  else if off = 0x03C then .done (s.canTxReq n (wfield v 5 0))
  else if off = 0x040 then .done (s.canTxAbort n (wfield v 5 0))
  else if 0x100 ≤ off ∧ off < 0x200 then
    let g := aputd 0 c.gates ((off - 0x100) / 4) (v &&& 0xBFFF)
    cfg (gatesOk s.clk.p g && decide (wfield v 13 0 ≤ 9990) && (!c.ctrl.getLsbD 6 || ((aget g 0).getD 0).getLsbD 15))
      (fun c => { c with gates := g, gateOff := false })
  else if 0x200 ≤ off ∧ off < 0x600 then
    cfg true (fun c => { c with cells := aputd 0 c.cells ((off - 0x200) / 4) (v &&& 0xBFBFBFBF) })
  else if 0x600 ≤ off ∧ off < 0xA00 ∧ off % 16 ≠ 12 then
    let b := (off - 0x600) / 16
    needPriv priv (needOpen (c.init && decide ((c.buf b).owner = 0)) (needLegal
      (decide (off % 16 ≠ 0) || (decide (wfield v 1 0 ≠ 3) && decide (wfield v 18 17 ≠ 3)))
      (.done (s.upBuf n b (fun x => x.config (off % 16) v)))))
  else if 0xA00 ≤ off ∧ off < 0xA48 then
    let b := c.buf c.bufSel
    if b.dir = 2 ∧ b.owner = 0 then
      .done (s.upBuf n c.bufSel (fun x => { x with frame := (padWords x.frame).set ((off - 0xA00) / 4) v }))
    else .done s
  else .done s
where
  /-- A staging frame of 18 words. -/
  padWords (f : List Word) : List Word := (List.range 18).map (frameWord f)

/-! ### Kivasel segments (11 R343) -/

/-- The valid data length at or above `n` (ISO 11898-1), with its DLC. -/
def dlcOf (n : Nat) : Nat × Nat :=
  if n ≤ 8 then (n, n)
  else if n ≤ 12 then (12, 9) else if n ≤ 16 then (16, 10) else if n ≤ 20 then (20, 11)
  else if n ≤ 24 then (24, 12) else if n ≤ 32 then (32, 13) else if n ≤ 48 then (48, 14) else (64, 15)

/-- One segment as a frame: header byte, then the bytes padded with zeros (log 29: BRS is 0). -/
def kvFrame (id : Nat) (fd : Bool) (seq : Nat) (first last : Bool) (b : List Byte) : List Word :=
  let d := dlcOf (1 + b.length)
  let l := padTo d.1 (leBytes 1 (seq % 64 + 64 * bit last + 128 * bit first) ++ b)
  w32 id :: w32 (d.2 + 16 * bit fd) :: (List.range 16).map (fun i => w32 (getLE l (4 * i) 4))

/-- The frames of a unit from segment `seq` on: 63 bytes in FD frames, 7 in classical ones. -/
def kvFrames (id : Nat) (fd : Bool) : Nat → Nat → List Byte → List (List Word)
  | 0, _, _ => []
  | n + 1, seq, b =>
    let k := if fd then 63 else 7
    let last := decide (b.length ≤ k)
    kvFrame id fd seq (decide (seq = 0)) last (b.take k) :: (if last then [] else kvFrames id fd n (seq + 1) (b.drop k))

/-- Waiting segments enter the queue of buffer 63. -/
def State.feedKv (s : State) (n : Nat) : State :=
  let c := s.canPort n
  let k := 4 - (c.buf 63).queue.length
  (c.kvOut.take k).foldl (fun acc f => acc.canQueue n 63 f false) (s.upCanPort n (fun c => { c with kvOut := c.kvOut.drop k }))

/-- A unit leaves a port in segments, after those that wait; a port whose KIVASEL_TX_ID is off sends none (10 R320). -/
def State.kvCan (s : State) (n : Nat) (b : List Byte) : State :=
  let c := s.canPort n
  if s.inForce (0x2800 + n) 14 0xFFFFFFFF = 0xFFFFFFFF then s
  else (s.upCanPort n (fun x => { x with
    kvOut := x.kvOut ++ kvFrames (s.inForce (0x2800 + n) 14 0xFFFFFFFF) (c.ctrl.getLsbD 2) 160 0 b })).feedKv n

/-! ### Meanings -/

/-- Does port `n` take part in the traffic on its bus (10 R313, R317)? -/
def Can.listens (c : Can) : Bool := !c.offBus && !c.init && !c.busOff

/-- A frame that the port has received: its receive error counter falls (ISO 11898-1, 10 R312). -/
def State.canHeard (s : State) (n : Nat) : State :=
  let c := s.canPort n
  let r := if 127 < c.rxErr then max 119 (min 127 (Config.recAfter s.free n)) else c.rxErr - 1
  s.useFree.upCanPort n (fun c => { c with rxErr := r })

/-- CAN_FRAME_RECEIVED (10 R301): a valid frame on port n at t. While INIT is 1 or the port is in bus-off, nothing is received; with FD disabled an FD frame is a form error (10 R297). -/
def execCanFrameReceived (n t : Nat) (frame : List Word) (s : State) : Host.Outcome State Fault Refusal :=
  commit s (
    let s := s.reach t
    let c := s.canPort n
    if !c.listens then s
    else if (frameWord (canFrame frame 0 64) 1).getLsbD 4 && !c.ctrl.getLsbD 2 then
      (s.upCanPort n (fun c => { c with lec := 2 })).canCounters n c.txErr (c.rxErr + 1)
    else (s.canHeard n).canReceive n t frame)

/-- CAN_LOCK_TIMEOUT (10 R302): a lock held for 1 ms, that of the selected buffer or of the FIFO head, is released. -/
def execCanLockTimeout (n : Nat) (fifo : Bool) (s : State) : Host.Outcome State Fault Refusal :=
  commit s (
    let c := s.canPort n
    if fifo then
      (if c.fifoLock then (s.upCanPort n (fun c => { c with fifoLock := false })).canCause n 8 ((c.fifo.head?.map (·.1)).getD 0)
       else s)
    else if (c.buf c.bufSel).locked then
      (s.upBuf n c.bufSel (fun x => { x with locked := false })).canCause n 8 c.bufSel
    else s)

/-- CAN_TX_START (10 R310): the port may start a frame and starts the one it offers. -/
def execCanTxStart (n t : Nat) (s : State) : Host.Outcome State Fault Refusal :=
  commit s ((s.reach t).canStart n)

/-- The delay compensation measures the transceiver loop in an FD frame whose bit rate switches: TDCV takes a value that the spec leaves to the transceiver (10 R298, R319; log 60). -/
def State.measureLoop (s : State) (n : Nat) (x : CanTx) : State :=
  let w := frameWord x.words 1
  if w.getLsbD 4 && w.getLsbD 5 && (s.canPort n).tdc.getLsbD 0 then
    s.useFree.upCanPort n (fun c => { c with tdc := mixWord c.tdc 0x007F0000 (w32 (2 ^ 16 * (Config.loopDelay s.free n % 128))) })
  else s

/-- CAN_TX_END (10 R310): the frame in transmission has been sent. -/
def execCanTxEnd (n t : Nat) (s : State) : Host.Outcome State Fault Refusal :=
  commit s (
    let s := s.reach t
    match (s.canPort n).current with
    | none => s
    | some (b, x) =>
      let s := ((s.canRemove n b x).upCanPort n (fun c => { c.freed with txErr := c.txErr - 1 })).measureLoop n x
      ((s.upBuf n b (fun y => { y with aborted := false })).send (.can n (shownWords x.words))).feedKv n)

/-- CAN_TX_ERROR (10 R311): an attempt ended by lost arbitration, which does not count, or in an error. `ack` and `stuff` name the two errors that ISO 11898-1 lets a transmitter leave uncounted in its counter, a missing acknowledgement while error passive and a stuff error during arbitration, and `dom` how often the dominant bits after its error flag add 8 (10 R312). In bus-off every queued frame stays queued (10 R313). -/
def execCanTxError (n lec : Nat) (data arbitration ack stuff : Bool) (dom : Nat) (s : State) : Host.Outcome State Fault Refusal :=
  commit s (
    let c := s.canPort n
    match c.current with
    | none => s
    | some (b, x) =>
      let s := (s.upCanPort n Can.freed).upBuf n b (fun y => { y with inTx := false })
      if arbitration then
        -- a frame whose buffer was aborted meanwhile is not retried (R306)
        (if (c.buf b).abortReq then s.canRemove n b x else
         if b = 64 then s.upCanPort n (fun c => { c with refPending := c.window = some (0, 64) }) else s)
      else
        let s := s.upCanPort n (fun c => if data then { c with dlec := lec } else { c with lec := lec })
        let tec := (if stuff || (ack && decide (127 < c.txErr)) then c.txErr else c.txErr + 8) + 8 * dom
        let y := c.buf b
        let s := s.upBuf n b (fun y => { y with queue := countTry x y.queue })
        let s := s.canCounters n tec c.rxErr
        if b = 64 then s.upCanPort n (fun c => { c with refPending := c.window = some (0, 64) })
        else if y.abortReq then s.canRemove n b x
        else if (s.canPort n).busOff || y.unlim || decide (x.tries + 1 < 1 + y.retry) then s
        else ((s.canRemove n b x).upBuf n b (fun y => { y with aborted := true })).canCause n 5 b)

/-- CAN_RECOVERY_END (10 R313): 128 occurrences of 11 recessive bits. -/
def execCanRecoveryEnd (n : Nat) (s : State) : Host.Outcome State Fault Refusal :=
  commit s (
    let c := s.canPort n
    if c.busOff && c.recovering then
      (s.upCanPort n (fun c => { c with busOff := false, recovering := false, txErr := 0, rxErr := 0 })).canCause n 3 0
    else s)

/-- CAN_BUS_INTEGRATION (10 R317): 11 consecutive recessive bits seen by a port whose INIT is cleared. -/
def execCanBusIntegration (n : Nat) (s : State) : Host.Outcome State Fault Refusal :=
  commit s (
    let c := s.canPort n
    if c.init || !c.xcvr then s else s.upCanPort n (fun c => { c with offBus := false, idle := true }))

/-- GATE_WINDOW_OPEN (10 R315). -/
def execGateWindowOpen (n gate t : Nat) (s : State) : Host.Outcome State Fault Refusal :=
  commit s ((s.reach t).gateOpen n gate)

/-- GATE_WINDOW_CLOSE (10 R315). -/
def execGateWindowClose (n t : Nat) (s : State) : Host.Outcome State Fault Refusal :=
  commit s ((s.reach t).gateClose n)

/-- CAN_RECEIVE_ERROR (10 R312): an error while receiving. By ISO 11898-1 the counter rises by 1, but for a bit error in the port's own error or overload flag (`exempt`), and by 8 for each of its `dom` dominant events after the flag. -/
def execCanReceiveError (n : Nat) (exempt : Bool) (dom lec : Nat) (data : Bool) (s : State) :
    Host.Outcome State Fault Refusal :=
  commit s (
    let c := s.canPort n
    if !c.listens then s
    else
      let s := s.upCanPort n (fun c => if data then { c with dlec := lec } else { c with lec := lec })
      s.canCounters n c.txErr (c.rxErr + (if exempt then 0 else 1) + 8 * dom))

end Sys2Proof.Machine
end

