-- ==== Sys2Proof/Machine/Crc.lean ====
section
/-! DEFINITION. The two cyclic redundancy checks: CRC-16 of the parameter store and the adjustment line (15 R438, 17 R485), and CRC-32 (02 R54, 13 R399, 17 R487; its polynomial is PRESUMED, log 10). -/

set_option Elab.async false

namespace Sys2Proof.Machine

open Sys2Proof

/-- Eight steps of the CRC-16 register, most significant bit first, polynomial 0x1021 (15 R438). -/
def crc16Shift : Nat → Nat → Nat
  | 0, c => c
  | n + 1, c => crc16Shift n (if 0x8000 ≤ c then (2 * c % 0x10000) ^^^ 0x1021 else 2 * c)

/-- CRC-16 over bytes: initial value 0xFFFF, no reflection (15 R438). -/
def crc16 (l : List Byte) : Nat := l.foldl (fun c b => crc16Shift 8 (c ^^^ (b.toNat * 256))) 0xFFFF

/-- Eight steps of the CRC-32 register, least significant bit first (log 10). -/
def crc32Shift : Nat → Nat → Nat
  | 0, c => c
  | n + 1, c => crc32Shift n (if c % 2 = 1 then (c / 2) ^^^ 0xEDB88320 else c / 2)

/-- CRC-32 over bytes (log 10). -/
def crc32 (l : List Byte) : Nat := (l.foldl (fun c b => crc32Shift 8 (c ^^^ b.toNat)) 0xFFFFFFFF) ^^^ 0xFFFFFFFF

/-- Bytes followed by their CRC-32. -/
def withCrc32 (l : List Byte) : List Byte := l ++ leBytes 4 (crc32 l)

end Sys2Proof.Machine
end

