-- ==== Sys2Proof/Machine/Milestone.lean ====
section
/-! DEFINITION. Milestones as bytes: the header, its check, and the records of the causeway stream (02 R54, 07 R213, R214). -/

set_option Elab.async false

namespace Sys2Proof.Machine

open Sys2Proof

/-! ### The header (02 R54) -/

/-- The header in field order but for Check. -/
def Milestone.fields (m : Milestone) : List Byte :=
  leBytes 8 m.num ++ leBytes 8 m.firstBeat ++ leBytes 1 m.beats ++ leBytes 8 m.powered ++ leBytes 2 m.term ++
    (padTo 256 (m.words.flatMap (leBytes 8))) ++ leBytes 4 m.batches ++ leBytes 4 m.volume

/-- The entries of a run set with the bytes that the milestone commits. -/
def Milestone.entryBytes (m : Milestone) (e : Nat) : List Byte :=
  (List.range 16).map (fun i => Ov.byte m.net (16 * e + i) 0)

/-- The entries that the completed runs wrote. -/
def Milestone.runEntries (m : Milestone) : List Nat :=
  m.entries.foldl (fun acc x => (Ov.entries x.2).foldl (fun a e => insertNat e a) acc) []

/-- The entries that edit batches wrote. -/
def Milestone.editEntries (m : Milestone) : List Nat :=
  m.edits.foldl (fun acc b => b.items.foldl (fun a x =>
    (List.range ((x.addr % 16 + x.bytes.length + 15) / 16)).foldl (fun a i => insertNat (x.addr / 16 + i) a) a) acc) []

/-- Entries sent again after the edits of a merged milestone, so that the later of an edit and a run prevails (02 R80; log 23). -/
def Milestone.again (m : Milestone) : List Nat :=
  if m.beats ≤ 1 then [] else m.runEntries.filter (fun e => m.editEntries.contains e)

/-- Check: CRC-32 over the header and the entries in the order sent. -/
def Milestone.check (m : Milestone) : Nat :=
  crc32 (m.fields ++ (m.runEntries ++ m.again).flatMap m.entryBytes)

/-- The header of 304 bytes. -/
def Milestone.head (m : Milestone) : List Byte := padTo 304 (m.fields ++ leBytes 4 m.check)

/-! ### Edit batches as bytes (11 R331, R340) -/

/-- A batch as its BATCH_ADD items. -/
def Batch.encode (b : Batch) : List Byte :=
  b.items.flatMap (fun x => leBytes 2 x.index ++ leBytes 1 x.sub ++ zeros 1 ++ leBytes 4 x.bytes.length ++
    padTo ((x.bytes.length + 3) / 4 * 4) x.bytes)

/-- ARG of an EDITS record: CLIENT_ID above BATCH_ID (11 R340). -/
def Batch.arg (b : Batch) : Nat := b.client * 2 ^ 32 + b.id

/-! ### Stream records (07 R213, R214) -/

/-- Whole groups of 16 bytes. -/
def padGroups (l : List Byte) : List Byte := padTo ((l.length + 15) / 16 * 16) l

/-- A record: its header group and its payload groups. -/
def streamRecord (rtype arg : Nat) (payload : List Byte) : List Byte :=
  let p := padGroups payload
  leBytes 1 rtype ++ zeros 3 ++ leBytes 4 (p.length / 16) ++ leBytes 8 arg ++ p

/-- Runs of consecutive entries. -/
def entryRuns : List Nat → List (Nat × Nat)
  | [] => []
  | e :: t => match entryRuns t with
    | (f, n) :: rest => if f = e + 1 then (e, n + 1) :: rest else (e, 1) :: (f, n) :: rest
    | [] => [(e, 1)]

/-- The ENTRIES records of a set of entries. -/
def Milestone.entryRecords (m : Milestone) (es : List Nat) : List Byte :=
  (entryRuns es).flatMap (fun r =>
    streamRecord 0x11 (16 * r.1) ((List.range r.2).flatMap (fun i => m.entryBytes (r.1 + i))))

/-- The records of one milestone (07 R214). -/
def Milestone.records (m : Milestone) : List Byte :=
  streamRecord 0x10 m.num m.head ++ m.entryRecords m.runEntries ++
    m.edits.flatMap (fun b => streamRecord 0x12 b.arg b.encode) ++ m.entryRecords m.again ++
    m.snaps.flatMap (fun x => streamRecord 0x13 x.seq x.bytes) ++ streamRecord 0x14 m.num []

/-- A header read back; entries, edits and snapshots follow in their records. -/
def readHead (l : List Byte) : Milestone :=
  { num := getLE l 0 8, firstBeat := getLE l 8 8, beats := getLE l 16 1, powered := getLE l 17 8, term := getLE l 25 2
    words := (List.range 32).map (fun i => getLE l (27 + 8 * i) 8)
    batches := getLE l 283 4, volume := getLE l 287 4, entries := [], net := [], edits := [], snaps := [] }

/-- The beat of the closing boundary. -/
def Milestone.closeBeat (m : Milestone) : Nat := m.firstBeat + m.beats

/-! ### Task words (02 R54) -/

/-- The word of a task at the closing boundary of beat `b`. -/
def TaskSt.word (t : TaskSt) (b : Nat) : Nat :=
  let late := match t.pendingAt with
    | some n => if b < n then n - b else 0
    | none => 0
  (if t.completed then t.lastRel % 2 ^ 32 else 0) + 2 ^ 32 * bit t.completed +
    2 ^ 33 * bit (decide (0 < late)) + 2 ^ 40 * late

/-- The dynamic state of a task as a task word of a milestone closed at beat `b` gives it. -/
def TaskSt.ofWord (t : TaskSt) (w b : Nat) (outs : Ov) : TaskSt :=
  { t with
    lastRel := w % 2 ^ 32, completed := w.testBit 32
    pendingAt := if w.testBit 33 then some (b + field w 63 40) else none
    outs := outs }

/-- A task's whole output set as bits over the output images (02 R50). -/
def outSet (outs : List (Nat × Nat × Nat)) (m : Mem) : Ov :=
  outs.foldl (fun acc o =>
    if o.1 = 0 then
      (List.range o.2.2).foldl (fun a i =>
        let j := o.2.1 + i
        Ov.put (doutBase + j / 8) (BitVec.ofNat 8 (2 ^ (j % 8))) (memRead m (doutBase + j / 8)) a) acc
    else Ov.putBytes acc (aoutBase + 4 * o.2.1) (memBytes m (aoutBase + 4 * o.2.1) (4 * o.2.2))) []

/-- The output set of task `t` in the table in force, read from a memory. -/
def State.outsOf (s : State) (t : Nat) (m : Mem) : Ov :=
  match s.ldr.img, s.row t with
  | some i, some r => outSet (i.rowOuts r) m
  | _, _ => []

end Sys2Proof.Machine
end

