-- ==== Sys2Proof/Machine/Publish.lean ====
section
/-! DEFINITION. Answers to dictionary requests (11 R332), publication maps (11 R327, R328) and reads of published values (11 R329). -/

set_option Elab.async false

namespace Sys2Proof.Machine

open Sys2Proof

/-! ### Answers (11 R332) -/

/-- STATUS and INFO of an answer, and the state that it leaves. -/
structure Ans where
  status : Nat
  info : Nat
  state : State
  deriving DecidableEq, Repr

/-- The status codes of R332. -/
def stOk : Nat := 0
@[inherit_doc stOk] def stBusy : Nat := 1
@[inherit_doc stOk] def stNoEntry : Nat := 2
@[inherit_doc stOk] def stNoSub : Nat := 3
@[inherit_doc stOk] def stAccess : Nat := 4
@[inherit_doc stOk] def stSealed : Nat := 5
@[inherit_doc stOk] def stType : Nat := 6
@[inherit_doc stOk] def stRange : Nat := 7
@[inherit_doc stOk] def stRole : Nat := 8
@[inherit_doc stOk] def stFused : Nat := 9
@[inherit_doc stOk] def stNoSession : Nat := 10
@[inherit_doc stOk] def stMalformed : Nat := 11
@[inherit_doc stOk] def stTooLarge : Nat := 12
@[inherit_doc stOk] def stAuth : Nat := 13
@[inherit_doc stOk] def stOrder : Nat := 14
@[inherit_doc stOk] def stApplied : Nat := 15
@[inherit_doc stOk] def stWorn : Nat := 16

/-- Answered OK. -/
def State.ok (s : State) : Ans := ⟨stOk, 0, s⟩

/-- Refused. -/
def State.no (s : State) (status info : Nat) : Ans := ⟨status, info, s⟩

/-! ### Types (11 R323) -/

/-- The size of a type of fixed size. -/
def typeSize (t : Nat) : Option Nat :=
  if t = 0x01 then some 1
  else if t = 0x02 ∨ t = 0x06 ∨ t = 0x0C then some 1
  else if t = 0x03 ∨ t = 0x07 ∨ t = 0x0D then some 2
  else if t = 0x04 ∨ t = 0x08 ∨ t = 0x0E ∨ t = 0x0A then some 4
  else if t = 0x05 ∨ t = 0x09 ∨ t = 0x0F ∨ t = 0x0B then some 8
  else if t = 0x10 ∨ t = 0x13 then some 8
  else if t = 0x11 ∨ t = 0x12 ∨ t = 0x22 then some 4
  else none

/-- Is a type code listed in R323? -/
def typeKnown (t : Nat) : Bool := (typeSize t).isSome || decide (t = 0x14 ∨ t = 0x15 ∨ t = 0x20 ∨ t = 0x21)

/-- Is a value of a type well formed and in the type's own range: 6 for a wrong size, 7 for a wrong value, 0 otherwise (11 R323)? -/
def valueCheck (t len : Nat) (v : List Byte) : Nat :=
  match typeSize t with
  | some n =>
    if v.length ≠ n then stType
    else if t = 0x01 then (if leNat v ≤ 1 then stOk else stRange)
    else if t = 0x12 then (if leNat v ≤ 86399999 then stOk else stRange)
    else if t = 0x22 then (if bcdOk 8 (leNat v) then stOk else stRange)
    else stOk
  | none =>
    if t = 0x14 then
      (if byteAt v 0 = 255 ∨ v.length ≠ 1 + byteAt v 0 ∨ len < v.length then stType else stOk)
    else if t = 0x15 then
      (if 254 < getLE v 0 2 ∨ v.length ≠ 2 + 2 * getLE v 0 2 ∨ len < v.length then stType else stOk)
    else if v.length ≠ len then stType else stOk

/-! ### Maps (11 R327) -/

/-- The sections of the L unit's map outside lane scratch: base and size (05 R145). -/
def mapSections : List (Nat × Nat) :=
  [(dinBase, 0x8000), (doutBase, 0x8000), (ainBase, 0x40000), (aoutBase, 0x40000), (qualBase, 0x1000),
   (localQualBase, 0x40), (instBase, 0x2000000)]

/-- One entry of a map. -/
def readPub (e : List Byte) : PubEntry :=
  { index := getLE e 0 2, sub := byteAt e 2, type := byteAt e 3, writable := (byteAt e 4).testBit 0, addr := getLE e 8 4, len := getLE e 12 4 }

/-- The entries that a map's bytes hold. -/
def mapEntries (b : List Byte) : List PubEntry :=
  (List.range (getLE b 32 4)).map (fun i => readPub (slice b (48 + 16 * i) 16))

/-- One entry within the rules of R327. -/
def pubOk (e : List Byte) : Bool :=
  let x := readPub e
  decide (0x8000 ≤ x.index ∧ x.index < 0xC000) && typeKnown x.type && decide (x.type ≠ 0x21) &&
    decide (byteAt e 4 < 2) && allZero (slice e 5 3) &&
    (match typeSize x.type with
     | some n => decide (x.len = n)
     | none => true) &&
    mapSections.any (fun r => decide (r.1 ≤ x.addr ∧ x.addr + x.len ≤ r.1 + r.2)) &&
    (!x.writable || decide (instBase ≤ x.addr))

/-- No INDEX and SUB occurs twice. -/
def pubUnique : List PubEntry → Bool
  | [] => true
  | x :: t => !t.any (fun y => decide (y.index = x.index ∧ y.sub = x.sub)) && pubUnique t

/-- A map within the rules of R327. -/
def mapOk (b : List Byte) : Bool :=
  let n := getLE b 32 4
  decide (48 ≤ b.length) && decide (n ≤ 8192) && decide (b.length = 48 + 16 * n) && allZero (slice b 36 12) &&
    (List.range n).all (fun i => pubOk (slice b (48 + 16 * i) 16)) && pubUnique (mapEntries b)

/-- The last segment of a map arrived (11 R328): of the installed image it replaces the map in force at the next boundary, at once where no beats run; of the staged image it waits with it; any other is refused. -/
def State.mapDone (s : State) (b : List Byte) : Ans :=
  let d := b.take 32
  if !mapOk b then s.no stRange 0
  else if s.ldr.img.isSome ∧ d = s.ldr.digest then
    (if s.clk.running then s.upDict (fun q => { q with pubNext := some (mapEntries b) })
     else s.upDict (fun q => { q with pubMap := mapEntries b, pubNext := none })).ok
  else if !s.ldr.staged.isEmpty ∧ s.ldr.state ≠ 1 ∧ d = s.ldr.stagedDigest then
    (s.upDict (fun q => { q with pubPend := mapEntries b })).ok
  else s.no stRange 0

/-- A segment of entry 0x4040 (11 R327, R331). -/
def State.mapSegment (s : State) (off : Nat) (data : List Byte) (last : Bool) : Ans :=
  let part := if off = 0 then [] else s.dict.pubStaged
  if off ≠ part.length then (s.upDict (fun q => { q with pubStaged := [] })).no stRange 0
  else if 16777216 < off + data.length then (s.upDict (fun q => { q with pubStaged := [] })).no stTooLarge 16777216
  else if last then (s.upDict (fun q => { q with pubStaged := [] })).mapDone (part ++ data)
  else (s.upDict (fun q => { q with pubStaged := part ++ data })).ok

/-- The map that waits for the next boundary takes force (11 R328). -/
def State.takeMap (s : State) : State :=
  match s.dict.pubNext with
  | some m => s.upDict (fun q => { q with pubMap := m, pubNext := none })
  | none => s

/-! ### Published values (11 R329) -/

/-- The published entry at an index and sub-index. -/
def State.published (s : State) (idx sub : Nat) : Option PubEntry :=
  s.dict.pubMap.find? (fun x => decide (x.index = idx ∧ x.sub = sub))

/-- Does an address lie in a section that the input view fills? -/
def inputAddr (a : Nat) : Bool :=
  decide (a < doutBase) || decide (ainBase ≤ a ∧ a < aoutBase) || decide (qualBase ≤ a ∧ a < instBase)

/-- The bytes of a published entry at the most recent boundary; a STANDBY reads the last milestone that it applied. -/
def State.pubBytes (s : State) (x : PubEntry) : List Byte :=
  let waits := decide (s.csw.role = .standby)
  if inputAddr x.addr then memBytes (if waits then s.sto.inView else s.dict.pubView) x.addr x.len
  else memBytes (if waits then s.sto.lmem else s.dict.pubSnap) x.addr x.len

/-- The values that reads of published entries return until the next boundary. -/
def State.takeSnap (s : State) : State :=
  s.upDict (fun q => { q with pubSnap := s.sto.lmem, pubView := s.sto.inView })

/-- PUBLISH_MAP_SEGMENT (11 R327). -/
def execPublishMapSegment (off : Nat) (data : List Byte) (last : Bool) (s : State) : Host.Outcome State Fault Refusal :=
  commit s (s.mapSegment off data last).state

end Sys2Proof.Machine
end

