-- ==== Sys2Proof/Machine/Batches.lean ====
section
/-! DEFINITION. BATCH_IDs, the table of applied batches, edit batches at a boundary and their reports (02 R69, R76 to R80, 07 R218, 11 R338 to R341). -/

set_option Elab.async false

namespace Sys2Proof.Machine

open Sys2Proof

/-! ### BATCH_IDs (11 R339) -/

/-- The number of BATCH_IDs. -/
def idSpace : Nat := 0xFFFFFFFF

/-- Serial number arithmetic: x at or below y. -/
def atOrBelow (x y : Nat) : Bool := decide ((y + idSpace - x) % idSpace < 2 ^ 31)

/-- The BATCH_ID after x. -/
def nextId (x : Nat) : Nat := if x = idSpace then 1 else x + 1

/-- The last applied BATCH_ID of a client, while the table holds it. -/
def Store.lastApplied (x : Store) (client : Nat) : Option Nat := aget x.applied client

/-- An applied batch enters the table of the 64 clients that most recently had one. -/
def putApplied (client id : Nat) (l : List (Nat × Nat)) : List (Nat × Nat) :=
  ((client, id) :: l.filter (fun x => decide (x.1 ≠ client))).take 64

/-- The last accepted batch of a client that waits to be applied. -/
def Store.lastAccepted (x : Store) (client : Nat) : Option Nat :=
  ((x.batches.filter (fun b => decide (b.client = client))).getLast?).map (·.id)

/-- The expected BATCH_ID of a client. -/
def Store.expected (x : Store) (client : Nat) : Nat :=
  match x.lastAccepted client with
  | some i => nextId i
  | none =>
    match x.lastApplied client with
    | some i => nextId i
    | none => 1

/-! ### Units that the module sends (11 R330, R342 to R345) -/

/-- A unit: header and payload. -/
def kvUnit (op session tag status info : Nat) (payload : List Byte) : List Byte :=
  leBytes 1 1 ++ leBytes 1 op ++ leBytes 2 session ++ leBytes 4 tag ++ leBytes 2 status ++ leBytes 2 payload.length ++
    leBytes 4 info ++ payload

/-- A unit leaves on its channel, unless that is the detached S1 (11 R349); on the ODX window it is the response in ODX_RESPi. -/
def State.kvSend (s : State) (c : KChan) (b : List Byte) : State :=
  match c with
  | .can n => s.kvCan n b
  | .s1 => if s.dict.usbOff then s else s.send (.kivasel c b)
  | .odx => (s.upDict (fun d => { d with odxResp := b, odxBusy := false, odxReady := true })).odxCauseBit 0
  | _ => s.send (.kivasel c b)

/-- The session of a number; 0 is that of the window. -/
def Dict.session (d : Dict) (id : Nat) : Option Session :=
  if id = 0 then some d.session0 else d.sessions.find? (fun x => decide (x.id = id))

/-- BATCH_DONE goes to the batch's session while it is open; for session 0 it is ODX_CAUSE.BATCH_DONE. -/
def State.batchDone (s : State) (b : Batch) (status info ms : Nat) : State :=
  let s := s.upSto (fun x => { x with outcomes := (b.client, (b.id, ((if status = stOk then 3 else 4), ms))) :: x.outcomes })
  if b.session = 0 then s.odxCauseBit 1
  else if (s.dict.session b.session).isSome then
    s.kvSend b.chan (kvUnit 0xA0 b.session 0 status info (leBytes 4 b.id ++ leBytes 2 status ++ zeros 2 ++ leBytes 8 ms))
  else s

/-! ### Reports (07 R218) -/

/-- Is there a partner in STANDBY or SYNCING? -/
def State.hasPartner (s : State) : Bool :=
  s.csw.pair && s.csw.partnerSeen && !s.csw.hbLost && decide (s.csw.partnerRole = 2 ∨ s.csw.partnerRole = 3)

/-- Is a milestone reported as durable where R218 asks for it? -/
def State.reported (s : State) (ms : Nat) : Bool :=
  decide (ms ≤ (if s.hasPartner then s.csw.partnerDurable else s.sto.msDurable))

/-- The batches of milestones that are so reported are reported, in their order. -/
def State.reportBatches (s : State) : State :=
  let done (b : Batch) : Bool := match b.ms with
    | some m => s.reported m
    | none => false
  let go := s.sto.unreported.filter done
  let s := s.upSto (fun x => { x with unreported := x.unreported.filter (fun b => !done b) })
  go.foldl (fun acc b => acc.batchDone b stOk 0 (b.ms.getD 0)) s

/-! ### Batches at a boundary (02 R69, R76 to R80) -/

/-- The time by which a batch must have been accepted (02 R77). -/
def closingTime : Nat := 20000

/-- Entries whose older values the runs in progress need when a batch changes them (02 R48). -/
def Batch.entries (b : Batch) : List Nat :=
  b.items.foldl (fun acc x =>
    (List.range ((x.addr % 16 + x.bytes.length + 15) / 16)).foldl (fun a i => insertNat (x.addr / 16 + i) a) acc) []

/-- The runs in progress. -/
def State.runsNow (s : State) : List Nat := (List.range 32).filter (fun i => (s.task i).run.isSome)

/-- The values kept for runs in progress when a batch is applied. -/
def State.keptAfter (s : State) (b : Batch) : List (Nat × List Nat) :=
  keepFor s.sto.opened.keptEdit s.sto.opened.kept s.runsNow b.entries

/-- Does the batch fit the reserve and the half (02 R69)? -/
def State.batchFits (s : State) (b : Batch) : Bool :=
  let h := s.sto.opened
  let more := 16 * ((s.keptAfter b).length - h.keptEdit.length)
  decide (h.reserve + b.size + more ≤ reserveSize) && decide (s.openContent + b.size + more ≤ halfSize)

/-- The change a batch makes. -/
def Batch.ov (b : Batch) : Ov := b.items.foldl (fun o x => Ov.putBytes o x.addr x.bytes) []

/-- A batch is applied whole: memory, open half, table of applied batches. -/
def State.applyBatch (s : State) (b : Batch) : State :=
  let kept := s.keptAfter b
  let s := s.upOpen (fun h => { h with net := Ov.over h.net b.ov, edits := h.edits ++ [b], keptEdit := kept })
  s.upSto (fun x => { x with
    lmem := b.ov.apply x.lmem, applied := putApplied b.client b.id x.applied, unreported := x.unreported ++ [b] })

/-- The reserve refuses a batch at its boundary: it is refused whole with BUSY, and every later accepted batch of its client with it (02 R69, 11 R337, R340). -/
def State.refuseBatch (s : State) (b : Batch) : State :=
  let gone := b :: s.sto.batches.filter (fun x => decide (x.client = b.client))
  let s := s.upSto (fun x => { x with
    refusals := sat32 x.refusals, batches := x.batches.filter (fun y => decide (y.client ≠ b.client)) })
  let s := s.exeCause 3 []
  gone.foldl (fun acc y => acc.batchDone y stBusy ((2 * acc.clk.p + 999) / 1000) 0) s

/-- The due batches, oldest first, up to 64 KiB; one that does not fit the boundary waits and holds back those behind it (02 R77). Answers the batches applied. -/
def State.applyBatches (s : State) (beatAt : Nat) : Nat → Nat → List Batch → State × List Batch
  | 0, _, done => (s, done)
  | n + 1, used, done =>
    match s.sto.batches with
    | [] => (s, done)
    | b :: rest =>
      if beatAt < b.accepted + closingTime ∨ 65536 < used + b.size then (s, done)
      else
        let s := s.upSto (fun x => { x with batches := rest })
        if s.batchFits b then (s.applyBatch b).applyBatches beatAt n (used + b.size) (done ++ [b])
        else (s.refuseBatch b).applyBatches beatAt n used done

end Sys2Proof.Machine
end

