-- ==== Sys2Proof/Machine/ImageCode.lean ====
section
/-! DEFINITION. Schedule images as bytes, and their code: bundles, transfers and what a task reaches (06 R174 to R176, R182, R189, R194). -/

set_option Elab.async false

namespace Sys2Proof.Machine

open Sys2Proof

/-! ### Reading an image (06 R174 to R176, R189, R194) -/

/-- The entries of a section of fixed entry size. -/
def chunks (n : Nat) : Nat → List Byte → List (List Byte)
  | 0, _ => []
  | k + 1, l => if l.isEmpty ∨ n = 0 then [] else l.take n :: chunks n k (l.drop n)

/-- A section cut into its entries. -/
def entriesOf (n : Nat) (l : List Byte) : List (List Byte) := chunks n l.length l

/-- A release table entry (06 R176). -/
def readRow (e : List Byte) : TaskRow :=
  { task := byteAt e 0, lset := byteAt e 1, order := byteAt e 2, policy := byteAt e 3, period := getLE e 4 4
    phase := getLE e 8 4, start := getLE e 12 4, entry := getLE e 16 4, ip := getLE e 20 4, wcet := getLE e 24 8
    foot := getLE e 32 4, keep := getLE e 36 4, outFirst := getLE e 40 2, outCount := getLE e 42 2
    winFirst := getLE e 44 2, winCount := getLE e 46 2, loopFirst := getLE e 48 2, loopCount := getLE e 50 2
    zeros := allZero (slice e 52 12) }

/-- The initial-value records of section 7 up to one that runs beyond its end (06 R175). -/
def readInits : Nat → List Byte → List (Nat × List Byte)
  | 0, _ => []
  | n + 1, l =>
    let len := getLE l 4 4
    if l.length < 8 ∨ l.length < 8 + len then []
    else (getLE l 0 4, slice l 8 len) :: readInits n (l.drop (8 + (len + 3) / 4 * 4))

/-- Does a record of section 7 run beyond its end (06 R191 code 20)? -/
def initsCut : Nat → List Byte → Bool
  | 0, _ => false
  | n + 1, l =>
    let len := getLE l 4 4
    if l.isEmpty then false
    else if l.length < 8 ∨ l.length < 8 + len then true
    else initsCut n (l.drop (8 + (len + 3) / 4 * 4))

/-- Section `i` of an image's bytes. -/
def sectionOf (b : List Byte) (i : Nat) : List Byte := slice b (getLE b (32 + 8 * i) 4) (getLE b (36 + 8 * i) 4)

/-- An image decoded from its bytes. -/
def readImage (b : List Byte) : Image :=
  { bytes := b, imgLen := getLE b 8 4, single := decide (byteAt b 12 = 1), mainSet := byteAt b 13, minSet := byteAt b 14
    tasks := byteAt b 15, beatP := getLE b 16 4, hyper := getLE b 20 4, footMax := getLE b 24 4, occMax := getLE b 28 4
    sections := (List.range 12).map (fun i => (getLE b (32 + 8 * i) 4, getLE b (36 + 8 * i) 4))
    prevDigest := slice b 128 32, digest := slice b 160 32
    main := (entriesOf 64 (sectionOf b 1)).map readRow
    reduced := (entriesOf 64 (sectionOf b 2)).map readRow
    outs := (entriesOf 12 (sectionOf b 3)).map (fun e => (getLE e 0 4, getLE e 4 4, getLE e 8 4))
    wins := (entriesOf 8 (sectionOf b 4)).map (fun e => (getLE e 0 4, getLE e 4 4))
    loops := (entriesOf 8 (sectionOf b 5)).map (fun e => (getLE e 0 4, getLE e 4 4))
    xtab := (entriesOf 16 (sectionOf b 6)).map (fun e =>
      { reg := byteAt e 0, writer := byteAt e 1, zero := getLE e 2 2, readers := getLE e 4 4, writeOff := getLE e 8 4, readOff := getLE e 12 4 })
    inits := readInits (sectionOf b 7).length (sectionOf b 7)
    instances := (entriesOf 24 (sectionOf b 8)).map (fun e =>
      { newOff := getLE e 0 4, len := getLE e 4 4, type := getLE e 8 4, oldOff := getLE e 12 4, name := getLE e 16 4, zero := getLE e 20 4 })
    names := sectionOf b 9 }

/-- The tables of an image, each with whether it is the reduced one. -/
def Image.tables (i : Image) : List (Bool × List TaskRow) :=
  (false, i.main) :: (if i.reduced.isEmpty then [] else [(true, i.reduced)])

/-! ### The code of an image (03 R105 to R108, 06 R182) -/

/-- A bundle of the bundles section with its address. -/
structure CodeB where
  addr : Nat
  bundle : Bundle
  deriving DecidableEq, Repr

/-- A bundle's syllables, each with the EXT that precedes it. -/
def Bundle.extSyls (b : Bundle) : List (Option Nat × Word) :=
  match b.syls with
  | [] => []
  | w :: t => (b.ext, w) :: t.map (fun x => (none, x))

/-- Words of an image from an address up to `n` of them, not beyond `hi`. -/
def imageWords (b : List Byte) (hi : Nat) : Nat → Nat → List Word
  | 0, _ => []
  | n + 1, a => if a + 4 ≤ hi then w32 (getLE b a 4) :: imageWords b hi n (a + 4) else []

/-- A transfer with delay bundles: any but the end of run. -/
def isDelayed (w : Word) : Bool := isTransfer w && decide (sylOpc w ≠ 9)

/-- Accesses to a shared store that the encoding alone makes: image operations and record operations (03 R100, 04 R144). -/
def encodedAccess (b : Bundle) : Nat := (b.syls.filter (fun w => isImageOp w || isRecord w)).length

/-- The bundles of the section in memory order, or the cause and address of the first illegal one; `left` delay bundles are still to come. -/
def readCode (b : List Byte) (hi : Nat) : Nat → Nat → Nat → Except (Nat × Nat) (List CodeB)
  | 0, _, _ => .ok []
  | fuel + 1, a, left =>
    if hi ≤ a then .ok []
    else
      match decodeBundle (imageWords b hi 8 a) (decide (0 < left)) with
      | .error c =>
        -- cause 7 by the encoding goes before cause 8 (03 R108)
        let two := match decodeBundle (imageWords b hi 8 a) false with
          | .ok x => decide (2 ≤ encodedAccess x)
          | .error _ => false
        .error (if two then 7 else if c = 9 then 5 else c, a)
      | .ok x =>
        match readCode b hi fuel (a + x.len) (if x.syls.any isDelayed then 2 else left - 1) with
        | .error e => .error e
        | .ok l => .ok ({ addr := a, bundle := x } :: l)

/-- The code of an image. -/
def Image.code (i : Image) : Except (Nat × Nat) (List CodeB) :=
  let s := i.sections[0]?.getD (0, 0)
  readCode i.bytes (s.1 + s.2) (s.2 / 4 + 1) s.1 0

/-- The code of an image that passed code 4. -/
def Image.codeList (i : Image) : List CodeB :=
  match i.code with
  | .ok l => l
  | .error _ => []

/-- The transfer of a bundle, the end of run included. -/
def CodeB.ctl (x : CodeB) : Option Word := x.bundle.syls.find? isTransfer

/-- The immediate target of a transfer. -/
def CodeB.target (x : CodeB) (w : Word) : Option Nat := if sylImm w then some (4 * immRaw x.bundle.ext w) else none

/-- The index of the bundle at an address. -/
def codeIndex (c : List CodeB) (a : Nat) : Option Nat := c.findIdx? (fun x => decide (x.addr = a))

/-- What follows bundle `j` when the transfer of bundle `x` is pending: the next places of the path, and a callee; none where the path leaves the section or a target is no bundle start. -/
def codeNext (c : List CodeB) (j : Nat) (x : Option Nat) : Option (List (Nat × Option Nat) × Option Nat) :=
  match getElem? c j with
  | none => none
  | some b =>
    let own := b.ctl
    let pend := match x with
      | some k => some k
      | none => match own with
        | some _ => some j
        | none => none
    match pend with
    | none => some ([(j + 1, none)], none)
    | some k =>
      match getElem? c k with
      | none => none
      | some t =>
        match t.ctl with
        | none => none
        | some w =>
          let opc := sylOpc w
          if opc = 9 then some ([], none)
          else if j < k + 2 then some ([(j + 1, some k)], none)
          else if opc = 8 then some ([], none)
          else
            match (t.target w).bind (codeIndex c) with
            | none => none
            | some d =>
              if opc = 7 then some ([(j + 1, none)], some d)
              else if opc = 1 then some ([(d, none)], none)
              else some ([(d, none), (j + 1, none)], none)

/-- The places that a path from a bundle reaches within its routine, and the routines it calls. -/
def codeReach (c : List CodeB) : Nat → List (Nat × Option Nat) → List (Nat × Option Nat) → List Nat →
    Option (List (Nat × Option Nat) × List Nat)
  | 0, _, seen, calls => some (seen, calls)
  | _ + 1, [], seen, calls => some (seen, calls)
  | fuel + 1, p :: todo, seen, calls =>
    if seen.contains p then codeReach c fuel todo seen calls
    else
      match codeNext c p.1 p.2 with
      | none => none
      | some (next, call) =>
        codeReach c fuel (next ++ todo) (p :: seen)
          (match call with
           | some d => if calls.contains d then calls else d :: calls
           | none => calls)

/-- The bundles that a routine and its callees reach, at most `depth` routines deep (06 R182: at most 16 calls; a cycle exceeds any depth). -/
def codeClosure (c : List CodeB) : Nat → Nat → Option (List Nat)
  | 0, _ => none
  | depth + 1, start =>
    match codeReach c (8 * c.length + 8) [(start, none)] [] [] with
    | none => none
    | some (seen, calls) =>
      calls.foldl (fun acc d =>
        match acc, codeClosure c depth d with
        | some l, some m => some (m.foldl (fun a x => insertNat x a) l)
        | _, _ => none) (some (seen.foldl (fun a p => insertNat p.1 a) []))

/-- The bundles that a task reaches. -/
def Image.reach (i : Image) (r : TaskRow) : Option (List Nat) :=
  let c := i.codeList
  (codeIndex c r.entry).bind (codeClosure c 17)

/-- The reachable bundles themselves. -/
def Image.reached (i : Image) (r : TaskRow) : List CodeB :=
  ((i.reach r).getD []).filterMap (fun j => i.codeList[j]?)

/-- Does a bundle repeat a syllable or transfer backwards? -/
def CodeB.loops (x : CodeB) : Bool :=
  x.bundle.rep ||
    (match x.ctl with
     | some w => decide (sylOpc w ≤ 6) && (match x.target w with
       | some a => decide (a ≤ x.addr)
       | none => false)
     | none => false)

end Sys2Proof.Machine
end

