-- ==== Sys2Proof/Machine/Paths.lean ====
section
/-! DEFINITION. The loader's path analysis (03 R100, 06 R181, R188): what a path knows of registers and of scratch, the shared-store accesses of a bundle, and the worst-case length of a run. Log 9 says what of it the spec leaves to the loader, log 57 how W counts. -/

set_option Elab.async false

namespace Sys2Proof.Machine

open Sys2Proof

/-! ### What a path knows (06 R188) -/

/-- What is known wherever paths meet at a place: register values by number (g from 0, a from 32, RC 40), results still in flight with the cycles they may take, ip and the ip of each entry of the link stack, the scratch bytes stored on every path, and whether a store at an address that is not known may have stored others. -/
structure Known where
  vals : List (Nat × Word)
  late : List (Nat × Nat)
  ip : Option Word
  ips : List (Option Word)
  callIp : Option Word
  cover : List Nat
  fog : Bool
  deriving DecidableEq, Repr

/-- At the start of a run every register is zero and ip holds the instance base (03 R87). -/
def Known.start (ip : Nat) : Known :=
  { vals := (List.range 41).map (fun n => (n, 0)), late := [], ip := some (w32 ip), ips := [], callIp := none, cover := [], fog := false }

/-- The value of a register where it is known; g0 reads zero. -/
def Known.val (k : Known) (n : Nat) : Option Word := if n = 0 then some 0 else aget k.vals n

/-- What holds on both of two paths. -/
def Known.join (a b : Known) : Known :=
  let same (x y : Option Word) : Option Word := if x = y then x else none
  { vals := a.vals.filter (fun p => decide (aget b.vals p.1 = some p.2))
    late := b.late.foldl (fun l p => aput p.1 (max p.2 ((aget l p.1).getD 0)) l) a.late
    ip := same a.ip b.ip, ips := List.zipWith same a.ips b.ips, callIp := same a.callIp b.callIp
    cover := a.cover.filter (fun x => b.cover.contains x), fog := a.fog || b.fog }

/-- Source B of an R/S or R/Z operation, where it is known. -/
def Known.opB (k : Known) (zero : Bool) (ext : Option Nat) (w : Word) : Option Word :=
  if sylImm w then some (if zero then operandRZ ext w (fun _ => 0) else operandRS ext w (fun _ => 0)) else k.val (sylB w)

/-- The results that the analysis follows: moves, sums, differences, the plain logic and shifts. -/
def followed (opc : Nat) (a b : Word) : Option Word :=
  if opc = 0x01 then some (a + b) else if opc = 0x03 then some (a - b) else if opc = 0x06 then some b
  else if opc = 0x07 then some (a &&& b) else if opc = 0x08 then some (a ||| b) else if opc = 0x09 then some (a ^^^ b)
  else if opc = 0x0B then some (shl a b) else if opc = 0x0C then some (shr a b) else none

/-- The same of the short operations. -/
def followedShort (opc : Nat) (d s : Word) : Option Word :=
  if opc = 0x01 then some (d + s) else if opc = 0x03 then some (d - s) else if opc = 0x09 then some s
  else if opc = 0x17 then some (s + 1) else if opc = 0x18 then some (s - 1) else none

/-- A register that a syllable writes: its number, its value where it is followed, its latency at most. -/
abbrev KWrite := Nat × Option Word × Nat

/-- The registers that a long operation writes. -/
def Known.writesLong (k : Known) (ext : Option Nat) (w : Word) : List KWrite :=
  let u := sylU w
  let opc := sylOpc w
  let d := sylDst w
  let rs := k.opB false ext w
  let rz := k.opB true ext w
  if u = 0 then
    if opc = 0x06 then [(d, (k.val d).map (· - 1), 1)]
    else if opc = 0x0A then [(32 + d, k.ip.bind (fun i => rs.map (i + ·)), 1)]
    else if opc = 0x0C then [(d, none, 1)] else []
  else if u = 3 ∨ u = 4 then
    if opc = 0x2A then [(40, rz.map (fun v => (v.setWidth 16).setWidth 32), 1)]
    else if opc = 0x2C then [(32 + d, rz, 1)]
    else if opc = 0x2D then [(32 + d, (k.val (32 + sylA w)).bind (fun a => rs.map (a + ·)), 1)]
    else if opc = 0x2E then [(d, k.val (32 + sylA w), 1)]
    else
      match longSpec u opc with
      | some sp =>
        if sp.dst = .g then
          let b := if sp.form = .rs then rs else if sp.form = .rz then rz else none
          [(d, (k.val (sylA w)).bind (fun a => b.bind (followed opc a)), if 0x31 ≤ opc then 2 else 1)]
        else []
      | none => []
  else if u = 5 then
    match longSpec u opc with
    | some sp => if sp.dst = .g then [(d, none, 3)] else if sp.dst = .a then [(32 + d, none, 1)] else []
    | none => []
  else if u = 6 then
    (if (1 ≤ opc ∧ opc ≤ 5) ∨ (9 ≤ opc ∧ opc ≤ 0x0B) ∨ opc = 0x13 ∨ opc = 0x15 then [(d, none, 7)]
     else if opc = 0x17 then [(32 + d, none, 7)] else if opc = 0x18 then [(d, none, 3)] else []) ++
    (if opc = 0x13 ∨ opc = 0x14 then [(32 + sylA w, (k.val (32 + sylA w)).bind (fun a => rs.map (a + ·)), 1)]
     else if opc = 0x15 ∨ opc = 0x16 then [(32 + sylA w, none, 1)] else [])
  else []

/-- The registers that one short operation writes. -/
def Known.writesShort (k : Known) (u : Nat) (o : Nat × Nat × Nat) : List KWrite :=
  let opc := o.1
  let d := o.2.1
  let s := o.2.2
  if u = 0 then (if opc = 1 then [(d, none, 1)] else [])
  else if u = 3 ∨ u = 4 then
    [(d, (k.val d).bind (fun x => (k.val s).bind (followedShort opc x)), if 0x13 ≤ opc ∧ opc ≤ 0x16 then 2 else 1)]
  else if u = 5 then
    if opc ≤ 4 then [(d, none, 3)] else if opc = 9 ∨ opc = 0x0A then [(d, none, 1)] else if opc = 0x0B then [(32 + d, none, 1)] else []
  else if u = 6 then
    (if opc = 1 ∨ opc = 3 ∨ opc = 5 then [(d, none, 7)] else if opc = 9 then [(d, none, 3)] else []) ++
    (if opc = 3 ∨ opc = 4 then [(32 + s, (k.val (32 + s)).map (· + 4), 1)] else [])
  else []

/-- The registers that a syllable writes, in the order in which equal landings count (03 R94). -/
def Known.writes (k : Known) (ext : Option Nat) (w : Word) : List KWrite :=
  if sylP w then k.writesShort (sylU w) (sylShort w 0) ++ k.writesShort (sylU w) (sylShort w 1) else k.writesLong ext w

/-! ### The accesses of a bundle -/

/-- An access: whether it stores, its address where it is known, its size. -/
structure Acc where
  store : Bool
  addr : Option Nat
  size : Nat
  deriving DecidableEq, Repr

/-- The accesses of a long operation of the L unit (05 R153). -/
def Known.accLong (k : Known) (ext : Option Nat) (w : Word) : List Acc :=
  let opc := sylOpc w
  let b := k.opB false ext w
  let at' (x : Option Word) : Option Nat := x.bind (fun i => b.map (fun v => (i + v).toNat))
  if opc = 0x18 ∨ opc = 0x19 then []
  else
    [{ store := decide ((6 ≤ opc ∧ opc ≤ 8) ∨ (0x0C ≤ opc ∧ opc ≤ 0x0E) ∨ opc = 0x10 ∨ opc = 0x12 ∨ opc = 0x14 ∨ opc = 0x16)
       addr := if 0x13 ≤ opc ∧ opc ≤ 0x16 then (k.val (32 + sylA w)).map BitVec.toNat
         else if (9 ≤ opc ∧ opc ≤ 0x0E) ∨ opc = 0x11 ∨ opc = 0x12 then at' k.ip else at' (k.val (32 + sylA w))
       size := if [0x02, 0x03, 0x07, 0x0A, 0x0D].contains opc then 2
         else if [0x04, 0x05, 0x08, 0x0B, 0x0E, 0x0F, 0x10, 0x11, 0x12].contains opc then 1 else 4 }]

/-- The access of a short operation of the L unit (05 R154). -/
def Known.accShort (k : Known) (o : Nat × Nat × Nat) : List Acc :=
  let opc := o.1
  let s := o.2.2
  if 9 ≤ opc then []
  else
    [{ store := decide (opc % 2 = 0)
       addr := if opc ≤ 4 then (k.val (32 + s)).map BitVec.toNat
         else k.ip.map (fun i => (i + w32 (if opc ≤ 6 then 4 * s else s)).toNat)
       size := if opc ≤ 6 then 4 else 1 }]

/-- The accesses of a syllable of the L unit. -/
def Known.accs (k : Known) (ext : Option Nat) (w : Word) : List Acc :=
  if sylU w ≠ 6 then []
  else if sylP w then k.accShort (sylShort w 0) ++ k.accShort (sylShort w 1) else k.accLong ext w

/-- The accesses of a list of syllables, each with the EXT before it. -/
def Known.accsOf (k : Known) (l : List (Option Nat × Word)) : List Acc := l.flatMap (fun p => k.accs p.1 p.2)

/-- The step of a post-modify access between the iterations of a repetition, where it is known. -/
def Known.step (k : Known) (ext : Option Nat) (w : Word) : Option Nat :=
  if sylP w then some 4
  else if sylOpc w = 0x13 ∨ sylOpc w = 0x14 then (k.opB false ext w).map BitVec.toNat
  else if sylOpc w = 0x15 ∨ sylOpc w = 0x16 then none else some 0

/-- Does an access of a short pair move its address register? -/
def movesShort (w : Word) (op : Nat) : Bool := decide ((sylShort w op).1 = 3 ∨ (sylShort w op).1 = 4)

/-- How often the bundle's first syllable runs, where it is known: the repeat count under REP, else once (04 R142). -/
def Known.count (k : Known) (x : CodeB) : Option Nat :=
  if x.bundle.rep then (k.val 40).map BitVec.toNat else some 1

/-- The accesses of iteration `i` of the first syllable; from the second on they are known only where no other syllable or operation moves the address. -/
def Known.accsAt (k : Known) (x : CodeB) (w : Word) (i : Nat) : List Acc :=
  let l := k.accs x.bundle.ext w
  if i = 0 then l
  else
    let plain := decide (x.bundle.syls.length = 1) && !(sylP w && movesShort w 0 != movesShort w 1)
    let step := if plain then (if sylP w && !movesShort w 0 then some 0 else k.step x.bundle.ext w) else none
    l.map (fun a => { a with addr := a.addr.bind (fun n => step.map (fun d => (n + i * d) % 2 ^ 32)) })

/-- The accesses of iteration `i` of a string operation (04 R136). -/
def Known.stringAt (k : Known) (x : CodeB) (w : Word) (i : Nat) : List Acc :=
  let at' (r : Nat) : Option Nat :=
    if i = 0 ∨ x.bundle.syls.length = 1 then (k.val (32 + r)).map (fun v => (v.toNat + 4 * i) % 2 ^ 32) else none
  [{ store := false, addr := at' (sylDst w), size := 4 }, { store := false, addr := at' (sylA w), size := 4 }] ++
    (if sylOpc w = 0x3A then [] else [{ store := true, addr := at' (sylDst w), size := 4 }])

/-- Scratch reads and stores of a bundle, in the order of their cycles: the bytes stored so far, whether an unknown store may have stored others, whether a read is certainly uncovered, whether one is not proven. -/
structure Look where
  cover : List Nat
  fog : Bool
  bare : Bool
  doubt : Bool
  deriving DecidableEq, Repr

/-- The bytes of an access. -/
def Acc.bytes (a : Acc) : Option (List Nat) := a.addr.map (fun n => (List.range a.size).map (n + ·))

/-- One read against the bytes stored before; `string` marks a read that lies in scratch whatever its address (04 R137). -/
def Look.read (l : Look) (string : Bool) (a : Acc) : Look :=
  if a.store then l
  else
    match a.bytes with
    | none => if string && !l.fog && l.cover.isEmpty then { l with bare := true } else { l with doubt := true }
    | some b =>
      if (a.addr.bind spaceOf) ≠ some .scratch ∨ a.addr.any (fun n => decide (n % a.size ≠ 0)) ∨ b.all (fun n => l.cover.contains n) then l
      else if l.fog then { l with doubt := true } else { l with bare := true }

/-- One store; under `sure` it takes place on every path. -/
def Look.store (sure : Bool) (l : Look) (a : Acc) : Look :=
  if !a.store then l
  else
    match a.bytes with
    | some b =>
      if (a.addr.bind spaceOf) ≠ some .scratch ∨ a.addr.any (fun n => decide (n % a.size ≠ 0)) then l
      else if sure then { l with cover := b.foldl (fun c n => insertNat n c) l.cover } else { l with fog := true }
    | none => { l with fog := true }

/-- The accesses of one iteration: all reads, then all stores. -/
def Look.pass (l : Look) (string : Bool) (as : List Acc) : Look :=
  as.foldl (Look.store true) (as.foldl (fun m a => m.read string a) l)

/-- An access at an address that is not known. -/
def Acc.unknown (a : Acc) : Acc := { a with addr := none }

/-- What a bundle reads and stores in scratch from where a path stands: its other syllables once, its repeated one as often as is known. -/
def Known.look (k : Known) (x : CodeB) : Look :=
  let start : Look := { cover := k.cover, fog := k.fog, bare := false, doubt := false }
  let rest := k.accsOf (if x.bundle.rep then x.bundle.extSyls.drop 1 else x.bundle.extSyls)
  let reads := rest.foldl (fun m a => m.read false a) start
  let l :=
    match x.bundle.syls.head?, k.count x with
    | some w, some n =>
      if x.bundle.rep && !isString w then (List.range n).foldl (fun m i => m.pass false (k.accsAt x w i)) reads
      else reads
    | some w, none => if isString w then reads else reads.pass false ((k.accs x.bundle.ext w).map Acc.unknown)
    | none, _ => reads
  let l :=
    match x.bundle.syls.find? isString with
    | some w =>
      match (if x.bundle.syls.head? = some w then k.count x else some 1) with
      | some n => (List.range n).foldl (fun m i => m.pass true (k.stringAt x w i)) l
      | none => l.pass true ((k.stringAt x w 0).map Acc.unknown)
    | none => l
  rest.foldl (Look.store true) l

/-- Shared-store accesses of a bundle that are certain, and the operations of its L syllable at addresses that are not known (03 R100). -/
def Known.shares (k : Known) (x : CodeB) : Nat × List Nat :=
  let as := if k.count x = some 0 ∧ x.bundle.syls.head?.any (fun w => decide (sylU w = 6)) then []
    else k.accsOf x.bundle.extSyls
  ((x.bundle.syls.filter (fun w => isImageOp w || isRecord w)).length +
      (as.filter (fun a => a.addr.any isShared)).length,
   (List.range as.length).filter (fun j => (as[j]?.bind Acc.addr).isNone))

/-! ### Following the paths -/

/-- One write as it stands before the next bundle; while an earlier result may land after it, the value is not known. -/
def Known.put (k : Known) (w : KWrite) : Known :=
  if w.1 = 0 then k
  else if w.2.2 = 1 then
    match w.2.1 with
    | some v => if (aget k.late w.1).isSome then { k with vals := adel k.vals w.1 } else { k with vals := aput w.1 v k.vals }
    | none => { k with vals := adel k.vals w.1 }
  else { k with vals := adel k.vals w.1, late := aput w.1 (max (w.2.2 - 1) ((aget k.late w.1).getD 0)) k.late }

/-- The address registers of a string operation after it. -/
def Known.stringWrites (k : Known) (w : Word) (n : Option Nat) : List KWrite :=
  [sylDst w, sylA w].map (fun r => (32 + r, (k.val (32 + r)).bind (fun v => n.map (fun m => v + w32 (4 * m))), 1))

/-- The writes of a bundle's first syllable where REP repeats it: followed only for an address that moves by a known step. -/
def Known.repWrites (k : Known) (ext : Option Nat) (w : Word) (n : Option Nat) : List KWrite :=
  if n = some 0 then []
  else
    (k.writes ext w).map (fun x =>
      if sylU w = 6 ∧ 32 ≤ x.1 ∧ x.2.2 = 1 then
        (x.1, (k.val x.1).bind (fun v => x.2.1.bind (fun v1 => n.map (fun m => v + w32 m * (v1 - v)))), 1)
      else (x.1, none, x.2.2))

/-- What a path knows after a bundle. -/
def Known.after (k : Known) (x : CodeB) : Known :=
  let l := k.look x
  let late := (k.late.map (fun p => (p.1, p.2 - 1))).filter (fun p => decide (p.2 ≠ 0))
  let n := k.count x
  let one (first : Bool) (w : Word) : List KWrite :=
    if isString w then k.stringWrites w (if first then n else some 1)
    else if first && x.bundle.rep then k.repWrites x.bundle.ext w n
    else k.writes (if first then x.bundle.ext else none) w
  let ws := match x.bundle.syls with
    | [] => []
    | w :: t => one true w ++ t.flatMap (one false)
  let call := match x.ctl with
    | some w => if sylOpc w = 7 then k.val (32 + sylA w) else k.callIp
    | none => k.callIp
  { ws.foldl Known.put { k with late := late } with callIp := call, cover := l.cover, fog := l.fog }

/-- A place on a path: the return places on the link stack, the bundle, and the bundle whose transfer is pending. -/
abbrev Place := List Nat × Nat × Option Nat

/-- Is the transfer that bundle `j` completes a return? -/
def returnsAt (c : List CodeB) (j : Nat) (pend : Option Nat) : Bool :=
  match pend with
  | some k => decide (k + 2 ≤ j) && ((getElem? c k).bind CodeB.ctl).any (fun w => decide (sylOpc w = 8))
  | none => false

/-- Where a path goes from a place, with what it then knows. -/
def pathNext (c : List CodeB) (p : Place) (k : Known) : List (Place × Known) :=
  match getElem? c p.2.1, codeNext c p.2.1 p.2.2 with
  | some x, some (next, callee) =>
    let k := k.after x
    match callee with
    | some d =>
      if p.1.length < 16 then [(((p.2.1 + 1) :: p.1, d, none), { k with ip := k.callIp, ips := k.ip :: k.ips })] else []
    | none =>
      if returnsAt c p.2.1 p.2.2 then
        match p.1 with
        | r :: t => [((t, r, none), { k with ip := k.ips.head?.join, ips := k.ips.tail })]
        | [] => []
      else next.map (fun q => ((p.1, q), k))
  | _, _ => []

/-- What is known at every place that the paths reach. -/
def follow (c : List CodeB) : Nat → List (Place × Known) → List (Place × Known) → List (Place × Known)
  | 0, _, seen => seen
  | _ + 1, [], seen => seen
  | fuel + 1, (p, k) :: todo, seen =>
    match seen.find? (fun x => decide (x.1 = p)) with
    | none => follow c fuel (pathNext c p k ++ todo) ((p, k) :: seen)
    | some (_, old) =>
      let m := old.join k
      if m = old then follow c fuel todo seen
      else follow c fuel (pathNext c p m ++ todo) (seen.map (fun x => if x.1 = p then (p, m) else x))

/-- What is known at the places that a task's run reaches, by bundle. -/
def Image.known (i : Image) (r : TaskRow) : List (Nat × Known) :=
  match codeIndex i.codeList r.entry with
  | some d => (follow i.codeList (2 ^ 32) [(([], d, none), Known.start r.ip)] []).map (fun x => (x.1.2.1, x.2))
  | none => []

/-- Shared-store accesses that a bundle may make from where a path stands: those that are certain, and those that the loader's own analysis leaves open (log 9). -/
def Image.shares (i : Image) (k : Known) (x : CodeB) : Nat :=
  let s := k.shares x
  s.1 + (s.2.filter (fun j => Config.mayShare i.bytes x.addr j)).length

/-! ### The worst-case length of a run (06 R181) -/

/-- What a bundle costs at most: cycles from its ready cycle to that of the next bundle, and to the landing of its last result. -/
structure Cost where
  dist : Nat
  land : Nat
  deriving DecidableEq, Repr

/-- The latency of a load at an address, the largest where it is not known (05 R145). -/
def accLatency (i : Image) (x : CodeB) (j : Nat) (a : Acc) : Nat :=
  if a.store then 0
  else
    match a.addr with
    | some n => ((spaceOf n).map loadLatency).getD 0
    | none => if Config.mayShare i.bytes x.addr j then 6 else 2

/-- The largest latency of a syllable's results that no address decides (03 R92). -/
def sylLatency (w : Word) : Nat :=
  let u := sylU w
  let opc := sylOpc w
  if sylP w then
    let o := max (sylShort w 0).1 (sylShort w 1).1
    let lo := min (sylShort w 0).1 (sylShort w 1).1
    if u = 6 then
      (if (sylShort w 0).1 = 9 ∨ (sylShort w 1).1 = 9 then 3 else if movesShort w 0 || movesShort w 1 then 1 else 0)
    else if u = 3 ∨ u = 4 then
      (if (0x13 ≤ o ∧ o ≤ 0x16) ∨ (0x13 ≤ lo ∧ lo ≤ 0x16) then 2 else 1)
    else if u = 5 then (if lo ≤ 8 then 3 else 1)
    else 1
  else if u = 0 then (if 0x20 ≤ opc then 7 else if opc = 0x06 ∨ (0x0A ≤ opc ∧ opc ≤ 0x0C) then 1 else 0)
  else if u = 1 ∨ u = 2 then (if opc ≤ 0x11 then 1 else if opc ≤ 0x25 then 4 else 0)
  else if u = 3 ∨ u = 4 then (if 0x31 ≤ opc ∧ opc ≤ 0x35 then 2 else 1)
  else if u = 5 then (if opc ≤ 0x0A then 3 else 1)
  else if opc = 0x18 then 3
  else if 0x13 ≤ opc ∧ opc ≤ 0x16 then 1 else 0

/-- The bound of a loop or repetition at a bundle, from the task's section 5 entries. -/
def Image.boundAt (i : Image) (r : TaskRow) (addr : Nat) : Nat :=
  (((i.loops.drop r.loopFirst).take r.loopCount).find? (fun e => decide (e.1 = addr))).elim 0 (·.2)

/-- The cost of a bundle where a path stands: 14 cycles for a shared-store access, the largest wait of R97 over the 16 bank phases; a repetition runs its BOUND. -/
def Image.costAt (i : Image) (r : TaskRow) (x : CodeB) (k : Known) : Cost :=
  let wait := if i.shares k x = 0 then 0 else 14
  let as (p : Option Nat × Word) : Nat :=
    let l := k.accs p.1 p.2
    let d := if x.bundle.syls.any isString && l.any (fun a => a.addr.all (fun n => decide (n < 0x40000))) then 1 else 0
    (List.range l.length).foldl (fun m j => match l[j]? with
      | some a => max m (accLatency i x j a + d)
      | none => m) 0
  let lat (p : Option Nat × Word) : Nat := max (sylLatency p.2) (as p)
  let n := i.boundAt r x.addr
  let once := x.bundle.extSyls.foldl (fun m p => max m (wait + lat p)) wait
  match x.bundle.syls.head? with
  | some w =>
    if !x.bundle.rep then
      if x.bundle.syls.any isString then { dist := wait + 2, land := max once (wait + 2) } else { dist := wait + 1, land := once }
    else
      let dist := max (wait + 1) (if isString w then wait + 2 * n else if sylU w = 6 then n * (wait + 1) else wait + n)
      { dist := dist, land := max once (if isString w then dist else dist - 1 + lat (x.bundle.ext, w)) }
  | none => { dist := 1, land := 0 }

/-- The costs of the bundles that a task reaches. -/
def Image.costs (i : Image) (r : TaskRow) : List (Nat × Cost) :=
  (i.known r).foldl (fun l p =>
    match i.codeList[p.1]? with
    | some x =>
      let c := i.costAt r x p.2
      let o := (aget l p.1).getD { dist := 0, land := 0 }
      aput p.1 { dist := max o.dist c.dist, land := max o.land c.land } l
    | none => l) []

/-- A place within a routine with the backward transfers already taken on the way to it. -/
abbrev LoopPlace := (Nat × Option Nat) × List Nat

/-- A backward transfer: its bundle, its target, its BOUND. -/
structure Back where
  src : Nat
  head : Nat
  bound : Nat
  deriving DecidableEq, Repr

/-- The backward transfers of the code, each a branch whose target is not above its own address. -/
def Image.backs (i : Image) (r : TaskRow) : List Back :=
  let c := i.codeList
  (List.range c.length).filterMap (fun k =>
    match (getElem? c k), (getElem? c k).bind CodeB.ctl with
    | some x, some w =>
      if sylOpc w ≤ 6 then
        match (x.target w).bind (codeIndex c) with
        | some d => if d ≤ k then some { src := k, head := d, bound := i.boundAt r x.addr } else none
        | none => none
      else none
    | _, _ => none)

/-- Does one loop lie within another? -/
def Back.inside (a b : Back) : Bool := decide (b.head ≤ a.head ∧ a.src ≤ b.src ∧ a ≠ b)

/-- What the walk of a routine needs: the code, the costs, the backward transfers, the length of one pass through each loop already measured, and the exit and landing distances of a callee. -/
structure Walk where
  code : List CodeB
  costs : List (Nat × Cost)
  backs : List Back
  passes : List (Nat × Nat)
  callee : Nat → Nat × Nat

/-- The cost of bundle `j`. -/
def Walk.cost (w : Walk) (j : Nat) : Cost := (aget w.costs j).getD { dist := 1, land := 0 }

/-- Where the walk goes from a place at a distance. A backward transfer is taken at most BOUND times per entry into its loop: the walk takes it once, the other passes counted at their full length; the loops inside it are entered anew. -/
def Walk.next (w : Walk) (p : LoopPlace) (d : Nat) : List (LoopPlace × Nat) :=
  match codeNext w.code p.1.1 p.1.2 with
  | none => []
  | some (next, call) =>
    let out := d + (w.cost p.1.1).dist + (call.elim 0 (fun x => (w.callee x).1))
    next.filterMap (fun q =>
      match p.1.2.bind (fun k => w.backs.find? (fun b => decide (b.src = k ∧ q = (b.head, none)))) with
      | some b =>
        if p.2.contains b.src ∨ b.bound = 0 then none
        else
          let inner := (w.backs.filter (fun x => x.inside b)).map Back.src
          some ((q, b.src :: p.2.filter (fun x => !inner.contains x)), out + (b.bound - 1) * (aget w.passes b.src).getD 0)
      | none => some ((q, p.2), out))

/-- The longest distance to every place that the walk reaches. -/
def Walk.longest (w : Walk) : Nat → List (LoopPlace × Nat) → List (LoopPlace × Nat) → List (LoopPlace × Nat)
  | 0, _, best => best
  | _ + 1, [], best => best
  | fuel + 1, (p, d) :: todo, best =>
    match best.find? (fun x => decide (x.1 = p)) with
    | some (_, o) =>
      if d ≤ o then w.longest fuel todo best
      else w.longest fuel (w.next p d ++ todo) (best.map (fun x => if x.1 = p then (p, d) else x))
    | none => w.longest fuel (w.next p d ++ todo) ((p, d) :: best)

/-- The length of one pass through a loop: from its head along the longest path to its backward transfer, the loops inside it counted with their own bounds. -/
def Walk.pass (w : Walk) (b : Back) : Nat :=
  let outer := (w.backs.filter (fun x => !x.inside b)).map Back.src
  (w.longest (2 ^ 32) [(((b.head, none), outer), 0)] []).foldl (fun m x =>
    if x.1.1 = (b.src + 2, some b.src) then max m (x.2 + (w.cost (b.src + 2)).dist) else m) 0

/-- The passes of all loops, inner loops first. -/
def Walk.measured (w : Walk) : Walk :=
  (sortBy (fun b => b.src - b.head) w.backs).foldl (fun w b => { w with passes := aput b.src (w.pass b) w.passes }) w

/-- The longest distance from a routine's first ready cycle to the ready cycle after its return, and to the last landing on any of its paths. -/
def Walk.routine (w : Walk) (start : Nat) : Nat × Nat :=
  let w := w.measured
  (w.longest (2 ^ 32) [(((start, none), []), 0)] []).foldl (fun acc x =>
    let j := x.1.1.1
    let out := x.2 + (w.cost j).dist
    let call := match codeNext w.code j x.1.1.2 with
      | some (_, some d) => out + (w.callee d).2
      | _ => 0
    (if returnsAt w.code j x.1.1.2 then max acc.1 out else acc.1, max acc.2 (max (x.2 + (w.cost j).land) call))) (0, 0)

/-- The same for a routine that calls others, at most `depth` deep (06 R182). -/
def routineLen (c : List CodeB) (costs : List (Nat × Cost)) (backs : List Back) : Nat → Nat → Nat × Nat
  | 0, _ => (0, 0)
  | depth + 1, start =>
    Walk.routine { code := c, costs := costs, backs := backs, passes := [], callee := routineLen c costs backs depth } start

/-- W with the 14 cycles of each beat boundary that a run of that length can cross, wherever in a beat it starts; `base` is its length without them. -/
def withCrossings (n base : Nat) : Nat → Nat → Nat
  | 0, m => base + 14 * m
  | k + 1, m => withCrossings n base k ((n + base + 14 * m - 2) / n)

/-- W of a task's run, recomputed (06 R181). -/
def Image.worstRun (i : Image) (r : TaskRow) : Nat :=
  match codeIndex i.codeList r.entry with
  | some d =>
    let base := (routineLen i.codeList (i.costs r) (i.backs r) 17 d).2 + 1 + (if i.single then 0 else 1)
    withCrossings (500 * i.beatP) base 64 0
  | none => 0

end Sys2Proof.Machine
end

