-- ==== Sys2Proof/Machine/LoadCheck.lean ====
section
/-! DEFINITION. The loader's checks in the order of their codes (06 R174 to R195). What the spec leaves to the loader's own path analysis is opaque (log 9). -/

set_option Elab.async false

namespace Sys2Proof.Machine

open Sys2Proof

/-! ### The answer (06 R191, R192) -/

/-- LOAD_RESULT, field by field. -/
structure LoadRes where
  code : Nat
  cause : Nat
  task : Nat
  lset : Nat
  addr : Nat
  beat : Nat
  excess : Nat
  deriving DecidableEq, Repr

/-- An accepted image. -/
def LoadRes.ok : LoadRes := ⟨0, 0, 0, 0, 0, 0, 0⟩

/-- A refusal without further fields. -/
def LoadRes.fail (c : Nat) : LoadRes := { LoadRes.ok with code := c }

/-- A refusal at an address. -/
def LoadRes.at' (c a : Nat) : LoadRes := { LoadRes.ok with code := c, addr := a }

/-- A refusal that concerns a row of a table. -/
def LoadRes.row (c : Nat) (red : Bool) (r : TaskRow) : LoadRes :=
  { LoadRes.ok with code := c, task := r.task % 256, lset := r.lset % 128 + 128 * bit red }

/-- The 16 bytes of LOAD_RESULT (06 R192). -/
def LoadRes.encode (r : LoadRes) : List Byte :=
  leBytes 1 r.code ++ leBytes 1 r.cause ++ leBytes 1 r.task ++ leBytes 1 r.lset ++ leBytes 4 r.addr ++
    leBytes 4 r.beat ++ leBytes 4 (min 0xFFFFFFFF r.excess)

/-- The first refusal of a list of checks. -/
def firstFail (l : List (Option LoadRes)) : Option LoadRes := l.findSome? id

/-- A refusal under a condition. -/
def failIf (c : Bool) (r : LoadRes) : Option LoadRes := if c then some r else none

/-! ### Codes 1 to 3 -/

/-- Do two byte ranges overlap? An empty range overlaps nothing. -/
def overlaps (a b : Nat × Nat) : Bool := decide (0 < a.2 ∧ 0 < b.2 ∧ a.1 < b.1 + b.2 ∧ b.1 < a.1 + a.2)

/-- The first element of a list in a relation with one before it. -/
def firstPair {α : Type} (f : α → α → Bool) : List α → Option α
  | [] => none
  | x :: t =>
    match t.find? (f x) with
    | some y => some y
    | none => firstPair f t

/-- The entry size of a section; 1 where entries vary. -/
def sectionUnit (i : Nat) : Nat := [1, 64, 64, 12, 8, 8, 16, 1, 24, 1, 1, 1][i]?.getD 1

/-- The byte offset in the image of entry `n` of a section (06 R192 ADDRESS). -/
def Image.entryAt (i : Image) (sec n : Nat) : Nat := (i.sections[sec]?.getD (0, 0)).1 + sectionUnit sec * n

/-- A refusal for the first entry of a section that a condition picks. -/
def Image.failEntry {α : Type} (i : Image) (c sec : Nat) (l : List α) (f : α → Bool) : Option LoadRes :=
  l.zipIdx.findSome? (fun x => failIf (f x.1) (.at' c (i.entryAt sec x.2)))

/-- Header and section table (code 1). -/
def Image.check1 (i : Image) : Option LoadRes :=
  let b := i.bytes
  let secs := i.sections
  firstFail [
    failIf (decide (b.length < 256) || decide (b.take 4 ≠ [0x57, 0x4B, 0x53, 0x49]) || decide (getLE b 4 2 ≠ 1) ||
      decide (getLE b 6 2 ≠ 256) || decide (i.imgLen ≠ b.length) || decide (i.imgLen % 4 ≠ 0) ||
      decide (16777216 < i.imgLen) || decide (1 < byteAt b 12)) (.fail 1),
    (List.range 12).findSome? (fun k =>
      let s := secs[k]?.getD (0, 0)
      failIf ((decide (10 ≤ k) && decide (s ≠ (0, 0))) || decide (s.1 % 4 ≠ 0) || decide (i.imgLen < s.1 + s.2) ||
        decide (s.2 % sectionUnit k ≠ 0)) (.at' 1 s.1)),
    (firstPair overlaps secs).map (fun s => .at' 1 s.1)]

/-- DIGEST (code 2). -/
def Image.check2 (i : Image) : Option LoadRes :=
  failIf (decide (sha256 (patch i.bytes 160 (zeros 32)) ≠ i.digest)) (.fail 2)

/-- Does a row's reference lie within a list? -/
def refOk (first count len : Nat) : Bool := decide (first + count ≤ len)

/-- The fields of a row in their ranges (06 R176). -/
def Image.rowOk (i : Image) (r : TaskRow) : Bool :=
  r.zeros && decide (r.task ≤ 31) && decide (r.policy ≤ 1) && decide (1 ≤ r.start ∧ r.start + 1 ≤ 500 * i.beatP) &&
    refOk r.outFirst r.outCount i.outs.length && refOk r.winFirst r.winCount i.wins.length &&
    refOk r.loopFirst r.loopCount i.loops.length

/-- Does the bundle at an address hold a REP prefix or a backward transfer, as a section 5 entry says (06 R175)? -/
def Image.loopEntryOk (i : Image) (a : Nat) : Bool :=
  let s := i.sections[0]?.getD (0, 0)
  decide (s.1 ≤ a ∧ a < s.1 + s.2 ∧ a % 4 = 0) &&
    (match decodeBundle (imageWords i.bytes (s.1 + s.2) 8 a) false with
     | .ok b => CodeB.loops { addr := a, bundle := b }
     | .error _ => true) &&
    (match i.code with
     | .ok l => l.any (fun x => decide (x.addr = a))
     | .error _ => true)

/-- Fields marked zero and entry values (code 3). A table whose length is not TASKS entries takes this code too (log 58). -/
def Image.check3 (i : Image) : Option LoadRes :=
  firstFail [
    failIf (decide (15 < i.mainSet)) (.at' 3 13),
    failIf (decide (15 < i.minSet)) (.at' 3 14),
    failIf (decide (i.main.length ≠ i.tasks)) (.at' 3 (i.entryAt 1 0)),
    failIf (!i.reduced.isEmpty && decide (i.reduced.length ≠ i.tasks)) (.at' 3 (i.entryAt 2 0)),
    i.tables.findSome? (fun t => t.2.zipIdx.findSome? (fun r =>
      failIf (!i.rowOk r.1) { LoadRes.row 3 t.1 r.1 with addr := i.entryAt (1 + bit t.1) r.2 })),
    i.failEntry 3 3 i.outs (fun o => decide (1 < o.1 ∨ o.2.2 = 0)),
    i.failEntry 3 4 i.wins (fun w => decide (w.2 < 16)),
    i.failEntry 3 5 i.loops (fun e => !i.loopEntryOk e.1),
    i.failEntry 3 6 i.xtab (fun x => decide (x.zero ≠ 0 ∨ 63 < x.reg ∨ 31 < x.writer)),
    i.failEntry 3 8 i.instances (fun x => decide (x.zero ≠ 0))]

/-! ### Codes 4 and 5: bundles, transfers and calls (03 R105 to R108, 06 R182) -/

/-- Is bundle `j` not proven free of cause 7? Its encoding alone may make two accesses (04 R144); else every path to it counts (03 R100). -/
def Image.unproven7 (i : Image) (j : Nat) (x : CodeB) : Bool :=
  decide (2 ≤ encodedAccess x.bundle) ||
    i.main.any (fun r => (i.known r).any (fun p => decide (p.1 = j) && decide (2 ≤ i.shares p.2 x)))

/-- Encodings (code 4). -/
def Image.check4 (i : Image) : Option LoadRes :=
  match i.code with
  | .error e => some { LoadRes.ok with code := 4, cause := e.1, addr := e.2 }
  | .ok l => (List.range l.length).findSome? (fun j =>
    l[j]?.bind (fun x => failIf (i.unproven7 j x) { LoadRes.ok with code := 4, cause := 7, addr := x.addr }))

/-- Transfers and call graph (code 5). -/
def Image.check5 (i : Image) : Option LoadRes :=
  firstFail [
    i.codeList.findSome? (fun x =>
      match x.ctl with
      | none => none
      | some w =>
        failIf (decide (sylOpc w ≤ 7) && ((x.target w).bind (codeIndex i.codeList)).isNone) (.at' 5 x.addr)),
    i.main.findSome? (fun r => failIf (i.reach r).isNone { LoadRes.row 5 false r with addr := r.entry })]

/-! ### Codes 6 to 9 -/

/-- Task limits (code 6, 02 R37). -/
def Image.check6 (i : Image) : Option LoadRes :=
  firstFail [
    failIf (decide (i.tasks = 0 ∨ 32 < i.tasks)) (.fail 6),
    i.tables.findSome? (fun t => firstFail [
      (firstPair (fun a b : TaskRow => decide (a.task = b.task)) t.2).map (.row 6 t.1),
      t.2.findSome? (fun r =>
        failIf (decide (r.period = 0 ∨ 10000000 < r.period * i.beatP ∨ r.period ≤ r.phase)) (.row 6 t.1 r))])]

/-- BEAT_P against the period in force and the pending one (code 7). -/
def Image.check7 (i : Image) (p pending : Nat) : Option LoadRes :=
  failIf (decide (i.beatP ≠ p ∨ i.beatP ≠ pending)) (.fail 7)

/-- The carriageway of a lane set. -/
def Image.carriageway (i : Image) (r : TaskRow) : Nat := if i.single then r.lset / 2 else r.lset

/-- The mask of the carriageways that a table uses. -/
def Image.mask (i : Image) (t : List TaskRow) : Nat := t.foldl (fun m r => m ||| 2 ^ i.carriageway r) 0

/-- Does a reduced row keep what R178 keeps? -/
def keepsRow (m r : TaskRow) : Bool :=
  decide ({ r with lset := m.lset, order := m.order, start := m.start, wcet := m.wcet } = m)

/-- Lane sets (code 8). -/
def Image.check8 (i : Image) : Option LoadRes :=
  let lim (red : Bool) : Nat := (if red then 2 else 4) * (if i.single then 2 else 1)
  firstFail [
    i.tables.findSome? (fun t => firstFail [
      t.2.findSome? (fun r => failIf (decide (lim t.1 ≤ r.lset)) (.row 8 t.1 r)),
      (firstPair (fun a b : TaskRow => decide (a.lset = b.lset ∧ a.order = b.order)) t.2).map (.row 8 t.1)]),
    failIf (decide (i.mainSet ≠ i.mask i.main ∨
      i.minSet ≠ (if i.reduced.isEmpty then i.mainSet else i.mask i.reduced))) (.fail 8),
    i.reduced.findSome? (fun r => failIf (!i.main.any (fun m => decide (m.task = r.task) && keepsRow m r)) (.row 8 true r))]

/-- HYPER (code 9). -/
def Image.check9 (i : Image) : Option LoadRes :=
  let h := i.main.foldl (fun n r => Nat.lcm n r.period) 1
  failIf (decide (i.hyper ≠ h ∨ 65536 < h)) (.fail 9)

/-! ### Code 10: worst-case run length and loop bounds (06 R181, R182) -/

/-- Code 10. -/
def Image.check10 (i : Image) : Option LoadRes :=
  firstFail [
    i.main.findSome? (fun r =>
      let bounds := ((i.loops.drop r.loopFirst).take r.loopCount).map (·.1)
      (i.reached r).findSome? (fun x => failIf (x.loops && !bounds.contains x.addr) { LoadRes.row 10 false r with addr := x.addr })),
    i.tables.findSome? (fun t => t.2.findSome? (fun r =>
      let w := i.worstRun r
      failIf (decide (r.wcet < w)) { LoadRes.row 10 t.1 r with excess := w - r.wcet }))]

/-! ### Codes 11 to 13: the walk (06 R183 to R185) -/

/-- One run of the walk: its row, its release beat, its first ready cycle and its completion cycle from T(0). -/
structure WalkRun where
  row : TaskRow
  beat : Nat
  ready : Nat
  done : Nat
  deriving DecidableEq, Repr

/-- The runs of one lane set at one beat, `free` being the first free cycle. -/
def walkSet (n beat : Nat) : List TaskRow → Nat → List WalkRun × Nat
  | [], free => ([], free)
  | r :: t, free =>
    let ready := max (beat * n + r.start) free
    let done := ready + r.wcet - 1
    let rest := walkSet n beat t (done + 1)
    ({ row := r, beat := beat, ready := ready, done := done } :: rest.1, rest.2)

/-- The runs of all lane sets at one beat. -/
def walkBeat (n beat : Nat) (rows : List TaskRow) (free : List (Nat × Nat)) : List WalkRun × List (Nat × Nat) :=
  (List.range 8).foldl (fun acc k =>
    let due := sortBy (·.order) (rows.filter (fun r => decide (r.lset = k) && r.due beat))
    let w := walkSet n beat due ((aget acc.2 k).getD 0)
    (acc.1 ++ w.1, if due.isEmpty then acc.2 else aput k w.2 acc.2)) ([], free)

/-- The walk from a beat on for `k` beats. -/
def walkFrom (n : Nat) (rows : List TaskRow) : Nat → Nat → List (Nat × Nat) → List WalkRun
  | 0, _, _ => []
  | k + 1, beat, free =>
    let w := walkBeat n beat rows free
    w.1 ++ walkFrom n rows k (beat + 1) w.2

/-- The walk of a table through beats 0 to 2H − 1. -/
def Image.walk (i : Image) (rows : List TaskRow) : List WalkRun := walkFrom (500 * i.beatP) rows (2 * i.hyper) 0 []

/-- The latest cycle in which a run of the walk may complete. -/
def WalkRun.limit (w : WalkRun) (n lead : Nat) : Int := (w.row.nextDue w.beat * n : Nat) - (500 * lead : Nat)

/-- A completion after the lead (code 11). -/
def Image.check11 (i : Image) (lead : Nat) : Option LoadRes :=
  i.tables.findSome? (fun t => (i.walk t.2).findSome? (fun w =>
    failIf (decide (w.limit (500 * i.beatP) lead < w.done))
      { LoadRes.row 11 t.1 w.row with beat := w.beat, excess := ((w.done : Int) - w.limit (500 * i.beatP) lead).toNat }))

/-- The sum over the runs whose window contains a beat. -/
def windowSum (n beat : Nat) (f : TaskRow → Nat) (ws : List WalkRun) : Nat :=
  ws.foldl (fun acc w => if w.beat ≤ beat ∧ beat ≤ w.done / n then acc + f w.row else acc) 0

/-- A sum of the walk against a limit and the declared largest value. -/
def Image.checkSum (i : Image) (code limit declared : Nat) (f : TaskRow → Nat) : Option LoadRes :=
  let n := 500 * i.beatP
  let sums := i.tables.map (fun t => (t.1, (List.range (2 * i.hyper)).map (fun b => windowSum n b f (i.walk t.2))))
  firstFail [
    sums.findSome? (fun t => (List.range (2 * i.hyper)).findSome? (fun b =>
      let v := t.2[b]?.getD 0
      failIf (decide (limit < v)) { LoadRes.ok with code := code, lset := 128 * bit t.1, beat := b, excess := v - limit })),
    failIf (decide (declared ≠ (sums.flatMap (·.2)).foldl max 0)) (.fail code)]

/-- Beat footprint and shadow occupancy (codes 12 and 13). -/
def Image.check12 (i : Image) : Option LoadRes := i.checkSum 12 (budget i.beatP) i.footMax TaskRow.foot
@[inherit_doc Image.check12] def Image.check13 (i : Image) : Option LoadRes :=
  i.checkSum 13 3145728 i.occMax (fun r => r.foot + r.keep)

/-! ### Codes 14 to 18 -/

/-- The first row whose entries, `n` from `first` on in a section, meet a condition: with the entry concerned. -/
def Image.failRow {α : Type} (i : Image) (c sec : Nat) (l : List α) (ref : TaskRow → Nat × Nat) (rows : List TaskRow)
    (f : TaskRow → α → Bool) : Option LoadRes :=
  rows.findSome? (fun r => ((l.zipIdx.drop (ref r).1).take (ref r).2).findSome? (fun x =>
    failIf (f r x.1) { LoadRes.row c false r with addr := i.entryAt sec x.2 }))

/-- Is another task's row before this one in a table? -/
def Image.others (i : Image) (r : TaskRow) : List TaskRow := i.main.takeWhile (fun x => decide (x ≠ r))

/-- Output ranges (code 14, 06 R187): every range of the image, and those of different tasks against each other. -/
def Image.check14 (i : Image) : Option LoadRes :=
  let size (k : Nat) : Nat := if k = 0 then 262144 else 65536
  let bad (o : Nat × Nat × Nat) : Bool := decide (size o.1 < o.2.1 + o.2.2)
  let ref (r : TaskRow) : Nat × Nat := (r.outFirst, r.outCount)
  firstFail [
    i.failRow 14 3 i.outs ref i.main (fun _ o => bad o),
    i.failEntry 14 3 i.outs bad,
    i.failRow 14 3 i.outs ref i.main (fun r x => (i.others r).any (fun a => (i.rowOuts a).any (fun y =>
      decide (x.1 = y.1) && overlaps x.2 y.2)))]

/-- The size of the instance store. -/
def instSize : Nat := 33554432

/-- Write windows and instance bases (code 15). -/
def Image.check15 (i : Image) : Option LoadRes :=
  let bad (w : Nat × Nat) : Bool := decide (w.1 % 16 ≠ 0 ∨ w.2 % 16 ≠ 0 ∨ instSize < w.1 + w.2)
  let ref (r : TaskRow) : Nat × Nat := (r.winFirst, r.winCount)
  firstFail [
    i.failRow 15 4 i.wins ref i.main (fun _ w => bad w),
    i.failEntry 15 4 i.wins bad,
    i.failRow 15 4 i.wins ref i.main (fun r x => (i.others r).any (fun a => (i.rowWins a).any (overlaps x))),
    i.main.zipIdx.findSome? (fun r => failIf (decide (r.1.ip < instBase ∨ instBase + instSize ≤ r.1.ip))
      { LoadRes.row 15 false r.1 with addr := i.entryAt 1 r.2 })]

/-- Does an image operand formed from g0 and an immediate break R124, whatever task executes it? -/
def imageOperandOut (ext : Option Nat) (w : Word) : Bool :=
  let x := immRaw ext w
  isImageOp w && sylImm w && decide (sylA w = 0) && (decide (2 ^ 19 ≤ x) || (decide (0x26 ≤ sylOpc w) && !x.testBit 18))

/-- Does it break R124 for a task's output ranges? -/
def imageOperandBad (outs : List (Nat × Nat × Nat)) (ext : Option Nat) (w : Word) : Bool :=
  let x := immRaw ext w
  imageOperandOut ext w ||
    (isImageOp w && sylImm w && decide (sylA w = 0 ∧ 0x26 ≤ sylOpc w) &&
      !outs.any (fun o => decide (o.1 = 0 ∧ o.2.1 ≤ field x 17 0 ∧ field x 17 0 < o.2.1 + o.2.2)))

/-- Image operands (code 16): those of the bundles that each task reaches, then those of every bundle. -/
def Image.check16 (i : Image) : Option LoadRes :=
  firstFail [
    i.main.findSome? (fun r => (i.reached r).findSome? (fun x =>
      failIf (x.bundle.extSyls.any (fun p => imageOperandBad (i.rowOuts r) p.1 p.2)) { LoadRes.row 16 false r with addr := x.addr })),
    i.codeList.findSome? (fun x => failIf (x.bundle.extSyls.any (fun p => imageOperandOut p.1 p.2)) (.at' 16 x.addr))]

/-- The 16-byte entries that a task's output ranges touch. -/
def Image.outEntries (i : Image) (r : TaskRow) : Nat :=
  let e (k : Nat) (first count : Nat) : List Nat :=
    let d := if k = 0 then 128 else 4
    (List.range ((first % d + count + d - 1) / d)).map (fun n => 1048576 * k + first / d + n)
  ((i.rowOuts r).foldl (fun acc o => (e o.1 o.2.1 o.2.2).foldl (fun a n => insertNat n a) acc) []).length

/-- F and X (code 17, 06 R184). -/
def Image.check17 (i : Image) : Option LoadRes :=
  i.main.findSome? (fun r =>
    let allow := (i.rowWins r).foldl (fun n w => n + w.2) 0 + 16 * i.outEntries r
    failIf (decide (r.foot % 16 ≠ 0 ∨ r.keep % 16 ≠ 0 ∨ allow < r.foot)) { LoadRes.row 17 false r with excess := r.foot - allow })

/-- Scratch reads (code 18, 06 R188): one that a path leaves uncovered, or one that neither the followed addresses nor the loader's own analysis prove covered. -/
def Image.check18 (i : Image) : Option LoadRes :=
  i.main.findSome? (fun r => (i.known r).findSome? (fun p =>
    i.codeList[p.1]?.bind (fun x =>
      let l := p.2.look x
      failIf (l.bare || (l.doubt && !Config.covers i.bytes x.addr)) { LoadRes.row 18 false r with addr := x.addr })))

/-! ### Codes 19 to 21 -/

/-- Exchange registers that a bundle reads and writes. -/
def Bundle.exchange (b : Bundle) : List (Bool × Nat) :=
  b.extSyls.flatMap (fun p =>
    if sylU p.2 ≠ 6 then []
    else if sylP p.2 then
      [0, 1].filterMap (fun k =>
        let o := sylShort p.2 k
        if o.1 = 9 then some (false, o.2.2) else if o.1 = 10 then some (true, o.2.2) else none)
    else if sylOpc p.2 = 0x18 then [(false, immRaw p.1 p.2)]
    else if sylOpc p.2 = 0x19 then [(true, immRaw p.1 p.2)]
    else [])

/-- The worst-case start of a task in the walk of a table, from its release boundary. -/
def Image.worstStart (i : Image) (rows : List TaskRow) (t : Nat) : Nat :=
  (i.walk rows).foldl (fun m w => if w.row.task = t then max m (w.ready - w.beat * (500 * i.beatP)) else m) 0

/-- One entry of the exchange table under one table (06 R189). -/
def Image.exchangeBad (i : Image) (rows : List TaskRow) (x : XEntry) : Bool :=
  match rows.find? (fun r => decide (r.task = x.writer)) with
  | none => true
  | some w =>
    (List.range 32).any (fun t =>
      x.readers.testBit t &&
        (match rows.find? (fun r => decide (r.task = t)) with
         | none => true
         | some r => decide (r.period ≠ w.period ∨ r.phase ≠ w.phase ∨ r.start + x.readOff ≤ i.worstStart rows x.writer + x.writeOff)))

/-- Exchange table (code 19). -/
def Image.check19 (i : Image) : Option LoadRes :=
  let entry (n : Nat) : Option XEntry := i.xtab.find? (fun x => decide (x.reg = n))
  firstFail [
    i.failEntry 19 6 i.xtab (fun x => x.readers.testBit x.writer ||
      decide ((i.xtab.find? (fun y => decide (y.reg = x.reg))) ≠ some x) || decide (1 < (i.xtab.filter (fun y => decide (y = x))).length)),
    i.codeList.findSome? (fun x => failIf (x.bundle.exchange.any (fun a => (entry a.2).isNone)) (.at' 19 x.addr)),
    i.main.findSome? (fun r => (i.reached r).findSome? (fun x =>
      failIf (x.bundle.exchange.any (fun a =>
        match entry a.2 with
        | some e => if a.1 then decide (e.writer ≠ r.task) else !e.readers.testBit r.task
        | none => true)) { LoadRes.row 19 false r with addr := x.addr })),
    i.tables.findSome? (fun t => (i.failEntry 19 6 i.xtab (i.exchangeBad t.2)).map (fun r => { r with lset := 128 * bit t.1 }))]

/-- The byte offsets in section 7 at which its records begin. -/
def initOffsets : Nat → List (Nat × List Byte) → List Nat
  | _, [] => []
  | o, x :: t => o :: initOffsets (o + 8 + (x.2.length + 3) / 4 * 4) t

/-- Initial values (code 20). -/
def Image.check20 (i : Image) : Option LoadRes :=
  let s := sectionOf i.bytes 7
  let offs := initOffsets (i.entryAt 7 0) i.inits
  let spans := (i.inits.map (fun x => (x.1, x.2.length))).zip offs
  firstFail [
    spans.findSome? (fun x => failIf (decide (instSize < x.1.1 + x.1.2)) (.at' 20 x.2)),
    (firstPair (fun a b : (Nat × Nat) × Nat => overlaps a.1 b.1) spans).map (fun x => .at' 20 x.2),
    failIf (initsCut s.length s)
      (.at' 20 (i.entryAt 7 0 + (i.inits.foldl (fun n x => n + 8 + (x.2.length + 3) / 4 * 4) 0)))]

/-- A name of the name table; none when it does not lie within it. -/
def Image.nameOf (i : Image) (off : Nat) : Option (List Byte) :=
  let l := i.names.drop off
  if l.any (· = 0) then some (l.takeWhile (· ≠ 0)) else none

/-- No offset, in an instance map. -/
def noOff : Nat := 0xFFFFFFFF

/-- Does the map match every instance of the image that the unit holds exactly once (06 R195)? -/
def Image.mapMatches (i old : Image) : Bool :=
  let olds := old.instances.filter (fun x => decide (x.newOff ≠ noOff))
  let mine := i.instances.filter (fun x => decide (x.newOff = noOff ∨ x.oldOff ≠ noOff))
  mine.all (fun x => olds.any (fun o =>
    decide (i.nameOf x.name = old.nameOf o.name) &&
      (decide (x.newOff = noOff) || decide (x.type = o.type ∧ x.len = o.len ∧ x.oldOff = o.newOff)))) &&
  olds.all (fun o => decide ((mine.filter (fun x => decide (i.nameOf x.name = old.nameOf o.name))).length = 1))

/-- Instance map (code 21, 06 R194, R195). -/
def Image.check21 (i : Image) (held : Option Image) : Option LoadRes :=
  let span (x : InstEntry) : Nat × Nat := (x.newOff, if x.newOff = noOff then 0 else x.len)
  let at' (x : InstEntry × Nat) : LoadRes := .at' 21 (i.entryAt 8 x.2)
  firstFail [
    i.failEntry 21 8 i.instances (fun x => (i.nameOf x.name).isNone || decide (x.len % 16 ≠ 0) ||
      (decide (x.newOff ≠ noOff) && decide (x.newOff % 16 ≠ 0 ∨ instSize < x.newOff + x.len))),
    (firstPair (fun a b : InstEntry × Nat => overlaps (span a.1) (span b.1)) i.instances.zipIdx).map at',
    (firstPair (fun a b : InstEntry × Nat => decide (i.nameOf a.1.name = i.nameOf b.1.name)) i.instances.zipIdx).map at',
    failIf (i.instances.any (fun x => decide (x.oldOff ≠ noOff)) &&
      (match held with
       | some old => !(decide (i.prevDigest = old.digest) && i.mapMatches old)
       | none => true)) (.at' 21 (i.entryAt 8 0))]

/-! ### The check (06 R191) -/

/-- The later of two checks counts only when the earlier passes. -/
def thenCheck (a b : Option LoadRes) : Option LoadRes :=
  match a with
  | some r => some r
  | none => b

/-- Codes 1 to 10. -/
def Image.checkForm (i : Image) (p pending : Nat) : Option LoadRes :=
  thenCheck i.check1 (thenCheck i.check2 (thenCheck i.check3 (thenCheck i.check4 (thenCheck i.check5 (thenCheck i.check6
    (thenCheck (i.check7 p pending) (thenCheck i.check8 (thenCheck i.check9 i.check10))))))))

/-- Codes 11 to 21. -/
def Image.checkRun (i : Image) (lead : Nat) (held : Option Image) : Option LoadRes :=
  thenCheck (i.check11 lead) (thenCheck i.check12 (thenCheck i.check13 (thenCheck i.check14 (thenCheck i.check15 (thenCheck i.check16
    (thenCheck i.check17 (thenCheck i.check18 (thenCheck i.check19 (thenCheck i.check20 (i.check21 held))))))))))

/-- LOAD_RESULT of an image checked with the period in force and pending, the lead, and the image that the unit holds. -/
def checkImage (b : List Byte) (p pending lead : Nat) (held : Option Image) : LoadRes :=
  let i := readImage b
  (thenCheck (i.checkForm p pending) (i.checkRun lead held)).getD LoadRes.ok

end Sys2Proof.Machine
end

