-- ==== Sys2Proof/Machine/Met.lean ====
section
/-! DEFINITION. The metrology partition and its mailbox (17). -/

set_option Elab.async false

namespace Sys2Proof.Machine

open Sys2Proof

/-! ### Arithmetic of weights (17 R482) -/

/-- A quotient rounded half away from zero; `d` is not zero. -/
def roundDiv (n d : Int) : Int :=
  let q := (2 * n.natAbs + d.natAbs) / (2 * d.natAbs)
  if (0 ≤ n ∧ 0 < d) ∨ (n ≤ 0 ∧ d < 0) then (q : Int) else -(q : Int)

/-- Millionths of e in one e. -/
def micro : Int := 1000000

/-- The unrounded weight before the zero correction as a quotient; none where SPAN equals ZERO. -/
def MetChan.quotient (m : MetChan) (raw : Int) : Option (Int × Int) :=
  if m.span = m.zero then none else some ((raw - m.zero) * m.maxE, m.span - m.zero)

/-- w = round(quotient) + z, rounded to a LINT (17 R482; log 21). -/
def MetChan.weight (m : MetChan) (q : Int × Int) : Int := roundDiv (roundDiv q.1 q.2 * micro + m.z) micro

/-- The unrounded weight, zero correction included, lies within ±1/`k` of an e. -/
def MetChan.nearZero (m : MetChan) (q : Int × Int) (k : Int) : Bool :=
  decide ((k * (q.1 * micro + m.z * q.2)).natAbs ≤ (q.2 * micro).natAbs)

/-- STABLE: the weight has stayed within ±1 e over the last 1 s, that is `rate` sample intervals. -/
def MetChan.stable (m : MetChan) (w : Int) : Bool :=
  decide (m.rate ≤ m.hist.length) && m.hist.all (fun h => decide ((h - w).natAbs ≤ 1))

/-! ### Records (17 R488) -/

/-- A record is completed with its check. -/
def metRecord (kind chan flags seq : Nat) (value : List Byte) (eMant : Nat) (eExp : Int) (maxE events : Nat) : List Byte :=
  withCrc32 (leBytes 1 kind ++ leBytes 1 chan ++ leBytes 2 flags ++ leBytes 4 seq ++ value ++ leBytes 1 eMant ++
    leBytes 1 (eExp % 256).toNat ++ leBytes 2 maxE ++ leBytes 4 events ++ zeros 4)

/-- FLAGS with VALID: 1 only when no flag among bits 3 to 7, 10 and 11 is set. -/
def withValid (flags : Nat) : Nat := if flags &&& 0xCF8 = 0 then flags + 1 else flags

/-- FLAGS that the whole partition decides: SEAL_OPEN, CLOCK_FAULT, ID_FAULT. -/
def Met.flags (m : Met) : Nat := 32 * bit (!m.sealed) + 64 * bit m.clockFault + 2048 * bit (!m.idOk)

/-- A record is replaced: ALIVE, MET_CAUSE.NEW; the 10 ms of 17 R490 start again. -/
def State.metPublish (s : State) (c : Nat) (r : Nat → List Byte) : State :=
  let n := ((vget s.met.chans c MetChan.reset).seq + 1) % 2 ^ 32
  let s := s.upMetChan c (fun m => { m with seq := n, record := r n, before := m.record, recAt := some s.clk.now })
  (s.upMet (fun m => { m with alive := true, lastRec := s.clk.now })).metCause 0

/-- The record of a disabled channel. -/
def State.metDisabled (s : State) (c : Nat) : State :=
  s.metPublish c (fun n => metRecord 0 c 0 n (zeros 8) 0 0 0 s.met.events)

/-- Is the VALID flag of a record set? -/
def MetChan.valid (m : MetChan) : Bool := (byteAt m.record 2) % 2 = 1

/-- MET_STATUS (17 R491). -/
def Met.status (m : Met) : Word :=
  w32 (bit m.sealed + 2 * bit m.idOk + 4 * bit m.clockFault + 8 * bit m.excFault +
    16 * bit (decide (1024 ≤ m.audit.length)) + 32 * bit m.alive +
    (List.range 12).foldl (fun n c => n + 2 ^ (8 + c) * bit (vget m.chans c MetChan.reset).valid) 0 +
    2 ^ 20 * m.adjResult)

/-- The record that an input latch at `t` takes: one completed in the same CLK_FAB cycle of 4 ns is taken at the next latch (17 R489). -/
def MetChan.latched (m : MetChan) (t : Nat) : List Byte := if m.recAt.map (· / 4) = some (t / 4) then m.before else m.record

/-- The block of 104 words that the input latch at `t` copies (17 R489). -/
def Met.block (m : Met) (t : Nat) : List Byte :=
  m.chans.toList.flatMap (·.latched t) ++ wbytes m.status ++ leBytes 4 m.events ++ wbytes m.swVersion ++ zeros 20

/-! ### Samples (17 R480, R482, R483) -/

/-- The bound of one move of the zero correction: 0.5 e per second, in millionths. -/
def MetChan.stepMax (m : MetChan) : Int := if m.rate = 0 then 0 else 500000 / (m.rate : Int)

/-- The bound of the zero correction: ±4 % of MAX_E, in millionths. -/
def MetChan.zMax (m : MetChan) : Int := 40000 * (m.maxE : Int)

/-- A value limited to ±`b`. -/
def clampTo (b v : Int) : Int := max (-b) (min b v)

/-- The zero correction after a sample whose weight is stable (17 R483): set once, then tracked by a free step. -/
def MetChan.zeroStep (m : MetChan) (q : Int × Int) (use : Nat) : MetChan :=
  if !m.zSet then
    if !m.zTimedOut && decide ((10 * q.1).natAbs ≤ (q.2 * m.maxE).natAbs) then
      { m with zSet := true, z := clampTo m.zMax (roundDiv (-(q.1 * micro)) q.2) }
    else m
  else if m.zeroTrack && m.nearZero q 2 then
    { m with z := clampTo m.zMax (m.z + clampTo m.stepMax (Config.zeroStep use)) }
  else m

/-- FLAGS of a weight record but for VALID. -/
def State.weightFlags (s : State) (m : MetChan) (w : Int) (stable zero bad : Bool) : Nat :=
  s.met.flags + 2 * bit stable + 4 * bit zero + 8 * bit (decide ((m.maxE : Int) + 9 < w)) +
    16 * bit (decide (w < -20)) + 128 * bit bad + 1024 * bit (!m.zSet)

/-- A bridge output sample: the weight is computed and the record replaced. `supply` tells that FS7 lies below 16.0 V or has not been back for 100 ms, `sense` the same of the sense voltage, which only a 6-wire port has (17 R480). -/
def State.bridge (s : State) (c : Nat) (raw : Int) (supply sense : Bool) : State :=
  let m0 := vget s.met.chans c MetChan.reset
  if !s.met.powered ∨ 8 ≤ c then s
  else if !m0.enable then s.metDisabled c
  else
    let bad := supply || (sense && m0.sixWire)
    let fault := decide (2 ^ 23 < raw.natAbs) || bad || s.met.excFault
    let (w0, st0) := match m0.quotient raw with
      | some q => (m0.weight q, m0.stable (m0.weight q))
      | none => (Config.weight s.free, m0.stable (Config.weight s.free))
    let m := match m0.quotient raw with
      | some q => if st0 then m0.zeroStep q s.free else m0
      | none => m0
    let (w, zero) := match m.quotient raw with
      | some q => (m.weight q, m.nearZero q 4)
      | none => (w0, decide (w0 = 0))
    let flags := withValid (s.weightFlags m w st0 zero fault)
    let s := s.useFree.upMetChan c (fun _ => { m with raw := raw, excBad := bad, hist := (w :: m.hist).take m.rate })
    s.metPublish c (fun n =>
      metRecord 1 c flags n (wbytes (i32 w) ++ wbytes (i32 (w / 2 ^ 32))) m.eMant m.eExp m.maxE s.met.events)

/-! ### Audit trail and adjustment (17 R484 to R487) -/

/-- MET_TIME in ms. -/
def State.metTime (s : State) : Nat := s.met.metMs + (if s.met.powered then (s.clk.now - s.met.metOn) / 1000000 else 0)

/-- An audit entry. -/
def State.auditEntry (s : State) (count index sub kind : Nat) (old new : Int) : List Byte :=
  withCrc32 (leBytes 4 count ++ leBytes 2 index ++ leBytes 1 sub ++ leBytes 1 kind ++
    leBytes 8 (old % 2 ^ 64).toNat ++ leBytes 8 (new % 2 ^ 64).toNat ++ leBytes 6 s.metTime ++ zeros 2 ++
    leBytes 4 s.met.metCycles ++ zeros 24)

/-- An entry is added to the trail unless it is full. -/
def State.auditAdd (s : State) (e : List Byte) : State :=
  if 1024 ≤ s.met.audit.length then s
  else (s.upMet (fun m => { m with audit := m.audit ++ [e] })).metCause 3

/-- A recognised change of SEAL_SW (17 R484, R486). -/
def State.sealTo (s : State) (closed : Bool) : State :=
  if s.met.sealed = closed then s
  else
    let s := s.upMet (fun m => { m with sealed := closed, telegram := [] })
    (s.auditAdd (s.auditEntry s.met.events 0 0 (if closed then 5 else 4) 0 0)).metCause 2

/-- The value of a sealed entry (17 R492); none where there is no such entry. -/
def Met.entry (m : Met) (index sub : Nat) : Option Int :=
  if 0x7100 ≤ index ∧ index < 0x7108 then
    let c := vget m.chans (index - 0x7100) MetChan.reset
    if sub = 1 then some (bit c.enable)
    else if sub = 2 then some (bit c.sixWire)
    else if sub = 3 then some c.maxE
    else if sub = 4 then some c.eMant
    else if sub = 5 then some c.eExp
    else if sub = 6 then some c.zero
    else if sub = 7 then some c.span
    else if sub = 8 then some c.rate
    else if sub = 9 then some (bit c.zeroTrack)
    else none
  else if 0x7200 ≤ index ∧ index < 0x7204 ∧ sub = 1 then
    some (bit (vget m.chans (index - 0x7200 + 8) MetChan.reset).enable)
  else none

/-- Does a value lie in the range of a sealed entry? -/
def metInRange (index sub : Nat) (v : Int) : Bool :=
  if 0x7200 ≤ index ∨ sub = 1 ∨ sub = 2 ∨ sub = 9 then decide (v = 0 ∨ v = 1)
  else if sub = 3 then decide (1 ≤ v ∧ v ≤ 10000)
  else if sub = 4 then decide (v = 1 ∨ v = 2 ∨ v = 5)
  else if sub = 5 then decide (-6 ≤ v ∧ v ≤ 3)
  else if sub = 8 then [10, 25, 50, 100, 250, 500, 1000].contains v
  else decide (-(2 ^ 31 : Int) ≤ v ∧ v < 2 ^ 31)

/-- A sealed entry of a channel set. -/
def MetChan.put (c : MetChan) (sub : Nat) (v : Int) : MetChan :=
  if sub = 1 then { c with enable := decide (v = 1) }
  else if sub = 2 then { c with sixWire := decide (v = 1) }
  else if sub = 3 then { c with maxE := v.toNat }
  else if sub = 4 then { c with eMant := v.toNat }
  else if sub = 5 then { c with eExp := v }
  else if sub = 6 then { c with zero := v }
  else if sub = 7 then { c with span := v }
  else if sub = 8 then { c with rate := v.toNat, hist := [] }
  else { c with zeroTrack := decide (v = 1) }

/-- A sealed entry set. -/
def State.metSet (s : State) (index sub : Nat) (v : Int) : State :=
  s.upMetChan (if 0x7200 ≤ index then index - 0x7200 + 8 else index - 0x7100) (·.put sub v)

/-- The result code of the adjustment line. -/
def State.adjResult (s : State) (r : Nat) : State := s.upMet (fun m => { m with adjResult := r })

/-- An accepted change: the audit entry and the event counter first, then the change (17 R486). -/
def State.adjust (s : State) (index sub kind : Nat) (new : Int) : State :=
  if 1024 ≤ s.met.audit.length then s.adjResult 4
  else
    let old := (s.met.entry index sub).getD 0
    let s := s.upMet (fun m => { m with events := m.events + 1 })
    ((s.auditAdd (s.auditEntry s.met.events index sub kind old new)).metSet index sub new).adjResult 0

/-- At least 210 counts per e. -/
def enoughCounts (zero span : Int) (maxE : Nat) : Bool := decide (210 * (maxE : Int) ≤ span - zero)

/-- A complete telegram (17 R485). Where several result codes apply, the lowest is written. -/
def State.telegramDone (s : State) (b : List Byte) : State :=
  let op := byteAt b 1
  let index := getLE b 2 2
  let sub := byteAt b 4
  let v := getLEs b 6 8
  if byteAt b 0 ≠ 0x4D ∨ byteAt b 5 ≠ 0 ∨ getLE b 14 2 ≠ crc16 (b.take 14) then s.adjResult 1
  else if op = 0 ∨ 4 < op ∨ index < 0x7100 ∨ 0x72FF < index then s.adjResult 2
  else if op = 4 then s.adjResult 0
  else if op = 1 then
    if (s.met.entry index sub).isNone then s.adjResult 2
    else if !metInRange index sub v then s.adjResult 3
    else s.adjust index sub 1 v
  else if 8 ≤ sub then s.adjResult 2
  else
    let c := vget s.met.chans sub MetChan.reset
    let zero := if op = 2 then c.raw else c.zero
    let span := if op = 2 then c.span else c.zero + roundDiv ((c.raw - c.zero) * c.maxE) v
    if (op = 3 ∧ (v < 1 ∨ (c.maxE : Int) < v)) ∨ !enoughCounts zero span c.maxE then s.adjResult 3
    else if 1024 ≤ s.met.audit.length then s.adjResult 4
    else if !(c.enable && (byteAt c.record 2).testBit 1) then s.adjResult 5
    else if op = 2 then s.adjust (0x7100 + sub) 6 2 zero
    else s.adjust (0x7100 + sub) 7 3 span

/-- A byte arrives on the adjustment line: the sixteenth completes a telegram. -/
def State.adjByte (s : State) (x : Byte) : State :=
  let b := s.met.telegram ++ [x]
  if b.length < 16 then s.upMet (fun m => { m with telegram := b })
  else (s.upMet (fun m => { m with telegram := [] })).telegramDone b

/-- Bytes arrive on the adjustment line: those of a telegram that the partition does not receive entirely while in adjustment are discarded. -/
def State.adjReceive (s : State) (bytes : List Byte) : State :=
  if !s.met.powered || s.met.sealed then s else bytes.foldl State.adjByte s

/-! ### Power (17 R479, R481, R483, 18 R501) -/

/-- The channels at a power-up of MET: SEQ from 1, no zero set, POWER_GAP due. -/
def MetChan.powerUp (c : MetChan) : MetChan :=
  { c with seq := 0, z := 0, hist := [], zSet := false, zTimedOut := false, excBad := false, gapFlag := true, edgeAt := none, recAt := none }

/-- A totaliser as MET loses power at `now`: an edge of the last 10 µs is not counted (17 R481). -/
def MetChan.powerDown (c : MetChan) (now : Nat) : MetChan :=
  match c.edgeAt with
  | none => c
  | some t =>
    if t + 10000 ≤ now then { c with edgeAt := none }
    else if c.total = 0 then { c with total := 9999999999999999, rollover := false, edgeAt := none }
    else { c with total := c.total - 1, edgeAt := none }

/-- MET powers up: the identification is checked, and a change of the seal while it was off is recognised. -/
def State.metUp (s : State) (closed : Bool) : State :=
  if s.met.powered then s
  else
  let d := sha256 s.met.image
  let s := s.upMet (fun m => { m with
    powered := true, metCycles := m.metCycles + 1, metOn := s.clk.now, metMs := s.metTime,
    chans := m.chans.map MetChan.powerUp, digest := d, idOk := decide (d = m.refDigest), telegram := [],
    clockFault := false, excFault := false, alive := false, adjResult := 0 })
  (if s.met.idOk then s else s.metCause 1).sealTo closed

/-- MET loses power: its operating time stands still. -/
def State.metDown (s : State) : State :=
  s.upMet (fun m => { m with
    powered := false, metMs := s.metTime, alive := false
    chans := if m.powered then m.chans.map (·.powerDown s.clk.now) else m.chans })

/-! ### Meanings -/

/-- MET_POWER_UP (17 R479): of a partition that is off, once its domain is on (01 R23). -/
def execMetPowerUp (closed : Bool) (s : State) : Host.Outcome State Fault Refusal := commit s (if s.domainOn 11 then s.metUp closed else s)

/-- CLOCK_PLAUSIBILITY_FAULT (01 R22): CLK_MET and the RC oscillator differ by more than 2 %, or agree again. -/
def execClockPlausibilityFault (on : Bool) (s : State) : Host.Outcome State Fault Refusal :=
  let s1 := s.upMet (fun m => { m with clockFault := on })
  commit s (if !s.met.powered then s else if on && !s.met.clockFault then s1.metCause 1 else s1)

/-- BRIDGE_SAMPLE (17 R482). -/
def execBridgeSample (c t : Nat) (raw : Int) (supply sense : Bool) (s : State) : Host.Outcome State Fault Refusal :=
  commit s ((s.reach t).bridge c raw supply sense)

/-- NO_ZERO_TIMEOUT (17 R483): no stable second near the adjusted zero within 10 s of the power-up of MET. -/
def execNoZeroTimeout (c t : Nat) (s : State) : Host.Outcome State Fault Refusal :=
  let s1 := s.reach t
  commit s (if s1.met.powered ∧ s1.met.metOn + 10000000000 ≤ s1.clk.now then
    s1.upMetChan c (fun m => if m.zSet then m else { m with zTimedOut := true }) else s1)

/-- PULSE_EDGE (17 R481): a rising edge of pulse input q between levels of at least 20 µs; Q3 is the adjustment line while the partition is in adjustment. -/
def execPulseEdge (q t : Nat) (s : State) : Host.Outcome State Fault Refusal :=
  let s1 := s.reach t
  commit s (if !s1.met.powered ∨ 4 ≤ q ∨ (q = 3 ∧ !s1.met.sealed) then s1
    else s1.upMetChan (8 + q) (fun m =>
      if !m.enable then m
      else if m.total = 9999999999999999 then { m with total := 0, rollover := true, edgeAt := some s1.clk.now }
      else { m with total := m.total + 1, edgeAt := some s1.clk.now }))

/-- PULSE_RECORD_PUBLISH (17 R488): the record of pulse input q is replaced. -/
def execPulseRecordPublish (q t : Nat) (s : State) : Host.Outcome State Fault Refusal :=
  commit s (
    let s := s.reach t
    let m := vget s.met.chans (8 + q) MetChan.reset
    if !s.met.powered ∨ 4 ≤ q then s
    else if !m.enable then s.metDisabled (8 + q)
    else
      let flags := withValid (s.met.flags + 256 * bit m.rollover + 512 * bit m.gapFlag)
      let s1 := s.upMetChan (8 + q) (fun m => { m with rollover := false, gapFlag := false })
      s1.metPublish (8 + q) (fun n => metRecord 2 (8 + q) flags n (leBytes 8 (toBcd 16 m.total)) 0 0 0 s.met.events))

/-- EXCITATION_FAULT (17 R480): the demand exceeds 2.7 W, or has stayed within it for 100 ms. -/
def execExcitationFault (on : Bool) (s : State) : Host.Outcome State Fault Refusal :=
  let s1 := s.upMet (fun m => { m with excFault := on })
  commit s (if !s.met.powered then s else if on && !s.met.excFault then s1.metCause 1 else s1)

/-- SEAL_CHANGE (17 R484): a change of SEAL_SW is recognised. -/
def execSealChange (closed : Bool) (s : State) : Host.Outcome State Fault Refusal :=
  commit s (if s.met.powered then s.sealTo closed else s)

/-- ADJ_SET_ENTRY (17 R485): bytes arrive on the adjustment line; the telegram they complete says what it does. -/
def execAdjSetEntry (bytes : List Byte) (s : State) : Host.Outcome State Fault Refusal := commit s (s.adjReceive bytes)

/-- ADJ_CAPTURE_ZERO (17 R485), as ADJ_SET_ENTRY. -/
def execAdjCaptureZero (bytes : List Byte) (s : State) : Host.Outcome State Fault Refusal := commit s (s.adjReceive bytes)

/-- ADJ_CAPTURE_SPAN (17 R485), as ADJ_SET_ENTRY. -/
def execAdjCaptureSpan (bytes : List Byte) (s : State) : Host.Outcome State Fault Refusal := commit s (s.adjReceive bytes)

/-- ADJ_NO_CHANGE (17 R485), as ADJ_SET_ENTRY. -/
def execAdjNoChange (bytes : List Byte) (s : State) : Host.Outcome State Fault Refusal := commit s (s.adjReceive bytes)

/-- TELEGRAM_GAP_TIMEOUT (17 R485): a gap of more than 5 ms discards the telegram. -/
def execTelegramGapTimeout (s : State) : Host.Outcome State Fault Refusal :=
  commit s (s.upMet (fun m => { m with telegram := [] }))

/-- MET_ALIVE_TIMEOUT (17 R490): no record has changed for 10 ms. -/
def execMetAliveTimeout (t : Nat) (s : State) : Host.Outcome State Fault Refusal :=
  let s1 := s.reach t
  commit s (if s1.met.alive ∧ s1.met.lastRec + 10000000 ≤ s1.clk.now then (s1.upMet (fun m => { m with alive := false })).metCause 1 else s1)

end Sys2Proof.Machine
end

