-- ==== Sys2Proof/Machine/Trace.lean ====
section
/-! DEFINITION. Trace capture: the ring and its items, anchors, freezing, streaming, the replay load and report, and the TRC registers (14). -/

set_option Elab.async false

namespace Sys2Proof.Machine

open Sys2Proof

/-! ### Items (14 R415, R419) -/

/-- The L-map address of input group `g` (14 R416). -/
def groupAddr (g : Nat) : Nat :=
  if g < 2048 then dinBase + 16 * g
  else if g < 18432 then ainBase + 16 * (g - 2048)
  else if g < 18688 then qualBase + 16 * (g - 18432)
  else localQualBase + 16 * (g - 18688)

/-- The input group of an L-map address of the input view. -/
def groupOf (a : Nat) : Nat :=
  if localQualBase ≤ a then 18688 + (a - localQualBase) / 16
  else if qualBase ≤ a then 18432 + (a - qualBase) / 16
  else if ainBase ≤ a then 2048 + (a - ainBase) / 16
  else (a - dinBase) / 16

/-- The bytes of `n` input groups from `g` on. -/
def groupBytes (v : Mem) (g n : Nat) : List Byte := (List.range n).flatMap (fun i => memBytes v (groupAddr (g + i)) 16)

/-- The payload of an ANCHOR item. -/
def Anchor.encode (a : Anchor) : List Byte :=
  padTo 304 a.head ++ padTo 32 a.digest ++ leBytes 4 a.p ++ leBytes 1 a.laneMode ++ leBytes 1 a.table ++
    leBytes 1 (bit a.ptp + 2 * bit a.sync) ++ leBytes 1 (bit a.complete) ++ zeros 424 ++
    padTo 256 (a.x.flatMap wbytes) ++ groupBytes a.view 0 18692 ++
    memBytes a.outs doutBase 32768 ++ memBytes a.outs aoutBase 262144 ++ memBytes a.inst instBase 33554432

/-- An item as bytes. -/
def TItem.encode (x : TItem) : List Byte :=
  leBytes 1 x.type ++ leBytes 1 (bit x.corrupt) ++ zeros 2 ++ leBytes 4 x.length ++ leBytes 8 x.beat ++
    (match x.anchor with
     | some a => a.encode
     | none => padGroups x.bytes)

/-- Is an item an anchor that is not complete? -/
def TItem.open? (x : TItem) : Bool :=
  match x.anchor with
  | some a => !a.complete
  | none => false

/-! ### The capacity (14 R423) -/

/-- The capacity C (14 R423): less 16 MiB while an image is staged (06 R190), less the image and 32 MiB while a swap is prepared (07 R236); items dropped by staging set TRUNCATED. -/
def State.recap (s : State) : State :=
  let c := 2 ^ 31 - (if s.ldr.converting then s.ldr.staged.length + 2 ^ 25 else if s.ldr.state ≠ 0 then 2 ^ 24 else 0)
  let t := (s.upTrc (fun q => { q with cap := c })).trimTrace
  if c < s.trc.cap ∧ s.trc.lost < t.trc.lost then t.trcCause 5 else t

/-! ### The items of a beat (14 R416) -/

/-- Input groups that differ between two views, ascending. -/
def changedGroups (u v : Mem) : List Nat :=
  ((u ++ v).foldl (fun acc c => insertNat (groupOf c.1) acc) []).filter (fun g =>
    decide (memBytes u (groupAddr g) 16 ≠ memBytes v (groupAddr g) 16))

/-- INPUT_DELTA. -/
def inputDelta (u v : Mem) : List Byte :=
  (entryRuns (changedGroups u v)).flatMap (fun r => leBytes 2 r.1 ++ leBytes 2 r.2 ++ groupBytes v r.1 r.2)

/-- What the trace unit writes of a boundary. -/
structure BeatNote where
  released : Nat
  skipped : Nat
  closed : Option Milestone
  edits : List Batch
  incomplete : Bool
  cal : Word × Word
  deriving DecidableEq, Repr

/-- The payload of the BEAT item. -/
def State.beatItem (s : State) (b : BeatNote) : List Byte :=
  leBytes 8 s.sto.msCount ++ leBytes 8 s.clk.powered ++ leBytes 4 b.released ++ leBytes 4 b.skipped ++
    leBytes 1 (bit b.closed.isSome + 2 * bit s.sto.tableReduced + 4 * bit s.clk.ptpNum + 8 * bit s.sync + 16 * bit b.incomplete) ++
    zeros 3 ++ leBytes 4 ((b.closed.map Milestone.check).getD 0) ++ wbytes b.cal.1 ++ wbytes b.cal.2 ++ zeros 8

/-- No run released before this boundary is still incomplete (14 R418). -/
def State.noRuns (s : State) : Bool := s.tasks.toList.all (fun t => t.run.isNone)

/-- The anchor of this boundary (14 R419): the state after acts 1 and 2 of R40. -/
def State.anchorOf (s : State) (m : Milestone) (complete : Bool) : Anchor :=
  { head := m.head, digest := s.ldr.digest, p := s.clk.p, laneMode := bit s.clu.single, table := bit s.sto.tableReduced
    ptp := s.clk.ptpNum, sync := s.sync, complete := complete
    x := s.clu.x.toList.map (·.cur), view := s.sto.inView
    outs := memRange s.sto.lmem doutBase qualBase, inst := memRange s.sto.lmem instBase (instBase + 2 ^ 25) }

/-- The anchor that the boundary takes, if one is requested and the boundary is an anchor boundary (14 R418, R422). -/
def State.anchorHere (s : State) (closed : Option Milestone) : Option Anchor :=
  match closed with
  | some m => if s.trc.anchorReq && s.capturing && s.noRuns then some (s.anchorOf m false) else none
  | none => none

/-- One STATION entry. -/
def StnIn.encode (x : StnIn) (at0 : Nat) : List Byte :=
  leBytes 1 x.slot ++ leBytes 1 (bit x.many) ++ zeros 2 ++ leBytes 4 (at0 - x.at') ++ leBytes 8 x.seq

/-- One CAN entry. -/
def CanIn.encode (x : CanIn) (at0 : Nat) : List Byte :=
  leBytes 1 x.port ++ leBytes 1 x.buf ++ zeros 2 ++ leBytes 4 (at0 - x.at') ++ x.words.flatMap wbytes

/-- The items of the beat that begins are written (14 R416), `a` being the anchor it takes. While the ring is freezing the beat before counts as one of its POST_TRIGGER beats (14 R424; log 61). -/
def State.traceBeat (s : State) (b : BeatNote) (a : Option Anchor) : State :=
  let item (type : Nat) (l : List Byte) : TItem := { type := type, beat := s.clk.beat, bytes := l, corrupt := false, anchor := none }
  let view := s.sto.inView
  let s := s.upTrc (fun q => { q with postLeft := if q.st = 1 then q.postLeft - 1 else q.postLeft })
  let s := s.traceWrite (item 1 (s.beatItem b))
  let s : State := match a with
    | some x =>
      (s.traceWrite { type := 8, beat := s.clk.beat, bytes := [], corrupt := false, anchor := some x }).upTrc
        (fun q => { q with anchorReq := false, anchorCopy := some s.clk.beat, anchorWait := 0 })
    | none =>
      (s.traceBytes 2 (inputDelta s.trc.prevView view)).upTrc
        (fun q => { q with anchorWait := if q.anchorReq then q.anchorWait + 1 else 0 })
  let s := s.traceBytes 3 (s.trc.stations.flatMap (·.encode s.clk.beatAt))
  let s := s.traceBytes 4 (s.trc.cans.flatMap (·.encode s.clk.beatAt))
  let s := b.edits.foldl (fun acc e => acc.traceBytes 5 (leBytes 8 e.arg ++ e.encode)) s
  let s := if s.met.base = 0xFFFFFFFF then s else s.traceBytes 6 (memBytes view (ainBase + 4 * s.met.base) 416)
  let s := if b.incomplete then s.traceMark 6 else s
  let s : State := s.upTrc (fun q =>
    { q with prevView := view, stations := [], cans := [] })
  if s.capturing && decide (s.trc.cap ≤ 2 * (s.trc.pos - s.trc.anchorPos)) then s.requestAnchor else s

/-! ### Freeze and stream (14 R424 to R427) -/

/-- A freeze is requested. -/
def State.freezeReq (s : State) : State :=
  if s.trc.st ≠ 0 then s else s.upTrc (fun q => { q with st := 1, postLeft := s.inForce 0x5302 0 1000 })

/-- A frozen ring resumes capture. -/
def State.unfreeze (s : State) : State :=
  if s.trc.st ≠ 2 then s else ((s.upTrc (fun q => { q with st := 0 })).traceMark 5).requestAnchor

/-- Is an item the anchor whose copy is in progress? Its span is held back, with every byte after it (14 R421). -/
def Trc.heldBack (q : Trc) (x : TItem) : Bool := x.open? && decide (q.anchorCopy = some x.beat)

/-- The bytes that may leave the ring, from the oldest held up to a span that is held back (14 R421). -/
def Trc.readable (q : Trc) : List Byte := (q.items.takeWhile (fun x => !q.heldBack x)).flatMap TItem.encode

/-- Items that lie in a POS range are marked corrupt. -/
def corruptItems (lo hi : Nat) : List TItem → Nat → List TItem
  | [], _ => []
  | x :: t, p => (if p < hi ∧ lo < p + x.span then { x with corrupt := true } else x) :: corruptItems lo hi t (p + x.span)

/-- An uncorrectable read of the ring at POS `p` for `n` bytes (01 R17, 14 R417). -/
def State.traceUncorr (s : State) (p n : Nat) : State :=
  let s := s.upTrc (fun q => { q with corrupt := sat32 q.corrupt, items := corruptItems p (p + n) q.items q.lost })
  (s.uncorrectable .trace (p % 2 ^ 31)).trcCause 4

/-- The POS at which the ring byte of an address stands, from the oldest held on. -/
def Trc.posOf (q : Trc) (a : Nat) : Nat := q.lost + (a % 2 ^ 31 + 2 ^ 31 - q.lost % 2 ^ 31) % 2 ^ 31

/-- The errors that a read of the ring from POS `lo` to `hi` finds, by byte address in the trace DRAM: corrections count, an uncorrectable group corrupts its item (01 R16, R17). -/
def State.ringReads (s : State) (l : List Ecc) (lo hi : Nat) : State :=
  l.foldl (fun s x =>
    let p := s.trc.posOf x.addr
    if x.mem ≠ .trace ∨ p < lo ∨ hi ≤ p then s
    else if x.hard then s.traceUncorr p 16 else s.corrected .trace x.addr) s

/-! ### Replay load and report (14 R428 to R432) -/

/-- The lane set of a task in the table in force, 0 where it has none. -/
def State.lsetOf (s : State) (task : Nat) : Nat :=
  match s.row task with
  | some r => r.lset
  | none => 0

/-- A run is noted for the RUN item of its beat (14 R416); in a replay it is compared with the next recorded entry, and the first difference ends the replay (14 R430). -/
def State.noteRun (s : State) (task : Nat) (flags cause cyc outCrc entryCrc : Nat) : State :=
  let e := leBytes 1 task ++ leBytes 1 flags ++ leBytes 1 cause ++ zeros 1 ++ leBytes 4 cyc ++ leBytes 4 outCrc ++ leBytes 4 entryCrc
  let lset := s.lsetOf task
  if s.replaying then
    let r := s.trc.replayRuns.take 16
    let s := s.upTrc (fun q => { q with replayRuns := q.replayRuns.drop 16 })
    if r = e then s
    else if r.isEmpty ∨ byteAt r 0 ≠ task then s.endReplay 2 4 task lset (getLE r 0 4) (getLE e 0 4)
    else if getLE r 8 4 ≠ outCrc then s.endReplay 2 1 task lset (getLE r 8 4) outCrc
    else if getLE r 12 4 ≠ entryCrc then s.endReplay 2 2 task lset (getLE r 12 4) entryCrc
    else s.endReplay 2 3 task lset (getLE r 4 4) cyc
  else if s.capturing then s.upTrc (fun q => { q with runs := q.runs ++ e })
  else s

/-- An anchor read from its bytes. -/
def readAnchor (l : List Byte) : Anchor :=
  { head := l.take 304, digest := slice l 304 32, p := getLE l 336 4, laneMode := byteAt l 340, table := byteAt l 341
    ptp := (byteAt l 342).testBit 0, sync := (byteAt l 342).testBit 1, complete := (byteAt l 343).testBit 0
    x := (List.range 64).map (fun i => w32 (getLE l (768 + 4 * i) 4))
    view := (List.range 18692).foldl (fun m g => memPut m (groupAddr g) (slice l (1024 + 16 * g) 16)) []
    outs := memPut (memPut [] doutBase (slice l 300096 32768)) aoutBase (slice l 332864 262144)
    inst := memPut [] instBase (slice l 595008 33554432) }

/-- The items of a load. -/
def readItems : Nat → List Byte → List TItem
  | 0, _ => []
  | n + 1, l =>
    if l.length < 16 then []
    else
      let len := getLE l 4 4
      let b := slice l 16 len
      let x : TItem :=
        { type := byteAt l 0, beat := getLE l 8 8, bytes := if byteAt l 0 = 8 then [] else b, corrupt := (byteAt l 1).testBit 0
          anchor := if byteAt l 0 = 8 then some (readAnchor b) else none }
      x :: readItems n (l.drop (16 + (len + 15) / 16 * 16))

/-! ### Registers (14 R433) -/

/-- TRC_STATUS. -/
def State.trcStatus (s : State) : Word :=
  let st := if s.trc.st = 2 then 2 else if s.traceOn then s.trc.st else 3
  w32 (st + 4 * bit (s.trc.anchorReq || s.trc.anchorCopy.isSome) + 8 * bit s.trc.streaming + 16 * s.trc.replay)

/-- A read of a TRC register. -/
def State.trcRead (s : State) (off : Nat) : Word × State :=
  let q := s.trc
  if off = 0x000 then (s.trcStatus, s)
  else if off = 0x004 then (q.cause, s)
  else if off = 0x008 then (q.causeEn, s)
  else if off = 0x010 then (w32 ((q.pos - q.lost) / 1024), s)
  else if off = 0x014 then (w32 (q.cap / 1024), s)
  else if off = 0x018 then (w32 q.anchorBeat, s)
  else if off = 0x01C then (w32 q.replayBeat, s)
  else if off = 0x020 then (w32 (min 0xFFFFFFFF (q.skip / 1024)), s.upTrc (fun q => { q with skip := 0 }))
  else if off = 0x024 then (w32 q.corrupt, s.upTrc (fun q => { q with corrupt := 0 }))
  else (0, s)

/-- A TRC command: 1 anchor, 2 freeze, 4 unfreeze. -/
def State.trcCommand (s : State) (v : Nat) : State :=
  if v = 1 then s.requestAnchor else if v = 2 then s.freezeReq else if v = 4 then s.unfreeze else s

/-- A write to a TRC register. -/
def State.trcWrite (s : State) (off : Nat) (v : Word) (priv : Bool) : WriteAns :=
  if off = 0x004 then .done (s.upTrc (fun q => { q with cause := w1c q.cause v }))
  else if off = 0x008 then .done (s.upTrc (fun q => { q with causeEn := v &&& 0xFF }))
  else if off = 0x00C then
    let k := wfield v 2 0
    needPriv priv (needLegal (decide (k = 0 ∨ k = 1 ∨ k = 2 ∨ k = 4)) (.done (s.trcCommand k)))
  else .done s

/-! ### Meanings -/

/-- ANCHOR_REQUEST_INTERVAL (14 R422): ANCHOR_INTERVAL seconds of powered time have passed since the last request. -/
def execAnchorRequestInterval (t : Nat) (s : State) : Host.Outcome State Fault Refusal :=
  let s1 := s.reach t
  commit s (if s1.trc.anchorAt + s1.inForce 0x5301 0 600 * 1000000000 ≤ s1.clk.now then s1.requestAnchor else s1)

/-- The POS after the anchor that is being copied, if the ring still holds it. -/
def Trc.copyEnd (q : Trc) : List TItem → Nat → Option Nat
  | [], _ => none
  | x :: t, p => if q.heldBack x then some (p + x.span) else q.copyEnd t (p + x.span)

/-- ANCHOR_COPY_COMPLETE (14 R420): the copy of the stores is done and COMPLETE is set; the items after the anchor count from here (14 R422). -/
def execAnchorCopyComplete (s : State) : Host.Outcome State Fault Refusal :=
  commit s (match s.trc.anchorCopy with
    | none => s
    | some b =>
      match s.trc.copyEnd s.trc.items s.trc.lost with
      | none => s.upTrc (fun q => { q with anchorCopy := none })
      | some p =>
        let done (x : TItem) : TItem :=
          if s.trc.heldBack x then { x with anchor := x.anchor.map (fun a => { a with complete := true }) } else x
        (s.upTrc (fun q => { q with
          items := q.items.map done, anchorCopy := none, anchorBeat := b, anchorPos := p })).trcCause 0)

/-- ANCHOR_MISSED (14 R422): 65,536 beats passed without an anchor boundary; the request stays pending. -/
def execAnchorMissed (s : State) : Host.Outcome State Fault Refusal :=
  commit s (if s.trc.anchorReq && decide (65536 ≤ s.trc.anchorWait) then
    (s.upTrc (fun q => { q with anchorWait := 0 })).trcCause 1 else s)

/-- RING_FROZEN (14 R424): the POST_TRIGGER beats have passed, or beats have stopped. -/
def execRingFrozen (s : State) : Host.Outcome State Fault Refusal :=
  commit s (if s.trc.st = 1 ∧ (s.trc.postLeft = 0 ∨ !s.clk.running) then
    s.ringFrozen else s)

/-- STREAM_DATAGRAM_SEND (14 R426, R427): from the address of entry 0x1110 to the destination of entry 0x5305, over E5. -/
def execStreamDatagramSend (ecc : List Ecc) (s : State) : Host.Outcome State Fault Refusal :=
  commit s (
    if !s.trc.streaming || !s.domainOn 7 || !s.net.link.getLsbD 5 then s
    else
      let s := s.ringReads ecc s.trc.streamPos (min (s.trc.streamPos + 1456) (s.trc.lost + s.trc.readable.length))
      let b := ((s.trc.readable.drop (s.trc.streamPos - s.trc.lost)).take 1456)
      if b.isEmpty then s
      else
        let d := leBytes 8 s.trc.streamPos ++ leBytes 2 b.length ++ leBytes 2 (bit s.trc.gapNext) ++ zeros 4 ++ b
        (s.upTrc (fun q => { q with streamPos := q.streamPos + b.length, gapNext := false })).send (.trace (s.inForce 0x1110 1 0) (s.inForce 0x5305 2 0) (s.inForce 0x5305 3 41795) d))

/-- A segment of entry 0x5310, in the replay role only (14 R428, R434, 11 R331). -/
def State.replaySegment (s : State) (off : Nat) (data : List Byte) (last : Bool) : Ans :=
  if s.pwr.role ≠ .replay then s.no stRole s.csw.role.code
  else if s.trc.replay = 2 then s.no stBusy 1000
  else
    let part := if off = 0 then [] else s.trc.loadPart
    let drop := s.upTrc (fun q => { q with loadPart := [] })
    if off ≠ part.length then drop.no stRange 0
    else if s.trc.cap < off + data.length then drop.no stTooLarge s.trc.cap
    else if last then (s.upTrc (fun q => { q with load := part ++ data, loadPart := [], replay := 1 })).ok
    else (s.upTrc (fun q => { q with loadPart := part ++ data })).ok

/-- The replay is stopped by REPLAY_CMD 2 (14 R431). -/
def State.stopReplay (s : State) : State := if s.replaying then s.endReplay 3 0 0xFF 0 0 0 else s

/-- The load is discarded by REPLAY_CMD 3 (14 R434). -/
def State.discardReplay (s : State) : State :=
  if s.trc.replay = 2 then s
  else s.upTrc (fun q => { q with load := [], loadPart := [], replayItems := [], replayRuns := [], replay := 0 })

/-- REPLAY_LOAD_SEGMENT (14 R428). -/
def execReplayLoadSegment (off : Nat) (data : List Byte) (last : Bool) (s : State) : Host.Outcome State Fault Refusal :=
  commit s (s.replaySegment off data last).state

/-- REPLAY_STOP (14 R431). -/
def execReplayStop (s : State) : Host.Outcome State Fault Refusal := commit s s.stopReplay

/-- REPLAY_DISCARD (14 R434). -/
def execReplayDiscard (s : State) : Host.Outcome State Fault Refusal := commit s s.discardReplay

end Sys2Proof.Machine
end

