-- ==== Sys2Proof/Machine/Loader.lean ====
section
/-! DEFINITION. Image loading, installation, and the preparation of a program swap (06 R190 to R196, 07 R235 to R238). -/

set_option Elab.async false

namespace Sys2Proof.Machine

open Sys2Proof

/-! ### Staging (06 R190) -/

/-- No staged image is left, nor a map staged with it; the trace ring takes its space back. -/
def State.dropStaged (s : State) : State :=
  ((s.upLdr (fun l => { l with state := 0, staged := [], stagedDigest := zeros 32 })).upDict (fun q => { q with pubPend := [] })).recap

/-- A load that the role does not allow (06 R191 code 22), with the mode code of R504. -/
def State.roleRefuse (s : State) (code : Nat) : State :=
  (s.upLdr (fun l => { l with result := (LoadRes.fail 22).encode })).modeRefuse code

/-- A segment joins the staged bytes. -/
def State.stageMore (s : State) (data : List Byte) (last : Bool) : Ans :=
  let b := s.ldr.staged ++ data
  if 16777216 < b.length then s.dropStaged.no stTooLarge 16777216
  else
    (s.upLdr (fun l => { l with
      staged := b, state := if last then 6 else 1, stagedDigest := if last then padTo 32 (slice b 160 32) else zeros 32 })).recap.ok

/-- A segment written to entry 0x4030 (06 R190, 11 R331, R337). -/
def State.imageSegment (s : State) (off : Nat) (data : List Byte) (last : Bool) : Ans :=
  if s.pwr.role = .station then (s.roleRefuse 3).no stRole s.csw.role.code
  else if s.ldr.state = 2 ∨ s.ldr.state = 5 then s.no stBusy 1000
  else if s.ldr.state = 1 then
    if off = s.ldr.staged.length then s.stageMore data last
    else if off = 0 then s.no stBusy 1000
    else s.dropStaged.no stRange 0
  else if off ≠ 0 then s.no stRange 0
  else (s.dropStaged.upLdr (fun l => { l with result := zeros 16 })).stageMore data last

/-! ### Conversion (06 R196, 07 R236) -/

/-- The staged image decoded. -/
def State.stagedImage (s : State) : Image := readImage s.ldr.staged

/-- The instances that a map matches, creates and removes. -/
def Image.matched (i : Image) : List InstEntry := i.instances.filter (fun x => decide (x.newOff ≠ noOff ∧ x.oldOff ≠ noOff))
@[inherit_doc Image.matched] def Image.created (i : Image) : List InstEntry :=
  i.instances.filter (fun x => decide (x.newOff ≠ noOff ∧ x.oldOff = noOff))
@[inherit_doc Image.matched] def Image.removed (i : Image) : List InstEntry := i.instances.filter (fun x => decide (x.newOff = noOff))

/-- The instance store at its initial values (06 R175). -/
def Image.initMem (i : Image) : Mem := i.inits.foldl (fun m x => memPut m (instBase + x.1) x.2) []

/-- The converted instance state built once from a memory: initial values, then every matched instance byte for byte. -/
def Image.convert (i : Image) (old : Mem) : Mem :=
  i.matched.foldl (fun m x =>
    memPut (memClear m (instBase + x.newOff) (instBase + x.newOff + x.len)) (instBase + x.newOff)
      (memBytes old (instBase + x.oldOff) x.len)) i.initMem

/-- Where a byte of a matched instance goes; none for any other. -/
def Image.moved (i : Image) (a : Nat) : Option Nat :=
  (i.matched.find? (fun x => decide (instBase + x.oldOff ≤ a ∧ a < instBase + x.oldOff + x.len))).map
    (fun x => a - x.oldOff + x.newOff)

/-- An applied milestone's change taken into the converted state (07 R236). -/
def Image.convertOv (i : Image) (o : Ov) (m : Mem) : Mem :=
  o.foldl (fun acc e =>
    match i.moved e.1 with
    | some a => memWrite acc a (mixByte (memRead acc a) e.2.1 e.2.2)
    | none => acc) m

/-- The converted state follows a milestone. -/
def State.convertApplied (s : State) (o : Ov) : State :=
  if s.ldr.converting && s.ldr.swapReady then s.upLdr (fun l => { l with conv := s.stagedImage.convertOv o l.conv }) else s

/-! ### The swap report (07 R238) -/

/-- The names of removed instances, cut at 65,536 bytes, and whether they were cut. -/
def Image.removedNames (i : Image) : List Byte × Bool :=
  let l := i.removed.flatMap (fun x => (i.nameOf x.name).getD [] ++ [0])
  (l.take 65536, decide (65536 < l.length))

/-- The report of a completed or abandoned swap; an abandoned one holds the digests and its code (log 28). -/
def swapReportOf (old new : List Byte) (ms term code gap : Nat) (i : Option Image) : List Byte :=
  padTo 32 old ++ padTo 32 new ++ leBytes 8 ms ++ leBytes 2 term ++ leBytes 1 code ++
    (match i with
     | none => zeros 13 ++ leBytes 4 gap ++ zeros 4
     | some x =>
       leBytes 1 (bit x.removedNames.2) ++ leBytes 4 x.matched.length ++ leBytes 4 x.created.length ++
         leBytes 4 x.removed.length ++ leBytes 4 gap ++ zeros 4 ++ x.removedNames.1)

/-- The preparation of a swap ends without it: 1 by command, 2 by a takeover, whose term and control gap the report holds, 3 by an uncorrectable read (07 R236, R238). The staged image is kept. -/
def State.abandonSwap (s : State) (code term gap : Nat) : State :=
  if s.ldr.converting then
    ((s.upLdr (fun l => { l with
      converting := false, swapReady := false, conv := [], state := 3
      swapReport := swapReportOf l.digest l.stagedDigest 0 term code gap none })).recap).cswCause 10
  else s

/-! ### LOAD_CMD (06 R190) -/

/-- LOAD_CMD 1. -/
def State.loadCheck (s : State) : Ans :=
  if s.ldr.state = 1 ∨ s.ldr.state = 2 then s.no stBusy 1000
  else if s.ldr.state = 3 ∨ s.ldr.state = 4 ∨ s.ldr.state = 6 then (s.upLdr (fun l => { l with state := 2 })).ok
  else s.no stRange 0

/-- LOAD_CMD 2: a SOLO unit, one in the replay role, and one stopped before it had a role install at the next start-up; a STANDBY converts; the other roles report code 22. -/
def State.loadInstall (s : State) : Ans :=
  if s.ldr.state = 1 ∨ s.ldr.state = 2 then s.no stBusy 1000
  else if s.ldr.state ≠ 3 then s.no stRange 0
  else
    match s.csw.role with
    | .active => (s.roleRefuse 4).ok
    | .syncing => (s.roleRefuse 4).ok
    | .failed => (s.roleRefuse 4).ok
    | .standby => (s.upLdr (fun l => { l with state := 5, converting := true })).recap.ok
    | _ => (s.upLdr (fun l => { l with state := 5 })).ok

/-- LOAD_CMD 3. -/
def State.loadDiscard (s : State) : Ans := ((s.abandonSwap 1 0 0).dropStaged).ok

/-- A write to LOAD_CMD. -/
def State.loadCmd (s : State) (v : Nat) : Ans :=
  if v = 1 then s.loadCheck else if v = 2 then s.loadInstall else if v = 3 then s.loadDiscard else s.no stRange 0

/-- The check ends (06 R191, R192). -/
def State.checkDone (s : State) : State :=
  if s.ldr.state ≠ 2 then s
  else
    let r := checkImage s.ldr.staged s.clk.p (s.storedNat 0x4000 0 1000) s.clk.lead s.ldr.img
    s.upLdr (fun l => { l with state := if r.code = 0 then 3 else 4, result := r.encode })

/-- The converted state is built and SWAP_READY is set; an uncorrectable read abandons the swap, and one in the unit's own stores fails it (07 R221, R236, R238). -/
def State.becomeReady (s : State) (ecc : List Ecc) : State :=
  if !s.ldr.converting || s.ldr.swapReady || decide (s.csw.role ≠ .standby) then s
  else
    let s := ecc.foldl (fun acc x => if x.hard then acc else acc.corrected x.mem x.addr) s
    match ecc.find? (·.hard) with
    | some x =>
      let s := (s.uncorrectable x.mem x.addr).abandonSwap 3 0 0
      (match x.mem with
       | .program | .inst | .shadow | .image => s.giveUp
       | _ => s)
    | none => s.upLdr (fun l => { l with swapReady := true, conv := s.stagedImage.convert s.sto.lmem })

/-! ### Installation (06 R190, 07 R237) -/

/-- An image in the program store, with the map staged with it (11 R328). -/
def State.placeImage (s : State) (b : List Byte) : State :=
  let i := readImage b
  ((s.upSto (fun x => { x with program := memPut [] 0 b })).upLdr (fun l => { l with
    img := some i, digest := i.digest, state := 0, staged := [], stagedDigest := zeros 32, installing := false
    converting := false, swapReady := false, conv := [] })).upDict (fun q => { q with
      pubMap := q.pubPend, pubPend := [], pubNext := none })

/-! ### Meanings -/

/-- IMAGE_LOAD_SEGMENT (06 R190). -/
def execImageLoadSegment (off : Nat) (data : List Byte) (last : Bool) (s : State) : Host.Outcome State Fault Refusal :=
  commit s (s.imageSegment off data last).state

/-- LOAD_CMD_CHECK (06 R190). -/
def execLoadCmdCheck (s : State) : Host.Outcome State Fault Refusal := commit s s.loadCheck.state

/-- LOAD_CHECK_DONE (06 R191). -/
def execLoadCheckDone (s : State) : Host.Outcome State Fault Refusal := commit s s.checkDone

/-- LOAD_CMD_INSTALL (06 R190). -/
def execLoadCmdInstall (s : State) : Host.Outcome State Fault Refusal := commit s s.loadInstall.state

/-- LOAD_CMD_DISCARD (06 R190). -/
def execLoadCmdDiscard (s : State) : Host.Outcome State Fault Refusal := commit s s.loadDiscard.state

/-- SWAP_READY (07 R235, R236): `ecc` are the errors that the conversion's reads find. -/
def execSwapReady (ecc : List Ecc) (s : State) : Host.Outcome State Fault Refusal := commit s (s.becomeReady ecc)

end Sys2Proof.Machine
end

