-- ==== Sys2Proof/Machine/Field.lean ====
section
/-! DEFINITION. Field channels and group supplies (08): what drives a pin, samples and filters, the input latch, group monitors, thermal cycling, open load and logic silence. -/

set_option Elab.async false

namespace Sys2Proof.Machine

open Sys2Proof

/-! ### What drives a pin (08 R255, R256) -/

/-- Output ranges of the tasks whose policy-1 safe state is in force. -/
def State.safeRanges (s : State) : List (Nat × Nat × Nat) :=
  match s.ldr.img with
  | none => []
  | some i => (i.table s.sto.tableReduced).flatMap (fun r => if (s.task r.task).faultSafe then i.rowOuts r else [])

/-- Does digital output bit `j` lie in one of the ranges? -/
def inRanges (l : List (Nat × Nat × Nat)) (j : Nat) : Bool :=
  l.any (fun o => decide (o.1 = 0 ∧ o.2.1 ≤ j ∧ j < o.2.1 + o.2.2))

/-- A safe state is in force for every channel (08 R256). -/
def State.allSafe (s : State) : Bool :=
  s.fio.expired || s.fio.haltSafe || decide (s.pwr.role = .replay) || (s.fio.released && !s.fio.launchSeen)

/-- A safe state is in force for channel `c`, `rs` being the safe ranges (08 R256). -/
def State.chanSafe (s : State) (rs : List (Nat × Nat × Nat)) (c : Nat) : Bool := s.allSafe || inRanges rs c

/-- The drivers are off (08 R255 row 2, R266 DRIVERS_OFF). -/
def State.driversOff (s : State) : Bool := s.csw.driversOff || !s.fio.released

/-- The value last launched for channel `c`: row 4 of R255. A unit that hands over holds those of its own last launches, whatever launches of its partner its milestones give (07 R230, R525). -/
def State.launchedBit (s : State) (c : Nat) : Bool :=
  (memRead (if s.csw.holdOutputs then s.csw.heldOut else s.sto.launched) (doutBase + c / 8)).getLsbD (c % 8)

/-- What the first applicable row of R255 drives, thermal cycling aside. -/
def State.driveVal (s : State) (rs : List (Nat × Nat × Nat)) (c : Nat) (ch : Chan) : Bool :=
  if ch.mode ≠ 3 then false
  else if (s.group (c / 64)).off then false
  else if s.driversOff then false
  else if s.chanSafe rs c then
    (if ch.safeVal = 1 then true else if ch.safeVal = 2 then ch.everLaunched && s.launchedBit c else false)
  else s.launchedBit c

/-- The stagger offset of channel `c` in ns (08 R254). -/
def stagger (c : Nat) : Nat := 10000 * ((c % 64) / 8)

/-- One channel after the drive conditions may have changed at `now`: a switch-off acts at once and clears the thermal flag, a switch-on falls due after the offset; a switch that has tripped waits until it has cooled (08 R251, R254). -/
def Chan.redrive (ch : Chan) (c now : Nat) (on : Bool) : Chan :=
  if !on then { ch with conduct := false, onAt := none, ovld := false }
  else if ch.conduct || ch.tripped || ch.onAt.isSome then ch
  else { ch with onAt := some (now + stagger c) }

/-- Every pin follows R255. -/
def State.redrive (s : State) : State :=
  let rs := s.safeRanges
  s.upFio (fun f => { f with chans := f.chans.mapIdx (fun c ch => ch.redrive c s.clk.now (s.driveVal rs c ch)) })

/-- A new output image arrives at the field subsystem (08 R257): EXPIRED clears, the pins follow. -/
def State.imageArrives (s : State) : State := (s.upFio (fun f => { f with expired := false })).redrive

/-- An output set is launched locally: the bits and words of the output image (02 R49, R50, 08 R256). -/
def State.launchLocal (s : State) (o : Ov) : State :=
  let s := s.upSto (fun x => { x with launched := o.apply x.launched })
  s.upFio (fun f => { f with
    launchSeen := true
    chans := f.chans.mapIdx (fun c ch =>
      if (Ov.byte (o.map (fun e => (e.1, (e.2.1, 0xFF)))) (doutBase + c / 8) 0).getLsbD (c % 8) then
        { ch with everLaunched := true } else ch) })

/-! ### Group supplies (08 R259 to R263) -/

/-- A flag of group `g` was set or the group became qualified; an unused group raises nothing (08 R259). -/
def State.grpEvent (s : State) (g sev : Nat) : State :=
  if (s.group g).used then
    (s.upFio (fun f => { f with cause := setBit f.cause g true })).occurSev (0x0B00 + g) g sev []
  else s

/-- The output release of start-up (08 R258): safe values until the first launch; an unqualified group is switched off with GRP_LOW latched, a flag that its cause bit shows (19 R508, 08 R266). -/
def State.outputRelease (s : State) : State :=
  let s := (List.range 8).foldl (fun acc i =>
    if (acc.group i).qualified then acc
    else (acc.upGroup i (fun g => { g with off := true, low := true })).grpEvent i 3) s
  (s.upFio (fun f => { f with released := true })).redrive

/-- Does a new sample `x` make a crossing of the condition `p`: it and the sample before satisfy it, and not already the two before? -/
def FieldGroup.crosses (g : FieldGroup) (p : Nat → Bool) (x : Nat) : Bool :=
  decide (1 ≤ g.seen) && p x && p g.mv && !(decide (2 ≤ g.seen) && p g.prevMv)

/-- A re-application that is pending is cancelled: a new qualification and a new acknowledgement are needed (08 R263). -/
def FieldGroup.cancel (g : FieldGroup) : FieldGroup :=
  if g.reapply then { g with reapply := false, qualified := false, qualCount := 0 } else g

/-- Does a supply voltage lie in the band of R260? -/
def inBand (x : Nat) : Bool := decide (19200 ≤ x ∧ x ≤ 30000)

/-- A group supply sample in mV with the group current in mA (08 R259, R260). -/
def State.grpSample (s : State) (i x ma : Nat) : State :=
  let g := s.group i
  let high := g.crosses (fun v => decide (30000 < v)) x
  let warn := g.crosses (fun v => decide (v < 19200)) x
  let low := g.crosses (fun v => decide (v < 16000)) x
  let inv := g.crosses (fun v => decide (v < 15000)) x
  let miss := g.crosses (fun v => decide (v < 5000)) x
  let s := s.upGroup i (fun g =>
    let g := if low then { g.cancel with low := true, off := true } else g
    { g with
      high := g.high || high, warn := g.warn || warn, invalid := g.invalid || inv, missing := g.missing || miss
      crossed15 := g.crossed15 || inv
      qualified := g.qualified && inBand x
      qualCount := if inBand x then min 2000 (g.qualCount + 1) else 0
      prevMv := g.mv, mv := x, ma := min 0xFFFF ma, seen := min 2 (g.seen + 1) })
  let s := if warn then s.grpEvent i 4 else s
  let s := if high then s.grpEvent i 4 else s
  let s := if low then s.grpEvent i 3 else s
  let s := if inv then s.grpEvent i 3 else s
  if miss then s.grpEvent i 2 else s

/-- Groups that have qualified before the first command after START_UP, each with its voltage in mV (08 R258, R260). -/
def State.groupsQualified (s : State) (l : List (Nat × Nat)) : State :=
  l.foldl (fun acc x =>
    if x.1 < 8 ∧ inBand x.2 ∧ !(acc.group x.1).qualified then
      (acc.upGroup x.1 (fun g => { g with
        qualified := true, everQualified := true, qualCount := 2000, prevMv := x.2, mv := x.2, seen := 2 })).grpEvent x.1 5
    else acc) s

/-- Groups acknowledged by the bits of a mask (08 R261): effective only while qualified with a latched flag. -/
def State.ackGroups (s : State) (mask : Nat) : State :=
  s.upFio (fun f => { f with groups := f.groups.mapIdx (fun i g =>
    if mask.testBit i && g.qualified && (g.low || g.overcurrent) then { g with reapply := true } else g) })

/-- With GRP_RESTORE 1 the re-application of a qualified group that is off by GRP_LOW alone falls due at the next boundary (08 R261, R263). -/
def FieldGroup.selfRestore (g : FieldGroup) : FieldGroup :=
  if g.restore && g.qualified && g.low && !g.overcurrent then { g with reapply := true } else g

/-- Re-application at a beat boundary, after the launches due there (08 R262); RESTORED is raised for a group in use (08 R259). -/
def State.reapply (s : State) : State :=
  if (s.fio.groups.toList).any (·.reapply) then
    let used := (s.fio.groups.toList).any (fun g => g.reapply && g.used)
    let s := s.upFio (fun f => { f with groups := f.groups.map (fun g =>
      if g.reapply then { g with low := false, overcurrent := false, off := false, reapply := false } else g) })
    (if used then s.fioCause 11 0 else s).redrive
  else s

/-! ### Inputs (08 R245 to R249, R264) -/

/-- The falling threshold of channel `c` in mV, from 5 V to 1 V below the level `hi` that reads 1 (08 R245; log 44). -/
def fallLevel (hi c : Nat) : Nat := 5000 + Config.inputFall c % (hi - 5999)

/-- Its rising threshold, at least 1 V above and at most `hi`. -/
def riseLevel (hi c : Nat) : Nat := fallLevel hi c + 1000 + Config.inputRise c % (hi - fallLevel hi c - 999)

/-- The level that a pin voltage in mV reads, `last` being the reading before: 1 from the rising threshold on, 0 up to the falling one, the last reading between them, and a free value outside the protected range. -/
def readLevel (hi use c : Nat) (last : Option Bool) (v : Int) : Bool :=
  if v < -30000 ∨ 36000 < v then Config.inputLevel use c
  else if (riseLevel hi c : Int) ≤ v then true
  else if v ≤ fallLevel hi c then false
  else last.getD (Config.inputLevel use c)

/-- The raw sample of a channel: an output is read back against the Type 1 levels (08 R248). -/
def Chan.rawOf (ch : Chan) (use c : Nat) (v : Int) : Bool :=
  if ch.mode = 0 then false
  else readLevel (if ch.mode = 2 then 11000 else 15000) use c (if ch.sampled then some ch.raw else none) v

/-- The filter of R246; the first sample sets the filtered value (08 R249). -/
def Chan.filter1 (ch : Chan) (raw : Bool) : Chan :=
  if !ch.sampled then { ch with sampled := true, raw := raw, filtered := raw, count := 0 }
  else if raw = ch.filtered then { ch with raw := raw, count := 0 }
  else if max 1 (ch.filter / 10) ≤ ch.count + 1 then { ch with raw := raw, filtered := raw, count := 0 }
  else { ch with raw := raw, count := ch.count + 1 }

/-- The input image bit of a channel at the latch (08 R244, R248, R259). -/
def State.inputBit (s : State) (c : Nat) (ch : Chan) : Bool :=
  if ch.mode = 3 then ch.raw
  else if ch.mode = 1 ∨ ch.mode = 2 then ch.filtered && !(s.group (c / 64)).invalid
  else false

/-- The quality bit of a channel at the latch (08 R264). -/
def State.qualityBit (s : State) (rs : List (Nat × Nat × Nat)) (c : Nat) (ch : Chan) : Bool :=
  let g := s.group (c / 64)
  if ch.mode = 1 ∨ ch.mode = 2 then g.used && (g.qualified || !g.crossed15)
  else if ch.mode = 3 then
    !g.off && !s.driversOff && !s.chanSafe rs c && !ch.ovld && !ch.openLoad
  else false

/-- Eight bits as a byte, bit 0 first. -/
def byteOf (f : Nat → Bool) : Byte := BitVec.ofNat 8 ((List.range 8).foldl (fun n i => n + 2 ^ i * bit (f i)) 0)

/-- The input latch at T(n) − A (08 R247, R264, 17 R489): the local part of the input view. In the replay role the trace fills the view (14 R429). -/
def State.latchLocal (s : State) : State :=
  if s.pwr.role = .replay then s
  else
    let rs := s.safeRanges
    let s := s.upFio (fun f => { f with chans := f.chans.mapIdx (fun c ch => { ch with quality := s.qualityBit rs c ch }) })
    let din := (List.range 64).map (fun k => byteOf (fun i => s.inputBit (8 * k + i) (s.chan (8 * k + i))))
    let qual := (List.range 64).map (fun k => byteOf (fun i => (s.chan (8 * k + i)).quality))
    s.upSto (fun x =>
      let v := memPut (memPut x.inView dinBase din) localQualBase qual
      { x with inView := if s.met.base = 0xFFFFFFFF then v else memPut v (ainBase + 4 * s.met.base) (s.met.block s.clk.now) })

/-- Is the sample instant `t` that of T(n + 1) − A: the sample nearest to it (02 R43; log 22)? Before the first boundary, whose instant is still to come, every sample is latched. -/
def State.isLatch (s : State) (t : Nat) : Bool :=
  let x := s.clk.beatAt + 1000 * s.clk.p
  let y := t + 1000 * s.clk.adv
  if s.clk.running then decide (x < y + 5000) && decide (y ≤ x + 5000) else s.pwr.started

/-! ### Meanings -/

/-- RAW_SAMPLE (08 R246): pin voltages in mV (an unlisted pin is at 0 V), group supplies in mV and group currents in mA. -/
def execRawSample (t : Nat) (pins : List (Nat × Int)) (supply current : List Nat) (s : State) :
    Host.Outcome State Fault Refusal :=
  commit s (
    let s := s.reach t
    if !s.domainOn 10 then s
    else
      let use := s.free
      let s := s.useFree.upFio (fun f => { f with chans := f.chans.mapIdx (fun c ch =>
        let raw := ch.rawOf use c ((aget pins c).getD 0)
        if ch.mode = 3 then { ch with raw := raw, sampled := true } else ch.filter1 raw) })
      let s := (List.range 8).foldl (fun acc i => acc.grpSample i (supply[i]?.getD 0) (current[i]?.getD 0)) s
      let s := s.redrive
      if s.isLatch t then s.latchLocal else s)

/-- GROUP_QUALIFIED (08 R260): 2,000 consecutive samples lay within the band. At the first qualification since the domain powered up, re-application needs no acknowledgement (19 R508). -/
def execGroupQualified (g : Nat) (s : State) : Host.Outcome State Fault Refusal :=
  commit s (
    let x := s.group g
    if x.qualified ∨ x.qualCount < 2000 ∨ 8 ≤ g then s
    else
      (s.upGroup g (fun x => FieldGroup.selfRestore { x with
        qualified := true, warn := false, high := false, invalid := false, missing := false, crossed15 := false
        reapply := x.reapply || (!x.everQualified && (x.low || x.overcurrent)), everQualified := true })).grpEvent g 5)

/-- GRP_OVERCURRENT (08 R253): the group current stayed above 12 A for 2 ms. -/
def execGrpOvercurrent (g : Nat) (s : State) : Host.Outcome State Fault Refusal :=
  commit s (if 8 ≤ g then s
    else ((s.upGroup g (fun x => { x.cancel with overcurrent := true, off := true })).grpEvent g 3).redrive)

/-- THERMAL_TRIP (08 R251): a conducting channel reaches its trip temperature. -/
def execThermalTrip (c : Nat) (s : State) : Host.Outcome State Fault Refusal :=
  commit s (
    let ch := s.chan c
    if !ch.conduct then s
    else
      let s1 := s.upChan c (fun x => { x with conduct := false, tripped := true, ovld := true })
      if ch.ovld then s1 else s1.fioCause 9 c)

/-- THERMAL_COOLED (08 R251): the channel switches on again for as long as R255 drives it on. -/
def execThermalCooled (c : Nat) (s : State) : Host.Outcome State Fault Refusal :=
  commit s (
    let ch := s.chan c
    if !ch.tripped then s
    else s.upChan c (fun x => { x with tripped := false, conduct := s.driveVal s.safeRanges c ch }))

/-- OVERLOAD_CLEAR (08 R251): the channel has conducted for 100 ms without a trip. -/
def execOverloadClear (c : Nat) (s : State) : Host.Outcome State Fault Refusal :=
  commit s (s.upChan c (fun x => if x.conduct then { x with ovld := false } else x))

/-- OPEN_LOAD_DETECT (08 R252): on for 20 ms below the threshold; detection is suspended during thermal cycling. -/
def execOpenLoadDetect (c : Nat) (s : State) : Host.Outcome State Fault Refusal :=
  commit s (
    let ch := s.chan c
    if !ch.openEn || !ch.conduct || ch.ovld || ch.openLoad then s
    else (s.upChan c (fun x => { x with openLoad := true })).fioCause 8 c)

/-- OPEN_LOAD_CLEAR (08 R252): on for 20 ms with the current at or above 5 mA. -/
def execOpenLoadClear (c : Nat) (s : State) : Host.Outcome State Fault Refusal :=
  commit s (s.upChan c (fun x => if x.conduct then { x with openLoad := false } else x))

/-- STAGGERED_SWITCH_ON (08 R254): the switch-on of channel c that has fallen due by `t`. -/
def execStaggeredSwitchOn (c t : Nat) (s : State) : Host.Outcome State Fault Refusal :=
  let s1 := s.reach t
  commit s (s1.upChan c (fun x =>
    match x.onAt with
    | some d => if d ≤ s1.clk.now then { x with onAt := none, conduct := true } else x
    | none => x))

/-- LOGIC_SILENCE_EXPIRY (08 R257, 09 R290, R291): no output image arrived for the timeout; a station sets STATE.REJOIN. -/
def execLogicSilenceExpiry (s : State) : Host.Outcome State Fault Refusal :=
  commit s (if s.fio.expired then s
    else
      let s := ((s.upFio (fun f => { f with expired := true })).fioCause 10 0).redrive
      if s.pwr.role = .station then s.upNet (fun n => { n with stRejoin := true }) else s)

end Sys2Proof.Machine
end

