-- ==== Sys2Proof/Machine/Net.lean ====
section
/-! DEFINITION. Plant network: ports and PRP, the shared clock, station frames in both directions, the station slots of a controller, and the NET registers (09, 02 R44, 07 R232, R233). -/

set_option Elab.async false

namespace Sys2Proof.Machine

open Sys2Proof

/-! ### Ports and PRP (09 R268, R269) -/

/-- Is PRP enabled for a pair (09 R296 entry 0x1100)? -/
def State.prpOn (s : State) (pair : Nat) : Bool := decide (s.inForce 0x1100 (1 + pair) 1 ≠ 0)

/-- The ports that carry the station frames of a PORT code; E5 carries none while trace streaming is enabled (09 R268, R269, R296). -/
def State.portsOf (s : State) (code : Nat) : List Nat :=
  if code = 0 then (if s.prpOn 0 then [0, 1] else [0])
  else if code = 1 then (if s.prpOn 1 then [2, 3] else [2])
  else if code = 2 then [4]
  else if s.trc.streaming then [] else [5]

/-- Does a port take station frames: E5 not while trace streaming is enabled, the upper port of a pair only with PRP (09 R268, R269)? -/
def State.stationPort (s : State) (port : Nat) : Bool :=
  if port < 4 then s.prpOn (port / 2) || decide (port % 2 = 0)
  else if port = 5 then !s.trc.streaming
  else decide (port = 4)

/-- Has a pair exactly one port down? -/
def degraded (link : BitVec 6) (pair : Nat) : Bool := link.getLsbD (2 * pair) != link.getLsbD (2 * pair + 1)

/-- Bit `i` of a vector of bits replaced. -/
def bvBit {n : Nat} (b : BitVec n) (i : Nat) (v : Bool) : BitVec n :=
  if v then b ||| (1#n <<< i) else b &&& ~~~ (1#n <<< i)

/-- A PRP pair's degradation follows its links. -/
def State.prpCheck (s : State) (pair : Nat) : State :=
  let now := s.prpOn pair && degraded s.net.link pair
  let before := s.net.prpDeg.getLsbD pair
  let s := s.upNet (fun n => { n with prpDeg := bvBit n.prpDeg pair now })
  if now && !before then s.netCause 1 pair else s

/-- Big-endian bytes. -/
def beBytes (n v : Nat) : List Byte := (leBytes n v).reverse

/-- A big-endian field. -/
def getBE (l : List Byte) (off n : Nat) : Nat := leNat (slice l off n).reverse

/-- The module's own factory address. -/
def ownMac : List Byte := (List.range 6).map Config.macByte

/-- The PRP redundancy control trailer of IEC 62439-3 (log 26): sequence number, LAN and size, suffix. -/
def rct (seq port len : Nat) : List Byte :=
  beBytes 2 seq ++ beBytes 2 ((if port % 2 = 0 then 0xA000 else 0xB000) + (len + 6) % 4096) ++ [0x88, 0xFB]

/-- The octets that a payload for a PORT code puts on port `q` (09 R269, R273): addresses, tag, EtherType, padded payload and, where the code has two ports, the redundancy control trailer. -/
def State.ethOctets (s : State) (code : Nat) (dst payload : List Byte) (q : Nat) : List Byte :=
  let p := payload ++ zeros (46 - payload.length)
  dst ++ ownMac ++ [0x81, 0x00] ++ beBytes 2 (s.inForce 0x1100 4 6 * 8192 + s.inForce 0x1100 3 0) ++ [0x88, 0xB5] ++
    (p ++ (if (s.portsOf code).length = 2 then rct (vget s.net.prpSeq code 0) q p.length else []))

/-- The next PRP sequence number of a pair is used up. -/
def State.nextPrp (s : State) (code : Nat) : State :=
  s.upNet (fun n => { n with prpSeq := vset n.prpSeq code ((vget s.net.prpSeq code 0 + 1) % 65536) })

/-- A payload sent as an Ethernet frame on the given ports of a PORT code (09 R269, R273). -/
def State.sendEthOn (s : State) (ports : List Nat) (code : Nat) (dst payload : List Byte) : State :=
  let octets := s.ethOctets code dst payload
  let s := ports.foldl (fun acc q => acc.send (.eth q (octets q))) s
  if (s.portsOf code).length = 2 then s.nextPrp code else s

/-- A frame that is no station frame sent from a port: in a PRP pair on both ports that are up, with the redundancy control trailer (09 R269). -/
def State.sendPlain (s : State) (port : Nat) (f : List Byte) : State :=
  let p := f.drop 14 ++ zeros (60 - f.length)
  if port < 4 ∧ s.prpOn (port / 2) then
    let code := port / 2
    let seq := vget s.net.prpSeq code 0
    let s := ([2 * code, 2 * code + 1].filter s.net.link.getLsbD).foldl (fun acc q => acc.send (.eth q (f.take 14 ++ p ++ rct seq q p.length))) s
    s.nextPrp code
  else if s.net.link.getLsbD port then s.send (.eth port (f.take 14 ++ p))
  else s

/-- The payload of a received station frame and whether an HSR frame was received (09 R269, R273). -/
inductive EthKind where
  | station (src payload : List Byte)
  | hsr
  | other
  deriving DecidableEq, Repr

/-- A received Ethernet frame sorted: untagged, priority-tagged or with the configured VID. -/
def State.ethKind (s : State) (f : List Byte) : EthKind :=
  let t := getBE f 12 2
  if t = 0x88B5 then .station (slice f 6 6) (f.drop 14)
  else if t = 0x892F then .hsr
  else if t = 0x8100 then
    let vid := getBE f 14 2 % 4096
    if getBE f 16 2 = 0x892F then .hsr
    else if getBE f 16 2 = 0x88B5 ∧ (vid = 0 ∨ vid = s.inForce 0x1100 3 0) then .station (slice f 6 6) (f.drop 18)
    else .other
  else .other

/-- Source address and sequence number of a frame with a redundancy control trailer. -/
def prpKey (f : List Byte) : Option (List Byte) :=
  if 20 ≤ f.length ∧ f.drop (f.length - 2) = [0x88, 0xFB] then some (slice f 6 6 ++ slice f (f.length - 6) 2) else none

/-- How long a frame is remembered for the duplicate discard: EntryForgetTime of IEC 62439-3, 400 ms (log 26). -/
def prpForget : Nat := 400000000

/-- Duplicate discard (09 R269): is the frame the second copy, and the record of first copies, from which old ones age out. -/
def State.prpSeen (s : State) (port : Nat) (f : List Byte) : Bool × State :=
  if 4 ≤ port ∨ !s.prpOn (port / 2) then (false, s)
  else
    match prpKey f with
    | none => (false, s)
    | some k =>
      let twin := leBytes 1 (if port % 2 = 0 then port + 1 else port - 1) ++ k
      let own := leBytes 1 port ++ k
      let young := s.net.seen.filter (fun x => decide (s.clk.now < x.1 + prpForget))
      if young.any (fun x => decide (x.2 = twin)) then
        (true, s.upNet (fun n => { n with seen := young.filter (fun x => decide (x.2 ≠ twin)), prpDup := sat32 n.prpDup }))
      else (false, s.upNet (fun n => { n with seen := (s.clk.now, own) :: young.filter (fun x => decide (x.2 ≠ own)) }))

/-! ### The shared clock (09 R270, R271) -/

/-- Lock is lost: the last frequency correction is held (09 R271). -/
def State.loseLock (s : State) : State :=
  if s.clk.locked then
    (s.upClk (fun c => { c with locked := false, holdover := true })).netCause 3 0
  else s

/-- Lock is gained; at the first lock the node's clock steps to the PTP timescale (12 R368). -/
def State.gainLock (s : State) : State :=
  if s.clk.locked then s
  else (s.upClk (fun c => { c with
    locked := true, holdover := false, everLocked := true, outCount := 0, ptpOff := if c.everLocked then c.ptpOff else c.ptpServo })).netCause 2 0

/-- The lock state follows the counts of Sync messages and stepsRemoved (09 R271). -/
def State.relock (s : State) : State :=
  if s.clk.locked then (if 4 ≤ s.clk.outCount ∨ 16 < s.clk.steps then s.loseLock else s)
  else if 8 ≤ s.clk.inCount ∧ s.clk.steps ≤ 16 then s.gainLock
  else s

/-- The largest frequency correction, ppb (01 R21). -/
def slewMax : Int := 100000

/-- May this clock be master on a port (09 R270)? -/
def State.ptpMaster (s : State) (port : Nat) : Bool :=
  s.domainOn 7 && (s.inForce 0x1200 3 0x0F).testBit port && s.net.link.getLsbD port &&
    (s.clk.gm || decide (s.inForce 0x1200 1 0 = 1))

/-- Is a port peer-to-peer (09 R270)? -/
def State.ptpP2p (s : State) (port : Nat) : Bool := (s.inForce 0x1200 4 0).testBit port

/-- DOMAIN and TRANSPORT of entry 0x1200 (09 R270, R296). -/
def State.ptpDomain (s : State) : Nat := s.inForce 0x1200 2 0
@[inherit_doc State.ptpDomain] def State.ptpUdp (s : State) : Bool := decide (s.inForce 0x1200 5 0 = 1)

/-- A PTP message leaves a port, in the configured domain and transport and with LOG_SYNC (09 R270, R296). -/
def State.sendPtp (s : State) (port : Nat) (k : PtpOut) : State :=
  s.send (.ptp port k s.ptpNow s.ptpDomain s.ptpUdp (s.inForce 0x1200 6 0xFC))

/-- A PTP message at a port (09 R270, R271, 01 R21). Until the first lock the servo's clock is kept apart from the node's own, which runs free (12 R368). A master answers a Delay_Req on an end-to-end port; a peer-to-peer port answers a Pdelay_Req, in two steps. -/
def State.ptpMessage (s : State) (port : Nat) (m : PtpMsg) : State :=
  match m with
  | .sync offset freq clock =>
    (s.upClk (fun c => { c with
      offset := offset
      freq := max (-slewMax) (min slewMax freq)
      slewLimited := decide (freq < -slewMax ∨ slewMax < freq)
      ptpServo := (clock : Int) - c.now
      ptpOff := if c.everLocked then (clock : Int) - c.now else c.ptpOff
      ppsSecond := if c.everLocked then 0 else c.ppsSecond
      inCount := if offset.natAbs ≤ 200 then min 8 (c.inCount + 1) else 0
      outCount := if offset.natAbs ≤ 200 then 0 else min 4 (c.outCount + 1) })).relock
  | .announce cls steps gm st =>
    (s.upClk (fun c => { c with gmClass := cls, steps := steps, gm := gm, portState := st })).relock
  | .delayReq => if s.ptpMaster port && !s.ptpP2p port then s.sendPtp port .delayResp else s
  | .pdelayReq =>
    if s.ptpP2p port && s.net.link.getLsbD port then (s.sendPtp port .pdelayResp).sendPtp port .pdelayFollowUp else s
  | .other => s

/-! ### Beat instants on the PTP scale (02 R34) -/

/-- An instant of powered time on the PTP clock. -/
def State.ptpAt (s : State) (t : Nat) : Nat := ((t : Int) + s.clk.scale t).toNat

/-- T(n) in ns on the node's PTP clock; before the first boundary, counted from the instant at which it is due. -/
def State.beatNs (s : State) (n : Nat) : Nat :=
  let p := 1000 * s.clk.p
  if s.clk.ptpNum then n * p
  else if !s.clk.running then s.ptpAt s.clk.firstAt + n * p
  else ((s.clk.beatAt : Int) + s.clk.scale s.clk.beatAt + ((n : Int) - s.clk.beat) * (p : Nat)).toNat

/-- The first boundary of the module's beats is due at `t` (09 R281, R284). -/
def State.firstDue (s : State) (t : Nat) : State := if s.clk.running then s else s.upClk (fun c => { c with firstAt := t })

/-- The number of the coming beat: 0 before the first (02 R35). -/
def State.comingBeat (s : State) : Nat := if s.clk.running then s.clk.beat + 1 else 0

/-! ### Station frames (09 R274 to R278) -/

/-- FLAGS of a frame sent now, but for HOLD and RETRY (09 R274). -/
def State.frameFlags (s : State) : Nat :=
  if s.clk.running then bit s.sync + 2 * bit s.clk.ptpNum else 0

/-- A station frame: its header and its payload. -/
def State.stFrame (s : State) (type dst term beat launch flags task : Nat) (payload : List Byte) : List Byte :=
  leBytes 1 1 ++ leBytes 1 type ++ leBytes 2 (32 + payload.length) ++ leBytes 2 s.node ++ leBytes 2 dst ++
    leBytes 6 beat ++ leBytes 2 term ++ leBytes 8 launch ++ leBytes 4 s.clk.p ++ leBytes 1 flags ++ leBytes 1 task ++
    zeros 2 ++ payload

/-- Fields of a received station frame. -/
def frType (p : List Byte) : Nat := byteAt p 1
@[inherit_doc frType] def frSrc (p : List Byte) : Nat := getLE p 4 2
@[inherit_doc frType] def frDst (p : List Byte) : Nat := getLE p 6 2
@[inherit_doc frType] def frSeq (p : List Byte) : Nat := getLE p 8 8
@[inherit_doc frType] def frBeat (p : List Byte) : Nat := getLE p 8 6
@[inherit_doc frType] def frTerm (p : List Byte) : Nat := getLE p 14 2
@[inherit_doc frType] def frLaunch (p : List Byte) : Nat := getLE p 16 8
@[inherit_doc frType] def frPeriod (p : List Byte) : Nat := getLE p 24 4
@[inherit_doc frType] def frFlags (p : List Byte) : Nat := byteAt p 28
@[inherit_doc frType] def frTask (p : List Byte) : Nat := byteAt p 29
@[inherit_doc frType] def frSync (p : List Byte) : Bool := (frFlags p).testBit 0
@[inherit_doc frType] def frPtp (p : List Byte) : Bool := (frFlags p).testBit 1
@[inherit_doc frType] def frHold (p : List Byte) : Bool := (frFlags p).testBit 2
@[inherit_doc frType] def frRetry (p : List Byte) : Bool := (frFlags p).testBit 3

/-- Is a count of bits or words legal: in range, and a multiple of 32? -/
def countOk (n max : Nat) : Bool := decide (n ≤ max) && decide (n % 32 = 0)

/-- The payload of a type is well formed, and LENGTH agrees with it (09 R276 to R279). -/
def payloadOk (p : List Byte) : Bool :=
  let len := getLE p 2 2
  let type := frType p
  if type = 1 then
    let di := getLE p 40 2
    let ai := getLE p 42 2
    countOk di 512 && countOk ai 256 && decide (len = 48 + di / 8 + 4 * ai) &&
      decide (byteAt p 36 < 32) && decide (byteAt p 39 = 0) && decide (getLE p 44 4 = 0)
  else if type = 2 then
    let d := getLE p 32 2
    let a := getLE p 34 2
    countOk d 512 && countOk a 256 && decide (len = 40 + d / 4 + a / 8 + 4 * a) && decide (getLE p 36 4 = 0)
  else if type = 3 then
    decide (len = 48) && decide (byteAt p 36 < 32) && decide (byteAt p 39 = 0)
  else if type = 4 then decide (len = 48) && allZero (slice p 34 14)
  else false

/-- The zero fields of the header (09 R274, R279). -/
def headerOk (p : List Byte) : Bool :=
  decide (byteAt p 0 = 1) && decide (frSrc p < 1024) && decide (getLE p 30 2 = 0) && decide (frFlags p < 16) &&
    (decide (frType p = 2) || decide (frTask p = 0)) &&
    (decide (frType p = 1 ∨ frType p = 2) || decide (frLaunch p = 0)) &&
    decide (getLE p 2 2 ≤ p.length)

/-- Is the frame for this node (09 R279)? -/
def State.frameForUs (s : State) (p : List Byte) : Bool :=
  decide (frDst p = s.node) || (decide (frDst p = 0xFFFF) && decide (frType p = 1 ∨ frType p = 3))

/-- A discarded frame is counted (09 R279, R282, R286 check 1). -/
def State.rxErr (s : State) : State := s.upNet (fun n => { n with rxErr := sat32 n.rxErr })

/-! ### Station slots of a controller (09 R280) -/

/-- A field of a slot's configuration. -/
def State.slotCfg (s : State) (i sub d : Nat) : Nat := s.inForce (0x1400 + i) sub d

/-- NODE of a slot; 0xFFFF for an unused one. -/
def State.slotNode (s : State) (i : Nat) : Nat := s.slotCfg i 1 0xFFFF

/-- The slots in use. -/
def State.usedSlots (s : State) : List Nat := (List.range 256).filter (fun i => decide (s.slotNode i ≠ 0xFFFF))

/-- The slot of a node. -/
def State.slotOf (s : State) (node : Nat) : Option Nat := s.usedSlots.find? (fun i => decide (s.slotNode i = node))

/-! ### Sending (09 R284, R285, R293) -/

/-- The destination address of a frame to a slot, or to the controllers (09 R273). -/
def State.frameMac (s : State) (slot : Nat) : List Byte :=
  let a := s.inForce 0x1300 1 0xFFFF
  let b := s.inForce 0x1300 2 0xFFFF
  if slot < 256 then [0x03, 0x57, 0x4B, 0x02] ++ beBytes 2 (s.slotNode slot)
  else [0x03, 0x57, 0x4B, 0x01] ++ beBytes 2 (min a b)

/-- The PORT code of a slot, or of a station. -/
def State.framePort (s : State) (slot : Nat) : Nat :=
  if slot < 256 then s.slotCfg slot 2 0 else s.inForce 0x1300 5 0

/-- Has the launch instant of a queued frame been reached when the PTP clock reads `c` (09 R284)? -/
def lateAt (c : Nat) (x : TxFrame) : Bool :=
  match x.launch with
  | some l => decide (l ≤ c)
  | none => false

/-- A frame still queued at its launch instant is dropped and counted (09 R284). -/
def State.dropLate (s : State) (t : Nat) : State :=
  let late := lateAt (s.ptpAt t)
  let gone := s.net.txq.filter late
  let s := s.upNet (fun n => { n with
    txq := n.txq.filter (fun x => !late x), txLate := satAdd 0xFFFFFFFF n.txLate gone.length })
  gone.foldl (fun acc x => acc.netCause 6 x.slot) s

/-- How long a station frame of `n` bytes occupies its port, ns (09 R293). -/
def lineTime (n : Nat) : Nat := 8 * (max n 46 + 48)

/-- The instant at which a frame sent now would leave port `q`: when the line is free of those before it (09 R284, R293). -/
def State.leavesAt (s : State) (q : Nat) : Nat := max s.clk.now (vget s.net.lineAt q 0)

/-- The ports on which a queued frame leaves: those of its slot that are up and whose line it reaches before its launch instant (09 R284, R293). -/
def State.openPorts (s : State) (x : TxFrame) : List Nat :=
  (s.portsOf (s.framePort x.slot)).filter (fun q => s.net.link.getLsbD q && !lateAt (s.ptpAt (s.leavesAt q)) x)

/-- One queued frame leaves its ports, which it occupies, or stays queued where none takes it in time; an OUTPUT frame or a claim then waits for its STATUS (09 R284, R285, R293). -/
def State.sendFrame (s : State) (x : TxFrame) : State :=
  let ports := s.openPorts x
  let at' := s.leavesAt (ports.headD 0)
  if ports.isEmpty then s.upNet (fun n => { n with txq := n.txq ++ [x] })
  else
    let s := s.sendEthOn ports (s.framePort x.slot) (s.frameMac x.slot) x.bytes
    let s := s.upNet (fun n => { n with
      lineAt := ports.foldl (fun v q => vset v q (max s.clk.now (vget v q 0) + lineTime x.bytes.length)) n.lineAt })
    if x.slot < 256 ∧ !x.retried then
      s.upNet (fun n => { n with unacked := n.unacked ++ [{ x with sentAt := at' }] })
    else s

/-- Queued frames leave in their order (09 R284), late ones being dropped. -/
def State.drain (s : State) : State :=
  let s := s.dropLate s.clk.now
  let go := s.net.txq
  go.foldl State.sendFrame (s.upNet (fun n => { n with txq := [] }))

/-- A station frame is queued at its ports; it leaves at once where a port is up (09 R284). -/
def State.queueFrame (s : State) (slot : Nat) (launch : Option Nat) (retried : Bool) (b : List Byte) : State :=
  (s.upNet (fun n => { n with
    txq := n.txq ++ [{ slot := slot, bytes := b, launch := launch, sentAt := 0, retried := retried }] })).drain

/-! ### OUTPUT frames of a controller (09 R277, R284, R291, R292) -/

/-- An OUTPUT payload: the output set `o` over a slot's block, with masks. -/
def State.outPayload (s : State) (i : Nat) (o : Ov) : List Byte :=
  let d := s.slotCfg i 8 0
  let db := doutBase + s.slotCfg i 7 0 / 8
  let a := s.slotCfg i 10 0
  let ab := aoutBase + 4 * s.slotCfg i 9 0
  let mask (x : Nat) : Byte := ((o.find? (fun e => decide (e.1 = x))).map (fun e => e.2.1)).getD 0
  leBytes 2 d ++ leBytes 2 a ++ zeros 4 ++
    (List.range (d / 8)).map (fun k => Ov.byte o (db + k) 0) ++
    (List.range (d / 8)).map (fun k => mask (db + k)) ++
    (List.range (a / 8)).map (fun k => byteOf (fun j => decide (mask (ab + 4 * (8 * k + j)) ≠ 0))) ++
    (List.range (4 * a)).map (fun k => Ov.byte o (ab + k) 0)

/-- Does a slot's block hold a bit or word of an output set? -/
def State.slotTouched (s : State) (i : Nat) (o : Ov) : Bool :=
  let db := doutBase + s.slotCfg i 7 0 / 8
  let ab := aoutBase + 4 * s.slotCfg i 9 0
  o.any (fun e => decide (e.2.1 ≠ 0) &&
    (decide (db ≤ e.1 ∧ e.1 < db + s.slotCfg i 8 0 / 8) || decide (ab ≤ e.1 ∧ e.1 < ab + 4 * s.slotCfg i 10 0)))

/-- An OUTPUT frame to a slot for launch T(beat) is queued; while the station is REJOINING it carries HOLD (09 R291, R292). -/
def State.queueOutput (s : State) (i task beat launch : Nat) (payload : List Byte) : State :=
  let hold := (s.slot i).rejoin
  let f := s.stFrame 2 (s.slotNode i) s.csw.term beat launch (s.frameFlags + 4 * bit hold) task payload
  (s.upSlot i (fun x => { x with sentFor := insertNat launch x.sentFor })).queueFrame i (some launch) false f

/-- The task frames of a completed run (09 R284), `o` being the task's whole output set, for launch T(m). -/
def State.taskFrames (s : State) (t m : Nat) (o : Ov) : State :=
  (s.usedSlots.filter (fun i => s.slotTouched i o)).foldl (fun acc i =>
    acc.queueOutput i t m (acc.beatNs m) (acc.outPayload i o)) s

/-- The whole of a slot's block as last launched (09 R292). -/
def State.blockLaunched (s : State) (i : Nat) : Ov :=
  let d := s.slotCfg i 8 0 / 8
  let db := doutBase + s.slotCfg i 7 0 / 8
  let a := 4 * s.slotCfg i 10 0
  let ab := aoutBase + 4 * s.slotCfg i 9 0
  Ov.putBytes (Ov.putBytes [] db (memBytes s.sto.launched db d)) ab (memBytes s.sto.launched ab a)

/-- The resume frame of a station re-admitted at T(n) (09 R292), with launch T(n + 1). -/
def State.resumeFrame (s : State) (i : Nat) : State :=
  let m := s.clk.beat + 1
  s.queueOutput i 0xFE m (s.beatNs m) (s.outPayload i (s.blockLaunched i))

/-- Keep-alives for launch T(m) to each station not yet sent a frame for it (09 R284). -/
def State.keepAlives (s : State) (m : Nat) : State :=
  let l := s.beatNs m
  (s.usedSlots.filter (fun i => !(s.slot i).sentFor.contains l)).foldl (fun acc i =>
    acc.queueOutput i 0xFF m l (zeros 8)) s

/-- The term claim of a unit that becomes ACTIVE or SOLO goes to every station in a slot ahead of its other frames (07 R203, 09 R285). -/
def State.termClaim (s : State) (prev : Nat) : State :=
  let beat := if s.clk.running then s.clk.beat else 0
  let s := s.upNet (fun n => { n with txq := [], unacked := [] })
  s.usedSlots.foldl (fun acc i =>
    acc.queueFrame i none false (acc.stFrame 4 (acc.slotNode i) acc.csw.term beat 0 acc.frameFlags 0 (leBytes 2 prev ++ zeros 14))) s

/-! ### INPUT frames at a controller (09 R282, R283, R291, R292) -/

/-- A station's report of its accepted term and node (07 R203, R232, R233). -/
def State.stationReport (s : State) (i term node : Nat) : State :=
  let s := s.upSlot i (fun x => { x with accTerm := max x.accTerm term, accNode := node })
  let s := if term = s.csw.term ∧ node = s.node then s.upCsw (fun c => { c with termConfirmed := true }) else s
  if s.csw.role = .active ∧ (s.csw.term < term ∨ (term = s.csw.term ∧ node ≠ s.node)) then
    (s.cswCause 7).enterFailed 3
  else s

/-- A superseded or obsolete INPUT frame is counted. -/
def State.countSuperseded (s : State) : State := s.upNet (fun n => { n with superseded := sat32 n.superseded })

/-- An INPUT frame at a controller, arrived at `t` (09 R282). -/
def State.inputFrame (s : State) (t : Nat) (p : List Byte) : State :=
  match s.slotOf (frSrc p) with
  | none => s.rxErr
  | some i =>
    if getLE p 40 2 ≠ s.slotCfg i 4 0 ∨ getLE p 42 2 ≠ s.slotCfg i 6 0 then s.rxErr
    else
      let s := s.stationReport i (getLE p 32 2) (getLE p 34 2)
      if frPeriod p ≠ s.clk.p then s.netCause 9 i
      else
        let x := s.slot i
        let again := (byteAt p 36).testBit 3
        let last := if frPtp p then x.lastBeat1 else x.lastBeat0
        let old := match last with
          | some b => decide (frBeat p ≤ b) && !again
          | none => false
        if old then s.countSuperseded
        else
          let s := if again then s.upSlot i (fun y =>
              if frPtp p then { y with lastBeat1 := none } else { y with lastBeat0 := none }) else s
          s.upSlot i (fun y => { y with frames := y.frames ++ [(t, p)] })

/-- The frames of a slot that belong to the beat of this boundary: those stamped before T(n) (02 R44). -/
def State.beatFrames (s : State) (i : Nat) : List (Nat × List Byte) :=
  (s.slot i).frames.filter (fun f => decide (f.1 < s.clk.beatAt))

/-- Of several frames the one with the highest sequence number is used (02 R44). -/
def bestFrame : List (Nat × List Byte) → Option (Nat × List Byte)
  | [] => none
  | f :: t =>
    match bestFrame t with
    | none => some f
    | some g => if frSeq f.2 < frSeq g.2 then some g else some f

/-- The frames that belonged to this beat are gone; all but one count as superseded (02 R44). -/
def State.spendFrames (s : State) (i : Nat) : State :=
  let k := (s.beatFrames i).length
  let s := s.upSlot i (fun y => { y with frames := y.frames.filter (fun f => !decide (f.1 < s.clk.beatAt)) })
  s.upNet (fun n => { n with superseded := satAdd 0xFFFFFFFF n.superseded (k - 1) })

/-- The slot uses a frame at the latch, arrived at `t0`, `many` when others belonged to the beat: blocks, quality bytes and record (09 R282, R283). -/
def State.useFrame (s : State) (i t0 : Nat) (p : List Byte) (many : Bool) : State :=
  let di := s.slotCfg i 4 0 / 8
  let unsync := !frSync p || (byteAt p 36).testBit 4
  let q : List Byte :=
    leBytes 1 (1 + 4 * bit unsync + 16 * bit ((byteAt p 36).testBit 0) + 32 * bit ((byteAt p 36).testBit 2) + 64 * bit many) ++
      leBytes 1 0 ++ slice p 37 2 ++ slice p 32 4 ++ slice p 8 8
  let s := s.upSto (fun y => { y with
    inView := memPut (memPut (memPut y.inView (dinBase + s.slotCfg i 3 0 / 8) (slice p 48 di))
      (ainBase + 4 * s.slotCfg i 5 0) (slice p (48 + di) (4 * s.slotCfg i 6 0))) (qualBase + 16 * i) q })
  let s := s.upTrc (fun r => { r with
    stations := r.stations ++ [{ slot := i, many := many, at' := t0, seq := frSeq p }] })
  s.upSlot i (fun y => { y with
    stale := false, rejoin := false, valid := true, acked := false, qual := q
    lastBeat0 := if frPtp p then y.lastBeat0 else some (frBeat p)
    lastBeat1 := if frPtp p then some (frBeat p) else y.lastBeat1 })

/-- The slot uses no frame at the latch, `many` when several belonged to the beat: it is STALE and REJOINING (09 R283, R291). -/
def State.slotStale (s : State) (i : Nat) (many : Bool) : State :=
  let x := s.slot i
  let q : List Byte := leBytes 1 (2 + 8 + 64 * bit many) ++ leBytes 1 (satAdd 255 (byteAt x.qual 1) 1) ++ x.qual.drop 2
  let s1 := if x.stale then s else s.netCause 4 i
  let s1 := s1.upSto (fun y => { y with inView := memPut y.inView (qualBase + 16 * i) q })
  s1.upSlot i (fun y => { y with
    stale := true, rejoin := true, valid := false, acked := y.rejoin && y.acked, qual := q })

/-- One slot at the latch, with whether it was re-admitted (09 R291, R292). -/
def State.latchSlot (s : State) (i : Nat) : State × Bool :=
  let x := s.slot i
  let own := s.beatFrames i
  let many := decide (1 < own.length)
  let s := s.spendFrames i
  match bestFrame own with
  | none => (s.slotStale i false, false)
  | some f =>
    if !x.rejoin then (s.useFrame i f.1 f.2 many, false)
    else if s.slotCfg i 11 0 = 0 || x.acked then ((s.useFrame i f.1 f.2 many).netCause 5 i, true)
    else (s.slotStale i many, false)

/-- The station slots at the latch of a boundary, with the slots re-admitted there. -/
def State.latchStations (s : State) : State × List Nat :=
  let r := s.usedSlots.foldl (fun (acc : State × List Nat) i =>
    let x := acc.1.latchSlot i
    (x.1, if x.2 then acc.2 ++ [i] else acc.2)) (s, [])
  (r.1.upNet (fun n => { n with validSlots := (n.slots.toList.filter (·.valid)).length }), r.2)

/-- The launch instants that have been reached are forgotten. -/
def State.pruneSent (s : State) (l : Nat) : State :=
  s.upNet (fun n => { n with slots := n.slots.map (fun x =>
    if x.sentFor.isEmpty then x else { x with sentFor := x.sentFor.filter (fun y => decide (l < y)) }) })

/-- A STATUS at a controller (09 R278, R285): it answers the frame whose SEQ and TASK it names. -/
def State.statusFrame (s : State) (p : List Byte) : State :=
  match s.slotOf (frSrc p) with
  | none => s
  | some i =>
    let r := byteAt p 37
    let s := s.upNet (fun n => { n with unacked := n.unacked.filter (fun x =>
      !(decide (x.slot = i) && decide (frSeq x.bytes = getLE p 40 8) && decide (frTask x.bytes = byteAt p 38))) })
    let s := if r = 1 ∨ r = 2 then (s.upNet (fun n => { n with termReject := sat32 n.termReject })).netCause 8 i
      else if r = 3 then s.netCause 9 i
      else s
    s.stationReport i (getLE p 32 2) (getLE p 34 2)

/-! ### The station (09 R281, R286 to R288) -/

/-- DST of a station's frames to its controllers. -/
def State.pairDst (s : State) : Nat :=
  if s.inForce 0x1300 2 0xFFFF = 0xFFFF then s.inForce 0x1300 1 0xFFFF else 0xFFFF

/-- STATE of a station (09 R276). -/
def State.stState (s : State) : Nat :=
  bit (s.allSafe || !s.safeRanges.isEmpty) + 2 * bit s.fio.expired + 4 * bit s.net.lastHold + 8 * bit s.net.stRejoin + 16 * bit (!s.isLocked)

/-- ACC_TERM, ACC_NODE and STATE. -/
def State.accFields (s : State) : List Byte := leBytes 2 s.net.accTerm ++ leBytes 2 s.net.accNode ++ leBytes 1 s.stState

/-- The INPUT frame for beat `n` (09 R276, R281). -/
def State.inputSend (s : State) (n : Nat) : State :=
  let di := s.inForce 0x1300 3 512
  let ai := s.inForce 0x1300 4 0
  let groups (f : FieldGroup → Bool) : Byte := byteOf (fun i => f (s.group i))
  let p := s.accFields ++ [groups (·.qualified), groups (·.off)] ++ zeros 1 ++ leBytes 2 di ++ leBytes 2 ai ++ zeros 4 ++
    memBytes s.sto.inView dinBase (di / 8) ++ memBytes s.sto.inView ainBase (4 * ai)
  s.queueFrame 256 none false (s.stFrame 1 s.pairDst s.net.accTerm n (s.beatNs n) s.frameFlags 0 p)

/-- A STATUS that answers a frame (09 R278, R286). -/
def State.statusSend (s : State) (p : List Byte) (reason : Nat) : State :=
  let beat := if s.clk.running then s.clk.beat else 0
  s.queueFrame 256 none false (s.stFrame 3 s.pairDst s.net.accTerm beat 0 s.frameFlags 0
    (s.accFields ++ leBytes 1 reason ++ leBytes 1 (frTask p) ++ zeros 1 ++ leBytes 8 (frSeq p)))

/-- The masked bits and words of an OUTPUT frame over the output image (09 R277). -/
def outputOv (p : List Byte) (o : Ov) : Ov :=
  let d := getLE p 32 2 / 8
  let a := getLE p 34 2
  let o := (List.range d).foldl (fun acc k =>
    let m : Byte := BitVec.ofNat 8 (byteAt p (40 + d + k))
    if m = 0 then acc else Ov.put (doutBase + k) m (BitVec.ofNat 8 (byteAt p (40 + k))) acc) o
  let am := 40 + 2 * d
  (List.range a).foldl (fun acc j =>
    if (byteAt p (am + j / 8)).testBit (j % 8) then
      Ov.putBytes acc (aoutBase + 4 * j) (slice p (am + a / 8 + 4 * j) 4)
    else acc) o

/-- The order in which the frames of one launch apply (09 R287). -/
def applyOrder (p : List Byte) : Nat :=
  if frTask p = 0xFE then 0 else if frTask p ≤ 31 then 1 + frTask p else 33

/-- Accepted frames apply, in their order, as one output image (09 R287): HOLD frames replace nothing; HOLD frames and keep-alives only are no image. -/
def State.applyFrames (s : State) (fs : List (List Byte)) : State :=
  let l := sortBy applyOrder (fs.filter (fun p => decide (frTask p ≤ 31 ∨ 0xFE ≤ frTask p)))
  let s := l.foldl (fun acc p => acc.upNet (fun n => { n with
    lastApp0 := if frPtp p then n.lastApp0 else aput (frTask p) (frBeat p) n.lastApp0
    lastApp1 := if frPtp p then aput (frTask p) (frBeat p) n.lastApp1 else n.lastApp1
    ptpApplied := n.ptpApplied || frPtp p
    stRejoin := n.stRejoin && frHold p })) s
  let img := l.filter (fun p => !frHold p && decide (frTask p ≠ 0xFF))
  if img.isEmpty then s
  else (s.launchLocal (img.foldl (fun o p => outputOv p o) [])).imageArrives

/-- The frames due at a boundary of a station (09 R287). -/
def State.applyDue (s : State) (l : Nat) : State :=
  let due (p : List Byte) : Bool := decide (frLaunch p ≤ l)
  let fs := s.net.buf.filter due
  let s := s.upNet (fun n => { n with buf := n.buf.filter (fun p => !due p) })
  if fs.isEmpty then s else s.applyFrames fs

/-- Is BEAT not above the BEAT last applied for the TASK, or such a frame buffered (09 R286 check 7)? -/
def Net.obsolete (n : Net) (p : List Byte) : Bool :=
  let last := aget (if frPtp p then n.lastApp1 else n.lastApp0) (frTask p)
  (match last with
   | some b => decide (frBeat p ≤ b)
   | none => false) ||
  n.buf.any (fun q => decide (frTask q = frTask p) && decide (frSeq q = frSeq p))

/-- Checks 6 to 11 of R286 on an OUTPUT frame arrived at `t`: the REASON. -/
def State.outputChecks (s : State) (t : Nat) (p : List Byte) : Nat :=
  let timed := frSync p && s.isLocked
  if !frPtp p && s.net.ptpApplied then 5
  else if s.net.obsolete p then 5
  else if timed && decide (frLaunch p < s.ptpAt t + 2000) then 4
  else if timed && decide (s.ptpAt t + 10000000000 + 1000 * s.clk.p < frLaunch p) then 6
  else if 64 ≤ s.net.buf.length then 7
  else 0

/-- An OUTPUT or TERM_CLAIM frame at a station (09 R286, R288). -/
def State.stationCheck (s : State) (t : Nat) (p : List Byte) : State :=
  let src := frSrc p
  if src ≠ s.inForce 0x1300 1 0xFFFF ∧ src ≠ s.inForce 0x1300 2 0xFFFF then s.rxErr
  else if frPeriod p ≠ s.clk.p then (s.netCause 9 src).statusSend p 3
  else
    let reject (s : State) (r : Nat) : State :=
      ((s.upNet (fun n => { n with termReject := sat32 n.termReject })).netCause 8 src).statusSend p r
    let some' := decide (s.net.accNode ≠ 0xFFFF)
    if some' && decide (frTerm p < s.net.accTerm) then reject s 1
    else if some' && decide (frTerm p = s.net.accTerm) && decide (src ≠ s.net.accNode) then reject s 2
    else
      let s := if some' && decide (frTerm p = s.net.accTerm) then s
        else s.upNet (fun n => { n with
          accTerm := frTerm p, accNode := src, ptpApplied := false
          buf := n.buf.filter (fun q => decide (frTerm p ≤ frTerm q)) })
      if frType p = 4 then s.statusSend p 0
      else
        let r := s.outputChecks t p
        if r = 0 then
          let s := s.upNet (fun n => { n with lastHold := frHold p })
          let s := if frSync p && s.isLocked then s.upNet (fun n => { n with buf := n.buf ++ [p] }) else s.applyFrames [p]
          s.statusSend p 0
        else if r = 4 then
          ((s.upNet (fun n => { n with rxLate := sat32 n.rxLate })).netCause 7 src).statusSend p 4
        else s.statusSend p r

/-! ### Reception (09 R269, R273, R279) -/

/-- A frame that bears the own node identity comes from another source address (09 R279). -/
def State.nodeClash (s : State) (mac p : List Byte) : State :=
  if 6 ≤ p.length ∧ frSrc p = s.node ∧ mac ≠ ownMac then
    (s.upNet (fun n => { n with cause := setBit n.cause 11 true })).occurSev 0x0C0B (frSrc p) 2 []
  else s

/-- A well-formed station frame. -/
def State.stationFrame (s : State) (t : Nat) (p : List Byte) : State :=
  match s.pwr.role with
  | .station => if frType p = 2 ∨ frType p = 4 then s.stationCheck t p else s
  | .controller => if frType p = 1 then s.inputFrame t p else if frType p = 3 then s.statusFrame p else s
  | .replay => s

/-- An Ethernet frame of station traffic arrives at a port at `t`, complete but for its FCS. -/
def State.ethArrives (s : State) (port t : Nat) (f : List Byte) : State :=
  let s := s.reach t
  if !s.domainOn 7 then s
  else
    let d := s.prpSeen port f
    if d.1 then d.2
    else
      let s := d.2
      match s.ethKind f with
      | .other => s
      | .hsr => s.rxErr
      | .station mac p =>
        if !s.stationPort port then s
        else
          let s := s.nodeClash mac p
          if headerOk p && payloadOk p && s.frameForUs p then s.stationFrame t p
          else s.rxErr.netCause 10 0

/-! ### ARP and ICMP echo (11 R342) -/

/-- The internet checksum of a list of octets. -/
def inetSum : List Byte → Nat
  | [] => 0
  | [a] => 256 * a.toNat
  | a :: b :: t => 256 * a.toNat + b.toNat + inetSum t

/-- Its one's complement in 16 bits. -/
def inetCheck (l : List Byte) : Nat :=
  let n := inetSum l
  let n := n % 65536 + n / 65536
  let n := n % 65536 + n / 65536
  65535 - n

/-- The own address, four octets in network order. -/
def State.ipBytes (s : State) : List Byte := beBytes 4 (s.inForce 0x1110 1 0)

/-- The answer to an ARP request for the own address. -/
def State.arpAnswer (s : State) (f : List Byte) : Option (List Byte) :=
  if getBE f 12 2 = 0x0806 ∧ getBE f 20 2 = 1 ∧ slice f 38 4 = s.ipBytes then
    some (slice f 22 6 ++ ownMac ++ slice f 12 8 ++ beBytes 2 2 ++ ownMac ++ s.ipBytes ++ slice f 22 10)
  else none

/-- The answer to an ICMP echo request for the own address. -/
def State.echoAnswer (s : State) (f : List Byte) : Option (List Byte) :=
  let hl := 4 * (byteAt f 14 % 16)
  let len := getBE f 16 2
  if getBE f 12 2 = 0x0800 ∧ byteAt f 23 = 1 ∧ slice f 30 4 = s.ipBytes ∧ getBE f 20 2 % 16384 = 0 ∧ byteAt f (14 + hl) = 8 then
    let body := slice f (14 + hl + 4) (len - hl - 4)
    some (slice f 6 6 ++ ownMac ++ slice f 12 14 ++ s.ipBytes ++ slice f 26 4 ++ slice f 34 (hl - 20) ++
      (leBytes 2 0 ++ beBytes 2 (inetCheck (zeros 4 ++ body)) ++ body))
  else none

/-! ### Registers (09 R294, R295) -/

/-- NET_REJOINw. -/
def Net.rejoinWord (x : Net) (w : Nat) : Word :=
  (List.range 32).foldl (fun acc i => setBit acc i (vget x.slots (32 * w + i) Slot.reset).rejoin) 0

/-- NET_STALEw as a word. -/
def Net.staleBits (x : Net) (w : Nat) : Word :=
  (List.range 32).foldl (fun acc i => setBit acc i (vget x.slots (32 * w + i) Slot.reset).stale) 0

/-- NET_STATUS. -/
def State.netStatus (s : State) : Word :=
  w32 (s.net.link.toNat + 64 * s.net.prpDeg.toNat + 256 * bit s.isLocked + 512 * bit s.clk.holdover +
    1024 * bit s.clk.gm + 2048 * bit s.clk.ptpNum + 65536 * s.net.validSlots)

/-- A counter register and its cleared state. -/
def State.netCounter (s : State) (v : Nat) (k : Net → Net) : Word × State := (w32 v, s.upNet k)

/-- A read of a NET register. -/
def State.netRead (s : State) (off : Nat) : Word × State :=
  let n := s.net
  if off = 0x000 then (s.netStatus, s)
  else if off = 0x004 then (n.cause, s)
  else if off = 0x008 then (n.causeEn, s)
  else if off = 0x00C then (i32 (max (-2147483648) (min 2147483647 s.clk.offset)), s)
  else if off = 0x010 then (w32 ((if s.inForce 0x1200 3 0x0F % 64 = 0 then 0 else s.clk.portState % 16) + 16 * min 15 s.clk.steps + 256 * (s.clk.gmClass % 256)), s)
  else if off = 0x014 then s.netCounter n.rxErr (fun n => { n with rxErr := 0 })
  else if off = 0x018 then s.netCounter n.rxLate (fun n => { n with rxLate := 0 })
  else if off = 0x01C then s.netCounter n.superseded (fun n => { n with superseded := 0 })
  else if off = 0x020 then s.netCounter n.txLate (fun n => { n with txLate := 0 })
  else if off = 0x024 then s.netCounter n.termReject (fun n => { n with termReject := 0 })
  else if off = 0x028 then s.netCounter n.prpDup (fun n => { n with prpDup := 0 })
  else if 0x030 ≤ off ∧ off < 0x050 then (n.staleBits ((off - 0x030) / 4), s)
  else if 0x050 ≤ off ∧ off < 0x070 then (n.rejoinWord ((off - 0x050) / 4), s)
  else (0, s)

/-- A write to a NET register. -/
def State.netWrite (s : State) (off : Nat) (v : Word) : WriteAns :=
  if off = 0x004 then .done (s.upNet (fun n => { n with cause := w1c n.cause v }))
  else if off = 0x008 then .done (s.upNet (fun n => { n with causeEn := v &&& 0xFFF }))
  else .done s

/-! ### Meanings -/

/-- ETH_LINK_CHANGE (09 R268, R269). -/
def execEthLinkChange (port : Nat) (up : Bool) (s : State) : Host.Outcome State Fault Refusal :=
  commit s (
    if !s.domainOn 7 ∨ 6 ≤ port ∨ s.net.link.getLsbD port = up then s
    else
      let s := (s.upNet (fun n => { n with link := bvBit n.link port up })).netCause 0 port
      (if port < 4 then s.prpCheck (port / 2) else s).drain)

/-- PRP_SUPERVISION_SEND (09 R269). -/
def execPrpSupervisionSend (pair : Nat) (s : State) : Host.Outcome State Fault Refusal :=
  commit s (
    if !s.domainOn 7 ∨ 2 ≤ pair ∨ !s.prpOn pair then s
    else [2 * pair, 2 * pair + 1].foldl (fun acc q => if acc.net.link.getLsbD q then acc.send (.prp q) else acc) s)

/-- PTP_MESSAGE_RECEIVE (09 R270, R271): on a port that entry 0x1200 makes a PTP port, in its DOMAIN and by its TRANSPORT; `udp` tells whether the message came in UDP over IPv4. -/
def execPtpMessageReceive (port t domain : Nat) (udp : Bool) (msg : PtpMsg) (s : State) : Host.Outcome State Fault Refusal :=
  let s1 := s.reach t
  commit s (
    if s1.domainOn 7 && (s1.inForce 0x1200 3 0x0F).testBit port && decide (domain = s1.ptpDomain) && (udp == s1.ptpUdp) then
      s1.ptpMessage port msg
    else s1)

/-- ANNOUNCE_RECEIPT_TIMEOUT (09 R271): lock ends, and the node takes itself for grandmaster (log 13). -/
def execAnnounceReceiptTimeout (t : Nat) (s : State) : Host.Outcome State Fault Refusal :=
  commit s (
    let s := s.reach t
    if !s.domainOn 7 ∨ s.inForce 0x1200 3 0x0F % 64 = 0 then s
    else s.loseLock.upClk (fun c => { c with
      inCount := 0, outCount := 0, gm := true, steps := 0, portState := 6, gmClass := Config.clockClass }))

/-- PTP_SYNC_SEND (09 R270): a two-step Sync of a master port. -/
def execPtpSyncSend (port t : Nat) (s : State) : Host.Outcome State Fault Refusal :=
  commit s (
    let s := s.reach t
    if s.ptpMaster port then (s.sendPtp port .sync).sendPtp port .followUp else s)

/-- PTP_ANNOUNCE_SEND (09 R270, R271). -/
def execPtpAnnounceSend (port : Nat) (s : State) : Host.Outcome State Fault Refusal :=
  commit s (
    if s.ptpMaster port then s.sendPtp port (.announce (s.inForce 0x1200 7 128) (s.inForce 0x1200 8 128) s.clk.steps)
    else s)

/-- PTP_DELAY_REQUEST_SEND (09 R270): peer-to-peer on the ports of P2P_PORTS, else end-to-end by a slave. -/
def execPtpDelayRequestSend (port : Nat) (s : State) : Host.Outcome State Fault Refusal :=
  commit s (
    if !(s.domainOn 7 && (s.inForce 0x1200 3 0x0F).testBit port && s.net.link.getLsbD port) then s
    else if s.ptpP2p port then s.sendPtp port .pdelayReq
    else if s.clk.gm then s
    else s.sendPtp port .delayReq)

/-- PPS_IN_EDGE (19 R514): `offset` is how long after the node's second boundary the edge lies; the boundary moves to it by slewing. -/
def execPpsInEdge (offset : Int) (s : State) : Host.Outcome State Fault Refusal :=
  commit s (
    if s.clk.gm && decide (offset.natAbs ≤ 500000000) then
      s.upClk (fun c => { c with ptpOff := c.scale c.now, ppsAt := c.now, ppsSecond := offset })
    else s)

/-- PPS_OUT_PULSE (19 R512): a second boundary of the node's PTP time. -/
def execPpsOutPulse (s : State) : Host.Outcome State Fault Refusal :=
  commit s (s.upClk (fun c => { c with ppsOut := c.ppsOut + 1 }))

/-- REF_LOST (01 R20): the PLL changes over to the crystal. -/
def execRefLost (s : State) : Host.Outcome State Fault Refusal :=
  commit s (if s.clk.refT1 then (s.upClk (fun c => { c with refT1 := false })).occur 0x3001 0 [] else s)

/-- STATION_INPUT_SEND (09 R281): for the beat whose sample was taken last, at the sample instant T(n) − A `t`; the first beat's frame goes out before its boundary (19 R519 step 10). -/
def execStationInputSend (t : Nat) (s : State) : Host.Outcome State Fault Refusal :=
  commit s (
    let s := s.reach t
    if s.pwr.role = .station ∧ s.pwr.started ∧ s.domainOn 7 then
      let s := s.firstDue (t + 1000 * s.clk.adv)
      s.inputSend s.comingBeat
    else s)

/-- STATION_INPUT_RECEIVE (09 R282, 02 R44). -/
def execStationInputReceive (port t : Nat) (frame : List Byte) (s : State) : Host.Outcome State Fault Refusal :=
  commit s (s.ethArrives port t frame)

/-- OUTPUT_FRAME_RECEIVE (09 R286). -/
def execOutputFrameReceive (port t : Nat) (frame : List Byte) (s : State) : Host.Outcome State Fault Refusal :=
  commit s (s.ethArrives port t frame)

/-- TERM_CLAIM_RECEIVE (09 R286). -/
def execTermClaimReceive (port t : Nat) (frame : List Byte) (s : State) : Host.Outcome State Fault Refusal :=
  commit s (s.ethArrives port t frame)

/-- STATUS_RECEIVE (09 R278). -/
def execStatusReceive (port t : Nat) (frame : List Byte) (s : State) : Host.Outcome State Fault Refusal :=
  commit s (s.ethArrives port t frame)

/-- KEEP_ALIVE_SEND (09 R284): at T(m) − L, T(m) being the coming boundary. -/
def execKeepAliveSend (t : Nat) (s : State) : Host.Outcome State Fault Refusal :=
  commit s (
    let s := s.reach t
    if s.executes ∧ s.pwr.started ∧ s.pwr.role = .controller ∧ s.domainOn 7 then
      let s := s.firstDue (t + 1000 * s.clk.lead)
      s.keepAlives s.comingBeat
    else s)

/-- WARM_START_FRAMES (09 R284, 02 R61): at T(b) − L, before the first beat; the task frames carry the last durable output image. -/
def execWarmStartFrames (t : Nat) (s : State) : Host.Outcome State Fault Refusal :=
  commit s (
    let s := s.reach t
    if s.executes ∧ !s.clk.running ∧ s.pwr.role = .controller ∧ s.domainOn 7 then
      match s.ldr.img with
      | none => s
      | some i =>
        let s := s.firstDue (t + 1000 * s.clk.lead)
        ((i.table s.sto.tableReduced).filter (fun r => (s.task r.task).outRun)).foldl (fun acc r =>
          let o := acc.outsOf r.task acc.sto.lmem
          (acc.usedSlots.filter (fun k => acc.slotTouched k o)).foldl (fun a k =>
            a.queueOutput k r.task r.phase (a.beatNs r.phase) (a.outPayload k o)) acc) s
    else s)

/-- ACK_WAIT_EXPIRY (09 R285): frames unanswered for ACK_WAIT are sent once more, an OUTPUT frame with RETRY and only when its launch lies at least 20 µs later. -/
def execAckWaitExpiry (t : Nat) (s : State) : Host.Outcome State Fault Refusal :=
  commit s (
    let s := s.reach t
    let wait := 1000 * s.inForce 0x1100 5 100
    let out := s.net.unacked.filter (fun x => decide (x.sentAt + wait ≤ t))
    let s := s.upNet (fun n => { n with unacked := n.unacked.filter (fun x => !decide (x.sentAt + wait ≤ t)) })
    if !s.governs then s
    else out.foldl (fun acc x =>
      match x.launch with
      | none => acc.queueFrame x.slot none true x.bytes
      | some l =>
        if acc.ptpAt t + 20000 ≤ l then
          acc.queueFrame x.slot (some l) true (patch x.bytes 28 (leBytes 1 (frFlags x.bytes + (if frRetry x.bytes then 0 else 8))))
        else acc) s)

/-- TX_LATE_DROP (09 R284, R293). -/
def execTxLateDrop (t : Nat) (s : State) : Host.Outcome State Fault Refusal :=
  let s1 := s.reach t
  commit s (s1.dropLate t)

/-- READMIT_ACK (09 R292): a write of 1 to sub-index 12 of a slot, effective while it is REJOINING. -/
def execReadmitAck (slot t : Nat) (s : State) : Host.Outcome State Fault Refusal :=
  let s1 := s.reach t
  commit s (s1.upSlot slot (fun x => if x.rejoin then { x with acked := true } else x))

/-- ARP_ICMP_ECHO_REQUEST (11 R342): the second copy of a request on a PRP pair is discarded, and the answer leaves like every frame of the pair (09 R269). -/
def execArpIcmpEchoRequest (port : Nat) (frame : List Byte) (s : State) : Host.Outcome State Fault Refusal :=
  commit s (
    if !s.domainOn 7 ∨ s.inForce 0x1110 1 0 = 0 then s
    else
      let d := s.prpSeen port frame
      if d.1 then d.2
      else
        match d.2.arpAnswer frame with
        | some a => d.2.sendPlain port a
        | none =>
          match d.2.echoAnswer frame with
          | some a => d.2.sendPlain port a
          | none => d.2)

end Sys2Proof.Machine
end

