-- ==== Sys2Proof/Machine/Begin.lean ====
section
/-! DEFINITION. Terms, the entry into ACTIVE and SOLO, and the last steps of a start-up (07 R202 to R205, 19 R518 steps 7 to 10, R520, R521). -/

set_option Elab.async false

namespace Sys2Proof.Machine

open Sys2Proof

/-! ### Terms (07 R203, R205) -/

/-- The highest of the own term, the partner's, and those that stations report. -/
def State.highTerm (s : State) : Nat :=
  s.net.slots.toList.foldl (fun m x => max m x.accTerm) (max s.csw.term s.csw.partnerTerm)

/-- The unit takes its new term, or cannot; TERM_LOW is raised from 0xFF00 on. -/
def State.takeTerm (s : State) : Option State :=
  let n := s.highTerm + 1
  if 0xFFFF < n then none
  else
    let s := s.upCsw (fun c => { c with term := n, termConfirmed := false })
    some (if 0xFF00 ≤ n then s.cswCause 12 else s)

/-- The unit becomes ACTIVE or SOLO with a new term and claims its stations, or enters FAILED with reason 5. -/
def State.govern (s : State) (r : RoleState) (reason gap : Nat) : State :=
  match s.takeTerm with
  | none => (s.cswCause 12).enterFailed 5
  | some s1 => (s1.transition r reason gap).termClaim s.csw.term

/-! ### Minimum lane set (06 R179, R180) -/

/-- Does MIN_SET include carriageway 2 or 3? -/
def State.minSetWide (s : State) : Bool :=
  match s.ldr.img with
  | some i => decide (4 ≤ i.minSet)
  | none => false

/-- Has the image a reduced table? -/
def State.hasReduced (s : State) : Bool :=
  match s.ldr.img with
  | some i => !i.reduced.isEmpty
  | none => false

/-- The lane set is unavailable in Reduced: the record of severity 4 names MIN_SET (06 R180, 18 R496, R504 code 8). -/
def State.laneSetRecord (s : State) : State :=
  let m := match s.ldr.img with
    | some i => i.minSet
    | none => 0
  (s.occurSev 0x0104 0 4 (leBytes 1 m)).modeRefuse 8

/-! ### The end of a start-up -/

/-- START_REPORT (19 R521). -/
def State.startReport (s : State) (code step detail : Nat) : State :=
  s.upPwr (fun p => { p with
    report := leBytes 1 code ++ leBytes 1 step ++ leBytes 1 detail ++ zeros 1 ++
      leBytes 4 (min 0xFFFFFFFF ((s.clk.now - p.startAt) / 1000000)) ++ leBytes 8 s.sto.msDurable })

/-- A start-up stops (19 R520). Codes 2 to 5 halt the module; 6 waits for VIN; 1 is the recovery service. -/
def State.stopStart (s : State) (code step detail : Nat) : State :=
  let s := (s.startReport code step detail).upPwr (fun p => { p with stopped := true, recovery := decide (code = 1) })
  if code = 1 ∨ code = 6 then s
  else (s.upSto (fun x => { x with halted := true })).exeCause 5 []

/-- The power state in which the first beat runs (19 R518): Reduced, under the reduced table, when VIN lies below 9 V. -/
def State.firstState (s : State) : State :=
  if s.pwr.vinMv < 9000 then
    let s := ((s.upPwr (fun p => { p with state := .reduced, vinLow := true, domains := p.domains &&& ~~~ 0x030#12 })).powerCause 0).powerCause 1
    s.upSto (fun x => { x with tableReduced := s.hasReduced })
  else s.upPwr (fun p => { p with state := .run })

/-- A Parked request ends without Parked: SLEEP_ABORT is set and ABORT_SRC holds `src` (16 R471, 18 R503). -/
def State.endPark (s : State) (src : BitVec 6) : State :=
  (((s.upPwr (fun p => { p with parkReq := 0 })).upDict (fun d => { d with parked := false })).upRtc
    (fun r => { r with abortSrc := src })).powerCause 3

/-- Steps 8 to 10 of start-up once the role state stands: output release, waymarks, and beats from the next boundary on (19 R518, R519). -/
def State.finishStart (s : State) : State :=
  if s.pwr.vinMv < 9000 ∧ s.minSetWide then s.stopStart 6 9 0
  else
    let s := s.firstState
    let s := if s.governs then (s.upCsw (fun c => { c with driversOff := false })).outputRelease else s
    let s := (s.armServices s.clk.now).startReport 0 10 0
    s.upPwr (fun p => { p with started := true, stopped := false, runAt := s.clk.now })

end Sys2Proof.Machine
end

