-- ==== Sys2Proof/Machine/Cluster.lean ====
section
/-! DEFINITION. The execution cluster: the start of a run, bundle issue, landing, transfers, iterations and write-backs, with the carriageway comparators and illegal bundles (03 R87 to R116, 04 R136 to R143, 05 R155 to R163, 06 R177). -/

set_option Elab.async false

namespace Sys2Proof.Machine

open Sys2Proof

/-! ### Fetch (03 R101, R105, R108 cause 9) -/

/-- The size of the program store. -/
def programSize : Nat := 16777216

/-- Up to `n` words of the program store from `pc`, ending at the store's end. -/
def fetchWords (m : Mem) (pc : Nat) : Nat → List Word
  | 0 => []
  | n + 1 => if pc + 4 ≤ programSize then memWord m pc :: fetchWords m (pc + 4) n else []

/-- Fetched words with an upset (03 R112). -/
def upsetWords (u : Upset) (ws : List Word) : List Word :=
  match u with
  | .fetch i m => match ws[i]? with
    | some w => ws.set i (w ^^^ m)
    | none => ws
  | _ => ws

/-- Registers with an upset. -/
def upsetRegs (u : Upset) (r : Reg) : Reg :=
  match u with
  | .reg n m => if n = 0 then r else { r with g := vup r.g n 0 (· ^^^ m) }
  | _ => r

/-! ### Bank waits (03 R97, 04 R125) -/

/-- The lane cycle in which a bundle issues: the first from `c` on in which the lane owns the bank that its access names as formed from the registers of that cycle; `shift` is 1 for a trailing lane, whose waits are the leading lane's (03 R97, R110, 04 R125). No wait is defined for a bundle of two shared accesses, which is illegal (03 R100, R108 cause 7): it would issue in the cycle it is ready (DEDUCED, log 41). -/
def issueCycle (owner shift n : Nat) (banks : Reg → List Nat) (flight : List Landing) (r : Reg) : Nat → Nat → Nat
  | 0, c => c
  | fuel + 1, c =>
    match banks (landThrough c flight r).1 with
    | [b] => if ownsBank owner b ((c - shift) % n) then c else issueCycle owner shift n banks flight r fuel (c + 1)
    | _ => c

/-- The banks of a bundle's accesses; a syllable repeated zero times makes none (03 R100, 04 R143). -/
def bundleBanks (b : Bundle) (r : Reg) : List Nat :=
  match b.syls with
  | [] => []
  | w :: t =>
    (if b.rep && decide (r.rc = 0) then [] else sylBanks r b.ext w) ++ t.flatMap (sylBanks r none)

/-! ### The environment of an issue -/

/-- What the syllables of lane `l` see in cycle `c` with registers `r`. -/
def State.env (s : State) (l t c : Nat) (run : Run) (r : Reg) (rep : Option Rep) : Env :=
  let ln := s.lane l
  let img := s.ldr.img
  let row := s.row t
  let tr := s.isTrailing l
  { regs := r, lane := l, cyc := c, beatCyc := (if tr then c - 1 else c) % s.beatCycles, trailing := tr, ext := none,
    scratch := ln.scratch, base := run.base, view := run.view, writes := run.writes, x := s.clu.x, tag := t,
    rel := run.rel, first := run.first, calDate := run.calDate, calTime := run.calTime,
    period := (row.map TaskRow.period).getD 0, p := s.clk.p, task := t,
    outs := match img, row with
      | some i, some w => i.rowOuts w
      | _, _ => [],
    wins := match img, row with
      | some i, some w => i.rowWins w
      | _, _ => [],
    depth := ln.link.length, pc := ln.pc, len := 0,
    ac0 := rep.bind (·.ac0), ac1 := rep.bind (·.ac1), late := 0 }

/-- The syllables of a bundle execute; a string operation of n ≥ 1 delays the L unit's scratch accesses (04 R138). -/
def execBundle (b : Bundle) (e : Env) (given : List Word) : Eff :=
  match b.syls with
  | [] => Eff.start given
  | w :: t =>
    let skip := b.rep && decide (e.regs.rc = 0)
    let e := { e with late := if (w :: t).any isString && !skip then 1 else 0 }
    let f := Eff.start given
    let f := if skip then f else execSyl f { e with ext := b.ext } w
    t.foldl (fun f w => execSyl f e w) f

/-! ### The comparator (03 R112, R115) -/

/-- KIND of a differing item. -/
def Item.kind : Item → Nat
  | .store _ _ _ _ => 1
  | .bitStore _ _ _ _ => 1
  | .xwrite _ _ => 2
  | .chkin _ => 2
  | .read _ => 3
  | .xread _ => 3
  | .fin => 4
  | .illegal _ _ => 5

/-- LEADING or TRAILING of an item (03 R115), that of kind 4 aside. The data of an image bit write hold the written bit in its place and zeros (DESIGN CHOICE, log 55). -/
def Item.encode : Item → Nat
  | .store a m d _ => d.toNat + (a % 2 ^ 26) * 2 ^ 32 + (m % 16) * 2 ^ 58
  | .bitStore a k v _ => bit v * 2 ^ (8 * (a % 4) + k) + (a % 2 ^ 26) * 2 ^ 32 + 2 ^ (58 + a % 4)
  | .xwrite r d => d.toNat + (r % 64) * 2 ^ 32
  | .chkin n => (n % 64) * 2 ^ 32 + 2 ^ 38
  | .read a => a % 2 ^ 26
  | .xread r => 2 ^ 63 + r % 64
  | .fin => 0
  | .illegal c b => c + b * 2 ^ 32

/-- The first difference between the items of the two lanes, in the order of their syllables (DESIGN CHOICE, log 56). -/
def itemDiff : List Item → List Item → Option (Option Item × Option Item)
  | [], [] => none
  | a :: _, [] => some (some a, none)
  | [], b :: _ => some (none, some b)
  | a :: s, b :: t => if a = b then itemDiff s t else some (some a, some b)

/-- What an absent item encodes as: zero, but for kind 5, where the bundle was legal there (03 R115). -/
def encodeOpt (kind bundle : Nat) : Option Item → Nat
  | some i => if i.kind = kind then i.encode else if kind = 5 then bundle * 2 ^ 32 else 0
  | none => if kind = 5 then bundle * 2 ^ 32 else 0

/-- LEADING or TRAILING under kind 4: the beat cycle in which a lane retires its end-of-run bundle, when it has issued one (03 R115). -/
def State.retireCode (s : State) (l : Nat) : Nat :=
  if (s.lane l).ended then 2 ^ 32 + (s.lane l).endCyc % s.beatCycles else 0

/-- A difference reported as a divergence. -/
def State.itemDivergence (s : State) (l c bundle : Nat) (d : Option Item × Option Item) : State :=
  let k := match d.1, d.2 with
    | some (.illegal _ _), _ => 5
    | _, some (.illegal _ _) => 5
    | some i, _ => i.kind
    | none, some i => i.kind
    | none, none => 0
  if k = 4 then s.divergence c (carOf l) k (s.retireCode (l - 1)) (s.retireCode l)
  else s.divergence c (carOf l) k (encodeOpt k bundle d.1) (encodeOpt k bundle d.2)

/-- The leading lane's items of the cycle before `c` (03 R112). -/
def State.leadRec (s : State) (l c : Nat) (wb : Bool) : IssueRec :=
  ((vget s.clu.items (carOf l) []).find? (fun r => r.cyc + 1 = c && r.wb = wb)).getD
    { cyc := c - 1, wb := wb, items := [], reads := [] }

/-- Items of the leading lane that the trailing lane has passed without issuing: present in one lane and absent in the other. -/
def State.missedRec (s : State) (l c : Nat) (wb : Bool) : Option IssueRec :=
  (vget s.clu.items (carOf l) []).find? (fun r => decide (r.cyc + 1 < c) && r.wb = wb && !r.items.isEmpty)

/-- The comparator's queue of a carriageway updated. -/
def State.upItems (s : State) (l : Nat) (k : List IssueRec → List IssueRec) : State :=
  s.upClu (fun u => { u with items := vup u.items (carOf l) [] k })

/-- One lane cycle's items: a leading lane records them, a trailing lane compares them with the leading lane's. -/
def State.compare (s : State) (l c bundle : Nat) (wb : Bool) (items : List Item) (reads : List Word) : State :=
  if !s.paired then s
  else if l % 2 = 0 then
    s.upItems l (· ++ [{ cyc := c, wb := wb, items := items, reads := reads }])
  else
    let lead := s.leadRec l c wb
    let missed := s.missedRec l c wb
    let s := s.upItems l (fun q => q.filter (fun r => !(r.wb = wb && decide (r.cyc + 1 ≤ c))))
    match missed with
    | some m => s.itemDivergence l c bundle (m.items.head?, none)
    | none =>
      match itemDiff lead.items items with
      | some d => s.itemDivergence l c bundle d
      | none => s

/-! ### Effects on the module -/

/-- An exchange write at the end of cycle `c`; in one cycle the highest-numbered lane takes effect (03 R88, R89). -/
def XReg.write (x : XReg) (c l : Nat) (v : Word) : XReg :=
  if x.cyc < c then { cur := v, prev := x.cur, cyc := c, lane := l }
  else if x.cyc = c then (if x.lane ≤ l then { x with cur := v, lane := l } else x)
  else { x with prev := v }

/-- The byte address of a store into entry `e`. -/
def storeAddr (o : Ov) (e : Nat) : Nat := ((o.find? (fun x => decide (x.1 / 16 = e))).map (·.1)).getD (16 * e)

/-- Stores of a run enter the open half (02 R46, R48): a new entry that finds the half full is a divergence of kind 7 (03 R115). -/
def State.runStore (s : State) (t l c : Nat) (o : Ov) : State :=
  match (s.task t).run with
  | none => s
  | some run =>
    let fresh := (Ov.entries o).filter (fun e => !(Ov.entries run.writes).contains e)
    let s' := s.upTask t (fun x => { x with run := x.run.map (fun r => { r with writes := Ov.over r.writes o }) })
    match fresh.head? with
    | none => s'
    | some e =>
      if halfSize < s.openContent + 16 * fresh.length then s.divergence c (carOf l) 7 (storeAddr o e) 0 else s'

/-- Corrections and errors that a lane's reads find (01 R16, R17). The memories that the lane reads here are the program store, its scratch, and the shared stores it accesses. -/
def relevantEcc (f : Eff) (trailing : Bool) (x : Ecc) : Bool :=
  match x.mem with
  | .program => true
  | .scratch => f.scratchRead.contains (x.addr / 16)
  | .inst | .image | .shadow => !trailing && !f.sharedRead.isEmpty
  | _ => false

/-- Each corrected read counts (01 R16). -/
def State.countCorrected (s : State) (l : List Ecc) : State :=
  l.foldl (fun acc x => if x.hard then acc else acc.corrected x.mem x.addr) s

/-- The lane's results in flight, with the cycle of the last one kept for the completion instant (03 R95, 06 R177). -/
def Lane.addFlight (ln : Lane) (c : Nat) (ls : List Landing) (ws : List Writeback) : Lane :=
  { ln with
    inflight := ls.foldl (fun acc x => addLanding x acc) ln.inflight
    wb := ln.wb ++ ws
    endCyc := ws.foldl (fun n x => max n x.cyc) (ls.foldl (fun n x => max n x.cyc) (max c ln.endCyc)) }

/-- A run ends without completing on lane `l` in cycle `c` (03 R108, 06 R177). In paired mode the task is faulted when the trailing lane finds the same cause (03 R112). -/
def State.endIllegal (s : State) (l t c cause bundle : Nat) : State :=
  let s := s.upLane l (fun ln =>
    { ln with dead := true, rep := none, xfer := none, endCyc := max c ln.endCyc })
  let before := s.clu.stopped
  let s := s.compare l c bundle false [.illegal cause bundle] []
  if s.clu.stopped && !before then s
  else if s.paired && decide (l % 2 = 0) then s
  else
    let wasOver := (s.task t).overrunNow
    (s.faultTask t cause bundle).noteRun t (4 + 2 * bit wasOver) cause ((s.lane l).endCyc % s.beatCycles) 0 0

/-- The effects of an issue in cycle `c` taken into the lane and the module. -/
def State.takeEff (s : State) (l t c bundle : Nat) (f : Eff) : State :=
  let tr := s.isTrailing l
  let s := s.upLane l (fun ln =>
    let ln := ln.addFlight c f.lands f.wbs
    { ln with
      scratch := if f.str.isSome then ln.scratch else f.scratch.foldl (fun m x => memWrite m x.1 x.2) ln.scratch
      ended := ln.ended || f.ended })
  let s := if tr then s else
    s.upClu (fun u => { u with x := f.xw.foldl (fun v w => vup v w.1 XReg.zero (·.write c l w.2)) u.x })
  let s := s.compare l c bundle false f.items f.reads
  if tr || s.clu.stopped && decide (s.clu.stopCyc < c) then s
  else
    let s := if f.stores.isEmpty then s else s.runStore t l c f.stores
    f.checkins.foldl (fun acc n => acc.taskCheckin n t (acc.cycInstant c)) s

/-! ### Write-backs (05 R163) -/

/-- The store items of a write-back: one for each word it touches. -/
def wbItems (w : Writeback) (tag : Nat) : List Item :=
  if w.bytes.length = 16 then
    (List.range 4).map (fun i => storeItem (w.addr + 4 * i) (slice w.bytes (4 * i) 4) tag)
  else [storeItem w.addr w.bytes tag]

/-- A write-back with an upset of its first word. -/
def upsetWb (u : Upset) (w : Writeback) : Writeback :=
  match u with
  | .fetch _ m => { w with bytes := (w.bytes.zip (padTo w.bytes.length (wbytes m))).map (fun p => p.1 ^^^ p.2) }
  | _ => w

/-- The earliest write-back of a lane lands (05 R163 step 2): only a leading or single lane writes the record (03 R111). -/
def State.landWb (s : State) (l : Nat) (u : Upset) : State :=
  let ln := s.lane l
  match ln.wb, ln.task with
  | w :: rest, some t =>
    let w' := upsetWb u w
    let s := s.upLane l (fun x => { x with wb := rest })
    let s := s.compare l w.cyc ln.pc true (wbItems w' t) []
    if s.isTrailing l || s.clu.stopped && decide (s.clu.stopCyc < w.cyc) then s
    else s.runStore t l w.cyc (Ov.putBytes [] w'.addr w'.bytes)
  | _, _ => s

/-- Every write-back due by cycle `c` lands. -/
def State.landWbs (s : State) (l c : Nat) : Nat → State
  | 0 => s
  | n + 1 =>
    match (s.lane l).wb with
    | w :: _ => if w.cyc ≤ c then (s.landWb l .none).landWbs l c n else s
    | [] => s

/-! ### Transfers (03 R107, 05 R157) -/

/-- A transfer whose delay bundles have issued, the iterations of the second among them, takes effect: CALL pushes, RET pops, ip follows. -/
def Lane.transfer (ln : Lane) : Lane :=
  match ln.xfer with
  | some x =>
    if x.left ≠ 0 ∨ ln.rep.isSome then ln
    else if !x.taken then { ln with xfer := none }
    else
      match x.kind with
      | .branch => { ln with pc := x.target, xfer := none }
      | .call ip =>
        { ln with link := (ln.pc, ln.regs.ip) :: ln.link, regs := { ln.regs with ip := ip }, pc := x.target,
                  xfer := none }
      | .ret =>
        match ln.link with
        | (pc, ip) :: rest => { ln with link := rest, regs := { ln.regs with ip := ip }, pc := pc, xfer := none }
        | [] => { ln with xfer := none }
  | none => ln

/-! ### Issue -/

/-- May lane `l` issue in cycle `c`: no stop reached it (03 R113), and a trailing lane's leading lane has passed the cycle before. -/
def State.mayIssue (s : State) (l c : Nat) : Bool :=
  (!s.clu.stopped || decide (c < s.clu.stopCyc + 2)) &&
  (!s.isTrailing l ||
    (let lead := s.lane (l - 1)
     decide (c ≤ lead.ready) || lead.ended || lead.dead))

/-- The first hard error that a lane's reads find in a shared or program store. -/
def hardStore (l : List Ecc) : Option Ecc := l.find? (fun x => x.hard && decide (x.mem ≠ .scratch))

/-- The cause of a bundle that does not decode: one illegal only as a delay bundle reports 7 when it also makes more than one shared-store access (03 R100, R108). -/
def illegalCause (ws : List Word) (r : Reg) (cause : Nat) : Nat :=
  match decodeBundle ws false with
  | .ok b => if 2 ≤ (bundleBanks b r).length then 7 else cause
  | .error _ => cause

/-- A lane issues its next bundle (03 R91, R97, R105, R108, 04 R142). Nothing happens when it has no run, has ended, repeats a syllable, or may not issue. -/
def State.issue (s : State) (l : Nat) (ecc : List Ecc) (u : Upset) : State :=
  let s := s.upLane l Lane.transfer
  let ln := s.lane l
  match ln.task with
  | none => s
  | some t =>
    match (s.task t).run with
    | none => s
    | some _ =>
      if ln.ended || ln.dead || ln.rep.isSome then s
      else
        let tr := s.isTrailing l
        let shift := if tr then 1 else 0
        let ws := upsetWords u (fetchWords s.sto.program ln.pc 8)
        match decodeBundle ws ln.xfer.isSome with
        | .error cause =>
          if s.mayIssue l ln.ready then
            s.endIllegal l t ln.ready (illegalCause ws (landThrough ln.ready ln.inflight ln.regs).1 cause) ln.pc
          else s
        | .ok b =>
          let c := issueCycle (l - shift) shift s.beatCycles (bundleBanks b) ln.inflight ln.regs 64 ln.ready
          if !s.mayIssue l c then s
          else
            let s := s.landWbs l c 16
            match (s.task t).run with
            | none => s
            | some run =>
              let ln := s.lane l
              let (r0, rest) := landThrough c ln.inflight ln.regs
              let r := upsetRegs u r0
              let s := s.upLane l (fun x => { x with regs := r, inflight := rest })
              let e := s.env l t c run r none
              let f := execBundle b e (if tr then (s.leadRec l c false).reads else [])
              let ecc := ecc.filter (relevantEcc f tr)
              let s := s.countCorrected ecc
              match hardStore ecc with
              | some x => s.storeUncorrectable x.mem x.addr (carOf l) c
              | none =>
                let scratchBad := ecc.any (fun x => x.hard)
                let s := if scratchBad then s.uncorrectable .scratch ((ecc.head?.map Ecc.addr).getD 0) else s
                let banks := bundleBanks b r
                let causes := f.faults ++ (if 2 ≤ banks.length then [7] else []) ++ (if scratchBad then [12] else [])
                match leastOf causes with
                | some cause => s.endIllegal l t c cause ln.pc
                | none =>
                  let s := s.takeEff l t c ln.pc f
                  let n := if b.rep then r.rc.toNat else 1
                  let rep : Option Rep :=
                    match f.str with
                    | some st => some { word := (b.syls.find? isString).getD 0, pc := ln.pc, left := n, ac0 := none, ac1 := none,
                                        str := some { st with deferred := f.scratch } }
                    | none =>
                      if b.rep ∧ 2 ≤ n then
                        some { word := b.syls.head?.getD 0, pc := ln.pc, left := n - 1, ac0 := f.ac0, ac1 := f.ac1, str := none }
                      else none
                  let xfer := match f.xfer with
                    | some x => some x
                    | none => ln.xfer.map (fun x => { x with left := x.left - 1 })
                  s.upLane l (fun x => { x with
                    pc := x.pc + b.len, rep := rep, xfer := xfer,
                    ready := if f.str.isSome then c else c + 1 })

/-- Each later iteration of a repeated syllable (04 R142, R143). -/
def State.iterate (s : State) (l : Nat) (ecc : List Ecc) (u : Upset) : State :=
  let ln := s.lane l
  match ln.task, ln.rep with
  | some t, some rep =>
    if rep.str.isSome || ln.dead then s
    else
      let tr := s.isTrailing l
      let shift := if tr then 1 else 0
      let c := issueCycle (l - shift) shift s.beatCycles (fun r => sylBanks r none rep.word) ln.inflight ln.regs 64 ln.ready
      if !s.mayIssue l c then s
      else
        let s := s.landWbs l c 16
        match (s.task t).run with
        | none => s
        | some run =>
          let ln := s.lane l
          let (r0, rest) := landThrough c ln.inflight ln.regs
          let r := upsetRegs u r0
          let s := s.upLane l (fun x => { x with regs := r, inflight := rest })
          let e := s.env l t c run r (some rep)
          let f := execSyl (Eff.start (if tr then (s.leadRec l c false).reads else [])) e rep.word
          let ecc := (ecc.filter (relevantEcc f tr)).filter (fun x => decide (x.mem ≠ .program))
          let s := s.countCorrected ecc
          match hardStore ecc with
          | some x => s.storeUncorrectable x.mem x.addr (carOf l) c
          | none =>
            let scratchBad := ecc.any (fun x => x.hard)
            let s := if scratchBad then s.uncorrectable .scratch ((ecc.head?.map Ecc.addr).getD 0) else s
            let banks := sylBanks r none rep.word
            let causes := f.faults ++ (if 2 ≤ banks.length then [7] else []) ++ (if scratchBad then [12] else [])
            match leastOf causes with
            | some cause => s.endIllegal l t c cause rep.pc
            | none =>
              let s := s.takeEff l t c rep.pc f
              s.upLane l (fun x => { x with
                ready := c + 1,
                rep := if rep.left ≤ 1 then none
                  else some { rep with left := rep.left - 1, ac0 := f.ac0.or rep.ac0, ac1 := f.ac1.or rep.ac1 } })
  | _, _ => s

/-! ### Packed-decimal strings (04 R136 to R138) -/

/-- One word of a string operation: result, carry, digit carries (04 R136). -/
def stringWord (opc : Nat) (x y : Word) (c : Bool) : Word × Bool × BitVec 8 :=
  if opc = 0x36 ∨ opc = 0x37 then
    let v := padd x y c
    (v.1, v.2.cy, v.2.hc)
  else
    let v := psub x y c
    (v.1, v.2.cy, v.2.hc)

/-- The flags of a string operation after its last word (04 R136). -/
def stringFlags (opc : Nat) (st : StrState) : Flags :=
  if opc = 0x3A then { cy := st.carry, hc := if st.eq then 1 else 0, ov := st.bad }
  else { cy := st.carry, hc := st.hc, ov := st.bad }

/-- One iteration of a packed-decimal string operation (04 R136, R137, R143). -/
def State.stringStep (s : State) (l : Nat) (ecc : List Ecc) : State :=
  let ln := s.lane l
  match ln.task, ln.rep with
  | some t, some rep =>
    match rep.str with
    | none => s
    | some st =>
      let c := ln.ready
      if ln.dead || !s.mayIssue l c then s
      else
        let opc := sylOpc rep.word
        let d := sylDst rep.word
        let sa := sylA rep.word
        let (r, rest) := landThrough c ln.inflight ln.regs
        let s := s.upLane l (fun x => { x with regs := r, inflight := rest })
        let xa := (r.getA d).toNat
        let ya := (r.getA sa).toNat
        if !(stringAddrOk xa && stringAddrOk ya) then s.endIllegal l t c 10 rep.pc
        else
          let ecc := ecc.filter (fun x => decide (x.mem = .scratch ∧ (x.addr / 16 = xa / 16 ∨ x.addr / 16 = ya / 16)))
          let s := s.countCorrected ecc
          if ecc.any (fun x => x.hard) then
            (s.uncorrectable .scratch ((ecc.head?.map Ecc.addr).getD 0)).endIllegal l t c 12 rep.pc
          else
            let (x, y) := st.words.getD (memWord ln.scratch xa, memWord ln.scratch ya)
            let (v, k, hc) := stringWord opc x y st.carry
            let st' : StrState :=
              { carry := k, words := none, bad := st.bad || badDigit x || badDigit y,
                eq := st.eq && decide (x = y), hc := hc, deferred := [] }
            let lands : List Landing :=
              [{ cyc := c + 1, issued := c, unit := 3, op := 0, dest := .a d (r.getA d + 4) },
               { cyc := c + 1, issued := c, unit := 3, op := 0, dest := .a sa (r.getA sa + 4) }] ++
              (if rep.left ≤ 1 then
                let f := stringFlags opc st'
                [{ cyc := c + 2, issued := c, unit := 3, op := 0, dest := .cy 3 f.cy },
                 { cyc := c + 2, issued := c, unit := 3, op := 0, dest := .hc 3 f.hc },
                 { cyc := c + 2, issued := c, unit := 3, op := 0, dest := .ov 3 f.ov }] else [])
            s.upLane l (fun q =>
              let m := if opc = 0x3A then q.scratch else memPut q.scratch xa (wbytes v)
              -- the L unit's stores of the bundle take effect in e0 + 1 as well (04 R138); log 20
              let m := st.deferred.foldl (fun m x => memWrite m x.1 x.2) m
              { q.addFlight (c + 1) lands [] with
                scratch := m, ready := c + 2,
                rep := if rep.left ≤ 1 then none else some { rep with left := rep.left - 1, str := some st' } })
  | _, _ => s

/-! ### The start of a run (03 R87, 06 R177) -/

/-- The cycle after the end of the previous run of a lane set. -/
def State.setFree (s : State) (set : Nat) : Nat := (s.lane (s.lastLane set)).endCyc + 1

/-- A lane at the ready cycle of a run's first bundle (03 R87). -/
def Lane.begin (ln : Lane) (t ready : Nat) (row : TaskRow) : Lane :=
  { Lane.reset with
    scratch := ln.scratch, task := some t, pc := row.entry, ready := ready, firstReady := ready,
    regs := { Reg.reset with ip := w32 row.ip } }

/-- Is a lane set idle: no run, or one that has ended without completing? -/
def State.setIdle (s : State) (set : Nat) : Bool :=
  (s.setLanes set).all (fun l => (s.lane l).task.isNone || (s.lane l).dead)

/-- The head of a lane set's queue becomes ready (06 R177). -/
def State.startRun (s : State) (set : Nat) : State :=
  match vget s.clu.queues set [] with
  | [] => s
  | t :: rest =>
    if !s.setIdle set || !s.executes then s
    else
      match (s.task t).run, s.row t with
      | some run, some row =>
        let ready := max (run.relCyc + run.start) (s.setFree set)
        let s := s.upClu (fun u => { u with
          queues := vset u.queues set rest
          items := if u.single then u.items else vset u.items set [] })
        let s := (s.setLanes set).foldl (fun acc l =>
          acc.upLane l (fun ln => ln.begin t (ready + l - (s.setLanes set).head?.getD 0) row)) s
        s.upTask t (fun x => { x with run := x.run.map (fun r => { r with started := true }) })
      | _, _ => s.upClu (fun u => { u with queues := vset u.queues set rest })

/-! ### Meanings -/

/-- RUN_START (06 R177). -/
def execRunStart (lset : Nat) (s : State) : Host.Outcome State Fault Refusal := commit s (s.startRun lset)

/-- BUNDLE_ISSUE (03 R91). -/
def execBundleIssue (lane : Nat) (ecc : List Ecc) (upset : Upset) (s : State) : Host.Outcome State Fault Refusal :=
  commit s (s.issue lane ecc upset)

/-- RESULT_LANDING (03 R91, R94): the earliest result in flight lands. -/
def execResultLanding (lane : Nat) (s : State) : Host.Outcome State Fault Refusal :=
  commit s (s.upLane lane (fun ln =>
    match ln.inflight with
    | x :: rest => { ln with regs := ln.regs.land x.dest, inflight := rest }
    | [] => ln))

/-- CONTROL_TRANSFER (03 R107, 05 R157). -/
def execControlTransfer (lane : Nat) (s : State) : Host.Outcome State Fault Refusal :=
  commit s (s.upLane lane Lane.transfer)

/-- REP_ITERATION (04 R142). -/
def execRepIteration (lane : Nat) (ecc : List Ecc) (upset : Upset) (s : State) : Host.Outcome State Fault Refusal :=
  commit s (s.iterate lane ecc upset)

/-- STRING_ITERATION (04 R136). -/
def execStringIteration (lane : Nat) (ecc : List Ecc) (s : State) : Host.Outcome State Fault Refusal :=
  commit s (s.stringStep lane ecc)

/-- RECORD_WRITEBACK (05 R163). -/
def execRecordWriteback (lane : Nat) (upset : Upset) (s : State) : Host.Outcome State Fault Refusal :=
  commit s (s.landWb lane upset)

end Sys2Proof.Machine
end

