-- ==== Sys2Proof/Machine/Stream.lean ====
section
/-! DEFINITION. The causeway stream: frames sent and sent again, records received, milestones applied, bulk synchronisation (07 R211 to R220, R525). -/

set_option Elab.async false

namespace Sys2Proof.Machine

open Sys2Proof

/-! ### The sender (07 R214, R216, R219) -/

/-- The lanes that are up. -/
def State.lanesUp (s : State) : List Nat := [0, 1].filter (fun l => vget s.csw.laneUp l false)

/-- The lane of the next STREAM frame: the lanes that are up take turns. -/
def State.streamLane (s : State) : Nat := if vget s.csw.laneUp s.csw.cwLane false then s.csw.cwLane else 1 - s.csw.cwLane

/-- The bytes of a block from position `pos` on leave in STREAM frames of at most 256 groups; FIRST and LAST mark the ends of the block. -/
def State.streamFrames (s : State) : Nat → Bool → Nat → List Byte → State
  | 0, _, _, _ => s
  | n + 1, first, pos, b =>
    if b.isEmpty then s
    else
      let lane := s.streamLane
      let rest := b.drop 4096
      let f := s.cwFrame 0x02 (lane + 2 * bit first + 4 * bit rest.isEmpty) pos (b.take 4096)
      ((s.send (.cw lane f)).upCsw (fun c => { c with cwLane := 1 - lane })).streamFrames n false (pos + 4096) rest

/-- The resend buffer: the most recent 512 KiB of the stream. -/
def resendMax : Nat := 524288

/-- A block of records enters the stream (07 R214). -/
def State.streamOut (s : State) (b : List Byte) : State :=
  (s.streamFrames (b.length / 4096 + 1) true s.csw.pos b).upCsw (fun c =>
    let all := c.stream ++ b
    { c with
      pos := c.pos + b.length, stream := all.drop (all.length - resendMax)
      blocks := (c.blocks ++ [(c.pos, b.length)]).filter (fun x => decide (c.pos + b.length - resendMax < x.1 + x.2)) })

/-- Nothing waits to be sent: the transfer of the closed half counts as complete (07 R218). -/
def State.endTransfers (s : State) : State :=
  (s.upCsw (fun c => { c with sendMs := [], sending := none })).upOther (fun h => { h with transfer := true })

/-- A new synchronisation starts at position 0 (07 R213, R216). -/
def State.startSync (s : State) (resync : Bool) : State :=
  s.endTransfers.upCsw (fun c => { c with
    pos := 0, stream := [], blocks := [], bulkOff := 0, bulkTotal := 0, bulkEnd := false, bulkPct := 0, resync := resync, redLost := true, partnerAck := 0, lagList := [], lag := 0 })

/-- The ACTIVE unit has lost its partner (07 R221): a switchover in progress ends, and what waited for the partner's DURABLE is reported from its own store (07 R218). -/
def State.losePartner (s : State) : State :=
  ((s.endTransfers.upCsw (fun c => { c with
    redLost := true, lagList := [], lag := 0, cmdState := if c.handBeat.isSome then 0 else c.cmdState, handBeat := none, handClosed := false })).upLdr (fun l => { l with swapReady := false })).reportBatches

/-- May stream bytes be sent? -/
def State.maySend (s : State) : Bool :=
  decide (s.csw.role = .active) && s.hasPartner && !s.csw.resync && !s.lanesUp.isEmpty && s.csw.sending.isNone

/-- MILESTONE_TRANSFER's effect. -/
def State.sendMilestone (s : State) : State :=
  match s.csw.sendMs with
  | [] => s
  | m :: rest =>
    if s.maySend then
      (s.streamOut m.records).upCsw (fun c => { c with
        sendMs := rest, sending := some m.num
        lagList := c.lagList.map (fun x => if x.1 = m.num then (x.1, (x.2.1, some c.pos)) else x) })
    else s

/-- The stores that a synchronisation covers: 48 MiB. -/
def bulkSize : Nat := 50331648

/-- Have all milestones that precede the next byte of the stream settled here (07 R219)? -/
def State.settledAll (s : State) : Bool :=
  (s.sto.journal ++ s.sto.settling).all (fun m => s.csw.sendMs.any (fun x => decide (x.num = m.num)))

/-- A BULK record of up to `n` groups, or the BULK_END that follows the last, while no live milestone waits to be sent (07 R219). -/
def State.sendBulk (s : State) (n : Nat) : State :=
  if !s.maySend ∨ !s.csw.sendMs.isEmpty ∨ s.csw.partnerRole ≠ 3 ∨ !s.settledAll then s
  else
    let off := s.csw.bulkOff
    if bulkSize ≤ off then
      if s.csw.bulkEnd then s
      else (s.streamOut (streamRecord 0x21 s.csw.bulkTotal [])).upCsw (fun c => { c with bulkEnd := true })
    else
      let k := min (min n 255) ((if off < programSize then programSize - off else bulkSize - off) / 16)
      if k = 0 then s
      else
        let r := if off < programSize then streamRecord 0x20 (2 ^ 63 + off) (memBytes s.sto.program off (16 * k))
          else streamRecord 0x20 (instBase + (off - programSize)) (memBytes s.sto.durable (instBase + (off - programSize)) (16 * k))
        (s.streamOut r).upCsw (fun c => { c with
          bulkOff := off + 16 * k, bulkTotal := c.bulkTotal + 16 * k, bulkPct := 100 * (off + 16 * k) / bulkSize })

/-- What of a block lies at or after position `a` is sent again, from a buffer whose oldest byte has position `oldest`. -/
def State.resendBlock (s : State) (a oldest : Nat) (x : Nat × Nat) : State :=
  let from' := max a x.1
  s.streamFrames (x.2 / 4096 + 1) (decide (from' = x.1)) from' ((s.csw.stream.drop (from' - oldest)).take (x.1 + x.2 - from'))

/-- The stream is sent again from the partner's ACK_POS, or a new synchronisation starts when the buffer no longer holds it (07 R216). -/
def State.resend (s : State) : State :=
  if s.csw.role ≠ .active ∨ !s.hasPartner ∨ s.lanesUp.isEmpty ∨ s.csw.pos ≤ s.csw.partnerAck then s
  else
    let oldest := s.csw.pos - s.csw.stream.length
    if s.csw.partnerAck < oldest then s.startSync true
    else
      (s.csw.blocks.foldl (fun acc x => acc.resendBlock s.csw.partnerAck oldest x) s).upCsw (fun c =>
        { c with resends := satAdd 0xFFFFFFFF c.resends ((s.csw.pos - s.csw.partnerAck) / 16) })

/-! ### The receiver (07 R215, R219, R220) -/

/-- A receiving unit begins a synchronisation: its store is incomplete and its stream starts at 0. A conversion in progress is built anew once it is STANDBY again (07 R236). -/
def State.restartSync (s : State) : State :=
  (s.upCsw (fun c => { c with
    ackPos := 0, rx := [], rxMs := none, lastMs := none, bulkOff := 0, bulkEnd := false, bulkPct := 0, storeComplete := false
    launchPend := [], goPend := none })).upLdr (fun l => { l with swapReady := false, conv := [] })

/-- The unit becomes SYNCING. -/
def State.toSyncing (s : State) : State := ((s.transition .syncing 0 0).upCsw (fun c => { c with redLost := false })).restartSync

/-- A STANDBY falls to SYNCING (07 R221); a SYNCING unit begins again. -/
def State.fallBack (s : State) : State :=
  match s.csw.role with
  | .standby => s.toSyncing.cswCause 5
  | .syncing => s.restartSync
  | _ => s

/-- The items of an EDITS record through the publication map in force (11 R331). -/
def readItemsOf (map : List PubEntry) : Nat → List Byte → List EditItem
  | 0, _ => []
  | n + 1, l =>
    let idx := getLE l 0 2
    let len := getLE l 4 4
    if l.length < 8 ∨ idx = 0 then []
    else
      let rest := readItemsOf map n (l.drop (8 + (len + 3) / 4 * 4))
      match map.find? (fun x => decide (x.index = idx ∧ x.sub = byteAt l 2)) with
      | some x => { index := idx, sub := byteAt l 2, addr := x.addr, bytes := slice l 8 len } :: rest
      | none => rest

/-- An output set is taken into the launched values (07 R525). -/
def State.takeLaunched (s : State) (o : Ov) : State := if o.isEmpty then s else s.launchLocal o

/-- The takes that have fallen due, in order of launch instant. -/
def State.takeDue (s : State) : State :=
  let due := sortBy (·.1) (s.csw.launchPend.filter (fun x => decide (x.1 ≤ s.clk.beat)))
  due.foldl (fun acc x => acc.takeLaunched x.2.2)
    (s.upCsw (fun c => { c with launchPend := c.launchPend.filter (fun x => decide (s.clk.beat < x.1)) }))

/-- The task words of an applied milestone, and with `keep` the launched values that it gives (02 R54, 07 R525). -/
def State.applyWords (s : State) (m : Milestone) (keep : Bool) : State :=
  let s := (List.range 32).foldl (fun (acc : State) t =>
    let w := m.words[t]?.getD 0
    let o := acc.outsOf t acc.sto.lmem
    let acc := acc.upTask t (fun x => x.ofWord w m.closeBeat o)
    if keep && w.testBit 32 then
      let l := m.closeBeat + (if w.testBit 33 then field w 63 40 else 0)
      acc.upCsw (fun c => { c with launchPend := c.launchPend ++ [(l, (t, o))] })
    else acc) s
  if keep then s.takeDue else s

/-- A milestone is applied: it enters this unit's commit engine, and its state becomes that of the stores (07 R215). -/
def State.applyMs (s : State) (m : Milestone) : State :=
  let s := s.upSto (fun x => { x with
    lmem := m.net.apply x.lmem, journal := x.journal ++ [m], msCount := m.num
    applied := m.edits.foldl (fun l b => putApplied b.client b.id l) x.applied })
  let last := decide (s.csw.role = .syncing) && s.csw.bulkEnd
  let s := (s.convertApplied m.net).applyWords m (decide (s.csw.role = .standby) || last)
  let s := (s.upCsw (fun c => { c with lastMs := some m })).upNet (fun n => { n with slots := n.slots.map (fun x => { x with accTerm := 0 }) })
  if last then
    ((s.transition .standby 0 0).upCsw (fun c => { c with storeComplete := true, bulkPct := 100 })).cswCause 6
  else s

/-- A BULK record: content of the program store or of the instance store. -/
def State.applyBulk (s : State) (arg : Nat) (b : List Byte) : State :=
  let s := if arg.testBit 63 then s.upSto (fun x => { x with program := memPut x.program (arg % 2 ^ 32) b })
    else s.upSto (fun x => { x with lmem := memPut x.lmem arg b, durable := memPut x.durable arg b })
  s.upCsw (fun c => { c with bulkOff := c.bulkOff + b.length, bulkPct := min 100 (100 * (c.bulkOff + b.length) / bulkSize) })

/-- BULK_END: the program store holds the active's image; a publication map of another image ends with it. The table of applied batches is the active's (11 R339; log 54). -/
def State.endBulk (s : State) (table : List (Nat × Nat)) : State :=
  let s := s.upSto (fun x => { x with applied := table.take 64, appliedDur := table.take 64 })
  let b := memBytes s.sto.program 0 (min programSize (getLE (memBytes s.sto.program 8 4) 0 4))
  let i := readImage b
  let same := decide (i.digest = s.ldr.digest)
  let s := (s.upLdr (fun l => { l with img := some i, digest := i.digest })).upClu (fun u => { u with single := i.single })
  let s := if same then s else s.upDict (fun q => { q with pubMap := [], pubNext := none })
  s.upCsw (fun c => { c with bulkEnd := true })

/-- Is a milestone number the next one of the stream (07 R215, R221)? -/
def State.nextInStream (s : State) (n : Nat) : Bool :=
  match s.csw.lastMs with
  | some m => decide (n = m.num + 1)
  | none => true

/-- One complete record. -/
def State.streamRecv (s : State) (table : List (Nat × Nat)) (rtype arg : Nat) (b : List Byte) : State :=
  let up (k : Milestone → Milestone) : State := s.upCsw (fun c => { c with rxMs := c.rxMs.map k })
  if rtype = 0x10 then
    if s.nextInStream arg then s.upCsw (fun c => { c with rxMs := some (readHead b), rxCheck := getLE b 291 4 })
    else s.fallBack
  else if rtype = 0x11 then
    up (fun m => { m with entries := m.entries ++ [(arg, Ov.putBytes [] arg b)], net := Ov.putBytes m.net arg b })
  else if rtype = 0x12 then
    let items := readItemsOf s.dict.pubMap b.length b
    let x : Batch := { client := arg / 2 ^ 32, id := arg % 2 ^ 32, size := 0, accepted := 0, items := items, session := 0, chan := .odx, ms := none }
    up (fun m => { m with edits := m.edits ++ [x], net := Ov.over m.net x.ov })
  else if rtype = 0x13 then s
  else if rtype = 0x14 then
    match s.csw.rxMs with
    | some m =>
      if m.num = arg ∧ crc32 (m.fields ++ m.entries.flatMap (fun e => e.2.map (fun x => x.2.2))) = s.csw.rxCheck then
        (s.upCsw (fun c => { c with rxMs := none })).applyMs m
      else s.fallBack
    | none => s.fallBack
  else if rtype = 0x20 then s.applyBulk arg b
  else if rtype = 0x21 then s.endBulk table
  else s.fallBack

/-- The complete records among the received bytes. -/
def State.parseStream (s : State) (table : List (Nat × Nat)) : Nat → State
  | 0 => s
  | n + 1 =>
    let b := s.csw.rx
    let k := 16 + 16 * getLE b 4 4
    if b.length < 16 ∨ b.length < k then s
    else ((s.upCsw (fun c => { c with rx := c.rx.drop k })).streamRecv table (byteAt b 0) (getLE b 8 8) (slice b 16 (k - 16))).parseStream table n

/-- The payload of an accepted STREAM frame. -/
def State.streamIn (s : State) (table : List (Nat × Nat)) (b : List Byte) : State :=
  let s := s.upCsw (fun c => { c with ackPos := c.ackPos + b.length, rx := c.rx ++ b })
  s.parseStream table (s.csw.rx.length / 16 + 1)

end Sys2Proof.Machine
end

