-- ==== Sys2Proof/Machine/Causeway.lean ====
section
/-! DEFINITION. The causeway: heartbeats, CWA, negotiation, received frames, takeover, planned switchover and program swap, and the CSW registers (07). -/

set_option Elab.async false

namespace Sys2Proof.Machine

open Sys2Proof

/-! ### Received frames (07 R211, R212) -/

/-- Fields of a causeway frame. -/
def cwType (f : List Byte) : Nat := byteAt f 0
@[inherit_doc cwType] def cwTerm (f : List Byte) : Nat := getLE f 2 2
@[inherit_doc cwType] def cwNode (f : List Byte) : Nat := getLE f 4 2 % 1024
@[inherit_doc cwType] def cwRole (f : List Byte) : Nat := field (getLE f 4 2) 12 10
@[inherit_doc cwType] def cwGroups (f : List Byte) : Nat := getLE f 6 2
@[inherit_doc cwType] def cwPos (f : List Byte) : Nat := getLE f 8 8
@[inherit_doc cwType] def cwPay (f : List Byte) : List Byte := f.drop 16

/-- The payload groups of a type. -/
def cwGroupsOk (type n : Nat) : Bool :=
  if type = 1 then decide (n = 2)
  else if type = 2 then decide (1 ≤ n ∧ n ≤ 256)
  else if type = 3 ∨ type = 4 ∨ type = 5 then decide (n = 1)
  else if type = 6 then decide (n = 3)
  else false

/-- A frame of a known type and role code, whole, and of the length that its type has (07 R201, R211, R212). -/
def cwFormOk (f : List Byte) : Bool :=
  cwGroupsOk (cwType f) (cwGroups f) && decide (f.length = 16 + 16 * cwGroups f) && decide (cwRole f ≤ 5) &&
    decide (getLE f 4 2 < 8192)

/-- A frame is discarded and counted (07 R201, R210, R212, R215). -/
def State.cwDiscard (s : State) : State :=
  (s.upCsw (fun c => { c with frameErr := sat32 c.frameErr })).cswCause 13

/-! ### Loss of the partner (07 R220, R221, R223) -/

/-- A STANDBY detects that it is to take over; a Parked request that has not reached step 7 ends (07 R223, R224, 18 R503). `ref` is the reference of the control gap. -/
def State.takeoverDetect (s : State) (reason ref : Nat) (confirm : Bool) : State :=
  if s.csw.takeoverPend.isSome ∨ 7 ≤ s.pwr.parkReq then s
  else
    let s := if 0 < s.pwr.parkReq then s.endPark 0 else s
    s.upCsw (fun c => { c with takeoverPend := some reason, takeoverRef := ref, termNeedsConfirm := confirm })

/-- The active unit is lost: a STANDBY takes over, a SYNCING unit fails with reason 4; an ACTIVE unit that loses its partner goes on. -/
def State.partnerLost (s : State) (reason ref : Nat) (confirm : Bool) : State :=
  match s.csw.role with
  | .standby => s.takeoverDetect reason ref confirm
  | .syncing => s.enterFailed 4
  | .active => s.losePartner
  | _ => s

/-- The instant of the last HEARTBEAT on either lane. -/
def Csw.lastHb (c : Csw) : Nat := max (vget c.hbAt 0 0) (vget c.hbAt 1 0)

/-- Heartbeat lost and partner absent on CWA: condition 3 of R223. -/
def State.partnerSilent (s : State) : State :=
  if s.csw.hbLost && s.csw.cwaAbsent then
    (s.upCsw (fun c => { c with partnerSeen := false })).partnerLost 0 s.csw.lastHb true
  else s

/-! ### The start-up negotiation (07 R209, R210) -/

/-- The unit becomes ACTIVE in the negotiation. -/
def State.winNegotiation (s : State) (lost confirm : Bool) : State :=
  (((s.govern .active 0 0).upCsw (fun c =>
    { c with redLost := lost && decide (c.role = .active), termNeedsConfirm := confirm, storeComplete := c.storeComplete || decide (c.role = .active) }))).finishStart

/-- The unit becomes SYNCING in the negotiation. -/
def State.loseNegotiation (s : State) : State := s.toSyncing.finishStart

/-- The keys of R210 but for the node identity: an incomplete store counts as having no durable milestone (07 R220). -/
def State.rankKeys (s : State) : List Nat :=
  let own := match s.sto.durHdr with
    | some m => (m.term, m.num)
    | none => (0, 0)
  [bit s.csw.storeComplete, if s.csw.storeComplete then own.1 else 0, if s.csw.storeComplete then own.2 else 0, s.inForce 0x6002 0 0]

/-- The keys of the partner's NEGOTIATE frame. -/
def frameKeys (f : List Byte) : List Nat :=
  let ok := (byteAt f 27).testBit 0
  [bit ok, if ok then getLE f 24 2 else 0, if ok then getLE f 16 8 else 0, byteAt f 26]

/-- Is this unit ranked higher: by the first key in which the two differ, then by the lower identity? -/
def ranksAbove (own theirs : List Nat) (node other : Nat) : Bool :=
  match (own.zip theirs).find? (fun x => decide (x.1 ≠ x.2)) with
  | some x => decide (x.2 < x.1)
  | none => decide (node < other)

/-- The pairing is refused: the higher-ranked unit becomes ACTIVE with REDUNDANCY_LOST, the other enters FAILED with reason 6 (07 R208, R210). -/
def State.refusePairing (s : State) (higher : Bool) : State :=
  if higher then s.winNegotiation true false else (s.enterFailed 6).finishStart

/-- A NEGOTIATE frame at a negotiating unit. -/
def State.negotiate (s : State) (f : List Byte) : State :=
  if s.csw.role ≠ .negotiating then s
  else
    let higher := ranksAbove s.rankKeys (frameKeys f) s.node (cwNode f)
    let s := s.upCsw (fun c => { c with negHeard := true })
    if cwNode f ≠ s.partnerNode ∨ 50000 < s.csw.delay then s.refusePairing higher
    else if higher then s.winNegotiation true false
    else s.loseNegotiation

/-! ### The partner's role (07 R221) -/

/-- What a change of the partner's role brings about at this unit. -/
def State.partnerRoleSeen (s : State) (old new : Nat) : State :=
  if old = new then s
  else
    let s := if new = 4 then s.cswCause 1 else s
    if s.csw.role ≠ .active then s
    else if new = 2 then s.upCsw (fun c => { c with redLost := false, bulkPct := 100 })
    else if new = 3 then s.startSync s.csw.resync
    else s.losePartner

/-! ### HEARTBEAT (07 R206, R208, R212) -/

/-- Heartbeats missed on a lane between two that arrived, those of a time in which the lane was down among them (07 CSW_HB_MISS). -/
def missedBeats (last t : Nat) : Nat := (t - last + 10000) / 20000 - 1

/-- The link delay from the stamp of a HEARTBEAT, while both units are locked. -/
def State.measureDelay (s : State) (t : Nat) (p : List Byte) : State :=
  if s.isLocked && (byteAt p 28).testBit 5 then
    let d := (s.ptpAt t % 2 ^ 32 + 2 ^ 32 - getLE p 24 4) % 2 ^ 32
    let was := s.csw.delay
    let s := s.upCsw (fun c => { c with delay := d })
    if 10000 < d ∧ was ≤ 10000 then s.cswCause 11 else s
  else s

/-- The misses of a lane by `t` are counted, those that were counted already aside (07 R240 MISS0, MISS1). -/
def Csw.countMiss (c : Csw) (lane t : Nat) : Csw :=
  let last := vget c.hbAt lane 0
  let was := vget c.hbCnt lane 0
  let n := if last = 0 then 0 else max was (missedBeats last t)
  { c with
    hbCnt := vset c.hbCnt lane n
    hbMiss0 := if lane = 0 then satAdd 0xFFFF c.hbMiss0 (n - was) else c.hbMiss0
    hbMiss1 := if lane = 1 then satAdd 0xFFFF c.hbMiss1 (n - was) else c.hbMiss1 }

/-- Does the partner not yet have a milestone of the lag list: is it unsent, or its end past the partner's ACK_POS (07 R212, R215)? -/
def notApplied (ack : Nat) (x : Nat × (Nat × Option Nat)) : Bool :=
  match x.2.2 with
  | some e => decide (ack < e)
  | none => true

/-- The LAG of the partner: beats of the milestones that it has not applied (07 R240). -/
def State.updateLag (s : State) : State :=
  s.upCsw (fun c =>
    let l := c.lagList.filter (notApplied c.partnerAck)
    { c with lagList := l, lag := min 0xFFFF (l.foldl (fun n x => n + x.2.1) 0) })

/-- What an ACTIVE unit knows of the partner's swap: SWAP_READY, which a swap abandoned here ignores until the partner has taken it back (07 R236; log 54), and the staged image. -/
def State.swapSeen (s : State) (ready : Bool) (env : CwIn) : State :=
  (s.upLdr (fun l => { l with swapReady := ready && !s.csw.swapDropped })).upCsw (fun c =>
    { c with swapDropped := c.swapDropped && ready, partnerDigest := padTo 32 env.digest, partnerMinSet := env.minSet })

/-- The payload of a HEARTBEAT on lane `lane` at `t`. -/
def State.heartbeatIn (s : State) (lane t role : Nat) (p : List Byte) (env : CwIn) : State :=
  let status := byteAt p 28
  let s := s.upCsw (fun c => { (c.countMiss lane t) with
    hbAt := vset c.hbAt lane t, hbCnt := vset c.hbCnt lane 0
    hbLost := false, partnerAck := getLE p 0 8, partnerDurable := getLE p 8 8, partnerLaunch := getLE p 16 8 })
  let s := s.measureDelay t p
  match s.csw.role with
  | .negotiating => if role = 1 then s.loseNegotiation else s
  | .active =>
    let s := s.swapSeen (status.testBit 4) env
    let s := if s.csw.resync ∧ role = 3 ∧ getLE p 0 8 = 0 then s.upCsw (fun c => { c with resync := false }) else s
    let s := if role = 3 ∧ s.csw.pos < s.csw.partnerAck then s.startSync true else s
    s.updateLag.reportBatches
  | .standby => if status.testBit 3 then s.fallBack else s
  | .syncing => if status.testBit 3 ∧ s.csw.ackPos ≠ 0 then s.fallBack else s
  | _ => s

/-! ### Takeover (07 R224, R225, R525, 02 R62, R72) -/

/-- The powered beat count of a unit that takes over. -/
def State.takeoverPowered (s : State) : Nat :=
  match s.csw.lastMs with
  | some m => m.powered + (s.clk.beat - m.closeBeat)
  | none => s.clk.powered

/-- Does a task re-execute: it is not faulted (03 R109), it has been due, and its last completed run was released before the latest due beat (07 R225 step 2)? -/
def State.reexecutes (s : State) (r : TaskRow) : Bool :=
  decide (r.phase ≤ s.clk.beat) &&
    (let i := (s.clk.powered + r.lastDue s.clk.beat - s.clk.beat) % 2 ^ 32
     let t := s.task r.task
     !t.faulted && (!t.completed || decide (i ≠ t.lastRel ∧ (i + 2 ^ 32 - t.lastRel) % 2 ^ 32 < 2 ^ 31)))

/-- The run that a task re-executes at X: release r on the view latched at T(r), a first run, ready at X (07 R225). -/
def State.reexecRun (s : State) (row : TaskRow) : Run :=
  let t := s.task row.task
  let b := row.lastDue s.clk.beat
  let known := decide (t.dueBeat = some b)
  { rel := (s.clk.powered + b - s.clk.beat) % 2 ^ 32, relCyc := s.nowCyc, beat := b
    beatsRun := s.clk.beatsRun - (s.clk.beat - b), first := true, base := s.sto.lmem
    view := if known then t.dueView else s.sto.inView, writes := []
    calDate := if known then t.dueCal.1 else s.rtc.date, calTime := if known then t.dueCal.2 else s.calTime
    lset := row.lset, order := row.order, start := 0, started := false, reexec := true }

/-- The rows of the table in force. -/
def State.rows (s : State) : List TaskRow :=
  match s.ldr.img with
  | some i => i.table s.sto.tableReduced
  | none => []

/-- The instant of an earlier boundary on the scale of the commands. -/
def State.beatInstant (s : State) (b : Nat) : Nat := s.clk.beatAt - (s.clk.beat - b) * (1000 * s.clk.p)

/-- The re-executed runs are queued by ORDER, and their tasks' waymarks armed from the release instants on (13 R387). -/
def State.reexecuteAll (s : State) : State :=
  let go := (sortBy TaskRow.order s.rows).filter s.reexecutes
  go.foldl (fun acc r =>
    let run := acc.reexecRun r
    let acc := (acc.upTask r.task (fun x => { x with run := some run })).upClu (fun u =>
      { u with queues := vset u.queues r.lset (vget u.queues r.lset [] ++ [r.task]) })
    acc.armTask r.task (acc.beatInstant run.beat)) s

/-- Output frames of pending launches at least 20 µs ahead go out again with the new term (07 R225 step 1). -/
def State.sendAgain (s : State) (t : Nat) : State :=
  s.rows.foldl (fun acc r =>
    match (acc.task r.task).pendingAt with
    | some m => if acc.ptpAt t + 20000 ≤ acc.beatNs m then acc.taskFrames r.task m (acc.task r.task).outs else acc
    | none => acc) s

/-- The beat of the latest boundary at or before the reference of the control gap. -/
def State.refBeat (s : State) : Nat :=
  s.clk.beat - (s.clk.beatAt - s.csw.takeoverRef + 1000 * s.clk.p - 1) / (1000 * s.clk.p)

/-- The last launch of each task before its re-executed run: the one that goes out again, else the last that the partner can have made (07 R225, R226; log 54). -/
def State.markLaunches (s : State) (t : Nat) : State :=
  s.rows.foldl (fun acc r => acc.upTask r.task (fun x => { x with
    lastLaunch := match x.pendingAt with
      | some m => if s.ptpAt t + 20000 ≤ s.beatNs m then m else r.lastDue s.refBeat
      | none => r.lastDue s.refBeat })) s

/-- The commit engine of a unit that takes over: its first half opens at X, in the current beat (02 R53). -/
def Store.takeOver (x : Store) (beat : Nat) : Store :=
  let busy : HalfPhase := if !x.journal.isEmpty then .journal else if !x.settling.isEmpty then .settle else .free
  { x with
    isOpen := true, openHalf := 0, batches := [], unreported := []
    half0 := { Half.reset with phase := .openHalf, firstBeat := beat }
    half1 := { Half.reset with phase := busy } }

/-- The tasks of a unit that takes over: every next run is a first run, and launches that have passed are no longer pending; a task that is faulted stays so (03 R109). -/
def TaskSt.takeOver (t : TaskSt) (beat : Nat) : TaskSt :=
  { t with
    run := none, firstNext := true, overrunNow := false, outRun := false
    pendingAt := t.pendingAt.filter (fun n => decide (beat < n)) }

/-- The lanes of a unit that takes over: idle, the exchange registers reading zero (03 R90, 07 R225 step 5). -/
def Cluster.takeOver (u : Cluster) : Cluster :=
  { u with
    lanes := u.lanes.map (fun l => { Lane.reset with scratch := l.scratch })
    x := Vector.replicate 64 XReg.zero, items := Vector.replicate 4 [], queues := Vector.replicate 8 [], stopped := false }

/-- The field outputs of a unit that takes over drive their launched values (07 R525, 08 R255 row 4). -/
def State.drivesLaunched (s : State) : State :=
  (if s.fio.released then s else s.outputRelease).upFio (fun f => { f with launchSeen := true })

/-- A STANDBY becomes ACTIVE at `t` (07 R224, R225): `hand` for a planned switchover, whose old unit holds the outputs (07 R230); `again` unless the program is swapped, after which no run is re-executed (07 R237). -/
def State.takeOver (s : State) (t reason : Nat) (hand again : Bool) : State :=
  let gap := (t - s.csw.takeoverRef) / 1000
  let s := s.upCsw (fun c => { c with rx := [], rxMs := none, takeoverPend := none, launchPend := [], goPend := none, handBeat := none })
  let s := s.govern .active reason gap
  let s := s.abandonSwap 2 (if s.csw.role = .active then s.csw.term else 0) gap
  if s.csw.role ≠ .active then s
  else
    let s := s.upCsw (fun c => { c with
      takeovers := sat32 c.takeovers, gapUs := min 0xFFFF gap, gapReason := reason, redLost := true
      pos := if hand then c.ackPos else 0, stream := [], blocks := [], sendMs := [], sending := none, lagList := [], lag := 0
      resync := false, awaitLaunch := hand, driversOff := hand, storeComplete := true, cmdState := 0 })
    let s := ((s.cswCause 0).upClk (fun c => { c with powered := s.takeoverPowered })).upClu Cluster.takeOver
    let s := (s.upSto (·.takeOver s.clk.beat)).upTasks (·.map (·.takeOver s.clk.beat))
    let s := (((s.canTakeover.traceMark 2).requestAnchor).drivesLaunched).upDict (fun d => { d with sessions := [], volatile := [] })
    if s.pwr.state = .reduced ∧ s.minSetWide then (s.modeRefuse 8).enterFailed 2
    else ((if again then ((s.sendAgain t).markLaunches t).reexecuteAll else s).redrive).drain

/-! ### Planned switchover and program swap (07 R227 to R230, R236 to R238) -/

/-- The refusal code of a switchover command, 0 for none (07 R227, 18 R503): the image of code 4 is the one that the partner has staged (07 R235). -/
def State.switchRefusal (s : State) (kind : Nat) : Nat :=
  if s.csw.role ≠ .active ∨ s.csw.partnerRole ≠ 2 ∨ !s.hasPartner then 1
  else if kind = 2 ∧ !s.ldr.swapReady then 2
  else if s.csw.handBeat.isSome ∨ s.csw.handClosed then 3
  else if kind = 2 ∧ s.pwr.state = .reduced ∧ 4 ≤ s.csw.partnerMinSet then 4
  else 0

/-- The first beat whose boundary lies at least 1 ms after `t` (07 R228). -/
def State.handoverBeat (s : State) (t : Nat) : Nat :=
  s.clk.beat + max 1 ((t + 1000000 - s.clk.beatAt + 1000 * s.clk.p - 1) / (1000 * s.clk.p))

/-- A planned switchover is commanded (07 R227, R228, 18 R504 code 10). -/
def State.switchover (s : State) (kind t : Nat) : State :=
  let code := s.switchRefusal kind
  if code ≠ 0 then (s.upCsw (fun c => { c with cmdState := 4, cmdRefuse := code })).modeRefuse 10
  else
    let h := s.handoverBeat t
    (s.upCsw (fun c => { c with cmdState := 1, cmdRefuse := 0, kind := kind, handBeat := some h, handClosed := false })).sendBoth 0x04 0
      (leBytes 1 kind ++ zeros 7 ++ leBytes 8 h)

/-- A program swap is abandoned by command (07 R236, R238): on the ACTIVE unit SWAP_READY is gone, and on the unit that prepares the preparation ends (log 54). -/
def State.abandonCmd (s : State) : State :=
  if s.ldr.converting then s.abandonSwap 1 0 0
  else if s.csw.role = .active ∧ s.ldr.swapReady ∧ !s.csw.handClosed then
    ((s.upLdr (fun l => { l with swapReady := false, swapReport := swapReportOf l.digest s.csw.partnerDigest 0 0 1 0 none })).upCsw (fun c =>
      if c.kind = 2 then { c with swapDropped := true, handBeat := none, cmdState := if c.handBeat.isSome then 0 else c.cmdState }
      else { c with swapDropped := true })).cswCause 10
  else s

/-- A write to CSW_CMD or entry 0x6020 (07 R227, R240). -/
def State.switchCmd (s : State) (v t : Nat) : State :=
  if v = 1 ∨ v = 2 then s.switchover v t else if v = 3 then s.abandonCmd else s

/-- The new image and the converted state enter the stores at the handover of a program swap (07 R236, R237). -/
def State.swapStores (s : State) : State :=
  let i := s.stagedImage
  let conv := s.ldr.conv
  let s := (s.placeImage s.ldr.staged).recap
  let s := s.upSto (fun x =>
    let m := memRange x.lmem 0 instBase ++ memRange conv instBase (instBase + 2 ^ 25)
    { x with lmem := m, durable := m })
  (s.upClu (fun u => { u with single := i.single })).upTasks (·.map (fun _ => TaskSt.reset))

/-- HANDOVER_GO takes effect once the handover milestone has been applied (07 R229, R237, R238). -/
def State.goHandover (s : State) (t : Nat) : State :=
  match s.csw.goPend, s.csw.lastMs with
  | some (ms, _), some m =>
    if s.csw.role ≠ .standby ∨ m.num ≠ ms then s
    else
      let ref := s.clk.beatAt - (s.clk.beat - m.closeBeat) * (1000 * s.clk.p)
      let swap := decide (s.csw.kind = 2) && s.ldr.swapReady
      let old := s.ldr.digest
      let new := s.stagedImage
      let s := s.upCsw (fun c => { c with takeoverRef := ref, termNeedsConfirm := false })
      if swap then
        let s := s.swapStores.takeOver t 0 true false
        let s := s.upLdr (fun l => { l with
          swapReport := swapReportOf old new.digest ms s.csw.term 0 ((t - ref) / 1000) (some new) })
        s.cswCause 9
      else s.takeOver t 0 true true
  | _, _ => s

/-- HANDOVER_GO is sent after the last byte of the handover milestone; the old unit gives up its role, holds its outputs, and claims on CWA until the partner's claim appears (07 R221, R228, R230). -/
def State.sendGo (s : State) : State :=
  if s.csw.role ≠ .active ∨ !s.csw.handClosed ∨ !s.csw.sendMs.isEmpty ∨ s.csw.sending.isSome then s
  else
    let last := s.csw.lastMs
    let s := s.sendBoth 0x05 0 (leBytes 8 s.csw.handMs ++ leBytes 8 s.csw.pos)
    let s := s.upCsw (fun c => { c with
      holdOutputs := true, heldOut := s.sto.launched, cmdState := 3, handBeat := none, handClosed := false, partnerLaunch := 0 })
    let s := (s.upSto (fun x => { x with batches := [], unreported := [] })).abandonOpen
    if s.csw.kind = 2 then s.toSyncing.upCsw (fun c => { c with claimOn := true })
    else (s.transition .standby 0 0).upCsw (fun c => { c with claimOn := true, ackPos := c.pos, rx := [], rxMs := none, redLost := false, lastMs := last })

/-! ### The dispatcher of received frames -/

/-- A STREAM frame whose groups read well (07 R215). -/
def State.streamFrame (s : State) (t : Nat) (f : List Byte) (env : CwIn) : State :=
  if (s.csw.role ≠ .standby ∧ s.csw.role ≠ .syncing) ∨ s.csw.takeoverPend.isSome ∨ cwPos f ≠ s.csw.ackPos then s.cwDiscard
  else (s.streamIn env.table (cwPay f)).goHandover t

/-- A FAIL frame (07 R221, R223): the reference of the gap is the detection at the partner. -/
def State.failFrame (s : State) (p : List Byte) : State :=
  let s := if s.csw.partnerRole = 4 then s else s.cswCause 1
  s.partnerLost (byteAt p 0) ((getLE p 8 8 : Int) - s.clk.scale s.clk.now).toNat false

/-- What the reads of a frame's groups find: each corrected group counts, each one that the code cannot correct writes its record (01 R16, R17). -/
def State.cwErrors (s : State) (l : List Ecc) : State :=
  l.foldl (fun acc x => if x.hard then acc.uncorrectable .causeway x.addr else acc.corrected .causeway x.addr) s

/-- A causeway frame arrives on a lane at `t` (07 R206, R210 to R212); one with a group that the code cannot correct is no valid frame (01 R17). -/
def State.cwArrives (s : State) (lane t : Nat) (f : List Byte) (env : CwIn) : State :=
  let s := s.reach t
  if s.csw.dark then s
  else if env.ecc.any (·.hard) || !cwFormOk f then (s.cwErrors env.ecc).cwDiscard
  else if cwNode f ≠ s.partnerNode then
    (if cwType f = 6 then (s.cwErrors env.ecc).cwDiscard.negotiate f else (s.cwErrors env.ecc).cwDiscard)
  else
    let s := s.cwErrors env.ecc
    let old := if s.csw.partnerSeen && !s.csw.hbLost then s.csw.partnerRole else 5
    let s := s.upCsw (fun c => { c with
      laneUp := vset c.laneUp lane true, partnerSeen := true, seenAt := c.seenAt.max s.clk.now, partnerTerm := cwTerm f, partnerRole := cwRole f })
    let s := s.partnerRoleSeen old (cwRole f)
    let type := cwType f
    if type = 1 then s.heartbeatIn lane t (cwRole f) (cwPay f) env
    else if type = 2 then s.streamFrame t f env
    else if type = 3 then s.failFrame (cwPay f)
    else if type = 4 then s.upCsw (fun c => { c with kind := byteAt f 16, handBeat := if s.csw.role = .standby then some (getLE f 24 8) else c.handBeat })
    else if type = 5 then
      (if s.csw.role = .standby then (s.upCsw (fun c => { c with goPend := some (getLE f 16 8, getLE f 24 8) })).goHandover t else s)
    else s.negotiate f

/-! ### CWA (07 R207) -/

/-- The partner's claim is seen: a unit that withdraws, or has handed over, stops claiming (07 R230). -/
def State.claimSeen (s : State) : State :=
  let s := s.upCsw (fun c => { c with
    claim := true, cwaSeenClaim := true, cwaIdle := 0, claimOn := false
    negHeard := true, withdraw := c.withdraw || (decide (c.role = .active) && c.handBeat.isSome) })
  if s.csw.role = .negotiating then s.loseNegotiation else s

/-- A burst of 0xA5: after five that follow a claim, the partner is not claiming; an ACTIVE unit has not lost it by that (07 R221). -/
def State.idleSeen (s : State) (t : Nat) : State :=
  if !s.csw.cwaSeenClaim then s.upCsw (fun c => { c with claim := false })
  else if s.csw.cwaIdle + 1 < 5 then s.upCsw (fun c => { c with cwaIdle := c.cwaIdle + 1 })
  else
    let s := s.upCsw (fun c => { c with claim := false, cwaSeenClaim := false, cwaIdle := 0 })
    if s.csw.role = .active then s else s.partnerLost 0 t false

/-- A cycle without a valid burst: the fifth declares the partner absent on CWA. -/
def State.burstMissing (s : State) : State :=
  if s.csw.cwaMiss + 1 < 5 then s.upCsw (fun c => { c with cwaMiss := c.cwaMiss + 1 })
  else if s.csw.cwaAbsent then s
  else
    let was := s.csw.cwaUp
    let s := s.upCsw (fun c => { c with
      cwaMiss := 5, cwaAbsent := true, cwaUp := false, claim := false, cwaSeenClaim := false, cwaIdle := 0 })
    let s := if was ∧ !s.lanesUp.isEmpty then s.cswCause 4 else s
    s.partnerSilent

/-- This unit's burst: 0x5A while it claims (07 R207, R230; log 54). -/
def State.burstCode (s : State) : Byte := if (s.csw.role = .active ∧ !s.csw.withdraw) ∨ s.csw.claimOn then 0x5A else 0xA5

/-- One cycle of CWA that ends at `t`, with the partner's burst. -/
def State.cwaCycle (s : State) (t : Nat) (burst : Option Byte) : State :=
  let s := s.reach t
  if s.csw.dark then s
  else
    let s := if s.csw.cwaMaster ∨ burst.isSome then s.send (.cwa s.burstCode) else s
    let valid := decide (burst = some 0x5A ∨ burst = some 0xA5)
    if !valid then s.burstMissing
    else
      let s := s.upCsw (fun c => { c with cwaUp := true, cwaAbsent := false, cwaMiss := 0, partnerSeen := true, seenAt := c.seenAt.max s.clk.now })
      if burst = some 0x5A then s.claimSeen else s.idleSeen t

/-! ### Meanings -/

/-- Does an output set hold a local channel? -/
def setsLocal (o : Ov) : Bool := o.any (fun e => decide (doutBase ≤ e.1 ∧ e.1 < doutBase + 64 ∧ e.2.1 ≠ 0))

/-- PTP time of the next local launch (07 R212 LAUNCH), 0 when none is pending. -/
def State.nextLaunch (s : State) : Nat :=
  if s.csw.role ≠ .active then 0
  else
    match (s.tasks.toList.filterMap (fun t => if setsLocal t.outs then t.pendingAt else none)).min? with
    | some n => s.beatNs n
    | none => 0

/-- STATUS of a HEARTBEAT. -/
def State.hbStatus (s : State) : Nat :=
  bit (vget s.csw.laneUp 0 false) + 2 * bit (vget s.csw.laneUp 1 false) + 4 * bit s.csw.cwaUp + 8 * bit s.csw.resync +
    16 * bit (decide (s.csw.role = .standby) && s.ldr.swapReady) + 32 * bit s.isLocked

/-- HEARTBEAT_SEND (07 R206). -/
def execHeartbeatSend (t : Nat) (s : State) : Host.Outcome State Fault Refusal :=
  let s1 := s.reach t
  commit s (if s.csw.dark then s1
    else s1.sendBoth 0x01 0 (leBytes 8 (if s.csw.role = .active then s.csw.pos else s.csw.ackPos) ++ leBytes 8 s.sto.msDurable ++
      leBytes 8 s1.nextLaunch ++ leBytes 4 s1.ptpNow ++ leBytes 4 s.hbStatus))

/-- HEARTBEAT_RECEIVE (07 R212). -/
def execHeartbeatReceive (lane t : Nat) (frame : List Byte) (env : CwIn) (s : State) : Host.Outcome State Fault Refusal :=
  commit s (s.cwArrives lane t frame env)

/-- HEARTBEAT_LOST (07 R206, R223): 100 µs without a HEARTBEAT on either lane. -/
def execHeartbeatLost (t : Nat) (s : State) : Host.Outcome State Fault Refusal :=
  let s1 := s.reach t
  commit s (
    if s.csw.dark || s.csw.hbLost || decide (t < s.csw.lastHb + 100000) ||
        (decide (s.csw.lastHb = 0) && decide (s.csw.role ≠ .standby ∧ s.csw.role ≠ .syncing)) then s1
    else
      let s2 := (s1.upCsw (fun c => { c with hbLost := true, partnerSeen := c.partnerSeen && !c.cwaAbsent })).cswCause 2
      if s2.csw.cwaAbsent then s2.partnerSilent
      else if s2.csw.role = .active then s2.losePartner
      else if s2.csw.role = .standby ∧ s2.csw.claim then s2.fallBack
      else s2)

/-- LANE_DOWN (07 R206, R221): no valid frames arrive on the lane any more. -/
def execLaneDown (lane : Nat) (s : State) : Host.Outcome State Fault Refusal :=
  commit s (
    if s.csw.dark || !vget s.csw.laneUp lane false then s
    else
      let s2 := (s.upCsw (fun c => { c with laneUp := vset c.laneUp lane false })).cswCause 3
      if s2.lanesUp.isEmpty ∧ s2.csw.claim ∧ s2.csw.role = .standby then s2.fallBack else s2)

/-- CWA_CYCLE (07 R207). -/
def execCwaCycle (t : Nat) (burst : Option Byte) (s : State) : Host.Outcome State Fault Refusal := commit s (s.cwaCycle t burst)

/-- CWA_MASTER_TAKEOVER (07 R207): the master's bursts have been absent for 10 µs. -/
def execCwaMasterTakeover (s : State) : Host.Outcome State Fault Refusal :=
  commit s (if s.csw.dark then s else
    let s2 := s.upCsw (fun c => { c with cwaMaster := true })
    if s2.csw.cwaAbsent then s2 else (s2.upCsw (fun c => { c with cwaMiss := 4 })).burstMissing)

/-- NEGOTIATE_SEND (07 R209): on both lanes. -/
def execNegotiateSend (t : Nat) (s : State) : Host.Outcome State Fault Refusal :=
  let s1 := s.reach t
  let k := s.rankKeys
  let b := leBytes 8 (k[2]?.getD 0) ++ leBytes 2 (k[1]?.getD 0) ++ leBytes 1 (k[3]?.getD 0) ++
    leBytes 1 (bit s.csw.storeComplete + 2 * bit s.ldr.img.isSome) ++ zeros 4 ++ padTo 32 s.ldr.digest
  commit s (if s.csw.dark || decide (s.csw.role ≠ .negotiating) then s1
    else (s1.send (.cw 0 (s1.cwFrame 0x06 0 0 b))).send (.cw 1 (s1.cwFrame 0x06 1 0 b)))

/-- NEGOTIATE_RECEIVE (07 R209, R210). -/
def execNegotiateReceive (lane t : Nat) (frame : List Byte) (env : CwIn) (s : State) : Host.Outcome State Fault Refusal :=
  commit s (s.cwArrives lane t frame env)

/-- NEGOTIATION_TIMEOUT (07 R209 rule 3): 200 ms without a NEGOTIATE frame or a claim. -/
def execNegotiationTimeout (t : Nat) (s : State) : Host.Outcome State Fault Refusal :=
  let s1 := s.reach t
  commit s (if s.csw.role ≠ .negotiating ∨ s.csw.dark ∨ s.csw.negHeard ∨ t < s.csw.negSince + 200000000 then s1
    else s1.winNegotiation true true)

/-- MILESTONE_TRANSFER (07 R214): the next closed milestone enters the stream. -/
def execMilestoneTransfer (s : State) : Host.Outcome State Fault Refusal := commit s s.sendMilestone

/-- CAUSEWAY_TRANSFER_DONE (07 R214, 01 R18): the last byte of the milestone has been sent on a lane. -/
def execCausewayTransferDone (s : State) : Host.Outcome State Fault Refusal :=
  commit s (match s.csw.sending with
    | none => s
    | some _ =>
      let s2 := s.upCsw (fun c => { c with sending := none })
      if s2.csw.sendMs.isEmpty then s2.upOther (fun h => { h with transfer := true }) else s2)

/-- STREAM_RECEIVE (07 R215). -/
def execStreamReceive (lane t : Nat) (frame : List Byte) (env : CwIn) (s : State) : Host.Outcome State Fault Refusal :=
  commit s (s.cwArrives lane t frame env)

/-- RESEND_TIMEOUT (07 R216). -/
def execResendTimeout (s : State) : Host.Outcome State Fault Refusal := commit s s.resend

/-- BULK_SEND (07 R219): a BULK record of up to `n` groups. -/
def execBulkSend (n : Nat) (s : State) : Host.Outcome State Fault Refusal := commit s (s.sendBulk n)

/-- FAIL_RECEIVE (07 R223). -/
def execFailReceive (lane t : Nat) (frame : List Byte) (env : CwIn) (s : State) : Host.Outcome State Fault Refusal :=
  commit s (s.cwArrives lane t frame env)

/-- TAKEOVER_EXECUTE (07 R225): the detected takeover executes at `t`. -/
def execTakeoverExecute (t : Nat) (s : State) : Host.Outcome State Fault Refusal :=
  let s1 := s.reach t
  commit s (match s.csw.takeoverPend with
    | some reason => if s.csw.role = .standby then s1.takeOver t reason false true else s1
    | none => s1)

/-- TERM_CONFIRM_TIMEOUT (07 R233): 1 ms after its term claim no station has reported the term accepted. -/
def execTermConfirmTimeout (t : Nat) (s : State) : Host.Outcome State Fault Refusal :=
  let s1 := (s.reach t).upCsw (fun c => { c with termNeedsConfirm := false })
  commit s (if s.csw.role = .active ∧ s.csw.termNeedsConfirm ∧ !s.csw.termConfirmed then s1.enterFailed 7 else s1)

/-- HANDOVER_RECEIVE (07 R228): the handover beat is announced. -/
def execHandoverReceive (lane t : Nat) (frame : List Byte) (env : CwIn) (s : State) : Host.Outcome State Fault Refusal :=
  commit s (s.cwArrives lane t frame env)

/-- HANDOVER_GO_SEND (07 R228). -/
def execHandoverGoSend (t : Nat) (s : State) : Host.Outcome State Fault Refusal := commit s (s.reach t).sendGo

/-- HANDOVER_GO_RECEIVE (07 R229). -/
def execHandoverGoReceive (lane t : Nat) (frame : List Byte) (env : CwIn) (s : State) : Host.Outcome State Fault Refusal :=
  commit s (s.cwArrives lane t frame env)

/-- HANDOVER_DRIVERS_OFF (07 R230): the new unit's first local launch has come. -/
def execHandoverDriversOff (t : Nat) (s : State) : Host.Outcome State Fault Refusal :=
  let s1 := s.reach t
  commit s (if s.csw.holdOutputs ∧ 0 < s.csw.partnerLaunch ∧ s.csw.partnerLaunch ≤ s.ptpAt t then
    (s1.upCsw (fun c => { c with driversOff := true, holdOutputs := false })).redrive else s1)

/-- Entry 0x6012: operating time since the unit left ACTIVE, in ms (07 R231). -/
def State.sinceActiveMs (s : State) : Nat := if s.csw.role = .active then 0 else s.otMs - s.csw.sinceActive

/-- DRILL_DUE (07 R231): the limit of entry 0x6004 is exceeded, or 24 hours have passed since the last time. -/
def execDrillDue (t : Nat) (s : State) : Host.Outcome State Fault Refusal :=
  let s1 := s.reach t
  let again := match s.csw.drillLast with
    | some l => decide (l + 86400000 ≤ s1.otMs)
    | none => true
  commit s (if s.csw.pair && decide (s.csw.role ≠ .active) && again && decide (s.inForce 0x6004 0 2592000000 < s1.sinceActiveMs) then
    (s1.upCsw (fun c => { c with cause := setBit c.cause 8 true, drillLast := some s1.otMs })).occurSev 0x0A08 0 4 []
  else s1)

/-! ### Registers (07 R239, R240) -/

/-- CSW_STATUS. -/
def State.cswStatus (s : State) : Word :=
  let c := s.csw
  w32 (c.role.code + 8 * c.partnerRole + 64 * bit c.pair + 128 * bit (c.partnerSeen && decide (s.clk.now ≤ c.seenAt + 100000)) + 256 * bit c.redLost +
    512 * bit s.ldr.swapReady + 1024 * bit (vget c.laneUp 0 false) + 2048 * bit (vget c.laneUp 1 false) + 4096 * bit c.cwaUp +
    8192 * bit c.claim + 65536 * c.term)

/-- A read of a CSW register. -/
def State.cswRead (s : State) (off : Nat) : Word × State :=
  let c := s.csw
  if off = 0x000 then (s.cswStatus, s)
  else if off = 0x004 then (c.cause, s)
  else if off = 0x008 then (c.causeEn, s)
  else if off = 0x00C then (w32 (c.bulkPct + 65536 * c.lag), s)
  else if off = 0x010 then (w32 (min 0xFFFF c.delay), s)
  else if off = 0x014 then (w32 c.resends, s.upCsw (fun c => { c with resends := 0 }))
  else if off = 0x018 then 
    let c := (c.countMiss 0 s.clk.now).countMiss 1 s.clk.now
    (w32 (c.hbMiss0 + 65536 * c.hbMiss1), s.upCsw (fun _ => { c with hbMiss0 := 0, hbMiss1 := 0 }))
  else if off = 0x01C then (w32 c.frameErr, s.upCsw (fun c => { c with frameErr := 0 }))
  else if off = 0x020 then (w32 (c.gapUs + 65536 * c.gapReason), s)
  else if off = 0x028 then (w32 (c.cmdState + 256 * c.cmdRefuse), s)
  else (0, s)

/-- A write to a CSW register. -/
def State.cswWrite (s : State) (off : Nat) (v : Word) (priv : Bool) : WriteAns :=
  if off = 0x004 then .done (s.upCsw (fun c => { c with cause := w1c c.cause v }))
  else if off = 0x008 then .done (s.upCsw (fun c => { c with causeEn := v &&& 0x3FFF }))
  else if off = 0x024 then needPriv priv (.done (s.switchCmd (wfield v 1 0) s.clk.now))
  else .done s

end Sys2Proof.Machine
end

