-- ==== Sys2Proof/Machine/Settings.lean ====
section
/-! DEFINITION. The entries of the object dictionary: type, right, default and the time at which a write takes effect, as the tables of each chapter give them, and the effect itself (11 R321 to R326). -/

set_option Elab.async false

namespace Sys2Proof.Machine

open Sys2Proof

/-! ### Entries (11 R321 to R325) -/

/-- The access rights of R324. -/
inductive Right where
  | ro | rw | wo | priv | sealed
  deriving DecidableEq, Repr

/-- When a write takes effect (11 R325): at the next start-up, at the next beat boundary, at once, or as a command that stores nothing. -/
inductive When | startup | boundary | once | command
  deriving DecidableEq, Repr

/-- One entry: type code, right, size in bytes (0 for one of varying size), default where the spec gives one, effect. -/
structure Entry where
  type : Nat
  right : Right
  size : Nat
  dflt : Option (List Byte)
  eff : When
  deriving DecidableEq, Repr

/-- An unsigned or BOOL entry with a default. -/
def eU (type size : Nat) (r : Right) (d : Nat) (w : When) : Entry := ⟨type, r, size, some (leBytes size d), w⟩

/-- A read-only entry of fixed size with a numeric default. -/
def eR (type size d : Nat) : Entry := ⟨type, .ro, size, some (leBytes size d), .command⟩

/-- A read-only entry without a default. -/
def eN (type size : Nat) : Entry := ⟨type, .ro, size, none, .command⟩

/-- A command entry: PRIV, one byte, default 0. -/
def eC : Entry := ⟨0x06, .priv, 1, some [0], .command⟩

/-- The entries with one place of their own (02 R83, 03 R117, 06 R193, 07 R241, 09 R296, 11 R350, 12 R379, 13 R413, 14 R434, 15 R457, 16 R477, 17 R492, 18 R504, 19 R523). -/
def entriesLow : List (Nat × Nat × Entry) :=
  [(0x1000, 0, eR 0x08 4 0x512), (0x1001, 0, eU 0x07 2 .priv 1023 .startup),
   (0x1008, 0, ⟨0x14, .ro, 0, some ([12] ++ [0x57, 0x61, 0x69, 0x72, 0x61, 0x78, 0x20, 0x57, 0x4B, 0x35, 0x31, 0x32].map (BitVec.ofNat 8)), .command⟩),
   (0x1009, 0, eN 0x14 0), (0x100A, 0, eN 0x14 0), (0x1010, 1, eU 0x08 4 .priv 0 .command), (0x1010, 2, eN 0x06 1), (0x1011, 0, eC),
   (0x1018, 1, eN 0x08 4), (0x1018, 2, eN 0x08 4), (0x1018, 3, eN 0x08 4), (0x1020, 0, ⟨0x20, .priv, 32, some (zeros 32), .once⟩),
   (0x1021, 0, eR 0x06 1 0), (0x1022, 0, eR 0x08 4 0), (0x1023, 0, eR 0x08 4 0), (0x1030, 0, ⟨0x21, .priv, 0, some [], .command⟩),
   (0x1031, 0, eC), (0x1032, 0, eR 0x06 1 0), (0x1033, 0, eN 0x20 8),
   (0x1100, 1, eU 0x01 1 .priv 1 .startup), (0x1100, 2, eU 0x01 1 .priv 1 .startup), (0x1100, 3, eU 0x07 2 .priv 0 .startup),
   (0x1100, 4, eU 0x06 1 .priv 6 .startup), (0x1100, 5, eU 0x07 2 .rw 100 .startup),
   (0x1110, 1, eU 0x08 4 .priv 0 .startup), (0x1110, 2, eU 0x08 4 .priv 0 .startup), (0x1110, 3, eU 0x08 4 .priv 0 .startup),
   (0x1200, 1, eU 0x06 1 .priv 0 .startup), (0x1200, 2, eU 0x06 1 .priv 0 .startup), (0x1200, 3, eU 0x06 1 .priv 0x0F .startup),
   (0x1200, 4, eU 0x06 1 .priv 0 .startup), (0x1200, 5, eU 0x06 1 .priv 0 .startup), (0x1200, 6, eU 0x02 1 .priv 0xFC .startup),
   (0x1200, 7, eU 0x06 1 .priv 128 .startup), (0x1200, 8, eU 0x06 1 .priv 128 .startup),
   (0x1300, 1, eU 0x07 2 .priv 0xFFFF .startup), (0x1300, 2, eU 0x07 2 .priv 0xFFFF .startup), (0x1300, 3, eU 0x07 2 .priv 512 .startup),
   (0x1300, 4, eU 0x07 2 .priv 0 .startup), (0x1300, 5, eU 0x06 1 .priv 0 .startup),
   (0x2010, 0, eR 0x20 16 0), (0x2011, 0, eR 0x20 16 0),
   (0x2020, 0, ⟨0x20, .rw, 32, some (leBytes 2 0x0C37 ++ zeros 30), .startup⟩), (0x2030, 1, eN 0x02 1), (0x2030, 2, eR 0x01 1 0),
   (0x2030, 3, eR 0x08 4 0), (0x2040, 0, eU 0x06 1 .priv 0 .startup), (0x2100, 1, eU 0x06 1 .priv 0 .startup),
   (0x2100, 2, eU 0x01 1 .priv 0 .startup), (0x2101, 0, eU 0x01 1 .priv 1 .boundary), (0x2102, 0, eN 0x06 1), (0x2103, 0, eN 0x06 1),
   (0x2104, 0, eR 0x07 2 0), (0x2200, 0, eU 0x06 1 .priv 32 .once), (0x2201, 0, eC), (0x2202, 0, eU 0x06 1 .priv 0 .startup),
   (0x2203, 0, ⟨0x20, .priv, 8, some (zeros 8), .once⟩), (0x2204, 0, eU 0x08 4 .priv 0 .startup),
   (0x2205, 0, ⟨0x13, .priv, 8, none, .command⟩), (0x2206, 0, eR 0x01 1 0), (0x2207, 0, eN 0x08 4),
   (0x2300, 0, eU 0x08 4 .priv 0xFFFFFFFF .startup)]

@[inherit_doc entriesLow] def entriesHigh : List (Nat × Nat × Entry) :=
  [(0x3500, 0, eU 0x07 2 .rw 10 .startup),
   (0x4000, 0, eU 0x08 4 .rw 1000 .startup), (0x4001, 0, eU 0x08 4 .rw 20 .startup), (0x4002, 0, eU 0x08 4 .rw 50 .startup),
   (0x4003, 0, eU 0x06 1 .priv 0 .startup), (0x4010, 0, eN 0x09 8), (0x4011, 0, eN 0x09 8), (0x4012, 0, eR 0x08 4 0),
   (0x4013, 0, eR 0x08 4 0), (0x4014, 0, eN 0x09 8), (0x4020, 0, eN 0x06 1), (0x4021, 0, eN 0x06 1), (0x4022, 0, eR 0x20 32 0),
   (0x4030, 0, ⟨0x21, .priv, 0, none, .command⟩), (0x4031, 0, eC), (0x4032, 0, eR 0x06 1 0), (0x4033, 0, eR 0x20 16 0),
   (0x4034, 0, eN 0x20 32), (0x4035, 0, eR 0x20 32 0), (0x4036, 0, eN 0x06 1), (0x4037, 0, eR 0x08 4 0), (0x4038, 0, eR 0x06 1 0),
   (0x4040, 0, ⟨0x21, .priv, 0, some [], .command⟩),
   (0x5001, 0, eU 0x06 1 .rw 3 .boundary), (0x5002, 0, eR 0x07 2 0), (0x5003, 0, eR 0x20 32 0), (0x5004, 0, eC),
   (0x5005, 0, ⟨0x21, .ro, 0, some [], .command⟩), (0x5010, 0, eN 0x07 2), (0x5011, 0, eC), (0x5012, 0, eR 0x20 12 0),
   (0x5300, 0, eU 0x01 1 .priv 1 .startup), (0x5301, 0, eU 0x08 4 .rw 600 .boundary), (0x5302, 0, eU 0x07 2 .rw 1000 .once),
   (0x5303, 0, eC), (0x5304, 0, ⟨0x21, .ro, 0, some [], .command⟩), (0x5305, 1, eU 0x01 1 .priv 0 .startup),
   (0x5305, 2, eU 0x08 4 .priv 0 .startup), (0x5305, 3, eU 0x07 2 .priv 41795 .startup), (0x5305, 4, eU 0x06 1 .priv 100 .once),
   (0x5310, 0, ⟨0x21, .priv, 0, some [], .command⟩), (0x5311, 0, eC), (0x5312, 0, eU 0x09 8 .rw 0 .once), (0x5313, 0, eR 0x20 64 0),
   (0x6000, 0, eU 0x06 1 .priv 0 .startup), (0x6001, 0, eU 0x07 2 .priv 0xFFFF .startup), (0x6002, 0, eU 0x01 1 .rw 0 .once),
   (0x6004, 0, eU 0x09 8 .rw 2592000000 .once), (0x6010, 0, eR 0x06 1 5), (0x6011, 0, eR 0x07 2 0), (0x6012, 0, eN 0x09 8),
   (0x6013, 0, eR 0x08 4 0), (0x6014, 0, eR 0x20 16 0), (0x6020, 0, eC), (0x6022, 0, ⟨0x21, .ro, 0, some [], .command⟩),
   (0x6023, 0, eU 0x06 1 .priv 0 .startup), (0x6030, 0, eR 0x08 4 0),
   (0x7000, 1, eN 0x08 4), (0x7000, 2, eN 0x20 32), (0x7000, 3, eN 0x08 4), (0x7000, 4, eN 0x07 2), (0x7000, 5, eN 0x01 1),
   (0x7010, 0, ⟨0x21, .ro, 0, none, .command⟩)]

/-- The sub-indices of a station slot (09 R296). -/
def entrySlot (sub : Nat) : Option Entry :=
  if sub = 1 then some (eU 0x07 2 .priv 0xFFFF .startup)
  else if sub = 2 then some (eU 0x06 1 .priv 0 .startup)
  else if sub = 3 ∨ sub = 5 ∨ sub = 7 ∨ sub = 9 then some (eU 0x08 4 .priv 0 .startup)
  else if sub = 4 ∨ sub = 6 ∨ sub = 8 ∨ sub = 10 then some (eU 0x07 2 .priv 0 .startup)
  else if sub = 11 then some (eU 0x06 1 .rw 0 .startup)
  else if sub = 12 then some (eU 0x06 1 .wo 0 .command)
  else if sub = 13 then some (eR 0x06 1 0)
  else none

/-- The sub-indices of a CAN port (10 R320, 11 R350). -/
def entryCan (sub : Nat) : Option Entry :=
  if sub = 1 then some (eU 0x01 1 .priv 0 .startup)
  else if sub = 2 then some (eU 0x08 4 .priv 0x078F3E00 .startup)
  else if sub = 3 then some (eU 0x08 4 .priv 0x03030E00 .startup)
  else if sub = 4 then some (eU 0x08 4 .priv 0x00000F01 .startup)
  else if sub = 5 ∨ sub = 7 then some (eU 0x01 1 .priv 1 .startup)
  else if sub = 6 ∨ sub = 8 ∨ sub = 9 ∨ sub = 11 ∨ sub = 12 then some (eU 0x01 1 .priv 0 .startup)
  else if sub = 10 then some (eU 0x08 4 .priv 0 .startup)
  else if sub = 13 ∨ sub = 14 then some (eU 0x08 4 .priv 0xFFFFFFFF .startup)
  else if sub = 15 then some (eR 0x08 4 0)
  else none

/-- The sub-indices of a task (02 R83, 03 R117). -/
def entryTask (sub : Nat) : Option Entry :=
  if sub = 1 ∨ sub = 2 then some (eN 0x08 4)
  else if sub = 3 ∨ sub = 4 ∨ sub = 6 ∨ sub = 7 ∨ sub = 10 then some (eR 0x08 4 0)
  else if sub = 5 ∨ sub = 9 then some (eR 0x06 1 0)
  else if sub = 8 then some (eN 0x06 1)
  else if sub = 11 then some eC
  else none

/-- The sub-indices of a bridge channel (17 R492). -/
def entryMet (sub : Nat) : Option Entry :=
  let e (type size d : Nat) : Option Entry := some ⟨type, .sealed, size, some (leBytes size d), .command⟩
  if sub = 1 ∨ sub = 2 then e 0x01 1 0
  else if sub = 3 then e 0x07 2 3000
  else if sub = 4 then e 0x06 1 1
  else if sub = 5 then e 0x02 1 0
  else if sub = 6 ∨ sub = 7 then e 0x04 4 0
  else if sub = 8 then e 0x07 2 10
  else if sub = 9 then e 0x01 1 1
  else none

/-- The families of entries that repeat for slots, ports, buffers, channels, groups, tasks, waymarks, triggers and bridge channels. -/
def entryFamily (i sub : Nat) : Option Entry :=
  if 0x1400 ≤ i ∧ i < 0x1500 then entrySlot sub
  else if 0x2800 ≤ i ∧ i < 0x2808 then entryCan sub
  else if 0x2900 ≤ i ∧ i < 0x2B00 then
    (if 1 ≤ sub ∧ sub ≤ 4 then some (eU 0x08 4 .priv 0 .startup) else if sub = 5 then some (eR 0x08 4 0) else none)
  else if 0x2B00 ≤ i ∧ i < 0x2B08 then
    (if 1 ≤ sub ∧ sub ≤ 64 then some (eU 0x07 2 .priv 0 .startup)
     else if sub = 65 then some ⟨0x20, .priv, 1024, some (zeros 1024), .startup⟩ else none)
  else if 0x3000 ≤ i ∧ i < 0x3200 then
    (if sub = 1 ∨ sub = 3 then some (eU 0x06 1 .rw 0 .startup)
     else if sub = 2 then some (eU 0x07 2 .rw 3000 .boundary)
     else if sub = 4 then some (eU 0x01 1 .rw 1 .boundary)
     else if sub = 5 then some (eR 0x06 1 0) else none)
  else if 0x3400 ≤ i ∧ i < 0x3408 then
    (if sub = 1 then some (eU 0x01 1 .rw 1 .startup)
     else if sub = 2 then some (eU 0x06 1 .rw 0 .boundary)
     else if sub = 3 then some (eU 0x06 1 .wo 0 .command)
     else if sub = 4 ∨ sub = 5 then some (eR 0x07 2 0)
     else if sub = 6 then some (eR 0x07 2 0x0200) else none)
  else if 0x4100 ≤ i ∧ i < 0x4120 then entryTask sub
  else if 0x5100 ≤ i ∧ i < 0x5120 then
    (if sub = 1 ∨ sub = 2 ∨ sub = 4 then some (eU 0x06 1 .priv 0 .startup)
     else if sub = 3 then some (eU 0x07 2 .priv 1000 .startup) else none)
  else if 0x5200 ≤ i ∧ i < 0x5280 then
    (if sub = 1 ∨ sub = 2 then some ⟨0x07, .priv, 2, none, .boundary⟩
     else if sub = 3 ∨ sub = 4 then some ⟨0x06, .priv, 1, none, .boundary⟩
     else if sub = 5 then some ⟨0x20, .priv, 192, none, .boundary⟩ else none)
  else if 0x7100 ≤ i ∧ i < 0x7108 then entryMet sub
  else if 0x7200 ≤ i ∧ i < 0x7204 then (if sub = 1 then entryMet 1 else none)
  else none

/-- The entry at an index and sub-index below 0x8000. -/
def entryAt (i sub : Nat) : Option Entry :=
  let l := if i < 0x3000 then entriesLow else entriesHigh
  match l.find? (fun x => decide (x.1 = i ∧ x.2.1 = sub)) with
  | some x => some x.2.2
  | none => entryFamily i sub

/-- Does an index exist? -/
def indexKnown (i : Nat) : Bool := (List.range 66).any (fun k => (entryAt i k).isSome)

/-! ### Effects (11 R325) -/

/-- A value comes into force, and where it stands in a register of its own, in that register. -/
def State.setForce (s : State) (key : Nat) (v : List Byte) : State :=
  let s := s.upDict (fun d => { d with force := aput key v d.force })
  let i := key / 256
  let n := leNat v
  if 0x3000 ≤ i ∧ i < 0x3200 ∧ key % 256 = 2 then s.upChan (i - 0x3000) (fun c => { c with filter := n, count := 0 })
  else if 0x3000 ≤ i ∧ i < 0x3200 ∧ key % 256 = 4 then s.upChan (i - 0x3000) (fun c => { c with openEn := decide (n ≠ 0) })
  else if 0x3400 ≤ i ∧ i < 0x3408 ∧ key % 256 = 2 then s.upGroup (i - 0x3400) (fun g => FieldGroup.selfRestore { g with restore := decide (n ≠ 0) })
  else if i = 0x5001 then s.upEvr (fun e => { e with level := n })
  else if i = 0x2101 then s.upNvp (fun q => { q with waxOn := decide (n ≠ 0) })
  else if i = 0x2200 then s.upRtc (fun r => { r with trimNext := some n })
  else s

/-- Entries marked boundary take effect. -/
def State.takeSettings (s : State) : State :=
  s.dict.atBoundary.foldl (fun acc x => acc.setForce x.1 x.2) (s.upDict (fun d => { d with atBoundary := [] }))

/-- The indices whose pending start-up writes show in FIO_STATUS.CONFIG_PENDING (08 R267). -/
def fieldIndex (i : Nat) : Bool := decide (0x3000 ≤ i ∧ i ≤ 0x3500)

/-- A value is durable in its system record: it is stored and takes effect as its entry says; answers INFO, whose bit 0 is PENDING. -/
def State.storeValue (s : State) (key : Nat) (v : List Byte) : State × Nat :=
  let s := s.upDict (fun d => { d with stored := aput key v d.stored })
  match entryAt (key / 256) (key % 256) with
  | none => (s, 0)
  | some e =>
    match e.eff with
    | .startup => (if fieldIndex (key / 256) then s.upFio (fun f => { f with pendingCfg := true }) else s, 1)
    | .boundary =>
      if s.clk.running then (s.upDict (fun d => { d with atBoundary := d.atBoundary ++ [(key, v)] }), 1) else (s.setForce key v, 0)
    | .once => (s.setForce key v, 0)
    | .command => (s, 0)

/-! ### Ranges (11 R323, R325) -/

/-- A stored value as it would stand after a write of `v` to `key`. -/
def State.after (s : State) (key : Nat) (v : List Byte) (i sub d : Nat) : Nat :=
  if entryKey i sub = key then leNat v else s.storedNat i sub d

/-- A pair configuration is complete: it names a partner, not the unit itself, and a station is configured (07 R199). -/
def State.pairOk (s : State) (key : Nat) (v : List Byte) : Bool :=
  let f := s.after key v
  decide (f 0x6000 0 0 = 0) || decide (s.pwr.role ≠ .controller) ||
    (decide (f 0x6001 0 0xFFFF ≠ 0xFFFF) && decide (f 0x6001 0 0xFFFF ≠ f 0x1001 0 1023) &&
      (List.range 256).any (fun k => decide (f (0x1400 + k) 1 0xFFFF ≠ 0xFFFF)))

/-- The blocks of analogue words that station slots, CAN buffers and the metrology block take, as they would stand after a write: whether they lie in the input image, first word, words, and whose they are. -/
def State.wordBlocks (s : State) (key : Nat) (v : List Byte) : List (Bool × Nat × Nat × Nat) :=
  let f := s.after key v
  let st := (List.range 256).flatMap (fun k =>
    if f (0x1400 + k) 1 0xFFFF = 0xFFFF then [] else
      [(true, f (0x1400 + k) 5 0, f (0x1400 + k) 6 0, k), (false, f (0x1400 + k) 9 0, f (0x1400 + k) 10 0, k)])
  let can := (List.range 512).flatMap (fun b =>
    let c := w32 (f (0x2900 + b) 1 0)
    if wfield c 3 2 = 1 ∧ wfield c 1 0 ≠ 0 then [(decide (wfield c 1 0 = 1), f (0x2900 + b) 4 0, 2 + wfield c 16 12, 256 + b)] else [])
  let met := if f 0x2300 0 0xFFFFFFFF = 0xFFFFFFFF then [] else [(true, f 0x2300 0 0xFFFFFFFF, 104, 768)]
  (st ++ can ++ met).filter (fun x => decide (0 < x.2.2.1))

/-- Two blocks share a word. -/
def blocksMeet (x y : Bool × Nat × Nat × Nat) : Bool :=
  decide (x.1 = y.1) && decide (x.2.1 < y.2.1 + y.2.2.1 ∧ y.2.1 < x.2.1 + x.2.2.1)

/-- Blocks of owner `w` lie within their section and share no word with another owner's. -/
def State.blocksOk (s : State) (key : Nat) (v : List Byte) (w : Nat) : Bool :=
  let l := s.wordBlocks key v
  (l.filter (fun x => decide (x.2.2.2 = w))).all (fun x =>
    decide (x.2.1 + x.2.2.1 ≤ 65536) && !l.any (fun y => decide (y.2.2.2 ≠ w) && blocksMeet x y))

/-- The bit blocks of a station slot as they would stand after a write (09 R280). -/
def State.bitBlock (s : State) (key : Nat) (v : List Byte) (k sub : Nat) : Nat × Nat :=
  (s.after key v (0x1400 + k) sub 0, s.after key v (0x1400 + k) (sub + 1) 0)

/-- A station slot within R280, as it would stand after a write: counts, bases and sections hold for every slot, identity and overlaps for one in use. -/
def State.slotOk (s : State) (key : Nat) (v : List Byte) (k : Nat) : Bool :=
  let f := s.after key v
  let node := f (0x1400 + k) 1 0xFFFF
  let used (j : Nat) : Bool := decide (f (0x1400 + j) 1 0xFFFF ≠ 0xFFFF)
  let bits (sub : Nat) : Bool :=
    let b := s.bitBlock key v k sub
    decide (b.2 % 32 = 0 ∧ b.2 ≤ 512) && (decide (b.2 = 0) || decide (b.1 % 32 = 0 ∧ 512 ≤ b.1 ∧ b.1 + b.2 ≤ 262144))
  let apart (sub : Nat) : Bool :=
    let b := s.bitBlock key v k sub
    (List.range 256).all (fun j => decide (j = k) || !used j ||
      (let c := s.bitBlock key v j sub
       decide (b.2 = 0 ∨ c.2 = 0 ∨ c.1 + c.2 ≤ b.1 ∨ b.1 + b.2 ≤ c.1)))
  let words (sub : Nat) : Bool :=
    let b := s.bitBlock key v k sub
    decide (b.2 % 32 = 0 ∧ b.2 ≤ 256) && (decide (b.2 = 0) || decide (b.1 % 32 = 0 ∧ b.1 + b.2 ≤ 65536))
  bits 3 && bits 7 && words 5 && words 9 &&
    (decide (node = 0xFFFF) ||
      (decide (node ≤ 1023 ∧ node ≠ f 0x1001 0 1023 ∧ node ≠ f 0x6001 0 0xFFFF) &&
        (List.range 256).all (fun j => decide (j = k) || decide (f (0x1400 + j) 1 0xFFFF ≠ node)) &&
        apart 3 && apart 7 && s.blocksOk key v k))

/-- A Kivasel identifier: off, or one of word 0 of R300. -/
def kvIdOk (n : Nat) : Bool := decide (n = 0xFFFFFFFF) || (decide (n < 2 ^ 30) && (n.testBit 29 || decide (n % 2 ^ 18 = 0)))

/-- The stored gates of a port as they would stand after a write. -/
def State.gatesAfter (s : State) (key : Nat) (v : List Byte) (n : Nat) : List (Nat × Word) :=
  (List.range 64).foldl (fun l g => aputd 0 l g (w32 (s.after key v (0x2B00 + n) (g + 1) 0))) []

/-- Does a value set none of the reserved bits of its register? -/
def noBits (reserved : Word) (n : Nat) : Bool := decide (n < 2 ^ 32) && decide (w32 n &&& reserved = 0)

/-- A value of a CAN entry (10 R298, R299, R307, R315, R320). -/
def State.canEntryOk (s : State) (key : Nat) (v : List Byte) (i sub : Nat) : Bool :=
  let f := s.after key v
  let n := leNat v
  if i < 0x2808 then
    let p := i - 0x2800
    if sub = 2 ∨ sub = 3 then
      noBits 0xC0000000 (f i 2 0x078F3E00) && noBits 0xF0F0E0E0 (f i 3 0x03030E00) &&
        timingOk (w32 (f i 2 0x078F3E00)) (w32 (f i 3 0x03030E00))
    else if sub = 4 then noBits 0xFF8080FE n
    else if sub = 9 then decide (n = 0) || (f (0x2B00 + p) 1 0).testBit 15
    else if sub = 10 then decide (n < 2 ^ 30)
    else if sub = 12 then decide (n = 0 ∨ p = 0)
    else if sub = 13 ∨ sub = 14 then kvIdOk n
    else true
  else if i < 0x2B00 then
    let b := i - 0x2900
    let c := w32 (f i 1 0)
    if sub = 1 ∨ sub = 4 then
      noBits 0xFFF80000 (f i 1 0) && decide (wfield c 1 0 ≠ 3 ∧ wfield c 3 2 ≤ 1 ∧ wfield c 16 12 ≤ 16 ∧ wfield c 18 17 ≠ 3) &&
        (decide (wfield c 3 2 = 0) || (decide (s.pwr.role ≠ .station) && s.blocksOk key v (256 + b)))
    else decide (n < 2 ^ 30)
  else if sub ≤ 64 then
    let p := i - 0x2B00
    !n.testBit 14 && decide (n % 2 ^ 14 ≤ 9990) && gatesOk (f 0x4000 0 1000) (s.gatesAfter key v p) &&
      (decide (f (0x2800 + p) 9 0 = 0) || (f i 1 0).testBit 15)
  else v.all (fun b => !b.getLsbD 6)

/-- Does an address lie in a block of the host address map (12 R370)? -/
def addrMapped (a : Nat) : Bool := decide (a < 0x16000)

/-- A register list of a trigger (13 R407). -/
def regListOk (v : List Byte) : Nat → Bool
  | 0 => true
  | k + 1 =>
    let a := getLE v (4 * (47 - k)) 4
    decide (a = 0xFFFFFFFF) || (addrMapped a && regListOk v k)

/-- Does streaming or a station name E5 twice (14 R426)? -/
def State.streamOk (s : State) (key : Nat) (v : List Byte) : Bool :=
  let f := s.after key v
  decide (f 0x5305 1 0 = 0) ||
    (decide (f 0x1300 5 0 ≠ 3) && (List.range 256).all (fun k => decide (f (0x1400 + k) 1 0xFFFF = 0xFFFF ∨ f (0x1400 + k) 2 0 ≠ 3)))

/-- A PORT code of a station slot or of a station: E5 is refused while trace streaming is enabled, in force or stored for the next start-up (09 R296). -/
def State.portOk (s : State) (n : Nat) : Bool :=
  decide (n < 3) || (decide (n = 3) && !s.trc.streaming && decide (s.storedNat 0x5305 1 0 = 0))

/-- Is a value within the range that the entry's table gives? The limits P / 2 of 0x4001 and P of 0x4002 are those of the stored value of 0x4000, which takes effect with them (02 R43, R51; log 53). -/
def State.rangeLow (s : State) (i sub n : Nat) (key : Nat) (v : List Byte) : Bool :=
  if i = 0x1001 then decide (n ≤ 1023) && s.pairOk key v
  else if i = 0x1011 then decide (n = 1)
  else if i = 0x1031 then decide (n = 3)
  else if i = 0x1100 then
    (if sub = 3 then decide (n ≤ 4094) else if sub = 4 then decide (n ≤ 7) else if sub = 5 then decide (20 ≤ n ∧ n ≤ 500) else true)
  else if i = 0x1200 then
    (if sub = 1 ∨ sub = 5 then decide (n ≤ 1) else if sub = 2 then decide (n ≤ 127) else if sub = 3 ∨ sub = 4 then decide (n < 64)
     else if sub = 6 then decide (n = 0 ∨ 249 ≤ n) else true)
  else if i = 0x1300 then
    (if sub = 1 ∨ sub = 2 then decide (n ≤ 1023 ∨ n = 0xFFFF) else if sub = 3 then decide (n % 32 = 0 ∧ n ≤ 512)
     else if sub = 4 then decide (n % 32 = 0 ∧ n ≤ 256) else s.portOk n)
  else if 0x1400 ≤ i ∧ i < 0x1500 then
    (if sub = 2 then s.portOk n else if sub = 11 then decide (n ≤ 1) else if sub = 12 then decide (n = 1)
     else s.slotOk key v (i - 0x1400) && s.pairOk key v)
  else if i = 0x2040 then decide (n ≤ 1)
  else if i = 0x2100 ∧ sub = 1 then decide (n ≤ 3)
  else if i = 0x2200 then decide (n ≤ 63)
  else if i = 0x2201 then decide (n = 1)
  else if i = 0x2202 then decide (n &&& 0xE4 = 0)
  else if i = 0x2204 then decide (n ≤ 11059200)
  else if i = 0x2205 then decide (n < 146097 * 86400000)
  else if i = 0x2300 then decide (n = 0xFFFFFFFF) || (decide (n % 4 = 0) && s.blocksOk key v 768)
  else if 0x2800 ≤ i then s.canEntryOk key v i sub
  else true

@[inherit_doc State.rangeLow] def State.rangeHigh (s : State) (i sub n : Nat) (key : Nat) (v : List Byte) : Bool :=
  if i < 0x3200 then
    (if sub = 1 then decide (n ≤ 3) else if sub = 2 then decide (n ≤ 15000 ∧ n % 10 = 0) else if sub = 3 then decide (n ≤ 2) else true)
  else if i < 0x3500 then (if sub = 2 then decide (n ≤ 1) else if sub = 3 then decide (n = 1) else true)
  else if i = 0x3500 then decide (1 ≤ n ∧ n ≤ 1000)
  else if i = 0x4000 then decide (100 ≤ n ∧ n ≤ 10000 ∧ n % 10 = 0)
  else if i = 0x4001 then decide (20 ≤ n ∧ n ≤ 90 ∧ n % 10 = 0 ∧ 2 * n ≤ s.storedNat 0x4000 0 1000)
  else if i = 0x4002 then decide (10 ≤ n ∧ n ≤ 5000 ∧ n % 10 = 0 ∧ n ≤ s.storedNat 0x4000 0 1000)
  else if i = 0x4003 then decide (n ≤ 1)
  else if i = 0x4031 then decide (1 ≤ n ∧ n ≤ 3)
  else if 0x4100 ≤ i ∧ i < 0x4120 then decide (n = 1)
  else if i = 0x5001 then decide (n ≤ 7)
  else if i = 0x5004 ∨ i = 0x5011 then decide (n = 1)
  else if 0x5100 ≤ i ∧ i < 0x5120 then
    (if sub = 1 then decide (n ≤ 3)
     else if sub = 2 then
       (let o := s.storedNat i 1 0
        if o = 2 then decide (n ≤ 5) else if o = 3 then decide (n = 0) else decide (n ≤ 31))
     else if sub = 3 then decide (1 ≤ n ∧ n ≤ 60000) else decide (n ≤ 15))
  else if 0x5200 ≤ i ∧ i < 0x5280 then
    (if sub = 3 then decide (n ≤ 7) else if sub = 4 then decide (n ≤ 3) else if sub = 5 then regListOk v 48 else true)
  else if i = 0x5301 then decide (60 ≤ n ∧ n ≤ 86400)
  else if i = 0x5303 ∨ i = 0x5311 then decide (1 ≤ n ∧ n ≤ 3)
  else if i = 0x5305 then (if sub = 1 then s.streamOk key v else if sub = 4 then decide (1 ≤ n ∧ n ≤ 100) else true)
  else if i = 0x6000 then decide (n ≤ 1) && s.pairOk key v
  else if i = 0x6001 then decide (n ≤ 1023 ∨ n = 0xFFFF) && s.pairOk key v
  else if i = 0x6020 then decide (n ≤ 3)
  else if i = 0x6023 then decide (n = 1)
  else true

/-- The mode code of R504 that a value refused for its range writes besides. -/
def State.rangeMode (s : State) (i sub n : Nat) (key : Nat) (v : List Byte) : Option Nat :=
  let slot : Bool := decide (0x1400 ≤ i ∧ i < 0x1500)
  if (i = 0x6000 ∨ i = 0x6001 ∨ i = 0x1001 ∨ (slot ∧ sub = 1)) ∧ !s.pairOk key v then some 5
  else if (i = 0x5305 ∧ sub = 1) ∨ (n = 3 ∧ ((i = 0x1300 ∧ sub = 5) ∨ (slot ∧ sub = 2))) then some 7
  else if 0x2801 ≤ i ∧ i < 0x2808 ∧ sub = 12 then some 12
  else if 0x2900 ≤ i ∧ i < 0x2B00 ∧ sub = 1 ∧ s.pwr.role = .station ∧ wfield (w32 n) 3 2 = 1 then some 6
  else none

/-- The refusal of a value of an entry, if there is one: wrong size, or out of range. -/
def State.valueRefusal (s : State) (e : Entry) (i sub : Nat) (v : List Byte) : Option Ans :=
  let c := valueCheck e.type e.size v
  let n := leNat v
  if c = stType then some (s.no stType e.size)
  else if c ≠ stOk then some (s.no stRange 0)
  else if if i < 0x3000 then s.rangeLow i sub n (entryKey i sub) v else s.rangeHigh i sub n (entryKey i sub) v then none
  else
    match s.rangeMode i sub n (entryKey i sub) v with
    | some k => some ((s.modeRefuse k).no stRange 0)
    | none => some (s.no stRange 0)

end Sys2Proof.Machine
end

