-- ==== Sys2Proof/Machine/Beats.lean ====
section
/-! DEFINITION. Beat boundaries, run completions, durable milestones, table switches, fault clears and the start of a replay (02, 03 R109, 06 R180, 14 R429 to R431, 16 R469, 18 R495 to R497). -/

set_option Elab.async false

namespace Sys2Proof.Machine

open Sys2Proof

/-! ### Closing the open half (02 R53, R54, R66, 07 R217) -/

/-- The whole entries that an overlay touches, with the bytes of a memory. -/
def wholeEntries (o : Ov) (m : Mem) : Ov :=
  (Ov.entries o).foldl (fun acc e => Ov.putBytes acc (16 * e) (memBytes m (16 * e) 16)) []

/-- The milestone that the open half makes at this boundary (02 R54). -/
def State.milestone (s : State) : Milestone :=
  let h := s.sto.opened
  { num := s.sto.msCount + 1, firstBeat := h.firstBeat, beats := h.beats, powered := s.clk.powered, term := s.csw.term
    words := (List.range 32).map (fun t => (s.task t).word s.clk.beat)
    batches := h.edits.length, volume := h.volume, entries := h.done, net := wholeEntries h.net s.sto.lmem, edits := h.edits, snaps := h.snaps }

/-- The stores after a close at beat `beat`: the milestone waits for its journal write, the other half opens with the values that runs in progress rely on (02 R46, R48, R53, R56). -/
def Store.closeHalf (x : Store) (m : Milestone) (beat : Nat) (busy : Bool) : Store :=
  let h := x.opened
  let shut : Half := { Half.reset with phase := .journal, transfer := !busy }
  let fresh : Half := { Half.reset with phase := .openHalf, firstBeat := beat, kept := h.kept, keptEdit := h.keptEdit }
  let x := { x with
    msCount := m.num, journal := x.journal ++ [m]
    unreported := x.unreported.map (fun (b : Batch) => if b.ms.isNone then { b with ms := some m.num } else b) }
  if x.openHalf = 0 then { x with half0 := shut, half1 := fresh, openHalf := 1 }
  else { x with half1 := shut, half0 := fresh, openHalf := 0 }

/-- The open half closes; with a partner its transfer is queued (02 R53, 07 R214, R218, R240). -/
def State.closeHalf (s : State) : State × Milestone :=
  let m := s.milestone
  let busy := s.hasPartner
  let s := s.upSto (·.closeHalf m s.clk.beat busy)
  let s := s.upCsw (fun c => { c with lastMs := some m })
  if busy then
    ((s.upCsw (fun c => { c with sendMs := c.sendMs ++ [m], lagList := c.lagList ++ [(m.num, m.beats, none)] })).updateLag, m)
  else (s, m)

/-- Condition 1 of R53: the volume within B for each beat. -/
def State.volumeFits (s : State) : Bool :=
  decide (s.sto.opened.volume ≤ budget s.clk.p * s.sto.opened.beats)

/-- Condition 2 of R53 but for the transfer: journal write and settling have completed. -/
def State.otherDrained (s : State) : Bool := decide (s.sto.other.phase = .free)

/-- Both conditions of R53. -/
def State.mayClose (s : State) : Bool := s.volumeFits && s.otherDrained && s.sto.other.transfer

/-- The close decision of a boundary (02 R53, R66, 07 R217). -/
def State.closeDecision (s : State) : State × Option Milestone :=
  if s.mayClose then (s.closeHalf.1, some s.closeHalf.2)
  else if s.volumeFits && s.otherDrained && decide (halfSize - budget s.clk.p < s.openContent) then
    let s := s.startSync true
    (s.closeHalf.1, some s.closeHalf.2)
  else
    let why := if s.volumeFits then 2 else if s.otherDrained && s.sto.other.transfer then 1 else 3
    ((s.upSto (fun x => { x with mergeCount := sat32 x.mergeCount })).exeCause 2 (leBytes 1 why), none)

/-- The first boundary opens the first half; every later one counts a beat of the open half (02 R53). -/
def State.openOrCount (s : State) : State :=
  if s.sto.isOpen then s.upOpen (fun h => { h with beats := h.beats + 1 })
  else (s.upSto (fun x => { x with isOpen := true })).upOpen (fun _ => { Half.reset with phase := .openHalf, firstBeat := s.clk.beat })

/-! ### Releases (02 R38, R39, R63, R70, R73, 06 R177) -/

/-- What a boundary releases and skips, as bit masks. -/
structure Released where
  state : State
  released : Nat
  skipped : Nat
  deriving DecidableEq, Repr

/-- The run that a release starts. -/
def State.newRun (s : State) (row : TaskRow) : Run :=
  let t := s.task row.task
  { rel := s.clk.powered % 2 ^ 32, relCyc := s.boundaryCyc, beat := s.clk.beat, beatsRun := s.clk.beatsRun, first := t.firstNext
    base := s.sto.lmem, view := s.sto.inView, writes := []
    calDate := if s.replaying then s.trc.mftask5 else s.rtc.date, calTime := if s.replaying then s.trc.mftask6 else s.calTime
    lset := row.lset, order := row.order, start := row.start, started := false, reexec := false }

/-- A task is released: its view is latched, its FIRST flag set, it joins its lane set's queue, and its unarmed waymarks are armed; the outputs of its last durable run launch at its first release after a warm start (02 R61). -/
def State.releaseTask (s : State) (row : TaskRow) : State :=
  let run := s.newRun row
  let s := s.upTask row.task (fun x => { x with
    run := some run, firstNext := false, overrunNow := false
    pendingAt := if x.outRun then some s.clk.beat else x.pendingAt, outRun := false })
  let s := s.upClu (fun u => { u with queues := vset u.queues row.lset (vget u.queues row.lset [] ++ [row.task]) })
  s.armTask row.task s.clk.now

/-- A due task: released, or its release is skipped as an overrun; a faulted task is not released (02 R63, 03 R109). -/
def Released.one (r : Released) (row : TaskRow) : Released :=
  let s := r.state
  let t := s.task row.task
  if t.faulted then r
  else if t.run.isSome then
    let s := s.upTask row.task (fun x => { x with overrun := sat32 x.overrun, overrunNow := true })
    { r with state := s.taskCause row.task 1 0 0, skipped := r.skipped + 2 ^ row.task }
  else { r with state := s.releaseTask row, released := r.released + 2 ^ row.task }

/-- The rows due at this boundary, in start order. -/
def State.dueRows (s : State) : List TaskRow := (sortBy TaskRow.order s.rows).filter (fun r => r.due s.clk.beat)

/-- The due tasks are released. -/
def State.releaseDue (s : State) : Released := s.dueRows.foldl Released.one ⟨s, 0, 0⟩

/-- Every due release is skipped and counted in entry 0x4037 (06 R180 step 2, 16 R470 step 2). -/
def State.skipDue (s : State) : Released :=
  s.dueRows.foldl (fun r row =>
    if (r.state.task row.task).faulted then r
    else { r with
      state := r.state.upSto (fun x => { x with switchSkips := sat32 x.switchSkips }), skipped := r.skipped + 2 ^ row.task }) ⟨s, 0, 0⟩

/-! ### Table switches (06 R180) -/

/-- Step 1: the first boundary after the request. -/
def State.switchBegins (s : State) : State :=
  ((s.disarmTasks (fun _ => true)).traceMark 3).exeCause 4 []

/-- LNC and LND are switched off. -/
def State.wideOff (s : State) : State := s.upPwr (fun p => { p with domains := p.domains &&& ~~~ 0x030#12 })

/-- Step 3: the new table is in force; a switch back that waits begins at the next boundary (18 R503). -/
def State.switchDone (s : State) (reduced : Bool) : State :=
  let back := s.sto.switchBack
  let s := s.upSto (fun x => { x with
    tableReduced := reduced, switching := if back then some (!reduced) else none, switchBack := false, switchStarted := false })
  if reduced && !back then s.wideOff else s

/-- Act 3 of a boundary (02 R40): releases, or none while a table switch or a Parked request waits for the runs in progress. -/
def State.releaseAct (s : State) : Released :=
  if s.sto.noRelease then ⟨s, 0, 0⟩
  else if 0 < s.pwr.parkReq then s.skipDue
  else
    match s.sto.switching with
    | none => s.releaseDue
    | some reduced =>
      let s := if s.sto.switchStarted then s else (s.switchBegins).upSto (fun x => { x with switchStarted := true })
      if s.noRuns then (s.switchDone reduced).releaseDue else s.skipDue

/-! ### Launches (02 R49, R50, 08 R256, R257, 10 R309) -/

/-- The outputs of a task launch: local drivers that wait for the first launch of a handover come on (07 R230). -/
def State.launchTask (s : State) (t : Nat) : State :=
  let x := s.task t
  let s := s.launchLocal x.outs
  let s := s.upTask t (fun x => { x with pendingAt := none, faultSafe := x.faultSafe && x.faulted })
  let s := match s.ldr.img, s.row t with
    | some i, some r => s.canTake (i.rowOuts r)
    | _, _ => s
  if s.csw.awaitLaunch ∧ setsLocal x.outs then s.upCsw (fun c => { c with awaitLaunch := false, driversOff := false }) else s

/-- Every output set whose launch instant is this boundary launches; policy-1 safe states come into force; the field subsystem takes the new image, then groups re-apply (08 R256, R257, R262). -/
def State.launchAct (s : State) : State :=
  let s := s.upTasks (·.map (fun x => { x with faultSafe := x.faultSafe || x.safeDue, safeDue := false }))
  let s := (List.range 32).foldl (fun acc t =>
    if (acc.task t).pendingAt = some acc.clk.beat then acc.launchTask t else acc) s
  s.imageArrives.reapply

/-! ### Beat numbering (02 R35, R36) -/

/-- A beat number moved with the numbering. -/
def moved (old new n : Nat) : Nat := n + new - old

/-- The number changes to the PTP numbering: what the module keeps by number follows, pending launches move to the next release instant, and open gate windows close (02 R36, R39, R54, 18 R499). -/
def State.renumber (s : State) (old new : Nat) : State :=
  let s := (List.range 8).foldl (fun acc n => acc.gateClose n) s
  let s := s.upClk (fun c => { c with beat := new, ptpNum := true })
  let s := s.upTasks (·.map (fun x => { x with dueBeat := x.dueBeat.map (moved old new), lastLaunch := moved old new x.lastLaunch }))
  let s := s.rows.foldl (fun acc r => acc.upTask r.task (fun x => { x with pendingAt := x.pendingAt.map (fun _ => r.nextDue (new - 1)) })) s
  let s := s.upSto (fun x => { x with
    half0 := { x.half0 with firstBeat := moved old new x.half0.firstBeat }
    half1 := { x.half1 with firstBeat := moved old new x.half1.firstBeat } })
  let s := s.upCsw (fun c => { c with
    handBeat := c.handBeat.map (moved old new)
    lastMs := c.lastMs.map (fun m => { m with firstBeat := moved old new m.firstBeat })
    launchPend := c.launchPend.map (fun x => (moved old new x.1, x.2)) })
  (s.traceMark 4).exeCause 7 []

/-- Does the boundary lie within ±200 ns of PTP alignment (02 R34, R36)? -/
def State.aligned (s : State) : Bool :=
  let p := 1000 * s.clk.p
  decide (s.ptpNow % p ≤ 200 ∨ p ≤ s.ptpNow % p + 200)

/-- The next beat begins at `t` (02 R36). The first beat of a start-up is number 0, has its MARKER in the trace and requests an anchor (14 R416, R422), and reports a time base that is not locked (02 R35). -/
def State.nextBeat (s : State) (t : Nat) : State :=
  let first := !s.clk.running
  let n := if first then 0 else s.clk.beat + 1
  let s := s.upClk (fun c => { c with
    running := true, beat := n, beatAt := t, beatsRun := if first then 0 else c.beatsRun + 1, powered := c.powered + 1 })
  let s := if first then (s.traceMark 1).requestAnchor else s
  let s := if first && !s.isLocked then s.exeCause 6 [] else s
  let change := !s.clk.ptpNum && s.clk.alignedPrev && s.isLocked
  let p := 1000 * s.clk.p
  let s := if change then s.renumber n ((s.ptpNow + p / 2) / p) else s
  s.upClk (fun c => { c with alignedPrev := s.aligned && !c.ptpNum && s.isLocked })

/-! ### Replay (14 R429 to R431) -/

/-- The items of one beat: a BEAT item and what follows it up to the next BEAT or MARKER. -/
def beatGroup : List TItem → List TItem × List TItem
  | [] => ([], [])
  | x :: t =>
    let n := (t.takeWhile (fun y => decide (y.type ≠ 1 ∧ y.type ≠ 9))).length
    (x :: t.take n, t.drop n)

/-- The code with which the replay ends at the boundary of beat `n`, 0 when it goes on. -/
def State.replayEnd (s : State) (n : Nat) : Nat :=
  let stop := s.inForce 0x5312 0 0
  match s.trc.replayItems with
  | [] => 1
  | x :: _ =>
    if stop ≠ 0 ∧ stop < n then 4
    else if x.corrupt then 6
    else if x.type ≠ 1 ∨ x.beat ≠ n then 5
    else if (beatGroup s.trc.replayItems).1.any (·.corrupt) ∨ (byteAt x.bytes 24).testBit 4 then 6
    else 0

/-- Runs of changed input groups written into a view. -/
def applyDelta : Nat → List Byte → Mem → Mem
  | 0, _, v => v
  | k + 1, l, v =>
    let g := getLE l 0 2
    let n := getLE l 2 2
    if l.length < 4 ∨ n = 0 then v
    else
      applyDelta k (l.drop (4 + 16 * n))
        ((List.range n).foldl (fun m i => memPut m (groupAddr (g + i)) (slice l (4 + 16 * i) 16)) v)

/-- The recorded batches of a beat. -/
def State.recordedEdits (s : State) (g : List TItem) : List Batch :=
  (g.filter (fun x => decide (x.type = 5))).map (fun x =>
    let items := readItemsOf s.dict.pubMap x.bytes.length (x.bytes.drop 8)
    { client := getLE x.bytes 4 4, id := getLE x.bytes 0 4, size := items.foldl (fun n i => n + i.bytes.length) 0
      accepted := 0, items := items, session := 0, chan := .odx, ms := none })

/-- The recorded inputs of a beat replace sampling and receiving: input groups, an anchor's view, MFTASK 5 and 6, metrology records, and the RUN entries to compare. -/
def State.feedReplay (s : State) (g : List TItem) : State :=
  let v := g.foldl (fun v x =>
    if x.type = 2 then applyDelta x.bytes.length x.bytes v
    else match x.anchor with
      | some a => memOf a.view
      | none => if x.type = 6 ∧ s.met.base ≠ 0xFFFFFFFF then memPut v (ainBase + 4 * s.met.base) x.bytes else v) s.sto.inView
  let head := (g.head?.map (·.bytes)).getD []
  (s.upSto (fun x => { x with inView := v })).upTrc (fun q => { q with
    mftask5 := w32 (getLE head 32 4), mftask6 := w32 (getLE head 36 4)
    replayRuns := ((g.filter (fun x => decide (x.type = 7))).map (·.bytes)).flatten
    replayBeat := s.clk.beat })

/-- The BEAT values of a boundary compared with the recorded ones: milestone counter, CLOSED and CHECK, then RELEASED and SKIPPED (14 R430). -/
def State.compareBeat (s : State) (rec' : List Byte) (released skipped : Nat) (closed : Option Milestone) : State :=
  let check := (closed.map Milestone.check).getD 0
  if !s.replaying then s
  else if getLE rec' 0 8 ≠ s.sto.msCount % 2 ^ 64 then s.endReplay 2 5 0xFF 0 (getLE rec' 0 4) s.sto.msCount
  else if (byteAt rec' 24).testBit 0 ≠ closed.isSome ∨ getLE rec' 28 4 ≠ check then s.endReplay 2 5 0xFF 0 (getLE rec' 28 4) check
  else if getLE rec' 16 4 ≠ released then s.endReplay 2 6 0xFF 0 (getLE rec' 16 4) released
  else if getLE rec' 20 4 ≠ skipped then s.endReplay 2 6 0xFF 0 (getLE rec' 20 4) skipped
  else s

/-! ### Boundaries of the roles -/

/-- Runs in progress are abandoned at a handover (07 R228). -/
def State.abandonRuns (s : State) : State :=
  let s := s.runsNow.foldl (fun acc t => acc.forgetRun t) s
  s.upClu (fun u => { u with lanes := u.lanes.map (fun l => { Lane.reset with scratch := l.scratch }), queues := Vector.replicate 8 [], items := Vector.replicate 4 [] })

/-- The handover milestone has closed (07 R228). -/
def State.handoverClosed (s : State) (m : Milestone) : State :=
  s.abandonRuns.upCsw (fun c => { c with handClosed := true, handMs := m.num, cmdState := 2 })

/-- Is the handover due at this boundary (07 R228)? -/
def State.handoverDue (s : State) : Bool :=
  decide (s.csw.role = .active) && (match s.csw.handBeat with
    | some h => decide (h ≤ s.clk.beat)
    | none => false)

/-- The values that reads of published entries return, and a map that takes force (11 R328, R329). -/
def State.publish (s : State) : State := s.takeMap.takeSnap

/-- A boundary of a unit that executes (02 R40): `late` when the trace items of the last beat were not all written, `g` the recorded items in a replay. -/
def State.execBoundary (s : State) (t : Nat) (late : Bool) (g : Option (List TItem)) : State :=
  let l := s.latchStations
  let s := if g.isNone then l.1.canLatch else s
  let resumed := if g.isNone then l.2 else []
  let s := match g with
    | some x => s.feedReplay x
    | none => s
  let first := !s.sto.isOpen
  let s := s.openOrCount
  let e := match g with
    | some x => (s.recordedEdits x).foldl (fun (acc : State × List Batch) b => (acc.1.applyBatch b, acc.2 ++ [b])) (s, ([] : List Batch))
    | none => s.applyBatches t s.sto.batches.length 0 []
  let s := e.1
  let parking := decide (0 < s.pwr.parkReq) && s.noRuns && s.mayClose && !first
  let c := if first then (s, none) else s.closeDecision
  let s := c.1
  let hand := s.handoverDue && c.2.isSome
  let s := match c.2 with
    | some m => if hand then s.handoverClosed m else s
    | none => s
  let anchor := s.anchorHere c.2
  let r : Released := if hand ∨ parking then ⟨s, 0, 0⟩ else s.releaseAct
  let s := (resumed.foldl State.resumeFrame r.state.launchAct).pruneSent (r.state.beatNs r.state.clk.beat)
  let s := (s.traceBeat { released := r.released, skipped := r.skipped, closed := c.2, edits := e.2, incomplete := late, cal := (s.rtc.date, s.calTime) } anchor).publish
  let s := match g with
    | some x => s.compareBeat ((x.head?.map (·.bytes)).getD []) r.released r.skipped c.2
    | none => s
  if parking then (s.traceFlush false).upClk (fun k => { k with running := false })
    |>.upPwr (fun p => { p with parkReq := 4 })
  else s

/-- A boundary of a STANDBY or SYNCING unit: it latches the same input views and takes the launches that fall due (07 R225, R525). -/
def State.waitBoundary (s : State) : State :=
  let s := (s.latchStations.1).canLatch
  let s := s.dueRows.foldl (fun acc r => acc.upTask r.task (fun x => { x with
    dueView := acc.sto.inView, dueBeat := some acc.clk.beat, dueCal := (acc.rtc.date, acc.calTime) })) s
  s.takeDue.imageArrives.reapply.publish

/-- A boundary after the handover milestone has closed: nothing is applied, closed or released (07 R228, R230); stations re-admitted there get their resume frames, and the trace its items (09 R292, 14 R414). -/
def State.heldBoundary (s : State) (late : Bool) : State :=
  let l := s.latchStations
  let s := (l.2.foldl State.resumeFrame l.1.canLatch.imageArrives.reapply).pruneSent (s.beatNs s.clk.beat)
  (s.traceBeat { released := 0, skipped := 0, closed := none, edits := [], incomplete := late, cal := (s.rtc.date, s.calTime) } none).publish

/-- Do beats run in this state? -/
def State.beatsMayRun (s : State) : Bool :=
  s.pwr.started && !s.pwr.stopped && !s.sto.halted && s.wdg.resetting.isNone && decide (s.csw.role ≠ .failed ∧ s.csw.role ≠ .negotiating) &&
    decide (s.pwr.parkReq < 4) && decide (s.pwr.state ≠ .parked) && (decide (s.pwr.role ≠ .replay) || s.replaying)

/-- The boundary of a replay (14 R430, R431): missing runs and the end of the load come first; Reduced ends it (18 R497). -/
def State.replayBoundary (s : State) (t : Nat) : State :=
  let n := s.clk.beat + 1
  let code := s.replayEnd n
  let done := n - s.trc.replayFrom
  if !s.trc.replayRuns.isEmpty then s.endReplayAt done 2 4 (byteAt s.trc.replayRuns 0) (s.lsetOf (byteAt s.trc.replayRuns 0)) (getLE s.trc.replayRuns 0 4) 0
  else if s.pwr.state = .reduced then s.endReplayAt done 3 0 0xFF 0 0 0
  else if code ≠ 0 then s.endReplayAt done code 0 0xFF 0 0 0
  else
    let g := beatGroup s.trc.replayItems
    let ptp := (((g.1.head?.map (·.bytes)).getD []).drop 24).head?.getD 0
    let s := s.upTrc (fun q => { q with replayItems := g.2 })
    let s := s.upClk (fun c => { c with
      beat := n, beatAt := t, beatsRun := c.beatsRun + 1, powered := c.powered + 1, ptpNum := ptp.getLsbD 2, alignedPrev := false })
    let s := s.takeSettings
    s.execBoundary t false (some g.1)

/-- BEAT_BOUNDARY's effect but for the order of its occurrences. -/
def State.boundaryActs (s : State) (t : Nat) (late : Bool) : State :=
  let s := s.reach t
  if !s.beatsMayRun then s
  else if s.replaying then (s.replayBoundary t).drain
  else
    let s := (s.traceFlush late).nextBeat t
    let s := s.takeSettings
    match s.pwr.role with
    | .station => ((s.applyDue (s.beatNs s.clk.beat)).redrive).reapply
    | _ =>
      if s.governs then (if s.csw.handClosed then s.heldBoundary late else s.execBoundary t late none).drain
      else s.waitBoundary

/-- BEAT_BOUNDARY's effect: what one boundary cycle makes known to the recorder stands in ascending SOURCE (13 R403). -/
def State.boundary (s : State) (t : Nat) (late : Bool) : State :=
  let u := s.boundaryActs t late
  if s.beatsMayRun then u.upEvr (·.sortTail (fun o => decide (o.at' = u.clk.now))) else u

/-- BEAT_BOUNDARY (02 R40). -/
def execBeatBoundary (t : Nat) (traceLate : Bool) (s : State) : Host.Outcome State Fault Refusal :=
  commit s (s.boundary t traceLate)

/-! ### Run completion (02 R41, R46 to R52, R64, 03 R95, R112) -/

/-- Entries of a completed run join those of the task's earlier runs in the span, the later value standing (02 R46, R54). -/
def mergeDone (l : List (Nat × Ov)) (t : Nat) (o : Ov) : List (Nat × Ov) :=
  match l.find? (fun x => decide (x.1 = t)) with
  | some x => l.filter (fun y => decide (y.1 ≠ t)) ++ [(t, Ov.over x.2 o)]
  | none => l ++ [(t, o)]

/-- The launches missed beyond R226 between the last launch before a takeover and the launch beat `m` of the re-executed run: an interval of more than 500 µs for a task of at most 250 µs, more than one launch for any other; `p` is P in µs. -/
def missedLaunches (row : TaskRow) (p last m : Nat) : Nat :=
  if row.period = 0 ∨ p = 0 then 0
  else (m - last) / row.period - 1 - (if row.period * p ≤ 250 then 500 / (row.period * p) - 1 else 1)

/-- Has the lane finished its run: END issued, nothing repeating? -/
def Lane.finished (l : Lane) : Bool := l.ended && !l.dead && l.rep.isNone && l.task.isSome

/-- The pending write-backs of a lane set land (05 R163). -/
def State.landSet (s : State) (lset : Nat) : State :=
  (s.setLanes lset).foldl (fun acc l => acc.landWbs l ((acc.lane l).endCyc) (acc.lane l).wb.length) s

/-- The CRC-32 of an output set as it will launch, addresses rising. -/
def outCrc (o : Ov) : Nat := crc32 (o.map (fun e => e.2.2))

/-- The CRC-32 of a run's entries, addresses rising. -/
def entryCrc (o : Ov) (m : Mem) : Nat := crc32 ((wholeEntries o m).map (fun e => e.2.2))

/-- The lanes of a set are free for the next run. -/
def State.freeLanes (s : State) (lset : Nat) : State :=
  (s.setLanes lset).foldl (fun acc l => acc.upLane l (fun x =>
    { Lane.reset with scratch := x.scratch, endCyc := x.endCyc })) s

/-- The completed run `run` of task `t` enters memory, the open half and the task's state; `m` is its launch beat. -/
def State.completeRun (s : State) (t m : Nat) (run : Run) : State :=
  let lm := run.writes.apply s.sto.lmem
  let es := Ov.entries run.writes
  let s := s.upOpen (fun h => { h with kept := keepFor h.kept h.keptEdit (s.otherRuns t) es })
  let s := (s.forgetRun t).upSto (fun x => { x with lmem := lm })
  let s := s.upOpen (fun h => { h with net := Ov.over h.net run.writes, done := mergeDone h.done t run.writes })
  let outs := s.outsOf t lm
  s.upTask t (fun x => { x with
    completed := true, lastRel := run.rel, overrunNow := false, pendingAt := some m, outs := outs, outRun := false })

/-- The entry whose older value the open half has no room to keep when the run completes (02 R48). -/
def State.keptFull (s : State) (t : Nat) (run : Run) : Option Nat :=
  let h := s.sto.opened
  let fresh := (keepFor h.kept h.keptEdit (s.otherRuns t) (Ov.entries run.writes)).drop h.kept.length
  (fresh[(halfSize - s.openContent) / 16]?).map (·.1)

/-- RUN_COMPLETION's effect on a lane set whose run ended in cycle `c`: a kept value that finds the open half full is a divergence of kind 7 (02 R48). -/
def State.finishRun (s : State) (lset t c : Nat) (run : Run) (row : TaskRow) : State :=
  let ln := s.lane (s.lastLane lset)
  let m := row.nextDue s.clk.beat
  let late := decide (s.boundaryCyc + (m - s.clk.beat) * s.beatCycles < c + s.clk.lead * 500)
  let wasOver := (s.task t).overrunNow
  let s := s.freeLanes lset
  match s.keptFull t run with
  | some e => s.divergence c (carOf (s.lastLane lset)) 7 (16 * e) 0
  | none =>
    let s := s.completeRun t m run
    let s := s.upTask t (fun x => { x with lastRunTime := 2 * (c + 1 - ln.firstReady) })
    let s : State := if late then (s.upTask t (fun x => { x with late := sat32 x.late })).taskCause t 2 0 0 else s
    let s := if run.reexec then s.upCsw (fun k => { k with missed := satAdd 0xFFFFFFFF k.missed (missedLaunches row s.clk.p (s.task t).lastLaunch m) }) else s
    let o := (s.task t).outs
    let s := s.noteRun t (bit late + 2 * bit wasOver) 0 (c - s.boundaryCyc) (outCrc o) (entryCrc run.writes s.sto.lmem)
    if s.pwr.role = .controller then (s.taskFrames t m o).drain else s

/-- RUN_COMPLETION (02 R41): the end-of-run bundle of a lane set's run has retired, in this beat. -/
def State.complete (s : State) (lset : Nat) : State :=
  let lead := (s.setLanes lset).head?.getD 0
  let last := s.lastLane lset
  if !s.executes || !(s.setLanes lset).all (fun l => (s.lane l).finished) then s
  else
    let s := s.landSet lset
    let c := (s.lane last).endCyc
    if s.clu.stopped || decide (s.boundaryCyc + s.beatCycles ≤ c) then s
    else if s.paired && decide ((s.lane lead).endCyc + 1 ≠ c) then
      s.itemDivergence last c (s.lane last).pc (some .fin, some .fin)
    else
      match if s.paired then (s.missedRec last (c + 2) false).or (s.missedRec last (c + 2) true) else none with
      | some m => s.itemDivergence last c (s.lane last).pc (m.items.head?, none)
      | none =>
      match (s.lane lead).task with
      | none => s
      | some t =>
        match (s.task t).run, s.row t with
        | some run, some row => s.finishRun lset t c run row
        | _, _ => s

/-- RUN_COMPLETION (02 R41). -/
def execRunCompletion (lset t : Nat) (s : State) : Host.Outcome State Fault Refusal := commit s ((s.reach t).complete lset)

/-! ### Durable milestones (02 R56 to R58, 07 R215, R218, 13 R409) -/

/-- The oldest milestone waiting in the journal becomes durable: its snapshots go into their records. -/
def State.headDurable (s : State) : State :=
  match s.sto.journal with
  | [] => s
  | m :: rest =>
    let s := s.upSto (fun x => { x with
      journal := rest, settling := x.settling ++ [m], durable := m.net.apply x.durable, msDurable := m.num, durHdr := some m
      warm := true, appliedDur := m.edits.foldl (fun l b => putApplied b.client b.id l) x.appliedDur })
    let s := s.upEvr (fun e => m.snaps.foldl Evr.completeSnap e)
    if rest.isEmpty ∧ s.sto.other.phase = .journal then s.upOther (fun h => { h with phase := .settle }) else s

/-- MILESTONE_DURABLE's effect: the batches that it makes reportable are answered. -/
def State.durableNow (s : State) : State := if s.sto.journal.isEmpty then s else s.headDurable.reportBatches

/-- MILESTONE_DURABLE (02 R56). -/
def execMilestoneDurable (t : Nat) (s : State) : Host.Outcome State Fault Refusal := commit s (s.reach t).durableNow

/-- SETTLE_DONE (02 R56): the entries of the oldest durable milestone are in place; with nothing left the other half is free. -/
def execSettleDone (t : Nat) (s : State) : Host.Outcome State Fault Refusal :=
  let s1 := s.reach t
  commit s (match s.sto.settling with
    | [] => s1
    | _ :: rest =>
      let s2 := s1.upSto (fun x => { x with settling := rest })
      if rest.isEmpty ∧ s2.sto.journal.isEmpty ∧ s2.sto.other.phase = .settle then s2.upOther (fun h => { h with phase := .free }) else s2)

/-! ### Fault clear (03 R109) -/

/-- The fault of a task is cleared: it is released at its next due beat as a first run. -/
def State.clearFault (s : State) (t : Nat) : State :=
  if (s.task t).faulted then
    s.upTask t (fun x => { x with faulted := false, faultCause := 0, faultBundle := 0, firstNext := true })
  else s

/-- FAULT_CLEAR (03 R109). -/
def execFaultClear (task : Nat) (s : State) : Host.Outcome State Fault Refusal := commit s (s.clearFault task)

/-! ### Run and Reduced (06 R180, 16 R469, 18 R495, R496, R503) -/

/-- MIN_SET includes carriageway 2 or 3: SOLO halts, ACTIVE fails with reason 2, a waiting unit reports it. -/
def State.laneSetGone (s : State) : State :=
  let s := s.laneSetRecord
  if s.governs then
    let s := s.upSto (fun x => { x with noRelease := true })
    if s.csw.role = .active then s.enterFailed 2 else s.failSafeHalt
  else s

/-- A table switch is requested, or takes place at once in a unit that executes nothing (06 R179, R180, 18 R496). -/
def State.requestTable (s : State) (reduced : Bool) : State :=
  if !s.hasReduced then (if reduced then s.wideOff else s)
  else if s.executes && s.clk.running then
    match s.sto.switching with
    | some true => if reduced then s else s.upSto (fun x => { x with switchBack := true })
    | some false => if reduced then s.upSto (fun x => { x with switchBack := true }) else s
    | none => if s.sto.tableReduced = reduced then s else s.upSto (fun x => { x with switching := some reduced, switchStarted := false })
  else
    let s := s.upSto (fun x => { x with tableReduced := reduced, switching := none, switchBack := false })
    if reduced then s.wideOff else s

/-- ENTER_REDUCED (16 R469): VIN has stayed below 9 V for 10 ms; a Parked request in progress goes on (18 R503). -/
def execEnterReduced (t : Nat) (s : State) : Host.Outcome State Fault Refusal :=
  let s1 := s.reach t
  commit s (
    if s.pwr.state ≠ .run ∨ !s.pwr.started ∨ 0 < s.pwr.parkReq then s1
    else
      let s2 := (s1.upPwr (fun p => { p with state := .reduced })).powerCause 1
      if s.pwr.role ≠ .controller then s2.wideOff
      else if s2.minSetWide then s2.laneSetGone.wideOff
      else s2.requestTable true)

/-- RETURN_TO_RUN (16 R469): VIN has stayed at or above 10 V for 1 s; LNC and LND are powered again. -/
def execReturnToRun (t : Nat) (s : State) : Host.Outcome State Fault Refusal :=
  let s1 := s.reach t
  commit s (
    if s.pwr.state ≠ .reduced ∨ 0 < s.pwr.parkReq then s1
    else
      let s2 := (s1.upPwr (fun p => { p with state := .run, vinLow := false })).powerCause 2
      if s.pwr.role = .station then s2
      else
        let s3 := s2.upPwr (fun p => { p with domains := p.domains ||| 0x030#12 })
        if s.pwr.role = .controller then s3.requestTable false else s3)

/-! ### The start of a replay (14 R428 to R431, 18 R497) -/

/-- The anchor that a load begins with, if the replay may start from it. -/
def State.replayAnchor (s : State) : Option (Anchor × List TItem) :=
  match readItems s.trc.load.length s.trc.load with
  | x :: rest =>
    match x.anchor with
    | some a =>
      if a.complete ∧ !x.corrupt ∧ s.ldr.img.isSome ∧ a.digest = s.ldr.digest ∧ a.p = s.clk.p ∧ a.laneMode = bit s.clu.single then
        some (a, x :: rest)
      else none
    | none => none
  | [] => none

/-- The state of the unit set from an anchor at beat `b` (14 R429): stores, view, exchange registers, tasks, counters. -/
def State.setAnchor (s : State) (a : Anchor) (b : Nat) : State :=
  let m := readHead a.head
  let lm := memOf (a.outs ++ a.inst)
  let s := s.upSto (fun x => { x with
    lmem := lm, inView := memOf a.view, msCount := m.num, tableReduced := decide (a.table = 1), switching := none, isOpen := true, openHalf := 0
    half0 := { Half.reset with phase := .openHalf, firstBeat := b }, half1 := Half.reset, journal := [], settling := [] })
  let s := s.upClu (fun u => { u with
    lanes := u.lanes.map (fun l => { Lane.reset with scratch := l.scratch })
    x := Vector.ofFn (fun i => { XReg.zero with cur := a.x[i.val]?.getD 0 })
    items := Vector.replicate 4 [], queues := Vector.replicate 8 [] })
  let s := s.upTasks (fun _ => Vector.replicate 32 TaskSt.reset)
  let s := s.applyWords m false
  let s := s.upTasks (·.map (fun x => { x with firstNext := !x.completed }))
  let s := s.upCsw (fun c => { c with term := m.term })
  s.upClk (fun c => { c with
    running := true, beat := b, beatAt := c.now, beatsRun := 0, powered := m.powered, ptpNum := a.ptp, alignedPrev := false })

/-- A refused start: the report carries CODE 7 (14 R431, 18 R497, R504 code 11). -/
def State.refuseReplay (s : State) : State :=
  ((s.upTrc (fun q => { q with replayFrom := 0 })).endReplay 7 0 0xFF 0 0 0).modeRefuse 11

/-- REPLAY_CMD 1 (14 R428). -/
def State.startReplay (s : State) : State :=
  if s.trc.replay = 2 then s
  else if s.pwr.role ≠ .replay ∨ s.pwr.state = .reduced then s.refuseReplay
  else
    match s.replayAnchor with
    | none => s.refuseReplay
    | some (a, items) =>
      let b := ((items.head?).map (·.beat)).getD 0
      let g := beatGroup items
      let label := Config.replayLabel s.free
      let s := (s.setAnchor a b).upTrc (fun q => { q with
        replay := 2, replayBeat := b, replayFrom := b, replayItems := g.2, report := zeros 64
        replayRuns := ((g.1.filter (fun x => decide (x.type = 7))).map (·.bytes)).flatten
        mftask5 := label, mftask6 := Config.replayLabel (s.free + 1) })
      let s := s.useFree.useFree
      let r := s.releaseDue
      r.state.launchAct

/-- REPLAY_START (14 R429). -/
def execReplayStart (s : State) : Host.Outcome State Fault Refusal := commit s s.startReplay

end Sys2Proof.Machine
end

