-- ==== Sys2Proof/Machine/Nvp.lean ====
section
/-! DEFINITION. The parameter store: records, raw pages, page steps, protection, the wax pass, wear, and the NVP registers (15 R435 to R450, R455, R456, 18 R500). -/

set_option Elab.async false

namespace Sys2Proof.Machine

open Sys2Proof

/-! ### Pages (15 R435, R438, R442, R443) -/

/-- Pages with a number of their own. -/
def pageCount : Nat := 2048

/-- Spare pages. -/
def spareCount : Nat := 64

/-- An erased page. -/
def Page.blank : Page := ⟨[], []⟩

/-- One group as it reads: an uncorrectable one reads 0x00 (01 R17). -/
def Page.group (p : Page) (g : Nat) : List Byte :=
  if p.bad.contains g then zeros 16 else (List.range 16).map (fun i => cellGet 0xFF p.bytes (16 * g + i))

/-- The 256 bytes of a page as they read. -/
def Page.read (p : Page) : List Byte := (List.range 16).flatMap p.group

/-- Bytes programmed from an address on, over erased ones. -/
def Page.put (p : Page) (a : Nat) (l : List Byte) : Page :=
  { p with bytes := (l.foldl (fun (acc : Mem × Nat) b => (cellSet 0xFF acc.1 acc.2 b, acc.2 + 1)) (p.bytes, a)).1 }

/-- A group becomes uncorrectable. -/
def Page.spoil (p : Page) (g : Nat) : Page := { p with bad := insertNat g p.bad }

/-- The page of a number; unlisted pages are erased. -/
def Nvp.page (n : Nvp) (k : Nat) : Page := (aget n.pages k).getD Page.blank

/-- The page of a number replaced. -/
def Nvp.setPage (n : Nvp) (k : Nat) (p : Page) : Nvp := { n with pages := aputd Page.blank n.pages k p }

/-! ### Records (15 R438 to R440) -/

/-- LENGTH of a record copy. -/
def Page.len (p : Page) : Nat := byteAt p.read 252

/-- SEQ of a record copy. -/
def Page.seq (p : Page) : Nat := getLE p.read 248 4

/-- DATA of a record copy up to LENGTH. -/
def Page.content (p : Page) : List Byte := p.read.take p.len

/-- A record copy is valid. -/
def Page.valid (p : Page) : Bool :=
  p.bad.isEmpty && decide (p.len ≤ 248) && decide (byteAt p.read 253 = 0) && decide (crc16 (p.read.take 254) = getLE p.read 254 2)

/-- The bytes of a record copy. -/
def recordBytes (data : List Byte) (seq : Nat) : List Byte :=
  let b := padTo 248 data ++ leBytes 4 seq ++ leBytes 1 data.length ++ zeros 1
  b ++ leBytes 2 (crc16 b)

/-- The copy that R439 selects: none, or whether it is the higher one; and whether it resolved a tie. -/
def chooseCopy (lo hi : Page) : Option Bool × Bool :=
  match lo.valid, hi.valid with
  | false, false => (none, false)
  | true, false => (some false, false)
  | false, true => (some true, false)
  | true, true =>
    let d := (lo.seq + 2 ^ 32 - hi.seq) % 2 ^ 32
    if d = 0 then (some false, decide (lo.len ≠ hi.len) || decide (lo.content ≠ hi.content))
    else if d = 2 ^ 31 then (some false, true)
    else if d < 2 ^ 31 then (some false, false)
    else (some true, false)

/-- Target and SEQ of a record write (15 R440). -/
def writeTarget (lo hi : Page) : Bool × Nat :=
  match (chooseCopy lo hi).1 with
  | none => (false, 1)
  | some h =>
    let d := (lo.seq + 2 ^ 32 - hi.seq) % 2 ^ 32
    if lo.valid && hi.valid && decide (d = 0 ∨ d = 2 ^ 31) then (true, (lo.seq + 1) % 2 ^ 32)
    else (!h, ((if h then hi.seq else lo.seq) + 1) % 2 ^ 32)

/-- The selected copy of a record. -/
def Nvp.selected (n : Nvp) (r : Nat) : Option Page :=
  match (chooseCopy (n.page (2 * r)) (n.page (2 * r + 1))).1 with
  | none => none
  | some h => some (n.page (2 * r + bit h))

/-- The page write that stores `data` in record `r`. -/
def Nvp.recordJob (n : Nvp) (r : Nat) (data : List Byte) : PageJob :=
  let t := writeTarget (n.page (2 * r)) (n.page (2 * r + 1))
  ⟨2 * r + bit t.1, 0, recordBytes data t.2⟩

/-! ### Protection (15 R445) -/

/-- Is a page protected? -/
def Nvp.isProtected (n : Nvp) (k : Nat) : Bool :=
  if n.prot = 0 then false else if n.prot = 1 then decide (1536 ≤ k) else if n.prot = 2 then decide (1024 ≤ k) else true

/-! ### Raw ranges (15 R442, R444) -/

/-- A raw range stays within page 2047. -/
def NvpCmd.inRange (c : NvpCmd) : Bool := decide (16 * c.page + c.group + c.count ≤ 16 * pageCount)

/-- The pages that a raw range touches, each with its first group and how many of its groups. -/
def rawParts : Nat → Nat → Nat → Nat → List (Nat × Nat × Nat)
  | 0, _, _, _ => []
  | fuel + 1, p, g, n => if n = 0 then [] else (p, g, min n (16 - g)) :: rawParts fuel (p + 1) 0 (n - min n (16 - g))

/-- The parts of a command. -/
def NvpCmd.parts (c : NvpCmd) : List (Nat × Nat × Nat) := rawParts 17 c.page c.group c.count

/-- The page writes of a raw write. -/
def NvpCmd.jobs (c : NvpCmd) : List PageJob :=
  (c.parts.foldl (fun (acc : List PageJob × Nat) x =>
    (acc.1 ++ [⟨x.1, x.2.1, slice c.data acc.2 (16 * x.2.2)⟩], acc.2 + 16 * x.2.2)) ([], 0)).1

/-! ### The end of a command -/

/-- NVP_CAUSE bit `b` with the severity that its rule names (15 R439, R448, R450). -/
def State.nvpCauseSev (s : State) (b source sev : Nat) : State :=
  (s.upNvp (fun h => { h with cause := setBit h.cause b true })).occurSev (0x0900 + b) source sev []

/-- An answer to a request leaves (11 R330). -/
def State.answer (s : State) (r : Reply) (status info : Nat) : State :=
  s.kvSend r.chan (kvUnit 0xA0 r.session r.tag status info [])

/-- RESULT codes (15 R456). -/
def resOk : Nat := 0
@[inherit_doc resOk] def resEmpty : Nat := 1
@[inherit_doc resOk] def resUncorr : Nat := 2
@[inherit_doc resOk] def resProtected : Nat := 3
@[inherit_doc resOk] def resRange : Nat := 4
@[inherit_doc resOk] def resWorn : Nat := 5
@[inherit_doc resOk] def resSystem : Nat := 6
@[inherit_doc resOk] def resNotReady : Nat := 7

/-- A write to entry 0x1020 ends the privilege of every session but the writer's, whose number is `w`; the HOST master's with it unless session 0 wrote (11 R334, 12 R363). -/
def State.endPriv (s : State) (w : Nat) : State :=
  (s.upDict (fun d => { d with sessions := d.sessions.map (fun x => if x.id = w then x else { x with priv := false }) })).upHost
    (fun h => { h with priv := h.priv && decide (w = 0) })

/-- A command ends with a result: its master sees it; a system record's value is stored and its request answered (11 R325). -/
def State.nvpEnd (s : State) (c : NvpCmd) (result : Nat) (uncorr : Bool) : State :=
  match c.who with
  | some m => s.upMregs m (fun r => { r with nvpBusy := false, nvpResult := result, nvpUncorr := uncorr })
  | none =>
    let x := if result = resOk then s.storeValue c.key c.data else (s, 0)
    match c.reply with
    | some r =>
      let y := if result = resOk ∧ c.key = entryKey 0x1020 0 then x.1.endPriv r.session else x.1
      y.answer r (if result = resOk then stOk else stWorn) x.2
    | none => x.1

/-! ### Page operations (15 R435, R437) -/

/-- An erase step begins: the marker names the page; a system record that a raw command destroys is noted (18 R500). -/
def State.beginErase (s : State) (c : Option NvpCmd) (j : PageJob) (spare : Bool) (rest : List PageJob) : State :=
  let raw : Bool := match c with
    | some x => decide (x.op = .rawWrite ∨ x.op = .erase) && decide (j.page < 1536)
    | none => false
  s.upNvp (fun n => { n with
    step := some ⟨c, j, true, spare, rest⟩, marker := some (j.page, true)
    rawHit := if raw then insertNat (j.page / 2) n.rawHit else n.rawHit })

/-- Page writes begin, or nothing does. -/
def State.beginPages (s : State) (c : Option NvpCmd) (l : List PageJob) : State :=
  match l with
  | [] => s
  | j :: rest => s.beginErase c j false rest

/-- A correction in the parameter store counts (01 R16, 15 R456). -/
def State.nvpCorrected (s : State) (addr : Nat) : State :=
  let n := s.nvp.corr
  let s := s.upNvp (fun q => { q with corr := sat16 q.corr })
  let s := s.memCause 0 8 (leBytes 4 addr)
  if n + 1 = 0xFFFF then s.memCause 2 8 [] else s

/-- What a read finds: corrections count, uncorrectable groups stay so (01 R16, R17). -/
def State.takeEcc (s : State) (l : List Ecc) : State :=
  l.foldl (fun acc x =>
    if x.hard then acc.upNvp (fun n => n.setPage (x.addr / 256) ((n.page (x.addr / 256)).spoil (x.addr / 16 % 16)))
    else acc.nvpCorrected x.addr) s

/-- The errors of a read that lie in a page. -/
def eccOn (l : List Ecc) (k : Nat) : Bool := l.any (fun x => !x.hard && decide (x.addr / 256 = k))

/-- The uncorrectable groups of a page that a read of it meets: one record each, which names its address (01 R17). -/
def State.pageUncorr (s : State) (k : Nat) : State :=
  (s.nvp.page k).bad.foldl (fun acc g => acc.uncorrectable .param (256 * k + 16 * g)) s

/-- May a page still be rewritten (15 R450)? -/
def Nvp.rewritable (n : Nvp) (j : PageJob) : Bool := !n.readOnly.contains j.page

/-- A page that holds no uncorrectable group is rewritten with its content: a record copy as a record write, any other as it stands (15 R441, R444, R447). -/
def Nvp.rewriteJob (n : Nvp) (k : Nat) : Option PageJob :=
  let p := n.page k
  if !p.bad.isEmpty then none
  else if p.valid then (n.selected (k / 2)).map (fun x => n.recordJob (k / 2) x.content)
  else some ⟨k, 0, p.read⟩

/-! ### Beginning a command (15 R439 to R446, R448, R450, 18 R500) -/

/-- A record read (15 R439, R441). -/
def State.recordRead (s : State) (c : NvpCmd) (m : Master) : State :=
  let l := c.ecc.filter (fun x => decide (x.addr / 512 = c.record))
  let s := s.takeEcc l
  let lo := s.nvp.page (2 * c.record)
  let hi := s.nvp.page (2 * c.record + 1)
  let uncorr := !lo.bad.isEmpty || !hi.bad.isEmpty
  let s := s.pageUncorr (2 * c.record)
  let s := s.pageUncorr (2 * c.record + 1)
  let ch := chooseCopy lo hi
  let s := s.upMregs m (fun r => { r with nvpTie := ch.2 })
  let s := if ch.2 then s.nvpCauseSev 0 c.record 4 else s
  match s.nvp.selected c.record with
  | none => (s.upMregs m (fun r => { r with nvpLen := 0 })).nvpEnd c resEmpty uncorr
  | some p =>
    let s := (s.upMregs m (fun r => { r with nvpLen := p.len, nvpBuf := memPut r.nvpBuf 0 p.content })).nvpEnd c resOk uncorr
    if l.any (fun x => !x.hard) then s.beginPages none ([s.nvp.recordJob c.record p.content].filter s.nvp.rewritable) else s

/-- A raw read (15 R444). -/
def State.rawRead (s : State) (c : NvpCmd) (m : Master) : State :=
  let hit (x : Ecc) : Bool := decide (16 * c.page + c.group ≤ x.addr / 16 ∧ x.addr / 16 < 16 * c.page + c.group + c.count)
  let l := c.ecc.filter hit
  let s := s.takeEcc l
  let n := s.nvp
  let data := c.parts.flatMap (fun x => (List.range x.2.2).flatMap (fun i => (n.page x.1).group (x.2.1 + i)))
  let bad := c.parts.filter (fun x => (List.range x.2.2).any (fun i => (n.page x.1).bad.contains (x.2.1 + i)))
  let s := bad.foldl (fun acc x =>
    (((List.range x.2.2).map (x.2.1 + ·)).filter (n.page x.1).bad.contains).foldl (fun a g => a.uncorrectable .param (256 * x.1 + 16 * g))
      (acc.nvpCause 1 x.1)) s
  let s := (s.upMregs m (fun r => { r with nvpBuf := memPut r.nvpBuf 0 data })).nvpEnd c
    (if bad.isEmpty then resOk else resUncorr) (!bad.isEmpty)
  let fix := (c.parts.map (·.1)).filter (fun k => eccOn l k && (n.page k).bad.isEmpty)
  s.beginPages none ((fix.map (fun k => (⟨k, 0, (n.page k).read⟩ : PageJob))).filter n.rewritable)

/-- The pages that a writing command touches. -/
def NvpCmd.pages (c : NvpCmd) : List Nat :=
  match c.op with
  | .recWrite => [2 * c.record, 2 * c.record + 1]
  | .sys => [2 * c.record, 2 * c.record + 1]
  | .rawWrite => c.parts.map (·.1)
  | .erase => [c.page]
  | _ => []

/-- The result with which a command ends before it begins; none when it is served. A system write of the supervisor is neither protected nor held back by READY. -/
def State.nvpRefusal (s : State) (c : NvpCmd) : Option Nat :=
  let worn := c.pages.any s.nvp.readOnly.contains
  if c.op = .sys then (if worn then some resWorn else none)
  else if !s.nvp.ready then some resNotReady
  else if c.op = .recRead then (if !c.priv && decide (c.record < 768) then some resSystem else none)
  else if c.op = .recWrite ∧ c.record < 768 then some resSystem
  else if (c.op = .rawRead ∨ c.op = .rawWrite) ∧ !c.inRange then some resRange
  else if c.pages.any s.nvp.isProtected then some resProtected
  else if worn then some resWorn
  else none

/-- The controller begins a command. -/
def State.nvpBegin (s : State) (c : NvpCmd) : State :=
  match s.nvpRefusal c with
  | some r => s.nvpEnd c r false
  | none =>
    match c.op with
    | .recRead => s.recordRead c (c.who.getD .sup0)
    | .rawRead => s.rawRead c (c.who.getD .sup0)
    | .recWrite => s.beginPages (some c) [s.nvp.recordJob c.record c.data]
    | .sys => s.beginPages (some c) [s.nvp.recordJob c.record (Config.systemData s.free)]
    | .rawWrite => s.beginPages (some c) c.jobs
    | .erase => s.beginPages (some c) [⟨c.page, 0, []⟩]

/-- The controller serves its commands in arrival order until a page step is in progress. -/
def State.nvpServe (s : State) : Nat → State
  | 0 => s
  | n + 1 =>
    match s.nvp.step, s.nvp.cmds with
    | none, c :: rest =>
      let s := s.upNvp (fun q => { q with cmds := rest })
      let s := (s.nvpBegin c)
      (if c.op = .sys then s.useFree else s).nvpServe n
    | _, _ => s

/-- The controller goes on. -/
def State.nvpGo (s : State) : State := s.nvpServe s.nvp.cmds.length

/-- A command arrives. -/
def State.nvpGive (s : State) (c : NvpCmd) : State :=
  let s := match c.who with
    | some m => s.upMregs m (fun r => { r with nvpBusy := true })
    | none => s
  (s.upNvp (fun q => { q with cmds := q.cmds ++ [c] })).nvpGo

/-- The supervisor stores a value in its system record (11 R325, 15 R445). -/
def State.storeSystem (s : State) (key : Nat) (v : List Byte) (reply : Option Reply) : State :=
  s.nvpGive { who := none, priv := true, op := .sys, record := Config.systemRecord key % 768, len := 0, page := 0, group := 0
              count := 0, data := v, ecc := [], key := key, reply := reply }

/-! ### Page steps (15 R435, R442, R443, R449, R450) -/

/-- A page write has ended: the next page of the operation, or the end of the command. -/
def State.pageEnd (s : State) (p : PageStep) : State :=
  let s := s.upNvp (fun n => { n with marker := none, step := none })
  match p.rest with
  | j :: rest => s.beginErase p.cmd j false rest
  | [] =>
    let s := s.upNvp (fun n => { n with waxActive := false })
    (match p.cmd with
     | some c => s.nvpEnd c resOk false
     | none => s).nvpGo

/-- The page as the program step leaves it when the groups before `g`, a group of the write, are programmed and `g` is not complete (15 R443). -/
def cutPage (j : PageJob) (g : Nat) : Page :=
  let g := max j.first (min g (j.first + (j.data.length - 1) / 16))
  ((Page.blank.put (16 * j.first) (j.data.take (16 * (g - j.first))))).spoil g

/-- The controller's page write fails for good: WORN (15 R450). -/
def State.wornOut (s : State) (p : PageStep) : State :=
  let s := (s.upNvp (fun n => { n with
    marker := none, step := none, worn := true, waxActive := false, readOnly := insertNat p.job.page n.readOnly })).nvpCauseSev 4 p.job.page 2
  (match p.cmd with
   | some c => s.nvpEnd c resWorn false
   | none => s).nvpGo

/-- The program step of a page ends without failing. -/
def State.programmed (s : State) (p : PageStep) : State :=
  let full := Page.blank.put (16 * p.job.first) p.job.data
  let s := s.upNvp (fun n => n.setPage p.job.page full)
  let s := if p.spare then
      (s.upNvp (fun n => { n with
        spares := n.spares + 1, lastRemap := p.job.page, remaps := aput p.job.page n.spares n.remaps })).nvpCause 3 p.job.page
    else s
  s.pageEnd p

/-- The program step fails to verify at group `g`: the write goes on in a spare while there is one; a spare that fails is spent (15 R449, R450). -/
def State.programFailed (s : State) (p : PageStep) (g : Nat) : State :=
  let s := if p.spare then s.upNvp (fun n => { n with spares := n.spares + 1 })
    else s.upNvp (fun n => n.setPage p.job.page (cutPage p.job g))
  if s.nvp.spares < spareCount then s.beginErase p.cmd p.job true p.rest else s.wornOut p

/-- A page step ends; `bad` is the group that fails program-verify. -/
def State.pageStepDone (s : State) (bad : Option Nat) : State :=
  match s.nvp.step with
  | none => s
  | some p =>
    if p.erasing then
      let s := if p.spare then s else s.upNvp (fun n => n.setPage p.job.page Page.blank)
      if p.job.data.isEmpty then s.pageEnd p
      else s.upNvp (fun n => { n with step := some { p with erasing := false }, marker := some (p.job.page, false) })
    else
      match bad with
      | none => s.programmed p
      | some g => s.programFailed p g

/-- A page step in progress is cut (15 R437, R443): in the program phase at the group `cut` names first; in the erase phase each group reads its old data (0), 0xFF (1) or uncorrectable (2). A page of a remap stays unmapped. -/
def State.cutPageStep (s : State) (cut : List Nat) : State :=
  match s.nvp.step with
  | none => s
  | some p =>
    let old := s.nvp.page p.job.page
    let new :=
      if p.spare then old
      else if !p.erasing then cutPage p.job (cut.headD 0)
      else (List.range 16).foldl (fun acc g =>
        let o := cut.getD g 0
        if o = 0 then acc
        else if o = 1 then (⟨memClear acc.bytes (16 * g) (16 * g + 16), acc.bad.filter (fun x => decide (x ≠ g))⟩ : Page)
        else acc.spoil g) old
    s.upNvp (fun n => { n.setPage p.job.page new with step := none, cmds := [], waxActive := false })

/-! ### The wax pass (15 R447, R448) -/

/-- A page is listed as torn. -/
def State.torn (s : State) (k : Nat) : State :=
  (s.upNvp (fun n => { n with tornPage := k, tornCount := sat16 n.tornCount })).nvpCauseSev 2 k 4

/-- The page that a position of the pass reads: spares stand from 2048 on. -/
def Nvp.waxTarget (n : Nvp) (pos : Nat) : Option Nat :=
  if pos < pageCount then some pos else (n.remaps.find? (fun x => decide (x.2 = pos - pageCount))).map (·.1)

/-- Does a page's own number reach its own cells? -/
def Nvp.ownCells (n : Nvp) (pos : Nat) : Bool := decide (pageCount ≤ pos) || (aget n.remaps pos).isNone

/-- One visit of the pass. -/
def State.waxVisit (s : State) (weak : Bool) (ecc : List Ecc) : State :=
  let pos := s.nvp.waxPage
  let last := decide (pos + 1 = pageCount + spareCount)
  let s := match s.nvp.waxTarget pos with
    | none => s
    | some k =>
      if !s.nvp.ownCells pos then s
      else
        let l := ecc.filter (fun (x : Ecc) => decide (x.addr / 256 = k))
        let s := s.takeEcc l
        if !(s.nvp.page k).bad.isEmpty then (s.pageUncorr k).torn k
        else if weak || !l.isEmpty then
          match s.nvp.rewriteJob k with
          | some j => if s.nvp.rewritable j then (s.beginPages none [j]).upNvp (fun n => { n with waxActive := true }) else s
          | none => s
        else s
  s.upNvp (fun n => if last then
      { n with waxPage := 0, waxRunning := false, waxLate := false, waxDone := s.otMs, history := true }
    else { n with waxPage := pos + 1 })

/-- NVP_WAX.HOURS. -/
def State.waxHours (s : State) : Nat := min 0xFFFF ((s.otMs - s.nvp.waxDone) / 3600000)

/-- May the pass run? -/
def State.waxMay (s : State) : Bool := s.nvp.waxOn && s.nvp.ready && s.pwr.started && decide (s.pwr.state ≠ .parked)

/-! ### NVP registers (15 R455, R456) -/

/-- NVP_STATUS as a master reads it. -/
def State.nvpStatus (s : State) (m : Master) : Word :=
  let r := s.mregs m
  w32 (bit s.nvp.ready + 2 * bit r.nvpBusy + 4 * bit s.nvp.worn + 8 * bit r.nvpUncorr + 16 * bit r.nvpTie +
    32 * bit s.nvp.firstPass + 64 * bit s.nvp.waxActive + 256 * r.nvpResult)

/-- `n` bytes of a bank from an address as they read: every byte of an uncorrectable group is 0x00 (01 R17). -/
def Bank.get (b : Bank) (a n : Nat) : List Byte :=
  (List.range n).map (fun i => if b.bad.contains ((a + i) / 16) then 0 else cellGet 0xFF b.bytes (a + i))

/-- The state of a firmware bank (15 R452). -/
def Bank.state (b : Bank) : Nat :=
  let h := b.get 0 256
  if (slice h 192 16).any (fun x => decide (x ≠ 0xFF)) ∨ b.bad.any (fun g => decide (g < 10 ∨ g = 11)) then 3
  else if slice h 176 16 = List.replicate 16 0x56 then 2
  else if (slice h 160 16).any (fun x => decide (x ≠ 0xFF)) then 1
  else if h.all (fun x => decide (x = 0xFF)) then 0
  else 3

/-- VERSION of a bank, 0 when it is EMPTY. -/
def Bank.version (b : Bank) : Nat :=
  if b.state = 0 then 0 else leNat (b.get 4 4)

/-- Bank `k`. -/
def Fw.bank (f : Fw) (k : Nat) : Bank := if k = 0 then f.bank0 else f.bank1

/-- Is a load of bank `k` in progress? -/
def Fw.busy (f : Fw) (k : Nat) : Bool :=
  match f.load with
  | some l => decide (l.bank = k)
  | none => false

/-- NVP_FWb_STATUS. -/
def Fw.status (f : Fw) (k : Nat) : Nat := (f.bank k).state + 4 * bit (decide (f.active = some k)) + 8 * bit (f.busy k)

/-- A read of an NVP register. -/
def State.nvpRead (s : State) (m : Master) (off : Nat) (priv : Bool) : Word :=
  let r := s.mregs m
  let n := s.nvp
  if off = 0x000 then s.nvpStatus m
  else if off = 0x004 then n.cause
  else if off = 0x008 then n.causeEn
  else if off = 0x010 then w32 (r.nvpRec + 0x10000 * r.nvpLen)
  else if off = 0x014 then privRead priv (w32 (r.nvpPage + 0x1000 * r.nvpGroup + 0x10000 * r.nvpCount))
  else if off = 0x01C then privRead priv (w32 (n.prot + 4 * bit n.lock))
  else if off = 0x020 then w32 (n.spares + 0x10000 * n.lastRemap)
  else if off = 0x024 then w32 (n.tornPage + 0x10000 * n.tornCount)
  else if off = 0x028 then w32 (n.waxPage + 0x10000 * s.waxHours)
  else if off = 0x02C then w32 n.corr
  else if off = 0x040 ∨ off = 0x044 then privRead priv (w32 (s.fw.status ((off - 0x040) / 4)))
  else if off = 0x048 ∨ off = 0x04C then privRead priv (w32 (s.fw.bank ((off - 0x048) / 4)).version)
  else if 0x100 ≤ off ∧ off < 0x200 then memWord r.nvpBuf (off - 0x100)
  else 0

/-- The command that a master's registers spell. -/
def State.nvpCmd (s : State) (m : Master) (op : NvpOp) (priv : Bool) (ecc : List Ecc) : NvpCmd :=
  let r := s.mregs m
  { who := some m, priv := priv, op := op, record := r.nvpRec, len := r.nvpLen, page := r.nvpPage, group := r.nvpGroup, count := r.nvpCount
    data := memBytes r.nvpBuf 0 (if op = .recWrite then r.nvpLen else 256), ecc := ecc, key := 0, reply := none }

/-- A write to an NVP register. LOCK is a WL field: the first write of NVP_PROTECT after reset takes effect and locks the register whatever LOCK it carries (00 R7, R9; log 51); `ecc` are the errors that a read finds which the write commands. -/
def State.nvpWrite (s : State) (m : Master) (off : Nat) (v : Word) (priv : Bool) (ecc : List Ecc) : WriteAns :=
  let r := s.mregs m
  let op := wfield v 1 0
  if off = 0x004 then .done (s.upNvp (fun n => { n with cause := w1c n.cause v }))
  else if off = 0x008 then .done (s.upNvp (fun n => { n with causeEn := v &&& 0x3F }))
  else if off = 0x00C then
    needOpen (!r.nvpBusy) (needLegal (decide (op ≠ 3))
      (.done (if op = 1 then s.nvpGive (s.nvpCmd m .recRead priv ecc)
        else if op = 2 then s.nvpGive (s.nvpCmd m .recWrite priv ecc) else s)))
  else if off = 0x010 then
    needLegal (decide (wfield v 23 16 ≤ 248)) (.done (s.upMregs m (fun r => { r with nvpRec := wfield v 9 0, nvpLen := wfield v 23 16 })))
  else if off = 0x014 then
    needPriv priv (needLegal (decide (1 ≤ wfield v 20 16 ∧ wfield v 20 16 ≤ 16))
      (.done (s.upMregs m (fun r => { r with nvpPage := wfield v 10 0, nvpGroup := wfield v 15 12, nvpCount := wfield v 20 16 }))))
  else if off = 0x018 then
    needPriv priv (needOpen (!r.nvpBusy)
      (.done (if op = 1 then s.nvpGive (s.nvpCmd m .rawRead priv ecc)
        else if op = 2 then s.nvpGive (s.nvpCmd m .rawWrite priv ecc)
        else if op = 3 then s.nvpGive (s.nvpCmd m .erase priv ecc) else s)))
  else if off = 0x01C then
    needPriv priv (needOpen (!s.nvp.lockWl) (.done (s.upNvp (fun n => { n with prot := wfield v 1 0, lock := v.getLsbD 2, lockWl := true }))))
  else if off = 0x030 then needPriv priv (.done (if v.getLsbD 0 then s.upNvp (fun n => { n with corr := 0 }) else s))
  else if 0x040 ≤ off ∧ off < 0x050 then needPriv priv (.done s)
  else if 0x100 ≤ off ∧ off < 0x200 then .done (s.upMregs m (fun r => { r with nvpBuf := memPut r.nvpBuf (off - 0x100) (wbytes v) }))
  else .done s

/-! ### Meanings -/

/-- WAX_PASS_VISIT (15 R447): `weak` tells whether the page holds a group that fails at the tightened reference; `ecc` are the errors at the normal one. -/
def execWaxPassVisit (weak : Bool) (ecc : List Ecc) (s : State) : Host.Outcome State Fault Refusal :=
  commit s (if s.waxMay && s.nvp.waxRunning && s.nvp.step.isNone then s.waxVisit weak ecc else s)

/-- WAX_PASS_BEGIN (15 R447): 24 hours of operating time after the pass before began. -/
def execWaxPassBegin (t : Nat) (s : State) : Host.Outcome State Fault Refusal :=
  let s1 := s.reach t
  commit s (if s1.waxMay && !s1.nvp.waxRunning && decide (s1.nvp.waxBegan + 86400000 ≤ s1.otMs) then
    s1.upNvp (fun n => { n with waxRunning := true, waxPage := 0, waxBegan := s1.otMs }) else s1)

/-- WAX_LATE (15 R447): a pass has not completed 7 days of operating time after it began. -/
def execWaxLate (t : Nat) (s : State) : Host.Outcome State Fault Refusal :=
  let s1 := s.reach t
  commit s (if s1.nvp.waxRunning && !s1.nvp.waxLate && decide (s1.nvp.waxBegan + 604800000 ≤ s1.otMs) then
    (s1.upNvp (fun n => { n with waxLate := true })).nvpCause 5 0 else s1)

end Sys2Proof.Machine
end

