-- ==== Sys2Proof/Machine/Firmware.lean ====
section
/-! DEFINITION. Firmware banks: loading, verification and abandonment (15 R451 to R454, R457). -/

set_option Elab.async false

namespace Sys2Proof.Machine

open Sys2Proof

/-! ### Banks (15 R451, R453) -/

/-- Bank `k` updated. -/
def State.upBank (s : State) (k : Nat) (f : Bank → Bank) : State :=
  s.upFw (fun x => if k = 0 then { x with bank0 := f x.bank0 } else { x with bank1 := f x.bank1 })

/-- Bytes programmed into a bank from an address on. -/
def Bank.put (b : Bank) (a : Nat) (l : List Byte) : Bank :=
  { b with bytes := (l.foldl (fun (acc : Mem × Nat) x => (cellSet 0xFF acc.1 acc.2 x, acc.2 + 1)) (b.bytes, a)).1 }

/-- INVALID_MARK is programmed. -/
def Bank.invalidate (b : Bank) : Bank := b.put 192 (List.replicate 16 0x49)

/-- LOAD_MARK is programmed. -/
def Bank.markLoad (b : Bank) : Bank := b.put 160 (List.replicate 16 0x4C)

/-- VALID_MARK is programmed. -/
def Bank.markValid (b : Bank) : Bank := b.put 176 (List.replicate 16 0x56)

/-- LENGTH of a bank's body. -/
def Bank.length (b : Bank) : Nat := leNat (b.get 8 4)

/-- The bank that a load writes: the inactive one; in the recovery service that of lower VERSION, or bank 0 when the versions are equal or unreadable (15 R453, 19 R522). -/
def State.loadBank (s : State) : Nat :=
  match s.fw.active with
  | some b => 1 - b
  | none => if s.fw.bank1.version < s.fw.bank0.version ∧ s.fw.bank0.state ≠ 0 ∧ s.fw.bank1.state ≠ 0 then 1 else 0

/-- A header as step 1 of R453 checks it. -/
def fwHeaderOk (h : List Byte) : Bool :=
  decide (256 ≤ h.length) && decide (slice h 0 4 = [0x57, 0x4B, 0x46, 0x57]) &&
    decide (getLE h 8 4 % 16 = 0 ∧ 16 ≤ getLE h 8 4 ∧ getLE h 8 4 ≤ 8388352) && decide (byteAt h 12 ≤ 1) &&
    allZero (slice h 13 3) && allZero (slice h 112 48) && (slice h 160 48).all (fun x => decide (x = 0xFF)) && allZero (slice h 208 48)

/-! ### Steps of a load (15 R453) -/

/-- FW_RESULT. -/
def State.fwResult (s : State) (code : Nat) : State := s.upFw (fun x => { x with result := code })

/-- A load ends with a code; INVALID_MARK is programmed where `mark` says so. -/
def State.endLoad (s : State) (code : Nat) (mark : Bool) : State :=
  match s.fw.load with
  | none => s
  | some l =>
    let s := (s.upFw (fun x => { x with load := none })).fwResult code
    if mark then s.upBank l.bank Bank.invalidate else s

/-- The pending answer of a load leaves. -/
def State.fwAnswer (s : State) (status : Nat) : State :=
  match s.fw.load with
  | some l =>
    (match l.reply with
     | some r => (s.answer r status 0).upFw (fun x => { x with load := some { l with reply := none } })
     | none => s)
  | none => s

/-- A segment at OFFSET 0: header check, INVALID_MARK, and the erase begins; its answer waits (steps 1 and 2). -/
def State.fwFirst (s : State) (data : List Byte) (last : Bool) (reply : Option Reply) : State × Option Nat :=
  if !fwHeaderOk data then (s.fwResult 1, some stRange)
  else
    let k := s.loadBank
    let s := if (s.fw.bank k).get 0 256 = List.replicate 256 0xFF then s else s.upBank k Bank.invalidate
    (s.upFw (fun x => { x with
      load := some { bank := k, len := getLE data 8 4, phase := .erase, next := 0, data := data, last := last, reply := reply } }), none)

/-- A segment written to entry 0x1030: the state, and the status of an answer that does not wait. -/
def State.fwSegment (s : State) (off : Nat) (data : List Byte) (last : Bool) (reply : Option Reply) : State × Option Nat :=
  match s.fw.load with
  | none => if off = 0 then s.fwFirst data last reply else (s, some stRange)
  | some l =>
    if l.phase ≠ .idle then (s, some stBusy)
    else if off ≠ l.next then (s.endLoad 4 false, some stRange)
    else if 256 + l.len < off + data.length then (s.endLoad 4 true, some stRange)
    else (s.upFw (fun x => { x with load := some { l with phase := .program, data := data, last := last, reply := reply } }), none)

/-- The bytes of the pending segment are in the bank: the next segment, or the verification. -/
def State.fwPlaced (s : State) (l : FwLoad) : State :=
  let n := l.next + l.data.length
  if !l.last then
    (s.upFw (fun x => { x with load := some { l with phase := .idle, next := n, data := [] } })).fwAnswer stOk
  else if n = 256 + l.len then s.upFw (fun x => { x with load := some { l with phase := .verify, next := n, data := [] } })
  else (s.fwAnswer stOk).endLoad 4 true

/-- The erase of the bank, or the programming of a segment, ends; `ok` tells whether it verifies (step 2, step 3). -/
def State.fwBankStep (s : State) (ok : Bool) : State :=
  match s.fw.load with
  | none => s
  | some l =>
    if l.phase = .idle ∨ l.phase = .verify then s
    else if !ok then (s.fwAnswer stOk).endLoad 5 true
    else if l.phase = .erase then
      if 256 + l.len < l.data.length then ((s.upBank l.bank (fun _ => Bank.reset)).fwAnswer stRange).endLoad 4 true
      else (s.upBank l.bank (fun _ => (Bank.reset.put 0 l.data).markLoad)).fwPlaced l
    else (s.upBank l.bank (fun b => b.put l.next l.data)).fwPlaced l

/-- Does a bank's body have its DIGEST? -/
def Bank.digestOk (b : Bank) : Bool := decide (sha256 (b.get 256 b.length) = b.get 16 32)

/-- The number of bytes of a bank in the addresses of the firmware store: bank `k` begins at `k` times this. -/
def bankBytes : Nat := 8388608

/-- An error that a read of the firmware store finds: a correction counts; an uncorrectable group stays so, is recorded, and sets NVP_STATUS.UNCORR of SUP0, whose boot ROM and firmware read the banks (01 R16, R17; log 52). -/
def State.fwRead (s : State) (x : Ecc) : State :=
  if x.mem ≠ .firmware ∨ 2 * bankBytes ≤ x.addr then s
  else if x.hard then
    ((s.upBank (x.addr / bankBytes) (fun b => { b with bad := insertNat (x.addr % bankBytes / 16) b.bad })).upMregs .sup0
      (fun r => { r with nvpUncorr := true })).uncorrectable .firmware x.addr
  else s.corrected .firmware x.addr

/-- The errors that reads of the firmware store find. -/
def State.fwReads (s : State) (l : List Ecc) : State := l.foldl State.fwRead s

/-- Step 4: DIGEST, then SIGNATURE; `signed` is the verdict of the signature check (log 8). -/
def State.fwVerified (s : State) (signed : Bool) : State :=
  match s.fw.load with
  | none => s
  | some l =>
    if l.phase ≠ .verify then s
    else
      let s := s.fwAnswer stOk
      if !(s.fw.bank l.bank).digestOk then s.endLoad 3 true
      else if !signed then s.endLoad 2 true
      else (s.endLoad 0 false).upBank l.bank Bank.markValid

/-- FW_CMD 3, or a reset: the load is abandoned with code 6; the pending segment is answered (15 R453, R454). -/
def State.fwAbandon (s : State) : State := (s.fwAnswer stOk).endLoad 6 false

/-- A device reset with a load in progress: INVALID_MARK is programmed where the header sector can still take it, as it can until the erase reaches it (13 R395, 15 R453). Answers whether a bank was invalidated. -/
def State.fwReset (s : State) : State × Bool :=
  match s.fw.load with
  | none => (s, false)
  | some l => if l.phase = .erase then (s.endLoad 6 true, true) else (s.endLoad 6 false, false)

/-- VIN is lost with a load in progress: the bank is left INVALID or LOADING, or EMPTY when the erase had passed its header (15 R453). -/
def State.fwPowerLoss (s : State) (headErased : Bool) : State :=
  match s.fw.load with
  | none => s
  | some l =>
    let s := s.endLoad 6 false
    if l.phase = .erase ∧ headErased then s.upBank l.bank (fun _ => Bank.reset) else s

/-! ### Start-up (15 R454) -/

/-- A bank that passes at start-up: VALID, with its DIGEST, and with its signature among those that verify. -/
def Fw.passes (f : Fw) (signed : List Nat) (k : Nat) : Bool :=
  decide ((f.bank k).state = 2) && (f.bank k).digestOk && signed.contains k

/-- A VALID bank that fails is invalidated. -/
def State.bootCheck (s : State) (signed : List Nat) (k : Nat) : State :=
  if (s.fw.bank k).state = 2 ∧ !s.fw.passes signed k then s.upBank k Bank.invalidate else s

/-- The boot ROM verifies the banks and boots the one of higher VERSION, bank 0 when they are equal. -/
def State.bootBanks (s : State) (signed : List Nat) : State :=
  let p0 := s.fw.passes signed 0
  let p1 := s.fw.passes signed 1
  let s := (s.bootCheck signed 0).bootCheck signed 1
  let pick : Option Nat :=
    if p0 && p1 then (if s.fw.bank0.version < s.fw.bank1.version then some 1 else some 0)
    else if p0 then some 0 else if p1 then some 1 else none
  s.upFw (fun x => { x with active := pick })

/-! ### Meanings -/

/-- FW_IMAGE_SEGMENT (15 R453): a segment of a privileged session's transfer to entry 0x1030. -/
def execFwImageSegment (off : Nat) (data : List Byte) (last : Bool) (s : State) : Host.Outcome State Fault Refusal :=
  commit s (s.fwSegment off data last none).1

/-- FW_BANK_STEP_DONE (15 R453). -/
def execFwBankStepDone (ok : Bool) (s : State) : Host.Outcome State Fault Refusal := commit s (s.fwBankStep ok)

/-- FW_VERIFY_DONE (15 R453): `signed` is the verdict of the signature check; `ecc` are the errors that the reads of the bank found. -/
def execFwVerifyDone (signed : Bool) (ecc : List Ecc) (s : State) : Host.Outcome State Fault Refusal :=
  commit s (match s.fw.load with
    | some l => if l.phase = .verify then (s.fwReads (ecc.filter (fun x => decide (x.addr / bankBytes = l.bank)))).fwVerified signed else s
    | none => s)

/-- FW_CMD_ABANDON (15 R453). -/
def execFwCmdAbandon (s : State) : Host.Outcome State Fault Refusal := commit s s.fwAbandon

end Sys2Proof.Machine
end

