-- ==== Sys2Proof/Machine/Panel.lean ====
section
/-! DEFINITION. The FIO registers (08 R265, R266) and the registers of the MET mailbox (17 R491). -/

set_option Elab.async false

namespace Sys2Proof.Machine

open Sys2Proof

/-! ### FIO registers (08 R265, R266) -/

/-- FIO_GRPg_STATUS. -/
def FieldGroup.status (g : FieldGroup) : Nat :=
  bit g.warn + 2 * bit g.low + 4 * bit g.invalid + 8 * bit g.missing + 16 * bit g.high + 32 * bit g.overcurrent +
    64 * bit g.qualified + 128 * bit g.off + 256 * bit g.restore + 512 * bit g.used

/-- One bit for each group. -/
def State.groupBits (s : State) (f : FieldGroup → Bool) : Nat :=
  (List.range 8).foldl (fun n g => n + 2 ^ g * bit (f (s.group g))) 0

/-- FIO_STATUS. -/
def State.fioStatus (s : State) : Word :=
  w32 (s.groupBits (·.off) + 256 * s.groupBits (·.invalid) + 0x10000 * bit s.fio.expired + 0x20000 * bit s.fio.haltSafe +
    0x40000 * bit s.driversOff + 0x80000 * bit s.fio.pendingCfg)

/-- One bit for each pin of field connector `f`. -/
def pinBits (f : Nat) (p : Nat → Bool) : Word :=
  w32 ((List.range 32).foldl (fun n i => n + 2 ^ i * bit (p (32 * f + i))) 0)

/-- A read of an FIO register. -/
def State.fioRead (s : State) (off : Nat) : Word :=
  if off = 0x000 then s.fioStatus
  else if off = 0x004 then s.fio.cause
  else if off = 0x008 then s.fio.causeEn
  else if off = 0x010 then w32 (s.fio.timeout + 0x10000 * bit s.fio.expired)
  else if 0x020 ≤ off ∧ off < 0x040 then w32 (s.group ((off - 0x020) / 4)).status
  else if 0x040 ≤ off ∧ off < 0x060 then
    let g := s.group ((off - 0x040) / 4)
    w32 (min 0xFFFF g.mv + 0x10000 * g.ma)
  else if 0x100 ≤ off ∧ off < 0x140 then pinBits ((off - 0x100) / 4) (fun c => (s.chan c).openLoad)
  else if 0x140 ≤ off ∧ off < 0x180 then pinBits ((off - 0x140) / 4) (fun c => (s.chan c).ovld)
  else if 0x180 ≤ off ∧ off < 0x1C0 then
    let rs := s.safeRanges
    pinBits ((off - 0x180) / 4) (fun c => decide ((s.chan c).mode = 3) && s.chanSafe rs c)
  else 0

/-- A write to an FIO register. -/
def State.fioWrite (s : State) (off : Nat) (v : Word) : WriteAns :=
  if off = 0x004 then .done (s.upFio (fun f => { f with cause := w1c f.cause v }))
  else if off = 0x008 then .done (s.upFio (fun f => { f with causeEn := v &&& 0xFFF }))
  else if off = 0x00C then .done (s.ackGroups (wfield v 7 0))
  else .done s

/-! ### The MET mailbox (17 R491) -/

/-- The bytes that word 0 latches: record `k` below 12, the selected audit entry at 12. -/
def State.metSource (s : State) (m : Master) (k : Nat) : List Byte :=
  if k < 12 then (vget s.met.chans k MetChan.reset).record else (s.met.audit[(s.mregs m).auditSel]?).getD (zeros 64)

/-- Word `i` of a record or of the audit entry: word 0 latches the whole for the reading master. -/
def State.metWord (s : State) (m : Master) (k i : Nat) : Word × State :=
  let s := if i = 0 then s.upMregs m (fun r => { r with metLatch := aput k (s.metSource m k) r.metLatch }) else s
  (w32 (getLE ((aget (s.mregs m).metLatch k).getD []) (4 * i) 4), s)

/-- A read of a MET register. -/
def State.metRead (s : State) (m : Master) (off : Nat) : Word × State :=
  if off = 0x000 then (s.met.status, s)
  else if off = 0x004 then (s.met.cause, s)
  else if off = 0x008 then (s.met.causeEn, s)
  else if off = 0x00C then (w32 s.met.events, s)
  else if off = 0x010 then (w32 s.met.audit.length, s)
  else if off = 0x014 then (s.met.swVersion, s)
  else if off = 0x018 then (w32 (s.mregs m).auditSel, s)
  else if 0x020 ≤ off ∧ off < 0x040 then (w32 (getLE s.met.digest (off - 0x020) 4), s)
  else if 0x100 ≤ off ∧ off < 0x280 then s.metWord m ((off - 0x100) / 32) ((off - 0x100) % 32 / 4)
  else if 0x300 ≤ off ∧ off < 0x340 then s.metWord m 12 ((off - 0x300) / 4)
  else (0, s)

/-- A write to a MET register: only the receiving side's registers take one. -/
def State.metWrite (s : State) (m : Master) (off : Nat) (v : Word) : WriteAns :=
  if off = 0x004 then .done (s.upMet (fun x => { x with cause := w1c x.cause v }))
  else if off = 0x008 then .done (s.upMet (fun x => { x with causeEn := v &&& 0xF }))
  else if off = 0x018 then .done (s.upMregs m (fun r => { r with auditSel := wfield v 9 0 }))
  else .done s

end Sys2Proof.Machine
end

