-- ==== Sys2Proof/Machine/Recorder.lean ====
section
/-! DEFINITION. The event recorder's records, reading window and clear, and the WDG and EVR registers (13 R396 to R412). -/

set_option Elab.async false

namespace Sys2Proof.Machine

open Sys2Proof

/-! ### Records (13 R399, R406) -/

/-- FLAGS of a record. -/
def Rec.flags (r : Rec) : Nat := bit r.calValid + 2 * bit r.snapOmitted + 4 * bit r.snapPending + 8 * bit r.snapLost

/-- The header but for CHECK: bytes 0 to 59. -/
def Rec.fields (r : Rec) : List Byte :=
  leBytes 2 r.code ++ leBytes 2 r.source ++ leBytes 1 r.sev ++ leBytes 1 r.flags ++ leBytes 1 r.snapWords ++ leBytes 1 r.trigger ++
    leBytes 2 r.repeats ++ zeros 2 ++ leBytes 4 r.cycles ++ leBytes 6 r.otFirst ++ leBytes 6 r.otLast ++ leBytes 8 r.ms ++
    leBytes 4 r.date ++ leBytes 4 r.time ++ leBytes 4 r.seq ++ padTo 8 r.detail ++ leBytes 2 r.term ++ zeros 2

/-- A record of 256 bytes. -/
def Rec.encode (r : Rec) : List Byte := withCrc32 r.fields ++ padTo 192 (r.snap.take (4 * r.snapWords))

/-- The severity by which a record may be overwritten: a corrupt slot counts as 7 (13 R405). -/
def Rec.rank (r : Rec) : Nat := if r.corrupt then 7 else r.sev

/-- A slot that reads corrupt keeps its SEQ with CODE 0x0001 and severity 3 (13 R406). -/
def Rec.corrupted (r : Rec) : Rec := { r with code := 1, source := 0, sev := 3, corrupt := true }

/-- The record that an occurrence makes. -/
def Occ.record (o : Occ) (seq : Nat) : Rec :=
  { code := o.code, source := o.source, sev := o.sev, calValid := o.calValid, snapOmitted := false, snapPending := false
    snapLost := false, snapWords := 0, trigger := 0xFF, repeats := 0, cycles := o.cycles, otFirst := o.ot, otLast := o.ot
    ms := o.ms, date := o.date, time := o.time, seq := seq, detail := o.detail, term := o.term, snap := [], corrupt := false }

/-- The slots of the recorder region. -/
def slotCount : Nat := 4096

/-- The first record that a record of severity `sev` may overwrite goes: that of lowest SEQ (13 R405). -/
def makeRoom (sev : Nat) : List Rec → Option (List Rec)
  | [] => none
  | r :: t => if sev ≤ r.rank then some t else (makeRoom sev t).map (r :: ·)

/-- The recorder takes a new record in SEQ order; none when it is dropped. -/
def Evr.put (e : Evr) (o : Occ) : Option Evr :=
  let room := if e.recs.length < slotCount then some e.recs else makeRoom o.sev e.recs
  room.map (fun l => { e with recs := l ++ [o.record e.nextSeq], nextSeq := (e.nextSeq + 1) % 2 ^ 32 })

/-- The record with the highest SEQ when an occurrence repeats it (13 R404). -/
def Evr.repeats (e : Evr) (o : Occ) : Bool :=
  match e.recs.getLast? with
  | some r => decide (r.code = o.code ∧ r.source = o.source) && !r.corrupt
  | none => false

/-- An occurrence merged into the record with the highest SEQ (13 R404). -/
def Evr.merge (e : Evr) (o : Occ) : Evr :=
  { e with recs := e.recs.dropLast ++ (e.recs.getLast?.map (fun r => { r with repeats := sat16 r.repeats, otLast := o.ot })).toList }

/-! ### Reading (13 R410, R411) -/

/-- The records that a reader finds: none while a clear is in progress. -/
def Evr.held (e : Evr) : List Rec := if e.clearing.isSome then [] else e.recs

/-- The lowest SEQ held; with an empty log the next SEQ. -/
def Evr.oldest (e : Evr) : Nat :=
  match e.held.head? with
  | some r => r.seq
  | none => e.nextSeq

/-- EVR_CURSOR of a master: the oldest SEQ at start-up, until it is written or moved. -/
def State.cursor (s : State) (m : Master) : Nat := (s.mregs m).cursor

/-- SEQ at or after another, by serial number arithmetic. -/
def seqFrom (c q : Nat) : Bool := decide ((q + 2 ^ 32 - c) % 2 ^ 32 < 2 ^ 31)

/-- The record at or after a cursor. -/
def Evr.at' (e : Evr) (c : Nat) : Option Rec := e.held.find? (fun r => seqFrom c r.seq)

/-- A read of EVR_WIN0 latches a record. -/
def State.latchRecord (s : State) (m : Master) : State :=
  let c := s.cursor m
  match s.evr.at' c with
  | none => s.upMregs m (fun r => { r with window := zeros 256, winSeq := none, gap := false })
  | some x =>
    let gap := decide (x.seq ≠ c)
    let s := s.upMregs m (fun r => { r with window := x.encode, winSeq := some x.seq, gap := gap })
    if gap then s.evrCause 5 else s

/-- The record of slot `i` reads uncorrectable (01 R17, 13 R406). -/
def State.recordUncorr (s : State) (i : Nat) : State :=
  match s.evr.recs[i]? with
  | none => s
  | some x =>
    let s := s.upEvr (fun e => { e with recs := e.recs.map (fun r => if r.seq = x.seq then r.corrupted else r) })
    (s.uncorrectable .recorder (256 * i)).evrCause 3

/-- The errors that a read of the recorder region finds, by byte address in the region: corrections count, a record that reads uncorrectable is corrupt (01 R16, R17). -/
def State.recorderReads (s : State) (l : List Ecc) : State :=
  l.foldl (fun s x =>
    if x.mem ≠ .recorder then s else if x.hard then s.recordUncorr (x.addr / 256) else s.corrected .recorder x.addr) s

/-- The errors among them that lie in the record which a read of EVR_WIN0 latches. -/
def State.latchErrors (s : State) (m : Master) (l : List Ecc) : List Ecc :=
  match s.evr.at' (s.cursor m) with
  | none => []
  | some x => l.filter (fun e => decide (s.evr.recs.findIdx? (fun r => decide (r.seq = x.seq)) = some (e.addr / 256)))

/-- Word `i` of the latched window; a read of the last one moves the cursor (13 R410). -/
def State.windowWord (s : State) (m : Master) (i : Nat) : Word × State :=
  if s.evr.clearing.isSome then (0, s)
  else
    let s := if i = 0 then s.latchRecord m else s
    let r := s.mregs m
    let w := w32 (getLE r.window (4 * i) 4)
    match r.winSeq with
    | some q => (w, if i = 63 then s.upMregs m (fun r => { r with cursor := (q + 1) % 2 ^ 32 }) else s)
    | none => (w, s)

/-! ### Clearing (13 R411) -/

/-- From this number on a session's latched bytes are those of entry 0x5304 (14 R425); below it those of entry 0x5005 (13 R413). -/
def exportKey : Nat := 65536

/-- Where a session's transfer of entry 0x5005 or 0x5304 is latched. -/
def logKey (i id : Nat) : Nat := if i = 0x5304 then exportKey + id else id

/-- The clear begins; `code` is the master code, or 5 for a Kivasel session. From here on no reader finds a record, nor a transfer of entry 0x5005 that had begun. -/
def State.startClear (s : State) (code : Nat) : State :=
  if s.evr.clearing.isSome then s
  else (s.upEvr (fun e => { e with clearing := some code, removed := e.recs.length })).upDict (fun d => { d with
    volatile := d.volatile.filter (fun e => decide (exportKey ≤ e.1)) })

/-! ### EVR registers (13 R412) -/

/-- EVR_STATUS as a master reads it. -/
def State.evrStatus (s : State) (m : Master) : Word :=
  w32 (s.evr.held.length + 0x2000 * bit (decide (s.evr.held.length = slotCount)) + 0x4000 * bit s.evr.clearing.isSome +
    0x8000 * bit (s.mregs m).gap + 0x10000 * s.evr.queue.length)

/-- A read of an EVR register. -/
def State.evrRead (s : State) (m : Master) (off : Nat) : Word × State :=
  if off = 0x000 then (s.evrStatus m, s)
  else if off = 0x004 then (s.evr.cause, s)
  else if off = 0x008 then (s.evr.causeEn, s)
  else if off = 0x00C then (w32 s.evr.level, s)
  else if off = 0x010 then (w32 (s.cursor m), s)
  else if off = 0x014 then (w32 s.evr.nextSeq, s)
  else if off = 0x018 then (w32 s.evr.oldest, s)
  else if 0x020 ≤ off ∧ off < 0x040 then
    (w32 (vget s.evr.drops ((off - 0x020) / 4) 0), s.upEvr (fun e => { e with drops := vset e.drops ((off - 0x020) / 4) 0 }))
  else if 0x100 ≤ off ∧ off < 0x200 then s.windowWord m ((off - 0x100) / 4)
  else (0, s)

/-- A write to an EVR register. -/
def State.evrWrite (s : State) (m : Master) (off : Nat) (v : Word) (priv : Bool) : WriteAns :=
  if off = 0x004 then .done (s.upEvr (fun e => { e with cause := w1c e.cause v }))
  else if off = 0x008 then .done (s.upEvr (fun e => { e with causeEn := v &&& 0x3F }))
  else if off = 0x00C then .done (s.upEvr (fun e => { e with level := wfield v 2 0 }))
  else if off = 0x010 then .done (s.upMregs m (fun r => { r with cursor := v.toNat }))
  else if off = 0x01C then needPriv priv (needLegal (decide (v = 0xA5C3#32)) (.done (s.startClear (masterCode m))))
  else .done s

/-! ### WDG registers (13 R388, R392, R396 to R398) -/

/-- One bit for each slot that satisfies a condition. -/
def slotBits (w : Wdg) (f : WSlot → Bool) : Word :=
  w32 ((List.range 32).foldl (fun n i => n + 2 ^ i * bit (f (vget w.slots i WSlot.reset))) 0)

/-- WDG_SLOTs_CFG. -/
def WSlot.cfg (w : WSlot) : Word := w32 (w.period + 0x10000 * w.winOpen + 0x100000 * w.owner + 0x400000 * w.number)

/-- WDG_SLOTs_STATE. -/
def WSlot.stat (w : WSlot) : Word :=
  w32 (w.lastKind + 4 * bit w.checked + 8 * bit w.first + 16 * w.extra + 0x10000 * w.fails)

/-- A host check-in (13 R388). -/
def State.hostCheckin (s : State) (i t : Nat) : State :=
  let w := s.wslot i
  if w.owner = 3 ∧ w.armed then s.wayCheckin i t else s.occur 0x3004 i []

/-- WDG_RESETS.COUNT is cleared (13 R396). -/
def State.clearResets (s : State) : State := s.upWdg (fun w => { w with resets := 0 })

/-- A read of a WDG register. -/
def State.wdgRead (s : State) (off : Nat) : Word × State :=
  let w := s.wdg
  if off = 0x000 then (w.cause, s)
  else if off = 0x004 then (w.causeEn, s)
  else if off = 0x008 then (w32 (w.firstSlot + 32 * w.firstKind + 128 * bit w.firstValid), s)
  else if off = 0x00C then (w32 (w.resets + 0x10000 * w.lastSlot + 0x200000 * w.lastKind), s)
  else if off = 0x010 then (slotBits w (·.armed), s)
  else if off = 0x014 then (slotBits w (·.warned), s)
  else if 0x100 ≤ off ∧ off < 0x180 then ((s.wslot ((off - 0x100) / 4)).cfg, s)
  else if 0x180 ≤ off ∧ off < 0x200 then ((s.wslot ((off - 0x180) / 4)).stat, s)
  else (0, s)

/-- A write to a WDG register: WDG_FIRST is kept until every bit of WDG_CAUSE has been cleared. -/
def State.wdgWrite (s : State) (off : Nat) (v : Word) (priv : Bool) : WriteAns :=
  if off = 0x000 then
    .done (s.upWdg (fun w =>
      let c := w1c w.cause v
      if c = 0 then { w with cause := c, firstValid := false, firstSlot := 0, firstKind := 0 } else { w with cause := c }))
  else if off = 0x004 then .done (s.upWdg (fun w => { w with causeEn := v }))
  else if off = 0x018 then needLegal (decide (wfield v 15 8 = 0xA5)) (.done (s.hostCheckin (wfield v 4 0) s.clk.now))
  else if off = 0x01C then needPriv priv (.done (if v.getLsbD 0 then s.clearResets else s))
  else .done s

end Sys2Proof.Machine
end

