-- ==== Sys2Proof/Machine/Rtc.lean ====
section
/-! DEFINITION. The always-on block: calendar, shift, alarm, periodic wake, wake sources, Parked requests and the RTC registers (16 R458 to R477). -/

set_option Elab.async false

namespace Sys2Proof.Machine

open Sys2Proof

/-! ### The calendar (16 R458, R459) -/

/-- A leap year of the calendar, by years since 2000. -/
def leapYear (y : Nat) : Bool := decide (y % 4 = 0) && decide (y ≠ 100 ∧ y ≠ 200 ∧ y ≠ 300)

/-- The days of a month of year 2000 + y. -/
def monthDays (y m : Nat) : Nat :=
  if m = 2 then (if leapYear y then 29 else 28) else if m = 4 ∨ m = 6 ∨ m = 9 ∨ m = 11 then 30 else 31

/-- A calendar instant: years since 2000, month, day, seconds of the day, sub-second count. -/
structure Cal where
  y : Nat
  m : Nat
  d : Nat
  sec : Nat
  sub : Nat
  deriving DecidableEq, Repr

/-- The calendar as the registers hold it. -/
def Rtc.cal (r : Rtc) : Cal :=
  { y := bcdVal 4 (wfield r.date 31 16) - 2000, m := bcdVal 2 (wfield r.date 15 8), d := bcdVal 2 (wfield r.date 7 0)
    sec := 3600 * bcdVal 2 (wfield r.time 23 16) + 60 * bcdVal 2 (wfield r.time 15 8) + bcdVal 2 (wfield r.time 7 0), sub := r.sub }

/-- The date register of a calendar instant. -/
def Cal.date (c : Cal) : Word := w32 (toBcd 4 (2000 + c.y) * 65536 + toBcd 2 c.m * 256 + toBcd 2 c.d)

/-- The time register of a calendar instant. -/
def Cal.time (c : Cal) : Word := w32 (toBcd 2 (c.sec / 3600) * 65536 + toBcd 2 (c.sec / 60 % 60) * 256 + toBcd 2 (c.sec % 60))

/-- The calendar put into the registers. -/
def Rtc.setCal (r : Rtc) (c : Cal) : Rtc := { r with date := c.date, time := c.time, sub := c.sub }

/-- The next second, and whether the calendar wraps. -/
def Cal.nextSecond (c : Cal) : Cal × Bool :=
  if c.sec + 1 < 86400 then ({ c with sec := c.sec + 1 }, false)
  else if c.d < monthDays c.y c.m then ({ c with sec := 0, d := c.d + 1 }, false)
  else if c.m < 12 then ({ c with sec := 0, d := 1, m := c.m + 1 }, false)
  else if c.y < 399 then ({ c with sec := 0, d := 1, m := 1, y := c.y + 1 }, false)
  else ({ c with sec := 0, d := 1, m := 1, y := 0 }, true)

/-- The days from 2000-01-01 to the first of January of year 2000 + y. -/
def daysBefore (y : Nat) : Nat :=
  365 * y + (y + 3) / 4 - bit (decide (100 < y)) - bit (decide (200 < y)) - bit (decide (300 < y))

/-- The days from 2000-01-01 to a date. -/
def Cal.days (c : Cal) : Nat :=
  daysBefore c.y + (List.range (c.m - 1)).foldl (fun n i => n + monthDays c.y (i + 1)) 0 + (c.d - 1)

/-- WEEKDAY: 1 for Monday; 2000-01-01 is a Saturday. -/
def Cal.weekday (c : Cal) : Nat := (c.days + 5) % 7 + 1

/-- The month and day of a day of the year. -/
def monthOf (y : Nat) : Nat → Nat → Nat → Nat × Nat
  | 0, m, d => (m, d + 1)
  | n + 1, m, d => if d < monthDays y m then (m, d + 1) else monthOf y n (m + 1) (d - monthDays y m)

/-- The calendar instant of a number of days, of ms of the day. -/
def Cal.ofMs (ms : Nat) : Cal :=
  let days := ms / 86400000
  let y0 := min 399 (days / 365)
  let y := if days < daysBefore y0 then y0 - 1 else y0
  let md := monthOf y 11 1 (days - daysBefore y)
  { y := y, m := md.1, d := md.2, sec := ms / 1000 % 86400, sub := ms % 1000 * 32768 / 1000 }

/-- ms since 2000-01-01 of a calendar instant (16 R477). -/
def Cal.ms (c : Cal) : Nat := c.days * 86400000 + c.sec * 1000 + c.sub * 1000 / 32768

/-! ### Wake (16 R471, R472) -/

/-- The wake enables in effect: bit 2 is always set, bit 5 is CAN0_CTRL.WAKE_EN. -/
def State.wakeEnabled (s : State) : BitVec 6 :=
  (s.rtc.wakeEn &&& 0x1B#6) ||| 0x04#6 ||| (if (s.canPort 0).ctrl.getLsbD 8 then 0x20#6 else 0)

/-- The enabled pending bits. -/
def State.wakeHits (s : State) : BitVec 6 := s.rtc.wakePend &&& s.wakeEnabled

/-- A wake from Parked: SUP is powered and a start-up follows. -/
def State.wake (s : State) : State :=
  if s.pwr.state = .parked ∧ s.rtc.wakePend &&& s.wakeEnabled ≠ 0 then
    (s.upRtc (fun r => { r with wakeSrc := s.wakeHits })).upPwr (fun p => { p with
      state := .run, domains := 0x003#12, ref := .wake, started := false, stopped := false })
  else s

/-- A wake source sets its bit, in every power state. -/
def State.wakeEvent (s : State) (b : Nat) : State :=
  if s.pwr.aoRunning then (s.upRtc (fun r => { r with wakePend := r.wakePend ||| (1#6 <<< b) })).wake else s

/-! ### One tick (16 R458 to R468) -/

/-- Does the alarm match the calendar on every enabled field? -/
def Rtc.alarmMatch (r : Rtc) : Bool :=
  let m (b hi lo : Nat) (x y : Word) : Bool := !r.alarmTime.getLsbD b || decide (wfield x hi lo = wfield y hi lo)
  r.alarmTime.getLsbD 31 && m 24 7 0 r.time r.alarmTime && m 25 15 8 r.time r.alarmTime && m 26 23 16 r.time r.alarmTime &&
    m 27 7 0 r.date r.alarmDate && m 28 15 8 r.date r.alarmDate && m 29 31 16 r.date r.alarmDate

/-- The sub-second count advances by `k`, with its carry into the seconds; a second that begins by counting is compared with the alarm. -/
def State.advance (s : State) (k : Nat) : State :=
  if s.rtc.sub + k < 32768 then s.upRtc (fun r => { r with sub := r.sub + k })
  else
    let n := s.rtc.cal.nextSecond
    let s := s.upRtc (fun r => r.setCal { n.1 with sub := s.rtc.sub + k - 32768 })
    let s := if n.2 then (s.upRtc (fun r => { r with wrap := true })).rtcCause 3 else s
    if s.rtc.alarmMatch then (s.rtcCause 0).wakeEvent 0 else s

/-- The step of this tick, with the shift in progress: 2, 1 or 0 counts, and the shift after it. -/
def Rtc.shiftStep (r : Rtc) : Nat × Rtc :=
  if r.shift = 0 then (1, r)
  else if r.shiftTicks + 1 < 256 then (1, { r with shiftTicks := r.shiftTicks + 1 })
  else if 0 < r.shift then (2, { r with shiftTicks := 0, shift := r.shift - 1 })
  else (0, { r with shiftTicks := 0, shift := r.shift + 1 })

/-- One tick: a pending set in place of the increment, or counting with the shift. -/
def State.calTick (s : State) : State :=
  if !s.pwr.aoRunning then s
  else
    let s := s.upRtc (fun r => { r with ticks := r.ticks + 1, trim := r.trimNext.getD r.trim, trimNext := none })
    match s.rtc.setBusy with
    | some (d, t, n) =>
      s.upRtc (fun r => { r with
        date := d, time := t &&& 0x00FFFFFF#32, sub := n, setBusy := none, valid := true, wrap := false, badset := false
        oscStop := false, shift := 0, shiftTicks := 0 })
    | none =>
      let x := s.rtc.shiftStep
      let wasOver := decide (s.rtc.shift ≠ 0 ∧ x.2.shift = 0)
      let s := (s.upRtc (fun _ => x.2)).advance x.1
      if wasOver then s.rtcCause 5 else s

/-! ### Setting (16 R462 to R464) -/

/-- Is a staged value a possible set? -/
def possibleSet (d t : Word) : Bool :=
  bcdOk 8 d.toNat && bcdOk 6 (wfield t 23 0) && decide (wfield t 31 24 = 0) &&
    decide (2000 ≤ bcdVal 4 (wfield d 31 16) ∧ bcdVal 4 (wfield d 31 16) ≤ 2399) &&
    decide (1 ≤ bcdVal 2 (wfield d 15 8) ∧ bcdVal 2 (wfield d 15 8) ≤ 12) &&
    decide (1 ≤ bcdVal 2 (wfield d 7 0) ∧
      bcdVal 2 (wfield d 7 0) ≤ monthDays (bcdVal 4 (wfield d 31 16) - 2000) (bcdVal 2 (wfield d 15 8))) &&
    decide (bcdVal 2 (wfield t 23 16) < 24 ∧ bcdVal 2 (wfield t 15 8) < 60 ∧ bcdVal 2 (wfield t 7 0) < 60)

/-- GO with staged values: a possible set waits for the next tick, an impossible one is rejected. -/
def State.setGo (s : State) (d t : Word) (n : Nat) : State :=
  if possibleSet d t then s.upRtc (fun r => { r with setBusy := some (d, t, n) })
  else (s.upRtc (fun r => { r with badset := true })).rtcCause 2

/-! ### Snapshots (16 R461) -/

/-- The snapshot registers of a calendar. -/
def State.snapTake (s : State) (m : Master) : State :=
  let r := s.rtc
  s.upMregs m (fun q => { q with
    snapDone := true, snapValid := r.valid, snapDate := r.date
    snapTime := w32 (r.time.toNat + 0x1000000 * r.cal.weekday), snapSub := w32 r.sub })

/-! ### Parked (16 R470, R471, 18 R504) -/

/-- The key of the system record with the power-cycle count and the operating time (16 R474). -/
def keyPower : Nat := 2 ^ 24

/-- The key of the stored role (00 R1). -/
def keyRole : Nat := 2 ^ 24 + 1

/-- The value of the power-cycle record. -/
def State.powerRecord (s : State) : List Byte := leBytes 4 s.rtc.pwrCycles ++ leBytes 6 s.otMs

/-- The operating time is kept as the powered period ends (16 R474, 19 R515 step 5), and is that of the departure of a unit that is ACTIVE (07 R231). -/
def State.keepTime (s : State) : State :=
  let n := s.otMs
  (s.upCsw (fun c => if c.role = .active then { c with sinceActive := n } else c)).upRtc (fun r => { r with opMs := n })

/-- A Parked request: none when it is refused. -/
def State.parkRequest (s : State) : Option State × State :=
  if s.csw.role = .active ∧ s.csw.partnerSeen ∧ (s.csw.partnerRole = 2 ∨ s.csw.partnerRole = 3) then (none, s.modeRefuse 1)
  else if s.fw.load.isSome then (none, s.modeRefuse 2)
  else if 0 < s.pwr.parkReq ∨ !s.pwr.started then (some s, s)
  else
    let s := s.upDict (fun d => { d with parked := true })
    let s := s.upPwr (fun p => { p with parkReq := if s.executes && s.clk.running then 1 else 4 })
    (some s, s)

/-- A value is written to its system record within one step (16 R470 step 6). -/
def State.storeNow (s : State) (key : Nat) (v : List Byte) : State :=
  let j := s.nvp.recordJob (Config.systemRecord key % 768) (Config.systemData s.free)
  ((s.upNvp (fun n => n.setPage j.page (Page.blank.put 0 j.data))).useFree).storeValue key v |>.1

/-- May the last steps of a Parked entry run? The milestone is durable and no page step is in progress. -/
def State.parkReady (s : State) : Bool :=
  decide (s.pwr.parkReq = 4) && s.nvp.step.isNone && (!s.governs || decide (s.pwr.role ≠ .controller) || decide (s.sto.msDurable = s.sto.msCount))

/-- Every field output is off until the next output release. -/
def State.outputsOff (s : State) : State := (s.upFio (fun f => { f with released := false })).redrive

/-- A CAN port that is off: no frame, no bus, its transceiver in low power (10 R316). -/
def Can.off (c : Can) : Can := { c with offBus := true, idle := false, current := none, xcvr := false }

/-- Steps 5 to 8: outputs off, waymarks disarmed, records written, domains off, and the commit edge. -/
def State.parkCommit (s : State) : State :=
  let s := s.outputsOff.upWdg (fun w => { w with slots := w.slots.map (fun x => { x with armed := false, warned := false }) })
  let s := s.storeNow keyPower s.powerRecord
  let s := s.keepTime
  let hits := s.wakeHits
  let s := s.upCan (fun ps => ps.map Can.off)
  let s := (s.metDown.upHost (fun h => { h with ready := false })).upClk (fun c => { c with running := false, now := 0 })
  let s := s.upPwr (fun p => { p with parkReq := 0, started := false, stopped := false, state := .parked, domains := 0x001#12 })
  if hits ≠ 0 then
    (s.upRtc (fun r => { r with abortSrc := hits })).upPwr (fun p => { p with state := .run, domains := 0x003#12, ref := .abort })
  else s

/-! ### RTC registers (16 R475, R476) -/

/-- RTC_STATUS. -/
def Rtc.status (r : Rtc) : Word :=
  w32 (bit r.valid + 2 * bit r.wrap + 4 * bit r.badset + 8 * bit r.setBusy.isSome + 16 * bit (decide (r.shift ≠ 0)) + 32 * bit r.oscStop)

/-- A read of an RTC register. -/
def State.rtcRead (s : State) (m : Master) (off : Nat) (priv : Bool) : Word :=
  let r := s.rtc
  let q := s.mregs m
  if off = 0x000 then r.status
  else if off = 0x004 then r.cause
  else if off = 0x008 then r.causeEn
  else if off = 0x00C then w32 (2 * bit q.snapDone + 4 * bit q.snapValid)
  else if off = 0x010 then q.snapDate
  else if off = 0x014 then q.snapTime
  else if off = 0x018 then q.snapSub
  else if off = 0x020 then privRead priv q.setDate
  else if off = 0x024 then privRead priv q.setTime
  else if off = 0x028 then privRead priv q.setSub
  else if off = 0x030 then privRead priv (w32 (r.trimNext.getD r.trim))
  else if off = 0x034 then privRead priv (i32 r.shift &&& 0xFFFF#32)
  else if off = 0x038 then privRead priv r.alarmDate
  else if off = 0x03C then privRead priv r.alarmTime
  else if off = 0x040 then privRead priv (w32 r.interval)
  else if off = 0x044 then privRead priv (w32 s.wakeEnabled.toNat)
  else if off = 0x048 then w32 r.wakePend.toNat
  else if off = 0x04C then w32 (r.wakeSrc.toNat + 256 * r.abortSrc.toNat)
  else if off = 0x050 then w32 r.pwrCycles
  else 0

/-- A periodic wake set: its ticks count from the write (16 R467). -/
def State.setInterval (s : State) (n : Nat) : State := s.upRtc (fun r => { r with interval := n, ticks := 0 })

/-- A new trim step, in effect from the next tick (16 R465). -/
def State.setTrim (s : State) (n : Nat) : State := s.upRtc (fun r => { r with trimNext := some n })

/-- A write to an RTC register. -/
def State.rtcWrite (s : State) (m : Master) (off : Nat) (v : Word) (priv : Bool) : WriteAns :=
  let busy := s.rtc.setBusy.isSome
  if off = 0x004 then .done (s.upRtc (fun r => { r with cause := w1c r.cause v }))
  else if off = 0x008 then .done (s.upRtc (fun r => { r with causeEn := v &&& 0x3F }))
  else if off = 0x00C then .done (if v.getLsbD 0 then s.snapTake m else s)
  else if off = 0x020 then needPriv priv (needOpen (!busy) (.done (s.upMregs m (fun q => { q with setDate := v }))))
  else if off = 0x024 then needPriv priv (needOpen (!busy) (.done (s.upMregs m (fun q => { q with setTime := v }))))
  else if off = 0x028 then needPriv priv (needOpen (!busy) (.done (s.upMregs m (fun q => { q with setSub := v &&& 0x7FFF }))))
  else if off = 0x02C then
    needPriv priv (if v.getLsbD 0 then
      needOpen (!busy) (.done (s.setGo (s.mregs m).setDate (s.mregs m).setTime (s.mregs m).setSub.toNat))
    else .done s)
  else if off = 0x030 then needPriv priv (.done (s.setTrim (wfield v 5 0)))
  else if off = 0x034 then
    let n := wfield v 15 0
    needPriv priv (needOpen (decide (s.rtc.shift = 0)) (needLegal (decide (n ≠ 0x8000))
      (.done (s.upRtc (fun r => { r with shift := if n < 0x8000 then (n : Int) else (n : Int) - 65536, shiftTicks := 0 })))))
  else if off = 0x038 then needPriv priv (needLegal (bcdOk 8 v.toNat) (.done (s.upRtc (fun r => { r with alarmDate := v }))))
  else if off = 0x03C then
    needPriv priv (needLegal (bcdOk 6 (wfield v 23 0)) (.done (s.upRtc (fun r => { r with alarmTime := v &&& 0xBFFFFFFF#32 }))))
  else if off = 0x040 then needPriv priv (needLegal (decide (wfield v 23 0 ≤ 11059200)) (.done (s.setInterval (wfield v 23 0))))
  else if off = 0x044 then needPriv priv (.done (s.upRtc (fun r => { r with wakeEn := BitVec.ofNat 6 (v.toNat % 64) &&& 0x1B#6 ||| 0x04#6 })))
  else if off = 0x048 then .done (s.upRtc (fun r => { r with wakePend := r.wakePend &&& ~~~ (BitVec.ofNat 6 (v.toNat % 64)) }))
  else .done s

/-! ### Meanings -/

/-- CALENDAR_TICK (16 R458). -/
def execCalendarTick (s : State) : Host.Outcome State Fault Refusal := commit s s.calTick

/-- PERIODIC_WAKE (16 R467): INTERVAL × 128 ticks have passed. -/
def execPeriodicWake (s : State) : Host.Outcome State Fault Refusal :=
  commit s (if s.rtc.interval ≠ 0 ∧ s.rtc.interval * 128 ≤ s.rtc.ticks then
    ((s.upRtc (fun r => { r with ticks := r.ticks - r.interval * 128 })).rtcCause 1).wakeEvent 1
  else s)

/-- OSC_STOP (16 R460). -/
def execOscStop (s : State) : Host.Outcome State Fault Refusal :=
  commit s (if s.pwr.aoRunning then (s.upRtc (fun r => { r with oscStop := true, valid := false })).rtcCause 4 else s)

/-- PARK_COMMIT_EDGE (16 R470, R471). -/
def execParkCommitEdge (s : State) : Host.Outcome State Fault Refusal := commit s (if s.parkReady then s.parkCommit else s)

/-- HOST_WAKE_PIN (16 R472). -/
def execHostWakePin (s : State) : Host.Outcome State Fault Refusal := commit s (s.wakeEvent 3)

/-- CAN_WAKE_PATTERN (16 R472, R473): only while VIN is present. -/
def execCanWakePattern (s : State) : Host.Outcome State Fault Refusal := commit s (if 4500 ≤ s.pwr.vinMv then s.wakeEvent 5 else s)

/-- Does E0 take a wake frame: in Parked on the link that bit 4 keeps, otherwise in every power state on its link as it is (16 R472, R473)? -/
def State.takesWakeFrame (s : State) : Bool :=
  if s.pwr.state = .parked then decide (4500 ≤ s.pwr.vinMv) && s.rtc.wakeEn.getLsbD 4 else s.domainOn 7 && s.net.link.getLsbD 0

/-- WAKE_FRAME_RECEIVE (16 R472, R473): a frame that arrives at E0, from its destination address on. -/
def execWakeFrameReceive (bytes : List Byte) (s : State) : Host.Outcome State Fault Refusal :=
  let key := padTo 8 ((aget s.dict.force (entryKey 0x2203 0)).getD [])
  let dst := slice bytes 0 6
  commit s (if s.takesWakeFrame ∧ (dst = ownMac ∨ dst = List.replicate 6 0xFF) ∧
      getLE bytes 12 2 = 0xB688 ∧ slice bytes 14 8 = key then s.wakeEvent 4 else s)

/-- VIN_RETURN (16 R472): VIN rises above 9 V while the always-on block runs from VBAK. -/
def execVinReturn (s : State) : Host.Outcome State Fault Refusal :=
  commit s (if s.pwr.aoRunning ∧ s.pwr.vinMv < 4500 then (s.upPwr (fun p => { p with vinMv := 9001 })).wakeEvent 2 else s)

/-- POWER_CYCLE_RECORD (16 R474): 10 minutes of powered time after the last copy. -/
def execPowerCycleRecord (t : Nat) (s : State) : Host.Outcome State Fault Refusal :=
  let s1 := s.reach t
  commit s (if s1.pwr.started ∧ s1.pwr.recordAt + 600000000000 ≤ s1.clk.now then
    (s1.upPwr (fun p => { p with recordAt := s1.clk.now })).storeSystem keyPower s1.powerRecord none else s1)

/-- VIN_LOW (16 R469): SYS_POWER_CAUSE.VIN_LOW at a crossing that finds the module in Run. -/
def execVinLow (s : State) : Host.Outcome State Fault Refusal :=
  commit s (if s.pwr.state ≠ .run ∨ !s.pwr.started then s else (s.upPwr (fun p => { p with vinLow := true, vinMv := min p.vinMv 8999 })).powerCause 0)

end Sys2Proof.Machine
end

