-- ==== Sys2Proof/Machine/Dict.lean ====
section
/-! DEFINITION. What the entries of the object dictionary read as: live values, stored values and defaults, and the codes of DESCRIBE (11 R321 to R329, R350, and the entry tables of each chapter). -/

set_option Elab.async false

namespace Sys2Proof.Machine

open Sys2Proof

/-! ### Text and codes -/

/-- A character code of a decimal or hexadecimal digit. -/
def digitChar (n : Nat) : Byte := BitVec.ofNat 8 (if n < 10 then 48 + n else 55 + n)

/-- A number below 1,000 as decimal text without leading zeros. -/
def decText (n : Nat) : List Byte :=
  if n < 10 then [digitChar n]
  else if n < 100 then [digitChar (n / 10), digitChar (n % 10)]
  else [digitChar (n / 100 % 10), digitChar (n / 10 % 10), digitChar (n % 10)]

/-- Eight upper-case hexadecimal digits. -/
def hexText (n : Nat) : List Byte := (List.range 8).map (fun i => digitChar (n / 16 ^ (7 - i) % 16))

/-- A STRING value. -/
def strVal (l : List Byte) : List Byte := leBytes 1 l.length ++ l

/-- The number of an access right for its code (log 6). -/
def Right.num : Right → Nat
  | .ro => 0
  | .rw => 1
  | .wo => 2
  | .priv => 3
  | .sealed => 4

/-! ### Values that the module keeps itself -/

/-- VERSION of the active bank (15 R451). -/
def Fw.version (f : Fw) : Nat :=
  match f.active with
  | some k => (f.bank k).version
  | none => 0

/-- SLOT_STATE (09 R296; log 40). -/
def State.slotState (s : State) (i : Nat) : Nat :=
  let x := s.slot i
  if s.slotNode i = 0xFFFF then 0
  else if x.rejoin then (if s.slotCfg i 11 0 = 1 ∧ !x.acked then 4 else 3)
  else if x.stale then 2
  else 1

/-- CHANNEL_DIAG (08 R267). -/
def State.chanDiag (s : State) (c : Nat) : Nat :=
  let x := s.chan c
  bit x.openLoad + 2 * bit x.ovld + 4 * bit (decide (x.mode = 3) && s.chanSafe s.safeRanges c) + 8 * bit x.quality

/-- TASK_STATE (02 R83). -/
def State.taskState (s : State) (t : Nat) : Nat :=
  let x := s.task t
  if (s.row t).isNone then 0
  else if x.faulted then 4
  else if x.overrunNow then 3
  else if x.run.isSome then 2
  else 1

/-- LANE_SET (03 R117): carriageways that are powered and run tasks under the table in force. -/
def State.laneSet (s : State) : Nat :=
  match s.ldr.img with
  | none => 0
  | some i =>
    if !s.executes then 0
    else
      let m := i.mask (i.table s.sto.tableReduced)
      (List.range 4).foldl (fun n j => n + 2 ^ j * bit (m.testBit j && s.domainOn (2 + j))) 0

/-- NVP_STATE (15 R457). -/
def Nvp.code (n : Nvp) : Nat := if n.worn then 2 else if n.ready then 0 else 1

/-- One sub-index of a task (02 R83, 03 R117). -/
def State.taskEntry (s : State) (t sub : Nat) : Option Nat :=
  let x := s.task t
  let r := s.row t
  if sub = 1 then some ((r.map (·.period)).getD 0)
  else if sub = 2 then some ((r.map (·.phase)).getD 0)
  else if sub = 3 then some x.overrun
  else if sub = 4 then some x.late
  else if sub = 5 then some (s.taskState t)
  else if sub = 6 then some (min 0xFFFFFFFF x.lastRunTime)
  else if sub = 7 then some (x.lastRel % 2 ^ 32)
  else if sub = 8 then some ((r.map (·.policy)).getD 0)
  else if sub = 9 then some x.faultCause
  else if sub = 10 then some x.faultBundle
  else none

/-- A publication map as entry 0x4040 reads it (11 R327). -/
def State.mapBytes (s : State) : List Byte :=
  if s.dict.pubMap.isEmpty then []
  else padTo 32 s.ldr.digest ++ leBytes 4 s.dict.pubMap.length ++ zeros 12 ++
    s.dict.pubMap.flatMap (fun x =>
      leBytes 2 x.index ++ leBytes 1 x.sub ++ leBytes 1 x.type ++ leBytes 1 (bit x.writable) ++ zeros 3 ++ leBytes 4 x.addr ++ leBytes 4 x.len)

/-- Entries of 0x1000 to 0x2FFF that report a number. -/
def State.liveLow (s : State) (i sub : Nat) : Option Nat :=
  if i = 0x1010 ∧ sub = 2 then some s.dict.fuses.toNat
  else if i = 0x1018 then some (if sub = 1 then s.host.vendor else if sub = 2 then bit s.host.code else s.host.serial)
  else if i = 0x1021 then some s.dict.sessions.length
  else if i = 0x1022 then some s.dict.busyCount
  else if i = 0x1023 then some s.dict.authFail
  else if i = 0x1032 then some s.fw.result
  else if 0x1400 ≤ i ∧ i < 0x1500 ∧ sub = 13 then some (s.slotState (i - 0x1400))
  else if i = 0x2030 then
    some (if sub = 1 then (s.pwr.temp % 256).toNat else if sub = 2 then bit s.pwr.overTemp else s.pwr.thermalStops)
  else if i = 0x2102 then some s.nvp.code
  else if i = 0x2103 then some s.nvp.spares
  else if i = 0x2104 then some s.nvp.tornCount
  else if i = 0x2205 then some s.rtc.cal.ms
  else if i = 0x2206 then some (bit s.rtc.valid)
  else if i = 0x2207 then some s.rtc.pwrCycles
  else if 0x2800 ≤ i ∧ i < 0x2808 ∧ sub = 15 then some (s.canPort (i - 0x2800)).segErr
  else if 0x2900 ≤ i ∧ i < 0x2B00 ∧ sub = 5 then some (((s.canPort ((i - 0x2900) / 64)).buf ((i - 0x2900) % 64)).stat).toNat
  else none

/-- Entries of 0x3000 to 0x6FFF that report a number. -/
def State.liveHigh (s : State) (i sub : Nat) : Option Nat :=
  if 0x3000 ≤ i ∧ i < 0x3200 ∧ sub = 5 then some (s.chanDiag (i - 0x3000))
  else if 0x3400 ≤ i ∧ i < 0x3408 ∧ 4 ≤ sub then
    let g := s.group (i - 0x3400)
    some (if sub = 4 then min 0xFFFF g.mv else if sub = 5 then g.ma else g.status)
  else if i = 0x4010 then some s.sto.msCount
  else if i = 0x4011 then some s.clk.powered
  else if i = 0x4012 then some s.sto.mergeCount
  else if i = 0x4013 then some s.sto.refusals
  else if i = 0x4014 then some s.sto.msDurable
  else if i = 0x4020 then some ((s.ldr.img.map (fun x => bit x.single)).getD 0)
  else if i = 0x4021 then some s.laneSet
  else if i = 0x4032 then some s.ldr.state
  else if i = 0x4036 then some ((s.ldr.img.map (·.minSet)).getD 0)
  else if i = 0x4037 then some s.sto.switchSkips
  else if i = 0x4038 then some (bit s.sto.tableReduced)
  else if 0x4100 ≤ i ∧ i < 0x4120 then s.taskEntry (i - 0x4100) sub
  else if i = 0x5002 then some s.evr.held.length
  else if i = 0x5010 then some s.wdg.resets
  else if i = 0x6010 then some s.csw.role.code
  else if i = 0x6011 then some s.csw.term
  else if i = 0x6012 then some s.sinceActiveMs
  else if i = 0x6013 then some s.csw.takeovers
  else if i = 0x6030 then some s.csw.missed
  else none

/-- Entries that report a string of bytes; `log` is the event log as a transfer in progress holds it. -/
def State.liveBytes (s : State) (i : Nat) (log : List Byte) : Option (List Byte) :=
  if i = 0x1009 then some (strVal (decText s.host.hwRev))
  else if i = 0x100A then some (strVal (hexText s.fw.version))
  else if i = 0x1033 then some (leBytes 1 (s.fw.status 0) ++ leBytes 1 (s.fw.status 1) ++ zeros 2 ++ leBytes 4 s.fw.version)
  else if i = 0x2010 then some (padTo 16 s.dict.modeRefusal)
  else if i = 0x2011 then some (padTo 16 s.pwr.report)
  else if i = 0x4022 then some (padTo 32 s.clu.divRec)
  else if i = 0x4033 then some (padTo 16 s.ldr.result)
  else if i = 0x4034 then some (padTo 32 s.ldr.digest)
  else if i = 0x4035 then some (padTo 32 s.ldr.stagedDigest)
  else if i = 0x4040 then some s.mapBytes
  else if i = 0x5003 then some (s.evr.drops.toList.flatMap (leBytes 4))
  else if i = 0x5005 then some log
  else if i = 0x5012 then
    some (wbytes s.wdg.cause ++ wbytes (slotBits s.wdg (·.armed)) ++ wbytes (slotBits s.wdg (·.warned)))
  else if i = 0x5304 then some log
  else if i = 0x5310 then some s.trc.load
  else if i = 0x5313 then some (padTo 64 s.trc.report)
  else if i = 0x6014 then some (padTo 16 s.csw.lastTrans)
  else if i = 0x6022 then some s.ldr.swapReport
  else none

/-- The entries of the metrology partition (17 R492). -/
def State.liveMet (s : State) (i sub size : Nat) : List Byte :=
  if i = 0x7000 then
    (if sub = 1 then wbytes s.met.swVersion else if sub = 2 then padTo 32 s.met.digest
     else if sub = 3 then leBytes 4 s.met.events else if sub = 4 then leBytes 2 s.met.audit.length else leBytes 1 (bit s.met.sealed))
  else if i = 0x7010 then s.met.audit.flatten
  else leBytes size (((s.met.entry i sub).getD 0) % (256 ^ size : Nat)).toNat

/-! ### Reads (11 R324, R326) -/

/-- Does an entry return its type's zero value: write-only entries and commands? -/
def readsZero (i : Nat) (e : Entry) : Bool :=
  decide (e.right = .wo) || decide (i = 0x1020 ∨ i = 0x2203 ∨ i = 0x1030 ∨ i = 0x4030) ||
    (decide (e.right = .priv) && decide (e.eff = .command) && decide (e.type ≠ 0x21) && decide (i ≠ 0x2205))

/-- The zero value of an entry's type. -/
def Entry.zero (e : Entry) : List Byte := if e.type = 0x21 then [] else if e.size = 0 then [0] else zeros e.size

/-- The value of an entry below 0x8000 as a read returns it. -/
def State.entryValue (s : State) (i sub : Nat) (e : Entry) (log : List Byte) : List Byte :=
  if readsZero i e then e.zero
  else if 0x7000 ≤ i then s.liveMet i sub e.size
  else
    match s.liveBytes i log with
    | some v => v
    | none =>
      match if i < 0x3000 then s.liveLow i sub else s.liveHigh i sub with
      | some n => leBytes e.size n
      | none => (aget s.dict.stored (entryKey i sub)).getD (e.dflt.getD (zeros e.size))

/-- What a request for an index and sub-index finds. -/
inductive Found where
  | refused (status : Nat)
  | entry (e : Entry)
  | published (p : PubEntry)
  deriving DecidableEq, Repr

/-- The entries that the recovery service serves (19 R522). -/
def recoveryEntry (i sub : Nat) : Bool := decide (i = 0x1010 ∧ sub = 2) || decide (0x1030 ≤ i ∧ i ≤ 0x1033) || decide (i = 0x2011)

/-- The entry that a request names (11 R321, R322, R328, 19 R522). -/
def State.find (s : State) (i sub : Nat) : Found :=
  if s.pwr.recovery && !recoveryEntry i sub then .refused stNoEntry
  else if 0xC000 ≤ i then .refused stNoEntry
  else if 0x8000 ≤ i then
    match s.published i sub with
    | some p => .published p
    | none => .refused (if s.dict.pubMap.any (fun x => decide (x.index = i)) then stNoSub else stNoEntry)
  else
    match entryAt i sub with
    | some e => .entry e
    | none => .refused (if indexKnown i then stNoSub else stNoEntry)

/-- The size of a published value as its type's encoding gives it: strings end with their length (11 R323). -/
def PubEntry.cut (p : PubEntry) (b : List Byte) : List Byte :=
  if p.type = 0x14 then b.take (1 + byteAt b 0) else if p.type = 0x15 then b.take (2 + 2 * getLE b 0 2) else b

/-- The answer to a read: its status, or TYPE, access-right code and value. -/
inductive Got where
  | refused (status info : Nat)
  | value (type : Nat) (right : Byte) (bytes : List Byte)
  deriving DecidableEq, Repr

/-- A read of one entry (11 R324, R329, 14 R425). -/
def State.getEntry (s : State) (i sub : Nat) (priv : Bool) (log : List Byte) : Got :=
  match s.find i sub with
  | .refused st => .refused st 0
  | .published p => .value p.type (Config.rightByte (if p.writable then 6 else 5)) (p.cut (s.pubBytes p))
  | .entry e =>
    if e.right = .priv ∧ !priv then .refused stAccess 0
    else if i = 0x5304 ∧ s.trc.st ≠ 2 then .refused stBusy 1000
    else .value e.type (Config.rightByte e.right.num) (s.entryValue i sub e log)

/-- The event log as it stands (13 R413). -/
def State.eventLog (s : State) : List Byte := s.evr.held.flatMap Rec.encode

/-- What entry 0x5005 or 0x5304 holds now: the records, or the items of the ring (13 R413, 14 R425). -/
def State.logNow (s : State) (i : Nat) : List Byte := if i = 0x5304 then s.trc.readable else s.eventLog

/-- The default value of an entry that takes it from the image in force, as TASK_PERIOD, TASK_PHASE, FAULT_POLICY, LANE_MODE and MIN_LANE_SET do (02 R83, 03 R117, 06 R193): the value that it reports. -/
def State.imageDefault (s : State) (i sub : Nat) : Option (List Byte) :=
  if 0x4100 ≤ i ∧ i < 0x4120 ∧ (sub = 1 ∨ sub = 2) then (s.liveHigh i sub).map (leBytes 4)
  else if (0x4100 ≤ i ∧ i < 0x4120 ∧ sub = 8) ∨ i = 0x4020 ∨ i = 0x4036 then (s.liveHigh i sub).map (leBytes 1)
  else none

/-- The payload that DESCRIBE answers: TYPE, access right, size, default (11 R331). -/
def State.describe (s : State) (i sub : Nat) : Got :=
  let k := entryKey i sub
  match s.find i sub with
  | .refused st => .refused st 0
  | .published p =>
    let r := Config.rightByte (if p.writable then 6 else 5)
    .value p.type r (leBytes 4 p.len ++ Config.defaultOf k)
  | .entry e =>
    .value e.type (Config.rightByte e.right.num)
      (leBytes 4 (if e.size = 0 then Config.sizeOf' k else e.size) ++ (e.dflt.orElse (fun _ => s.imageDefault i sub)).getD (Config.defaultOf k))

end Sys2Proof.Machine
end

