-- ==== Sys2Proof/Machine/Kivasel.lean ====
section
/-! DEFINITION. Kivasel: arrival of units, the request queue, sessions, reads and writes, edit batches, transports and fuses (11 R330 to R349). -/

set_option Elab.async false

namespace Sys2Proof.Machine

open Sys2Proof

/-! ### Units (11 R330, R331) -/

/-- OP of a unit. -/
def uOp (u : List Byte) : Nat := byteAt u 1
@[inherit_doc uOp] def uSession (u : List Byte) : Nat := getLE u 2 2
@[inherit_doc uOp] def uTag (u : List Byte) : Nat := getLE u 4 4
@[inherit_doc uOp] def uBody (u : List Byte) : List Byte := u.drop 16

/-- The index and sub-index of an item. -/
def itemIndex (b : List Byte) : Nat := getLE b 0 2
@[inherit_doc itemIndex] def itemSub (b : List Byte) : Nat := byteAt b 2

/-- Are the items of a BATCH_ADD whole? -/
def addItemsOk : Nat → List Byte → Bool
  | 0, b => b.isEmpty
  | n + 1, b =>
    b.isEmpty ||
      (let k := 8 + (getLE b 4 4 + 3) / 4 * 4
       decide (8 ≤ b.length) && decide (byteAt b 3 = 0) && decide (k ≤ b.length) && addItemsOk n (b.drop k))

/-- The payload of a request has the form of its operation; false for an unknown one. -/
def bodyOk (op : Nat) (b : List Byte) : Bool :=
  let n := b.length
  if op = 0x01 then decide (n = 8) && allZero (b.drop 4)
  else if op = 0x02 ∨ op = 0x03 then decide (n = 0)
  else if op = 0x04 then decide (n = 32)
  else if op = 0x10 then decide (n = 12) && decide (byteAt b 3 = 0)
  else if op = 0x11 then decide (n % 4 = 0 ∧ 4 ≤ n ∧ n ≤ 256) && (List.range (n / 4)).all (fun i => decide (byteAt b (4 * i + 3) = 0))
  else if op = 0x12 then decide (n = 4) && decide (byteAt b 3 = 0)
  else if op = 0x20 then decide (12 ≤ n) && decide (byteAt b 3 = 0)
  else if op = 0x30 ∨ op = 0x32 ∨ op = 0x33 ∨ op = 0x34 then decide (n = 4)
  else if op = 0x31 then decide (0 < n) && addItemsOk n b
  else false

/-- A unit within R330. -/
def unitOk (c : KChan) (u : List Byte) : Bool :=
  decide (byteAt u 0 = 1) && decide (getLE u 10 2 = u.length - 16) && decide (u.length ≤ 1040) && allZero (slice u 8 2) &&
    allZero (slice u 12 4) && (!(decide (uOp u = 0x01) || decide (c = .odx)) || decide (uSession u = 0)) && bodyOk (uOp u) (uBody u)

/-- The answer to a unit; `id` is the session it names. -/
def State.replyAs (s : State) (c : KChan) (u : List Byte) (id status info : Nat) (payload : List Byte) : State :=
  s.kvSend c (kvUnit (uOp u + 0x80) id (uTag u) status info payload)

@[inherit_doc State.replyAs] def State.reply (s : State) (c : KChan) (u : List Byte) (status info : Nat) (payload : List Byte) : State :=
  s.replyAs c u (uSession u) status info payload

/-! ### The queue (11 R336, R337, R343) -/

/-- Does a write wait for its system record (11 R325)? -/
def State.kvStoring (s : State) : Bool :=
  s.nvp.cmds.any (fun c => c.reply.isSome) ||
    (match s.nvp.step with
     | some p => (p.cmd.bind (·.reply)).isSome
     | none => false)

/-- Is a response being sent over port `n`: segments are left, and the port is one that sends (11 R343)? -/
def State.kvSending (s : State) (n : Nat) : Bool :=
  let c := s.canPort n
  (!c.kvOut.isEmpty || !(c.buf 63).queue.isEmpty) && c.listens && !s.romActive n

/-- Must the request at the head of the queue wait: for the answer of the write before it, for that of its own session's firmware segment, or for the sending of the previous response over its CAN port? -/
def State.kvWaits (s : State) (c : KChan) (u : List Byte) : Bool :=
  s.kvStoring ||
    (match s.fw.load.bind (·.reply) with
     | some r => decide (r.session = uSession u)
     | none => false) ||
    (match c with
     | .can n => s.kvSending n
     | _ => false)

/-- Units at the head that break R330 are answered MALFORMED. -/
def State.kvAuto (s : State) : Nat → State
  | 0 => s
  | n + 1 =>
    match s.dict.queue with
    | [] => s
    | x :: rest =>
      if unitOk x.1 x.2 || s.kvWaits x.1 x.2 then s
      else ((s.upDict (fun d => { d with queue := rest })).reply x.1 x.2 stMalformed 0 []).kvAuto n

/-- A BUSY answer at arrival. -/
def State.kvRefuse (s : State) (c : KChan) (u : List Byte) (info : Nat) : State := s.reply c u stBusy info []

/-- A unit arrives on a channel. -/
def State.kvArrive (s : State) (c : KChan) (u : List Byte) : State :=
  if !s.domainOn 1 then s
  else if s.pwr.recovery ∧ c ≠ .odx ∧ c ≠ .s1 then s
  else if u.length < 16 then s
  else if s.dict.parked then (s.kvRefuse c u ((Config.openAnswer s.free).2 % 2 ^ 32)).useFree
  else if 64 ≤ s.dict.queue.length then
    (s.upDict (fun d => { d with busyCount := sat32 d.busyCount })).kvRefuse c u 1
  else (s.upDict (fun d => { d with queue := d.queue ++ [(c, u)] })).kvAuto 65

/-- The request at the head of the queue is served by `k` when it satisfies `want`; each further unit that breaks R330 is answered. -/
def State.kvTake (s : State) (t : Nat) (want : List Byte → Bool) (k : KChan → List Byte → State → State) : State :=
  let s := (s.reach t).kvAuto 65
  match s.dict.queue with
  | [] => s
  | x :: rest =>
    if want x.2 && unitOk x.1 x.2 && !s.kvWaits x.1 x.2 then (k x.1 x.2 (s.upDict (fun d => { d with queue := rest }))).kvAuto 65 else s

/-! ### Sessions (11 R333 to R335) -/

/-- Is a session privileged? That of the window is so while the HOST master is. -/
def State.isPriv (s : State) (x : Session) : Bool := if x.id = 0 then s.host.priv else x.priv

/-- A session updated. -/
def State.upSession (s : State) (id : Nat) (k : Session → Session) : State :=
  s.upDict (fun d =>
    if id = 0 then { d with session0 := k d.session0 }
    else { d with sessions := d.sessions.map (fun x => if x.id = id then k x else x) })

/-- A session closes; its open batch goes with it. -/
def State.closeSession (s : State) (id : Nat) : State :=
  s.upDict (fun d => { d with sessions := d.sessions.filter (fun x => decide (x.id ≠ id)), volatile := adel (adel d.volatile id) (logKey 0x5304 id) })

/-- Channels that fuse 2 concerns. -/
def netChan (c : KChan) : Bool :=
  match c with
  | .udp _ _ => true
  | .can _ => true
  | _ => false

/-- Requests that fuse 2 ends. -/
def fusedOp (op : Nat) : Bool := decide (op = 0x04 ∨ op = 0x20 ∨ (0x30 ≤ op ∧ op ≤ 0x34))

/-- Operations that the recovery service accepts (19 R522). -/
def recoveryOp (op : Nat) : Bool := decide ((1 ≤ op ∧ op ≤ 4) ∨ op = 0x10 ∨ op = 0x20)

/-- The session that a request names on its channel (11 R333, R335). -/
def State.sessionOf (s : State) (c : KChan) (u : List Byte) : Option Session :=
  if c = .odx then some s.dict.session0 else if uSession u = 0 then none else s.dict.session (uSession u)

/-- A request of a session is served: its 60 s start again (11 R333), then fuse 2, the recovery service and the session are looked at. -/
def State.inSession (s : State) (c : KChan) (u : List Byte) (k : Session → State → State) : State :=
  let who := s.sessionOf c u
  let s := match who with
    | some x => s.upSession x.id (fun y => { y with used := s.clk.now })
    | none => s
  if s.dict.fuses.getLsbD 2 && netChan c && fusedOp (uOp u) then (s.modeRefuse 13).reply c u stFused 2 []
  else if s.pwr.recovery && !recoveryOp (uOp u) then s.reply c u stNoEntry 0 []
  else
    match who with
    | none => s.reply c u stNoSession 0 []
    | some x => k { x with used := s.clk.now } s

/-- The payload of OPEN. -/
def State.openPayload (s : State) (client : Nat) (priv : Bool) : List Byte :=
  leBytes 2 s.node ++ leBytes 1 s.csw.role.code ++ leBytes 1 (bit priv) ++ leBytes 4 (s.sto.expected client)

/-- A session number that is not in use. -/
def State.freshSession (s : State) : Nat :=
  let at0 := Config.sessionSeed s.free
  let cand (k : Nat) : Nat := (at0 + k) % 0xFFFE + 1
  match (List.range 33).find? (fun k => !s.dict.sessions.any (fun x => decide (x.id = cand k))) with
  | some k => cand k
  | none => 1

/-- OPEN. -/
def State.kvOpen (s : State) (c : KChan) (u : List Byte) : State :=
  let client := getLE (uBody u) 0 4
  if c = .odx then s.reply c u stOk 0 (s.openPayload 0 s.host.priv)
  else if client = 0 then s.reply c u stRange 0 []
  else
    let s := match s.dict.sessions.find? (fun x => decide (x.client = client)) with
      | some x => s.closeSession x.id
      | none => s
    if 32 ≤ s.dict.sessions.length then s.reply c u stBusy 1000 []
    else
      let id := s.freshSession
      let x : Session := ⟨id, client, c, false, none, s.clk.now, none, 0⟩
      (s.useFree.upDict (fun d => { d with sessions := d.sessions ++ [x] })).replyAs c u id stOk 0 (s.openPayload client false)

/-- CLOSE. -/
def State.kvClose (s : State) (c : KChan) (u : List Byte) : State :=
  s.inSession c u (fun x s => (if x.id = 0 then s else s.closeSession x.id).reply c u stOk 0 [])

/-- A channel as the lockout of R334 knows it: all of UDP is one. -/
def lockChan (c : KChan) : KChan :=
  match c with
  | .udp _ _ => .udp 0 0
  | x => x

/-- A fresh nonce of 16 bytes. -/
def freshNonce (use : Nat) : List Byte := (List.range 16).map (Config.nonceByte use)

/-- CHALLENGE. -/
def State.kvChallenge (s : State) (c : KChan) (u : List Byte) : State :=
  s.inSession c u (fun x s =>
    if c = .odx then s.reply c u stAccess 0 []
    else if s.dict.lockedOut.contains (lockChan c) then (s.reply c u stBusy ((Config.openAnswer s.free).2 % 2 ^ 32) []).useFree
    else
      let n := freshNonce s.free
      (s.useFree.upSession x.id (fun y => { y with nonce := some n })).reply c u stOk 0 n)

/-- The access key in force (11 R350). -/
def State.accessKey (s : State) : List Byte := padTo 32 ((aget s.dict.force (entryKey 0x1020 0)).getD [])

/-- Does a proof open privilege (11 R334)? -/
def State.proofOk (s : State) (c : KChan) (x : Session) (proof : List Byte) : Bool :=
  if allZero s.accessKey then decide (c = .s1)
  else
    match x.nonce with
    | some n => decide (proof = hmac s.accessKey (n ++ leBytes 2 x.id))
    | none => false

/-- A failed proof counts and is recorded. -/
def State.authFailed (s : State) (code : Nat) : State :=
  (s.upDict (fun d => { d with authFail := sat32 d.authFail })).occur code 0 []

/-- LOGIN. -/
def State.kvLogin (s : State) (c : KChan) (u : List Byte) : State :=
  s.inSession c u (fun x s =>
    if c = .odx then s.reply c u stAccess 0 []
    else
      let s := s.upSession x.id (fun y => { y with nonce := none })
      if s.proofOk c x (uBody u) then (s.upSession x.id (fun y => { y with priv := true })).reply c u stOk 0 []
      else
        ((s.authFailed 0x3002).upDict (fun d => { d with
          lockedOut := if d.lockedOut.contains (lockChan c) then d.lockedOut else d.lockedOut ++ [lockChan c] })).reply c u stAuth 0 [])

/-! ### Reads (11 R331) -/

/-- The event log or the ring that a session's transfer reads: as latched by its first segment (13 R413, 14 R425). -/
def State.logFor (s : State) (i id : Nat) : List Byte := (aget s.dict.volatile (logKey i id)).getD (s.logNow i)

/-- Does a READ begin a transfer of the event log or of the frozen ring? -/
def State.latchesLog (s : State) (i off : Nat) : Bool := decide (off = 0) && (decide (i = 0x5005) || (decide (i = 0x5304) && decide (s.trc.st = 2)))

/-- The errors that the read of an entry's bytes finds: those of the records for entry 0x5005, of the trace DRAM for 0x5304 (01 R16, R17). -/
def State.entryReads (s : State) (i : Nat) (l : List Ecc) : State :=
  if i = 0x5005 then s.recorderReads l
  else if i = 0x5304 then s.ringReads l s.trc.lost (s.trc.lost + s.trc.readable.length)
  else s

/-- READ: TYPE, access right, TOTAL and bytes from OFFSET, as many as a unit takes; `ecc` are the errors that it finds. -/
def State.kvRead (s : State) (c : KChan) (u : List Byte) (ecc : List Ecc) : State :=
  s.inSession c u (fun x s =>
    let b := uBody u
    let i := itemIndex b
    let off := getLE b 4 4
    let s := s.entryReads i ecc
    let s := if s.latchesLog i off then s.upDict (fun d => { d with volatile := aput (logKey i x.id) (s.logNow i) d.volatile }) else s
    match s.getEntry i (itemSub b) (s.isPriv x) (s.logFor i x.id) with
    | .refused st info => s.reply c u st info []
    | .value ty r v =>
      s.reply c u stOk 0 (leBytes 1 ty ++ [r] ++ zeros 2 ++ leBytes 4 v.length ++ slice v off (min 1016 (getLE b 8 4))))

/-- One item of READ_MULTI. -/
def Got.item (g : Got) : List Byte :=
  match g with
  | .refused st _ => leBytes 2 st ++ leBytes 2 0
  | .value _ _ v => leBytes 2 stOk ++ leBytes 2 v.length ++ padTo ((v.length + 3) / 4 * 4) v

/-- READ_MULTI; an answer above 1,024 bytes is refused. Entry 0x5005 gives every record held, whatever transfer of it is in progress (13 R413). -/
def State.kvReadMulti (s : State) (c : KChan) (u : List Byte) (ecc : List Ecc) : State :=
  s.inSession c u (fun x s =>
    let b := uBody u
    let s := (List.range (b.length / 4)).foldl (fun acc k => acc.entryReads (getLE b (4 * k) 2) ecc) s
    let out := (List.range (b.length / 4)).flatMap (fun k =>
      (s.getEntry (getLE b (4 * k) 2) (byteAt b (4 * k + 2)) (s.isPriv x) (s.logNow (getLE b (4 * k) 2))).item)
    if 1024 < out.length then s.reply c u stTooLarge 1024 [] else s.reply c u stOk 0 out)

/-- DESCRIBE; a default that does not fit a unit is refused. -/
def State.kvDescribe (s : State) (c : KChan) (u : List Byte) : State :=
  s.inSession c u (fun _ s =>
    match s.describe (itemIndex (uBody u)) (itemSub (uBody u)) with
    | .refused st info => s.reply c u st info []
    | .value ty r v => if 1020 < v.length then s.reply c u stTooLarge 1024 [] else s.reply c u stOk 0 (leBytes 1 ty ++ [r] ++ zeros 2 ++ v))

/-! ### Writes (11 R324, R325, R331) -/

/-- A command entry carried out with a value in range; the answers that the spec leaves open are free. -/
def State.commandLow (s : State) (c : KChan) (i v : Nat) : Ans :=
  if i = 0x1010 then
    if netChan c then s.no stAccess 0
    else if v < 0xA5A50000 ∨ 0xA5A50003 < v then s.no stRange 0
    else
      let f := v - 0xA5A50000
      if s.dict.fuses.getLsbD f || s.dict.blowing.contains f then s.ok
      else (s.upDict (fun d => { d with blowing := d.blowing ++ [f] })).ok
  else if i = 0x1011 then ⟨stOk, 1, s.upDict (fun d => { d with restoreDef := true })⟩
  else if i = 0x1031 then s.fwAbandon.ok
  else if 0x1400 ≤ i ∧ i < 0x1500 then (s.upSlot (i - 0x1400) (fun x => if x.rejoin then { x with acked := true } else x)).ok
  else if i = 0x2201 then
    match s.parkRequest with
    | (some t, _) => t.ok
    | (none, t) => t.useFree.no (1 + (Config.openAnswer s.free).1 % 16) ((Config.openAnswer s.free).2 % 2 ^ 32)
  else if i = 0x2205 then
    if s.rtc.setBusy.isSome then s.useFree.no (1 + (Config.openAnswer s.free).1 % 16) ((Config.openAnswer s.free).2 % 2 ^ 32)
    else (s.setGo (Cal.ofMs v).date (Cal.ofMs v).time (Cal.ofMs v).sub).ok
  else s.ok

@[inherit_doc State.commandLow] def State.commandHigh (s : State) (i v : Nat) : Ans :=
  if 0x3400 ≤ i ∧ i < 0x3408 then (s.ackGroups (2 ^ (i - 0x3400))).ok
  else if i = 0x4031 then s.loadCmd v
  else if 0x4100 ≤ i ∧ i < 0x4120 then (s.clearFault (i - 0x4100)).ok
  else if i = 0x5004 then (s.startClear 5).ok
  else if i = 0x5011 then s.clearResets.ok
  else if i = 0x5303 then (if v = 1 then s.freezeReq else if v = 2 then s.unfreeze else s.requestAnchor).ok
  else if i = 0x5311 then (if v = 1 then s.startReplay else if v = 2 then s.stopReplay else s.discardReplay).ok
  else if i = 0x6020 then (s.switchCmd v s.clk.now).ok
  else s.ok

/-- An answer leaves with the state that its effect left. -/
def Ans.send (a : Ans) (c : KChan) (u : List Byte) : State := a.state.reply c u a.status a.info []

/-- A segment of a DOMAIN entry. -/
def State.writeDomain (s : State) (c : KChan) (u : List Byte) (i off : Nat) (data : List Byte) (last : Bool) : State :=
  if i = 0x1030 then
    match s.fwSegment off data last (some ⟨c, uSession u, uTag u⟩) with
    | (t, none) => t
    | (t, some st) => t.reply c u st (if st = stBusy then 1000 else 0) []
  else if i = 0x4030 then (s.imageSegment off data last).send c u
  else if i = 0x4040 then (s.mapSegment off data last).send c u
  else if i = 0x5310 then (s.replaySegment off data last).send c u
  else s.reply c u stAccess 0 []

/-- A whole value of an entry that may be written. -/
def State.writeValue (s : State) (c : KChan) (u : List Byte) (e : Entry) (i sub : Nat) (v : List Byte) : State :=
  match s.valueRefusal e i sub v with
  | some a => a.send c u
  | none =>
    if e.eff = .command then (if i < 0x3000 then s.commandLow c i (leNat v) else s.commandHigh i (leNat v)).send c u
    else s.storeSystem (entryKey i sub) v (some ⟨c, uSession u, uTag u⟩)

/-- WRITE. The answer to one of a value of fixed size that does not carry OFFSET 0 and LAST 1 is open; it writes nothing (11 R331; log 38). -/
def State.kvWrite (s : State) (c : KChan) (u : List Byte) : State :=
  s.inSession c u (fun x s =>
    let b := uBody u
    let i := itemIndex b
    let sub := itemSub b
    let off := getLE b 4 4
    let last := (byteAt b 8).testBit 0
    let data := b.drop 12
    if 0x8000 ≤ i ∧ i < 0xC000 ∧ !s.pwr.recovery then s.reply c u stAccess 0 []
    else
      match s.find i sub with
      | .refused st => s.reply c u st 0 []
      | .published _ => s.reply c u stAccess 0 []
      | .entry e =>
        if e.right = .sealed then s.reply c u stSealed 0 []
        else if e.right = .ro ∨ (e.right = .priv ∧ !s.isPriv x) then s.reply c u stAccess 0 []
        else if e.type = 0x21 then s.writeDomain c u i off data last
        else if off ≠ 0 ∨ !last then
          (s.reply c u (1 + (Config.openAnswer s.free).1 % 16) ((Config.openAnswer s.free).2 % 2 ^ 32) []).useFree
        else s.writeValue c u e i sub data)

/-- A WRITE whose entry satisfies a condition. -/
def isWrite (f : Nat → Nat → Bool) (u : List Byte) : Bool := decide (uOp u = 0x20) && f (itemIndex (uBody u)) (itemSub (uBody u))

/-! ### Edit batches (02 R76, R82, 11 R338 to R341) -/

/-- Does the unit accept edit batches (02 R82, 14 R429)? -/
def State.takesBatches (s : State) : Bool := s.governs && decide (s.pwr.role = .controller)

/-- A batch unit in a role that accepts none. -/
def State.needRole (s : State) (c : KChan) (u : List Byte) (k : State) : State :=
  if s.takesBatches then k else (s.modeRefuse 9).reply c u stRole s.csw.role.code []

/-- BATCH_OPEN by the rows of R339. -/
def State.kvBatchOpen (s : State) (c : KChan) (u : List Byte) : State :=
  s.inSession c u (fun x s => s.needRole c u (
    let id := getLE (uBody u) 0 4
    let s := s.upSession x.id (fun y => { y with batch := none })
    let want := s.sto.expected x.client
    let past := match s.sto.lastApplied x.client with
      | some l => atOrBelow id l
      | none => false
    if id = 0 then s.reply c u stOrder want []
    else if past then s.reply c u stApplied 0 []
    else if ((s.sto.lastApplied x.client).isSome ∨ (s.sto.lastAccepted x.client).isSome) ∧ id ≠ want then s.reply c u stOrder want []
    else (s.upSession x.id (fun y => { y with batch := some (id, []), batchAt := s.clk.now })).reply c u stOk 0 []))

/-- The items that a BATCH_ADD payload holds; an entry's address is found at the commit. -/
def addItems : Nat → List Byte → List EditItem
  | 0, _ => []
  | n + 1, b =>
    if b.isEmpty then []
    else
      { index := getLE b 0 2, sub := byteAt b 2, addr := 0, bytes := slice b 8 (getLE b 4 4) } ::
        addItems n (b.drop (8 + (getLE b 4 4 + 3) / 4 * 4))

/-- The bytes of item data in a batch. -/
def itemBytes (l : List EditItem) : Nat := l.foldl (fun n x => n + x.bytes.length) 0

/-- BATCH_ADD. -/
def State.kvBatchAdd (s : State) (c : KChan) (u : List Byte) : State :=
  s.inSession c u (fun x s => s.needRole c u (
    match x.batch with
    | none => s.reply c u stOrder (s.sto.expected x.client) []
    | some (id, l) =>
      let l := l ++ addItems (uBody u).length (uBody u)
      if 65536 < itemBytes l then (s.upSession x.id (fun y => { y with batch := none })).reply c u stTooLarge 65536 []
      else (s.upSession x.id (fun y => { y with batch := some (id, l), batchAt := s.clk.now })).reply c u stOk 0 []))

/-- One item at the commit: its place, or why it is refused, with INFO. -/
def State.checkItem (s : State) (x : EditItem) : EditItem ⊕ (Nat × Nat) :=
  match s.find x.index x.sub with
  | .refused st => .inr (st, 0)
  | .entry _ => .inr (stAccess, 0)
  | .published p =>
    let v := valueCheck p.type p.len x.bytes
    if !p.writable then .inr (stAccess, 0)
    else if v = stType then .inr (stType, p.len)
    else if v ≠ stOk then .inr (v, 0)
    else .inl { x with addr := p.addr }

/-- Every item of a batch checked: the placed items, or the first refusal. -/
def State.checkItems (s : State) : List EditItem → List EditItem ⊕ (Nat × Nat)
  | [] => .inl []
  | x :: t =>
    match s.checkItem x with
    | .inr r => .inr r
    | .inl y =>
      match s.checkItems t with
      | .inr r => .inr r
      | .inl l => .inl (y :: l)

/-- BATCH_COMMIT. -/
def State.kvBatchCommit (s : State) (c : KChan) (u : List Byte) : State :=
  s.inSession c u (fun x s => s.needRole c u (
    let id := getLE (uBody u) 0 4
    let past := match s.sto.lastApplied x.client with
      | some l => atOrBelow id l
      | none => false
    let other : State :=
      if past then s.reply c u stApplied 0 []
      else if s.sto.lastAccepted x.client = some id then s.reply c u stOk 0 []
      else s.reply c u stOrder ((x.batch.map (·.1)).getD (s.sto.expected x.client)) []
    match x.batch with
    | none => other
    | some (b, l) =>
      if b ≠ id then other
      else
        let s := s.upSession x.id (fun y => { y with batch := none })
        match s.checkItems l with
        | .inr (st, info) =>
          (s.upSto (fun q => { q with outcomes := (x.client, (id, (4, 0))) :: q.outcomes })).reply c u st info []
        | .inl items =>
          let new : Batch := { client := x.client, id := id, size := itemBytes items, accepted := s.clk.now, items := items
                               session := x.id, chan := c, ms := none }
          (s.upSto (fun q => { q with batches := q.batches ++ [new] })).reply c u stOk 0 []))

/-- STATE and milestone of a batch (11 R341). -/
def State.batchState (s : State) (x : Session) (id : Nat) : Nat × Nat :=
  let mine (b : Batch) : Bool := decide (b.client = x.client ∧ b.id = id)
  if (x.batch.map (·.1)) = some id then (1, 0)
  else if s.sto.batches.any mine || s.sto.unreported.any mine then (2, 0)
  else
    match s.sto.outcomes.find? (fun o => decide (o.1 = x.client ∧ o.2.1 = id)) with
    | some o => o.2.2
    | none => (0, 0)

/-- BATCH_STATUS. -/
def State.kvBatchStatus (s : State) (c : KChan) (u : List Byte) : State :=
  s.inSession c u (fun x s =>
    let r := s.batchState x (getLE (uBody u) 0 4)
    s.reply c u stOk 0 (leBytes 1 r.1 ++ zeros 3 ++ leBytes 8 r.2))

/-- BATCH_DISCARD; the answer is open where it does not name the open batch. -/
def State.kvBatchDiscard (s : State) (c : KChan) (u : List Byte) : State :=
  s.inSession c u (fun x s =>
    if (x.batch.map (·.1)) = some (getLE (uBody u) 0 4) then (s.upSession x.id (fun y => { y with batch := none })).reply c u stOk 0 []
    else (s.reply c u ((Config.openAnswer s.free).1 % 17) ((Config.openAnswer s.free).2 % 2 ^ 32) []).useFree)

/-! ### Transports (11 R342 to R345) -/

/-- One Kivasel segment arrives at port `n` in buffer 62 (11 R343). -/
def State.kvSegment (s : State) (n : Nat) (b : List Byte) : State :=
  let h := byteAt b 0
  let seq := h % 64
  let first := h.testBit 7
  let p := s.canPort n
  let lose (s : State) : State := s.upCanPort n (fun c => { c with partUnit := [], partialSeq := none, segErr := sat32 c.segErr })
  let take (s : State) (old : List Byte) : State :=
    let unit := old ++ b.drop 1
    if h.testBit 6 then
      (s.upCanPort n (fun c => { c with partUnit := [], partialSeq := none })).kvArrive (.can n)
        (if 16 ≤ unit.length then unit.take (16 + getLE unit 10 2) else unit)
    else s.upCanPort n (fun c => { c with partUnit := unit, partialSeq := some seq })
  if s.inForce (0x2800 + n) 13 0xFFFFFFFF = 0xFFFFFFFF then s
  else if b.isEmpty then s
  else if first then
    let s := if p.partialSeq.isSome then lose s else s
    (if seq = 0 then take s [] else lose s)
  else
    match p.partialSeq with
    | some q => if seq = (q + 1) % 64 then take s p.partUnit else lose s
    | none => lose s

/-! ### The ODX window (11 R345, R346) -/

/-- GO. -/
def State.odxGo (s : State) : State :=
  if s.dict.odxBusy || s.dict.odxReady then s.odxCauseBit 2
  else
    let s := s.upDict (fun d => { d with odxBusy := true, odxResp := [] })
    s.kvArrive .odx (memBytes s.dict.odxReq 0 s.dict.odxLen)

/-- ACK. -/
def State.odxAck (s : State) : State := s.upDict (fun d => { d with odxReady := false })

/-- A read of an ODX register. -/
def State.odxRead (s : State) (off : Nat) : Word :=
  let d := s.dict
  if off = 0x000 then w32 (bit d.odxBusy + 2 * bit d.odxReady + 4 * bit s.host.priv + 0x10000 * d.odxResp.length)
  else if off = 0x008 then w32 d.odxLen
  else if off = 0x00C then d.odxCause
  else if off = 0x010 then d.odxCauseEn
  else if 0x100 ≤ off ∧ off < 0x510 then memWord d.odxReq (off - 0x100)
  else if 0x600 ≤ off ∧ off < 0xA10 then w32 (getLE d.odxResp (off - 0x600) 4)
  else 0

/-- A write to an ODX register. -/
def State.odxWrite (s : State) (off : Nat) (v : Word) : WriteAns :=
  if off = 0x004 then
    .done (let s := if v.getLsbD 1 then s.odxAck else s
           if v.getLsbD 0 then s.odxGo else s)
  else if off = 0x008 then
    needLegal (decide (16 ≤ wfield v 10 0 ∧ wfield v 10 0 ≤ 1040))
      (.done (if s.dict.odxBusy then s.odxCauseBit 2 else s.upDict (fun d => { d with odxLen := wfield v 10 0 })))
  else if off = 0x00C then .done (s.upDict (fun d => { d with odxCause := w1c d.odxCause v }))
  else if off = 0x010 then .done (s.upDict (fun d => { d with odxCauseEn := v &&& 7 }))
  else if 0x100 ≤ off ∧ off < 0x510 then
    .done (if s.dict.odxBusy then s.odxCauseBit 2 else s.upDict (fun d => { d with odxReq := memPut d.odxReq (off - 0x100) (wbytes v) }))
  else .done s

/-! ### Fuses (11 R347 to R349) -/

/-- The blow of a fuse ends: its effect begins. -/
def State.fuseBlown (s : State) (f : Nat) : State :=
  let s := s.upDict (fun d => { d with fuses := d.fuses ||| (1#4 <<< f), blowing := d.blowing.filter (fun x => decide (x ≠ f)) })
  if f = 1 then s.upHost (fun h => { h with priv := false })
  else if f = 2 then
    s.upDict (fun d => { d with sessions := d.sessions.map (fun x => if netChan x.chan then { x with batch := none, priv := false } else x) })
  else if f = 3 then s.upDict (fun d => { d with usbOff := true })
  else s

/-- The instructions of the boundary-scan port on S1 (00 R6, IEEE 1149.1); they read or force pins and leave the block's state alone (log 69). -/
inductive ScanOp where
  | bypass | idcode | sample | other
  deriving DecidableEq, Repr

/-- Does the boundary-scan port serve an instruction? With FUSE_DEBUG_OFF blown it keeps BYPASS, IDCODE and SAMPLE only (11 R347). -/
def State.scanServes (s : State) (op : ScanOp) : Bool := !s.dict.fuses.getLsbD 0 || decide (op ≠ .other)

/-! ### Meanings: transports -/

/-- KIVASEL_UDP_RECEIVE (11 R342): a datagram to port 41794 from an address and port. -/
def execKivaselUdpReceive (ip port t : Nat) (bytes : List Byte) (s : State) : Host.Outcome State Fault Refusal :=
  let s1 := s.reach t
  commit s (if !s1.domainOn 7 ∨ s1.inForce 0x1110 1 0 = 0 then s1 else s1.kvArrive (.udp ip port) bytes)

/-- KIVASEL_CAN_SEGMENT (11 R343): the data bytes of a frame that the port receives for its buffer 62; while INIT is 1 or in bus-off nothing is received (10 R313, R317). -/
def execKivaselCanSegment (n t : Nat) (bytes : List Byte) (s : State) : Host.Outcome State Fault Refusal :=
  commit s (if ((s.reach t).canPort n).listens then ((s.reach t).canHeard n).kvSegment n bytes else s.reach t)

/-- KIVASEL_CAN_SEGMENT_TIMEOUT (11 R343): 100 ms without a segment. -/
def execKivaselCanSegmentTimeout (n : Nat) (s : State) : Host.Outcome State Fault Refusal :=
  commit s (s.upCanPort n (fun c =>
    if c.partialSeq.isSome then { c with partUnit := [], partialSeq := none, segErr := sat32 c.segErr } else c))

/-- KIVASEL_USB_TRANSFER (11 R344). -/
def execKivaselUsbTransfer (t : Nat) (bytes : List Byte) (s : State) : Host.Outcome State Fault Refusal :=
  let s1 := s.reach t
  commit s (if s1.dict.usbOff || decide (1040 < bytes.length) then s1 else s1.kvArrive .s1 bytes)

/-! ### Meanings: operations on the request at the head of the queue -/

/-- OPEN (11 R333, R335). -/
def execKOpen (t : Nat) (s : State) : Host.Outcome State Fault Refusal :=
  commit s (s.kvTake t (fun u => decide (uOp u = 0x01)) (fun c u s => s.kvOpen c u))

/-- CLOSE (11 R333, R335). -/
def execKClose (t : Nat) (s : State) : Host.Outcome State Fault Refusal :=
  commit s (s.kvTake t (fun u => decide (uOp u = 0x02)) (fun c u s => s.kvClose c u))

/-- CHALLENGE (11 R334). -/
def execKChallenge (t : Nat) (s : State) : Host.Outcome State Fault Refusal :=
  commit s (s.kvTake t (fun u => decide (uOp u = 0x03)) (fun c u s => s.kvChallenge c u))

/-- LOGIN (11 R334). -/
def execKLogin (t : Nat) (s : State) : Host.Outcome State Fault Refusal :=
  commit s (s.kvTake t (fun u => decide (uOp u = 0x04)) (fun c u s => s.kvLogin c u))

/-- LOGIN_LOCKOUT_END (11 R334): 1 s after a failed LOGIN. -/
def execLoginLockoutEnd (chan : KChan) (s : State) : Host.Outcome State Fault Refusal :=
  commit s (s.upDict (fun d => { d with lockedOut := d.lockedOut.filter (fun x => decide (x ≠ lockChan chan)) }))

/-- READ (11 R331): `ecc` are the errors that the reads of the recorder region or of the trace DRAM find. -/
def execKRead (t : Nat) (ecc : List Ecc) (s : State) : Host.Outcome State Fault Refusal :=
  commit s (s.kvTake t (fun u => decide (uOp u = 0x10)) (fun c u s => s.kvRead c u ecc))

/-- READ_MULTI (11 R329, R331). -/
def execKReadMulti (t : Nat) (ecc : List Ecc) (s : State) : Host.Outcome State Fault Refusal :=
  commit s (s.kvTake t (fun u => decide (uOp u = 0x11)) (fun c u s => s.kvReadMulti c u ecc))

/-- DESCRIBE (11 R331). -/
def execKDescribe (t : Nat) (s : State) : Host.Outcome State Fault Refusal :=
  commit s (s.kvTake t (fun u => decide (uOp u = 0x12)) (fun c u s => s.kvDescribe c u))

/-- WRITE (11 R325, R331). -/
def execKWrite (t : Nat) (s : State) : Host.Outcome State Fault Refusal :=
  commit s (s.kvTake t (fun u => decide (uOp u = 0x20)) (fun c u s => s.kvWrite c u))

/-- BATCH_OPEN (11 R338, R339). -/
def execBatchOpen (t : Nat) (s : State) : Host.Outcome State Fault Refusal :=
  commit s (s.kvTake t (fun u => decide (uOp u = 0x30)) (fun c u s => s.kvBatchOpen c u))

/-- BATCH_ADD (11 R338). -/
def execBatchAdd (t : Nat) (s : State) : Host.Outcome State Fault Refusal :=
  commit s (s.kvTake t (fun u => decide (uOp u = 0x31)) (fun c u s => s.kvBatchAdd c u))

/-- BATCH_COMMIT (11 R338). -/
def execBatchCommit (t : Nat) (s : State) : Host.Outcome State Fault Refusal :=
  commit s (s.kvTake t (fun u => decide (uOp u = 0x32)) (fun c u s => s.kvBatchCommit c u))

/-- BATCH_STATUS (11 R341). -/
def execBatchStatus (t : Nat) (s : State) : Host.Outcome State Fault Refusal :=
  commit s (s.kvTake t (fun u => decide (uOp u = 0x33)) (fun c u s => s.kvBatchStatus c u))

/-- BATCH_DISCARD (11 R331). -/
def execBatchDiscard (t : Nat) (s : State) : Host.Outcome State Fault Refusal :=
  commit s (s.kvTake t (fun u => decide (uOp u = 0x34)) (fun c u s => s.kvBatchDiscard c u))

/-- ACCESS_KEY_WRITE (11 R334, R350): a WRITE to entry 0x1020. -/
def execAccessKeyWrite (t : Nat) (s : State) : Host.Outcome State Fault Refusal :=
  commit s (s.kvTake t (isWrite (fun i _ => decide (i = 0x1020))) (fun c u s => s.kvWrite c u))

/-- FUSE_BLOW (11 R348): a WRITE to entry 0x1010, sub-index 1. -/
def execFuseBlow (t : Nat) (s : State) : Host.Outcome State Fault Refusal :=
  commit s (s.kvTake t (isWrite (fun i j => decide (i = 0x1010 ∧ j = 1))) (fun c u s => s.kvWrite c u))

/-- RESTORE_DEFAULTS (11 R350): a WRITE to entry 0x1011. -/
def execRestoreDefaults (t : Nat) (s : State) : Host.Outcome State Fault Refusal :=
  commit s (s.kvTake t (isWrite (fun i _ => decide (i = 0x1011))) (fun c u s => s.kvWrite c u))

/-- CALENDAR_NOW_READ (16 R477): a READ of entry 0x2205. -/
def execCalendarNowRead (s : State) : Host.Outcome State Fault Refusal :=
  commit s (s.kvTake 0 (fun u => decide (uOp u = 0x10) && decide (itemIndex (uBody u) = 0x2205)) (fun c u s => s.kvRead c u []))

/-! ### Meanings: time and fuses -/

/-- SESSION_TIMEOUT (11 R333): 60 s without a request. -/
def execSessionTimeout (id t : Nat) (s : State) : Host.Outcome State Fault Refusal :=
  let s1 := s.reach t
  commit s (match s1.dict.session id with
    | some x => if id ≠ 0 ∧ x.used + 60000000000 ≤ s1.clk.now then s1.closeSession id else s1
    | none => s1)

/-- BATCH_IDLE_TIMEOUT (11 R338): an open batch receives no unit for 10 s. -/
def execBatchIdleTimeout (id t : Nat) (s : State) : Host.Outcome State Fault Refusal :=
  let s1 := s.reach t
  commit s (s1.upSession id (fun x => if x.batch.isSome ∧ x.batchAt + 10000000000 ≤ s1.clk.now then { x with batch := none } else x))

/-- FUSE_BLOW_END (11 R348, R349): the fuse whose blow began first. -/
def execFuseBlowEnd (s : State) : Host.Outcome State Fault Refusal :=
  commit s (match s.dict.blowing with
    | f :: _ => s.fuseBlown f
    | [] => s)

end Sys2Proof.Machine
end

