-- ==== Sys2Proof/Machine/Reset.lean ====
section
/-! DEFINITION. What survives a device reset, a power loss and Parked, and the operations that end the present powered period (02 R58, R59, 13 R395, 14 R414, 15 R435, R437, R453, 16 R458, R474, R475, 19 R506, R510, R515 to R517). -/

set_option Elab.async false

namespace Sys2Proof.Machine

open Sys2Proof

/-! ### What stays -/

/-- A journal write already begun completes; none begins after it (02 R59). -/
def State.journalEnds (s : State) : State := s.headDurable.upSto (fun x => { x with journal := [] })

/-- The stores as the last durable milestone leaves them (02 R58). -/
def Store.retained (x : Store) : Store :=
  { Store.reset with
    program := x.program, lmem := x.durable, durable := x.durable, msCount := x.msDurable, msDurable := x.msDurable
    durHdr := x.durHdr, warm := x.warm, applied := x.appliedDur, appliedDur := x.appliedDur }

/-- The installed image; over a device reset the staged one with the result of its check too (06 R190; log 30). -/
def Loader.retained (l : Loader) (keep : Bool) : Loader :=
  let base : Loader := { Loader.reset with img := l.img, digest := l.digest, installing := l.installing, swapReport := l.swapReport }
  if keep then
    { base with
      staged := if l.state = 1 then [] else l.staged, stagedDigest := if l.state = 1 then zeros 32 else l.stagedDigest, result := l.result
      state := if l.state = 1 then 0 else if l.state = 2 then 6 else if l.converting then 3 else l.state }
  else base

/-- The term of the last durable milestone and the counts that entries keep (07 R203, R231, R241). -/
def Csw.retained (c : Csw) (durHdr : Option Milestone) : Csw :=
  { Csw.reset with
    term := (durHdr.map Milestone.term).getD 0, takeovers := c.takeovers, sinceActive := c.sinceActive, drillLast := c.drillLast
    storeComplete := c.storeComplete }

/-- Stored entries and fuses (11 R325, R347); a blow that has begun goes on. -/
def Dict.retained (d : Dict) (keep : Bool) : Dict :=
  { Dict.reset with
    stored := d.stored, fuses := d.fuses, blowing := d.blowing, restoreDef := d.restoreDef, pubMap := d.pubMap
    pubPend := if keep then d.pubPend else [] }

/-- A master's registers in the always-on block, which runs on in Parked (15 R455, 16 R475). -/
def MasterRegs.alwaysOn (r : MasterRegs) : MasterRegs :=
  { r with
    mbxSel := 0, mbxValid := false, mbxWords := 0, mbxPending := false, mbxLatched := 0, mbxData := [0, 0, 0], cursor := 0
    window := [], winSeq := none, gap := false, nvpBusy := false, auditSel := 0, metLatch := [] }

/-- The fabric and SYS: identity from manufacture and the stored role; SYS_POWER_CAUSE and the masters' always-on registers except over a device reset. -/
def HostSt.retained (h : HostSt) (keep : Bool) : HostSt :=
  { HostSt.reset with
    regs := if keep then HostSt.reset.regs else h.regs.map MasterRegs.alwaysOn
    powerCause := if keep then 0 else h.powerCause
    rdata := h.rdata, roleNext := h.roleNext, hwRev := h.hwRev, code := h.code, serial := h.serial, vendor := h.vendor }

/-- The array with its marker and pass, and except over a device reset the registers (15 R435, R437, R446 to R449). -/
def Nvp.retained (n : Nvp) (keep : Bool) : Nvp :=
  let base : Nvp := { n with cmds := [], step := none, ready := false, firstPass := false, waxActive := false }
  if keep then
    { base with cause := 0, causeEn := 0x3F, prot := 0, lock := false, lockWl := false, corr := 0, tornPage := 0, tornCount := 0, waxLate := false }
  else base

/-- The always-on block over a device reset: the retained fields (16 R475, R476). -/
def Rtc.retained (r : Rtc) (keep : Bool) : Rtc :=
  if keep then { r with cause := 0, causeEn := 0x3F, setBusy := none, shift := 0, shiftTicks := 0 } else r

/-- A metrology channel in the partition's own store (17 R481, R486). -/
def MetChan.retained (c : MetChan) : MetChan :=
  { c with z := 0, raw := 0, hist := [], zSet := false, zTimedOut := false, excBad := false, gapFlag := false, seq := 0, record := zeros 32, before := zeros 32, recAt := none }

/-- The partition's own store (17 R479, R481, R484, R486, R487). -/
def Met.retained (m : Met) : Met :=
  { Met.reset with
    chans := m.chans.map MetChan.retained, sealed := m.sealed, events := m.events, audit := m.audit, swVersion := m.swVersion
    image := m.image, refDigest := m.refDigest, metMs := m.metMs, metCycles := m.metCycles }

/-- The machine with only what outlasts the end of a powered period; `keep`: a device reset, over which SUP keeps a staged image, and the ring when it is frozen (14 R414), while the always-on block takes its reset values (00 R11). -/
def State.retained (s : State) (keep : Bool) : State :=
  { State.reset with
    clu := { Cluster.reset with divRec := s.clu.divRec }
    sto := s.sto.retained
    ldr := s.ldr.retained keep
    csw := s.csw.retained s.sto.durHdr
    dict := s.dict.retained keep
    host := s.host.retained keep
    wdg := { Wdg.reset with resets := s.wdg.resets, lastSlot := s.wdg.lastSlot, lastKind := s.wdg.lastKind }
    evr := { Evr.reset with recs := s.evr.recs, nextSeq := s.evr.nextSeq, indexed := s.evr.indexed && keep }
    trc :=
      if keep && decide (s.trc.st = 2) then
        { Trc.reset with
          items := s.trc.items, pos := s.trc.pos, lost := s.trc.lost, st := 2, anchorBeat := s.trc.anchorBeat, anchorPos := s.trc.anchorPos
          streamPos := s.trc.streamPos }
      else Trc.reset
    nvp := s.nvp.retained keep
    fw := { Fw.reset with bank0 := s.fw.bank0, bank1 := s.fw.bank1, result := s.fw.result, invalidated := s.fw.invalidated }
    rtc := s.rtc.retained keep
    met := s.met.retained
    net := { Net.reset with sent := s.net.sent }
    pwr :=
      { Pwr.reset with
        role := s.pwr.role, vinMv := s.pwr.vinMv, vbakMv := s.pwr.vbakMv, aoRunning := s.pwr.aoRunning, ref := s.pwr.ref, temp := s.pwr.temp
        thermalStops := s.pwr.thermalStops, thermalHold := s.pwr.thermalHold, overTemp := s.pwr.overTemp }
    free := s.free
    pending := s.pending }

/-! ### Device reset (13 R395, 12 R373) -/

/-- The device resets: a bank whose erase it aborts is invalidated and reported at the start-up. -/
def State.deviceReset (s : State) : State :=
  let s := (if s.governs then s.abandonOpen else s).stopBeats.journalEnds
  let bank := s.fw.load.map (·.bank)
  let r := s.fwReset
  let s := r.1.upFw (fun x => { x with invalidated := if r.2 then bank else x.invalidated })
  (s.metDown.keepTime.retained true).upPwr (fun p => { p with ref := .deviceReset })

/-! ### Loss of power (19 R506, R510, R515) -/

/-- The fuses whose blow is cut by a power loss are left intact or blown (11 R348). -/
def State.cutFuses (s : State) : State :=
  let hit := s.dict.blowing.filter (Config.fuseCut s.free)
  let s := hit.foldl State.fuseBlown s
  (s.upDict (fun d => { d with blowing := [] })).useFree

/-- The retained registers are lost: the power-cycle count and the operating time stand as their record holds them (16 R458, R460, R474, 19 R506). -/
def State.aoLost (s : State) : State :=
  let v := (aget s.dict.stored keyPower).getD []
  let s := s.upPwr (fun p => { p with aoRunning := false })
  let s := s.upRtc (fun _ => { Rtc.reset with pwrCycles := getLE v 0 4, opMs := getLE v 4 6 })
  let s := s.upWdg (fun w => { w with resets := 0, lastSlot := 0, lastKind := 0 })
  let s := s.upHost (fun h => { h with regs := HostSt.reset.regs, powerCause := 0 })
  s.upNvp (fun n => { n.retained true with marker := none })

/-- The steps of R515. `thermal`: a thermal stop, at which VIN stays present and the always-on block holds the next start-up. -/
def State.powerOff (s : State) (cut : List Nat) (headErased thermal : Bool) : State :=
  let s := ((s.journalEnds.cutPageStep cut).fwPowerLoss headErased).metDown.cutFuses
  let s := s.keepTime.retained false
  let s := s.upPwr (fun p => { p with
    state := .parked, domains := 0x001#12, vinMv := if thermal then p.vinMv else 0, ref := if thermal then .thermalRestart else .vinValid
    thermalHold := thermal, thermalStops := if thermal then sat32 p.thermalStops else p.thermalStops })
  if !thermal && decide (s.pwr.vbakMv < 2000) then s.aoLost else s

/-- VIN goes away, unless it is absent already. -/
def State.vinGone (s : State) (cut : List Nat) (headErased : Bool) : State :=
  if s.pwr.vinMv < 4500 then s else s.powerOff cut headErased false

/-- A backplate reading (19 R510). -/
def State.backplate (s : State) (temp : Int) (cut : List Nat) (headErased : Bool) : State :=
  let s := s.upPwr (fun p => { p with
    temp := temp, overTemp := if 85 < temp then true else if temp < 82 then false else p.overTemp })
  if 95 ≤ temp then s.powerOff cut headErased true else s

/-! ### Meanings -/

/-- VIN_LOSS (19 R515): `cut` says where a page step in progress is cut, `headErased` whether the erase of a firmware bank had passed its header. -/
def execVinLoss (cut : List Nat) (headErased : Bool) (s : State) : Host.Outcome State Fault Refusal :=
  commit s (s.vinGone cut headErased)

/-- OVERVOLTAGE (19 R505, R515): handled as VIN loss. -/
def execOvervoltage (cut : List Nat) (headErased : Bool) (s : State) : Host.Outcome State Fault Refusal :=
  commit s (s.vinGone cut headErased)

/-- BACKPLATE_TEMP_REPORT (19 R510): the supervisor reports a reading. -/
def execBackplateTempReport (temp : Int) (cut : List Nat) (headErased : Bool) (s : State) : Host.Outcome State Fault Refusal :=
  commit s (if s.domainOn 1 then s.backplate temp cut headErased else s)

/-- THERMAL_RESTART (19 R510, R517): the backplate reads +80 °C or below after a thermal stop. -/
def execThermalRestart (s : State) : Host.Outcome State Fault Refusal :=
  commit s (if s.pwr.thermalHold ∧ s.pwr.ref = .thermalRestart then s.upPwr (fun p => { p with thermalHold := false }) else s)

/-- START_UP_TEMPERATURE_HOLD_END (19 R510, R518 step 1): the backplate reads −40 °C or above and +80 °C or below. -/
def execStartUpTemperatureHoldEnd (temp : Int) (s : State) : Host.Outcome State Fault Refusal :=
  commit s (if s.pwr.thermalHold ∧ -40 ≤ temp ∧ temp ≤ 80 then s.upPwr (fun p => { p with thermalHold := false, temp := temp }) else s)

/-- VBAK_LOW (19 R506): VBAK falls below 2.0 V; with VIN absent the always-on block stops. -/
def execVbakLow (s : State) : Host.Outcome State Fault Refusal :=
  let s1 := s.upPwr (fun p => { p with vbakMv := min p.vbakMv 1999 })
  commit s (if s1.pwr.vinMv < 4500 ∧ s1.pwr.aoRunning then s1.aoLost else s1)

/-- VBAK_RETURN (16 R460, 19 R506): VBAK returns; with VIN absent and the always-on block stopped, it starts again and the calendar counts from 2000-01-01. -/
def execVbakReturn (s : State) : Host.Outcome State Fault Refusal :=
  commit s (s.upPwr (fun p => { p with vbakMv := max p.vbakMv 2000, aoRunning := true }))

/-- PAGE_STEP_DONE (15 R435, R442, R443, R449): an erase or program step ends; `bad` is the group that fails program-verify. A device reset that waits for the step then takes place, or a watchdog reset goes on. -/
def execPageStepDone (bad : Option Nat) (s : State) : Host.Outcome State Fault Refusal :=
  commit s (
    let waits := s.pwr.resetPend || s.wdg.resetting.isSome
    if !waits then s.pageStepDone bad
    else
      let s := s.upNvp (fun n => { n with cmds := [], step := n.step.map (fun p => { p with rest := [] }) })
      let s := (s.pageStepDone bad).upNvp (fun n => { n with step := none, cmds := [] })
      if s.pwr.resetPend then s.deviceReset else s)

/-- WATCHDOG_RESET_EXECUTE (13 R395 step 7): every act of steps 1 to 6 has ended; a unit that was ACTIVE waits 14 µs. -/
def execWatchdogResetExecute (t : Nat) (s : State) : Host.Outcome State Fault Refusal :=
  let s1 := s.reach t
  commit s (match s1.wdg.resetting with
    | none => s1
    | some (slot, kind, since) =>
      if s1.nvp.step.isSome ∨ s1.evr.queue.any (fun o => decide (o.code = 0x3005)) ∨
          (s1.csw.withdraw ∧ s1.clk.now < since + 14000) then s1
      else (s1.upWdg (fun w => { w with resets := sat16 w.resets, lastSlot := slot, lastKind := kind })).deviceReset)

end Sys2Proof.Machine
end

