-- ==== Sys2Proof/Machine/Fabric.lean ====
section
/-! DEFINITION. The register fabric: rights and refusals, the SYS, INT, MBX and HPT blocks, and one access to any register (01 R26 to R29, 12 R361 to R383). -/

set_option Elab.async false

namespace Sys2Proof.Machine

open Sys2Proof

/-! ### Rights (01 R26 to R29) -/

/-- Is a master privileged? -/
def State.privOf (s : State) (m : Master) : Bool :=
  match m with
  | .sup0 => true
  | .sup1 => true
  | .met => false
  | .host => s.host.priv
  | .debug => !s.dict.fuses.getLsbD 0

/-- MET's own registers: INT_CLAIM, INT_DONE and INT_TAKE (12 R382). -/
def metOwn (addr : Nat) : Bool := decide (addr = 0x1010 ∨ addr = 0x1014 ∨ (0x1440 ≤ addr ∧ addr < 0x1800))

/-- May a master reach an address at all (check 3 of 12 R364 for MET and DEBUG)? -/
def State.reachable (s : State) (m : Master) (addr : Nat) : Bool :=
  match m with
  | .met => metOwn addr
  | .debug => !s.dict.fuses.getLsbD 0
  | _ => true

/-- The power domain of the block at a page of the host address map (12 R359, R370). -/
def pageDomain (page : Nat) : Nat :=
  if page = 4 ∨ page = 5 then 0
  else if page = 6 then 8
  else if page = 7 then 10
  else if 8 ≤ page ∧ page ≤ 0x10 then 7
  else if page = 0x11 then 11
  else 1

/-- The blocks that the recovery service serves (19 R522; log 34). -/
def recoveryPage (page : Nat) : Bool := decide (page = 0 ∨ page = 5 ∨ page = 0x13 ∨ page = 0x15)

/-! ### Refused writes (12 R364 to R366, 13 R400) -/

/-- A refused write: its flag, the capture of the first, and one record each. -/
def State.accessFault (s : State) (m : Master) (addr flag : Nat) : State :=
  let f := s.host.fault
  let s := s.upHost (fun h =>
    if f.getLsbD 0 then { h with fault := setBit (setBit f flag true) 6 true }
    else { h with fault := setBit ((f &&& ~~~ 0x700#32) ||| w32 (1 + 256 * masterCode m)) flag true, faultAddr := addr })
  s.occur (0x0500 + flag) (masterCode m) (leBytes 4 addr)

/-- What a block's answer to a write leaves. -/
def State.settle (s : State) (m : Master) (addr : Nat) (a : WriteAns) : State :=
  match a with
  | .refused f => s.accessFault m addr f
  | .refusedIn f t => t.accessFault m addr f
  | .done t => t

/-! ### The SYS block (12 R371 to R373) -/

/-- Have any of these cause registers an enabled bit set? -/
def anyRaised (l : List (Word × Word)) : Bool := l.any (fun x => raised x.1 x.2)

/-- The subsystems whose causes are raised, bits 0 to 7 of SYS_SUMMARY. -/
def State.summaryBits (s : State) : List Bool :=
  [raised s.host.exeCauseRead s.host.exeCauseEn, raised s.host.memCause s.host.memCauseEn, raised s.csw.cause s.csw.causeEn,
   raised s.fio.cause s.fio.causeEn, anyRaised ((s.net.cause, s.net.causeEn) :: s.can.toList.map (fun c => (c.cause, c.causeEn))),
   anyRaised [(s.wdg.cause, s.wdg.causeEn), (s.evr.cause, s.evr.causeEn), (s.trc.cause, s.trc.causeEn), (s.dict.odxCause, s.dict.odxCauseEn),
     (s.host.hptCause, s.host.hptCauseEn), (s.host.fault, 0x7F#32)],
   anyRaised [(s.rtc.cause, s.rtc.causeEn), (s.nvp.cause, s.nvp.causeEn), (s.host.powerCause, 0x1F#32)], raised s.met.cause s.met.causeEn]

/-- SYS_SUMMARY. -/
def State.summary (s : State) : Nat := bitsNat s.summaryBits
where
  /-- A list of bits, bit 0 first. -/
  bitsNat : List Bool → Nat
  | [] => 0
  | b :: t => bit b + 2 * bitsNat t

/-- The code of a role (12 R373 SYS_ROLE). -/
def Role.code : Role → Nat
  | .controller => 0
  | .station => 1
  | .replay => 2

/-- A read of a SYS register. -/
def State.sysRead (s : State) (off : Nat) (priv : Bool) : Word :=
  let h := s.host
  if off = 0x000 then w32 (0x512 + 0x10000 * h.hwRev + 0x1000000 * bit h.code)
  else if off = 0x004 then w32 s.summary
  else if off = 0x008 then h.fault
  else if off = 0x00C then w32 h.faultAddr
  else if off = 0x010 then privRead priv (w32 (s.pwr.role.code + 16 * h.roleNext))
  else if off = 0x014 then h.exeCauseRead
  else if off = 0x018 then h.exeCauseEn
  else if off = 0x01C then h.taskCause
  else if off = 0x020 then h.memCause
  else if off = 0x024 then h.memCauseEn
  else if off = 0x028 then w32 (bit (decide (s.pwr.state = .reduced)) + 16 * s.pwr.domains.toNat)
  else if off = 0x02C then h.powerCause
  else if off = 0x030 then privRead priv (w32 s.dict.fuses.toNat)
  else 0

/-- The role of the next start-up is stored (00 R1). -/
def State.setNextRole (s : State) (n : Nat) : State := (s.upHost (fun h => { h with roleNext := n })).storeSystem keyRole (leBytes 1 n) none

/-- SYS_RESET: the reset waits for a page step in progress (15 R435). -/
def State.sysReset (s : State) : State :=
  if s.nvp.step.isSome then s.upPwr (fun p => { p with resetPend := true }) else s.deviceReset

/-- A write to a SYS register. -/
def State.sysWrite (s : State) (off : Nat) (v : Word) (priv : Bool) : WriteAns :=
  if off = 0x008 then .done (s.upHost (fun h => { h with fault := w1c h.fault (v &&& 0x7F#32) }))
  else if off = 0x010 then needPriv priv (needLegal (decide (wfield v 5 4 ≠ 3)) (.done (s.setNextRole (wfield v 5 4))))
  else if off = 0x014 then .done (s.upHost (fun h => { h with exeCause := w1c h.exeCause v }))
  else if off = 0x018 then .done (s.upHost (fun h => { h with exeCauseEn := v &&& 0xFF#32 }))
  else if off = 0x01C then .done (s.upHost (fun h => { h with taskCause := w1c h.taskCause v }))
  else if off = 0x020 then .done (s.upHost (fun h => { h with memCause := w1c h.memCause v }))
  else if off = 0x024 then .done (s.upHost (fun h => { h with memCauseEn := v &&& 7#32 }))
  else if off = 0x02C then .done (s.upHost (fun h => { h with powerCause := w1c h.powerCause v }))
  else if off = 0x030 then needPriv priv (.done s)
  else if off = 0x034 then
    needPriv priv (match s.parkRequest with
      | (none, t) => if v = 1 then .refusedIn flagLocked t else .refused flagRsvd
      | (some t, _) => needLegal (decide (v = 1)) (.done t))
  else if off = 0x038 then needPriv priv (needLegal (decide (v = 0x5A5A#32)) (.done s.sysReset))
  else .done s

/-! ### The interrupt controller (12 R374 to R382) -/

/-- The target of a master; DEBUG has none. -/
def targetOf : Master → Option Nat
  | .sup0 => some 0
  | .sup1 => some 1
  | .met => some 2
  | .host => some 3
  | .debug => none

/-- The number that a read returns when nothing is obtained. -/
def spurious : Nat := 0x3FF

/-- A source is put in service for a target. -/
def State.serve (s : State) (n t : Nat) : State := s.upHost (fun h => { h with serving := aput n t h.serving })

/-- INT_CLAIM read by a master: the highest-numbered vectored source for its target. -/
def State.claim (s : State) (m : Master) : Word × State :=
  match targetOf m with
  | none => (w32 spurious, s)
  | some t =>
    match (List.range 16).reverse.find? (s.vectored t) with
    | none => (w32 spurious, s)
    | some n => (w32 n, if n = 11 then s else s.serve n t)

/-- INT_TAKE of source `n` read by a master. -/
def State.takeSource (s : State) (m : Master) (n : Nat) : Word × State :=
  match targetOf m with
  | none => (w32 spurious, s)
  | some t => if s.pendingSrc n && (s.host.route n).testBit t then (w32 n, s.serve n t) else (w32 spurious, s)

/-- INT_DONE written by a master. -/
def State.endService (s : State) (m : Master) (n : Nat) : State :=
  if (targetOf m).isSome ∧ aget s.host.serving n = targetOf m then s.upHost (fun h => { h with serving := adel h.serving n }) else s

/-- One bit for each of 32 sources. -/
def sourceBits (w : Nat) (f : Nat → Bool) : Word := w32 ((List.range 32).foldl (fun n i => n + 2 ^ i * bit (f (32 * w + i))) 0)

/-- Is a source pending for any target? -/
def State.pendingAny (s : State) (n : Nat) : Bool := if n = 11 then (List.range 4).any (fun t => s.vectored t 11) else s.pendingSrc n

/-- A read of an INT register. -/
def State.intRead (s : State) (m : Master) (off : Nat) (priv : Bool) : Word × State :=
  if off = 0x000 then (w32 ((List.range 4).foldl (fun n t => n + 2 ^ t * bit (s.targetLine t)) 0), s)
  else if off = 0x010 then s.claim m
  else if 0x100 ≤ off ∧ off < 0x120 then (sourceBits ((off - 0x100) / 4) s.pendingAny, s)
  else if 0x140 ≤ off ∧ off < 0x160 then (sourceBits ((off - 0x140) / 4) (fun n => (aget s.host.serving n).isSome), s)
  else if 0x440 ≤ off ∧ off < 0x800 then s.takeSource m ((off - 0x400) / 4)
  else if 0x800 ≤ off ∧ off < 0xC00 then
    let n := (off - 0x800) / 4
    (if sourceUsed n then privRead priv (w32 (s.host.route n)) else 0, s)
  else if 0xC00 ≤ off ∧ off < 0x1000 then
    let n := (off - 0xC00) / 4
    (w32 ((aget s.host.counts n).getD 0), s.upHost (fun h => { h with counts := adel h.counts n }))
  else (0, s)

/-- A write to an INT register. -/
def State.intWrite (s : State) (m : Master) (off : Nat) (v : Word) (priv : Bool) : WriteAns :=
  if off = 0x014 then .done (s.endService m (wfield v 7 0))
  else if 0x800 ≤ off ∧ off < 0xC00 then
    let n := (off - 0x800) / 4
    if !sourceUsed n then .done s
    else
      needPriv priv (needLegal (decide (12 ≤ n ∧ n ≤ 15) || decide (v &&& 0xF4#32 = 0))
        (.done (s.upHost (fun h => { h with routes := aput n (wfield v 3 0) h.routes }))))
  else .done s

/-! ### Wide values (12 R367 to R369) -/

/-- The words of a selector's value. -/
def mbxCount (sel : Nat) : Nat := if sel < 4 then 2 else 3

/-- The value of a selector as three words (12 R368). -/
def State.wide (s : State) (sel : Nat) : List Word :=
  let two (n : Nat) : List Word := [w32 n, w32 (n / 2 ^ 32), 0]
  if sel = 0 then two s.sto.msCount
  else if sel = 1 then two s.sto.msDurable
  else if sel = 2 then two s.clk.powered
  else if sel = 3 then two (s.otMs % 2 ^ 48)
  else if sel = 4 then
    let sec := s.ptpNow / 1000000000
    [w32 (s.ptpNow % 1000000000), w32 sec, w32 (sec / 2 ^ 32 % 2 ^ 16 + 2 ^ 30 * bit s.clk.everLocked + 2 ^ 31 * bit s.isLocked)]
  else [s.rtc.date, s.rtc.time &&& 0xFFFFFF#32, w32 (s.rtc.sub + 2 ^ 31 * bit s.rtc.valid)]

/-- MBX_SEL is written: a new latch is awaited. -/
def State.mbxSelect (s : State) (m : Master) (sel : Nat) : State :=
  s.upMregs m (fun r => { r with mbxSel := sel, mbxWords := mbxCount sel, mbxPending := true, mbxValid := false })

/-- The selected value is latched. -/
def State.mbxLatch (s : State) (m : Master) : State :=
  let r := s.mregs m
  if r.mbxPending then
    let l := s.wide r.mbxSel
    s.upMregs m (fun r => { r with mbxPending := false, mbxValid := true, mbxLatched := r.mbxSel, mbxData := l })
  else s

/-- A read of MBX_DATAi. -/
def State.mbxData (s : State) (m : Master) (i : Nat) : Word × State :=
  let r := s.mregs m
  if !r.mbxValid || decide (r.mbxWords ≤ i) then (0, s)
  else (r.mbxData[i]?.getD 0, if i + 1 = r.mbxWords then s.upMregs m (fun r => { r with mbxValid := false }) else s)

/-- A read of an MBX register. -/
def State.mbxRead (s : State) (m : Master) (off : Nat) : Word × State :=
  let r := s.mregs m
  if off = 0x000 then (w32 r.mbxSel, s)
  else if off = 0x004 then (w32 (bit r.mbxValid + 16 * r.mbxWords + 256 * r.mbxLatched), s)
  else if off = 0x008 ∨ off = 0x00C ∨ off = 0x010 then s.mbxData m ((off - 8) / 4)
  else (0, s)

/-- A write to an MBX register. -/
def State.mbxWrite (s : State) (m : Master) (off : Nat) (v : Word) : WriteAns :=
  if off = 0x000 then needLegal (decide (wfield v 7 0 ≤ 5)) (.done (s.mbxSelect m (wfield v 7 0))) else .done s

/-! ### Host privilege and the HPT block (12 R361 to R363, R383) -/

/-- Is FUSE_HOST_PRIV_OFF blown? -/
def State.privFused (s : State) : Bool := s.dict.fuses.getLsbD 1

/-- CHALLENGE: a fresh nonce. -/
def State.hptChallenge (s : State) : State :=
  if s.host.lockout then s else (s.upHost (fun h => { h with nonce := freshNonce s.free, fresh := true })).useFree

/-- Does the written proof open privilege? -/
def State.hptProof (s : State) : Bool :=
  s.host.fresh && (allZero s.accessKey || decide (s.host.proof = hmac s.accessKey (s.host.nonce ++ zeros 2)))

/-- GO: while the fuse is blown it fails at once, with AUTH_FAIL set and no record; else the proof is checked, and a failure counts, is recorded and locks out. -/
def State.hptGo (s : State) : State :=
  if s.privFused then s.upHost (fun h => { h with fresh := false, hptCause := setBit h.hptCause 2 true })
  else if s.host.lockout then s
  else if s.hptProof then s.upHost (fun h => { h with fresh := false, priv := true })
  else ((s.upHost (fun h => { h with fresh := false, lockout := true })).authFailed 0x3003).hptCauseBit 2

/-- HPT_STATUS. -/
def State.hptStatus (s : State) : Word :=
  w32 (bit s.host.priv + 2 * bit s.host.lockout + 4 * bit s.privFused + 8 * bit s.host.fresh + 16 * s.summary + 4096 * bit (s.targetLine 3))

/-- A read of an HPT register. -/
def State.hptRead (s : State) (off : Nat) : Word :=
  if off = 0x000 then s.hptStatus
  else if off = 0x004 then s.host.hptCause
  else if off = 0x008 then s.host.hptCauseEn
  else if 0x010 ≤ off ∧ off < 0x020 then w32 (getLE s.host.nonce (off - 0x010) 4)
  else if off = 0x040 then 0x57580512#32
  else 0

/-- A write to an HPT register. -/
def State.hptWrite (s : State) (off : Nat) (v : Word) : WriteAns :=
  if off = 0x004 then .done (s.upHost (fun h => { h with hptCause := w1c h.hptCause v }))
  else if off = 0x008 then .done (s.upHost (fun h => { h with hptCauseEn := v &&& 7#32 }))
  else if off = 0x00C then
    let k := wfield v 2 0
    needLegal (decide (k = 0 ∨ k = 1 ∨ k = 2 ∨ k = 4))
      (.done (if k = 1 then s.hptChallenge else if k = 2 then s.hptGo else if k = 4 then s.upHost (fun h => { h with priv := false }) else s))
  else if 0x020 ≤ off ∧ off < 0x040 then
    .done (s.upHost (fun h => { h with proof := h.proof.take (off - 0x020) ++ wbytes v ++ h.proof.drop (off - 0x01C) }))
  else .done s

/-! ### One access (12 R364, R365, R370) -/

/-- A read of the register at offset `off` of a page. -/
def State.blockRead (s : State) (m : Master) (page off : Nat) (priv : Bool) : Word × State :=
  if page = 0 then (s.sysRead off priv, s)
  else if page = 1 then s.intRead m off priv
  else if page = 2 then s.wdgRead off
  else if page = 3 then s.evrRead m off
  else if page = 4 then (s.rtcRead m off priv, s)
  else if page = 5 then (s.nvpRead m off priv, s)
  else if page = 6 then s.cswRead off
  else if page = 7 then (s.fioRead off, s)
  else if page < 0x10 then s.canRead (page - 8) off priv
  else if page = 0x10 then s.netRead off
  else if page = 0x11 then s.metRead m off
  else if page = 0x12 then s.mbxRead m off
  else if page = 0x13 then (s.odxRead off, s)
  else if page = 0x14 then s.trcRead off
  else (s.hptRead off, s)

/-- A write to the register at offset `off` of a page; `ecc` are the errors that a read finds which it commands. -/
def State.blockWrite (s : State) (m : Master) (page off : Nat) (v : Word) (priv : Bool) (ecc : List Ecc) : WriteAns :=
  if page = 0 then s.sysWrite off v priv
  else if page = 1 then s.intWrite m off v priv
  else if page = 2 then s.wdgWrite off v priv
  else if page = 3 then s.evrWrite m off v priv
  else if page = 4 then s.rtcWrite m off v priv
  else if page = 5 then s.nvpWrite m off v priv ecc
  else if page = 6 then s.cswWrite off v priv
  else if page = 7 then s.fioWrite off v
  else if page < 0x10 then s.canWrite (page - 8) off v priv
  else if page = 0x10 then s.netWrite off v
  else if page = 0x11 then s.metWrite m off v
  else if page = 0x12 then s.mbxWrite m off v
  else if page = 0x13 then s.odxWrite off v
  else if page = 0x14 then s.trcWrite off v priv
  else s.hptWrite off v

/-- Is the block of a page served: powered, and in the recovery service one of those it serves? -/
def State.pageServed (s : State) (page : Nat) : Bool := s.domainOn (pageDomain page) && (!s.pwr.recovery || recoveryPage page)

/-- Does a read reach its register (checks 1 to 3; a register's own rights follow)? -/
def State.readReaches (s : State) (m : Master) (addr : Nat) : Bool :=
  s.domainOn 1 && addrMapped addr && s.pageServed (addr / 4096) && s.reachable m addr

/-- A read by a master. -/
def State.fabricRead (s : State) (m : Master) (addr : Nat) : Word × State :=
  if s.readReaches m addr then s.blockRead m (addr / 4096) (addr % 4096) (s.privOf m) else (0, s)

/-- A write by a master, with the checks in order. -/
def State.fabricWrite (s : State) (m : Master) (addr : Nat) (v : Word) (ecc : List Ecc) : State :=
  let page := addr / 4096
  if !s.domainOn 1 then s
  else if !addrMapped addr then s.accessFault m addr 1
  else if !s.domainOn (pageDomain page) then s.accessFault m addr 2
  else if !s.reachable m addr then s.accessFault m addr flagPriv
  else if !s.pageServed page then s
  else s.settle m addr (s.blockWrite m page (addr % 4096) v (s.privOf m) ecc)

/-- A read whose word the reader obtains. -/
def State.regRead (s : State) (m : Master) (addr : Nat) : State :=
  let r := s.fabricRead m addr
  r.2.upHost (fun h => { h with rdata := [r.1] })

end Sys2Proof.Machine
end

