-- ==== Sys2Proof/Machine/RecordWrite.lean ====
section
/-! DEFINITION. The recorder service writes an occurrence: merging, overwriting, dropping, triggers and snapshots (02 R68, R69, 13 R403 to R409). -/

set_option Elab.async false

namespace Sys2Proof.Machine

open Sys2Proof

/-! ### Triggers (13 R407) -/

/-- A sub-index of trigger `i` in force. -/
def State.trig (s : State) (i sub : Nat) : Nat := s.inForce (0x5200 + i) sub 0

/-- Does trigger `i` match an occurrence? -/
def State.trigMatches (s : State) (o : Occ) (i : Nat) : Bool :=
  decide (s.trig i 1 = 0xFFFF ∨ s.trig i 1 = o.code) && decide (s.trig i 2 = 0xFFFF ∨ s.trig i 2 = o.source) && decide (o.sev ≤ s.trig i 3)

/-- The lowest-numbered trigger that matches. -/
def State.trigger (s : State) (o : Occ) : Option Nat := (List.range 128).find? (s.trigMatches o)

/-- The addresses of a register list, up to its end entry. -/
def regList (l : List Byte) : List Nat := ((List.range 48).map (fun i => getLE l (4 * i) 4)).takeWhile (fun a => decide (a ≠ 0xFFFFFFFF))

/-- The registers that trigger `i` lists, read without side effect as by a privileged master (13 R408). -/
def State.snapshot (s : State) (i : Nat) : List Byte :=
  match aget s.dict.force (entryKey (0x5200 + i) 5) with
  | none => []
  | some l => (regList l).flatMap (fun a => wbytes (s.fabricRead .sup0 a).1)

/-! ### Snapshots (02 R69, 13 R409) -/

/-- Has the open half room for a snapshot? -/
def State.snapFits (s : State) (b : List Byte) : Bool :=
  let n := (b.length + 15) / 16 * 16
  decide (s.sto.opened.reserve + n ≤ reserveSize) && decide (s.openContent + n ≤ halfSize)

/-- The newest record takes a snapshot: staged while beats run and the half will be committed, omitted where it does not fit, written at once otherwise. -/
def State.attachSnap (s : State) (seq i : Nat) (b : List Byte) : State :=
  let put (k : Rec → Rec) (s : State) : State := s.upEvr (fun e => { e with recs := e.recs.map (fun r => if r.seq = seq then k r else r) })
  if s.sto.isOpen && s.clk.running then
    if s.snapFits b then
      (put (fun r => { r with snapPending := true, snapWords := b.length / 4, trigger := i }) s).upOpen
        (fun h => { h with snaps := h.snaps ++ [⟨seq, b⟩] })
    else (put (fun r => { r with snapOmitted := true, trigger := i }) s).exeCause 3 []
  else put (fun r => { r with snapWords := b.length / 4, trigger := i, snap := b }) s

/-! ### Writing (13 R403 to R405, R412) -/

/-- The actions of the trigger that decides a new record. -/
def State.trigActs (s : State) (o : Occ) (seq : Nat) : State :=
  match s.trigger o with
  | none => s
  | some i =>
    let a := s.trig i 4
    let s := if a.testBit 0 then s.attachSnap seq i (s.snapshot i) else s
    if a.testBit 1 then s.freezeReq else s

/-- What follows a record that has been written: the actions of its trigger, and SEVERE (13 R407, R412). -/
def State.recordDone (s : State) (o : Occ) (seq : Nat) : State :=
  let s := s.trigActs o seq
  if o.sev ≤ s.evr.level ∧ o.code / 256 ≠ 7 then s.evrCause 0 else s

/-- A new record is written, or dropped. -/
def State.newRecord (s : State) (o : Occ) : State :=
  match s.evr.put o with
  | none => (s.upEvr (·.drop o.sev)).evrCause 1
  | some e => (s.upEvr (fun _ => e)).recordDone o s.evr.nextSeq

/-- The oldest queued occurrence is written; while a clear is in progress it waits. -/
def State.writeRecord (s : State) : State :=
  if s.evr.clearing.isSome || !s.domainOn 1 then s
  else
    match s.evr.queue with
    | [] => s
    | o :: rest =>
      let s := s.upEvr (fun e => { e with queue := rest })
      if s.evr.repeats o then s.upEvr (·.merge o) else s.newRecord o

/-! ### The end of a clear (13 R411) -/

/-- The clear ends: slots, pending snapshots and drop counters are gone, the cleared record is written. -/
def State.endClear (s : State) : State :=
  match s.evr.clearing with
  | none => s
  | some code =>
    let o : Occ := { code := 2, source := code, sev := 5, detail := padTo 8 (leBytes 4 s.evr.removed), cycles := s.rtc.pwrCycles
                     ot := s.otMs, ms := s.recMilestone, date := s.rtc.date.toNat, time := s.rtc.time.toNat
                     calValid := s.rtc.valid, term := s.csw.term, at' := s.clk.now }
    let q := s.evr.nextSeq
    let s := (s.upOpen (fun h => { h with snaps := [] })).upEvr (fun e => { e with
      recs := [o.record q], nextSeq := (q + 1) % 2 ^ 32, drops := Vector.replicate 8 0, clearing := none })
    (s.evrCause 4).recordDone o q

/-- EVENT_CLEAR_DONE (13 R411). -/
def execEventClearDone (s : State) : Host.Outcome State Fault Refusal := commit s s.endClear

/-- RECORD_WRITE (13 R403). -/
def execRecordWrite (t : Nat) (s : State) : Host.Outcome State Fault Refusal := commit s (s.reach t).writeRecord

end Sys2Proof.Machine
end

