-- ==== Sys2Proof/Machine/Registers.lean ====
section
/-! DEFINITION. The commands that are accesses to registers: host frames, host privilege, and the rows that name one register each (12; 07 R227, R236; 08 R261; 10 R302, R304, R306, R313, R317; 11 R345; 13 R388, R396, R410, R411; 14 R422, R424; 15 R439 to R444, R456; 16 R461, R463, R466, R470; 17 R491). -/

set_option Elab.async false

namespace Sys2Proof.Machine

open Sys2Proof

/-! ### Host frames (12 R353 to R360) -/

/-- LINES of a command byte. -/
def cmdLines (cmd : Nat) : Nat := cmd / 64 % 4
/-- OP of a command byte. -/
def cmdOp (cmd : Nat) : Nat := cmd / 16 % 4
/-- INC of a command byte. -/
def cmdInc (cmd : Nat) : Bool := cmd.testBit 3

/-- A command byte without a reserved value. -/
def cmdOk (cmd : Nat) : Bool :=
  decide (cmdLines cmd ≠ 3 ∧ cmdOp cmd ≠ 3 ∧ cmd % 8 = 0) && !(decide (cmdOp cmd = 2) && cmdInc cmd)

/-- The address of the next word. -/
def nextAddr (cmd addr : Nat) : Nat := if cmdInc cmd then (addr + 4) % 2 ^ 24 else addr

/-- `n` words read from an address on; the interrupt counters see the lines that each word's access raises (12 R375). -/
def State.readWords (s : State) (cmd : Nat) : Nat → Nat → List Word × State
  | 0, _ => ([], s)
  | n + 1, addr =>
    let r := s.fabricRead .host addr
    let t := (countEdges s r.2).readWords cmd n (nextAddr cmd addr)
    (r.1 :: t.1, t.2)

/-- Words written from an address on, each with its rising lines counted. -/
def State.writeWords (s : State) (cmd : Nat) : List Word → Nat → State
  | [], _ => s
  | w :: t, addr => (countEdges s (s.fabricWrite .host addr w [])).writeWords cmd t (nextAddr cmd addr)

/-- Words leave for the host. -/
def State.hostGets (s : State) (l : List Word) : State := s.upHost (fun h => { h with rdata := l })

/-- A frame with its command byte, its 24-bit address, the words clocked out and the words clocked in. A frame begun while HOST_RDY is low is ignored. The interrupt counters are those after the frame. -/
def State.hostFrame (s : State) (cmd addr n : Nat) (words : List Word) : State :=
  if !s.host.ready || !s.domainOn 1 then s
  else if !cmdOk cmd then countEdges s (s.hptCauseBit 0)
  else if cmdOp cmd = 2 then s.hostGets (List.replicate n s.hptStatus)
  else if addr % 4 ≠ 0 then countEdges s (s.hptCauseBit 0)
  else if cmdOp cmd = 0 then
    let r := s.readWords cmd n (addr % 2 ^ 24)
    r.2.hostGets r.1
  else s.writeWords cmd words (addr % 2 ^ 24)

/-- HOST_READ (12 R355). -/
def execHostRead (cmd addr n : Nat) (s : State) : Host.Outcome State Fault Refusal := .next (s.hostFrame cmd addr n [])

/-- HOST_WRITE (12 R356). -/
def execHostWrite (cmd addr : Nat) (words : List Word) (s : State) : Host.Outcome State Fault Refusal :=
  .next (s.hostFrame cmd addr 0 words)

/-- HOST_STATUS (12 R354): the frame has no address. -/
def execHostStatus (cmd n : Nat) (s : State) : Host.Outcome State Fault Refusal := .next (s.hostFrame cmd 0 n [])

/-- HOST_STALL_VIOLATION (12 R357): the access in progress has completed. -/
def execHostStallViolation (s : State) : Host.Outcome State Fault Refusal := commit s (if s.host.ready then s.hptCauseBit 0 else s)

/-- HOST_ACCESS_TIMEOUT (12 R360): a read returns zero, a write is discarded. -/
def execHostAccessTimeout (write : Bool) (s : State) : Host.Outcome State Fault Refusal :=
  commit s (if s.host.ready then (if write then s else s.hostGets [0]).hptCauseBit 1 else s)

/-! ### Host privilege (12 R361 to R363) -/

/-- UNLOCK_CHALLENGE (12 R361). -/
def execUnlockChallenge (m : Master) (s : State) : Host.Outcome State Fault Refusal := commit s (s.fabricWrite m 0x1500C 1 [])

/-- UNLOCK_GO (12 R361, R362). -/
def execUnlockGo (m : Master) (s : State) : Host.Outcome State Fault Refusal := commit s (s.fabricWrite m 0x1500C 2 [])

/-- UNLOCK_LOCK (12 R363). -/
def execUnlockLock (m : Master) (s : State) : Host.Outcome State Fault Refusal := commit s (s.fabricWrite m 0x1500C 4 [])

/-- HOST_LOCKOUT_END (12 R362): 1 s of powered time after a failed GO. -/
def execHostLockoutEnd (s : State) : Host.Outcome State Fault Refusal := commit s (s.upHost (fun h => { h with lockout := false }))

/-! ### Any register (00 R7, 12 R364) -/

/-- REGISTER_WRITE (12 R364). -/
def execRegisterWrite (m : Master) (addr : Nat) (v : Word) (s : State) : Host.Outcome State Fault Refusal :=
  commit s (s.fabricWrite m addr v [])

/-- RCL_READ (00 R7). -/
def execRclRead (m : Master) (addr : Nat) (s : State) : Host.Outcome State Fault Refusal := commit s (s.regRead m addr)

/-! ### SYS, INT and MBX -/

/-- MBX_SEL_WRITE (12 R367). -/
def execMbxSelWrite (m : Master) (v : Word) (s : State) : Host.Outcome State Fault Refusal := commit s (s.fabricWrite m 0x12000 v [])

/-- MBX_LATCH (12 R367). -/
def execMbxLatch (m : Master) (t : Nat) (s : State) : Host.Outcome State Fault Refusal := commit s ((s.reach t).mbxLatch m)

/-- MBX_DATA_READ (12 R369). -/
def execMbxDataRead (m : Master) (i : Nat) (s : State) : Host.Outcome State Fault Refusal :=
  commit s (if i < 3 then s.regRead m (0x12008 + 4 * i) else s)

/-- INT_CLAIM (12 R376). -/
def execIntClaim (m : Master) (s : State) : Host.Outcome State Fault Refusal := commit s (s.regRead m 0x1010)

/-- INT_TAKE (12 R377). -/
def execIntTake (m : Master) (n : Nat) (s : State) : Host.Outcome State Fault Refusal :=
  commit s (if 16 ≤ n ∧ n < 256 then s.regRead m (0x1400 + 4 * n) else s)

/-- INT_DONE (12 R378). -/
def execIntDone (m : Master) (v : Word) (s : State) : Host.Outcome State Fault Refusal := commit s (s.fabricWrite m 0x1014 v [])

/-- INT_ROUTE_WRITE (12 R379, R380). -/
def execIntRouteWrite (m : Master) (n : Nat) (v : Word) (s : State) : Host.Outcome State Fault Refusal :=
  commit s (if n < 256 then s.fabricWrite m (0x1800 + 4 * n) v [] else s)

/-- SYS_RESET (12 R373). -/
def execSysReset (m : Master) (v : Word) (s : State) : Host.Outcome State Fault Refusal := commit s (s.fabricWrite m 0x38 v [])

/-- ROLE_NEXT_WRITE (00 R1, 12 R373). -/
def execRoleNextWrite (m : Master) (v : Word) (s : State) : Host.Outcome State Fault Refusal := commit s (s.fabricWrite m 0x10 v [])

/-- PARK_REQUEST (16 R470). -/
def execParkRequest (m : Master) (v : Word) (s : State) : Host.Outcome State Fault Refusal := commit s (s.fabricWrite m 0x34 v [])

/-! ### WDG and EVR -/

/-- HOST_CHECKIN (13 R388). -/
def execHostCheckin (m : Master) (t : Nat) (v : Word) (s : State) : Host.Outcome State Fault Refusal :=
  commit s ((s.reach t).fabricWrite m 0x2018 v [])

/-- CLR_RESETS (13 R396). -/
def execClrResets (m : Master) (v : Word) (s : State) : Host.Outcome State Fault Refusal := commit s (s.fabricWrite m 0x201C v [])

/-- EVENT_CLEAR (13 R411). -/
def execEventClear (m : Master) (v : Word) (s : State) : Host.Outcome State Fault Refusal := commit s (s.fabricWrite m 0x301C v [])

/-- EVR_WIN0_READ (13 R410): `ecc` are the errors that the read of the record to latch finds. -/
def execEvrWin0Read (m : Master) (ecc : List Ecc) (s : State) : Host.Outcome State Fault Refusal :=
  commit s ((if s.readReaches m 0x3100 then s.recorderReads (s.latchErrors m ecc) else s).regRead m 0x3100)

/-- EVR_WIN63_READ (13 R410). -/
def execEvrWin63Read (m : Master) (s : State) : Host.Outcome State Fault Refusal := commit s (s.regRead m 0x31FC)

/-! ### RTC and NVP -/

/-- SNAPSHOT_TAKE (16 R461). -/
def execSnapshotTake (m : Master) (s : State) : Host.Outcome State Fault Refusal := commit s (s.fabricWrite m 0x400C 1 [])

/-- CALENDAR_SET_GO (16 R463). -/
def execCalendarSetGo (m : Master) (s : State) : Host.Outcome State Fault Refusal := commit s (s.fabricWrite m 0x402C 1 [])

/-- SHIFT_START (16 R466). -/
def execShiftStart (m : Master) (v : Word) (s : State) : Host.Outcome State Fault Refusal := commit s (s.fabricWrite m 0x4034 v [])

/-- NVP_RECORD_READ (15 R439): `ecc` are the errors that the read finds. -/
def execNvpRecordRead (m : Master) (ecc : List Ecc) (s : State) : Host.Outcome State Fault Refusal := commit s (s.fabricWrite m 0x500C 1 ecc)

/-- NVP_RECORD_WRITE (15 R440). -/
def execNvpRecordWrite (m : Master) (s : State) : Host.Outcome State Fault Refusal := commit s (s.fabricWrite m 0x500C 2 [])

/-- NVP_RAW_READ (15 R444): `ecc` are the errors that the read finds. -/
def execNvpRawRead (m : Master) (ecc : List Ecc) (s : State) : Host.Outcome State Fault Refusal := commit s (s.fabricWrite m 0x5018 1 ecc)

/-- NVP_RAW_WRITE (15 R442). -/
def execNvpRawWrite (m : Master) (s : State) : Host.Outcome State Fault Refusal := commit s (s.fabricWrite m 0x5018 2 [])

/-- NVP_RAW_ERASE (15 R442). -/
def execNvpRawErase (m : Master) (s : State) : Host.Outcome State Fault Refusal := commit s (s.fabricWrite m 0x5018 3 [])

/-- CLR_CORR (15 R456). -/
def execClrCorr (m : Master) (s : State) : Host.Outcome State Fault Refusal := commit s (s.fabricWrite m 0x5030 1 [])

/-! ### CSW, FIO, CAN, ODX, TRC and MET -/

/-- SWAP_DRILL_CMD (07 R227). -/
def execSwapDrillCmd (m : Master) (t : Nat) (s : State) : Host.Outcome State Fault Refusal := commit s ((s.reach t).fabricWrite m 0x6024 1 [])

/-- PROGRAM_SWAP_CMD (07 R227). -/
def execProgramSwapCmd (m : Master) (t : Nat) (s : State) : Host.Outcome State Fault Refusal := commit s ((s.reach t).fabricWrite m 0x6024 2 [])

/-- ABANDON_SWAP_CMD (07 R236). -/
def execAbandonSwapCmd (m : Master) (s : State) : Host.Outcome State Fault Refusal := commit s (s.fabricWrite m 0x6024 3 [])

/-- GRP_ACK (08 R261). -/
def execGrpAck (m : Master) (mask : Nat) (s : State) : Host.Outcome State Fault Refusal := commit s (s.fabricWrite m 0x700C (w32 mask) [])

/-- The address of a register of CAN port `n`. -/
def canAddr (n off : Nat) : Nat := 0x8000 + 0x1000 * n + off

/-- CAN_WINDOW_READ (10 R302). -/
def execCanWindowRead (m : Master) (n i : Nat) (s : State) : Host.Outcome State Fault Refusal :=
  commit s (if n < 8 ∧ i < 18 then s.regRead m (canAddr n (0xA00 + 4 * i)) else s)

/-- CAN_FIFO_READ (10 R304). -/
def execCanFifoRead (m : Master) (n i : Nat) (s : State) : Host.Outcome State Fault Refusal :=
  commit s (if n < 8 ∧ i < 18 then s.regRead m (canAddr n (0xA80 + 4 * i)) else s)

/-- CAN_BUFSEL_WRITE (10 R302). -/
def execCanBufselWrite (m : Master) (n : Nat) (v : Word) (s : State) : Host.Outcome State Fault Refusal :=
  commit s (if n < 8 then s.fabricWrite m (canAddr n 0x038) v [] else s)

/-- CAN_TXREQ (10 R306). -/
def execCanTxreq (m : Master) (n : Nat) (v : Word) (s : State) : Host.Outcome State Fault Refusal :=
  commit s (if n < 8 then s.fabricWrite m (canAddr n 0x03C) v [] else s)

/-- CAN_TXABORT (10 R306). -/
def execCanTxabort (m : Master) (n : Nat) (v : Word) (s : State) : Host.Outcome State Fault Refusal :=
  commit s (if n < 8 then s.fabricWrite m (canAddr n 0x040) v [] else s)

/-- CAN_RECOVER (10 R313): CANn_CTRL is written as it stands, with RECOVER. -/
def execCanRecover (m : Master) (n : Nat) (s : State) : Host.Outcome State Fault Refusal :=
  commit s (if n < 8 then s.fabricWrite m (canAddr n 0x00C) ((s.canPort n).ctrl ||| 0x20#32) [] else s)

/-- CAN_INIT_WRITE (10 R317). -/
def execCanInitWrite (m : Master) (n : Nat) (v : Word) (s : State) : Host.Outcome State Fault Refusal :=
  commit s (if n < 8 then s.fabricWrite m (canAddr n 0x00C) v [] else s)

/-- ODX_GO (11 R345). -/
def execOdxGo (m : Master) (t : Nat) (s : State) : Host.Outcome State Fault Refusal := commit s ((s.reach t).fabricWrite m 0x13004 1 [])

/-- ODX_ACK (11 R345). -/
def execOdxAck (m : Master) (s : State) : Host.Outcome State Fault Refusal := commit s (s.fabricWrite m 0x13004 2 [])

/-- ANCHOR_CMD (14 R422). -/
def execAnchorCmd (m : Master) (s : State) : Host.Outcome State Fault Refusal := commit s (s.fabricWrite m 0x1400C 1 [])

/-- FREEZE (14 R424). -/
def execFreeze (m : Master) (s : State) : Host.Outcome State Fault Refusal := commit s (s.fabricWrite m 0x1400C 2 [])

/-- UNFREEZE (14 R424). -/
def execUnfreeze (m : Master) (s : State) : Host.Outcome State Fault Refusal := commit s (s.fabricWrite m 0x1400C 4 [])

/-- MET_RECORD_READ (17 R491): `off` is the offset in the MET block. -/
def execMetRecordRead (m : Master) (off : Nat) (s : State) : Host.Outcome State Fault Refusal :=
  commit s (if off < 4096 then s.regRead m (0x11000 + off) else s)

end Sys2Proof.Machine
end

