-- ==== Sys2Proof/Machine/StartUp.lean ====
section
/-! DEFINITION. Start-up: the steps of R518 up to the role, the registers loaded from the dictionary, and the stops of R520 (00 R1, 01 R13, R20, R23, 02 R58, R61, R70, 06 R190, 10 R309, R315, R320, 11 R326, 13 R386, R406, R409, 15 R448, R454, 16 R471, R474, 18 R500, 19 R508 to R523). -/

set_option Elab.async false

namespace Sys2Proof.Machine

open Sys2Proof

/-! ### Step 1: the always-on block (16 R471, R474, 19 R510, R517) -/

/-- May a start-up begin now? VIN is valid and its input is connected (19 R505), the always-on block does not hold it, and a reference of R517 is pending. -/
def State.mayStart (s : State) (env : StartEnv) : Bool :=
  !s.pwr.started && !s.pwr.stopped && !s.pwr.thermalHold && decide (4500 ≤ env.vinMv ∧ env.vinMv ≤ 38000) &&
    (decide (s.pwr.state ≠ .parked) || decide (s.pwr.ref = .thermalRestart) || decide (s.pwr.vinMv < 4500))

/-- A backplate at which step 1 may pass. -/
def tempOk (t : Int) : Bool := decide (-40 ≤ t ∧ t ≤ 80)

/-- Step 1: VIN as it stands, the power-cycle count, and the cause of a wake or of an aborted Parked entry; SUP is powered. -/
def State.startAo (s : State) (env : StartEnv) : State :=
  let ref := s.pwr.ref
  let s := if ref = .wake ∨ ref = .abort then s.retained false else s
  let s := s.upPwr (fun p => { p with
    aoRunning := true, vinMv := env.vinMv, temp := env.temp, state := .run, domains := 0x003#12, startAt := s.clk.now })
  let s := if ref = .deviceReset then s else s.upRtc (fun r => { r with pwrCycles := sat32 r.pwrCycles })
  let s := if ref = .wake then s.powerCause 4 else if ref = .abort then s.powerCause 3 else s
  let s := if ref = .wake ∧ s.rtc.wakeSrc.getLsbD 5 then s.canCause 0 10 0 else s
  s.upClk (fun c => { c with now := c.now + env.ms * 1000000 })

/-! ### Steps 2 to 4: firmware, host port, parameter store (15 R448, R454, 18 R500) -/

/-- Is a key kept by RESTORE_DEFAULTS (11 R350)? System values have keys from 2^24 on. -/
def keptKey (k : Nat) : Bool :=
  decide (2 ^ 24 ≤ k) || decide (k / 256 = 0x1001) || decide (k / 256 = 0x1020) || decide (k / 256 = 0x6000) || decide (k / 256 = 0x6001)

/-- RESTORE_DEFAULTS takes effect. -/
def State.restoreDefaults (s : State) : State :=
  if s.dict.restoreDef then
    s.upDict (fun d => { d with stored := d.stored.filter (fun e => keptKey e.1), restoreDef := false })
  else s

/-- A record that a raw write has left EMPTY: the entries stored in it take their defaults (18 R500). -/
def State.emptyRecord (s : State) (r : Nat) : State :=
  if (s.nvp.selected r).isSome then s
  else
    let hit (e : Nat × List Byte) : Bool := decide (Config.systemRecord e.1 % 768 = r)
    if s.dict.stored.any hit then
      (s.upDict (fun d => { d with stored := d.stored.filter (fun e => !hit e) })).occurSev 0x3008 r 3 []
    else s

/-- The stored entries as the parameter store gives them come into force, and with them the role (00 R1, 11 R325). -/
def State.loadStored (s : State) : State :=
  let s := s.restoreDefaults
  let s := (s.nvp.rawHit.foldl State.emptyRecord s).upNvp (fun n => { n with rawHit := [] })
  let n := getLE ((aget s.dict.stored keyRole).getD []) 0 1
  let s := (s.upDict (fun d => { d with force := d.stored })).upHost (fun h => { h with roleNext := n })
  s.upPwr (fun p => { p with role := if n = 1 then .station else if n = 2 then .replay else .controller })

/-- The errors that step 4's reads of the parameter store find; SUP0 makes them (01 R16, R17). -/
def State.startReads (s : State) (l : List Ecc) : State :=
  (l.filter (·.hard)).foldl (fun acc x => (acc.upMregs .sup0 (fun r => { r with nvpUncorr := true })).uncorrectable .param x.addr) (s.takeEcc l)

/-- Step 4: the page of the retained marker is visited; with no history, every page. READY is set. -/
def State.startNvp (s : State) (ecc : List Ecc) : State :=
  let s := s.startReads (ecc.filter (fun x => decide (x.mem = .param)))
  let s : State := match s.nvp.marker with
    | some (k, _) => (s.torn k).pageUncorr k
    | none => s
  let s := if s.nvp.history then s
    else (s.nvp.pages.filter (fun p => !p.2.bad.isEmpty)).foldl (fun (acc : State) p => (acc.torn p.1).pageUncorr p.1) s
  s.upNvp (fun n => { n with
    marker := none, ready := true, waxDone := if n.history then n.waxDone else s.otMs
    waxBegan := if n.history then n.waxBegan else s.otMs, history := true })

/-- Records given new SEQ values from `n` on. -/
def renumbered (n : Nat) : List Rec → List Rec
  | [] => []
  | r :: t => { r with seq := n % 2 ^ 32 } :: renumbered (n + 1) t

/-- The recorder builds its index: corrupt slots, which keep their SEQ where the index of the SUP domain still holds it and take a new one otherwise (log 59), and snapshots that were lost with VIN (13 R406, R409). Each master's EVR_CURSOR starts at the oldest SEQ (13 R412). -/
def State.startEvr (s : State) (corrupt : List Nat) : State :=
  let bad (r : Rec) : Bool := corrupt.contains r.seq
  let s := s.upEvr (fun e =>
    let lost := (if e.indexed then [] else e.recs.filter bad).map Rec.corrupted
    let kept := (e.recs.filter (fun r => e.indexed || !bad r)).map (fun r => if bad r then r.corrupted else r)
    { e with
      recs := (kept ++ renumbered e.nextSeq lost).map (fun r =>
        if r.snapPending then { r with snapPending := false, snapLost := true, snapWords := 0, snap := [] } else r)
      nextSeq := (e.nextSeq + lost.length) % 2 ^ 32, indexed := true })
  s.upHost (fun h => { h with regs := h.regs.map (fun r => { r with cursor := s.evr.oldest }) })

/-- SEQ of the records whose slots read uncorrectable as the index is built. -/
def State.badSlots (s : State) (l : List Ecc) : List Nat :=
  (l.filter (fun x => x.hard && decide (x.mem = .recorder))).filterMap (fun x => s.evr.recs[x.addr / 256]?.map Rec.seq)

/-- The errors that the index build finds: corrections count, an uncorrectable group has its record (01 R16, R17). -/
def State.indexReads (s : State) (l : List Ecc) : State :=
  l.foldl (fun acc x =>
    if x.mem ≠ .recorder then acc else if x.hard then acc.uncorrectable .recorder x.addr else acc.corrected .recorder x.addr) s

/-- Steps 2 to 4, and the record of a bank that a watchdog reset invalidated (13 R395). -/
def State.startSup (s : State) (env : StartEnv) : State :=
  let s := s.upHost (fun h => { h with ready := true })
  let s := s.upDict (fun d => { d with usbOff := d.fuses.getLsbD 3 })
  let s := match s.fw.invalidated with
    | some b => (s.occur 0x3007 b []).upFw (fun f => { f with invalidated := none })
    | none => s
  ((s.loadStored.indexReads env.ecc).startEvr (env.corrupt ++ s.badSlots env.ecc)).startNvp env.ecc

/-! ### Step 5: the stores (02 R58, R61, R70, 06 R190) -/

/-- Stored and in force, an entry is gone: it has its default again. -/
def State.dropEntry (s : State) (i sub : Nat) : State :=
  s.upDict (fun d => { d with stored := adel d.stored (entryKey i sub), force := adel d.force (entryKey i sub) })

/-- The journal holds no durable milestone that counts (07 R202, R220, 19 R520 code 3). -/
def State.noMilestone (s : State) : State :=
  (s.upSto (fun x => { x with durHdr := none, warm := false, msCount := 0, msDurable := 0, applied := [], appliedDur := [] })).upCsw (fun c =>
    { c with term := 0 })

/-- A pending image is installed, or is refused when P has changed since its check; whether one was installed. -/
def State.installPending (s : State) : State × Bool :=
  if s.ldr.state ≠ 5 ∨ s.pwr.role = .station then (s, false)
  else if (readImage s.ldr.staged).beatP ≠ s.inForce 0x4000 0 1000 then
    (s.upLdr (fun l => { l with state := 4, result := (LoadRes.fail 7).encode }), false)
  else ((s.placeImage s.ldr.staged).recap, true)

/-- An installation that a loss of power interrupts leaves no image (19 R520 code 4). -/
def State.installCut (s : State) : State :=
  (s.upSto (fun x => { x with program := [], warm := false })).upLdr (fun l => { l with
    img := none, digest := zeros 32, installing := true })

/-- The instance store at the declared initial values (02 R70). -/
def State.coldStore (s : State) (i : Image) : State :=
  let s := s.upSto (fun x => { x with lmem := i.initMem, durable := i.initMem, warm := false })
  let s := s.dropEntry 0x4003 0
  if s.inForce 0x6023 0 0 = 1 then (s.upCsw (fun c => { c with term := 0 })).dropEntry 0x6023 0 else s

/-- A NON_RETAIN range takes its declared initial values (02 R70; log 12). -/
def nonRetain (init m : Mem) (r : Nat × Nat) : Mem :=
  if r.1 + r.2 ≤ instSize then
    memPut (memClear m (instBase + r.1) (instBase + r.1 + r.2)) (instBase + r.1) (memBytes init (instBase + r.1) r.2)
  else m

/-- A warm start: the tasks as the last durable milestone gives them; each task's first release launches the outputs of its last durable run (02 R61, R70). -/
def State.warmStore (s : State) (i : Image) (ranges : List (Nat × Nat)) (m : Milestone) : State :=
  let s := s.upSto (fun x => { x with
    lmem := ranges.foldl (nonRetain i.initMem) x.lmem, durable := ranges.foldl (nonRetain i.initMem) x.durable })
  (s.applyWords m false).upTasks (·.map (fun t => { t with outRun := t.completed, pendingAt := none }))

/-- The powered beat count goes on from the last durable milestone (02 R72). -/
def State.poweredAt (s : State) : Nat := (s.sto.durHdr.map (fun m => m.powered)).getD 0

/-- A station holds no schedule image (01 R13). -/
def State.noImage (s : State) : State :=
  (s.upSto (fun x => { x with program := [], lmem := [], durable := [], warm := false })).upLdr (fun l => { l with img := none, digest := zeros 32 })

/-- Step 5 once the epoch records read well; none when an installation is cut. -/
def State.startStores (s : State) (env : StartEnv) : State :=
  let p := s.installPending
  let s := if p.1.pwr.role = .station then p.1.noImage else p.1
  let s := s.upClk (fun c => { c with powered := s.poweredAt })
  match s.ldr.img with
  | none => s
  | some i =>
    let s := s.upClu (fun u => { u with single := i.single })
    let cold := p.2 || !s.sto.warm || decide (s.inForce 0x4003 0 0 = 1)
    match s.sto.durHdr with
    | none => s.coldStore i
    | some m => if cold then s.coldStore i else s.warmStore i env.nonRetain m

/-! ### Step 6: the registers are loaded from the dictionary (11 R326) -/

/-- P, A and the lead (02 R33, R43, R51), and the reference (01 R20); the PTP clock unit starts with the NET domain, at 0 (12 R368). -/
def State.loadClk (s : State) (t1Lost : Bool) : State :=
  let sel := decide (s.inForce 0x2040 0 0 = 1)
  let s := s.upClk (fun c => { c with
    p := s.inForce 0x4000 0 1000, adv := s.inForce 0x4001 0 20, lead := s.inForce 0x4002 0 50, refT1 := sel && !t1Lost, ptpOff := -(c.now : Int), ptpServo := -(c.now : Int) })
  if sel && t1Lost then s.occur 0x3001 0 [] else s

/-- The field channels and groups (08 R267). -/
def State.loadFio (s : State) : State :=
  s.upFio (fun f => { f with
    chans := Vector.ofFn (fun (i : Fin 512) =>
      let k := 0x3000 + i.val
      { vget f.chans i.val Chan.reset with
        mode := s.inForce k 1 0, filter := s.inForce k 2 3000, safeVal := s.inForce k 3 0, openEn := decide (s.inForce k 4 1 ≠ 0) })
    groups := Vector.ofFn (fun (i : Fin 8) =>
      let k := 0x3400 + i.val
      { vget f.groups i.val FieldGroup.reset with used := decide (s.inForce k 1 1 ≠ 0), restore := decide (s.inForce k 2 0 ≠ 0) })
    timeout := s.inForce 0x3500 0 10, pendingCfg := false })

/-- One message buffer of port `n` (10 R320). With the port's Kivasel identifiers configured, buffer 62 receives and buffer 63 sends for the supervisor: matched exactly, in event mode with unlimited retries (10 R299, 11 R343). -/
def State.canBufOf (s : State) (n b : Nat) : CanBuf :=
  let k := 0x2900 + 64 * n + b
  let rx := s.inForce (0x2800 + n) 13 0xFFFFFFFF
  if b = 62 ∧ rx ≠ 0xFFFFFFFF then { CanBuf.reset with cfg := 0x9#32, fid := w32 rx &&& 0x3FFFFFFF, mask := 0x3FFFFFFF }
  else if b = 63 ∧ s.inForce (0x2800 + n) 14 0xFFFFFFFF ≠ 0xFFFFFFFF then { CanBuf.reset with cfg := 0x80A#32 }
  else { CanBuf.reset with
    cfg := w32 (s.inForce k 1 0) &&& 0x0007FFFF, fid := w32 (s.inForce k 2 0) &&& 0x3FFFFFFF
    mask := w32 (s.inForce k 3 0) &&& 0x3FFFFFFF, base := s.inForce k 4 0 }

/-- CTRL of port `n` as its entries give it. -/
def State.canCtrlOf (s : State) (n : Nat) : Word :=
  let e (sub d k : Nat) : Nat := k * bit (decide (s.inForce (0x2800 + n) sub d ≠ 0))
  w32 (bit (decide (s.inForce (0x2800 + n) 1 0 = 0)) + e 6 0 2 + e 5 1 4 + e 8 0 8 + e 7 1 16 + e 9 0 64 + e 11 0 128 + e 12 0 256)

/-- Port `n` (10 R315, R317, R320). -/
def State.canOf (s : State) (n : Nat) : Can :=
  let k := 0x2800 + n
  let cells := padTo 1024 ((aget s.dict.force (entryKey (0x2B00 + n) 65)).getD [])
  { vget s.can n Can.reset with
    bufs := Vector.ofFn (fun (i : Fin 64) => s.canBufOf n i.val)
    ctrl := s.canCtrlOf n, xcvr := decide (s.inForce k 1 0 ≠ 0)
    nbt := w32 (s.inForce k 2 0x078F3E00) &&& 0x3FFFFFFF, dbt := w32 (s.inForce k 3 0x03030E00) &&& 0x0F0F1F1F
    tdc := w32 (s.inForce k 4 0x00000F01) &&& 0x00007F01, ref := w32 (s.inForce k 10 0) &&& 0x3FFFFFFF
    gates := (List.range 64).foldl (fun acc g => aputd 0 acc g (w32 (s.inForce (0x2B00 + n) (g + 1) 0) &&& 0xBFFF)) []
    cells := (List.range 256).foldl (fun acc i => aputd 0 acc i (w32 (getLE cells (4 * i) 4) &&& 0xBFBFBFBF)) [] }

/-- The gates of port `n` no longer fit P: it does not enter gate mode, be GATE_EN set now or later, until a gate write that fits (10 R315). -/
def State.checkGates (s : State) (n : Nat) : State :=
  let c := s.canPort n
  if !gatesOk s.clk.p c.gates then (s.upCanPort n (fun c => { c with gateOff := true })).canCause n 11 0 else s

/-- A transmit block that no task's output set holds disables its buffer (10 R309). -/
def State.checkBlock (s : State) (n b : Nat) : State :=
  let x := (s.canPort n).buf b
  let held : Bool := match s.ldr.img with
    | some i => i.main.any (fun r => blockIn (i.rowOuts r) x)
    | none => false
  if x.dir = 2 ∧ x.owner = 1 ∧ !held then (s.upBuf n b (fun q => { q with disabled := true })).canCause n 11 b else s

/-- The CAN ports. -/
def State.loadCan (s : State) : State :=
  let s := s.upCan (fun _ => Vector.ofFn (fun (i : Fin 8) => s.canOf i.val))
  (List.range 8).foldl (fun (acc : State) n =>
    let acc := acc.checkGates n
    if acc.pwr.role = .station then acc else (List.range 64).foldl (fun (a : State) b => a.checkBlock n b) acc) s

/-- The parameter store's protection, the wax pass, the trim and the wake sources (15 R445, R457, 16 R477). -/
def State.loadAo (s : State) : State :=
  let s := s.upNvp (fun n =>
    if n.lockWl then { n with waxOn := decide (s.inForce 0x2101 0 1 ≠ 0) }
    else
      let k := decide (s.inForce 0x2100 2 0 ≠ 0)
      { n with prot := s.inForce 0x2100 1 0, lock := k, lockWl := k, waxOn := decide (s.inForce 0x2101 0 1 ≠ 0) })
  let s := s.setTrim (s.inForce 0x2200 0 32)
  let s := s.upRtc (fun r => { r with wakeEn := BitVec.ofNat 6 (s.inForce 0x2202 0 0 % 64) &&& 0x1B#6 ||| 0x04#6 })
  let k := s.inForce 0x2204 0 0
  if s.rtc.interval = k then s else s.setInterval k

/-- A waymark slot as its entries give it (13 R384). -/
def State.wayOf (s : State) (i : Nat) : WSlot :=
  let k := 0x5100 + i
  { WSlot.reset with
    owner := s.inForce k 1 0, number := s.inForce k 2 0, period := s.inForce k 3 1000, winOpen := s.inForce k 4 0 }

/-- Is a used slot left unused (13 R386): a task that does not exist or whose k × P does not divide its period, or an owner and number of a lower slot? -/
def State.wayBad (s : State) (w : WSlot) (lower : List WSlot) : Bool :=
  let k := match s.ldr.img with
    | some i => (i.main.find? (fun r => decide (r.task = w.number))).map (fun r => r.period)
    | none => none
  let off : Bool := match k with
    | some k => decide (w.period * 1000 % (k * s.clk.p) ≠ 0)
    | none => true
  decide (w.owner ≠ 0) && ((decide (w.owner = 1) && off) || lower.any (fun x => decide (x.owner = w.owner ∧ x.number = w.number)))

/-- The waymark slots; a slot left unused writes its record. -/
def State.loadWay (s : State) : State :=
  (List.range 32).foldl (fun (acc : State) i =>
    let w := acc.wayOf i
    if acc.wayBad w ((List.range i).map acc.wayOf) then (acc.upWslot i (fun _ => { w with owner := 0 })).occur 0x3006 i []
    else acc.upWslot i (fun _ => w)) s

/-- The sources routed to the host (12 R379). -/
def State.loadRoutes (s : State) : State :=
  let v := getLE ((aget s.dict.force (entryKey 0x2020 0)).getD (leBytes 2 0x0C37)) 0 32
  s.upHost (fun h => { h with routes := (List.range 256).foldl (fun acc n =>
    if v.testBit n && sourceUsed n then aput n (h.route n ||| 8) acc else acc) h.routes })

/-- Step 6: every register that an entry sets, and the domains of the role. -/
def State.loadAll (s : State) (env : StartEnv) : State :=
  let s := s.upPwr (fun p => { p with domains := if p.role = .station then 0xFC3#12 else 0xFFF#12 })
  let s := ((((s.loadClk env.t1Lost).loadFio.groupsQualified env.groups).loadCan).loadAo.loadWay).loadRoutes
  let s := s.upEvr (fun e => { e with level := s.inForce 0x5001 0 3 })
  let s := (s.upMet (fun m => { m with base := s.inForce 0x2300 0 0xFFFFFFFF })).upTrc (fun q => { q with
    streaming := decide (s.inForce 0x5305 1 0 ≠ 0) })
  s.recap.metUp env.sealed

/-! ### Step 7: the role (07 R199, R209, 19 R519) -/

/-- The terms that configured stations report during the start-up (07 R203). -/
def State.heardTerms (s : State) (terms : List Nat) : State :=
  s.upNet (fun n => { n with slots := n.slots.mapIdx (fun i x =>
    if s.slotNode i = 0xFFFF then x else { x with accTerm := terms[i]?.getD 0 % 65536 }) })

/-- A SOLO controller governs at once, a pair member negotiates, a station or a bench unit has no causeway. -/
def State.startRole (s : State) (terms : List Nat) : State :=
  if s.pwr.role ≠ .controller then
    (s.upCsw (fun c => { c with role := .solo, pair := false, dark := true, term := 0 })).finishStart
  else if s.inForce 0x6000 0 0 = 1 then
    let s := (s.heardTerms terms).upCsw (fun c => { c with
      pair := true, role := .negotiating, dark := false, negSince := s.clk.now, negHeard := false
      cwaMaster := decide (s.node < s.partnerNode) })
    if 0xFF00 ≤ s.csw.term then s.cswCause 12 else s
  else (((s.heardTerms terms).govern .solo 0 0).upCsw (fun c => { c with storeComplete := c.storeComplete || decide (c.role = .solo) })).finishStart

/-! ### The whole start-up -/

/-- Steps 5 to 7 after the check of the epoch records; what stops them is the stop of R520. Without MEM no store is read or written. -/
def State.startRest (s : State) (env : StartEnv) : State :=
  if env.domainBad = some 6 then s.stopStart 2 6 6
  else if env.installCut ∧ s.ldr.state = 5 ∧ s.pwr.role ≠ .station then s.installCut.powerOff [] false false
  else
    let s := (s.upPwr (fun p => { p with domains := p.domains ||| 0x040#12 })).startStores env
    let late := env.domainBad.filter (fun d => decide (2 ≤ d ∧ s.pwr.role ≠ .station) || decide (6 ≤ d))
    if s.pwr.role = .controller ∧ s.ldr.img.isNone then s.stopStart 4 5 (bit s.ldr.installing)
    else if late.isSome then s.stopStart 2 6 (late.getD 0)
    else
      let s := s.loadAll env
      if s.pwr.role ≠ .station ∧ s.ldr.img.any (fun i => decide (i.beatP ≠ s.clk.p)) then s.stopStart 5 6 0 else s.startRole env.terms

/-- Steps 2 to 7. -/
def State.startFrom (s : State) (env : StartEnv) : State :=
  let s := (s.fwReads env.ecc).bootBanks env.signed
  if env.domainBad = some 0 ∨ env.domainBad = some 1 then
    s.upPwr (fun p => { p with stopped := true, domains := 0x001#12 })
  else if s.fw.active.isNone then
    ((s.upHost (fun h => { h with ready := true })).upDict (fun d => { d with usbOff := d.fuses.getLsbD 3 })).stopStart 1 2 0
  else
    let s := s.startSup env
    let s := if s.csw.storeComplete then s else s.noMilestone
    match env.epochBad with
    | none => s.startRest env
    | some (d, a) =>
      let s := s.uncorrectable (if d = 0 then .program else .inst) a
      if s.inForce 0x4003 0 0 = 1 then s.noMilestone.startRest env else s.stopStart 3 5 d

/-- The start-up that a reference of R517 brings about: the temperature may hold it at its first step. -/
def State.startUp (s : State) (env : StartEnv) : State :=
  if !s.mayStart env then s
  else if s.pwr.ref ≠ .deviceReset ∧ !tempOk env.temp then
    s.upPwr (fun p => { p with thermalHold := true, temp := env.temp, aoRunning := true })
  else (s.startAo env).startFrom env

/-- A start-up that waits for VIN (19 R520 code 6) resumes at step 9. -/
def State.resumeStart (s : State) (env : StartEnv) : State :=
  if s.pwr.stopped ∧ byteAt s.pwr.report 0 = 6 ∧ 10000 ≤ env.vinMv then
    (s.upPwr (fun p => { p with vinMv := env.vinMv })).finishStart
  else s

/-! ### Meanings -/

/-- START_UP (19 R518 to R521): `env` holds what the surroundings settle (log 18). -/
def execStartUp (env : StartEnv) (s : State) : Host.Outcome State Fault Refusal := commit s (s.startUp env)

/-- START_RESUME_AFTER_VIN (19 R520 code 6): VIN has stood at or above 10 V for 1 s. -/
def execStartResumeAfterVin (env : StartEnv) (s : State) : Host.Outcome State Fault Refusal := commit s (s.resumeStart env)

end Sys2Proof.Machine
end

