-- ==== Sys2Proof/Machine/Dispatch.lean ====
section
/-! DEFINITION. exec: one arm per command, each one direct call of that command's meaning. -/

namespace Sys2Proof.Machine

open Sys2Proof

/-- The effect of a command on everything but the queue. -/
def exec (i : Instr) (s : State) : Host.Outcome State Fault Refusal :=
  match i with
  | .beatBoundary t traceLate => Sys2Proof.Machine.execBeatBoundary t traceLate s
  | .runStart lset => Sys2Proof.Machine.execRunStart lset s
  | .bundleIssue lane ecc upset => Sys2Proof.Machine.execBundleIssue lane ecc upset s
  | .resultLanding lane => Sys2Proof.Machine.execResultLanding lane s
  | .controlTransfer lane => Sys2Proof.Machine.execControlTransfer lane s
  | .repIteration lane ecc upset => Sys2Proof.Machine.execRepIteration lane ecc upset s
  | .stringIteration lane ecc => Sys2Proof.Machine.execStringIteration lane ecc s
  | .recordWriteback lane upset => Sys2Proof.Machine.execRecordWriteback lane upset s
  | .runCompletion lset t => Sys2Proof.Machine.execRunCompletion lset t s
  | .milestoneDurable t => Sys2Proof.Machine.execMilestoneDurable t s
  | .settleDone t => Sys2Proof.Machine.execSettleDone t s
  | .faultClear task => Sys2Proof.Machine.execFaultClear task s
  | .imageLoadSegment off data last => Sys2Proof.Machine.execImageLoadSegment off data last s
  | .loadCmdCheck => Sys2Proof.Machine.execLoadCmdCheck s
  | .loadCheckDone => Sys2Proof.Machine.execLoadCheckDone s
  | .loadCmdInstall => Sys2Proof.Machine.execLoadCmdInstall s
  | .loadCmdDiscard => Sys2Proof.Machine.execLoadCmdDiscard s
  | .swapReady ecc => Sys2Proof.Machine.execSwapReady ecc s
  | .enterReduced t => Sys2Proof.Machine.execEnterReduced t s
  | .returnToRun t => Sys2Proof.Machine.execReturnToRun t s
  | .heartbeatSend t => Sys2Proof.Machine.execHeartbeatSend t s
  | .heartbeatReceive lane t frame env => Sys2Proof.Machine.execHeartbeatReceive lane t frame env s
  | .heartbeatLost t => Sys2Proof.Machine.execHeartbeatLost t s
  | .laneDown lane => Sys2Proof.Machine.execLaneDown lane s
  | .cwaCycle t burst => Sys2Proof.Machine.execCwaCycle t burst s
  | .cwaMasterTakeover => Sys2Proof.Machine.execCwaMasterTakeover s
  | .negotiateSend t => Sys2Proof.Machine.execNegotiateSend t s
  | .negotiateReceive lane t frame env => Sys2Proof.Machine.execNegotiateReceive lane t frame env s
  | .negotiationTimeout t => Sys2Proof.Machine.execNegotiationTimeout t s
  | .milestoneTransfer => Sys2Proof.Machine.execMilestoneTransfer s
  | .causewayTransferDone => Sys2Proof.Machine.execCausewayTransferDone s
  | .streamReceive lane t frame env => Sys2Proof.Machine.execStreamReceive lane t frame env s
  | .resendTimeout => Sys2Proof.Machine.execResendTimeout s
  | .bulkSend n => Sys2Proof.Machine.execBulkSend n s
  | .failReceive lane t frame env => Sys2Proof.Machine.execFailReceive lane t frame env s
  | .takeoverExecute t => Sys2Proof.Machine.execTakeoverExecute t s
  | .termConfirmTimeout t => Sys2Proof.Machine.execTermConfirmTimeout t s
  | .swapDrillCmd m t => Sys2Proof.Machine.execSwapDrillCmd m t s
  | .programSwapCmd m t => Sys2Proof.Machine.execProgramSwapCmd m t s
  | .abandonSwapCmd m => Sys2Proof.Machine.execAbandonSwapCmd m s
  | .handoverReceive lane t frame env => Sys2Proof.Machine.execHandoverReceive lane t frame env s
  | .handoverGoSend t => Sys2Proof.Machine.execHandoverGoSend t s
  | .handoverGoReceive lane t frame env => Sys2Proof.Machine.execHandoverGoReceive lane t frame env s
  | .handoverDriversOff t => Sys2Proof.Machine.execHandoverDriversOff t s
  | .drillDue t => Sys2Proof.Machine.execDrillDue t s
  | .rawSample t pins supply current => Sys2Proof.Machine.execRawSample t pins supply current s
  | .groupQualified g => Sys2Proof.Machine.execGroupQualified g s
  | .grpOvercurrent g => Sys2Proof.Machine.execGrpOvercurrent g s
  | .grpAck m mask => Sys2Proof.Machine.execGrpAck m mask s
  | .thermalTrip c => Sys2Proof.Machine.execThermalTrip c s
  | .thermalCooled c => Sys2Proof.Machine.execThermalCooled c s
  | .overloadClear c => Sys2Proof.Machine.execOverloadClear c s
  | .openLoadDetect c => Sys2Proof.Machine.execOpenLoadDetect c s
  | .openLoadClear c => Sys2Proof.Machine.execOpenLoadClear c s
  | .staggeredSwitchOn c t => Sys2Proof.Machine.execStaggeredSwitchOn c t s
  | .logicSilenceExpiry => Sys2Proof.Machine.execLogicSilenceExpiry s
  | .ethLinkChange port up => Sys2Proof.Machine.execEthLinkChange port up s
  | .prpSupervisionSend pair => Sys2Proof.Machine.execPrpSupervisionSend pair s
  | .ptpMessageReceive port t domain udp msg => Sys2Proof.Machine.execPtpMessageReceive port t domain udp msg s
  | .announceReceiptTimeout t => Sys2Proof.Machine.execAnnounceReceiptTimeout t s
  | .ptpSyncSend port t => Sys2Proof.Machine.execPtpSyncSend port t s
  | .ppsInEdge offset => Sys2Proof.Machine.execPpsInEdge offset s
  | .refLost => Sys2Proof.Machine.execRefLost s
  | .stationInputSend t => Sys2Proof.Machine.execStationInputSend t s
  | .stationInputReceive port t frame => Sys2Proof.Machine.execStationInputReceive port t frame s
  | .outputFrameReceive port t frame => Sys2Proof.Machine.execOutputFrameReceive port t frame s
  | .termClaimReceive port t frame => Sys2Proof.Machine.execTermClaimReceive port t frame s
  | .statusReceive port t frame => Sys2Proof.Machine.execStatusReceive port t frame s
  | .keepAliveSend t => Sys2Proof.Machine.execKeepAliveSend t s
  | .warmStartFrames t => Sys2Proof.Machine.execWarmStartFrames t s
  | .ackWaitExpiry t => Sys2Proof.Machine.execAckWaitExpiry t s
  | .txLateDrop t => Sys2Proof.Machine.execTxLateDrop t s
  | .readmitAck slot t => Sys2Proof.Machine.execReadmitAck slot t s
  | .canFrameReceived n t frame => Sys2Proof.Machine.execCanFrameReceived n t frame s
  | .canWindowRead m n w => Sys2Proof.Machine.execCanWindowRead m n w s
  | .canFifoRead m n w => Sys2Proof.Machine.execCanFifoRead m n w s
  | .canLockTimeout n fifo => Sys2Proof.Machine.execCanLockTimeout n fifo s
  | .canBufselWrite m n v => Sys2Proof.Machine.execCanBufselWrite m n v s
  | .canTxreq m n v => Sys2Proof.Machine.execCanTxreq m n v s
  | .canTxabort m n v => Sys2Proof.Machine.execCanTxabort m n v s
  | .canTxStart n t => Sys2Proof.Machine.execCanTxStart n t s
  | .canTxEnd n t => Sys2Proof.Machine.execCanTxEnd n t s
  | .canTxError n lec data arbitration ack stuff dom => Sys2Proof.Machine.execCanTxError n lec data arbitration ack stuff dom s
  | .canRecover m n => Sys2Proof.Machine.execCanRecover m n s
  | .canRecoveryEnd n => Sys2Proof.Machine.execCanRecoveryEnd n s
  | .canInitWrite m n v => Sys2Proof.Machine.execCanInitWrite m n v s
  | .canBusIntegration n => Sys2Proof.Machine.execCanBusIntegration n s
  | .gateWindowOpen n gate t => Sys2Proof.Machine.execGateWindowOpen n gate t s
  | .gateWindowClose n t => Sys2Proof.Machine.execGateWindowClose n t s
  | .canWakePattern => Sys2Proof.Machine.execCanWakePattern s
  | .kivaselUdpReceive ip port t bytes => Sys2Proof.Machine.execKivaselUdpReceive ip port t bytes s
  | .kivaselCanSegment n t bytes => Sys2Proof.Machine.execKivaselCanSegment n t bytes s
  | .kivaselCanSegmentTimeout n => Sys2Proof.Machine.execKivaselCanSegmentTimeout n s
  | .kivaselUsbTransfer t bytes => Sys2Proof.Machine.execKivaselUsbTransfer t bytes s
  | .odxGo m t => Sys2Proof.Machine.execOdxGo m t s
  | .odxAck m => Sys2Proof.Machine.execOdxAck m s
  | .kOpen t => Sys2Proof.Machine.execKOpen t s
  | .kClose t => Sys2Proof.Machine.execKClose t s
  | .kChallenge t => Sys2Proof.Machine.execKChallenge t s
  | .kLogin t => Sys2Proof.Machine.execKLogin t s
  | .loginLockoutEnd chan => Sys2Proof.Machine.execLoginLockoutEnd chan s
  | .kRead t ecc => Sys2Proof.Machine.execKRead t ecc s
  | .kReadMulti t ecc => Sys2Proof.Machine.execKReadMulti t ecc s
  | .kDescribe t => Sys2Proof.Machine.execKDescribe t s
  | .kWrite t => Sys2Proof.Machine.execKWrite t s
  | .batchOpen t => Sys2Proof.Machine.execBatchOpen t s
  | .batchAdd t => Sys2Proof.Machine.execBatchAdd t s
  | .batchCommit t => Sys2Proof.Machine.execBatchCommit t s
  | .batchStatus t => Sys2Proof.Machine.execBatchStatus t s
  | .batchDiscard t => Sys2Proof.Machine.execBatchDiscard t s
  | .sessionTimeout id t => Sys2Proof.Machine.execSessionTimeout id t s
  | .batchIdleTimeout id t => Sys2Proof.Machine.execBatchIdleTimeout id t s
  | .accessKeyWrite t => Sys2Proof.Machine.execAccessKeyWrite t s
  | .fuseBlow t => Sys2Proof.Machine.execFuseBlow t s
  | .fuseBlowEnd => Sys2Proof.Machine.execFuseBlowEnd s
  | .restoreDefaults t => Sys2Proof.Machine.execRestoreDefaults t s
  | .publishMapSegment off data last => Sys2Proof.Machine.execPublishMapSegment off data last s
  | .hostRead cmd addr n => Sys2Proof.Machine.execHostRead cmd addr n s
  | .hostWrite cmd addr words => Sys2Proof.Machine.execHostWrite cmd addr words s
  | .hostStatus cmd n => Sys2Proof.Machine.execHostStatus cmd n s
  | .hostStallViolation => Sys2Proof.Machine.execHostStallViolation s
  | .hostAccessTimeout write => Sys2Proof.Machine.execHostAccessTimeout write s
  | .unlockChallenge m => Sys2Proof.Machine.execUnlockChallenge m s
  | .unlockGo m => Sys2Proof.Machine.execUnlockGo m s
  | .unlockLock m => Sys2Proof.Machine.execUnlockLock m s
  | .hostLockoutEnd => Sys2Proof.Machine.execHostLockoutEnd s
  | .registerWrite m addr v => Sys2Proof.Machine.execRegisterWrite m addr v s
  | .rclRead m addr => Sys2Proof.Machine.execRclRead m addr s
  | .mbxSelWrite m v => Sys2Proof.Machine.execMbxSelWrite m v s
  | .mbxLatch m t => Sys2Proof.Machine.execMbxLatch m t s
  | .mbxDataRead m k => Sys2Proof.Machine.execMbxDataRead m k s
  | .intClaim m => Sys2Proof.Machine.execIntClaim m s
  | .intTake m n => Sys2Proof.Machine.execIntTake m n s
  | .intDone m v => Sys2Proof.Machine.execIntDone m v s
  | .intRouteWrite m n v => Sys2Proof.Machine.execIntRouteWrite m n v s
  | .sysReset m v => Sys2Proof.Machine.execSysReset m v s
  | .roleNextWrite m v => Sys2Proof.Machine.execRoleNextWrite m v s
  | .hostCheckin m t v => Sys2Proof.Machine.execHostCheckin m t v s
  | .serviceCheckin service t => Sys2Proof.Machine.execServiceCheckin service t s
  | .waymarkPeriodEnd slot t => Sys2Proof.Machine.execWaymarkPeriodEnd slot t s
  | .watchdogResetExecute t => Sys2Proof.Machine.execWatchdogResetExecute t s
  | .clrResets m v => Sys2Proof.Machine.execClrResets m v s
  | .recordWrite t => Sys2Proof.Machine.execRecordWrite t s
  | .evrWin0Read m ecc => Sys2Proof.Machine.execEvrWin0Read m ecc s
  | .evrWin63Read m => Sys2Proof.Machine.execEvrWin63Read m s
  | .eventClear m v => Sys2Proof.Machine.execEventClear m v s
  | .eventClearDone => Sys2Proof.Machine.execEventClearDone s
  | .anchorRequestInterval t => Sys2Proof.Machine.execAnchorRequestInterval t s
  | .anchorCmd m => Sys2Proof.Machine.execAnchorCmd m s
  | .anchorCopyComplete => Sys2Proof.Machine.execAnchorCopyComplete s
  | .anchorMissed => Sys2Proof.Machine.execAnchorMissed s
  | .freeze m => Sys2Proof.Machine.execFreeze m s
  | .ringFrozen => Sys2Proof.Machine.execRingFrozen s
  | .unfreeze m => Sys2Proof.Machine.execUnfreeze m s
  | .streamDatagramSend ecc => Sys2Proof.Machine.execStreamDatagramSend ecc s
  | .replayLoadSegment off data last => Sys2Proof.Machine.execReplayLoadSegment off data last s
  | .replayStart => Sys2Proof.Machine.execReplayStart s
  | .replayStop => Sys2Proof.Machine.execReplayStop s
  | .replayDiscard => Sys2Proof.Machine.execReplayDiscard s
  | .nvpRecordRead m ecc => Sys2Proof.Machine.execNvpRecordRead m ecc s
  | .nvpRecordWrite m => Sys2Proof.Machine.execNvpRecordWrite m s
  | .nvpRawRead m ecc => Sys2Proof.Machine.execNvpRawRead m ecc s
  | .nvpRawWrite m => Sys2Proof.Machine.execNvpRawWrite m s
  | .nvpRawErase m => Sys2Proof.Machine.execNvpRawErase m s
  | .pageStepDone bad => Sys2Proof.Machine.execPageStepDone bad s
  | .waxPassVisit weak ecc => Sys2Proof.Machine.execWaxPassVisit weak ecc s
  | .waxPassBegin t => Sys2Proof.Machine.execWaxPassBegin t s
  | .waxLate t => Sys2Proof.Machine.execWaxLate t s
  | .clrCorr m => Sys2Proof.Machine.execClrCorr m s
  | .fwImageSegment off data last => Sys2Proof.Machine.execFwImageSegment off data last s
  | .fwVerifyDone signed ecc => Sys2Proof.Machine.execFwVerifyDone signed ecc s
  | .fwCmdAbandon => Sys2Proof.Machine.execFwCmdAbandon s
  | .calendarTick => Sys2Proof.Machine.execCalendarTick s
  | .periodicWake => Sys2Proof.Machine.execPeriodicWake s
  | .oscStop => Sys2Proof.Machine.execOscStop s
  | .snapshotTake m => Sys2Proof.Machine.execSnapshotTake m s
  | .calendarSetGo m => Sys2Proof.Machine.execCalendarSetGo m s
  | .calendarNowRead => Sys2Proof.Machine.execCalendarNowRead s
  | .shiftStart m v => Sys2Proof.Machine.execShiftStart m v s
  | .parkRequest m v => Sys2Proof.Machine.execParkRequest m v s
  | .parkCommitEdge => Sys2Proof.Machine.execParkCommitEdge s
  | .hostWakePin => Sys2Proof.Machine.execHostWakePin s
  | .wakeFrameReceive bytes => Sys2Proof.Machine.execWakeFrameReceive bytes s
  | .vinReturn => Sys2Proof.Machine.execVinReturn s
  | .powerCycleRecord t => Sys2Proof.Machine.execPowerCycleRecord t s
  | .metPowerUp closed => Sys2Proof.Machine.execMetPowerUp closed s
  | .clockPlausibilityFault on => Sys2Proof.Machine.execClockPlausibilityFault on s
  | .bridgeSample c t raw supply sense => Sys2Proof.Machine.execBridgeSample c t raw supply sense s
  | .noZeroTimeout c t => Sys2Proof.Machine.execNoZeroTimeout c t s
  | .pulseEdge q t => Sys2Proof.Machine.execPulseEdge q t s
  | .pulseRecordPublish q t => Sys2Proof.Machine.execPulseRecordPublish q t s
  | .excitationFault on => Sys2Proof.Machine.execExcitationFault on s
  | .sealChange closed => Sys2Proof.Machine.execSealChange closed s
  | .adjSetEntry bytes => Sys2Proof.Machine.execAdjSetEntry bytes s
  | .adjCaptureZero bytes => Sys2Proof.Machine.execAdjCaptureZero bytes s
  | .adjCaptureSpan bytes => Sys2Proof.Machine.execAdjCaptureSpan bytes s
  | .adjNoChange bytes => Sys2Proof.Machine.execAdjNoChange bytes s
  | .telegramGapTimeout => Sys2Proof.Machine.execTelegramGapTimeout s
  | .metAliveTimeout t => Sys2Proof.Machine.execMetAliveTimeout t s
  | .metRecordRead m off => Sys2Proof.Machine.execMetRecordRead m off s
  | .startUp env => Sys2Proof.Machine.execStartUp env s
  | .startResumeAfterVin env => Sys2Proof.Machine.execStartResumeAfterVin env s
  | .vinLoss cut headErased => Sys2Proof.Machine.execVinLoss cut headErased s
  | .overvoltage cut headErased => Sys2Proof.Machine.execOvervoltage cut headErased s
  | .backplateTempReport temp cut headErased => Sys2Proof.Machine.execBackplateTempReport temp cut headErased s
  | .thermalRestart => Sys2Proof.Machine.execThermalRestart s
  | .vbakLow => Sys2Proof.Machine.execVbakLow s
  | .vinLow => Sys2Proof.Machine.execVinLow s
  | .canReceiveError n exempt dom lec data => Sys2Proof.Machine.execCanReceiveError n exempt dom lec data s
  | .arpIcmpEchoRequest port frame => Sys2Proof.Machine.execArpIcmpEchoRequest port frame s
  | .vbakReturn => Sys2Proof.Machine.execVbakReturn s
  | .startUpTemperatureHoldEnd temp => Sys2Proof.Machine.execStartUpTemperatureHoldEnd temp s
  | .ppsOutPulse => Sys2Proof.Machine.execPpsOutPulse s
  | .fwBankStepDone ok => Sys2Proof.Machine.execFwBankStepDone ok s
  | .ptpAnnounceSend port => Sys2Proof.Machine.execPtpAnnounceSend port s
  | .ptpDelayRequestSend port => Sys2Proof.Machine.execPtpDelayRequestSend port s

end Sys2Proof.Machine
end

