-- ==== Sys2Proof/Machine/Step.lean ====
section
/-! DEFINITION. One step: the command at the front of the queue has its effect; on an empty queue the block idles. -/

namespace Sys2Proof.Machine

open Sys2Proof

/-- One step of the block (log 3): the command at the front of the queue runs with the rest of the queue; with none waiting nothing changes. -/
def step (s : State) : Host.Outcome State Fault Refusal :=
  match s.pending with
  | [] => .next s
  | c :: rest => exec c (s.upPending (fun _ => rest))

/-- The command that a word of the opcode table spells, put at the front of the queue; the table gives its rows no bits, so no word spells one. -/
def State.withFetchWord (s : State) (nbits w : Nat) : State :=
  match decodeTableWord nbits w with
  | some c => s.upPending (fun q => c :: q)
  | none => s

end Sys2Proof.Machine
end

