-- ==== Sys2Proof/Safety.lean ====
section
/-! DEFINITION. What counts as a regular state, and what a run may never lose: the terms in which claims about every step are stated. -/

set_option Elab.async false

namespace Sys2Proof.Machine

open Sys2Proof

/-- The memories of the stores are in canonical form (log 2): program, live L map, durable L map, latched input view, launched outputs. -/
structure Store.wf (x : Store) : Prop where
  program : x.program.wf = true
  lmem : x.lmem.wf = true
  durable : x.durable.wf = true
  inView : x.inView.wf = true
  launched : x.launched.wf = true

/-- No interrupt counter lies above 255 (12 R375). -/
def HostSt.countsOk (h : HostSt) : Prop := ∀ c ∈ h.counts, c.2 ≤ 255

/-- A regular state: memories in canonical form (those of the stores and the converted state of a swap), at most 64 occurrences in the recorder's queue (13 R403), interrupt counters within their byte (12 R375), at most 1024 entries in the audit trail (17 R487). -/
structure State.regular (s : State) : Prop where
  sto : s.sto.wf
  conv : s.ldr.conv.wf = true
  queue : s.evr.queue.length ≤ 64
  counts : s.host.countsOk
  audit : s.met.audit.length ≤ 1024

/-- The sealed entries of a channel (17 R492). -/
def MetChan.cal (c : MetChan) : (Bool × Bool × Nat × Nat) × (Int × Int × Int × Nat × Bool) :=
  ((c.enable, c.sixWire, c.maxE, c.eMant), (c.eExp, c.zero, c.span, c.rate, c.zeroTrack))

/-- The sealed entries of channel `c` of the partition. -/
def Met.cal (m : Met) (c : Nat) : (Bool × Bool × Nat × Nat) × (Int × Int × Int × Nat × Bool) :=
  (vget m.chans c MetChan.reset).cal

/-! ### What a command leaves alone -/

/-- A set of parts of the state, by the chapters that give them. -/
structure Parts where
  /-- beats, PTP and the reference -/
  clk : Bool := false
  /-- execution cluster -/
  clu : Bool := false
  /-- tasks -/
  tasks : Bool := false
  /-- stores, milestones and batches -/
  sto : Bool := false
  /-- loader -/
  ldr : Bool := false
  /-- causeway and role -/
  csw : Bool := false
  /-- field channels -/
  fio : Bool := false
  /-- plant network -/
  net : Bool := false
  /-- CAN ports -/
  can : Bool := false
  /-- dictionary and Kivasel -/
  dict : Bool := false
  /-- host port, mailbox, interrupts and SYS -/
  host : Bool := false
  /-- SYS_ROLE.NEXT, the one field of the register block that a start-up reads -/
  role : Bool := false
  /-- waymarks -/
  wdg : Bool := false
  /-- recorder -/
  evr : Bool := false
  /-- trace and replay -/
  trc : Bool := false
  /-- parameter store -/
  nvp : Bool := false
  /-- firmware banks -/
  fw : Bool := false
  /-- calendar and retained counters -/
  rtc : Bool := false
  /-- power states and start-up -/
  pwr : Bool := false
  /-- metrology partition -/
  met : Bool := false
  /-- the number of free values used -/
  free : Bool := false
  deriving DecidableEq, Repr

/-- Every part: a frame over it says only that the queue of commands stays. -/
def Parts.all : Parts where
  clk := true
  clu := true
  tasks := true
  sto := true
  ldr := true
  csw := true
  fio := true
  net := true
  can := true
  dict := true
  host := true
  role := true
  wdg := true
  evr := true
  trc := true
  nvp := true
  fw := true
  rtc := true
  pwr := true
  met := true
  free := true

/-- Every part outside `L` is the same in `t` as in `s`, and so is the queue of commands. The interrupt counters stand apart: they count the edges that any command makes (12 R375). -/
structure Frame (L : Parts) (s t : State) : Prop where
  clk : L.clk = false → t.clk = s.clk
  clu : L.clu = false → t.clu = s.clu
  tasks : L.tasks = false → t.tasks = s.tasks
  sto : L.sto = false → t.sto = s.sto
  ldr : L.ldr = false → t.ldr = s.ldr
  csw : L.csw = false → t.csw = s.csw
  fio : L.fio = false → t.fio = s.fio
  net : L.net = false → t.net = s.net
  can : L.can = false → t.can = s.can
  dict : L.dict = false → t.dict = s.dict
  host : L.host = false → { t.host with counts := s.host.counts } = s.host
  role : L.role = false → t.host.roleNext = s.host.roleNext
  wdg : L.wdg = false → t.wdg = s.wdg
  evr : L.evr = false → t.evr = s.evr
  trc : L.trc = false → t.trc = s.trc
  nvp : L.nvp = false → t.nvp = s.nvp
  fw : L.fw = false → t.fw = s.fw
  rtc : L.rtc = false → t.rtc = s.rtc
  pwr : L.pwr = false → t.pwr = s.pwr
  met : L.met = false → t.met = s.met
  free : L.free = false → t.free = s.free
  pending : t.pending = s.pending

/-! ### A lane by itself -/

/-- Lane `l` executes the run `run` of task `t` by itself: no comparator runs beside it, and nothing of it waits or is in flight. -/
structure State.Alone (s : State) (l t : Nat) (run : Run) : Prop where
  single : s.clu.single = true
  going : s.clu.stopped = false
  lane : l < 8
  task : (s.lane l).task = some t
  run : (s.task t).run = some run
  ended : (s.lane l).ended = false
  dead : (s.lane l).dead = false
  xfer : (s.lane l).xfer = none
  wb : (s.lane l).wb = []
  inflight : (s.lane l).inflight = []

end Sys2Proof.Machine
end

