-- ==== Sys2Proof/Certificates/Slice0/Obligations.lean ====
section
/-! DEFINITION. The statements for the provers, chapter by chapter of the spec. Each says in its docstring which rules or sections it formalises. -/

set_option Elab.async false

open Sys2Proof Sys2Proof.Machine

/-- BEAT_BOUNDARY at an instant while beats may run, with no replay and no Parked request: the beats run, the beat begins at that instant, the powered beat count advances by one, and the beat number is 0 at the first boundary of a start-up and one more than before at every later one, unless the numbering changes: that happens at the boundary after one found aligned, which is one within 200 ns of a multiple of the beat period on the PTP clock, found in free-running numbering and locked, when the unit is locked and still in free-running numbering; then the number is the PTP clock divided by the beat period, rounded to the nearest, and the PTP numbering holds from then on. It holds in every role that runs beats, the station's beat timer included. The image, the loader, the firmware banks and the metrology partition stay. While beats may not run (before start-up, stopped, halted, FAILED, negotiating, Parked) only the time advances. (R35; R36; R72; R40; R14; 02_beats_tasks_milestones.md, The system beat) -/
def Obligations.BeatBoundariesAdvanceTheBeat : Prop :=
  ∀ (s : State) (t0 : Nat) (late : Bool),
    (∀ pn q, pn = ((max s.clk.now t0 : Nat) + s.clk.scale (max s.clk.now t0)).toNat → q = 1000 * s.clk.p → s.beatsMayRun = true → s.replaying = false → s.pwr.parkReq = 0 → ∃ t, exec (.beatBoundary t0 late) s = .next t ∧
      t.clk.running = true ∧ t.clk.beatAt = t0 ∧ t.clk.now = max s.clk.now t0 ∧ t.clk.powered = s.clk.powered + 1 ∧
      t.clk.ptpNum = (s.clk.ptpNum || (s.clk.alignedPrev && s.isLocked)) ∧
      t.clk.beat = (if !s.clk.ptpNum && s.clk.alignedPrev && s.isLocked then
          (pn + q / 2) / q
        else if s.clk.running then s.clk.beat + 1 else 0) ∧
      t.clk.alignedPrev = (decide (pn % q ≤ 200 ∨ q ≤ pn % q + 200) && !(s.clk.ptpNum || (s.clk.alignedPrev && s.isLocked)) && s.isLocked) ∧
      Frame { clk := true, clu := true, tasks := true, sto := true, csw := true, fio := true, net := true, can := true, dict := true, host := true, wdg := true, evr := true, trc := true, nvp := true, rtc := true, pwr := true } s t) ∧
    (s.beatsMayRun = false → ∃ t, exec (.beatBoundary t0 late) s = .next t ∧ t.clk = { s.clk with now := max s.clk.now t0 } ∧ Frame { clk := true } s t)

/-- The acts that every boundary of an executing unit takes, as operations on the state. The close decision: where a milestone closes, the milestone counter advances by exactly one and the milestone carries the new value, merged or not; where none closes, counter, journal and open half stay and the merge counter advances by one, holding at its maximum. Where the volume fits and the other half is free, a milestone closes: it joins the journal, the closed half waits for its journal write, and the other half opens empty at the present beat with the older values that runs still rely on. A release of a due task that is neither faulted nor running latches the input view, the live memory, the powered beat count as release index and the FIRST flag into a new run that joins its lane set's queue; a task still running keeps its run, and its overrun counter advances by one; a faulted one is left. A launch applies the task's output set and leaves it no longer pending. (R53; R55; R66; R39; R45; R63; R73; R50; 02_beats_tasks_milestones.md, Task runs and what they see) -/
def Obligations.TheActsOfABoundary : Prop :=
  ∀ (s : State) (m : Milestone) (r : Released) (row : TaskRow) (k : Nat), k < 32 → row.task < 32 → row.lset < 8 →
    (s.closeDecision.2 = some m → m.num = s.sto.msCount + 1 ∧ s.closeDecision.1.sto.msCount = s.sto.msCount + 1) ∧
    (s.closeDecision.2 = none → s.closeDecision.1.sto = { s.sto with mergeCount := sat32 s.sto.mergeCount }) ∧
    (s.mayClose = true → s.closeDecision.2 = some s.milestone ∧ s.closeDecision.1.sto.journal = s.sto.journal ++ [s.milestone] ∧ s.closeDecision.1.sto.other.phase = .journal ∧
      s.closeDecision.1.sto.opened = { Half.reset with phase := .openHalf, firstBeat := s.clk.beat, kept := s.sto.opened.kept, keptEdit := s.sto.opened.keptEdit }) ∧
    ((r.state.task row.task).faulted = true → r.one row = r) ∧
    ((r.state.task row.task).faulted = false → (r.state.task row.task).run.isSome = true →
      ((r.one row).state.task row.task).run = (r.state.task row.task).run ∧ ((r.one row).state.task row.task).overrun = sat32 (r.state.task row.task).overrun ∧
      (r.one row).released = r.released ∧ (r.one row).skipped = r.skipped + 2 ^ row.task) ∧
    ((r.state.task row.task).faulted = false → (r.state.task row.task).run = none → ∃ n, ((r.one row).state.task row.task).run = some n ∧ n.view = r.state.sto.inView ∧
      n.base = r.state.sto.lmem ∧ n.rel = r.state.clk.powered % 2 ^ 32 ∧ n.first = (r.state.task row.task).firstNext ∧ n.writes = [] ∧
      ((r.one row).state.task row.task).firstNext = false ∧ vget (r.one row).state.clu.queues row.lset [] = vget r.state.clu.queues row.lset [] ++ [row.task] ∧
      (r.one row).released = r.released + 2 ^ row.task ∧ (r.one row).skipped = r.skipped ∧ ∀ j, j ≠ row.task → (r.one row).state.task j = r.state.task j) ∧
    (((s.launchTask k).task k).pendingAt = none ∧ (s.launchTask k).sto.launched = (s.task k).outs.apply s.sto.launched ∧ ∀ j, j ≠ k → (s.launchTask k).task j = s.task j)

/-- RUN_COMPLETION of a lane set whose lanes have ended their run in this beat with nothing left to land, in an executing unit whose open half can hold the older values that other runs still need, and with no item of the leading lane left that the trailing lane has not met: the run's stores enter the live memory and join the open half, where they supersede the task's earlier ones; the task has completed, holds no run, keeps the run's release index, and its outputs launch at the task's next release instant, whether it was late or not; the lanes of the set are free, and every other task and lane stays. MILESTONE_DURABLE makes the oldest waiting milestone durable: its entries enter the durable memory, its number is the durable one, and it waits to settle; nothing happens with none waiting. SETTLE_DONE takes the oldest settling milestone off; with the last one, and none left to journal, the other half is free. FAULT_CLEAR of a faulted task clears fault, cause and bundle, and makes its next run a first run. (R41; R46; R49; R64; R54; R56; R57; R109; R53; 02_beats_tasks_milestones.md, Commit and the epoch journal) -/
def Obligations.RunsCompleteAndMilestonesSettle : Prop :=
  ∀ (s : State) (n k t0 d : Nat) (run : Run) (row : TaskRow) (a : State) (m : Milestone) (js : List Milestone), k < 32 → n < (if s.clu.single then 8 else 4) →
    (s.executes = true → d = (s.setLanes n).head?.getD 0 → (∀ j, j ∈ s.setLanes n → (s.lane j).finished = true ∧ (s.lane j).wb = []) →
      (s.lane (s.lastLane n)).endCyc < s.boundaryCyc + s.beatCycles → (s.clu.single = false → (s.lane d).endCyc + 1 = (s.lane (s.lastLane n)).endCyc ∧ ∀ wb, s.missedRec (s.lastLane n) ((s.lane (s.lastLane n)).endCyc + 2) wb = none) →
      (s.lane d).task = some k → (s.task k).run = some run → s.row k = some row → a = ((s.reach t0).freeLanes n).completeRun k (row.nextDue s.clk.beat) run → ((s.reach t0).freeLanes n).keptFull k run = none →
      ∃ t, exec (.runCompletion n t0) s = .next t ∧ t.sto.lmem = run.writes.apply s.sto.lmem ∧ t.sto.opened.net = Ov.over s.sto.opened.net run.writes ∧
        (t.task k).run = none ∧ (t.task k).completed = true ∧ (t.task k).lastRel = run.rel ∧ (t.task k).pendingAt = some (row.nextDue s.clk.beat) ∧
        (t.task k).outs = s.outsOf k (run.writes.apply s.sto.lmem) ∧ (∀ j, j ≠ k → t.task j = s.task j) ∧
        (∀ j, j ∈ s.setLanes n → (t.lane j).task = none ∧ (t.lane j).scratch = (s.lane j).scratch) ∧ (∀ j, j ∉ s.setLanes n → t.lane j = s.lane j) ∧
        Frame { clk := true, clu := true, tasks := true, sto := true, csw := true, net := true, host := true, evr := true, trc := true } s t) ∧
    (s.sto.journal = m :: js → ∃ t, exec (.milestoneDurable t0) s = .next t ∧ t.sto.journal = js ∧ t.sto.settling = s.sto.settling ++ [m] ∧ t.sto.msDurable = m.num ∧
      t.sto.durable = m.net.apply s.sto.durable ∧ t.sto.warm = true ∧ t.sto.lmem = s.sto.lmem ∧ t.sto.opened = s.sto.opened ∧
      Frame { clk := true, sto := true, net := true, can := true, dict := true, evr := true } s t) ∧
    (s.sto.journal = [] → ∃ t, exec (.milestoneDurable t0) s = .next t ∧ t.clk = { s.clk with now := max s.clk.now t0 } ∧ Frame { clk := true } s t) ∧
    (s.sto.settling = m :: js → ∃ t, exec (.settleDone t0) s = .next t ∧ t.sto.settling = js ∧ t.sto.opened = s.sto.opened ∧ t.sto.msDurable = s.sto.msDurable ∧
      (js = [] → s.sto.journal = [] → s.sto.other.phase = .settle → t.sto.other.phase = .free) ∧
      (js ≠ [] ∨ s.sto.journal ≠ [] ∨ s.sto.other.phase ≠ .settle → t.sto.other = s.sto.other) ∧ Frame { clk := true, sto := true } s t) ∧
    ((s.task k).faulted = true → ∃ t, exec (.faultClear k) s = .next t ∧
      t.task k = { s.task k with faulted := false, faultCause := 0, faultBundle := 0, firstNext := true } ∧ (∀ j, j ≠ k → t.task j = s.task j) ∧ Frame { tasks := true } s t) ∧
    ((s.task k).faulted = false → exec (.faultClear k) s = .next s)

/-- A lane that executes a run by itself, with nothing waiting, repeating or in flight, and whose next word of the program store is one legal long syllable with S = 1. In A0 with register or immediate source: ADD and SUB land the sum or difference and the carry, half carries and overflow of A0 one cycle later; AND, OR and XOR land their result and no flag. LW from an aligned scratch address lands the word there two cycles after the issue; SW to one stores the register's word there and no other byte. JMP leaves its target for after two more bundles; END marks the run's last bundle. In each case the lane's pc moves past the word, its next bundle is ready one cycle later, and everything else of the lane, every other lane and the rest of the machine stays. A word whose lowest cause by R108 is c ends the run: the task is faulted with cause c and the bundle's address, and the lane stops. (R91; R105; R106; R107; R108; 04_operations.md, Arithmetic units; 05_memory_blocks_timers.md, Loads and stores) -/
def Obligations.BundlesOfOneSyllableIssue : Prop :=
  ∀ (s : State) (l k : Nat) (run : Run) (w : Word) (ln : Lane) (r : Reg), s.Alone l k run → (s.lane l).rep = none → k < 32 → ln = s.lane l → r = ln.regs → memWord s.sto.program ln.pc = w →
    ln.pc + 4 ≤ programSize → sylS w = true → sylP w = false → sylU w ≠ 7 →
    (sylCauses none w = [] →
      (sylU w = 3 → sylOpc w ∈ [1, 3, 7, 8, 9] → ∃ t x y rs, exec (.bundleIssue l [] .none) s = .next t ∧ x = r.getG (sylA w) ∧
        y = (if sylOpc w < 7 then operandRS none w r.getG else operandRZ none w r.getG) ∧ rs = (landThrough (ln.ready + 1) (t.lane l).inflight r).1 ∧
        (sylOpc w = 1 → rs = { r.land (.g (sylDst w) (x + y)) with f0 :=
          { cy := decide (2 ^ 32 ≤ x.toNat + y.toNat), hc := (addc x y false).2.hc, ov := decide (x.toInt + y.toInt ≠ (x + y).toInt) } }) ∧
        (sylOpc w = 3 → rs = { r.land (.g (sylDst w) (x - y)) with f0 :=
          { cy := decide (x.toNat < y.toNat), hc := (subc x y false).2.hc, ov := decide (x.toInt - y.toInt ≠ (x - y).toInt) } }) ∧
        (sylOpc w = 7 → rs = r.land (.g (sylDst w) (x &&& y))) ∧ (sylOpc w = 8 → rs = r.land (.g (sylDst w) (x ||| y))) ∧
        (sylOpc w = 9 → rs = r.land (.g (sylDst w) (x ^^^ y))) ∧
        t.lane l = { ln with pc := ln.pc + 4, ready := ln.ready + 1, inflight := (t.lane l).inflight, endCyc := max ln.endCyc (ln.ready + 1) } ∧
        (∀ j, j ≠ l → t.lane j = s.lane j) ∧ Frame { clu := true } s t) ∧
      (sylU w = 6 → sylOpc w = 1 → ∀ a, a = (r.getA (sylA w) + operandRS none w r.getG).toNat → a ≤ 0x3FFFF → a % 4 = 0 → ∃ t, exec (.bundleIssue l [] .none) s = .next t ∧
        (landThrough (ln.ready + 1) (t.lane l).inflight r).1 = r ∧ (landThrough (ln.ready + 2) (t.lane l).inflight r).1 = r.land (.g (sylDst w) (memWord ln.scratch a)) ∧
        t.lane l = { ln with pc := ln.pc + 4, ready := ln.ready + 1, inflight := (t.lane l).inflight, endCyc := max ln.endCyc (ln.ready + 2) } ∧
        (∀ j, j ≠ l → t.lane j = s.lane j) ∧ Frame { clu := true } s t) ∧
      (sylU w = 6 → sylOpc w = 6 → ∀ a, a = (r.getA (sylA w) + operandRS none w r.getG).toNat → a ≤ 0x3FFFF → a % 4 = 0 → ∃ t, exec (.bundleIssue l [] .none) s = .next t ∧
        t.lane l = { ln with pc := ln.pc + 4, ready := ln.ready + 1, scratch := memPut ln.scratch a (wbytes (r.getG (sylDst w))), endCyc := max ln.endCyc ln.ready } ∧
        (∀ j, j ≠ l → t.lane j = s.lane j) ∧ Frame { clu := true } s t) ∧
      (sylU w = 0 → sylOpc w = 1 → ∃ t, exec (.bundleIssue l [] .none) s = .next t ∧
        t.lane l = { ln with pc := ln.pc + 4, ready := ln.ready + 1, xfer := some ⟨2, true, 4 * (operandRZ none w r.getG).toNat, .branch⟩, endCyc := max ln.endCyc ln.ready } ∧
        (∀ j, j ≠ l → t.lane j = s.lane j) ∧ Frame { clu := true } s t) ∧
      (sylU w = 0 → sylOpc w = 9 → ∃ t, exec (.bundleIssue l [] .none) s = .next t ∧
        t.lane l = { ln with pc := ln.pc + 4, ready := ln.ready + 1, ended := true, endCyc := max ln.endCyc ln.ready } ∧
        (∀ j, j ≠ l → t.lane j = s.lane j) ∧ Frame { clu := true } s t)) ∧
    (∀ c, leastOf (sylCauses none w) = some c → ∃ t, exec (.bundleIssue l [] .none) s = .next t ∧ (t.task k).faulted = true ∧ (t.task k).faultCause = c ∧
      (t.task k).faultBundle = ln.pc ∧ (t.task k).run = none ∧ (t.lane l).dead = true ∧ (∀ j, j ≠ l → t.lane j = s.lane j) ∧ (∀ j, j ≠ k → t.task j = s.task j) ∧
      Frame { clk := true, clu := true, tasks := true, sto := true, host := true, wdg := true, evr := true, trc := true } s t)

/-- RUN_START with a waiting run and an idle lane set of an executing unit: every lane of the set begins the run at the row's entry, the lead at the later of the run's start offset after its release and the cycle after the set's last run, a trailing lane one cycle later; the queue loses its head. RESULT_LANDING lands the earliest result in flight, a write to g0 being discarded, and changes nothing when none is. CONTROL_TRANSFER with its delay over sets the pc to the target; a call also pushes return address and instance pointer and takes the new one, a return pops both; an untaken one is dropped, and one still delayed, or with a repetition in progress, stays. An iteration of a repeated multiply-accumulate onto accumulator 0 adds onto the previous iteration's sum, lands it three cycles later, and ends the repetition with its last. An iteration of a packed-decimal string addition stores the sum word in scratch, passes its carry on and advances both address registers. A record write-back joins the run's own stores. Nothing else changes. (R91; R94; R85; R107; R157; R143; R136; R163; R177; R46) -/
def Obligations.LaneEventsBetweenIssues : Prop :=
  ∀ (s : State) (l k n d : Nat) (run : Run) (row : TaskRow) (rest : List Nat) (p : Sys2Proof.Machine.Rep) (st : StrState) (x : Landing) (xs : List Landing) (q : Transfer) (wr : Writeback) (ws : List Writeback) (v : Word) (ln : Lane), l < 8 → ln = s.lane l →
    (vget s.clu.queues n [] = k :: rest → s.setIdle n = true → s.executes = true → (s.task k).run = some run → s.row k = some row → k < 32 →
      n < (if s.clu.single then 8 else 4) → ∃ t, exec (.runStart n) s = .next t ∧
      (∀ j, j ∈ s.setLanes n → t.lane j = (s.lane j).begin k (max (run.relCyc + run.start) ((s.lane (s.lastLane n)).endCyc + 1) + (j - (s.setLanes n).head?.getD 0)) row) ∧
      (∀ j, j ∉ s.setLanes n → t.lane j = s.lane j) ∧ vget t.clu.queues n [] = rest ∧ (t.task k).run = some { run with started := true } ∧
      (∀ j, j ≠ k → t.task j = s.task j) ∧ Frame { clu := true, tasks := true } s t) ∧
    (vget s.clu.queues n [] = [] → exec (.runStart n) s = .next s) ∧
    (ln.inflight = x :: xs → ∃ t, exec (.resultLanding l) s = .next t ∧ t.lane l = { ln with regs := ln.regs.land x.dest, inflight := xs } ∧
      (x.dest = .g d v → d < 32 → (t.lane l).regs.getG d = (if d = 0 then 0 else v) ∧ ∀ m, m ≠ d → (t.lane l).regs.getG m = ln.regs.getG m) ∧
      (∀ j, j ≠ l → t.lane j = s.lane j) ∧ Frame { clu := true } s t) ∧
    (ln.inflight = [] → exec (.resultLanding l) s = .next s) ∧
    (ln.xfer = some q → ∃ t, exec (.controlTransfer l) s = .next t ∧ (q.left ≠ 0 ∨ ln.rep.isSome = true → t = s) ∧ (q.left = 0 → ln.rep = none → q.taken = false → t.lane l = { ln with xfer := none }) ∧
      (q.left = 0 → ln.rep = none → q.taken = true → (q.kind = .branch → t.lane l = { ln with pc := q.target, xfer := none }) ∧
        (q.kind = .call v → t.lane l = { ln with link := (ln.pc, ln.regs.ip) :: ln.link, regs := { ln.regs with ip := v }, pc := q.target, xfer := none }) ∧
        (q.kind = .ret → ∀ a b r, ln.link = (a, b) :: r → t.lane l = { ln with link := r, regs := { ln.regs with ip := b }, pc := a, xfer := none })) ∧
      (∀ j, j ≠ l → t.lane j = s.lane j) ∧ Frame { clu := true } s t) ∧
    (s.Alone l k run → ln.rep = some p →
      (p.str = none → sylP p.word = false → sylU p.word = 5 → sylOpc p.word = 6 → sylDst p.word = 0 → ∀ (a : DWord), a = p.ac0.getD (ln.regs.getAc 0) +
          i64 ((ln.regs.getG (sylA p.word)).toInt * (operandRS none p.word ln.regs.getG).toInt) → ∃ t, exec (.repIteration l [] .none) s = .next t ∧
        (landThrough (ln.ready + 2) (t.lane l).inflight ln.regs).1 = ln.regs ∧ (landThrough (ln.ready + 3) (t.lane l).inflight ln.regs).1 = ln.regs.land (.ac 0 a) ∧
        t.lane l = { ln with ready := ln.ready + 1, inflight := (t.lane l).inflight, endCyc := max ln.endCyc (ln.ready + 3), rep := if p.left ≤ 1 then none else some { p with left := p.left - 1, ac0 := some a } } ∧
        (∀ j, j ≠ l → t.lane j = s.lane j) ∧ Frame { clu := true } s t) ∧
      (p.str = some st → st.words = none → st.deferred = [] → 2 ≤ p.left → sylOpc p.word = 0x36 → ∀ (a b : Nat) (y : Word × Flags), a = (ln.regs.getA (sylDst p.word)).toNat →
          b = (ln.regs.getA (sylA p.word)).toNat → a ≤ 0x3FFFF → a % 4 = 0 → b ≤ 0x3FFFF → b % 4 = 0 → y = padd (memWord ln.scratch a) (memWord ln.scratch b) st.carry →
        ∃ t, exec (.stringIteration l []) s = .next t ∧ (t.lane l).scratch = memPut ln.scratch a (wbytes y.1) ∧ (t.lane l).ready = ln.ready + 2 ∧
        (landThrough (ln.ready + 1) (t.lane l).inflight ln.regs).1 = (ln.regs.land (.a (sylDst p.word) (ln.regs.getA (sylDst p.word) + 4))).land (.a (sylA p.word) (ln.regs.getA (sylA p.word) + 4)) ∧
        (∃ z, (t.lane l).rep = some { p with left := p.left - 1, str := some z } ∧ z.carry = y.2.cy ∧ z.words = none) ∧ (t.lane l).pc = ln.pc ∧ (t.lane l).regs = ln.regs ∧
        (∀ j, j ≠ l → t.lane j = s.lane j) ∧ Frame { clu := true } s t)) ∧
    (s.clu.single = true → s.clu.stopped = false → ln.wb = wr :: ws → ln.task = some k → (s.task k).run = some run → k < 32 →
      s.openContent + 16 * (Ov.entries (Ov.putBytes [] wr.addr wr.bytes)).length ≤ halfSize → ∃ t, exec (.recordWriteback l .none) s = .next t ∧
      t.lane l = { ln with wb := ws } ∧ (t.task k).run = some { run with writes := Ov.over run.writes (Ov.putBytes [] wr.addr wr.bytes) } ∧
      (∀ j, j ≠ l → t.lane j = s.lane j) ∧ (∀ j, j ≠ k → t.task j = s.task j) ∧ Frame { clu := true, tasks := true } s t)

/-- In paired mode the trailing lane of a carriageway whose earliest record write-back lands. Where the leading lane's items of the cycle before are the same, the write-back leaves the lane, the comparator forgets the items, and nothing is written a second time: every task stays as it is and the lanes go on. Where the leading lane wrote nothing then and the comparator holds nothing of it, the lanes stop, the divergence report holds the milestone number, the lane cycle, the carriageway, kind 1, no leading item and the store of the trailing lane, and the beats stop: a SOLO unit is in fail-safe halt with its local outputs at their safe states, an ACTIVE one is FAILED with reason 1. (R111; R112; R113; R114; R115) -/
def Obligations.TheComparatorChecksWriteBacks : Prop :=
  ∀ (s : State) (l k : Nat) (w : Writeback) (ws : List Writeback) (r : IssueRec) (i : Item), s.clu.single = false → s.clu.stopped = false → l < 8 → l % 2 = 1 →
    (s.lane l).wb = w :: ws → (s.lane l).task = some k →
    (r.cyc + 1 = w.cyc → r.wb = true → r.items = wbItems w k → vget s.clu.items (l / 2) [] = [r] → ∃ t, exec (.recordWriteback l .none) s = .next t ∧
      t.lane l = { s.lane l with wb := ws } ∧ (∀ j, j ≠ l → t.lane j = s.lane j) ∧ vget t.clu.items (l / 2) [] = [] ∧ t.clu.stopped = false ∧ Frame { clu := true } s t) ∧
    (vget s.clu.items (l / 2) [] = [] → (wbItems w k).head? = some i → s.csw.role = .solo ∨ s.csw.role = .active → ∃ t, exec (.recordWriteback l .none) s = .next t ∧
      t.clu.stopped = true ∧ t.clk.running = false ∧
      t.clu.divRec = divergenceRecord s.sto.msCount (w.cyc % s.beatCycles) (l / 2) 1 0 i.encode ∧
      (s.csw.role = .solo → t.sto.halted = true ∧ t.fio.haltSafe = true) ∧ (s.csw.role = .active → t.csw.role = .failed ∧ t.csw.failReason = 1) ∧ t.tasks = s.tasks ∧
      Frame { clk := true, clu := true, sto := true, csw := true, fio := true, net := true, can := true, host := true, wdg := true, evr := true, trc := true } s t)

/-- IMAGE_LOAD_SEGMENT on a device whose role can load: offset 0, with nothing under way, starts a new load, discards what was staged and clears LOAD_RESULT; the offset that continues the staged bytes appends to them. LOAD_STATE is then 6 with the last segment and 1 before it; the staged digest is that of the complete image; the trace ring gives up 16 MiB to staging while no conversion runs. During a load, a segment at any offset but those two, and one that makes the image longer than 16,777,216 bytes, end the load with nothing staged. Offset 0 during a load, a segment during a check or a pending installation, and a first segment at an offset other than 0 change nothing. LOAD_CMD_CHECK moves states 3, 4 and 6 to 2 and changes nothing in any other. LOAD_CHECK_DONE in state 2 goes to 3 when the check finds no error and to 4 otherwise, and LOAD_RESULT holds the outcome; in any other state nothing happens. The installed image stays throughout. (R190; R191; R192; R193; 06_prosarc_contract.md, Loading an image) -/
def Obligations.ImagesAreStagedAndChecked : Prop :=
  ∀ (s : State) (off : Nat) (data : List Byte) (last : Bool), s.pwr.role ≠ .station →
    (off = 0 → s.ldr.state ≠ 1 → s.ldr.state ≠ 2 → s.ldr.state ≠ 5 → data.length ≤ 16777216 → ∃ t, exec (.imageLoadSegment off data last) s = .next t ∧
      t.ldr = { s.ldr with state := if last then 6 else 1, staged := data, result := zeros 16, stagedDigest := if last then padTo 32 (slice data 160 32) else zeros 32 } ∧
      t.dict = { s.dict with pubPend := [] } ∧ (s.ldr.converting = false → t.trc.cap = 2 ^ 31 - 2 ^ 24) ∧ Frame { ldr := true, dict := true, evr := true, trc := true } s t) ∧
    (s.ldr.state = 1 → off = s.ldr.staged.length → s.ldr.staged.length + data.length ≤ 16777216 → ∃ t, exec (.imageLoadSegment off data last) s = .next t ∧
      t.ldr = { s.ldr with state := if last then 6 else 1, staged := s.ldr.staged ++ data, stagedDigest := if last then padTo 32 (slice (s.ldr.staged ++ data) 160 32) else zeros 32 } ∧
      Frame { ldr := true, evr := true, trc := true } s t) ∧
    (s.ldr.state = 1 → off ≠ s.ldr.staged.length ∧ off ≠ 0 ∨ off = s.ldr.staged.length ∧ 16777216 < s.ldr.staged.length + data.length → ∃ t, exec (.imageLoadSegment off data last) s = .next t ∧
      t.ldr = { s.ldr with state := 0, staged := [], stagedDigest := zeros 32 } ∧ Frame { ldr := true, dict := true, evr := true, trc := true } s t) ∧
    (s.ldr.state = 2 ∨ s.ldr.state = 5 ∨ s.ldr.state = 1 ∧ off = 0 ∧ s.ldr.staged ≠ [] ∨ s.ldr.state ≠ 1 ∧ off ≠ 0 → exec (.imageLoadSegment off data last) s = .next s) ∧
    (s.ldr.state = 3 ∨ s.ldr.state = 4 ∨ s.ldr.state = 6 → ∃ t, exec .loadCmdCheck s = .next t ∧ t.ldr = { s.ldr with state := 2 } ∧ Frame { ldr := true } s t) ∧
    (s.ldr.state ≠ 3 → s.ldr.state ≠ 4 → s.ldr.state ≠ 6 → exec .loadCmdCheck s = .next s) ∧
    (∀ r, r = checkImage s.ldr.staged s.clk.p (s.storedNat 0x4000 0 1000) s.clk.lead s.ldr.img → s.ldr.state = 2 → ∃ t, exec .loadCheckDone s = .next t ∧
      t.ldr = { s.ldr with state := if r.code = 0 then 3 else 4, result := r.encode } ∧ Frame { ldr := true } s t) ∧
    (s.ldr.state ≠ 2 → exec .loadCheckDone s = .next s)

/-- LOAD_CMD_INSTALL in state 3: on a SOLO unit the installation is pending (5); on a STANDBY it is pending too and the conversion begins; an ACTIVE, SYNCING or FAILED unit keeps state 3 and the staged image, and LOAD_RESULT holds code 22. In every other state nothing changes. LOAD_CMD_DISCARD leaves LOAD_STATE 0, nothing staged, no map staged with it and no conversion; while a swap was being prepared, it leaves the report of an abandoned swap with both digests and code 1, and sets cause bit 10. SWAP_READY of a converting STANDBY whose reads find no uncorrectable error builds the converted state through the map from the unit's instance state and sets SWAP_READY; the corrections its reads made are counted. It changes nothing where no conversion runs, where it is done, and on a unit that is no STANDBY. (R190; R191; R196; R235; R236; R238; 07_redundancy.md, Program swap) -/
def Obligations.InstallationDiscardAndConversion : Prop :=
  ∀ (s : State) (ecc : List Ecc),
    (s.ldr.state = 3 → s.csw.role = .solo → ∃ t, exec .loadCmdInstall s = .next t ∧ t.ldr = { s.ldr with state := 5 } ∧ Frame { ldr := true } s t) ∧
    (s.ldr.state = 3 → s.csw.role = .standby → ∃ t, exec .loadCmdInstall s = .next t ∧ t.ldr = { s.ldr with state := 5, converting := true } ∧
      Frame { ldr := true, evr := true, trc := true } s t) ∧
    (s.ldr.state = 3 → s.csw.role = .active ∨ s.csw.role = .syncing ∨ s.csw.role = .failed → ∃ t, exec .loadCmdInstall s = .next t ∧
      t.ldr = { s.ldr with result := (LoadRes.fail 22).encode } ∧ Frame { ldr := true, dict := true } s t) ∧
    (s.ldr.state ≠ 3 → exec .loadCmdInstall s = .next s) ∧
    (∃ t, exec .loadCmdDiscard s = .next t ∧ t.ldr.state = 0 ∧ t.ldr.staged = [] ∧ t.ldr.stagedDigest = zeros 32 ∧ t.ldr.converting = false ∧ t.dict = { s.dict with pubPend := [] } ∧
      t.ldr.img = s.ldr.img ∧ t.ldr.digest = s.ldr.digest ∧ t.ldr.result = s.ldr.result ∧
      (s.ldr.converting = true → t.ldr.swapReady = false ∧ t.ldr.swapReport = padTo 32 s.ldr.digest ++ padTo 32 s.ldr.stagedDigest ++ zeros 10 ++ [1] ++ zeros 21 ∧ t.csw.cause.getLsbD 10 = true ∧
        Frame { ldr := true, csw := true, dict := true, evr := true, trc := true } s t) ∧
      (s.ldr.converting = false → t.ldr.swapReport = s.ldr.swapReport ∧ Frame { ldr := true, dict := true, evr := true, trc := true } s t)) ∧
    (s.ldr.converting = true → s.ldr.swapReady = false → s.csw.role = .standby → (∀ x, x ∈ ecc → x.hard = false) → ∃ t, exec (.swapReady ecc) s = .next t ∧
      t.ldr = { s.ldr with swapReady := true, conv := s.stagedImage.convert s.sto.lmem } ∧ t.sto.lmem = s.sto.lmem ∧ (ecc = [] → t.sto = s.sto ∧ t.evr = s.evr) ∧
      Frame { ldr := true, sto := true, host := true, evr := true } s t) ∧
    (s.ldr.converting = false ∨ s.ldr.swapReady = true ∨ s.csw.role ≠ .standby → exec (.swapReady ecc) s = .next s)

/-- HEARTBEAT_SEND of a unit whose causeway is not dark puts one HEARTBEAT of two payload groups on each lane that is up: stream position or acknowledged position, durable milestone, next local launch, low word of the PTP clock, status; nothing else changes. A HEARTBEAT of the partner, whose role stands and with no delay measured, records instant, lane up, term, role, acknowledged position, durable milestone and next launch, and ends a heartbeat loss; at an ACTIVE unit it also takes SWAP_READY and the partner's staged image and drops from the lag what the partner has acknowledged; a STANDBY told to resynchronise becomes SYNCING with an incomplete store. A frame without its form, one with an uncorrectable group, and a HEARTBEAT of another node are discarded: FRAME_ERR counts one, cause bit 13 is set, and only time, and for the group error its counts and record, change besides. HEARTBEAT_LOST, 100 µs after the last HEARTBEAT: cause bit 2 is set and the loss holds; an ACTIVE unit that still sees its partner on CWA runs without redundancy; a STANDBY whose partner still claims on CWA falls back to SYNCING; one whose partner is absent there too is to take over, and a SYNCING one fails with reason 4. Before 100 µs nothing happens. LANE_DOWN marks the lane and sets cause bit 3; a STANDBY that has lost both lanes while the partner claims falls back. (R201; R206; R211; R212; R215; R220; R221; R223; R240; 07_redundancy.md, The causeway) -/
def Obligations.HeartbeatsAndTheirLoss : Prop :=
  ∀ (s : State) (lane t0 n0 : Nat) (f p : List Byte) (env : CwIn) (c : Csw), lane < 2 → p = cwPay f → s.csw.dark = false →
    (∃ t, exec (.heartbeatSend t0) s = .next t ∧ (∃ b : List Byte, b = leBytes 8 (if s.csw.role = .active then s.csw.pos else s.csw.ackPos) ++ leBytes 8 s.sto.msDurable ++ leBytes 8 (s.reach t0).nextLaunch ++ leBytes 4 (s.reach t0).ptpNow ++ leBytes 4 s.hbStatus ∧
      t.net.sent = (if vget s.csw.laneUp 1 false then [.cw 1 (s.cwFrame 0x01 1 0 b)] else []) ++ (if vget s.csw.laneUp 0 false then [.cw 0 (s.cwFrame 0x01 0 0 b)] else []) ++ s.net.sent) ∧
      t.csw = s.csw ∧ Frame { clk := true, net := true } s t) ∧
    (n0 = (if vget s.csw.hbAt lane 0 = 0 then 0 else max (vget s.csw.hbCnt lane 0) (missedBeats (vget s.csw.hbAt lane 0) t0)) - vget s.csw.hbCnt lane 0 →
      c = { s.csw with laneUp := vset s.csw.laneUp lane true, partnerSeen := true, seenAt := s.csw.seenAt.max (max s.clk.now t0), partnerTerm := cwTerm f, partnerRole := cwRole f, hbAt := vset s.csw.hbAt lane t0, hbCnt := vset s.csw.hbCnt lane 0, hbMiss0 := if lane = 0 then min 0xFFFF (s.csw.hbMiss0 + n0) else s.csw.hbMiss0, hbMiss1 := if lane = 1 then min 0xFFFF (s.csw.hbMiss1 + n0) else s.csw.hbMiss1, hbLost := false, partnerAck := getLE p 0 8, partnerDurable := getLE p 8 8, partnerLaunch := getLE p 16 8 } →
      env.ecc = [] → cwFormOk f = true → cwType f = 1 → cwNode f = s.partnerNode → s.csw.partnerSeen = true → s.csw.hbLost = false → s.csw.partnerRole = cwRole f →
      s.isLocked = false ∨ (byteAt p 28).testBit 5 = false →
      (s.csw.role = .standby → (byteAt p 28).testBit 3 = false → ∃ t, exec (.heartbeatReceive lane t0 f env) s = .next t ∧ t.csw = c ∧ Frame { clk := true, csw := true } s t) ∧
      (s.csw.role = .solo ∨ s.csw.role = .failed → ∃ t, exec (.heartbeatReceive lane t0 f env) s = .next t ∧ t.csw = c ∧ Frame { clk := true, csw := true } s t) ∧
      (s.csw.role = .standby → (byteAt p 28).testBit 3 = true → ∃ t, exec (.heartbeatReceive lane t0 f env) s = .next t ∧ t.csw.role = .syncing ∧ t.csw.ackPos = 0 ∧ t.csw.storeComplete = false ∧
        t.csw.hbAt = c.hbAt ∧ t.csw.cause.getLsbD 5 = true ∧ Frame { clk := true, ldr := true, csw := true, net := true, wdg := true, evr := true } s t) ∧
      (s.csw.role = .active → cwRole f ≠ 3 → ∃ t, exec (.heartbeatReceive lane t0 f env) s = .next t ∧
        t.csw = { c with swapDropped := s.csw.swapDropped && (byteAt p 28).testBit 4, partnerDigest := padTo 32 env.digest, partnerMinSet := env.minSet, lagList := s.csw.lagList.filter (notApplied (getLE p 0 8)), lag := t.csw.lag } ∧ t.csw.lag = min 0xFFFF (t.csw.lagList.foldl (fun n x => n + x.2.1) 0) ∧
        t.ldr = { s.ldr with swapReady := (byteAt p 28).testBit 4 && !s.csw.swapDropped } ∧ Frame { clk := true, csw := true, ldr := true, sto := true, net := true, can := true, dict := true, evr := true } s t)) ∧
    (env.ecc = [] → cwFormOk f = false ∨ cwNode f ≠ s.partnerNode ∧ cwType f = 1 → ∃ t, exec (.heartbeatReceive lane t0 f env) s = .next t ∧
      t.csw = { s.csw with frameErr := min 0xFFFFFFFF (s.csw.frameErr + 1), cause := setBit s.csw.cause 13 true } ∧ Frame { clk := true, csw := true, evr := true } s t) ∧
    (env.ecc.any (·.hard) = true → ∃ t, exec (.heartbeatReceive lane t0 f env) s = .next t ∧
      t.csw = { s.csw with frameErr := min 0xFFFFFFFF (s.csw.frameErr + 1), cause := setBit s.csw.cause 13 true } ∧ Frame { clk := true, csw := true, sto := true, host := true, evr := true } s t) ∧
    (s.csw.hbLost = true ∨ t0 < s.csw.lastHb + 100000 → ∃ t, exec (.heartbeatLost t0) s = .next t ∧ t.csw = s.csw ∧ Frame { clk := true } s t) ∧
    (s.csw.hbLost = false → s.csw.lastHb + 100000 ≤ t0 → 0 < s.csw.lastHb ∨ s.csw.role = .standby ∨ s.csw.role = .syncing → ∃ t, exec (.heartbeatLost t0) s = .next t ∧ t.csw.hbLost = true ∧
      (s.csw.cwaAbsent = false → s.csw.role = .active → t.csw.redLost = true ∧ t.csw.lagList = [] ∧ t.csw.sending = none ∧ t.csw.role = .active ∧ t.csw.cause.getLsbD 2 = true) ∧
      (s.csw.cwaAbsent = false → s.csw.role = .standby → s.csw.claim = true → t.csw.role = .syncing ∧ t.csw.storeComplete = false ∧ t.csw.cause.getLsbD 2 = true ∧ t.csw.cause.getLsbD 5 = true) ∧
      (s.csw.cwaAbsent = false → s.csw.role = .syncing ∨ s.csw.role = .solo ∨ s.csw.role = .standby ∧ s.csw.claim = false →
        t.csw = { s.csw with hbLost := true, cause := setBit s.csw.cause 2 true } ∧ Frame { clk := true, csw := true, evr := true } s t) ∧
      (s.csw.cwaAbsent = true → s.csw.role = .standby → s.csw.takeoverPend = none → s.pwr.parkReq = 0 → t.csw.takeoverPend = some 0 ∧ t.csw.takeoverRef = s.csw.lastHb ∧ t.csw.partnerSeen = false ∧ t.csw.role = .standby) ∧
      (s.csw.cwaAbsent = true → s.csw.role = .syncing → t.csw.role = .failed ∧ t.csw.failReason = 4)) ∧
    (vget s.csw.laneUp lane false = true → ∃ t, exec (.laneDown lane) s = .next t ∧ vget t.csw.laneUp lane false = false ∧ t.csw.cause.getLsbD 3 = true ∧
      (s.csw.role = .standby → s.csw.claim = true → vget s.csw.laneUp (1 - lane) false = false → t.csw.role = .syncing ∧ t.csw.storeComplete = false) ∧
      (s.csw.role ≠ .standby ∨ s.csw.claim = false ∨ vget s.csw.laneUp (1 - lane) false = true →
        t.csw = { s.csw with laneUp := vset s.csw.laneUp lane false, cause := setBit s.csw.cause 3 true } ∧ Frame { csw := true, evr := true } s t)) ∧
    (vget s.csw.laneUp lane false = false → exec (.laneDown lane) s = .next s)

/-- CWA_CYCLE of a unit whose causeway is not dark: a master, and a unit that received a burst, drives 0x5A while it is ACTIVE and does not withdraw, and after a handover until the partner's claim appears, 0xA5 otherwise. A burst of 0x5A is a claim: it is recorded, and a unit in negotiation becomes SYNCING. A burst of 0xA5 with no claim seen records no claim; after a claim, four are counted, and the fifth in a row ends the claim and lets a STANDBY take over with that instant as the gap's reference; an ACTIVE unit only records it. A cycle without a valid burst counts; the fifth in a row declares the partner absent on CWA, with cause bit 4 where CWA had been up and a lane is. CWA_MASTER_TAKEOVER makes this unit the master. NEGOTIATE_SEND of a negotiating unit sends one NEGOTIATE frame per lane with its durable milestone, term, priority, flags and image digest. NEGOTIATE_RECEIVE from the configured partner over a delay of at most 50 µs: the higher-ranked unit becomes ACTIVE with a term one above the highest it knows, without redundancy, and the other SYNCING from position 0; with no term left it fails with reason 5. NEGOTIATION_TIMEOUT after 200 ms in which nothing was heard makes the unit ACTIVE, which stations must confirm; earlier, or with anything heard, it changes nothing but the time. (R203; R205; R207; R208; R209; R210; R219; R221; 07_redundancy.md, Start-up negotiation) -/
def Obligations.CwaAndTheNegotiation : Prop :=
  ∀ (s : State) (lane t0 : Nat) (f : List Byte) (env : CwIn) (burst : Option Byte) (net : Net) (c : Csw), s.csw.dark = false →
    net = (if s.csw.cwaMaster = true ∨ burst.isSome = true then { s.net with sent := .cwa (if (s.csw.role = .active ∧ s.csw.withdraw = false) ∨ s.csw.claimOn = true then 0x5A else 0xA5) :: s.net.sent } else s.net) →
    c = { s.csw with cwaUp := true, cwaAbsent := false, cwaMiss := 0, partnerSeen := true, seenAt := s.csw.seenAt.max (max s.clk.now t0) } →
    (burst = some 0x5A → ∃ t, exec (.cwaCycle t0 burst) s = .next t ∧ t.csw.claim = true ∧ t.csw.cwaSeenClaim = true ∧
      (s.csw.role ≠ .negotiating → t.csw = { c with claimOn := false, claim := true, cwaSeenClaim := true, cwaIdle := 0, negHeard := true, withdraw := s.csw.withdraw || (decide (s.csw.role = .active) && s.csw.handBeat.isSome) } ∧
        t.net = net ∧ Frame { clk := true, csw := true, net := true } s t) ∧
      (s.csw.role = .negotiating → t.csw.role = .syncing ∧ t.csw.ackPos = 0 ∧ t.csw.storeComplete = false ∧ t.net = { net with txq := [], unacked := [] })) ∧
    (burst = some 0xA5 → ∃ t, exec (.cwaCycle t0 burst) s = .next t ∧
      (s.csw.cwaSeenClaim = false → t.csw = { c with claim := false } ∧ t.net = net ∧ Frame { clk := true, csw := true, net := true } s t) ∧
      (s.csw.cwaSeenClaim = true → s.csw.cwaIdle < 4 → t.csw = { c with cwaIdle := s.csw.cwaIdle + 1 } ∧ t.net = net ∧ Frame { clk := true, csw := true, net := true } s t) ∧
      (s.csw.cwaSeenClaim = true → 4 ≤ s.csw.cwaIdle → s.csw.role = .standby → s.csw.takeoverPend = none → s.pwr.parkReq = 0 →
        t.csw = { c with claim := false, cwaSeenClaim := false, cwaIdle := 0, takeoverPend := some 0, takeoverRef := t0, termNeedsConfirm := false } ∧ t.net = net ∧ Frame { clk := true, csw := true, net := true } s t) ∧
      (s.csw.cwaSeenClaim = true → 4 ≤ s.csw.cwaIdle → s.csw.role = .active → t.csw = { c with claim := false, cwaSeenClaim := false, cwaIdle := 0 } ∧ t.net = net ∧ Frame { clk := true, csw := true, net := true } s t)) ∧
    (burst ≠ some 0x5A → burst ≠ some 0xA5 → ∃ t, exec (.cwaCycle t0 burst) s = .next t ∧
      (s.csw.cwaMiss < 4 → t.csw = { s.csw with cwaMiss := s.csw.cwaMiss + 1 } ∧ t.net = net ∧ Frame { clk := true, csw := true, net := true } s t) ∧
      (4 ≤ s.csw.cwaMiss → s.csw.cwaAbsent = true → t.csw = s.csw ∧ t.net = net ∧ Frame { clk := true, net := true } s t) ∧
      (4 ≤ s.csw.cwaMiss → s.csw.cwaAbsent = false → s.csw.hbLost = false → t.csw = { s.csw with cwaMiss := 5, cwaAbsent := true, cwaUp := false, claim := false, cwaSeenClaim := false, cwaIdle := 0, cause := if s.csw.cwaUp = true ∧ s.lanesUp ≠ [] then setBit s.csw.cause 4 true else s.csw.cause } ∧
        t.net = net ∧ Frame { clk := true, csw := true, net := true, evr := true } s t)) ∧
    (∃ t, exec .cwaMasterTakeover s = .next t ∧ t.csw.cwaMaster = true ∧ (s.csw.cwaAbsent = true → t.csw = { s.csw with cwaMaster := true } ∧ Frame { csw := true } s t) ∧
      (s.csw.cwaAbsent = false → s.csw.hbLost = false → t.csw = { s.csw with cwaMaster := true, cwaMiss := 5, cwaAbsent := true, cwaUp := false, claim := false, cwaSeenClaim := false, cwaIdle := 0, cause := if s.csw.cwaUp = true ∧ s.lanesUp ≠ [] then setBit s.csw.cause 4 true else s.csw.cause } ∧
        Frame { csw := true, evr := true } s t)) ∧
    (s.csw.role = .negotiating → ∃ t, exec (.negotiateSend t0) s = .next t ∧ (∃ b : List Byte, b = leBytes 8 (s.rankKeys[2]?.getD 0) ++ leBytes 2 (s.rankKeys[1]?.getD 0) ++ leBytes 1 (s.rankKeys[3]?.getD 0) ++ leBytes 1 (bit s.csw.storeComplete + 2 * bit s.ldr.img.isSome) ++ zeros 4 ++ padTo 32 s.ldr.digest ∧
      t.net = { s.net with sent := .cw 1 (s.cwFrame 0x06 1 0 b) :: .cw 0 (s.cwFrame 0x06 0 0 b) :: s.net.sent }) ∧ Frame { clk := true, net := true } s t) ∧
    (s.csw.role ≠ .negotiating → ∃ t, exec (.negotiateSend t0) s = .next t ∧ t.clk = { s.clk with now := max s.clk.now t0 } ∧ Frame { clk := true } s t) ∧
    (s.csw.role = .negotiating → env.ecc = [] → cwFormOk f = true → cwType f = 6 → cwNode f = s.partnerNode → s.csw.partnerSeen = true → s.csw.hbLost = false → s.csw.partnerRole = cwRole f → s.csw.delay ≤ 50000 →
      ∃ t, exec (.negotiateReceive lane t0 f env) s = .next t ∧
        (ranksAbove s.rankKeys (frameKeys f) s.node (cwNode f) = false → t.csw.role = .syncing ∧ t.csw.ackPos = 0 ∧ t.csw.storeComplete = false ∧ t.csw.term = s.csw.term) ∧
        (∀ n, n = s.net.slots.toList.foldl (fun m x => max m x.accTerm) (max s.csw.term (cwTerm f)) → ranksAbove s.rankKeys (frameKeys f) s.node (cwNode f) = true →
          (n < 0xFFFF → t.csw.role = .active ∧ t.csw.term = n + 1 ∧ t.csw.redLost = true ∧ t.csw.storeComplete = true) ∧ (0xFFFF ≤ n → t.csw.role = .failed ∧ t.csw.failReason = 5))) ∧
    (s.csw.role = .negotiating → s.csw.negHeard = false → s.csw.negSince + 200000000 ≤ t0 → ∃ t, exec (.negotiationTimeout t0) s = .next t ∧
      (s.highTerm < 0xFFFF → t.csw.role = .active ∧ t.csw.term = s.highTerm + 1 ∧ t.csw.redLost = true ∧ t.csw.termNeedsConfirm = true) ∧
      (0xFFFF ≤ s.highTerm → t.csw.role = .failed ∧ t.csw.failReason = 5)) ∧
    (s.csw.role ≠ .negotiating ∨ s.csw.negHeard = true ∨ t0 < s.csw.negSince + 200000000 → ∃ t, exec (.negotiationTimeout t0) s = .next t ∧
      t.clk = { s.clk with now := max s.clk.now t0 } ∧ Frame { clk := true } s t)

/-- MILESTONE_TRANSFER of an ACTIVE unit that may send takes the oldest waiting milestone into the stream: the position advances by the length of its records, the resend buffer keeps the latest 524,288 bytes, frames alone leave. CAUSEWAY_TRANSFER_DONE ends the sending; with no milestone left the other half counts as transferred. BULK_SEND to a SYNCING partner, once all has settled and no live milestone waits, sends groups of the program or durable instance store and advances the bulk offset, and ends with one BULK_END. RESEND_TIMEOUT sends again what the partner has not acknowledged and counts its groups, or, when the buffer no longer holds it, begins a new synchronisation at position 0. STREAM_RECEIVE at a STANDBY takes only an error-free frame at its acknowledged position; the position advances by the payload; incomplete records wait. A complete BULK record enters live and durable instance memory; a CHANGE record joins the milestone being received; COMMIT applies it where number and check agree: entries in live memory, milestone in the journal, its number the count. Frames at another position, with an uncorrectable group, or in another role, are discarded and counted. (R211; R214; R215; R216; R217; R218; R219; R220; 07_redundancy.md, The stream) -/
def Obligations.StreamsCarryMilestonesAndStores : Prop :=
  ∀ (s : State) (m : Milestone) (ms : List Milestone) (k n lane t0 : Nat) (f p : List Byte) (r : List Byte) (env : CwIn) (c : Csw), p = cwPay f →
    (s.csw.sendMs = m :: ms → s.maySend = true → ∃ t l, exec .milestoneTransfer s = .next t ∧ t.net = { s.net with sent := l ++ s.net.sent } ∧
      t.csw = { s.csw with pos := s.csw.pos + m.records.length, stream := (s.csw.stream ++ m.records).drop ((s.csw.stream ++ m.records).length - 524288), blocks := t.csw.blocks, cwLane := t.csw.cwLane, sendMs := ms, sending := some m.num, lagList := s.csw.lagList.map (fun x => if x.1 = m.num then (x.1, (x.2.1, some (s.csw.pos + m.records.length))) else x) } ∧ Frame { csw := true, net := true } s t) ∧
    (s.csw.sendMs = [] ∨ s.maySend = false → exec .milestoneTransfer s = .next s) ∧
    (s.csw.sending = some k → ∃ t, exec .causewayTransferDone s = .next t ∧ t.csw = { s.csw with sending := none } ∧ (s.csw.sendMs = [] → t.sto.other = { s.sto.other with transfer := true } ∧ t.sto.opened = s.sto.opened) ∧
      (s.csw.sendMs ≠ [] → t.sto = s.sto) ∧ Frame { sto := true, csw := true } s t) ∧
    (s.csw.sending = none → exec .causewayTransferDone s = .next s) ∧
    (s.csw.sendMs ≠ [] ∨ s.maySend = false ∨ s.csw.partnerRole ≠ 3 ∨ s.settledAll = false → exec (.bulkSend n) s = .next s) ∧
    (s.maySend = true → s.csw.sendMs = [] → s.csw.partnerRole = 3 → s.settledAll = true →
      (s.csw.bulkOff < 50331648 → k = min (min n 255) ((if s.csw.bulkOff < programSize then programSize - s.csw.bulkOff else 50331648 - s.csw.bulkOff) / 16) → 0 < k →
        r = (if s.csw.bulkOff < programSize then streamRecord 0x20 (2 ^ 63 + s.csw.bulkOff) (memBytes s.sto.program s.csw.bulkOff (16 * k)) else streamRecord 0x20 (instBase + (s.csw.bulkOff - programSize)) (memBytes s.sto.durable (instBase + (s.csw.bulkOff - programSize)) (16 * k))) →
        ∃ t l, exec (.bulkSend n) s = .next t ∧ t.net = { s.net with sent := l ++ s.net.sent } ∧
          t.csw = { s.csw with pos := s.csw.pos + r.length, stream := (s.csw.stream ++ r).drop ((s.csw.stream ++ r).length - 524288), bulkOff := s.csw.bulkOff + 16 * k, bulkTotal := s.csw.bulkTotal + 16 * k, bulkPct := 100 * (s.csw.bulkOff + 16 * k) / 50331648, blocks := t.csw.blocks, cwLane := t.csw.cwLane } ∧
          Frame { csw := true, net := true } s t) ∧
      (50331648 ≤ s.csw.bulkOff → s.csw.bulkEnd = false → ∃ t l, exec (.bulkSend n) s = .next t ∧ t.net = { s.net with sent := l ++ s.net.sent } ∧ t.csw.bulkEnd = true ∧
        t.csw.pos = s.csw.pos + (streamRecord 0x21 s.csw.bulkTotal []).length ∧ Frame { csw := true, net := true } s t) ∧
      (50331648 ≤ s.csw.bulkOff → s.csw.bulkEnd = true → exec (.bulkSend n) s = .next s)) ∧
    (s.csw.role = .active → s.hasPartner = true → s.lanesUp ≠ [] → s.csw.partnerAck < s.csw.pos →
      (s.csw.pos - s.csw.stream.length ≤ s.csw.partnerAck → ∃ t l, exec .resendTimeout s = .next t ∧ t.net = { s.net with sent := l ++ s.net.sent } ∧
        t.csw = { s.csw with resends := min 0xFFFFFFFF (s.csw.resends + (s.csw.pos - s.csw.partnerAck) / 16), cwLane := t.csw.cwLane } ∧ Frame { csw := true, net := true } s t) ∧
      (s.csw.partnerAck < s.csw.pos - s.csw.stream.length → ∃ t, exec .resendTimeout s = .next t ∧
        t.csw = { s.csw with sendMs := [], sending := none, pos := 0, stream := [], blocks := [], bulkOff := 0, bulkTotal := 0, bulkEnd := false, bulkPct := 0, resync := true, redLost := true, partnerAck := 0, lagList := [], lag := 0 } ∧ Frame { csw := true, sto := true } s t)) ∧
    (s.csw.role ≠ .active ∨ s.hasPartner = false ∨ s.lanesUp = [] ∨ s.csw.pos ≤ s.csw.partnerAck → exec .resendTimeout s = .next s) ∧
    (s.csw.dark = false → env.ecc.any (·.hard) = true → ∃ t, exec (.streamReceive lane t0 f env) s = .next t ∧ t.csw = { s.csw with frameErr := min 0xFFFFFFFF (s.csw.frameErr + 1), cause := setBit s.csw.cause 13 true } ∧
      t.host.memCause.getLsbD 1 = true ∧ Frame { clk := true, csw := true, sto := true, host := true, evr := true } s t) ∧
    (s.csw.dark = false → env.ecc = [] → cwFormOk f = true → cwType f = 2 → cwNode f = s.partnerNode → s.csw.partnerSeen = true → s.csw.hbLost = false → s.csw.partnerRole = cwRole f →
      c = { s.csw with laneUp := vset s.csw.laneUp lane true, partnerSeen := true, seenAt := s.csw.seenAt.max (max s.clk.now t0), partnerTerm := cwTerm f, partnerRole := cwRole f } →
      (cwPos f ≠ s.csw.ackPos ∨ s.csw.role ≠ .standby ∧ s.csw.role ≠ .syncing ∨ s.csw.takeoverPend ≠ none → ∃ t, exec (.streamReceive lane t0 f env) s = .next t ∧
        t.csw = { c with frameErr := min 0xFFFFFFFF (s.csw.frameErr + 1), cause := setBit s.csw.cause 13 true } ∧ Frame { clk := true, csw := true, evr := true } s t) ∧
      (s.csw.role = .standby → s.csw.takeoverPend = none → s.csw.goPend = none → cwPos f = s.csw.ackPos →
        ((s.csw.rx ++ p).length < 16 ∨ (s.csw.rx ++ p).length < 16 + 16 * getLE (s.csw.rx ++ p) 4 4 → ∃ t, exec (.streamReceive lane t0 f env) s = .next t ∧
          t.csw = { c with ackPos := s.csw.ackPos + p.length, rx := s.csw.rx ++ p } ∧ Frame { clk := true, csw := true } s t) ∧
        (s.csw.rx = [] → p.length = 16 + 16 * getLE p 4 4 →
          (byteAt p 0 = 0x20 → (getLE p 8 8).testBit 63 = false → ∃ t, exec (.streamReceive lane t0 f env) s = .next t ∧
            t.sto = { s.sto with lmem := memPut s.sto.lmem (getLE p 8 8) (p.drop 16), durable := memPut s.sto.durable (getLE p 8 8) (p.drop 16) } ∧
            t.csw = { c with ackPos := s.csw.ackPos + p.length, bulkOff := s.csw.bulkOff + (p.drop 16).length, bulkPct := min 100 (100 * (s.csw.bulkOff + (p.drop 16).length) / 50331648) } ∧ Frame { clk := true, csw := true, sto := true } s t) ∧
          (byteAt p 0 = 0x11 → s.csw.rxMs = some m → ∃ t, exec (.streamReceive lane t0 f env) s = .next t ∧
            t.csw = { c with ackPos := s.csw.ackPos + p.length, rxMs := some { m with entries := m.entries ++ [(getLE p 8 8, Ov.putBytes [] (getLE p 8 8) (p.drop 16))], net := Ov.putBytes m.net (getLE p 8 8) (p.drop 16) } } ∧ Frame { clk := true, csw := true } s t) ∧
          (byteAt p 0 = 0x14 → s.csw.rxMs = some m → m.num = getLE p 8 8 → crc32 (m.fields ++ m.entries.flatMap (fun e => e.2.map (fun x => x.2.2))) = s.csw.rxCheck → ∃ t, exec (.streamReceive lane t0 f env) s = .next t ∧
            t.sto.lmem = m.net.apply s.sto.lmem ∧ t.sto.journal = s.sto.journal ++ [m] ∧ t.sto.msCount = m.num ∧ t.sto.durable = s.sto.durable ∧ t.csw.rxMs = none ∧ t.csw.lastMs = some m ∧ t.csw.ackPos = s.csw.ackPos + p.length))))

/-- FAIL_RECEIVE from the partner: cause bit 1 is set unless its role was FAILED already; a STANDBY is to take over with the partner's reason and detection instant as the gap's reference; a SYNCING unit fails with reason 4; an ACTIVE one goes on without redundancy. TAKEOVER_EXECUTE of a STANDBY that detected a takeover, with a term left and its lane set available: it is ACTIVE, its term one above the highest it knows, the takeover is counted, the control gap in µs and its reason are held, redundancy is lost, its drivers are on, cause bit 0 is set, stream position 0; the commit engine opens its first half at the present beat; the lanes are idle with their scratch memories kept; the powered beat count continues that of the last applied milestone. With no takeover detected, only the time advances. TERM_CONFIRM_TIMEOUT fails an ACTIVE unit with reason 7 whose claim no station confirmed, and otherwise ends the wait. HANDOVER_DRIVERS_OFF, at the announced first launch of the new unit, switches the old unit's drivers off; earlier only the time advances. DRILL_DUE of a paired unit longer out of ACTIVE than entry 0x6004 allows sets cause bit 8 with a record, once a day. (R203; R221; R223; R224; R225; R230; R231; R233; R53; 07_redundancy.md, Takeover) -/
def Obligations.TakeoversExecuteAndAreConfirmed : Prop :=
  ∀ (s : State) (lane t0 reason i : Nat) (f p : List Byte) (env : CwIn) (c : Csw), p = cwPay f → i < 8 →
    (s.csw.dark = false → env.ecc = [] → cwFormOk f = true → cwType f = 3 → cwNode f = s.partnerNode → s.csw.partnerSeen = true → s.csw.hbLost = false → s.csw.partnerRole = cwRole f →
      c = { s.csw with laneUp := vset s.csw.laneUp lane true, partnerSeen := true, seenAt := s.csw.seenAt.max (max s.clk.now t0), partnerTerm := cwTerm f, partnerRole := cwRole f, cause := if cwRole f = 4 then s.csw.cause else setBit s.csw.cause 1 true } →
      ∃ t, exec (.failReceive lane t0 f env) s = .next t ∧
        (s.csw.role = .standby → s.csw.takeoverPend = none → s.pwr.parkReq = 0 →
          t.csw = { c with takeoverPend := some (byteAt p 0), takeoverRef := ((getLE p 8 8 : Int) - s.clk.scale (max s.clk.now t0)).toNat, termNeedsConfirm := false } ∧ Frame { clk := true, csw := true, evr := true } s t) ∧
        (s.csw.role = .syncing → t.csw.role = .failed ∧ t.csw.failReason = 4) ∧
        (s.csw.role = .active → t.csw.role = .active ∧ t.csw.redLost = true ∧ t.csw.lagList = [] ∧ t.csw.sendMs = [] ∧ t.csw.handBeat = none) ∧
        (s.csw.role = .solo ∨ s.csw.role = .failed ∨ s.csw.role = .negotiating → t.csw = c ∧ Frame { clk := true, csw := true, evr := true } s t)) ∧
    (s.csw.takeoverPend = some reason → s.csw.role = .standby → s.highTerm < 0xFFFF → (s.pwr.state = .reduced → s.minSetWide = false) → ∃ t, exec (.takeoverExecute t0) s = .next t ∧
      t.csw.role = .active ∧ t.csw.term = s.highTerm + 1 ∧ t.csw.takeovers = min 0xFFFFFFFF (s.csw.takeovers + 1) ∧ t.csw.gapUs = min 0xFFFF ((t0 - s.csw.takeoverRef) / 1000) ∧ t.csw.gapReason = reason ∧
      t.csw.redLost = true ∧ t.csw.driversOff = false ∧ t.csw.takeoverPend = none ∧ t.csw.cause.getLsbD 0 = true ∧ t.csw.pos = 0 ∧
      t.sto.isOpen = true ∧ t.sto.opened = { Half.reset with phase := .openHalf, firstBeat := s.clk.beat } ∧ t.sto.batches = [] ∧ t.sto.lmem = s.sto.lmem ∧ t.sto.msCount = s.sto.msCount ∧
      (t.lane i).task = none ∧ (t.lane i).scratch = (s.lane i).scratch ∧ t.clu.stopped = false ∧ t.clk.beat = s.clk.beat ∧
      t.clk.powered = (match s.csw.lastMs with | some m => m.powered + (s.clk.beat - m.closeBeat) | none => s.clk.powered)) ∧
    (s.csw.takeoverPend = none ∨ s.csw.role ≠ .standby → ∃ t, exec (.takeoverExecute t0) s = .next t ∧ t.clk = { s.clk with now := max s.clk.now t0 } ∧ Frame { clk := true } s t) ∧
    (s.csw.role = .active → s.csw.termNeedsConfirm = true → s.csw.termConfirmed = false → ∃ t, exec (.termConfirmTimeout t0) s = .next t ∧
      t.csw.role = .failed ∧ t.csw.failReason = 7 ∧ t.csw.driversOff = true ∧ t.clk.running = false) ∧
    (s.csw.role ≠ .active ∨ s.csw.termNeedsConfirm = false ∨ s.csw.termConfirmed = true → ∃ t, exec (.termConfirmTimeout t0) s = .next t ∧
      t.csw = { s.csw with termNeedsConfirm := false } ∧ Frame { clk := true, csw := true } s t) ∧
    (s.csw.holdOutputs = true → 0 < s.csw.partnerLaunch → s.csw.partnerLaunch ≤ s.ptpAt t0 → ∃ t, exec (.handoverDriversOff t0) s = .next t ∧
      t.csw = { s.csw with driversOff := true, holdOutputs := false } ∧ Frame { clk := true, csw := true, fio := true } s t) ∧
    (s.csw.holdOutputs = false ∨ s.csw.partnerLaunch = 0 ∨ s.ptpAt t0 < s.csw.partnerLaunch → ∃ t, exec (.handoverDriversOff t0) s = .next t ∧ t.clk = { s.clk with now := max s.clk.now t0 } ∧ Frame { clk := true } s t) ∧
    (s.csw.pair = true → s.csw.role ≠ .active → (∀ l, s.csw.drillLast = some l → l + 86400000 ≤ (s.reach t0).otMs) → s.inForce 0x6004 0 2592000000 < (s.reach t0).otMs - s.csw.sinceActive →
      ∃ t, exec (.drillDue t0) s = .next t ∧ t.csw = { s.csw with cause := setBit s.csw.cause 8 true, drillLast := some (s.reach t0).otMs } ∧ Frame { clk := true, csw := true, evr := true } s t) ∧
    (s.csw.pair = false ∨ s.csw.role = .active ∨ (∃ l, s.csw.drillLast = some l ∧ (s.reach t0).otMs < l + 86400000) ∨ (s.reach t0).otMs - s.csw.sinceActive ≤ s.inForce 0x6004 0 2592000000 →
      ∃ t, exec (.drillDue t0) s = .next t ∧ t.csw = s.csw ∧ Frame { clk := true } s t)

/-- A privileged write of 1 or 2 to CSW_CMD that nothing refuses announces the handover: command state 1, the kind, and the first beat whose boundary lies at least 1 ms ahead, in a HANDOVER frame on each lane that is up. It is refused with code 1 unless the unit is ACTIVE with a STANDBY partner, 2 when a swap is not ready, 3 while a handover is under way, 4 when the image staged at the partner cannot run in Reduced; then the command state is 4 with that code. Without privilege it is refused with UNPRIV. ABANDON_SWAP_CMD ends the preparation of a swap with report code 1 and cause bit 10 and changes nothing where none is prepared. HANDOVER_RECEIVE records the kind, and at a STANDBY the announced beat. HANDOVER_GO_SEND, once the handover milestone has left, makes the old unit hold its outputs and become STANDBY, or SYNCING at a swap, with its open half given up; before that only the time advances. HANDOVER_GO_RECEIVE at a STANDBY waits for the handover milestone to be applied, and takes over without a swap when it has been: ACTIVE with a new term, the drivers still off, the position continued from the acknowledged one. (R227; R228; R229; R230; R236; R238; R240; R221; 07_redundancy.md, Planned switchover) -/
def Obligations.PlannedSwitchoverAndProgramSwap : Prop :=
  ∀ (s : State) (m : Master) (lane t0 k code : Nat) (f : List Byte) (env : CwIn) (c : Csw) (cmd : Instr),
    (cmd = .swapDrillCmd m t0 ∧ k = 1 ∨ cmd = .programSwapCmd m t0 ∧ k = 2 → s.readReaches m 0x6024 = true →
      code = (if s.csw.role ≠ .active ∨ s.csw.partnerRole ≠ 2 ∨ s.hasPartner = false then 1 else if k = 2 ∧ s.ldr.swapReady = false then 2 else if s.csw.handBeat.isSome = true ∨ s.csw.handClosed = true then 3
        else if k = 2 ∧ s.pwr.state = .reduced ∧ 4 ≤ s.csw.partnerMinSet then 4 else 0) →
      (s.privOf m = true → code = 0 → ∃ t b, exec cmd s = .next t ∧ b = s.clk.beat + max 1 ((max s.clk.now t0 + 1000000 - s.clk.beatAt + 1000 * s.clk.p - 1) / (1000 * s.clk.p)) ∧
        t.csw = { s.csw with cmdState := 1, cmdRefuse := 0, kind := k, handBeat := some b, handClosed := false } ∧
        t.net.sent = (if vget s.csw.laneUp 1 false then [.cw 1 (s.cwFrame 0x04 1 0 (leBytes 1 k ++ zeros 7 ++ leBytes 8 b))] else []) ++ (if vget s.csw.laneUp 0 false then [.cw 0 (s.cwFrame 0x04 0 0 (leBytes 1 k ++ zeros 7 ++ leBytes 8 b))] else []) ++ s.net.sent ∧
        Frame { clk := true, csw := true, net := true } s t) ∧
      (s.privOf m = true → code ≠ 0 → ∃ t, exec cmd s = .next t ∧ t.csw = { s.csw with cmdState := 4, cmdRefuse := code } ∧ Frame { clk := true, csw := true, dict := true } s t) ∧
      (s.privOf m = false → ∃ t, exec cmd s = .next t ∧ t.host.fault.getLsbD 3 = true ∧ t.csw = s.csw ∧ Frame { clk := true, host := true, evr := true } s t)) ∧
    (s.readReaches m 0x6024 = true → s.privOf m = true →
      (s.ldr.converting = true → ∃ t, exec (.abandonSwapCmd m) s = .next t ∧ t.ldr = { s.ldr with converting := false, swapReady := false, conv := [], state := 3, swapReport := padTo 32 s.ldr.digest ++ padTo 32 s.ldr.stagedDigest ++ zeros 10 ++ [1] ++ zeros 21 } ∧
        t.csw.cause.getLsbD 10 = true ∧ Frame { ldr := true, csw := true, evr := true, trc := true } s t) ∧
      (s.ldr.converting = false → s.csw.role = .active → s.ldr.swapReady = true → s.csw.handClosed = false → ∃ t, exec (.abandonSwapCmd m) s = .next t ∧ t.ldr = { s.ldr with swapReady := false, swapReport := padTo 32 s.ldr.digest ++ padTo 32 s.csw.partnerDigest ++ zeros 10 ++ [1] ++ zeros 21 } ∧ t.csw.swapDropped = true ∧ t.csw.cause.getLsbD 10 = true ∧
        (s.csw.kind = 2 → t.csw.handBeat = none ∧ t.csw.cmdState = if s.csw.handBeat.isSome = true then 0 else s.csw.cmdState) ∧ (s.csw.kind ≠ 2 → t.csw.handBeat = s.csw.handBeat) ∧ Frame { ldr := true, csw := true, evr := true } s t) ∧
      (s.ldr.converting = false → s.csw.role ≠ .active ∨ s.ldr.swapReady = false ∨ s.csw.handClosed = true → exec (.abandonSwapCmd m) s = .next s)) ∧
    (s.csw.dark = false → env.ecc = [] → cwFormOk f = true → cwNode f = s.partnerNode → s.csw.partnerSeen = true → s.csw.hbLost = false → s.csw.partnerRole = cwRole f →
      c = { s.csw with laneUp := vset s.csw.laneUp lane true, partnerSeen := true, seenAt := s.csw.seenAt.max (max s.clk.now t0), partnerTerm := cwTerm f, partnerRole := cwRole f } →
      (cwType f = 4 → ∃ t, exec (.handoverReceive lane t0 f env) s = .next t ∧ t.csw = { c with kind := byteAt f 16, handBeat := if s.csw.role = .standby then some (getLE f 24 8) else s.csw.handBeat } ∧ Frame { clk := true, csw := true } s t) ∧
      (cwType f = 5 → s.csw.role = .standby →
        (∀ x, s.csw.lastMs = some x → x.num ≠ getLE f 16 8) → ∃ t, exec (.handoverGoReceive lane t0 f env) s = .next t ∧ t.csw = { c with goPend := some (getLE f 16 8, getLE f 24 8) } ∧ Frame { clk := true, csw := true } s t) ∧
      (cwType f = 5 → s.csw.role ≠ .standby → ∃ t, exec (.handoverGoReceive lane t0 f env) s = .next t ∧ t.csw = c ∧ Frame { clk := true, csw := true } s t) ∧
      (∀ x n, n = s.net.slots.toList.foldl (fun m x => max m x.accTerm) (max s.csw.term (cwTerm f)) → cwType f = 5 → s.csw.role = .standby → s.csw.lastMs = some x → x.num = getLE f 16 8 → s.csw.kind ≠ 2 ∨ s.ldr.swapReady = false → n < 0xFFFF → (s.pwr.state = .reduced → s.minSetWide = false) →
        ∃ t, exec (.handoverGoReceive lane t0 f env) s = .next t ∧ t.csw.role = .active ∧ t.csw.term = n + 1 ∧ t.csw.driversOff = true ∧ t.csw.pos = s.csw.ackPos ∧ t.csw.gapReason = 0 ∧ t.csw.takeovers = min 0xFFFFFFFF (s.csw.takeovers + 1) ∧
          t.sto.isOpen = true ∧ t.sto.lmem = s.sto.lmem ∧ t.clk.powered = x.powered + (s.clk.beat - x.closeBeat))) ∧
    (s.csw.role = .active → s.csw.handClosed = true → s.csw.sendMs = [] → s.csw.sending = none → ∃ t, exec (.handoverGoSend t0) s = .next t ∧
      t.csw.holdOutputs = true ∧ t.csw.heldOut = s.sto.launched ∧ t.csw.claimOn = true ∧ t.csw.cmdState = 3 ∧ t.csw.handBeat = none ∧ t.csw.handClosed = false ∧ t.csw.redLost = false ∧ t.sto.batches = [] ∧ t.sto.unreported = [] ∧ t.sto.isOpen = false ∧ t.sto.lmem = s.sto.lmem ∧
      (s.csw.kind = 2 → t.csw.role = .syncing ∧ t.csw.ackPos = 0 ∧ t.csw.storeComplete = false) ∧ (s.csw.kind ≠ 2 → t.csw.role = .standby ∧ t.csw.ackPos = s.csw.pos ∧ t.csw.lastMs = s.csw.lastMs) ∧
      Frame { clk := true, ldr := true, csw := true, sto := true, net := true, wdg := true, evr := true } s t) ∧
    (s.csw.role ≠ .active ∨ s.csw.handClosed = false ∨ s.csw.sendMs ≠ [] ∨ s.csw.sending ≠ none → ∃ t, exec (.handoverGoSend t0) s = .next t ∧ t.clk = { s.clk with now := max s.clk.now t0 } ∧ Frame { clk := true } s t)

/-- For channels 0 to 511. A trip of a conducting channel switches it off, marks it as tripped and sets its FIO_OVLD bit, and FIO_CAUSE bit 9 is set at the first trip alone. When a tripped channel has cooled, its trip ends and it conducts exactly when the table of R255 drives it on. A channel that has conducted for 100 ms without a trip loses its FIO_OVLD bit. Each of the three answers a next state in which every other channel, every group and every part of the state but the field subsystem and the recorder is as before. A trip of a channel that does not conduct and a cooling of one that is not tripped change nothing (the model's reading, log 7). (R251; R255; 08_field_channels.md, Output channels) -/
def Obligations.ThermalCyclingOfAChannel : Prop :=
  ∀ (s : State) (c : Nat), c < 512 →
    ((s.chan c).conduct = true → ∃ t, exec (.thermalTrip c) s = .next t ∧
      t.chan c = { s.chan c with conduct := false, tripped := true, ovld := true } ∧ (∀ d, d ≠ c → t.chan d = s.chan d) ∧
      t.fio.cause = (if (s.chan c).ovld then s.fio.cause else setBit s.fio.cause 9 true) ∧ t.fio.groups = s.fio.groups ∧
      Frame { fio := true, evr := true } s t) ∧
    ((s.chan c).tripped = true → ∃ t, exec (.thermalCooled c) s = .next t ∧
      t.chan c = { s.chan c with tripped := false, conduct := s.driveVal s.safeRanges c (s.chan c) } ∧
      (∀ d, d ≠ c → t.chan d = s.chan d) ∧ { t.fio with chans := s.fio.chans } = s.fio ∧ Frame { fio := true } s t) ∧
    ((s.chan c).conduct = true → ∃ t, exec (.overloadClear c) s = .next t ∧
      t.chan c = { s.chan c with ovld := false } ∧
      (∀ d, d ≠ c → t.chan d = s.chan d) ∧ { t.fio with chans := s.fio.chans } = s.fio ∧ Frame { fio := true } s t) ∧
    ((s.chan c).conduct = false → exec (.thermalTrip c) s = .next s) ∧
    ((s.chan c).tripped = false → exec (.thermalCooled c) s = .next s)

/-- For channels 0 to 511 and groups 0 to 7. A conducting channel with open-load detection enabled, outside thermal cycling and not yet marked, sets its FIO_OPEN bit and FIO_CAUSE bit 8; a conducting channel whose current is back loses the bit; no other channel changes. A group that has counted 2,000 samples within the band and is not qualified becomes qualified, and its GRP_WARN, GRP_HIGH, GRP_INVALID and GRP_MISSING clear; where its outputs are switched off with GRP_LOW or GRP_OVERCURRENT latched and this is its first qualification, or GRP_RESTORE is 1 and GRP_LOW alone latched, re-application waits for the next boundary. Over-current latches GRP_OVERCURRENT, switches the group off and stops every channel of the group at once. FIO_CAUSE takes the group's bit where the group is used, and no other group changes. Each answers a next state in which every other part of the state is as before. (R252; R253; R259; R260; 08_field_channels.md, Group supplies) -/
def Obligations.OpenLoadAndGroupMonitors : Prop :=
  ∀ (s : State) (c g : Nat), c < 512 → g < 8 →
    ((s.chan c).openEn = true → (s.chan c).conduct = true → (s.chan c).ovld = false → (s.chan c).openLoad = false →
      ∃ t, exec (.openLoadDetect c) s = .next t ∧ t.chan c = { s.chan c with openLoad := true } ∧ (∀ d, d ≠ c → t.chan d = s.chan d) ∧
        t.fio.cause = setBit s.fio.cause 8 true ∧ t.fio.groups = s.fio.groups ∧ Frame { fio := true, evr := true } s t) ∧
    ((s.chan c).conduct = true → ∃ t, exec (.openLoadClear c) s = .next t ∧ t.chan c = { s.chan c with openLoad := false } ∧
      (∀ d, d ≠ c → t.chan d = s.chan d) ∧ { t.fio with chans := s.fio.chans } = s.fio ∧ Frame { fio := true } s t) ∧
    ((s.group g).qualified = false → 2000 ≤ (s.group g).qualCount → ∃ t, exec (.groupQualified g) s = .next t ∧
      t.group g = { s.group g with
        qualified := true, warn := false, high := false, invalid := false, missing := false, crossed15 := false, everQualified := true,
        reapply := (s.group g).reapply || (!(s.group g).everQualified && ((s.group g).low || (s.group g).overcurrent)) || ((s.group g).restore && (s.group g).low && !(s.group g).overcurrent) } ∧
      (∀ d, d ≠ g → t.group d = s.group d) ∧ t.fio.chans = s.fio.chans ∧
      t.fio.cause = (if (s.group g).used then setBit s.fio.cause g true else s.fio.cause) ∧ Frame { fio := true, evr := true } s t) ∧
    (∃ t, exec (.grpOvercurrent g) s = .next t ∧ (t.group g).overcurrent = true ∧ (t.group g).off = true ∧ (t.group g).reapply = false ∧
      (∀ d, d ≠ g → t.group d = s.group d) ∧ (c / 64 = g → (t.chan c).conduct = false ∧ (t.chan c).onAt = none) ∧
      t.fio.cause = (if (s.group g).used then setBit s.fio.cause g true else s.fio.cause) ∧ Frame { fio := true, evr := true } s t)

/-- For channels 0 to 511 and groups 0 to 7. A switch-on that has fallen due by the instant given makes its channel conduct and changes no other channel. When the logic-silence timeout expires, EXPIRED and FIO_CAUSE bit 10 are set and every pin follows the table of R255 at once; a channel whose safe value is 0, or whose group is switched off, or while the drivers are off, stops conducting; a station sets STATE.REJOIN. A write to FIO_GRP_ACK by any master that reaches the block acknowledges exactly the groups whose bit is 1 and that are qualified with GRP_LOW or GRP_OVERCURRENT latched: their re-application waits for the boundary; every other acknowledgement is discarded. Each answers a next state in which every other part of the state is as before. (R254; R256; R257; R261; 08_field_channels.md, Stagger) -/
def Obligations.SwitchOnSilenceAndAcknowledgement : Prop :=
  ∀ (s : State) (c g t mask : Nat) (m : Master), c < 512 → g < 8 →
    (∀ d, (s.chan c).onAt = some d → d ≤ max s.clk.now t → ∃ u, exec (.staggeredSwitchOn c t) s = .next u ∧
      u.chan c = { s.chan c with onAt := none, conduct := true } ∧ (∀ d, d ≠ c → u.chan d = s.chan d) ∧
      { u.fio with chans := s.fio.chans } = s.fio ∧ u.clk = { s.clk with now := max s.clk.now t } ∧ Frame { clk := true, fio := true } s u) ∧
    (s.fio.expired = false → ∃ u, exec .logicSilenceExpiry s = .next u ∧ u.fio.expired = true ∧ u.fio.cause = setBit s.fio.cause 10 true ∧
      u.fio.groups = s.fio.groups ∧
      ((s.chan c).mode ≠ 3 ∨ (s.group (c / 64)).off = true ∨ s.driversOff = true ∨ (s.chan c).safeVal = 0 → (u.chan c).conduct = false) ∧
      u.net = (if s.pwr.role = .station then { s.net with stRejoin := true } else s.net) ∧
      Frame { fio := true, evr := true, net := true } s u) ∧
    (s.readReaches m 0x700C = true → ∃ u, exec (.grpAck m mask) s = .next u ∧
      u.group g = (if mask.testBit g && (s.group g).qualified && ((s.group g).low || (s.group g).overcurrent) then { s.group g with reapply := true } else s.group g) ∧
      { u.fio with groups := s.fio.groups } = s.fio ∧ Frame { fio := true } s u)

/-- While the FIO domain is powered, RAW_SAMPLE answers a next state. For channels 0 to 511 in an input mode whose pin voltage reads a decided level (at or above the upper level of its mode the raw value is 1, from -30 V to 5 V it is 0): at the first sample since the domain powered up the filtered value is the raw value with count 0; after that a raw value equal to the filtered one puts the count at 0, any other counts one, and when the count reaches max(1, F / 10) the raw value becomes the filtered value with count 0. Only the time base, the stores, the field subsystem, the recorder and the number of free values used may change. The levels are those of modes 1 and 2 of the table of R245. (R246; R249; 08_field_channels.md, Inputs) -/
def Obligations.RawSampleFiltersInputs : Prop :=
  ∀ (s : State) (t c : Nat) (pins : List (Nat × Int)) (supply current : List Nat), s.domainOn 10 = true → c < 512 →
    ∃ u, exec (.rawSample t pins supply current) s = .next u ∧
      Frame { clk := true, sto := true, fio := true, evr := true, free := true } s u ∧
      ∀ (hi v : Int) (r : Bool), ((s.chan c).mode = 1 ∧ hi = 15000 ∨ (s.chan c).mode = 2 ∧ hi = 11000) → v = (aget pins c).getD 0 →
        (hi ≤ v ∧ v ≤ 36000 ∧ r = true ∨ -30000 ≤ v ∧ v ≤ 5000 ∧ r = false) →
        ((s.chan c).sampled = false → (u.chan c).filtered = r ∧ (u.chan c).count = 0) ∧
        ((s.chan c).sampled = true → r = (s.chan c).filtered → (u.chan c).filtered = (s.chan c).filtered ∧ (u.chan c).count = 0) ∧
        ((s.chan c).sampled = true → r ≠ (s.chan c).filtered → (s.chan c).count + 1 < max 1 ((s.chan c).filter / 10) →
          (u.chan c).filtered = (s.chan c).filtered ∧ (u.chan c).count = (s.chan c).count + 1) ∧
        ((s.chan c).sampled = true → r ≠ (s.chan c).filtered → max 1 ((s.chan c).filter / 10) ≤ (s.chan c).count + 1 →
          (u.chan c).filtered = r ∧ (u.chan c).count = 0)

/-- On a PTP port, in the configured domain and transport, a Sync message sets the servo offset, the frequency correction limited to 100 ppm, the servo's reading (from the first lock on the node's) and the counts of consecutive offsets within and beyond 200 ns; an Announce message sets grandmaster class, stepsRemoved, grandmaster and port state. Then an unlocked node with 8 consecutive offsets within 200 ns and at most 16 steps becomes locked and leaves holdover, NET_CAUSE bit 2 being set; a locked node with 4 consecutive offsets beyond, or more than 16 steps, loses lock into holdover, bit 3 being set; else lock stays. No beat number, beat period or beat instant changes. A master end-to-end port answers Delay_Req, a peer-to-peer port Pdelay_Req in two steps. A message on another port, domain or transport, or with the network domain off, only passes time. The announce receipt timeout, with a PTP port, ends lock into holdover and makes the node its own grandmaster. A master port (its port up, and the node grandmaster or a boundary clock) sends Sync and Follow_Up, and Announce with the node's priorities and steps; a peer-to-peer port sends Pdelay_Req, an end-to-end slave Delay_Req, an end-to-end grandmaster and a port that is down nothing. A PPS_IN edge within 0.5 s of the second boundary is taken by a grandmaster and by no other node; a second boundary raises PPS_OUT; a lost T1 reference changes over to the crystal, once, and writes record 0x3001. (R20; R21; R270; R271; R512; R514; 09_plant_network.md, The shared clock) -/
def Obligations.SharedClockAndLock : Prop :=
  ∀ (s : State) (port t0 cc cls steps st dom : Nat) (o f : Int) (gm udp : Bool) (m : PtpMsg) (k : Clk),
    ((m = .sync o f cc ∧ k = { s.clk with now := max s.clk.now t0, offset := o, freq := max (-100000) (min 100000 f), slewLimited := decide (f < -100000 ∨ 100000 < f), ptpServo := (cc : Int) - (max s.clk.now t0 : Nat), ptpOff := if s.clk.everLocked = true then (cc : Int) - (max s.clk.now t0 : Nat) else s.clk.ptpOff, ppsSecond := if s.clk.everLocked = true then 0 else s.clk.ppsSecond, inCount := if o.natAbs ≤ 200 then min 8 (s.clk.inCount + 1) else 0, outCount := if o.natAbs ≤ 200 then 0 else min 4 (s.clk.outCount + 1) }) ∨
      (m = .announce cls steps gm st ∧ k = { s.clk with now := max s.clk.now t0, gmClass := cls, steps := steps, gm := gm, portState := st }) →
      (s.domainOn 7 = true → (s.inForce 0x1200 3 0x0F).testBit port = true → dom = s.inForce 0x1200 2 0 → udp = decide (s.inForce 0x1200 5 0 = 1) → ∃ t, exec (.ptpMessageReceive port t0 dom udp m) s = .next t ∧ Frame { clk := true, net := true, evr := true } s t ∧
        (k.locked = false → 8 ≤ k.inCount → k.steps ≤ 16 → t.clk = { k with locked := true, holdover := false, everLocked := true, outCount := 0, ptpOff := if k.everLocked = true then k.ptpOff else k.ptpServo } ∧ t.net = { s.net with cause := setBit s.net.cause 2 true }) ∧
        (k.locked = true → 4 ≤ k.outCount ∨ 16 < k.steps → t.clk = { k with locked := false, holdover := true } ∧ t.net = { s.net with cause := setBit s.net.cause 3 true }) ∧
        (k.locked = true ∧ k.outCount < 4 ∧ k.steps ≤ 16 ∨ k.locked = false ∧ (k.inCount < 8 ∨ 16 < k.steps) → t.clk = k ∧ Frame { clk := true } s t)) ∧
      (s.domainOn 7 = false ∨ (s.inForce 0x1200 3 0x0F).testBit port = false ∨ dom ≠ s.inForce 0x1200 2 0 ∨ udp ≠ decide (s.inForce 0x1200 5 0 = 1) → ∃ t, exec (.ptpMessageReceive port t0 dom udp m) s = .next t ∧
        t.clk = { s.clk with now := max s.clk.now t0 } ∧ Frame { clk := true } s t)) ∧
    (s.domainOn 7 = true → (s.inForce 0x1200 3 0x0F).testBit port = true → dom = s.inForce 0x1200 2 0 → udp = decide (s.inForce 0x1200 5 0 = 1) → s.net.link.getLsbD port = true →
      ((s.inForce 0x1200 4 0).testBit port = false → s.clk.gm = true ∨ s.inForce 0x1200 1 0 = 1 → ∃ t, exec (.ptpMessageReceive port t0 dom udp .delayReq) s = .next t ∧
        t.net = { s.net with sent := .ptp port .delayResp (s.reach t0).ptpNow dom udp (s.inForce 0x1200 6 0xFC) :: s.net.sent } ∧ t.clk = { s.clk with now := max s.clk.now t0 } ∧ Frame { clk := true, net := true } s t) ∧
      ((s.inForce 0x1200 4 0).testBit port = true → ∃ t, exec (.ptpMessageReceive port t0 dom udp .pdelayReq) s = .next t ∧
        t.net = { s.net with sent := .ptp port .pdelayFollowUp (s.reach t0).ptpNow dom udp (s.inForce 0x1200 6 0xFC) :: .ptp port .pdelayResp (s.reach t0).ptpNow dom udp (s.inForce 0x1200 6 0xFC) :: s.net.sent } ∧
        t.clk = { s.clk with now := max s.clk.now t0 } ∧ Frame { clk := true, net := true } s t)) ∧
    (s.domainOn 7 = false ∨ s.inForce 0x1200 3 0x0F % 64 = 0 → ∃ t, exec (.announceReceiptTimeout t0) s = .next t ∧ t.clk = { s.clk with now := max s.clk.now t0 } ∧ Frame { clk := true } s t) ∧
    (s.domainOn 7 = true → s.inForce 0x1200 3 0x0F % 64 ≠ 0 → ∃ t, exec (.announceReceiptTimeout t0) s = .next t ∧
      t.clk = { s.clk with now := max s.clk.now t0, locked := false, holdover := s.clk.locked || s.clk.holdover, inCount := 0, outCount := 0, gm := true, steps := 0, portState := 6, gmClass := Config.clockClass } ∧
      (s.clk.locked = true → t.net = { s.net with cause := setBit s.net.cause 3 true }) ∧ (s.clk.locked = false → t.net = s.net) ∧ Frame { clk := true, net := true, evr := true } s t) ∧
    (s.domainOn 7 = true → (s.inForce 0x1200 3 0x0F).testBit port = true → s.net.link.getLsbD port = true →
      (s.clk.gm = true ∨ s.inForce 0x1200 1 0 = 1 →
        (∃ t, exec (.ptpSyncSend port t0) s = .next t ∧ t.net = { s.net with sent := .ptp port .followUp (s.reach t0).ptpNow s.ptpDomain s.ptpUdp (s.inForce 0x1200 6 0xFC) :: .ptp port .sync (s.reach t0).ptpNow s.ptpDomain s.ptpUdp (s.inForce 0x1200 6 0xFC) :: s.net.sent } ∧
          t.clk = { s.clk with now := max s.clk.now t0 } ∧ Frame { clk := true, net := true } s t) ∧
        (∃ t, exec (.ptpAnnounceSend port) s = .next t ∧ t.net = { s.net with sent := .ptp port (.announce (s.inForce 0x1200 7 128) (s.inForce 0x1200 8 128) s.clk.steps) s.ptpNow s.ptpDomain s.ptpUdp (s.inForce 0x1200 6 0xFC) :: s.net.sent } ∧ Frame { net := true } s t)) ∧
      (s.clk.gm = false → s.inForce 0x1200 1 0 ≠ 1 → exec (.ptpAnnounceSend port) s = .next s ∧
        ∃ t, exec (.ptpSyncSend port t0) s = .next t ∧ t.clk = { s.clk with now := max s.clk.now t0 } ∧ Frame { clk := true } s t) ∧
      ((s.inForce 0x1200 4 0).testBit port = true → ∃ t, exec (.ptpDelayRequestSend port) s = .next t ∧ t.net = { s.net with sent := .ptp port .pdelayReq s.ptpNow s.ptpDomain s.ptpUdp (s.inForce 0x1200 6 0xFC) :: s.net.sent } ∧ Frame { net := true } s t) ∧
      ((s.inForce 0x1200 4 0).testBit port = false → s.clk.gm = false → ∃ t, exec (.ptpDelayRequestSend port) s = .next t ∧ t.net = { s.net with sent := .ptp port .delayReq s.ptpNow s.ptpDomain s.ptpUdp (s.inForce 0x1200 6 0xFC) :: s.net.sent } ∧ Frame { net := true } s t) ∧
      ((s.inForce 0x1200 4 0).testBit port = false → s.clk.gm = true → exec (.ptpDelayRequestSend port) s = .next s)) ∧
    (s.net.link.getLsbD port = false → exec (.ptpDelayRequestSend port) s = .next s ∧ exec (.ptpAnnounceSend port) s = .next s) ∧
    (s.clk.gm = true → o.natAbs ≤ 500000000 → ∃ t, exec (.ppsInEdge o) s = .next t ∧ t.clk = { s.clk with ptpOff := s.clk.scale s.clk.now, ppsAt := s.clk.now, ppsSecond := o } ∧ Frame { clk := true } s t) ∧
    (s.clk.gm = false ∨ 500000000 < o.natAbs → exec (.ppsInEdge o) s = .next s) ∧
    (∃ t, exec .ppsOutPulse s = .next t ∧ t.clk = { s.clk with ppsOut := s.clk.ppsOut + 1 } ∧ Frame { clk := true } s t) ∧
    (s.clk.refT1 = true → ∃ t, exec .refLost s = .next t ∧ t.clk = { s.clk with refT1 := false } ∧ t.evr = ((s.upClk (fun c => { c with refT1 := false })).occur 0x3001 0 []).evr ∧ Frame { clk := true, evr := true } s t) ∧
    (s.clk.refT1 = false → exec .refLost s = .next s)

/-- A frame of station traffic at a port, with the network domain on. The second copy of a frame on a PRP pair is discarded and counted in NET_PRP_DUP; a port outside PRP discards none. Otherwise: other traffic, and a station frame on a port that takes none, changes nothing; an HSR frame counts in NET_RX_ERR; a station frame that fails R279 counts there and sets cause bit 10. A frame, good or not, whose SRC is the receiver's own from another address sets NODE_CLASH and writes a record at severity 2. A frame type that the receiver's role does not take has no further effect. A station checks an OUTPUT frame or claim in this order: SRC not configured, counted without reply; PERIOD differs, REASON 3; TERM below the accepted one, 1; equal with another node, 2 (both counted in NET_TERM_REJECT, cause bit 8); a higher TERM or the first is accepted with its node, and buffered frames of lower terms go; a claim ends with REASON 0; free-running numbering after PTP numbering or an obsolete frame, 5; a timed frame later than LAUNCH - 2 us, 4 with NET_RX_LATE and cause bit 7; more than 10 s + P ahead, 6; 64 buffered, 7; else the frame is buffered when it is timed and applied at once when it is not, with REASON 0. Each answer is a STATUS, which with nothing queued and a port up leaves at once, and sending moves only queues, counters and sequence numbers. SYNC and lock decide what is timed. (R269; R273; R274; R276; R278; R279; R286; R288; 09_plant_network_and_time.md, Outputs to stations) -/
def Obligations.StationFramesAreCheckedAndAnswered : Prop :=
  ∀ (s : State) (c : Instr) (port t0 r : Nat) (f mac p : List Byte) (u w v : State) (timed : Bool),
    c = .outputFrameReceive port t0 f ∨ c = .termClaimReceive port t0 f ∨ c = .stationInputReceive port t0 f ∨ c = .statusReceive port t0 f →
    s.domainOn 7 = true → u = ((s.reach t0).prpSeen port f).2 →
    (4 ≤ port ∨ s.prpOn (port / 2) = false ∨ prpKey f = none → ((s.reach t0).prpSeen port f).1 = false) ∧
    (((s.reach t0).prpSeen port f).1 = true → ∃ t, exec c s = .next t ∧ t.net = { s.net with seen := u.net.seen, prpDup := min 0xFFFFFFFF (s.net.prpDup + 1) } ∧ Frame { clk := true, net := true } s t) ∧
    (((s.reach t0).prpSeen port f).1 = false → u.net = { s.net with seen := u.net.seen } ∧
      (s.ethKind f = .other → ∃ t, exec c s = .next t ∧ t.net = u.net ∧ Frame { clk := true, net := true } s t) ∧
      (s.ethKind f = .hsr → ∃ t, exec c s = .next t ∧ t.net = { u.net with rxErr := min 0xFFFFFFFF (s.net.rxErr + 1) } ∧ Frame { clk := true, net := true } s t) ∧
      (s.ethKind f = .station mac p → s.stationPort port = false → ∃ t, exec c s = .next t ∧ t.net = u.net ∧ Frame { clk := true, net := true } s t) ∧
      (s.ethKind f = .station mac p → s.stationPort port = true →
        w = (if 6 ≤ p.length ∧ frSrc p = s.node ∧ mac ≠ ownMac then (u.upNet (fun n => { n with cause := setBit n.cause 11 true })).occurSev 0x0C0B (frSrc p) 2 [] else u) →
        w.net = { u.net with cause := if 6 ≤ p.length ∧ frSrc p = s.node ∧ mac ≠ ownMac then setBit s.net.cause 11 true else s.net.cause } ∧
        ((headerOk p && payloadOk p && s.frameForUs p) = false → ∃ t, exec c s = .next t ∧
          t.net = { w.net with rxErr := min 0xFFFFFFFF (s.net.rxErr + 1), cause := setBit w.net.cause 10 true } ∧ Frame { clk := true, net := true, evr := true } s t) ∧
        ((headerOk p && payloadOk p && s.frameForUs p) = true →
        (s.pwr.role = .replay ∨ s.pwr.role = .station ∧ frType p ≠ 2 ∧ frType p ≠ 4 ∨ s.pwr.role = .controller ∧ frType p ≠ 1 ∧ frType p ≠ 3 →
          ∃ t, exec c s = .next t ∧ t.net = w.net ∧ t.evr = w.evr ∧ Frame { clk := true, net := true, evr := true } s t) ∧
        (s.pwr.role = .station → frType p = 2 ∨ frType p = 4 →
          (frSrc p ≠ s.inForce 0x1300 1 0xFFFF → frSrc p ≠ s.inForce 0x1300 2 0xFFFF → ∃ t, exec c s = .next t ∧
            t.net = { w.net with rxErr := min 0xFFFFFFFF (s.net.rxErr + 1) } ∧ Frame { clk := true, net := true, evr := true } s t) ∧
          (frSrc p = s.inForce 0x1300 1 0xFFFF ∨ frSrc p = s.inForce 0x1300 2 0xFFFF →
            (frPeriod p ≠ s.clk.p → ∃ t, exec c s = .next t ∧ t.net = ((w.netCause 9 (frSrc p)).statusSend p 3).net ∧ Frame { clk := true, net := true, evr := true } s t) ∧
            (frPeriod p = s.clk.p →
              (s.net.accNode ≠ 0xFFFF → frTerm p < s.net.accTerm ∧ r = 1 ∨ frTerm p = s.net.accTerm ∧ frSrc p ≠ s.net.accNode ∧ r = 2 → ∃ t, exec c s = .next t ∧
                t.net = (((w.upNet (fun n => { n with termReject := min 0xFFFFFFFF (n.termReject + 1) })).netCause 8 (frSrc p)).statusSend p r).net ∧ Frame { clk := true, net := true, evr := true } s t) ∧
              (s.net.accNode = 0xFFFF ∨ s.net.accTerm < frTerm p ∨ s.net.accTerm = frTerm p ∧ frSrc p = s.net.accNode → timed = (frSync p && s.isLocked) →
                v = (if s.net.accNode ≠ 0xFFFF ∧ frTerm p = s.net.accTerm then w else w.upNet (fun n => { n with accTerm := frTerm p, accNode := frSrc p, ptpApplied := false, buf := n.buf.filter (fun q => decide (frTerm p ≤ frTerm q)) })) →
                (frType p = 4 → ∃ t, exec c s = .next t ∧ t.net = (v.statusSend p 0).net ∧ Frame { clk := true, net := true, evr := true } s t) ∧
                (frType p = 2 → r = (if frPtp p = false ∧ v.net.ptpApplied = true then 5 else if v.net.obsolete p = true then 5 else if timed = true ∧ frLaunch p < v.ptpAt t0 + 2000 then 4 else if timed = true ∧ v.ptpAt t0 + 10000000000 + 1000 * s.clk.p < frLaunch p then 6 else if 64 ≤ v.net.buf.length then 7 else 0) →
                  (r = 0 → timed = true → ∃ t, exec c s = .next t ∧ t.net = ((v.upNet (fun n => { n with lastHold := frHold p, buf := n.buf ++ [p] })).statusSend p 0).net ∧ Frame { clk := true, net := true, evr := true } s t) ∧
                  (r = 0 → timed = false → ∃ t, exec c s = .next t ∧ t.net = (((v.upNet (fun n => { n with lastHold := frHold p })).applyFrames [p]).statusSend p 0).net ∧
                    t.sto = ((v.upNet (fun n => { n with lastHold := frHold p })).applyFrames [p]).sto ∧ t.fio = ((v.upNet (fun n => { n with lastHold := frHold p })).applyFrames [p]).fio ∧
                    Frame { clk := true, sto := true, fio := true, net := true, evr := true } s t) ∧
                  (r = 4 → ∃ t, exec c s = .next t ∧ t.net = (((v.upNet (fun n => { n with rxLate := min 0xFFFFFFFF (n.rxLate + 1) })).netCause 7 (frSrc p)).statusSend p 4).net ∧ Frame { clk := true, net := true, evr := true } s t) ∧
                  (r = 5 ∨ r = 6 ∨ r = 7 → ∃ t, exec c s = .next t ∧ t.net = (v.statusSend p r).net ∧ Frame { clk := true, net := true, evr := true } s t))))))))) ∧
    (∀ x : State, (x.statusSend p r).net = { x.net with sent := (x.statusSend p r).net.sent, txq := (x.statusSend p r).net.txq, unacked := (x.statusSend p r).net.unacked, prpSeq := (x.statusSend p r).net.prpSeq, lineAt := (x.statusSend p r).net.lineAt, txLate := (x.statusSend p r).net.txLate, cause := (x.statusSend p r).net.cause } ∧
      (x.net.txq = [] →
        (x.statusSend p r).net.sent = (((x.portsOf (x.inForce 0x1300 5 0)).filter (fun q => x.net.link.getLsbD q)).reverse.map (fun q => Sent.eth q (x.ethOctets (x.inForce 0x1300 5 0) (x.frameMac 256)
          (x.stFrame 3 x.pairDst x.net.accTerm (if x.clk.running then x.clk.beat else 0) 0 x.frameFlags 0 (x.accFields ++ leBytes 1 r ++ leBytes 1 (frTask p) ++ zeros 1 ++ leBytes 8 (frSeq p))) q))) ++ x.net.sent))

/-- A good frame of another node at a controller's port that takes station frames, with the network domain on and no duplicate. An INPUT frame whose SRC is in no slot, or whose counts differ from the slot's, counts in NET_RX_ERR. Otherwise the slot keeps the highest accepted term and the node that the station reports, and a report of the own term for this unit confirms the term; then a frame of another period sets cause bit 9; a frame not above the BEAT last used in its numbering and without REJOIN counts in NET_SUPERSEDED; any other frame is kept with its arrival, REJOIN clearing the record of that numbering first; at the latch the frames that arrived before the boundary are spent, all but one counting in NET_SUPERSEDED, and the one with the highest SEQ is used. A STATUS takes the frame that it answers from those awaiting an answer, REASON 1 or 2 counting in NET_TERM_REJECT with cause bit 8, REASON 3 setting bit 9, and reports the term alike. Every other slot, and of the network block all else, is unchanged. A report of a higher term, or of the own term for another node, puts an ACTIVE unit into FAILED with reason 3 and drives off its outputs. A re-admission acknowledgement counts while the station is REJOINING and does nothing else. (R203; R232; R233; R278; R282; R285; R286; R292; 09_plant_network_and_time.md, Inputs from stations) -/
def Obligations.InputAndStatusFramesAtAController : Prop :=
  ∀ (s : State) (c : Instr) (port t0 i : Nat) (f mac p : List Byte) (u : State) (x y : Slot) (cs : Csw),
    (c = .outputFrameReceive port t0 f ∨ c = .termClaimReceive port t0 f ∨ c = .stationInputReceive port t0 f ∨ c = .statusReceive port t0 f →
    s.domainOn 7 = true → u = ((s.reach t0).prpSeen port f).2 → ((s.reach t0).prpSeen port f).1 = false → s.ethKind f = .station mac p → s.stationPort port = true →
    (headerOk p && payloadOk p && s.frameForUs p) = true → p.length < 6 ∨ frSrc p ≠ s.node ∨ mac = ownMac → s.pwr.role = .controller →
    x = { s.slot i with accTerm := max (s.slot i).accTerm (getLE p 32 2), accNode := getLE p 34 2 } →
    y = (if (byteAt p 36).testBit 3 then (if frPtp p then { x with lastBeat1 := none } else { x with lastBeat0 := none }) else x) →
    cs = { s.csw with termConfirmed := s.csw.termConfirmed || decide (getLE p 32 2 = s.csw.term ∧ getLE p 34 2 = s.node) } →
    (frType p = 1 → (s.slotOf (frSrc p) = none ∨ s.slotOf (frSrc p) = some i ∧ (getLE p 40 2 ≠ s.slotCfg i 4 0 ∨ getLE p 42 2 ≠ s.slotCfg i 6 0)) →
      ∃ t, exec c s = .next t ∧ t.net = { u.net with rxErr := min 0xFFFFFFFF (s.net.rxErr + 1) } ∧ Frame { clk := true, net := true } s t) ∧
    (frType p = 1 → s.slotOf (frSrc p) = some i → getLE p 40 2 = s.slotCfg i 4 0 → getLE p 42 2 = s.slotCfg i 6 0 →
      (s.csw.role = .active → getLE p 32 2 ≤ s.csw.term ∧ (getLE p 32 2 = s.csw.term → getLE p 34 2 = s.node)) →
      ∃ t, exec c s = .next t ∧ t.csw = cs ∧ (∀ j, j ≠ i → t.slot j = s.slot j) ∧ Frame { clk := true, csw := true, net := true, evr := true } s t ∧
        t.net = { s.net with seen := u.net.seen, slots := t.net.slots, superseded := t.net.superseded, cause := t.net.cause } ∧
        (frPeriod p ≠ s.clk.p → t.slot i = x ∧ t.net.cause = setBit s.net.cause 9 true ∧ t.net.superseded = s.net.superseded) ∧
        (frPeriod p = s.clk.p → t.net.cause = s.net.cause ∧
          (∀ b, (if frPtp p then x.lastBeat1 else x.lastBeat0) = some b → frBeat p ≤ b → (byteAt p 36).testBit 3 = false →
            t.slot i = x ∧ t.net.superseded = min 0xFFFFFFFF (s.net.superseded + 1)) ∧
          ((byteAt p 36).testBit 3 = true ∨ (∀ b, (if frPtp p then x.lastBeat1 else x.lastBeat0) = some b → b < frBeat p) →
            t.slot i = { y with frames := y.frames ++ [(t0, p)] } ∧ t.net.superseded = s.net.superseded))) ∧
    (frType p = 3 → s.slotOf (frSrc p) = none → ∃ t, exec c s = .next t ∧ t.net = u.net ∧ Frame { clk := true, net := true } s t) ∧
    (frType p = 3 → s.slotOf (frSrc p) = some i →
      (s.csw.role = .active → getLE p 32 2 ≤ s.csw.term ∧ (getLE p 32 2 = s.csw.term → getLE p 34 2 = s.node)) →
      ∃ t, exec c s = .next t ∧ t.csw = cs ∧ t.slot i = x ∧ (∀ j, j ≠ i → t.slot j = s.slot j) ∧ Frame { clk := true, csw := true, net := true, evr := true } s t ∧
        t.net = { s.net with seen := u.net.seen, slots := t.net.slots, termReject := t.net.termReject, cause := t.net.cause, unacked := s.net.unacked.filter (fun z => !(decide (z.slot = i) && decide (frSeq z.bytes = getLE p 40 8) && decide (frTask z.bytes = byteAt p 38))) } ∧
        (byteAt p 37 = 1 ∨ byteAt p 37 = 2 → t.net.termReject = min 0xFFFFFFFF (s.net.termReject + 1) ∧ t.net.cause = setBit s.net.cause 8 true) ∧
        (byteAt p 37 = 3 → t.net.termReject = s.net.termReject ∧ t.net.cause = setBit s.net.cause 9 true) ∧
        (byteAt p 37 = 0 ∨ 3 < byteAt p 37 → t.net.termReject = s.net.termReject ∧ t.net.cause = s.net.cause)) ∧
    (s.slotOf (frSrc p) = some i → frType p = 3 ∨ frType p = 1 ∧ getLE p 40 2 = s.slotCfg i 4 0 ∧ getLE p 42 2 = s.slotCfg i 6 0 → s.csw.role = .active →
      s.csw.term < getLE p 32 2 ∨ getLE p 32 2 = s.csw.term ∧ getLE p 34 2 ≠ s.node →
      ∃ t, exec c s = .next t ∧ t.csw.role = .failed ∧ t.csw.failReason = 3 ∧ t.csw.cause.getLsbD 7 = true ∧ t.csw.driversOff = true)) ∧
    (i < 256 → ∃ t, exec (.readmitAck i t0) s = .next t ∧ t.slot i = { s.slot i with acked := (s.slot i).acked || (s.slot i).rejoin } ∧ (∀ j, j ≠ i → t.slot j = s.slot j) ∧
      t.net = { s.net with slots := t.net.slots } ∧ Frame { clk := true, net := true } s t) ∧
    (i < 256 → (s.latchSlot i).1.net.superseded = min 0xFFFFFFFF (s.net.superseded + ((s.beatFrames i).length - 1)) ∧ ((s.latchSlot i).1.slot i).frames = (s.slot i).frames.filter (fun g => !decide (g.1 < s.clk.beatAt))) ∧
    (∀ l g, bestFrame l = some g → g ∈ l ∧ ∀ h ∈ l, frSeq h.2 ≤ frSeq g.2)

/-- STATION_INPUT_SEND at a started station sends the INPUT frame of the coming beat with state, groups, input bits and words in the layout of R276; elsewhere only time passes. KEEP_ALIVE_SEND at a started, executing controller enters the coming launch in the record of every slot in use and changes no other slot; with one slot not yet sent a frame for it the frame is a keep-alive with HOLD while the station is REJOINING, and its answer is awaited. WARM_START_FRAMES before the first beat of an executing controller sends, for the one task with a durable output set that touches the one slot in use, its frame for the task's first release; otherwise only time passes. ACK_WAIT_EXPIRY ends the wait of every frame unanswered for ACK_WAIT; a unit that does not govern sends none again; one such claim is sent again as it is, one such OUTPUT frame with RETRY if its launch lies at least 20 us later and not at all otherwise, and no frame sent again is awaited. TX_LATE_DROP drops and counts exactly the queued frames whose launch is reached. A link change moves the link's bit, sets cause bit 0, and on a PRP pair the degraded bit, cause bit 1 where the pair becomes degraded; a report that changes nothing, or of no port, or with the domain off changes nothing. PRP supervision leaves by each up port of a pair with PRP. An ARP request or ICMP echo request for the own address is answered on its port, on a PRP pair on both with the trailer, a second copy being discarded; anything else is not. (R268; R269; R273; R274; R276; R277; R281; R284; R285; R291; R342; 09_plant_network_and_time.md, Outputs to stations) -/
def Obligations.StationFramesAreSent : Prop :=
  ∀ (s r r1 r2 u : State) (t0 l i port pair di ai : Nat) (up : Bool) (f a b pl : List Byte) (x : TxFrame) (im : Image) (row : TaskRow) (o : Ov) (ports : List Nat),
    r = s.reach t0 → r1 = r.firstDue (t0 + 1000 * s.clk.adv) → r2 = r.firstDue (t0 + 1000 * s.clk.lead) →
    (di = s.inForce 0x1300 3 512 → ai = s.inForce 0x1300 4 0 → pl = r1.accFields ++ [byteOf (fun g => (s.group g).qualified), byteOf (fun g => (s.group g).off)] ++ zeros 1 ++ leBytes 2 di ++ leBytes 2 ai ++ zeros 4 ++ memBytes s.sto.inView dinBase (di / 8) ++ memBytes s.sto.inView ainBase (4 * ai) →
      s.pwr.role = .station → s.pwr.started = true → s.domainOn 7 = true → l = r1.beatNs s.comingBeat → ∃ t, exec (.stationInputSend t0) s = .next t ∧ Frame { clk := true, net := true, evr := true } s t ∧ t.clk = r1.clk ∧
        t.net = { s.net with sent := t.net.sent, txq := t.net.txq, unacked := t.net.unacked, prpSeq := t.net.prpSeq, lineAt := t.net.lineAt, txLate := t.net.txLate, cause := t.net.cause } ∧
        (s.net.txq = [] → t.net.sent = (((s.portsOf (s.inForce 0x1300 5 0)).filter (fun q => s.net.link.getLsbD q)).reverse.map (fun q => Sent.eth q (s.ethOctets (s.inForce 0x1300 5 0) (s.frameMac 256)
          (s.stFrame 1 s.pairDst s.net.accTerm s.comingBeat l r1.frameFlags 0 pl) q))) ++ s.net.sent)) ∧
    (s.pwr.role ≠ .station ∨ s.pwr.started = false ∨ s.domainOn 7 = false → ∃ t, exec (.stationInputSend t0) s = .next t ∧ t.clk = r.clk ∧ Frame { clk := true } s t) ∧
    (s.executes = true → s.pwr.started = true → s.pwr.role = .controller → s.domainOn 7 = true → l = r2.beatNs s.comingBeat → ∃ t, exec (.keepAliveSend t0) s = .next t ∧ Frame { clk := true, net := true, evr := true } s t ∧ t.clk = r2.clk ∧
      t.net = { s.net with sent := t.net.sent, txq := t.net.txq, unacked := t.net.unacked, prpSeq := t.net.prpSeq, lineAt := t.net.lineAt, txLate := t.net.txLate, cause := t.net.cause, slots := t.net.slots } ∧
      (∀ k, k ∈ s.usedSlots → l ∈ (t.slot k).sentFor) ∧ (∀ k, k ∉ s.usedSlots ∨ l ∈ (s.slot k).sentFor → t.slot k = s.slot k) ∧
      (s.usedSlots = [i] → l ∉ (s.slot i).sentFor → s.net.txq = [] → r2.ptpAt r2.clk.now < l → b = s.stFrame 2 (s.slotNode i) s.csw.term s.comingBeat l (r2.frameFlags + 4 * bit (s.slot i).rejoin) 0xFF (zeros 8) →
        ports = r2.openPorts { slot := i, bytes := b, launch := some l, sentAt := 0, retried := false } →
        t.net.sent = (ports.reverse.map (fun q => Sent.eth q (s.ethOctets (s.slotCfg i 2 0) (s.frameMac i) b q))) ++ s.net.sent ∧
        t.net.unacked = s.net.unacked ++ (if ports = [] then [] else [{ slot := i, bytes := b, launch := some l, sentAt := r2.leavesAt (ports.headD 0), retried := false }]))) ∧
    (s.executes = false ∨ s.pwr.started = false ∨ s.pwr.role ≠ .controller ∨ s.domainOn 7 = false → ∃ t, exec (.keepAliveSend t0) s = .next t ∧ t.clk = r.clk ∧ Frame { clk := true } s t) ∧
    (s.executes = true → s.clk.running = false → s.pwr.role = .controller → s.domainOn 7 = true → s.ldr.img = some im → ∃ t, exec (.warmStartFrames t0) s = .next t ∧ Frame { clk := true, net := true, evr := true } s t ∧ t.clk = r2.clk ∧
      ((im.table s.sto.tableReduced).filter (fun q => (s.task q.task).outRun) = [] → t.net = s.net) ∧
      ((im.table s.sto.tableReduced).filter (fun q => (s.task q.task).outRun) = [row] → o = s.outsOf row.task s.sto.lmem → s.usedSlots.filter (fun k => s.slotTouched k o) = [i] → s.net.txq = [] → l = r2.beatNs row.phase → r2.ptpAt r2.clk.now < l →
        b = s.stFrame 2 (s.slotNode i) s.csw.term row.phase l (r2.frameFlags + 4 * bit (s.slot i).rejoin) row.task (s.outPayload i o) →
        ports = r2.openPorts { slot := i, bytes := b, launch := some l, sentAt := 0, retried := false } →
        t.net.sent = (ports.reverse.map (fun q => Sent.eth q (s.ethOctets (s.slotCfg i 2 0) (s.frameMac i) b q))) ++ s.net.sent)) ∧
    (s.executes = false ∨ s.clk.running = true ∨ s.pwr.role ≠ .controller ∨ s.domainOn 7 = false ∨ s.ldr.img = none → ∃ t, exec (.warmStartFrames t0) s = .next t ∧ t.clk = r.clk ∧ Frame { clk := true } s t) ∧
    (∃ t, exec (.ackWaitExpiry t0) s = .next t ∧ Frame { clk := true, net := true, evr := true } s t ∧ t.clk = r.clk ∧
      t.net = { s.net with sent := t.net.sent, txq := t.net.txq, unacked := t.net.unacked, prpSeq := t.net.prpSeq, lineAt := t.net.lineAt, txLate := t.net.txLate, cause := t.net.cause } ∧
      (s.governs = false → t.net = { s.net with unacked := s.net.unacked.filter (fun y => !decide (y.sentAt + 1000 * s.inForce 0x1100 5 100 ≤ t0)) }) ∧
      (s.net.txq = [] → t.net.unacked = s.net.unacked.filter (fun y => !decide (y.sentAt + 1000 * s.inForce 0x1100 5 100 ≤ t0)) ∧
        (s.governs = true → s.net.unacked.filter (fun y => decide (y.sentAt + 1000 * s.inForce 0x1100 5 100 ≤ t0)) = [x] →
          ports = r.openPorts { slot := x.slot, bytes := b, launch := x.launch, sentAt := 0, retried := true } →
          (x.launch = none ∧ b = x.bytes ∨ x.launch = some l ∧ r.ptpAt t0 + 20000 ≤ l ∧ r.ptpAt r.clk.now < l ∧ b = patch x.bytes 28 (leBytes 1 (frFlags x.bytes + (if frRetry x.bytes then 0 else 8))) →
            t.net.sent = (ports.reverse.map (fun q => Sent.eth q (s.ethOctets (s.framePort x.slot) (s.frameMac x.slot) b q))) ++ s.net.sent) ∧
          (x.launch = some l → l < r.ptpAt t0 + 20000 → t.net.sent = s.net.sent)))) ∧
    (∃ t, exec (.txLateDrop t0) s = .next t ∧ Frame { clk := true, net := true, evr := true } s t ∧
      t.net = { s.net with txq := s.net.txq.filter (fun y => !(y.launch.any (fun n => decide (n ≤ r.ptpAt t0)))), txLate := min 0xFFFFFFFF (s.net.txLate + (s.net.txq.filter (fun y => y.launch.any (fun n => decide (n ≤ r.ptpAt t0)))).length), cause := t.net.cause }) ∧
    (s.domainOn 7 = true → port < 6 → s.net.link.getLsbD port = !up → ∃ t, exec (.ethLinkChange port up) s = .next t ∧ Frame { net := true, evr := true } s t ∧
      t.net.link = bvBit s.net.link port up ∧ (4 ≤ port → t.net.prpDeg = s.net.prpDeg) ∧ (port < 4 → t.net.prpDeg = bvBit s.net.prpDeg (port / 2) (s.prpOn (port / 2) && degraded (bvBit s.net.link port up) (port / 2))) ∧
      (s.net.txq = [] → t.net.sent = s.net.sent ∧ t.net.cause = (if port < 4 ∧ s.prpOn (port / 2) = true ∧ degraded (bvBit s.net.link port up) (port / 2) = true ∧ s.net.prpDeg.getLsbD (port / 2) = false then setBit (setBit s.net.cause 0 true) 1 true else setBit s.net.cause 0 true))) ∧
    (s.domainOn 7 = false ∨ 6 ≤ port ∨ s.net.link.getLsbD port = up → exec (.ethLinkChange port up) s = .next s) ∧
    (s.domainOn 7 = true → pair < 2 → s.prpOn pair = true → ∃ t, exec (.prpSupervisionSend pair) s = .next t ∧
      t.net = { s.net with sent := ((([2 * pair, 2 * pair + 1] : List Nat).filter (fun q => s.net.link.getLsbD q)).reverse.map Sent.prp) ++ s.net.sent } ∧ Frame { net := true } s t) ∧
    (s.domainOn 7 = false ∨ s.prpOn pair = false ∨ 2 ≤ pair → exec (.prpSupervisionSend pair) s = .next s) ∧
    (s.domainOn 7 = true → s.inForce 0x1110 1 0 ≠ 0 → u = (s.prpSeen port f).2 →
      ((s.prpSeen port f).1 = true → ∃ t, exec (.arpIcmpEchoRequest port f) s = .next t ∧ t.net = { s.net with seen := u.net.seen, prpDup := min 0xFFFFFFFF (s.net.prpDup + 1) } ∧ Frame { net := true } s t) ∧
      ((s.prpSeen port f).1 = false → u.net = { s.net with seen := u.net.seen } ∧
        (s.arpAnswer f = some a ∨ s.arpAnswer f = none ∧ s.echoAnswer f = some a → ∃ t, exec (.arpIcmpEchoRequest port f) s = .next t ∧ Frame { net := true } s t ∧
          (port < 4 → s.prpOn (port / 2) = true → t.net = { u.net with prpSeq := t.net.prpSeq, sent := (([2 * (port / 2), 2 * (port / 2) + 1] : List Nat).filter s.net.link.getLsbD).reverse.map (fun q => Sent.eth q (a.take 14 ++ (a.drop 14 ++ zeros (60 - a.length)) ++ rct (vget s.net.prpSeq (port / 2) 0) q (a.drop 14 ++ zeros (60 - a.length)).length)) ++ s.net.sent }) ∧
          (4 ≤ port ∨ s.prpOn (port / 2) = false → t.net = if s.net.link.getLsbD port = true then { u.net with sent := .eth port (a.take 14 ++ (a.drop 14 ++ zeros (60 - a.length))) :: s.net.sent } else u.net)) ∧
        (s.arpAnswer f = none → s.echoAnswer f = none → ∃ t, exec (.arpIcmpEchoRequest port f) s = .next t ∧ t.net = u.net ∧ Frame { net := true } s t))) ∧
    (s.domainOn 7 = false ∨ s.inForce 0x1110 1 0 = 0 → exec (.arpIcmpEchoRequest port f) s = .next s)

/-- CAN_FRAME_RECEIVED on a port with INIT clear that is on the bus and not in bus-off: an FD frame with FD disabled is a form error, which LEC names and REC counts, and is not stored; any other, a remote frame always being classical, the frame with its STAMP goes to the lowest receive buffer whose filter matches; with none, UNMATCHED counts. An image-owned buffer takes it with COUNT one more (saturating at 255) and the trace records it, outside the replay role; the buffer of Kivasel leaves it to its segments; another buffer that is unlocked takes it with NEW, and OVERWRITE when NEW was set; a locked one has it appended to the overflow FIFO of 16, tagged; a full FIFO drops it with FIFO_FULL counting and RX_DROP set. REC falls by one, or from above 127 to a value from 119 to 127. No other part of the port and no other port changes; off the bus, with INIT set or in bus-off only time passes. CAN_WINDOW_READ answers the word of the selected buffer, of a transmit buffer as it would be sent; on a receive buffer the image does not own, word 0 locks it and the last word releases the lock and clears NEW and OVERWRITE; every other read changes nothing. CAN_FIFO_READ does so with the FIFO head, whose last word removes it; an empty FIFO reads zero. A read that does not reach the port answers zero. CAN_LOCK_TIMEOUT releases the lock held and sets LOCK_TIMEOUT. CAN_BUFSEL_WRITE selects a buffer, releasing each held lock with LOCK_ABANDON. (R300; R301; R302; R303; R304; R308; R312; R318; 10_can.md, Message buffers; 10_can.md, Reading a register-owned receive buffer) -/
def Obligations.CanFramesAreReceived : Prop :=
  ∀ (s : State) (m : Master) (n t i b : Nat) (raw f : List Word) (v : Word) (c : Can) (x : CanBuf) (rest : List (Nat × List Word)), n < 8 → c = s.canPort n → f = canFrame raw (256 * (s.reach t).canStamp t) 64 →
    (c.listens = false → ∃ u, exec (.canFrameReceived n t raw) s = .next u ∧ Frame { clk := true } s u) ∧
    (c.listens = true → (frameWord (canFrame raw 0 64) 1).getLsbD 4 = true → c.ctrl.getLsbD 2 = false → ∃ u, exec (.canFrameReceived n t raw) s = .next u ∧ (u.canPort n).lec = 2 ∧ (u.canPort n).rxErr = min 255 (c.rxErr + 1) ∧
      (u.canPort n).bufs = c.bufs ∧ (u.canPort n).fifo = c.fifo ∧ (u.canPort n).dropUnm = c.dropUnm ∧ (∀ k, k ≠ n → u.canPort k = s.canPort k) ∧ Frame { clk := true, can := true, evr := true } s u) ∧
    (c.listens = true → (frameWord (canFrame raw 0 64) 1).getLsbD 4 = false ∨ c.ctrl.getLsbD 2 = true → ∃ u rx, exec (.canFrameReceived n t raw) s = .next u ∧
      Frame { clk := true, can := true, trc := true, evr := true, free := true } s u ∧ (∀ k, k ≠ n → u.canPort k = s.canPort k) ∧ (c.rxErr ≤ 127 → rx = c.rxErr - 1) ∧ (127 < c.rxErr → 119 ≤ rx ∧ rx ≤ 127) ∧
      (c.target f = none → u.canPort n = { c with rxErr := rx, dropUnm := min 0xFFFF (c.dropUnm + 1) } ∧ u.trc = s.trc) ∧
      (c.target f = some b → x = c.buf b →
        (x.owner = 1 → s.pwr.role = .replay → u.canPort n = { c with rxErr := rx } ∧ u.trc = s.trc) ∧
        (x.owner = 1 → s.pwr.role ≠ .replay → u.canPort n = { c with rxErr := rx, bufs := vset c.bufs b { x with frame := f, rxCount := min 255 (x.rxCount + 1) } } ∧ u.trc = { s.trc with cans := s.trc.cans ++ [⟨n, b, t, shownWords f⟩] }) ∧
        (x.owner ≠ 1 → u.trc = s.trc) ∧
        (x.owner = 2 → u.canPort n = { c with rxErr := rx }) ∧
        (x.owner ≠ 1 → x.owner ≠ 2 → x.locked = false → u.canPort n = { c with rxErr := rx, bufs := vset c.bufs b { x with frame := f, overwrite := x.overwrite || x.new, new := true } }) ∧
        (x.owner ≠ 1 → x.owner ≠ 2 → x.locked = true → c.fifo.length < 16 → u.canPort n = { c with rxErr := rx, fifo := c.fifo ++ [(b, f)] }) ∧
        (x.owner ≠ 1 → x.owner ≠ 2 → x.locked = true → 16 ≤ c.fifo.length → u.canPort n = { c with rxErr := rx, dropFull := min 0xFFFF (c.dropFull + 1), cause := setBit c.cause 6 true }))) ∧
    (i < 18 → s.readReaches m (canAddr n (0xA00 + 4 * i)) = true → x = c.buf c.bufSel → ∃ u, exec (.canWindowRead m n i) s = .next u ∧ u.host = { s.host with rdata := [frameWord (if x.dir = 2 then canFrame x.frame 0 64 else x.frame) i], counts := u.host.counts } ∧
      Frame { host := true, can := true } s u ∧ (∀ k, k ≠ n → u.canPort k = s.canPort k) ∧
      u.canPort n = (if x.dir = 1 ∧ x.owner ≠ 1 ∧ i = 0 then { c with bufs := vset c.bufs c.bufSel { x with locked := true } }
        else if x.dir = 1 ∧ x.owner ≠ 1 ∧ i = lastWord x.frame then { c with bufs := vset c.bufs c.bufSel { x with locked := false, new := false, overwrite := false } } else c)) ∧
    (i < 18 → s.readReaches m (canAddr n (0xA00 + 4 * i)) = false → ∃ u, exec (.canWindowRead m n i) s = .next u ∧ u.host = { s.host with rdata := [0], counts := u.host.counts } ∧ Frame { host := true } s u) ∧
    (i < 18 → s.readReaches m (canAddr n (0xA80 + 4 * i)) = true → ∃ u, exec (.canFifoRead m n i) s = .next u ∧ Frame { host := true, can := true } s u ∧ (∀ k, k ≠ n → u.canPort k = s.canPort k) ∧
      (c.fifo = [] → u.host = { s.host with rdata := [0], counts := u.host.counts } ∧ u.canPort n = c) ∧
      (c.fifo = (b, f) :: rest → u.host = { s.host with rdata := [frameWord f i], counts := u.host.counts } ∧
        u.canPort n = (if i = 0 then { c with fifoLock := true } else if i = lastWord f then { c with fifo := rest, fifoLock := false } else c))) ∧
    (i < 18 → s.readReaches m (canAddr n (0xA80 + 4 * i)) = false → ∃ u, exec (.canFifoRead m n i) s = .next u ∧ u.host = { s.host with rdata := [0], counts := u.host.counts } ∧ Frame { host := true } s u) ∧
    (∃ u, exec (.canLockTimeout n true) s = .next u ∧ Frame { can := true, evr := true } s u ∧ (∀ k, k ≠ n → u.canPort k = s.canPort k) ∧
      u.canPort n = (if c.fifoLock then { c with fifoLock := false, cause := setBit c.cause 8 true } else c)) ∧
    (x = c.buf c.bufSel → ∃ u, exec (.canLockTimeout n false) s = .next u ∧ Frame { can := true, evr := true } s u ∧ (∀ k, k ≠ n → u.canPort k = s.canPort k) ∧
      u.canPort n = (if x.locked then { c with bufs := vset c.bufs c.bufSel { x with locked := false }, cause := setBit c.cause 8 true } else c)) ∧
    (∀ p : Can, s.readReaches m (canAddr n 0x038) = true → x = c.buf c.bufSel → p = (if x.locked then { c with bufSel := v.toNat % 64, bufs := vset c.bufs c.bufSel { x with locked := false }, cause := setBit c.cause 9 true } else { c with bufSel := v.toNat % 64 }) →
      ∃ u, exec (.canBufselWrite m n v) s = .next u ∧ Frame { can := true, evr := true } s u ∧ (∀ k, k ≠ n → u.canPort k = s.canPort k) ∧
      u.canPort n = (if c.fifoLock then { p with fifoLock := false, cause := setBit p.cause 9 true } else p))

/-- CAN_RECEIVE_ERROR on a port with INIT clear on the bus and not in bus-off notes the code in LEC or DLEC and adds to REC 1, or 0 for the error ISO 11898-1 exempts, and 8 for each dominant event after the flag; elsewhere nothing changes. CAN_TX_ERROR with no frame in transmission changes nothing. A lost arbitration frees the port and counts nothing; a frame aborted meanwhile leaves its queue. An error notes the code, adds 8 to TEC (not for a missing acknowledgement of an error-passive port, nor a stuff error in arbitration) and 8 for each dominant event after the flag, counts the attempt, and removes the frame if it was aborted, or, outside bus-off and without UNLIM, when its attempts reach 1 + RETRY, with ABORTED in BSTAT and CAUSE; in bus-off it stays. ERR_WARN is set when TEC or REC reaches 96, ERR_PASSIVE when an error-active port passes 127; TEC above 255 is bus-off with its cause bit, recovering at once with AUTO_RECOVER. A freed port with INIT leaves the bus. CAN_INIT_WRITE writes CTRL privileged: INIT takes a port without a frame in transmission off the bus, INIT 0 powers the transceiver, RECOVER in bus-off begins recovery; unprivileged it is refused, WAKE_EN outside CAN0 and REF_EN without gate 0 are reserved. CAN_RECOVER writes CTRL as it stands with RECOVER. CAN_RECOVERY_END of a recovering port in bus-off clears both counters and bus-off and sets RECOVERED. CAN_BUS_INTEGRATION puts a port with INIT clear and its transceiver powered on the bus. No other port and no other part of the port changes. (R297; R306; R311; R312; R313; R314; R317; R319; 10_can.md, Error states and bus-off; 10_can.md, Roles, states and wake) -/
def Obligations.CanErrorsAndBusState : Prop :=
  ∀ (s : State) (m : Master) (n lec b d tec dom : Nat) (exempt data ack stuff out : Bool) (v w k1 k2 k3 : Word) (c : Can) (y : CanBuf) (x : CanTx) (q : List CanTx), n < 8 → c = s.canPort n →
    (c.listens = true → d = (if exempt then 0 else 1) + 8 * dom →
      k1 = (if 96 ≤ c.rxErr + d ∧ c.rxErr < 96 then setBit c.cause 2 true else c.cause) → k2 = (if c.txErr ≤ 127 ∧ c.rxErr ≤ 127 ∧ 127 < c.rxErr + d then setBit k1 1 true else k1) →
      ∃ u, exec (.canReceiveError n exempt dom lec data) s = .next u ∧ Frame { can := true, evr := true } s u ∧ (∀ k, k ≠ n → u.canPort k = s.canPort k) ∧
        (c.txErr ≤ 255 → u.canPort n = { c with lec := if data then c.lec else lec, dlec := if data then lec else c.dlec, rxErr := min 255 (c.rxErr + d), cause := k2 })) ∧
    (c.listens = false → exec (.canReceiveError n exempt dom lec data) s = .next s) ∧
    (c.current = none → exec (.canTxError n lec data out ack stuff dom) s = .next s) ∧
    (c.current = some (b, x) → y = c.buf b → q = (if y.queue.head?.any (fun z => decide (z.stamp = x.stamp)) = true then y.queue.tail else y.queue) →
      (∃ u, exec (.canTxError n lec data true ack stuff dom) s = .next u ∧ Frame { can := true, evr := true } s u ∧ (∀ k, k ≠ n → u.canPort k = s.canPort k) ∧
        u.canPort n = { c with current := none, idle := !(c.offBus || c.init), offBus := c.offBus || c.init, refPending := if b = 64 then decide (c.window = some (0, 64)) else c.refPending, bufs := vset c.bufs b { y with inTx := false, abortReq := false, queue := if y.abortReq then q else y.queue } }) ∧
      (tec = (if stuff || (ack && decide (127 < c.txErr)) then c.txErr else c.txErr + 8) + 8 * dom →
        out = (decide (b ≠ 64) && !y.abortReq && !(c.busOff || decide (255 < tec)) && !y.unlim && decide (1 + y.retry ≤ x.tries + 1)) →
        k1 = (if 96 ≤ tec ∧ c.txErr < 96 then setBit c.cause 2 true else c.cause) → k2 = (if c.errState = 0 ∧ 127 < tec then setBit k1 1 true else k1) → k3 = (if c.busOff = false ∧ 255 < tec then setBit k2 0 true else k2) →
        ∃ u, exec (.canTxError n lec data false ack stuff dom) s = .next u ∧ Frame { can := true, evr := true } s u ∧ (∀ k, k ≠ n → u.canPort k = s.canPort k) ∧
          u.canPort n = { c with current := none, idle := !(c.offBus || c.init), offBus := c.offBus || c.init, lec := if data then c.lec else lec, dlec := if data then lec else c.dlec, txErr := min 255 tec, rxErr := min 255 c.rxErr, busOff := c.busOff || decide (255 < tec), recovering := c.recovering || (decide (255 < tec) && !c.busOff && c.ctrl.getLsbD 4), refPending := if b = 64 then decide (c.window = some (0, 64)) else c.refPending, cause := if out then setBit k3 5 true else k3, bufs := vset c.bufs b { y with inTx := false, abortReq := false, aborted := y.aborted || out, queue := if out || y.abortReq then q else if y.queue.head?.any (fun z => decide (z.stamp = x.stamp)) = true then (y.queue.take 1).map (fun z => { z with tries := z.tries + 1 }) ++ y.queue.tail else y.queue } })) ∧
    (s.readReaches m (canAddr n 0x00C) = true →
      (s.privOf m = true → n = 0 ∨ v.getLsbD 8 = false → v.getLsbD 6 = false ∨ c.gateEn 0 = true → ∃ u, exec (.canInitWrite m n v) s = .next u ∧ Frame { can := true } s u ∧ (∀ k, k ≠ n → u.canPort k = s.canPort k) ∧
        u.canPort n = { c with ctrl := v &&& 0x1DF, offBus := c.offBus || (v.getLsbD 0 && c.current.isNone), idle := c.idle && !(v.getLsbD 0 && c.current.isNone), xcvr := c.xcvr || !v.getLsbD 0, recovering := c.recovering || (c.busOff && v.getLsbD 5) }) ∧
      (s.privOf m = false → ∃ u, exec (.canInitWrite m n v) s = .next u ∧ u.host.fault.getLsbD 3 = true ∧ Frame { host := true, evr := true } s u) ∧
      (s.privOf m = true → n ≠ 0 ∧ v.getLsbD 8 = true ∨ v.getLsbD 6 = true ∧ c.gateEn 0 = false → ∃ u, exec (.canInitWrite m n v) s = .next u ∧ u.host.fault.getLsbD 5 = true ∧ Frame { host := true, evr := true } s u) ∧
      (w = c.ctrl ||| 0x20#32 → s.privOf m = true → n = 0 ∨ c.ctrl.getLsbD 8 = false → c.ctrl.getLsbD 6 = false ∨ c.gateEn 0 = true → ∃ u, exec (.canRecover m n) s = .next u ∧ Frame { can := true } s u ∧ (∀ k, k ≠ n → u.canPort k = s.canPort k) ∧
        u.canPort n = { c with ctrl := w &&& 0x1DF, offBus := c.offBus || (c.ctrl.getLsbD 0 && c.current.isNone), idle := c.idle && !(c.ctrl.getLsbD 0 && c.current.isNone), xcvr := c.xcvr || !c.ctrl.getLsbD 0, recovering := c.recovering || c.busOff }) ∧
      (s.privOf m = false → ∃ u, exec (.canRecover m n) s = .next u ∧ u.host.fault.getLsbD 3 = true ∧ Frame { host := true, evr := true } s u)) ∧
    (c.busOff = true → c.recovering = true → ∃ u, exec (.canRecoveryEnd n) s = .next u ∧ Frame { can := true, evr := true } s u ∧ (∀ k, k ≠ n → u.canPort k = s.canPort k) ∧
      u.canPort n = { c with busOff := false, recovering := false, txErr := 0, rxErr := 0, cause := setBit c.cause 3 true }) ∧
    (c.busOff = false ∨ c.recovering = false → exec (.canRecoveryEnd n) s = .next s) ∧
    (c.init = false → c.xcvr = true → ∃ u, exec (.canBusIntegration n) s = .next u ∧ Frame { can := true } s u ∧ (∀ k, k ≠ n → u.canPort k = s.canPort k) ∧ u.canPort n = { c with offBus := false, idle := true }) ∧
    (c.init = true ∨ c.xcvr = false → exec (.canBusIntegration n) s = .next s)

/-- TXREQ by a master that reaches the port: STANDBY and SYNCING discard it with CAUSE.ROLE; a buffer that is no register transmit buffer ignores it; else the staging frame enters the queue with the next stamp, or with 4 frames waiting CAUSE.TXQ_FULL is set. TXABORT empties the queue but for a frame in transmission, which is then not retried. CAN_TX_START puts the offered frame in transmission on a port that is on the bus, not in INIT, bus-off or restricted operation and not sending; without an offer, or on another port, only time passes. Outside a gate's window the offer is the head of highest priority among event-mode buffers and late frames, the earlier stamp among equals; in the window of a gate whose frame is pending it is the head of that buffer, but for one of the same identifier queued earlier in another. CAN_TX_END takes the frame from its queue, sends it on the bus, counts TEC down and frees the port; waiting Kivasel segments enter buffer 63 as far as it has room; TDCV may take a free value (log 60). GATE_WINDOW_CLOSE: a pending reference frame, or a frame of the gate that has not started, is missed: CANn_MISSED and CAUSE.MISSED, and the frame is dropped, or with LATE_OK stays as a late frame with a new stamp; else the window only closes. GATE_WINDOW_OPEN of a running matrix closes an open window and opens that of an enabled gate with an enabled cell, or the reference frame's at gate 0 with REF_EN; else only time passes. Other ports never change. (R306; R310; R311; R314; R315; R316; R319; R343; 10_can_fd_ports.md, Transmission; 10_can_fd_ports.md, The gate matrix) -/
def Obligations.CanTransmitQueuesAndGateWindows : Prop :=
  ∀ (s : State) (m : Master) (n b t g b0 k : Nat) (v : Word) (c p r : Can) (y : CanBuf) (x z h : CanTx) (l : List CanTx), n < 8 → c = s.canPort n → b = wfield v 5 0 → y = c.buf b →
    (s.readReaches m (canAddr n 0x03C) = true →
      (s.csw.role = .standby ∨ s.csw.role = .syncing → ∃ u, exec (.canTxreq m n v) s = .next u ∧ u.canPort n = { c with cause := setBit c.cause 12 true } ∧ (∀ j, j ≠ n → u.canPort j = s.canPort j) ∧ Frame { can := true, evr := true } s u) ∧
      (s.csw.role ≠ .standby → s.csw.role ≠ .syncing →
        (y.dir ≠ 2 ∨ y.owner ≠ 0 → exec (.canTxreq m n v) s = .next s) ∧
        (y.dir = 2 → y.owner = 0 → y.queue.length < 4 → ∃ u, exec (.canTxreq m n v) s = .next u ∧
          u.canPort n = { c with stamp := c.stamp + 1, bufs := vup c.bufs b CanBuf.reset (fun q => { q with queue := q.queue ++ [⟨canFrame y.frame 0 64, c.stamp, 0, false⟩] }) } ∧ (∀ j, j ≠ n → u.canPort j = s.canPort j) ∧ Frame { can := true } s u) ∧
        (y.dir = 2 → y.owner = 0 → 4 ≤ y.queue.length → ∃ u, exec (.canTxreq m n v) s = .next u ∧ u.canPort n = { c with cause := setBit c.cause 7 true } ∧ (∀ j, j ≠ n → u.canPort j = s.canPort j) ∧ Frame { can := true, evr := true } s u))) ∧
    (s.readReaches m (canAddr n 0x040) = true → ∃ u, exec (.canTxabort m n v) s = .next u ∧
      u.canPort n = { c with bufs := vup c.bufs b CanBuf.reset (fun y => { y with queue := if c.current.any (fun q => decide (q.1 = b)) then y.queue.take 1 else [], abortReq := y.abortReq || c.current.any (fun q => decide (q.1 = b)) }) } ∧ (∀ j, j ≠ n → u.canPort j = s.canPort j) ∧ Frame { can := true } s u) ∧
    (c.offBus = true ∨ c.init = true ∨ c.busOff = true ∨ s.romActive n = true ∨ c.current.isSome = true ∨ s.canOffer n = none → ∃ u, exec (.canTxStart n t) s = .next u ∧ u.clk = { s.clk with now := max s.clk.now t } ∧ Frame { clk := true } s u) ∧
    (c.offBus = false → c.init = false → c.busOff = false → s.romActive n = false → c.current = none → s.canOffer n = some (b0, x) → ∃ u mine, exec (.canTxStart n t) s = .next u ∧ mine = (c.window.any (fun w => decide (w.2 = b0)) && !x.late) ∧
      u.canPort n = { c with current := some (b0, x), idle := false, winStarted := c.winStarted || (mine && !c.refPending), refPending := c.refPending && decide (b0 ≠ 64), bufs := vup c.bufs b0 CanBuf.reset (fun y => { y with inTx := true, late := x.late, missed := y.missed && !mine }) } ∧
      (∀ j, j ≠ n → u.canPort j = s.canPort j) ∧ Frame { clk := true, can := true } s u) ∧
    (c.window = none ∨ s.gateActive n = false →
      (s.canOffer n = none → ∀ q ∈ c.heads, (c.buf q.1).gate = true ∧ q.2.late = false) ∧
      (s.canOffer n = some (b0, x) → (b0, x) ∈ c.heads ∧ ((c.buf b0).gate = false ∨ x.late = true) ∧ ∀ q ∈ c.heads, (c.buf q.1).gate = false ∨ q.2.late = true →
        ¬ (arbKey q.2.words < arbKey x.words ∨ arbKey q.2.words = arbKey x.words ∧ q.2.stamp < x.stamp))) ∧
    (s.gateActive n = true → c.window = some (g, b0) → c.refPending = false → c.gateFrame b0 = some z → (c.buf b0).queue = h :: l → s.canOffer n = some (c.offerGate (b0, z) (b0, h)) ∧
      ((∀ q ∈ c.heads, q.1 ≠ b0 → sameId q.2 z = true → z.stamp ≤ q.2.stamp) → s.canOffer n = some (b0, h)) ∧
      (∀ q ∈ c.heads, q.1 ≠ b0 → sameId q.2 z = true → q.2.stamp < z.stamp → ∃ q', s.canOffer n = some q' ∧ q' ∈ c.heads ∧ sameId q'.2 z = true ∧ q'.2.stamp < z.stamp)) ∧
    (c.current = none → ∃ u, exec (.canTxEnd n t) s = .next u ∧ u.clk = { s.clk with now := max s.clk.now t } ∧ Frame { clk := true } s u) ∧
    (c.current = some (b0, x) → p = { c with current := none, idle := !(c.offBus || c.init), offBus := c.offBus || c.init, txErr := c.txErr - 1, bufs := vup c.bufs b0 CanBuf.reset (fun y => { y with queue := if y.queue.head?.any (fun q => decide (q.stamp = x.stamp)) = true then y.queue.tail else y.queue, inTx := false, abortReq := false, aborted := false }) } →
      k = 4 - (p.buf 63).queue.length → ∃ u d, exec (.canTxEnd n t) s = .next u ∧ (∀ j, j ≠ n → u.canPort j = s.canPort j) ∧ u.net = { s.net with sent := .can n (shownWords x.words) :: s.net.sent } ∧ Frame { clk := true, can := true, net := true, free := true } s u ∧
      u.canPort n = { p with tdc := (if (frameWord x.words 1).getLsbD 4 && (frameWord x.words 1).getLsbD 5 && c.tdc.getLsbD 0 then mixWord c.tdc 0x007F0000 (w32 (2 ^ 16 * (d % 128))) else c.tdc), kvOut := c.kvOut.drop k, stamp := c.stamp + min k c.kvOut.length, bufs := vup p.bufs 63 CanBuf.reset (fun y => { y with queue := y.queue ++ ((c.kvOut.take k).zipIdx c.stamp).map (fun q => ⟨q.1, q.2, 0, false⟩) }) }) ∧
    ((c.window = none → p = c) → (∀ w, c.window = some w →
        (c.refPending = true → p = { c with missed := min 0xFFFFFFFF (c.missed + 1), cause := setBit c.cause 4 true, window := none, refPending := false, winStarted := false }) ∧
        (c.refPending = false → c.winStarted = true ∨ w.2 = 64 ∨ c.gateFrame w.2 = none → p = { c with window := none, refPending := false, winStarted := false }) ∧
        (c.refPending = false → c.winStarted = false → w.2 ≠ 64 → ∀ z, c.gateFrame w.2 = some z → p = { c with stamp := c.stamp + 1, missed := min 0xFFFFFFFF (c.missed + 1), cause := setBit c.cause 4 true, window := none, refPending := false, winStarted := false, bufs := vup c.bufs w.2 CanBuf.reset (fun y => { y with missed := true, queue := if y.lateOk then y.queue.map (fun q => if q.stamp = z.stamp then { q with late := true, stamp := c.stamp } else q) else y.queue.filter (fun q => decide (q.stamp ≠ z.stamp)) }) })) →
      (∃ u, exec (.gateWindowClose n t) s = .next u ∧ u.canPort n = p ∧ (∀ j, j ≠ n → u.canPort j = s.canPort j) ∧ Frame { clk := true, can := true, evr := true } s u) ∧
      (s.gateActive n = true → c.gateEn g = true → (g = 0 ∧ c.ctrl.getLsbD 6 = true → b0 = 64 ∧ r = { p with window := some (g, b0), winStarted := false, refPending := true, refStamp := p.stamp, stamp := p.stamp + 1 }) →
        (g ≠ 0 ∨ c.ctrl.getLsbD 6 = false → c.cell g (s.clk.beat % 16) = some b0 ∧ r = { p with window := some (g, b0), winStarted := false, refPending := false }) →
        ∃ u, exec (.gateWindowOpen n g t) s = .next u ∧ u.canPort n = r ∧ (∀ j, j ≠ n → u.canPort j = s.canPort j) ∧ Frame { clk := true, can := true, evr := true } s u) ∧
      (s.gateActive n = false ∨ c.gateEn g = false ∨ (g ≠ 0 ∨ c.ctrl.getLsbD 6 = false) ∧ c.cell g (s.clk.beat % 16) = none → ∃ u, exec (.gateWindowOpen n g t) s = .next u ∧ u.clk = { s.clk with now := max s.clk.now t } ∧ Frame { clk := true } s u))

/-- A unit of at least 16 bytes that arrives in a state with the supervisor's domain on, not Parked, and no recovery service except on S1 and the ODX window, is appended to the one queue; with 64 queued it is counted in 0x1022 and answered BUSY with INFO 1. A shorter one, or one while the domain is off, is lost. A unit that breaks R330 at the head of the queue, when its turn comes, is removed and answered MALFORMED. An answer is a unit with OP + 0x80, the TAG of the request, STATUS, INFO and the payload; it leaves as a datagram or a transfer, in segments over CAN while 0x2800 + n sub 14 names an identifier, not at all over a detached S1, and on the ODX window it is the response, with READY set, BUSY cleared and ODX_CAUSE.RESPONSE. KIVASEL_UDP_RECEIVE brings a datagram while the network's domain is on and 0x1110 holds an address, KIVASEL_USB_TRANSFER a transfer of at most 1,040 bytes on an attached S1. KIVASEL_CAN_SEGMENT changes nothing but time on a port that does not listen; on one that does, with sub 13 naming an identifier, FIRST begins the unit at SEQ 0, the next SEQ modulo 64 continues it, LAST hands it over cut to its LENGTH, and a gap or a segment without FIRST drops the partial unit and counts in sub 15, as 100 ms of silence does. A write that reaches ODX_CTRL: ODX_GO sends the unit of ODX_REQ_LEN bytes unless the window is busy or a response waits, which sets ODX_CAUSE.WINDOW_BUSY alone; ODX_ACK clears READY alone. (R330; R331; R336; R337; R342; R343; R344; R345; R349; 11_object_dictionary.md, Transports) -/
def Obligations.KivaselUnitsArriveAndAnswersLeave : Prop :=
  ∀ (s : State) (t n ip port id st info : Nat) (b pl unit : List Byte), unit = kvUnit (byteAt b 1 + 0x80) id (getLE b 4 4) st info pl →
    (∀ (v : State) (c : KChan), v.domainOn 1 = true → (v.pwr.recovery = false ∨ c = .odx ∨ c = .s1) → v.dict.parked = false → 16 ≤ b.length →
      (v.dict.queue.length < 64 → v.kvArrive c b = (v.upDict (fun d => { d with queue := d.queue ++ [(c, b)] })).kvAuto 65) ∧
      (64 ≤ v.dict.queue.length → v.kvArrive c b = (v.upDict (fun d => { d with busyCount := min 0xFFFFFFFF (d.busyCount + 1) })).replyAs c b (getLE b 2 2) 1 1 [])) ∧
    (∀ (v : State) (c : KChan), v.domainOn 1 = false ∨ b.length < 16 → v.kvArrive c b = v) ∧
    (∀ (v : State) (c : KChan) (rest : List (KChan × List Byte)) (k : Nat), v.dict.queue = (c, b) :: rest → v.kvWaits c b = false →
      unitOk c b = false → v.kvAuto (k + 1) = ((v.upDict (fun d => { d with queue := rest })).replyAs c b (getLE b 2 2) 11 0 []).kvAuto k) ∧
    (∀ (c : KChan), unitOk c b = true → byteAt b 0 = 1 ∧ getLE b 10 2 = b.length - 16 ∧ b.length ≤ 1040) ∧
    (∀ (v : State), v.replyAs (.udp ip port) b id st info pl = v.send (.kivasel (.udp ip port) unit) ∧
      (v.dict.usbOff = false → v.replyAs .s1 b id st info pl = v.send (.kivasel .s1 unit)) ∧
      (v.dict.usbOff = true → v.replyAs .s1 b id st info pl = v) ∧
      v.replyAs .odx b id st info pl = (v.upDict (fun d => { d with odxResp := unit, odxBusy := false, odxReady := true })).odxCauseBit 0 ∧
      (v.inForce (0x2800 + n) 14 0xFFFFFFFF = 0xFFFFFFFF → v.replyAs (.can n) b id st info pl = v) ∧
      (v.inForce (0x2800 + n) 14 0xFFFFFFFF ≠ 0xFFFFFFFF → v.replyAs (.can n) b id st info pl =
        (v.upCanPort n (fun x => { x with kvOut := x.kvOut ++ kvFrames (v.inForce (0x2800 + n) 14 0xFFFFFFFF) ((v.canPort n).ctrl.getLsbD 2) 160 0 unit })).feedKv n)) ∧
    exec (.kivaselUdpReceive ip port t b) s = .next (countEdges s
      (if s.domainOn 7 = true ∧ s.inForce 0x1110 1 0 ≠ 0 then (s.reach t).kvArrive (.udp ip port) b else s.reach t)) ∧
    exec (.kivaselUsbTransfer t b) s = .next (countEdges s
      (if s.dict.usbOff = false ∧ b.length ≤ 1040 then (s.reach t).kvArrive .s1 b else s.reach t)) ∧
    ((s.canPort n).listens = false → exec (.kivaselCanSegment n t b) s = .next (countEdges s (s.reach t))) ∧
    (∀ (v : State), v = (s.reach t).canHeard n → (s.canPort n).listens = true →
      (s.inForce (0x2800 + n) 13 0xFFFFFFFF = 0xFFFFFFFF ∨ b = [] → exec (.kivaselCanSegment n t b) s = .next (countEdges s v)) ∧
      (s.inForce (0x2800 + n) 13 0xFFFFFFFF ≠ 0xFFFFFFFF → b ≠ [] →
        ((byteAt b 0).testBit 7 = true → byteAt b 0 % 64 = 0 → (v.canPort n).partialSeq = none →
          ((byteAt b 0).testBit 6 = false → exec (.kivaselCanSegment n t b) s =
            .next (countEdges s (v.upCanPort n (fun c => { c with partUnit := b.drop 1, partialSeq := some 0 })))) ∧
          ((byteAt b 0).testBit 6 = true → 16 ≤ (b.drop 1).length → exec (.kivaselCanSegment n t b) s =
            .next (countEdges s ((v.upCanPort n (fun c => { c with partUnit := [], partialSeq := none })).kvArrive (.can n) ((b.drop 1).take (16 + getLE (b.drop 1) 10 2)))))) ∧
        (∀ q, (byteAt b 0).testBit 7 = false → (v.canPort n).partialSeq = some q → byteAt b 0 % 64 = (q + 1) % 64 →
          ((byteAt b 0).testBit 6 = false → exec (.kivaselCanSegment n t b) s =
            .next (countEdges s (v.upCanPort n (fun c => { c with partUnit := (v.canPort n).partUnit ++ b.drop 1, partialSeq := some ((q + 1) % 64) })))) ∧
          ((byteAt b 0).testBit 6 = true → 16 ≤ ((v.canPort n).partUnit ++ b.drop 1).length → exec (.kivaselCanSegment n t b) s =
            .next (countEdges s ((v.upCanPort n (fun c => { c with partUnit := [], partialSeq := none })).kvArrive (.can n)
              (((v.canPort n).partUnit ++ b.drop 1).take (16 + getLE ((v.canPort n).partUnit ++ b.drop 1) 10 2)))))) ∧
        ((byteAt b 0).testBit 7 = false → (∀ q, (v.canPort n).partialSeq = some q → byteAt b 0 % 64 ≠ (q + 1) % 64) →
          exec (.kivaselCanSegment n t b) s = .next (countEdges s
            (v.upCanPort n (fun c => { c with partUnit := [], partialSeq := none, segErr := min 0xFFFFFFFF (c.segErr + 1) })))))) ∧
    ((s.canPort n).partialSeq.isSome = true → exec (.kivaselCanSegmentTimeout n) s = .next (countEdges s
      (s.upCanPort n (fun c => { c with partUnit := [], partialSeq := none, segErr := min 0xFFFFFFFF (c.segErr + 1) })))) ∧
    (∀ (m : Master), s.readReaches m 0x13004 = true →
      (∀ (v : State), v = (s.reach t).upDict (fun d => { d with odxBusy := true, odxResp := [] }) → s.dict.odxBusy = false → s.dict.odxReady = false →
        exec (.odxGo m t) s = .next (countEdges s (v.kvArrive .odx (memBytes s.dict.odxReq 0 s.dict.odxLen)))) ∧
      (s.dict.odxBusy = true ∨ s.dict.odxReady = true → exec (.odxGo m t) s = .next (countEdges s ((s.reach t).odxCauseBit 2))) ∧
      exec (.odxAck m) s = .next (countEdges s (s.upDict (fun d => { d with odxReady := false }))))

/-- With nothing queued, or with a whole unit of another operation or one that must wait at the head, every Kivasel request operation only reaches its time. With a request of its operation at the head it is removed and served, and units that break R330 behind it are answered. OPEN on the ODX window answers for session 0; elsewhere CLIENT_ID 0 is answered RANGE; else an older session of the client closes, 32 open are answered BUSY 1,000, and a session of an unused number from 1 to 0xFFFE is created, without privilege, batch or nonce. The other requests name a session, whose 60 s start again; an unknown one is answered NO_SESSION, and one over UDP or CAN that fuse 2 ends FUSED 2 with mode refusal 13. CLOSE removes it. CHALLENGE is answered ACCESS on the window, BUSY with an INFO that is free (log 38) in the lockout, else a fresh nonce. LOGIN consumes the nonce; with the right HMAC, or over S1 while the key is zero, the session is privileged; else the failure counts, is recorded as 0x3002 and locks the channel. The batch units are answered ROLE with mode refusal 9 where no batches are taken, and otherwise follow the rows of R339: BATCH_OPEN discards an open batch and opens the new one, BATCH_ADD appends or, above 65,536 bytes, drops the batch, BATCH_COMMIT checks every item and queues the batch or drops it, BATCH_STATUS reports, BATCH_DISCARD drops the batch it names and has a free answer else (log 38). 60 s without a request close a session, 10 s without a unit drop an open batch, 1 s ends a lockout. (R333; R334; R335; R336; R338; R339; R340; R341; R348; R349; 11_object_dictionary.md, Sessions) -/
def Obligations.KivaselSessionsAndBatches : Prop :=
  ∀ (s r v : State) (t now id : Nat) (c : KChan) (u body : List Byte) (rest : List (KChan × List Byte)) (x : Session) (ecc : List Ecc),
    now = max s.clk.now t → body = u.drop 16 → id = getLE body 0 4 → r = (s.reach t).upDict (fun d => { d with queue := rest }) →
    v = r.upSession x.id (fun y => { y with used := now }) →
    (∀ o op, (o, op) ∈ [(Instr.kOpen t, 1), (.kClose t, 2), (.kChallenge t, 3), (.kLogin t, 4), (.kRead t ecc, 0x10), (.kReadMulti t ecc, 0x11), (.kDescribe t, 0x12), (.kWrite t, 0x20), (.batchOpen t, 0x30), (.batchAdd t, 0x31), (.batchCommit t, 0x32), (.batchStatus t, 0x33), (.batchDiscard t, 0x34)] →
      (s.dict.queue = [] ∨ (s.dict.queue = (c, u) :: rest ∧ unitOk c u = true ∧ (uOp u ≠ op ∨ s.kvWaits c u = true))) → exec o s = .next (countEdges s (s.reach t))) ∧
    (s.dict.queue = (c, u) :: rest → unitOk c u = true → s.kvWaits c u = false →
      (uOp u = 1 → c = .odx → exec (.kOpen t) s = .next (countEdges s ((r.replyAs c u (getLE u 2 2) 0 0
        (leBytes 2 s.node ++ leBytes 1 s.csw.role.code ++ leBytes 1 (bit s.host.priv) ++ leBytes 4 (s.sto.expected 0))).kvAuto 65))) ∧
      (uOp u = 1 → c ≠ .odx → id = 0 → exec (.kOpen t) s = .next (countEdges s ((r.replyAs c u (getLE u 2 2) 7 0 []).kvAuto 65))) ∧
      (∀ w : State, uOp u = 1 → c ≠ .odx → id ≠ 0 →
        (s.dict.sessions.find? (fun y => decide (y.client = id)) = none ∧ w = r ∨
          ∃ y, s.dict.sessions.find? (fun y => decide (y.client = id)) = some y ∧
            w = r.upDict (fun d => { d with sessions := d.sessions.filter (fun z => decide (z.id ≠ y.id)), volatile := adel (adel d.volatile y.id) (logKey 0x5304 y.id) })) →
        (32 ≤ w.dict.sessions.length → exec (.kOpen t) s = .next (countEdges s ((w.replyAs c u (getLE u 2 2) 1 1000 []).kvAuto 65))) ∧
        (w.dict.sessions.length < 32 → ∃ n, 1 ≤ n ∧ n ≤ 0xFFFE ∧ (∀ y ∈ w.dict.sessions, y.id ≠ n) ∧
          exec (.kOpen t) s = .next (countEdges s (((w.useFree.upDict (fun d => { d with sessions := d.sessions ++ [⟨n, id, c, false, none, now, none, 0⟩] })).replyAs c u n 0 0
            (leBytes 2 s.node ++ leBytes 1 s.csw.role.code ++ leBytes 1 0 ++ leBytes 4 (s.sto.expected id))).kvAuto 65)))) ∧
      (s.pwr.recovery = false → s.dict.fuses.getLsbD 2 = true → (∃ a b, c = .udp a b) ∨ (∃ n, c = .can n) → s.sessionOf c u = some x →
        ∀ o op, (o, op) ∈ [(Instr.kLogin t, 4), (.kWrite t, 0x20), (.batchOpen t, 0x30), (.batchAdd t, 0x31), (.batchCommit t, 0x32), (.batchStatus t, 0x33), (.batchDiscard t, 0x34)] →
          uOp u = op → exec o s = .next (countEdges s (((v.modeRefuse 13).replyAs c u (getLE u 2 2) 9 2 []).kvAuto 65))) ∧
      (s.pwr.recovery = false → s.dict.fuses.getLsbD 2 = false ∨ c = .odx ∨ c = .s1 →
        (s.sessionOf c u = none → ∀ o op, (o, op) ∈ [(Instr.kClose t, 2), (.kChallenge t, 3), (.kLogin t, 4), (.kRead t ecc, 0x10), (.kReadMulti t ecc, 0x11), (.kDescribe t, 0x12), (.kWrite t, 0x20), (.batchOpen t, 0x30), (.batchAdd t, 0x31), (.batchCommit t, 0x32), (.batchStatus t, 0x33), (.batchDiscard t, 0x34)] →
          uOp u = op → exec o s = .next (countEdges s ((r.replyAs c u (getLE u 2 2) 10 0 []).kvAuto 65))) ∧
        (s.sessionOf c u = some x →
          (uOp u = 2 → x.id = 0 → exec (.kClose t) s = .next (countEdges s ((v.replyAs c u (getLE u 2 2) 0 0 []).kvAuto 65))) ∧
          (uOp u = 2 → x.id ≠ 0 → exec (.kClose t) s = .next (countEdges s (((v.upDict (fun d => { d with sessions := d.sessions.filter (fun z => decide (z.id ≠ x.id)), volatile := adel (adel d.volatile x.id) (logKey 0x5304 x.id) })).replyAs c u (getLE u 2 2) 0 0 []).kvAuto 65))) ∧
          (uOp u = 3 → c = .odx → exec (.kChallenge t) s = .next (countEdges s ((v.replyAs c u (getLE u 2 2) 4 0 []).kvAuto 65))) ∧
          (uOp u = 3 → c ≠ .odx → s.dict.lockedOut.contains (lockChan c) = true → ∃ info,
            exec (.kChallenge t) s = .next (countEdges s (((v.replyAs c u (getLE u 2 2) 1 info []).useFree).kvAuto 65))) ∧
          (uOp u = 3 → c ≠ .odx → s.dict.lockedOut.contains (lockChan c) = false → ∃ nonce, nonce.length = 16 ∧
            exec (.kChallenge t) s = .next (countEdges s (((v.useFree.upSession x.id (fun y => { y with nonce := some nonce })).replyAs c u (getLE u 2 2) 0 0 nonce).kvAuto 65))) ∧
          (uOp u = 4 → c = .odx → exec (.kLogin t) s = .next (countEdges s ((v.replyAs c u (getLE u 2 2) 4 0 []).kvAuto 65))) ∧
          (∀ w : State, uOp u = 4 → c ≠ .odx → w = v.upSession x.id (fun y => { y with nonce := none }) →
            ((allZero s.accessKey = true ∧ c = .s1 ∨ ∃ n, allZero s.accessKey = false ∧ x.nonce = some n ∧ body = hmac s.accessKey (n ++ leBytes 2 x.id)) →
              exec (.kLogin t) s = .next (countEdges s (((w.upSession x.id (fun y => { y with priv := true })).replyAs c u (getLE u 2 2) 0 0 []).kvAuto 65))) ∧
            ((allZero s.accessKey = true ∧ c ≠ .s1 ∨ (allZero s.accessKey = false ∧ ∀ n, x.nonce = some n → body ≠ hmac s.accessKey (n ++ leBytes 2 x.id))) →
              exec (.kLogin t) s = .next (countEdges s (((((w.upDict (fun d => { d with authFail := min 0xFFFFFFFF (d.authFail + 1) })).occur 0x3002 0 []).upDict (fun d => { d with lockedOut := if d.lockedOut.contains (lockChan c) then d.lockedOut else d.lockedOut ++ [lockChan c] })).replyAs c u (getLE u 2 2) 13 0 []).kvAuto 65)))) ∧
          (s.governs = false ∨ s.pwr.role ≠ .controller → ∀ o op, (o, op) ∈ [(Instr.batchOpen t, 0x30), (.batchAdd t, 0x31), (.batchCommit t, 0x32)] → uOp u = op →
            exec o s = .next (countEdges s (((v.modeRefuse 9).replyAs c u (getLE u 2 2) 8 s.csw.role.code []).kvAuto 65))) ∧
          (s.governs = true → s.pwr.role = .controller →
            (∀ (w : State) (want : Nat), uOp u = 0x30 → want = s.sto.expected x.client → w = v.upSession x.id (fun y => { y with batch := none }) →
              (id = 0 → exec (.batchOpen t) s = .next (countEdges s ((w.replyAs c u (getLE u 2 2) 14 want []).kvAuto 65))) ∧
              (∀ l, id ≠ 0 → s.sto.lastApplied x.client = some l → atOrBelow id l = true → exec (.batchOpen t) s = .next (countEdges s ((w.replyAs c u (getLE u 2 2) 15 0 []).kvAuto 65))) ∧
              (id ≠ 0 → (∀ l, s.sto.lastApplied x.client = some l → atOrBelow id l = false) → ((s.sto.lastApplied x.client).isSome = true ∨ (s.sto.lastAccepted x.client).isSome = true) → id ≠ want →
                exec (.batchOpen t) s = .next (countEdges s ((w.replyAs c u (getLE u 2 2) 14 want []).kvAuto 65))) ∧
              (id ≠ 0 → (∀ l, s.sto.lastApplied x.client = some l → atOrBelow id l = false) → (s.sto.lastApplied x.client = none ∧ s.sto.lastAccepted x.client = none ∨ id = want) →
                exec (.batchOpen t) s = .next (countEdges s (((w.upSession x.id (fun y => { y with batch := some (id, []), batchAt := now })).replyAs c u (getLE u 2 2) 0 0 []).kvAuto 65)))) ∧
            (uOp u = 0x31 → x.batch = none → exec (.batchAdd t) s = .next (countEdges s ((v.replyAs c u (getLE u 2 2) 14 (s.sto.expected x.client) []).kvAuto 65))) ∧
            (∀ b l, uOp u = 0x31 → x.batch = some (b, l) →
              (65536 < itemBytes (l ++ addItems body.length body) → exec (.batchAdd t) s = .next (countEdges s (((v.upSession x.id (fun y => { y with batch := none })).replyAs c u (getLE u 2 2) 12 65536 []).kvAuto 65))) ∧
              (itemBytes (l ++ addItems body.length body) ≤ 65536 → exec (.batchAdd t) s = .next (countEdges s (((v.upSession x.id (fun y => { y with batch := some (b, l ++ addItems body.length body), batchAt := now })).replyAs c u (getLE u 2 2) 0 0 []).kvAuto 65)))) ∧
            (∀ (w : State) (l : List EditItem), uOp u = 0x32 → x.batch = some (id, l) → w = v.upSession x.id (fun y => { y with batch := none }) →
              (∀ st info, w.checkItems l = .inr (st, info) → exec (.batchCommit t) s = .next (countEdges s (((w.upSto (fun q => { q with outcomes := (x.client, (id, (4, 0))) :: q.outcomes })).replyAs c u (getLE u 2 2) st info []).kvAuto 65))) ∧
              (∀ items, w.checkItems l = .inl items → exec (.batchCommit t) s = .next (countEdges s (((w.upSto (fun q => { q with batches := q.batches ++ [{ client := x.client, id := id, size := itemBytes items, accepted := now, items := items, session := x.id, chan := c, ms := none }] })).replyAs c u (getLE u 2 2) 0 0 []).kvAuto 65)))) ∧
            (uOp u = 0x32 → (∀ l, x.batch ≠ some (id, l)) →
              (∀ l, s.sto.lastApplied x.client = some l → atOrBelow id l = true → exec (.batchCommit t) s = .next (countEdges s ((v.replyAs c u (getLE u 2 2) 15 0 []).kvAuto 65))) ∧
              ((∀ l, s.sto.lastApplied x.client = some l → atOrBelow id l = false) →
                (s.sto.lastAccepted x.client = some id → exec (.batchCommit t) s = .next (countEdges s ((v.replyAs c u (getLE u 2 2) 0 0 []).kvAuto 65))) ∧
                (s.sto.lastAccepted x.client ≠ some id → exec (.batchCommit t) s = .next (countEdges s ((v.replyAs c u (getLE u 2 2) 14 ((x.batch.map (·.1)).getD (s.sto.expected x.client)) []).kvAuto 65)))))) ∧
          (∀ st ms, uOp u = 0x33 → s.batchState x id = (st, ms) → exec (.batchStatus t) s = .next (countEdges s ((v.replyAs c u (getLE u 2 2) 0 0 (leBytes 1 st ++ zeros 3 ++ leBytes 8 ms)).kvAuto 65))) ∧
          (uOp u = 0x34 → (∃ l, x.batch = some (id, l)) → exec (.batchDiscard t) s = .next (countEdges s (((v.upSession x.id (fun y => { y with batch := none })).replyAs c u (getLE u 2 2) 0 0 []).kvAuto 65))) ∧
          (uOp u = 0x34 → (∀ l, x.batch ≠ some (id, l)) → ∃ st info, exec (.batchDiscard t) s = .next (countEdges s (((v.replyAs c u (getLE u 2 2) st info []).useFree).kvAuto 65)))))) ∧
    (∀ n y, n ≠ 0 → s.dict.session n = some y → y.used + 60000000000 ≤ now → exec (.sessionTimeout n t) s = .next (countEdges s
      ((s.reach t).upDict (fun d => { d with sessions := d.sessions.filter (fun z => decide (z.id ≠ n)), volatile := adel (adel d.volatile n) (logKey 0x5304 n) })))) ∧
    (∀ n, n = 0 ∨ s.dict.session n = none ∨ (∃ y, s.dict.session n = some y ∧ now < y.used + 60000000000) → exec (.sessionTimeout n t) s = .next (countEdges s (s.reach t))) ∧
    (∀ n, exec (.batchIdleTimeout n t) s = .next (countEdges s ((s.reach t).upSession n (fun y => if y.batch.isSome ∧ y.batchAt + 10000000000 ≤ now then { y with batch := none } else y)))) ∧
    exec (.loginLockoutEnd c) s = .next (countEdges s (s.upDict (fun d => { d with lockedOut := d.lockedOut.filter (fun z => decide (z ≠ lockChan c)) })))

/-- A request whose session exists, that neither the recovery service nor fuse 2 ends, is served at the head of the queue. READ of an entry is answered with its refusal, or with TYPE, access right, TOTAL and the bytes from OFFSET that fit; a READ of 0x5005, or of 0x5304 frozen, at OFFSET 0 latches the log that the session's transfer reads. CALENDAR_NOW_READ is the READ of 0x2205, whose value is the calendar. READ_MULTI answers STATUS, LENGTH and padded value per item, or TOO_LARGE above 1,024 bytes; DESCRIBE answers TYPE, right, size and default. WRITE is answered ACCESS for a published value, with the refusal of an unknown entry, SEALED, ACCESS for one read-only or privileged; a DOMAIN entry takes a segment; a value of fixed size that does not carry OFFSET 0 and LAST 1 has a free answer (log 38); a refused value is answered with its refusal; a command entry acts; every other value is given to the system record, and its answer waits. ACCESS_KEY_WRITE, FUSE_BLOW and RESTORE_DEFAULTS are such WRITEs: 32 bytes of key are stored; 0xA5A50000 + f from a privileged session on the window or S1 begins the blow of fuse f, is ACCESS over UDP and CAN, and RANGE for another value; 1 marks the defaults for the next start-up, INFO 1. FUSE_BLOW_END sets the fuse's bit with its effect: 1 ends HOST privilege, 2 the privilege and open batch of every UDP or CAN session, 3 detaches S1. PUBLISH_MAP_SEGMENT extends the staged map, drops it where it is out of order or above 16 MiB, and with the last gives the map to the image in force, at the next boundary while beats run, or to the staged one; one that fits neither changes nothing else. (R324; R325; R326; R327; R328; R329; R331; R334; R348; R349; R413; R477) -/
def Obligations.KivaselReadsAndWrites : Prop :=
  ∀ (s r v z : State) (t now i sub off f : Nat) (c : KChan) (u body data part : List Byte) (rest : List (KChan × List Byte)) (x : Session) (ecc : List Ecc) (lastSeg : Bool),
    (now = max s.clk.now t → body = u.drop 16 → i = getLE body 0 2 → sub = byteAt body 2 → off = getLE body 4 4 → data = body.drop 12 →
      r = (s.reach t).upDict (fun d => { d with queue := rest }) → v = r.upSession x.id (fun y => { y with used := now }) → z = v.entryReads i ecc →
      s.dict.queue = (c, u) :: rest → unitOk c u = true → s.kvWaits c u = false → s.sessionOf c u = some x → s.pwr.recovery = false →
      s.dict.fuses.getLsbD 2 = false ∨ c = .odx ∨ c = .s1 →
      (∀ (w : State) (o : Instr), o = .kRead t ecc ∨ (o = .calendarNowRead ∧ i = 0x2205 ∧ t = 0 ∧ ecc = []) → uOp u = 0x10 →
        (¬ (off = 0 ∧ (i = 0x5005 ∨ i = 0x5304 ∧ z.trc.st = 2)) ∧ w = z ∨
          (off = 0 ∧ (i = 0x5005 ∨ i = 0x5304 ∧ z.trc.st = 2)) ∧ w = z.upDict (fun d => { d with volatile := aput (logKey i x.id) (z.logNow i) d.volatile })) →
        (∀ st info, w.getEntry i sub (w.isPriv x) (w.logFor i x.id) = .refused st info → exec o s = .next (countEdges s ((w.replyAs c u (getLE u 2 2) st info []).kvAuto 65))) ∧
        (∀ ty rb val, w.getEntry i sub (w.isPriv x) (w.logFor i x.id) = .value ty rb val → exec o s = .next (countEdges s
          ((w.replyAs c u (getLE u 2 2) 0 0 (leBytes 1 ty ++ [rb] ++ zeros 2 ++ leBytes 4 val.length ++ slice val off (min 1016 (getLE body 8 4)))).kvAuto 65)))) ∧
      (∀ (l : List Byte), v.getEntry 0x2205 0 true l = .value 0x13 (Config.rightByte Right.priv.num) (leBytes 8 s.rtc.cal.ms) ∧ v.getEntry 0x2205 0 false l = .refused 4 0) ∧
      (∀ (w : State) (out : List Byte), uOp u = 0x11 → w = (List.range (body.length / 4)).foldl (fun acc k => acc.entryReads (getLE body (4 * k) 2) ecc) v →
        out = (List.range (body.length / 4)).flatMap (fun k => (w.getEntry (getLE body (4 * k) 2) (byteAt body (4 * k + 2)) (w.isPriv x) (w.logNow (getLE body (4 * k) 2))).item) →
        (1024 < out.length → exec (.kReadMulti t ecc) s = .next (countEdges s ((w.replyAs c u (getLE u 2 2) 12 1024 []).kvAuto 65))) ∧
        (out.length ≤ 1024 → exec (.kReadMulti t ecc) s = .next (countEdges s ((w.replyAs c u (getLE u 2 2) 0 0 out).kvAuto 65)))) ∧
      (uOp u = 0x12 →
        (∀ st info, v.describe i sub = .refused st info → exec (.kDescribe t) s = .next (countEdges s ((v.replyAs c u (getLE u 2 2) st info []).kvAuto 65))) ∧
        (∀ ty rb val, v.describe i sub = .value ty rb val →
          (1020 < val.length → exec (.kDescribe t) s = .next (countEdges s ((v.replyAs c u (getLE u 2 2) 12 1024 []).kvAuto 65))) ∧
          (val.length ≤ 1020 → exec (.kDescribe t) s = .next (countEdges s ((v.replyAs c u (getLE u 2 2) 0 0 (leBytes 1 ty ++ [rb] ++ zeros 2 ++ val)).kvAuto 65))))) ∧
      (uOp u = 0x20 → ∀ (o : Instr), o = .kWrite t ∨ (o = .accessKeyWrite t ∧ i = 0x1020) ∨ (o = .fuseBlow t ∧ i = 0x1010 ∧ sub = 1) ∨ (o = .restoreDefaults t ∧ i = 0x1011) →
        (0x8000 ≤ i → i < 0xC000 → exec o s = .next (countEdges s ((v.replyAs c u (getLE u 2 2) 4 0 []).kvAuto 65))) ∧
        (i < 0x8000 ∨ 0xC000 ≤ i → ∀ st, v.find i sub = .refused st → exec o s = .next (countEdges s ((v.replyAs c u (getLE u 2 2) st 0 []).kvAuto 65))) ∧
        (i < 0x8000 → ∀ e, v.find i sub = .entry e →
          (e.right = .sealed → exec o s = .next (countEdges s ((v.replyAs c u (getLE u 2 2) 5 0 []).kvAuto 65))) ∧
          (e.right = .ro ∨ e.right = .priv ∧ v.isPriv x = false → exec o s = .next (countEdges s ((v.replyAs c u (getLE u 2 2) 4 0 []).kvAuto 65))) ∧
          (e.right ≠ .sealed → e.right ≠ .ro → (e.right = .priv → v.isPriv x = true) →
            (e.type = 0x21 → exec o s = .next (countEdges s ((v.writeDomain c u i off data ((byteAt body 8).testBit 0)).kvAuto 65))) ∧
            (e.type ≠ 0x21 → off ≠ 0 ∨ (byteAt body 8).testBit 0 = false → ∃ st info, exec o s = .next (countEdges s (((v.replyAs c u (getLE u 2 2) st info []).useFree).kvAuto 65))) ∧
            (e.type ≠ 0x21 → off = 0 → (byteAt body 8).testBit 0 = true →
              (∀ a, v.valueRefusal e i sub data = some a → exec o s = .next (countEdges s ((a.state.replyAs c u (getLE u 2 2) a.status a.info []).kvAuto 65))) ∧
              (∀ a, v.valueRefusal e i sub data = none → e.eff = .command → a = (if i < 0x3000 then v.commandLow c i (leNat data) else v.commandHigh i (leNat data)) →
                exec o s = .next (countEdges s ((a.state.replyAs c u (getLE u 2 2) a.status a.info []).kvAuto 65))) ∧
              (v.valueRefusal e i sub data = none → e.eff ≠ .command → exec o s = .next (countEdges s ((v.storeSystem (entryKey i sub) data (some ⟨c, getLE u 2 2, getLE u 4 4⟩)).kvAuto 65))))))) ∧
      (uOp u = 0x20 → off = 0 → (byteAt body 8).testBit 0 = true → v.isPriv x = true →
        (i = 0x1020 → sub = 0 → data.length = 32 → exec (.accessKeyWrite t) s = .next (countEdges s ((v.storeSystem 0x102000 data (some ⟨c, getLE u 2 2, getLE u 4 4⟩)).kvAuto 65))) ∧
        (i = 0x1011 → sub = 0 → data = [1] → exec (.restoreDefaults t) s = .next (countEdges s (((v.upDict (fun d => { d with restoreDef := true })).replyAs c u (getLE u 2 2) 0 1 []).kvAuto 65))) ∧
        (i = 0x1010 → sub = 1 → data.length = 4 →
          (netChan c = true → exec (.fuseBlow t) s = .next (countEdges s ((v.replyAs c u (getLE u 2 2) 4 0 []).kvAuto 65))) ∧
          (netChan c = false → leNat data < 0xA5A50000 ∨ 0xA5A50003 < leNat data → exec (.fuseBlow t) s = .next (countEdges s ((v.replyAs c u (getLE u 2 2) 7 0 []).kvAuto 65))) ∧
          (netChan c = false → leNat data = 0xA5A50000 + f → f < 4 → s.dict.fuses.getLsbD f = true ∨ s.dict.blowing.contains f = true →
            exec (.fuseBlow t) s = .next (countEdges s ((v.replyAs c u (getLE u 2 2) 0 0 []).kvAuto 65))) ∧
          (netChan c = false → leNat data = 0xA5A50000 + f → f < 4 → s.dict.fuses.getLsbD f = false → s.dict.blowing.contains f = false →
            exec (.fuseBlow t) s = .next (countEdges s (((v.upDict (fun d => { d with blowing := d.blowing ++ [f] })).replyAs c u (getLE u 2 2) 0 0 []).kvAuto 65)))))) ∧
    (s.dict.blowing = [] → exec .fuseBlowEnd s = .next s) ∧
    (∀ l w, s.dict.blowing = f :: l → w = s.upDict (fun d => { d with fuses := d.fuses ||| (1#4 <<< f), blowing := d.blowing.filter (fun y => decide (y ≠ f)) }) →
      (f ≠ 1 → f ≠ 2 → f ≠ 3 → exec .fuseBlowEnd s = .next (countEdges s w)) ∧
      (f = 1 → exec .fuseBlowEnd s = .next (countEdges s (w.upHost (fun h => { h with priv := false })))) ∧
      (f = 2 → exec .fuseBlowEnd s = .next (countEdges s (w.upDict (fun d => { d with sessions := d.sessions.map (fun y => if netChan y.chan then { y with batch := none, priv := false } else y) })))) ∧
      (f = 3 → exec .fuseBlowEnd s = .next (countEdges s (w.upDict (fun d => { d with usbOff := true }))))) ∧
    (∀ base, base = s.upDict (fun q => { q with pubStaged := [] }) → part = (if off = 0 then [] else s.dict.pubStaged) →
      (off ≠ part.length ∨ 16777216 < off + data.length → exec (.publishMapSegment off data lastSeg) s = .next (countEdges s base)) ∧
      (off = part.length → off + data.length ≤ 16777216 →
        (lastSeg = false → exec (.publishMapSegment off data lastSeg) s = .next (countEdges s (s.upDict (fun q => { q with pubStaged := part ++ data })))) ∧
        (lastSeg = true → mapOk (part ++ data) = false → exec (.publishMapSegment off data lastSeg) s = .next (countEdges s base)) ∧
        (lastSeg = true → mapOk (part ++ data) = true →
          (s.ldr.img.isSome = true → (part ++ data).take 32 = s.ldr.digest →
            (s.clk.running = true → exec (.publishMapSegment off data lastSeg) s = .next (countEdges s (base.upDict (fun q => { q with pubNext := some (mapEntries (part ++ data)) })))) ∧
            (s.clk.running = false → exec (.publishMapSegment off data lastSeg) s = .next (countEdges s (base.upDict (fun q => { q with pubMap := mapEntries (part ++ data), pubNext := none }))))) ∧
          (s.ldr.img = none ∨ (part ++ data).take 32 ≠ s.ldr.digest →
            (s.ldr.staged ≠ [] → s.ldr.state ≠ 1 → (part ++ data).take 32 = s.ldr.stagedDigest →
              exec (.publishMapSegment off data lastSeg) s = .next (countEdges s (base.upDict (fun q => { q with pubPend := mapEntries (part ++ data) })))) ∧
            (s.ldr.staged = [] ∨ s.ldr.state = 1 ∨ (part ++ data).take 32 ≠ s.ldr.stagedDigest →
              exec (.publishMapSegment off data lastSeg) s = .next (countEdges s base))))))

/-- While HOST_RDY is high and domain SUP is powered. A read frame of n words obtains n words; a read of one word obtains what one read of that register by HOST obtains. A write frame of one word is the write of that register by HOST, and a write frame of more words writes its first word, whose rising interrupt lines count, and then the rest from the next address. A status frame obtains n times HPT_STATUS and changes nothing else. A frame with a reserved command value, or a read or write at an address that is no multiple of 4, sets HPT_CAUSE bit 0 and has no other effect than its record, and so does a host that went on clocking through a stall; an access that takes too long sets HPT_CAUSE bit 1 and its read obtains zero. Each answers a next state; for the status frame and the errors only the register block and the recorder change. (R353; R354; R355; R356; R357; R360; 12_host_port_and_interrupts.md, Frames) -/
def Obligations.HostFramesReachTheFabric : Prop :=
  ∀ (s : State) (cmd addr n : Nat) (w : Word) (ws : List Word) (b : Bool), s.host.ready = true → s.domainOn 1 = true →
    (cmdOk cmd = true → addr % 4 = 0 → cmdOp cmd = 0 → ∃ t, exec (.hostRead cmd addr n) s = .next t ∧ t.host.rdata.length = n ∧
      (n = 1 → t.host.rdata = [(s.fabricRead .host (addr % 2 ^ 24)).1]) ∧ t.pending = s.pending) ∧
    (cmdOk cmd = true → addr % 4 = 0 → cmdOp cmd = 1 →
      (∃ t, exec (.hostWrite cmd addr (w :: ws)) s = .next t ∧ t.pending = s.pending) ∧
      exec (.hostWrite cmd addr [w]) s = exec (.registerWrite .host (addr % 2 ^ 24) w) s ∧
      s.writeWords cmd (w :: ws) (addr % 2 ^ 24) =
        (countEdges s (s.fabricWrite .host (addr % 2 ^ 24) w [])).writeWords cmd ws (if cmd.testBit 3 then (addr % 2 ^ 24 + 4) % 2 ^ 24 else addr % 2 ^ 24)) ∧
    (cmdOk cmd = true → cmdOp cmd = 2 → ∃ t, exec (.hostStatus cmd n) s = .next t ∧
      t.host.rdata = List.replicate n s.hptStatus ∧ t.host.hptCause = s.host.hptCause ∧ t.host.fault = s.host.fault ∧ Frame { host := true } s t) ∧
    (cmdOk cmd = false ∨ cmdOp cmd ≠ 2 ∧ addr % 4 ≠ 0 → ∃ t, exec (.hostRead cmd addr n) s = .next t ∧
      t.host.hptCause = setBit s.host.hptCause 0 true ∧ t.host.rdata = s.host.rdata ∧ Frame { host := true, evr := true } s t) ∧
    (cmdOk cmd = false ∨ cmdOp cmd ≠ 2 ∧ addr % 4 ≠ 0 → ∃ t, exec (.hostWrite cmd addr ws) s = .next t ∧
      t.host.hptCause = setBit s.host.hptCause 0 true ∧ t.host.rdata = s.host.rdata ∧ Frame { host := true, evr := true } s t) ∧
    (∃ t, exec .hostStallViolation s = .next t ∧ t.host.hptCause = setBit s.host.hptCause 0 true ∧ t.host.rdata = s.host.rdata ∧
      Frame { host := true, evr := true } s t) ∧
    (∃ t, exec (.hostAccessTimeout b) s = .next t ∧ t.host.hptCause = setBit s.host.hptCause 1 true ∧
      t.host.rdata = (if b then s.host.rdata else [0]) ∧ Frame { host := true, evr := true } s t)

/-- For any master whose write reaches HPT_CMD. CHALLENGE outside the lockout loads a fresh nonce and sets NONCE_FRESH; within it nothing changes. GO outside the lockout with FUSE_HOST_PRIV_OFF unblown and a fresh nonce whose proof is right, or with the access key all zero, opens privilege and consumes the nonce; a wrong or stale proof consumes the nonce, locks out and sets HPT_CAUSE bit 2 without opening privilege; with the fuse blown GO fails at once and sets HPT_CAUSE bit 2. LOCK closes privilege. The end of the lockout clears LOCKOUT. Each answers a next state in which privilege, lockout and nonce otherwise stand as before and no part changes but the register block, the recorder and the dictionary's counts. (R361; R362; R363; 12_host_port_and_interrupts.md, Host privilege; 11_object_dictionary.md, Fuses) -/
def Obligations.HostPrivilegeChallengeAndProof : Prop :=
  ∀ (s : State) (m : Master), s.readReaches m 0x1500C = true →
    (∃ t, exec (.unlockChallenge m) s = .next t ∧ t.host.priv = s.host.priv ∧ t.host.lockout = s.host.lockout ∧
      (s.host.lockout = false → t.host.fresh = true ∧ t.host.nonce = freshNonce s.free ∧ t.free = s.free + 1) ∧
      (s.host.lockout = true → t.host.fresh = s.host.fresh ∧ t.host.nonce = s.host.nonce) ∧ Frame { host := true, free := true } s t) ∧
    (∃ t, exec (.unlockGo m) s = .next t ∧
      (s.dict.fuses.getLsbD 1 = false → s.host.lockout = false → s.host.fresh = true →
        (allZero s.accessKey = true ∨ s.host.proof = hmac s.accessKey (s.host.nonce ++ zeros 2)) →
        t.host.priv = true ∧ t.host.fresh = false ∧ t.host.lockout = false ∧ t.host.hptCause = s.host.hptCause) ∧
      (s.dict.fuses.getLsbD 1 = false → s.host.lockout = false →
        (s.host.fresh = false ∨ allZero s.accessKey = false ∧ s.host.proof ≠ hmac s.accessKey (s.host.nonce ++ zeros 2)) →
        t.host.priv = s.host.priv ∧ t.host.fresh = false ∧ t.host.lockout = true ∧ t.host.hptCause = setBit s.host.hptCause 2 true) ∧
      (s.dict.fuses.getLsbD 1 = true → t.host.priv = s.host.priv ∧ t.host.hptCause = setBit s.host.hptCause 2 true) ∧
      Frame { host := true, evr := true, dict := true } s t) ∧
    (∃ t, exec (.unlockLock m) s = .next t ∧ t.host.priv = false ∧ t.host.lockout = s.host.lockout ∧ t.host.fresh = s.host.fresh ∧ Frame { host := true } s t) ∧
    (∃ t, exec .hostLockoutEnd s = .next t ∧ t.host.lockout = false ∧ t.host.priv = s.host.priv ∧ t.host.fresh = s.host.fresh ∧ Frame { host := true } s t)

/-- While domain SUP is powered, a write by any master answers a next state. At an address outside the map the first refusal captures UNMAPPED, the master and the address, and changes nothing else but the recorder; a later refusal keeps the captured master and address and sets MULTIPLE; an unprivileged master's write to SYS_ROLE is refused with PRIV. A write that reaches a cause register clears exactly the bits written as 1, and one to an enable register stores the bits it has: shown for SYS_EXE_CAUSE and its enable register, for which no other part changes. A read of INT_COUNTn by a master that reaches it obtains the count and clears it. A privileged write of SYS_ROLE stores NEXT in the register block. The SYS_RESET word by a privileged master resets the device unless a page step is in progress, for which the reset then waits. (R7; R364; R365; R366; R373; R382; R435; 12_host_port_and_interrupts.md, Access rules) -/
def Obligations.RegisterWritesAndRefusals : Prop :=
  ∀ (s : State) (m : Master) (addr i : Nat) (v : Word), s.domainOn 1 = true → i < 32 →
    (0x16000 ≤ addr → ∃ t, exec (.registerWrite m addr v) s = .next t ∧
      (s.host.fault.getLsbD 0 = false → t.host.faultAddr = addr ∧ wfield t.host.fault 10 8 = masterCode m ∧ t.host.fault.getLsbD 1 = true ∧ t.host.fault.getLsbD 0 = true) ∧
      (s.host.fault.getLsbD 0 = true → t.host.faultAddr = s.host.faultAddr ∧ t.host.fault = setBit (setBit s.host.fault 1 true) 6 true) ∧
      Frame { host := true, evr := true } s t) ∧
    (s.readReaches m 0x14 = true → ∃ t, exec (.registerWrite m 0x14 v) s = .next t ∧
      t.host.exeCause.getLsbD i = (s.host.exeCause.getLsbD i && !v.getLsbD i) ∧ t.host.exeCauseEn = s.host.exeCauseEn ∧ Frame { host := true } s t) ∧
    (s.readReaches m 0x18 = true → ∃ t, exec (.registerWrite m 0x18 v) s = .next t ∧
      t.host.exeCauseEn = v &&& 0xFF#32 ∧ t.host.exeCause = s.host.exeCause ∧ Frame { host := true } s t) ∧
    (addr < 1024 → addr % 4 = 0 → s.readReaches m (0x1C00 + addr) = true → ∃ t, exec (.rclRead m (0x1C00 + addr)) s = .next t ∧
      t.host.rdata = [w32 ((aget s.host.counts (addr / 4)).getD 0)] ∧ Frame { host := true } s t) ∧
    (s.readReaches m 0x10 = true → s.privOf m = true → wfield v 5 4 ≠ 3 → ∃ t, exec (.roleNextWrite m v) s = .next t ∧
      t.host.roleNext = wfield v 5 4 ∧ t.pwr.role = s.pwr.role ∧ t.pending = s.pending) ∧
    (s.readReaches m 0x10 = true → s.privOf m = false → ∃ t, exec (.roleNextWrite m v) s = .next t ∧
      t.host.roleNext = s.host.roleNext ∧ t.host.fault.getLsbD 3 = true ∧ Frame { host := true, evr := true } s t) ∧
    (s.readReaches m 0x38 = true → s.privOf m = true → ∃ t, exec (.sysReset m 0x5A5A#32) s = .next t ∧
      (s.nvp.step.isSome = true → t.pwr.resetPend = true ∧ Frame { pwr := true } s t) ∧
      (s.nvp.step.isSome = false → t.pwr.started = false ∧ t.pwr.ref = .deviceReset ∧ t.pwr.role = s.pwr.role ∧ t.clk.running = false ∧
        t.host.priv = false ∧ t.host.exeCause = 0 ∧ t.clu.lanes = Cluster.reset.lanes ∧ t.net.slots = Net.reset.slots ∧ t.pending = s.pending))

/-- For any master that reaches the MBX block. A legal selector written to MBX_SEL is stored with the number of its words, VALID clears and a latch is awaited; a selector above 5 is refused with RSVD and selects nothing. The latch of an awaited selection takes the whole value of that instant and sets VALID; with none awaited nothing but the time changes. Reading word i of a valid latch obtains the word that was latched, and the read of the last word clears VALID; with no valid latch, or beyond the last word, the read obtains zero. Each acts on the own instance of the master that uses it: every other master's stays as it was, and so does every part but the register block. (R367; R368; R369; R364; 12_host_port_and_interrupts.md, Wide values) -/
def Obligations.MailboxOfWideValues : Prop :=
  ∀ (s : State) (m q : Master) (v : Word) (t i : Nat), i < 3 →
    (s.readReaches m 0x12000 = true → wfield v 7 0 ≤ 5 → ∃ u, exec (.mbxSelWrite m v) s = .next u ∧
      u.mregs m = { s.mregs m with mbxSel := wfield v 7 0, mbxWords := if wfield v 7 0 < 4 then 2 else 3, mbxPending := true, mbxValid := false } ∧
      (q ≠ m → u.mregs q = s.mregs q) ∧ Frame { host := true } s u) ∧
    (s.readReaches m 0x12000 = true → 5 < wfield v 7 0 → ∃ u, exec (.mbxSelWrite m v) s = .next u ∧
      u.mregs m = s.mregs m ∧ u.host.fault.getLsbD 5 = true ∧ Frame { host := true, evr := true } s u) ∧
    (∃ u, exec (.mbxLatch m t) s = .next u ∧ u.clk = { s.clk with now := max s.clk.now t } ∧
      ((s.mregs m).mbxPending = true → u.mregs m = { s.mregs m with
        mbxPending := false, mbxValid := true, mbxLatched := (s.mregs m).mbxSel, mbxData := (s.reach t).wide (s.mregs m).mbxSel }) ∧
      ((s.mregs m).mbxPending = false → u.mregs m = s.mregs m) ∧ (q ≠ m → u.mregs q = s.mregs q) ∧ Frame { clk := true, host := true } s u) ∧
    (s.readReaches m (0x12008 + 4 * i) = true → ∃ u, exec (.mbxDataRead m i) s = .next u ∧
      ((s.mregs m).mbxValid = true → i < (s.mregs m).mbxWords → u.host.rdata = [(s.mregs m).mbxData[i]?.getD 0] ∧
        u.mregs m = { s.mregs m with mbxValid := decide (i + 1 ≠ (s.mregs m).mbxWords) }) ∧
      ((s.mregs m).mbxValid = false ∨ (s.mregs m).mbxWords ≤ i → u.host.rdata = [0] ∧ u.mregs m = s.mregs m) ∧
      (q ≠ m → u.mregs q = s.mregs q) ∧ Frame { host := true } s u)

/-- For a master with an interrupt target that reaches the INT block. INT_CLAIM obtains the highest-numbered vectored source that is pending for the target and puts it in service for that target; for source 11, the scan summary, nothing is put in service; with none pending it obtains 0x3FF and nothing changes. INT_TAKE of a scanned source obtains its number and puts it in service when it is pending and routed to the target, and 0x3FF otherwise. INT_DONE ends the service of a source in service for that target and leaves any other as it was. A privileged write of INT_ROUTE for a source in use with no reserved bit stores bits 3 to 0. A source in service is not pending. Each answers a next state in which no part but the register block changes. (R374; R375; R376; R377; R378; R379; R382; 12_host_port_and_interrupts.md, Interrupts) -/
def Obligations.InterruptClaimTakeAndDone : Prop :=
  ∀ (s : State) (m : Master) (tg n k : Nat) (v : Word), targetOf m = some tg →
    (s.readReaches m 0x1010 = true → ∃ t, exec (.intClaim m) s = .next t ∧ Frame { host := true } s t ∧
      (n < 16 → s.vectored tg n = true → (∀ j, n < j → j < 16 → s.vectored tg j = false) → t.host.rdata = [w32 n] ∧
        (n ≠ 11 → aget t.host.serving n = some tg) ∧ (n = 11 → t.host.serving = s.host.serving) ∧
        (k ≠ n → aget t.host.serving k = aget s.host.serving k)) ∧
      ((∀ j, j < 16 → s.vectored tg j = false) → t.host.rdata = [0x3FF#32] ∧ t.host.serving = s.host.serving)) ∧
    (16 ≤ n → n < 256 → s.readReaches m (0x1400 + 4 * n) = true → ∃ t, exec (.intTake m n) s = .next t ∧ Frame { host := true } s t ∧
      (s.pendingSrc n = true → (s.host.route n).testBit tg = true → t.host.rdata = [w32 n] ∧ aget t.host.serving n = some tg) ∧
      (s.pendingSrc n = false ∨ (s.host.route n).testBit tg = false → t.host.rdata = [0x3FF#32] ∧ t.host.serving = s.host.serving) ∧
      (k ≠ n → aget t.host.serving k = aget s.host.serving k)) ∧
    (s.readReaches m 0x1014 = true → ∃ t, exec (.intDone m v) s = .next t ∧ Frame { host := true } s t ∧
      (aget s.host.serving (wfield v 7 0) = some tg → aget t.host.serving (wfield v 7 0) = none) ∧
      (aget s.host.serving (wfield v 7 0) ≠ some tg → t.host.serving = s.host.serving) ∧
      (k ≠ wfield v 7 0 → aget t.host.serving k = aget s.host.serving k)) ∧
    (n < 256 → sourceUsed n = true → s.privOf m = true → v &&& 0xF4#32 = 0 → s.readReaches m (0x1800 + 4 * n) = true →
      ∃ t, exec (.intRouteWrite m n v) s = .next t ∧ t.host.route n = wfield v 3 0 ∧ (k ≠ n → t.host.route k = s.host.route k) ∧
      t.host.serving = s.host.serving ∧ Frame { host := true } s t) ∧
    (aget s.host.serving n ≠ none → s.pendingSrc n = false)

/-- With the recorder powered, no clear in progress and an occurrence at the head of the queue, RECORD_WRITE takes it from the queue. If the record with the highest SEQ has its CODE and SOURCE (and is not corrupt), that record's REPEAT counts one up to 0xFFFF and OT_LAST takes the occurrence's time, every other record and field, SEQ included, stays, and nothing else changes. Otherwise, while a slot is free, one record of the occurrence with the next SEQ is appended and the SEQ counts on, when no trigger matches; an occurrence at or below EVR_LEVEL whose code is not of class 7 sets EVR_CAUSE.NEW. With every slot held, the record that goes is the first in SEQ order whose severity is equal to or numerically above that of the occurrence, a corrupt one counting as 7; when there is none the records stay, the drop counter of the severity counts one and EVR_CAUSE.DROPPED is set. With an empty queue or a clear in progress nothing changes but the time. (R403; R404; R405; R412; 13_watchdog_and_recorder.md, The recorder) -/
def Obligations.RecordsAreMergedWrittenOrDropped : Prop :=
  ∀ (s : State) (t : Nat) (o : Occ) (rest : List Occ) (r : Rec) (l : List Rec), s.domainOn 1 = true → s.evr.queue.length ≤ 64 →
    (s.evr.queue = o :: rest → s.evr.clearing = none →
      (s.evr.recs = l ++ [r] → r.code = o.code → r.source = o.source → r.corrupt = false → ∃ u, exec (.recordWrite t) s = .next u ∧
        u.evr = { s.evr with queue := rest, recs := l ++ [{ r with repeats := min 0xFFFF (r.repeats + 1), otLast := o.ot }] } ∧
        Frame { clk := true, evr := true } s u) ∧
      ((s.evr.recs = [] ∨ s.evr.recs = l ++ [r] ∧ (r.code ≠ o.code ∨ r.source ≠ o.source ∨ r.corrupt = true)) →
        (s.trigger o = none → s.evr.recs.length < 4096 → ∃ u, exec (.recordWrite t) s = .next u ∧ u.evr.recs = s.evr.recs ++ [o.record s.evr.nextSeq] ∧
          u.evr.nextSeq = (s.evr.nextSeq + 1) % 2 ^ 32 ∧ rest <+: u.evr.queue ∧ u.evr.drops = s.evr.drops ∧
          (o.sev ≤ s.evr.level → o.code / 256 ≠ 7 → u.evr.cause.getLsbD 0 = true) ∧ Frame { clk := true, evr := true } s u) ∧
        (∀ a x b, s.trigger o = none → 4096 ≤ s.evr.recs.length → s.evr.recs = a ++ x :: b → o.sev ≤ x.rank → (∀ y ∈ a, y.rank < o.sev) →
          ∃ u, exec (.recordWrite t) s = .next u ∧ u.evr.recs = a ++ b ++ [o.record s.evr.nextSeq] ∧
          u.evr.nextSeq = (s.evr.nextSeq + 1) % 2 ^ 32 ∧ rest <+: u.evr.queue ∧ Frame { clk := true, evr := true } s u) ∧
        (4096 ≤ s.evr.recs.length → (∀ y ∈ s.evr.recs, y.rank < o.sev) → o.sev < 8 → ∃ u, exec (.recordWrite t) s = .next u ∧
          u.evr.recs = s.evr.recs ∧ u.evr.nextSeq = s.evr.nextSeq ∧ u.evr.cause.getLsbD 1 = true ∧ rest <+: u.evr.queue ∧
          u.evr.drops = vup s.evr.drops o.sev 0 (fun n => min (2 ^ 32 - 1) (n + 1)) ∧ Frame { clk := true, evr := true } s u))) ∧
    (s.evr.queue = [] ∨ s.evr.clearing ≠ none → ∃ u, exec (.recordWrite t) s = .next u ∧ u.evr = s.evr ∧ Frame { clk := true } s u)

/-- A read of EVR_WIN0 by a master that reaches it, with no clear in progress, counts the errors it finds (an uncorrectable one makes the record corrupt) and latches into that master's window the record with the lowest SEQ at or after its cursor, answers its first word, and GAP tells whether that SEQ differs from the cursor, which also sets EVR_CAUSE.GAP; where no record lies there the window and the answer are zero. A read of EVR_WIN63 answers the last word of the latched window and moves the cursor to the latched SEQ plus one. A privileged write of 0x0000A5C3 to EVR_CLEAR begins a clear when none is in progress, and every session's begun transfer of entry 0x5005 is gone; any other value is refused with RSVD, and a master without privilege with UNPRIV, and nothing is cleared. When the clear ends, the log holds one record: code 0x0002, severity 5, the clearing master as SOURCE and the number of records removed in DETAIL; the drop counters are zero (where the queue of occurrences has room for the new ones), EVR_CAUSE.CLEARED is set, and SEVERE too when EVR_LEVEL is 5 to 7; no snapshot waits in the open half. A trigger that matches the new record acts on it and on nothing else of the log; with none, nothing but the log and the waiting snapshots changes. The other masters' windows and cursors stay. (R410; R411; R412; 13_watchdog_and_recorder.md, Reading and clearing the log) -/
def Obligations.EventLogReadingAndClearing : Prop :=
  ∀ (s : State) (m q : Master) (v : Word) (x : Rec) (code : Nat), q ≠ m →
    (s.readReaches m 0x3100 = true → s.evr.clearing = none →
      (∀ ecc w, w = s.recorderReads (s.latchErrors m ecc) → w.evr.at' (s.cursor m) = some x → ∃ u, exec (.evrWin0Read m ecc) s = .next u ∧
        u.host.rdata = [w32 (getLE x.encode 0 4)] ∧
        u.mregs m = { s.mregs m with window := x.encode, winSeq := some x.seq, gap := decide (x.seq ≠ s.cursor m) } ∧ u.mregs q = s.mregs q ∧
        (x.seq ≠ s.cursor m → u.evr.cause.getLsbD 5 = true) ∧ u.evr.recs = w.evr.recs ∧ (x.seq = s.cursor m → u.evr = w.evr) ∧
        Frame { sto := true, host := true, evr := true } s u ∧ (ecc = [] → w = s ∧ Frame { host := true, evr := true } s u)) ∧
      (∀ ecc, s.evr.at' (s.cursor m) = none → ∃ u, exec (.evrWin0Read m ecc) s = .next u ∧ u.host.rdata = [0#32] ∧
        u.mregs m = { s.mregs m with window := zeros 256, winSeq := none, gap := false } ∧ u.mregs q = s.mregs q ∧ Frame { host := true } s u)) ∧
    (∀ n, s.readReaches m 0x31FC = true → s.evr.clearing = none → (s.mregs m).winSeq = some n → ∃ u, exec (.evrWin63Read m) s = .next u ∧
      u.host.rdata = [w32 (getLE (s.mregs m).window 252 4)] ∧ u.mregs m = { s.mregs m with cursor := (n + 1) % 2 ^ 32 } ∧
      u.mregs q = s.mregs q ∧ Frame { host := true } s u) ∧
    (s.readReaches m 0x301C = true → s.privOf m = true → s.evr.clearing = none → ∃ u, exec (.eventClear m 0xA5C3#32) s = .next u ∧
      u.evr = { s.evr with clearing := some (masterCode m), removed := s.evr.recs.length } ∧
      u.dict = { s.dict with volatile := s.dict.volatile.filter (fun e => decide (exportKey ≤ e.1)) } ∧ Frame { evr := true, dict := true } s u) ∧
    (s.readReaches m 0x301C = true → s.privOf m = false ∨ v ≠ 0xA5C3#32 → ∃ u, exec (.eventClear m v) s = .next u ∧
      u.evr.clearing = s.evr.clearing ∧ u.evr.recs = s.evr.recs ∧ u.host.fault.getLsbD (if s.privOf m then 5 else 3) = true ∧
      Frame { host := true, evr := true } s u) ∧
    (s.evr.clearing = some code → ∃ u r, exec .eventClearDone s = .next u ∧ u.evr.recs = [r] ∧ r.code = 2 ∧ r.source = code ∧ r.sev = 5 ∧
      r.detail = padTo 8 (leBytes 4 s.evr.removed) ∧ r.seq = s.evr.nextSeq ∧ u.evr.nextSeq = (s.evr.nextSeq + 1) % 2 ^ 32 ∧ u.evr.clearing = none ∧
      (s.evr.queue.length < 62 → u.evr.drops = Vector.replicate 8 0) ∧ u.evr.cause.getLsbD 4 = true ∧ (5 ≤ s.evr.level → u.evr.cause.getLsbD 0 = true) ∧
      s.evr.queue <+: u.evr.queue ∧ Frame { sto := true, host := true, evr := true, trc := true } s u ∧
      ((∀ o : Occ, o.code = 2 → o.source = code → o.sev = 5 → s.trigger o = none) →
        u.sto = (s.upOpen (fun h => { h with snaps := [] })).sto ∧ Frame { sto := true, evr := true } s u))

/-- Take an armed slot i whose current period has not ended at the instant t of the command, and w its registers. A check-in by the host (its own slot, KEY 0xA5) and one by the supervisor service that owns the slot leave it as follows: EXTRA counts one where the period has failed or it is a later check-in of the first period; otherwise CHECKED becomes 1 in the first period, or at or after the tick at which the window opens when no check-in was accepted; otherwise the period fails, kind 1 before that tick and kind 2 after an accepted check-in. A failure counts in FAILS, sets LAST_KIND and the slot's bit of WDG_CAUSE, fills WDG_FIRST when it was invalid, marks WARNED when the previous period did not fail, and begins a watchdog reset when it did and none is in progress. At the end of one period, a period without an accepted check-in and without a failure fails with kind 3; the next period starts where it ended, remembers whether it failed, and WARNED clears after a period that has not failed. Other slots stay, except those of the same service. Each answers a next state. (R388; R389; R390; R391; R392; R393; R394; 13_watchdog_and_recorder.md, Check-ins and failures) -/
def Obligations.WaymarkCheckinsAndPeriods : Prop :=
  ∀ (s : State) (m : Master) (v : Word) (i j t svc : Nat) (w early miss : WSlot), i < 32 → j < 32 → w = s.wslot i → w.armed = true → s.clk.now ≤ t →
    early = { w with failed := true, lastKind := (if t / 1000 < w.openTick then 1 else 2), fails := sat16 w.fails, warned := w.warned || !w.prevFailed } →
    miss = { w with failed := true, lastKind := 3, fails := sat16 w.fails, warned := w.warned || !w.prevFailed } →
    (∀ r, t / 1000 < w.endTick →
      r = (if w.failed || (w.first && w.checked) then { w with extra := satAdd 15 w.extra 1 }
        else if w.first || (decide (w.openTick ≤ t / 1000) && !w.checked) then { w with checked := true }
        else early) →
      (s.readReaches m 0x2018 = true → w.owner = 3 → wfield v 4 0 = i → wfield v 15 8 = 0xA5 → ∃ u, exec (.hostCheckin m t v) s = .next u ∧
        u.wslot i = r ∧ (j ≠ i → u.wslot j = s.wslot j) ∧
        (r ≠ early → { u.wdg with slots := s.wdg.slots } = s.wdg ∧ Frame { clk := true, wdg := true } s u) ∧
        (r = early → r ≠ { w with extra := satAdd 15 w.extra 1 } → u.wdg.cause = setBit s.wdg.cause i true ∧ u.wdg.firstValid = true ∧
          (s.wdg.firstValid = false ∨ t / 4 = s.wdg.firstAt ∧ i < s.wdg.firstSlot → u.wdg.firstSlot = i ∧ u.wdg.firstKind = r.lastKind) ∧
          u.wdg.resetting = (if w.prevFailed && s.wdg.resetting.isNone then some (i, r.lastKind, t) else s.wdg.resetting))) ∧
      (w.owner = 2 → w.number = svc → ∃ u, exec (.serviceCheckin svc t) s = .next u ∧ u.wslot i = r ∧
        ((s.wslot j).owner ≠ 2 ∨ (s.wslot j).number ≠ svc → u.wslot j = s.wslot j) ∧
        Frame { clk := true, clu := true, sto := true, csw := true, fio := true, wdg := true, evr := true, trc := true } s u)) ∧
    (∀ x, w.endTick ≤ t / 1000 → t / 1000 < (w.start + 2 * w.periodNs) / 1000 →
      x = (if w.checked || w.failed then w else miss) →
      ∃ u, exec (.waymarkPeriodEnd i t) s = .next u ∧
        u.wslot i = { x with prevFailed := x.failed, warned := x.failed && x.warned, failed := false, checked := false, first := false, start := w.start + w.periodNs } ∧
        (j ≠ i → u.wslot j = s.wslot j) ∧
        ((w.checked || w.failed) = false → u.wdg.cause = setBit s.wdg.cause i true ∧ u.wdg.resetting = (if w.prevFailed && s.wdg.resetting.isNone then some (i, 3, t) else s.wdg.resetting)) ∧
        ((w.checked || w.failed) = true → Frame { clk := true, wdg := true } s u))

/-- With a watchdog reset in progress for a slot and a kind: while a parameter-store page step runs, while the record 0x3005 waits in the recorder's queue, or, for a unit that withdraws as ACTIVE, before 14 µs after the detection, WATCHDOG_RESET_EXECUTE changes nothing but the time. Otherwise the device resets: WDG_RESETS.COUNT has counted one up to 0xFFFF, LAST_SLOT and LAST_KIND hold the slot and kind, no reset is in progress, no slot is armed, beats stand, start-up has not run, the audit trail, the fuses and the device role stay, and the queue of commands too. With no reset in progress nothing but the time changes. A write of 1 to WDG_CTRL.CLR_RESETS by a privileged master clears COUNT and nothing else; the same write without privilege is refused with UNPRIV. (R394; R395; R396; R397; 13_watchdog_and_recorder.md, Actions) -/
def Obligations.WatchdogResetAndItsCount : Prop :=
  ∀ (s : State) (m : Master) (v : Word) (i slot kind since t : Nat), i < 32 →
    (s.wdg.resetting = some (slot, kind, since) →
      (s.nvp.step.isSome = true ∨ s.evr.queue.any (fun o => decide (o.code = 0x3005)) = true ∨ s.csw.withdraw = true ∧ max s.clk.now t < since + 14000 →
        ∃ u, exec (.watchdogResetExecute t) s = .next u ∧ u.clk = { s.clk with now := max s.clk.now t } ∧ Frame { clk := true } s u) ∧
      (s.nvp.step = none → s.evr.queue.any (fun o => decide (o.code = 0x3005)) = false → s.csw.withdraw = false ∨ since + 14000 ≤ max s.clk.now t →
        ∃ u, exec (.watchdogResetExecute t) s = .next u ∧ u.wdg.resets = min 0xFFFF (s.wdg.resets + 1) ∧ u.wdg.lastSlot = slot ∧ u.wdg.lastKind = kind ∧
          u.wdg.resetting = none ∧ u.wslot i = WSlot.reset ∧ u.clk.running = false ∧ u.pwr.started = false ∧ u.pwr.ref = .deviceReset ∧
          u.met.audit = s.met.audit ∧ u.dict.fuses = s.dict.fuses ∧
          u.pwr.role = s.pwr.role ∧ u.pending = s.pending)) ∧
    (s.wdg.resetting = none → ∃ u, exec (.watchdogResetExecute t) s = .next u ∧ u.clk = { s.clk with now := max s.clk.now t } ∧ Frame { clk := true } s u) ∧
    (s.readReaches m 0x201C = true → s.privOf m = true → v = 1 → ∃ u, exec (.clrResets m v) s = .next u ∧
      u.wdg = { s.wdg with resets := 0 } ∧ Frame { wdg := true } s u) ∧
    (s.readReaches m 0x201C = true → s.privOf m = false → ∃ u, exec (.clrResets m v) s = .next u ∧
      u.host.fault.getLsbD 3 = true ∧ Frame { host := true, evr := true } s u)

/-- A privileged write of 1 to TRC_CTRL requests an anchor unless one is being copied (with one pending it is merged) and its time counts for the interval; ANCHOR_REQUEST_INTERVAL does the same once ANCHOR_INTERVAL seconds have passed since the last request, and before that only time passes. When the copy of an anchor completes, its COMPLETE is set, TRC_ANCHOR_BEAT names its beat, TRC_CAUSE.ANCHOR_DONE is set and no other item changes; an anchor that staging has dropped only ends its copy. ANCHOR_MISSED, when a request has waited 65,536 beats, sets its cause and leaves the request pending. A privileged FREEZE of a capturing ring makes it freezing with POST_TRIGGER beats to go; of a ring that is freezing or frozen it has no effect. RING_FROZEN makes a freezing ring frozen once those beats have passed or no beats run, and sets TRC_CAUSE.FROZEN. A privileged UNFREEZE of a frozen ring resumes capture with a MARKER of CODE 5 and a request for an anchor; else it has no effect. Without privilege each of the three writes is refused with PRIV. STREAM_DATAGRAM_SEND with streaming on, the network powered and the link of E5 up sends the next at most 1,456 readable bytes of the ring in one datagram with POS, DLEN and GAP to the configured destination, moves the stream on and clears GAP; the errors that the read finds count first; with nothing to send, or otherwise, nothing is sent. (R420; R421; R422; R424; R426; R427; R433; 14_trace_and_replay.md, Anchors; 14_trace_and_replay.md, Freeze; 14_trace_and_replay.md, Streaming over E5) -/
def Obligations.AnchorsFreezesAndTheTraceStream : Prop :=
  ∀ (s w : State) (m : Master) (t a : Nat) (b : List Byte) (x : TItem) (l₁ l₂ : List TItem) (ecc : List Ecc),
    (s.readReaches m 0x1400C = true → s.privOf m = true →
      (∃ u, exec (.anchorCmd m) s = .next u ∧ u.trc = { s.trc with anchorReq := s.trc.anchorReq || s.trc.anchorCopy.isNone, anchorAt := s.clk.now } ∧ Frame { trc := true } s u) ∧
      (s.trc.st = 0 → ∃ u, exec (.freeze m) s = .next u ∧ u.trc = { s.trc with st := 1, postLeft := s.inForce 0x5302 0 1000 } ∧ Frame { trc := true } s u) ∧
      (s.trc.st ≠ 0 → exec (.freeze m) s = .next s) ∧
      (s.trc.st = 2 → ∃ u, exec (.unfreeze m) s = .next u ∧ Frame { trc := true } s u ∧
        u.trc = { s.trc with st := 0, anchorReq := s.trc.anchorReq || s.trc.anchorCopy.isNone, anchorAt := s.clk.now, beatBuf := s.trc.beatBuf ++ [⟨9, s.clk.beat, [5, 0, 0, 0, 0, 0, 0, 0] ++ leBytes 8 s.sto.msCount, false, none⟩] }) ∧
      (s.trc.st ≠ 2 → exec (.unfreeze m) s = .next s)) ∧
    (s.readReaches m 0x1400C = true → s.privOf m = false → ∀ c, c = (.anchorCmd m : Instr) ∨ c = .freeze m ∨ c = .unfreeze m → ∃ u, exec c s = .next u ∧ u.host.fault.getLsbD 3 = true ∧ Frame { host := true, evr := true } s u) ∧
    (s.trc.anchorAt + s.inForce 0x5301 0 600 * 1000000000 ≤ max s.clk.now t → ∃ u, exec (.anchorRequestInterval t) s = .next u ∧
      u.trc = { s.trc with anchorReq := s.trc.anchorReq || s.trc.anchorCopy.isNone, anchorAt := max s.clk.now t } ∧ u.clk = { s.clk with now := max s.clk.now t } ∧ Frame { clk := true, trc := true } s u) ∧
    (max s.clk.now t < s.trc.anchorAt + s.inForce 0x5301 0 600 * 1000000000 → ∃ u, exec (.anchorRequestInterval t) s = .next u ∧ u.clk = { s.clk with now := max s.clk.now t } ∧ Frame { clk := true } s u) ∧
    (s.trc.anchorCopy = none → exec .anchorCopyComplete s = .next s) ∧
    (s.trc.anchorCopy = some a → (∀ y ∈ s.trc.items, s.trc.heldBack y = false) → ∃ u, exec .anchorCopyComplete s = .next u ∧ u.trc = { s.trc with anchorCopy := none } ∧ Frame { trc := true } s u) ∧
    (s.trc.anchorCopy = some a → s.trc.items = l₁ ++ x :: l₂ → s.trc.heldBack x = true → (∀ y ∈ l₁ ++ l₂, s.trc.heldBack y = false) → ∃ u, exec .anchorCopyComplete s = .next u ∧ Frame { trc := true, evr := true } s u ∧
      u.trc = { s.trc with items := l₁ ++ { x with anchor := x.anchor.map (fun z => { z with complete := true }) } :: l₂, anchorCopy := none, anchorBeat := a, anchorPos := s.trc.lost + (l₁.map TItem.span).sum + x.span, cause := setBit s.trc.cause 0 true }) ∧
    (s.trc.anchorReq = true → 65536 ≤ s.trc.anchorWait → ∃ u, exec .anchorMissed s = .next u ∧ u.trc = { s.trc with anchorWait := 0, cause := setBit s.trc.cause 1 true } ∧ Frame { trc := true, evr := true } s u) ∧
    (s.trc.anchorReq = false ∨ s.trc.anchorWait < 65536 → exec .anchorMissed s = .next s) ∧
    (s.trc.st = 1 → s.trc.postLeft = 0 ∨ s.clk.running = false → ∃ u, exec .ringFrozen s = .next u ∧ u.trc = { s.trc with st := 2, cause := setBit s.trc.cause 2 true } ∧ Frame { trc := true, evr := true } s u) ∧
    (s.trc.st ≠ 1 ∨ s.trc.postLeft ≠ 0 ∧ s.clk.running = true → exec .ringFrozen s = .next s) ∧
    (s.trc.streaming = false ∨ s.domainOn 7 = false ∨ s.net.link.getLsbD 5 = false → exec (.streamDatagramSend ecc) s = .next s) ∧
    (s.trc.streaming = true → s.domainOn 7 = true → s.net.link.getLsbD 5 = true → w = s.ringReads ecc s.trc.streamPos (min (s.trc.streamPos + 1456) (s.trc.lost + s.trc.readable.length)) →
      b = (w.trc.readable.drop (w.trc.streamPos - w.trc.lost)).take 1456 → (ecc = [] → w = s) ∧ w.net = s.net ∧ w.dict = s.dict ∧
      (b = [] → ∃ u, exec (.streamDatagramSend ecc) s = .next u ∧ u.trc = w.trc ∧ u.net = s.net ∧ Frame { sto := true, host := true, evr := true, trc := true } s u) ∧
      (b ≠ [] → ∃ u, exec (.streamDatagramSend ecc) s = .next u ∧ u.trc = { w.trc with streamPos := w.trc.streamPos + b.length, gapNext := false } ∧
        u.net = { s.net with sent := .trace (s.inForce 0x1110 1 0) (s.inForce 0x5305 2 0) (s.inForce 0x5305 3 41795) (leBytes 8 w.trc.streamPos ++ leBytes 2 b.length ++ leBytes 2 (if w.trc.gapNext then 1 else 0) ++ [0, 0, 0, 0] ++ b) :: s.net.sent } ∧
        Frame { sto := true, host := true, evr := true, trc := true, net := true } s u))

/-- REPLAY_LOAD_SEGMENT outside the replay role, or while a replay runs, changes nothing. Else a segment that does not start where the load so far ends, or that would exceed the capacity, drops the partial load, and any other is appended; the last makes the load complete and REPLAY_STATE 1. REPLAY_START while a replay runs changes nothing. Outside the replay role, in Reduced, or where the load does not begin with a complete uncorrupted ANCHOR item that names the digest of the installed image, the period and the lane mode in force, it is refused: report CODE 7, REPLAY_STATE 5, mode refusal code 11, and no part but the trace and the refusal changes. Otherwise the unit takes its state from the anchor: beats run from the anchor's beat, at the time that stands, with its powered count and numbering, the L map, the input view, the milestone count and the TERM are the anchor's, the items of the first beat are taken, REPLAY_STATE is 2, and the two recorded labels are free values (no item states them). REPLAY_STOP ends a running replay: beats stop, the report carries CODE 3 with the beat, the anchor's beat and the beats done, REPLAY_STATE is 3 and TRC_CAUSE.REPLAY_DONE is set; else it changes nothing. REPLAY_DISCARD empties the load and sets REPLAY_STATE 0, unless a replay runs. (R428; R429; R431; R432; R433; R434; R497; R504; 14_trace_and_replay.md, Replay) -/
def Obligations.ReplayLoadStartStopAndDiscard : Prop :=
  ∀ (s : State) (off : Nat) (data part : List Byte) (last : Bool) (x : TItem) (rest : List TItem) (a : Anchor),
    (s.pwr.role ≠ .replay ∨ s.trc.replay = 2 → exec (.replayLoadSegment off data last) s = .next s) ∧
    (s.pwr.role = .replay → s.trc.replay ≠ 2 → part = (if off = 0 then [] else s.trc.loadPart) →
      (off ≠ part.length → ∃ u, exec (.replayLoadSegment off data last) s = .next u ∧ u.trc = { s.trc with loadPart := [] } ∧ Frame { trc := true } s u) ∧
      (off = part.length → s.trc.cap < off + data.length → ∃ u, exec (.replayLoadSegment off data last) s = .next u ∧ u.trc = { s.trc with loadPart := [] } ∧ Frame { trc := true } s u) ∧
      (off = part.length → off + data.length ≤ s.trc.cap → ∃ u, exec (.replayLoadSegment off data last) s = .next u ∧ Frame { trc := true } s u ∧
        u.trc = if last then { s.trc with load := part ++ data, loadPart := [], replay := 1 } else { s.trc with loadPart := part ++ data })) ∧
    (s.trc.replay = 2 → exec .replayStart s = .next s ∧ exec .replayDiscard s = .next s) ∧
    (s.trc.replay ≠ 2 → s.pwr.role ≠ .replay ∨ s.pwr.state = .reduced ∨ readItems s.trc.load.length s.trc.load = [] ∨
        readItems s.trc.load.length s.trc.load = x :: rest ∧ (x.anchor = none ∨ x.corrupt = true ∨ x.anchor = some a ∧ (a.complete = false ∨ s.ldr.img = none ∨ a.digest ≠ s.ldr.digest ∨ a.p ≠ s.clk.p ∨ a.laneMode ≠ (if s.clu.single then 1 else 0))) →
      ∃ u, exec .replayStart s = .next u ∧ u.trc = { s.trc with replay := 5, replayFrom := 0, report := [7, 0, 0xFF, 0] ++ zeros 60 } ∧ byteAt u.dict.modeRefusal 0 = 11 ∧
        u.dict = { s.dict with modeRefusal := u.dict.modeRefusal } ∧ Frame { trc := true, dict := true } s u) ∧
    (s.trc.replay ≠ 2 → s.pwr.role = .replay → s.pwr.state ≠ .reduced → readItems s.trc.load.length s.trc.load = x :: rest → x.corrupt = false → x.anchor = some a → a.complete = true → s.ldr.img.isSome = true → a.digest = s.ldr.digest → a.p = s.clk.p → a.laneMode = (if s.clu.single then 1 else 0) →
      ∃ u, exec .replayStart s = .next u ∧ u.clk = { s.clk with running := true, beat := x.beat, beatAt := s.clk.now, beatsRun := 0, powered := (readHead a.head).powered, ptpNum := a.ptp, alignedPrev := false } ∧
        u.trc = { s.trc with replay := 2, replayBeat := x.beat, replayFrom := x.beat, replayItems := (beatGroup (x :: rest)).2, report := zeros 64, replayRuns := (((beatGroup (x :: rest)).1.filter (fun y => decide (y.type = 7))).map (·.bytes)).flatten, mftask5 := Config.replayLabel s.free, mftask6 := Config.replayLabel (s.free + 1) } ∧
        u.sto.lmem = memOf (a.outs ++ a.inst) ∧ u.sto.inView = memOf a.view ∧ u.sto.msCount = (readHead a.head).num ∧ u.csw.term = (readHead a.head).term ∧ u.csw.role = s.csw.role ∧ u.free = s.free + 2 ∧
        Frame { clk := true, clu := true, tasks := true, sto := true, csw := true, fio := true, can := true, host := true, wdg := true, evr := true, trc := true, free := true } s u) ∧
    (s.pwr.role ≠ .replay ∨ s.trc.replay ≠ 2 → exec .replayStop s = .next s) ∧
    (s.pwr.role = .replay → s.trc.replay = 2 → ∃ u, exec .replayStop s = .next u ∧ u.clk = { s.clk with running := false } ∧ Frame { clk := true, trc := true, evr := true } s u ∧
      u.trc = { s.trc with replay := 3, cause := setBit s.trc.cause 6 true, report := [3, 0, 0xFF, 0] ++ zeros 4 ++ leBytes 8 s.clk.beat ++ leBytes 8 s.trc.replayFrom ++ leBytes 8 (s.clk.beat - s.trc.replayFrom) ++ leBytes 4 0 ++ leBytes 4 0 ++ zeros 24 }) ∧
    (s.trc.replay ≠ 2 → ∃ u, exec .replayDiscard s = .next u ∧ u.trc = { s.trc with load := [], loadPart := [], replayItems := [], replayRuns := [], replay := 0 } ∧ Frame { trc := true } s u)

/-- By a master that reaches the NVP block, is not busy, and finds the controller idle and READY; its registers name the record or range. A record write to a user record that is neither protected nor read-only begins the erase of the copy of R440 with the record's bytes, and the master reads BUSY; a system record ends with SYSTEM, a protected one with PROTECTED, a read-only one with WORN. A record read without errors ends with OK, LENGTH and the data of the copy that R439 selects in the buffer, or with EMPTY and LENGTH 0; TIE tells a tie. For a privileged master, a raw write and an erase begin the erase of their first page, a raw write of whole groups with the data of the buffer, and a raw read of groups of one page without errors puts them into the buffer; a range beyond page 2047 ends with RANGE and a protected page with PROTECTED. Before READY each ends with NOT_READY; while the master is busy the command is refused as locked. Pages change only at the end of a page step. (R435; R438; R439; R440; R442; R444; R445; R456; 15_parameter_store.md, Records) -/
def Obligations.ParameterStoreCommands : Prop :=
  ∀ (s : State) (m : Master) (r : MasterRegs), r = s.mregs m → s.nvp.step = none → s.nvp.cmds = [] →
    (s.readReaches m 0x500C = true → r.nvpBusy = false → s.nvp.ready = true →
      (768 ≤ r.nvpRec → (∀ k, k = 2 * r.nvpRec ∨ k = 2 * r.nvpRec + 1 → s.nvp.isProtected k = false ∧ s.nvp.readOnly.contains k = false) →
        ∃ t p, exec (.nvpRecordWrite m) s = .next t ∧ t.nvp.step = some p ∧ p.erasing = true ∧ p.spare = false ∧ p.rest = [] ∧
          p.job = s.nvp.recordJob r.nvpRec (memBytes r.nvpBuf 0 r.nvpLen) ∧ t.nvp.marker = some (p.job.page, true) ∧ t.nvp.pages = s.nvp.pages ∧
          t.mregs m = { r with nvpBusy := true } ∧ Frame { host := true, nvp := true } s t) ∧
      (r.nvpRec < 768 → ∃ t, exec (.nvpRecordWrite m) s = .next t ∧ t.mregs m = { r with nvpBusy := false, nvpResult := 6, nvpUncorr := false } ∧ t.nvp = s.nvp ∧
        Frame { host := true, nvp := true } s t) ∧
      (768 ≤ r.nvpRec → s.nvp.isProtected (2 * r.nvpRec) = true ∨ s.nvp.isProtected (2 * r.nvpRec + 1) = true →
        ∃ t, exec (.nvpRecordWrite m) s = .next t ∧ t.mregs m = { r with nvpBusy := false, nvpResult := 3, nvpUncorr := false } ∧ t.nvp = s.nvp ∧
        Frame { host := true, nvp := true } s t) ∧
      (768 ≤ r.nvpRec → s.nvp.isProtected (2 * r.nvpRec) = false → s.nvp.isProtected (2 * r.nvpRec + 1) = false →
        s.nvp.readOnly.contains (2 * r.nvpRec) = true ∨ s.nvp.readOnly.contains (2 * r.nvpRec + 1) = true →
        ∃ t, exec (.nvpRecordWrite m) s = .next t ∧ t.mregs m = { r with nvpBusy := false, nvpResult := 5, nvpUncorr := false } ∧ t.nvp = s.nvp ∧
        Frame { host := true, nvp := true } s t) ∧
      (768 ≤ r.nvpRec ∨ s.privOf m = true → (s.nvp.page (2 * r.nvpRec)).bad = [] → (s.nvp.page (2 * r.nvpRec + 1)).bad = [] →
        (∀ p, s.nvp.selected r.nvpRec = some p → (chooseCopy (s.nvp.page (2 * r.nvpRec)) (s.nvp.page (2 * r.nvpRec + 1))).2 = false →
          ∃ t, exec (.nvpRecordRead m []) s = .next t ∧ t.mregs m = { r with nvpBusy := false, nvpResult := 0, nvpUncorr := false, nvpTie := false, nvpLen := p.len, nvpBuf := memPut r.nvpBuf 0 p.content } ∧ t.nvp = s.nvp ∧
            Frame { host := true, nvp := true } s t) ∧
        (s.nvp.selected r.nvpRec = none → ∃ t, exec (.nvpRecordRead m []) s = .next t ∧
          t.mregs m = { r with nvpBusy := false, nvpResult := 1, nvpUncorr := false, nvpTie := false, nvpLen := 0 } ∧ t.nvp = s.nvp ∧ Frame { host := true, nvp := true } s t))) ∧
    (s.readReaches m 0x5018 = true → s.privOf m = true → r.nvpBusy = false → s.nvp.ready = true → 1 ≤ r.nvpCount → r.nvpCount + r.nvpGroup ≤ 16 → r.nvpPage < 2048 →
      (s.nvp.isProtected r.nvpPage = false → s.nvp.readOnly.contains r.nvpPage = false →
        (∃ t p, exec (.nvpRawWrite m) s = .next t ∧ t.nvp.step = some p ∧ p.erasing = true ∧ p.spare = false ∧
          p.job = ⟨r.nvpPage, r.nvpGroup, slice (memBytes r.nvpBuf 0 256) 0 (16 * r.nvpCount)⟩ ∧ t.nvp.pages = s.nvp.pages ∧
          t.mregs m = { r with nvpBusy := true } ∧ Frame { host := true, nvp := true } s t) ∧
        (∃ t p, exec (.nvpRawErase m) s = .next t ∧ t.nvp.step = some p ∧ p.erasing = true ∧ p.spare = false ∧ p.rest = [] ∧ p.job = ⟨r.nvpPage, 0, []⟩ ∧
          t.nvp.pages = s.nvp.pages ∧ t.mregs m = { r with nvpBusy := true } ∧ Frame { host := true, nvp := true } s t) ∧
        ((s.nvp.page r.nvpPage).bad = [] → ∃ t, exec (.nvpRawRead m []) s = .next t ∧ t.mregs m = { r with nvpBusy := false, nvpResult := 0, nvpUncorr := false, nvpBuf := memPut r.nvpBuf 0 ((List.range r.nvpCount).flatMap (fun i => (s.nvp.page r.nvpPage).group (r.nvpGroup + i))) } ∧ t.nvp = s.nvp ∧
          Frame { host := true, nvp := true } s t)) ∧
      (s.nvp.isProtected r.nvpPage = true → ∃ t, exec (.nvpRawErase m) s = .next t ∧ t.mregs m = { r with nvpBusy := false, nvpResult := 3, nvpUncorr := false } ∧
        t.nvp = s.nvp ∧ Frame { host := true, nvp := true } s t)) ∧
    (s.readReaches m 0x5018 = true → s.privOf m = true → r.nvpBusy = false → s.nvp.ready = true → 32768 < 16 * r.nvpPage + r.nvpGroup + r.nvpCount →
      ∃ t, exec (.nvpRawWrite m) s = .next t ∧ t.mregs m = { r with nvpBusy := false, nvpResult := 4, nvpUncorr := false } ∧ t.nvp = s.nvp ∧
        Frame { host := true, nvp := true } s t) ∧
    (s.readReaches m 0x500C = true → r.nvpBusy = false → s.nvp.ready = false → ∃ t, exec (.nvpRecordWrite m) s = .next t ∧
      t.mregs m = { r with nvpBusy := false, nvpResult := 7, nvpUncorr := false } ∧ t.nvp = s.nvp ∧ Frame { host := true, nvp := true } s t) ∧
    (s.readReaches m 0x500C = true → r.nvpBusy = true → ∃ t, exec (.nvpRecordWrite m) s = .next t ∧ t.host.fault.getLsbD 4 = true ∧ t.nvp = s.nvp ∧
      Frame { host := true, evr := true } s t)

/-- A page step that ends with no reset waiting, as the last page of a master's command with no other command waiting: the erase of a page that is to be programmed leaves it erased and the program step in progress; an erase command's ends the command with OK; a program step that verifies leaves the page's groups with the command's data and ends it with OK; one that fails at a group leaves that group uncorrectable and, while a spare is left, begins the erase of the next spare, the page named by the marker as before; with none left it ends the command with WORN, makes the page read-only and sets bit 4 of the cause. A visit of a running wax pass with no step in progress moves to the next page, and from the last spare back to page 0 with the pass complete; a page that is weak, and not read-only, is rewritten with its own content. A pass begins at page 0, 24 hours of operating time after the one before; one that 7 days have not completed is late and sets its bit once. CLR_CORR clears the correction counter for a privileged master and is refused for another. (R435; R442; R447; R449; R450; R456; 15_parameter_store.md, Wear) -/
def Obligations.PageStepsAndTheWaxPass : Prop :=
  ∀ (s : State) (m : Master) (p : PageStep) (c : NvpCmd) (g t0 : Nat), s.pwr.resetPend = false → s.wdg.resetting = none → s.nvp.cmds = [] →
    (s.nvp.step = some p → p.cmd = some c → c.who = some m → p.rest = [] → p.spare = false →
      (p.erasing = true → p.job.data ≠ [] → ∃ t, exec (.pageStepDone none) s = .next t ∧
        t.nvp = { s.nvp.setPage p.job.page Page.blank with step := some { p with erasing := false }, marker := some (p.job.page, false) } ∧ Frame { nvp := true } s t) ∧
      (p.erasing = true → p.job.data = [] → ∃ t, exec (.pageStepDone none) s = .next t ∧ t.mregs m = { s.mregs m with nvpBusy := false, nvpResult := 0, nvpUncorr := false } ∧
        t.nvp = { s.nvp.setPage p.job.page Page.blank with step := none, marker := none, waxActive := false } ∧ Frame { host := true, nvp := true } s t) ∧
      (p.erasing = false → ∃ t, exec (.pageStepDone none) s = .next t ∧ t.mregs m = { s.mregs m with nvpBusy := false, nvpResult := 0, nvpUncorr := false } ∧
        t.nvp = { s.nvp.setPage p.job.page (Page.blank.put (16 * p.job.first) p.job.data) with step := none, marker := none, waxActive := false } ∧
        Frame { host := true, nvp := true } s t) ∧
      (p.erasing = false → s.nvp.spares < 64 → ∃ t q, exec (.pageStepDone (some g)) s = .next t ∧ t.nvp.step = some q ∧ q.erasing = true ∧ q.spare = true ∧ q.job = p.job ∧
        t.nvp.marker = some (p.job.page, true) ∧ t.nvp.pages = (s.nvp.setPage p.job.page (cutPage p.job g)).pages ∧ t.nvp.spares = s.nvp.spares ∧
        t.mregs m = s.mregs m ∧ Frame { nvp := true } s t) ∧
      (p.erasing = false → 64 ≤ s.nvp.spares → ∃ t, exec (.pageStepDone (some g)) s = .next t ∧ t.mregs m = { s.mregs m with nvpBusy := false, nvpResult := 5, nvpUncorr := false } ∧
        t.nvp.step = none ∧ t.nvp.marker = none ∧ t.nvp.worn = true ∧ t.nvp.readOnly.contains p.job.page = true ∧ t.nvp.cause.getLsbD 4 = true ∧
        t.nvp.pages = (s.nvp.setPage p.job.page (cutPage p.job g)).pages ∧ Frame { host := true, nvp := true, evr := true } s t)) ∧
    (s.waxMay = true → s.nvp.waxRunning = true → s.nvp.step = none →
      (s.nvp.waxPage < 2048 → aget s.nvp.remaps s.nvp.waxPage = none → (s.nvp.page s.nvp.waxPage).bad = [] →
        (∃ t, exec (.waxPassVisit false []) s = .next t ∧ t.nvp = { s.nvp with waxPage := s.nvp.waxPage + 1 } ∧ Frame { nvp := true } s t) ∧
        ((s.nvp.page s.nvp.waxPage).valid = false → s.nvp.readOnly.contains s.nvp.waxPage = true → ∃ t, exec (.waxPassVisit true []) s = .next t ∧
          t.nvp = { s.nvp with waxPage := s.nvp.waxPage + 1 } ∧ Frame { nvp := true } s t) ∧
        ((s.nvp.page s.nvp.waxPage).valid = false → s.nvp.readOnly.contains s.nvp.waxPage = false → ∃ t q, exec (.waxPassVisit true []) s = .next t ∧ t.nvp.step = some q ∧ q.erasing = true ∧ q.cmd = none ∧
          q.job = ⟨s.nvp.waxPage, 0, (s.nvp.page s.nvp.waxPage).read⟩ ∧ t.nvp.waxActive = true ∧ t.nvp.waxPage = s.nvp.waxPage + 1 ∧ t.nvp.pages = s.nvp.pages ∧
          Frame { nvp := true } s t)) ∧
      (s.nvp.waxPage = 2111 → s.nvp.waxTarget 2111 = none → ∃ t, exec (.waxPassVisit false []) s = .next t ∧
        t.nvp = { s.nvp with waxPage := 0, waxRunning := false, waxLate := false, waxDone := s.otMs, history := true } ∧ Frame { nvp := true } s t) ∧
      (s.nvp.waxLate = false → s.nvp.waxBegan + 604800000 ≤ (s.reach t0).otMs → ∃ t, exec (.waxLate t0) s = .next t ∧ t.nvp.waxLate = true ∧ t.nvp.cause.getLsbD 5 = true ∧
        t.nvp.pages = s.nvp.pages ∧ Frame { clk := true, nvp := true, evr := true } s t)) ∧
    (s.nvp.waxRunning = false ∨ s.nvp.waxLate = true ∨ (s.reach t0).otMs < s.nvp.waxBegan + 604800000 → ∃ t, exec (.waxLate t0) s = .next t ∧ t.nvp = s.nvp ∧ Frame { clk := true } s t) ∧
    (s.waxMay = true → s.nvp.waxRunning = false → s.nvp.waxBegan + 86400000 ≤ (s.reach t0).otMs → ∃ t, exec (.waxPassBegin t0) s = .next t ∧
      t.nvp = { s.nvp with waxRunning := true, waxPage := 0, waxBegan := (s.reach t0).otMs } ∧ Frame { clk := true, nvp := true } s t) ∧
    (s.waxMay = false ∨ s.nvp.waxRunning = true ∨ (s.reach t0).otMs < s.nvp.waxBegan + 86400000 → ∃ t, exec (.waxPassBegin t0) s = .next t ∧ t.nvp = s.nvp ∧ Frame { clk := true } s t) ∧
    (s.readReaches m 0x5030 = true → s.privOf m = true → ∃ t, exec (.clrCorr m) s = .next t ∧ t.nvp = { s.nvp with corr := 0 } ∧ Frame { nvp := true } s t) ∧
    (s.readReaches m 0x5030 = true → s.privOf m = false → ∃ t, exec (.clrCorr m) s = .next t ∧ t.host.fault.getLsbD 3 = true ∧ t.nvp = s.nvp ∧
      Frame { host := true, evr := true } s t)

/-- A segment at offset 0 with no load in progress: a header that R453 refuses gives code 1 and no load; a good one begins the erase of the inactive bank (in the recovery service the bank of R522), which is invalidated first unless its header reads erased. With a load waiting for its next segment, a segment at the expected offset that fits begins its programming; another offset ends the load with code 4; bytes beyond the length end it with code 4 and an invalidated bank; a segment while a step is in progress changes nothing. The erase ends with the segment's bytes and LOAD_MARK in the bank, a programming with the bytes in their place; the load waits for the next segment, or after the last of a complete image for the verification. A step that fails to verify ends the load with code 5 and an invalidated bank. The verification, whose reads count their corrections and leave the groups they cannot correct bad, ends it with code 3 on a wrong digest, 2 on a wrong signature, the bank invalidated, and 0 with VALID_MARK. An abandoned load ends with code 6. The active bank's choice never changes. (R451; R453; R522; 15_parameter_store.md, Firmware banks) -/
def Obligations.FirmwareLoadsStepByStep : Prop :=
  ∀ (s : State) (off : Nat) (data : List Byte) (last signed : Bool) (ecc : List Ecc) (l : FwLoad) (r : State), r = s.fwReads (ecc.filter (fun x => decide (x.addr / bankBytes = l.bank))) →
    (s.fw.load = none →
      (fwHeaderOk data = false → ∃ t, exec (.fwImageSegment 0 data last) s = .next t ∧ t.fw = { s.fw with result := 1 } ∧ Frame { fw := true } s t) ∧
      (fwHeaderOk data = true → ∃ t, exec (.fwImageSegment 0 data last) s = .next t ∧
        t.fw.load = some ⟨s.loadBank, getLE data 8 4, .erase, 0, data, last, none⟩ ∧ t.fw.active = s.fw.active ∧
        t.fw.bank s.loadBank = (if (s.fw.bank s.loadBank).get 0 256 = List.replicate 256 0xFF then s.fw.bank s.loadBank else (s.fw.bank s.loadBank).invalidate) ∧
        Frame { fw := true } s t)) ∧
    (s.fw.load = some l →
      (l.phase = .idle →
        (off = l.next → off + data.length ≤ 256 + l.len → ∃ t, exec (.fwImageSegment off data last) s = .next t ∧
          t.fw = { s.fw with load := some { l with phase := .program, data := data, last := last, reply := none } } ∧ Frame { fw := true } s t) ∧
        (off ≠ l.next → ∃ t, exec (.fwImageSegment off data last) s = .next t ∧ t.fw = { s.fw with load := none, result := 4 } ∧ Frame { fw := true } s t) ∧
        (off = l.next → 256 + l.len < off + data.length → ∃ t, exec (.fwImageSegment off data last) s = .next t ∧ t.fw.load = none ∧ t.fw.result = 4 ∧
          t.fw.bank l.bank = (s.fw.bank l.bank).invalidate ∧ t.fw.active = s.fw.active ∧ Frame { fw := true } s t)) ∧
      (l.phase ≠ .idle → exec (.fwImageSegment off data last) s = .next s) ∧
      (l.phase = .erase → l.data.length ≤ 256 + l.len → l.last = false → ∃ t, exec (.fwBankStepDone true) s = .next t ∧
        t.fw.load = some { l with phase := .idle, next := l.next + l.data.length, data := [], reply := none } ∧
        t.fw.bank l.bank = (Bank.reset.put 0 l.data).markLoad ∧ t.fw.active = s.fw.active ∧ Frame { net := true, can := true, dict := true, evr := true, fw := true } s t) ∧
      (l.phase = .program → l.last = false → ∃ t, exec (.fwBankStepDone true) s = .next t ∧
        t.fw.load = some { l with phase := .idle, next := l.next + l.data.length, data := [], reply := none } ∧
        t.fw.bank l.bank = (s.fw.bank l.bank).put l.next l.data ∧ t.fw.active = s.fw.active ∧ Frame { net := true, can := true, dict := true, evr := true, fw := true } s t) ∧
      (l.phase = .program → l.last = true → l.next + l.data.length = 256 + l.len → ∃ t, exec (.fwBankStepDone true) s = .next t ∧
        t.fw.load = some { l with phase := .verify, next := l.next + l.data.length, data := [] } ∧ t.fw.bank l.bank = (s.fw.bank l.bank).put l.next l.data ∧
        t.fw.active = s.fw.active ∧ Frame { fw := true } s t) ∧
      (l.phase = .erase ∨ l.phase = .program → ∃ t, exec (.fwBankStepDone false) s = .next t ∧ t.fw.load = none ∧ t.fw.result = 5 ∧
        t.fw.bank l.bank = (s.fw.bank l.bank).invalidate ∧ t.fw.active = s.fw.active ∧ Frame { net := true, can := true, dict := true, evr := true, fw := true } s t) ∧
      (l.phase = .verify → ∃ t, exec (.fwVerifyDone signed ecc) s = .next t ∧ t.fw.load = none ∧ t.fw.active = s.fw.active ∧
        t.fw.result = (if (r.fw.bank l.bank).digestOk then (if signed then 0 else 2) else 3) ∧
        t.fw.bank l.bank = (if (r.fw.bank l.bank).digestOk && signed then (r.fw.bank l.bank).markValid else (r.fw.bank l.bank).invalidate) ∧
        (ecc = [] → r = s ∧ t.sto = s.sto) ∧ Frame { sto := true, net := true, can := true, dict := true, host := true, evr := true, fw := true } s t) ∧
      (∃ t, exec .fwCmdAbandon s = .next t ∧ t.fw = { s.fw with load := none, result := 6 } ∧ Frame { net := true, can := true, dict := true, evr := true, fw := true } s t))

/-- While the always-on block runs. A tick with no set and no shift in progress adds one to the sub-second count below 32,767 and changes no other field of the calendar; from 32,767 the count becomes 0 and the next second begins, within the day, at the next day of the month, or at the next month, with the wrap from the last second of 2399 to 2000-01-01 that sets WRAP and its cause bit. In the 256th tick of a positive shift the count advances by 2, in that of a negative one it is held, and one count of the shift is used. With a set in progress the staged date, time and count replace the increment, VALID becomes 1, SET_BUSY, BADSET, WRAP and OSC_STOP clear and any shift ends. A privileged GO with a possible set begins it, an impossible one sets BADSET and its cause bit and leaves the calendar; a GO or a shift while busy, and a shift of -32,768, are refused. TAKE latches the calendar into the master's own snapshot. A stopped crystal clears VALID and sets OSC_STOP and its cause bit. (R458; R459; R460; R461; R463; R464; R466; 16_clock_calendar_power_states.md, Setting) -/
def Obligations.CalendarTicksSetsAndShifts : Prop :=
  ∀ (s : State) (m q : Master) (v d tm : Word) (n : Nat), s.pwr.aoRunning = true → q ≠ m →
    (s.rtc.setBusy = none → s.rtc.shift = 0 →
      (s.rtc.sub < 32767 → ∃ t, exec .calendarTick s = .next t ∧
        t.rtc = { s.rtc with sub := s.rtc.sub + 1, ticks := s.rtc.ticks + 1, trim := s.rtc.trimNext.getD s.rtc.trim, trimNext := none } ∧ Frame { rtc := true } s t) ∧
      (∀ c, s.rtc.sub = 32767 → c = s.rtc.cal → ∃ t, exec .calendarTick s = .next t ∧ t.rtc.sub = 0 ∧ t.rtc.valid = s.rtc.valid ∧
        (c.sec + 1 < 86400 → t.rtc.date = c.date ∧ t.rtc.time = { c with sec := c.sec + 1 }.time) ∧
        (86400 ≤ c.sec + 1 → c.d < monthDays c.y c.m → t.rtc.date = { c with d := c.d + 1 }.date ∧ t.rtc.time = 0) ∧
        (86400 ≤ c.sec + 1 → monthDays c.y c.m ≤ c.d → c.m < 12 → t.rtc.date = { c with d := 1, m := c.m + 1 }.date ∧ t.rtc.time = 0) ∧
        (86400 ≤ c.sec + 1 → monthDays c.y c.m ≤ c.d → 12 ≤ c.m → c.y < 399 → t.rtc.date = { c with d := 1, m := 1, y := c.y + 1 }.date ∧ t.rtc.time = 0) ∧
        (86400 ≤ c.sec + 1 → monthDays c.y c.m ≤ c.d → 12 ≤ c.m → 399 ≤ c.y → t.rtc.date = 0x20000101#32 ∧ t.rtc.time = 0 ∧ t.rtc.wrap = true ∧
          t.rtc.cause.getLsbD 3 = true) ∧
        Frame { rtc := true, evr := true, pwr := true } s t)) ∧
    (s.rtc.setBusy = none → s.rtc.shiftTicks = 255 → s.rtc.sub < 32766 →
      (0 < s.rtc.shift → ∃ t, exec .calendarTick s = .next t ∧ t.rtc.sub = s.rtc.sub + 2 ∧ t.rtc.shift = s.rtc.shift - 1 ∧ t.rtc.date = s.rtc.date ∧
        t.rtc.time = s.rtc.time ∧ (s.rtc.shift = 1 → t.rtc.cause.getLsbD 5 = true) ∧ Frame { rtc := true, evr := true } s t) ∧
      (s.rtc.shift < 0 → ∃ t, exec .calendarTick s = .next t ∧ t.rtc.sub = s.rtc.sub ∧ t.rtc.shift = s.rtc.shift + 1 ∧ t.rtc.date = s.rtc.date ∧
        t.rtc.time = s.rtc.time ∧ (s.rtc.shift = -1 → t.rtc.cause.getLsbD 5 = true) ∧ Frame { rtc := true, evr := true } s t)) ∧
    (s.rtc.setBusy = some (d, tm, n) → ∃ t, exec .calendarTick s = .next t ∧ t.rtc.date = d ∧ t.rtc.time = (tm &&& 0x00FFFFFF#32) ∧ t.rtc.sub = n ∧
      t.rtc.setBusy = none ∧ t.rtc.valid = true ∧ t.rtc.wrap = false ∧ t.rtc.badset = false ∧ t.rtc.oscStop = false ∧ t.rtc.shift = 0 ∧ Frame { rtc := true } s t) ∧
    (s.readReaches m 0x402C = true → s.privOf m = true → s.rtc.setBusy = none →
      (possibleSet (s.mregs m).setDate (s.mregs m).setTime = true → ∃ t, exec (.calendarSetGo m) s = .next t ∧
        t.rtc = { s.rtc with setBusy := some ((s.mregs m).setDate, (s.mregs m).setTime, (s.mregs m).setSub.toNat) } ∧ Frame { rtc := true } s t) ∧
      (possibleSet (s.mregs m).setDate (s.mregs m).setTime = false → ∃ t, exec (.calendarSetGo m) s = .next t ∧
        t.rtc = { s.rtc with badset := true, cause := setBit s.rtc.cause 2 true } ∧ Frame { rtc := true, evr := true } s t)) ∧
    (s.readReaches m 0x402C = true → s.privOf m = true → s.rtc.setBusy.isSome = true → ∃ t, exec (.calendarSetGo m) s = .next t ∧
      t.host.fault.getLsbD 4 = true ∧ Frame { host := true, evr := true } s t) ∧
    (s.readReaches m 0x4034 = true → s.privOf m = true → s.rtc.shift = 0 → wfield v 15 0 ≠ 0x8000 → ∃ t, exec (.shiftStart m v) s = .next t ∧
      t.rtc = { s.rtc with shift := (if wfield v 15 0 < 0x8000 then (wfield v 15 0 : Int) else (wfield v 15 0 : Int) - 65536), shiftTicks := 0 } ∧
      Frame { rtc := true } s t) ∧
    (s.readReaches m 0x4034 = true → s.privOf m = true → s.rtc.shift ≠ 0 ∨ wfield v 15 0 = 0x8000 → ∃ t, exec (.shiftStart m v) s = .next t ∧
      t.host.fault.getLsbD (if s.rtc.shift = 0 then 5 else 4) = true ∧ Frame { host := true, evr := true } s t) ∧
    (s.readReaches m 0x400C = true → ∃ t, exec (.snapshotTake m) s = .next t ∧ t.mregs m = { s.mregs m with
      snapDone := true, snapValid := s.rtc.valid, snapDate := s.rtc.date, snapTime := w32 (s.rtc.time.toNat + 0x1000000 * s.rtc.cal.weekday), snapSub := w32 s.rtc.sub } ∧
      t.mregs q = s.mregs q ∧ Frame { host := true } s t) ∧
    (∃ t, exec .oscStop s = .next t ∧ t.rtc = { s.rtc with oscStop := true, valid := false, cause := setBit s.rtc.cause 4 true } ∧ Frame { rtc := true, evr := true } s t)

/-- While the always-on block runs: HOST_WAKE (bit 3); the CAN wake pattern with VIN present (bit 5); a wake frame at E0, in Parked with VIN present and bit 4 enabled or while NET is powered and the link of E0 is up, sent to the module's own or the broadcast address, with EtherType 0x88B6 and the value of entry 0x2203 in its first payload bytes (bit 4); the rise of VIN while it was absent (bit 2); and the periodic wake after INTERVAL x 128 ticks (bit 1, with RTC_CAUSE.PERIODIC). The bit is set and the other pending bits stay. If the module is parked and an enabled bit is pending, SUP is powered, the module leaves Parked, a start-up after a wake is due, and WAKE_SRC holds every enabled pending bit; otherwise the power state and WAKE_SRC stay. A wake frame that differs changes nothing. VIN that falls below 9 V in a started module in Run sets SYS_POWER_CAUSE.VIN_LOW; in any other state it changes nothing. (R467; R469; R471; R472; R473; 16_clock_calendar_power_states.md, Power states) -/
def Obligations.WakeSourcesSetTheirBit : Prop :=
  ∀ (s : State) (c : Instr) (b : Nat) (bytes : List Byte) (p : BitVec 6), s.pwr.aoRunning = true → p = s.rtc.wakePend ||| (1#6 <<< b) →
    ((c = (.hostWakePin : Instr) ∧ b = 3) ∨ (c = (.canWakePattern : Instr) ∧ b = 5 ∧ 4500 ≤ s.pwr.vinMv) ∨
      (c = (.wakeFrameReceive bytes : Instr) ∧ b = 4 ∧ (s.pwr.state = .parked ∧ 4500 ≤ s.pwr.vinMv ∧ s.rtc.wakeEn.getLsbD 4 = true ∨ s.pwr.state ≠ .parked ∧ s.domainOn 7 = true ∧ s.net.link.getLsbD 0 = true) ∧
        (slice bytes 0 6 = ownMac ∨ slice bytes 0 6 = List.replicate 6 0xFF) ∧ getLE bytes 12 2 = 0xB688 ∧
        slice bytes 14 8 = padTo 8 ((aget s.dict.force (entryKey 0x2203 0)).getD [])) ∨
      (c = (.vinReturn : Instr) ∧ b = 2 ∧ s.pwr.vinMv < 4500) ∨
      (c = (.periodicWake : Instr) ∧ b = 1 ∧ s.rtc.interval ≠ 0 ∧ s.rtc.interval * 128 ≤ s.rtc.ticks) →
      ∃ t, exec c s = .next t ∧ t.rtc.wakePend = p ∧
        (s.pwr.state = .parked ∧ p &&& s.wakeEnabled ≠ 0 → t.pwr.state = .run ∧ t.pwr.domains = 0x003#12 ∧ t.pwr.ref = .wake ∧ t.pwr.started = false ∧
          t.rtc.wakeSrc = p &&& s.wakeEnabled) ∧
        (s.pwr.state ≠ .parked ∨ p &&& s.wakeEnabled = 0 → t.pwr.state = s.pwr.state ∧ t.pwr.domains = s.pwr.domains ∧ t.rtc.wakeSrc = s.rtc.wakeSrc) ∧
        (b = 1 → t.rtc.cause.getLsbD 1 = true ∧ t.rtc.ticks = s.rtc.ticks - s.rtc.interval * 128) ∧ (b ≠ 1 → t.rtc.cause = s.rtc.cause) ∧
        t.rtc.date = s.rtc.date ∧ t.rtc.wakeEn = s.rtc.wakeEn ∧ Frame { rtc := true, pwr := true, evr := true } s t) ∧
    (slice bytes 14 8 ≠ padTo 8 ((aget s.dict.force (entryKey 0x2203 0)).getD []) ∨ getLE bytes 12 2 ≠ 0xB688 ∨ s.pwr.state = .parked ∧ s.rtc.wakeEn.getLsbD 4 = false →
      exec (.wakeFrameReceive bytes) s = .next s) ∧
    (s.pwr.state ≠ .run ∨ s.pwr.started = false → exec .vinLow s = .next s) ∧
    (s.pwr.state = .run → s.pwr.started = true → ∃ t, exec .vinLow s = .next t ∧ t.host.powerCause = setBit s.host.powerCause 0 true ∧
      t.pwr = { s.pwr with vinLow := true, vinMv := min s.pwr.vinMv 8999 } ∧ Frame { host := true, pwr := true, evr := true } s t) ∧
    (∃ t, exec .hostWakePin s = .next t ∧ t.rtc.wakePend = s.rtc.wakePend ||| 0x08#6) ∧
    (4500 ≤ s.pwr.vinMv → ∃ t, exec .canWakePattern s = .next t ∧ t.rtc.wakePend = s.rtc.wakePend ||| 0x20#6) ∧
    (s.pwr.vinMv < 4500 → ∃ t, exec .vinReturn s = .next t ∧ t.rtc.wakePend = s.rtc.wakePend ||| 0x04#6) ∧
    (s.rtc.interval ≠ 0 → s.rtc.interval * 128 ≤ s.rtc.ticks → ∃ t, exec .periodicWake s = .next t ∧ t.rtc.wakePend = s.rtc.wakePend ||| 0x02#6) ∧
    (s.takesWakeFrame = true → slice bytes 0 6 = ownMac ∨ slice bytes 0 6 = List.replicate 6 0xFF → getLE bytes 12 2 = 0xB688 →
      slice bytes 14 8 = padTo 8 ((aget s.dict.force (entryKey 0x2203 0)).getD []) → ∃ t, exec (.wakeFrameReceive bytes) s = .next t ∧ t.rtc.wakePend = s.rtc.wakePend ||| 0x10#6)

/-- A privileged write of 1 to SYS_PARK: while the unit is ACTIVE and its partner STANDBY or SYNCING, or while a firmware load is in progress, it is refused as locked, the refusal is counted in entry 0x2010, and the power state stays; otherwise, after start-up with no request in progress, the request is accepted, further Kivasel requests are answered BUSY, and the entry begins at the next boundary (at its last steps where the lanes execute nothing). A master without privilege is refused with UNPRIV. At the commit edge of an entry whose milestone is durable, with no page step in progress, every field output is off, no waymark slot is armed, the operating time is kept, and as the time of its departure in a unit that is ACTIVE, the CAN ports are off, the domains but the always-on one are off and the module is Parked, unless an enabled wake bit is pending: then ABORT_SRC holds those bits, SUP is powered and a start-up after an abort is due; the pending bits stay in both cases. After start-up, 10 minutes of powered time after the last copy, with the controller idle, POWER_CYCLE_RECORD begins the page write of the system record with the power-cycle count and the operating time; before that, and before start-up, it writes nothing. (R470; R471; R474; R477; R504; 16_clock_calendar_power_states.md, Power states) -/
def Obligations.ParkedRequestsAndTheCommitEdge : Prop :=
  ∀ (s : State) (m : Master) (c i t0 : Nat), c < 512 → i < 32 →
    (s.readReaches m 0x34 = true → s.privOf m = true →
      (s.csw.role = .active ∧ s.csw.partnerSeen = true ∧ (s.csw.partnerRole = 2 ∨ s.csw.partnerRole = 3) ∨ s.fw.load.isSome = true →
        ∃ t, exec (.parkRequest m 1#32) s = .next t ∧ t.host.fault.getLsbD 4 = true ∧ t.pwr = s.pwr ∧ t.dict.parked = s.dict.parked ∧
          Frame { host := true, evr := true, dict := true } s t) ∧
      (¬ (s.csw.role = .active ∧ s.csw.partnerSeen = true ∧ (s.csw.partnerRole = 2 ∨ s.csw.partnerRole = 3)) → s.fw.load = none → s.pwr.parkReq = 0 →
        s.pwr.started = true → ∃ t, exec (.parkRequest m 1#32) s = .next t ∧ t.dict.parked = true ∧
          t.pwr = { s.pwr with parkReq := if s.executes && s.clk.running then 1 else 4 } ∧ Frame { dict := true, pwr := true } s t)) ∧
    (s.readReaches m 0x34 = true → s.privOf m = false → ∃ t, exec (.parkRequest m 1#32) s = .next t ∧ t.host.fault.getLsbD 3 = true ∧
      t.pwr = s.pwr ∧ Frame { host := true, evr := true } s t) ∧
    (s.pwr.parkReq = 4 → s.nvp.step = none → s.governs = false ∨ s.pwr.role ≠ .controller ∨ s.sto.msDurable = s.sto.msCount →
      ∃ t, exec .parkCommitEdge s = .next t ∧ (t.chan c).conduct = false ∧ (t.chan c).onAt = none ∧ (t.wslot i).armed = false ∧
        t.rtc.opMs = s.otMs ∧ t.rtc.wakePend = s.rtc.wakePend ∧ t.pwr.started = false ∧ t.pwr.parkReq = 0 ∧ t.clk.running = false ∧ t.met.powered = false ∧
        t.can = s.can.map Can.off ∧ t.csw.sinceActive = (if s.csw.role = .active then s.otMs else s.csw.sinceActive) ∧
        (s.rtc.wakePend &&& s.wakeEnabled = 0 → t.pwr.state = .parked ∧ t.pwr.domains = 0x001#12) ∧
        (s.rtc.wakePend &&& s.wakeEnabled ≠ 0 → t.pwr.state = .run ∧ t.pwr.domains = 0x003#12 ∧ t.pwr.ref = .abort ∧
          t.rtc.abortSrc = s.rtc.wakePend &&& s.wakeEnabled) ∧ t.pending = s.pending) ∧
    (s.pwr.parkReq ≠ 4 ∨ s.nvp.step.isSome = true → exec .parkCommitEdge s = .next s) ∧
    (s.pwr.started = true → s.pwr.recordAt + 600000000000 ≤ max s.clk.now t0 → s.nvp.step = none → s.nvp.cmds = [] →
      s.nvp.readOnly.contains (2 * (Config.systemRecord keyPower % 768)) = false → s.nvp.readOnly.contains (2 * (Config.systemRecord keyPower % 768) + 1) = false →
      ∃ t p x, exec (.powerCycleRecord t0) s = .next t ∧ t.clk = { s.clk with now := max s.clk.now t0 } ∧ t.nvp.step = some p ∧ p.erasing = true ∧
        p.cmd = some x ∧ x.key = keyPower ∧ x.data = leBytes 4 s.rtc.pwrCycles ++ leBytes 6 (s.reach t0).otMs ∧
        t.pwr = { s.pwr with recordAt := max s.clk.now t0 } ∧ t.nvp.pages = s.nvp.pages ∧ Frame { clk := true, nvp := true, pwr := true, free := true } s t) ∧
    (s.pwr.started = false ∨ max s.clk.now t0 < s.pwr.recordAt + 600000000000 → ∃ t, exec (.powerCycleRecord t0) s = .next t ∧ t.clk = { s.clk with now := max s.clk.now t0 } ∧ Frame { clk := true } s t)

/-- ENTER_REDUCED of a started unit in Run with no Parked request: the state is Reduced and SYS_POWER_CAUSE bit 1 is set. A unit of another role than controller, and a controller whose image has no reduced table and whose MIN_SET needs no wide carriageway, switch domains LNC and LND off at once. A controller with a reduced table that executes on the full one requests the switch and keeps the domains until it is done; one that executes nothing takes the reduced table and switches them off. Where MIN_SET needs carriageway 2 or 3, an ACTIVE unit fails with reason 2, a SOLO unit halts and drives its safe values, and both release nothing more; a unit in another role goes on; LNC and LND switch off in each case. RETURN_TO_RUN of a unit in Reduced with no Parked request: the state is Run, VIN low is over, bit 2 is set, a unit that is no station has LNC and LND powered, and a controller asks for the full table in the same way. Outside these states only the time advances. (R180; R469; R23; 18_mode_combinations.md, Mode combinations; 16_clock_calendar_power_states.md, Power states) -/
def Obligations.ReducedAndTheReturnToRun : Prop :=
  ∀ (s : State) (t0 : Nat),
    (s.pwr.state = .run → s.pwr.started = true → s.pwr.parkReq = 0 →
      (s.pwr.role ≠ .controller ∨ s.minSetWide = false ∧ s.hasReduced = false → ∃ t, exec (.enterReduced t0) s = .next t ∧
        t.pwr = { s.pwr with state := .reduced, domains := s.pwr.domains &&& 0xFCF#12 } ∧ t.host.powerCause = setBit s.host.powerCause 1 true ∧
        Frame { clk := true, host := true, evr := true, pwr := true } s t) ∧
      (s.pwr.role = .controller → s.minSetWide = false → s.hasReduced = true →
        (s.executes = true → s.clk.running = true → s.sto.switching = none → s.sto.tableReduced = false → ∃ t, exec (.enterReduced t0) s = .next t ∧
          t.pwr = { s.pwr with state := .reduced } ∧ t.sto = { s.sto with switching := some true, switchStarted := false } ∧ t.host.powerCause = setBit s.host.powerCause 1 true ∧
          Frame { clk := true, sto := true, host := true, evr := true, pwr := true } s t) ∧
        (s.executes = false ∨ s.clk.running = false → ∃ t, exec (.enterReduced t0) s = .next t ∧
          t.pwr = { s.pwr with state := .reduced, domains := s.pwr.domains &&& 0xFCF#12 } ∧ t.sto = { s.sto with tableReduced := true, switching := none, switchBack := false } ∧
          t.host.powerCause = setBit s.host.powerCause 1 true ∧ Frame { clk := true, sto := true, host := true, evr := true, pwr := true } s t)) ∧
      (s.pwr.role = .controller → s.minSetWide = true → ∃ t, exec (.enterReduced t0) s = .next t ∧ t.pwr = { s.pwr with state := .reduced, domains := s.pwr.domains &&& 0xFCF#12 } ∧
        (s.csw.role = .active → t.csw.role = .failed ∧ t.csw.failReason = 2 ∧ t.csw.driversOff = true ∧ t.clk.running = false ∧ t.sto.noRelease = true) ∧
        (s.csw.role = .solo → t.sto.halted = true ∧ t.sto.noRelease = true ∧ t.csw.role = .solo) ∧
        (s.csw.role ≠ .active → s.csw.role ≠ .solo → t.csw.role = s.csw.role ∧ t.sto = s.sto))) ∧
    (s.pwr.state ≠ .run ∨ s.pwr.started = false ∨ 0 < s.pwr.parkReq → ∃ t, exec (.enterReduced t0) s = .next t ∧ t.clk = { s.clk with now := max s.clk.now t0 } ∧ Frame { clk := true } s t) ∧
    (s.pwr.state = .reduced → s.pwr.parkReq = 0 → ∃ t, exec (.returnToRun t0) s = .next t ∧ t.host.powerCause = setBit s.host.powerCause 2 true ∧
      (s.pwr.role = .station → t.pwr = { s.pwr with state := .run, vinLow := false } ∧ t.sto = s.sto) ∧
      (s.pwr.role ≠ .station → t.pwr = { s.pwr with state := .run, vinLow := false, domains := s.pwr.domains ||| 0x030#12 }) ∧
      (s.pwr.role = .controller → s.hasReduced = true → s.executes = true → s.clk.running = true → s.sto.switching = none → s.sto.tableReduced = true →
        t.sto = { s.sto with switching := some false, switchStarted := false }) ∧
      (s.pwr.role = .controller → s.hasReduced = true → s.executes = false ∨ s.clk.running = false → t.sto = { s.sto with tableReduced := false, switching := none, switchBack := false }) ∧
      (s.hasReduced = false ∨ s.pwr.role ≠ .controller → t.sto = s.sto) ∧ Frame { clk := true, sto := true, host := true, evr := true, pwr := true } s t) ∧
    (s.pwr.state ≠ .reduced ∨ 0 < s.pwr.parkReq → ∃ t, exec (.returnToRun t0) s = .next t ∧ t.clk = { s.clk with now := max s.clk.now t0 } ∧ Frame { clk := true } s t)

/-- A power-up of MET while it is off, its domain being on, checks the identification: the digest published is the SHA-256 digest of the image, ID_OK is 1 exactly when it equals the digest of manufacture, SEQ of every channel starts again, no zero is set, POWER_GAP is due, the power-cycle count rises by one and the event counter stays. A recognised change of the seal while MET is powered sets SEALED to the new position, discards a telegram begun, sets MET_CAUSE.SEAL and is entered in the audit trail unless the trail is full; it counts no event and changes no channel. The clock plausibility fault and the excitation fault set or clear their status bit and set MET_CAUSE.FAULT at their onset while MET is powered; while it is off these commands and a seal change have no effect, and a power-up has none while it is on or its domain is off. Each answers a next state in which only the partition and the recorder change. (R479; R484; R486; R487; 17_metrology_partition.md, The MET block) -/
def Obligations.PartitionPowerUpSealAndFaults : Prop :=
  ∀ (s : State) (closed on : Bool),
    (s.met.powered = true ∨ s.domainOn 11 = false → exec (.metPowerUp closed) s = .next s) ∧
    (s.domainOn 11 = true → s.met.powered = false → ∃ t, exec (.metPowerUp closed) s = .next t ∧ t.met.powered = true ∧ t.met.metCycles = s.met.metCycles + 1 ∧ t.met.sealed = closed ∧
      t.met.digest = sha256 s.met.image ∧ t.met.idOk = decide (sha256 s.met.image = s.met.refDigest) ∧ t.met.events = s.met.events ∧
      (∀ c, c < 12 → (vget t.met.chans c MetChan.reset).seq = 0 ∧ (vget t.met.chans c MetChan.reset).zSet = false ∧ (vget t.met.chans c MetChan.reset).gapFlag = true ∧
        (vget t.met.chans c MetChan.reset).total = (vget s.met.chans c MetChan.reset).total) ∧ Frame { met := true, evr := true } s t) ∧
    (s.met.powered = true → s.met.sealed ≠ closed → ∃ t, exec (.sealChange closed) s = .next t ∧ t.met.sealed = closed ∧ t.met.telegram = [] ∧
      t.met.events = s.met.events ∧ t.met.chans = s.met.chans ∧ t.met.cause.getLsbD 2 = true ∧
      t.met.audit = (if s.met.audit.length < 1024 then s.met.audit ++ [s.auditEntry s.met.events 0 0 (if closed then 5 else 4) 0 0] else s.met.audit) ∧
      Frame { met := true, evr := true } s t) ∧
    (s.met.powered = false → exec (.clockPlausibilityFault on) s = .next s ∧ exec (.excitationFault on) s = .next s ∧ exec (.sealChange closed) s = .next s) ∧
    (s.met.powered = true → ∃ t, exec (.clockPlausibilityFault on) s = .next t ∧
      t.met = { s.met with clockFault := on, cause := if on && !s.met.clockFault then setBit s.met.cause 1 true else s.met.cause } ∧ Frame { met := true, evr := true } s t) ∧
    (s.met.powered = true → ∃ t, exec (.excitationFault on) s = .next t ∧
      t.met = { s.met with excFault := on, cause := if on && !s.met.excFault then setBit s.met.cause 1 true else s.met.cause } ∧ Frame { met := true, evr := true } s t)

/-- With MET powered, the seal recognised open, no telegram begun and 16 bytes with the start byte 0x4D, byte 5 zero and the right CRC-16 in bytes 14 and 15: OP 4 writes result 0 and changes nothing else; OP 1 with an existing sealed entry, a value in its range and a trail that is not full sets the entry; OP 2 and OP 3 for an enabled bridge channel whose record is stable, with at least 210 counts per scale interval after the change, set ZERO to the raw value and SPAN to ZERO + round((raw - ZERO) MAX_E / VALUE). Each accepted change appends one audit entry that holds the old and the new value, counts one event, sets MET_CAUSE.AUDIT and writes result 0. While the partition is sealed none of the four has any effect. Only the partition and the recorder change. (R484; R485; R486; 17_metrology_partition.md, Sealing, adjustment and the audit trail) -/
def Obligations.AdjustmentTelegrams : Prop :=
  ∀ (s : State) (b : List Byte) (index sub : Nat) (old v : Int), b.length = 16 → byteAt b 0 = 0x4D → byteAt b 5 = 0 →
    getLE b 14 2 = crc16 (b.take 14) → index = getLE b 2 2 → sub = byteAt b 4 → v = getLEs b 6 8 → 0x7100 ≤ index → index ≤ 0x72FF →
    (s.met.sealed = true → exec (.adjSetEntry b) s = .next s ∧ exec (.adjCaptureZero b) s = .next s ∧ exec (.adjCaptureSpan b) s = .next s ∧
      exec (.adjNoChange b) s = .next s) ∧
    (s.met.powered = true → s.met.sealed = false → s.met.telegram = [] →
      (byteAt b 1 = 4 → ∃ t, exec (.adjNoChange b) s = .next t ∧ t.met = { s.met with adjResult := 0 } ∧ Frame { met := true, evr := true } s t) ∧
      (byteAt b 1 = 1 → s.met.entry index sub = some old → metInRange index sub v = true → s.met.audit.length < 1024 →
        ∃ t, exec (.adjSetEntry b) s = .next t ∧ t.met.entry index sub = some v ∧ t.met.events = s.met.events + 1 ∧
          t.met.audit = s.met.audit ++ [s.auditEntry (s.met.events + 1) index sub 1 old v] ∧ t.met.adjResult = 0 ∧ t.met.sealed = false ∧
          t.met.cause = setBit s.met.cause 3 true ∧ Frame { met := true, evr := true } s t) ∧
      (∀ c, c = vget s.met.chans sub MetChan.reset → sub < 8 → s.met.audit.length < 1024 → c.enable = true → (byteAt c.record 2).testBit 1 = true →
        (byteAt b 1 = 2 → 210 * (c.maxE : Int) ≤ c.span - c.raw → ∃ t, exec (.adjCaptureZero b) s = .next t ∧
          (vget t.met.chans sub MetChan.reset).zero = c.raw ∧ t.met.events = s.met.events + 1 ∧
          t.met.audit = s.met.audit ++ [s.auditEntry (s.met.events + 1) (0x7100 + sub) 6 2 c.zero c.raw] ∧ t.met.adjResult = 0 ∧
          Frame { met := true, evr := true } s t) ∧
        (byteAt b 1 = 3 → 1 ≤ v → v ≤ (c.maxE : Int) → 210 * (c.maxE : Int) ≤ roundDiv ((c.raw - c.zero) * c.maxE) v →
          ∃ t, exec (.adjCaptureSpan b) s = .next t ∧ (vget t.met.chans sub MetChan.reset).span = c.zero + roundDiv ((c.raw - c.zero) * c.maxE) v ∧
          t.met.events = s.met.events + 1 ∧
          t.met.audit = s.met.audit ++ [s.auditEntry (s.met.events + 1) (0x7100 + sub) 7 3 c.span (c.zero + roundDiv ((c.raw - c.zero) * c.maxE) v)] ∧
          t.met.adjResult = 0 ∧ Frame { met := true, evr := true } s t)))

/-- With MET powered. A sample of an enabled bridge channel stores its raw value and replaces the record by one of 32 bytes with KIND 1, the channel, the next SEQ, and VALID 0 whenever the seal is open, the clock or the identification has failed, the excitation fault stands, or the supply or raw value is out of range; until the weight can be stable its VALUE is round((raw - ZERO) MAX_E / (SPAN - ZERO)) plus the zero correction, rounded. An edge of an enabled pulse input counts one in its totaliser; the count after 9,999,999,999,999,999 is 0 with ROLLOVER due. A pulse record has KIND 2, the next SEQ and the count in packed BCD, and clears ROLLOVER and POWER_GAP. Records set ALIVE and MET_CAUSE.NEW; no other channel, the audit trail and the event counter do not change. Each answers a next state in which only the partition, the recorder and the number of free values used may change. The rounding of z is the model's choice (log 21). (R481; R482; R488; 17_metrology_partition.md, The mailbox) -/
def Obligations.MailboxRecordsOfTheChannels : Prop :=
  ∀ (s : State) (c q n : Nat) (raw : Int) (supply sense bad : Bool) (m p : MetChan), s.met.powered = true → c < 8 → q < 4 →
    m = vget s.met.chans c MetChan.reset → p = vget s.met.chans (8 + q) MetChan.reset → bad = (supply || (sense && m.sixWire)) →
    (m.enable = true → ∃ t r, exec (.bridgeSample c n raw supply sense) s = .next t ∧ r = vget t.met.chans c MetChan.reset ∧ r.raw = raw ∧
      r.seq = (m.seq + 1) % 2 ^ 32 ∧ r.record.length = 32 ∧ byteAt r.record 0 = 1 ∧ byteAt r.record 1 = c ∧
      (s.met.sealed = false ∨ s.met.clockFault = true ∨ s.met.idOk = false ∨ s.met.excFault = true ∨ bad = true ∨ 2 ^ 23 < raw.natAbs → r.valid = false) ∧
      (m.span ≠ m.zero → m.hist.length < m.rate → slice r.record 8 8 =
        wbytes (i32 (roundDiv (roundDiv ((raw - m.zero) * m.maxE) (m.span - m.zero) * micro + m.z) micro)) ++
        wbytes (i32 (roundDiv (roundDiv ((raw - m.zero) * m.maxE) (m.span - m.zero) * micro + m.z) micro / 2 ^ 32))) ∧
      t.met.alive = true ∧ t.met.cause = setBit s.met.cause 0 true ∧ (∀ d, d ≠ c → vget t.met.chans d MetChan.reset = vget s.met.chans d MetChan.reset) ∧
      t.met.events = s.met.events ∧ t.met.audit = s.met.audit ∧ t.clk = { s.clk with now := max s.clk.now n } ∧
      Frame { clk := true, met := true, evr := true, free := true } s t) ∧
    (p.enable = true → q ≠ 3 ∨ s.met.sealed = true → ∃ t, exec (.pulseEdge q n) s = .next t ∧
      vget t.met.chans (8 + q) MetChan.reset =
        (if p.total = 9999999999999999 then { p with total := 0, rollover := true, edgeAt := some (max s.clk.now n) } else { p with total := p.total + 1, edgeAt := some (max s.clk.now n) }) ∧
      (∀ d, d ≠ 8 + q → vget t.met.chans d MetChan.reset = vget s.met.chans d MetChan.reset) ∧ { t.met with chans := s.met.chans } = s.met ∧
      Frame { clk := true, met := true } s t) ∧
    (p.enable = true → ∃ t r, exec (.pulseRecordPublish q n) s = .next t ∧ r = vget t.met.chans (8 + q) MetChan.reset ∧
      r.rollover = false ∧ r.gapFlag = false ∧ r.total = p.total ∧ r.seq = (p.seq + 1) % 2 ^ 32 ∧ r.record.length = 32 ∧ byteAt r.record 0 = 2 ∧
      slice r.record 8 8 = leBytes 8 (toBcd 16 p.total) ∧ t.met.alive = true ∧ t.met.cause = setBit s.met.cause 0 true ∧
      (∀ d, d ≠ 8 + q → vget t.met.chans d MetChan.reset = vget s.met.chans d MetChan.reset) ∧
      t.met.events = s.met.events ∧ t.met.audit = s.met.audit ∧ Frame { clk := true, met := true, evr := true } s t)

/-- The 10 s limit for the initial zero, once 10 s have passed since the power-up of MET, marks a channel that has no zero set and changes no other; a telegram gap discards the bytes received; the 10 ms limit, once no record has changed for 10 ms while ALIVE is set, clears ALIVE, sets MET_CAUSE.FAULT and leaves every record as it was; before then each changes only the time. A read of the MET block by a master that reaches it obtains MET_STATUS, the event counter, the count of audit entries, the software version or a word of the digest as they stand; reading word 0 of a channel's record latches the whole record for that master and obtains word 0 of it, and a later word is read from what that master latched. A read changes only the register block's latch of that master and the word it obtains. (R483; R485; R490; R491; 17_metrology_partition.md, The MET block) -/
def Obligations.PartitionTimeoutsAndMailboxReads : Prop :=
  ∀ (s : State) (c i n : Nat) (m : Master), c < 12 → i < 8 →
    (∃ t, exec (.noZeroTimeout c n) s = .next t ∧ (¬ (s.met.powered = true ∧ s.met.metOn + 10000000000 ≤ max s.clk.now n) → t.met = s.met ∧ Frame { clk := true } s t) ∧ t.clk = { s.clk with now := max s.clk.now n }) ∧
    (s.met.powered = true → s.met.metOn + 10000000000 ≤ max s.clk.now n → ∃ t, exec (.noZeroTimeout c n) s = .next t ∧
      vget t.met.chans c MetChan.reset = (if (vget s.met.chans c MetChan.reset).zSet then vget s.met.chans c MetChan.reset
        else { vget s.met.chans c MetChan.reset with zTimedOut := true }) ∧
      (∀ d, d ≠ c → vget t.met.chans d MetChan.reset = vget s.met.chans d MetChan.reset) ∧ { t.met with chans := s.met.chans } = s.met ∧
      Frame { clk := true, met := true } s t) ∧
    (∃ t, exec .telegramGapTimeout s = .next t ∧ t.met = { s.met with telegram := [] } ∧ Frame { met := true } s t) ∧
    (s.met.alive = true → s.met.lastRec + 10000000 ≤ max s.clk.now n → ∃ t, exec (.metAliveTimeout n) s = .next t ∧
      t.met = { s.met with alive := false, cause := setBit s.met.cause 1 true } ∧ Frame { clk := true, met := true, evr := true } s t) ∧
    (s.met.alive = false ∨ max s.clk.now n < s.met.lastRec + 10000000 → ∃ t, exec (.metAliveTimeout n) s = .next t ∧ t.met = s.met ∧ Frame { clk := true } s t) ∧
    (∀ off, s.readReaches m (0x11000 + off) = true → off < 4096 → ∃ t, exec (.metRecordRead m off) s = .next t ∧
      (off = 0x000 → t.host.rdata = [s.met.status]) ∧ (off = 0x00C → t.host.rdata = [w32 s.met.events]) ∧
      (off = 0x010 → t.host.rdata = [w32 s.met.audit.length]) ∧ (off = 0x014 → t.host.rdata = [s.met.swVersion]) ∧
      (off = 0x020 + 4 * i → t.host.rdata = [w32 (getLE s.met.digest (4 * i) 4)]) ∧
      (off = 0x100 + 32 * c → t.host.rdata = [w32 (getLE (vget s.met.chans c MetChan.reset).record 0 4)] ∧
        aget (t.mregs m).metLatch c = some (vget s.met.chans c MetChan.reset).record) ∧
      (off = 0x100 + 32 * c + 4 * i → i ≠ 0 → t.host.rdata = [w32 (getLE ((aget (s.mregs m).metLatch c).getD []) (4 * i) 4)] ∧ t.mregs m = s.mregs m) ∧
      t.met = s.met ∧ Frame { host := true } s t)

/-- VIN loss, or an overvoltage that is handled as one, while VIN is present: the module is in the parked state with only the always-on domain powered, VIN absent, start-up due at the next valid VIN, no task and no beat running, MET unpowered with its audit trail and event counter kept, the milestone count that of the last durable milestone, and the queue of commands unchanged. With VBAK at 2.0 V or more the calendar, the wake-pending bits and WDG_RESETS stay and the operating time is kept; below it the calendar restarts unset and WDG_RESETS is cleared. With VIN absent nothing changes. A backplate reading of 95 or above with the supervisor powered does the same but keeps VIN, counts a thermal stop and holds the next start-up; a lower one is recorded, and the over-temperature flag sets above 85 and clears below 82. The hold ends at the thermal restart after a thermal stop, and at a reading from -40 to 80 during a start-up's hold. VBAK falling below 2.0 V with VIN absent stops the always-on block; its return starts it again. (R458; R460; R474; R484; R506; R510; R515; R517; 19_supplies_connectors_startup.md, Loss of supply) -/
def Obligations.PowerLossAndThermalStop : Prop :=
  ∀ (s : State) (cut : List Nat) (he : Bool) (temp : Int) (i : Nat), i < 32 →
    (∀ c, c = (.vinLoss cut he : Instr) ∨ c = (.overvoltage cut he : Instr) →
      (4500 ≤ s.pwr.vinMv → ∃ t, exec c s = .next t ∧ t.pwr.state = .parked ∧ t.pwr.domains = 0x001#12 ∧ t.pwr.vinMv = 0 ∧ t.pwr.ref = .vinValid ∧
        t.pwr.started = false ∧ t.pwr.role = s.pwr.role ∧ t.clk = State.reset.clk ∧ t.tasks = State.reset.tasks ∧ t.met.powered = false ∧ t.met.audit = s.met.audit ∧
        t.met.events = s.met.events ∧ t.sto.msCount = t.sto.msDurable ∧ t.wslot i = WSlot.reset ∧
        (2000 ≤ s.pwr.vbakMv → t.rtc = { s.rtc with opMs := s.otMs } ∧ t.wdg.resets = s.wdg.resets) ∧
        (s.pwr.vbakMv < 2000 → t.pwr.aoRunning = false ∧ t.rtc.valid = false ∧ t.rtc.date = Rtc.reset.date ∧ t.wdg.resets = 0) ∧ t.pending = s.pending) ∧
      (s.pwr.vinMv < 4500 → exec c s = .next s)) ∧
    (s.domainOn 1 = true →
      (95 ≤ temp → ∃ t, exec (.backplateTempReport temp cut he) s = .next t ∧ t.pwr.state = .parked ∧ t.pwr.domains = 0x001#12 ∧ t.pwr.vinMv = s.pwr.vinMv ∧
        t.pwr.thermalHold = true ∧ t.pwr.ref = .thermalRestart ∧ t.pwr.thermalStops = min 0xFFFFFFFF (s.pwr.thermalStops + 1) ∧ t.pwr.overTemp = true ∧
        t.pwr.started = false ∧ t.met.audit = s.met.audit ∧ t.pending = s.pending) ∧
      (temp < 95 → ∃ t, exec (.backplateTempReport temp cut he) s = .next t ∧
        t.pwr = { s.pwr with temp := temp, overTemp := if 85 < temp then true else if temp < 82 then false else s.pwr.overTemp } ∧ Frame { pwr := true } s t)) ∧
    (s.pwr.thermalHold = true →
      (s.pwr.ref = .thermalRestart → ∃ t, exec .thermalRestart s = .next t ∧ t.pwr = { s.pwr with thermalHold := false } ∧ Frame { pwr := true } s t) ∧
      (-40 ≤ temp → temp ≤ 80 → ∃ t, exec (.startUpTemperatureHoldEnd temp) s = .next t ∧ t.pwr = { s.pwr with thermalHold := false, temp := temp } ∧
        Frame { pwr := true } s t) ∧
      (temp < -40 ∨ 80 < temp → exec (.startUpTemperatureHoldEnd temp) s = .next s)) ∧
    (∃ t, exec .vbakLow s = .next t ∧ t.pwr.vbakMv = min s.pwr.vbakMv 1999 ∧
      (s.pwr.vinMv < 4500 → s.pwr.aoRunning = true → t.pwr.aoRunning = false ∧ t.rtc.valid = false ∧ t.wdg.resets = 0) ∧
      (4500 ≤ s.pwr.vinMv ∨ s.pwr.aoRunning = false → Frame { pwr := true } s t)) ∧
    (∃ t, exec .vbakReturn s = .next t ∧ t.pwr = { s.pwr with vbakMv := max s.pwr.vbakMv 2000, aoRunning := true } ∧ Frame { pwr := true } s t) ∧
    (4500 ≤ s.pwr.vinMv → (∃ t, exec (.vinLoss cut he) s = .next t ∧ t.pwr.state = .parked ∧ t.pwr.domains = 0x001#12 ∧ t.pwr.vinMv = 0 ∧ t.pwr.ref = .vinValid) ∧
      ∃ t, exec (.overvoltage cut he) s = .next t ∧ t.pwr.state = .parked ∧ t.pwr.domains = 0x001#12 ∧ t.pwr.vinMv = 0 ∧ t.pwr.ref = .vinValid)

/-- A start-up that has no pending reference or no valid VIN changes nothing; one outside -40 to 80 degrees, except after a device reset, only sets the hold. Otherwise, with a the state after steps 1 and 2 and b the state after step 4: if the SUP domain fails only the always-on domain stays powered; if no firmware bank passes, the recovery service runs with code 1 at step 2; in both the power-cycle count has counted one except after a device reset. If the MEM domain fails, it halts with code 2 at step 6 and DETAIL 6, and the instance store and the loader stay. If an epoch record reads uncorrectable and no cold start is ordered, it halts with code 3 at step 5 and the record's number. A controller without an image halts with code 4 at step 5. A station completes it as SOLO without a pair, with no image, its drivers on and its outputs released. A controller outside a pair whose image fits P, with VIN at or above 9 V and a term left, completes it as SOLO with the term above every term known, those that stations report among them. A completed start-up reports code 0 at step 10 and the module is started; a stopped one is not, and SYS_EXE_CAUSE.HALT is set for codes 2, 3 and 4. A start-up that waits for VIN goes on at 10 V or more. (R13; R199; R203; R474; R510; R517; R518; R519; R520; R521; 19_supplies_connectors_startup.md, When a start-up stops) -/
def Obligations.StartUpStopsAndCompletes : Prop :=
  ∀ (s a b : State) (env : StartEnv), a = ((s.startAo env).fwReads env.ecc).bootBanks env.signed → b = a.startSup env →
    (s.mayStart env = false → exec (.startUp env) s = .next s) ∧
    (s.mayStart env = true → s.pwr.ref ≠ .deviceReset → tempOk env.temp = false → ∃ t, exec (.startUp env) s = .next t ∧
      t.pwr = { s.pwr with thermalHold := true, temp := env.temp, aoRunning := true } ∧ Frame { pwr := true } s t) ∧
    (s.mayStart env = true → s.pwr.ref = .deviceReset ∨ tempOk env.temp = true →
      (env.domainBad = some 0 ∨ env.domainBad = some 1 → ∃ t, exec (.startUp env) s = .next t ∧ t.pwr.stopped = true ∧ t.pwr.started = false ∧
        t.pwr.domains = 0x001#12 ∧ t.rtc.pwrCycles = (if s.pwr.ref = .deviceReset then s.rtc.pwrCycles else min 0xFFFFFFFF (s.rtc.pwrCycles + 1)) ∧ t.pending = s.pending) ∧
      (env.domainBad = none → a.fw.active = none → ∃ t, exec (.startUp env) s = .next t ∧ t.pwr.stopped = true ∧ t.pwr.recovery = true ∧ t.pwr.started = false ∧
        byteAt t.pwr.report 0 = 1 ∧ byteAt t.pwr.report 1 = 2 ∧ t.host.ready = true ∧
        t.rtc.pwrCycles = (if s.pwr.ref = .deviceReset then s.rtc.pwrCycles else min 0xFFFFFFFF (s.rtc.pwrCycles + 1)) ∧ t.pending = s.pending) ∧
      (env.domainBad = some 6 → a.fw.active ≠ none → env.epochBad = none → ∃ t, exec (.startUp env) s = .next t ∧ t.pwr.stopped = true ∧ t.pwr.started = false ∧
        byteAt t.pwr.report 0 = 2 ∧ byteAt t.pwr.report 1 = 6 ∧ byteAt t.pwr.report 2 = 6 ∧ t.sto.halted = true ∧ t.host.exeCause.getLsbD 5 = true ∧
        t.sto.lmem = b.sto.lmem ∧ t.ldr = b.ldr ∧ t.pending = s.pending) ∧
      (env.domainBad = none → a.fw.active ≠ none →
        (∀ d ad, env.epochBad = some (d, ad) → d < 256 → b.inForce 0x4003 0 0 ≠ 1 → ∃ t, exec (.startUp env) s = .next t ∧ t.pwr.stopped = true ∧ t.pwr.started = false ∧
          byteAt t.pwr.report 0 = 3 ∧ byteAt t.pwr.report 1 = 5 ∧ byteAt t.pwr.report 2 = d ∧ t.sto.halted = true ∧ t.host.exeCause.getLsbD 5 = true ∧ t.pending = s.pending) ∧
        (env.epochBad = none → b.pwr.role = .controller → b.ldr.img = none → b.ldr.state ≠ 5 → ∃ t, exec (.startUp env) s = .next t ∧ t.pwr.stopped = true ∧
          t.pwr.started = false ∧ byteAt t.pwr.report 0 = 4 ∧ byteAt t.pwr.report 1 = 5 ∧ t.sto.halted = true ∧ t.host.exeCause.getLsbD 5 = true ∧ t.pending = s.pending) ∧
        (env.epochBad = none → b.pwr.role = .station → ∃ t, exec (.startUp env) s = .next t ∧ t.pwr.started = true ∧ t.pwr.stopped = false ∧ t.csw.role = .solo ∧
          t.csw.pair = false ∧ t.csw.dark = true ∧ t.csw.driversOff = false ∧ t.fio.released = true ∧ t.ldr.img = none ∧ byteAt t.pwr.report 0 = 0 ∧
          byteAt t.pwr.report 1 = 10 ∧ t.pending = s.pending) ∧
        (∀ u i, env.epochBad = none → env.installCut = false →
          u = (((if b.csw.storeComplete then b else b.noMilestone).upPwr (fun p => { p with domains := p.domains ||| 0x040#12 })).startStores env).loadAll env →
          u.pwr.role = .controller → u.ldr.img = some i → i.beatP = u.clk.p → u.inForce 0x6000 0 0 ≠ 1 → (u.heardTerms env.terms).highTerm < 0xFFFF → 9000 ≤ u.pwr.vinMv →
          ∃ t, exec (.startUp env) s = .next t ∧ t.pwr.started = true ∧ t.pwr.stopped = false ∧ t.pwr.state = .run ∧ t.csw.role = .solo ∧
            t.csw.term = (u.heardTerms env.terms).highTerm + 1 ∧ t.csw.driversOff = false ∧ t.fio.released = true ∧ byteAt t.pwr.report 0 = 0 ∧ byteAt t.pwr.report 1 = 10 ∧ t.pending = s.pending))) ∧
    (s.pwr.stopped = true → byteAt s.pwr.report 0 = 6 → 10000 ≤ env.vinMv → ∃ t, exec (.startResumeAfterVin env) s = .next t ∧ t.pwr.started = true ∧ t.pwr.stopped = false ∧
      t.pwr.vinMv = env.vinMv ∧ byteAt t.pwr.report 0 = 0 ∧ t.pending = s.pending) ∧
    (s.pwr.stopped = false ∨ byteAt s.pwr.report 0 ≠ 6 ∨ env.vinMv < 10000 → exec (.startResumeAfterVin env) s = .next s)

/-- For every command c, queue q and state s: the step of s with the queue c, q is exec of c on s with the queue q. And whatever next state a command answers, its queue of waiting commands is the one it was given: a command puts none in and takes none out. (98_opcode_table.md) -/
def Obligations.StepRunsTheFrontCommand : Prop :=
  ∀ (c : Instr) (q : List Instr) (s t : State), step { s with pending := c :: q } = exec c { s with pending := q } ∧ (exec c s = .next t → t.pending = s.pending)

/-- The model's choice of log 3: on an empty queue a step changes nothing. The table gives its rows no bits, so no word spells a command and putting one in front leaves every state as it is. (98_opcode_table.md) -/
def Obligations.StepIdlesOnAnEmptyQueue : Prop :=
  ∀ (s : State) (nbits w : Nat), (s.pending = [] → step s = .next s) ∧ decodeTableWord nbits w = none ∧ s.withFetchWord nbits w = s

/-- State.reset is regular in the sense of State.regular: the memories of the stores and of a swap's conversion are in canonical form, at most 64 occurrences wait for the recorder, no interrupt counter exceeds 255, and the audit trail holds at most 1,024 entries. No command waits. The model is not running beats, no lane executes, and no fuse is blown. (R347; R375; R403; R486; 02_beats_tasks_milestones.md, Start-up) -/
def Obligations.ResetIsRegular : Prop :=
  State.reset.regular ∧ State.reset.pending = [] ∧ State.reset.clk.running = false ∧ State.reset.dict.fuses = 0 ∧ (∀ l, l < 8 → (State.reset.lane l).task = none)

/-- In every state a step answers a next state: no command ends in a fault or a refusal, for the spec gives every command an effect, refusals by the machine included. And if the state is regular, so is the next one: the memories of the program store, the L map, the durable L map, the latched input view, the launched outputs and a swap's conversion keep their canonical form (strictly rising addresses, no entry equal to what an unlisted address reads), the recorder's queue holds at most 64 occurrences, every interrupt counter saturates within 255, and the audit trail stays within 1,024 entries, whatever command is at the front, start-ups, installations, takeovers, bulk synchronisation and resets included. (R47; R53; R60; R190; R219; R375; R403; R486; 12_host_port_and_interrupts.md, Interrupts) -/
def Obligations.RegularStatesStayRegular : Prop :=
  ∀ s : State, ∃ t, step s = .next t ∧ (s.regular → t.regular)

/-- For each of the four one-time fuses: if it is blown in a state and a step answers a next state, it is blown in the next state. This holds of every command, device resets, power loss, start-ups, firmware installations and RESTORE_DEFAULTS included. (R347; 11_dictionary_and_kivasel.md, Fuses) -/
def Obligations.BlownFusesStayBlown : Prop :=
  ∀ (s t : State) (i : Nat), i < 4 → s.dict.fuses.getLsbD i = true → step s = .next t → t.dict.fuses.getLsbD i = true

/-- If a step answers a next state, the audit trail of the state is a first part of the audit trail of the next state: entries are appended and none is removed, altered or put in another place; and the event counter of the next state is not below that of the state. This holds in every state and of every command, adjustment telegrams, seal changes, device resets, power loss, start-ups and firmware installations included. (R484; R485; R486; 17_metrology.md, Seal) -/
def Obligations.TheAuditTrailOnlyGrows : Prop :=
  ∀ s t : State, step s = .next t → s.met.audit <+: t.met.audit ∧ s.met.events ≤ t.met.events

/-- If the partition is sealed in a state and a step answers a next state, the sealed parameters of every metrology channel (enable, six-wire, the largest count, the interval's mantissa and exponent, zero, span, update rate and zero tracking) are in the next state what they were. This holds of every command: adjustment telegrams, register writes by every master, Kivasel requests, start-ups, installations and resets included. (R484; R485; R492; 17_metrology.md, Seal) -/
def Obligations.SealedParametersCannotChange : Prop :=
  ∀ (s t : State) (c : Nat), s.met.sealed = true → step s = .next t → t.met.cal c = s.met.cal c

/-- RECORD_WRITE with the supervisor's domain on, no clear in progress and an occurrence o at the head of the queue, where the record with the highest SEQ (the last of the log, readable, so that it has a CODE) has o's CODE and SOURCE: the occurrence leaves the queue, the log holds the same number of records, every earlier record is as it was, and of the last one REPEAT is one higher (0xFFFF stays) and OT_LAST is the occurrence's time; every other field, SEQ included, keeps its value. No snapshot is taken: trace and every other part of the state but the passage of time are unchanged. (R404) -/
def Obligations.ARepetitionIsCountedInItsRecord : Prop :=
  ∀ (s : State) (t : Nat) (o : Occ) (rest : List Occ) (r : Rec) (l : List Rec), s.domainOn 1 = true → s.evr.clearing = none →
    s.evr.queue = o :: rest → rest.length < 64 → s.evr.recs = l ++ [r] → r.corrupt = false → r.code = o.code → r.source = o.source →
    ∃ u, exec (.recordWrite t) s = .next u ∧
      u.evr = { s.evr with queue := rest, recs := l ++ [{ r with repeats := if r.repeats < 0xFFFF then r.repeats + 1 else 0xFFFF, otLast := o.ot }] } ∧
      Frame { clk := true, evr := true } s u

/-- For every register state, extension and syllable: an image bit operation claims exactly the bank that is bits 10 to 7 of its 18-bit image bit address; a record operation that of bits 7 to 4 of its record address; a long load or store of the L unit at a shared address that of bits 7 to 4 of the address, and none at any other address; a pair of short operations of the L unit that of each of its shared addresses; every other syllable none. (R96) -/
def Obligations.BanksOfSharedAccesses : Prop :=
  ∀ (r : Reg) (ext : Option Nat) (w : Word),
    (isImageOp w = true → sylBanks r ext w = [imageX r ext w / 128 % 16]) ∧
    (isImageOp w = false → isRecord w = true → sylBanks r ext w = [(r.getA (sylMod w)).toNat / 16 % 16]) ∧
    (isImageOp w = false → isRecord w = false → sylU w = 6 → sylP w = false → sylOpc w ≤ 0x17 →
      sylBanks r ext w = if isShared (longLAddr r ext w) then [longLAddr r ext w / 16 % 16] else []) ∧
    (isImageOp w = false → isRecord w = false → sylU w = 6 → sylP w = true →
      ∀ b, b ∈ sylBanks r ext w ↔ ∃ op a, op < 2 ∧ shortLAddr r (sylShort w op) = some a ∧ isShared a = true ∧ b = a / 16 % 16) ∧
    (isImageOp w = false → isRecord w = false → sylU w ≠ 6 ∨ sylP w = false ∧ 0x17 < sylOpc w → sylBanks r ext w = [])
end

