-- ==== Sys2Proof/Laws/Memory.lean ====
section
/-! SUPPORT. Laws of the sparse memories: a read after a write, the bytes a write leaves alone, and the canonical form that every memory operation keeps. -/

set_option Elab.async false
set_option linter.all false

namespace Sys2Proof.Machine

open Sys2Proof

theorem cellsFrom_mono {d : Byte} {m n : Nat} (hmn : m ≤ n) : ∀ {l : Mem}, cellsFrom d n l = true → cellsFrom d m l = true
  | [], _ => rfl
  | (k, v) :: t, h => by
    simp only [cellsFrom, Bool.and_eq_true, decide_eq_true_eq] at h ⊢
    exact ⟨⟨by omega, h.1.2⟩, h.2⟩

theorem cellSet_from {d b : Byte} {a : Nat} : ∀ {l : Mem} {n : Nat}, n ≤ a → cellsFrom d n l = true → cellsFrom d n (cellSet d l a b) = true
  | [], n, hn, _ => by
    unfold cellSet
    split
    · rfl
    · simp [cellsFrom, *]
  | (k, v) :: t, n, hn, h => by
    simp only [cellsFrom, Bool.and_eq_true, decide_eq_true_eq] at h
    unfold cellSet
    split
    · split
      · simp [cellsFrom, h]
      · simp [cellsFrom, *] <;> omega
    · split
      · next hk =>
        split
        · exact cellsFrom_mono (by omega) h.2
        · subst hk; simp [cellsFrom, *]
      · simp only [cellsFrom, Bool.and_eq_true, decide_eq_true_eq]
        exact ⟨h.1, cellSet_from (by omega) h.2⟩

/-- Writing a byte keeps the canonical form. -/
theorem memWrite_wf {m : Mem} (a : Nat) (b : Byte) (h : m.wf = true) : (memWrite m a b).wf = true :=
  cellSet_from (Nat.zero_le a) h

/-- Writing bytes keeps the canonical form. -/
theorem memPut_wf : ∀ (l : List Byte) {m : Mem} (a : Nat), m.wf = true → (memPut m a l).wf = true
  | [], _, _, h => h
  | b :: t, _, a, h => memPut_wf t (a + 1) (memWrite_wf a b h)

theorem cellsFrom_filter {d : Byte} (p : Nat × Byte → Bool) : ∀ {l : Mem} {n : Nat}, cellsFrom d n l = true → cellsFrom d n (l.filter p) = true
  | [], _, _ => rfl
  | (k, v) :: t, n, h => by
    simp only [cellsFrom, Bool.and_eq_true, decide_eq_true_eq] at h
    have ih := cellsFrom_filter p h.2
    rw [List.filter_cons]
    split
    · simp only [cellsFrom, Bool.and_eq_true, decide_eq_true_eq]
      exact ⟨h.1, ih⟩
    · exact cellsFrom_mono (by omega) ih

/-- Clearing a range keeps the canonical form. -/
theorem memClear_wf {m : Mem} (lo hi : Nat) (h : m.wf = true) : (memClear m lo hi).wf = true := cellsFrom_filter _ h

/-- Taking a range keeps the canonical form. -/
theorem memRange_wf {m : Mem} (lo hi : Nat) (h : m.wf = true) : (memRange m lo hi).wf = true := cellsFrom_filter _ h

/-- The empty memory is in canonical form. -/
theorem mem_nil_wf : Mem.wf [] = true := rfl

/-- Laying an overlay into a memory keeps the canonical form. -/
theorem ov_apply_wf : ∀ (o : Ov) {m : Mem}, m.wf = true → (o.apply m).wf = true
  | [], _, h => h
  | e :: t, m, h => by
    show (Ov.apply t (memWrite m e.1 _)).wf = true
    exact ov_apply_wf t (memWrite_wf _ _ h)

/-- A fold of operations that each keep the canonical form keeps it. -/
theorem foldl_wf {α : Type} (f : Mem → α → Mem) (hf : ∀ m x, m.wf = true → (f m x).wf = true) :
    ∀ (l : List α) {m : Mem}, m.wf = true → (l.foldl f m).wf = true
  | [], _, h => h
  | x :: t, _, h => foldl_wf f hf t (hf _ x h)

/-- Cells laid into an empty memory give a canonical form. -/
theorem memOf_wf (l : Mem) : (memOf l).wf = true := foldl_wf _ (fun _ _ h => memWrite_wf _ _ h) _ mem_nil_wf

theorem cellsFrom_append {d : Byte} {b : Nat} {r : Mem} (hr : cellsFrom d b r = true) :
    ∀ {l : Mem} {n : Nat}, n ≤ b → (∀ c ∈ l, c.1 < b) → cellsFrom d n l = true → cellsFrom d n (l ++ r) = true
  | [], _, hn, _, _ => cellsFrom_mono hn hr
  | (k, v) :: t, n, _, hl, h => by
    simp only [cellsFrom, Bool.and_eq_true, decide_eq_true_eq] at h
    simp only [List.cons_append, cellsFrom, Bool.and_eq_true, decide_eq_true_eq]
    exact ⟨h.1, cellsFrom_append hr (hl (k, v) List.mem_cons_self) (fun c hc => hl c (List.mem_cons_of_mem _ hc)) h.2⟩

theorem cellsFrom_raise {d : Byte} {b : Nat} : ∀ {l : Mem} {n : Nat}, (∀ c ∈ l, b ≤ c.1) → cellsFrom d n l = true → cellsFrom d b l = true
  | [], _, _, _ => rfl
  | (k, v) :: t, n, hl, h => by
    simp only [cellsFrom, Bool.and_eq_true, decide_eq_true_eq] at h ⊢
    exact ⟨⟨hl (k, v) List.mem_cons_self, h.1.2⟩, h.2⟩

/-- A range below a bound beside a range from that bound on. -/
theorem memRange_append_wf {m p : Mem} (lo b hi : Nat) (hm : m.wf = true) (hp : p.wf = true) :
    Mem.wf (memRange m lo b ++ memRange p b hi) = true := by
  refine cellsFrom_append (b := b) (cellsFrom_raise ?_ (memRange_wf b hi hp)) (Nat.zero_le b) ?_ (memRange_wf lo b hm)
  · intro c hc
    have := (List.mem_filter.mp hc).2
    simp at this; omega
  · intro c hc
    have := (List.mem_filter.mp hc).2
    simp at this; omega

theorem cellGet_cellSet {d b : Byte} {a x : Nat} : ∀ {l : Mem} {n : Nat}, cellsFrom d n l = true →
    cellGet d (cellSet d l a b) x = if x = a then b else cellGet d l x
  | [], _, _ => by
    unfold cellSet
    by_cases hb : b = d <;> by_cases hx : x = a <;> simp [cellGet, hb, hx]
  | (k, v) :: t, n, h => by
    simp only [cellsFrom, Bool.and_eq_true, decide_eq_true_eq] at h
    have hlt : ∀ y, y < k + 1 → cellGet d t y = d := by
      intro y hy
      cases t with
      | nil => rfl
      | cons c t' =>
        have h2 := h.2
        simp only [cellsFrom, Bool.and_eq_true, decide_eq_true_eq] at h2
        simp only [cellGet]
        rw [if_neg (by omega), if_pos (by omega)]
    unfold cellSet
    split
    · next hak =>
      split
      · next hb =>
        by_cases hx : x = a
        · subst hx
          rw [if_pos rfl]; simp only [cellGet]
          rw [if_neg (by omega), if_pos hak]; exact hb.symm
        · rw [if_neg hx]
      · simp only [cellGet]
        by_cases hx : x = a
        · simp [hx]
        · simp only [if_neg hx]
          by_cases hxa : x < a
          · rw [if_pos hxa, if_neg (by omega), if_pos (by omega)]
          · rw [if_neg hxa]
    · split
      · next hk =>
        subst hk
        split
        · next hb =>
          by_cases hx : x = a
          · subst hx; rw [if_pos rfl, hlt _ (by omega)]; exact hb.symm
          · rw [if_neg hx]
            simp only [cellGet]
            by_cases hxa : x < a
            · rw [if_neg hx, if_pos hxa]; exact hlt _ (by omega)
            · rw [if_neg hx, if_neg hxa]
        · simp only [cellGet]
          by_cases hx : x = a <;> simp [hx]
      · next hk =>
        simp only [cellGet]
        rw [cellGet_cellSet h.2]
        by_cases hx : x = a
        · subst hx; rw [if_neg hk, if_neg (by omega)]; simp
        · simp only [if_neg hx]

/-- A byte read after a write: the byte written at that address, and the byte that stood there anywhere else. -/
theorem memRead_memWrite {m : Mem} (h : m.wf = true) (a x : Nat) (b : Byte) :
    memRead (memWrite m a b) x = if x = a then b else memRead m x := cellGet_cellSet h

/-- Bytes outside the written range read as before. -/
theorem memRead_memPut_of_not_mem : ∀ (l : List Byte) {m : Mem} (a x : Nat), m.wf = true → (x < a ∨ a + l.length ≤ x) →
    memRead (memPut m a l) x = memRead m x
  | [], _, _, _, _, _ => rfl
  | b :: t, m, a, x, h, hx => by
    simp only [List.length_cons] at hx
    show memRead (memPut (memWrite m a b) (a + 1) t) x = _
    rw [memRead_memPut_of_not_mem t (a + 1) x (memWrite_wf a b h) (by omega), memRead_memWrite h, if_neg (by omega)]

/-- A byte inside the written range reads the byte written there. -/
theorem memRead_memPut_of_mem : ∀ (l : List Byte) {m : Mem} (a k : Nat), m.wf = true → k < l.length →
    memRead (memPut m a l) (a + k) = l[k]?.getD 0
  | b :: t, m, a, 0, h, _ => by
    show memRead (memPut (memWrite m a b) (a + 1) t) a = _
    rw [memRead_memPut_of_not_mem t (a + 1) a (memWrite_wf a b h) (by omega), memRead_memWrite h, if_pos rfl]
    rfl
  | b :: t, m, a, k + 1, h, hk => by
    show memRead (memPut (memWrite m a b) (a + 1) t) (a + (k + 1)) = _
    rw [show a + (k + 1) = a + 1 + k by omega, memRead_memPut_of_mem t (a + 1) k (memWrite_wf a b h) (by simpa using hk)]
    simp

end Sys2Proof.Machine
end

