-- ==== Sys2Proof/Laws/State.lean ====
section
/-! SUPPORT. One lemma per field per update of State, true by rfl: no later proof unfolds an update. -/

namespace Sys2Proof.Machine.State

variable (s : State)

@[simp] theorem upClk_clk (k : Clk → Clk) : (s.upClk k).clk = k s.clk := rfl
@[simp] theorem upClk_clu (k : Clk → Clk) : (s.upClk k).clu = s.clu := rfl
@[simp] theorem upClk_tasks (k : Clk → Clk) : (s.upClk k).tasks = s.tasks := rfl
@[simp] theorem upClk_sto (k : Clk → Clk) : (s.upClk k).sto = s.sto := rfl
@[simp] theorem upClk_ldr (k : Clk → Clk) : (s.upClk k).ldr = s.ldr := rfl
@[simp] theorem upClk_csw (k : Clk → Clk) : (s.upClk k).csw = s.csw := rfl
@[simp] theorem upClk_fio (k : Clk → Clk) : (s.upClk k).fio = s.fio := rfl
@[simp] theorem upClk_net (k : Clk → Clk) : (s.upClk k).net = s.net := rfl
@[simp] theorem upClk_can (k : Clk → Clk) : (s.upClk k).can = s.can := rfl
@[simp] theorem upClk_dict (k : Clk → Clk) : (s.upClk k).dict = s.dict := rfl
@[simp] theorem upClk_host (k : Clk → Clk) : (s.upClk k).host = s.host := rfl
@[simp] theorem upClk_wdg (k : Clk → Clk) : (s.upClk k).wdg = s.wdg := rfl
@[simp] theorem upClk_evr (k : Clk → Clk) : (s.upClk k).evr = s.evr := rfl
@[simp] theorem upClk_trc (k : Clk → Clk) : (s.upClk k).trc = s.trc := rfl
@[simp] theorem upClk_nvp (k : Clk → Clk) : (s.upClk k).nvp = s.nvp := rfl
@[simp] theorem upClk_fw (k : Clk → Clk) : (s.upClk k).fw = s.fw := rfl
@[simp] theorem upClk_rtc (k : Clk → Clk) : (s.upClk k).rtc = s.rtc := rfl
@[simp] theorem upClk_pwr (k : Clk → Clk) : (s.upClk k).pwr = s.pwr := rfl
@[simp] theorem upClk_met (k : Clk → Clk) : (s.upClk k).met = s.met := rfl
@[simp] theorem upClk_free (k : Clk → Clk) : (s.upClk k).free = s.free := rfl
@[simp] theorem upClk_pending (k : Clk → Clk) : (s.upClk k).pending = s.pending := rfl
@[simp] theorem upClu_clk (k : Cluster → Cluster) : (s.upClu k).clk = s.clk := rfl
@[simp] theorem upClu_clu (k : Cluster → Cluster) : (s.upClu k).clu = k s.clu := rfl
@[simp] theorem upClu_tasks (k : Cluster → Cluster) : (s.upClu k).tasks = s.tasks := rfl
@[simp] theorem upClu_sto (k : Cluster → Cluster) : (s.upClu k).sto = s.sto := rfl
@[simp] theorem upClu_ldr (k : Cluster → Cluster) : (s.upClu k).ldr = s.ldr := rfl
@[simp] theorem upClu_csw (k : Cluster → Cluster) : (s.upClu k).csw = s.csw := rfl
@[simp] theorem upClu_fio (k : Cluster → Cluster) : (s.upClu k).fio = s.fio := rfl
@[simp] theorem upClu_net (k : Cluster → Cluster) : (s.upClu k).net = s.net := rfl
@[simp] theorem upClu_can (k : Cluster → Cluster) : (s.upClu k).can = s.can := rfl
@[simp] theorem upClu_dict (k : Cluster → Cluster) : (s.upClu k).dict = s.dict := rfl
@[simp] theorem upClu_host (k : Cluster → Cluster) : (s.upClu k).host = s.host := rfl
@[simp] theorem upClu_wdg (k : Cluster → Cluster) : (s.upClu k).wdg = s.wdg := rfl
@[simp] theorem upClu_evr (k : Cluster → Cluster) : (s.upClu k).evr = s.evr := rfl
@[simp] theorem upClu_trc (k : Cluster → Cluster) : (s.upClu k).trc = s.trc := rfl
@[simp] theorem upClu_nvp (k : Cluster → Cluster) : (s.upClu k).nvp = s.nvp := rfl
@[simp] theorem upClu_fw (k : Cluster → Cluster) : (s.upClu k).fw = s.fw := rfl
@[simp] theorem upClu_rtc (k : Cluster → Cluster) : (s.upClu k).rtc = s.rtc := rfl
@[simp] theorem upClu_pwr (k : Cluster → Cluster) : (s.upClu k).pwr = s.pwr := rfl
@[simp] theorem upClu_met (k : Cluster → Cluster) : (s.upClu k).met = s.met := rfl
@[simp] theorem upClu_free (k : Cluster → Cluster) : (s.upClu k).free = s.free := rfl
@[simp] theorem upClu_pending (k : Cluster → Cluster) : (s.upClu k).pending = s.pending := rfl
@[simp] theorem upTasks_clk (k : Vector TaskSt 32 → Vector TaskSt 32) : (s.upTasks k).clk = s.clk := rfl
@[simp] theorem upTasks_clu (k : Vector TaskSt 32 → Vector TaskSt 32) : (s.upTasks k).clu = s.clu := rfl
@[simp] theorem upTasks_tasks (k : Vector TaskSt 32 → Vector TaskSt 32) : (s.upTasks k).tasks = k s.tasks := rfl
@[simp] theorem upTasks_sto (k : Vector TaskSt 32 → Vector TaskSt 32) : (s.upTasks k).sto = s.sto := rfl
@[simp] theorem upTasks_ldr (k : Vector TaskSt 32 → Vector TaskSt 32) : (s.upTasks k).ldr = s.ldr := rfl
@[simp] theorem upTasks_csw (k : Vector TaskSt 32 → Vector TaskSt 32) : (s.upTasks k).csw = s.csw := rfl
@[simp] theorem upTasks_fio (k : Vector TaskSt 32 → Vector TaskSt 32) : (s.upTasks k).fio = s.fio := rfl
@[simp] theorem upTasks_net (k : Vector TaskSt 32 → Vector TaskSt 32) : (s.upTasks k).net = s.net := rfl
@[simp] theorem upTasks_can (k : Vector TaskSt 32 → Vector TaskSt 32) : (s.upTasks k).can = s.can := rfl
@[simp] theorem upTasks_dict (k : Vector TaskSt 32 → Vector TaskSt 32) : (s.upTasks k).dict = s.dict := rfl
@[simp] theorem upTasks_host (k : Vector TaskSt 32 → Vector TaskSt 32) : (s.upTasks k).host = s.host := rfl
@[simp] theorem upTasks_wdg (k : Vector TaskSt 32 → Vector TaskSt 32) : (s.upTasks k).wdg = s.wdg := rfl
@[simp] theorem upTasks_evr (k : Vector TaskSt 32 → Vector TaskSt 32) : (s.upTasks k).evr = s.evr := rfl
@[simp] theorem upTasks_trc (k : Vector TaskSt 32 → Vector TaskSt 32) : (s.upTasks k).trc = s.trc := rfl
@[simp] theorem upTasks_nvp (k : Vector TaskSt 32 → Vector TaskSt 32) : (s.upTasks k).nvp = s.nvp := rfl
@[simp] theorem upTasks_fw (k : Vector TaskSt 32 → Vector TaskSt 32) : (s.upTasks k).fw = s.fw := rfl
@[simp] theorem upTasks_rtc (k : Vector TaskSt 32 → Vector TaskSt 32) : (s.upTasks k).rtc = s.rtc := rfl
@[simp] theorem upTasks_pwr (k : Vector TaskSt 32 → Vector TaskSt 32) : (s.upTasks k).pwr = s.pwr := rfl
@[simp] theorem upTasks_met (k : Vector TaskSt 32 → Vector TaskSt 32) : (s.upTasks k).met = s.met := rfl
@[simp] theorem upTasks_free (k : Vector TaskSt 32 → Vector TaskSt 32) : (s.upTasks k).free = s.free := rfl
@[simp] theorem upTasks_pending (k : Vector TaskSt 32 → Vector TaskSt 32) : (s.upTasks k).pending = s.pending := rfl
@[simp] theorem upSto_clk (k : Store → Store) : (s.upSto k).clk = s.clk := rfl
@[simp] theorem upSto_clu (k : Store → Store) : (s.upSto k).clu = s.clu := rfl
@[simp] theorem upSto_tasks (k : Store → Store) : (s.upSto k).tasks = s.tasks := rfl
@[simp] theorem upSto_sto (k : Store → Store) : (s.upSto k).sto = k s.sto := rfl
@[simp] theorem upSto_ldr (k : Store → Store) : (s.upSto k).ldr = s.ldr := rfl
@[simp] theorem upSto_csw (k : Store → Store) : (s.upSto k).csw = s.csw := rfl
@[simp] theorem upSto_fio (k : Store → Store) : (s.upSto k).fio = s.fio := rfl
@[simp] theorem upSto_net (k : Store → Store) : (s.upSto k).net = s.net := rfl
@[simp] theorem upSto_can (k : Store → Store) : (s.upSto k).can = s.can := rfl
@[simp] theorem upSto_dict (k : Store → Store) : (s.upSto k).dict = s.dict := rfl
@[simp] theorem upSto_host (k : Store → Store) : (s.upSto k).host = s.host := rfl
@[simp] theorem upSto_wdg (k : Store → Store) : (s.upSto k).wdg = s.wdg := rfl
@[simp] theorem upSto_evr (k : Store → Store) : (s.upSto k).evr = s.evr := rfl
@[simp] theorem upSto_trc (k : Store → Store) : (s.upSto k).trc = s.trc := rfl
@[simp] theorem upSto_nvp (k : Store → Store) : (s.upSto k).nvp = s.nvp := rfl
@[simp] theorem upSto_fw (k : Store → Store) : (s.upSto k).fw = s.fw := rfl
@[simp] theorem upSto_rtc (k : Store → Store) : (s.upSto k).rtc = s.rtc := rfl
@[simp] theorem upSto_pwr (k : Store → Store) : (s.upSto k).pwr = s.pwr := rfl
@[simp] theorem upSto_met (k : Store → Store) : (s.upSto k).met = s.met := rfl
@[simp] theorem upSto_free (k : Store → Store) : (s.upSto k).free = s.free := rfl
@[simp] theorem upSto_pending (k : Store → Store) : (s.upSto k).pending = s.pending := rfl
@[simp] theorem upLdr_clk (k : Loader → Loader) : (s.upLdr k).clk = s.clk := rfl
@[simp] theorem upLdr_clu (k : Loader → Loader) : (s.upLdr k).clu = s.clu := rfl
@[simp] theorem upLdr_tasks (k : Loader → Loader) : (s.upLdr k).tasks = s.tasks := rfl
@[simp] theorem upLdr_sto (k : Loader → Loader) : (s.upLdr k).sto = s.sto := rfl
@[simp] theorem upLdr_ldr (k : Loader → Loader) : (s.upLdr k).ldr = k s.ldr := rfl
@[simp] theorem upLdr_csw (k : Loader → Loader) : (s.upLdr k).csw = s.csw := rfl
@[simp] theorem upLdr_fio (k : Loader → Loader) : (s.upLdr k).fio = s.fio := rfl
@[simp] theorem upLdr_net (k : Loader → Loader) : (s.upLdr k).net = s.net := rfl
@[simp] theorem upLdr_can (k : Loader → Loader) : (s.upLdr k).can = s.can := rfl
@[simp] theorem upLdr_dict (k : Loader → Loader) : (s.upLdr k).dict = s.dict := rfl
@[simp] theorem upLdr_host (k : Loader → Loader) : (s.upLdr k).host = s.host := rfl
@[simp] theorem upLdr_wdg (k : Loader → Loader) : (s.upLdr k).wdg = s.wdg := rfl
@[simp] theorem upLdr_evr (k : Loader → Loader) : (s.upLdr k).evr = s.evr := rfl
@[simp] theorem upLdr_trc (k : Loader → Loader) : (s.upLdr k).trc = s.trc := rfl
@[simp] theorem upLdr_nvp (k : Loader → Loader) : (s.upLdr k).nvp = s.nvp := rfl
@[simp] theorem upLdr_fw (k : Loader → Loader) : (s.upLdr k).fw = s.fw := rfl
@[simp] theorem upLdr_rtc (k : Loader → Loader) : (s.upLdr k).rtc = s.rtc := rfl
@[simp] theorem upLdr_pwr (k : Loader → Loader) : (s.upLdr k).pwr = s.pwr := rfl
@[simp] theorem upLdr_met (k : Loader → Loader) : (s.upLdr k).met = s.met := rfl
@[simp] theorem upLdr_free (k : Loader → Loader) : (s.upLdr k).free = s.free := rfl
@[simp] theorem upLdr_pending (k : Loader → Loader) : (s.upLdr k).pending = s.pending := rfl
@[simp] theorem upCsw_clk (k : Csw → Csw) : (s.upCsw k).clk = s.clk := rfl
@[simp] theorem upCsw_clu (k : Csw → Csw) : (s.upCsw k).clu = s.clu := rfl
@[simp] theorem upCsw_tasks (k : Csw → Csw) : (s.upCsw k).tasks = s.tasks := rfl
@[simp] theorem upCsw_sto (k : Csw → Csw) : (s.upCsw k).sto = s.sto := rfl
@[simp] theorem upCsw_ldr (k : Csw → Csw) : (s.upCsw k).ldr = s.ldr := rfl
@[simp] theorem upCsw_csw (k : Csw → Csw) : (s.upCsw k).csw = k s.csw := rfl
@[simp] theorem upCsw_fio (k : Csw → Csw) : (s.upCsw k).fio = s.fio := rfl
@[simp] theorem upCsw_net (k : Csw → Csw) : (s.upCsw k).net = s.net := rfl
@[simp] theorem upCsw_can (k : Csw → Csw) : (s.upCsw k).can = s.can := rfl
@[simp] theorem upCsw_dict (k : Csw → Csw) : (s.upCsw k).dict = s.dict := rfl
@[simp] theorem upCsw_host (k : Csw → Csw) : (s.upCsw k).host = s.host := rfl
@[simp] theorem upCsw_wdg (k : Csw → Csw) : (s.upCsw k).wdg = s.wdg := rfl
@[simp] theorem upCsw_evr (k : Csw → Csw) : (s.upCsw k).evr = s.evr := rfl
@[simp] theorem upCsw_trc (k : Csw → Csw) : (s.upCsw k).trc = s.trc := rfl
@[simp] theorem upCsw_nvp (k : Csw → Csw) : (s.upCsw k).nvp = s.nvp := rfl
@[simp] theorem upCsw_fw (k : Csw → Csw) : (s.upCsw k).fw = s.fw := rfl
@[simp] theorem upCsw_rtc (k : Csw → Csw) : (s.upCsw k).rtc = s.rtc := rfl
@[simp] theorem upCsw_pwr (k : Csw → Csw) : (s.upCsw k).pwr = s.pwr := rfl
@[simp] theorem upCsw_met (k : Csw → Csw) : (s.upCsw k).met = s.met := rfl
@[simp] theorem upCsw_free (k : Csw → Csw) : (s.upCsw k).free = s.free := rfl
@[simp] theorem upCsw_pending (k : Csw → Csw) : (s.upCsw k).pending = s.pending := rfl
@[simp] theorem upFio_clk (k : Fio → Fio) : (s.upFio k).clk = s.clk := rfl
@[simp] theorem upFio_clu (k : Fio → Fio) : (s.upFio k).clu = s.clu := rfl
@[simp] theorem upFio_tasks (k : Fio → Fio) : (s.upFio k).tasks = s.tasks := rfl
@[simp] theorem upFio_sto (k : Fio → Fio) : (s.upFio k).sto = s.sto := rfl
@[simp] theorem upFio_ldr (k : Fio → Fio) : (s.upFio k).ldr = s.ldr := rfl
@[simp] theorem upFio_csw (k : Fio → Fio) : (s.upFio k).csw = s.csw := rfl
@[simp] theorem upFio_fio (k : Fio → Fio) : (s.upFio k).fio = k s.fio := rfl
@[simp] theorem upFio_net (k : Fio → Fio) : (s.upFio k).net = s.net := rfl
@[simp] theorem upFio_can (k : Fio → Fio) : (s.upFio k).can = s.can := rfl
@[simp] theorem upFio_dict (k : Fio → Fio) : (s.upFio k).dict = s.dict := rfl
@[simp] theorem upFio_host (k : Fio → Fio) : (s.upFio k).host = s.host := rfl
@[simp] theorem upFio_wdg (k : Fio → Fio) : (s.upFio k).wdg = s.wdg := rfl
@[simp] theorem upFio_evr (k : Fio → Fio) : (s.upFio k).evr = s.evr := rfl
@[simp] theorem upFio_trc (k : Fio → Fio) : (s.upFio k).trc = s.trc := rfl
@[simp] theorem upFio_nvp (k : Fio → Fio) : (s.upFio k).nvp = s.nvp := rfl
@[simp] theorem upFio_fw (k : Fio → Fio) : (s.upFio k).fw = s.fw := rfl
@[simp] theorem upFio_rtc (k : Fio → Fio) : (s.upFio k).rtc = s.rtc := rfl
@[simp] theorem upFio_pwr (k : Fio → Fio) : (s.upFio k).pwr = s.pwr := rfl
@[simp] theorem upFio_met (k : Fio → Fio) : (s.upFio k).met = s.met := rfl
@[simp] theorem upFio_free (k : Fio → Fio) : (s.upFio k).free = s.free := rfl
@[simp] theorem upFio_pending (k : Fio → Fio) : (s.upFio k).pending = s.pending := rfl
@[simp] theorem upNet_clk (k : Net → Net) : (s.upNet k).clk = s.clk := rfl
@[simp] theorem upNet_clu (k : Net → Net) : (s.upNet k).clu = s.clu := rfl
@[simp] theorem upNet_tasks (k : Net → Net) : (s.upNet k).tasks = s.tasks := rfl
@[simp] theorem upNet_sto (k : Net → Net) : (s.upNet k).sto = s.sto := rfl
@[simp] theorem upNet_ldr (k : Net → Net) : (s.upNet k).ldr = s.ldr := rfl
@[simp] theorem upNet_csw (k : Net → Net) : (s.upNet k).csw = s.csw := rfl
@[simp] theorem upNet_fio (k : Net → Net) : (s.upNet k).fio = s.fio := rfl
@[simp] theorem upNet_net (k : Net → Net) : (s.upNet k).net = k s.net := rfl
@[simp] theorem upNet_can (k : Net → Net) : (s.upNet k).can = s.can := rfl
@[simp] theorem upNet_dict (k : Net → Net) : (s.upNet k).dict = s.dict := rfl
@[simp] theorem upNet_host (k : Net → Net) : (s.upNet k).host = s.host := rfl
@[simp] theorem upNet_wdg (k : Net → Net) : (s.upNet k).wdg = s.wdg := rfl
@[simp] theorem upNet_evr (k : Net → Net) : (s.upNet k).evr = s.evr := rfl
@[simp] theorem upNet_trc (k : Net → Net) : (s.upNet k).trc = s.trc := rfl
@[simp] theorem upNet_nvp (k : Net → Net) : (s.upNet k).nvp = s.nvp := rfl
@[simp] theorem upNet_fw (k : Net → Net) : (s.upNet k).fw = s.fw := rfl
@[simp] theorem upNet_rtc (k : Net → Net) : (s.upNet k).rtc = s.rtc := rfl
@[simp] theorem upNet_pwr (k : Net → Net) : (s.upNet k).pwr = s.pwr := rfl
@[simp] theorem upNet_met (k : Net → Net) : (s.upNet k).met = s.met := rfl
@[simp] theorem upNet_free (k : Net → Net) : (s.upNet k).free = s.free := rfl
@[simp] theorem upNet_pending (k : Net → Net) : (s.upNet k).pending = s.pending := rfl
@[simp] theorem upCan_clk (k : Vector Can 8 → Vector Can 8) : (s.upCan k).clk = s.clk := rfl
@[simp] theorem upCan_clu (k : Vector Can 8 → Vector Can 8) : (s.upCan k).clu = s.clu := rfl
@[simp] theorem upCan_tasks (k : Vector Can 8 → Vector Can 8) : (s.upCan k).tasks = s.tasks := rfl
@[simp] theorem upCan_sto (k : Vector Can 8 → Vector Can 8) : (s.upCan k).sto = s.sto := rfl
@[simp] theorem upCan_ldr (k : Vector Can 8 → Vector Can 8) : (s.upCan k).ldr = s.ldr := rfl
@[simp] theorem upCan_csw (k : Vector Can 8 → Vector Can 8) : (s.upCan k).csw = s.csw := rfl
@[simp] theorem upCan_fio (k : Vector Can 8 → Vector Can 8) : (s.upCan k).fio = s.fio := rfl
@[simp] theorem upCan_net (k : Vector Can 8 → Vector Can 8) : (s.upCan k).net = s.net := rfl
@[simp] theorem upCan_can (k : Vector Can 8 → Vector Can 8) : (s.upCan k).can = k s.can := rfl
@[simp] theorem upCan_dict (k : Vector Can 8 → Vector Can 8) : (s.upCan k).dict = s.dict := rfl
@[simp] theorem upCan_host (k : Vector Can 8 → Vector Can 8) : (s.upCan k).host = s.host := rfl
@[simp] theorem upCan_wdg (k : Vector Can 8 → Vector Can 8) : (s.upCan k).wdg = s.wdg := rfl
@[simp] theorem upCan_evr (k : Vector Can 8 → Vector Can 8) : (s.upCan k).evr = s.evr := rfl
@[simp] theorem upCan_trc (k : Vector Can 8 → Vector Can 8) : (s.upCan k).trc = s.trc := rfl
@[simp] theorem upCan_nvp (k : Vector Can 8 → Vector Can 8) : (s.upCan k).nvp = s.nvp := rfl
@[simp] theorem upCan_fw (k : Vector Can 8 → Vector Can 8) : (s.upCan k).fw = s.fw := rfl
@[simp] theorem upCan_rtc (k : Vector Can 8 → Vector Can 8) : (s.upCan k).rtc = s.rtc := rfl
@[simp] theorem upCan_pwr (k : Vector Can 8 → Vector Can 8) : (s.upCan k).pwr = s.pwr := rfl
@[simp] theorem upCan_met (k : Vector Can 8 → Vector Can 8) : (s.upCan k).met = s.met := rfl
@[simp] theorem upCan_free (k : Vector Can 8 → Vector Can 8) : (s.upCan k).free = s.free := rfl
@[simp] theorem upCan_pending (k : Vector Can 8 → Vector Can 8) : (s.upCan k).pending = s.pending := rfl
@[simp] theorem upDict_clk (k : Dict → Dict) : (s.upDict k).clk = s.clk := rfl
@[simp] theorem upDict_clu (k : Dict → Dict) : (s.upDict k).clu = s.clu := rfl
@[simp] theorem upDict_tasks (k : Dict → Dict) : (s.upDict k).tasks = s.tasks := rfl
@[simp] theorem upDict_sto (k : Dict → Dict) : (s.upDict k).sto = s.sto := rfl
@[simp] theorem upDict_ldr (k : Dict → Dict) : (s.upDict k).ldr = s.ldr := rfl
@[simp] theorem upDict_csw (k : Dict → Dict) : (s.upDict k).csw = s.csw := rfl
@[simp] theorem upDict_fio (k : Dict → Dict) : (s.upDict k).fio = s.fio := rfl
@[simp] theorem upDict_net (k : Dict → Dict) : (s.upDict k).net = s.net := rfl
@[simp] theorem upDict_can (k : Dict → Dict) : (s.upDict k).can = s.can := rfl
@[simp] theorem upDict_dict (k : Dict → Dict) : (s.upDict k).dict = k s.dict := rfl
@[simp] theorem upDict_host (k : Dict → Dict) : (s.upDict k).host = s.host := rfl
@[simp] theorem upDict_wdg (k : Dict → Dict) : (s.upDict k).wdg = s.wdg := rfl
@[simp] theorem upDict_evr (k : Dict → Dict) : (s.upDict k).evr = s.evr := rfl
@[simp] theorem upDict_trc (k : Dict → Dict) : (s.upDict k).trc = s.trc := rfl
@[simp] theorem upDict_nvp (k : Dict → Dict) : (s.upDict k).nvp = s.nvp := rfl
@[simp] theorem upDict_fw (k : Dict → Dict) : (s.upDict k).fw = s.fw := rfl
@[simp] theorem upDict_rtc (k : Dict → Dict) : (s.upDict k).rtc = s.rtc := rfl
@[simp] theorem upDict_pwr (k : Dict → Dict) : (s.upDict k).pwr = s.pwr := rfl
@[simp] theorem upDict_met (k : Dict → Dict) : (s.upDict k).met = s.met := rfl
@[simp] theorem upDict_free (k : Dict → Dict) : (s.upDict k).free = s.free := rfl
@[simp] theorem upDict_pending (k : Dict → Dict) : (s.upDict k).pending = s.pending := rfl
@[simp] theorem upHost_clk (k : HostSt → HostSt) : (s.upHost k).clk = s.clk := rfl
@[simp] theorem upHost_clu (k : HostSt → HostSt) : (s.upHost k).clu = s.clu := rfl
@[simp] theorem upHost_tasks (k : HostSt → HostSt) : (s.upHost k).tasks = s.tasks := rfl
@[simp] theorem upHost_sto (k : HostSt → HostSt) : (s.upHost k).sto = s.sto := rfl
@[simp] theorem upHost_ldr (k : HostSt → HostSt) : (s.upHost k).ldr = s.ldr := rfl
@[simp] theorem upHost_csw (k : HostSt → HostSt) : (s.upHost k).csw = s.csw := rfl
@[simp] theorem upHost_fio (k : HostSt → HostSt) : (s.upHost k).fio = s.fio := rfl
@[simp] theorem upHost_net (k : HostSt → HostSt) : (s.upHost k).net = s.net := rfl
@[simp] theorem upHost_can (k : HostSt → HostSt) : (s.upHost k).can = s.can := rfl
@[simp] theorem upHost_dict (k : HostSt → HostSt) : (s.upHost k).dict = s.dict := rfl
@[simp] theorem upHost_host (k : HostSt → HostSt) : (s.upHost k).host = k s.host := rfl
@[simp] theorem upHost_wdg (k : HostSt → HostSt) : (s.upHost k).wdg = s.wdg := rfl
@[simp] theorem upHost_evr (k : HostSt → HostSt) : (s.upHost k).evr = s.evr := rfl
@[simp] theorem upHost_trc (k : HostSt → HostSt) : (s.upHost k).trc = s.trc := rfl
@[simp] theorem upHost_nvp (k : HostSt → HostSt) : (s.upHost k).nvp = s.nvp := rfl
@[simp] theorem upHost_fw (k : HostSt → HostSt) : (s.upHost k).fw = s.fw := rfl
@[simp] theorem upHost_rtc (k : HostSt → HostSt) : (s.upHost k).rtc = s.rtc := rfl
@[simp] theorem upHost_pwr (k : HostSt → HostSt) : (s.upHost k).pwr = s.pwr := rfl
@[simp] theorem upHost_met (k : HostSt → HostSt) : (s.upHost k).met = s.met := rfl
@[simp] theorem upHost_free (k : HostSt → HostSt) : (s.upHost k).free = s.free := rfl
@[simp] theorem upHost_pending (k : HostSt → HostSt) : (s.upHost k).pending = s.pending := rfl
@[simp] theorem upWdg_clk (k : Wdg → Wdg) : (s.upWdg k).clk = s.clk := rfl
@[simp] theorem upWdg_clu (k : Wdg → Wdg) : (s.upWdg k).clu = s.clu := rfl
@[simp] theorem upWdg_tasks (k : Wdg → Wdg) : (s.upWdg k).tasks = s.tasks := rfl
@[simp] theorem upWdg_sto (k : Wdg → Wdg) : (s.upWdg k).sto = s.sto := rfl
@[simp] theorem upWdg_ldr (k : Wdg → Wdg) : (s.upWdg k).ldr = s.ldr := rfl
@[simp] theorem upWdg_csw (k : Wdg → Wdg) : (s.upWdg k).csw = s.csw := rfl
@[simp] theorem upWdg_fio (k : Wdg → Wdg) : (s.upWdg k).fio = s.fio := rfl
@[simp] theorem upWdg_net (k : Wdg → Wdg) : (s.upWdg k).net = s.net := rfl
@[simp] theorem upWdg_can (k : Wdg → Wdg) : (s.upWdg k).can = s.can := rfl
@[simp] theorem upWdg_dict (k : Wdg → Wdg) : (s.upWdg k).dict = s.dict := rfl
@[simp] theorem upWdg_host (k : Wdg → Wdg) : (s.upWdg k).host = s.host := rfl
@[simp] theorem upWdg_wdg (k : Wdg → Wdg) : (s.upWdg k).wdg = k s.wdg := rfl
@[simp] theorem upWdg_evr (k : Wdg → Wdg) : (s.upWdg k).evr = s.evr := rfl
@[simp] theorem upWdg_trc (k : Wdg → Wdg) : (s.upWdg k).trc = s.trc := rfl
@[simp] theorem upWdg_nvp (k : Wdg → Wdg) : (s.upWdg k).nvp = s.nvp := rfl
@[simp] theorem upWdg_fw (k : Wdg → Wdg) : (s.upWdg k).fw = s.fw := rfl
@[simp] theorem upWdg_rtc (k : Wdg → Wdg) : (s.upWdg k).rtc = s.rtc := rfl
@[simp] theorem upWdg_pwr (k : Wdg → Wdg) : (s.upWdg k).pwr = s.pwr := rfl
@[simp] theorem upWdg_met (k : Wdg → Wdg) : (s.upWdg k).met = s.met := rfl
@[simp] theorem upWdg_free (k : Wdg → Wdg) : (s.upWdg k).free = s.free := rfl
@[simp] theorem upWdg_pending (k : Wdg → Wdg) : (s.upWdg k).pending = s.pending := rfl
@[simp] theorem upEvr_clk (k : Evr → Evr) : (s.upEvr k).clk = s.clk := rfl
@[simp] theorem upEvr_clu (k : Evr → Evr) : (s.upEvr k).clu = s.clu := rfl
@[simp] theorem upEvr_tasks (k : Evr → Evr) : (s.upEvr k).tasks = s.tasks := rfl
@[simp] theorem upEvr_sto (k : Evr → Evr) : (s.upEvr k).sto = s.sto := rfl
@[simp] theorem upEvr_ldr (k : Evr → Evr) : (s.upEvr k).ldr = s.ldr := rfl
@[simp] theorem upEvr_csw (k : Evr → Evr) : (s.upEvr k).csw = s.csw := rfl
@[simp] theorem upEvr_fio (k : Evr → Evr) : (s.upEvr k).fio = s.fio := rfl
@[simp] theorem upEvr_net (k : Evr → Evr) : (s.upEvr k).net = s.net := rfl
@[simp] theorem upEvr_can (k : Evr → Evr) : (s.upEvr k).can = s.can := rfl
@[simp] theorem upEvr_dict (k : Evr → Evr) : (s.upEvr k).dict = s.dict := rfl
@[simp] theorem upEvr_host (k : Evr → Evr) : (s.upEvr k).host = s.host := rfl
@[simp] theorem upEvr_wdg (k : Evr → Evr) : (s.upEvr k).wdg = s.wdg := rfl
@[simp] theorem upEvr_evr (k : Evr → Evr) : (s.upEvr k).evr = k s.evr := rfl
@[simp] theorem upEvr_trc (k : Evr → Evr) : (s.upEvr k).trc = s.trc := rfl
@[simp] theorem upEvr_nvp (k : Evr → Evr) : (s.upEvr k).nvp = s.nvp := rfl
@[simp] theorem upEvr_fw (k : Evr → Evr) : (s.upEvr k).fw = s.fw := rfl
@[simp] theorem upEvr_rtc (k : Evr → Evr) : (s.upEvr k).rtc = s.rtc := rfl
@[simp] theorem upEvr_pwr (k : Evr → Evr) : (s.upEvr k).pwr = s.pwr := rfl
@[simp] theorem upEvr_met (k : Evr → Evr) : (s.upEvr k).met = s.met := rfl
@[simp] theorem upEvr_free (k : Evr → Evr) : (s.upEvr k).free = s.free := rfl
@[simp] theorem upEvr_pending (k : Evr → Evr) : (s.upEvr k).pending = s.pending := rfl
@[simp] theorem upTrc_clk (k : Trc → Trc) : (s.upTrc k).clk = s.clk := rfl
@[simp] theorem upTrc_clu (k : Trc → Trc) : (s.upTrc k).clu = s.clu := rfl
@[simp] theorem upTrc_tasks (k : Trc → Trc) : (s.upTrc k).tasks = s.tasks := rfl
@[simp] theorem upTrc_sto (k : Trc → Trc) : (s.upTrc k).sto = s.sto := rfl
@[simp] theorem upTrc_ldr (k : Trc → Trc) : (s.upTrc k).ldr = s.ldr := rfl
@[simp] theorem upTrc_csw (k : Trc → Trc) : (s.upTrc k).csw = s.csw := rfl
@[simp] theorem upTrc_fio (k : Trc → Trc) : (s.upTrc k).fio = s.fio := rfl
@[simp] theorem upTrc_net (k : Trc → Trc) : (s.upTrc k).net = s.net := rfl
@[simp] theorem upTrc_can (k : Trc → Trc) : (s.upTrc k).can = s.can := rfl
@[simp] theorem upTrc_dict (k : Trc → Trc) : (s.upTrc k).dict = s.dict := rfl
@[simp] theorem upTrc_host (k : Trc → Trc) : (s.upTrc k).host = s.host := rfl
@[simp] theorem upTrc_wdg (k : Trc → Trc) : (s.upTrc k).wdg = s.wdg := rfl
@[simp] theorem upTrc_evr (k : Trc → Trc) : (s.upTrc k).evr = s.evr := rfl
@[simp] theorem upTrc_trc (k : Trc → Trc) : (s.upTrc k).trc = k s.trc := rfl
@[simp] theorem upTrc_nvp (k : Trc → Trc) : (s.upTrc k).nvp = s.nvp := rfl
@[simp] theorem upTrc_fw (k : Trc → Trc) : (s.upTrc k).fw = s.fw := rfl
@[simp] theorem upTrc_rtc (k : Trc → Trc) : (s.upTrc k).rtc = s.rtc := rfl
@[simp] theorem upTrc_pwr (k : Trc → Trc) : (s.upTrc k).pwr = s.pwr := rfl
@[simp] theorem upTrc_met (k : Trc → Trc) : (s.upTrc k).met = s.met := rfl
@[simp] theorem upTrc_free (k : Trc → Trc) : (s.upTrc k).free = s.free := rfl
@[simp] theorem upTrc_pending (k : Trc → Trc) : (s.upTrc k).pending = s.pending := rfl
@[simp] theorem upNvp_clk (k : Nvp → Nvp) : (s.upNvp k).clk = s.clk := rfl
@[simp] theorem upNvp_clu (k : Nvp → Nvp) : (s.upNvp k).clu = s.clu := rfl
@[simp] theorem upNvp_tasks (k : Nvp → Nvp) : (s.upNvp k).tasks = s.tasks := rfl
@[simp] theorem upNvp_sto (k : Nvp → Nvp) : (s.upNvp k).sto = s.sto := rfl
@[simp] theorem upNvp_ldr (k : Nvp → Nvp) : (s.upNvp k).ldr = s.ldr := rfl
@[simp] theorem upNvp_csw (k : Nvp → Nvp) : (s.upNvp k).csw = s.csw := rfl
@[simp] theorem upNvp_fio (k : Nvp → Nvp) : (s.upNvp k).fio = s.fio := rfl
@[simp] theorem upNvp_net (k : Nvp → Nvp) : (s.upNvp k).net = s.net := rfl
@[simp] theorem upNvp_can (k : Nvp → Nvp) : (s.upNvp k).can = s.can := rfl
@[simp] theorem upNvp_dict (k : Nvp → Nvp) : (s.upNvp k).dict = s.dict := rfl
@[simp] theorem upNvp_host (k : Nvp → Nvp) : (s.upNvp k).host = s.host := rfl
@[simp] theorem upNvp_wdg (k : Nvp → Nvp) : (s.upNvp k).wdg = s.wdg := rfl
@[simp] theorem upNvp_evr (k : Nvp → Nvp) : (s.upNvp k).evr = s.evr := rfl
@[simp] theorem upNvp_trc (k : Nvp → Nvp) : (s.upNvp k).trc = s.trc := rfl
@[simp] theorem upNvp_nvp (k : Nvp → Nvp) : (s.upNvp k).nvp = k s.nvp := rfl
@[simp] theorem upNvp_fw (k : Nvp → Nvp) : (s.upNvp k).fw = s.fw := rfl
@[simp] theorem upNvp_rtc (k : Nvp → Nvp) : (s.upNvp k).rtc = s.rtc := rfl
@[simp] theorem upNvp_pwr (k : Nvp → Nvp) : (s.upNvp k).pwr = s.pwr := rfl
@[simp] theorem upNvp_met (k : Nvp → Nvp) : (s.upNvp k).met = s.met := rfl
@[simp] theorem upNvp_free (k : Nvp → Nvp) : (s.upNvp k).free = s.free := rfl
@[simp] theorem upNvp_pending (k : Nvp → Nvp) : (s.upNvp k).pending = s.pending := rfl
@[simp] theorem upFw_clk (k : Fw → Fw) : (s.upFw k).clk = s.clk := rfl
@[simp] theorem upFw_clu (k : Fw → Fw) : (s.upFw k).clu = s.clu := rfl
@[simp] theorem upFw_tasks (k : Fw → Fw) : (s.upFw k).tasks = s.tasks := rfl
@[simp] theorem upFw_sto (k : Fw → Fw) : (s.upFw k).sto = s.sto := rfl
@[simp] theorem upFw_ldr (k : Fw → Fw) : (s.upFw k).ldr = s.ldr := rfl
@[simp] theorem upFw_csw (k : Fw → Fw) : (s.upFw k).csw = s.csw := rfl
@[simp] theorem upFw_fio (k : Fw → Fw) : (s.upFw k).fio = s.fio := rfl
@[simp] theorem upFw_net (k : Fw → Fw) : (s.upFw k).net = s.net := rfl
@[simp] theorem upFw_can (k : Fw → Fw) : (s.upFw k).can = s.can := rfl
@[simp] theorem upFw_dict (k : Fw → Fw) : (s.upFw k).dict = s.dict := rfl
@[simp] theorem upFw_host (k : Fw → Fw) : (s.upFw k).host = s.host := rfl
@[simp] theorem upFw_wdg (k : Fw → Fw) : (s.upFw k).wdg = s.wdg := rfl
@[simp] theorem upFw_evr (k : Fw → Fw) : (s.upFw k).evr = s.evr := rfl
@[simp] theorem upFw_trc (k : Fw → Fw) : (s.upFw k).trc = s.trc := rfl
@[simp] theorem upFw_nvp (k : Fw → Fw) : (s.upFw k).nvp = s.nvp := rfl
@[simp] theorem upFw_fw (k : Fw → Fw) : (s.upFw k).fw = k s.fw := rfl
@[simp] theorem upFw_rtc (k : Fw → Fw) : (s.upFw k).rtc = s.rtc := rfl
@[simp] theorem upFw_pwr (k : Fw → Fw) : (s.upFw k).pwr = s.pwr := rfl
@[simp] theorem upFw_met (k : Fw → Fw) : (s.upFw k).met = s.met := rfl
@[simp] theorem upFw_free (k : Fw → Fw) : (s.upFw k).free = s.free := rfl
@[simp] theorem upFw_pending (k : Fw → Fw) : (s.upFw k).pending = s.pending := rfl
@[simp] theorem upRtc_clk (k : Rtc → Rtc) : (s.upRtc k).clk = s.clk := rfl
@[simp] theorem upRtc_clu (k : Rtc → Rtc) : (s.upRtc k).clu = s.clu := rfl
@[simp] theorem upRtc_tasks (k : Rtc → Rtc) : (s.upRtc k).tasks = s.tasks := rfl
@[simp] theorem upRtc_sto (k : Rtc → Rtc) : (s.upRtc k).sto = s.sto := rfl
@[simp] theorem upRtc_ldr (k : Rtc → Rtc) : (s.upRtc k).ldr = s.ldr := rfl
@[simp] theorem upRtc_csw (k : Rtc → Rtc) : (s.upRtc k).csw = s.csw := rfl
@[simp] theorem upRtc_fio (k : Rtc → Rtc) : (s.upRtc k).fio = s.fio := rfl
@[simp] theorem upRtc_net (k : Rtc → Rtc) : (s.upRtc k).net = s.net := rfl
@[simp] theorem upRtc_can (k : Rtc → Rtc) : (s.upRtc k).can = s.can := rfl
@[simp] theorem upRtc_dict (k : Rtc → Rtc) : (s.upRtc k).dict = s.dict := rfl
@[simp] theorem upRtc_host (k : Rtc → Rtc) : (s.upRtc k).host = s.host := rfl
@[simp] theorem upRtc_wdg (k : Rtc → Rtc) : (s.upRtc k).wdg = s.wdg := rfl
@[simp] theorem upRtc_evr (k : Rtc → Rtc) : (s.upRtc k).evr = s.evr := rfl
@[simp] theorem upRtc_trc (k : Rtc → Rtc) : (s.upRtc k).trc = s.trc := rfl
@[simp] theorem upRtc_nvp (k : Rtc → Rtc) : (s.upRtc k).nvp = s.nvp := rfl
@[simp] theorem upRtc_fw (k : Rtc → Rtc) : (s.upRtc k).fw = s.fw := rfl
@[simp] theorem upRtc_rtc (k : Rtc → Rtc) : (s.upRtc k).rtc = k s.rtc := rfl
@[simp] theorem upRtc_pwr (k : Rtc → Rtc) : (s.upRtc k).pwr = s.pwr := rfl
@[simp] theorem upRtc_met (k : Rtc → Rtc) : (s.upRtc k).met = s.met := rfl
@[simp] theorem upRtc_free (k : Rtc → Rtc) : (s.upRtc k).free = s.free := rfl
@[simp] theorem upRtc_pending (k : Rtc → Rtc) : (s.upRtc k).pending = s.pending := rfl
@[simp] theorem upPwr_clk (k : Pwr → Pwr) : (s.upPwr k).clk = s.clk := rfl
@[simp] theorem upPwr_clu (k : Pwr → Pwr) : (s.upPwr k).clu = s.clu := rfl
@[simp] theorem upPwr_tasks (k : Pwr → Pwr) : (s.upPwr k).tasks = s.tasks := rfl
@[simp] theorem upPwr_sto (k : Pwr → Pwr) : (s.upPwr k).sto = s.sto := rfl
@[simp] theorem upPwr_ldr (k : Pwr → Pwr) : (s.upPwr k).ldr = s.ldr := rfl
@[simp] theorem upPwr_csw (k : Pwr → Pwr) : (s.upPwr k).csw = s.csw := rfl
@[simp] theorem upPwr_fio (k : Pwr → Pwr) : (s.upPwr k).fio = s.fio := rfl
@[simp] theorem upPwr_net (k : Pwr → Pwr) : (s.upPwr k).net = s.net := rfl
@[simp] theorem upPwr_can (k : Pwr → Pwr) : (s.upPwr k).can = s.can := rfl
@[simp] theorem upPwr_dict (k : Pwr → Pwr) : (s.upPwr k).dict = s.dict := rfl
@[simp] theorem upPwr_host (k : Pwr → Pwr) : (s.upPwr k).host = s.host := rfl
@[simp] theorem upPwr_wdg (k : Pwr → Pwr) : (s.upPwr k).wdg = s.wdg := rfl
@[simp] theorem upPwr_evr (k : Pwr → Pwr) : (s.upPwr k).evr = s.evr := rfl
@[simp] theorem upPwr_trc (k : Pwr → Pwr) : (s.upPwr k).trc = s.trc := rfl
@[simp] theorem upPwr_nvp (k : Pwr → Pwr) : (s.upPwr k).nvp = s.nvp := rfl
@[simp] theorem upPwr_fw (k : Pwr → Pwr) : (s.upPwr k).fw = s.fw := rfl
@[simp] theorem upPwr_rtc (k : Pwr → Pwr) : (s.upPwr k).rtc = s.rtc := rfl
@[simp] theorem upPwr_pwr (k : Pwr → Pwr) : (s.upPwr k).pwr = k s.pwr := rfl
@[simp] theorem upPwr_met (k : Pwr → Pwr) : (s.upPwr k).met = s.met := rfl
@[simp] theorem upPwr_free (k : Pwr → Pwr) : (s.upPwr k).free = s.free := rfl
@[simp] theorem upPwr_pending (k : Pwr → Pwr) : (s.upPwr k).pending = s.pending := rfl
@[simp] theorem upMet_clk (k : Met → Met) : (s.upMet k).clk = s.clk := rfl
@[simp] theorem upMet_clu (k : Met → Met) : (s.upMet k).clu = s.clu := rfl
@[simp] theorem upMet_tasks (k : Met → Met) : (s.upMet k).tasks = s.tasks := rfl
@[simp] theorem upMet_sto (k : Met → Met) : (s.upMet k).sto = s.sto := rfl
@[simp] theorem upMet_ldr (k : Met → Met) : (s.upMet k).ldr = s.ldr := rfl
@[simp] theorem upMet_csw (k : Met → Met) : (s.upMet k).csw = s.csw := rfl
@[simp] theorem upMet_fio (k : Met → Met) : (s.upMet k).fio = s.fio := rfl
@[simp] theorem upMet_net (k : Met → Met) : (s.upMet k).net = s.net := rfl
@[simp] theorem upMet_can (k : Met → Met) : (s.upMet k).can = s.can := rfl
@[simp] theorem upMet_dict (k : Met → Met) : (s.upMet k).dict = s.dict := rfl
@[simp] theorem upMet_host (k : Met → Met) : (s.upMet k).host = s.host := rfl
@[simp] theorem upMet_wdg (k : Met → Met) : (s.upMet k).wdg = s.wdg := rfl
@[simp] theorem upMet_evr (k : Met → Met) : (s.upMet k).evr = s.evr := rfl
@[simp] theorem upMet_trc (k : Met → Met) : (s.upMet k).trc = s.trc := rfl
@[simp] theorem upMet_nvp (k : Met → Met) : (s.upMet k).nvp = s.nvp := rfl
@[simp] theorem upMet_fw (k : Met → Met) : (s.upMet k).fw = s.fw := rfl
@[simp] theorem upMet_rtc (k : Met → Met) : (s.upMet k).rtc = s.rtc := rfl
@[simp] theorem upMet_pwr (k : Met → Met) : (s.upMet k).pwr = s.pwr := rfl
@[simp] theorem upMet_met (k : Met → Met) : (s.upMet k).met = k s.met := rfl
@[simp] theorem upMet_free (k : Met → Met) : (s.upMet k).free = s.free := rfl
@[simp] theorem upMet_pending (k : Met → Met) : (s.upMet k).pending = s.pending := rfl
@[simp] theorem upFree_clk (k : Nat → Nat) : (s.upFree k).clk = s.clk := rfl
@[simp] theorem upFree_clu (k : Nat → Nat) : (s.upFree k).clu = s.clu := rfl
@[simp] theorem upFree_tasks (k : Nat → Nat) : (s.upFree k).tasks = s.tasks := rfl
@[simp] theorem upFree_sto (k : Nat → Nat) : (s.upFree k).sto = s.sto := rfl
@[simp] theorem upFree_ldr (k : Nat → Nat) : (s.upFree k).ldr = s.ldr := rfl
@[simp] theorem upFree_csw (k : Nat → Nat) : (s.upFree k).csw = s.csw := rfl
@[simp] theorem upFree_fio (k : Nat → Nat) : (s.upFree k).fio = s.fio := rfl
@[simp] theorem upFree_net (k : Nat → Nat) : (s.upFree k).net = s.net := rfl
@[simp] theorem upFree_can (k : Nat → Nat) : (s.upFree k).can = s.can := rfl
@[simp] theorem upFree_dict (k : Nat → Nat) : (s.upFree k).dict = s.dict := rfl
@[simp] theorem upFree_host (k : Nat → Nat) : (s.upFree k).host = s.host := rfl
@[simp] theorem upFree_wdg (k : Nat → Nat) : (s.upFree k).wdg = s.wdg := rfl
@[simp] theorem upFree_evr (k : Nat → Nat) : (s.upFree k).evr = s.evr := rfl
@[simp] theorem upFree_trc (k : Nat → Nat) : (s.upFree k).trc = s.trc := rfl
@[simp] theorem upFree_nvp (k : Nat → Nat) : (s.upFree k).nvp = s.nvp := rfl
@[simp] theorem upFree_fw (k : Nat → Nat) : (s.upFree k).fw = s.fw := rfl
@[simp] theorem upFree_rtc (k : Nat → Nat) : (s.upFree k).rtc = s.rtc := rfl
@[simp] theorem upFree_pwr (k : Nat → Nat) : (s.upFree k).pwr = s.pwr := rfl
@[simp] theorem upFree_met (k : Nat → Nat) : (s.upFree k).met = s.met := rfl
@[simp] theorem upFree_free (k : Nat → Nat) : (s.upFree k).free = k s.free := rfl
@[simp] theorem upFree_pending (k : Nat → Nat) : (s.upFree k).pending = s.pending := rfl
@[simp] theorem upPending_clk (k : List Instr → List Instr) : (s.upPending k).clk = s.clk := rfl
@[simp] theorem upPending_clu (k : List Instr → List Instr) : (s.upPending k).clu = s.clu := rfl
@[simp] theorem upPending_tasks (k : List Instr → List Instr) : (s.upPending k).tasks = s.tasks := rfl
@[simp] theorem upPending_sto (k : List Instr → List Instr) : (s.upPending k).sto = s.sto := rfl
@[simp] theorem upPending_ldr (k : List Instr → List Instr) : (s.upPending k).ldr = s.ldr := rfl
@[simp] theorem upPending_csw (k : List Instr → List Instr) : (s.upPending k).csw = s.csw := rfl
@[simp] theorem upPending_fio (k : List Instr → List Instr) : (s.upPending k).fio = s.fio := rfl
@[simp] theorem upPending_net (k : List Instr → List Instr) : (s.upPending k).net = s.net := rfl
@[simp] theorem upPending_can (k : List Instr → List Instr) : (s.upPending k).can = s.can := rfl
@[simp] theorem upPending_dict (k : List Instr → List Instr) : (s.upPending k).dict = s.dict := rfl
@[simp] theorem upPending_host (k : List Instr → List Instr) : (s.upPending k).host = s.host := rfl
@[simp] theorem upPending_wdg (k : List Instr → List Instr) : (s.upPending k).wdg = s.wdg := rfl
@[simp] theorem upPending_evr (k : List Instr → List Instr) : (s.upPending k).evr = s.evr := rfl
@[simp] theorem upPending_trc (k : List Instr → List Instr) : (s.upPending k).trc = s.trc := rfl
@[simp] theorem upPending_nvp (k : List Instr → List Instr) : (s.upPending k).nvp = s.nvp := rfl
@[simp] theorem upPending_fw (k : List Instr → List Instr) : (s.upPending k).fw = s.fw := rfl
@[simp] theorem upPending_rtc (k : List Instr → List Instr) : (s.upPending k).rtc = s.rtc := rfl
@[simp] theorem upPending_pwr (k : List Instr → List Instr) : (s.upPending k).pwr = s.pwr := rfl
@[simp] theorem upPending_met (k : List Instr → List Instr) : (s.upPending k).met = s.met := rfl
@[simp] theorem upPending_free (k : List Instr → List Instr) : (s.upPending k).free = s.free := rfl
@[simp] theorem upPending_pending (k : List Instr → List Instr) : (s.upPending k).pending = k s.pending := rfl

end Sys2Proof.Machine.State
end

