-- ==== Sys2Proof/Laws/Keep.lean ====
section
/-! SUPPORT. `Keep o s`: what no operation may break on the way from state `o` to state `s` — memories in canonical form, the bounds of the recorder's queue, of the interrupt counters and of the audit trail, blown fuses, the trail and its event counter, the sealed entries and the queue of commands. One lemma per update of State; the files Keep<File> hold one lemma per operation. -/

set_option Elab.async false
set_option linter.all false

namespace Sys2Proof.Machine

open Sys2Proof

/-- The part of the partition that no operation but an adjustment may change, from `a` to `b`. -/
structure MetKeep (a b : Met) : Prop where
  audit : a.audit <+: b.audit
  bound : a.audit.length ≤ 1024 → b.audit.length ≤ 1024
  events : a.events ≤ b.events
  cal : ∀ c, b.cal c = a.cal c

/-- What no operation breaks from `o` to `s`, whatever parts it touches. -/
structure Guard (o s : State) : Prop where
  sto : o.sto.wf ∧ o.ldr.conv.wf = true → s.sto.wf ∧ s.ldr.conv.wf = true
  queue : o.evr.queue.length ≤ 64 → s.evr.queue.length ≤ 64
  counts : o.host.countsOk → s.host.countsOk
  fuses : o.dict.fuses &&& s.dict.fuses = o.dict.fuses
  audit : o.met.audit <+: s.met.audit
  bound : o.met.audit.length ≤ 1024 → s.met.audit.length ≤ 1024
  events : o.met.events ≤ s.met.events
  cal : o.met.sealed = true → ∀ c, s.met.cal c = o.met.cal c

/-- From `o` to `s` nothing of `Guard` is broken and no part outside `L` has changed. -/
structure Keep (L : Parts) (o s : State) : Prop where
  guard : Guard o s
  frame : Frame L o s

variable {L : Parts}

theorem Keep.refl (s : State) : Keep L s s where
  guard :=
    { sto := id, queue := id, counts := id, fuses := by simp, audit := List.prefix_refl _, bound := id, events := Nat.le_refl _,
      cal := fun _ _ => rfl }
  frame := by constructor <;> intros <;> rfl

/-- A regular state stays regular. -/
theorem Guard.regular {o s : State} (h : Guard o s) (r : o.regular) : s.regular :=
  ⟨(h.sto ⟨r.sto, r.conv⟩).1, (h.sto ⟨r.sto, r.conv⟩).2, h.queue r.queue, h.counts r.counts, h.bound r.audit⟩

theorem MetKeep.same {a b : Met} (h1 : b.audit = a.audit) (h2 : b.events = a.events) (h3 : b.chans = a.chans) : MetKeep a b where
  audit := ⟨[], by rw [h1, List.append_nil]⟩
  bound := by rw [h1]; exact id
  events := Nat.le_of_eq h2.symm
  cal := fun c => by unfold Met.cal; rw [h3]

theorem touched {b : Bool} {p : Prop} (l : b = true) (e : b = false) : p := by rw [l] at e; cases e

theorem fuse_or : ∀ a b f : BitVec 4, a &&& b = a → a &&& (b ||| f) = a := by decide

theorem aput_mem {β : Type} (k : Nat) (v : β) (c : Nat × β) : ∀ l : List (Nat × β), c ∈ aput k v l → c = (k, v) ∨ c ∈ l
  | [], h => .inl (by simpa [aput] using h)
  | (i, x) :: t, h => by
    unfold aput at h
    split at h
    · exact (List.mem_cons.mp h).imp id id
    · split at h
      · exact (List.mem_cons.mp h).imp id (List.mem_cons_of_mem _)
      · rcases List.mem_cons.mp h with rfl | h
        · exact .inr (List.mem_cons_self ..)
        · exact (aput_mem k v c t h).imp id (List.mem_cons_of_mem _)

theorem aputd_mem {β : Type} [DecidableEq β] (d : β) (l : List (Nat × β)) (k : Nat) (v : β) (c : Nat × β) (h : c ∈ aputd d l k v) :
    c = (k, v) ∨ c ∈ l := by
  unfold aputd at h
  split at h
  · exact .inr (List.mem_filter.mp h).1
  · exact aput_mem k v c l h

theorem insertBy_length {α : Type} (key : α → Nat) (x : α) : ∀ l : List α, (insertBy key x l).length = l.length + 1
  | [] => rfl
  | y :: t => by unfold insertBy; split <;> simp [insertBy_length key x t]

/-- A sort loses and adds nothing. -/
theorem sortBy_length {α : Type} (key : α → Nat) (l : List α) : (sortBy key l).length = l.length := by
  have h : ∀ (l acc : List α), (l.foldl (fun acc x => insertBy key x acc) acc).length = acc.length + l.length := by
    intro l
    induction l with
    | nil => simp
    | cons x t ih => intro acc; rw [List.foldl_cons, ih, insertBy_length, List.length_cons]; omega
  simpa [sortBy] using h l []

/-- Putting the last occurrences in order leaves the queue its length. -/
theorem Evr.sortTail_length (e : Evr) (p : Occ → Bool) : (e.sortTail p).queue.length = e.queue.length := by
  simp [Evr.sortTail, sortBy_length]

theorem Evr.sortTail_le {e : Evr} {p : Occ → Bool} (h : e.queue.length ≤ 64) : (e.sortTail p).queue.length ≤ 64 := by
  rw [Evr.sortTail_length]; exact h

namespace Keep

variable {o s : State}

theorem upClk (h : Keep L o s) (k) (l : L.clk = true := by first | rfl | assumption) : Keep L o (s.upClk k) :=
  ⟨⟨h.1.1, h.1.2, h.1.3, h.1.4, h.1.5, h.1.6, h.1.7, h.1.8⟩, { h.2 with clk := touched l }⟩
theorem upClu (h : Keep L o s) (k) (l : L.clu = true := by first | rfl | assumption) : Keep L o (s.upClu k) :=
  ⟨⟨h.1.1, h.1.2, h.1.3, h.1.4, h.1.5, h.1.6, h.1.7, h.1.8⟩, { h.2 with clu := touched l }⟩
theorem upTasks (h : Keep L o s) (k) (l : L.tasks = true := by first | rfl | assumption) : Keep L o (s.upTasks k) :=
  ⟨⟨h.1.1, h.1.2, h.1.3, h.1.4, h.1.5, h.1.6, h.1.7, h.1.8⟩, { h.2 with tasks := touched l }⟩
theorem upCsw (h : Keep L o s) (k) (l : L.csw = true := by first | rfl | assumption) : Keep L o (s.upCsw k) :=
  ⟨⟨h.1.1, h.1.2, h.1.3, h.1.4, h.1.5, h.1.6, h.1.7, h.1.8⟩, { h.2 with csw := touched l }⟩
theorem upFio (h : Keep L o s) (k) (l : L.fio = true := by first | rfl | assumption) : Keep L o (s.upFio k) :=
  ⟨⟨h.1.1, h.1.2, h.1.3, h.1.4, h.1.5, h.1.6, h.1.7, h.1.8⟩, { h.2 with fio := touched l }⟩
theorem upNet (h : Keep L o s) (k) (l : L.net = true := by first | rfl | assumption) : Keep L o (s.upNet k) :=
  ⟨⟨h.1.1, h.1.2, h.1.3, h.1.4, h.1.5, h.1.6, h.1.7, h.1.8⟩, { h.2 with net := touched l }⟩
theorem upCan (h : Keep L o s) (k) (l : L.can = true := by first | rfl | assumption) : Keep L o (s.upCan k) :=
  ⟨⟨h.1.1, h.1.2, h.1.3, h.1.4, h.1.5, h.1.6, h.1.7, h.1.8⟩, { h.2 with can := touched l }⟩
theorem upWdg (h : Keep L o s) (k) (l : L.wdg = true := by first | rfl | assumption) : Keep L o (s.upWdg k) :=
  ⟨⟨h.1.1, h.1.2, h.1.3, h.1.4, h.1.5, h.1.6, h.1.7, h.1.8⟩, { h.2 with wdg := touched l }⟩
theorem upTrc (h : Keep L o s) (k) (l : L.trc = true := by first | rfl | assumption) : Keep L o (s.upTrc k) :=
  ⟨⟨h.1.1, h.1.2, h.1.3, h.1.4, h.1.5, h.1.6, h.1.7, h.1.8⟩, { h.2 with trc := touched l }⟩
theorem upNvp (h : Keep L o s) (k) (l : L.nvp = true := by first | rfl | assumption) : Keep L o (s.upNvp k) :=
  ⟨⟨h.1.1, h.1.2, h.1.3, h.1.4, h.1.5, h.1.6, h.1.7, h.1.8⟩, { h.2 with nvp := touched l }⟩
theorem upFw (h : Keep L o s) (k) (l : L.fw = true := by first | rfl | assumption) : Keep L o (s.upFw k) :=
  ⟨⟨h.1.1, h.1.2, h.1.3, h.1.4, h.1.5, h.1.6, h.1.7, h.1.8⟩, { h.2 with fw := touched l }⟩
theorem upRtc (h : Keep L o s) (k) (l : L.rtc = true := by first | rfl | assumption) : Keep L o (s.upRtc k) :=
  ⟨⟨h.1.1, h.1.2, h.1.3, h.1.4, h.1.5, h.1.6, h.1.7, h.1.8⟩, { h.2 with rtc := touched l }⟩
theorem upPwr (h : Keep L o s) (k) (l : L.pwr = true := by first | rfl | assumption) : Keep L o (s.upPwr k) :=
  ⟨⟨h.1.1, h.1.2, h.1.3, h.1.4, h.1.5, h.1.6, h.1.7, h.1.8⟩, { h.2 with pwr := touched l }⟩
theorem upFree (h : Keep L o s) (k) (l : L.free = true := by first | rfl | assumption) : Keep L o (s.upFree k) :=
  ⟨⟨h.1.1, h.1.2, h.1.3, h.1.4, h.1.5, h.1.6, h.1.7, h.1.8⟩, { h.2 with free := touched l }⟩

/-- An update of the stores that keeps their memories in canonical form. -/
theorem upSto (h : Keep L o s) {k : Store → Store} (hk : s.sto.wf → (k s.sto).wf) (l : L.sto = true := by first | rfl | assumption) : Keep L o (s.upSto k) :=
  ⟨⟨fun x => ⟨hk (h.1.1 x).1, (h.1.1 x).2⟩, h.1.2, h.1.3, h.1.4, h.1.5, h.1.6, h.1.7, h.1.8⟩, { h.2 with sto := touched l }⟩

/-- An update of the stores that takes something known of the state it began from. -/
theorem upStoWith (h : Keep L o s) {p : Prop} (hp : o.sto.wf ∧ o.ldr.conv.wf = true → p) {k : Store → Store}
    (hk : p → s.sto.wf → (k s.sto).wf) (l : L.sto = true := by first | rfl | assumption) : Keep L o (s.upSto k) :=
  ⟨⟨fun x => ⟨hk (hp x) (h.1.1 x).1, (h.1.1 x).2⟩, h.1.2, h.1.3, h.1.4, h.1.5, h.1.6, h.1.7, h.1.8⟩, { h.2 with sto := touched l }⟩

/-- An update of the loader that keeps the converted state in canonical form. -/
theorem upLdr (h : Keep L o s) {k : Loader → Loader} (hk : s.ldr.conv.wf = true → (k s.ldr).conv.wf = true) (l : L.ldr = true := by first | rfl | assumption) : Keep L o (s.upLdr k) :=
  ⟨⟨fun x => ⟨(h.1.1 x).1, hk (h.1.1 x).2⟩, h.1.2, h.1.3, h.1.4, h.1.5, h.1.6, h.1.7, h.1.8⟩, { h.2 with ldr := touched l }⟩

/-- An update of the recorder that does not lengthen its queue beyond 64. -/
theorem upEvr (h : Keep L o s) {k : Evr → Evr} (hk : s.evr.queue.length ≤ 64 → (k s.evr).queue.length ≤ 64) (l : L.evr = true := by first | rfl | assumption) : Keep L o (s.upEvr k) :=
  ⟨⟨h.1.1, fun x => hk (h.1.2 x), h.1.3, h.1.4, h.1.5, h.1.6, h.1.7, h.1.8⟩, { h.2 with evr := touched l }⟩

/-- An update of the register block that keeps its interrupt counters within a byte. -/
theorem upHost (h : Keep L o s) {k : HostSt → HostSt} (hk : s.host.countsOk → (k s.host).countsOk) (l : L.host = true := by first | rfl | assumption)
    (r : L.role = true ∨ (k s.host).roleNext = s.host.roleNext := by first | exact .inr rfl | exact .inl (by assumption)) : Keep L o (s.upHost k) :=
  ⟨⟨h.1.1, h.1.2, fun x => hk (h.1.3 x), h.1.4, h.1.5, h.1.6, h.1.7, h.1.8⟩, { h.2 with host := touched l, role := fun e => (r.resolve_left (fun x => touched x e)).trans (h.2.role e) }⟩

/-- An update of the dictionary that leaves its fuses alone. -/
theorem upDict (h : Keep L o s) {k : Dict → Dict} (hk : (k s.dict).fuses = s.dict.fuses) (l : L.dict = true := by first | rfl | assumption) : Keep L o (s.upDict k) :=
  ⟨⟨h.1.1, h.1.2, h.1.3, by show o.dict.fuses &&& (k s.dict).fuses = _; rw [hk]; exact h.1.4, h.1.5, h.1.6, h.1.7, h.1.8⟩, { h.2 with dict := touched l }⟩

/-- An update of the dictionary that blows a fuse. -/
theorem upFuses (h : Keep L o s) {k : Dict → Dict} (f : BitVec 4) (hk : (k s.dict).fuses = s.dict.fuses ||| f) (l : L.dict = true := by first | rfl | assumption) : Keep L o (s.upDict k) :=
  ⟨⟨h.1.1, h.1.2, h.1.3, by
    show o.dict.fuses &&& (k s.dict).fuses = _
    rw [hk]
    exact fuse_or _ _ _ h.1.4, h.1.5, h.1.6, h.1.7, h.1.8⟩, { h.2 with dict := touched l }⟩

/-- An update of the partition that is no adjustment. -/
theorem upMet (h : Keep L o s) {k : Met → Met} (hk : MetKeep s.met (k s.met)) (l : L.met = true := by first | rfl | assumption) : Keep L o (s.upMet k) :=
  ⟨⟨h.1.1, h.1.2, h.1.3, h.1.4, h.1.5.trans hk.1, fun x => hk.2 (h.1.6 x), Nat.le_trans h.1.7 hk.3,
    fun x c => (hk.4 c).trans (h.1.8 x c)⟩, { h.2 with met := touched l }⟩

/-- A command's effect: the counters see the edges. -/
theorem countEdges (a : State) (h : Keep L o s) : Keep L o (Machine.countEdges a s) := by
  refine ⟨⟨h.1.1, h.1.2, ?_, h.1.4, h.1.5, h.1.6, h.1.7, h.1.8⟩, { h.2 with host := h.2.host, role := h.2.role }⟩
  intro hc
  replace hc := h.1.3 hc
  have key : ∀ (l : List Nat) (acc : List (Nat × Nat)), (∀ c ∈ acc, c.2 ≤ 255) → ∀ c ∈ l.foldl (fun acc i =>
      if sourceUsed i && s.countLine i && !a.countLine i then
        aputd 0 acc i (satAdd 255 ((aget acc i).getD 0) 1)
      else acc) acc, c.2 ≤ 255 := by
    intro l
    induction l with
    | nil => exact fun _ h => h
    | cons i t ih =>
      intro acc hacc
      refine ih _ ?_
      dsimp only
      split
      · intro c hm
        rcases aputd_mem _ _ _ _ _ hm with rfl | hm
        · exact Nat.min_le_left _ _
        · exact hacc c hm
      · exact hacc
  exact key _ _ hc

/-- The answer of a command. -/
theorem commit {a t : State} (h : Keep L o s) (hx : Machine.commit a s = .next t) : Keep L o t := by
  unfold Machine.commit at hx
  cases hx
  exact h.countEdges a

/-- The answer of a command that has counted its edges. -/
theorem next {a t : State} (h : Keep L o a) (hx : (Host.Outcome.next a : Host.Outcome State Fault Refusal) = .next t) : Keep L o t := by
  cases hx
  exact h

/-- A choice between two states. -/
theorem ite {c : Prop} [Decidable c] {a b : State} (ha : Keep L o a) (hb : Keep L o b) : Keep L o (if c then a else b) := by
  split <;> assumption

/-- A choice between two pairs that end in a state. -/
theorem ite2 {α : Type} {c : Prop} [Decidable c] {a b : α × State} (ha : Keep L o a.2) (hb : Keep L o b.2) :
    Keep L o (if c then a else b).2 := by
  split <;> assumption

/-- A choice between two pairs that begin with a state. -/
theorem ite1 {α : Type} {c : Prop} [Decidable c] {a b : State × α} (ha : Keep L o a.1) (hb : Keep L o b.1) :
    Keep L o (if c then a else b).1 := by
  split <;> assumption

/-- A fold of operations that keep it. -/
theorem foldl {α : Type} {f : State → α → State} (hf : ∀ s x, Keep L o s → Keep L o (f s x)) :
    ∀ (l : List α) {s : State}, Keep L o s → Keep L o (l.foldl f s)
  | [], _, h => h
  | x :: t, _, h => foldl hf t (hf _ x h)

/-- A fold over pairs that begin with a state. -/
theorem foldl1 {α β : Type} {f : State × β → α → State × β} (hf : ∀ s b x, Keep L o s → Keep L o (f (s, b) x).1) :
    ∀ (l : List α) {p : State × β}, Keep L o p.1 → Keep L o (l.foldl f p).1
  | [], _, h => h
  | x :: t, (s, b), h => foldl1 hf t (hf s b x h)

/-- A fold over pairs that end in a state. -/
theorem foldl2 {α β : Type} {f : β × State → α → β × State} (hf : ∀ s b x, Keep L o s → Keep L o (f (b, s) x).2) :
    ∀ (l : List α) {p : β × State}, Keep L o p.2 → Keep L o (l.foldl f p).2
  | [], _, h => h
  | x :: t, (b, s), h => foldl2 hf t (hf s b x h)

/-- The state in a pair that is known to be another expression. -/
theorem of_eq1 {α : Type} {p : State × α} {x : α} (h : Keep L o p.1) (e : p = (s, x)) : Keep L o s := by subst e; exact h

/-- The state in a pair that is known to be another expression. -/
theorem of_eq2 {α : Type} {p : α × State} {x : α} (h : Keep L o p.2) (e : p = (x, s)) : Keep L o s := by subst e; exact h

end Keep

/-- A block's answer to a write keeps it where it carries a state. -/
def WriteAns.Kept (L : Parts) (o : State) : WriteAns → Prop
  | .refused _ => True
  | .refusedIn _ s => Keep L o s
  | .done s => Keep L o s

theorem refused_kept {o : State} (f : Nat) : WriteAns.Kept L o (.refused f) := trivial
theorem refusedIn_kept {o s : State} (h : Keep L o s) (f : Nat) : WriteAns.Kept L o (.refusedIn f s) := h
theorem done_kept {o s : State} (h : Keep L o s) : WriteAns.Kept L o (.done s) := h

theorem ite_kept {o : State} {c : Prop} [Decidable c] {a b : WriteAns} (ha : a.Kept L o) (hb : b.Kept L o) : WriteAns.Kept L o (if c then a else b) := by
  split <;> assumption

theorem needPriv_kept {o : State} {k : WriteAns} (h : k.Kept L o) (p : Bool) : WriteAns.Kept L o (needPriv p k) := by
  cases p
  · trivial
  · exact h

theorem needOpen_kept {o : State} {k : WriteAns} (h : k.Kept L o) (p : Bool) : WriteAns.Kept L o (needOpen p k) := by
  cases p
  · trivial
  · exact h

theorem needLegal_kept {o : State} {k : WriteAns} (h : k.Kept L o) (p : Bool) : WriteAns.Kept L o (needLegal p k) := by
  cases p
  · trivial
  · exact h

end Sys2Proof.Machine
end

