-- ==== Sys2Proof/Laws/KeepOps.lean ====
section
/-! SUPPORT. What each operation of Machine/Ops.lean keeps (Laws/Keep.lean). -/

set_option Elab.async false
set_option linter.all false

namespace Sys2Proof.Machine

open Sys2Proof

set_option linter.unusedVariables false
set_option linter.tactic.unusedName false

variable {L : Parts}

theorem State.upTask_keep {o₀ s : State} (hK : Keep L o₀ s) (t : Nat) (k : TaskSt → TaskSt) (lTasks : L.tasks = true := by first | rfl | assumption) : Keep L o₀ (State.upTask s t k) := by
  unfold State.upTask
  repeat' (first
    | with_reducible assumption
    | with_reducible apply Keep.upTasks
    | with_reducible apply Keep.ite
    | split)

theorem State.upLane_keep {o₀ s : State} (hK : Keep L o₀ s) (l : Nat) (k : Lane → Lane) (lClu : L.clu = true := by first | rfl | assumption) : Keep L o₀ (State.upLane s l k) := by
  unfold State.upLane
  repeat' (first
    | with_reducible assumption
    | with_reducible apply Keep.upClu
    | with_reducible apply Keep.ite
    | split)

theorem State.upChan_keep {o₀ s : State} (hK : Keep L o₀ s) (c : Nat) (k : Chan → Chan) (lFio : L.fio = true := by first | rfl | assumption) : Keep L o₀ (State.upChan s c k) := by
  unfold State.upChan
  repeat' (first
    | with_reducible assumption
    | with_reducible apply Keep.upFio
    | with_reducible apply Keep.ite
    | split)

theorem State.upGroup_keep {o₀ s : State} (hK : Keep L o₀ s) (g : Nat) (k : FieldGroup → FieldGroup) (lFio : L.fio = true := by first | rfl | assumption) : Keep L o₀ (State.upGroup s g k) := by
  unfold State.upGroup
  repeat' (first
    | with_reducible assumption
    | with_reducible apply Keep.upFio
    | with_reducible apply Keep.ite
    | split)

theorem State.upSlot_keep {o₀ s : State} (hK : Keep L o₀ s) (i : Nat) (k : Slot → Slot) (lNet : L.net = true := by first | rfl | assumption) : Keep L o₀ (State.upSlot s i k) := by
  unfold State.upSlot
  repeat' (first
    | with_reducible assumption
    | with_reducible apply Keep.upNet
    | with_reducible apply Keep.ite
    | split)

theorem State.upCanPort_keep {o₀ s : State} (hK : Keep L o₀ s) (n : Nat) (k : Can → Can) (lCan : L.can = true := by first | rfl | assumption) : Keep L o₀ (State.upCanPort s n k) := by
  unfold State.upCanPort
  repeat' (first
    | with_reducible assumption
    | with_reducible apply Keep.upCan
    | with_reducible apply Keep.ite
    | split)

theorem State.upBuf_keep {o₀ s : State} (hK : Keep L o₀ s) (n : Nat) (b : Nat) (k : CanBuf → CanBuf) (lCan : L.can = true := by first | rfl | assumption) : Keep L o₀ (State.upBuf s n b k) := by
  unfold State.upBuf
  repeat' (first
    | with_reducible assumption
    | with_reducible apply State.upCanPort_keep
    | with_reducible apply Keep.ite
    | split)

theorem State.upMregs_keep {o₀ s : State} (hK : Keep L o₀ s) (m : Master) (k : MasterRegs → MasterRegs) (lHost : L.host = true := by first | rfl | assumption) : Keep L o₀ (State.upMregs s m k) := by
  unfold State.upMregs
  repeat' (first
    | with_reducible assumption
    | with_reducible refine Keep.upHost ?_ (fun xk => ?_)
    | exact xk
    | with_reducible apply Keep.ite
    | split)

theorem State.upWslot_keep {o₀ s : State} (hK : Keep L o₀ s) (i : Nat) (k : WSlot → WSlot) (lWdg : L.wdg = true := by first | rfl | assumption) : Keep L o₀ (State.upWslot s i k) := by
  unfold State.upWslot
  repeat' (first
    | with_reducible assumption
    | with_reducible apply Keep.upWdg
    | with_reducible apply Keep.ite
    | split)

theorem vup_cal (m : Vector MetChan 12) (i c : Nat) (k : MetChan → MetChan)
    (hk : (k (vget m i MetChan.reset)).cal = (vget m i MetChan.reset).cal) :
    (vget (vup m i MetChan.reset k) c MetChan.reset).cal = (vget m c MetChan.reset).cal := by
  unfold vup vset
  by_cases h : i = c
  · subst h
    by_cases hi : i < 12
    · rw [← hk]
      unfold vget
      simp [hi]
    · unfold vget
      simp [hi]
  · unfold vget
    simp [h]

theorem State.upMetChan_keep {o s : State} (h : Keep L o s) (c : Nat) (k : MetChan → MetChan)
    (hk : (k (vget s.met.chans c MetChan.reset)).cal = (vget s.met.chans c MetChan.reset).cal) (lMet : L.met = true := by first | rfl | assumption) : Keep L o (s.upMetChan c k) := by
  unfold State.upMetChan
  exact h.upMet ⟨List.prefix_refl _, id, Nat.le_refl _, fun d => vup_cal _ _ _ _ hk⟩

theorem State.upOpen_keep {o s : State} (h : Keep L o s) (k : Half → Half) (lSto : L.sto = true := by first | rfl | assumption) : Keep L o (s.upOpen k) := by
  unfold State.upOpen
  refine h.upSto (fun x => ?_)
  split <;> exact ⟨x.1, x.2, x.3, x.4, x.5⟩

theorem State.upOther_keep {o s : State} (h : Keep L o s) (k : Half → Half) (lSto : L.sto = true := by first | rfl | assumption) : Keep L o (s.upOther k) := by
  unfold State.upOther
  refine h.upSto (fun x => ?_)
  split <;> exact ⟨x.1, x.2, x.3, x.4, x.5⟩

theorem State.reach_keep {o₀ s : State} (hK : Keep L o₀ s) (t : Nat) (lClk : L.clk = true := by first | rfl | assumption) : Keep L o₀ (State.reach s t) := by
  unfold State.reach
  repeat' (first
    | with_reducible assumption
    | with_reducible apply Keep.upClk
    | with_reducible apply Keep.ite
    | split)

theorem State.useFree_keep {o₀ s : State} (hK : Keep L o₀ s) (lFree : L.free = true := by first | rfl | assumption) : Keep L o₀ (State.useFree s) := by
  unfold State.useFree
  repeat' (first
    | with_reducible assumption
    | with_reducible apply Keep.upFree
    | with_reducible apply Keep.ite
    | split)

theorem State.occurSev_keep {o s : State} (h : Keep L o s) (code source sev : Nat) (detail : List Byte) (lEvr : L.evr = true := by first | rfl | assumption) :
    Keep L o (s.occurSev code source sev detail) := by
  unfold State.occurSev
  split
  · next hq =>
    refine h.upEvr (fun _ => ?_)
    simp only [List.length_append, List.length_singleton]
    omega
  · refine h.upEvr (fun x => ?_)
    dsimp only
    split <;> exact x

theorem State.occur_keep {o₀ s : State} (hK : Keep L o₀ s) (code : Nat) (source : Nat) (detail : List Byte) (lEvr : L.evr = true := by first | rfl | assumption) : Keep L o₀ (State.occur s code source detail) := by
  unfold State.occur
  repeat' (first
    | with_reducible assumption
    | with_reducible apply State.occurSev_keep
    | with_reducible apply Keep.ite
    | split)

theorem State.exeCause_keep {o₀ s : State} (hK : Keep L o₀ s) (b : Nat) (detail : List Byte) (lHost : L.host = true := by first | rfl | assumption) (lEvr : L.evr = true := by first | rfl | assumption) : Keep L o₀ (State.exeCause s b detail) := by
  unfold State.exeCause
  repeat' (first
    | with_reducible assumption
    | with_reducible apply State.occur_keep
    | with_reducible refine Keep.upHost ?_ (fun xk => ?_)
    | exact xk
    | with_reducible apply Keep.ite
    | split)

theorem State.taskCause_keep {o₀ s : State} (hK : Keep L o₀ s) (t : Nat) (kind : Nat) (cause : Nat) (bundle : Nat) (lHost : L.host = true := by first | rfl | assumption) (lEvr : L.evr = true := by first | rfl | assumption) : Keep L o₀ (State.taskCause s t kind cause bundle) := by
  unfold State.taskCause
  repeat' (first
    | with_reducible assumption
    | with_reducible apply State.occur_keep
    | with_reducible refine Keep.upHost ?_ (fun xk => ?_)
    | exact xk
    | with_reducible apply Keep.ite
    | split)

theorem State.memCause_keep {o₀ s : State} (hK : Keep L o₀ s) (b : Nat) (source : Nat) (detail : List Byte) (lHost : L.host = true := by first | rfl | assumption) (lEvr : L.evr = true := by first | rfl | assumption) : Keep L o₀ (State.memCause s b source detail) := by
  unfold State.memCause
  repeat' (first
    | with_reducible assumption
    | with_reducible apply State.occur_keep
    | with_reducible refine Keep.upHost ?_ (fun xk => ?_)
    | exact xk
    | with_reducible apply Keep.ite
    | split)

theorem State.powerCause_keep {o₀ s : State} (hK : Keep L o₀ s) (b : Nat) (lHost : L.host = true := by first | rfl | assumption) (lEvr : L.evr = true := by first | rfl | assumption) : Keep L o₀ (State.powerCause s b) := by
  unfold State.powerCause
  repeat' (first
    | with_reducible assumption
    | with_reducible apply State.occur_keep
    | with_reducible refine Keep.upHost ?_ (fun xk => ?_)
    | exact xk
    | with_reducible apply Keep.ite
    | split)

theorem State.evrCause_keep {o₀ s : State} (hK : Keep L o₀ s) (b : Nat) (lEvr : L.evr = true := by first | rfl | assumption) : Keep L o₀ (State.evrCause s b) := by
  unfold State.evrCause
  repeat' (first
    | with_reducible assumption
    | with_reducible apply State.occur_keep
    | with_reducible refine Keep.upEvr ?_ (fun xk => ?_)
    | exact xk
    | with_reducible apply Keep.ite
    | split)

theorem State.rtcCause_keep {o₀ s : State} (hK : Keep L o₀ s) (b : Nat) (lEvr : L.evr = true := by first | rfl | assumption) (lRtc : L.rtc = true := by first | rfl | assumption) : Keep L o₀ (State.rtcCause s b) := by
  unfold State.rtcCause
  repeat' (first
    | with_reducible assumption
    | with_reducible apply State.occur_keep
    | with_reducible apply Keep.upRtc
    | with_reducible apply Keep.ite
    | split)

theorem State.nvpCause_keep {o₀ s : State} (hK : Keep L o₀ s) (b : Nat) (source : Nat) (lEvr : L.evr = true := by first | rfl | assumption) (lNvp : L.nvp = true := by first | rfl | assumption) : Keep L o₀ (State.nvpCause s b source) := by
  unfold State.nvpCause
  repeat' (first
    | with_reducible assumption
    | with_reducible apply State.occur_keep
    | with_reducible apply Keep.upNvp
    | with_reducible apply Keep.ite
    | split)

theorem State.cswCause_keep {o₀ s : State} (hK : Keep L o₀ s) (b : Nat) (lCsw : L.csw = true := by first | rfl | assumption) (lEvr : L.evr = true := by first | rfl | assumption) : Keep L o₀ (State.cswCause s b) := by
  unfold State.cswCause
  repeat' (first
    | with_reducible assumption
    | with_reducible apply State.occur_keep
    | with_reducible apply Keep.upCsw
    | with_reducible apply Keep.ite
    | split)

theorem State.fioCause_keep {o₀ s : State} (hK : Keep L o₀ s) (b : Nat) (source : Nat) (lFio : L.fio = true := by first | rfl | assumption) (lEvr : L.evr = true := by first | rfl | assumption) : Keep L o₀ (State.fioCause s b source) := by
  unfold State.fioCause
  repeat' (first
    | with_reducible assumption
    | with_reducible apply State.occur_keep
    | with_reducible apply Keep.upFio
    | with_reducible apply Keep.ite
    | split)

theorem State.netCause_keep {o₀ s : State} (hK : Keep L o₀ s) (b : Nat) (source : Nat) (lNet : L.net = true := by first | rfl | assumption) (lEvr : L.evr = true := by first | rfl | assumption) : Keep L o₀ (State.netCause s b source) := by
  unfold State.netCause
  repeat' (first
    | with_reducible assumption
    | with_reducible apply State.occur_keep
    | with_reducible apply Keep.upNet
    | with_reducible apply Keep.ite
    | split)

theorem State.canCause_keep {o₀ s : State} (hK : Keep L o₀ s) (n : Nat) (b : Nat) (source : Nat) (lCan : L.can = true := by first | rfl | assumption) (lEvr : L.evr = true := by first | rfl | assumption) : Keep L o₀ (State.canCause s n b source) := by
  unfold State.canCause
  repeat' (first
    | with_reducible assumption
    | with_reducible apply State.upCanPort_keep
    | with_reducible apply State.occur_keep
    | with_reducible apply Keep.ite
    | split)

theorem State.trcCause_keep {o₀ s : State} (hK : Keep L o₀ s) (b : Nat) (lEvr : L.evr = true := by first | rfl | assumption) (lTrc : L.trc = true := by first | rfl | assumption) : Keep L o₀ (State.trcCause s b) := by
  unfold State.trcCause
  repeat' (first
    | with_reducible assumption
    | with_reducible apply State.occur_keep
    | with_reducible apply Keep.upTrc
    | with_reducible apply Keep.ite
    | split)

theorem State.odxCauseBit_keep {o₀ s : State} (hK : Keep L o₀ s) (b : Nat) (lDict : L.dict = true := by first | rfl | assumption) (lEvr : L.evr = true := by first | rfl | assumption) : Keep L o₀ (State.odxCauseBit s b) := by
  unfold State.odxCauseBit
  repeat' (first
    | with_reducible assumption
    | with_reducible apply State.occur_keep
    | with_reducible refine Keep.upDict ?_ ?_
    | exact Eq.refl _
    | with_reducible apply Keep.ite
    | split)

theorem State.hptCauseBit_keep {o₀ s : State} (hK : Keep L o₀ s) (b : Nat) (lHost : L.host = true := by first | rfl | assumption) (lEvr : L.evr = true := by first | rfl | assumption) : Keep L o₀ (State.hptCauseBit s b) := by
  unfold State.hptCauseBit
  repeat' (first
    | with_reducible assumption
    | with_reducible apply State.occur_keep
    | with_reducible refine Keep.upHost ?_ (fun xk => ?_)
    | exact xk
    | with_reducible apply Keep.ite
    | split)

theorem State.metCause_keep {o₀ s : State} (hK : Keep L o₀ s) (b : Nat) (lEvr : L.evr = true := by first | rfl | assumption) (lMet : L.met = true := by first | rfl | assumption) : Keep L o₀ (State.metCause s b) := by
  unfold State.metCause
  repeat' (first
    | with_reducible assumption
    | with_reducible apply State.occur_keep
    | with_reducible refine Keep.upMet ?_ (MetKeep.same ?_ ?_ ?_)
    | exact Eq.refl _
    | with_reducible apply Keep.ite
    | split)

theorem State.modeRefuse_keep {o₀ s : State} (hK : Keep L o₀ s) (code : Nat) (lDict : L.dict = true := by first | rfl | assumption) : Keep L o₀ (State.modeRefuse s code) := by
  unfold State.modeRefuse
  repeat' (first
    | with_reducible assumption
    | with_reducible refine Keep.upDict ?_ ?_
    | exact Eq.refl _
    | with_reducible apply Keep.ite
    | (extract_lets +onlyGivenNames y; (first | ((have hy : Keep L o₀ y := (by unfold y; repeat' (first | with_reducible assumption | with_reducible refine Keep.upDict ?_ ?_ | exact Eq.refl _ | with_reducible apply Keep.ite | extract_lets | split))); clear_value y) | clear_value y | skip))
    | split)

theorem State.send_keep {o₀ s : State} (hK : Keep L o₀ s) (x : Sent) (lNet : L.net = true := by first | rfl | assumption) : Keep L o₀ (State.send s x) := by
  unfold State.send
  repeat' (first
    | with_reducible assumption
    | with_reducible apply Keep.upNet
    | with_reducible apply Keep.ite
    | split)

end Sys2Proof.Machine
end

