-- ==== Sys2Proof/Laws/KeepRing.lean ====
section
/-! SUPPORT. What each operation of Machine/Ring.lean keeps (Laws/Keep.lean). -/

set_option Elab.async false
set_option linter.all false

namespace Sys2Proof.Machine

open Sys2Proof

set_option linter.unusedVariables false
set_option linter.tactic.unusedName false

variable {L : Parts}

theorem State.trimTrace_keep {o₀ s : State} (hK : Keep L o₀ s) (lEvr : L.evr = true := by first | rfl | assumption) (lTrc : L.trc = true := by first | rfl | assumption) : Keep L o₀ (State.trimTrace s) := by
  unfold State.trimTrace
  repeat' (first
    | with_reducible assumption
    | with_reducible apply State.trcCause_keep
    | with_reducible apply Keep.upTrc
    | with_reducible apply Keep.ite
    | (extract_lets +onlyGivenNames y; (first | ((have hy : Keep L o₀ y := (by unfold y; repeat' (first | with_reducible assumption | with_reducible apply State.trcCause_keep | with_reducible apply Keep.upTrc | with_reducible apply Keep.ite | extract_lets | split))); clear_value y) | clear_value y | skip))
    | split)

theorem State.traceWrite_keep {o₀ s : State} (hK : Keep L o₀ s) (x : TItem) (lEvr : L.evr = true := by first | rfl | assumption) (lTrc : L.trc = true := by first | rfl | assumption) : Keep L o₀ (State.traceWrite s x) := by
  unfold State.traceWrite
  repeat' (first
    | with_reducible assumption
    | with_reducible apply State.trimTrace_keep
    | with_reducible apply Keep.upTrc
    | with_reducible apply Keep.ite
    | split)

theorem State.traceBytes_keep {o₀ s : State} (hK : Keep L o₀ s) (type : Nat) (b : List Byte) (lEvr : L.evr = true := by first | rfl | assumption) (lTrc : L.trc = true := by first | rfl | assumption) : Keep L o₀ (State.traceBytes s type b) := by
  unfold State.traceBytes
  repeat' (first
    | with_reducible assumption
    | with_reducible apply State.traceWrite_keep
    | with_reducible apply Keep.ite
    | split)

theorem State.traceMark_keep {o₀ s : State} (hK : Keep L o₀ s) (code : Nat) (lTrc : L.trc = true := by first | rfl | assumption) : Keep L o₀ (State.traceMark s code) := by
  unfold State.traceMark
  repeat' (first
    | with_reducible assumption
    | with_reducible apply Keep.upTrc
    | with_reducible apply Keep.ite
    | split)

theorem State.traceFlush_keep {o₀ s : State} (hK : Keep L o₀ s) (late : Bool) (lEvr : L.evr = true := by first | rfl | assumption) (lTrc : L.trc = true := by first | rfl | assumption) : Keep L o₀ (State.traceFlush s late) := by
  unfold State.traceFlush
  repeat' (first
    | with_reducible assumption
    | with_reducible apply State.traceWrite_keep
    | with_reducible apply State.traceBytes_keep
    | with_reducible apply Keep.upTrc
    | with_reducible refine Keep.foldl (fun _ _ _ => ?_) _ ?_
    | with_reducible refine Keep.foldl1 (fun _ _ _ _ => ?_) _ ?_
    | with_reducible refine Keep.foldl2 (fun _ _ _ _ => ?_) _ ?_
    | with_reducible apply Keep.ite
    | (extract_lets +onlyGivenNames y; (first | ((have hy : Keep L o₀ y := (by unfold y; repeat' (first | with_reducible assumption | with_reducible apply State.traceWrite_keep | with_reducible apply State.traceBytes_keep | with_reducible apply Keep.upTrc | with_reducible refine Keep.foldl (fun _ _ _ => ?_) _ ?_ | with_reducible refine Keep.foldl1 (fun _ _ _ _ => ?_) _ ?_ | with_reducible refine Keep.foldl2 (fun _ _ _ _ => ?_) _ ?_ | with_reducible apply Keep.ite | extract_lets | split))); clear_value y) | ((have hy : Keep L o₀ y.1 := (by unfold y; repeat' (first | with_reducible assumption | with_reducible apply State.traceWrite_keep | with_reducible apply State.traceBytes_keep | with_reducible apply Keep.upTrc | with_reducible refine Keep.foldl (fun _ _ _ => ?_) _ ?_ | with_reducible refine Keep.foldl1 (fun _ _ _ _ => ?_) _ ?_ | with_reducible refine Keep.foldl2 (fun _ _ _ _ => ?_) _ ?_ | with_reducible apply Keep.ite | extract_lets | split))); clear_value y) | ((have hy : Keep L o₀ y.2 := (by unfold y; repeat' (first | with_reducible assumption | with_reducible apply State.traceWrite_keep | with_reducible apply State.traceBytes_keep | with_reducible apply Keep.upTrc | with_reducible refine Keep.foldl (fun _ _ _ => ?_) _ ?_ | with_reducible refine Keep.foldl1 (fun _ _ _ _ => ?_) _ ?_ | with_reducible refine Keep.foldl2 (fun _ _ _ _ => ?_) _ ?_ | with_reducible apply Keep.ite | extract_lets | split))); clear_value y) | clear_value y | skip))
    | split)

theorem State.ringFrozen_keep {o₀ s : State} (hK : Keep L o₀ s) (lEvr : L.evr = true := by first | rfl | assumption) (lTrc : L.trc = true := by first | rfl | assumption) : Keep L o₀ (State.ringFrozen s) := by
  unfold State.ringFrozen
  repeat' (first
    | with_reducible assumption
    | with_reducible apply State.trcCause_keep
    | with_reducible apply Keep.upTrc
    | with_reducible apply Keep.ite
    | split)

theorem State.traceStop_keep {o₀ s : State} (hK : Keep L o₀ s) (lEvr : L.evr = true := by first | rfl | assumption) (lTrc : L.trc = true := by first | rfl | assumption) : Keep L o₀ (State.traceStop s) := by
  unfold State.traceStop
  repeat' (first
    | with_reducible assumption
    | with_reducible apply State.traceMark_keep
    | with_reducible apply State.traceFlush_keep
    | with_reducible apply State.ringFrozen_keep
    | with_reducible apply Keep.ite
    | (extract_lets +onlyGivenNames y; (first | ((have hy : Keep L o₀ y := (by unfold y; repeat' (first | with_reducible assumption | with_reducible apply State.traceMark_keep | with_reducible apply State.traceFlush_keep | with_reducible apply State.ringFrozen_keep | with_reducible apply Keep.ite | extract_lets | split))); clear_value y) | clear_value y | skip))
    | split)

theorem State.requestAnchor_keep {o₀ s : State} (hK : Keep L o₀ s) (lTrc : L.trc = true := by first | rfl | assumption) : Keep L o₀ (State.requestAnchor s) := by
  unfold State.requestAnchor
  repeat' (first
    | with_reducible assumption
    | with_reducible apply Keep.upTrc
    | with_reducible apply Keep.ite
    | split)

theorem State.endReplayAt_keep {o₀ s : State} (hK : Keep L o₀ s) (done : Nat) (code : Nat) (kind : Nat) (task : Nat) (lset : Nat) (recd : Nat) (repl : Nat) (lClk : L.clk = true := by first | rfl | assumption) (lEvr : L.evr = true := by first | rfl | assumption) (lTrc : L.trc = true := by first | rfl | assumption) : Keep L o₀ (State.endReplayAt s done code kind task lset recd repl) := by
  unfold State.endReplayAt
  repeat' (first
    | with_reducible assumption
    | with_reducible apply State.trcCause_keep
    | with_reducible apply Keep.upClk
    | with_reducible apply Keep.upTrc
    | with_reducible apply Keep.ite
    | (extract_lets +onlyGivenNames y; (first | ((have hy : Keep L o₀ y := (by unfold y; repeat' (first | with_reducible assumption | with_reducible apply State.trcCause_keep | with_reducible apply Keep.upClk | with_reducible apply Keep.upTrc | with_reducible apply Keep.ite | extract_lets | split))); clear_value y) | clear_value y | skip))
    | split)

theorem State.endReplay_keep {o₀ s : State} (hK : Keep L o₀ s) (code : Nat) (kind : Nat) (task : Nat) (lset : Nat) (recd : Nat) (repl : Nat) (lClk : L.clk = true := by first | rfl | assumption) (lEvr : L.evr = true := by first | rfl | assumption) (lTrc : L.trc = true := by first | rfl | assumption) : Keep L o₀ (State.endReplay s code kind task lset recd repl) := by
  unfold State.endReplay
  repeat' (first
    | with_reducible assumption
    | with_reducible apply State.endReplayAt_keep
    | with_reducible apply Keep.ite
    | split)

end Sys2Proof.Machine
end

