-- ==== Sys2Proof/Laws/KeepRoles.lean ====
section
/-! SUPPORT. What each operation of Machine/Roles.lean keeps (Laws/Keep.lean). -/

set_option Elab.async false
set_option linter.all false

namespace Sys2Proof.Machine

open Sys2Proof

set_option linter.unusedVariables false
set_option linter.tactic.unusedName false

variable {L : Parts}

theorem State.sendBoth_keep {o₀ s : State} (hK : Keep L o₀ s) (type : Nat) (flags : Nat) (payload : List Byte) (lNet : L.net = true := by first | rfl | assumption) : Keep L o₀ (State.sendBoth s type flags payload) := by
  unfold State.sendBoth
  repeat' (first
    | with_reducible assumption
    | with_reducible apply State.send_keep
    | with_reducible apply Keep.ite
    | (extract_lets +onlyGivenNames y; (first | ((have hy : Keep L o₀ y := (by unfold y; repeat' (first | with_reducible assumption | with_reducible apply State.send_keep | with_reducible apply Keep.ite | extract_lets | split))); clear_value y) | clear_value y | skip))
    | split)

theorem State.disarmTasks_keep {o₀ s : State} (hK : Keep L o₀ s) (f : Nat → Bool) (lWdg : L.wdg = true := by first | rfl | assumption) : Keep L o₀ (State.disarmTasks s f) := by
  unfold State.disarmTasks
  repeat' (first
    | with_reducible assumption
    | with_reducible apply Keep.upWdg
    | with_reducible apply Keep.ite
    | split)

theorem Evr.completeSnaps_queue : ∀ (l : List Snap) (e : Evr), (l.foldl Evr.completeSnap e).queue = e.queue
  | [], _ => rfl
  | x :: t, e => Evr.completeSnaps_queue t (e.completeSnap x)

theorem State.abandonOpen_keep {o s : State} (h : Keep L o s) (lSto : L.sto = true := by first | rfl | assumption) (lEvr : L.evr = true := by first | rfl | assumption) : Keep L o (State.abandonOpen s) := by
  unfold State.abandonOpen
  refine Keep.upSto (State.upOpen_keep (h.upEvr (fun xk => ?_)) _) (fun xk => ⟨xk.1, xk.2, xk.3, xk.4, xk.5⟩)
  rw [Evr.completeSnaps_queue]
  exact xk

theorem State.stopLanes_keep {o₀ s : State} (hK : Keep L o₀ s) (c : Nat) (lClu : L.clu = true := by first | rfl | assumption) : Keep L o₀ (State.stopLanes s c) := by
  unfold State.stopLanes
  repeat' (first
    | with_reducible assumption
    | with_reducible apply Keep.upClu
    | with_reducible apply Keep.ite
    | split)

theorem State.canQuiet_keep {o₀ s : State} (hK : Keep L o₀ s) (lCan : L.can = true := by first | rfl | assumption) : Keep L o₀ (State.canQuiet s) := by
  unfold State.canQuiet
  repeat' (first
    | with_reducible assumption
    | with_reducible apply Keep.upCan
    | with_reducible apply Keep.ite
    | split)

theorem State.stopBeats_keep {o₀ s : State} (hK : Keep L o₀ s) (lClk : L.clk = true := by first | rfl | assumption) (lEvr : L.evr = true := by first | rfl | assumption) (lTrc : L.trc = true := by first | rfl | assumption) : Keep L o₀ (State.stopBeats s) := by
  unfold State.stopBeats
  repeat' (first
    | with_reducible assumption
    | with_reducible apply State.traceStop_keep
    | with_reducible apply Keep.upClk
    | with_reducible apply Keep.ite
    | split)

theorem State.transition_keep {o₀ s : State} (hK : Keep L o₀ s) (new : RoleState) (reason : Nat) (gap : Nat) (lCsw : L.csw = true := by first | rfl | assumption) (lNet : L.net = true := by first | rfl | assumption) (lWdg : L.wdg = true := by first | rfl | assumption) : Keep L o₀ (State.transition s new reason gap) := by
  unfold State.transition
  repeat' (first
    | with_reducible assumption
    | with_reducible apply State.disarmTasks_keep
    | with_reducible apply Keep.upCsw
    | with_reducible apply Keep.upNet
    | with_reducible apply Keep.ite
    | (extract_lets +onlyGivenNames y; (first | ((have hy : Keep L o₀ y := (by unfold y; repeat' (first | with_reducible assumption | with_reducible apply State.disarmTasks_keep | with_reducible apply Keep.upCsw | with_reducible apply Keep.upNet | with_reducible apply Keep.ite | extract_lets | split))); clear_value y) | clear_value y | skip))
    | split)

theorem State.enterFailed_keep {o₀ s : State} (hK : Keep L o₀ s) (reason : Nat) (lClk : L.clk = true := by first | rfl | assumption) (lClu : L.clu = true := by first | rfl | assumption) (lSto : L.sto = true := by first | rfl | assumption) (lCsw : L.csw = true := by first | rfl | assumption) (lNet : L.net = true := by first | rfl | assumption) (lCan : L.can = true := by first | rfl | assumption) (lWdg : L.wdg = true := by first | rfl | assumption) (lEvr : L.evr = true := by first | rfl | assumption) (lTrc : L.trc = true := by first | rfl | assumption) : Keep L o₀ (State.enterFailed s reason) := by
  unfold State.enterFailed
  repeat' (first
    | with_reducible assumption
    | with_reducible apply State.stopBeats_keep
    | with_reducible apply State.transition_keep
    | with_reducible apply State.stopLanes_keep
    | with_reducible apply State.abandonOpen_keep
    | with_reducible apply State.canQuiet_keep
    | with_reducible apply State.sendBoth_keep
    | with_reducible apply Keep.upCsw
    | with_reducible apply Keep.ite
    | (extract_lets +onlyGivenNames y; (first | ((have hy : Keep L o₀ y := (by unfold y; repeat' (first | with_reducible assumption | with_reducible apply State.stopBeats_keep | with_reducible apply State.transition_keep | with_reducible apply State.stopLanes_keep | with_reducible apply State.abandonOpen_keep | with_reducible apply State.canQuiet_keep | with_reducible apply State.sendBoth_keep | with_reducible apply Keep.upCsw | with_reducible apply Keep.ite | extract_lets | split))); clear_value y) | clear_value y | skip))
    | split)

theorem State.failSafeHalt_keep {o₀ s : State} (hK : Keep L o₀ s) (lClk : L.clk = true := by first | rfl | assumption) (lClu : L.clu = true := by first | rfl | assumption) (lSto : L.sto = true := by first | rfl | assumption) (lFio : L.fio = true := by first | rfl | assumption) (lCan : L.can = true := by first | rfl | assumption) (lHost : L.host = true := by first | rfl | assumption) (lEvr : L.evr = true := by first | rfl | assumption) (lTrc : L.trc = true := by first | rfl | assumption) : Keep L o₀ (State.failSafeHalt s) := by
  unfold State.failSafeHalt
  repeat' (first
    | with_reducible assumption
    | with_reducible apply State.stopLanes_keep
    | with_reducible apply State.abandonOpen_keep
    | with_reducible apply State.canQuiet_keep
    | with_reducible apply State.stopBeats_keep
    | with_reducible apply State.exeCause_keep
    | with_reducible apply Keep.upFio
    | with_reducible refine Keep.upSto ?_ (fun xk => ?_)
    | with_reducible exact xk
    | (with_reducible refine Store.wf.mk ?_ ?_ ?_ ?_ ?_ <;> try dsimp only)
    | with_reducible exact xk.program
    | with_reducible exact xk.lmem
    | with_reducible exact xk.durable
    | with_reducible exact xk.inView
    | with_reducible exact xk.launched
    | with_reducible apply memPut_wf
    | with_reducible apply ov_apply_wf
    | with_reducible apply memWrite_wf
    | with_reducible apply memClear_wf
    | with_reducible apply memRange_wf
    | with_reducible apply mem_nil_wf
    | with_reducible apply memOf_wf
    | with_reducible apply Keep.ite
    | (extract_lets +onlyGivenNames y; (first | ((have hy : Keep L o₀ y := (by unfold y; repeat' (first | with_reducible assumption | with_reducible apply State.stopLanes_keep | with_reducible apply State.abandonOpen_keep | with_reducible apply State.canQuiet_keep | with_reducible apply State.stopBeats_keep | with_reducible apply State.exeCause_keep | with_reducible apply Keep.upFio | with_reducible refine Keep.upSto ?_ (fun xk => ?_) | with_reducible exact xk | (with_reducible refine Store.wf.mk ?_ ?_ ?_ ?_ ?_ <;> try dsimp only) | with_reducible exact xk.program | with_reducible exact xk.lmem | with_reducible exact xk.durable | with_reducible exact xk.inView | with_reducible exact xk.launched | with_reducible apply memPut_wf | with_reducible apply ov_apply_wf | with_reducible apply memWrite_wf | with_reducible apply memClear_wf | with_reducible apply memRange_wf | with_reducible apply mem_nil_wf | with_reducible apply memOf_wf | with_reducible apply Keep.ite | extract_lets | split))); clear_value y) | clear_value y | skip))
    | split)

theorem State.giveUp_keep {o₀ s : State} (hK : Keep L o₀ s) (lClk : L.clk = true := by first | rfl | assumption) (lClu : L.clu = true := by first | rfl | assumption) (lSto : L.sto = true := by first | rfl | assumption) (lCsw : L.csw = true := by first | rfl | assumption) (lFio : L.fio = true := by first | rfl | assumption) (lNet : L.net = true := by first | rfl | assumption) (lCan : L.can = true := by first | rfl | assumption) (lHost : L.host = true := by first | rfl | assumption) (lWdg : L.wdg = true := by first | rfl | assumption) (lEvr : L.evr = true := by first | rfl | assumption) (lTrc : L.trc = true := by first | rfl | assumption) : Keep L o₀ (State.giveUp s) := by
  unfold State.giveUp
  repeat' (first
    | with_reducible assumption
    | with_reducible apply State.failSafeHalt_keep
    | with_reducible apply State.enterFailed_keep
    | with_reducible apply Keep.ite
    | split)

theorem State.divergence_keep {o₀ s : State} (hK : Keep L o₀ s) (c : Nat) (car : Nat) (kind : Nat) (lead : Nat) (trail : Nat) (lClk : L.clk = true := by first | rfl | assumption) (lClu : L.clu = true := by first | rfl | assumption) (lSto : L.sto = true := by first | rfl | assumption) (lCsw : L.csw = true := by first | rfl | assumption) (lFio : L.fio = true := by first | rfl | assumption) (lNet : L.net = true := by first | rfl | assumption) (lCan : L.can = true := by first | rfl | assumption) (lHost : L.host = true := by first | rfl | assumption) (lWdg : L.wdg = true := by first | rfl | assumption) (lEvr : L.evr = true := by first | rfl | assumption) (lTrc : L.trc = true := by first | rfl | assumption) : Keep L o₀ (State.divergence s c car kind lead trail) := by
  unfold State.divergence
  repeat' (first
    | with_reducible assumption
    | with_reducible apply State.endReplay_keep
    | with_reducible apply State.stopLanes_keep
    | with_reducible apply State.abandonOpen_keep
    | with_reducible apply State.exeCause_keep
    | with_reducible apply State.giveUp_keep
    | with_reducible apply Keep.upClu
    | with_reducible apply Keep.ite
    | (extract_lets +onlyGivenNames y; (first | ((have hy : Keep L o₀ y := (by unfold y; repeat' (first | with_reducible assumption | with_reducible apply State.endReplay_keep | with_reducible apply State.stopLanes_keep | with_reducible apply State.abandonOpen_keep | with_reducible apply State.exeCause_keep | with_reducible apply State.giveUp_keep | with_reducible apply Keep.upClu | with_reducible apply Keep.ite | extract_lets | split))); clear_value y) | clear_value y | skip))
    | split)

theorem State.corrected_keep {o₀ s : State} (hK : Keep L o₀ s) (m : MemId) (addr : Nat) (lSto : L.sto = true := by first | rfl | assumption) (lHost : L.host = true := by first | rfl | assumption) (lEvr : L.evr = true := by first | rfl | assumption) : Keep L o₀ (State.corrected s m addr) := by
  unfold State.corrected
  repeat' (first
    | with_reducible assumption
    | with_reducible apply State.memCause_keep
    | with_reducible refine Keep.upSto ?_ (fun xk => ?_)
    | with_reducible exact xk
    | (with_reducible refine Store.wf.mk ?_ ?_ ?_ ?_ ?_ <;> try dsimp only)
    | with_reducible exact xk.program
    | with_reducible exact xk.lmem
    | with_reducible exact xk.durable
    | with_reducible exact xk.inView
    | with_reducible exact xk.launched
    | with_reducible apply memPut_wf
    | with_reducible apply ov_apply_wf
    | with_reducible apply memWrite_wf
    | with_reducible apply memClear_wf
    | with_reducible apply memRange_wf
    | with_reducible apply mem_nil_wf
    | with_reducible apply memOf_wf
    | with_reducible apply Keep.ite
    | (extract_lets +onlyGivenNames y; (first | ((have hy : Keep L o₀ y := (by unfold y; repeat' (first | with_reducible assumption | with_reducible apply State.memCause_keep | with_reducible refine Keep.upSto ?_ (fun xk => ?_) | with_reducible exact xk | (with_reducible refine Store.wf.mk ?_ ?_ ?_ ?_ ?_ <;> try dsimp only) | with_reducible exact xk.program | with_reducible exact xk.lmem | with_reducible exact xk.durable | with_reducible exact xk.inView | with_reducible exact xk.launched | with_reducible apply memPut_wf | with_reducible apply ov_apply_wf | with_reducible apply memWrite_wf | with_reducible apply memClear_wf | with_reducible apply memRange_wf | with_reducible apply mem_nil_wf | with_reducible apply memOf_wf | with_reducible apply Keep.ite | extract_lets | split))); clear_value y) | clear_value y | skip))
    | split)

theorem State.uncorrectable_keep {o₀ s : State} (hK : Keep L o₀ s) (m : MemId) (addr : Nat) (lHost : L.host = true := by first | rfl | assumption) (lEvr : L.evr = true := by first | rfl | assumption) : Keep L o₀ (State.uncorrectable s m addr) := by
  unfold State.uncorrectable
  repeat' (first
    | with_reducible assumption
    | with_reducible apply State.memCause_keep
    | with_reducible apply Keep.ite
    | split)

theorem State.storeUncorrectable_keep {o₀ s : State} (hK : Keep L o₀ s) (m : MemId) (addr : Nat) (car : Nat) (c : Nat) (lClk : L.clk = true := by first | rfl | assumption) (lClu : L.clu = true := by first | rfl | assumption) (lSto : L.sto = true := by first | rfl | assumption) (lCsw : L.csw = true := by first | rfl | assumption) (lFio : L.fio = true := by first | rfl | assumption) (lNet : L.net = true := by first | rfl | assumption) (lCan : L.can = true := by first | rfl | assumption) (lHost : L.host = true := by first | rfl | assumption) (lWdg : L.wdg = true := by first | rfl | assumption) (lEvr : L.evr = true := by first | rfl | assumption) (lTrc : L.trc = true := by first | rfl | assumption) : Keep L o₀ (State.storeUncorrectable s m addr car c) := by
  unfold State.storeUncorrectable
  repeat' (first
    | with_reducible assumption
    | with_reducible apply State.uncorrectable_keep
    | with_reducible apply State.divergence_keep
    | with_reducible apply Keep.ite
    | split)

end Sys2Proof.Machine
end

