-- ==== Sys2Proof/Laws/KeepWaymarks.lean ====
section
/-! SUPPORT. What each operation of Machine/Waymarks.lean keeps (Laws/Keep.lean). -/

set_option Elab.async false
set_option linter.all false

namespace Sys2Proof.Machine

open Sys2Proof

set_option linter.unusedVariables false
set_option linter.tactic.unusedName false

variable {L : Parts}

theorem State.armTask_keep {o₀ s : State} (hK : Keep L o₀ s) (t : Nat) (now : Nat) (lWdg : L.wdg = true := by first | rfl | assumption) : Keep L o₀ (State.armTask s t now) := by
  unfold State.armTask
  repeat' (first
    | with_reducible assumption
    | with_reducible apply Keep.upWdg
    | with_reducible apply Keep.ite
    | split)

theorem State.armServices_keep {o₀ s : State} (hK : Keep L o₀ s) (now : Nat) (lWdg : L.wdg = true := by first | rfl | assumption) : Keep L o₀ (State.armServices s now) := by
  unfold State.armServices
  repeat' (first
    | with_reducible assumption
    | with_reducible apply Keep.upWdg
    | with_reducible apply Keep.ite
    | split)

theorem State.watchdogReset_keep {o₀ s : State} (hK : Keep L o₀ s) (slot : Nat) (kind : Nat) (lClk : L.clk = true := by first | rfl | assumption) (lClu : L.clu = true := by first | rfl | assumption) (lSto : L.sto = true := by first | rfl | assumption) (lCsw : L.csw = true := by first | rfl | assumption) (lFio : L.fio = true := by first | rfl | assumption) (lWdg : L.wdg = true := by first | rfl | assumption) (lEvr : L.evr = true := by first | rfl | assumption) (lTrc : L.trc = true := by first | rfl | assumption) : Keep L o₀ (State.watchdogReset s slot kind) := by
  unfold State.watchdogReset
  repeat' (first
    | with_reducible assumption
    | with_reducible apply State.occur_keep
    | with_reducible apply State.stopLanes_keep
    | with_reducible apply State.abandonOpen_keep
    | with_reducible apply State.stopBeats_keep
    | with_reducible apply Keep.upCsw
    | with_reducible apply Keep.upFio
    | with_reducible apply Keep.upWdg
    | with_reducible apply Keep.ite
    | (extract_lets +onlyGivenNames y; (first | ((have hy : Keep L o₀ y := (by unfold y; repeat' (first | with_reducible assumption | with_reducible apply State.occur_keep | with_reducible apply State.stopLanes_keep | with_reducible apply State.abandonOpen_keep | with_reducible apply State.stopBeats_keep | with_reducible apply Keep.upCsw | with_reducible apply Keep.upFio | with_reducible apply Keep.upWdg | with_reducible apply Keep.ite | extract_lets | split))); clear_value y) | clear_value y | skip))
    | split)

theorem State.wayFail_keep {o₀ s : State} (hK : Keep L o₀ s) (i : Nat) (kind : Nat) (t : Nat) (lClk : L.clk = true := by first | rfl | assumption) (lClu : L.clu = true := by first | rfl | assumption) (lSto : L.sto = true := by first | rfl | assumption) (lCsw : L.csw = true := by first | rfl | assumption) (lFio : L.fio = true := by first | rfl | assumption) (lWdg : L.wdg = true := by first | rfl | assumption) (lEvr : L.evr = true := by first | rfl | assumption) (lTrc : L.trc = true := by first | rfl | assumption) : Keep L o₀ (State.wayFail s i kind t) := by
  unfold State.wayFail
  repeat' (first
    | with_reducible assumption
    | with_reducible apply State.upWslot_keep
    | with_reducible apply State.occur_keep
    | with_reducible apply State.watchdogReset_keep
    | with_reducible apply Keep.upWdg
    | with_reducible refine Keep.upEvr ?_ (fun xk => ?_)
    | exact xk
    | with_reducible exact Evr.sortTail_le xk
    | with_reducible apply Keep.ite
    | (extract_lets +onlyGivenNames y; (first | ((have hy : Keep L o₀ y := (by unfold y; repeat' (first | with_reducible assumption | with_reducible apply State.upWslot_keep | with_reducible apply State.occur_keep | with_reducible apply State.watchdogReset_keep | with_reducible apply Keep.upWdg | with_reducible refine Keep.upEvr ?_ (fun xk => ?_) | exact xk | with_reducible exact Evr.sortTail_le xk | with_reducible apply Keep.ite | extract_lets | split))); clear_value y) | clear_value y | skip))
    | split)

theorem State.wayPeriodEnd_keep {o₀ s : State} (hK : Keep L o₀ s) (i : Nat) (lClk : L.clk = true := by first | rfl | assumption) (lClu : L.clu = true := by first | rfl | assumption) (lSto : L.sto = true := by first | rfl | assumption) (lCsw : L.csw = true := by first | rfl | assumption) (lFio : L.fio = true := by first | rfl | assumption) (lWdg : L.wdg = true := by first | rfl | assumption) (lEvr : L.evr = true := by first | rfl | assumption) (lTrc : L.trc = true := by first | rfl | assumption) : Keep L o₀ (State.wayPeriodEnd s i) := by
  unfold State.wayPeriodEnd
  repeat' (first
    | with_reducible assumption
    | with_reducible apply State.wayFail_keep
    | with_reducible apply State.upWslot_keep
    | with_reducible apply Keep.ite
    | (extract_lets +onlyGivenNames y; (first | ((have hy : Keep L o₀ y := (by unfold y; repeat' (first | with_reducible assumption | with_reducible apply State.wayFail_keep | with_reducible apply State.upWslot_keep | with_reducible apply Keep.ite | extract_lets | split))); clear_value y) | clear_value y | skip))
    | split)

theorem State.wayCatchUp_keep {o s : State} (i t n : Nat) (hK : Keep L o s) (lClk : L.clk = true := by first | rfl | assumption) (lClu : L.clu = true := by first | rfl | assumption) (lSto : L.sto = true := by first | rfl | assumption) (lCsw : L.csw = true := by first | rfl | assumption) (lFio : L.fio = true := by first | rfl | assumption) (lWdg : L.wdg = true := by first | rfl | assumption) (lEvr : L.evr = true := by first | rfl | assumption) (lTrc : L.trc = true := by first | rfl | assumption) : Keep L o (State.wayCatchUp s i t n) := by
  induction n generalizing s with
  | zero => exact hK
  | succ n ih =>
    unfold State.wayCatchUp
    dsimp only
    split
    · exact ih (State.wayPeriodEnd_keep hK i)
    · exact hK

theorem State.wayCheckin_keep {o₀ s : State} (hK : Keep L o₀ s) (i : Nat) (t : Nat) (lClk : L.clk = true := by first | rfl | assumption) (lClu : L.clu = true := by first | rfl | assumption) (lSto : L.sto = true := by first | rfl | assumption) (lCsw : L.csw = true := by first | rfl | assumption) (lFio : L.fio = true := by first | rfl | assumption) (lWdg : L.wdg = true := by first | rfl | assumption) (lEvr : L.evr = true := by first | rfl | assumption) (lTrc : L.trc = true := by first | rfl | assumption) : Keep L o₀ (State.wayCheckin s i t) := by
  unfold State.wayCheckin
  repeat' (first
    | with_reducible assumption
    | with_reducible apply State.wayCatchUp_keep
    | with_reducible apply State.upWslot_keep
    | with_reducible apply State.wayFail_keep
    | with_reducible apply Keep.ite
    | (extract_lets +onlyGivenNames y; (first | ((have hy : Keep L o₀ y := (by unfold y; repeat' (first | with_reducible assumption | with_reducible apply State.wayCatchUp_keep | with_reducible apply State.upWslot_keep | with_reducible apply State.wayFail_keep | with_reducible apply Keep.ite | extract_lets | split))); clear_value y) | clear_value y | skip))
    | split)

theorem State.taskCheckin_keep {o₀ s : State} (hK : Keep L o₀ s) (i : Nat) (task : Nat) (t : Nat) (lClk : L.clk = true := by first | rfl | assumption) (lClu : L.clu = true := by first | rfl | assumption) (lSto : L.sto = true := by first | rfl | assumption) (lCsw : L.csw = true := by first | rfl | assumption) (lFio : L.fio = true := by first | rfl | assumption) (lWdg : L.wdg = true := by first | rfl | assumption) (lEvr : L.evr = true := by first | rfl | assumption) (lTrc : L.trc = true := by first | rfl | assumption) : Keep L o₀ (State.taskCheckin s i task t) := by
  unfold State.taskCheckin
  repeat' (first
    | with_reducible assumption
    | with_reducible apply State.wayCheckin_keep
    | with_reducible apply State.occur_keep
    | with_reducible apply Keep.ite
    | (extract_lets +onlyGivenNames y; (first | ((have hy : Keep L o₀ y := (by unfold y; repeat' (first | with_reducible assumption | with_reducible apply State.wayCheckin_keep | with_reducible apply State.occur_keep | with_reducible apply Keep.ite | extract_lets | split))); clear_value y) | clear_value y | skip))
    | split)

theorem execServiceCheckin_keep {s s₂ : State} (service : Nat) (t : Nat) (hx : execServiceCheckin service t s = .next s₂) (lClk : L.clk = true := by first | rfl | assumption) (lClu : L.clu = true := by first | rfl | assumption) (lSto : L.sto = true := by first | rfl | assumption) (lCsw : L.csw = true := by first | rfl | assumption) (lFio : L.fio = true := by first | rfl | assumption) (lWdg : L.wdg = true := by first | rfl | assumption) (lEvr : L.evr = true := by first | rfl | assumption) (lTrc : L.trc = true := by first | rfl | assumption) : Keep L s s₂ := by
  unfold execServiceCheckin at hx
  with_reducible refine Keep.commit ?_ hx
  clear hx
  have hK := Keep.refl (L := L) s
  repeat' (first
    | with_reducible assumption
    | with_reducible apply State.reach_keep
    | with_reducible apply State.wayCheckin_keep
    | with_reducible refine Keep.foldl (fun _ _ _ => ?_) _ ?_
    | with_reducible refine Keep.foldl1 (fun _ _ _ _ => ?_) _ ?_
    | with_reducible refine Keep.foldl2 (fun _ _ _ _ => ?_) _ ?_
    | with_reducible apply Keep.ite
    | (extract_lets +onlyGivenNames y; (first | ((have hy : Keep L s y := (by unfold y; repeat' (first | with_reducible assumption | with_reducible apply State.reach_keep | with_reducible apply State.wayCheckin_keep | with_reducible refine Keep.foldl (fun _ _ _ => ?_) _ ?_ | with_reducible refine Keep.foldl1 (fun _ _ _ _ => ?_) _ ?_ | with_reducible refine Keep.foldl2 (fun _ _ _ _ => ?_) _ ?_ | with_reducible apply Keep.ite | extract_lets | split))); clear_value y) | ((have hy : Keep L s y.1 := (by unfold y; repeat' (first | with_reducible assumption | with_reducible apply State.reach_keep | with_reducible apply State.wayCheckin_keep | with_reducible refine Keep.foldl (fun _ _ _ => ?_) _ ?_ | with_reducible refine Keep.foldl1 (fun _ _ _ _ => ?_) _ ?_ | with_reducible refine Keep.foldl2 (fun _ _ _ _ => ?_) _ ?_ | with_reducible apply Keep.ite | extract_lets | split))); clear_value y) | ((have hy : Keep L s y.2 := (by unfold y; repeat' (first | with_reducible assumption | with_reducible apply State.reach_keep | with_reducible apply State.wayCheckin_keep | with_reducible refine Keep.foldl (fun _ _ _ => ?_) _ ?_ | with_reducible refine Keep.foldl1 (fun _ _ _ _ => ?_) _ ?_ | with_reducible refine Keep.foldl2 (fun _ _ _ _ => ?_) _ ?_ | with_reducible apply Keep.ite | extract_lets | split))); clear_value y) | clear_value y | skip))
    | split)

theorem execWaymarkPeriodEnd_keep {s s₂ : State} (slot : Nat) (t : Nat) (hx : execWaymarkPeriodEnd slot t s = .next s₂) (lClk : L.clk = true := by first | rfl | assumption) (lClu : L.clu = true := by first | rfl | assumption) (lSto : L.sto = true := by first | rfl | assumption) (lCsw : L.csw = true := by first | rfl | assumption) (lFio : L.fio = true := by first | rfl | assumption) (lWdg : L.wdg = true := by first | rfl | assumption) (lEvr : L.evr = true := by first | rfl | assumption) (lTrc : L.trc = true := by first | rfl | assumption) : Keep L s s₂ := by
  unfold execWaymarkPeriodEnd at hx
  with_reducible refine Keep.commit ?_ hx
  clear hx
  have hK := Keep.refl (L := L) s
  repeat' (first
    | with_reducible assumption
    | with_reducible apply State.reach_keep
    | with_reducible apply State.wayCatchUp_keep
    | with_reducible apply Keep.ite
    | (extract_lets +onlyGivenNames y; (first | ((have hy : Keep L s y := (by unfold y; repeat' (first | with_reducible assumption | with_reducible apply State.reach_keep | with_reducible apply State.wayCatchUp_keep | with_reducible apply Keep.ite | extract_lets | split))); clear_value y) | clear_value y | skip))
    | split)

end Sys2Proof.Machine
end

