-- ==== Sys2Proof/Laws/KeepShadow.lean ====
section
/-! SUPPORT. What each operation of Machine/Shadow.lean keeps (Laws/Keep.lean). -/

set_option Elab.async false
set_option linter.all false

namespace Sys2Proof.Machine

open Sys2Proof

set_option linter.unusedVariables false
set_option linter.tactic.unusedName false

variable {L : Parts}

theorem State.forgetRun_keep {o₀ s : State} (hK : Keep L o₀ s) (t : Nat) (lTasks : L.tasks = true := by first | rfl | assumption) (lSto : L.sto = true := by first | rfl | assumption) : Keep L o₀ (State.forgetRun s t) := by
  unfold State.forgetRun
  repeat' (first
    | with_reducible assumption
    | with_reducible apply State.upTask_keep
    | with_reducible apply State.upOpen_keep
    | with_reducible apply Keep.ite
    | split)

theorem State.faultTask_keep {o₀ s : State} (hK : Keep L o₀ s) (t : Nat) (cause : Nat) (bundle : Nat) (lTasks : L.tasks = true := by first | rfl | assumption) (lSto : L.sto = true := by first | rfl | assumption) (lHost : L.host = true := by first | rfl | assumption) (lWdg : L.wdg = true := by first | rfl | assumption) (lEvr : L.evr = true := by first | rfl | assumption) : Keep L o₀ (State.faultTask s t cause bundle) := by
  unfold State.faultTask
  repeat' (first
    | with_reducible assumption
    | with_reducible apply State.forgetRun_keep
    | with_reducible apply State.upTask_keep
    | with_reducible apply State.disarmTasks_keep
    | with_reducible apply State.taskCause_keep
    | with_reducible apply Keep.ite
    | (extract_lets +onlyGivenNames y; (first | ((have hy : Keep L o₀ y := (by unfold y; repeat' (first | with_reducible assumption | with_reducible apply State.forgetRun_keep | with_reducible apply State.upTask_keep | with_reducible apply State.disarmTasks_keep | with_reducible apply State.taskCause_keep | with_reducible apply Keep.ite | extract_lets | split))); clear_value y) | clear_value y | skip))
    | split)

end Sys2Proof.Machine
end

