-- ==== Sys2Proof/Laws/KeepCan.lean ====
section
/-! SUPPORT. What each operation of Machine/Can.lean keeps (Laws/Keep.lean). -/

set_option Elab.async false
set_option linter.all false

namespace Sys2Proof.Machine

open Sys2Proof

set_option linter.unusedVariables false
set_option linter.tactic.unusedName false

variable {L : Parts}

theorem State.canCounters_keep {o₀ s : State} (hK : Keep L o₀ s) (n : Nat) (tec : Nat) (rec' : Nat) (lCan : L.can = true := by first | rfl | assumption) (lEvr : L.evr = true := by first | rfl | assumption) : Keep L o₀ (State.canCounters s n tec rec') := by
  unfold State.canCounters
  repeat' (first
    | with_reducible assumption
    | with_reducible apply State.upCanPort_keep
    | with_reducible apply State.canCause_keep
    | with_reducible apply Keep.ite
    | (extract_lets +onlyGivenNames y; (first | ((have hy : Keep L o₀ y := (by unfold y; repeat' (first | with_reducible assumption | with_reducible apply State.upCanPort_keep | with_reducible apply State.canCause_keep | with_reducible apply Keep.ite | extract_lets | split))); clear_value y) | clear_value y | skip))
    | split)

theorem State.canReceive_keep {o₀ s : State} (hK : Keep L o₀ s) (n : Nat) (t : Nat) (raw : List Word) (lCan : L.can = true := by first | rfl | assumption) (lEvr : L.evr = true := by first | rfl | assumption) (lTrc : L.trc = true := by first | rfl | assumption) : Keep L o₀ (State.canReceive s n t raw) := by
  unfold State.canReceive
  repeat' (first
    | with_reducible assumption
    | with_reducible apply State.upCanPort_keep
    | with_reducible apply State.upBuf_keep
    | with_reducible apply State.canCause_keep
    | with_reducible apply Keep.upTrc
    | with_reducible apply Keep.ite
    | (extract_lets +onlyGivenNames y; (first | ((have hy : Keep L o₀ y := (by unfold y; repeat' (first | with_reducible assumption | with_reducible apply State.upCanPort_keep | with_reducible apply State.upBuf_keep | with_reducible apply State.canCause_keep | with_reducible apply Keep.upTrc | with_reducible apply Keep.ite | extract_lets | split))); clear_value y) | clear_value y | skip))
    | split)

theorem CanBuf.latch_wf (v : Mem) (b : CanBuf) (h : v.wf = true) : (b.latch v).wf = true := by
  unfold CanBuf.latch
  split
  · extract_lets f w1 ws
    exact memPut_wf _ _ h
  · exact h

theorem State.canLatch_keep {o s : State} (hK : Keep L o s) (lSto : L.sto = true := by first | rfl | assumption) (lCan : L.can = true := by first | rfl | assumption) : Keep L o (State.canLatch s) := by
  unfold State.canLatch
  split
  · exact hK
  · extract_lets v
    have hv : s.sto.inView.wf = true → v.wf = true := fun h =>
      foldl_wf _ (fun m c h => foldl_wf _ (fun m b h => CanBuf.latch_wf m b h) _ h) _ h
    clear_value v
    exact Keep.upCan (Keep.upSto hK (fun xk => ⟨xk.1, xk.2, xk.3, hv xk.4, xk.5⟩)) _

theorem State.canWinRead_keep {o₀ s : State} (hK : Keep L o₀ s) (n : Nat) (i : Nat) (lCan : L.can = true := by first | rfl | assumption) : Keep L o₀ (State.canWinRead s n i).2 := by
  unfold State.canWinRead
  repeat' (first
    | with_reducible assumption
    | with_reducible apply State.upBuf_keep
    | with_reducible apply Keep.ite2
    | with_reducible apply Keep.ite1
    | with_reducible apply Keep.ite
    | (extract_lets +onlyGivenNames y; (first | ((have hy : Keep L o₀ y := (by unfold y; repeat' (first | with_reducible assumption | with_reducible apply State.upBuf_keep | with_reducible apply Keep.ite2 | with_reducible apply Keep.ite1 | with_reducible apply Keep.ite | extract_lets | split))); clear_value y) | ((have hy : Keep L o₀ y.1 := (by unfold y; repeat' (first | with_reducible assumption | with_reducible apply State.upBuf_keep | with_reducible apply Keep.ite2 | with_reducible apply Keep.ite1 | with_reducible apply Keep.ite | extract_lets | split))); clear_value y) | ((have hy : Keep L o₀ y.2 := (by unfold y; repeat' (first | with_reducible assumption | with_reducible apply State.upBuf_keep | with_reducible apply Keep.ite2 | with_reducible apply Keep.ite1 | with_reducible apply Keep.ite | extract_lets | split))); clear_value y) | clear_value y | skip))
    | split)

theorem State.canFifoWord_keep {o₀ s : State} (hK : Keep L o₀ s) (n : Nat) (i : Nat) (lCan : L.can = true := by first | rfl | assumption) : Keep L o₀ (State.canFifoWord s n i).2 := by
  unfold State.canFifoWord
  repeat' (first
    | with_reducible assumption
    | with_reducible apply State.upCanPort_keep
    | with_reducible apply Keep.ite2
    | with_reducible apply Keep.ite1
    | with_reducible apply Keep.ite
    | split)

theorem State.canBufSel_keep {o₀ s : State} (hK : Keep L o₀ s) (n : Nat) (b : Nat) (lCan : L.can = true := by first | rfl | assumption) (lEvr : L.evr = true := by first | rfl | assumption) : Keep L o₀ (State.canBufSel s n b) := by
  unfold State.canBufSel
  repeat' (first
    | with_reducible assumption
    | with_reducible apply State.upCanPort_keep
    | with_reducible apply State.upBuf_keep
    | with_reducible apply State.canCause_keep
    | with_reducible apply Keep.ite
    | (extract_lets +onlyGivenNames y; (first | ((have hy : Keep L o₀ y := (by unfold y; repeat' (first | with_reducible assumption | with_reducible apply State.upCanPort_keep | with_reducible apply State.upBuf_keep | with_reducible apply State.canCause_keep | with_reducible apply Keep.ite | extract_lets | split))); clear_value y) | clear_value y | skip))
    | split)

theorem State.canQueue_keep {o₀ s : State} (hK : Keep L o₀ s) (n : Nat) (b : Nat) (f : List Word) (drop : Bool) (lCan : L.can = true := by first | rfl | assumption) (lEvr : L.evr = true := by first | rfl | assumption) : Keep L o₀ (State.canQueue s n b f drop) := by
  unfold State.canQueue
  repeat' (first
    | with_reducible assumption
    | with_reducible apply State.upCanPort_keep
    | with_reducible apply State.upBuf_keep
    | with_reducible apply State.canCause_keep
    | with_reducible apply Keep.ite
    | (extract_lets +onlyGivenNames y; (first | ((have hy : Keep L o₀ y := (by unfold y; repeat' (first | with_reducible assumption | with_reducible apply State.upCanPort_keep | with_reducible apply State.upBuf_keep | with_reducible apply State.canCause_keep | with_reducible apply Keep.ite | extract_lets | split))); clear_value y) | clear_value y | skip))
    | split)

theorem State.canTxReq_keep {o₀ s : State} (hK : Keep L o₀ s) (n : Nat) (b : Nat) (lCan : L.can = true := by first | rfl | assumption) (lEvr : L.evr = true := by first | rfl | assumption) : Keep L o₀ (State.canTxReq s n b) := by
  unfold State.canTxReq
  repeat' (first
    | with_reducible assumption
    | with_reducible apply State.canCause_keep
    | with_reducible apply State.canQueue_keep
    | with_reducible apply Keep.ite
    | (extract_lets +onlyGivenNames y; (first | ((have hy : Keep L o₀ y := (by unfold y; repeat' (first | with_reducible assumption | with_reducible apply State.canCause_keep | with_reducible apply State.canQueue_keep | with_reducible apply Keep.ite | extract_lets | split))); clear_value y) | clear_value y | skip))
    | split)

theorem State.canTxAbort_keep {o₀ s : State} (hK : Keep L o₀ s) (n : Nat) (b : Nat) (lCan : L.can = true := by first | rfl | assumption) : Keep L o₀ (State.canTxAbort s n b) := by
  unfold State.canTxAbort
  repeat' (first
    | with_reducible assumption
    | with_reducible apply State.upBuf_keep
    | with_reducible apply Keep.ite
    | (extract_lets +onlyGivenNames y; (first | ((have hy : Keep L o₀ y := (by unfold y; repeat' (first | with_reducible assumption | with_reducible apply State.upBuf_keep | with_reducible apply Keep.ite | extract_lets | split))); clear_value y) | clear_value y | skip))
    | split)

theorem State.canTake1_keep {o₀ s : State} (hK : Keep L o₀ s) (n : Nat) (i : Nat) (lCan : L.can = true := by first | rfl | assumption) (lEvr : L.evr = true := by first | rfl | assumption) : Keep L o₀ (State.canTake1 s n i) := by
  unfold State.canTake1
  repeat' (first
    | with_reducible assumption
    | with_reducible apply State.upBuf_keep
    | with_reducible apply State.canQueue_keep
    | with_reducible apply Keep.ite
    | (extract_lets +onlyGivenNames y; (first | ((have hy : Keep L o₀ y := (by unfold y; repeat' (first | with_reducible assumption | with_reducible apply State.upBuf_keep | with_reducible apply State.canQueue_keep | with_reducible apply Keep.ite | extract_lets | split))); clear_value y) | clear_value y | skip))
    | split)

theorem State.canTake_keep {o₀ s : State} (hK : Keep L o₀ s) (outs : List (Nat × Nat × Nat)) (lCan : L.can = true := by first | rfl | assumption) (lEvr : L.evr = true := by first | rfl | assumption) : Keep L o₀ (State.canTake s outs) := by
  unfold State.canTake
  repeat' (first
    | with_reducible assumption
    | with_reducible apply State.canTake1_keep
    | with_reducible refine Keep.foldl (fun _ _ _ => ?_) _ ?_
    | with_reducible refine Keep.foldl1 (fun _ _ _ _ => ?_) _ ?_
    | with_reducible refine Keep.foldl2 (fun _ _ _ _ => ?_) _ ?_
    | with_reducible apply Keep.ite
    | (extract_lets +onlyGivenNames y; (first | ((have hy : Keep L o₀ y := (by unfold y; repeat' (first | with_reducible assumption | with_reducible apply State.canTake1_keep | with_reducible refine Keep.foldl (fun _ _ _ => ?_) _ ?_ | with_reducible refine Keep.foldl1 (fun _ _ _ _ => ?_) _ ?_ | with_reducible refine Keep.foldl2 (fun _ _ _ _ => ?_) _ ?_ | with_reducible apply Keep.ite | extract_lets | split))); clear_value y) | ((have hy : Keep L o₀ y.1 := (by unfold y; repeat' (first | with_reducible assumption | with_reducible apply State.canTake1_keep | with_reducible refine Keep.foldl (fun _ _ _ => ?_) _ ?_ | with_reducible refine Keep.foldl1 (fun _ _ _ _ => ?_) _ ?_ | with_reducible refine Keep.foldl2 (fun _ _ _ _ => ?_) _ ?_ | with_reducible apply Keep.ite | extract_lets | split))); clear_value y) | ((have hy : Keep L o₀ y.2 := (by unfold y; repeat' (first | with_reducible assumption | with_reducible apply State.canTake1_keep | with_reducible refine Keep.foldl (fun _ _ _ => ?_) _ ?_ | with_reducible refine Keep.foldl1 (fun _ _ _ _ => ?_) _ ?_ | with_reducible refine Keep.foldl2 (fun _ _ _ _ => ?_) _ ?_ | with_reducible apply Keep.ite | extract_lets | split))); clear_value y) | clear_value y | skip))
    | split)

theorem State.canTakeover_keep {o₀ s : State} (hK : Keep L o₀ s) (lCan : L.can = true := by first | rfl | assumption) : Keep L o₀ (State.canTakeover s) := by
  unfold State.canTakeover
  repeat' (first
    | with_reducible assumption
    | with_reducible apply Keep.upCan
    | with_reducible apply Keep.ite
    | split)

theorem State.canStart_keep {o₀ s : State} (hK : Keep L o₀ s) (n : Nat) (lCan : L.can = true := by first | rfl | assumption) : Keep L o₀ (State.canStart s n) := by
  unfold State.canStart
  repeat' (first
    | with_reducible assumption
    | with_reducible apply State.upCanPort_keep
    | with_reducible apply State.upBuf_keep
    | with_reducible apply Keep.ite
    | (extract_lets +onlyGivenNames y; (first | ((have hy : Keep L o₀ y := (by unfold y; repeat' (first | with_reducible assumption | with_reducible apply State.upCanPort_keep | with_reducible apply State.upBuf_keep | with_reducible apply Keep.ite | extract_lets | split))); clear_value y) | clear_value y | skip))
    | split)

theorem State.canRemove_keep {o₀ s : State} (hK : Keep L o₀ s) (n : Nat) (b : Nat) (x : CanTx) (lCan : L.can = true := by first | rfl | assumption) : Keep L o₀ (State.canRemove s n b x) := by
  unfold State.canRemove
  repeat' (first
    | with_reducible assumption
    | with_reducible apply State.upBuf_keep
    | with_reducible apply Keep.ite
    | split)

theorem State.gateClose_keep {o s : State} (hK : Keep L o s) (n : Nat) (lCan : L.can = true := by first | rfl | assumption) (lEvr : L.evr = true := by first | rfl | assumption) : Keep L o (State.gateClose s n) := by
  unfold State.gateClose
  extract_lets c close miss u
  have hu : Keep L o u := State.upCanPort_keep hK _ _
  have hc : ∀ x, Keep L o x → Keep L o (close x) := fun x h => State.upCanPort_keep h _ _
  have hm : ∀ x b, Keep L o x → Keep L o (miss x b) := fun x b h => by
    unfold miss
    repeat' (first
      | with_reducible assumption
      | with_reducible apply State.upCanPort_keep
      | with_reducible apply State.canCause_keep
      | with_reducible apply State.upBuf_keep
      | with_reducible apply Keep.ite
      | split)
  clear_value close miss u
  repeat' (first
    | with_reducible assumption
    | with_reducible apply hc
    | with_reducible apply hm
    | with_reducible apply State.upCanPort_keep
    | with_reducible apply State.canCause_keep
    | with_reducible apply State.upBuf_keep
    | with_reducible apply Keep.ite
    | split)

theorem State.gateOpen_keep {o₀ s : State} (hK : Keep L o₀ s) (n : Nat) (g : Nat) (lCan : L.can = true := by first | rfl | assumption) (lEvr : L.evr = true := by first | rfl | assumption) : Keep L o₀ (State.gateOpen s n g) := by
  unfold State.gateOpen
  repeat' (first
    | with_reducible assumption
    | with_reducible apply State.gateClose_keep
    | with_reducible apply State.upCanPort_keep
    | with_reducible apply Keep.ite
    | (extract_lets +onlyGivenNames y; (first | ((have hy : Keep L o₀ y := (by unfold y; repeat' (first | with_reducible assumption | with_reducible apply State.gateClose_keep | with_reducible apply State.upCanPort_keep | with_reducible apply Keep.ite | extract_lets | split))); clear_value y) | clear_value y | skip))
    | split)

theorem State.canRead_keep {o₀ s : State} (hK : Keep L o₀ s) (n : Nat) (off : Nat) (priv : Bool) (lCan : L.can = true := by first | rfl | assumption) : Keep L o₀ (State.canRead s n off priv).2 := by
  unfold State.canRead
  repeat' (first
    | with_reducible assumption
    | with_reducible apply State.upCanPort_keep
    | with_reducible apply State.canWinRead_keep
    | with_reducible apply State.canFifoWord_keep
    | with_reducible apply Keep.ite2
    | with_reducible apply Keep.ite1
    | with_reducible apply Keep.ite
    | with_reducible refine Keep.of_eq1 ?_ (by assumption)
    | with_reducible refine Keep.of_eq2 ?_ (by assumption)
    | (extract_lets +onlyGivenNames y; (first | ((have hy : Keep L o₀ y := (by unfold y; repeat' (first | with_reducible assumption | with_reducible apply State.upCanPort_keep | with_reducible apply State.canWinRead_keep | with_reducible apply State.canFifoWord_keep | with_reducible apply Keep.ite2 | with_reducible apply Keep.ite1 | with_reducible apply Keep.ite | with_reducible refine Keep.of_eq1 ?_ (by assumption) | with_reducible refine Keep.of_eq2 ?_ (by assumption) | extract_lets | split))); clear_value y) | ((have hy : Keep L o₀ y.1 := (by unfold y; repeat' (first | with_reducible assumption | with_reducible apply State.upCanPort_keep | with_reducible apply State.canWinRead_keep | with_reducible apply State.canFifoWord_keep | with_reducible apply Keep.ite2 | with_reducible apply Keep.ite1 | with_reducible apply Keep.ite | with_reducible refine Keep.of_eq1 ?_ (by assumption) | with_reducible refine Keep.of_eq2 ?_ (by assumption) | extract_lets | split))); clear_value y) | ((have hy : Keep L o₀ y.2 := (by unfold y; repeat' (first | with_reducible assumption | with_reducible apply State.upCanPort_keep | with_reducible apply State.canWinRead_keep | with_reducible apply State.canFifoWord_keep | with_reducible apply Keep.ite2 | with_reducible apply Keep.ite1 | with_reducible apply Keep.ite | with_reducible refine Keep.of_eq1 ?_ (by assumption) | with_reducible refine Keep.of_eq2 ?_ (by assumption) | extract_lets | split))); clear_value y) | clear_value y | skip))
    | split)

theorem State.canCtrl_keep {o₀ s : State} (hK : Keep L o₀ s) (n : Nat) (v : Word) (lCan : L.can = true := by first | rfl | assumption) : Keep L o₀ (State.canCtrl s n v) := by
  unfold State.canCtrl
  repeat' (first
    | with_reducible assumption
    | with_reducible apply State.upCanPort_keep
    | with_reducible apply Keep.ite
    | (extract_lets +onlyGivenNames y; (first | ((have hy : Keep L o₀ y := (by unfold y; repeat' (first | with_reducible assumption | with_reducible apply State.upCanPort_keep | with_reducible apply Keep.ite | extract_lets | split))); clear_value y) | clear_value y | skip))
    | split)

theorem State.canWrite_keep {o₀ s : State} (hK : Keep L o₀ s) (n : Nat) (off : Nat) (v : Word) (priv : Bool) (lCan : L.can = true := by first | rfl | assumption) (lEvr : L.evr = true := by first | rfl | assumption) : WriteAns.Kept L o₀ (State.canWrite s n off v priv) := by
  unfold State.canWrite
  repeat' (first
    | with_reducible assumption
    | with_reducible apply State.ok_keep
    | with_reducible apply State.upCanPort_keep
    | with_reducible apply State.canCtrl_keep
    | with_reducible apply State.canBufSel_keep
    | with_reducible apply State.canTxReq_keep
    | with_reducible apply State.canTxAbort_keep
    | with_reducible apply State.upBuf_keep
    | with_reducible apply refused_kept
    | with_reducible apply refusedIn_kept
    | with_reducible apply done_kept
    | with_reducible apply needPriv_kept
    | with_reducible apply needOpen_kept
    | with_reducible apply needLegal_kept
    | with_reducible apply ite_kept
    | with_reducible apply Keep.ite
    | (extract_lets +onlyGivenNames y; (first | ((have hy : Keep L o₀ y := (by unfold y; repeat' (first | with_reducible assumption | with_reducible apply State.ok_keep | with_reducible apply State.upCanPort_keep | with_reducible apply State.canCtrl_keep | with_reducible apply State.canBufSel_keep | with_reducible apply State.canTxReq_keep | with_reducible apply State.canTxAbort_keep | with_reducible apply State.upBuf_keep | with_reducible apply refused_kept | with_reducible apply refusedIn_kept | with_reducible apply done_kept | with_reducible apply needPriv_kept | with_reducible apply needOpen_kept | with_reducible apply needLegal_kept | with_reducible apply ite_kept | with_reducible apply Keep.ite | extract_lets | split))); clear_value y) | ((have hy : Keep L o₀ y.state := (by unfold y; repeat' (first | with_reducible assumption | with_reducible apply State.ok_keep | with_reducible apply State.upCanPort_keep | with_reducible apply State.canCtrl_keep | with_reducible apply State.canBufSel_keep | with_reducible apply State.canTxReq_keep | with_reducible apply State.canTxAbort_keep | with_reducible apply State.upBuf_keep | with_reducible apply refused_kept | with_reducible apply refusedIn_kept | with_reducible apply done_kept | with_reducible apply needPriv_kept | with_reducible apply needOpen_kept | with_reducible apply needLegal_kept | with_reducible apply ite_kept | with_reducible apply Keep.ite | extract_lets | split))); clear_value y) | clear_value y | skip))
    | split)

theorem State.feedKv_keep {o₀ s : State} (hK : Keep L o₀ s) (n : Nat) (lCan : L.can = true := by first | rfl | assumption) (lEvr : L.evr = true := by first | rfl | assumption) : Keep L o₀ (State.feedKv s n) := by
  unfold State.feedKv
  repeat' (first
    | with_reducible assumption
    | with_reducible apply State.canQueue_keep
    | with_reducible apply State.upCanPort_keep
    | with_reducible refine Keep.foldl (fun _ _ _ => ?_) _ ?_
    | with_reducible refine Keep.foldl1 (fun _ _ _ _ => ?_) _ ?_
    | with_reducible refine Keep.foldl2 (fun _ _ _ _ => ?_) _ ?_
    | with_reducible apply Keep.ite
    | (extract_lets +onlyGivenNames y; (first | ((have hy : Keep L o₀ y := (by unfold y; repeat' (first | with_reducible assumption | with_reducible apply State.canQueue_keep | with_reducible apply State.upCanPort_keep | with_reducible refine Keep.foldl (fun _ _ _ => ?_) _ ?_ | with_reducible refine Keep.foldl1 (fun _ _ _ _ => ?_) _ ?_ | with_reducible refine Keep.foldl2 (fun _ _ _ _ => ?_) _ ?_ | with_reducible apply Keep.ite | extract_lets | split))); clear_value y) | ((have hy : Keep L o₀ y.1 := (by unfold y; repeat' (first | with_reducible assumption | with_reducible apply State.canQueue_keep | with_reducible apply State.upCanPort_keep | with_reducible refine Keep.foldl (fun _ _ _ => ?_) _ ?_ | with_reducible refine Keep.foldl1 (fun _ _ _ _ => ?_) _ ?_ | with_reducible refine Keep.foldl2 (fun _ _ _ _ => ?_) _ ?_ | with_reducible apply Keep.ite | extract_lets | split))); clear_value y) | ((have hy : Keep L o₀ y.2 := (by unfold y; repeat' (first | with_reducible assumption | with_reducible apply State.canQueue_keep | with_reducible apply State.upCanPort_keep | with_reducible refine Keep.foldl (fun _ _ _ => ?_) _ ?_ | with_reducible refine Keep.foldl1 (fun _ _ _ _ => ?_) _ ?_ | with_reducible refine Keep.foldl2 (fun _ _ _ _ => ?_) _ ?_ | with_reducible apply Keep.ite | extract_lets | split))); clear_value y) | clear_value y | skip))
    | split)

theorem State.kvCan_keep {o₀ s : State} (hK : Keep L o₀ s) (n : Nat) (b : List Byte) (lCan : L.can = true := by first | rfl | assumption) (lEvr : L.evr = true := by first | rfl | assumption) : Keep L o₀ (State.kvCan s n b) := by
  unfold State.kvCan
  repeat' (first
    | with_reducible assumption
    | with_reducible apply State.upCanPort_keep
    | with_reducible apply State.feedKv_keep
    | with_reducible apply Keep.ite
    | (extract_lets +onlyGivenNames y; (first | ((have hy : Keep L o₀ y := (by unfold y; repeat' (first | with_reducible assumption | with_reducible apply State.upCanPort_keep | with_reducible apply State.feedKv_keep | with_reducible apply Keep.ite | extract_lets | split))); clear_value y) | clear_value y | skip))
    | split)

theorem State.canHeard_keep {o₀ s : State} (hK : Keep L o₀ s) (n : Nat) (lCan : L.can = true := by first | rfl | assumption) (lFree : L.free = true := by first | rfl | assumption) : Keep L o₀ (State.canHeard s n) := by
  unfold State.canHeard
  repeat' (first
    | with_reducible assumption
    | with_reducible apply State.useFree_keep
    | with_reducible apply State.upCanPort_keep
    | with_reducible apply Keep.ite
    | (extract_lets +onlyGivenNames y; (first | ((have hy : Keep L o₀ y := (by unfold y; repeat' (first | with_reducible assumption | with_reducible apply State.useFree_keep | with_reducible apply State.upCanPort_keep | with_reducible apply Keep.ite | extract_lets | split))); clear_value y) | clear_value y | skip))
    | split)

theorem execCanFrameReceived_keep {s s₂ : State} (n : Nat) (t : Nat) (frame : List Word) (hx : execCanFrameReceived n t frame s = .next s₂) (lClk : L.clk = true := by first | rfl | assumption) (lCan : L.can = true := by first | rfl | assumption) (lEvr : L.evr = true := by first | rfl | assumption) (lTrc : L.trc = true := by first | rfl | assumption) (lFree : L.free = true := by first | rfl | assumption) : Keep L s s₂ := by
  unfold execCanFrameReceived at hx
  with_reducible refine Keep.commit ?_ hx
  clear hx
  have hK := Keep.refl (L := L) s
  repeat' (first
    | with_reducible assumption
    | with_reducible apply State.reach_keep
    | with_reducible apply State.upCanPort_keep
    | with_reducible apply State.canCounters_keep
    | with_reducible apply State.canHeard_keep
    | with_reducible apply State.canReceive_keep
    | with_reducible apply Keep.ite
    | (extract_lets +onlyGivenNames y; (first | ((have hy : Keep L s y := (by unfold y; repeat' (first | with_reducible assumption | with_reducible apply State.reach_keep | with_reducible apply State.upCanPort_keep | with_reducible apply State.canCounters_keep | with_reducible apply State.canHeard_keep | with_reducible apply State.canReceive_keep | with_reducible apply Keep.ite | extract_lets | split))); clear_value y) | clear_value y | skip))
    | split)

theorem execCanLockTimeout_keep {s s₂ : State} (n : Nat) (fifo : Bool) (hx : execCanLockTimeout n fifo s = .next s₂) (lCan : L.can = true := by first | rfl | assumption) (lEvr : L.evr = true := by first | rfl | assumption) : Keep L s s₂ := by
  unfold execCanLockTimeout at hx
  with_reducible refine Keep.commit ?_ hx
  clear hx
  have hK := Keep.refl (L := L) s
  repeat' (first
    | with_reducible assumption
    | with_reducible apply State.upCanPort_keep
    | with_reducible apply State.canCause_keep
    | with_reducible apply State.upBuf_keep
    | with_reducible apply Keep.ite
    | (extract_lets +onlyGivenNames y; (first | ((have hy : Keep L s y := (by unfold y; repeat' (first | with_reducible assumption | with_reducible apply State.upCanPort_keep | with_reducible apply State.canCause_keep | with_reducible apply State.upBuf_keep | with_reducible apply Keep.ite | extract_lets | split))); clear_value y) | clear_value y | skip))
    | split)

theorem execCanTxStart_keep {s s₂ : State} (n : Nat) (t : Nat) (hx : execCanTxStart n t s = .next s₂) (lClk : L.clk = true := by first | rfl | assumption) (lCan : L.can = true := by first | rfl | assumption) : Keep L s s₂ := by
  unfold execCanTxStart at hx
  with_reducible refine Keep.commit ?_ hx
  clear hx
  have hK := Keep.refl (L := L) s
  repeat' (first
    | with_reducible assumption
    | with_reducible apply State.reach_keep
    | with_reducible apply State.canStart_keep
    | with_reducible apply Keep.ite
    | split)

theorem State.measureLoop_keep {o₀ s : State} (hK : Keep L o₀ s) (n : Nat) (x : CanTx) (lCan : L.can = true := by first | rfl | assumption) (lFree : L.free = true := by first | rfl | assumption) : Keep L o₀ (State.measureLoop s n x) := by
  unfold State.measureLoop
  repeat' (first
    | with_reducible assumption
    | with_reducible apply State.useFree_keep
    | with_reducible apply State.upCanPort_keep
    | with_reducible apply Keep.ite
    | (extract_lets +onlyGivenNames y; (first | ((have hy : Keep L o₀ y := (by unfold y; repeat' (first | with_reducible assumption | with_reducible apply State.useFree_keep | with_reducible apply State.upCanPort_keep | with_reducible apply Keep.ite | extract_lets | split))); clear_value y) | clear_value y | skip))
    | split)

theorem execCanTxEnd_keep {s s₂ : State} (n : Nat) (t : Nat) (hx : execCanTxEnd n t s = .next s₂) (lClk : L.clk = true := by first | rfl | assumption) (lNet : L.net = true := by first | rfl | assumption) (lCan : L.can = true := by first | rfl | assumption) (lEvr : L.evr = true := by first | rfl | assumption) (lFree : L.free = true := by first | rfl | assumption) : Keep L s s₂ := by
  unfold execCanTxEnd at hx
  with_reducible refine Keep.commit ?_ hx
  clear hx
  have hK := Keep.refl (L := L) s
  repeat' (first
    | with_reducible assumption
    | with_reducible apply State.reach_keep
    | with_reducible apply State.canRemove_keep
    | with_reducible apply State.upCanPort_keep
    | with_reducible apply State.measureLoop_keep
    | with_reducible apply State.upBuf_keep
    | with_reducible apply State.send_keep
    | with_reducible apply State.feedKv_keep
    | with_reducible apply Keep.ite
    | (extract_lets +onlyGivenNames y; (first | ((have hy : Keep L s y := (by unfold y; repeat' (first | with_reducible assumption | with_reducible apply State.reach_keep | with_reducible apply State.canRemove_keep | with_reducible apply State.upCanPort_keep | with_reducible apply State.measureLoop_keep | with_reducible apply State.upBuf_keep | with_reducible apply State.send_keep | with_reducible apply State.feedKv_keep | with_reducible apply Keep.ite | extract_lets | split))); clear_value y) | clear_value y | skip))
    | split)

theorem execCanTxError_keep {s s₂ : State} (n : Nat) (lec : Nat) (data : Bool) (arbitration : Bool) (ack : Bool) (stuff : Bool) (dom : Nat) (hx : execCanTxError n lec data arbitration ack stuff dom s = .next s₂) (lCan : L.can = true := by first | rfl | assumption) (lEvr : L.evr = true := by first | rfl | assumption) : Keep L s s₂ := by
  unfold execCanTxError at hx
  with_reducible refine Keep.commit ?_ hx
  clear hx
  have hK := Keep.refl (L := L) s
  repeat' (first
    | with_reducible assumption
    | with_reducible apply State.upCanPort_keep
    | with_reducible apply State.upBuf_keep
    | with_reducible apply State.canRemove_keep
    | with_reducible apply State.canCounters_keep
    | with_reducible apply State.canCause_keep
    | with_reducible apply Keep.ite
    | (extract_lets +onlyGivenNames y; (first | ((have hy : Keep L s y := (by unfold y; repeat' (first | with_reducible assumption | with_reducible apply State.upCanPort_keep | with_reducible apply State.upBuf_keep | with_reducible apply State.canRemove_keep | with_reducible apply State.canCounters_keep | with_reducible apply State.canCause_keep | with_reducible apply Keep.ite | extract_lets | split))); clear_value y) | clear_value y | skip))
    | split)

theorem execCanRecoveryEnd_keep {s s₂ : State} (n : Nat) (hx : execCanRecoveryEnd n s = .next s₂) (lCan : L.can = true := by first | rfl | assumption) (lEvr : L.evr = true := by first | rfl | assumption) : Keep L s s₂ := by
  unfold execCanRecoveryEnd at hx
  with_reducible refine Keep.commit ?_ hx
  clear hx
  have hK := Keep.refl (L := L) s
  repeat' (first
    | with_reducible assumption
    | with_reducible apply State.upCanPort_keep
    | with_reducible apply State.canCause_keep
    | with_reducible apply Keep.ite
    | (extract_lets +onlyGivenNames y; (first | ((have hy : Keep L s y := (by unfold y; repeat' (first | with_reducible assumption | with_reducible apply State.upCanPort_keep | with_reducible apply State.canCause_keep | with_reducible apply Keep.ite | extract_lets | split))); clear_value y) | clear_value y | skip))
    | split)

theorem execCanBusIntegration_keep {s s₂ : State} (n : Nat) (hx : execCanBusIntegration n s = .next s₂) (lCan : L.can = true := by first | rfl | assumption) : Keep L s s₂ := by
  unfold execCanBusIntegration at hx
  with_reducible refine Keep.commit ?_ hx
  clear hx
  have hK := Keep.refl (L := L) s
  repeat' (first
    | with_reducible assumption
    | with_reducible apply State.upCanPort_keep
    | with_reducible apply Keep.ite
    | (extract_lets +onlyGivenNames y; (first | ((have hy : Keep L s y := (by unfold y; repeat' (first | with_reducible assumption | with_reducible apply State.upCanPort_keep | with_reducible apply Keep.ite | extract_lets | split))); clear_value y) | clear_value y | skip))
    | split)

theorem execGateWindowOpen_keep {s s₂ : State} (n : Nat) (gate : Nat) (t : Nat) (hx : execGateWindowOpen n gate t s = .next s₂) (lClk : L.clk = true := by first | rfl | assumption) (lCan : L.can = true := by first | rfl | assumption) (lEvr : L.evr = true := by first | rfl | assumption) : Keep L s s₂ := by
  unfold execGateWindowOpen at hx
  with_reducible refine Keep.commit ?_ hx
  clear hx
  have hK := Keep.refl (L := L) s
  repeat' (first
    | with_reducible assumption
    | with_reducible apply State.reach_keep
    | with_reducible apply State.gateOpen_keep
    | with_reducible apply Keep.ite
    | split)

theorem execGateWindowClose_keep {s s₂ : State} (n : Nat) (t : Nat) (hx : execGateWindowClose n t s = .next s₂) (lClk : L.clk = true := by first | rfl | assumption) (lCan : L.can = true := by first | rfl | assumption) (lEvr : L.evr = true := by first | rfl | assumption) : Keep L s s₂ := by
  unfold execGateWindowClose at hx
  with_reducible refine Keep.commit ?_ hx
  clear hx
  have hK := Keep.refl (L := L) s
  repeat' (first
    | with_reducible assumption
    | with_reducible apply State.reach_keep
    | with_reducible apply State.gateClose_keep
    | with_reducible apply Keep.ite
    | split)

theorem execCanReceiveError_keep {s s₂ : State} (n : Nat) (exempt : Bool) (dom : Nat) (lec : Nat) (data : Bool) (hx : execCanReceiveError n exempt dom lec data s = .next s₂) (lCan : L.can = true := by first | rfl | assumption) (lEvr : L.evr = true := by first | rfl | assumption) : Keep L s s₂ := by
  unfold execCanReceiveError at hx
  with_reducible refine Keep.commit ?_ hx
  clear hx
  have hK := Keep.refl (L := L) s
  repeat' (first
    | with_reducible assumption
    | with_reducible apply State.upCanPort_keep
    | with_reducible apply State.canCounters_keep
    | with_reducible apply Keep.ite
    | (extract_lets +onlyGivenNames y; (first | ((have hy : Keep L s y := (by unfold y; repeat' (first | with_reducible assumption | with_reducible apply State.upCanPort_keep | with_reducible apply State.canCounters_keep | with_reducible apply Keep.ite | extract_lets | split))); clear_value y) | clear_value y | skip))
    | split)

end Sys2Proof.Machine
end

