-- ==== Sys2Proof/Laws/KeepPublish.lean ====
section
/-! SUPPORT. What each operation of Machine/Publish.lean keeps (Laws/Keep.lean). -/

set_option Elab.async false
set_option linter.all false

namespace Sys2Proof.Machine

open Sys2Proof

set_option linter.unusedVariables false
set_option linter.tactic.unusedName false

variable {L : Parts}

theorem State.ok_keep {o₀ s : State} (hK : Keep L o₀ s) : Keep L o₀ (State.ok s).state := by
  unfold State.ok
  repeat' (first
    | with_reducible assumption
    | with_reducible apply Keep.ite
    | split)

theorem State.no_keep {o₀ s : State} (hK : Keep L o₀ s) (status : Nat) (info : Nat) : Keep L o₀ (State.no s status info).state := by
  unfold State.no
  repeat' (first
    | with_reducible assumption
    | with_reducible apply Keep.ite
    | split)

theorem State.mapDone_keep {o₀ s : State} (hK : Keep L o₀ s) (b : List Byte) (lDict : L.dict = true := by first | rfl | assumption) : Keep L o₀ (State.mapDone s b).state := by
  unfold State.mapDone
  repeat' (first
    | with_reducible assumption
    | with_reducible apply State.no_keep
    | with_reducible apply State.ok_keep
    | with_reducible refine Keep.upDict ?_ ?_
    | exact Eq.refl _
    | with_reducible apply Keep.ite
    | (extract_lets +onlyGivenNames y; (first | ((have hy : Keep L o₀ y := (by unfold y; repeat' (first | with_reducible assumption | with_reducible apply State.no_keep | with_reducible apply State.ok_keep | with_reducible refine Keep.upDict ?_ ?_ | exact Eq.refl _ | with_reducible apply Keep.ite | extract_lets | split))); clear_value y) | ((have hy : Keep L o₀ y.state := (by unfold y; repeat' (first | with_reducible assumption | with_reducible apply State.no_keep | with_reducible apply State.ok_keep | with_reducible refine Keep.upDict ?_ ?_ | exact Eq.refl _ | with_reducible apply Keep.ite | extract_lets | split))); clear_value y) | clear_value y | skip))
    | split)

theorem State.mapSegment_keep {o₀ s : State} (hK : Keep L o₀ s) (off : Nat) (data : List Byte) (last : Bool) (lDict : L.dict = true := by first | rfl | assumption) : Keep L o₀ (State.mapSegment s off data last).state := by
  unfold State.mapSegment
  repeat' (first
    | with_reducible assumption
    | with_reducible apply State.no_keep
    | with_reducible apply State.mapDone_keep
    | with_reducible apply State.ok_keep
    | with_reducible refine Keep.upDict ?_ ?_
    | exact Eq.refl _
    | with_reducible apply Keep.ite
    | (extract_lets +onlyGivenNames y; (first | ((have hy : Keep L o₀ y := (by unfold y; repeat' (first | with_reducible assumption | with_reducible apply State.no_keep | with_reducible apply State.mapDone_keep | with_reducible apply State.ok_keep | with_reducible refine Keep.upDict ?_ ?_ | exact Eq.refl _ | with_reducible apply Keep.ite | extract_lets | split))); clear_value y) | ((have hy : Keep L o₀ y.state := (by unfold y; repeat' (first | with_reducible assumption | with_reducible apply State.no_keep | with_reducible apply State.mapDone_keep | with_reducible apply State.ok_keep | with_reducible refine Keep.upDict ?_ ?_ | exact Eq.refl _ | with_reducible apply Keep.ite | extract_lets | split))); clear_value y) | clear_value y | skip))
    | split)

theorem State.takeMap_keep {o₀ s : State} (hK : Keep L o₀ s) (lDict : L.dict = true := by first | rfl | assumption) : Keep L o₀ (State.takeMap s) := by
  unfold State.takeMap
  repeat' (first
    | with_reducible assumption
    | with_reducible refine Keep.upDict ?_ ?_
    | exact Eq.refl _
    | with_reducible apply Keep.ite
    | split)

theorem State.takeSnap_keep {o₀ s : State} (hK : Keep L o₀ s) (lDict : L.dict = true := by first | rfl | assumption) : Keep L o₀ (State.takeSnap s) := by
  unfold State.takeSnap
  repeat' (first
    | with_reducible assumption
    | with_reducible refine Keep.upDict ?_ ?_
    | exact Eq.refl _
    | with_reducible apply Keep.ite
    | split)

theorem execPublishMapSegment_keep {s s₂ : State} (off : Nat) (data : List Byte) (last : Bool) (hx : execPublishMapSegment off data last s = .next s₂) (lDict : L.dict = true := by first | rfl | assumption) : Keep L s s₂ := by
  unfold execPublishMapSegment at hx
  with_reducible refine Keep.commit ?_ hx
  clear hx
  have hK := Keep.refl (L := L) s
  repeat' (first
    | with_reducible assumption
    | with_reducible apply State.mapSegment_keep
    | with_reducible apply Keep.ite
    | split)

end Sys2Proof.Machine
end

