-- ==== Sys2Proof/Laws/KeepBatches.lean ====
section
/-! SUPPORT. What each operation of Machine/Batches.lean keeps (Laws/Keep.lean). -/

set_option Elab.async false
set_option linter.all false

namespace Sys2Proof.Machine

open Sys2Proof

set_option linter.unusedVariables false
set_option linter.tactic.unusedName false

variable {L : Parts}

theorem State.kvSend_keep {o₀ s : State} (hK : Keep L o₀ s) (c : KChan) (b : List Byte) (lNet : L.net = true := by first | rfl | assumption) (lCan : L.can = true := by first | rfl | assumption) (lDict : L.dict = true := by first | rfl | assumption) (lEvr : L.evr = true := by first | rfl | assumption) : Keep L o₀ (State.kvSend s c b) := by
  unfold State.kvSend
  repeat' (first
    | with_reducible assumption
    | with_reducible apply State.kvCan_keep
    | with_reducible apply State.send_keep
    | with_reducible apply State.odxCauseBit_keep
    | with_reducible refine Keep.upDict ?_ ?_
    | exact Eq.refl _
    | with_reducible apply Keep.ite
    | split)

theorem State.batchDone_keep {o₀ s : State} (hK : Keep L o₀ s) (b : Batch) (status : Nat) (info : Nat) (ms : Nat) (lSto : L.sto = true := by first | rfl | assumption) (lNet : L.net = true := by first | rfl | assumption) (lCan : L.can = true := by first | rfl | assumption) (lDict : L.dict = true := by first | rfl | assumption) (lEvr : L.evr = true := by first | rfl | assumption) : Keep L o₀ (State.batchDone s b status info ms) := by
  unfold State.batchDone
  repeat' (first
    | with_reducible assumption
    | with_reducible apply State.odxCauseBit_keep
    | with_reducible apply State.kvSend_keep
    | with_reducible refine Keep.upSto ?_ (fun xk => ?_)
    | with_reducible exact xk
    | (with_reducible refine Store.wf.mk ?_ ?_ ?_ ?_ ?_ <;> try dsimp only)
    | with_reducible exact xk.program
    | with_reducible exact xk.lmem
    | with_reducible exact xk.durable
    | with_reducible exact xk.inView
    | with_reducible exact xk.launched
    | with_reducible apply memPut_wf
    | with_reducible apply ov_apply_wf
    | with_reducible apply memWrite_wf
    | with_reducible apply memClear_wf
    | with_reducible apply memRange_wf
    | with_reducible apply mem_nil_wf
    | with_reducible apply memOf_wf
    | with_reducible apply Keep.ite
    | (extract_lets +onlyGivenNames y; (first | ((have hy : Keep L o₀ y := (by unfold y; repeat' (first | with_reducible assumption | with_reducible apply State.odxCauseBit_keep | with_reducible apply State.kvSend_keep | with_reducible refine Keep.upSto ?_ (fun xk => ?_) | with_reducible exact xk | (with_reducible refine Store.wf.mk ?_ ?_ ?_ ?_ ?_ <;> try dsimp only) | with_reducible exact xk.program | with_reducible exact xk.lmem | with_reducible exact xk.durable | with_reducible exact xk.inView | with_reducible exact xk.launched | with_reducible apply memPut_wf | with_reducible apply ov_apply_wf | with_reducible apply memWrite_wf | with_reducible apply memClear_wf | with_reducible apply memRange_wf | with_reducible apply mem_nil_wf | with_reducible apply memOf_wf | with_reducible apply Keep.ite | extract_lets | split))); clear_value y) | clear_value y | skip))
    | split)

theorem State.reportBatches_keep {o₀ s : State} (hK : Keep L o₀ s) (lSto : L.sto = true := by first | rfl | assumption) (lNet : L.net = true := by first | rfl | assumption) (lCan : L.can = true := by first | rfl | assumption) (lDict : L.dict = true := by first | rfl | assumption) (lEvr : L.evr = true := by first | rfl | assumption) : Keep L o₀ (State.reportBatches s) := by
  unfold State.reportBatches
  repeat' (first
    | with_reducible assumption
    | with_reducible apply State.batchDone_keep
    | with_reducible refine Keep.upSto ?_ (fun xk => ?_)
    | with_reducible exact xk
    | (with_reducible refine Store.wf.mk ?_ ?_ ?_ ?_ ?_ <;> try dsimp only)
    | with_reducible exact xk.program
    | with_reducible exact xk.lmem
    | with_reducible exact xk.durable
    | with_reducible exact xk.inView
    | with_reducible exact xk.launched
    | with_reducible apply memPut_wf
    | with_reducible apply ov_apply_wf
    | with_reducible apply memWrite_wf
    | with_reducible apply memClear_wf
    | with_reducible apply memRange_wf
    | with_reducible apply mem_nil_wf
    | with_reducible apply memOf_wf
    | with_reducible refine Keep.foldl (fun _ _ _ => ?_) _ ?_
    | with_reducible refine Keep.foldl1 (fun _ _ _ _ => ?_) _ ?_
    | with_reducible refine Keep.foldl2 (fun _ _ _ _ => ?_) _ ?_
    | with_reducible apply Keep.ite
    | (extract_lets +onlyGivenNames y; (first | ((have hy : Keep L o₀ y := (by unfold y; repeat' (first | with_reducible assumption | with_reducible apply State.batchDone_keep | with_reducible refine Keep.upSto ?_ (fun xk => ?_) | with_reducible exact xk | (with_reducible refine Store.wf.mk ?_ ?_ ?_ ?_ ?_ <;> try dsimp only) | with_reducible exact xk.program | with_reducible exact xk.lmem | with_reducible exact xk.durable | with_reducible exact xk.inView | with_reducible exact xk.launched | with_reducible apply memPut_wf | with_reducible apply ov_apply_wf | with_reducible apply memWrite_wf | with_reducible apply memClear_wf | with_reducible apply memRange_wf | with_reducible apply mem_nil_wf | with_reducible apply memOf_wf | with_reducible refine Keep.foldl (fun _ _ _ => ?_) _ ?_ | with_reducible refine Keep.foldl1 (fun _ _ _ _ => ?_) _ ?_ | with_reducible refine Keep.foldl2 (fun _ _ _ _ => ?_) _ ?_ | with_reducible apply Keep.ite | extract_lets | split))); clear_value y) | ((have hy : Keep L o₀ y.1 := (by unfold y; repeat' (first | with_reducible assumption | with_reducible apply State.batchDone_keep | with_reducible refine Keep.upSto ?_ (fun xk => ?_) | with_reducible exact xk | (with_reducible refine Store.wf.mk ?_ ?_ ?_ ?_ ?_ <;> try dsimp only) | with_reducible exact xk.program | with_reducible exact xk.lmem | with_reducible exact xk.durable | with_reducible exact xk.inView | with_reducible exact xk.launched | with_reducible apply memPut_wf | with_reducible apply ov_apply_wf | with_reducible apply memWrite_wf | with_reducible apply memClear_wf | with_reducible apply memRange_wf | with_reducible apply mem_nil_wf | with_reducible apply memOf_wf | with_reducible refine Keep.foldl (fun _ _ _ => ?_) _ ?_ | with_reducible refine Keep.foldl1 (fun _ _ _ _ => ?_) _ ?_ | with_reducible refine Keep.foldl2 (fun _ _ _ _ => ?_) _ ?_ | with_reducible apply Keep.ite | extract_lets | split))); clear_value y) | ((have hy : Keep L o₀ y.2 := (by unfold y; repeat' (first | with_reducible assumption | with_reducible apply State.batchDone_keep | with_reducible refine Keep.upSto ?_ (fun xk => ?_) | with_reducible exact xk | (with_reducible refine Store.wf.mk ?_ ?_ ?_ ?_ ?_ <;> try dsimp only) | with_reducible exact xk.program | with_reducible exact xk.lmem | with_reducible exact xk.durable | with_reducible exact xk.inView | with_reducible exact xk.launched | with_reducible apply memPut_wf | with_reducible apply ov_apply_wf | with_reducible apply memWrite_wf | with_reducible apply memClear_wf | with_reducible apply memRange_wf | with_reducible apply mem_nil_wf | with_reducible apply memOf_wf | with_reducible refine Keep.foldl (fun _ _ _ => ?_) _ ?_ | with_reducible refine Keep.foldl1 (fun _ _ _ _ => ?_) _ ?_ | with_reducible refine Keep.foldl2 (fun _ _ _ _ => ?_) _ ?_ | with_reducible apply Keep.ite | extract_lets | split))); clear_value y) | clear_value y | skip))
    | split)

theorem State.applyBatch_keep {o₀ s : State} (hK : Keep L o₀ s) (b : Batch) (lSto : L.sto = true := by first | rfl | assumption) : Keep L o₀ (State.applyBatch s b) := by
  unfold State.applyBatch
  repeat' (first
    | with_reducible assumption
    | with_reducible apply State.upOpen_keep
    | with_reducible refine Keep.upSto ?_ (fun xk => ?_)
    | with_reducible exact xk
    | (with_reducible refine Store.wf.mk ?_ ?_ ?_ ?_ ?_ <;> try dsimp only)
    | with_reducible exact xk.program
    | with_reducible exact xk.lmem
    | with_reducible exact xk.durable
    | with_reducible exact xk.inView
    | with_reducible exact xk.launched
    | with_reducible apply memPut_wf
    | with_reducible apply ov_apply_wf
    | with_reducible apply memWrite_wf
    | with_reducible apply memClear_wf
    | with_reducible apply memRange_wf
    | with_reducible apply mem_nil_wf
    | with_reducible apply memOf_wf
    | with_reducible apply Keep.ite
    | (extract_lets +onlyGivenNames y; (first | ((have hy : Keep L o₀ y := (by unfold y; repeat' (first | with_reducible assumption | with_reducible apply State.upOpen_keep | with_reducible refine Keep.upSto ?_ (fun xk => ?_) | with_reducible exact xk | (with_reducible refine Store.wf.mk ?_ ?_ ?_ ?_ ?_ <;> try dsimp only) | with_reducible exact xk.program | with_reducible exact xk.lmem | with_reducible exact xk.durable | with_reducible exact xk.inView | with_reducible exact xk.launched | with_reducible apply memPut_wf | with_reducible apply ov_apply_wf | with_reducible apply memWrite_wf | with_reducible apply memClear_wf | with_reducible apply memRange_wf | with_reducible apply mem_nil_wf | with_reducible apply memOf_wf | with_reducible apply Keep.ite | extract_lets | split))); clear_value y) | clear_value y | skip))
    | split)

theorem State.refuseBatch_keep {o₀ s : State} (hK : Keep L o₀ s) (b : Batch) (lSto : L.sto = true := by first | rfl | assumption) (lNet : L.net = true := by first | rfl | assumption) (lCan : L.can = true := by first | rfl | assumption) (lDict : L.dict = true := by first | rfl | assumption) (lHost : L.host = true := by first | rfl | assumption) (lEvr : L.evr = true := by first | rfl | assumption) : Keep L o₀ (State.refuseBatch s b) := by
  unfold State.refuseBatch
  repeat' (first
    | with_reducible assumption
    | with_reducible apply State.exeCause_keep
    | with_reducible apply State.batchDone_keep
    | with_reducible refine Keep.upSto ?_ (fun xk => ?_)
    | with_reducible exact xk
    | (with_reducible refine Store.wf.mk ?_ ?_ ?_ ?_ ?_ <;> try dsimp only)
    | with_reducible exact xk.program
    | with_reducible exact xk.lmem
    | with_reducible exact xk.durable
    | with_reducible exact xk.inView
    | with_reducible exact xk.launched
    | with_reducible apply memPut_wf
    | with_reducible apply ov_apply_wf
    | with_reducible apply memWrite_wf
    | with_reducible apply memClear_wf
    | with_reducible apply memRange_wf
    | with_reducible apply mem_nil_wf
    | with_reducible apply memOf_wf
    | with_reducible refine Keep.foldl (fun _ _ _ => ?_) _ ?_
    | with_reducible refine Keep.foldl1 (fun _ _ _ _ => ?_) _ ?_
    | with_reducible refine Keep.foldl2 (fun _ _ _ _ => ?_) _ ?_
    | with_reducible apply Keep.ite
    | (extract_lets +onlyGivenNames y; (first | ((have hy : Keep L o₀ y := (by unfold y; repeat' (first | with_reducible assumption | with_reducible apply State.exeCause_keep | with_reducible apply State.batchDone_keep | with_reducible refine Keep.upSto ?_ (fun xk => ?_) | with_reducible exact xk | (with_reducible refine Store.wf.mk ?_ ?_ ?_ ?_ ?_ <;> try dsimp only) | with_reducible exact xk.program | with_reducible exact xk.lmem | with_reducible exact xk.durable | with_reducible exact xk.inView | with_reducible exact xk.launched | with_reducible apply memPut_wf | with_reducible apply ov_apply_wf | with_reducible apply memWrite_wf | with_reducible apply memClear_wf | with_reducible apply memRange_wf | with_reducible apply mem_nil_wf | with_reducible apply memOf_wf | with_reducible refine Keep.foldl (fun _ _ _ => ?_) _ ?_ | with_reducible refine Keep.foldl1 (fun _ _ _ _ => ?_) _ ?_ | with_reducible refine Keep.foldl2 (fun _ _ _ _ => ?_) _ ?_ | with_reducible apply Keep.ite | extract_lets | split))); clear_value y) | ((have hy : Keep L o₀ y.1 := (by unfold y; repeat' (first | with_reducible assumption | with_reducible apply State.exeCause_keep | with_reducible apply State.batchDone_keep | with_reducible refine Keep.upSto ?_ (fun xk => ?_) | with_reducible exact xk | (with_reducible refine Store.wf.mk ?_ ?_ ?_ ?_ ?_ <;> try dsimp only) | with_reducible exact xk.program | with_reducible exact xk.lmem | with_reducible exact xk.durable | with_reducible exact xk.inView | with_reducible exact xk.launched | with_reducible apply memPut_wf | with_reducible apply ov_apply_wf | with_reducible apply memWrite_wf | with_reducible apply memClear_wf | with_reducible apply memRange_wf | with_reducible apply mem_nil_wf | with_reducible apply memOf_wf | with_reducible refine Keep.foldl (fun _ _ _ => ?_) _ ?_ | with_reducible refine Keep.foldl1 (fun _ _ _ _ => ?_) _ ?_ | with_reducible refine Keep.foldl2 (fun _ _ _ _ => ?_) _ ?_ | with_reducible apply Keep.ite | extract_lets | split))); clear_value y) | ((have hy : Keep L o₀ y.2 := (by unfold y; repeat' (first | with_reducible assumption | with_reducible apply State.exeCause_keep | with_reducible apply State.batchDone_keep | with_reducible refine Keep.upSto ?_ (fun xk => ?_) | with_reducible exact xk | (with_reducible refine Store.wf.mk ?_ ?_ ?_ ?_ ?_ <;> try dsimp only) | with_reducible exact xk.program | with_reducible exact xk.lmem | with_reducible exact xk.durable | with_reducible exact xk.inView | with_reducible exact xk.launched | with_reducible apply memPut_wf | with_reducible apply ov_apply_wf | with_reducible apply memWrite_wf | with_reducible apply memClear_wf | with_reducible apply memRange_wf | with_reducible apply mem_nil_wf | with_reducible apply memOf_wf | with_reducible refine Keep.foldl (fun _ _ _ => ?_) _ ?_ | with_reducible refine Keep.foldl1 (fun _ _ _ _ => ?_) _ ?_ | with_reducible refine Keep.foldl2 (fun _ _ _ _ => ?_) _ ?_ | with_reducible apply Keep.ite | extract_lets | split))); clear_value y) | clear_value y | skip))
    | split)

theorem State.applyBatches_keep {o s : State} (beatAt n : Nat) (hK : Keep L o s) (used : Nat) (done : List Batch) (lSto : L.sto = true := by first | rfl | assumption) (lNet : L.net = true := by first | rfl | assumption) (lCan : L.can = true := by first | rfl | assumption) (lDict : L.dict = true := by first | rfl | assumption) (lHost : L.host = true := by first | rfl | assumption) (lEvr : L.evr = true := by first | rfl | assumption) : Keep L o (s.applyBatches beatAt n used done).1 := by
  induction n generalizing s used done with
  | zero => exact hK
  | succ n ih =>
    unfold State.applyBatches
    split
    · exact hK
    · next b rest _ =>
      split
      · exact hK
      · extract_lets u
        have hu : Keep L o u := hK.upSto (fun xk => ⟨xk.1, xk.2, xk.3, xk.4, xk.5⟩)
        clear_value u
        split
        · exact ih (State.applyBatch_keep hu b) _ _
        · exact ih (State.refuseBatch_keep hu b) _ _

end Sys2Proof.Machine
end

