-- ==== Sys2Proof/Laws/KeepMet.lean ====
section
/-! SUPPORT. What each operation of Machine/Met.lean keeps (Laws/Keep.lean). -/

set_option Elab.async false
set_option linter.all false

namespace Sys2Proof.Machine

open Sys2Proof

set_option linter.unusedVariables false
set_option linter.tactic.unusedName false

variable {L : Parts}

theorem State.metPublish_keep {o₀ s : State} (hK : Keep L o₀ s) (c : Nat) (r : Nat → List Byte) (lEvr : L.evr = true := by first | rfl | assumption) (lMet : L.met = true := by first | rfl | assumption) : Keep L o₀ (State.metPublish s c r) := by
  unfold State.metPublish
  repeat' (first
    | with_reducible assumption
    | with_reducible refine State.upMetChan_keep ?_ _ _ ?_
    | with_reducible apply State.metCause_keep
    | with_reducible refine Keep.upMet ?_ (MetKeep.same ?_ ?_ ?_)
    | exact Eq.refl _
    | with_reducible apply Keep.ite
    | (extract_lets +onlyGivenNames y; (first | ((have hy : Keep L o₀ y := (by unfold y; repeat' (first | with_reducible assumption | with_reducible refine State.upMetChan_keep ?_ _ _ ?_ | with_reducible apply State.metCause_keep | with_reducible refine Keep.upMet ?_ (MetKeep.same ?_ ?_ ?_) | exact Eq.refl _ | with_reducible apply Keep.ite | extract_lets | split))); clear_value y) | clear_value y | skip))
    | split)

theorem State.metDisabled_keep {o₀ s : State} (hK : Keep L o₀ s) (c : Nat) (lEvr : L.evr = true := by first | rfl | assumption) (lMet : L.met = true := by first | rfl | assumption) : Keep L o₀ (State.metDisabled s c) := by
  unfold State.metDisabled
  repeat' (first
    | with_reducible assumption
    | with_reducible apply State.metPublish_keep
    | with_reducible apply Keep.ite
    | split)

theorem MetChan.zeroStep_cal (m : MetChan) (q : Int × Int) (use : Nat) : (m.zeroStep q use).cal = m.cal := by
  unfold MetChan.zeroStep
  split
  · split <;> rfl
  · split <;> rfl

theorem State.bridge_keep {o s : State} (hK : Keep L o s) (c : Nat) (raw : Int) (supply sense : Bool) (lEvr : L.evr = true := by first | rfl | assumption) (lMet : L.met = true := by first | rfl | assumption) (lFree : L.free = true := by first | rfl | assumption) : Keep L o (State.bridge s c raw supply sense) := by
  unfold State.bridge
  extract_lets m0 bad fault
  split
  · exact hK
  split
  · exact State.metDisabled_keep hK c
  split
  next w0 st0 _ =>
  extract_lets m
  have hm : m.cal = m0.cal := by
    unfold m
    split
    · split
      · exact MetChan.zeroStep_cal _ _ _
      · rfl
    · rfl
  clear_value m
  split
  next w zero _ =>
  exact State.metPublish_keep (State.upMetChan_keep (State.useFree_keep hK) c _ hm) c _

theorem State.auditAdd_keep {o s : State} (hK : Keep L o s) (e : List Byte) (lEvr : L.evr = true := by first | rfl | assumption) (lMet : L.met = true := by first | rfl | assumption) : Keep L o (State.auditAdd s e) := by
  unfold State.auditAdd
  split
  · exact hK
  · next hl =>
    refine State.metCause_keep (hK.upMet ⟨List.prefix_append _ _, fun _ => ?_, Nat.le_refl _, fun _ => rfl⟩) _
    simp only [List.length_append, List.length_singleton]
    omega

theorem State.sealTo_keep {o₀ s : State} (hK : Keep L o₀ s) (closed : Bool) (lEvr : L.evr = true := by first | rfl | assumption) (lMet : L.met = true := by first | rfl | assumption) : Keep L o₀ (State.sealTo s closed) := by
  unfold State.sealTo
  repeat' (first
    | with_reducible assumption
    | with_reducible apply State.auditAdd_keep
    | with_reducible apply State.metCause_keep
    | with_reducible refine Keep.upMet ?_ (MetKeep.same ?_ ?_ ?_)
    | exact Eq.refl _
    | with_reducible apply Keep.ite
    | (extract_lets +onlyGivenNames y; (first | ((have hy : Keep L o₀ y := (by unfold y; repeat' (first | with_reducible assumption | with_reducible apply State.auditAdd_keep | with_reducible apply State.metCause_keep | with_reducible refine Keep.upMet ?_ (MetKeep.same ?_ ?_ ?_) | exact Eq.refl _ | with_reducible apply Keep.ite | extract_lets | split))); clear_value y) | clear_value y | skip))
    | split)

/-- What a state in which the seal is open may do with the sealed entries. -/
theorem Keep.upMetOpen {o s : State} (h : Keep L o s) (ho : o.met.sealed = false) {k : Met → Met} (h1 : (k s.met).audit = s.met.audit)
    (h2 : s.met.events ≤ (k s.met).events) (l : L.met = true := by first | rfl | assumption) : Keep L o (s.upMet k) :=
  ⟨⟨h.1.1, h.1.2, h.1.3, h.1.4, by show o.met.audit <+: (k s.met).audit; rw [h1]; exact h.1.5,
    by show _ → (k s.met).audit.length ≤ 1024; rw [h1]; exact h.1.6, Nat.le_trans h.1.7 h2,
    fun x => absurd x (by simp [ho])⟩, { h.2 with met := touched l }⟩

theorem State.metSet_keep {o s : State} (hK : Keep L o s) (ho : o.met.sealed = false) (index sub : Nat) (v : Int) (lMet : L.met = true := by first | rfl | assumption) :
    Keep L o (State.metSet s index sub v) := by
  unfold State.metSet State.upMetChan
  exact hK.upMetOpen ho rfl (Nat.le_refl _)

theorem State.adjResult_keep {o₀ s : State} (hK : Keep L o₀ s) (r : Nat) (lMet : L.met = true := by first | rfl | assumption) : Keep L o₀ (State.adjResult s r) := by
  unfold State.adjResult
  repeat' (first
    | with_reducible assumption
    | with_reducible refine Keep.upMet ?_ (MetKeep.same ?_ ?_ ?_)
    | exact Eq.refl _
    | with_reducible apply Keep.ite
    | split)

theorem State.adjust_keep {o s : State} (hK : Keep L o s) (ho : o.met.sealed = false) (index sub kind : Nat) (new : Int) (lEvr : L.evr = true := by first | rfl | assumption) (lMet : L.met = true := by first | rfl | assumption) :
    Keep L o (State.adjust s index sub kind new) := by
  unfold State.adjust
  split
  · exact State.adjResult_keep hK _
  · extract_lets old u
    have hu : Keep L o u := hK.upMetOpen ho rfl (Nat.le_succ _)
    exact State.adjResult_keep (State.metSet_keep (State.auditAdd_keep hu _) ho _ _ _) _

theorem State.telegramDone_keep {o s : State} (hK : Keep L o s) (ho : o.met.sealed = false) (b : List Byte) (lEvr : L.evr = true := by first | rfl | assumption) (lMet : L.met = true := by first | rfl | assumption) :
    Keep L o (State.telegramDone s b) := by
  unfold State.telegramDone
  extract_lets op index sub v
  repeat' (first
    | exact State.adjResult_keep hK _
    | exact State.adjust_keep hK ho _ _ _ _
    | extract_lets c zero span
    | split)

theorem State.adjByte_keep {o s : State} (hK : Keep L o s) (ho : o.met.sealed = false) (x : Byte) (lEvr : L.evr = true := by first | rfl | assumption) (lMet : L.met = true := by first | rfl | assumption) : Keep L o (State.adjByte s x) := by
  unfold State.adjByte
  extract_lets b
  split
  · exact hK.upMet (MetKeep.same rfl rfl rfl)
  · exact State.telegramDone_keep (hK.upMet (MetKeep.same rfl rfl rfl)) ho _

theorem State.adjReceive_keep (s : State) (bytes : List Byte) (lEvr : L.evr = true := by first | rfl | assumption) (lMet : L.met = true := by first | rfl | assumption) : Keep L s (State.adjReceive s bytes) := by
  unfold State.adjReceive
  split
  · exact Keep.refl s
  · next hs =>
    have ho : s.met.sealed = false := by
      cases h : s.met.sealed
      · rfl
      · simp [h] at hs
    exact Keep.foldl (fun _ x h => State.adjByte_keep h ho x) _ (Keep.refl s)

theorem map_powerUp_cal (v : Vector MetChan 12) (c : Nat) :
    (vget (v.map MetChan.powerUp) c MetChan.reset).cal = (vget v c MetChan.reset).cal := by
  unfold vget
  by_cases h : c < 12
  · simp [h]; rfl
  · simp [h]

theorem State.metUp_keep {o s : State} (hK : Keep L o s) (closed : Bool) (lEvr : L.evr = true := by first | rfl | assumption) (lMet : L.met = true := by first | rfl | assumption) : Keep L o (State.metUp s closed) := by
  unfold State.metUp
  split
  · exact hK
  extract_lets d u
  have hu : Keep L o u := hK.upMet ⟨List.prefix_refl _, id, Nat.le_refl _, fun c => map_powerUp_cal _ c⟩
  clear_value u
  refine State.sealTo_keep ?_ closed
  split
  · exact hu
  · exact State.metCause_keep hu _

theorem map_powerDown_cal (v : Vector MetChan 12) (now c : Nat) :
    (vget (v.map (MetChan.powerDown · now)) c MetChan.reset).cal = (vget v c MetChan.reset).cal := by
  have e : ∀ m : MetChan, (m.powerDown now).cal = m.cal := fun m => by
    unfold MetChan.powerDown
    split
    · rfl
    · split
      · rfl
      · split <;> rfl
  unfold vget
  by_cases h : c < 12
  · simp [h, e]
  · simp [h]

theorem State.metDown_keep {o s : State} (hK : Keep L o s) (lMet : L.met = true := by first | rfl | assumption) : Keep L o (State.metDown s) := by
  unfold State.metDown
  refine hK.upMet ⟨List.prefix_refl _, id, Nat.le_refl _, fun c => ?_⟩
  unfold Met.cal
  dsimp only
  split
  · exact map_powerDown_cal _ _ c
  · rfl

theorem execMetPowerUp_keep {s s₂ : State} (closed : Bool) (hx : execMetPowerUp closed s = .next s₂) (lEvr : L.evr = true := by first | rfl | assumption) (lMet : L.met = true := by first | rfl | assumption) : Keep L s s₂ := by
  unfold execMetPowerUp at hx
  with_reducible refine Keep.commit ?_ hx
  clear hx
  have hK := Keep.refl (L := L) s
  repeat' (first
    | with_reducible assumption
    | with_reducible apply State.metUp_keep
    | with_reducible apply Keep.ite
    | split)

theorem execClockPlausibilityFault_keep {s s₂ : State} (on : Bool) (hx : execClockPlausibilityFault on s = .next s₂) (lEvr : L.evr = true := by first | rfl | assumption) (lMet : L.met = true := by first | rfl | assumption) : Keep L s s₂ := by
  unfold execClockPlausibilityFault at hx
  with_reducible refine Keep.commit ?_ hx
  clear hx
  have hK := Keep.refl (L := L) s
  repeat' (first
    | with_reducible assumption
    | with_reducible apply State.metCause_keep
    | with_reducible refine Keep.upMet ?_ (MetKeep.same ?_ ?_ ?_)
    | exact Eq.refl _
    | with_reducible apply Keep.ite
    | (extract_lets +onlyGivenNames y; (first | ((have hy : Keep L s y := (by unfold y; repeat' (first | with_reducible assumption | with_reducible apply State.metCause_keep | with_reducible refine Keep.upMet ?_ (MetKeep.same ?_ ?_ ?_) | exact Eq.refl _ | with_reducible apply Keep.ite | extract_lets | split))); clear_value y) | clear_value y | skip))
    | split)

theorem execBridgeSample_keep {s s₂ : State} (c : Nat) (t : Nat) (raw : Int) (supply : Bool) (sense : Bool) (hx : execBridgeSample c t raw supply sense s = .next s₂) (lClk : L.clk = true := by first | rfl | assumption) (lEvr : L.evr = true := by first | rfl | assumption) (lMet : L.met = true := by first | rfl | assumption) (lFree : L.free = true := by first | rfl | assumption) : Keep L s s₂ := by
  unfold execBridgeSample at hx
  with_reducible refine Keep.commit ?_ hx
  clear hx
  have hK := Keep.refl (L := L) s
  repeat' (first
    | with_reducible assumption
    | with_reducible apply State.reach_keep
    | with_reducible apply State.bridge_keep
    | with_reducible apply Keep.ite
    | split)

theorem execNoZeroTimeout_keep {s s₂ : State} (c : Nat) (t : Nat) (hx : execNoZeroTimeout c t s = .next s₂) (lClk : L.clk = true := by first | rfl | assumption) (lMet : L.met = true := by first | rfl | assumption) : Keep L s s₂ := by
  unfold execNoZeroTimeout at hx
  with_reducible refine Keep.commit ?_ hx
  clear hx
  have hK := Keep.refl (L := L) s
  repeat' (first
    | with_reducible assumption
    | with_reducible apply State.reach_keep
    | with_reducible refine State.upMetChan_keep ?_ _ _ ?_
    | exact Eq.refl _
    | with_reducible apply Keep.ite
    | (extract_lets +onlyGivenNames y; (first | ((have hy : Keep L s y := (by unfold y; repeat' (first | with_reducible assumption | with_reducible apply State.reach_keep | with_reducible refine State.upMetChan_keep ?_ _ _ ?_ | exact Eq.refl _ | with_reducible apply Keep.ite | extract_lets | split))); clear_value y) | clear_value y | skip))
    | split)

theorem execPulseEdge_keep {s s₂ : State} (q : Nat) (t : Nat) (hx : execPulseEdge q t s = .next s₂) (lClk : L.clk = true := by first | rfl | assumption) (lMet : L.met = true := by first | rfl | assumption) : Keep L s s₂ := by
  unfold execPulseEdge at hx
  with_reducible refine Keep.commit ?_ hx
  clear hx
  have hK := Keep.refl (L := L) s
  repeat' (first
    | with_reducible assumption
    | with_reducible apply State.reach_keep
    | with_reducible refine State.upMetChan_keep ?_ _ _ ?_
    | exact Eq.refl _
    | with_reducible apply Keep.ite
    | (extract_lets +onlyGivenNames y; (first | ((have hy : Keep L s y := (by unfold y; repeat' (first | with_reducible assumption | with_reducible apply State.reach_keep | with_reducible refine State.upMetChan_keep ?_ _ _ ?_ | exact Eq.refl _ | with_reducible apply Keep.ite | extract_lets | split))); clear_value y) | clear_value y | skip))
    | split)

theorem execPulseRecordPublish_keep {s s₂ : State} (q : Nat) (t : Nat) (hx : execPulseRecordPublish q t s = .next s₂) (lClk : L.clk = true := by first | rfl | assumption) (lEvr : L.evr = true := by first | rfl | assumption) (lMet : L.met = true := by first | rfl | assumption) : Keep L s s₂ := by
  unfold execPulseRecordPublish at hx
  with_reducible refine Keep.commit ?_ hx
  clear hx
  have hK := Keep.refl (L := L) s
  repeat' (first
    | with_reducible assumption
    | with_reducible apply State.reach_keep
    | with_reducible apply State.metDisabled_keep
    | with_reducible refine State.upMetChan_keep ?_ _ _ ?_
    | with_reducible apply State.metPublish_keep
    | exact Eq.refl _
    | with_reducible apply Keep.ite
    | (extract_lets +onlyGivenNames y; (first | ((have hy : Keep L s y := (by unfold y; repeat' (first | with_reducible assumption | with_reducible apply State.reach_keep | with_reducible apply State.metDisabled_keep | with_reducible refine State.upMetChan_keep ?_ _ _ ?_ | with_reducible apply State.metPublish_keep | exact Eq.refl _ | with_reducible apply Keep.ite | extract_lets | split))); clear_value y) | clear_value y | skip))
    | split)

theorem execExcitationFault_keep {s s₂ : State} (on : Bool) (hx : execExcitationFault on s = .next s₂) (lEvr : L.evr = true := by first | rfl | assumption) (lMet : L.met = true := by first | rfl | assumption) : Keep L s s₂ := by
  unfold execExcitationFault at hx
  with_reducible refine Keep.commit ?_ hx
  clear hx
  have hK := Keep.refl (L := L) s
  repeat' (first
    | with_reducible assumption
    | with_reducible apply State.metCause_keep
    | with_reducible refine Keep.upMet ?_ (MetKeep.same ?_ ?_ ?_)
    | exact Eq.refl _
    | with_reducible apply Keep.ite
    | (extract_lets +onlyGivenNames y; (first | ((have hy : Keep L s y := (by unfold y; repeat' (first | with_reducible assumption | with_reducible apply State.metCause_keep | with_reducible refine Keep.upMet ?_ (MetKeep.same ?_ ?_ ?_) | exact Eq.refl _ | with_reducible apply Keep.ite | extract_lets | split))); clear_value y) | clear_value y | skip))
    | split)

theorem execSealChange_keep {s s₂ : State} (closed : Bool) (hx : execSealChange closed s = .next s₂) (lEvr : L.evr = true := by first | rfl | assumption) (lMet : L.met = true := by first | rfl | assumption) : Keep L s s₂ := by
  unfold execSealChange at hx
  with_reducible refine Keep.commit ?_ hx
  clear hx
  have hK := Keep.refl (L := L) s
  repeat' (first
    | with_reducible assumption
    | with_reducible apply State.sealTo_keep
    | with_reducible apply Keep.ite
    | split)

theorem execAdjSetEntry_keep {s s₂ : State} (bytes : List Byte) (hx : execAdjSetEntry bytes s = .next s₂) (lEvr : L.evr = true := by first | rfl | assumption) (lMet : L.met = true := by first | rfl | assumption) : Keep L s s₂ := by
  unfold execAdjSetEntry at hx
  with_reducible refine Keep.commit ?_ hx
  clear hx
  have hK := Keep.refl (L := L) s
  repeat' (first
    | with_reducible assumption
    | with_reducible apply State.adjReceive_keep
    | with_reducible apply Keep.ite
    | split)

theorem execAdjCaptureZero_keep {s s₂ : State} (bytes : List Byte) (hx : execAdjCaptureZero bytes s = .next s₂) (lEvr : L.evr = true := by first | rfl | assumption) (lMet : L.met = true := by first | rfl | assumption) : Keep L s s₂ := by
  unfold execAdjCaptureZero at hx
  with_reducible refine Keep.commit ?_ hx
  clear hx
  have hK := Keep.refl (L := L) s
  repeat' (first
    | with_reducible assumption
    | with_reducible apply State.adjReceive_keep
    | with_reducible apply Keep.ite
    | split)

theorem execAdjCaptureSpan_keep {s s₂ : State} (bytes : List Byte) (hx : execAdjCaptureSpan bytes s = .next s₂) (lEvr : L.evr = true := by first | rfl | assumption) (lMet : L.met = true := by first | rfl | assumption) : Keep L s s₂ := by
  unfold execAdjCaptureSpan at hx
  with_reducible refine Keep.commit ?_ hx
  clear hx
  have hK := Keep.refl (L := L) s
  repeat' (first
    | with_reducible assumption
    | with_reducible apply State.adjReceive_keep
    | with_reducible apply Keep.ite
    | split)

theorem execAdjNoChange_keep {s s₂ : State} (bytes : List Byte) (hx : execAdjNoChange bytes s = .next s₂) (lEvr : L.evr = true := by first | rfl | assumption) (lMet : L.met = true := by first | rfl | assumption) : Keep L s s₂ := by
  unfold execAdjNoChange at hx
  with_reducible refine Keep.commit ?_ hx
  clear hx
  have hK := Keep.refl (L := L) s
  repeat' (first
    | with_reducible assumption
    | with_reducible apply State.adjReceive_keep
    | with_reducible apply Keep.ite
    | split)

theorem execTelegramGapTimeout_keep {s s₂ : State} (hx : execTelegramGapTimeout s = .next s₂) (lMet : L.met = true := by first | rfl | assumption) : Keep L s s₂ := by
  unfold execTelegramGapTimeout at hx
  with_reducible refine Keep.commit ?_ hx
  clear hx
  have hK := Keep.refl (L := L) s
  repeat' (first
    | with_reducible assumption
    | with_reducible refine Keep.upMet ?_ (MetKeep.same ?_ ?_ ?_)
    | exact Eq.refl _
    | with_reducible apply Keep.ite
    | split)

theorem execMetAliveTimeout_keep {s s₂ : State} (t : Nat) (hx : execMetAliveTimeout t s = .next s₂) (lClk : L.clk = true := by first | rfl | assumption) (lEvr : L.evr = true := by first | rfl | assumption) (lMet : L.met = true := by first | rfl | assumption) : Keep L s s₂ := by
  unfold execMetAliveTimeout at hx
  with_reducible refine Keep.commit ?_ hx
  clear hx
  have hK := Keep.refl (L := L) s
  repeat' (first
    | with_reducible assumption
    | with_reducible apply State.reach_keep
    | with_reducible apply State.metCause_keep
    | with_reducible refine Keep.upMet ?_ (MetKeep.same ?_ ?_ ?_)
    | exact Eq.refl _
    | with_reducible apply Keep.ite
    | (extract_lets +onlyGivenNames y; (first | ((have hy : Keep L s y := (by unfold y; repeat' (first | with_reducible assumption | with_reducible apply State.reach_keep | with_reducible apply State.metCause_keep | with_reducible refine Keep.upMet ?_ (MetKeep.same ?_ ?_ ?_) | exact Eq.refl _ | with_reducible apply Keep.ite | extract_lets | split))); clear_value y) | clear_value y | skip))
    | split)

end Sys2Proof.Machine
end

