-- ==== Sys2Proof/Laws/KeepTrace.lean ====
section
/-! SUPPORT. What each operation of Machine/Trace.lean keeps (Laws/Keep.lean). -/

set_option Elab.async false
set_option linter.all false

namespace Sys2Proof.Machine

open Sys2Proof

set_option linter.unusedVariables false
set_option linter.tactic.unusedName false

variable {L : Parts}

theorem State.recap_keep {o₀ s : State} (hK : Keep L o₀ s) (lEvr : L.evr = true := by first | rfl | assumption) (lTrc : L.trc = true := by first | rfl | assumption) : Keep L o₀ (State.recap s) := by
  unfold State.recap
  repeat' (first
    | with_reducible assumption
    | with_reducible apply State.trimTrace_keep
    | with_reducible apply State.trcCause_keep
    | with_reducible apply Keep.upTrc
    | with_reducible apply Keep.ite
    | (extract_lets +onlyGivenNames y; (first | ((have hy : Keep L o₀ y := (by unfold y; repeat' (first | with_reducible assumption | with_reducible apply State.trimTrace_keep | with_reducible apply State.trcCause_keep | with_reducible apply Keep.upTrc | with_reducible apply Keep.ite | extract_lets | split))); clear_value y) | clear_value y | skip))
    | split)

theorem State.traceBeat_keep {o₀ s : State} (hK : Keep L o₀ s) (b : BeatNote) (a : Option Anchor) (lEvr : L.evr = true := by first | rfl | assumption) (lTrc : L.trc = true := by first | rfl | assumption) : Keep L o₀ (State.traceBeat s b a) := by
  unfold State.traceBeat
  repeat' (first
    | with_reducible assumption
    | with_reducible apply State.traceWrite_keep
    | with_reducible apply State.traceBytes_keep
    | with_reducible apply State.traceMark_keep
    | with_reducible apply State.requestAnchor_keep
    | with_reducible apply Keep.upTrc
    | with_reducible refine Keep.foldl (fun _ _ _ => ?_) _ ?_
    | with_reducible refine Keep.foldl1 (fun _ _ _ _ => ?_) _ ?_
    | with_reducible refine Keep.foldl2 (fun _ _ _ _ => ?_) _ ?_
    | with_reducible apply Keep.ite
    | (extract_lets +onlyGivenNames y; (first | ((have hy : Keep L o₀ y := (by unfold y; repeat' (first | with_reducible assumption | with_reducible apply State.traceWrite_keep | with_reducible apply State.traceBytes_keep | with_reducible apply State.traceMark_keep | with_reducible apply State.requestAnchor_keep | with_reducible apply Keep.upTrc | with_reducible refine Keep.foldl (fun _ _ _ => ?_) _ ?_ | with_reducible refine Keep.foldl1 (fun _ _ _ _ => ?_) _ ?_ | with_reducible refine Keep.foldl2 (fun _ _ _ _ => ?_) _ ?_ | with_reducible apply Keep.ite | extract_lets | split))); clear_value y) | ((have hy : Keep L o₀ y.1 := (by unfold y; repeat' (first | with_reducible assumption | with_reducible apply State.traceWrite_keep | with_reducible apply State.traceBytes_keep | with_reducible apply State.traceMark_keep | with_reducible apply State.requestAnchor_keep | with_reducible apply Keep.upTrc | with_reducible refine Keep.foldl (fun _ _ _ => ?_) _ ?_ | with_reducible refine Keep.foldl1 (fun _ _ _ _ => ?_) _ ?_ | with_reducible refine Keep.foldl2 (fun _ _ _ _ => ?_) _ ?_ | with_reducible apply Keep.ite | extract_lets | split))); clear_value y) | ((have hy : Keep L o₀ y.2 := (by unfold y; repeat' (first | with_reducible assumption | with_reducible apply State.traceWrite_keep | with_reducible apply State.traceBytes_keep | with_reducible apply State.traceMark_keep | with_reducible apply State.requestAnchor_keep | with_reducible apply Keep.upTrc | with_reducible refine Keep.foldl (fun _ _ _ => ?_) _ ?_ | with_reducible refine Keep.foldl1 (fun _ _ _ _ => ?_) _ ?_ | with_reducible refine Keep.foldl2 (fun _ _ _ _ => ?_) _ ?_ | with_reducible apply Keep.ite | extract_lets | split))); clear_value y) | clear_value y | skip))
    | split)

theorem State.freezeReq_keep {o₀ s : State} (hK : Keep L o₀ s) (lTrc : L.trc = true := by first | rfl | assumption) : Keep L o₀ (State.freezeReq s) := by
  unfold State.freezeReq
  repeat' (first
    | with_reducible assumption
    | with_reducible apply Keep.upTrc
    | with_reducible apply Keep.ite
    | split)

theorem State.unfreeze_keep {o₀ s : State} (hK : Keep L o₀ s) (lTrc : L.trc = true := by first | rfl | assumption) : Keep L o₀ (State.unfreeze s) := by
  unfold State.unfreeze
  repeat' (first
    | with_reducible assumption
    | with_reducible apply State.traceMark_keep
    | with_reducible apply State.requestAnchor_keep
    | with_reducible apply Keep.upTrc
    | with_reducible apply Keep.ite
    | split)

theorem State.traceUncorr_keep {o₀ s : State} (hK : Keep L o₀ s) (p : Nat) (n : Nat) (lHost : L.host = true := by first | rfl | assumption) (lEvr : L.evr = true := by first | rfl | assumption) (lTrc : L.trc = true := by first | rfl | assumption) : Keep L o₀ (State.traceUncorr s p n) := by
  unfold State.traceUncorr
  repeat' (first
    | with_reducible assumption
    | with_reducible apply State.uncorrectable_keep
    | with_reducible apply State.trcCause_keep
    | with_reducible apply Keep.upTrc
    | with_reducible apply Keep.ite
    | (extract_lets +onlyGivenNames y; (first | ((have hy : Keep L o₀ y := (by unfold y; repeat' (first | with_reducible assumption | with_reducible apply State.uncorrectable_keep | with_reducible apply State.trcCause_keep | with_reducible apply Keep.upTrc | with_reducible apply Keep.ite | extract_lets | split))); clear_value y) | clear_value y | skip))
    | split)

theorem State.ringReads_keep {o₀ s : State} (hK : Keep L o₀ s) (l : List Ecc) (lo : Nat) (hi : Nat) (lSto : L.sto = true := by first | rfl | assumption) (lHost : L.host = true := by first | rfl | assumption) (lEvr : L.evr = true := by first | rfl | assumption) (lTrc : L.trc = true := by first | rfl | assumption) : Keep L o₀ (State.ringReads s l lo hi) := by
  unfold State.ringReads
  repeat' (first
    | with_reducible assumption
    | with_reducible apply State.traceUncorr_keep
    | with_reducible apply State.corrected_keep
    | with_reducible refine Keep.foldl (fun _ _ _ => ?_) _ ?_
    | with_reducible refine Keep.foldl1 (fun _ _ _ _ => ?_) _ ?_
    | with_reducible refine Keep.foldl2 (fun _ _ _ _ => ?_) _ ?_
    | with_reducible apply Keep.ite
    | (extract_lets +onlyGivenNames y; (first | ((have hy : Keep L o₀ y := (by unfold y; repeat' (first | with_reducible assumption | with_reducible apply State.traceUncorr_keep | with_reducible apply State.corrected_keep | with_reducible refine Keep.foldl (fun _ _ _ => ?_) _ ?_ | with_reducible refine Keep.foldl1 (fun _ _ _ _ => ?_) _ ?_ | with_reducible refine Keep.foldl2 (fun _ _ _ _ => ?_) _ ?_ | with_reducible apply Keep.ite | extract_lets | split))); clear_value y) | ((have hy : Keep L o₀ y.1 := (by unfold y; repeat' (first | with_reducible assumption | with_reducible apply State.traceUncorr_keep | with_reducible apply State.corrected_keep | with_reducible refine Keep.foldl (fun _ _ _ => ?_) _ ?_ | with_reducible refine Keep.foldl1 (fun _ _ _ _ => ?_) _ ?_ | with_reducible refine Keep.foldl2 (fun _ _ _ _ => ?_) _ ?_ | with_reducible apply Keep.ite | extract_lets | split))); clear_value y) | ((have hy : Keep L o₀ y.2 := (by unfold y; repeat' (first | with_reducible assumption | with_reducible apply State.traceUncorr_keep | with_reducible apply State.corrected_keep | with_reducible refine Keep.foldl (fun _ _ _ => ?_) _ ?_ | with_reducible refine Keep.foldl1 (fun _ _ _ _ => ?_) _ ?_ | with_reducible refine Keep.foldl2 (fun _ _ _ _ => ?_) _ ?_ | with_reducible apply Keep.ite | extract_lets | split))); clear_value y) | clear_value y | skip))
    | split)

theorem State.noteRun_keep {o₀ s : State} (hK : Keep L o₀ s) (task : Nat) (flags : Nat) (cause : Nat) (cyc : Nat) (outCrc : Nat) (entryCrc : Nat) (lClk : L.clk = true := by first | rfl | assumption) (lEvr : L.evr = true := by first | rfl | assumption) (lTrc : L.trc = true := by first | rfl | assumption) : Keep L o₀ (State.noteRun s task flags cause cyc outCrc entryCrc) := by
  unfold State.noteRun
  repeat' (first
    | with_reducible assumption
    | with_reducible apply State.endReplay_keep
    | with_reducible apply Keep.upTrc
    | with_reducible apply Keep.ite
    | (extract_lets +onlyGivenNames y; (first | ((have hy : Keep L o₀ y := (by unfold y; repeat' (first | with_reducible assumption | with_reducible apply State.endReplay_keep | with_reducible apply Keep.upTrc | with_reducible apply Keep.ite | extract_lets | split))); clear_value y) | clear_value y | skip))
    | split)

theorem State.trcRead_keep {o₀ s : State} (hK : Keep L o₀ s) (off : Nat) (lTrc : L.trc = true := by first | rfl | assumption) : Keep L o₀ (State.trcRead s off).2 := by
  unfold State.trcRead
  repeat' (first
    | with_reducible assumption
    | with_reducible apply Keep.upTrc
    | with_reducible apply Keep.ite2
    | with_reducible apply Keep.ite1
    | with_reducible apply Keep.ite
    | (extract_lets +onlyGivenNames y; (first | ((have hy : Keep L o₀ y := (by unfold y; repeat' (first | with_reducible assumption | with_reducible apply Keep.upTrc | with_reducible apply Keep.ite2 | with_reducible apply Keep.ite1 | with_reducible apply Keep.ite | extract_lets | split))); clear_value y) | ((have hy : Keep L o₀ y.1 := (by unfold y; repeat' (first | with_reducible assumption | with_reducible apply Keep.upTrc | with_reducible apply Keep.ite2 | with_reducible apply Keep.ite1 | with_reducible apply Keep.ite | extract_lets | split))); clear_value y) | ((have hy : Keep L o₀ y.2 := (by unfold y; repeat' (first | with_reducible assumption | with_reducible apply Keep.upTrc | with_reducible apply Keep.ite2 | with_reducible apply Keep.ite1 | with_reducible apply Keep.ite | extract_lets | split))); clear_value y) | clear_value y | skip))
    | split)

theorem State.trcCommand_keep {o₀ s : State} (hK : Keep L o₀ s) (v : Nat) (lTrc : L.trc = true := by first | rfl | assumption) : Keep L o₀ (State.trcCommand s v) := by
  unfold State.trcCommand
  repeat' (first
    | with_reducible assumption
    | with_reducible apply State.requestAnchor_keep
    | with_reducible apply State.freezeReq_keep
    | with_reducible apply State.unfreeze_keep
    | with_reducible apply Keep.ite
    | split)

theorem State.trcWrite_keep {o₀ s : State} (hK : Keep L o₀ s) (off : Nat) (v : Word) (priv : Bool) (lTrc : L.trc = true := by first | rfl | assumption) : WriteAns.Kept L o₀ (State.trcWrite s off v priv) := by
  unfold State.trcWrite
  repeat' (first
    | with_reducible assumption
    | with_reducible apply State.trcCommand_keep
    | with_reducible apply refused_kept
    | with_reducible apply refusedIn_kept
    | with_reducible apply done_kept
    | with_reducible apply needPriv_kept
    | with_reducible apply needOpen_kept
    | with_reducible apply needLegal_kept
    | with_reducible apply Keep.upTrc
    | with_reducible apply ite_kept
    | with_reducible apply Keep.ite
    | (extract_lets +onlyGivenNames y; (first | ((have hy : Keep L o₀ y := (by unfold y; repeat' (first | with_reducible assumption | with_reducible apply State.trcCommand_keep | with_reducible apply refused_kept | with_reducible apply refusedIn_kept | with_reducible apply done_kept | with_reducible apply needPriv_kept | with_reducible apply needOpen_kept | with_reducible apply needLegal_kept | with_reducible apply Keep.upTrc | with_reducible apply ite_kept | with_reducible apply Keep.ite | extract_lets | split))); clear_value y) | clear_value y | skip))
    | split)

theorem execAnchorRequestInterval_keep {s s₂ : State} (t : Nat) (hx : execAnchorRequestInterval t s = .next s₂) (lClk : L.clk = true := by first | rfl | assumption) (lTrc : L.trc = true := by first | rfl | assumption) : Keep L s s₂ := by
  unfold execAnchorRequestInterval at hx
  with_reducible refine Keep.commit ?_ hx
  clear hx
  have hK := Keep.refl (L := L) s
  repeat' (first
    | with_reducible assumption
    | with_reducible apply State.reach_keep
    | with_reducible apply State.requestAnchor_keep
    | with_reducible apply Keep.ite
    | (extract_lets +onlyGivenNames y; (first | ((have hy : Keep L s y := (by unfold y; repeat' (first | with_reducible assumption | with_reducible apply State.reach_keep | with_reducible apply State.requestAnchor_keep | with_reducible apply Keep.ite | extract_lets | split))); clear_value y) | clear_value y | skip))
    | split)

theorem execAnchorCopyComplete_keep {s s₂ : State} (hx : execAnchorCopyComplete s = .next s₂) (lEvr : L.evr = true := by first | rfl | assumption) (lTrc : L.trc = true := by first | rfl | assumption) : Keep L s s₂ := by
  unfold execAnchorCopyComplete at hx
  with_reducible refine Keep.commit ?_ hx
  clear hx
  have hK := Keep.refl (L := L) s
  repeat' (first
    | with_reducible assumption
    | with_reducible apply State.trcCause_keep
    | with_reducible apply Keep.upTrc
    | with_reducible apply Keep.ite
    | (extract_lets +onlyGivenNames y; (first | ((have hy : Keep L s y := (by unfold y; repeat' (first | with_reducible assumption | with_reducible apply State.trcCause_keep | with_reducible apply Keep.upTrc | with_reducible apply Keep.ite | extract_lets | split))); clear_value y) | clear_value y | skip))
    | split)

theorem execAnchorMissed_keep {s s₂ : State} (hx : execAnchorMissed s = .next s₂) (lEvr : L.evr = true := by first | rfl | assumption) (lTrc : L.trc = true := by first | rfl | assumption) : Keep L s s₂ := by
  unfold execAnchorMissed at hx
  with_reducible refine Keep.commit ?_ hx
  clear hx
  have hK := Keep.refl (L := L) s
  repeat' (first
    | with_reducible assumption
    | with_reducible apply State.trcCause_keep
    | with_reducible apply Keep.upTrc
    | with_reducible apply Keep.ite
    | split)

theorem execRingFrozen_keep {s s₂ : State} (hx : execRingFrozen s = .next s₂) (lEvr : L.evr = true := by first | rfl | assumption) (lTrc : L.trc = true := by first | rfl | assumption) : Keep L s s₂ := by
  unfold execRingFrozen at hx
  with_reducible refine Keep.commit ?_ hx
  clear hx
  have hK := Keep.refl (L := L) s
  repeat' (first
    | with_reducible assumption
    | with_reducible apply State.ringFrozen_keep
    | with_reducible apply Keep.ite
    | split)

theorem execStreamDatagramSend_keep {s s₂ : State} (ecc : List Ecc) (hx : execStreamDatagramSend ecc s = .next s₂) (lSto : L.sto = true := by first | rfl | assumption) (lNet : L.net = true := by first | rfl | assumption) (lHost : L.host = true := by first | rfl | assumption) (lEvr : L.evr = true := by first | rfl | assumption) (lTrc : L.trc = true := by first | rfl | assumption) : Keep L s s₂ := by
  unfold execStreamDatagramSend at hx
  with_reducible refine Keep.commit ?_ hx
  clear hx
  have hK := Keep.refl (L := L) s
  repeat' (first
    | with_reducible assumption
    | with_reducible apply State.ringReads_keep
    | with_reducible apply State.send_keep
    | with_reducible apply Keep.upTrc
    | with_reducible apply Keep.ite
    | (extract_lets +onlyGivenNames y; (first | ((have hy : Keep L s y := (by unfold y; repeat' (first | with_reducible assumption | with_reducible apply State.ringReads_keep | with_reducible apply State.send_keep | with_reducible apply Keep.upTrc | with_reducible apply Keep.ite | extract_lets | split))); clear_value y) | clear_value y | skip))
    | split)

theorem State.replaySegment_keep {o₀ s : State} (hK : Keep L o₀ s) (off : Nat) (data : List Byte) (last : Bool) (lTrc : L.trc = true := by first | rfl | assumption) : Keep L o₀ (State.replaySegment s off data last).state := by
  unfold State.replaySegment
  repeat' (first
    | with_reducible assumption
    | with_reducible apply State.no_keep
    | with_reducible apply State.ok_keep
    | with_reducible apply Keep.upTrc
    | with_reducible apply Keep.ite
    | (extract_lets +onlyGivenNames y; (first | ((have hy : Keep L o₀ y := (by unfold y; repeat' (first | with_reducible assumption | with_reducible apply State.no_keep | with_reducible apply State.ok_keep | with_reducible apply Keep.upTrc | with_reducible apply Keep.ite | extract_lets | split))); clear_value y) | ((have hy : Keep L o₀ y.state := (by unfold y; repeat' (first | with_reducible assumption | with_reducible apply State.no_keep | with_reducible apply State.ok_keep | with_reducible apply Keep.upTrc | with_reducible apply Keep.ite | extract_lets | split))); clear_value y) | clear_value y | skip))
    | split)

theorem State.stopReplay_keep {o₀ s : State} (hK : Keep L o₀ s) (lClk : L.clk = true := by first | rfl | assumption) (lEvr : L.evr = true := by first | rfl | assumption) (lTrc : L.trc = true := by first | rfl | assumption) : Keep L o₀ (State.stopReplay s) := by
  unfold State.stopReplay
  repeat' (first
    | with_reducible assumption
    | with_reducible apply State.endReplay_keep
    | with_reducible apply Keep.ite
    | split)

theorem State.discardReplay_keep {o₀ s : State} (hK : Keep L o₀ s) (lTrc : L.trc = true := by first | rfl | assumption) : Keep L o₀ (State.discardReplay s) := by
  unfold State.discardReplay
  repeat' (first
    | with_reducible assumption
    | with_reducible apply Keep.upTrc
    | with_reducible apply Keep.ite
    | split)

theorem execReplayLoadSegment_keep {s s₂ : State} (off : Nat) (data : List Byte) (last : Bool) (hx : execReplayLoadSegment off data last s = .next s₂) (lTrc : L.trc = true := by first | rfl | assumption) : Keep L s s₂ := by
  unfold execReplayLoadSegment at hx
  with_reducible refine Keep.commit ?_ hx
  clear hx
  have hK := Keep.refl (L := L) s
  repeat' (first
    | with_reducible assumption
    | with_reducible apply State.replaySegment_keep
    | with_reducible apply Keep.ite
    | split)

theorem execReplayStop_keep {s s₂ : State} (hx : execReplayStop s = .next s₂) (lClk : L.clk = true := by first | rfl | assumption) (lEvr : L.evr = true := by first | rfl | assumption) (lTrc : L.trc = true := by first | rfl | assumption) : Keep L s s₂ := by
  unfold execReplayStop at hx
  with_reducible refine Keep.commit ?_ hx
  clear hx
  have hK := Keep.refl (L := L) s
  repeat' (first
    | with_reducible assumption
    | with_reducible apply State.stopReplay_keep
    | with_reducible apply Keep.ite
    | split)

theorem execReplayDiscard_keep {s s₂ : State} (hx : execReplayDiscard s = .next s₂) (lTrc : L.trc = true := by first | rfl | assumption) : Keep L s s₂ := by
  unfold execReplayDiscard at hx
  with_reducible refine Keep.commit ?_ hx
  clear hx
  have hK := Keep.refl (L := L) s
  repeat' (first
    | with_reducible assumption
    | with_reducible apply State.discardReplay_keep
    | with_reducible apply Keep.ite
    | split)

end Sys2Proof.Machine
end

