-- ==== Sys2Proof/Laws/KeepLoader.lean ====
section
/-! SUPPORT. What each operation of Machine/Loader.lean keeps (Laws/Keep.lean). -/

set_option Elab.async false
set_option linter.all false

namespace Sys2Proof.Machine

open Sys2Proof

set_option linter.unusedVariables false
set_option linter.tactic.unusedName false

variable {L : Parts}

theorem State.dropStaged_keep {o₀ s : State} (hK : Keep L o₀ s) (lLdr : L.ldr = true := by first | rfl | assumption) (lDict : L.dict = true := by first | rfl | assumption) (lEvr : L.evr = true := by first | rfl | assumption) (lTrc : L.trc = true := by first | rfl | assumption) : Keep L o₀ (State.dropStaged s) := by
  unfold State.dropStaged
  repeat' (first
    | with_reducible assumption
    | with_reducible apply State.recap_keep
    | with_reducible refine Keep.upLdr ?_ (fun xk => ?_)
    | with_reducible refine Keep.upDict ?_ ?_
    | exact Eq.refl _
    | exact xk
    | exact mem_nil_wf
    | with_reducible apply Keep.ite
    | split)

theorem State.roleRefuse_keep {o₀ s : State} (hK : Keep L o₀ s) (code : Nat) (lLdr : L.ldr = true := by first | rfl | assumption) (lDict : L.dict = true := by first | rfl | assumption) : Keep L o₀ (State.roleRefuse s code) := by
  unfold State.roleRefuse
  repeat' (first
    | with_reducible assumption
    | with_reducible apply State.modeRefuse_keep
    | with_reducible refine Keep.upLdr ?_ (fun xk => ?_)
    | exact xk
    | exact mem_nil_wf
    | with_reducible apply Keep.ite
    | split)

theorem State.stageMore_keep {o₀ s : State} (hK : Keep L o₀ s) (data : List Byte) (last : Bool) (lLdr : L.ldr = true := by first | rfl | assumption) (lDict : L.dict = true := by first | rfl | assumption) (lEvr : L.evr = true := by first | rfl | assumption) (lTrc : L.trc = true := by first | rfl | assumption) : Keep L o₀ (State.stageMore s data last).state := by
  unfold State.stageMore
  repeat' (first
    | with_reducible assumption
    | with_reducible apply State.dropStaged_keep
    | with_reducible apply State.no_keep
    | with_reducible apply State.recap_keep
    | with_reducible apply State.ok_keep
    | with_reducible refine Keep.upLdr ?_ (fun xk => ?_)
    | exact xk
    | exact mem_nil_wf
    | with_reducible apply Keep.ite
    | (extract_lets +onlyGivenNames y; (first | ((have hy : Keep L o₀ y := (by unfold y; repeat' (first | with_reducible assumption | with_reducible apply State.dropStaged_keep | with_reducible apply State.no_keep | with_reducible apply State.recap_keep | with_reducible apply State.ok_keep | with_reducible refine Keep.upLdr ?_ (fun xk => ?_) | exact xk | exact mem_nil_wf | with_reducible apply Keep.ite | extract_lets | split))); clear_value y) | ((have hy : Keep L o₀ y.state := (by unfold y; repeat' (first | with_reducible assumption | with_reducible apply State.dropStaged_keep | with_reducible apply State.no_keep | with_reducible apply State.recap_keep | with_reducible apply State.ok_keep | with_reducible refine Keep.upLdr ?_ (fun xk => ?_) | exact xk | exact mem_nil_wf | with_reducible apply Keep.ite | extract_lets | split))); clear_value y) | clear_value y | skip))
    | split)

theorem State.imageSegment_keep {o₀ s : State} (hK : Keep L o₀ s) (off : Nat) (data : List Byte) (last : Bool) (lLdr : L.ldr = true := by first | rfl | assumption) (lDict : L.dict = true := by first | rfl | assumption) (lEvr : L.evr = true := by first | rfl | assumption) (lTrc : L.trc = true := by first | rfl | assumption) : Keep L o₀ (State.imageSegment s off data last).state := by
  unfold State.imageSegment
  repeat' (first
    | with_reducible assumption
    | with_reducible apply State.roleRefuse_keep
    | with_reducible apply State.no_keep
    | with_reducible apply State.stageMore_keep
    | with_reducible apply State.dropStaged_keep
    | with_reducible refine Keep.upLdr ?_ (fun xk => ?_)
    | exact xk
    | exact mem_nil_wf
    | with_reducible apply Keep.ite
    | split)

theorem initMem_wf (i : Image) : i.initMem.wf = true := foldl_wf _ (fun _ _ h => memPut_wf _ _ h) _ mem_nil_wf

theorem convert_wf (i : Image) (old : Mem) : (i.convert old).wf = true :=
  foldl_wf _ (fun _ _ h => memPut_wf _ _ (memClear_wf _ _ h)) _ (initMem_wf i)

theorem convertOv_wf (i : Image) : ∀ (o : Ov) {m : Mem}, m.wf = true → (i.convertOv o m).wf = true := by
  intro o m h
  exact foldl_wf _ (fun m x h => by split; exact memWrite_wf _ _ h; exact h) o h

theorem State.convertApplied_keep {o s : State} (hK : Keep L o s) (v : Ov) (lLdr : L.ldr = true := by first | rfl | assumption) : Keep L o (State.convertApplied s v) := by
  unfold State.convertApplied
  exact Keep.ite (hK.upLdr (fun xk => convertOv_wf _ _ xk)) hK

theorem State.abandonSwap_keep {o₀ s : State} (hK : Keep L o₀ s) (code : Nat) (term : Nat) (gap : Nat) (lLdr : L.ldr = true := by first | rfl | assumption) (lCsw : L.csw = true := by first | rfl | assumption) (lEvr : L.evr = true := by first | rfl | assumption) (lTrc : L.trc = true := by first | rfl | assumption) : Keep L o₀ (State.abandonSwap s code term gap) := by
  unfold State.abandonSwap
  repeat' (first
    | with_reducible assumption
    | with_reducible apply State.recap_keep
    | with_reducible apply State.cswCause_keep
    | with_reducible refine Keep.upLdr ?_ (fun xk => ?_)
    | exact xk
    | exact mem_nil_wf
    | with_reducible apply Keep.ite
    | split)

theorem State.loadCheck_keep {o₀ s : State} (hK : Keep L o₀ s) (lLdr : L.ldr = true := by first | rfl | assumption) : Keep L o₀ (State.loadCheck s).state := by
  unfold State.loadCheck
  repeat' (first
    | with_reducible assumption
    | with_reducible apply State.no_keep
    | with_reducible apply State.ok_keep
    | with_reducible refine Keep.upLdr ?_ (fun xk => ?_)
    | exact xk
    | exact mem_nil_wf
    | with_reducible apply Keep.ite
    | split)

theorem State.loadInstall_keep {o₀ s : State} (hK : Keep L o₀ s) (lLdr : L.ldr = true := by first | rfl | assumption) (lDict : L.dict = true := by first | rfl | assumption) (lEvr : L.evr = true := by first | rfl | assumption) (lTrc : L.trc = true := by first | rfl | assumption) : Keep L o₀ (State.loadInstall s).state := by
  unfold State.loadInstall
  repeat' (first
    | with_reducible assumption
    | with_reducible apply State.no_keep
    | with_reducible apply State.roleRefuse_keep
    | with_reducible apply State.ok_keep
    | with_reducible apply State.recap_keep
    | with_reducible refine Keep.upLdr ?_ (fun xk => ?_)
    | exact xk
    | exact mem_nil_wf
    | with_reducible apply Keep.ite
    | split)

theorem State.loadDiscard_keep {o₀ s : State} (hK : Keep L o₀ s) (lLdr : L.ldr = true := by first | rfl | assumption) (lCsw : L.csw = true := by first | rfl | assumption) (lDict : L.dict = true := by first | rfl | assumption) (lEvr : L.evr = true := by first | rfl | assumption) (lTrc : L.trc = true := by first | rfl | assumption) : Keep L o₀ (State.loadDiscard s).state := by
  unfold State.loadDiscard
  repeat' (first
    | with_reducible assumption
    | with_reducible apply State.abandonSwap_keep
    | with_reducible apply State.dropStaged_keep
    | with_reducible apply State.ok_keep
    | with_reducible apply Keep.ite
    | split)

theorem State.loadCmd_keep {o₀ s : State} (hK : Keep L o₀ s) (v : Nat) (lLdr : L.ldr = true := by first | rfl | assumption) (lCsw : L.csw = true := by first | rfl | assumption) (lDict : L.dict = true := by first | rfl | assumption) (lEvr : L.evr = true := by first | rfl | assumption) (lTrc : L.trc = true := by first | rfl | assumption) : Keep L o₀ (State.loadCmd s v).state := by
  unfold State.loadCmd
  repeat' (first
    | with_reducible assumption
    | with_reducible apply State.loadCheck_keep
    | with_reducible apply State.loadInstall_keep
    | with_reducible apply State.loadDiscard_keep
    | with_reducible apply State.no_keep
    | with_reducible apply Keep.ite
    | split)

theorem State.checkDone_keep {o₀ s : State} (hK : Keep L o₀ s) (lLdr : L.ldr = true := by first | rfl | assumption) : Keep L o₀ (State.checkDone s) := by
  unfold State.checkDone
  repeat' (first
    | with_reducible assumption
    | with_reducible refine Keep.upLdr ?_ (fun xk => ?_)
    | exact xk
    | exact mem_nil_wf
    | with_reducible apply Keep.ite
    | (extract_lets +onlyGivenNames y; (first | ((have hy : Keep L o₀ y := (by unfold y; repeat' (first | with_reducible assumption | with_reducible refine Keep.upLdr ?_ (fun xk => ?_) | exact xk | exact mem_nil_wf | with_reducible apply Keep.ite | extract_lets | split))); clear_value y) | clear_value y | skip))
    | split)

theorem State.becomeReady_keep {o s : State} (hK : Keep L o s) (ecc : List Ecc) (lClk : L.clk = true := by first | rfl | assumption) (lClu : L.clu = true := by first | rfl | assumption) (lSto : L.sto = true := by first | rfl | assumption) (lLdr : L.ldr = true := by first | rfl | assumption) (lCsw : L.csw = true := by first | rfl | assumption) (lFio : L.fio = true := by first | rfl | assumption) (lNet : L.net = true := by first | rfl | assumption) (lCan : L.can = true := by first | rfl | assumption) (lHost : L.host = true := by first | rfl | assumption) (lWdg : L.wdg = true := by first | rfl | assumption) (lEvr : L.evr = true := by first | rfl | assumption) (lTrc : L.trc = true := by first | rfl | assumption) : Keep L o (State.becomeReady s ecc) := by
  unfold State.becomeReady
  refine Keep.ite hK ?_
  extract_lets u
  have hu : Keep L o u := Keep.foldl (fun _ _ hs => Keep.ite hs (State.corrected_keep hs _ _)) _ hK
  clear_value u
  split
  · extract_lets v
    have hv : Keep L o v := State.abandonSwap_keep (State.uncorrectable_keep hu _ _) _ _ _
    clear_value v
    split
    all_goals first | exact State.giveUp_keep hv | exact hv
  · exact hu.upLdr (fun _ => convert_wf _ _)

theorem State.placeImage_keep {o₀ s : State} (hK : Keep L o₀ s) (b : List Byte) (lSto : L.sto = true := by first | rfl | assumption) (lLdr : L.ldr = true := by first | rfl | assumption) (lDict : L.dict = true := by first | rfl | assumption) : Keep L o₀ (State.placeImage s b) := by
  unfold State.placeImage
  repeat' (first
    | with_reducible assumption
    | with_reducible refine Keep.upSto ?_ (fun xk => ?_)
    | with_reducible refine Keep.upLdr ?_ (fun xk => ?_)
    | with_reducible refine Keep.upDict ?_ ?_
    | exact Eq.refl _
    | with_reducible exact xk
    | (with_reducible refine Store.wf.mk ?_ ?_ ?_ ?_ ?_ <;> try dsimp only)
    | with_reducible exact xk.program
    | with_reducible exact xk.lmem
    | with_reducible exact xk.durable
    | with_reducible exact xk.inView
    | with_reducible exact xk.launched
    | with_reducible apply memPut_wf
    | with_reducible apply ov_apply_wf
    | with_reducible apply memWrite_wf
    | with_reducible apply memClear_wf
    | with_reducible apply memRange_wf
    | with_reducible apply mem_nil_wf
    | with_reducible apply memOf_wf
    | exact xk
    | exact mem_nil_wf
    | with_reducible apply Keep.ite
    | (extract_lets +onlyGivenNames y; (first | ((have hy : Keep L o₀ y := (by unfold y; repeat' (first | with_reducible assumption | with_reducible refine Keep.upSto ?_ (fun xk => ?_) | with_reducible refine Keep.upLdr ?_ (fun xk => ?_) | with_reducible refine Keep.upDict ?_ ?_ | exact Eq.refl _ | with_reducible exact xk | (with_reducible refine Store.wf.mk ?_ ?_ ?_ ?_ ?_ <;> try dsimp only) | with_reducible exact xk.program | with_reducible exact xk.lmem | with_reducible exact xk.durable | with_reducible exact xk.inView | with_reducible exact xk.launched | with_reducible apply memPut_wf | with_reducible apply ov_apply_wf | with_reducible apply memWrite_wf | with_reducible apply memClear_wf | with_reducible apply memRange_wf | with_reducible apply mem_nil_wf | with_reducible apply memOf_wf | exact xk | exact mem_nil_wf | with_reducible apply Keep.ite | extract_lets | split))); clear_value y) | clear_value y | skip))
    | split)

theorem execImageLoadSegment_keep {s s₂ : State} (off : Nat) (data : List Byte) (last : Bool) (hx : execImageLoadSegment off data last s = .next s₂) (lLdr : L.ldr = true := by first | rfl | assumption) (lDict : L.dict = true := by first | rfl | assumption) (lEvr : L.evr = true := by first | rfl | assumption) (lTrc : L.trc = true := by first | rfl | assumption) : Keep L s s₂ := by
  unfold execImageLoadSegment at hx
  with_reducible refine Keep.commit ?_ hx
  clear hx
  have hK := Keep.refl (L := L) s
  repeat' (first
    | with_reducible assumption
    | with_reducible apply State.imageSegment_keep
    | with_reducible apply Keep.ite
    | split)

theorem execLoadCmdCheck_keep {s s₂ : State} (hx : execLoadCmdCheck s = .next s₂) (lLdr : L.ldr = true := by first | rfl | assumption) : Keep L s s₂ := by
  unfold execLoadCmdCheck at hx
  with_reducible refine Keep.commit ?_ hx
  clear hx
  have hK := Keep.refl (L := L) s
  repeat' (first
    | with_reducible assumption
    | with_reducible apply State.loadCheck_keep
    | with_reducible apply Keep.ite
    | split)

theorem execLoadCheckDone_keep {s s₂ : State} (hx : execLoadCheckDone s = .next s₂) (lLdr : L.ldr = true := by first | rfl | assumption) : Keep L s s₂ := by
  unfold execLoadCheckDone at hx
  with_reducible refine Keep.commit ?_ hx
  clear hx
  have hK := Keep.refl (L := L) s
  repeat' (first
    | with_reducible assumption
    | with_reducible apply State.checkDone_keep
    | with_reducible apply Keep.ite
    | split)

theorem execLoadCmdInstall_keep {s s₂ : State} (hx : execLoadCmdInstall s = .next s₂) (lLdr : L.ldr = true := by first | rfl | assumption) (lDict : L.dict = true := by first | rfl | assumption) (lEvr : L.evr = true := by first | rfl | assumption) (lTrc : L.trc = true := by first | rfl | assumption) : Keep L s s₂ := by
  unfold execLoadCmdInstall at hx
  with_reducible refine Keep.commit ?_ hx
  clear hx
  have hK := Keep.refl (L := L) s
  repeat' (first
    | with_reducible assumption
    | with_reducible apply State.loadInstall_keep
    | with_reducible apply Keep.ite
    | split)

theorem execLoadCmdDiscard_keep {s s₂ : State} (hx : execLoadCmdDiscard s = .next s₂) (lLdr : L.ldr = true := by first | rfl | assumption) (lCsw : L.csw = true := by first | rfl | assumption) (lDict : L.dict = true := by first | rfl | assumption) (lEvr : L.evr = true := by first | rfl | assumption) (lTrc : L.trc = true := by first | rfl | assumption) : Keep L s s₂ := by
  unfold execLoadCmdDiscard at hx
  with_reducible refine Keep.commit ?_ hx
  clear hx
  have hK := Keep.refl (L := L) s
  repeat' (first
    | with_reducible assumption
    | with_reducible apply State.loadDiscard_keep
    | with_reducible apply Keep.ite
    | split)

theorem execSwapReady_keep {s s₂ : State} (ecc : List Ecc) (hx : execSwapReady ecc s = .next s₂) (lClk : L.clk = true := by first | rfl | assumption) (lClu : L.clu = true := by first | rfl | assumption) (lSto : L.sto = true := by first | rfl | assumption) (lLdr : L.ldr = true := by first | rfl | assumption) (lCsw : L.csw = true := by first | rfl | assumption) (lFio : L.fio = true := by first | rfl | assumption) (lNet : L.net = true := by first | rfl | assumption) (lCan : L.can = true := by first | rfl | assumption) (lHost : L.host = true := by first | rfl | assumption) (lWdg : L.wdg = true := by first | rfl | assumption) (lEvr : L.evr = true := by first | rfl | assumption) (lTrc : L.trc = true := by first | rfl | assumption) : Keep L s s₂ := by
  unfold execSwapReady at hx
  with_reducible refine Keep.commit ?_ hx
  clear hx
  have hK := Keep.refl (L := L) s
  repeat' (first
    | with_reducible assumption
    | with_reducible apply State.becomeReady_keep
    | with_reducible apply Keep.ite
    | split)

end Sys2Proof.Machine
end

