-- ==== Sys2Proof/Laws/KeepField.lean ====
section
/-! SUPPORT. What each operation of Machine/Field.lean keeps (Laws/Keep.lean). -/

set_option Elab.async false
set_option linter.all false

namespace Sys2Proof.Machine

open Sys2Proof

set_option linter.unusedVariables false
set_option linter.tactic.unusedName false

variable {L : Parts}

theorem State.redrive_keep {o₀ s : State} (hK : Keep L o₀ s) (lFio : L.fio = true := by first | rfl | assumption) : Keep L o₀ (State.redrive s) := by
  unfold State.redrive
  repeat' (first
    | with_reducible assumption
    | with_reducible apply Keep.upFio
    | with_reducible apply Keep.ite
    | (extract_lets +onlyGivenNames y; (first | ((have hy : Keep L o₀ y := (by unfold y; repeat' (first | with_reducible assumption | with_reducible apply Keep.upFio | with_reducible apply Keep.ite | extract_lets | split))); clear_value y) | clear_value y | skip))
    | split)

theorem State.imageArrives_keep {o₀ s : State} (hK : Keep L o₀ s) (lFio : L.fio = true := by first | rfl | assumption) : Keep L o₀ (State.imageArrives s) := by
  unfold State.imageArrives
  repeat' (first
    | with_reducible assumption
    | with_reducible apply State.redrive_keep
    | with_reducible apply Keep.upFio
    | with_reducible apply Keep.ite
    | split)

theorem State.launchLocal_keep {o₀ s : State} (hK : Keep L o₀ s) (o : Ov) (lSto : L.sto = true := by first | rfl | assumption) (lFio : L.fio = true := by first | rfl | assumption) : Keep L o₀ (State.launchLocal s o) := by
  unfold State.launchLocal
  repeat' (first
    | with_reducible assumption
    | with_reducible apply Keep.upFio
    | with_reducible refine Keep.upSto ?_ (fun xk => ?_)
    | with_reducible exact xk
    | (with_reducible refine Store.wf.mk ?_ ?_ ?_ ?_ ?_ <;> try dsimp only)
    | with_reducible exact xk.program
    | with_reducible exact xk.lmem
    | with_reducible exact xk.durable
    | with_reducible exact xk.inView
    | with_reducible exact xk.launched
    | with_reducible apply memPut_wf
    | with_reducible apply ov_apply_wf
    | with_reducible apply memWrite_wf
    | with_reducible apply memClear_wf
    | with_reducible apply memRange_wf
    | with_reducible apply mem_nil_wf
    | with_reducible apply memOf_wf
    | with_reducible apply Keep.ite
    | (extract_lets +onlyGivenNames y; (first | ((have hy : Keep L o₀ y := (by unfold y; repeat' (first | with_reducible assumption | with_reducible apply Keep.upFio | with_reducible refine Keep.upSto ?_ (fun xk => ?_) | with_reducible exact xk | (with_reducible refine Store.wf.mk ?_ ?_ ?_ ?_ ?_ <;> try dsimp only) | with_reducible exact xk.program | with_reducible exact xk.lmem | with_reducible exact xk.durable | with_reducible exact xk.inView | with_reducible exact xk.launched | with_reducible apply memPut_wf | with_reducible apply ov_apply_wf | with_reducible apply memWrite_wf | with_reducible apply memClear_wf | with_reducible apply memRange_wf | with_reducible apply mem_nil_wf | with_reducible apply memOf_wf | with_reducible apply Keep.ite | extract_lets | split))); clear_value y) | clear_value y | skip))
    | split)

theorem State.grpEvent_keep {o₀ s : State} (hK : Keep L o₀ s) (g : Nat) (sev : Nat) (lFio : L.fio = true := by first | rfl | assumption) (lEvr : L.evr = true := by first | rfl | assumption) : Keep L o₀ (State.grpEvent s g sev) := by
  unfold State.grpEvent
  repeat' (first
    | with_reducible assumption
    | with_reducible apply State.occurSev_keep
    | with_reducible apply Keep.upFio
    | with_reducible apply Keep.ite
    | split)

theorem State.outputRelease_keep {o₀ s : State} (hK : Keep L o₀ s) (lFio : L.fio = true := by first | rfl | assumption) (lEvr : L.evr = true := by first | rfl | assumption) : Keep L o₀ (State.outputRelease s) := by
  unfold State.outputRelease
  repeat' (first
    | with_reducible assumption
    | with_reducible apply State.upGroup_keep
    | with_reducible apply State.grpEvent_keep
    | with_reducible apply State.redrive_keep
    | with_reducible apply Keep.upFio
    | with_reducible refine Keep.foldl (fun _ _ _ => ?_) _ ?_
    | with_reducible refine Keep.foldl1 (fun _ _ _ _ => ?_) _ ?_
    | with_reducible refine Keep.foldl2 (fun _ _ _ _ => ?_) _ ?_
    | with_reducible apply Keep.ite
    | (extract_lets +onlyGivenNames y; (first | ((have hy : Keep L o₀ y := (by unfold y; repeat' (first | with_reducible assumption | with_reducible apply State.upGroup_keep | with_reducible apply State.grpEvent_keep | with_reducible apply State.redrive_keep | with_reducible apply Keep.upFio | with_reducible refine Keep.foldl (fun _ _ _ => ?_) _ ?_ | with_reducible refine Keep.foldl1 (fun _ _ _ _ => ?_) _ ?_ | with_reducible refine Keep.foldl2 (fun _ _ _ _ => ?_) _ ?_ | with_reducible apply Keep.ite | extract_lets | split))); clear_value y) | ((have hy : Keep L o₀ y.1 := (by unfold y; repeat' (first | with_reducible assumption | with_reducible apply State.upGroup_keep | with_reducible apply State.grpEvent_keep | with_reducible apply State.redrive_keep | with_reducible apply Keep.upFio | with_reducible refine Keep.foldl (fun _ _ _ => ?_) _ ?_ | with_reducible refine Keep.foldl1 (fun _ _ _ _ => ?_) _ ?_ | with_reducible refine Keep.foldl2 (fun _ _ _ _ => ?_) _ ?_ | with_reducible apply Keep.ite | extract_lets | split))); clear_value y) | ((have hy : Keep L o₀ y.2 := (by unfold y; repeat' (first | with_reducible assumption | with_reducible apply State.upGroup_keep | with_reducible apply State.grpEvent_keep | with_reducible apply State.redrive_keep | with_reducible apply Keep.upFio | with_reducible refine Keep.foldl (fun _ _ _ => ?_) _ ?_ | with_reducible refine Keep.foldl1 (fun _ _ _ _ => ?_) _ ?_ | with_reducible refine Keep.foldl2 (fun _ _ _ _ => ?_) _ ?_ | with_reducible apply Keep.ite | extract_lets | split))); clear_value y) | clear_value y | skip))
    | split)

theorem State.grpSample_keep {o₀ s : State} (hK : Keep L o₀ s) (i : Nat) (x : Nat) (ma : Nat) (lFio : L.fio = true := by first | rfl | assumption) (lEvr : L.evr = true := by first | rfl | assumption) : Keep L o₀ (State.grpSample s i x ma) := by
  unfold State.grpSample
  repeat' (first
    | with_reducible assumption
    | with_reducible apply State.upGroup_keep
    | with_reducible apply State.grpEvent_keep
    | with_reducible apply Keep.ite
    | (extract_lets +onlyGivenNames y; (first | ((have hy : Keep L o₀ y := (by unfold y; repeat' (first | with_reducible assumption | with_reducible apply State.upGroup_keep | with_reducible apply State.grpEvent_keep | with_reducible apply Keep.ite | extract_lets | split))); clear_value y) | clear_value y | skip))
    | split)

theorem State.groupsQualified_keep {o₀ s : State} (hK : Keep L o₀ s) (l : List (Nat × Nat)) (lFio : L.fio = true := by first | rfl | assumption) (lEvr : L.evr = true := by first | rfl | assumption) : Keep L o₀ (State.groupsQualified s l) := by
  unfold State.groupsQualified
  repeat' (first
    | with_reducible assumption
    | with_reducible apply State.upGroup_keep
    | with_reducible apply State.grpEvent_keep
    | with_reducible refine Keep.foldl (fun _ _ _ => ?_) _ ?_
    | with_reducible refine Keep.foldl1 (fun _ _ _ _ => ?_) _ ?_
    | with_reducible refine Keep.foldl2 (fun _ _ _ _ => ?_) _ ?_
    | with_reducible apply Keep.ite
    | split)

theorem State.ackGroups_keep {o₀ s : State} (hK : Keep L o₀ s) (mask : Nat) (lFio : L.fio = true := by first | rfl | assumption) : Keep L o₀ (State.ackGroups s mask) := by
  unfold State.ackGroups
  repeat' (first
    | with_reducible assumption
    | with_reducible apply Keep.upFio
    | with_reducible apply Keep.ite
    | split)

theorem State.reapply_keep {o₀ s : State} (hK : Keep L o₀ s) (lFio : L.fio = true := by first | rfl | assumption) (lEvr : L.evr = true := by first | rfl | assumption) : Keep L o₀ (State.reapply s) := by
  unfold State.reapply
  repeat' (first
    | with_reducible assumption
    | with_reducible apply State.fioCause_keep
    | with_reducible apply State.redrive_keep
    | with_reducible apply Keep.upFio
    | with_reducible apply Keep.ite
    | (extract_lets +onlyGivenNames y; (first | ((have hy : Keep L o₀ y := (by unfold y; repeat' (first | with_reducible assumption | with_reducible apply State.fioCause_keep | with_reducible apply State.redrive_keep | with_reducible apply Keep.upFio | with_reducible apply Keep.ite | extract_lets | split))); clear_value y) | clear_value y | skip))
    | split)

theorem State.latchLocal_keep {o₀ s : State} (hK : Keep L o₀ s) (lSto : L.sto = true := by first | rfl | assumption) (lFio : L.fio = true := by first | rfl | assumption) : Keep L o₀ (State.latchLocal s) := by
  unfold State.latchLocal
  repeat' (first
    | with_reducible assumption
    | with_reducible apply Keep.upFio
    | with_reducible refine Keep.upSto ?_ (fun xk => ?_)
    | with_reducible exact xk
    | (with_reducible refine Store.wf.mk ?_ ?_ ?_ ?_ ?_ <;> try dsimp only)
    | with_reducible exact xk.program
    | with_reducible exact xk.lmem
    | with_reducible exact xk.durable
    | with_reducible exact xk.inView
    | with_reducible exact xk.launched
    | with_reducible apply memPut_wf
    | with_reducible apply ov_apply_wf
    | with_reducible apply memWrite_wf
    | with_reducible apply memClear_wf
    | with_reducible apply memRange_wf
    | with_reducible apply mem_nil_wf
    | with_reducible apply memOf_wf
    | with_reducible apply Keep.ite
    | (extract_lets +onlyGivenNames y; (first | ((have hy : Keep L o₀ y := (by unfold y; repeat' (first | with_reducible assumption | with_reducible apply Keep.upFio | with_reducible refine Keep.upSto ?_ (fun xk => ?_) | with_reducible exact xk | (with_reducible refine Store.wf.mk ?_ ?_ ?_ ?_ ?_ <;> try dsimp only) | with_reducible exact xk.program | with_reducible exact xk.lmem | with_reducible exact xk.durable | with_reducible exact xk.inView | with_reducible exact xk.launched | with_reducible apply memPut_wf | with_reducible apply ov_apply_wf | with_reducible apply memWrite_wf | with_reducible apply memClear_wf | with_reducible apply memRange_wf | with_reducible apply mem_nil_wf | with_reducible apply memOf_wf | with_reducible apply Keep.ite | extract_lets | split))); clear_value y) | clear_value y | skip))
    | split)

theorem execRawSample_keep {s s₂ : State} (t : Nat) (pins : List (Nat × Int)) (supply : List Nat) (current : List Nat) (hx : execRawSample t pins supply current s = .next s₂) (lClk : L.clk = true := by first | rfl | assumption) (lSto : L.sto = true := by first | rfl | assumption) (lFio : L.fio = true := by first | rfl | assumption) (lEvr : L.evr = true := by first | rfl | assumption) (lFree : L.free = true := by first | rfl | assumption) : Keep L s s₂ := by
  unfold execRawSample at hx
  with_reducible refine Keep.commit ?_ hx
  clear hx
  have hK := Keep.refl (L := L) s
  repeat' (first
    | with_reducible assumption
    | with_reducible apply State.reach_keep
    | with_reducible apply State.useFree_keep
    | with_reducible apply State.grpSample_keep
    | with_reducible apply State.redrive_keep
    | with_reducible apply State.latchLocal_keep
    | with_reducible apply Keep.upFio
    | with_reducible refine Keep.foldl (fun _ _ _ => ?_) _ ?_
    | with_reducible refine Keep.foldl1 (fun _ _ _ _ => ?_) _ ?_
    | with_reducible refine Keep.foldl2 (fun _ _ _ _ => ?_) _ ?_
    | with_reducible apply Keep.ite
    | (extract_lets +onlyGivenNames y; (first | ((have hy : Keep L s y := (by unfold y; repeat' (first | with_reducible assumption | with_reducible apply State.reach_keep | with_reducible apply State.useFree_keep | with_reducible apply State.grpSample_keep | with_reducible apply State.redrive_keep | with_reducible apply State.latchLocal_keep | with_reducible apply Keep.upFio | with_reducible refine Keep.foldl (fun _ _ _ => ?_) _ ?_ | with_reducible refine Keep.foldl1 (fun _ _ _ _ => ?_) _ ?_ | with_reducible refine Keep.foldl2 (fun _ _ _ _ => ?_) _ ?_ | with_reducible apply Keep.ite | extract_lets | split))); clear_value y) | ((have hy : Keep L s y.1 := (by unfold y; repeat' (first | with_reducible assumption | with_reducible apply State.reach_keep | with_reducible apply State.useFree_keep | with_reducible apply State.grpSample_keep | with_reducible apply State.redrive_keep | with_reducible apply State.latchLocal_keep | with_reducible apply Keep.upFio | with_reducible refine Keep.foldl (fun _ _ _ => ?_) _ ?_ | with_reducible refine Keep.foldl1 (fun _ _ _ _ => ?_) _ ?_ | with_reducible refine Keep.foldl2 (fun _ _ _ _ => ?_) _ ?_ | with_reducible apply Keep.ite | extract_lets | split))); clear_value y) | ((have hy : Keep L s y.2 := (by unfold y; repeat' (first | with_reducible assumption | with_reducible apply State.reach_keep | with_reducible apply State.useFree_keep | with_reducible apply State.grpSample_keep | with_reducible apply State.redrive_keep | with_reducible apply State.latchLocal_keep | with_reducible apply Keep.upFio | with_reducible refine Keep.foldl (fun _ _ _ => ?_) _ ?_ | with_reducible refine Keep.foldl1 (fun _ _ _ _ => ?_) _ ?_ | with_reducible refine Keep.foldl2 (fun _ _ _ _ => ?_) _ ?_ | with_reducible apply Keep.ite | extract_lets | split))); clear_value y) | clear_value y | skip))
    | split)

theorem execGroupQualified_keep {s s₂ : State} (g : Nat) (hx : execGroupQualified g s = .next s₂) (lFio : L.fio = true := by first | rfl | assumption) (lEvr : L.evr = true := by first | rfl | assumption) : Keep L s s₂ := by
  unfold execGroupQualified at hx
  with_reducible refine Keep.commit ?_ hx
  clear hx
  have hK := Keep.refl (L := L) s
  repeat' (first
    | with_reducible assumption
    | with_reducible apply State.upGroup_keep
    | with_reducible apply State.reapply_keep
    | with_reducible apply State.grpEvent_keep
    | with_reducible apply Keep.ite
    | (extract_lets +onlyGivenNames y; (first | ((have hy : Keep L s y := (by unfold y; repeat' (first | with_reducible assumption | with_reducible apply State.upGroup_keep | with_reducible apply State.reapply_keep | with_reducible apply State.grpEvent_keep | with_reducible apply Keep.ite | extract_lets | split))); clear_value y) | clear_value y | skip))
    | split)

theorem execGrpOvercurrent_keep {s s₂ : State} (g : Nat) (hx : execGrpOvercurrent g s = .next s₂) (lFio : L.fio = true := by first | rfl | assumption) (lEvr : L.evr = true := by first | rfl | assumption) : Keep L s s₂ := by
  unfold execGrpOvercurrent at hx
  with_reducible refine Keep.commit ?_ hx
  clear hx
  have hK := Keep.refl (L := L) s
  repeat' (first
    | with_reducible assumption
    | with_reducible apply State.upGroup_keep
    | with_reducible apply State.grpEvent_keep
    | with_reducible apply State.redrive_keep
    | with_reducible apply Keep.ite
    | split)

theorem execThermalTrip_keep {s s₂ : State} (c : Nat) (hx : execThermalTrip c s = .next s₂) (lFio : L.fio = true := by first | rfl | assumption) (lEvr : L.evr = true := by first | rfl | assumption) : Keep L s s₂ := by
  unfold execThermalTrip at hx
  with_reducible refine Keep.commit ?_ hx
  clear hx
  have hK := Keep.refl (L := L) s
  repeat' (first
    | with_reducible assumption
    | with_reducible apply State.upChan_keep
    | with_reducible apply State.fioCause_keep
    | with_reducible apply Keep.ite
    | (extract_lets +onlyGivenNames y; (first | ((have hy : Keep L s y := (by unfold y; repeat' (first | with_reducible assumption | with_reducible apply State.upChan_keep | with_reducible apply State.fioCause_keep | with_reducible apply Keep.ite | extract_lets | split))); clear_value y) | clear_value y | skip))
    | split)

theorem execThermalCooled_keep {s s₂ : State} (c : Nat) (hx : execThermalCooled c s = .next s₂) (lFio : L.fio = true := by first | rfl | assumption) : Keep L s s₂ := by
  unfold execThermalCooled at hx
  with_reducible refine Keep.commit ?_ hx
  clear hx
  have hK := Keep.refl (L := L) s
  repeat' (first
    | with_reducible assumption
    | with_reducible apply State.upChan_keep
    | with_reducible apply Keep.ite
    | (extract_lets +onlyGivenNames y; (first | ((have hy : Keep L s y := (by unfold y; repeat' (first | with_reducible assumption | with_reducible apply State.upChan_keep | with_reducible apply Keep.ite | extract_lets | split))); clear_value y) | clear_value y | skip))
    | split)

theorem execOverloadClear_keep {s s₂ : State} (c : Nat) (hx : execOverloadClear c s = .next s₂) (lFio : L.fio = true := by first | rfl | assumption) : Keep L s s₂ := by
  unfold execOverloadClear at hx
  with_reducible refine Keep.commit ?_ hx
  clear hx
  have hK := Keep.refl (L := L) s
  repeat' (first
    | with_reducible assumption
    | with_reducible apply State.upChan_keep
    | with_reducible apply Keep.ite
    | split)

theorem execOpenLoadDetect_keep {s s₂ : State} (c : Nat) (hx : execOpenLoadDetect c s = .next s₂) (lFio : L.fio = true := by first | rfl | assumption) (lEvr : L.evr = true := by first | rfl | assumption) : Keep L s s₂ := by
  unfold execOpenLoadDetect at hx
  with_reducible refine Keep.commit ?_ hx
  clear hx
  have hK := Keep.refl (L := L) s
  repeat' (first
    | with_reducible assumption
    | with_reducible apply State.upChan_keep
    | with_reducible apply State.fioCause_keep
    | with_reducible apply Keep.ite
    | (extract_lets +onlyGivenNames y; (first | ((have hy : Keep L s y := (by unfold y; repeat' (first | with_reducible assumption | with_reducible apply State.upChan_keep | with_reducible apply State.fioCause_keep | with_reducible apply Keep.ite | extract_lets | split))); clear_value y) | clear_value y | skip))
    | split)

theorem execOpenLoadClear_keep {s s₂ : State} (c : Nat) (hx : execOpenLoadClear c s = .next s₂) (lFio : L.fio = true := by first | rfl | assumption) : Keep L s s₂ := by
  unfold execOpenLoadClear at hx
  with_reducible refine Keep.commit ?_ hx
  clear hx
  have hK := Keep.refl (L := L) s
  repeat' (first
    | with_reducible assumption
    | with_reducible apply State.upChan_keep
    | with_reducible apply Keep.ite
    | split)

theorem execStaggeredSwitchOn_keep {s s₂ : State} (c : Nat) (t : Nat) (hx : execStaggeredSwitchOn c t s = .next s₂) (lClk : L.clk = true := by first | rfl | assumption) (lFio : L.fio = true := by first | rfl | assumption) : Keep L s s₂ := by
  unfold execStaggeredSwitchOn at hx
  with_reducible refine Keep.commit ?_ hx
  clear hx
  have hK := Keep.refl (L := L) s
  repeat' (first
    | with_reducible assumption
    | with_reducible apply State.reach_keep
    | with_reducible apply State.upChan_keep
    | with_reducible apply Keep.ite
    | (extract_lets +onlyGivenNames y; (first | ((have hy : Keep L s y := (by unfold y; repeat' (first | with_reducible assumption | with_reducible apply State.reach_keep | with_reducible apply State.upChan_keep | with_reducible apply Keep.ite | extract_lets | split))); clear_value y) | clear_value y | skip))
    | split)

theorem execLogicSilenceExpiry_keep {s s₂ : State} (hx : execLogicSilenceExpiry s = .next s₂) (lFio : L.fio = true := by first | rfl | assumption) (lNet : L.net = true := by first | rfl | assumption) (lEvr : L.evr = true := by first | rfl | assumption) : Keep L s s₂ := by
  unfold execLogicSilenceExpiry at hx
  with_reducible refine Keep.commit ?_ hx
  clear hx
  have hK := Keep.refl (L := L) s
  repeat' (first
    | with_reducible assumption
    | with_reducible apply State.fioCause_keep
    | with_reducible apply State.redrive_keep
    | with_reducible apply Keep.upFio
    | with_reducible apply Keep.upNet
    | with_reducible apply Keep.ite
    | (extract_lets +onlyGivenNames y; (first | ((have hy : Keep L s y := (by unfold y; repeat' (first | with_reducible assumption | with_reducible apply State.fioCause_keep | with_reducible apply State.redrive_keep | with_reducible apply Keep.upFio | with_reducible apply Keep.upNet | with_reducible apply Keep.ite | extract_lets | split))); clear_value y) | clear_value y | skip))
    | split)

end Sys2Proof.Machine
end

