-- ==== Sys2Proof/Laws/KeepNet.lean ====
section
/-! SUPPORT. What each operation of Machine/Net.lean keeps (Laws/Keep.lean). -/

set_option Elab.async false
set_option linter.all false

namespace Sys2Proof.Machine

open Sys2Proof

set_option linter.unusedVariables false
set_option linter.tactic.unusedName false

variable {L : Parts}

theorem State.prpCheck_keep {o₀ s : State} (hK : Keep L o₀ s) (pair : Nat) (lNet : L.net = true := by first | rfl | assumption) (lEvr : L.evr = true := by first | rfl | assumption) : Keep L o₀ (State.prpCheck s pair) := by
  unfold State.prpCheck
  repeat' (first
    | with_reducible assumption
    | with_reducible apply State.netCause_keep
    | with_reducible apply Keep.upNet
    | with_reducible apply Keep.ite
    | (extract_lets +onlyGivenNames y; (first | ((have hy : Keep L o₀ y := (by unfold y; repeat' (first | with_reducible assumption | with_reducible apply State.netCause_keep | with_reducible apply Keep.upNet | with_reducible apply Keep.ite | extract_lets | split))); clear_value y) | clear_value y | skip))
    | split)

theorem State.nextPrp_keep {o₀ s : State} (hK : Keep L o₀ s) (code : Nat) (lNet : L.net = true := by first | rfl | assumption) : Keep L o₀ (State.nextPrp s code) := by
  unfold State.nextPrp
  repeat' (first
    | with_reducible assumption
    | with_reducible apply Keep.upNet
    | with_reducible apply Keep.ite
    | split)

theorem State.sendEthOn_keep {o₀ s : State} (hK : Keep L o₀ s) (ports : List Nat) (code : Nat) (dst : List Byte) (payload : List Byte) (lNet : L.net = true := by first | rfl | assumption) : Keep L o₀ (State.sendEthOn s ports code dst payload) := by
  unfold State.sendEthOn
  repeat' (first
    | with_reducible assumption
    | with_reducible apply State.send_keep
    | with_reducible apply State.nextPrp_keep
    | with_reducible refine Keep.foldl (fun _ _ _ => ?_) _ ?_
    | with_reducible refine Keep.foldl1 (fun _ _ _ _ => ?_) _ ?_
    | with_reducible refine Keep.foldl2 (fun _ _ _ _ => ?_) _ ?_
    | with_reducible apply Keep.ite
    | (extract_lets +onlyGivenNames y; (first | ((have hy : Keep L o₀ y := (by unfold y; repeat' (first | with_reducible assumption | with_reducible apply State.send_keep | with_reducible apply State.nextPrp_keep | with_reducible refine Keep.foldl (fun _ _ _ => ?_) _ ?_ | with_reducible refine Keep.foldl1 (fun _ _ _ _ => ?_) _ ?_ | with_reducible refine Keep.foldl2 (fun _ _ _ _ => ?_) _ ?_ | with_reducible apply Keep.ite | extract_lets | split))); clear_value y) | ((have hy : Keep L o₀ y.1 := (by unfold y; repeat' (first | with_reducible assumption | with_reducible apply State.send_keep | with_reducible apply State.nextPrp_keep | with_reducible refine Keep.foldl (fun _ _ _ => ?_) _ ?_ | with_reducible refine Keep.foldl1 (fun _ _ _ _ => ?_) _ ?_ | with_reducible refine Keep.foldl2 (fun _ _ _ _ => ?_) _ ?_ | with_reducible apply Keep.ite | extract_lets | split))); clear_value y) | ((have hy : Keep L o₀ y.2 := (by unfold y; repeat' (first | with_reducible assumption | with_reducible apply State.send_keep | with_reducible apply State.nextPrp_keep | with_reducible refine Keep.foldl (fun _ _ _ => ?_) _ ?_ | with_reducible refine Keep.foldl1 (fun _ _ _ _ => ?_) _ ?_ | with_reducible refine Keep.foldl2 (fun _ _ _ _ => ?_) _ ?_ | with_reducible apply Keep.ite | extract_lets | split))); clear_value y) | clear_value y | skip))
    | split)

theorem State.sendPlain_keep {o₀ s : State} (hK : Keep L o₀ s) (port : Nat) (f : List Byte) (lNet : L.net = true := by first | rfl | assumption) : Keep L o₀ (State.sendPlain s port f) := by
  unfold State.sendPlain
  repeat' (first
    | with_reducible assumption
    | with_reducible apply State.send_keep
    | with_reducible apply State.nextPrp_keep
    | with_reducible refine Keep.foldl (fun _ _ _ => ?_) _ ?_
    | with_reducible refine Keep.foldl1 (fun _ _ _ _ => ?_) _ ?_
    | with_reducible refine Keep.foldl2 (fun _ _ _ _ => ?_) _ ?_
    | with_reducible apply Keep.ite
    | (extract_lets +onlyGivenNames y; (first | ((have hy : Keep L o₀ y := (by unfold y; repeat' (first | with_reducible assumption | with_reducible apply State.send_keep | with_reducible apply State.nextPrp_keep | with_reducible refine Keep.foldl (fun _ _ _ => ?_) _ ?_ | with_reducible refine Keep.foldl1 (fun _ _ _ _ => ?_) _ ?_ | with_reducible refine Keep.foldl2 (fun _ _ _ _ => ?_) _ ?_ | with_reducible apply Keep.ite | extract_lets | split))); clear_value y) | ((have hy : Keep L o₀ y.1 := (by unfold y; repeat' (first | with_reducible assumption | with_reducible apply State.send_keep | with_reducible apply State.nextPrp_keep | with_reducible refine Keep.foldl (fun _ _ _ => ?_) _ ?_ | with_reducible refine Keep.foldl1 (fun _ _ _ _ => ?_) _ ?_ | with_reducible refine Keep.foldl2 (fun _ _ _ _ => ?_) _ ?_ | with_reducible apply Keep.ite | extract_lets | split))); clear_value y) | ((have hy : Keep L o₀ y.2 := (by unfold y; repeat' (first | with_reducible assumption | with_reducible apply State.send_keep | with_reducible apply State.nextPrp_keep | with_reducible refine Keep.foldl (fun _ _ _ => ?_) _ ?_ | with_reducible refine Keep.foldl1 (fun _ _ _ _ => ?_) _ ?_ | with_reducible refine Keep.foldl2 (fun _ _ _ _ => ?_) _ ?_ | with_reducible apply Keep.ite | extract_lets | split))); clear_value y) | clear_value y | skip))
    | split)

theorem State.prpSeen_keep {o₀ s : State} (hK : Keep L o₀ s) (port : Nat) (f : List Byte) (lNet : L.net = true := by first | rfl | assumption) : Keep L o₀ (State.prpSeen s port f).2 := by
  unfold State.prpSeen
  repeat' (first
    | with_reducible assumption
    | with_reducible apply Keep.upNet
    | with_reducible apply Keep.ite2
    | with_reducible apply Keep.ite1
    | with_reducible apply Keep.ite
    | (extract_lets +onlyGivenNames y; (first | ((have hy : Keep L o₀ y := (by unfold y; repeat' (first | with_reducible assumption | with_reducible apply Keep.upNet | with_reducible apply Keep.ite2 | with_reducible apply Keep.ite1 | with_reducible apply Keep.ite | extract_lets | split))); clear_value y) | ((have hy : Keep L o₀ y.1 := (by unfold y; repeat' (first | with_reducible assumption | with_reducible apply Keep.upNet | with_reducible apply Keep.ite2 | with_reducible apply Keep.ite1 | with_reducible apply Keep.ite | extract_lets | split))); clear_value y) | ((have hy : Keep L o₀ y.2 := (by unfold y; repeat' (first | with_reducible assumption | with_reducible apply Keep.upNet | with_reducible apply Keep.ite2 | with_reducible apply Keep.ite1 | with_reducible apply Keep.ite | extract_lets | split))); clear_value y) | clear_value y | skip))
    | split)

theorem State.loseLock_keep {o₀ s : State} (hK : Keep L o₀ s) (lClk : L.clk = true := by first | rfl | assumption) (lNet : L.net = true := by first | rfl | assumption) (lEvr : L.evr = true := by first | rfl | assumption) : Keep L o₀ (State.loseLock s) := by
  unfold State.loseLock
  repeat' (first
    | with_reducible assumption
    | with_reducible apply State.netCause_keep
    | with_reducible apply Keep.upClk
    | with_reducible apply Keep.ite
    | split)

theorem State.gainLock_keep {o₀ s : State} (hK : Keep L o₀ s) (lClk : L.clk = true := by first | rfl | assumption) (lNet : L.net = true := by first | rfl | assumption) (lEvr : L.evr = true := by first | rfl | assumption) : Keep L o₀ (State.gainLock s) := by
  unfold State.gainLock
  repeat' (first
    | with_reducible assumption
    | with_reducible apply State.netCause_keep
    | with_reducible apply Keep.upClk
    | with_reducible apply Keep.ite
    | split)

theorem State.relock_keep {o₀ s : State} (hK : Keep L o₀ s) (lClk : L.clk = true := by first | rfl | assumption) (lNet : L.net = true := by first | rfl | assumption) (lEvr : L.evr = true := by first | rfl | assumption) : Keep L o₀ (State.relock s) := by
  unfold State.relock
  repeat' (first
    | with_reducible assumption
    | with_reducible apply State.loseLock_keep
    | with_reducible apply State.gainLock_keep
    | with_reducible apply Keep.ite
    | split)

theorem State.sendPtp_keep {o₀ s : State} (hK : Keep L o₀ s) (port : Nat) (k : PtpOut) (lNet : L.net = true := by first | rfl | assumption) : Keep L o₀ (State.sendPtp s port k) := by
  unfold State.sendPtp
  repeat' (first
    | with_reducible assumption
    | with_reducible apply State.send_keep
    | with_reducible apply Keep.ite
    | split)

theorem State.ptpMessage_keep {o₀ s : State} (hK : Keep L o₀ s) (port : Nat) (m : PtpMsg) (lClk : L.clk = true := by first | rfl | assumption) (lNet : L.net = true := by first | rfl | assumption) (lEvr : L.evr = true := by first | rfl | assumption) : Keep L o₀ (State.ptpMessage s port m) := by
  unfold State.ptpMessage
  repeat' (first
    | with_reducible assumption
    | with_reducible apply State.relock_keep
    | with_reducible apply State.sendPtp_keep
    | with_reducible apply Keep.upClk
    | with_reducible apply Keep.ite
    | split)

theorem State.firstDue_keep {o₀ s : State} (hK : Keep L o₀ s) (t : Nat) (lClk : L.clk = true := by first | rfl | assumption) : Keep L o₀ (State.firstDue s t) := by
  unfold State.firstDue
  repeat' (first
    | with_reducible assumption
    | with_reducible apply Keep.upClk
    | with_reducible apply Keep.ite
    | split)

theorem State.rxErr_keep {o₀ s : State} (hK : Keep L o₀ s) (lNet : L.net = true := by first | rfl | assumption) : Keep L o₀ (State.rxErr s) := by
  unfold State.rxErr
  repeat' (first
    | with_reducible assumption
    | with_reducible apply Keep.upNet
    | with_reducible apply Keep.ite
    | split)

theorem State.dropLate_keep {o₀ s : State} (hK : Keep L o₀ s) (t : Nat) (lNet : L.net = true := by first | rfl | assumption) (lEvr : L.evr = true := by first | rfl | assumption) : Keep L o₀ (State.dropLate s t) := by
  unfold State.dropLate
  repeat' (first
    | with_reducible assumption
    | with_reducible apply State.netCause_keep
    | with_reducible apply Keep.upNet
    | with_reducible refine Keep.foldl (fun _ _ _ => ?_) _ ?_
    | with_reducible refine Keep.foldl1 (fun _ _ _ _ => ?_) _ ?_
    | with_reducible refine Keep.foldl2 (fun _ _ _ _ => ?_) _ ?_
    | with_reducible apply Keep.ite
    | (extract_lets +onlyGivenNames y; (first | ((have hy : Keep L o₀ y := (by unfold y; repeat' (first | with_reducible assumption | with_reducible apply State.netCause_keep | with_reducible apply Keep.upNet | with_reducible refine Keep.foldl (fun _ _ _ => ?_) _ ?_ | with_reducible refine Keep.foldl1 (fun _ _ _ _ => ?_) _ ?_ | with_reducible refine Keep.foldl2 (fun _ _ _ _ => ?_) _ ?_ | with_reducible apply Keep.ite | extract_lets | split))); clear_value y) | ((have hy : Keep L o₀ y.1 := (by unfold y; repeat' (first | with_reducible assumption | with_reducible apply State.netCause_keep | with_reducible apply Keep.upNet | with_reducible refine Keep.foldl (fun _ _ _ => ?_) _ ?_ | with_reducible refine Keep.foldl1 (fun _ _ _ _ => ?_) _ ?_ | with_reducible refine Keep.foldl2 (fun _ _ _ _ => ?_) _ ?_ | with_reducible apply Keep.ite | extract_lets | split))); clear_value y) | ((have hy : Keep L o₀ y.2 := (by unfold y; repeat' (first | with_reducible assumption | with_reducible apply State.netCause_keep | with_reducible apply Keep.upNet | with_reducible refine Keep.foldl (fun _ _ _ => ?_) _ ?_ | with_reducible refine Keep.foldl1 (fun _ _ _ _ => ?_) _ ?_ | with_reducible refine Keep.foldl2 (fun _ _ _ _ => ?_) _ ?_ | with_reducible apply Keep.ite | extract_lets | split))); clear_value y) | clear_value y | skip))
    | split)

theorem State.sendFrame_keep {o₀ s : State} (hK : Keep L o₀ s) (x : TxFrame) (lNet : L.net = true := by first | rfl | assumption) : Keep L o₀ (State.sendFrame s x) := by
  unfold State.sendFrame
  repeat' (first
    | with_reducible assumption
    | with_reducible apply State.sendEthOn_keep
    | with_reducible apply Keep.upNet
    | with_reducible refine Keep.foldl (fun _ _ _ => ?_) _ ?_
    | with_reducible refine Keep.foldl1 (fun _ _ _ _ => ?_) _ ?_
    | with_reducible refine Keep.foldl2 (fun _ _ _ _ => ?_) _ ?_
    | with_reducible apply Keep.ite
    | (extract_lets +onlyGivenNames y; (first | ((have hy : Keep L o₀ y := (by unfold y; repeat' (first | with_reducible assumption | with_reducible apply State.sendEthOn_keep | with_reducible apply Keep.upNet | with_reducible refine Keep.foldl (fun _ _ _ => ?_) _ ?_ | with_reducible refine Keep.foldl1 (fun _ _ _ _ => ?_) _ ?_ | with_reducible refine Keep.foldl2 (fun _ _ _ _ => ?_) _ ?_ | with_reducible apply Keep.ite | extract_lets | split))); clear_value y) | ((have hy : Keep L o₀ y.1 := (by unfold y; repeat' (first | with_reducible assumption | with_reducible apply State.sendEthOn_keep | with_reducible apply Keep.upNet | with_reducible refine Keep.foldl (fun _ _ _ => ?_) _ ?_ | with_reducible refine Keep.foldl1 (fun _ _ _ _ => ?_) _ ?_ | with_reducible refine Keep.foldl2 (fun _ _ _ _ => ?_) _ ?_ | with_reducible apply Keep.ite | extract_lets | split))); clear_value y) | ((have hy : Keep L o₀ y.2 := (by unfold y; repeat' (first | with_reducible assumption | with_reducible apply State.sendEthOn_keep | with_reducible apply Keep.upNet | with_reducible refine Keep.foldl (fun _ _ _ => ?_) _ ?_ | with_reducible refine Keep.foldl1 (fun _ _ _ _ => ?_) _ ?_ | with_reducible refine Keep.foldl2 (fun _ _ _ _ => ?_) _ ?_ | with_reducible apply Keep.ite | extract_lets | split))); clear_value y) | clear_value y | skip))
    | split)

theorem State.drain_keep {o₀ s : State} (hK : Keep L o₀ s) (lNet : L.net = true := by first | rfl | assumption) (lEvr : L.evr = true := by first | rfl | assumption) : Keep L o₀ (State.drain s) := by
  unfold State.drain
  repeat' (first
    | with_reducible assumption
    | with_reducible apply State.dropLate_keep
    | with_reducible apply State.sendFrame_keep
    | with_reducible apply Keep.upNet
    | with_reducible refine Keep.foldl (fun _ _ _ => ?_) _ ?_
    | with_reducible refine Keep.foldl1 (fun _ _ _ _ => ?_) _ ?_
    | with_reducible refine Keep.foldl2 (fun _ _ _ _ => ?_) _ ?_
    | with_reducible apply Keep.ite
    | (extract_lets +onlyGivenNames y; (first | ((have hy : Keep L o₀ y := (by unfold y; repeat' (first | with_reducible assumption | with_reducible apply State.dropLate_keep | with_reducible apply State.sendFrame_keep | with_reducible apply Keep.upNet | with_reducible refine Keep.foldl (fun _ _ _ => ?_) _ ?_ | with_reducible refine Keep.foldl1 (fun _ _ _ _ => ?_) _ ?_ | with_reducible refine Keep.foldl2 (fun _ _ _ _ => ?_) _ ?_ | with_reducible apply Keep.ite | extract_lets | split))); clear_value y) | ((have hy : Keep L o₀ y.1 := (by unfold y; repeat' (first | with_reducible assumption | with_reducible apply State.dropLate_keep | with_reducible apply State.sendFrame_keep | with_reducible apply Keep.upNet | with_reducible refine Keep.foldl (fun _ _ _ => ?_) _ ?_ | with_reducible refine Keep.foldl1 (fun _ _ _ _ => ?_) _ ?_ | with_reducible refine Keep.foldl2 (fun _ _ _ _ => ?_) _ ?_ | with_reducible apply Keep.ite | extract_lets | split))); clear_value y) | ((have hy : Keep L o₀ y.2 := (by unfold y; repeat' (first | with_reducible assumption | with_reducible apply State.dropLate_keep | with_reducible apply State.sendFrame_keep | with_reducible apply Keep.upNet | with_reducible refine Keep.foldl (fun _ _ _ => ?_) _ ?_ | with_reducible refine Keep.foldl1 (fun _ _ _ _ => ?_) _ ?_ | with_reducible refine Keep.foldl2 (fun _ _ _ _ => ?_) _ ?_ | with_reducible apply Keep.ite | extract_lets | split))); clear_value y) | clear_value y | skip))
    | split)

theorem State.queueFrame_keep {o₀ s : State} (hK : Keep L o₀ s) (slot : Nat) (launch : Option Nat) (retried : Bool) (b : List Byte) (lNet : L.net = true := by first | rfl | assumption) (lEvr : L.evr = true := by first | rfl | assumption) : Keep L o₀ (State.queueFrame s slot launch retried b) := by
  unfold State.queueFrame
  repeat' (first
    | with_reducible assumption
    | with_reducible apply State.drain_keep
    | with_reducible apply Keep.upNet
    | with_reducible apply Keep.ite
    | split)

theorem State.queueOutput_keep {o₀ s : State} (hK : Keep L o₀ s) (i : Nat) (task : Nat) (beat : Nat) (launch : Nat) (payload : List Byte) (lNet : L.net = true := by first | rfl | assumption) (lEvr : L.evr = true := by first | rfl | assumption) : Keep L o₀ (State.queueOutput s i task beat launch payload) := by
  unfold State.queueOutput
  repeat' (first
    | with_reducible assumption
    | with_reducible apply State.upSlot_keep
    | with_reducible apply State.queueFrame_keep
    | with_reducible apply Keep.ite
    | (extract_lets +onlyGivenNames y; (first | ((have hy : Keep L o₀ y := (by unfold y; repeat' (first | with_reducible assumption | with_reducible apply State.upSlot_keep | with_reducible apply State.queueFrame_keep | with_reducible apply Keep.ite | extract_lets | split))); clear_value y) | clear_value y | skip))
    | split)

theorem State.taskFrames_keep {o₀ s : State} (hK : Keep L o₀ s) (t : Nat) (m : Nat) (o : Ov) (lNet : L.net = true := by first | rfl | assumption) (lEvr : L.evr = true := by first | rfl | assumption) : Keep L o₀ (State.taskFrames s t m o) := by
  unfold State.taskFrames
  repeat' (first
    | with_reducible assumption
    | with_reducible apply State.queueOutput_keep
    | with_reducible refine Keep.foldl (fun _ _ _ => ?_) _ ?_
    | with_reducible refine Keep.foldl1 (fun _ _ _ _ => ?_) _ ?_
    | with_reducible refine Keep.foldl2 (fun _ _ _ _ => ?_) _ ?_
    | with_reducible apply Keep.ite
    | split)

theorem State.resumeFrame_keep {o₀ s : State} (hK : Keep L o₀ s) (i : Nat) (lNet : L.net = true := by first | rfl | assumption) (lEvr : L.evr = true := by first | rfl | assumption) : Keep L o₀ (State.resumeFrame s i) := by
  unfold State.resumeFrame
  repeat' (first
    | with_reducible assumption
    | with_reducible apply State.queueOutput_keep
    | with_reducible apply Keep.ite
    | (extract_lets +onlyGivenNames y; (first | ((have hy : Keep L o₀ y := (by unfold y; repeat' (first | with_reducible assumption | with_reducible apply State.queueOutput_keep | with_reducible apply Keep.ite | extract_lets | split))); clear_value y) | clear_value y | skip))
    | split)

theorem State.keepAlives_keep {o₀ s : State} (hK : Keep L o₀ s) (m : Nat) (lNet : L.net = true := by first | rfl | assumption) (lEvr : L.evr = true := by first | rfl | assumption) : Keep L o₀ (State.keepAlives s m) := by
  unfold State.keepAlives
  repeat' (first
    | with_reducible assumption
    | with_reducible apply State.queueOutput_keep
    | with_reducible refine Keep.foldl (fun _ _ _ => ?_) _ ?_
    | with_reducible refine Keep.foldl1 (fun _ _ _ _ => ?_) _ ?_
    | with_reducible refine Keep.foldl2 (fun _ _ _ _ => ?_) _ ?_
    | with_reducible apply Keep.ite
    | (extract_lets +onlyGivenNames y; (first | ((have hy : Keep L o₀ y := (by unfold y; repeat' (first | with_reducible assumption | with_reducible apply State.queueOutput_keep | with_reducible refine Keep.foldl (fun _ _ _ => ?_) _ ?_ | with_reducible refine Keep.foldl1 (fun _ _ _ _ => ?_) _ ?_ | with_reducible refine Keep.foldl2 (fun _ _ _ _ => ?_) _ ?_ | with_reducible apply Keep.ite | extract_lets | split))); clear_value y) | ((have hy : Keep L o₀ y.1 := (by unfold y; repeat' (first | with_reducible assumption | with_reducible apply State.queueOutput_keep | with_reducible refine Keep.foldl (fun _ _ _ => ?_) _ ?_ | with_reducible refine Keep.foldl1 (fun _ _ _ _ => ?_) _ ?_ | with_reducible refine Keep.foldl2 (fun _ _ _ _ => ?_) _ ?_ | with_reducible apply Keep.ite | extract_lets | split))); clear_value y) | ((have hy : Keep L o₀ y.2 := (by unfold y; repeat' (first | with_reducible assumption | with_reducible apply State.queueOutput_keep | with_reducible refine Keep.foldl (fun _ _ _ => ?_) _ ?_ | with_reducible refine Keep.foldl1 (fun _ _ _ _ => ?_) _ ?_ | with_reducible refine Keep.foldl2 (fun _ _ _ _ => ?_) _ ?_ | with_reducible apply Keep.ite | extract_lets | split))); clear_value y) | clear_value y | skip))
    | split)

theorem State.termClaim_keep {o₀ s : State} (hK : Keep L o₀ s) (prev : Nat) (lNet : L.net = true := by first | rfl | assumption) (lEvr : L.evr = true := by first | rfl | assumption) : Keep L o₀ (State.termClaim s prev) := by
  unfold State.termClaim
  repeat' (first
    | with_reducible assumption
    | with_reducible apply State.queueFrame_keep
    | with_reducible apply Keep.upNet
    | with_reducible refine Keep.foldl (fun _ _ _ => ?_) _ ?_
    | with_reducible refine Keep.foldl1 (fun _ _ _ _ => ?_) _ ?_
    | with_reducible refine Keep.foldl2 (fun _ _ _ _ => ?_) _ ?_
    | with_reducible apply Keep.ite
    | (extract_lets +onlyGivenNames y; (first | ((have hy : Keep L o₀ y := (by unfold y; repeat' (first | with_reducible assumption | with_reducible apply State.queueFrame_keep | with_reducible apply Keep.upNet | with_reducible refine Keep.foldl (fun _ _ _ => ?_) _ ?_ | with_reducible refine Keep.foldl1 (fun _ _ _ _ => ?_) _ ?_ | with_reducible refine Keep.foldl2 (fun _ _ _ _ => ?_) _ ?_ | with_reducible apply Keep.ite | extract_lets | split))); clear_value y) | ((have hy : Keep L o₀ y.1 := (by unfold y; repeat' (first | with_reducible assumption | with_reducible apply State.queueFrame_keep | with_reducible apply Keep.upNet | with_reducible refine Keep.foldl (fun _ _ _ => ?_) _ ?_ | with_reducible refine Keep.foldl1 (fun _ _ _ _ => ?_) _ ?_ | with_reducible refine Keep.foldl2 (fun _ _ _ _ => ?_) _ ?_ | with_reducible apply Keep.ite | extract_lets | split))); clear_value y) | ((have hy : Keep L o₀ y.2 := (by unfold y; repeat' (first | with_reducible assumption | with_reducible apply State.queueFrame_keep | with_reducible apply Keep.upNet | with_reducible refine Keep.foldl (fun _ _ _ => ?_) _ ?_ | with_reducible refine Keep.foldl1 (fun _ _ _ _ => ?_) _ ?_ | with_reducible refine Keep.foldl2 (fun _ _ _ _ => ?_) _ ?_ | with_reducible apply Keep.ite | extract_lets | split))); clear_value y) | clear_value y | skip))
    | split)

theorem State.stationReport_keep {o₀ s : State} (hK : Keep L o₀ s) (i : Nat) (term : Nat) (node : Nat) (lClk : L.clk = true := by first | rfl | assumption) (lClu : L.clu = true := by first | rfl | assumption) (lSto : L.sto = true := by first | rfl | assumption) (lCsw : L.csw = true := by first | rfl | assumption) (lNet : L.net = true := by first | rfl | assumption) (lCan : L.can = true := by first | rfl | assumption) (lWdg : L.wdg = true := by first | rfl | assumption) (lEvr : L.evr = true := by first | rfl | assumption) (lTrc : L.trc = true := by first | rfl | assumption) : Keep L o₀ (State.stationReport s i term node) := by
  unfold State.stationReport
  repeat' (first
    | with_reducible assumption
    | with_reducible apply State.upSlot_keep
    | with_reducible apply State.cswCause_keep
    | with_reducible apply State.enterFailed_keep
    | with_reducible apply Keep.upCsw
    | with_reducible apply Keep.ite
    | (extract_lets +onlyGivenNames y; (first | ((have hy : Keep L o₀ y := (by unfold y; repeat' (first | with_reducible assumption | with_reducible apply State.upSlot_keep | with_reducible apply State.cswCause_keep | with_reducible apply State.enterFailed_keep | with_reducible apply Keep.upCsw | with_reducible apply Keep.ite | extract_lets | split))); clear_value y) | clear_value y | skip))
    | split)

theorem State.countSuperseded_keep {o₀ s : State} (hK : Keep L o₀ s) (lNet : L.net = true := by first | rfl | assumption) : Keep L o₀ (State.countSuperseded s) := by
  unfold State.countSuperseded
  repeat' (first
    | with_reducible assumption
    | with_reducible apply Keep.upNet
    | with_reducible apply Keep.ite
    | split)

theorem State.inputFrame_keep {o₀ s : State} (hK : Keep L o₀ s) (t : Nat) (p : List Byte) (lClk : L.clk = true := by first | rfl | assumption) (lClu : L.clu = true := by first | rfl | assumption) (lSto : L.sto = true := by first | rfl | assumption) (lCsw : L.csw = true := by first | rfl | assumption) (lNet : L.net = true := by first | rfl | assumption) (lCan : L.can = true := by first | rfl | assumption) (lWdg : L.wdg = true := by first | rfl | assumption) (lEvr : L.evr = true := by first | rfl | assumption) (lTrc : L.trc = true := by first | rfl | assumption) : Keep L o₀ (State.inputFrame s t p) := by
  unfold State.inputFrame
  repeat' (first
    | with_reducible assumption
    | with_reducible apply State.rxErr_keep
    | with_reducible apply State.stationReport_keep
    | with_reducible apply State.netCause_keep
    | with_reducible apply State.countSuperseded_keep
    | with_reducible apply State.upSlot_keep
    | with_reducible apply Keep.ite
    | (extract_lets +onlyGivenNames y; (first | ((have hy : Keep L o₀ y := (by unfold y; repeat' (first | with_reducible assumption | with_reducible apply State.rxErr_keep | with_reducible apply State.stationReport_keep | with_reducible apply State.netCause_keep | with_reducible apply State.countSuperseded_keep | with_reducible apply State.upSlot_keep | with_reducible apply Keep.ite | extract_lets | split))); clear_value y) | clear_value y | skip))
    | split)

theorem State.spendFrames_keep {o₀ s : State} (hK : Keep L o₀ s) (i : Nat) (lNet : L.net = true := by first | rfl | assumption) : Keep L o₀ (State.spendFrames s i) := by
  unfold State.spendFrames
  repeat' (first
    | with_reducible assumption
    | with_reducible apply State.upSlot_keep
    | with_reducible apply Keep.upNet
    | with_reducible apply Keep.ite
    | (extract_lets +onlyGivenNames y; (first | ((have hy : Keep L o₀ y := (by unfold y; repeat' (first | with_reducible assumption | with_reducible apply State.upSlot_keep | with_reducible apply Keep.upNet | with_reducible apply Keep.ite | extract_lets | split))); clear_value y) | clear_value y | skip))
    | split)

theorem State.useFrame_keep {o₀ s : State} (hK : Keep L o₀ s) (i : Nat) (t0 : Nat) (p : List Byte) (many : Bool) (lSto : L.sto = true := by first | rfl | assumption) (lNet : L.net = true := by first | rfl | assumption) (lTrc : L.trc = true := by first | rfl | assumption) : Keep L o₀ (State.useFrame s i t0 p many) := by
  unfold State.useFrame
  repeat' (first
    | with_reducible assumption
    | with_reducible apply State.upSlot_keep
    | with_reducible apply Keep.upTrc
    | with_reducible refine Keep.upSto ?_ (fun xk => ?_)
    | with_reducible exact xk
    | (with_reducible refine Store.wf.mk ?_ ?_ ?_ ?_ ?_ <;> try dsimp only)
    | with_reducible exact xk.program
    | with_reducible exact xk.lmem
    | with_reducible exact xk.durable
    | with_reducible exact xk.inView
    | with_reducible exact xk.launched
    | with_reducible apply memPut_wf
    | with_reducible apply ov_apply_wf
    | with_reducible apply memWrite_wf
    | with_reducible apply memClear_wf
    | with_reducible apply memRange_wf
    | with_reducible apply mem_nil_wf
    | with_reducible apply memOf_wf
    | with_reducible apply Keep.ite
    | (extract_lets +onlyGivenNames y; (first | ((have hy : Keep L o₀ y := (by unfold y; repeat' (first | with_reducible assumption | with_reducible apply State.upSlot_keep | with_reducible apply Keep.upTrc | with_reducible refine Keep.upSto ?_ (fun xk => ?_) | with_reducible exact xk | (with_reducible refine Store.wf.mk ?_ ?_ ?_ ?_ ?_ <;> try dsimp only) | with_reducible exact xk.program | with_reducible exact xk.lmem | with_reducible exact xk.durable | with_reducible exact xk.inView | with_reducible exact xk.launched | with_reducible apply memPut_wf | with_reducible apply ov_apply_wf | with_reducible apply memWrite_wf | with_reducible apply memClear_wf | with_reducible apply memRange_wf | with_reducible apply mem_nil_wf | with_reducible apply memOf_wf | with_reducible apply Keep.ite | extract_lets | split))); clear_value y) | clear_value y | skip))
    | split)

theorem State.slotStale_keep {o₀ s : State} (hK : Keep L o₀ s) (i : Nat) (many : Bool) (lSto : L.sto = true := by first | rfl | assumption) (lNet : L.net = true := by first | rfl | assumption) (lEvr : L.evr = true := by first | rfl | assumption) : Keep L o₀ (State.slotStale s i many) := by
  unfold State.slotStale
  repeat' (first
    | with_reducible assumption
    | with_reducible apply State.netCause_keep
    | with_reducible apply State.upSlot_keep
    | with_reducible refine Keep.upSto ?_ (fun xk => ?_)
    | with_reducible exact xk
    | (with_reducible refine Store.wf.mk ?_ ?_ ?_ ?_ ?_ <;> try dsimp only)
    | with_reducible exact xk.program
    | with_reducible exact xk.lmem
    | with_reducible exact xk.durable
    | with_reducible exact xk.inView
    | with_reducible exact xk.launched
    | with_reducible apply memPut_wf
    | with_reducible apply ov_apply_wf
    | with_reducible apply memWrite_wf
    | with_reducible apply memClear_wf
    | with_reducible apply memRange_wf
    | with_reducible apply mem_nil_wf
    | with_reducible apply memOf_wf
    | with_reducible apply Keep.ite
    | (extract_lets +onlyGivenNames y; (first | ((have hy : Keep L o₀ y := (by unfold y; repeat' (first | with_reducible assumption | with_reducible apply State.netCause_keep | with_reducible apply State.upSlot_keep | with_reducible refine Keep.upSto ?_ (fun xk => ?_) | with_reducible exact xk | (with_reducible refine Store.wf.mk ?_ ?_ ?_ ?_ ?_ <;> try dsimp only) | with_reducible exact xk.program | with_reducible exact xk.lmem | with_reducible exact xk.durable | with_reducible exact xk.inView | with_reducible exact xk.launched | with_reducible apply memPut_wf | with_reducible apply ov_apply_wf | with_reducible apply memWrite_wf | with_reducible apply memClear_wf | with_reducible apply memRange_wf | with_reducible apply mem_nil_wf | with_reducible apply memOf_wf | with_reducible apply Keep.ite | extract_lets | split))); clear_value y) | clear_value y | skip))
    | split)

theorem State.latchSlot_keep {o₀ s : State} (hK : Keep L o₀ s) (i : Nat) (lSto : L.sto = true := by first | rfl | assumption) (lNet : L.net = true := by first | rfl | assumption) (lEvr : L.evr = true := by first | rfl | assumption) (lTrc : L.trc = true := by first | rfl | assumption) : Keep L o₀ (State.latchSlot s i).1 := by
  unfold State.latchSlot
  repeat' (first
    | with_reducible assumption
    | with_reducible apply State.spendFrames_keep
    | with_reducible apply State.slotStale_keep
    | with_reducible apply State.useFrame_keep
    | with_reducible apply State.netCause_keep
    | with_reducible apply Keep.ite2
    | with_reducible apply Keep.ite1
    | with_reducible apply Keep.ite
    | (extract_lets +onlyGivenNames y; (first | ((have hy : Keep L o₀ y := (by unfold y; repeat' (first | with_reducible assumption | with_reducible apply State.spendFrames_keep | with_reducible apply State.slotStale_keep | with_reducible apply State.useFrame_keep | with_reducible apply State.netCause_keep | with_reducible apply Keep.ite2 | with_reducible apply Keep.ite1 | with_reducible apply Keep.ite | extract_lets | split))); clear_value y) | ((have hy : Keep L o₀ y.1 := (by unfold y; repeat' (first | with_reducible assumption | with_reducible apply State.spendFrames_keep | with_reducible apply State.slotStale_keep | with_reducible apply State.useFrame_keep | with_reducible apply State.netCause_keep | with_reducible apply Keep.ite2 | with_reducible apply Keep.ite1 | with_reducible apply Keep.ite | extract_lets | split))); clear_value y) | ((have hy : Keep L o₀ y.2 := (by unfold y; repeat' (first | with_reducible assumption | with_reducible apply State.spendFrames_keep | with_reducible apply State.slotStale_keep | with_reducible apply State.useFrame_keep | with_reducible apply State.netCause_keep | with_reducible apply Keep.ite2 | with_reducible apply Keep.ite1 | with_reducible apply Keep.ite | extract_lets | split))); clear_value y) | clear_value y | skip))
    | split)

theorem State.latchStations_keep {o₀ s : State} (hK : Keep L o₀ s) (lSto : L.sto = true := by first | rfl | assumption) (lNet : L.net = true := by first | rfl | assumption) (lEvr : L.evr = true := by first | rfl | assumption) (lTrc : L.trc = true := by first | rfl | assumption) : Keep L o₀ (State.latchStations s).1 := by
  unfold State.latchStations
  repeat' (first
    | with_reducible assumption
    | with_reducible apply State.latchSlot_keep
    | with_reducible apply Keep.upNet
    | with_reducible refine Keep.foldl (fun _ _ _ => ?_) _ ?_
    | with_reducible refine Keep.foldl1 (fun _ _ _ _ => ?_) _ ?_
    | with_reducible refine Keep.foldl2 (fun _ _ _ _ => ?_) _ ?_
    | with_reducible apply Keep.ite2
    | with_reducible apply Keep.ite1
    | with_reducible apply Keep.ite
    | with_reducible refine Keep.of_eq1 ?_ (by assumption)
    | with_reducible refine Keep.of_eq2 ?_ (by assumption)
    | (extract_lets +onlyGivenNames y; (first | ((have hy : Keep L o₀ y := (by unfold y; repeat' (first | with_reducible assumption | with_reducible apply State.latchSlot_keep | with_reducible apply Keep.upNet | with_reducible refine Keep.foldl (fun _ _ _ => ?_) _ ?_ | with_reducible refine Keep.foldl1 (fun _ _ _ _ => ?_) _ ?_ | with_reducible refine Keep.foldl2 (fun _ _ _ _ => ?_) _ ?_ | with_reducible apply Keep.ite2 | with_reducible apply Keep.ite1 | with_reducible apply Keep.ite | with_reducible refine Keep.of_eq1 ?_ (by assumption) | with_reducible refine Keep.of_eq2 ?_ (by assumption) | extract_lets | split))); clear_value y) | ((have hy : Keep L o₀ y.1 := (by unfold y; repeat' (first | with_reducible assumption | with_reducible apply State.latchSlot_keep | with_reducible apply Keep.upNet | with_reducible refine Keep.foldl (fun _ _ _ => ?_) _ ?_ | with_reducible refine Keep.foldl1 (fun _ _ _ _ => ?_) _ ?_ | with_reducible refine Keep.foldl2 (fun _ _ _ _ => ?_) _ ?_ | with_reducible apply Keep.ite2 | with_reducible apply Keep.ite1 | with_reducible apply Keep.ite | with_reducible refine Keep.of_eq1 ?_ (by assumption) | with_reducible refine Keep.of_eq2 ?_ (by assumption) | extract_lets | split))); clear_value y) | ((have hy : Keep L o₀ y.2 := (by unfold y; repeat' (first | with_reducible assumption | with_reducible apply State.latchSlot_keep | with_reducible apply Keep.upNet | with_reducible refine Keep.foldl (fun _ _ _ => ?_) _ ?_ | with_reducible refine Keep.foldl1 (fun _ _ _ _ => ?_) _ ?_ | with_reducible refine Keep.foldl2 (fun _ _ _ _ => ?_) _ ?_ | with_reducible apply Keep.ite2 | with_reducible apply Keep.ite1 | with_reducible apply Keep.ite | with_reducible refine Keep.of_eq1 ?_ (by assumption) | with_reducible refine Keep.of_eq2 ?_ (by assumption) | extract_lets | split))); clear_value y) | clear_value y | skip))
    | split)

theorem State.pruneSent_keep {o₀ s : State} (hK : Keep L o₀ s) (l : Nat) (lNet : L.net = true := by first | rfl | assumption) : Keep L o₀ (State.pruneSent s l) := by
  unfold State.pruneSent
  repeat' (first
    | with_reducible assumption
    | with_reducible apply Keep.upNet
    | with_reducible apply Keep.ite
    | split)

theorem State.statusFrame_keep {o₀ s : State} (hK : Keep L o₀ s) (p : List Byte) (lClk : L.clk = true := by first | rfl | assumption) (lClu : L.clu = true := by first | rfl | assumption) (lSto : L.sto = true := by first | rfl | assumption) (lCsw : L.csw = true := by first | rfl | assumption) (lNet : L.net = true := by first | rfl | assumption) (lCan : L.can = true := by first | rfl | assumption) (lWdg : L.wdg = true := by first | rfl | assumption) (lEvr : L.evr = true := by first | rfl | assumption) (lTrc : L.trc = true := by first | rfl | assumption) : Keep L o₀ (State.statusFrame s p) := by
  unfold State.statusFrame
  repeat' (first
    | with_reducible assumption
    | with_reducible apply State.netCause_keep
    | with_reducible apply State.stationReport_keep
    | with_reducible apply Keep.upNet
    | with_reducible apply Keep.ite
    | (extract_lets +onlyGivenNames y; (first | ((have hy : Keep L o₀ y := (by unfold y; repeat' (first | with_reducible assumption | with_reducible apply State.netCause_keep | with_reducible apply State.stationReport_keep | with_reducible apply Keep.upNet | with_reducible apply Keep.ite | extract_lets | split))); clear_value y) | clear_value y | skip))
    | split)

theorem State.inputSend_keep {o₀ s : State} (hK : Keep L o₀ s) (n : Nat) (lNet : L.net = true := by first | rfl | assumption) (lEvr : L.evr = true := by first | rfl | assumption) : Keep L o₀ (State.inputSend s n) := by
  unfold State.inputSend
  repeat' (first
    | with_reducible assumption
    | with_reducible apply State.queueFrame_keep
    | with_reducible apply Keep.ite
    | (extract_lets +onlyGivenNames y; (first | ((have hy : Keep L o₀ y := (by unfold y; repeat' (first | with_reducible assumption | with_reducible apply State.queueFrame_keep | with_reducible apply Keep.ite | extract_lets | split))); clear_value y) | clear_value y | skip))
    | split)

theorem State.statusSend_keep {o₀ s : State} (hK : Keep L o₀ s) (p : List Byte) (reason : Nat) (lNet : L.net = true := by first | rfl | assumption) (lEvr : L.evr = true := by first | rfl | assumption) : Keep L o₀ (State.statusSend s p reason) := by
  unfold State.statusSend
  repeat' (first
    | with_reducible assumption
    | with_reducible apply State.queueFrame_keep
    | with_reducible apply Keep.ite
    | (extract_lets +onlyGivenNames y; (first | ((have hy : Keep L o₀ y := (by unfold y; repeat' (first | with_reducible assumption | with_reducible apply State.queueFrame_keep | with_reducible apply Keep.ite | extract_lets | split))); clear_value y) | clear_value y | skip))
    | split)

theorem State.applyFrames_keep {o₀ s : State} (hK : Keep L o₀ s) (fs : List (List Byte)) (lSto : L.sto = true := by first | rfl | assumption) (lFio : L.fio = true := by first | rfl | assumption) (lNet : L.net = true := by first | rfl | assumption) : Keep L o₀ (State.applyFrames s fs) := by
  unfold State.applyFrames
  repeat' (first
    | with_reducible assumption
    | with_reducible apply State.launchLocal_keep
    | with_reducible apply State.imageArrives_keep
    | with_reducible apply Keep.upNet
    | with_reducible refine Keep.foldl (fun _ _ _ => ?_) _ ?_
    | with_reducible refine Keep.foldl1 (fun _ _ _ _ => ?_) _ ?_
    | with_reducible refine Keep.foldl2 (fun _ _ _ _ => ?_) _ ?_
    | with_reducible apply Keep.ite
    | (extract_lets +onlyGivenNames y; (first | ((have hy : Keep L o₀ y := (by unfold y; repeat' (first | with_reducible assumption | with_reducible apply State.launchLocal_keep | with_reducible apply State.imageArrives_keep | with_reducible apply Keep.upNet | with_reducible refine Keep.foldl (fun _ _ _ => ?_) _ ?_ | with_reducible refine Keep.foldl1 (fun _ _ _ _ => ?_) _ ?_ | with_reducible refine Keep.foldl2 (fun _ _ _ _ => ?_) _ ?_ | with_reducible apply Keep.ite | extract_lets | split))); clear_value y) | ((have hy : Keep L o₀ y.1 := (by unfold y; repeat' (first | with_reducible assumption | with_reducible apply State.launchLocal_keep | with_reducible apply State.imageArrives_keep | with_reducible apply Keep.upNet | with_reducible refine Keep.foldl (fun _ _ _ => ?_) _ ?_ | with_reducible refine Keep.foldl1 (fun _ _ _ _ => ?_) _ ?_ | with_reducible refine Keep.foldl2 (fun _ _ _ _ => ?_) _ ?_ | with_reducible apply Keep.ite | extract_lets | split))); clear_value y) | ((have hy : Keep L o₀ y.2 := (by unfold y; repeat' (first | with_reducible assumption | with_reducible apply State.launchLocal_keep | with_reducible apply State.imageArrives_keep | with_reducible apply Keep.upNet | with_reducible refine Keep.foldl (fun _ _ _ => ?_) _ ?_ | with_reducible refine Keep.foldl1 (fun _ _ _ _ => ?_) _ ?_ | with_reducible refine Keep.foldl2 (fun _ _ _ _ => ?_) _ ?_ | with_reducible apply Keep.ite | extract_lets | split))); clear_value y) | clear_value y | skip))
    | split)

theorem State.applyDue_keep {o₀ s : State} (hK : Keep L o₀ s) (l : Nat) (lSto : L.sto = true := by first | rfl | assumption) (lFio : L.fio = true := by first | rfl | assumption) (lNet : L.net = true := by first | rfl | assumption) : Keep L o₀ (State.applyDue s l) := by
  unfold State.applyDue
  repeat' (first
    | with_reducible assumption
    | with_reducible apply State.applyFrames_keep
    | with_reducible apply Keep.upNet
    | with_reducible apply Keep.ite
    | (extract_lets +onlyGivenNames y; (first | ((have hy : Keep L o₀ y := (by unfold y; repeat' (first | with_reducible assumption | with_reducible apply State.applyFrames_keep | with_reducible apply Keep.upNet | with_reducible apply Keep.ite | extract_lets | split))); clear_value y) | clear_value y | skip))
    | split)

theorem State.stationCheck_keep {o₀ s : State} (hK : Keep L o₀ s) (t : Nat) (p : List Byte) (lSto : L.sto = true := by first | rfl | assumption) (lFio : L.fio = true := by first | rfl | assumption) (lNet : L.net = true := by first | rfl | assumption) (lEvr : L.evr = true := by first | rfl | assumption) : Keep L o₀ (State.stationCheck s t p) := by
  unfold State.stationCheck
  repeat' (first
    | with_reducible assumption
    | with_reducible apply State.rxErr_keep
    | with_reducible apply State.netCause_keep
    | with_reducible apply State.statusSend_keep
    | with_reducible apply State.applyFrames_keep
    | with_reducible apply Keep.upNet
    | with_reducible apply Keep.ite
    | (extract_lets +onlyGivenNames y; (first | ((have hy : Keep L o₀ y := (by unfold y; repeat' (first | with_reducible assumption | with_reducible apply State.rxErr_keep | with_reducible apply State.netCause_keep | with_reducible apply State.statusSend_keep | with_reducible apply State.applyFrames_keep | with_reducible apply Keep.upNet | with_reducible apply Keep.ite | extract_lets | split))); clear_value y) | clear_value y | skip))
    | split)

theorem State.nodeClash_keep {o₀ s : State} (hK : Keep L o₀ s) (mac : List Byte) (p : List Byte) (lNet : L.net = true := by first | rfl | assumption) (lEvr : L.evr = true := by first | rfl | assumption) : Keep L o₀ (State.nodeClash s mac p) := by
  unfold State.nodeClash
  repeat' (first
    | with_reducible assumption
    | with_reducible apply State.occurSev_keep
    | with_reducible apply Keep.upNet
    | with_reducible apply Keep.ite
    | split)

theorem State.stationFrame_keep {o₀ s : State} (hK : Keep L o₀ s) (t : Nat) (p : List Byte) (lClk : L.clk = true := by first | rfl | assumption) (lClu : L.clu = true := by first | rfl | assumption) (lSto : L.sto = true := by first | rfl | assumption) (lCsw : L.csw = true := by first | rfl | assumption) (lFio : L.fio = true := by first | rfl | assumption) (lNet : L.net = true := by first | rfl | assumption) (lCan : L.can = true := by first | rfl | assumption) (lWdg : L.wdg = true := by first | rfl | assumption) (lEvr : L.evr = true := by first | rfl | assumption) (lTrc : L.trc = true := by first | rfl | assumption) : Keep L o₀ (State.stationFrame s t p) := by
  unfold State.stationFrame
  repeat' (first
    | with_reducible assumption
    | with_reducible apply State.stationCheck_keep
    | with_reducible apply State.inputFrame_keep
    | with_reducible apply State.statusFrame_keep
    | with_reducible apply Keep.ite
    | split)

theorem State.ethArrives_keep {o₀ s : State} (hK : Keep L o₀ s) (port : Nat) (t : Nat) (f : List Byte) (lClk : L.clk = true := by first | rfl | assumption) (lClu : L.clu = true := by first | rfl | assumption) (lSto : L.sto = true := by first | rfl | assumption) (lCsw : L.csw = true := by first | rfl | assumption) (lFio : L.fio = true := by first | rfl | assumption) (lNet : L.net = true := by first | rfl | assumption) (lCan : L.can = true := by first | rfl | assumption) (lWdg : L.wdg = true := by first | rfl | assumption) (lEvr : L.evr = true := by first | rfl | assumption) (lTrc : L.trc = true := by first | rfl | assumption) : Keep L o₀ (State.ethArrives s port t f) := by
  unfold State.ethArrives
  repeat' (first
    | with_reducible assumption
    | with_reducible apply State.reach_keep
    | with_reducible apply State.prpSeen_keep
    | with_reducible apply State.rxErr_keep
    | with_reducible apply State.nodeClash_keep
    | with_reducible apply State.stationFrame_keep
    | with_reducible apply State.netCause_keep
    | with_reducible apply Keep.ite
    | with_reducible refine Keep.of_eq1 ?_ (by assumption)
    | with_reducible refine Keep.of_eq2 ?_ (by assumption)
    | (extract_lets +onlyGivenNames y; (first | ((have hy : Keep L o₀ y := (by unfold y; repeat' (first | with_reducible assumption | with_reducible apply State.reach_keep | with_reducible apply State.prpSeen_keep | with_reducible apply State.rxErr_keep | with_reducible apply State.nodeClash_keep | with_reducible apply State.stationFrame_keep | with_reducible apply State.netCause_keep | with_reducible apply Keep.ite | with_reducible refine Keep.of_eq1 ?_ (by assumption) | with_reducible refine Keep.of_eq2 ?_ (by assumption) | extract_lets | split))); clear_value y) | ((have hy : Keep L o₀ y.1 := (by unfold y; repeat' (first | with_reducible assumption | with_reducible apply State.reach_keep | with_reducible apply State.prpSeen_keep | with_reducible apply State.rxErr_keep | with_reducible apply State.nodeClash_keep | with_reducible apply State.stationFrame_keep | with_reducible apply State.netCause_keep | with_reducible apply Keep.ite | with_reducible refine Keep.of_eq1 ?_ (by assumption) | with_reducible refine Keep.of_eq2 ?_ (by assumption) | extract_lets | split))); clear_value y) | ((have hy : Keep L o₀ y.2 := (by unfold y; repeat' (first | with_reducible assumption | with_reducible apply State.reach_keep | with_reducible apply State.prpSeen_keep | with_reducible apply State.rxErr_keep | with_reducible apply State.nodeClash_keep | with_reducible apply State.stationFrame_keep | with_reducible apply State.netCause_keep | with_reducible apply Keep.ite | with_reducible refine Keep.of_eq1 ?_ (by assumption) | with_reducible refine Keep.of_eq2 ?_ (by assumption) | extract_lets | split))); clear_value y) | clear_value y | skip))
    | split)

theorem State.netCounter_keep {o₀ s : State} (hK : Keep L o₀ s) (v : Nat) (k : Net → Net) (lNet : L.net = true := by first | rfl | assumption) : Keep L o₀ (State.netCounter s v k).2 := by
  unfold State.netCounter
  repeat' (first
    | with_reducible assumption
    | with_reducible apply Keep.upNet
    | with_reducible apply Keep.ite2
    | with_reducible apply Keep.ite1
    | with_reducible apply Keep.ite
    | split)

theorem State.netRead_keep {o₀ s : State} (hK : Keep L o₀ s) (off : Nat) (lNet : L.net = true := by first | rfl | assumption) : Keep L o₀ (State.netRead s off).2 := by
  unfold State.netRead
  repeat' (first
    | with_reducible assumption
    | with_reducible apply State.netCounter_keep
    | with_reducible apply State.rxErr_keep
    | with_reducible apply Keep.ite2
    | with_reducible apply Keep.ite1
    | with_reducible apply Keep.ite
    | with_reducible refine Keep.of_eq1 ?_ (by assumption)
    | with_reducible refine Keep.of_eq2 ?_ (by assumption)
    | (extract_lets +onlyGivenNames y; (first | ((have hy : Keep L o₀ y := (by unfold y; repeat' (first | with_reducible assumption | with_reducible apply State.netCounter_keep | with_reducible apply State.rxErr_keep | with_reducible apply Keep.ite2 | with_reducible apply Keep.ite1 | with_reducible apply Keep.ite | with_reducible refine Keep.of_eq1 ?_ (by assumption) | with_reducible refine Keep.of_eq2 ?_ (by assumption) | extract_lets | split))); clear_value y) | ((have hy : Keep L o₀ y.1 := (by unfold y; repeat' (first | with_reducible assumption | with_reducible apply State.netCounter_keep | with_reducible apply State.rxErr_keep | with_reducible apply Keep.ite2 | with_reducible apply Keep.ite1 | with_reducible apply Keep.ite | with_reducible refine Keep.of_eq1 ?_ (by assumption) | with_reducible refine Keep.of_eq2 ?_ (by assumption) | extract_lets | split))); clear_value y) | ((have hy : Keep L o₀ y.2 := (by unfold y; repeat' (first | with_reducible assumption | with_reducible apply State.netCounter_keep | with_reducible apply State.rxErr_keep | with_reducible apply Keep.ite2 | with_reducible apply Keep.ite1 | with_reducible apply Keep.ite | with_reducible refine Keep.of_eq1 ?_ (by assumption) | with_reducible refine Keep.of_eq2 ?_ (by assumption) | extract_lets | split))); clear_value y) | clear_value y | skip))
    | split)

theorem State.netWrite_keep {o₀ s : State} (hK : Keep L o₀ s) (off : Nat) (v : Word) (lNet : L.net = true := by first | rfl | assumption) : WriteAns.Kept L o₀ (State.netWrite s off v) := by
  unfold State.netWrite
  repeat' (first
    | with_reducible assumption
    | with_reducible apply refused_kept
    | with_reducible apply refusedIn_kept
    | with_reducible apply done_kept
    | with_reducible apply needPriv_kept
    | with_reducible apply needOpen_kept
    | with_reducible apply needLegal_kept
    | with_reducible apply Keep.upNet
    | with_reducible apply ite_kept
    | with_reducible apply Keep.ite
    | split)

theorem execEthLinkChange_keep {s s₂ : State} (port : Nat) (up : Bool) (hx : execEthLinkChange port up s = .next s₂) (lNet : L.net = true := by first | rfl | assumption) (lEvr : L.evr = true := by first | rfl | assumption) : Keep L s s₂ := by
  unfold execEthLinkChange at hx
  with_reducible refine Keep.commit ?_ hx
  clear hx
  have hK := Keep.refl (L := L) s
  repeat' (first
    | with_reducible assumption
    | with_reducible apply State.netCause_keep
    | with_reducible apply State.prpCheck_keep
    | with_reducible apply State.drain_keep
    | with_reducible apply Keep.upNet
    | with_reducible apply Keep.ite
    | (extract_lets +onlyGivenNames y; (first | ((have hy : Keep L s y := (by unfold y; repeat' (first | with_reducible assumption | with_reducible apply State.netCause_keep | with_reducible apply State.prpCheck_keep | with_reducible apply State.drain_keep | with_reducible apply Keep.upNet | with_reducible apply Keep.ite | extract_lets | split))); clear_value y) | clear_value y | skip))
    | split)

theorem execPrpSupervisionSend_keep {s s₂ : State} (pair : Nat) (hx : execPrpSupervisionSend pair s = .next s₂) (lNet : L.net = true := by first | rfl | assumption) : Keep L s s₂ := by
  unfold execPrpSupervisionSend at hx
  with_reducible refine Keep.commit ?_ hx
  clear hx
  have hK := Keep.refl (L := L) s
  repeat' (first
    | with_reducible assumption
    | with_reducible apply State.send_keep
    | with_reducible refine Keep.foldl (fun _ _ _ => ?_) _ ?_
    | with_reducible refine Keep.foldl1 (fun _ _ _ _ => ?_) _ ?_
    | with_reducible refine Keep.foldl2 (fun _ _ _ _ => ?_) _ ?_
    | with_reducible apply Keep.ite
    | split)

theorem execPtpMessageReceive_keep {s s₂ : State} (port : Nat) (t : Nat) (domain : Nat) (udp : Bool) (msg : PtpMsg) (hx : execPtpMessageReceive port t domain udp msg s = .next s₂) (lClk : L.clk = true := by first | rfl | assumption) (lNet : L.net = true := by first | rfl | assumption) (lEvr : L.evr = true := by first | rfl | assumption) : Keep L s s₂ := by
  unfold execPtpMessageReceive at hx
  with_reducible refine Keep.commit ?_ hx
  clear hx
  have hK := Keep.refl (L := L) s
  repeat' (first
    | with_reducible assumption
    | with_reducible apply State.reach_keep
    | with_reducible apply State.ptpMessage_keep
    | with_reducible apply Keep.ite
    | (extract_lets +onlyGivenNames y; (first | ((have hy : Keep L s y := (by unfold y; repeat' (first | with_reducible assumption | with_reducible apply State.reach_keep | with_reducible apply State.ptpMessage_keep | with_reducible apply Keep.ite | extract_lets | split))); clear_value y) | clear_value y | skip))
    | split)

theorem execAnnounceReceiptTimeout_keep {s s₂ : State} (t : Nat) (hx : execAnnounceReceiptTimeout t s = .next s₂) (lClk : L.clk = true := by first | rfl | assumption) (lNet : L.net = true := by first | rfl | assumption) (lEvr : L.evr = true := by first | rfl | assumption) : Keep L s s₂ := by
  unfold execAnnounceReceiptTimeout at hx
  with_reducible refine Keep.commit ?_ hx
  clear hx
  have hK := Keep.refl (L := L) s
  repeat' (first
    | with_reducible assumption
    | with_reducible apply State.reach_keep
    | with_reducible apply State.loseLock_keep
    | with_reducible apply Keep.upClk
    | with_reducible apply Keep.ite
    | (extract_lets +onlyGivenNames y; (first | ((have hy : Keep L s y := (by unfold y; repeat' (first | with_reducible assumption | with_reducible apply State.reach_keep | with_reducible apply State.loseLock_keep | with_reducible apply Keep.upClk | with_reducible apply Keep.ite | extract_lets | split))); clear_value y) | clear_value y | skip))
    | split)

theorem execPtpSyncSend_keep {s s₂ : State} (port : Nat) (t : Nat) (hx : execPtpSyncSend port t s = .next s₂) (lClk : L.clk = true := by first | rfl | assumption) (lNet : L.net = true := by first | rfl | assumption) : Keep L s s₂ := by
  unfold execPtpSyncSend at hx
  with_reducible refine Keep.commit ?_ hx
  clear hx
  have hK := Keep.refl (L := L) s
  repeat' (first
    | with_reducible assumption
    | with_reducible apply State.reach_keep
    | with_reducible apply State.sendPtp_keep
    | with_reducible apply Keep.ite
    | (extract_lets +onlyGivenNames y; (first | ((have hy : Keep L s y := (by unfold y; repeat' (first | with_reducible assumption | with_reducible apply State.reach_keep | with_reducible apply State.sendPtp_keep | with_reducible apply Keep.ite | extract_lets | split))); clear_value y) | clear_value y | skip))
    | split)

theorem execPtpAnnounceSend_keep {s s₂ : State} (port : Nat) (hx : execPtpAnnounceSend port s = .next s₂) (lNet : L.net = true := by first | rfl | assumption) : Keep L s s₂ := by
  unfold execPtpAnnounceSend at hx
  with_reducible refine Keep.commit ?_ hx
  clear hx
  have hK := Keep.refl (L := L) s
  repeat' (first
    | with_reducible assumption
    | with_reducible apply State.sendPtp_keep
    | with_reducible apply Keep.ite
    | split)

theorem execPtpDelayRequestSend_keep {s s₂ : State} (port : Nat) (hx : execPtpDelayRequestSend port s = .next s₂) (lNet : L.net = true := by first | rfl | assumption) : Keep L s s₂ := by
  unfold execPtpDelayRequestSend at hx
  with_reducible refine Keep.commit ?_ hx
  clear hx
  have hK := Keep.refl (L := L) s
  repeat' (first
    | with_reducible assumption
    | with_reducible apply State.sendPtp_keep
    | with_reducible apply Keep.ite
    | split)

theorem execPpsInEdge_keep {s s₂ : State} (offset : Int) (hx : execPpsInEdge offset s = .next s₂) (lClk : L.clk = true := by first | rfl | assumption) : Keep L s s₂ := by
  unfold execPpsInEdge at hx
  with_reducible refine Keep.commit ?_ hx
  clear hx
  have hK := Keep.refl (L := L) s
  repeat' (first
    | with_reducible assumption
    | with_reducible apply Keep.upClk
    | with_reducible apply Keep.ite
    | split)

theorem execPpsOutPulse_keep {s s₂ : State} (hx : execPpsOutPulse s = .next s₂) (lClk : L.clk = true := by first | rfl | assumption) : Keep L s s₂ := by
  unfold execPpsOutPulse at hx
  with_reducible refine Keep.commit ?_ hx
  clear hx
  have hK := Keep.refl (L := L) s
  repeat' (first
    | with_reducible assumption
    | with_reducible apply Keep.upClk
    | with_reducible apply Keep.ite
    | split)

theorem execRefLost_keep {s s₂ : State} (hx : execRefLost s = .next s₂) (lClk : L.clk = true := by first | rfl | assumption) (lEvr : L.evr = true := by first | rfl | assumption) : Keep L s s₂ := by
  unfold execRefLost at hx
  with_reducible refine Keep.commit ?_ hx
  clear hx
  have hK := Keep.refl (L := L) s
  repeat' (first
    | with_reducible assumption
    | with_reducible apply State.occur_keep
    | with_reducible apply Keep.upClk
    | with_reducible apply Keep.ite
    | split)

theorem execStationInputSend_keep {s s₂ : State} (t : Nat) (hx : execStationInputSend t s = .next s₂) (lClk : L.clk = true := by first | rfl | assumption) (lNet : L.net = true := by first | rfl | assumption) (lEvr : L.evr = true := by first | rfl | assumption) : Keep L s s₂ := by
  unfold execStationInputSend at hx
  with_reducible refine Keep.commit ?_ hx
  clear hx
  have hK := Keep.refl (L := L) s
  repeat' (first
    | with_reducible assumption
    | with_reducible apply State.reach_keep
    | with_reducible apply State.firstDue_keep
    | with_reducible apply State.inputSend_keep
    | with_reducible apply Keep.ite
    | (extract_lets +onlyGivenNames y; (first | ((have hy : Keep L s y := (by unfold y; repeat' (first | with_reducible assumption | with_reducible apply State.reach_keep | with_reducible apply State.firstDue_keep | with_reducible apply State.inputSend_keep | with_reducible apply Keep.ite | extract_lets | split))); clear_value y) | clear_value y | skip))
    | split)

theorem execStationInputReceive_keep {s s₂ : State} (port : Nat) (t : Nat) (frame : List Byte) (hx : execStationInputReceive port t frame s = .next s₂) (lClk : L.clk = true := by first | rfl | assumption) (lClu : L.clu = true := by first | rfl | assumption) (lSto : L.sto = true := by first | rfl | assumption) (lCsw : L.csw = true := by first | rfl | assumption) (lFio : L.fio = true := by first | rfl | assumption) (lNet : L.net = true := by first | rfl | assumption) (lCan : L.can = true := by first | rfl | assumption) (lWdg : L.wdg = true := by first | rfl | assumption) (lEvr : L.evr = true := by first | rfl | assumption) (lTrc : L.trc = true := by first | rfl | assumption) : Keep L s s₂ := by
  unfold execStationInputReceive at hx
  with_reducible refine Keep.commit ?_ hx
  clear hx
  have hK := Keep.refl (L := L) s
  repeat' (first
    | with_reducible assumption
    | with_reducible apply State.ethArrives_keep
    | with_reducible apply Keep.ite
    | split)

theorem execOutputFrameReceive_keep {s s₂ : State} (port : Nat) (t : Nat) (frame : List Byte) (hx : execOutputFrameReceive port t frame s = .next s₂) (lClk : L.clk = true := by first | rfl | assumption) (lClu : L.clu = true := by first | rfl | assumption) (lSto : L.sto = true := by first | rfl | assumption) (lCsw : L.csw = true := by first | rfl | assumption) (lFio : L.fio = true := by first | rfl | assumption) (lNet : L.net = true := by first | rfl | assumption) (lCan : L.can = true := by first | rfl | assumption) (lWdg : L.wdg = true := by first | rfl | assumption) (lEvr : L.evr = true := by first | rfl | assumption) (lTrc : L.trc = true := by first | rfl | assumption) : Keep L s s₂ := by
  unfold execOutputFrameReceive at hx
  with_reducible refine Keep.commit ?_ hx
  clear hx
  have hK := Keep.refl (L := L) s
  repeat' (first
    | with_reducible assumption
    | with_reducible apply State.ethArrives_keep
    | with_reducible apply Keep.ite
    | split)

theorem execTermClaimReceive_keep {s s₂ : State} (port : Nat) (t : Nat) (frame : List Byte) (hx : execTermClaimReceive port t frame s = .next s₂) (lClk : L.clk = true := by first | rfl | assumption) (lClu : L.clu = true := by first | rfl | assumption) (lSto : L.sto = true := by first | rfl | assumption) (lCsw : L.csw = true := by first | rfl | assumption) (lFio : L.fio = true := by first | rfl | assumption) (lNet : L.net = true := by first | rfl | assumption) (lCan : L.can = true := by first | rfl | assumption) (lWdg : L.wdg = true := by first | rfl | assumption) (lEvr : L.evr = true := by first | rfl | assumption) (lTrc : L.trc = true := by first | rfl | assumption) : Keep L s s₂ := by
  unfold execTermClaimReceive at hx
  with_reducible refine Keep.commit ?_ hx
  clear hx
  have hK := Keep.refl (L := L) s
  repeat' (first
    | with_reducible assumption
    | with_reducible apply State.ethArrives_keep
    | with_reducible apply Keep.ite
    | split)

theorem execStatusReceive_keep {s s₂ : State} (port : Nat) (t : Nat) (frame : List Byte) (hx : execStatusReceive port t frame s = .next s₂) (lClk : L.clk = true := by first | rfl | assumption) (lClu : L.clu = true := by first | rfl | assumption) (lSto : L.sto = true := by first | rfl | assumption) (lCsw : L.csw = true := by first | rfl | assumption) (lFio : L.fio = true := by first | rfl | assumption) (lNet : L.net = true := by first | rfl | assumption) (lCan : L.can = true := by first | rfl | assumption) (lWdg : L.wdg = true := by first | rfl | assumption) (lEvr : L.evr = true := by first | rfl | assumption) (lTrc : L.trc = true := by first | rfl | assumption) : Keep L s s₂ := by
  unfold execStatusReceive at hx
  with_reducible refine Keep.commit ?_ hx
  clear hx
  have hK := Keep.refl (L := L) s
  repeat' (first
    | with_reducible assumption
    | with_reducible apply State.ethArrives_keep
    | with_reducible apply Keep.ite
    | split)

theorem execKeepAliveSend_keep {s s₂ : State} (t : Nat) (hx : execKeepAliveSend t s = .next s₂) (lClk : L.clk = true := by first | rfl | assumption) (lNet : L.net = true := by first | rfl | assumption) (lEvr : L.evr = true := by first | rfl | assumption) : Keep L s s₂ := by
  unfold execKeepAliveSend at hx
  with_reducible refine Keep.commit ?_ hx
  clear hx
  have hK := Keep.refl (L := L) s
  repeat' (first
    | with_reducible assumption
    | with_reducible apply State.reach_keep
    | with_reducible apply State.firstDue_keep
    | with_reducible apply State.keepAlives_keep
    | with_reducible apply Keep.ite
    | (extract_lets +onlyGivenNames y; (first | ((have hy : Keep L s y := (by unfold y; repeat' (first | with_reducible assumption | with_reducible apply State.reach_keep | with_reducible apply State.firstDue_keep | with_reducible apply State.keepAlives_keep | with_reducible apply Keep.ite | extract_lets | split))); clear_value y) | clear_value y | skip))
    | split)

theorem execWarmStartFrames_keep {s s₂ : State} (t : Nat) (hx : execWarmStartFrames t s = .next s₂) (lClk : L.clk = true := by first | rfl | assumption) (lNet : L.net = true := by first | rfl | assumption) (lEvr : L.evr = true := by first | rfl | assumption) : Keep L s s₂ := by
  unfold execWarmStartFrames at hx
  with_reducible refine Keep.commit ?_ hx
  clear hx
  have hK := Keep.refl (L := L) s
  repeat' (first
    | with_reducible assumption
    | with_reducible apply State.reach_keep
    | with_reducible apply State.firstDue_keep
    | with_reducible apply State.queueOutput_keep
    | with_reducible refine Keep.foldl (fun _ _ _ => ?_) _ ?_
    | with_reducible refine Keep.foldl1 (fun _ _ _ _ => ?_) _ ?_
    | with_reducible refine Keep.foldl2 (fun _ _ _ _ => ?_) _ ?_
    | with_reducible apply Keep.ite
    | (extract_lets +onlyGivenNames y; (first | ((have hy : Keep L s y := (by unfold y; repeat' (first | with_reducible assumption | with_reducible apply State.reach_keep | with_reducible apply State.firstDue_keep | with_reducible apply State.queueOutput_keep | with_reducible refine Keep.foldl (fun _ _ _ => ?_) _ ?_ | with_reducible refine Keep.foldl1 (fun _ _ _ _ => ?_) _ ?_ | with_reducible refine Keep.foldl2 (fun _ _ _ _ => ?_) _ ?_ | with_reducible apply Keep.ite | extract_lets | split))); clear_value y) | ((have hy : Keep L s y.1 := (by unfold y; repeat' (first | with_reducible assumption | with_reducible apply State.reach_keep | with_reducible apply State.firstDue_keep | with_reducible apply State.queueOutput_keep | with_reducible refine Keep.foldl (fun _ _ _ => ?_) _ ?_ | with_reducible refine Keep.foldl1 (fun _ _ _ _ => ?_) _ ?_ | with_reducible refine Keep.foldl2 (fun _ _ _ _ => ?_) _ ?_ | with_reducible apply Keep.ite | extract_lets | split))); clear_value y) | ((have hy : Keep L s y.2 := (by unfold y; repeat' (first | with_reducible assumption | with_reducible apply State.reach_keep | with_reducible apply State.firstDue_keep | with_reducible apply State.queueOutput_keep | with_reducible refine Keep.foldl (fun _ _ _ => ?_) _ ?_ | with_reducible refine Keep.foldl1 (fun _ _ _ _ => ?_) _ ?_ | with_reducible refine Keep.foldl2 (fun _ _ _ _ => ?_) _ ?_ | with_reducible apply Keep.ite | extract_lets | split))); clear_value y) | clear_value y | skip))
    | split)

theorem execAckWaitExpiry_keep {s s₂ : State} (t : Nat) (hx : execAckWaitExpiry t s = .next s₂) (lClk : L.clk = true := by first | rfl | assumption) (lNet : L.net = true := by first | rfl | assumption) (lEvr : L.evr = true := by first | rfl | assumption) : Keep L s s₂ := by
  unfold execAckWaitExpiry at hx
  with_reducible refine Keep.commit ?_ hx
  clear hx
  have hK := Keep.refl (L := L) s
  repeat' (first
    | with_reducible assumption
    | with_reducible apply State.reach_keep
    | with_reducible apply State.queueFrame_keep
    | with_reducible apply Keep.upNet
    | with_reducible refine Keep.foldl (fun _ _ _ => ?_) _ ?_
    | with_reducible refine Keep.foldl1 (fun _ _ _ _ => ?_) _ ?_
    | with_reducible refine Keep.foldl2 (fun _ _ _ _ => ?_) _ ?_
    | with_reducible apply Keep.ite
    | (extract_lets +onlyGivenNames y; (first | ((have hy : Keep L s y := (by unfold y; repeat' (first | with_reducible assumption | with_reducible apply State.reach_keep | with_reducible apply State.queueFrame_keep | with_reducible apply Keep.upNet | with_reducible refine Keep.foldl (fun _ _ _ => ?_) _ ?_ | with_reducible refine Keep.foldl1 (fun _ _ _ _ => ?_) _ ?_ | with_reducible refine Keep.foldl2 (fun _ _ _ _ => ?_) _ ?_ | with_reducible apply Keep.ite | extract_lets | split))); clear_value y) | ((have hy : Keep L s y.1 := (by unfold y; repeat' (first | with_reducible assumption | with_reducible apply State.reach_keep | with_reducible apply State.queueFrame_keep | with_reducible apply Keep.upNet | with_reducible refine Keep.foldl (fun _ _ _ => ?_) _ ?_ | with_reducible refine Keep.foldl1 (fun _ _ _ _ => ?_) _ ?_ | with_reducible refine Keep.foldl2 (fun _ _ _ _ => ?_) _ ?_ | with_reducible apply Keep.ite | extract_lets | split))); clear_value y) | ((have hy : Keep L s y.2 := (by unfold y; repeat' (first | with_reducible assumption | with_reducible apply State.reach_keep | with_reducible apply State.queueFrame_keep | with_reducible apply Keep.upNet | with_reducible refine Keep.foldl (fun _ _ _ => ?_) _ ?_ | with_reducible refine Keep.foldl1 (fun _ _ _ _ => ?_) _ ?_ | with_reducible refine Keep.foldl2 (fun _ _ _ _ => ?_) _ ?_ | with_reducible apply Keep.ite | extract_lets | split))); clear_value y) | clear_value y | skip))
    | split)

theorem execTxLateDrop_keep {s s₂ : State} (t : Nat) (hx : execTxLateDrop t s = .next s₂) (lClk : L.clk = true := by first | rfl | assumption) (lNet : L.net = true := by first | rfl | assumption) (lEvr : L.evr = true := by first | rfl | assumption) : Keep L s s₂ := by
  unfold execTxLateDrop at hx
  with_reducible refine Keep.commit ?_ hx
  clear hx
  have hK := Keep.refl (L := L) s
  repeat' (first
    | with_reducible assumption
    | with_reducible apply State.reach_keep
    | with_reducible apply State.dropLate_keep
    | with_reducible apply Keep.ite
    | (extract_lets +onlyGivenNames y; (first | ((have hy : Keep L s y := (by unfold y; repeat' (first | with_reducible assumption | with_reducible apply State.reach_keep | with_reducible apply State.dropLate_keep | with_reducible apply Keep.ite | extract_lets | split))); clear_value y) | clear_value y | skip))
    | split)

theorem execReadmitAck_keep {s s₂ : State} (slot : Nat) (t : Nat) (hx : execReadmitAck slot t s = .next s₂) (lClk : L.clk = true := by first | rfl | assumption) (lNet : L.net = true := by first | rfl | assumption) : Keep L s s₂ := by
  unfold execReadmitAck at hx
  with_reducible refine Keep.commit ?_ hx
  clear hx
  have hK := Keep.refl (L := L) s
  repeat' (first
    | with_reducible assumption
    | with_reducible apply State.reach_keep
    | with_reducible apply State.upSlot_keep
    | with_reducible apply Keep.ite
    | (extract_lets +onlyGivenNames y; (first | ((have hy : Keep L s y := (by unfold y; repeat' (first | with_reducible assumption | with_reducible apply State.reach_keep | with_reducible apply State.upSlot_keep | with_reducible apply Keep.ite | extract_lets | split))); clear_value y) | clear_value y | skip))
    | split)

theorem execArpIcmpEchoRequest_keep {s s₂ : State} (port : Nat) (frame : List Byte) (hx : execArpIcmpEchoRequest port frame s = .next s₂) (lNet : L.net = true := by first | rfl | assumption) : Keep L s s₂ := by
  unfold execArpIcmpEchoRequest at hx
  with_reducible refine Keep.commit ?_ hx
  clear hx
  have hK := Keep.refl (L := L) s
  repeat' (first
    | with_reducible assumption
    | with_reducible apply State.prpSeen_keep
    | with_reducible apply State.sendPlain_keep
    | with_reducible apply Keep.ite
    | with_reducible refine Keep.of_eq1 ?_ (by assumption)
    | with_reducible refine Keep.of_eq2 ?_ (by assumption)
    | (extract_lets +onlyGivenNames y; (first | ((have hy : Keep L s y := (by unfold y; repeat' (first | with_reducible assumption | with_reducible apply State.prpSeen_keep | with_reducible apply State.sendPlain_keep | with_reducible apply Keep.ite | with_reducible refine Keep.of_eq1 ?_ (by assumption) | with_reducible refine Keep.of_eq2 ?_ (by assumption) | extract_lets | split))); clear_value y) | ((have hy : Keep L s y.1 := (by unfold y; repeat' (first | with_reducible assumption | with_reducible apply State.prpSeen_keep | with_reducible apply State.sendPlain_keep | with_reducible apply Keep.ite | with_reducible refine Keep.of_eq1 ?_ (by assumption) | with_reducible refine Keep.of_eq2 ?_ (by assumption) | extract_lets | split))); clear_value y) | ((have hy : Keep L s y.2 := (by unfold y; repeat' (first | with_reducible assumption | with_reducible apply State.prpSeen_keep | with_reducible apply State.sendPlain_keep | with_reducible apply Keep.ite | with_reducible refine Keep.of_eq1 ?_ (by assumption) | with_reducible refine Keep.of_eq2 ?_ (by assumption) | extract_lets | split))); clear_value y) | clear_value y | skip))
    | split)

end Sys2Proof.Machine
end

