-- ==== Sys2Proof/Laws/KeepBegin.lean ====
section
/-! SUPPORT. What each operation of Machine/Begin.lean keeps (Laws/Keep.lean). -/

set_option Elab.async false
set_option linter.all false

namespace Sys2Proof.Machine

open Sys2Proof

set_option linter.unusedVariables false
set_option linter.tactic.unusedName false

variable {L : Parts}

theorem State.takeTerm_keep {o s t : State} (hK : Keep L o s) (hx : s.takeTerm = some t) (lCsw : L.csw = true := by first | rfl | assumption) (lEvr : L.evr = true := by first | rfl | assumption) : Keep L o t := by
  unfold State.takeTerm at hx
  dsimp only at hx
  split at hx
  · cases hx
  · cases hx
    exact Keep.ite (State.cswCause_keep (hK.upCsw _) _) (hK.upCsw _)

theorem State.govern_keep {o s : State} (hK : Keep L o s) (r : RoleState) (reason gap : Nat) (lClk : L.clk = true := by first | rfl | assumption) (lClu : L.clu = true := by first | rfl | assumption) (lSto : L.sto = true := by first | rfl | assumption) (lCsw : L.csw = true := by first | rfl | assumption) (lNet : L.net = true := by first | rfl | assumption) (lCan : L.can = true := by first | rfl | assumption) (lWdg : L.wdg = true := by first | rfl | assumption) (lEvr : L.evr = true := by first | rfl | assumption) (lTrc : L.trc = true := by first | rfl | assumption) : Keep L o (s.govern r reason gap) := by
  unfold State.govern
  split
  · exact State.enterFailed_keep (State.cswCause_keep hK _) _
  · next s1 hx => exact State.termClaim_keep (State.transition_keep (State.takeTerm_keep hK hx) _ _ _) _

theorem State.laneSetRecord_keep {o₀ s : State} (hK : Keep L o₀ s) (lDict : L.dict = true := by first | rfl | assumption) (lEvr : L.evr = true := by first | rfl | assumption) : Keep L o₀ (State.laneSetRecord s) := by
  unfold State.laneSetRecord
  repeat' (first
    | with_reducible assumption
    | with_reducible apply State.occurSev_keep
    | with_reducible apply State.modeRefuse_keep
    | with_reducible apply Keep.ite
    | (extract_lets +onlyGivenNames y; (first | ((have hy : Keep L o₀ y := (by unfold y; repeat' (first | with_reducible assumption | with_reducible apply State.occurSev_keep | with_reducible apply State.modeRefuse_keep | with_reducible apply Keep.ite | extract_lets | split))); clear_value y) | clear_value y | skip))
    | split)

theorem State.startReport_keep {o₀ s : State} (hK : Keep L o₀ s) (code : Nat) (step : Nat) (detail : Nat) (lPwr : L.pwr = true := by first | rfl | assumption) : Keep L o₀ (State.startReport s code step detail) := by
  unfold State.startReport
  repeat' (first
    | with_reducible assumption
    | with_reducible apply Keep.upPwr
    | with_reducible apply Keep.ite
    | split)

theorem State.stopStart_keep {o₀ s : State} (hK : Keep L o₀ s) (code : Nat) (step : Nat) (detail : Nat) (lSto : L.sto = true := by first | rfl | assumption) (lHost : L.host = true := by first | rfl | assumption) (lEvr : L.evr = true := by first | rfl | assumption) (lPwr : L.pwr = true := by first | rfl | assumption) : Keep L o₀ (State.stopStart s code step detail) := by
  unfold State.stopStart
  repeat' (first
    | with_reducible assumption
    | with_reducible apply State.startReport_keep
    | with_reducible apply State.exeCause_keep
    | with_reducible apply Keep.upPwr
    | with_reducible refine Keep.upSto ?_ (fun xk => ?_)
    | with_reducible exact xk
    | (with_reducible refine Store.wf.mk ?_ ?_ ?_ ?_ ?_ <;> try dsimp only)
    | with_reducible exact xk.program
    | with_reducible exact xk.lmem
    | with_reducible exact xk.durable
    | with_reducible exact xk.inView
    | with_reducible exact xk.launched
    | with_reducible apply memPut_wf
    | with_reducible apply ov_apply_wf
    | with_reducible apply memWrite_wf
    | with_reducible apply memClear_wf
    | with_reducible apply memRange_wf
    | with_reducible apply mem_nil_wf
    | with_reducible apply memOf_wf
    | with_reducible apply Keep.ite
    | (extract_lets +onlyGivenNames y; (first | ((have hy : Keep L o₀ y := (by unfold y; repeat' (first | with_reducible assumption | with_reducible apply State.startReport_keep | with_reducible apply State.exeCause_keep | with_reducible apply Keep.upPwr | with_reducible refine Keep.upSto ?_ (fun xk => ?_) | with_reducible exact xk | (with_reducible refine Store.wf.mk ?_ ?_ ?_ ?_ ?_ <;> try dsimp only) | with_reducible exact xk.program | with_reducible exact xk.lmem | with_reducible exact xk.durable | with_reducible exact xk.inView | with_reducible exact xk.launched | with_reducible apply memPut_wf | with_reducible apply ov_apply_wf | with_reducible apply memWrite_wf | with_reducible apply memClear_wf | with_reducible apply memRange_wf | with_reducible apply mem_nil_wf | with_reducible apply memOf_wf | with_reducible apply Keep.ite | extract_lets | split))); clear_value y) | clear_value y | skip))
    | split)

theorem State.firstState_keep {o₀ s : State} (hK : Keep L o₀ s) (lSto : L.sto = true := by first | rfl | assumption) (lHost : L.host = true := by first | rfl | assumption) (lEvr : L.evr = true := by first | rfl | assumption) (lPwr : L.pwr = true := by first | rfl | assumption) : Keep L o₀ (State.firstState s) := by
  unfold State.firstState
  repeat' (first
    | with_reducible assumption
    | with_reducible apply State.powerCause_keep
    | with_reducible apply Keep.upPwr
    | with_reducible refine Keep.upSto ?_ (fun xk => ?_)
    | with_reducible exact xk
    | (with_reducible refine Store.wf.mk ?_ ?_ ?_ ?_ ?_ <;> try dsimp only)
    | with_reducible exact xk.program
    | with_reducible exact xk.lmem
    | with_reducible exact xk.durable
    | with_reducible exact xk.inView
    | with_reducible exact xk.launched
    | with_reducible apply memPut_wf
    | with_reducible apply ov_apply_wf
    | with_reducible apply memWrite_wf
    | with_reducible apply memClear_wf
    | with_reducible apply memRange_wf
    | with_reducible apply mem_nil_wf
    | with_reducible apply memOf_wf
    | with_reducible apply Keep.ite
    | (extract_lets +onlyGivenNames y; (first | ((have hy : Keep L o₀ y := (by unfold y; repeat' (first | with_reducible assumption | with_reducible apply State.powerCause_keep | with_reducible apply Keep.upPwr | with_reducible refine Keep.upSto ?_ (fun xk => ?_) | with_reducible exact xk | (with_reducible refine Store.wf.mk ?_ ?_ ?_ ?_ ?_ <;> try dsimp only) | with_reducible exact xk.program | with_reducible exact xk.lmem | with_reducible exact xk.durable | with_reducible exact xk.inView | with_reducible exact xk.launched | with_reducible apply memPut_wf | with_reducible apply ov_apply_wf | with_reducible apply memWrite_wf | with_reducible apply memClear_wf | with_reducible apply memRange_wf | with_reducible apply mem_nil_wf | with_reducible apply memOf_wf | with_reducible apply Keep.ite | extract_lets | split))); clear_value y) | clear_value y | skip))
    | split)

theorem State.endPark_keep {o₀ s : State} (hK : Keep L o₀ s) (src : BitVec 6) (lDict : L.dict = true := by first | rfl | assumption) (lHost : L.host = true := by first | rfl | assumption) (lEvr : L.evr = true := by first | rfl | assumption) (lRtc : L.rtc = true := by first | rfl | assumption) (lPwr : L.pwr = true := by first | rfl | assumption) : Keep L o₀ (State.endPark s src) := by
  unfold State.endPark
  repeat' (first
    | with_reducible assumption
    | with_reducible apply State.powerCause_keep
    | with_reducible apply Keep.upRtc
    | with_reducible apply Keep.upPwr
    | with_reducible refine Keep.upDict ?_ ?_
    | exact Eq.refl _
    | with_reducible apply Keep.ite
    | split)

theorem State.finishStart_keep {o₀ s : State} (hK : Keep L o₀ s) (lSto : L.sto = true := by first | rfl | assumption) (lCsw : L.csw = true := by first | rfl | assumption) (lFio : L.fio = true := by first | rfl | assumption) (lHost : L.host = true := by first | rfl | assumption) (lWdg : L.wdg = true := by first | rfl | assumption) (lEvr : L.evr = true := by first | rfl | assumption) (lPwr : L.pwr = true := by first | rfl | assumption) : Keep L o₀ (State.finishStart s) := by
  unfold State.finishStart
  repeat' (first
    | with_reducible assumption
    | with_reducible apply State.stopStart_keep
    | with_reducible apply State.firstState_keep
    | with_reducible apply State.outputRelease_keep
    | with_reducible apply State.armServices_keep
    | with_reducible apply State.startReport_keep
    | with_reducible apply Keep.upCsw
    | with_reducible apply Keep.upPwr
    | with_reducible apply Keep.ite
    | (extract_lets +onlyGivenNames y; (first | ((have hy : Keep L o₀ y := (by unfold y; repeat' (first | with_reducible assumption | with_reducible apply State.stopStart_keep | with_reducible apply State.firstState_keep | with_reducible apply State.outputRelease_keep | with_reducible apply State.armServices_keep | with_reducible apply State.startReport_keep | with_reducible apply Keep.upCsw | with_reducible apply Keep.upPwr | with_reducible apply Keep.ite | extract_lets | split))); clear_value y) | clear_value y | skip))
    | split)

end Sys2Proof.Machine
end

