-- ==== Sys2Proof/Laws/KeepCluster.lean ====
section
/-! SUPPORT. What each operation of Machine/Cluster.lean keeps (Laws/Keep.lean). -/

set_option Elab.async false
set_option linter.all false

namespace Sys2Proof.Machine

open Sys2Proof

set_option linter.unusedVariables false
set_option linter.tactic.unusedName false

variable {L : Parts}

theorem State.itemDivergence_keep {o₀ s : State} (hK : Keep L o₀ s) (l : Nat) (c : Nat) (bundle : Nat) (d : Option Item × Option Item) (lClk : L.clk = true := by first | rfl | assumption) (lClu : L.clu = true := by first | rfl | assumption) (lSto : L.sto = true := by first | rfl | assumption) (lCsw : L.csw = true := by first | rfl | assumption) (lFio : L.fio = true := by first | rfl | assumption) (lNet : L.net = true := by first | rfl | assumption) (lCan : L.can = true := by first | rfl | assumption) (lHost : L.host = true := by first | rfl | assumption) (lWdg : L.wdg = true := by first | rfl | assumption) (lEvr : L.evr = true := by first | rfl | assumption) (lTrc : L.trc = true := by first | rfl | assumption) : Keep L o₀ (State.itemDivergence s l c bundle d) := by
  unfold State.itemDivergence
  repeat' (first
    | with_reducible assumption
    | with_reducible apply State.divergence_keep
    | with_reducible apply Keep.ite
    | (extract_lets +onlyGivenNames y; (first | ((have hy : Keep L o₀ y := (by unfold y; repeat' (first | with_reducible assumption | with_reducible apply State.divergence_keep | with_reducible apply Keep.ite | extract_lets | split))); clear_value y) | clear_value y | skip))
    | split)

theorem State.upItems_keep {o₀ s : State} (hK : Keep L o₀ s) (l : Nat) (k : List IssueRec → List IssueRec) (lClu : L.clu = true := by first | rfl | assumption) : Keep L o₀ (State.upItems s l k) := by
  unfold State.upItems
  repeat' (first
    | with_reducible assumption
    | with_reducible apply Keep.upClu
    | with_reducible apply Keep.ite
    | split)

theorem State.compare_keep {o₀ s : State} (hK : Keep L o₀ s) (l : Nat) (c : Nat) (bundle : Nat) (wb : Bool) (items : List Item) (reads : List Word) (lClk : L.clk = true := by first | rfl | assumption) (lClu : L.clu = true := by first | rfl | assumption) (lSto : L.sto = true := by first | rfl | assumption) (lCsw : L.csw = true := by first | rfl | assumption) (lFio : L.fio = true := by first | rfl | assumption) (lNet : L.net = true := by first | rfl | assumption) (lCan : L.can = true := by first | rfl | assumption) (lHost : L.host = true := by first | rfl | assumption) (lWdg : L.wdg = true := by first | rfl | assumption) (lEvr : L.evr = true := by first | rfl | assumption) (lTrc : L.trc = true := by first | rfl | assumption) : Keep L o₀ (State.compare s l c bundle wb items reads) := by
  unfold State.compare
  repeat' (first
    | with_reducible assumption
    | with_reducible apply State.upItems_keep
    | with_reducible apply State.itemDivergence_keep
    | with_reducible apply Keep.ite
    | (extract_lets +onlyGivenNames y; (first | ((have hy : Keep L o₀ y := (by unfold y; repeat' (first | with_reducible assumption | with_reducible apply State.upItems_keep | with_reducible apply State.itemDivergence_keep | with_reducible apply Keep.ite | extract_lets | split))); clear_value y) | clear_value y | skip))
    | split)

theorem State.runStore_keep {o₀ s : State} (hK : Keep L o₀ s) (t : Nat) (l : Nat) (c : Nat) (o : Ov) (lClk : L.clk = true := by first | rfl | assumption) (lClu : L.clu = true := by first | rfl | assumption) (lTasks : L.tasks = true := by first | rfl | assumption) (lSto : L.sto = true := by first | rfl | assumption) (lCsw : L.csw = true := by first | rfl | assumption) (lFio : L.fio = true := by first | rfl | assumption) (lNet : L.net = true := by first | rfl | assumption) (lCan : L.can = true := by first | rfl | assumption) (lHost : L.host = true := by first | rfl | assumption) (lWdg : L.wdg = true := by first | rfl | assumption) (lEvr : L.evr = true := by first | rfl | assumption) (lTrc : L.trc = true := by first | rfl | assumption) : Keep L o₀ (State.runStore s t l c o) := by
  unfold State.runStore
  repeat' (first
    | with_reducible assumption
    | with_reducible apply State.upTask_keep
    | with_reducible apply State.divergence_keep
    | with_reducible apply Keep.ite
    | (extract_lets +onlyGivenNames y; (first | ((have hy : Keep L o₀ y := (by unfold y; repeat' (first | with_reducible assumption | with_reducible apply State.upTask_keep | with_reducible apply State.divergence_keep | with_reducible apply Keep.ite | extract_lets | split))); clear_value y) | clear_value y | skip))
    | split)

theorem State.countCorrected_keep {o₀ s : State} (hK : Keep L o₀ s) (l : List Ecc) (lSto : L.sto = true := by first | rfl | assumption) (lHost : L.host = true := by first | rfl | assumption) (lEvr : L.evr = true := by first | rfl | assumption) : Keep L o₀ (State.countCorrected s l) := by
  unfold State.countCorrected
  repeat' (first
    | with_reducible assumption
    | with_reducible apply State.corrected_keep
    | with_reducible refine Keep.foldl (fun _ _ _ => ?_) _ ?_
    | with_reducible refine Keep.foldl1 (fun _ _ _ _ => ?_) _ ?_
    | with_reducible refine Keep.foldl2 (fun _ _ _ _ => ?_) _ ?_
    | with_reducible apply Keep.ite
    | split)

theorem State.endIllegal_keep {o₀ s : State} (hK : Keep L o₀ s) (l : Nat) (t : Nat) (c : Nat) (cause : Nat) (bundle : Nat) (lClk : L.clk = true := by first | rfl | assumption) (lClu : L.clu = true := by first | rfl | assumption) (lTasks : L.tasks = true := by first | rfl | assumption) (lSto : L.sto = true := by first | rfl | assumption) (lCsw : L.csw = true := by first | rfl | assumption) (lFio : L.fio = true := by first | rfl | assumption) (lNet : L.net = true := by first | rfl | assumption) (lCan : L.can = true := by first | rfl | assumption) (lHost : L.host = true := by first | rfl | assumption) (lWdg : L.wdg = true := by first | rfl | assumption) (lEvr : L.evr = true := by first | rfl | assumption) (lTrc : L.trc = true := by first | rfl | assumption) : Keep L o₀ (State.endIllegal s l t c cause bundle) := by
  unfold State.endIllegal
  repeat' (first
    | with_reducible assumption
    | with_reducible apply State.upLane_keep
    | with_reducible apply State.compare_keep
    | with_reducible apply State.faultTask_keep
    | with_reducible apply State.noteRun_keep
    | with_reducible apply Keep.ite
    | (extract_lets +onlyGivenNames y; (first | ((have hy : Keep L o₀ y := (by unfold y; repeat' (first | with_reducible assumption | with_reducible apply State.upLane_keep | with_reducible apply State.compare_keep | with_reducible apply State.faultTask_keep | with_reducible apply State.noteRun_keep | with_reducible apply Keep.ite | extract_lets | split))); clear_value y) | clear_value y | skip))
    | split)

theorem State.takeEff_keep {o₀ s : State} (hK : Keep L o₀ s) (l : Nat) (t : Nat) (c : Nat) (bundle : Nat) (f : Eff) (lClk : L.clk = true := by first | rfl | assumption) (lClu : L.clu = true := by first | rfl | assumption) (lTasks : L.tasks = true := by first | rfl | assumption) (lSto : L.sto = true := by first | rfl | assumption) (lCsw : L.csw = true := by first | rfl | assumption) (lFio : L.fio = true := by first | rfl | assumption) (lNet : L.net = true := by first | rfl | assumption) (lCan : L.can = true := by first | rfl | assumption) (lHost : L.host = true := by first | rfl | assumption) (lWdg : L.wdg = true := by first | rfl | assumption) (lEvr : L.evr = true := by first | rfl | assumption) (lTrc : L.trc = true := by first | rfl | assumption) : Keep L o₀ (State.takeEff s l t c bundle f) := by
  unfold State.takeEff
  repeat' (first
    | with_reducible assumption
    | with_reducible apply State.upLane_keep
    | with_reducible apply State.compare_keep
    | with_reducible apply State.runStore_keep
    | with_reducible apply State.taskCheckin_keep
    | with_reducible apply Keep.upClu
    | with_reducible refine Keep.foldl (fun _ _ _ => ?_) _ ?_
    | with_reducible refine Keep.foldl1 (fun _ _ _ _ => ?_) _ ?_
    | with_reducible refine Keep.foldl2 (fun _ _ _ _ => ?_) _ ?_
    | with_reducible apply Keep.ite
    | (extract_lets +onlyGivenNames y; (first | ((have hy : Keep L o₀ y := (by unfold y; repeat' (first | with_reducible assumption | with_reducible apply State.upLane_keep | with_reducible apply State.compare_keep | with_reducible apply State.runStore_keep | with_reducible apply State.taskCheckin_keep | with_reducible apply Keep.upClu | with_reducible refine Keep.foldl (fun _ _ _ => ?_) _ ?_ | with_reducible refine Keep.foldl1 (fun _ _ _ _ => ?_) _ ?_ | with_reducible refine Keep.foldl2 (fun _ _ _ _ => ?_) _ ?_ | with_reducible apply Keep.ite | extract_lets | split))); clear_value y) | ((have hy : Keep L o₀ y.1 := (by unfold y; repeat' (first | with_reducible assumption | with_reducible apply State.upLane_keep | with_reducible apply State.compare_keep | with_reducible apply State.runStore_keep | with_reducible apply State.taskCheckin_keep | with_reducible apply Keep.upClu | with_reducible refine Keep.foldl (fun _ _ _ => ?_) _ ?_ | with_reducible refine Keep.foldl1 (fun _ _ _ _ => ?_) _ ?_ | with_reducible refine Keep.foldl2 (fun _ _ _ _ => ?_) _ ?_ | with_reducible apply Keep.ite | extract_lets | split))); clear_value y) | ((have hy : Keep L o₀ y.2 := (by unfold y; repeat' (first | with_reducible assumption | with_reducible apply State.upLane_keep | with_reducible apply State.compare_keep | with_reducible apply State.runStore_keep | with_reducible apply State.taskCheckin_keep | with_reducible apply Keep.upClu | with_reducible refine Keep.foldl (fun _ _ _ => ?_) _ ?_ | with_reducible refine Keep.foldl1 (fun _ _ _ _ => ?_) _ ?_ | with_reducible refine Keep.foldl2 (fun _ _ _ _ => ?_) _ ?_ | with_reducible apply Keep.ite | extract_lets | split))); clear_value y) | clear_value y | skip))
    | split)

theorem State.landWb_keep {o₀ s : State} (hK : Keep L o₀ s) (l : Nat) (u : Upset) (lClk : L.clk = true := by first | rfl | assumption) (lClu : L.clu = true := by first | rfl | assumption) (lTasks : L.tasks = true := by first | rfl | assumption) (lSto : L.sto = true := by first | rfl | assumption) (lCsw : L.csw = true := by first | rfl | assumption) (lFio : L.fio = true := by first | rfl | assumption) (lNet : L.net = true := by first | rfl | assumption) (lCan : L.can = true := by first | rfl | assumption) (lHost : L.host = true := by first | rfl | assumption) (lWdg : L.wdg = true := by first | rfl | assumption) (lEvr : L.evr = true := by first | rfl | assumption) (lTrc : L.trc = true := by first | rfl | assumption) : Keep L o₀ (State.landWb s l u) := by
  unfold State.landWb
  repeat' (first
    | with_reducible assumption
    | with_reducible apply State.upLane_keep
    | with_reducible apply State.compare_keep
    | with_reducible apply State.runStore_keep
    | with_reducible apply Keep.ite
    | (extract_lets +onlyGivenNames y; (first | ((have hy : Keep L o₀ y := (by unfold y; repeat' (first | with_reducible assumption | with_reducible apply State.upLane_keep | with_reducible apply State.compare_keep | with_reducible apply State.runStore_keep | with_reducible apply Keep.ite | extract_lets | split))); clear_value y) | clear_value y | skip))
    | split)

theorem State.landWbs_keep {o s : State} (l c n : Nat) (hK : Keep L o s) (lClk : L.clk = true := by first | rfl | assumption) (lClu : L.clu = true := by first | rfl | assumption) (lTasks : L.tasks = true := by first | rfl | assumption) (lSto : L.sto = true := by first | rfl | assumption) (lCsw : L.csw = true := by first | rfl | assumption) (lFio : L.fio = true := by first | rfl | assumption) (lNet : L.net = true := by first | rfl | assumption) (lCan : L.can = true := by first | rfl | assumption) (lHost : L.host = true := by first | rfl | assumption) (lWdg : L.wdg = true := by first | rfl | assumption) (lEvr : L.evr = true := by first | rfl | assumption) (lTrc : L.trc = true := by first | rfl | assumption) : Keep L o (s.landWbs l c n) := by
  induction n generalizing s with
  | zero => exact hK
  | succ n ih =>
    unfold State.landWbs
    split
    · exact Keep.ite (ih (State.landWb_keep hK _ _)) hK
    · exact hK

theorem State.issue_keep {o₀ s : State} (hK : Keep L o₀ s) (l : Nat) (ecc : List Ecc) (u : Upset) (lClk : L.clk = true := by first | rfl | assumption) (lClu : L.clu = true := by first | rfl | assumption) (lTasks : L.tasks = true := by first | rfl | assumption) (lSto : L.sto = true := by first | rfl | assumption) (lCsw : L.csw = true := by first | rfl | assumption) (lFio : L.fio = true := by first | rfl | assumption) (lNet : L.net = true := by first | rfl | assumption) (lCan : L.can = true := by first | rfl | assumption) (lHost : L.host = true := by first | rfl | assumption) (lWdg : L.wdg = true := by first | rfl | assumption) (lEvr : L.evr = true := by first | rfl | assumption) (lTrc : L.trc = true := by first | rfl | assumption) : Keep L o₀ (State.issue s l ecc u) := by
  unfold State.issue
  repeat' (first
    | with_reducible assumption
    | with_reducible apply State.upLane_keep
    | with_reducible apply State.endIllegal_keep
    | with_reducible apply State.ok_keep
    | with_reducible apply State.landWbs_keep
    | with_reducible apply State.countCorrected_keep
    | with_reducible apply State.storeUncorrectable_keep
    | with_reducible apply State.uncorrectable_keep
    | with_reducible apply State.takeEff_keep
    | with_reducible apply Keep.ite
    | (extract_lets +onlyGivenNames y; (first | ((have hy : Keep L o₀ y := (by unfold y; repeat' (first | with_reducible assumption | with_reducible apply State.upLane_keep | with_reducible apply State.endIllegal_keep | with_reducible apply State.ok_keep | with_reducible apply State.landWbs_keep | with_reducible apply State.countCorrected_keep | with_reducible apply State.storeUncorrectable_keep | with_reducible apply State.uncorrectable_keep | with_reducible apply State.takeEff_keep | with_reducible apply Keep.ite | extract_lets | split))); clear_value y) | ((have hy : Keep L o₀ y.state := (by unfold y; repeat' (first | with_reducible assumption | with_reducible apply State.upLane_keep | with_reducible apply State.endIllegal_keep | with_reducible apply State.ok_keep | with_reducible apply State.landWbs_keep | with_reducible apply State.countCorrected_keep | with_reducible apply State.storeUncorrectable_keep | with_reducible apply State.uncorrectable_keep | with_reducible apply State.takeEff_keep | with_reducible apply Keep.ite | extract_lets | split))); clear_value y) | clear_value y | skip))
    | split)

theorem State.iterate_keep {o₀ s : State} (hK : Keep L o₀ s) (l : Nat) (ecc : List Ecc) (u : Upset) (lClk : L.clk = true := by first | rfl | assumption) (lClu : L.clu = true := by first | rfl | assumption) (lTasks : L.tasks = true := by first | rfl | assumption) (lSto : L.sto = true := by first | rfl | assumption) (lCsw : L.csw = true := by first | rfl | assumption) (lFio : L.fio = true := by first | rfl | assumption) (lNet : L.net = true := by first | rfl | assumption) (lCan : L.can = true := by first | rfl | assumption) (lHost : L.host = true := by first | rfl | assumption) (lWdg : L.wdg = true := by first | rfl | assumption) (lEvr : L.evr = true := by first | rfl | assumption) (lTrc : L.trc = true := by first | rfl | assumption) : Keep L o₀ (State.iterate s l ecc u) := by
  unfold State.iterate
  repeat' (first
    | with_reducible assumption
    | with_reducible apply State.landWbs_keep
    | with_reducible apply State.upLane_keep
    | with_reducible apply State.countCorrected_keep
    | with_reducible apply State.storeUncorrectable_keep
    | with_reducible apply State.uncorrectable_keep
    | with_reducible apply State.endIllegal_keep
    | with_reducible apply State.takeEff_keep
    | with_reducible apply Keep.ite
    | (extract_lets +onlyGivenNames y; (first | ((have hy : Keep L o₀ y := (by unfold y; repeat' (first | with_reducible assumption | with_reducible apply State.landWbs_keep | with_reducible apply State.upLane_keep | with_reducible apply State.countCorrected_keep | with_reducible apply State.storeUncorrectable_keep | with_reducible apply State.uncorrectable_keep | with_reducible apply State.endIllegal_keep | with_reducible apply State.takeEff_keep | with_reducible apply Keep.ite | extract_lets | split))); clear_value y) | clear_value y | skip))
    | split)

theorem State.stringStep_keep {o₀ s : State} (hK : Keep L o₀ s) (l : Nat) (ecc : List Ecc) (lClk : L.clk = true := by first | rfl | assumption) (lClu : L.clu = true := by first | rfl | assumption) (lTasks : L.tasks = true := by first | rfl | assumption) (lSto : L.sto = true := by first | rfl | assumption) (lCsw : L.csw = true := by first | rfl | assumption) (lFio : L.fio = true := by first | rfl | assumption) (lNet : L.net = true := by first | rfl | assumption) (lCan : L.can = true := by first | rfl | assumption) (lHost : L.host = true := by first | rfl | assumption) (lWdg : L.wdg = true := by first | rfl | assumption) (lEvr : L.evr = true := by first | rfl | assumption) (lTrc : L.trc = true := by first | rfl | assumption) : Keep L o₀ (State.stringStep s l ecc) := by
  unfold State.stringStep
  repeat' (first
    | with_reducible assumption
    | with_reducible apply State.upLane_keep
    | with_reducible apply State.endIllegal_keep
    | with_reducible apply State.countCorrected_keep
    | with_reducible apply State.uncorrectable_keep
    | with_reducible refine Keep.foldl (fun _ _ _ => ?_) _ ?_
    | with_reducible refine Keep.foldl1 (fun _ _ _ _ => ?_) _ ?_
    | with_reducible refine Keep.foldl2 (fun _ _ _ _ => ?_) _ ?_
    | with_reducible apply Keep.ite
    | (extract_lets +onlyGivenNames y; (first | ((have hy : Keep L o₀ y := (by unfold y; repeat' (first | with_reducible assumption | with_reducible apply State.upLane_keep | with_reducible apply State.endIllegal_keep | with_reducible apply State.countCorrected_keep | with_reducible apply State.uncorrectable_keep | with_reducible refine Keep.foldl (fun _ _ _ => ?_) _ ?_ | with_reducible refine Keep.foldl1 (fun _ _ _ _ => ?_) _ ?_ | with_reducible refine Keep.foldl2 (fun _ _ _ _ => ?_) _ ?_ | with_reducible apply Keep.ite | extract_lets | split))); clear_value y) | ((have hy : Keep L o₀ y.1 := (by unfold y; repeat' (first | with_reducible assumption | with_reducible apply State.upLane_keep | with_reducible apply State.endIllegal_keep | with_reducible apply State.countCorrected_keep | with_reducible apply State.uncorrectable_keep | with_reducible refine Keep.foldl (fun _ _ _ => ?_) _ ?_ | with_reducible refine Keep.foldl1 (fun _ _ _ _ => ?_) _ ?_ | with_reducible refine Keep.foldl2 (fun _ _ _ _ => ?_) _ ?_ | with_reducible apply Keep.ite | extract_lets | split))); clear_value y) | ((have hy : Keep L o₀ y.2 := (by unfold y; repeat' (first | with_reducible assumption | with_reducible apply State.upLane_keep | with_reducible apply State.endIllegal_keep | with_reducible apply State.countCorrected_keep | with_reducible apply State.uncorrectable_keep | with_reducible refine Keep.foldl (fun _ _ _ => ?_) _ ?_ | with_reducible refine Keep.foldl1 (fun _ _ _ _ => ?_) _ ?_ | with_reducible refine Keep.foldl2 (fun _ _ _ _ => ?_) _ ?_ | with_reducible apply Keep.ite | extract_lets | split))); clear_value y) | clear_value y | skip))
    | split)

theorem State.startRun_keep {o₀ s : State} (hK : Keep L o₀ s) (set : Nat) (lClu : L.clu = true := by first | rfl | assumption) (lTasks : L.tasks = true := by first | rfl | assumption) : Keep L o₀ (State.startRun s set) := by
  unfold State.startRun
  repeat' (first
    | with_reducible assumption
    | with_reducible apply State.upLane_keep
    | with_reducible apply State.upTask_keep
    | with_reducible apply Keep.upClu
    | with_reducible refine Keep.foldl (fun _ _ _ => ?_) _ ?_
    | with_reducible refine Keep.foldl1 (fun _ _ _ _ => ?_) _ ?_
    | with_reducible refine Keep.foldl2 (fun _ _ _ _ => ?_) _ ?_
    | with_reducible apply Keep.ite
    | (extract_lets +onlyGivenNames y; (first | ((have hy : Keep L o₀ y := (by unfold y; repeat' (first | with_reducible assumption | with_reducible apply State.upLane_keep | with_reducible apply State.upTask_keep | with_reducible apply Keep.upClu | with_reducible refine Keep.foldl (fun _ _ _ => ?_) _ ?_ | with_reducible refine Keep.foldl1 (fun _ _ _ _ => ?_) _ ?_ | with_reducible refine Keep.foldl2 (fun _ _ _ _ => ?_) _ ?_ | with_reducible apply Keep.ite | extract_lets | split))); clear_value y) | ((have hy : Keep L o₀ y.1 := (by unfold y; repeat' (first | with_reducible assumption | with_reducible apply State.upLane_keep | with_reducible apply State.upTask_keep | with_reducible apply Keep.upClu | with_reducible refine Keep.foldl (fun _ _ _ => ?_) _ ?_ | with_reducible refine Keep.foldl1 (fun _ _ _ _ => ?_) _ ?_ | with_reducible refine Keep.foldl2 (fun _ _ _ _ => ?_) _ ?_ | with_reducible apply Keep.ite | extract_lets | split))); clear_value y) | ((have hy : Keep L o₀ y.2 := (by unfold y; repeat' (first | with_reducible assumption | with_reducible apply State.upLane_keep | with_reducible apply State.upTask_keep | with_reducible apply Keep.upClu | with_reducible refine Keep.foldl (fun _ _ _ => ?_) _ ?_ | with_reducible refine Keep.foldl1 (fun _ _ _ _ => ?_) _ ?_ | with_reducible refine Keep.foldl2 (fun _ _ _ _ => ?_) _ ?_ | with_reducible apply Keep.ite | extract_lets | split))); clear_value y) | clear_value y | skip))
    | split)

theorem execRunStart_keep {s s₂ : State} (lset : Nat) (hx : execRunStart lset s = .next s₂) (lClu : L.clu = true := by first | rfl | assumption) (lTasks : L.tasks = true := by first | rfl | assumption) : Keep L s s₂ := by
  unfold execRunStart at hx
  with_reducible refine Keep.commit ?_ hx
  clear hx
  have hK := Keep.refl (L := L) s
  repeat' (first
    | with_reducible assumption
    | with_reducible apply State.startRun_keep
    | with_reducible apply Keep.ite
    | split)

theorem execBundleIssue_keep {s s₂ : State} (lane : Nat) (ecc : List Ecc) (upset : Upset) (hx : execBundleIssue lane ecc upset s = .next s₂) (lClk : L.clk = true := by first | rfl | assumption) (lClu : L.clu = true := by first | rfl | assumption) (lTasks : L.tasks = true := by first | rfl | assumption) (lSto : L.sto = true := by first | rfl | assumption) (lCsw : L.csw = true := by first | rfl | assumption) (lFio : L.fio = true := by first | rfl | assumption) (lNet : L.net = true := by first | rfl | assumption) (lCan : L.can = true := by first | rfl | assumption) (lHost : L.host = true := by first | rfl | assumption) (lWdg : L.wdg = true := by first | rfl | assumption) (lEvr : L.evr = true := by first | rfl | assumption) (lTrc : L.trc = true := by first | rfl | assumption) : Keep L s s₂ := by
  unfold execBundleIssue at hx
  with_reducible refine Keep.commit ?_ hx
  clear hx
  have hK := Keep.refl (L := L) s
  repeat' (first
    | with_reducible assumption
    | with_reducible apply State.issue_keep
    | with_reducible apply Keep.ite
    | split)

theorem execResultLanding_keep {s s₂ : State} (lane : Nat) (hx : execResultLanding lane s = .next s₂) (lClu : L.clu = true := by first | rfl | assumption) : Keep L s s₂ := by
  unfold execResultLanding at hx
  with_reducible refine Keep.commit ?_ hx
  clear hx
  have hK := Keep.refl (L := L) s
  repeat' (first
    | with_reducible assumption
    | with_reducible apply State.upLane_keep
    | with_reducible apply Keep.ite
    | split)

theorem execControlTransfer_keep {s s₂ : State} (lane : Nat) (hx : execControlTransfer lane s = .next s₂) (lClu : L.clu = true := by first | rfl | assumption) : Keep L s s₂ := by
  unfold execControlTransfer at hx
  with_reducible refine Keep.commit ?_ hx
  clear hx
  have hK := Keep.refl (L := L) s
  repeat' (first
    | with_reducible assumption
    | with_reducible apply State.upLane_keep
    | with_reducible apply Keep.ite
    | split)

theorem execRepIteration_keep {s s₂ : State} (lane : Nat) (ecc : List Ecc) (upset : Upset) (hx : execRepIteration lane ecc upset s = .next s₂) (lClk : L.clk = true := by first | rfl | assumption) (lClu : L.clu = true := by first | rfl | assumption) (lTasks : L.tasks = true := by first | rfl | assumption) (lSto : L.sto = true := by first | rfl | assumption) (lCsw : L.csw = true := by first | rfl | assumption) (lFio : L.fio = true := by first | rfl | assumption) (lNet : L.net = true := by first | rfl | assumption) (lCan : L.can = true := by first | rfl | assumption) (lHost : L.host = true := by first | rfl | assumption) (lWdg : L.wdg = true := by first | rfl | assumption) (lEvr : L.evr = true := by first | rfl | assumption) (lTrc : L.trc = true := by first | rfl | assumption) : Keep L s s₂ := by
  unfold execRepIteration at hx
  with_reducible refine Keep.commit ?_ hx
  clear hx
  have hK := Keep.refl (L := L) s
  repeat' (first
    | with_reducible assumption
    | with_reducible apply State.iterate_keep
    | with_reducible apply Keep.ite
    | split)

theorem execStringIteration_keep {s s₂ : State} (lane : Nat) (ecc : List Ecc) (hx : execStringIteration lane ecc s = .next s₂) (lClk : L.clk = true := by first | rfl | assumption) (lClu : L.clu = true := by first | rfl | assumption) (lTasks : L.tasks = true := by first | rfl | assumption) (lSto : L.sto = true := by first | rfl | assumption) (lCsw : L.csw = true := by first | rfl | assumption) (lFio : L.fio = true := by first | rfl | assumption) (lNet : L.net = true := by first | rfl | assumption) (lCan : L.can = true := by first | rfl | assumption) (lHost : L.host = true := by first | rfl | assumption) (lWdg : L.wdg = true := by first | rfl | assumption) (lEvr : L.evr = true := by first | rfl | assumption) (lTrc : L.trc = true := by first | rfl | assumption) : Keep L s s₂ := by
  unfold execStringIteration at hx
  with_reducible refine Keep.commit ?_ hx
  clear hx
  have hK := Keep.refl (L := L) s
  repeat' (first
    | with_reducible assumption
    | with_reducible apply State.stringStep_keep
    | with_reducible apply Keep.ite
    | split)

theorem execRecordWriteback_keep {s s₂ : State} (lane : Nat) (upset : Upset) (hx : execRecordWriteback lane upset s = .next s₂) (lClk : L.clk = true := by first | rfl | assumption) (lClu : L.clu = true := by first | rfl | assumption) (lTasks : L.tasks = true := by first | rfl | assumption) (lSto : L.sto = true := by first | rfl | assumption) (lCsw : L.csw = true := by first | rfl | assumption) (lFio : L.fio = true := by first | rfl | assumption) (lNet : L.net = true := by first | rfl | assumption) (lCan : L.can = true := by first | rfl | assumption) (lHost : L.host = true := by first | rfl | assumption) (lWdg : L.wdg = true := by first | rfl | assumption) (lEvr : L.evr = true := by first | rfl | assumption) (lTrc : L.trc = true := by first | rfl | assumption) : Keep L s s₂ := by
  unfold execRecordWriteback at hx
  with_reducible refine Keep.commit ?_ hx
  clear hx
  have hK := Keep.refl (L := L) s
  repeat' (first
    | with_reducible assumption
    | with_reducible apply State.landWb_keep
    | with_reducible apply Keep.ite
    | split)

end Sys2Proof.Machine
end

