-- ==== Sys2Proof/Laws/KeepStream.lean ====
section
/-! SUPPORT. What each operation of Machine/Stream.lean keeps (Laws/Keep.lean). -/

set_option Elab.async false
set_option linter.all false

namespace Sys2Proof.Machine

open Sys2Proof

set_option linter.unusedVariables false
set_option linter.tactic.unusedName false

variable {L : Parts}

theorem State.streamFrames_keep {o s : State} (n : Nat) (hK : Keep L o s) (first : Bool) (pos : Nat) (b : List Byte) (lCsw : L.csw = true := by first | rfl | assumption) (lNet : L.net = true := by first | rfl | assumption) :
    Keep L o (s.streamFrames n first pos b) := by
  induction n generalizing s first pos b with
  | zero => exact hK
  | succ n ih =>
    unfold State.streamFrames
    exact Keep.ite hK (ih (Keep.upCsw (State.send_keep hK _) _) _ _ _)

theorem State.streamOut_keep {o₀ s : State} (hK : Keep L o₀ s) (b : List Byte) (lCsw : L.csw = true := by first | rfl | assumption) (lNet : L.net = true := by first | rfl | assumption) : Keep L o₀ (State.streamOut s b) := by
  unfold State.streamOut
  repeat' (first
    | with_reducible assumption
    | with_reducible apply State.streamFrames_keep
    | with_reducible apply Keep.upCsw
    | with_reducible apply Keep.ite
    | (extract_lets +onlyGivenNames y; (first | ((have hy : Keep L o₀ y := (by unfold y; repeat' (first | with_reducible assumption | with_reducible apply State.streamFrames_keep | with_reducible apply Keep.upCsw | with_reducible apply Keep.ite | extract_lets | split))); clear_value y) | clear_value y | skip))
    | split)

theorem State.endTransfers_keep {o₀ s : State} (hK : Keep L o₀ s) (lSto : L.sto = true := by first | rfl | assumption) (lCsw : L.csw = true := by first | rfl | assumption) : Keep L o₀ (State.endTransfers s) := by
  unfold State.endTransfers
  repeat' (first
    | with_reducible assumption
    | with_reducible apply State.upOther_keep
    | with_reducible apply Keep.upCsw
    | with_reducible apply Keep.ite
    | split)

theorem State.startSync_keep {o₀ s : State} (hK : Keep L o₀ s) (resync : Bool) (lSto : L.sto = true := by first | rfl | assumption) (lCsw : L.csw = true := by first | rfl | assumption) : Keep L o₀ (State.startSync s resync) := by
  unfold State.startSync
  repeat' (first
    | with_reducible assumption
    | with_reducible apply State.endTransfers_keep
    | with_reducible apply Keep.upCsw
    | with_reducible apply Keep.ite
    | split)

theorem State.losePartner_keep {o₀ s : State} (hK : Keep L o₀ s) (lSto : L.sto = true := by first | rfl | assumption) (lLdr : L.ldr = true := by first | rfl | assumption) (lCsw : L.csw = true := by first | rfl | assumption) (lNet : L.net = true := by first | rfl | assumption) (lCan : L.can = true := by first | rfl | assumption) (lDict : L.dict = true := by first | rfl | assumption) (lEvr : L.evr = true := by first | rfl | assumption) : Keep L o₀ (State.losePartner s) := by
  unfold State.losePartner
  repeat' (first
    | with_reducible assumption
    | with_reducible apply State.endTransfers_keep
    | with_reducible apply State.reportBatches_keep
    | with_reducible apply Keep.upCsw
    | with_reducible refine Keep.upLdr ?_ (fun xk => ?_)
    | exact xk
    | exact mem_nil_wf
    | with_reducible apply Keep.ite
    | split)

theorem State.sendMilestone_keep {o₀ s : State} (hK : Keep L o₀ s) (lCsw : L.csw = true := by first | rfl | assumption) (lNet : L.net = true := by first | rfl | assumption) : Keep L o₀ (State.sendMilestone s) := by
  unfold State.sendMilestone
  repeat' (first
    | with_reducible assumption
    | with_reducible apply State.streamOut_keep
    | with_reducible apply Keep.upCsw
    | with_reducible apply Keep.ite
    | split)

theorem State.sendBulk_keep {o₀ s : State} (hK : Keep L o₀ s) (n : Nat) (lCsw : L.csw = true := by first | rfl | assumption) (lNet : L.net = true := by first | rfl | assumption) : Keep L o₀ (State.sendBulk s n) := by
  unfold State.sendBulk
  repeat' (first
    | with_reducible assumption
    | with_reducible apply State.streamOut_keep
    | with_reducible apply Keep.upCsw
    | with_reducible apply Keep.ite
    | (extract_lets +onlyGivenNames y; (first | ((have hy : Keep L o₀ y := (by unfold y; repeat' (first | with_reducible assumption | with_reducible apply State.streamOut_keep | with_reducible apply Keep.upCsw | with_reducible apply Keep.ite | extract_lets | split))); clear_value y) | clear_value y | skip))
    | split)

theorem State.resendBlock_keep {o₀ s : State} (hK : Keep L o₀ s) (a : Nat) (oldest : Nat) (x : Nat × Nat) (lCsw : L.csw = true := by first | rfl | assumption) (lNet : L.net = true := by first | rfl | assumption) : Keep L o₀ (State.resendBlock s a oldest x) := by
  unfold State.resendBlock
  repeat' (first
    | with_reducible assumption
    | with_reducible apply State.streamFrames_keep
    | with_reducible apply Keep.ite
    | (extract_lets +onlyGivenNames y; (first | ((have hy : Keep L o₀ y := (by unfold y; repeat' (first | with_reducible assumption | with_reducible apply State.streamFrames_keep | with_reducible apply Keep.ite | extract_lets | split))); clear_value y) | clear_value y | skip))
    | split)

theorem State.resend_keep {o₀ s : State} (hK : Keep L o₀ s) (lSto : L.sto = true := by first | rfl | assumption) (lCsw : L.csw = true := by first | rfl | assumption) (lNet : L.net = true := by first | rfl | assumption) : Keep L o₀ (State.resend s) := by
  unfold State.resend
  repeat' (first
    | with_reducible assumption
    | with_reducible apply State.startSync_keep
    | with_reducible apply State.resendBlock_keep
    | with_reducible apply Keep.upCsw
    | with_reducible refine Keep.foldl (fun _ _ _ => ?_) _ ?_
    | with_reducible refine Keep.foldl1 (fun _ _ _ _ => ?_) _ ?_
    | with_reducible refine Keep.foldl2 (fun _ _ _ _ => ?_) _ ?_
    | with_reducible apply Keep.ite
    | (extract_lets +onlyGivenNames y; (first | ((have hy : Keep L o₀ y := (by unfold y; repeat' (first | with_reducible assumption | with_reducible apply State.startSync_keep | with_reducible apply State.resendBlock_keep | with_reducible apply Keep.upCsw | with_reducible refine Keep.foldl (fun _ _ _ => ?_) _ ?_ | with_reducible refine Keep.foldl1 (fun _ _ _ _ => ?_) _ ?_ | with_reducible refine Keep.foldl2 (fun _ _ _ _ => ?_) _ ?_ | with_reducible apply Keep.ite | extract_lets | split))); clear_value y) | ((have hy : Keep L o₀ y.1 := (by unfold y; repeat' (first | with_reducible assumption | with_reducible apply State.startSync_keep | with_reducible apply State.resendBlock_keep | with_reducible apply Keep.upCsw | with_reducible refine Keep.foldl (fun _ _ _ => ?_) _ ?_ | with_reducible refine Keep.foldl1 (fun _ _ _ _ => ?_) _ ?_ | with_reducible refine Keep.foldl2 (fun _ _ _ _ => ?_) _ ?_ | with_reducible apply Keep.ite | extract_lets | split))); clear_value y) | ((have hy : Keep L o₀ y.2 := (by unfold y; repeat' (first | with_reducible assumption | with_reducible apply State.startSync_keep | with_reducible apply State.resendBlock_keep | with_reducible apply Keep.upCsw | with_reducible refine Keep.foldl (fun _ _ _ => ?_) _ ?_ | with_reducible refine Keep.foldl1 (fun _ _ _ _ => ?_) _ ?_ | with_reducible refine Keep.foldl2 (fun _ _ _ _ => ?_) _ ?_ | with_reducible apply Keep.ite | extract_lets | split))); clear_value y) | clear_value y | skip))
    | split)

theorem State.restartSync_keep {o₀ s : State} (hK : Keep L o₀ s) (lLdr : L.ldr = true := by first | rfl | assumption) (lCsw : L.csw = true := by first | rfl | assumption) : Keep L o₀ (State.restartSync s) := by
  unfold State.restartSync
  repeat' (first
    | with_reducible assumption
    | with_reducible apply Keep.upCsw
    | with_reducible refine Keep.upLdr ?_ (fun xk => ?_)
    | exact xk
    | exact mem_nil_wf
    | with_reducible apply Keep.ite
    | split)

theorem State.toSyncing_keep {o₀ s : State} (hK : Keep L o₀ s) (lLdr : L.ldr = true := by first | rfl | assumption) (lCsw : L.csw = true := by first | rfl | assumption) (lNet : L.net = true := by first | rfl | assumption) (lWdg : L.wdg = true := by first | rfl | assumption) : Keep L o₀ (State.toSyncing s) := by
  unfold State.toSyncing
  repeat' (first
    | with_reducible assumption
    | with_reducible apply State.transition_keep
    | with_reducible apply State.restartSync_keep
    | with_reducible apply Keep.upCsw
    | with_reducible apply Keep.ite
    | split)

theorem State.fallBack_keep {o₀ s : State} (hK : Keep L o₀ s) (lLdr : L.ldr = true := by first | rfl | assumption) (lCsw : L.csw = true := by first | rfl | assumption) (lNet : L.net = true := by first | rfl | assumption) (lWdg : L.wdg = true := by first | rfl | assumption) (lEvr : L.evr = true := by first | rfl | assumption) : Keep L o₀ (State.fallBack s) := by
  unfold State.fallBack
  repeat' (first
    | with_reducible assumption
    | with_reducible apply State.toSyncing_keep
    | with_reducible apply State.cswCause_keep
    | with_reducible apply State.restartSync_keep
    | with_reducible apply Keep.ite
    | split)

theorem State.takeLaunched_keep {o₀ s : State} (hK : Keep L o₀ s) (o : Ov) (lSto : L.sto = true := by first | rfl | assumption) (lFio : L.fio = true := by first | rfl | assumption) : Keep L o₀ (State.takeLaunched s o) := by
  unfold State.takeLaunched
  repeat' (first
    | with_reducible assumption
    | with_reducible apply State.launchLocal_keep
    | with_reducible apply Keep.ite
    | split)

theorem State.takeDue_keep {o₀ s : State} (hK : Keep L o₀ s) (lSto : L.sto = true := by first | rfl | assumption) (lCsw : L.csw = true := by first | rfl | assumption) (lFio : L.fio = true := by first | rfl | assumption) : Keep L o₀ (State.takeDue s) := by
  unfold State.takeDue
  repeat' (first
    | with_reducible assumption
    | with_reducible apply State.takeLaunched_keep
    | with_reducible apply Keep.upCsw
    | with_reducible refine Keep.foldl (fun _ _ _ => ?_) _ ?_
    | with_reducible refine Keep.foldl1 (fun _ _ _ _ => ?_) _ ?_
    | with_reducible refine Keep.foldl2 (fun _ _ _ _ => ?_) _ ?_
    | with_reducible apply Keep.ite
    | (extract_lets +onlyGivenNames y; (first | ((have hy : Keep L o₀ y := (by unfold y; repeat' (first | with_reducible assumption | with_reducible apply State.takeLaunched_keep | with_reducible apply Keep.upCsw | with_reducible refine Keep.foldl (fun _ _ _ => ?_) _ ?_ | with_reducible refine Keep.foldl1 (fun _ _ _ _ => ?_) _ ?_ | with_reducible refine Keep.foldl2 (fun _ _ _ _ => ?_) _ ?_ | with_reducible apply Keep.ite | extract_lets | split))); clear_value y) | ((have hy : Keep L o₀ y.1 := (by unfold y; repeat' (first | with_reducible assumption | with_reducible apply State.takeLaunched_keep | with_reducible apply Keep.upCsw | with_reducible refine Keep.foldl (fun _ _ _ => ?_) _ ?_ | with_reducible refine Keep.foldl1 (fun _ _ _ _ => ?_) _ ?_ | with_reducible refine Keep.foldl2 (fun _ _ _ _ => ?_) _ ?_ | with_reducible apply Keep.ite | extract_lets | split))); clear_value y) | ((have hy : Keep L o₀ y.2 := (by unfold y; repeat' (first | with_reducible assumption | with_reducible apply State.takeLaunched_keep | with_reducible apply Keep.upCsw | with_reducible refine Keep.foldl (fun _ _ _ => ?_) _ ?_ | with_reducible refine Keep.foldl1 (fun _ _ _ _ => ?_) _ ?_ | with_reducible refine Keep.foldl2 (fun _ _ _ _ => ?_) _ ?_ | with_reducible apply Keep.ite | extract_lets | split))); clear_value y) | clear_value y | skip))
    | split)

theorem State.applyWords_keep {o₀ s : State} (hK : Keep L o₀ s) (m : Milestone) (keep : Bool) (lTasks : L.tasks = true := by first | rfl | assumption) (lSto : L.sto = true := by first | rfl | assumption) (lCsw : L.csw = true := by first | rfl | assumption) (lFio : L.fio = true := by first | rfl | assumption) : Keep L o₀ (State.applyWords s m keep) := by
  unfold State.applyWords
  repeat' (first
    | with_reducible assumption
    | with_reducible apply State.upTask_keep
    | with_reducible apply State.takeDue_keep
    | with_reducible apply Keep.upCsw
    | with_reducible refine Keep.foldl (fun _ _ _ => ?_) _ ?_
    | with_reducible refine Keep.foldl1 (fun _ _ _ _ => ?_) _ ?_
    | with_reducible refine Keep.foldl2 (fun _ _ _ _ => ?_) _ ?_
    | with_reducible apply Keep.ite
    | (extract_lets +onlyGivenNames y; (first | ((have hy : Keep L o₀ y := (by unfold y; repeat' (first | with_reducible assumption | with_reducible apply State.upTask_keep | with_reducible apply State.takeDue_keep | with_reducible apply Keep.upCsw | with_reducible refine Keep.foldl (fun _ _ _ => ?_) _ ?_ | with_reducible refine Keep.foldl1 (fun _ _ _ _ => ?_) _ ?_ | with_reducible refine Keep.foldl2 (fun _ _ _ _ => ?_) _ ?_ | with_reducible apply Keep.ite | extract_lets | split))); clear_value y) | ((have hy : Keep L o₀ y.1 := (by unfold y; repeat' (first | with_reducible assumption | with_reducible apply State.upTask_keep | with_reducible apply State.takeDue_keep | with_reducible apply Keep.upCsw | with_reducible refine Keep.foldl (fun _ _ _ => ?_) _ ?_ | with_reducible refine Keep.foldl1 (fun _ _ _ _ => ?_) _ ?_ | with_reducible refine Keep.foldl2 (fun _ _ _ _ => ?_) _ ?_ | with_reducible apply Keep.ite | extract_lets | split))); clear_value y) | ((have hy : Keep L o₀ y.2 := (by unfold y; repeat' (first | with_reducible assumption | with_reducible apply State.upTask_keep | with_reducible apply State.takeDue_keep | with_reducible apply Keep.upCsw | with_reducible refine Keep.foldl (fun _ _ _ => ?_) _ ?_ | with_reducible refine Keep.foldl1 (fun _ _ _ _ => ?_) _ ?_ | with_reducible refine Keep.foldl2 (fun _ _ _ _ => ?_) _ ?_ | with_reducible apply Keep.ite | extract_lets | split))); clear_value y) | clear_value y | skip))
    | split)

theorem State.applyMs_keep {o₀ s : State} (hK : Keep L o₀ s) (m : Milestone) (lTasks : L.tasks = true := by first | rfl | assumption) (lSto : L.sto = true := by first | rfl | assumption) (lLdr : L.ldr = true := by first | rfl | assumption) (lCsw : L.csw = true := by first | rfl | assumption) (lFio : L.fio = true := by first | rfl | assumption) (lNet : L.net = true := by first | rfl | assumption) (lWdg : L.wdg = true := by first | rfl | assumption) (lEvr : L.evr = true := by first | rfl | assumption) : Keep L o₀ (State.applyMs s m) := by
  unfold State.applyMs
  repeat' (first
    | with_reducible assumption
    | with_reducible apply State.convertApplied_keep
    | with_reducible apply State.applyWords_keep
    | with_reducible apply State.transition_keep
    | with_reducible apply State.cswCause_keep
    | with_reducible apply Keep.upCsw
    | with_reducible apply Keep.upNet
    | with_reducible refine Keep.upSto ?_ (fun xk => ?_)
    | with_reducible exact xk
    | (with_reducible refine Store.wf.mk ?_ ?_ ?_ ?_ ?_ <;> try dsimp only)
    | with_reducible exact xk.program
    | with_reducible exact xk.lmem
    | with_reducible exact xk.durable
    | with_reducible exact xk.inView
    | with_reducible exact xk.launched
    | with_reducible apply memPut_wf
    | with_reducible apply ov_apply_wf
    | with_reducible apply memWrite_wf
    | with_reducible apply memClear_wf
    | with_reducible apply memRange_wf
    | with_reducible apply mem_nil_wf
    | with_reducible apply memOf_wf
    | with_reducible refine Keep.foldl (fun _ _ _ => ?_) _ ?_
    | with_reducible refine Keep.foldl1 (fun _ _ _ _ => ?_) _ ?_
    | with_reducible refine Keep.foldl2 (fun _ _ _ _ => ?_) _ ?_
    | with_reducible apply Keep.ite
    | (extract_lets +onlyGivenNames y; (first | ((have hy : Keep L o₀ y := (by unfold y; repeat' (first | with_reducible assumption | with_reducible apply State.convertApplied_keep | with_reducible apply State.applyWords_keep | with_reducible apply State.transition_keep | with_reducible apply State.cswCause_keep | with_reducible apply Keep.upCsw | with_reducible apply Keep.upNet | with_reducible refine Keep.upSto ?_ (fun xk => ?_) | with_reducible exact xk | (with_reducible refine Store.wf.mk ?_ ?_ ?_ ?_ ?_ <;> try dsimp only) | with_reducible exact xk.program | with_reducible exact xk.lmem | with_reducible exact xk.durable | with_reducible exact xk.inView | with_reducible exact xk.launched | with_reducible apply memPut_wf | with_reducible apply ov_apply_wf | with_reducible apply memWrite_wf | with_reducible apply memClear_wf | with_reducible apply memRange_wf | with_reducible apply mem_nil_wf | with_reducible apply memOf_wf | with_reducible refine Keep.foldl (fun _ _ _ => ?_) _ ?_ | with_reducible refine Keep.foldl1 (fun _ _ _ _ => ?_) _ ?_ | with_reducible refine Keep.foldl2 (fun _ _ _ _ => ?_) _ ?_ | with_reducible apply Keep.ite | extract_lets | split))); clear_value y) | ((have hy : Keep L o₀ y.1 := (by unfold y; repeat' (first | with_reducible assumption | with_reducible apply State.convertApplied_keep | with_reducible apply State.applyWords_keep | with_reducible apply State.transition_keep | with_reducible apply State.cswCause_keep | with_reducible apply Keep.upCsw | with_reducible apply Keep.upNet | with_reducible refine Keep.upSto ?_ (fun xk => ?_) | with_reducible exact xk | (with_reducible refine Store.wf.mk ?_ ?_ ?_ ?_ ?_ <;> try dsimp only) | with_reducible exact xk.program | with_reducible exact xk.lmem | with_reducible exact xk.durable | with_reducible exact xk.inView | with_reducible exact xk.launched | with_reducible apply memPut_wf | with_reducible apply ov_apply_wf | with_reducible apply memWrite_wf | with_reducible apply memClear_wf | with_reducible apply memRange_wf | with_reducible apply mem_nil_wf | with_reducible apply memOf_wf | with_reducible refine Keep.foldl (fun _ _ _ => ?_) _ ?_ | with_reducible refine Keep.foldl1 (fun _ _ _ _ => ?_) _ ?_ | with_reducible refine Keep.foldl2 (fun _ _ _ _ => ?_) _ ?_ | with_reducible apply Keep.ite | extract_lets | split))); clear_value y) | ((have hy : Keep L o₀ y.2 := (by unfold y; repeat' (first | with_reducible assumption | with_reducible apply State.convertApplied_keep | with_reducible apply State.applyWords_keep | with_reducible apply State.transition_keep | with_reducible apply State.cswCause_keep | with_reducible apply Keep.upCsw | with_reducible apply Keep.upNet | with_reducible refine Keep.upSto ?_ (fun xk => ?_) | with_reducible exact xk | (with_reducible refine Store.wf.mk ?_ ?_ ?_ ?_ ?_ <;> try dsimp only) | with_reducible exact xk.program | with_reducible exact xk.lmem | with_reducible exact xk.durable | with_reducible exact xk.inView | with_reducible exact xk.launched | with_reducible apply memPut_wf | with_reducible apply ov_apply_wf | with_reducible apply memWrite_wf | with_reducible apply memClear_wf | with_reducible apply memRange_wf | with_reducible apply mem_nil_wf | with_reducible apply memOf_wf | with_reducible refine Keep.foldl (fun _ _ _ => ?_) _ ?_ | with_reducible refine Keep.foldl1 (fun _ _ _ _ => ?_) _ ?_ | with_reducible refine Keep.foldl2 (fun _ _ _ _ => ?_) _ ?_ | with_reducible apply Keep.ite | extract_lets | split))); clear_value y) | clear_value y | skip))
    | split)

theorem State.applyBulk_keep {o₀ s : State} (hK : Keep L o₀ s) (arg : Nat) (b : List Byte) (lSto : L.sto = true := by first | rfl | assumption) (lCsw : L.csw = true := by first | rfl | assumption) : Keep L o₀ (State.applyBulk s arg b) := by
  unfold State.applyBulk
  repeat' (first
    | with_reducible assumption
    | with_reducible apply Keep.upCsw
    | with_reducible refine Keep.upSto ?_ (fun xk => ?_)
    | with_reducible exact xk
    | (with_reducible refine Store.wf.mk ?_ ?_ ?_ ?_ ?_ <;> try dsimp only)
    | with_reducible exact xk.program
    | with_reducible exact xk.lmem
    | with_reducible exact xk.durable
    | with_reducible exact xk.inView
    | with_reducible exact xk.launched
    | with_reducible apply memPut_wf
    | with_reducible apply ov_apply_wf
    | with_reducible apply memWrite_wf
    | with_reducible apply memClear_wf
    | with_reducible apply memRange_wf
    | with_reducible apply mem_nil_wf
    | with_reducible apply memOf_wf
    | with_reducible apply Keep.ite
    | (extract_lets +onlyGivenNames y; (first | ((have hy : Keep L o₀ y := (by unfold y; repeat' (first | with_reducible assumption | with_reducible apply Keep.upCsw | with_reducible refine Keep.upSto ?_ (fun xk => ?_) | with_reducible exact xk | (with_reducible refine Store.wf.mk ?_ ?_ ?_ ?_ ?_ <;> try dsimp only) | with_reducible exact xk.program | with_reducible exact xk.lmem | with_reducible exact xk.durable | with_reducible exact xk.inView | with_reducible exact xk.launched | with_reducible apply memPut_wf | with_reducible apply ov_apply_wf | with_reducible apply memWrite_wf | with_reducible apply memClear_wf | with_reducible apply memRange_wf | with_reducible apply mem_nil_wf | with_reducible apply memOf_wf | with_reducible apply Keep.ite | extract_lets | split))); clear_value y) | clear_value y | skip))
    | split)

theorem State.endBulk_keep {o₀ s : State} (hK : Keep L o₀ s) (table : List (Nat × Nat)) (lClu : L.clu = true := by first | rfl | assumption) (lSto : L.sto = true := by first | rfl | assumption) (lLdr : L.ldr = true := by first | rfl | assumption) (lCsw : L.csw = true := by first | rfl | assumption) (lDict : L.dict = true := by first | rfl | assumption) : Keep L o₀ (State.endBulk s table) := by
  unfold State.endBulk
  repeat' (first
    | with_reducible assumption
    | with_reducible apply Keep.upClu
    | with_reducible apply Keep.upCsw
    | with_reducible refine Keep.upSto ?_ (fun xk => ?_)
    | with_reducible refine Keep.upLdr ?_ (fun xk => ?_)
    | with_reducible refine Keep.upDict ?_ ?_
    | exact Eq.refl _
    | with_reducible exact xk
    | (with_reducible refine Store.wf.mk ?_ ?_ ?_ ?_ ?_ <;> try dsimp only)
    | with_reducible exact xk.program
    | with_reducible exact xk.lmem
    | with_reducible exact xk.durable
    | with_reducible exact xk.inView
    | with_reducible exact xk.launched
    | with_reducible apply memPut_wf
    | with_reducible apply ov_apply_wf
    | with_reducible apply memWrite_wf
    | with_reducible apply memClear_wf
    | with_reducible apply memRange_wf
    | with_reducible apply mem_nil_wf
    | with_reducible apply memOf_wf
    | exact xk
    | exact mem_nil_wf
    | with_reducible apply Keep.ite
    | (extract_lets +onlyGivenNames y; (first | ((have hy : Keep L o₀ y := (by unfold y; repeat' (first | with_reducible assumption | with_reducible apply Keep.upClu | with_reducible apply Keep.upCsw | with_reducible refine Keep.upSto ?_ (fun xk => ?_) | with_reducible refine Keep.upLdr ?_ (fun xk => ?_) | with_reducible refine Keep.upDict ?_ ?_ | exact Eq.refl _ | with_reducible exact xk | (with_reducible refine Store.wf.mk ?_ ?_ ?_ ?_ ?_ <;> try dsimp only) | with_reducible exact xk.program | with_reducible exact xk.lmem | with_reducible exact xk.durable | with_reducible exact xk.inView | with_reducible exact xk.launched | with_reducible apply memPut_wf | with_reducible apply ov_apply_wf | with_reducible apply memWrite_wf | with_reducible apply memClear_wf | with_reducible apply memRange_wf | with_reducible apply mem_nil_wf | with_reducible apply memOf_wf | exact xk | exact mem_nil_wf | with_reducible apply Keep.ite | extract_lets | split))); clear_value y) | clear_value y | skip))
    | split)

theorem State.streamRecv_keep {o₀ s : State} (hK : Keep L o₀ s) (table : List (Nat × Nat)) (rtype : Nat) (arg : Nat) (b : List Byte) (lClu : L.clu = true := by first | rfl | assumption) (lTasks : L.tasks = true := by first | rfl | assumption) (lSto : L.sto = true := by first | rfl | assumption) (lLdr : L.ldr = true := by first | rfl | assumption) (lCsw : L.csw = true := by first | rfl | assumption) (lFio : L.fio = true := by first | rfl | assumption) (lNet : L.net = true := by first | rfl | assumption) (lDict : L.dict = true := by first | rfl | assumption) (lWdg : L.wdg = true := by first | rfl | assumption) (lEvr : L.evr = true := by first | rfl | assumption) : Keep L o₀ (State.streamRecv s table rtype arg b) := by
  unfold State.streamRecv
  repeat' (first
    | with_reducible assumption
    | with_reducible apply State.fallBack_keep
    | with_reducible apply State.applyMs_keep
    | with_reducible apply State.applyBulk_keep
    | with_reducible apply State.endBulk_keep
    | with_reducible apply Keep.upCsw
    | with_reducible apply Keep.ite
    | (extract_lets +onlyGivenNames y; (first | ((have hy : Keep L o₀ y := (by unfold y; repeat' (first | with_reducible assumption | with_reducible apply State.fallBack_keep | with_reducible apply State.applyMs_keep | with_reducible apply State.applyBulk_keep | with_reducible apply State.endBulk_keep | with_reducible apply Keep.upCsw | with_reducible apply Keep.ite | extract_lets | split))); clear_value y) | clear_value y | skip))
    | split)

theorem State.parseStream_keep {o s : State} (table : List (Nat × Nat)) (n : Nat) (hK : Keep L o s) (lClu : L.clu = true := by first | rfl | assumption) (lTasks : L.tasks = true := by first | rfl | assumption) (lSto : L.sto = true := by first | rfl | assumption) (lLdr : L.ldr = true := by first | rfl | assumption) (lCsw : L.csw = true := by first | rfl | assumption) (lFio : L.fio = true := by first | rfl | assumption) (lNet : L.net = true := by first | rfl | assumption) (lDict : L.dict = true := by first | rfl | assumption) (lWdg : L.wdg = true := by first | rfl | assumption) (lEvr : L.evr = true := by first | rfl | assumption) : Keep L o (s.parseStream table n) := by
  induction n generalizing s with
  | zero => exact hK
  | succ n ih =>
    unfold State.parseStream
    exact Keep.ite hK (ih (State.streamRecv_keep (Keep.upCsw hK _) _ _ _ _))

theorem State.streamIn_keep {o₀ s : State} (hK : Keep L o₀ s) (table : List (Nat × Nat)) (b : List Byte) (lClu : L.clu = true := by first | rfl | assumption) (lTasks : L.tasks = true := by first | rfl | assumption) (lSto : L.sto = true := by first | rfl | assumption) (lLdr : L.ldr = true := by first | rfl | assumption) (lCsw : L.csw = true := by first | rfl | assumption) (lFio : L.fio = true := by first | rfl | assumption) (lNet : L.net = true := by first | rfl | assumption) (lDict : L.dict = true := by first | rfl | assumption) (lWdg : L.wdg = true := by first | rfl | assumption) (lEvr : L.evr = true := by first | rfl | assumption) : Keep L o₀ (State.streamIn s table b) := by
  unfold State.streamIn
  repeat' (first
    | with_reducible assumption
    | with_reducible apply State.parseStream_keep
    | with_reducible apply Keep.upCsw
    | with_reducible apply Keep.ite
    | (extract_lets +onlyGivenNames y; (first | ((have hy : Keep L o₀ y := (by unfold y; repeat' (first | with_reducible assumption | with_reducible apply State.parseStream_keep | with_reducible apply Keep.upCsw | with_reducible apply Keep.ite | extract_lets | split))); clear_value y) | clear_value y | skip))
    | split)

end Sys2Proof.Machine
end

