-- ==== Sys2Proof/Laws/KeepCauseway.lean ====
section
/-! SUPPORT. What each operation of Machine/Causeway.lean keeps (Laws/Keep.lean). -/

set_option Elab.async false
set_option linter.all false

namespace Sys2Proof.Machine

open Sys2Proof

set_option linter.unusedVariables false
set_option linter.tactic.unusedName false

variable {L : Parts}

theorem State.cwDiscard_keep {o₀ s : State} (hK : Keep L o₀ s) (lCsw : L.csw = true := by first | rfl | assumption) (lEvr : L.evr = true := by first | rfl | assumption) : Keep L o₀ (State.cwDiscard s) := by
  unfold State.cwDiscard
  repeat' (first
    | with_reducible assumption
    | with_reducible apply State.cswCause_keep
    | with_reducible apply Keep.upCsw
    | with_reducible apply Keep.ite
    | split)

theorem State.takeoverDetect_keep {o₀ s : State} (hK : Keep L o₀ s) (reason : Nat) (ref : Nat) (confirm : Bool) (lCsw : L.csw = true := by first | rfl | assumption) (lDict : L.dict = true := by first | rfl | assumption) (lHost : L.host = true := by first | rfl | assumption) (lEvr : L.evr = true := by first | rfl | assumption) (lRtc : L.rtc = true := by first | rfl | assumption) (lPwr : L.pwr = true := by first | rfl | assumption) : Keep L o₀ (State.takeoverDetect s reason ref confirm) := by
  unfold State.takeoverDetect
  repeat' (first
    | with_reducible assumption
    | with_reducible apply State.endPark_keep
    | with_reducible apply Keep.upCsw
    | with_reducible apply Keep.ite
    | (extract_lets +onlyGivenNames y; (first | ((have hy : Keep L o₀ y := (by unfold y; repeat' (first | with_reducible assumption | with_reducible apply State.endPark_keep | with_reducible apply Keep.upCsw | with_reducible apply Keep.ite | extract_lets | split))); clear_value y) | clear_value y | skip))
    | split)

theorem State.partnerLost_keep {o₀ s : State} (hK : Keep L o₀ s) (reason : Nat) (ref : Nat) (confirm : Bool) (lClk : L.clk = true := by first | rfl | assumption) (lClu : L.clu = true := by first | rfl | assumption) (lSto : L.sto = true := by first | rfl | assumption) (lLdr : L.ldr = true := by first | rfl | assumption) (lCsw : L.csw = true := by first | rfl | assumption) (lNet : L.net = true := by first | rfl | assumption) (lCan : L.can = true := by first | rfl | assumption) (lDict : L.dict = true := by first | rfl | assumption) (lHost : L.host = true := by first | rfl | assumption) (lWdg : L.wdg = true := by first | rfl | assumption) (lEvr : L.evr = true := by first | rfl | assumption) (lTrc : L.trc = true := by first | rfl | assumption) (lRtc : L.rtc = true := by first | rfl | assumption) (lPwr : L.pwr = true := by first | rfl | assumption) : Keep L o₀ (State.partnerLost s reason ref confirm) := by
  unfold State.partnerLost
  repeat' (first
    | with_reducible assumption
    | with_reducible apply State.takeoverDetect_keep
    | with_reducible apply State.enterFailed_keep
    | with_reducible apply State.losePartner_keep
    | with_reducible apply Keep.ite
    | split)

theorem State.partnerSilent_keep {o₀ s : State} (hK : Keep L o₀ s) (lClk : L.clk = true := by first | rfl | assumption) (lClu : L.clu = true := by first | rfl | assumption) (lSto : L.sto = true := by first | rfl | assumption) (lLdr : L.ldr = true := by first | rfl | assumption) (lCsw : L.csw = true := by first | rfl | assumption) (lNet : L.net = true := by first | rfl | assumption) (lCan : L.can = true := by first | rfl | assumption) (lDict : L.dict = true := by first | rfl | assumption) (lHost : L.host = true := by first | rfl | assumption) (lWdg : L.wdg = true := by first | rfl | assumption) (lEvr : L.evr = true := by first | rfl | assumption) (lTrc : L.trc = true := by first | rfl | assumption) (lRtc : L.rtc = true := by first | rfl | assumption) (lPwr : L.pwr = true := by first | rfl | assumption) : Keep L o₀ (State.partnerSilent s) := by
  unfold State.partnerSilent
  repeat' (first
    | with_reducible assumption
    | with_reducible apply State.partnerLost_keep
    | with_reducible apply Keep.upCsw
    | with_reducible apply Keep.ite
    | split)

theorem State.winNegotiation_keep {o₀ s : State} (hK : Keep L o₀ s) (lost : Bool) (confirm : Bool) (lClk : L.clk = true := by first | rfl | assumption) (lClu : L.clu = true := by first | rfl | assumption) (lSto : L.sto = true := by first | rfl | assumption) (lCsw : L.csw = true := by first | rfl | assumption) (lFio : L.fio = true := by first | rfl | assumption) (lNet : L.net = true := by first | rfl | assumption) (lCan : L.can = true := by first | rfl | assumption) (lHost : L.host = true := by first | rfl | assumption) (lWdg : L.wdg = true := by first | rfl | assumption) (lEvr : L.evr = true := by first | rfl | assumption) (lTrc : L.trc = true := by first | rfl | assumption) (lPwr : L.pwr = true := by first | rfl | assumption) : Keep L o₀ (State.winNegotiation s lost confirm) := by
  unfold State.winNegotiation
  repeat' (first
    | with_reducible assumption
    | with_reducible apply State.govern_keep
    | with_reducible apply State.finishStart_keep
    | with_reducible apply Keep.upCsw
    | with_reducible apply Keep.ite
    | split)

theorem State.loseNegotiation_keep {o₀ s : State} (hK : Keep L o₀ s) (lSto : L.sto = true := by first | rfl | assumption) (lLdr : L.ldr = true := by first | rfl | assumption) (lCsw : L.csw = true := by first | rfl | assumption) (lFio : L.fio = true := by first | rfl | assumption) (lNet : L.net = true := by first | rfl | assumption) (lHost : L.host = true := by first | rfl | assumption) (lWdg : L.wdg = true := by first | rfl | assumption) (lEvr : L.evr = true := by first | rfl | assumption) (lPwr : L.pwr = true := by first | rfl | assumption) : Keep L o₀ (State.loseNegotiation s) := by
  unfold State.loseNegotiation
  repeat' (first
    | with_reducible assumption
    | with_reducible apply State.toSyncing_keep
    | with_reducible apply State.finishStart_keep
    | with_reducible apply Keep.ite
    | split)

theorem State.refusePairing_keep {o₀ s : State} (hK : Keep L o₀ s) (higher : Bool) (lClk : L.clk = true := by first | rfl | assumption) (lClu : L.clu = true := by first | rfl | assumption) (lSto : L.sto = true := by first | rfl | assumption) (lCsw : L.csw = true := by first | rfl | assumption) (lFio : L.fio = true := by first | rfl | assumption) (lNet : L.net = true := by first | rfl | assumption) (lCan : L.can = true := by first | rfl | assumption) (lHost : L.host = true := by first | rfl | assumption) (lWdg : L.wdg = true := by first | rfl | assumption) (lEvr : L.evr = true := by first | rfl | assumption) (lTrc : L.trc = true := by first | rfl | assumption) (lPwr : L.pwr = true := by first | rfl | assumption) : Keep L o₀ (State.refusePairing s higher) := by
  unfold State.refusePairing
  repeat' (first
    | with_reducible assumption
    | with_reducible apply State.winNegotiation_keep
    | with_reducible apply State.enterFailed_keep
    | with_reducible apply State.finishStart_keep
    | with_reducible apply Keep.ite
    | split)

theorem State.negotiate_keep {o₀ s : State} (hK : Keep L o₀ s) (f : List Byte) (lClk : L.clk = true := by first | rfl | assumption) (lClu : L.clu = true := by first | rfl | assumption) (lSto : L.sto = true := by first | rfl | assumption) (lLdr : L.ldr = true := by first | rfl | assumption) (lCsw : L.csw = true := by first | rfl | assumption) (lFio : L.fio = true := by first | rfl | assumption) (lNet : L.net = true := by first | rfl | assumption) (lCan : L.can = true := by first | rfl | assumption) (lHost : L.host = true := by first | rfl | assumption) (lWdg : L.wdg = true := by first | rfl | assumption) (lEvr : L.evr = true := by first | rfl | assumption) (lTrc : L.trc = true := by first | rfl | assumption) (lPwr : L.pwr = true := by first | rfl | assumption) : Keep L o₀ (State.negotiate s f) := by
  unfold State.negotiate
  repeat' (first
    | with_reducible assumption
    | with_reducible apply State.refusePairing_keep
    | with_reducible apply State.winNegotiation_keep
    | with_reducible apply State.loseNegotiation_keep
    | with_reducible apply Keep.upCsw
    | with_reducible apply Keep.ite
    | (extract_lets +onlyGivenNames y; (first | ((have hy : Keep L o₀ y := (by unfold y; repeat' (first | with_reducible assumption | with_reducible apply State.refusePairing_keep | with_reducible apply State.winNegotiation_keep | with_reducible apply State.loseNegotiation_keep | with_reducible apply Keep.upCsw | with_reducible apply Keep.ite | extract_lets | split))); clear_value y) | clear_value y | skip))
    | split)

theorem State.partnerRoleSeen_keep {o₀ s : State} (hK : Keep L o₀ s) (old : Nat) (new : Nat) (lSto : L.sto = true := by first | rfl | assumption) (lLdr : L.ldr = true := by first | rfl | assumption) (lCsw : L.csw = true := by first | rfl | assumption) (lNet : L.net = true := by first | rfl | assumption) (lCan : L.can = true := by first | rfl | assumption) (lDict : L.dict = true := by first | rfl | assumption) (lEvr : L.evr = true := by first | rfl | assumption) : Keep L o₀ (State.partnerRoleSeen s old new) := by
  unfold State.partnerRoleSeen
  repeat' (first
    | with_reducible assumption
    | with_reducible apply State.cswCause_keep
    | with_reducible apply State.startSync_keep
    | with_reducible apply State.losePartner_keep
    | with_reducible apply Keep.upCsw
    | with_reducible apply Keep.ite
    | (extract_lets +onlyGivenNames y; (first | ((have hy : Keep L o₀ y := (by unfold y; repeat' (first | with_reducible assumption | with_reducible apply State.cswCause_keep | with_reducible apply State.startSync_keep | with_reducible apply State.losePartner_keep | with_reducible apply Keep.upCsw | with_reducible apply Keep.ite | extract_lets | split))); clear_value y) | clear_value y | skip))
    | split)

theorem State.measureDelay_keep {o₀ s : State} (hK : Keep L o₀ s) (t : Nat) (p : List Byte) (lCsw : L.csw = true := by first | rfl | assumption) (lEvr : L.evr = true := by first | rfl | assumption) : Keep L o₀ (State.measureDelay s t p) := by
  unfold State.measureDelay
  repeat' (first
    | with_reducible assumption
    | with_reducible apply State.cswCause_keep
    | with_reducible apply Keep.upCsw
    | with_reducible apply Keep.ite
    | (extract_lets +onlyGivenNames y; (first | ((have hy : Keep L o₀ y := (by unfold y; repeat' (first | with_reducible assumption | with_reducible apply State.cswCause_keep | with_reducible apply Keep.upCsw | with_reducible apply Keep.ite | extract_lets | split))); clear_value y) | clear_value y | skip))
    | split)

theorem State.updateLag_keep {o₀ s : State} (hK : Keep L o₀ s) (lCsw : L.csw = true := by first | rfl | assumption) : Keep L o₀ (State.updateLag s) := by
  unfold State.updateLag
  repeat' (first
    | with_reducible assumption
    | with_reducible apply Keep.upCsw
    | with_reducible refine Keep.foldl (fun _ _ _ => ?_) _ ?_
    | with_reducible refine Keep.foldl1 (fun _ _ _ _ => ?_) _ ?_
    | with_reducible refine Keep.foldl2 (fun _ _ _ _ => ?_) _ ?_
    | with_reducible apply Keep.ite
    | (extract_lets +onlyGivenNames y; (first | ((have hy : Keep L o₀ y := (by unfold y; repeat' (first | with_reducible assumption | with_reducible apply Keep.upCsw | with_reducible refine Keep.foldl (fun _ _ _ => ?_) _ ?_ | with_reducible refine Keep.foldl1 (fun _ _ _ _ => ?_) _ ?_ | with_reducible refine Keep.foldl2 (fun _ _ _ _ => ?_) _ ?_ | with_reducible apply Keep.ite | extract_lets | split))); clear_value y) | ((have hy : Keep L o₀ y.1 := (by unfold y; repeat' (first | with_reducible assumption | with_reducible apply Keep.upCsw | with_reducible refine Keep.foldl (fun _ _ _ => ?_) _ ?_ | with_reducible refine Keep.foldl1 (fun _ _ _ _ => ?_) _ ?_ | with_reducible refine Keep.foldl2 (fun _ _ _ _ => ?_) _ ?_ | with_reducible apply Keep.ite | extract_lets | split))); clear_value y) | ((have hy : Keep L o₀ y.2 := (by unfold y; repeat' (first | with_reducible assumption | with_reducible apply Keep.upCsw | with_reducible refine Keep.foldl (fun _ _ _ => ?_) _ ?_ | with_reducible refine Keep.foldl1 (fun _ _ _ _ => ?_) _ ?_ | with_reducible refine Keep.foldl2 (fun _ _ _ _ => ?_) _ ?_ | with_reducible apply Keep.ite | extract_lets | split))); clear_value y) | clear_value y | skip))
    | split)

theorem State.swapSeen_keep {o₀ s : State} (hK : Keep L o₀ s) (ready : Bool) (env : CwIn) (lLdr : L.ldr = true := by first | rfl | assumption) (lCsw : L.csw = true := by first | rfl | assumption) : Keep L o₀ (State.swapSeen s ready env) := by
  unfold State.swapSeen
  repeat' (first
    | with_reducible assumption
    | with_reducible apply Keep.upCsw
    | with_reducible refine Keep.upLdr ?_ (fun xk => ?_)
    | exact xk
    | exact mem_nil_wf
    | with_reducible apply Keep.ite
    | split)

theorem State.heartbeatIn_keep {o₀ s : State} (hK : Keep L o₀ s) (lane : Nat) (t : Nat) (role : Nat) (p : List Byte) (env : CwIn) (lSto : L.sto = true := by first | rfl | assumption) (lLdr : L.ldr = true := by first | rfl | assumption) (lCsw : L.csw = true := by first | rfl | assumption) (lFio : L.fio = true := by first | rfl | assumption) (lNet : L.net = true := by first | rfl | assumption) (lCan : L.can = true := by first | rfl | assumption) (lDict : L.dict = true := by first | rfl | assumption) (lHost : L.host = true := by first | rfl | assumption) (lWdg : L.wdg = true := by first | rfl | assumption) (lEvr : L.evr = true := by first | rfl | assumption) (lPwr : L.pwr = true := by first | rfl | assumption) : Keep L o₀ (State.heartbeatIn s lane t role p env) := by
  unfold State.heartbeatIn
  repeat' (first
    | with_reducible assumption
    | with_reducible apply State.measureDelay_keep
    | with_reducible apply State.loseNegotiation_keep
    | with_reducible apply State.swapSeen_keep
    | with_reducible apply State.startSync_keep
    | with_reducible apply State.updateLag_keep
    | with_reducible apply State.reportBatches_keep
    | with_reducible apply State.fallBack_keep
    | with_reducible apply Keep.upCsw
    | with_reducible apply Keep.ite
    | (extract_lets +onlyGivenNames y; (first | ((have hy : Keep L o₀ y := (by unfold y; repeat' (first | with_reducible assumption | with_reducible apply State.measureDelay_keep | with_reducible apply State.loseNegotiation_keep | with_reducible apply State.swapSeen_keep | with_reducible apply State.startSync_keep | with_reducible apply State.updateLag_keep | with_reducible apply State.reportBatches_keep | with_reducible apply State.fallBack_keep | with_reducible apply Keep.upCsw | with_reducible apply Keep.ite | extract_lets | split))); clear_value y) | clear_value y | skip))
    | split)

theorem State.reexecuteAll_keep {o₀ s : State} (hK : Keep L o₀ s) (lClu : L.clu = true := by first | rfl | assumption) (lTasks : L.tasks = true := by first | rfl | assumption) (lWdg : L.wdg = true := by first | rfl | assumption) : Keep L o₀ (State.reexecuteAll s) := by
  unfold State.reexecuteAll
  repeat' (first
    | with_reducible assumption
    | with_reducible apply State.upTask_keep
    | with_reducible apply State.armTask_keep
    | with_reducible apply Keep.upClu
    | with_reducible refine Keep.foldl (fun _ _ _ => ?_) _ ?_
    | with_reducible refine Keep.foldl1 (fun _ _ _ _ => ?_) _ ?_
    | with_reducible refine Keep.foldl2 (fun _ _ _ _ => ?_) _ ?_
    | with_reducible apply Keep.ite
    | (extract_lets +onlyGivenNames y; (first | ((have hy : Keep L o₀ y := (by unfold y; repeat' (first | with_reducible assumption | with_reducible apply State.upTask_keep | with_reducible apply State.armTask_keep | with_reducible apply Keep.upClu | with_reducible refine Keep.foldl (fun _ _ _ => ?_) _ ?_ | with_reducible refine Keep.foldl1 (fun _ _ _ _ => ?_) _ ?_ | with_reducible refine Keep.foldl2 (fun _ _ _ _ => ?_) _ ?_ | with_reducible apply Keep.ite | extract_lets | split))); clear_value y) | ((have hy : Keep L o₀ y.1 := (by unfold y; repeat' (first | with_reducible assumption | with_reducible apply State.upTask_keep | with_reducible apply State.armTask_keep | with_reducible apply Keep.upClu | with_reducible refine Keep.foldl (fun _ _ _ => ?_) _ ?_ | with_reducible refine Keep.foldl1 (fun _ _ _ _ => ?_) _ ?_ | with_reducible refine Keep.foldl2 (fun _ _ _ _ => ?_) _ ?_ | with_reducible apply Keep.ite | extract_lets | split))); clear_value y) | ((have hy : Keep L o₀ y.2 := (by unfold y; repeat' (first | with_reducible assumption | with_reducible apply State.upTask_keep | with_reducible apply State.armTask_keep | with_reducible apply Keep.upClu | with_reducible refine Keep.foldl (fun _ _ _ => ?_) _ ?_ | with_reducible refine Keep.foldl1 (fun _ _ _ _ => ?_) _ ?_ | with_reducible refine Keep.foldl2 (fun _ _ _ _ => ?_) _ ?_ | with_reducible apply Keep.ite | extract_lets | split))); clear_value y) | clear_value y | skip))
    | split)

theorem State.sendAgain_keep {o₀ s : State} (hK : Keep L o₀ s) (t : Nat) (lNet : L.net = true := by first | rfl | assumption) (lEvr : L.evr = true := by first | rfl | assumption) : Keep L o₀ (State.sendAgain s t) := by
  unfold State.sendAgain
  repeat' (first
    | with_reducible assumption
    | with_reducible apply State.taskFrames_keep
    | with_reducible refine Keep.foldl (fun _ _ _ => ?_) _ ?_
    | with_reducible refine Keep.foldl1 (fun _ _ _ _ => ?_) _ ?_
    | with_reducible refine Keep.foldl2 (fun _ _ _ _ => ?_) _ ?_
    | with_reducible apply Keep.ite
    | split)

theorem State.markLaunches_keep {o₀ s : State} (hK : Keep L o₀ s) (t : Nat) (lTasks : L.tasks = true := by first | rfl | assumption) : Keep L o₀ (State.markLaunches s t) := by
  unfold State.markLaunches
  repeat' (first
    | with_reducible assumption
    | with_reducible apply State.upTask_keep
    | with_reducible refine Keep.foldl (fun _ _ _ => ?_) _ ?_
    | with_reducible refine Keep.foldl1 (fun _ _ _ _ => ?_) _ ?_
    | with_reducible refine Keep.foldl2 (fun _ _ _ _ => ?_) _ ?_
    | with_reducible apply Keep.ite
    | split)

theorem State.drivesLaunched_keep {o₀ s : State} (hK : Keep L o₀ s) (lFio : L.fio = true := by first | rfl | assumption) (lEvr : L.evr = true := by first | rfl | assumption) : Keep L o₀ (State.drivesLaunched s) := by
  unfold State.drivesLaunched
  repeat' (first
    | with_reducible assumption
    | with_reducible apply State.outputRelease_keep
    | with_reducible apply Keep.upFio
    | with_reducible apply Keep.ite
    | split)

theorem Store.takeOver_wf {x : Store} (h : x.wf) (beat : Nat) : (x.takeOver beat).wf := ⟨h.1, h.2, h.3, h.4, h.5⟩

theorem State.takeOver_keep {o₀ s : State} (hK : Keep L o₀ s) (t : Nat) (reason : Nat) (hand : Bool) (again : Bool) (lClk : L.clk = true := by first | rfl | assumption) (lClu : L.clu = true := by first | rfl | assumption) (lTasks : L.tasks = true := by first | rfl | assumption) (lSto : L.sto = true := by first | rfl | assumption) (lLdr : L.ldr = true := by first | rfl | assumption) (lCsw : L.csw = true := by first | rfl | assumption) (lFio : L.fio = true := by first | rfl | assumption) (lNet : L.net = true := by first | rfl | assumption) (lCan : L.can = true := by first | rfl | assumption) (lDict : L.dict = true := by first | rfl | assumption) (lWdg : L.wdg = true := by first | rfl | assumption) (lEvr : L.evr = true := by first | rfl | assumption) (lTrc : L.trc = true := by first | rfl | assumption) : Keep L o₀ (State.takeOver s t reason hand again) := by
  unfold State.takeOver
  extract_lets +onlyGivenNames gap s1 s2 s3
  have h3 : Keep L o₀ s3 := State.abandonSwap_keep (State.govern_keep (hK.upCsw _) _ _ _) _ _ _
  clear_value s3
  refine Keep.ite h3 ?_
  extract_lets +onlyGivenNames s4 s5 s6 s7
  have h5 : Keep L o₀ s5 := Keep.upClu (Keep.upClk (State.cswCause_keep (h3.upCsw _) _) _) _
  clear_value s5
  have h6 : Keep L o₀ s6 := (h5.upSto (fun xk => Store.takeOver_wf xk _)).upTasks _
  clear_value s6
  have h7 : Keep L o₀ s7 := (State.drivesLaunched_keep (State.requestAnchor_keep (State.traceMark_keep (State.canTakeover_keep h6) _))).upDict rfl
  clear_value s7
  refine Keep.ite (State.enterFailed_keep (State.modeRefuse_keep h7 _) _) ?_
  exact State.drain_keep (State.redrive_keep (Keep.ite (State.reexecuteAll_keep (State.markLaunches_keep (State.sendAgain_keep h7 _) _)) h7))

theorem State.switchover_keep {o₀ s : State} (hK : Keep L o₀ s) (kind : Nat) (t : Nat) (lCsw : L.csw = true := by first | rfl | assumption) (lNet : L.net = true := by first | rfl | assumption) (lDict : L.dict = true := by first | rfl | assumption) : Keep L o₀ (State.switchover s kind t) := by
  unfold State.switchover
  repeat' (first
    | with_reducible assumption
    | with_reducible apply State.modeRefuse_keep
    | with_reducible apply State.sendBoth_keep
    | with_reducible apply Keep.upCsw
    | with_reducible apply Keep.ite
    | (extract_lets +onlyGivenNames y; (first | ((have hy : Keep L o₀ y := (by unfold y; repeat' (first | with_reducible assumption | with_reducible apply State.modeRefuse_keep | with_reducible apply State.sendBoth_keep | with_reducible apply Keep.upCsw | with_reducible apply Keep.ite | extract_lets | split))); clear_value y) | clear_value y | skip))
    | split)

theorem State.abandonCmd_keep {o₀ s : State} (hK : Keep L o₀ s) (lLdr : L.ldr = true := by first | rfl | assumption) (lCsw : L.csw = true := by first | rfl | assumption) (lEvr : L.evr = true := by first | rfl | assumption) (lTrc : L.trc = true := by first | rfl | assumption) : Keep L o₀ (State.abandonCmd s) := by
  unfold State.abandonCmd
  repeat' (first
    | with_reducible assumption
    | with_reducible apply State.abandonSwap_keep
    | with_reducible apply State.cswCause_keep
    | with_reducible apply Keep.upCsw
    | with_reducible refine Keep.upLdr ?_ (fun xk => ?_)
    | exact xk
    | exact mem_nil_wf
    | with_reducible apply Keep.ite
    | split)

theorem State.switchCmd_keep {o₀ s : State} (hK : Keep L o₀ s) (v : Nat) (t : Nat) (lLdr : L.ldr = true := by first | rfl | assumption) (lCsw : L.csw = true := by first | rfl | assumption) (lNet : L.net = true := by first | rfl | assumption) (lDict : L.dict = true := by first | rfl | assumption) (lEvr : L.evr = true := by first | rfl | assumption) (lTrc : L.trc = true := by first | rfl | assumption) : Keep L o₀ (State.switchCmd s v t) := by
  unfold State.switchCmd
  repeat' (first
    | with_reducible assumption
    | with_reducible apply State.switchover_keep
    | with_reducible apply State.abandonCmd_keep
    | with_reducible apply Keep.ite
    | split)

theorem State.swapStores_keep {o s : State} (hK : Keep L o s) (lClu : L.clu = true := by first | rfl | assumption) (lTasks : L.tasks = true := by first | rfl | assumption) (lSto : L.sto = true := by first | rfl | assumption) (lLdr : L.ldr = true := by first | rfl | assumption) (lDict : L.dict = true := by first | rfl | assumption) (lEvr : L.evr = true := by first | rfl | assumption) (lTrc : L.trc = true := by first | rfl | assumption) : Keep L o (State.swapStores s) := by
  unfold State.swapStores
  extract_lets i conv u
  have hc : o.sto.wf ∧ o.ldr.conv.wf = true → conv.wf = true := fun x => (hK.1.1 x).2
  have hu : Keep L o u := State.recap_keep (State.placeImage_keep hK _)
  clear_value u conv
  exact Keep.upTasks (Keep.upClu (hu.upStoWith hc (fun hp xk =>
    ⟨xk.1, memRange_append_wf _ _ _ xk.2 hp, memRange_append_wf _ _ _ xk.2 hp, xk.4, xk.5⟩)) _) _

theorem State.goHandover_keep {o₀ s : State} (hK : Keep L o₀ s) (t : Nat) (lClk : L.clk = true := by first | rfl | assumption) (lClu : L.clu = true := by first | rfl | assumption) (lTasks : L.tasks = true := by first | rfl | assumption) (lSto : L.sto = true := by first | rfl | assumption) (lLdr : L.ldr = true := by first | rfl | assumption) (lCsw : L.csw = true := by first | rfl | assumption) (lFio : L.fio = true := by first | rfl | assumption) (lNet : L.net = true := by first | rfl | assumption) (lCan : L.can = true := by first | rfl | assumption) (lDict : L.dict = true := by first | rfl | assumption) (lWdg : L.wdg = true := by first | rfl | assumption) (lEvr : L.evr = true := by first | rfl | assumption) (lTrc : L.trc = true := by first | rfl | assumption) : Keep L o₀ (State.goHandover s t) := by
  unfold State.goHandover
  repeat' (first
    | with_reducible assumption
    | with_reducible apply State.swapStores_keep
    | with_reducible apply State.takeOver_keep
    | with_reducible apply State.cswCause_keep
    | with_reducible apply Keep.upCsw
    | with_reducible refine Keep.upLdr ?_ (fun xk => ?_)
    | exact xk
    | exact mem_nil_wf
    | with_reducible apply Keep.ite
    | (extract_lets +onlyGivenNames y; (first | ((have hy : Keep L o₀ y := (by unfold y; repeat' (first | with_reducible assumption | with_reducible apply State.swapStores_keep | with_reducible apply State.takeOver_keep | with_reducible apply State.cswCause_keep | with_reducible apply Keep.upCsw | with_reducible refine Keep.upLdr ?_ (fun xk => ?_) | exact xk | exact mem_nil_wf | with_reducible apply Keep.ite | extract_lets | split))); clear_value y) | clear_value y | skip))
    | split)

theorem State.sendGo_keep {o₀ s : State} (hK : Keep L o₀ s) (lSto : L.sto = true := by first | rfl | assumption) (lLdr : L.ldr = true := by first | rfl | assumption) (lCsw : L.csw = true := by first | rfl | assumption) (lNet : L.net = true := by first | rfl | assumption) (lWdg : L.wdg = true := by first | rfl | assumption) (lEvr : L.evr = true := by first | rfl | assumption) : Keep L o₀ (State.sendGo s) := by
  unfold State.sendGo
  repeat' (first
    | with_reducible assumption
    | with_reducible apply State.sendBoth_keep
    | with_reducible apply State.abandonOpen_keep
    | with_reducible apply State.toSyncing_keep
    | with_reducible apply State.transition_keep
    | with_reducible apply Keep.upCsw
    | with_reducible refine Keep.upSto ?_ (fun xk => ?_)
    | with_reducible exact xk
    | (with_reducible refine Store.wf.mk ?_ ?_ ?_ ?_ ?_ <;> try dsimp only)
    | with_reducible exact xk.program
    | with_reducible exact xk.lmem
    | with_reducible exact xk.durable
    | with_reducible exact xk.inView
    | with_reducible exact xk.launched
    | with_reducible apply memPut_wf
    | with_reducible apply ov_apply_wf
    | with_reducible apply memWrite_wf
    | with_reducible apply memClear_wf
    | with_reducible apply memRange_wf
    | with_reducible apply mem_nil_wf
    | with_reducible apply memOf_wf
    | with_reducible apply Keep.ite
    | (extract_lets +onlyGivenNames y; (first | ((have hy : Keep L o₀ y := (by unfold y; repeat' (first | with_reducible assumption | with_reducible apply State.sendBoth_keep | with_reducible apply State.abandonOpen_keep | with_reducible apply State.toSyncing_keep | with_reducible apply State.transition_keep | with_reducible apply Keep.upCsw | with_reducible refine Keep.upSto ?_ (fun xk => ?_) | with_reducible exact xk | (with_reducible refine Store.wf.mk ?_ ?_ ?_ ?_ ?_ <;> try dsimp only) | with_reducible exact xk.program | with_reducible exact xk.lmem | with_reducible exact xk.durable | with_reducible exact xk.inView | with_reducible exact xk.launched | with_reducible apply memPut_wf | with_reducible apply ov_apply_wf | with_reducible apply memWrite_wf | with_reducible apply memClear_wf | with_reducible apply memRange_wf | with_reducible apply mem_nil_wf | with_reducible apply memOf_wf | with_reducible apply Keep.ite | extract_lets | split))); clear_value y) | clear_value y | skip))
    | split)

theorem State.streamFrame_keep {o₀ s : State} (hK : Keep L o₀ s) (t : Nat) (f : List Byte) (env : CwIn) (lClk : L.clk = true := by first | rfl | assumption) (lClu : L.clu = true := by first | rfl | assumption) (lTasks : L.tasks = true := by first | rfl | assumption) (lSto : L.sto = true := by first | rfl | assumption) (lLdr : L.ldr = true := by first | rfl | assumption) (lCsw : L.csw = true := by first | rfl | assumption) (lFio : L.fio = true := by first | rfl | assumption) (lNet : L.net = true := by first | rfl | assumption) (lCan : L.can = true := by first | rfl | assumption) (lDict : L.dict = true := by first | rfl | assumption) (lWdg : L.wdg = true := by first | rfl | assumption) (lEvr : L.evr = true := by first | rfl | assumption) (lTrc : L.trc = true := by first | rfl | assumption) : Keep L o₀ (State.streamFrame s t f env) := by
  unfold State.streamFrame
  repeat' (first
    | with_reducible assumption
    | with_reducible apply State.cwDiscard_keep
    | with_reducible apply State.streamIn_keep
    | with_reducible apply State.goHandover_keep
    | with_reducible apply Keep.ite
    | split)

theorem State.failFrame_keep {o₀ s : State} (hK : Keep L o₀ s) (p : List Byte) (lClk : L.clk = true := by first | rfl | assumption) (lClu : L.clu = true := by first | rfl | assumption) (lSto : L.sto = true := by first | rfl | assumption) (lLdr : L.ldr = true := by first | rfl | assumption) (lCsw : L.csw = true := by first | rfl | assumption) (lNet : L.net = true := by first | rfl | assumption) (lCan : L.can = true := by first | rfl | assumption) (lDict : L.dict = true := by first | rfl | assumption) (lHost : L.host = true := by first | rfl | assumption) (lWdg : L.wdg = true := by first | rfl | assumption) (lEvr : L.evr = true := by first | rfl | assumption) (lTrc : L.trc = true := by first | rfl | assumption) (lRtc : L.rtc = true := by first | rfl | assumption) (lPwr : L.pwr = true := by first | rfl | assumption) : Keep L o₀ (State.failFrame s p) := by
  unfold State.failFrame
  repeat' (first
    | with_reducible assumption
    | with_reducible apply State.cswCause_keep
    | with_reducible apply State.partnerLost_keep
    | with_reducible apply Keep.ite
    | (extract_lets +onlyGivenNames y; (first | ((have hy : Keep L o₀ y := (by unfold y; repeat' (first | with_reducible assumption | with_reducible apply State.cswCause_keep | with_reducible apply State.partnerLost_keep | with_reducible apply Keep.ite | extract_lets | split))); clear_value y) | clear_value y | skip))
    | split)

theorem State.cwErrors_keep {o₀ s : State} (hK : Keep L o₀ s) (l : List Ecc) (lSto : L.sto = true := by first | rfl | assumption) (lHost : L.host = true := by first | rfl | assumption) (lEvr : L.evr = true := by first | rfl | assumption) : Keep L o₀ (State.cwErrors s l) := by
  unfold State.cwErrors
  repeat' (first
    | with_reducible assumption
    | with_reducible apply State.uncorrectable_keep
    | with_reducible apply State.corrected_keep
    | with_reducible refine Keep.foldl (fun _ _ _ => ?_) _ ?_
    | with_reducible refine Keep.foldl1 (fun _ _ _ _ => ?_) _ ?_
    | with_reducible refine Keep.foldl2 (fun _ _ _ _ => ?_) _ ?_
    | with_reducible apply Keep.ite
    | split)

theorem State.cwArrives_keep {o₀ s : State} (hK : Keep L o₀ s) (lane : Nat) (t : Nat) (f : List Byte) (env : CwIn) (lClk : L.clk = true := by first | rfl | assumption) (lClu : L.clu = true := by first | rfl | assumption) (lTasks : L.tasks = true := by first | rfl | assumption) (lSto : L.sto = true := by first | rfl | assumption) (lLdr : L.ldr = true := by first | rfl | assumption) (lCsw : L.csw = true := by first | rfl | assumption) (lFio : L.fio = true := by first | rfl | assumption) (lNet : L.net = true := by first | rfl | assumption) (lCan : L.can = true := by first | rfl | assumption) (lDict : L.dict = true := by first | rfl | assumption) (lHost : L.host = true := by first | rfl | assumption) (lWdg : L.wdg = true := by first | rfl | assumption) (lEvr : L.evr = true := by first | rfl | assumption) (lTrc : L.trc = true := by first | rfl | assumption) (lRtc : L.rtc = true := by first | rfl | assumption) (lPwr : L.pwr = true := by first | rfl | assumption) : Keep L o₀ (State.cwArrives s lane t f env) := by
  unfold State.cwArrives
  repeat' (first
    | with_reducible assumption
    | with_reducible apply State.reach_keep
    | with_reducible apply State.cwErrors_keep
    | with_reducible apply State.cwDiscard_keep
    | with_reducible apply State.negotiate_keep
    | with_reducible apply State.partnerRoleSeen_keep
    | with_reducible apply State.heartbeatIn_keep
    | with_reducible apply State.streamFrame_keep
    | with_reducible apply State.failFrame_keep
    | with_reducible apply State.goHandover_keep
    | with_reducible apply Keep.upCsw
    | with_reducible apply Keep.ite
    | (extract_lets +onlyGivenNames y; (first | ((have hy : Keep L o₀ y := (by unfold y; repeat' (first | with_reducible assumption | with_reducible apply State.reach_keep | with_reducible apply State.cwErrors_keep | with_reducible apply State.cwDiscard_keep | with_reducible apply State.negotiate_keep | with_reducible apply State.partnerRoleSeen_keep | with_reducible apply State.heartbeatIn_keep | with_reducible apply State.streamFrame_keep | with_reducible apply State.failFrame_keep | with_reducible apply State.goHandover_keep | with_reducible apply Keep.upCsw | with_reducible apply Keep.ite | extract_lets | split))); clear_value y) | clear_value y | skip))
    | split)

theorem State.claimSeen_keep {o₀ s : State} (hK : Keep L o₀ s) (lSto : L.sto = true := by first | rfl | assumption) (lLdr : L.ldr = true := by first | rfl | assumption) (lCsw : L.csw = true := by first | rfl | assumption) (lFio : L.fio = true := by first | rfl | assumption) (lNet : L.net = true := by first | rfl | assumption) (lHost : L.host = true := by first | rfl | assumption) (lWdg : L.wdg = true := by first | rfl | assumption) (lEvr : L.evr = true := by first | rfl | assumption) (lPwr : L.pwr = true := by first | rfl | assumption) : Keep L o₀ (State.claimSeen s) := by
  unfold State.claimSeen
  repeat' (first
    | with_reducible assumption
    | with_reducible apply State.loseNegotiation_keep
    | with_reducible apply Keep.upCsw
    | with_reducible apply Keep.ite
    | (extract_lets +onlyGivenNames y; (first | ((have hy : Keep L o₀ y := (by unfold y; repeat' (first | with_reducible assumption | with_reducible apply State.loseNegotiation_keep | with_reducible apply Keep.upCsw | with_reducible apply Keep.ite | extract_lets | split))); clear_value y) | clear_value y | skip))
    | split)

theorem State.idleSeen_keep {o₀ s : State} (hK : Keep L o₀ s) (t : Nat) (lClk : L.clk = true := by first | rfl | assumption) (lClu : L.clu = true := by first | rfl | assumption) (lSto : L.sto = true := by first | rfl | assumption) (lLdr : L.ldr = true := by first | rfl | assumption) (lCsw : L.csw = true := by first | rfl | assumption) (lNet : L.net = true := by first | rfl | assumption) (lCan : L.can = true := by first | rfl | assumption) (lDict : L.dict = true := by first | rfl | assumption) (lHost : L.host = true := by first | rfl | assumption) (lWdg : L.wdg = true := by first | rfl | assumption) (lEvr : L.evr = true := by first | rfl | assumption) (lTrc : L.trc = true := by first | rfl | assumption) (lRtc : L.rtc = true := by first | rfl | assumption) (lPwr : L.pwr = true := by first | rfl | assumption) : Keep L o₀ (State.idleSeen s t) := by
  unfold State.idleSeen
  repeat' (first
    | with_reducible assumption
    | with_reducible apply State.partnerLost_keep
    | with_reducible apply Keep.upCsw
    | with_reducible apply Keep.ite
    | (extract_lets +onlyGivenNames y; (first | ((have hy : Keep L o₀ y := (by unfold y; repeat' (first | with_reducible assumption | with_reducible apply State.partnerLost_keep | with_reducible apply Keep.upCsw | with_reducible apply Keep.ite | extract_lets | split))); clear_value y) | clear_value y | skip))
    | split)

theorem State.burstMissing_keep {o₀ s : State} (hK : Keep L o₀ s) (lClk : L.clk = true := by first | rfl | assumption) (lClu : L.clu = true := by first | rfl | assumption) (lSto : L.sto = true := by first | rfl | assumption) (lLdr : L.ldr = true := by first | rfl | assumption) (lCsw : L.csw = true := by first | rfl | assumption) (lNet : L.net = true := by first | rfl | assumption) (lCan : L.can = true := by first | rfl | assumption) (lDict : L.dict = true := by first | rfl | assumption) (lHost : L.host = true := by first | rfl | assumption) (lWdg : L.wdg = true := by first | rfl | assumption) (lEvr : L.evr = true := by first | rfl | assumption) (lTrc : L.trc = true := by first | rfl | assumption) (lRtc : L.rtc = true := by first | rfl | assumption) (lPwr : L.pwr = true := by first | rfl | assumption) : Keep L o₀ (State.burstMissing s) := by
  unfold State.burstMissing
  repeat' (first
    | with_reducible assumption
    | with_reducible apply State.cswCause_keep
    | with_reducible apply State.partnerSilent_keep
    | with_reducible apply Keep.upCsw
    | with_reducible apply Keep.ite
    | (extract_lets +onlyGivenNames y; (first | ((have hy : Keep L o₀ y := (by unfold y; repeat' (first | with_reducible assumption | with_reducible apply State.cswCause_keep | with_reducible apply State.partnerSilent_keep | with_reducible apply Keep.upCsw | with_reducible apply Keep.ite | extract_lets | split))); clear_value y) | clear_value y | skip))
    | split)

theorem State.cwaCycle_keep {o₀ s : State} (hK : Keep L o₀ s) (t : Nat) (burst : Option Byte) (lClk : L.clk = true := by first | rfl | assumption) (lClu : L.clu = true := by first | rfl | assumption) (lSto : L.sto = true := by first | rfl | assumption) (lLdr : L.ldr = true := by first | rfl | assumption) (lCsw : L.csw = true := by first | rfl | assumption) (lFio : L.fio = true := by first | rfl | assumption) (lNet : L.net = true := by first | rfl | assumption) (lCan : L.can = true := by first | rfl | assumption) (lDict : L.dict = true := by first | rfl | assumption) (lHost : L.host = true := by first | rfl | assumption) (lWdg : L.wdg = true := by first | rfl | assumption) (lEvr : L.evr = true := by first | rfl | assumption) (lTrc : L.trc = true := by first | rfl | assumption) (lRtc : L.rtc = true := by first | rfl | assumption) (lPwr : L.pwr = true := by first | rfl | assumption) : Keep L o₀ (State.cwaCycle s t burst) := by
  unfold State.cwaCycle
  repeat' (first
    | with_reducible assumption
    | with_reducible apply State.reach_keep
    | with_reducible apply State.send_keep
    | with_reducible apply State.burstMissing_keep
    | with_reducible apply State.claimSeen_keep
    | with_reducible apply State.idleSeen_keep
    | with_reducible apply Keep.upCsw
    | with_reducible apply Keep.ite
    | (extract_lets +onlyGivenNames y; (first | ((have hy : Keep L o₀ y := (by unfold y; repeat' (first | with_reducible assumption | with_reducible apply State.reach_keep | with_reducible apply State.send_keep | with_reducible apply State.burstMissing_keep | with_reducible apply State.claimSeen_keep | with_reducible apply State.idleSeen_keep | with_reducible apply Keep.upCsw | with_reducible apply Keep.ite | extract_lets | split))); clear_value y) | clear_value y | skip))
    | split)

theorem execHeartbeatSend_keep {s s₂ : State} (t : Nat) (hx : execHeartbeatSend t s = .next s₂) (lClk : L.clk = true := by first | rfl | assumption) (lNet : L.net = true := by first | rfl | assumption) : Keep L s s₂ := by
  unfold execHeartbeatSend at hx
  with_reducible refine Keep.commit ?_ hx
  clear hx
  have hK := Keep.refl (L := L) s
  repeat' (first
    | with_reducible assumption
    | with_reducible apply State.reach_keep
    | with_reducible apply State.sendBoth_keep
    | with_reducible apply Keep.ite
    | (extract_lets +onlyGivenNames y; (first | ((have hy : Keep L s y := (by unfold y; repeat' (first | with_reducible assumption | with_reducible apply State.reach_keep | with_reducible apply State.sendBoth_keep | with_reducible apply Keep.ite | extract_lets | split))); clear_value y) | clear_value y | skip))
    | split)

theorem execHeartbeatReceive_keep {s s₂ : State} (lane : Nat) (t : Nat) (frame : List Byte) (env : CwIn) (hx : execHeartbeatReceive lane t frame env s = .next s₂) (lClk : L.clk = true := by first | rfl | assumption) (lClu : L.clu = true := by first | rfl | assumption) (lTasks : L.tasks = true := by first | rfl | assumption) (lSto : L.sto = true := by first | rfl | assumption) (lLdr : L.ldr = true := by first | rfl | assumption) (lCsw : L.csw = true := by first | rfl | assumption) (lFio : L.fio = true := by first | rfl | assumption) (lNet : L.net = true := by first | rfl | assumption) (lCan : L.can = true := by first | rfl | assumption) (lDict : L.dict = true := by first | rfl | assumption) (lHost : L.host = true := by first | rfl | assumption) (lWdg : L.wdg = true := by first | rfl | assumption) (lEvr : L.evr = true := by first | rfl | assumption) (lTrc : L.trc = true := by first | rfl | assumption) (lRtc : L.rtc = true := by first | rfl | assumption) (lPwr : L.pwr = true := by first | rfl | assumption) : Keep L s s₂ := by
  unfold execHeartbeatReceive at hx
  with_reducible refine Keep.commit ?_ hx
  clear hx
  have hK := Keep.refl (L := L) s
  repeat' (first
    | with_reducible assumption
    | with_reducible apply State.cwArrives_keep
    | with_reducible apply Keep.ite
    | split)

theorem execHeartbeatLost_keep {s s₂ : State} (t : Nat) (hx : execHeartbeatLost t s = .next s₂) (lClk : L.clk = true := by first | rfl | assumption) (lClu : L.clu = true := by first | rfl | assumption) (lSto : L.sto = true := by first | rfl | assumption) (lLdr : L.ldr = true := by first | rfl | assumption) (lCsw : L.csw = true := by first | rfl | assumption) (lNet : L.net = true := by first | rfl | assumption) (lCan : L.can = true := by first | rfl | assumption) (lDict : L.dict = true := by first | rfl | assumption) (lHost : L.host = true := by first | rfl | assumption) (lWdg : L.wdg = true := by first | rfl | assumption) (lEvr : L.evr = true := by first | rfl | assumption) (lTrc : L.trc = true := by first | rfl | assumption) (lRtc : L.rtc = true := by first | rfl | assumption) (lPwr : L.pwr = true := by first | rfl | assumption) : Keep L s s₂ := by
  unfold execHeartbeatLost at hx
  with_reducible refine Keep.commit ?_ hx
  clear hx
  have hK := Keep.refl (L := L) s
  repeat' (first
    | with_reducible assumption
    | with_reducible apply State.reach_keep
    | with_reducible apply State.cswCause_keep
    | with_reducible apply State.partnerSilent_keep
    | with_reducible apply State.losePartner_keep
    | with_reducible apply State.fallBack_keep
    | with_reducible apply Keep.upCsw
    | with_reducible apply Keep.ite
    | (extract_lets +onlyGivenNames y; (first | ((have hy : Keep L s y := (by unfold y; repeat' (first | with_reducible assumption | with_reducible apply State.reach_keep | with_reducible apply State.cswCause_keep | with_reducible apply State.partnerSilent_keep | with_reducible apply State.losePartner_keep | with_reducible apply State.fallBack_keep | with_reducible apply Keep.upCsw | with_reducible apply Keep.ite | extract_lets | split))); clear_value y) | clear_value y | skip))
    | split)

theorem execLaneDown_keep {s s₂ : State} (lane : Nat) (hx : execLaneDown lane s = .next s₂) (lLdr : L.ldr = true := by first | rfl | assumption) (lCsw : L.csw = true := by first | rfl | assumption) (lNet : L.net = true := by first | rfl | assumption) (lWdg : L.wdg = true := by first | rfl | assumption) (lEvr : L.evr = true := by first | rfl | assumption) : Keep L s s₂ := by
  unfold execLaneDown at hx
  with_reducible refine Keep.commit ?_ hx
  clear hx
  have hK := Keep.refl (L := L) s
  repeat' (first
    | with_reducible assumption
    | with_reducible apply State.cswCause_keep
    | with_reducible apply State.fallBack_keep
    | with_reducible apply Keep.upCsw
    | with_reducible apply Keep.ite
    | (extract_lets +onlyGivenNames y; (first | ((have hy : Keep L s y := (by unfold y; repeat' (first | with_reducible assumption | with_reducible apply State.cswCause_keep | with_reducible apply State.fallBack_keep | with_reducible apply Keep.upCsw | with_reducible apply Keep.ite | extract_lets | split))); clear_value y) | clear_value y | skip))
    | split)

theorem execCwaCycle_keep {s s₂ : State} (t : Nat) (burst : Option Byte) (hx : execCwaCycle t burst s = .next s₂) (lClk : L.clk = true := by first | rfl | assumption) (lClu : L.clu = true := by first | rfl | assumption) (lSto : L.sto = true := by first | rfl | assumption) (lLdr : L.ldr = true := by first | rfl | assumption) (lCsw : L.csw = true := by first | rfl | assumption) (lFio : L.fio = true := by first | rfl | assumption) (lNet : L.net = true := by first | rfl | assumption) (lCan : L.can = true := by first | rfl | assumption) (lDict : L.dict = true := by first | rfl | assumption) (lHost : L.host = true := by first | rfl | assumption) (lWdg : L.wdg = true := by first | rfl | assumption) (lEvr : L.evr = true := by first | rfl | assumption) (lTrc : L.trc = true := by first | rfl | assumption) (lRtc : L.rtc = true := by first | rfl | assumption) (lPwr : L.pwr = true := by first | rfl | assumption) : Keep L s s₂ := by
  unfold execCwaCycle at hx
  with_reducible refine Keep.commit ?_ hx
  clear hx
  have hK := Keep.refl (L := L) s
  repeat' (first
    | with_reducible assumption
    | with_reducible apply State.cwaCycle_keep
    | with_reducible apply Keep.ite
    | split)

theorem execCwaMasterTakeover_keep {s s₂ : State} (hx : execCwaMasterTakeover s = .next s₂) (lClk : L.clk = true := by first | rfl | assumption) (lClu : L.clu = true := by first | rfl | assumption) (lSto : L.sto = true := by first | rfl | assumption) (lLdr : L.ldr = true := by first | rfl | assumption) (lCsw : L.csw = true := by first | rfl | assumption) (lNet : L.net = true := by first | rfl | assumption) (lCan : L.can = true := by first | rfl | assumption) (lDict : L.dict = true := by first | rfl | assumption) (lHost : L.host = true := by first | rfl | assumption) (lWdg : L.wdg = true := by first | rfl | assumption) (lEvr : L.evr = true := by first | rfl | assumption) (lTrc : L.trc = true := by first | rfl | assumption) (lRtc : L.rtc = true := by first | rfl | assumption) (lPwr : L.pwr = true := by first | rfl | assumption) : Keep L s s₂ := by
  unfold execCwaMasterTakeover at hx
  with_reducible refine Keep.commit ?_ hx
  clear hx
  have hK := Keep.refl (L := L) s
  repeat' (first
    | with_reducible assumption
    | with_reducible apply State.burstMissing_keep
    | with_reducible apply Keep.upCsw
    | with_reducible apply Keep.ite
    | (extract_lets +onlyGivenNames y; (first | ((have hy : Keep L s y := (by unfold y; repeat' (first | with_reducible assumption | with_reducible apply State.burstMissing_keep | with_reducible apply Keep.upCsw | with_reducible apply Keep.ite | extract_lets | split))); clear_value y) | clear_value y | skip))
    | split)

theorem execNegotiateSend_keep {s s₂ : State} (t : Nat) (hx : execNegotiateSend t s = .next s₂) (lClk : L.clk = true := by first | rfl | assumption) (lNet : L.net = true := by first | rfl | assumption) : Keep L s s₂ := by
  unfold execNegotiateSend at hx
  with_reducible refine Keep.commit ?_ hx
  clear hx
  have hK := Keep.refl (L := L) s
  repeat' (first
    | with_reducible assumption
    | with_reducible apply State.reach_keep
    | with_reducible apply State.send_keep
    | with_reducible apply Keep.ite
    | (extract_lets +onlyGivenNames y; (first | ((have hy : Keep L s y := (by unfold y; repeat' (first | with_reducible assumption | with_reducible apply State.reach_keep | with_reducible apply State.send_keep | with_reducible apply Keep.ite | extract_lets | split))); clear_value y) | clear_value y | skip))
    | split)

theorem execNegotiateReceive_keep {s s₂ : State} (lane : Nat) (t : Nat) (frame : List Byte) (env : CwIn) (hx : execNegotiateReceive lane t frame env s = .next s₂) (lClk : L.clk = true := by first | rfl | assumption) (lClu : L.clu = true := by first | rfl | assumption) (lTasks : L.tasks = true := by first | rfl | assumption) (lSto : L.sto = true := by first | rfl | assumption) (lLdr : L.ldr = true := by first | rfl | assumption) (lCsw : L.csw = true := by first | rfl | assumption) (lFio : L.fio = true := by first | rfl | assumption) (lNet : L.net = true := by first | rfl | assumption) (lCan : L.can = true := by first | rfl | assumption) (lDict : L.dict = true := by first | rfl | assumption) (lHost : L.host = true := by first | rfl | assumption) (lWdg : L.wdg = true := by first | rfl | assumption) (lEvr : L.evr = true := by first | rfl | assumption) (lTrc : L.trc = true := by first | rfl | assumption) (lRtc : L.rtc = true := by first | rfl | assumption) (lPwr : L.pwr = true := by first | rfl | assumption) : Keep L s s₂ := by
  unfold execNegotiateReceive at hx
  with_reducible refine Keep.commit ?_ hx
  clear hx
  have hK := Keep.refl (L := L) s
  repeat' (first
    | with_reducible assumption
    | with_reducible apply State.cwArrives_keep
    | with_reducible apply Keep.ite
    | split)

theorem execNegotiationTimeout_keep {s s₂ : State} (t : Nat) (hx : execNegotiationTimeout t s = .next s₂) (lClk : L.clk = true := by first | rfl | assumption) (lClu : L.clu = true := by first | rfl | assumption) (lSto : L.sto = true := by first | rfl | assumption) (lCsw : L.csw = true := by first | rfl | assumption) (lFio : L.fio = true := by first | rfl | assumption) (lNet : L.net = true := by first | rfl | assumption) (lCan : L.can = true := by first | rfl | assumption) (lHost : L.host = true := by first | rfl | assumption) (lWdg : L.wdg = true := by first | rfl | assumption) (lEvr : L.evr = true := by first | rfl | assumption) (lTrc : L.trc = true := by first | rfl | assumption) (lPwr : L.pwr = true := by first | rfl | assumption) : Keep L s s₂ := by
  unfold execNegotiationTimeout at hx
  with_reducible refine Keep.commit ?_ hx
  clear hx
  have hK := Keep.refl (L := L) s
  repeat' (first
    | with_reducible assumption
    | with_reducible apply State.reach_keep
    | with_reducible apply State.winNegotiation_keep
    | with_reducible apply Keep.ite
    | (extract_lets +onlyGivenNames y; (first | ((have hy : Keep L s y := (by unfold y; repeat' (first | with_reducible assumption | with_reducible apply State.reach_keep | with_reducible apply State.winNegotiation_keep | with_reducible apply Keep.ite | extract_lets | split))); clear_value y) | clear_value y | skip))
    | split)

theorem execMilestoneTransfer_keep {s s₂ : State} (hx : execMilestoneTransfer s = .next s₂) (lCsw : L.csw = true := by first | rfl | assumption) (lNet : L.net = true := by first | rfl | assumption) : Keep L s s₂ := by
  unfold execMilestoneTransfer at hx
  with_reducible refine Keep.commit ?_ hx
  clear hx
  have hK := Keep.refl (L := L) s
  repeat' (first
    | with_reducible assumption
    | with_reducible apply State.sendMilestone_keep
    | with_reducible apply Keep.ite
    | split)

theorem execCausewayTransferDone_keep {s s₂ : State} (hx : execCausewayTransferDone s = .next s₂) (lSto : L.sto = true := by first | rfl | assumption) (lCsw : L.csw = true := by first | rfl | assumption) : Keep L s s₂ := by
  unfold execCausewayTransferDone at hx
  with_reducible refine Keep.commit ?_ hx
  clear hx
  have hK := Keep.refl (L := L) s
  repeat' (first
    | with_reducible assumption
    | with_reducible apply State.upOther_keep
    | with_reducible apply Keep.upCsw
    | with_reducible apply Keep.ite
    | (extract_lets +onlyGivenNames y; (first | ((have hy : Keep L s y := (by unfold y; repeat' (first | with_reducible assumption | with_reducible apply State.upOther_keep | with_reducible apply Keep.upCsw | with_reducible apply Keep.ite | extract_lets | split))); clear_value y) | clear_value y | skip))
    | split)

theorem execStreamReceive_keep {s s₂ : State} (lane : Nat) (t : Nat) (frame : List Byte) (env : CwIn) (hx : execStreamReceive lane t frame env s = .next s₂) (lClk : L.clk = true := by first | rfl | assumption) (lClu : L.clu = true := by first | rfl | assumption) (lTasks : L.tasks = true := by first | rfl | assumption) (lSto : L.sto = true := by first | rfl | assumption) (lLdr : L.ldr = true := by first | rfl | assumption) (lCsw : L.csw = true := by first | rfl | assumption) (lFio : L.fio = true := by first | rfl | assumption) (lNet : L.net = true := by first | rfl | assumption) (lCan : L.can = true := by first | rfl | assumption) (lDict : L.dict = true := by first | rfl | assumption) (lHost : L.host = true := by first | rfl | assumption) (lWdg : L.wdg = true := by first | rfl | assumption) (lEvr : L.evr = true := by first | rfl | assumption) (lTrc : L.trc = true := by first | rfl | assumption) (lRtc : L.rtc = true := by first | rfl | assumption) (lPwr : L.pwr = true := by first | rfl | assumption) : Keep L s s₂ := by
  unfold execStreamReceive at hx
  with_reducible refine Keep.commit ?_ hx
  clear hx
  have hK := Keep.refl (L := L) s
  repeat' (first
    | with_reducible assumption
    | with_reducible apply State.cwArrives_keep
    | with_reducible apply Keep.ite
    | split)

theorem execResendTimeout_keep {s s₂ : State} (hx : execResendTimeout s = .next s₂) (lSto : L.sto = true := by first | rfl | assumption) (lCsw : L.csw = true := by first | rfl | assumption) (lNet : L.net = true := by first | rfl | assumption) : Keep L s s₂ := by
  unfold execResendTimeout at hx
  with_reducible refine Keep.commit ?_ hx
  clear hx
  have hK := Keep.refl (L := L) s
  repeat' (first
    | with_reducible assumption
    | with_reducible apply State.resend_keep
    | with_reducible apply Keep.ite
    | split)

theorem execBulkSend_keep {s s₂ : State} (n : Nat) (hx : execBulkSend n s = .next s₂) (lCsw : L.csw = true := by first | rfl | assumption) (lNet : L.net = true := by first | rfl | assumption) : Keep L s s₂ := by
  unfold execBulkSend at hx
  with_reducible refine Keep.commit ?_ hx
  clear hx
  have hK := Keep.refl (L := L) s
  repeat' (first
    | with_reducible assumption
    | with_reducible apply State.sendBulk_keep
    | with_reducible apply Keep.ite
    | split)

theorem execFailReceive_keep {s s₂ : State} (lane : Nat) (t : Nat) (frame : List Byte) (env : CwIn) (hx : execFailReceive lane t frame env s = .next s₂) (lClk : L.clk = true := by first | rfl | assumption) (lClu : L.clu = true := by first | rfl | assumption) (lTasks : L.tasks = true := by first | rfl | assumption) (lSto : L.sto = true := by first | rfl | assumption) (lLdr : L.ldr = true := by first | rfl | assumption) (lCsw : L.csw = true := by first | rfl | assumption) (lFio : L.fio = true := by first | rfl | assumption) (lNet : L.net = true := by first | rfl | assumption) (lCan : L.can = true := by first | rfl | assumption) (lDict : L.dict = true := by first | rfl | assumption) (lHost : L.host = true := by first | rfl | assumption) (lWdg : L.wdg = true := by first | rfl | assumption) (lEvr : L.evr = true := by first | rfl | assumption) (lTrc : L.trc = true := by first | rfl | assumption) (lRtc : L.rtc = true := by first | rfl | assumption) (lPwr : L.pwr = true := by first | rfl | assumption) : Keep L s s₂ := by
  unfold execFailReceive at hx
  with_reducible refine Keep.commit ?_ hx
  clear hx
  have hK := Keep.refl (L := L) s
  repeat' (first
    | with_reducible assumption
    | with_reducible apply State.cwArrives_keep
    | with_reducible apply Keep.ite
    | split)

theorem execTakeoverExecute_keep {s s₂ : State} (t : Nat) (hx : execTakeoverExecute t s = .next s₂) (lClk : L.clk = true := by first | rfl | assumption) (lClu : L.clu = true := by first | rfl | assumption) (lTasks : L.tasks = true := by first | rfl | assumption) (lSto : L.sto = true := by first | rfl | assumption) (lLdr : L.ldr = true := by first | rfl | assumption) (lCsw : L.csw = true := by first | rfl | assumption) (lFio : L.fio = true := by first | rfl | assumption) (lNet : L.net = true := by first | rfl | assumption) (lCan : L.can = true := by first | rfl | assumption) (lDict : L.dict = true := by first | rfl | assumption) (lWdg : L.wdg = true := by first | rfl | assumption) (lEvr : L.evr = true := by first | rfl | assumption) (lTrc : L.trc = true := by first | rfl | assumption) : Keep L s s₂ := by
  unfold execTakeoverExecute at hx
  with_reducible refine Keep.commit ?_ hx
  clear hx
  have hK := Keep.refl (L := L) s
  repeat' (first
    | with_reducible assumption
    | with_reducible apply State.reach_keep
    | with_reducible apply State.takeOver_keep
    | with_reducible apply Keep.ite
    | (extract_lets +onlyGivenNames y; (first | ((have hy : Keep L s y := (by unfold y; repeat' (first | with_reducible assumption | with_reducible apply State.reach_keep | with_reducible apply State.takeOver_keep | with_reducible apply Keep.ite | extract_lets | split))); clear_value y) | clear_value y | skip))
    | split)

theorem execTermConfirmTimeout_keep {s s₂ : State} (t : Nat) (hx : execTermConfirmTimeout t s = .next s₂) (lClk : L.clk = true := by first | rfl | assumption) (lClu : L.clu = true := by first | rfl | assumption) (lSto : L.sto = true := by first | rfl | assumption) (lCsw : L.csw = true := by first | rfl | assumption) (lNet : L.net = true := by first | rfl | assumption) (lCan : L.can = true := by first | rfl | assumption) (lWdg : L.wdg = true := by first | rfl | assumption) (lEvr : L.evr = true := by first | rfl | assumption) (lTrc : L.trc = true := by first | rfl | assumption) : Keep L s s₂ := by
  unfold execTermConfirmTimeout at hx
  with_reducible refine Keep.commit ?_ hx
  clear hx
  have hK := Keep.refl (L := L) s
  repeat' (first
    | with_reducible assumption
    | with_reducible apply State.reach_keep
    | with_reducible apply State.enterFailed_keep
    | with_reducible apply Keep.upCsw
    | with_reducible apply Keep.ite
    | (extract_lets +onlyGivenNames y; (first | ((have hy : Keep L s y := (by unfold y; repeat' (first | with_reducible assumption | with_reducible apply State.reach_keep | with_reducible apply State.enterFailed_keep | with_reducible apply Keep.upCsw | with_reducible apply Keep.ite | extract_lets | split))); clear_value y) | clear_value y | skip))
    | split)

theorem execHandoverReceive_keep {s s₂ : State} (lane : Nat) (t : Nat) (frame : List Byte) (env : CwIn) (hx : execHandoverReceive lane t frame env s = .next s₂) (lClk : L.clk = true := by first | rfl | assumption) (lClu : L.clu = true := by first | rfl | assumption) (lTasks : L.tasks = true := by first | rfl | assumption) (lSto : L.sto = true := by first | rfl | assumption) (lLdr : L.ldr = true := by first | rfl | assumption) (lCsw : L.csw = true := by first | rfl | assumption) (lFio : L.fio = true := by first | rfl | assumption) (lNet : L.net = true := by first | rfl | assumption) (lCan : L.can = true := by first | rfl | assumption) (lDict : L.dict = true := by first | rfl | assumption) (lHost : L.host = true := by first | rfl | assumption) (lWdg : L.wdg = true := by first | rfl | assumption) (lEvr : L.evr = true := by first | rfl | assumption) (lTrc : L.trc = true := by first | rfl | assumption) (lRtc : L.rtc = true := by first | rfl | assumption) (lPwr : L.pwr = true := by first | rfl | assumption) : Keep L s s₂ := by
  unfold execHandoverReceive at hx
  with_reducible refine Keep.commit ?_ hx
  clear hx
  have hK := Keep.refl (L := L) s
  repeat' (first
    | with_reducible assumption
    | with_reducible apply State.cwArrives_keep
    | with_reducible apply Keep.ite
    | split)

theorem execHandoverGoSend_keep {s s₂ : State} (t : Nat) (hx : execHandoverGoSend t s = .next s₂) (lClk : L.clk = true := by first | rfl | assumption) (lSto : L.sto = true := by first | rfl | assumption) (lLdr : L.ldr = true := by first | rfl | assumption) (lCsw : L.csw = true := by first | rfl | assumption) (lNet : L.net = true := by first | rfl | assumption) (lWdg : L.wdg = true := by first | rfl | assumption) (lEvr : L.evr = true := by first | rfl | assumption) : Keep L s s₂ := by
  unfold execHandoverGoSend at hx
  with_reducible refine Keep.commit ?_ hx
  clear hx
  have hK := Keep.refl (L := L) s
  repeat' (first
    | with_reducible assumption
    | with_reducible apply State.reach_keep
    | with_reducible apply State.sendGo_keep
    | with_reducible apply Keep.ite
    | split)

theorem execHandoverGoReceive_keep {s s₂ : State} (lane : Nat) (t : Nat) (frame : List Byte) (env : CwIn) (hx : execHandoverGoReceive lane t frame env s = .next s₂) (lClk : L.clk = true := by first | rfl | assumption) (lClu : L.clu = true := by first | rfl | assumption) (lTasks : L.tasks = true := by first | rfl | assumption) (lSto : L.sto = true := by first | rfl | assumption) (lLdr : L.ldr = true := by first | rfl | assumption) (lCsw : L.csw = true := by first | rfl | assumption) (lFio : L.fio = true := by first | rfl | assumption) (lNet : L.net = true := by first | rfl | assumption) (lCan : L.can = true := by first | rfl | assumption) (lDict : L.dict = true := by first | rfl | assumption) (lHost : L.host = true := by first | rfl | assumption) (lWdg : L.wdg = true := by first | rfl | assumption) (lEvr : L.evr = true := by first | rfl | assumption) (lTrc : L.trc = true := by first | rfl | assumption) (lRtc : L.rtc = true := by first | rfl | assumption) (lPwr : L.pwr = true := by first | rfl | assumption) : Keep L s s₂ := by
  unfold execHandoverGoReceive at hx
  with_reducible refine Keep.commit ?_ hx
  clear hx
  have hK := Keep.refl (L := L) s
  repeat' (first
    | with_reducible assumption
    | with_reducible apply State.cwArrives_keep
    | with_reducible apply Keep.ite
    | split)

theorem execHandoverDriversOff_keep {s s₂ : State} (t : Nat) (hx : execHandoverDriversOff t s = .next s₂) (lClk : L.clk = true := by first | rfl | assumption) (lCsw : L.csw = true := by first | rfl | assumption) (lFio : L.fio = true := by first | rfl | assumption) : Keep L s s₂ := by
  unfold execHandoverDriversOff at hx
  with_reducible refine Keep.commit ?_ hx
  clear hx
  have hK := Keep.refl (L := L) s
  repeat' (first
    | with_reducible assumption
    | with_reducible apply State.reach_keep
    | with_reducible apply State.redrive_keep
    | with_reducible apply Keep.upCsw
    | with_reducible apply Keep.ite
    | (extract_lets +onlyGivenNames y; (first | ((have hy : Keep L s y := (by unfold y; repeat' (first | with_reducible assumption | with_reducible apply State.reach_keep | with_reducible apply State.redrive_keep | with_reducible apply Keep.upCsw | with_reducible apply Keep.ite | extract_lets | split))); clear_value y) | clear_value y | skip))
    | split)

theorem execDrillDue_keep {s s₂ : State} (t : Nat) (hx : execDrillDue t s = .next s₂) (lClk : L.clk = true := by first | rfl | assumption) (lCsw : L.csw = true := by first | rfl | assumption) (lEvr : L.evr = true := by first | rfl | assumption) : Keep L s s₂ := by
  unfold execDrillDue at hx
  with_reducible refine Keep.commit ?_ hx
  clear hx
  have hK := Keep.refl (L := L) s
  repeat' (first
    | with_reducible assumption
    | with_reducible apply State.reach_keep
    | with_reducible apply State.occurSev_keep
    | with_reducible apply Keep.upCsw
    | with_reducible apply Keep.ite
    | (extract_lets +onlyGivenNames y; (first | ((have hy : Keep L s y := (by unfold y; repeat' (first | with_reducible assumption | with_reducible apply State.reach_keep | with_reducible apply State.occurSev_keep | with_reducible apply Keep.upCsw | with_reducible apply Keep.ite | extract_lets | split))); clear_value y) | clear_value y | skip))
    | split)

theorem State.cswRead_keep {o₀ s : State} (hK : Keep L o₀ s) (off : Nat) (lCsw : L.csw = true := by first | rfl | assumption) : Keep L o₀ (State.cswRead s off).2 := by
  unfold State.cswRead
  repeat' (first
    | with_reducible assumption
    | with_reducible apply Keep.upCsw
    | with_reducible apply Keep.ite2
    | with_reducible apply Keep.ite1
    | with_reducible apply Keep.ite
    | (extract_lets +onlyGivenNames y; (first | ((have hy : Keep L o₀ y := (by unfold y; repeat' (first | with_reducible assumption | with_reducible apply Keep.upCsw | with_reducible apply Keep.ite2 | with_reducible apply Keep.ite1 | with_reducible apply Keep.ite | extract_lets | split))); clear_value y) | ((have hy : Keep L o₀ y.1 := (by unfold y; repeat' (first | with_reducible assumption | with_reducible apply Keep.upCsw | with_reducible apply Keep.ite2 | with_reducible apply Keep.ite1 | with_reducible apply Keep.ite | extract_lets | split))); clear_value y) | ((have hy : Keep L o₀ y.2 := (by unfold y; repeat' (first | with_reducible assumption | with_reducible apply Keep.upCsw | with_reducible apply Keep.ite2 | with_reducible apply Keep.ite1 | with_reducible apply Keep.ite | extract_lets | split))); clear_value y) | clear_value y | skip))
    | split)

theorem State.cswWrite_keep {o₀ s : State} (hK : Keep L o₀ s) (off : Nat) (v : Word) (priv : Bool) (lLdr : L.ldr = true := by first | rfl | assumption) (lCsw : L.csw = true := by first | rfl | assumption) (lNet : L.net = true := by first | rfl | assumption) (lDict : L.dict = true := by first | rfl | assumption) (lEvr : L.evr = true := by first | rfl | assumption) (lTrc : L.trc = true := by first | rfl | assumption) : WriteAns.Kept L o₀ (State.cswWrite s off v priv) := by
  unfold State.cswWrite
  repeat' (first
    | with_reducible assumption
    | with_reducible apply State.switchCmd_keep
    | with_reducible apply refused_kept
    | with_reducible apply refusedIn_kept
    | with_reducible apply done_kept
    | with_reducible apply needPriv_kept
    | with_reducible apply needOpen_kept
    | with_reducible apply needLegal_kept
    | with_reducible apply Keep.upCsw
    | with_reducible apply ite_kept
    | with_reducible apply Keep.ite
    | split)

end Sys2Proof.Machine
end

