-- ==== Sys2Proof/Laws/KeepSettings.lean ====
section
/-! SUPPORT. What each operation of Machine/Settings.lean keeps (Laws/Keep.lean). -/

set_option Elab.async false
set_option linter.all false

namespace Sys2Proof.Machine

open Sys2Proof

set_option linter.unusedVariables false
set_option linter.tactic.unusedName false

variable {L : Parts}

theorem State.setForce_keep {o₀ s : State} (hK : Keep L o₀ s) (key : Nat) (v : List Byte) (lFio : L.fio = true := by first | rfl | assumption) (lDict : L.dict = true := by first | rfl | assumption) (lEvr : L.evr = true := by first | rfl | assumption) (lNvp : L.nvp = true := by first | rfl | assumption) (lRtc : L.rtc = true := by first | rfl | assumption) : Keep L o₀ (State.setForce s key v) := by
  unfold State.setForce
  repeat' (first
    | with_reducible assumption
    | with_reducible apply State.upChan_keep
    | with_reducible apply State.upGroup_keep
    | with_reducible apply Keep.upNvp
    | with_reducible apply Keep.upRtc
    | with_reducible refine Keep.upDict ?_ ?_
    | with_reducible refine Keep.upEvr ?_ (fun xk => ?_)
    | exact Eq.refl _
    | exact xk
    | with_reducible apply Keep.ite
    | (extract_lets +onlyGivenNames y; (first | ((have hy : Keep L o₀ y := (by unfold y; repeat' (first | with_reducible assumption | with_reducible apply State.upChan_keep | with_reducible apply State.upGroup_keep | with_reducible apply Keep.upNvp | with_reducible apply Keep.upRtc | with_reducible refine Keep.upDict ?_ ?_ | with_reducible refine Keep.upEvr ?_ (fun xk => ?_) | exact Eq.refl _ | exact xk | with_reducible apply Keep.ite | extract_lets | split))); clear_value y) | clear_value y | skip))
    | split)

theorem State.takeSettings_keep {o₀ s : State} (hK : Keep L o₀ s) (lFio : L.fio = true := by first | rfl | assumption) (lDict : L.dict = true := by first | rfl | assumption) (lEvr : L.evr = true := by first | rfl | assumption) (lNvp : L.nvp = true := by first | rfl | assumption) (lRtc : L.rtc = true := by first | rfl | assumption) : Keep L o₀ (State.takeSettings s) := by
  unfold State.takeSettings
  repeat' (first
    | with_reducible assumption
    | with_reducible apply State.setForce_keep
    | with_reducible refine Keep.upDict ?_ ?_
    | exact Eq.refl _
    | with_reducible refine Keep.foldl (fun _ _ _ => ?_) _ ?_
    | with_reducible refine Keep.foldl1 (fun _ _ _ _ => ?_) _ ?_
    | with_reducible refine Keep.foldl2 (fun _ _ _ _ => ?_) _ ?_
    | with_reducible apply Keep.ite
    | split)

theorem State.storeValue_keep {o₀ s : State} (hK : Keep L o₀ s) (key : Nat) (v : List Byte) (lFio : L.fio = true := by first | rfl | assumption) (lDict : L.dict = true := by first | rfl | assumption) (lEvr : L.evr = true := by first | rfl | assumption) (lNvp : L.nvp = true := by first | rfl | assumption) (lRtc : L.rtc = true := by first | rfl | assumption) : Keep L o₀ (State.storeValue s key v).1 := by
  unfold State.storeValue
  repeat' (first
    | with_reducible assumption
    | with_reducible apply State.setForce_keep
    | with_reducible apply Keep.upFio
    | with_reducible refine Keep.upDict ?_ ?_
    | exact Eq.refl _
    | with_reducible apply Keep.ite2
    | with_reducible apply Keep.ite1
    | with_reducible apply Keep.ite
    | (extract_lets +onlyGivenNames y; (first | ((have hy : Keep L o₀ y := (by unfold y; repeat' (first | with_reducible assumption | with_reducible apply State.setForce_keep | with_reducible apply Keep.upFio | with_reducible refine Keep.upDict ?_ ?_ | exact Eq.refl _ | with_reducible apply Keep.ite2 | with_reducible apply Keep.ite1 | with_reducible apply Keep.ite | extract_lets | split))); clear_value y) | ((have hy : Keep L o₀ y.1 := (by unfold y; repeat' (first | with_reducible assumption | with_reducible apply State.setForce_keep | with_reducible apply Keep.upFio | with_reducible refine Keep.upDict ?_ ?_ | exact Eq.refl _ | with_reducible apply Keep.ite2 | with_reducible apply Keep.ite1 | with_reducible apply Keep.ite | extract_lets | split))); clear_value y) | ((have hy : Keep L o₀ y.2 := (by unfold y; repeat' (first | with_reducible assumption | with_reducible apply State.setForce_keep | with_reducible apply Keep.upFio | with_reducible refine Keep.upDict ?_ ?_ | exact Eq.refl _ | with_reducible apply Keep.ite2 | with_reducible apply Keep.ite1 | with_reducible apply Keep.ite | extract_lets | split))); clear_value y) | clear_value y | skip))
    | split)

end Sys2Proof.Machine
end

