-- ==== Sys2Proof/Laws/KeepBeats.lean ====
section
/-! SUPPORT. What each operation of Machine/Beats.lean keeps (Laws/Keep.lean). -/

set_option Elab.async false
set_option linter.all false

namespace Sys2Proof.Machine

open Sys2Proof

set_option linter.unusedVariables false
set_option linter.tactic.unusedName false

variable {L : Parts}

theorem Store.closeHalf_wf {x : Store} (h : x.wf) (m : Milestone) (beat : Nat) (busy : Bool) : (x.closeHalf m beat busy).wf := by
  unfold Store.closeHalf
  extract_lets a b c d
  split <;> exact ⟨h.1, h.2, h.3, h.4, h.5⟩

theorem State.closeHalf_keep {o s : State} (hK : Keep L o s) (lSto : L.sto = true := by first | rfl | assumption) (lCsw : L.csw = true := by first | rfl | assumption) : Keep L o (State.closeHalf s).1 := by
  unfold State.closeHalf
  extract_lets m busy u v
  have hv : Keep L o v := Keep.upCsw (hK.upSto (fun xk => Store.closeHalf_wf xk _ _ _)) _
  clear_value v
  exact Keep.ite1 (State.updateLag_keep (hv.upCsw _)) hv

theorem State.closeDecision_keep {o₀ s : State} (hK : Keep L o₀ s) (lSto : L.sto = true := by first | rfl | assumption) (lCsw : L.csw = true := by first | rfl | assumption) (lHost : L.host = true := by first | rfl | assumption) (lEvr : L.evr = true := by first | rfl | assumption) : Keep L o₀ (State.closeDecision s).1 := by
  unfold State.closeDecision
  repeat' (first
    | with_reducible assumption
    | with_reducible apply State.closeHalf_keep
    | with_reducible apply State.startSync_keep
    | with_reducible apply State.exeCause_keep
    | with_reducible refine Keep.upSto ?_ (fun xk => ?_)
    | with_reducible exact xk
    | (with_reducible refine Store.wf.mk ?_ ?_ ?_ ?_ ?_ <;> try dsimp only)
    | with_reducible exact xk.program
    | with_reducible exact xk.lmem
    | with_reducible exact xk.durable
    | with_reducible exact xk.inView
    | with_reducible exact xk.launched
    | with_reducible apply memPut_wf
    | with_reducible apply ov_apply_wf
    | with_reducible apply memWrite_wf
    | with_reducible apply memClear_wf
    | with_reducible apply memRange_wf
    | with_reducible apply mem_nil_wf
    | with_reducible apply memOf_wf
    | with_reducible apply Keep.ite2
    | with_reducible apply Keep.ite1
    | with_reducible apply Keep.ite
    | (extract_lets +onlyGivenNames y; (first | ((have hy : Keep L o₀ y := (by unfold y; repeat' (first | with_reducible assumption | with_reducible apply State.closeHalf_keep | with_reducible apply State.startSync_keep | with_reducible apply State.exeCause_keep | with_reducible refine Keep.upSto ?_ (fun xk => ?_) | with_reducible exact xk | (with_reducible refine Store.wf.mk ?_ ?_ ?_ ?_ ?_ <;> try dsimp only) | with_reducible exact xk.program | with_reducible exact xk.lmem | with_reducible exact xk.durable | with_reducible exact xk.inView | with_reducible exact xk.launched | with_reducible apply memPut_wf | with_reducible apply ov_apply_wf | with_reducible apply memWrite_wf | with_reducible apply memClear_wf | with_reducible apply memRange_wf | with_reducible apply mem_nil_wf | with_reducible apply memOf_wf | with_reducible apply Keep.ite2 | with_reducible apply Keep.ite1 | with_reducible apply Keep.ite | extract_lets | split))); clear_value y) | ((have hy : Keep L o₀ y.1 := (by unfold y; repeat' (first | with_reducible assumption | with_reducible apply State.closeHalf_keep | with_reducible apply State.startSync_keep | with_reducible apply State.exeCause_keep | with_reducible refine Keep.upSto ?_ (fun xk => ?_) | with_reducible exact xk | (with_reducible refine Store.wf.mk ?_ ?_ ?_ ?_ ?_ <;> try dsimp only) | with_reducible exact xk.program | with_reducible exact xk.lmem | with_reducible exact xk.durable | with_reducible exact xk.inView | with_reducible exact xk.launched | with_reducible apply memPut_wf | with_reducible apply ov_apply_wf | with_reducible apply memWrite_wf | with_reducible apply memClear_wf | with_reducible apply memRange_wf | with_reducible apply mem_nil_wf | with_reducible apply memOf_wf | with_reducible apply Keep.ite2 | with_reducible apply Keep.ite1 | with_reducible apply Keep.ite | extract_lets | split))); clear_value y) | ((have hy : Keep L o₀ y.2 := (by unfold y; repeat' (first | with_reducible assumption | with_reducible apply State.closeHalf_keep | with_reducible apply State.startSync_keep | with_reducible apply State.exeCause_keep | with_reducible refine Keep.upSto ?_ (fun xk => ?_) | with_reducible exact xk | (with_reducible refine Store.wf.mk ?_ ?_ ?_ ?_ ?_ <;> try dsimp only) | with_reducible exact xk.program | with_reducible exact xk.lmem | with_reducible exact xk.durable | with_reducible exact xk.inView | with_reducible exact xk.launched | with_reducible apply memPut_wf | with_reducible apply ov_apply_wf | with_reducible apply memWrite_wf | with_reducible apply memClear_wf | with_reducible apply memRange_wf | with_reducible apply mem_nil_wf | with_reducible apply memOf_wf | with_reducible apply Keep.ite2 | with_reducible apply Keep.ite1 | with_reducible apply Keep.ite | extract_lets | split))); clear_value y) | clear_value y | skip))
    | split)

theorem State.openOrCount_keep {o₀ s : State} (hK : Keep L o₀ s) (lSto : L.sto = true := by first | rfl | assumption) : Keep L o₀ (State.openOrCount s) := by
  unfold State.openOrCount
  repeat' (first
    | with_reducible assumption
    | with_reducible apply State.upOpen_keep
    | with_reducible refine Keep.upSto ?_ (fun xk => ?_)
    | with_reducible exact xk
    | (with_reducible refine Store.wf.mk ?_ ?_ ?_ ?_ ?_ <;> try dsimp only)
    | with_reducible exact xk.program
    | with_reducible exact xk.lmem
    | with_reducible exact xk.durable
    | with_reducible exact xk.inView
    | with_reducible exact xk.launched
    | with_reducible apply memPut_wf
    | with_reducible apply ov_apply_wf
    | with_reducible apply memWrite_wf
    | with_reducible apply memClear_wf
    | with_reducible apply memRange_wf
    | with_reducible apply mem_nil_wf
    | with_reducible apply memOf_wf
    | with_reducible apply Keep.ite
    | split)

theorem State.releaseTask_keep {o₀ s : State} (hK : Keep L o₀ s) (row : TaskRow) (lClu : L.clu = true := by first | rfl | assumption) (lTasks : L.tasks = true := by first | rfl | assumption) (lWdg : L.wdg = true := by first | rfl | assumption) : Keep L o₀ (State.releaseTask s row) := by
  unfold State.releaseTask
  repeat' (first
    | with_reducible assumption
    | with_reducible apply State.upTask_keep
    | with_reducible apply State.armTask_keep
    | with_reducible apply Keep.upClu
    | with_reducible apply Keep.ite
    | (extract_lets +onlyGivenNames y; (first | ((have hy : Keep L o₀ y := (by unfold y; repeat' (first | with_reducible assumption | with_reducible apply State.upTask_keep | with_reducible apply State.armTask_keep | with_reducible apply Keep.upClu | with_reducible apply Keep.ite | extract_lets | split))); clear_value y) | clear_value y | skip))
    | split)

theorem Released.one_keep {o : State} {r : Released} (h : Keep L o r.state) (row : TaskRow) (lClu : L.clu = true := by first | rfl | assumption) (lTasks : L.tasks = true := by first | rfl | assumption) (lHost : L.host = true := by first | rfl | assumption) (lWdg : L.wdg = true := by first | rfl | assumption) (lEvr : L.evr = true := by first | rfl | assumption) : Keep L o (r.one row).state := by
  unfold Released.one
  extract_lets s t u
  split
  · exact h
  · split
    · exact State.taskCause_keep (State.upTask_keep h _ _) _ _ _ _
    · exact State.releaseTask_keep h _

theorem Released.foldl_keep {o : State} {f : Released → TaskRow → Released} (hf : ∀ r x, Keep L o r.state → Keep L o (f r x).state) :
    ∀ (l : List TaskRow) {r : Released}, Keep L o r.state → Keep L o (l.foldl f r).state
  | [], _, h => h
  | x :: t, _, h => Released.foldl_keep hf t (hf _ x h)

theorem State.releaseDue_keep {o s : State} (hK : Keep L o s) (lClu : L.clu = true := by first | rfl | assumption) (lTasks : L.tasks = true := by first | rfl | assumption) (lHost : L.host = true := by first | rfl | assumption) (lWdg : L.wdg = true := by first | rfl | assumption) (lEvr : L.evr = true := by first | rfl | assumption) : Keep L o (State.releaseDue s).state := by
  unfold State.releaseDue
  exact Released.foldl_keep (fun _ _ h => Released.one_keep h _) _ hK

theorem State.skipDue_keep {o s : State} (hK : Keep L o s) (lSto : L.sto = true := by first | rfl | assumption) : Keep L o (State.skipDue s).state := by
  unfold State.skipDue
  refine Released.foldl_keep (fun r x h => ?_) _ hK
  split
  · exact h
  · dsimp only
    refine h.upSto (fun xk => ?_)
    exact ⟨xk.1, xk.2, xk.3, xk.4, xk.5⟩

theorem State.switchBegins_keep {o₀ s : State} (hK : Keep L o₀ s) (lHost : L.host = true := by first | rfl | assumption) (lWdg : L.wdg = true := by first | rfl | assumption) (lEvr : L.evr = true := by first | rfl | assumption) (lTrc : L.trc = true := by first | rfl | assumption) : Keep L o₀ (State.switchBegins s) := by
  unfold State.switchBegins
  repeat' (first
    | with_reducible assumption
    | with_reducible apply State.disarmTasks_keep
    | with_reducible apply State.traceMark_keep
    | with_reducible apply State.exeCause_keep
    | with_reducible apply Keep.ite
    | split)

theorem State.wideOff_keep {o₀ s : State} (hK : Keep L o₀ s) (lPwr : L.pwr = true := by first | rfl | assumption) : Keep L o₀ (State.wideOff s) := by
  unfold State.wideOff
  repeat' (first
    | with_reducible assumption
    | with_reducible apply Keep.upPwr
    | with_reducible apply Keep.ite
    | split)

theorem State.switchDone_keep {o₀ s : State} (hK : Keep L o₀ s) (reduced : Bool) (lSto : L.sto = true := by first | rfl | assumption) (lPwr : L.pwr = true := by first | rfl | assumption) : Keep L o₀ (State.switchDone s reduced) := by
  unfold State.switchDone
  repeat' (first
    | with_reducible assumption
    | with_reducible apply State.wideOff_keep
    | with_reducible refine Keep.upSto ?_ (fun xk => ?_)
    | with_reducible exact xk
    | (with_reducible refine Store.wf.mk ?_ ?_ ?_ ?_ ?_ <;> try dsimp only)
    | with_reducible exact xk.program
    | with_reducible exact xk.lmem
    | with_reducible exact xk.durable
    | with_reducible exact xk.inView
    | with_reducible exact xk.launched
    | with_reducible apply memPut_wf
    | with_reducible apply ov_apply_wf
    | with_reducible apply memWrite_wf
    | with_reducible apply memClear_wf
    | with_reducible apply memRange_wf
    | with_reducible apply mem_nil_wf
    | with_reducible apply memOf_wf
    | with_reducible apply Keep.ite
    | (extract_lets +onlyGivenNames y; (first | ((have hy : Keep L o₀ y := (by unfold y; repeat' (first | with_reducible assumption | with_reducible apply State.wideOff_keep | with_reducible refine Keep.upSto ?_ (fun xk => ?_) | with_reducible exact xk | (with_reducible refine Store.wf.mk ?_ ?_ ?_ ?_ ?_ <;> try dsimp only) | with_reducible exact xk.program | with_reducible exact xk.lmem | with_reducible exact xk.durable | with_reducible exact xk.inView | with_reducible exact xk.launched | with_reducible apply memPut_wf | with_reducible apply ov_apply_wf | with_reducible apply memWrite_wf | with_reducible apply memClear_wf | with_reducible apply memRange_wf | with_reducible apply mem_nil_wf | with_reducible apply memOf_wf | with_reducible apply Keep.ite | extract_lets | split))); clear_value y) | clear_value y | skip))
    | split)

theorem State.releaseAct_keep {o₀ s : State} (hK : Keep L o₀ s) (lClu : L.clu = true := by first | rfl | assumption) (lTasks : L.tasks = true := by first | rfl | assumption) (lSto : L.sto = true := by first | rfl | assumption) (lHost : L.host = true := by first | rfl | assumption) (lWdg : L.wdg = true := by first | rfl | assumption) (lEvr : L.evr = true := by first | rfl | assumption) (lTrc : L.trc = true := by first | rfl | assumption) (lPwr : L.pwr = true := by first | rfl | assumption) : Keep L o₀ (State.releaseAct s).state := by
  unfold State.releaseAct
  repeat' (first
    | with_reducible assumption
    | with_reducible apply State.skipDue_keep
    | with_reducible apply State.releaseDue_keep
    | with_reducible apply State.switchBegins_keep
    | with_reducible apply State.switchDone_keep
    | with_reducible refine Keep.upSto ?_ (fun xk => ?_)
    | with_reducible exact xk
    | (with_reducible refine Store.wf.mk ?_ ?_ ?_ ?_ ?_ <;> try dsimp only)
    | with_reducible exact xk.program
    | with_reducible exact xk.lmem
    | with_reducible exact xk.durable
    | with_reducible exact xk.inView
    | with_reducible exact xk.launched
    | with_reducible apply memPut_wf
    | with_reducible apply ov_apply_wf
    | with_reducible apply memWrite_wf
    | with_reducible apply memClear_wf
    | with_reducible apply memRange_wf
    | with_reducible apply mem_nil_wf
    | with_reducible apply memOf_wf
    | with_reducible apply Keep.ite
    | (extract_lets +onlyGivenNames y; (first | ((have hy : Keep L o₀ y := (by unfold y; repeat' (first | with_reducible assumption | with_reducible apply State.skipDue_keep | with_reducible apply State.releaseDue_keep | with_reducible apply State.switchBegins_keep | with_reducible apply State.switchDone_keep | with_reducible refine Keep.upSto ?_ (fun xk => ?_) | with_reducible exact xk | (with_reducible refine Store.wf.mk ?_ ?_ ?_ ?_ ?_ <;> try dsimp only) | with_reducible exact xk.program | with_reducible exact xk.lmem | with_reducible exact xk.durable | with_reducible exact xk.inView | with_reducible exact xk.launched | with_reducible apply memPut_wf | with_reducible apply ov_apply_wf | with_reducible apply memWrite_wf | with_reducible apply memClear_wf | with_reducible apply memRange_wf | with_reducible apply mem_nil_wf | with_reducible apply memOf_wf | with_reducible apply Keep.ite | extract_lets | split))); clear_value y) | clear_value y | skip))
    | split)

theorem State.launchTask_keep {o₀ s : State} (hK : Keep L o₀ s) (t : Nat) (lTasks : L.tasks = true := by first | rfl | assumption) (lSto : L.sto = true := by first | rfl | assumption) (lCsw : L.csw = true := by first | rfl | assumption) (lFio : L.fio = true := by first | rfl | assumption) (lCan : L.can = true := by first | rfl | assumption) (lEvr : L.evr = true := by first | rfl | assumption) : Keep L o₀ (State.launchTask s t) := by
  unfold State.launchTask
  repeat' (first
    | with_reducible assumption
    | with_reducible apply State.launchLocal_keep
    | with_reducible apply State.upTask_keep
    | with_reducible apply State.canTake_keep
    | with_reducible apply Keep.upCsw
    | with_reducible apply Keep.ite
    | (extract_lets +onlyGivenNames y; (first | ((have hy : Keep L o₀ y := (by unfold y; repeat' (first | with_reducible assumption | with_reducible apply State.launchLocal_keep | with_reducible apply State.upTask_keep | with_reducible apply State.canTake_keep | with_reducible apply Keep.upCsw | with_reducible apply Keep.ite | extract_lets | split))); clear_value y) | clear_value y | skip))
    | split)

theorem State.launchAct_keep {o₀ s : State} (hK : Keep L o₀ s) (lTasks : L.tasks = true := by first | rfl | assumption) (lSto : L.sto = true := by first | rfl | assumption) (lCsw : L.csw = true := by first | rfl | assumption) (lFio : L.fio = true := by first | rfl | assumption) (lCan : L.can = true := by first | rfl | assumption) (lEvr : L.evr = true := by first | rfl | assumption) : Keep L o₀ (State.launchAct s) := by
  unfold State.launchAct
  repeat' (first
    | with_reducible assumption
    | with_reducible apply State.launchTask_keep
    | with_reducible apply State.imageArrives_keep
    | with_reducible apply State.reapply_keep
    | with_reducible apply Keep.upTasks
    | with_reducible refine Keep.foldl (fun _ _ _ => ?_) _ ?_
    | with_reducible refine Keep.foldl1 (fun _ _ _ _ => ?_) _ ?_
    | with_reducible refine Keep.foldl2 (fun _ _ _ _ => ?_) _ ?_
    | with_reducible apply Keep.ite
    | (extract_lets +onlyGivenNames y; (first | ((have hy : Keep L o₀ y := (by unfold y; repeat' (first | with_reducible assumption | with_reducible apply State.launchTask_keep | with_reducible apply State.imageArrives_keep | with_reducible apply State.reapply_keep | with_reducible apply Keep.upTasks | with_reducible refine Keep.foldl (fun _ _ _ => ?_) _ ?_ | with_reducible refine Keep.foldl1 (fun _ _ _ _ => ?_) _ ?_ | with_reducible refine Keep.foldl2 (fun _ _ _ _ => ?_) _ ?_ | with_reducible apply Keep.ite | extract_lets | split))); clear_value y) | ((have hy : Keep L o₀ y.1 := (by unfold y; repeat' (first | with_reducible assumption | with_reducible apply State.launchTask_keep | with_reducible apply State.imageArrives_keep | with_reducible apply State.reapply_keep | with_reducible apply Keep.upTasks | with_reducible refine Keep.foldl (fun _ _ _ => ?_) _ ?_ | with_reducible refine Keep.foldl1 (fun _ _ _ _ => ?_) _ ?_ | with_reducible refine Keep.foldl2 (fun _ _ _ _ => ?_) _ ?_ | with_reducible apply Keep.ite | extract_lets | split))); clear_value y) | ((have hy : Keep L o₀ y.2 := (by unfold y; repeat' (first | with_reducible assumption | with_reducible apply State.launchTask_keep | with_reducible apply State.imageArrives_keep | with_reducible apply State.reapply_keep | with_reducible apply Keep.upTasks | with_reducible refine Keep.foldl (fun _ _ _ => ?_) _ ?_ | with_reducible refine Keep.foldl1 (fun _ _ _ _ => ?_) _ ?_ | with_reducible refine Keep.foldl2 (fun _ _ _ _ => ?_) _ ?_ | with_reducible apply Keep.ite | extract_lets | split))); clear_value y) | clear_value y | skip))
    | split)

theorem State.renumber_keep {o₀ s : State} (hK : Keep L o₀ s) (old : Nat) (new : Nat) (lClk : L.clk = true := by first | rfl | assumption) (lTasks : L.tasks = true := by first | rfl | assumption) (lSto : L.sto = true := by first | rfl | assumption) (lCsw : L.csw = true := by first | rfl | assumption) (lCan : L.can = true := by first | rfl | assumption) (lHost : L.host = true := by first | rfl | assumption) (lEvr : L.evr = true := by first | rfl | assumption) (lTrc : L.trc = true := by first | rfl | assumption) : Keep L o₀ (State.renumber s old new) := by
  unfold State.renumber
  repeat' (first
    | with_reducible assumption
    | with_reducible apply State.gateClose_keep
    | with_reducible apply State.upTask_keep
    | with_reducible apply State.traceMark_keep
    | with_reducible apply State.exeCause_keep
    | with_reducible apply Keep.upClk
    | with_reducible apply Keep.upTasks
    | with_reducible apply Keep.upCsw
    | with_reducible refine Keep.upSto ?_ (fun xk => ?_)
    | with_reducible exact xk
    | (with_reducible refine Store.wf.mk ?_ ?_ ?_ ?_ ?_ <;> try dsimp only)
    | with_reducible exact xk.program
    | with_reducible exact xk.lmem
    | with_reducible exact xk.durable
    | with_reducible exact xk.inView
    | with_reducible exact xk.launched
    | with_reducible apply memPut_wf
    | with_reducible apply ov_apply_wf
    | with_reducible apply memWrite_wf
    | with_reducible apply memClear_wf
    | with_reducible apply memRange_wf
    | with_reducible apply mem_nil_wf
    | with_reducible apply memOf_wf
    | with_reducible refine Keep.foldl (fun _ _ _ => ?_) _ ?_
    | with_reducible refine Keep.foldl1 (fun _ _ _ _ => ?_) _ ?_
    | with_reducible refine Keep.foldl2 (fun _ _ _ _ => ?_) _ ?_
    | with_reducible apply Keep.ite
    | (extract_lets +onlyGivenNames y; (first | ((have hy : Keep L o₀ y := (by unfold y; repeat' (first | with_reducible assumption | with_reducible apply State.gateClose_keep | with_reducible apply State.upTask_keep | with_reducible apply State.traceMark_keep | with_reducible apply State.exeCause_keep | with_reducible apply Keep.upClk | with_reducible apply Keep.upTasks | with_reducible apply Keep.upCsw | with_reducible refine Keep.upSto ?_ (fun xk => ?_) | with_reducible exact xk | (with_reducible refine Store.wf.mk ?_ ?_ ?_ ?_ ?_ <;> try dsimp only) | with_reducible exact xk.program | with_reducible exact xk.lmem | with_reducible exact xk.durable | with_reducible exact xk.inView | with_reducible exact xk.launched | with_reducible apply memPut_wf | with_reducible apply ov_apply_wf | with_reducible apply memWrite_wf | with_reducible apply memClear_wf | with_reducible apply memRange_wf | with_reducible apply mem_nil_wf | with_reducible apply memOf_wf | with_reducible refine Keep.foldl (fun _ _ _ => ?_) _ ?_ | with_reducible refine Keep.foldl1 (fun _ _ _ _ => ?_) _ ?_ | with_reducible refine Keep.foldl2 (fun _ _ _ _ => ?_) _ ?_ | with_reducible apply Keep.ite | extract_lets | split))); clear_value y) | ((have hy : Keep L o₀ y.1 := (by unfold y; repeat' (first | with_reducible assumption | with_reducible apply State.gateClose_keep | with_reducible apply State.upTask_keep | with_reducible apply State.traceMark_keep | with_reducible apply State.exeCause_keep | with_reducible apply Keep.upClk | with_reducible apply Keep.upTasks | with_reducible apply Keep.upCsw | with_reducible refine Keep.upSto ?_ (fun xk => ?_) | with_reducible exact xk | (with_reducible refine Store.wf.mk ?_ ?_ ?_ ?_ ?_ <;> try dsimp only) | with_reducible exact xk.program | with_reducible exact xk.lmem | with_reducible exact xk.durable | with_reducible exact xk.inView | with_reducible exact xk.launched | with_reducible apply memPut_wf | with_reducible apply ov_apply_wf | with_reducible apply memWrite_wf | with_reducible apply memClear_wf | with_reducible apply memRange_wf | with_reducible apply mem_nil_wf | with_reducible apply memOf_wf | with_reducible refine Keep.foldl (fun _ _ _ => ?_) _ ?_ | with_reducible refine Keep.foldl1 (fun _ _ _ _ => ?_) _ ?_ | with_reducible refine Keep.foldl2 (fun _ _ _ _ => ?_) _ ?_ | with_reducible apply Keep.ite | extract_lets | split))); clear_value y) | ((have hy : Keep L o₀ y.2 := (by unfold y; repeat' (first | with_reducible assumption | with_reducible apply State.gateClose_keep | with_reducible apply State.upTask_keep | with_reducible apply State.traceMark_keep | with_reducible apply State.exeCause_keep | with_reducible apply Keep.upClk | with_reducible apply Keep.upTasks | with_reducible apply Keep.upCsw | with_reducible refine Keep.upSto ?_ (fun xk => ?_) | with_reducible exact xk | (with_reducible refine Store.wf.mk ?_ ?_ ?_ ?_ ?_ <;> try dsimp only) | with_reducible exact xk.program | with_reducible exact xk.lmem | with_reducible exact xk.durable | with_reducible exact xk.inView | with_reducible exact xk.launched | with_reducible apply memPut_wf | with_reducible apply ov_apply_wf | with_reducible apply memWrite_wf | with_reducible apply memClear_wf | with_reducible apply memRange_wf | with_reducible apply mem_nil_wf | with_reducible apply memOf_wf | with_reducible refine Keep.foldl (fun _ _ _ => ?_) _ ?_ | with_reducible refine Keep.foldl1 (fun _ _ _ _ => ?_) _ ?_ | with_reducible refine Keep.foldl2 (fun _ _ _ _ => ?_) _ ?_ | with_reducible apply Keep.ite | extract_lets | split))); clear_value y) | clear_value y | skip))
    | split)

theorem State.nextBeat_keep {o₀ s : State} (hK : Keep L o₀ s) (t : Nat) (lClk : L.clk = true := by first | rfl | assumption) (lTasks : L.tasks = true := by first | rfl | assumption) (lSto : L.sto = true := by first | rfl | assumption) (lCsw : L.csw = true := by first | rfl | assumption) (lCan : L.can = true := by first | rfl | assumption) (lHost : L.host = true := by first | rfl | assumption) (lEvr : L.evr = true := by first | rfl | assumption) (lTrc : L.trc = true := by first | rfl | assumption) : Keep L o₀ (State.nextBeat s t) := by
  unfold State.nextBeat
  repeat' (first
    | with_reducible assumption
    | with_reducible apply State.traceMark_keep
    | with_reducible apply State.requestAnchor_keep
    | with_reducible apply State.exeCause_keep
    | with_reducible apply State.renumber_keep
    | with_reducible apply Keep.upClk
    | with_reducible apply Keep.ite
    | (extract_lets +onlyGivenNames y; (first | ((have hy : Keep L o₀ y := (by unfold y; repeat' (first | with_reducible assumption | with_reducible apply State.traceMark_keep | with_reducible apply State.requestAnchor_keep | with_reducible apply State.exeCause_keep | with_reducible apply State.renumber_keep | with_reducible apply Keep.upClk | with_reducible apply Keep.ite | extract_lets | split))); clear_value y) | clear_value y | skip))
    | split)

theorem applyDelta_wf : ∀ (k : Nat) (l : List Byte) {v : Mem}, v.wf = true → (applyDelta k l v).wf = true
  | 0, _, _, h => h
  | k + 1, l, v, h => by
    unfold applyDelta
    extract_lets g n
    split
    · exact h
    · exact applyDelta_wf k _ (foldl_wf _ (fun _ _ h => memPut_wf _ _ h) _ h)

theorem State.feedReplay_keep {o s : State} (hK : Keep L o s) (g : List TItem) (lSto : L.sto = true := by first | rfl | assumption) (lTrc : L.trc = true := by first | rfl | assumption) : Keep L o (State.feedReplay s g) := by
  unfold State.feedReplay
  extract_lets v head
  have hv : s.sto.inView.wf = true → v.wf = true := by
    intro h
    refine foldl_wf _ (fun m x h => ?_) _ h
    split
    · exact applyDelta_wf _ _ h
    · split
      · exact memOf_wf _
      · split
        · exact memPut_wf _ _ h
        · exact h
  clear_value v
  exact Keep.upTrc (hK.upSto (fun xk => ⟨xk.1, xk.2, xk.3, hv xk.4, xk.5⟩)) _

theorem State.compareBeat_keep {o₀ s : State} (hK : Keep L o₀ s) (rec' : List Byte) (released : Nat) (skipped : Nat) (closed : Option Milestone) (lClk : L.clk = true := by first | rfl | assumption) (lEvr : L.evr = true := by first | rfl | assumption) (lTrc : L.trc = true := by first | rfl | assumption) : Keep L o₀ (State.compareBeat s rec' released skipped closed) := by
  unfold State.compareBeat
  repeat' (first
    | with_reducible assumption
    | with_reducible apply State.endReplay_keep
    | with_reducible apply Keep.ite
    | (extract_lets +onlyGivenNames y; (first | ((have hy : Keep L o₀ y := (by unfold y; repeat' (first | with_reducible assumption | with_reducible apply State.endReplay_keep | with_reducible apply Keep.ite | extract_lets | split))); clear_value y) | clear_value y | skip))
    | split)

theorem State.abandonRuns_keep {o₀ s : State} (hK : Keep L o₀ s) (lClu : L.clu = true := by first | rfl | assumption) (lTasks : L.tasks = true := by first | rfl | assumption) (lSto : L.sto = true := by first | rfl | assumption) : Keep L o₀ (State.abandonRuns s) := by
  unfold State.abandonRuns
  repeat' (first
    | with_reducible assumption
    | with_reducible apply State.forgetRun_keep
    | with_reducible apply Keep.upClu
    | with_reducible refine Keep.foldl (fun _ _ _ => ?_) _ ?_
    | with_reducible refine Keep.foldl1 (fun _ _ _ _ => ?_) _ ?_
    | with_reducible refine Keep.foldl2 (fun _ _ _ _ => ?_) _ ?_
    | with_reducible apply Keep.ite
    | (extract_lets +onlyGivenNames y; (first | ((have hy : Keep L o₀ y := (by unfold y; repeat' (first | with_reducible assumption | with_reducible apply State.forgetRun_keep | with_reducible apply Keep.upClu | with_reducible refine Keep.foldl (fun _ _ _ => ?_) _ ?_ | with_reducible refine Keep.foldl1 (fun _ _ _ _ => ?_) _ ?_ | with_reducible refine Keep.foldl2 (fun _ _ _ _ => ?_) _ ?_ | with_reducible apply Keep.ite | extract_lets | split))); clear_value y) | ((have hy : Keep L o₀ y.1 := (by unfold y; repeat' (first | with_reducible assumption | with_reducible apply State.forgetRun_keep | with_reducible apply Keep.upClu | with_reducible refine Keep.foldl (fun _ _ _ => ?_) _ ?_ | with_reducible refine Keep.foldl1 (fun _ _ _ _ => ?_) _ ?_ | with_reducible refine Keep.foldl2 (fun _ _ _ _ => ?_) _ ?_ | with_reducible apply Keep.ite | extract_lets | split))); clear_value y) | ((have hy : Keep L o₀ y.2 := (by unfold y; repeat' (first | with_reducible assumption | with_reducible apply State.forgetRun_keep | with_reducible apply Keep.upClu | with_reducible refine Keep.foldl (fun _ _ _ => ?_) _ ?_ | with_reducible refine Keep.foldl1 (fun _ _ _ _ => ?_) _ ?_ | with_reducible refine Keep.foldl2 (fun _ _ _ _ => ?_) _ ?_ | with_reducible apply Keep.ite | extract_lets | split))); clear_value y) | clear_value y | skip))
    | split)

theorem State.handoverClosed_keep {o₀ s : State} (hK : Keep L o₀ s) (m : Milestone) (lClu : L.clu = true := by first | rfl | assumption) (lTasks : L.tasks = true := by first | rfl | assumption) (lSto : L.sto = true := by first | rfl | assumption) (lCsw : L.csw = true := by first | rfl | assumption) : Keep L o₀ (State.handoverClosed s m) := by
  unfold State.handoverClosed
  repeat' (first
    | with_reducible assumption
    | with_reducible apply State.abandonRuns_keep
    | with_reducible apply Keep.upCsw
    | with_reducible apply Keep.ite
    | split)

theorem State.publish_keep {o₀ s : State} (hK : Keep L o₀ s) (lDict : L.dict = true := by first | rfl | assumption) : Keep L o₀ (State.publish s) := by
  unfold State.publish
  repeat' (first
    | with_reducible assumption
    | with_reducible apply State.takeMap_keep
    | with_reducible apply State.takeSnap_keep
    | with_reducible apply Keep.ite
    | split)

theorem State.execBoundary_keep {o₀ s : State} (hK : Keep L o₀ s) (t : Nat) (late : Bool) (g : Option (List TItem)) (lClk : L.clk = true := by first | rfl | assumption) (lClu : L.clu = true := by first | rfl | assumption) (lTasks : L.tasks = true := by first | rfl | assumption) (lSto : L.sto = true := by first | rfl | assumption) (lCsw : L.csw = true := by first | rfl | assumption) (lFio : L.fio = true := by first | rfl | assumption) (lNet : L.net = true := by first | rfl | assumption) (lCan : L.can = true := by first | rfl | assumption) (lDict : L.dict = true := by first | rfl | assumption) (lHost : L.host = true := by first | rfl | assumption) (lWdg : L.wdg = true := by first | rfl | assumption) (lEvr : L.evr = true := by first | rfl | assumption) (lTrc : L.trc = true := by first | rfl | assumption) (lPwr : L.pwr = true := by first | rfl | assumption) : Keep L o₀ (State.execBoundary s t late g) := by
  unfold State.execBoundary
  have hl : Keep L o₀ s.latchStations.1 := State.latchStations_keep hK
  extract_lets l u resumed v first w e x parking c y hand z anchor r a b d
  have hu : Keep L o₀ u := Keep.ite (State.canLatch_keep hl) hK
  have hv : Keep L o₀ v := by
    unfold v
    split
    · exact State.feedReplay_keep hu _
    · exact hu
  have hw : Keep L o₀ w := State.openOrCount_keep hv
  have he : Keep L o₀ e.1 := by
    unfold e
    split
    · exact Keep.foldl1 (fun _ _ _ h => State.applyBatch_keep h _) _ hw
    · exact State.applyBatches_keep _ _ hw _ _
  have hx : Keep L o₀ x := he
  have hc : Keep L o₀ c.1 := Keep.ite1 hx (State.closeDecision_keep hx)
  have hy : Keep L o₀ y := hc
  have hz : Keep L o₀ z := by
    unfold z
    split
    · exact Keep.ite (State.handoverClosed_keep hy _) hy
    · exact hy
  have hr : Keep L o₀ r.state := by
    unfold r
    split
    · exact hz
    · exact State.releaseAct_keep hz
  have ha : Keep L o₀ a := State.pruneSent_keep (Keep.foldl (fun _ _ h => State.resumeFrame_keep h _) _ (State.launchAct_keep hr)) _
  have hb : Keep L o₀ b := State.publish_keep (State.traceBeat_keep ha _ _)
  have hd : Keep L o₀ d := by
    unfold d
    split
    · exact State.compareBeat_keep hb _ _ _ _
    · exact hb
  exact Keep.ite (Keep.upPwr (Keep.upClk (State.traceFlush_keep hd _) _) _) hd

theorem State.waitBoundary_keep {o₀ s : State} (hK : Keep L o₀ s) (lTasks : L.tasks = true := by first | rfl | assumption) (lSto : L.sto = true := by first | rfl | assumption) (lCsw : L.csw = true := by first | rfl | assumption) (lFio : L.fio = true := by first | rfl | assumption) (lNet : L.net = true := by first | rfl | assumption) (lCan : L.can = true := by first | rfl | assumption) (lDict : L.dict = true := by first | rfl | assumption) (lEvr : L.evr = true := by first | rfl | assumption) (lTrc : L.trc = true := by first | rfl | assumption) : Keep L o₀ (State.waitBoundary s) := by
  unfold State.waitBoundary
  repeat' (first
    | with_reducible assumption
    | with_reducible apply State.latchStations_keep
    | with_reducible apply State.canLatch_keep
    | with_reducible apply State.upTask_keep
    | with_reducible apply State.takeDue_keep
    | with_reducible apply State.imageArrives_keep
    | with_reducible apply State.reapply_keep
    | with_reducible apply State.publish_keep
    | with_reducible refine Keep.foldl (fun _ _ _ => ?_) _ ?_
    | with_reducible refine Keep.foldl1 (fun _ _ _ _ => ?_) _ ?_
    | with_reducible refine Keep.foldl2 (fun _ _ _ _ => ?_) _ ?_
    | with_reducible apply Keep.ite
    | with_reducible refine Keep.of_eq1 ?_ (by assumption)
    | with_reducible refine Keep.of_eq2 ?_ (by assumption)
    | (extract_lets +onlyGivenNames y; (first | ((have hy : Keep L o₀ y := (by unfold y; repeat' (first | with_reducible assumption | with_reducible apply State.latchStations_keep | with_reducible apply State.canLatch_keep | with_reducible apply State.upTask_keep | with_reducible apply State.takeDue_keep | with_reducible apply State.imageArrives_keep | with_reducible apply State.reapply_keep | with_reducible apply State.publish_keep | with_reducible refine Keep.foldl (fun _ _ _ => ?_) _ ?_ | with_reducible refine Keep.foldl1 (fun _ _ _ _ => ?_) _ ?_ | with_reducible refine Keep.foldl2 (fun _ _ _ _ => ?_) _ ?_ | with_reducible apply Keep.ite | with_reducible refine Keep.of_eq1 ?_ (by assumption) | with_reducible refine Keep.of_eq2 ?_ (by assumption) | extract_lets | split))); clear_value y) | ((have hy : Keep L o₀ y.1 := (by unfold y; repeat' (first | with_reducible assumption | with_reducible apply State.latchStations_keep | with_reducible apply State.canLatch_keep | with_reducible apply State.upTask_keep | with_reducible apply State.takeDue_keep | with_reducible apply State.imageArrives_keep | with_reducible apply State.reapply_keep | with_reducible apply State.publish_keep | with_reducible refine Keep.foldl (fun _ _ _ => ?_) _ ?_ | with_reducible refine Keep.foldl1 (fun _ _ _ _ => ?_) _ ?_ | with_reducible refine Keep.foldl2 (fun _ _ _ _ => ?_) _ ?_ | with_reducible apply Keep.ite | with_reducible refine Keep.of_eq1 ?_ (by assumption) | with_reducible refine Keep.of_eq2 ?_ (by assumption) | extract_lets | split))); clear_value y) | ((have hy : Keep L o₀ y.2 := (by unfold y; repeat' (first | with_reducible assumption | with_reducible apply State.latchStations_keep | with_reducible apply State.canLatch_keep | with_reducible apply State.upTask_keep | with_reducible apply State.takeDue_keep | with_reducible apply State.imageArrives_keep | with_reducible apply State.reapply_keep | with_reducible apply State.publish_keep | with_reducible refine Keep.foldl (fun _ _ _ => ?_) _ ?_ | with_reducible refine Keep.foldl1 (fun _ _ _ _ => ?_) _ ?_ | with_reducible refine Keep.foldl2 (fun _ _ _ _ => ?_) _ ?_ | with_reducible apply Keep.ite | with_reducible refine Keep.of_eq1 ?_ (by assumption) | with_reducible refine Keep.of_eq2 ?_ (by assumption) | extract_lets | split))); clear_value y) | clear_value y | skip))
    | split)

theorem State.heldBoundary_keep {o₀ s : State} (hK : Keep L o₀ s) (late : Bool) (lSto : L.sto = true := by first | rfl | assumption) (lFio : L.fio = true := by first | rfl | assumption) (lNet : L.net = true := by first | rfl | assumption) (lCan : L.can = true := by first | rfl | assumption) (lDict : L.dict = true := by first | rfl | assumption) (lEvr : L.evr = true := by first | rfl | assumption) (lTrc : L.trc = true := by first | rfl | assumption) : Keep L o₀ (State.heldBoundary s late) := by
  unfold State.heldBoundary
  repeat' (first
    | with_reducible assumption
    | with_reducible apply State.latchStations_keep
    | with_reducible apply State.resumeFrame_keep
    | with_reducible apply State.canLatch_keep
    | with_reducible apply State.imageArrives_keep
    | with_reducible apply State.reapply_keep
    | with_reducible apply State.pruneSent_keep
    | with_reducible apply State.traceBeat_keep
    | with_reducible apply State.publish_keep
    | with_reducible refine Keep.foldl (fun _ _ _ => ?_) _ ?_
    | with_reducible refine Keep.foldl1 (fun _ _ _ _ => ?_) _ ?_
    | with_reducible refine Keep.foldl2 (fun _ _ _ _ => ?_) _ ?_
    | with_reducible apply Keep.ite
    | with_reducible refine Keep.of_eq1 ?_ (by assumption)
    | with_reducible refine Keep.of_eq2 ?_ (by assumption)
    | (extract_lets +onlyGivenNames y; (first | ((have hy : Keep L o₀ y := (by unfold y; repeat' (first | with_reducible assumption | with_reducible apply State.latchStations_keep | with_reducible apply State.resumeFrame_keep | with_reducible apply State.canLatch_keep | with_reducible apply State.imageArrives_keep | with_reducible apply State.reapply_keep | with_reducible apply State.pruneSent_keep | with_reducible apply State.traceBeat_keep | with_reducible apply State.publish_keep | with_reducible refine Keep.foldl (fun _ _ _ => ?_) _ ?_ | with_reducible refine Keep.foldl1 (fun _ _ _ _ => ?_) _ ?_ | with_reducible refine Keep.foldl2 (fun _ _ _ _ => ?_) _ ?_ | with_reducible apply Keep.ite | with_reducible refine Keep.of_eq1 ?_ (by assumption) | with_reducible refine Keep.of_eq2 ?_ (by assumption) | extract_lets | split))); clear_value y) | ((have hy : Keep L o₀ y.1 := (by unfold y; repeat' (first | with_reducible assumption | with_reducible apply State.latchStations_keep | with_reducible apply State.resumeFrame_keep | with_reducible apply State.canLatch_keep | with_reducible apply State.imageArrives_keep | with_reducible apply State.reapply_keep | with_reducible apply State.pruneSent_keep | with_reducible apply State.traceBeat_keep | with_reducible apply State.publish_keep | with_reducible refine Keep.foldl (fun _ _ _ => ?_) _ ?_ | with_reducible refine Keep.foldl1 (fun _ _ _ _ => ?_) _ ?_ | with_reducible refine Keep.foldl2 (fun _ _ _ _ => ?_) _ ?_ | with_reducible apply Keep.ite | with_reducible refine Keep.of_eq1 ?_ (by assumption) | with_reducible refine Keep.of_eq2 ?_ (by assumption) | extract_lets | split))); clear_value y) | ((have hy : Keep L o₀ y.2 := (by unfold y; repeat' (first | with_reducible assumption | with_reducible apply State.latchStations_keep | with_reducible apply State.resumeFrame_keep | with_reducible apply State.canLatch_keep | with_reducible apply State.imageArrives_keep | with_reducible apply State.reapply_keep | with_reducible apply State.pruneSent_keep | with_reducible apply State.traceBeat_keep | with_reducible apply State.publish_keep | with_reducible refine Keep.foldl (fun _ _ _ => ?_) _ ?_ | with_reducible refine Keep.foldl1 (fun _ _ _ _ => ?_) _ ?_ | with_reducible refine Keep.foldl2 (fun _ _ _ _ => ?_) _ ?_ | with_reducible apply Keep.ite | with_reducible refine Keep.of_eq1 ?_ (by assumption) | with_reducible refine Keep.of_eq2 ?_ (by assumption) | extract_lets | split))); clear_value y) | clear_value y | skip))
    | split)

theorem State.replayBoundary_keep {o₀ s : State} (hK : Keep L o₀ s) (t : Nat) (lClk : L.clk = true := by first | rfl | assumption) (lClu : L.clu = true := by first | rfl | assumption) (lTasks : L.tasks = true := by first | rfl | assumption) (lSto : L.sto = true := by first | rfl | assumption) (lCsw : L.csw = true := by first | rfl | assumption) (lFio : L.fio = true := by first | rfl | assumption) (lNet : L.net = true := by first | rfl | assumption) (lCan : L.can = true := by first | rfl | assumption) (lDict : L.dict = true := by first | rfl | assumption) (lHost : L.host = true := by first | rfl | assumption) (lWdg : L.wdg = true := by first | rfl | assumption) (lEvr : L.evr = true := by first | rfl | assumption) (lTrc : L.trc = true := by first | rfl | assumption) (lNvp : L.nvp = true := by first | rfl | assumption) (lRtc : L.rtc = true := by first | rfl | assumption) (lPwr : L.pwr = true := by first | rfl | assumption) : Keep L o₀ (State.replayBoundary s t) := by
  unfold State.replayBoundary
  repeat' (first
    | with_reducible assumption
    | with_reducible apply State.endReplayAt_keep
    | with_reducible apply State.takeSettings_keep
    | with_reducible apply State.execBoundary_keep
    | with_reducible apply Keep.upClk
    | with_reducible apply Keep.upTrc
    | with_reducible apply Keep.ite
    | (extract_lets +onlyGivenNames y; (first | ((have hy : Keep L o₀ y := (by unfold y; repeat' (first | with_reducible assumption | with_reducible apply State.endReplayAt_keep | with_reducible apply State.takeSettings_keep | with_reducible apply State.execBoundary_keep | with_reducible apply Keep.upClk | with_reducible apply Keep.upTrc | with_reducible apply Keep.ite | extract_lets | split))); clear_value y) | clear_value y | skip))
    | split)

theorem State.boundaryActs_keep {o₀ s : State} (hK : Keep L o₀ s) (t : Nat) (late : Bool) (lClk : L.clk = true := by first | rfl | assumption) (lClu : L.clu = true := by first | rfl | assumption) (lTasks : L.tasks = true := by first | rfl | assumption) (lSto : L.sto = true := by first | rfl | assumption) (lCsw : L.csw = true := by first | rfl | assumption) (lFio : L.fio = true := by first | rfl | assumption) (lNet : L.net = true := by first | rfl | assumption) (lCan : L.can = true := by first | rfl | assumption) (lDict : L.dict = true := by first | rfl | assumption) (lHost : L.host = true := by first | rfl | assumption) (lWdg : L.wdg = true := by first | rfl | assumption) (lEvr : L.evr = true := by first | rfl | assumption) (lTrc : L.trc = true := by first | rfl | assumption) (lNvp : L.nvp = true := by first | rfl | assumption) (lRtc : L.rtc = true := by first | rfl | assumption) (lPwr : L.pwr = true := by first | rfl | assumption) : Keep L o₀ (State.boundaryActs s t late) := by
  unfold State.boundaryActs
  repeat' (first
    | with_reducible assumption
    | with_reducible apply State.reach_keep
    | with_reducible apply State.replayBoundary_keep
    | with_reducible apply State.drain_keep
    | with_reducible apply State.traceFlush_keep
    | with_reducible apply State.nextBeat_keep
    | with_reducible apply State.takeSettings_keep
    | with_reducible apply State.applyDue_keep
    | with_reducible apply State.redrive_keep
    | with_reducible apply State.reapply_keep
    | with_reducible apply State.heldBoundary_keep
    | with_reducible apply State.execBoundary_keep
    | with_reducible apply State.waitBoundary_keep
    | with_reducible apply Keep.ite
    | (extract_lets +onlyGivenNames y; (first | ((have hy : Keep L o₀ y := (by unfold y; repeat' (first | with_reducible assumption | with_reducible apply State.reach_keep | with_reducible apply State.replayBoundary_keep | with_reducible apply State.drain_keep | with_reducible apply State.traceFlush_keep | with_reducible apply State.nextBeat_keep | with_reducible apply State.takeSettings_keep | with_reducible apply State.applyDue_keep | with_reducible apply State.redrive_keep | with_reducible apply State.reapply_keep | with_reducible apply State.heldBoundary_keep | with_reducible apply State.execBoundary_keep | with_reducible apply State.waitBoundary_keep | with_reducible apply Keep.ite | extract_lets | split))); clear_value y) | clear_value y | skip))
    | split)

theorem State.boundary_keep {o₀ s : State} (hK : Keep L o₀ s) (t : Nat) (late : Bool) (lClk : L.clk = true := by first | rfl | assumption) (lClu : L.clu = true := by first | rfl | assumption) (lTasks : L.tasks = true := by first | rfl | assumption) (lSto : L.sto = true := by first | rfl | assumption) (lCsw : L.csw = true := by first | rfl | assumption) (lFio : L.fio = true := by first | rfl | assumption) (lNet : L.net = true := by first | rfl | assumption) (lCan : L.can = true := by first | rfl | assumption) (lDict : L.dict = true := by first | rfl | assumption) (lHost : L.host = true := by first | rfl | assumption) (lWdg : L.wdg = true := by first | rfl | assumption) (lEvr : L.evr = true := by first | rfl | assumption) (lTrc : L.trc = true := by first | rfl | assumption) (lNvp : L.nvp = true := by first | rfl | assumption) (lRtc : L.rtc = true := by first | rfl | assumption) (lPwr : L.pwr = true := by first | rfl | assumption) : Keep L o₀ (State.boundary s t late) := by
  unfold State.boundary
  repeat' (first
    | with_reducible assumption
    | with_reducible apply State.boundaryActs_keep
    | with_reducible refine Keep.upEvr ?_ (fun xk => ?_)
    | exact xk
    | with_reducible exact Evr.sortTail_le xk
    | with_reducible apply Keep.ite
    | (extract_lets +onlyGivenNames y; (first | ((have hy : Keep L o₀ y := (by unfold y; repeat' (first | with_reducible assumption | with_reducible apply State.boundaryActs_keep | with_reducible refine Keep.upEvr ?_ (fun xk => ?_) | exact xk | with_reducible exact Evr.sortTail_le xk | with_reducible apply Keep.ite | extract_lets | split))); clear_value y) | clear_value y | skip))
    | split)

theorem execBeatBoundary_keep {s s₂ : State} (t : Nat) (traceLate : Bool) (hx : execBeatBoundary t traceLate s = .next s₂) (lClk : L.clk = true := by first | rfl | assumption) (lClu : L.clu = true := by first | rfl | assumption) (lTasks : L.tasks = true := by first | rfl | assumption) (lSto : L.sto = true := by first | rfl | assumption) (lCsw : L.csw = true := by first | rfl | assumption) (lFio : L.fio = true := by first | rfl | assumption) (lNet : L.net = true := by first | rfl | assumption) (lCan : L.can = true := by first | rfl | assumption) (lDict : L.dict = true := by first | rfl | assumption) (lHost : L.host = true := by first | rfl | assumption) (lWdg : L.wdg = true := by first | rfl | assumption) (lEvr : L.evr = true := by first | rfl | assumption) (lTrc : L.trc = true := by first | rfl | assumption) (lNvp : L.nvp = true := by first | rfl | assumption) (lRtc : L.rtc = true := by first | rfl | assumption) (lPwr : L.pwr = true := by first | rfl | assumption) : Keep L s s₂ := by
  unfold execBeatBoundary at hx
  with_reducible refine Keep.commit ?_ hx
  clear hx
  have hK := Keep.refl (L := L) s
  repeat' (first
    | with_reducible assumption
    | with_reducible apply State.boundary_keep
    | with_reducible apply Keep.ite
    | split)

theorem State.landSet_keep {o₀ s : State} (hK : Keep L o₀ s) (lset : Nat) (lClk : L.clk = true := by first | rfl | assumption) (lClu : L.clu = true := by first | rfl | assumption) (lTasks : L.tasks = true := by first | rfl | assumption) (lSto : L.sto = true := by first | rfl | assumption) (lCsw : L.csw = true := by first | rfl | assumption) (lFio : L.fio = true := by first | rfl | assumption) (lNet : L.net = true := by first | rfl | assumption) (lCan : L.can = true := by first | rfl | assumption) (lHost : L.host = true := by first | rfl | assumption) (lWdg : L.wdg = true := by first | rfl | assumption) (lEvr : L.evr = true := by first | rfl | assumption) (lTrc : L.trc = true := by first | rfl | assumption) : Keep L o₀ (State.landSet s lset) := by
  unfold State.landSet
  repeat' (first
    | with_reducible assumption
    | with_reducible apply State.landWbs_keep
    | with_reducible refine Keep.foldl (fun _ _ _ => ?_) _ ?_
    | with_reducible refine Keep.foldl1 (fun _ _ _ _ => ?_) _ ?_
    | with_reducible refine Keep.foldl2 (fun _ _ _ _ => ?_) _ ?_
    | with_reducible apply Keep.ite
    | split)

theorem State.freeLanes_keep {o₀ s : State} (hK : Keep L o₀ s) (lset : Nat) (lClu : L.clu = true := by first | rfl | assumption) : Keep L o₀ (State.freeLanes s lset) := by
  unfold State.freeLanes
  repeat' (first
    | with_reducible assumption
    | with_reducible apply State.upLane_keep
    | with_reducible refine Keep.foldl (fun _ _ _ => ?_) _ ?_
    | with_reducible refine Keep.foldl1 (fun _ _ _ _ => ?_) _ ?_
    | with_reducible refine Keep.foldl2 (fun _ _ _ _ => ?_) _ ?_
    | with_reducible apply Keep.ite
    | split)

theorem State.completeRun_keep {o s : State} (hK : Keep L o s) (t m : Nat) (run : Run) (lTasks : L.tasks = true := by first | rfl | assumption) (lSto : L.sto = true := by first | rfl | assumption) : Keep L o (State.completeRun s t m run) := by
  unfold State.completeRun
  extract_lets lm es u v w outs
  have hl : o.sto.wf ∧ o.ldr.conv.wf = true → lm.wf = true := fun x => ov_apply_wf _ (hK.1.1 x).1.lmem
  have hu : Keep L o u := State.upOpen_keep hK _
  clear_value lm u
  have hv : Keep L o v := (State.forgetRun_keep hu t).upStoWith hl (fun hp xk => ⟨xk.1, hp, xk.3, xk.4, xk.5⟩)
  clear_value v
  exact State.upTask_keep (State.upOpen_keep hv _) _ _

theorem State.finishRun_keep {o₀ s : State} (hK : Keep L o₀ s) (lset : Nat) (t : Nat) (c : Nat) (run : Run) (row : TaskRow) (lClk : L.clk = true := by first | rfl | assumption) (lClu : L.clu = true := by first | rfl | assumption) (lTasks : L.tasks = true := by first | rfl | assumption) (lSto : L.sto = true := by first | rfl | assumption) (lCsw : L.csw = true := by first | rfl | assumption) (lFio : L.fio = true := by first | rfl | assumption) (lNet : L.net = true := by first | rfl | assumption) (lCan : L.can = true := by first | rfl | assumption) (lHost : L.host = true := by first | rfl | assumption) (lWdg : L.wdg = true := by first | rfl | assumption) (lEvr : L.evr = true := by first | rfl | assumption) (lTrc : L.trc = true := by first | rfl | assumption) : Keep L o₀ (State.finishRun s lset t c run row) := by
  unfold State.finishRun
  repeat' (first
    | with_reducible assumption
    | with_reducible apply State.freeLanes_keep
    | with_reducible apply State.divergence_keep
    | with_reducible apply State.completeRun_keep
    | with_reducible apply State.upTask_keep
    | with_reducible apply State.taskCause_keep
    | with_reducible apply State.noteRun_keep
    | with_reducible apply State.taskFrames_keep
    | with_reducible apply State.drain_keep
    | with_reducible apply Keep.upCsw
    | with_reducible apply Keep.ite
    | (extract_lets +onlyGivenNames y; (first | ((have hy : Keep L o₀ y := (by unfold y; repeat' (first | with_reducible assumption | with_reducible apply State.freeLanes_keep | with_reducible apply State.divergence_keep | with_reducible apply State.completeRun_keep | with_reducible apply State.upTask_keep | with_reducible apply State.taskCause_keep | with_reducible apply State.noteRun_keep | with_reducible apply State.taskFrames_keep | with_reducible apply State.drain_keep | with_reducible apply Keep.upCsw | with_reducible apply Keep.ite | extract_lets | split))); clear_value y) | clear_value y | skip))
    | split)

theorem State.complete_keep {o₀ s : State} (hK : Keep L o₀ s) (lset : Nat) (lClk : L.clk = true := by first | rfl | assumption) (lClu : L.clu = true := by first | rfl | assumption) (lTasks : L.tasks = true := by first | rfl | assumption) (lSto : L.sto = true := by first | rfl | assumption) (lCsw : L.csw = true := by first | rfl | assumption) (lFio : L.fio = true := by first | rfl | assumption) (lNet : L.net = true := by first | rfl | assumption) (lCan : L.can = true := by first | rfl | assumption) (lHost : L.host = true := by first | rfl | assumption) (lWdg : L.wdg = true := by first | rfl | assumption) (lEvr : L.evr = true := by first | rfl | assumption) (lTrc : L.trc = true := by first | rfl | assumption) : Keep L o₀ (State.complete s lset) := by
  unfold State.complete
  repeat' (first
    | with_reducible assumption
    | with_reducible apply State.landSet_keep
    | with_reducible apply State.itemDivergence_keep
    | with_reducible apply State.finishRun_keep
    | with_reducible apply Keep.ite
    | (extract_lets +onlyGivenNames y; (first | ((have hy : Keep L o₀ y := (by unfold y; repeat' (first | with_reducible assumption | with_reducible apply State.landSet_keep | with_reducible apply State.itemDivergence_keep | with_reducible apply State.finishRun_keep | with_reducible apply Keep.ite | extract_lets | split))); clear_value y) | clear_value y | skip))
    | split)

theorem execRunCompletion_keep {s s₂ : State} (lset : Nat) (t : Nat) (hx : execRunCompletion lset t s = .next s₂) (lClk : L.clk = true := by first | rfl | assumption) (lClu : L.clu = true := by first | rfl | assumption) (lTasks : L.tasks = true := by first | rfl | assumption) (lSto : L.sto = true := by first | rfl | assumption) (lCsw : L.csw = true := by first | rfl | assumption) (lFio : L.fio = true := by first | rfl | assumption) (lNet : L.net = true := by first | rfl | assumption) (lCan : L.can = true := by first | rfl | assumption) (lHost : L.host = true := by first | rfl | assumption) (lWdg : L.wdg = true := by first | rfl | assumption) (lEvr : L.evr = true := by first | rfl | assumption) (lTrc : L.trc = true := by first | rfl | assumption) : Keep L s s₂ := by
  unfold execRunCompletion at hx
  with_reducible refine Keep.commit ?_ hx
  clear hx
  have hK := Keep.refl (L := L) s
  repeat' (first
    | with_reducible assumption
    | with_reducible apply State.reach_keep
    | with_reducible apply State.complete_keep
    | with_reducible apply Keep.ite
    | split)

theorem State.headDurable_keep {o s : State} (hK : Keep L o s) (lSto : L.sto = true := by first | rfl | assumption) (lEvr : L.evr = true := by first | rfl | assumption) : Keep L o (State.headDurable s) := by
  unfold State.headDurable
  split
  · exact hK
  · next m rest _ =>
    extract_lets u v
    have hu : Keep L o u := hK.upSto (fun xk => ⟨xk.1, xk.2, ov_apply_wf _ xk.3, xk.4, xk.5⟩)
    clear_value u
    have hv : Keep L o v := hu.upEvr (fun xk => by rw [Evr.completeSnaps_queue]; exact xk)
    clear_value v
    exact Keep.ite (State.upOther_keep hv _) hv

theorem State.durableNow_keep {o₀ s : State} (hK : Keep L o₀ s) (lSto : L.sto = true := by first | rfl | assumption) (lNet : L.net = true := by first | rfl | assumption) (lCan : L.can = true := by first | rfl | assumption) (lDict : L.dict = true := by first | rfl | assumption) (lEvr : L.evr = true := by first | rfl | assumption) : Keep L o₀ (State.durableNow s) := by
  unfold State.durableNow
  repeat' (first
    | with_reducible assumption
    | with_reducible apply State.headDurable_keep
    | with_reducible apply State.reportBatches_keep
    | with_reducible apply Keep.ite
    | split)

theorem execMilestoneDurable_keep {s s₂ : State} (t : Nat) (hx : execMilestoneDurable t s = .next s₂) (lClk : L.clk = true := by first | rfl | assumption) (lSto : L.sto = true := by first | rfl | assumption) (lNet : L.net = true := by first | rfl | assumption) (lCan : L.can = true := by first | rfl | assumption) (lDict : L.dict = true := by first | rfl | assumption) (lEvr : L.evr = true := by first | rfl | assumption) : Keep L s s₂ := by
  unfold execMilestoneDurable at hx
  with_reducible refine Keep.commit ?_ hx
  clear hx
  have hK := Keep.refl (L := L) s
  repeat' (first
    | with_reducible assumption
    | with_reducible apply State.reach_keep
    | with_reducible apply State.durableNow_keep
    | with_reducible apply Keep.ite
    | split)

theorem execSettleDone_keep {s s₂ : State} (t : Nat) (hx : execSettleDone t s = .next s₂) (lClk : L.clk = true := by first | rfl | assumption) (lSto : L.sto = true := by first | rfl | assumption) : Keep L s s₂ := by
  unfold execSettleDone at hx
  with_reducible refine Keep.commit ?_ hx
  clear hx
  have hK := Keep.refl (L := L) s
  repeat' (first
    | with_reducible assumption
    | with_reducible apply State.reach_keep
    | with_reducible apply State.upOther_keep
    | with_reducible apply refused_kept
    | with_reducible apply refusedIn_kept
    | with_reducible apply done_kept
    | with_reducible apply needPriv_kept
    | with_reducible apply needOpen_kept
    | with_reducible apply needLegal_kept
    | with_reducible refine Keep.upSto ?_ (fun xk => ?_)
    | with_reducible exact xk
    | (with_reducible refine Store.wf.mk ?_ ?_ ?_ ?_ ?_ <;> try dsimp only)
    | with_reducible exact xk.program
    | with_reducible exact xk.lmem
    | with_reducible exact xk.durable
    | with_reducible exact xk.inView
    | with_reducible exact xk.launched
    | with_reducible apply memPut_wf
    | with_reducible apply ov_apply_wf
    | with_reducible apply memWrite_wf
    | with_reducible apply memClear_wf
    | with_reducible apply memRange_wf
    | with_reducible apply mem_nil_wf
    | with_reducible apply memOf_wf
    | with_reducible apply Keep.ite
    | (extract_lets +onlyGivenNames y; (first | ((have hy : Keep L s y := (by unfold y; repeat' (first | with_reducible assumption | with_reducible apply State.reach_keep | with_reducible apply State.upOther_keep | with_reducible apply refused_kept | with_reducible apply refusedIn_kept | with_reducible apply done_kept | with_reducible apply needPriv_kept | with_reducible apply needOpen_kept | with_reducible apply needLegal_kept | with_reducible refine Keep.upSto ?_ (fun xk => ?_) | with_reducible exact xk | (with_reducible refine Store.wf.mk ?_ ?_ ?_ ?_ ?_ <;> try dsimp only) | with_reducible exact xk.program | with_reducible exact xk.lmem | with_reducible exact xk.durable | with_reducible exact xk.inView | with_reducible exact xk.launched | with_reducible apply memPut_wf | with_reducible apply ov_apply_wf | with_reducible apply memWrite_wf | with_reducible apply memClear_wf | with_reducible apply memRange_wf | with_reducible apply mem_nil_wf | with_reducible apply memOf_wf | with_reducible apply Keep.ite | extract_lets | split))); clear_value y) | clear_value y | skip))
    | split)

theorem State.clearFault_keep {o₀ s : State} (hK : Keep L o₀ s) (t : Nat) (lTasks : L.tasks = true := by first | rfl | assumption) : Keep L o₀ (State.clearFault s t) := by
  unfold State.clearFault
  repeat' (first
    | with_reducible assumption
    | with_reducible apply State.upTask_keep
    | with_reducible apply Keep.ite
    | split)

theorem execFaultClear_keep {s s₂ : State} (task : Nat) (hx : execFaultClear task s = .next s₂) (lTasks : L.tasks = true := by first | rfl | assumption) : Keep L s s₂ := by
  unfold execFaultClear at hx
  with_reducible refine Keep.commit ?_ hx
  clear hx
  have hK := Keep.refl (L := L) s
  repeat' (first
    | with_reducible assumption
    | with_reducible apply State.clearFault_keep
    | with_reducible apply Keep.ite
    | split)

theorem State.laneSetGone_keep {o₀ s : State} (hK : Keep L o₀ s) (lClk : L.clk = true := by first | rfl | assumption) (lClu : L.clu = true := by first | rfl | assumption) (lSto : L.sto = true := by first | rfl | assumption) (lCsw : L.csw = true := by first | rfl | assumption) (lFio : L.fio = true := by first | rfl | assumption) (lNet : L.net = true := by first | rfl | assumption) (lCan : L.can = true := by first | rfl | assumption) (lDict : L.dict = true := by first | rfl | assumption) (lHost : L.host = true := by first | rfl | assumption) (lWdg : L.wdg = true := by first | rfl | assumption) (lEvr : L.evr = true := by first | rfl | assumption) (lTrc : L.trc = true := by first | rfl | assumption) : Keep L o₀ (State.laneSetGone s) := by
  unfold State.laneSetGone
  repeat' (first
    | with_reducible assumption
    | with_reducible apply State.laneSetRecord_keep
    | with_reducible apply State.enterFailed_keep
    | with_reducible apply State.failSafeHalt_keep
    | with_reducible refine Keep.upSto ?_ (fun xk => ?_)
    | with_reducible exact xk
    | (with_reducible refine Store.wf.mk ?_ ?_ ?_ ?_ ?_ <;> try dsimp only)
    | with_reducible exact xk.program
    | with_reducible exact xk.lmem
    | with_reducible exact xk.durable
    | with_reducible exact xk.inView
    | with_reducible exact xk.launched
    | with_reducible apply memPut_wf
    | with_reducible apply ov_apply_wf
    | with_reducible apply memWrite_wf
    | with_reducible apply memClear_wf
    | with_reducible apply memRange_wf
    | with_reducible apply mem_nil_wf
    | with_reducible apply memOf_wf
    | with_reducible apply Keep.ite
    | (extract_lets +onlyGivenNames y; (first | ((have hy : Keep L o₀ y := (by unfold y; repeat' (first | with_reducible assumption | with_reducible apply State.laneSetRecord_keep | with_reducible apply State.enterFailed_keep | with_reducible apply State.failSafeHalt_keep | with_reducible refine Keep.upSto ?_ (fun xk => ?_) | with_reducible exact xk | (with_reducible refine Store.wf.mk ?_ ?_ ?_ ?_ ?_ <;> try dsimp only) | with_reducible exact xk.program | with_reducible exact xk.lmem | with_reducible exact xk.durable | with_reducible exact xk.inView | with_reducible exact xk.launched | with_reducible apply memPut_wf | with_reducible apply ov_apply_wf | with_reducible apply memWrite_wf | with_reducible apply memClear_wf | with_reducible apply memRange_wf | with_reducible apply mem_nil_wf | with_reducible apply memOf_wf | with_reducible apply Keep.ite | extract_lets | split))); clear_value y) | clear_value y | skip))
    | split)

theorem State.requestTable_keep {o₀ s : State} (hK : Keep L o₀ s) (reduced : Bool) (lSto : L.sto = true := by first | rfl | assumption) (lPwr : L.pwr = true := by first | rfl | assumption) : Keep L o₀ (State.requestTable s reduced) := by
  unfold State.requestTable
  repeat' (first
    | with_reducible assumption
    | with_reducible apply State.wideOff_keep
    | with_reducible refine Keep.upSto ?_ (fun xk => ?_)
    | with_reducible exact xk
    | (with_reducible refine Store.wf.mk ?_ ?_ ?_ ?_ ?_ <;> try dsimp only)
    | with_reducible exact xk.program
    | with_reducible exact xk.lmem
    | with_reducible exact xk.durable
    | with_reducible exact xk.inView
    | with_reducible exact xk.launched
    | with_reducible apply memPut_wf
    | with_reducible apply ov_apply_wf
    | with_reducible apply memWrite_wf
    | with_reducible apply memClear_wf
    | with_reducible apply memRange_wf
    | with_reducible apply mem_nil_wf
    | with_reducible apply memOf_wf
    | with_reducible apply Keep.ite
    | (extract_lets +onlyGivenNames y; (first | ((have hy : Keep L o₀ y := (by unfold y; repeat' (first | with_reducible assumption | with_reducible apply State.wideOff_keep | with_reducible refine Keep.upSto ?_ (fun xk => ?_) | with_reducible exact xk | (with_reducible refine Store.wf.mk ?_ ?_ ?_ ?_ ?_ <;> try dsimp only) | with_reducible exact xk.program | with_reducible exact xk.lmem | with_reducible exact xk.durable | with_reducible exact xk.inView | with_reducible exact xk.launched | with_reducible apply memPut_wf | with_reducible apply ov_apply_wf | with_reducible apply memWrite_wf | with_reducible apply memClear_wf | with_reducible apply memRange_wf | with_reducible apply mem_nil_wf | with_reducible apply memOf_wf | with_reducible apply Keep.ite | extract_lets | split))); clear_value y) | clear_value y | skip))
    | split)

theorem execEnterReduced_keep {s s₂ : State} (t : Nat) (hx : execEnterReduced t s = .next s₂) (lClk : L.clk = true := by first | rfl | assumption) (lClu : L.clu = true := by first | rfl | assumption) (lSto : L.sto = true := by first | rfl | assumption) (lCsw : L.csw = true := by first | rfl | assumption) (lFio : L.fio = true := by first | rfl | assumption) (lNet : L.net = true := by first | rfl | assumption) (lCan : L.can = true := by first | rfl | assumption) (lDict : L.dict = true := by first | rfl | assumption) (lHost : L.host = true := by first | rfl | assumption) (lWdg : L.wdg = true := by first | rfl | assumption) (lEvr : L.evr = true := by first | rfl | assumption) (lTrc : L.trc = true := by first | rfl | assumption) (lPwr : L.pwr = true := by first | rfl | assumption) : Keep L s s₂ := by
  unfold execEnterReduced at hx
  with_reducible refine Keep.commit ?_ hx
  clear hx
  have hK := Keep.refl (L := L) s
  repeat' (first
    | with_reducible assumption
    | with_reducible apply State.reach_keep
    | with_reducible apply State.powerCause_keep
    | with_reducible apply State.wideOff_keep
    | with_reducible apply State.laneSetGone_keep
    | with_reducible apply State.requestTable_keep
    | with_reducible apply Keep.upPwr
    | with_reducible apply Keep.ite
    | (extract_lets +onlyGivenNames y; (first | ((have hy : Keep L s y := (by unfold y; repeat' (first | with_reducible assumption | with_reducible apply State.reach_keep | with_reducible apply State.powerCause_keep | with_reducible apply State.wideOff_keep | with_reducible apply State.laneSetGone_keep | with_reducible apply State.requestTable_keep | with_reducible apply Keep.upPwr | with_reducible apply Keep.ite | extract_lets | split))); clear_value y) | clear_value y | skip))
    | split)

theorem execReturnToRun_keep {s s₂ : State} (t : Nat) (hx : execReturnToRun t s = .next s₂) (lClk : L.clk = true := by first | rfl | assumption) (lSto : L.sto = true := by first | rfl | assumption) (lHost : L.host = true := by first | rfl | assumption) (lEvr : L.evr = true := by first | rfl | assumption) (lPwr : L.pwr = true := by first | rfl | assumption) : Keep L s s₂ := by
  unfold execReturnToRun at hx
  with_reducible refine Keep.commit ?_ hx
  clear hx
  have hK := Keep.refl (L := L) s
  repeat' (first
    | with_reducible assumption
    | with_reducible apply State.reach_keep
    | with_reducible apply State.powerCause_keep
    | with_reducible apply State.requestTable_keep
    | with_reducible apply Keep.upPwr
    | with_reducible apply Keep.ite
    | (extract_lets +onlyGivenNames y; (first | ((have hy : Keep L s y := (by unfold y; repeat' (first | with_reducible assumption | with_reducible apply State.reach_keep | with_reducible apply State.powerCause_keep | with_reducible apply State.requestTable_keep | with_reducible apply Keep.upPwr | with_reducible apply Keep.ite | extract_lets | split))); clear_value y) | clear_value y | skip))
    | split)

theorem State.setAnchor_keep {o₀ s : State} (hK : Keep L o₀ s) (a : Anchor) (b : Nat) (lClk : L.clk = true := by first | rfl | assumption) (lClu : L.clu = true := by first | rfl | assumption) (lTasks : L.tasks = true := by first | rfl | assumption) (lSto : L.sto = true := by first | rfl | assumption) (lCsw : L.csw = true := by first | rfl | assumption) (lFio : L.fio = true := by first | rfl | assumption) : Keep L o₀ (State.setAnchor s a b) := by
  unfold State.setAnchor
  repeat' (first
    | with_reducible assumption
    | with_reducible apply State.applyWords_keep
    | with_reducible apply Keep.upClk
    | with_reducible apply Keep.upClu
    | with_reducible apply Keep.upTasks
    | with_reducible apply Keep.upCsw
    | with_reducible refine Keep.upSto ?_ (fun xk => ?_)
    | with_reducible exact xk
    | (with_reducible refine Store.wf.mk ?_ ?_ ?_ ?_ ?_ <;> try dsimp only)
    | with_reducible exact xk.program
    | with_reducible exact xk.lmem
    | with_reducible exact xk.durable
    | with_reducible exact xk.inView
    | with_reducible exact xk.launched
    | with_reducible apply memPut_wf
    | with_reducible apply ov_apply_wf
    | with_reducible apply memWrite_wf
    | with_reducible apply memClear_wf
    | with_reducible apply memRange_wf
    | with_reducible apply mem_nil_wf
    | with_reducible apply memOf_wf
    | with_reducible apply Keep.ite
    | (extract_lets +onlyGivenNames y; (first | ((have hy : Keep L o₀ y := (by unfold y; repeat' (first | with_reducible assumption | with_reducible apply State.applyWords_keep | with_reducible apply Keep.upClk | with_reducible apply Keep.upClu | with_reducible apply Keep.upTasks | with_reducible apply Keep.upCsw | with_reducible refine Keep.upSto ?_ (fun xk => ?_) | with_reducible exact xk | (with_reducible refine Store.wf.mk ?_ ?_ ?_ ?_ ?_ <;> try dsimp only) | with_reducible exact xk.program | with_reducible exact xk.lmem | with_reducible exact xk.durable | with_reducible exact xk.inView | with_reducible exact xk.launched | with_reducible apply memPut_wf | with_reducible apply ov_apply_wf | with_reducible apply memWrite_wf | with_reducible apply memClear_wf | with_reducible apply memRange_wf | with_reducible apply mem_nil_wf | with_reducible apply memOf_wf | with_reducible apply Keep.ite | extract_lets | split))); clear_value y) | clear_value y | skip))
    | split)

theorem State.refuseReplay_keep {o₀ s : State} (hK : Keep L o₀ s) (lClk : L.clk = true := by first | rfl | assumption) (lDict : L.dict = true := by first | rfl | assumption) (lEvr : L.evr = true := by first | rfl | assumption) (lTrc : L.trc = true := by first | rfl | assumption) : Keep L o₀ (State.refuseReplay s) := by
  unfold State.refuseReplay
  repeat' (first
    | with_reducible assumption
    | with_reducible apply State.endReplay_keep
    | with_reducible apply State.modeRefuse_keep
    | with_reducible apply Keep.upTrc
    | with_reducible apply Keep.ite
    | split)

theorem State.startReplay_keep {o₀ s : State} (hK : Keep L o₀ s) (lClk : L.clk = true := by first | rfl | assumption) (lClu : L.clu = true := by first | rfl | assumption) (lTasks : L.tasks = true := by first | rfl | assumption) (lSto : L.sto = true := by first | rfl | assumption) (lCsw : L.csw = true := by first | rfl | assumption) (lFio : L.fio = true := by first | rfl | assumption) (lCan : L.can = true := by first | rfl | assumption) (lDict : L.dict = true := by first | rfl | assumption) (lHost : L.host = true := by first | rfl | assumption) (lWdg : L.wdg = true := by first | rfl | assumption) (lEvr : L.evr = true := by first | rfl | assumption) (lTrc : L.trc = true := by first | rfl | assumption) (lFree : L.free = true := by first | rfl | assumption) : Keep L o₀ (State.startReplay s) := by
  unfold State.startReplay
  repeat' (first
    | with_reducible assumption
    | with_reducible apply State.refuseReplay_keep
    | with_reducible apply State.setAnchor_keep
    | with_reducible apply State.useFree_keep
    | with_reducible apply State.releaseDue_keep
    | with_reducible apply State.launchAct_keep
    | with_reducible apply Keep.upTrc
    | with_reducible apply Keep.ite
    | (extract_lets +onlyGivenNames y; (first | ((have hy : Keep L o₀ y := (by unfold y; repeat' (first | with_reducible assumption | with_reducible apply State.refuseReplay_keep | with_reducible apply State.setAnchor_keep | with_reducible apply State.useFree_keep | with_reducible apply State.releaseDue_keep | with_reducible apply State.launchAct_keep | with_reducible apply Keep.upTrc | with_reducible apply Keep.ite | extract_lets | split))); clear_value y) | clear_value y | skip))
    | split)

theorem execReplayStart_keep {s s₂ : State} (hx : execReplayStart s = .next s₂) (lClk : L.clk = true := by first | rfl | assumption) (lClu : L.clu = true := by first | rfl | assumption) (lTasks : L.tasks = true := by first | rfl | assumption) (lSto : L.sto = true := by first | rfl | assumption) (lCsw : L.csw = true := by first | rfl | assumption) (lFio : L.fio = true := by first | rfl | assumption) (lCan : L.can = true := by first | rfl | assumption) (lDict : L.dict = true := by first | rfl | assumption) (lHost : L.host = true := by first | rfl | assumption) (lWdg : L.wdg = true := by first | rfl | assumption) (lEvr : L.evr = true := by first | rfl | assumption) (lTrc : L.trc = true := by first | rfl | assumption) (lFree : L.free = true := by first | rfl | assumption) : Keep L s s₂ := by
  unfold execReplayStart at hx
  with_reducible refine Keep.commit ?_ hx
  clear hx
  have hK := Keep.refl (L := L) s
  repeat' (first
    | with_reducible assumption
    | with_reducible apply State.startReplay_keep
    | with_reducible apply Keep.ite
    | split)

end Sys2Proof.Machine
end

