-- ==== Sys2Proof/Laws/Ops.lean ====
section
/-! SUPPORT. What each shared operation of Machine/Ops.lean leaves of each part of the state, and what it writes in its own. -/

namespace Sys2Proof.Machine

open Sys2Proof

/-- A command's answer is the next state: its effect with the interrupt counters (12 R375). -/
theorem commit_eq (s t : State) : commit s t = .next (countEdges s t) := rfl

theorem next_of_commit {s u t : State} (h : commit s u = .next t) : t = countEdges s u := by
  cases h
  rfl

/-- Where no line rises no interrupt counter counts. -/
theorem countEdges_self (s : State) : countEdges s s = s := by
  have key : ∀ (l : List Nat) (acc : List (Nat × Nat)), l.foldl (fun acc i =>
      if sourceUsed i && s.countLine i && !s.countLine i then aputd 0 acc i (satAdd 255 ((aget acc i).getD 0) 1) else acc) acc = acc := by
    intro l
    induction l with
    | nil => exact fun _ => rfl
    | cons i t ih =>
      intro acc
      rw [List.foldl_cons, ih]
      cases s.countLine i <;> simp
  unfold countEdges
  dsimp only
  rw [key]
  rfl

theorem commit_self (s : State) : commit s s = .next s := by rw [commit_eq, countEdges_self]

/-- Only the interrupt counters of the register block may change between an effect and its answer. -/
theorem countEdges_host (s t : State) : { (countEdges s t).host with counts := t.host.counts } = t.host := rfl

@[simp] theorem countEdges_clk (s t : State) : (countEdges s t).clk = t.clk := rfl
@[simp] theorem countEdges_clu (s t : State) : (countEdges s t).clu = t.clu := rfl
@[simp] theorem countEdges_tasks (s t : State) : (countEdges s t).tasks = t.tasks := rfl
@[simp] theorem countEdges_sto (s t : State) : (countEdges s t).sto = t.sto := rfl
@[simp] theorem countEdges_ldr (s t : State) : (countEdges s t).ldr = t.ldr := rfl
@[simp] theorem countEdges_csw (s t : State) : (countEdges s t).csw = t.csw := rfl
@[simp] theorem countEdges_fio (s t : State) : (countEdges s t).fio = t.fio := rfl
@[simp] theorem countEdges_net (s t : State) : (countEdges s t).net = t.net := rfl
@[simp] theorem countEdges_can (s t : State) : (countEdges s t).can = t.can := rfl
@[simp] theorem countEdges_dict (s t : State) : (countEdges s t).dict = t.dict := rfl
@[simp] theorem countEdges_wdg (s t : State) : (countEdges s t).wdg = t.wdg := rfl
@[simp] theorem countEdges_evr (s t : State) : (countEdges s t).evr = t.evr := rfl
@[simp] theorem countEdges_trc (s t : State) : (countEdges s t).trc = t.trc := rfl
@[simp] theorem countEdges_nvp (s t : State) : (countEdges s t).nvp = t.nvp := rfl
@[simp] theorem countEdges_fw (s t : State) : (countEdges s t).fw = t.fw := rfl
@[simp] theorem countEdges_rtc (s t : State) : (countEdges s t).rtc = t.rtc := rfl
@[simp] theorem countEdges_pwr (s t : State) : (countEdges s t).pwr = t.pwr := rfl
@[simp] theorem countEdges_met (s t : State) : (countEdges s t).met = t.met := rfl
@[simp] theorem countEdges_free (s t : State) : (countEdges s t).free = t.free := rfl
@[simp] theorem countEdges_pending (s t : State) : (countEdges s t).pending = t.pending := rfl
@[simp] theorem countEdges_regs (s t : State) : (countEdges s t).host.regs = t.host.regs := rfl
@[simp] theorem countEdges_rdata (s t : State) : (countEdges s t).host.rdata = t.host.rdata := rfl
@[simp] theorem countEdges_fault (s t : State) : (countEdges s t).host.fault = t.host.fault := rfl
@[simp] theorem countEdges_faultAddr (s t : State) : (countEdges s t).host.faultAddr = t.host.faultAddr := rfl
@[simp] theorem countEdges_roleNext (s t : State) : (countEdges s t).host.roleNext = t.host.roleNext := rfl
@[simp] theorem countEdges_exeCause (s t : State) : (countEdges s t).host.exeCause = t.host.exeCause := rfl
@[simp] theorem countEdges_exeCauseEn (s t : State) : (countEdges s t).host.exeCauseEn = t.host.exeCauseEn := rfl
@[simp] theorem countEdges_taskCause (s t : State) : (countEdges s t).host.taskCause = t.host.taskCause := rfl
@[simp] theorem countEdges_memCause (s t : State) : (countEdges s t).host.memCause = t.host.memCause := rfl
@[simp] theorem countEdges_memCauseEn (s t : State) : (countEdges s t).host.memCauseEn = t.host.memCauseEn := rfl
@[simp] theorem countEdges_powerCause (s t : State) : (countEdges s t).host.powerCause = t.host.powerCause := rfl
@[simp] theorem countEdges_ready (s t : State) : (countEdges s t).host.ready = t.host.ready := rfl
@[simp] theorem countEdges_priv (s t : State) : (countEdges s t).host.priv = t.host.priv := rfl
@[simp] theorem countEdges_lockout (s t : State) : (countEdges s t).host.lockout = t.host.lockout := rfl
@[simp] theorem countEdges_fresh (s t : State) : (countEdges s t).host.fresh = t.host.fresh := rfl
@[simp] theorem countEdges_nonce (s t : State) : (countEdges s t).host.nonce = t.host.nonce := rfl
@[simp] theorem countEdges_proof (s t : State) : (countEdges s t).host.proof = t.host.proof := rfl
@[simp] theorem countEdges_hptCause (s t : State) : (countEdges s t).host.hptCause = t.host.hptCause := rfl
@[simp] theorem countEdges_hptCauseEn (s t : State) : (countEdges s t).host.hptCauseEn = t.host.hptCauseEn := rfl
@[simp] theorem countEdges_routes (s t : State) : (countEdges s t).host.routes = t.host.routes := rfl
@[simp] theorem countEdges_serving (s t : State) : (countEdges s t).host.serving = t.host.serving := rfl
@[simp] theorem countEdges_hwRev (s t : State) : (countEdges s t).host.hwRev = t.host.hwRev := rfl
@[simp] theorem countEdges_code (s t : State) : (countEdges s t).host.code = t.host.code := rfl
@[simp] theorem countEdges_serial (s t : State) : (countEdges s t).host.serial = t.host.serial := rfl
@[simp] theorem countEdges_vendor (s t : State) : (countEdges s t).host.vendor = t.host.vendor := rfl

namespace State

variable (s : State)

@[simp] theorem occurSev_clk (code source sev : Nat) (d : List Byte) : (s.occurSev code source sev d).clk = s.clk := by unfold occurSev; split <;> rfl
@[simp] theorem occurSev_clu (code source sev : Nat) (d : List Byte) : (s.occurSev code source sev d).clu = s.clu := by unfold occurSev; split <;> rfl
@[simp] theorem occurSev_tasks (code source sev : Nat) (d : List Byte) : (s.occurSev code source sev d).tasks = s.tasks := by unfold occurSev; split <;> rfl
@[simp] theorem occurSev_sto (code source sev : Nat) (d : List Byte) : (s.occurSev code source sev d).sto = s.sto := by unfold occurSev; split <;> rfl
@[simp] theorem occurSev_ldr (code source sev : Nat) (d : List Byte) : (s.occurSev code source sev d).ldr = s.ldr := by unfold occurSev; split <;> rfl
@[simp] theorem occurSev_csw (code source sev : Nat) (d : List Byte) : (s.occurSev code source sev d).csw = s.csw := by unfold occurSev; split <;> rfl
@[simp] theorem occurSev_fio (code source sev : Nat) (d : List Byte) : (s.occurSev code source sev d).fio = s.fio := by unfold occurSev; split <;> rfl
@[simp] theorem occurSev_net (code source sev : Nat) (d : List Byte) : (s.occurSev code source sev d).net = s.net := by unfold occurSev; split <;> rfl
@[simp] theorem occurSev_can (code source sev : Nat) (d : List Byte) : (s.occurSev code source sev d).can = s.can := by unfold occurSev; split <;> rfl
@[simp] theorem occurSev_dict (code source sev : Nat) (d : List Byte) : (s.occurSev code source sev d).dict = s.dict := by unfold occurSev; split <;> rfl
@[simp] theorem occurSev_host (code source sev : Nat) (d : List Byte) : (s.occurSev code source sev d).host = s.host := by unfold occurSev; split <;> rfl
@[simp] theorem occurSev_wdg (code source sev : Nat) (d : List Byte) : (s.occurSev code source sev d).wdg = s.wdg := by unfold occurSev; split <;> rfl
@[simp] theorem occurSev_trc (code source sev : Nat) (d : List Byte) : (s.occurSev code source sev d).trc = s.trc := by unfold occurSev; split <;> rfl
@[simp] theorem occurSev_nvp (code source sev : Nat) (d : List Byte) : (s.occurSev code source sev d).nvp = s.nvp := by unfold occurSev; split <;> rfl
@[simp] theorem occurSev_fw (code source sev : Nat) (d : List Byte) : (s.occurSev code source sev d).fw = s.fw := by unfold occurSev; split <;> rfl
@[simp] theorem occurSev_rtc (code source sev : Nat) (d : List Byte) : (s.occurSev code source sev d).rtc = s.rtc := by unfold occurSev; split <;> rfl
@[simp] theorem occurSev_pwr (code source sev : Nat) (d : List Byte) : (s.occurSev code source sev d).pwr = s.pwr := by unfold occurSev; split <;> rfl
@[simp] theorem occurSev_met (code source sev : Nat) (d : List Byte) : (s.occurSev code source sev d).met = s.met := by unfold occurSev; split <;> rfl
@[simp] theorem occurSev_free (code source sev : Nat) (d : List Byte) : (s.occurSev code source sev d).free = s.free := by unfold occurSev; split <;> rfl
@[simp] theorem occurSev_pending (code source sev : Nat) (d : List Byte) : (s.occurSev code source sev d).pending = s.pending := by unfold occurSev; split <;> rfl
@[simp] theorem occur_clk (code source : Nat) (d : List Byte) : (s.occur code source d).clk = s.clk := occurSev_clk ..
@[simp] theorem occur_clu (code source : Nat) (d : List Byte) : (s.occur code source d).clu = s.clu := occurSev_clu ..
@[simp] theorem occur_tasks (code source : Nat) (d : List Byte) : (s.occur code source d).tasks = s.tasks := occurSev_tasks ..
@[simp] theorem occur_sto (code source : Nat) (d : List Byte) : (s.occur code source d).sto = s.sto := occurSev_sto ..
@[simp] theorem occur_ldr (code source : Nat) (d : List Byte) : (s.occur code source d).ldr = s.ldr := occurSev_ldr ..
@[simp] theorem occur_csw (code source : Nat) (d : List Byte) : (s.occur code source d).csw = s.csw := occurSev_csw ..
@[simp] theorem occur_fio (code source : Nat) (d : List Byte) : (s.occur code source d).fio = s.fio := occurSev_fio ..
@[simp] theorem occur_net (code source : Nat) (d : List Byte) : (s.occur code source d).net = s.net := occurSev_net ..
@[simp] theorem occur_can (code source : Nat) (d : List Byte) : (s.occur code source d).can = s.can := occurSev_can ..
@[simp] theorem occur_dict (code source : Nat) (d : List Byte) : (s.occur code source d).dict = s.dict := occurSev_dict ..
@[simp] theorem occur_host (code source : Nat) (d : List Byte) : (s.occur code source d).host = s.host := occurSev_host ..
@[simp] theorem occur_wdg (code source : Nat) (d : List Byte) : (s.occur code source d).wdg = s.wdg := occurSev_wdg ..
@[simp] theorem occur_trc (code source : Nat) (d : List Byte) : (s.occur code source d).trc = s.trc := occurSev_trc ..
@[simp] theorem occur_nvp (code source : Nat) (d : List Byte) : (s.occur code source d).nvp = s.nvp := occurSev_nvp ..
@[simp] theorem occur_fw (code source : Nat) (d : List Byte) : (s.occur code source d).fw = s.fw := occurSev_fw ..
@[simp] theorem occur_rtc (code source : Nat) (d : List Byte) : (s.occur code source d).rtc = s.rtc := occurSev_rtc ..
@[simp] theorem occur_pwr (code source : Nat) (d : List Byte) : (s.occur code source d).pwr = s.pwr := occurSev_pwr ..
@[simp] theorem occur_met (code source : Nat) (d : List Byte) : (s.occur code source d).met = s.met := occurSev_met ..
@[simp] theorem occur_free (code source : Nat) (d : List Byte) : (s.occur code source d).free = s.free := occurSev_free ..
@[simp] theorem occur_pending (code source : Nat) (d : List Byte) : (s.occur code source d).pending = s.pending := occurSev_pending ..
@[simp] theorem exeCause_clk (b : Nat) (d : List Byte) : (s.exeCause b d).clk = s.clk := occur_clk ..
@[simp] theorem exeCause_clu (b : Nat) (d : List Byte) : (s.exeCause b d).clu = s.clu := occur_clu ..
@[simp] theorem exeCause_tasks (b : Nat) (d : List Byte) : (s.exeCause b d).tasks = s.tasks := occur_tasks ..
@[simp] theorem exeCause_sto (b : Nat) (d : List Byte) : (s.exeCause b d).sto = s.sto := occur_sto ..
@[simp] theorem exeCause_ldr (b : Nat) (d : List Byte) : (s.exeCause b d).ldr = s.ldr := occur_ldr ..
@[simp] theorem exeCause_csw (b : Nat) (d : List Byte) : (s.exeCause b d).csw = s.csw := occur_csw ..
@[simp] theorem exeCause_fio (b : Nat) (d : List Byte) : (s.exeCause b d).fio = s.fio := occur_fio ..
@[simp] theorem exeCause_net (b : Nat) (d : List Byte) : (s.exeCause b d).net = s.net := occur_net ..
@[simp] theorem exeCause_can (b : Nat) (d : List Byte) : (s.exeCause b d).can = s.can := occur_can ..
@[simp] theorem exeCause_dict (b : Nat) (d : List Byte) : (s.exeCause b d).dict = s.dict := occur_dict ..
@[simp] theorem exeCause_wdg (b : Nat) (d : List Byte) : (s.exeCause b d).wdg = s.wdg := occur_wdg ..
@[simp] theorem exeCause_trc (b : Nat) (d : List Byte) : (s.exeCause b d).trc = s.trc := occur_trc ..
@[simp] theorem exeCause_nvp (b : Nat) (d : List Byte) : (s.exeCause b d).nvp = s.nvp := occur_nvp ..
@[simp] theorem exeCause_fw (b : Nat) (d : List Byte) : (s.exeCause b d).fw = s.fw := occur_fw ..
@[simp] theorem exeCause_rtc (b : Nat) (d : List Byte) : (s.exeCause b d).rtc = s.rtc := occur_rtc ..
@[simp] theorem exeCause_pwr (b : Nat) (d : List Byte) : (s.exeCause b d).pwr = s.pwr := occur_pwr ..
@[simp] theorem exeCause_met (b : Nat) (d : List Byte) : (s.exeCause b d).met = s.met := occur_met ..
@[simp] theorem exeCause_free (b : Nat) (d : List Byte) : (s.exeCause b d).free = s.free := occur_free ..
@[simp] theorem exeCause_pending (b : Nat) (d : List Byte) : (s.exeCause b d).pending = s.pending := occur_pending ..
@[simp] theorem exeCause_host (b : Nat) (d : List Byte) : (s.exeCause b d).host = { s.host with exeCause := setBit s.host.exeCause b true } := occur_host ..
@[simp] theorem taskCause_clk (t kind cause bundle : Nat) : (s.taskCause t kind cause bundle).clk = s.clk := occur_clk ..
@[simp] theorem taskCause_clu (t kind cause bundle : Nat) : (s.taskCause t kind cause bundle).clu = s.clu := occur_clu ..
@[simp] theorem taskCause_tasks (t kind cause bundle : Nat) : (s.taskCause t kind cause bundle).tasks = s.tasks := occur_tasks ..
@[simp] theorem taskCause_sto (t kind cause bundle : Nat) : (s.taskCause t kind cause bundle).sto = s.sto := occur_sto ..
@[simp] theorem taskCause_ldr (t kind cause bundle : Nat) : (s.taskCause t kind cause bundle).ldr = s.ldr := occur_ldr ..
@[simp] theorem taskCause_csw (t kind cause bundle : Nat) : (s.taskCause t kind cause bundle).csw = s.csw := occur_csw ..
@[simp] theorem taskCause_fio (t kind cause bundle : Nat) : (s.taskCause t kind cause bundle).fio = s.fio := occur_fio ..
@[simp] theorem taskCause_net (t kind cause bundle : Nat) : (s.taskCause t kind cause bundle).net = s.net := occur_net ..
@[simp] theorem taskCause_can (t kind cause bundle : Nat) : (s.taskCause t kind cause bundle).can = s.can := occur_can ..
@[simp] theorem taskCause_dict (t kind cause bundle : Nat) : (s.taskCause t kind cause bundle).dict = s.dict := occur_dict ..
@[simp] theorem taskCause_wdg (t kind cause bundle : Nat) : (s.taskCause t kind cause bundle).wdg = s.wdg := occur_wdg ..
@[simp] theorem taskCause_trc (t kind cause bundle : Nat) : (s.taskCause t kind cause bundle).trc = s.trc := occur_trc ..
@[simp] theorem taskCause_nvp (t kind cause bundle : Nat) : (s.taskCause t kind cause bundle).nvp = s.nvp := occur_nvp ..
@[simp] theorem taskCause_fw (t kind cause bundle : Nat) : (s.taskCause t kind cause bundle).fw = s.fw := occur_fw ..
@[simp] theorem taskCause_rtc (t kind cause bundle : Nat) : (s.taskCause t kind cause bundle).rtc = s.rtc := occur_rtc ..
@[simp] theorem taskCause_pwr (t kind cause bundle : Nat) : (s.taskCause t kind cause bundle).pwr = s.pwr := occur_pwr ..
@[simp] theorem taskCause_met (t kind cause bundle : Nat) : (s.taskCause t kind cause bundle).met = s.met := occur_met ..
@[simp] theorem taskCause_free (t kind cause bundle : Nat) : (s.taskCause t kind cause bundle).free = s.free := occur_free ..
@[simp] theorem taskCause_pending (t kind cause bundle : Nat) : (s.taskCause t kind cause bundle).pending = s.pending := occur_pending ..
@[simp] theorem taskCause_host (t kind cause bundle : Nat) : (s.taskCause t kind cause bundle).host = { s.host with taskCause := setBit s.host.taskCause t true } := occur_host ..
@[simp] theorem memCause_clk (b source : Nat) (d : List Byte) : (s.memCause b source d).clk = s.clk := occur_clk ..
@[simp] theorem memCause_clu (b source : Nat) (d : List Byte) : (s.memCause b source d).clu = s.clu := occur_clu ..
@[simp] theorem memCause_tasks (b source : Nat) (d : List Byte) : (s.memCause b source d).tasks = s.tasks := occur_tasks ..
@[simp] theorem memCause_sto (b source : Nat) (d : List Byte) : (s.memCause b source d).sto = s.sto := occur_sto ..
@[simp] theorem memCause_ldr (b source : Nat) (d : List Byte) : (s.memCause b source d).ldr = s.ldr := occur_ldr ..
@[simp] theorem memCause_csw (b source : Nat) (d : List Byte) : (s.memCause b source d).csw = s.csw := occur_csw ..
@[simp] theorem memCause_fio (b source : Nat) (d : List Byte) : (s.memCause b source d).fio = s.fio := occur_fio ..
@[simp] theorem memCause_net (b source : Nat) (d : List Byte) : (s.memCause b source d).net = s.net := occur_net ..
@[simp] theorem memCause_can (b source : Nat) (d : List Byte) : (s.memCause b source d).can = s.can := occur_can ..
@[simp] theorem memCause_dict (b source : Nat) (d : List Byte) : (s.memCause b source d).dict = s.dict := occur_dict ..
@[simp] theorem memCause_wdg (b source : Nat) (d : List Byte) : (s.memCause b source d).wdg = s.wdg := occur_wdg ..
@[simp] theorem memCause_trc (b source : Nat) (d : List Byte) : (s.memCause b source d).trc = s.trc := occur_trc ..
@[simp] theorem memCause_nvp (b source : Nat) (d : List Byte) : (s.memCause b source d).nvp = s.nvp := occur_nvp ..
@[simp] theorem memCause_fw (b source : Nat) (d : List Byte) : (s.memCause b source d).fw = s.fw := occur_fw ..
@[simp] theorem memCause_rtc (b source : Nat) (d : List Byte) : (s.memCause b source d).rtc = s.rtc := occur_rtc ..
@[simp] theorem memCause_pwr (b source : Nat) (d : List Byte) : (s.memCause b source d).pwr = s.pwr := occur_pwr ..
@[simp] theorem memCause_met (b source : Nat) (d : List Byte) : (s.memCause b source d).met = s.met := occur_met ..
@[simp] theorem memCause_free (b source : Nat) (d : List Byte) : (s.memCause b source d).free = s.free := occur_free ..
@[simp] theorem memCause_pending (b source : Nat) (d : List Byte) : (s.memCause b source d).pending = s.pending := occur_pending ..
@[simp] theorem memCause_host (b source : Nat) (d : List Byte) : (s.memCause b source d).host = { s.host with memCause := setBit s.host.memCause b true } := occur_host ..
@[simp] theorem powerCause_clk (b : Nat) : (s.powerCause b).clk = s.clk := occur_clk ..
@[simp] theorem powerCause_clu (b : Nat) : (s.powerCause b).clu = s.clu := occur_clu ..
@[simp] theorem powerCause_tasks (b : Nat) : (s.powerCause b).tasks = s.tasks := occur_tasks ..
@[simp] theorem powerCause_sto (b : Nat) : (s.powerCause b).sto = s.sto := occur_sto ..
@[simp] theorem powerCause_ldr (b : Nat) : (s.powerCause b).ldr = s.ldr := occur_ldr ..
@[simp] theorem powerCause_csw (b : Nat) : (s.powerCause b).csw = s.csw := occur_csw ..
@[simp] theorem powerCause_fio (b : Nat) : (s.powerCause b).fio = s.fio := occur_fio ..
@[simp] theorem powerCause_net (b : Nat) : (s.powerCause b).net = s.net := occur_net ..
@[simp] theorem powerCause_can (b : Nat) : (s.powerCause b).can = s.can := occur_can ..
@[simp] theorem powerCause_dict (b : Nat) : (s.powerCause b).dict = s.dict := occur_dict ..
@[simp] theorem powerCause_wdg (b : Nat) : (s.powerCause b).wdg = s.wdg := occur_wdg ..
@[simp] theorem powerCause_trc (b : Nat) : (s.powerCause b).trc = s.trc := occur_trc ..
@[simp] theorem powerCause_nvp (b : Nat) : (s.powerCause b).nvp = s.nvp := occur_nvp ..
@[simp] theorem powerCause_fw (b : Nat) : (s.powerCause b).fw = s.fw := occur_fw ..
@[simp] theorem powerCause_rtc (b : Nat) : (s.powerCause b).rtc = s.rtc := occur_rtc ..
@[simp] theorem powerCause_pwr (b : Nat) : (s.powerCause b).pwr = s.pwr := occur_pwr ..
@[simp] theorem powerCause_met (b : Nat) : (s.powerCause b).met = s.met := occur_met ..
@[simp] theorem powerCause_free (b : Nat) : (s.powerCause b).free = s.free := occur_free ..
@[simp] theorem powerCause_pending (b : Nat) : (s.powerCause b).pending = s.pending := occur_pending ..
@[simp] theorem powerCause_host (b : Nat) : (s.powerCause b).host = { s.host with powerCause := setBit s.host.powerCause b true } := occur_host ..
@[simp] theorem evrCause_clk (b : Nat) : (s.evrCause b).clk = s.clk := occur_clk ..
@[simp] theorem evrCause_clu (b : Nat) : (s.evrCause b).clu = s.clu := occur_clu ..
@[simp] theorem evrCause_tasks (b : Nat) : (s.evrCause b).tasks = s.tasks := occur_tasks ..
@[simp] theorem evrCause_sto (b : Nat) : (s.evrCause b).sto = s.sto := occur_sto ..
@[simp] theorem evrCause_ldr (b : Nat) : (s.evrCause b).ldr = s.ldr := occur_ldr ..
@[simp] theorem evrCause_csw (b : Nat) : (s.evrCause b).csw = s.csw := occur_csw ..
@[simp] theorem evrCause_fio (b : Nat) : (s.evrCause b).fio = s.fio := occur_fio ..
@[simp] theorem evrCause_net (b : Nat) : (s.evrCause b).net = s.net := occur_net ..
@[simp] theorem evrCause_can (b : Nat) : (s.evrCause b).can = s.can := occur_can ..
@[simp] theorem evrCause_dict (b : Nat) : (s.evrCause b).dict = s.dict := occur_dict ..
@[simp] theorem evrCause_host (b : Nat) : (s.evrCause b).host = s.host := occur_host ..
@[simp] theorem evrCause_wdg (b : Nat) : (s.evrCause b).wdg = s.wdg := occur_wdg ..
@[simp] theorem evrCause_trc (b : Nat) : (s.evrCause b).trc = s.trc := occur_trc ..
@[simp] theorem evrCause_nvp (b : Nat) : (s.evrCause b).nvp = s.nvp := occur_nvp ..
@[simp] theorem evrCause_fw (b : Nat) : (s.evrCause b).fw = s.fw := occur_fw ..
@[simp] theorem evrCause_rtc (b : Nat) : (s.evrCause b).rtc = s.rtc := occur_rtc ..
@[simp] theorem evrCause_pwr (b : Nat) : (s.evrCause b).pwr = s.pwr := occur_pwr ..
@[simp] theorem evrCause_met (b : Nat) : (s.evrCause b).met = s.met := occur_met ..
@[simp] theorem evrCause_free (b : Nat) : (s.evrCause b).free = s.free := occur_free ..
@[simp] theorem evrCause_pending (b : Nat) : (s.evrCause b).pending = s.pending := occur_pending ..
@[simp] theorem rtcCause_clk (b : Nat) : (s.rtcCause b).clk = s.clk := occur_clk ..
@[simp] theorem rtcCause_clu (b : Nat) : (s.rtcCause b).clu = s.clu := occur_clu ..
@[simp] theorem rtcCause_tasks (b : Nat) : (s.rtcCause b).tasks = s.tasks := occur_tasks ..
@[simp] theorem rtcCause_sto (b : Nat) : (s.rtcCause b).sto = s.sto := occur_sto ..
@[simp] theorem rtcCause_ldr (b : Nat) : (s.rtcCause b).ldr = s.ldr := occur_ldr ..
@[simp] theorem rtcCause_csw (b : Nat) : (s.rtcCause b).csw = s.csw := occur_csw ..
@[simp] theorem rtcCause_fio (b : Nat) : (s.rtcCause b).fio = s.fio := occur_fio ..
@[simp] theorem rtcCause_net (b : Nat) : (s.rtcCause b).net = s.net := occur_net ..
@[simp] theorem rtcCause_can (b : Nat) : (s.rtcCause b).can = s.can := occur_can ..
@[simp] theorem rtcCause_dict (b : Nat) : (s.rtcCause b).dict = s.dict := occur_dict ..
@[simp] theorem rtcCause_host (b : Nat) : (s.rtcCause b).host = s.host := occur_host ..
@[simp] theorem rtcCause_wdg (b : Nat) : (s.rtcCause b).wdg = s.wdg := occur_wdg ..
@[simp] theorem rtcCause_trc (b : Nat) : (s.rtcCause b).trc = s.trc := occur_trc ..
@[simp] theorem rtcCause_nvp (b : Nat) : (s.rtcCause b).nvp = s.nvp := occur_nvp ..
@[simp] theorem rtcCause_fw (b : Nat) : (s.rtcCause b).fw = s.fw := occur_fw ..
@[simp] theorem rtcCause_pwr (b : Nat) : (s.rtcCause b).pwr = s.pwr := occur_pwr ..
@[simp] theorem rtcCause_met (b : Nat) : (s.rtcCause b).met = s.met := occur_met ..
@[simp] theorem rtcCause_free (b : Nat) : (s.rtcCause b).free = s.free := occur_free ..
@[simp] theorem rtcCause_pending (b : Nat) : (s.rtcCause b).pending = s.pending := occur_pending ..
@[simp] theorem rtcCause_rtc (b : Nat) : (s.rtcCause b).rtc = { s.rtc with cause := setBit s.rtc.cause b true } := occur_rtc ..
@[simp] theorem nvpCause_clk (b source : Nat) : (s.nvpCause b source).clk = s.clk := occur_clk ..
@[simp] theorem nvpCause_clu (b source : Nat) : (s.nvpCause b source).clu = s.clu := occur_clu ..
@[simp] theorem nvpCause_tasks (b source : Nat) : (s.nvpCause b source).tasks = s.tasks := occur_tasks ..
@[simp] theorem nvpCause_sto (b source : Nat) : (s.nvpCause b source).sto = s.sto := occur_sto ..
@[simp] theorem nvpCause_ldr (b source : Nat) : (s.nvpCause b source).ldr = s.ldr := occur_ldr ..
@[simp] theorem nvpCause_csw (b source : Nat) : (s.nvpCause b source).csw = s.csw := occur_csw ..
@[simp] theorem nvpCause_fio (b source : Nat) : (s.nvpCause b source).fio = s.fio := occur_fio ..
@[simp] theorem nvpCause_net (b source : Nat) : (s.nvpCause b source).net = s.net := occur_net ..
@[simp] theorem nvpCause_can (b source : Nat) : (s.nvpCause b source).can = s.can := occur_can ..
@[simp] theorem nvpCause_dict (b source : Nat) : (s.nvpCause b source).dict = s.dict := occur_dict ..
@[simp] theorem nvpCause_host (b source : Nat) : (s.nvpCause b source).host = s.host := occur_host ..
@[simp] theorem nvpCause_wdg (b source : Nat) : (s.nvpCause b source).wdg = s.wdg := occur_wdg ..
@[simp] theorem nvpCause_trc (b source : Nat) : (s.nvpCause b source).trc = s.trc := occur_trc ..
@[simp] theorem nvpCause_fw (b source : Nat) : (s.nvpCause b source).fw = s.fw := occur_fw ..
@[simp] theorem nvpCause_rtc (b source : Nat) : (s.nvpCause b source).rtc = s.rtc := occur_rtc ..
@[simp] theorem nvpCause_pwr (b source : Nat) : (s.nvpCause b source).pwr = s.pwr := occur_pwr ..
@[simp] theorem nvpCause_met (b source : Nat) : (s.nvpCause b source).met = s.met := occur_met ..
@[simp] theorem nvpCause_free (b source : Nat) : (s.nvpCause b source).free = s.free := occur_free ..
@[simp] theorem nvpCause_pending (b source : Nat) : (s.nvpCause b source).pending = s.pending := occur_pending ..
@[simp] theorem nvpCause_nvp (b source : Nat) : (s.nvpCause b source).nvp = { s.nvp with cause := setBit s.nvp.cause b true } := occur_nvp ..
@[simp] theorem cswCause_clk (b : Nat) : (s.cswCause b).clk = s.clk := occur_clk ..
@[simp] theorem cswCause_clu (b : Nat) : (s.cswCause b).clu = s.clu := occur_clu ..
@[simp] theorem cswCause_tasks (b : Nat) : (s.cswCause b).tasks = s.tasks := occur_tasks ..
@[simp] theorem cswCause_sto (b : Nat) : (s.cswCause b).sto = s.sto := occur_sto ..
@[simp] theorem cswCause_ldr (b : Nat) : (s.cswCause b).ldr = s.ldr := occur_ldr ..
@[simp] theorem cswCause_fio (b : Nat) : (s.cswCause b).fio = s.fio := occur_fio ..
@[simp] theorem cswCause_net (b : Nat) : (s.cswCause b).net = s.net := occur_net ..
@[simp] theorem cswCause_can (b : Nat) : (s.cswCause b).can = s.can := occur_can ..
@[simp] theorem cswCause_dict (b : Nat) : (s.cswCause b).dict = s.dict := occur_dict ..
@[simp] theorem cswCause_host (b : Nat) : (s.cswCause b).host = s.host := occur_host ..
@[simp] theorem cswCause_wdg (b : Nat) : (s.cswCause b).wdg = s.wdg := occur_wdg ..
@[simp] theorem cswCause_trc (b : Nat) : (s.cswCause b).trc = s.trc := occur_trc ..
@[simp] theorem cswCause_nvp (b : Nat) : (s.cswCause b).nvp = s.nvp := occur_nvp ..
@[simp] theorem cswCause_fw (b : Nat) : (s.cswCause b).fw = s.fw := occur_fw ..
@[simp] theorem cswCause_rtc (b : Nat) : (s.cswCause b).rtc = s.rtc := occur_rtc ..
@[simp] theorem cswCause_pwr (b : Nat) : (s.cswCause b).pwr = s.pwr := occur_pwr ..
@[simp] theorem cswCause_met (b : Nat) : (s.cswCause b).met = s.met := occur_met ..
@[simp] theorem cswCause_free (b : Nat) : (s.cswCause b).free = s.free := occur_free ..
@[simp] theorem cswCause_pending (b : Nat) : (s.cswCause b).pending = s.pending := occur_pending ..
@[simp] theorem cswCause_csw (b : Nat) : (s.cswCause b).csw = { s.csw with cause := setBit s.csw.cause b true } := occur_csw ..
@[simp] theorem fioCause_clk (b source : Nat) : (s.fioCause b source).clk = s.clk := occur_clk ..
@[simp] theorem fioCause_clu (b source : Nat) : (s.fioCause b source).clu = s.clu := occur_clu ..
@[simp] theorem fioCause_tasks (b source : Nat) : (s.fioCause b source).tasks = s.tasks := occur_tasks ..
@[simp] theorem fioCause_sto (b source : Nat) : (s.fioCause b source).sto = s.sto := occur_sto ..
@[simp] theorem fioCause_ldr (b source : Nat) : (s.fioCause b source).ldr = s.ldr := occur_ldr ..
@[simp] theorem fioCause_csw (b source : Nat) : (s.fioCause b source).csw = s.csw := occur_csw ..
@[simp] theorem fioCause_net (b source : Nat) : (s.fioCause b source).net = s.net := occur_net ..
@[simp] theorem fioCause_can (b source : Nat) : (s.fioCause b source).can = s.can := occur_can ..
@[simp] theorem fioCause_dict (b source : Nat) : (s.fioCause b source).dict = s.dict := occur_dict ..
@[simp] theorem fioCause_host (b source : Nat) : (s.fioCause b source).host = s.host := occur_host ..
@[simp] theorem fioCause_wdg (b source : Nat) : (s.fioCause b source).wdg = s.wdg := occur_wdg ..
@[simp] theorem fioCause_trc (b source : Nat) : (s.fioCause b source).trc = s.trc := occur_trc ..
@[simp] theorem fioCause_nvp (b source : Nat) : (s.fioCause b source).nvp = s.nvp := occur_nvp ..
@[simp] theorem fioCause_fw (b source : Nat) : (s.fioCause b source).fw = s.fw := occur_fw ..
@[simp] theorem fioCause_rtc (b source : Nat) : (s.fioCause b source).rtc = s.rtc := occur_rtc ..
@[simp] theorem fioCause_pwr (b source : Nat) : (s.fioCause b source).pwr = s.pwr := occur_pwr ..
@[simp] theorem fioCause_met (b source : Nat) : (s.fioCause b source).met = s.met := occur_met ..
@[simp] theorem fioCause_free (b source : Nat) : (s.fioCause b source).free = s.free := occur_free ..
@[simp] theorem fioCause_pending (b source : Nat) : (s.fioCause b source).pending = s.pending := occur_pending ..
@[simp] theorem fioCause_fio (b source : Nat) : (s.fioCause b source).fio = { s.fio with cause := setBit s.fio.cause b true } := occur_fio ..
@[simp] theorem netCause_clk (b source : Nat) : (s.netCause b source).clk = s.clk := occur_clk ..
@[simp] theorem netCause_clu (b source : Nat) : (s.netCause b source).clu = s.clu := occur_clu ..
@[simp] theorem netCause_tasks (b source : Nat) : (s.netCause b source).tasks = s.tasks := occur_tasks ..
@[simp] theorem netCause_sto (b source : Nat) : (s.netCause b source).sto = s.sto := occur_sto ..
@[simp] theorem netCause_ldr (b source : Nat) : (s.netCause b source).ldr = s.ldr := occur_ldr ..
@[simp] theorem netCause_csw (b source : Nat) : (s.netCause b source).csw = s.csw := occur_csw ..
@[simp] theorem netCause_fio (b source : Nat) : (s.netCause b source).fio = s.fio := occur_fio ..
@[simp] theorem netCause_can (b source : Nat) : (s.netCause b source).can = s.can := occur_can ..
@[simp] theorem netCause_dict (b source : Nat) : (s.netCause b source).dict = s.dict := occur_dict ..
@[simp] theorem netCause_host (b source : Nat) : (s.netCause b source).host = s.host := occur_host ..
@[simp] theorem netCause_wdg (b source : Nat) : (s.netCause b source).wdg = s.wdg := occur_wdg ..
@[simp] theorem netCause_trc (b source : Nat) : (s.netCause b source).trc = s.trc := occur_trc ..
@[simp] theorem netCause_nvp (b source : Nat) : (s.netCause b source).nvp = s.nvp := occur_nvp ..
@[simp] theorem netCause_fw (b source : Nat) : (s.netCause b source).fw = s.fw := occur_fw ..
@[simp] theorem netCause_rtc (b source : Nat) : (s.netCause b source).rtc = s.rtc := occur_rtc ..
@[simp] theorem netCause_pwr (b source : Nat) : (s.netCause b source).pwr = s.pwr := occur_pwr ..
@[simp] theorem netCause_met (b source : Nat) : (s.netCause b source).met = s.met := occur_met ..
@[simp] theorem netCause_free (b source : Nat) : (s.netCause b source).free = s.free := occur_free ..
@[simp] theorem netCause_pending (b source : Nat) : (s.netCause b source).pending = s.pending := occur_pending ..
@[simp] theorem netCause_net (b source : Nat) : (s.netCause b source).net = { s.net with cause := setBit s.net.cause b true } := occur_net ..
@[simp] theorem canCause_clk (n b source : Nat) : (s.canCause n b source).clk = s.clk := occur_clk ..
@[simp] theorem canCause_clu (n b source : Nat) : (s.canCause n b source).clu = s.clu := occur_clu ..
@[simp] theorem canCause_tasks (n b source : Nat) : (s.canCause n b source).tasks = s.tasks := occur_tasks ..
@[simp] theorem canCause_sto (n b source : Nat) : (s.canCause n b source).sto = s.sto := occur_sto ..
@[simp] theorem canCause_ldr (n b source : Nat) : (s.canCause n b source).ldr = s.ldr := occur_ldr ..
@[simp] theorem canCause_csw (n b source : Nat) : (s.canCause n b source).csw = s.csw := occur_csw ..
@[simp] theorem canCause_fio (n b source : Nat) : (s.canCause n b source).fio = s.fio := occur_fio ..
@[simp] theorem canCause_net (n b source : Nat) : (s.canCause n b source).net = s.net := occur_net ..
@[simp] theorem canCause_dict (n b source : Nat) : (s.canCause n b source).dict = s.dict := occur_dict ..
@[simp] theorem canCause_host (n b source : Nat) : (s.canCause n b source).host = s.host := occur_host ..
@[simp] theorem canCause_wdg (n b source : Nat) : (s.canCause n b source).wdg = s.wdg := occur_wdg ..
@[simp] theorem canCause_trc (n b source : Nat) : (s.canCause n b source).trc = s.trc := occur_trc ..
@[simp] theorem canCause_nvp (n b source : Nat) : (s.canCause n b source).nvp = s.nvp := occur_nvp ..
@[simp] theorem canCause_fw (n b source : Nat) : (s.canCause n b source).fw = s.fw := occur_fw ..
@[simp] theorem canCause_rtc (n b source : Nat) : (s.canCause n b source).rtc = s.rtc := occur_rtc ..
@[simp] theorem canCause_pwr (n b source : Nat) : (s.canCause n b source).pwr = s.pwr := occur_pwr ..
@[simp] theorem canCause_met (n b source : Nat) : (s.canCause n b source).met = s.met := occur_met ..
@[simp] theorem canCause_free (n b source : Nat) : (s.canCause n b source).free = s.free := occur_free ..
@[simp] theorem canCause_pending (n b source : Nat) : (s.canCause n b source).pending = s.pending := occur_pending ..
@[simp] theorem canCause_can (n b source : Nat) : (s.canCause n b source).can = vup s.can n Can.reset (fun c => { c with cause := setBit c.cause b true }) := occur_can ..
@[simp] theorem trcCause_clk (b : Nat) : (s.trcCause b).clk = s.clk := occur_clk ..
@[simp] theorem trcCause_clu (b : Nat) : (s.trcCause b).clu = s.clu := occur_clu ..
@[simp] theorem trcCause_tasks (b : Nat) : (s.trcCause b).tasks = s.tasks := occur_tasks ..
@[simp] theorem trcCause_sto (b : Nat) : (s.trcCause b).sto = s.sto := occur_sto ..
@[simp] theorem trcCause_ldr (b : Nat) : (s.trcCause b).ldr = s.ldr := occur_ldr ..
@[simp] theorem trcCause_csw (b : Nat) : (s.trcCause b).csw = s.csw := occur_csw ..
@[simp] theorem trcCause_fio (b : Nat) : (s.trcCause b).fio = s.fio := occur_fio ..
@[simp] theorem trcCause_net (b : Nat) : (s.trcCause b).net = s.net := occur_net ..
@[simp] theorem trcCause_can (b : Nat) : (s.trcCause b).can = s.can := occur_can ..
@[simp] theorem trcCause_dict (b : Nat) : (s.trcCause b).dict = s.dict := occur_dict ..
@[simp] theorem trcCause_host (b : Nat) : (s.trcCause b).host = s.host := occur_host ..
@[simp] theorem trcCause_wdg (b : Nat) : (s.trcCause b).wdg = s.wdg := occur_wdg ..
@[simp] theorem trcCause_nvp (b : Nat) : (s.trcCause b).nvp = s.nvp := occur_nvp ..
@[simp] theorem trcCause_fw (b : Nat) : (s.trcCause b).fw = s.fw := occur_fw ..
@[simp] theorem trcCause_rtc (b : Nat) : (s.trcCause b).rtc = s.rtc := occur_rtc ..
@[simp] theorem trcCause_pwr (b : Nat) : (s.trcCause b).pwr = s.pwr := occur_pwr ..
@[simp] theorem trcCause_met (b : Nat) : (s.trcCause b).met = s.met := occur_met ..
@[simp] theorem trcCause_free (b : Nat) : (s.trcCause b).free = s.free := occur_free ..
@[simp] theorem trcCause_pending (b : Nat) : (s.trcCause b).pending = s.pending := occur_pending ..
@[simp] theorem trcCause_trc (b : Nat) : (s.trcCause b).trc = { s.trc with cause := setBit s.trc.cause b true } := occur_trc ..
@[simp] theorem odxCauseBit_clk (b : Nat) : (s.odxCauseBit b).clk = s.clk := occur_clk ..
@[simp] theorem odxCauseBit_clu (b : Nat) : (s.odxCauseBit b).clu = s.clu := occur_clu ..
@[simp] theorem odxCauseBit_tasks (b : Nat) : (s.odxCauseBit b).tasks = s.tasks := occur_tasks ..
@[simp] theorem odxCauseBit_sto (b : Nat) : (s.odxCauseBit b).sto = s.sto := occur_sto ..
@[simp] theorem odxCauseBit_ldr (b : Nat) : (s.odxCauseBit b).ldr = s.ldr := occur_ldr ..
@[simp] theorem odxCauseBit_csw (b : Nat) : (s.odxCauseBit b).csw = s.csw := occur_csw ..
@[simp] theorem odxCauseBit_fio (b : Nat) : (s.odxCauseBit b).fio = s.fio := occur_fio ..
@[simp] theorem odxCauseBit_net (b : Nat) : (s.odxCauseBit b).net = s.net := occur_net ..
@[simp] theorem odxCauseBit_can (b : Nat) : (s.odxCauseBit b).can = s.can := occur_can ..
@[simp] theorem odxCauseBit_host (b : Nat) : (s.odxCauseBit b).host = s.host := occur_host ..
@[simp] theorem odxCauseBit_wdg (b : Nat) : (s.odxCauseBit b).wdg = s.wdg := occur_wdg ..
@[simp] theorem odxCauseBit_trc (b : Nat) : (s.odxCauseBit b).trc = s.trc := occur_trc ..
@[simp] theorem odxCauseBit_nvp (b : Nat) : (s.odxCauseBit b).nvp = s.nvp := occur_nvp ..
@[simp] theorem odxCauseBit_fw (b : Nat) : (s.odxCauseBit b).fw = s.fw := occur_fw ..
@[simp] theorem odxCauseBit_rtc (b : Nat) : (s.odxCauseBit b).rtc = s.rtc := occur_rtc ..
@[simp] theorem odxCauseBit_pwr (b : Nat) : (s.odxCauseBit b).pwr = s.pwr := occur_pwr ..
@[simp] theorem odxCauseBit_met (b : Nat) : (s.odxCauseBit b).met = s.met := occur_met ..
@[simp] theorem odxCauseBit_free (b : Nat) : (s.odxCauseBit b).free = s.free := occur_free ..
@[simp] theorem odxCauseBit_pending (b : Nat) : (s.odxCauseBit b).pending = s.pending := occur_pending ..
@[simp] theorem odxCauseBit_dict (b : Nat) : (s.odxCauseBit b).dict = { s.dict with odxCause := setBit s.dict.odxCause b true } := occur_dict ..
@[simp] theorem hptCauseBit_clk (b : Nat) : (s.hptCauseBit b).clk = s.clk := occur_clk ..
@[simp] theorem hptCauseBit_clu (b : Nat) : (s.hptCauseBit b).clu = s.clu := occur_clu ..
@[simp] theorem hptCauseBit_tasks (b : Nat) : (s.hptCauseBit b).tasks = s.tasks := occur_tasks ..
@[simp] theorem hptCauseBit_sto (b : Nat) : (s.hptCauseBit b).sto = s.sto := occur_sto ..
@[simp] theorem hptCauseBit_ldr (b : Nat) : (s.hptCauseBit b).ldr = s.ldr := occur_ldr ..
@[simp] theorem hptCauseBit_csw (b : Nat) : (s.hptCauseBit b).csw = s.csw := occur_csw ..
@[simp] theorem hptCauseBit_fio (b : Nat) : (s.hptCauseBit b).fio = s.fio := occur_fio ..
@[simp] theorem hptCauseBit_net (b : Nat) : (s.hptCauseBit b).net = s.net := occur_net ..
@[simp] theorem hptCauseBit_can (b : Nat) : (s.hptCauseBit b).can = s.can := occur_can ..
@[simp] theorem hptCauseBit_dict (b : Nat) : (s.hptCauseBit b).dict = s.dict := occur_dict ..
@[simp] theorem hptCauseBit_wdg (b : Nat) : (s.hptCauseBit b).wdg = s.wdg := occur_wdg ..
@[simp] theorem hptCauseBit_trc (b : Nat) : (s.hptCauseBit b).trc = s.trc := occur_trc ..
@[simp] theorem hptCauseBit_nvp (b : Nat) : (s.hptCauseBit b).nvp = s.nvp := occur_nvp ..
@[simp] theorem hptCauseBit_fw (b : Nat) : (s.hptCauseBit b).fw = s.fw := occur_fw ..
@[simp] theorem hptCauseBit_rtc (b : Nat) : (s.hptCauseBit b).rtc = s.rtc := occur_rtc ..
@[simp] theorem hptCauseBit_pwr (b : Nat) : (s.hptCauseBit b).pwr = s.pwr := occur_pwr ..
@[simp] theorem hptCauseBit_met (b : Nat) : (s.hptCauseBit b).met = s.met := occur_met ..
@[simp] theorem hptCauseBit_free (b : Nat) : (s.hptCauseBit b).free = s.free := occur_free ..
@[simp] theorem hptCauseBit_pending (b : Nat) : (s.hptCauseBit b).pending = s.pending := occur_pending ..
@[simp] theorem hptCauseBit_host (b : Nat) : (s.hptCauseBit b).host = { s.host with hptCause := setBit s.host.hptCause b true } := occur_host ..
@[simp] theorem metCause_clk (b : Nat) : (s.metCause b).clk = s.clk := occur_clk ..
@[simp] theorem metCause_clu (b : Nat) : (s.metCause b).clu = s.clu := occur_clu ..
@[simp] theorem metCause_tasks (b : Nat) : (s.metCause b).tasks = s.tasks := occur_tasks ..
@[simp] theorem metCause_sto (b : Nat) : (s.metCause b).sto = s.sto := occur_sto ..
@[simp] theorem metCause_ldr (b : Nat) : (s.metCause b).ldr = s.ldr := occur_ldr ..
@[simp] theorem metCause_csw (b : Nat) : (s.metCause b).csw = s.csw := occur_csw ..
@[simp] theorem metCause_fio (b : Nat) : (s.metCause b).fio = s.fio := occur_fio ..
@[simp] theorem metCause_net (b : Nat) : (s.metCause b).net = s.net := occur_net ..
@[simp] theorem metCause_can (b : Nat) : (s.metCause b).can = s.can := occur_can ..
@[simp] theorem metCause_dict (b : Nat) : (s.metCause b).dict = s.dict := occur_dict ..
@[simp] theorem metCause_host (b : Nat) : (s.metCause b).host = s.host := occur_host ..
@[simp] theorem metCause_wdg (b : Nat) : (s.metCause b).wdg = s.wdg := occur_wdg ..
@[simp] theorem metCause_trc (b : Nat) : (s.metCause b).trc = s.trc := occur_trc ..
@[simp] theorem metCause_nvp (b : Nat) : (s.metCause b).nvp = s.nvp := occur_nvp ..
@[simp] theorem metCause_fw (b : Nat) : (s.metCause b).fw = s.fw := occur_fw ..
@[simp] theorem metCause_rtc (b : Nat) : (s.metCause b).rtc = s.rtc := occur_rtc ..
@[simp] theorem metCause_pwr (b : Nat) : (s.metCause b).pwr = s.pwr := occur_pwr ..
@[simp] theorem metCause_free (b : Nat) : (s.metCause b).free = s.free := occur_free ..
@[simp] theorem metCause_pending (b : Nat) : (s.metCause b).pending = s.pending := occur_pending ..
@[simp] theorem metCause_met (b : Nat) : (s.metCause b).met = { s.met with cause := setBit s.met.cause b true } := occur_met ..
@[simp] theorem modeRefuse_clk (code : Nat) : (s.modeRefuse code).clk = s.clk := rfl
@[simp] theorem modeRefuse_clu (code : Nat) : (s.modeRefuse code).clu = s.clu := rfl
@[simp] theorem modeRefuse_tasks (code : Nat) : (s.modeRefuse code).tasks = s.tasks := rfl
@[simp] theorem modeRefuse_sto (code : Nat) : (s.modeRefuse code).sto = s.sto := rfl
@[simp] theorem modeRefuse_ldr (code : Nat) : (s.modeRefuse code).ldr = s.ldr := rfl
@[simp] theorem modeRefuse_csw (code : Nat) : (s.modeRefuse code).csw = s.csw := rfl
@[simp] theorem modeRefuse_fio (code : Nat) : (s.modeRefuse code).fio = s.fio := rfl
@[simp] theorem modeRefuse_net (code : Nat) : (s.modeRefuse code).net = s.net := rfl
@[simp] theorem modeRefuse_can (code : Nat) : (s.modeRefuse code).can = s.can := rfl
@[simp] theorem modeRefuse_host (code : Nat) : (s.modeRefuse code).host = s.host := rfl
@[simp] theorem modeRefuse_wdg (code : Nat) : (s.modeRefuse code).wdg = s.wdg := rfl
@[simp] theorem modeRefuse_evr (code : Nat) : (s.modeRefuse code).evr = s.evr := rfl
@[simp] theorem modeRefuse_trc (code : Nat) : (s.modeRefuse code).trc = s.trc := rfl
@[simp] theorem modeRefuse_nvp (code : Nat) : (s.modeRefuse code).nvp = s.nvp := rfl
@[simp] theorem modeRefuse_fw (code : Nat) : (s.modeRefuse code).fw = s.fw := rfl
@[simp] theorem modeRefuse_rtc (code : Nat) : (s.modeRefuse code).rtc = s.rtc := rfl
@[simp] theorem modeRefuse_pwr (code : Nat) : (s.modeRefuse code).pwr = s.pwr := rfl
@[simp] theorem modeRefuse_met (code : Nat) : (s.modeRefuse code).met = s.met := rfl
@[simp] theorem modeRefuse_free (code : Nat) : (s.modeRefuse code).free = s.free := rfl
@[simp] theorem modeRefuse_pending (code : Nat) : (s.modeRefuse code).pending = s.pending := rfl
@[simp] theorem send_clk (x : Sent) : (s.send x).clk = s.clk := rfl
@[simp] theorem send_clu (x : Sent) : (s.send x).clu = s.clu := rfl
@[simp] theorem send_tasks (x : Sent) : (s.send x).tasks = s.tasks := rfl
@[simp] theorem send_sto (x : Sent) : (s.send x).sto = s.sto := rfl
@[simp] theorem send_ldr (x : Sent) : (s.send x).ldr = s.ldr := rfl
@[simp] theorem send_csw (x : Sent) : (s.send x).csw = s.csw := rfl
@[simp] theorem send_fio (x : Sent) : (s.send x).fio = s.fio := rfl
@[simp] theorem send_can (x : Sent) : (s.send x).can = s.can := rfl
@[simp] theorem send_dict (x : Sent) : (s.send x).dict = s.dict := rfl
@[simp] theorem send_host (x : Sent) : (s.send x).host = s.host := rfl
@[simp] theorem send_wdg (x : Sent) : (s.send x).wdg = s.wdg := rfl
@[simp] theorem send_evr (x : Sent) : (s.send x).evr = s.evr := rfl
@[simp] theorem send_trc (x : Sent) : (s.send x).trc = s.trc := rfl
@[simp] theorem send_nvp (x : Sent) : (s.send x).nvp = s.nvp := rfl
@[simp] theorem send_fw (x : Sent) : (s.send x).fw = s.fw := rfl
@[simp] theorem send_rtc (x : Sent) : (s.send x).rtc = s.rtc := rfl
@[simp] theorem send_pwr (x : Sent) : (s.send x).pwr = s.pwr := rfl
@[simp] theorem send_met (x : Sent) : (s.send x).met = s.met := rfl
@[simp] theorem send_free (x : Sent) : (s.send x).free = s.free := rfl
@[simp] theorem send_pending (x : Sent) : (s.send x).pending = s.pending := rfl
@[simp] theorem send_net (x : Sent) : (s.send x).net = { s.net with sent := x :: s.net.sent } := rfl
@[simp] theorem useFree_clk : (s.useFree).clk = s.clk := rfl
@[simp] theorem useFree_clu : (s.useFree).clu = s.clu := rfl
@[simp] theorem useFree_tasks : (s.useFree).tasks = s.tasks := rfl
@[simp] theorem useFree_sto : (s.useFree).sto = s.sto := rfl
@[simp] theorem useFree_ldr : (s.useFree).ldr = s.ldr := rfl
@[simp] theorem useFree_csw : (s.useFree).csw = s.csw := rfl
@[simp] theorem useFree_fio : (s.useFree).fio = s.fio := rfl
@[simp] theorem useFree_net : (s.useFree).net = s.net := rfl
@[simp] theorem useFree_can : (s.useFree).can = s.can := rfl
@[simp] theorem useFree_dict : (s.useFree).dict = s.dict := rfl
@[simp] theorem useFree_host : (s.useFree).host = s.host := rfl
@[simp] theorem useFree_wdg : (s.useFree).wdg = s.wdg := rfl
@[simp] theorem useFree_evr : (s.useFree).evr = s.evr := rfl
@[simp] theorem useFree_trc : (s.useFree).trc = s.trc := rfl
@[simp] theorem useFree_nvp : (s.useFree).nvp = s.nvp := rfl
@[simp] theorem useFree_fw : (s.useFree).fw = s.fw := rfl
@[simp] theorem useFree_rtc : (s.useFree).rtc = s.rtc := rfl
@[simp] theorem useFree_pwr : (s.useFree).pwr = s.pwr := rfl
@[simp] theorem useFree_met : (s.useFree).met = s.met := rfl
@[simp] theorem useFree_pending : (s.useFree).pending = s.pending := rfl
@[simp] theorem useFree_free : (s.useFree).free = s.free + 1 := rfl
@[simp] theorem reach_clu (t : Nat) : (s.reach t).clu = s.clu := rfl
@[simp] theorem reach_tasks (t : Nat) : (s.reach t).tasks = s.tasks := rfl
@[simp] theorem reach_sto (t : Nat) : (s.reach t).sto = s.sto := rfl
@[simp] theorem reach_ldr (t : Nat) : (s.reach t).ldr = s.ldr := rfl
@[simp] theorem reach_csw (t : Nat) : (s.reach t).csw = s.csw := rfl
@[simp] theorem reach_fio (t : Nat) : (s.reach t).fio = s.fio := rfl
@[simp] theorem reach_net (t : Nat) : (s.reach t).net = s.net := rfl
@[simp] theorem reach_can (t : Nat) : (s.reach t).can = s.can := rfl
@[simp] theorem reach_dict (t : Nat) : (s.reach t).dict = s.dict := rfl
@[simp] theorem reach_host (t : Nat) : (s.reach t).host = s.host := rfl
@[simp] theorem reach_wdg (t : Nat) : (s.reach t).wdg = s.wdg := rfl
@[simp] theorem reach_evr (t : Nat) : (s.reach t).evr = s.evr := rfl
@[simp] theorem reach_trc (t : Nat) : (s.reach t).trc = s.trc := rfl
@[simp] theorem reach_nvp (t : Nat) : (s.reach t).nvp = s.nvp := rfl
@[simp] theorem reach_fw (t : Nat) : (s.reach t).fw = s.fw := rfl
@[simp] theorem reach_rtc (t : Nat) : (s.reach t).rtc = s.rtc := rfl
@[simp] theorem reach_pwr (t : Nat) : (s.reach t).pwr = s.pwr := rfl
@[simp] theorem reach_met (t : Nat) : (s.reach t).met = s.met := rfl
@[simp] theorem reach_free (t : Nat) : (s.reach t).free = s.free := rfl
@[simp] theorem reach_pending (t : Nat) : (s.reach t).pending = s.pending := rfl
@[simp] theorem reach_clk (t : Nat) : (s.reach t).clk = { s.clk with now := max s.clk.now t } := rfl
@[simp] theorem upTask_clk (t : Nat) (k : TaskSt → TaskSt) : (s.upTask t k).clk = s.clk := rfl
@[simp] theorem upTask_clu (t : Nat) (k : TaskSt → TaskSt) : (s.upTask t k).clu = s.clu := rfl
@[simp] theorem upTask_sto (t : Nat) (k : TaskSt → TaskSt) : (s.upTask t k).sto = s.sto := rfl
@[simp] theorem upTask_ldr (t : Nat) (k : TaskSt → TaskSt) : (s.upTask t k).ldr = s.ldr := rfl
@[simp] theorem upTask_csw (t : Nat) (k : TaskSt → TaskSt) : (s.upTask t k).csw = s.csw := rfl
@[simp] theorem upTask_fio (t : Nat) (k : TaskSt → TaskSt) : (s.upTask t k).fio = s.fio := rfl
@[simp] theorem upTask_net (t : Nat) (k : TaskSt → TaskSt) : (s.upTask t k).net = s.net := rfl
@[simp] theorem upTask_can (t : Nat) (k : TaskSt → TaskSt) : (s.upTask t k).can = s.can := rfl
@[simp] theorem upTask_dict (t : Nat) (k : TaskSt → TaskSt) : (s.upTask t k).dict = s.dict := rfl
@[simp] theorem upTask_host (t : Nat) (k : TaskSt → TaskSt) : (s.upTask t k).host = s.host := rfl
@[simp] theorem upTask_wdg (t : Nat) (k : TaskSt → TaskSt) : (s.upTask t k).wdg = s.wdg := rfl
@[simp] theorem upTask_evr (t : Nat) (k : TaskSt → TaskSt) : (s.upTask t k).evr = s.evr := rfl
@[simp] theorem upTask_trc (t : Nat) (k : TaskSt → TaskSt) : (s.upTask t k).trc = s.trc := rfl
@[simp] theorem upTask_nvp (t : Nat) (k : TaskSt → TaskSt) : (s.upTask t k).nvp = s.nvp := rfl
@[simp] theorem upTask_fw (t : Nat) (k : TaskSt → TaskSt) : (s.upTask t k).fw = s.fw := rfl
@[simp] theorem upTask_rtc (t : Nat) (k : TaskSt → TaskSt) : (s.upTask t k).rtc = s.rtc := rfl
@[simp] theorem upTask_pwr (t : Nat) (k : TaskSt → TaskSt) : (s.upTask t k).pwr = s.pwr := rfl
@[simp] theorem upTask_met (t : Nat) (k : TaskSt → TaskSt) : (s.upTask t k).met = s.met := rfl
@[simp] theorem upTask_free (t : Nat) (k : TaskSt → TaskSt) : (s.upTask t k).free = s.free := rfl
@[simp] theorem upTask_pending (t : Nat) (k : TaskSt → TaskSt) : (s.upTask t k).pending = s.pending := rfl
@[simp] theorem upTask_tasks (t : Nat) (k : TaskSt → TaskSt) : (s.upTask t k).tasks = vup s.tasks t TaskSt.reset k := rfl
@[simp] theorem upLane_clk (l : Nat) (k : Lane → Lane) : (s.upLane l k).clk = s.clk := rfl
@[simp] theorem upLane_tasks (l : Nat) (k : Lane → Lane) : (s.upLane l k).tasks = s.tasks := rfl
@[simp] theorem upLane_sto (l : Nat) (k : Lane → Lane) : (s.upLane l k).sto = s.sto := rfl
@[simp] theorem upLane_ldr (l : Nat) (k : Lane → Lane) : (s.upLane l k).ldr = s.ldr := rfl
@[simp] theorem upLane_csw (l : Nat) (k : Lane → Lane) : (s.upLane l k).csw = s.csw := rfl
@[simp] theorem upLane_fio (l : Nat) (k : Lane → Lane) : (s.upLane l k).fio = s.fio := rfl
@[simp] theorem upLane_net (l : Nat) (k : Lane → Lane) : (s.upLane l k).net = s.net := rfl
@[simp] theorem upLane_can (l : Nat) (k : Lane → Lane) : (s.upLane l k).can = s.can := rfl
@[simp] theorem upLane_dict (l : Nat) (k : Lane → Lane) : (s.upLane l k).dict = s.dict := rfl
@[simp] theorem upLane_host (l : Nat) (k : Lane → Lane) : (s.upLane l k).host = s.host := rfl
@[simp] theorem upLane_wdg (l : Nat) (k : Lane → Lane) : (s.upLane l k).wdg = s.wdg := rfl
@[simp] theorem upLane_evr (l : Nat) (k : Lane → Lane) : (s.upLane l k).evr = s.evr := rfl
@[simp] theorem upLane_trc (l : Nat) (k : Lane → Lane) : (s.upLane l k).trc = s.trc := rfl
@[simp] theorem upLane_nvp (l : Nat) (k : Lane → Lane) : (s.upLane l k).nvp = s.nvp := rfl
@[simp] theorem upLane_fw (l : Nat) (k : Lane → Lane) : (s.upLane l k).fw = s.fw := rfl
@[simp] theorem upLane_rtc (l : Nat) (k : Lane → Lane) : (s.upLane l k).rtc = s.rtc := rfl
@[simp] theorem upLane_pwr (l : Nat) (k : Lane → Lane) : (s.upLane l k).pwr = s.pwr := rfl
@[simp] theorem upLane_met (l : Nat) (k : Lane → Lane) : (s.upLane l k).met = s.met := rfl
@[simp] theorem upLane_free (l : Nat) (k : Lane → Lane) : (s.upLane l k).free = s.free := rfl
@[simp] theorem upLane_pending (l : Nat) (k : Lane → Lane) : (s.upLane l k).pending = s.pending := rfl
@[simp] theorem upLane_clu (l : Nat) (k : Lane → Lane) : (s.upLane l k).clu = { s.clu with lanes := vup s.clu.lanes l Lane.reset k } := rfl
@[simp] theorem upChan_clk (c : Nat) (k : Chan → Chan) : (s.upChan c k).clk = s.clk := rfl
@[simp] theorem upChan_clu (c : Nat) (k : Chan → Chan) : (s.upChan c k).clu = s.clu := rfl
@[simp] theorem upChan_tasks (c : Nat) (k : Chan → Chan) : (s.upChan c k).tasks = s.tasks := rfl
@[simp] theorem upChan_sto (c : Nat) (k : Chan → Chan) : (s.upChan c k).sto = s.sto := rfl
@[simp] theorem upChan_ldr (c : Nat) (k : Chan → Chan) : (s.upChan c k).ldr = s.ldr := rfl
@[simp] theorem upChan_csw (c : Nat) (k : Chan → Chan) : (s.upChan c k).csw = s.csw := rfl
@[simp] theorem upChan_net (c : Nat) (k : Chan → Chan) : (s.upChan c k).net = s.net := rfl
@[simp] theorem upChan_can (c : Nat) (k : Chan → Chan) : (s.upChan c k).can = s.can := rfl
@[simp] theorem upChan_dict (c : Nat) (k : Chan → Chan) : (s.upChan c k).dict = s.dict := rfl
@[simp] theorem upChan_host (c : Nat) (k : Chan → Chan) : (s.upChan c k).host = s.host := rfl
@[simp] theorem upChan_wdg (c : Nat) (k : Chan → Chan) : (s.upChan c k).wdg = s.wdg := rfl
@[simp] theorem upChan_evr (c : Nat) (k : Chan → Chan) : (s.upChan c k).evr = s.evr := rfl
@[simp] theorem upChan_trc (c : Nat) (k : Chan → Chan) : (s.upChan c k).trc = s.trc := rfl
@[simp] theorem upChan_nvp (c : Nat) (k : Chan → Chan) : (s.upChan c k).nvp = s.nvp := rfl
@[simp] theorem upChan_fw (c : Nat) (k : Chan → Chan) : (s.upChan c k).fw = s.fw := rfl
@[simp] theorem upChan_rtc (c : Nat) (k : Chan → Chan) : (s.upChan c k).rtc = s.rtc := rfl
@[simp] theorem upChan_pwr (c : Nat) (k : Chan → Chan) : (s.upChan c k).pwr = s.pwr := rfl
@[simp] theorem upChan_met (c : Nat) (k : Chan → Chan) : (s.upChan c k).met = s.met := rfl
@[simp] theorem upChan_free (c : Nat) (k : Chan → Chan) : (s.upChan c k).free = s.free := rfl
@[simp] theorem upChan_pending (c : Nat) (k : Chan → Chan) : (s.upChan c k).pending = s.pending := rfl
@[simp] theorem upChan_fio (c : Nat) (k : Chan → Chan) : (s.upChan c k).fio = { s.fio with chans := vup s.fio.chans c Chan.reset k } := rfl
@[simp] theorem upGroup_clk (g : Nat) (k : FieldGroup → FieldGroup) : (s.upGroup g k).clk = s.clk := rfl
@[simp] theorem upGroup_clu (g : Nat) (k : FieldGroup → FieldGroup) : (s.upGroup g k).clu = s.clu := rfl
@[simp] theorem upGroup_tasks (g : Nat) (k : FieldGroup → FieldGroup) : (s.upGroup g k).tasks = s.tasks := rfl
@[simp] theorem upGroup_sto (g : Nat) (k : FieldGroup → FieldGroup) : (s.upGroup g k).sto = s.sto := rfl
@[simp] theorem upGroup_ldr (g : Nat) (k : FieldGroup → FieldGroup) : (s.upGroup g k).ldr = s.ldr := rfl
@[simp] theorem upGroup_csw (g : Nat) (k : FieldGroup → FieldGroup) : (s.upGroup g k).csw = s.csw := rfl
@[simp] theorem upGroup_net (g : Nat) (k : FieldGroup → FieldGroup) : (s.upGroup g k).net = s.net := rfl
@[simp] theorem upGroup_can (g : Nat) (k : FieldGroup → FieldGroup) : (s.upGroup g k).can = s.can := rfl
@[simp] theorem upGroup_dict (g : Nat) (k : FieldGroup → FieldGroup) : (s.upGroup g k).dict = s.dict := rfl
@[simp] theorem upGroup_host (g : Nat) (k : FieldGroup → FieldGroup) : (s.upGroup g k).host = s.host := rfl
@[simp] theorem upGroup_wdg (g : Nat) (k : FieldGroup → FieldGroup) : (s.upGroup g k).wdg = s.wdg := rfl
@[simp] theorem upGroup_evr (g : Nat) (k : FieldGroup → FieldGroup) : (s.upGroup g k).evr = s.evr := rfl
@[simp] theorem upGroup_trc (g : Nat) (k : FieldGroup → FieldGroup) : (s.upGroup g k).trc = s.trc := rfl
@[simp] theorem upGroup_nvp (g : Nat) (k : FieldGroup → FieldGroup) : (s.upGroup g k).nvp = s.nvp := rfl
@[simp] theorem upGroup_fw (g : Nat) (k : FieldGroup → FieldGroup) : (s.upGroup g k).fw = s.fw := rfl
@[simp] theorem upGroup_rtc (g : Nat) (k : FieldGroup → FieldGroup) : (s.upGroup g k).rtc = s.rtc := rfl
@[simp] theorem upGroup_pwr (g : Nat) (k : FieldGroup → FieldGroup) : (s.upGroup g k).pwr = s.pwr := rfl
@[simp] theorem upGroup_met (g : Nat) (k : FieldGroup → FieldGroup) : (s.upGroup g k).met = s.met := rfl
@[simp] theorem upGroup_free (g : Nat) (k : FieldGroup → FieldGroup) : (s.upGroup g k).free = s.free := rfl
@[simp] theorem upGroup_pending (g : Nat) (k : FieldGroup → FieldGroup) : (s.upGroup g k).pending = s.pending := rfl
@[simp] theorem upGroup_fio (g : Nat) (k : FieldGroup → FieldGroup) : (s.upGroup g k).fio = { s.fio with groups := vup s.fio.groups g FieldGroup.reset k } := rfl
@[simp] theorem upSlot_clk (i : Nat) (k : Slot → Slot) : (s.upSlot i k).clk = s.clk := rfl
@[simp] theorem upSlot_clu (i : Nat) (k : Slot → Slot) : (s.upSlot i k).clu = s.clu := rfl
@[simp] theorem upSlot_tasks (i : Nat) (k : Slot → Slot) : (s.upSlot i k).tasks = s.tasks := rfl
@[simp] theorem upSlot_sto (i : Nat) (k : Slot → Slot) : (s.upSlot i k).sto = s.sto := rfl
@[simp] theorem upSlot_ldr (i : Nat) (k : Slot → Slot) : (s.upSlot i k).ldr = s.ldr := rfl
@[simp] theorem upSlot_csw (i : Nat) (k : Slot → Slot) : (s.upSlot i k).csw = s.csw := rfl
@[simp] theorem upSlot_fio (i : Nat) (k : Slot → Slot) : (s.upSlot i k).fio = s.fio := rfl
@[simp] theorem upSlot_can (i : Nat) (k : Slot → Slot) : (s.upSlot i k).can = s.can := rfl
@[simp] theorem upSlot_dict (i : Nat) (k : Slot → Slot) : (s.upSlot i k).dict = s.dict := rfl
@[simp] theorem upSlot_host (i : Nat) (k : Slot → Slot) : (s.upSlot i k).host = s.host := rfl
@[simp] theorem upSlot_wdg (i : Nat) (k : Slot → Slot) : (s.upSlot i k).wdg = s.wdg := rfl
@[simp] theorem upSlot_evr (i : Nat) (k : Slot → Slot) : (s.upSlot i k).evr = s.evr := rfl
@[simp] theorem upSlot_trc (i : Nat) (k : Slot → Slot) : (s.upSlot i k).trc = s.trc := rfl
@[simp] theorem upSlot_nvp (i : Nat) (k : Slot → Slot) : (s.upSlot i k).nvp = s.nvp := rfl
@[simp] theorem upSlot_fw (i : Nat) (k : Slot → Slot) : (s.upSlot i k).fw = s.fw := rfl
@[simp] theorem upSlot_rtc (i : Nat) (k : Slot → Slot) : (s.upSlot i k).rtc = s.rtc := rfl
@[simp] theorem upSlot_pwr (i : Nat) (k : Slot → Slot) : (s.upSlot i k).pwr = s.pwr := rfl
@[simp] theorem upSlot_met (i : Nat) (k : Slot → Slot) : (s.upSlot i k).met = s.met := rfl
@[simp] theorem upSlot_free (i : Nat) (k : Slot → Slot) : (s.upSlot i k).free = s.free := rfl
@[simp] theorem upSlot_pending (i : Nat) (k : Slot → Slot) : (s.upSlot i k).pending = s.pending := rfl
@[simp] theorem upSlot_net (i : Nat) (k : Slot → Slot) : (s.upSlot i k).net = { s.net with slots := vup s.net.slots i Slot.reset k } := rfl
@[simp] theorem upCanPort_clk (n : Nat) (k : Can → Can) : (s.upCanPort n k).clk = s.clk := rfl
@[simp] theorem upCanPort_clu (n : Nat) (k : Can → Can) : (s.upCanPort n k).clu = s.clu := rfl
@[simp] theorem upCanPort_tasks (n : Nat) (k : Can → Can) : (s.upCanPort n k).tasks = s.tasks := rfl
@[simp] theorem upCanPort_sto (n : Nat) (k : Can → Can) : (s.upCanPort n k).sto = s.sto := rfl
@[simp] theorem upCanPort_ldr (n : Nat) (k : Can → Can) : (s.upCanPort n k).ldr = s.ldr := rfl
@[simp] theorem upCanPort_csw (n : Nat) (k : Can → Can) : (s.upCanPort n k).csw = s.csw := rfl
@[simp] theorem upCanPort_fio (n : Nat) (k : Can → Can) : (s.upCanPort n k).fio = s.fio := rfl
@[simp] theorem upCanPort_net (n : Nat) (k : Can → Can) : (s.upCanPort n k).net = s.net := rfl
@[simp] theorem upCanPort_dict (n : Nat) (k : Can → Can) : (s.upCanPort n k).dict = s.dict := rfl
@[simp] theorem upCanPort_host (n : Nat) (k : Can → Can) : (s.upCanPort n k).host = s.host := rfl
@[simp] theorem upCanPort_wdg (n : Nat) (k : Can → Can) : (s.upCanPort n k).wdg = s.wdg := rfl
@[simp] theorem upCanPort_evr (n : Nat) (k : Can → Can) : (s.upCanPort n k).evr = s.evr := rfl
@[simp] theorem upCanPort_trc (n : Nat) (k : Can → Can) : (s.upCanPort n k).trc = s.trc := rfl
@[simp] theorem upCanPort_nvp (n : Nat) (k : Can → Can) : (s.upCanPort n k).nvp = s.nvp := rfl
@[simp] theorem upCanPort_fw (n : Nat) (k : Can → Can) : (s.upCanPort n k).fw = s.fw := rfl
@[simp] theorem upCanPort_rtc (n : Nat) (k : Can → Can) : (s.upCanPort n k).rtc = s.rtc := rfl
@[simp] theorem upCanPort_pwr (n : Nat) (k : Can → Can) : (s.upCanPort n k).pwr = s.pwr := rfl
@[simp] theorem upCanPort_met (n : Nat) (k : Can → Can) : (s.upCanPort n k).met = s.met := rfl
@[simp] theorem upCanPort_free (n : Nat) (k : Can → Can) : (s.upCanPort n k).free = s.free := rfl
@[simp] theorem upCanPort_pending (n : Nat) (k : Can → Can) : (s.upCanPort n k).pending = s.pending := rfl
@[simp] theorem upCanPort_can (n : Nat) (k : Can → Can) : (s.upCanPort n k).can = vup s.can n Can.reset k := rfl
@[simp] theorem upBuf_clk (n b : Nat) (k : CanBuf → CanBuf) : (s.upBuf n b k).clk = s.clk := rfl
@[simp] theorem upBuf_clu (n b : Nat) (k : CanBuf → CanBuf) : (s.upBuf n b k).clu = s.clu := rfl
@[simp] theorem upBuf_tasks (n b : Nat) (k : CanBuf → CanBuf) : (s.upBuf n b k).tasks = s.tasks := rfl
@[simp] theorem upBuf_sto (n b : Nat) (k : CanBuf → CanBuf) : (s.upBuf n b k).sto = s.sto := rfl
@[simp] theorem upBuf_ldr (n b : Nat) (k : CanBuf → CanBuf) : (s.upBuf n b k).ldr = s.ldr := rfl
@[simp] theorem upBuf_csw (n b : Nat) (k : CanBuf → CanBuf) : (s.upBuf n b k).csw = s.csw := rfl
@[simp] theorem upBuf_fio (n b : Nat) (k : CanBuf → CanBuf) : (s.upBuf n b k).fio = s.fio := rfl
@[simp] theorem upBuf_net (n b : Nat) (k : CanBuf → CanBuf) : (s.upBuf n b k).net = s.net := rfl
@[simp] theorem upBuf_dict (n b : Nat) (k : CanBuf → CanBuf) : (s.upBuf n b k).dict = s.dict := rfl
@[simp] theorem upBuf_host (n b : Nat) (k : CanBuf → CanBuf) : (s.upBuf n b k).host = s.host := rfl
@[simp] theorem upBuf_wdg (n b : Nat) (k : CanBuf → CanBuf) : (s.upBuf n b k).wdg = s.wdg := rfl
@[simp] theorem upBuf_evr (n b : Nat) (k : CanBuf → CanBuf) : (s.upBuf n b k).evr = s.evr := rfl
@[simp] theorem upBuf_trc (n b : Nat) (k : CanBuf → CanBuf) : (s.upBuf n b k).trc = s.trc := rfl
@[simp] theorem upBuf_nvp (n b : Nat) (k : CanBuf → CanBuf) : (s.upBuf n b k).nvp = s.nvp := rfl
@[simp] theorem upBuf_fw (n b : Nat) (k : CanBuf → CanBuf) : (s.upBuf n b k).fw = s.fw := rfl
@[simp] theorem upBuf_rtc (n b : Nat) (k : CanBuf → CanBuf) : (s.upBuf n b k).rtc = s.rtc := rfl
@[simp] theorem upBuf_pwr (n b : Nat) (k : CanBuf → CanBuf) : (s.upBuf n b k).pwr = s.pwr := rfl
@[simp] theorem upBuf_met (n b : Nat) (k : CanBuf → CanBuf) : (s.upBuf n b k).met = s.met := rfl
@[simp] theorem upBuf_free (n b : Nat) (k : CanBuf → CanBuf) : (s.upBuf n b k).free = s.free := rfl
@[simp] theorem upBuf_pending (n b : Nat) (k : CanBuf → CanBuf) : (s.upBuf n b k).pending = s.pending := rfl
@[simp] theorem upMregs_clk (m : Master) (k : MasterRegs → MasterRegs) : (s.upMregs m k).clk = s.clk := rfl
@[simp] theorem upMregs_clu (m : Master) (k : MasterRegs → MasterRegs) : (s.upMregs m k).clu = s.clu := rfl
@[simp] theorem upMregs_tasks (m : Master) (k : MasterRegs → MasterRegs) : (s.upMregs m k).tasks = s.tasks := rfl
@[simp] theorem upMregs_sto (m : Master) (k : MasterRegs → MasterRegs) : (s.upMregs m k).sto = s.sto := rfl
@[simp] theorem upMregs_ldr (m : Master) (k : MasterRegs → MasterRegs) : (s.upMregs m k).ldr = s.ldr := rfl
@[simp] theorem upMregs_csw (m : Master) (k : MasterRegs → MasterRegs) : (s.upMregs m k).csw = s.csw := rfl
@[simp] theorem upMregs_fio (m : Master) (k : MasterRegs → MasterRegs) : (s.upMregs m k).fio = s.fio := rfl
@[simp] theorem upMregs_net (m : Master) (k : MasterRegs → MasterRegs) : (s.upMregs m k).net = s.net := rfl
@[simp] theorem upMregs_can (m : Master) (k : MasterRegs → MasterRegs) : (s.upMregs m k).can = s.can := rfl
@[simp] theorem upMregs_dict (m : Master) (k : MasterRegs → MasterRegs) : (s.upMregs m k).dict = s.dict := rfl
@[simp] theorem upMregs_wdg (m : Master) (k : MasterRegs → MasterRegs) : (s.upMregs m k).wdg = s.wdg := rfl
@[simp] theorem upMregs_evr (m : Master) (k : MasterRegs → MasterRegs) : (s.upMregs m k).evr = s.evr := rfl
@[simp] theorem upMregs_trc (m : Master) (k : MasterRegs → MasterRegs) : (s.upMregs m k).trc = s.trc := rfl
@[simp] theorem upMregs_nvp (m : Master) (k : MasterRegs → MasterRegs) : (s.upMregs m k).nvp = s.nvp := rfl
@[simp] theorem upMregs_fw (m : Master) (k : MasterRegs → MasterRegs) : (s.upMregs m k).fw = s.fw := rfl
@[simp] theorem upMregs_rtc (m : Master) (k : MasterRegs → MasterRegs) : (s.upMregs m k).rtc = s.rtc := rfl
@[simp] theorem upMregs_pwr (m : Master) (k : MasterRegs → MasterRegs) : (s.upMregs m k).pwr = s.pwr := rfl
@[simp] theorem upMregs_met (m : Master) (k : MasterRegs → MasterRegs) : (s.upMregs m k).met = s.met := rfl
@[simp] theorem upMregs_free (m : Master) (k : MasterRegs → MasterRegs) : (s.upMregs m k).free = s.free := rfl
@[simp] theorem upMregs_pending (m : Master) (k : MasterRegs → MasterRegs) : (s.upMregs m k).pending = s.pending := rfl
@[simp] theorem upMregs_host (m : Master) (k : MasterRegs → MasterRegs) : (s.upMregs m k).host = { s.host with regs := vup s.host.regs (masterCode m) MasterRegs.reset k } := rfl
@[simp] theorem upWslot_clk (i : Nat) (k : WSlot → WSlot) : (s.upWslot i k).clk = s.clk := rfl
@[simp] theorem upWslot_clu (i : Nat) (k : WSlot → WSlot) : (s.upWslot i k).clu = s.clu := rfl
@[simp] theorem upWslot_tasks (i : Nat) (k : WSlot → WSlot) : (s.upWslot i k).tasks = s.tasks := rfl
@[simp] theorem upWslot_sto (i : Nat) (k : WSlot → WSlot) : (s.upWslot i k).sto = s.sto := rfl
@[simp] theorem upWslot_ldr (i : Nat) (k : WSlot → WSlot) : (s.upWslot i k).ldr = s.ldr := rfl
@[simp] theorem upWslot_csw (i : Nat) (k : WSlot → WSlot) : (s.upWslot i k).csw = s.csw := rfl
@[simp] theorem upWslot_fio (i : Nat) (k : WSlot → WSlot) : (s.upWslot i k).fio = s.fio := rfl
@[simp] theorem upWslot_net (i : Nat) (k : WSlot → WSlot) : (s.upWslot i k).net = s.net := rfl
@[simp] theorem upWslot_can (i : Nat) (k : WSlot → WSlot) : (s.upWslot i k).can = s.can := rfl
@[simp] theorem upWslot_dict (i : Nat) (k : WSlot → WSlot) : (s.upWslot i k).dict = s.dict := rfl
@[simp] theorem upWslot_host (i : Nat) (k : WSlot → WSlot) : (s.upWslot i k).host = s.host := rfl
@[simp] theorem upWslot_evr (i : Nat) (k : WSlot → WSlot) : (s.upWslot i k).evr = s.evr := rfl
@[simp] theorem upWslot_trc (i : Nat) (k : WSlot → WSlot) : (s.upWslot i k).trc = s.trc := rfl
@[simp] theorem upWslot_nvp (i : Nat) (k : WSlot → WSlot) : (s.upWslot i k).nvp = s.nvp := rfl
@[simp] theorem upWslot_fw (i : Nat) (k : WSlot → WSlot) : (s.upWslot i k).fw = s.fw := rfl
@[simp] theorem upWslot_rtc (i : Nat) (k : WSlot → WSlot) : (s.upWslot i k).rtc = s.rtc := rfl
@[simp] theorem upWslot_pwr (i : Nat) (k : WSlot → WSlot) : (s.upWslot i k).pwr = s.pwr := rfl
@[simp] theorem upWslot_met (i : Nat) (k : WSlot → WSlot) : (s.upWslot i k).met = s.met := rfl
@[simp] theorem upWslot_free (i : Nat) (k : WSlot → WSlot) : (s.upWslot i k).free = s.free := rfl
@[simp] theorem upWslot_pending (i : Nat) (k : WSlot → WSlot) : (s.upWslot i k).pending = s.pending := rfl
@[simp] theorem upWslot_wdg (i : Nat) (k : WSlot → WSlot) : (s.upWslot i k).wdg = { s.wdg with slots := vup s.wdg.slots i WSlot.reset k } := rfl
@[simp] theorem upMetChan_clk (c : Nat) (k : MetChan → MetChan) : (s.upMetChan c k).clk = s.clk := rfl
@[simp] theorem upMetChan_clu (c : Nat) (k : MetChan → MetChan) : (s.upMetChan c k).clu = s.clu := rfl
@[simp] theorem upMetChan_tasks (c : Nat) (k : MetChan → MetChan) : (s.upMetChan c k).tasks = s.tasks := rfl
@[simp] theorem upMetChan_sto (c : Nat) (k : MetChan → MetChan) : (s.upMetChan c k).sto = s.sto := rfl
@[simp] theorem upMetChan_ldr (c : Nat) (k : MetChan → MetChan) : (s.upMetChan c k).ldr = s.ldr := rfl
@[simp] theorem upMetChan_csw (c : Nat) (k : MetChan → MetChan) : (s.upMetChan c k).csw = s.csw := rfl
@[simp] theorem upMetChan_fio (c : Nat) (k : MetChan → MetChan) : (s.upMetChan c k).fio = s.fio := rfl
@[simp] theorem upMetChan_net (c : Nat) (k : MetChan → MetChan) : (s.upMetChan c k).net = s.net := rfl
@[simp] theorem upMetChan_can (c : Nat) (k : MetChan → MetChan) : (s.upMetChan c k).can = s.can := rfl
@[simp] theorem upMetChan_dict (c : Nat) (k : MetChan → MetChan) : (s.upMetChan c k).dict = s.dict := rfl
@[simp] theorem upMetChan_host (c : Nat) (k : MetChan → MetChan) : (s.upMetChan c k).host = s.host := rfl
@[simp] theorem upMetChan_wdg (c : Nat) (k : MetChan → MetChan) : (s.upMetChan c k).wdg = s.wdg := rfl
@[simp] theorem upMetChan_evr (c : Nat) (k : MetChan → MetChan) : (s.upMetChan c k).evr = s.evr := rfl
@[simp] theorem upMetChan_trc (c : Nat) (k : MetChan → MetChan) : (s.upMetChan c k).trc = s.trc := rfl
@[simp] theorem upMetChan_nvp (c : Nat) (k : MetChan → MetChan) : (s.upMetChan c k).nvp = s.nvp := rfl
@[simp] theorem upMetChan_fw (c : Nat) (k : MetChan → MetChan) : (s.upMetChan c k).fw = s.fw := rfl
@[simp] theorem upMetChan_rtc (c : Nat) (k : MetChan → MetChan) : (s.upMetChan c k).rtc = s.rtc := rfl
@[simp] theorem upMetChan_pwr (c : Nat) (k : MetChan → MetChan) : (s.upMetChan c k).pwr = s.pwr := rfl
@[simp] theorem upMetChan_free (c : Nat) (k : MetChan → MetChan) : (s.upMetChan c k).free = s.free := rfl
@[simp] theorem upMetChan_pending (c : Nat) (k : MetChan → MetChan) : (s.upMetChan c k).pending = s.pending := rfl
@[simp] theorem upMetChan_met (c : Nat) (k : MetChan → MetChan) : (s.upMetChan c k).met = { s.met with chans := vup s.met.chans c MetChan.reset k } := rfl
@[simp] theorem upOpen_clk (k : Half → Half) : (s.upOpen k).clk = s.clk := rfl
@[simp] theorem upOpen_clu (k : Half → Half) : (s.upOpen k).clu = s.clu := rfl
@[simp] theorem upOpen_tasks (k : Half → Half) : (s.upOpen k).tasks = s.tasks := rfl
@[simp] theorem upOpen_ldr (k : Half → Half) : (s.upOpen k).ldr = s.ldr := rfl
@[simp] theorem upOpen_csw (k : Half → Half) : (s.upOpen k).csw = s.csw := rfl
@[simp] theorem upOpen_fio (k : Half → Half) : (s.upOpen k).fio = s.fio := rfl
@[simp] theorem upOpen_net (k : Half → Half) : (s.upOpen k).net = s.net := rfl
@[simp] theorem upOpen_can (k : Half → Half) : (s.upOpen k).can = s.can := rfl
@[simp] theorem upOpen_dict (k : Half → Half) : (s.upOpen k).dict = s.dict := rfl
@[simp] theorem upOpen_host (k : Half → Half) : (s.upOpen k).host = s.host := rfl
@[simp] theorem upOpen_wdg (k : Half → Half) : (s.upOpen k).wdg = s.wdg := rfl
@[simp] theorem upOpen_evr (k : Half → Half) : (s.upOpen k).evr = s.evr := rfl
@[simp] theorem upOpen_trc (k : Half → Half) : (s.upOpen k).trc = s.trc := rfl
@[simp] theorem upOpen_nvp (k : Half → Half) : (s.upOpen k).nvp = s.nvp := rfl
@[simp] theorem upOpen_fw (k : Half → Half) : (s.upOpen k).fw = s.fw := rfl
@[simp] theorem upOpen_rtc (k : Half → Half) : (s.upOpen k).rtc = s.rtc := rfl
@[simp] theorem upOpen_pwr (k : Half → Half) : (s.upOpen k).pwr = s.pwr := rfl
@[simp] theorem upOpen_met (k : Half → Half) : (s.upOpen k).met = s.met := rfl
@[simp] theorem upOpen_free (k : Half → Half) : (s.upOpen k).free = s.free := rfl
@[simp] theorem upOpen_pending (k : Half → Half) : (s.upOpen k).pending = s.pending := rfl
@[simp] theorem upOther_clk (k : Half → Half) : (s.upOther k).clk = s.clk := rfl
@[simp] theorem upOther_clu (k : Half → Half) : (s.upOther k).clu = s.clu := rfl
@[simp] theorem upOther_tasks (k : Half → Half) : (s.upOther k).tasks = s.tasks := rfl
@[simp] theorem upOther_ldr (k : Half → Half) : (s.upOther k).ldr = s.ldr := rfl
@[simp] theorem upOther_csw (k : Half → Half) : (s.upOther k).csw = s.csw := rfl
@[simp] theorem upOther_fio (k : Half → Half) : (s.upOther k).fio = s.fio := rfl
@[simp] theorem upOther_net (k : Half → Half) : (s.upOther k).net = s.net := rfl
@[simp] theorem upOther_can (k : Half → Half) : (s.upOther k).can = s.can := rfl
@[simp] theorem upOther_dict (k : Half → Half) : (s.upOther k).dict = s.dict := rfl
@[simp] theorem upOther_host (k : Half → Half) : (s.upOther k).host = s.host := rfl
@[simp] theorem upOther_wdg (k : Half → Half) : (s.upOther k).wdg = s.wdg := rfl
@[simp] theorem upOther_evr (k : Half → Half) : (s.upOther k).evr = s.evr := rfl
@[simp] theorem upOther_trc (k : Half → Half) : (s.upOther k).trc = s.trc := rfl
@[simp] theorem upOther_nvp (k : Half → Half) : (s.upOther k).nvp = s.nvp := rfl
@[simp] theorem upOther_fw (k : Half → Half) : (s.upOther k).fw = s.fw := rfl
@[simp] theorem upOther_rtc (k : Half → Half) : (s.upOther k).rtc = s.rtc := rfl
@[simp] theorem upOther_pwr (k : Half → Half) : (s.upOther k).pwr = s.pwr := rfl
@[simp] theorem upOther_met (k : Half → Half) : (s.upOther k).met = s.met := rfl
@[simp] theorem upOther_free (k : Half → Half) : (s.upOther k).free = s.free := rfl
@[simp] theorem upOther_pending (k : Half → Half) : (s.upOther k).pending = s.pending := rfl

end State

end Sys2Proof.Machine
end

