-- ==== Sys2Proof/Laws/Vec.lean ====
section
/-! SUPPORT. What an element of a vector, a key of an association list and a bit of a word reads after an update of another or of itself. -/

set_option Elab.async false
set_option linter.all false

namespace Sys2Proof.Machine

open Sys2Proof

variable {α β : Type} {n : Nat}

theorem vget_vset (v : Vector α n) (i j : Nat) (x d : α) : vget (vset v i x) j d = if i = j ∧ i < n then x else vget v j d := by
  unfold vget vset
  by_cases h : i = j
  · subst h
    by_cases hi : i < n <;> simp [hi]
  · simp [h]

theorem vget_vup (v : Vector α n) (i j : Nat) (d : α) (k : α → α) :
    vget (vup v i d k) j d = if i = j ∧ i < n then k (vget v i d) else vget v j d := vget_vset ..

theorem vget_vup_same {v : Vector α n} {i : Nat} (h : i < n) (d : α) (k : α → α) : vget (vup v i d k) i d = k (vget v i d) := by
  simp [vget_vup, h]

theorem vget_vup_ne {v : Vector α n} {i j : Nat} (h : j ≠ i) (d : α) (k : α → α) : vget (vup v i d k) j d = vget v j d := by
  simp [vget_vup, Ne.symm h]

theorem vget_mapIdx {γ : Type} (v : Vector α n) (f : Nat → α → γ) {i : Nat} (h : i < n) (d : α) (e : γ) :
    vget (v.mapIdx f) i e = f i (vget v i d) := by
  unfold vget
  simp [h]

theorem vget_map {γ : Type} (v : Vector α n) (f : α → γ) {i : Nat} (h : i < n) (d : α) (e : γ) :
    vget (v.map f) i e = f (vget v i d) := by
  unfold vget
  simp [h]

theorem aget_nil (k : Nat) : aget ([] : List (Nat × β)) k = none := rfl

theorem aget_cons (i : Nat) (x : β) (l : List (Nat × β)) (k : Nat) : aget ((i, x) :: l) k = if i = k then some x else aget l k := by
  unfold aget
  by_cases h : i = k <;> simp [h]

theorem aget_aput (v : β) (k j : Nat) : ∀ l : List (Nat × β), aget (aput k v l) j = if k = j then some v else aget l j
  | [] => by simp [aput, aget_cons, aget_nil]
  | (i, x) :: t => by
    unfold aput
    split
    · simp [aget_cons]
    · split
      · next h => subst h; simp only [aget_cons]; split <;> rfl
      · next h =>
        simp only [aget_cons, aget_aput v k j t]
        by_cases hk : k = j
        · subst hk; simp [Ne.symm h]
        · simp [hk]

theorem setBit_getLsbD (w : Word) (i j : Nat) (v : Bool) (h : j < 32) : (setBit w i v).getLsbD j = if i = j then v else w.getLsbD j := by
  unfold setBit
  have e : (1#32 <<< i).getLsbD j = decide (i = j) := by
    simp only [BitVec.getLsbD_shiftLeft, h, decide_true, Bool.true_and, BitVec.getLsbD_one]
    by_cases hij : i = j
    · subst hij; simp
    · by_cases hlt : j < i
      · simp [hlt, hij]
      · simp [hlt, hij]; omega
  cases v
  · simp only [Bool.false_eq_true, if_false, BitVec.getLsbD_and, BitVec.getLsbD_not, e, h]
    by_cases hij : i = j <;> simp [hij]
  · simp only [if_true, BitVec.getLsbD_or, e]
    by_cases hij : i = j <;> simp [hij]

end Sys2Proof.Machine
end

