-- ==== Sys2Proof/Laws/Beats.lean ====
section
/-! SUPPORT. What a beat boundary does to the beat sequencer, and what milestones and runs leave when they complete (Machine/Beats.lean). -/

set_option Elab.async false
set_option linter.all false

namespace Sys2Proof.Machine

open Sys2Proof

variable (s : State)

/-- A boundary of an executing unit with no Parked request leaves the beat sequencer as its beat began (02 R40). -/
theorem execBoundary_clk {s : State} (hp : s.pwr.parkReq = 0) (t : Nat) (late : Bool) : (s.execBoundary t late none).clk = s.clk := by
  let L : Parts := { clu := true, tasks := true, sto := true, csw := true, fio := true, net := true, can := true, dict := true, host := true, wdg := true, evr := true, trc := true, pwr := true }
  have hK : Keep L s s := Keep.refl s
  suffices h : Keep L s (s.execBoundary t late none) from h.frame.clk rfl
  unfold State.execBoundary
  have hl : Keep L s s.latchStations.1 := State.latchStations_keep hK
  have hp1 : s.latchStations.1.canLatch.pwr = s.pwr :=
    (State.canLatch_keep (State.latchStations_keep (L := { sto := true, net := true, can := true, evr := true, trc := true }) (Keep.refl s))).frame.pwr rfl
  extract_lets l u resumed v first w e x parking c y hand z anchor r a b d
  have hu : Keep L s u := State.canLatch_keep hl
  have hup : u.pwr = s.pwr := hp1
  have hv : Keep L s v := hu
  have hw : Keep L s w := State.openOrCount_keep hv
  have hwp : w.pwr = s.pwr := by
    have : w.pwr = u.pwr := (State.openOrCount_keep (L := { sto := true }) (Keep.refl u)).frame.pwr rfl
    rw [this, hup]
  have he : Keep L s e.1 := State.applyBatches_keep _ _ hw _ _
  have hep : e.1.pwr = s.pwr := by
    have : e.1.pwr = w.pwr := (State.applyBatches_keep (L := { sto := true, net := true, can := true, dict := true, host := true, evr := true }) _ _ (Keep.refl w) _ _).frame.pwr rfl
    rw [this, hwp]
  have hx : Keep L s x := he
  have hpk : parking = false := by
    unfold parking
    rw [show x.pwr = s.pwr from hep, hp]; rfl
  have hc : Keep L s c.1 := Keep.ite1 hx (State.closeDecision_keep hx)
  have hy : Keep L s y := hc
  have hz : Keep L s z := by
    unfold z
    split
    · exact Keep.ite (State.handoverClosed_keep hy _) hy
    · exact hy
  have hr : Keep L s r.state := by
    unfold r
    split
    · exact hz
    · exact State.releaseAct_keep hz
  have ha : Keep L s a := State.pruneSent_keep (Keep.foldl (fun _ _ h => State.resumeFrame_keep h _) _ (State.launchAct_keep hr)) _
  have hb : Keep L s b := State.publish_keep (State.traceBeat_keep ha _ _)
  have hd : Keep L s d := hb
  rw [hpk, if_neg (by decide)]
  exact hd

/-- Renumbering changes of the beat sequencer the number and the numbering (02 R36). -/
theorem renumber_clk (old new : Nat) : (s.renumber old new).clk = { s.clk with beat := new, ptpNum := true } := by
  obtain ⟨u, hu⟩ : ∃ u : State, u = (List.range 8).foldl (fun acc n => acc.gateClose n) s := ⟨_, rfl⟩
  have k1 : Keep { can := true, evr := true } s u := by
    rw [hu]; exact Keep.foldl (fun _ _ h => State.gateClose_keep h _) _ (Keep.refl s)
  have k2 : Keep { tasks := true, sto := true, csw := true, host := true, evr := true, trc := true } (u.upClk (fun c => { c with beat := new, ptpNum := true })) (s.renumber old new) := by
    unfold State.renumber
    dsimp only
    rw [← hu]
    exact State.exeCause_keep (State.traceMark_keep ((Keep.upSto (Keep.foldl (fun _ _ h => State.upTask_keep h _ _) _ ((Keep.refl _).upTasks _))
      (fun h => ⟨h.program, h.lmem, h.durable, h.inView, h.launched⟩)).upCsw _) _) _ _
  rw [k2.frame.clk rfl, State.upClk_clk, k1.frame.clk rfl]

/-- The next beat: its instant, the powered count, and its number (02 R35, R36, R72). -/
theorem nextBeat_clk (t : Nat) :
    (s.nextBeat t).clk.running = true ∧ (s.nextBeat t).clk.beatAt = t ∧ (s.nextBeat t).clk.powered = s.clk.powered + 1 ∧
    (s.nextBeat t).clk.now = s.clk.now ∧
    (s.nextBeat t).clk.beatsRun = (if s.clk.running then s.clk.beatsRun + 1 else 0) ∧
    (s.nextBeat t).clk.beat = (if !s.clk.ptpNum && s.clk.alignedPrev && s.isLocked then (s.ptpNow + 1000 * s.clk.p / 2) / (1000 * s.clk.p) else if s.clk.running then s.clk.beat + 1 else 0) ∧
    (s.nextBeat t).clk.ptpNum = (s.clk.ptpNum || (s.clk.alignedPrev && s.isLocked)) ∧
    (s.nextBeat t).clk.alignedPrev = (s.aligned && !(s.clk.ptpNum || (s.clk.alignedPrev && s.isLocked)) && s.isLocked) := by
  obtain ⟨u, hu⟩ : ∃ u : State, u = s.upClk (fun c => { c with
    running := true, beat := if !s.clk.running then 0 else s.clk.beat + 1, beatAt := t, beatsRun := if !s.clk.running then 0 else c.beatsRun + 1, powered := c.powered + 1 }) := ⟨_, rfl⟩
  obtain ⟨x, hx⟩ : ∃ x : State, x = (if !s.clk.running then (u.traceMark 1).requestAnchor else u) := ⟨_, rfl⟩
  obtain ⟨v, hv⟩ : ∃ v : State, v = (if !s.clk.running && !x.isLocked then x.exeCause 6 [] else x) := ⟨_, rfl⟩
  have kx : Keep { trc := true } u x := by
    rw [hx]; exact Keep.ite (State.requestAnchor_keep (State.traceMark_keep (Keep.refl u) _)) (Keep.refl u)
  have kv : v.clk = u.clk := by
    rw [hv]; split
    · exact ((State.exeCause_keep (L := { host := true, evr := true }) (Keep.refl x) _ _).frame.clk rfl).trans (kx.frame.clk rfl)
    · exact kx.frame.clk rfl
  obtain ⟨w, hw⟩ : ∃ w : State, w = (if !v.clk.ptpNum && v.clk.alignedPrev && v.isLocked then
      v.renumber (if !s.clk.running then 0 else s.clk.beat + 1) ((v.ptpNow + 1000 * v.clk.p / 2) / (1000 * v.clk.p)) else v) := ⟨_, rfl⟩
  have e : s.nextBeat t = w.upClk (fun c => { c with alignedPrev := w.aligned && !c.ptpNum && w.isLocked }) := by
    unfold State.nextBeat
    dsimp only
    rw [← hu, ← hx, ← hv, ← hw]
  have hlk : v.isLocked = s.isLocked := by unfold State.isLocked; rw [kv, hu]; rfl
  have hnow : v.ptpNow = s.ptpNow := by unfold State.ptpNow; rw [kv, hu]; rfl
  have h1 : v.clk.ptpNum = s.clk.ptpNum := by rw [kv, hu]; rfl
  have h2 : v.clk.alignedPrev = s.clk.alignedPrev := by rw [kv, hu]; rfl
  have h3 : v.clk.p = s.clk.p := by rw [kv, hu]; rfl
  rw [h1, h2, hlk, hnow, h3] at hw
  rw [e]
  have hw2 : w.clk = if !s.clk.ptpNum && s.clk.alignedPrev && s.isLocked then { v.clk with beat := (s.ptpNow + 1000 * s.clk.p / 2) / (1000 * s.clk.p), ptpNum := true } else v.clk := by
    rw [hw]; split
    · exact renumber_clk _ _ _
    · rfl
  have hwl : w.isLocked = s.isLocked ∧ w.aligned = s.aligned := by
    rw [← hlk]
    have ha : v.aligned = s.aligned := by unfold State.aligned; rw [hnow, h3]
    rw [← ha]
    unfold State.aligned State.isLocked State.ptpNow
    rw [hw2]
    split <;> exact ⟨rfl, rfl⟩
  rw [State.upClk_clk, hwl.1, hwl.2, hw2, kv, hu]
  cases hb : (!s.clk.ptpNum && s.clk.alignedPrev && s.isLocked)
  · have hq : s.clk.ptpNum = (s.clk.ptpNum || (s.clk.alignedPrev && s.isLocked)) := by
      revert hb; cases s.clk.ptpNum <;> cases s.clk.alignedPrev <;> cases s.isLocked <;> decide
    refine ⟨rfl, rfl, rfl, rfl, ?_, ?_, hq, ?_⟩
    · show (if !s.clk.running then 0 else s.clk.beatsRun + 1) = _
      cases s.clk.running <;> rfl
    · show (if !s.clk.running then 0 else s.clk.beat + 1) = _
      cases s.clk.running <;> rfl
    · rw [← hq]; rfl
  · have hq : true = (s.clk.ptpNum || (s.clk.alignedPrev && s.isLocked)) := by
      revert hb; cases s.clk.ptpNum <;> cases s.clk.alignedPrev <;> cases s.isLocked <;> decide
    refine ⟨rfl, rfl, rfl, rfl, ?_, rfl, hq, by rw [← hq]; rfl⟩
    show (if !s.clk.running then 0 else s.clk.beatsRun + 1) = _
    cases s.clk.running <;> rfl

/-- The answer to a batch changes of the stores the outcomes alone (11 R344). -/
theorem batchDone_sto (b : Batch) (st info ms : Nat) : ∃ o, (s.batchDone b st info ms).sto = { s.sto with outcomes := o } := by
  refine ⟨(b.client, (b.id, ((if st = stOk then 3 else 4), ms))) :: s.sto.outcomes, ?_⟩
  obtain ⟨u, hu⟩ : ∃ u : State, u = s.upSto (fun x => { x with outcomes := (b.client, (b.id, ((if st = stOk then 3 else 4), ms))) :: x.outcomes }) := ⟨_, rfl⟩
  have key : (s.batchDone b st info ms).sto = u.sto := by
    unfold State.batchDone
    rw [← hu]
    dsimp only
    split
    · exact (State.odxCauseBit_keep (L := { dict := true, evr := true }) (Keep.refl u) _).frame.sto rfl
    · split
      · exact (State.kvSend_keep (L := { net := true, can := true, dict := true, evr := true }) (Keep.refl u) _ _).frame.sto rfl
      · rfl
  rw [key, hu]
  rfl

/-- The batches that become reportable leave the list, with their outcomes; of the stores nothing else changes (07 R218, 11 R344). -/
theorem reportBatches_sto : ∃ l o, s.reportBatches.sto = { s.sto with unreported := l, outcomes := o } := by
  unfold State.reportBatches
  extract_lets done go u
  have key : ∀ (l : List Batch) (z : State), ∃ o, (l.foldl (fun acc b => acc.batchDone b stOk 0 (b.ms.getD 0)) z).sto = { z.sto with outcomes := o } := by
    intro l
    induction l with
    | nil => intro z; exact ⟨z.sto.outcomes, rfl⟩
    | cons b l ih =>
      intro z
      obtain ⟨o1, h1⟩ := batchDone_sto z b stOk 0 (b.ms.getD 0)
      obtain ⟨o2, h2⟩ := ih (z.batchDone b stOk 0 (b.ms.getD 0))
      exact ⟨o2, by rw [List.foldl_cons, h2, h1]⟩
  obtain ⟨o, ho⟩ := key go u
  exact ⟨_, o, by rw [ho]; rfl⟩

end Sys2Proof.Machine
end

