-- ==== Sys2Proof/Laws/Can.lean ====
section
/-! SUPPORT. One CAN port and one of its buffers after an update (10 R299). -/

set_option Elab.async false
set_option linter.all false

namespace Sys2Proof.Machine

open Sys2Proof

theorem upCanPort_port (s : State) {n : Nat} (h : n < 8) (k : Can → Can) : (s.upCanPort n k).canPort n = k (s.canPort n) := vget_vup_same h _ _

theorem upCanPort_other (s : State) {n m : Nat} (h : m ≠ n) (k : Can → Can) : (s.upCanPort n k).canPort m = s.canPort m := vget_vup_ne h ..

theorem upBuf_port (s : State) {n : Nat} (h : n < 8) (b : Nat) (k : CanBuf → CanBuf) :
    (s.upBuf n b k).canPort n = { s.canPort n with bufs := vup (s.canPort n).bufs b CanBuf.reset k } := upCanPort_port s h _

theorem upBuf_other (s : State) {n m : Nat} (h : m ≠ n) (b : Nat) (k : CanBuf → CanBuf) : (s.upBuf n b k).canPort m = s.canPort m := upCanPort_other s h _

theorem canCause_port (s : State) {n : Nat} (h : n < 8) (b x : Nat) :
    (s.canCause n b x).canPort n = { s.canPort n with cause := setBit (s.canPort n).cause b true } := by
  unfold State.canPort
  rw [State.canCause_can]
  exact vget_vup_same h _ _

theorem canCause_other (s : State) {n m : Nat} (h : m ≠ n) (b x : Nat) : (s.canCause n b x).canPort m = s.canPort m := by
  unfold State.canPort
  rw [State.canCause_can]
  exact vget_vup_ne h ..

theorem countEdges_port (a s : State) (n : Nat) : (countEdges a s).canPort n = s.canPort n := by
  unfold State.canPort
  rw [countEdges_can]

theorem upBuf_buf (s : State) {n b : Nat} (h : n < 8) (hb : b < 64) (k : CanBuf → CanBuf) : ((s.upBuf n b k).canPort n).buf b = k ((s.canPort n).buf b) := by
  rw [upBuf_port s h]
  exact vget_vup_same hb _ _

theorem upBuf_buf_ne (s : State) {n b j : Nat} (h : n < 8) (hb : j ≠ b) (k : CanBuf → CanBuf) : ((s.upBuf n b k).canPort n).buf j = (s.canPort n).buf j := by
  rw [upBuf_port s h]
  exact vget_vup_ne hb ..

/-- A buffer updated twice. -/
theorem vup_vup {α : Type} {n : Nat} (v : Vector α n) (i : Nat) (d : α) (k l : α → α) : vup (vup v i d k) i d l = vup v i d (fun x => l (k x)) := by
  unfold vup vset vget
  by_cases h : i < n
  · simp [h, Vector.setIfInBounds]
  · refine Vector.ext (fun j hj => ?_)
    rw [Vector.getElem_setIfInBounds, Vector.getElem_setIfInBounds, Vector.getElem_setIfInBounds]
    simp [show ¬ i = j by omega]

/-- One frame is queued at the end (10 R306). -/
theorem canQueue_port (s : State) {n : Nat} (h : n < 8) (b : Nat) (f : List Word) (drop : Bool) :
    (s.canQueue n b f drop).canPort n = (if ((s.canPort n).buf b).queue.length < 4 then
        { s.canPort n with stamp := (s.canPort n).stamp + 1, bufs := vup (s.canPort n).bufs b CanBuf.reset (fun x => { x with queue := x.queue ++ [{ words := f, stamp := (s.canPort n).stamp, tries := 0, late := false }] }) }
      else { s.canPort n with cause := setBit (s.canPort n).cause 7 true, txDrop := if drop then sat32 (s.canPort n).txDrop else (s.canPort n).txDrop }) := by
  unfold State.canQueue
  dsimp only
  split
  · rw [upBuf_port _ h, upCanPort_port _ h]
  · rw [canCause_port _ h]
    cases drop <;> simp [upCanPort_port _ h]

theorem canQueue_other (s : State) {n m : Nat} (h : m ≠ n) (b : Nat) (f : List Word) (drop : Bool) : (s.canQueue n b f drop).canPort m = s.canPort m := by
  unfold State.canQueue
  dsimp only
  split
  · rw [upBuf_other _ h, upCanPort_other _ h]
  · rw [canCause_other _ h]
    cases drop <;> simp [upCanPort_other _ h]

theorem leaveQueue_eq (x : CanTx) (q : List CanTx) : leaveQueue x q = if q.head?.any (fun z => decide (z.stamp = x.stamp)) = true then q.tail else q := by
  cases q <;> simp [leaveQueue]

theorem countTry_eq (x : CanTx) (q : List CanTx) : countTry x q = if q.head?.any (fun z => decide (z.stamp = x.stamp)) = true then (q.take 1).map (fun z => { z with tries := z.tries + 1 }) ++ q.tail else q := by
  cases q <;> simp [countTry]

/-- Counting an attempt leaves the head in its place. -/
theorem leaveQueue_countTry (x : CanTx) (q : List CanTx) : leaveQueue x (countTry x q) = leaveQueue x q := by
  cases q with
  | nil => rfl
  | cons z l => by_cases h : z.stamp = x.stamp <;> simp [countTry, leaveQueue, h]

/-- The counters' new values, and the causes that their thresholds set (10 R312, R313). -/
theorem canCounters_port (s : State) {n : Nat} (h : n < 8) (tec rec' : Nat) :
    (s.canCounters n tec rec').canPort n = { s.canPort n with
      txErr := min 255 tec, rxErr := min 255 rec'
      busOff := (s.canPort n).busOff || decide (255 < tec)
      recovering := (s.canPort n).recovering || (decide (255 < tec) && !(s.canPort n).busOff && (s.canPort n).ctrl.getLsbD 4)
      cause := (fun a => if (decide (255 < tec) && !(s.canPort n).busOff) = true then setBit a 0 true else a)
        ((fun a => if (s.canPort n).errState = 0 ∧ (127 < tec ∨ 127 < rec') then setBit a 1 true else a)
          (if (96 ≤ tec ∧ (s.canPort n).txErr < 96) ∨ (96 ≤ rec' ∧ (s.canPort n).rxErr < 96) then setBit (s.canPort n).cause 2 true else (s.canPort n).cause)) } := by
  unfold State.canCounters
  dsimp only
  have hb : ∀ x y : Bool, (x || y && !x) = (x || y) := by decide
  by_cases h1 : (96 ≤ tec ∧ (s.canPort n).txErr < 96) ∨ (96 ≤ rec' ∧ (s.canPort n).rxErr < 96)
  all_goals by_cases h2 : (s.canPort n).errState = 0 ∧ (127 < tec ∨ 127 < rec')
  all_goals by_cases h3 : (decide (255 < tec) && !(s.canPort n).busOff) = true
  all_goals
    first | rw [if_pos h1, if_pos h1] | rw [if_neg h1, if_neg h1]
    first | rw [if_pos h2, if_pos h2] | rw [if_neg h2, if_neg h2]
    first | rw [if_pos h3, if_pos h3] | rw [if_neg h3, if_neg h3]
    simp only [canCause_port _ h, upCanPort_port _ h, hb]

theorem canCounters_other (s : State) {n m : Nat} (h : m ≠ n) (tec rec' : Nat) : (s.canCounters n tec rec').canPort m = s.canPort m := by
  unfold State.canCounters
  dsimp only
  split <;> split <;> split <;> simp only [canCause_other _ h, upCanPort_other _ h]

end Sys2Proof.Machine
end

