-- ==== Sys2Proof/Laws/Frame.lean ====
section
/-! SUPPORT. Frames compose: what two commands or operations leave alone one after the other. -/

set_option Elab.async false
set_option linter.all false

namespace Sys2Proof.Machine

open Sys2Proof

/-- Every part of `a` is a part of `b`. -/
def Parts.le (a b : Parts) : Bool := (!a.clk || b.clk) && (!a.clu || b.clu) && (!a.tasks || b.tasks) && (!a.sto || b.sto) && (!a.ldr || b.ldr) && (!a.csw || b.csw) && (!a.fio || b.fio) && (!a.net || b.net) && (!a.can || b.can) && (!a.dict || b.dict) && (!a.host || b.host) && (!a.role || b.role) && (!a.wdg || b.wdg) && (!a.evr || b.evr) && (!a.trc || b.trc) && (!a.nvp || b.nvp) && (!a.fw || b.fw) && (!a.rtc || b.rtc) && (!a.pwr || b.pwr) && (!a.met || b.met) && (!a.free || b.free)

theorem Parts.le_false {x y : Bool} (h : (!x || y) = true) (e : y = false) : x = false := by
  subst e; simpa using h

/-- Two frames, one after the other. -/
theorem Frame.comp {L M N : Parts} {a b c : State} (h : Frame L a b) (g : Frame M b c) (hl : L.le N = true) (hm : M.le N = true) : Frame N a c := by
  unfold Parts.le at hl hm
  simp only [Bool.and_eq_true] at hl hm
  obtain ⟨⟨⟨⟨⟨⟨⟨⟨⟨⟨⟨⟨⟨⟨⟨⟨⟨⟨⟨⟨l0, l1⟩, l2⟩, l3⟩, l4⟩, l5⟩, l6⟩, l7⟩, l8⟩, l9⟩, l10⟩, l11⟩, l12⟩, l13⟩, l14⟩, l15⟩, l16⟩, l17⟩, l18⟩, l19⟩, l20⟩ := hl
  obtain ⟨⟨⟨⟨⟨⟨⟨⟨⟨⟨⟨⟨⟨⟨⟨⟨⟨⟨⟨⟨m0, m1⟩, m2⟩, m3⟩, m4⟩, m5⟩, m6⟩, m7⟩, m8⟩, m9⟩, m10⟩, m11⟩, m12⟩, m13⟩, m14⟩, m15⟩, m16⟩, m17⟩, m18⟩, m19⟩, m20⟩ := hm
  constructor
  · exact fun e => (g.clk (Parts.le_false m0 e)).trans (h.clk (Parts.le_false l0 e))
  · exact fun e => (g.clu (Parts.le_false m1 e)).trans (h.clu (Parts.le_false l1 e))
  · exact fun e => (g.tasks (Parts.le_false m2 e)).trans (h.tasks (Parts.le_false l2 e))
  · exact fun e => (g.sto (Parts.le_false m3 e)).trans (h.sto (Parts.le_false l3 e))
  · exact fun e => (g.ldr (Parts.le_false m4 e)).trans (h.ldr (Parts.le_false l4 e))
  · exact fun e => (g.csw (Parts.le_false m5 e)).trans (h.csw (Parts.le_false l5 e))
  · exact fun e => (g.fio (Parts.le_false m6 e)).trans (h.fio (Parts.le_false l6 e))
  · exact fun e => (g.net (Parts.le_false m7 e)).trans (h.net (Parts.le_false l7 e))
  · exact fun e => (g.can (Parts.le_false m8 e)).trans (h.can (Parts.le_false l8 e))
  · exact fun e => (g.dict (Parts.le_false m9 e)).trans (h.dict (Parts.le_false l9 e))
  · intro e
    have x := h.host (Parts.le_false l10 e)
    have y := g.host (Parts.le_false m10 e)
    rw [← x, ← y]
  · exact fun e => (g.role (Parts.le_false m11 e)).trans (h.role (Parts.le_false l11 e))
  · exact fun e => (g.wdg (Parts.le_false m12 e)).trans (h.wdg (Parts.le_false l12 e))
  · exact fun e => (g.evr (Parts.le_false m13 e)).trans (h.evr (Parts.le_false l13 e))
  · exact fun e => (g.trc (Parts.le_false m14 e)).trans (h.trc (Parts.le_false l14 e))
  · exact fun e => (g.nvp (Parts.le_false m15 e)).trans (h.nvp (Parts.le_false l15 e))
  · exact fun e => (g.fw (Parts.le_false m16 e)).trans (h.fw (Parts.le_false l16 e))
  · exact fun e => (g.rtc (Parts.le_false m17 e)).trans (h.rtc (Parts.le_false l17 e))
  · exact fun e => (g.pwr (Parts.le_false m18 e)).trans (h.pwr (Parts.le_false l18 e))
  · exact fun e => (g.met (Parts.le_false m19 e)).trans (h.met (Parts.le_false l19 e))
  · exact fun e => (g.free (Parts.le_false m20 e)).trans (h.free (Parts.le_false l20 e))
  · exact g.pending.trans h.pending

/-- The counting of edges after an operation stands outside every frame. -/
theorem Frame.countEdges {L : Parts} {s t : State} (h : Frame L s t) (a : State) : Frame L s (Machine.countEdges a t) :=
  h.comp ((Keep.refl (L := {}) t).countEdges a).frame (by cases L; simp [Parts.le]) (by cases L; simp [Parts.le])

end Sys2Proof.Machine
end

