-- ==== Sys2Proof/Laws/Roles.lean ====
section
/-! SUPPORT. What FAILED, fail-safe halt and a divergence leave (Machine/Roles.lean). -/

set_option Elab.async false
set_option linter.all false

namespace Sys2Proof.Machine

open Sys2Proof

variable (s : State)

/-- A unit that enters FAILED: the reason, its drivers off, its beats stopped, its lanes stopped if it was ACTIVE (07 R221, R222). -/
theorem enterFailed_left (r : Nat) : (s.enterFailed r).csw.role = .failed ∧ (s.enterFailed r).csw.failReason = r ∧ (s.enterFailed r).csw.driversOff = true ∧
    (s.enterFailed r).csw.redLost = false ∧ (s.enterFailed r).clk.running = false ∧ (s.enterFailed r).clu = (if s.csw.role = .active then s.stopLanes s.stopBeats.nowCyc else s).clu := by
  obtain ⟨u, hu⟩ : ∃ u : State, u = (s.stopBeats.transition .failed r 0).upCsw (fun c => { c with
    failReason := r, driversOff := true, redLost := false, takeoverPend := none, cmdState := if c.handBeat.isSome then 0 else c.cmdState, handBeat := none, handClosed := false }) := ⟨_, rfl⟩
  have ku : Keep { clk := true, net := true, evr := true, trc := true, csw := true, wdg := true } s u := by
    rw [hu]; exact (State.transition_keep (State.stopBeats_keep (Keep.refl s)) _ _ _).upCsw _
  have hs : s.stopBeats.clk.running = false := by
    unfold State.stopBeats
    split
    · rfl
    · next h => simpa using h
  have ht : (s.stopBeats.transition .failed r 0).clk = s.stopBeats.clk :=
    (State.transition_keep (L := { csw := true, net := true, wdg := true }) (Keep.refl s.stopBeats) _ _ _).frame.clk rfl
  have htr : (s.stopBeats.transition .failed r 0).csw.role = .failed := by
    unfold State.transition
    dsimp only
    split <;> rfl
  obtain ⟨v, hv⟩ : ∃ v : State, v = (if s.csw.role = .active then (u.stopLanes u.nowCyc).abandonOpen else u).canQuiet := ⟨_, rfl⟩
  have e : s.enterFailed r = v.sendBoth 0x03 0 (leBytes 1 r ++ zeros 7 ++ leBytes 8 v.ptpNow) := by
    rw [hv, hu]
    unfold State.enterFailed
    dsimp only
  have kv : Keep { net := true } v (s.enterFailed r) := by rw [e]; exact State.sendBoth_keep (Keep.refl v) _ _ _
  have kq : Keep { clu := true, sto := true, evr := true, can := true } u v := by
    rw [hv]; split
    · exact State.canQuiet_keep (State.abandonOpen_keep (State.stopLanes_keep (Keep.refl u) _))
    · exact State.canQuiet_keep (Keep.refl u)
  have hn : u.nowCyc = s.stopBeats.nowCyc := by
    rw [hu]
    unfold State.nowCyc State.boundaryCyc
    show _ = _
    simp only [State.upCsw_clk, ht]
    rfl
  rw [kv.frame.csw rfl, kv.frame.clk rfl, kv.frame.clu rfl, kq.frame.csw rfl, kq.frame.clk rfl]
  refine ⟨by rw [hu]; exact htr, by rw [hu]; rfl, by rw [hu]; rfl, by rw [hu]; rfl, ?_, ?_⟩
  · rw [hu]
    show (s.stopBeats.transition .failed r 0).clk.running = false
    rw [ht]; exact hs
  · rw [hv]
    have hc : u.clu = s.clu := by
      exact ku.frame.clu rfl
    split
    · show (u.stopLanes u.nowCyc).clu = _
      rw [hn]
      unfold State.stopLanes
      rw [State.upClu_clu, State.upClu_clu, hc]
    · exact hc

/-- Fail-safe halt: every task stops, the local outputs go to their safe states, the beats and the lanes stop (03 R114, 08 R256). -/
theorem failSafeHalt_left : s.failSafeHalt.sto.halted = true ∧ s.failSafeHalt.fio.haltSafe = true ∧ s.failSafeHalt.clk.running = false ∧
    s.failSafeHalt.clu = (s.stopLanes s.nowCyc).clu ∧ s.failSafeHalt.sto.isOpen = false := by
  obtain ⟨u, hu⟩ : ∃ u : State, u = ((s.stopLanes s.nowCyc).abandonOpen.canQuiet).stopBeats := ⟨_, rfl⟩
  obtain ⟨w, hw⟩ : ∃ w : State, w = (u.upSto (fun x => { x with halted := true })).upFio (fun f => { f with haltSafe := true }) := ⟨_, rfl⟩
  have e : s.failSafeHalt = w.exeCause 5 [] := by rw [hw, hu]; rfl
  have kw : Keep { host := true, evr := true } w s.failSafeHalt := by rw [e]; exact State.exeCause_keep (Keep.refl w) _ _
  have ku : Keep { clk := true, evr := true, trc := true } (s.stopLanes s.nowCyc).abandonOpen.canQuiet u := by
    rw [hu]; exact State.stopBeats_keep (Keep.refl _)
  have hs : ∀ z : State, z.stopBeats.clk.running = false := by
    intro z
    unfold State.stopBeats
    split
    · rfl
    · next h => simpa using h
  rw [kw.frame.sto rfl, kw.frame.fio rfl, kw.frame.clk rfl, kw.frame.clu rfl]
  refine ⟨by rw [hw]; rfl, by rw [hw]; rfl, ?_, ?_, ?_⟩
  · rw [hw]; show u.clk.running = false; rw [hu]; exact hs _
  · rw [hw]; show u.clu = _; rw [ku.frame.clu rfl]; rfl
  · rw [hw]; show u.sto.isOpen = false; rw [ku.frame.sto rfl]; rfl

/-- A divergence in SOLO or ACTIVE stops the lanes, keeps its report, and halts or fails the unit (03 R113 to R115). -/
theorem divergence_left (h : s.csw.role = .solo ∨ s.csw.role = .active) (hg : s.governs = true) (c car kind lead trail : Nat) :
    (s.divergence c car kind lead trail).clu.stopped = true ∧
    (s.divergence c car kind lead trail).clu.divRec = divergenceRecord s.sto.msCount (c % s.beatCycles) car kind lead trail ∧
    (s.divergence c car kind lead trail).clk.running = false ∧ (s.divergence c car kind lead trail).clu.single = s.clu.single ∧
    (s.csw.role = .solo → (s.divergence c car kind lead trail).sto.halted = true ∧ (s.divergence c car kind lead trail).fio.haltSafe = true) ∧
    (s.csw.role = .active → (s.divergence c car kind lead trail).csw.role = .failed ∧ (s.divergence c car kind lead trail).csw.failReason = 1) := by
  obtain ⟨u, hu⟩ : ∃ u : State, u = s.upClu (fun u => { u with divRec := divergenceRecord s.sto.msCount (c % s.beatCycles) car kind lead trail }) := ⟨_, rfl⟩
  obtain ⟨v, hv⟩ : ∃ v : State, v = (if u.replaying then u.endReplay 2 7 0xFF 0 0 0 else u) := ⟨_, rfl⟩
  have kv : Keep { clk := true, evr := true, trc := true } u v := by
    rw [hv]; split
    · exact State.endReplay_keep (Keep.refl u) _ _ _ _ _ _
    · exact Keep.refl u
  have hvg : v.governs = true := by
    have : v.governs = s.governs := by
      unfold State.governs
      rw [kv.frame.csw rfl, hu]
      rfl
    rw [this]; exact hg
  obtain ⟨w, hw⟩ : ∃ w : State, w = ((v.stopLanes c).abandonOpen).exeCause 0 [] := ⟨_, rfl⟩
  have e : s.divergence c car kind lead trail = w.giveUp := by
    rw [hw]
    unfold State.divergence
    dsimp only
    rw [← hu, ← hv, if_pos hvg]
  have hwc : w.clu = (v.stopLanes c).clu := by
    rw [hw]
    exact (State.exeCause_keep (L := { host := true, evr := true }) (Keep.refl (v.stopLanes c).abandonOpen) 0 []).frame.clu rfl
  have hwr : w.csw.role = s.csw.role := by
    have : w.csw = v.csw := by
      rw [hw]
      exact (State.exeCause_keep (L := { clu := true, sto := true, host := true, evr := true }) (State.abandonOpen_keep (State.stopLanes_keep (Keep.refl v) c)) 0 []).frame.csw rfl
    rw [this, kv.frame.csw rfl, hu]; rfl
  have hst : ∀ z : State, (z.stopLanes c).clu.stopped = true ∧ (z.stopLanes c).clu.divRec = z.clu.divRec ∧ (z.stopLanes c).clu.single = z.clu.single := by
    intro z
    unfold State.stopLanes
    rw [State.upClu_clu]
    split
    · next hz => exact ⟨hz, rfl, rfl⟩
    · exact ⟨rfl, rfl, rfl⟩
  have hst2 : ∀ (z : State) (d : Nat), z.clu.stopped = true → (z.stopLanes d).clu = z.clu := by
    intro z d hz
    unfold State.stopLanes
    rw [State.upClu_clu, if_pos hz]
  have hws : w.clu.stopped = true := by rw [hwc]; exact (hst v).1
  have hwd : w.clu.divRec = divergenceRecord s.sto.msCount (c % s.beatCycles) car kind lead trail := by
    rw [hwc, (hst v).2.1, kv.frame.clu rfl, hu]; rfl
  have hwsg : w.clu.single = s.clu.single := by
    rw [hwc, (hst v).2.2, kv.frame.clu rfl, hu]; rfl
  rw [e]
  unfold State.giveUp
  rw [hwr]
  rcases h with h | h <;> rw [h] <;> dsimp only
  · obtain ⟨a1, a2, a3, a4, -⟩ := failSafeHalt_left w
    refine ⟨?_, ?_, a3, by rw [a4, hst2 _ _ hws]; exact hwsg, fun _ => ⟨a1, a2⟩, fun q => by cases q⟩
    · rw [a4, hst2 _ _ hws]; exact hws
    · rw [a4, hst2 _ _ hws]; exact hwd
  · obtain ⟨a1, a2, -, -, a5, a6⟩ := enterFailed_left w 1
    have ha : w.csw.role = .active := by rw [hwr, h]
    refine ⟨?_, ?_, a5, by rw [a6, if_pos ha, hst2 _ _ hws]; exact hwsg, fun q => (by cases q), fun _ => ⟨a1, a2⟩⟩
    · rw [a6, if_pos ha, hst2 _ _ hws]; exact hws
    · rw [a6, if_pos ha, hst2 _ _ hws]; exact hwd

/-- The open half is given up: of the stores only the halves change (07 R221). -/
theorem abandonOpen_sto : ∃ a b, s.abandonOpen.sto = { s.sto with half0 := a, half1 := b, isOpen := false } := by
  unfold State.abandonOpen State.upOpen
  dsimp only [State.upSto_sto, State.upEvr_sto]
  by_cases h : s.sto.openHalf = 0
  · simp only [h, if_true]; exact ⟨_, _, rfl⟩
  · simp only [h, if_false]; exact ⟨_, _, rfl⟩

/-- Of the stores a unit that enters FAILED changes only the halves (07 R221, R222). -/
theorem enterFailed_sto (r : Nat) : ∃ a b o, (s.enterFailed r).sto = { s.sto with half0 := a, half1 := b, isOpen := o } := by
  obtain ⟨u, hu⟩ : ∃ u : State, u = (s.stopBeats.transition .failed r 0).upCsw (fun c => { c with
    failReason := r, driversOff := true, redLost := false, takeoverPend := none, cmdState := if c.handBeat.isSome then 0 else c.cmdState, handBeat := none, handClosed := false }) := ⟨_, rfl⟩
  have ku : Keep { clk := true, net := true, evr := true, trc := true, csw := true, wdg := true } s u := by
    rw [hu]; exact (State.transition_keep (State.stopBeats_keep (Keep.refl s)) _ _ _).upCsw _
  have hs : u.sto = s.sto := ku.frame.sto rfl
  have e : (s.enterFailed r).sto = (if s.csw.role = .active then (u.stopLanes u.nowCyc).abandonOpen else u).sto := by
    rw [hu]
    unfold State.enterFailed
    dsimp only
    rw [(State.sendBoth_keep (L := { net := true }) (Keep.refl _) _ _ _).frame.sto rfl]
    rfl
  rw [e]
  split
  · obtain ⟨a, b, h⟩ := abandonOpen_sto (u.stopLanes u.nowCyc)
    rw [h]
    have : (u.stopLanes u.nowCyc).sto = s.sto := hs
    rw [this]; exact ⟨a, b, false, rfl⟩
  · rw [hs]; exact ⟨s.sto.half0, s.sto.half1, s.sto.isOpen, rfl⟩

/-- Of the stores a fail-safe halt changes only the halves and its own mark (03 R114). -/
theorem failSafeHalt_sto : ∃ a b, s.failSafeHalt.sto = { s.sto with half0 := a, half1 := b, isOpen := false, halted := true } := by
  obtain ⟨a, b, h⟩ := abandonOpen_sto (s.stopLanes s.nowCyc)
  have e : s.failSafeHalt.sto = { (s.stopLanes s.nowCyc).abandonOpen.sto with halted := true } := by
    unfold State.failSafeHalt
    simp only [State.exeCause_sto, State.upFio_sto, State.upSto_sto]
    rw [(State.stopBeats_keep (L := { clk := true, evr := true, trc := true }) (Keep.refl _)).frame.sto rfl]
    rfl
  rw [e, h]
  exact ⟨a, b, rfl⟩

/-- A transition of the role: its record, the departure from ACTIVE, and the drill report of a unit that becomes ACTIVE (07 R231, R241). -/
theorem transition_csw (new : RoleState) (reason gap : Nat) : (s.transition new reason gap).csw = { s.csw with role := new, claimOn := false, sinceActive := if s.csw.role = .active ∧ new ≠ .active then s.otMs else s.csw.sinceActive, drillLast := if new = .active then none else s.csw.drillLast, lastTrans := leBytes 8 s.sto.msCount ++ leBytes 1 s.csw.role.code ++ leBytes 1 new.code ++ leBytes 1 reason ++ zeros 1 ++ leBytes 4 gap } := by
  have key : ∀ x : State, (if x.governs then x else (x.upNet (fun n => { n with txq := [], unacked := [] })).disarmTasks (fun _ => true)).csw = x.csw := by intro x; split <;> rfl
  exact key _

/-- The redundancy subsystem of a unit that enters FAILED (07 R221, R222). -/
theorem enterFailed_csw (r : Nat) : ∃ a b, (s.enterFailed r).csw = { s.csw with role := .failed, claimOn := false, drillLast := s.csw.drillLast, sinceActive := a, lastTrans := b, failReason := r, driversOff := true, redLost := false, takeoverPend := none, cmdState := if s.csw.handBeat.isSome then 0 else s.csw.cmdState, handBeat := none, handClosed := false } := by
  have h := transition_csw s.stopBeats .failed r 0
  have hs : s.stopBeats.csw = s.csw := (State.stopBeats_keep (L := { clk := true, evr := true, trc := true }) (Keep.refl s)).frame.csw rfl
  refine ⟨(s.stopBeats.transition .failed r 0).csw.sinceActive, (s.stopBeats.transition .failed r 0).csw.lastTrans, ?_⟩
  unfold State.enterFailed
  dsimp only
  rw [(State.sendBoth_keep (L := { net := true }) (Keep.refl _) _ _ _).frame.csw rfl]
  rw [(State.canQuiet_keep (L := { can := true }) (Keep.refl _)).frame.csw rfl]
  split
  · rw [(State.abandonOpen_keep (L := { sto := true, evr := true }) (Keep.refl _)).frame.csw rfl, (State.stopLanes_keep (L := { clu := true }) (Keep.refl _) _).frame.csw rfl, State.upCsw_csw, h, hs]
    rfl
  · rw [State.upCsw_csw, h, hs]; try rfl

end Sys2Proof.Machine
end

