-- ==== Sys2Proof/Laws/Causeway.lean ====
section
/-! SUPPORT. What a received causeway frame and the loss of the partner leave (Machine/Causeway.lean, Machine/Stream.lean). -/

set_option Elab.async false
set_option linter.all false

namespace Sys2Proof.Machine

open Sys2Proof

variable (s : State)

/-- A frame that does not have its form, or comes from another node and is no NEGOTIATE, is discarded (07 R201, R210, R212). -/
theorem cwArrives_discard {s : State} {f : List Byte} (hd : s.csw.dark = false) (h : cwFormOk f = false ∨ cwNode f ≠ s.partnerNode ∧ cwType f ≠ 6) (lane t : Nat) {env : CwIn} (he : env.ecc = []) :
    s.cwArrives lane t f env = (s.reach t).cwDiscard := by
  unfold State.cwArrives
  dsimp only
  rw [show (s.reach t).csw.dark = s.csw.dark from rfl, hd, if_neg (by simp), he]
  cases hf : cwFormOk f
  · rw [if_pos (by simp)]; rfl
  · rcases h with h | ⟨h, h'⟩
    · rw [hf] at h; cases h
    · rw [if_neg (by simp), if_pos (show cwNode f ≠ (s.reach t).partnerNode from h), if_neg h']; rfl

/-- A frame with a group that the code cannot correct is discarded (01 R17, 07 R212). -/
theorem cwArrives_hard {s : State} (hd : s.csw.dark = false) (lane t : Nat) (f : List Byte) {env : CwIn} (he : env.ecc.any (·.hard) = true) :
    s.cwArrives lane t f env = ((s.reach t).cwErrors env.ecc).cwDiscard := by
  unfold State.cwArrives
  dsimp only
  rw [show (s.reach t).csw.dark = s.csw.dark from rfl, hd, if_neg (by simp), he, Bool.true_or, if_pos rfl]

/-- A frame of the partner, whose role stands, goes to the meaning of its type (07 R211, R221). -/
theorem cwArrives_known {s : State} {f : List Byte} (hd : s.csw.dark = false) (hf : cwFormOk f = true) (hn : cwNode f = s.partnerNode) (hs : s.csw.partnerSeen = true) (hl : s.csw.hbLost = false)
    (hr : s.csw.partnerRole = cwRole f) (lane t : Nat) {env : CwIn} (he : env.ecc = []) {u : State}
    (hu : u = (s.reach t).upCsw (fun c => { c with laneUp := vset c.laneUp lane true, partnerSeen := true, seenAt := c.seenAt.max (s.reach t).clk.now, partnerTerm := cwTerm f, partnerRole := cwRole f })) :
    s.cwArrives lane t f env =
      if cwType f = 1 then u.heartbeatIn lane t (cwRole f) (cwPay f) env
      else if cwType f = 2 then u.streamFrame t f env
      else if cwType f = 3 then u.failFrame (cwPay f)
      else if cwType f = 4 then u.upCsw (fun c => { c with kind := byteAt f 16, handBeat := if u.csw.role = .standby then some (getLE f 24 8) else c.handBeat })
      else if cwType f = 5 then (if u.csw.role = .standby then (u.upCsw (fun c => { c with goPend := some (getLE f 16 8, getLE f 24 8) })).goHandover t else u)
      else u.negotiate f := by
  unfold State.cwArrives
  dsimp only
  rw [show (s.reach t).csw = s.csw from rfl, hd, if_neg (by simp), hf, he, if_neg (by simp), if_neg (by rw [show (s.reach t).partnerNode = s.partnerNode from rfl]; simp [hn]), show ∀ z : State, z.cwErrors [] = z from fun _ => rfl, show (s.reach t).csw = s.csw from rfl, hs, hl, hr]
  have hp : ∀ x : State, x.partnerRoleSeen (if (true && !false) = true then cwRole f else 5) (cwRole f) = x := by
    intro x; unfold State.partnerRoleSeen; rw [if_pos (by rfl)]
  rw [hp, ← hu]

/-- The ACTIVE unit that has lost its partner (07 R221). -/
theorem losePartner_csw : s.losePartner.csw = { s.csw with sendMs := [], sending := none, redLost := true, lagList := [], lag := 0, cmdState := if s.csw.handBeat.isSome then 0 else s.csw.cmdState, handBeat := none, handClosed := false } := by
  unfold State.losePartner
  rw [(State.reportBatches_keep (L := { sto := true, net := true, can := true, dict := true, evr := true }) (Keep.refl _)).frame.csw rfl]
  rfl

/-- A STANDBY that falls back synchronises from the start (07 R221, R220). -/
theorem fallBack_csw {s : State} (h : s.csw.role = .standby) : s.fallBack.csw.role = .syncing ∧ s.fallBack.csw.ackPos = 0 ∧ s.fallBack.csw.storeComplete = false ∧
    s.fallBack.csw.rx = [] ∧ s.fallBack.csw.rxMs = none ∧ s.fallBack.csw.cause.getLsbD 5 = true ∧ s.fallBack.csw.laneUp = s.csw.laneUp ∧ s.fallBack.csw.hbLost = s.csw.hbLost ∧
    s.fallBack.csw.hbAt = s.csw.hbAt ∧ (∀ i, i < 32 → s.csw.cause.getLsbD i = true → s.fallBack.csw.cause.getLsbD i = true) := by
  have e : s.fallBack = s.toSyncing.cswCause 5 := by unfold State.fallBack; rw [h]
  have ht : ∀ u : State, (u.transition .syncing 0 0).csw = { u.csw with role := .syncing, claimOn := false, sinceActive := (u.transition .syncing 0 0).csw.sinceActive, drillLast := u.csw.drillLast, lastTrans := (u.transition .syncing 0 0).csw.lastTrans } := by
    intro u
    unfold State.transition
    dsimp only
    split <;> rfl
  have e2 : s.toSyncing.csw = { s.csw with role := .syncing, claimOn := false, sinceActive := (s.transition .syncing 0 0).csw.sinceActive, lastTrans := (s.transition .syncing 0 0).csw.lastTrans, redLost := false, ackPos := 0, rx := [], rxMs := none, lastMs := none, bulkOff := 0, bulkEnd := false, bulkPct := 0, storeComplete := false, launchPend := [], goPend := none } := by
    unfold State.toSyncing State.restartSync
    simp only [State.upLdr_csw, State.upCsw_csw]
    rw [ht]
  rw [e, State.cswCause_csw, e2]
  refine ⟨rfl, rfl, rfl, rfl, rfl, ?_, rfl, rfl, rfl, fun i hi hc => ?_⟩
  · show (setBit s.csw.cause 5 true).getLsbD 5 = true
    rw [setBit_getLsbD _ _ _ _ (by omega)]; rfl
  · show (setBit s.csw.cause 5 true).getLsbD i = true
    rw [setBit_getLsbD _ _ _ _ hi]; split
    · rfl
    · exact hc

/-- A unit that becomes ACTIVE or SOLO with a new term, one above the highest it knows; with none left it enters FAILED with reason 5 (07 R203, R205). -/
theorem govern_csw (r : RoleState) (reason gap : Nat) :
    (s.highTerm < 0xFFFF → ∃ cs sa lt dl, (s.govern r reason gap).csw = { s.csw with role := r, claimOn := false, term := s.highTerm + 1, termConfirmed := false, cause := cs, sinceActive := sa, lastTrans := lt, drillLast := dl } ∧ (∀ i, i < 32 → s.csw.cause.getLsbD i = true → cs.getLsbD i = true)) ∧
    (0xFFFF ≤ s.highTerm → (s.govern r reason gap).csw.role = .failed ∧ (s.govern r reason gap).csw.failReason = 5) := by
  refine ⟨fun h => ?_, fun h => ?_⟩
  · obtain ⟨u, hu⟩ : ∃ u, u = (if 0xFF00 ≤ s.highTerm + 1 then (s.upCsw (fun c => { c with term := s.highTerm + 1, termConfirmed := false })).cswCause 12 else s.upCsw (fun c => { c with term := s.highTerm + 1, termConfirmed := false })) := ⟨_, rfl⟩
    have ht : s.takeTerm = some u := by
      unfold State.takeTerm
      dsimp only
      rw [if_neg (by omega), hu]
    have e : s.govern r reason gap = (u.transition r reason gap).termClaim s.csw.term := by unfold State.govern; rw [ht]
    have hc : ∃ cs, u.csw = { s.csw with term := s.highTerm + 1, termConfirmed := false, cause := cs } ∧ (∀ i, i < 32 → s.csw.cause.getLsbD i = true → cs.getLsbD i = true) := by
      rw [hu]
      split
      · rw [State.cswCause_csw]
        refine ⟨_, rfl, fun i hi hb => ?_⟩
        rw [setBit_getLsbD _ _ _ _ hi]
        split
        · rfl
        · exact hb
      · exact ⟨s.csw.cause, rfl, fun _ _ hb => hb⟩
    obtain ⟨cs, hc, hb⟩ := hc
    rw [e, (State.termClaim_keep (L := { net := true, evr := true }) (Keep.refl _) _).frame.csw rfl, transition_csw, hc]
    exact ⟨cs, _, _, _, rfl, hb⟩
  · have ht : s.takeTerm = none := by
      unfold State.takeTerm
      dsimp only
      rw [if_pos (by omega)]
    have e : s.govern r reason gap = (s.cswCause 12).enterFailed 5 := by unfold State.govern; rw [ht]
    obtain ⟨q1, q2, -⟩ := enterFailed_left (s.cswCause 12) 5
    rw [e]; exact ⟨q1, q2⟩

/-- The end of a start-up leaves the role: of the redundancy subsystem it can only switch the drivers on (19 R518, R520). -/
theorem finishStart_csw : ∃ b, s.finishStart.csw = { s.csw with driversOff := b } := by
  unfold State.finishStart
  split
  · exact ⟨s.csw.driversOff, (State.stopStart_keep (L := { sto := true, host := true, evr := true, pwr := true }) (Keep.refl s) _ _ _).frame.csw rfl⟩
  · dsimp only
    have hf : s.firstState.csw = s.csw := (State.firstState_keep (L := { sto := true, host := true, evr := true, pwr := true }) (Keep.refl s)).frame.csw rfl
    rw [State.upPwr_csw, (State.startReport_keep (L := { pwr := true }) (Keep.refl _) _ _ _).frame.csw rfl, (State.armServices_keep (L := { wdg := true }) (Keep.refl _) _).frame.csw rfl]
    split
    · rw [(State.outputRelease_keep (L := { fio := true, evr := true }) (Keep.refl _)).frame.csw rfl, State.upCsw_csw, hf]; exact ⟨false, rfl⟩
    · exact ⟨s.csw.driversOff, hf⟩

/-- The negotiation won (07 R209, R210). -/
theorem winNegotiation_csw (lost confirm : Bool) :
    (s.highTerm < 0xFFFF → (s.winNegotiation lost confirm).csw.role = .active ∧ (s.winNegotiation lost confirm).csw.term = s.highTerm + 1 ∧ (s.winNegotiation lost confirm).csw.redLost = lost ∧
      (s.winNegotiation lost confirm).csw.termNeedsConfirm = confirm ∧ (s.winNegotiation lost confirm).csw.storeComplete = true) ∧
    (0xFFFF ≤ s.highTerm → (s.winNegotiation lost confirm).csw.role = .failed ∧ (s.winNegotiation lost confirm).csw.failReason = 5) := by
  obtain ⟨g1, g2⟩ := govern_csw s .active 0 0
  unfold State.winNegotiation
  refine ⟨fun h => ?_, fun h => ?_⟩
  · obtain ⟨cs, sa, lt, dl, hc, -⟩ := g1 h
    obtain ⟨b, hb⟩ := finishStart_csw ((s.govern .active 0 0).upCsw (fun c => { c with redLost := lost && decide (c.role = .active), termNeedsConfirm := confirm, storeComplete := c.storeComplete || decide (c.role = .active) }))
    rw [hb, State.upCsw_csw, hc]
    simp
  · obtain ⟨h1, h2⟩ := g2 h
    obtain ⟨b, hb⟩ := finishStart_csw ((s.govern .active 0 0).upCsw (fun c => { c with redLost := lost && decide (c.role = .active), termNeedsConfirm := confirm, storeComplete := c.storeComplete || decide (c.role = .active) }))
    rw [hb, State.upCsw_csw]
    exact ⟨h1, h2⟩

/-- A unit that becomes SYNCING synchronises from the start (07 R219 to R221). -/
theorem toSyncing_csw : s.toSyncing.csw = { s.csw with role := .syncing, claimOn := false, sinceActive := if s.csw.role = .active then s.otMs else s.csw.sinceActive, lastTrans := (s.transition .syncing 0 0).csw.lastTrans, redLost := false, ackPos := 0, rx := [], rxMs := none, lastMs := none, bulkOff := 0, bulkEnd := false, bulkPct := 0, storeComplete := false, launchPend := [], goPend := none } := by
  unfold State.toSyncing State.restartSync
  simp only [State.upLdr_csw, State.upCsw_csw]
  rw [transition_csw]
  simp

/-- The negotiation lost: SYNCING (07 R209, R210). -/
theorem loseNegotiation_csw : s.loseNegotiation.csw.role = .syncing ∧ s.loseNegotiation.csw.ackPos = 0 ∧ s.loseNegotiation.csw.storeComplete = false ∧ s.loseNegotiation.csw.term = s.csw.term ∧
    s.loseNegotiation.csw.claim = s.csw.claim ∧ s.loseNegotiation.csw.cwaSeenClaim = s.csw.cwaSeenClaim := by
  obtain ⟨b, hb⟩ := finishStart_csw s.toSyncing
  unfold State.loseNegotiation
  rw [hb, toSyncing_csw]
  exact ⟨rfl, rfl, rfl, rfl, rfl, rfl⟩

/-- Frames of the stream only leave, and take the lanes in turn (07 R214). -/
theorem streamFrames_net : ∀ (n : Nat) (first : Bool) (pos : Nat) (b : List Byte) (s : State), ∃ l k, s.streamFrames n first pos b = (s.upNet (fun x => { x with sent := l ++ x.sent })).upCsw (fun c => { c with cwLane := k })
  | 0, _, _, _, s => ⟨[], s.csw.cwLane, rfl⟩
  | n + 1, first, pos, b, s => by
    unfold State.streamFrames
    split
    · exact ⟨[], s.csw.cwLane, rfl⟩
    · dsimp only
      obtain ⟨x, hx⟩ : ∃ x, x = Sent.cw s.streamLane (s.cwFrame 0x02 (s.streamLane + 2 * bit first + 4 * bit (b.drop 4096).isEmpty) pos (b.take 4096)) := ⟨_, rfl⟩
      rw [← hx]
      obtain ⟨l, k, h⟩ := streamFrames_net n false (pos + 4096) (b.drop 4096) ((s.send x).upCsw (fun c => { c with cwLane := 1 - s.streamLane }))
      rw [h]
      exact ⟨l ++ [x], k, by
        simp only [List.append_assoc, List.singleton_append]
        rfl⟩

/-- A block that fits one frame leaves in one, on the lane whose turn it is (07 R211, R214). -/
theorem streamFrames_one {b : List Byte} (h : b ≠ []) (hl : b.length ≤ 4096) (pos n : Nat) :
    s.streamFrames (n + 1) true pos b = (s.send (.cw s.streamLane (s.cwFrame 0x02 (s.streamLane + 6) pos b))).upCsw (fun c => { c with cwLane := 1 - s.streamLane }) := by
  unfold State.streamFrames
  have h1 : b.isEmpty = false := by cases b <;> simp at h ⊢
  have h2 : b.drop 4096 = [] := List.drop_eq_nil_of_le hl
  have h3 : b.take 4096 = b := List.take_of_length_le hl
  rw [h1, if_neg (by simp)]
  dsimp only
  rw [h2, h3]
  have : ∀ (z : State) m i p, z.streamFrames m i p [] = z := by
    intro z m i p; cases m <;> rfl
  rw [this]
  rfl

/-- A block that enters the stream advances the position by its length and stays in the resend buffer (07 R214, R216). -/
theorem streamOut_eq (b : List Byte) : ∃ l k q, s.streamOut b = (s.upNet (fun x => { x with sent := l ++ x.sent })).upCsw (fun c => { c with cwLane := k, pos := c.pos + b.length, stream := (c.stream ++ b).drop ((c.stream ++ b).length - resendMax), blocks := q }) := by
  obtain ⟨l, k, h⟩ := streamFrames_net (b.length / 4096 + 1) true s.csw.pos b s
  refine ⟨l, k, (s.csw.blocks ++ [(s.csw.pos, b.length)]).filter (fun x => decide (s.csw.pos + b.length - resendMax < x.1 + x.2)), ?_⟩
  unfold State.streamOut
  obtain ⟨z, hz⟩ : ∃ z, z = s.streamFrames (b.length / 4096 + 1) true s.csw.pos b := ⟨_, rfl⟩
  rw [← hz] at h ⊢
  subst h
  obtain ⟨m, hm⟩ : ∃ m, m = resendMax := ⟨_, rfl⟩
  rw [← hm]
  clear hm hz
  rfl

/-- What a milestone's task words bring about in the stores: launched values only (02 R54, 07 R525). -/
theorem applyWords_sto (m : Milestone) (keep : Bool) : ∃ l, (s.applyWords m keep).sto = { s.sto with launched := l } := by
  have hf : ∀ (l : List Nat) (z : State), (l.foldl (fun (acc : State) t =>
      let w := m.words[t]?.getD 0
      let o := acc.outsOf t acc.sto.lmem
      let acc := acc.upTask t (fun x => x.ofWord w m.closeBeat o)
      if keep && w.testBit 32 then
        let l := m.closeBeat + (if w.testBit 33 then field w 63 40 else 0)
        acc.upCsw (fun c => { c with launchPend := c.launchPend ++ [(l, (t, o))] })
      else acc) z).sto = z.sto := by
    intro l
    induction l with
    | nil => exact fun _ => rfl
    | cons i l ih =>
      intro z
      rw [List.foldl_cons, ih]
      dsimp only
      split <;> rfl
  have ht : ∀ (l : List (Nat × (Nat × Ov))) (z : State), ∃ x, (l.foldl (fun acc x => acc.takeLaunched x.2.2) z).sto = { z.sto with launched := x } := by
    intro l
    induction l with
    | nil => exact fun z => ⟨z.sto.launched, rfl⟩
    | cons i l ih =>
      intro z
      rw [List.foldl_cons]
      obtain ⟨x, hx⟩ := ih (z.takeLaunched i.2.2)
      rw [hx]
      unfold State.takeLaunched
      split
      · exact ⟨x, rfl⟩
      · exact ⟨x, rfl⟩
  unfold State.applyWords
  dsimp only
  have hk : ∀ z : State, z.sto = s.sto → ∃ l, (if keep = true then z.takeDue else z).sto = { s.sto with launched := l } := by
    intro z hz
    split
    · unfold State.takeDue
      dsimp only
      obtain ⟨x, hx⟩ := ht (sortBy (·.1) (z.csw.launchPend.filter (fun x => decide (x.1 ≤ z.clk.beat)))) (z.upCsw (fun c => { c with launchPend := c.launchPend.filter (fun x => decide (z.clk.beat < x.1)) }))
      rw [hx, State.upCsw_sto, hz]
      exact ⟨x, rfl⟩
    · exact ⟨s.sto.launched, hz⟩
  exact hk _ (hf _ s)

/-- An applied milestone: its entries enter the live memory, it joins the journal and its number is the count (07 R215). -/
theorem applyMs_sto (m : Milestone) : ∃ l, (s.applyMs m).sto = { s.sto with lmem := m.net.apply s.sto.lmem, journal := s.sto.journal ++ [m], msCount := m.num, applied := m.edits.foldl (fun l b => putApplied b.client b.id l) s.sto.applied, launched := l } := by
  obtain ⟨u, hu⟩ : ∃ u, u = s.upSto (fun x => { x with lmem := m.net.apply x.lmem, journal := x.journal ++ [m], msCount := m.num, applied := m.edits.foldl (fun l b => putApplied b.client b.id l) x.applied }) := ⟨_, rfl⟩
  have hc : (u.convertApplied m.net).sto = u.sto := by unfold State.convertApplied; split <;> rfl
  obtain ⟨l, hl⟩ := applyWords_sto (u.convertApplied m.net) m (decide (s.csw.role = .standby) || (decide (s.csw.role = .syncing) && s.csw.bulkEnd))
  refine ⟨l, ?_⟩
  have e : (s.applyMs m).sto = ((u.convertApplied m.net).applyWords m (decide (s.csw.role = .standby) || (decide (s.csw.role = .syncing) && s.csw.bulkEnd))).sto := by
    rw [hu]
    unfold State.applyMs
    dsimp only
    rw [State.upSto_csw]
    split
    · rw [State.cswCause_sto, State.upCsw_sto, (State.transition_keep (L := { csw := true, net := true, wdg := true }) (Keep.refl _) _ _ _).frame.sto rfl, State.upNet_sto, State.upCsw_sto]
    · rfl
  rw [e, hl, hc, hu]
  rfl

/-- What a milestone's task words bring about in the redundancy subsystem: the takes that wait (07 R525). -/
theorem applyWords_csw (m : Milestone) (keep : Bool) : ∃ l, (s.applyWords m keep).csw = { s.csw with launchPend := l } := by
  have hf : ∀ (l : List Nat) (z : State), ∃ x, (l.foldl (fun (acc : State) t =>
      let w := m.words[t]?.getD 0
      let o := acc.outsOf t acc.sto.lmem
      let acc := acc.upTask t (fun x => x.ofWord w m.closeBeat o)
      if keep && w.testBit 32 then
        let l := m.closeBeat + (if w.testBit 33 then field w 63 40 else 0)
        acc.upCsw (fun c => { c with launchPend := c.launchPend ++ [(l, (t, o))] })
      else acc) z).csw = { z.csw with launchPend := x } := by
    intro l
    induction l with
    | nil => exact fun z => ⟨z.csw.launchPend, rfl⟩
    | cons i l ih =>
      intro z
      rw [List.foldl_cons]
      obtain ⟨x, hx⟩ := ih (
        let w := m.words[i]?.getD 0
        let o := z.outsOf i z.sto.lmem
        let acc := z.upTask i (fun x => x.ofWord w m.closeBeat o)
        if keep && w.testBit 32 then
          let l := m.closeBeat + (if w.testBit 33 then field w 63 40 else 0)
          acc.upCsw (fun c => { c with launchPend := c.launchPend ++ [(l, (i, o))] })
        else acc)
      refine ⟨x, hx.trans ?_⟩
      dsimp only
      split <;> rfl
  have ht : ∀ (l : List (Nat × (Nat × Ov))) (z : State), (l.foldl (fun acc x => acc.takeLaunched x.2.2) z).csw = z.csw := by
    intro l
    induction l with
    | nil => exact fun _ => rfl
    | cons i l ih =>
      intro z
      rw [List.foldl_cons, ih]
      unfold State.takeLaunched
      split <;> rfl
  unfold State.applyWords
  dsimp only
  have hk : ∀ z : State, (∃ x, z.csw = { s.csw with launchPend := x }) → ∃ l, (if keep = true then z.takeDue else z).csw = { s.csw with launchPend := l } := by
    rintro z ⟨x, hz⟩
    split
    · unfold State.takeDue
      dsimp only
      rw [ht, State.upCsw_csw, hz]
      exact ⟨_, rfl⟩
    · exact ⟨x, hz⟩
  exact hk _ (hf _ s)

/-- The redundancy subsystem of a STANDBY that applied a milestone (07 R215). -/
theorem applyMs_csw {s : State} (h : s.csw.role = .standby) (m : Milestone) : ∃ l, (s.applyMs m).csw = { s.csw with lastMs := some m, launchPend := l } := by
  obtain ⟨u, hu⟩ : ∃ u, u = (s.upSto (fun x => { x with lmem := m.net.apply x.lmem, journal := x.journal ++ [m], msCount := m.num, applied := m.edits.foldl (fun l b => putApplied b.client b.id l) x.applied })).convertApplied m.net := ⟨_, rfl⟩
  have hc : u.csw = s.csw := by rw [hu]; unfold State.convertApplied; split <;> rfl
  obtain ⟨l, hl⟩ := applyWords_csw u m true
  refine ⟨l, ?_⟩
  unfold State.applyMs
  dsimp only
  rw [State.upSto_csw, h, ← hu]
  rw [if_neg (by simp), State.upNet_csw, State.upCsw_csw]
  simp only [decide_true, Bool.true_or]
  rw [hl, hc]
  simp [h]

/-- No complete record stands among received bytes fewer than a record's header. -/
theorem parseStream_short {s : State} (table : List (Nat × Nat)) (h : s.csw.rx.length < 16 ∨ s.csw.rx.length < 16 + 16 * getLE s.csw.rx 4 4) : ∀ n, s.parseStream table n = s
  | 0 => rfl
  | n + 1 => by
    unfold State.parseStream
    dsimp only
    rw [if_pos h]

/-- One complete record and nothing after it. -/
theorem parseStream_one {s u : State} {table : List (Nat × Nat)} (h1 : 16 ≤ s.csw.rx.length) (h2 : s.csw.rx.length = 16 + 16 * getLE s.csw.rx 4 4)
    (hu : u = (s.upCsw (fun c => { c with rx := [] })).streamRecv table (byteAt s.csw.rx 0) (getLE s.csw.rx 8 8) (s.csw.rx.drop 16)) (h3 : u.csw.rx = []) (n : Nat) : s.parseStream table (n + 1) = u := by
  unfold State.parseStream
  dsimp only
  rw [if_neg (by omega)]
  have e1 : s.csw.rx.drop (16 + 16 * getLE s.csw.rx 4 4) = [] := List.drop_eq_nil_of_le (by omega)
  have e2 : slice s.csw.rx 16 (16 + 16 * getLE s.csw.rx 4 4 - 16) = s.csw.rx.drop 16 := by
    unfold slice
    exact List.take_of_length_le (by simp; omega)
  have e3 : s.upCsw (fun c => { c with rx := c.rx.drop (16 + 16 * getLE s.csw.rx 4 4) }) = s.upCsw (fun c => { c with rx := [] }) := by
    unfold State.upCsw; dsimp only; rw [e1]
  rw [e2, e3, ← hu]
  exact parseStream_short table (by rw [h3]; simp) n

/-- Becoming ACTIVE or SOLO touches, with a term left, only the redundancy subsystem, the waymarks, the frames sent and the recorder (07 R203). -/
theorem govern_frame {s : State} (h : s.highTerm < 0xFFFF) (r : RoleState) (reason gap : Nat) : Frame { csw := true, wdg := true, net := true, evr := true } s (s.govern r reason gap) := by
  have ht : ∃ u, s.takeTerm = some u ∧ Keep { csw := true, wdg := true, net := true, evr := true } s u := by
    unfold State.takeTerm
    dsimp only
    rw [if_neg (by omega)]
    refine ⟨_, rfl, ?_⟩
    split
    · exact State.cswCause_keep (Keep.upCsw (Keep.refl s) _) _
    · exact Keep.upCsw (Keep.refl s) _
  obtain ⟨u, hu, k⟩ := ht
  have e : s.govern r reason gap = (u.transition r reason gap).termClaim s.csw.term := by unfold State.govern; rw [hu]
  rw [e]
  exact (State.termClaim_keep (State.transition_keep k _ _ _) _).frame

/-- The re-executed runs are queued; no lane changes (07 R225). -/
theorem reexecuteAll_lanes : s.reexecuteAll.clu.lanes = s.clu.lanes ∧ s.reexecuteAll.clu.stopped = s.clu.stopped := by
  unfold State.reexecuteAll
  dsimp only
  generalize (sortBy TaskRow.order s.rows).filter s.reexecutes = l
  revert s
  induction l with
  | nil => exact fun _ => ⟨rfl, rfl⟩
  | cons r l ih =>
    intro s
    rw [List.foldl_cons]
    obtain ⟨h1, h2⟩ := ih (((s.upTask r.task (fun x => { x with run := some (s.reexecRun r) })).upClu (fun u => { u with queues := vset u.queues r.lset (vget u.queues r.lset [] ++ [r.task]) })).armTask r.task (s.beatInstant (s.reexecRun r).beat))
    have hk : ∀ (z : State) t, (z.armTask r.task t).clu = z.clu := fun z _ => (State.armTask_keep (L := { wdg := true }) (Keep.refl z) _ _).frame.clu rfl
    rw [hk] at h1 h2
    exact ⟨h1, h2⟩

/-- A takeover with a term left, of a unit whose lane set is available: the redundancy subsystem, the commit engine and the lanes (07 R224, R225). -/
theorem takeOver_left {s : State} (h : s.highTerm < 0xFFFF) (hm : s.pwr.state = .reduced → s.minSetWide = false) (t reason : Nat) (hand again : Bool) :
    (s.takeOver t reason hand again).csw.role = .active ∧ (s.takeOver t reason hand again).csw.term = s.highTerm + 1 ∧
    (s.takeOver t reason hand again).csw.takeovers = min 0xFFFFFFFF (s.csw.takeovers + 1) ∧ (s.takeOver t reason hand again).csw.gapUs = min 0xFFFF ((t - s.csw.takeoverRef) / 1000) ∧
    (s.takeOver t reason hand again).csw.gapReason = reason ∧ (s.takeOver t reason hand again).csw.redLost = true ∧ (s.takeOver t reason hand again).csw.driversOff = hand ∧
    (s.takeOver t reason hand again).csw.storeComplete = true ∧ (s.takeOver t reason hand again).csw.takeoverPend = none ∧ (s.takeOver t reason hand again).csw.cause.getLsbD 0 = true ∧
    (s.takeOver t reason hand again).csw.pos = (if hand then s.csw.ackPos else 0) ∧
    (s.takeOver t reason hand again).sto = s.sto.takeOver s.clk.beat ∧ (s.takeOver t reason hand again).clk.beat = s.clk.beat ∧
    (s.takeOver t reason hand again).clk.powered = (match s.csw.lastMs with | some m => m.powered + (s.clk.beat - m.closeBeat) | none => s.clk.powered) ∧
    (s.takeOver t reason hand again).clu.lanes = s.clu.lanes.map (fun l => { Lane.reset with scratch := l.scratch }) ∧ (s.takeOver t reason hand again).clu.stopped = false := by
  obtain ⟨w, hw⟩ : ∃ w, w = s.upCsw (fun c => { c with rx := [], rxMs := none, takeoverPend := none, launchPend := [], goPend := none, handBeat := none }) := ⟨_, rfl⟩
  have hh : w.highTerm = s.highTerm := by rw [hw]; rfl
  have hwc : w.csw = { s.csw with rx := [], rxMs := none, takeoverPend := none, launchPend := [], goPend := none, handBeat := none } := by rw [hw]; rfl
  obtain ⟨cs, sa, lt, dl, hb, -⟩ := (govern_csw w .active reason ((t - s.csw.takeoverRef) / 1000)).1 (by omega)
  have kb := govern_frame (s := w) (by omega) .active reason ((t - s.csw.takeoverRef) / 1000)
  obtain ⟨b, hbe⟩ : ∃ b, b = w.govern .active reason ((t - s.csw.takeoverRef) / 1000) := ⟨_, rfl⟩
  rw [← hbe] at hb kb
  have hbr : b.csw.role = .active := by rw [hb]
  obtain ⟨a, ha⟩ : ∃ a, a = b.abandonSwap 2 (if b.csw.role = .active then b.csw.term else 0) ((t - s.csw.takeoverRef) / 1000) := ⟨_, rfl⟩
  have ka : Keep { ldr := true, csw := true, evr := true, trc := true } b a := by rw [ha]; exact State.abandonSwap_keep (Keep.refl b) _ _ _
  have hac : ∃ cs, a.csw = { b.csw with cause := cs } := by
    rw [ha]
    unfold State.abandonSwap
    split
    · rw [State.cswCause_csw, (State.recap_keep (L := { evr := true, trc := true }) (Keep.refl _)).frame.csw rfl, State.upLdr_csw]
      exact ⟨_, rfl⟩
    · exact ⟨b.csw.cause, rfl⟩
  obtain ⟨cs0, hac⟩ := hac
  have har : a.csw.role = .active := by rw [hac]; exact hbr
  have hai : a.ldr.img = s.ldr.img := by
    have h0 : b.ldr.img = s.ldr.img := by rw [kb.ldr rfl, hw]; rfl
    rw [ha]
    unfold State.abandonSwap
    split
    · rw [State.cswCause_ldr, (State.recap_keep (L := { evr := true, trc := true }) (Keep.refl _)).frame.ldr rfl]; exact h0
    · exact h0
  have fa : Frame { ldr := true, csw := true, wdg := true, net := true, evr := true, trc := true } s a :=
    ((Keep.upCsw (L := { csw := true }) (Keep.refl s) _).frame.comp (hw ▸ kb) (N := { ldr := true, csw := true, wdg := true, net := true, evr := true, trc := true }) rfl rfl).comp ka.frame rfl rfl
  obtain ⟨c, hc⟩ : ∃ c, c = a.upCsw (fun c => { c with takeovers := sat32 c.takeovers, gapUs := min 0xFFFF ((t - s.csw.takeoverRef) / 1000), gapReason := reason, redLost := true, pos := if hand then c.ackPos else 0, stream := [], blocks := [], sendMs := [], sending := none, lagList := [], lag := 0, resync := false, awaitLaunch := hand, driversOff := hand, storeComplete := true, cmdState := 0 }) := ⟨_, rfl⟩
  obtain ⟨d, hd⟩ : ∃ d, d = ((c.cswCause 0).upClk (fun x => { x with powered := c.takeoverPowered })).upClu Cluster.takeOver := ⟨_, rfl⟩
  obtain ⟨f, hf⟩ : ∃ f, f = (d.upSto (·.takeOver d.clk.beat)).upTasks (·.map (·.takeOver d.clk.beat)) := ⟨_, rfl⟩
  obtain ⟨g, hg⟩ : ∃ g, g = (((f.canTakeover.traceMark 2).requestAnchor).drivesLaunched).upDict (fun d => { d with sessions := [], volatile := [] }) := ⟨_, rfl⟩
  have kg : Keep { can := true, trc := true, fio := true, evr := true, dict := true } f g := by
    rw [hg]; exact (State.drivesLaunched_keep (State.requestAnchor_keep (State.traceMark_keep (State.canTakeover_keep (Keep.refl f)) _))).upDict rfl
  have hgm : ¬ (g.pwr.state = .reduced ∧ g.minSetWide = true) := by
    rintro ⟨q1, q2⟩
    have hp : g.pwr = s.pwr := by rw [kg.frame.pwr rfl, hf, State.upTasks_pwr, State.upSto_pwr, hd]; show (c.cswCause 0).pwr = _; rw [State.cswCause_pwr, hc, State.upCsw_pwr, fa.pwr rfl]
    have hi : g.ldr.img = s.ldr.img := by rw [kg.frame.ldr rfl, hf, State.upTasks_ldr, State.upSto_ldr, hd]; show (c.cswCause 0).ldr.img = _; rw [State.cswCause_ldr, hc, State.upCsw_ldr, hai]
    rw [hp] at q1
    have := hm q1
    unfold State.minSetWide at q2 this
    rw [hi, this] at q2; cases q2
  have e : s.takeOver t reason hand again = ((if again then ((g.sendAgain t).markLaunches t).reexecuteAll else g).redrive).drain := by
    unfold State.takeOver
    dsimp only
    rw [← hw, ← hbe, ← ha, if_neg (by simp [har]), ← hc]
    rw [← hd, ← hf, ← hg, if_neg hgm]
  have kz : Keep { net := true, evr := true, clu := true, tasks := true, wdg := true, fio := true } g (s.takeOver t reason hand again) := by
    rw [e]
    exact State.drain_keep (State.redrive_keep (Keep.ite (State.reexecuteAll_keep (State.markLaunches_keep (State.sendAgain_keep (Keep.refl g) _) _)) (Keep.refl g)))
  have hz : (s.takeOver t reason hand again).csw = { s.csw with rx := [], rxMs := none, takeoverPend := none, launchPend := [], goPend := none, handBeat := none, role := .active, claimOn := false, term := s.highTerm + 1, termConfirmed := false, sinceActive := sa, lastTrans := lt, drillLast := dl, takeovers := sat32 s.csw.takeovers, gapUs := min 0xFFFF ((t - s.csw.takeoverRef) / 1000), gapReason := reason, redLost := true, pos := if hand then s.csw.ackPos else 0, stream := [], blocks := [], sendMs := [], sending := none, lagList := [], lag := 0, resync := false, awaitLaunch := hand, driversOff := hand, storeComplete := true, cmdState := 0, cause := setBit cs0 0 true } := by
    rw [kz.frame.csw rfl, kg.frame.csw rfl, hf, State.upTasks_csw, State.upSto_csw, hd]
    show (c.cswCause 0).csw = _
    rw [State.cswCause_csw, hc, State.upCsw_csw, hac, hb, hwc, hh]
  have hck : (s.takeOver t reason hand again).clk = { s.clk with powered := c.takeoverPowered } := by
    rw [kz.frame.clk rfl, kg.frame.clk rfl, hf, State.upTasks_clk, State.upSto_clk, hd, State.upClu_clk, State.upClk_clk, State.cswCause_clk, hc, State.upCsw_clk, fa.clk rfl]
  have hbeat : d.clk.beat = s.clk.beat := by
    rw [hd, State.upClu_clk, State.upClk_clk, State.cswCause_clk, hc, State.upCsw_clk, fa.clk rfl]
  rw [hz, hck]
  refine ⟨rfl, rfl, rfl, rfl, rfl, rfl, rfl, rfl, rfl, ?_, rfl, ?_, rfl, ?_, ?_, ?_⟩
  · show (setBit cs0 0 true).getLsbD 0 = true
    rw [setBit_getLsbD _ _ _ _ (by omega)]; rfl
  · rw [kz.frame.sto rfl, kg.frame.sto rfl, hf, State.upTasks_sto, State.upSto_sto, hbeat, hd, State.upClu_sto, State.upClk_sto, State.cswCause_sto, hc, State.upCsw_sto, fa.sto rfl]
  · show c.takeoverPowered = _
    unfold State.takeoverPowered
    have h1 : c.csw.lastMs = s.csw.lastMs := by rw [hc, State.upCsw_csw, hac, hb, hwc]
    have h2 : c.clk = s.clk := by rw [hc, State.upCsw_clk, fa.clk rfl]
    rw [h1, h2] <;> (cases s.csw.lastMs <;> rfl)
  all_goals
    have hu : (s.takeOver t reason hand again).clu.lanes = g.clu.lanes ∧ (s.takeOver t reason hand again).clu.stopped = g.clu.stopped := by
      have hr : ∀ z : State, (z.redrive.drain).clu = z.clu := fun z => (State.drain_keep (L := { fio := true, net := true, evr := true }) (State.redrive_keep (Keep.refl z))).frame.clu rfl
      rw [e, hr]
      split
      · obtain ⟨q1, q2⟩ := reexecuteAll_lanes ((g.sendAgain t).markLaunches t)
        rw [q1, q2, (State.markLaunches_keep (L := { tasks := true, net := true, evr := true }) (State.sendAgain_keep (Keep.refl g) t) t).frame.clu rfl]; exact ⟨rfl, rfl⟩
      · exact ⟨rfl, rfl⟩
    have hgc : g.clu = s.clu.takeOver := by
      rw [kg.frame.clu rfl, hf, State.upTasks_clu, State.upSto_clu, hd, State.upClu_clu, State.upClk_clu, State.cswCause_clu, hc, State.upCsw_clu, fa.clu rfl]
  · rw [hu.1, hgc]; rfl
  · rw [hu.2, hgc]; rfl

end Sys2Proof.Machine
end

