-- ==== Sys2Proof/Laws/Cluster.lean ====
section
/-! SUPPORT. What an issue does in a lane that executes by itself (Machine/Cluster.lean). -/

set_option Elab.async false
set_option linter.all false

namespace Sys2Proof.Machine

open Sys2Proof

/-- A lane after an update of it. -/
theorem upLane_same (s : State) {l : Nat} (h : l < 8) (k : Lane → Lane) : (s.upLane l k).lane l = k (s.lane l) := vget_vup_same h _ _

/-- A lane after an update of another. -/
theorem upLane_ne (s : State) {l j : Nat} (h : j ≠ l) (k : Lane → Lane) : (s.upLane l k).lane j = s.lane j := vget_vup_ne h _ _

/-- An update of a lane that changes nothing leaves the state. -/
theorem upLane_self {s : State} {l : Nat} {k : Lane → Lane} (h : k (s.lane l) = s.lane l) : s.upLane l k = s := by
  unfold State.upLane State.upClu vup
  have : vset s.clu.lanes l (k (vget s.clu.lanes l Lane.reset)) = s.clu.lanes := by
    rw [show k (vget s.clu.lanes l Lane.reset) = vget s.clu.lanes l Lane.reset from h]
    unfold vset vget
    ext i hi
    simp only [Vector.getElem_setIfInBounds]
    split
    · next e => subst e; simp [hi]
    · rfl
  show ({ s with clu := { s.clu with lanes := vset s.clu.lanes l (k (vget s.clu.lanes l Lane.reset)) } } : State) = s
  rw [this]

/-- Two updates of one lane are one. -/
theorem upLane_upLane (s : State) {l : Nat} (h : l < 8) (f g : Lane → Lane) : (s.upLane l f).upLane l g = s.upLane l (fun x => g (f x)) := by
  unfold State.upLane State.upClu
  simp only [vup, vset, vget]
  congr 2
  simp [h]

/-- With no write-back due none lands. -/
theorem landWbs_nil {s : State} {l : Nat} (h : (s.lane l).wb = []) (c : Nat) : ∀ n, s.landWbs l c n = s
  | 0 => rfl
  | n + 1 => by unfold State.landWbs; rw [h]

/-- A bundle without a shared access issues in the cycle it is ready (03 R97). -/
theorem issueCycle_nil {banks : Reg → List Nat} {r : Reg} (h : banks r = []) (owner shift n c fuel : Nat) : issueCycle owner shift n banks [] r fuel c = c := by
  cases fuel
  · rfl
  · unfold issueCycle
    rw [show (landThrough c [] r).1 = r from rfl, h]

variable {s : State} {l t : Nat} {run : Run}

/-- What a lane by itself takes of an issue without shared stores, check-ins and exchange writes: results in flight, scratch stores and the end of the run. -/
theorem takeEff_alone (h : s.Alone l t run) {f : Eff} (h1 : f.stores = []) (h2 : f.checkins = []) (h3 : f.xw = []) (h4 : f.str = none) (c b : Nat) :
    s.takeEff l t c b f = s.upLane l (fun ln => { ln.addFlight c f.lands f.wbs with
      scratch := f.scratch.foldl (fun m x => memWrite m x.1 x.2) ln.scratch, ended := ln.ended || f.ended }) := by
  have hp : s.paired = false := by unfold State.paired; rw [h.single]; rfl
  have ht : s.isTrailing l = false := by unfold State.isTrailing; rw [hp]; rfl
  unfold State.takeEff
  rw [ht, h3, h4]
  simp only [Option.isSome_none, Bool.false_eq_true, if_false, List.foldl_nil]
  have hc : ∀ u : State, u.clu.single = true → ∀ i r, u.compare l c b false i r = u := by
    intro u hu i r
    unfold State.compare State.paired
    rw [hu]; rfl
  have hx : ∀ u : State, u.upClu (fun v => { v with x := v.x }) = u := fun u => rfl
  rw [hx, h1, h2]
  simp only [hc, State.upLane_clu, h.single, List.isEmpty_nil, if_true, List.foldl_nil, ite_self]
  rfl

/-- The issue of a bundle by a lane by itself, when the bundle accesses no shared store, meets no fault and repeats nothing. -/
theorem issue_alone (h : s.Alone l t run) (hrep : (s.lane l).rep = none) {b : Bundle} {f : Eff} (hd : decodeBundle (fetchWords s.sto.program (s.lane l).pc 8) false = .ok b)
    (hr : b.rep = false) (hb : bundleBanks b (s.lane l).regs = []) (hf : f = execBundle b (s.env l t (s.lane l).ready run (s.lane l).regs none) [])
    (h0 : f.faults = []) (h1 : f.stores = []) (h2 : f.checkins = []) (h3 : f.xw = []) (h4 : f.str = none) :
    s.issue l [] .none = s.upLane l (fun ln => { (ln.addFlight (s.lane l).ready f.lands f.wbs) with
      scratch := f.scratch.foldl (fun m x => memWrite m x.1 x.2) ln.scratch, ended := ln.ended || f.ended
      pc := ln.pc + b.len, rep := none, xfer := f.xfer, ready := (s.lane l).ready + 1 }) := by
  have hp : s.paired = false := by unfold State.paired; rw [h.single]; rfl
  have ht : s.isTrailing l = false := by unfold State.isTrailing; rw [hp]; rfl
  have e0 : s.upLane l Lane.transfer = s := upLane_self (by unfold Lane.transfer; rw [h.xfer])
  have hm : ∀ c, s.mayIssue l c = true := by intro c; unfold State.mayIssue; rw [h.going, ht]; rfl
  unfold State.issue
  rw [e0]
  simp only [h.task, h.run, h.ended, h.dead, hrep, h.xfer, h.wb, h.inflight, ht, upsetWords, Option.isSome_none, Bool.or_self, Bool.false_eq_true, if_false]
  rw [hd]
  simp only [issueCycle_nil hb, hm, landWbs_nil h.wb, h.run, h.inflight, Bool.not_true, Bool.false_eq_true, if_false, landThrough, upsetRegs]
  rw [upLane_self (k := fun x => { x with regs := (s.lane l).regs, inflight := [] }) (by have := h.inflight; generalize s.lane l = ln at this ⊢; cases ln; simp_all)]
  rw [← hf]
  simp only [List.filter_nil, show s.countCorrected [] = s from rfl, hardStore, List.find?_nil, List.any_nil, Bool.false_eq_true, if_false, h0, hb, List.length_nil, List.append_nil,
    List.nil_append, show ¬ 2 ≤ 0 from by omega, leastOf, List.min?_nil, h4, hr, false_and, Option.isSome_none]
  rw [takeEff_alone h h1 h2 h3 h4, upLane_upLane s h.lane]
  congr 1
  funext ln
  cases hx : f.xfer <;> simp [Option.map, h.xfer] <;> rfl

/-- A bundle of one long syllable without a prefix decodes to itself, or to its lowest cause (03 R105, R108). -/
theorem decode_one {m : Mem} {pc : Nat} {w : Word} (h1 : pc + 4 ≤ programSize) (h2 : memWord m pc = w) (h3 : sylS w = true) (h4 : sylU w ≠ 7) :
    decodeBundle (fetchWords m pc 8) false = match leastOf (sylCauses none w) with
      | none => .ok ⟨none, false, [w], 4⟩
      | some c => .error c := by
  unfold fetchWords
  rw [if_pos h1, h2]
  have hu : ∀ r, uptoS (w :: r) = ([w], true) := fun r => by unfold uptoS; rw [if_pos h3]
  have hw : wordCauses [w] = sylCauses none w := by
    unfold wordCauses tailCauses
    simp only [h4, if_false, tailCauses, List.append_nil, List.nil_append]
  unfold decodeBundle
  rw [hu]
  simp only [hw, if_true, Bool.false_and, Bool.false_eq_true, if_false, List.append_nil, h4, List.length_singleton]
  cases leastOf (sylCauses none w) <;> rfl

/-- A bundle of one syllable that is no string operation executes that syllable. -/
theorem execBundle_one {w : Word} (h : isString w = false) (s : State) (l t c : Nat) (run : Run) (r : Reg) (rep : Option Rep) (g : List Word) :
    execBundle ⟨none, false, [w], 4⟩ (s.env l t c run r rep) g = execSyl (Eff.start g) (s.env l t c run r rep) w := by
  unfold execBundle
  simp only [List.any_cons, List.any_nil, h, Bool.or_self, Bool.false_and, Bool.false_eq_true, if_false, List.foldl_nil]
  rfl

/-- The issue of one legal syllable by a lane by itself. -/
theorem issue_one {s : State} {l t : Nat} {run : Run} (h : s.Alone l t run) (hrep : (s.lane l).rep = none) {w : Word} {f : Eff} (h1 : (s.lane l).pc + 4 ≤ programSize)
    (h2 : memWord s.sto.program (s.lane l).pc = w) (h3 : sylS w = true) (h4 : sylU w ≠ 7) (h5 : sylCauses none w = []) (h6 : isString w = false)
    (h7 : sylBanks (s.lane l).regs none w = []) (hf : f = execSyl (Eff.start []) (s.env l t (s.lane l).ready run (s.lane l).regs none) w)
    (g0 : f.faults = []) (g1 : f.stores = []) (g2 : f.checkins = []) (g3 : f.xw = []) (g4 : f.str = none) :
    s.issue l [] .none = s.upLane l (fun ln => { (ln.addFlight (s.lane l).ready f.lands f.wbs) with
      scratch := f.scratch.foldl (fun m x => memWrite m x.1 x.2) ln.scratch, ended := ln.ended || f.ended
      pc := ln.pc + 4, rep := none, xfer := f.xfer, ready := (s.lane l).ready + 1 }) := by
  refine issue_alone h hrep (b := ⟨none, false, [w], 4⟩) (f := f) ?_ rfl ?_ ?_ g0 g1 g2 g3 g4
  · rw [decode_one h1 h2 h3 h4, h5]; rfl
  · unfold bundleBanks
    simp [h7]
  · rw [hf, execBundle_one h6]

/-- The issue of an illegal bundle by a lane by itself ends its run with the lowest cause (03 R108). -/
theorem issue_illegal {s : State} {l t : Nat} {run : Run} (h : s.Alone l t run) (hrep : (s.lane l).rep = none) {cause : Nat}
    (hd : decodeBundle (fetchWords s.sto.program (s.lane l).pc 8) false = .error cause) :
    s.issue l [] .none = s.endIllegal l t (s.lane l).ready cause (s.lane l).pc := by
  have hp : s.paired = false := by unfold State.paired; rw [h.single]; rfl
  have ht : s.isTrailing l = false := by unfold State.isTrailing; rw [hp]; rfl
  have e0 : s.upLane l Lane.transfer = s := upLane_self (by unfold Lane.transfer; rw [h.xfer])
  have hm : ∀ c, s.mayIssue l c = true := by intro c; unfold State.mayIssue; rw [h.going, ht]; rfl
  unfold State.issue
  rw [e0]
  simp only [h.task, h.run, h.ended, h.dead, hrep, h.xfer, upsetWords, Option.isSome_none, Bool.or_self, Bool.false_eq_true, if_false]
  rw [hd]
  simp only [hm, if_true, illegalCause, hd]

/-- A run that ends without completing in a lane by itself faults its task (03 R108). -/
theorem endIllegal_alone {s : State} {l t : Nat} {run : Run} (h : s.Alone l t run) (c cause b : Nat) :
    ∃ u : State, u = s.upLane l (fun ln => { ln with dead := true, rep := none, xfer := none, endCyc := max c ln.endCyc }) ∧
      s.endIllegal l t c cause b = (u.faultTask t cause b).noteRun t (4 + 2 * bit (s.task t).overrunNow) cause ((max c (s.lane l).endCyc) % s.beatCycles) 0 0 := by
  refine ⟨_, rfl, ?_⟩
  have hc : ∀ u : State, u.clu.single = true → ∀ i r, u.compare l c b false i r = u := by
    intro u hu i r
    unfold State.compare State.paired
    rw [hu]; rfl
  have hp : ∀ u : State, u.clu.single = true → u.paired = false := by intro u hu; unfold State.paired; rw [hu]; rfl
  unfold State.endIllegal
  simp only [hc, hp, State.upLane_clu, h.single, h.going, Bool.false_and, Bool.false_eq_true, if_false]
  rw [upLane_same s h.lane]
  rfl

/-- An iteration of a repeated syllable that is no string operation, in a lane by itself (04 R142, R143). -/
theorem iterate_one {s : State} {l t : Nat} {run : Run} (h : s.Alone l t run) {p : Rep} (hrep : (s.lane l).rep = some p) (hp : p.str = none) {f : Eff}
    (h7 : sylBanks (s.lane l).regs none p.word = []) (hf : f = execSyl (Eff.start []) (s.env l t (s.lane l).ready run (s.lane l).regs (some p)) p.word)
    (g0 : f.faults = []) (g1 : f.stores = []) (g2 : f.checkins = []) (g3 : f.xw = []) (g4 : f.str = none) :
    s.iterate l [] .none = s.upLane l (fun ln => { (ln.addFlight (s.lane l).ready f.lands f.wbs) with
      scratch := f.scratch.foldl (fun m x => memWrite m x.1 x.2) ln.scratch, ended := ln.ended || f.ended, ready := (s.lane l).ready + 1
      rep := if p.left ≤ 1 then none else some { p with left := p.left - 1, ac0 := f.ac0.or p.ac0, ac1 := f.ac1.or p.ac1 } }) := by
  have hpd : s.paired = false := by unfold State.paired; rw [h.single]; rfl
  have ht : s.isTrailing l = false := by unfold State.isTrailing; rw [hpd]; rfl
  have hm : ∀ c, s.mayIssue l c = true := by intro c; unfold State.mayIssue; rw [h.going, ht]; rfl
  unfold State.iterate
  simp only [h.task, hrep, hp, h.dead, h.inflight, ht, Option.isSome_none, Bool.or_self, Bool.false_eq_true, if_false]
  have hb : ∀ n x c k, issueCycle n x k (fun r => sylBanks r none p.word) [] (s.lane l).regs 64 c = c := fun n x c k => issueCycle_nil (banks := fun r => sylBanks r none p.word) h7 n x k c 64
  simp only [hb, hm, landWbs_nil h.wb, h.run, h.inflight, Bool.not_true, Bool.false_eq_true, if_false, landThrough, upsetRegs]
  rw [upLane_self (k := fun x => { x with regs := (s.lane l).regs, inflight := [] }) (by have := h.inflight; generalize s.lane l = ln at this ⊢; cases ln; simp_all)]
  rw [← hf]
  simp only [List.filter_nil, show s.countCorrected [] = s from rfl, hardStore, List.find?_nil, List.any_nil, Bool.false_eq_true, if_false, g0, h7, List.length_nil, List.append_nil,
    show ¬ 2 ≤ 0 from by omega, leastOf, List.min?_nil]
  rw [takeEff_alone h g1 g2 g3 g4, upLane_upLane s h.lane]

end Sys2Proof.Machine
end

