-- ==== Sys2Proof/Laws/Fabric.lean ====
section
/-! SUPPORT. A register access that reaches its block is that block's answer (12 R364, R365). -/

set_option Elab.async false
set_option linter.all false

namespace Sys2Proof.Machine

open Sys2Proof

/-- A write that reaches its block is settled as the block answers. -/
theorem fabricWrite_reaches {s : State} {m : Master} {addr : Nat} (h : s.readReaches m addr = true) (v : Word) (ecc : List Ecc) :
    s.fabricWrite m addr v ecc = s.settle m addr (s.blockWrite m (addr / 4096) (addr % 4096) v (s.privOf m) ecc) := by
  unfold State.readReaches State.pageServed at h
  simp only [Bool.and_eq_true] at h
  obtain ⟨⟨⟨h1, h2⟩, h3, h4⟩, h5⟩ := h
  unfold State.fabricWrite State.pageServed
  simp only [h1, h2, h3, h4, h5, Bool.not_true, Bool.false_eq_true, if_false, Bool.and_true, Bool.and_self]

/-- A write that its block does is that block's effect. -/
theorem fabricWrite_done {s u : State} {m : Master} {addr : Nat} {v : Word} {ecc : List Ecc} (h : s.readReaches m addr = true)
    (e : s.blockWrite m (addr / 4096) (addr % 4096) v (s.privOf m) ecc = .done u) : s.fabricWrite m addr v ecc = u := by
  rw [fabricWrite_reaches h, e]
  rfl

/-- A write that its block refuses leaves the mark of the refusal alone. -/
theorem fabricWrite_refused {s : State} {m : Master} {addr f : Nat} {v : Word} {ecc : List Ecc} (h : s.readReaches m addr = true)
    (e : s.blockWrite m (addr / 4096) (addr % 4096) v (s.privOf m) ecc = .refused f) : s.fabricWrite m addr v ecc = s.accessFault m addr f := by
  rw [fabricWrite_reaches h, e]
  rfl

/-- A read that reaches its block is that block's answer. -/
theorem fabricRead_reaches {s : State} {m : Master} {addr : Nat} (h : s.readReaches m addr = true) :
    s.fabricRead m addr = s.blockRead m (addr / 4096) (addr % 4096) (s.privOf m) := by
  unfold State.fabricRead
  rw [if_pos h]

/-- A refused access sets the flag of its reason. -/
theorem accessFault_flag (s : State) (m : Master) (addr : Nat) {f : Nat} (h : f < 32) : (s.accessFault m addr f).host.fault.getLsbD f = true := by
  unfold State.accessFault
  simp only [State.occur_host, State.upHost_host]
  split
  · dsimp only
    rw [setBit_getLsbD _ _ _ _ h, setBit_getLsbD _ _ _ _ h]; simp
  · dsimp only
    rw [setBit_getLsbD _ _ _ _ h]; simp

end Sys2Proof.Machine
end

