-- ==== Sys2Proof/Laws/Field.lean ====
section
/-! SUPPORT. What the shared operations of the field subsystem do to one channel and to one group (Machine/Field.lean). -/

set_option Elab.async false
set_option linter.all false

namespace Sys2Proof.Machine

open Sys2Proof

variable (s : State)

/-- Every channel follows R255 on its own. -/
theorem redrive_chan {c : Nat} (h : c < 512) : s.redrive.chan c = (s.chan c).redrive c s.clk.now (s.driveVal s.safeRanges c (s.chan c)) := by
  unfold State.redrive State.chan
  dsimp only [State.upFio_fio]
  rw [vget_mapIdx _ _ h Chan.reset]

@[simp] theorem redrive_groups : s.redrive.fio.groups = s.fio.groups := rfl

/-- A redrive changes no field of a channel that belongs to its input side or to its settings. -/
theorem Chan.redrive_input (ch : Chan) (c now : Nat) (on : Bool) :
    (ch.redrive c now on).filtered = ch.filtered ∧ (ch.redrive c now on).count = ch.count ∧ (ch.redrive c now on).raw = ch.raw ∧
      (ch.redrive c now on).sampled = ch.sampled ∧ (ch.redrive c now on).mode = ch.mode := by
  unfold Chan.redrive
  split
  · exact ⟨rfl, rfl, rfl, rfl, rfl⟩
  · split <;> exact ⟨rfl, rfl, rfl, rfl, rfl⟩

/-- A channel that is driven off neither conducts nor waits to switch on. -/
theorem Chan.redrive_off (ch : Chan) (c now : Nat) :
    ch.redrive c now false = { ch with conduct := false, onAt := none, ovld := false } := rfl

theorem driveVal_off {c : Nat} (rs : List (Nat × Nat × Nat)) (ch : Chan) (h : (s.group (c / 64)).off = true) : s.driveVal rs c ch = false := by
  unfold State.driveVal
  simp [h]

@[simp] theorem FieldGroup.cancel_used (g : FieldGroup) : g.cancel.used = g.used := by
  unfold FieldGroup.cancel
  split <;> rfl

@[simp] theorem grpEvent_chans (g sev : Nat) : (s.grpEvent g sev).fio.chans = s.fio.chans := by
  unfold State.grpEvent
  split
  · exact (congrArg Fio.chans (State.occurSev_fio ..)).trans rfl
  · rfl

@[simp] theorem grpEvent_groups (g sev : Nat) : (s.grpEvent g sev).fio.groups = s.fio.groups := by
  unfold State.grpEvent
  split
  · exact (congrArg Fio.groups (State.occurSev_fio ..)).trans rfl
  · rfl

theorem grpEvent_cause (g sev : Nat) :
    (s.grpEvent g sev).fio.cause = if (s.group g).used then setBit s.fio.cause g true else s.fio.cause := by
  unfold State.grpEvent
  split
  · exact congrArg Fio.cause (State.occurSev_fio ..)
  · rfl

@[simp] theorem grpSample_chans (i x ma : Nat) : (s.grpSample i x ma).fio.chans = s.fio.chans := by
  have e (c : Bool) (k : Nat) (u : State) : (if c = true then u.grpEvent i k else u).fio.chans = u.fio.chans := by
    cases c
    · rfl
    · exact grpEvent_chans u i k
  unfold State.grpSample
  extract_lets g high warn low inv miss a b d f h
  refine (e miss 2 h).trans ((e inv 3 f).trans ((e low 3 d).trans ((e high 4 b).trans ((e warn 4 a).trans ?_))))
  rfl

theorem grpSamples_chans (supply current : List Nat) : ∀ (l : List Nat) (s : State),
    (l.foldl (fun acc i => acc.grpSample i (supply[i]?.getD 0) (current[i]?.getD 0)) s).fio.chans = s.fio.chans
  | [], _ => rfl
  | i :: l, s => (grpSamples_chans supply current l _).trans (grpSample_chans s i _ _)

/-- The latch changes nothing of a channel but its quality bit. -/
theorem latchLocal_chan {c : Nat} (h : c < 512) : ∃ q, s.latchLocal.chan c = { s.chan c with quality := q } := by
  unfold State.latchLocal
  split
  · exact ⟨(s.chan c).quality, rfl⟩
  · refine ⟨s.qualityBit s.safeRanges c (s.chan c), ?_⟩
    unfold State.chan
    dsimp only [State.upFio_fio, State.upSto_fio]
    rw [vget_mapIdx _ _ h Chan.reset]

end Sys2Proof.Machine
end

