-- ==== Sys2Proof/Laws/KeepNvp.lean ====
section
/-! SUPPORT. What each operation of Machine/Nvp.lean keeps (Laws/Keep.lean). -/

set_option Elab.async false
set_option linter.all false

namespace Sys2Proof.Machine

open Sys2Proof

set_option linter.unusedVariables false
set_option linter.tactic.unusedName false

variable {L : Parts}

theorem State.nvpCauseSev_keep {o₀ s : State} (hK : Keep L o₀ s) (b : Nat) (source : Nat) (sev : Nat) (lEvr : L.evr = true := by first | rfl | assumption) (lNvp : L.nvp = true := by first | rfl | assumption) : Keep L o₀ (State.nvpCauseSev s b source sev) := by
  unfold State.nvpCauseSev
  repeat' (first
    | with_reducible assumption
    | with_reducible apply State.occurSev_keep
    | with_reducible apply Keep.upNvp
    | with_reducible apply Keep.ite
    | split)

theorem State.answer_keep {o₀ s : State} (hK : Keep L o₀ s) (r : Reply) (status : Nat) (info : Nat) (lNet : L.net = true := by first | rfl | assumption) (lCan : L.can = true := by first | rfl | assumption) (lDict : L.dict = true := by first | rfl | assumption) (lEvr : L.evr = true := by first | rfl | assumption) : Keep L o₀ (State.answer s r status info) := by
  unfold State.answer
  repeat' (first
    | with_reducible assumption
    | with_reducible apply State.kvSend_keep
    | with_reducible apply Keep.ite
    | split)

theorem State.endPriv_keep {o₀ s : State} (hK : Keep L o₀ s) (w : Nat) (lDict : L.dict = true := by first | rfl | assumption) (lHost : L.host = true := by first | rfl | assumption) : Keep L o₀ (State.endPriv s w) := by
  unfold State.endPriv
  repeat' (first
    | with_reducible assumption
    | with_reducible refine Keep.upDict ?_ ?_
    | with_reducible refine Keep.upHost ?_ (fun xk => ?_)
    | exact Eq.refl _
    | exact xk
    | with_reducible apply Keep.ite
    | split)

theorem State.nvpEnd_keep {o₀ s : State} (hK : Keep L o₀ s) (c : NvpCmd) (result : Nat) (uncorr : Bool) (lFio : L.fio = true := by first | rfl | assumption) (lNet : L.net = true := by first | rfl | assumption) (lCan : L.can = true := by first | rfl | assumption) (lDict : L.dict = true := by first | rfl | assumption) (lHost : L.host = true := by first | rfl | assumption) (lEvr : L.evr = true := by first | rfl | assumption) (lNvp : L.nvp = true := by first | rfl | assumption) (lRtc : L.rtc = true := by first | rfl | assumption) : Keep L o₀ (State.nvpEnd s c result uncorr) := by
  unfold State.nvpEnd
  repeat' (first
    | with_reducible assumption
    | with_reducible apply State.upMregs_keep
    | with_reducible apply State.storeValue_keep
    | with_reducible apply State.endPriv_keep
    | with_reducible apply State.answer_keep
    | with_reducible apply Keep.ite
    | with_reducible refine Keep.of_eq1 ?_ (by assumption)
    | with_reducible refine Keep.of_eq2 ?_ (by assumption)
    | (extract_lets +onlyGivenNames y; (first | ((have hy : Keep L o₀ y := (by unfold y; repeat' (first | with_reducible assumption | with_reducible apply State.upMregs_keep | with_reducible apply State.storeValue_keep | with_reducible apply State.endPriv_keep | with_reducible apply State.answer_keep | with_reducible apply Keep.ite | with_reducible refine Keep.of_eq1 ?_ (by assumption) | with_reducible refine Keep.of_eq2 ?_ (by assumption) | extract_lets | split))); clear_value y) | ((have hy : Keep L o₀ y.1 := (by unfold y; repeat' (first | with_reducible assumption | with_reducible apply State.upMregs_keep | with_reducible apply State.storeValue_keep | with_reducible apply State.endPriv_keep | with_reducible apply State.answer_keep | with_reducible apply Keep.ite | with_reducible refine Keep.of_eq1 ?_ (by assumption) | with_reducible refine Keep.of_eq2 ?_ (by assumption) | extract_lets | split))); clear_value y) | ((have hy : Keep L o₀ y.2 := (by unfold y; repeat' (first | with_reducible assumption | with_reducible apply State.upMregs_keep | with_reducible apply State.storeValue_keep | with_reducible apply State.endPriv_keep | with_reducible apply State.answer_keep | with_reducible apply Keep.ite | with_reducible refine Keep.of_eq1 ?_ (by assumption) | with_reducible refine Keep.of_eq2 ?_ (by assumption) | extract_lets | split))); clear_value y) | clear_value y | skip))
    | split)

theorem State.beginErase_keep {o₀ s : State} (hK : Keep L o₀ s) (c : Option NvpCmd) (j : PageJob) (spare : Bool) (rest : List PageJob) (lNvp : L.nvp = true := by first | rfl | assumption) : Keep L o₀ (State.beginErase s c j spare rest) := by
  unfold State.beginErase
  repeat' (first
    | with_reducible assumption
    | with_reducible apply Keep.upNvp
    | with_reducible apply Keep.ite
    | (extract_lets +onlyGivenNames y; (first | ((have hy : Keep L o₀ y := (by unfold y; repeat' (first | with_reducible assumption | with_reducible apply Keep.upNvp | with_reducible apply Keep.ite | extract_lets | split))); clear_value y) | clear_value y | skip))
    | split)

theorem State.beginPages_keep {o₀ s : State} (hK : Keep L o₀ s) (c : Option NvpCmd) (l : List PageJob) (lNvp : L.nvp = true := by first | rfl | assumption) : Keep L o₀ (State.beginPages s c l) := by
  unfold State.beginPages
  repeat' (first
    | with_reducible assumption
    | with_reducible apply State.beginErase_keep
    | with_reducible apply Keep.ite
    | split)

theorem State.nvpCorrected_keep {o₀ s : State} (hK : Keep L o₀ s) (addr : Nat) (lHost : L.host = true := by first | rfl | assumption) (lEvr : L.evr = true := by first | rfl | assumption) (lNvp : L.nvp = true := by first | rfl | assumption) : Keep L o₀ (State.nvpCorrected s addr) := by
  unfold State.nvpCorrected
  repeat' (first
    | with_reducible assumption
    | with_reducible apply State.memCause_keep
    | with_reducible apply Keep.upNvp
    | with_reducible apply Keep.ite
    | (extract_lets +onlyGivenNames y; (first | ((have hy : Keep L o₀ y := (by unfold y; repeat' (first | with_reducible assumption | with_reducible apply State.memCause_keep | with_reducible apply Keep.upNvp | with_reducible apply Keep.ite | extract_lets | split))); clear_value y) | clear_value y | skip))
    | split)

theorem State.takeEcc_keep {o₀ s : State} (hK : Keep L o₀ s) (l : List Ecc) (lHost : L.host = true := by first | rfl | assumption) (lEvr : L.evr = true := by first | rfl | assumption) (lNvp : L.nvp = true := by first | rfl | assumption) : Keep L o₀ (State.takeEcc s l) := by
  unfold State.takeEcc
  repeat' (first
    | with_reducible assumption
    | with_reducible apply State.nvpCorrected_keep
    | with_reducible apply Keep.upNvp
    | with_reducible refine Keep.foldl (fun _ _ _ => ?_) _ ?_
    | with_reducible refine Keep.foldl1 (fun _ _ _ _ => ?_) _ ?_
    | with_reducible refine Keep.foldl2 (fun _ _ _ _ => ?_) _ ?_
    | with_reducible apply Keep.ite
    | split)

theorem State.pageUncorr_keep {o₀ s : State} (hK : Keep L o₀ s) (k : Nat) (lHost : L.host = true := by first | rfl | assumption) (lEvr : L.evr = true := by first | rfl | assumption) : Keep L o₀ (State.pageUncorr s k) := by
  unfold State.pageUncorr
  repeat' (first
    | with_reducible assumption
    | with_reducible apply State.uncorrectable_keep
    | with_reducible refine Keep.foldl (fun _ _ _ => ?_) _ ?_
    | with_reducible refine Keep.foldl1 (fun _ _ _ _ => ?_) _ ?_
    | with_reducible refine Keep.foldl2 (fun _ _ _ _ => ?_) _ ?_
    | with_reducible apply Keep.ite
    | split)

theorem State.recordRead_keep {o₀ s : State} (hK : Keep L o₀ s) (c : NvpCmd) (m : Master) (lFio : L.fio = true := by first | rfl | assumption) (lNet : L.net = true := by first | rfl | assumption) (lCan : L.can = true := by first | rfl | assumption) (lDict : L.dict = true := by first | rfl | assumption) (lHost : L.host = true := by first | rfl | assumption) (lEvr : L.evr = true := by first | rfl | assumption) (lNvp : L.nvp = true := by first | rfl | assumption) (lRtc : L.rtc = true := by first | rfl | assumption) : Keep L o₀ (State.recordRead s c m) := by
  unfold State.recordRead
  repeat' (first
    | with_reducible assumption
    | with_reducible apply State.takeEcc_keep
    | with_reducible apply State.pageUncorr_keep
    | with_reducible apply State.upMregs_keep
    | with_reducible apply State.nvpCauseSev_keep
    | with_reducible apply State.nvpEnd_keep
    | with_reducible apply State.beginPages_keep
    | with_reducible apply Keep.ite
    | (extract_lets +onlyGivenNames y; (first | ((have hy : Keep L o₀ y := (by unfold y; repeat' (first | with_reducible assumption | with_reducible apply State.takeEcc_keep | with_reducible apply State.pageUncorr_keep | with_reducible apply State.upMregs_keep | with_reducible apply State.nvpCauseSev_keep | with_reducible apply State.nvpEnd_keep | with_reducible apply State.beginPages_keep | with_reducible apply Keep.ite | extract_lets | split))); clear_value y) | clear_value y | skip))
    | split)

theorem State.rawRead_keep {o₀ s : State} (hK : Keep L o₀ s) (c : NvpCmd) (m : Master) (lFio : L.fio = true := by first | rfl | assumption) (lNet : L.net = true := by first | rfl | assumption) (lCan : L.can = true := by first | rfl | assumption) (lDict : L.dict = true := by first | rfl | assumption) (lHost : L.host = true := by first | rfl | assumption) (lEvr : L.evr = true := by first | rfl | assumption) (lNvp : L.nvp = true := by first | rfl | assumption) (lRtc : L.rtc = true := by first | rfl | assumption) : Keep L o₀ (State.rawRead s c m) := by
  unfold State.rawRead
  repeat' (first
    | with_reducible assumption
    | with_reducible apply State.takeEcc_keep
    | with_reducible apply State.uncorrectable_keep
    | with_reducible apply State.nvpCause_keep
    | with_reducible apply State.upMregs_keep
    | with_reducible apply State.nvpEnd_keep
    | with_reducible apply State.beginPages_keep
    | with_reducible refine Keep.foldl (fun _ _ _ => ?_) _ ?_
    | with_reducible refine Keep.foldl1 (fun _ _ _ _ => ?_) _ ?_
    | with_reducible refine Keep.foldl2 (fun _ _ _ _ => ?_) _ ?_
    | with_reducible apply Keep.ite
    | (extract_lets +onlyGivenNames y; (first | ((have hy : Keep L o₀ y := (by unfold y; repeat' (first | with_reducible assumption | with_reducible apply State.takeEcc_keep | with_reducible apply State.uncorrectable_keep | with_reducible apply State.nvpCause_keep | with_reducible apply State.upMregs_keep | with_reducible apply State.nvpEnd_keep | with_reducible apply State.beginPages_keep | with_reducible refine Keep.foldl (fun _ _ _ => ?_) _ ?_ | with_reducible refine Keep.foldl1 (fun _ _ _ _ => ?_) _ ?_ | with_reducible refine Keep.foldl2 (fun _ _ _ _ => ?_) _ ?_ | with_reducible apply Keep.ite | extract_lets | split))); clear_value y) | ((have hy : Keep L o₀ y.1 := (by unfold y; repeat' (first | with_reducible assumption | with_reducible apply State.takeEcc_keep | with_reducible apply State.uncorrectable_keep | with_reducible apply State.nvpCause_keep | with_reducible apply State.upMregs_keep | with_reducible apply State.nvpEnd_keep | with_reducible apply State.beginPages_keep | with_reducible refine Keep.foldl (fun _ _ _ => ?_) _ ?_ | with_reducible refine Keep.foldl1 (fun _ _ _ _ => ?_) _ ?_ | with_reducible refine Keep.foldl2 (fun _ _ _ _ => ?_) _ ?_ | with_reducible apply Keep.ite | extract_lets | split))); clear_value y) | ((have hy : Keep L o₀ y.2 := (by unfold y; repeat' (first | with_reducible assumption | with_reducible apply State.takeEcc_keep | with_reducible apply State.uncorrectable_keep | with_reducible apply State.nvpCause_keep | with_reducible apply State.upMregs_keep | with_reducible apply State.nvpEnd_keep | with_reducible apply State.beginPages_keep | with_reducible refine Keep.foldl (fun _ _ _ => ?_) _ ?_ | with_reducible refine Keep.foldl1 (fun _ _ _ _ => ?_) _ ?_ | with_reducible refine Keep.foldl2 (fun _ _ _ _ => ?_) _ ?_ | with_reducible apply Keep.ite | extract_lets | split))); clear_value y) | clear_value y | skip))
    | split)

theorem State.nvpBegin_keep {o₀ s : State} (hK : Keep L o₀ s) (c : NvpCmd) (lFio : L.fio = true := by first | rfl | assumption) (lNet : L.net = true := by first | rfl | assumption) (lCan : L.can = true := by first | rfl | assumption) (lDict : L.dict = true := by first | rfl | assumption) (lHost : L.host = true := by first | rfl | assumption) (lEvr : L.evr = true := by first | rfl | assumption) (lNvp : L.nvp = true := by first | rfl | assumption) (lRtc : L.rtc = true := by first | rfl | assumption) : Keep L o₀ (State.nvpBegin s c) := by
  unfold State.nvpBegin
  repeat' (first
    | with_reducible assumption
    | with_reducible apply State.nvpEnd_keep
    | with_reducible apply State.recordRead_keep
    | with_reducible apply State.rawRead_keep
    | with_reducible apply State.beginPages_keep
    | with_reducible apply Keep.ite
    | split)

theorem State.nvpServe_keep {o s : State} (n : Nat) (hK : Keep L o s) (lFio : L.fio = true := by first | rfl | assumption) (lNet : L.net = true := by first | rfl | assumption) (lCan : L.can = true := by first | rfl | assumption) (lDict : L.dict = true := by first | rfl | assumption) (lHost : L.host = true := by first | rfl | assumption) (lEvr : L.evr = true := by first | rfl | assumption) (lNvp : L.nvp = true := by first | rfl | assumption) (lRtc : L.rtc = true := by first | rfl | assumption) (lFree : L.free = true := by first | rfl | assumption) : Keep L o (s.nvpServe n) := by
  induction n generalizing s with
  | zero => exact hK
  | succ n ih =>
    unfold State.nvpServe
    split
    · next c rest _ _ =>
      extract_lets u v
      have hv : Keep L o v := State.nvpBegin_keep (Keep.upNvp hK _) _
      clear_value v
      exact ih (Keep.ite (State.useFree_keep hv) hv)
    · exact hK

theorem State.nvpGo_keep {o₀ s : State} (hK : Keep L o₀ s) (lFio : L.fio = true := by first | rfl | assumption) (lNet : L.net = true := by first | rfl | assumption) (lCan : L.can = true := by first | rfl | assumption) (lDict : L.dict = true := by first | rfl | assumption) (lHost : L.host = true := by first | rfl | assumption) (lEvr : L.evr = true := by first | rfl | assumption) (lNvp : L.nvp = true := by first | rfl | assumption) (lRtc : L.rtc = true := by first | rfl | assumption) (lFree : L.free = true := by first | rfl | assumption) : Keep L o₀ (State.nvpGo s) := by
  unfold State.nvpGo
  repeat' (first
    | with_reducible assumption
    | with_reducible apply State.nvpServe_keep
    | with_reducible apply Keep.ite
    | split)

theorem State.nvpGive_keep {o₀ s : State} (hK : Keep L o₀ s) (c : NvpCmd) (lFio : L.fio = true := by first | rfl | assumption) (lNet : L.net = true := by first | rfl | assumption) (lCan : L.can = true := by first | rfl | assumption) (lDict : L.dict = true := by first | rfl | assumption) (lHost : L.host = true := by first | rfl | assumption) (lEvr : L.evr = true := by first | rfl | assumption) (lNvp : L.nvp = true := by first | rfl | assumption) (lRtc : L.rtc = true := by first | rfl | assumption) (lFree : L.free = true := by first | rfl | assumption) : Keep L o₀ (State.nvpGive s c) := by
  unfold State.nvpGive
  repeat' (first
    | with_reducible assumption
    | with_reducible apply State.upMregs_keep
    | with_reducible apply State.nvpGo_keep
    | with_reducible apply Keep.upNvp
    | with_reducible apply Keep.ite
    | (extract_lets +onlyGivenNames y; (first | ((have hy : Keep L o₀ y := (by unfold y; repeat' (first | with_reducible assumption | with_reducible apply State.upMregs_keep | with_reducible apply State.nvpGo_keep | with_reducible apply Keep.upNvp | with_reducible apply Keep.ite | extract_lets | split))); clear_value y) | clear_value y | skip))
    | split)

theorem State.storeSystem_keep {o₀ s : State} (hK : Keep L o₀ s) (key : Nat) (v : List Byte) (reply : Option Reply) (lFio : L.fio = true := by first | rfl | assumption) (lNet : L.net = true := by first | rfl | assumption) (lCan : L.can = true := by first | rfl | assumption) (lDict : L.dict = true := by first | rfl | assumption) (lHost : L.host = true := by first | rfl | assumption) (lEvr : L.evr = true := by first | rfl | assumption) (lNvp : L.nvp = true := by first | rfl | assumption) (lRtc : L.rtc = true := by first | rfl | assumption) (lFree : L.free = true := by first | rfl | assumption) : Keep L o₀ (State.storeSystem s key v reply) := by
  unfold State.storeSystem
  repeat' (first
    | with_reducible assumption
    | with_reducible apply State.nvpGive_keep
    | with_reducible apply Keep.ite
    | split)

theorem State.pageEnd_keep {o₀ s : State} (hK : Keep L o₀ s) (p : PageStep) (lFio : L.fio = true := by first | rfl | assumption) (lNet : L.net = true := by first | rfl | assumption) (lCan : L.can = true := by first | rfl | assumption) (lDict : L.dict = true := by first | rfl | assumption) (lHost : L.host = true := by first | rfl | assumption) (lEvr : L.evr = true := by first | rfl | assumption) (lNvp : L.nvp = true := by first | rfl | assumption) (lRtc : L.rtc = true := by first | rfl | assumption) (lFree : L.free = true := by first | rfl | assumption) : Keep L o₀ (State.pageEnd s p) := by
  unfold State.pageEnd
  repeat' (first
    | with_reducible assumption
    | with_reducible apply State.beginErase_keep
    | with_reducible apply State.nvpEnd_keep
    | with_reducible apply State.nvpGo_keep
    | with_reducible apply Keep.upNvp
    | with_reducible apply Keep.ite
    | (extract_lets +onlyGivenNames y; (first | ((have hy : Keep L o₀ y := (by unfold y; repeat' (first | with_reducible assumption | with_reducible apply State.beginErase_keep | with_reducible apply State.nvpEnd_keep | with_reducible apply State.nvpGo_keep | with_reducible apply Keep.upNvp | with_reducible apply Keep.ite | extract_lets | split))); clear_value y) | clear_value y | skip))
    | split)

theorem State.wornOut_keep {o₀ s : State} (hK : Keep L o₀ s) (p : PageStep) (lFio : L.fio = true := by first | rfl | assumption) (lNet : L.net = true := by first | rfl | assumption) (lCan : L.can = true := by first | rfl | assumption) (lDict : L.dict = true := by first | rfl | assumption) (lHost : L.host = true := by first | rfl | assumption) (lEvr : L.evr = true := by first | rfl | assumption) (lNvp : L.nvp = true := by first | rfl | assumption) (lRtc : L.rtc = true := by first | rfl | assumption) (lFree : L.free = true := by first | rfl | assumption) : Keep L o₀ (State.wornOut s p) := by
  unfold State.wornOut
  repeat' (first
    | with_reducible assumption
    | with_reducible apply State.nvpCauseSev_keep
    | with_reducible apply State.nvpEnd_keep
    | with_reducible apply State.nvpGo_keep
    | with_reducible apply Keep.upNvp
    | with_reducible apply Keep.ite
    | (extract_lets +onlyGivenNames y; (first | ((have hy : Keep L o₀ y := (by unfold y; repeat' (first | with_reducible assumption | with_reducible apply State.nvpCauseSev_keep | with_reducible apply State.nvpEnd_keep | with_reducible apply State.nvpGo_keep | with_reducible apply Keep.upNvp | with_reducible apply Keep.ite | extract_lets | split))); clear_value y) | clear_value y | skip))
    | split)

theorem State.programmed_keep {o₀ s : State} (hK : Keep L o₀ s) (p : PageStep) (lFio : L.fio = true := by first | rfl | assumption) (lNet : L.net = true := by first | rfl | assumption) (lCan : L.can = true := by first | rfl | assumption) (lDict : L.dict = true := by first | rfl | assumption) (lHost : L.host = true := by first | rfl | assumption) (lEvr : L.evr = true := by first | rfl | assumption) (lNvp : L.nvp = true := by first | rfl | assumption) (lRtc : L.rtc = true := by first | rfl | assumption) (lFree : L.free = true := by first | rfl | assumption) : Keep L o₀ (State.programmed s p) := by
  unfold State.programmed
  repeat' (first
    | with_reducible assumption
    | with_reducible apply State.nvpCause_keep
    | with_reducible apply State.pageEnd_keep
    | with_reducible apply Keep.upNvp
    | with_reducible apply Keep.ite
    | (extract_lets +onlyGivenNames y; (first | ((have hy : Keep L o₀ y := (by unfold y; repeat' (first | with_reducible assumption | with_reducible apply State.nvpCause_keep | with_reducible apply State.pageEnd_keep | with_reducible apply Keep.upNvp | with_reducible apply Keep.ite | extract_lets | split))); clear_value y) | clear_value y | skip))
    | split)

theorem State.programFailed_keep {o₀ s : State} (hK : Keep L o₀ s) (p : PageStep) (g : Nat) (lFio : L.fio = true := by first | rfl | assumption) (lNet : L.net = true := by first | rfl | assumption) (lCan : L.can = true := by first | rfl | assumption) (lDict : L.dict = true := by first | rfl | assumption) (lHost : L.host = true := by first | rfl | assumption) (lEvr : L.evr = true := by first | rfl | assumption) (lNvp : L.nvp = true := by first | rfl | assumption) (lRtc : L.rtc = true := by first | rfl | assumption) (lFree : L.free = true := by first | rfl | assumption) : Keep L o₀ (State.programFailed s p g) := by
  unfold State.programFailed
  repeat' (first
    | with_reducible assumption
    | with_reducible apply State.beginErase_keep
    | with_reducible apply State.wornOut_keep
    | with_reducible apply Keep.upNvp
    | with_reducible apply Keep.ite
    | (extract_lets +onlyGivenNames y; (first | ((have hy : Keep L o₀ y := (by unfold y; repeat' (first | with_reducible assumption | with_reducible apply State.beginErase_keep | with_reducible apply State.wornOut_keep | with_reducible apply Keep.upNvp | with_reducible apply Keep.ite | extract_lets | split))); clear_value y) | clear_value y | skip))
    | split)

theorem State.pageStepDone_keep {o₀ s : State} (hK : Keep L o₀ s) (bad : Option Nat) (lFio : L.fio = true := by first | rfl | assumption) (lNet : L.net = true := by first | rfl | assumption) (lCan : L.can = true := by first | rfl | assumption) (lDict : L.dict = true := by first | rfl | assumption) (lHost : L.host = true := by first | rfl | assumption) (lEvr : L.evr = true := by first | rfl | assumption) (lNvp : L.nvp = true := by first | rfl | assumption) (lRtc : L.rtc = true := by first | rfl | assumption) (lFree : L.free = true := by first | rfl | assumption) : Keep L o₀ (State.pageStepDone s bad) := by
  unfold State.pageStepDone
  repeat' (first
    | with_reducible assumption
    | with_reducible apply State.pageEnd_keep
    | with_reducible apply State.programmed_keep
    | with_reducible apply State.programFailed_keep
    | with_reducible apply Keep.upNvp
    | with_reducible apply Keep.ite
    | (extract_lets +onlyGivenNames y; (first | ((have hy : Keep L o₀ y := (by unfold y; repeat' (first | with_reducible assumption | with_reducible apply State.pageEnd_keep | with_reducible apply State.programmed_keep | with_reducible apply State.programFailed_keep | with_reducible apply Keep.upNvp | with_reducible apply Keep.ite | extract_lets | split))); clear_value y) | clear_value y | skip))
    | split)

theorem State.cutPageStep_keep {o₀ s : State} (hK : Keep L o₀ s) (cut : List Nat) (lNvp : L.nvp = true := by first | rfl | assumption) : Keep L o₀ (State.cutPageStep s cut) := by
  unfold State.cutPageStep
  repeat' (first
    | with_reducible assumption
    | with_reducible apply Keep.upNvp
    | with_reducible refine Keep.foldl (fun _ _ _ => ?_) _ ?_
    | with_reducible refine Keep.foldl1 (fun _ _ _ _ => ?_) _ ?_
    | with_reducible refine Keep.foldl2 (fun _ _ _ _ => ?_) _ ?_
    | with_reducible apply Keep.ite
    | (extract_lets +onlyGivenNames y; (first | ((have hy : Keep L o₀ y := (by unfold y; repeat' (first | with_reducible assumption | with_reducible apply Keep.upNvp | with_reducible refine Keep.foldl (fun _ _ _ => ?_) _ ?_ | with_reducible refine Keep.foldl1 (fun _ _ _ _ => ?_) _ ?_ | with_reducible refine Keep.foldl2 (fun _ _ _ _ => ?_) _ ?_ | with_reducible apply Keep.ite | extract_lets | split))); clear_value y) | ((have hy : Keep L o₀ y.1 := (by unfold y; repeat' (first | with_reducible assumption | with_reducible apply Keep.upNvp | with_reducible refine Keep.foldl (fun _ _ _ => ?_) _ ?_ | with_reducible refine Keep.foldl1 (fun _ _ _ _ => ?_) _ ?_ | with_reducible refine Keep.foldl2 (fun _ _ _ _ => ?_) _ ?_ | with_reducible apply Keep.ite | extract_lets | split))); clear_value y) | ((have hy : Keep L o₀ y.2 := (by unfold y; repeat' (first | with_reducible assumption | with_reducible apply Keep.upNvp | with_reducible refine Keep.foldl (fun _ _ _ => ?_) _ ?_ | with_reducible refine Keep.foldl1 (fun _ _ _ _ => ?_) _ ?_ | with_reducible refine Keep.foldl2 (fun _ _ _ _ => ?_) _ ?_ | with_reducible apply Keep.ite | extract_lets | split))); clear_value y) | clear_value y | skip))
    | split)

theorem State.torn_keep {o₀ s : State} (hK : Keep L o₀ s) (k : Nat) (lEvr : L.evr = true := by first | rfl | assumption) (lNvp : L.nvp = true := by first | rfl | assumption) : Keep L o₀ (State.torn s k) := by
  unfold State.torn
  repeat' (first
    | with_reducible assumption
    | with_reducible apply State.nvpCauseSev_keep
    | with_reducible apply Keep.upNvp
    | with_reducible apply Keep.ite
    | split)

theorem State.waxVisit_keep {o₀ s : State} (hK : Keep L o₀ s) (weak : Bool) (ecc : List Ecc) (lHost : L.host = true := by first | rfl | assumption) (lEvr : L.evr = true := by first | rfl | assumption) (lNvp : L.nvp = true := by first | rfl | assumption) : Keep L o₀ (State.waxVisit s weak ecc) := by
  unfold State.waxVisit
  repeat' (first
    | with_reducible assumption
    | with_reducible apply State.takeEcc_keep
    | with_reducible apply State.pageUncorr_keep
    | with_reducible apply State.torn_keep
    | with_reducible apply State.beginPages_keep
    | with_reducible apply Keep.upNvp
    | with_reducible apply Keep.ite
    | (extract_lets +onlyGivenNames y; (first | ((have hy : Keep L o₀ y := (by unfold y; repeat' (first | with_reducible assumption | with_reducible apply State.takeEcc_keep | with_reducible apply State.pageUncorr_keep | with_reducible apply State.torn_keep | with_reducible apply State.beginPages_keep | with_reducible apply Keep.upNvp | with_reducible apply Keep.ite | extract_lets | split))); clear_value y) | clear_value y | skip))
    | split)

theorem State.nvpWrite_keep {o₀ s : State} (hK : Keep L o₀ s) (m : Master) (off : Nat) (v : Word) (priv : Bool) (ecc : List Ecc) (lFio : L.fio = true := by first | rfl | assumption) (lNet : L.net = true := by first | rfl | assumption) (lCan : L.can = true := by first | rfl | assumption) (lDict : L.dict = true := by first | rfl | assumption) (lHost : L.host = true := by first | rfl | assumption) (lEvr : L.evr = true := by first | rfl | assumption) (lNvp : L.nvp = true := by first | rfl | assumption) (lRtc : L.rtc = true := by first | rfl | assumption) (lFree : L.free = true := by first | rfl | assumption) : WriteAns.Kept L o₀ (State.nvpWrite s m off v priv ecc) := by
  unfold State.nvpWrite
  repeat' (first
    | with_reducible assumption
    | with_reducible apply State.nvpGive_keep
    | with_reducible apply State.upMregs_keep
    | with_reducible apply State.rawRead_keep
    | with_reducible apply refused_kept
    | with_reducible apply refusedIn_kept
    | with_reducible apply done_kept
    | with_reducible apply needPriv_kept
    | with_reducible apply needOpen_kept
    | with_reducible apply needLegal_kept
    | with_reducible apply Keep.upNvp
    | with_reducible apply ite_kept
    | with_reducible apply Keep.ite
    | (extract_lets +onlyGivenNames y; (first | ((have hy : Keep L o₀ y := (by unfold y; repeat' (first | with_reducible assumption | with_reducible apply State.nvpGive_keep | with_reducible apply State.upMregs_keep | with_reducible apply State.rawRead_keep | with_reducible apply refused_kept | with_reducible apply refusedIn_kept | with_reducible apply done_kept | with_reducible apply needPriv_kept | with_reducible apply needOpen_kept | with_reducible apply needLegal_kept | with_reducible apply Keep.upNvp | with_reducible apply ite_kept | with_reducible apply Keep.ite | extract_lets | split))); clear_value y) | clear_value y | skip))
    | split)

theorem execWaxPassVisit_keep {s s₂ : State} (weak : Bool) (ecc : List Ecc) (hx : execWaxPassVisit weak ecc s = .next s₂) (lHost : L.host = true := by first | rfl | assumption) (lEvr : L.evr = true := by first | rfl | assumption) (lNvp : L.nvp = true := by first | rfl | assumption) : Keep L s s₂ := by
  unfold execWaxPassVisit at hx
  with_reducible refine Keep.commit ?_ hx
  clear hx
  have hK := Keep.refl (L := L) s
  repeat' (first
    | with_reducible assumption
    | with_reducible apply State.waxVisit_keep
    | with_reducible apply Keep.ite
    | split)

theorem execWaxPassBegin_keep {s s₂ : State} (t : Nat) (hx : execWaxPassBegin t s = .next s₂) (lClk : L.clk = true := by first | rfl | assumption) (lNvp : L.nvp = true := by first | rfl | assumption) : Keep L s s₂ := by
  unfold execWaxPassBegin at hx
  with_reducible refine Keep.commit ?_ hx
  clear hx
  have hK := Keep.refl (L := L) s
  repeat' (first
    | with_reducible assumption
    | with_reducible apply State.reach_keep
    | with_reducible apply Keep.upNvp
    | with_reducible apply Keep.ite
    | (extract_lets +onlyGivenNames y; (first | ((have hy : Keep L s y := (by unfold y; repeat' (first | with_reducible assumption | with_reducible apply State.reach_keep | with_reducible apply Keep.upNvp | with_reducible apply Keep.ite | extract_lets | split))); clear_value y) | clear_value y | skip))
    | split)

theorem execWaxLate_keep {s s₂ : State} (t : Nat) (hx : execWaxLate t s = .next s₂) (lClk : L.clk = true := by first | rfl | assumption) (lEvr : L.evr = true := by first | rfl | assumption) (lNvp : L.nvp = true := by first | rfl | assumption) : Keep L s s₂ := by
  unfold execWaxLate at hx
  with_reducible refine Keep.commit ?_ hx
  clear hx
  have hK := Keep.refl (L := L) s
  repeat' (first
    | with_reducible assumption
    | with_reducible apply State.reach_keep
    | with_reducible apply State.nvpCause_keep
    | with_reducible apply Keep.upNvp
    | with_reducible apply Keep.ite
    | (extract_lets +onlyGivenNames y; (first | ((have hy : Keep L s y := (by unfold y; repeat' (first | with_reducible assumption | with_reducible apply State.reach_keep | with_reducible apply State.nvpCause_keep | with_reducible apply Keep.upNvp | with_reducible apply Keep.ite | extract_lets | split))); clear_value y) | clear_value y | skip))
    | split)

end Sys2Proof.Machine
end

