-- ==== Sys2Proof/Laws/KeepFirmware.lean ====
section
/-! SUPPORT. What each operation of Machine/Firmware.lean keeps (Laws/Keep.lean). -/

set_option Elab.async false
set_option linter.all false

namespace Sys2Proof.Machine

open Sys2Proof

set_option linter.unusedVariables false
set_option linter.tactic.unusedName false

variable {L : Parts}

theorem State.upBank_keep {o₀ s : State} (hK : Keep L o₀ s) (k : Nat) (f : Bank → Bank) (lFw : L.fw = true := by first | rfl | assumption) : Keep L o₀ (State.upBank s k f) := by
  unfold State.upBank
  repeat' (first
    | with_reducible assumption
    | with_reducible apply Keep.upFw
    | with_reducible apply Keep.ite
    | split)

theorem State.fwResult_keep {o₀ s : State} (hK : Keep L o₀ s) (code : Nat) (lFw : L.fw = true := by first | rfl | assumption) : Keep L o₀ (State.fwResult s code) := by
  unfold State.fwResult
  repeat' (first
    | with_reducible assumption
    | with_reducible apply Keep.upFw
    | with_reducible apply Keep.ite
    | split)

theorem State.endLoad_keep {o₀ s : State} (hK : Keep L o₀ s) (code : Nat) (mark : Bool) (lFw : L.fw = true := by first | rfl | assumption) : Keep L o₀ (State.endLoad s code mark) := by
  unfold State.endLoad
  repeat' (first
    | with_reducible assumption
    | with_reducible apply State.fwResult_keep
    | with_reducible apply State.upBank_keep
    | with_reducible apply Keep.upFw
    | with_reducible apply Keep.ite
    | (extract_lets +onlyGivenNames y; (first | ((have hy : Keep L o₀ y := (by unfold y; repeat' (first | with_reducible assumption | with_reducible apply State.fwResult_keep | with_reducible apply State.upBank_keep | with_reducible apply Keep.upFw | with_reducible apply Keep.ite | extract_lets | split))); clear_value y) | clear_value y | skip))
    | split)

theorem State.fwAnswer_keep {o₀ s : State} (hK : Keep L o₀ s) (status : Nat) (lNet : L.net = true := by first | rfl | assumption) (lCan : L.can = true := by first | rfl | assumption) (lDict : L.dict = true := by first | rfl | assumption) (lEvr : L.evr = true := by first | rfl | assumption) (lFw : L.fw = true := by first | rfl | assumption) : Keep L o₀ (State.fwAnswer s status) := by
  unfold State.fwAnswer
  repeat' (first
    | with_reducible assumption
    | with_reducible apply State.answer_keep
    | with_reducible apply Keep.upFw
    | with_reducible apply Keep.ite
    | split)

theorem State.fwFirst_keep {o₀ s : State} (hK : Keep L o₀ s) (data : List Byte) (last : Bool) (reply : Option Reply) (lFw : L.fw = true := by first | rfl | assumption) : Keep L o₀ (State.fwFirst s data last reply).1 := by
  unfold State.fwFirst
  repeat' (first
    | with_reducible assumption
    | with_reducible apply State.fwResult_keep
    | with_reducible apply State.upBank_keep
    | with_reducible apply Keep.upFw
    | with_reducible apply Keep.ite2
    | with_reducible apply Keep.ite1
    | with_reducible apply Keep.ite
    | (extract_lets +onlyGivenNames y; (first | ((have hy : Keep L o₀ y := (by unfold y; repeat' (first | with_reducible assumption | with_reducible apply State.fwResult_keep | with_reducible apply State.upBank_keep | with_reducible apply Keep.upFw | with_reducible apply Keep.ite2 | with_reducible apply Keep.ite1 | with_reducible apply Keep.ite | extract_lets | split))); clear_value y) | ((have hy : Keep L o₀ y.1 := (by unfold y; repeat' (first | with_reducible assumption | with_reducible apply State.fwResult_keep | with_reducible apply State.upBank_keep | with_reducible apply Keep.upFw | with_reducible apply Keep.ite2 | with_reducible apply Keep.ite1 | with_reducible apply Keep.ite | extract_lets | split))); clear_value y) | ((have hy : Keep L o₀ y.2 := (by unfold y; repeat' (first | with_reducible assumption | with_reducible apply State.fwResult_keep | with_reducible apply State.upBank_keep | with_reducible apply Keep.upFw | with_reducible apply Keep.ite2 | with_reducible apply Keep.ite1 | with_reducible apply Keep.ite | extract_lets | split))); clear_value y) | clear_value y | skip))
    | split)

theorem State.fwSegment_keep {o₀ s : State} (hK : Keep L o₀ s) (off : Nat) (data : List Byte) (last : Bool) (reply : Option Reply) (lFw : L.fw = true := by first | rfl | assumption) : Keep L o₀ (State.fwSegment s off data last reply).1 := by
  unfold State.fwSegment
  repeat' (first
    | with_reducible assumption
    | with_reducible apply State.fwFirst_keep
    | with_reducible apply State.endLoad_keep
    | with_reducible apply Keep.upFw
    | with_reducible apply Keep.ite2
    | with_reducible apply Keep.ite1
    | with_reducible apply Keep.ite
    | with_reducible refine Keep.of_eq1 ?_ (by assumption)
    | with_reducible refine Keep.of_eq2 ?_ (by assumption)
    | split)

theorem State.fwPlaced_keep {o₀ s : State} (hK : Keep L o₀ s) (l : FwLoad) (lNet : L.net = true := by first | rfl | assumption) (lCan : L.can = true := by first | rfl | assumption) (lDict : L.dict = true := by first | rfl | assumption) (lEvr : L.evr = true := by first | rfl | assumption) (lFw : L.fw = true := by first | rfl | assumption) : Keep L o₀ (State.fwPlaced s l) := by
  unfold State.fwPlaced
  repeat' (first
    | with_reducible assumption
    | with_reducible apply State.fwAnswer_keep
    | with_reducible apply State.endLoad_keep
    | with_reducible apply Keep.upFw
    | with_reducible apply Keep.ite
    | (extract_lets +onlyGivenNames y; (first | ((have hy : Keep L o₀ y := (by unfold y; repeat' (first | with_reducible assumption | with_reducible apply State.fwAnswer_keep | with_reducible apply State.endLoad_keep | with_reducible apply Keep.upFw | with_reducible apply Keep.ite | extract_lets | split))); clear_value y) | clear_value y | skip))
    | split)

theorem State.fwBankStep_keep {o₀ s : State} (hK : Keep L o₀ s) (ok : Bool) (lNet : L.net = true := by first | rfl | assumption) (lCan : L.can = true := by first | rfl | assumption) (lDict : L.dict = true := by first | rfl | assumption) (lEvr : L.evr = true := by first | rfl | assumption) (lFw : L.fw = true := by first | rfl | assumption) : Keep L o₀ (State.fwBankStep s ok) := by
  unfold State.fwBankStep
  repeat' (first
    | with_reducible assumption
    | with_reducible apply State.ok_keep
    | with_reducible apply State.fwAnswer_keep
    | with_reducible apply State.endLoad_keep
    | with_reducible apply State.upBank_keep
    | with_reducible apply State.fwPlaced_keep
    | with_reducible apply Keep.ite
    | split)

theorem State.fwRead_keep {o₀ s : State} (hK : Keep L o₀ s) (x : Ecc) (lSto : L.sto = true := by first | rfl | assumption) (lHost : L.host = true := by first | rfl | assumption) (lEvr : L.evr = true := by first | rfl | assumption) (lFw : L.fw = true := by first | rfl | assumption) : Keep L o₀ (State.fwRead s x) := by
  unfold State.fwRead
  repeat' (first
    | with_reducible assumption
    | with_reducible apply State.upBank_keep
    | with_reducible apply State.upMregs_keep
    | with_reducible apply State.uncorrectable_keep
    | with_reducible apply State.corrected_keep
    | with_reducible apply Keep.ite
    | split)

theorem State.fwReads_keep {o₀ s : State} (hK : Keep L o₀ s) (l : List Ecc) (lSto : L.sto = true := by first | rfl | assumption) (lHost : L.host = true := by first | rfl | assumption) (lEvr : L.evr = true := by first | rfl | assumption) (lFw : L.fw = true := by first | rfl | assumption) : Keep L o₀ (State.fwReads s l) := by
  unfold State.fwReads
  repeat' (first
    | with_reducible assumption
    | with_reducible apply State.fwRead_keep
    | with_reducible refine Keep.foldl (fun _ _ _ => ?_) _ ?_
    | with_reducible refine Keep.foldl1 (fun _ _ _ _ => ?_) _ ?_
    | with_reducible refine Keep.foldl2 (fun _ _ _ _ => ?_) _ ?_
    | with_reducible apply Keep.ite
    | split)

theorem State.fwVerified_keep {o₀ s : State} (hK : Keep L o₀ s) (signed : Bool) (lNet : L.net = true := by first | rfl | assumption) (lCan : L.can = true := by first | rfl | assumption) (lDict : L.dict = true := by first | rfl | assumption) (lEvr : L.evr = true := by first | rfl | assumption) (lFw : L.fw = true := by first | rfl | assumption) : Keep L o₀ (State.fwVerified s signed) := by
  unfold State.fwVerified
  repeat' (first
    | with_reducible assumption
    | with_reducible apply State.fwAnswer_keep
    | with_reducible apply State.endLoad_keep
    | with_reducible apply State.upBank_keep
    | with_reducible apply Keep.ite
    | (extract_lets +onlyGivenNames y; (first | ((have hy : Keep L o₀ y := (by unfold y; repeat' (first | with_reducible assumption | with_reducible apply State.fwAnswer_keep | with_reducible apply State.endLoad_keep | with_reducible apply State.upBank_keep | with_reducible apply Keep.ite | extract_lets | split))); clear_value y) | clear_value y | skip))
    | split)

theorem State.fwAbandon_keep {o₀ s : State} (hK : Keep L o₀ s) (lNet : L.net = true := by first | rfl | assumption) (lCan : L.can = true := by first | rfl | assumption) (lDict : L.dict = true := by first | rfl | assumption) (lEvr : L.evr = true := by first | rfl | assumption) (lFw : L.fw = true := by first | rfl | assumption) : Keep L o₀ (State.fwAbandon s) := by
  unfold State.fwAbandon
  repeat' (first
    | with_reducible assumption
    | with_reducible apply State.fwAnswer_keep
    | with_reducible apply State.endLoad_keep
    | with_reducible apply Keep.ite
    | split)

theorem State.fwReset_keep {o₀ s : State} (hK : Keep L o₀ s) (lFw : L.fw = true := by first | rfl | assumption) : Keep L o₀ (State.fwReset s).1 := by
  unfold State.fwReset
  repeat' (first
    | with_reducible assumption
    | with_reducible apply State.endLoad_keep
    | with_reducible apply Keep.ite2
    | with_reducible apply Keep.ite1
    | with_reducible apply Keep.ite
    | split)

theorem State.fwPowerLoss_keep {o₀ s : State} (hK : Keep L o₀ s) (headErased : Bool) (lFw : L.fw = true := by first | rfl | assumption) : Keep L o₀ (State.fwPowerLoss s headErased) := by
  unfold State.fwPowerLoss
  repeat' (first
    | with_reducible assumption
    | with_reducible apply State.endLoad_keep
    | with_reducible apply State.upBank_keep
    | with_reducible apply Keep.ite
    | (extract_lets +onlyGivenNames y; (first | ((have hy : Keep L o₀ y := (by unfold y; repeat' (first | with_reducible assumption | with_reducible apply State.endLoad_keep | with_reducible apply State.upBank_keep | with_reducible apply Keep.ite | extract_lets | split))); clear_value y) | clear_value y | skip))
    | split)

theorem State.bootCheck_keep {o₀ s : State} (hK : Keep L o₀ s) (signed : List Nat) (k : Nat) (lFw : L.fw = true := by first | rfl | assumption) : Keep L o₀ (State.bootCheck s signed k) := by
  unfold State.bootCheck
  repeat' (first
    | with_reducible assumption
    | with_reducible apply State.upBank_keep
    | with_reducible apply Keep.ite
    | split)

theorem State.bootBanks_keep {o₀ s : State} (hK : Keep L o₀ s) (signed : List Nat) (lFw : L.fw = true := by first | rfl | assumption) : Keep L o₀ (State.bootBanks s signed) := by
  unfold State.bootBanks
  repeat' (first
    | with_reducible assumption
    | with_reducible apply State.bootCheck_keep
    | with_reducible apply Keep.upFw
    | with_reducible apply Keep.ite
    | (extract_lets +onlyGivenNames y; (first | ((have hy : Keep L o₀ y := (by unfold y; repeat' (first | with_reducible assumption | with_reducible apply State.bootCheck_keep | with_reducible apply Keep.upFw | with_reducible apply Keep.ite | extract_lets | split))); clear_value y) | clear_value y | skip))
    | split)

theorem execFwImageSegment_keep {s s₂ : State} (off : Nat) (data : List Byte) (last : Bool) (hx : execFwImageSegment off data last s = .next s₂) (lFw : L.fw = true := by first | rfl | assumption) : Keep L s s₂ := by
  unfold execFwImageSegment at hx
  with_reducible refine Keep.commit ?_ hx
  clear hx
  have hK := Keep.refl (L := L) s
  repeat' (first
    | with_reducible assumption
    | with_reducible apply State.fwSegment_keep
    | with_reducible apply Keep.ite
    | with_reducible refine Keep.of_eq1 ?_ (by assumption)
    | with_reducible refine Keep.of_eq2 ?_ (by assumption)
    | split)

theorem execFwBankStepDone_keep {s s₂ : State} (ok : Bool) (hx : execFwBankStepDone ok s = .next s₂) (lNet : L.net = true := by first | rfl | assumption) (lCan : L.can = true := by first | rfl | assumption) (lDict : L.dict = true := by first | rfl | assumption) (lEvr : L.evr = true := by first | rfl | assumption) (lFw : L.fw = true := by first | rfl | assumption) : Keep L s s₂ := by
  unfold execFwBankStepDone at hx
  with_reducible refine Keep.commit ?_ hx
  clear hx
  have hK := Keep.refl (L := L) s
  repeat' (first
    | with_reducible assumption
    | with_reducible apply State.fwBankStep_keep
    | with_reducible apply State.ok_keep
    | with_reducible apply Keep.ite
    | split)

theorem execFwVerifyDone_keep {s s₂ : State} (signed : Bool) (ecc : List Ecc) (hx : execFwVerifyDone signed ecc s = .next s₂) (lSto : L.sto = true := by first | rfl | assumption) (lNet : L.net = true := by first | rfl | assumption) (lCan : L.can = true := by first | rfl | assumption) (lDict : L.dict = true := by first | rfl | assumption) (lHost : L.host = true := by first | rfl | assumption) (lEvr : L.evr = true := by first | rfl | assumption) (lFw : L.fw = true := by first | rfl | assumption) : Keep L s s₂ := by
  unfold execFwVerifyDone at hx
  with_reducible refine Keep.commit ?_ hx
  clear hx
  have hK := Keep.refl (L := L) s
  repeat' (first
    | with_reducible assumption
    | with_reducible apply State.fwReads_keep
    | with_reducible apply State.fwVerified_keep
    | with_reducible apply Keep.ite
    | split)

theorem execFwCmdAbandon_keep {s s₂ : State} (hx : execFwCmdAbandon s = .next s₂) (lNet : L.net = true := by first | rfl | assumption) (lCan : L.can = true := by first | rfl | assumption) (lDict : L.dict = true := by first | rfl | assumption) (lEvr : L.evr = true := by first | rfl | assumption) (lFw : L.fw = true := by first | rfl | assumption) : Keep L s s₂ := by
  unfold execFwCmdAbandon at hx
  with_reducible refine Keep.commit ?_ hx
  clear hx
  have hK := Keep.refl (L := L) s
  repeat' (first
    | with_reducible assumption
    | with_reducible apply State.fwAbandon_keep
    | with_reducible apply Keep.ite
    | split)

end Sys2Proof.Machine
end

