-- ==== Sys2Proof/Laws/Firmware.lean ====
section
/-! SUPPORT. What the steps of a firmware load leave in the banks and in the load (Machine/Firmware.lean). -/

set_option Elab.async false
set_option linter.all false

namespace Sys2Proof.Machine

open Sys2Proof

variable (s : State)

/-- The pending answer leaves; of the firmware state only the load's note of it changes. -/
theorem fwAnswer_fw {s : State} {l : FwLoad} (h : s.fw.load = some l) (st : Nat) :
    (s.fwAnswer st).fw = { s.fw with load := some { l with reply := none } } := by
  unfold State.fwAnswer
  rw [h]
  dsimp only
  cases hr : l.reply with
  | none =>
    dsimp only
    have : ({ l with reply := none } : FwLoad) = l := by cases l; simp_all
    rw [this, ← h]
  | some r =>
    dsimp only
    have := (State.answer_keep (L := { net := true, can := true, dict := true, evr := true }) (Keep.refl s) r st 0).frame.fw rfl
    rw [State.upFw_fw, this]

/-- The load that ends leaves its code; its bank is invalidated where the end says so. -/
theorem endLoad_fw {s : State} {l : FwLoad} (h : s.fw.load = some l) (code : Nat) (mark : Bool) :
    (s.endLoad code mark).fw = if mark then (if l.bank = 0 then { s.fw with load := none, result := code, bank0 := s.fw.bank0.invalidate }
      else { s.fw with load := none, result := code, bank1 := s.fw.bank1.invalidate }) else { s.fw with load := none, result := code } := by
  unfold State.endLoad
  rw [h]
  cases mark
  · rfl
  · unfold State.upBank
    simp only [if_true]
    by_cases hb : l.bank = 0
    · simp only [hb, if_true]; rfl
    · simp only [hb, if_false]; rfl

/-- Bank `k` after an update of it. -/
theorem upBank_same (k : Nat) (f : Bank → Bank) : (s.upBank k f).fw.bank k = f (s.fw.bank k) := by
  unfold State.upBank Fw.bank
  by_cases h : k = 0 <;> simp [h]

/-- A load that ends, with and without its bank invalidated. -/
theorem endLoad_end {s : State} {l : FwLoad} (h : s.fw.load = some l) (code : Nat) (mark : Bool) :
    (s.endLoad code mark).fw.load = none ∧ (s.endLoad code mark).fw.result = code ∧ (s.endLoad code mark).fw.active = s.fw.active ∧
    (s.endLoad code mark).fw.bank l.bank = (if mark then (s.fw.bank l.bank).invalidate else s.fw.bank l.bank) := by
  rw [endLoad_fw h]
  unfold Fw.bank
  cases mark
  · exact ⟨rfl, rfl, rfl, rfl⟩
  · by_cases hb : l.bank = 0
    · simp [hb]
    · simp [hb]

/-- A read of a bank changes neither the load nor the active bank; what it may change there is which groups are bad. -/
theorem fwRead_load (x : Ecc) :
    (s.fwRead x).fw.load = s.fw.load ∧ (s.fwRead x).fw.active = s.fw.active ∧ (s.fwRead x).fw.result = s.fw.result := by
  have hu : ∀ (z : State) m a, (z.uncorrectable m a).fw = z.fw := fun z m a =>
    (State.uncorrectable_keep (L := { sto := true, host := true, evr := true }) (Keep.refl z) m a).frame.fw rfl
  have hc : ∀ (z : State) m a, (z.corrected m a).fw = z.fw := fun z m a =>
    (State.corrected_keep (L := { sto := true, host := true, evr := true }) (Keep.refl z) m a).frame.fw rfl
  unfold State.fwRead
  split
  · exact ⟨rfl, rfl, rfl⟩
  · split
    · rw [hu, (State.upMregs_keep (L := { host := true }) (Keep.refl _) _ _).frame.fw rfl]
      unfold State.upBank
      rw [State.upFw_fw]
      split <;> exact ⟨rfl, rfl, rfl⟩
    · rw [hc]; exact ⟨rfl, rfl, rfl⟩

/-- The same of a list of reads. -/
theorem fwReads_load (l : List Ecc) : ∀ s : State,
    (s.fwReads l).fw.load = s.fw.load ∧ (s.fwReads l).fw.active = s.fw.active ∧ (s.fwReads l).fw.result = s.fw.result := by
  induction l with
  | nil => exact fun s => ⟨rfl, rfl, rfl⟩
  | cons x l ih =>
    intro s
    obtain ⟨a, b, c⟩ := ih (s.fwRead x)
    obtain ⟨a', b', c'⟩ := fwRead_load s x
    exact ⟨a.trans a', b.trans b', c.trans c'⟩

end Sys2Proof.Machine
end

