-- ==== Sys2Proof/Laws/KeepPanel.lean ====
section
/-! SUPPORT. What each operation of Machine/Panel.lean keeps (Laws/Keep.lean). -/

set_option Elab.async false
set_option linter.all false

namespace Sys2Proof.Machine

open Sys2Proof

set_option linter.unusedVariables false
set_option linter.tactic.unusedName false

variable {L : Parts}

theorem State.fioWrite_keep {o₀ s : State} (hK : Keep L o₀ s) (off : Nat) (v : Word) (lFio : L.fio = true := by first | rfl | assumption) : WriteAns.Kept L o₀ (State.fioWrite s off v) := by
  unfold State.fioWrite
  repeat' (first
    | with_reducible assumption
    | with_reducible apply State.ackGroups_keep
    | with_reducible apply refused_kept
    | with_reducible apply refusedIn_kept
    | with_reducible apply done_kept
    | with_reducible apply needPriv_kept
    | with_reducible apply needOpen_kept
    | with_reducible apply needLegal_kept
    | with_reducible apply Keep.upFio
    | with_reducible apply ite_kept
    | with_reducible apply Keep.ite
    | split)

theorem State.metWord_keep {o₀ s : State} (hK : Keep L o₀ s) (m : Master) (k : Nat) (i : Nat) (lHost : L.host = true := by first | rfl | assumption) : Keep L o₀ (State.metWord s m k i).2 := by
  unfold State.metWord
  repeat' (first
    | with_reducible assumption
    | with_reducible apply State.upMregs_keep
    | with_reducible apply Keep.ite2
    | with_reducible apply Keep.ite1
    | with_reducible apply Keep.ite
    | (extract_lets +onlyGivenNames y; (first | ((have hy : Keep L o₀ y := (by unfold y; repeat' (first | with_reducible assumption | with_reducible apply State.upMregs_keep | with_reducible apply Keep.ite2 | with_reducible apply Keep.ite1 | with_reducible apply Keep.ite | extract_lets | split))); clear_value y) | ((have hy : Keep L o₀ y.1 := (by unfold y; repeat' (first | with_reducible assumption | with_reducible apply State.upMregs_keep | with_reducible apply Keep.ite2 | with_reducible apply Keep.ite1 | with_reducible apply Keep.ite | extract_lets | split))); clear_value y) | ((have hy : Keep L o₀ y.2 := (by unfold y; repeat' (first | with_reducible assumption | with_reducible apply State.upMregs_keep | with_reducible apply Keep.ite2 | with_reducible apply Keep.ite1 | with_reducible apply Keep.ite | extract_lets | split))); clear_value y) | clear_value y | skip))
    | split)

theorem State.metRead_keep {o₀ s : State} (hK : Keep L o₀ s) (m : Master) (off : Nat) (lHost : L.host = true := by first | rfl | assumption) : Keep L o₀ (State.metRead s m off).2 := by
  unfold State.metRead
  repeat' (first
    | with_reducible assumption
    | with_reducible apply State.metWord_keep
    | with_reducible apply Keep.ite2
    | with_reducible apply Keep.ite1
    | with_reducible apply Keep.ite
    | with_reducible refine Keep.of_eq1 ?_ (by assumption)
    | with_reducible refine Keep.of_eq2 ?_ (by assumption)
    | split)

theorem State.metWrite_keep {o₀ s : State} (hK : Keep L o₀ s) (m : Master) (off : Nat) (v : Word) (lHost : L.host = true := by first | rfl | assumption) (lMet : L.met = true := by first | rfl | assumption) : WriteAns.Kept L o₀ (State.metWrite s m off v) := by
  unfold State.metWrite
  repeat' (first
    | with_reducible assumption
    | with_reducible apply State.upMregs_keep
    | with_reducible apply refused_kept
    | with_reducible apply refusedIn_kept
    | with_reducible apply done_kept
    | with_reducible apply needPriv_kept
    | with_reducible apply needOpen_kept
    | with_reducible apply needLegal_kept
    | with_reducible refine Keep.upMet ?_ (MetKeep.same ?_ ?_ ?_)
    | exact Eq.refl _
    | with_reducible apply ite_kept
    | with_reducible apply Keep.ite
    | split)

end Sys2Proof.Machine
end

