-- ==== Sys2Proof/Laws/KeepRecorder.lean ====
section
/-! SUPPORT. What each operation of Machine/Recorder.lean keeps (Laws/Keep.lean). -/

set_option Elab.async false
set_option linter.all false

namespace Sys2Proof.Machine

open Sys2Proof

set_option linter.unusedVariables false
set_option linter.tactic.unusedName false

variable {L : Parts}

theorem State.latchRecord_keep {o₀ s : State} (hK : Keep L o₀ s) (m : Master) (lHost : L.host = true := by first | rfl | assumption) (lEvr : L.evr = true := by first | rfl | assumption) : Keep L o₀ (State.latchRecord s m) := by
  unfold State.latchRecord
  repeat' (first
    | with_reducible assumption
    | with_reducible apply State.upMregs_keep
    | with_reducible apply State.evrCause_keep
    | with_reducible apply Keep.ite
    | (extract_lets +onlyGivenNames y; (first | ((have hy : Keep L o₀ y := (by unfold y; repeat' (first | with_reducible assumption | with_reducible apply State.upMregs_keep | with_reducible apply State.evrCause_keep | with_reducible apply Keep.ite | extract_lets | split))); clear_value y) | clear_value y | skip))
    | split)

theorem State.recordUncorr_keep {o₀ s : State} (hK : Keep L o₀ s) (i : Nat) (lHost : L.host = true := by first | rfl | assumption) (lEvr : L.evr = true := by first | rfl | assumption) : Keep L o₀ (State.recordUncorr s i) := by
  unfold State.recordUncorr
  repeat' (first
    | with_reducible assumption
    | with_reducible apply State.uncorrectable_keep
    | with_reducible apply State.evrCause_keep
    | with_reducible refine Keep.upEvr ?_ (fun xk => ?_)
    | exact xk
    | with_reducible apply Keep.ite
    | (extract_lets +onlyGivenNames y; (first | ((have hy : Keep L o₀ y := (by unfold y; repeat' (first | with_reducible assumption | with_reducible apply State.uncorrectable_keep | with_reducible apply State.evrCause_keep | with_reducible refine Keep.upEvr ?_ (fun xk => ?_) | exact xk | with_reducible apply Keep.ite | extract_lets | split))); clear_value y) | clear_value y | skip))
    | split)

theorem State.recorderReads_keep {o₀ s : State} (hK : Keep L o₀ s) (l : List Ecc) (lSto : L.sto = true := by first | rfl | assumption) (lHost : L.host = true := by first | rfl | assumption) (lEvr : L.evr = true := by first | rfl | assumption) : Keep L o₀ (State.recorderReads s l) := by
  unfold State.recorderReads
  repeat' (first
    | with_reducible assumption
    | with_reducible apply State.recordUncorr_keep
    | with_reducible apply State.corrected_keep
    | with_reducible refine Keep.foldl (fun _ _ _ => ?_) _ ?_
    | with_reducible refine Keep.foldl1 (fun _ _ _ _ => ?_) _ ?_
    | with_reducible refine Keep.foldl2 (fun _ _ _ _ => ?_) _ ?_
    | with_reducible apply Keep.ite
    | split)

theorem State.windowWord_keep {o₀ s : State} (hK : Keep L o₀ s) (m : Master) (i : Nat) (lHost : L.host = true := by first | rfl | assumption) (lEvr : L.evr = true := by first | rfl | assumption) : Keep L o₀ (State.windowWord s m i).2 := by
  unfold State.windowWord
  repeat' (first
    | with_reducible assumption
    | with_reducible apply State.latchRecord_keep
    | with_reducible apply State.upMregs_keep
    | with_reducible apply Keep.ite2
    | with_reducible apply Keep.ite1
    | with_reducible apply Keep.ite
    | (extract_lets +onlyGivenNames y; (first | ((have hy : Keep L o₀ y := (by unfold y; repeat' (first | with_reducible assumption | with_reducible apply State.latchRecord_keep | with_reducible apply State.upMregs_keep | with_reducible apply Keep.ite2 | with_reducible apply Keep.ite1 | with_reducible apply Keep.ite | extract_lets | split))); clear_value y) | ((have hy : Keep L o₀ y.1 := (by unfold y; repeat' (first | with_reducible assumption | with_reducible apply State.latchRecord_keep | with_reducible apply State.upMregs_keep | with_reducible apply Keep.ite2 | with_reducible apply Keep.ite1 | with_reducible apply Keep.ite | extract_lets | split))); clear_value y) | ((have hy : Keep L o₀ y.2 := (by unfold y; repeat' (first | with_reducible assumption | with_reducible apply State.latchRecord_keep | with_reducible apply State.upMregs_keep | with_reducible apply Keep.ite2 | with_reducible apply Keep.ite1 | with_reducible apply Keep.ite | extract_lets | split))); clear_value y) | clear_value y | skip))
    | split)

theorem State.startClear_keep {o₀ s : State} (hK : Keep L o₀ s) (code : Nat) (lDict : L.dict = true := by first | rfl | assumption) (lEvr : L.evr = true := by first | rfl | assumption) : Keep L o₀ (State.startClear s code) := by
  unfold State.startClear
  repeat' (first
    | with_reducible assumption
    | with_reducible refine Keep.upDict ?_ ?_
    | with_reducible refine Keep.upEvr ?_ (fun xk => ?_)
    | exact Eq.refl _
    | exact xk
    | with_reducible apply Keep.ite
    | split)

theorem State.evrRead_keep {o₀ s : State} (hK : Keep L o₀ s) (m : Master) (off : Nat) (lHost : L.host = true := by first | rfl | assumption) (lEvr : L.evr = true := by first | rfl | assumption) : Keep L o₀ (State.evrRead s m off).2 := by
  unfold State.evrRead
  repeat' (first
    | with_reducible assumption
    | with_reducible apply State.windowWord_keep
    | with_reducible refine Keep.upEvr ?_ (fun xk => ?_)
    | exact xk
    | with_reducible apply Keep.ite2
    | with_reducible apply Keep.ite1
    | with_reducible apply Keep.ite
    | with_reducible refine Keep.of_eq1 ?_ (by assumption)
    | with_reducible refine Keep.of_eq2 ?_ (by assumption)
    | split)

theorem State.evrWrite_keep {o₀ s : State} (hK : Keep L o₀ s) (m : Master) (off : Nat) (v : Word) (priv : Bool) (lDict : L.dict = true := by first | rfl | assumption) (lHost : L.host = true := by first | rfl | assumption) (lEvr : L.evr = true := by first | rfl | assumption) : WriteAns.Kept L o₀ (State.evrWrite s m off v priv) := by
  unfold State.evrWrite
  repeat' (first
    | with_reducible assumption
    | with_reducible apply State.upMregs_keep
    | with_reducible apply State.startClear_keep
    | with_reducible apply refused_kept
    | with_reducible apply refusedIn_kept
    | with_reducible apply done_kept
    | with_reducible apply needPriv_kept
    | with_reducible apply needOpen_kept
    | with_reducible apply needLegal_kept
    | with_reducible refine Keep.upEvr ?_ (fun xk => ?_)
    | exact xk
    | with_reducible apply ite_kept
    | with_reducible apply Keep.ite
    | split)

theorem State.hostCheckin_keep {o₀ s : State} (hK : Keep L o₀ s) (i : Nat) (t : Nat) (lClk : L.clk = true := by first | rfl | assumption) (lClu : L.clu = true := by first | rfl | assumption) (lSto : L.sto = true := by first | rfl | assumption) (lCsw : L.csw = true := by first | rfl | assumption) (lFio : L.fio = true := by first | rfl | assumption) (lWdg : L.wdg = true := by first | rfl | assumption) (lEvr : L.evr = true := by first | rfl | assumption) (lTrc : L.trc = true := by first | rfl | assumption) : Keep L o₀ (State.hostCheckin s i t) := by
  unfold State.hostCheckin
  repeat' (first
    | with_reducible assumption
    | with_reducible apply State.wayCheckin_keep
    | with_reducible apply State.occur_keep
    | with_reducible apply Keep.ite
    | (extract_lets +onlyGivenNames y; (first | ((have hy : Keep L o₀ y := (by unfold y; repeat' (first | with_reducible assumption | with_reducible apply State.wayCheckin_keep | with_reducible apply State.occur_keep | with_reducible apply Keep.ite | extract_lets | split))); clear_value y) | clear_value y | skip))
    | split)

theorem State.clearResets_keep {o₀ s : State} (hK : Keep L o₀ s) (lWdg : L.wdg = true := by first | rfl | assumption) : Keep L o₀ (State.clearResets s) := by
  unfold State.clearResets
  repeat' (first
    | with_reducible assumption
    | with_reducible apply Keep.upWdg
    | with_reducible apply Keep.ite
    | split)

theorem State.wdgRead_keep {o₀ s : State} (hK : Keep L o₀ s) (off : Nat) : Keep L o₀ (State.wdgRead s off).2 := by
  unfold State.wdgRead
  repeat' (first
    | with_reducible assumption
    | with_reducible apply Keep.ite2
    | with_reducible apply Keep.ite1
    | with_reducible apply Keep.ite
    | (extract_lets +onlyGivenNames y; (first | ((have hy : Keep L o₀ y := (by unfold y; repeat' (first | with_reducible assumption | with_reducible apply Keep.ite2 | with_reducible apply Keep.ite1 | with_reducible apply Keep.ite | extract_lets | split))); clear_value y) | ((have hy : Keep L o₀ y.1 := (by unfold y; repeat' (first | with_reducible assumption | with_reducible apply Keep.ite2 | with_reducible apply Keep.ite1 | with_reducible apply Keep.ite | extract_lets | split))); clear_value y) | ((have hy : Keep L o₀ y.2 := (by unfold y; repeat' (first | with_reducible assumption | with_reducible apply Keep.ite2 | with_reducible apply Keep.ite1 | with_reducible apply Keep.ite | extract_lets | split))); clear_value y) | clear_value y | skip))
    | split)

theorem State.wdgWrite_keep {o₀ s : State} (hK : Keep L o₀ s) (off : Nat) (v : Word) (priv : Bool) (lClk : L.clk = true := by first | rfl | assumption) (lClu : L.clu = true := by first | rfl | assumption) (lSto : L.sto = true := by first | rfl | assumption) (lCsw : L.csw = true := by first | rfl | assumption) (lFio : L.fio = true := by first | rfl | assumption) (lWdg : L.wdg = true := by first | rfl | assumption) (lEvr : L.evr = true := by first | rfl | assumption) (lTrc : L.trc = true := by first | rfl | assumption) : WriteAns.Kept L o₀ (State.wdgWrite s off v priv) := by
  unfold State.wdgWrite
  repeat' (first
    | with_reducible assumption
    | with_reducible apply State.hostCheckin_keep
    | with_reducible apply State.clearResets_keep
    | with_reducible apply refused_kept
    | with_reducible apply refusedIn_kept
    | with_reducible apply done_kept
    | with_reducible apply needPriv_kept
    | with_reducible apply needOpen_kept
    | with_reducible apply needLegal_kept
    | with_reducible apply Keep.upWdg
    | with_reducible apply ite_kept
    | with_reducible apply Keep.ite
    | (extract_lets +onlyGivenNames y; (first | ((have hy : Keep L o₀ y := (by unfold y; repeat' (first | with_reducible assumption | with_reducible apply State.hostCheckin_keep | with_reducible apply State.clearResets_keep | with_reducible apply refused_kept | with_reducible apply refusedIn_kept | with_reducible apply done_kept | with_reducible apply needPriv_kept | with_reducible apply needOpen_kept | with_reducible apply needLegal_kept | with_reducible apply Keep.upWdg | with_reducible apply ite_kept | with_reducible apply Keep.ite | extract_lets | split))); clear_value y) | clear_value y | skip))
    | split)

end Sys2Proof.Machine
end

