-- ==== Sys2Proof/Laws/KeepRtc.lean ====
section
/-! SUPPORT. What each operation of Machine/Rtc.lean keeps (Laws/Keep.lean). -/

set_option Elab.async false
set_option linter.all false

namespace Sys2Proof.Machine

open Sys2Proof

set_option linter.unusedVariables false
set_option linter.tactic.unusedName false

variable {L : Parts}

theorem State.wake_keep {o₀ s : State} (hK : Keep L o₀ s) (lRtc : L.rtc = true := by first | rfl | assumption) (lPwr : L.pwr = true := by first | rfl | assumption) : Keep L o₀ (State.wake s) := by
  unfold State.wake
  repeat' (first
    | with_reducible assumption
    | with_reducible apply Keep.upRtc
    | with_reducible apply Keep.upPwr
    | with_reducible apply Keep.ite
    | split)

theorem State.wakeEvent_keep {o₀ s : State} (hK : Keep L o₀ s) (b : Nat) (lRtc : L.rtc = true := by first | rfl | assumption) (lPwr : L.pwr = true := by first | rfl | assumption) : Keep L o₀ (State.wakeEvent s b) := by
  unfold State.wakeEvent
  repeat' (first
    | with_reducible assumption
    | with_reducible apply State.wake_keep
    | with_reducible apply Keep.upRtc
    | with_reducible apply Keep.ite
    | split)

theorem State.advance_keep {o₀ s : State} (hK : Keep L o₀ s) (k : Nat) (lEvr : L.evr = true := by first | rfl | assumption) (lRtc : L.rtc = true := by first | rfl | assumption) (lPwr : L.pwr = true := by first | rfl | assumption) : Keep L o₀ (State.advance s k) := by
  unfold State.advance
  repeat' (first
    | with_reducible assumption
    | with_reducible apply State.rtcCause_keep
    | with_reducible apply State.wakeEvent_keep
    | with_reducible apply Keep.upRtc
    | with_reducible apply Keep.ite
    | (extract_lets +onlyGivenNames y; (first | ((have hy : Keep L o₀ y := (by unfold y; repeat' (first | with_reducible assumption | with_reducible apply State.rtcCause_keep | with_reducible apply State.wakeEvent_keep | with_reducible apply Keep.upRtc | with_reducible apply Keep.ite | extract_lets | split))); clear_value y) | clear_value y | skip))
    | split)

theorem State.calTick_keep {o₀ s : State} (hK : Keep L o₀ s) (lEvr : L.evr = true := by first | rfl | assumption) (lRtc : L.rtc = true := by first | rfl | assumption) (lPwr : L.pwr = true := by first | rfl | assumption) : Keep L o₀ (State.calTick s) := by
  unfold State.calTick
  repeat' (first
    | with_reducible assumption
    | with_reducible apply State.advance_keep
    | with_reducible apply State.rtcCause_keep
    | with_reducible apply Keep.upRtc
    | with_reducible apply Keep.ite
    | (extract_lets +onlyGivenNames y; (first | ((have hy : Keep L o₀ y := (by unfold y; repeat' (first | with_reducible assumption | with_reducible apply State.advance_keep | with_reducible apply State.rtcCause_keep | with_reducible apply Keep.upRtc | with_reducible apply Keep.ite | extract_lets | split))); clear_value y) | clear_value y | skip))
    | split)

theorem State.setGo_keep {o₀ s : State} (hK : Keep L o₀ s) (d : Word) (t : Word) (n : Nat) (lEvr : L.evr = true := by first | rfl | assumption) (lRtc : L.rtc = true := by first | rfl | assumption) : Keep L o₀ (State.setGo s d t n) := by
  unfold State.setGo
  repeat' (first
    | with_reducible assumption
    | with_reducible apply State.rtcCause_keep
    | with_reducible apply Keep.upRtc
    | with_reducible apply Keep.ite
    | split)

theorem State.snapTake_keep {o₀ s : State} (hK : Keep L o₀ s) (m : Master) (lHost : L.host = true := by first | rfl | assumption) : Keep L o₀ (State.snapTake s m) := by
  unfold State.snapTake
  repeat' (first
    | with_reducible assumption
    | with_reducible apply State.upMregs_keep
    | with_reducible apply Keep.ite
    | (extract_lets +onlyGivenNames y; (first | ((have hy : Keep L o₀ y := (by unfold y; repeat' (first | with_reducible assumption | with_reducible apply State.upMregs_keep | with_reducible apply Keep.ite | extract_lets | split))); clear_value y) | clear_value y | skip))
    | split)

theorem State.keepTime_keep {o₀ s : State} (hK : Keep L o₀ s) (lCsw : L.csw = true := by first | rfl | assumption) (lRtc : L.rtc = true := by first | rfl | assumption) : Keep L o₀ (State.keepTime s) := by
  unfold State.keepTime
  repeat' (first
    | with_reducible assumption
    | with_reducible apply Keep.upCsw
    | with_reducible apply Keep.upRtc
    | with_reducible apply Keep.ite
    | (extract_lets +onlyGivenNames y; (first | ((have hy : Keep L o₀ y := (by unfold y; repeat' (first | with_reducible assumption | with_reducible apply Keep.upCsw | with_reducible apply Keep.upRtc | with_reducible apply Keep.ite | extract_lets | split))); clear_value y) | clear_value y | skip))
    | split)

theorem State.parkRequest_keep {o s : State} (hK : Keep L o s) (lDict : L.dict = true := by first | rfl | assumption) (lPwr : L.pwr = true := by first | rfl | assumption) : Keep L o s.parkRequest.2 := by
  unfold State.parkRequest
  split
  · exact State.modeRefuse_keep hK _
  · split
    · exact State.modeRefuse_keep hK _
    · split
      · exact hK
      · extract_lets u v
        have hu : Keep L o u := hK.upDict rfl
        have hv : Keep L o v := hu.upPwr _
        exact hv

theorem State.parkRequest_fst {s t : State} (h : s.parkRequest.1 = some t) : t = s.parkRequest.2 := by
  unfold State.parkRequest at h ⊢
  split at h
  · cases h
  · next h1 =>
    rw [if_neg h1]
    split at h
    · cases h
    · next h2 =>
      rw [if_neg h2]
      split at h
      · next h3 => rw [if_pos h3]; cases h; rfl
      · next h3 => rw [if_neg h3]; cases h; rfl

theorem State.parkRequest_some {o s t u : State} (hK : Keep L o s) (e : s.parkRequest = (some t, u)) (lDict : L.dict = true := by first | rfl | assumption) (lPwr : L.pwr = true := by first | rfl | assumption) : Keep L o t := by
  rw [State.parkRequest_fst (s := s) (t := t) (by rw [e])]
  exact State.parkRequest_keep hK

theorem State.storeNow_keep {o₀ s : State} (hK : Keep L o₀ s) (key : Nat) (v : List Byte) (lFio : L.fio = true := by first | rfl | assumption) (lDict : L.dict = true := by first | rfl | assumption) (lEvr : L.evr = true := by first | rfl | assumption) (lNvp : L.nvp = true := by first | rfl | assumption) (lRtc : L.rtc = true := by first | rfl | assumption) (lFree : L.free = true := by first | rfl | assumption) : Keep L o₀ (State.storeNow s key v) := by
  unfold State.storeNow
  repeat' (first
    | with_reducible assumption
    | with_reducible apply State.useFree_keep
    | with_reducible apply State.storeValue_keep
    | with_reducible apply Keep.upNvp
    | with_reducible apply Keep.ite
    | with_reducible refine Keep.of_eq1 ?_ (by assumption)
    | with_reducible refine Keep.of_eq2 ?_ (by assumption)
    | (extract_lets +onlyGivenNames y; (first | ((have hy : Keep L o₀ y := (by unfold y; repeat' (first | with_reducible assumption | with_reducible apply State.useFree_keep | with_reducible apply State.storeValue_keep | with_reducible apply Keep.upNvp | with_reducible apply Keep.ite | with_reducible refine Keep.of_eq1 ?_ (by assumption) | with_reducible refine Keep.of_eq2 ?_ (by assumption) | extract_lets | split))); clear_value y) | ((have hy : Keep L o₀ y.1 := (by unfold y; repeat' (first | with_reducible assumption | with_reducible apply State.useFree_keep | with_reducible apply State.storeValue_keep | with_reducible apply Keep.upNvp | with_reducible apply Keep.ite | with_reducible refine Keep.of_eq1 ?_ (by assumption) | with_reducible refine Keep.of_eq2 ?_ (by assumption) | extract_lets | split))); clear_value y) | ((have hy : Keep L o₀ y.2 := (by unfold y; repeat' (first | with_reducible assumption | with_reducible apply State.useFree_keep | with_reducible apply State.storeValue_keep | with_reducible apply Keep.upNvp | with_reducible apply Keep.ite | with_reducible refine Keep.of_eq1 ?_ (by assumption) | with_reducible refine Keep.of_eq2 ?_ (by assumption) | extract_lets | split))); clear_value y) | clear_value y | skip))
    | split)

theorem State.outputsOff_keep {o₀ s : State} (hK : Keep L o₀ s) (lFio : L.fio = true := by first | rfl | assumption) : Keep L o₀ (State.outputsOff s) := by
  unfold State.outputsOff
  repeat' (first
    | with_reducible assumption
    | with_reducible apply State.redrive_keep
    | with_reducible apply Keep.upFio
    | with_reducible apply Keep.ite
    | split)

theorem State.parkCommit_keep {o₀ s : State} (hK : Keep L o₀ s) (lClk : L.clk = true := by first | rfl | assumption) (lCsw : L.csw = true := by first | rfl | assumption) (lFio : L.fio = true := by first | rfl | assumption) (lCan : L.can = true := by first | rfl | assumption) (lDict : L.dict = true := by first | rfl | assumption) (lHost : L.host = true := by first | rfl | assumption) (lWdg : L.wdg = true := by first | rfl | assumption) (lEvr : L.evr = true := by first | rfl | assumption) (lNvp : L.nvp = true := by first | rfl | assumption) (lRtc : L.rtc = true := by first | rfl | assumption) (lPwr : L.pwr = true := by first | rfl | assumption) (lMet : L.met = true := by first | rfl | assumption) (lFree : L.free = true := by first | rfl | assumption) : Keep L o₀ (State.parkCommit s) := by
  unfold State.parkCommit
  repeat' (first
    | with_reducible assumption
    | with_reducible apply State.outputsOff_keep
    | with_reducible apply State.storeNow_keep
    | with_reducible apply State.keepTime_keep
    | with_reducible apply State.metDown_keep
    | with_reducible apply Keep.upClk
    | with_reducible apply Keep.upCan
    | with_reducible apply Keep.upWdg
    | with_reducible apply Keep.upRtc
    | with_reducible apply Keep.upPwr
    | with_reducible refine Keep.upHost ?_ (fun xk => ?_)
    | exact xk
    | with_reducible apply Keep.ite
    | (extract_lets +onlyGivenNames y; (first | ((have hy : Keep L o₀ y := (by unfold y; repeat' (first | with_reducible assumption | with_reducible apply State.outputsOff_keep | with_reducible apply State.storeNow_keep | with_reducible apply State.keepTime_keep | with_reducible apply State.metDown_keep | with_reducible apply Keep.upClk | with_reducible apply Keep.upCan | with_reducible apply Keep.upWdg | with_reducible apply Keep.upRtc | with_reducible apply Keep.upPwr | with_reducible refine Keep.upHost ?_ (fun xk => ?_) | exact xk | with_reducible apply Keep.ite | extract_lets | split))); clear_value y) | clear_value y | skip))
    | split)

theorem State.setInterval_keep {o₀ s : State} (hK : Keep L o₀ s) (n : Nat) (lRtc : L.rtc = true := by first | rfl | assumption) : Keep L o₀ (State.setInterval s n) := by
  unfold State.setInterval
  repeat' (first
    | with_reducible assumption
    | with_reducible apply Keep.upRtc
    | with_reducible apply Keep.ite
    | split)

theorem State.setTrim_keep {o₀ s : State} (hK : Keep L o₀ s) (n : Nat) (lRtc : L.rtc = true := by first | rfl | assumption) : Keep L o₀ (State.setTrim s n) := by
  unfold State.setTrim
  repeat' (first
    | with_reducible assumption
    | with_reducible apply Keep.upRtc
    | with_reducible apply Keep.ite
    | split)

theorem State.rtcWrite_keep {o₀ s : State} (hK : Keep L o₀ s) (m : Master) (off : Nat) (v : Word) (priv : Bool) (lHost : L.host = true := by first | rfl | assumption) (lEvr : L.evr = true := by first | rfl | assumption) (lRtc : L.rtc = true := by first | rfl | assumption) : WriteAns.Kept L o₀ (State.rtcWrite s m off v priv) := by
  unfold State.rtcWrite
  repeat' (first
    | with_reducible assumption
    | with_reducible apply State.snapTake_keep
    | with_reducible apply State.upMregs_keep
    | with_reducible apply State.setGo_keep
    | with_reducible apply State.setTrim_keep
    | with_reducible apply State.setInterval_keep
    | with_reducible apply refused_kept
    | with_reducible apply refusedIn_kept
    | with_reducible apply done_kept
    | with_reducible apply needPriv_kept
    | with_reducible apply needOpen_kept
    | with_reducible apply needLegal_kept
    | with_reducible apply Keep.upRtc
    | with_reducible apply ite_kept
    | with_reducible apply Keep.ite
    | (extract_lets +onlyGivenNames y; (first | ((have hy : Keep L o₀ y := (by unfold y; repeat' (first | with_reducible assumption | with_reducible apply State.snapTake_keep | with_reducible apply State.upMregs_keep | with_reducible apply State.setGo_keep | with_reducible apply State.setTrim_keep | with_reducible apply State.setInterval_keep | with_reducible apply refused_kept | with_reducible apply refusedIn_kept | with_reducible apply done_kept | with_reducible apply needPriv_kept | with_reducible apply needOpen_kept | with_reducible apply needLegal_kept | with_reducible apply Keep.upRtc | with_reducible apply ite_kept | with_reducible apply Keep.ite | extract_lets | split))); clear_value y) | clear_value y | skip))
    | split)

theorem execCalendarTick_keep {s s₂ : State} (hx : execCalendarTick s = .next s₂) (lEvr : L.evr = true := by first | rfl | assumption) (lRtc : L.rtc = true := by first | rfl | assumption) (lPwr : L.pwr = true := by first | rfl | assumption) : Keep L s s₂ := by
  unfold execCalendarTick at hx
  with_reducible refine Keep.commit ?_ hx
  clear hx
  have hK := Keep.refl (L := L) s
  repeat' (first
    | with_reducible assumption
    | with_reducible apply State.calTick_keep
    | with_reducible apply Keep.ite
    | split)

theorem execPeriodicWake_keep {s s₂ : State} (hx : execPeriodicWake s = .next s₂) (lEvr : L.evr = true := by first | rfl | assumption) (lRtc : L.rtc = true := by first | rfl | assumption) (lPwr : L.pwr = true := by first | rfl | assumption) : Keep L s s₂ := by
  unfold execPeriodicWake at hx
  with_reducible refine Keep.commit ?_ hx
  clear hx
  have hK := Keep.refl (L := L) s
  repeat' (first
    | with_reducible assumption
    | with_reducible apply State.rtcCause_keep
    | with_reducible apply State.wakeEvent_keep
    | with_reducible apply Keep.upRtc
    | with_reducible apply Keep.ite
    | split)

theorem execOscStop_keep {s s₂ : State} (hx : execOscStop s = .next s₂) (lEvr : L.evr = true := by first | rfl | assumption) (lRtc : L.rtc = true := by first | rfl | assumption) : Keep L s s₂ := by
  unfold execOscStop at hx
  with_reducible refine Keep.commit ?_ hx
  clear hx
  have hK := Keep.refl (L := L) s
  repeat' (first
    | with_reducible assumption
    | with_reducible apply State.rtcCause_keep
    | with_reducible apply Keep.upRtc
    | with_reducible apply Keep.ite
    | split)

theorem execParkCommitEdge_keep {s s₂ : State} (hx : execParkCommitEdge s = .next s₂) (lClk : L.clk = true := by first | rfl | assumption) (lCsw : L.csw = true := by first | rfl | assumption) (lFio : L.fio = true := by first | rfl | assumption) (lCan : L.can = true := by first | rfl | assumption) (lDict : L.dict = true := by first | rfl | assumption) (lHost : L.host = true := by first | rfl | assumption) (lWdg : L.wdg = true := by first | rfl | assumption) (lEvr : L.evr = true := by first | rfl | assumption) (lNvp : L.nvp = true := by first | rfl | assumption) (lRtc : L.rtc = true := by first | rfl | assumption) (lPwr : L.pwr = true := by first | rfl | assumption) (lMet : L.met = true := by first | rfl | assumption) (lFree : L.free = true := by first | rfl | assumption) : Keep L s s₂ := by
  unfold execParkCommitEdge at hx
  with_reducible refine Keep.commit ?_ hx
  clear hx
  have hK := Keep.refl (L := L) s
  repeat' (first
    | with_reducible assumption
    | with_reducible apply State.parkCommit_keep
    | with_reducible apply Keep.ite
    | split)

theorem execHostWakePin_keep {s s₂ : State} (hx : execHostWakePin s = .next s₂) (lRtc : L.rtc = true := by first | rfl | assumption) (lPwr : L.pwr = true := by first | rfl | assumption) : Keep L s s₂ := by
  unfold execHostWakePin at hx
  with_reducible refine Keep.commit ?_ hx
  clear hx
  have hK := Keep.refl (L := L) s
  repeat' (first
    | with_reducible assumption
    | with_reducible apply State.wakeEvent_keep
    | with_reducible apply Keep.ite
    | split)

theorem execCanWakePattern_keep {s s₂ : State} (hx : execCanWakePattern s = .next s₂) (lRtc : L.rtc = true := by first | rfl | assumption) (lPwr : L.pwr = true := by first | rfl | assumption) : Keep L s s₂ := by
  unfold execCanWakePattern at hx
  with_reducible refine Keep.commit ?_ hx
  clear hx
  have hK := Keep.refl (L := L) s
  repeat' (first
    | with_reducible assumption
    | with_reducible apply State.wakeEvent_keep
    | with_reducible apply Keep.ite
    | split)

theorem execWakeFrameReceive_keep {s s₂ : State} (bytes : List Byte) (hx : execWakeFrameReceive bytes s = .next s₂) (lRtc : L.rtc = true := by first | rfl | assumption) (lPwr : L.pwr = true := by first | rfl | assumption) : Keep L s s₂ := by
  unfold execWakeFrameReceive at hx
  with_reducible refine Keep.commit ?_ hx
  clear hx
  have hK := Keep.refl (L := L) s
  repeat' (first
    | with_reducible assumption
    | with_reducible apply State.wakeEvent_keep
    | with_reducible apply Keep.ite
    | (extract_lets +onlyGivenNames y; (first | ((have hy : Keep L s y := (by unfold y; repeat' (first | with_reducible assumption | with_reducible apply State.wakeEvent_keep | with_reducible apply Keep.ite | extract_lets | split))); clear_value y) | clear_value y | skip))
    | split)

theorem execVinReturn_keep {s s₂ : State} (hx : execVinReturn s = .next s₂) (lRtc : L.rtc = true := by first | rfl | assumption) (lPwr : L.pwr = true := by first | rfl | assumption) : Keep L s s₂ := by
  unfold execVinReturn at hx
  with_reducible refine Keep.commit ?_ hx
  clear hx
  have hK := Keep.refl (L := L) s
  repeat' (first
    | with_reducible assumption
    | with_reducible apply State.wakeEvent_keep
    | with_reducible apply Keep.upPwr
    | with_reducible apply Keep.ite
    | split)

theorem execPowerCycleRecord_keep {s s₂ : State} (t : Nat) (hx : execPowerCycleRecord t s = .next s₂) (lClk : L.clk = true := by first | rfl | assumption) (lFio : L.fio = true := by first | rfl | assumption) (lNet : L.net = true := by first | rfl | assumption) (lCan : L.can = true := by first | rfl | assumption) (lDict : L.dict = true := by first | rfl | assumption) (lHost : L.host = true := by first | rfl | assumption) (lEvr : L.evr = true := by first | rfl | assumption) (lNvp : L.nvp = true := by first | rfl | assumption) (lRtc : L.rtc = true := by first | rfl | assumption) (lPwr : L.pwr = true := by first | rfl | assumption) (lFree : L.free = true := by first | rfl | assumption) : Keep L s s₂ := by
  unfold execPowerCycleRecord at hx
  with_reducible refine Keep.commit ?_ hx
  clear hx
  have hK := Keep.refl (L := L) s
  repeat' (first
    | with_reducible assumption
    | with_reducible apply State.reach_keep
    | with_reducible apply State.storeSystem_keep
    | with_reducible apply Keep.upPwr
    | with_reducible apply Keep.ite
    | (extract_lets +onlyGivenNames y; (first | ((have hy : Keep L s y := (by unfold y; repeat' (first | with_reducible assumption | with_reducible apply State.reach_keep | with_reducible apply State.storeSystem_keep | with_reducible apply Keep.upPwr | with_reducible apply Keep.ite | extract_lets | split))); clear_value y) | clear_value y | skip))
    | split)

theorem execVinLow_keep {s s₂ : State} (hx : execVinLow s = .next s₂) (lHost : L.host = true := by first | rfl | assumption) (lEvr : L.evr = true := by first | rfl | assumption) (lPwr : L.pwr = true := by first | rfl | assumption) : Keep L s s₂ := by
  unfold execVinLow at hx
  with_reducible refine Keep.commit ?_ hx
  clear hx
  have hK := Keep.refl (L := L) s
  repeat' (first
    | with_reducible assumption
    | with_reducible apply State.powerCause_keep
    | with_reducible apply Keep.upPwr
    | with_reducible apply Keep.ite
    | split)

end Sys2Proof.Machine
end

