-- ==== Sys2Proof/Laws/KeepKivasel.lean ====
section
/-! SUPPORT. What each operation of Machine/Kivasel.lean keeps (Laws/Keep.lean). -/

set_option Elab.async false
set_option linter.all false

namespace Sys2Proof.Machine

open Sys2Proof

set_option linter.unusedVariables false
set_option linter.tactic.unusedName false

variable {L : Parts}

theorem State.replyAs_keep {o₀ s : State} (hK : Keep L o₀ s) (c : KChan) (u : List Byte) (id : Nat) (status : Nat) (info : Nat) (payload : List Byte) (lNet : L.net = true := by first | rfl | assumption) (lCan : L.can = true := by first | rfl | assumption) (lDict : L.dict = true := by first | rfl | assumption) (lEvr : L.evr = true := by first | rfl | assumption) : Keep L o₀ (State.replyAs s c u id status info payload) := by
  unfold State.replyAs
  repeat' (first
    | with_reducible assumption
    | with_reducible apply State.kvSend_keep
    | with_reducible apply Keep.ite
    | split)

theorem State.reply_keep {o₀ s : State} (hK : Keep L o₀ s) (c : KChan) (u : List Byte) (status : Nat) (info : Nat) (payload : List Byte) (lNet : L.net = true := by first | rfl | assumption) (lCan : L.can = true := by first | rfl | assumption) (lDict : L.dict = true := by first | rfl | assumption) (lEvr : L.evr = true := by first | rfl | assumption) : Keep L o₀ (State.reply s c u status info payload) := by
  unfold State.reply
  repeat' (first
    | with_reducible assumption
    | with_reducible apply State.replyAs_keep
    | with_reducible apply Keep.ite
    | split)

theorem State.kvAuto_keep {o s : State} (n : Nat) (hK : Keep L o s) (lNet : L.net = true := by first | rfl | assumption) (lCan : L.can = true := by first | rfl | assumption) (lDict : L.dict = true := by first | rfl | assumption) (lEvr : L.evr = true := by first | rfl | assumption) : Keep L o (s.kvAuto n) := by
  induction n generalizing s with
  | zero => exact hK
  | succ n ih =>
    unfold State.kvAuto
    split
    · exact hK
    · split
      · exact hK
      · exact ih (State.reply_keep (Keep.upDict hK rfl) _ _ _ _ _)

theorem State.kvRefuse_keep {o₀ s : State} (hK : Keep L o₀ s) (c : KChan) (u : List Byte) (info : Nat) (lNet : L.net = true := by first | rfl | assumption) (lCan : L.can = true := by first | rfl | assumption) (lDict : L.dict = true := by first | rfl | assumption) (lEvr : L.evr = true := by first | rfl | assumption) : Keep L o₀ (State.kvRefuse s c u info) := by
  unfold State.kvRefuse
  repeat' (first
    | with_reducible assumption
    | with_reducible apply State.reply_keep
    | with_reducible apply Keep.ite
    | split)

theorem State.kvArrive_keep {o₀ s : State} (hK : Keep L o₀ s) (c : KChan) (u : List Byte) (lNet : L.net = true := by first | rfl | assumption) (lCan : L.can = true := by first | rfl | assumption) (lDict : L.dict = true := by first | rfl | assumption) (lEvr : L.evr = true := by first | rfl | assumption) (lFree : L.free = true := by first | rfl | assumption) : Keep L o₀ (State.kvArrive s c u) := by
  unfold State.kvArrive
  repeat' (first
    | with_reducible assumption
    | with_reducible apply State.kvRefuse_keep
    | with_reducible apply State.useFree_keep
    | with_reducible apply State.kvAuto_keep
    | with_reducible refine Keep.upDict ?_ ?_
    | exact Eq.refl _
    | with_reducible apply Keep.ite
    | split)

theorem State.kvTake_keep {o s : State} (hK : Keep L o s) (t : Nat) (want : List Byte → Bool) (k : KChan → List Byte → State → State)
    (hk : ∀ c u x, Keep L o x → Keep L o (k c u x)) (lClk : L.clk = true := by first | rfl | assumption) (lNet : L.net = true := by first | rfl | assumption) (lCan : L.can = true := by first | rfl | assumption) (lDict : L.dict = true := by first | rfl | assumption) (lEvr : L.evr = true := by first | rfl | assumption) : Keep L o (s.kvTake t want k) := by
  unfold State.kvTake
  extract_lets u
  have hu : Keep L o u := State.kvAuto_keep _ (State.reach_keep hK t)
  clear_value u
  split
  · exact hu
  · exact Keep.ite (State.kvAuto_keep _ (hk _ _ _ (Keep.upDict hu rfl))) hu

theorem State.upSession_keep {o₀ s : State} (hK : Keep L o₀ s) (id : Nat) (k : Session → Session) (lDict : L.dict = true := by first | rfl | assumption) : Keep L o₀ (State.upSession s id k) := by
  unfold State.upSession
  repeat' (first
    | with_reducible assumption
    | with_reducible refine Keep.upDict ?_ ?_
    | exact Eq.refl _
    | with_reducible apply Keep.ite
    | split)

theorem State.closeSession_keep {o₀ s : State} (hK : Keep L o₀ s) (id : Nat) (lDict : L.dict = true := by first | rfl | assumption) : Keep L o₀ (State.closeSession s id) := by
  unfold State.closeSession
  repeat' (first
    | with_reducible assumption
    | with_reducible refine Keep.upDict ?_ ?_
    | exact Eq.refl _
    | with_reducible apply Keep.ite
    | split)

theorem State.inSession_keep {o s : State} (hK : Keep L o s) (c : KChan) (u : List Byte) (k : Session → State → State)
    (hk : ∀ x y, Keep L o y → Keep L o (k x y)) (lNet : L.net = true := by first | rfl | assumption) (lCan : L.can = true := by first | rfl | assumption) (lDict : L.dict = true := by first | rfl | assumption) (lEvr : L.evr = true := by first | rfl | assumption) : Keep L o (s.inSession c u k) := by
  unfold State.inSession
  extract_lets +onlyGivenNames who s1
  have h1 : Keep L o s1 := by
    unfold s1
    cases who with
    | some x => exact State.upSession_keep hK _ _
    | none => exact hK
  clear_value s1
  refine Keep.ite (State.reply_keep (State.modeRefuse_keep h1 _) _ _ _ _ _) (Keep.ite (State.reply_keep h1 _ _ _ _ _) ?_)
  cases who with
  | none => exact State.reply_keep h1 _ _ _ _ _
  | some x => exact hk _ _ h1

theorem State.kvOpen_keep {o₀ s : State} (hK : Keep L o₀ s) (c : KChan) (u : List Byte) (lNet : L.net = true := by first | rfl | assumption) (lCan : L.can = true := by first | rfl | assumption) (lDict : L.dict = true := by first | rfl | assumption) (lEvr : L.evr = true := by first | rfl | assumption) (lFree : L.free = true := by first | rfl | assumption) : Keep L o₀ (State.kvOpen s c u) := by
  unfold State.kvOpen
  repeat' (first
    | with_reducible assumption
    | with_reducible apply State.reply_keep
    | with_reducible apply State.closeSession_keep
    | with_reducible apply State.useFree_keep
    | with_reducible apply State.replyAs_keep
    | with_reducible refine Keep.upDict ?_ ?_
    | exact Eq.refl _
    | with_reducible apply Keep.ite
    | (extract_lets +onlyGivenNames y; (first | ((have hy : Keep L o₀ y := (by unfold y; repeat' (first | with_reducible assumption | with_reducible apply State.reply_keep | with_reducible apply State.closeSession_keep | with_reducible apply State.useFree_keep | with_reducible apply State.replyAs_keep | with_reducible refine Keep.upDict ?_ ?_ | exact Eq.refl _ | with_reducible apply Keep.ite | extract_lets | split))); clear_value y) | clear_value y | skip))
    | split)

theorem State.kvClose_keep {o₀ s : State} (hK : Keep L o₀ s) (c : KChan) (u : List Byte) (lNet : L.net = true := by first | rfl | assumption) (lCan : L.can = true := by first | rfl | assumption) (lDict : L.dict = true := by first | rfl | assumption) (lEvr : L.evr = true := by first | rfl | assumption) : Keep L o₀ (State.kvClose s c u) := by
  unfold State.kvClose
  repeat' (first
    | with_reducible assumption
    | with_reducible refine State.inSession_keep ?_ _ _ _ (fun _ _ hk => ?_)
    | with_reducible apply State.closeSession_keep
    | with_reducible apply State.reply_keep
    | with_reducible apply Keep.ite
    | split)

theorem State.kvChallenge_keep {o₀ s : State} (hK : Keep L o₀ s) (c : KChan) (u : List Byte) (lNet : L.net = true := by first | rfl | assumption) (lCan : L.can = true := by first | rfl | assumption) (lDict : L.dict = true := by first | rfl | assumption) (lEvr : L.evr = true := by first | rfl | assumption) (lFree : L.free = true := by first | rfl | assumption) : Keep L o₀ (State.kvChallenge s c u) := by
  unfold State.kvChallenge
  repeat' (first
    | with_reducible assumption
    | with_reducible refine State.inSession_keep ?_ _ _ _ (fun _ _ hk => ?_)
    | with_reducible apply State.reply_keep
    | with_reducible apply State.useFree_keep
    | with_reducible apply State.upSession_keep
    | with_reducible apply Keep.ite
    | (extract_lets +onlyGivenNames y; (first | ((have hy : Keep L o₀ y := (by unfold y; repeat' (first | with_reducible assumption | with_reducible refine State.inSession_keep ?_ _ _ _ (fun _ _ hk => ?_) | with_reducible apply State.reply_keep | with_reducible apply State.useFree_keep | with_reducible apply State.upSession_keep | with_reducible apply Keep.ite | extract_lets | split))); clear_value y) | clear_value y | skip))
    | split)

theorem State.authFailed_keep {o₀ s : State} (hK : Keep L o₀ s) (code : Nat) (lDict : L.dict = true := by first | rfl | assumption) (lEvr : L.evr = true := by first | rfl | assumption) : Keep L o₀ (State.authFailed s code) := by
  unfold State.authFailed
  repeat' (first
    | with_reducible assumption
    | with_reducible apply State.occur_keep
    | with_reducible refine Keep.upDict ?_ ?_
    | exact Eq.refl _
    | with_reducible apply Keep.ite
    | split)

theorem State.kvLogin_keep {o₀ s : State} (hK : Keep L o₀ s) (c : KChan) (u : List Byte) (lNet : L.net = true := by first | rfl | assumption) (lCan : L.can = true := by first | rfl | assumption) (lDict : L.dict = true := by first | rfl | assumption) (lEvr : L.evr = true := by first | rfl | assumption) : Keep L o₀ (State.kvLogin s c u) := by
  unfold State.kvLogin
  repeat' (first
    | with_reducible assumption
    | with_reducible refine State.inSession_keep ?_ _ _ _ (fun _ _ hk => ?_)
    | with_reducible apply State.reply_keep
    | with_reducible apply State.upSession_keep
    | with_reducible apply State.authFailed_keep
    | with_reducible refine Keep.upDict ?_ ?_
    | exact Eq.refl _
    | with_reducible apply Keep.ite
    | (extract_lets +onlyGivenNames y; (first | ((have hy : Keep L o₀ y := (by unfold y; repeat' (first | with_reducible assumption | with_reducible refine State.inSession_keep ?_ _ _ _ (fun _ _ hk => ?_) | with_reducible apply State.reply_keep | with_reducible apply State.upSession_keep | with_reducible apply State.authFailed_keep | with_reducible refine Keep.upDict ?_ ?_ | exact Eq.refl _ | with_reducible apply Keep.ite | extract_lets | split))); clear_value y) | clear_value y | skip))
    | split)

theorem State.entryReads_keep {o₀ s : State} (hK : Keep L o₀ s) (i : Nat) (l : List Ecc) (lSto : L.sto = true := by first | rfl | assumption) (lHost : L.host = true := by first | rfl | assumption) (lEvr : L.evr = true := by first | rfl | assumption) (lTrc : L.trc = true := by first | rfl | assumption) : Keep L o₀ (State.entryReads s i l) := by
  unfold State.entryReads
  repeat' (first
    | with_reducible assumption
    | with_reducible apply State.recorderReads_keep
    | with_reducible apply State.ringReads_keep
    | with_reducible apply Keep.ite
    | split)

theorem State.kvRead_keep {o₀ s : State} (hK : Keep L o₀ s) (c : KChan) (u : List Byte) (ecc : List Ecc) (lSto : L.sto = true := by first | rfl | assumption) (lNet : L.net = true := by first | rfl | assumption) (lCan : L.can = true := by first | rfl | assumption) (lDict : L.dict = true := by first | rfl | assumption) (lHost : L.host = true := by first | rfl | assumption) (lEvr : L.evr = true := by first | rfl | assumption) (lTrc : L.trc = true := by first | rfl | assumption) : Keep L o₀ (State.kvRead s c u ecc) := by
  unfold State.kvRead
  repeat' (first
    | with_reducible assumption
    | with_reducible refine State.inSession_keep ?_ _ _ _ (fun _ _ hk => ?_)
    | with_reducible apply State.entryReads_keep
    | with_reducible apply State.reply_keep
    | with_reducible refine Keep.upDict ?_ ?_
    | exact Eq.refl _
    | with_reducible apply Keep.ite
    | (extract_lets +onlyGivenNames y; (first | ((have hy : Keep L o₀ y := (by unfold y; repeat' (first | with_reducible assumption | with_reducible refine State.inSession_keep ?_ _ _ _ (fun _ _ hk => ?_) | with_reducible apply State.entryReads_keep | with_reducible apply State.reply_keep | with_reducible refine Keep.upDict ?_ ?_ | exact Eq.refl _ | with_reducible apply Keep.ite | extract_lets | split))); clear_value y) | clear_value y | skip))
    | split)

theorem State.kvReadMulti_keep {o₀ s : State} (hK : Keep L o₀ s) (c : KChan) (u : List Byte) (ecc : List Ecc) (lSto : L.sto = true := by first | rfl | assumption) (lNet : L.net = true := by first | rfl | assumption) (lCan : L.can = true := by first | rfl | assumption) (lDict : L.dict = true := by first | rfl | assumption) (lHost : L.host = true := by first | rfl | assumption) (lEvr : L.evr = true := by first | rfl | assumption) (lTrc : L.trc = true := by first | rfl | assumption) : Keep L o₀ (State.kvReadMulti s c u ecc) := by
  unfold State.kvReadMulti
  repeat' (first
    | with_reducible assumption
    | with_reducible refine State.inSession_keep ?_ _ _ _ (fun _ _ hk => ?_)
    | with_reducible apply State.entryReads_keep
    | with_reducible apply State.reply_keep
    | with_reducible refine Keep.foldl (fun _ _ _ => ?_) _ ?_
    | with_reducible refine Keep.foldl1 (fun _ _ _ _ => ?_) _ ?_
    | with_reducible refine Keep.foldl2 (fun _ _ _ _ => ?_) _ ?_
    | with_reducible apply Keep.ite
    | (extract_lets +onlyGivenNames y; (first | ((have hy : Keep L o₀ y := (by unfold y; repeat' (first | with_reducible assumption | with_reducible refine State.inSession_keep ?_ _ _ _ (fun _ _ hk => ?_) | with_reducible apply State.entryReads_keep | with_reducible apply State.reply_keep | with_reducible refine Keep.foldl (fun _ _ _ => ?_) _ ?_ | with_reducible refine Keep.foldl1 (fun _ _ _ _ => ?_) _ ?_ | with_reducible refine Keep.foldl2 (fun _ _ _ _ => ?_) _ ?_ | with_reducible apply Keep.ite | extract_lets | split))); clear_value y) | ((have hy : Keep L o₀ y.1 := (by unfold y; repeat' (first | with_reducible assumption | with_reducible refine State.inSession_keep ?_ _ _ _ (fun _ _ hk => ?_) | with_reducible apply State.entryReads_keep | with_reducible apply State.reply_keep | with_reducible refine Keep.foldl (fun _ _ _ => ?_) _ ?_ | with_reducible refine Keep.foldl1 (fun _ _ _ _ => ?_) _ ?_ | with_reducible refine Keep.foldl2 (fun _ _ _ _ => ?_) _ ?_ | with_reducible apply Keep.ite | extract_lets | split))); clear_value y) | ((have hy : Keep L o₀ y.2 := (by unfold y; repeat' (first | with_reducible assumption | with_reducible refine State.inSession_keep ?_ _ _ _ (fun _ _ hk => ?_) | with_reducible apply State.entryReads_keep | with_reducible apply State.reply_keep | with_reducible refine Keep.foldl (fun _ _ _ => ?_) _ ?_ | with_reducible refine Keep.foldl1 (fun _ _ _ _ => ?_) _ ?_ | with_reducible refine Keep.foldl2 (fun _ _ _ _ => ?_) _ ?_ | with_reducible apply Keep.ite | extract_lets | split))); clear_value y) | clear_value y | skip))
    | split)

theorem State.kvDescribe_keep {o₀ s : State} (hK : Keep L o₀ s) (c : KChan) (u : List Byte) (lNet : L.net = true := by first | rfl | assumption) (lCan : L.can = true := by first | rfl | assumption) (lDict : L.dict = true := by first | rfl | assumption) (lEvr : L.evr = true := by first | rfl | assumption) : Keep L o₀ (State.kvDescribe s c u) := by
  unfold State.kvDescribe
  repeat' (first
    | with_reducible assumption
    | with_reducible refine State.inSession_keep ?_ _ _ _ (fun _ _ hk => ?_)
    | with_reducible apply State.reply_keep
    | with_reducible apply Keep.ite
    | split)

theorem State.commandLow_keep {o₀ s : State} (hK : Keep L o₀ s) (c : KChan) (i : Nat) (v : Nat) (lNet : L.net = true := by first | rfl | assumption) (lCan : L.can = true := by first | rfl | assumption) (lDict : L.dict = true := by first | rfl | assumption) (lEvr : L.evr = true := by first | rfl | assumption) (lFw : L.fw = true := by first | rfl | assumption) (lRtc : L.rtc = true := by first | rfl | assumption) (lPwr : L.pwr = true := by first | rfl | assumption) (lFree : L.free = true := by first | rfl | assumption) : Keep L o₀ (State.commandLow s c i v).state := by
  unfold State.commandLow
  repeat' (first
    | with_reducible assumption
    | with_reducible apply State.no_keep
    | with_reducible apply State.ok_keep
    | with_reducible apply State.fwAbandon_keep
    | with_reducible apply State.upSlot_keep
    | with_reducible apply State.parkRequest_keep
    | with_reducible apply State.useFree_keep
    | with_reducible apply State.setGo_keep
    | with_reducible refine Keep.upDict ?_ ?_
    | exact Eq.refl _
    | with_reducible apply Keep.ite
    | with_reducible refine Keep.of_eq1 ?_ (by assumption)
    | with_reducible refine Keep.of_eq2 ?_ (by assumption)
    | with_reducible refine State.parkRequest_some ?_ (by assumption)
    | (extract_lets +onlyGivenNames y; (first | ((have hy : Keep L o₀ y := (by unfold y; repeat' (first | with_reducible assumption | with_reducible apply State.no_keep | with_reducible apply State.ok_keep | with_reducible apply State.fwAbandon_keep | with_reducible apply State.upSlot_keep | with_reducible apply State.parkRequest_keep | with_reducible apply State.useFree_keep | with_reducible apply State.setGo_keep | with_reducible refine Keep.upDict ?_ ?_ | exact Eq.refl _ | with_reducible apply Keep.ite | with_reducible refine Keep.of_eq1 ?_ (by assumption) | with_reducible refine Keep.of_eq2 ?_ (by assumption) | with_reducible refine State.parkRequest_some ?_ (by assumption) | extract_lets | split))); clear_value y) | ((have hy : Keep L o₀ y.1 := (by unfold y; repeat' (first | with_reducible assumption | with_reducible apply State.no_keep | with_reducible apply State.ok_keep | with_reducible apply State.fwAbandon_keep | with_reducible apply State.upSlot_keep | with_reducible apply State.parkRequest_keep | with_reducible apply State.useFree_keep | with_reducible apply State.setGo_keep | with_reducible refine Keep.upDict ?_ ?_ | exact Eq.refl _ | with_reducible apply Keep.ite | with_reducible refine Keep.of_eq1 ?_ (by assumption) | with_reducible refine Keep.of_eq2 ?_ (by assumption) | with_reducible refine State.parkRequest_some ?_ (by assumption) | extract_lets | split))); clear_value y) | ((have hy : Keep L o₀ y.2 := (by unfold y; repeat' (first | with_reducible assumption | with_reducible apply State.no_keep | with_reducible apply State.ok_keep | with_reducible apply State.fwAbandon_keep | with_reducible apply State.upSlot_keep | with_reducible apply State.parkRequest_keep | with_reducible apply State.useFree_keep | with_reducible apply State.setGo_keep | with_reducible refine Keep.upDict ?_ ?_ | exact Eq.refl _ | with_reducible apply Keep.ite | with_reducible refine Keep.of_eq1 ?_ (by assumption) | with_reducible refine Keep.of_eq2 ?_ (by assumption) | with_reducible refine State.parkRequest_some ?_ (by assumption) | extract_lets | split))); clear_value y) | ((have hy : Keep L o₀ y.state := (by unfold y; repeat' (first | with_reducible assumption | with_reducible apply State.no_keep | with_reducible apply State.ok_keep | with_reducible apply State.fwAbandon_keep | with_reducible apply State.upSlot_keep | with_reducible apply State.parkRequest_keep | with_reducible apply State.useFree_keep | with_reducible apply State.setGo_keep | with_reducible refine Keep.upDict ?_ ?_ | exact Eq.refl _ | with_reducible apply Keep.ite | with_reducible refine Keep.of_eq1 ?_ (by assumption) | with_reducible refine Keep.of_eq2 ?_ (by assumption) | with_reducible refine State.parkRequest_some ?_ (by assumption) | extract_lets | split))); clear_value y) | clear_value y | skip))
    | split)

theorem State.commandHigh_keep {o₀ s : State} (hK : Keep L o₀ s) (i : Nat) (v : Nat) (lClk : L.clk = true := by first | rfl | assumption) (lClu : L.clu = true := by first | rfl | assumption) (lTasks : L.tasks = true := by first | rfl | assumption) (lSto : L.sto = true := by first | rfl | assumption) (lLdr : L.ldr = true := by first | rfl | assumption) (lCsw : L.csw = true := by first | rfl | assumption) (lFio : L.fio = true := by first | rfl | assumption) (lNet : L.net = true := by first | rfl | assumption) (lCan : L.can = true := by first | rfl | assumption) (lDict : L.dict = true := by first | rfl | assumption) (lHost : L.host = true := by first | rfl | assumption) (lWdg : L.wdg = true := by first | rfl | assumption) (lEvr : L.evr = true := by first | rfl | assumption) (lTrc : L.trc = true := by first | rfl | assumption) (lFree : L.free = true := by first | rfl | assumption) : Keep L o₀ (State.commandHigh s i v).state := by
  unfold State.commandHigh
  repeat' (first
    | with_reducible assumption
    | with_reducible apply State.ackGroups_keep
    | with_reducible apply State.ok_keep
    | with_reducible apply State.loadCmd_keep
    | with_reducible apply State.clearFault_keep
    | with_reducible apply State.startClear_keep
    | with_reducible apply State.clearResets_keep
    | with_reducible apply State.freezeReq_keep
    | with_reducible apply State.unfreeze_keep
    | with_reducible apply State.requestAnchor_keep
    | with_reducible apply State.startReplay_keep
    | with_reducible apply State.stopReplay_keep
    | with_reducible apply State.discardReplay_keep
    | with_reducible apply State.switchCmd_keep
    | with_reducible apply Keep.ite
    | split)

theorem Ans.send_keep {o : State} {a : Ans} (h : Keep L o a.state) (c : KChan) (u : List Byte) (lNet : L.net = true := by first | rfl | assumption) (lCan : L.can = true := by first | rfl | assumption) (lDict : L.dict = true := by first | rfl | assumption) (lEvr : L.evr = true := by first | rfl | assumption) : Keep L o (a.send c u) := by
  unfold Ans.send
  exact State.reply_keep h _ _ _ _ _

theorem State.writeDomain_keep {o₀ s : State} (hK : Keep L o₀ s) (c : KChan) (u : List Byte) (i : Nat) (off : Nat) (data : List Byte) (last : Bool) (lLdr : L.ldr = true := by first | rfl | assumption) (lNet : L.net = true := by first | rfl | assumption) (lCan : L.can = true := by first | rfl | assumption) (lDict : L.dict = true := by first | rfl | assumption) (lEvr : L.evr = true := by first | rfl | assumption) (lTrc : L.trc = true := by first | rfl | assumption) (lFw : L.fw = true := by first | rfl | assumption) : Keep L o₀ (State.writeDomain s c u i off data last) := by
  unfold State.writeDomain
  repeat' (first
    | with_reducible assumption
    | with_reducible apply State.fwSegment_keep
    | with_reducible apply State.reply_keep
    | with_reducible apply State.imageSegment_keep
    | with_reducible apply State.send_keep
    | with_reducible apply Ans.send_keep
    | with_reducible apply State.mapSegment_keep
    | with_reducible apply State.replaySegment_keep
    | with_reducible apply Keep.ite
    | with_reducible refine Keep.of_eq1 ?_ (by assumption)
    | with_reducible refine Keep.of_eq2 ?_ (by assumption)
    | split)

theorem State.valueRefusal_keep {o s : State} (hK : Keep L o s) (e : Entry) (i sub : Nat) (v : List Byte) {a : Ans}
    (hx : s.valueRefusal e i sub v = some a) (lDict : L.dict = true := by first | rfl | assumption) : Keep L o a.state := by
  unfold State.valueRefusal at hx
  dsimp only at hx
  repeat' split at hx
  all_goals first
    | (injection hx with hx; subst hx; exact State.no_keep hK _ _)
    | (injection hx with hx; subst hx; exact State.no_keep (State.modeRefuse_keep hK _) _ _)
    | cases hx

theorem State.writeValue_keep {o s : State} (hK : Keep L o s) (c : KChan) (u : List Byte) (e : Entry) (i sub : Nat) (v : List Byte) (lClk : L.clk = true := by first | rfl | assumption) (lClu : L.clu = true := by first | rfl | assumption) (lTasks : L.tasks = true := by first | rfl | assumption) (lSto : L.sto = true := by first | rfl | assumption) (lLdr : L.ldr = true := by first | rfl | assumption) (lCsw : L.csw = true := by first | rfl | assumption) (lFio : L.fio = true := by first | rfl | assumption) (lNet : L.net = true := by first | rfl | assumption) (lCan : L.can = true := by first | rfl | assumption) (lDict : L.dict = true := by first | rfl | assumption) (lHost : L.host = true := by first | rfl | assumption) (lWdg : L.wdg = true := by first | rfl | assumption) (lEvr : L.evr = true := by first | rfl | assumption) (lTrc : L.trc = true := by first | rfl | assumption) (lNvp : L.nvp = true := by first | rfl | assumption) (lFw : L.fw = true := by first | rfl | assumption) (lRtc : L.rtc = true := by first | rfl | assumption) (lPwr : L.pwr = true := by first | rfl | assumption) (lFree : L.free = true := by first | rfl | assumption) :
    Keep L o (s.writeValue c u e i sub v) := by
  unfold State.writeValue
  split
  · next a hx => exact Ans.send_keep (State.valueRefusal_keep hK _ _ _ _ hx) _ _
  · refine Keep.ite (Ans.send_keep ?_ _ _) (State.storeSystem_keep hK _ _ _)
    split
    · exact State.commandLow_keep hK _ _ _
    · exact State.commandHigh_keep hK _ _

theorem State.kvWrite_keep {o₀ s : State} (hK : Keep L o₀ s) (c : KChan) (u : List Byte) (lClk : L.clk = true := by first | rfl | assumption) (lClu : L.clu = true := by first | rfl | assumption) (lTasks : L.tasks = true := by first | rfl | assumption) (lSto : L.sto = true := by first | rfl | assumption) (lLdr : L.ldr = true := by first | rfl | assumption) (lCsw : L.csw = true := by first | rfl | assumption) (lFio : L.fio = true := by first | rfl | assumption) (lNet : L.net = true := by first | rfl | assumption) (lCan : L.can = true := by first | rfl | assumption) (lDict : L.dict = true := by first | rfl | assumption) (lHost : L.host = true := by first | rfl | assumption) (lWdg : L.wdg = true := by first | rfl | assumption) (lEvr : L.evr = true := by first | rfl | assumption) (lTrc : L.trc = true := by first | rfl | assumption) (lNvp : L.nvp = true := by first | rfl | assumption) (lFw : L.fw = true := by first | rfl | assumption) (lRtc : L.rtc = true := by first | rfl | assumption) (lPwr : L.pwr = true := by first | rfl | assumption) (lFree : L.free = true := by first | rfl | assumption) : Keep L o₀ (State.kvWrite s c u) := by
  unfold State.kvWrite
  repeat' (first
    | with_reducible assumption
    | with_reducible refine State.inSession_keep ?_ _ _ _ (fun _ _ hk => ?_)
    | with_reducible apply State.reply_keep
    | with_reducible apply State.writeDomain_keep
    | with_reducible apply State.useFree_keep
    | with_reducible apply State.writeValue_keep
    | with_reducible apply Keep.ite
    | (extract_lets +onlyGivenNames y; (first | ((have hy : Keep L o₀ y := (by unfold y; repeat' (first | with_reducible assumption | with_reducible refine State.inSession_keep ?_ _ _ _ (fun _ _ hk => ?_) | with_reducible apply State.reply_keep | with_reducible apply State.writeDomain_keep | with_reducible apply State.useFree_keep | with_reducible apply State.writeValue_keep | with_reducible apply Keep.ite | extract_lets | split))); clear_value y) | clear_value y | skip))
    | split)

theorem State.needRole_keep {o s : State} (hK : Keep L o s) (c : KChan) (u : List Byte) {k : State} (hk : Keep L o k) (lNet : L.net = true := by first | rfl | assumption) (lCan : L.can = true := by first | rfl | assumption) (lDict : L.dict = true := by first | rfl | assumption) (lEvr : L.evr = true := by first | rfl | assumption) : Keep L o (s.needRole c u k) := by
  unfold State.needRole
  exact Keep.ite hk (State.reply_keep (State.modeRefuse_keep hK _) _ _ _ _ _)

theorem State.kvBatchOpen_keep {o₀ s : State} (hK : Keep L o₀ s) (c : KChan) (u : List Byte) (lNet : L.net = true := by first | rfl | assumption) (lCan : L.can = true := by first | rfl | assumption) (lDict : L.dict = true := by first | rfl | assumption) (lEvr : L.evr = true := by first | rfl | assumption) : Keep L o₀ (State.kvBatchOpen s c u) := by
  unfold State.kvBatchOpen
  repeat' (first
    | with_reducible assumption
    | with_reducible refine State.inSession_keep ?_ _ _ _ (fun _ _ hk => ?_)
    | with_reducible refine State.needRole_keep ?_ _ _ ?_
    | with_reducible apply State.upSession_keep
    | with_reducible apply State.reply_keep
    | with_reducible apply Keep.ite
    | (extract_lets +onlyGivenNames y; (first | ((have hy : Keep L o₀ y := (by unfold y; repeat' (first | with_reducible assumption | with_reducible refine State.inSession_keep ?_ _ _ _ (fun _ _ hk => ?_) | with_reducible refine State.needRole_keep ?_ _ _ ?_ | with_reducible apply State.upSession_keep | with_reducible apply State.reply_keep | with_reducible apply Keep.ite | extract_lets | split))); clear_value y) | clear_value y | skip))
    | split)

theorem State.kvBatchAdd_keep {o₀ s : State} (hK : Keep L o₀ s) (c : KChan) (u : List Byte) (lNet : L.net = true := by first | rfl | assumption) (lCan : L.can = true := by first | rfl | assumption) (lDict : L.dict = true := by first | rfl | assumption) (lEvr : L.evr = true := by first | rfl | assumption) : Keep L o₀ (State.kvBatchAdd s c u) := by
  unfold State.kvBatchAdd
  repeat' (first
    | with_reducible assumption
    | with_reducible refine State.inSession_keep ?_ _ _ _ (fun _ _ hk => ?_)
    | with_reducible refine State.needRole_keep ?_ _ _ ?_
    | with_reducible apply State.reply_keep
    | with_reducible apply State.upSession_keep
    | with_reducible apply Keep.ite
    | (extract_lets +onlyGivenNames y; (first | ((have hy : Keep L o₀ y := (by unfold y; repeat' (first | with_reducible assumption | with_reducible refine State.inSession_keep ?_ _ _ _ (fun _ _ hk => ?_) | with_reducible refine State.needRole_keep ?_ _ _ ?_ | with_reducible apply State.reply_keep | with_reducible apply State.upSession_keep | with_reducible apply Keep.ite | extract_lets | split))); clear_value y) | clear_value y | skip))
    | split)

theorem State.kvBatchCommit_keep {o₀ s : State} (hK : Keep L o₀ s) (c : KChan) (u : List Byte) (lSto : L.sto = true := by first | rfl | assumption) (lNet : L.net = true := by first | rfl | assumption) (lCan : L.can = true := by first | rfl | assumption) (lDict : L.dict = true := by first | rfl | assumption) (lEvr : L.evr = true := by first | rfl | assumption) : Keep L o₀ (State.kvBatchCommit s c u) := by
  unfold State.kvBatchCommit
  repeat' (first
    | with_reducible assumption
    | with_reducible refine State.inSession_keep ?_ _ _ _ (fun _ _ hk => ?_)
    | with_reducible refine State.needRole_keep ?_ _ _ ?_
    | with_reducible apply State.reply_keep
    | with_reducible apply State.upSession_keep
    | with_reducible refine Keep.upSto ?_ (fun xk => ?_)
    | with_reducible exact xk
    | (with_reducible refine Store.wf.mk ?_ ?_ ?_ ?_ ?_ <;> try dsimp only)
    | with_reducible exact xk.program
    | with_reducible exact xk.lmem
    | with_reducible exact xk.durable
    | with_reducible exact xk.inView
    | with_reducible exact xk.launched
    | with_reducible apply memPut_wf
    | with_reducible apply ov_apply_wf
    | with_reducible apply memWrite_wf
    | with_reducible apply memClear_wf
    | with_reducible apply memRange_wf
    | with_reducible apply mem_nil_wf
    | with_reducible apply memOf_wf
    | with_reducible apply Keep.ite
    | (extract_lets +onlyGivenNames y; (first | ((have hy : Keep L o₀ y := (by unfold y; repeat' (first | with_reducible assumption | with_reducible refine State.inSession_keep ?_ _ _ _ (fun _ _ hk => ?_) | with_reducible refine State.needRole_keep ?_ _ _ ?_ | with_reducible apply State.reply_keep | with_reducible apply State.upSession_keep | with_reducible refine Keep.upSto ?_ (fun xk => ?_) | with_reducible exact xk | (with_reducible refine Store.wf.mk ?_ ?_ ?_ ?_ ?_ <;> try dsimp only) | with_reducible exact xk.program | with_reducible exact xk.lmem | with_reducible exact xk.durable | with_reducible exact xk.inView | with_reducible exact xk.launched | with_reducible apply memPut_wf | with_reducible apply ov_apply_wf | with_reducible apply memWrite_wf | with_reducible apply memClear_wf | with_reducible apply memRange_wf | with_reducible apply mem_nil_wf | with_reducible apply memOf_wf | with_reducible apply Keep.ite | extract_lets | split))); clear_value y) | clear_value y | skip))
    | split)

theorem State.kvBatchStatus_keep {o₀ s : State} (hK : Keep L o₀ s) (c : KChan) (u : List Byte) (lNet : L.net = true := by first | rfl | assumption) (lCan : L.can = true := by first | rfl | assumption) (lDict : L.dict = true := by first | rfl | assumption) (lEvr : L.evr = true := by first | rfl | assumption) : Keep L o₀ (State.kvBatchStatus s c u) := by
  unfold State.kvBatchStatus
  repeat' (first
    | with_reducible assumption
    | with_reducible refine State.inSession_keep ?_ _ _ _ (fun _ _ hk => ?_)
    | with_reducible apply State.reply_keep
    | with_reducible apply Keep.ite
    | (extract_lets +onlyGivenNames y; (first | ((have hy : Keep L o₀ y := (by unfold y; repeat' (first | with_reducible assumption | with_reducible refine State.inSession_keep ?_ _ _ _ (fun _ _ hk => ?_) | with_reducible apply State.reply_keep | with_reducible apply Keep.ite | extract_lets | split))); clear_value y) | clear_value y | skip))
    | split)

theorem State.kvBatchDiscard_keep {o₀ s : State} (hK : Keep L o₀ s) (c : KChan) (u : List Byte) (lNet : L.net = true := by first | rfl | assumption) (lCan : L.can = true := by first | rfl | assumption) (lDict : L.dict = true := by first | rfl | assumption) (lEvr : L.evr = true := by first | rfl | assumption) (lFree : L.free = true := by first | rfl | assumption) : Keep L o₀ (State.kvBatchDiscard s c u) := by
  unfold State.kvBatchDiscard
  repeat' (first
    | with_reducible assumption
    | with_reducible refine State.inSession_keep ?_ _ _ _ (fun _ _ hk => ?_)
    | with_reducible apply State.upSession_keep
    | with_reducible apply State.reply_keep
    | with_reducible apply State.useFree_keep
    | with_reducible apply Keep.ite
    | split)

theorem State.kvSegment_keep {o₀ s : State} (hK : Keep L o₀ s) (n : Nat) (b : List Byte) (lNet : L.net = true := by first | rfl | assumption) (lCan : L.can = true := by first | rfl | assumption) (lDict : L.dict = true := by first | rfl | assumption) (lEvr : L.evr = true := by first | rfl | assumption) (lFree : L.free = true := by first | rfl | assumption) : Keep L o₀ (State.kvSegment s n b) := by
  unfold State.kvSegment
  repeat' (first
    | with_reducible assumption
    | with_reducible apply State.upCanPort_keep
    | with_reducible apply State.kvArrive_keep
    | with_reducible apply Keep.ite
    | (extract_lets +onlyGivenNames y; (first | ((have hy : Keep L o₀ y := (by unfold y; repeat' (first | with_reducible assumption | with_reducible apply State.upCanPort_keep | with_reducible apply State.kvArrive_keep | with_reducible apply Keep.ite | extract_lets | split))); clear_value y) | clear_value y | skip))
    | split)

theorem State.odxGo_keep {o₀ s : State} (hK : Keep L o₀ s) (lNet : L.net = true := by first | rfl | assumption) (lCan : L.can = true := by first | rfl | assumption) (lDict : L.dict = true := by first | rfl | assumption) (lEvr : L.evr = true := by first | rfl | assumption) (lFree : L.free = true := by first | rfl | assumption) : Keep L o₀ (State.odxGo s) := by
  unfold State.odxGo
  repeat' (first
    | with_reducible assumption
    | with_reducible apply State.odxCauseBit_keep
    | with_reducible apply State.kvArrive_keep
    | with_reducible refine Keep.upDict ?_ ?_
    | exact Eq.refl _
    | with_reducible apply Keep.ite
    | (extract_lets +onlyGivenNames y; (first | ((have hy : Keep L o₀ y := (by unfold y; repeat' (first | with_reducible assumption | with_reducible apply State.odxCauseBit_keep | with_reducible apply State.kvArrive_keep | with_reducible refine Keep.upDict ?_ ?_ | exact Eq.refl _ | with_reducible apply Keep.ite | extract_lets | split))); clear_value y) | clear_value y | skip))
    | split)

theorem State.odxAck_keep {o₀ s : State} (hK : Keep L o₀ s) (lDict : L.dict = true := by first | rfl | assumption) : Keep L o₀ (State.odxAck s) := by
  unfold State.odxAck
  repeat' (first
    | with_reducible assumption
    | with_reducible refine Keep.upDict ?_ ?_
    | exact Eq.refl _
    | with_reducible apply Keep.ite
    | split)

theorem State.odxWrite_keep {o₀ s : State} (hK : Keep L o₀ s) (off : Nat) (v : Word) (lNet : L.net = true := by first | rfl | assumption) (lCan : L.can = true := by first | rfl | assumption) (lDict : L.dict = true := by first | rfl | assumption) (lEvr : L.evr = true := by first | rfl | assumption) (lFree : L.free = true := by first | rfl | assumption) : WriteAns.Kept L o₀ (State.odxWrite s off v) := by
  unfold State.odxWrite
  repeat' (first
    | with_reducible assumption
    | with_reducible apply State.odxAck_keep
    | with_reducible apply State.odxGo_keep
    | with_reducible apply State.odxCauseBit_keep
    | with_reducible apply refused_kept
    | with_reducible apply refusedIn_kept
    | with_reducible apply done_kept
    | with_reducible apply needPriv_kept
    | with_reducible apply needOpen_kept
    | with_reducible apply needLegal_kept
    | with_reducible refine Keep.upDict ?_ ?_
    | exact Eq.refl _
    | with_reducible apply ite_kept
    | with_reducible apply Keep.ite
    | (extract_lets +onlyGivenNames y; (first | ((have hy : Keep L o₀ y := (by unfold y; repeat' (first | with_reducible assumption | with_reducible apply State.odxAck_keep | with_reducible apply State.odxGo_keep | with_reducible apply State.odxCauseBit_keep | with_reducible apply refused_kept | with_reducible apply refusedIn_kept | with_reducible apply done_kept | with_reducible apply needPriv_kept | with_reducible apply needOpen_kept | with_reducible apply needLegal_kept | with_reducible refine Keep.upDict ?_ ?_ | exact Eq.refl _ | with_reducible apply ite_kept | with_reducible apply Keep.ite | extract_lets | split))); clear_value y) | clear_value y | skip))
    | split)

theorem State.fuseBlown_keep {o s : State} (hK : Keep L o s) (f : Nat) (lDict : L.dict = true := by first | rfl | assumption) (lHost : L.host = true := by first | rfl | assumption) : Keep L o (State.fuseBlown s f) := by
  unfold State.fuseBlown
  extract_lets u
  have hu : Keep L o u := hK.upFuses (1#4 <<< f) rfl
  clear_value u
  exact Keep.ite (hu.upHost (fun xk => xk)) (Keep.ite (hu.upDict rfl) (Keep.ite (hu.upDict rfl) hu))

theorem execKivaselUdpReceive_keep {s s₂ : State} (ip : Nat) (port : Nat) (t : Nat) (bytes : List Byte) (hx : execKivaselUdpReceive ip port t bytes s = .next s₂) (lClk : L.clk = true := by first | rfl | assumption) (lNet : L.net = true := by first | rfl | assumption) (lCan : L.can = true := by first | rfl | assumption) (lDict : L.dict = true := by first | rfl | assumption) (lEvr : L.evr = true := by first | rfl | assumption) (lFree : L.free = true := by first | rfl | assumption) : Keep L s s₂ := by
  unfold execKivaselUdpReceive at hx
  with_reducible refine Keep.commit ?_ hx
  clear hx
  have hK := Keep.refl (L := L) s
  repeat' (first
    | with_reducible assumption
    | with_reducible apply State.reach_keep
    | with_reducible apply State.kvArrive_keep
    | with_reducible apply Keep.ite
    | (extract_lets +onlyGivenNames y; (first | ((have hy : Keep L s y := (by unfold y; repeat' (first | with_reducible assumption | with_reducible apply State.reach_keep | with_reducible apply State.kvArrive_keep | with_reducible apply Keep.ite | extract_lets | split))); clear_value y) | clear_value y | skip))
    | split)

theorem execKivaselCanSegment_keep {s s₂ : State} (n : Nat) (t : Nat) (bytes : List Byte) (hx : execKivaselCanSegment n t bytes s = .next s₂) (lClk : L.clk = true := by first | rfl | assumption) (lNet : L.net = true := by first | rfl | assumption) (lCan : L.can = true := by first | rfl | assumption) (lDict : L.dict = true := by first | rfl | assumption) (lEvr : L.evr = true := by first | rfl | assumption) (lFree : L.free = true := by first | rfl | assumption) : Keep L s s₂ := by
  unfold execKivaselCanSegment at hx
  with_reducible refine Keep.commit ?_ hx
  clear hx
  have hK := Keep.refl (L := L) s
  repeat' (first
    | with_reducible assumption
    | with_reducible apply State.reach_keep
    | with_reducible apply State.canHeard_keep
    | with_reducible apply State.kvSegment_keep
    | with_reducible apply Keep.ite
    | split)

theorem execKivaselCanSegmentTimeout_keep {s s₂ : State} (n : Nat) (hx : execKivaselCanSegmentTimeout n s = .next s₂) (lCan : L.can = true := by first | rfl | assumption) : Keep L s s₂ := by
  unfold execKivaselCanSegmentTimeout at hx
  with_reducible refine Keep.commit ?_ hx
  clear hx
  have hK := Keep.refl (L := L) s
  repeat' (first
    | with_reducible assumption
    | with_reducible apply State.upCanPort_keep
    | with_reducible apply Keep.ite
    | split)

theorem execKivaselUsbTransfer_keep {s s₂ : State} (t : Nat) (bytes : List Byte) (hx : execKivaselUsbTransfer t bytes s = .next s₂) (lClk : L.clk = true := by first | rfl | assumption) (lNet : L.net = true := by first | rfl | assumption) (lCan : L.can = true := by first | rfl | assumption) (lDict : L.dict = true := by first | rfl | assumption) (lEvr : L.evr = true := by first | rfl | assumption) (lFree : L.free = true := by first | rfl | assumption) : Keep L s s₂ := by
  unfold execKivaselUsbTransfer at hx
  with_reducible refine Keep.commit ?_ hx
  clear hx
  have hK := Keep.refl (L := L) s
  repeat' (first
    | with_reducible assumption
    | with_reducible apply State.reach_keep
    | with_reducible apply State.kvArrive_keep
    | with_reducible apply Keep.ite
    | (extract_lets +onlyGivenNames y; (first | ((have hy : Keep L s y := (by unfold y; repeat' (first | with_reducible assumption | with_reducible apply State.reach_keep | with_reducible apply State.kvArrive_keep | with_reducible apply Keep.ite | extract_lets | split))); clear_value y) | clear_value y | skip))
    | split)

theorem execKOpen_keep {s s₂ : State} (t : Nat) (hx : execKOpen t s = .next s₂) (lClk : L.clk = true := by first | rfl | assumption) (lNet : L.net = true := by first | rfl | assumption) (lCan : L.can = true := by first | rfl | assumption) (lDict : L.dict = true := by first | rfl | assumption) (lEvr : L.evr = true := by first | rfl | assumption) (lFree : L.free = true := by first | rfl | assumption) : Keep L s s₂ := by
  unfold execKOpen at hx
  with_reducible refine Keep.commit ?_ hx
  clear hx
  have hK := Keep.refl (L := L) s
  repeat' (first
    | with_reducible assumption
    | with_reducible refine State.kvTake_keep ?_ _ _ _ (fun _ _ _ hk => ?_)
    | with_reducible apply State.kvOpen_keep
    | with_reducible apply Keep.ite
    | split)

theorem execKClose_keep {s s₂ : State} (t : Nat) (hx : execKClose t s = .next s₂) (lClk : L.clk = true := by first | rfl | assumption) (lNet : L.net = true := by first | rfl | assumption) (lCan : L.can = true := by first | rfl | assumption) (lDict : L.dict = true := by first | rfl | assumption) (lEvr : L.evr = true := by first | rfl | assumption) : Keep L s s₂ := by
  unfold execKClose at hx
  with_reducible refine Keep.commit ?_ hx
  clear hx
  have hK := Keep.refl (L := L) s
  repeat' (first
    | with_reducible assumption
    | with_reducible refine State.kvTake_keep ?_ _ _ _ (fun _ _ _ hk => ?_)
    | with_reducible apply State.kvClose_keep
    | with_reducible apply Keep.ite
    | split)

theorem execKChallenge_keep {s s₂ : State} (t : Nat) (hx : execKChallenge t s = .next s₂) (lClk : L.clk = true := by first | rfl | assumption) (lNet : L.net = true := by first | rfl | assumption) (lCan : L.can = true := by first | rfl | assumption) (lDict : L.dict = true := by first | rfl | assumption) (lEvr : L.evr = true := by first | rfl | assumption) (lFree : L.free = true := by first | rfl | assumption) : Keep L s s₂ := by
  unfold execKChallenge at hx
  with_reducible refine Keep.commit ?_ hx
  clear hx
  have hK := Keep.refl (L := L) s
  repeat' (first
    | with_reducible assumption
    | with_reducible refine State.kvTake_keep ?_ _ _ _ (fun _ _ _ hk => ?_)
    | with_reducible apply State.kvChallenge_keep
    | with_reducible apply Keep.ite
    | split)

theorem execKLogin_keep {s s₂ : State} (t : Nat) (hx : execKLogin t s = .next s₂) (lClk : L.clk = true := by first | rfl | assumption) (lNet : L.net = true := by first | rfl | assumption) (lCan : L.can = true := by first | rfl | assumption) (lDict : L.dict = true := by first | rfl | assumption) (lEvr : L.evr = true := by first | rfl | assumption) : Keep L s s₂ := by
  unfold execKLogin at hx
  with_reducible refine Keep.commit ?_ hx
  clear hx
  have hK := Keep.refl (L := L) s
  repeat' (first
    | with_reducible assumption
    | with_reducible refine State.kvTake_keep ?_ _ _ _ (fun _ _ _ hk => ?_)
    | with_reducible apply State.kvLogin_keep
    | with_reducible apply Keep.ite
    | split)

theorem execLoginLockoutEnd_keep {s s₂ : State} (chan : KChan) (hx : execLoginLockoutEnd chan s = .next s₂) (lDict : L.dict = true := by first | rfl | assumption) : Keep L s s₂ := by
  unfold execLoginLockoutEnd at hx
  with_reducible refine Keep.commit ?_ hx
  clear hx
  have hK := Keep.refl (L := L) s
  repeat' (first
    | with_reducible assumption
    | with_reducible refine Keep.upDict ?_ ?_
    | exact Eq.refl _
    | with_reducible apply Keep.ite
    | split)

theorem execKRead_keep {s s₂ : State} (t : Nat) (ecc : List Ecc) (hx : execKRead t ecc s = .next s₂) (lClk : L.clk = true := by first | rfl | assumption) (lSto : L.sto = true := by first | rfl | assumption) (lNet : L.net = true := by first | rfl | assumption) (lCan : L.can = true := by first | rfl | assumption) (lDict : L.dict = true := by first | rfl | assumption) (lHost : L.host = true := by first | rfl | assumption) (lEvr : L.evr = true := by first | rfl | assumption) (lTrc : L.trc = true := by first | rfl | assumption) : Keep L s s₂ := by
  unfold execKRead at hx
  with_reducible refine Keep.commit ?_ hx
  clear hx
  have hK := Keep.refl (L := L) s
  repeat' (first
    | with_reducible assumption
    | with_reducible refine State.kvTake_keep ?_ _ _ _ (fun _ _ _ hk => ?_)
    | with_reducible apply State.kvRead_keep
    | with_reducible apply Keep.ite
    | split)

theorem execKReadMulti_keep {s s₂ : State} (t : Nat) (ecc : List Ecc) (hx : execKReadMulti t ecc s = .next s₂) (lClk : L.clk = true := by first | rfl | assumption) (lSto : L.sto = true := by first | rfl | assumption) (lNet : L.net = true := by first | rfl | assumption) (lCan : L.can = true := by first | rfl | assumption) (lDict : L.dict = true := by first | rfl | assumption) (lHost : L.host = true := by first | rfl | assumption) (lEvr : L.evr = true := by first | rfl | assumption) (lTrc : L.trc = true := by first | rfl | assumption) : Keep L s s₂ := by
  unfold execKReadMulti at hx
  with_reducible refine Keep.commit ?_ hx
  clear hx
  have hK := Keep.refl (L := L) s
  repeat' (first
    | with_reducible assumption
    | with_reducible refine State.kvTake_keep ?_ _ _ _ (fun _ _ _ hk => ?_)
    | with_reducible apply State.kvReadMulti_keep
    | with_reducible apply Keep.ite
    | split)

theorem execKDescribe_keep {s s₂ : State} (t : Nat) (hx : execKDescribe t s = .next s₂) (lClk : L.clk = true := by first | rfl | assumption) (lNet : L.net = true := by first | rfl | assumption) (lCan : L.can = true := by first | rfl | assumption) (lDict : L.dict = true := by first | rfl | assumption) (lEvr : L.evr = true := by first | rfl | assumption) : Keep L s s₂ := by
  unfold execKDescribe at hx
  with_reducible refine Keep.commit ?_ hx
  clear hx
  have hK := Keep.refl (L := L) s
  repeat' (first
    | with_reducible assumption
    | with_reducible refine State.kvTake_keep ?_ _ _ _ (fun _ _ _ hk => ?_)
    | with_reducible apply State.kvDescribe_keep
    | with_reducible apply Keep.ite
    | split)

theorem execKWrite_keep {s s₂ : State} (t : Nat) (hx : execKWrite t s = .next s₂) (lClk : L.clk = true := by first | rfl | assumption) (lClu : L.clu = true := by first | rfl | assumption) (lTasks : L.tasks = true := by first | rfl | assumption) (lSto : L.sto = true := by first | rfl | assumption) (lLdr : L.ldr = true := by first | rfl | assumption) (lCsw : L.csw = true := by first | rfl | assumption) (lFio : L.fio = true := by first | rfl | assumption) (lNet : L.net = true := by first | rfl | assumption) (lCan : L.can = true := by first | rfl | assumption) (lDict : L.dict = true := by first | rfl | assumption) (lHost : L.host = true := by first | rfl | assumption) (lWdg : L.wdg = true := by first | rfl | assumption) (lEvr : L.evr = true := by first | rfl | assumption) (lTrc : L.trc = true := by first | rfl | assumption) (lNvp : L.nvp = true := by first | rfl | assumption) (lFw : L.fw = true := by first | rfl | assumption) (lRtc : L.rtc = true := by first | rfl | assumption) (lPwr : L.pwr = true := by first | rfl | assumption) (lFree : L.free = true := by first | rfl | assumption) : Keep L s s₂ := by
  unfold execKWrite at hx
  with_reducible refine Keep.commit ?_ hx
  clear hx
  have hK := Keep.refl (L := L) s
  repeat' (first
    | with_reducible assumption
    | with_reducible refine State.kvTake_keep ?_ _ _ _ (fun _ _ _ hk => ?_)
    | with_reducible apply State.kvWrite_keep
    | with_reducible apply Keep.ite
    | split)

theorem execBatchOpen_keep {s s₂ : State} (t : Nat) (hx : execBatchOpen t s = .next s₂) (lClk : L.clk = true := by first | rfl | assumption) (lNet : L.net = true := by first | rfl | assumption) (lCan : L.can = true := by first | rfl | assumption) (lDict : L.dict = true := by first | rfl | assumption) (lEvr : L.evr = true := by first | rfl | assumption) : Keep L s s₂ := by
  unfold execBatchOpen at hx
  with_reducible refine Keep.commit ?_ hx
  clear hx
  have hK := Keep.refl (L := L) s
  repeat' (first
    | with_reducible assumption
    | with_reducible refine State.kvTake_keep ?_ _ _ _ (fun _ _ _ hk => ?_)
    | with_reducible apply State.kvBatchOpen_keep
    | with_reducible apply Keep.ite
    | split)

theorem execBatchAdd_keep {s s₂ : State} (t : Nat) (hx : execBatchAdd t s = .next s₂) (lClk : L.clk = true := by first | rfl | assumption) (lNet : L.net = true := by first | rfl | assumption) (lCan : L.can = true := by first | rfl | assumption) (lDict : L.dict = true := by first | rfl | assumption) (lEvr : L.evr = true := by first | rfl | assumption) : Keep L s s₂ := by
  unfold execBatchAdd at hx
  with_reducible refine Keep.commit ?_ hx
  clear hx
  have hK := Keep.refl (L := L) s
  repeat' (first
    | with_reducible assumption
    | with_reducible refine State.kvTake_keep ?_ _ _ _ (fun _ _ _ hk => ?_)
    | with_reducible apply State.kvBatchAdd_keep
    | with_reducible apply Keep.ite
    | split)

theorem execBatchCommit_keep {s s₂ : State} (t : Nat) (hx : execBatchCommit t s = .next s₂) (lClk : L.clk = true := by first | rfl | assumption) (lSto : L.sto = true := by first | rfl | assumption) (lNet : L.net = true := by first | rfl | assumption) (lCan : L.can = true := by first | rfl | assumption) (lDict : L.dict = true := by first | rfl | assumption) (lEvr : L.evr = true := by first | rfl | assumption) : Keep L s s₂ := by
  unfold execBatchCommit at hx
  with_reducible refine Keep.commit ?_ hx
  clear hx
  have hK := Keep.refl (L := L) s
  repeat' (first
    | with_reducible assumption
    | with_reducible refine State.kvTake_keep ?_ _ _ _ (fun _ _ _ hk => ?_)
    | with_reducible apply State.kvBatchCommit_keep
    | with_reducible apply Keep.ite
    | split)

theorem execBatchStatus_keep {s s₂ : State} (t : Nat) (hx : execBatchStatus t s = .next s₂) (lClk : L.clk = true := by first | rfl | assumption) (lNet : L.net = true := by first | rfl | assumption) (lCan : L.can = true := by first | rfl | assumption) (lDict : L.dict = true := by first | rfl | assumption) (lEvr : L.evr = true := by first | rfl | assumption) : Keep L s s₂ := by
  unfold execBatchStatus at hx
  with_reducible refine Keep.commit ?_ hx
  clear hx
  have hK := Keep.refl (L := L) s
  repeat' (first
    | with_reducible assumption
    | with_reducible refine State.kvTake_keep ?_ _ _ _ (fun _ _ _ hk => ?_)
    | with_reducible apply State.kvBatchStatus_keep
    | with_reducible apply Keep.ite
    | split)

theorem execBatchDiscard_keep {s s₂ : State} (t : Nat) (hx : execBatchDiscard t s = .next s₂) (lClk : L.clk = true := by first | rfl | assumption) (lNet : L.net = true := by first | rfl | assumption) (lCan : L.can = true := by first | rfl | assumption) (lDict : L.dict = true := by first | rfl | assumption) (lEvr : L.evr = true := by first | rfl | assumption) (lFree : L.free = true := by first | rfl | assumption) : Keep L s s₂ := by
  unfold execBatchDiscard at hx
  with_reducible refine Keep.commit ?_ hx
  clear hx
  have hK := Keep.refl (L := L) s
  repeat' (first
    | with_reducible assumption
    | with_reducible refine State.kvTake_keep ?_ _ _ _ (fun _ _ _ hk => ?_)
    | with_reducible apply State.kvBatchDiscard_keep
    | with_reducible apply Keep.ite
    | split)

theorem execAccessKeyWrite_keep {s s₂ : State} (t : Nat) (hx : execAccessKeyWrite t s = .next s₂) (lClk : L.clk = true := by first | rfl | assumption) (lClu : L.clu = true := by first | rfl | assumption) (lTasks : L.tasks = true := by first | rfl | assumption) (lSto : L.sto = true := by first | rfl | assumption) (lLdr : L.ldr = true := by first | rfl | assumption) (lCsw : L.csw = true := by first | rfl | assumption) (lFio : L.fio = true := by first | rfl | assumption) (lNet : L.net = true := by first | rfl | assumption) (lCan : L.can = true := by first | rfl | assumption) (lDict : L.dict = true := by first | rfl | assumption) (lHost : L.host = true := by first | rfl | assumption) (lWdg : L.wdg = true := by first | rfl | assumption) (lEvr : L.evr = true := by first | rfl | assumption) (lTrc : L.trc = true := by first | rfl | assumption) (lNvp : L.nvp = true := by first | rfl | assumption) (lFw : L.fw = true := by first | rfl | assumption) (lRtc : L.rtc = true := by first | rfl | assumption) (lPwr : L.pwr = true := by first | rfl | assumption) (lFree : L.free = true := by first | rfl | assumption) : Keep L s s₂ := by
  unfold execAccessKeyWrite at hx
  with_reducible refine Keep.commit ?_ hx
  clear hx
  have hK := Keep.refl (L := L) s
  repeat' (first
    | with_reducible assumption
    | with_reducible refine State.kvTake_keep ?_ _ _ _ (fun _ _ _ hk => ?_)
    | with_reducible apply State.kvWrite_keep
    | with_reducible apply Keep.ite
    | split)

theorem execFuseBlow_keep {s s₂ : State} (t : Nat) (hx : execFuseBlow t s = .next s₂) (lClk : L.clk = true := by first | rfl | assumption) (lClu : L.clu = true := by first | rfl | assumption) (lTasks : L.tasks = true := by first | rfl | assumption) (lSto : L.sto = true := by first | rfl | assumption) (lLdr : L.ldr = true := by first | rfl | assumption) (lCsw : L.csw = true := by first | rfl | assumption) (lFio : L.fio = true := by first | rfl | assumption) (lNet : L.net = true := by first | rfl | assumption) (lCan : L.can = true := by first | rfl | assumption) (lDict : L.dict = true := by first | rfl | assumption) (lHost : L.host = true := by first | rfl | assumption) (lWdg : L.wdg = true := by first | rfl | assumption) (lEvr : L.evr = true := by first | rfl | assumption) (lTrc : L.trc = true := by first | rfl | assumption) (lNvp : L.nvp = true := by first | rfl | assumption) (lFw : L.fw = true := by first | rfl | assumption) (lRtc : L.rtc = true := by first | rfl | assumption) (lPwr : L.pwr = true := by first | rfl | assumption) (lFree : L.free = true := by first | rfl | assumption) : Keep L s s₂ := by
  unfold execFuseBlow at hx
  with_reducible refine Keep.commit ?_ hx
  clear hx
  have hK := Keep.refl (L := L) s
  repeat' (first
    | with_reducible assumption
    | with_reducible refine State.kvTake_keep ?_ _ _ _ (fun _ _ _ hk => ?_)
    | with_reducible apply State.kvWrite_keep
    | with_reducible apply Keep.ite
    | split)

theorem execRestoreDefaults_keep {s s₂ : State} (t : Nat) (hx : execRestoreDefaults t s = .next s₂) (lClk : L.clk = true := by first | rfl | assumption) (lClu : L.clu = true := by first | rfl | assumption) (lTasks : L.tasks = true := by first | rfl | assumption) (lSto : L.sto = true := by first | rfl | assumption) (lLdr : L.ldr = true := by first | rfl | assumption) (lCsw : L.csw = true := by first | rfl | assumption) (lFio : L.fio = true := by first | rfl | assumption) (lNet : L.net = true := by first | rfl | assumption) (lCan : L.can = true := by first | rfl | assumption) (lDict : L.dict = true := by first | rfl | assumption) (lHost : L.host = true := by first | rfl | assumption) (lWdg : L.wdg = true := by first | rfl | assumption) (lEvr : L.evr = true := by first | rfl | assumption) (lTrc : L.trc = true := by first | rfl | assumption) (lNvp : L.nvp = true := by first | rfl | assumption) (lFw : L.fw = true := by first | rfl | assumption) (lRtc : L.rtc = true := by first | rfl | assumption) (lPwr : L.pwr = true := by first | rfl | assumption) (lFree : L.free = true := by first | rfl | assumption) : Keep L s s₂ := by
  unfold execRestoreDefaults at hx
  with_reducible refine Keep.commit ?_ hx
  clear hx
  have hK := Keep.refl (L := L) s
  repeat' (first
    | with_reducible assumption
    | with_reducible refine State.kvTake_keep ?_ _ _ _ (fun _ _ _ hk => ?_)
    | with_reducible apply State.kvWrite_keep
    | with_reducible apply Keep.ite
    | split)

theorem execCalendarNowRead_keep {s s₂ : State} (hx : execCalendarNowRead s = .next s₂) (lClk : L.clk = true := by first | rfl | assumption) (lSto : L.sto = true := by first | rfl | assumption) (lNet : L.net = true := by first | rfl | assumption) (lCan : L.can = true := by first | rfl | assumption) (lDict : L.dict = true := by first | rfl | assumption) (lHost : L.host = true := by first | rfl | assumption) (lEvr : L.evr = true := by first | rfl | assumption) (lTrc : L.trc = true := by first | rfl | assumption) : Keep L s s₂ := by
  unfold execCalendarNowRead at hx
  with_reducible refine Keep.commit ?_ hx
  clear hx
  have hK := Keep.refl (L := L) s
  repeat' (first
    | with_reducible assumption
    | with_reducible refine State.kvTake_keep ?_ _ _ _ (fun _ _ _ hk => ?_)
    | with_reducible apply State.kvRead_keep
    | with_reducible apply Keep.ite
    | split)

theorem execSessionTimeout_keep {s s₂ : State} (id : Nat) (t : Nat) (hx : execSessionTimeout id t s = .next s₂) (lClk : L.clk = true := by first | rfl | assumption) (lDict : L.dict = true := by first | rfl | assumption) : Keep L s s₂ := by
  unfold execSessionTimeout at hx
  with_reducible refine Keep.commit ?_ hx
  clear hx
  have hK := Keep.refl (L := L) s
  repeat' (first
    | with_reducible assumption
    | with_reducible apply State.reach_keep
    | with_reducible apply State.closeSession_keep
    | with_reducible apply Keep.ite
    | (extract_lets +onlyGivenNames y; (first | ((have hy : Keep L s y := (by unfold y; repeat' (first | with_reducible assumption | with_reducible apply State.reach_keep | with_reducible apply State.closeSession_keep | with_reducible apply Keep.ite | extract_lets | split))); clear_value y) | clear_value y | skip))
    | split)

theorem execBatchIdleTimeout_keep {s s₂ : State} (id : Nat) (t : Nat) (hx : execBatchIdleTimeout id t s = .next s₂) (lClk : L.clk = true := by first | rfl | assumption) (lDict : L.dict = true := by first | rfl | assumption) : Keep L s s₂ := by
  unfold execBatchIdleTimeout at hx
  with_reducible refine Keep.commit ?_ hx
  clear hx
  have hK := Keep.refl (L := L) s
  repeat' (first
    | with_reducible assumption
    | with_reducible apply State.reach_keep
    | with_reducible apply State.upSession_keep
    | with_reducible apply Keep.ite
    | (extract_lets +onlyGivenNames y; (first | ((have hy : Keep L s y := (by unfold y; repeat' (first | with_reducible assumption | with_reducible apply State.reach_keep | with_reducible apply State.upSession_keep | with_reducible apply Keep.ite | extract_lets | split))); clear_value y) | clear_value y | skip))
    | split)

theorem execFuseBlowEnd_keep {s s₂ : State} (hx : execFuseBlowEnd s = .next s₂) (lDict : L.dict = true := by first | rfl | assumption) (lHost : L.host = true := by first | rfl | assumption) : Keep L s s₂ := by
  unfold execFuseBlowEnd at hx
  with_reducible refine Keep.commit ?_ hx
  clear hx
  have hK := Keep.refl (L := L) s
  repeat' (first
    | with_reducible assumption
    | with_reducible apply State.fuseBlown_keep
    | with_reducible apply Keep.ite
    | split)

end Sys2Proof.Machine
end

