-- ==== Sys2Proof/Laws/KeepReset.lean ====
section
/-! SUPPORT. What each operation of Machine/Reset.lean keeps (Laws/Keep.lean). -/

set_option Elab.async false
set_option linter.all false

namespace Sys2Proof.Machine

open Sys2Proof

set_option linter.unusedVariables false
set_option linter.tactic.unusedName false

variable {L : Parts}

theorem State.journalEnds_keep {o₀ s : State} (hK : Keep L o₀ s) (lSto : L.sto = true := by first | rfl | assumption) (lEvr : L.evr = true := by first | rfl | assumption) : Keep L o₀ (State.journalEnds s) := by
  unfold State.journalEnds
  repeat' (first
    | with_reducible assumption
    | with_reducible apply State.headDurable_keep
    | with_reducible refine Keep.upSto ?_ (fun xk => ?_)
    | with_reducible exact xk
    | (with_reducible refine Store.wf.mk ?_ ?_ ?_ ?_ ?_ <;> try dsimp only)
    | with_reducible exact xk.program
    | with_reducible exact xk.lmem
    | with_reducible exact xk.durable
    | with_reducible exact xk.inView
    | with_reducible exact xk.launched
    | with_reducible apply memPut_wf
    | with_reducible apply ov_apply_wf
    | with_reducible apply memWrite_wf
    | with_reducible apply memClear_wf
    | with_reducible apply memRange_wf
    | with_reducible apply mem_nil_wf
    | with_reducible apply memOf_wf
    | with_reducible apply Keep.ite
    | split)

theorem map_retained_cal (v : Vector MetChan 12) (c : Nat) :
    (vget (v.map MetChan.retained) c MetChan.reset).cal = (vget v c MetChan.reset).cal := by
  unfold vget
  by_cases h : c < 12
  · simp [h]; rfl
  · simp [h]

theorem Loader.retained_conv (l : Loader) (keep : Bool) : (l.retained keep).conv.wf = true := by
  unfold Loader.retained
  cases keep <;> rfl

theorem State.retained_keep {o s : State} (hK : Keep L o s) (keep : Bool) (lClk : L.clk = true := by first | rfl | assumption) (lClu : L.clu = true := by first | rfl | assumption) (lTasks : L.tasks = true := by first | rfl | assumption) (lSto : L.sto = true := by first | rfl | assumption) (lLdr : L.ldr = true := by first | rfl | assumption) (lCsw : L.csw = true := by first | rfl | assumption) (lFio : L.fio = true := by first | rfl | assumption) (lNet : L.net = true := by first | rfl | assumption) (lCan : L.can = true := by first | rfl | assumption) (lDict : L.dict = true := by first | rfl | assumption) (lHost : L.host = true := by first | rfl | assumption) (lWdg : L.wdg = true := by first | rfl | assumption) (lEvr : L.evr = true := by first | rfl | assumption) (lTrc : L.trc = true := by first | rfl | assumption) (lNvp : L.nvp = true := by first | rfl | assumption) (lFw : L.fw = true := by first | rfl | assumption) (lRtc : L.rtc = true := by first | rfl | assumption) (lPwr : L.pwr = true := by first | rfl | assumption) (lMet : L.met = true := by first | rfl | assumption) (lFree : L.free = true := by first | rfl | assumption) : Keep L o (State.retained s keep) where
  guard :=
    { sto := fun x => ⟨⟨(hK.1.1 x).1.program, (hK.1.1 x).1.durable, (hK.1.1 x).1.durable, mem_nil_wf, mem_nil_wf⟩, Loader.retained_conv _ _⟩
      queue := fun _ => Nat.zero_le _
      counts := fun _ => by
        intro c hc
        cases hc
      fuses := hK.1.fuses
      audit := hK.1.audit
      bound := hK.1.bound
      events := hK.1.events
      cal := fun x c => (map_retained_cal _ c).trans (hK.1.cal x c) }
  frame :=
    { clk := touched lClk, clu := touched lClu, tasks := touched lTasks, sto := touched lSto, ldr := touched lLdr, csw := touched lCsw,
      fio := touched lFio, net := touched lNet, can := touched lCan, dict := touched lDict, host := touched lHost, wdg := touched lWdg,
      evr := touched lEvr, trc := touched lTrc, nvp := touched lNvp, fw := touched lFw, rtc := touched lRtc, pwr := touched lPwr,
      met := touched lMet, free := touched lFree, role := hK.2.role, pending := hK.2.pending }

theorem State.deviceReset_keep {o₀ s : State} (hK : Keep L o₀ s) (lClk : L.clk = true := by first | rfl | assumption) (lClu : L.clu = true := by first | rfl | assumption) (lTasks : L.tasks = true := by first | rfl | assumption) (lSto : L.sto = true := by first | rfl | assumption) (lLdr : L.ldr = true := by first | rfl | assumption) (lCsw : L.csw = true := by first | rfl | assumption) (lFio : L.fio = true := by first | rfl | assumption) (lNet : L.net = true := by first | rfl | assumption) (lCan : L.can = true := by first | rfl | assumption) (lDict : L.dict = true := by first | rfl | assumption) (lHost : L.host = true := by first | rfl | assumption) (lWdg : L.wdg = true := by first | rfl | assumption) (lEvr : L.evr = true := by first | rfl | assumption) (lTrc : L.trc = true := by first | rfl | assumption) (lNvp : L.nvp = true := by first | rfl | assumption) (lFw : L.fw = true := by first | rfl | assumption) (lRtc : L.rtc = true := by first | rfl | assumption) (lPwr : L.pwr = true := by first | rfl | assumption) (lMet : L.met = true := by first | rfl | assumption) (lFree : L.free = true := by first | rfl | assumption) : Keep L o₀ (State.deviceReset s) := by
  unfold State.deviceReset
  repeat' (first
    | with_reducible assumption
    | with_reducible apply State.abandonOpen_keep
    | with_reducible apply State.stopBeats_keep
    | with_reducible apply State.journalEnds_keep
    | with_reducible apply State.fwReset_keep
    | with_reducible apply State.metDown_keep
    | with_reducible apply State.keepTime_keep
    | with_reducible apply State.retained_keep
    | with_reducible apply Keep.upFw
    | with_reducible apply Keep.upPwr
    | with_reducible apply Keep.ite
    | with_reducible refine Keep.of_eq1 ?_ (by assumption)
    | with_reducible refine Keep.of_eq2 ?_ (by assumption)
    | (extract_lets +onlyGivenNames y; (first | ((have hy : Keep L o₀ y := (by unfold y; repeat' (first | with_reducible assumption | with_reducible apply State.abandonOpen_keep | with_reducible apply State.stopBeats_keep | with_reducible apply State.journalEnds_keep | with_reducible apply State.fwReset_keep | with_reducible apply State.metDown_keep | with_reducible apply State.keepTime_keep | with_reducible apply State.retained_keep | with_reducible apply Keep.upFw | with_reducible apply Keep.upPwr | with_reducible apply Keep.ite | with_reducible refine Keep.of_eq1 ?_ (by assumption) | with_reducible refine Keep.of_eq2 ?_ (by assumption) | extract_lets | split))); clear_value y) | ((have hy : Keep L o₀ y.1 := (by unfold y; repeat' (first | with_reducible assumption | with_reducible apply State.abandonOpen_keep | with_reducible apply State.stopBeats_keep | with_reducible apply State.journalEnds_keep | with_reducible apply State.fwReset_keep | with_reducible apply State.metDown_keep | with_reducible apply State.keepTime_keep | with_reducible apply State.retained_keep | with_reducible apply Keep.upFw | with_reducible apply Keep.upPwr | with_reducible apply Keep.ite | with_reducible refine Keep.of_eq1 ?_ (by assumption) | with_reducible refine Keep.of_eq2 ?_ (by assumption) | extract_lets | split))); clear_value y) | ((have hy : Keep L o₀ y.2 := (by unfold y; repeat' (first | with_reducible assumption | with_reducible apply State.abandonOpen_keep | with_reducible apply State.stopBeats_keep | with_reducible apply State.journalEnds_keep | with_reducible apply State.fwReset_keep | with_reducible apply State.metDown_keep | with_reducible apply State.keepTime_keep | with_reducible apply State.retained_keep | with_reducible apply Keep.upFw | with_reducible apply Keep.upPwr | with_reducible apply Keep.ite | with_reducible refine Keep.of_eq1 ?_ (by assumption) | with_reducible refine Keep.of_eq2 ?_ (by assumption) | extract_lets | split))); clear_value y) | clear_value y | skip))
    | split)

theorem State.cutFuses_keep {o₀ s : State} (hK : Keep L o₀ s) (lDict : L.dict = true := by first | rfl | assumption) (lHost : L.host = true := by first | rfl | assumption) (lFree : L.free = true := by first | rfl | assumption) : Keep L o₀ (State.cutFuses s) := by
  unfold State.cutFuses
  repeat' (first
    | with_reducible assumption
    | with_reducible apply State.fuseBlown_keep
    | with_reducible apply State.useFree_keep
    | with_reducible refine Keep.upDict ?_ ?_
    | exact Eq.refl _
    | with_reducible refine Keep.foldl (fun _ _ _ => ?_) _ ?_
    | with_reducible refine Keep.foldl1 (fun _ _ _ _ => ?_) _ ?_
    | with_reducible refine Keep.foldl2 (fun _ _ _ _ => ?_) _ ?_
    | with_reducible apply Keep.ite
    | (extract_lets +onlyGivenNames y; (first | ((have hy : Keep L o₀ y := (by unfold y; repeat' (first | with_reducible assumption | with_reducible apply State.fuseBlown_keep | with_reducible apply State.useFree_keep | with_reducible refine Keep.upDict ?_ ?_ | exact Eq.refl _ | with_reducible refine Keep.foldl (fun _ _ _ => ?_) _ ?_ | with_reducible refine Keep.foldl1 (fun _ _ _ _ => ?_) _ ?_ | with_reducible refine Keep.foldl2 (fun _ _ _ _ => ?_) _ ?_ | with_reducible apply Keep.ite | extract_lets | split))); clear_value y) | ((have hy : Keep L o₀ y.1 := (by unfold y; repeat' (first | with_reducible assumption | with_reducible apply State.fuseBlown_keep | with_reducible apply State.useFree_keep | with_reducible refine Keep.upDict ?_ ?_ | exact Eq.refl _ | with_reducible refine Keep.foldl (fun _ _ _ => ?_) _ ?_ | with_reducible refine Keep.foldl1 (fun _ _ _ _ => ?_) _ ?_ | with_reducible refine Keep.foldl2 (fun _ _ _ _ => ?_) _ ?_ | with_reducible apply Keep.ite | extract_lets | split))); clear_value y) | ((have hy : Keep L o₀ y.2 := (by unfold y; repeat' (first | with_reducible assumption | with_reducible apply State.fuseBlown_keep | with_reducible apply State.useFree_keep | with_reducible refine Keep.upDict ?_ ?_ | exact Eq.refl _ | with_reducible refine Keep.foldl (fun _ _ _ => ?_) _ ?_ | with_reducible refine Keep.foldl1 (fun _ _ _ _ => ?_) _ ?_ | with_reducible refine Keep.foldl2 (fun _ _ _ _ => ?_) _ ?_ | with_reducible apply Keep.ite | extract_lets | split))); clear_value y) | clear_value y | skip))
    | split)

theorem State.aoLost_keep {o₀ s : State} (hK : Keep L o₀ s) (lHost : L.host = true := by first | rfl | assumption) (lWdg : L.wdg = true := by first | rfl | assumption) (lNvp : L.nvp = true := by first | rfl | assumption) (lRtc : L.rtc = true := by first | rfl | assumption) (lPwr : L.pwr = true := by first | rfl | assumption) : Keep L o₀ (State.aoLost s) := by
  unfold State.aoLost
  repeat' (first
    | with_reducible assumption
    | with_reducible apply State.powerCause_keep
    | with_reducible apply State.retained_keep
    | with_reducible apply Keep.upWdg
    | with_reducible apply Keep.upNvp
    | with_reducible apply Keep.upRtc
    | with_reducible apply Keep.upPwr
    | with_reducible refine Keep.upHost ?_ (fun xk => ?_)
    | exact xk
    | with_reducible apply Keep.ite
    | (extract_lets +onlyGivenNames y; (first | ((have hy : Keep L o₀ y := (by unfold y; repeat' (first | with_reducible assumption | with_reducible apply State.powerCause_keep | with_reducible apply State.retained_keep | with_reducible apply Keep.upWdg | with_reducible apply Keep.upNvp | with_reducible apply Keep.upRtc | with_reducible apply Keep.upPwr | with_reducible refine Keep.upHost ?_ (fun xk => ?_) | exact xk | with_reducible apply Keep.ite | extract_lets | split))); clear_value y) | clear_value y | skip))
    | split)

theorem State.powerOff_keep {o₀ s : State} (hK : Keep L o₀ s) (cut : List Nat) (headErased : Bool) (thermal : Bool) (lClk : L.clk = true := by first | rfl | assumption) (lClu : L.clu = true := by first | rfl | assumption) (lTasks : L.tasks = true := by first | rfl | assumption) (lSto : L.sto = true := by first | rfl | assumption) (lLdr : L.ldr = true := by first | rfl | assumption) (lCsw : L.csw = true := by first | rfl | assumption) (lFio : L.fio = true := by first | rfl | assumption) (lNet : L.net = true := by first | rfl | assumption) (lCan : L.can = true := by first | rfl | assumption) (lDict : L.dict = true := by first | rfl | assumption) (lHost : L.host = true := by first | rfl | assumption) (lWdg : L.wdg = true := by first | rfl | assumption) (lEvr : L.evr = true := by first | rfl | assumption) (lTrc : L.trc = true := by first | rfl | assumption) (lNvp : L.nvp = true := by first | rfl | assumption) (lFw : L.fw = true := by first | rfl | assumption) (lRtc : L.rtc = true := by first | rfl | assumption) (lPwr : L.pwr = true := by first | rfl | assumption) (lMet : L.met = true := by first | rfl | assumption) (lFree : L.free = true := by first | rfl | assumption) : Keep L o₀ (State.powerOff s cut headErased thermal) := by
  unfold State.powerOff
  repeat' (first
    | with_reducible assumption
    | with_reducible apply State.journalEnds_keep
    | with_reducible apply State.cutPageStep_keep
    | with_reducible apply State.fwPowerLoss_keep
    | with_reducible apply State.metDown_keep
    | with_reducible apply State.cutFuses_keep
    | with_reducible apply State.keepTime_keep
    | with_reducible apply State.retained_keep
    | with_reducible apply State.aoLost_keep
    | with_reducible apply Keep.upPwr
    | with_reducible apply Keep.ite
    | (extract_lets +onlyGivenNames y; (first | ((have hy : Keep L o₀ y := (by unfold y; repeat' (first | with_reducible assumption | with_reducible apply State.journalEnds_keep | with_reducible apply State.cutPageStep_keep | with_reducible apply State.fwPowerLoss_keep | with_reducible apply State.metDown_keep | with_reducible apply State.cutFuses_keep | with_reducible apply State.keepTime_keep | with_reducible apply State.retained_keep | with_reducible apply State.aoLost_keep | with_reducible apply Keep.upPwr | with_reducible apply Keep.ite | extract_lets | split))); clear_value y) | clear_value y | skip))
    | split)

theorem State.vinGone_keep {o₀ s : State} (hK : Keep L o₀ s) (cut : List Nat) (headErased : Bool) (lClk : L.clk = true := by first | rfl | assumption) (lClu : L.clu = true := by first | rfl | assumption) (lTasks : L.tasks = true := by first | rfl | assumption) (lSto : L.sto = true := by first | rfl | assumption) (lLdr : L.ldr = true := by first | rfl | assumption) (lCsw : L.csw = true := by first | rfl | assumption) (lFio : L.fio = true := by first | rfl | assumption) (lNet : L.net = true := by first | rfl | assumption) (lCan : L.can = true := by first | rfl | assumption) (lDict : L.dict = true := by first | rfl | assumption) (lHost : L.host = true := by first | rfl | assumption) (lWdg : L.wdg = true := by first | rfl | assumption) (lEvr : L.evr = true := by first | rfl | assumption) (lTrc : L.trc = true := by first | rfl | assumption) (lNvp : L.nvp = true := by first | rfl | assumption) (lFw : L.fw = true := by first | rfl | assumption) (lRtc : L.rtc = true := by first | rfl | assumption) (lPwr : L.pwr = true := by first | rfl | assumption) (lMet : L.met = true := by first | rfl | assumption) (lFree : L.free = true := by first | rfl | assumption) : Keep L o₀ (State.vinGone s cut headErased) := by
  unfold State.vinGone
  repeat' (first
    | with_reducible assumption
    | with_reducible apply State.powerOff_keep
    | with_reducible apply Keep.ite
    | split)

theorem State.backplate_keep {o₀ s : State} (hK : Keep L o₀ s) (temp : Int) (cut : List Nat) (headErased : Bool) (lClk : L.clk = true := by first | rfl | assumption) (lClu : L.clu = true := by first | rfl | assumption) (lTasks : L.tasks = true := by first | rfl | assumption) (lSto : L.sto = true := by first | rfl | assumption) (lLdr : L.ldr = true := by first | rfl | assumption) (lCsw : L.csw = true := by first | rfl | assumption) (lFio : L.fio = true := by first | rfl | assumption) (lNet : L.net = true := by first | rfl | assumption) (lCan : L.can = true := by first | rfl | assumption) (lDict : L.dict = true := by first | rfl | assumption) (lHost : L.host = true := by first | rfl | assumption) (lWdg : L.wdg = true := by first | rfl | assumption) (lEvr : L.evr = true := by first | rfl | assumption) (lTrc : L.trc = true := by first | rfl | assumption) (lNvp : L.nvp = true := by first | rfl | assumption) (lFw : L.fw = true := by first | rfl | assumption) (lRtc : L.rtc = true := by first | rfl | assumption) (lPwr : L.pwr = true := by first | rfl | assumption) (lMet : L.met = true := by first | rfl | assumption) (lFree : L.free = true := by first | rfl | assumption) : Keep L o₀ (State.backplate s temp cut headErased) := by
  unfold State.backplate
  repeat' (first
    | with_reducible assumption
    | with_reducible apply State.powerOff_keep
    | with_reducible apply Keep.upPwr
    | with_reducible apply Keep.ite
    | (extract_lets +onlyGivenNames y; (first | ((have hy : Keep L o₀ y := (by unfold y; repeat' (first | with_reducible assumption | with_reducible apply State.powerOff_keep | with_reducible apply Keep.upPwr | with_reducible apply Keep.ite | extract_lets | split))); clear_value y) | clear_value y | skip))
    | split)

theorem execVinLoss_keep {s s₂ : State} (cut : List Nat) (headErased : Bool) (hx : execVinLoss cut headErased s = .next s₂) (lClk : L.clk = true := by first | rfl | assumption) (lClu : L.clu = true := by first | rfl | assumption) (lTasks : L.tasks = true := by first | rfl | assumption) (lSto : L.sto = true := by first | rfl | assumption) (lLdr : L.ldr = true := by first | rfl | assumption) (lCsw : L.csw = true := by first | rfl | assumption) (lFio : L.fio = true := by first | rfl | assumption) (lNet : L.net = true := by first | rfl | assumption) (lCan : L.can = true := by first | rfl | assumption) (lDict : L.dict = true := by first | rfl | assumption) (lHost : L.host = true := by first | rfl | assumption) (lWdg : L.wdg = true := by first | rfl | assumption) (lEvr : L.evr = true := by first | rfl | assumption) (lTrc : L.trc = true := by first | rfl | assumption) (lNvp : L.nvp = true := by first | rfl | assumption) (lFw : L.fw = true := by first | rfl | assumption) (lRtc : L.rtc = true := by first | rfl | assumption) (lPwr : L.pwr = true := by first | rfl | assumption) (lMet : L.met = true := by first | rfl | assumption) (lFree : L.free = true := by first | rfl | assumption) : Keep L s s₂ := by
  unfold execVinLoss at hx
  with_reducible refine Keep.commit ?_ hx
  clear hx
  have hK := Keep.refl (L := L) s
  repeat' (first
    | with_reducible assumption
    | with_reducible apply State.vinGone_keep
    | with_reducible apply Keep.ite
    | split)

theorem execOvervoltage_keep {s s₂ : State} (cut : List Nat) (headErased : Bool) (hx : execOvervoltage cut headErased s = .next s₂) (lClk : L.clk = true := by first | rfl | assumption) (lClu : L.clu = true := by first | rfl | assumption) (lTasks : L.tasks = true := by first | rfl | assumption) (lSto : L.sto = true := by first | rfl | assumption) (lLdr : L.ldr = true := by first | rfl | assumption) (lCsw : L.csw = true := by first | rfl | assumption) (lFio : L.fio = true := by first | rfl | assumption) (lNet : L.net = true := by first | rfl | assumption) (lCan : L.can = true := by first | rfl | assumption) (lDict : L.dict = true := by first | rfl | assumption) (lHost : L.host = true := by first | rfl | assumption) (lWdg : L.wdg = true := by first | rfl | assumption) (lEvr : L.evr = true := by first | rfl | assumption) (lTrc : L.trc = true := by first | rfl | assumption) (lNvp : L.nvp = true := by first | rfl | assumption) (lFw : L.fw = true := by first | rfl | assumption) (lRtc : L.rtc = true := by first | rfl | assumption) (lPwr : L.pwr = true := by first | rfl | assumption) (lMet : L.met = true := by first | rfl | assumption) (lFree : L.free = true := by first | rfl | assumption) : Keep L s s₂ := by
  unfold execOvervoltage at hx
  with_reducible refine Keep.commit ?_ hx
  clear hx
  have hK := Keep.refl (L := L) s
  repeat' (first
    | with_reducible assumption
    | with_reducible apply State.vinGone_keep
    | with_reducible apply Keep.ite
    | split)

theorem execBackplateTempReport_keep {s s₂ : State} (temp : Int) (cut : List Nat) (headErased : Bool) (hx : execBackplateTempReport temp cut headErased s = .next s₂) (lClk : L.clk = true := by first | rfl | assumption) (lClu : L.clu = true := by first | rfl | assumption) (lTasks : L.tasks = true := by first | rfl | assumption) (lSto : L.sto = true := by first | rfl | assumption) (lLdr : L.ldr = true := by first | rfl | assumption) (lCsw : L.csw = true := by first | rfl | assumption) (lFio : L.fio = true := by first | rfl | assumption) (lNet : L.net = true := by first | rfl | assumption) (lCan : L.can = true := by first | rfl | assumption) (lDict : L.dict = true := by first | rfl | assumption) (lHost : L.host = true := by first | rfl | assumption) (lWdg : L.wdg = true := by first | rfl | assumption) (lEvr : L.evr = true := by first | rfl | assumption) (lTrc : L.trc = true := by first | rfl | assumption) (lNvp : L.nvp = true := by first | rfl | assumption) (lFw : L.fw = true := by first | rfl | assumption) (lRtc : L.rtc = true := by first | rfl | assumption) (lPwr : L.pwr = true := by first | rfl | assumption) (lMet : L.met = true := by first | rfl | assumption) (lFree : L.free = true := by first | rfl | assumption) : Keep L s s₂ := by
  unfold execBackplateTempReport at hx
  with_reducible refine Keep.commit ?_ hx
  clear hx
  have hK := Keep.refl (L := L) s
  repeat' (first
    | with_reducible assumption
    | with_reducible apply State.backplate_keep
    | with_reducible apply Keep.ite
    | split)

theorem execThermalRestart_keep {s s₂ : State} (hx : execThermalRestart s = .next s₂) (lPwr : L.pwr = true := by first | rfl | assumption) : Keep L s s₂ := by
  unfold execThermalRestart at hx
  with_reducible refine Keep.commit ?_ hx
  clear hx
  have hK := Keep.refl (L := L) s
  repeat' (first
    | with_reducible assumption
    | with_reducible apply Keep.upPwr
    | with_reducible apply Keep.ite
    | split)

theorem execStartUpTemperatureHoldEnd_keep {s s₂ : State} (temp : Int) (hx : execStartUpTemperatureHoldEnd temp s = .next s₂) (lPwr : L.pwr = true := by first | rfl | assumption) : Keep L s s₂ := by
  unfold execStartUpTemperatureHoldEnd at hx
  with_reducible refine Keep.commit ?_ hx
  clear hx
  have hK := Keep.refl (L := L) s
  repeat' (first
    | with_reducible assumption
    | with_reducible apply Keep.upPwr
    | with_reducible apply Keep.ite
    | split)

theorem execVbakLow_keep {s s₂ : State} (hx : execVbakLow s = .next s₂) (lHost : L.host = true := by first | rfl | assumption) (lWdg : L.wdg = true := by first | rfl | assumption) (lNvp : L.nvp = true := by first | rfl | assumption) (lRtc : L.rtc = true := by first | rfl | assumption) (lPwr : L.pwr = true := by first | rfl | assumption) : Keep L s s₂ := by
  unfold execVbakLow at hx
  with_reducible refine Keep.commit ?_ hx
  clear hx
  have hK := Keep.refl (L := L) s
  repeat' (first
    | with_reducible assumption
    | with_reducible apply State.aoLost_keep
    | with_reducible apply Keep.upPwr
    | with_reducible apply Keep.ite
    | (extract_lets +onlyGivenNames y; (first | ((have hy : Keep L s y := (by unfold y; repeat' (first | with_reducible assumption | with_reducible apply State.aoLost_keep | with_reducible apply Keep.upPwr | with_reducible apply Keep.ite | extract_lets | split))); clear_value y) | clear_value y | skip))
    | split)

theorem execVbakReturn_keep {s s₂ : State} (hx : execVbakReturn s = .next s₂) (lPwr : L.pwr = true := by first | rfl | assumption) : Keep L s s₂ := by
  unfold execVbakReturn at hx
  with_reducible refine Keep.commit ?_ hx
  clear hx
  have hK := Keep.refl (L := L) s
  repeat' (first
    | with_reducible assumption
    | with_reducible apply Keep.upPwr
    | with_reducible apply Keep.ite
    | split)

theorem execPageStepDone_keep {s s₂ : State} (bad : Option Nat) (hx : execPageStepDone bad s = .next s₂) (lClk : L.clk = true := by first | rfl | assumption) (lClu : L.clu = true := by first | rfl | assumption) (lTasks : L.tasks = true := by first | rfl | assumption) (lSto : L.sto = true := by first | rfl | assumption) (lLdr : L.ldr = true := by first | rfl | assumption) (lCsw : L.csw = true := by first | rfl | assumption) (lFio : L.fio = true := by first | rfl | assumption) (lNet : L.net = true := by first | rfl | assumption) (lCan : L.can = true := by first | rfl | assumption) (lDict : L.dict = true := by first | rfl | assumption) (lHost : L.host = true := by first | rfl | assumption) (lWdg : L.wdg = true := by first | rfl | assumption) (lEvr : L.evr = true := by first | rfl | assumption) (lTrc : L.trc = true := by first | rfl | assumption) (lNvp : L.nvp = true := by first | rfl | assumption) (lFw : L.fw = true := by first | rfl | assumption) (lRtc : L.rtc = true := by first | rfl | assumption) (lPwr : L.pwr = true := by first | rfl | assumption) (lMet : L.met = true := by first | rfl | assumption) (lFree : L.free = true := by first | rfl | assumption) : Keep L s s₂ := by
  unfold execPageStepDone at hx
  with_reducible refine Keep.commit ?_ hx
  clear hx
  have hK := Keep.refl (L := L) s
  repeat' (first
    | with_reducible assumption
    | with_reducible apply State.pageStepDone_keep
    | with_reducible apply State.deviceReset_keep
    | with_reducible apply Keep.upNvp
    | with_reducible apply Keep.ite
    | (extract_lets +onlyGivenNames y; (first | ((have hy : Keep L s y := (by unfold y; repeat' (first | with_reducible assumption | with_reducible apply State.pageStepDone_keep | with_reducible apply State.deviceReset_keep | with_reducible apply Keep.upNvp | with_reducible apply Keep.ite | extract_lets | split))); clear_value y) | clear_value y | skip))
    | split)

theorem execWatchdogResetExecute_keep {s s₂ : State} (t : Nat) (hx : execWatchdogResetExecute t s = .next s₂) (lClk : L.clk = true := by first | rfl | assumption) (lClu : L.clu = true := by first | rfl | assumption) (lTasks : L.tasks = true := by first | rfl | assumption) (lSto : L.sto = true := by first | rfl | assumption) (lLdr : L.ldr = true := by first | rfl | assumption) (lCsw : L.csw = true := by first | rfl | assumption) (lFio : L.fio = true := by first | rfl | assumption) (lNet : L.net = true := by first | rfl | assumption) (lCan : L.can = true := by first | rfl | assumption) (lDict : L.dict = true := by first | rfl | assumption) (lHost : L.host = true := by first | rfl | assumption) (lWdg : L.wdg = true := by first | rfl | assumption) (lEvr : L.evr = true := by first | rfl | assumption) (lTrc : L.trc = true := by first | rfl | assumption) (lNvp : L.nvp = true := by first | rfl | assumption) (lFw : L.fw = true := by first | rfl | assumption) (lRtc : L.rtc = true := by first | rfl | assumption) (lPwr : L.pwr = true := by first | rfl | assumption) (lMet : L.met = true := by first | rfl | assumption) (lFree : L.free = true := by first | rfl | assumption) : Keep L s s₂ := by
  unfold execWatchdogResetExecute at hx
  with_reducible refine Keep.commit ?_ hx
  clear hx
  have hK := Keep.refl (L := L) s
  repeat' (first
    | with_reducible assumption
    | with_reducible apply State.reach_keep
    | with_reducible apply State.deviceReset_keep
    | with_reducible apply Keep.upWdg
    | with_reducible apply Keep.ite
    | (extract_lets +onlyGivenNames y; (first | ((have hy : Keep L s y := (by unfold y; repeat' (first | with_reducible assumption | with_reducible apply State.reach_keep | with_reducible apply State.deviceReset_keep | with_reducible apply Keep.upWdg | with_reducible apply Keep.ite | extract_lets | split))); clear_value y) | clear_value y | skip))
    | split)

end Sys2Proof.Machine
end

