-- ==== Sys2Proof/Laws/KeepFabric.lean ====
section
/-! SUPPORT. What each operation of Machine/Fabric.lean keeps (Laws/Keep.lean). -/

set_option Elab.async false
set_option linter.all false

namespace Sys2Proof.Machine

open Sys2Proof

set_option linter.unusedVariables false
set_option linter.tactic.unusedName false

variable {L : Parts}

theorem State.accessFault_keep {o₀ s : State} (hK : Keep L o₀ s) (m : Master) (addr : Nat) (flag : Nat) (lHost : L.host = true := by first | rfl | assumption) (lEvr : L.evr = true := by first | rfl | assumption) : Keep L o₀ (State.accessFault s m addr flag) := by
  unfold State.accessFault
  repeat' (first
    | with_reducible assumption
    | with_reducible apply State.occur_keep
    | with_reducible refine Keep.upHost ?_ (fun xk => ?_)
    | exact xk
    | with_reducible apply Keep.ite
    | (extract_lets +onlyGivenNames y; (first | ((have hy : Keep L o₀ y := (by unfold y; repeat' (first | with_reducible assumption | with_reducible apply State.occur_keep | with_reducible refine Keep.upHost ?_ (fun xk => ?_) | exact xk | with_reducible apply Keep.ite | extract_lets | split))); clear_value y) | clear_value y | skip))
    | split)

theorem State.settle_keep {o s : State} (hK : Keep L o s) (m : Master) (addr : Nat) {a : WriteAns} (ha : a.Kept L o) (lHost : L.host = true := by first | rfl | assumption) (lEvr : L.evr = true := by first | rfl | assumption) : Keep L o (s.settle m addr a) := by
  unfold State.settle
  split
  · exact State.accessFault_keep hK _ _ _
  · exact State.accessFault_keep ha _ _ _
  · exact ha

theorem State.setNextRole_keep {o₀ s : State} (hK : Keep L o₀ s) (n : Nat) (lFio : L.fio = true := by first | rfl | assumption) (lNet : L.net = true := by first | rfl | assumption) (lCan : L.can = true := by first | rfl | assumption) (lDict : L.dict = true := by first | rfl | assumption) (lHost : L.host = true := by first | rfl | assumption) (lEvr : L.evr = true := by first | rfl | assumption) (lNvp : L.nvp = true := by first | rfl | assumption) (lRtc : L.rtc = true := by first | rfl | assumption) (lFree : L.free = true := by first | rfl | assumption) (lRole : L.role = true := by first | rfl | assumption) : Keep L o₀ (State.setNextRole s n) := by
  unfold State.setNextRole
  repeat' (first
    | with_reducible assumption
    | with_reducible apply State.storeSystem_keep
    | with_reducible refine Keep.upHost ?_ (fun xk => ?_)
    | exact xk
    | with_reducible apply Keep.ite
    | split)

theorem State.sysReset_keep {o₀ s : State} (hK : Keep L o₀ s) (lClk : L.clk = true := by first | rfl | assumption) (lClu : L.clu = true := by first | rfl | assumption) (lTasks : L.tasks = true := by first | rfl | assumption) (lSto : L.sto = true := by first | rfl | assumption) (lLdr : L.ldr = true := by first | rfl | assumption) (lCsw : L.csw = true := by first | rfl | assumption) (lFio : L.fio = true := by first | rfl | assumption) (lNet : L.net = true := by first | rfl | assumption) (lCan : L.can = true := by first | rfl | assumption) (lDict : L.dict = true := by first | rfl | assumption) (lHost : L.host = true := by first | rfl | assumption) (lWdg : L.wdg = true := by first | rfl | assumption) (lEvr : L.evr = true := by first | rfl | assumption) (lTrc : L.trc = true := by first | rfl | assumption) (lNvp : L.nvp = true := by first | rfl | assumption) (lFw : L.fw = true := by first | rfl | assumption) (lRtc : L.rtc = true := by first | rfl | assumption) (lPwr : L.pwr = true := by first | rfl | assumption) (lMet : L.met = true := by first | rfl | assumption) (lFree : L.free = true := by first | rfl | assumption) : Keep L o₀ (State.sysReset s) := by
  unfold State.sysReset
  repeat' (first
    | with_reducible assumption
    | with_reducible apply State.deviceReset_keep
    | with_reducible apply Keep.upPwr
    | with_reducible apply Keep.ite
    | split)

theorem State.sysWrite_keep {o₀ s : State} (hK : Keep L o₀ s) (off : Nat) (v : Word) (priv : Bool) (lClk : L.clk = true := by first | rfl | assumption) (lClu : L.clu = true := by first | rfl | assumption) (lTasks : L.tasks = true := by first | rfl | assumption) (lSto : L.sto = true := by first | rfl | assumption) (lLdr : L.ldr = true := by first | rfl | assumption) (lCsw : L.csw = true := by first | rfl | assumption) (lFio : L.fio = true := by first | rfl | assumption) (lNet : L.net = true := by first | rfl | assumption) (lCan : L.can = true := by first | rfl | assumption) (lDict : L.dict = true := by first | rfl | assumption) (lHost : L.host = true := by first | rfl | assumption) (lWdg : L.wdg = true := by first | rfl | assumption) (lEvr : L.evr = true := by first | rfl | assumption) (lTrc : L.trc = true := by first | rfl | assumption) (lNvp : L.nvp = true := by first | rfl | assumption) (lFw : L.fw = true := by first | rfl | assumption) (lRtc : L.rtc = true := by first | rfl | assumption) (lPwr : L.pwr = true := by first | rfl | assumption) (lMet : L.met = true := by first | rfl | assumption) (lFree : L.free = true := by first | rfl | assumption) (lRole : L.role = true := by first | rfl | assumption) : WriteAns.Kept L o₀ (State.sysWrite s off v priv) := by
  unfold State.sysWrite
  repeat' (first
    | with_reducible assumption
    | with_reducible apply State.setNextRole_keep
    | with_reducible apply State.exeCause_keep
    | with_reducible apply State.taskCause_keep
    | with_reducible apply State.memCause_keep
    | with_reducible apply State.powerCause_keep
    | with_reducible apply State.parkRequest_keep
    | with_reducible apply State.sysReset_keep
    | with_reducible apply refused_kept
    | with_reducible apply refusedIn_kept
    | with_reducible apply done_kept
    | with_reducible apply needPriv_kept
    | with_reducible apply needOpen_kept
    | with_reducible apply needLegal_kept
    | with_reducible refine Keep.upHost ?_ (fun xk => ?_)
    | exact xk
    | with_reducible apply ite_kept
    | with_reducible apply Keep.ite
    | with_reducible refine Keep.of_eq1 ?_ (by assumption)
    | with_reducible refine Keep.of_eq2 ?_ (by assumption)
    | with_reducible refine State.parkRequest_some ?_ (by assumption)
    | split)

theorem State.serve_keep {o₀ s : State} (hK : Keep L o₀ s) (n : Nat) (t : Nat) (lHost : L.host = true := by first | rfl | assumption) : Keep L o₀ (State.serve s n t) := by
  unfold State.serve
  repeat' (first
    | with_reducible assumption
    | with_reducible refine Keep.upHost ?_ (fun xk => ?_)
    | exact xk
    | with_reducible apply Keep.ite
    | split)

theorem State.claim_keep {o₀ s : State} (hK : Keep L o₀ s) (m : Master) (lHost : L.host = true := by first | rfl | assumption) : Keep L o₀ (State.claim s m).2 := by
  unfold State.claim
  repeat' (first
    | with_reducible assumption
    | with_reducible apply State.serve_keep
    | with_reducible apply Keep.ite2
    | with_reducible apply Keep.ite1
    | with_reducible apply Keep.ite
    | split)

theorem State.takeSource_keep {o₀ s : State} (hK : Keep L o₀ s) (m : Master) (n : Nat) (lHost : L.host = true := by first | rfl | assumption) : Keep L o₀ (State.takeSource s m n).2 := by
  unfold State.takeSource
  repeat' (first
    | with_reducible assumption
    | with_reducible apply State.serve_keep
    | with_reducible apply Keep.ite2
    | with_reducible apply Keep.ite1
    | with_reducible apply Keep.ite
    | split)

theorem State.endService_keep {o₀ s : State} (hK : Keep L o₀ s) (m : Master) (n : Nat) (lHost : L.host = true := by first | rfl | assumption) : Keep L o₀ (State.endService s m n) := by
  unfold State.endService
  repeat' (first
    | with_reducible assumption
    | with_reducible refine Keep.upHost ?_ (fun xk => ?_)
    | exact xk
    | exact fun c hc => xk c (List.mem_filter.mp hc).1
    | with_reducible apply Keep.ite
    | split)

theorem State.intRead_keep {o₀ s : State} (hK : Keep L o₀ s) (m : Master) (off : Nat) (priv : Bool) (lHost : L.host = true := by first | rfl | assumption) : Keep L o₀ (State.intRead s m off priv).2 := by
  unfold State.intRead
  repeat' (first
    | with_reducible assumption
    | with_reducible apply State.claim_keep
    | with_reducible apply State.takeSource_keep
    | with_reducible refine Keep.upHost ?_ (fun xk => ?_)
    | exact xk
    | exact fun c hc => xk c (List.mem_filter.mp hc).1
    | with_reducible refine Keep.foldl (fun _ _ _ => ?_) _ ?_
    | with_reducible refine Keep.foldl1 (fun _ _ _ _ => ?_) _ ?_
    | with_reducible refine Keep.foldl2 (fun _ _ _ _ => ?_) _ ?_
    | with_reducible apply Keep.ite2
    | with_reducible apply Keep.ite1
    | with_reducible apply Keep.ite
    | with_reducible refine Keep.of_eq1 ?_ (by assumption)
    | with_reducible refine Keep.of_eq2 ?_ (by assumption)
    | (extract_lets +onlyGivenNames y; (first | ((have hy : Keep L o₀ y := (by unfold y; repeat' (first | with_reducible assumption | with_reducible apply State.claim_keep | with_reducible apply State.takeSource_keep | with_reducible refine Keep.upHost ?_ (fun xk => ?_) | exact xk | exact fun c hc => xk c (List.mem_filter.mp hc).1 | with_reducible refine Keep.foldl (fun _ _ _ => ?_) _ ?_ | with_reducible refine Keep.foldl1 (fun _ _ _ _ => ?_) _ ?_ | with_reducible refine Keep.foldl2 (fun _ _ _ _ => ?_) _ ?_ | with_reducible apply Keep.ite2 | with_reducible apply Keep.ite1 | with_reducible apply Keep.ite | with_reducible refine Keep.of_eq1 ?_ (by assumption) | with_reducible refine Keep.of_eq2 ?_ (by assumption) | extract_lets | split))); clear_value y) | ((have hy : Keep L o₀ y.1 := (by unfold y; repeat' (first | with_reducible assumption | with_reducible apply State.claim_keep | with_reducible apply State.takeSource_keep | with_reducible refine Keep.upHost ?_ (fun xk => ?_) | exact xk | exact fun c hc => xk c (List.mem_filter.mp hc).1 | with_reducible refine Keep.foldl (fun _ _ _ => ?_) _ ?_ | with_reducible refine Keep.foldl1 (fun _ _ _ _ => ?_) _ ?_ | with_reducible refine Keep.foldl2 (fun _ _ _ _ => ?_) _ ?_ | with_reducible apply Keep.ite2 | with_reducible apply Keep.ite1 | with_reducible apply Keep.ite | with_reducible refine Keep.of_eq1 ?_ (by assumption) | with_reducible refine Keep.of_eq2 ?_ (by assumption) | extract_lets | split))); clear_value y) | ((have hy : Keep L o₀ y.2 := (by unfold y; repeat' (first | with_reducible assumption | with_reducible apply State.claim_keep | with_reducible apply State.takeSource_keep | with_reducible refine Keep.upHost ?_ (fun xk => ?_) | exact xk | exact fun c hc => xk c (List.mem_filter.mp hc).1 | with_reducible refine Keep.foldl (fun _ _ _ => ?_) _ ?_ | with_reducible refine Keep.foldl1 (fun _ _ _ _ => ?_) _ ?_ | with_reducible refine Keep.foldl2 (fun _ _ _ _ => ?_) _ ?_ | with_reducible apply Keep.ite2 | with_reducible apply Keep.ite1 | with_reducible apply Keep.ite | with_reducible refine Keep.of_eq1 ?_ (by assumption) | with_reducible refine Keep.of_eq2 ?_ (by assumption) | extract_lets | split))); clear_value y) | clear_value y | skip))
    | split)

theorem State.intWrite_keep {o₀ s : State} (hK : Keep L o₀ s) (m : Master) (off : Nat) (v : Word) (priv : Bool) (lHost : L.host = true := by first | rfl | assumption) : WriteAns.Kept L o₀ (State.intWrite s m off v priv) := by
  unfold State.intWrite
  repeat' (first
    | with_reducible assumption
    | with_reducible apply State.endService_keep
    | with_reducible apply refused_kept
    | with_reducible apply refusedIn_kept
    | with_reducible apply done_kept
    | with_reducible apply needPriv_kept
    | with_reducible apply needOpen_kept
    | with_reducible apply needLegal_kept
    | with_reducible refine Keep.upHost ?_ (fun xk => ?_)
    | exact xk
    | with_reducible apply ite_kept
    | with_reducible apply Keep.ite
    | (extract_lets +onlyGivenNames y; (first | ((have hy : Keep L o₀ y := (by unfold y; repeat' (first | with_reducible assumption | with_reducible apply State.endService_keep | with_reducible apply refused_kept | with_reducible apply refusedIn_kept | with_reducible apply done_kept | with_reducible apply needPriv_kept | with_reducible apply needOpen_kept | with_reducible apply needLegal_kept | with_reducible refine Keep.upHost ?_ (fun xk => ?_) | exact xk | with_reducible apply ite_kept | with_reducible apply Keep.ite | extract_lets | split))); clear_value y) | clear_value y | skip))
    | split)

theorem State.mbxSelect_keep {o₀ s : State} (hK : Keep L o₀ s) (m : Master) (sel : Nat) (lHost : L.host = true := by first | rfl | assumption) : Keep L o₀ (State.mbxSelect s m sel) := by
  unfold State.mbxSelect
  repeat' (first
    | with_reducible assumption
    | with_reducible apply State.upMregs_keep
    | with_reducible apply Keep.ite
    | split)

theorem State.mbxLatch_keep {o₀ s : State} (hK : Keep L o₀ s) (m : Master) (lHost : L.host = true := by first | rfl | assumption) : Keep L o₀ (State.mbxLatch s m) := by
  unfold State.mbxLatch
  repeat' (first
    | with_reducible assumption
    | with_reducible apply State.upMregs_keep
    | with_reducible apply Keep.ite
    | (extract_lets +onlyGivenNames y; (first | ((have hy : Keep L o₀ y := (by unfold y; repeat' (first | with_reducible assumption | with_reducible apply State.upMregs_keep | with_reducible apply Keep.ite | extract_lets | split))); clear_value y) | clear_value y | skip))
    | split)

theorem State.mbxData_keep {o₀ s : State} (hK : Keep L o₀ s) (m : Master) (i : Nat) (lHost : L.host = true := by first | rfl | assumption) : Keep L o₀ (State.mbxData s m i).2 := by
  unfold State.mbxData
  repeat' (first
    | with_reducible assumption
    | with_reducible apply State.upMregs_keep
    | with_reducible apply Keep.ite2
    | with_reducible apply Keep.ite1
    | with_reducible apply Keep.ite
    | (extract_lets +onlyGivenNames y; (first | ((have hy : Keep L o₀ y := (by unfold y; repeat' (first | with_reducible assumption | with_reducible apply State.upMregs_keep | with_reducible apply Keep.ite2 | with_reducible apply Keep.ite1 | with_reducible apply Keep.ite | extract_lets | split))); clear_value y) | ((have hy : Keep L o₀ y.1 := (by unfold y; repeat' (first | with_reducible assumption | with_reducible apply State.upMregs_keep | with_reducible apply Keep.ite2 | with_reducible apply Keep.ite1 | with_reducible apply Keep.ite | extract_lets | split))); clear_value y) | ((have hy : Keep L o₀ y.2 := (by unfold y; repeat' (first | with_reducible assumption | with_reducible apply State.upMregs_keep | with_reducible apply Keep.ite2 | with_reducible apply Keep.ite1 | with_reducible apply Keep.ite | extract_lets | split))); clear_value y) | clear_value y | skip))
    | split)

theorem State.mbxRead_keep {o₀ s : State} (hK : Keep L o₀ s) (m : Master) (off : Nat) (lHost : L.host = true := by first | rfl | assumption) : Keep L o₀ (State.mbxRead s m off).2 := by
  unfold State.mbxRead
  repeat' (first
    | with_reducible assumption
    | with_reducible apply State.mbxData_keep
    | with_reducible apply Keep.ite2
    | with_reducible apply Keep.ite1
    | with_reducible apply Keep.ite
    | with_reducible refine Keep.of_eq1 ?_ (by assumption)
    | with_reducible refine Keep.of_eq2 ?_ (by assumption)
    | (extract_lets +onlyGivenNames y; (first | ((have hy : Keep L o₀ y := (by unfold y; repeat' (first | with_reducible assumption | with_reducible apply State.mbxData_keep | with_reducible apply Keep.ite2 | with_reducible apply Keep.ite1 | with_reducible apply Keep.ite | with_reducible refine Keep.of_eq1 ?_ (by assumption) | with_reducible refine Keep.of_eq2 ?_ (by assumption) | extract_lets | split))); clear_value y) | ((have hy : Keep L o₀ y.1 := (by unfold y; repeat' (first | with_reducible assumption | with_reducible apply State.mbxData_keep | with_reducible apply Keep.ite2 | with_reducible apply Keep.ite1 | with_reducible apply Keep.ite | with_reducible refine Keep.of_eq1 ?_ (by assumption) | with_reducible refine Keep.of_eq2 ?_ (by assumption) | extract_lets | split))); clear_value y) | ((have hy : Keep L o₀ y.2 := (by unfold y; repeat' (first | with_reducible assumption | with_reducible apply State.mbxData_keep | with_reducible apply Keep.ite2 | with_reducible apply Keep.ite1 | with_reducible apply Keep.ite | with_reducible refine Keep.of_eq1 ?_ (by assumption) | with_reducible refine Keep.of_eq2 ?_ (by assumption) | extract_lets | split))); clear_value y) | clear_value y | skip))
    | split)

theorem State.mbxWrite_keep {o₀ s : State} (hK : Keep L o₀ s) (m : Master) (off : Nat) (v : Word) (lHost : L.host = true := by first | rfl | assumption) : WriteAns.Kept L o₀ (State.mbxWrite s m off v) := by
  unfold State.mbxWrite
  repeat' (first
    | with_reducible assumption
    | with_reducible apply State.mbxSelect_keep
    | with_reducible apply refused_kept
    | with_reducible apply refusedIn_kept
    | with_reducible apply done_kept
    | with_reducible apply needPriv_kept
    | with_reducible apply needOpen_kept
    | with_reducible apply needLegal_kept
    | with_reducible apply ite_kept
    | with_reducible apply Keep.ite
    | split)

theorem State.hptChallenge_keep {o₀ s : State} (hK : Keep L o₀ s) (lHost : L.host = true := by first | rfl | assumption) (lFree : L.free = true := by first | rfl | assumption) : Keep L o₀ (State.hptChallenge s) := by
  unfold State.hptChallenge
  repeat' (first
    | with_reducible assumption
    | with_reducible apply State.useFree_keep
    | with_reducible refine Keep.upHost ?_ (fun xk => ?_)
    | exact xk
    | with_reducible apply Keep.ite
    | split)

theorem State.hptGo_keep {o₀ s : State} (hK : Keep L o₀ s) (lDict : L.dict = true := by first | rfl | assumption) (lHost : L.host = true := by first | rfl | assumption) (lEvr : L.evr = true := by first | rfl | assumption) : Keep L o₀ (State.hptGo s) := by
  unfold State.hptGo
  repeat' (first
    | with_reducible assumption
    | with_reducible apply State.authFailed_keep
    | with_reducible apply State.hptCauseBit_keep
    | with_reducible refine Keep.upHost ?_ (fun xk => ?_)
    | exact xk
    | with_reducible apply Keep.ite
    | split)

theorem State.hptWrite_keep {o₀ s : State} (hK : Keep L o₀ s) (off : Nat) (v : Word) (lDict : L.dict = true := by first | rfl | assumption) (lHost : L.host = true := by first | rfl | assumption) (lEvr : L.evr = true := by first | rfl | assumption) (lFree : L.free = true := by first | rfl | assumption) : WriteAns.Kept L o₀ (State.hptWrite s off v) := by
  unfold State.hptWrite
  repeat' (first
    | with_reducible assumption
    | with_reducible apply State.hptChallenge_keep
    | with_reducible apply State.hptGo_keep
    | with_reducible apply refused_kept
    | with_reducible apply refusedIn_kept
    | with_reducible apply done_kept
    | with_reducible apply needPriv_kept
    | with_reducible apply needOpen_kept
    | with_reducible apply needLegal_kept
    | with_reducible refine Keep.upHost ?_ (fun xk => ?_)
    | exact xk
    | with_reducible apply ite_kept
    | with_reducible apply Keep.ite
    | (extract_lets +onlyGivenNames y; (first | ((have hy : Keep L o₀ y := (by unfold y; repeat' (first | with_reducible assumption | with_reducible apply State.hptChallenge_keep | with_reducible apply State.hptGo_keep | with_reducible apply refused_kept | with_reducible apply refusedIn_kept | with_reducible apply done_kept | with_reducible apply needPriv_kept | with_reducible apply needOpen_kept | with_reducible apply needLegal_kept | with_reducible refine Keep.upHost ?_ (fun xk => ?_) | exact xk | with_reducible apply ite_kept | with_reducible apply Keep.ite | extract_lets | split))); clear_value y) | clear_value y | skip))
    | split)

theorem State.blockRead_keep {o₀ s : State} (hK : Keep L o₀ s) (m : Master) (page : Nat) (off : Nat) (priv : Bool) (lCsw : L.csw = true := by first | rfl | assumption) (lNet : L.net = true := by first | rfl | assumption) (lCan : L.can = true := by first | rfl | assumption) (lHost : L.host = true := by first | rfl | assumption) (lEvr : L.evr = true := by first | rfl | assumption) (lTrc : L.trc = true := by first | rfl | assumption) : Keep L o₀ (State.blockRead s m page off priv).2 := by
  unfold State.blockRead
  repeat' (first
    | with_reducible assumption
    | with_reducible apply State.intRead_keep
    | with_reducible apply State.wdgRead_keep
    | with_reducible apply State.evrRead_keep
    | with_reducible apply State.cswRead_keep
    | with_reducible apply State.canRead_keep
    | with_reducible apply State.netRead_keep
    | with_reducible apply State.metRead_keep
    | with_reducible apply State.mbxRead_keep
    | with_reducible apply State.trcRead_keep
    | with_reducible apply Keep.ite2
    | with_reducible apply Keep.ite1
    | with_reducible apply Keep.ite
    | with_reducible refine Keep.of_eq1 ?_ (by assumption)
    | with_reducible refine Keep.of_eq2 ?_ (by assumption)
    | split)

theorem State.blockWrite_keep {o₀ s : State} (hK : Keep L o₀ s) (m : Master) (page : Nat) (off : Nat) (v : Word) (priv : Bool) (ecc : List Ecc) (lClk : L.clk = true := by first | rfl | assumption) (lClu : L.clu = true := by first | rfl | assumption) (lTasks : L.tasks = true := by first | rfl | assumption) (lSto : L.sto = true := by first | rfl | assumption) (lLdr : L.ldr = true := by first | rfl | assumption) (lCsw : L.csw = true := by first | rfl | assumption) (lFio : L.fio = true := by first | rfl | assumption) (lNet : L.net = true := by first | rfl | assumption) (lCan : L.can = true := by first | rfl | assumption) (lDict : L.dict = true := by first | rfl | assumption) (lHost : L.host = true := by first | rfl | assumption) (lWdg : L.wdg = true := by first | rfl | assumption) (lEvr : L.evr = true := by first | rfl | assumption) (lTrc : L.trc = true := by first | rfl | assumption) (lNvp : L.nvp = true := by first | rfl | assumption) (lFw : L.fw = true := by first | rfl | assumption) (lRtc : L.rtc = true := by first | rfl | assumption) (lPwr : L.pwr = true := by first | rfl | assumption) (lMet : L.met = true := by first | rfl | assumption) (lFree : L.free = true := by first | rfl | assumption) (lRole : L.role = true := by first | rfl | assumption) : WriteAns.Kept L o₀ (State.blockWrite s m page off v priv ecc) := by
  unfold State.blockWrite
  repeat' (first
    | with_reducible assumption
    | with_reducible apply State.sysWrite_keep
    | with_reducible apply State.intWrite_keep
    | with_reducible apply State.wdgWrite_keep
    | with_reducible apply State.evrWrite_keep
    | with_reducible apply State.rtcWrite_keep
    | with_reducible apply State.nvpWrite_keep
    | with_reducible apply State.cswWrite_keep
    | with_reducible apply State.fioWrite_keep
    | with_reducible apply State.canWrite_keep
    | with_reducible apply State.netWrite_keep
    | with_reducible apply State.metWrite_keep
    | with_reducible apply State.mbxWrite_keep
    | with_reducible apply State.odxWrite_keep
    | with_reducible apply State.trcWrite_keep
    | with_reducible apply State.hptWrite_keep
    | with_reducible apply refused_kept
    | with_reducible apply refusedIn_kept
    | with_reducible apply done_kept
    | with_reducible apply needPriv_kept
    | with_reducible apply needOpen_kept
    | with_reducible apply needLegal_kept
    | with_reducible apply ite_kept
    | with_reducible apply Keep.ite
    | split)

theorem State.fabricRead_keep {o₀ s : State} (hK : Keep L o₀ s) (m : Master) (addr : Nat) (lCsw : L.csw = true := by first | rfl | assumption) (lNet : L.net = true := by first | rfl | assumption) (lCan : L.can = true := by first | rfl | assumption) (lHost : L.host = true := by first | rfl | assumption) (lEvr : L.evr = true := by first | rfl | assumption) (lTrc : L.trc = true := by first | rfl | assumption) : Keep L o₀ (State.fabricRead s m addr).2 := by
  unfold State.fabricRead
  repeat' (first
    | with_reducible assumption
    | with_reducible apply State.blockRead_keep
    | with_reducible apply Keep.ite2
    | with_reducible apply Keep.ite1
    | with_reducible apply Keep.ite
    | with_reducible refine Keep.of_eq1 ?_ (by assumption)
    | with_reducible refine Keep.of_eq2 ?_ (by assumption)
    | split)

theorem State.fabricWrite_keep {o₀ s : State} (hK : Keep L o₀ s) (m : Master) (addr : Nat) (v : Word) (ecc : List Ecc) (lClk : L.clk = true := by first | rfl | assumption) (lClu : L.clu = true := by first | rfl | assumption) (lTasks : L.tasks = true := by first | rfl | assumption) (lSto : L.sto = true := by first | rfl | assumption) (lLdr : L.ldr = true := by first | rfl | assumption) (lCsw : L.csw = true := by first | rfl | assumption) (lFio : L.fio = true := by first | rfl | assumption) (lNet : L.net = true := by first | rfl | assumption) (lCan : L.can = true := by first | rfl | assumption) (lDict : L.dict = true := by first | rfl | assumption) (lHost : L.host = true := by first | rfl | assumption) (lWdg : L.wdg = true := by first | rfl | assumption) (lEvr : L.evr = true := by first | rfl | assumption) (lTrc : L.trc = true := by first | rfl | assumption) (lNvp : L.nvp = true := by first | rfl | assumption) (lFw : L.fw = true := by first | rfl | assumption) (lRtc : L.rtc = true := by first | rfl | assumption) (lPwr : L.pwr = true := by first | rfl | assumption) (lMet : L.met = true := by first | rfl | assumption) (lFree : L.free = true := by first | rfl | assumption) (lRole : L.role = true := by first | rfl | assumption) : Keep L o₀ (State.fabricWrite s m addr v ecc) := by
  unfold State.fabricWrite
  repeat' (first
    | with_reducible assumption
    | with_reducible apply State.accessFault_keep
    | with_reducible refine State.settle_keep ?_ _ _ ?_
    | with_reducible apply State.blockWrite_keep
    | with_reducible apply refused_kept
    | with_reducible apply refusedIn_kept
    | with_reducible apply done_kept
    | with_reducible apply needPriv_kept
    | with_reducible apply needOpen_kept
    | with_reducible apply needLegal_kept
    | with_reducible apply Keep.ite
    | (extract_lets +onlyGivenNames y; (first | ((have hy : Keep L o₀ y := (by unfold y; repeat' (first | with_reducible assumption | with_reducible apply State.accessFault_keep | with_reducible refine State.settle_keep ?_ _ _ ?_ | with_reducible apply State.blockWrite_keep | with_reducible apply refused_kept | with_reducible apply refusedIn_kept | with_reducible apply done_kept | with_reducible apply needPriv_kept | with_reducible apply needOpen_kept | with_reducible apply needLegal_kept | with_reducible apply Keep.ite | extract_lets | split))); clear_value y) | clear_value y | skip))
    | split)

theorem State.regRead_keep {o₀ s : State} (hK : Keep L o₀ s) (m : Master) (addr : Nat) (lCsw : L.csw = true := by first | rfl | assumption) (lNet : L.net = true := by first | rfl | assumption) (lCan : L.can = true := by first | rfl | assumption) (lHost : L.host = true := by first | rfl | assumption) (lEvr : L.evr = true := by first | rfl | assumption) (lTrc : L.trc = true := by first | rfl | assumption) : Keep L o₀ (State.regRead s m addr) := by
  unfold State.regRead
  repeat' (first
    | with_reducible assumption
    | with_reducible apply State.fabricRead_keep
    | with_reducible refine Keep.upHost ?_ (fun xk => ?_)
    | exact xk
    | with_reducible apply Keep.ite
    | with_reducible refine Keep.of_eq1 ?_ (by assumption)
    | with_reducible refine Keep.of_eq2 ?_ (by assumption)
    | (extract_lets +onlyGivenNames y; (first | ((have hy : Keep L o₀ y := (by unfold y; repeat' (first | with_reducible assumption | with_reducible apply State.fabricRead_keep | with_reducible refine Keep.upHost ?_ (fun xk => ?_) | exact xk | with_reducible apply Keep.ite | with_reducible refine Keep.of_eq1 ?_ (by assumption) | with_reducible refine Keep.of_eq2 ?_ (by assumption) | extract_lets | split))); clear_value y) | ((have hy : Keep L o₀ y.1 := (by unfold y; repeat' (first | with_reducible assumption | with_reducible apply State.fabricRead_keep | with_reducible refine Keep.upHost ?_ (fun xk => ?_) | exact xk | with_reducible apply Keep.ite | with_reducible refine Keep.of_eq1 ?_ (by assumption) | with_reducible refine Keep.of_eq2 ?_ (by assumption) | extract_lets | split))); clear_value y) | ((have hy : Keep L o₀ y.2 := (by unfold y; repeat' (first | with_reducible assumption | with_reducible apply State.fabricRead_keep | with_reducible refine Keep.upHost ?_ (fun xk => ?_) | exact xk | with_reducible apply Keep.ite | with_reducible refine Keep.of_eq1 ?_ (by assumption) | with_reducible refine Keep.of_eq2 ?_ (by assumption) | extract_lets | split))); clear_value y) | clear_value y | skip))
    | split)

end Sys2Proof.Machine
end

