-- ==== Sys2Proof/Laws/KeepRecordWrite.lean ====
section
/-! SUPPORT. What each operation of Machine/RecordWrite.lean keeps (Laws/Keep.lean). -/

set_option Elab.async false
set_option linter.all false

namespace Sys2Proof.Machine

open Sys2Proof

set_option linter.unusedVariables false
set_option linter.tactic.unusedName false

variable {L : Parts}

theorem State.attachSnap_keep {o₀ s : State} (hK : Keep L o₀ s) (seq : Nat) (i : Nat) (b : List Byte) (lSto : L.sto = true := by first | rfl | assumption) (lHost : L.host = true := by first | rfl | assumption) (lEvr : L.evr = true := by first | rfl | assumption) : Keep L o₀ (State.attachSnap s seq i b) := by
  unfold State.attachSnap
  repeat' (first
    | with_reducible assumption
    | with_reducible apply State.upOpen_keep
    | with_reducible apply State.exeCause_keep
    | with_reducible refine Keep.upEvr ?_ (fun xk => ?_)
    | exact xk
    | with_reducible apply Keep.ite
    | (extract_lets +onlyGivenNames y; (first | ((have hy : Keep L o₀ y := (by unfold y; repeat' (first | with_reducible assumption | with_reducible apply State.upOpen_keep | with_reducible apply State.exeCause_keep | with_reducible refine Keep.upEvr ?_ (fun xk => ?_) | exact xk | with_reducible apply Keep.ite | extract_lets | split))); clear_value y) | clear_value y | skip))
    | split)

theorem State.trigActs_keep {o₀ s : State} (hK : Keep L o₀ s) (o : Occ) (seq : Nat) (lSto : L.sto = true := by first | rfl | assumption) (lCsw : L.csw = true := by first | rfl | assumption) (lNet : L.net = true := by first | rfl | assumption) (lCan : L.can = true := by first | rfl | assumption) (lHost : L.host = true := by first | rfl | assumption) (lEvr : L.evr = true := by first | rfl | assumption) (lTrc : L.trc = true := by first | rfl | assumption) : Keep L o₀ (State.trigActs s o seq) := by
  unfold State.trigActs
  repeat' (first
    | with_reducible assumption
    | with_reducible apply State.attachSnap_keep
    | with_reducible apply State.freezeReq_keep
    | with_reducible apply Keep.ite
    | (extract_lets +onlyGivenNames y; (first | ((have hy : Keep L o₀ y := (by unfold y; repeat' (first | with_reducible assumption | with_reducible apply State.attachSnap_keep | with_reducible apply State.freezeReq_keep | with_reducible apply Keep.ite | extract_lets | split))); clear_value y) | clear_value y | skip))
    | split)

theorem State.recordDone_keep {o₀ s : State} (hK : Keep L o₀ s) (o : Occ) (seq : Nat) (lSto : L.sto = true := by first | rfl | assumption) (lCsw : L.csw = true := by first | rfl | assumption) (lNet : L.net = true := by first | rfl | assumption) (lCan : L.can = true := by first | rfl | assumption) (lHost : L.host = true := by first | rfl | assumption) (lEvr : L.evr = true := by first | rfl | assumption) (lTrc : L.trc = true := by first | rfl | assumption) : Keep L o₀ (State.recordDone s o seq) := by
  unfold State.recordDone
  repeat' (first
    | with_reducible assumption
    | with_reducible apply State.trigActs_keep
    | with_reducible apply State.evrCause_keep
    | with_reducible apply Keep.ite
    | (extract_lets +onlyGivenNames y; (first | ((have hy : Keep L o₀ y := (by unfold y; repeat' (first | with_reducible assumption | with_reducible apply State.trigActs_keep | with_reducible apply State.evrCause_keep | with_reducible apply Keep.ite | extract_lets | split))); clear_value y) | clear_value y | skip))
    | split)

theorem Evr.put_queue {e f : Evr} {o : Occ} (h : e.put o = some f) : f.queue = e.queue := by
  unfold Evr.put at h
  obtain ⟨l, -, rfl⟩ := Option.map_eq_some_iff.mp h
  rfl

theorem State.newRecord_keep {o s : State} (hK : Keep L o s) (x : Occ) (lSto : L.sto = true := by first | rfl | assumption) (lCsw : L.csw = true := by first | rfl | assumption) (lNet : L.net = true := by first | rfl | assumption) (lCan : L.can = true := by first | rfl | assumption) (lHost : L.host = true := by first | rfl | assumption) (lEvr : L.evr = true := by first | rfl | assumption) (lTrc : L.trc = true := by first | rfl | assumption) : Keep L o (State.newRecord s x) := by
  unfold State.newRecord
  split
  · exact State.evrCause_keep (hK.upEvr (fun xk => xk)) _
  · next e he => exact State.recordDone_keep (hK.upEvr (fun xk => by rw [Evr.put_queue he]; exact xk)) _ _

theorem State.writeRecord_keep {o s : State} (hK : Keep L o s) (lSto : L.sto = true := by first | rfl | assumption) (lCsw : L.csw = true := by first | rfl | assumption) (lNet : L.net = true := by first | rfl | assumption) (lCan : L.can = true := by first | rfl | assumption) (lHost : L.host = true := by first | rfl | assumption) (lEvr : L.evr = true := by first | rfl | assumption) (lTrc : L.trc = true := by first | rfl | assumption) : Keep L o (State.writeRecord s) := by
  unfold State.writeRecord
  refine Keep.ite hK ?_
  split
  · exact hK
  · next x rest hq =>
    extract_lets u
    have hu : Keep L o u := hK.upEvr (fun xk => by
      rw [hq] at xk
      simp only [List.length_cons] at xk
      show rest.length ≤ 64
      omega)
    clear_value u
    exact Keep.ite (hu.upEvr (fun xk => xk)) (State.newRecord_keep hu _)

theorem State.endClear_keep {o₀ s : State} (hK : Keep L o₀ s) (lSto : L.sto = true := by first | rfl | assumption) (lCsw : L.csw = true := by first | rfl | assumption) (lNet : L.net = true := by first | rfl | assumption) (lCan : L.can = true := by first | rfl | assumption) (lHost : L.host = true := by first | rfl | assumption) (lEvr : L.evr = true := by first | rfl | assumption) (lTrc : L.trc = true := by first | rfl | assumption) : Keep L o₀ (State.endClear s) := by
  unfold State.endClear
  repeat' (first
    | with_reducible assumption
    | with_reducible apply State.upOpen_keep
    | with_reducible apply State.evrCause_keep
    | with_reducible apply State.recordDone_keep
    | with_reducible refine Keep.upEvr ?_ (fun xk => ?_)
    | exact xk
    | with_reducible apply Keep.ite
    | (extract_lets +onlyGivenNames y; (first | ((have hy : Keep L o₀ y := (by unfold y; repeat' (first | with_reducible assumption | with_reducible apply State.upOpen_keep | with_reducible apply State.evrCause_keep | with_reducible apply State.recordDone_keep | with_reducible refine Keep.upEvr ?_ (fun xk => ?_) | exact xk | with_reducible apply Keep.ite | extract_lets | split))); clear_value y) | clear_value y | skip))
    | split)

theorem execEventClearDone_keep {s s₂ : State} (hx : execEventClearDone s = .next s₂) (lSto : L.sto = true := by first | rfl | assumption) (lCsw : L.csw = true := by first | rfl | assumption) (lNet : L.net = true := by first | rfl | assumption) (lCan : L.can = true := by first | rfl | assumption) (lHost : L.host = true := by first | rfl | assumption) (lEvr : L.evr = true := by first | rfl | assumption) (lTrc : L.trc = true := by first | rfl | assumption) : Keep L s s₂ := by
  unfold execEventClearDone at hx
  with_reducible refine Keep.commit ?_ hx
  clear hx
  have hK := Keep.refl (L := L) s
  repeat' (first
    | with_reducible assumption
    | with_reducible apply State.endClear_keep
    | with_reducible apply Keep.ite
    | split)

theorem execRecordWrite_keep {s s₂ : State} (t : Nat) (hx : execRecordWrite t s = .next s₂) (lClk : L.clk = true := by first | rfl | assumption) (lSto : L.sto = true := by first | rfl | assumption) (lCsw : L.csw = true := by first | rfl | assumption) (lNet : L.net = true := by first | rfl | assumption) (lCan : L.can = true := by first | rfl | assumption) (lHost : L.host = true := by first | rfl | assumption) (lEvr : L.evr = true := by first | rfl | assumption) (lTrc : L.trc = true := by first | rfl | assumption) : Keep L s s₂ := by
  unfold execRecordWrite at hx
  with_reducible refine Keep.commit ?_ hx
  clear hx
  have hK := Keep.refl (L := L) s
  repeat' (first
    | with_reducible assumption
    | with_reducible apply State.reach_keep
    | with_reducible apply State.writeRecord_keep
    | with_reducible apply Keep.ite
    | split)

end Sys2Proof.Machine
end

