-- ==== Sys2Proof/Laws/KeepRegisters.lean ====
section
/-! SUPPORT. What each operation of Machine/Registers.lean keeps (Laws/Keep.lean). -/

set_option Elab.async false
set_option linter.all false

namespace Sys2Proof.Machine

open Sys2Proof

set_option linter.unusedVariables false
set_option linter.tactic.unusedName false

variable {L : Parts}

theorem State.readWords_keep {o s : State} (cmd n : Nat) (hK : Keep L o s) (addr : Nat) (lCsw : L.csw = true := by first | rfl | assumption) (lNet : L.net = true := by first | rfl | assumption) (lCan : L.can = true := by first | rfl | assumption) (lHost : L.host = true := by first | rfl | assumption) (lEvr : L.evr = true := by first | rfl | assumption) (lTrc : L.trc = true := by first | rfl | assumption) : Keep L o (s.readWords cmd n addr).2 := by
  induction n generalizing s addr with
  | zero => exact hK
  | succ n ih =>
    unfold State.readWords
    exact ih (Keep.countEdges _ (State.fabricRead_keep hK _ _)) _

theorem State.writeWords_keep {o s : State} (cmd : Nat) (l : List Word) (hK : Keep L o s) (addr : Nat) (lClk : L.clk = true := by first | rfl | assumption) (lClu : L.clu = true := by first | rfl | assumption) (lTasks : L.tasks = true := by first | rfl | assumption) (lSto : L.sto = true := by first | rfl | assumption) (lLdr : L.ldr = true := by first | rfl | assumption) (lCsw : L.csw = true := by first | rfl | assumption) (lFio : L.fio = true := by first | rfl | assumption) (lNet : L.net = true := by first | rfl | assumption) (lCan : L.can = true := by first | rfl | assumption) (lDict : L.dict = true := by first | rfl | assumption) (lHost : L.host = true := by first | rfl | assumption) (lWdg : L.wdg = true := by first | rfl | assumption) (lEvr : L.evr = true := by first | rfl | assumption) (lTrc : L.trc = true := by first | rfl | assumption) (lNvp : L.nvp = true := by first | rfl | assumption) (lFw : L.fw = true := by first | rfl | assumption) (lRtc : L.rtc = true := by first | rfl | assumption) (lPwr : L.pwr = true := by first | rfl | assumption) (lMet : L.met = true := by first | rfl | assumption) (lFree : L.free = true := by first | rfl | assumption) (lRole : L.role = true := by first | rfl | assumption) : Keep L o (s.writeWords cmd l addr) := by
  induction l generalizing s addr with
  | nil => exact hK
  | cons w t ih =>
    unfold State.writeWords
    exact ih (Keep.countEdges _ (State.fabricWrite_keep hK _ _ _ _)) _

theorem State.hostGets_keep {o₀ s : State} (hK : Keep L o₀ s) (l : List Word) (lHost : L.host = true := by first | rfl | assumption) : Keep L o₀ (State.hostGets s l) := by
  unfold State.hostGets
  repeat' (first
    | with_reducible assumption
    | with_reducible refine Keep.upHost ?_ (fun xk => ?_)
    | exact xk
    | with_reducible apply Keep.ite
    | split)

theorem State.hostFrame_keep {o₀ s : State} (hK : Keep L o₀ s) (cmd : Nat) (addr : Nat) (n : Nat) (words : List Word) (lClk : L.clk = true := by first | rfl | assumption) (lClu : L.clu = true := by first | rfl | assumption) (lTasks : L.tasks = true := by first | rfl | assumption) (lSto : L.sto = true := by first | rfl | assumption) (lLdr : L.ldr = true := by first | rfl | assumption) (lCsw : L.csw = true := by first | rfl | assumption) (lFio : L.fio = true := by first | rfl | assumption) (lNet : L.net = true := by first | rfl | assumption) (lCan : L.can = true := by first | rfl | assumption) (lDict : L.dict = true := by first | rfl | assumption) (lHost : L.host = true := by first | rfl | assumption) (lWdg : L.wdg = true := by first | rfl | assumption) (lEvr : L.evr = true := by first | rfl | assumption) (lTrc : L.trc = true := by first | rfl | assumption) (lNvp : L.nvp = true := by first | rfl | assumption) (lFw : L.fw = true := by first | rfl | assumption) (lRtc : L.rtc = true := by first | rfl | assumption) (lPwr : L.pwr = true := by first | rfl | assumption) (lMet : L.met = true := by first | rfl | assumption) (lFree : L.free = true := by first | rfl | assumption) (lRole : L.role = true := by first | rfl | assumption) : Keep L o₀ (State.hostFrame s cmd addr n words) := by
  unfold State.hostFrame
  repeat' (first
    | with_reducible assumption
    | with_reducible apply State.hptCauseBit_keep
    | with_reducible apply State.hostGets_keep
    | with_reducible apply State.readWords_keep
    | with_reducible apply State.writeWords_keep
    | with_reducible apply Keep.countEdges
    | with_reducible apply Keep.ite
    | with_reducible refine Keep.of_eq1 ?_ (by assumption)
    | with_reducible refine Keep.of_eq2 ?_ (by assumption)
    | (extract_lets +onlyGivenNames y; (first | ((have hy : Keep L o₀ y := (by unfold y; repeat' (first | with_reducible assumption | with_reducible apply State.hptCauseBit_keep | with_reducible apply State.hostGets_keep | with_reducible apply State.readWords_keep | with_reducible apply State.writeWords_keep | with_reducible apply Keep.countEdges | with_reducible apply Keep.ite | with_reducible refine Keep.of_eq1 ?_ (by assumption) | with_reducible refine Keep.of_eq2 ?_ (by assumption) | extract_lets | split))); clear_value y) | ((have hy : Keep L o₀ y.1 := (by unfold y; repeat' (first | with_reducible assumption | with_reducible apply State.hptCauseBit_keep | with_reducible apply State.hostGets_keep | with_reducible apply State.readWords_keep | with_reducible apply State.writeWords_keep | with_reducible apply Keep.countEdges | with_reducible apply Keep.ite | with_reducible refine Keep.of_eq1 ?_ (by assumption) | with_reducible refine Keep.of_eq2 ?_ (by assumption) | extract_lets | split))); clear_value y) | ((have hy : Keep L o₀ y.2 := (by unfold y; repeat' (first | with_reducible assumption | with_reducible apply State.hptCauseBit_keep | with_reducible apply State.hostGets_keep | with_reducible apply State.readWords_keep | with_reducible apply State.writeWords_keep | with_reducible apply Keep.countEdges | with_reducible apply Keep.ite | with_reducible refine Keep.of_eq1 ?_ (by assumption) | with_reducible refine Keep.of_eq2 ?_ (by assumption) | extract_lets | split))); clear_value y) | clear_value y | skip))
    | split)

theorem execHostRead_keep {s s₂ : State} (cmd : Nat) (addr : Nat) (n : Nat) (hx : execHostRead cmd addr n s = .next s₂) (lClk : L.clk = true := by first | rfl | assumption) (lClu : L.clu = true := by first | rfl | assumption) (lTasks : L.tasks = true := by first | rfl | assumption) (lSto : L.sto = true := by first | rfl | assumption) (lLdr : L.ldr = true := by first | rfl | assumption) (lCsw : L.csw = true := by first | rfl | assumption) (lFio : L.fio = true := by first | rfl | assumption) (lNet : L.net = true := by first | rfl | assumption) (lCan : L.can = true := by first | rfl | assumption) (lDict : L.dict = true := by first | rfl | assumption) (lHost : L.host = true := by first | rfl | assumption) (lWdg : L.wdg = true := by first | rfl | assumption) (lEvr : L.evr = true := by first | rfl | assumption) (lTrc : L.trc = true := by first | rfl | assumption) (lNvp : L.nvp = true := by first | rfl | assumption) (lFw : L.fw = true := by first | rfl | assumption) (lRtc : L.rtc = true := by first | rfl | assumption) (lPwr : L.pwr = true := by first | rfl | assumption) (lMet : L.met = true := by first | rfl | assumption) (lFree : L.free = true := by first | rfl | assumption) (lRole : L.role = true := by first | rfl | assumption) : Keep L s s₂ := by
  unfold execHostRead at hx
  with_reducible refine Keep.next ?_ hx
  clear hx
  have hK := Keep.refl (L := L) s
  repeat' (first
    | with_reducible assumption
    | with_reducible apply State.hostFrame_keep
    | with_reducible apply Keep.ite
    | split)

theorem execHostWrite_keep {s s₂ : State} (cmd : Nat) (addr : Nat) (words : List Word) (hx : execHostWrite cmd addr words s = .next s₂) (lClk : L.clk = true := by first | rfl | assumption) (lClu : L.clu = true := by first | rfl | assumption) (lTasks : L.tasks = true := by first | rfl | assumption) (lSto : L.sto = true := by first | rfl | assumption) (lLdr : L.ldr = true := by first | rfl | assumption) (lCsw : L.csw = true := by first | rfl | assumption) (lFio : L.fio = true := by first | rfl | assumption) (lNet : L.net = true := by first | rfl | assumption) (lCan : L.can = true := by first | rfl | assumption) (lDict : L.dict = true := by first | rfl | assumption) (lHost : L.host = true := by first | rfl | assumption) (lWdg : L.wdg = true := by first | rfl | assumption) (lEvr : L.evr = true := by first | rfl | assumption) (lTrc : L.trc = true := by first | rfl | assumption) (lNvp : L.nvp = true := by first | rfl | assumption) (lFw : L.fw = true := by first | rfl | assumption) (lRtc : L.rtc = true := by first | rfl | assumption) (lPwr : L.pwr = true := by first | rfl | assumption) (lMet : L.met = true := by first | rfl | assumption) (lFree : L.free = true := by first | rfl | assumption) (lRole : L.role = true := by first | rfl | assumption) : Keep L s s₂ := by
  unfold execHostWrite at hx
  with_reducible refine Keep.next ?_ hx
  clear hx
  have hK := Keep.refl (L := L) s
  repeat' (first
    | with_reducible assumption
    | with_reducible apply State.hostFrame_keep
    | with_reducible apply Keep.ite
    | split)

theorem execHostStatus_keep {s s₂ : State} (cmd : Nat) (n : Nat) (hx : execHostStatus cmd n s = .next s₂) (lClk : L.clk = true := by first | rfl | assumption) (lClu : L.clu = true := by first | rfl | assumption) (lTasks : L.tasks = true := by first | rfl | assumption) (lSto : L.sto = true := by first | rfl | assumption) (lLdr : L.ldr = true := by first | rfl | assumption) (lCsw : L.csw = true := by first | rfl | assumption) (lFio : L.fio = true := by first | rfl | assumption) (lNet : L.net = true := by first | rfl | assumption) (lCan : L.can = true := by first | rfl | assumption) (lDict : L.dict = true := by first | rfl | assumption) (lHost : L.host = true := by first | rfl | assumption) (lWdg : L.wdg = true := by first | rfl | assumption) (lEvr : L.evr = true := by first | rfl | assumption) (lTrc : L.trc = true := by first | rfl | assumption) (lNvp : L.nvp = true := by first | rfl | assumption) (lFw : L.fw = true := by first | rfl | assumption) (lRtc : L.rtc = true := by first | rfl | assumption) (lPwr : L.pwr = true := by first | rfl | assumption) (lMet : L.met = true := by first | rfl | assumption) (lFree : L.free = true := by first | rfl | assumption) (lRole : L.role = true := by first | rfl | assumption) : Keep L s s₂ := by
  unfold execHostStatus at hx
  with_reducible refine Keep.next ?_ hx
  clear hx
  have hK := Keep.refl (L := L) s
  repeat' (first
    | with_reducible assumption
    | with_reducible apply State.hostFrame_keep
    | with_reducible apply Keep.ite
    | split)

theorem execHostStallViolation_keep {s s₂ : State} (hx : execHostStallViolation s = .next s₂) (lHost : L.host = true := by first | rfl | assumption) (lEvr : L.evr = true := by first | rfl | assumption) : Keep L s s₂ := by
  unfold execHostStallViolation at hx
  with_reducible refine Keep.commit ?_ hx
  clear hx
  have hK := Keep.refl (L := L) s
  repeat' (first
    | with_reducible assumption
    | with_reducible apply State.hptCauseBit_keep
    | with_reducible apply Keep.ite
    | split)

theorem execHostAccessTimeout_keep {s s₂ : State} (write : Bool) (hx : execHostAccessTimeout write s = .next s₂) (lHost : L.host = true := by first | rfl | assumption) (lEvr : L.evr = true := by first | rfl | assumption) : Keep L s s₂ := by
  unfold execHostAccessTimeout at hx
  with_reducible refine Keep.commit ?_ hx
  clear hx
  have hK := Keep.refl (L := L) s
  repeat' (first
    | with_reducible assumption
    | with_reducible apply State.hostGets_keep
    | with_reducible apply State.hptCauseBit_keep
    | with_reducible apply Keep.ite
    | split)

theorem execUnlockChallenge_keep {s s₂ : State} (m : Master) (hx : execUnlockChallenge m s = .next s₂) (lClk : L.clk = true := by first | rfl | assumption) (lClu : L.clu = true := by first | rfl | assumption) (lTasks : L.tasks = true := by first | rfl | assumption) (lSto : L.sto = true := by first | rfl | assumption) (lLdr : L.ldr = true := by first | rfl | assumption) (lCsw : L.csw = true := by first | rfl | assumption) (lFio : L.fio = true := by first | rfl | assumption) (lNet : L.net = true := by first | rfl | assumption) (lCan : L.can = true := by first | rfl | assumption) (lDict : L.dict = true := by first | rfl | assumption) (lHost : L.host = true := by first | rfl | assumption) (lWdg : L.wdg = true := by first | rfl | assumption) (lEvr : L.evr = true := by first | rfl | assumption) (lTrc : L.trc = true := by first | rfl | assumption) (lNvp : L.nvp = true := by first | rfl | assumption) (lFw : L.fw = true := by first | rfl | assumption) (lRtc : L.rtc = true := by first | rfl | assumption) (lPwr : L.pwr = true := by first | rfl | assumption) (lMet : L.met = true := by first | rfl | assumption) (lFree : L.free = true := by first | rfl | assumption) (lRole : L.role = true := by first | rfl | assumption) : Keep L s s₂ := by
  unfold execUnlockChallenge at hx
  with_reducible refine Keep.commit ?_ hx
  clear hx
  have hK := Keep.refl (L := L) s
  repeat' (first
    | with_reducible assumption
    | with_reducible apply State.fabricWrite_keep
    | with_reducible apply Keep.ite
    | split)

theorem execUnlockGo_keep {s s₂ : State} (m : Master) (hx : execUnlockGo m s = .next s₂) (lClk : L.clk = true := by first | rfl | assumption) (lClu : L.clu = true := by first | rfl | assumption) (lTasks : L.tasks = true := by first | rfl | assumption) (lSto : L.sto = true := by first | rfl | assumption) (lLdr : L.ldr = true := by first | rfl | assumption) (lCsw : L.csw = true := by first | rfl | assumption) (lFio : L.fio = true := by first | rfl | assumption) (lNet : L.net = true := by first | rfl | assumption) (lCan : L.can = true := by first | rfl | assumption) (lDict : L.dict = true := by first | rfl | assumption) (lHost : L.host = true := by first | rfl | assumption) (lWdg : L.wdg = true := by first | rfl | assumption) (lEvr : L.evr = true := by first | rfl | assumption) (lTrc : L.trc = true := by first | rfl | assumption) (lNvp : L.nvp = true := by first | rfl | assumption) (lFw : L.fw = true := by first | rfl | assumption) (lRtc : L.rtc = true := by first | rfl | assumption) (lPwr : L.pwr = true := by first | rfl | assumption) (lMet : L.met = true := by first | rfl | assumption) (lFree : L.free = true := by first | rfl | assumption) (lRole : L.role = true := by first | rfl | assumption) : Keep L s s₂ := by
  unfold execUnlockGo at hx
  with_reducible refine Keep.commit ?_ hx
  clear hx
  have hK := Keep.refl (L := L) s
  repeat' (first
    | with_reducible assumption
    | with_reducible apply State.fabricWrite_keep
    | with_reducible apply Keep.ite
    | split)

theorem execUnlockLock_keep {s s₂ : State} (m : Master) (hx : execUnlockLock m s = .next s₂) (lClk : L.clk = true := by first | rfl | assumption) (lClu : L.clu = true := by first | rfl | assumption) (lTasks : L.tasks = true := by first | rfl | assumption) (lSto : L.sto = true := by first | rfl | assumption) (lLdr : L.ldr = true := by first | rfl | assumption) (lCsw : L.csw = true := by first | rfl | assumption) (lFio : L.fio = true := by first | rfl | assumption) (lNet : L.net = true := by first | rfl | assumption) (lCan : L.can = true := by first | rfl | assumption) (lDict : L.dict = true := by first | rfl | assumption) (lHost : L.host = true := by first | rfl | assumption) (lWdg : L.wdg = true := by first | rfl | assumption) (lEvr : L.evr = true := by first | rfl | assumption) (lTrc : L.trc = true := by first | rfl | assumption) (lNvp : L.nvp = true := by first | rfl | assumption) (lFw : L.fw = true := by first | rfl | assumption) (lRtc : L.rtc = true := by first | rfl | assumption) (lPwr : L.pwr = true := by first | rfl | assumption) (lMet : L.met = true := by first | rfl | assumption) (lFree : L.free = true := by first | rfl | assumption) (lRole : L.role = true := by first | rfl | assumption) : Keep L s s₂ := by
  unfold execUnlockLock at hx
  with_reducible refine Keep.commit ?_ hx
  clear hx
  have hK := Keep.refl (L := L) s
  repeat' (first
    | with_reducible assumption
    | with_reducible apply State.fabricWrite_keep
    | with_reducible apply Keep.ite
    | split)

theorem execHostLockoutEnd_keep {s s₂ : State} (hx : execHostLockoutEnd s = .next s₂) (lHost : L.host = true := by first | rfl | assumption) : Keep L s s₂ := by
  unfold execHostLockoutEnd at hx
  with_reducible refine Keep.commit ?_ hx
  clear hx
  have hK := Keep.refl (L := L) s
  repeat' (first
    | with_reducible assumption
    | with_reducible refine Keep.upHost ?_ (fun xk => ?_)
    | exact xk
    | with_reducible apply Keep.ite
    | split)

theorem execRegisterWrite_keep {s s₂ : State} (m : Master) (addr : Nat) (v : Word) (hx : execRegisterWrite m addr v s = .next s₂) (lClk : L.clk = true := by first | rfl | assumption) (lClu : L.clu = true := by first | rfl | assumption) (lTasks : L.tasks = true := by first | rfl | assumption) (lSto : L.sto = true := by first | rfl | assumption) (lLdr : L.ldr = true := by first | rfl | assumption) (lCsw : L.csw = true := by first | rfl | assumption) (lFio : L.fio = true := by first | rfl | assumption) (lNet : L.net = true := by first | rfl | assumption) (lCan : L.can = true := by first | rfl | assumption) (lDict : L.dict = true := by first | rfl | assumption) (lHost : L.host = true := by first | rfl | assumption) (lWdg : L.wdg = true := by first | rfl | assumption) (lEvr : L.evr = true := by first | rfl | assumption) (lTrc : L.trc = true := by first | rfl | assumption) (lNvp : L.nvp = true := by first | rfl | assumption) (lFw : L.fw = true := by first | rfl | assumption) (lRtc : L.rtc = true := by first | rfl | assumption) (lPwr : L.pwr = true := by first | rfl | assumption) (lMet : L.met = true := by first | rfl | assumption) (lFree : L.free = true := by first | rfl | assumption) (lRole : L.role = true := by first | rfl | assumption) : Keep L s s₂ := by
  unfold execRegisterWrite at hx
  with_reducible refine Keep.commit ?_ hx
  clear hx
  have hK := Keep.refl (L := L) s
  repeat' (first
    | with_reducible assumption
    | with_reducible apply State.fabricWrite_keep
    | with_reducible apply Keep.ite
    | split)

theorem execRclRead_keep {s s₂ : State} (m : Master) (addr : Nat) (hx : execRclRead m addr s = .next s₂) (lCsw : L.csw = true := by first | rfl | assumption) (lNet : L.net = true := by first | rfl | assumption) (lCan : L.can = true := by first | rfl | assumption) (lHost : L.host = true := by first | rfl | assumption) (lEvr : L.evr = true := by first | rfl | assumption) (lTrc : L.trc = true := by first | rfl | assumption) : Keep L s s₂ := by
  unfold execRclRead at hx
  with_reducible refine Keep.commit ?_ hx
  clear hx
  have hK := Keep.refl (L := L) s
  repeat' (first
    | with_reducible assumption
    | with_reducible apply State.regRead_keep
    | with_reducible apply Keep.ite
    | split)

theorem execMbxSelWrite_keep {s s₂ : State} (m : Master) (v : Word) (hx : execMbxSelWrite m v s = .next s₂) (lClk : L.clk = true := by first | rfl | assumption) (lClu : L.clu = true := by first | rfl | assumption) (lTasks : L.tasks = true := by first | rfl | assumption) (lSto : L.sto = true := by first | rfl | assumption) (lLdr : L.ldr = true := by first | rfl | assumption) (lCsw : L.csw = true := by first | rfl | assumption) (lFio : L.fio = true := by first | rfl | assumption) (lNet : L.net = true := by first | rfl | assumption) (lCan : L.can = true := by first | rfl | assumption) (lDict : L.dict = true := by first | rfl | assumption) (lHost : L.host = true := by first | rfl | assumption) (lWdg : L.wdg = true := by first | rfl | assumption) (lEvr : L.evr = true := by first | rfl | assumption) (lTrc : L.trc = true := by first | rfl | assumption) (lNvp : L.nvp = true := by first | rfl | assumption) (lFw : L.fw = true := by first | rfl | assumption) (lRtc : L.rtc = true := by first | rfl | assumption) (lPwr : L.pwr = true := by first | rfl | assumption) (lMet : L.met = true := by first | rfl | assumption) (lFree : L.free = true := by first | rfl | assumption) (lRole : L.role = true := by first | rfl | assumption) : Keep L s s₂ := by
  unfold execMbxSelWrite at hx
  with_reducible refine Keep.commit ?_ hx
  clear hx
  have hK := Keep.refl (L := L) s
  repeat' (first
    | with_reducible assumption
    | with_reducible apply State.fabricWrite_keep
    | with_reducible apply Keep.ite
    | split)

theorem execMbxLatch_keep {s s₂ : State} (m : Master) (t : Nat) (hx : execMbxLatch m t s = .next s₂) (lClk : L.clk = true := by first | rfl | assumption) (lHost : L.host = true := by first | rfl | assumption) : Keep L s s₂ := by
  unfold execMbxLatch at hx
  with_reducible refine Keep.commit ?_ hx
  clear hx
  have hK := Keep.refl (L := L) s
  repeat' (first
    | with_reducible assumption
    | with_reducible apply State.reach_keep
    | with_reducible apply State.mbxLatch_keep
    | with_reducible apply Keep.ite
    | split)

theorem execMbxDataRead_keep {s s₂ : State} (m : Master) (i : Nat) (hx : execMbxDataRead m i s = .next s₂) (lCsw : L.csw = true := by first | rfl | assumption) (lNet : L.net = true := by first | rfl | assumption) (lCan : L.can = true := by first | rfl | assumption) (lHost : L.host = true := by first | rfl | assumption) (lEvr : L.evr = true := by first | rfl | assumption) (lTrc : L.trc = true := by first | rfl | assumption) : Keep L s s₂ := by
  unfold execMbxDataRead at hx
  with_reducible refine Keep.commit ?_ hx
  clear hx
  have hK := Keep.refl (L := L) s
  repeat' (first
    | with_reducible assumption
    | with_reducible apply State.regRead_keep
    | with_reducible apply Keep.ite
    | split)

theorem execIntClaim_keep {s s₂ : State} (m : Master) (hx : execIntClaim m s = .next s₂) (lCsw : L.csw = true := by first | rfl | assumption) (lNet : L.net = true := by first | rfl | assumption) (lCan : L.can = true := by first | rfl | assumption) (lHost : L.host = true := by first | rfl | assumption) (lEvr : L.evr = true := by first | rfl | assumption) (lTrc : L.trc = true := by first | rfl | assumption) : Keep L s s₂ := by
  unfold execIntClaim at hx
  with_reducible refine Keep.commit ?_ hx
  clear hx
  have hK := Keep.refl (L := L) s
  repeat' (first
    | with_reducible assumption
    | with_reducible apply State.regRead_keep
    | with_reducible apply Keep.ite
    | split)

theorem execIntTake_keep {s s₂ : State} (m : Master) (n : Nat) (hx : execIntTake m n s = .next s₂) (lCsw : L.csw = true := by first | rfl | assumption) (lNet : L.net = true := by first | rfl | assumption) (lCan : L.can = true := by first | rfl | assumption) (lHost : L.host = true := by first | rfl | assumption) (lEvr : L.evr = true := by first | rfl | assumption) (lTrc : L.trc = true := by first | rfl | assumption) : Keep L s s₂ := by
  unfold execIntTake at hx
  with_reducible refine Keep.commit ?_ hx
  clear hx
  have hK := Keep.refl (L := L) s
  repeat' (first
    | with_reducible assumption
    | with_reducible apply State.regRead_keep
    | with_reducible apply Keep.ite
    | split)

theorem execIntDone_keep {s s₂ : State} (m : Master) (v : Word) (hx : execIntDone m v s = .next s₂) (lClk : L.clk = true := by first | rfl | assumption) (lClu : L.clu = true := by first | rfl | assumption) (lTasks : L.tasks = true := by first | rfl | assumption) (lSto : L.sto = true := by first | rfl | assumption) (lLdr : L.ldr = true := by first | rfl | assumption) (lCsw : L.csw = true := by first | rfl | assumption) (lFio : L.fio = true := by first | rfl | assumption) (lNet : L.net = true := by first | rfl | assumption) (lCan : L.can = true := by first | rfl | assumption) (lDict : L.dict = true := by first | rfl | assumption) (lHost : L.host = true := by first | rfl | assumption) (lWdg : L.wdg = true := by first | rfl | assumption) (lEvr : L.evr = true := by first | rfl | assumption) (lTrc : L.trc = true := by first | rfl | assumption) (lNvp : L.nvp = true := by first | rfl | assumption) (lFw : L.fw = true := by first | rfl | assumption) (lRtc : L.rtc = true := by first | rfl | assumption) (lPwr : L.pwr = true := by first | rfl | assumption) (lMet : L.met = true := by first | rfl | assumption) (lFree : L.free = true := by first | rfl | assumption) (lRole : L.role = true := by first | rfl | assumption) : Keep L s s₂ := by
  unfold execIntDone at hx
  with_reducible refine Keep.commit ?_ hx
  clear hx
  have hK := Keep.refl (L := L) s
  repeat' (first
    | with_reducible assumption
    | with_reducible apply State.fabricWrite_keep
    | with_reducible apply Keep.ite
    | split)

theorem execIntRouteWrite_keep {s s₂ : State} (m : Master) (n : Nat) (v : Word) (hx : execIntRouteWrite m n v s = .next s₂) (lClk : L.clk = true := by first | rfl | assumption) (lClu : L.clu = true := by first | rfl | assumption) (lTasks : L.tasks = true := by first | rfl | assumption) (lSto : L.sto = true := by first | rfl | assumption) (lLdr : L.ldr = true := by first | rfl | assumption) (lCsw : L.csw = true := by first | rfl | assumption) (lFio : L.fio = true := by first | rfl | assumption) (lNet : L.net = true := by first | rfl | assumption) (lCan : L.can = true := by first | rfl | assumption) (lDict : L.dict = true := by first | rfl | assumption) (lHost : L.host = true := by first | rfl | assumption) (lWdg : L.wdg = true := by first | rfl | assumption) (lEvr : L.evr = true := by first | rfl | assumption) (lTrc : L.trc = true := by first | rfl | assumption) (lNvp : L.nvp = true := by first | rfl | assumption) (lFw : L.fw = true := by first | rfl | assumption) (lRtc : L.rtc = true := by first | rfl | assumption) (lPwr : L.pwr = true := by first | rfl | assumption) (lMet : L.met = true := by first | rfl | assumption) (lFree : L.free = true := by first | rfl | assumption) (lRole : L.role = true := by first | rfl | assumption) : Keep L s s₂ := by
  unfold execIntRouteWrite at hx
  with_reducible refine Keep.commit ?_ hx
  clear hx
  have hK := Keep.refl (L := L) s
  repeat' (first
    | with_reducible assumption
    | with_reducible apply State.fabricWrite_keep
    | with_reducible apply Keep.ite
    | split)

theorem execSysReset_keep {s s₂ : State} (m : Master) (v : Word) (hx : execSysReset m v s = .next s₂) (lClk : L.clk = true := by first | rfl | assumption) (lClu : L.clu = true := by first | rfl | assumption) (lTasks : L.tasks = true := by first | rfl | assumption) (lSto : L.sto = true := by first | rfl | assumption) (lLdr : L.ldr = true := by first | rfl | assumption) (lCsw : L.csw = true := by first | rfl | assumption) (lFio : L.fio = true := by first | rfl | assumption) (lNet : L.net = true := by first | rfl | assumption) (lCan : L.can = true := by first | rfl | assumption) (lDict : L.dict = true := by first | rfl | assumption) (lHost : L.host = true := by first | rfl | assumption) (lWdg : L.wdg = true := by first | rfl | assumption) (lEvr : L.evr = true := by first | rfl | assumption) (lTrc : L.trc = true := by first | rfl | assumption) (lNvp : L.nvp = true := by first | rfl | assumption) (lFw : L.fw = true := by first | rfl | assumption) (lRtc : L.rtc = true := by first | rfl | assumption) (lPwr : L.pwr = true := by first | rfl | assumption) (lMet : L.met = true := by first | rfl | assumption) (lFree : L.free = true := by first | rfl | assumption) (lRole : L.role = true := by first | rfl | assumption) : Keep L s s₂ := by
  unfold execSysReset at hx
  with_reducible refine Keep.commit ?_ hx
  clear hx
  have hK := Keep.refl (L := L) s
  repeat' (first
    | with_reducible assumption
    | with_reducible apply State.fabricWrite_keep
    | with_reducible apply Keep.ite
    | split)

theorem execRoleNextWrite_keep {s s₂ : State} (m : Master) (v : Word) (hx : execRoleNextWrite m v s = .next s₂) (lClk : L.clk = true := by first | rfl | assumption) (lClu : L.clu = true := by first | rfl | assumption) (lTasks : L.tasks = true := by first | rfl | assumption) (lSto : L.sto = true := by first | rfl | assumption) (lLdr : L.ldr = true := by first | rfl | assumption) (lCsw : L.csw = true := by first | rfl | assumption) (lFio : L.fio = true := by first | rfl | assumption) (lNet : L.net = true := by first | rfl | assumption) (lCan : L.can = true := by first | rfl | assumption) (lDict : L.dict = true := by first | rfl | assumption) (lHost : L.host = true := by first | rfl | assumption) (lWdg : L.wdg = true := by first | rfl | assumption) (lEvr : L.evr = true := by first | rfl | assumption) (lTrc : L.trc = true := by first | rfl | assumption) (lNvp : L.nvp = true := by first | rfl | assumption) (lFw : L.fw = true := by first | rfl | assumption) (lRtc : L.rtc = true := by first | rfl | assumption) (lPwr : L.pwr = true := by first | rfl | assumption) (lMet : L.met = true := by first | rfl | assumption) (lFree : L.free = true := by first | rfl | assumption) (lRole : L.role = true := by first | rfl | assumption) : Keep L s s₂ := by
  unfold execRoleNextWrite at hx
  with_reducible refine Keep.commit ?_ hx
  clear hx
  have hK := Keep.refl (L := L) s
  repeat' (first
    | with_reducible assumption
    | with_reducible apply State.fabricWrite_keep
    | with_reducible apply Keep.ite
    | split)

theorem execParkRequest_keep {s s₂ : State} (m : Master) (v : Word) (hx : execParkRequest m v s = .next s₂) (lClk : L.clk = true := by first | rfl | assumption) (lClu : L.clu = true := by first | rfl | assumption) (lTasks : L.tasks = true := by first | rfl | assumption) (lSto : L.sto = true := by first | rfl | assumption) (lLdr : L.ldr = true := by first | rfl | assumption) (lCsw : L.csw = true := by first | rfl | assumption) (lFio : L.fio = true := by first | rfl | assumption) (lNet : L.net = true := by first | rfl | assumption) (lCan : L.can = true := by first | rfl | assumption) (lDict : L.dict = true := by first | rfl | assumption) (lHost : L.host = true := by first | rfl | assumption) (lWdg : L.wdg = true := by first | rfl | assumption) (lEvr : L.evr = true := by first | rfl | assumption) (lTrc : L.trc = true := by first | rfl | assumption) (lNvp : L.nvp = true := by first | rfl | assumption) (lFw : L.fw = true := by first | rfl | assumption) (lRtc : L.rtc = true := by first | rfl | assumption) (lPwr : L.pwr = true := by first | rfl | assumption) (lMet : L.met = true := by first | rfl | assumption) (lFree : L.free = true := by first | rfl | assumption) (lRole : L.role = true := by first | rfl | assumption) : Keep L s s₂ := by
  unfold execParkRequest at hx
  with_reducible refine Keep.commit ?_ hx
  clear hx
  have hK := Keep.refl (L := L) s
  repeat' (first
    | with_reducible assumption
    | with_reducible apply State.fabricWrite_keep
    | with_reducible apply Keep.ite
    | split)

theorem execHostCheckin_keep {s s₂ : State} (m : Master) (t : Nat) (v : Word) (hx : execHostCheckin m t v s = .next s₂) (lClk : L.clk = true := by first | rfl | assumption) (lClu : L.clu = true := by first | rfl | assumption) (lTasks : L.tasks = true := by first | rfl | assumption) (lSto : L.sto = true := by first | rfl | assumption) (lLdr : L.ldr = true := by first | rfl | assumption) (lCsw : L.csw = true := by first | rfl | assumption) (lFio : L.fio = true := by first | rfl | assumption) (lNet : L.net = true := by first | rfl | assumption) (lCan : L.can = true := by first | rfl | assumption) (lDict : L.dict = true := by first | rfl | assumption) (lHost : L.host = true := by first | rfl | assumption) (lWdg : L.wdg = true := by first | rfl | assumption) (lEvr : L.evr = true := by first | rfl | assumption) (lTrc : L.trc = true := by first | rfl | assumption) (lNvp : L.nvp = true := by first | rfl | assumption) (lFw : L.fw = true := by first | rfl | assumption) (lRtc : L.rtc = true := by first | rfl | assumption) (lPwr : L.pwr = true := by first | rfl | assumption) (lMet : L.met = true := by first | rfl | assumption) (lFree : L.free = true := by first | rfl | assumption) (lRole : L.role = true := by first | rfl | assumption) : Keep L s s₂ := by
  unfold execHostCheckin at hx
  with_reducible refine Keep.commit ?_ hx
  clear hx
  have hK := Keep.refl (L := L) s
  repeat' (first
    | with_reducible assumption
    | with_reducible apply State.reach_keep
    | with_reducible apply State.fabricWrite_keep
    | with_reducible apply Keep.ite
    | split)

theorem execClrResets_keep {s s₂ : State} (m : Master) (v : Word) (hx : execClrResets m v s = .next s₂) (lClk : L.clk = true := by first | rfl | assumption) (lClu : L.clu = true := by first | rfl | assumption) (lTasks : L.tasks = true := by first | rfl | assumption) (lSto : L.sto = true := by first | rfl | assumption) (lLdr : L.ldr = true := by first | rfl | assumption) (lCsw : L.csw = true := by first | rfl | assumption) (lFio : L.fio = true := by first | rfl | assumption) (lNet : L.net = true := by first | rfl | assumption) (lCan : L.can = true := by first | rfl | assumption) (lDict : L.dict = true := by first | rfl | assumption) (lHost : L.host = true := by first | rfl | assumption) (lWdg : L.wdg = true := by first | rfl | assumption) (lEvr : L.evr = true := by first | rfl | assumption) (lTrc : L.trc = true := by first | rfl | assumption) (lNvp : L.nvp = true := by first | rfl | assumption) (lFw : L.fw = true := by first | rfl | assumption) (lRtc : L.rtc = true := by first | rfl | assumption) (lPwr : L.pwr = true := by first | rfl | assumption) (lMet : L.met = true := by first | rfl | assumption) (lFree : L.free = true := by first | rfl | assumption) (lRole : L.role = true := by first | rfl | assumption) : Keep L s s₂ := by
  unfold execClrResets at hx
  with_reducible refine Keep.commit ?_ hx
  clear hx
  have hK := Keep.refl (L := L) s
  repeat' (first
    | with_reducible assumption
    | with_reducible apply State.fabricWrite_keep
    | with_reducible apply Keep.ite
    | split)

theorem execEventClear_keep {s s₂ : State} (m : Master) (v : Word) (hx : execEventClear m v s = .next s₂) (lClk : L.clk = true := by first | rfl | assumption) (lClu : L.clu = true := by first | rfl | assumption) (lTasks : L.tasks = true := by first | rfl | assumption) (lSto : L.sto = true := by first | rfl | assumption) (lLdr : L.ldr = true := by first | rfl | assumption) (lCsw : L.csw = true := by first | rfl | assumption) (lFio : L.fio = true := by first | rfl | assumption) (lNet : L.net = true := by first | rfl | assumption) (lCan : L.can = true := by first | rfl | assumption) (lDict : L.dict = true := by first | rfl | assumption) (lHost : L.host = true := by first | rfl | assumption) (lWdg : L.wdg = true := by first | rfl | assumption) (lEvr : L.evr = true := by first | rfl | assumption) (lTrc : L.trc = true := by first | rfl | assumption) (lNvp : L.nvp = true := by first | rfl | assumption) (lFw : L.fw = true := by first | rfl | assumption) (lRtc : L.rtc = true := by first | rfl | assumption) (lPwr : L.pwr = true := by first | rfl | assumption) (lMet : L.met = true := by first | rfl | assumption) (lFree : L.free = true := by first | rfl | assumption) (lRole : L.role = true := by first | rfl | assumption) : Keep L s s₂ := by
  unfold execEventClear at hx
  with_reducible refine Keep.commit ?_ hx
  clear hx
  have hK := Keep.refl (L := L) s
  repeat' (first
    | with_reducible assumption
    | with_reducible apply State.fabricWrite_keep
    | with_reducible apply Keep.ite
    | split)

theorem execEvrWin0Read_keep {s s₂ : State} (m : Master) (ecc : List Ecc) (hx : execEvrWin0Read m ecc s = .next s₂) (lSto : L.sto = true := by first | rfl | assumption) (lCsw : L.csw = true := by first | rfl | assumption) (lNet : L.net = true := by first | rfl | assumption) (lCan : L.can = true := by first | rfl | assumption) (lHost : L.host = true := by first | rfl | assumption) (lEvr : L.evr = true := by first | rfl | assumption) (lTrc : L.trc = true := by first | rfl | assumption) : Keep L s s₂ := by
  unfold execEvrWin0Read at hx
  with_reducible refine Keep.commit ?_ hx
  clear hx
  have hK := Keep.refl (L := L) s
  repeat' (first
    | with_reducible assumption
    | with_reducible apply State.recorderReads_keep
    | with_reducible apply State.regRead_keep
    | with_reducible apply Keep.ite
    | split)

theorem execEvrWin63Read_keep {s s₂ : State} (m : Master) (hx : execEvrWin63Read m s = .next s₂) (lCsw : L.csw = true := by first | rfl | assumption) (lNet : L.net = true := by first | rfl | assumption) (lCan : L.can = true := by first | rfl | assumption) (lHost : L.host = true := by first | rfl | assumption) (lEvr : L.evr = true := by first | rfl | assumption) (lTrc : L.trc = true := by first | rfl | assumption) : Keep L s s₂ := by
  unfold execEvrWin63Read at hx
  with_reducible refine Keep.commit ?_ hx
  clear hx
  have hK := Keep.refl (L := L) s
  repeat' (first
    | with_reducible assumption
    | with_reducible apply State.regRead_keep
    | with_reducible apply Keep.ite
    | split)

theorem execSnapshotTake_keep {s s₂ : State} (m : Master) (hx : execSnapshotTake m s = .next s₂) (lClk : L.clk = true := by first | rfl | assumption) (lClu : L.clu = true := by first | rfl | assumption) (lTasks : L.tasks = true := by first | rfl | assumption) (lSto : L.sto = true := by first | rfl | assumption) (lLdr : L.ldr = true := by first | rfl | assumption) (lCsw : L.csw = true := by first | rfl | assumption) (lFio : L.fio = true := by first | rfl | assumption) (lNet : L.net = true := by first | rfl | assumption) (lCan : L.can = true := by first | rfl | assumption) (lDict : L.dict = true := by first | rfl | assumption) (lHost : L.host = true := by first | rfl | assumption) (lWdg : L.wdg = true := by first | rfl | assumption) (lEvr : L.evr = true := by first | rfl | assumption) (lTrc : L.trc = true := by first | rfl | assumption) (lNvp : L.nvp = true := by first | rfl | assumption) (lFw : L.fw = true := by first | rfl | assumption) (lRtc : L.rtc = true := by first | rfl | assumption) (lPwr : L.pwr = true := by first | rfl | assumption) (lMet : L.met = true := by first | rfl | assumption) (lFree : L.free = true := by first | rfl | assumption) (lRole : L.role = true := by first | rfl | assumption) : Keep L s s₂ := by
  unfold execSnapshotTake at hx
  with_reducible refine Keep.commit ?_ hx
  clear hx
  have hK := Keep.refl (L := L) s
  repeat' (first
    | with_reducible assumption
    | with_reducible apply State.fabricWrite_keep
    | with_reducible apply Keep.ite
    | split)

theorem execCalendarSetGo_keep {s s₂ : State} (m : Master) (hx : execCalendarSetGo m s = .next s₂) (lClk : L.clk = true := by first | rfl | assumption) (lClu : L.clu = true := by first | rfl | assumption) (lTasks : L.tasks = true := by first | rfl | assumption) (lSto : L.sto = true := by first | rfl | assumption) (lLdr : L.ldr = true := by first | rfl | assumption) (lCsw : L.csw = true := by first | rfl | assumption) (lFio : L.fio = true := by first | rfl | assumption) (lNet : L.net = true := by first | rfl | assumption) (lCan : L.can = true := by first | rfl | assumption) (lDict : L.dict = true := by first | rfl | assumption) (lHost : L.host = true := by first | rfl | assumption) (lWdg : L.wdg = true := by first | rfl | assumption) (lEvr : L.evr = true := by first | rfl | assumption) (lTrc : L.trc = true := by first | rfl | assumption) (lNvp : L.nvp = true := by first | rfl | assumption) (lFw : L.fw = true := by first | rfl | assumption) (lRtc : L.rtc = true := by first | rfl | assumption) (lPwr : L.pwr = true := by first | rfl | assumption) (lMet : L.met = true := by first | rfl | assumption) (lFree : L.free = true := by first | rfl | assumption) (lRole : L.role = true := by first | rfl | assumption) : Keep L s s₂ := by
  unfold execCalendarSetGo at hx
  with_reducible refine Keep.commit ?_ hx
  clear hx
  have hK := Keep.refl (L := L) s
  repeat' (first
    | with_reducible assumption
    | with_reducible apply State.fabricWrite_keep
    | with_reducible apply Keep.ite
    | split)

theorem execShiftStart_keep {s s₂ : State} (m : Master) (v : Word) (hx : execShiftStart m v s = .next s₂) (lClk : L.clk = true := by first | rfl | assumption) (lClu : L.clu = true := by first | rfl | assumption) (lTasks : L.tasks = true := by first | rfl | assumption) (lSto : L.sto = true := by first | rfl | assumption) (lLdr : L.ldr = true := by first | rfl | assumption) (lCsw : L.csw = true := by first | rfl | assumption) (lFio : L.fio = true := by first | rfl | assumption) (lNet : L.net = true := by first | rfl | assumption) (lCan : L.can = true := by first | rfl | assumption) (lDict : L.dict = true := by first | rfl | assumption) (lHost : L.host = true := by first | rfl | assumption) (lWdg : L.wdg = true := by first | rfl | assumption) (lEvr : L.evr = true := by first | rfl | assumption) (lTrc : L.trc = true := by first | rfl | assumption) (lNvp : L.nvp = true := by first | rfl | assumption) (lFw : L.fw = true := by first | rfl | assumption) (lRtc : L.rtc = true := by first | rfl | assumption) (lPwr : L.pwr = true := by first | rfl | assumption) (lMet : L.met = true := by first | rfl | assumption) (lFree : L.free = true := by first | rfl | assumption) (lRole : L.role = true := by first | rfl | assumption) : Keep L s s₂ := by
  unfold execShiftStart at hx
  with_reducible refine Keep.commit ?_ hx
  clear hx
  have hK := Keep.refl (L := L) s
  repeat' (first
    | with_reducible assumption
    | with_reducible apply State.fabricWrite_keep
    | with_reducible apply Keep.ite
    | split)

theorem execNvpRecordRead_keep {s s₂ : State} (m : Master) (ecc : List Ecc) (hx : execNvpRecordRead m ecc s = .next s₂) (lClk : L.clk = true := by first | rfl | assumption) (lClu : L.clu = true := by first | rfl | assumption) (lTasks : L.tasks = true := by first | rfl | assumption) (lSto : L.sto = true := by first | rfl | assumption) (lLdr : L.ldr = true := by first | rfl | assumption) (lCsw : L.csw = true := by first | rfl | assumption) (lFio : L.fio = true := by first | rfl | assumption) (lNet : L.net = true := by first | rfl | assumption) (lCan : L.can = true := by first | rfl | assumption) (lDict : L.dict = true := by first | rfl | assumption) (lHost : L.host = true := by first | rfl | assumption) (lWdg : L.wdg = true := by first | rfl | assumption) (lEvr : L.evr = true := by first | rfl | assumption) (lTrc : L.trc = true := by first | rfl | assumption) (lNvp : L.nvp = true := by first | rfl | assumption) (lFw : L.fw = true := by first | rfl | assumption) (lRtc : L.rtc = true := by first | rfl | assumption) (lPwr : L.pwr = true := by first | rfl | assumption) (lMet : L.met = true := by first | rfl | assumption) (lFree : L.free = true := by first | rfl | assumption) (lRole : L.role = true := by first | rfl | assumption) : Keep L s s₂ := by
  unfold execNvpRecordRead at hx
  with_reducible refine Keep.commit ?_ hx
  clear hx
  have hK := Keep.refl (L := L) s
  repeat' (first
    | with_reducible assumption
    | with_reducible apply State.fabricWrite_keep
    | with_reducible apply Keep.ite
    | split)

theorem execNvpRecordWrite_keep {s s₂ : State} (m : Master) (hx : execNvpRecordWrite m s = .next s₂) (lClk : L.clk = true := by first | rfl | assumption) (lClu : L.clu = true := by first | rfl | assumption) (lTasks : L.tasks = true := by first | rfl | assumption) (lSto : L.sto = true := by first | rfl | assumption) (lLdr : L.ldr = true := by first | rfl | assumption) (lCsw : L.csw = true := by first | rfl | assumption) (lFio : L.fio = true := by first | rfl | assumption) (lNet : L.net = true := by first | rfl | assumption) (lCan : L.can = true := by first | rfl | assumption) (lDict : L.dict = true := by first | rfl | assumption) (lHost : L.host = true := by first | rfl | assumption) (lWdg : L.wdg = true := by first | rfl | assumption) (lEvr : L.evr = true := by first | rfl | assumption) (lTrc : L.trc = true := by first | rfl | assumption) (lNvp : L.nvp = true := by first | rfl | assumption) (lFw : L.fw = true := by first | rfl | assumption) (lRtc : L.rtc = true := by first | rfl | assumption) (lPwr : L.pwr = true := by first | rfl | assumption) (lMet : L.met = true := by first | rfl | assumption) (lFree : L.free = true := by first | rfl | assumption) (lRole : L.role = true := by first | rfl | assumption) : Keep L s s₂ := by
  unfold execNvpRecordWrite at hx
  with_reducible refine Keep.commit ?_ hx
  clear hx
  have hK := Keep.refl (L := L) s
  repeat' (first
    | with_reducible assumption
    | with_reducible apply State.fabricWrite_keep
    | with_reducible apply Keep.ite
    | split)

theorem execNvpRawRead_keep {s s₂ : State} (m : Master) (ecc : List Ecc) (hx : execNvpRawRead m ecc s = .next s₂) (lClk : L.clk = true := by first | rfl | assumption) (lClu : L.clu = true := by first | rfl | assumption) (lTasks : L.tasks = true := by first | rfl | assumption) (lSto : L.sto = true := by first | rfl | assumption) (lLdr : L.ldr = true := by first | rfl | assumption) (lCsw : L.csw = true := by first | rfl | assumption) (lFio : L.fio = true := by first | rfl | assumption) (lNet : L.net = true := by first | rfl | assumption) (lCan : L.can = true := by first | rfl | assumption) (lDict : L.dict = true := by first | rfl | assumption) (lHost : L.host = true := by first | rfl | assumption) (lWdg : L.wdg = true := by first | rfl | assumption) (lEvr : L.evr = true := by first | rfl | assumption) (lTrc : L.trc = true := by first | rfl | assumption) (lNvp : L.nvp = true := by first | rfl | assumption) (lFw : L.fw = true := by first | rfl | assumption) (lRtc : L.rtc = true := by first | rfl | assumption) (lPwr : L.pwr = true := by first | rfl | assumption) (lMet : L.met = true := by first | rfl | assumption) (lFree : L.free = true := by first | rfl | assumption) (lRole : L.role = true := by first | rfl | assumption) : Keep L s s₂ := by
  unfold execNvpRawRead at hx
  with_reducible refine Keep.commit ?_ hx
  clear hx
  have hK := Keep.refl (L := L) s
  repeat' (first
    | with_reducible assumption
    | with_reducible apply State.fabricWrite_keep
    | with_reducible apply Keep.ite
    | split)

theorem execNvpRawWrite_keep {s s₂ : State} (m : Master) (hx : execNvpRawWrite m s = .next s₂) (lClk : L.clk = true := by first | rfl | assumption) (lClu : L.clu = true := by first | rfl | assumption) (lTasks : L.tasks = true := by first | rfl | assumption) (lSto : L.sto = true := by first | rfl | assumption) (lLdr : L.ldr = true := by first | rfl | assumption) (lCsw : L.csw = true := by first | rfl | assumption) (lFio : L.fio = true := by first | rfl | assumption) (lNet : L.net = true := by first | rfl | assumption) (lCan : L.can = true := by first | rfl | assumption) (lDict : L.dict = true := by first | rfl | assumption) (lHost : L.host = true := by first | rfl | assumption) (lWdg : L.wdg = true := by first | rfl | assumption) (lEvr : L.evr = true := by first | rfl | assumption) (lTrc : L.trc = true := by first | rfl | assumption) (lNvp : L.nvp = true := by first | rfl | assumption) (lFw : L.fw = true := by first | rfl | assumption) (lRtc : L.rtc = true := by first | rfl | assumption) (lPwr : L.pwr = true := by first | rfl | assumption) (lMet : L.met = true := by first | rfl | assumption) (lFree : L.free = true := by first | rfl | assumption) (lRole : L.role = true := by first | rfl | assumption) : Keep L s s₂ := by
  unfold execNvpRawWrite at hx
  with_reducible refine Keep.commit ?_ hx
  clear hx
  have hK := Keep.refl (L := L) s
  repeat' (first
    | with_reducible assumption
    | with_reducible apply State.fabricWrite_keep
    | with_reducible apply Keep.ite
    | split)

theorem execNvpRawErase_keep {s s₂ : State} (m : Master) (hx : execNvpRawErase m s = .next s₂) (lClk : L.clk = true := by first | rfl | assumption) (lClu : L.clu = true := by first | rfl | assumption) (lTasks : L.tasks = true := by first | rfl | assumption) (lSto : L.sto = true := by first | rfl | assumption) (lLdr : L.ldr = true := by first | rfl | assumption) (lCsw : L.csw = true := by first | rfl | assumption) (lFio : L.fio = true := by first | rfl | assumption) (lNet : L.net = true := by first | rfl | assumption) (lCan : L.can = true := by first | rfl | assumption) (lDict : L.dict = true := by first | rfl | assumption) (lHost : L.host = true := by first | rfl | assumption) (lWdg : L.wdg = true := by first | rfl | assumption) (lEvr : L.evr = true := by first | rfl | assumption) (lTrc : L.trc = true := by first | rfl | assumption) (lNvp : L.nvp = true := by first | rfl | assumption) (lFw : L.fw = true := by first | rfl | assumption) (lRtc : L.rtc = true := by first | rfl | assumption) (lPwr : L.pwr = true := by first | rfl | assumption) (lMet : L.met = true := by first | rfl | assumption) (lFree : L.free = true := by first | rfl | assumption) (lRole : L.role = true := by first | rfl | assumption) : Keep L s s₂ := by
  unfold execNvpRawErase at hx
  with_reducible refine Keep.commit ?_ hx
  clear hx
  have hK := Keep.refl (L := L) s
  repeat' (first
    | with_reducible assumption
    | with_reducible apply State.fabricWrite_keep
    | with_reducible apply Keep.ite
    | split)

theorem execClrCorr_keep {s s₂ : State} (m : Master) (hx : execClrCorr m s = .next s₂) (lClk : L.clk = true := by first | rfl | assumption) (lClu : L.clu = true := by first | rfl | assumption) (lTasks : L.tasks = true := by first | rfl | assumption) (lSto : L.sto = true := by first | rfl | assumption) (lLdr : L.ldr = true := by first | rfl | assumption) (lCsw : L.csw = true := by first | rfl | assumption) (lFio : L.fio = true := by first | rfl | assumption) (lNet : L.net = true := by first | rfl | assumption) (lCan : L.can = true := by first | rfl | assumption) (lDict : L.dict = true := by first | rfl | assumption) (lHost : L.host = true := by first | rfl | assumption) (lWdg : L.wdg = true := by first | rfl | assumption) (lEvr : L.evr = true := by first | rfl | assumption) (lTrc : L.trc = true := by first | rfl | assumption) (lNvp : L.nvp = true := by first | rfl | assumption) (lFw : L.fw = true := by first | rfl | assumption) (lRtc : L.rtc = true := by first | rfl | assumption) (lPwr : L.pwr = true := by first | rfl | assumption) (lMet : L.met = true := by first | rfl | assumption) (lFree : L.free = true := by first | rfl | assumption) (lRole : L.role = true := by first | rfl | assumption) : Keep L s s₂ := by
  unfold execClrCorr at hx
  with_reducible refine Keep.commit ?_ hx
  clear hx
  have hK := Keep.refl (L := L) s
  repeat' (first
    | with_reducible assumption
    | with_reducible apply State.fabricWrite_keep
    | with_reducible apply Keep.ite
    | split)

theorem execSwapDrillCmd_keep {s s₂ : State} (m : Master) (t : Nat) (hx : execSwapDrillCmd m t s = .next s₂) (lClk : L.clk = true := by first | rfl | assumption) (lClu : L.clu = true := by first | rfl | assumption) (lTasks : L.tasks = true := by first | rfl | assumption) (lSto : L.sto = true := by first | rfl | assumption) (lLdr : L.ldr = true := by first | rfl | assumption) (lCsw : L.csw = true := by first | rfl | assumption) (lFio : L.fio = true := by first | rfl | assumption) (lNet : L.net = true := by first | rfl | assumption) (lCan : L.can = true := by first | rfl | assumption) (lDict : L.dict = true := by first | rfl | assumption) (lHost : L.host = true := by first | rfl | assumption) (lWdg : L.wdg = true := by first | rfl | assumption) (lEvr : L.evr = true := by first | rfl | assumption) (lTrc : L.trc = true := by first | rfl | assumption) (lNvp : L.nvp = true := by first | rfl | assumption) (lFw : L.fw = true := by first | rfl | assumption) (lRtc : L.rtc = true := by first | rfl | assumption) (lPwr : L.pwr = true := by first | rfl | assumption) (lMet : L.met = true := by first | rfl | assumption) (lFree : L.free = true := by first | rfl | assumption) (lRole : L.role = true := by first | rfl | assumption) : Keep L s s₂ := by
  unfold execSwapDrillCmd at hx
  with_reducible refine Keep.commit ?_ hx
  clear hx
  have hK := Keep.refl (L := L) s
  repeat' (first
    | with_reducible assumption
    | with_reducible apply State.reach_keep
    | with_reducible apply State.fabricWrite_keep
    | with_reducible apply Keep.ite
    | split)

theorem execProgramSwapCmd_keep {s s₂ : State} (m : Master) (t : Nat) (hx : execProgramSwapCmd m t s = .next s₂) (lClk : L.clk = true := by first | rfl | assumption) (lClu : L.clu = true := by first | rfl | assumption) (lTasks : L.tasks = true := by first | rfl | assumption) (lSto : L.sto = true := by first | rfl | assumption) (lLdr : L.ldr = true := by first | rfl | assumption) (lCsw : L.csw = true := by first | rfl | assumption) (lFio : L.fio = true := by first | rfl | assumption) (lNet : L.net = true := by first | rfl | assumption) (lCan : L.can = true := by first | rfl | assumption) (lDict : L.dict = true := by first | rfl | assumption) (lHost : L.host = true := by first | rfl | assumption) (lWdg : L.wdg = true := by first | rfl | assumption) (lEvr : L.evr = true := by first | rfl | assumption) (lTrc : L.trc = true := by first | rfl | assumption) (lNvp : L.nvp = true := by first | rfl | assumption) (lFw : L.fw = true := by first | rfl | assumption) (lRtc : L.rtc = true := by first | rfl | assumption) (lPwr : L.pwr = true := by first | rfl | assumption) (lMet : L.met = true := by first | rfl | assumption) (lFree : L.free = true := by first | rfl | assumption) (lRole : L.role = true := by first | rfl | assumption) : Keep L s s₂ := by
  unfold execProgramSwapCmd at hx
  with_reducible refine Keep.commit ?_ hx
  clear hx
  have hK := Keep.refl (L := L) s
  repeat' (first
    | with_reducible assumption
    | with_reducible apply State.reach_keep
    | with_reducible apply State.fabricWrite_keep
    | with_reducible apply Keep.ite
    | split)

theorem execAbandonSwapCmd_keep {s s₂ : State} (m : Master) (hx : execAbandonSwapCmd m s = .next s₂) (lClk : L.clk = true := by first | rfl | assumption) (lClu : L.clu = true := by first | rfl | assumption) (lTasks : L.tasks = true := by first | rfl | assumption) (lSto : L.sto = true := by first | rfl | assumption) (lLdr : L.ldr = true := by first | rfl | assumption) (lCsw : L.csw = true := by first | rfl | assumption) (lFio : L.fio = true := by first | rfl | assumption) (lNet : L.net = true := by first | rfl | assumption) (lCan : L.can = true := by first | rfl | assumption) (lDict : L.dict = true := by first | rfl | assumption) (lHost : L.host = true := by first | rfl | assumption) (lWdg : L.wdg = true := by first | rfl | assumption) (lEvr : L.evr = true := by first | rfl | assumption) (lTrc : L.trc = true := by first | rfl | assumption) (lNvp : L.nvp = true := by first | rfl | assumption) (lFw : L.fw = true := by first | rfl | assumption) (lRtc : L.rtc = true := by first | rfl | assumption) (lPwr : L.pwr = true := by first | rfl | assumption) (lMet : L.met = true := by first | rfl | assumption) (lFree : L.free = true := by first | rfl | assumption) (lRole : L.role = true := by first | rfl | assumption) : Keep L s s₂ := by
  unfold execAbandonSwapCmd at hx
  with_reducible refine Keep.commit ?_ hx
  clear hx
  have hK := Keep.refl (L := L) s
  repeat' (first
    | with_reducible assumption
    | with_reducible apply State.fabricWrite_keep
    | with_reducible apply Keep.ite
    | split)

theorem execGrpAck_keep {s s₂ : State} (m : Master) (mask : Nat) (hx : execGrpAck m mask s = .next s₂) (lClk : L.clk = true := by first | rfl | assumption) (lClu : L.clu = true := by first | rfl | assumption) (lTasks : L.tasks = true := by first | rfl | assumption) (lSto : L.sto = true := by first | rfl | assumption) (lLdr : L.ldr = true := by first | rfl | assumption) (lCsw : L.csw = true := by first | rfl | assumption) (lFio : L.fio = true := by first | rfl | assumption) (lNet : L.net = true := by first | rfl | assumption) (lCan : L.can = true := by first | rfl | assumption) (lDict : L.dict = true := by first | rfl | assumption) (lHost : L.host = true := by first | rfl | assumption) (lWdg : L.wdg = true := by first | rfl | assumption) (lEvr : L.evr = true := by first | rfl | assumption) (lTrc : L.trc = true := by first | rfl | assumption) (lNvp : L.nvp = true := by first | rfl | assumption) (lFw : L.fw = true := by first | rfl | assumption) (lRtc : L.rtc = true := by first | rfl | assumption) (lPwr : L.pwr = true := by first | rfl | assumption) (lMet : L.met = true := by first | rfl | assumption) (lFree : L.free = true := by first | rfl | assumption) (lRole : L.role = true := by first | rfl | assumption) : Keep L s s₂ := by
  unfold execGrpAck at hx
  with_reducible refine Keep.commit ?_ hx
  clear hx
  have hK := Keep.refl (L := L) s
  repeat' (first
    | with_reducible assumption
    | with_reducible apply State.fabricWrite_keep
    | with_reducible apply Keep.ite
    | split)

theorem execCanWindowRead_keep {s s₂ : State} (m : Master) (n : Nat) (i : Nat) (hx : execCanWindowRead m n i s = .next s₂) (lCsw : L.csw = true := by first | rfl | assumption) (lNet : L.net = true := by first | rfl | assumption) (lCan : L.can = true := by first | rfl | assumption) (lHost : L.host = true := by first | rfl | assumption) (lEvr : L.evr = true := by first | rfl | assumption) (lTrc : L.trc = true := by first | rfl | assumption) : Keep L s s₂ := by
  unfold execCanWindowRead at hx
  with_reducible refine Keep.commit ?_ hx
  clear hx
  have hK := Keep.refl (L := L) s
  repeat' (first
    | with_reducible assumption
    | with_reducible apply State.regRead_keep
    | with_reducible apply Keep.ite
    | split)

theorem execCanFifoRead_keep {s s₂ : State} (m : Master) (n : Nat) (i : Nat) (hx : execCanFifoRead m n i s = .next s₂) (lCsw : L.csw = true := by first | rfl | assumption) (lNet : L.net = true := by first | rfl | assumption) (lCan : L.can = true := by first | rfl | assumption) (lHost : L.host = true := by first | rfl | assumption) (lEvr : L.evr = true := by first | rfl | assumption) (lTrc : L.trc = true := by first | rfl | assumption) : Keep L s s₂ := by
  unfold execCanFifoRead at hx
  with_reducible refine Keep.commit ?_ hx
  clear hx
  have hK := Keep.refl (L := L) s
  repeat' (first
    | with_reducible assumption
    | with_reducible apply State.regRead_keep
    | with_reducible apply Keep.ite
    | split)

theorem execCanBufselWrite_keep {s s₂ : State} (m : Master) (n : Nat) (v : Word) (hx : execCanBufselWrite m n v s = .next s₂) (lClk : L.clk = true := by first | rfl | assumption) (lClu : L.clu = true := by first | rfl | assumption) (lTasks : L.tasks = true := by first | rfl | assumption) (lSto : L.sto = true := by first | rfl | assumption) (lLdr : L.ldr = true := by first | rfl | assumption) (lCsw : L.csw = true := by first | rfl | assumption) (lFio : L.fio = true := by first | rfl | assumption) (lNet : L.net = true := by first | rfl | assumption) (lCan : L.can = true := by first | rfl | assumption) (lDict : L.dict = true := by first | rfl | assumption) (lHost : L.host = true := by first | rfl | assumption) (lWdg : L.wdg = true := by first | rfl | assumption) (lEvr : L.evr = true := by first | rfl | assumption) (lTrc : L.trc = true := by first | rfl | assumption) (lNvp : L.nvp = true := by first | rfl | assumption) (lFw : L.fw = true := by first | rfl | assumption) (lRtc : L.rtc = true := by first | rfl | assumption) (lPwr : L.pwr = true := by first | rfl | assumption) (lMet : L.met = true := by first | rfl | assumption) (lFree : L.free = true := by first | rfl | assumption) (lRole : L.role = true := by first | rfl | assumption) : Keep L s s₂ := by
  unfold execCanBufselWrite at hx
  with_reducible refine Keep.commit ?_ hx
  clear hx
  have hK := Keep.refl (L := L) s
  repeat' (first
    | with_reducible assumption
    | with_reducible apply State.fabricWrite_keep
    | with_reducible apply Keep.ite
    | split)

theorem execCanTxreq_keep {s s₂ : State} (m : Master) (n : Nat) (v : Word) (hx : execCanTxreq m n v s = .next s₂) (lClk : L.clk = true := by first | rfl | assumption) (lClu : L.clu = true := by first | rfl | assumption) (lTasks : L.tasks = true := by first | rfl | assumption) (lSto : L.sto = true := by first | rfl | assumption) (lLdr : L.ldr = true := by first | rfl | assumption) (lCsw : L.csw = true := by first | rfl | assumption) (lFio : L.fio = true := by first | rfl | assumption) (lNet : L.net = true := by first | rfl | assumption) (lCan : L.can = true := by first | rfl | assumption) (lDict : L.dict = true := by first | rfl | assumption) (lHost : L.host = true := by first | rfl | assumption) (lWdg : L.wdg = true := by first | rfl | assumption) (lEvr : L.evr = true := by first | rfl | assumption) (lTrc : L.trc = true := by first | rfl | assumption) (lNvp : L.nvp = true := by first | rfl | assumption) (lFw : L.fw = true := by first | rfl | assumption) (lRtc : L.rtc = true := by first | rfl | assumption) (lPwr : L.pwr = true := by first | rfl | assumption) (lMet : L.met = true := by first | rfl | assumption) (lFree : L.free = true := by first | rfl | assumption) (lRole : L.role = true := by first | rfl | assumption) : Keep L s s₂ := by
  unfold execCanTxreq at hx
  with_reducible refine Keep.commit ?_ hx
  clear hx
  have hK := Keep.refl (L := L) s
  repeat' (first
    | with_reducible assumption
    | with_reducible apply State.fabricWrite_keep
    | with_reducible apply Keep.ite
    | split)

theorem execCanTxabort_keep {s s₂ : State} (m : Master) (n : Nat) (v : Word) (hx : execCanTxabort m n v s = .next s₂) (lClk : L.clk = true := by first | rfl | assumption) (lClu : L.clu = true := by first | rfl | assumption) (lTasks : L.tasks = true := by first | rfl | assumption) (lSto : L.sto = true := by first | rfl | assumption) (lLdr : L.ldr = true := by first | rfl | assumption) (lCsw : L.csw = true := by first | rfl | assumption) (lFio : L.fio = true := by first | rfl | assumption) (lNet : L.net = true := by first | rfl | assumption) (lCan : L.can = true := by first | rfl | assumption) (lDict : L.dict = true := by first | rfl | assumption) (lHost : L.host = true := by first | rfl | assumption) (lWdg : L.wdg = true := by first | rfl | assumption) (lEvr : L.evr = true := by first | rfl | assumption) (lTrc : L.trc = true := by first | rfl | assumption) (lNvp : L.nvp = true := by first | rfl | assumption) (lFw : L.fw = true := by first | rfl | assumption) (lRtc : L.rtc = true := by first | rfl | assumption) (lPwr : L.pwr = true := by first | rfl | assumption) (lMet : L.met = true := by first | rfl | assumption) (lFree : L.free = true := by first | rfl | assumption) (lRole : L.role = true := by first | rfl | assumption) : Keep L s s₂ := by
  unfold execCanTxabort at hx
  with_reducible refine Keep.commit ?_ hx
  clear hx
  have hK := Keep.refl (L := L) s
  repeat' (first
    | with_reducible assumption
    | with_reducible apply State.fabricWrite_keep
    | with_reducible apply Keep.ite
    | split)

theorem execCanRecover_keep {s s₂ : State} (m : Master) (n : Nat) (hx : execCanRecover m n s = .next s₂) (lClk : L.clk = true := by first | rfl | assumption) (lClu : L.clu = true := by first | rfl | assumption) (lTasks : L.tasks = true := by first | rfl | assumption) (lSto : L.sto = true := by first | rfl | assumption) (lLdr : L.ldr = true := by first | rfl | assumption) (lCsw : L.csw = true := by first | rfl | assumption) (lFio : L.fio = true := by first | rfl | assumption) (lNet : L.net = true := by first | rfl | assumption) (lCan : L.can = true := by first | rfl | assumption) (lDict : L.dict = true := by first | rfl | assumption) (lHost : L.host = true := by first | rfl | assumption) (lWdg : L.wdg = true := by first | rfl | assumption) (lEvr : L.evr = true := by first | rfl | assumption) (lTrc : L.trc = true := by first | rfl | assumption) (lNvp : L.nvp = true := by first | rfl | assumption) (lFw : L.fw = true := by first | rfl | assumption) (lRtc : L.rtc = true := by first | rfl | assumption) (lPwr : L.pwr = true := by first | rfl | assumption) (lMet : L.met = true := by first | rfl | assumption) (lFree : L.free = true := by first | rfl | assumption) (lRole : L.role = true := by first | rfl | assumption) : Keep L s s₂ := by
  unfold execCanRecover at hx
  with_reducible refine Keep.commit ?_ hx
  clear hx
  have hK := Keep.refl (L := L) s
  repeat' (first
    | with_reducible assumption
    | with_reducible apply State.fabricWrite_keep
    | with_reducible apply Keep.ite
    | split)

theorem execCanInitWrite_keep {s s₂ : State} (m : Master) (n : Nat) (v : Word) (hx : execCanInitWrite m n v s = .next s₂) (lClk : L.clk = true := by first | rfl | assumption) (lClu : L.clu = true := by first | rfl | assumption) (lTasks : L.tasks = true := by first | rfl | assumption) (lSto : L.sto = true := by first | rfl | assumption) (lLdr : L.ldr = true := by first | rfl | assumption) (lCsw : L.csw = true := by first | rfl | assumption) (lFio : L.fio = true := by first | rfl | assumption) (lNet : L.net = true := by first | rfl | assumption) (lCan : L.can = true := by first | rfl | assumption) (lDict : L.dict = true := by first | rfl | assumption) (lHost : L.host = true := by first | rfl | assumption) (lWdg : L.wdg = true := by first | rfl | assumption) (lEvr : L.evr = true := by first | rfl | assumption) (lTrc : L.trc = true := by first | rfl | assumption) (lNvp : L.nvp = true := by first | rfl | assumption) (lFw : L.fw = true := by first | rfl | assumption) (lRtc : L.rtc = true := by first | rfl | assumption) (lPwr : L.pwr = true := by first | rfl | assumption) (lMet : L.met = true := by first | rfl | assumption) (lFree : L.free = true := by first | rfl | assumption) (lRole : L.role = true := by first | rfl | assumption) : Keep L s s₂ := by
  unfold execCanInitWrite at hx
  with_reducible refine Keep.commit ?_ hx
  clear hx
  have hK := Keep.refl (L := L) s
  repeat' (first
    | with_reducible assumption
    | with_reducible apply State.fabricWrite_keep
    | with_reducible apply Keep.ite
    | split)

theorem execOdxGo_keep {s s₂ : State} (m : Master) (t : Nat) (hx : execOdxGo m t s = .next s₂) (lClk : L.clk = true := by first | rfl | assumption) (lClu : L.clu = true := by first | rfl | assumption) (lTasks : L.tasks = true := by first | rfl | assumption) (lSto : L.sto = true := by first | rfl | assumption) (lLdr : L.ldr = true := by first | rfl | assumption) (lCsw : L.csw = true := by first | rfl | assumption) (lFio : L.fio = true := by first | rfl | assumption) (lNet : L.net = true := by first | rfl | assumption) (lCan : L.can = true := by first | rfl | assumption) (lDict : L.dict = true := by first | rfl | assumption) (lHost : L.host = true := by first | rfl | assumption) (lWdg : L.wdg = true := by first | rfl | assumption) (lEvr : L.evr = true := by first | rfl | assumption) (lTrc : L.trc = true := by first | rfl | assumption) (lNvp : L.nvp = true := by first | rfl | assumption) (lFw : L.fw = true := by first | rfl | assumption) (lRtc : L.rtc = true := by first | rfl | assumption) (lPwr : L.pwr = true := by first | rfl | assumption) (lMet : L.met = true := by first | rfl | assumption) (lFree : L.free = true := by first | rfl | assumption) (lRole : L.role = true := by first | rfl | assumption) : Keep L s s₂ := by
  unfold execOdxGo at hx
  with_reducible refine Keep.commit ?_ hx
  clear hx
  have hK := Keep.refl (L := L) s
  repeat' (first
    | with_reducible assumption
    | with_reducible apply State.reach_keep
    | with_reducible apply State.fabricWrite_keep
    | with_reducible apply Keep.ite
    | split)

theorem execOdxAck_keep {s s₂ : State} (m : Master) (hx : execOdxAck m s = .next s₂) (lClk : L.clk = true := by first | rfl | assumption) (lClu : L.clu = true := by first | rfl | assumption) (lTasks : L.tasks = true := by first | rfl | assumption) (lSto : L.sto = true := by first | rfl | assumption) (lLdr : L.ldr = true := by first | rfl | assumption) (lCsw : L.csw = true := by first | rfl | assumption) (lFio : L.fio = true := by first | rfl | assumption) (lNet : L.net = true := by first | rfl | assumption) (lCan : L.can = true := by first | rfl | assumption) (lDict : L.dict = true := by first | rfl | assumption) (lHost : L.host = true := by first | rfl | assumption) (lWdg : L.wdg = true := by first | rfl | assumption) (lEvr : L.evr = true := by first | rfl | assumption) (lTrc : L.trc = true := by first | rfl | assumption) (lNvp : L.nvp = true := by first | rfl | assumption) (lFw : L.fw = true := by first | rfl | assumption) (lRtc : L.rtc = true := by first | rfl | assumption) (lPwr : L.pwr = true := by first | rfl | assumption) (lMet : L.met = true := by first | rfl | assumption) (lFree : L.free = true := by first | rfl | assumption) (lRole : L.role = true := by first | rfl | assumption) : Keep L s s₂ := by
  unfold execOdxAck at hx
  with_reducible refine Keep.commit ?_ hx
  clear hx
  have hK := Keep.refl (L := L) s
  repeat' (first
    | with_reducible assumption
    | with_reducible apply State.fabricWrite_keep
    | with_reducible apply Keep.ite
    | split)

theorem execAnchorCmd_keep {s s₂ : State} (m : Master) (hx : execAnchorCmd m s = .next s₂) (lClk : L.clk = true := by first | rfl | assumption) (lClu : L.clu = true := by first | rfl | assumption) (lTasks : L.tasks = true := by first | rfl | assumption) (lSto : L.sto = true := by first | rfl | assumption) (lLdr : L.ldr = true := by first | rfl | assumption) (lCsw : L.csw = true := by first | rfl | assumption) (lFio : L.fio = true := by first | rfl | assumption) (lNet : L.net = true := by first | rfl | assumption) (lCan : L.can = true := by first | rfl | assumption) (lDict : L.dict = true := by first | rfl | assumption) (lHost : L.host = true := by first | rfl | assumption) (lWdg : L.wdg = true := by first | rfl | assumption) (lEvr : L.evr = true := by first | rfl | assumption) (lTrc : L.trc = true := by first | rfl | assumption) (lNvp : L.nvp = true := by first | rfl | assumption) (lFw : L.fw = true := by first | rfl | assumption) (lRtc : L.rtc = true := by first | rfl | assumption) (lPwr : L.pwr = true := by first | rfl | assumption) (lMet : L.met = true := by first | rfl | assumption) (lFree : L.free = true := by first | rfl | assumption) (lRole : L.role = true := by first | rfl | assumption) : Keep L s s₂ := by
  unfold execAnchorCmd at hx
  with_reducible refine Keep.commit ?_ hx
  clear hx
  have hK := Keep.refl (L := L) s
  repeat' (first
    | with_reducible assumption
    | with_reducible apply State.fabricWrite_keep
    | with_reducible apply Keep.ite
    | split)

theorem execFreeze_keep {s s₂ : State} (m : Master) (hx : execFreeze m s = .next s₂) (lClk : L.clk = true := by first | rfl | assumption) (lClu : L.clu = true := by first | rfl | assumption) (lTasks : L.tasks = true := by first | rfl | assumption) (lSto : L.sto = true := by first | rfl | assumption) (lLdr : L.ldr = true := by first | rfl | assumption) (lCsw : L.csw = true := by first | rfl | assumption) (lFio : L.fio = true := by first | rfl | assumption) (lNet : L.net = true := by first | rfl | assumption) (lCan : L.can = true := by first | rfl | assumption) (lDict : L.dict = true := by first | rfl | assumption) (lHost : L.host = true := by first | rfl | assumption) (lWdg : L.wdg = true := by first | rfl | assumption) (lEvr : L.evr = true := by first | rfl | assumption) (lTrc : L.trc = true := by first | rfl | assumption) (lNvp : L.nvp = true := by first | rfl | assumption) (lFw : L.fw = true := by first | rfl | assumption) (lRtc : L.rtc = true := by first | rfl | assumption) (lPwr : L.pwr = true := by first | rfl | assumption) (lMet : L.met = true := by first | rfl | assumption) (lFree : L.free = true := by first | rfl | assumption) (lRole : L.role = true := by first | rfl | assumption) : Keep L s s₂ := by
  unfold execFreeze at hx
  with_reducible refine Keep.commit ?_ hx
  clear hx
  have hK := Keep.refl (L := L) s
  repeat' (first
    | with_reducible assumption
    | with_reducible apply State.fabricWrite_keep
    | with_reducible apply Keep.ite
    | split)

theorem execUnfreeze_keep {s s₂ : State} (m : Master) (hx : execUnfreeze m s = .next s₂) (lClk : L.clk = true := by first | rfl | assumption) (lClu : L.clu = true := by first | rfl | assumption) (lTasks : L.tasks = true := by first | rfl | assumption) (lSto : L.sto = true := by first | rfl | assumption) (lLdr : L.ldr = true := by first | rfl | assumption) (lCsw : L.csw = true := by first | rfl | assumption) (lFio : L.fio = true := by first | rfl | assumption) (lNet : L.net = true := by first | rfl | assumption) (lCan : L.can = true := by first | rfl | assumption) (lDict : L.dict = true := by first | rfl | assumption) (lHost : L.host = true := by first | rfl | assumption) (lWdg : L.wdg = true := by first | rfl | assumption) (lEvr : L.evr = true := by first | rfl | assumption) (lTrc : L.trc = true := by first | rfl | assumption) (lNvp : L.nvp = true := by first | rfl | assumption) (lFw : L.fw = true := by first | rfl | assumption) (lRtc : L.rtc = true := by first | rfl | assumption) (lPwr : L.pwr = true := by first | rfl | assumption) (lMet : L.met = true := by first | rfl | assumption) (lFree : L.free = true := by first | rfl | assumption) (lRole : L.role = true := by first | rfl | assumption) : Keep L s s₂ := by
  unfold execUnfreeze at hx
  with_reducible refine Keep.commit ?_ hx
  clear hx
  have hK := Keep.refl (L := L) s
  repeat' (first
    | with_reducible assumption
    | with_reducible apply State.fabricWrite_keep
    | with_reducible apply Keep.ite
    | split)

theorem execMetRecordRead_keep {s s₂ : State} (m : Master) (off : Nat) (hx : execMetRecordRead m off s = .next s₂) (lCsw : L.csw = true := by first | rfl | assumption) (lNet : L.net = true := by first | rfl | assumption) (lCan : L.can = true := by first | rfl | assumption) (lHost : L.host = true := by first | rfl | assumption) (lEvr : L.evr = true := by first | rfl | assumption) (lTrc : L.trc = true := by first | rfl | assumption) : Keep L s s₂ := by
  unfold execMetRecordRead at hx
  with_reducible refine Keep.commit ?_ hx
  clear hx
  have hK := Keep.refl (L := L) s
  repeat' (first
    | with_reducible assumption
    | with_reducible apply State.regRead_keep
    | with_reducible apply Keep.ite
    | split)

end Sys2Proof.Machine
end

