-- ==== Sys2Proof/Laws/KeepStartUp.lean ====
section
/-! SUPPORT. What each operation of Machine/StartUp.lean keeps (Laws/Keep.lean). -/

set_option Elab.async false
set_option linter.all false

namespace Sys2Proof.Machine

open Sys2Proof

set_option linter.unusedVariables false
set_option linter.tactic.unusedName false

variable {L : Parts}

theorem State.startAo_keep {o₀ s : State} (hK : Keep L o₀ s) (env : StartEnv) (lClk : L.clk = true := by first | rfl | assumption) (lClu : L.clu = true := by first | rfl | assumption) (lTasks : L.tasks = true := by first | rfl | assumption) (lSto : L.sto = true := by first | rfl | assumption) (lLdr : L.ldr = true := by first | rfl | assumption) (lCsw : L.csw = true := by first | rfl | assumption) (lFio : L.fio = true := by first | rfl | assumption) (lNet : L.net = true := by first | rfl | assumption) (lCan : L.can = true := by first | rfl | assumption) (lDict : L.dict = true := by first | rfl | assumption) (lHost : L.host = true := by first | rfl | assumption) (lWdg : L.wdg = true := by first | rfl | assumption) (lEvr : L.evr = true := by first | rfl | assumption) (lTrc : L.trc = true := by first | rfl | assumption) (lNvp : L.nvp = true := by first | rfl | assumption) (lFw : L.fw = true := by first | rfl | assumption) (lRtc : L.rtc = true := by first | rfl | assumption) (lPwr : L.pwr = true := by first | rfl | assumption) (lMet : L.met = true := by first | rfl | assumption) (lFree : L.free = true := by first | rfl | assumption) : Keep L o₀ (State.startAo s env) := by
  unfold State.startAo
  repeat' (first
    | with_reducible assumption
    | with_reducible apply State.wake_keep
    | with_reducible apply State.retained_keep
    | with_reducible apply State.deviceReset_keep
    | with_reducible apply State.powerCause_keep
    | with_reducible apply State.canCause_keep
    | with_reducible apply Keep.upClk
    | with_reducible apply Keep.upRtc
    | with_reducible apply Keep.upPwr
    | with_reducible apply Keep.ite
    | (extract_lets +onlyGivenNames y; (first | ((have hy : Keep L o₀ y := (by unfold y; repeat' (first | with_reducible assumption | with_reducible apply State.wake_keep | with_reducible apply State.retained_keep | with_reducible apply State.deviceReset_keep | with_reducible apply State.powerCause_keep | with_reducible apply State.canCause_keep | with_reducible apply Keep.upClk | with_reducible apply Keep.upRtc | with_reducible apply Keep.upPwr | with_reducible apply Keep.ite | extract_lets | split))); clear_value y) | clear_value y | skip))
    | split)

theorem State.restoreDefaults_keep {o₀ s : State} (hK : Keep L o₀ s) (lDict : L.dict = true := by first | rfl | assumption) : Keep L o₀ (State.restoreDefaults s) := by
  unfold State.restoreDefaults
  repeat' (first
    | with_reducible assumption
    | with_reducible refine Keep.upDict ?_ ?_
    | exact Eq.refl _
    | with_reducible apply Keep.ite
    | split)

theorem State.emptyRecord_keep {o₀ s : State} (hK : Keep L o₀ s) (r : Nat) (lDict : L.dict = true := by first | rfl | assumption) (lEvr : L.evr = true := by first | rfl | assumption) : Keep L o₀ (State.emptyRecord s r) := by
  unfold State.emptyRecord
  repeat' (first
    | with_reducible assumption
    | with_reducible apply State.occurSev_keep
    | with_reducible refine Keep.upDict ?_ ?_
    | exact Eq.refl _
    | with_reducible apply Keep.ite
    | (extract_lets +onlyGivenNames y; (first | ((have hy : Keep L o₀ y := (by unfold y; repeat' (first | with_reducible assumption | with_reducible apply State.occurSev_keep | with_reducible refine Keep.upDict ?_ ?_ | exact Eq.refl _ | with_reducible apply Keep.ite | extract_lets | split))); clear_value y) | clear_value y | skip))
    | split)

theorem State.loadStored_keep {o₀ s : State} (hK : Keep L o₀ s) (lDict : L.dict = true := by first | rfl | assumption) (lHost : L.host = true := by first | rfl | assumption) (lEvr : L.evr = true := by first | rfl | assumption) (lNvp : L.nvp = true := by first | rfl | assumption) (lPwr : L.pwr = true := by first | rfl | assumption) (lRole : L.role = true := by first | rfl | assumption) : Keep L o₀ (State.loadStored s) := by
  unfold State.loadStored
  repeat' (first
    | with_reducible assumption
    | with_reducible apply State.restoreDefaults_keep
    | with_reducible apply State.emptyRecord_keep
    | with_reducible apply Keep.upNvp
    | with_reducible apply Keep.upPwr
    | with_reducible refine Keep.upDict ?_ ?_
    | with_reducible refine Keep.upHost ?_ (fun xk => ?_)
    | exact Eq.refl _
    | exact xk
    | with_reducible refine Keep.foldl (fun _ _ _ => ?_) _ ?_
    | with_reducible refine Keep.foldl1 (fun _ _ _ _ => ?_) _ ?_
    | with_reducible refine Keep.foldl2 (fun _ _ _ _ => ?_) _ ?_
    | with_reducible apply Keep.ite
    | (extract_lets +onlyGivenNames y; (first | ((have hy : Keep L o₀ y := (by unfold y; repeat' (first | with_reducible assumption | with_reducible apply State.restoreDefaults_keep | with_reducible apply State.emptyRecord_keep | with_reducible apply Keep.upNvp | with_reducible apply Keep.upPwr | with_reducible refine Keep.upDict ?_ ?_ | with_reducible refine Keep.upHost ?_ (fun xk => ?_) | exact Eq.refl _ | exact xk | with_reducible refine Keep.foldl (fun _ _ _ => ?_) _ ?_ | with_reducible refine Keep.foldl1 (fun _ _ _ _ => ?_) _ ?_ | with_reducible refine Keep.foldl2 (fun _ _ _ _ => ?_) _ ?_ | with_reducible apply Keep.ite | extract_lets | split))); clear_value y) | ((have hy : Keep L o₀ y.1 := (by unfold y; repeat' (first | with_reducible assumption | with_reducible apply State.restoreDefaults_keep | with_reducible apply State.emptyRecord_keep | with_reducible apply Keep.upNvp | with_reducible apply Keep.upPwr | with_reducible refine Keep.upDict ?_ ?_ | with_reducible refine Keep.upHost ?_ (fun xk => ?_) | exact Eq.refl _ | exact xk | with_reducible refine Keep.foldl (fun _ _ _ => ?_) _ ?_ | with_reducible refine Keep.foldl1 (fun _ _ _ _ => ?_) _ ?_ | with_reducible refine Keep.foldl2 (fun _ _ _ _ => ?_) _ ?_ | with_reducible apply Keep.ite | extract_lets | split))); clear_value y) | ((have hy : Keep L o₀ y.2 := (by unfold y; repeat' (first | with_reducible assumption | with_reducible apply State.restoreDefaults_keep | with_reducible apply State.emptyRecord_keep | with_reducible apply Keep.upNvp | with_reducible apply Keep.upPwr | with_reducible refine Keep.upDict ?_ ?_ | with_reducible refine Keep.upHost ?_ (fun xk => ?_) | exact Eq.refl _ | exact xk | with_reducible refine Keep.foldl (fun _ _ _ => ?_) _ ?_ | with_reducible refine Keep.foldl1 (fun _ _ _ _ => ?_) _ ?_ | with_reducible refine Keep.foldl2 (fun _ _ _ _ => ?_) _ ?_ | with_reducible apply Keep.ite | extract_lets | split))); clear_value y) | clear_value y | skip))
    | split)

theorem State.startReads_keep {o₀ s : State} (hK : Keep L o₀ s) (l : List Ecc) (lHost : L.host = true := by first | rfl | assumption) (lEvr : L.evr = true := by first | rfl | assumption) (lNvp : L.nvp = true := by first | rfl | assumption) : Keep L o₀ (State.startReads s l) := by
  unfold State.startReads
  repeat' (first
    | with_reducible assumption
    | with_reducible apply State.upMregs_keep
    | with_reducible apply State.uncorrectable_keep
    | with_reducible apply State.takeEcc_keep
    | with_reducible refine Keep.foldl (fun _ _ _ => ?_) _ ?_
    | with_reducible refine Keep.foldl1 (fun _ _ _ _ => ?_) _ ?_
    | with_reducible refine Keep.foldl2 (fun _ _ _ _ => ?_) _ ?_
    | with_reducible apply Keep.ite
    | split)

theorem State.startNvp_keep {o₀ s : State} (hK : Keep L o₀ s) (ecc : List Ecc) (lHost : L.host = true := by first | rfl | assumption) (lEvr : L.evr = true := by first | rfl | assumption) (lNvp : L.nvp = true := by first | rfl | assumption) : Keep L o₀ (State.startNvp s ecc) := by
  unfold State.startNvp
  repeat' (first
    | with_reducible assumption
    | with_reducible apply State.startReads_keep
    | with_reducible apply State.torn_keep
    | with_reducible apply State.pageUncorr_keep
    | with_reducible apply Keep.upNvp
    | with_reducible refine Keep.foldl (fun _ _ _ => ?_) _ ?_
    | with_reducible refine Keep.foldl1 (fun _ _ _ _ => ?_) _ ?_
    | with_reducible refine Keep.foldl2 (fun _ _ _ _ => ?_) _ ?_
    | with_reducible apply Keep.ite
    | (extract_lets +onlyGivenNames y; (first | ((have hy : Keep L o₀ y := (by unfold y; repeat' (first | with_reducible assumption | with_reducible apply State.startReads_keep | with_reducible apply State.torn_keep | with_reducible apply State.pageUncorr_keep | with_reducible apply Keep.upNvp | with_reducible refine Keep.foldl (fun _ _ _ => ?_) _ ?_ | with_reducible refine Keep.foldl1 (fun _ _ _ _ => ?_) _ ?_ | with_reducible refine Keep.foldl2 (fun _ _ _ _ => ?_) _ ?_ | with_reducible apply Keep.ite | extract_lets | split))); clear_value y) | ((have hy : Keep L o₀ y.1 := (by unfold y; repeat' (first | with_reducible assumption | with_reducible apply State.startReads_keep | with_reducible apply State.torn_keep | with_reducible apply State.pageUncorr_keep | with_reducible apply Keep.upNvp | with_reducible refine Keep.foldl (fun _ _ _ => ?_) _ ?_ | with_reducible refine Keep.foldl1 (fun _ _ _ _ => ?_) _ ?_ | with_reducible refine Keep.foldl2 (fun _ _ _ _ => ?_) _ ?_ | with_reducible apply Keep.ite | extract_lets | split))); clear_value y) | ((have hy : Keep L o₀ y.2 := (by unfold y; repeat' (first | with_reducible assumption | with_reducible apply State.startReads_keep | with_reducible apply State.torn_keep | with_reducible apply State.pageUncorr_keep | with_reducible apply Keep.upNvp | with_reducible refine Keep.foldl (fun _ _ _ => ?_) _ ?_ | with_reducible refine Keep.foldl1 (fun _ _ _ _ => ?_) _ ?_ | with_reducible refine Keep.foldl2 (fun _ _ _ _ => ?_) _ ?_ | with_reducible apply Keep.ite | extract_lets | split))); clear_value y) | clear_value y | skip))
    | split)

theorem State.startEvr_keep {o₀ s : State} (hK : Keep L o₀ s) (corrupt : List Nat) (lHost : L.host = true := by first | rfl | assumption) (lEvr : L.evr = true := by first | rfl | assumption) : Keep L o₀ (State.startEvr s corrupt) := by
  unfold State.startEvr
  repeat' (first
    | with_reducible assumption
    | with_reducible refine Keep.upHost ?_ (fun xk => ?_)
    | with_reducible refine Keep.upEvr ?_ (fun xk => ?_)
    | exact xk
    | with_reducible apply Keep.ite
    | (extract_lets +onlyGivenNames y; (first | ((have hy : Keep L o₀ y := (by unfold y; repeat' (first | with_reducible assumption | with_reducible refine Keep.upHost ?_ (fun xk => ?_) | with_reducible refine Keep.upEvr ?_ (fun xk => ?_) | exact xk | with_reducible apply Keep.ite | extract_lets | split))); clear_value y) | clear_value y | skip))
    | split)

theorem State.indexReads_keep {o₀ s : State} (hK : Keep L o₀ s) (l : List Ecc) (lSto : L.sto = true := by first | rfl | assumption) (lHost : L.host = true := by first | rfl | assumption) (lEvr : L.evr = true := by first | rfl | assumption) : Keep L o₀ (State.indexReads s l) := by
  unfold State.indexReads
  repeat' (first
    | with_reducible assumption
    | with_reducible apply State.uncorrectable_keep
    | with_reducible apply State.corrected_keep
    | with_reducible refine Keep.foldl (fun _ _ _ => ?_) _ ?_
    | with_reducible refine Keep.foldl1 (fun _ _ _ _ => ?_) _ ?_
    | with_reducible refine Keep.foldl2 (fun _ _ _ _ => ?_) _ ?_
    | with_reducible apply Keep.ite
    | split)

theorem State.startSup_keep {o₀ s : State} (hK : Keep L o₀ s) (env : StartEnv) (lSto : L.sto = true := by first | rfl | assumption) (lDict : L.dict = true := by first | rfl | assumption) (lHost : L.host = true := by first | rfl | assumption) (lEvr : L.evr = true := by first | rfl | assumption) (lNvp : L.nvp = true := by first | rfl | assumption) (lFw : L.fw = true := by first | rfl | assumption) (lPwr : L.pwr = true := by first | rfl | assumption) (lRole : L.role = true := by first | rfl | assumption) : Keep L o₀ (State.startSup s env) := by
  unfold State.startSup
  repeat' (first
    | with_reducible assumption
    | with_reducible apply State.occur_keep
    | with_reducible apply State.loadStored_keep
    | with_reducible apply State.indexReads_keep
    | with_reducible apply State.startEvr_keep
    | with_reducible apply State.startNvp_keep
    | with_reducible apply Keep.upFw
    | with_reducible refine Keep.upDict ?_ ?_
    | with_reducible refine Keep.upHost ?_ (fun xk => ?_)
    | exact Eq.refl _
    | exact xk
    | with_reducible apply Keep.ite
    | (extract_lets +onlyGivenNames y; (first | ((have hy : Keep L o₀ y := (by unfold y; repeat' (first | with_reducible assumption | with_reducible apply State.occur_keep | with_reducible apply State.loadStored_keep | with_reducible apply State.indexReads_keep | with_reducible apply State.startEvr_keep | with_reducible apply State.startNvp_keep | with_reducible apply Keep.upFw | with_reducible refine Keep.upDict ?_ ?_ | with_reducible refine Keep.upHost ?_ (fun xk => ?_) | exact Eq.refl _ | exact xk | with_reducible apply Keep.ite | extract_lets | split))); clear_value y) | clear_value y | skip))
    | split)

theorem State.dropEntry_keep {o₀ s : State} (hK : Keep L o₀ s) (i : Nat) (sub : Nat) (lDict : L.dict = true := by first | rfl | assumption) : Keep L o₀ (State.dropEntry s i sub) := by
  unfold State.dropEntry
  repeat' (first
    | with_reducible assumption
    | with_reducible refine Keep.upDict ?_ ?_
    | exact Eq.refl _
    | with_reducible apply Keep.ite
    | split)

theorem State.noMilestone_keep {o₀ s : State} (hK : Keep L o₀ s) (lSto : L.sto = true := by first | rfl | assumption) (lCsw : L.csw = true := by first | rfl | assumption) : Keep L o₀ (State.noMilestone s) := by
  unfold State.noMilestone
  repeat' (first
    | with_reducible assumption
    | with_reducible apply Keep.upCsw
    | with_reducible refine Keep.upSto ?_ (fun xk => ?_)
    | with_reducible exact xk
    | (with_reducible refine Store.wf.mk ?_ ?_ ?_ ?_ ?_ <;> try dsimp only)
    | with_reducible exact xk.program
    | with_reducible exact xk.lmem
    | with_reducible exact xk.durable
    | with_reducible exact xk.inView
    | with_reducible exact xk.launched
    | with_reducible apply memPut_wf
    | with_reducible apply ov_apply_wf
    | with_reducible apply memWrite_wf
    | with_reducible apply memClear_wf
    | with_reducible apply memRange_wf
    | with_reducible apply mem_nil_wf
    | with_reducible apply memOf_wf
    | with_reducible apply Keep.ite
    | split)

theorem State.installPending_keep {o₀ s : State} (hK : Keep L o₀ s) (lSto : L.sto = true := by first | rfl | assumption) (lLdr : L.ldr = true := by first | rfl | assumption) (lDict : L.dict = true := by first | rfl | assumption) (lEvr : L.evr = true := by first | rfl | assumption) (lTrc : L.trc = true := by first | rfl | assumption) : Keep L o₀ (State.installPending s).1 := by
  unfold State.installPending
  repeat' (first
    | with_reducible assumption
    | with_reducible apply State.placeImage_keep
    | with_reducible apply State.recap_keep
    | with_reducible refine Keep.upLdr ?_ (fun xk => ?_)
    | exact xk
    | exact mem_nil_wf
    | with_reducible apply Keep.ite2
    | with_reducible apply Keep.ite1
    | with_reducible apply Keep.ite
    | split)

theorem State.installCut_keep {o₀ s : State} (hK : Keep L o₀ s) (lSto : L.sto = true := by first | rfl | assumption) (lLdr : L.ldr = true := by first | rfl | assumption) : Keep L o₀ (State.installCut s) := by
  unfold State.installCut
  repeat' (first
    | with_reducible assumption
    | with_reducible refine Keep.upSto ?_ (fun xk => ?_)
    | with_reducible refine Keep.upLdr ?_ (fun xk => ?_)
    | with_reducible exact xk
    | (with_reducible refine Store.wf.mk ?_ ?_ ?_ ?_ ?_ <;> try dsimp only)
    | with_reducible exact xk.program
    | with_reducible exact xk.lmem
    | with_reducible exact xk.durable
    | with_reducible exact xk.inView
    | with_reducible exact xk.launched
    | with_reducible apply memPut_wf
    | with_reducible apply ov_apply_wf
    | with_reducible apply memWrite_wf
    | with_reducible apply memClear_wf
    | with_reducible apply memRange_wf
    | with_reducible apply mem_nil_wf
    | with_reducible apply memOf_wf
    | exact xk
    | exact mem_nil_wf
    | with_reducible apply Keep.ite
    | split)

theorem State.coldStore_keep {o s : State} (hK : Keep L o s) (i : Image) (lSto : L.sto = true := by first | rfl | assumption) (lCsw : L.csw = true := by first | rfl | assumption) (lDict : L.dict = true := by first | rfl | assumption) : Keep L o (State.coldStore s i) := by
  unfold State.coldStore
  extract_lets u v
  have hu : Keep L o u := hK.upSto (fun xk => ⟨xk.1, initMem_wf i, initMem_wf i, xk.4, xk.5⟩)
  have hv : Keep L o v := State.dropEntry_keep hu _ _
  clear_value v
  exact Keep.ite (State.dropEntry_keep (hv.upCsw _) _ _) hv

theorem nonRetain_wf {i m : Mem} (r : Nat × Nat) (h : m.wf = true) : (nonRetain i m r).wf = true := by
  unfold nonRetain
  split
  · exact memPut_wf _ _ (memClear_wf _ _ h)
  · exact h

theorem State.warmStore_keep {o s : State} (hK : Keep L o s) (i : Image) (ranges : List (Nat × Nat)) (m : Milestone) (lTasks : L.tasks = true := by first | rfl | assumption) (lSto : L.sto = true := by first | rfl | assumption) (lCsw : L.csw = true := by first | rfl | assumption) (lFio : L.fio = true := by first | rfl | assumption) :
    Keep L o (State.warmStore s i ranges m) := by
  unfold State.warmStore
  extract_lets u
  have hu : Keep L o u := hK.upSto (fun xk =>
    ⟨xk.1, foldl_wf _ (fun _ _ h => nonRetain_wf _ h) _ xk.2, foldl_wf _ (fun _ _ h => nonRetain_wf _ h) _ xk.3, xk.4, xk.5⟩)
  clear_value u
  exact Keep.upTasks (State.applyWords_keep hu _ _) _

theorem State.noImage_keep {o₀ s : State} (hK : Keep L o₀ s) (lSto : L.sto = true := by first | rfl | assumption) (lLdr : L.ldr = true := by first | rfl | assumption) : Keep L o₀ (State.noImage s) := by
  unfold State.noImage
  repeat' (first
    | with_reducible assumption
    | with_reducible refine Keep.upSto ?_ (fun xk => ?_)
    | with_reducible refine Keep.upLdr ?_ (fun xk => ?_)
    | with_reducible exact xk
    | (with_reducible refine Store.wf.mk ?_ ?_ ?_ ?_ ?_ <;> try dsimp only)
    | with_reducible exact xk.program
    | with_reducible exact xk.lmem
    | with_reducible exact xk.durable
    | with_reducible exact xk.inView
    | with_reducible exact xk.launched
    | with_reducible apply memPut_wf
    | with_reducible apply ov_apply_wf
    | with_reducible apply memWrite_wf
    | with_reducible apply memClear_wf
    | with_reducible apply memRange_wf
    | with_reducible apply mem_nil_wf
    | with_reducible apply memOf_wf
    | exact xk
    | exact mem_nil_wf
    | with_reducible apply Keep.ite
    | split)

theorem State.startStores_keep {o₀ s : State} (hK : Keep L o₀ s) (env : StartEnv) (lClk : L.clk = true := by first | rfl | assumption) (lClu : L.clu = true := by first | rfl | assumption) (lTasks : L.tasks = true := by first | rfl | assumption) (lSto : L.sto = true := by first | rfl | assumption) (lLdr : L.ldr = true := by first | rfl | assumption) (lCsw : L.csw = true := by first | rfl | assumption) (lFio : L.fio = true := by first | rfl | assumption) (lDict : L.dict = true := by first | rfl | assumption) (lEvr : L.evr = true := by first | rfl | assumption) (lTrc : L.trc = true := by first | rfl | assumption) : Keep L o₀ (State.startStores s env) := by
  unfold State.startStores
  repeat' (first
    | with_reducible assumption
    | with_reducible apply State.installPending_keep
    | with_reducible apply State.noImage_keep
    | with_reducible apply State.coldStore_keep
    | with_reducible apply State.warmStore_keep
    | with_reducible apply Keep.upClk
    | with_reducible apply Keep.upClu
    | with_reducible apply Keep.ite
    | with_reducible refine Keep.of_eq1 ?_ (by assumption)
    | with_reducible refine Keep.of_eq2 ?_ (by assumption)
    | (extract_lets +onlyGivenNames y; (first | ((have hy : Keep L o₀ y := (by unfold y; repeat' (first | with_reducible assumption | with_reducible apply State.installPending_keep | with_reducible apply State.noImage_keep | with_reducible apply State.coldStore_keep | with_reducible apply State.warmStore_keep | with_reducible apply Keep.upClk | with_reducible apply Keep.upClu | with_reducible apply Keep.ite | with_reducible refine Keep.of_eq1 ?_ (by assumption) | with_reducible refine Keep.of_eq2 ?_ (by assumption) | extract_lets | split))); clear_value y) | ((have hy : Keep L o₀ y.1 := (by unfold y; repeat' (first | with_reducible assumption | with_reducible apply State.installPending_keep | with_reducible apply State.noImage_keep | with_reducible apply State.coldStore_keep | with_reducible apply State.warmStore_keep | with_reducible apply Keep.upClk | with_reducible apply Keep.upClu | with_reducible apply Keep.ite | with_reducible refine Keep.of_eq1 ?_ (by assumption) | with_reducible refine Keep.of_eq2 ?_ (by assumption) | extract_lets | split))); clear_value y) | ((have hy : Keep L o₀ y.2 := (by unfold y; repeat' (first | with_reducible assumption | with_reducible apply State.installPending_keep | with_reducible apply State.noImage_keep | with_reducible apply State.coldStore_keep | with_reducible apply State.warmStore_keep | with_reducible apply Keep.upClk | with_reducible apply Keep.upClu | with_reducible apply Keep.ite | with_reducible refine Keep.of_eq1 ?_ (by assumption) | with_reducible refine Keep.of_eq2 ?_ (by assumption) | extract_lets | split))); clear_value y) | clear_value y | skip))
    | split)

theorem State.loadClk_keep {o₀ s : State} (hK : Keep L o₀ s) (t1Lost : Bool) (lClk : L.clk = true := by first | rfl | assumption) (lEvr : L.evr = true := by first | rfl | assumption) : Keep L o₀ (State.loadClk s t1Lost) := by
  unfold State.loadClk
  repeat' (first
    | with_reducible assumption
    | with_reducible apply State.occur_keep
    | with_reducible apply Keep.upClk
    | with_reducible apply Keep.ite
    | (extract_lets +onlyGivenNames y; (first | ((have hy : Keep L o₀ y := (by unfold y; repeat' (first | with_reducible assumption | with_reducible apply State.occur_keep | with_reducible apply Keep.upClk | with_reducible apply Keep.ite | extract_lets | split))); clear_value y) | clear_value y | skip))
    | split)

theorem State.loadFio_keep {o₀ s : State} (hK : Keep L o₀ s) (lFio : L.fio = true := by first | rfl | assumption) : Keep L o₀ (State.loadFio s) := by
  unfold State.loadFio
  repeat' (first
    | with_reducible assumption
    | with_reducible apply Keep.upFio
    | with_reducible apply Keep.ite
    | (extract_lets +onlyGivenNames y; (first | ((have hy : Keep L o₀ y := (by unfold y; repeat' (first | with_reducible assumption | with_reducible apply Keep.upFio | with_reducible apply Keep.ite | extract_lets | split))); clear_value y) | clear_value y | skip))
    | split)

theorem State.checkGates_keep {o₀ s : State} (hK : Keep L o₀ s) (n : Nat) (lCan : L.can = true := by first | rfl | assumption) (lEvr : L.evr = true := by first | rfl | assumption) : Keep L o₀ (State.checkGates s n) := by
  unfold State.checkGates
  repeat' (first
    | with_reducible assumption
    | with_reducible apply State.upCanPort_keep
    | with_reducible apply State.canCause_keep
    | with_reducible apply Keep.ite
    | (extract_lets +onlyGivenNames y; (first | ((have hy : Keep L o₀ y := (by unfold y; repeat' (first | with_reducible assumption | with_reducible apply State.upCanPort_keep | with_reducible apply State.canCause_keep | with_reducible apply Keep.ite | extract_lets | split))); clear_value y) | clear_value y | skip))
    | split)

theorem State.checkBlock_keep {o₀ s : State} (hK : Keep L o₀ s) (n : Nat) (b : Nat) (lCan : L.can = true := by first | rfl | assumption) (lEvr : L.evr = true := by first | rfl | assumption) : Keep L o₀ (State.checkBlock s n b) := by
  unfold State.checkBlock
  repeat' (first
    | with_reducible assumption
    | with_reducible apply State.upBuf_keep
    | with_reducible apply State.canCause_keep
    | with_reducible apply Keep.ite
    | (extract_lets +onlyGivenNames y; (first | ((have hy : Keep L o₀ y := (by unfold y; repeat' (first | with_reducible assumption | with_reducible apply State.upBuf_keep | with_reducible apply State.canCause_keep | with_reducible apply Keep.ite | extract_lets | split))); clear_value y) | clear_value y | skip))
    | split)

theorem State.loadCan_keep {o₀ s : State} (hK : Keep L o₀ s) (lCan : L.can = true := by first | rfl | assumption) (lEvr : L.evr = true := by first | rfl | assumption) : Keep L o₀ (State.loadCan s) := by
  unfold State.loadCan
  repeat' (first
    | with_reducible assumption
    | with_reducible apply State.checkGates_keep
    | with_reducible apply State.checkBlock_keep
    | with_reducible apply Keep.upCan
    | with_reducible refine Keep.foldl (fun _ _ _ => ?_) _ ?_
    | with_reducible refine Keep.foldl1 (fun _ _ _ _ => ?_) _ ?_
    | with_reducible refine Keep.foldl2 (fun _ _ _ _ => ?_) _ ?_
    | with_reducible apply Keep.ite
    | (extract_lets +onlyGivenNames y; (first | ((have hy : Keep L o₀ y := (by unfold y; repeat' (first | with_reducible assumption | with_reducible apply State.checkGates_keep | with_reducible apply State.checkBlock_keep | with_reducible apply Keep.upCan | with_reducible refine Keep.foldl (fun _ _ _ => ?_) _ ?_ | with_reducible refine Keep.foldl1 (fun _ _ _ _ => ?_) _ ?_ | with_reducible refine Keep.foldl2 (fun _ _ _ _ => ?_) _ ?_ | with_reducible apply Keep.ite | extract_lets | split))); clear_value y) | ((have hy : Keep L o₀ y.1 := (by unfold y; repeat' (first | with_reducible assumption | with_reducible apply State.checkGates_keep | with_reducible apply State.checkBlock_keep | with_reducible apply Keep.upCan | with_reducible refine Keep.foldl (fun _ _ _ => ?_) _ ?_ | with_reducible refine Keep.foldl1 (fun _ _ _ _ => ?_) _ ?_ | with_reducible refine Keep.foldl2 (fun _ _ _ _ => ?_) _ ?_ | with_reducible apply Keep.ite | extract_lets | split))); clear_value y) | ((have hy : Keep L o₀ y.2 := (by unfold y; repeat' (first | with_reducible assumption | with_reducible apply State.checkGates_keep | with_reducible apply State.checkBlock_keep | with_reducible apply Keep.upCan | with_reducible refine Keep.foldl (fun _ _ _ => ?_) _ ?_ | with_reducible refine Keep.foldl1 (fun _ _ _ _ => ?_) _ ?_ | with_reducible refine Keep.foldl2 (fun _ _ _ _ => ?_) _ ?_ | with_reducible apply Keep.ite | extract_lets | split))); clear_value y) | clear_value y | skip))
    | split)

theorem State.loadAo_keep {o₀ s : State} (hK : Keep L o₀ s) (lNvp : L.nvp = true := by first | rfl | assumption) (lRtc : L.rtc = true := by first | rfl | assumption) : Keep L o₀ (State.loadAo s) := by
  unfold State.loadAo
  repeat' (first
    | with_reducible assumption
    | with_reducible apply State.setTrim_keep
    | with_reducible apply State.setInterval_keep
    | with_reducible apply Keep.upNvp
    | with_reducible apply Keep.upRtc
    | with_reducible apply Keep.ite
    | (extract_lets +onlyGivenNames y; (first | ((have hy : Keep L o₀ y := (by unfold y; repeat' (first | with_reducible assumption | with_reducible apply State.setTrim_keep | with_reducible apply State.setInterval_keep | with_reducible apply Keep.upNvp | with_reducible apply Keep.upRtc | with_reducible apply Keep.ite | extract_lets | split))); clear_value y) | clear_value y | skip))
    | split)

theorem State.loadWay_keep {o₀ s : State} (hK : Keep L o₀ s) (lWdg : L.wdg = true := by first | rfl | assumption) (lEvr : L.evr = true := by first | rfl | assumption) : Keep L o₀ (State.loadWay s) := by
  unfold State.loadWay
  repeat' (first
    | with_reducible assumption
    | with_reducible apply State.upWslot_keep
    | with_reducible apply State.occur_keep
    | with_reducible refine Keep.foldl (fun _ _ _ => ?_) _ ?_
    | with_reducible refine Keep.foldl1 (fun _ _ _ _ => ?_) _ ?_
    | with_reducible refine Keep.foldl2 (fun _ _ _ _ => ?_) _ ?_
    | with_reducible apply Keep.ite
    | (extract_lets +onlyGivenNames y; (first | ((have hy : Keep L o₀ y := (by unfold y; repeat' (first | with_reducible assumption | with_reducible apply State.upWslot_keep | with_reducible apply State.occur_keep | with_reducible refine Keep.foldl (fun _ _ _ => ?_) _ ?_ | with_reducible refine Keep.foldl1 (fun _ _ _ _ => ?_) _ ?_ | with_reducible refine Keep.foldl2 (fun _ _ _ _ => ?_) _ ?_ | with_reducible apply Keep.ite | extract_lets | split))); clear_value y) | ((have hy : Keep L o₀ y.1 := (by unfold y; repeat' (first | with_reducible assumption | with_reducible apply State.upWslot_keep | with_reducible apply State.occur_keep | with_reducible refine Keep.foldl (fun _ _ _ => ?_) _ ?_ | with_reducible refine Keep.foldl1 (fun _ _ _ _ => ?_) _ ?_ | with_reducible refine Keep.foldl2 (fun _ _ _ _ => ?_) _ ?_ | with_reducible apply Keep.ite | extract_lets | split))); clear_value y) | ((have hy : Keep L o₀ y.2 := (by unfold y; repeat' (first | with_reducible assumption | with_reducible apply State.upWslot_keep | with_reducible apply State.occur_keep | with_reducible refine Keep.foldl (fun _ _ _ => ?_) _ ?_ | with_reducible refine Keep.foldl1 (fun _ _ _ _ => ?_) _ ?_ | with_reducible refine Keep.foldl2 (fun _ _ _ _ => ?_) _ ?_ | with_reducible apply Keep.ite | extract_lets | split))); clear_value y) | clear_value y | skip))
    | split)

theorem State.loadRoutes_keep {o₀ s : State} (hK : Keep L o₀ s) (lHost : L.host = true := by first | rfl | assumption) : Keep L o₀ (State.loadRoutes s) := by
  unfold State.loadRoutes
  repeat' (first
    | with_reducible assumption
    | with_reducible refine Keep.upHost ?_ (fun xk => ?_)
    | exact xk
    | with_reducible refine Keep.foldl (fun _ _ _ => ?_) _ ?_
    | with_reducible refine Keep.foldl1 (fun _ _ _ _ => ?_) _ ?_
    | with_reducible refine Keep.foldl2 (fun _ _ _ _ => ?_) _ ?_
    | with_reducible apply Keep.ite
    | (extract_lets +onlyGivenNames y; (first | ((have hy : Keep L o₀ y := (by unfold y; repeat' (first | with_reducible assumption | with_reducible refine Keep.upHost ?_ (fun xk => ?_) | exact xk | with_reducible refine Keep.foldl (fun _ _ _ => ?_) _ ?_ | with_reducible refine Keep.foldl1 (fun _ _ _ _ => ?_) _ ?_ | with_reducible refine Keep.foldl2 (fun _ _ _ _ => ?_) _ ?_ | with_reducible apply Keep.ite | extract_lets | split))); clear_value y) | ((have hy : Keep L o₀ y.1 := (by unfold y; repeat' (first | with_reducible assumption | with_reducible refine Keep.upHost ?_ (fun xk => ?_) | exact xk | with_reducible refine Keep.foldl (fun _ _ _ => ?_) _ ?_ | with_reducible refine Keep.foldl1 (fun _ _ _ _ => ?_) _ ?_ | with_reducible refine Keep.foldl2 (fun _ _ _ _ => ?_) _ ?_ | with_reducible apply Keep.ite | extract_lets | split))); clear_value y) | ((have hy : Keep L o₀ y.2 := (by unfold y; repeat' (first | with_reducible assumption | with_reducible refine Keep.upHost ?_ (fun xk => ?_) | exact xk | with_reducible refine Keep.foldl (fun _ _ _ => ?_) _ ?_ | with_reducible refine Keep.foldl1 (fun _ _ _ _ => ?_) _ ?_ | with_reducible refine Keep.foldl2 (fun _ _ _ _ => ?_) _ ?_ | with_reducible apply Keep.ite | extract_lets | split))); clear_value y) | clear_value y | skip))
    | split)

theorem State.loadAll_keep {o s : State} (hK : Keep L o s) (env : StartEnv) (lClk : L.clk = true := by first | rfl | assumption) (lFio : L.fio = true := by first | rfl | assumption) (lCan : L.can = true := by first | rfl | assumption) (lHost : L.host = true := by first | rfl | assumption) (lWdg : L.wdg = true := by first | rfl | assumption) (lEvr : L.evr = true := by first | rfl | assumption) (lTrc : L.trc = true := by first | rfl | assumption) (lNvp : L.nvp = true := by first | rfl | assumption) (lRtc : L.rtc = true := by first | rfl | assumption) (lPwr : L.pwr = true := by first | rfl | assumption) (lMet : L.met = true := by first | rfl | assumption) : Keep L o (State.loadAll s env) := by
  unfold State.loadAll
  extract_lets a b c d
  have ha : Keep L o a := hK.upPwr _
  clear_value a
  have hb : Keep L o b := State.loadRoutes_keep (State.loadWay_keep (State.loadAo_keep (State.loadCan_keep (State.groupsQualified_keep (State.loadFio_keep (State.loadClk_keep ha _)) _))))
  clear_value b
  have hc : Keep L o c := hb.upEvr (fun xk => xk)
  clear_value c
  have hd : Keep L o d := (hc.upMet (MetKeep.same rfl rfl rfl)).upTrc _
  clear_value d
  exact State.metUp_keep (State.recap_keep hd) _

theorem State.heardTerms_keep {o₀ s : State} (hK : Keep L o₀ s) (terms : List Nat) (lNet : L.net = true := by first | rfl | assumption) : Keep L o₀ (State.heardTerms s terms) := by
  unfold State.heardTerms
  repeat' (first
    | with_reducible assumption
    | with_reducible apply Keep.upNet
    | with_reducible apply Keep.ite
    | split)

theorem State.startRole_keep {o₀ s : State} (hK : Keep L o₀ s) (terms : List Nat) (lClk : L.clk = true := by first | rfl | assumption) (lClu : L.clu = true := by first | rfl | assumption) (lSto : L.sto = true := by first | rfl | assumption) (lCsw : L.csw = true := by first | rfl | assumption) (lFio : L.fio = true := by first | rfl | assumption) (lNet : L.net = true := by first | rfl | assumption) (lCan : L.can = true := by first | rfl | assumption) (lHost : L.host = true := by first | rfl | assumption) (lWdg : L.wdg = true := by first | rfl | assumption) (lEvr : L.evr = true := by first | rfl | assumption) (lTrc : L.trc = true := by first | rfl | assumption) (lPwr : L.pwr = true := by first | rfl | assumption) : Keep L o₀ (State.startRole s terms) := by
  unfold State.startRole
  repeat' (first
    | with_reducible assumption
    | with_reducible apply State.finishStart_keep
    | with_reducible apply State.heardTerms_keep
    | with_reducible apply State.cswCause_keep
    | with_reducible apply State.govern_keep
    | with_reducible apply Keep.upCsw
    | with_reducible apply Keep.ite
    | (extract_lets +onlyGivenNames y; (first | ((have hy : Keep L o₀ y := (by unfold y; repeat' (first | with_reducible assumption | with_reducible apply State.finishStart_keep | with_reducible apply State.heardTerms_keep | with_reducible apply State.cswCause_keep | with_reducible apply State.govern_keep | with_reducible apply Keep.upCsw | with_reducible apply Keep.ite | extract_lets | split))); clear_value y) | clear_value y | skip))
    | split)

theorem State.startRest_keep {o₀ s : State} (hK : Keep L o₀ s) (env : StartEnv) (lClk : L.clk = true := by first | rfl | assumption) (lClu : L.clu = true := by first | rfl | assumption) (lTasks : L.tasks = true := by first | rfl | assumption) (lSto : L.sto = true := by first | rfl | assumption) (lLdr : L.ldr = true := by first | rfl | assumption) (lCsw : L.csw = true := by first | rfl | assumption) (lFio : L.fio = true := by first | rfl | assumption) (lNet : L.net = true := by first | rfl | assumption) (lCan : L.can = true := by first | rfl | assumption) (lDict : L.dict = true := by first | rfl | assumption) (lHost : L.host = true := by first | rfl | assumption) (lWdg : L.wdg = true := by first | rfl | assumption) (lEvr : L.evr = true := by first | rfl | assumption) (lTrc : L.trc = true := by first | rfl | assumption) (lNvp : L.nvp = true := by first | rfl | assumption) (lFw : L.fw = true := by first | rfl | assumption) (lRtc : L.rtc = true := by first | rfl | assumption) (lPwr : L.pwr = true := by first | rfl | assumption) (lMet : L.met = true := by first | rfl | assumption) (lFree : L.free = true := by first | rfl | assumption) : Keep L o₀ (State.startRest s env) := by
  unfold State.startRest
  repeat' (first
    | with_reducible assumption
    | with_reducible apply State.stopStart_keep
    | with_reducible apply State.installCut_keep
    | with_reducible apply State.powerOff_keep
    | with_reducible apply State.startStores_keep
    | with_reducible apply State.loadAll_keep
    | with_reducible apply State.startRole_keep
    | with_reducible apply Keep.upPwr
    | with_reducible apply Keep.ite
    | (extract_lets +onlyGivenNames y; (first | ((have hy : Keep L o₀ y := (by unfold y; repeat' (first | with_reducible assumption | with_reducible apply State.stopStart_keep | with_reducible apply State.installCut_keep | with_reducible apply State.powerOff_keep | with_reducible apply State.startStores_keep | with_reducible apply State.loadAll_keep | with_reducible apply State.startRole_keep | with_reducible apply Keep.upPwr | with_reducible apply Keep.ite | extract_lets | split))); clear_value y) | clear_value y | skip))
    | split)

theorem State.startFrom_keep {o s : State} (hK : Keep L o s) (env : StartEnv) (lClk : L.clk = true := by first | rfl | assumption) (lClu : L.clu = true := by first | rfl | assumption) (lTasks : L.tasks = true := by first | rfl | assumption) (lSto : L.sto = true := by first | rfl | assumption) (lLdr : L.ldr = true := by first | rfl | assumption) (lCsw : L.csw = true := by first | rfl | assumption) (lFio : L.fio = true := by first | rfl | assumption) (lNet : L.net = true := by first | rfl | assumption) (lCan : L.can = true := by first | rfl | assumption) (lDict : L.dict = true := by first | rfl | assumption) (lHost : L.host = true := by first | rfl | assumption) (lWdg : L.wdg = true := by first | rfl | assumption) (lEvr : L.evr = true := by first | rfl | assumption) (lTrc : L.trc = true := by first | rfl | assumption) (lNvp : L.nvp = true := by first | rfl | assumption) (lFw : L.fw = true := by first | rfl | assumption) (lRtc : L.rtc = true := by first | rfl | assumption) (lPwr : L.pwr = true := by first | rfl | assumption) (lMet : L.met = true := by first | rfl | assumption) (lFree : L.free = true := by first | rfl | assumption) (lRole : L.role = true := by first | rfl | assumption) : Keep L o (State.startFrom s env) := by
  unfold State.startFrom
  extract_lets a b c
  have ha : Keep L o a := State.bootBanks_keep (State.fwReads_keep hK _) _
  clear_value a
  refine Keep.ite (ha.upPwr _) (Keep.ite ?_ ?_)
  · have h1 : Keep L o (a.upHost (fun h => { h with ready := true })) := ha.upHost (fun xk => xk)
    exact State.stopStart_keep (h1.upDict rfl) _ _ _
  · have hb : Keep L o b := State.startSup_keep ha _
    clear_value b
    have hc : Keep L o c := Keep.ite hb (State.noMilestone_keep hb)
    clear_value c
    split
    · exact State.startRest_keep hc _
    · next d x _ =>
      have hd := State.uncorrectable_keep hc (if d = 0 then .program else .inst) x
      exact Keep.ite (State.startRest_keep (State.noMilestone_keep hd) _) (State.stopStart_keep hd _ _ _)

theorem State.startUp_keep {o₀ s : State} (hK : Keep L o₀ s) (env : StartEnv) (lClk : L.clk = true := by first | rfl | assumption) (lClu : L.clu = true := by first | rfl | assumption) (lTasks : L.tasks = true := by first | rfl | assumption) (lSto : L.sto = true := by first | rfl | assumption) (lLdr : L.ldr = true := by first | rfl | assumption) (lCsw : L.csw = true := by first | rfl | assumption) (lFio : L.fio = true := by first | rfl | assumption) (lNet : L.net = true := by first | rfl | assumption) (lCan : L.can = true := by first | rfl | assumption) (lDict : L.dict = true := by first | rfl | assumption) (lHost : L.host = true := by first | rfl | assumption) (lWdg : L.wdg = true := by first | rfl | assumption) (lEvr : L.evr = true := by first | rfl | assumption) (lTrc : L.trc = true := by first | rfl | assumption) (lNvp : L.nvp = true := by first | rfl | assumption) (lFw : L.fw = true := by first | rfl | assumption) (lRtc : L.rtc = true := by first | rfl | assumption) (lPwr : L.pwr = true := by first | rfl | assumption) (lMet : L.met = true := by first | rfl | assumption) (lFree : L.free = true := by first | rfl | assumption) (lRole : L.role = true := by first | rfl | assumption) : Keep L o₀ (State.startUp s env) := by
  unfold State.startUp
  repeat' (first
    | with_reducible assumption
    | with_reducible apply State.deviceReset_keep
    | with_reducible apply State.startAo_keep
    | with_reducible apply State.startFrom_keep
    | with_reducible apply Keep.upPwr
    | with_reducible apply Keep.ite
    | split)

theorem State.resumeStart_keep {o₀ s : State} (hK : Keep L o₀ s) (env : StartEnv) (lSto : L.sto = true := by first | rfl | assumption) (lCsw : L.csw = true := by first | rfl | assumption) (lFio : L.fio = true := by first | rfl | assumption) (lHost : L.host = true := by first | rfl | assumption) (lWdg : L.wdg = true := by first | rfl | assumption) (lEvr : L.evr = true := by first | rfl | assumption) (lPwr : L.pwr = true := by first | rfl | assumption) : Keep L o₀ (State.resumeStart s env) := by
  unfold State.resumeStart
  repeat' (first
    | with_reducible assumption
    | with_reducible apply State.finishStart_keep
    | with_reducible apply Keep.upPwr
    | with_reducible apply Keep.ite
    | split)

theorem execStartUp_keep {s s₂ : State} (env : StartEnv) (hx : execStartUp env s = .next s₂) (lClk : L.clk = true := by first | rfl | assumption) (lClu : L.clu = true := by first | rfl | assumption) (lTasks : L.tasks = true := by first | rfl | assumption) (lSto : L.sto = true := by first | rfl | assumption) (lLdr : L.ldr = true := by first | rfl | assumption) (lCsw : L.csw = true := by first | rfl | assumption) (lFio : L.fio = true := by first | rfl | assumption) (lNet : L.net = true := by first | rfl | assumption) (lCan : L.can = true := by first | rfl | assumption) (lDict : L.dict = true := by first | rfl | assumption) (lHost : L.host = true := by first | rfl | assumption) (lWdg : L.wdg = true := by first | rfl | assumption) (lEvr : L.evr = true := by first | rfl | assumption) (lTrc : L.trc = true := by first | rfl | assumption) (lNvp : L.nvp = true := by first | rfl | assumption) (lFw : L.fw = true := by first | rfl | assumption) (lRtc : L.rtc = true := by first | rfl | assumption) (lPwr : L.pwr = true := by first | rfl | assumption) (lMet : L.met = true := by first | rfl | assumption) (lFree : L.free = true := by first | rfl | assumption) (lRole : L.role = true := by first | rfl | assumption) : Keep L s s₂ := by
  unfold execStartUp at hx
  with_reducible refine Keep.commit ?_ hx
  clear hx
  have hK := Keep.refl (L := L) s
  repeat' (first
    | with_reducible assumption
    | with_reducible apply State.startUp_keep
    | with_reducible apply Keep.ite
    | split)

theorem execStartResumeAfterVin_keep {s s₂ : State} (env : StartEnv) (hx : execStartResumeAfterVin env s = .next s₂) (lSto : L.sto = true := by first | rfl | assumption) (lCsw : L.csw = true := by first | rfl | assumption) (lFio : L.fio = true := by first | rfl | assumption) (lHost : L.host = true := by first | rfl | assumption) (lWdg : L.wdg = true := by first | rfl | assumption) (lEvr : L.evr = true := by first | rfl | assumption) (lPwr : L.pwr = true := by first | rfl | assumption) : Keep L s s₂ := by
  unfold execStartResumeAfterVin at hx
  with_reducible refine Keep.commit ?_ hx
  clear hx
  have hK := Keep.refl (L := L) s
  repeat' (first
    | with_reducible assumption
    | with_reducible apply State.resumeStart_keep
    | with_reducible apply Keep.ite
    | split)

end Sys2Proof.Machine
end

