-- ==== Sys2Proof/Laws/Kivasel.lean ====
section
/-! SUPPORT. What the shared operations of Kivasel do (Machine/Kivasel.lean): the queue, a session's request, the roles. -/

set_option Elab.async false
set_option linter.all false

namespace Sys2Proof.Machine

open Sys2Proof

variable (s : State)

/-- An empty queue has nothing to answer. -/
theorem kvAuto_empty (h : s.dict.queue = []) (n : Nat) : s.kvAuto n = s := by
  cases n with
  | zero => rfl
  | succ n => unfold State.kvAuto; rw [h]

/-- A whole unit at the head is left for its operation. -/
theorem kvAuto_head {c : KChan} {u : List Byte} {rest : List (KChan × List Byte)} (h : s.dict.queue = (c, u) :: rest)
    (g : unitOk c u = true) (n : Nat) : s.kvAuto n = s := by
  cases n with
  | zero => rfl
  | succ n => unfold State.kvAuto; rw [h]; simp [g]

/-- With nothing queued, only the time is reached. -/
theorem kvTake_empty (h : s.dict.queue = []) (t : Nat) (want : List Byte → Bool) (k : KChan → List Byte → State → State) :
    s.kvTake t want k = s.reach t := by
  have e : (s.reach t).kvAuto 65 = s.reach t := kvAuto_empty (s.reach t) h 65
  unfold State.kvTake
  dsimp only
  rw [e, show (s.reach t).dict.queue = [] from h]

/-- A request of another operation, or one that must wait, keeps its place. -/
theorem kvTake_other {c : KChan} {u : List Byte} {rest : List (KChan × List Byte)} (h : s.dict.queue = (c, u) :: rest)
    (g : unitOk c u = true) (t : Nat) {want : List Byte → Bool} (k : KChan → List Byte → State → State)
    (w : want u = false ∨ s.kvWaits c u = true) : s.kvTake t want k = s.reach t := by
  have e : (s.reach t).kvAuto 65 = s.reach t := kvAuto_head (s.reach t) h g 65
  have x : (s.reach t).kvWaits c u = s.kvWaits c u := rfl
  unfold State.kvTake
  dsimp only
  rw [e, show (s.reach t).dict.queue = (c, u) :: rest from h]
  dsimp only
  rw [x]
  rcases w with w | w <;> simp [w]

/-- The wanted request at the head is served, and what then breaks R330 at the head is answered. -/
theorem kvTake_serves {c : KChan} {u : List Byte} {rest : List (KChan × List Byte)} (h : s.dict.queue = (c, u) :: rest)
    (g : unitOk c u = true) (w : s.kvWaits c u = false) (t : Nat) {want : List Byte → Bool} (wu : want u = true)
    (k : KChan → List Byte → State → State) :
    s.kvTake t want k = (k c u ((s.reach t).upDict (fun d => { d with queue := rest }))).kvAuto 65 := by
  have e : (s.reach t).kvAuto 65 = s.reach t := kvAuto_head (s.reach t) h g 65
  have x : (s.reach t).kvWaits c u = false := w
  unfold State.kvTake
  dsimp only
  rw [e, show (s.reach t).dict.queue = (c, u) :: rest from h]
  dsimp only
  rw [x, g, wu]
  rfl

/-- A unit that finds room stands at the end of the queue. -/
theorem kvArrive_queues (c : KChan) (b : List Byte) (on : s.domainOn 1 = true) (rec : s.pwr.recovery = false ∨ c = .odx ∨ c = .s1)
    (len : 16 ≤ b.length) (p : s.dict.parked = false) (room : s.dict.queue.length < 64) :
    s.kvArrive c b = (s.upDict (fun d => { d with queue := d.queue ++ [(c, b)] })).kvAuto 65 := by
  unfold State.kvArrive
  rw [on, p]
  have h : ¬ (s.pwr.recovery = true ∧ c ≠ .odx ∧ c ≠ .s1) := by
    rintro ⟨h1, h2, h3⟩
    rcases rec with r | r | r
    · rw [r] at h1; cases h1
    · exact h2 r
    · exact h3 r
  have a : ¬ b.length < 16 := by omega
  have z : ¬ 64 ≤ s.dict.queue.length := by omega
  simp [h, a, z]

/-- A unit that finds 64 queued is counted and answered BUSY. -/
theorem kvArrive_full (c : KChan) (b : List Byte) (on : s.domainOn 1 = true) (rec : s.pwr.recovery = false ∨ c = .odx ∨ c = .s1)
    (len : 16 ≤ b.length) (p : s.dict.parked = false) (full : 64 ≤ s.dict.queue.length) :
    s.kvArrive c b = (s.upDict (fun d => { d with busyCount := sat32 d.busyCount })).reply c b stBusy 1 [] := by
  unfold State.kvArrive
  rw [on, p]
  have h : ¬ (s.pwr.recovery = true ∧ c ≠ .odx ∧ c ≠ .s1) := by
    rintro ⟨h1, h2, h3⟩
    rcases rec with r | r | r
    · rw [r] at h1; cases h1
    · exact h2 r
    · exact h3 r
  have a : ¬ b.length < 16 := by omega
  simp [h, a, full, State.kvRefuse]

/-- A unit too short to answer, or one that finds the domain off, is lost. -/
theorem kvArrive_lost (c : KChan) (b : List Byte) (h : s.domainOn 1 = false ∨ b.length < 16) : s.kvArrive c b = s := by
  unfold State.kvArrive
  rcases h with h | h
  · rw [h]; rfl
  · split
    · rfl
    · split
      · rfl
      · simp [h]

/-- The session that a request names, found: it is served with its 60 s started again. -/
theorem inSession_serves (c : KChan) (u : List Byte) (k : Session → State → State) {x : Session} (who : s.sessionOf c u = some x)
    (f : s.dict.fuses.getLsbD 2 = false ∨ netChan c = false ∨ fusedOp (uOp u) = false) (r : s.pwr.recovery = false ∨ recoveryOp (uOp u) = true) :
    s.inSession c u k = k { x with used := s.clk.now } (s.upSession x.id (fun y => { y with used := s.clk.now })) := by
  have fz : ∀ i k, (s.upSession i k).dict.fuses = s.dict.fuses := by
    intro i k; unfold State.upSession; dsimp only [State.upDict]; split <;> rfl
  have pz : ∀ i k, (s.upSession i k).pwr = s.pwr := fun i k => rfl
  unfold State.inSession
  rw [who]
  dsimp only
  rw [fz, pz]
  rw [if_neg (by rcases f with f | f | f <;> rw [f] <;> simp), if_neg (by rcases r with r | r <;> simp [r])]
  rfl

/-- What fuse 2 ends is answered FUSED, and the refusal is kept. -/
theorem inSession_fused (c : KChan) (u : List Byte) (k : Session → State → State) {x : Session} (who : s.sessionOf c u = some x)
    (f : s.dict.fuses.getLsbD 2 = true) (n : netChan c = true) (o : fusedOp (uOp u) = true) :
    s.inSession c u k = ((s.upSession x.id (fun y => { y with used := s.clk.now })).modeRefuse 13).reply c u stFused 2 [] := by
  have fz : ∀ i k, (s.upSession i k).dict.fuses = s.dict.fuses := by
    intro i k; unfold State.upSession; dsimp only [State.upDict]; split <;> rfl
  unfold State.inSession
  rw [who]
  dsimp only
  rw [fz, if_pos (by rw [f, n, o]; rfl)]

/-- A request whose session is unknown is answered NO_SESSION. -/
theorem inSession_unknown (c : KChan) (u : List Byte) (k : Session → State → State) (who : s.sessionOf c u = none)
    (f : s.dict.fuses.getLsbD 2 = false ∨ netChan c = false ∨ fusedOp (uOp u) = false) (r : s.pwr.recovery = false ∨ recoveryOp (uOp u) = true) :
    s.inSession c u k = s.reply c u stNoSession 0 [] := by
  unfold State.inSession
  rw [who]
  dsimp only
  rw [if_neg (by rcases f with f | f | f <;> rw [f] <;> simp), if_neg (by rcases r with r | r <;> simp [r])]

/-- In a role that accepts batches, the request is served. -/
theorem needRole_serves (c : KChan) (u : List Byte) (k : State) (h : s.takesBatches = true) : s.needRole c u k = k := by
  unfold State.needRole; rw [if_pos h]

/-- In another role it is refused, and the refusal is kept. -/
theorem needRole_refuses (c : KChan) (u : List Byte) (k : State) (h : s.takesBatches = false) :
    s.needRole c u k = (s.modeRefuse 9).reply c u stRole s.csw.role.code [] := by
  unfold State.needRole; rw [if_neg (by simp [h])]

end Sys2Proof.Machine
end

