-- ==== Sys2Proof/Laws/Met.lean ====
section
/-! SUPPORT. What the shared operations of the metrology partition do (Machine/Met.lean). -/

set_option Elab.async false
set_option linter.all false

namespace Sys2Proof.Machine

open Sys2Proof

variable (s : State)

/-- Publication writes the record and its SEQ of one channel, the record before it and the instant, ALIVE and MET_CAUSE.NEW. -/
theorem metPublish_met (c : Nat) (r : Nat → List Byte) :
    (s.metPublish c r).met = { s.met with
      chans := vup s.met.chans c MetChan.reset (fun m => { m with
        seq := ((vget s.met.chans c MetChan.reset).seq + 1) % 2 ^ 32, record := r (((vget s.met.chans c MetChan.reset).seq + 1) % 2 ^ 32), before := m.record, recAt := some s.clk.now }),
      alive := true, lastRec := s.clk.now, cause := setBit s.met.cause 0 true } := by
  unfold State.metPublish
  simp

theorem auditAdd_met (e : List Byte) :
    (s.auditAdd e).met = if 1024 ≤ s.met.audit.length then s.met else { s.met with audit := s.met.audit ++ [e], cause := setBit s.met.cause 3 true } := by
  unfold State.auditAdd
  split
  · rfl
  · simp

theorem sealTo_met_same {closed : Bool} (h : s.met.sealed = closed) : s.sealTo closed = s := by
  unfold State.sealTo
  rw [if_pos h]

/-- What a recognised change of the seal leaves of the partition. -/
theorem sealTo_met {closed : Bool} (h : s.met.sealed ≠ closed) : (s.sealTo closed).met.sealed = closed ∧ (s.sealTo closed).met.telegram = [] ∧
    (s.sealTo closed).met.events = s.met.events ∧ (s.sealTo closed).met.chans = s.met.chans ∧
    (s.sealTo closed).met.cause = setBit (if s.met.audit.length < 1024 then setBit s.met.cause 3 true else s.met.cause) 2 true ∧
    (s.sealTo closed).met.audit = (if s.met.audit.length < 1024 then s.met.audit ++ [s.auditEntry s.met.events 0 0 (if closed then 5 else 4) 0 0] else s.met.audit) := by
  unfold State.sealTo
  rw [if_neg h]
  simp only [State.metCause_met, auditAdd_met, State.upMet_met]
  by_cases hl : 1024 ≤ s.met.audit.length
  · simp [hl, Nat.not_lt.mpr hl]
  · simp only [hl, if_false, Nat.not_le.mp hl, if_true, true_and]
    rfl

/-- The channels of the partition at a power-up. -/
theorem powerUp_chan {c : Nat} (h : c < 12) :
    vget (s.met.chans.map MetChan.powerUp) c MetChan.reset = (vget s.met.chans c MetChan.reset).powerUp := vget_map _ _ h _ _

/-- What a power-up of MET leaves of the partition: MET_CAUSE, the audit trail and the telegram follow the seal. -/
theorem metUp_met (closed : Bool) (h : s.met.powered = false) : (s.metUp closed).met.sealed = closed ∧ (s.metUp closed).met.events = s.met.events ∧
    (s.metUp closed).met.chans = s.met.chans.map MetChan.powerUp ∧ (s.metUp closed).met.powered = true ∧
    (s.metUp closed).met.metCycles = s.met.metCycles + 1 ∧ (s.metUp closed).met.digest = sha256 s.met.image ∧
    (s.metUp closed).met.idOk = decide (sha256 s.met.image = s.met.refDigest) := by
  have key : ∀ v : State, (v.sealTo closed).met.sealed = closed ∧ (v.sealTo closed).met.events = v.met.events ∧ (v.sealTo closed).met.chans = v.met.chans ∧
      (v.sealTo closed).met.powered = v.met.powered ∧ (v.sealTo closed).met.metCycles = v.met.metCycles ∧ (v.sealTo closed).met.digest = v.met.digest ∧
      (v.sealTo closed).met.idOk = v.met.idOk := by
    intro v
    unfold State.sealTo
    split
    · next h => exact ⟨h, rfl, rfl, rfl, rfl, rfl, rfl⟩
    · simp only [State.metCause_met, auditAdd_met, State.upMet_met]
      by_cases hl : 1024 ≤ v.met.audit.length <;> simp only [hl, if_true, if_false, and_self]
  have cause : ∀ (b : Bool) (u : State), (if b then u else u.metCause 1).met = { u.met with cause := (if b then u else u.metCause 1).met.cause } := by
    intro b u
    cases b <;> simp
  unfold State.metUp
  rw [if_neg (by rw [h]; decide)]
  extract_lets d u
  obtain ⟨a1, a2, a3, a4, a5, a6, a7⟩ := key (if u.met.idOk then u else u.metCause 1)
  rw [a1, a2, a3, a4, a5, a6, a7, cause]
  exact ⟨rfl, rfl, rfl, rfl, rfl, rfl, rfl⟩

/-- What an accepted change leaves of the partition: count and entry first, then the change (17 R486). -/
theorem adjust_met {x y k : Nat} {n o : Int} (hl : s.met.audit.length < 1024) (ho : s.met.entry x y = some o) :
    (s.adjust x y k n).met.events = s.met.events + 1 ∧ (s.adjust x y k n).met.audit = s.met.audit ++ [s.auditEntry (s.met.events + 1) x y k o n] ∧
    (s.adjust x y k n).met.adjResult = 0 ∧ (s.adjust x y k n).met.sealed = s.met.sealed ∧ (s.adjust x y k n).met.cause = setBit s.met.cause 3 true ∧
    (s.adjust x y k n).met.chans = (s.metSet x y n).met.chans ∧ (s.adjust x y k n).met.entry x y = (s.metSet x y n).met.entry x y := by
  unfold State.adjust
  rw [if_neg (Nat.not_le.mpr hl), ho]
  dsimp only [Option.getD_some]
  have hl' : ¬ 1024 ≤ (s.upMet (fun m => { m with events := m.events + 1 })).met.audit.length := Nat.not_le.mpr hl
  have hc : ∀ w : State, w.met.chans = s.met.chans → (w.metSet x y n).met.chans = (s.metSet x y n).met.chans := by
    intro w hw
    simp only [State.metSet, State.upMetChan_met, hw]
  have hch : (((s.upMet (fun m => { m with events := m.events + 1 })).auditAdd
      ((s.upMet (fun m => { m with events := m.events + 1 })).auditEntry (s.met.events + 1) x y k o n)).metSet x y n).met.chans = (s.metSet x y n).met.chans :=
    hc _ (by rw [auditAdd_met, if_neg hl']; rfl)
  refine ⟨?_, ?_, rfl, ?_, ?_, hch, ?_⟩
  · show (State.auditAdd _ _).met.events = _
    rw [auditAdd_met, if_neg hl']; rfl
  · show (State.auditAdd _ _).met.audit = _
    rw [auditAdd_met, if_neg hl']; rfl
  · show (State.auditAdd _ _).met.sealed = _
    rw [auditAdd_met, if_neg hl']; rfl
  · show (State.auditAdd _ _).met.cause = _
    rw [auditAdd_met, if_neg hl']; rfl
  · have he : ∀ a b : Met, a.chans = b.chans → a.entry x y = b.entry x y := by
      intro a b h
      unfold Met.entry
      rw [h]
    exact he _ _ hch

theorem leBytes_length (n v : Nat) : (leBytes n v).length = n := by
  induction n generalizing v with
  | zero => rfl
  | succ n ih => simp [leBytes, ih]

@[simp] theorem bit_decide_one {v : Int} (h : v = 0 ∨ v = 1) : ((bit (decide (v = 1)) : Nat) : Int) = v := by
  rcases h with rfl | rfl <;> rfl

/-- An entry that was set within its range reads as it was set. -/
theorem metSet_entry {index sub : Nat} {v : Int} (h : (s.met.entry index sub).isSome = true) (hr : metInRange index sub v = true) :
    (s.metSet index sub v).met.entry index sub = some v := by
  unfold Met.entry at h
  unfold metInRange at hr
  unfold State.metSet Met.entry
  split at h
  · next hi =>
    have h2 : ¬ 0x7200 ≤ index := by omega
    have hc : index - 0x7100 < 12 := by omega
    simp only [h2, false_or] at hr
    simp only [if_pos hi, h2, if_false, State.upMetChan_met, vget_vup_same hc]
    unfold MetChan.put
    have hsub : sub = 1 ∨ sub = 2 ∨ sub = 3 ∨ sub = 4 ∨ sub = 5 ∨ sub = 6 ∨ sub = 7 ∨ sub = 8 ∨ sub = 9 := by
      revert h
      dsimp only
      intro h
      by_contra hn
      simp only [not_or] at hn
      simp [hn] at h
    rcases hsub with rfl | rfl | rfl | rfl | rfl | rfl | rfl | rfl | rfl
    · simp at hr ⊢; exact bit_decide_one hr
    · simp at hr ⊢; exact bit_decide_one hr
    · simp at hr ⊢; omega
    · simp at hr ⊢; omega
    · simp
    · simp
    · simp
    · simp at hr ⊢; omega
    · simp at hr ⊢; exact bit_decide_one hr
  · split at h
    · next hi hj =>
      obtain ⟨h1, h2, rfl⟩ := hj
      have hc : index - 0x7200 + 8 < 12 := by omega
      simp only [h1, true_or, if_true, decide_eq_true_eq] at hr
      rw [if_neg hi, if_pos ⟨h1, h2, rfl⟩]
      simp only [if_pos h1, State.upMetChan_met, vget_vup_same hc]
      exact congrArg some (bit_decide_one hr)
    · cases h

/-- The bytes of a telegram that is not yet complete are held. -/
theorem adjByte_foldl : ∀ (l : List Byte) (s : State), (s.met.telegram ++ l).length < 16 →
    l.foldl State.adjByte s = s.upMet (fun m => { m with telegram := m.telegram ++ l })
  | [], s, _ => by simp only [List.foldl_nil, List.append_nil]; rfl
  | x :: l, s, h => by
    have h1 : (s.met.telegram ++ [x]).length < 16 := by simp at h ⊢; omega
    have e : s.adjByte x = s.upMet (fun m => { m with telegram := m.telegram ++ [x] }) := by
      unfold State.adjByte
      exact if_pos h1
    rw [List.foldl_cons, e, adjByte_foldl l _ (by show ((s.met.telegram ++ [x]) ++ l).length < 16; simpa using h)]
    have hc : ∀ f g, (s.upMet f).upMet g = s.upMet (fun m => g (f m)) := fun _ _ => rfl
    rw [hc]
    exact congrArg s.upMet (funext fun m => by simp)

/-- Sixteen bytes received in adjustment with no telegram begun are a telegram. -/
theorem adjReceive_telegram {b : List Byte} (h1 : s.met.powered = true) (h2 : s.met.sealed = false) (h3 : s.met.telegram = []) (hb : b.length = 16) :
    s.adjReceive b = (s.upMet (fun m => { m with telegram := [] })).telegramDone b := by
  obtain ⟨l, x, rfl⟩ : ∃ l x, b = l ++ [x] := ⟨b.dropLast, b.getLast (by rintro rfl; cases hb), (List.dropLast_append_getLast _).symm⟩
  unfold State.adjReceive
  rw [h1, h2, if_neg (by decide), List.foldl_append, adjByte_foldl l s (by rw [h3]; simp at hb ⊢; omega)]
  have ht : (s.upMet (fun m => { m with telegram := m.telegram ++ l })).met.telegram = l := by show s.met.telegram ++ l = l; rw [h3]; rfl
  show State.adjByte _ x = _
  unfold State.adjByte
  dsimp only
  rw [ht, if_neg (by rw [hb]; omega)]
  rfl

end Sys2Proof.Machine
end

