-- ==== Sys2Proof/Laws/Net.lean ====
section
/-! SUPPORT. What the lock rules, the reception of station frames and the sending of station frames leave (Machine/Net.lean). -/

set_option Elab.async false
set_option linter.all false

namespace Sys2Proof.Machine

open Sys2Proof

/-! ### Lock (09 R271) -/

/-- Lock is lost, gained or stays, by the counts and stepsRemoved. -/
theorem relock_cases (u : State) :
    (u.clk.locked = true → 4 ≤ u.clk.outCount ∨ 16 < u.clk.steps → u.relock.clk = { u.clk with locked := false, holdover := true } ∧ u.relock.net = { u.net with cause := setBit u.net.cause 3 true }) ∧
    (u.clk.locked = false → 8 ≤ u.clk.inCount → u.clk.steps ≤ 16 → u.relock.clk = { u.clk with locked := true, holdover := false, everLocked := true, outCount := 0, ptpOff := if u.clk.everLocked then u.clk.ptpOff else u.clk.ptpServo } ∧ u.relock.net = { u.net with cause := setBit u.net.cause 2 true }) ∧
    (u.clk.locked = true → u.clk.outCount < 4 → u.clk.steps ≤ 16 → u.relock = u) ∧
    (u.clk.locked = false → u.clk.inCount < 8 ∨ 16 < u.clk.steps → u.relock = u) := by
  refine ⟨fun h1 h2 => ?_, fun h1 h2 h3 => ?_, fun h1 h2 h3 => ?_, fun h1 h2 => ?_⟩
  · unfold State.relock State.loseLock
    rw [h1, if_pos rfl, if_pos h2, if_pos rfl]
    exact ⟨by simp, by simp⟩
  · unfold State.relock State.gainLock
    rw [h1, if_neg (by simp), if_pos ⟨h2, h3⟩, if_neg (by simp)]
    exact ⟨by simp, by simp⟩
  · unfold State.relock
    rw [h1, if_pos rfl, if_neg (by omega)]
  · unfold State.relock
    rw [h1, if_neg (by simp), if_neg (by omega)]

/-! ### Sending (09 R269, R273, R284) -/

/-- The network block but for what sending moves. -/
def Net.still (n : Net) : Net :=
  { n with sent := [], txq := [], unacked := [], prpSeq := Net.reset.prpSeq, lineAt := Net.reset.lineAt, txLate := 0, cause := 0 }

/-- Equal but for what sending moves. -/
theorem Net.still_eq {n m : Net} (h : m.still = n.still) :
    m = { n with sent := m.sent, txq := m.txq, unacked := m.unacked, prpSeq := m.prpSeq, lineAt := m.lineAt, txLate := m.txLate, cause := m.cause } := by
  cases n; cases m
  simp only [Net.still, Net.mk.injEq] at h ⊢
  simp only [h, and_self]

theorem foldl_send (g : Nat → Sent) : ∀ (ports : List Nat) (s : State),
    ports.foldl (fun acc q => acc.send (g q)) s = s.upNet (fun n => { n with sent := (ports.reverse.map g) ++ n.sent })
  | [], _ => rfl
  | q :: l, s => by
    rw [List.foldl_cons, foldl_send g l]
    simp [State.send, State.upNet]

/-- What a payload sent on ports moves: the frames sent and the PRP sequence number. -/
theorem sendEthOn_net (s : State) (ports : List Nat) (code : Nat) (dst payload : List Byte) : ∃ n, s.sendEthOn ports code dst payload = s.upNet (fun _ => n) ∧
    n = { s.net with sent := (ports.reverse.map (fun q => Sent.eth q (s.ethOctets code dst payload q))) ++ s.net.sent, prpSeq := n.prpSeq } := by
  unfold State.sendEthOn
  dsimp only
  rw [foldl_send]
  split
  · exact ⟨_, rfl, rfl⟩
  · exact ⟨_, rfl, rfl⟩

/-- A queued frame leaves its open ports, or stays queued. -/
theorem sendFrame_net (s : State) (x : TxFrame) :
    ((s.openPorts x).isEmpty = true → s.sendFrame x = s.upNet (fun n => { n with txq := n.txq ++ [x] })) ∧
    ((s.openPorts x).isEmpty = false → ∃ n, s.sendFrame x = s.upNet (fun _ => n) ∧ n = { s.net with
      sent := ((s.openPorts x).reverse.map (fun q => Sent.eth q (s.ethOctets (s.framePort x.slot) (s.frameMac x.slot) x.bytes q))) ++ s.net.sent, prpSeq := n.prpSeq, lineAt := n.lineAt
      unacked := s.net.unacked ++ (if x.slot < 256 ∧ x.retried = false then [{ x with sentAt := s.leavesAt ((s.openPorts x).headD 0) }] else []) }) := by
  refine ⟨fun h => ?_, fun h => ?_⟩
  · unfold State.sendFrame
    dsimp only
    rw [h, if_pos rfl]
  · obtain ⟨n, h1, h2⟩ := sendEthOn_net s (s.openPorts x) (s.framePort x.slot) (s.frameMac x.slot) x.bytes
    unfold State.sendFrame
    dsimp only
    rw [h, if_neg (by decide), h1]
    split
    · next g =>
      refine ⟨_, rfl, ?_⟩
      rw [if_pos (by simpa using g), h2]
      rfl
    · next g =>
      refine ⟨_, rfl, ?_⟩
      rw [if_neg (by simpa using g), List.append_nil, h2]
      rfl

theorem sendFrame_still (s : State) (x : TxFrame) : (s.sendFrame x).net.still = s.net.still := by
  obtain ⟨a, b⟩ := sendFrame_net s x
  cases h : (s.openPorts x).isEmpty
  · obtain ⟨n, h1, h2⟩ := b h
    rw [h1, State.upNet_net, h2]; rfl
  · rw [a h]; rfl

theorem foldl_still {α : Type} {f : State → α → State} (hf : ∀ s x, (f s x).net.still = s.net.still) :
    ∀ (l : List α) (s : State), (l.foldl f s).net.still = s.net.still
  | [], _ => rfl
  | x :: l, s => by rw [List.foldl_cons, foldl_still hf l, hf]

theorem netCause_still (s : State) (b src : Nat) : (s.netCause b src).net.still = s.net.still := by
  rw [State.netCause_net]; rfl

theorem dropLate_still (s : State) (t : Nat) : (s.dropLate t).net.still = s.net.still := by
  unfold State.dropLate
  dsimp only
  rw [foldl_still (f := fun acc (x : TxFrame) => acc.netCause 6 x.slot) (fun s x => netCause_still s 6 x.slot)]; rfl

/-- Late frames leave the queue and are counted; nothing is sent. -/
theorem dropLate_net (s : State) (t : Nat) :
    (s.dropLate t).net = { s.net with
      txq := s.net.txq.filter (fun x => !lateAt (s.ptpAt t) x)
      txLate := min 0xFFFFFFFF (s.net.txLate + (s.net.txq.filter (lateAt (s.ptpAt t))).length)
      cause := (s.dropLate t).net.cause } := by
  have key : ∀ (l : List TxFrame) (u : State), (l.foldl (fun acc x => acc.netCause 6 x.slot) u).net = { u.net with cause := (l.foldl (fun acc x => acc.netCause 6 x.slot) u).net.cause } := by
    intro l
    induction l with
    | nil => intro u; rfl
    | cons a l ih => intro u; rw [List.foldl_cons, ih, State.netCause_net]
  unfold State.dropLate
  dsimp only
  rw [key]
  rfl

theorem dropLate_none (s : State) (t : Nat) (h : ∀ x ∈ s.net.txq, ∀ l, x.launch = some l → s.ptpAt t < l) :
    (s.dropLate t).net = { s.net with txLate := min 0xFFFFFFFF s.net.txLate } := by
  have e : s.net.txq.filter (lateAt (s.ptpAt t)) = [] := by
    rw [List.filter_eq_nil_iff]
    intro x hx
    cases hl : x.launch with
    | none => simp [lateAt, hl]
    | some l => have := h x hx l hl; simp [lateAt, hl]; omega
  have e2 : s.net.txq.filter (fun x => !lateAt (s.ptpAt t) x) = s.net.txq := by
    rw [List.filter_eq_self]
    intro x hx
    cases hl : x.launch with
    | none => simp [lateAt, hl]
    | some l => have := h x hx l hl; simp [lateAt, hl]; omega
  unfold State.dropLate
  simp only [State.upNet, e, e2, List.foldl_nil, List.length_nil, satAdd, Nat.add_zero]

theorem drain_still (s : State) : s.drain.net.still = s.net.still := by
  unfold State.drain
  dsimp only
  rw [foldl_still sendFrame_still]
  exact dropLate_still s s.clk.now

theorem queueFrame_still (s : State) (slot : Nat) (launch : Option Nat) (retried : Bool) (b : List Byte) :
    (s.queueFrame slot launch retried b).net.still = s.net.still := by
  unfold State.queueFrame
  rw [drain_still]; rfl

/-- A frame queued with nothing before it, and not late: it leaves on its open ports, or waits where there is none. -/
theorem queueFrame_sent (s : State) (slot : Nat) (launch : Option Nat) (retried : Bool) (b : List Byte) (hq : s.net.txq = [])
    (hl : ∀ l, launch = some l → s.ptpAt s.clk.now < l) {ports : List Nat} (hp : s.openPorts { slot := slot, bytes := b, launch := launch, sentAt := 0, retried := retried } = ports) :
    (s.queueFrame slot launch retried b).net.sent =
      (ports.reverse.map (fun q => Sent.eth q (s.ethOctets (s.framePort slot) (s.frameMac slot) b q))) ++ s.net.sent ∧
    (s.queueFrame slot launch retried b).net.txq = (if ports = [] then [{ slot := slot, bytes := b, launch := launch, sentAt := 0, retried := retried }] else []) ∧
    (s.queueFrame slot launch retried b).net.unacked =
      s.net.unacked ++ (if ports ≠ [] ∧ slot < 256 ∧ retried = false then [{ slot := slot, bytes := b, launch := launch, sentAt := s.leavesAt (ports.headD 0), retried := retried }] else []) := by
  obtain ⟨x, hx⟩ : ∃ x : TxFrame, x = { slot := slot, bytes := b, launch := launch, sentAt := 0, retried := retried } := ⟨_, rfl⟩
  rw [← hx] at hp
  obtain ⟨u, hu⟩ : ∃ u, u = s.upNet (fun n => { n with txq := n.txq ++ [x] }) := ⟨_, rfl⟩
  obtain ⟨v, hv⟩ : ∃ v, v = u.dropLate s.clk.now := ⟨_, rfl⟩
  have ku : Keep { net := true } s u := by rw [hu]; exact (Keep.refl s).upNet _
  have kv : Keep { net := true, evr := true } u v := by rw [hv]; exact State.dropLate_keep (Keep.refl u) _
  have hun : u.net = { s.net with txq := [x] } := by rw [hu]; show { s.net with txq := s.net.txq ++ [x] } = _; rw [hq]; rfl
  have hvn : v.net = { s.net with txq := [x], txLate := min 0xFFFFFFFF s.net.txLate } := by
    rw [hv, dropLate_none u _ (by
      intro y hy l hl'
      rw [hun] at hy
      have : y = x := by simpa using hy
      rw [this, hx] at hl'
      have h1 : u.ptpAt s.clk.now = s.ptpAt s.clk.now := by unfold State.ptpAt; rw [ku.frame.clk rfl]
      rw [h1]; exact hl l hl'), hun]
  obtain ⟨w, hw⟩ : ∃ w, w = v.upNet (fun n => { n with txq := [] }) := ⟨_, rfl⟩
  have kw : Keep { net := true, evr := true } s w := by
    rw [hw]; exact Keep.upNet (hv ▸ State.dropLate_keep (hu ▸ (Keep.refl s).upNet _) _) _
  have hwn : w.net = { s.net with txq := [], txLate := min 0xFFFFFFFF s.net.txLate } := by rw [hw]; show { v.net with txq := [] } = _; rw [hvn]
  have e : s.queueFrame slot launch retried b = w.sendFrame x := by
    unfold State.queueFrame State.drain
    dsimp only
    rw [← hx, ← hu, show u.clk.now = s.clk.now by rw [ku.frame.clk rfl], ← hv, show v.net.txq = [x] by rw [hvn], ← hw]
    rfl
  have hif : ∀ a b c, w.inForce a b c = s.inForce a b c := fun a b c => by unfold State.inForce; rw [kw.frame.dict rfl]
  have hports : ∀ c, w.portsOf c = s.portsOf c := fun c => by unfold State.portsOf State.prpOn; simp only [hif, kw.frame.trc rfl]
  have hfp : ∀ c, w.framePort c = s.framePort c := fun c => by unfold State.framePort State.slotCfg; simp only [hif]
  have hmac : w.frameMac slot = s.frameMac slot := by unfold State.frameMac State.slotNode State.slotCfg; simp only [hif]
  have hla : ∀ q, w.leavesAt q = s.leavesAt q := fun q => by unfold State.leavesAt; rw [kw.frame.clk rfl, hwn]
  have hop : w.openPorts x = ports := by
    rw [← hp]
    unfold State.openPorts State.ptpAt
    simp only [hfp, hports, hla, hwn, kw.frame.clk rfl]
  have hwo : ∀ c d q, w.ethOctets c d b q = s.ethOctets c d b q := fun c d q => by
    unfold State.ethOctets
    simp only [hif, hports, hwn]
  have hxb : x.bytes = b ∧ x.slot = slot ∧ x.retried = retried ∧ x.launch = launch := by rw [hx]; exact ⟨rfl, rfl, rfl, rfl⟩
  obtain ⟨a1, a2⟩ := sendFrame_net w x
  rw [e]
  cases hpe : ports with
  | nil =>
    rw [a1 (by rw [hop, hpe]; rfl), State.upNet_net, hwn]
    exact ⟨rfl, by simp [hx], by simp⟩
  | cons q l =>
    obtain ⟨n, h1, h2⟩ := a2 (by rw [hop, hpe]; rfl)
    rw [h1, State.upNet_net, h2, hop, hpe, hwn, hxb.1, hxb.2.1, hfp, hmac]
    refine ⟨?_, by simp, ?_⟩
    · simp only [hwo]
    · simp only [hxb.2.2.1, hla, ne_eq, reduceCtorEq, not_false_eq_true, true_and, hx]

/-! ### Reception (09 R269, R273, R279) -/

/-- Duplicate discard moves the record of first copies, and the count where a copy is discarded. -/
theorem prpSeen_net (s : State) (port : Nat) (f : List Byte) :
    Keep { net := true } s (s.prpSeen port f).2 ∧
    ((s.prpSeen port f).1 = true → (s.prpSeen port f).2.net = { s.net with seen := (s.prpSeen port f).2.net.seen, prpDup := min 0xFFFFFFFF (s.net.prpDup + 1) }) ∧
    ((s.prpSeen port f).1 = false → (s.prpSeen port f).2.net = { s.net with seen := (s.prpSeen port f).2.net.seen }) ∧
    (4 ≤ port ∨ s.prpOn (port / 2) = false ∨ prpKey f = none → s.prpSeen port f = (false, s)) := by
  refine ⟨State.prpSeen_keep (Keep.refl s) _ _, ?_, ?_, ?_⟩
  · unfold State.prpSeen
    split
    · simp
    · split
      · simp
      · dsimp only; generalize leBytes 1 (if port % 2 = 0 then port + 1 else port - 1) ++ _ = k; split <;> simp [sat32, satAdd, State.upNet]
  · unfold State.prpSeen
    split
    · simp
    · split
      · simp
      · dsimp only; generalize leBytes 1 (if port % 2 = 0 then port + 1 else port - 1) ++ _ = k; split <;> simp [State.upNet]
  · intro h
    unfold State.prpSeen
    split
    · rfl
    · next hn =>
      split
      · rfl
      · next k hk =>
        exfalso
        rcases h with h | h | h
        · exact hn (.inl h)
        · exact hn (.inr (by simp [h]))
        · simp [h] at hk

/-- Duplicate discard changes the network block alone. -/
theorem prpSeen_upNet (s : State) (port : Nat) (f : List Byte) : ∃ n, (s.prpSeen port f).2 = s.upNet (fun _ => n) := by
  unfold State.prpSeen
  split
  · exact ⟨s.net, rfl⟩
  · split
    · exact ⟨s.net, rfl⟩
    · dsimp only
      generalize leBytes 1 (if port % 2 = 0 then port + 1 else port - 1) ++ _ = k
      split
      · exact ⟨_, rfl⟩
      · exact ⟨_, rfl⟩

/-- A frame at a port, once it is no duplicate, is sorted by its EtherType and form. -/
theorem ethArrives_cases {s : State} {port t : Nat} {f : List Byte} (hd : s.domainOn 7 = true) {u : State} (hu : u = ((s.reach t).prpSeen port f).2) :
    (((s.reach t).prpSeen port f).1 = true → s.ethArrives port t f = u) ∧
    (((s.reach t).prpSeen port f).1 = false →
      (s.ethKind f = .other → s.ethArrives port t f = u) ∧
      (s.ethKind f = .hsr → s.ethArrives port t f = u.rxErr) ∧
      (∀ mac p, s.ethKind f = .station mac p →
        s.ethArrives port t f = if s.stationPort port = false then u else if headerOk p && payloadOk p && s.frameForUs p then (u.nodeClash mac p).stationFrame t p else (u.nodeClash mac p).rxErr.netCause 10 0)) := by
  obtain ⟨n, hn⟩ := prpSeen_upNet (s.reach t) port f
  have hk : u.ethKind f = s.ethKind f := by rw [hu, hn]; rfl
  have hf : ∀ p, u.frameForUs p = s.frameForUs p := fun p => by rw [hu, hn]; rfl
  have hsp : u.stationPort port = s.stationPort port := by rw [hu, hn]; rfl
  have hfc : ∀ mac p, (u.nodeClash mac p).frameForUs p = u.frameForUs p := fun mac p => by
    have k := State.nodeClash_keep (L := { net := true, evr := true }) (Keep.refl u) mac p
    unfold State.frameForUs State.node State.inForce; rw [k.frame.dict rfl]
  have hd' : (s.reach t).domainOn 7 = true := hd
  unfold State.ethArrives
  simp only [hd', Bool.not_true, Bool.false_eq_true, if_false, ← hu]
  refine ⟨fun h => by rw [if_pos h], fun h => ⟨fun g => ?_, fun g => ?_, fun mac p g => ?_⟩⟩
  · rw [h, hk, g]; rfl
  · rw [h, hk, g]; rfl
  · simp only [h, hk, g, hsp, hfc, hf]
    cases s.stationPort port <;> rfl

/-! ### Station slots (09 R280, R282, R285; 07 R232, R233) -/

/-- An update of slot `i` is seen there and nowhere else. -/
theorem upSlot_slot (s : State) {i : Nat} (h : i < 256) (k : Slot → Slot) :
    (s.upSlot i k).slot i = k (s.slot i) ∧ ∀ j, j ≠ i → (s.upSlot i k).slot j = s.slot j :=
  ⟨vget_vup_same h _ _, fun _ hj => vget_vup_ne hj _ _⟩

theorem upSlot_net (s : State) (i : Nat) (k : Slot → Slot) : (s.upSlot i k).net = { s.net with slots := vup s.net.slots i Slot.reset k } := rfl

theorem upSlot_csw (s : State) (i : Nat) (k : Slot → Slot) : (s.upSlot i k).csw = s.csw := rfl

/-- A slot that `slotOf` names is one of the 256 and configured with that node. -/
theorem slotOf_some {s : State} {node i : Nat} (h : s.slotOf node = some i) : i < 256 ∧ s.slotNode i = node := by
  unfold State.slotOf at h
  have h1 := List.mem_of_find?_eq_some h
  have h2 := List.find?_some h
  unfold State.usedSlots at h1
  simp at h1 h2
  exact ⟨h1.1, h2⟩

/-- The unit may stay: the report names no higher term, and no other node for the own term, or the unit is not ACTIVE. -/
theorem stationReport_quiet {s : State} (i term node : Nat) (h : s.csw.role = .active → term ≤ s.csw.term ∧ (term = s.csw.term → node = s.node)) :
    s.stationReport i term node = (s.upSlot i (fun x => { x with accTerm := max x.accTerm term, accNode := node })).upCsw
      (fun c => { c with termConfirmed := c.termConfirmed || decide (term = s.csw.term ∧ node = s.node) }) := by
  obtain ⟨u, hu⟩ : ∃ u, u = s.upSlot i (fun x => { x with accTerm := max x.accTerm term, accNode := node }) := ⟨_, rfl⟩
  have hc : u.csw = s.csw := by rw [hu]; rfl
  have hn : u.node = s.node := by rw [hu]; rfl
  obtain ⟨v, hv⟩ : ∃ v, v = u.upCsw (fun c => { c with termConfirmed := c.termConfirmed || decide (term = s.csw.term ∧ node = s.node) }) := ⟨_, rfl⟩
  have e : (if term = u.csw.term ∧ node = u.node then u.upCsw (fun c => { c with termConfirmed := true }) else u) = v := by
    rw [hv, hc, hn]
    split
    · next g => simp [g]
    · next g =>
      simp only [g, decide_false, Bool.or_false]
      rfl
  unfold State.stationReport
  dsimp only
  rw [← hu, e, ← hv]
  rw [if_neg]
  have h1 : v.csw.role = s.csw.role := by rw [hv, State.upCsw_csw, hc]
  have h2 : v.csw.term = s.csw.term := by rw [hv, State.upCsw_csw, hc]
  have h3 : v.node = s.node := by rw [hv]; exact hn
  rw [h1, h2, h3]
  rintro ⟨g, g'⟩
  have := h g
  rcases g' with g' | ⟨g', g''⟩
  · omega
  · exact g'' (this.2 g')

/-- A report of a higher term, or of another node for the own term, puts an ACTIVE unit into FAILED with reason 3 (07 R232). -/
theorem stationReport_failed {s : State} (i term node : Nat) (hr : s.csw.role = .active) (h : s.csw.term < term ∨ term = s.csw.term ∧ node ≠ s.node) :
    (s.stationReport i term node).csw.role = .failed ∧ (s.stationReport i term node).csw.failReason = 3 ∧
      (s.stationReport i term node).csw.cause.getLsbD 7 = true ∧ (s.stationReport i term node).csw.driversOff = true := by
  obtain ⟨u, hu⟩ : ∃ u, u = s.upSlot i (fun x => { x with accTerm := max x.accTerm term, accNode := node }) := ⟨_, rfl⟩
  have hc : u.csw = s.csw := by rw [hu]; rfl
  have hn : u.node = s.node := by rw [hu]; rfl
  have e : s.stationReport i term node = (u.cswCause 7).enterFailed 3 := by
    unfold State.stationReport
    dsimp only
    rw [← hu]
    have hne : ¬ (term = u.csw.term ∧ node = u.node) := by
      rw [hc, hn]; rintro ⟨a, b⟩
      rcases h with h | ⟨_, h⟩
      · omega
      · exact h b
    rw [if_neg hne, if_pos ⟨by rw [hc]; exact hr, by rw [hc, hn]; exact h⟩]
  rw [e]
  obtain ⟨a, b, hx⟩ := enterFailed_csw (u.cswCause 7) 3
  rw [hx, State.cswCause_csw]
  refine ⟨rfl, rfl, ?_, rfl⟩
  show (setBit u.csw.cause 7 true).getLsbD 7 = true
  rw [setBit_getLsbD _ _ _ _ (by omega)]; simp

/-- What an INPUT frame of a configured station with the slot's counts leads to, after the station's report (09 R282). -/
theorem inputFrame_eq {s : State} {p : List Byte} {i : Nat} (t : Nat) (hi : s.slotOf (frSrc p) = some i) (h1 : getLE p 40 2 = s.slotCfg i 4 0)
    (h2 : getLE p 42 2 = s.slotCfg i 6 0) {v : State} (hv : v = s.stationReport i (getLE p 32 2) (getLE p 34 2)) :
    s.inputFrame t p = (
      if frPeriod p ≠ v.clk.p then v.netCause 9 i
      else if (if frPtp p then (v.slot i).lastBeat1 else (v.slot i).lastBeat0).any (fun b => decide (frBeat p ≤ b) && !(byteAt p 36).testBit 3) then v.countSuperseded
      else (if (byteAt p 36).testBit 3 then v.upSlot i (fun y => if frPtp p then { y with lastBeat1 := none } else { y with lastBeat0 := none }) else v).upSlot i (fun y => { y with frames := y.frames ++ [(t, p)] })) := by
  unfold State.inputFrame
  rw [hi]
  dsimp only
  rw [if_neg (by simp [h1, h2]), ← hv]
  generalize (if frPtp p = true then (v.slot i).lastBeat1 else (v.slot i).lastBeat0) = o
  cases o <;> rfl

/-! ### OUTPUT frames to several stations (09 R284) -/

/-- The network block but for what sending moves and the slots. -/
def Net.stillS (n : Net) : Net := { n.still with slots := Net.reset.slots }

/-- Equal but for what sending moves and the slots. -/
theorem Net.stillS_eq {n m : Net} (h : m.stillS = n.stillS) :
    m = { n with sent := m.sent, txq := m.txq, unacked := m.unacked, prpSeq := m.prpSeq, lineAt := m.lineAt, txLate := m.txLate, cause := m.cause, slots := m.slots } := by
  cases n; cases m
  simp only [Net.stillS, Net.still, Net.mk.injEq] at h ⊢
  simp only [h, and_self]

theorem foldl_stillS {α : Type} {f : State → α → State} (hf : ∀ s x, (f s x).net.stillS = s.net.stillS) :
    ∀ (l : List α) (s : State), (l.foldl f s).net.stillS = s.net.stillS
  | [], _ => rfl
  | x :: l, s => by rw [List.foldl_cons, foldl_stillS hf l, hf]

/-- A queued OUTPUT frame enters its launch in its slot's record and moves nothing else but what sending moves. -/
theorem queueOutput_net (s : State) (i task beat launch : Nat) (pl : List Byte) :
    (s.queueOutput i task beat launch pl).net.stillS = s.net.stillS ∧
    (s.queueOutput i task beat launch pl).net.slots = vup s.net.slots i Slot.reset (fun x => { x with sentFor := insertNat launch x.sentFor }) := by
  have h := queueFrame_still (s.upSlot i (fun x => { x with sentFor := insertNat launch x.sentFor })) i (some launch) false
    (s.stFrame 2 (s.slotNode i) s.csw.term beat launch (s.frameFlags + 4 * bit (s.slot i).rejoin) task pl)
  constructor
  · have h2 := congrArg (fun n : Net => { n with slots := Net.reset.slots }) h
    exact h2
  · exact congrArg (fun n : Net => n.slots) h

theorem insertNat_keeps (x : Nat) : ∀ l : List Nat, x ∈ insertNat x l ∧ ∀ y ∈ l, y ∈ insertNat x l
  | [] => ⟨by simp [insertNat], by simp⟩
  | z :: l => by
    have ih := insertNat_keeps x l
    unfold insertNat
    split
    · exact ⟨by simp, fun y hy => by simp at hy ⊢; right; exact hy⟩
    · split
      · next h => exact ⟨by simp [h], fun y hy => hy⟩
      · exact ⟨by simp [ih.1], fun y hy => by
          rcases List.mem_cons.1 hy with h | h
          · simp [h]
          · simp [ih.2 y h]⟩

/-- Frames of one kind queued to a list of slots: every slot of the list has the launch in its record, no record loses one, and no other slot changes. -/
theorem foldl_queueOutput (task m l : Nat) (pl : List Byte) : ∀ (L : List Nat) (s : State), (∀ k ∈ L, k < 256) →
    ((L.foldl (fun acc i => acc.queueOutput i task m l pl) s).net.stillS = s.net.stillS) ∧
    (∀ k ∈ L, l ∈ ((L.foldl (fun acc i => acc.queueOutput i task m l pl) s).slot k).sentFor) ∧
    (∀ k, l ∈ (s.slot k).sentFor → l ∈ ((L.foldl (fun acc i => acc.queueOutput i task m l pl) s).slot k).sentFor) ∧
    (∀ k, k ∉ L → (L.foldl (fun acc i => acc.queueOutput i task m l pl) s).slot k = s.slot k)
  | [], s, _ => ⟨rfl, by simp, fun _ h => h, fun _ _ => rfl⟩
  | i :: L, s, hb => by
    obtain ⟨a, b⟩ := queueOutput_net s i task m l pl
    have hi : i < 256 := hb i (by simp)
    have hs : (s.queueOutput i task m l pl).slot i = { s.slot i with sentFor := insertNat l (s.slot i).sentFor } := by
      unfold State.slot; rw [b]; exact vget_vup_same hi _ _
    have ho : ∀ j, j ≠ i → (s.queueOutput i task m l pl).slot j = s.slot j := fun j hj => by
      unfold State.slot; rw [b]; exact vget_vup_ne hj _ _
    obtain ⟨c1, c2, c3, c4⟩ := foldl_queueOutput task m l pl L (s.queueOutput i task m l pl) (fun k hk => hb k (by simp [hk]))
    rw [List.foldl_cons]
    refine ⟨c1.trans a, fun k hk => ?_, fun k hk => ?_, fun k hk => ?_⟩
    · rcases List.mem_cons.1 hk with h | h
      · subst h
        exact c3 k (by rw [hs]; exact (insertNat_keeps l _).1)
      · exact c2 k h
    · refine c3 k ?_
      by_cases h : k = i
      · subst h; rw [hs]; exact (insertNat_keeps l _).2 l hk
      · rw [ho k h]; exact hk
    · simp at hk
      rw [c4 k hk.2, ho k hk.1]

/-- A frame sent again enters no new wait for an answer, and so does every frame that only such frames precede. -/
theorem queueFrame_retried (s : State) (slot : Nat) (launch : Option Nat) (b : List Byte) (hq : ∀ x ∈ s.net.txq, x.retried = true) :
    (s.queueFrame slot launch true b).net.unacked = s.net.unacked ∧ ∀ x ∈ (s.queueFrame slot launch true b).net.txq, x.retried = true := by
  have key : ∀ (l : List TxFrame) (u : State), (∀ x ∈ l, x.retried = true) → (∀ x ∈ u.net.txq, x.retried = true) →
      (l.foldl State.sendFrame u).net.unacked = u.net.unacked ∧ ∀ x ∈ (l.foldl State.sendFrame u).net.txq, x.retried = true := by
    intro l
    induction l with
    | nil => exact fun u _ h => ⟨rfl, h⟩
    | cons x l ih =>
      intro u h hu
      have hx : x.retried = true := h x (by simp)
      have e : (u.sendFrame x).net.unacked = u.net.unacked ∧ ∀ y ∈ (u.sendFrame x).net.txq, y.retried = true := by
        obtain ⟨a, b⟩ := sendFrame_net u x
        cases hp : (u.openPorts x).isEmpty
        · obtain ⟨n, h1, h2⟩ := b hp
          rw [h1, State.upNet_net, h2, hx]
          exact ⟨by simp, hu⟩
        · rw [a hp]
          refine ⟨rfl, fun y hy => ?_⟩
          simp only [State.upNet_net, List.mem_append, List.mem_singleton] at hy
          rcases hy with hy | hy
          · exact hu y hy
          · rw [hy]; exact hx
      rw [List.foldl_cons]
      obtain ⟨a, b⟩ := ih (u.sendFrame x) (fun y hy => h y (by simp [hy])) e.2
      exact ⟨a.trans e.1, b⟩
  obtain ⟨u, hu⟩ : ∃ u, u = s.upNet (fun n => { n with txq := n.txq ++ [{ slot := slot, bytes := b, launch := launch, sentAt := 0, retried := true }] }) := ⟨_, rfl⟩
  have hun : ∀ x ∈ u.net.txq, x.retried = true := by
    rw [hu]; intro x hx
    simp only [State.upNet_net, List.mem_append, List.mem_singleton] at hx
    rcases hx with hx | hx
    · exact hq x hx
    · rw [hx]
  have hdn := dropLate_net u u.clk.now
  obtain ⟨v, hv⟩ : ∃ v, v = u.dropLate u.clk.now := ⟨_, rfl⟩
  rw [← hv] at hdn
  have hvq : ∀ x ∈ v.net.txq, x.retried = true := by
    rw [hdn]; intro x hx
    exact hun x (List.mem_of_mem_filter hx)
  have e : s.queueFrame slot launch true b = v.net.txq.foldl State.sendFrame (v.upNet (fun n => { n with txq := [] })) := by
    unfold State.queueFrame State.drain
    dsimp only
    rw [← hu, ← hv]
  rw [e]
  obtain ⟨a, c⟩ := key v.net.txq (v.upNet (fun n => { n with txq := [] })) hvq (by simp)
  rw [a]
  refine ⟨?_, c⟩
  show v.net.unacked = _
  rw [hdn, hu]; rfl

/-- With nothing queued the queues have nothing to send. -/
theorem drain_none (s : State) (h : s.net.txq = []) : s.drain.net = { s.net with txLate := min 0xFFFFFFFF s.net.txLate } := by
  have e : (s.dropLate s.clk.now).net = { s.net with txLate := min 0xFFFFFFFF s.net.txLate } := dropLate_none s _ (by rw [h]; simp)
  unfold State.drain
  dsimp only
  rw [show (s.dropLate s.clk.now).net.txq = [] by rw [e]; exact h]
  show { (s.dropLate s.clk.now).net with txq := [] } = _
  rw [e, h]

end Sys2Proof.Machine
end

