-- ==== Sys2Proof/Laws/Nvp.lean ====
section
/-! SUPPORT. What the parameter-store controller does with a command that finds it idle or busy (Machine/Nvp.lean). -/

set_option Elab.async false
set_option linter.all false

namespace Sys2Proof.Machine

open Sys2Proof

variable (s : State)

/-- While a page step is in progress a command waits in arrival order. -/
theorem nvpServe_busy {s : State} (h : s.nvp.step.isSome = true) : ∀ n, s.nvpServe n = s
  | 0 => rfl
  | n + 1 => by
    unfold State.nvpServe
    cases hs : s.nvp.step
    · rw [hs] at h; cases h
    · rfl

/-- With no command waiting the controller rests. -/
theorem nvpServe_none {s : State} (h : s.nvp.cmds = []) : ∀ n, s.nvpServe n = s
  | 0 => rfl
  | n + 1 => by
    unfold State.nvpServe
    rw [h]
    cases s.nvp.step <;> rfl

/-- An idle controller begins the command that arrives. -/
theorem nvpGo_one {s : State} {c : NvpCmd} (hs : s.nvp.step = none) (hc : s.nvp.cmds = [c]) :
    s.nvpGo = (if c.op = .sys then ((s.upNvp (fun q => { q with cmds := [] })).nvpBegin c).useFree
      else (s.upNvp (fun q => { q with cmds := [] })).nvpBegin c) := by
  unfold State.nvpGo
  rw [hc]
  show s.nvpServe 1 = _
  unfold State.nvpServe
  rw [hs, hc]
  rfl

/-- A page write that begins: the erase step of its first page, with the marker. -/
theorem beginPages_cons (c : Option NvpCmd) (j : PageJob) (l : List PageJob) : s.beginPages c (j :: l) = s.beginErase c j false l := rfl

/-- An erase step that begins is the step in progress, and the marker names its page. -/
theorem beginErase_nvp (c : Option NvpCmd) (j : PageJob) (spare : Bool) (rest : List PageJob) :
    (s.beginErase c j spare rest).nvp.step = some ⟨c, j, true, spare, rest⟩ ∧ (s.beginErase c j spare rest).nvp.marker = some (j.page, true) ∧
    (s.beginErase c j spare rest).nvp.pages = s.nvp.pages ∧ (s.beginErase c j spare rest).nvp.cmds = s.nvp.cmds ∧
    (s.beginErase c j spare rest).host = s.host := ⟨rfl, rfl, rfl, rfl, rfl⟩

/-- The supervisor's write of a system record on an idle controller begins the page write of that record. -/
theorem storeSystem_idle {key : Nat} {v : List Byte} {r : Option Reply} (h1 : s.nvp.step = none) (h2 : s.nvp.cmds = [])
    (h3 : s.nvp.readOnly.contains (2 * (Config.systemRecord key % 768)) = false)
    (h4 : s.nvp.readOnly.contains (2 * (Config.systemRecord key % 768) + 1) = false) :
    ∃ p x, (s.storeSystem key v r).nvp.step = some p ∧ p.erasing = true ∧ p.cmd = some x ∧ x.key = key ∧ x.data = v ∧ x.reply = r ∧ x.op = .sys ∧
      (s.storeSystem key v r).nvp.pages = s.nvp.pages ∧ (∀ {L : Parts} {o : State}, L.nvp = true → L.free = true → Keep L o s → Keep L o (s.storeSystem key v r)) := by
  obtain ⟨c, hc⟩ : ∃ c : NvpCmd, c = { who := none, priv := true, op := .sys, record := Config.systemRecord key % 768, len := 0, page := 0, group := 0, count := 0, data := v, ecc := [], key := key, reply := r } := ⟨_, rfl⟩
  obtain ⟨u, hu⟩ : ∃ u : State, u = s.upNvp (fun q => { q with cmds := q.cmds ++ [c] }) := ⟨_, rfl⟩
  have e1 : s.storeSystem key v r = u.nvpGo := by rw [hu, hc]; rfl
  have hs : u.nvp.step = none := by rw [hu]; exact h1
  have hcm : u.nvp.cmds = [c] := by rw [hu]; show s.nvp.cmds ++ [c] = [c]; rw [h2]; rfl
  have hop : c.op = .sys := by rw [hc]
  have hro : (u.upNvp (fun q => { q with cmds := [] })).nvpRefusal c = none := by
    unfold State.nvpRefusal
    have : c.pages.any (u.upNvp (fun q => { q with cmds := [] })).nvp.readOnly.contains = false := by
      have hp : c.pages = [2 * (Config.systemRecord key % 768), 2 * (Config.systemRecord key % 768) + 1] := by rw [hc]; rfl
      rw [hp, hu]
      show ([2 * (Config.systemRecord key % 768), 2 * (Config.systemRecord key % 768) + 1] : List Nat).any s.nvp.readOnly.contains = false
      simp only [List.any_cons, List.any_nil, h3, h4, Bool.or_self]
    dsimp only
    rw [this, if_pos hop]; rfl
  rw [e1, nvpGo_one hs hcm, if_pos hop]
  have e2 : (u.upNvp (fun q => { q with cmds := [] })).nvpBegin c = (u.upNvp (fun q => { q with cmds := [] })).beginErase (some c)
      (u.nvp.recordJob c.record (Config.systemData u.free)) false [] := by
    unfold State.nvpBegin
    rw [hro]
    dsimp only
    rw [hop]
    rfl
  rw [e2]
  refine ⟨_, c, rfl, rfl, rfl, by rw [hc], by rw [hc], by rw [hc], hop, by rw [hu]; rfl, fun l1 l2 hK => ?_⟩
  rw [hu]
  exact State.useFree_keep (State.beginErase_keep ((hK.upNvp _ l1).upNvp _ l1) _ _ _ _ l1) l2

/-- An update of the controller that changes nothing leaves the state. -/
theorem upNvp_self {s : State} {f : Nvp → Nvp} (h : f s.nvp = s.nvp) : s.upNvp f = s := by
  unfold State.upNvp
  rw [h]

/-- Two updates of one master's registers are one. -/
theorem upMregs_upMregs (m : Master) (f g : MasterRegs → MasterRegs) : (s.upMregs m f).upMregs m g = s.upMregs m (fun x => g (f x)) := by
  have hm5 : masterCode m < 5 := by cases m <;> decide
  unfold State.upMregs State.upHost
  simp only [vup, vset, vget]
  congr 2
  simp [hm5]

/-- What a master's registers hold after an update of them. -/
theorem upMregs_same (m : Master) (f : MasterRegs → MasterRegs) : (s.upMregs m f).mregs m = f (s.mregs m) :=
  vget_vup_same (by cases m <;> decide) _ _

/-- An idle controller begins a master's command at once; the master is busy. -/
theorem nvpGive_idle {s : State} {c : NvpCmd} {m : Master} (hw : c.who = some m) (hop : c.op ≠ .sys) (hs : s.nvp.step = none) (hc : s.nvp.cmds = []) :
    s.nvpGive c = (s.upMregs m (fun r => { r with nvpBusy := true })).nvpBegin c := by
  have e : s.nvpGive c = ((s.upMregs m (fun r => { r with nvpBusy := true })).upNvp (fun q => { q with cmds := q.cmds ++ [c] })).nvpGo := by
    unfold State.nvpGive
    rw [hw]
  have e2 : (((s.upMregs m (fun r => { r with nvpBusy := true })).upNvp (fun q => { q with cmds := q.cmds ++ [c] })).upNvp (fun q => { q with cmds := [] })) =
      s.upMregs m (fun r => { r with nvpBusy := true }) := by
    refine (upNvp_self (f := fun q => { q with cmds := [] }) (s := s.upMregs m (fun r => { r with nvpBusy := true })) ?_)
    show ({ s.nvp with cmds := [] } : Nvp) = s.nvp
    rw [← hc]
  rw [e, @nvpGo_one ((s.upMregs m (fun r => { r with nvpBusy := true })).upNvp (fun q => { q with cmds := q.cmds ++ [c] })) c hs
    (by show s.nvp.cmds ++ [c] = [c]; rw [hc]; rfl), if_neg hop, e2]

/-- A command that is refused ends with the result that refuses it, and nothing else happens. -/
theorem nvpGive_refused {s : State} {c : NvpCmd} {m : Master} {k : Nat} (hw : c.who = some m) (hop : c.op ≠ .sys) (hs : s.nvp.step = none) (hc : s.nvp.cmds = [])
    (hr : s.nvpRefusal c = some k) : s.nvpGive c = s.upMregs m (fun r => { r with nvpBusy := false, nvpResult := k, nvpUncorr := false }) := by
  rw [nvpGive_idle hw hop hs hc]
  unfold State.nvpBegin
  rw [show (s.upMregs m (fun r => { r with nvpBusy := true })).nvpRefusal c = some k from hr]
  unfold State.nvpEnd
  rw [hw]
  exact upMregs_upMregs s m _ _

/-- A record read that finds no error and no tie leaves LENGTH and DATA of the selected copy, or LENGTH 0 (15 R439). -/
theorem recordRead_clean {s : State} {c : NvpCmd} {m : Master} (he : c.ecc = []) (h0 : (s.nvp.page (2 * c.record)).bad = [])
    (h1 : (s.nvp.page (2 * c.record + 1)).bad = []) (ht : (chooseCopy (s.nvp.page (2 * c.record)) (s.nvp.page (2 * c.record + 1))).2 = false) :
    s.recordRead c m = match s.nvp.selected c.record with
      | none => (s.upMregs m (fun r => { r with nvpTie := false, nvpLen := 0 })).nvpEnd c resEmpty false
      | some p => (s.upMregs m (fun r => { r with nvpTie := false, nvpLen := p.len, nvpBuf := memPut r.nvpBuf 0 p.content })).nvpEnd c resOk false := by
  have e0 : s.takeEcc [] = s := rfl
  unfold State.recordRead
  rw [he]
  have p0 : ∀ k, (s.nvp.page k).bad = [] → s.pageUncorr k = s := fun k h => by unfold State.pageUncorr; rw [h]; rfl
  simp only [List.filter_nil, e0, p0 _ h0, p0 _ h1, h0, h1, ht, List.isEmpty_nil, Bool.not_true, Bool.or_self, Bool.false_eq_true, if_false, List.any_nil]
  rw [show (s.upMregs m fun r => { r with nvpTie := false }).nvp = s.nvp from rfl]
  cases s.nvp.selected c.record
  · dsimp only
    rw [upMregs_upMregs]
  · dsimp only
    rw [upMregs_upMregs]

/-- A raw range that stays within its first page touches that page alone. -/
theorem parts_one {c : NvpCmd} (h1 : 1 ≤ c.count) (h2 : c.group + c.count ≤ 16) : c.parts = [(c.page, c.group, c.count)] := by
  unfold NvpCmd.parts rawParts
  rw [if_neg (by omega)]
  have : min c.count (16 - c.group) = c.count := by omega
  rw [this, Nat.sub_self]
  rfl

/-- A raw read of one page that finds no error puts its groups into the master's buffer (15 R444). -/
theorem rawRead_clean {s : State} {c : NvpCmd} {m : Master} (he : c.ecc = []) (h0 : (s.nvp.page c.page).bad = [])
    (h1 : 1 ≤ c.count) (h2 : c.group + c.count ≤ 16) :
    s.rawRead c m = (s.upMregs m (fun r => { r with nvpBuf := memPut r.nvpBuf 0 ((List.range c.count).flatMap (fun i => (s.nvp.page c.page).group (c.group + i))) })).nvpEnd c resOk false := by
  have e0 : s.takeEcc [] = s := rfl
  have hb : ((List.range c.count).any (fun i => ([] : List Nat).contains (c.group + i))) = false := by simp
  have hx : ∀ k, eccOn [] k = false := fun _ => rfl
  unfold State.rawRead
  rw [he, parts_one h1 h2]
  dsimp only
  rw [List.filter_nil, e0]
  simp only [List.filter_cons, List.filter_nil, List.flatMap_cons, List.flatMap_nil, List.append_nil, List.map_cons, List.map_nil, h0, hb, hx,
    Bool.false_and, Bool.false_eq_true, if_false, List.foldl_nil, List.isEmpty_nil, Bool.not_true, if_true]
  rfl

/-- Where no copy is selected there is no tie (15 R439). -/
theorem chooseCopy_none {lo hi : Page} (h : (chooseCopy lo hi).1 = none) : (chooseCopy lo hi).2 = false := by
  revert h
  unfold chooseCopy
  generalize lo.valid = a, hi.valid = b
  cases a <;> cases b <;> dsimp only
  · exact fun _ => rfl
  · exact fun h => by cases h
  · exact fun h => by cases h
  · intro h
    split at h
    · cases h
    · split at h
      · cases h
      · split at h <;> cases h

/-- A record has no selected copy exactly where R439 chooses none. -/
theorem selected_none {n : Nvp} {r : Nat} (h : n.selected r = none) : (chooseCopy (n.page (2 * r)) (n.page (2 * r + 1))).1 = none := by
  unfold Nvp.selected at h
  cases hc : (chooseCopy (n.page (2 * r)) (n.page (2 * r + 1))).1
  · rfl
  · rw [hc] at h; cases h

/-- A number put into a list of numbers is in it. -/
theorem insertNat_mem (x : Nat) : ∀ l : List Nat, (insertNat x l).contains x = true
  | [] => by simp [insertNat]
  | y :: l => by
    unfold insertNat
    split
    · simp
    · split
      · simp_all
      · simp only [List.contains_cons, insertNat_mem x l, Bool.or_true]

end Sys2Proof.Machine
end

