-- ==== Sys2Proof/Laws/Recorder.lean ====
section
/-! SUPPORT. What the recorder service does with one occurrence, and what a cause bit of the recorder leaves of the log (Machine/Recorder.lean, Machine/RecordWrite.lean). -/

set_option Elab.async false
set_option linter.all false

namespace Sys2Proof.Machine

open Sys2Proof

variable (s : State)

/-- An occurrence leaves the records, the SEQ, a clear in progress and the cause bits but QUEUE_FULL, and only lengthens the queue. -/
theorem occurSev_evr (code source sev : Nat) (d : List Byte) :
    (s.occurSev code source sev d).evr.recs = s.evr.recs ∧ (s.occurSev code source sev d).evr.nextSeq = s.evr.nextSeq ∧
    (s.occurSev code source sev d).evr.clearing = s.evr.clearing ∧
    (∀ b, b < 32 → b ≠ 2 → (s.occurSev code source sev d).evr.cause.getLsbD b = s.evr.cause.getLsbD b) ∧
    s.evr.queue <+: (s.occurSev code source sev d).evr.queue ∧
    (s.evr.queue.length < 64 → (s.occurSev code source sev d).evr.drops = s.evr.drops ∧ (s.occurSev code source sev d).evr.cause = s.evr.cause) ∧
    (s.evr.cause.getLsbD 2 = true → (s.occurSev code source sev d).evr.cause.getLsbD 2 = true) := by
  unfold State.occurSev
  by_cases hh : s.evr.queue.length < 64
  · rw [if_pos hh]
    exact ⟨rfl, rfl, rfl, fun _ _ _ => rfl, List.prefix_append .., fun _ => ⟨rfl, rfl⟩, id⟩
  · rw [if_neg hh]
    have key : ∀ (e : Evr) (x : Bool), (if x then e else e.drop 5).recs = e.recs ∧ (if x then e else e.drop 5).nextSeq = e.nextSeq ∧
        (if x then e else e.drop 5).clearing = e.clearing ∧ (if x then e else e.drop 5).cause = e.cause ∧ (if x then e else e.drop 5).queue = e.queue := by
      intro e x; cases x <;> exact ⟨rfl, rfl, rfl, rfl, rfl⟩
    obtain ⟨a1, a2, a3, a4, a5⟩ := key (s.evr.drop sev) ((s.evr.drop sev).cause.getLsbD 2)
    refine ⟨a1, a2, a3, fun b hb h2 => ?_, a5 ▸ List.prefix_rfl, fun h' => absurd h' hh, fun _ => ?_⟩
    · refine (congrArg (fun w => (setBit w 2 true).getLsbD b) a4).trans ?_
      show (setBit _ 2 true).getLsbD b = _
      rw [setBit_getLsbD _ _ _ _ hb, if_neg (Ne.symm h2)]; rfl
    · refine (congrArg (fun w => (setBit w 2 true).getLsbD 2) a4).trans ?_
      show (setBit _ 2 true).getLsbD 2 = _
      rw [setBit_getLsbD _ _ _ _ (by omega)]; simp

/-- A cause bit of the recorder leaves the records, the SEQ and a clear in progress, and only lengthens the queue. -/
theorem evrCause_evr (b : Nat) : (s.evrCause b).evr.recs = s.evr.recs ∧ (s.evrCause b).evr.nextSeq = s.evr.nextSeq ∧
    (s.evrCause b).evr.clearing = s.evr.clearing ∧ (b < 32 → (s.evrCause b).evr.cause.getLsbD b = true) ∧ s.evr.queue <+: (s.evrCause b).evr.queue ∧
    (s.evr.queue.length < 64 → (s.evrCause b).evr.drops = s.evr.drops) := by
  obtain ⟨a1, a2, a3, a4, a5, a6, a7⟩ := occurSev_evr (s.upEvr (fun h => { h with cause := setBit h.cause b true })) (0x0700 + b) 0 (severityOf (0x0700 + b) (byteAt [] 0)) []
  have hb : b < 32 → (s.upEvr (fun h => { h with cause := setBit h.cause b true })).evr.cause.getLsbD b = true := by
    intro h
    show (setBit _ b true).getLsbD b = true
    rw [setBit_getLsbD _ _ _ _ h]; simp
  refine ⟨a1, a2, a3, fun h => ?_, a5, fun h => (a6 h).1⟩
  by_cases h2 : b = 2
  · subst h2; exact a7 (hb h)
  · exact (a4 b h h2).trans (hb h)

/-- A refused access leaves the log and its clear; its record only enters the queue. -/
theorem accessFault_evr (m : Master) (addr f : Nat) :
    (s.accessFault m addr f).evr.recs = s.evr.recs ∧ (s.accessFault m addr f).evr.clearing = s.evr.clearing := by
  unfold State.accessFault
  obtain ⟨a1, a2, a3, -⟩ := occurSev_evr (s.upHost (fun h => if s.host.fault.getLsbD 0 then { h with fault := setBit (setBit s.host.fault f true) 6 true }
    else { h with fault := setBit ((s.host.fault &&& ~~~ 0x700#32) ||| w32 (1 + 256 * masterCode m)) f true, faultAddr := addr })) (0x0500 + f) (masterCode m)
      (severityOf (0x0500 + f) (byteAt (leBytes 4 addr) 0)) (leBytes 4 addr)
  exact ⟨a1, a3⟩

/-- The record that makes room is the first, in SEQ order, that may be overwritten. -/
theorem makeRoom_some {sev : Nat} {x : Rec} (hx : sev ≤ x.rank) (b : List Rec) : ∀ a : List Rec, (∀ y ∈ a, y.rank < sev) →
    makeRoom sev (a ++ x :: b) = some (a ++ b)
  | [], _ => by simp [makeRoom, hx]
  | y :: a, h => by
    have hy := h y List.mem_cons_self
    rw [List.cons_append, makeRoom, if_neg (by omega), makeRoom_some hx b a (fun z hz => h z (List.mem_cons_of_mem _ hz))]
    rfl

theorem makeRoom_none {sev : Nat} : ∀ a : List Rec, (∀ y ∈ a, y.rank < sev) → makeRoom sev a = none
  | [], _ => rfl
  | y :: a, h => by
    have hy := h y List.mem_cons_self
    rw [makeRoom, if_neg (by omega), makeRoom_none a (fun z hz => h z (List.mem_cons_of_mem _ hz))]
    rfl

/-- A record that is taken, when no trigger matches it. -/
theorem newRecord_put {o : Occ} {e : Evr} (h : s.evr.put o = some e) (ht : s.trigger o = none) :
    s.newRecord o = if o.sev ≤ s.evr.level ∧ o.code / 256 ≠ 7 then (s.upEvr (fun _ => e)).evrCause 0 else s.upEvr (fun _ => e) := by
  have hl : e.level = s.evr.level := by
    unfold Evr.put at h
    obtain ⟨l, -, rfl⟩ := Option.map_eq_some_iff.mp h
    rfl
  unfold State.newRecord
  rw [h]
  have ht' : (s.upEvr (fun _ => e)).trigActs o s.evr.nextSeq = s.upEvr (fun _ => e) := by
    unfold State.trigActs
    rw [show (s.upEvr (fun _ => e)).trigger o = none from ht]
  unfold State.recordDone
  simp only [ht', State.upEvr_evr, hl]

/-- The log after a record that no trigger matches. -/
theorem newRecord_evr {o : Occ} {l : List Rec} (ht : s.trigger o = none)
    (hr : (if s.evr.recs.length < slotCount then some s.evr.recs else makeRoom o.sev s.evr.recs) = some l) :
    (s.newRecord o).evr.recs = l ++ [o.record s.evr.nextSeq] ∧ (s.newRecord o).evr.nextSeq = (s.evr.nextSeq + 1) % 2 ^ 32 ∧
    s.evr.queue <+: (s.newRecord o).evr.queue ∧ (s.evr.queue.length < 64 → (s.newRecord o).evr.drops = s.evr.drops) ∧
    (o.sev ≤ s.evr.level → o.code / 256 ≠ 7 → (s.newRecord o).evr.cause.getLsbD 0 = true) ∧
    (∀ {L : Parts} {q : State}, L.evr = true → s.evr.queue.length ≤ 64 → Keep L q s → Keep L q (s.newRecord o)) := by
  have hp : s.evr.put o = some { s.evr with recs := l ++ [o.record s.evr.nextSeq], nextSeq := (s.evr.nextSeq + 1) % 2 ^ 32 } := by
    unfold Evr.put
    dsimp only
    rw [hr]; rfl
  rw [newRecord_put s hp ht]
  have hk : ∀ {L : Parts} {q : State}, L.evr = true → s.evr.queue.length ≤ 64 → Keep L q s → Keep L q (s.upEvr (fun _ => { s.evr with recs := l ++ [o.record s.evr.nextSeq], nextSeq := (s.evr.nextSeq + 1) % 2 ^ 32 })) :=
    fun l h k => k.upEvr (fun _ => h) l
  split
  · obtain ⟨a1, a2, a3, a4, a5, a6⟩ := evrCause_evr (s.upEvr (fun _ => { s.evr with recs := l ++ [o.record s.evr.nextSeq], nextSeq := (s.evr.nextSeq + 1) % 2 ^ 32 })) 0
    exact ⟨a1, a2, a5, a6, fun _ _ => a4 (by omega), fun l h k => State.evrCause_keep (hk l h k) 0 l⟩
  · next h => exact ⟨rfl, rfl, List.prefix_rfl, fun _ => rfl, fun h1 h2 => absurd ⟨h1, h2⟩ h, fun l h k => hk l h k⟩

/-- A record that keeps what it was written with. -/
def Rec.Same (k : Rec → Rec) : Prop :=
  ∀ r : Rec, (k r).code = r.code ∧ (k r).source = r.source ∧ (k r).sev = r.sev ∧ (k r).detail = r.detail ∧ (k r).seq = r.seq

/-- An occurrence lengthens the queue by one at most. -/
theorem occurSev_length (code source sev : Nat) (d : List Byte) :
    (s.occurSev code source sev d).evr.queue.length ≤ s.evr.queue.length + 1 := by
  unfold State.occurSev
  by_cases hh : s.evr.queue.length < 64
  · rw [if_pos hh]
    show (s.evr.queue ++ [_]).length ≤ _
    rw [List.length_append]; exact Nat.le_refl _
  · rw [if_neg hh]
    have key : ∀ (e : Evr) (x : Bool), (if x then e else e.drop 5).queue = e.queue := by intro e x; cases x <;> rfl
    show (if ((s.evr.drop sev).cause.getLsbD 2) = true then s.evr.drop sev else (s.evr.drop sev).drop 5).queue.length ≤ _
    rw [key]; exact Nat.le_succ _

/-- An occurrence leaves EVR_LEVEL. -/
theorem occurSev_level (code source sev : Nat) (d : List Byte) : (s.occurSev code source sev d).evr.level = s.evr.level := by
  unfold State.occurSev
  by_cases hh : s.evr.queue.length < 64
  · rw [if_pos hh]; rfl
  · rw [if_neg hh]
    have key : ∀ (e : Evr) (x : Bool), (if x then e else e.drop 5).level = e.level := by intro e x; cases x <;> rfl
    exact key _ ((s.evr.drop sev).cause.getLsbD 2)

/-- The actions of a trigger keep every record's code, source, severity, DETAIL and SEQ, the SEQ to come, a clear and the cause bits but QUEUE_FULL, and only lengthen the queue; they reach the store, the log, the execution causes and the trace. -/
theorem trigActs_evr (o : Occ) (q : Nat) : (∃ k, Rec.Same k ∧ (s.trigActs o q).evr.recs = s.evr.recs.map k) ∧ (s.trigActs o q).evr.nextSeq = s.evr.nextSeq ∧
    (s.trigActs o q).evr.clearing = s.evr.clearing ∧ (∀ b, b < 32 → b ≠ 2 → (s.trigActs o q).evr.cause.getLsbD b = s.evr.cause.getLsbD b) ∧
    s.evr.queue <+: (s.trigActs o q).evr.queue ∧ (s.trigActs o q).evr.queue.length ≤ s.evr.queue.length + 1 ∧
    (s.evr.queue.length < 64 → (s.trigActs o q).evr.drops = s.evr.drops) ∧ (s.trigActs o q).evr.level = s.evr.level ∧
    (s.trigger o = none → s.trigActs o q = s) ∧
    (∀ {L : Parts} {z : State}, Keep L z s → L.sto = true → L.host = true → L.evr = true → L.trc = true → Keep L z (s.trigActs o q)) := by
  have put : ∀ k, Rec.Same k → Rec.Same (fun r : Rec => if r.seq = q then k r else r) := by
    intro k hk r
    by_cases h : r.seq = q
    · simp only [h, if_true]; have := hk r; rw [h] at this; exact this
    · simp [h]
  have hid : Rec.Same (fun r => r) := fun _ => ⟨rfl, rfl, rfl, rfl, rfl⟩
  have hat : ∀ i b, (∃ k, Rec.Same k ∧ (s.attachSnap q i b).evr.recs = s.evr.recs.map k) ∧ (s.attachSnap q i b).evr.nextSeq = s.evr.nextSeq ∧
      (s.attachSnap q i b).evr.clearing = s.evr.clearing ∧ (∀ c, c < 32 → c ≠ 2 → (s.attachSnap q i b).evr.cause.getLsbD c = s.evr.cause.getLsbD c) ∧
      s.evr.queue <+: (s.attachSnap q i b).evr.queue ∧ (s.attachSnap q i b).evr.queue.length ≤ s.evr.queue.length + 1 ∧
      (s.evr.queue.length < 64 → (s.attachSnap q i b).evr.drops = s.evr.drops) ∧ (s.attachSnap q i b).evr.level = s.evr.level := by
    intro i b
    unfold State.attachSnap
    dsimp only
    by_cases h1 : (s.sto.isOpen && s.clk.running) = true
    · rw [if_pos h1]
      by_cases h2 : s.snapFits b = true
      · rw [if_pos h2]
        exact ⟨⟨_, put (fun r => { r with snapPending := true, snapWords := b.length / 4, trigger := i }) (fun _ => ⟨rfl, rfl, rfl, rfl, rfl⟩), rfl⟩,
          rfl, rfl, fun _ _ _ => rfl, List.prefix_rfl, Nat.le_succ _, fun _ => rfl, rfl⟩
      · rw [if_neg h2]
        unfold State.exeCause State.occur
        obtain ⟨z, hz⟩ : ∃ z : State, z = (s.upEvr (fun e => { e with recs := e.recs.map (fun r => if r.seq = q then { r with snapOmitted := true, trigger := i } else r) })).upHost
          (fun h => { h with exeCause := setBit h.exeCause 3 true }) := ⟨_, rfl⟩
        rw [← hz]
        obtain ⟨a1, a2, a3, a4, a5, a6, a7⟩ := occurSev_evr z (0x0100 + 3) 0 (severityOf (0x0100 + 3) (byteAt [] 0)) []
        have a8 := occurSev_length z (0x0100 + 3) 0 (severityOf (0x0100 + 3) (byteAt [] 0)) []
        have a9 := occurSev_level z (0x0100 + 3) 0 (severityOf (0x0100 + 3) (byteAt [] 0)) []
        refine ⟨⟨_, put (fun r => { r with snapOmitted := true, trigger := i }) (fun _ => ⟨rfl, rfl, rfl, rfl, rfl⟩), a1.trans (by rw [hz]; rfl)⟩, ?_, ?_, ?_, ?_, ?_, ?_, ?_⟩
        · rw [a2, hz]; rfl
        · rw [a3, hz]; rfl
        · intro c hc h; rw [a4 c hc h, hz]; rfl
        · rw [show s.evr.queue = z.evr.queue by rw [hz]; rfl]; exact a5
        · rw [show s.evr.queue = z.evr.queue by rw [hz]; rfl]; exact a8
        · rw [show s.evr.queue = z.evr.queue by rw [hz]; rfl, show s.evr.drops = z.evr.drops by rw [hz]; rfl]; exact fun h => (a6 h).1
        · rw [a9, hz]; rfl
    · rw [if_neg h1]
      exact ⟨⟨_, put (fun r => { r with snapWords := b.length / 4, trigger := i, snap := b }) (fun _ => ⟨rfl, rfl, rfl, rfl, rfl⟩), rfl⟩,
        rfl, rfl, fun _ _ _ => rfl, List.prefix_rfl, Nat.le_succ _, fun _ => rfl, rfl⟩
  have hfr : ∀ z : State, z.freezeReq.evr = z.evr := by
    intro z; unfold State.freezeReq; split <;> rfl
  have hsame : (∃ k, Rec.Same k ∧ s.evr.recs = s.evr.recs.map k) := ⟨fun r => r, hid, (List.map_id' _).symm⟩
  have hmain : (∃ k, Rec.Same k ∧ (s.trigActs o q).evr.recs = s.evr.recs.map k) ∧ (s.trigActs o q).evr.nextSeq = s.evr.nextSeq ∧
      (s.trigActs o q).evr.clearing = s.evr.clearing ∧ (∀ b, b < 32 → b ≠ 2 → (s.trigActs o q).evr.cause.getLsbD b = s.evr.cause.getLsbD b) ∧
      s.evr.queue <+: (s.trigActs o q).evr.queue ∧ (s.trigActs o q).evr.queue.length ≤ s.evr.queue.length + 1 ∧
      (s.evr.queue.length < 64 → (s.trigActs o q).evr.drops = s.evr.drops) ∧ (s.trigActs o q).evr.level = s.evr.level := by
    unfold State.trigActs
    cases h : s.trigger o with
    | none => exact ⟨hsame, rfl, rfl, fun _ _ _ => rfl, List.prefix_rfl, Nat.le_succ _, fun _ => rfl, rfl⟩
    | some i =>
      dsimp only
      by_cases h0 : (s.trig i 4).testBit 0 = true
      · rw [if_pos h0]
        by_cases h1 : (s.trig i 4).testBit 1 = true
        · rw [if_pos h1, hfr]; exact hat i _
        · rw [if_neg h1]; exact hat i _
      · rw [if_neg h0]
        by_cases h1 : (s.trig i 4).testBit 1 = true
        · rw [if_pos h1, hfr]; exact ⟨hsame, rfl, rfl, fun _ _ _ => rfl, List.prefix_rfl, Nat.le_succ _, fun _ => rfl, rfl⟩
        · rw [if_neg h1]; exact ⟨hsame, rfl, rfl, fun _ _ _ => rfl, List.prefix_rfl, Nat.le_succ _, fun _ => rfl, rfl⟩
  obtain ⟨m1, m2, m3, m4, m5, m6, m7, m8⟩ := hmain
  refine ⟨m1, m2, m3, m4, m5, m6, m7, m8, fun h => ?_, fun hk l1 l2 l3 l4 => ?_⟩
  · unfold State.trigActs; rw [h]
  · unfold State.trigActs
    cases h : s.trigger o with
    | none => exact hk
    | some i => exact Keep.ite (State.freezeReq_keep (Keep.ite (State.attachSnap_keep hk _ _ _) hk)) (Keep.ite (State.attachSnap_keep hk _ _ _) hk)

/-- The errors that a read of the recorder region finds leave a clear, and what each master has latched. -/
theorem recorderReads_evr (l : List Ecc) : ∀ s : State, (s.recorderReads l).evr.clearing = s.evr.clearing ∧ (s.recorderReads l).host.regs = s.host.regs := by
  have hm : ∀ (z : State) b src d, (z.memCause b src d).evr.clearing = z.evr.clearing ∧ (z.memCause b src d).host.regs = z.host.regs := by
    intro z b src d
    exact ⟨(occurSev_evr (z.upHost (fun h => { h with memCause := setBit h.memCause b true })) _ _ _ _).2.2.1, by rw [State.memCause_host]⟩
  induction l with
  | nil => exact fun _ => ⟨rfl, rfl⟩
  | cons x t ih =>
    intro s
    obtain ⟨z, hz⟩ : ∃ z : State, z = (if x.mem ≠ .recorder then s else if x.hard then s.recordUncorr (x.addr / 256) else s.corrected .recorder x.addr) := ⟨_, rfl⟩
    have h : z.evr.clearing = s.evr.clearing ∧ z.host.regs = s.host.regs := by
      rw [hz]
      split
      · exact ⟨rfl, rfl⟩
      · split
        · unfold State.recordUncorr
          split
          · exact ⟨rfl, rfl⟩
          · next y _ =>
            obtain ⟨w, hw⟩ : ∃ w : State, w = s.upEvr (fun e => { e with recs := e.recs.map (fun r => if r.seq = y.seq then r.corrupted else r) }) := ⟨_, rfl⟩
            dsimp only
            rw [← hw]
            refine ⟨(evrCause_evr _ 3).2.2.1.trans ((hm w 1 _ _).1.trans (by rw [hw]; rfl)), ?_⟩
            rw [State.evrCause_host]
            exact (hm w 1 _ _).2.trans (by rw [hw]; rfl)
        · unfold State.corrected
          dsimp only
          split
          · exact ⟨(hm _ _ _ _).1.trans ((hm _ _ _ _).1.trans rfl), (hm _ _ _ _).2.trans ((hm _ _ _ _).2.trans rfl)⟩
          · exact ⟨(hm _ _ _ _).1.trans rfl, (hm _ _ _ _).2.trans rfl⟩
    have e : s.recorderReads (x :: t) = z.recorderReads t := by rw [hz]; rfl
    rw [e]
    exact ⟨(ih z).1.trans h.1, (ih z).2.trans h.2⟩

end Sys2Proof.Machine
end

