-- ==== Sys2Proof/Laws/Reset.lean ====
section
/-! SUPPORT. What a device reset leaves: the machine with only what outlasts it (Machine/Reset.lean). -/

set_option Elab.async false
set_option linter.all false

namespace Sys2Proof.Machine

open Sys2Proof

variable (s : State)

/-- A device reset keeps of the machine what outlasts a powered period, after the open half, the beats, the journal and a bank in progress have been settled. -/
theorem deviceReset_eq : ∃ u : State, Keep { clk := true, sto := true, evr := true, trc := true, fw := true } s u ∧
    s.deviceReset = (u.metDown.keepTime.retained true).upPwr (fun p => { p with ref := .deviceReset }) := by
  have k1 : Keep { clk := true, sto := true, evr := true, trc := true, fw := true } s ((if s.governs then s.abandonOpen else s).stopBeats.journalEnds) :=
    State.journalEnds_keep (State.stopBeats_keep (by split; exact State.abandonOpen_keep (Keep.refl s); exact Keep.refl s))
  exact ⟨_, (State.fwReset_keep k1).upFw _, rfl⟩

/-- What of the register block, the tasks, the dictionary and the partition is left by a device reset. -/
theorem deviceReset_left : s.deviceReset.wdg = { Wdg.reset with resets := s.wdg.resets, lastSlot := s.wdg.lastSlot, lastKind := s.wdg.lastKind } ∧
    s.deviceReset.clk = State.reset.clk ∧ s.deviceReset.tasks = State.reset.tasks ∧ s.deviceReset.pwr.started = false ∧ s.deviceReset.pwr.ref = .deviceReset ∧
    s.deviceReset.pwr.role = s.pwr.role ∧ s.deviceReset.dict = s.dict.retained true ∧ s.deviceReset.met.audit = s.met.audit ∧
    s.deviceReset.met.events = s.met.events ∧ s.deviceReset.host = s.host.retained true ∧ s.deviceReset.pending = s.pending := by
  obtain ⟨u, k, e⟩ := deviceReset_eq s
  rw [e]
  have hw := k.frame.wdg rfl
  have hp := k.frame.pwr rfl
  have hd := k.frame.dict rfl
  have hm := k.frame.met rfl
  have hq := k.frame.pending
  have hh := k.frame.host rfl
  refine ⟨?_, rfl, rfl, rfl, rfl, show u.pwr.role = s.pwr.role by rw [hp], congrArg (Dict.retained · true) hd, show u.met.audit = s.met.audit by rw [hm],
    show u.met.events = s.met.events by rw [hm], ?_, hq⟩
  · show ({ Wdg.reset with resets := u.wdg.resets, lastSlot := u.wdg.lastSlot, lastKind := u.wdg.lastKind } : Wdg) = _
    rw [hw]
  · show u.host.retained true = s.host.retained true
    rw [← hh]; rfl

end Sys2Proof.Machine
end

