-- ==== Sys2Proof/Laws/Rtc.lean ====
section
/-! SUPPORT. What a wake event does, and one tick of the calendar without a set in progress (Machine/Rtc.lean). -/

set_option Elab.async false
set_option linter.all false

namespace Sys2Proof.Machine

open Sys2Proof

variable (s : State)

/-- A wake event sets its pending bit and wakes a parked module when an enabled bit is pending. -/
theorem wakeEvent_eq {b : Nat} (h : s.pwr.aoRunning = true) :
    (s.wakeEvent b).rtc.wakePend = s.rtc.wakePend ||| (1#6 <<< b) ∧
    (s.pwr.state = .parked ∧ (s.rtc.wakePend ||| (1#6 <<< b)) &&& s.wakeEnabled ≠ 0 →
      (s.wakeEvent b).pwr = { s.pwr with state := .run, domains := 0x003#12, ref := .wake, started := false, stopped := false } ∧
      (s.wakeEvent b).rtc = { s.rtc with wakePend := s.rtc.wakePend ||| (1#6 <<< b), wakeSrc := (s.rtc.wakePend ||| (1#6 <<< b)) &&& s.wakeEnabled }) ∧
    (¬ (s.pwr.state = .parked ∧ (s.rtc.wakePend ||| (1#6 <<< b)) &&& s.wakeEnabled ≠ 0) →
      (s.wakeEvent b).pwr = s.pwr ∧ (s.wakeEvent b).rtc = { s.rtc with wakePend := s.rtc.wakePend ||| (1#6 <<< b) }) ∧
    (s.wakeEvent b).evr = s.evr := by
  have e : s.wakeEvent b = if s.pwr.state = .parked ∧ (s.rtc.wakePend ||| (1#6 <<< b)) &&& s.wakeEnabled ≠ 0 then
      (s.upRtc (fun r => { r with wakePend := r.wakePend ||| (1#6 <<< b), wakeSrc := (s.rtc.wakePend ||| (1#6 <<< b)) &&& s.wakeEnabled })).upPwr
        (fun p => { p with state := .run, domains := 0x003#12, ref := .wake, started := false, stopped := false })
      else s.upRtc (fun r => { r with wakePend := r.wakePend ||| (1#6 <<< b) }) := by
    unfold State.wakeEvent
    rw [if_pos h]
    rfl
  rw [e]
  by_cases hc : s.pwr.state = .parked ∧ (s.rtc.wakePend ||| (1#6 <<< b)) &&& s.wakeEnabled ≠ 0
  · rw [if_pos hc]
    exact ⟨rfl, fun _ => ⟨rfl, rfl⟩, fun h => absurd hc h, rfl⟩
  · rw [if_neg hc]
    exact ⟨rfl, fun h => absurd h hc, fun _ => ⟨rfl, rfl⟩, rfl⟩

/-- A system record that is no entry's is stored and has no effect. -/
theorem storeValue_system {key : Nat} (h : entryAt (key / 256) (key % 256) = none) (v : List Byte) :
    s.storeValue key v = (s.upDict (fun d => { d with stored := aput key v d.stored }), 0) := by
  unfold State.storeValue
  dsimp only
  rw [h]

/-- A system record written at once touches the parameter store, the stored values and the free values alone. -/
theorem storeNow_keep {o : State} {L : Parts} {key : Nat} (h : entryAt (key / 256) (key % 256) = none) (v : List Byte) (hK : Keep L o s)
    (lNvp : L.nvp = true) (lDict : L.dict = true) (lFree : L.free = true) : Keep L o (s.storeNow key v) := by
  unfold State.storeNow
  dsimp only
  rw [storeValue_system _ h]
  dsimp only
  have h1 := fun k => State.useFree_keep (hK.upNvp k)
  refine Keep.upDict (h1 _) ?_ lDict
  rfl

/-- One tick with no set in progress counts with the shift. -/
theorem calTick_count (h : s.pwr.aoRunning = true) (hb : s.rtc.setBusy = none) :
    s.calTick =
      let r : Rtc := { s.rtc with ticks := s.rtc.ticks + 1, trim := s.rtc.trimNext.getD s.rtc.trim, trimNext := none }
      let u := (s.upRtc (fun _ => r.shiftStep.2)).advance r.shiftStep.1
      if decide (s.rtc.shift ≠ 0 ∧ r.shiftStep.2.shift = 0) then u.rtcCause 5 else u := by
  unfold State.calTick
  rw [h]
  simp only [Bool.not_true, Bool.false_eq_true, if_false, State.upRtc_rtc, hb]
  rfl

end Sys2Proof.Machine
end

