-- ==== Sys2Proof/Laws/StartUp.lean ====
section
/-! SUPPORT. What the last steps of a start-up leave: the report of a stop or of the end, the role state, and what the loading of the registers does to the power block (Machine/Begin.lean, Machine/StartUp.lean). -/

set_option Elab.async false
set_option linter.all false

namespace Sys2Proof.Machine

open Sys2Proof

/-- The first three bytes of START_REPORT. -/
theorem startReport_bytes : ∀ (u : State) c st d, c < 256 → st < 256 → d < 256 → byteAt (u.startReport c st d).pwr.report 0 = c ∧ byteAt (u.startReport c st d).pwr.report 1 = st ∧
      byteAt (u.startReport c st d).pwr.report 2 = d := by
  intro u c st d h1 h2 h3
  have e : ∀ n, n < 256 → leBytes 1 n = [BitVec.ofNat 8 n] := by
    intro n _; simp [leBytes]
  have e2 : ∀ n, n < 256 → (BitVec.ofNat 8 n).toNat = n := by intro n hn; simp; omega
  unfold State.startReport
  dsimp only [State.upPwr_pwr]
  rw [e c h1, e st h2, e d h3]
  refine ⟨?_, ?_, ?_⟩ <;> simp [byteAt, e2 _ h1, e2 _ h2, e2 _ h3]

/-- A start-up that ends: the module is started with report 0 at step 10, and a unit that governs has its drivers on and its outputs released. -/
theorem finishStart_left : ∀ u : State, (u.minSetWide = false ∨ 9000 ≤ u.pwr.vinMv) → u.finishStart.pwr.started = true ∧ u.finishStart.pwr.stopped = false ∧
      u.finishStart.pwr.vinMv = u.pwr.vinMv ∧ (9000 ≤ u.pwr.vinMv → u.finishStart.pwr.state = .run) ∧
      byteAt u.finishStart.pwr.report 0 = 0 ∧ byteAt u.finishStart.pwr.report 1 = 10 ∧ u.finishStart.ldr = u.ldr ∧ u.finishStart.csw.role = u.csw.role ∧
      u.finishStart.csw.pair = u.csw.pair ∧ u.finishStart.csw.dark = u.csw.dark ∧ u.finishStart.csw.term = u.csw.term ∧
      (u.governs = true → u.finishStart.csw.driversOff = false ∧ u.finishStart.fio.released = true) := by
  intro u hu
  obtain ⟨f, hf⟩ : ∃ f, f = u.firstState := ⟨_, rfl⟩
  have kf : Keep { sto := true, host := true, evr := true, pwr := true } u f := by rw [hf]; exact State.firstState_keep (Keep.refl u)
  have hg : f.governs = u.governs := by unfold State.governs; rw [kf.frame.csw rfl]
  have hpv : f.pwr.vinMv = u.pwr.vinMv ∧ (9000 ≤ u.pwr.vinMv → f.pwr.state = .run) := by
    rw [hf]
    unfold State.firstState
    split
    · next h => exact ⟨by dsimp only; simp, fun h' => absurd h' (by omega)⟩
    · exact ⟨rfl, fun _ => rfl⟩
  obtain ⟨x, hx⟩ : ∃ x, x = (if f.governs then (f.upCsw (fun c => { c with driversOff := false })).outputRelease else f) := ⟨_, rfl⟩
  have kx : Keep { csw := true, fio := true, evr := true } f x := by
    rw [hx]; exact Keep.ite (State.outputRelease_keep ((Keep.refl f).upCsw _)) (Keep.refl f)
  have hxc : x.csw = if f.governs then { f.csw with driversOff := false } else f.csw := by
    rw [hx]
    split
    · exact (State.outputRelease_keep (L := { fio := true, evr := true }) (Keep.refl _)).frame.csw rfl
    · rfl
  obtain ⟨y, hy⟩ : ∃ y, y = (x.armServices x.clk.now).startReport 0 10 0 := ⟨_, rfl⟩
  have ky : Keep { wdg := true, pwr := true } x y := by rw [hy]; exact State.startReport_keep (State.armServices_keep (Keep.refl x) _) _ _ _
  have hyp : y.pwr.vinMv = x.pwr.vinMv ∧ y.pwr.state = x.pwr.state := by rw [hy]; exact ⟨rfl, rfl⟩
  have e : u.finishStart = y.upPwr (fun p => { p with started := true, stopped := false, runAt := y.clk.now }) := by
    unfold State.finishStart
    rw [if_neg, ← hf]
    · dsimp only
      rw [← hx, ← hy]
    · rintro ⟨h1, h2⟩
      rcases hu with hu | hu
      · rw [hu] at h2; cases h2
      · omega
  have hl : u.finishStart.ldr = u.ldr := (State.finishStart_keep (L := { sto := true, csw := true, fio := true, host := true, wdg := true, evr := true, pwr := true }) (Keep.refl u)).frame.ldr rfl
  have hc : u.finishStart.csw = if f.governs then { u.csw with driversOff := false } else u.csw := by
    rw [e, State.upPwr_csw, ky.frame.csw rfl, hxc, kf.frame.csw rfl]
  have hr := startReport_bytes (x.armServices x.clk.now) 0 10 0 (by omega) (by omega) (by omega)
  rw [← hy] at hr
  refine ⟨by rw [e]; rfl, by rw [e]; rfl, ?_, fun h => ?_, ?_, ?_, hl, ?_, ?_, ?_, ?_, fun h => ⟨?_, ?_⟩⟩
  · rw [e]; show y.pwr.vinMv = _; rw [hyp.1, kx.frame.pwr rfl]; exact hpv.1
  · rw [e]; show y.pwr.state = _; rw [hyp.2, kx.frame.pwr rfl]; exact hpv.2 h
  · rw [e]; exact hr.1
  · rw [e]; exact hr.2.1
  · rw [hc]; split <;> rfl
  · rw [hc]; split <;> rfl
  · rw [hc]; split <;> rfl
  · rw [hc]; split <;> rfl
  · rw [hc, hg, h, if_pos rfl]
  · rw [e, State.upPwr_fio, ky.frame.fio rfl, hx, hg, h, if_pos rfl]
    unfold State.outputRelease
    rfl

/-- A start-up that stops: its report, and the halt except for codes 1 and 6. -/
theorem stopStart_left : ∀ (u : State) c st d, c < 256 → st < 256 → d < 256 → (u.stopStart c st d).pwr.stopped = true ∧ (u.stopStart c st d).pwr.started = u.pwr.started ∧
      byteAt (u.stopStart c st d).pwr.report 0 = c ∧ byteAt (u.stopStart c st d).pwr.report 1 = st ∧ byteAt (u.stopStart c st d).pwr.report 2 = d ∧
      (u.stopStart c st d).pwr.recovery = decide (c = 1) ∧
      (c ≠ 1 → c ≠ 6 → (u.stopStart c st d).sto.halted = true ∧ (u.stopStart c st d).host.exeCause.getLsbD 5 = true) ∧ (u.stopStart c st d).rtc = u.rtc ∧
      (c = 1 → (u.stopStart c st d).host = u.host) := by
  intro u c st d h1 h2 h3
  obtain ⟨r1, r2, r3⟩ := startReport_bytes u c st d h1 h2 h3
  unfold State.stopStart
  dsimp only
  split
  · next h => exact ⟨rfl, rfl, r1, r2, r3, rfl, fun h4 h5 => absurd h (by omega), rfl, fun _ => rfl⟩
  · next h =>
    simp only [State.exeCause_pwr, State.exeCause_sto, State.exeCause_host, State.exeCause_rtc]
    refine ⟨rfl, rfl, r1, r2, r3, rfl, fun _ _ => ⟨rfl, ?_⟩, rfl, fun hc => absurd (Or.inl hc) h⟩
    rw [setBit_getLsbD _ _ _ _ (by omega)]; rfl

/-- The loading of the registers changes of the power block only the domains. -/
theorem loadAll_left (s : State) (env : StartEnv) :
    (s.loadAll env).pwr = { s.pwr with domains := if s.pwr.role = .station then 0xFC3#12 else 0xFFF#12 } ∧ (s.loadAll env).ldr = s.ldr ∧
    (s.loadAll env).csw = s.csw := by
  have e : Keep { clk := true, fio := true, can := true, host := true, wdg := true, evr := true, trc := true, nvp := true, rtc := true, met := true }
      (s.upPwr (fun p => { p with domains := if p.role = .station then 0xFC3#12 else 0xFFF#12 })) (s.loadAll env) := by
    unfold State.loadAll
    extract_lets a b c d
    have ha : Keep { clk := true, fio := true, can := true, host := true, wdg := true, evr := true, trc := true, nvp := true, rtc := true, met := true } a a := Keep.refl a
    rw [show (s.upPwr (fun p => { p with domains := if p.role = .station then 0xFC3#12 else 0xFFF#12 })) = a from rfl]
    have hb := State.loadRoutes_keep (State.loadWay_keep (State.loadAo_keep (State.loadCan_keep (State.groupsQualified_keep (State.loadFio_keep (State.loadClk_keep ha env.t1Lost)) env.groups))))
    change Keep _ a b at hb
    clear_value b
    have hc : Keep _ a c := hb.upEvr (fun xk => xk)
    clear_value c
    have hd : Keep _ a d := (hc.upMet (MetKeep.same rfl rfl rfl)).upTrc _
    clear_value d
    exact State.metUp_keep (State.recap_keep hd) _
  exact ⟨e.frame.pwr rfl, e.frame.ldr rfl, e.frame.csw rfl⟩

/-- Steps 2 to 4 change of the power block only the role. -/
theorem startSup_started (s : State) (env : StartEnv) : (s.startSup env).pwr.started = s.pwr.started := by
  unfold State.startSup
  extract_lets a b c
  have ha : c.pwr = s.pwr := by
    unfold c
    split
    · simp only [State.upFw_pwr, State.occur_pwr]; rfl
    · rfl
  have h1 : ∀ (x : State) l, (x.startNvp l).pwr = x.pwr := fun x l => (State.startNvp_keep (L := { evr := true, host := true, nvp := true, sto := true }) (Keep.refl x) l).frame.pwr rfl
  have h2 : ∀ (x : State) l, (x.startEvr l).pwr = x.pwr := fun x l => (State.startEvr_keep (L := { evr := true, host := true }) (Keep.refl x) l).frame.pwr rfl
  have h3 : ∀ (x : State) l, (x.indexReads l).pwr = x.pwr := fun x l => (State.indexReads_keep (L := { evr := true, host := true, sto := true }) (Keep.refl x) l).frame.pwr rfl
  rw [h1, h2, h3, ← ha]
  clear_value c
  unfold State.loadStored
  extract_lets x y n z
  have hx : Keep { dict := true, evr := true, nvp := true } c x := State.restoreDefaults_keep (Keep.refl c)
  have hy : Keep { dict := true, evr := true, nvp := true } c y := (Keep.foldl (fun _ _ hk => State.emptyRecord_keep hk _) _ hx).upNvp _
  show y.pwr.started = _
  rw [hy.frame.pwr rfl]

/-- The term that a unit takes is above every term known, and its state and drivers stand. -/
theorem govern_left (s : State) (r : RoleState) (reason gap : Nat) (h : s.highTerm < 0xFFFF) :
    (s.govern r reason gap).csw.term = s.highTerm + 1 ∧ (s.govern r reason gap).csw.role = r ∧ (s.govern r reason gap).pwr = s.pwr := by
  unfold State.govern State.takeTerm
  dsimp only
  rw [if_neg (by omega)]
  dsimp only
  obtain ⟨x, hx⟩ : ∃ x : State, x = (if 0xFF00 ≤ s.highTerm + 1 then (s.upCsw (fun c => { c with term := s.highTerm + 1, termConfirmed := false })).cswCause 12
      else s.upCsw (fun c => { c with term := s.highTerm + 1, termConfirmed := false })) := ⟨_, rfl⟩
  rw [← hx]
  have hxt : x.csw.term = s.highTerm + 1 ∧ x.pwr = s.pwr := by
    rw [hx]; split
    · simp
    · exact ⟨rfl, rfl⟩
  have ht : ∀ y : State, (y.termClaim s.csw.term).csw = y.csw ∧ (y.termClaim s.csw.term).pwr = y.pwr := fun y =>
    have k := State.termClaim_keep (L := { net := true, evr := true }) (Keep.refl y) s.csw.term
    ⟨k.frame.csw rfl, k.frame.pwr rfl⟩
  have htr : (x.transition r reason gap).csw.term = x.csw.term ∧ (x.transition r reason gap).csw.role = r ∧ (x.transition r reason gap).pwr = x.pwr := by
    have key : ∀ w : State, (if w.governs then w else (w.upNet (fun n => { n with txq := [], unacked := [] })).disarmTasks (fun _ => true)).csw = w.csw ∧
        (if w.governs then w else (w.upNet (fun n => { n with txq := [], unacked := [] })).disarmTasks (fun _ => true)).pwr = w.pwr := by
      intro w; split <;> exact ⟨rfl, rfl⟩
    unfold State.transition
    extract_lets old w
    rw [(key w).1, (key w).2]
    exact ⟨rfl, rfl, rfl⟩
  rw [(ht _).1, (ht _).2]
  exact ⟨htr.1.trans hxt.1, htr.2.1, htr.2.2.trans hxt.2⟩

end Sys2Proof.Machine
end

