-- ==== Sys2Proof/Laws/Waymarks.lean ====
section
/-! SUPPORT. What the operations of a waymark slot do to that slot, to another slot and to the watchdog's own registers (Machine/Waymarks.lean). -/

set_option Elab.async false
set_option linter.all false

namespace Sys2Proof.Machine

open Sys2Proof

variable (s : State)

theorem wslot_same {i : Nat} (h : i < 32) (k : WSlot → WSlot) : (s.upWslot i k).wslot i = k (s.wslot i) := vget_vup_same h _ _

theorem wslot_ne {i j : Nat} (h : j ≠ i) (k : WSlot → WSlot) : (s.upWslot i k).wslot j = s.wslot j := vget_vup_ne h _ _

/-- A watchdog reset begins: the slots stay, and the reset in progress is the first one asked for. -/
theorem watchdogReset_wdg (i k : Nat) :
    (s.watchdogReset i k).wdg = if s.wdg.resetting.isSome then s.wdg else { s.wdg with resetting := some (i, k, s.clk.now) } := by
  unfold State.watchdogReset
  cases h : s.wdg.resetting.isSome
  · simp only [Bool.false_eq_true, if_false]
    have e (u : State) (c : Bool) : (if c then (u.stopLanes u.nowCyc).abandonOpen else u).wdg = u.wdg := by
      cases c
      · rfl
      · exact (State.abandonOpen_keep (L := { clu := true, sto := true, evr := true }) (State.stopLanes_keep (Keep.refl u) u.nowCyc)).frame.wdg rfl
    have e2 (u : State) : u.stopBeats.wdg = u.wdg := (State.stopBeats_keep (L := { clk := true, evr := true, trc := true }) (Keep.refl u)).frame.wdg rfl
    have e3 (u : State) : (if u.csw.role = .active then u.upCsw (fun c => { c with withdraw := true, driversOff := true })
        else if u.csw.role = .solo then u.upFio (fun f => { f with haltSafe := true }) else u).wdg = u.wdg := by
      split
      · rfl
      · split <;> rfl
    refine (e3 _).trans ((e2 _).trans ((e _ _).trans ?_))
    rw [State.occur_wdg]
    rfl
  · simp

theorem watchdogReset_wslot (i k j : Nat) : (s.watchdogReset i k).wslot j = s.wslot j := by
  unfold State.wslot
  rw [watchdogReset_wdg]
  split <;> rfl

/-- A slot whose period has failed. -/
def WSlot.fail (w : WSlot) (k : Nat) : WSlot :=
  { w with failed := true, lastKind := k, fails := sat16 w.fails, warned := w.warned || !w.prevFailed }

theorem sortTail_wdg (u : State) (p : Occ → Bool) : (u.upEvr (·.sortTail p)).wdg = u.wdg := rfl

@[simp] theorem takeFirst_slots (d : Wdg) (i k t : Nat) : (d.takeFirst i k t).slots = d.slots := by unfold Wdg.takeFirst; split <;> rfl
@[simp] theorem takeFirst_cause (d : Wdg) (i k t : Nat) : (d.takeFirst i k t).cause = d.cause := by unfold Wdg.takeFirst; split <;> rfl
@[simp] theorem takeFirst_resetting (d : Wdg) (i k t : Nat) : (d.takeFirst i k t).resetting = d.resetting := by unfold Wdg.takeFirst; split <;> rfl
@[simp] theorem takeFirst_resets (d : Wdg) (i k t : Nat) : (d.takeFirst i k t).resets = d.resets := by unfold Wdg.takeFirst; split <;> rfl

/-- WDG_FIRST takes the failure unless it holds an earlier one, or one of a lower slot of the same 4 ns cycle. -/
theorem takeFirst_first (d : Wdg) (i k t : Nat) : (d.takeFirst i k t).firstValid = true ∧
    (d.firstValid = false ∨ (t / 4 = d.firstAt ∧ i < d.firstSlot) → (d.takeFirst i k t).firstSlot = i ∧ (d.takeFirst i k t).firstKind = k) := by
  unfold Wdg.takeFirst
  split
  · next h =>
    simp only [Bool.and_eq_true, Bool.not_eq_true', Bool.and_eq_false_iff, decide_eq_false_iff_not] at h
    refine ⟨h.1, fun g => ?_⟩
    rcases g with g | ⟨g1, g2⟩
    · rw [h.1] at g; cases g
    · rcases h.2 with h2 | h2
      · exact absurd g1 h2
      · exact absurd g2 h2
  · exact ⟨rfl, fun _ => ⟨rfl, rfl⟩⟩

/-- The watchdog after the failure of a slot has been noted and before what follows from a second one. -/
theorem wayFail_eq (i k t : Nat) : ∃ u : State,
    u.wdg = Wdg.takeFirst { s.wdg with slots := vup s.wdg.slots i WSlot.reset (fun x => { x with failed := true, lastKind := k, fails := sat16 x.fails }), cause := setBit s.wdg.cause i true } i k t ∧
    u.clk.now = s.clk.now ∧ s.wayFail i k t = if (s.wslot i).prevFailed then u.watchdogReset i k else u.upWslot i (fun x => { x with warned := true }) := by
  refine ⟨_, ?_, ?_, rfl⟩
  · rw [sortTail_wdg, State.occur_wdg]
    simp only [State.upWdg_wdg, State.upWslot]
  · show (State.occur _ _ _ _).clk.now = _
    rw [State.occur_clk]
    rfl

/-- The watchdog's registers after slot `i` has failed with kind `k`. -/
theorem wayFail_wslot {i : Nat} (h : i < 32) (k t : Nat) : (s.wayFail i k t).wslot i = (s.wslot i).fail k := by
  obtain ⟨u, hu, -, he⟩ := wayFail_eq s i k t
  have e : u.wslot i = { s.wslot i with failed := true, lastKind := k, fails := sat16 (s.wslot i).fails } := by
    unfold State.wslot
    rw [hu, takeFirst_slots]
    exact vget_vup_same h _ _
  rw [he]
  cases hp : (s.wslot i).prevFailed
  · rw [if_neg (by decide), wslot_same _ h, e]
    simp [WSlot.fail, hp]
  · rw [if_pos rfl, watchdogReset_wslot, e]
    simp [WSlot.fail, hp]

theorem wayFail_ne {i j : Nat} (h : j ≠ i) (k t : Nat) : (s.wayFail i k t).wslot j = s.wslot j := by
  obtain ⟨u, hu, -, he⟩ := wayFail_eq s i k t
  have e : u.wslot j = s.wslot j := by
    unfold State.wslot
    rw [hu, takeFirst_slots]
    exact vget_vup_ne h _ _
  rw [he]
  split
  · rw [watchdogReset_wslot, e]
  · rw [wslot_ne _ h, e]

/-- A failure sets the slot's cause bit, keeps the first failure and begins a watchdog reset exactly after a failed period. -/
theorem wayFail_wdg (i k t : Nat) : (s.wayFail i k t).wdg.cause = setBit s.wdg.cause i true ∧ (s.wayFail i k t).wdg.firstValid = true ∧
    (s.wdg.firstValid = false ∨ (t / 4 = s.wdg.firstAt ∧ i < s.wdg.firstSlot) → (s.wayFail i k t).wdg.firstSlot = i ∧ (s.wayFail i k t).wdg.firstKind = k) ∧
    (s.wayFail i k t).wdg.resetting = (if (s.wslot i).prevFailed && s.wdg.resetting.isNone then some (i, k, s.clk.now) else s.wdg.resetting) ∧
    (s.wayFail i k t).wdg.resets = s.wdg.resets := by
  obtain ⟨u, hu, hc, he⟩ := wayFail_eq s i k t
  obtain ⟨f1, f2⟩ := takeFirst_first { s.wdg with slots := vup s.wdg.slots i WSlot.reset (fun x => { x with failed := true, lastKind := k, fails := sat16 x.fails }), cause := setBit s.wdg.cause i true } i k t
  rw [← hu] at f1 f2
  have u1 : u.wdg.cause = setBit s.wdg.cause i true := by rw [hu, takeFirst_cause]
  have u2 : u.wdg.resetting = s.wdg.resetting := by rw [hu, takeFirst_resetting]
  have u3 : u.wdg.resets = s.wdg.resets := by rw [hu, takeFirst_resets]
  rw [he]
  cases hp : (s.wslot i).prevFailed
  · rw [if_neg (by decide)]
    exact ⟨u1, f1, f2, by simpa using u2, u3⟩
  · rw [if_pos rfl, watchdogReset_wdg, u2, hc]
    cases hr : s.wdg.resetting
    · exact ⟨u1, f1, f2, rfl, u3⟩
    · exact ⟨u1, f1, f2, by simpa [hr] using u2, u3⟩

theorem wayPeriodEnd_ne {i j : Nat} (h : j ≠ i) : (s.wayPeriodEnd i).wslot j = s.wslot j := by
  unfold State.wayPeriodEnd
  dsimp only
  rw [wslot_ne _ h]
  split
  · exact wayFail_ne s h _ _
  · rfl

/-- The slot after the end of a period: a failure is remembered for one period, and the next one starts where it ended. -/
theorem wayPeriodEnd_wslot {i : Nat} (h : i < 32) : (s.wayPeriodEnd i).wslot i =
    let w := if !(s.wslot i).checked && !(s.wslot i).failed then (s.wslot i).fail 3 else s.wslot i
    { w with prevFailed := w.failed, warned := w.failed && w.warned, failed := false, checked := false, first := false, start := w.start + w.periodNs } := by
  unfold State.wayPeriodEnd
  dsimp only
  rw [wslot_same _ h]
  split
  · rw [wayFail_wslot _ h]; simp [WSlot.fail]
  · cases (s.wslot i).failed <;> simp

theorem wayCatchUp_ne {i j : Nat} (h : j ≠ i) (t : Nat) : ∀ (n : Nat) (s : State), (s.wayCatchUp i t n).wslot j = s.wslot j
  | 0, _ => rfl
  | n + 1, s => by
    unfold State.wayCatchUp
    dsimp only
    split
    · rw [wayCatchUp_ne h t n, wayPeriodEnd_ne _ h]
    · rfl

/-- No period has ended: nothing happens. -/
theorem wayCatchUp_idle {i t : Nat} (h : t / 1000 < (s.wslot i).endTick) (n : Nat) : s.wayCatchUp i t n = s := by
  cases n with
  | zero => rfl
  | succ n =>
    unfold State.wayCatchUp
    dsimp only
    have e : decide ((s.wslot i).endTick ≤ t / 1000) = false := by simpa using h
    simp [e]

/-- The one period that has ended ends. -/
theorem wayCatchUp_once {i t n : Nat} (ha : (s.wslot i).armed = true) (h1 : (s.wslot i).endTick ≤ t / 1000)
    (h2 : t / 1000 < ((s.wayPeriodEnd i).wslot i).endTick) : s.wayCatchUp i t (n + 1) = s.wayPeriodEnd i := by
  unfold State.wayCatchUp
  dsimp only
  rw [wayCatchUp_idle _ h2]
  simp [ha, h1]

theorem wayCheckin_ne {i j : Nat} (h : j ≠ i) (t : Nat) : (s.wayCheckin i t).wslot j = s.wslot j := by
  unfold State.wayCheckin
  extract_lets s1 w
  have e : s1.wslot j = s.wslot j := wayCatchUp_ne h t _ _
  clear_value s1
  repeat' split
  all_goals first | exact e | (rw [wslot_ne _ h]; exact e) | (rw [wayFail_ne _ h]; exact e)

/-- A slot after a check-in within its current period (13 R389 to R391). -/
def WSlot.checkin (w : WSlot) (t : Nat) : WSlot :=
  if !w.armed then w
  else if w.failed || (w.first && w.checked) then { w with extra := satAdd 15 w.extra 1 }
  else if w.first then { w with checked := true }
  else if t / 1000 < w.openTick then w.fail 1
  else if w.checked then w.fail 2
  else { w with checked := true }

theorem wayCheckin_wslot {i t : Nat} (hi : i < 32) (h : t / 1000 < (s.wslot i).endTick) : (s.wayCheckin i t).wslot i = (s.wslot i).checkin t := by
  unfold State.wayCheckin WSlot.checkin
  rw [wayCatchUp_idle s h]
  dsimp only
  repeat' split
  all_goals first | with_reducible rfl | with_reducible exact wslot_same _ hi _ | with_reducible exact wayFail_wslot _ hi _ _

/-- Without an early or a second check-in the watchdog's own registers stay. -/
theorem checkin_mem {i t svc : Nat} (hi : i < 32) : ∀ (l : List Nat) (s : State), l.Nodup → t / 1000 < (s.wslot i).endTick →
    ((l.foldl (fun acc i => if (acc.wslot i).owner = 2 ∧ (acc.wslot i).number = svc then acc.wayCheckin i t else acc) s).wslot i) =
      if i ∈ l ∧ (s.wslot i).owner = 2 ∧ (s.wslot i).number = svc then (s.wslot i).checkin t else s.wslot i
  | [], _, _, _ => by simp
  | j :: l, s, hn, ht => by
    rw [List.foldl_cons]
    obtain ⟨h1, h2⟩ := List.nodup_cons.1 hn
    by_cases hj : i = j
    · subst hj
      by_cases ho : (s.wslot i).owner = 2 ∧ (s.wslot i).number = svc
      · rw [if_pos ho]
        have key : ∀ (l : List Nat) (u : State), i ∉ l →
            (l.foldl (fun acc i => if (acc.wslot i).owner = 2 ∧ (acc.wslot i).number = svc then acc.wayCheckin i t else acc) u).wslot i = u.wslot i := by
          intro l
          induction l with
          | nil => exact fun _ _ => rfl
          | cons k l ih =>
            intro u hk
            rw [List.foldl_cons, ih _ (fun h => hk (List.mem_cons_of_mem _ h))]
            have : i ≠ k := fun h => hk (h ▸ List.mem_cons_self)
            split
            · exact wayCheckin_ne u this t
            · rfl
        rw [key l _ h1, wayCheckin_wslot s hi ht]
        simp [ho]
      · rw [if_neg ho, checkin_mem hi l s h2 ht]
        simp [ho]
    · have e : (if (s.wslot j).owner = 2 ∧ (s.wslot j).number = svc then s.wayCheckin j t else s).wslot i = s.wslot i := by
        split
        · exact wayCheckin_ne s hj t
        · rfl
      rw [checkin_mem hi l _ h2 (by rw [e]; exact ht), e]
      simp [hj]

end Sys2Proof.Machine
end

