-- ==== Sys2Proof/WellFormed.lean ====
section
/-! DEFINITION. Which commands are well formed: every index lies among the parts the spec counts (lanes and lane sets 03 R84, tasks 06 R176, channels and groups 08 R242, ports and station slots 09, CAN ports, gates and window words 10, sources 12 R374, waymark slots 13 R384, metrology channels 17 R480). A command that is not well formed changes nothing that it names (log 7). -/

namespace Sys2Proof

/-- Does every index of a command name a part that exists? -/
def Instr.wellFormed : Instr → Bool
  | .beatBoundary _ _ => true
  | .runStart lset => decide (lset < 8)
  | .bundleIssue lane _ _ => decide (lane < 8)
  | .resultLanding lane => decide (lane < 8)
  | .controlTransfer lane => decide (lane < 8)
  | .repIteration lane _ _ => decide (lane < 8)
  | .stringIteration lane _ => decide (lane < 8)
  | .recordWriteback lane _ => decide (lane < 8)
  | .runCompletion lset _ => decide (lset < 8)
  | .milestoneDurable _ => true
  | .settleDone _ => true
  | .faultClear task => decide (task < 32)
  | .imageLoadSegment _ _ _ => true
  | .loadCmdCheck => true
  | .loadCheckDone => true
  | .loadCmdInstall => true
  | .loadCmdDiscard => true
  | .swapReady _ => true
  | .enterReduced _ => true
  | .returnToRun _ => true
  | .heartbeatSend _ => true
  | .heartbeatReceive lane _ _ _ => decide (lane < 2)
  | .heartbeatLost _ => true
  | .laneDown lane => decide (lane < 2)
  | .cwaCycle _ _ => true
  | .cwaMasterTakeover => true
  | .negotiateSend _ => true
  | .negotiateReceive lane _ _ _ => decide (lane < 2)
  | .negotiationTimeout _ => true
  | .milestoneTransfer => true
  | .causewayTransferDone => true
  | .streamReceive lane _ _ _ => decide (lane < 2)
  | .resendTimeout => true
  | .bulkSend _ => true
  | .failReceive lane _ _ _ => decide (lane < 2)
  | .takeoverExecute _ => true
  | .termConfirmTimeout _ => true
  | .swapDrillCmd _ _ => true
  | .programSwapCmd _ _ => true
  | .abandonSwapCmd _ => true
  | .handoverReceive lane _ _ _ => decide (lane < 2)
  | .handoverGoSend _ => true
  | .handoverGoReceive lane _ _ _ => decide (lane < 2)
  | .handoverDriversOff _ => true
  | .drillDue _ => true
  | .rawSample _ pins supply current => pins.all (fun p => decide (p.1 < 512)) && decide (supply.length = 8) && decide (current.length = 8)
  | .groupQualified g => decide (g < 8)
  | .grpOvercurrent g => decide (g < 8)
  | .grpAck _ mask => decide (mask < 256)
  | .thermalTrip c => decide (c < 512)
  | .thermalCooled c => decide (c < 512)
  | .overloadClear c => decide (c < 512)
  | .openLoadDetect c => decide (c < 512)
  | .openLoadClear c => decide (c < 512)
  | .staggeredSwitchOn c _ => decide (c < 512)
  | .logicSilenceExpiry => true
  | .ethLinkChange port _ => decide (port < 6)
  | .prpSupervisionSend pair => decide (pair < 2)
  | .ptpMessageReceive port _ _ _ _ => decide (port < 6)
  | .announceReceiptTimeout _ => true
  | .ptpSyncSend port _ => decide (port < 6)
  | .ppsInEdge _ => true
  | .refLost => true
  | .stationInputSend _ => true
  | .stationInputReceive port _ _ => decide (port < 6)
  | .outputFrameReceive port _ _ => decide (port < 6)
  | .termClaimReceive port _ _ => decide (port < 6)
  | .statusReceive port _ _ => decide (port < 6)
  | .keepAliveSend _ => true
  | .warmStartFrames _ => true
  | .ackWaitExpiry _ => true
  | .txLateDrop _ => true
  | .readmitAck slot _ => decide (slot < 256)
  | .canFrameReceived n _ _ => decide (n < 8)
  | .canWindowRead _ n w => decide (n < 8 ∧ w < 18)
  | .canFifoRead _ n w => decide (n < 8 ∧ w < 18)
  | .canLockTimeout n _ => decide (n < 8)
  | .canBufselWrite _ n _ => decide (n < 8)
  | .canTxreq _ n _ => decide (n < 8)
  | .canTxabort _ n _ => decide (n < 8)
  | .canTxStart n _ => decide (n < 8)
  | .canTxEnd n _ => decide (n < 8)
  | .canTxError n _ _ _ _ _ _ => decide (n < 8)
  | .canRecover _ n => decide (n < 8)
  | .canRecoveryEnd n => decide (n < 8)
  | .canInitWrite _ n _ => decide (n < 8)
  | .canBusIntegration n => decide (n < 8)
  | .gateWindowOpen n gate _ => decide (n < 8 ∧ gate < 64)
  | .gateWindowClose n _ => decide (n < 8)
  | .canWakePattern => true
  | .kivaselUdpReceive ip port _ _ => decide (ip < 2 ^ 32 ∧ port < 2 ^ 16)
  | .kivaselCanSegment n _ _ => decide (n < 8)
  | .kivaselCanSegmentTimeout n => decide (n < 8)
  | .kivaselUsbTransfer _ _ => true
  | .odxGo _ _ => true
  | .odxAck _ => true
  | .kOpen _ => true
  | .kClose _ => true
  | .kChallenge _ => true
  | .kLogin _ => true
  | .loginLockoutEnd _ => true
  | .kRead _ _ => true
  | .kReadMulti _ _ => true
  | .kDescribe _ => true
  | .kWrite _ => true
  | .batchOpen _ => true
  | .batchAdd _ => true
  | .batchCommit _ => true
  | .batchStatus _ => true
  | .batchDiscard _ => true
  | .sessionTimeout _ _ => true
  | .batchIdleTimeout _ _ => true
  | .accessKeyWrite _ => true
  | .fuseBlow _ => true
  | .fuseBlowEnd => true
  | .restoreDefaults _ => true
  | .publishMapSegment _ _ _ => true
  | .hostRead cmd addr _ => decide (cmd < 256 ∧ addr < 2 ^ 24)
  | .hostWrite cmd addr _ => decide (cmd < 256 ∧ addr < 2 ^ 24)
  | .hostStatus cmd _ => decide (cmd < 256)
  | .hostStallViolation => true
  | .hostAccessTimeout _ => true
  | .unlockChallenge _ => true
  | .unlockGo _ => true
  | .unlockLock _ => true
  | .hostLockoutEnd => true
  | .registerWrite _ addr _ => decide (addr < 2 ^ 24 ∧ addr % 4 = 0)
  | .rclRead _ addr => decide (addr < 2 ^ 24 ∧ addr % 4 = 0)
  | .mbxSelWrite _ _ => true
  | .mbxLatch _ _ => true
  | .mbxDataRead _ k => decide (k < 3)
  | .intClaim _ => true
  | .intTake _ n => decide (n < 256)
  | .intDone _ _ => true
  | .intRouteWrite _ n _ => decide (n < 256)
  | .sysReset _ _ => true
  | .roleNextWrite _ _ => true
  | .hostCheckin _ _ _ => true
  | .serviceCheckin service _ => decide (service < 256)
  | .waymarkPeriodEnd slot _ => decide (slot < 32)
  | .watchdogResetExecute _ => true
  | .clrResets _ _ => true
  | .recordWrite _ => true
  | .evrWin0Read _ _ => true
  | .evrWin63Read _ => true
  | .eventClear _ _ => true
  | .eventClearDone => true
  | .anchorRequestInterval _ => true
  | .anchorCmd _ => true
  | .anchorCopyComplete => true
  | .anchorMissed => true
  | .freeze _ => true
  | .ringFrozen => true
  | .unfreeze _ => true
  | .streamDatagramSend _ => true
  | .replayLoadSegment _ _ _ => true
  | .replayStart => true
  | .replayStop => true
  | .replayDiscard => true
  | .nvpRecordRead _ _ => true
  | .nvpRecordWrite _ => true
  | .nvpRawRead _ _ => true
  | .nvpRawWrite _ => true
  | .nvpRawErase _ => true
  | .pageStepDone _ => true
  | .waxPassVisit _ _ => true
  | .waxPassBegin _ => true
  | .waxLate _ => true
  | .clrCorr _ => true
  | .fwImageSegment _ _ _ => true
  | .fwVerifyDone _ _ => true
  | .fwCmdAbandon => true
  | .calendarTick => true
  | .periodicWake => true
  | .oscStop => true
  | .snapshotTake _ => true
  | .calendarSetGo _ => true
  | .calendarNowRead => true
  | .shiftStart _ _ => true
  | .parkRequest _ _ => true
  | .parkCommitEdge => true
  | .hostWakePin => true
  | .wakeFrameReceive _ => true
  | .vinReturn => true
  | .powerCycleRecord _ => true
  | .metPowerUp _ => true
  | .clockPlausibilityFault _ => true
  | .bridgeSample c _ _ _ _ => decide (c < 8)
  | .noZeroTimeout c _ => decide (c < 8)
  | .pulseEdge q _ => decide (q < 4)
  | .pulseRecordPublish q _ => decide (q < 4)
  | .excitationFault _ => true
  | .sealChange _ => true
  | .adjSetEntry bytes => decide (1 ≤ bytes.length)
  | .adjCaptureZero bytes => decide (1 ≤ bytes.length)
  | .adjCaptureSpan bytes => decide (1 ≤ bytes.length)
  | .adjNoChange bytes => decide (1 ≤ bytes.length)
  | .telegramGapTimeout => true
  | .metAliveTimeout _ => true
  | .metRecordRead _ off => decide (off < 4096 ∧ off % 4 = 0)
  | .startUp _ => true
  | .startResumeAfterVin _ => true
  | .vinLoss _ _ => true
  | .overvoltage _ _ => true
  | .backplateTempReport _ _ _ => true
  | .thermalRestart => true
  | .vbakLow => true
  | .vinLow => true
  | .canReceiveError n _ _ _ _ => decide (n < 8)
  | .arpIcmpEchoRequest port _ => decide (port < 6)
  | .vbakReturn => true
  | .startUpTemperatureHoldEnd _ => true
  | .ppsOutPulse => true
  | .fwBankStepDone _ => true
  | .ptpAnnounceSend port => decide (port < 6)
  | .ptpDelayRequestSend port => decide (port < 6)

end Sys2Proof
end

