-- ==== Sys2Proof/Tests/Slice0.lean ====
section
/-! SUPPORT. Tests: well-formedness check by check, worked examples of the spec on single operations, and for each statement states and operands that meet its hypotheses. -/

set_option Elab.async false
set_option linter.all false
set_option maxRecDepth 20000

namespace Sys2Proof.Tests

open Sys2Proof Sys2Proof.Machine

/-! ### Well-formed commands -/

/-- Each range check of these commands refuses the first value beyond its range. -/
theorem test_wf_refuses_runStart_to_runCompletion :
    ([.runStart 8, .bundleIssue 8 [] .none, .resultLanding 8, .controlTransfer 8, .repIteration 8 [] .none, .stringIteration 8 [], .recordWriteback 8 .none, .runCompletion 8 0] : List Instr).all (fun i => !i.wellFormed) = true := by decide

theorem test_wf_takes_runStart_to_runCompletion :
    ([.runStart 7, .bundleIssue 7 [] .none, .resultLanding 7, .controlTransfer 7, .repIteration 7 [] .none, .stringIteration 7 [], .recordWriteback 7 .none, .runCompletion 7 0] : List Instr).all (fun i => i.wellFormed) = true := by decide

/-- Each range check of these commands refuses the first value beyond its range. -/
theorem test_wf_refuses_faultClear_to_handoverGoReceive :
    ([.faultClear 32, .heartbeatReceive 2 0 [] ⟨[], [], 0, []⟩, .laneDown 2, .negotiateReceive 2 0 [] ⟨[], [], 0, []⟩, .streamReceive 2 0 [] ⟨[], [], 0, []⟩, .failReceive 2 0 [] ⟨[], [], 0, []⟩, .handoverReceive 2 0 [] ⟨[], [], 0, []⟩, .handoverGoReceive 2 0 [] ⟨[], [], 0, []⟩] : List Instr).all (fun i => !i.wellFormed) = true := by decide

theorem test_wf_takes_faultClear_to_handoverGoReceive :
    ([.faultClear 31, .heartbeatReceive 1 0 [] ⟨[], [], 0, []⟩, .laneDown 1, .negotiateReceive 1 0 [] ⟨[], [], 0, []⟩, .streamReceive 1 0 [] ⟨[], [], 0, []⟩, .failReceive 1 0 [] ⟨[], [], 0, []⟩, .handoverReceive 1 0 [] ⟨[], [], 0, []⟩, .handoverGoReceive 1 0 [] ⟨[], [], 0, []⟩] : List Instr).all (fun i => i.wellFormed) = true := by decide

/-- Each range check of these commands refuses the first value beyond its range. -/
theorem test_wf_refuses_rawSample_to_openLoadDetect :
    ([.rawSample 0 [(512, 0)] [0, 0, 0, 0, 0, 0, 0, 0] [0, 0, 0, 0, 0, 0, 0, 0], .rawSample 0 [] [0] [0, 0, 0, 0, 0, 0, 0, 0], .rawSample 0 [] [0, 0, 0, 0, 0, 0, 0, 0] [0], .groupQualified 8, .grpOvercurrent 8, .grpAck .sup0 256, .thermalTrip 512, .thermalCooled 512, .overloadClear 512, .openLoadDetect 512] : List Instr).all (fun i => !i.wellFormed) = true := by decide

theorem test_wf_takes_rawSample_to_openLoadDetect :
    ([.rawSample 0 [(511, 0)] [0, 0, 0, 0, 0, 0, 0, 0] [0, 0, 0, 0, 0, 0, 0, 0], .groupQualified 7, .grpOvercurrent 7, .grpAck .sup0 255, .thermalTrip 511, .thermalCooled 511, .overloadClear 511, .openLoadDetect 511] : List Instr).all (fun i => i.wellFormed) = true := by decide

/-- Each range check of these commands refuses the first value beyond its range. -/
theorem test_wf_refuses_openLoadClear_to_outputFrameReceive :
    ([.openLoadClear 512, .staggeredSwitchOn 512 0, .ethLinkChange 6 false, .prpSupervisionSend 2, .ptpMessageReceive 6 0 0 false .other, .ptpSyncSend 6 0, .stationInputReceive 6 0 [], .outputFrameReceive 6 0 []] : List Instr).all (fun i => !i.wellFormed) = true := by decide

theorem test_wf_takes_openLoadClear_to_outputFrameReceive :
    ([.openLoadClear 511, .staggeredSwitchOn 511 0, .ethLinkChange 5 false, .prpSupervisionSend 1, .ptpMessageReceive 5 0 0 false .other, .ptpSyncSend 5 0, .stationInputReceive 5 0 [], .outputFrameReceive 5 0 []] : List Instr).all (fun i => i.wellFormed) = true := by decide

/-- Each range check of these commands refuses the first value beyond its range. -/
theorem test_wf_refuses_termClaimReceive_to_canBufselWrite :
    ([.termClaimReceive 6 0 [], .statusReceive 6 0 [], .readmitAck 256 0, .canFrameReceived 8 0 [], .canWindowRead .sup0 8 0, .canWindowRead .sup0 0 18, .canFifoRead .sup0 8 0, .canFifoRead .sup0 0 18, .canLockTimeout 8 false, .canBufselWrite .sup0 8 0#32] : List Instr).all (fun i => !i.wellFormed) = true := by decide

theorem test_wf_takes_termClaimReceive_to_canBufselWrite :
    ([.termClaimReceive 5 0 [], .statusReceive 5 0 [], .readmitAck 255 0, .canFrameReceived 7 0 [], .canWindowRead .sup0 7 17, .canFifoRead .sup0 7 17, .canLockTimeout 7 false, .canBufselWrite .sup0 7 0#32] : List Instr).all (fun i => i.wellFormed) = true := by decide

/-- Each range check of these commands refuses the first value beyond its range. -/
theorem test_wf_refuses_canTxreq_to_canInitWrite :
    ([.canTxreq .sup0 8 0#32, .canTxabort .sup0 8 0#32, .canTxStart 8 0, .canTxEnd 8 0, .canTxError 8 0 false false false false 0, .canRecover .sup0 8, .canRecoveryEnd 8, .canInitWrite .sup0 8 0#32] : List Instr).all (fun i => !i.wellFormed) = true := by decide

theorem test_wf_takes_canTxreq_to_canInitWrite :
    ([.canTxreq .sup0 7 0#32, .canTxabort .sup0 7 0#32, .canTxStart 7 0, .canTxEnd 7 0, .canTxError 7 0 false false false false 0, .canRecover .sup0 7, .canRecoveryEnd 7, .canInitWrite .sup0 7 0#32] : List Instr).all (fun i => i.wellFormed) = true := by decide

/-- Each range check of these commands refuses the first value beyond its range. -/
theorem test_wf_refuses_canBusIntegration_to_hostWrite :
    ([.canBusIntegration 8, .gateWindowOpen 8 0 0, .gateWindowOpen 0 64 0, .gateWindowClose 8 0, .kivaselUdpReceive 4294967296 0 0 [], .kivaselUdpReceive 0 65536 0 [], .kivaselCanSegment 8 0 [], .kivaselCanSegmentTimeout 8, .hostRead 256 0 0, .hostRead 0 16777216 0, .hostWrite 256 0 [], .hostWrite 0 16777216 []] : List Instr).all (fun i => !i.wellFormed) = true := by decide

theorem test_wf_takes_canBusIntegration_to_hostWrite :
    ([.canBusIntegration 7, .gateWindowOpen 7 63 0, .gateWindowClose 7 0, .kivaselUdpReceive 4294967295 65535 0 [], .kivaselCanSegment 7 0 [], .kivaselCanSegmentTimeout 7, .hostRead 255 16777212 0, .hostWrite 255 16777212 []] : List Instr).all (fun i => i.wellFormed) = true := by decide

/-- Each range check of these commands refuses the first value beyond its range. -/
theorem test_wf_refuses_hostStatus_to_waymarkPeriodEnd :
    ([.hostStatus 256 0, .registerWrite .sup0 16777216 0#32, .registerWrite .sup0 2 0#32, .rclRead .sup0 16777216, .rclRead .sup0 2, .mbxDataRead .sup0 3, .intTake .sup0 256, .intRouteWrite .sup0 256 0#32, .serviceCheckin 256 0, .waymarkPeriodEnd 32 0] : List Instr).all (fun i => !i.wellFormed) = true := by decide

theorem test_wf_takes_hostStatus_to_waymarkPeriodEnd :
    ([.hostStatus 255 0, .registerWrite .sup0 16777212 0#32, .rclRead .sup0 16777212, .mbxDataRead .sup0 2, .intTake .sup0 255, .intRouteWrite .sup0 255 0#32, .serviceCheckin 255 0, .waymarkPeriodEnd 31 0] : List Instr).all (fun i => i.wellFormed) = true := by decide

/-- Each range check of these commands refuses the first value beyond its range. -/
theorem test_wf_refuses_bridgeSample_to_adjNoChange :
    ([.bridgeSample 8 0 0 false false, .noZeroTimeout 8 0, .pulseEdge 4 0, .pulseRecordPublish 4 0, .adjSetEntry [], .adjCaptureZero [], .adjCaptureSpan [], .adjNoChange []] : List Instr).all (fun i => !i.wellFormed) = true := by decide

theorem test_wf_takes_bridgeSample_to_adjNoChange :
    ([.bridgeSample 7 0 0 false false, .noZeroTimeout 7 0, .pulseEdge 3 0, .pulseRecordPublish 3 0, .adjSetEntry [0], .adjCaptureZero [0], .adjCaptureSpan [0], .adjNoChange [0]] : List Instr).all (fun i => i.wellFormed) = true := by decide

/-- Each range check of these commands refuses the first value beyond its range. -/
theorem test_wf_refuses_metRecordRead_to_ptpDelayRequestSend :
    ([.metRecordRead .sup0 4096, .metRecordRead .sup0 2, .canReceiveError 8 false 0 0 false, .arpIcmpEchoRequest 6 [], .ptpAnnounceSend 6, .ptpDelayRequestSend 6] : List Instr).all (fun i => !i.wellFormed) = true := by decide

theorem test_wf_takes_metRecordRead_to_ptpDelayRequestSend :
    ([.metRecordRead .sup0 4092, .canReceiveError 7 false 0 0 false, .arpIcmpEchoRequest 5 [], .ptpAnnounceSend 5, .ptpDelayRequestSend 5] : List Instr).all (fun i => i.wellFormed) = true := by decide

/-! ### States that the witnesses use -/

/-- A started SOLO controller with every domain on, HOST privileged. -/
def up : State := { State.reset with
  pwr := { Pwr.reset with started := true, domains := 0xFFF#12 }, csw := { Csw.reset with role := .solo }, host := { HostSt.reset with priv := true } }

/-- The same with beats running from beat 4. -/
def beating : State := { up with clk := { Clk.reset with running := true, beat := 4, powered := 4 } }

/-- The ACTIVE unit and the STANDBY unit of a pair. -/
def activeUnit : State := { beating with csw := { Csw.reset with role := .active, pair := true } }
@[inherit_doc activeUnit] def standbyUnit : State := { beating with csw := { Csw.reset with role := .standby, pair := true } }

/-- A station, and a unit in the replay role. -/
def stationUnit : State := { up with pwr := { up.pwr with role := .station } }
@[inherit_doc stationUnit] def replayUnit : State := { up with pwr := { up.pwr with role := .replay } }

/-- The row of a task, a run, and an image that holds the row. -/
def row0 (task lset : Nat) : TaskRow :=
  { task := task, lset := lset, order := 0, policy := 0, period := 1, phase := 0, start := 0, entry := 0, ip := 0, wcet := 100, foot := 1, keep := 0
    outFirst := 0, outCount := 0, winFirst := 0, winCount := 0, loopFirst := 0, loopCount := 0, zeros := true }
@[inherit_doc row0] def run0 : Run :=
  { rel := 4, relCyc := 0, beat := 4, beatsRun := 0, first := true, base := [], view := [], writes := [], calDate := 0, calTime := 0, lset := 0, order := 0
    start := 0, started := true, reexec := false }
@[inherit_doc row0] def image0 (task lset : Nat) : Image :=
  { bytes := [], imgLen := 0, single := false, mainSet := 0xF, minSet := 1, tasks := 1, beatP := 1000, hyper := 1, footMax := 1, occMax := 1
    sections := [], prevDigest := [], digest := [], main := [row0 task lset], reduced := [], outs := [], wins := [], loops := [], xtab := [], inits := []
    instances := [], names := [] }

/-- A state whose lane `l` runs task `k`. -/
def running (k l : Nat) (ln : Lane) (s : State) : State :=
  ((s.upLdr (fun x => { x with img := some (image0 k (l / 2)) })).upTask k (fun x => { x with run := some run0 })).upLane l (fun _ => { ln with task := some k })

/-- A unit of a pair whose partner is node 1 and was seen in role `r`. -/
def partnered (r : Nat) (s : State) : State :=
  { s with dict := { s.dict with force := [(0x600100, [1, 0])] }, csw := { s.csw with pair := true, partnerSeen := true, dark := false, partnerRole := r, laneUp := Vector.replicate 2 true } }

/-- A frame of node 1 in role `r`. -/
def peer (type r pos : Nat) (p : List Byte) : List Byte :=
  leBytes 1 type ++ [0, 0, 0] ++ leBytes 2 (1 + 1024 * r) ++ leBytes 2 (p.length / 16) ++ leBytes 8 pos ++ p

/-- What the partner's cycle tells besides a frame. -/
def calm : CwIn := { ecc := [], digest := [], minSet := 0, table := [] }

/-- A frame discarded for its memory error. -/
def hardIn : CwIn := { calm with ecc := [{ mem := .causeway, addr := 0, hard := true }] }


/-! ### Chapters 02 to 05: hypotheses that are met -/

theorem witness_BeatBoundariesAdvanceTheBeat :
    (beating.beatsMayRun = true ∧ beating.replaying = false ∧ beating.pwr.parkReq = 0) ∧ State.reset.beatsMayRun = false := by decide

/-- A half that may close and one that merges; a faulted task, one whose run goes on, one that is free: the last task on the last lane set. -/
theorem witness_TheActsOfABoundary :
    (beating.mayClose = true ∧ beating.closeDecision.2 = some beating.milestone ∧ (row0 31 7).task < 32 ∧ (row0 31 7).lset < 8) ∧
    (beating.upSto (fun x => { x with half1 := { x.half1 with phase := .journal } })).closeDecision.2 = none ∧
    ((beating.upTask 31 (fun x => { x with faulted := true })).task (row0 31 7).task).faulted = true ∧
    (((beating.upTask 31 (fun x => { x with run := some run0 })).task 31).faulted = false ∧ ((beating.upTask 31 (fun x => { x with run := some run0 })).task 31).run.isSome = true) ∧
    (beating.task 31).faulted = false ∧ (beating.task 31).run = none := by decide

/-- The last lane set of DUAL, its two lanes ended one cycle apart. -/
def ended3 : State :=
  (running 31 6 { Lane.reset with ended := true, endCyc := 5 } beating).upLane 7 (fun _ => { Lane.reset with ended := true, endCyc := 6, task := some 31 })

def shutHalf (m : Milestone) (s : State) : State := s.upSto (fun x => { x with journal := [m], settling := [m], half1 := { x.half1 with phase := .settle } })

theorem witness_RunsCompleteAndMilestonesSettle :
    (3 < (if ended3.clu.single then 8 else 4) ∧ ended3.executes = true ∧ (ended3.setLanes 3).head?.getD 0 = 6 ∧
      (∀ j, j ∈ ended3.setLanes 3 → (ended3.lane j).finished = true ∧ (ended3.lane j).wb = []) ∧
      (ended3.lane (ended3.lastLane 3)).endCyc < ended3.boundaryCyc + ended3.beatCycles ∧ (ended3.lane 6).endCyc + 1 = (ended3.lane (ended3.lastLane 3)).endCyc ∧
      (ended3.lane 6).task = some 31 ∧ (ended3.task 31).run = some run0 ∧ ended3.row 31 = some (row0 31 3) ∧ ((ended3.reach 0).freeLanes 3).keptFull 31 run0 = none) ∧
    (∀ wb, ended3.missedRec (ended3.lastLane 3) ((ended3.lane (ended3.lastLane 3)).endCyc + 2) wb = none) ∧
    ((shutHalf beating.milestone beating).sto.journal = [beating.milestone] ∧ (shutHalf beating.milestone beating).sto.settling = [beating.milestone] ∧
      (shutHalf beating.milestone beating).sto.other.phase = .settle) ∧
    beating.sto.journal = [] ∧ (beating.task 31).faulted = false ∧ ((beating.upTask 31 (fun x => { x with faulted := true })).task 31).faulted = true := by
  refine ⟨by decide, fun wb => rfl, by decide, by decide, by decide, by decide⟩

/-- Lane 7 of SINGLE alone runs task 31, one syllable ahead of it. -/
def alone (w : Word) : State :=
  let s := running 31 7 Lane.reset beating
  { s with clu := { s.clu with single := true }, sto := { s.sto with program := memPut [] 0 (wbytes w) }, ldr := { s.ldr with img := some (image0 31 7) } }

theorem alone_alone (w : Word) : (alone w).Alone 7 31 run0 where
  single := rfl
  going := rfl
  lane := by decide
  task := rfl
  run := rfl
  ended := rfl
  dead := rfl
  xfer := rfl
  wb := rfl
  inflight := rfl

/-- ADD, SUB, AND, OR and XOR of the A0 unit, a scratch load and store of the M unit, BR and END of the C unit, one syllable each; a word with an unknown operation. -/
theorem witness_BundlesOfOneSyllableIssue :
    (((alone 0x98108400#32).lane 7).rep = none ∧ memWord (alone 0x98108400#32).sto.program ((alone 0x98108400#32).lane 7).pc = 0x98108400#32 ∧
      ((alone 0x98108400#32).lane 7).pc + 4 ≤ programSize) ∧
    ([0x98108400#32, 0x98308400#32, 0x98708400#32, 0x98808400#32, 0x98908400#32].all (fun w =>
      sylS w && !sylP w && decide (sylU w = 3) && decide (sylOpc w ∈ [1, 3, 7, 8, 9]) && decide (sylCauses none w = []))) = true ∧
    (sylU 0xB0108000#32 = 6 ∧ sylOpc 0xB0108000#32 = 1 ∧ sylCauses none 0xB0108000#32 = [] ∧
      (((alone 0xB0108000#32).lane 7).regs.getA (sylA 0xB0108000#32) + operandRS none 0xB0108000#32 ((alone 0xB0108000#32).lane 7).regs.getG).toNat = 0) ∧
    (sylU 0xB0608000#32 = 6 ∧ sylOpc 0xB0608000#32 = 6 ∧ sylCauses none 0xB0608000#32 = []) ∧
    (sylU 0x80100000#32 = 0 ∧ sylOpc 0x80100000#32 = 1 ∧ sylCauses none 0x80100000#32 = []) ∧
    (sylU 0x80900000#32 = 0 ∧ sylOpc 0x80900000#32 = 9 ∧ sylCauses none 0x80900000#32 = []) ∧
    leastOf (sylCauses none 0x9FF08400#32) = some 1 := by decide

/-- A lane set with a task at the head of its queue. -/
def queued : State :=
  { running 31 0 Lane.reset beating with clu := { Cluster.reset with queues := vset Cluster.reset.queues 3 [31] }, ldr := { Loader.reset with img := some (image0 31 3) } }

/-- Lane 7 alone with a changed lane. -/
def aloneLane (f : Lane → Lane) : State := (alone 0x98108400#32).upLane 7 f

theorem witness_LaneEventsBetweenIssues :
    (vget queued.clu.queues 3 [] = [31] ∧ queued.setIdle 3 = true ∧ queued.executes = true ∧ (queued.task 31).run = some run0 ∧ queued.row 31 = some (row0 31 3) ∧
      3 < (if queued.clu.single then 8 else 4)) ∧
    vget beating.clu.queues 3 [] = [] ∧
    ((aloneLane (fun l => { l with inflight := [⟨0, 0, 3, 1, .g 31 5⟩] })).lane 7).inflight = [⟨0, 0, 3, 1, .g 31 5⟩] ∧ (beating.lane 7).inflight = [] ∧
    ((aloneLane (fun l => { l with xfer := some ⟨0, true, 8, .call 3⟩ })).lane 7).xfer = some ⟨0, true, 8, .call 3⟩ ∧
    ((aloneLane (fun l => { l with link := [(4, 0)], xfer := some ⟨0, true, 0, .ret⟩ })).lane 7).link = [(4, 0)] ∧
    (sylP 0xA8600000#32 = false ∧ sylU 0xA8600000#32 = 5 ∧ sylOpc 0xA8600000#32 = 6 ∧ sylDst 0xA8600000#32 = 0 ∧
      ((aloneLane (fun l => { l with rep := some ⟨0xA8600000, 0, 2, none, none, none⟩ })).lane 7).rep = some ⟨0xA8600000, 0, 2, none, none, none⟩) ∧
    (sylOpc 0x9B608400#32 = 0x36 ∧ ((aloneLane (fun l => { l with rep := some ⟨0x9B608400, 0, 2, none, none, some ⟨false, none, false, true, 0, []⟩⟩ })).lane 7).rep.isSome = true ∧
      ((alone 0#32).lane 7).regs.getA (sylDst 0x9B608400#32) = 0 ∧ ((alone 0#32).lane 7).regs.getA (sylA 0x9B608400#32) = 0) ∧
    (let s := aloneLane (fun l => { l with wb := [⟨0, instBase, [1]⟩] })
     s.clu.single = true ∧ s.clu.stopped = false ∧ (s.lane 7).wb = [⟨0, instBase, [1]⟩] ∧ s.openContent + 16 * (Ov.entries (Ov.putBytes [] instBase [1])).length ≤ halfSize) := by decide

/-- A trailing lane's write-back with the leading lane's record beside it, and with none. -/
def trailing (items : List IssueRec) : State :=
  let s := running 31 7 { Lane.reset with wb := [⟨1, instBase, [1]⟩] } beating
  { s with clu := { s.clu with items := vset s.clu.items 3 items } }

theorem witness_TheComparatorChecksWriteBacks :
    ((trailing []).clu.single = false ∧ (trailing []).clu.stopped = false ∧ 7 % 2 = 1 ∧ ((trailing []).lane 7).wb = [⟨1, instBase, [1]⟩] ∧ ((trailing []).lane 7).task = some 31) ∧
    vget (trailing [⟨0, true, wbItems ⟨1, instBase, [1]⟩ 31, []⟩]).clu.items (7 / 2) [] = [⟨0, true, wbItems ⟨1, instBase, [1]⟩ 31, []⟩] ∧
    (vget (trailing []).clu.items (7 / 2) [] = [] ∧ (wbItems ⟨1, instBase, [1]⟩ 31).head?.isSome = true ∧ (trailing []).csw.role = .solo) ∧
    ({ trailing [] with csw := activeUnit.csw }).csw.role = .active := by decide


/-! ### Chapters 06 and 07: hypotheses that are met -/

/-- A loader in a state of its own, with two bytes staged. -/
def loading (n : Nat) (s : State) : State := s.upLdr (fun l => { l with state := n, staged := [1, 2] })

theorem witness_ImagesAreStagedAndChecked :
    up.pwr.role ≠ .station ∧ (up.ldr.state ≠ 1 ∧ up.ldr.state ≠ 2 ∧ up.ldr.state ≠ 5) ∧
    ((loading 1 up).ldr.state = 1 ∧ (loading 1 up).ldr.staged.length = 2) ∧ ((loading 1 up).ldr.staged ≠ [] ∧ (3 : Nat) ≠ (loading 1 up).ldr.staged.length) ∧
    ((loading 2 up).ldr.state = 2 ∧ (loading 5 up).ldr.state = 5) ∧
    ((loading 3 up).ldr.state = 3 ∧ (loading 4 up).ldr.state = 4 ∧ (loading 6 up).ldr.state = 6) ∧ (up.ldr.state ≠ 3 ∧ up.ldr.state ≠ 4 ∧ up.ldr.state ≠ 6) := by decide

theorem witness_InstallationDiscardAndConversion :
    ((loading 3 up).ldr.state = 3 ∧ (loading 3 up).csw.role = .solo) ∧ ((loading 3 standbyUnit).ldr.state = 3 ∧ (loading 3 standbyUnit).csw.role = .standby) ∧
    ((loading 3 activeUnit).ldr.state = 3 ∧ (loading 3 activeUnit).csw.role = .active) ∧ up.ldr.state ≠ 3 ∧
    ((standbyUnit.upLdr (fun l => { l with converting := true })).ldr.converting = true ∧ standbyUnit.ldr.swapReady = false ∧ standbyUnit.csw.role = .standby) ∧
    up.ldr.converting = false ∧ (∀ x, x ∈ ([] : List Ecc) → x.hard = false) := by decide

/-- The STANDBY and its ACTIVE partner, and the other way round; a heartbeat of 32 bytes with a status byte. -/
def sb : State := partnered 1 standbyUnit
@[inherit_doc sb] def ac : State := partnered 2 activeUnit
@[inherit_doc sb] def beatOf (r st : Nat) : List Byte := peer 1 r 0 (zeros 28 ++ leBytes 4 st)

theorem witness_HeartbeatsAndTheirLoss :
    (sb.csw.dark = false ∧ calm.ecc = [] ∧ cwFormOk (beatOf 1 0) = true ∧ cwType (beatOf 1 0) = 1 ∧ cwNode (beatOf 1 0) = sb.partnerNode ∧ sb.csw.partnerSeen = true ∧
      sb.csw.hbLost = false ∧ sb.csw.partnerRole = cwRole (beatOf 1 0) ∧ sb.isLocked = false ∧ sb.csw.role = .standby ∧ (byteAt (cwPay (beatOf 1 0)) 28).testBit 3 = false) ∧
    (cwFormOk (beatOf 1 8) = true ∧ (byteAt (cwPay (beatOf 1 8)) 28).testBit 3 = true) ∧
    ((partnered 1 up).csw.role = .solo ∧ (partnered 1 up).partnerNode = cwNode (beatOf 1 0) ∧ (partnered 1 up).csw.partnerRole = cwRole (beatOf 1 0)) ∧
    (ac.csw.role = .active ∧ ac.csw.partnerRole = cwRole (beatOf 2 0) ∧ cwRole (beatOf 2 0) ≠ 3 ∧ cwFormOk (beatOf 2 0) = true) ∧
    cwFormOk [] = false ∧ hardIn.ecc.any (·.hard) = true ∧
    ((sb.upCsw (fun c => { c with hbLost := true })).csw.hbLost = true ∧ (99999 : Nat) < sb.csw.lastHb + 100000) ∧
    (let s := sb.upCsw (fun c => { c with hbAt := Vector.replicate 2 1 })
     s.csw.hbLost = false ∧ s.csw.lastHb + 100000 ≤ 100001 ∧ 0 < s.csw.lastHb ∧ s.csw.takeoverPend = none ∧ s.pwr.parkReq = 0 ∧ s.csw.claim = false ∧ s.csw.cwaAbsent = State.reset.csw.cwaAbsent) ∧
    (let s := ac.upCsw (fun c => { c with hbAt := Vector.replicate 2 1, cwaAbsent := false })
     s.csw.hbLost = false ∧ s.csw.role = .active ∧ s.csw.cwaAbsent = false ∧ s.csw.lastHb + 100000 ≤ 100001) ∧
    (vget sb.csw.laneUp 1 false = true ∧ vget up.csw.laneUp 1 false = false) := by decide

/-- A unit that negotiates, its partner seen negotiating. -/
def ng : State := partnered 5 { standbyUnit with csw := { standbyUnit.csw with role := .negotiating } }

def seen (k : Csw → Csw) (s : State) : State := s.upCsw k

theorem witness_CwaAndTheNegotiation :
    (sb.csw.dark = false ∧ sb.csw.role ≠ .negotiating ∧ ng.csw.role = .negotiating) ∧
    (sb.csw.cwaSeenClaim = false ∧ (seen (fun c => { c with cwaSeenClaim := true, cwaIdle := 3 }) sb).csw.cwaIdle < 4) ∧
    (let s := seen (fun c => { c with cwaSeenClaim := true, cwaIdle := 4 }) sb
     s.csw.cwaSeenClaim = true ∧ 4 ≤ s.csw.cwaIdle ∧ s.csw.role = .standby ∧ s.csw.takeoverPend = none ∧ s.pwr.parkReq = 0) ∧
    (let s := seen (fun c => { c with cwaSeenClaim := true, cwaIdle := 4 }) ac
     s.csw.cwaSeenClaim = true ∧ 4 ≤ s.csw.cwaIdle ∧ s.csw.role = .active) ∧
    ((seen (fun c => { c with cwaMiss := 3 }) sb).csw.cwaMiss < 4 ∧ 4 ≤ (seen (fun c => { c with cwaMiss := 4 }) sb).csw.cwaMiss) ∧
    ((seen (fun c => { c with cwaAbsent := true }) sb).csw.cwaAbsent = true ∧ (seen (fun c => { c with cwaAbsent := false }) sb).csw.cwaAbsent = false ∧ sb.csw.hbLost = false) ∧
    (cwFormOk (peer 6 5 0 (zeros 48)) = true ∨ cwFormOk (peer 6 5 0 (zeros 64)) = true) ∧ cwType (peer 6 5 0 []) = 6 ∧ cwNode (peer 6 5 0 []) = ng.partnerNode ∧
    ng.csw.partnerRole = cwRole (peer 6 5 0 []) ∧ ng.csw.delay ≤ 50000 ∧ ng.csw.negHeard = false ∧ ng.csw.negSince + 200000000 ≤ 200000000 ∧ ng.highTerm < 0xFFFF ∧
    0xFFFF ≤ (seen (fun c => { c with term := 0xFFFF }) ng).highTerm := by decide

/-- A milestone to send. -/
def ms0 : Milestone := beating.milestone

theorem witness_StreamsCarryMilestonesAndStores :
    ((seen (fun c => { c with sendMs := [ms0] }) ac).csw.sendMs = [ms0] ∧ (seen (fun c => { c with sendMs := [ms0] }) ac).maySend = true) ∧ ac.csw.sendMs = [] ∧ sb.maySend = false ∧
    ((seen (fun c => { c with sending := some 1 }) ac).csw.sending = some 1 ∧ ac.csw.sending = none) ∧
    ((partnered 3 activeUnit).maySend = true ∧ (partnered 3 activeUnit).csw.sendMs = [] ∧ (partnered 3 activeUnit).csw.partnerRole = 3 ∧ (partnered 3 activeUnit).settledAll = true ∧
      (partnered 3 activeUnit).csw.bulkOff < 50331648) ∧
    (50331648 ≤ (seen (fun c => { c with bulkOff := 50331648 }) (partnered 3 activeUnit)).csw.bulkOff ∧ ac.csw.bulkEnd = false ∧ (seen (fun c => { c with bulkEnd := true }) ac).csw.bulkEnd = true) ∧
    (let s := seen (fun c => { c with pos := 16, stream := zeros 16 }) ac
     s.csw.role = .active ∧ s.hasPartner = true ∧ s.lanesUp ≠ [] ∧ s.csw.partnerAck < s.csw.pos ∧ s.csw.pos - s.csw.stream.length ≤ s.csw.partnerAck) ∧
    (let s := seen (fun c => { c with pos := 32, stream := zeros 16 }) ac
     s.csw.partnerAck < s.csw.pos - s.csw.stream.length) ∧
    hardIn.ecc.any (·.hard) = true ∧
    (let f := peer 2 1 0 (streamRecord 0x20 instBase (zeros 16))
     cwFormOk f = true ∧ cwType f = 2 ∧ cwNode f = sb.partnerNode ∧ sb.csw.partnerRole = cwRole f ∧ cwPos f = sb.csw.ackPos ∧ sb.csw.takeoverPend = none ∧ sb.csw.goPend = none ∧
      sb.csw.rx = [] ∧ (cwPay f).length = 16 + 16 * getLE (cwPay f) 4 4 ∧ byteAt (cwPay f) 0 = 0x20 ∧ (getLE (cwPay f) 8 8).testBit 63 = false) ∧
    (let f := peer 2 1 0 (streamRecord 0x11 instBase (zeros 16))
     cwFormOk f = true ∧ (cwPay f).length = 16 + 16 * getLE (cwPay f) 4 4 ∧ byteAt (cwPay f) 0 = 0x11 ∧ (seen (fun c => { c with rxMs := some ms0 }) sb).csw.rxMs = some ms0) ∧
    (let f := peer 2 1 0 (streamRecord 0x14 ms0.num [])
     cwFormOk f = true ∧ (cwPay f).length = 16 + 16 * getLE (cwPay f) 4 4 ∧ byteAt (cwPay f) 0 = 0x14 ∧ ms0.num = getLE (cwPay f) 8 8) ∧
    cwPos (peer 2 1 16 []) ≠ sb.csw.ackPos ∧ (sb.csw.rx ++ zeros 8).length < 16 := by decide

theorem witness_TakeoversExecuteAndAreConfirmed :
    (let f := peer 3 4 0 (zeros 16)
     let s := partnered 4 standbyUnit
     s.csw.dark = false ∧ cwFormOk f = true ∧ cwType f = 3 ∧ cwNode f = s.partnerNode ∧ s.csw.partnerSeen = true ∧ s.csw.hbLost = false ∧ s.csw.partnerRole = cwRole f ∧
      s.csw.role = .standby ∧ s.csw.takeoverPend = none ∧ s.pwr.parkReq = 0 ∧ (partnered 4 activeUnit).csw.role = .active) ∧
    (let s := seen (fun c => { c with takeoverPend := some 1 }) sb
     s.csw.takeoverPend = some 1 ∧ s.csw.role = .standby ∧ s.highTerm < 0xFFFF ∧ s.pwr.state ≠ .reduced) ∧
    sb.csw.takeoverPend = none ∧
    ((seen (fun c => { c with termNeedsConfirm := true }) ac).csw.termNeedsConfirm = true ∧ ac.csw.termConfirmed = false ∧ ac.csw.termNeedsConfirm = false) ∧
    (let s := seen (fun c => { c with holdOutputs := true, partnerLaunch := 1 }) ac
     s.csw.holdOutputs = true ∧ 0 < s.csw.partnerLaunch ∧ s.csw.partnerLaunch ≤ s.ptpAt 1) ∧ ac.csw.holdOutputs = false ∧
    (let s := sb.upRtc (fun r => { r with opMs := 2592000001 })
     s.csw.pair = true ∧ s.csw.role ≠ .active ∧ s.csw.drillLast = none ∧ s.inForce 0x6004 0 2592000000 < (s.reach 0).otMs - s.csw.sinceActive) ∧ up.csw.pair = false := by decide

theorem witness_PlannedSwitchoverAndProgramSwap :
    (ac.readReaches .sup0 0x6024 = true ∧ ac.privOf .sup0 = true ∧ ac.csw.role = .active ∧ ac.csw.partnerRole = 2 ∧ ac.hasPartner = true ∧ ac.csw.handBeat = none ∧ ac.csw.handClosed = false ∧
      (ac.upLdr (fun l => { l with swapReady := true })).ldr.swapReady = true ∧ (ac.upHost (fun h => { h with priv := false })).privOf .host = false) ∧
    ((sb.upLdr (fun l => { l with converting := true })).ldr.converting = true ∧ sb.readReaches .sup0 0x6024 = true ∧ ac.ldr.converting = false) ∧
    (let f := peer 4 1 0 (zeros 16)
     sb.csw.dark = false ∧ cwFormOk f = true ∧ cwType f = 4 ∧ cwNode f = sb.partnerNode ∧ sb.csw.partnerSeen = true ∧ sb.csw.hbLost = false ∧ sb.csw.partnerRole = cwRole f) ∧
    (let f := peer 5 1 0 (leBytes 8 ms0.num ++ zeros 8)
     cwFormOk f = true ∧ cwType f = 5 ∧ sb.csw.role = .standby ∧ sb.csw.lastMs = none ∧ (seen (fun c => { c with lastMs := some ms0 }) sb).csw.lastMs = some ms0 ∧ ms0.num = getLE f 16 8 ∧
      sb.csw.kind ≠ 2 ∧ sb.pwr.state ≠ .reduced) ∧
    (let s := seen (fun c => { c with handClosed := true }) ac
     s.csw.role = .active ∧ s.csw.handClosed = true ∧ s.csw.sendMs = [] ∧ s.csw.sending = none) := by decide


/-! ### Chapters 08 and 09: hypotheses that are met -/

def chanIs (f : Chan → Chan) (s : State) : State := s.upChan 511 f

theorem witness_ThermalCyclingOfAChannel :
    ((chanIs (fun c => { c with conduct := true }) up).chan 511).conduct = true ∧ ((chanIs (fun c => { c with tripped := true }) up).chan 511).tripped = true ∧
    (up.chan 511).conduct = false ∧ (up.chan 511).tripped = false := by decide

theorem witness_OpenLoadAndGroupMonitors :
    (let c := (chanIs (fun c => { c with openEn := true, conduct := true, ovld := false }) up).chan 511
     c.openEn = true ∧ c.conduct = true ∧ c.ovld = false ∧ c.openLoad = false) ∧
    ((up.upGroup 7 (fun g => { g with qualCount := 2000 })).group 7).qualified = false ∧ 2000 ≤ ((up.upGroup 7 (fun g => { g with qualCount := 2000 })).group 7).qualCount := by decide

theorem witness_SwitchOnSilenceAndAcknowledgement :
    (((chanIs (fun c => { c with onAt := some 10 }) up).chan 511).onAt = some 10 ∧ (10 : Nat) ≤ max up.clk.now 10) ∧ up.fio.expired = false ∧ up.readReaches .sup0 0x700C = true := by decide

/-- An input of type 1 and one of the other type, before, at and after the end of their filter time. -/
theorem witness_RawSampleFiltersInputs :
    up.domainOn 10 = true ∧ ((chanIs (fun c => { c with mode := 1 }) up).chan 511).mode = 1 ∧ ((chanIs (fun c => { c with mode := 2 }) up).chan 511).mode = 2 ∧
    ((15000 : Int) ≤ (aget [(511, (15000 : Int))] 511).getD 0 ∧ (aget [(511, (15000 : Int))] 511).getD 0 ≤ 36000) ∧ ((-30000 : Int) ≤ 5000) ∧
    (up.chan 511).sampled = false ∧ ((chanIs (fun c => { c with sampled := true, filter := 30, count := 2 }) up).chan 511).sampled = true ∧
    (2 : Nat) + 1 < max 1 (40 / 10) ∧ max 1 (30 / 10) ≤ (2 : Nat) + 1 := by decide

theorem witness_SharedClockAndLock :
    (up.domainOn 7 = true ∧ (up.inForce 0x1200 3 0x0F).testBit 3 = true ∧ up.inForce 0x1200 2 0 = 0 ∧ (up.inForce 0x1200 3 0x0F).testBit 5 = false) ∧
    (State.reset.domainOn 7 = false ∧ up.clk.locked = false ∧ (up.upClk (fun k => { k with locked := true, outCount := 4 })).clk.locked = true) ∧
    (let s := up.upNet (fun n => { n with link := 0x3F#6 })
     s.net.link.getLsbD 3 = true ∧ (s.inForce 0x1200 4 0).testBit 3 = false ∧ s.inForce 0x1200 3 0x0F % 64 ≠ 0) ∧
    (up.upClk (fun k => { k with gm := true })).clk.gm = true ∧ (up.upClk (fun k => { k with gm := false })).clk.gm = false ∧ up.inForce 0x1200 1 0 ≠ 1 ∧
    (up.upDict (fun d => { d with force := [(entryKey 0x1200 4, [0xFF])] })).inForce 0x1200 4 0 = 0xFF ∧ up.net.link.getLsbD 5 = false ∧ (500000000 : Int).natAbs ≤ 500000000 ∧
    (up.upClk (fun k => { k with refT1 := true })).clk.refT1 = true ∧ (up.upClk (fun k => { k with refT1 := false })).clk.refT1 = false := by decide

/-- A station of controllers 5 and 6, and a controller with the station 7 in slot 255. -/
def stn : State := { stationUnit with dict := { stationUnit.dict with force := [(entryKey 0x1300 1, [5, 0]), (entryKey 0x1300 2, [6, 0])] } }
@[inherit_doc stn] def ctl : State := { up with dict := { up.dict with force := [(entryKey 0x14FF 1, [7, 0])] } }

/-- A unit of a node number, to build frames of; the Ethernet frame of a payload from another module. -/
def other (n : Nat) : State := { up with dict := { up.dict with force := [(entryKey 0x1001 0, leBytes 2 n)] } }
@[inherit_doc other] def ether (p : List Byte) : List Byte := zeros 6 ++ [2, 0, 0, 0, 0, 1] ++ [0x88, 0xB5] ++ p

/-- An OUTPUT and a TERM_CLAIM of controller 5, and one of a stranger. -/
def outFrame (n term : Nat) : List Byte := (other n).stFrame 2 1023 term 0 0 0 0xFF (zeros 8)
@[inherit_doc outFrame] def claimFrame : List Byte := (other 5).stFrame 4 1023 1 0 0 0 0 (zeros 16)

theorem witness_StationFramesAreCheckedAndAnswered :
    (stn.domainOn 7 = true ∧ ((stn.reach 0).prpSeen 4 (ether (outFrame 5 1))).1 = false ∧ stn.ethKind (ether (outFrame 5 1)) = .station [2, 0, 0, 0, 0, 1] (outFrame 5 1) ∧
      stn.stationPort 4 = true ∧ (headerOk (outFrame 5 1) && payloadOk (outFrame 5 1) && stn.frameForUs (outFrame 5 1)) = true ∧ stn.pwr.role = .station ∧ frType (outFrame 5 1) = 2) ∧
    (frSrc (outFrame 5 1) = stn.inForce 0x1300 1 0xFFFF ∧ frPeriod (outFrame 5 1) = stn.clk.p ∧ stn.net.accNode = 0xFFFF) ∧
    (frSrc (outFrame 9 1) ≠ stn.inForce 0x1300 1 0xFFFF ∧ frSrc (outFrame 9 1) ≠ stn.inForce 0x1300 2 0xFFFF) ∧
    (frPeriod (outFrame 5 1) ≠ (stn.upClk (fun k => { k with p := 2000 })).clk.p) ∧
    (let s := stn.upNet (fun n => { n with accNode := 6, accTerm := 2 })
     s.net.accNode ≠ 0xFFFF ∧ frTerm (outFrame 5 1) < s.net.accTerm) ∧
    (let s := stn.upNet (fun n => { n with accNode := 6, accTerm := 1 })
     frTerm (outFrame 5 1) = s.net.accTerm ∧ frSrc (outFrame 5 1) ≠ s.net.accNode) ∧
    (frType claimFrame = 4 ∧ (headerOk claimFrame && payloadOk claimFrame && stn.frameForUs claimFrame) = true) ∧
    (stn.ethKind [] = .other ∧ stn.ethKind (zeros 12 ++ [0x89, 0x2F]) = .hsr ∧ headerOk [] = false ∧ (stn.upTrc (fun q => { q with streaming := true })).stationPort 5 = false) ∧
    (4 ≤ 4 ∧ stn.net.txq = [] ∧ (frSync (outFrame 5 1) && stn.isLocked) = false) := by decide

/-- An INPUT and a STATUS of station 7. -/
def inFrame : List Byte := (other 7).stFrame 1 1023 0 0 0 0 0 (zeros 16)
@[inherit_doc inFrame] def statusFrame7 (r : Nat) : List Byte := (other 7).stFrame 3 0xFFFF 0 0 0 0 0 (leBytes 2 0 ++ leBytes 2 0xFFFF ++ [0] ++ leBytes 1 r ++ zeros 10)

theorem witness_InputAndStatusFramesAtAController :
    (ctl.domainOn 7 = true ∧ ((ctl.reach 0).prpSeen 4 (ether inFrame)).1 = false ∧ ctl.ethKind (ether inFrame) = .station [2, 0, 0, 0, 0, 1] inFrame ∧ ctl.stationPort 4 = true ∧
      (headerOk inFrame && payloadOk inFrame && ctl.frameForUs inFrame) = true ∧ frSrc inFrame ≠ ctl.node ∧ ctl.pwr.role = .controller ∧ frType inFrame = 1) ∧
    (ctl.slotOf (frSrc inFrame) = some 255 ∧ getLE inFrame 40 2 = ctl.slotCfg 255 4 0 ∧ getLE inFrame 42 2 = ctl.slotCfg 255 6 0 ∧ ctl.csw.role = .solo ∧ up.slotOf (frSrc inFrame) = none) ∧
    (frPeriod inFrame = ctl.clk.p ∧ (ctl.slot 255).lastBeat0 = none ∧ (ctl.slot 255).lastBeat1 = none) ∧
    (frType (statusFrame7 1) = 3 ∧ headerOk (statusFrame7 1) = true ∧ byteAt (statusFrame7 1) 37 = 1 ∧ byteAt (statusFrame7 3) 37 = 3 ∧ byteAt (statusFrame7 0) 37 = 0) ∧
    (({ ctl with csw := activeUnit.csw }).csw.role = .active ∧ bestFrame [(0, inFrame)] = some (0, inFrame)) := by decide

/-- An ARP request for the own address, and the module with that address. -/
def ipUnit : State := { up with dict := { up.dict with force := [(entryKey 0x1110 1, [10, 0, 0, 1])] }, net := { up.net with link := 0x3F#6 } }

theorem witness_StationFramesAreSent :
    (stn.pwr.role = .station ∧ stn.pwr.started = true ∧ stn.domainOn 7 = true ∧ stn.net.txq = []) ∧ ctl.pwr.role ≠ .station ∧
    (ctl.executes = true ∧ ctl.pwr.started = true ∧ ctl.pwr.role = .controller ∧ ctl.domainOn 7 = true ∧ ctl.usedSlots = [255] ∧ (ctl.slot 255).sentFor = []) ∧ sb.executes = false ∧
    (let s := running 0 0 Lane.reset ctl
     s.executes = true ∧ s.clk.running = false ∧ s.ldr.img.isSome = true) ∧ beating.clk.running = true ∧
    (sb.governs = false ∧ ctl.governs = true) ∧
    (ctl.net.link.getLsbD 5 = !true ∧ ipUnit.net.link.getLsbD 5 = !false ∧ ctl.prpOn 1 = true ∧ State.reset.domainOn 7 = false) ∧
    (ipUnit.inForce 0x1110 1 0 ≠ 0 ∧ up.inForce 0x1110 1 0 = 0 ∧ (ipUnit.prpSeen 4 (zeros 60)).1 = false ∧ ipUnit.arpAnswer (zeros 60) = none ∧ ipUnit.echoAnswer (zeros 60) = none) ∧
    (ipUnit.arpAnswer (zeros 12 ++ [0x08, 0x06] ++ zeros 6 ++ [0, 1] ++ zeros 16 ++ ipUnit.ipBytes)).isSome = true := by decide


/-! ### Chapters 10 to 12: hypotheses that are met -/

/-- Port 7 on its bus, changed; one of its buffers configured. -/
def port7 (f : Can → Can) (s : State) : State := s.upCanPort 7 (fun c => f { c with offBus := false, ctrl := 0, busOff := false, xcvr := true, bufSel := 63 })
@[inherit_doc port7] def buf7 (cfg : Word) (f : CanBuf → CanBuf) : State := (port7 id up).upBuf 7 63 (fun b => f { b with cfg := cfg })

/-- A transmission of buffer 63. -/
def tx0 : CanTx := ⟨[0x10000000, 0], 0, 0, false⟩

theorem witness_CanFramesAreReceived :
    (((port7 id up).canPort 7).listens = true ∧ (up.canPort 7).listens = false ∧ (frameWord (canFrame [0, 0] 0 64) 1).getLsbD 4 = false ∧
      (frameWord (canFrame [0, 0x10] 0 64) 1).getLsbD 4 = true ∧ ((port7 id up).canPort 7).ctrl.getLsbD 2 = false ∧ ((port7 id up).canPort 7).rxErr ≤ 127) ∧
    ((port7 id up).canPort 7).target (canFrame [0, 0] 0 64) = none ∧
    (((buf7 1 id).canPort 7).target (canFrame [0, 0] 0 64) = some 63 ∧ (((buf7 1 id).canPort 7).buf 63).owner = 0 ∧ (((buf7 1 id).canPort 7).buf 63).locked = false) ∧
    (((buf7 1 (fun b => { b with locked := true })).canPort 7).buf 63).locked = true ∧ (((buf7 5 id).canPort 7).buf 63).owner = 1 ∧ (((buf7 9 id).canPort 7).buf 63).owner = 2 ∧
    ((port7 id up).readReaches .sup0 (canAddr 7 (0xA00 + 4 * 17)) = true ∧ State.reset.readReaches .sup0 (canAddr 7 (0xA00 + 4 * 17)) = false ∧
      (port7 id up).readReaches .sup0 (canAddr 7 (0xA80 + 4 * 17)) = true ∧ (port7 id up).readReaches .sup0 (canAddr 7 0x038) = true) ∧
    ((port7 id up).canPort 7).fifo = [] ∧ ((port7 (fun c => { c with fifo := [(63, [0])] }) up).canPort 7).fifo = [(63, [0])] := by decide

theorem witness_CanErrorsAndBusState :
    (((port7 id up).canPort 7).listens = true ∧ ((port7 id up).canPort 7).txErr ≤ 255 ∧ (up.canPort 7).listens = false ∧ ((port7 id up).canPort 7).current = none) ∧
    ((port7 (fun c => { c with current := some (63, tx0) }) up).canPort 7).current = some (63, tx0) ∧
    ((port7 id up).readReaches .host (canAddr 7 0x00C) = true ∧ (port7 id up).privOf .host = true ∧ ({ port7 id up with host := HostSt.reset }).privOf .host = false ∧
      ({ port7 id up with host := HostSt.reset }).readReaches .host (canAddr 7 0x00C) = true) ∧
    (((port7 id up).canPort 7).gateEn 0 = false ∧ ((port7 (fun c => { c with gates := [(0, 0x8000)] }) up).canPort 7).gateEn 0 = true) ∧
    (let c := (port7 (fun c => { c with busOff := true, recovering := true }) up).canPort 7
     c.busOff = true ∧ c.recovering = true) ∧
    (((port7 id up).canPort 7).busOff = false ∧ ((port7 id up).canPort 7).init = false ∧ ((port7 id up).canPort 7).xcvr = true ∧ ((port7 (fun c => { c with ctrl := 1 }) up).canPort 7).init = true) := by decide

/-- Port 7 with the gate matrix running and the window of gate 1 open for buffer 63. -/
def gated (f : Can → Can) : State := (port7 (fun c => f { c with ctrl := 8, gateOff := false, gates := [(1, 0x8000), (0, 0x8000)], cells := [(4, 0xBF)], window := some (1, 63) }) beating).upBuf 7 63 (fun b => { b with cfg := 0x12, queue := [tx0] })

theorem witness_CanTransmitQueuesAndGateWindows :
    (wfield 63#32 5 0 = 63 ∧ (port7 id up).readReaches .sup0 (canAddr 7 0x03C) = true ∧ (port7 id up).readReaches .sup0 (canAddr 7 0x040) = true ∧ standbyUnit.csw.role = .standby) ∧
    ((((buf7 1 id).canPort 7).buf 63).dir ≠ 2 ∧ (((buf7 2 id).canPort 7).buf 63).dir = 2 ∧ (((buf7 2 id).canPort 7).buf 63).owner = 0 ∧ (((buf7 2 id).canPort 7).buf 63).queue.length < 4) ∧
    4 ≤ (((buf7 2 (fun b => { b with queue := List.replicate 4 tx0 })).canPort 7).buf 63).queue.length ∧
    ((buf7 2 (fun b => { b with queue := [tx0] })).canOffer 7 = some (63, tx0) ∧ (buf7 2 id).romActive 7 = false ∧ ((buf7 2 id).canPort 7).current = none ∧ (buf7 2 id).canOffer 7 = none) ∧
    (((buf7 2 id).canPort 7).window = none ∧ (buf7 2 id).gateActive 7 = false) ∧
    ((gated id).gateActive 7 = true ∧ ((gated id).canPort 7).window = some (1, 63) ∧ ((gated id).canPort 7).refPending = false ∧ ((gated id).canPort 7).gateFrame 63 = some tx0 ∧
      (((gated id).canPort 7).buf 63).queue = [tx0]) ∧
    ((port7 (fun c => { c with current := some (63, tx0) }) up).canPort 7).current = some (63, tx0) ∧
    (((gated id).canPort 7).gateEn 1 = true ∧ ((gated (fun c => { c with ctrl := 0x48 })).canPort 7).ctrl.getLsbD 6 = true ∧ ((gated id).canPort 7).cell 1 0 = some 63 ∧
      ((gated id).canPort 7).cell 1 1 = none) := by decide

/-- A request of one operation, whole; the module with it at the head of its queue. -/
def unit (op session : Nat) (body : List Byte) : List Byte := leBytes 1 1 ++ leBytes 1 op ++ leBytes 2 session ++ leBytes 4 7 ++ zeros 2 ++ leBytes 2 body.length ++ zeros 4 ++ body
@[inherit_doc unit] def asked (c : KChan) (u : List Byte) (s : State) : State := s.upDict (fun d => { d with queue := [(c, u)] })

/-- Session 1 of client 3 over UDP, with privilege. -/
def sess (b : Option (Nat × List EditItem)) : Session := ⟨1, 3, .udp 1 2, true, none, 0, b, 0⟩
@[inherit_doc sess] def open1 (b : Option (Nat × List EditItem)) (s : State) : State := s.upDict (fun d => { d with sessions := [sess b] })

theorem witness_KivaselUnitsArriveAndAnswersLeave :
    (up.domainOn 1 = true ∧ up.pwr.recovery = false ∧ up.dict.parked = false ∧ 16 ≤ (unit 1 0 (zeros 8)).length ∧ up.dict.queue.length < 64) ∧
    64 ≤ (up.upDict (fun d => { d with queue := List.replicate 64 (.s1, []) })).dict.queue.length ∧ ({ up with pwr := { up.pwr with domains := 0 } }).domainOn 1 = false ∧
    ((asked .s1 (unit 0x7F 0 []) up).dict.queue = [(.s1, unit 0x7F 0 [])] ∧ up.kvWaits .s1 (unit 0x7F 0 []) = false ∧ unitOk .s1 (unit 0x7F 0 []) = false ∧ unitOk .s1 (unit 1 0 (zeros 8)) = true) ∧
    (up.dict.usbOff = false ∧ up.inForce (0x2800 + 7) 14 0xFFFFFFFF = 0xFFFFFFFF) ∧ (up.domainOn 7 = true ∧ ipUnit.inForce 0x1110 1 0 ≠ 0) ∧
    (let s := (port7 id up).upDict (fun d => { d with force := [(entryKey 0x2807 13, [5, 0, 0, 0])] })
     (s.canPort 7).listens = true ∧ s.inForce (0x2800 + 7) 13 0xFFFFFFFF ≠ 0xFFFFFFFF ∧ (((s.reach 0).canHeard 7).canPort 7).partialSeq = none) ∧
    (byteAt ([0xC0] : List Byte) 0).testBit 7 = true ∧ (byteAt ([0xC0] : List Byte) 0).testBit 6 = true ∧ byteAt ([0x80] : List Byte) 0 % 64 = 0 ∧ (byteAt ([0x41] : List Byte) 0).testBit 7 = false ∧
    byteAt ([0x40] : List Byte) 0 % 64 = (63 + 1) % 64 ∧
    ((port7 (fun c => { c with partialSeq := some 63 }) up).canPort 7).partialSeq.isSome = true ∧ (up.readReaches .sup0 0x13004 = true ∧ up.dict.odxBusy = false ∧ up.dict.odxReady = false) := by decide

theorem witness_KivaselSessionsAndBatches :
    (let u := unit 1 0 (leBytes 4 3 ++ zeros 4)
     (asked .s1 u up).dict.queue = [(.s1, u)] ∧ unitOk .s1 u = true ∧ (asked .s1 u up).kvWaits .s1 u = false ∧ uOp u = 1 ∧ getLE (u.drop 16) 0 4 = 3 ∧
      (asked .s1 u up).dict.sessions.find? (fun y => decide (y.client = 3)) = none ∧ (open1 none up).dict.sessions.find? (fun y => decide (y.client = 3)) = some (sess none)) ∧
    ([unit 2 1 [], unit 3 1 [], unit 4 1 (zeros 32), unit 0x10 1 (zeros 12), unit 0x11 1 (zeros 4), unit 0x12 1 (zeros 4), unit 0x20 1 (zeros 12), unit 0x30 1 (leBytes 4 1), unit 0x31 1 (zeros 8), unit 0x32 1 (leBytes 4 1),
      unit 0x33 1 (leBytes 4 1), unit 0x34 1 (leBytes 4 1)].all (fun u => unitOk (.udp 1 2) u && decide ((open1 none up).sessionOf (.udp 1 2) u = some (sess none)) && decide (up.sessionOf (.udp 1 2) u = none) &&
        !(open1 none up).kvWaits (.udp 1 2) u)) = true ∧
    (up.pwr.recovery = false ∧ up.dict.fuses.getLsbD 2 = false ∧ (up.upDict (fun d => { d with fuses := 4#4 })).dict.fuses.getLsbD 2 = true) ∧
    (up.dict.lockedOut.contains (lockChan (.udp 1 2)) = false ∧ (up.upDict (fun d => { d with lockedOut := [.udp 0 0] })).dict.lockedOut.contains (lockChan (.udp 1 2)) = true) ∧
    (allZero up.accessKey = true ∧ (.s1 : KChan) ≠ .odx) ∧ (sb.governs = false ∧ up.governs = true ∧ up.pwr.role = .controller) ∧
    (up.sto.lastApplied 3 = none ∧ up.sto.lastAccepted 3 = none ∧ (up.upSto (fun x => { x with applied := [(3, 1)], appliedDur := [(3, 1)] })).sto.lastApplied 3 = some 1 ∧ atOrBelow 1 1 = true) ∧
    ((sess (some (1, []))).batch = some (1, []) ∧ up.checkItems [] = .inl [] ∧ up.batchState (sess none) 1 = (0, 0)) ∧
    ((open1 none up).dict.session 1 = some (sess none) ∧ (sess none).used + 60000000000 ≤ 60000000000 ∧ up.dict.session 1 = none) := by decide

theorem witness_KivaselReadsAndWrites :
    (let u := unit 0x20 1 (leBytes 2 0x1010 ++ [1, 0] ++ zeros 4 ++ [1, 0, 0, 0] ++ leBytes 4 0xA5A50003)
     let s := asked (.udp 1 2) u (open1 none up)
     s.dict.queue = [(.udp 1 2, u)] ∧ unitOk (.udp 1 2) u = true ∧ s.kvWaits (.udp 1 2) u = false ∧ s.sessionOf (.udp 1 2) u = some (sess none) ∧ s.pwr.recovery = false ∧ s.dict.fuses.getLsbD 2 = false ∧
      uOp u = 0x20 ∧ getLE (u.drop 16) 0 2 = 0x1010 ∧ byteAt (u.drop 16) 2 = 1 ∧ getLE (u.drop 16) 4 4 = 0 ∧ (byteAt (u.drop 16) 8).testBit 0 = true ∧ s.isPriv (sess none) = true ∧
      leNat ((u.drop 16).drop 12) = 0xA5A50000 + 3) ∧
    (up.find 0x1020 0 = .entry ⟨0x20, .priv, 32, some (zeros 32), .once⟩ ∧ up.find 0xC000 0 = .refused 2) ∧
    (netChan (.udp 1 2) = true ∧ netChan .s1 = false ∧ up.dict.fuses.getLsbD 3 = false ∧ up.dict.blowing.contains 3 = false ∧ (up.upDict (fun d => { d with blowing := [3] })).dict.blowing = [3] ∧ up.dict.blowing = []) ∧
    (up.getEntry 0x2205 0 false [] = .refused 4 0) ∧ (up.ldr.img = none ∧ up.ldr.staged = [] ∧ mapOk [] = false) := by decide

theorem witness_HostFramesReachTheFabric :
    (let s := up.upHost (fun h => { h with ready := true })
     s.host.ready = true ∧ s.domainOn 1 = true) ∧ (cmdOk 0x00 = true ∧ cmdOp 0x00 = 0) ∧ (cmdOk 0x18 = true ∧ cmdOp 0x18 = 1) ∧ (cmdOk 0x20 = true ∧ cmdOp 0x20 = 2) ∧ cmdOk 0x30 = false ∧
    (cmdOp 0x00 ≠ 2 ∧ (3 : Nat) % 4 ≠ 0) := by decide

theorem witness_HostPrivilegeChallengeAndProof :
    (up.readReaches .host 0x1500C = true ∧ up.dict.fuses.getLsbD 1 = false ∧ up.host.lockout = false ∧ (up.upHost (fun h => { h with fresh := true })).host.fresh = true ∧ allZero up.accessKey = true) ∧
    (up.host.fresh = false ∧ (up.upDict (fun d => { d with fuses := 2#4 })).dict.fuses.getLsbD 1 = true ∧ (up.upHost (fun h => { h with lockout := true })).host.lockout = true) := by decide

theorem witness_RegisterWritesAndRefusals :
    (up.domainOn 1 = true ∧ up.host.fault.getLsbD 0 = false ∧ (up.upHost (fun h => { h with fault := 1 })).host.fault.getLsbD 0 = true) ∧
    (up.readReaches .sup0 0x14 = true ∧ up.readReaches .sup0 0x18 = true ∧ up.readReaches .sup0 (0x1C00 + 1020) = true ∧ up.readReaches .sup0 0x10 = true ∧ up.readReaches .sup0 0x38 = true) ∧
    (up.privOf .sup0 = true ∧ wfield 0x20#32 5 4 ≠ 3 ∧ ({ up with host := HostSt.reset }).privOf .host = false) ∧
    (up.nvp.step.isSome = false) := by decide

theorem witness_MailboxOfWideValues :
    (up.readReaches .sup1 0x12000 = true ∧ wfield 5#32 7 0 ≤ 5 ∧ 5 < wfield 6#32 7 0 ∧ up.readReaches .sup1 (0x12008 + 4 * 2) = true) ∧ (up.mregs .sup1).mbxPending = false ∧ (up.mregs .sup1).mbxValid = false ∧
    (let s := up.upMregs .sup1 (fun r => { r with mbxPending := true, mbxValid := true, mbxWords := 3 })
     (s.mregs .sup1).mbxPending = true ∧ (s.mregs .sup1).mbxValid = true ∧ 2 < (s.mregs .sup1).mbxWords) := by decide

/-- A pending source of SUP0: SYS_EXE_CAUSE and its enable. -/
def raisedExe : State := up.upHost (fun h => { h with exeCause := 1, exeCauseEn := 0xFF })

theorem witness_InterruptClaimTakeAndDone :
    (targetOf .sup0 = some 0 ∧ up.readReaches .sup0 0x1010 = true ∧ up.readReaches .sup0 (0x1400 + 4 * 255) = true ∧ up.readReaches .sup0 0x1014 = true ∧ up.readReaches .sup0 (0x1800 + 4 * 79) = true) ∧
    (∀ j, j < 16 → up.vectored 0 j = false) ∧ ((List.range 16).any (fun j => raisedExe.vectored 0 j) = true) ∧ ((List.range 256).any raisedExe.pendingSrc = true ∧ up.pendingSrc 255 = false) ∧
    (sourceUsed 79 = true ∧ (0x0F#32 &&& 0xF4#32) ≠ 0 ∧ (0x0B#32 &&& 0xF4#32) = 0) ∧ aget ({ up with host := { up.host with serving := [(26, 0)] } }).host.serving 26 = some 0 := by decide


/-! ### Chapters 13 and 14: hypotheses that are met -/

/-- The started controller with an unprivileged HOST. -/
def plain : State := up.upHost (fun h => { h with priv := false })

/-- An occurrence, and the record that it makes. -/
def occ0 : Occ :=
  { code := 0x3001, source := 0, sev := 3, detail := [], cycles := 0, ot := 0, ms := 0, date := 0, time := 0, calValid := false, term := 0, at' := 0 }
@[inherit_doc occ0] def rec0 : Rec := occ0.record 0

/-- A recorder with records and waiting occurrences; a CLEAR of master 0 in progress. -/
def logged (q : List Occ) (l : List Rec) (s : State) : State := s.upEvr (fun e => { e with queue := q, recs := l })
@[inherit_doc logged] def clearing (s : State) : State := s.upEvr (fun e => { e with clearing := some 0 })

theorem witness_RecordsAreMergedWrittenOrDropped :
    (let s := logged [occ0] [rec0] up
     s.domainOn 1 = true ∧ s.evr.queue.length ≤ 64 ∧ s.evr.queue = occ0 :: [] ∧ s.evr.clearing = none ∧ s.evr.recs = [] ++ [rec0] ∧ rec0.code = occ0.code ∧
      rec0.source = occ0.source ∧ rec0.corrupt = false) ∧
    (let s := logged [occ0] [{ rec0 with source := 1 }] up
     (s.evr.recs = [] ++ [{ rec0 with source := 1 }] ∧ ({ rec0 with source := 1 } : Rec).source ≠ occ0.source) ∧ s.trigger occ0 = none ∧ s.evr.recs.length < 4096 ∧
      occ0.sev ≤ s.evr.level ∧ occ0.code / 256 ≠ 7) ∧
    (up.evr.queue = [] ∧ (clearing up).evr.clearing ≠ none) := by decide

theorem witness_RecordsAreMergedWrittenOrDropped_full :
    (let s := logged [occ0] (List.replicate 4096 { rec0 with sev := 5 }) up
     4096 ≤ s.evr.recs.length ∧ s.evr.recs = [] ++ { rec0 with sev := 5 } :: List.replicate 4095 { rec0 with sev := 5 } ∧ occ0.sev ≤ ({ rec0 with sev := 5 } : Rec).rank) ∧
    (let s := logged [occ0] (List.replicate 4096 { rec0 with sev := 2 }) up
     4096 ≤ s.evr.recs.length ∧ (∀ y ∈ s.evr.recs, y.rank < occ0.sev) ∧ occ0.sev < 8) := by
  refine ⟨⟨by simp [logged, State.upEvr], rfl, by decide⟩, by simp [logged, State.upEvr], ?_, by decide⟩
  intro y h
  rw [List.eq_of_mem_replicate h]
  decide

theorem witness_ARepetitionIsCountedInItsRecord :
    let s := logged [occ0] [{ rec0 with repeats := 0xFFFF }] up
    s.domainOn 1 = true ∧ s.evr.clearing = none ∧ s.evr.queue = occ0 :: [] ∧ ([] : List Occ).length < 64 ∧ s.evr.recs = [] ++ [{ rec0 with repeats := 0xFFFF }] ∧
      rec0.corrupt = false ∧ rec0.code = occ0.code ∧ rec0.source = occ0.source := by decide

theorem witness_EventLogReadingAndClearing :
    (let s := logged [] [{ rec0 with seq := 2 }] up
     s.readReaches .host 0x3100 = true ∧ s.evr.clearing = none ∧ (s.recorderReads (s.latchErrors .host [])).evr.at' (s.cursor .host) = some { rec0 with seq := 2 } ∧
      ({ rec0 with seq := 2 } : Rec).seq ≠ s.cursor .host ∧ (logged [] [rec0] up).evr.at' (up.cursor .host) = some rec0 ∧ rec0.seq = up.cursor .host) ∧
    (up.readReaches .host 0x3100 = true ∧ up.evr.clearing = none ∧ up.evr.at' (up.cursor .host) = none) ∧
    (let s := up.upMregs .host (fun r => { r with winSeq := some 0xFFFFFFFF })
     s.readReaches .host 0x31FC = true ∧ s.evr.clearing = none ∧ (s.mregs .host).winSeq = some 0xFFFFFFFF) ∧
    (up.readReaches .host 0x301C = true ∧ up.privOf .host = true ∧ (0xA5C2#32 : Word) ≠ 0xA5C3#32) ∧ (plain.readReaches .host 0x301C = true ∧ plain.privOf .host = false) ∧
    (let s := clearing up
     s.evr.clearing = some 0 ∧ s.evr.queue.length < 62 ∧ 5 ≤ (s.upEvr (fun e => { e with level := 5 })).evr.level) := by decide

theorem witness_EventLogReadingAndClearing_untriggered : ∀ o : Occ, o.code = 2 → o.source = 0 → o.sev = 5 → (clearing up).trigger o = none := by
  have e : ∀ i ∈ List.range 128, (clearing up).trig i 1 = 0 := by decide
  intro o h _ _
  refine List.find?_eq_none.2 fun i hi => ?_
  simp only [State.trigMatches, e i hi, h]
  simp

/-- Watchdog slot 4 armed at 0 with an owner. -/
def armed4 (owner : Nat) (k : WSlot → WSlot) (s : State) : State := s.upWslot 4 (fun w => k { w with armed := true, owner := owner, period := 1, winOpen := 8 })

theorem witness_WaymarkCheckinsAndPeriods :
    (let s := armed4 3 id up
     (s.wslot 4).armed = true ∧ s.clk.now ≤ 400000 ∧ 400000 / 1000 < (s.wslot 4).endTick ∧ 400000 / 1000 < (s.wslot 4).openTick ∧ s.readReaches .host 0x2018 = true ∧
      (s.wslot 4).owner = 3 ∧ wfield (0xA504#32) 4 0 = 4 ∧ wfield (0xA504#32) 15 8 = 0xA5 ∧ s.wdg.firstValid = false) ∧
    ((armed4 3 (fun w => { w with first := true }) up).wslot 4).first = true ∧ ((armed4 3 (fun w => { w with failed := true }) up).wslot 4).failed = true ∧
    ((armed4 2 id up).wslot 4).owner = 2 ∧ ((armed4 2 id up).wslot 4).number = 0 ∧ ((armed4 2 id up).wslot 5).owner ≠ 2 ∧
    (let s := armed4 3 id up
     (s.wslot 4).endTick ≤ 1000000 / 1000 ∧ 1000000 / 1000 < ((s.wslot 4).start + 2 * (s.wslot 4).periodNs) / 1000 ∧ ((s.wslot 4).checked || (s.wslot 4).failed) = false) ∧
    (((armed4 3 (fun w => { w with checked := true }) up).wslot 4).checked || false) = true := by decide

/-- A watchdog reset decided at 100. -/
def barking (s : State) : State := s.upWdg (fun w => { w with resetting := some (4, 3, 100) })

/-- A page step of the parameter store, and the state that is in it. -/
def step0 : PageStep := { cmd := none, job := ⟨1536, 0, []⟩, erasing := true, spare := false, rest := [] }
@[inherit_doc step0] def stepping (p : PageStep) (s : State) : State := s.upNvp (fun n => { n with step := some p, ready := true })

theorem witness_WatchdogResetAndItsCount :
    ((barking up).wdg.resetting = some (4, 3, 100) ∧ (barking up).nvp.step = none ∧ (barking up).evr.queue.any (fun o => decide (o.code = 0x3005)) = false ∧
      (barking up).csw.withdraw = false) ∧
    (stepping step0 (barking up)).nvp.step.isSome = true ∧ (logged [{ occ0 with code := 0x3005 }] [] (barking up)).evr.queue.any (fun o => decide (o.code = 0x3005)) = true ∧
    (let s := seen (fun c => { c with withdraw := true }) (barking up)
     s.csw.withdraw = true ∧ max s.clk.now 14099 < 100 + 14000 ∧ 100 + 14000 ≤ max s.clk.now 14100) ∧
    up.wdg.resetting = none ∧ (up.readReaches .host 0x201C = true ∧ up.privOf .host = true) ∧ (plain.readReaches .host 0x201C = true ∧ plain.privOf .host = false) := by decide

/-- An anchor, and its item at beat 4. -/
def anchor0 : Anchor :=
  { head := zeros 291, digest := [], p := 1000, laneMode := 0, table := 0, ptp := false, sync := false, complete := false, x := [], view := [], outs := [], inst := [] }
@[inherit_doc anchor0] def anchorItem (a : Anchor) : TItem := { type := 8, beat := 4, bytes := [], corrupt := false, anchor := some a }

/-- The trace unit in another condition. -/
def traced (k : Trc → Trc) (s : State) : State := s.upTrc k

theorem witness_AnchorsFreezesAndTheTraceStream :
    (up.readReaches .host 0x1400C = true ∧ up.privOf .host = true) ∧ (plain.readReaches .host 0x1400C = true ∧ plain.privOf .host = false) ∧
    (up.trc.st = 0 ∧ (traced (fun q => { q with st := 2 }) up).trc.st = 2 ∧ (traced (fun q => { q with st := 1 }) up).trc.st = 1) ∧
    (up.trc.anchorAt + up.inForce 0x5301 0 600 * 1000000000 ≤ max up.clk.now 600000000000 ∧ max up.clk.now 599999999999 < up.trc.anchorAt + up.inForce 0x5301 0 600 * 1000000000) ∧
    up.trc.anchorCopy = none ∧
    (let s := traced (fun q => { q with anchorCopy := some 4 }) up
     s.trc.anchorCopy = some 4 ∧ ∀ y ∈ s.trc.items, s.trc.heldBack y = false) ∧
    (let s := traced (fun q => { q with anchorCopy := some 4, items := [anchorItem anchor0] }) up
     s.trc.anchorCopy = some 4 ∧ s.trc.items = [] ++ anchorItem anchor0 :: [] ∧ s.trc.heldBack (anchorItem anchor0) = true) ∧
    (let s := traced (fun q => { q with anchorReq := true, anchorWait := 65536 }) up
     s.trc.anchorReq = true ∧ 65536 ≤ s.trc.anchorWait ∧ up.trc.anchorReq = false ∧ up.trc.anchorWait < 65536) ∧
    (let s := traced (fun q => { q with st := 1 }) beating
     s.trc.st = 1 ∧ s.trc.postLeft = 0 ∧ (traced (fun q => { q with st := 1 }) up).clk.running = false ∧ (traced (fun q => { q with st := 1, postLeft := 1 }) beating).trc.postLeft ≠ 0 ∧
      s.clk.running = true) ∧
    up.trc.streaming = false ∧
    (let s := { traced (fun q => { q with streaming := true, items := [{ type := 9, beat := 4, bytes := [5], corrupt := false, anchor := none }] }) up with net := { up.net with link := 0xFF } }
     s.trc.streaming = true ∧ s.domainOn 7 = true ∧ s.net.link.getLsbD 5 = true ∧ (s.trc.readable.drop (s.trc.streamPos - s.trc.lost)).take 1456 ≠ []) ∧
    (let s := { traced (fun q => { q with streaming := true }) up with net := { up.net with link := 0xFF } }
     s.trc.streaming = true ∧ s.net.link.getLsbD 5 = true ∧ (s.trc.readable.drop (s.trc.streamPos - s.trc.lost)).take 1456 = []) := by decide

/-- A load of one item, an anchor of beat 4 that is complete or not, cut short; the unit holds an image of its digest and period. -/
def loaded (c : Byte) : State :=
  (traced (fun q => { q with load := [8, 0, 0, 0] ++ leBytes 4 352 ++ leBytes 8 4 ++ zeros 336 ++ leBytes 4 replayUnit.clk.p ++ [0, 0, 0, c] ++ zeros 8 }) replayUnit).upLdr
    (fun l => { l with img := some (image0 0 0), digest := zeros 32 })

theorem witness_ReplayLoadStartStopAndDiscard :
    (up.pwr.role ≠ .replay ∧ (traced (fun q => { q with replay := 2 }) replayUnit).trc.replay = 2 ∧ (traced (fun q => { q with replay := 2 }) replayUnit).pwr.role = .replay) ∧
    (let s := replayUnit
     s.pwr.role = .replay ∧ s.trc.replay ≠ 2 ∧ (1 : Nat) ≠ s.trc.loadPart.length ∧ 0 + [(1 : Byte)].length ≤ s.trc.cap) ∧
    (let s := traced (fun q => { q with loadPart := [1] }) replayUnit
     s.pwr.role = .replay ∧ s.trc.loadPart.length = 1 ∧ (0 : Nat) = ([] : List Byte).length) ∧
    (readItems replayUnit.trc.load.length replayUnit.trc.load = [] ∧ replayUnit.trc.replay ≠ 2) ∧ ((loaded 1).pwr.state ≠ .reduced ∧ (loaded 1).ldr.img.isSome = true) ∧
    (let s := loaded 1
     (readItems s.trc.load.length s.trc.load).head?.any (fun x => !x.corrupt && x.anchor.any (fun a => a.complete && decide (a.digest = s.ldr.digest ∧ a.p = s.clk.p) &&
       decide (a.laneMode = if s.clu.single then 1 else 0))) = true) ∧
    (let s := loaded 0
     (readItems s.trc.load.length s.trc.load).head?.any (fun x => !x.corrupt && x.anchor.any (fun a => !a.complete)) = true) := by decide


/-! ### Chapters 15 to 17 and 19: hypotheses that are met -/

/-- The parameter store ready, in another condition; HOST with record or page `k` of its registers. -/
def stored (k : Nvp → Nvp) (s : State) : State := s.upNvp (fun n => k { n with ready := true })
@[inherit_doc stored] def asks (k : MasterRegs → MasterRegs) (s : State) : State := s.upMregs .host k

theorem witness_ParameterStoreCommands :
    (let s := asks (fun r => { r with nvpRec := 768 }) (stored id up)
     s.nvp.step = none ∧ s.nvp.cmds = [] ∧ s.readReaches .host 0x500C = true ∧ (s.mregs .host).nvpBusy = false ∧ s.nvp.ready = true ∧ 768 ≤ (s.mregs .host).nvpRec ∧
      (∀ k ∈ [1536, 1537], s.nvp.isProtected k = false ∧ s.nvp.readOnly.contains k = false)) ∧
    (((asks (fun r => { r with nvpRec := 767 }) up).mregs .host).nvpRec < 768 ∧ up.privOf .host = true ∧ (up.nvp.page 0).bad = [] ∧ (up.nvp.page 1).bad = [] ∧ up.nvp.selected 0 = none) ∧
    (stored (fun n => { n with prot := 1 }) up).nvp.isProtected 1536 = true ∧
    (let s := stored (fun n => { n with readOnly := [1537] }) up
     s.nvp.isProtected 1536 = false ∧ s.nvp.isProtected 1537 = false ∧ s.nvp.readOnly.contains 1537 = true) ∧
    (let s := asks (fun r => { r with nvpPage := 1, nvpGroup := 15, nvpCount := 1 }) (stored id up)
     s.readReaches .host 0x5018 = true ∧ s.privOf .host = true ∧ (s.mregs .host).nvpBusy = false ∧ 1 ≤ (s.mregs .host).nvpCount ∧
      (s.mregs .host).nvpCount + (s.mregs .host).nvpGroup ≤ 16 ∧ (s.mregs .host).nvpPage < 2048 ∧ s.nvp.isProtected 1 = false ∧ s.nvp.readOnly.contains 1 = false ∧ (s.nvp.page 1).bad = []) ∧
    (stored (fun n => { n with prot := 3 }) up).nvp.isProtected 1 = true ∧
    (let s := asks (fun r => { r with nvpPage := 2047, nvpGroup := 15, nvpCount := 2 }) (stored id up)
     32768 < 16 * (s.mregs .host).nvpPage + (s.mregs .host).nvpGroup + (s.mregs .host).nvpCount) ∧
    (stored (fun n => { n with ready := false }) up).nvp.ready = false ∧ ((asks (fun r => { r with nvpBusy := true }) up).mregs .host).nvpBusy = true := by decide

/-- Record 0 with a valid first copy: 248 bytes of 0xFF with the greatest SEQ. -/
def written : State := stored (fun n => { n with pages := [(0, ⟨[(252, 0xF8), (253, 0x00), (254, 0x65), (255, 0x85)], []⟩)] }) up

set_option maxRecDepth 100000 in
theorem witness_ParameterStoreCommands_selected :
    (written.nvp.selected 0).isSome = true ∧ (chooseCopy (written.nvp.page 0) (written.nvp.page 1)).2 = false ∧ (written.nvp.page 0).bad = [] := by decide

/-- A raw command of HOST. -/
def rawCmd : NvpCmd :=
  { who := some .host, priv := true, op := .rawWrite, record := 0, len := 0, page := 1536, group := 0, count := 1, data := zeros 16, ecc := [], key := 0, reply := none }

theorem witness_PageStepsAndTheWaxPass :
    (let p := { step0 with cmd := some rawCmd, job := ⟨1536, 0, zeros 16⟩ }
     let s := stepping p up
     s.pwr.resetPend = false ∧ s.wdg.resetting = none ∧ s.nvp.cmds = [] ∧ s.nvp.step = some p ∧ p.cmd = some rawCmd ∧ rawCmd.who = some .host ∧ p.rest = [] ∧ p.spare = false ∧
      p.erasing = true ∧ p.job.data ≠ [] ∧ s.nvp.spares < 64 ∧ 64 ≤ (stored (fun n => { n with spares := 64 }) s).nvp.spares) ∧
    (({ step0 with cmd := some rawCmd } : PageStep).job.data = [] ∧ ({ step0 with erasing := false } : PageStep).erasing = false) ∧
    (let s := stored (fun n => { n with waxOn := true, waxRunning := true, waxPage := 2047 }) up
     s.waxMay = true ∧ s.nvp.waxRunning = true ∧ s.nvp.step = none ∧ s.nvp.waxPage < 2048 ∧ aget s.nvp.remaps s.nvp.waxPage = none ∧ (s.nvp.page s.nvp.waxPage).bad = [] ∧
      (s.nvp.page s.nvp.waxPage).valid = false ∧ s.nvp.readOnly.contains s.nvp.waxPage = false ∧ s.nvp.waxLate = false ∧ s.nvp.waxBegan + 604800000 ≤ (s.reach 604800000000000).otMs ∧
      (s.reach 604799999999999).otMs < s.nvp.waxBegan + 604800000) ∧
    (stored (fun n => { n with readOnly := [0] }) up).nvp.readOnly.contains 0 = true ∧
    (let s := stored (fun n => { n with waxOn := true, waxRunning := true, waxPage := 2111 }) up
     s.nvp.waxPage = 2111 ∧ s.nvp.waxTarget 2111 = none) ∧
    (let s := stored (fun n => { n with waxOn := true, waxRunning := false }) up
     s.waxMay = true ∧ s.nvp.waxRunning = false ∧ s.nvp.waxBegan + 86400000 ≤ (s.reach 86400000000000).otMs ∧ (s.reach 86399999999999).otMs < s.nvp.waxBegan + 86400000) ∧
    State.reset.waxMay = false ∧ (up.readReaches .host 0x5030 = true ∧ up.privOf .host = true) ∧ (plain.readReaches .host 0x5030 = true ∧ plain.privOf .host = false) := by decide

/-- A firmware load in a phase, the state that is in it, and the header of a body of 16 bytes. -/
def load0 (ph : FwPhase) : FwLoad := { bank := 1, len := 16, phase := ph, next := 256, data := zeros 16, last := false, reply := none }
@[inherit_doc load0] def inLoad (l : FwLoad) (s : State) : State := s.upFw (fun f => { f with load := some l })
@[inherit_doc load0] def header0 : List Byte :=
  [0x57, 0x4B, 0x46, 0x57] ++ leBytes 4 1 ++ leBytes 4 16 ++ zeros 148 ++ List.replicate 48 0xFF ++ zeros 48

theorem witness_FirmwareLoadsStepByStep :
    (up.fw.load = none ∧ fwHeaderOk [] = false ∧ fwHeaderOk header0 = true) ∧
    (let l := load0 .idle
     (inLoad l up).fw.load = some l ∧ l.phase = .idle ∧ (256 : Nat) = l.next ∧ 256 + (zeros 16).length ≤ 256 + l.len ∧ (257 : Nat) ≠ l.next ∧ 256 + l.len < 256 + (zeros 17).length) ∧
    (let l := load0 .erase
     (inLoad l up).fw.load = some l ∧ l.phase = .erase ∧ l.phase ≠ .idle ∧ l.data.length ≤ 256 + l.len ∧ l.last = false) ∧
    (let l := load0 .program
     (inLoad l up).fw.load = some l ∧ l.phase = .program ∧ l.last = false ∧ ({ l with last := true } : FwLoad).last = true ∧ l.next + l.data.length = 256 + l.len) ∧
    (load0 .verify).phase = .verify := by decide

/-- The calendar in another condition. -/
def clocked (k : Rtc → Rtc) (s : State) : State := s.upRtc k

/-- The calendar at the last tick of a second, on a date at 23:59:59. -/
def lastTick (date : Word) : State := clocked (fun r => { r with sub := 32767, date := date, time := 0x235959#32 }) up

theorem witness_CalendarTicksSetsAndShifts :
    (up.pwr.aoRunning = true ∧ up.rtc.setBusy = none ∧ up.rtc.shift = 0 ∧ up.rtc.sub < 32767) ∧
    (let s := clocked (fun r => { r with sub := 32767 }) up
     s.rtc.sub = 32767 ∧ s.rtc.cal.sec + 1 < 86400) ∧
    (let s := lastTick 0x20240228#32
     86400 ≤ s.rtc.cal.sec + 1 ∧ s.rtc.cal.d < monthDays s.rtc.cal.y s.rtc.cal.m) ∧
    (let s := lastTick 0x20240229#32
     86400 ≤ s.rtc.cal.sec + 1 ∧ monthDays s.rtc.cal.y s.rtc.cal.m ≤ s.rtc.cal.d ∧ s.rtc.cal.m < 12) ∧
    (let s := lastTick 0x20241231#32
     86400 ≤ s.rtc.cal.sec + 1 ∧ monthDays s.rtc.cal.y s.rtc.cal.m ≤ s.rtc.cal.d ∧ 12 ≤ s.rtc.cal.m ∧ s.rtc.cal.y < 399) ∧
    (let s := lastTick 0x23991231#32
     86400 ≤ s.rtc.cal.sec + 1 ∧ monthDays s.rtc.cal.y s.rtc.cal.m ≤ s.rtc.cal.d ∧ 12 ≤ s.rtc.cal.m ∧ 399 ≤ s.rtc.cal.y) ∧
    (let s := clocked (fun r => { r with shiftTicks := 255, shift := 1 }) up
     s.rtc.setBusy = none ∧ s.rtc.shiftTicks = 255 ∧ s.rtc.sub < 32766 ∧ 0 < s.rtc.shift ∧ s.rtc.shift = 1) ∧
    ((clocked (fun r => { r with shiftTicks := 255, shift := -1 }) up).rtc.shift < 0 ∧ (clocked (fun r => { r with shiftTicks := 255, shift := -1 }) up).rtc.shift = -1) ∧
    (let s := clocked (fun r => { r with setBusy := some (0x20240229#32, 0x235959#32, 7) }) up
     s.rtc.setBusy = some (0x20240229#32, 0x235959#32, 7) ∧ s.rtc.setBusy.isSome = true) ∧
    (up.readReaches .host 0x402C = true ∧ up.readReaches .host 0x4034 = true ∧ up.readReaches .host 0x400C = true ∧ up.privOf .host = true) ∧
    possibleSet 0x20240229#32 0x235959#32 = true ∧ possibleSet 0x20230229#32 0x235959#32 = false ∧
    wfield (0xFFFF#32) 15 0 ≠ 0x8000 ∧ wfield (0x8000#32) 15 0 = 0x8000 ∧ (clocked (fun r => { r with shift := 3 }) up).rtc.shift ≠ 0 := by decide

/-- A wake frame for this unit. -/
def wakeFrame : List Byte := List.replicate 6 0xFF ++ zeros 6 ++ leBytes 2 0xB688 ++ zeros 8

/-- A unit in Parked; the supply in another condition. -/
def powered (k : Pwr → Pwr) (s : State) : State := s.upPwr k
@[inherit_doc powered] def parked : State := powered (fun p => { p with state := .parked, started := false }) up

theorem witness_WakeSourcesSetTheirBit :
    (up.pwr.aoRunning = true ∧ 4500 ≤ up.pwr.vinMv ∧ (powered (fun p => { p with vinMv := 4499 }) up).pwr.vinMv < 4500) ∧
    (let s := clocked (fun r => { r with wakeEn := 0x1F }) parked
     s.pwr.state = .parked ∧ 4500 ≤ s.pwr.vinMv ∧ s.rtc.wakeEn.getLsbD 4 = true ∧ s.takesWakeFrame = true ∧ (s.rtc.wakePend ||| (1#6 <<< 3)) &&& s.wakeEnabled ≠ 0) ∧
    (up.pwr.state ≠ .parked ∧ up.domainOn 7 = true ∧ ({ up with net := { up.net with link := 0xFF } } : State).net.link.getLsbD 0 = true) ∧
    (slice wakeFrame 0 6 = List.replicate 6 0xFF ∧ getLE wakeFrame 12 2 = 0xB688 ∧ slice wakeFrame 14 8 = padTo 8 ((aget up.dict.force (entryKey 0x2203 0)).getD [])) ∧
    getLE [] 12 2 ≠ 0xB688 ∧ (parked.pwr.state = .parked ∧ parked.rtc.wakeEn.getLsbD 4 = false ∧ (parked.rtc.wakePend ||| (1#6 <<< 3)) &&& parked.wakeEnabled = 0) ∧
    (let s := clocked (fun r => { r with interval := 2, ticks := 256 }) up
     s.rtc.interval ≠ 0 ∧ s.rtc.interval * 128 ≤ s.rtc.ticks) ∧
    (State.reset.pwr.started = false ∧ up.pwr.state = .run ∧ up.pwr.started = true) := by decide

theorem witness_ParkedRequestsAndTheCommitEdge :
    (ac.readReaches .host 0x34 = true ∧ ac.privOf .host = true ∧ ac.csw.role = .active ∧ ac.csw.partnerSeen = true ∧ ac.csw.partnerRole = 2) ∧
    (inLoad (load0 .idle) up).fw.load.isSome = true ∧
    (up.readReaches .host 0x34 = true ∧ up.csw.role ≠ .active ∧ up.fw.load = none ∧ up.pwr.parkReq = 0 ∧ up.pwr.started = true) ∧
    (plain.readReaches .host 0x34 = true ∧ plain.privOf .host = false) ∧
    (let s := powered (fun p => { p with parkReq := 4 }) up
     s.pwr.parkReq = 4 ∧ s.nvp.step = none ∧ s.sto.msDurable = s.sto.msCount ∧ s.rtc.wakePend &&& s.wakeEnabled = 0) ∧
    (let s := clocked (fun r => { r with wakePend := 4 }) up
     s.rtc.wakePend &&& s.wakeEnabled ≠ 0) ∧
    (up.pwr.parkReq ≠ 4 ∧ (stepping step0 up).nvp.step.isSome = true) ∧
    (up.pwr.recordAt + 600000000000 ≤ max up.clk.now 600000000000 ∧ up.nvp.cmds = [] ∧ ∀ k, up.nvp.readOnly.contains k = false) ∧
    (State.reset.pwr.started = false ∧ max up.clk.now 599999999999 < up.pwr.recordAt + 600000000000) := by
  refine ⟨by decide, by decide, by decide, by decide, by decide, by decide, by decide, ⟨by decide, by decide, fun _ => rfl⟩, by decide⟩

/-- An image with a reduced table, and one whose main lane sets need C. -/
def withReduced (s : State) : State := s.upLdr (fun l => { l with img := some { image0 0 0 with reduced := [row0 0 0] } })
@[inherit_doc withReduced] def withWide (s : State) : State := s.upLdr (fun l => { l with img := some { image0 0 0 with minSet := 4 } })

theorem witness_ReducedAndTheReturnToRun :
    (beating.pwr.state = .run ∧ beating.pwr.started = true ∧ beating.pwr.parkReq = 0 ∧ stationUnit.pwr.role ≠ .controller ∧ beating.minSetWide = false ∧ beating.hasReduced = false) ∧
    (let s := withReduced beating
     s.pwr.role = .controller ∧ s.minSetWide = false ∧ s.hasReduced = true ∧ s.executes = true ∧ s.clk.running = true ∧ s.sto.switching = none ∧ s.sto.tableReduced = false) ∧
    ((withReduced up).clk.running = false ∧ (withReduced standbyUnit).executes = false) ∧
    ((withWide beating).minSetWide = true ∧ (withWide activeUnit).csw.role = .active ∧ (withWide beating).csw.role = .solo ∧ (withWide standbyUnit).csw.role = .standby) ∧
    (State.reset.pwr.started = false ∧ 0 < (powered (fun p => { p with parkReq := 1 }) up).pwr.parkReq ∧ parked.pwr.state ≠ .run) ∧
    (let s := (withReduced (powered (fun p => { p with state := .reduced }) beating)).upSto (fun x => { x with tableReduced := true })
     s.pwr.state = .reduced ∧ s.pwr.parkReq = 0 ∧ s.pwr.role = .controller ∧ s.hasReduced = true ∧ s.executes = true ∧ s.clk.running = true ∧ s.sto.switching = none ∧ s.sto.tableReduced = true) ∧
    ((powered (fun p => { p with state := .reduced }) stationUnit).pwr.role = .station ∧ up.pwr.state ≠ .reduced) := by decide

/-- The measuring partition in another condition. -/
def measured (k : Met → Met) (s : State) : State := s.upMet (fun m => k { m with powered := true, sealed := true })

theorem witness_PartitionPowerUpSealAndFaults :
    (measured id up).met.powered = true ∧ State.reset.domainOn 11 = false ∧ (up.domainOn 11 = true ∧ up.met.powered = false) ∧ (measured id up).met.sealed ≠ false := by decide

/-- A telegram of an operation on entry 0x7100 + `i`, sub `n`, with value `v`. -/
def telegram (op i n v : Nat) : List Byte :=
  let b := [0x4D] ++ leBytes 1 op ++ leBytes 2 (0x7100 + i) ++ leBytes 1 n ++ [0] ++ leBytes 8 v
  b ++ leBytes 2 (crc16 b)

/-- The unsealed partition with channel 1 enabled and set. -/
def unsealed (k : MetChan → MetChan) : State :=
  (measured (fun m => { m with sealed := false }) up).upMetChan 1 (fun c => k { c with enable := true, raw := 1000000, record := zeros 2 ++ [2] ++ zeros 29 })

theorem witness_AdjustmentTelegrams :
    (let b := telegram 1 1 3 5000
     b.length = 16 ∧ byteAt b 0 = 0x4D ∧ byteAt b 5 = 0 ∧ getLE b 14 2 = crc16 (b.take 14) ∧ getLE b 2 2 = 0x7101 ∧ byteAt b 4 = 3 ∧ getLEs b 6 8 = 5000 ∧
      0x7100 ≤ getLE b 2 2 ∧ getLE b 2 2 ≤ 0x72FF ∧ byteAt b 1 = 1 ∧ (unsealed id).met.entry 0x7101 3 = some 3000 ∧ metInRange 0x7101 3 5000 = true) ∧
    (measured id up).met.sealed = true ∧
    (let s := unsealed id
     s.met.powered = true ∧ s.met.sealed = false ∧ s.met.telegram = [] ∧ s.met.audit.length < 1024) ∧ byteAt (telegram 4 0 0 0) 1 = 4 ∧
    (let b := telegram 2 0 1 0
     let s := unsealed (fun c => { c with span := 1630000 })
     let c := vget s.met.chans 1 MetChan.reset
     byteAt b 1 = 2 ∧ byteAt b 4 = 1 ∧ getLE b 14 2 = crc16 (b.take 14) ∧ c.enable = true ∧ (byteAt c.record 2).testBit 1 = true ∧ 210 * (c.maxE : Int) ≤ c.span - c.raw) ∧
    (let b := telegram 3 0 1 3000
     let c := vget (unsealed id).met.chans 1 MetChan.reset
     byteAt b 1 = 3 ∧ byteAt b 4 = 1 ∧ getLE b 14 2 = crc16 (b.take 14) ∧ (1 : Int) ≤ getLEs b 6 8 ∧ getLEs b 6 8 ≤ (c.maxE : Int) ∧
      210 * (c.maxE : Int) ≤ roundDiv ((c.raw - c.zero) * c.maxE) (getLEs b 6 8)) := by decide

theorem witness_MailboxRecordsOfTheChannels :
    (let s := unsealed (fun c => { c with span := 630000 })
     let c := vget s.met.chans 1 MetChan.reset
     s.met.powered = true ∧ c.enable = true ∧ c.span ≠ c.zero ∧ c.hist.length < c.rate) ∧
    (let s := (measured id up).upMetChan 11 (fun c => { c with enable := true, total := 9999999999999999 })
     let p := vget s.met.chans (8 + 3) MetChan.reset
     p.enable = true ∧ s.met.sealed = true ∧ p.total = 9999999999999999) := by decide

theorem witness_PartitionTimeoutsAndMailboxReads :
    (let s := measured id up
     s.met.powered = true ∧ s.met.metOn + 10000000000 ≤ max s.clk.now 10000000000 ∧ max s.clk.now 9999999999 < s.met.metOn + 10000000000) ∧
    (let s := measured (fun m => { m with alive := true }) up
     s.met.alive = true ∧ s.met.lastRec + 10000000 ≤ max s.clk.now 10000000 ∧ max s.clk.now 9999999 < s.met.lastRec + 10000000) ∧
    (up.met.alive = false ∧ up.readReaches .host (0x11000 + 0x1FC) = true ∧ 0x1FC = 0x100 + 32 * 7 + 4 * 7) := by decide

theorem witness_PowerLossAndThermalStop :
    (4500 ≤ up.pwr.vinMv ∧ 2000 ≤ up.pwr.vbakMv ∧ (powered (fun p => { p with vbakMv := 1999 }) up).pwr.vbakMv < 2000 ∧ (powered (fun p => { p with vinMv := 4499 }) up).pwr.vinMv < 4500) ∧
    up.domainOn 1 = true ∧
    (let s := powered (fun p => { p with thermalHold := true, ref := .thermalRestart }) up
     s.pwr.thermalHold = true ∧ s.pwr.ref = .thermalRestart) ∧
    (up.pwr.aoRunning = true ∧ (powered (fun p => { p with aoRunning := false }) up).pwr.aoRunning = false) := by decide

/-- The environment of a start-up in which nothing goes wrong. -/
def fine : StartEnv :=
  { signed := [0], t1Lost := false, nonRetain := [], ecc := [], epochBad := none, installCut := false, domainBad := none, corrupt := [], terms := [], groups := []
    temp := 25, vinMv := 24000, sealed := true, ms := 0 }

/-- A module off with a firmware bank that passes, its stored entries and its loader. -/
def booted (stored : List (Nat × List Byte)) (l : Loader) : State :=
  { State.reset with
    fw := { Fw.reset with bank0 := ((Bank.reset.put 8 (leBytes 4 16)).put 16 (sha256 (List.replicate 16 0xFF))).markValid }
    dict := { Dict.reset with stored := stored }, ldr := l }

/-- The state after steps 1 and 2, and after step 4. -/
def atBoot (s : State) : State := ((s.startAo fine).fwReads fine.ecc).bootBanks fine.signed
@[inherit_doc atBoot] def atStores (s : State) : State := (atBoot s).startSup fine

theorem witness_StartUpStopsAndCompletes_domains :
    (atBoot (booted [] Loader.reset)).fw.active ≠ none ∧ { fine with domainBad := some 6 }.epochBad = none := by decide

theorem witness_StartUpStopsAndCompletes_stops :
    (let b := atStores (booted [] Loader.reset)
     b.inForce 0x4003 0 0 ≠ 1 ∧ b.pwr.role = .controller ∧ b.ldr.img = none ∧ b.ldr.state ≠ 5) ∧
    (atStores (booted [(keyRole, [1])] Loader.reset)).pwr.role = .station := by decide

theorem witness_StartUpStopsAndCompletes_solo :
    let b := atStores (booted [] { Loader.reset with img := some (image0 0 0) })
    let u := (((if b.csw.storeComplete then b else b.noMilestone).upPwr (fun p => { p with domains := p.domains ||| 0x040#12 })).startStores fine).loadAll fine
    u.pwr.role = .controller ∧ u.ldr.img = some (image0 0 0) ∧ (image0 0 0).beatP = u.clk.p ∧ u.inForce 0x6000 0 0 ≠ 1 ∧ (u.heardTerms fine.terms).highTerm < 0xFFFF ∧
      9000 ≤ u.pwr.vinMv := by decide

theorem witness_StartUpStopsAndCompletes :
    (up.mayStart fine = false ∧ State.reset.mayStart fine = true) ∧ ((powered (fun p => { p with ref := .vinValid }) State.reset).pwr.ref ≠ .deviceReset ∧ State.reset.pwr.ref = .deviceReset ∧ tempOk 81 = false ∧ tempOk fine.temp = true) ∧
    (((State.reset.startAo fine).fwReads fine.ecc).bootBanks fine.signed).fw.active = none ∧
    (let s := powered (fun p => { p with stopped := true, report := [6] }) State.reset
     s.pwr.stopped = true ∧ byteAt s.pwr.report 0 = 6 ∧ 10000 ≤ fine.vinMv) ∧ (State.reset.pwr.stopped = false ∧ byteAt State.reset.pwr.report 0 ≠ 6) := by decide

theorem witness_StepIdlesOnAnEmptyQueue : State.reset.pending = [] := by decide

theorem witness_RegularStatesStayRegular : State.reset.pending = [] ∧ (step State.reset = .next State.reset) := ⟨by decide, rfl⟩

theorem witness_BlownFusesStayBlown :
    let s : State := { up with dict := { up.dict with fuses := 8 } }
    s.dict.fuses.getLsbD 3 = true ∧ step s = .next s := ⟨by decide, rfl⟩

theorem witness_TheAuditTrailOnlyGrows : step (measured id up) = .next (measured id up) := rfl

theorem witness_SealedParametersCannotChange : (measured id up).met.sealed = true ∧ step (measured id up) = .next (measured id up) := ⟨by decide, rfl⟩


/-! ### The statements of the queue and of the banks -/

theorem witness_StepRunsTheFrontCommand : (match exec .telegramGapTimeout (measured id up) with | .next t => decide (t.pending = []) | _ => false) = true := by decide

/-- A record operation, an image operation, a long and a paired load, and a move. -/
theorem witness_BanksOfSharedAccesses :
    (isImageOp 0x0A000235#32 = true) ∧ (isImageOp 0x82020C71#32 = false ∧ isRecord 0x82020C71#32 = true) ∧
    (isImageOp 0xB0938220#32 = false ∧ isRecord 0xB0938220#32 = false ∧ sylU 0xB0938220#32 = 6 ∧ sylP 0xB0938220#32 = false ∧ sylOpc 0xB0938220#32 ≤ 0x17) ∧
    (sylU 0x70000000#32 = 6 ∧ sylP 0x70000000#32 = true) ∧ (isImageOp 0x1AC08240#32 = false ∧ isRecord 0x1AC08240#32 = false ∧ sylU 0x1AC08240#32 ≠ 6) := by decide

/-! ### Worked examples of the spec -/

/-- 04, the packed-decimal add: its syllables, and its two iterations. -/
theorem test_packed_decimal_add :
    (sylU 0x1AC08240#32 = 3 ∧ sylOpc 0x1AC08240#32 = 0x2C ∧ sylDst 0x1AC08240#32 = 1 ∧ sylImm 0x1AC08240#32 = true ∧ sylImm9 0x1AC08240#32 = 0x40) ∧
    (isString 0x9B608800#32 = true ∧ sylDst 0x9B608800#32 = 1 ∧ sylA 0x9B608800#32 = 2) ∧
    stringWord (sylOpc 0x9B608800#32) 0x76183774#32 0x35906358#32 false = (0x12090132#32, true, 0xEF#8) ∧
    stringWord (sylOpc 0x9B608800#32) 0x47183059#32 0x08824176#32 true = (0x56007236#32, false, 0x73#8) := by decide

/-- 05, the TON caught up in run 1006: the bytes of its record; in run 1008 the edited preset ends it. -/
theorem test_ton_caught_up :
    let r := timerEval 1 (TimerRec.ofBytes ([0, 0, 0, 0, 0, 0, 0x0D, 1] ++ leBytes 4 1000 ++ leBytes 4 5000)) true 5000 1006 500
    r.toBytes = [0xB8, 0x0B, 0, 0, 0, 0, 0x0D, 0x01, 0xEE, 0x03, 0, 0, 0x88, 0x13, 0, 0] ∧ r.q = false ∧
    (timerEval 1 r true 2000 1008 500).elapsed = 2000 ∧ (timerEval 1 r true 2000 1008 500).q = true ∧ (timerEval 1 r true 5000 1008 500).elapsed = 4000 := by decide

/-- 17, a reel weighed on port M2: VALUE of its record. -/
theorem test_reel_weighed :
    let s := (measured (fun m => { m with idOk := true }) up).upMetChan 2 (fun c => { c with enable := true, maxE := 6000, zero := 41200, span := 3641200, zSet := true })
    (match step { s with pending := [.bridgeSample 2 0 1541530 false false] } with
     | .next t => decide (slice (vget t.met.chans 2 MetChan.reset).record 8 8 = [0xC5, 0x09, 0, 0, 0, 0, 0, 0])
     | _ => false) = true := by decide

/-- 13, a missing check-in: the first failure of slot 7 is recorded, the second in a row asks for a device reset. -/
theorem test_missing_check_in :
    let s := up.upWslot 7 (fun w => { w with armed := true, owner := 1, number := 5, period := 20, winOpen := 12 })
    (match step { s with pending := [.waymarkPeriodEnd 7 20000000] } with
     | .next t => decide (t.wdg.cause = 0x80#32 ∧ t.wdg.firstSlot = 7 ∧ t.wdg.firstKind = 3 ∧ t.wdg.resetting = none ∧ (t.wslot 7).warned = true)
     | _ => false) = true ∧
    (match step { s.upWslot 7 (fun w => { w with prevFailed := true, start := 20000000 }) with pending := [.waymarkPeriodEnd 7 40000000] } with
     | .next t => decide (t.wdg.resetting = some (7, 3, 40000000))
     | _ => false) = true := by decide

end Sys2Proof.Tests
end

section
/-! PROOFS. The shared clock and lock (09 R270, R271, 19 R512, R514, 01 R20, R21): what a PTP message, the announce receipt timeout, the sends of a port, and the edges of PPS and of the reference do. -/

namespace Sys2Proof.Machine

open Sys2Proof

variable {s : State} {port t dom : Nat} {udp : Bool}

/-! ### PTP messages at a port (09 R270, R271) -/

/-- The port is a PTP port and the message is of the configured domain and transport, so it is taken. -/
theorem exec_ptpMessageReceive_taken (m : PtpMsg) (hd : s.domainOn 7 = true) (hp : (s.inForce 0x1200 3 0x0F).testBit port = true)
    (hdom : dom = s.inForce 0x1200 2 0) (hudp : udp = decide (s.inForce 0x1200 5 0 = 1)) :
    exec (.ptpMessageReceive port t dom udp m) s = .next (countEdges s ((s.reach t).ptpMessage port m)) := by
  have h : ((s.reach t).domainOn 7 && ((s.reach t).inForce 0x1200 3 0x0F).testBit port && decide (dom = (s.reach t).ptpDomain) && (udp == (s.reach t).ptpUdp)) = true := by
    have hdom' : dom = (s.reach t).ptpDomain := hdom
    have hudp' : udp = (s.reach t).ptpUdp := hudp
    have hd' : (s.reach t).domainOn 7 = true := hd
    have hp' : ((s.reach t).inForce 0x1200 3 0x0F).testBit port = true := hp
    simp only [hd', hp', ← hdom', ← hudp', decide_true, beq_self_eq_true, Bool.and_self]
  show commit s (if _ then _ else _) = _
  rw [if_pos h, commit_eq]

/-- On any other port, in another domain or transport, or with the domain off, a message only passes time. -/
theorem exec_ptpMessageReceive_ignored (m : PtpMsg)
    (h : s.domainOn 7 = false ∨ (s.inForce 0x1200 3 0x0F).testBit port = false ∨ dom ≠ s.inForce 0x1200 2 0 ∨ udp ≠ decide (s.inForce 0x1200 5 0 = 1)) :
    exec (.ptpMessageReceive port t dom udp m) s = .next (countEdges s (s.reach t)) := by
  have hn : ¬ ((s.reach t).domainOn 7 && ((s.reach t).inForce 0x1200 3 0x0F).testBit port && decide (dom = (s.reach t).ptpDomain) && (udp == (s.reach t).ptpUdp)) = true := by
    simp only [Bool.and_eq_true, decide_eq_true_eq, beq_iff_eq]
    rintro ⟨⟨⟨hd, hp⟩, hdom⟩, hudp⟩
    rcases h with h | h | h | h
    · exact absurd (hd.symm.trans h) (by decide)
    · exact absurd (hp.symm.trans h) (by decide)
    · exact h hdom
    · exact h hudp
  show commit s (if _ then _ else _) = _
  rw [if_neg hn, commit_eq]

/-- What the lock rules make of a clock block `k`, as the state that the command answers: lock gained, lost, or as it was. -/
theorem relock_answer (s : State) (k : Clk) :
    Frame { clk := true, net := true, evr := true } s (countEdges s (s.upClk (fun _ => k)).relock) ∧
    (k.locked = false → 8 ≤ k.inCount → k.steps ≤ 16 →
      (countEdges s (s.upClk (fun _ => k)).relock).clk = { k with locked := true, holdover := false, everLocked := true, outCount := 0, ptpOff := if k.everLocked = true then k.ptpOff else k.ptpServo } ∧
      (countEdges s (s.upClk (fun _ => k)).relock).net = { s.net with cause := setBit s.net.cause 2 true }) ∧
    (k.locked = true → 4 ≤ k.outCount ∨ 16 < k.steps →
      (countEdges s (s.upClk (fun _ => k)).relock).clk = { k with locked := false, holdover := true } ∧
      (countEdges s (s.upClk (fun _ => k)).relock).net = { s.net with cause := setBit s.net.cause 3 true }) ∧
    (k.locked = true ∧ k.outCount < 4 ∧ k.steps ≤ 16 ∨ k.locked = false ∧ (k.inCount < 8 ∨ 16 < k.steps) →
      (countEdges s (s.upClk (fun _ => k)).relock).clk = k ∧ Frame { clk := true } s (countEdges s (s.upClk (fun _ => k)).relock)) := by
  obtain ⟨hlose, hgain, hstay, hfree⟩ := relock_cases (s.upClk (fun _ => k))
  refine ⟨(State.relock_keep ((Keep.refl s).upClk _)).frame.countEdges s, hgain, hlose, fun h => ?_⟩
  have e : (s.upClk (fun _ => k)).relock = s.upClk (fun _ => k) := by
    rcases h with ⟨hl, ho, hs⟩ | ⟨hl, hc⟩
    · exact hstay hl ho hs
    · exact hfree hl hc
  rw [e]
  exact ⟨rfl, ((Keep.refl s).upClk _).frame.countEdges s⟩

/-! ### Masters and their messages (09 R270) -/

/-- A port is master when it is a PTP port of the domain, is up, and the clock is grandmaster or a boundary clock. -/
theorem ptpMaster_of (hd : s.domainOn 7 = true) (hp : (s.inForce 0x1200 3 0x0F).testBit port = true) (hl : s.net.link.getLsbD port = true)
    (hm : s.clk.gm = true ∨ s.inForce 0x1200 1 0 = 1) : s.ptpMaster port = true := by
  unfold State.ptpMaster
  simpa [hd, hp, hl] using hm

/-- An ordinary clock that is not grandmaster is master on no port, and neither is any clock on a port that is down. -/
theorem ptpMaster_eq_false (h : s.clk.gm = false ∧ s.inForce 0x1200 1 0 ≠ 1 ∨ s.net.link.getLsbD port = false) : s.ptpMaster port = false := by
  unfold State.ptpMaster
  rcases h with ⟨hg, hb⟩ | hl
  · simp [hg, hb]
  · simp [hl]

theorem ptpMessage_delayReq (hm : s.ptpMaster port = true) (he : s.ptpP2p port = false) : s.ptpMessage port .delayReq = s.sendPtp port .delayResp := by
  unfold State.ptpMessage
  simp [hm, he]

theorem ptpMessage_pdelayReq (he : s.ptpP2p port = true) (hl : s.net.link.getLsbD port = true) :
    s.ptpMessage port .pdelayReq = (s.sendPtp port .pdelayResp).sendPtp port .pdelayFollowUp := by
  unfold State.ptpMessage
  simp [he, hl]

theorem exec_ptpSyncSend (s : State) (port t : Nat) :
    exec (.ptpSyncSend port t) s = .next (countEdges s (if s.ptpMaster port then ((s.reach t).sendPtp port .sync).sendPtp port .followUp else s.reach t)) := rfl

theorem exec_ptpAnnounceSend (s : State) (port : Nat) :
    exec (.ptpAnnounceSend port) s = commit s (if s.ptpMaster port then s.sendPtp port (.announce (s.inForce 0x1200 7 128) (s.inForce 0x1200 8 128) s.clk.steps) else s) := rfl

/-- A PTP port that is up asks for the delay by its mechanism; an end-to-end grandmaster does not ask. -/
theorem exec_ptpDelayRequestSend (hd : s.domainOn 7 = true) (hp : (s.inForce 0x1200 3 0x0F).testBit port = true) (hl : s.net.link.getLsbD port = true) :
    exec (.ptpDelayRequestSend port) s = commit s (if s.ptpP2p port then s.sendPtp port .pdelayReq else if s.clk.gm then s else s.sendPtp port .delayReq) := by
  show commit s (if _ then _ else _) = _
  rw [if_neg (by simp [hd, hp, hl])]

/-- A port that is down asks for no delay. -/
theorem exec_ptpDelayRequestSend_down (hl : s.net.link.getLsbD port = false) : exec (.ptpDelayRequestSend port) s = .next s := by
  show commit s (if _ then _ else _) = _
  rw [if_pos (by simp [hl]), commit_self]

/-- A port that is no master sends no Announce. -/
theorem exec_ptpAnnounceSend_idle (h : s.ptpMaster port = false) : exec (.ptpAnnounceSend port) s = .next s := by
  rw [exec_ptpAnnounceSend, h, if_neg (by decide), commit_self]

/-! ### The announce receipt timeout (09 R271) -/

/-- Without a PTP port only time passes. -/
theorem exec_announceReceiptTimeout_idle (h : s.domainOn 7 = false ∨ s.inForce 0x1200 3 0x0F % 64 = 0) :
    exec (.announceReceiptTimeout t) s = .next (countEdges s (s.reach t)) := by
  show commit s (if !s.domainOn 7 ∨ s.inForce 0x1200 3 0x0F % 64 = 0 then _ else _) = _
  rw [if_pos (by simpa using h), commit_eq]

/-- With a PTP port lock ends, and the node is its own grandmaster. -/
theorem exec_announceReceiptTimeout (hd : s.domainOn 7 = true) (hp : s.inForce 0x1200 3 0x0F % 64 ≠ 0) :
    exec (.announceReceiptTimeout t) s = .next (countEdges s ((s.reach t).loseLock.upClk (fun c =>
      { c with inCount := 0, outCount := 0, gm := true, steps := 0, portState := 6, gmClass := Config.clockClass }))) := by
  show commit s (if !s.domainOn 7 ∨ s.inForce 0x1200 3 0x0F % 64 = 0 then _ else _) = _
  rw [if_neg (by simp [hd, hp]), commit_eq]

theorem loseLock_locked (h : s.clk.locked = true) : s.loseLock.clk = { s.clk with locked := false, holdover := true } ∧
    s.loseLock.net = { s.net with cause := setBit s.net.cause 3 true } := by
  unfold State.loseLock
  rw [if_pos h]
  exact ⟨by simp, by simp⟩

theorem loseLock_unlocked (h : s.clk.locked = false) : s.loseLock = s := by
  unfold State.loseLock
  rw [if_neg (by simp [h])]

/-- Losing lock leaves a node unlocked, in holdover if it had lock or was there already. -/
theorem loseLock_clk (s : State) : s.loseLock.clk = { s.clk with locked := false, holdover := s.clk.locked || s.clk.holdover } := by
  cases h : s.clk.locked
  · rw [loseLock_unlocked h, Bool.false_or, ← h]
  · rw [(loseLock_locked h).1, Bool.true_or]

/-! ### PPS and the reference (19 R512, R514, 01 R20) -/

theorem exec_ppsInEdge (s : State) (o : Int) :
    exec (.ppsInEdge o) s = commit s (if s.clk.gm && decide (o.natAbs ≤ 500000000) then s.upClk (fun c => { c with ptpOff := c.scale c.now, ppsAt := c.now, ppsSecond := o }) else s) := rfl

theorem exec_refLost (s : State) :
    exec .refLost s = commit s (if s.clk.refT1 then (s.upClk (fun c => { c with refT1 := false })).occur 0x3001 0 [] else s) := rfl

/-! ### The statement -/

/-- A message that leads to the lock rules on a clock block `k` (a Sync, an Announce) is answered by what they make of it. -/
theorem lockMessage_taken {m : PtpMsg} {k : Clk} (hm : (s.reach t).ptpMessage port m = (s.upClk (fun _ => k)).relock) (hd : s.domainOn 7 = true)
    (hp : (s.inForce 0x1200 3 0x0F).testBit port = true) (hdom : dom = s.inForce 0x1200 2 0) (hudp : udp = decide (s.inForce 0x1200 5 0 = 1)) :
    ∃ u, exec (.ptpMessageReceive port t dom udp m) s = .next u ∧ Frame { clk := true, net := true, evr := true } s u ∧
      (k.locked = false → 8 ≤ k.inCount → k.steps ≤ 16 → u.clk = { k with locked := true, holdover := false, everLocked := true, outCount := 0, ptpOff := if k.everLocked = true then k.ptpOff else k.ptpServo } ∧ u.net = { s.net with cause := setBit s.net.cause 2 true }) ∧
      (k.locked = true → 4 ≤ k.outCount ∨ 16 < k.steps → u.clk = { k with locked := false, holdover := true } ∧ u.net = { s.net with cause := setBit s.net.cause 3 true }) ∧
      (k.locked = true ∧ k.outCount < 4 ∧ k.steps ≤ 16 ∨ k.locked = false ∧ (k.inCount < 8 ∨ 16 < k.steps) → u.clk = k ∧ Frame { clk := true } s u) :=
  ⟨_, by rw [exec_ptpMessageReceive_taken m hd hp hdom hudp, hm], relock_answer s k⟩

/-- What a command does that changes the network block alone, of a state that time has reached. -/
theorem answer_reach_net {c : Instr} {u : State} {n : Net} (h : exec c s = .next (countEdges s u)) (hu : u = (s.reach t).upNet (fun _ => n)) :
    ∃ v, exec c s = .next v ∧ v.net = n ∧ v.clk = { s.clk with now := max s.clk.now t } ∧ Frame { clk := true, net := true } s v := by
  subst hu
  exact ⟨_, h, rfl, rfl, (Keep.upNet (State.reach_keep (Keep.refl s) t) _).frame.countEdges s⟩

/-- What a command does that changes the network block alone. -/
theorem answer_net {c : Instr} {u : State} {n : Net} (h : exec c s = commit s u) (hu : u = s.upNet (fun _ => n)) :
    ∃ v, exec c s = .next v ∧ v.net = n ∧ Frame { net := true } s v := by
  subst hu
  exact ⟨_, h, rfl, ((Keep.refl s).upNet _).frame.countEdges s⟩

/-- What a command does that changes the clock block alone. -/
theorem answer_clk {c : Instr} {k : Clk} (h : exec c s = commit s (s.upClk (fun _ => k))) :
    ∃ v, exec c s = .next v ∧ v.clk = k ∧ Frame { clk := true } s v :=
  ⟨_, h, rfl, ((Keep.refl s).upClk _).frame.countEdges s⟩

/-- The announce receipt timeout of a node with a PTP port: unlocked and its own grandmaster, in holdover if it had lock, which alone sets the cause bit. -/
theorem announceReceiptTimeout_answer (hd : s.domainOn 7 = true) (hp : s.inForce 0x1200 3 0x0F % 64 ≠ 0) : ∃ u, exec (.announceReceiptTimeout t) s = .next u ∧
    u.clk = { s.clk with now := max s.clk.now t, locked := false, holdover := s.clk.locked || s.clk.holdover, inCount := 0, outCount := 0, gm := true, steps := 0, portState := 6, gmClass := Config.clockClass } ∧
    (s.clk.locked = true → u.net = { s.net with cause := setBit s.net.cause 3 true }) ∧ (s.clk.locked = false → u.net = s.net) ∧
    Frame { clk := true, net := true, evr := true } s u := by
  refine ⟨_, exec_announceReceiptTimeout hd hp, ?_, fun hl => ?_, fun hl => ?_, ?_⟩
  · rw [countEdges_clk, State.upClk_clk, loseLock_clk]; rfl
  · exact (loseLock_locked (s := s.reach t) hl).2
  · rw [countEdges_net, State.upClk_net, loseLock_unlocked (s := s.reach t) hl]; rfl
  · exact (Keep.upClk (State.loseLock_keep (State.reach_keep (Keep.refl s) t)) _).frame.countEdges s

/-- Settles O18: a message that moves the lock is answered by the lock rules on the clock block that it makes, every other command by the one block that it changes. -/
theorem sharedClockAndLock : Obligations.SharedClockAndLock := by
  intro s port t cc cls steps st dom o f gm udp m k
  refine ⟨fun hmk => ?_, fun hd hp hdom hudp hl => ?_, fun h => answer_clk (exec_announceReceiptTimeout_idle h), announceReceiptTimeout_answer, fun hd hp hl => ?_,
    fun hl => ⟨exec_ptpDelayRequestSend_down hl, exec_ptpAnnounceSend_idle (ptpMaster_eq_false (.inr hl))⟩, fun hg ho => ?_, fun h => ?_, answer_clk rfl, fun h => ?_, fun h => ?_⟩
  · -- Sync and Announce
    have hm : (s.reach t).ptpMessage port m = (s.upClk (fun _ => k)).relock := by
      rcases hmk with ⟨rfl, rfl⟩ | ⟨rfl, rfl⟩ <;> rfl
    exact ⟨lockMessage_taken hm, fun h => answer_clk (exec_ptpMessageReceive_ignored m h)⟩
  · -- Delay_Req and Pdelay_Req
    subst hdom hudp
    refine ⟨fun he hm => ?_, fun he => ?_⟩
    · exact answer_reach_net (exec_ptpMessageReceive_taken _ hd hp rfl rfl) (ptpMessage_delayReq (s := s.reach t) (ptpMaster_of hd hp hl hm) he)
    · exact answer_reach_net (exec_ptpMessageReceive_taken _ hd hp rfl rfl) (ptpMessage_pdelayReq (s := s.reach t) he hl)
  · -- the messages that a port sends
    refine ⟨fun hm => ⟨?_, ?_⟩, fun hg hb => ⟨?_, ?_⟩, fun he => ?_, fun he hg => ?_, fun he hg => ?_⟩
    · refine answer_reach_net (exec_ptpSyncSend s port t) ?_
      rw [ptpMaster_of hd hp hl hm]; rfl
    · refine answer_net (exec_ptpAnnounceSend s port) ?_
      rw [ptpMaster_of hd hp hl hm]; rfl
    · exact exec_ptpAnnounceSend_idle (ptpMaster_eq_false (.inl ⟨hg, hb⟩))
    · refine answer_clk ?_
      rw [exec_ptpSyncSend, ptpMaster_eq_false (.inl ⟨hg, hb⟩)]; rfl
    · refine answer_net (exec_ptpDelayRequestSend hd hp hl) ?_
      rw [show s.ptpP2p port = true from he]; rfl
    · refine answer_net (exec_ptpDelayRequestSend hd hp hl) ?_
      rw [show s.ptpP2p port = false from he, hg]; rfl
    · rw [exec_ptpDelayRequestSend hd hp hl, show s.ptpP2p port = false from he, hg]
      exact commit_self s
  · -- a PPS_IN edge that a grandmaster takes
    refine answer_clk ?_
    rw [exec_ppsInEdge, hg, decide_eq_true ho]; rfl
  · -- a PPS_IN edge that is not taken
    rw [exec_ppsInEdge, if_neg, commit_self]
    rcases h with hg | ho
    · simp [hg]
    · simp [Nat.not_le.mpr ho]
  · -- the reference is lost
    rw [exec_refLost, if_pos h]
    refine ⟨_, commit_eq .., ?_, rfl, ?_⟩
    · simp
    · exact (State.occur_keep (L := { clk := true, evr := true }) ((Keep.refl s).upClk _) _ _ _).frame.countEdges s
  · rw [exec_refLost, if_neg (by simp [h]), commit_self]

end Sys2Proof.Machine
end

section
/-! PROOFS. Start-up (19 R517 to R521, 01 R13, 07 R199, R203): what step 1 leaves, one equation for each way in which the steps after it go on, and from them where a start-up stops and what it leaves when it completes. -/

namespace Sys2Proof.Machine

open Sys2Proof

variable {s : State} {env : StartEnv}

/-! ### Step 1 (19 R517, 16 R474) -/

/-- A start-up counts a power cycle unless a device reset brings it about. -/
theorem startAo_pwrCycles (s : State) (env : StartEnv) :
    (s.startAo env).rtc.pwrCycles = if s.pwr.ref = .deviceReset then s.rtc.pwrCycles else min 0xFFFFFFFF (s.rtc.pwrCycles + 1) := by
  unfold State.startAo
  extract_lets ref kept up counted caused woken
  have hkept : kept.rtc = s.rtc := by unfold kept; split <;> rfl
  have hcounted : counted.rtc.pwrCycles = if s.pwr.ref = .deviceReset then s.rtc.pwrCycles else min 0xFFFFFFFF (s.rtc.pwrCycles + 1) := by
    unfold counted ref up
    split
    · rw [State.upPwr_rtc, hkept]
    · rw [State.upRtc_rtc, State.upPwr_rtc, hkept]; rfl
  have hcaused : caused.rtc = counted.rtc := by
    unfold caused
    split
    · simp
    · split <;> simp
  have hwoken : woken.rtc = caused.rtc := by unfold woken; split <;> simp
  rw [State.upClk_rtc, hwoken, hcaused, hcounted]

/-- Step 1 starts no module. -/
theorem startAo_started (env : StartEnv) (h : s.pwr.started = false) : (s.startAo env).pwr.started = false := by
  unfold State.startAo
  extract_lets ref kept up counted caused woken
  have hkept : kept.pwr.started = false := by
    unfold kept
    split
    · rfl
    · exact h
  have hcounted : counted.pwr = up.pwr := by unfold counted; split <;> rfl
  have hcaused : caused.pwr = counted.pwr := by
    unfold caused
    split
    · simp
    · split <;> simp
  have hwoken : woken.pwr = caused.pwr := by unfold woken; split <;> simp
  rw [State.upClk_pwr, hwoken, hcaused, hcounted]
  exact hkept

/-- Step 2 touches neither the power block nor the always-on block. -/
theorem bootBanks_fwReads_keep (s : State) (ecc : List Ecc) (signed : List Nat) :
    Keep { fw := true, sto := true, host := true, evr := true } s ((s.fwReads ecc).bootBanks signed) :=
  State.bootBanks_keep (State.fwReads_keep (Keep.refl s) ecc) signed

/-! ### When a start-up begins (19 R505, R510, R517) -/

theorem exec_startUp_idle (h : s.mayStart env = false) : exec (.startUp env) s = .next s := by
  show commit s (s.startUp env) = _
  unfold State.startUp
  rw [if_pos (by simp [h]), commit_self]

theorem exec_startUp_hold (h : s.mayStart env = true) (hr : s.pwr.ref ≠ .deviceReset) (ht : tempOk env.temp = false) :
    exec (.startUp env) s = .next (countEdges s (s.upPwr (fun p => { p with thermalHold := true, temp := env.temp, aoRunning := true }))) := by
  show commit s (s.startUp env) = _
  unfold State.startUp
  rw [if_neg (by simp [h]), if_pos ⟨hr, by simp [ht]⟩, commit_eq]

theorem exec_startUp (h : s.mayStart env = true) (ht : s.pwr.ref = .deviceReset ∨ tempOk env.temp = true) :
    exec (.startUp env) s = .next (countEdges s ((s.startAo env).startFrom env)) := by
  show commit s (s.startUp env) = _
  unfold State.startUp
  rw [if_neg (by simp [h]), if_neg, commit_eq]
  rintro ⟨hr, hn⟩
  rcases ht with ht | ht
  · exact hr ht
  · simp [ht] at hn

theorem mayStart_started (h : s.mayStart env = true) : s.pwr.started = false := by
  unfold State.mayStart at h
  simp only [Bool.and_eq_true, Bool.not_eq_true'] at h
  obtain ⟨⟨⟨⟨hs, -⟩, -⟩, -⟩, -⟩ := h
  exact hs

theorem startUp_pending (s : State) (env : StartEnv) : ((s.startAo env).startFrom env).pending = s.pending :=
  (State.startFrom_keep (L := Parts.all) (State.startAo_keep (Keep.refl s) env) env).frame.pending

/-! ### Steps 2 to 5: the ways in which a start-up goes on (19 R518, R520) -/

/-- The state in which step 5 begins, `b` being that after step 4: no milestone counts where the store is incomplete (07 R202). -/
def State.milestonesChecked (b : State) : State := if b.csw.storeComplete then b else b.noMilestone

theorem milestonesChecked_keep (b : State) : Keep { sto := true, csw := true } b b.milestonesChecked := by
  unfold State.milestonesChecked
  split
  · exact Keep.refl b
  · exact State.noMilestone_keep (Keep.refl b)

theorem milestonesChecked_lmem (b : State) : b.milestonesChecked.sto.lmem = b.sto.lmem := by
  unfold State.milestonesChecked
  split <;> rfl

section
variable {x a : State} (ha : a = (x.fwReads env.ecc).bootBanks env.signed)
include ha

/-- The SUP domain fails: only the always-on domain stays powered. -/
theorem startFrom_supFails (h : env.domainBad = some 0 ∨ env.domainBad = some 1) :
    x.startFrom env = a.upPwr (fun p => { p with stopped := true, domains := 0x001#12 }) := by
  subst ha
  exact if_pos h

/-- No firmware bank passes: the recovery service, code 1 at step 2. -/
theorem startFrom_noBank (h : env.domainBad = none) (hb : a.fw.active = none) :
    x.startFrom env = ((a.upHost (fun x => { x with ready := true })).upDict (fun d => { d with usbOff := d.fuses.getLsbD 3 })).stopStart 1 2 0 := by
  subst ha
  exact (if_neg (by simp [h])).trans (if_pos (by simp [hb]))

/-- A bank is booted and the epoch records read well. -/
theorem startFrom_rest (h0 : env.domainBad ≠ some 0) (h1 : env.domainBad ≠ some 1) (hb : a.fw.active ≠ none) (he : env.epochBad = none) :
    x.startFrom env = (a.startSup env).milestonesChecked.startRest env := by
  subst ha
  refine (if_neg (by simp [h0, h1])).trans ((if_neg (by simpa using hb)).trans ?_)
  dsimp only
  rw [he]; rfl

/-- A bank is booted, an epoch record reads uncorrectable and no cold start is ordered: code 3 at step 5. -/
theorem startFrom_epochBad {d ad : Nat} (h : env.domainBad = none) (hb : a.fw.active ≠ none) (he : env.epochBad = some (d, ad)) (hc : (a.startSup env).inForce 0x4003 0 0 ≠ 1) :
    x.startFrom env = ((a.startSup env).milestonesChecked.uncorrectable (if d = 0 then .program else .inst) ad).stopStart 3 5 d := by
  have k := State.uncorrectable_keep (L := { sto := true, csw := true, host := true, evr := true }) (Keep.refl (a.startSup env).milestonesChecked) (if d = 0 then .program else .inst) ad
  have hi : ((a.startSup env).milestonesChecked.uncorrectable (if d = 0 then .program else .inst) ad).inForce 0x4003 0 0 ≠ 1 := by
    unfold State.inForce at hc ⊢
    rw [k.frame.dict rfl, (milestonesChecked_keep _).frame.dict rfl]
    exact hc
  subst ha
  refine (if_neg (by simp [h])).trans ((if_neg (by simpa using hb)).trans ?_)
  dsimp only
  rw [he]
  exact if_neg hi

end

/-! ### Steps 5 to 7 (19 R518 to R520) -/

variable {c : State}

/-- Without the MEM domain nothing of the stores is read: code 2 at step 6. -/
theorem startRest_memFails (h : env.domainBad = some 6) : c.startRest env = c.stopStart 2 6 6 := if_pos h

/-- No installation is cut at step 5. -/
def State.uncut (c : State) (env : StartEnv) : Prop := ¬ (env.installCut ∧ c.ldr.state = 5 ∧ c.pwr.role ≠ .station)

section
variable {u : State} (hu : u = (c.upPwr (fun p => { p with domains := p.domains ||| 0x040#12 })).startStores env)
include hu

/-- Step 5 changes nothing of the power block but its domains. -/
theorem startStores_pwr : u.pwr.role = c.pwr.role ∧ u.pwr.started = c.pwr.started := by
  have k := State.startStores_keep (L := { clk := true, clu := true, tasks := true, sto := true, ldr := true, csw := true, fio := true, dict := true, evr := true, trc := true })
    (Keep.refl (c.upPwr (fun p => { p with domains := p.domains ||| 0x040#12 }))) env
  rw [← hu] at k
  rw [k.frame.pwr rfl]
  exact ⟨rfl, rfl⟩

/-- A controller that holds no image: code 4 at step 5. -/
theorem startRest_noImage (h : env.domainBad = none) (hi : c.uncut env) (hr : u.pwr.role = .controller) (hm : u.ldr.img = none) :
    c.startRest env = u.stopStart 4 5 (bit u.ldr.installing) := by
  subst hu
  exact (if_neg (by simp [h])).trans ((if_neg hi).trans (if_pos ⟨hr, Option.isNone_iff_eq_none.mpr hm⟩))

/-- The stores stand and the image, where there is one, fits P: step 7 takes the role. -/
theorem startRest_role (h : env.domainBad = none) (hi : c.uncut env) (hm : u.pwr.role ≠ .controller ∨ u.ldr.img.isSome = true)
    (hp : (u.loadAll env).pwr.role = .station ∨ ∃ i, (u.loadAll env).ldr.img = some i ∧ i.beatP = (u.loadAll env).clk.p) :
    c.startRest env = (u.loadAll env).startRole env.terms := by
  have hstop : ¬ (u.pwr.role = .controller ∧ u.ldr.img.isNone = true) := by
    rintro ⟨hr, hn⟩
    rcases hm with hm | hm
    · exact hm hr
    · rw [Option.isNone_iff_eq_none.mp hn] at hm
      cases hm
  have hfit : ¬ ((u.loadAll env).pwr.role ≠ .station ∧ (u.loadAll env).ldr.img.any (fun i => decide (i.beatP ≠ (u.loadAll env).clk.p)) = true) := by
    rintro ⟨hr, hn⟩
    rcases hp with hp | ⟨i, hi, hp⟩
    · exact hr hp
    · simp [hi, hp] at hn
  subst hu
  exact (if_neg (by simp [h])).trans ((if_neg hi).trans ((if_neg hstop).trans ((if_neg (by simp [h])).trans (if_neg hfit))))

end

/-- With nothing to install, a station and a unit without an image come out of step 5 without one. -/
theorem startStores_img_none (hi : s.ldr.state ≠ 5 ∨ s.pwr.role = .station) (hm : s.pwr.role = .station ∨ s.ldr.img = none) : (s.startStores env).ldr.img = none := by
  have hp : s.installPending = (s, false) := if_pos hi
  have hn : (if s.pwr.role = .station then s.noImage else s).ldr.img = none := by
    split
    · rfl
    · next h => exact hm.resolve_left h
  unfold State.startStores
  rw [hp]
  dsimp only [State.upClk_ldr]
  split
  · exact hn
  · next i h => rw [hn] at h; cases h

/-! ### Step 7 (07 R199, R203, 19 R519) -/

theorem governs_of_solo {u : State} (h : u.csw.role = .solo) : u.governs = true := by
  unfold State.governs
  simp [h]

/-- A unit that is no controller and holds no image ends its start-up in SOLO without a pair, its outputs released. -/
theorem startRole_station {u : State} (terms : List Nat) (hr : u.pwr.role ≠ .controller) (hm : u.ldr.img = none) :
    (u.startRole terms).pwr.started = true ∧ (u.startRole terms).pwr.stopped = false ∧ (u.startRole terms).csw.role = .solo ∧ (u.startRole terms).csw.pair = false ∧
    (u.startRole terms).csw.dark = true ∧ (u.startRole terms).csw.driversOff = false ∧ (u.startRole terms).fio.released = true ∧ (u.startRole terms).ldr.img = none ∧
    byteAt (u.startRole terms).pwr.report 0 = 0 ∧ byteAt (u.startRole terms).pwr.report 1 = 10 := by
  have e : u.startRole terms = (u.upCsw (fun c => { c with role := .solo, pair := false, dark := true, term := 0 })).finishStart := if_pos hr
  have hw : (u.upCsw (fun c => { c with role := .solo, pair := false, dark := true, term := 0 })).minSetWide = false := by
    unfold State.minSetWide
    rw [State.upCsw_ldr, hm]
  obtain ⟨hst, hsp, -, -, hr0, hr1, hl, hro, hpa, hda, -, hg⟩ := finishStart_left _ (.inl hw)
  obtain ⟨hdr, hrel⟩ := hg (governs_of_solo rfl)
  rw [e]
  exact ⟨hst, hsp, hro, hpa, hda, hdr, hrel, by rw [hl]; exact hm, hr0, hr1⟩

/-- A controller outside a pair, with a term left and VIN at or above 9 V, ends its start-up in SOLO with the next term, its outputs released. -/
theorem startRole_solo {u : State} (terms : List Nat) (hr : u.pwr.role = .controller) (hp : u.inForce 0x6000 0 0 ≠ 1) (ht : (u.heardTerms terms).highTerm < 0xFFFF) (hv : 9000 ≤ u.pwr.vinMv) :
    (u.startRole terms).pwr.started = true ∧ (u.startRole terms).pwr.stopped = false ∧ (u.startRole terms).pwr.state = .run ∧ (u.startRole terms).csw.role = .solo ∧
    (u.startRole terms).csw.term = (u.heardTerms terms).highTerm + 1 ∧ (u.startRole terms).csw.driversOff = false ∧ (u.startRole terms).fio.released = true ∧
    byteAt (u.startRole terms).pwr.report 0 = 0 ∧ byteAt (u.startRole terms).pwr.report 1 = 10 := by
  have e : u.startRole terms = (((u.heardTerms terms).govern .solo 0 0).upCsw (fun c => { c with storeComplete := c.storeComplete || decide (c.role = .solo) })).finishStart :=
    (if_neg (by simp [hr])).trans (if_neg hp)
  obtain ⟨hterm, hrole, hpwr⟩ := govern_left (u.heardTerms terms) .solo 0 0 ht
  have hpwr' : ((u.heardTerms terms).govern .solo 0 0).pwr = u.pwr := hpwr
  rw [e]
  generalize (u.heardTerms terms).govern .solo 0 0 = g at hterm hrole hpwr'
  have hv' : 9000 ≤ (g.upCsw (fun c => { c with storeComplete := c.storeComplete || decide (c.role = .solo) })).pwr.vinMv := by
    rw [State.upCsw_pwr, hpwr']
    exact hv
  obtain ⟨hst, hsp, -, hrun, hr0, hr1, -, hro, -, -, hte, hg⟩ := finishStart_left _ (.inr hv')
  obtain ⟨hdr, hrel⟩ := hg (governs_of_solo hrole)
  exact ⟨hst, hsp, hrun hv', hro.trans hrole, hte.trans hterm, hdr, hrel, hr0, hr1⟩

/-! ### A start-up that waits for VIN (19 R520 code 6) -/

theorem exec_startResume (h : s.pwr.stopped = true) (hr : byteAt s.pwr.report 0 = 6) (hv : 10000 ≤ env.vinMv) :
    exec (.startResumeAfterVin env) s = .next (countEdges s (s.upPwr (fun p => { p with vinMv := env.vinMv })).finishStart) := by
  show commit s (s.resumeStart env) = _
  unfold State.resumeStart
  rw [if_pos ⟨h, hr, hv⟩, commit_eq]

theorem exec_startResume_idle (h : s.pwr.stopped = false ∨ byteAt s.pwr.report 0 ≠ 6 ∨ env.vinMv < 10000) : exec (.startResumeAfterVin env) s = .next s := by
  show commit s (s.resumeStart env) = _
  unfold State.resumeStart
  rw [if_neg, commit_self]
  rintro ⟨hs, hr, hv⟩
  rcases h with h | h | h
  · rw [h] at hs; cases hs
  · exact h hr
  · omega

/-! ### The statement -/

/-- A stop of a start-up that halts: what it reports and sets. -/
theorem stopStart_halts (u : State) {code step detail : Nat} (hc : code < 256) (hs : step < 256) (hd : detail < 256) (h1 : code ≠ 1) (h6 : code ≠ 6) :
    (u.stopStart code step detail).pwr.stopped = true ∧ (u.stopStart code step detail).pwr.started = u.pwr.started ∧ byteAt (u.stopStart code step detail).pwr.report 0 = code ∧
    byteAt (u.stopStart code step detail).pwr.report 1 = step ∧ byteAt (u.stopStart code step detail).pwr.report 2 = detail ∧
    (u.stopStart code step detail).sto.halted = true ∧ (u.stopStart code step detail).host.exeCause.getLsbD 5 = true := by
  obtain ⟨hstop, hst, r0, r1, r2, -, hhalt, -, -⟩ := stopStart_left u code step detail hc hs hd
  exact ⟨hstop, hst, r0, r1, r2, hhalt h1 h6⟩

/-- A stop moves neither the L map nor the loader. -/
theorem stopStart_lmem_ldr (u : State) (code step detail : Nat) : (u.stopStart code step detail).sto.lmem = u.sto.lmem ∧ (u.stopStart code step detail).ldr = u.ldr := by
  unfold State.stopStart
  dsimp only
  split
  · exact ⟨rfl, rfl⟩
  · simp only [State.exeCause_sto, State.exeCause_ldr]
    exact ⟨rfl, rfl⟩

/-- The start-up begun in `s`: the state `a` after steps 1 and 2, and `b` after step 4. -/
structure Begun (s a b : State) (env : StartEnv) : Prop where
  may : s.mayStart env = true
  temp : s.pwr.ref = .deviceReset ∨ tempOk env.temp = true
  booted : a = ((s.startAo env).fwReads env.ecc).bootBanks env.signed
  stores : b = a.startSup env

namespace Begun

variable {a b : State} (h : Begun s a b env)
include h

theorem exec_startUp : exec (.startUp env) s = .next (countEdges s ((s.startAo env).startFrom env)) := Machine.exec_startUp h.may h.temp

theorem keep_booted : Keep { fw := true, sto := true, host := true, evr := true } (s.startAo env) a := by
  rw [h.booted]
  exact bootBanks_fwReads_keep _ _ _

theorem booted_started : a.pwr.started = false := by
  rw [h.keep_booted.frame.pwr rfl]
  exact startAo_started env (mayStart_started h.may)

theorem booted_pwrCycles : a.rtc.pwrCycles = if s.pwr.ref = .deviceReset then s.rtc.pwrCycles else min 0xFFFFFFFF (s.rtc.pwrCycles + 1) := by
  rw [h.keep_booted.frame.rtc rfl]
  exact startAo_pwrCycles s env

theorem checked_started : b.milestonesChecked.pwr.started = false := by
  rw [(milestonesChecked_keep b).frame.pwr rfl, h.stores, startSup_started]
  exact h.booted_started

/-- The SUP domain fails (19 R518 step 1). -/
theorem supFails (hd : env.domainBad = some 0 ∨ env.domainBad = some 1) : ∃ t, exec (.startUp env) s = .next t ∧ t.pwr.stopped = true ∧ t.pwr.started = false ∧
    t.pwr.domains = 0x001#12 ∧ t.rtc.pwrCycles = (if s.pwr.ref = .deviceReset then s.rtc.pwrCycles else min 0xFFFFFFFF (s.rtc.pwrCycles + 1)) ∧ t.pending = s.pending := by
  refine ⟨_, h.exec_startUp, ?_⟩
  have hq := startUp_pending s env
  rw [startFrom_supFails h.booted hd] at hq ⊢
  exact ⟨rfl, h.booted_started, rfl, h.booted_pwrCycles, hq⟩

/-- No firmware bank passes (19 R520 code 1). -/
theorem noBank (hd : env.domainBad = none) (hn : a.fw.active = none) : ∃ t, exec (.startUp env) s = .next t ∧ t.pwr.stopped = true ∧ t.pwr.recovery = true ∧ t.pwr.started = false ∧
    byteAt t.pwr.report 0 = 1 ∧ byteAt t.pwr.report 1 = 2 ∧ t.host.ready = true ∧
    t.rtc.pwrCycles = (if s.pwr.ref = .deviceReset then s.rtc.pwrCycles else min 0xFFFFFFFF (s.rtc.pwrCycles + 1)) ∧ t.pending = s.pending := by
  refine ⟨_, h.exec_startUp, ?_⟩
  have hq := startUp_pending s env
  rw [startFrom_noBank h.booted hd hn] at hq ⊢
  obtain ⟨hstop, hst, r0, r1, -, hrec, -, hrtc, hhost⟩ :=
    stopStart_left ((a.upHost (fun x => { x with ready := true })).upDict (fun d => { d with usbOff := d.fuses.getLsbD 3 })) 1 2 0 (by decide) (by decide) (by decide)
  exact ⟨hstop, hrec, hst.trans h.booted_started, r0, r1, congrArg HostSt.ready (hhost rfl), (congrArg Rtc.pwrCycles hrtc).trans h.booted_pwrCycles, hq⟩

/-- The MEM domain fails (19 R520 code 2). -/
theorem memFails (hd : env.domainBad = some 6) (hn : a.fw.active ≠ none) (he : env.epochBad = none) : ∃ t, exec (.startUp env) s = .next t ∧ t.pwr.stopped = true ∧ t.pwr.started = false ∧
    byteAt t.pwr.report 0 = 2 ∧ byteAt t.pwr.report 1 = 6 ∧ byteAt t.pwr.report 2 = 6 ∧ t.sto.halted = true ∧ t.host.exeCause.getLsbD 5 = true ∧
    t.sto.lmem = b.sto.lmem ∧ t.ldr = b.ldr ∧ t.pending = s.pending := by
  refine ⟨_, h.exec_startUp, ?_⟩
  have hq := startUp_pending s env
  rw [startFrom_rest h.booted (by simp [hd]) (by simp [hd]) hn he, ← h.stores, startRest_memFails hd] at hq ⊢
  obtain ⟨hstop, hst, r0, r1, r2, hhalt, hcause⟩ := stopStart_halts b.milestonesChecked (code := 2) (step := 6) (detail := 6) (by decide) (by decide) (by decide) (by decide) (by decide)
  obtain ⟨hlm, hldr⟩ := stopStart_lmem_ldr b.milestonesChecked 2 6 6
  exact ⟨hstop, hst.trans h.checked_started, r0, r1, r2, hhalt, hcause, hlm.trans (milestonesChecked_lmem b), hldr.trans ((milestonesChecked_keep b).frame.ldr rfl), hq⟩

/-- An epoch record reads uncorrectable (19 R520 code 3). -/
theorem epochBad {d ad : Nat} (hd : env.domainBad = none) (hn : a.fw.active ≠ none) (he : env.epochBad = some (d, ad)) (hd256 : d < 256) (hcold : b.inForce 0x4003 0 0 ≠ 1) :
    ∃ t, exec (.startUp env) s = .next t ∧ t.pwr.stopped = true ∧ t.pwr.started = false ∧
    byteAt t.pwr.report 0 = 3 ∧ byteAt t.pwr.report 1 = 5 ∧ byteAt t.pwr.report 2 = d ∧ t.sto.halted = true ∧ t.host.exeCause.getLsbD 5 = true ∧ t.pending = s.pending := by
  refine ⟨_, h.exec_startUp, ?_⟩
  have hq := startUp_pending s env
  rw [startFrom_epochBad h.booted hd hn he (by rw [← h.stores]; exact hcold), ← h.stores] at hq ⊢
  have hpwr := (State.uncorrectable_keep (L := { host := true, evr := true }) (Keep.refl b.milestonesChecked) (if d = 0 then .program else .inst) ad).frame.pwr rfl
  obtain ⟨hstop, hst, r0, r1, r2, hhalt, hcause⟩ :=
    stopStart_halts (b.milestonesChecked.uncorrectable (if d = 0 then .program else .inst) ad) (code := 3) (step := 5) (detail := d) (by decide) (by decide) hd256 (by decide) (by decide)
  exact ⟨hstop, hst.trans ((congrArg Pwr.started hpwr).trans h.checked_started), r0, r1, r2, hhalt, hcause, hq⟩

/-- A controller holds no image and has none to install (19 R520 code 4). -/
theorem noImage (hd : env.domainBad = none) (hn : a.fw.active ≠ none) (he : env.epochBad = none) (hr : b.pwr.role = .controller) (hm : b.ldr.img = none) (hl : b.ldr.state ≠ 5) :
    ∃ t, exec (.startUp env) s = .next t ∧ t.pwr.stopped = true ∧
    t.pwr.started = false ∧ byteAt t.pwr.report 0 = 4 ∧ byteAt t.pwr.report 1 = 5 ∧ t.sto.halted = true ∧ t.host.exeCause.getLsbD 5 = true ∧ t.pending = s.pending := by
  refine ⟨_, h.exec_startUp, ?_⟩
  have hq := startUp_pending s env
  have hldr : b.milestonesChecked.ldr = b.ldr := (milestonesChecked_keep b).frame.ldr rfl
  have hpwr : b.milestonesChecked.pwr = b.pwr := (milestonesChecked_keep b).frame.pwr rfl
  obtain ⟨u, hu⟩ : ∃ u, u = (b.milestonesChecked.upPwr (fun p => { p with domains := p.domains ||| 0x040#12 })).startStores env := ⟨_, rfl⟩
  have hum : u.ldr.img = none := by
    rw [hu]
    exact startStores_img_none (.inl (by rw [State.upPwr_ldr, hldr]; exact hl)) (.inr (by rw [State.upPwr_ldr, hldr]; exact hm))
  obtain ⟨hrole, hstarted⟩ := startStores_pwr hu
  rw [startFrom_rest h.booted (by simp [hd]) (by simp [hd]) hn he, ← h.stores,
    startRest_noImage hu hd (fun ⟨_, h5, _⟩ => hl (hldr ▸ h5)) (by rw [hrole, hpwr]; exact hr) hum] at hq ⊢
  have hbit : bit u.ldr.installing < 256 := by cases u.ldr.installing <;> decide
  obtain ⟨hstop, hst, r0, r1, -, hhalt, hcause⟩ := stopStart_halts u (code := 4) (step := 5) (by decide) (by decide) hbit (by decide) (by decide)
  exact ⟨hstop, hst.trans (hstarted.trans h.checked_started), r0, r1, hhalt, hcause, hq⟩

/-- A station completes its start-up (01 R13, 19 R519). -/
theorem station (hd : env.domainBad = none) (hn : a.fw.active ≠ none) (he : env.epochBad = none) (hr : b.pwr.role = .station) :
    ∃ t, exec (.startUp env) s = .next t ∧ t.pwr.started = true ∧ t.pwr.stopped = false ∧ t.csw.role = .solo ∧
    t.csw.pair = false ∧ t.csw.dark = true ∧ t.csw.driversOff = false ∧ t.fio.released = true ∧ t.ldr.img = none ∧ byteAt t.pwr.report 0 = 0 ∧
    byteAt t.pwr.report 1 = 10 ∧ t.pending = s.pending := by
  refine ⟨_, h.exec_startUp, ?_⟩
  have hq := startUp_pending s env
  have hpwr : b.milestonesChecked.pwr = b.pwr := (milestonesChecked_keep b).frame.pwr rfl
  have hcr : b.milestonesChecked.pwr.role = .station := by rw [hpwr]; exact hr
  obtain ⟨u, hu⟩ : ∃ u, u = (b.milestonesChecked.upPwr (fun p => { p with domains := p.domains ||| 0x040#12 })).startStores env := ⟨_, rfl⟩
  have hum : u.ldr.img = none := by
    rw [hu]
    exact startStores_img_none (.inr hcr) (.inl hcr)
  have hur : u.pwr.role = .station := (startStores_pwr hu).1.trans hcr
  obtain ⟨w, hw⟩ : ∃ w, w = u.loadAll env := ⟨_, rfl⟩
  obtain ⟨hlp, hll, -⟩ := loadAll_left u env
  rw [← hw] at hlp hll
  have hwr : w.pwr.role = .station := by rw [hlp]; exact hur
  rw [startFrom_rest h.booted (by simp [hd]) (by simp [hd]) hn he, ← h.stores,
    startRest_role hu hd (fun ⟨_, _, hns⟩ => hns hcr) (.inl (by rw [hur]; decide)) (.inl (by rw [← hw]; exact hwr)), ← hw] at hq ⊢
  obtain ⟨hst, hsp, hro, hpa, hda, hdr, hrel, hi, r0, r1⟩ := startRole_station env.terms (u := w) (by rw [hwr]; decide) (by rw [hll]; exact hum)
  exact ⟨hst, hsp, hro, hpa, hda, hdr, hrel, hi, r0, r1, hq⟩

/-- A controller outside a pair, whose image fits P, completes its start-up (07 R203, 19 R519). -/
theorem solo {u : State} {i : Image} (hd : env.domainBad = none) (hn : a.fw.active ≠ none) (he : env.epochBad = none) (hcut : env.installCut = false)
    (hu : u = ((b.milestonesChecked.upPwr (fun p => { p with domains := p.domains ||| 0x040#12 })).startStores env).loadAll env)
    (hr : u.pwr.role = .controller) (hm : u.ldr.img = some i) (hfit : i.beatP = u.clk.p) (hp : u.inForce 0x6000 0 0 ≠ 1) (ht : (u.heardTerms env.terms).highTerm < 0xFFFF)
    (hv : 9000 ≤ u.pwr.vinMv) :
    ∃ t, exec (.startUp env) s = .next t ∧ t.pwr.started = true ∧ t.pwr.stopped = false ∧ t.pwr.state = .run ∧ t.csw.role = .solo ∧
    t.csw.term = (u.heardTerms env.terms).highTerm + 1 ∧ t.csw.driversOff = false ∧ t.fio.released = true ∧ byteAt t.pwr.report 0 = 0 ∧ byteAt t.pwr.report 1 = 10 ∧ t.pending = s.pending := by
  refine ⟨_, h.exec_startUp, ?_⟩
  have hq := startUp_pending s env
  obtain ⟨v, hv'⟩ : ∃ v, v = (b.milestonesChecked.upPwr (fun p => { p with domains := p.domains ||| 0x040#12 })).startStores env := ⟨_, rfl⟩
  rw [← hv'] at hu
  obtain ⟨-, hll, -⟩ := loadAll_left v env
  have hvm : v.ldr.img = some i := by rw [← hll, ← hu]; exact hm
  rw [startFrom_rest h.booted (by simp [hd]) (by simp [hd]) hn he, ← h.stores,
    startRest_role hv' hd (fun ⟨hc, _⟩ => by rw [hcut] at hc; cases hc) (.inr (by rw [hvm]; rfl)) (.inr ⟨i, by rw [← hu]; exact hm, by rw [← hu]; exact hfit⟩), ← hu] at hq ⊢
  obtain ⟨hst, hsp, hrun, hro, hte, hdr, hrel, r0, r1⟩ := startRole_solo env.terms hr hp ht hv
  exact ⟨hst, hsp, hrun, hro, hte, hdr, hrel, r0, r1, hq⟩

end Begun

/-- A start-up that waits for VIN goes on (19 R520 code 6). -/
theorem startResume_completes (h : s.pwr.stopped = true) (hr : byteAt s.pwr.report 0 = 6) (hv : 10000 ≤ env.vinMv) :
    ∃ t, exec (.startResumeAfterVin env) s = .next t ∧ t.pwr.started = true ∧ t.pwr.stopped = false ∧ t.pwr.vinMv = env.vinMv ∧ byteAt t.pwr.report 0 = 0 ∧ t.pending = s.pending := by
  have hvin : 9000 ≤ (s.upPwr (fun p => { p with vinMv := env.vinMv })).pwr.vinMv := Nat.le_trans (by decide) hv
  obtain ⟨hst, hsp, hvm, -, hr0, -⟩ := finishStart_left (s.upPwr (fun p => { p with vinMv := env.vinMv })) (.inr hvin)
  have hx := exec_startResume h hr hv
  exact ⟨_, hx, hst, hsp, hvm, hr0, (execStartResumeAfterVin_keep (L := Parts.all) env hx).frame.pending⟩

/-- Settles O51: the steps before the stores by how the domains, the banks and the epoch records stand, those after them by the role and the image. -/
theorem startUpStopsAndCompletes : Obligations.StartUpStopsAndCompletes := by
  intro s a b env ha hb
  refine ⟨exec_startUp_idle, fun h hr ht => ⟨_, exec_startUp_hold h hr ht, rfl, ((Keep.refl s).upPwr _).frame.countEdges s⟩, fun h ht => ?_, startResume_completes, exec_startResume_idle⟩
  have hbegun : Begun s a b env := ⟨h, ht, ha, hb⟩
  exact ⟨hbegun.supFails, hbegun.noBank, hbegun.memFails, fun hd hn => ⟨fun d ad => hbegun.epochBad hd hn, hbegun.noImage hd hn, hbegun.station hd hn, fun u i => hbegun.solo hd hn⟩⟩

end Sys2Proof.Machine
end

section
/-! PROOFS. Every command answers a next state and keeps what `Keep` says (Laws/Keep.lean); so every step answers, and regular states stay regular (02 R47, 12 R375, 13 R403, 17 R487). -/

namespace Sys2Proof.Machine

open Sys2Proof

/-- No command ends in a fault or a refusal: each answers the next state. -/
theorem exec_answers (c : Instr) (s : State) : ∃ t, exec c s = .next t := by
  cases c <;> exact ⟨_, rfl⟩

/-- Every command keeps memories canonical, bounds, fuses, the trail, the sealed entries and the queue of commands, whatever parts it touches. -/
theorem exec_keep {s t : State} : ∀ c : Instr, exec c s = .next t → Keep Parts.all s t
  | .beatBoundary .., h => execBeatBoundary_keep _ _ h
  | .runStart .., h => execRunStart_keep _ h
  | .bundleIssue .., h => execBundleIssue_keep _ _ _ h
  | .resultLanding .., h => execResultLanding_keep _ h
  | .controlTransfer .., h => execControlTransfer_keep _ h
  | .repIteration .., h => execRepIteration_keep _ _ _ h
  | .stringIteration .., h => execStringIteration_keep _ _ h
  | .recordWriteback .., h => execRecordWriteback_keep _ _ h
  | .runCompletion .., h => execRunCompletion_keep _ _ h
  | .milestoneDurable .., h => execMilestoneDurable_keep _ h
  | .settleDone .., h => execSettleDone_keep _ h
  | .faultClear .., h => execFaultClear_keep _ h
  | .imageLoadSegment .., h => execImageLoadSegment_keep _ _ _ h
  | .loadCmdCheck, h => execLoadCmdCheck_keep h
  | .loadCheckDone, h => execLoadCheckDone_keep h
  | .loadCmdInstall, h => execLoadCmdInstall_keep h
  | .loadCmdDiscard, h => execLoadCmdDiscard_keep h
  | .swapReady .., h => execSwapReady_keep _ h
  | .enterReduced .., h => execEnterReduced_keep _ h
  | .returnToRun .., h => execReturnToRun_keep _ h
  | .heartbeatSend .., h => execHeartbeatSend_keep _ h
  | .heartbeatReceive .., h => execHeartbeatReceive_keep _ _ _ _ h
  | .heartbeatLost .., h => execHeartbeatLost_keep _ h
  | .laneDown .., h => execLaneDown_keep _ h
  | .cwaCycle .., h => execCwaCycle_keep _ _ h
  | .cwaMasterTakeover, h => execCwaMasterTakeover_keep h
  | .negotiateSend .., h => execNegotiateSend_keep _ h
  | .negotiateReceive .., h => execNegotiateReceive_keep _ _ _ _ h
  | .negotiationTimeout .., h => execNegotiationTimeout_keep _ h
  | .milestoneTransfer, h => execMilestoneTransfer_keep h
  | .causewayTransferDone, h => execCausewayTransferDone_keep h
  | .streamReceive .., h => execStreamReceive_keep _ _ _ _ h
  | .resendTimeout, h => execResendTimeout_keep h
  | .bulkSend .., h => execBulkSend_keep _ h
  | .failReceive .., h => execFailReceive_keep _ _ _ _ h
  | .takeoverExecute .., h => execTakeoverExecute_keep _ h
  | .termConfirmTimeout .., h => execTermConfirmTimeout_keep _ h
  | .swapDrillCmd .., h => execSwapDrillCmd_keep _ _ h
  | .programSwapCmd .., h => execProgramSwapCmd_keep _ _ h
  | .abandonSwapCmd .., h => execAbandonSwapCmd_keep _ h
  | .handoverReceive .., h => execHandoverReceive_keep _ _ _ _ h
  | .handoverGoSend .., h => execHandoverGoSend_keep _ h
  | .handoverGoReceive .., h => execHandoverGoReceive_keep _ _ _ _ h
  | .handoverDriversOff .., h => execHandoverDriversOff_keep _ h
  | .drillDue .., h => execDrillDue_keep _ h
  | .rawSample .., h => execRawSample_keep _ _ _ _ h
  | .groupQualified .., h => execGroupQualified_keep _ h
  | .grpOvercurrent .., h => execGrpOvercurrent_keep _ h
  | .grpAck .., h => execGrpAck_keep _ _ h
  | .thermalTrip .., h => execThermalTrip_keep _ h
  | .thermalCooled .., h => execThermalCooled_keep _ h
  | .overloadClear .., h => execOverloadClear_keep _ h
  | .openLoadDetect .., h => execOpenLoadDetect_keep _ h
  | .openLoadClear .., h => execOpenLoadClear_keep _ h
  | .staggeredSwitchOn .., h => execStaggeredSwitchOn_keep _ _ h
  | .logicSilenceExpiry, h => execLogicSilenceExpiry_keep h
  | .ethLinkChange .., h => execEthLinkChange_keep _ _ h
  | .prpSupervisionSend .., h => execPrpSupervisionSend_keep _ h
  | .ptpMessageReceive .., h => execPtpMessageReceive_keep _ _ _ _ _ h
  | .announceReceiptTimeout .., h => execAnnounceReceiptTimeout_keep _ h
  | .ptpSyncSend .., h => execPtpSyncSend_keep _ _ h
  | .ppsInEdge .., h => execPpsInEdge_keep _ h
  | .refLost, h => execRefLost_keep h
  | .stationInputSend .., h => execStationInputSend_keep _ h
  | .stationInputReceive .., h => execStationInputReceive_keep _ _ _ h
  | .outputFrameReceive .., h => execOutputFrameReceive_keep _ _ _ h
  | .termClaimReceive .., h => execTermClaimReceive_keep _ _ _ h
  | .statusReceive .., h => execStatusReceive_keep _ _ _ h
  | .keepAliveSend .., h => execKeepAliveSend_keep _ h
  | .warmStartFrames .., h => execWarmStartFrames_keep _ h
  | .ackWaitExpiry .., h => execAckWaitExpiry_keep _ h
  | .txLateDrop .., h => execTxLateDrop_keep _ h
  | .readmitAck .., h => execReadmitAck_keep _ _ h
  | .canFrameReceived .., h => execCanFrameReceived_keep _ _ _ h
  | .canWindowRead .., h => execCanWindowRead_keep _ _ _ h
  | .canFifoRead .., h => execCanFifoRead_keep _ _ _ h
  | .canLockTimeout .., h => execCanLockTimeout_keep _ _ h
  | .canBufselWrite .., h => execCanBufselWrite_keep _ _ _ h
  | .canTxreq .., h => execCanTxreq_keep _ _ _ h
  | .canTxabort .., h => execCanTxabort_keep _ _ _ h
  | .canTxStart .., h => execCanTxStart_keep _ _ h
  | .canTxEnd .., h => execCanTxEnd_keep _ _ h
  | .canTxError .., h => execCanTxError_keep _ _ _ _ _ _ _ h
  | .canRecover .., h => execCanRecover_keep _ _ h
  | .canRecoveryEnd .., h => execCanRecoveryEnd_keep _ h
  | .canInitWrite .., h => execCanInitWrite_keep _ _ _ h
  | .canBusIntegration .., h => execCanBusIntegration_keep _ h
  | .gateWindowOpen .., h => execGateWindowOpen_keep _ _ _ h
  | .gateWindowClose .., h => execGateWindowClose_keep _ _ h
  | .canWakePattern, h => execCanWakePattern_keep h
  | .kivaselUdpReceive .., h => execKivaselUdpReceive_keep _ _ _ _ h
  | .kivaselCanSegment .., h => execKivaselCanSegment_keep _ _ _ h
  | .kivaselCanSegmentTimeout .., h => execKivaselCanSegmentTimeout_keep _ h
  | .kivaselUsbTransfer .., h => execKivaselUsbTransfer_keep _ _ h
  | .odxGo .., h => execOdxGo_keep _ _ h
  | .odxAck .., h => execOdxAck_keep _ h
  | .kOpen .., h => execKOpen_keep _ h
  | .kClose .., h => execKClose_keep _ h
  | .kChallenge .., h => execKChallenge_keep _ h
  | .kLogin .., h => execKLogin_keep _ h
  | .loginLockoutEnd .., h => execLoginLockoutEnd_keep _ h
  | .kRead .., h => execKRead_keep _ _ h
  | .kReadMulti .., h => execKReadMulti_keep _ _ h
  | .kDescribe .., h => execKDescribe_keep _ h
  | .kWrite .., h => execKWrite_keep _ h
  | .batchOpen .., h => execBatchOpen_keep _ h
  | .batchAdd .., h => execBatchAdd_keep _ h
  | .batchCommit .., h => execBatchCommit_keep _ h
  | .batchStatus .., h => execBatchStatus_keep _ h
  | .batchDiscard .., h => execBatchDiscard_keep _ h
  | .sessionTimeout .., h => execSessionTimeout_keep _ _ h
  | .batchIdleTimeout .., h => execBatchIdleTimeout_keep _ _ h
  | .accessKeyWrite .., h => execAccessKeyWrite_keep _ h
  | .fuseBlow .., h => execFuseBlow_keep _ h
  | .fuseBlowEnd, h => execFuseBlowEnd_keep h
  | .restoreDefaults .., h => execRestoreDefaults_keep _ h
  | .publishMapSegment .., h => execPublishMapSegment_keep _ _ _ h
  | .hostRead .., h => execHostRead_keep _ _ _ h
  | .hostWrite .., h => execHostWrite_keep _ _ _ h
  | .hostStatus .., h => execHostStatus_keep _ _ h
  | .hostStallViolation, h => execHostStallViolation_keep h
  | .hostAccessTimeout .., h => execHostAccessTimeout_keep _ h
  | .unlockChallenge .., h => execUnlockChallenge_keep _ h
  | .unlockGo .., h => execUnlockGo_keep _ h
  | .unlockLock .., h => execUnlockLock_keep _ h
  | .hostLockoutEnd, h => execHostLockoutEnd_keep h
  | .registerWrite .., h => execRegisterWrite_keep _ _ _ h
  | .rclRead .., h => execRclRead_keep _ _ h
  | .mbxSelWrite .., h => execMbxSelWrite_keep _ _ h
  | .mbxLatch .., h => execMbxLatch_keep _ _ h
  | .mbxDataRead .., h => execMbxDataRead_keep _ _ h
  | .intClaim .., h => execIntClaim_keep _ h
  | .intTake .., h => execIntTake_keep _ _ h
  | .intDone .., h => execIntDone_keep _ _ h
  | .intRouteWrite .., h => execIntRouteWrite_keep _ _ _ h
  | .sysReset .., h => execSysReset_keep _ _ h
  | .roleNextWrite .., h => execRoleNextWrite_keep _ _ h
  | .hostCheckin .., h => execHostCheckin_keep _ _ _ h
  | .serviceCheckin .., h => execServiceCheckin_keep _ _ h
  | .waymarkPeriodEnd .., h => execWaymarkPeriodEnd_keep _ _ h
  | .watchdogResetExecute .., h => execWatchdogResetExecute_keep _ h
  | .clrResets .., h => execClrResets_keep _ _ h
  | .recordWrite .., h => execRecordWrite_keep _ h
  | .evrWin0Read .., h => execEvrWin0Read_keep _ _ h
  | .evrWin63Read .., h => execEvrWin63Read_keep _ h
  | .eventClear .., h => execEventClear_keep _ _ h
  | .eventClearDone, h => execEventClearDone_keep h
  | .anchorRequestInterval .., h => execAnchorRequestInterval_keep _ h
  | .anchorCmd .., h => execAnchorCmd_keep _ h
  | .anchorCopyComplete, h => execAnchorCopyComplete_keep h
  | .anchorMissed, h => execAnchorMissed_keep h
  | .freeze .., h => execFreeze_keep _ h
  | .ringFrozen, h => execRingFrozen_keep h
  | .unfreeze .., h => execUnfreeze_keep _ h
  | .streamDatagramSend .., h => execStreamDatagramSend_keep _ h
  | .replayLoadSegment .., h => execReplayLoadSegment_keep _ _ _ h
  | .replayStart, h => execReplayStart_keep h
  | .replayStop, h => execReplayStop_keep h
  | .replayDiscard, h => execReplayDiscard_keep h
  | .nvpRecordRead .., h => execNvpRecordRead_keep _ _ h
  | .nvpRecordWrite .., h => execNvpRecordWrite_keep _ h
  | .nvpRawRead .., h => execNvpRawRead_keep _ _ h
  | .nvpRawWrite .., h => execNvpRawWrite_keep _ h
  | .nvpRawErase .., h => execNvpRawErase_keep _ h
  | .pageStepDone .., h => execPageStepDone_keep _ h
  | .waxPassVisit .., h => execWaxPassVisit_keep _ _ h
  | .waxPassBegin .., h => execWaxPassBegin_keep _ h
  | .waxLate .., h => execWaxLate_keep _ h
  | .clrCorr .., h => execClrCorr_keep _ h
  | .fwImageSegment .., h => execFwImageSegment_keep _ _ _ h
  | .fwVerifyDone .., h => execFwVerifyDone_keep _ _ h
  | .fwCmdAbandon, h => execFwCmdAbandon_keep h
  | .calendarTick, h => execCalendarTick_keep h
  | .periodicWake, h => execPeriodicWake_keep h
  | .oscStop, h => execOscStop_keep h
  | .snapshotTake .., h => execSnapshotTake_keep _ h
  | .calendarSetGo .., h => execCalendarSetGo_keep _ h
  | .calendarNowRead, h => execCalendarNowRead_keep h
  | .shiftStart .., h => execShiftStart_keep _ _ h
  | .parkRequest .., h => execParkRequest_keep _ _ h
  | .parkCommitEdge, h => execParkCommitEdge_keep h
  | .hostWakePin, h => execHostWakePin_keep h
  | .wakeFrameReceive .., h => execWakeFrameReceive_keep _ h
  | .vinReturn, h => execVinReturn_keep h
  | .powerCycleRecord .., h => execPowerCycleRecord_keep _ h
  | .metPowerUp .., h => execMetPowerUp_keep _ h
  | .clockPlausibilityFault .., h => execClockPlausibilityFault_keep _ h
  | .bridgeSample .., h => execBridgeSample_keep _ _ _ _ _ h
  | .noZeroTimeout .., h => execNoZeroTimeout_keep _ _ h
  | .pulseEdge .., h => execPulseEdge_keep _ _ h
  | .pulseRecordPublish .., h => execPulseRecordPublish_keep _ _ h
  | .excitationFault .., h => execExcitationFault_keep _ h
  | .sealChange .., h => execSealChange_keep _ h
  | .adjSetEntry .., h => execAdjSetEntry_keep _ h
  | .adjCaptureZero .., h => execAdjCaptureZero_keep _ h
  | .adjCaptureSpan .., h => execAdjCaptureSpan_keep _ h
  | .adjNoChange .., h => execAdjNoChange_keep _ h
  | .telegramGapTimeout, h => execTelegramGapTimeout_keep h
  | .metAliveTimeout .., h => execMetAliveTimeout_keep _ h
  | .metRecordRead .., h => execMetRecordRead_keep _ _ h
  | .startUp .., h => execStartUp_keep _ h
  | .startResumeAfterVin .., h => execStartResumeAfterVin_keep _ h
  | .vinLoss .., h => execVinLoss_keep _ _ h
  | .overvoltage .., h => execOvervoltage_keep _ _ h
  | .backplateTempReport .., h => execBackplateTempReport_keep _ _ _ h
  | .thermalRestart, h => execThermalRestart_keep h
  | .vbakLow, h => execVbakLow_keep h
  | .vinLow, h => execVinLow_keep h
  | .canReceiveError .., h => execCanReceiveError_keep _ _ _ _ _ h
  | .arpIcmpEchoRequest .., h => execArpIcmpEchoRequest_keep _ _ h
  | .vbakReturn, h => execVbakReturn_keep h
  | .startUpTemperatureHoldEnd .., h => execStartUpTemperatureHoldEnd_keep _ h
  | .ppsOutPulse, h => execPpsOutPulse_keep h
  | .fwBankStepDone .., h => execFwBankStepDone_keep _ h
  | .ptpAnnounceSend .., h => execPtpAnnounceSend_keep _ h
  | .ptpDelayRequestSend .., h => execPtpDelayRequestSend_keep _ h

/-- A step on an empty queue stays; any other is the front command's effect on the state with the rest of the queue. -/
theorem step_cases (s : State) : (s.pending = [] ∧ step s = .next s) ∨ ∃ c q, s.pending = c :: q ∧ step s = exec c (s.upPending (fun _ => q)) := by
  cases h : s.pending with
  | nil => exact .inl ⟨rfl, by simp only [step, h]⟩
  | cons c q => exact .inr ⟨c, q, rfl, by simp only [step, h]⟩

/-- Nothing that makes a state regular reads the queue of commands. -/
theorem upPending_regular {s : State} {k : List Instr → List Instr} (h : s.regular) : (s.upPending k).regular :=
  ⟨h.sto, h.conv, h.queue, h.counts, h.audit⟩

/-- Settles O55: the front command keeps what `Keep` says, and that makes a regular state regular again. -/
theorem regularStatesStayRegular : Obligations.RegularStatesStayRegular := by
  intro s
  obtain ⟨-, hs⟩ | ⟨c, q, -, hs⟩ := step_cases s
  · exact ⟨s, hs, id⟩
  · obtain ⟨t, ht⟩ := exec_answers c (s.upPending (fun _ => q))
    exact ⟨t, hs.trans ht, fun hr => (exec_keep c ht).guard.regular (upPending_regular hr)⟩

end Sys2Proof.Machine
end

section
/-! PROOFS. The system beat (02 R35, R36, R72): what a boundary leaves in the beat sequencer, in every role that runs beats. -/

namespace Sys2Proof.Machine

open Sys2Proof

variable {s : State}

/-- The parts that an ordinary boundary's acts after the count of the beat may touch: all but the beat sequencer and those that no boundary touches. -/
def Parts.beatActs : Parts :=
  { clu := true, tasks := true, sto := true, csw := true, fio := true, net := true, can := true, dict := true, host := true, wdg := true, evr := true, trc := true, nvp := true, rtc := true, pwr := true }

/-- While beats may not run, a boundary only passes time. -/
theorem boundary_idle (h : s.beatsMayRun = false) (t : Nat) (late : Bool) : s.boundary t late = s.reach t := by
  have hr : (s.reach t).beatsMayRun = false := h
  simp [State.boundary, State.boundaryActs, h, hr]

/-- A boundary outside a replay and with no Parked request leaves the beat sequencer as the next beat has it: no role's acts move it again. -/
theorem boundaryActs_clk (hb : s.beatsMayRun = true) (hr : s.replaying = false) (hp : s.pwr.parkReq = 0) (t : Nat) (late : Bool) :
    (s.boundaryActs t late).clk = (((s.reach t).traceFlush late).nextBeat t).clk := by
  obtain ⟨u, hu⟩ : ∃ u, u = ((s.reach t).traceFlush late).nextBeat t := ⟨_, rfl⟩
  have hset : Keep Parts.beatActs u u.takeSettings := State.takeSettings_keep (Keep.refl u)
  have hpark : u.takeSettings.pwr.parkReq = 0 := by
    have h1 : u.takeSettings.pwr = u.pwr := (State.takeSettings_keep (L := { fio := true, dict := true, evr := true, nvp := true, rtc := true }) (Keep.refl u)).frame.pwr rfl
    have h2 : u.pwr = s.pwr := by
      rw [hu]
      exact (State.nextBeat_keep (L := { clk := true, tasks := true, sto := true, csw := true, can := true, host := true, evr := true, trc := true })
        (State.traceFlush_keep (State.reach_keep (Keep.refl s) t) late) t).frame.pwr rfl
    rw [h1, h2, hp]
  rw [← hu]
  unfold State.boundaryActs
  rw [if_neg (by rw [show (s.reach t).beatsMayRun = true from hb]; decide), if_neg (by rw [show (s.reach t).replaying = false from hr]; decide), ← hu]
  dsimp only
  split
  · exact (State.reapply_keep (State.redrive_keep (State.applyDue_keep hset _))).frame.clk rfl
  · split
    · split
      · exact (State.drain_keep (State.heldBoundary_keep hset late)).frame.clk rfl
      · exact ((State.drain_keep (L := Parts.beatActs) (Keep.refl _)).frame.clk rfl).trans ((execBoundary_clk hpark t late).trans (hset.frame.clk rfl))
    · exact (State.waitBoundary_keep hset).frame.clk rfl

/-- Putting the boundary's occurrences in order moves nothing but the recorder's queue. -/
theorem boundary_clk (t : Nat) (late : Bool) : (s.boundary t late).clk = (s.boundaryActs t late).clk := by
  unfold State.boundary
  dsimp only
  split <;> rfl

/-- Settles O1: a boundary's beat sequencer is that of the next beat, which `nextBeat_clk` gives. -/
theorem beatBoundariesAdvanceTheBeat : Obligations.BeatBoundariesAdvanceTheBeat := by
  intro s t0 late
  refine ⟨fun pn q hpn hq hb hr hp => ?_, fun hb => ?_⟩
  · have hflush : ((s.reach t0).traceFlush late).clk = (s.reach t0).clk := (State.traceFlush_keep (L := { evr := true, trc := true }) (Keep.refl _) late).frame.clk rfl
    have hclk : (countEdges s (s.boundary t0 late)).clk = (((s.reach t0).traceFlush late).nextBeat t0).clk :=
      boundary_clk t0 late |>.trans (boundaryActs_clk hb hr hp t0 late)
    obtain ⟨hrun, hat, hpow, hnow, -, hbeat, hnum, halign⟩ := nextBeat_clk ((s.reach t0).traceFlush late) t0
    have hlock : ((s.reach t0).traceFlush late).isLocked = s.isLocked := by unfold State.isLocked; rw [hflush]; rfl
    have hptp : ((s.reach t0).traceFlush late).ptpNow = pn := by unfold State.ptpNow; rw [hflush, hpn]; rfl
    have hper : 1000 * ((s.reach t0).traceFlush late).clk.p = q := by rw [hflush, hq]; rfl
    have haligned : ((s.reach t0).traceFlush late).aligned = decide (pn % q ≤ 200 ∨ q ≤ pn % q + 200) := by
      unfold State.aligned
      rw [hptp, hper]
    rw [hlock, hflush] at hnum
    rw [hlock, haligned, hflush] at halign
    rw [hlock, hptp, hper, hflush] at hbeat
    rw [hflush] at hpow hnow
    refine ⟨_, commit_eq .., ?_⟩
    rw [hclk]
    exact ⟨hrun, hat, hnow, hpow, hnum, hbeat, halign, (execBeatBoundary_keep t0 late (commit_eq ..)).frame⟩
  · refine ⟨_, commit_eq .., ?_⟩
    rw [boundary_idle hb]
    exact ⟨rfl, (State.reach_keep (Keep.refl s) t0).frame.countEdges s⟩

end Sys2Proof.Machine
end

section
/-! PROOFS. One task, one lane and the two shadow halves: what they read after an update of one of them, and that they depend on their block alone. -/

namespace Sys2Proof.Machine

open Sys2Proof

theorem upTask_same (s : State) {k : Nat} (h : k < 32) (f : TaskSt → TaskSt) : (s.upTask k f).task k = f (s.task k) := vget_vup_same h _ _

theorem upTask_ne (s : State) {k j : Nat} (h : j ≠ k) (f : TaskSt → TaskSt) : (s.upTask k f).task j = s.task j := vget_vup_ne h _ _

/-- Where the task block is the same, so is every task. -/
theorem task_congr {s t : State} (h : t.tasks = s.tasks) (k : Nat) : t.task k = s.task k := by
  unfold State.task
  rw [h]

/-- Where the cluster is the same, so is every lane. -/
theorem lane_congr {s t : State} (h : t.clu = s.clu) (l : Nat) : t.lane l = s.lane l := by
  unfold State.lane
  rw [h]

@[simp] theorem upOpen_opened (s : State) (f : Half → Half) : (s.upOpen f).sto.opened = f s.sto.opened := by
  unfold State.upOpen Store.opened
  rw [State.upSto_sto]
  by_cases h : s.sto.openHalf = 0 <;> simp [h]

@[simp] theorem upOpen_lmem (s : State) (f : Half → Half) : (s.upOpen f).sto.lmem = s.sto.lmem := by
  unfold State.upOpen
  rw [State.upSto_sto]
  split <;> rfl

@[simp] theorem upOpen_tableReduced (s : State) (f : Half → Half) : (s.upOpen f).sto.tableReduced = s.sto.tableReduced := by
  unfold State.upOpen
  rw [State.upSto_sto]
  split <;> rfl

/-- An update of the other half is one of the two halves and leaves the open one. -/
theorem upOther_sto (s : State) (f : Half → Half) : ∃ a b, (s.upOther f).sto = { s.sto with half0 := a, half1 := b } ∧
    (s.upOther f).sto.opened = s.sto.opened ∧ (s.upOther f).sto.other = f s.sto.other := by
  unfold State.upOther Store.opened Store.other
  rw [State.upSto_sto]
  by_cases h : s.sto.openHalf = 0
  · exact ⟨s.sto.half0, f s.sto.half1, by simp [h], by simp [h], by simp [h]⟩
  · exact ⟨f s.sto.half0, s.sto.half1, by simp [h], by simp [h], by simp [h]⟩

end Sys2Proof.Machine
end

section
/-! PROOFS. The acts of a boundary (02 R39, R45, R50, R53, R55, R63, R66, R73): the close decision by its branches, a due task by its state, and a launch. -/

namespace Sys2Proof.Machine

open Sys2Proof

/-! ### The close decision (02 R53, R66, 07 R217) -/

/-- The stores as a close leaves them: counter, journal, the closed half, and the half that opens. -/
theorem Store.closeHalf_left (x : Store) (m : Milestone) (beat : Nat) (busy : Bool) :
    (x.closeHalf m beat busy).msCount = m.num ∧ (x.closeHalf m beat busy).journal = x.journal ++ [m] ∧ (x.closeHalf m beat busy).other.phase = .journal ∧
    (x.closeHalf m beat busy).opened = { Half.reset with phase := .openHalf, firstBeat := beat, kept := x.opened.kept, keptEdit := x.opened.keptEdit } := by
  unfold Store.closeHalf
  dsimp only
  split <;> exact ⟨rfl, rfl, rfl, rfl⟩

theorem closeHalf_snd (s : State) : s.closeHalf.2 = s.milestone := by
  unfold State.closeHalf
  dsimp only
  split <;> rfl

/-- What the partner is told of a close does not touch the stores. -/
theorem closeHalf_sto (s : State) : s.closeHalf.1.sto = s.sto.closeHalf s.milestone s.clk.beat s.hasPartner := by
  unfold State.closeHalf
  dsimp only
  split <;> rfl

/-- A new synchronisation ends the transfer of the other half and leaves the milestone counter. -/
theorem startSync_msCount (s : State) (r : Bool) : (s.startSync r).sto.msCount = s.sto.msCount := by
  obtain ⟨a, b, h, -⟩ := upOther_sto (s.upCsw (fun c => { c with sendMs := [], sending := none })) (fun h => { h with transfer := true })
  have hend : (s.startSync r).sto = s.endTransfers.sto := rfl
  rw [hend]
  unfold State.endTransfers
  rw [h]
  rfl

/-- The close decision: a close, a close after the partner's synchronisation starts again, or none, whose only trace in the stores is the merge counter. -/
theorem closeDecision_cases (s : State) :
    s.closeDecision = (s.closeHalf.1, some s.milestone) ∨
    s.mayClose = false ∧ s.closeDecision = ((s.startSync true).closeHalf.1, some (s.startSync true).milestone) ∨
    s.mayClose = false ∧ s.closeDecision.2 = none ∧ s.closeDecision.1.sto = { s.sto with mergeCount := sat32 s.sto.mergeCount } := by
  unfold State.closeDecision
  split
  · exact .inl (by rw [closeHalf_snd])
  · next hm =>
    replace hm : s.mayClose = false := by simpa using hm
    split
    · exact .inr (.inl ⟨hm, by dsimp only; rw [closeHalf_snd]⟩)
    · exact .inr (.inr ⟨hm, rfl, State.exeCause_sto ..⟩)

theorem closeDecision_mayClose {s : State} (h : s.mayClose = true) : s.closeDecision = (s.closeHalf.1, some s.milestone) := by
  obtain e | ⟨hn, -⟩ | ⟨hn, -⟩ := closeDecision_cases s
  · exact e
  all_goals rw [h] at hn; cases hn

/-- A milestone that closes carries the next number, and the counter takes it (02 R53). -/
theorem closeDecision_some {s : State} {m : Milestone} (h : s.closeDecision.2 = some m) : m.num = s.sto.msCount + 1 ∧ s.closeDecision.1.sto.msCount = s.sto.msCount + 1 := by
  have closed (u : State) (hu : u.sto.msCount = s.sto.msCount) (e : s.closeDecision = (u.closeHalf.1, some u.milestone)) :
      m.num = s.sto.msCount + 1 ∧ s.closeDecision.1.sto.msCount = s.sto.msCount + 1 := by
    rw [e] at h ⊢
    cases h
    have hnum : u.milestone.num = s.sto.msCount + 1 := congrArg (· + 1) hu
    exact ⟨hnum, by rw [closeHalf_sto, (Store.closeHalf_left ..).1, hnum]⟩
  obtain e | ⟨-, e⟩ | ⟨-, e, -⟩ := closeDecision_cases s
  · exact closed s rfl e
  · exact closed _ (startSync_msCount s true) e
  · rw [e] at h; cases h

theorem closeDecision_none {s : State} (h : s.closeDecision.2 = none) : s.closeDecision.1.sto = { s.sto with mergeCount := sat32 s.sto.mergeCount } := by
  obtain e | ⟨-, e⟩ | ⟨-, -, e⟩ := closeDecision_cases s
  · rw [e] at h; cases h
  · rw [e] at h; cases h
  · exact e

/-! ### Releases (02 R39, R63, R73) -/

section
variable {r : Released} {row : TaskRow}

theorem one_faulted (h : (r.state.task row.task).faulted = true) : r.one row = r := by
  unfold Released.one
  simp [h]

/-- A task still running is skipped as an overrun. -/
theorem one_running (hf : (r.state.task row.task).faulted = false) (hr : (r.state.task row.task).run.isSome = true) :
    r.one row = { r with state := (r.state.upTask row.task (fun x => { x with overrun := sat32 x.overrun, overrunNow := true })).taskCause row.task 1 0 0, skipped := r.skipped + 2 ^ row.task } := by
  unfold Released.one
  simp [hf, hr]

/-- A task that is free is released. -/
theorem one_free (hf : (r.state.task row.task).faulted = false) (hr : (r.state.task row.task).run = none) :
    r.one row = { r with state := r.state.releaseTask row, released := r.released + 2 ^ row.task } := by
  unfold Released.one
  simp [hf, hr]

/-- The queue and the waymarks of a release move no task. -/
theorem releaseTask_tasks (s : State) : (s.releaseTask row).tasks = (s.upTask row.task (fun x => { x with
    run := some (s.newRun row), firstNext := false, overrunNow := false
    pendingAt := if x.outRun then some s.clk.beat else x.pendingAt, outRun := false })).tasks := rfl

/-- What a release leaves: the new run in its task, the task in its lane set's queue, every other task as it was. -/
theorem releaseTask_left (s : State) (ht : row.task < 32) (hl : row.lset < 8) :
    ((s.releaseTask row).task row.task).run = some (s.newRun row) ∧ ((s.releaseTask row).task row.task).firstNext = false ∧
    vget (s.releaseTask row).clu.queues row.lset [] = vget s.clu.queues row.lset [] ++ [row.task] ∧
    ∀ j, j ≠ row.task → (s.releaseTask row).task j = s.task j := by
  refine ⟨?_, ?_, ?_, fun j hj => (task_congr (releaseTask_tasks s) j).trans (upTask_ne s hj _)⟩
  · rw [task_congr (releaseTask_tasks s), upTask_same s ht]
  · rw [task_congr (releaseTask_tasks s), upTask_same s ht]
  · show vget (vset s.clu.queues row.lset (vget s.clu.queues row.lset [] ++ [row.task])) row.lset [] = _
    rw [vget_vset, if_pos ⟨rfl, hl⟩]

end

/-! ### Launches (02 R49, R50) -/

/-- A launch writes the output set into the launched outputs and takes the task off those that wait; what the CAN ports and the drivers take of it touches neither. -/
theorem launchTask_left (s : State) {k : Nat} (hk : k < 32) :
    ((s.launchTask k).task k).pendingAt = none ∧ (s.launchTask k).sto.launched = (s.task k).outs.apply s.sto.launched ∧ ∀ j, j ≠ k → (s.launchTask k).task j = s.task j := by
  obtain ⟨u, hu⟩ : ∃ u : State, u = (s.launchLocal (s.task k).outs).upTask k (fun x => { x with pendingAt := none, faultSafe := x.faultSafe && x.faulted }) := ⟨_, rfl⟩
  have hkeep : Keep { csw := true, can := true, evr := true } u (s.launchTask k) := by
    unfold State.launchTask
    dsimp only
    rw [← hu]
    split
    · exact Keep.ite ((State.canTake_keep (Keep.refl u) _).upCsw _) (State.canTake_keep (Keep.refl u) _)
    · exact Keep.ite ((Keep.refl u).upCsw _) (Keep.refl u)
  have htask := task_congr (hkeep.frame.tasks rfl)
  refine ⟨?_, ?_, fun j hj => ?_⟩
  · rw [htask, hu, upTask_same _ hk]
  · rw [hkeep.frame.sto rfl, hu]
    rfl
  · rw [htask, hu, upTask_ne _ hj]
    rfl

/-- Settles O2: the close decision by its branches, a due task by its state, and a launch. -/
theorem theActsOfABoundary : Obligations.TheActsOfABoundary := by
  intro s m r row k hk ht hl
  refine ⟨closeDecision_some, closeDecision_none, fun h => ?_, one_faulted, fun hf hr => ?_, fun hf hr => ?_, launchTask_left s hk⟩
  · rw [closeDecision_mayClose h, closeHalf_sto]
    obtain ⟨-, hjournal, hother, hopened⟩ := s.sto.closeHalf_left s.milestone s.clk.beat s.hasPartner
    exact ⟨rfl, hjournal, hother, hopened⟩
  · rw [one_running hf hr, task_congr (State.taskCause_tasks ..), upTask_same _ ht]
    exact ⟨rfl, rfl, rfl, rfl⟩
  · rw [one_free hf hr]
    obtain ⟨hrun, hfirst, hqueue, hothers⟩ := releaseTask_left r.state ht hl
    exact ⟨_, hrun, rfl, rfl, rfl, rfl, rfl, hfirst, hqueue, rfl, rfl, hothers⟩

end Sys2Proof.Machine
end

section
/-! PROOFS. Run completions, durable milestones, settling and cleared faults (02 R41, R46, R49, R53, R54, R56, R57, R64, 03 R109). -/

namespace Sys2Proof.Machine

open Sys2Proof

variable {s : State}

/-! ### The lanes of a set whose run has ended (02 R41, 05 R163) -/

/-- With no write-back left to land, landing those of a set changes nothing. -/
theorem landSet_nil {n : Nat} (h : ∀ j, j ∈ s.setLanes n → (s.lane j).wb = []) : s.landSet n = s := by
  have key : ∀ l : List Nat, (∀ j, j ∈ l → (s.lane j).wb = []) → l.foldl (fun acc l => acc.landWbs l ((acc.lane l).endCyc) (acc.lane l).wb.length) s = s := by
    intro l
    induction l with
    | nil => exact fun _ => rfl
    | cons j l ih =>
      intro hl
      rw [List.foldl_cons, landWbs_nil (hl j (List.mem_cons_self ..))]
      exact ih fun i hi => hl i (List.mem_cons_of_mem _ hi)
  exact key _ h

/-- The lanes of a set are free for the next run and keep their scratch; every other lane stays. -/
theorem freeLanes_left {n : Nat} (hn : n < if s.clu.single then 8 else 4) :
    (∀ j, j ∈ s.setLanes n → ((s.freeLanes n).lane j).task = none ∧ ((s.freeLanes n).lane j).scratch = (s.lane j).scratch) ∧
    ∀ j, j ∉ s.setLanes n → (s.freeLanes n).lane j = s.lane j := by
  unfold State.freeLanes State.setLanes State.paired
  cases hs : s.clu.single with
  | true =>
    rw [hs, if_pos rfl] at hn
    simp only [Bool.not_true, Bool.false_eq_true, if_false, List.foldl_cons, List.foldl_nil, List.mem_singleton, forall_eq]
    refine ⟨?_, fun j hj => upLane_ne s hj _⟩
    rw [upLane_same s hn]
    exact ⟨rfl, rfl⟩
  | false =>
    rw [hs, if_neg (by decide)] at hn
    have h0 : 2 * n < 8 := by omega
    have h1 : 2 * n + 1 < 8 := by omega
    simp only [Bool.not_false, if_true, List.foldl_cons, List.foldl_nil, List.mem_cons, List.not_mem_nil, or_false, not_or, forall_eq_or_imp, forall_eq]
    refine ⟨⟨?_, ?_⟩, fun j ⟨hj0, hj1⟩ => ?_⟩
    · rw [upLane_ne _ (by omega), upLane_same _ h0]
      exact ⟨rfl, rfl⟩
    · rw [upLane_same _ h1, upLane_ne _ (by omega)]
      exact ⟨rfl, rfl⟩
    · rw [upLane_ne _ hj1, upLane_ne _ hj0]

/-! ### The run enters memory and the open half (02 R46, R49, R54) -/

/-- An output set depends on the image and the table in force alone. -/
theorem outsOf_congr {t : State} (hl : t.ldr = s.ldr) (hr : t.sto.tableReduced = s.sto.tableReduced) (k : Nat) (m : Mem) : t.outsOf k m = s.outsOf k m := by
  unfold State.outsOf State.row
  rw [hl, hr]

/-- What a completed run leaves in the stores and in its task; every other task stays. -/
theorem completeRun_left {k : Nat} (hk : k < 32) (m : Nat) (run : Run) :
    (s.completeRun k m run).sto.lmem = run.writes.apply s.sto.lmem ∧ (s.completeRun k m run).sto.opened.net = Ov.over s.sto.opened.net run.writes ∧
    (s.completeRun k m run).task k = { s.task k with
      run := none, completed := true, lastRel := run.rel, overrunNow := false, pendingAt := some m, outs := s.outsOf k (run.writes.apply s.sto.lmem), outRun := false } ∧
    ∀ j, j ≠ k → (s.completeRun k m run).task j = s.task j := by
  obtain ⟨u, hu⟩ : ∃ u : State, u = (s.upOpen (fun h => { h with kept := keepFor h.kept h.keptEdit (s.otherRuns k) (Ov.entries run.writes) })).forgetRun k := ⟨_, rfl⟩
  obtain ⟨v, hv⟩ : ∃ v : State, v = (u.upSto (fun x => { x with lmem := run.writes.apply s.sto.lmem })).upOpen (fun h =>
    { h with net := Ov.over h.net run.writes, done := mergeDone h.done k run.writes }) := ⟨_, rfl⟩
  have e : s.completeRun k m run = v.upTask k (fun x => { x with
      completed := true, lastRel := run.rel, overrunNow := false, pendingAt := some m, outs := v.outsOf k (run.writes.apply s.sto.lmem), outRun := false }) := by
    rw [hv, hu]
    rfl
  have hnet : u.sto.opened.net = s.sto.opened.net := by
    rw [hu]
    unfold State.forgetRun
    rw [upOpen_opened, State.upTask_sto, upOpen_opened]
  have htable : v.sto.tableReduced = s.sto.tableReduced := by
    rw [hv, upOpen_tableReduced, State.upSto_sto]
    show u.sto.tableReduced = _
    rw [hu]
    unfold State.forgetRun
    rw [upOpen_tableReduced, State.upTask_sto, upOpen_tableReduced]
  have hldr : v.ldr = s.ldr := by rw [hv, hu]; rfl
  have htasks : v.tasks = (s.upTask k (fun x => { x with run := none })).tasks := by rw [hv, hu]; rfl
  rw [e, ← outsOf_congr hldr htable]
  refine ⟨?_, ?_, ?_, fun j hj => ?_⟩
  · rw [State.upTask_sto, hv, upOpen_lmem, State.upSto_sto]
  · rw [State.upTask_sto, hv, upOpen_opened]
    exact congrArg (Ov.over · run.writes) hnet
  · rw [upTask_same v hk, task_congr htasks, upTask_same s hk]
  · rw [upTask_ne v hj, task_congr htasks, upTask_ne s hj]

/-- After a run has entered memory its completion changes of the tasks only the duration and the count of late runs of its own, and none of the stores and lanes. -/
theorem finishRun_left {n k c : Nat} {run : Run} {row : TaskRow} {a : State} (hk : k < 32) (hfull : (s.freeLanes n).keptFull k run = none)
    (ha : a = (s.freeLanes n).completeRun k (row.nextDue s.clk.beat) run) :
    Frame { clk := true, tasks := true, csw := true, net := true, host := true, evr := true, trc := true } a (s.finishRun n k c run row) ∧
    (∃ p q, (s.finishRun n k c run row).task k = { a.task k with lastRunTime := p, late := q }) ∧
    ∀ j, j ≠ k → (s.finishRun n k c run row).task j = a.task j := by
  obtain ⟨late, hlate⟩ : ∃ late, late = decide (s.boundaryCyc + (row.nextDue s.clk.beat - s.clk.beat) * s.beatCycles < c + s.clk.lead * 500) := ⟨_, rfl⟩
  obtain ⟨u, hu⟩ : ∃ u : State, u = a.upTask k (fun x => { x with lastRunTime := 2 * (c + 1 - (s.lane (s.lastLane n)).firstReady) }) := ⟨_, rfl⟩
  obtain ⟨v, hv⟩ : ∃ v : State, v = if late then (u.upTask k (fun x => { x with late := sat32 x.late })).taskCause k 2 0 0 else u := ⟨_, rfl⟩
  have hav : Keep { tasks := true, host := true, evr := true } a v := by
    have hau : Keep { tasks := true, host := true, evr := true } a u := hu ▸ State.upTask_keep (Keep.refl a) _ _
    rw [hv]
    exact Keep.ite (State.taskCause_keep (State.upTask_keep hau _ _) _ _ _ _) hau
  have hvt : Keep { clk := true, csw := true, net := true, evr := true, trc := true } v (s.finishRun n k c run row) := by
    unfold State.finishRun
    simp only [hfull, ← ha, ← hlate, ← hu, ← hv]
    exact Keep.ite (State.drain_keep (State.taskFrames_keep (State.noteRun_keep (Keep.ite ((Keep.refl v).upCsw _) (Keep.refl v)) _ _ _ _ _ _) _ _ _))
      (State.noteRun_keep (Keep.ite ((Keep.refl v).upCsw _) (Keep.refl v)) _ _ _ _ _ _)
  have hvk : (∃ q, v.task k = { u.task k with late := q }) ∧ ∀ j, j ≠ k → v.task j = u.task j := by
    rw [hv]
    cases late with
    | true => exact ⟨⟨_, (task_congr (State.taskCause_tasks ..) k).trans (upTask_same u hk _)⟩, fun j hj => (task_congr (State.taskCause_tasks ..) j).trans (upTask_ne u hj _)⟩
    | false => exact ⟨⟨(u.task k).late, rfl⟩, fun _ _ => rfl⟩
  obtain ⟨⟨q, hq⟩, hothers⟩ := hvk
  have htask := task_congr (hvt.frame.tasks rfl)
  refine ⟨hav.frame.comp hvt.frame rfl rfl, ⟨2 * (c + 1 - (s.lane (s.lastLane n)).firstReady), q, ?_⟩, fun j hj => ?_⟩
  · rw [htask, hq, hu, upTask_same a hk]
  · rw [htask, hothers j hj, hu, upTask_ne a hj]

/-! ### RUN_COMPLETION (02 R41) -/

/-- The run `run` of task `k` has ended in the lanes of set `n` of an executing unit, within the present beat, with nothing left to land or to compare; `d` is its leading lane. -/
structure RunEnded (s : State) (n d k : Nat) (run : Run) (row : TaskRow) : Prop where
  executes : s.executes = true
  lead : d = (s.setLanes n).head?.getD 0
  lanes : ∀ j, j ∈ s.setLanes n → (s.lane j).finished = true ∧ (s.lane j).wb = []
  inBeat : (s.lane (s.lastLane n)).endCyc < s.boundaryCyc + s.beatCycles
  met : s.clu.single = false → (s.lane d).endCyc + 1 = (s.lane (s.lastLane n)).endCyc ∧ ∀ wb, s.missedRec (s.lastLane n) ((s.lane (s.lastLane n)).endCyc + 2) wb = none
  task : (s.lane d).task = some k
  run : (s.task k).run = some run
  row : s.row k = some row

/-- A run that has so ended is completed. -/
theorem RunEnded.complete_eq {n d k : Nat} {run : Run} {row : TaskRow} (h : RunEnded s n d k run row) :
    s.complete n = s.finishRun n k (s.lane (s.lastLane n)).endCyc run row := by
  have hgoing : s.clu.stopped = false := by
    have hx := h.executes
    unfold State.executes at hx
    simp only [Bool.and_eq_true, Bool.not_eq_true'] at hx
    exact hx.2
  have hall : (s.setLanes n).all (fun l => (s.lane l).finished) = true := List.all_eq_true.mpr fun j hj => (h.lanes j hj).1
  have hbeat : decide (s.boundaryCyc + s.beatCycles ≤ (s.lane (s.lastLane n)).endCyc) = false := decide_eq_false (Nat.not_le.mpr h.inBeat)
  have hcmp : (s.paired && decide ((s.lane d).endCyc + 1 ≠ (s.lane (s.lastLane n)).endCyc)) = false := by
    cases hs : s.clu.single with
    | true => simp [State.paired, hs]
    | false => simp [State.paired, hs, (h.met hs).1]
  have hmissed : (if s.paired then (s.missedRec (s.lastLane n) ((s.lane (s.lastLane n)).endCyc + 2) false).or (s.missedRec (s.lastLane n) ((s.lane (s.lastLane n)).endCyc + 2) true)
      else none) = none := by
    cases hs : s.clu.single with
    | true => simp [State.paired, hs]
    | false => simp [State.paired, hs, (h.met hs).2]
  unfold State.complete
  simp only [h.executes, hall, landSet_nil (fun j hj => (h.lanes j hj).2), hgoing, hbeat, ← h.lead, hcmp, hmissed, h.task, h.run, h.row]
  rfl

/-- Time that passes moves nothing that says whether a run has ended. -/
theorem RunEnded.reach {n d k : Nat} {run : Run} {row : TaskRow} (h : RunEnded s n d k run row) (t : Nat) : RunEnded (s.reach t) n d k run row :=
  ⟨h.executes, h.lead, h.lanes, h.inBeat, h.met, h.task, h.run, h.row⟩

/-- What the completion of a run that has ended leaves. -/
theorem RunEnded.completes {n d k : Nat} {run : Run} {row : TaskRow} (h : RunEnded s n d k run row) (hk : k < 32) (hn : n < if s.clu.single then 8 else 4)
    (hfull : (s.freeLanes n).keptFull k run = none) :
    (s.complete n).sto.lmem = run.writes.apply s.sto.lmem ∧ (s.complete n).sto.opened.net = Ov.over s.sto.opened.net run.writes ∧
    (∃ p q, (s.complete n).task k = { s.task k with
      run := none, completed := true, lastRel := run.rel, overrunNow := false, pendingAt := some (row.nextDue s.clk.beat), outs := s.outsOf k (run.writes.apply s.sto.lmem),
      outRun := false, lastRunTime := p, late := q }) ∧
    (∀ j, j ≠ k → (s.complete n).task j = s.task j) ∧
    (∀ j, j ∈ s.setLanes n → ((s.complete n).lane j).task = none ∧ ((s.complete n).lane j).scratch = (s.lane j).scratch) ∧
    (∀ j, j ∉ s.setLanes n → (s.complete n).lane j = s.lane j) ∧
    Frame { clk := true, clu := true, tasks := true, sto := true, csw := true, net := true, host := true, evr := true, trc := true } s (s.complete n) := by
  obtain ⟨b, hb⟩ : ∃ b : State, b = s.freeLanes n := ⟨_, rfl⟩
  obtain ⟨a, ha⟩ : ∃ a : State, a = b.completeRun k (row.nextDue s.clk.beat) run := ⟨_, rfl⟩
  have hfree : Keep { clu := true } s b := hb ▸ State.freeLanes_keep (Keep.refl s) n
  have hfreeTask := task_congr (hfree.frame.tasks rfl)
  obtain ⟨hin, hout⟩ := freeLanes_left hn
  obtain ⟨hlmem, hnet, htask, hothers⟩ := completeRun_left (s := b) hk (row.nextDue s.clk.beat) run
  obtain ⟨hframe, ⟨p, q, hend⟩, hends⟩ := finishRun_left (c := (s.lane (s.lastLane n)).endCyc) hk hfull (hb ▸ ha)
  have hrun : Keep { tasks := true, sto := true } b a := ha ▸ State.completeRun_keep (Keep.refl b) _ _ _
  have hclu := lane_congr ((hframe.clu rfl).trans ((hrun.frame.clu rfl).trans (congrArg State.clu hb)))
  have hsto : b.sto = s.sto := hfree.frame.sto rfl
  rw [← ha] at hlmem hnet htask hothers
  rw [hsto] at hlmem hnet htask
  rw [outsOf_congr (hfree.frame.ldr rfl) (congrArg Store.tableReduced hsto), hfreeTask] at htask
  rw [h.complete_eq, hframe.sto rfl]
  refine ⟨hlmem, hnet, ⟨p, q, by rw [hend, htask]⟩, fun j hj => by rw [hends j hj, hothers j hj, hfreeTask], fun j hj => ?_, fun j hj => by rw [hclu, hout j hj], ?_⟩
  · rw [hclu]
    exact hin j hj
  · exact (hfree.frame.comp hrun.frame (N := { clu := true, tasks := true, sto := true }) rfl rfl).comp hframe rfl rfl

/-! ### MILESTONE_DURABLE, SETTLE_DONE and FAULT_CLEAR (02 R56, R57, 03 R109) -/

/-- The oldest milestone of the journal becomes durable: its entries and number, and its place among those that settle. -/
theorem headDurable_sto {m : Milestone} {js : List Milestone} (h : s.sto.journal = m :: js) :
    s.headDurable.sto.journal = js ∧ s.headDurable.sto.settling = s.sto.settling ++ [m] ∧ s.headDurable.sto.msDurable = m.num ∧
    s.headDurable.sto.durable = m.net.apply s.sto.durable ∧ s.headDurable.sto.warm = true ∧ s.headDurable.sto.lmem = s.sto.lmem ∧ s.headDurable.sto.opened = s.sto.opened := by
  unfold State.headDurable
  rw [h]
  dsimp only
  split
  · obtain ⟨a, b, hsto, hopen, -⟩ := upOther_sto ((s.upSto (fun x => { x with
      journal := js, settling := x.settling ++ [m], durable := m.net.apply x.durable, msDurable := m.num, durHdr := some m
      warm := true, appliedDur := m.edits.foldl (fun l b => putApplied b.client b.id l) x.appliedDur })).upEvr (fun e => m.snaps.foldl Evr.completeSnap e)) (fun h => { h with phase := .settle })
    rw [hopen, hsto]
    exact ⟨rfl, rfl, rfl, rfl, rfl, rfl, rfl⟩
  · exact ⟨rfl, rfl, rfl, rfl, rfl, rfl, rfl⟩

theorem durableNow_idle (h : s.sto.journal = []) : s.durableNow = s := by
  unfold State.durableNow
  rw [h]
  rfl

/-- The answers to batches that follow leave what the milestone made durable. -/
theorem durableNow_sto {m : Milestone} {js : List Milestone} (h : s.sto.journal = m :: js) :
    s.durableNow.sto.journal = js ∧ s.durableNow.sto.settling = s.sto.settling ++ [m] ∧ s.durableNow.sto.msDurable = m.num ∧
    s.durableNow.sto.durable = m.net.apply s.sto.durable ∧ s.durableNow.sto.warm = true ∧ s.durableNow.sto.lmem = s.sto.lmem ∧ s.durableNow.sto.opened = s.sto.opened := by
  obtain ⟨l, o, e⟩ := reportBatches_sto s.headDurable
  have hnow : s.durableNow = s.headDurable.reportBatches := by
    unfold State.durableNow
    rw [h]
    rfl
  rw [hnow, e]
  exact headDurable_sto h

/-- The state after the oldest settling milestone is off. -/
def State.settled (s : State) (js : List Milestone) : State :=
  if js.isEmpty ∧ s.sto.journal.isEmpty ∧ s.sto.other.phase = .settle then (s.upSto (fun x => { x with settling := js })).upOther (fun h => { h with phase := .free })
  else s.upSto (fun x => { x with settling := js })

theorem exec_settleDone {m : Milestone} {js : List Milestone} (h : s.sto.settling = m :: js) (t : Nat) : exec (.settleDone t) s = .next (countEdges s ((s.reach t).settled js)) := by
  show execSettleDone t s = _
  unfold execSettleDone
  rw [h]
  rfl

theorem settled_left (s : State) (js : List Milestone) :
    (s.settled js).sto.settling = js ∧ (s.settled js).sto.opened = s.sto.opened ∧ (s.settled js).sto.msDurable = s.sto.msDurable ∧
    (js = [] → s.sto.journal = [] → s.sto.other.phase = .settle → (s.settled js).sto.other.phase = .free) ∧
    (js ≠ [] ∨ s.sto.journal ≠ [] ∨ s.sto.other.phase ≠ .settle → (s.settled js).sto.other = s.sto.other) := by
  unfold State.settled
  split
  · next hc =>
    obtain ⟨hjs, hjournal, hphase⟩ := hc
    rw [List.isEmpty_iff] at hjs hjournal
    obtain ⟨a, b, hsto, hopen, hother⟩ := upOther_sto (s.upSto (fun x => { x with settling := js })) (fun h => { h with phase := .free })
    rw [hopen, hother, hsto]
    exact ⟨rfl, rfl, rfl, fun _ _ _ => rfl, fun hn => by simp [hjs, hjournal, hphase] at hn⟩
  · next hc =>
    exact ⟨rfl, rfl, rfl, fun hjs hjournal hphase => absurd ⟨by simp [hjs], by simp [hjournal], hphase⟩ hc, fun _ => rfl⟩

theorem clearFault_eq {k : Nat} (h : (s.task k).faulted = true) :
    s.clearFault k = s.upTask k (fun x => { x with faulted := false, faultCause := 0, faultBundle := 0, firstNext := true }) := if_pos h

theorem clearFault_idle {k : Nat} (h : (s.task k).faulted = false) : s.clearFault k = s := if_neg (by rw [h]; decide)

/-- Settles O3: each command's effect by the lemma about it, time passing first. -/
theorem runsCompleteAndMilestonesSettle : Obligations.RunsCompleteAndMilestonesSettle := by
  intro s n k t0 d run row a m js hk hn
  refine ⟨fun hx hd hl hc hm ht hr hw _ hfull => ?_, fun h => ?_, fun h => ?_, fun h => ?_, fun h => ?_, fun h => ?_⟩
  · have hended : RunEnded (s.reach t0) n d k run row := RunEnded.reach ⟨hx, hd, hl, hc, hm, ht, hr, hw⟩ t0
    obtain ⟨hlmem, hnet, ⟨p, q, htask⟩, hothers, hin, hout, hframe⟩ := hended.completes hk hn hfull
    have htask' : (countEdges s ((s.reach t0).complete n)).task k = _ := htask
    refine ⟨_, commit_eq .., hlmem, hnet, ?_⟩
    rw [htask']
    exact ⟨rfl, rfl, rfl, rfl, rfl, hothers, hin, hout,
      ((State.reach_keep (Keep.refl s) t0).frame.comp hframe (L := { clk := true }) rfl rfl).countEdges s⟩
  · obtain ⟨hjournal, hsettling, hdurable, hmem, hwarm, hlmem, hopened⟩ := durableNow_sto (s := s.reach t0) h
    exact ⟨_, commit_eq .., hjournal, hsettling, hdurable, hmem, hwarm, hlmem, hopened, (execMilestoneDurable_keep t0 (commit_eq ..)).frame⟩
  · refine ⟨_, commit_eq .., ?_⟩
    rw [durableNow_idle (s := s.reach t0) h]
    exact ⟨rfl, (State.reach_keep (Keep.refl s) t0).frame.countEdges s⟩
  · obtain ⟨hsettling, hopened, hdurable, hfree, hkept⟩ := settled_left (s.reach t0) js
    exact ⟨_, exec_settleDone h t0, hsettling, hopened, hdurable, hfree, hkept, (execSettleDone_keep t0 (exec_settleDone h t0)).frame⟩
  · refine ⟨_, commit_eq .., ?_⟩
    rw [clearFault_eq h]
    exact ⟨upTask_same s hk _, fun j hj => upTask_ne s hj _, (State.upTask_keep (Keep.refl s) _ _).frame.countEdges s⟩
  · show commit s (s.clearFault k) = _
    rw [clearFault_idle h, commit_self]

end Sys2Proof.Machine
end

section
/-! PROOFS. The banks of shared-store accesses (03 R96, R100). -/

namespace Sys2Proof.Machine

open Sys2Proof

theorem field_eq_div_mod (x hi lo : Nat) : field x hi lo = x / 2 ^ lo % 2 ^ (hi + 1 - lo) := by
  unfold field
  rw [Nat.shiftRight_eq_div_pow]

variable {r : Reg} {ext : Option Nat} {w : Word}

theorem sylBanks_imageOp (h : isImageOp w = true) : sylBanks r ext w = [imageX r ext w / 128 % 16] := by
  unfold sylBanks
  rw [if_pos h, field_eq_div_mod]
  rfl

theorem sylBanks_record (hi : isImageOp w = false) (h : isRecord w = true) : sylBanks r ext w = [(r.getA (sylMod w)).toNat / 16 % 16] := by
  unfold sylBanks
  rw [if_neg (by simp [hi]), if_pos h, bankOf]

theorem sylBanks_longL (hi : isImageOp w = false) (hr : isRecord w = false) (hu : sylU w = 6) (hp : sylP w = false) (ho : sylOpc w ≤ 0x17) :
    sylBanks r ext w = if isShared (longLAddr r ext w) then [longLAddr r ext w / 16 % 16] else [] := by
  simp [sylBanks, hi, hr, hu, hp, ho, bankOf]

/-- A pair of the L unit claims a bank for each of its two operations that addresses a shared store. -/
theorem mem_sylBanks_shortL (hi : isImageOp w = false) (hr : isRecord w = false) (hu : sylU w = 6) (hp : sylP w = true) (b : Nat) :
    b ∈ sylBanks r ext w ↔ ∃ op a, op < 2 ∧ shortLAddr r (sylShort w op) = some a ∧ isShared a = true ∧ b = a / 16 % 16 := by
  unfold sylBanks
  rw [if_neg (by simp [hi]), if_neg (by simp [hr]), if_pos hu, if_pos hp, List.mem_flatMap]
  constructor
  · rintro ⟨op, hop, hb⟩
    split at hb
    · next a ha =>
      split at hb
      · next hs => exact ⟨op, a, by simp at hop; omega, ha, hs, List.mem_singleton.mp hb⟩
      · cases hb
    · cases hb
  · rintro ⟨op, a, hop, ha, hs, rfl⟩
    refine ⟨op, by simp; omega, ?_⟩
    simp [ha, hs, bankOf]

theorem sylBanks_other (hi : isImageOp w = false) (hr : isRecord w = false) (h : sylU w ≠ 6 ∨ sylP w = false ∧ 0x17 < sylOpc w) : sylBanks r ext w = [] := by
  unfold sylBanks
  rw [if_neg (by simp [hi]), if_neg (by simp [hr])]
  split
  · next hu =>
    obtain ⟨hp, ho⟩ := h.resolve_left (absurd hu)
    rw [if_neg (by simp [hp]), if_neg (Nat.not_le.mpr ho)]
  · rfl

/-- Settles O60: one lemma for each kind of syllable. -/
theorem banksOfSharedAccesses : Obligations.BanksOfSharedAccesses :=
  fun _ _ _ => ⟨sylBanks_imageOp, sylBanks_record, sylBanks_longL, mem_sylBanks_shortL, sylBanks_other⟩

end Sys2Proof.Machine
end

section
/-! PROOFS. Results in flight and the landing of those of one issue (03 R91, R94). -/

namespace Sys2Proof.Machine

open Sys2Proof

/-- The results `ds` that the operation of unit `u` issued in cycle `c` lands `lat` cycles later. -/
def resultsOf (c u lat : Nat) (ds : List Dest) : List Landing := ds.map (fun d => { cyc := c + lat, issued := c, unit := u, op := 0, dest := d })

variable {c u lat n : Nat} {ds : List Dest} {r : Reg}

theorem addLanding_last {x : Landing} {l : List Landing} (h : ∀ y ∈ l, y.before x = true) : addLanding x l = l ++ [x] := by
  induction l with
  | nil => rfl
  | cons y l ih =>
    rw [addLanding, if_pos (h y (List.mem_cons_self ..)), ih fun z hz => h z (List.mem_cons_of_mem _ hz)]
    rfl

/-- Results put in landing order keep their order. -/
theorem foldl_addLanding {l acc : List Landing} (h : (acc ++ l).Pairwise (fun x y => x.before y = true)) :
    l.foldl (fun acc x => addLanding x acc) acc = acc ++ l := by
  induction l generalizing acc with
  | nil => rw [List.append_nil]; rfl
  | cons x l ih =>
    have hx : ∀ y ∈ acc, y.before x = true := fun y hy => (List.pairwise_append.mp h).2.2 y hy x (List.mem_cons_self ..)
    rw [List.foldl_cons, addLanding_last hx, ih (by rwa [List.append_assoc]), List.append_assoc]
    rfl

/-- The results of one operation land in the order in which it gives them. -/
theorem resultsOf_pairwise : (resultsOf c u lat ds).Pairwise (fun x y => x.before y = true) := by
  unfold resultsOf
  rw [List.pairwise_map]
  exact List.pairwise_of_forall_mem_list fun _ _ _ _ => by simp [Landing.before]

theorem landThrough_early (h : n < c + lat) : (landThrough n (resultsOf c u lat ds) r).1 = r := by
  cases ds with
  | nil => rfl
  | cons d ds =>
    show (landThrough n (_ :: resultsOf c u lat ds) r).1 = r
    rw [landThrough, if_neg (Nat.not_le.mpr h)]

theorem landThrough_due : (landThrough (c + lat) (resultsOf c u lat ds) r).1 = ds.foldl Reg.land r := by
  induction ds generalizing r with
  | nil => rfl
  | cons d ds ih =>
    show (landThrough (c + lat) (_ :: resultsOf c u lat ds) r).1 = _
    rw [landThrough, if_pos (Nat.le_refl _), ih]
    rfl

/-- The last cycle of a lane after results of one operation. -/
theorem foldl_max_resultsOf (h : ds ≠ []) (m : Nat) : (resultsOf c u lat ds).foldl (fun n x => max n x.cyc) m = max m (c + lat) := by
  have key : ∀ (l : List Dest) (m : Nat), c + lat ≤ m → (resultsOf c u lat l).foldl (fun n x => max n x.cyc) m = m := by
    intro l
    induction l with
    | nil => exact fun _ _ => rfl
    | cons d l ih =>
      intro m hm
      show (resultsOf c u lat l).foldl (fun n x => max n x.cyc) (max m (c + lat)) = m
      rw [Nat.max_eq_left hm, ih m hm]
  obtain ⟨d, l, rfl⟩ := List.exists_cons_of_ne_nil h
  exact key l _ (Nat.le_max_right ..)

/-- A lane with nothing in flight takes the results of one operation. -/
theorem addFlight_results {ln : Lane} (hi : ln.inflight = []) (hw : ln.wb = []) (h : ds ≠ []) (m : Nat) :
    ln.addFlight m (resultsOf c u lat ds) [] = { ln with inflight := resultsOf c u lat ds, endCyc := max (max m ln.endCyc) (c + lat) } := by
  unfold Lane.addFlight
  have hl : (resultsOf c u lat ds).foldl (fun acc x => addLanding x acc) [] = resultsOf c u lat ds := foldl_addLanding resultsOf_pairwise
  simp only [hi, hw, hl, foldl_max_resultsOf h, List.foldl_nil, List.append_nil]

end Sys2Proof.Machine
end

section
/-! PROOFS. A command whose whole effect is one lane. -/

namespace Sys2Proof.Machine

open Sys2Proof

/-- A command that updates one lane leaves that lane updated, every other lane and the rest of the machine as they were. -/
theorem commit_upLane (s : State) {l : Nat} (hl : l < 8) (k : Lane → Lane) :
    ∃ t, commit s (s.upLane l k) = .next t ∧ t.lane l = k (s.lane l) ∧ (∀ j, j ≠ l → t.lane j = s.lane j) ∧ Frame { clu := true } s t :=
  ⟨_, commit_eq .., upLane_same s hl k, fun _ hj => upLane_ne s hj k, (State.upLane_keep (Keep.refl s) _ _).frame.countEdges s⟩

end Sys2Proof.Machine
end

section
/-! PROOFS. The issue of one legal syllable by a lane by itself (03 R91, R105 to R107). -/

namespace Sys2Proof.Machine

open Sys2Proof

/-- What a syllable does stays in its lane: results in flight, scratch stores, a transfer, the end of the run. -/
structure Eff.Local (f : Eff) : Prop where
  faults : f.faults = []
  stores : f.stores = []
  checkins : f.checkins = []
  xw : f.xw = []
  str : f.str = none
  wbs : f.wbs = []

/-- The next word of lane `l` is the long syllable `w`, and it alone is the bundle. -/
structure NextSyllable (s : State) (l : Nat) (w : Word) : Prop where
  inStore : (s.lane l).pc + 4 ≤ programSize
  word : memWord s.sto.program (s.lane l).pc = w
  last : sylS w = true
  long : sylP w = false
  unit : sylU w ≠ 7

/-- A lane with nothing in flight after it has issued a syllable of local effect. -/
def Lane.issued (ln : Lane) (f : Eff) : Lane :=
  { ln with
    pc := ln.pc + 4, ready := ln.ready + 1, inflight := f.lands, scratch := f.scratch.foldl (fun m x => memWrite m x.1 x.2) ln.scratch
    xfer := f.xfer, ended := f.ended, endCyc := f.lands.foldl (fun n x => max n x.cyc) (max ln.ready ln.endCyc) }

variable {s : State} {l k : Nat} {run : Run} {w : Word}

/-- The environment in which the next syllable of a lane by itself executes. -/
def State.envAlone (s : State) (l k : Nat) (run : Run) : Env := s.env l k (s.lane l).ready run (s.lane l).regs none

/-- The next syllable of a lane by itself is legal, no string operation, and accesses no shared store. -/
structure Issues (s : State) (l k : Nat) (run : Run) (w : Word) : Prop where
  alone : s.Alone l k run
  rep : (s.lane l).rep = none
  next : NextSyllable s l w
  legal : sylCauses none w = []
  noString : isString w = false
  noBank : sylBanks (s.lane l).regs none w = []

/-- The syllable executes in the environment of its lane, and the lane takes what it does. -/
theorem Issues.leaves (h : Issues s l k run w) {f : Eff} (hf : execSyl (Eff.start []) (s.envAlone l k run) w = f) (hl : f.Local)
    (ho : f.lands.Pairwise (fun x y => x.before y = true)) :
    ∃ t, exec (.bundleIssue l [] .none) s = .next t ∧ t.lane l = (s.lane l).issued f ∧ (∀ j, j ≠ l → t.lane j = s.lane j) ∧ Frame { clu := true } s t := by
  obtain ⟨halone, hrep, ⟨hin, hword, hlast, -, hunit⟩, hlegal, hstring, hbank⟩ := h
  obtain ⟨hfaults, hstores, hchk, hxw, hstr, hwbs⟩ := hl
  obtain ⟨t, ht, hlane, hothers, hframe⟩ := commit_upLane s halone.lane (fun ln => { (ln.addFlight (s.lane l).ready f.lands f.wbs) with
      scratch := f.scratch.foldl (fun m x => memWrite m x.1 x.2) ln.scratch, ended := ln.ended || f.ended
      pc := ln.pc + 4, rep := none, xfer := f.xfer, ready := (s.lane l).ready + 1 })
  rw [← issue_one halone hrep hin hword hlast hunit hlegal hstring hbank hf.symm hfaults hstores hchk hxw hstr] at ht
  refine ⟨t, ht, ?_, hothers, hframe⟩
  rw [hlane]
  unfold Lane.addFlight Lane.issued
  simp only [halone.inflight, halone.wb, halone.ended, hrep, hwbs, foldl_addLanding (acc := []) ho, Bool.false_or, List.foldl_nil, List.nil_append]

end Sys2Proof.Machine
end

section
/-! PROOFS. What single syllables do (04 R129, R130, 05 R147, R152, R157, R158): an operation of A0, a load and a store of scratch, a branch, the end of a run. -/

namespace Sys2Proof.Machine

open Sys2Proof

variable {f : Eff} {e : Env} {w : Word} {a n : Nat}

theorem execSyl_longC (hp : sylP w = false) (hu : sylU w = 0) : execSyl f e w = execLongC f e w := by simp [execSyl, hp, hu]

theorem execSyl_longA0 (hp : sylP w = false) (hu : sylU w = 3) : execSyl f e w = execLongA f e 3 w := by simp [execSyl, hp, hu]

theorem execSyl_longM (hp : sylP w = false) (hu : sylU w = 5) : execSyl f e w = execLongM f e w := by simp [execSyl, hp, hu]

theorem execSyl_longL (hp : sylP w = false) (hu : sylU w = 6) : execSyl f e w = execLongL f e w := by simp [execSyl, hp, hu]

/-! ### A0 -/

/-- A result of A0 with the three flags of the unit, in landing order. -/
def flaggedA0 (d : Nat) (v : Word × Flags) : List Dest := [.g d v.1, .cy 3 v.2.cy, .hc 3 v.2.hc, .ov 3 v.2.ov]

/-- What ADD, SUB, AND, OR and XOR of A0 land in register `d` and the flags from operands `x` and `y`. -/
def resultsA0 (opc d : Nat) (x y : Word) : List Dest :=
  if opc = 1 then flaggedA0 d (addc x y false)
  else if opc = 3 then flaggedA0 d (subc x y false)
  else if opc = 7 then [.g d (x &&& y)]
  else if opc = 8 then [.g d (x ||| y)]
  else [.g d (x ^^^ y)]

/-- Source B of those operations: arithmetic extends the immediate's sign, logic does not (04 R119). -/
def sourceA0 (e : Env) (w : Word) : Word := if sylOpc w < 7 then operandRS e.ext w e.regs.getG else operandRZ e.ext w e.regs.getG

theorem resultsA0_ne_nil (opc d : Nat) (x y : Word) : resultsA0 opc d x y ≠ [] := by
  unfold resultsA0 flaggedA0
  split_ifs <;> exact List.cons_ne_nil _ _

theorem execSyl_A0 (hp : sylP w = false) (hu : sylU w = 3) (ho : sylOpc w ∈ [1, 3, 7, 8, 9]) :
    execSyl (Eff.start []) e w = { Eff.start [] with lands := resultsOf e.cyc 3 1 (resultsA0 (sylOpc w) (sylDst w) (e.regs.getG (sylA w)) (sourceA0 e w)) } := by
  rw [execSyl_longA0 hp hu]
  simp only [List.mem_cons, List.not_mem_nil, or_false] at ho
  unfold execLongA sourceA0
  rcases ho with h | h | h | h | h <;> rw [h] <;> rfl

theorem foldl_land_flaggedA0 (r : Reg) (d : Nat) (v : Word × Flags) : (flaggedA0 d v).foldl Reg.land r = { r.land (.g d v.1) with f0 := v.2 } := rfl

theorem addc_false (x y : Word) : addc x y false = (x + y, { cy := decide (2 ^ 32 ≤ x.toNat + y.toNat), hc := (addc x y false).2.hc, ov := decide (x.toInt + y.toInt ≠ (x + y).toInt) }) := by
  simp [addc, carryOut, bit, w32, Nat.mod_eq_of_lt x.isLt, Nat.mod_eq_of_lt y.isLt]

theorem subc_false (x y : Word) : subc x y false = (x - y, { cy := decide (x.toNat < y.toNat), hc := (subc x y false).2.hc, ov := decide (x.toInt - y.toInt ≠ (x - y).toInt) }) := by
  simp [subc, borrowOut, bit, w32, Nat.mod_eq_of_lt x.isLt, Nat.mod_eq_of_lt y.isLt]

theorem foldl_land_add (r : Reg) (d : Nat) (x y : Word) : (resultsA0 1 d x y).foldl Reg.land r = { r.land (.g d (x + y)) with f0 :=
    { cy := decide (2 ^ 32 ≤ x.toNat + y.toNat), hc := (addc x y false).2.hc, ov := decide (x.toInt + y.toInt ≠ (x + y).toInt) } } :=
  (foldl_land_flaggedA0 r d _).trans (congrArg (fun v : Word × Flags => { r.land (.g d v.1) with f0 := v.2 }) (addc_false x y))

theorem foldl_land_sub (r : Reg) (d : Nat) (x y : Word) : (resultsA0 3 d x y).foldl Reg.land r = { r.land (.g d (x - y)) with f0 :=
    { cy := decide (x.toNat < y.toNat), hc := (subc x y false).2.hc, ov := decide (x.toInt - y.toInt ≠ (x - y).toInt) } } :=
  (foldl_land_flaggedA0 r d _).trans (congrArg (fun v : Word × Flags => { r.land (.g d v.1) with f0 := v.2 }) (subc_false x y))

/-! ### Scratch (05 R145, R147, R152) -/

theorem spaceOf_scratch (ha : a ≤ 0x3FFFF) : spaceOf a = some .scratch := if_pos ha

theorem isShared_scratch (ha : a ≤ 0x3FFFF) : isShared a = false := by
  unfold isShared
  rw [spaceOf_scratch ha]

theorem bytes_scratch (e : Env) (a n : Nat) : e.bytes .scratch a n = memBytes e.scratch a n := by
  induction n generalizing a with
  | zero => rfl
  | succ n ih => exact congrArg _ (ih (a + 1))

theorem load_scratch (ha : a ≤ 0x3FFFF) (hn : a % n = 0) :
    f.load e a n = (some (w32 (leNat (memBytes e.scratch a n)), 2 + e.late), { f with scratchRead := a / 16 :: f.scratchRead }) := by
  unfold Eff.load
  rw [spaceOf_scratch ha, ← bytes_scratch]
  simp [hn, loadLatency]

theorem loadTo_scratch {op : Nat} {d : Word → Dest} (ha : a ≤ 0x3FFFF) (hn : a % n = 0) :
    f.loadTo e op a n d = { f with scratchRead := a / 16 :: f.scratchRead }.land e 6 op (2 + e.late) (d (w32 (leNat (memBytes e.scratch a n)))) := by
  unfold Eff.loadTo
  rw [load_scratch ha hn]

/-- Bytes stored one by one from an address on are a block put there. -/
theorem foldl_memWrite_eq_memPut (bs : List Byte) (m : Mem) (a : Nat) :
    ((List.range bs.length).map (fun i => (a + i, bs[i]?.getD 0))).foldl (fun m x => memWrite m x.1 x.2) m = memPut m a bs := by
  induction bs generalizing m a with
  | nil => rfl
  | cons b bs ih =>
    rw [List.length_cons, List.range_succ_eq_map, List.map_cons, List.foldl_cons, List.map_map, memPut, ← ih]
    congr 1
    refine List.map_congr_left fun i _ => ?_
    simp [Nat.add_assoc, Nat.add_comm 1]

theorem store_scratch {bs : List Byte} (hn : a % bs.length = 0) (hall : ∀ i, i < bs.length → a + i ≤ 0x3FFFF) (ha : a ≤ 0x3FFFF) :
    f.store e a bs = { f with scratch := f.scratch ++ (List.range bs.length).map (fun i => (a + i, bs[i]?.getD 0)) } := by
  have hmay : (List.range bs.length).all (fun i => e.mayStore (a + i)) = true := by
    rw [List.all_eq_true]
    intro i hi
    unfold Env.mayStore
    rw [spaceOf_scratch (hall i (List.mem_range.mp hi))]
  unfold Eff.store
  rw [if_neg (by simp [hn, hmay]), if_pos (spaceOf_scratch ha)]

theorem length_wbytes (v : Word) : (wbytes v).length = 4 := leBytes_length 4 _

/-- LW from scratch. -/
theorem execSyl_loadWord (hp : sylP w = false) (hu : sylU w = 6) (ho : sylOpc w = 1) (ha : longLAddr e.regs e.ext w ≤ 0x3FFFF) (hn : longLAddr e.regs e.ext w % 4 = 0) :
    execSyl (Eff.start []) e w = { Eff.start [] with
      lands := resultsOf e.cyc 6 (2 + e.late) [.g (sylDst w) (memWord e.scratch (longLAddr e.regs e.ext w))]
      scratchRead := [longLAddr e.regs e.ext w / 16] } := by
  rw [execSyl_longL hp hu]
  unfold execLongL
  rw [ho]
  exact loadTo_scratch ha hn

/-- SW to scratch. -/
theorem execSyl_storeWord (hp : sylP w = false) (hu : sylU w = 6) (ho : sylOpc w = 6) (ha : longLAddr e.regs e.ext w ≤ 0x3FFFF) (hn : longLAddr e.regs e.ext w % 4 = 0) :
    execSyl (Eff.start []) e w = { Eff.start [] with
      scratch := (List.range 4).map (fun i => (longLAddr e.regs e.ext w + i, (wbytes (e.regs.getG (sylDst w)))[i]?.getD 0)) } := by
  have hst : (Eff.start []).store e (longLAddr e.regs e.ext w) (wbytes (e.regs.getG (sylDst w))) = _ :=
    store_scratch hn (fun i hi => by rw [length_wbytes] at hi; omega) ha
  rw [execSyl_longL hp hu]
  unfold execLongL
  rw [ho]
  exact hst

/-! ### Control -/

theorem execSyl_jump (hp : sylP w = false) (hu : sylU w = 0) (ho : sylOpc w = 1) :
    execSyl (Eff.start []) e w = { Eff.start [] with xfer := some ⟨2, true, 4 * (operandRZ e.ext w e.regs.getG).toNat, .branch⟩ } := by
  rw [execSyl_longC hp hu]
  unfold execLongC
  rw [ho]
  rfl

theorem execSyl_end (hp : sylP w = false) (hu : sylU w = 0) (ho : sylOpc w = 9) :
    execSyl (Eff.start []) e w = { Eff.start [] with ended := true, items := [.fin] } := by
  rw [execSyl_longC hp hu]
  unfold execLongC
  rw [ho]
  rfl

end Sys2Proof.Machine
end

section
/-! PROOFS. A bundle of one syllable in a lane by itself (03 R91, R105 to R108): what it leaves in the lane, and how an illegal one ends the run. -/

namespace Sys2Proof.Machine

open Sys2Proof

/-! ### The lane after the issue -/

variable {ln : Lane} {f : Eff}

/-- After an operation whose only effect is results in flight. -/
theorem issued_results {u lat : Nat} {ds : List Dest} (hx : ln.xfer = none) (he : ln.ended = false) (hds : ds ≠ []) (hlat : 1 ≤ lat)
    (hl : f.lands = resultsOf ln.ready u lat ds) (hs : f.scratch = []) (hfx : f.xfer = none) (hfe : f.ended = false) :
    ln.issued f = { ln with pc := ln.pc + 4, ready := ln.ready + 1, inflight := (ln.issued f).inflight, endCyc := max ln.endCyc (ln.ready + lat) } := by
  have hmax : max (max ln.ready ln.endCyc) (ln.ready + lat) = max ln.endCyc (ln.ready + lat) := by omega
  simp only [Lane.issued, hx, he, hl, hs, hfx, hfe, foldl_max_resultsOf hds, hmax, List.foldl_nil]

/-- After an operation whose only effect is bytes stored in scratch. -/
theorem issued_store (hi : ln.inflight = []) (hx : ln.xfer = none) (he : ln.ended = false) (hl : f.lands = []) (hfx : f.xfer = none) (hfe : f.ended = false) :
    ln.issued f = { ln with pc := ln.pc + 4, ready := ln.ready + 1, scratch := f.scratch.foldl (fun m x => memWrite m x.1 x.2) ln.scratch, endCyc := max ln.endCyc ln.ready } := by
  simp only [Lane.issued, hi, hx, he, hl, hfx, hfe, List.foldl_nil, Nat.max_comm ln.ready]

/-- After an operation whose only effect is a transfer left for later. -/
theorem issued_transfer (hi : ln.inflight = []) (he : ln.ended = false) (hl : f.lands = []) (hs : f.scratch = []) (hfe : f.ended = false) :
    ln.issued f = { ln with pc := ln.pc + 4, ready := ln.ready + 1, xfer := f.xfer, endCyc := max ln.endCyc ln.ready } := by
  simp only [Lane.issued, hi, he, hl, hs, hfe, List.foldl_nil, Nat.max_comm ln.ready]

/-- After the operation that ends the run. -/
theorem issued_end (hi : ln.inflight = []) (hx : ln.xfer = none) (hl : f.lands = []) (hs : f.scratch = []) (hfx : f.xfer = none) (hfe : f.ended = true) :
    ln.issued f = { ln with pc := ln.pc + 4, ready := ln.ready + 1, ended := true, endCyc := max ln.endCyc ln.ready } := by
  simp only [Lane.issued, hi, hx, hl, hs, hfx, hfe, List.foldl_nil, Nat.max_comm ln.ready]

/-! ### The syllable issues -/

variable {s : State} {l k : Nat} {run : Run} {w : Word}

/-- One operation of A0 (04 R129, R130). -/
theorem Issues.arithmetic (h : Issues s l k run w) (hu : sylU w = 3) (ho : sylOpc w ∈ [1, 3, 7, 8, 9]) :
    ∃ t, exec (.bundleIssue l [] .none) s = .next t ∧
      (landThrough ((s.lane l).ready + 1) (t.lane l).inflight (s.lane l).regs).1 =
        (resultsA0 (sylOpc w) (sylDst w) ((s.lane l).regs.getG (sylA w)) (sourceA0 (s.envAlone l k run) w)).foldl Reg.land (s.lane l).regs ∧
      t.lane l = { s.lane l with pc := (s.lane l).pc + 4, ready := (s.lane l).ready + 1, inflight := (t.lane l).inflight, endCyc := max (s.lane l).endCyc ((s.lane l).ready + 1) } ∧
      (∀ j, j ≠ l → t.lane j = s.lane j) ∧ Frame { clu := true } s t := by
  obtain ⟨t, ht, hlane, hothers, hframe⟩ := h.leaves (execSyl_A0 h.next.long hu ho) ⟨rfl, rfl, rfl, rfl, rfl, rfl⟩ resultsOf_pairwise
  refine ⟨t, ht, ?_, ?_, hothers, hframe⟩
  · rw [hlane]
    exact landThrough_due
  · rw [hlane]
    exact issued_results h.alone.xfer h.alone.ended (resultsA0_ne_nil _ _ _ _) (Nat.le_refl 1) rfl rfl rfl rfl

/-- A load of a word of scratch (05 R145, R147). -/
theorem Issues.loadWord (h : Issues s l k run w) (hu : sylU w = 6) (ho : sylOpc w = 1) {a : Nat} (hla : longLAddr (s.lane l).regs none w = a) (ha : a ≤ 0x3FFFF) (hn : a % 4 = 0) :
    ∃ t, exec (.bundleIssue l [] .none) s = .next t ∧
      (landThrough ((s.lane l).ready + 1) (t.lane l).inflight (s.lane l).regs).1 = (s.lane l).regs ∧
      (landThrough ((s.lane l).ready + 2) (t.lane l).inflight (s.lane l).regs).1 = (s.lane l).regs.land (.g (sylDst w) (memWord (s.lane l).scratch a)) ∧
      t.lane l = { s.lane l with pc := (s.lane l).pc + 4, ready := (s.lane l).ready + 1, inflight := (t.lane l).inflight, endCyc := max (s.lane l).endCyc ((s.lane l).ready + 2) } ∧
      (∀ j, j ≠ l → t.lane j = s.lane j) ∧ Frame { clu := true } s t := by
  subst hla
  obtain ⟨t, ht, hlane, hothers, hframe⟩ := h.leaves (execSyl_loadWord h.next.long hu ho ha hn) ⟨rfl, rfl, rfl, rfl, rfl, rfl⟩ resultsOf_pairwise
  refine ⟨t, ht, ?_, ?_, ?_, hothers, hframe⟩
  · rw [hlane]
    exact landThrough_early (Nat.lt_succ_self _)
  · rw [hlane]
    exact landThrough_due
  · rw [hlane]
    exact issued_results h.alone.xfer h.alone.ended (List.cons_ne_nil _ _) (by decide : 1 ≤ 2) rfl rfl rfl rfl

/-- A store of a word to scratch (05 R147). -/
theorem Issues.storeWord (h : Issues s l k run w) (hu : sylU w = 6) (ho : sylOpc w = 6) {a : Nat} (hla : longLAddr (s.lane l).regs none w = a) (ha : a ≤ 0x3FFFF) (hn : a % 4 = 0) :
    ∃ t, exec (.bundleIssue l [] .none) s = .next t ∧
      t.lane l = { s.lane l with
        pc := (s.lane l).pc + 4, ready := (s.lane l).ready + 1, scratch := memPut (s.lane l).scratch a (wbytes ((s.lane l).regs.getG (sylDst w)))
        endCyc := max (s.lane l).endCyc (s.lane l).ready } ∧
      (∀ j, j ≠ l → t.lane j = s.lane j) ∧ Frame { clu := true } s t := by
  subst hla
  obtain ⟨t, ht, hlane, hothers, hframe⟩ := h.leaves (execSyl_storeWord h.next.long hu ho ha hn) ⟨rfl, rfl, rfl, rfl, rfl, rfl⟩ List.Pairwise.nil
  refine ⟨t, ht, ?_, hothers, hframe⟩
  rw [hlane, ← foldl_memWrite_eq_memPut]
  exact issued_store h.alone.inflight h.alone.xfer h.alone.ended rfl rfl rfl

/-- A branch waits for two more bundles (03 R107). -/
theorem Issues.jump (h : Issues s l k run w) (hu : sylU w = 0) (ho : sylOpc w = 1) :
    ∃ t, exec (.bundleIssue l [] .none) s = .next t ∧
      t.lane l = { s.lane l with
        pc := (s.lane l).pc + 4, ready := (s.lane l).ready + 1, xfer := some ⟨2, true, 4 * (operandRZ none w (s.lane l).regs.getG).toNat, .branch⟩
        endCyc := max (s.lane l).endCyc (s.lane l).ready } ∧
      (∀ j, j ≠ l → t.lane j = s.lane j) ∧ Frame { clu := true } s t := by
  obtain ⟨t, ht, hlane, hothers, hframe⟩ := h.leaves (execSyl_jump h.next.long hu ho) ⟨rfl, rfl, rfl, rfl, rfl, rfl⟩ List.Pairwise.nil
  refine ⟨t, ht, ?_, hothers, hframe⟩
  rw [hlane]
  exact issued_transfer h.alone.inflight h.alone.ended rfl rfl rfl

/-- The last bundle of a run (05 R158). -/
theorem Issues.endRun (h : Issues s l k run w) (hu : sylU w = 0) (ho : sylOpc w = 9) :
    ∃ t, exec (.bundleIssue l [] .none) s = .next t ∧
      t.lane l = { s.lane l with pc := (s.lane l).pc + 4, ready := (s.lane l).ready + 1, ended := true, endCyc := max (s.lane l).endCyc (s.lane l).ready } ∧
      (∀ j, j ≠ l → t.lane j = s.lane j) ∧ Frame { clu := true } s t := by
  obtain ⟨t, ht, hlane, hothers, hframe⟩ := h.leaves (execSyl_end h.next.long hu ho) ⟨rfl, rfl, rfl, rfl, rfl, rfl⟩ List.Pairwise.nil
  refine ⟨t, ht, ?_, hothers, hframe⟩
  rw [hlane]
  exact issued_end h.alone.inflight h.alone.xfer rfl rfl rfl rfl

/-! ### An illegal syllable (03 R108) -/

/-- A fault of a task ends its run and keeps cause and bundle; every other task and every lane stays. -/
theorem faultTask_left (s : State) {k : Nat} (hk : k < 32) (c b : Nat) :
    ((s.faultTask k c b).task k).faulted = true ∧ ((s.faultTask k c b).task k).faultCause = c ∧ ((s.faultTask k c b).task k).faultBundle = b ∧
    ((s.faultTask k c b).task k).run = none ∧ ∀ j, j ≠ k → (s.faultTask k c b).task j = s.task j := by
  obtain ⟨safe, hsafe⟩ : ∃ safe, (s.faultTask k c b).tasks = ((s.upTask k (fun x => { x with run := none })).upTask k (fun x => { x with
      faulted := true, faultCause := c, faultBundle := b, safeDue := safe, overrunNow := false })).tasks := ⟨_, State.taskCause_tasks ..⟩
  have htask := task_congr hsafe
  refine ⟨?_, ?_, ?_, ?_, fun j hj => by rw [htask, upTask_ne _ hj, upTask_ne _ hj]⟩
  all_goals rw [htask, upTask_same _ hk]
  rw [upTask_same _ hk]

theorem issue_faults (h : s.Alone l k run) (hrep : (s.lane l).rep = none) (hk : k < 32) (hw : NextSyllable s l w) {c : Nat} (hc : leastOf (sylCauses none w) = some c) :
    ∃ t, exec (.bundleIssue l [] .none) s = .next t ∧ (t.task k).faulted = true ∧ (t.task k).faultCause = c ∧
      (t.task k).faultBundle = (s.lane l).pc ∧ (t.task k).run = none ∧ (t.lane l).dead = true ∧ (∀ j, j ≠ l → t.lane j = s.lane j) ∧ (∀ j, j ≠ k → t.task j = s.task j) ∧
      Frame { clk := true, clu := true, tasks := true, sto := true, host := true, wdg := true, evr := true, trc := true } s t := by
  have hd : decodeBundle (fetchWords s.sto.program (s.lane l).pc 8) false = .error c := by
    rw [decode_one hw.inStore hw.word hw.last hw.unit, hc]
  obtain ⟨u, hu, hend⟩ := endIllegal_alone h (s.lane l).ready c (s.lane l).pc
  obtain ⟨v, hv⟩ : ∃ v, v = (u.faultTask k c (s.lane l).pc).noteRun k (4 + 2 * bit (s.task k).overrunNow) c ((max (s.lane l).ready (s.lane l).endCyc) % s.beatCycles) 0 0 := ⟨_, rfl⟩
  have hissue : exec (.bundleIssue l [] .none) s = commit s v := by
    rw [hv, ← hend, ← issue_illegal h hrep hd]
    rfl
  have hsu : Keep { clu := true } s u := hu ▸ State.upLane_keep (Keep.refl s) _ _
  have huf := State.faultTask_keep (L := { tasks := true, sto := true, host := true, wdg := true, evr := true }) (Keep.refl u) k c (s.lane l).pc
  have hfv : Keep { clk := true, evr := true, trc := true } (u.faultTask k c (s.lane l).pc) v := hv ▸ State.noteRun_keep (Keep.refl _) _ _ _ _ _ _
  have hlane := lane_congr ((hfv.frame.clu rfl).trans (huf.frame.clu rfl))
  have htask := task_congr (hfv.frame.tasks rfl)
  obtain ⟨hfaulted, hcause, hbundle, hrun, hothers⟩ := faultTask_left u hk c (s.lane l).pc
  rw [← htask] at hfaulted hcause hbundle hrun
  refine ⟨countEdges s v, hissue, hfaulted, hcause, hbundle, hrun, ?_, fun j hj => ?_, fun j hj => ?_, ?_⟩
  · show (v.lane l).dead = true
    rw [hlane, hu, upLane_same s h.lane]
  · show v.lane j = s.lane j
    rw [hlane, hu, upLane_ne s hj]
  · show v.task j = s.task j
    rw [htask, hothers j hj, task_congr (hsu.frame.tasks rfl)]
  · exact ((hsu.frame.comp huf.frame (N := { clu := true, tasks := true, sto := true, host := true, wdg := true, evr := true }) rfl rfl).comp hfv.frame rfl rfl).countEdges s

/-! ### Which syllables access no shared store -/

theorem not_isImageOp_of_unit (h1 : sylU w ≠ 1) (h2 : sylU w ≠ 2) : isImageOp w = false := by simp [isImageOp, h1, h2]

theorem not_isRecord_of_unit (h : sylU w ≠ 0) : isRecord w = false := by simp [isRecord, h]

theorem not_isRecord_of_opc (h : sylOpc w < 0x20) : isRecord w = false := by
  unfold isRecord
  rw [decide_eq_false (by omega : ¬ (0x20 ≤ sylOpc w ∧ sylOpc w ≤ 0x2B)), Bool.and_false]

/-- The arithmetic units and the multiply unit. -/
theorem sylBanks_arithmetic {r : Reg} (h : 3 ≤ sylU w) (h6 : sylU w ≠ 6) : sylBanks r none w = [] :=
  sylBanks_other (not_isImageOp_of_unit (by omega) (by omega)) (not_isRecord_of_unit (by omega)) (.inl h6)

theorem sylBanks_control {r : Reg} (hu : sylU w = 0) (ho : sylOpc w < 0x20) : sylBanks r none w = [] :=
  sylBanks_other (not_isImageOp_of_unit (by omega) (by omega)) (not_isRecord_of_opc ho) (.inl (by omega))

theorem sylBanks_scratch {r : Reg} (hu : sylU w = 6) (hp : sylP w = false) (ho : sylOpc w ≤ 0x17) (ha : longLAddr r none w ≤ 0x3FFFF) : sylBanks r none w = [] := by
  rw [sylBanks_longL (not_isImageOp_of_unit (by omega) (by omega)) (not_isRecord_of_unit (by omega)) hu hp ho, isShared_scratch ha]
  rfl

theorem not_isString_of_unit (hu : sylU w ≠ 3) : isString w = false := by simp [isString, hu]

theorem not_isString_of_opc (ho : sylOpc w < 0x36) : isString w = false := by
  unfold isString
  rw [decide_eq_false (by omega : ¬ (0x36 ≤ sylOpc w ∧ sylOpc w ≤ 0x3A)), Bool.and_false]

theorem longLAddr_of_opc {r : Reg} (ho : sylOpc w = 1 ∨ sylOpc w = 6) : longLAddr r none w = (r.getA (sylA w) + operandRS none w r.getG).toNat := by
  unfold longLAddr
  rcases ho with h | h <;> rw [h] <;> rfl

/-- Settles O4: each legal syllable by the lemma about its issue, an illegal one by the fault it leaves. -/
theorem bundlesOfOneSyllableIssue : Obligations.BundlesOfOneSyllableIssue := by
  intro s l k run w ln r h hrep hk hln hr hword hin hlast hlong hunit
  subst hr hln
  have hw : NextSyllable s l w := ⟨hin, hword, hlast, hlong, hunit⟩
  refine ⟨fun hc => ⟨fun hu ho => ?_, fun hu ho a haddr ha hn => ?_, fun hu ho a haddr ha hn => ?_, fun hu ho => ?_, fun hu ho => ?_⟩, fun c hc => issue_faults h hrep hk hw hc⟩
  · have hopc : sylOpc w < 0x36 := by
      simp only [List.mem_cons, List.not_mem_nil, or_false] at ho
      omega
    have hi : Issues s l k run w := ⟨h, hrep, hw, hc, not_isString_of_opc hopc, sylBanks_arithmetic (by omega) (by omega)⟩
    obtain ⟨t, ht, hland, hlane, hothers, hframe⟩ := hi.arithmetic hu ho
    refine ⟨t, _, _, _, ht, rfl, rfl, rfl, fun ho => ?_, fun ho => ?_, fun ho => ?_, fun ho => ?_, fun ho => ?_, hlane, hothers, hframe⟩
    all_goals rw [hland, sourceA0, ho]
    · exact foldl_land_add ..
    · exact foldl_land_sub ..
    all_goals rfl
  · have hla := (longLAddr_of_opc (.inl ho)).trans haddr.symm
    exact Issues.loadWord ⟨h, hrep, hw, hc, not_isString_of_unit (by omega), sylBanks_scratch hu hlong (by omega) (hla ▸ ha)⟩ hu ho hla ha hn
  · have hla := (longLAddr_of_opc (.inr ho)).trans haddr.symm
    exact Issues.storeWord ⟨h, hrep, hw, hc, not_isString_of_unit (by omega), sylBanks_scratch hu hlong (by omega) (hla ▸ ha)⟩ hu ho hla ha hn
  · exact Issues.jump ⟨h, hrep, hw, hc, not_isString_of_unit (by omega), sylBanks_control hu (by omega)⟩ hu ho
  · exact Issues.endRun ⟨h, hrep, hw, hc, not_isString_of_unit (by omega), sylBanks_control hu (by omega)⟩ hu ho

end Sys2Proof.Machine
end

section
/-! PROOFS. The start of a run from its queue (03 R87, 06 R177). -/

namespace Sys2Proof.Machine

open Sys2Proof

variable {s : State}

/-- The lanes `ls` updated one after the other, each by its own function. -/
def State.upLanes (s : State) (ls : List Nat) (f : Nat → Lane → Lane) : State := ls.foldl (fun acc l => acc.upLane l (f l)) s

/-- Each of distinct lanes takes its own update; neither the queues nor the tasks change. -/
theorem upLanes_left {ls : List Nat} (hd : ls.Nodup) (hls : ∀ l ∈ ls, l < 8) (f : Nat → Lane → Lane) (s : State) :
    (∀ j, j ∈ ls → (s.upLanes ls f).lane j = f j (s.lane j)) ∧ (∀ j, j ∉ ls → (s.upLanes ls f).lane j = s.lane j) ∧
    (s.upLanes ls f).clu.queues = s.clu.queues ∧ (s.upLanes ls f).tasks = s.tasks := by
  induction ls generalizing s with
  | nil => exact ⟨fun j hj => (List.not_mem_nil hj).elim, fun _ _ => rfl, rfl, rfl⟩
  | cons i ls ih =>
    obtain ⟨hi, hd⟩ := List.nodup_cons.mp hd
    obtain ⟨hin, hout, hqueues, htasks⟩ := ih hd (fun l hl => hls l (List.mem_cons_of_mem _ hl)) (s.upLane i (f i))
    refine ⟨fun j hj => ?_, fun j hj => ?_, hqueues, htasks⟩
    · by_cases e : j = i
      · subst e
        exact (hout j hi).trans (upLane_same s (hls j (List.mem_cons_self ..)) _)
      · exact (hin j ((List.mem_cons.mp hj).resolve_left e)).trans (congrArg (f j) (upLane_ne s e _))
    · obtain ⟨hji, hjl⟩ := not_or.mp (mt List.mem_cons.mpr hj)
      exact (hout j hjl).trans (upLane_ne s hji _)

/-- The lanes of a set are distinct lanes from its leading lane on. -/
theorem setLanes_lanes {n : Nat} (hn : n < if s.clu.single then 8 else 4) :
    (s.setLanes n).Nodup ∧ (∀ l ∈ s.setLanes n, l < 8) ∧ ∀ l ∈ s.setLanes n, (s.setLanes n).head?.getD 0 ≤ l := by
  unfold State.setLanes State.paired
  cases hs : s.clu.single with
  | true =>
    rw [hs, if_pos rfl] at hn
    simpa using hn
  | false =>
    rw [hs, if_neg (by decide)] at hn
    refine ⟨by simp, ?_, by simp⟩
    simp only [Bool.not_false, if_true, List.mem_cons, List.not_mem_nil, or_false, forall_eq_or_imp, forall_eq]
    omega

theorem startRun_empty {n : Nat} (h : vget s.clu.queues n [] = []) : s.startRun n = s := by
  unfold State.startRun
  rw [h]

/-- How lane `l` of set `n` begins the run `run` of task `k`: the leading lane once the set is free and the start offset is over, a trailing lane one cycle later. -/
def State.beginRun (s : State) (n k : Nat) (run : Run) (row : TaskRow) (l : Nat) (ln : Lane) : Lane :=
  ln.begin k (max (run.relCyc + run.start) (s.setFree n) + l - (s.setLanes n).head?.getD 0) row

/-- The head of a lane set's queue starts. -/
theorem startRun_left {n k : Nat} {rest : List Nat} {run : Run} {row : TaskRow} (hq : vget s.clu.queues n [] = k :: rest) (hi : s.setIdle n = true) (hx : s.executes = true)
    (hr : (s.task k).run = some run) (hw : s.row k = some row) (hk : k < 32) (hn : n < if s.clu.single then 8 else 4) :
    (∀ j, j ∈ s.setLanes n → (s.startRun n).lane j = s.beginRun n k run row j (s.lane j)) ∧ (∀ j, j ∉ s.setLanes n → (s.startRun n).lane j = s.lane j) ∧
    vget (s.startRun n).clu.queues n [] = rest ∧ ((s.startRun n).task k).run = some { run with started := true } ∧ ∀ j, j ≠ k → (s.startRun n).task j = s.task j := by
  obtain ⟨hd, hlt, -⟩ := setLanes_lanes hn
  have hn8 : n < 8 := by split at hn <;> omega
  obtain ⟨u, hu⟩ : ∃ u : State, u = s.upClu (fun u => { u with queues := vset u.queues n rest, items := if u.single then u.items else vset u.items n [] }) := ⟨_, rfl⟩
  obtain ⟨v, hv⟩ : ∃ v : State, v = u.upLanes (s.setLanes n) (s.beginRun n k run row) := ⟨_, rfl⟩
  have e : s.startRun n = v.upTask k (fun x => { x with run := x.run.map (fun r => { r with started := true }) }) := by
    unfold State.startRun
    simp only [hq, hi, hx, hr, hw, Bool.not_true, Bool.or_self, Bool.false_eq_true, if_false]
    rw [hv, hu]
    rfl
  obtain ⟨hin, hout, hqueues, htasks⟩ := upLanes_left hd hlt (s.beginRun n k run row) u
  rw [← hv] at hin hout hqueues htasks
  have htask : ∀ j, v.task j = s.task j := task_congr (htasks.trans (by rw [hu]; rfl))
  have hlane : ∀ j, u.lane j = s.lane j := fun j => by rw [hu]; rfl
  rw [e]
  refine ⟨fun j hj => ?_, fun j hj => (hout j hj).trans (hlane j), ?_, ?_, fun j hj => (upTask_ne v hj _).trans (htask j)⟩
  · rw [← hlane]
    exact hin j hj
  · show vget v.clu.queues n [] = rest
    rw [hqueues, hu]
    show vget (vset s.clu.queues n rest) n [] = rest
    rw [vget_vset, if_pos ⟨rfl, hn8⟩]
  · rw [upTask_same v hk, htask, hr]
    rfl

/-- In the terms of the lead's cycle and the distance from it. -/
theorem beginRun_eq {n l : Nat} (h : (s.setLanes n).head?.getD 0 ≤ l) (k : Nat) (run : Run) (row : TaskRow) (ln : Lane) :
    s.beginRun n k run row l ln = ln.begin k (max (run.relCyc + run.start) ((s.lane (s.lastLane n)).endCyc + 1) + (l - (s.setLanes n).head?.getD 0)) row := by
  unfold State.beginRun State.setFree
  rw [Nat.add_sub_assoc h]

end Sys2Proof.Machine
end

section
/-! PROOFS. A result that lands and a transfer that takes effect (03 R85, R91, R94, R107, 05 R157). -/

namespace Sys2Proof.Machine

open Sys2Proof

/-! ### Results -/

theorem land_g (r : Reg) (d : Nat) (v : Word) : r.land (.g d v) = if d = 0 then r else { r with g := vset r.g d v } := rfl

theorem getG_land_same {r : Reg} {d : Nat} {v : Word} (hd : d < 32) : (r.land (.g d v)).getG d = if d = 0 then 0 else v := by
  unfold Reg.getG
  rw [land_g]
  split
  · rfl
  · rw [vget_vset, if_pos ⟨rfl, hd⟩]

theorem getG_land_ne {r : Reg} {d m : Nat} {v : Word} (hm : m ≠ d) : (r.land (.g d v)).getG m = r.getG m := by
  unfold Reg.getG
  rw [land_g]
  split
  · rfl
  · split
    · rfl
    · rw [vget_vset, if_neg fun e => hm e.1.symm]

/-- The lane after its earliest result has landed. -/
def Lane.landFirst (ln : Lane) : Lane :=
  match ln.inflight with
  | x :: rest => { ln with regs := ln.regs.land x.dest, inflight := rest }
  | [] => ln

theorem exec_resultLanding (s : State) (l : Nat) : exec (.resultLanding l) s = commit s (s.upLane l Lane.landFirst) := rfl

theorem landFirst_cons {ln : Lane} {x : Landing} {xs : List Landing} (h : ln.inflight = x :: xs) : ln.landFirst = { ln with regs := ln.regs.land x.dest, inflight := xs } := by
  unfold Lane.landFirst
  rw [h]

theorem landFirst_nil {ln : Lane} (h : ln.inflight = []) : ln.landFirst = ln := by
  unfold Lane.landFirst
  rw [h]

/-! ### Transfers -/

section
variable {ln : Lane} {q : Transfer}

theorem transfer_waits (h : ln.xfer = some q) (hw : q.left ≠ 0 ∨ ln.rep.isSome = true) : ln.transfer = ln := by
  unfold Lane.transfer
  rw [h]
  exact if_pos hw

variable (h : ln.xfer = some q) (hl : q.left = 0) (hr : ln.rep = none)
include h hl hr

theorem transfer_untaken (ht : q.taken = false) : ln.transfer = { ln with xfer := none } := by simp [Lane.transfer, h, hl, hr, ht]

theorem transfer_branch (ht : q.taken = true) (hk : q.kind = .branch) : ln.transfer = { ln with pc := q.target, xfer := none } := by
  simp [Lane.transfer, h, hl, hr, ht, hk]

theorem transfer_call (ht : q.taken = true) {v : Word} (hk : q.kind = .call v) :
    ln.transfer = { ln with link := (ln.pc, ln.regs.ip) :: ln.link, regs := { ln.regs with ip := v }, pc := q.target, xfer := none } := by
  simp [Lane.transfer, h, hl, hr, ht, hk]

theorem transfer_return (ht : q.taken = true) (hk : q.kind = .ret) {a : Nat} {b : Word} {r : List (Nat × Word)} (hs : ln.link = (a, b) :: r) :
    ln.transfer = { ln with link := r, regs := { ln.regs with ip := b }, pc := a, xfer := none } := by
  simp [Lane.transfer, h, hl, hr, ht, hk, hs]

end

end Sys2Proof.Machine
end

section
/-! PROOFS. Iterations of a repeated multiply-accumulate and of a packed-decimal string addition in a lane by itself (04 R136, R142, R143). -/

namespace Sys2Proof.Machine

open Sys2Proof

variable {s : State} {l k : Nat} {run : Run} {p : Rep}

/-- MAC onto an accumulator (04 R139). -/
theorem execSyl_mac {e : Env} {w : Word} (hp : sylP w = false) (hu : sylU w = 5) (ho : sylOpc w = 6) (hd : sylDst w = 0) {v : DWord}
    (hv : v = e.chain 0 + i64 ((e.regs.getG (sylA w)).toInt * (operandRS e.ext w e.regs.getG).toInt)) :
    execSyl (Eff.start []) e w = { Eff.start [] with lands := resultsOf e.cyc 5 3 [.ac 0 v], ac0 := some v } := by
  rw [execSyl_longM hp hu, hv]
  unfold execLongM
  rw [ho, hd]
  rfl

/-- An iteration of MAC adds onto the sum of the iteration before. -/
theorem iterate_mac (h : s.Alone l k run) (hrep : (s.lane l).rep = some p) (hstr : p.str = none) (hp : sylP p.word = false) (hu : sylU p.word = 5) (ho : sylOpc p.word = 6)
    (hd : sylDst p.word = 0) {a : DWord}
    (ha : a = p.ac0.getD ((s.lane l).regs.getAc 0) + i64 (((s.lane l).regs.getG (sylA p.word)).toInt * (operandRS none p.word (s.lane l).regs.getG).toInt)) :
    s.iterate l [] .none = s.upLane l (fun ln => { ln.addFlight (s.lane l).ready (resultsOf (s.lane l).ready 5 3 [.ac 0 a]) [] with
      ready := (s.lane l).ready + 1, rep := if p.left ≤ 1 then none else some { p with left := p.left - 1, ac0 := some a } }) := by
  have hf : execSyl (Eff.start []) (s.env l k (s.lane l).ready run (s.lane l).regs (some p)) p.word = _ := execSyl_mac hp hu ho hd ha
  rw [iterate_one h hrep hstr (sylBanks_arithmetic (by omega) (by omega)) hf.symm rfl rfl rfl rfl rfl]
  congr 1
  funext ln
  simp only [Eff.start, List.foldl_nil, Bool.or_false, Option.or, resultsOf]
  rfl

/-- The state of a string operation after it has added the words `x` and `y`. -/
def StrState.added (st : StrState) (x y : Word) : StrState where
  carry := (padd x y st.carry).2.cy
  words := none
  bad := st.bad || badDigit x || badDigit y
  eq := st.eq && decide (x = y)
  hc := (padd x y st.carry).2.hc
  deferred := []

/-- A lane by itself is about to add the words at the scratch addresses `a` and `b` in a string addition, neither the first of the string nor the last. -/
structure AddsWords (s : State) (l k : Nat) (run : Run) (p : Rep) (st : StrState) (a b : Nat) : Prop where
  alone : s.Alone l k run
  rep : (s.lane l).rep = some p
  str : p.str = some st
  words : st.words = none
  deferred : st.deferred = []
  left : 2 ≤ p.left
  opc : sylOpc p.word = 0x36
  dst : ((s.lane l).regs.getA (sylDst p.word)).toNat = a
  src : ((s.lane l).regs.getA (sylA p.word)).toNat = b
  dstOk : stringAddrOk a = true
  srcOk : stringAddrOk b = true

/-- What it makes of its lane: the sum word goes to scratch, the address registers are in flight. -/
def Lane.addWords (ln : Lane) (p : Rep) (st : StrState) (a b : Nat) : Lane :=
  { ln.addFlight (ln.ready + 1) (resultsOf ln.ready 3 1 [.a (sylDst p.word) (ln.regs.getA (sylDst p.word) + 4), .a (sylA p.word) (ln.regs.getA (sylA p.word) + 4)]) [] with
    scratch := memPut ln.scratch a (wbytes (padd (memWord ln.scratch a) (memWord ln.scratch b) st.carry).1), ready := ln.ready + 2
    rep := some { p with left := p.left - 1, str := some (st.added (memWord ln.scratch a) (memWord ln.scratch b)) } }

theorem AddsWords.step_eq {st : StrState} {a b : Nat} (h : AddsWords s l k run p st a b) : s.stringStep l [] = s.upLane l (fun _ => (s.lane l).addWords p st a b) := by
  obtain ⟨halone, hrep, hstr, hwords, hdef, hleft, ho, ha, hb, hoka, hokb⟩ := h
  have hm : s.mayIssue l (s.lane l).ready = true := by
    unfold State.mayIssue State.isTrailing State.paired
    rw [halone.going, halone.single]
    rfl
  have hself : s.upLane l (fun x => { x with regs := (s.lane l).regs, inflight := [] }) = s := upLane_self (by rw [← halone.inflight])
  have hlast : ¬ p.left ≤ 1 := by omega
  have hword : ∀ x y, stringWord 0x36 x y st.carry = ((padd x y st.carry).1, (padd x y st.carry).2.cy, (padd x y st.carry).2.hc) := fun _ _ => rfl
  unfold State.stringStep
  simp only [halone.task, hrep, hstr, halone.dead, hm, halone.inflight, landThrough, hself, ha, hb, hoka, hokb, hwords, hdef, ho, hlast, hword, Bool.not_true, Bool.or_self, Bool.and_self,
    Bool.false_eq_true, if_false, List.filter_nil, List.any_nil, show s.countCorrected [] = s from rfl, Option.getD_none, List.append_nil, List.foldl_nil]
  rfl

end Sys2Proof.Machine
end

section
/-! PROOFS. A record write-back in a lane by itself (02 R46, R48, 05 R163). -/

namespace Sys2Proof.Machine

open Sys2Proof

variable {s : State}

/-- Stores of a run that the open half holds join the run's own (02 R46, R48). -/
theorem runStore_fits {k : Nat} {run : Run} (hr : (s.task k).run = some run) {o : Ov} (hfit : s.openContent + 16 * (Ov.entries o).length ≤ halfSize) (l c : Nat) :
    s.runStore k l c o = s.upTask k (fun x => { x with run := x.run.map (fun r => { r with writes := Ov.over r.writes o }) }) := by
  have hfresh := List.length_filter_le (fun e => !(Ov.entries run.writes).contains e) (Ov.entries o)
  unfold State.runStore
  rw [hr]
  dsimp only
  split
  · rfl
  · rw [if_neg (by omega)]

/-- In single mode there is no comparator. -/
theorem compare_single (h : s.clu.single = true) (l c bundle : Nat) (wb : Bool) (items : List Item) (reads : List Word) : s.compare l c bundle wb items reads = s := by
  unfold State.compare State.paired
  rw [h]
  rfl

/-- The earliest write-back of lane `l` is off; `ws` are left. -/
def State.dropWb (s : State) (l : Nat) (ws : List Writeback) : State := s.upLane l (fun x => { x with wb := ws })

section
variable {l k : Nat} {w : Writeback} {ws : List Writeback} (hw : (s.lane l).wb = w :: ws) (ht : (s.lane l).task = some k)
include hw ht

/-- The earliest write-back of a lane meets the comparator, and then joins the run's stores unless the lane only checks (03 R111, R112). -/
theorem landWb_eq {u : State} (hu : (s.dropWb l ws).compare l w.cyc (s.lane l).pc true (wbItems w k) [] = u) :
    s.landWb l .none = if u.isTrailing l || u.clu.stopped && decide (u.clu.stopCyc < w.cyc) then u else u.runStore k l w.cyc (Ov.putBytes [] w.addr w.bytes) := by
  subst hu
  unfold State.landWb
  dsimp only
  rw [hw, ht]
  rfl

theorem landWb_single (h : s.clu.single = true) (hg : s.clu.stopped = false) : s.landWb l .none = (s.dropWb l ws).runStore k l w.cyc (Ov.putBytes [] w.addr w.bytes) := by
  rw [landWb_eq hw ht (compare_single (s := s.dropWb l ws) h _ _ _ _ _ _), if_neg]
  simp [State.dropWb, State.isTrailing, State.paired, h, hg]

/-- What the write-back leaves: the lane without it, its bytes among the run's stores. -/
theorem landWb_left (h : s.clu.single = true) (hg : s.clu.stopped = false) (hl : l < 8) (hk : k < 32) {run : Run} (hr : (s.task k).run = some run)
    (hfit : s.openContent + 16 * (Ov.entries (Ov.putBytes [] w.addr w.bytes)).length ≤ halfSize) :
    (s.landWb l .none).lane l = { s.lane l with wb := ws } ∧
    ((s.landWb l .none).task k).run = some { run with writes := Ov.over run.writes (Ov.putBytes [] w.addr w.bytes) } ∧
    (∀ j, j ≠ l → (s.landWb l .none).lane j = s.lane j) ∧ (∀ j, j ≠ k → (s.landWb l .none).task j = s.task j) ∧
    Frame { clu := true, tasks := true } s (s.landWb l .none) := by
  rw [landWb_single hw ht h hg, runStore_fits (s := s.dropWb l ws) hr hfit]
  refine ⟨upLane_same s hl _, ?_, fun j hj => upLane_ne s hj _, fun j hj => upTask_ne (s.dropWb l ws) hj _,
    (State.upTask_keep (State.upLane_keep (Keep.refl s) _ _) _ _).frame⟩
  rw [upTask_same _ hk]
  exact congrArg (Option.map fun r : Run => { r with writes := Ov.over r.writes (Ov.putBytes [] w.addr w.bytes) }) hr

end

end Sys2Proof.Machine
end

section
/-! PROOFS. The lane events between issues (03 R85, R91, R94, R107, 04 R136, R143, 05 R157, R163, 06 R177). -/

namespace Sys2Proof.Machine

open Sys2Proof

theorem stringAddrOk_scratch {a : Nat} (ha : a ≤ 0x3FFFF) (hn : a % 4 = 0) : stringAddrOk a = true := by
  unfold stringAddrOk
  rw [spaceOf_scratch ha, hn]
  rfl

/-- Settles O5: each event by the lemma about its operation. -/
theorem laneEventsBetweenIssues : Obligations.LaneEventsBetweenIssues := by
  intro s l k n d run row rest p st x xs q wr ws v ln hl hln
  subst hln
  refine ⟨fun hq hi hx hr hw hk hn => ?_, fun hq => ?_, fun hi => ?_, fun hi => ?_, fun hx => ?_,
    fun h hrep => ⟨fun hstr hp hu ho hd a ha => ?_, fun hstr hwords hdef hleft ho a b y ha hb hal han hbl hbn hy => ?_⟩, fun hs hg hw ht hr hk hfit => ?_⟩
  · obtain ⟨hin, hout, hqueue, hrun, hothers⟩ := startRun_left hq hi hx hr hw hk hn
    obtain ⟨-, -, hlead⟩ := setLanes_lanes hn
    exact ⟨_, commit_eq .., fun j hj => (hin j hj).trans (beginRun_eq (hlead j hj) ..), hout, hqueue, hrun, hothers, (execRunStart_keep n (commit_eq ..)).frame⟩
  · show commit s (s.startRun n) = _
    rw [startRun_empty hq, commit_self]
  · obtain ⟨t, ht, hlane, hothers, hframe⟩ := commit_upLane s hl Lane.landFirst
    rw [landFirst_cons hi] at hlane
    refine ⟨t, ht, hlane, fun hdest hd => ?_, hothers, hframe⟩
    rw [hlane, hdest]
    exact ⟨getG_land_same hd, fun m hm => getG_land_ne hm⟩
  · rw [exec_resultLanding, upLane_self (landFirst_nil hi), commit_self]
  · obtain ⟨t, ht, hlane, hothers, hframe⟩ := commit_upLane s hl Lane.transfer
    refine ⟨t, ht, fun hw => ?_, fun h0 hr hn => hlane.trans (transfer_untaken hx h0 hr hn), fun h0 hr hy => ⟨fun hk => hlane.trans (transfer_branch hx h0 hr hy hk),
      fun hk => hlane.trans (transfer_call hx h0 hr hy hk), fun hk a b r hs => hlane.trans (transfer_return hx h0 hr hy hk hs)⟩, hothers, hframe⟩
    rw [upLane_self (transfer_waits hx hw), commit_self] at ht
    cases ht
    rfl
  · obtain ⟨t, ht, hlane, hothers, hframe⟩ := commit_upLane s hl (fun ln => { ln.addFlight (s.lane l).ready (resultsOf (s.lane l).ready 5 3 [.ac 0 a]) [] with
      ready := (s.lane l).ready + 1, rep := if p.left ≤ 1 then none else some { p with left := p.left - 1, ac0 := some a } })
    rw [← iterate_mac h hrep hstr hp hu ho hd ha] at ht
    rw [addFlight_results h.inflight h.wb (List.cons_ne_nil _ _)] at hlane
    refine ⟨t, ht, ?_, ?_, ?_, hothers, hframe⟩
    · rw [hlane]
      exact landThrough_early (Nat.lt_succ_self _)
    · rw [hlane]
      exact landThrough_due
    · rw [hlane]
      have hmax : max (max (s.lane l).ready (s.lane l).endCyc) ((s.lane l).ready + 3) = max (s.lane l).endCyc ((s.lane l).ready + 3) := by omega
      simp only [hmax]
  · have hadds : AddsWords s l k run p st a b := ⟨h, hrep, hstr, hwords, hdef, hleft, ho, ha.symm, hb.symm, stringAddrOk_scratch hal han, stringAddrOk_scratch hbl hbn⟩
    obtain ⟨t, ht, hlane, hothers, hframe⟩ := commit_upLane s hl (fun _ => (s.lane l).addWords p st a b)
    rw [← hadds.step_eq] at ht
    rw [Lane.addWords, addFlight_results h.inflight h.wb (List.cons_ne_nil _ _)] at hlane
    refine ⟨t, ht, ?_⟩
    rw [hlane, hy]
    exact ⟨rfl, rfl, landThrough_due, ⟨_, rfl, rfl, rfl⟩, rfl, rfl, hothers, hframe⟩
  · obtain ⟨hlane, hrun, hlanes, htasks, hframe⟩ := landWb_left hw ht hs hg hl hk hr hfit
    exact ⟨_, commit_eq .., hlane, hrun, hlanes, htasks, hframe.countEdges s⟩

end Sys2Proof.Machine
end

section
/-! PROOFS. The comparator of a carriageway at a write-back of its trailing lane (03 R111 to R115). -/

namespace Sys2Proof.Machine

open Sys2Proof

variable {s : State} {l c b : Nat} {wb : Bool} {items : List Item} {reads : List Word}

theorem isTrailing_odd (hp : s.clu.single = false) (hodd : l % 2 = 1) : s.isTrailing l = true := by
  unfold State.isTrailing State.paired
  rw [hp, hodd]
  rfl

theorem itemDiff_self (l : List Item) : itemDiff l l = none := by
  induction l with
  | nil => rfl
  | cons i l ih => rw [itemDiff, if_pos rfl, ih]

/-- The comparator forgets what the trailing lane has met or passed in cycle `c`. -/
def State.passItems (s : State) (l c : Nat) (wb : Bool) : State := s.upItems l (fun q => q.filter (fun r => !(r.wb = wb && decide (r.cyc + 1 ≤ c))))

section
variable (hp : s.clu.single = false) (hl : l % 2 = 1) (hm : s.missedRec l c wb = none)
include hp hl hm

/-- A trailing lane that meets its leading lane's items goes on. -/
theorem compare_agrees (hd : itemDiff (s.leadRec l c wb).items items = none) : s.compare l c b wb items reads = s.passItems l c wb := by
  unfold State.compare
  simp only [State.paired, hp, hl, hm, hd, Bool.not_false, Bool.not_true, Bool.false_eq_true, if_false, show ¬ 1 = 0 from Nat.one_ne_zero]
  rfl

/-- The first difference is a divergence. -/
theorem compare_differs {d : Option Item × Option Item} (hd : itemDiff (s.leadRec l c wb).items items = some d) :
    s.compare l c b wb items reads = (s.passItems l c wb).itemDivergence l c b d := by
  unfold State.compare
  simp only [State.paired, hp, hl, hm, hd, Bool.not_false, Bool.not_true, Bool.false_eq_true, if_false, show ¬ 1 = 0 from Nat.one_ne_zero]
  rfl

end

theorem passItems_items (hl : l < 8) : vget (s.passItems l c wb).clu.items (carOf l) [] = (vget s.clu.items (carOf l) []).filter (fun r => !(r.wb = wb && decide (r.cyc + 1 ≤ c))) :=
  vget_vup_same (by unfold carOf; omega) _ _

/-! ### Agreement (03 R111, R112) -/

/-- The one record that the comparator holds is that of the cycle before. -/
theorem leadRec_of_single {r : IssueRec} (hq : vget s.clu.items (carOf l) [] = [r]) (hc : r.cyc + 1 = c) (hw : r.wb = wb) : s.leadRec l c wb = r := by
  simp [State.leadRec, hq, hc, hw]

theorem missedRec_of_single {r : IssueRec} (hq : vget s.clu.items (carOf l) [] = [r]) (hc : r.cyc + 1 = c) : s.missedRec l c wb = none := by
  simp [State.missedRec, hq, hc]

/-- A write-back that agrees leaves the lane; a trailing lane writes no record. -/
theorem landWb_agrees {k : Nat} {w : Writeback} {ws : List Writeback} (hw : (s.lane l).wb = w :: ws) (ht : (s.lane l).task = some k) (hp : s.clu.single = false) (hodd : l % 2 = 1)
    {r : IssueRec} (hc : r.cyc + 1 = w.cyc) (hr : r.wb = true) (hitems : r.items = wbItems w k) (hq : vget s.clu.items (carOf l) [] = [r]) : s.landWb l .none = (s.dropWb l ws).passItems l w.cyc true := by
  have hlead : (s.dropWb l ws).leadRec l w.cyc true = r := leadRec_of_single hq hc hr
  have hcmp : (s.dropWb l ws).compare l w.cyc (s.lane l).pc true (wbItems w k) [] = (s.dropWb l ws).passItems l w.cyc true :=
    compare_agrees hp hodd (missedRec_of_single hq hc) (by rw [hlead, hitems, itemDiff_self])
  rw [landWb_eq hw ht hcmp, isTrailing_odd (s := (s.dropWb l ws).passItems l w.cyc true) hp hodd]
  rfl

/-- The comparator then holds nothing of the cycle before. -/
theorem passItems_of_single (hl : l < 8) {r : IssueRec} (hq : vget s.clu.items (carOf l) [] = [r]) (hc : r.cyc + 1 = c) (hr : r.wb = wb) : vget (s.passItems l c wb).clu.items (carOf l) [] = [] := by
  rw [passItems_items hl, hq]
  simp [hr, Nat.lt_of_succ_le (Nat.le_of_eq hc)]

/-! ### Divergence (03 R113 to R115) -/

/-- The items of a write-back are stores. -/
theorem wbItems_head_store {w : Writeback} {k : Nat} {i : Item} (h : (wbItems w k).head? = some i) : ∃ a m d, i = .store a m d k := by
  unfold wbItems at h
  split at h
  all_goals
    cases h
    exact ⟨_, _, _, rfl⟩

/-- A store that the leading lane did not make is a divergence of kind 1. -/
theorem itemDivergence_store (s : State) (l c b a m k : Nat) (d : Word) :
    s.itemDivergence l c b (none, some (.store a m d k)) = s.divergence c (carOf l) 1 0 (Item.store a m d k).encode := rfl

theorem governs_of_role (h : s.csw.role = .solo ∨ s.csw.role = .active) : s.governs = true := decide_eq_true h

/-- A write-back of which the leading lane wrote nothing diverges. -/
theorem landWb_diverges {k : Nat} {w : Writeback} {ws : List Writeback} (hw : (s.lane l).wb = w :: ws) (ht : (s.lane l).task = some k) (hp : s.clu.single = false) (hodd : l % 2 = 1)
    (hq : vget s.clu.items (carOf l) [] = []) {i : Item} (hi : (wbItems w k).head? = some i)
    (hrole : s.csw.role = .solo ∨ s.csw.role = .active) :
    s.landWb l .none = ((s.dropWb l ws).passItems l w.cyc true).divergence w.cyc (carOf l) 1 0 i.encode := by
  obtain ⟨a, m, d, rfl⟩ := wbItems_head_store hi
  obtain ⟨is, his⟩ := List.head?_eq_some_iff.mp hi
  have hmissed : (s.dropWb l ws).missedRec l w.cyc true = none := by
    show ((vget s.clu.items (carOf l) []).find? _) = none
    rw [hq]
    rfl
  have hlead : ((s.dropWb l ws).leadRec l w.cyc true).items = [] := by
    show (((vget s.clu.items (carOf l) []).find? _).getD _).items = []
    rw [hq]
    rfl
  have hdiff : itemDiff ((s.dropWb l ws).leadRec l w.cyc true).items (wbItems w k) = some (none, some (.store a m d k)) := by
    rw [hlead, his]
    rfl
  have hcmp := compare_differs (s := s.dropWb l ws) (b := (s.lane l).pc) (reads := []) hp hodd hmissed hdiff
  rw [itemDivergence_store] at hcmp
  obtain ⟨-, -, -, hkeep, -⟩ := divergence_left ((s.dropWb l ws).passItems l w.cyc true) hrole (governs_of_role hrole) w.cyc (carOf l) 1 0 (Item.store a m d k).encode
  rw [landWb_eq hw ht hcmp, isTrailing_odd (hkeep.trans hp) hodd]
  rfl

/-- Settles O6: the trailing lane's write-back by whether the leading lane made it. -/
theorem theComparatorChecksWriteBacks : Obligations.TheComparatorChecksWriteBacks := by
  intro s l k w ws r i hp hg hl hodd hw ht
  refine ⟨fun hc hr hitems hq => ?_, fun hq hi hrole => ?_⟩
  · refine ⟨countEdges s ((s.dropWb l ws).passItems l w.cyc true), ?_, upLane_same s hl _, fun j hj => upLane_ne s hj _, passItems_of_single (s := s.dropWb l ws) hl hq hc hr, hg,
      (State.upItems_keep (State.upLane_keep (Keep.refl s) _ _) _ _).frame.countEdges s⟩
    rw [← commit_eq, ← landWb_agrees hw ht hp hodd hc hr hitems hq]
    rfl
  · have e := landWb_diverges hw ht hp hodd hq hi hrole
    have hk : Keep { clk := true, clu := true, sto := true, csw := true, fio := true, net := true, can := true, host := true, wdg := true, evr := true, trc := true } s (s.landWb l .none) :=
      e ▸ State.divergence_keep (State.upItems_keep (State.upLane_keep (Keep.refl s) _ _) _ _) _ _ _ _ _
    obtain ⟨hstop, hrec, hrun, -, hsolo, hactive⟩ := divergence_left ((s.dropWb l ws).passItems l w.cyc true) hrole (governs_of_role hrole) w.cyc (carOf l) 1 0 i.encode
    rw [← e] at hstop hrec hrun hsolo hactive
    exact ⟨_, commit_eq .., hstop, hrun, hrec, hsolo, hactive, hk.frame.tasks rfl, hk.frame.countEdges s⟩

end Sys2Proof.Machine
end

section
/-! PROOFS. The loading and the check of an image (06 R190 to R193): what the shared operations of the loader leave, and a segment by the load that it meets. -/

namespace Sys2Proof.Machine

open Sys2Proof

variable {s : State}

/-! ### The trace ring's capacity (14 R423) -/

@[simp] theorem trimTrace_cap (s : State) : s.trimTrace.trc.cap = s.trc.cap := by
  unfold State.trimTrace
  dsimp only
  split
  · rw [State.trcCause_trc]
    rfl
  · rfl

theorem recap_keeps_trace_alone (s : State) : Keep { evr := true, trc := true } s s.recap := State.recap_keep (Keep.refl s)

@[simp] theorem recap_ldr (s : State) : s.recap.ldr = s.ldr := (recap_keeps_trace_alone s).frame.ldr rfl
@[simp] theorem recap_csw (s : State) : s.recap.csw = s.csw := (recap_keeps_trace_alone s).frame.csw rfl
@[simp] theorem recap_dict (s : State) : s.recap.dict = s.dict := (recap_keeps_trace_alone s).frame.dict rfl

/-- An image that is staged, and for which no swap is prepared, takes 16 MiB of the ring. -/
theorem recap_cap_staged (hc : s.ldr.converting = false) (hn : s.ldr.state ≠ 0) : s.recap.trc.cap = 2 ^ 31 - 2 ^ 24 := by
  unfold State.recap
  dsimp only
  rw [hc, if_neg Bool.false_ne_true, if_pos hn]
  split
  · rw [State.trcCause_trc]
    exact trimTrace_cap _
  · exact trimTrace_cap _

/-! ### Staging (06 R190) -/

@[simp] theorem dropStaged_ldr (s : State) : s.dropStaged.ldr = { s.ldr with state := 0, staged := [], stagedDigest := zeros 32 } := recap_ldr _
@[simp] theorem dropStaged_csw (s : State) : s.dropStaged.csw = s.csw := recap_csw _
@[simp] theorem dropStaged_dict (s : State) : s.dropStaged.dict = { s.dict with pubPend := [] } := recap_dict _

/-- The bytes `b` are staged, all of the image or its beginning. -/
def State.stagedTo (s : State) (b : List Byte) (last : Bool) : State :=
  (s.upLdr (fun l => { l with
    state := if last then 6 else 1, staged := b, stagedDigest := if last then padTo 32 (slice b 160 32) else zeros 32 })).recap

@[simp] theorem stagedTo_ldr (s : State) (b : List Byte) (last : Bool) : (s.stagedTo b last).ldr = { s.ldr with
    state := if last then 6 else 1, staged := b, stagedDigest := if last then padTo 32 (slice b 160 32) else zeros 32 } := recap_ldr _

@[simp] theorem stagedTo_dict (s : State) (b : List Byte) (last : Bool) : (s.stagedTo b last).dict = s.dict := recap_dict _

theorem stagedTo_cap (hc : s.ldr.converting = false) (b : List Byte) (last : Bool) : (s.stagedTo b last).trc.cap = 2 ^ 31 - 2 ^ 24 :=
  recap_cap_staged hc (by cases last <;> simp)

theorem stagedTo_keep (s : State) (b : List Byte) (last : Bool) : Keep { ldr := true, evr := true, trc := true } s (s.stagedTo b last) :=
  State.recap_keep ((Keep.refl s).upLdr id)

theorem stageMore_fits {data : List Byte} (h : s.ldr.staged.length + data.length ≤ 16777216) (last : Bool) :
    (s.stageMore data last).state = s.stagedTo (s.ldr.staged ++ data) last := by
  unfold State.stageMore
  dsimp only
  rw [if_neg (by rw [List.length_append]; omega)]
  rfl

theorem stageMore_tooLong {data : List Byte} (h : 16777216 < s.ldr.staged.length + data.length) (last : Bool) :
    (s.stageMore data last).state = s.dropStaged := by
  unfold State.stageMore
  dsimp only
  rw [if_pos (by rw [List.length_append]; exact h)]
  rfl

/-! ### A segment by the load that it meets (06 R190) -/

/-- A new load begins: nothing is staged and LOAD_RESULT is clear. -/
def State.newLoad (s : State) : State := s.dropStaged.upLdr (fun l => { l with result := zeros 16 })

theorem newLoad_ldr (s : State) : s.newLoad.ldr = { s.ldr with state := 0, staged := [], stagedDigest := zeros 32, result := zeros 16 } := by
  unfold State.newLoad
  rw [State.upLdr_ldr, dropStaged_ldr]

theorem newLoad_dict (s : State) : s.newLoad.dict = { s.dict with pubPend := [] } := dropStaged_dict s

theorem newLoad_keep (s : State) : Keep { ldr := true, dict := true, evr := true, trc := true } s s.newLoad :=
  (State.dropStaged_keep (Keep.refl s)).upLdr id

section
variable (hr : s.pwr.role ≠ .station) (data : List Byte) (last : Bool)
include hr

theorem imageSegment_first (h1 : s.ldr.state ≠ 1) (h2 : s.ldr.state ≠ 2) (h5 : s.ldr.state ≠ 5) :
    s.imageSegment 0 data last = s.newLoad.stageMore data last := by
  unfold State.imageSegment
  rw [if_neg hr, if_neg (by simp [h2, h5]), if_neg h1, if_neg (by simp)]
  rfl

theorem imageSegment_continues (h1 : s.ldr.state = 1) : s.imageSegment s.ldr.staged.length data last = s.stageMore data last := by
  unfold State.imageSegment
  rw [if_neg hr, if_neg (by simp [h1]), if_pos h1, if_pos rfl]

/-- A segment elsewhere than at the beginning and at the end of the staged bytes ends the load. -/
theorem imageSegment_strays {off : Nat} (h1 : s.ldr.state = 1) (hl : off ≠ s.ldr.staged.length) (h0 : off ≠ 0) :
    (s.imageSegment off data last).state = s.dropStaged := by
  unfold State.imageSegment
  rw [if_neg hr, if_neg (by simp [h1]), if_pos h1, if_neg hl, if_neg h0]
  rfl

/-- A segment during a check or a pending installation is refused. -/
theorem imageSegment_busy {off : Nat} (h : s.ldr.state = 2 ∨ s.ldr.state = 5) : (s.imageSegment off data last).state = s := by
  unfold State.imageSegment
  rw [if_neg hr, if_pos h]
  rfl

/-- A second beginning of a load is refused. -/
theorem imageSegment_again (h1 : s.ldr.state = 1) (hn : s.ldr.staged ≠ []) : (s.imageSegment 0 data last).state = s := by
  unfold State.imageSegment
  rw [if_neg hr, if_neg (by simp [h1]), if_pos h1, if_neg (fun h => hn (List.length_eq_zero_iff.mp h.symm)), if_pos rfl]
  rfl

/-- A load does not begin within the image. -/
theorem imageSegment_within {off : Nat} (h1 : s.ldr.state ≠ 1) (h0 : off ≠ 0) : (s.imageSegment off data last).state = s := by
  unfold State.imageSegment
  rw [if_neg hr, if_neg h1, if_pos h0]
  split <;> rfl

end

/-- IMAGE_LOAD_SEGMENT answers the state that its segment leaves. -/
theorem exec_imageLoadSegment {u : State} {off : Nat} {data : List Byte} {last : Bool} (h : (s.imageSegment off data last).state = u) :
    exec (.imageLoadSegment off data last) s = commit s u := by
  rw [← h]
  rfl

/-! ### Answers -/

/-- A command whose effect is no change answers the same state. -/
theorem answer_self {c : Instr} {u : State} (h : exec c s = commit s u) (hu : u = s) : exec c s = .next s := by
  rw [h, hu, commit_self]

/-- What a command does that changes the loader alone. -/
theorem answer_ldr {c : Instr} {u : State} {k : Loader → Loader} (h : exec c s = commit s u) (hu : u = s.upLdr k) (hk : (k s.ldr).conv = s.ldr.conv) :
    ∃ t, exec c s = .next t ∧ t.ldr = k s.ldr ∧ Frame { ldr := true } s t := by
  subst hu
  exact ⟨_, h, rfl, ((Keep.refl s).upLdr (fun hw => hk ▸ hw)).frame.countEdges s⟩

/-! ### The check (06 R190, R191) -/

theorem loadCheck_begins (h : s.ldr.state = 3 ∨ s.ldr.state = 4 ∨ s.ldr.state = 6) : s.loadCheck.state = s.upLdr (fun l => { l with state := 2 }) := by
  unfold State.loadCheck
  rw [if_neg (by omega), if_pos h]
  rfl

theorem loadCheck_refused (h3 : s.ldr.state ≠ 3) (h4 : s.ldr.state ≠ 4) (h6 : s.ldr.state ≠ 6) : s.loadCheck.state = s := by
  unfold State.loadCheck
  rw [if_neg (not_or.mpr ⟨h3, not_or.mpr ⟨h4, h6⟩⟩)]
  split <;> rfl

theorem checkDone_ends (h : s.ldr.state = 2) {r : LoadRes} (hr : r = checkImage s.ldr.staged s.clk.p (s.storedNat 0x4000 0 1000) s.clk.lead s.ldr.img) :
    s.checkDone = s.upLdr (fun l => { l with state := if r.code = 0 then 3 else 4, result := r.encode }) := by
  unfold State.checkDone
  rw [if_neg (not_not_intro h), hr]

theorem checkDone_idle (h : s.ldr.state ≠ 2) : s.checkDone = s := if_pos h

/-! ### The statement -/

/-- Settles O7: a segment by the load that it meets, the check by the state that it finds. -/
theorem imagesAreStagedAndChecked : Obligations.ImagesAreStagedAndChecked := by
  intro s off data last hr
  refine ⟨fun h0 h1 h2 h5 hlen => ?_, fun h1 hoff hlen => ?_, fun h1 hend => ?_, fun hidle => ?_, fun h => answer_ldr rfl (loadCheck_begins h) rfl,
    fun h3 h4 h6 => answer_self rfl (loadCheck_refused h3 h4 h6), fun r hres h => answer_ldr rfl (checkDone_ends h hres) rfl, fun h => answer_self rfl (checkDone_idle h)⟩
  · subst h0
    have hstaged : s.newLoad.ldr.staged = [] := by rw [newLoad_ldr]
    have hstate : (s.imageSegment 0 data last).state = s.newLoad.stagedTo data last := by
      rw [imageSegment_first hr data last h1 h2 h5, stageMore_fits (by rw [hstaged]; simpa using hlen), hstaged, List.nil_append]
    refine ⟨_, exec_imageLoadSegment hstate, ?_, ?_, fun hc => stagedTo_cap (by rw [newLoad_ldr]; exact hc) data last,
      ((newLoad_keep s).frame.comp (stagedTo_keep s.newLoad data last).frame rfl rfl).countEdges s⟩
    · exact (stagedTo_ldr ..).trans (by rw [newLoad_ldr])
    · exact (stagedTo_dict ..).trans (newLoad_dict s)
  · subst hoff
    have hstate := (congrArg Ans.state (imageSegment_continues hr data last h1)).trans (stageMore_fits hlen last)
    exact ⟨_, exec_imageLoadSegment hstate, stagedTo_ldr .., (stagedTo_keep ..).frame.countEdges s⟩
  · have hstate : (s.imageSegment off data last).state = s.dropStaged := by
      rcases hend with ⟨hl, h0⟩ | ⟨hl, hlong⟩
      · exact imageSegment_strays hr data last h1 hl h0
      · rw [hl, imageSegment_continues hr data last h1, stageMore_tooLong hlong]
    exact ⟨_, exec_imageLoadSegment hstate, dropStaged_ldr s, (State.dropStaged_keep (Keep.refl s)).frame.countEdges s⟩
  · have hstate : (s.imageSegment off data last).state = s := by
      rcases hidle with h2 | h5 | ⟨h1, h0, hn⟩ | ⟨h1, h0⟩
      · exact imageSegment_busy hr data last (.inl h2)
      · exact imageSegment_busy hr data last (.inr h5)
      · subst h0
        exact imageSegment_again hr data last h1 hn
      · exact imageSegment_within hr data last h1 h0
    exact answer_self (exec_imageLoadSegment hstate) rfl

end Sys2Proof.Machine
end

section
/-! PROOFS. Installation, discarding and the conversion of a swap (06 R190, R191, R196, 07 R235, R236, R238). -/

namespace Sys2Proof.Machine

open Sys2Proof

variable {s : State}

/-! ### LOAD_CMD 2 (06 R190, R191) -/

theorem loadInstall_unaccepted (h : s.ldr.state ≠ 3) : s.loadInstall.state = s := by
  unfold State.loadInstall
  rw [if_pos h]
  split <;> rfl

section
variable (h : s.ldr.state = 3)
include h

theorem loadInstall_solo (hr : s.csw.role = .solo) : s.loadInstall.state = s.upLdr (fun l => { l with state := 5 }) := by
  unfold State.loadInstall
  rw [if_neg (by omega), if_neg (not_not_intro h), hr]
  rfl

theorem loadInstall_standby (hr : s.csw.role = .standby) :
    s.loadInstall.state = (s.upLdr (fun l => { l with state := 5, converting := true })).recap := by
  unfold State.loadInstall
  rw [if_neg (by omega), if_neg (not_not_intro h), hr]
  rfl

/-- A role that may not install refuses with code 22. -/
theorem loadInstall_refused (hr : s.csw.role = .active ∨ s.csw.role = .syncing ∨ s.csw.role = .failed) : s.loadInstall.state = s.roleRefuse 4 := by
  unfold State.loadInstall
  rw [if_neg (by omega), if_neg (not_not_intro h)]
  rcases hr with hr | hr | hr <;>
  · rw [hr]
    rfl

end

@[simp] theorem roleRefuse_ldr (s : State) (code : Nat) : (s.roleRefuse code).ldr = { s.ldr with result := (LoadRes.fail 22).encode } := rfl

/-! ### Abandoned swaps (07 R236, R238) -/

theorem abandonSwap_idle (h : s.ldr.converting = false) (code term gap : Nat) : s.abandonSwap code term gap = s := if_neg (by rw [h]; decide)

theorem abandonSwap_ldr (h : s.ldr.converting = true) (code term gap : Nat) : (s.abandonSwap code term gap).ldr = { s.ldr with
    converting := false, swapReady := false, conv := [], state := 3, swapReport := swapReportOf s.ldr.digest s.ldr.stagedDigest 0 term code gap none } := by
  unfold State.abandonSwap
  rw [if_pos h, State.cswCause_ldr, recap_ldr]
  rfl

theorem abandonSwap_cause (h : s.ldr.converting = true) (code term gap : Nat) : (s.abandonSwap code term gap).csw.cause.getLsbD 10 = true := by
  unfold State.abandonSwap
  rw [if_pos h, State.cswCause_csw]
  exact setBit_getLsbD _ _ _ _ (by decide)

/-- The report of a swap abandoned by command: both digests, and the code 1 among zeros (log 28). -/
theorem swapReportOf_byCommand (old new : List Byte) :
    swapReportOf old new 0 0 1 0 none = padTo 32 old ++ padTo 32 new ++ zeros 10 ++ [1] ++ zeros 21 := by
  have hzeros : leBytes 8 0 ++ (leBytes 2 0 ++ (leBytes 1 1 ++ (zeros 13 ++ leBytes 4 0 ++ zeros 4))) = zeros 10 ++ ([1] ++ zeros 21) := by decide
  unfold swapReportOf
  simp only [List.append_assoc] at hzeros ⊢
  rw [hzeros]

/-! ### LOAD_CMD 3 (06 R190) -/

theorem loadDiscard_state (s : State) : s.loadDiscard.state = (s.abandonSwap 1 0 0).dropStaged := rfl

/-- Whatever was under way, nothing is staged after a discard, and the installed image and the result stay. -/
theorem loadDiscard_left (s : State) : s.loadDiscard.state.ldr.state = 0 ∧ s.loadDiscard.state.ldr.staged = [] ∧ s.loadDiscard.state.ldr.stagedDigest = zeros 32 ∧
    s.loadDiscard.state.ldr.converting = false ∧ s.loadDiscard.state.dict = { s.dict with pubPend := [] } ∧ s.loadDiscard.state.ldr.img = s.ldr.img ∧
    s.loadDiscard.state.ldr.digest = s.ldr.digest ∧ s.loadDiscard.state.ldr.result = s.ldr.result := by
  have hdict : (s.abandonSwap 1 0 0).dict = s.dict :=
    (State.abandonSwap_keep (L := { ldr := true, csw := true, evr := true, trc := true }) (Keep.refl s) 1 0 0).frame.dict rfl
  rw [loadDiscard_state, dropStaged_dict, hdict, dropStaged_ldr]
  cases h : s.ldr.converting with
  | true =>
    rw [abandonSwap_ldr h]
    exact ⟨rfl, rfl, rfl, rfl, rfl, rfl, rfl, rfl⟩
  | false =>
    rw [abandonSwap_idle h]
    exact ⟨rfl, rfl, rfl, h, rfl, rfl, rfl, rfl⟩

/-- A discard abandons the swap that was being prepared. -/
theorem loadDiscard_abandons (h : s.ldr.converting = true) : s.loadDiscard.state.ldr.swapReady = false ∧
    s.loadDiscard.state.ldr.swapReport = padTo 32 s.ldr.digest ++ padTo 32 s.ldr.stagedDigest ++ zeros 10 ++ [1] ++ zeros 21 ∧
    s.loadDiscard.state.csw.cause.getLsbD 10 = true := by
  rw [loadDiscard_state, dropStaged_ldr, dropStaged_csw, abandonSwap_ldr h]
  exact ⟨rfl, swapReportOf_byCommand .., abandonSwap_cause h ..⟩

/-- With no swap in preparation a discard drops what is staged. -/
theorem loadDiscard_drops (h : s.ldr.converting = false) : s.loadDiscard.state = s.dropStaged := by
  rw [loadDiscard_state, abandonSwap_idle h]

/-! ### SWAP_READY (07 R235, R236) -/

@[simp] theorem corrected_lmem (s : State) (m : MemId) (a : Nat) : (s.corrected m a).sto.lmem = s.sto.lmem := by
  unfold State.corrected
  dsimp only
  split <;> simp

/-- The corrections that a conversion's reads make. -/
def State.countSoft (s : State) (ecc : List Ecc) : State := ecc.foldl (fun acc x => if x.hard then acc else acc.corrected x.mem x.addr) s

theorem countSoft_keep (s : State) (ecc : List Ecc) : Keep { sto := true, host := true, evr := true } s (s.countSoft ecc) :=
  Keep.foldl (fun _ _ h => Keep.ite h (State.corrected_keep h _ _)) ecc (Keep.refl s)

theorem countSoft_lmem (s : State) (ecc : List Ecc) : (s.countSoft ecc).sto.lmem = s.sto.lmem := by
  unfold State.countSoft
  induction ecc generalizing s with
  | nil => rfl
  | cons x rest ih =>
    rw [List.foldl_cons, ih]
    split
    · rfl
    · exact corrected_lmem ..

theorem becomeReady_idle (h : s.ldr.converting = false ∨ s.ldr.swapReady = true ∨ s.csw.role ≠ .standby) (ecc : List Ecc) : s.becomeReady ecc = s :=
  if_pos (by rcases h with h | h | h <;> simp [h])

/-- A conversion whose reads find no uncorrectable error ends with the converted state. -/
theorem becomeReady_converts (hc : s.ldr.converting = true) (hw : s.ldr.swapReady = false) (hr : s.csw.role = .standby) {ecc : List Ecc}
    (hsoft : ∀ x, x ∈ ecc → x.hard = false) :
    s.becomeReady ecc = (s.countSoft ecc).upLdr (fun l => { l with swapReady := true, conv := s.stagedImage.convert s.sto.lmem }) := by
  have hnone : ecc.find? (·.hard) = none := List.find?_eq_none.mpr (fun x hx => by simp [hsoft x hx])
  have hldr : (s.countSoft ecc).ldr = s.ldr := (countSoft_keep s ecc).frame.ldr rfl
  have himage : (s.countSoft ecc).stagedImage = s.stagedImage := by
    unfold State.stagedImage
    rw [hldr]
  unfold State.becomeReady
  rw [if_neg (by simp [hc, hw, hr]), hnone]
  show (s.countSoft ecc).upLdr (fun l => { l with swapReady := true, conv := (s.countSoft ecc).stagedImage.convert (s.countSoft ecc).sto.lmem }) = _
  rw [himage, countSoft_lmem]

/-! ### The statement -/

/-- Settles O8: LOAD_CMD 2 by the role, LOAD_CMD 3 by whether a swap was being prepared, and the end of a conversion. -/
theorem installationDiscardAndConversion : Obligations.InstallationDiscardAndConversion := by
  intro s ecc
  refine ⟨fun h hr => answer_ldr rfl (loadInstall_solo h hr) rfl, fun h hr => ?_, fun h hr => ?_, fun h => answer_self rfl (loadInstall_unaccepted h), ?_,
    fun hc hw hr hsoft => ?_, fun h => answer_self rfl (becomeReady_idle h ecc)⟩
  · refine ⟨_, commit_eq .., ?_⟩
    rw [loadInstall_standby h hr]
    exact ⟨(countEdges_ldr ..).trans (recap_ldr _), (State.recap_keep ((Keep.refl s).upLdr id)).frame.countEdges s⟩
  · refine ⟨_, commit_eq .., ?_⟩
    rw [loadInstall_refused h hr]
    exact ⟨roleRefuse_ldr s 4, (State.roleRefuse_keep (Keep.refl s) 4).frame.countEdges s⟩
  · obtain ⟨hstate, hstaged, hdigest, hconv, hdict, himg, hold, hresult⟩ := loadDiscard_left s
    refine ⟨_, commit_eq .., hstate, hstaged, hdigest, hconv, hdict, himg, hold, hresult, fun hc => ?_, fun hc => ?_⟩
    · obtain ⟨hready, hreport, hcause⟩ := loadDiscard_abandons hc
      exact ⟨hready, hreport, hcause, (State.loadDiscard_keep (Keep.refl s)).frame.countEdges s⟩
    · rw [loadDiscard_drops hc]
      exact ⟨(congrArg Loader.swapReport (dropStaged_ldr s) : s.dropStaged.ldr.swapReport = _), (State.dropStaged_keep (Keep.refl s)).frame.countEdges s⟩
  · have hsoftKeep := countSoft_keep s ecc
    have hkeep : Keep { ldr := true, sto := true, host := true, evr := true } (s.countSoft ecc)
        ((s.countSoft ecc).upLdr (fun l => { l with swapReady := true, conv := s.stagedImage.convert s.sto.lmem })) := (Keep.refl _).upLdr (fun _ => convert_wf _ _)
    refine ⟨_, commit_eq .., ?_⟩
    rw [becomeReady_converts hc hw hr hsoft]
    refine ⟨?_, countSoft_lmem s ecc, fun hnil => ?_, (hsoftKeep.frame.comp hkeep.frame rfl rfl).countEdges s⟩
    · show { (s.countSoft ecc).ldr with swapReady := true, conv := s.stagedImage.convert s.sto.lmem } = _
      rw [hsoftKeep.frame.ldr rfl]
    · subst hnil
      exact ⟨rfl, rfl⟩

end Sys2Proof.Machine
end

section
/-! PROOFS. Reduced and the return to Run (16 R469, 06 R179, R180, 01 R23, 18 R496): the power state, the wide lane domains, and the table by role and image. -/

namespace Sys2Proof.Machine

open Sys2Proof

variable {s : State}

/-! ### What role and image make of a change -/

theorem executes_congr {u : State} (hrole : u.pwr.role = s.pwr.role) (hcsw : u.csw = s.csw) (hsto : u.sto = s.sto) (hclu : u.clu = s.clu) : u.executes = s.executes := by
  unfold State.executes State.governs
  rw [hrole, hcsw, hsto, hclu]

theorem minSetWide_congr {u : State} (h : u.ldr = s.ldr) : u.minSetWide = s.minSetWide := by
  unfold State.minSetWide
  rw [h]

theorem hasReduced_congr {u : State} (h : u.ldr = s.ldr) : u.hasReduced = s.hasReduced := by
  unfold State.hasReduced
  rw [h]

@[simp] theorem wideOff_clk (s : State) : s.wideOff.clk = s.clk := rfl
@[simp] theorem wideOff_csw (s : State) : s.wideOff.csw = s.csw := rfl
@[simp] theorem wideOff_sto (s : State) : s.wideOff.sto = s.sto := rfl
@[simp] theorem wideOff_host (s : State) : s.wideOff.host = s.host := rfl
@[simp] theorem wideOff_pwr (s : State) : s.wideOff.pwr = { s.pwr with domains := s.pwr.domains &&& 0xFCF#12 } := rfl

/-! ### The change of the power state (16 R469) -/

/-- The power state and its domains change at the instant `t`, and SYS_POWER_CAUSE bit `b` is set. -/
def State.powerChange (s : State) (t b : Nat) (f : Pwr → Pwr) : State := ((s.reach t).upPwr f).powerCause b

/-- `u` is `s` with the power block `p` and SYS_POWER_CAUSE bit `b`: what the table follows is as before. -/
structure PowerChanged (s u : State) (b : Nat) (p : Pwr) : Prop where
  keep : Keep { clk := true, host := true, evr := true, pwr := true } s u
  pwr : u.pwr = p
  cause : u.host.powerCause = setBit s.host.powerCause b true
  running : u.clk.running = s.clk.running
  role : u.pwr.role = s.pwr.role

theorem powerChange_changed (s : State) (t b : Nat) {f : Pwr → Pwr} (h : (f s.pwr).role = s.pwr.role) : PowerChanged s (s.powerChange t b f) b (f s.pwr) where
  keep := State.powerCause_keep ((State.reach_keep (Keep.refl s) t).upPwr f) b
  pwr := State.powerCause_pwr ..
  cause := congrArg HostSt.powerCause (State.powerCause_host ..)
  running := by
    unfold State.powerChange
    rw [State.powerCause_clk]
    rfl
  role := (congrArg Pwr.role (State.powerCause_pwr ((s.reach t).upPwr f) b)).trans h

namespace PowerChanged

variable {u : State} {b : Nat} {p : Pwr} (h : PowerChanged s u b p)
include h

theorem sto : u.sto = s.sto := h.keep.frame.sto rfl
theorem csw : u.csw = s.csw := h.keep.frame.csw rfl
theorem hasReduced : u.hasReduced = s.hasReduced := hasReduced_congr (h.keep.frame.ldr rfl)
theorem minSetWide : u.minSetWide = s.minSetWide := minSetWide_congr (h.keep.frame.ldr rfl)
theorem executes : u.executes = s.executes := executes_congr h.role h.csw h.sto (h.keep.frame.clu rfl)

theorem idle (hx : s.executes = false ∨ s.clk.running = false) : u.executes = false ∨ u.clk.running = false :=
  hx.imp h.executes.trans h.running.trans

end PowerChanged

/-! ### The table (06 R179, R180, 18 R496) -/

/-- Without a reduced table no switch takes place. -/
theorem requestTable_none (h : s.hasReduced = false) (reduced : Bool) : s.requestTable reduced = if reduced then s.wideOff else s := by
  unfold State.requestTable
  rw [if_pos (by rw [h]; rfl)]

section
variable (h : s.hasReduced = true)
include h

/-- A unit that executes on one table requests the other. -/
theorem requestTable_requests (hx : s.executes = true) (hc : s.clk.running = true) (hs : s.sto.switching = none) {reduced : Bool} (ht : s.sto.tableReduced = !reduced) :
    s.requestTable reduced = s.upSto (fun x => { x with switching := some reduced, switchStarted := false }) := by
  unfold State.requestTable
  rw [if_neg (by simp [h]), if_pos (by simp [hx, hc]), hs, ht]
  exact if_neg (by cases reduced <;> decide)

/-- A unit that executes nothing takes the table at once. -/
theorem requestTable_switches (hx : s.executes = false ∨ s.clk.running = false) (reduced : Bool) :
    s.requestTable reduced = if reduced then (s.upSto (fun x => { x with tableReduced := true, switching := none, switchBack := false })).wideOff
      else s.upSto (fun x => { x with tableReduced := false, switching := none, switchBack := false }) := by
  unfold State.requestTable
  rw [if_neg (by simp [h]), if_neg (by rcases hx with hx | hx <;> simp [hx])]
  cases reduced <;> rfl

end

/-! ### A minimum lane set that Reduced does not power (06 R180) -/

theorem laneSetRecord_keeps (s : State) : Keep { dict := true, evr := true } s s.laneSetRecord := State.laneSetRecord_keep (Keep.refl s)

/-- The state in which a unit that governs ends its work: it releases nothing more. -/
def State.laneSetLost (s : State) : State := s.laneSetRecord.upSto (fun x => { x with noRelease := true })

theorem laneSetLost_csw (s : State) : s.laneSetLost.csw = s.csw := (laneSetRecord_keeps s).frame.csw rfl

theorem laneSetGone_active (h : s.csw.role = .active) : s.laneSetGone = s.laneSetLost.enterFailed 2 := by
  have hrole : s.laneSetRecord.csw.role = .active := by rw [(laneSetRecord_keeps s).frame.csw rfl, h]
  unfold State.laneSetGone
  dsimp only
  rw [if_pos (governs_of_role (.inr hrole))]
  exact if_pos hrole

theorem laneSetGone_solo (h : s.csw.role = .solo) : s.laneSetGone = s.laneSetLost.failSafeHalt := by
  have hrole : s.laneSetRecord.csw.role = .solo := by rw [(laneSetRecord_keeps s).frame.csw rfl, h]
  unfold State.laneSetGone
  dsimp only
  rw [if_pos (governs_of_role (.inl hrole)), State.upSto_csw, hrole]
  rfl

theorem laneSetGone_waits (ha : s.csw.role ≠ .active) (hs : s.csw.role ≠ .solo) : s.laneSetGone = s.laneSetRecord := by
  have hgoverns : s.laneSetRecord.governs = false := by
    unfold State.governs
    rw [(laneSetRecord_keeps s).frame.csw rfl]
    simp [ha, hs]
  unfold State.laneSetGone
  dsimp only
  rw [hgoverns]
  rfl

theorem laneSetGone_pwr (s : State) : s.laneSetGone.pwr = s.pwr :=
  (State.laneSetGone_keep (L := { clk := true, clu := true, sto := true, csw := true, fio := true, net := true, can := true, dict := true, host := true, wdg := true, evr := true, trc := true })
    (Keep.refl s)).frame.pwr rfl

/-- An ACTIVE unit without its lane set fails with reason 2. -/
theorem laneSetGone_active_left (h : s.csw.role = .active) : s.laneSetGone.csw.role = .failed ∧ s.laneSetGone.csw.failReason = 2 ∧ s.laneSetGone.csw.driversOff = true ∧
    s.laneSetGone.clk.running = false ∧ s.laneSetGone.sto.noRelease = true := by
  rw [laneSetGone_active h]
  obtain ⟨hrole, hreason, hoff, -, hrun, -⟩ := enterFailed_left s.laneSetLost 2
  obtain ⟨_, _, _, hsto⟩ := enterFailed_sto s.laneSetLost 2
  exact ⟨hrole, hreason, hoff, hrun, by rw [hsto]; rfl⟩

/-- A SOLO unit without its lane set halts. -/
theorem laneSetGone_solo_left (h : s.csw.role = .solo) : s.laneSetGone.sto.halted = true ∧ s.laneSetGone.sto.noRelease = true ∧ s.laneSetGone.csw.role = .solo := by
  rw [laneSetGone_solo h]
  have hcsw : s.laneSetLost.failSafeHalt.csw = s.laneSetLost.csw :=
    (State.failSafeHalt_keep (L := { clk := true, clu := true, sto := true, fio := true, can := true, host := true, evr := true, trc := true }) (Keep.refl _)).frame.csw rfl
  obtain ⟨_, _, hsto⟩ := failSafeHalt_sto s.laneSetLost
  exact ⟨by rw [hsto], by rw [hsto]; rfl, by rw [hcsw, laneSetLost_csw, h]⟩

theorem laneSetGone_waits_left (ha : s.csw.role ≠ .active) (hs : s.csw.role ≠ .solo) : s.laneSetGone.csw.role = s.csw.role ∧ s.laneSetGone.sto = s.sto := by
  rw [laneSetGone_waits ha hs]
  exact ⟨by rw [(laneSetRecord_keeps s).frame.csw rfl], (laneSetRecord_keeps s).frame.sto rfl⟩

/-! ### ENTER_REDUCED (16 R469, 06 R180) -/

/-- Reduced has begun; the wide lane domains and the table are as before. -/
def State.reducedAt (s : State) (t : Nat) : State := s.powerChange t 1 (fun p => { p with state := .reduced })

theorem reducedAt_changed (s : State) (t : Nat) : PowerChanged s (s.reducedAt t) 1 { s.pwr with state := .reduced } := powerChange_changed s t 1 rfl

theorem exec_enterReduced_idle (h : s.pwr.state ≠ .run ∨ s.pwr.started = false ∨ 0 < s.pwr.parkReq) (t : Nat) : exec (.enterReduced t) s = commit s (s.reach t) := by
  show execEnterReduced t s = _
  unfold execEnterReduced
  dsimp only
  rw [if_pos (by simpa using h)]

theorem exec_enterReduced (h : s.pwr.state = .run) (hs : s.pwr.started = true) (hp : s.pwr.parkReq = 0) (t : Nat) :
    exec (.enterReduced t) s = commit s (if s.pwr.role ≠ .controller then (s.reducedAt t).wideOff
      else if s.minSetWide then (s.reducedAt t).laneSetGone.wideOff else (s.reducedAt t).requestTable true) := by
  rw [← (reducedAt_changed s t).minSetWide]
  show execEnterReduced t s = _
  unfold execEnterReduced
  dsimp only
  rw [if_neg (by simp [h, hs, hp])]
  rfl

section
variable (h : s.pwr.state = .run) (hs : s.pwr.started = true) (hp : s.pwr.parkReq = 0) (t : Nat)
include h hs hp

/-- Without a table of its own Reduced only switches the wide lane domains off. -/
theorem exec_enterReduced_noTable (hr : s.pwr.role ≠ .controller ∨ s.minSetWide = false ∧ s.hasReduced = false) : exec (.enterReduced t) s = commit s (s.reducedAt t).wideOff := by
  rw [exec_enterReduced h hs hp]
  by_cases hc : s.pwr.role = .controller
  · obtain ⟨hwide, htable⟩ := hr.resolve_left (not_not_intro hc)
    rw [if_neg (not_not_intro hc), hwide, requestTable_none ((reducedAt_changed s t).hasReduced.trans htable)]
    rfl
  · rw [if_pos hc]

theorem exec_enterReduced_table (hc : s.pwr.role = .controller) (hwide : s.minSetWide = false) : exec (.enterReduced t) s = commit s ((s.reducedAt t).requestTable true) := by
  rw [exec_enterReduced h hs hp, if_neg (not_not_intro hc), hwide]
  rfl

theorem exec_enterReduced_laneSetGone (hc : s.pwr.role = .controller) (hwide : s.minSetWide = true) :
    exec (.enterReduced t) s = commit s (s.reducedAt t).laneSetGone.wideOff := by
  rw [exec_enterReduced h hs hp, if_neg (not_not_intro hc), if_pos hwide]

theorem enterReduced_noTable (hr : s.pwr.role ≠ .controller ∨ s.minSetWide = false ∧ s.hasReduced = false) : ∃ v, exec (.enterReduced t) s = .next v ∧
    v.pwr = { s.pwr with state := .reduced, domains := s.pwr.domains &&& 0xFCF#12 } ∧ v.host.powerCause = setBit s.host.powerCause 1 true ∧
    Frame { clk := true, host := true, evr := true, pwr := true } s v := by
  have hu := reducedAt_changed s t
  refine ⟨_, exec_enterReduced_noTable h hs hp t hr, ?_, hu.cause, (State.wideOff_keep hu.keep).frame.countEdges s⟩
  rw [countEdges_pwr, wideOff_pwr, hu.pwr]

/-- A controller that executes on the full table keeps the wide lane domains until the switch is done. -/
theorem enterReduced_requests (hc : s.pwr.role = .controller) (hwide : s.minSetWide = false) (htable : s.hasReduced = true) (hx : s.executes = true)
    (hr : s.clk.running = true) (hsw : s.sto.switching = none) (ht : s.sto.tableReduced = false) : ∃ v, exec (.enterReduced t) s = .next v ∧
    v.pwr = { s.pwr with state := .reduced } ∧ v.sto = { s.sto with switching := some true, switchStarted := false } ∧ v.host.powerCause = setBit s.host.powerCause 1 true ∧
    Frame { clk := true, sto := true, host := true, evr := true, pwr := true } s v := by
  have hu := reducedAt_changed s t
  have hstate : (s.reducedAt t).requestTable true = (s.reducedAt t).upSto (fun x => { x with switching := some true, switchStarted := false }) :=
    requestTable_requests (hu.hasReduced.trans htable) (hu.executes.trans hx) (hu.running.trans hr) (by rw [hu.sto, hsw]) (by rw [hu.sto, ht]; rfl)
  have hframe : Frame { sto := true, pwr := true } (s.reducedAt t) ((s.reducedAt t).requestTable true) := (State.requestTable_keep (Keep.refl _) true).frame
  refine ⟨_, exec_enterReduced_table h hs hp t hc hwide, ?_, ?_, ?_, (hu.keep.frame.comp hframe rfl rfl).countEdges s⟩
  · rw [countEdges_pwr, hstate, State.upSto_pwr, hu.pwr]
  · rw [countEdges_sto, hstate, State.upSto_sto, hu.sto]
  · rw [countEdges_powerCause, hstate, State.upSto_host, hu.cause]

/-- A controller that executes nothing takes the reduced table at once. -/
theorem enterReduced_switches (hc : s.pwr.role = .controller) (hwide : s.minSetWide = false) (htable : s.hasReduced = true) (hx : s.executes = false ∨ s.clk.running = false) :
    ∃ v, exec (.enterReduced t) s = .next v ∧ v.pwr = { s.pwr with state := .reduced, domains := s.pwr.domains &&& 0xFCF#12 } ∧
    v.sto = { s.sto with tableReduced := true, switching := none, switchBack := false } ∧ v.host.powerCause = setBit s.host.powerCause 1 true ∧
    Frame { clk := true, sto := true, host := true, evr := true, pwr := true } s v := by
  have hu := reducedAt_changed s t
  have hstate : (s.reducedAt t).requestTable true = ((s.reducedAt t).upSto (fun x => { x with tableReduced := true, switching := none, switchBack := false })).wideOff :=
    requestTable_switches (hu.hasReduced.trans htable) (hu.idle hx) true
  have hframe : Frame { sto := true, pwr := true } (s.reducedAt t) ((s.reducedAt t).requestTable true) := (State.requestTable_keep (Keep.refl _) true).frame
  refine ⟨_, exec_enterReduced_table h hs hp t hc hwide, ?_, ?_, ?_, (hu.keep.frame.comp hframe rfl rfl).countEdges s⟩
  · rw [countEdges_pwr, hstate, wideOff_pwr, State.upSto_pwr, hu.pwr]
  · rw [countEdges_sto, hstate, wideOff_sto, State.upSto_sto, hu.sto]
  · rw [countEdges_powerCause, hstate, wideOff_host, State.upSto_host, hu.cause]

/-- Where the minimum lane set needs the wide lane domains, the unit fails, halts or waits by its role. -/
theorem enterReduced_laneSetGone (hc : s.pwr.role = .controller) (hwide : s.minSetWide = true) : ∃ v, exec (.enterReduced t) s = .next v ∧
    v.pwr = { s.pwr with state := .reduced, domains := s.pwr.domains &&& 0xFCF#12 } ∧
    (s.csw.role = .active → v.csw.role = .failed ∧ v.csw.failReason = 2 ∧ v.csw.driversOff = true ∧ v.clk.running = false ∧ v.sto.noRelease = true) ∧
    (s.csw.role = .solo → v.sto.halted = true ∧ v.sto.noRelease = true ∧ v.csw.role = .solo) ∧
    (s.csw.role ≠ .active → s.csw.role ≠ .solo → v.csw.role = s.csw.role ∧ v.sto = s.sto) := by
  have hu := reducedAt_changed s t
  rw [← hu.csw, ← hu.sto]
  refine ⟨_, exec_enterReduced_laneSetGone h hs hp t hc hwide, ?_⟩
  rw [countEdges_pwr, countEdges_csw, countEdges_clk, countEdges_sto, wideOff_pwr, wideOff_csw, wideOff_clk, wideOff_sto, laneSetGone_pwr, hu.pwr]
  exact ⟨rfl, laneSetGone_active_left, laneSetGone_solo_left, laneSetGone_waits_left⟩

end

/-! ### RETURN_TO_RUN (16 R469) -/

/-- Run has begun; the wide lane domains and the table are as before. -/
def State.runAgainAt (s : State) (t : Nat) : State := s.powerChange t 2 (fun p => { p with state := .run, vinLow := false })

theorem runAgainAt_changed (s : State) (t : Nat) : PowerChanged s (s.runAgainAt t) 2 { s.pwr with state := .run, vinLow := false } := powerChange_changed s t 2 rfl

/-- LNC and LND are powered. -/
def State.wideOn (s : State) : State := s.upPwr (fun p => { p with domains := p.domains ||| 0x030#12 })

/-- The wide lane domains and the table follow the role in Run. -/
def State.widen (s : State) : State :=
  if s.pwr.role = .station then s else if s.pwr.role = .controller then s.wideOn.requestTable false else s.wideOn

theorem exec_returnToRun_idle (h : s.pwr.state ≠ .reduced ∨ 0 < s.pwr.parkReq) (t : Nat) : exec (.returnToRun t) s = commit s (s.reach t) := by
  show execReturnToRun t s = _
  unfold execReturnToRun
  dsimp only
  rw [if_pos h]

theorem exec_returnToRun (h : s.pwr.state = .reduced) (hp : s.pwr.parkReq = 0) (t : Nat) : exec (.returnToRun t) s = commit s (s.runAgainAt t).widen := by
  unfold State.widen
  rw [(runAgainAt_changed s t).role]
  show execReturnToRun t s = _
  unfold execReturnToRun
  dsimp only
  rw [if_neg (by simp [h, hp])]
  rfl

/-- A request for the full table leaves the domains. -/
theorem requestTable_full_pwr (s : State) : (s.requestTable false).pwr = s.pwr := by
  unfold State.requestTable
  split
  · rfl
  · split
    · split
      · rfl
      · rfl
      · split <;> rfl
    · rfl

theorem widen_station (h : s.pwr.role = .station) : s.widen = s := if_pos h

theorem widen_controller (h : s.pwr.role = .controller) : s.widen = s.wideOn.requestTable false := by
  unfold State.widen
  rw [if_neg (by rw [h]; decide), if_pos h]

theorem widen_pwr (h : s.pwr.role ≠ .station) : s.widen.pwr = { s.pwr with domains := s.pwr.domains ||| 0x030#12 } := by
  unfold State.widen
  rw [if_neg h]
  split
  · exact requestTable_full_pwr _
  · rfl

theorem widen_keep (s : State) : Keep { sto := true, pwr := true } s s.widen :=
  Keep.ite (Keep.refl s) (Keep.ite (State.requestTable_keep ((Keep.refl s).upPwr _) false) ((Keep.refl s).upPwr _))

/-- Without another table than the full one the stores stay. -/
theorem widen_sto (h : s.hasReduced = false ∨ s.pwr.role ≠ .controller) : s.widen.sto = s.sto := by
  unfold State.widen
  split
  · rfl
  · split
    · next hc =>
      have htable : s.wideOn.hasReduced = false := h.resolve_right (not_not_intro hc)
      rw [requestTable_none htable]
      rfl
    · rfl

section
variable (hc : s.pwr.role = .controller) (htable : s.hasReduced = true)
include hc htable

theorem widen_requests (hx : s.executes = true) (hr : s.clk.running = true) (hs : s.sto.switching = none) (ht : s.sto.tableReduced = true) :
    s.widen.sto = { s.sto with switching := some false, switchStarted := false } := by
  rw [widen_controller hc, requestTable_requests (s := s.wideOn) htable hx hr hs (reduced := false) ht]
  rfl

theorem widen_switches (hx : s.executes = false ∨ s.clk.running = false) :
    s.widen.sto = { s.sto with tableReduced := false, switching := none, switchBack := false } := by
  rw [widen_controller hc, requestTable_switches (s := s.wideOn) htable hx]
  rfl

end

/-- The return to Run by role and table. -/
theorem returnToRun_left (h : s.pwr.state = .reduced) (hp : s.pwr.parkReq = 0) (t : Nat) : ∃ v, exec (.returnToRun t) s = .next v ∧ v.host.powerCause = setBit s.host.powerCause 2 true ∧
    (s.pwr.role = .station → v.pwr = { s.pwr with state := .run, vinLow := false } ∧ v.sto = s.sto) ∧
    (s.pwr.role ≠ .station → v.pwr = { s.pwr with state := .run, vinLow := false, domains := s.pwr.domains ||| 0x030#12 }) ∧
    (s.pwr.role = .controller → s.hasReduced = true → s.executes = true → s.clk.running = true → s.sto.switching = none → s.sto.tableReduced = true →
      v.sto = { s.sto with switching := some false, switchStarted := false }) ∧
    (s.pwr.role = .controller → s.hasReduced = true → s.executes = false ∨ s.clk.running = false → v.sto = { s.sto with tableReduced := false, switching := none, switchBack := false }) ∧
    (s.hasReduced = false ∨ s.pwr.role ≠ .controller → v.sto = s.sto) ∧ Frame { clk := true, sto := true, host := true, evr := true, pwr := true } s v := by
  have hu := runAgainAt_changed s t
  have hw := widen_keep (s.runAgainAt t)
  rw [← hu.role, ← hu.hasReduced, ← hu.executes, ← hu.running, ← hu.sto]
  have hcause : (s.runAgainAt t).widen.host.powerCause = (s.runAgainAt t).host.powerCause := (congrArg HostSt.powerCause (hw.frame.host rfl) :)
  refine ⟨_, exec_returnToRun h hp t, ?_⟩
  rw [countEdges_powerCause, countEdges_pwr, countEdges_sto, hcause]
  exact ⟨hu.cause, fun hr => ⟨by rw [widen_station hr, hu.pwr], by rw [widen_station hr]⟩, fun hr => by rw [widen_pwr hr, hu.pwr], widen_requests, widen_switches, widen_sto,
    (hu.keep.frame.comp hw.frame rfl rfl).countEdges s⟩

/-! ### The statement -/

/-- Settles O45: ENTER_REDUCED by role, minimum lane set and table, RETURN_TO_RUN by role and table. -/
theorem reducedAndTheReturnToRun : Obligations.ReducedAndTheReturnToRun := by
  intro s t0
  refine ⟨fun h hs hp => ⟨enterReduced_noTable h hs hp t0, fun hc hwide htable => ⟨enterReduced_requests h hs hp t0 hc hwide htable, enterReduced_switches h hs hp t0 hc hwide htable⟩,
      enterReduced_laneSetGone h hs hp t0⟩,
    fun h => ⟨_, exec_enterReduced_idle h t0, rfl, (State.reach_keep (Keep.refl s) t0).frame.countEdges s⟩, fun h hp => returnToRun_left h hp t0,
    fun h => ⟨_, exec_returnToRun_idle h t0, rfl, (State.reach_keep (Keep.refl s) t0).frame.countEdges s⟩⟩

end Sys2Proof.Machine
end

section
/-! PROOFS. The frames of the causeway (07 R206, R210 to R212, R221): what this unit sends on its lanes, a frame of the partner by its type, and what the loss of the partner leaves. -/

namespace Sys2Proof.Machine

open Sys2Proof

variable {s : State} {lane t : Nat} {f : List Byte} {env : CwIn}

/-! ### Answers -/

/-- What a command does that passes time and changes the redundancy subsystem alone. -/
theorem answer_reach_csw {c : Instr} {u : State} {k : Csw} (h : exec c s = commit s u) (hu : u = (s.reach t).upCsw (fun _ => k)) :
    ∃ v, exec c s = .next v ∧ v.csw = k ∧ Frame { clk := true, csw := true } s v := by
  subst hu
  exact ⟨_, h, rfl, (Keep.upCsw (State.reach_keep (Keep.refl s) t) _).frame.countEdges s⟩

/-- What a command does that only passes time. -/
theorem answer_reach {c : Instr} (h : exec c s = commit s (s.reach t)) :
    ∃ v, exec c s = .next v ∧ v.clk = { s.clk with now := max s.clk.now t } ∧ Frame { clk := true } s v :=
  answer_clk h

/-- The redundancy subsystem stays where a command only passes time. -/
theorem answer_reach_same {c : Instr} (h : exec c s = commit s (s.reach t)) :
    ∃ v, exec c s = .next v ∧ v.csw = s.csw ∧ Frame { clk := true } s v := by
  obtain ⟨v, hv, -, hframe⟩ := answer_reach h
  exact ⟨v, hv, hframe.csw rfl, hframe⟩

/-! ### Sending (07 R206, R211) -/

/-- One frame on each lane that is up, that of lane 0 first. -/
theorem sendBoth_net (s : State) (type flags : Nat) (p : List Byte) : (s.sendBoth type flags p).net = { s.net with
    sent := (if vget s.csw.laneUp 1 false then [.cw 1 (s.cwFrame type (flags + 1) 0 p)] else []) ++
      (if vget s.csw.laneUp 0 false then [.cw 0 (s.cwFrame type flags 0 p)] else []) ++ s.net.sent } := by
  unfold State.sendBoth
  cases h0 : vget s.csw.laneUp 0 false <;> cases h1 : vget s.csw.laneUp 1 false <;> simp [h1]

@[simp] theorem sendBoth_csw (s : State) (type flags : Nat) (p : List Byte) : (s.sendBoth type flags p).csw = s.csw :=
  (State.sendBoth_keep (L := { net := true }) (Keep.refl s) type flags p).frame.csw rfl

@[simp] theorem sendBoth_sto (s : State) (type flags : Nat) (p : List Byte) : (s.sendBoth type flags p).sto = s.sto :=
  (State.sendBoth_keep (L := { net := true }) (Keep.refl s) type flags p).frame.sto rfl

/-! ### Frames that are discarded (07 R201, R212) -/

@[simp] theorem cwDiscard_csw (s : State) : s.cwDiscard.csw = { s.csw with frameErr := min 0xFFFFFFFF (s.csw.frameErr + 1), cause := setBit s.csw.cause 13 true } :=
  State.cswCause_csw _ 13

@[simp] theorem cwErrors_csw (s : State) (l : List Ecc) : (s.cwErrors l).csw = s.csw :=
  (State.cwErrors_keep (L := { sto := true, host := true, evr := true }) (Keep.refl s) l).frame.csw rfl

/-- What a command does whose frame is discarded. -/
theorem answer_discard {c : Instr} (h : exec c s = commit s ((s.reach t).cwDiscard)) :
    ∃ v, exec c s = .next v ∧ v.csw = { s.csw with frameErr := min 0xFFFFFFFF (s.csw.frameErr + 1), cause := setBit s.csw.cause 13 true } ∧
      Frame { clk := true, csw := true, evr := true } s v :=
  ⟨_, h, cwDiscard_csw _, (State.cwDiscard_keep (State.reach_keep (Keep.refl s) t)).frame.countEdges s⟩

/-! ### Frames of the partner (07 R211, R221) -/

/-- A whole frame of the configured partner arrives without an error of the code, and the partner was last heard in the role that the frame names. -/
structure State.Hears (s : State) (f : List Byte) (env : CwIn) : Prop where
  lit : s.csw.dark = false
  ecc : env.ecc = []
  form : cwFormOk f = true
  node : cwNode f = s.partnerNode
  seen : s.csw.partnerSeen = true
  beats : s.csw.hbLost = false
  role : s.csw.partnerRole = cwRole f

/-- What every frame of the partner records: its lane is up, and instant, term and role of the partner (07 R206, R212). -/
def State.heard (s : State) (lane t : Nat) (f : List Byte) : State := (s.reach t).upCsw (fun c => { c with
  laneUp := vset c.laneUp lane true, partnerSeen := true, seenAt := c.seenAt.max (s.reach t).clk.now, partnerTerm := cwTerm f, partnerRole := cwRole f })

theorem heard_csw (s : State) (lane t : Nat) (f : List Byte) : (s.heard lane t f).csw = { s.csw with
    laneUp := vset s.csw.laneUp lane true, partnerSeen := true, seenAt := s.csw.seenAt.max (max s.clk.now t), partnerTerm := cwTerm f, partnerRole := cwRole f } := rfl

theorem heard_keep {L : Parts} (s : State) (lane t : Nat) (f : List Byte) (hclk : L.clk = true := by rfl) (hcsw : L.csw = true := by rfl) : Keep L s (s.heard lane t f) :=
  (State.reach_keep (Keep.refl s) t).upCsw _

namespace State.Hears

variable (h : s.Hears f env) (lane t : Nat)
include h

theorem heartbeat (ht : cwType f = 1) : s.cwArrives lane t f env = (s.heard lane t f).heartbeatIn lane t (cwRole f) (cwPay f) env := by
  rw [cwArrives_known h.lit h.form h.node h.seen h.beats h.role lane t h.ecc (u := s.heard lane t f) rfl, if_pos ht]

theorem stream (ht : cwType f = 2) : s.cwArrives lane t f env = (s.heard lane t f).streamFrame t f env := by
  rw [cwArrives_known h.lit h.form h.node h.seen h.beats h.role lane t h.ecc (u := s.heard lane t f) rfl, ht]
  rfl

theorem handover (ht : cwType f = 4) : s.cwArrives lane t f env = (s.heard lane t f).upCsw (fun c => { c with
    kind := byteAt f 16, handBeat := if (s.heard lane t f).csw.role = .standby then some (getLE f 24 8) else c.handBeat }) := by
  rw [cwArrives_known h.lit h.form h.node h.seen h.beats h.role lane t h.ecc (u := s.heard lane t f) rfl, ht]
  rfl

theorem handoverGo (ht : cwType f = 5) : s.cwArrives lane t f env = (if (s.heard lane t f).csw.role = .standby then
    ((s.heard lane t f).upCsw (fun c => { c with goPend := some (getLE f 16 8, getLE f 24 8) })).goHandover t else s.heard lane t f) := by
  rw [cwArrives_known h.lit h.form h.node h.seen h.beats h.role lane t h.ecc (u := s.heard lane t f) rfl, ht]
  rfl

theorem negotiate (ht : cwType f = 6) : s.cwArrives lane t f env = (s.heard lane t f).negotiate f := by
  rw [cwArrives_known h.lit h.form h.node h.seen h.beats h.role lane t h.ecc (u := s.heard lane t f) rfl, ht]
  rfl

end State.Hears

/-! ### The loss of the partner (07 R221, R223) -/

/-- A STANDBY that has detected no takeover and no Parked request detects one. -/
theorem takeoverDetect_free (hp : s.csw.takeoverPend = none) (hk : s.pwr.parkReq = 0) (reason ref : Nat) (confirm : Bool) :
    s.takeoverDetect reason ref confirm = s.upCsw (fun c => { c with takeoverPend := some reason, takeoverRef := ref, termNeedsConfirm := confirm }) := by
  unfold State.takeoverDetect
  rw [if_neg (by simp [hp, hk]), if_neg (by omega)]

/-- A detected takeover leaves all else of the redundancy subsystem. -/
theorem takeoverDetect_csw (s : State) (reason ref : Nat) (confirm : Bool) : ∃ p r b,
    (s.takeoverDetect reason ref confirm).csw = { s.csw with takeoverPend := p, takeoverRef := r, termNeedsConfirm := b } := by
  unfold State.takeoverDetect
  split
  · exact ⟨s.csw.takeoverPend, s.csw.takeoverRef, s.csw.termNeedsConfirm, rfl⟩
  · refine ⟨some reason, ref, confirm, ?_⟩
    have hpark : (if 0 < s.pwr.parkReq then s.endPark 0 else s).csw = s.csw := by
      split
      · exact (State.endPark_keep (L := { pwr := true, dict := true, rtc := true, host := true, evr := true }) (Keep.refl s) 0).frame.csw rfl
      · rfl
    rw [State.upCsw_csw, hpark]

theorem partnerLost_standby (hr : s.csw.role = .standby) (reason ref : Nat) (confirm : Bool) : s.partnerLost reason ref confirm = s.takeoverDetect reason ref confirm := by
  unfold State.partnerLost
  rw [hr]

theorem partnerLost_syncing (hr : s.csw.role = .syncing) (reason ref : Nat) (confirm : Bool) : s.partnerLost reason ref confirm = s.enterFailed 4 := by
  unfold State.partnerLost
  rw [hr]

/-- Whatever the loss of the partner leads to, the heartbeat loss and the mastership of CWA stay. -/
theorem partnerLost_stays (s : State) (reason ref : Nat) (confirm : Bool) :
    (s.partnerLost reason ref confirm).csw.hbLost = s.csw.hbLost ∧ (s.partnerLost reason ref confirm).csw.cwaMaster = s.csw.cwaMaster := by
  unfold State.partnerLost
  split
  · obtain ⟨p, r, b, h⟩ := takeoverDetect_csw s reason ref confirm
    rw [h]
    exact ⟨rfl, rfl⟩
  · obtain ⟨a, b, h⟩ := enterFailed_csw s 4
    rw [h]
    exact ⟨rfl, rfl⟩
  · rw [losePartner_csw]
    exact ⟨rfl, rfl⟩
  · exact ⟨rfl, rfl⟩

theorem partnerSilent_heard (h : s.csw.hbLost = false) : s.partnerSilent = s := by
  unfold State.partnerSilent
  rw [h, if_neg (by simp)]

theorem partnerSilent_lost (hl : s.csw.hbLost = true) (ha : s.csw.cwaAbsent = true) :
    s.partnerSilent = (s.upCsw (fun c => { c with partnerSeen := false })).partnerLost 0 s.csw.lastHb true := by
  unfold State.partnerSilent
  exact if_pos (by simp [hl, ha])

theorem partnerSilent_stays (s : State) : s.partnerSilent.csw.hbLost = s.csw.hbLost ∧ s.partnerSilent.csw.cwaMaster = s.csw.cwaMaster := by
  unfold State.partnerSilent
  split
  · exact partnerLost_stays _ _ _ _
  · exact ⟨rfl, rfl⟩

end Sys2Proof.Machine
end

section
/-! PROOFS. Heartbeats (07 R206, R211, R212, R215, R220, R221, R223): what a HEARTBEAT carries and records, and what its loss or that of a lane brings about in each role. -/

namespace Sys2Proof.Machine

open Sys2Proof

variable {s : State} {lane t role : Nat} {f p : List Byte} {env : CwIn}

/-! ### HEARTBEAT_SEND (07 R206, R212) -/

/-- The payload of a HEARTBEAT sent at `t`. -/
def State.beatPayload (s : State) (t : Nat) : List Byte :=
  leBytes 8 (if s.csw.role = .active then s.csw.pos else s.csw.ackPos) ++ leBytes 8 s.sto.msDurable ++ leBytes 8 (s.reach t).nextLaunch ++
    leBytes 4 (s.reach t).ptpNow ++ leBytes 4 s.hbStatus

theorem exec_heartbeatSend (hd : s.csw.dark = false) (t : Nat) : exec (.heartbeatSend t) s = commit s ((s.reach t).sendBoth 0x01 0 (s.beatPayload t)) := by
  show commit s (if s.csw.dark = true then _ else _) = _
  rw [hd, if_neg (by simp)]
  rfl

/-! ### HEARTBEAT_RECEIVE (07 R206, R212) -/

/-- What a HEARTBEAT records at every unit: the misses before it, its instant, and the partner's positions and next launch. -/
def Csw.beat (c : Csw) (lane t : Nat) (p : List Byte) : Csw := { (c.countMiss lane t) with
  hbAt := vset c.hbAt lane t, hbCnt := vset c.hbCnt lane 0, hbLost := false, partnerAck := getLE p 0 8, partnerDurable := getLE p 8 8, partnerLaunch := getLE p 16 8 }

theorem upCsw_beat (s : State) (lane t : Nat) (p : List Byte) : s.upCsw (fun c => { (c.countMiss lane t) with
    hbAt := vset c.hbAt lane t, hbCnt := vset c.hbCnt lane 0, hbLost := false, partnerAck := getLE p 0 8, partnerDurable := getLE p 8 8, partnerLaunch := getLE p 16 8 }) =
  s.upCsw (·.beat lane t p) := rfl

/-- Without both units locked no delay is measured (07 R208). -/
theorem measureDelay_unlocked (h : s.isLocked = false ∨ (byteAt p 28).testBit 5 = false) (t : Nat) : s.measureDelay t p = s := by
  unfold State.measureDelay
  rw [if_neg]
  rcases h with h | h <;> simp [h]

section
variable (hm : s.isLocked = false ∨ (byteAt p 28).testBit 5 = false)
include hm

/-- Beyond the record, a SOLO or FAILED unit, and a STANDBY that is not told to resynchronise, take nothing from a HEARTBEAT. -/
theorem heartbeatIn_records (hr : s.csw.role = .solo ∨ s.csw.role = .failed ∨ s.csw.role = .standby ∧ (byteAt p 28).testBit 3 = false) (lane t role : Nat) (env : CwIn) :
    s.heartbeatIn lane t role p env = s.upCsw (·.beat lane t p) := by
  have hrole : (s.upCsw (·.beat lane t p)).csw.role = s.csw.role := rfl
  unfold State.heartbeatIn
  rw [upCsw_beat]
  dsimp only
  rw [measureDelay_unlocked (s := s.upCsw (·.beat lane t p)) hm]
  rcases hr with hr | hr | ⟨hr, hb⟩ <;> rw [hrole, hr]
  rw [hb]
  rfl

/-- A STANDBY that is told to resynchronise falls back (07 R221). -/
theorem heartbeatIn_resync (hr : s.csw.role = .standby) (hb : (byteAt p 28).testBit 3 = true) (lane t role : Nat) (env : CwIn) :
    s.heartbeatIn lane t role p env = (s.upCsw (·.beat lane t p)).fallBack := by
  have hrole : (s.upCsw (·.beat lane t p)).csw.role = s.csw.role := rfl
  unfold State.heartbeatIn
  rw [upCsw_beat]
  dsimp only
  rw [measureDelay_unlocked (s := s.upCsw (·.beat lane t p)) hm, hrole, hr, hb]
  rfl

/-- An ACTIVE unit whose partner is not SYNCING takes SWAP_READY with the staged image, and the lag. -/
theorem heartbeatIn_active (hr : s.csw.role = .active) (h3 : role ≠ 3) (lane t : Nat) (env : CwIn) :
    s.heartbeatIn lane t role p env = ((s.upCsw (·.beat lane t p)).swapSeen ((byteAt p 28).testBit 4) env).updateLag.reportBatches := by
  have hrole : (s.upCsw (·.beat lane t p)).csw.role = s.csw.role := rfl
  unfold State.heartbeatIn
  rw [upCsw_beat]
  dsimp only
  rw [measureDelay_unlocked (s := s.upCsw (·.beat lane t p)) hm, hrole, hr]
  dsimp only
  rw [if_neg (fun h => h3 h.1), if_neg (fun h => h3 h.2.1)]

end

/-- What an ACTIVE unit knows after a HEARTBEAT: of the lag list the milestones that the partner has not applied, and their beats (07 R212, R240). -/
def Csw.beatActive (c : Csw) (p : List Byte) (env : CwIn) : Csw :=
  let l := c.lagList.filter (notApplied c.partnerAck)
  { c with swapDropped := c.swapDropped && (byteAt p 28).testBit 4, partnerDigest := padTo 32 env.digest, partnerMinSet := env.minSet, lagList := l
           lag := min 0xFFFF (l.foldl (fun n x => n + x.2.1) 0) }

theorem beatActive_state (s : State) (p : List Byte) (env : CwIn) : (s.swapSeen ((byteAt p 28).testBit 4) env).updateLag =
    (s.upLdr (fun l => { l with swapReady := (byteAt p 28).testBit 4 && !s.csw.swapDropped })).upCsw (·.beatActive p env) := rfl

/-! ### HEARTBEAT_LOST (07 R206, R223) -/

/-- The heartbeat is declared lost: condition 3 of R223 forgets the partner where CWA has already. -/
def State.beatsLost (s : State) : State := (s.upCsw (fun c => { c with hbLost := true, partnerSeen := c.partnerSeen && !c.cwaAbsent })).cswCause 2

theorem beatsLost_csw (s : State) : s.beatsLost.csw = { s.csw with hbLost := true, partnerSeen := s.csw.partnerSeen && !s.csw.cwaAbsent, cause := setBit s.csw.cause 2 true } :=
  State.cswCause_csw _ 2

theorem beatsLost_keep (s : State) : Keep { csw := true, evr := true } s s.beatsLost := State.cswCause_keep ((Keep.refl s).upCsw _) 2

theorem beatsLost_cause (s : State) : s.beatsLost.csw.cause.getLsbD 2 = true := by
  rw [beatsLost_csw]
  exact setBit_getLsbD _ _ _ _ (by decide)

/-- Before 100 µs, and while the loss holds, only time passes. -/
theorem exec_heartbeatLost_early (h : s.csw.hbLost = true ∨ t < s.csw.lastHb + 100000) : exec (.heartbeatLost t) s = commit s (s.reach t) := by
  show commit s (if (s.csw.dark || s.csw.hbLost || decide (t < s.csw.lastHb + 100000) || _) = true then _ else _) = _
  rw [if_pos]
  rcases h with h | h <;> simp [h]

/-- The loss by what CWA shows of the partner, and by the role. -/
theorem exec_heartbeatLost (hd : s.csw.dark = false) (hl : s.csw.hbLost = false) (ht : s.csw.lastHb + 100000 ≤ t)
    (hr : 0 < s.csw.lastHb ∨ s.csw.role = .standby ∨ s.csw.role = .syncing) : exec (.heartbeatLost t) s = commit s (
      if s.csw.cwaAbsent = true then (s.reach t).beatsLost.partnerSilent
      else if s.csw.role = .active then (s.reach t).beatsLost.losePartner
      else if s.csw.role = .standby ∧ s.csw.claim = true then (s.reach t).beatsLost.fallBack
      else (s.reach t).beatsLost) := by
  have hjudged : ¬ (s.csw.dark || s.csw.hbLost || decide (t < s.csw.lastHb + 100000) ||
      (decide (s.csw.lastHb = 0) && decide (s.csw.role ≠ .standby ∧ s.csw.role ≠ .syncing))) = true := by
    simp only [hd, hl, Bool.false_or, Bool.or_eq_true, Bool.and_eq_true, decide_eq_true_eq]
    rintro (h | ⟨h0, hn, hs⟩)
    · omega
    · rcases hr with hr | hr | hr
      · omega
      · exact hn hr
      · exact hs hr
  have hcsw := beatsLost_csw (s.reach t)
  have habsent : (s.reach t).beatsLost.csw.cwaAbsent = s.csw.cwaAbsent := by rw [hcsw]; rfl
  have hrole : (s.reach t).beatsLost.csw.role = s.csw.role := by rw [hcsw]; rfl
  have hclaim : (s.reach t).beatsLost.csw.claim = s.csw.claim := by rw [hcsw]; rfl
  show commit s (if _ then s.reach t else if (s.reach t).beatsLost.csw.cwaAbsent = true then (s.reach t).beatsLost.partnerSilent
    else if (s.reach t).beatsLost.csw.role = RoleState.active then (s.reach t).beatsLost.losePartner
    else if (s.reach t).beatsLost.csw.role = RoleState.standby ∧ (s.reach t).beatsLost.csw.claim = true then (s.reach t).beatsLost.fallBack
    else (s.reach t).beatsLost) = _
  rw [if_neg hjudged, habsent, hrole, hclaim]

/-- A STANDBY whose partner is absent on CWA too is to take over, and a SYNCING one fails (07 R223). -/
theorem beatsLost_silent (ha : s.csw.cwaAbsent = true) :
    (s.csw.role = .standby → s.csw.takeoverPend = none → s.pwr.parkReq = 0 → s.beatsLost.partnerSilent.csw.takeoverPend = some 0 ∧
      s.beatsLost.partnerSilent.csw.takeoverRef = s.csw.lastHb ∧ s.beatsLost.partnerSilent.csw.partnerSeen = false ∧ s.beatsLost.partnerSilent.csw.role = .standby) ∧
    (s.csw.role = .syncing → s.beatsLost.partnerSilent.csw.role = .failed ∧ s.beatsLost.partnerSilent.csw.failReason = 4) := by
  have hcsw := beatsLost_csw s
  have hsilent := partnerSilent_lost (s := s.beatsLost) (by rw [hcsw]) (by rw [hcsw]; exact ha)
  have hlast : s.beatsLost.csw.lastHb = s.csw.lastHb := by rw [hcsw]; rfl
  rw [hsilent, hlast]
  refine ⟨fun hr hp hk => ?_, fun hr => ?_⟩
  · have hpwr : (s.beatsLost.upCsw (fun c => { c with partnerSeen := false })).pwr.parkReq = 0 := by
      rw [State.upCsw_pwr, (beatsLost_keep s).frame.pwr rfl, hk]
    rw [partnerLost_standby (by rw [State.upCsw_csw, hcsw]; exact hr), takeoverDetect_free (by rw [State.upCsw_csw, hcsw]; exact hp) hpwr]
    refine ⟨rfl, rfl, rfl, ?_⟩
    rw [State.upCsw_csw, State.upCsw_csw, hcsw]
    exact hr
  · rw [partnerLost_syncing (by rw [State.upCsw_csw, hcsw]; exact hr)]
    obtain ⟨hfailed, hreason, -⟩ := enterFailed_left (s.beatsLost.upCsw (fun c => { c with partnerSeen := false })) 4
    exact ⟨hfailed, hreason⟩

/-! ### LANE_DOWN (07 R206, R221) -/

/-- A lane is down. -/
def State.laneLost (s : State) (lane : Nat) : State := (s.upCsw (fun c => { c with laneUp := vset c.laneUp lane false })).cswCause 3

theorem laneLost_csw (s : State) (lane : Nat) : (s.laneLost lane).csw = { s.csw with laneUp := vset s.csw.laneUp lane false, cause := setBit s.csw.cause 3 true } :=
  State.cswCause_csw _ 3

theorem laneLost_cause (s : State) (lane : Nat) : (s.laneLost lane).csw.cause.getLsbD 3 = true := by
  rw [laneLost_csw]
  exact setBit_getLsbD _ _ _ _ (by decide)

/-- With one lane down, no lane is up exactly when the other is down too. -/
theorem laneLost_lanesUp (hl : lane < 2) : (s.laneLost lane).lanesUp.isEmpty = !vget s.csw.laneUp (1 - lane) false := by
  have hother : ∀ b, vget (vset s.csw.laneUp lane false) (1 - lane) b = vget s.csw.laneUp (1 - lane) b := fun b => by
    rw [vget_vset, if_neg (by omega)]
  have hdown : vget (vset s.csw.laneUp lane false) lane false = false := by
    rw [vget_vset, if_pos ⟨rfl, hl⟩]
  unfold State.lanesUp
  rw [laneLost_csw]
  obtain rfl | rfl : lane = 0 ∨ lane = 1 := by omega
  · cases h : vget s.csw.laneUp 1 false <;> simp_all
  · cases h : vget s.csw.laneUp 0 false <;> simp_all

theorem exec_laneDown (hd : s.csw.dark = false) (hl : lane < 2) (hu : vget s.csw.laneUp lane false = true) : exec (.laneDown lane) s = commit s (
    if (!vget s.csw.laneUp (1 - lane) false) = true ∧ s.csw.claim = true ∧ s.csw.role = .standby then (s.laneLost lane).fallBack else s.laneLost lane) := by
  have hclaim : (s.laneLost lane).csw.claim = s.csw.claim := by rw [laneLost_csw]
  have hrole : (s.laneLost lane).csw.role = s.csw.role := by rw [laneLost_csw]
  show commit s (if (s.csw.dark || !vget s.csw.laneUp lane false) = true then s else
    if (s.laneLost lane).lanesUp.isEmpty = true ∧ (s.laneLost lane).csw.claim = true ∧ (s.laneLost lane).csw.role = .standby then (s.laneLost lane).fallBack else s.laneLost lane) = _
  rw [if_neg (by simp [hd, hu]), laneLost_lanesUp hl, hclaim, hrole]

theorem exec_laneDown_idle (hu : vget s.csw.laneUp lane false = false) : exec (.laneDown lane) s = .next s := by
  show commit s (if (s.csw.dark || !vget s.csw.laneUp lane false) = true then s else _) = _
  rw [if_pos (by simp [hu]), commit_self]

/-! ### The statement -/

section
variable (h : s.Hears f env) (ht : cwType f = 1) (hm : s.isLocked = false ∨ (byteAt (cwPay f) 28).testBit 5 = false)
include h ht hm

theorem heartbeatReceive_records (hr : s.csw.role = .solo ∨ s.csw.role = .failed ∨ s.csw.role = .standby ∧ (byteAt (cwPay f) 28).testBit 3 = false) (lane t : Nat) :
    ∃ u, exec (.heartbeatReceive lane t f env) s = .next u ∧ u.csw = (s.heard lane t f).csw.beat lane t (cwPay f) ∧ Frame { clk := true, csw := true } s u := by
  refine answer_reach_csw (t := t) (congrArg (commit s) (h.heartbeat lane t ht)) ?_
  rw [heartbeatIn_records (s := s.heard lane t f) hm hr]
  rfl

theorem heartbeatReceive_resync (hr : s.csw.role = .standby) (hb : (byteAt (cwPay f) 28).testBit 3 = true) (lane t : Nat) :
    ∃ u, exec (.heartbeatReceive lane t f env) s = .next u ∧ u.csw.role = .syncing ∧ u.csw.ackPos = 0 ∧ u.csw.storeComplete = false ∧
      u.csw.hbAt = ((s.heard lane t f).csw.beat lane t (cwPay f)).hbAt ∧ u.csw.cause.getLsbD 5 = true ∧
      Frame { clk := true, ldr := true, csw := true, net := true, wdg := true, evr := true } s u := by
  have hin := (h.heartbeat lane t ht).trans (heartbeatIn_resync (s := s.heard lane t f) hm hr hb lane t (cwRole f) env)
  obtain ⟨hrole, hack, hstore, -, -, hcause, -, -, hat, -⟩ := fallBack_csw (s := (s.heard lane t f).upCsw (·.beat lane t (cwPay f))) hr
  exact ⟨_, congrArg (commit s) hin, hrole, hack, hstore, hat, hcause,
    (State.fallBack_keep ((heard_keep s lane t f).upCsw _)).frame.countEdges s⟩

theorem heartbeatReceive_active (hr : s.csw.role = .active) (h3 : cwRole f ≠ 3) (lane t : Nat) :
    ∃ u, exec (.heartbeatReceive lane t f env) s = .next u ∧ u.csw = ((s.heard lane t f).csw.beat lane t (cwPay f)).beatActive (cwPay f) env ∧
      u.ldr = { s.ldr with swapReady := (byteAt (cwPay f) 28).testBit 4 && !s.csw.swapDropped } ∧
      Frame { clk := true, csw := true, ldr := true, sto := true, net := true, can := true, dict := true, evr := true } s u := by
  have hin := (h.heartbeat lane t ht).trans (heartbeatIn_active (s := s.heard lane t f) hm hr h3 lane t env)
  rw [beatActive_state] at hin
  have hreport := fun x : State => (State.reportBatches_keep (L := { sto := true, net := true, can := true, dict := true, evr := true }) (Keep.refl x)).frame
  exact ⟨_, congrArg (commit s) hin, (hreport _).csw rfl, (hreport _).ldr rfl,
    (State.reportBatches_keep ((((heard_keep s lane t f).upCsw _).upLdr id).upCsw _)).frame.countEdges s⟩

end

/-- The loss of the heartbeats in each role. -/
theorem heartbeatLost_left (hd : s.csw.dark = false) (hl : s.csw.hbLost = false) (ht : s.csw.lastHb + 100000 ≤ t)
    (hr : 0 < s.csw.lastHb ∨ s.csw.role = .standby ∨ s.csw.role = .syncing) : ∃ u, exec (.heartbeatLost t) s = .next u ∧ u.csw.hbLost = true ∧
      (s.csw.cwaAbsent = false → s.csw.role = .active → u.csw.redLost = true ∧ u.csw.lagList = [] ∧ u.csw.sending = none ∧ u.csw.role = .active ∧ u.csw.cause.getLsbD 2 = true) ∧
      (s.csw.cwaAbsent = false → s.csw.role = .standby → s.csw.claim = true → u.csw.role = .syncing ∧ u.csw.storeComplete = false ∧ u.csw.cause.getLsbD 2 = true ∧ u.csw.cause.getLsbD 5 = true) ∧
      (s.csw.cwaAbsent = false → s.csw.role = .syncing ∨ s.csw.role = .solo ∨ s.csw.role = .standby ∧ s.csw.claim = false →
        u.csw = { s.csw with hbLost := true, cause := setBit s.csw.cause 2 true } ∧ Frame { clk := true, csw := true, evr := true } s u) ∧
      (s.csw.cwaAbsent = true → s.csw.role = .standby → s.csw.takeoverPend = none → s.pwr.parkReq = 0 → u.csw.takeoverPend = some 0 ∧ u.csw.takeoverRef = s.csw.lastHb ∧ u.csw.partnerSeen = false ∧ u.csw.role = .standby) ∧
      (s.csw.cwaAbsent = true → s.csw.role = .syncing → u.csw.role = .failed ∧ u.csw.failReason = 4) := by
  have hexec := exec_heartbeatLost hd hl ht hr
  obtain ⟨b, hb⟩ : ∃ b, b = (s.reach t).beatsLost := ⟨_, rfl⟩
  have hcsw : b.csw = { s.csw with hbLost := true, partnerSeen := s.csw.partnerSeen && !s.csw.cwaAbsent, cause := setBit s.csw.cause 2 true } := hb ▸ beatsLost_csw _
  have hcause : b.csw.cause.getLsbD 2 = true := hb ▸ beatsLost_cause _
  rw [← hb] at hexec
  cases ha : s.csw.cwaAbsent with
  | true =>
    rw [if_pos ha] at hexec
    obtain ⟨hstandby, hsyncing⟩ := beatsLost_silent (s := s.reach t) ha
    refine ⟨_, hexec, ?_, nofun, nofun, nofun, fun _ => hb ▸ hstandby, fun _ => hb ▸ hsyncing⟩
    rw [countEdges_csw, (partnerSilent_stays b).1, hcsw]
  | false =>
    rw [if_neg (by rw [ha]; decide)] at hexec
    by_cases hactive : s.csw.role = .active
    · rw [if_pos hactive] at hexec
      refine ⟨_, hexec, ?_, fun _ _ => ?_, fun _ h => ?_, fun _ h => ?_, nofun, nofun⟩
      · rw [countEdges_csw, losePartner_csw, hcsw]
      · rw [countEdges_csw, losePartner_csw]
        exact ⟨rfl, rfl, rfl, by rw [hcsw]; exact hactive, hcause⟩
      · rw [hactive] at h; cases h
      · rw [hactive] at h; simp at h
    · rw [if_neg hactive] at hexec
      by_cases hfall : s.csw.role = .standby ∧ s.csw.claim = true
      · rw [if_pos hfall] at hexec
        obtain ⟨hrole, -, hstore, -, -, hcause5, -, hlost, -, hkept⟩ := fallBack_csw (s := b) (by rw [hcsw]; exact hfall.1)
        refine ⟨_, hexec, ?_, fun _ h => absurd h hactive, fun _ _ _ => ⟨hrole, hstore, hkept 2 (by decide) hcause, hcause5⟩, fun _ h => ?_, nofun, nofun⟩
        · rw [countEdges_csw, hlost, hcsw]
        · simp [hfall.1, hfall.2] at h
      · rw [if_neg hfall] at hexec
        refine ⟨_, hexec, by rw [countEdges_csw, hcsw], fun _ h => absurd h hactive, fun _ h h' => absurd ⟨h, h'⟩ hfall, fun _ _ => ⟨?_, ?_⟩, nofun, nofun⟩
        · rw [countEdges_csw, hcsw, ha, Bool.not_false, Bool.and_true]
        · rw [hb]
          exact ((State.reach_keep (L := { clk := true }) (Keep.refl s) t).frame.comp (beatsLost_keep (s.reach t)).frame rfl rfl).countEdges s

/-- A lane that was up goes down. -/
theorem laneDown_left (hd : s.csw.dark = false) (hl : lane < 2) (hu : vget s.csw.laneUp lane false = true) :
    ∃ u, exec (.laneDown lane) s = .next u ∧ vget u.csw.laneUp lane false = false ∧ u.csw.cause.getLsbD 3 = true ∧
      (s.csw.role = .standby → s.csw.claim = true → vget s.csw.laneUp (1 - lane) false = false → u.csw.role = .syncing ∧ u.csw.storeComplete = false) ∧
      (s.csw.role ≠ .standby ∨ s.csw.claim = false ∨ vget s.csw.laneUp (1 - lane) false = true →
        u.csw = { s.csw with laneUp := vset s.csw.laneUp lane false, cause := setBit s.csw.cause 3 true } ∧ Frame { csw := true, evr := true } s u) := by
  have hdown : vget (s.laneLost lane).csw.laneUp lane false = false := by rw [laneLost_csw, vget_vset, if_pos ⟨rfl, hl⟩]
  have hcause := laneLost_cause s lane
  have hexec := exec_laneDown hd hl hu
  by_cases hfall : (!vget s.csw.laneUp (1 - lane) false) = true ∧ s.csw.claim = true ∧ s.csw.role = .standby
  · rw [if_pos hfall] at hexec
    obtain ⟨hrole, -, hstore, -, -, -, hup, -, -, hkept⟩ := fallBack_csw (s := s.laneLost lane) (by rw [laneLost_csw]; exact hfall.2.2)
    refine ⟨_, hexec, by rw [countEdges_csw, hup, hdown], hkept 3 (by decide) hcause, fun _ _ _ => ⟨hrole, hstore⟩, fun h => ?_⟩
    obtain ⟨hother, hclaim, hstandby⟩ := hfall
    simp [hstandby, hclaim, (Bool.not_eq_true' _).mp hother] at h
  · rw [if_neg hfall] at hexec
    refine ⟨_, hexec, hdown, hcause, fun hr hc ho => absurd ⟨by rw [ho]; rfl, hc, hr⟩ hfall, fun _ => ⟨laneLost_csw s lane, ?_⟩⟩
    exact (State.cswCause_keep (L := { csw := true, evr := true }) ((Keep.refl s).upCsw _) 3).frame.countEdges s

/-- Settles O9: HEARTBEAT_SEND by the lanes that are up, HEARTBEAT_RECEIVE by the role, and the losses by what CWA and the other lane show. -/
theorem heartbeatsAndTheirLoss : Obligations.HeartbeatsAndTheirLoss := by
  intro s lane t0 n0 f p env c hlane hp hd
  subst hp
  refine ⟨?_, fun hn hc hecc hform htype hnode hseen hlost hrole hm => ?_, fun hecc hbad => ?_, fun hhard => ?_, fun h => answer_reach_same (exec_heartbeatLost_early h),
    heartbeatLost_left hd, laneDown_left hd hlane, exec_laneDown_idle⟩
  · refine ⟨_, exec_heartbeatSend hd t0, ⟨_, rfl, ?_⟩, sendBoth_csw .., (State.sendBoth_keep (State.reach_keep (Keep.refl s) t0) _ _ _).frame.countEdges s⟩
    rw [countEdges_net, sendBoth_net]
    rfl
  · have h : s.Hears f env := ⟨hd, hecc, hform, hnode, hseen, hlost, hrole⟩
    subst hn
    subst hc
    refine ⟨fun hr hb => heartbeatReceive_records h htype hm (.inr (.inr ⟨hr, hb⟩)) lane t0, fun hr => heartbeatReceive_records h htype hm (hr.imp_right .inl) lane t0,
      fun hr hb => heartbeatReceive_resync h htype hm hr hb lane t0, fun hr h3 => ?_⟩
    obtain ⟨u, hu, hcsw, hldr, hframe⟩ := heartbeatReceive_active h htype hm hr h3 lane t0
    refine ⟨u, hu, ?_, ?_, hldr, hframe⟩ <;> rw [hcsw] <;> rfl
  · have hother : cwFormOk f = false ∨ cwNode f ≠ s.partnerNode ∧ cwType f ≠ 6 := hbad.imp_right (fun h => ⟨h.1, by omega⟩)
    exact answer_discard (congrArg (commit s) (cwArrives_discard hd hother lane t0 hecc))
  · refine ⟨_, congrArg (commit s) (cwArrives_hard hd lane t0 f hhard), ?_, ?_⟩
    · rw [countEdges_csw, cwDiscard_csw, cwErrors_csw]
      rfl
    · exact (State.cwDiscard_keep (State.cwErrors_keep (State.reach_keep (Keep.refl s) t0) _)).frame.countEdges s

end Sys2Proof.Machine
end

section
/-! PROOFS. CWA and the start-up negotiation (07 R203, R205, R207 to R210, R219, R221): this unit's burst, the partner's by what it says, and how a negotiation ends. -/

namespace Sys2Proof.Machine

open Sys2Proof

variable {s : State} {t : Nat} {burst : Option Byte} {f : List Byte}

/-! ### CWA_CYCLE (07 R207) -/

/-- The network block once this unit has driven its burst of the cycle. -/
def State.burstNet (s : State) (burst : Option Byte) : Net :=
  if s.csw.cwaMaster = true ∨ burst.isSome = true then
    { s.net with sent := .cwa (if (s.csw.role = .active ∧ s.csw.withdraw = false) ∨ s.csw.claimOn = true then 0x5A else 0xA5) :: s.net.sent }
  else s.net

/-- A state that time has reached and in which this unit has driven its burst. -/
def State.driven (s : State) (t : Nat) (burst : Option Byte) : State := (s.reach t).upNet (fun _ => s.burstNet burst)

theorem driven_keep {L : Parts} (s : State) (t : Nat) (burst : Option Byte) (hclk : L.clk = true := by rfl) (hnet : L.net = true := by rfl) : Keep L s (s.driven t burst) :=
  (State.reach_keep (Keep.refl s) t).upNet _

theorem driven_eq (s : State) (t : Nat) (burst : Option Byte) :
    (if s.csw.cwaMaster = true ∨ burst.isSome = true then (s.reach t).send (.cwa (s.reach t).burstCode) else s.reach t) = s.driven t burst := by
  have hcode : (s.reach t).burstCode = if (s.csw.role = .active ∧ s.csw.withdraw = false) ∨ s.csw.claimOn = true then 0x5A else 0xA5 := by
    unfold State.burstCode
    simp
  unfold State.driven State.burstNet
  rw [hcode]
  split <;> rfl

/-- What every valid burst of the partner records. -/
def Csw.burstSeen (c : Csw) (now : Nat) : Csw := { c with cwaUp := true, cwaAbsent := false, cwaMiss := 0, partnerSeen := true, seenAt := c.seenAt.max now }

section
variable (hd : s.csw.dark = false)
include hd

theorem cwaCycle_claim (t : Nat) : s.cwaCycle t (some 0x5A) = ((s.driven t (some 0x5A)).upCsw (·.burstSeen (max s.clk.now t))).claimSeen := by
  unfold State.cwaCycle
  dsimp only
  rw [State.reach_csw, hd, if_neg (by decide), driven_eq, if_neg (by decide), if_pos rfl]
  rfl

theorem cwaCycle_idle (t : Nat) : s.cwaCycle t (some 0xA5) = ((s.driven t (some 0xA5)).upCsw (·.burstSeen (max s.clk.now t))).idleSeen t := by
  unfold State.cwaCycle
  dsimp only
  rw [State.reach_csw, hd, if_neg (by decide), driven_eq, if_neg (by decide), if_neg (by decide)]
  rfl

theorem cwaCycle_missing (h1 : burst ≠ some 0x5A) (h2 : burst ≠ some 0xA5) (t : Nat) : s.cwaCycle t burst = (s.driven t burst).burstMissing := by
  unfold State.cwaCycle
  dsimp only
  rw [State.reach_csw, hd, if_neg (by decide), driven_eq, decide_eq_false (not_or.mpr ⟨h1, h2⟩), if_pos (by decide)]

end

/-- What is left where a cycle changes of the redundancy subsystem `k` alone, besides the burst. -/
theorem driven_left {u : State} {k : Csw} (hu : u = (s.driven t burst).upCsw (fun _ => k)) :
    (countEdges s u).csw = k ∧ (countEdges s u).net = s.burstNet burst ∧ Frame { clk := true, csw := true, net := true } s (countEdges s u) := by
  subst hu
  exact ⟨rfl, rfl, ((driven_keep s t burst).upCsw _).frame.countEdges s⟩

/-! ### The partner's claim (07 R207, R230) -/

/-- The claim, recorded. -/
def Csw.claimed (c : Csw) : Csw := { c with
  claim := true, cwaSeenClaim := true, cwaIdle := 0, claimOn := false, negHeard := true, withdraw := c.withdraw || (decide (c.role = .active) && c.handBeat.isSome) }

theorem claimSeen_records (h : s.csw.role ≠ .negotiating) : s.claimSeen = s.upCsw Csw.claimed := if_neg h

theorem claimSeen_loses (h : s.csw.role = .negotiating) : s.claimSeen = (s.upCsw Csw.claimed).loseNegotiation := if_pos h

/-- A unit that no longer governs holds no station frame (07 R200). -/
theorem transition_net {new : RoleState} (h : ¬ (new = .solo ∨ new = .active)) (reason gap : Nat) : (s.transition new reason gap).net = { s.net with txq := [], unacked := [] } := by
  obtain ⟨u, hu⟩ : ∃ u : State, u = s.upCsw (fun c => { c with
    role := new, claimOn := false, sinceActive := if s.csw.role = .active ∧ new ≠ .active then s.otMs else c.sinceActive, drillLast := if new = .active then none else c.drillLast
    lastTrans := leBytes 8 s.sto.msCount ++ leBytes 1 s.csw.role.code ++ leBytes 1 new.code ++ leBytes 1 reason ++ zeros 1 ++ leBytes 4 gap }) := ⟨_, rfl⟩
  have hgoverns : u.governs = false := by
    rw [hu]
    exact decide_eq_false h
  unfold State.transition
  dsimp only
  rw [← hu, hgoverns, if_neg (by decide), hu]
  rfl

theorem toSyncing_net (s : State) : s.toSyncing.net = { s.net with txq := [], unacked := [] } :=
  (transition_net (s := s) (new := .syncing) (by decide) 0 0 :)

theorem loseNegotiation_net (s : State) : s.loseNegotiation.net = { s.net with txq := [], unacked := [] } := by
  unfold State.loseNegotiation
  rw [(State.finishStart_keep (L := { sto := true, csw := true, fio := true, host := true, wdg := true, evr := true, pwr := true }) (Keep.refl _)).frame.net rfl, toSyncing_net]

/-! ### A burst of 0xA5 (07 R207, R221) -/

theorem idleSeen_noClaim (h : s.csw.cwaSeenClaim = false) (t : Nat) : s.idleSeen t = s.upCsw (fun c => { c with claim := false }) := by
  unfold State.idleSeen
  rw [h]
  rfl

theorem idleSeen_counts (h : s.csw.cwaSeenClaim = true) (hi : s.csw.cwaIdle < 4) (t : Nat) : s.idleSeen t = s.upCsw (fun c => { c with cwaIdle := c.cwaIdle + 1 }) := by
  unfold State.idleSeen
  rw [h, if_neg (by decide), if_pos (by omega)]

/-- The partner claims no longer. -/
def State.unclaimed (s : State) : State := s.upCsw (fun c => { c with claim := false, cwaSeenClaim := false, cwaIdle := 0 })

/-- The fifth in a row after a claim ends the claim, which an ACTIVE unit only records. -/
theorem idleSeen_fifth (h : s.csw.cwaSeenClaim = true) (hi : 4 ≤ s.csw.cwaIdle) (t : Nat) :
    s.idleSeen t = if s.csw.role = .active then s.unclaimed else s.unclaimed.partnerLost 0 t false := by
  unfold State.idleSeen
  rw [h, if_neg (by decide), if_neg (by omega)]
  rfl

/-! ### A cycle without a valid burst (07 R207) -/

/-- The partner is absent on CWA: with a cause where CWA had been up and a lane is. -/
def State.cwaGone (s : State) : State :=
  let gone := s.upCsw (fun c => { c with cwaMiss := 5, cwaAbsent := true, cwaUp := false, claim := false, cwaSeenClaim := false, cwaIdle := 0 })
  if s.csw.cwaUp = true ∧ (!s.lanesUp.isEmpty) = true then gone.cswCause 4 else gone

theorem cwaGone_csw (s : State) : s.cwaGone.csw = { s.csw with cwaMiss := 5, cwaAbsent := true, cwaUp := false, claim := false, cwaSeenClaim := false, cwaIdle := 0
                                                               cause := if s.csw.cwaUp = true ∧ s.lanesUp ≠ [] then setBit s.csw.cause 4 true else s.csw.cause } := by
  have hlanes : (!s.lanesUp.isEmpty) = true ↔ s.lanesUp ≠ [] := by simp
  unfold State.cwaGone
  simp only [hlanes]
  split
  · rw [State.cswCause_csw]
    rfl
  · rfl

theorem cwaGone_keep {L : Parts} {o : State} (h : Keep L o s) (hcsw : L.csw = true := by rfl) (hevr : L.evr = true := by rfl) : Keep L o s.cwaGone :=
  Keep.ite (State.cswCause_keep (h.upCsw _) 4) (h.upCsw _)

theorem burstMissing_counts (h : s.csw.cwaMiss < 4) : s.burstMissing = s.upCsw (fun c => { c with cwaMiss := c.cwaMiss + 1 }) := if_pos (by omega)

theorem burstMissing_absent (h : 4 ≤ s.csw.cwaMiss) (ha : s.csw.cwaAbsent = true) : s.burstMissing = s := by
  unfold State.burstMissing
  rw [if_neg (by omega), if_pos ha]

theorem burstMissing_fifth (h : 4 ≤ s.csw.cwaMiss) (ha : s.csw.cwaAbsent = false) : s.burstMissing = s.cwaGone.partnerSilent := by
  unfold State.burstMissing
  rw [if_neg (by omega), if_neg (by simp [ha])]
  rfl

/-- While heartbeats arrive the partner is only absent on CWA. -/
theorem burstMissing_heard (h : 4 ≤ s.csw.cwaMiss) (ha : s.csw.cwaAbsent = false) (hl : s.csw.hbLost = false) : s.burstMissing = s.cwaGone := by
  rw [burstMissing_fifth h ha, partnerSilent_heard (by rw [cwaGone_csw]; exact hl)]

/-! ### CWA_MASTER_TAKEOVER (07 R207) -/

/-- This unit drives CWA. -/
def State.master (s : State) : State := s.upCsw (fun c => { c with cwaMaster := true })

theorem exec_cwaMasterTakeover (hd : s.csw.dark = false) : exec .cwaMasterTakeover s = commit s (
    if s.csw.cwaAbsent = true then s.master else (s.master.upCsw (fun c => { c with cwaMiss := 4 })).burstMissing) := by
  show commit s (if s.csw.dark = true then s else _) = _
  rw [hd, if_neg (by decide)]
  rfl

/-- Whatever the absence of the partner leads to, the unit is master. -/
theorem masterMissing_master (ha : s.csw.cwaAbsent = false) : (s.master.upCsw (fun c => { c with cwaMiss := 4 })).burstMissing.csw.cwaMaster = true := by
  have hmiss : 4 ≤ (s.master.upCsw (fun c => { c with cwaMiss := 4 })).csw.cwaMiss := Nat.le_refl 4
  rw [burstMissing_fifth hmiss ha, (partnerSilent_stays _).2, cwaGone_csw]
  rfl

/-! ### The negotiation (07 R209, R210) -/

/-- The payload of a NEGOTIATE frame. -/
def State.rankPayload (s : State) : List Byte :=
  leBytes 8 (s.rankKeys[2]?.getD 0) ++ leBytes 2 (s.rankKeys[1]?.getD 0) ++ leBytes 1 (s.rankKeys[3]?.getD 0) ++
    leBytes 1 (bit s.csw.storeComplete + 2 * bit s.ldr.img.isSome) ++ zeros 4 ++ padTo 32 s.ldr.digest

theorem exec_negotiateSend (hd : s.csw.dark = false) (hr : s.csw.role = .negotiating) (t : Nat) : exec (.negotiateSend t) s =
    commit s (((s.reach t).send (.cw 0 (s.cwFrame 0x06 0 0 s.rankPayload))).send (.cw 1 (s.cwFrame 0x06 1 0 s.rankPayload))) := by
  show commit s (if (s.csw.dark || decide (s.csw.role ≠ .negotiating)) = true then _ else _) = _
  rw [if_neg (by simp [hd, hr])]
  rfl

theorem exec_negotiateSend_idle (hr : s.csw.role ≠ .negotiating) (t : Nat) : exec (.negotiateSend t) s = commit s (s.reach t) := by
  show commit s (if (s.csw.dark || decide (s.csw.role ≠ .negotiating)) = true then _ else _) = _
  rw [if_pos (by simp [hr])]

/-- A NEGOTIATE of the configured partner over a short enough link decides by the ranks. -/
theorem negotiate_ranks (hr : s.csw.role = .negotiating) (hn : cwNode f = s.partnerNode) (hdelay : s.csw.delay ≤ 50000) : s.negotiate f =
    if ranksAbove s.rankKeys (frameKeys f) s.node (cwNode f) = true then (s.upCsw (fun c => { c with negHeard := true })).winNegotiation true false
    else (s.upCsw (fun c => { c with negHeard := true })).loseNegotiation := by
  have hpair : ¬ (cwNode f ≠ (s.upCsw (fun c => { c with negHeard := true })).partnerNode ∨ 50000 < (s.upCsw (fun c => { c with negHeard := true })).csw.delay) := by
    rintro (h | h)
    · exact h hn
    · exact absurd hdelay (Nat.not_le.mpr h)
  unfold State.negotiate
  rw [if_neg (not_not_intro hr)]
  exact if_neg hpair

theorem exec_negotiationTimeout (hd : s.csw.dark = false) (hr : s.csw.role = .negotiating) (hh : s.csw.negHeard = false) (ht : s.csw.negSince + 200000000 ≤ t) :
    exec (.negotiationTimeout t) s = commit s ((s.reach t).winNegotiation true true) := by
  show commit s (if s.csw.role ≠ .negotiating ∨ s.csw.dark = true ∨ s.csw.negHeard = true ∨ t < s.csw.negSince + 200000000 then _ else _) = _
  rw [if_neg (by simp [hd, hr, hh, ht])]

theorem exec_negotiationTimeout_idle (h : s.csw.role ≠ .negotiating ∨ s.csw.negHeard = true ∨ t < s.csw.negSince + 200000000) :
    exec (.negotiationTimeout t) s = commit s (s.reach t) := by
  show commit s (if s.csw.role ≠ .negotiating ∨ s.csw.dark = true ∨ s.csw.negHeard = true ∨ t < s.csw.negSince + 200000000 then _ else _) = _
  rw [if_pos (h.imp_right .inr)]

/-! ### The statement -/

theorem cwaCycle_claim_left (hd : s.csw.dark = false) (t : Nat) : ∃ u, exec (.cwaCycle t (some 0x5A)) s = .next u ∧ u.csw.claim = true ∧ u.csw.cwaSeenClaim = true ∧
    (s.csw.role ≠ .negotiating → u.csw = (s.csw.burstSeen (max s.clk.now t)).claimed ∧ u.net = s.burstNet (some 0x5A) ∧ Frame { clk := true, csw := true, net := true } s u) ∧
    (s.csw.role = .negotiating → u.csw.role = .syncing ∧ u.csw.ackPos = 0 ∧ u.csw.storeComplete = false ∧ u.net = { s.burstNet (some 0x5A) with txq := [], unacked := [] }) := by
  have hexec : exec (.cwaCycle t (some 0x5A)) s = commit s _ := congrArg (commit s) (cwaCycle_claim hd t)
  by_cases hr : s.csw.role = .negotiating
  · rw [claimSeen_loses (s := (s.driven t (some 0x5A)).upCsw (·.burstSeen (max s.clk.now t))) hr] at hexec
    obtain ⟨hrole, hack, hstore, -, hclaim, hseen⟩ := loseNegotiation_csw (((s.driven t (some 0x5A)).upCsw (·.burstSeen (max s.clk.now t))).upCsw Csw.claimed)
    exact ⟨_, hexec, hclaim, hseen, fun h => absurd hr h, fun _ => ⟨hrole, hack, hstore, loseNegotiation_net _⟩⟩
  · rw [claimSeen_records (s := (s.driven t (some 0x5A)).upCsw (·.burstSeen (max s.clk.now t))) hr] at hexec
    exact ⟨_, hexec, rfl, rfl, fun _ => driven_left rfl, fun h => absurd h hr⟩

theorem cwaCycle_idle_left (hd : s.csw.dark = false) (t : Nat) {c : Csw} (hc : c = s.csw.burstSeen (max s.clk.now t)) : ∃ u, exec (.cwaCycle t (some 0xA5)) s = .next u ∧
    (s.csw.cwaSeenClaim = false → u.csw = { c with claim := false } ∧ u.net = s.burstNet (some 0xA5) ∧ Frame { clk := true, csw := true, net := true } s u) ∧
    (s.csw.cwaSeenClaim = true → s.csw.cwaIdle < 4 → u.csw = { c with cwaIdle := s.csw.cwaIdle + 1 } ∧ u.net = s.burstNet (some 0xA5) ∧ Frame { clk := true, csw := true, net := true } s u) ∧
    (s.csw.cwaSeenClaim = true → 4 ≤ s.csw.cwaIdle → s.csw.role = .standby → s.csw.takeoverPend = none → s.pwr.parkReq = 0 →
      u.csw = { c with claim := false, cwaSeenClaim := false, cwaIdle := 0, takeoverPend := some 0, takeoverRef := t, termNeedsConfirm := false } ∧ u.net = s.burstNet (some 0xA5) ∧
        Frame { clk := true, csw := true, net := true } s u) ∧
    (s.csw.cwaSeenClaim = true → 4 ≤ s.csw.cwaIdle → s.csw.role = .active →
      u.csw = { c with claim := false, cwaSeenClaim := false, cwaIdle := 0 } ∧ u.net = s.burstNet (some 0xA5) ∧ Frame { clk := true, csw := true, net := true } s u) := by
  subst hc
  obtain ⟨b, hb⟩ : ∃ b, b = (s.driven t (some 0xA5)).upCsw (·.burstSeen (max s.clk.now t)) := ⟨_, rfl⟩
  have hexec : exec (.cwaCycle t (some 0xA5)) s = commit s (b.idleSeen t) := hb ▸ congrArg (commit s) (cwaCycle_idle hd t)
  have hcsw : b.csw = s.csw.burstSeen (max s.clk.now t) := by rw [hb]; rfl
  have hclaim : b.csw.cwaSeenClaim = s.csw.cwaSeenClaim := by rw [hcsw]; rfl
  have hcount : b.csw.cwaIdle = s.csw.cwaIdle := by rw [hcsw]; rfl
  have hrole : b.csw.role = s.csw.role := by rw [hcsw]; rfl
  refine ⟨_, hexec, fun h => driven_left (t := t) ?_, fun h hi => driven_left (t := t) ?_, fun h hi hr hp hk => driven_left (t := t) ?_, fun h hi hr => driven_left (t := t) ?_⟩
  · rw [idleSeen_noClaim (hclaim.trans h), hb]
    rfl
  · rw [idleSeen_counts (hclaim.trans h) (hcount ▸ hi), hb]
    rfl
  · have hnone : b.unclaimed.csw.takeoverPend = none := by
      rw [hb]
      exact hp
    have hpark : b.unclaimed.pwr.parkReq = 0 := by
      rw [hb]
      exact hk
    rw [idleSeen_fifth (hclaim.trans h) (hcount ▸ hi), if_neg (by rw [hrole, hr]; decide), partnerLost_standby (s := b.unclaimed) (hrole.trans hr), takeoverDetect_free hnone hpark, hb]
    rfl
  · rw [idleSeen_fifth (hclaim.trans h) (hcount ▸ hi), if_pos (hrole.trans hr), hb]
    rfl

theorem cwaCycle_missing_left (hd : s.csw.dark = false) (h1 : burst ≠ some 0x5A) (h2 : burst ≠ some 0xA5) (t : Nat) : ∃ u, exec (.cwaCycle t burst) s = .next u ∧
    (s.csw.cwaMiss < 4 → u.csw = { s.csw with cwaMiss := s.csw.cwaMiss + 1 } ∧ u.net = s.burstNet burst ∧ Frame { clk := true, csw := true, net := true } s u) ∧
    (4 ≤ s.csw.cwaMiss → s.csw.cwaAbsent = true → u.csw = s.csw ∧ u.net = s.burstNet burst ∧ Frame { clk := true, net := true } s u) ∧
    (4 ≤ s.csw.cwaMiss → s.csw.cwaAbsent = false → s.csw.hbLost = false → u.csw = s.cwaGone.csw ∧ u.net = s.burstNet burst ∧ Frame { clk := true, csw := true, net := true, evr := true } s u) := by
  refine ⟨_, congrArg (commit s) (cwaCycle_missing hd h1 h2 t), fun h => driven_left (t := t) ?_, fun h ha => ?_, fun h ha hl => ?_⟩
  · rw [burstMissing_counts (s := s.driven t burst) h]
    rfl
  · rw [burstMissing_absent (s := s.driven t burst) h ha]
    exact ⟨rfl, rfl, (driven_keep s t burst).frame.countEdges s⟩
  · rw [burstMissing_heard (s := s.driven t burst) h ha hl]
    refine ⟨?_, ?_, (cwaGone_keep (driven_keep s t burst)).frame.countEdges s⟩
    · rw [countEdges_csw, cwaGone_csw, cwaGone_csw]
      rfl
    · exact (cwaGone_keep (L := { csw := true, evr := true }) (Keep.refl (s.driven t burst))).frame.net rfl

theorem cwaMasterTakeover_left (hd : s.csw.dark = false) : ∃ u, exec .cwaMasterTakeover s = .next u ∧ u.csw.cwaMaster = true ∧
    (s.csw.cwaAbsent = true → u.csw = { s.csw with cwaMaster := true } ∧ Frame { csw := true } s u) ∧
    (s.csw.cwaAbsent = false → s.csw.hbLost = false → u.csw = { s.cwaGone.csw with cwaMaster := true } ∧ Frame { csw := true, evr := true } s u) := by
  have hexec := exec_cwaMasterTakeover hd
  cases ha : s.csw.cwaAbsent with
  | true =>
    rw [if_pos ha] at hexec
    exact ⟨_, hexec, rfl, fun _ => ⟨rfl, ((Keep.refl s).upCsw _).frame.countEdges s⟩, nofun⟩
  | false =>
    rw [if_neg (by rw [ha]; decide)] at hexec
    refine ⟨_, hexec, masterMissing_master ha, nofun, fun _ hl => ?_⟩
    have hmiss : 4 ≤ (s.master.upCsw (fun c => { c with cwaMiss := 4 })).csw.cwaMiss := Nat.le_refl 4
    rw [burstMissing_heard hmiss ha hl]
    refine ⟨?_, (cwaGone_keep (((Keep.refl s).upCsw _).upCsw _)).frame.countEdges s⟩
    rw [countEdges_csw, cwaGone_csw, cwaGone_csw]
    rfl

/-- A NEGOTIATE of the partner: the higher rank governs, the other unit synchronises. -/
theorem negotiateReceive_left {env : CwIn} (h : s.Hears f env) (ht : cwType f = 6) (hr : s.csw.role = .negotiating) (hdelay : s.csw.delay ≤ 50000) (lane t : Nat) :
    ∃ u, exec (.negotiateReceive lane t f env) s = .next u ∧
      (ranksAbove s.rankKeys (frameKeys f) s.node (cwNode f) = false → u.csw.role = .syncing ∧ u.csw.ackPos = 0 ∧ u.csw.storeComplete = false ∧ u.csw.term = s.csw.term) ∧
      (∀ n, n = s.net.slots.toList.foldl (fun m x => max m x.accTerm) (max s.csw.term (cwTerm f)) → ranksAbove s.rankKeys (frameKeys f) s.node (cwNode f) = true →
        (n < 0xFFFF → u.csw.role = .active ∧ u.csw.term = n + 1 ∧ u.csw.redLost = true ∧ u.csw.storeComplete = true) ∧ (0xFFFF ≤ n → u.csw.role = .failed ∧ u.csw.failReason = 5)) := by
  have hexec : exec (.negotiateReceive lane t f env) s = commit s _ :=
    congrArg (commit s) ((h.negotiate lane t ht).trans (negotiate_ranks (s := s.heard lane t f) hr h.node hdelay))
  rw [show (s.heard lane t f).rankKeys = s.rankKeys from rfl, show (s.heard lane t f).node = s.node from rfl] at hexec
  cases hrank : ranksAbove s.rankKeys (frameKeys f) s.node (cwNode f) with
  | false =>
    rw [if_neg (by rw [hrank]; decide)] at hexec
    obtain ⟨hrole, hack, hstore, hterm, -⟩ := loseNegotiation_csw ((s.heard lane t f).upCsw (fun c => { c with negHeard := true }))
    exact ⟨_, hexec, fun _ => ⟨hrole, hack, hstore, hterm⟩, nofun⟩
  | true =>
    rw [if_pos hrank] at hexec
    obtain ⟨hwins, hnoTerm⟩ := winNegotiation_csw ((s.heard lane t f).upCsw (fun c => { c with negHeard := true })) true false
    refine ⟨_, hexec, nofun, fun n hn _ => ?_⟩
    subst hn
    refine ⟨fun hlow => ?_, hnoTerm⟩
    obtain ⟨hrole, hterm, hred, -, hstore⟩ := hwins hlow
    exact ⟨hrole, hterm, hred, hstore⟩

/-- Settles O10: CWA_CYCLE by the partner's burst, and each command of the negotiation by what this unit is and has heard. -/
theorem cwaAndTheNegotiation : Obligations.CwaAndTheNegotiation := by
  intro s lane t0 f env burst net c hd hnet hc
  subst hnet
  subst hc
  refine ⟨fun hb => ?_, fun hb => ?_, fun h1 h2 => ?_, ?_, fun hr => ?_, fun hr => answer_reach (exec_negotiateSend_idle hr t0),
    fun hr hecc hform htype hnode hseen hlost hrole hdelay => negotiateReceive_left ⟨hd, hecc, hform, hnode, hseen, hlost, hrole⟩ htype hr hdelay lane t0,
    fun hr hh ht => ?_, fun h => answer_reach (exec_negotiationTimeout_idle h)⟩
  · subst hb
    exact cwaCycle_claim_left hd t0
  · subst hb
    exact cwaCycle_idle_left hd t0 rfl
  · have h := cwaCycle_missing_left hd h1 h2 t0
    rw [cwaGone_csw] at h
    exact h
  · have h := cwaMasterTakeover_left hd
    rw [cwaGone_csw] at h
    exact h
  · exact ⟨_, exec_negotiateSend hd hr t0, ⟨_, rfl, rfl⟩, (State.send_keep (State.send_keep (State.reach_keep (Keep.refl s) t0) _) _).frame.countEdges s⟩
  · obtain ⟨hwins, hnoTerm⟩ := winNegotiation_csw (s.reach t0) true true
    refine ⟨_, exec_negotiationTimeout hd hr hh ht, fun hlow => ?_, hnoTerm⟩
    obtain ⟨hrole, hterm, hred, hconfirm, -⟩ := hwins hlow
    exact ⟨hrole, hterm, hred, hconfirm⟩

end Sys2Proof.Machine
end

section
/-! PROOFS. The causeway stream (07 R211, R214 to R220): milestones and stores that enter it, what is sent again, and the records that a STANDBY takes from it. -/

namespace Sys2Proof.Machine

open Sys2Proof

variable {s : State} {lane t : Nat} {f p : List Byte} {env : CwIn}

/-! ### The sender (07 R214, R216, R219) -/

/-- Frames `l` leave, and the redundancy subsystem becomes `k` of what it was. -/
def State.sends (s : State) (l : List Sent) (k : Csw → Csw) : State := (s.upNet (fun n => { n with sent := l ++ n.sent })).upCsw k

/-- What a command does that sends frames and changes the redundancy subsystem besides. -/
theorem answer_sends {c : Instr} {u : State} {l : List Sent} {k : Csw → Csw} (h : exec c s = commit s u) (hu : u = s.sends l k) :
    ∃ v, exec c s = .next v ∧ v.net = { s.net with sent := l ++ s.net.sent } ∧ v.csw = k s.csw ∧ Frame { csw := true, net := true } s v := by
  subst hu
  exact ⟨_, h, rfl, rfl, (((Keep.refl s).upNet _).upCsw _).frame.countEdges s⟩

/-- A block `b` in the stream: the position, the latest 512 KiB of it, the marks of its blocks `q`, and the next lane `a`. -/
def Csw.streamed (c : Csw) (b : List Byte) (a : Nat) (q : List (Nat × Nat)) : Csw := { c with
  cwLane := a, pos := c.pos + b.length, stream := (c.stream ++ b).drop ((c.stream ++ b).length - 524288), blocks := q }

theorem streamOut_sends (s : State) (b : List Byte) : ∃ l a q, s.streamOut b = s.sends l (·.streamed b a q) := by
  obtain ⟨l, a, q, h⟩ := streamOut_eq s b
  rw [show resendMax = 524288 from rfl] at h
  exact ⟨l, a, q, h⟩

/-- The oldest waiting milestone enters the stream. -/
theorem sendMilestone_sends {m : Milestone} {ms : List Milestone} (hs : s.csw.sendMs = m :: ms) (hm : s.maySend = true) :
    ∃ l a q, s.sendMilestone = s.sends l (fun c => { c.streamed m.records a q with
      sendMs := ms, sending := some m.num, lagList := c.lagList.map (fun x => if x.1 = m.num then (x.1, (x.2.1, some (c.pos + m.records.length))) else x) }) := by
  obtain ⟨l, a, q, h⟩ := streamOut_sends s m.records
  refine ⟨l, a, q, ?_⟩
  unfold State.sendMilestone
  rw [hs]
  dsimp only
  rw [if_pos hm, h]
  rfl

/-- With nothing waiting, or no way to send, a milestone stays where it is. -/
theorem sendMilestone_waits (h : s.csw.sendMs = [] ∨ s.maySend = false) : s.sendMilestone = s := by
  unfold State.sendMilestone
  split
  · rfl
  · next m rest hs =>
    rcases h with h | h
    · rw [hs] at h; cases h
    · rw [h, if_neg (by decide)]

/-- While something keeps it, no bulk record is sent. -/
theorem sendBulk_waits (h : s.csw.sendMs ≠ [] ∨ s.maySend = false ∨ s.csw.partnerRole ≠ 3 ∨ s.settledAll = false) (n : Nat) : s.sendBulk n = s := by
  unfold State.sendBulk
  rw [if_pos]
  rcases h with h | h | h | h <;> simp [h]

section
variable (hm : s.maySend = true) (he : s.csw.sendMs = []) (hr : s.csw.partnerRole = 3) (hset : s.settledAll = true)
include hm he hr hset

/-- The BULK record of `k` groups that comes next: of the program store, then of the durable store of instances. -/
theorem sendBulk_record {n k : Nat} (hoff : s.csw.bulkOff < 50331648)
    (hk : k = min (min n 255) ((if s.csw.bulkOff < programSize then programSize - s.csw.bulkOff else 50331648 - s.csw.bulkOff) / 16)) (hpos : 0 < k) {r : List Byte}
    (hrec : r = if s.csw.bulkOff < programSize then streamRecord 0x20 (2 ^ 63 + s.csw.bulkOff) (memBytes s.sto.program s.csw.bulkOff (16 * k))
      else streamRecord 0x20 (instBase + (s.csw.bulkOff - programSize)) (memBytes s.sto.durable (instBase + (s.csw.bulkOff - programSize)) (16 * k))) :
    ∃ l a q, s.sendBulk n = s.sends l (fun c => { c.streamed r a q with
      bulkOff := s.csw.bulkOff + 16 * k, bulkTotal := c.bulkTotal + 16 * k, bulkPct := 100 * (s.csw.bulkOff + 16 * k) / 50331648 }) := by
  obtain ⟨l, a, q, h⟩ := streamOut_sends s r
  refine ⟨l, a, q, ?_⟩
  unfold State.sendBulk
  rw [if_neg (by simp [hm, he, hr, hset]), show bulkSize = 50331648 from rfl]
  dsimp only
  rw [if_neg (Nat.not_le.mpr hoff), ← hk, if_neg (by omega), ← hrec, h]
  rfl

/-- After the last record one BULK_END. -/
theorem sendBulk_end (n : Nat) (hoff : 50331648 ≤ s.csw.bulkOff) (hend : s.csw.bulkEnd = false) :
    ∃ l a q, s.sendBulk n = s.sends l (fun c => { c.streamed (streamRecord 0x21 s.csw.bulkTotal []) a q with bulkEnd := true }) := by
  obtain ⟨l, a, q, h⟩ := streamOut_sends s (streamRecord 0x21 s.csw.bulkTotal [])
  refine ⟨l, a, q, ?_⟩
  unfold State.sendBulk
  rw [if_neg (by simp [hm, he, hr, hset]), show bulkSize = 50331648 from rfl]
  dsimp only
  rw [if_pos hoff, hend, if_neg (by decide), h]
  rfl

theorem sendBulk_ended (n : Nat) (hoff : 50331648 ≤ s.csw.bulkOff) (hend : s.csw.bulkEnd = true) : s.sendBulk n = s := by
  unfold State.sendBulk
  rw [if_neg (by simp [hm, he, hr, hset]), show bulkSize = 50331648 from rfl]
  dsimp only
  rw [if_pos hoff, if_pos hend]

end

/-- Blocks sent again only leave, and take the lanes in turn. -/
theorem resendBlocks_sends (a oldest : Nat) : ∀ (blocks : List (Nat × Nat)) (s : State), ∃ l k,
    blocks.foldl (fun acc x => acc.resendBlock a oldest x) s = s.sends l (fun c => { c with cwLane := k })
  | [], s => ⟨[], s.csw.cwLane, rfl⟩
  | x :: rest, s => by
    obtain ⟨l, k, h⟩ := streamFrames_net (x.2 / 4096 + 1) (decide (max a x.1 = x.1)) (max a x.1) ((s.csw.stream.drop (max a x.1 - oldest)).take (x.1 + x.2 - max a x.1)) s
    obtain ⟨l', k', h'⟩ := resendBlocks_sends a oldest rest (s.resendBlock a oldest x)
    refine ⟨l' ++ l, k', ?_⟩
    rw [List.foldl_cons, h', show s.resendBlock a oldest x = s.sends l (fun c => { c with cwLane := k }) from h]
    unfold State.sends
    simp only [List.append_assoc]
    rfl

theorem resend_idle (h : s.csw.role ≠ .active ∨ s.hasPartner = false ∨ s.lanesUp = [] ∨ s.csw.pos ≤ s.csw.partnerAck) : s.resend = s := by
  unfold State.resend
  rw [if_pos]
  rcases h with h | h | h | h <;> simp [h]

section
variable (hr : s.csw.role = .active) (hp : s.hasPartner = true) (hl : s.lanesUp ≠ []) (hk : s.csw.partnerAck < s.csw.pos)
include hr hp hl hk

/-- What the buffer still holds of the unacknowledged stream is sent again, and its groups counted. -/
theorem resend_again (hold : s.csw.pos - s.csw.stream.length ≤ s.csw.partnerAck) : ∃ l k, s.resend = s.sends l (fun c => { c with
    cwLane := k, resends := min 0xFFFFFFFF (c.resends + (s.csw.pos - s.csw.partnerAck) / 16) }) := by
  obtain ⟨l, k, h⟩ := resendBlocks_sends s.csw.partnerAck (s.csw.pos - s.csw.stream.length) s.csw.blocks s
  refine ⟨l, k, ?_⟩
  unfold State.resend
  rw [if_neg (by simp [hr, hp, hl, hk])]
  dsimp only
  rw [if_neg (Nat.not_lt.mpr hold), h]
  rfl

/-- When the buffer no longer holds it, a new synchronisation begins. -/
theorem resend_restarts (hold : s.csw.partnerAck < s.csw.pos - s.csw.stream.length) : s.resend = s.startSync true := by
  unfold State.resend
  rw [if_neg (by simp [hr, hp, hl, hk])]
  exact if_pos hold

end

/-! ### CAUSEWAY_TRANSFER_DONE (07 R214) -/

theorem exec_transferDone {k : Nat} (h : s.csw.sending = some k) : exec .causewayTransferDone s = commit s (
    if s.csw.sendMs.isEmpty = true then (s.upCsw (fun c => { c with sending := none })).upOther (fun x => { x with transfer := true }) else s.upCsw (fun c => { c with sending := none })) := by
  show commit s (match s.csw.sending with | none => s | some _ => _) = _
  rw [h]
  rfl

theorem exec_transferDone_idle (h : s.csw.sending = none) : exec .causewayTransferDone s = .next s := by
  show commit s (match s.csw.sending with | none => s | some _ => _) = _
  rw [h]
  exact commit_self s

/-- The last byte of a milestone has been sent; with none left the other half is transferred. -/
theorem transferDone_left {k : Nat} (h : s.csw.sending = some k) : ∃ u, exec .causewayTransferDone s = .next u ∧ u.csw = { s.csw with sending := none } ∧
    (s.csw.sendMs = [] → u.sto.other = { s.sto.other with transfer := true } ∧ u.sto.opened = s.sto.opened) ∧ (s.csw.sendMs ≠ [] → u.sto = s.sto) ∧
    Frame { sto := true, csw := true } s u := by
  have hexec := exec_transferDone h
  by_cases he : s.csw.sendMs = []
  · rw [if_pos (by rw [he]; rfl)] at hexec
    obtain ⟨a, b, -, hopen, hother⟩ := upOther_sto (s.upCsw (fun c => { c with sending := none })) (fun x => { x with transfer := true })
    exact ⟨_, hexec, rfl, fun _ => ⟨hother, hopen⟩, fun hn => absurd he hn, (State.upOther_keep ((Keep.refl s).upCsw _) _).frame.countEdges s⟩
  · rw [if_neg (by simpa using he)] at hexec
    exact ⟨_, hexec, rfl, fun hn => absurd hn he, fun _ => rfl, ((Keep.refl s).upCsw _).frame.countEdges s⟩

/-! ### Frames with an error of the code (01 R16, R17) -/

/-- An uncorrectable group sets SYS_MEM_CAUSE bit 1, which no correction clears. -/
theorem cwErrors_memCause (l : List Ecc) (s : State) : (s.cwErrors l).host.memCause.getLsbD 1 = (l.any (·.hard) || s.host.memCause.getLsbD 1) := by
  have hstep : ∀ (u : State) (x : Ecc), (if x.hard = true then u.uncorrectable .causeway x.addr else u.corrected .causeway x.addr).host.memCause.getLsbD 1 =
      (x.hard || u.host.memCause.getLsbD 1) := by
    intro u x
    have hother : ∀ (v : State) (b source : Nat) (d : List Byte), b ≠ 1 → (v.memCause b source d).host.memCause.getLsbD 1 = v.host.memCause.getLsbD 1 := fun v b source d hb => by
      rw [State.memCause_host]
      exact (setBit_getLsbD _ _ _ _ (by decide)).trans (if_neg hb)
    cases hx : x.hard with
    | true =>
      rw [if_pos rfl, State.uncorrectable, State.memCause_host]
      exact setBit_getLsbD _ _ _ _ (by decide)
    | false =>
      rw [if_neg (by decide), Bool.false_or]
      unfold State.corrected
      dsimp only
      split
      · rw [hother _ _ _ _ (by decide), hother _ _ _ _ (by decide)]
        rfl
      · rw [hother _ _ _ _ (by decide)]
        rfl
  induction l generalizing s with
  | nil => rfl
  | cons x rest ih =>
    show ((if x.hard = true then _ else _ : State).cwErrors rest).host.memCause.getLsbD 1 = _
    rw [ih, hstep, List.any_cons, Bool.or_left_comm, Bool.or_assoc]

/-! ### The receiver (07 R215, R219) -/

theorem streamFrame_discards (h : cwPos f ≠ s.csw.ackPos ∨ s.csw.role ≠ .standby ∧ s.csw.role ≠ .syncing ∨ s.csw.takeoverPend ≠ none) (t : Nat) : s.streamFrame t f env = s.cwDiscard := by
  unfold State.streamFrame
  rw [if_pos]
  rcases h with h | h | h
  · exact .inr (.inr h)
  · exact .inl h
  · exact .inr (.inl (Option.isSome_iff_ne_none.mpr h))

theorem streamFrame_taken (hr : s.csw.role = .standby) (hp : s.csw.takeoverPend = none) (hpos : cwPos f = s.csw.ackPos) (t : Nat) :
    s.streamFrame t f env = (s.streamIn env.table (cwPay f)).goHandover t := by
  unfold State.streamFrame
  rw [if_neg (by simp [hr, hp, hpos])]

/-- Without a HANDOVER_GO no handover takes effect. -/
theorem goHandover_none (h : s.csw.goPend = none) (t : Nat) : s.goHandover t = s := by
  unfold State.goHandover
  rw [h]

/-- The payload of an accepted frame joins the bytes received. -/
def State.received (s : State) (p : List Byte) : State := s.upCsw (fun c => { c with ackPos := c.ackPos + p.length, rx := c.rx ++ p })

/-- Bytes that complete no record wait. -/
theorem streamIn_waits (h : (s.csw.rx ++ p).length < 16 ∨ (s.csw.rx ++ p).length < 16 + 16 * getLE (s.csw.rx ++ p) 4 4) (table : List (Nat × Nat)) :
    s.streamIn table p = s.received p := parseStream_short (s := s.received p) table h _

/-- A payload that is one whole record is taken as that record. -/
theorem streamIn_record {table : List (Nat × Nat)} {u : State} (hrx : s.csw.rx = []) (hlen : p.length = 16 + 16 * getLE p 4 4)
    (hu : u = (s.upCsw (fun c => { c with ackPos := c.ackPos + p.length })).streamRecv table (byteAt p 0) (getLE p 8 8) (p.drop 16)) (hdone : u.csw.rx = []) :
    s.streamIn table p = u := by
  have hbytes : (s.received p).csw.rx = p := by
    show s.csw.rx ++ p = p
    rw [hrx, List.nil_append]
  have hbase : (s.received p).upCsw (fun c => { c with rx := [] }) = s.upCsw (fun c => { c with ackPos := c.ackPos + p.length }) := by
    unfold State.received State.upCsw
    dsimp only
    rw [hrx]
  refine parseStream_one (s := s.received p) ?_ ?_ ?_ hdone _
  · rw [hbytes]; omega
  · rw [hbytes]; exact hlen
  · rw [hbytes, hbase, hu]

theorem streamRecv_change (s : State) (table : List (Nat × Nat)) (arg : Nat) (b : List Byte) : s.streamRecv table 0x11 arg b = s.upCsw (fun c => { c with
    rxMs := c.rxMs.map (fun m => { m with entries := m.entries ++ [(arg, Ov.putBytes [] arg b)], net := Ov.putBytes m.net arg b }) }) := rfl

theorem streamRecv_bulk (s : State) (table : List (Nat × Nat)) (arg : Nat) (b : List Byte) : s.streamRecv table 0x20 arg b = s.applyBulk arg b := rfl

/-- A COMMIT of the milestone being received, whose check agrees, applies it. -/
theorem streamRecv_commit {m : Milestone} {arg : Nat} (hms : s.csw.rxMs = some m) (hn : m.num = arg)
    (hc : crc32 (m.fields ++ m.entries.flatMap (fun e => e.2.map (fun x => x.2.2))) = s.csw.rxCheck) (table : List (Nat × Nat)) (b : List Byte) :
    s.streamRecv table 0x14 arg b = (s.upCsw (fun c => { c with rxMs := none })).applyMs m := by
  unfold State.streamRecv
  dsimp only
  rw [if_neg (by decide), if_neg (by decide), if_neg (by decide), if_neg (by decide), if_pos rfl, hms]
  dsimp only
  rw [if_pos ⟨hn, hc⟩]

/-- A BULK record outside the program store enters the live and the durable memory. -/
theorem applyBulk_stores {arg : Nat} (h : arg.testBit 63 = false) (b : List Byte) : s.applyBulk arg b =
    (s.upSto (fun x => { x with lmem := memPut x.lmem arg b, durable := memPut x.durable arg b })).upCsw (fun c => { c with
      bulkOff := c.bulkOff + b.length, bulkPct := min 100 (100 * (c.bulkOff + b.length) / 50331648) }) := by
  unfold State.applyBulk
  rw [h]
  rfl

/-! ### The statement -/

section
variable (h : s.Hears f env) (ht : cwType f = 2)
include h ht

theorem streamReceive_discards (hbad : cwPos f ≠ s.csw.ackPos ∨ s.csw.role ≠ .standby ∧ s.csw.role ≠ .syncing ∨ s.csw.takeoverPend ≠ none) (lane t : Nat) :
    ∃ u, exec (.streamReceive lane t f env) s = .next u ∧
      u.csw = { (s.heard lane t f).csw with frameErr := min 0xFFFFFFFF (s.csw.frameErr + 1), cause := setBit s.csw.cause 13 true } ∧ Frame { clk := true, csw := true, evr := true } s u :=
  ⟨_, congrArg (commit s) ((h.stream lane t ht).trans (streamFrame_discards (s := s.heard lane t f) hbad t)), cwDiscard_csw _,
    (State.cwDiscard_keep (heard_keep s lane t f)).frame.countEdges s⟩

variable (hr : s.csw.role = .standby) (hp : s.csw.takeoverPend = none) (hg : s.csw.goPend = none) (hpos : cwPos f = s.csw.ackPos)
include hr hp hg hpos

/-- A STANDBY that waits for no handover takes a frame at its position as what the stream makes of it. -/
theorem streamReceive_takes {lane t : Nat} {u : State} (hu : (s.heard lane t f).streamIn env.table (cwPay f) = u) (hgo : u.csw.goPend = s.csw.goPend) :
    exec (.streamReceive lane t f env) s = commit s u := by
  have htaken := (h.stream lane t ht).trans (streamFrame_taken (s := s.heard lane t f) hr hp hpos t)
  rw [hu, goHandover_none (hgo.trans hg)] at htaken
  exact congrArg (commit s) htaken

theorem streamReceive_waits (hshort : (s.csw.rx ++ cwPay f).length < 16 ∨ (s.csw.rx ++ cwPay f).length < 16 + 16 * getLE (s.csw.rx ++ cwPay f) 4 4) (lane t : Nat) :
    ∃ u, exec (.streamReceive lane t f env) s = .next u ∧
      u.csw = { (s.heard lane t f).csw with ackPos := s.csw.ackPos + (cwPay f).length, rx := s.csw.rx ++ cwPay f } ∧ Frame { clk := true, csw := true } s u :=
  ⟨_, streamReceive_takes h ht hr hp hg hpos (streamIn_waits (s := s.heard lane t f) hshort env.table) rfl, rfl, ((heard_keep s lane t f).upCsw _).frame.countEdges s⟩

variable (hrx : s.csw.rx = []) (hlen : (cwPay f).length = 16 + 16 * getLE (cwPay f) 4 4)
include hrx hlen

/-- The state that the one record of a frame meets. -/
theorem streamReceive_record {lane t : Nat} {u : State} (hu : ((s.heard lane t f).upCsw (fun c => { c with ackPos := c.ackPos + (cwPay f).length })).streamRecv env.table
    (byteAt (cwPay f) 0) (getLE (cwPay f) 8 8) ((cwPay f).drop 16) = u) (hdone : u.csw.rx = []) (hgo : u.csw.goPend = s.csw.goPend) :
    exec (.streamReceive lane t f env) s = commit s u :=
  streamReceive_takes h ht hr hp hg hpos (streamIn_record (s := s.heard lane t f) hrx hlen hu.symm hdone) hgo

theorem streamReceive_bulk (htype : byteAt (cwPay f) 0 = 0x20) (harg : (getLE (cwPay f) 8 8).testBit 63 = false) (lane t : Nat) :
    ∃ u, exec (.streamReceive lane t f env) s = .next u ∧
      u.sto = { s.sto with lmem := memPut s.sto.lmem (getLE (cwPay f) 8 8) ((cwPay f).drop 16), durable := memPut s.sto.durable (getLE (cwPay f) 8 8) ((cwPay f).drop 16) } ∧
      u.csw = { (s.heard lane t f).csw with ackPos := s.csw.ackPos + (cwPay f).length, bulkOff := s.csw.bulkOff + ((cwPay f).drop 16).length
                                            bulkPct := min 100 (100 * (s.csw.bulkOff + ((cwPay f).drop 16).length) / 50331648) } ∧
      Frame { clk := true, csw := true, sto := true } s u := by
  have hbulk := applyBulk_stores (s := (s.heard lane t f).upCsw (fun c => { c with ackPos := c.ackPos + (cwPay f).length })) harg ((cwPay f).drop 16)
  refine ⟨_, streamReceive_record h ht hr hp hg hpos hrx hlen ((congrArg (fun x => State.streamRecv _ env.table x _ _) htype).trans ((streamRecv_bulk ..).trans hbulk)) hrx rfl, rfl, rfl, ?_⟩
  · exact (hbulk ▸ State.applyBulk_keep ((heard_keep s lane t f).upCsw _) _ _ : Keep { clk := true, csw := true, sto := true } s _).frame.countEdges s

theorem streamReceive_change {m : Milestone} (htype : byteAt (cwPay f) 0 = 0x11) (hms : s.csw.rxMs = some m) (lane t : Nat) :
    ∃ u, exec (.streamReceive lane t f env) s = .next u ∧
      u.csw = { (s.heard lane t f).csw with
        ackPos := s.csw.ackPos + (cwPay f).length
        rxMs := some { m with entries := m.entries ++ [(getLE (cwPay f) 8 8, Ov.putBytes [] (getLE (cwPay f) 8 8) ((cwPay f).drop 16))]
                              net := Ov.putBytes m.net (getLE (cwPay f) 8 8) ((cwPay f).drop 16) } } ∧
      Frame { clk := true, csw := true } s u := by
  refine ⟨_, streamReceive_record h ht hr hp hg hpos hrx hlen ((congrArg (fun x => State.streamRecv _ env.table x _ _) htype).trans (streamRecv_change ..)) hrx rfl, ?_,
    (((heard_keep s lane t f).upCsw _).upCsw _).frame.countEdges s⟩
  rw [countEdges_csw, State.upCsw_csw, State.upCsw_csw, heard_csw, hms]
  rfl

theorem streamReceive_commit {m : Milestone} (htype : byteAt (cwPay f) 0 = 0x14) (hms : s.csw.rxMs = some m) (hn : m.num = getLE (cwPay f) 8 8)
    (hc : crc32 (m.fields ++ m.entries.flatMap (fun e => e.2.map (fun x => x.2.2))) = s.csw.rxCheck) (lane t : Nat) : ∃ u, exec (.streamReceive lane t f env) s = .next u ∧
      u.sto.lmem = m.net.apply s.sto.lmem ∧ u.sto.journal = s.sto.journal ++ [m] ∧ u.sto.msCount = m.num ∧ u.sto.durable = s.sto.durable ∧ u.csw.rxMs = none ∧
      u.csw.lastMs = some m ∧ u.csw.ackPos = s.csw.ackPos + (cwPay f).length := by
  obtain ⟨b, hb⟩ : ∃ b, b = ((s.heard lane t f).upCsw (fun c => { c with ackPos := c.ackPos + (cwPay f).length })).upCsw (fun c => { c with rxMs := none }) := ⟨_, rfl⟩
  have hrole : b.csw.role = .standby := by rw [hb]; exact hr
  have hsto : b.sto = s.sto := by rw [hb]; rfl
  obtain ⟨pend, hcsw⟩ := applyMs_csw hrole m
  obtain ⟨launched, hstores⟩ := applyMs_sto b m
  have hcommit := streamRecv_commit (s := (s.heard lane t f).upCsw (fun c => { c with ackPos := c.ackPos + (cwPay f).length })) hms hn hc env.table ((cwPay f).drop 16)
  rw [← hb] at hcommit
  refine ⟨_, streamReceive_record h ht hr hp hg hpos hrx hlen ((congrArg (fun x => State.streamRecv _ env.table x _ _) htype).trans hcommit) ?_ ?_, ?_⟩
  · rw [hcsw, hb]
    exact hrx
  · rw [hcsw, hb]
    rfl
  · rw [countEdges_sto, countEdges_csw, hstores, hcsw, hsto, hb]
    exact ⟨rfl, rfl, rfl, rfl, rfl, rfl, rfl⟩

end

/-- Settles O11: each command of the sender by what waits to be sent, STREAM_RECEIVE by the record that a frame brings. -/
theorem streamsCarryMilestonesAndStores : Obligations.StreamsCarryMilestonesAndStores := by
  intro s m ms k n lane t0 f p r env c hp
  subst hp
  refine ⟨fun hs hm => ?_, fun h => answer_self (c := .milestoneTransfer) rfl (sendMilestone_waits h), transferDone_left, exec_transferDone_idle,
    fun h => answer_self (c := .bulkSend n) rfl (sendBulk_waits h n), fun hm he hr hset => ⟨fun hoff hk hpos hrec => ?_, fun hoff hend => ?_, fun hoff hend => ?_⟩,
    fun hr hpart hl hk => ⟨fun hold => ?_, fun hold => ?_⟩, fun h => answer_self (c := .resendTimeout) rfl (resend_idle h), fun hd hhard => ?_,
    fun hd hecc hform htype hnode hseen hlost hrole hc => ?_⟩
  · obtain ⟨l, a, q, h⟩ := sendMilestone_sends hs hm
    obtain ⟨u, hu, hnet, hcsw, hframe⟩ := answer_sends (c := .milestoneTransfer) rfl h
    exact ⟨u, l, hu, hnet, by simp only [hcsw, Csw.streamed], hframe⟩
  · obtain ⟨l, a, q, h⟩ := sendBulk_record hm he hr hset hoff hk hpos hrec
    obtain ⟨u, hu, hnet, hcsw, hframe⟩ := answer_sends (c := .bulkSend n) rfl h
    exact ⟨u, l, hu, hnet, by simp only [hcsw, Csw.streamed], hframe⟩
  · obtain ⟨l, a, q, h⟩ := sendBulk_end hm he hr hset n hoff hend
    obtain ⟨u, hu, hnet, hcsw, hframe⟩ := answer_sends (c := .bulkSend n) rfl h
    exact ⟨u, l, hu, hnet, by rw [hcsw], by rw [hcsw]; rfl, hframe⟩
  · exact answer_self (c := .bulkSend n) rfl (sendBulk_ended hm he hr hset n hoff hend)
  · obtain ⟨l, a, h⟩ := resend_again hr hpart hl hk hold
    obtain ⟨u, hu, hnet, hcsw, hframe⟩ := answer_sends (c := .resendTimeout) rfl h
    exact ⟨u, l, hu, hnet, by rw [hcsw], hframe⟩
  · refine ⟨_, congrArg (commit s) (resend_restarts hr hpart hl hk hold), rfl, ?_⟩
    exact (State.startSync_keep (Keep.refl s) true).frame.countEdges s
  · refine ⟨_, congrArg (commit s) (cwArrives_hard hd lane t0 f hhard), ?_, ?_, ?_⟩
    · rw [countEdges_csw, cwDiscard_csw, cwErrors_csw]
      rfl
    · rw [countEdges_memCause, State.cwDiscard, State.cswCause_host, State.upCsw_host, cwErrors_memCause, hhard, Bool.true_or]
    · exact (State.cwDiscard_keep (State.cwErrors_keep (State.reach_keep (Keep.refl s) t0) _)).frame.countEdges s
  · have h : s.Hears f env := ⟨hd, hecc, hform, hnode, hseen, hlost, hrole⟩
    subst hc
    refine ⟨fun hbad => streamReceive_discards h htype hbad lane t0, fun hr hpend hg hpos => ⟨fun hshort => streamReceive_waits h htype hr hpend hg hpos hshort lane t0,
      fun hrx hlen => ⟨fun hb harg => streamReceive_bulk h htype hr hpend hg hpos hrx hlen hb harg lane t0, fun hb hms => streamReceive_change h htype hr hpend hg hpos hrx hlen hb hms lane t0,
        fun hb hms hn hcrc => streamReceive_commit h htype hr hpend hg hpos hrx hlen hb hms hn hcrc lane t0⟩⟩⟩

end Sys2Proof.Machine
end

section
/-! PROOFS. Planned switchover and program swap (07 R221, R227 to R230, R236, R238): the commands, the abandoned swap, and the handover at both units. -/

namespace Sys2Proof.Machine

open Sys2Proof

variable {s : State} {m : Master} {lane t : Nat} {f : List Byte} {env : CwIn}

/-! ### CSW_CMD (07 R227, R240) -/

/-- A privileged write that reaches CSW_CMD commands. -/
theorem cswCmd_done (hreach : s.readReaches m 0x6024 = true) (hpriv : s.privOf m = true) (v : Word) :
    s.fabricWrite m 0x6024 v [] = s.switchCmd (wfield v 1 0) s.clk.now := by
  refine fabricWrite_done hreach ?_
  rw [hpriv]
  rfl

theorem cswCmd_refused (hreach : s.readReaches m 0x6024 = true) (hpriv : s.privOf m = false) (v : Word) :
    s.fabricWrite m 0x6024 v [] = s.accessFault m 0x6024 flagPriv := by
  refine fabricWrite_refused hreach ?_
  rw [hpriv]
  rfl

/-- The two commands of a switchover, by their kind. -/
def SwitchCommand (cmd : Instr) (m : Master) (t k : Nat) : Prop := cmd = .swapDrillCmd m t ∧ k = 1 ∨ cmd = .programSwapCmd m t ∧ k = 2

namespace SwitchCommand

variable {cmd : Instr} {k : Nat} (h : SwitchCommand cmd m t k) (hreach : s.readReaches m 0x6024 = true)
include h hreach

theorem exec_privileged (hpriv : s.privOf m = true) : exec cmd s = commit s ((s.reach t).switchover k (max s.clk.now t)) := by
  rcases h with ⟨rfl, rfl⟩ | ⟨rfl, rfl⟩
  · exact congrArg (commit s) (cswCmd_done (s := s.reach t) hreach hpriv 1)
  · exact congrArg (commit s) (cswCmd_done (s := s.reach t) hreach hpriv 2)

theorem exec_unprivileged (hpriv : s.privOf m = false) : exec cmd s = commit s ((s.reach t).accessFault m 0x6024 flagPriv) := by
  rcases h with ⟨rfl, rfl⟩ | ⟨rfl, rfl⟩
  · exact congrArg (commit s) (cswCmd_refused (s := s.reach t) hreach hpriv 1)
  · exact congrArg (commit s) (cswCmd_refused (s := s.reach t) hreach hpriv 2)

/-- Without privilege the write is refused with UNPRIV. -/
theorem unprivileged (hpriv : s.privOf m = false) : ∃ v, exec cmd s = .next v ∧ v.host.fault.getLsbD 3 = true ∧ v.csw = s.csw ∧
    Frame { clk := true, host := true, evr := true } s v := by
  have hkeep : Keep { clk := true, host := true, evr := true } s ((s.reach t).accessFault m 0x6024 flagPriv) :=
    State.accessFault_keep (State.reach_keep (Keep.refl s) t) _ _ _
  refine ⟨_, h.exec_unprivileged hreach hpriv, ?_, hkeep.frame.csw rfl, hkeep.frame.countEdges s⟩
  exact accessFault_flag (s.reach t) m 0x6024 (f := 3) (by decide)

/-- A command that something refuses leaves its code. -/
theorem refused (hpriv : s.privOf m = true) (hcode : s.switchRefusal k ≠ 0) : ∃ v, exec cmd s = .next v ∧
    v.csw = { s.csw with cmdState := 4, cmdRefuse := s.switchRefusal k } ∧ Frame { clk := true, csw := true, dict := true } s v := by
  have hswitch : (s.reach t).switchover k (max s.clk.now t) = ((s.reach t).upCsw (fun c => { c with cmdState := 4, cmdRefuse := s.switchRefusal k })).modeRefuse 10 := if_pos hcode
  refine ⟨_, (h.exec_privileged hreach hpriv).trans (congrArg (commit s) hswitch), rfl, ?_⟩
  exact (State.modeRefuse_keep ((State.reach_keep (Keep.refl s) t).upCsw _) _).frame.countEdges s

/-- A command that nothing refuses announces its beat on the lanes. -/
theorem announced (hpriv : s.privOf m = true) (hcode : s.switchRefusal k = 0) {b : Nat} (hb : b = s.handoverBeat (max s.clk.now t)) : ∃ v, exec cmd s = .next v ∧
    v.csw = { s.csw with cmdState := 1, cmdRefuse := 0, kind := k, handBeat := some b, handClosed := false } ∧
    v.net.sent = (if vget s.csw.laneUp 1 false then [.cw 1 (s.cwFrame 0x04 1 0 (leBytes 1 k ++ zeros 7 ++ leBytes 8 b))] else []) ++
      (if vget s.csw.laneUp 0 false then [.cw 0 (s.cwFrame 0x04 0 0 (leBytes 1 k ++ zeros 7 ++ leBytes 8 b))] else []) ++ s.net.sent ∧
    Frame { clk := true, csw := true, net := true } s v := by
  subst hb
  have hswitch : (s.reach t).switchover k (max s.clk.now t) =
      ((s.reach t).upCsw (fun c => { c with cmdState := 1, cmdRefuse := 0, kind := k, handBeat := some (s.handoverBeat (max s.clk.now t)), handClosed := false })).sendBoth 0x04 0
        (leBytes 1 k ++ zeros 7 ++ leBytes 8 (s.handoverBeat (max s.clk.now t))) := if_neg (not_not_intro hcode)
  refine ⟨_, (h.exec_privileged hreach hpriv).trans (congrArg (commit s) hswitch), sendBoth_csw _ _ _ _, ?_, ?_⟩
  · rw [countEdges_net, sendBoth_net]
    rfl
  · exact (State.sendBoth_keep ((State.reach_keep (Keep.refl s) t).upCsw _) _ _ _).frame.countEdges s

end SwitchCommand

/-! ### ABANDON_SWAP_CMD (07 R236, R238) -/

theorem abandonCmd_preparing (h : s.ldr.converting = true) : s.abandonCmd = s.abandonSwap 1 0 0 := if_pos h

theorem abandonCmd_idle (hc : s.ldr.converting = false) (h : s.csw.role ≠ .active ∨ s.ldr.swapReady = false ∨ s.csw.handClosed = true) : s.abandonCmd = s := by
  unfold State.abandonCmd
  rw [hc, if_neg (by decide), if_neg]
  rcases h with h | h | h <;> simp [h]

/-- What an ACTIVE unit keeps of a swap that it gives up: one that was announced is no longer. -/
def Csw.dropSwap (c : Csw) : Csw :=
  if c.kind = 2 then { c with swapDropped := true, handBeat := none, cmdState := if c.handBeat.isSome then 0 else c.cmdState }
  else { c with swapDropped := true }

theorem dropSwap_swapDropped (c : Csw) : c.dropSwap.swapDropped = true := by
  unfold Csw.dropSwap
  split <;> rfl

theorem abandonCmd_ready (hc : s.ldr.converting = false) (ha : s.csw.role = .active) (hr : s.ldr.swapReady = true) (hh : s.csw.handClosed = false) :
    s.abandonCmd = ((s.upLdr (fun l => { l with swapReady := false, swapReport := swapReportOf l.digest s.csw.partnerDigest 0 0 1 0 none })).upCsw (·.dropSwap)).cswCause 10 := by
  unfold State.abandonCmd
  rw [hc, if_neg (by decide), if_pos (by simp [ha, hr, hh])]
  rfl

section
variable (hreach : s.readReaches m 0x6024 = true) (hpriv : s.privOf m = true)
include hreach hpriv

theorem exec_abandonSwapCmd : exec (.abandonSwapCmd m) s = commit s s.abandonCmd := congrArg (commit s) (cswCmd_done hreach hpriv 3)

theorem abandonSwapCmd_preparing (h : s.ldr.converting = true) : ∃ v, exec (.abandonSwapCmd m) s = .next v ∧
    v.ldr = { s.ldr with converting := false, swapReady := false, conv := [], state := 3
                         swapReport := padTo 32 s.ldr.digest ++ padTo 32 s.ldr.stagedDigest ++ zeros 10 ++ [1] ++ zeros 21 } ∧
    v.csw.cause.getLsbD 10 = true ∧ Frame { ldr := true, csw := true, evr := true, trc := true } s v := by
  refine ⟨_, (exec_abandonSwapCmd hreach hpriv).trans (congrArg (commit s) (abandonCmd_preparing h)), ?_, abandonSwap_cause h 1 0 0, ?_⟩
  · rw [countEdges_ldr, abandonSwap_ldr h, swapReportOf_byCommand]
  · exact (State.abandonSwap_keep (Keep.refl s) 1 0 0).frame.countEdges s

theorem abandonSwapCmd_ready (hc : s.ldr.converting = false) (ha : s.csw.role = .active) (hr : s.ldr.swapReady = true) (hh : s.csw.handClosed = false) :
    ∃ v, exec (.abandonSwapCmd m) s = .next v ∧
      v.ldr = { s.ldr with swapReady := false, swapReport := padTo 32 s.ldr.digest ++ padTo 32 s.csw.partnerDigest ++ zeros 10 ++ [1] ++ zeros 21 } ∧
      v.csw.swapDropped = true ∧ v.csw.cause.getLsbD 10 = true ∧
      (s.csw.kind = 2 → v.csw.handBeat = none ∧ v.csw.cmdState = if s.csw.handBeat.isSome = true then 0 else s.csw.cmdState) ∧
      (s.csw.kind ≠ 2 → v.csw.handBeat = s.csw.handBeat) ∧ Frame { ldr := true, csw := true, evr := true } s v := by
  refine ⟨_, (exec_abandonSwapCmd hreach hpriv).trans (congrArg (commit s) (abandonCmd_ready hc ha hr hh)), ?_, ?_, ?_, fun hk => ?_, fun hk => ?_, ?_⟩
  · rw [countEdges_ldr, State.cswCause_ldr, State.upCsw_ldr, State.upLdr_ldr, swapReportOf_byCommand]
  · rw [countEdges_csw, State.cswCause_csw]
    exact dropSwap_swapDropped s.csw
  · rw [countEdges_csw, State.cswCause_csw]
    exact setBit_getLsbD _ _ _ _ (by decide)
  · rw [countEdges_csw, State.cswCause_csw, State.upCsw_csw, State.upLdr_csw, Csw.dropSwap, if_pos hk]
    exact ⟨rfl, rfl⟩
  · rw [countEdges_csw, State.cswCause_csw, State.upCsw_csw, State.upLdr_csw, Csw.dropSwap, if_neg hk]
  · exact (State.cswCause_keep (((Keep.refl s).upLdr id).upCsw _) _).frame.countEdges s

end

/-! ### HANDOVER_GO at the old unit (07 R221, R228, R230) -/

theorem sendGo_waits (h : s.csw.role ≠ .active ∨ s.csw.handClosed = false ∨ s.csw.sendMs ≠ [] ∨ s.csw.sending ≠ none) : s.sendGo = s := by
  unfold State.sendGo
  rw [if_pos]
  rcases h with h | h | h | h
  · exact .inl h
  · exact .inr (.inl (by rw [h]; rfl))
  · exact .inr (.inr (.inl (by simpa using h)))
  · exact .inr (.inr (.inr (Option.isSome_iff_ne_none.mpr h)))

/-- The unit holds its outputs, and gives up its open half and what it had not yet made. -/
def State.holdLaunched (s : State) : State :=
  ((s.upCsw (fun c => { c with
    holdOutputs := true, heldOut := s.sto.launched, cmdState := 3, handBeat := none, handClosed := false, partnerLaunch := 0 })).upSto
      (fun x => { x with batches := [], unreported := [] })).abandonOpen

/-- The old unit as it lets go. -/
def State.letGo (s : State) : State := (s.sendBoth 0x05 0 (leBytes 8 s.csw.handMs ++ leBytes 8 s.csw.pos)).holdLaunched

theorem holdLaunched_csw (s : State) : s.holdLaunched.csw = { s.csw with
    holdOutputs := true, heldOut := s.sto.launched, cmdState := 3, handBeat := none, handClosed := false, partnerLaunch := 0 } :=
  (State.abandonOpen_keep (L := { sto := true, evr := true }) (Keep.refl _)).frame.csw rfl

theorem letGo_csw (s : State) : s.letGo.csw = { s.csw with
    holdOutputs := true, heldOut := s.sto.launched, cmdState := 3, handBeat := none, handClosed := false, partnerLaunch := 0 } := by
  rw [State.letGo, holdLaunched_csw, sendBoth_csw, sendBoth_sto]

theorem letGo_sto (s : State) : ∃ a b, s.letGo.sto = { s.sto with half0 := a, half1 := b, isOpen := false, batches := [], unreported := [] } := by
  obtain ⟨u, hu⟩ : ∃ u, u = s.sendBoth 0x05 0 (leBytes 8 s.csw.handMs ++ leBytes 8 s.csw.pos) := ⟨_, rfl⟩
  have hsto : u.sto = s.sto := by rw [hu, sendBoth_sto]
  obtain ⟨a, b, h⟩ := abandonOpen_sto ((u.upCsw (fun c => { c with
    holdOutputs := true, heldOut := u.sto.launched, cmdState := 3, handBeat := none, handClosed := false, partnerLaunch := 0 })).upSto
      (fun x => { x with batches := [], unreported := [] }))
  refine ⟨a, b, ?_⟩
  rw [State.letGo, ← hu, State.holdLaunched, h, State.upSto_sto, State.upCsw_sto, hsto]

section
variable (ha : s.csw.role = .active) (hc : s.csw.handClosed = true) (hms : s.csw.sendMs = []) (hsend : s.csw.sending = none)
include ha hc hms hsend

/-- The unit lets go, and becomes SYNCING at a swap, STANDBY otherwise. -/
theorem sendGo_lets : s.sendGo = if s.csw.kind = 2 then s.letGo.toSyncing.upCsw (fun c => { c with claimOn := true })
    else (s.letGo.transition .standby 0 0).upCsw (fun c => { c with claimOn := true, ackPos := c.pos, rx := [], rxMs := none, redLost := false, lastMs := s.csw.lastMs }) := by
  have hkind : s.letGo.csw.kind = s.csw.kind := by rw [letGo_csw]
  rw [← hkind]
  unfold State.sendGo
  rw [if_neg (by simp [ha, hc, hms, hsend])]
  rfl

/-- The redundancy subsystem of the old unit. -/
theorem sendGo_csw : s.sendGo.csw.holdOutputs = true ∧ s.sendGo.csw.heldOut = s.sto.launched ∧ s.sendGo.csw.claimOn = true ∧ s.sendGo.csw.cmdState = 3 ∧
    s.sendGo.csw.handBeat = none ∧ s.sendGo.csw.handClosed = false ∧ s.sendGo.csw.redLost = false ∧
    (s.csw.kind = 2 → s.sendGo.csw.role = .syncing ∧ s.sendGo.csw.ackPos = 0 ∧ s.sendGo.csw.storeComplete = false) ∧
    (s.csw.kind ≠ 2 → s.sendGo.csw.role = .standby ∧ s.sendGo.csw.ackPos = s.csw.pos ∧ s.sendGo.csw.lastMs = s.csw.lastMs) := by
  rw [sendGo_lets ha hc hms hsend]
  by_cases hk : s.csw.kind = 2
  · rw [if_pos hk, State.upCsw_csw, toSyncing_csw, letGo_csw]
    exact ⟨rfl, rfl, rfl, rfl, rfl, rfl, rfl, fun _ => ⟨rfl, rfl, rfl⟩, fun h => absurd hk h⟩
  · rw [if_neg hk, State.upCsw_csw, transition_csw, letGo_csw]
    exact ⟨rfl, rfl, rfl, rfl, rfl, rfl, rfl, fun h => absurd h hk, fun _ => ⟨rfl, rfl, rfl⟩⟩

theorem sendGo_sto : ∃ a b, s.sendGo.sto = { s.sto with half0 := a, half1 := b, isOpen := false, batches := [], unreported := [] } := by
  obtain ⟨a, b, h⟩ := letGo_sto s
  refine ⟨a, b, Eq.trans ?_ h⟩
  rw [sendGo_lets ha hc hms hsend]
  split
  · rw [State.upCsw_sto]
    exact (State.toSyncing_keep (L := { ldr := true, csw := true, net := true, wdg := true }) (Keep.refl s.letGo)).frame.sto rfl
  · rw [State.upCsw_sto]
    exact (State.transition_keep (L := { csw := true, net := true, wdg := true }) (Keep.refl s.letGo) .standby 0 0).frame.sto rfl

theorem handoverGoSend_gives (t : Nat) : ∃ v, exec (.handoverGoSend t) s = .next v ∧
    v.csw.holdOutputs = true ∧ v.csw.heldOut = s.sto.launched ∧ v.csw.claimOn = true ∧ v.csw.cmdState = 3 ∧ v.csw.handBeat = none ∧ v.csw.handClosed = false ∧
    v.csw.redLost = false ∧ v.sto.batches = [] ∧ v.sto.unreported = [] ∧ v.sto.isOpen = false ∧ v.sto.lmem = s.sto.lmem ∧
    (s.csw.kind = 2 → v.csw.role = .syncing ∧ v.csw.ackPos = 0 ∧ v.csw.storeComplete = false) ∧
    (s.csw.kind ≠ 2 → v.csw.role = .standby ∧ v.csw.ackPos = s.csw.pos ∧ v.csw.lastMs = s.csw.lastMs) ∧
    Frame { clk := true, ldr := true, csw := true, sto := true, net := true, wdg := true, evr := true } s v := by
  obtain ⟨hhold, hheld, hclaim, hcmd, hbeat, hclosed, hred, hswap, hdrill⟩ := sendGo_csw (s := s.reach t) ha hc hms hsend
  obtain ⟨a, b, hsto⟩ := sendGo_sto (s := s.reach t) ha hc hms hsend
  refine ⟨_, rfl, ?_⟩
  rw [countEdges_csw, countEdges_sto, hsto]
  exact ⟨hhold, hheld, hclaim, hcmd, hbeat, hclosed, hred, rfl, rfl, rfl, rfl, hswap, hdrill, (State.sendGo_keep (State.reach_keep (Keep.refl s) t)).frame.countEdges s⟩

end

/-! ### HANDOVER and HANDOVER_GO at the new unit (07 R228, R229) -/

/-- A HANDOVER_GO waits for its milestone. -/
theorem goHandover_waits {g : Nat × Nat} (hg : s.csw.goPend = some g) (h : ∀ x, s.csw.lastMs = some x → x.num ≠ g.1) (t : Nat) : s.goHandover t = s := by
  unfold State.goHandover
  rw [hg]
  cases hm : s.csw.lastMs with
  | none => rfl
  | some x => exact if_pos (.inr (h x hm))

/-- Once the milestone is applied, a STANDBY takes over; without a swap it keeps its program. -/
theorem goHandover_applied {g : Nat × Nat} {x : Milestone} (hg : s.csw.goPend = some g) (hx : s.csw.lastMs = some x) (hr : s.csw.role = .standby) (hn : x.num = g.1)
    (hk : s.csw.kind ≠ 2 ∨ s.ldr.swapReady = false) (t : Nat) : ∃ ref, s.goHandover t = (s.upCsw (fun c => { c with takeoverRef := ref, termNeedsConfirm := false })).takeOver t 0 true true := by
  have hswap : (decide (s.csw.kind = 2) && s.ldr.swapReady) = false := by
    rcases hk with hk | hk <;> simp [hk]
  refine ⟨s.clk.beatAt - (s.clk.beat - x.closeBeat) * (1000 * s.clk.p), ?_⟩
  unfold State.goHandover
  rw [hg, hx]
  dsimp only
  rw [if_neg (by simp [hr, hn]), hswap]
  rfl

section
variable (h : s.Hears f env)
include h

theorem handoverReceive_records (ht : cwType f = 4) (lane t : Nat) : ∃ v, exec (.handoverReceive lane t f env) s = .next v ∧
    v.csw = { (s.heard lane t f).csw with kind := byteAt f 16, handBeat := if s.csw.role = .standby then some (getLE f 24 8) else s.csw.handBeat } ∧
    Frame { clk := true, csw := true } s v :=
  ⟨_, congrArg (commit s) (h.handover lane t ht), rfl, ((heard_keep s lane t f).upCsw _).frame.countEdges s⟩

variable (ht : cwType f = 5)
include ht

theorem exec_handoverGoReceive (lane t : Nat) (hr : s.csw.role = .standby) : exec (.handoverGoReceive lane t f env) s =
    commit s (((s.heard lane t f).upCsw (fun c => { c with goPend := some (getLE f 16 8, getLE f 24 8) })).goHandover t) :=
  congrArg (commit s) ((h.handoverGo lane t ht).trans (if_pos hr))

theorem handoverGoReceive_waits (hr : s.csw.role = .standby) (hx : ∀ x, s.csw.lastMs = some x → x.num ≠ getLE f 16 8) (lane t : Nat) :
    ∃ v, exec (.handoverGoReceive lane t f env) s = .next v ∧ v.csw = { (s.heard lane t f).csw with goPend := some (getLE f 16 8, getLE f 24 8) } ∧
      Frame { clk := true, csw := true } s v := by
  have hexec := exec_handoverGoReceive h ht lane t hr
  rw [goHandover_waits (s := (s.heard lane t f).upCsw (fun c => { c with goPend := some (getLE f 16 8, getLE f 24 8) })) rfl hx] at hexec
  exact ⟨_, hexec, rfl, ((heard_keep s lane t f).upCsw _).frame.countEdges s⟩

theorem handoverGoReceive_ignored (hr : s.csw.role ≠ .standby) (lane t : Nat) :
    ∃ v, exec (.handoverGoReceive lane t f env) s = .next v ∧ v.csw = (s.heard lane t f).csw ∧ Frame { clk := true, csw := true } s v :=
  ⟨_, congrArg (commit s) ((h.handoverGo lane t ht).trans (if_neg hr)), rfl, (heard_keep s lane t f).frame.countEdges s⟩

theorem handoverGoReceive_takesOver {x : Milestone} {n : Nat} (hn : n = s.net.slots.toList.foldl (fun m x => max m x.accTerm) (max s.csw.term (cwTerm f)))
    (hr : s.csw.role = .standby) (hx : s.csw.lastMs = some x) (hnum : x.num = getLE f 16 8) (hk : s.csw.kind ≠ 2 ∨ s.ldr.swapReady = false) (hleft : n < 0xFFFF)
    (hset : s.pwr.state = .reduced → s.minSetWide = false) (lane t : Nat) : ∃ v, exec (.handoverGoReceive lane t f env) s = .next v ∧
      v.csw.role = .active ∧ v.csw.term = n + 1 ∧ v.csw.driversOff = true ∧ v.csw.pos = s.csw.ackPos ∧ v.csw.gapReason = 0 ∧
      v.csw.takeovers = min 0xFFFFFFFF (s.csw.takeovers + 1) ∧ v.sto.isOpen = true ∧ v.sto.lmem = s.sto.lmem ∧ v.clk.powered = x.powered + (s.clk.beat - x.closeBeat) := by
  subst hn
  obtain ⟨b, hb⟩ : ∃ b, b = (s.heard lane t f).upCsw (fun c => { c with goPend := some (getLE f 16 8, getLE f 24 8) }) := ⟨_, rfl⟩
  have hexec := exec_handoverGoReceive h ht lane t hr
  rw [← hb] at hexec
  obtain ⟨ref, hgo⟩ := goHandover_applied (s := b) (g := (getLE f 16 8, getLE f 24 8)) (x := x) (by rw [hb]; rfl) (by rw [hb]; exact hx) (by rw [hb]; exact hr) hnum
    (by rw [hb]; exact hk) t
  obtain ⟨d, hd⟩ : ∃ d, d = b.upCsw (fun c => { c with takeoverRef := ref, termNeedsConfirm := false }) := ⟨_, rfl⟩
  rw [hgo, ← hd] at hexec
  have hterm : d.highTerm = s.net.slots.toList.foldl (fun m x => max m x.accTerm) (max s.csw.term (cwTerm f)) := by rw [hd, hb]; rfl
  have hlast : d.csw.lastMs = some x := by rw [hd, hb]; exact hx
  obtain ⟨hrole, hnew, htaken, -, hreason, -, hoff, -, -, -, hpos, hsto, -, hpow, -⟩ :=
    takeOver_left (s := d) (by rw [hterm]; exact hleft) (by rw [hd, hb]; exact hset) t 0 true true
  refine ⟨_, hexec, ?_⟩
  rw [countEdges_csw, countEdges_sto, countEdges_clk, hrole, hnew, hoff, hpos, hreason, htaken, hsto, hpow, hterm, hlast, hd, hb]
  exact ⟨rfl, rfl, rfl, rfl, rfl, rfl, rfl, rfl, rfl⟩

end

/-! ### The statement -/

/-- The code of a refused switchover, as the statement counts the cases. -/
theorem switchRefusal_eq (s : State) (k : Nat) : s.switchRefusal k = (if s.csw.role ≠ .active ∨ s.csw.partnerRole ≠ 2 ∨ s.hasPartner = false then 1
    else if k = 2 ∧ s.ldr.swapReady = false then 2 else if s.csw.handBeat.isSome = true ∨ s.csw.handClosed = true then 3
    else if k = 2 ∧ s.pwr.state = .reduced ∧ 4 ≤ s.csw.partnerMinSet then 4 else 0) := by
  simp only [State.switchRefusal, Bool.not_eq_true']

/-- Settles O13: the commands by what refuses them, then the handover at the unit that receives it and at the one that lets go. -/
theorem plannedSwitchoverAndProgramSwap : Obligations.PlannedSwitchoverAndProgramSwap := by
  intro s m lane t0 k code f env c cmd
  refine ⟨fun hcmd hreach hcode => ⟨fun hpriv h0 => ?_, fun hpriv h0 => ?_, SwitchCommand.unprivileged hcmd hreach⟩,
    fun hreach hpriv => ⟨abandonSwapCmd_preparing hreach hpriv, abandonSwapCmd_ready hreach hpriv,
      fun hc h => answer_self (exec_abandonSwapCmd hreach hpriv) (abandonCmd_idle hc h)⟩,
    fun hd hecc hform hnode hseen hlost hrole hc => ?_, fun ha hclosed hms hsend => handoverGoSend_gives ha hclosed hms hsend t0, fun h => ?_⟩
  · rw [← switchRefusal_eq] at hcode
    obtain ⟨v, hv, hcsw, hsent, hframe⟩ := SwitchCommand.announced hcmd hreach hpriv (hcode.symm.trans h0) rfl
    exact ⟨v, _, hv, rfl, hcsw, hsent, hframe⟩
  · rw [← switchRefusal_eq] at hcode
    subst hcode
    exact SwitchCommand.refused hcmd hreach hpriv h0
  · have h : s.Hears f env := ⟨hd, hecc, hform, hnode, hseen, hlost, hrole⟩
    subst hc
    exact ⟨fun ht => handoverReceive_records h ht lane t0, fun ht hr hx => handoverGoReceive_waits h ht hr hx lane t0, fun ht hr => handoverGoReceive_ignored h ht hr lane t0,
      fun x n hn ht hr hx hnum hk hleft hset => handoverGoReceive_takesOver h ht hn hr hx hnum hk hleft hset lane t0⟩
  · exact answer_reach (congrArg (commit s) (sendGo_waits (s := s.reach t0) h))

end Sys2Proof.Machine
end

section
/-! PROOFS. INPUT and STATUS frames at a controller (09 R278, R282, R285, R292): a frame that is admitted, the report it carries, how it is sorted, and what the latch leaves of it. -/

namespace Sys2Proof.Machine

open Sys2Proof

variable {s : State} {i t : Nat} {mac p : List Byte} {q : List (Nat × List Byte)}

@[simp] theorem countEdges_slot (s u : State) (j : Nat) : (countEdges s u).slot j = u.slot j := congrArg (fun n : Net => vget n.slots j Slot.reset) (countEdges_net s u)

/-! ### A frame that is admitted (09 R269, R279) -/

/-- Time passes to `t`, and the first copies that the unit remembers are `q`. -/
def State.admitted (s : State) (t : Nat) (q : List (Nat × List Byte)) : State := (s.reach t).upNet (fun n => { n with seen := q })

theorem admitted_keep {L : Parts} (s : State) (t : Nat) (q : List (Nat × List Byte)) (hclk : L.clk = true := by rfl) (hnet : L.net = true := by rfl) : Keep L s (s.admitted t q) :=
  (State.reach_keep (Keep.refl s) t).upNet _

theorem prpSeen_admitted {port : Nat} {f : List Byte} (h : ((s.reach t).prpSeen port f).1 = false) :
    ((s.reach t).prpSeen port f).2 = s.admitted t ((s.reach t).prpSeen port f).2.net.seen := by
  obtain ⟨n, hn⟩ := prpSeen_upNet (s.reach t) port f
  obtain ⟨-, -, hnet, -⟩ := prpSeen_net (s.reach t) port f
  have hnet := hnet h
  rw [hn] at hnet ⊢
  exact congrArg (fun x => (s.reach t).upNet (fun _ => x)) hnet

/-- No frame of the own node from another address. -/
theorem nodeClash_other (h : p.length < 6 ∨ frSrc p ≠ s.node ∨ mac = ownMac) : s.nodeClash mac p = s := by
  unfold State.nodeClash
  rw [if_neg]
  rintro ⟨hlen, hsrc, hmac⟩
  rcases h with h | h | h
  · omega
  · exact h hsrc
  · exact hmac h

/-- The commands that bring a frame to a port. -/
def FrameArrives (c : Instr) (port t : Nat) (f : List Byte) : Prop :=
  c = .outputFrameReceive port t f ∨ c = .termClaimReceive port t f ∨ c = .stationInputReceive port t f ∨ c = .statusReceive port t f

theorem exec_frameArrives {c : Instr} {port : Nat} {f : List Byte} (h : FrameArrives c port t f) : exec c s = commit s (s.ethArrives port t f) := by
  rcases h with rfl | rfl | rfl | rfl <;> rfl

/-- A good frame of another node, no duplicate, at a port that takes station frames. -/
theorem exec_goodFrame {c : Instr} {port : Nat} {f : List Byte} (h : FrameArrives c port t f) (hd : s.domainOn 7 = true) (hnew : ((s.reach t).prpSeen port f).1 = false)
    (hkind : s.ethKind f = .station mac p) (hport : s.stationPort port = true) (hgood : (headerOk p && payloadOk p && s.frameForUs p) = true)
    (hother : p.length < 6 ∨ frSrc p ≠ s.node ∨ mac = ownMac) (hq : q = ((s.reach t).prpSeen port f).2.net.seen) : exec c s = commit s ((s.admitted t q).stationFrame t p) := by
  have hcases := ((ethArrives_cases hd rfl).2 hnew).2.2 mac p hkind
  rw [if_neg (by rw [hport]; decide), if_pos hgood, prpSeen_admitted hnew, ← hq, nodeClash_other (s := s.admitted t q) hother] at hcases
  rw [exec_frameArrives h, hcases]

section
variable (hr : s.pwr.role = .controller)
include hr

theorem stationFrame_input (ht : frType p = 1) (t : Nat) : s.stationFrame t p = s.inputFrame t p := by
  unfold State.stationFrame
  rw [hr, ht]
  rfl

theorem stationFrame_status (ht : frType p = 3) (t : Nat) : s.stationFrame t p = s.statusFrame p := by
  unfold State.stationFrame
  rw [hr, ht]
  rfl

end

/-! ### The report of a station (07 R203, R232, R233) -/

/-- What the report of accepted term and node in frame `p` leaves in a slot. -/
def Slot.reported (x : Slot) (p : List Byte) : Slot := { x with accTerm := max x.accTerm (getLE p 32 2), accNode := getLE p 34 2 }

/-- The report in frame `p` of the station in slot `i`. -/
def State.takesReport (s : State) (i : Nat) (p : List Byte) : State := s.stationReport i (getLE p 32 2) (getLE p 34 2)

/-- The report names no higher term, and no other node for the own term, or the unit is not ACTIVE. -/
def State.Unchallenged (s : State) (p : List Byte) : Prop := s.csw.role = .active → getLE p 32 2 ≤ s.csw.term ∧ (getLE p 32 2 = s.csw.term → getLE p 34 2 = s.node)

/-- The redundancy subsystem after a report: one of the own term for this unit confirms the term. -/
def State.confirmed (s : State) (p : List Byte) : Csw :=
  { s.csw with termConfirmed := s.csw.termConfirmed || decide (getLE p 32 2 = s.csw.term ∧ getLE p 34 2 = s.node) }

theorem takesReport_eq (h : s.Unchallenged p) (i : Nat) : s.takesReport i p = (s.upSlot i (·.reported p)).upCsw (fun _ => s.confirmed p) :=
  stationReport_quiet i _ _ h

/-- A report that does not challenge the unit reaches its slot and the confirmation of the term. -/
theorem takesReport_leaves (h : s.Unchallenged p) (hi : i < 256) : (s.takesReport i p).csw = s.confirmed p ∧ (s.takesReport i p).slot i = (s.slot i).reported p ∧
    (∀ j, j ≠ i → (s.takesReport i p).slot j = s.slot j) ∧ ∃ l, (s.takesReport i p).net = { s.net with slots := l } := by
  rw [takesReport_eq h]
  obtain ⟨hsame, hothers⟩ := upSlot_slot s hi (·.reported p)
  exact ⟨rfl, hsame, hothers, _, rfl⟩

theorem takesReport_keep {L : Parts} {o : State} (h : Keep L o s) (hu : s.Unchallenged p) (i : Nat) (hnet : L.net = true := by rfl) (hcsw : L.csw = true := by rfl) :
    Keep L o (s.takesReport i p) := by
  rw [takesReport_eq hu]
  exact (State.upSlot_keep h _ _).upCsw _

/-! ### INPUT frames (09 R282) -/

theorem inputFrame_stranger (h : s.slotOf (frSrc p) = none ∨ s.slotOf (frSrc p) = some i ∧ (getLE p 40 2 ≠ s.slotCfg i 4 0 ∨ getLE p 42 2 ≠ s.slotCfg i 6 0)) (t : Nat) :
    s.inputFrame t p = s.rxErr := by
  unfold State.inputFrame
  rcases h with h | ⟨h, hcounts⟩
  · rw [h]
  · rw [h]
    exact if_pos hcounts

/-- The beat last used in the numbering of frame `p`. -/
def Slot.lastBeat (x : Slot) (p : List Byte) : Option Nat := if frPtp p then x.lastBeat1 else x.lastBeat0

/-- REJOIN clears the record of the frame's numbering. -/
def Slot.rejoined (x : Slot) (p : List Byte) : Slot :=
  if (byteAt p 36).testBit 3 then (if frPtp p then { x with lastBeat1 := none } else { x with lastBeat0 := none }) else x

/-- A frame whose report is taken is sorted by its period, its beat and REJOIN. -/
def State.sortInput (v : State) (i t : Nat) (p : List Byte) : State :=
  if frPeriod p ≠ v.clk.p then v.netCause 9 i
  else if ((v.slot i).lastBeat p).any (fun b => decide (frBeat p ≤ b) && !(byteAt p 36).testBit 3) then v.countSuperseded
  else v.upSlot i (fun y => { y.rejoined p with frames := (y.rejoined p).frames ++ [(t, p)] })

theorem inputFrame_sorted (hi : s.slotOf (frSrc p) = some i) (h1 : getLE p 40 2 = s.slotCfg i 4 0) (h2 : getLE p 42 2 = s.slotCfg i 6 0) (t : Nat) :
    s.inputFrame t p = (s.takesReport i p).sortInput i t p := by
  rw [inputFrame_eq t hi h1 h2 (v := s.takesReport i p) rfl]
  unfold State.sortInput Slot.lastBeat Slot.rejoined
  cases (byteAt p 36).testBit 3 with
  | false => rfl
  | true =>
    have htwice : ∀ (v : State) (k l : Slot → Slot), (v.upSlot i k).upSlot i l = v.upSlot i (fun y => l (k y)) := fun v k l =>
      congrArg (fun x => v.upNet (fun n => { n with slots := x })) (vup_vup _ _ _ _ _)
    simp only [if_true, htwice]

section
variable {v : State}

theorem sortInput_period (h : frPeriod p ≠ v.clk.p) (i t : Nat) : v.sortInput i t p = v.netCause 9 i := if_pos h

variable (hp : frPeriod p = v.clk.p)
include hp

/-- Within its period a frame sets no cause. -/
theorem sortInput_cause (i t : Nat) : (v.sortInput i t p).net.cause = v.net.cause := by
  unfold State.sortInput
  rw [if_neg (not_not_intro hp)]
  split <;> rfl

theorem sortInput_superseded {b : Nat} (hb : (v.slot i).lastBeat p = some b) (hold : frBeat p ≤ b) (hre : (byteAt p 36).testBit 3 = false) (t : Nat) :
    v.sortInput i t p = v.countSuperseded := by
  unfold State.sortInput
  rw [if_neg (not_not_intro hp), if_pos]
  simp [hb, hold, hre]

theorem sortInput_kept (h : (byteAt p 36).testBit 3 = true ∨ ∀ b, (v.slot i).lastBeat p = some b → b < frBeat p) (t : Nat) :
    v.sortInput i t p = v.upSlot i (fun y => { y.rejoined p with frames := (y.rejoined p).frames ++ [(t, p)] }) := by
  unfold State.sortInput
  rw [if_neg (not_not_intro hp), if_neg]
  rcases h with h | h
  · simp [h]
  · cases hb : (v.slot i).lastBeat p with
    | none => simp
    | some b => simp [h b hb]

end

theorem sortInput_keep {L : Parts} {o v : State} (h : Keep L o v) (i t : Nat) (p : List Byte) (hnet : L.net = true := by rfl) (hevr : L.evr = true := by rfl) :
    Keep L o (v.sortInput i t p) := by
  unfold State.sortInput
  split
  · exact State.netCause_keep h _ _
  · split
    · exact h.upNet _
    · exact State.upSlot_keep h _ _

@[simp] theorem sortInput_csw (v : State) (i t : Nat) (p : List Byte) : (v.sortInput i t p).csw = v.csw :=
  (sortInput_keep (L := { net := true, evr := true }) (Keep.refl v) i t p).frame.csw rfl

@[simp] theorem netCause_slot (s : State) (b source j : Nat) : (s.netCause b source).slot j = s.slot j := by
  unfold State.slot
  rw [State.netCause_net]

/-- Sorting a frame changes its slot, the count of superseded frames and the causes. -/
theorem sortInput_net (v : State) (i t : Nat) (p : List Byte) :
    (v.sortInput i t p).net = { v.net with slots := (v.sortInput i t p).net.slots, superseded := (v.sortInput i t p).net.superseded, cause := (v.sortInput i t p).net.cause } ∧
    ∀ j, j ≠ i → (v.sortInput i t p).slot j = v.slot j := by
  unfold State.sortInput
  split
  · rw [State.netCause_net]
    exact ⟨rfl, fun _ _ => netCause_slot ..⟩
  · split
    · exact ⟨rfl, fun _ _ => rfl⟩
    · exact ⟨rfl, fun j hj => vget_vup_ne hj _ _⟩

/-! ### STATUS frames (09 R278, R285) -/

/-- The frame that the STATUS `p` of slot `i` answers is no longer awaited, and its REASON counts. -/
def State.answered (s : State) (i : Nat) (p : List Byte) : State :=
  let u := s.upNet (fun n => { n with unacked := n.unacked.filter (fun x =>
    !(decide (x.slot = i) && decide (frSeq x.bytes = getLE p 40 8) && decide (frTask x.bytes = byteAt p 38))) })
  if byteAt p 37 = 1 ∨ byteAt p 37 = 2 then (u.upNet (fun n => { n with termReject := sat32 n.termReject })).netCause 8 i
  else if byteAt p 37 = 3 then u.netCause 9 i else u

theorem statusFrame_stranger (h : s.slotOf (frSrc p) = none) : s.statusFrame p = s := by
  unfold State.statusFrame
  rw [h]

theorem statusFrame_answers (h : s.slotOf (frSrc p) = some i) : s.statusFrame p = (s.answered i p).takesReport i p := by
  unfold State.statusFrame
  rw [h]
  rfl

theorem answered_keep {L : Parts} {o : State} (h : Keep L o s) (i : Nat) (p : List Byte) (hnet : L.net = true := by rfl) (hevr : L.evr = true := by rfl) : Keep L o (s.answered i p) := by
  unfold State.answered
  dsimp only
  split
  · exact State.netCause_keep ((h.upNet _).upNet _) _ _
  · split
    · exact State.netCause_keep (h.upNet _) _ _
    · exact h.upNet _

@[simp] theorem answered_csw (s : State) (i : Nat) (p : List Byte) : (s.answered i p).csw = s.csw := (answered_keep (L := { net := true, evr := true }) (Keep.refl s) i p).frame.csw rfl

@[simp] theorem answered_node (s : State) (i : Nat) (p : List Byte) : (s.answered i p).node = s.node := by
  unfold State.node State.inForce
  rw [(answered_keep (L := { net := true, evr := true }) (Keep.refl s) i p).frame.dict rfl]

/-- The network block after an answer, by its REASON. -/
theorem answered_net (s : State) (i : Nat) (p : List Byte) :
    (s.answered i p).net = { s.net with
      termReject := (s.answered i p).net.termReject, cause := (s.answered i p).net.cause
      unacked := s.net.unacked.filter (fun z => !(decide (z.slot = i) && decide (frSeq z.bytes = getLE p 40 8) && decide (frTask z.bytes = byteAt p 38))) } ∧
    (byteAt p 37 = 1 ∨ byteAt p 37 = 2 → (s.answered i p).net.termReject = min 0xFFFFFFFF (s.net.termReject + 1) ∧ (s.answered i p).net.cause = setBit s.net.cause 8 true) ∧
    (byteAt p 37 = 3 → (s.answered i p).net.termReject = s.net.termReject ∧ (s.answered i p).net.cause = setBit s.net.cause 9 true) ∧
    (byteAt p 37 = 0 ∨ 3 < byteAt p 37 → (s.answered i p).net.termReject = s.net.termReject ∧ (s.answered i p).net.cause = s.net.cause) := by
  unfold State.answered
  dsimp only
  by_cases h12 : byteAt p 37 = 1 ∨ byteAt p 37 = 2
  · rw [if_pos h12, State.netCause_net]
    exact ⟨rfl, fun _ => ⟨rfl, rfl⟩, fun _ => by omega, fun _ => by omega⟩
  · rw [if_neg h12]
    by_cases h3 : byteAt p 37 = 3
    · rw [if_pos h3, State.netCause_net]
      exact ⟨rfl, fun h => absurd h h12, fun _ => ⟨rfl, rfl⟩, fun _ => by omega⟩
    · rw [if_neg h3]
      exact ⟨rfl, fun h => absurd h h12, fun h => absurd h h3, fun _ => ⟨rfl, rfl⟩⟩

/-! ### The latch (02 R44) -/

@[simp] theorem useFrame_superseded (s : State) (i t : Nat) (p : List Byte) (many : Bool) : (s.useFrame i t p many).net.superseded = s.net.superseded := rfl

theorem useFrame_frames (hi : i < 256) (t : Nat) (p : List Byte) (many : Bool) : ((s.useFrame i t p many).slot i).frames = (s.slot i).frames := by
  unfold State.useFrame
  rw [(upSlot_slot _ hi _).1]
  rfl

theorem slotStale_net (hi : i < 256) (many : Bool) : (s.slotStale i many).net.superseded = s.net.superseded ∧ ((s.slotStale i many).slot i).frames = (s.slot i).frames := by
  unfold State.slotStale
  dsimp only
  rw [(upSlot_slot _ hi _).1]
  split
  · exact ⟨rfl, rfl⟩
  · rw [State.upSlot_net, State.upSto_net, State.netCause_net]
    refine ⟨rfl, ?_⟩
    show ((s.netCause 4 i).slot i).frames = _
    rw [netCause_slot]

theorem spendFrames_net (hi : i < 256) : (s.spendFrames i).net.superseded = min 0xFFFFFFFF (s.net.superseded + ((s.beatFrames i).length - 1)) ∧
    ((s.spendFrames i).slot i).frames = (s.slot i).frames.filter (fun g => !decide (g.1 < s.clk.beatAt)) :=
  ⟨rfl, congrArg Slot.frames (upSlot_slot s hi _).1⟩

/-- Whether a frame is used or the slot goes stale, the latch has spent its frames. -/
theorem latchSlot_spends (hi : i < 256) : (s.latchSlot i).1.net.superseded = (s.spendFrames i).net.superseded ∧ ((s.latchSlot i).1.slot i).frames = ((s.spendFrames i).slot i).frames := by
  unfold State.latchSlot
  dsimp only
  split
  · exact slotStale_net hi false
  · next f _ =>
    split
    · exact ⟨rfl, useFrame_frames hi _ _ _⟩
    · split
      · rw [netCause_slot, State.netCause_net]
        exact ⟨rfl, useFrame_frames hi _ _ _⟩
      · exact slotStale_net hi _

/-- Of frames that there are, one is used. -/
theorem bestFrame_none : ∀ {l : List (Nat × List Byte)}, bestFrame l = none → l = []
  | [], _ => rfl
  | f :: l, h => by
    unfold bestFrame at h
    split at h
    · cases h
    · split at h
      · cases h
      · cases h

/-- The frame used is the one with the highest SEQ. -/
theorem bestFrame_max : ∀ (l : List (Nat × List Byte)) (g : Nat × List Byte), bestFrame l = some g → g ∈ l ∧ ∀ h ∈ l, frSeq h.2 ≤ frSeq g.2
  | [], g, hg => by cases hg
  | f :: l, g, hg => by
    have ih := bestFrame_max l
    unfold bestFrame at hg
    cases hl : bestFrame l with
    | none =>
      rw [hl] at hg
      cases hg
      obtain rfl := bestFrame_none hl
      simp
    | some b =>
      obtain ⟨hmem, hmax⟩ := ih b hl
      rw [hl] at hg
      dsimp only at hg
      split at hg
      · next hlt =>
        cases hg
        exact ⟨List.mem_cons_of_mem _ hmem, List.forall_mem_cons.mpr ⟨by omega, hmax⟩⟩
      · next hge =>
        cases hg
        exact ⟨List.mem_cons_self, List.forall_mem_cons.mpr ⟨Nat.le_refl _, fun h hh => (hmax h hh).trans (by omega)⟩⟩

/-! ### READMIT_ACK (09 R292) -/

theorem readmitAck_counts (hi : i < 256) (t : Nat) : ∃ v, exec (.readmitAck i t) s = .next v ∧ v.slot i = { s.slot i with acked := (s.slot i).acked || (s.slot i).rejoin } ∧
    (∀ j, j ≠ i → v.slot j = s.slot j) ∧ v.net = { s.net with slots := v.net.slots } ∧ Frame { clk := true, net := true } s v := by
  obtain ⟨hsame, hothers⟩ := upSlot_slot (s.reach t) hi (fun x => if x.rejoin then { x with acked := true } else x)
  refine ⟨_, rfl, hsame.trans ?_, hothers, rfl, (State.upSlot_keep (State.reach_keep (Keep.refl s) t) _ _).frame.countEdges s⟩
  show (if (s.slot i).rejoin then { s.slot i with acked := true } else s.slot i) = _
  cases hre : (s.slot i).rejoin with
  | true => rw [Bool.or_true]; rfl
  | false => rw [Bool.or_false]; rfl

/-! ### The statement -/

section
variable {c : Instr} (hexec : exec c s = commit s ((s.admitted t q).stationFrame t p)) (hr : s.pwr.role = .controller)
include hexec hr

theorem input_stranger (ht : frType p = 1) (h : s.slotOf (frSrc p) = none ∨ s.slotOf (frSrc p) = some i ∧ (getLE p 40 2 ≠ s.slotCfg i 4 0 ∨ getLE p 42 2 ≠ s.slotCfg i 6 0)) :
    ∃ v, exec c s = .next v ∧ v.net = { (s.admitted t q).net with rxErr := min 0xFFFFFFFF (s.net.rxErr + 1) } ∧ Frame { clk := true, net := true } s v := by
  rw [stationFrame_input (s := s.admitted t q) hr ht, inputFrame_stranger (s := s.admitted t q) h] at hexec
  exact ⟨_, hexec, (countEdges_net _ _).trans rfl, ((admitted_keep s t q).upNet _).frame.countEdges s⟩

theorem status_stranger (ht : frType p = 3) (h : s.slotOf (frSrc p) = none) :
    ∃ v, exec c s = .next v ∧ v.net = (s.admitted t q).net ∧ Frame { clk := true, net := true } s v := by
  rw [stationFrame_status (s := s.admitted t q) hr ht, statusFrame_stranger (s := s.admitted t q) h] at hexec
  exact ⟨_, hexec, countEdges_net _ _, (admitted_keep s t q).frame.countEdges s⟩

section
variable (hi : s.slotOf (frSrc p) = some i)
include hi

theorem exec_input (ht : frType p = 1) (h1 : getLE p 40 2 = s.slotCfg i 4 0) (h2 : getLE p 42 2 = s.slotCfg i 6 0) :
    exec c s = commit s (((s.admitted t q).takesReport i p).sortInput i t p) := by
  rw [hexec, stationFrame_input (s := s.admitted t q) hr ht, inputFrame_sorted (s := s.admitted t q) hi h1 h2]

theorem exec_status (ht : frType p = 3) : exec c s = commit s (((s.admitted t q).answered i p).takesReport i p) := by
  rw [hexec, stationFrame_status (s := s.admitted t q) hr ht, statusFrame_answers (s := s.admitted t q) hi]

/-- An INPUT frame of a configured station, its report taken, is sorted into its slot. -/
theorem input_taken (ht : frType p = 1) (h1 : getLE p 40 2 = s.slotCfg i 4 0) (h2 : getLE p 42 2 = s.slotCfg i 6 0) (hquiet : s.Unchallenged p) :
    ∃ v, exec c s = .next v ∧ v.csw = s.confirmed p ∧ (∀ j, j ≠ i → v.slot j = s.slot j) ∧ Frame { clk := true, csw := true, net := true, evr := true } s v ∧
      v.net = { s.net with seen := q, slots := v.net.slots, superseded := v.net.superseded, cause := v.net.cause } ∧
      (frPeriod p ≠ s.clk.p → v.slot i = (s.slot i).reported p ∧ v.net.cause = setBit s.net.cause 9 true ∧ v.net.superseded = s.net.superseded) ∧
      (frPeriod p = s.clk.p → v.net.cause = s.net.cause ∧
        (∀ b, ((s.slot i).reported p).lastBeat p = some b → frBeat p ≤ b → (byteAt p 36).testBit 3 = false →
          v.slot i = (s.slot i).reported p ∧ v.net.superseded = min 0xFFFFFFFF (s.net.superseded + 1)) ∧
        ((byteAt p 36).testBit 3 = true ∨ (∀ b, ((s.slot i).reported p).lastBeat p = some b → b < frBeat p) →
          v.slot i = { ((s.slot i).reported p).rejoined p with frames := (((s.slot i).reported p).rejoined p).frames ++ [(t, p)] } ∧ v.net.superseded = s.net.superseded)) := by
  obtain ⟨hlt, -⟩ := slotOf_some hi
  have hadm : (s.admitted t q).Unchallenged p := hquiet
  obtain ⟨v, hv⟩ : ∃ v, v = (s.admitted t q).takesReport i p := ⟨_, rfl⟩
  have hkeep : Keep { clk := true, csw := true, net := true, evr := true } s v := hv ▸ takesReport_keep (admitted_keep s t q) hadm i
  obtain ⟨hcsw, hslot, hothers, l, hnet⟩ := takesReport_leaves hadm hlt
  have hrun := exec_input hexec hr hi ht h1 h2
  rw [← hv] at hcsw hslot hothers hnet hrun
  have hperiod : v.clk.p = s.clk.p := by rw [hv, takesReport_eq hadm]; rfl
  have hcause : v.net.cause = s.net.cause := by rw [hnet]; rfl
  have hsuper : v.net.superseded = s.net.superseded := by rw [hnet]; rfl
  obtain ⟨hsorted, hrest⟩ := sortInput_net v i t p
  refine ⟨_, hrun, ?_, fun j hj => ?_, (sortInput_keep hkeep i t p).frame.countEdges s, ?_, fun hp => ?_,
    fun hp => ⟨(sortInput_cause (hp.trans hperiod.symm) i t).trans hcause, fun b hb hold hre => ?_, fun h => ?_⟩⟩
  · rw [countEdges_csw, sortInput_csw, hcsw]
    rfl
  · rw [countEdges_slot, hrest j hj, hothers j hj]
    rfl
  · exact hsorted.trans (by rw [hnet]; rfl)
  · rw [sortInput_period (hperiod ▸ hp), countEdges_net, State.netCause_net, hcause]
    exact ⟨(netCause_slot v 9 i i).trans hslot, rfl, hsuper⟩
  · rw [sortInput_superseded (hp.trans hperiod.symm) (hslot ▸ hb) hold hre]
    exact ⟨hslot, congrArg (fun n => min 0xFFFFFFFF (n + 1)) hsuper⟩
  · rw [sortInput_kept (hp.trans hperiod.symm) (hslot ▸ h)]
    exact ⟨((upSlot_slot v hlt _).1).trans (by rw [hslot]; rfl), hsuper⟩

/-- A STATUS of a configured station, its report taken. -/
theorem status_taken (ht : frType p = 3) (hquiet : s.Unchallenged p) : ∃ v, exec c s = .next v ∧ v.csw = s.confirmed p ∧ v.slot i = (s.slot i).reported p ∧
    (∀ j, j ≠ i → v.slot j = s.slot j) ∧ Frame { clk := true, csw := true, net := true, evr := true } s v ∧
    v.net = { s.net with
      seen := q, slots := v.net.slots, termReject := v.net.termReject, cause := v.net.cause
      unacked := s.net.unacked.filter (fun z => !(decide (z.slot = i) && decide (frSeq z.bytes = getLE p 40 8) && decide (frTask z.bytes = byteAt p 38))) } ∧
    (byteAt p 37 = 1 ∨ byteAt p 37 = 2 → v.net.termReject = min 0xFFFFFFFF (s.net.termReject + 1) ∧ v.net.cause = setBit s.net.cause 8 true) ∧
    (byteAt p 37 = 3 → v.net.termReject = s.net.termReject ∧ v.net.cause = setBit s.net.cause 9 true) ∧
    (byteAt p 37 = 0 ∨ 3 < byteAt p 37 → v.net.termReject = s.net.termReject ∧ v.net.cause = s.net.cause) := by
  obtain ⟨hlt, -⟩ := slotOf_some hi
  obtain ⟨a, ha⟩ : ∃ a, a = (s.admitted t q).answered i p := ⟨_, rfl⟩
  have hacsw : a.csw = s.csw := by rw [ha, answered_csw]; rfl
  have hanode : a.node = s.node := by rw [ha, answered_node]; rfl
  have hadm : a.Unchallenged p := by unfold State.Unchallenged; rw [hacsw, hanode]; exact hquiet
  have hkeep : Keep { clk := true, csw := true, net := true, evr := true } s a := by
    rw [ha]
    exact answered_keep (admitted_keep s t q) i p
  obtain ⟨hcsw, hslot, hothers, l, hnet⟩ := takesReport_leaves hadm hlt
  obtain ⟨hanswered, hreject, hperiod, hquietly⟩ := answered_net (s.admitted t q) i p
  have hrun := exec_status hexec hr hi ht
  rw [← ha] at hrun hanswered hreject hperiod hquietly
  have haslot : ∀ j, a.slot j = s.slot j := fun j => by unfold State.slot; rw [hanswered]; rfl
  have hconf : a.confirmed p = s.confirmed p := by unfold State.confirmed; rw [hacsw, hanode]
  refine ⟨_, hrun, ?_, ?_, fun j hj => ?_, (takesReport_keep hkeep hadm i).frame.countEdges s, ?_, ?_⟩
  · rw [countEdges_csw, hcsw, hconf]
  · rw [countEdges_slot, hslot, haslot]
  · rw [countEdges_slot, hothers j hj, haslot]
  · rw [countEdges_net, hnet, hanswered]
    rfl
  · rw [countEdges_net, hnet]
    exact ⟨hreject, hperiod, hquietly⟩

/-- A report that challenges an ACTIVE unit puts it into FAILED with reason 3 and drives off its outputs. -/
theorem report_fails (h : frType p = 3 ∨ frType p = 1 ∧ getLE p 40 2 = s.slotCfg i 4 0 ∧ getLE p 42 2 = s.slotCfg i 6 0) (ha : s.csw.role = .active)
    (hterm : s.csw.term < getLE p 32 2 ∨ getLE p 32 2 = s.csw.term ∧ getLE p 34 2 ≠ s.node) :
    ∃ v, exec c s = .next v ∧ v.csw.role = .failed ∧ v.csw.failReason = 3 ∧ v.csw.cause.getLsbD 7 = true ∧ v.csw.driversOff = true := by
  rcases h with ht | ⟨ht, h1, h2⟩
  · refine ⟨_, exec_status hexec hr hi ht, stationReport_failed i _ _ ?_ ?_⟩
    · rw [answered_csw]; exact ha
    · rw [answered_csw, answered_node]; exact hterm
  · refine ⟨_, exec_input hexec hr hi ht h1 h2, ?_⟩
    rw [countEdges_csw, sortInput_csw]
    exact stationReport_failed (s := s.admitted t q) i _ _ ha hterm

end

end

/-- Settles O20: an admitted frame by its type and slot, then the re-admission, the latch and the choice among frames. -/
theorem inputAndStatusFramesAtAController : Obligations.InputAndStatusFramesAtAController := by
  intro s c port t0 i f mac p u x y cs
  refine ⟨fun hc hd hu hnew hkind hport hgood hother hr hx hy hcs => ?_, fun hi => readmitAck_counts hi t0, fun hi => ?_, fun l g => bestFrame_max l g⟩
  · have hexec := exec_goodFrame hc hd hnew hkind hport hgood hother rfl
    have hun : u = s.admitted t0 u.net.seen := by rw [hu]; exact prpSeen_admitted hnew
    rw [← hu] at hexec
    obtain ⟨q, hq⟩ : ∃ q, q = u.net.seen := ⟨_, rfl⟩
    rw [← hq] at hexec hun ⊢
    subst hx hy hcs hun
    exact ⟨input_stranger hexec hr, fun ht hi h1 h2 => input_taken hexec hr hi ht h1 h2, status_stranger hexec hr, fun ht hi => status_taken hexec hr hi ht, report_fails hexec hr⟩
  · obtain ⟨hcount, hframes⟩ := latchSlot_spends hi
    obtain ⟨hspent, hleft⟩ := spendFrames_net hi
    exact ⟨hcount.trans hspent, hframes.trans hleft⟩

end Sys2Proof.Machine
end

section
/-! PROOFS. Single channels and groups of the field subsystem (08 R251 to R256, R259): what an update of one, a cause bit and a group event leave of each, and when the table of R255 drives a pin off. -/

set_option Elab.async false

namespace Sys2Proof.Machine

open Sys2Proof

variable {s : State} {c g : Nat}

@[simp] theorem countEdges_chan (s u : State) (d : Nat) : (countEdges s u).chan d = u.chan d := rfl

@[simp] theorem countEdges_group (s u : State) (d : Nat) : (countEdges s u).group d = u.group d := rfl

theorem upChan_chan (s : State) (hc : c < 512) (k : Chan → Chan) :
    (s.upChan c k).chan c = k (s.chan c) ∧ ∀ d, d ≠ c → (s.upChan c k).chan d = s.chan d :=
  ⟨vget_vup_same hc _ k, fun _ hd => vget_vup_ne hd _ k⟩

theorem upGroup_group (s : State) (hg : g < 8) (k : FieldGroup → FieldGroup) :
    (s.upGroup g k).group g = k (s.group g) ∧ ∀ d, d ≠ g → (s.upGroup g k).group d = s.group d :=
  ⟨vget_vup_same hg _ k, fun _ hd => vget_vup_ne hd _ k⟩

@[simp] theorem fioCause_chan (s : State) (b source d : Nat) : (s.fioCause b source).chan d = s.chan d :=
  (congrArg (fun f : Fio => vget f.chans d Chan.reset) (State.fioCause_fio s b source)).trans rfl

@[simp] theorem grpEvent_group (s : State) (i sev d : Nat) : (s.grpEvent i sev).group d = s.group d :=
  congrArg (fun l => vget l d FieldGroup.reset) (grpEvent_groups s i sev)

/-- Rows 1 and 2 of R255, and row 3 with the safe value 0, drive a pin off, and no row drives one that is no output. -/
theorem driveVal_eq_false (rs : List (Nat × Nat × Nat)) {ch : Chan}
    (h : ch.mode ≠ 3 ∨ (s.group (c / 64)).off = true ∨ s.driversOff = true ∨ s.allSafe = true ∧ ch.safeVal = 0) : s.driveVal rs c ch = false := by
  unfold State.driveVal State.chanSafe
  rcases h with h | h | h | ⟨hsafe, hval⟩
  · simp [h]
  · simp [h]
  · simp [h]
  · simp [hsafe, hval]

/-- A channel that the table drives off stops at once. -/
theorem redrive_chan_off (hc : c < 512) (h : s.driveVal s.safeRanges c (s.chan c) = false) :
    (s.redrive.chan c).conduct = false ∧ (s.redrive.chan c).onAt = none := by
  rw [redrive_chan s hc, h, Chan.redrive_off]
  exact ⟨rfl, rfl⟩

/-- The answer of a command that changes one channel. -/
theorem answer_upChan {i : Instr} {k : Chan → Chan} {x : Chan} (hc : c < 512) (h : exec i s = commit s (s.upChan c k)) (hx : k (s.chan c) = x) :
    ∃ t, exec i s = .next t ∧ t.chan c = x ∧ (∀ d, d ≠ c → t.chan d = s.chan d) ∧ { t.fio with chans := s.fio.chans } = s.fio ∧ Frame { fio := true } s t := by
  obtain ⟨hsame, hothers⟩ := upChan_chan s hc k
  exact ⟨_, h, hsame.trans hx, hothers, rfl, (State.upChan_keep (Keep.refl s) c k).frame.countEdges s⟩

/-- The answer of a command that changes one channel and sets FIO_CAUSE bit `b`. -/
theorem answer_upChan_cause {i : Instr} {k : Chan → Chan} {x : Chan} {b : Nat} (hc : c < 512) (h : exec i s = commit s ((s.upChan c k).fioCause b c)) (hx : k (s.chan c) = x) :
    ∃ t, exec i s = .next t ∧ t.chan c = x ∧ (∀ d, d ≠ c → t.chan d = s.chan d) ∧ t.fio.cause = setBit s.fio.cause b true ∧ t.fio.groups = s.fio.groups ∧
      Frame { fio := true, evr := true } s t := by
  obtain ⟨hsame, hothers⟩ := upChan_chan s hc k
  refine ⟨_, h, ?_, fun d hd => ?_, ?_, ?_, (State.fioCause_keep (State.upChan_keep (Keep.refl s) c k) b c).frame.countEdges s⟩
  · rw [countEdges_chan, fioCause_chan, hsame, hx]
  · rw [countEdges_chan, fioCause_chan, hothers d hd]
  · rw [countEdges_fio, State.fioCause_fio, State.upChan_fio]
  · rw [countEdges_fio, State.fioCause_fio, State.upChan_fio]

end Sys2Proof.Machine
end

section
/-! PROOFS. Thermal cycling of a channel (08 R251): a trip, the cooling, and the end of the overload. -/

set_option Elab.async false

namespace Sys2Proof.Machine

open Sys2Proof

variable {s : State} {c : Nat}

/-- A channel after a trip. -/
def Chan.trip (ch : Chan) : Chan := { ch with conduct := false, tripped := true, ovld := true }

/-- The trip of a channel that conducts; the first one sets OVERLOAD. -/
theorem exec_thermalTrip (h : (s.chan c).conduct = true) :
    exec (.thermalTrip c) s = commit s (if (s.chan c).ovld then s.upChan c Chan.trip else (s.upChan c Chan.trip).fioCause 9 c) := by
  show commit s (if (!(s.chan c).conduct) = true then _ else _) = _
  rw [h, if_neg (by decide)]
  rfl

theorem exec_thermalTrip_off (h : (s.chan c).conduct = false) : exec (.thermalTrip c) s = .next s := by
  show commit s (if (!(s.chan c).conduct) = true then _ else _) = _
  rw [h, if_pos (by decide), commit_self]

theorem exec_thermalCooled (h : (s.chan c).tripped = true) :
    exec (.thermalCooled c) s = commit s (s.upChan c (fun x => { x with tripped := false, conduct := s.driveVal s.safeRanges c (s.chan c) })) := by
  show commit s (if (!(s.chan c).tripped) = true then _ else _) = _
  rw [h, if_neg (by decide)]

theorem exec_thermalCooled_untripped (h : (s.chan c).tripped = false) : exec (.thermalCooled c) s = .next s := by
  show commit s (if (!(s.chan c).tripped) = true then _ else _) = _
  rw [h, if_pos (by decide), commit_self]

/-- Settles O14: a trip by whether it is the first, the cooling and the end of the overload as updates of the one channel. -/
theorem thermalCyclingOfAChannel : Obligations.ThermalCyclingOfAChannel := by
  intro s c hc
  refine ⟨fun h => ?_, fun h => answer_upChan hc (exec_thermalCooled h) rfl, fun h => answer_upChan hc rfl (if_pos h), exec_thermalTrip_off, exec_thermalCooled_untripped⟩
  have hexec := exec_thermalTrip h
  cases hovld : (s.chan c).ovld with
  | true =>
    rw [hovld, if_pos rfl] at hexec
    obtain ⟨t, hnext, hsame, hothers, hfio, -⟩ := answer_upChan hc hexec rfl
    have hcause := congrArg Fio.cause hfio
    have hgroups := congrArg Fio.groups hfio
    exact ⟨t, hnext, hsame, hothers, hcause, hgroups, (execThermalTrip_keep c hnext).frame⟩
  | false =>
    rw [hovld, if_neg (by decide)] at hexec
    exact answer_upChan_cause hc hexec rfl

end Sys2Proof.Machine
end

section
/-! PROOFS. Open load of a channel (08 R252), and qualification and over-current of a group (08 R253, R259, R260, R263). -/

set_option Elab.async false

namespace Sys2Proof.Machine

open Sys2Proof

variable {s : State} {c g : Nat}

/-! ### Open load (08 R252) -/

theorem exec_openLoadDetect (hen : (s.chan c).openEn = true) (hon : (s.chan c).conduct = true) (hovld : (s.chan c).ovld = false) (hopen : (s.chan c).openLoad = false) :
    exec (.openLoadDetect c) s = commit s ((s.upChan c (fun x => { x with openLoad := true })).fioCause 8 c) := by
  show commit s (if (!(s.chan c).openEn || !(s.chan c).conduct || (s.chan c).ovld || (s.chan c).openLoad) = true then _ else _) = _
  rw [hen, hon, hovld, hopen, if_neg (by decide)]

/-! ### Qualification and over-current (08 R253, R259, R260, R263) -/

/-- A group that becomes qualified (08 R260). -/
def FieldGroup.qualify (x : FieldGroup) : FieldGroup :=
  { x with
    qualified := true, warn := false, high := false, invalid := false, missing := false, crossed15 := false, everQualified := true
    reapply := x.reapply || (!x.everQualified && (x.low || x.overcurrent)) || (x.restore && x.low && !x.overcurrent) }

/-- GRP_RESTORE at a qualification is one more ground on which re-application waits for the boundary (08 R261, R263). -/
theorem selfRestore_qualify (x : FieldGroup) :
    FieldGroup.selfRestore { x with
      qualified := true, warn := false, high := false, invalid := false, missing := false, crossed15 := false
      reapply := x.reapply || (!x.everQualified && (x.low || x.overcurrent)), everQualified := true } = x.qualify := by
  unfold FieldGroup.selfRestore FieldGroup.qualify
  cases x.restore <;> cases x.low <;> cases x.overcurrent <;> simp

theorem exec_groupQualified (hg : g < 8) (hq : (s.group g).qualified = false) (hn : 2000 ≤ (s.group g).qualCount) :
    exec (.groupQualified g) s = commit s ((s.upGroup g FieldGroup.qualify).grpEvent g 5) := by
  show commit s (if (s.group g).qualified = true ∨ (s.group g).qualCount < 2000 ∨ 8 ≤ g then _ else _) = _
  rw [if_neg (by rw [hq]; simp; omega)]
  exact congrArg (fun k => commit s ((s.upGroup g k).grpEvent g 5)) (funext selfRestore_qualify)

/-- A group whose over-current is latched (08 R253). -/
def FieldGroup.overload (x : FieldGroup) : FieldGroup := { x.cancel with overcurrent := true, off := true }

theorem FieldGroup.cancel_reapply (x : FieldGroup) : x.cancel.reapply = false := by
  unfold FieldGroup.cancel
  cases h : x.reapply with
  | true => rfl
  | false => exact h

theorem exec_grpOvercurrent (hg : g < 8) (s : State) :
    exec (.grpOvercurrent g) s = commit s (((s.upGroup g FieldGroup.overload).grpEvent g 3).redrive) := by
  show commit s (if 8 ≤ g then _ else _) = _
  rw [if_neg (by omega)]
  rfl

/-- An update of a group that leaves its use, with the event of it: the group, the others, the channels and the cause. -/
theorem upGroup_grpEvent (s : State) (hg : g < 8) (k : FieldGroup → FieldGroup) (sev : Nat) (hk : (k (s.group g)).used = (s.group g).used) :
    ((s.upGroup g k).grpEvent g sev).group g = k (s.group g) ∧ (∀ d, d ≠ g → ((s.upGroup g k).grpEvent g sev).group d = s.group d) ∧
    ((s.upGroup g k).grpEvent g sev).fio.chans = s.fio.chans ∧
    ((s.upGroup g k).grpEvent g sev).fio.cause = if (s.group g).used then setBit s.fio.cause g true else s.fio.cause := by
  obtain ⟨hsame, hothers⟩ := upGroup_group s hg k
  refine ⟨(grpEvent_group _ _ _ _).trans hsame, fun d hd => (grpEvent_group _ _ _ _).trans (hothers d hd), grpEvent_chans _ _ _, ?_⟩
  rw [grpEvent_cause, hsame, hk]
  rfl

theorem exec_groupQualified_answer (hg : g < 8) (hq : (s.group g).qualified = false) (hn : 2000 ≤ (s.group g).qualCount) :
    ∃ t, exec (.groupQualified g) s = .next t ∧ t.group g = (s.group g).qualify ∧ (∀ d, d ≠ g → t.group d = s.group d) ∧ t.fio.chans = s.fio.chans ∧
      t.fio.cause = (if (s.group g).used then setBit s.fio.cause g true else s.fio.cause) ∧ Frame { fio := true, evr := true } s t := by
  have hexec := exec_groupQualified hg hq hn
  obtain ⟨hsame, hothers, hchans, hcause⟩ := upGroup_grpEvent s hg FieldGroup.qualify 5 rfl
  exact ⟨_, hexec, hsame, hothers, hchans, hcause, (execGroupQualified_keep g hexec).frame⟩

theorem exec_grpOvercurrent_answer (s : State) (hc : c < 512) (hg : g < 8) :
    ∃ t, exec (.grpOvercurrent g) s = .next t ∧ (t.group g).overcurrent = true ∧ (t.group g).off = true ∧ (t.group g).reapply = false ∧
      (∀ d, d ≠ g → t.group d = s.group d) ∧ (c / 64 = g → (t.chan c).conduct = false ∧ (t.chan c).onAt = none) ∧
      t.fio.cause = (if (s.group g).used then setBit s.fio.cause g true else s.fio.cause) ∧ Frame { fio := true, evr := true } s t := by
  have hexec := exec_grpOvercurrent hg s
  obtain ⟨hsame, hothers, -, hcause⟩ := upGroup_grpEvent s hg FieldGroup.overload 3 (FieldGroup.cancel_used _)
  have hgroup : (countEdges s ((s.upGroup g FieldGroup.overload).grpEvent g 3).redrive).group g = (s.group g).overload := hsame
  refine ⟨_, hexec, ?_, ?_, ?_, hothers, fun h => ?_, hcause, (execGrpOvercurrent_keep g hexec).frame⟩
  · rw [hgroup]
    rfl
  · rw [hgroup]
    rfl
  · rw [hgroup]
    exact FieldGroup.cancel_reapply _
  · refine redrive_chan_off hc (driveVal_off _ _ _ ?_)
    rw [h, hsame]
    rfl

/-- Settles O15: the open-load bits as updates of the one channel, qualification and over-current as updates of the one group with its event. -/
theorem openLoadAndGroupMonitors : Obligations.OpenLoadAndGroupMonitors := by
  intro s c g hc hg
  exact ⟨fun hen hon hovld hopen => answer_upChan_cause hc (exec_openLoadDetect hen hon hovld hopen) rfl, fun h => answer_upChan hc rfl (if_pos h),
    exec_groupQualified_answer hg, exec_grpOvercurrent_answer s hc hg⟩

end Sys2Proof.Machine
end

section
/-! PROOFS. Staggered switch-on, logic silence and the acknowledgement of groups (08 R254, R256, R257, R261). -/

set_option Elab.async false

namespace Sys2Proof.Machine

open Sys2Proof

variable {s : State} {c g t : Nat} {m : Master}

/-! ### Staggered switch-on (08 R254) -/

/-- A channel at `now`: a switch-on that has fallen due makes it conduct. -/
def Chan.switchDue (x : Chan) (now : Nat) : Chan :=
  match x.onAt with
  | some d => if d ≤ now then { x with onAt := none, conduct := true } else x
  | none => x

theorem Chan.switchDue_of_le {x : Chan} {d now : Nat} (h : x.onAt = some d) (hd : d ≤ now) : x.switchDue now = { x with onAt := none, conduct := true } := by
  unfold Chan.switchDue
  rw [h]
  exact if_pos hd

theorem exec_staggeredSwitchOn (s : State) (c t : Nat) :
    exec (.staggeredSwitchOn c t) s = commit s ((s.reach t).upChan c (·.switchDue (max s.clk.now t))) := rfl

theorem exec_staggeredSwitchOn_due (hc : c < 512) {d : Nat} (h : (s.chan c).onAt = some d) (hd : d ≤ max s.clk.now t) :
    ∃ u, exec (.staggeredSwitchOn c t) s = .next u ∧ u.chan c = { s.chan c with onAt := none, conduct := true } ∧ (∀ j, j ≠ c → u.chan j = s.chan j) ∧
      { u.fio with chans := s.fio.chans } = s.fio ∧ u.clk = { s.clk with now := max s.clk.now t } ∧ Frame { clk := true, fio := true } s u := by
  have hexec := exec_staggeredSwitchOn s c t
  obtain ⟨hsame, hothers⟩ := upChan_chan (s.reach t) hc (·.switchDue (max s.clk.now t))
  exact ⟨_, hexec, hsame.trans (Chan.switchDue_of_le h hd), hothers, rfl, rfl, (execStaggeredSwitchOn_keep c t hexec).frame⟩

/-! ### Logic silence (08 R256, R257) -/

/-- The timeout has expired: EXPIRED and SILENCE are set, and no pin has followed yet. -/
def State.silence (s : State) : State := (s.upFio (fun f => { f with expired := true })).fioCause 10 0

theorem silence_fio (s : State) : s.silence.fio = { s.fio with expired := true, cause := setBit s.fio.cause 10 true } := State.fioCause_fio _ 10 0

theorem silence_chan (s : State) (d : Nat) : s.silence.chan d = s.chan d := fioCause_chan _ _ _ _

theorem silence_group (s : State) (d : Nat) : s.silence.group d = s.group d :=
  (congrArg (fun f : Fio => vget f.groups d FieldGroup.reset) (silence_fio s)).trans rfl

theorem silence_driversOff (s : State) : s.silence.driversOff = s.driversOff := by
  unfold State.driversOff
  rw [silence_fio]
  exact congrArg (fun k : Csw => k.driversOff || !s.fio.released) (State.fioCause_csw _ 10 0)

theorem silence_allSafe (s : State) : s.silence.allSafe = true := by
  unfold State.allSafe
  rw [silence_fio]
  rfl

/-- The safe states come into force: every pin follows the table. -/
theorem exec_logicSilenceExpiry (h : s.fio.expired = false) :
    exec .logicSilenceExpiry s = commit s (if s.pwr.role = .station then s.silence.redrive.upNet (fun n => { n with stRejoin := true }) else s.silence.redrive) := by
  have hrole : s.silence.redrive.pwr = s.pwr := State.fioCause_pwr _ 10 0
  show commit s (if s.fio.expired = true then _ else if s.silence.redrive.pwr.role = .station then _ else _) = _
  rw [h, if_neg (by decide), hrole]
  rfl

/-- A pin that a row of R255 holds off, a safe value of 0 included, is off after the expiry. -/
theorem silence_redrive_off (hc : c < 512) (h : (s.chan c).mode ≠ 3 ∨ (s.group (c / 64)).off = true ∨ s.driversOff = true ∨ (s.chan c).safeVal = 0) :
    (s.silence.redrive.chan c).conduct = false := by
  refine (redrive_chan_off hc (driveVal_eq_false _ ?_)).1
  rw [silence_chan, silence_group, silence_driversOff]
  exact h.imp_right (Or.imp_right (Or.imp_right (fun hval => ⟨silence_allSafe s, hval⟩)))

theorem exec_logicSilenceExpiry_answer (hc : c < 512) (h : s.fio.expired = false) :
    ∃ u, exec .logicSilenceExpiry s = .next u ∧ u.fio.expired = true ∧ u.fio.cause = setBit s.fio.cause 10 true ∧ u.fio.groups = s.fio.groups ∧
      ((s.chan c).mode ≠ 3 ∨ (s.group (c / 64)).off = true ∨ s.driversOff = true ∨ (s.chan c).safeVal = 0 → (u.chan c).conduct = false) ∧
      u.net = (if s.pwr.role = .station then { s.net with stRejoin := true } else s.net) ∧ Frame { fio := true, evr := true, net := true } s u := by
  have hexec := exec_logicSilenceExpiry h
  have hnet : s.silence.redrive.net = s.net := State.fioCause_net _ 10 0
  have hexpired := congrArg Fio.expired (silence_fio s)
  have hcause := congrArg Fio.cause (silence_fio s)
  have hgroups := congrArg Fio.groups (silence_fio s)
  by_cases hrole : s.pwr.role = .station
  · rw [if_pos hrole] at hexec ⊢
    exact ⟨_, hexec, hexpired, hcause, hgroups, silence_redrive_off hc,
      congrArg (fun n : Net => { n with stRejoin := true }) hnet, (execLogicSilenceExpiry_keep hexec).frame⟩
  · rw [if_neg hrole] at hexec ⊢
    exact ⟨_, hexec, hexpired, hcause, hgroups, silence_redrive_off hc, hnet, (execLogicSilenceExpiry_keep hexec).frame⟩

/-! ### Acknowledgement of groups (08 R261) -/

/-- A group whose bit of an acknowledgement is `b`. -/
def FieldGroup.acked (x : FieldGroup) (b : Bool) : FieldGroup := if b && x.qualified && (x.low || x.overcurrent) then { x with reapply := true } else x

theorem ackGroups_group (s : State) (mask : Nat) (hg : g < 8) : (s.ackGroups mask).group g = (s.group g).acked (mask.testBit g) := vget_mapIdx _ _ hg _ _

/-- The low byte of a register word holds the low bits of the number written. -/
theorem wfield_low_testBit (mask : Nat) (hg : g < 8) : (wfield (w32 mask) 7 0).testBit g = mask.testBit g := by
  unfold wfield field w32
  rw [BitVec.toNat_ofNat, Nat.shiftRight_zero, Nat.testBit_mod_two_pow, Nat.testBit_mod_two_pow, decide_eq_true (by omega), decide_eq_true (by omega), Bool.true_and, Bool.true_and]

/-- A write that reaches FIO_GRP_ACK acknowledges, whatever its master's privilege. -/
theorem exec_grpAck (h : s.readReaches m 0x700C = true) (mask : Nat) : exec (.grpAck m mask) s = commit s (s.ackGroups (wfield (w32 mask) 7 0)) :=
  congrArg (commit s) (fabricWrite_done h rfl)

theorem exec_grpAck_answer (h : s.readReaches m 0x700C = true) (mask : Nat) (hg : g < 8) :
    ∃ u, exec (.grpAck m mask) s = .next u ∧ u.group g = (s.group g).acked (mask.testBit g) ∧ { u.fio with groups := s.fio.groups } = s.fio ∧ Frame { fio := true } s u := by
  refine ⟨_, exec_grpAck h mask, ?_, rfl, (State.ackGroups_keep (Keep.refl s) _).frame.countEdges s⟩
  rw [countEdges_group, ackGroups_group s _ hg, wfield_low_testBit mask hg]

/-- Settles O16: the switch-on as an update of its channel, the expiry by the role, the acknowledgement group by group. -/
theorem switchOnSilenceAndAcknowledgement : Obligations.SwitchOnSilenceAndAcknowledgement := by
  intro s c g t mask m hc hg
  exact ⟨fun _ h hd => exec_staggeredSwitchOn_due hc h hd, exec_logicSilenceExpiry_answer hc, fun h => exec_grpAck_answer h mask hg⟩

end Sys2Proof.Machine
end

section
/-! PROOFS. Raw samples (08 R245, R246, R249): the level that a pin voltage reads, the filter of a channel, and what RAW_SAMPLE leaves of a channel's input side. -/

set_option Elab.async false

namespace Sys2Proof.Machine

open Sys2Proof

variable {s : State} {c t : Nat} {pins : List (Nat × Int)} {supply current : List Nat}

/-! ### The level that a pin voltage reads (08 R245) -/

/-- The thresholds of a channel lie between 5 V and the level of its mode, at least 1 V apart. -/
theorem levels_between {hi : Nat} (h : 5999 < hi) (c : Nat) : 5000 ≤ fallLevel hi c ∧ fallLevel hi c + 1000 ≤ riseLevel hi c ∧ riseLevel hi c ≤ hi := by
  have hfall : fallLevel hi c < 5000 + (hi - 5999) := Nat.add_lt_add_left (Nat.mod_lt _ (by omega)) 5000
  have hrise : riseLevel hi c < fallLevel hi c + 1000 + (hi - fallLevel hi c - 999) := Nat.add_lt_add_left (Nat.mod_lt _ (by omega)) _
  exact ⟨Nat.le_add_right _ _, Nat.le_add_right _ _, by omega⟩

/-- A voltage is decided as `r`: at or above the upper level and protected it reads 1, from -30 V to 5 V it reads 0. -/
def Decided (hi : Nat) (v : Int) (r : Bool) : Prop := (hi : Int) ≤ v ∧ v ≤ 36000 ∧ r = true ∨ -30000 ≤ v ∧ v ≤ 5000 ∧ r = false

theorem readLevel_decided {hi : Nat} {v : Int} {r : Bool} (hhi : 5999 < hi) (h : Decided hi v r) (use c : Nat) (last : Option Bool) : readLevel hi use c last v = r := by
  obtain ⟨hfall, hgap, hrise⟩ := levels_between hhi c
  unfold readLevel
  rcases h with ⟨hlow, hup, rfl⟩ | ⟨hlow, hup, rfl⟩
  · rw [if_neg (by omega), if_pos (by omega)]
  · rw [if_neg (by omega), if_neg (by omega), if_pos (by omega)]

/-- The level of the mode of an input (08 R245). -/
def inputHigh (mode : Nat) : Nat := if mode = 2 then 11000 else 15000

theorem rawOf_decided {ch : Chan} {v : Int} {r : Bool} (hmode : ch.mode = 1 ∨ ch.mode = 2) (h : Decided (inputHigh ch.mode) v r) (use c : Nat) : ch.rawOf use c v = r := by
  unfold Chan.rawOf
  rw [if_neg (by omega)]
  refine readLevel_decided ?_ h use c _
  rcases hmode with hmode | hmode <;> rw [hmode] <;> decide

/-! ### The filter (08 R246, R249) -/

/-- The rule of R246 and R249 for a channel `ch`, a raw value `r`, and the filtered value and count after it. -/
def FilterRule (ch : Chan) (r filtered : Bool) (count : Nat) : Prop :=
  (ch.sampled = false → filtered = r ∧ count = 0) ∧
  (ch.sampled = true → r = ch.filtered → filtered = ch.filtered ∧ count = 0) ∧
  (ch.sampled = true → r ≠ ch.filtered → ch.count + 1 < max 1 (ch.filter / 10) → filtered = ch.filtered ∧ count = ch.count + 1) ∧
  (ch.sampled = true → r ≠ ch.filtered → max 1 (ch.filter / 10) ≤ ch.count + 1 → filtered = r ∧ count = 0)

theorem filter1_rule (ch : Chan) (r : Bool) : FilterRule ch r (ch.filter1 r).filtered (ch.filter1 r).count := by
  unfold Chan.filter1
  refine ⟨fun hs => ?_, fun hs hr => ?_, fun hs hr hn => ?_, fun hs hr hn => ?_⟩
  · rw [hs, if_pos (by decide)]
    exact ⟨rfl, rfl⟩
  · rw [hs, if_neg (by decide), if_pos hr]
    exact ⟨rfl, rfl⟩
  · rw [hs, if_neg (by decide), if_neg hr, if_neg (by omega)]
    exact ⟨rfl, rfl⟩
  · rw [hs, if_neg (by decide), if_neg hr, if_pos hn]
    exact ⟨rfl, rfl⟩

/-! ### RAW_SAMPLE (08 R246) -/

/-- One channel at a raw sample: an output takes its read-back, every other channel is filtered. -/
def Chan.sample (ch : Chan) (use c : Nat) (v : Int) : Chan :=
  if ch.mode = 3 then { ch with raw := ch.rawOf use c v, sampled := true } else ch.filter1 (ch.rawOf use c v)

/-- Every channel takes its raw sample. -/
def State.sampleChans (s : State) (pins : List (Nat × Int)) : State :=
  s.useFree.upFio (fun f => { f with chans := f.chans.mapIdx (fun c ch => ch.sample s.free c ((aget pins c).getD 0)) })

/-- Every group monitor takes its sample. -/
def State.sampleGroups (s : State) (supply current : List Nat) : State :=
  (List.range 8).foldl (fun acc i => acc.grpSample i (supply[i]?.getD 0) (current[i]?.getD 0)) s

/-- The input latch, where the sample is that of the latch. -/
def State.latchAt (s : State) (t : Nat) : State := if s.isLatch t then s.latchLocal else s

/-- Channels, groups, pins and the latch, one after the other. -/
theorem exec_rawSample (h : s.domainOn 10 = true) (t : Nat) (pins : List (Nat × Int)) (supply current : List Nat) :
    exec (.rawSample t pins supply current) s = commit s ((((s.reach t).sampleChans pins).sampleGroups supply current).redrive.latchAt t) := by
  have hon : (s.reach t).domainOn 10 = true := h
  show commit s (if (!(s.reach t).domainOn 10) = true then _ else _) = _
  rw [hon, if_neg (by decide)]
  rfl

theorem sampleChans_chan (s : State) (pins : List (Nat × Int)) (hc : c < 512) : (s.sampleChans pins).chan c = (s.chan c).sample s.free c ((aget pins c).getD 0) :=
  vget_mapIdx _ _ hc _ _

theorem sampleGroups_chan (s : State) (supply current : List Nat) (d : Nat) : (s.sampleGroups supply current).chan d = s.chan d := by
  unfold State.chan State.sampleGroups
  rw [grpSamples_chans supply current (List.range 8) s]

/-- Two channels with the same filtered value and the same count. -/
structure SameFilter (a b : Chan) : Prop where
  filtered : a.filtered = b.filtered
  count : a.count = b.count

theorem SameFilter.trans {a b d : Chan} (h : SameFilter a b) (g : SameFilter b d) : SameFilter a d := ⟨h.filtered.trans g.filtered, h.count.trans g.count⟩

theorem latchAt_sameFilter (s : State) (t : Nat) (hc : c < 512) : SameFilter ((s.latchAt t).chan c) (s.chan c) := by
  unfold State.latchAt
  split
  · obtain ⟨q, hq⟩ := latchLocal_chan s hc
    rw [hq]
    exact ⟨rfl, rfl⟩
  · exact ⟨rfl, rfl⟩

theorem redrive_sameFilter (s : State) (hc : c < 512) : SameFilter (s.redrive.chan c) (s.chan c) := by
  rw [redrive_chan s hc]
  obtain ⟨hfiltered, hcount, -⟩ := Chan.redrive_input (s.chan c) c s.clk.now (s.driveVal s.safeRanges c (s.chan c))
  exact ⟨hfiltered, hcount⟩

/-- Group monitors, pins and the latch leave the filter of a channel as its own sample made it. -/
theorem rawSample_sameFilter (s : State) (hc : c < 512) (t : Nat) (pins : List (Nat × Int)) (supply current : List Nat) :
    SameFilter ((((s.sampleChans pins).sampleGroups supply current).redrive.latchAt t).chan c) ((s.chan c).sample s.free c ((aget pins c).getD 0)) := by
  rw [← sampleChans_chan s pins hc, ← sampleGroups_chan (s.sampleChans pins) supply current c]
  exact (latchAt_sameFilter _ t hc).trans (redrive_sameFilter _ hc)

theorem sample_decided {ch : Chan} {v : Int} {r : Bool} (hmode : ch.mode = 1 ∨ ch.mode = 2) (h : Decided (inputHigh ch.mode) v r) (use c : Nat) :
    ch.sample use c v = ch.filter1 r := by
  unfold Chan.sample
  rw [if_neg (by omega), rawOf_decided hmode h]

/-- Settles O17: the raw value is decided by the voltage, and what follows the channel's own filter leaves it alone. -/
theorem rawSampleFiltersInputs : Obligations.RawSampleFiltersInputs := by
  intro s t c pins supply current hon hc
  have hexec := exec_rawSample hon t pins supply current
  refine ⟨_, hexec, (execRawSample_keep t pins supply current hexec).frame, ?_⟩
  rintro hi v r hlevel rfl hv
  obtain ⟨hmode, hhi⟩ : ((s.chan c).mode = 1 ∨ (s.chan c).mode = 2) ∧ hi = inputHigh (s.chan c).mode := by
    rcases hlevel with ⟨hmode, rfl⟩ | ⟨hmode, rfl⟩ <;> rw [hmode] <;> decide
  subst hhi
  have hfilter := rawSample_sameFilter (s.reach t) hc t pins supply current
  have hx : ((s.reach t).chan c).sample (s.reach t).free c ((aget pins c).getD 0) = (s.chan c).filter1 r := sample_decided hmode hv _ c
  rw [hx] at hfilter
  rw [countEdges_chan, hfilter.filtered, hfilter.count]
  exact filter1_rule (s.chan c) r

end Sys2Proof.Machine
end

section
/-! PROOFS. Station frames at a port and at a station (09 R269, R273, R278, R279, R286, R288): the discard of duplicates, how a frame is sorted, and the checks of a station in their order, each with the STATUS that answers it. The discard of duplicates rests on log 26, what SYNC tells on log 27. -/

set_option Elab.async false

namespace Sys2Proof.Machine

open Sys2Proof

variable {s : State} {port t r : Nat} {f mac p : List Byte} {q : List (Nat × List Byte)} {c : Instr}

/-! ### Frames to the controllers (09 R278, R284) -/

/-- A frame without a launch takes every port of its code that is up. -/
theorem openPorts_unlaunched {x : TxFrame} (h : x.launch = none) : s.openPorts x = (s.portsOf (s.framePort x.slot)).filter (fun k => s.net.link.getLsbD k) := by
  unfold State.openPorts lateAt
  simp [h]

/-- With nothing queued before it, a frame to the controllers leaves at once on the ports that are up. -/
theorem queueFrame_toControllers (h : s.net.txq = []) (b : List Byte) : (s.queueFrame 256 none false b).net.sent =
    (((s.portsOf (s.inForce 0x1300 5 0)).filter (fun k => s.net.link.getLsbD k)).reverse.map (fun k => Sent.eth k (s.ethOctets (s.inForce 0x1300 5 0) (s.frameMac 256) b k))) ++ s.net.sent :=
  (queueFrame_sent s 256 none false b h (fun _ hl => nomatch hl) (openPorts_unlaunched rfl)).1

theorem statusSend_left (s : State) (p : List Byte) (r : Nat) : (s.statusSend p r).net = { s.net with
    sent := (s.statusSend p r).net.sent, txq := (s.statusSend p r).net.txq, unacked := (s.statusSend p r).net.unacked, prpSeq := (s.statusSend p r).net.prpSeq
    lineAt := (s.statusSend p r).net.lineAt, txLate := (s.statusSend p r).net.txLate, cause := (s.statusSend p r).net.cause } :=
  Net.still_eq (queueFrame_still s _ _ _ _)

/-! ### Duplicates and the sorting of frames (09 R269, R273, R279) -/

/-- A command that commits a state of a known frame. -/
theorem answer_keep {L : Parts} {u : State} (h : exec c s = commit s u) (hk : Keep L s u) : ∃ v, exec c s = .next v ∧ v.net = u.net ∧ Frame L s v :=
  ⟨_, h, countEdges_net s u, hk.frame.countEdges s⟩

/-- What is kept within some parts is kept within more. -/
theorem Keep.widen {L M : Parts} {a b : State} (h : Keep L a b) (hle : L.le M = true := by rfl) : Keep M a b := ⟨h.guard, h.frame.comp (Keep.refl b).frame hle hle⟩

/-- Where the dictionary is left alone its entries in force stay. -/
theorem Frame.inForce {L : Parts} {a b : State} (h : Frame L a b) (hdict : L.dict = false) (idx sub d : Nat) : b.inForce idx sub d = a.inForce idx sub d := by
  unfold State.inForce
  rw [h.dict hdict]

/-- A second copy on a PRP pair is discarded and counted. -/
theorem duplicate_discarded (hc : FrameArrives c port t f) (hd : s.domainOn 7 = true) (h : ((s.reach t).prpSeen port f).1 = true) : ∃ v, exec c s = .next v ∧
    v.net = { s.net with seen := ((s.reach t).prpSeen port f).2.net.seen, prpDup := min 0xFFFFFFFF (s.net.prpDup + 1) } ∧ Frame { clk := true, net := true } s v := by
  obtain ⟨-, hdup, -, -⟩ := prpSeen_net (s.reach t) port f
  have hexec := exec_frameArrives (s := s) hc
  rw [(ethArrives_cases hd rfl).1 h] at hexec
  obtain ⟨v, hv, hnet, hframe⟩ := answer_keep (L := { clk := true, net := true }) hexec (State.prpSeen_keep (State.reach_keep (Keep.refl s) t) port f)
  exact ⟨v, hv, hnet.trans (hdup h), hframe⟩

/-- The unit once a station frame has reached it: time has passed, the first copies it remembers are `q`, and a clash of nodes is noted. -/
def State.stationHeard (s : State) (t : Nat) (q : List (Nat × List Byte)) (mac p : List Byte) : State := (s.admitted t q).nodeClash mac p

theorem stationHeard_keep (s : State) (t : Nat) (q : List (Nat × List Byte)) (mac p : List Byte) : Keep { clk := true, net := true, evr := true } s (s.stationHeard t q mac p) :=
  State.nodeClash_keep (admitted_keep s t q) mac p

theorem nodeClash_net (s : State) (mac p : List Byte) :
    (s.nodeClash mac p).net = { s.net with cause := if 6 ≤ p.length ∧ frSrc p = s.node ∧ mac ≠ ownMac then setBit s.net.cause 11 true else s.net.cause } := by
  unfold State.nodeClash
  split
  · rw [State.occurSev_net, State.upNet_net]
  · rfl

theorem nodeClash_clk (s : State) (mac p : List Byte) : (s.nodeClash mac p).clk = s.clk :=
  (State.nodeClash_keep (L := { net := true, evr := true }) (Keep.refl s) mac p).frame.clk rfl

theorem stationHeard_net (s : State) (t : Nat) (q : List (Nat × List Byte)) (mac p : List Byte) : (s.stationHeard t q mac p).net =
    { s.net with seen := q, cause := if 6 ≤ p.length ∧ frSrc p = s.node ∧ mac ≠ ownMac then setBit s.net.cause 11 true else s.net.cause } :=
  nodeClash_net (s.admitted t q) mac p

@[simp] theorem stationHeard_rxErr (s : State) (t : Nat) (q : List (Nat × List Byte)) (mac p : List Byte) : (s.stationHeard t q mac p).net.rxErr = s.net.rxErr := by
  rw [stationHeard_net]

@[simp] theorem stationHeard_accNode (s : State) (t : Nat) (q : List (Nat × List Byte)) (mac p : List Byte) : (s.stationHeard t q mac p).net.accNode = s.net.accNode := by
  rw [stationHeard_net]

@[simp] theorem stationHeard_accTerm (s : State) (t : Nat) (q : List (Nat × List Byte)) (mac p : List Byte) : (s.stationHeard t q mac p).net.accTerm = s.net.accTerm := by
  rw [stationHeard_net]

@[simp] theorem stationHeard_clk (s : State) (t : Nat) (q : List (Nat × List Byte)) (mac p : List Byte) : (s.stationHeard t q mac p).clk = { s.clk with now := max s.clk.now t } :=
  nodeClash_clk (s.admitted t q) mac p

@[simp] theorem stationHeard_pwr (s : State) (t : Nat) (q : List (Nat × List Byte)) (mac p : List Byte) : (s.stationHeard t q mac p).pwr = s.pwr :=
  (stationHeard_keep s t q mac p).frame.pwr rfl

@[simp] theorem stationHeard_inForce (s : State) (t : Nat) (q : List (Nat × List Byte)) (mac p : List Byte) (a b d : Nat) : (s.stationHeard t q mac p).inForce a b d = s.inForce a b d :=
  (stationHeard_keep s t q mac p).frame.inForce rfl a b d

section
variable (hc : FrameArrives c port t f) (hd : s.domainOn 7 = true) (hnew : ((s.reach t).prpSeen port f).1 = false) (hq : q = ((s.reach t).prpSeen port f).2.net.seen)
include hc hd hnew hq

/-- A frame that is no station frame, or comes to a port that takes none: only an HSR frame counts. -/
theorem exec_noStationFrame :
    (s.ethKind f = .other → exec c s = commit s (s.admitted t q)) ∧
    (s.ethKind f = .hsr → exec c s = commit s (s.admitted t q).rxErr) ∧
    (s.ethKind f = .station mac p → s.stationPort port = false → exec c s = commit s (s.admitted t q)) := by
  obtain ⟨hother, hhsr, hstation⟩ := (ethArrives_cases hd rfl).2 hnew
  rw [prpSeen_admitted hnew, ← hq] at hother hhsr hstation
  rw [exec_frameArrives hc]
  exact ⟨fun h => by rw [hother h], fun h => by rw [hhsr h], fun h hp => by rw [hstation mac p h, if_pos hp]⟩

/-- A station frame at a port that takes it: a good one is taken by its type, any other counts. -/
theorem exec_stationFrame (hkind : s.ethKind f = .station mac p) (hport : s.stationPort port = true) :
    exec c s = commit s (if headerOk p && payloadOk p && s.frameForUs p then (s.stationHeard t q mac p).stationFrame t p else (s.stationHeard t q mac p).rxErr.netCause 10 0) := by
  have h := ((ethArrives_cases hd rfl).2 hnew).2.2 mac p hkind
  rw [if_neg (by rw [hport]; decide), prpSeen_admitted hnew, ← hq] at h
  rw [exec_frameArrives hc, h]
  rfl

end

theorem rxErr_net (s : State) : s.rxErr.net = { s.net with rxErr := min 0xFFFFFFFF (s.net.rxErr + 1) } := rfl

theorem stationFrame_untaken (h : s.pwr.role = .replay ∨ s.pwr.role = .station ∧ frType p ≠ 2 ∧ frType p ≠ 4 ∨ s.pwr.role = .controller ∧ frType p ≠ 1 ∧ frType p ≠ 3) (t : Nat) :
    s.stationFrame t p = s := by
  unfold State.stationFrame
  rcases h with h | ⟨h, h1, h2⟩ | ⟨h, h1, h2⟩ <;> simp [*]

theorem stationFrame_station (hr : s.pwr.role = .station) (ht : frType p = 2 ∨ frType p = 4) (t : Nat) : s.stationFrame t p = s.stationCheck t p := by
  unfold State.stationFrame
  rw [hr]
  exact if_pos ht

/-! ### The checks of a station (09 R286) -/

/-- Does a frame come from one of the station's two controllers? -/
def State.fromController (s : State) (p : List Byte) : Prop := frSrc p = s.inForce 0x1300 1 0xFFFF ∨ frSrc p = s.inForce 0x1300 2 0xFFFF

theorem stationCheck_stranger (h1 : frSrc p ≠ s.inForce 0x1300 1 0xFFFF) (h2 : frSrc p ≠ s.inForce 0x1300 2 0xFFFF) (t : Nat) : s.stationCheck t p = s.rxErr :=
  if_pos ⟨h1, h2⟩

/-- The station after a term that it accepts: a new term is accepted with its node, and buffered frames of lower terms go. -/
def State.termAccepted (s : State) (p : List Byte) : State :=
  if s.net.accNode ≠ 0xFFFF ∧ frTerm p = s.net.accTerm then s
  else s.upNet (fun n => { n with accTerm := frTerm p, accNode := frSrc p, ptpApplied := false, buf := n.buf.filter (fun z => decide (frTerm p ≤ frTerm z)) })

/-- An OUTPUT frame that passes every check is buffered when it is timed and applied when it is not. -/
def State.outputTaken (s : State) (p : List Byte) : State :=
  let u := s.upNet (fun n => { n with lastHold := frHold p })
  if frSync p && s.isLocked then u.upNet (fun n => { n with buf := n.buf ++ [p] }) else u.applyFrames [p]

/-- An OUTPUT frame that comes too late for its launch counts. -/
def State.outputLate (s : State) (p : List Byte) : State := (s.upNet (fun n => { n with rxLate := sat32 n.rxLate })).netCause 7 (frSrc p)

/-- The answer to an OUTPUT frame of an accepted term, by the REASON of the checks. -/
def State.outputAnswered (s : State) (t : Nat) (p : List Byte) : State :=
  if s.outputChecks t p = 0 then (s.outputTaken p).statusSend p 0
  else if s.outputChecks t p = 4 then (s.outputLate p).statusSend p 4
  else s.statusSend p (s.outputChecks t p)

section
variable (hsrc : s.fromController p)
include hsrc

theorem stationCheck_period (hp : frPeriod p ≠ s.clk.p) (t : Nat) : s.stationCheck t p = (s.netCause 9 (frSrc p)).statusSend p 3 := by
  unfold State.stationCheck
  rw [if_neg (not_and_or.mpr (hsrc.imp not_not_intro not_not_intro)), if_pos hp]

variable (hp : frPeriod p = s.clk.p)
include hp

/-- A term below the accepted one, or the accepted one of another node, is rejected and counted. -/
theorem stationCheck_rejected (ha : s.net.accNode ≠ 0xFFFF) (h : frTerm p < s.net.accTerm ∧ r = 1 ∨ frTerm p = s.net.accTerm ∧ frSrc p ≠ s.net.accNode ∧ r = 2) (t : Nat) :
    s.stationCheck t p = ((s.upNet (fun n => { n with termReject := sat32 n.termReject })).netCause 8 (frSrc p)).statusSend p r := by
  unfold State.stationCheck
  rw [if_neg (not_and_or.mpr (hsrc.imp not_not_intro not_not_intro)), if_neg (not_not_intro hp)]
  dsimp only
  rcases h with ⟨hlow, rfl⟩ | ⟨hsame, hnode, rfl⟩
  · rw [if_pos (by simp [ha, hlow])]
  · rw [if_neg (by simp [hsame]), if_pos (by simp [ha, hsame, hnode])]

/-- The first term, a higher one, or the accepted one of its node passes. -/
theorem stationCheck_accepted (h : s.net.accNode = 0xFFFF ∨ s.net.accTerm < frTerm p ∨ s.net.accTerm = frTerm p ∧ frSrc p = s.net.accNode) (t : Nat) :
    s.stationCheck t p = if frType p = 4 then (s.termAccepted p).statusSend p 0 else (s.termAccepted p).outputAnswered t p := by
  unfold State.stationCheck
  rw [if_neg (not_and_or.mpr (hsrc.imp not_not_intro not_not_intro)), if_neg (not_not_intro hp)]
  dsimp only
  have hlow : ¬ (s.net.accNode ≠ 0xFFFF ∧ frTerm p < s.net.accTerm) := by omega
  have hnode : ¬ ((s.net.accNode ≠ 0xFFFF ∧ frTerm p = s.net.accTerm) ∧ frSrc p ≠ s.net.accNode) := by omega
  rw [if_neg (by simpa using hlow), if_neg (by simpa using hnode)]
  have hterm : (if (decide (s.net.accNode ≠ 0xFFFF) && decide (frTerm p = s.net.accTerm)) = true then s
      else s.upNet (fun n => { n with accTerm := frTerm p, accNode := frSrc p, ptpApplied := false, buf := n.buf.filter (fun z => decide (frTerm p ≤ frTerm z)) })) = s.termAccepted p := by
    simp only [Bool.and_eq_true, decide_eq_true_eq]
    rfl
  rw [hterm]
  rfl

end

theorem termAccepted_keep {L : Parts} {o : State} (h : Keep L o s) (p : List Byte) (hnet : L.net = true := by rfl) : Keep L o (s.termAccepted p) := by
  unfold State.termAccepted
  split
  · exact h
  · exact h.upNet _

@[simp] theorem termAccepted_clk (s : State) (p : List Byte) : (s.termAccepted p).clk = s.clk := (termAccepted_keep (L := { net := true }) (Keep.refl s) p).frame.clk rfl

/-- The REASON of an OUTPUT frame, by the checks in their order. -/
theorem outputChecks_eq (s : State) (t : Nat) (p : List Byte) : s.outputChecks t p =
    if frPtp p = false ∧ s.net.ptpApplied = true then 5
    else if s.net.obsolete p = true then 5
    else if (frSync p && s.isLocked) = true ∧ frLaunch p < s.ptpAt t + 2000 then 4
    else if (frSync p && s.isLocked) = true ∧ s.ptpAt t + 10000000000 + 1000 * s.clk.p < frLaunch p then 6
    else if 64 ≤ s.net.buf.length then 7 else 0 := by
  unfold State.outputChecks
  simp only [Bool.and_eq_true, Bool.not_eq_true', decide_eq_true_eq]

section
variable {v : State} (hexec : exec c s = commit s (v.outputAnswered t p)) (hk : Keep { clk := true, net := true, evr := true } s v)
include hexec hk

theorem output_buffered (hr : v.outputChecks t p = 0) (htimed : (frSync p && v.isLocked) = true) : ∃ u, exec c s = .next u ∧
    u.net = ((v.upNet (fun n => { n with lastHold := frHold p, buf := n.buf ++ [p] })).statusSend p 0).net ∧ Frame { clk := true, net := true, evr := true } s u := by
  unfold State.outputAnswered State.outputTaken at hexec
  dsimp only at hexec
  rw [if_pos hr, if_pos htimed] at hexec
  exact answer_keep hexec (State.statusSend_keep (hk.upNet _) p 0)

/-- A frame that is not timed applies at once, and its STATUS leaves the stores and the outputs as it made them. -/
theorem output_applied (hr : v.outputChecks t p = 0) (htimed : (frSync p && v.isLocked) = false) : ∃ u, exec c s = .next u ∧
    u.net = (((v.upNet (fun n => { n with lastHold := frHold p })).applyFrames [p]).statusSend p 0).net ∧
    u.sto = ((v.upNet (fun n => { n with lastHold := frHold p })).applyFrames [p]).sto ∧ u.fio = ((v.upNet (fun n => { n with lastHold := frHold p })).applyFrames [p]).fio ∧
    Frame { clk := true, sto := true, fio := true, net := true, evr := true } s u := by
  unfold State.outputAnswered State.outputTaken at hexec
  dsimp only at hexec
  rw [if_pos hr, if_neg (by rw [htimed]; decide)] at hexec
  obtain ⟨a, ha⟩ : ∃ a, a = (v.upNet (fun n => { n with lastHold := frHold p })).applyFrames [p] := ⟨_, rfl⟩
  have hv : Keep { clk := true, sto := true, fio := true, net := true, evr := true } s v := hk.widen
  have hka : Keep { clk := true, sto := true, fio := true, net := true, evr := true } s a := ha ▸ State.applyFrames_keep (hv.upNet _) _
  have hstatus : Keep { net := true, evr := true } a (a.statusSend p 0) := State.statusSend_keep (Keep.refl a) p 0
  rw [← ha] at hexec ⊢
  refine ⟨_, hexec, countEdges_net .., ?_, ?_, (State.statusSend_keep hka p 0).frame.countEdges s⟩
  · rw [countEdges_sto]; exact hstatus.frame.sto rfl
  · rw [countEdges_fio]; exact hstatus.frame.fio rfl

theorem output_late (hr : v.outputChecks t p = 4) : ∃ u, exec c s = .next u ∧
    u.net = (((v.upNet (fun n => { n with rxLate := min 0xFFFFFFFF (n.rxLate + 1) })).netCause 7 (frSrc p)).statusSend p 4).net ∧ Frame { clk := true, net := true, evr := true } s u := by
  unfold State.outputAnswered at hexec
  rw [if_neg (by omega), if_pos hr] at hexec
  exact answer_keep hexec (State.statusSend_keep (State.netCause_keep (hk.upNet _) _ _) p 4)

theorem output_refused (hr : v.outputChecks t p = r) (h : r = 5 ∨ r = 6 ∨ r = 7) : ∃ u, exec c s = .next u ∧
    u.net = (v.statusSend p r).net ∧ Frame { clk := true, net := true, evr := true } s u := by
  unfold State.outputAnswered at hexec
  rw [if_neg (by omega), if_neg (by omega), hr] at hexec
  exact answer_keep hexec (State.statusSend_keep hk p r)

end

/-! ### The statement -/

/-- Settles O19: a frame is sorted at its port, and the state in which a station frame finds the unit goes through the checks of its type. -/
theorem stationFramesAreCheckedAndAnswered : Obligations.StationFramesAreCheckedAndAnswered := by
  intro s c port t0 r f mac p u w v timed hc hd hu
  obtain ⟨-, -, -, houtside⟩ := prpSeen_net (s.reach t0) port f
  refine ⟨fun h => congrArg Prod.fst (houtside h), fun h => hu ▸ duplicate_discarded hc hd h, fun hnew => ?_, fun x => ⟨statusSend_left x p r, fun hq => queueFrame_toControllers hq _⟩⟩
  obtain ⟨q, hq⟩ : ∃ q, q = ((s.reach t0).prpSeen port f).2.net.seen := ⟨_, rfl⟩
  have hadm : u = s.admitted t0 q := by rw [hu, hq]; exact prpSeen_admitted hnew
  obtain ⟨hother, hhsr, hclosed⟩ := exec_noStationFrame hc hd hnew hq (mac := mac) (p := p)
  subst hadm
  have hk : Keep { clk := true, net := true } s (s.admitted t0 q) := admitted_keep s t0 q
  refine ⟨rfl, fun hkind => answer_keep (hother hkind) hk, fun hkind => answer_keep (hhsr hkind) (State.rxErr_keep hk), fun hkind hport => answer_keep (hclosed hkind hport) hk, fun hkind hport hw => ?_⟩
  obtain rfl : w = s.stationHeard t0 q mac p := hw
  have hexec := exec_stationFrame hc hd hnew hq hkind hport
  have hw : Keep { clk := true, net := true, evr := true } s (s.stationHeard t0 q mac p) := stationHeard_keep s t0 q mac p
  refine ⟨stationHeard_net .., fun hbad => ?_, fun hgood => ?_⟩
  · -- a frame that fails R279
    rw [hbad, if_neg (by decide)] at hexec
    obtain ⟨x, hx, hnet, hframe⟩ := answer_keep hexec (State.netCause_keep (State.rxErr_keep hw) 10 0)
    exact ⟨x, hx, hnet.trans ((State.netCause_net ..).trans (by simp [rxErr_net])), hframe⟩
  rw [if_pos hgood] at hexec
  refine ⟨fun h => ?_, fun hrole htype => ?_⟩
  · -- a type that the role does not take
    rw [stationFrame_untaken (by simpa using h)] at hexec
    exact ⟨_, hexec, countEdges_net .., countEdges_evr .., hw.frame.countEdges s⟩
  rw [stationFrame_station (by simpa using hrole) htype] at hexec
  refine ⟨fun h1 h2 => ?_, fun hsrc => ?_⟩
  · -- a sender that is not configured
    rw [stationCheck_stranger (by simpa using h1) (by simpa using h2)] at hexec
    obtain ⟨x, hx, hnet, hframe⟩ := answer_keep hexec (State.rxErr_keep hw)
    exact ⟨x, hx, hnet.trans (by simp [rxErr_net]), hframe⟩
  have hfrom : (s.stationHeard t0 q mac p).fromController p := by simpa [State.fromController] using hsrc
  refine ⟨fun hp => ?_, fun hp => ⟨fun ha h => ?_, fun ha htimed hv => ?_⟩⟩
  · -- another period
    rw [stationCheck_period hfrom (by simpa using hp)] at hexec
    exact answer_keep hexec (State.statusSend_keep (State.netCause_keep hw _ _) p 3)
  · -- a term that is not accepted
    rw [stationCheck_rejected hfrom (by simpa using hp) (by simpa using ha) (by simpa using h)] at hexec
    exact answer_keep hexec (State.statusSend_keep (State.netCause_keep (hw.upNet _) _ _) p r)
  · -- an accepted term
    rw [stationCheck_accepted hfrom (by simpa using hp) (by simpa using ha)] at hexec
    obtain rfl : v = (s.stationHeard t0 q mac p).termAccepted p := by
      rw [hv]
      unfold State.termAccepted
      rw [stationHeard_accNode, stationHeard_accTerm]
    have hk := termAccepted_keep hw p
    refine ⟨fun h4 => ?_, fun h2 hr => ?_⟩
    · rw [if_pos h4] at hexec
      exact answer_keep hexec (State.statusSend_keep hk p 0)
    · rw [if_neg (by omega)] at hexec
      have hperiod : s.clk.p = ((s.stationHeard t0 q mac p).termAccepted p).clk.p := by simp
      have hlock : timed = (frSync p && ((s.stationHeard t0 q mac p).termAccepted p).isLocked) := by rw [htimed]; unfold State.isLocked; simp
      rw [hperiod, hlock, ← outputChecks_eq] at hr
      exact ⟨fun h0 ht => output_buffered hexec hk (hr.symm.trans h0) (hlock ▸ ht), fun h0 ht => output_applied hexec hk (hr.symm.trans h0) (hlock ▸ ht),
        fun h => output_late hexec hk (hr.symm.trans h), output_refused hexec hk hr.symm⟩

end Sys2Proof.Machine
end

section
/-! PROOFS. Station frames that a module sends (09 R276, R277, R281, R284, R285), its links and pairs (09 R268, R269), and its answers to ARP and ICMP echo (11 R342). The trailer of PRP rests on log 26, the line that a queued frame waits for on log 43. -/

set_option Elab.async false

namespace Sys2Proof.Machine

open Sys2Proof

variable {s : State} {t t1 i l port pair : Nat} {ports : List Nat} {b f : List Byte}

/-! ### The instant of the first boundary (09 R281, R284) -/

/-- A boundary that is due before the first changes the clock block, and of it the instant alone. -/
theorem firstDue_eq (s : State) (t : Nat) : s.firstDue t = s.upClk (fun k => { k with firstAt := if k.running then k.firstAt else t }) := by
  unfold State.firstDue
  split
  · next h =>
    show s = { s with clk := { s.clk with firstAt := if s.clk.running then s.clk.firstAt else t } }
    rw [if_pos h]
  · next h =>
    show _ = { s with clk := { s.clk with firstAt := if s.clk.running then s.clk.firstAt else t } }
    rw [if_neg h]
    rfl

/-- The state in which a module that its clock has brought to `t` sends its frames, a first boundary being due at `t1`. -/
def State.dueAt (s : State) (t t1 : Nat) : State := s.upClk (fun k => { k with now := max k.now t, firstAt := if k.running then k.firstAt else t1 })

theorem reach_firstDue (s : State) (t t1 : Nat) : (s.reach t).firstDue t1 = s.dueAt t t1 := firstDue_eq ..

theorem dueAt_keep {L : Parts} (s : State) (t t1 : Nat) (hclk : L.clk = true := by rfl) : Keep L s (s.dueAt t t1) := (Keep.refl s).upClk _

/-- A command that sends frames from `a`, a state that differs from `s` in the clock block and the network block. -/
theorem answer_sendsFrom {c : Instr} {a u : State} (h : exec c s = commit s u) (hs : Keep { clk := true, net := true, evr := true } s a) (hu : Keep { net := true, evr := true } a u) :
    exec c s = .next (countEdges s u) ∧ Frame { clk := true, net := true, evr := true } s (countEdges s u) ∧ (countEdges s u).clk = a.clk :=
  ⟨h, (hs.frame.comp hu.frame rfl rfl).countEdges s, hu.frame.clk rfl⟩

/-! ### STATION_INPUT_SEND (09 R276, R281) -/

theorem exec_stationInputSend (hr : s.pwr.role = .station) (hs : s.pwr.started = true) (hd : s.domainOn 7 = true) (t : Nat) :
    exec (.stationInputSend t) s = commit s ((s.dueAt t (t + 1000 * s.clk.adv)).inputSend s.comingBeat) := by
  show commit s (if s.pwr.role = .station ∧ s.pwr.started = true ∧ s.domainOn 7 = true then ((s.reach t).firstDue (t + 1000 * s.clk.adv)).inputSend ((s.reach t).firstDue (t + 1000 * s.clk.adv)).comingBeat else _) = _
  rw [if_pos ⟨hr, hs, hd⟩, reach_firstDue]
  rfl

theorem exec_stationInputSend_idle (h : s.pwr.role ≠ .station ∨ s.pwr.started = false ∨ s.domainOn 7 = false) (t : Nat) :
    exec (.stationInputSend t) s = commit s (s.reach t) := by
  show commit s (if s.pwr.role = .station ∧ s.pwr.started = true ∧ s.domainOn 7 = true then _ else _) = _
  rw [if_neg]
  rintro ⟨hr, hs, hd⟩
  simp [hr, hs, hd] at h

/-! ### OUTPUT frames to one station (09 R277, R284) -/

/-- An OUTPUT frame queued with nothing before it and not late leaves its open ports and is awaited. -/
theorem queueOutput_sent {task beat : Nat} {pl : List Byte} (hq : s.net.txq = []) (hi : i < 256) (hl : s.ptpAt s.clk.now < l)
    (hb : b = s.stFrame 2 (s.slotNode i) s.csw.term beat l (s.frameFlags + 4 * bit (s.slot i).rejoin) task pl)
    (hp : ports = s.openPorts { slot := i, bytes := b, launch := some l, sentAt := 0, retried := false }) :
    (s.queueOutput i task beat l pl).net.sent = (ports.reverse.map (fun q => Sent.eth q (s.ethOctets (s.slotCfg i 2 0) (s.frameMac i) b q))) ++ s.net.sent ∧
    (s.queueOutput i task beat l pl).net.unacked =
      s.net.unacked ++ (if ports = [] then [] else [{ slot := i, bytes := b, launch := some l, sentAt := s.leavesAt (ports.headD 0), retried := false }]) := by
  have hport : s.framePort i = s.slotCfg i 2 0 := if_pos hi
  obtain ⟨u, hu⟩ : ∃ u, u = s.upSlot i (fun x => { x with sentFor := insertNat l x.sentFor }) := ⟨_, rfl⟩
  have hout : s.queueOutput i task beat l pl = u.queueFrame i (some l) false b := by rw [hu, hb]; rfl
  obtain ⟨hsent, -, hunacked⟩ := queueFrame_sent u i (some l) false b (by rw [hu]; exact hq) (by rw [hu]; rintro _ ⟨⟩; exact hl) (ports := ports) (by rw [hp, hu]; rfl)
  rw [hout, ← hport]
  refine ⟨hsent.trans (by rw [hu]; rfl), hunacked.trans ?_⟩
  rw [hu]
  by_cases hn : ports = []
  · rw [if_neg (by simp [hn]), if_pos hn]
    rfl
  · rw [if_pos ⟨hn, hi, rfl⟩, if_neg hn]
    rfl

theorem usedSlots_lt {k : Nat} (h : k ∈ s.usedSlots) : k < 256 := by
  unfold State.usedSlots at h
  simp at h
  exact h.1

/-! ### KEEP_ALIVE_SEND (09 R284) -/

theorem exec_keepAliveSend (hx : s.executes = true) (hs : s.pwr.started = true) (hr : s.pwr.role = .controller) (hd : s.domainOn 7 = true) (t : Nat) :
    exec (.keepAliveSend t) s = commit s ((s.dueAt t (t + 1000 * s.clk.lead)).keepAlives s.comingBeat) := by
  show commit s (if s.executes = true ∧ s.pwr.started = true ∧ s.pwr.role = .controller ∧ s.domainOn 7 = true then ((s.reach t).firstDue (t + 1000 * s.clk.lead)).keepAlives ((s.reach t).firstDue (t + 1000 * s.clk.lead)).comingBeat else _) = _
  rw [if_pos ⟨hx, hs, hr, hd⟩, reach_firstDue]
  rfl

theorem exec_keepAliveSend_idle (h : s.executes = false ∨ s.pwr.started = false ∨ s.pwr.role ≠ .controller ∨ s.domainOn 7 = false) (t : Nat) :
    exec (.keepAliveSend t) s = commit s (s.reach t) := by
  show commit s (if s.executes = true ∧ s.pwr.started = true ∧ s.pwr.role = .controller ∧ s.domainOn 7 = true then _ else _) = _
  rw [if_neg]
  rintro ⟨hx, hs, hr, hd⟩
  simp [hx, hs, hr, hd] at h

/-- Keep-alives enter the launch in the record of every slot in use, and change no slot that has it or is not in use. -/
theorem keepAlives_slots (s : State) (m : Nat) :
    (s.keepAlives m).net.stillS = s.net.stillS ∧ (∀ k, k ∈ s.usedSlots → s.beatNs m ∈ ((s.keepAlives m).slot k).sentFor) ∧
    (∀ k, k ∉ s.usedSlots ∨ s.beatNs m ∈ (s.slot k).sentFor → (s.keepAlives m).slot k = s.slot k) := by
  obtain ⟨hstill, hentered, hkept, hothers⟩ := foldl_queueOutput 0xFF m (s.beatNs m) (zeros 8) (s.usedSlots.filter (fun k => !(s.slot k).sentFor.contains (s.beatNs m))) s
    (fun k hk => usedSlots_lt (List.mem_of_mem_filter hk))
  refine ⟨hstill, fun k hk => ?_, fun k hk => hothers k fun hmem => ?_⟩
  · by_cases hsent : s.beatNs m ∈ (s.slot k).sentFor
    · exact hkept k hsent
    · exact hentered k (List.mem_filter.mpr ⟨hk, by simp [hsent]⟩)
  · obtain ⟨hused, hnew⟩ := List.mem_filter.mp hmem
    rcases hk with hk | hk
    · exact hk hused
    · simp [hk] at hnew

theorem keepAlives_one {m : Nat} (hu : s.usedSlots = [i]) (hn : s.beatNs m ∉ (s.slot i).sentFor) : s.keepAlives m = s.queueOutput i 0xFF m (s.beatNs m) (zeros 8) := by
  have hfilter : s.usedSlots.filter (fun k => !(s.slot k).sentFor.contains (s.beatNs m)) = [i] := by rw [hu]; simp [hn]
  unfold State.keepAlives
  dsimp only
  rw [hfilter]
  rfl

/-! ### WARM_START_FRAMES (09 R284) -/

/-- The frames of one task's durable output set, for the task's first release. -/
def State.warmTask (s : State) (r : TaskRow) : State :=
  let o := s.outsOf r.task s.sto.lmem
  (s.usedSlots.filter (fun k => s.slotTouched k o)).foldl (fun a k => a.queueOutput k r.task r.phase (a.beatNs r.phase) (a.outPayload k o)) s

theorem warmTask_keep {L : Parts} {o : State} (h : Keep L o s) (r : TaskRow) (hnet : L.net = true := by rfl) (hevr : L.evr = true := by rfl) : Keep L o (s.warmTask r) :=
  Keep.foldl (fun _ _ hk => State.queueOutput_keep hk _ _ _ _ _) _ h

/-- The tasks whose durable output set goes out. -/
def State.warmRows (s : State) (im : Image) : List TaskRow := (im.table s.sto.tableReduced).filter (fun q => (s.task q.task).outRun)

theorem exec_warmStartFrames {im : Image} (hx : s.executes = true) (hn : s.clk.running = false) (hr : s.pwr.role = .controller) (hd : s.domainOn 7 = true) (him : s.ldr.img = some im) (t : Nat) :
    exec (.warmStartFrames t) s = commit s ((s.warmRows im).foldl State.warmTask (s.dueAt t (t + 1000 * s.clk.lead))) := by
  have hrun : (!s.clk.running) = true := by rw [hn]; rfl
  have hcond : (s.reach t).executes = true ∧ (!(s.reach t).clk.running) = true ∧ (s.reach t).pwr.role = .controller ∧ (s.reach t).domainOn 7 = true := ⟨hx, hrun, hr, hd⟩
  have himg : (s.reach t).ldr.img = some im := him
  show execWarmStartFrames t s = _
  unfold execWarmStartFrames
  dsimp only
  rw [if_pos hcond, himg]
  dsimp only
  rw [show (s.reach t).clk.lead = s.clk.lead from rfl, reach_firstDue]
  rfl

theorem exec_warmStartFrames_idle (h : s.executes = false ∨ s.clk.running = true ∨ s.pwr.role ≠ .controller ∨ s.domainOn 7 = false ∨ s.ldr.img = none) (t : Nat) :
    exec (.warmStartFrames t) s = commit s (s.reach t) := by
  show execWarmStartFrames t s = _
  unfold execWarmStartFrames
  dsimp only
  split
  · next hc =>
    obtain ⟨hx, hn, hr, hd⟩ := hc
    have himg : (s.reach t).ldr.img = none := by
      rcases h with h | h | h | h | h
      · exact absurd (hx.symm.trans h) (by decide)
      · simp [h] at hn
      · exact absurd hr h
      · exact absurd (hd.symm.trans h) (by decide)
      · exact h
    rw [himg]
  · rfl

theorem warmTask_one {r : TaskRow} (h : s.usedSlots.filter (fun k => s.slotTouched k (s.outsOf r.task s.sto.lmem)) = [i]) :
    s.warmTask r = s.queueOutput i r.task r.phase (s.beatNs r.phase) (s.outPayload i (s.outsOf r.task s.sto.lmem)) := by
  unfold State.warmTask
  dsimp only
  rw [h]
  rfl

/-! ### ACK_WAIT_EXPIRY (09 R285) -/

/-- A frame that no STATUS has answered is sent once more: a claim as it is, an OUTPUT frame with RETRY, and only if its launch lies at least 20 µs after `t`. -/
def State.repeatFrame (t : Nat) (s : State) (x : TxFrame) : State :=
  match x.launch with
  | none => s.queueFrame x.slot none true x.bytes
  | some l =>
    if s.ptpAt t + 20000 ≤ l then s.queueFrame x.slot (some l) true (patch x.bytes 28 (leBytes 1 (frFlags x.bytes + (if frRetry x.bytes then 0 else 8))))
    else s

variable {x : TxFrame}

theorem repeatFrame_claim (h : x.launch = none) (s : State) (t : Nat) : s.repeatFrame t x = s.queueFrame x.slot none true x.bytes := by
  unfold State.repeatFrame
  rw [h]

theorem repeatFrame_output (h : x.launch = some l) (hl : s.ptpAt t + 20000 ≤ l) :
    s.repeatFrame t x = s.queueFrame x.slot (some l) true (patch x.bytes 28 (leBytes 1 (frFlags x.bytes + (if frRetry x.bytes then 0 else 8)))) := by
  unfold State.repeatFrame
  rw [h]
  exact if_pos hl

theorem repeatFrame_tooLate (h : x.launch = some l) (hl : l < s.ptpAt t + 20000) : s.repeatFrame t x = s := by
  unfold State.repeatFrame
  rw [h]
  exact if_neg (by omega)

/-- A frame sent again is queued as one, or nothing happens. -/
theorem repeatFrame_cases (s : State) (t : Nat) (x : TxFrame) : s.repeatFrame t x = s ∨ ∃ y b, s.repeatFrame t x = s.queueFrame x.slot y true b := by
  cases hx : x.launch with
  | none => exact .inr ⟨_, _, repeatFrame_claim hx s t⟩
  | some l =>
    by_cases hl : s.ptpAt t + 20000 ≤ l
    · exact .inr ⟨_, _, repeatFrame_output hx hl⟩
    · exact .inl (repeatFrame_tooLate hx (by omega))

theorem repeatFrame_still (s : State) (t : Nat) (x : TxFrame) : (s.repeatFrame t x).net.still = s.net.still := by
  rcases repeatFrame_cases s t x with h | ⟨y, b, h⟩
  · rw [h]
  · rw [h, queueFrame_still]

theorem repeatFrame_keep {L : Parts} {o : State} (h : Keep L o s) (t : Nat) (x : TxFrame) (hnet : L.net = true := by rfl) (hevr : L.evr = true := by rfl) : Keep L o (s.repeatFrame t x) := by
  rcases repeatFrame_cases s t x with e | ⟨y, b, e⟩
  · rwa [e]
  · rw [e]
    exact State.queueFrame_keep h _ _ _ _

/-- Frames sent again, with none but such frames queued, enter no wait for an answer. -/
theorem foldl_repeatFrame_unacked (t : Nat) : ∀ (l : List TxFrame) {s : State}, (∀ y ∈ s.net.txq, y.retried = true) → (l.foldl (State.repeatFrame t) s).net.unacked = s.net.unacked
  | [], _, _ => rfl
  | x :: l, s, h => by
    have hone : (s.repeatFrame t x).net.unacked = s.net.unacked ∧ ∀ y ∈ (s.repeatFrame t x).net.txq, y.retried = true := by
      rcases repeatFrame_cases s t x with e | ⟨y, b, e⟩
      · rw [e]
        exact ⟨rfl, h⟩
      · rw [e]
        exact queueFrame_retried s x.slot y b h
    rw [List.foldl_cons, foldl_repeatFrame_unacked t l hone.2, hone.1]

/-- A claim leaves again as it is, an OUTPUT frame with RETRY while its launch is at least 20 µs off. -/
theorem repeatFrame_sent (hq : s.net.txq = []) (hp : ports = s.openPorts { slot := x.slot, bytes := b, launch := x.launch, sentAt := 0, retried := true })
    (h : x.launch = none ∧ b = x.bytes ∨ x.launch = some l ∧ s.ptpAt t + 20000 ≤ l ∧ s.ptpAt s.clk.now < l ∧ b = patch x.bytes 28 (leBytes 1 (frFlags x.bytes + (if frRetry x.bytes then 0 else 8)))) :
    (s.repeatFrame t x).net.sent = (ports.reverse.map (fun q => Sent.eth q (s.ethOctets (s.framePort x.slot) (s.frameMac x.slot) b q))) ++ s.net.sent := by
  rcases h with ⟨hx, rfl⟩ | ⟨hx, hsoon, hlate, rfl⟩
  · rw [hx] at hp
    rw [repeatFrame_claim hx]
    exact (queueFrame_sent s x.slot none true _ hq (fun _ hl => nomatch hl) hp.symm).1
  · rw [hx] at hp
    rw [repeatFrame_output hx hsoon]
    exact (queueFrame_sent s x.slot (some l) true _ hq (fun _ hl => Option.some.inj hl ▸ hlate) hp.symm).1

/-- A frame is unanswered for ACK_WAIT at `t`. -/
def State.waitedOut (s : State) (t : Nat) (x : TxFrame) : Bool := decide (x.sentAt + 1000 * s.inForce 0x1100 5 100 ≤ t)

/-- The waits that are over at `t` end. -/
def State.waitsEnded (s : State) (t : Nat) : State := (s.reach t).upNet (fun n => { n with unacked := n.unacked.filter (fun x => !s.waitedOut t x) })

theorem waitsEnded_keep {L : Parts} (s : State) (t : Nat) (hclk : L.clk = true := by rfl) (hnet : L.net = true := by rfl) : Keep L s (s.waitsEnded t) :=
  (State.reach_keep (Keep.refl s) t).upNet _

/-- ACK_WAIT has passed: the waits that are over end, and a unit that governs sends their frames again. -/
def State.afterAckWait (s : State) (t : Nat) : State :=
  if s.governs then (s.net.unacked.filter (s.waitedOut t)).foldl (State.repeatFrame t) (s.waitsEnded t) else s.waitsEnded t

theorem afterAckWait_keep (s : State) (t : Nat) : Keep { net := true, evr := true } (s.waitsEnded t) (s.afterAckWait t) := by
  unfold State.afterAckWait
  split
  · exact Keep.foldl (fun _ x h => repeatFrame_keep h t x) _ (Keep.refl _)
  · exact Keep.refl _

/-- Frames sent again move what sending moves, and enter no wait for an answer. -/
theorem afterAckWait_net (s : State) (t : Nat) : (s.afterAckWait t).net.still = s.net.still ∧
    (s.net.txq = [] → (s.afterAckWait t).net.unacked = s.net.unacked.filter (fun x => !s.waitedOut t x)) := by
  unfold State.afterAckWait
  split
  · exact ⟨foldl_still (fun u x => repeatFrame_still u t x) _ _, fun hq => foldl_repeatFrame_unacked t _ (fun y hy => absurd (hq ▸ hy) List.not_mem_nil)⟩
  · exact ⟨rfl, fun _ => rfl⟩

theorem afterAckWait_idle (hg : s.governs = false) (t : Nat) : s.afterAckWait t = s.waitsEnded t := by
  unfold State.afterAckWait
  rw [if_neg (by rw [hg]; decide)]

theorem afterAckWait_one (hg : s.governs = true) (h : s.net.unacked.filter (s.waitedOut t) = [x]) : s.afterAckWait t = (s.waitsEnded t).repeatFrame t x := by
  unfold State.afterAckWait
  rw [if_pos hg, h]
  rfl

theorem exec_ackWaitExpiry (s : State) (t : Nat) : exec (.ackWaitExpiry t) s = commit s (s.afterAckWait t) := by
  show commit s (if (!s.governs) = true then s.waitsEnded t else (s.net.unacked.filter (s.waitedOut t)).foldl (State.repeatFrame t) (s.waitsEnded t)) = _
  unfold State.afterAckWait
  cases s.governs <;> rfl

/-! ### TX_LATE_DROP (09 R284, R293) -/

theorem lateAt_eq_any (n : Nat) (x : TxFrame) : lateAt n x = x.launch.any (fun l => decide (l ≤ n)) := by
  unfold lateAt
  cases x.launch <;> rfl

/-! ### Links and pairs (09 R268, R269) -/

/-- A port goes up or down: its link bit, its cause, and the degradation of its pair. -/
def State.linkMoved (s : State) (port : Nat) (up : Bool) : State :=
  let u := (s.upNet (fun n => { n with link := bvBit n.link port up })).netCause 0 port
  if port < 4 then u.prpCheck (port / 2) else u

theorem exec_ethLinkChange {up : Bool} (hd : s.domainOn 7 = true) (hp : port < 6) (hl : s.net.link.getLsbD port = !up) :
    exec (.ethLinkChange port up) s = commit s (s.linkMoved port up).drain := by
  show commit s (if (!s.domainOn 7) = true ∨ 6 ≤ port ∨ s.net.link.getLsbD port = up then s else (s.linkMoved port up).drain) = _
  rw [if_neg]
  rintro (h | h | h)
  · simp [hd] at h
  · omega
  · rw [hl] at h
    cases up <;> cases h

theorem exec_ethLinkChange_idle {up : Bool} (h : s.domainOn 7 = false ∨ 6 ≤ port ∨ s.net.link.getLsbD port = up) : exec (.ethLinkChange port up) s = .next s := by
  show commit s (if (!s.domainOn 7) = true ∨ 6 ≤ port ∨ s.net.link.getLsbD port = up then s else _) = _
  rw [if_pos (by simpa using h), commit_self]

/-- The degraded bit of a pair follows its links, and its cause bit is set where the pair becomes degraded. -/
theorem prpCheck_net (s : State) (k : Nat) : (s.prpCheck k).net = { s.net with
    prpDeg := bvBit s.net.prpDeg k (s.prpOn k && degraded s.net.link k)
    cause := if s.prpOn k = true ∧ degraded s.net.link k = true ∧ s.net.prpDeg.getLsbD k = false then setBit s.net.cause 1 true else s.net.cause } := by
  unfold State.prpCheck
  dsimp only
  split
  · next h =>
    rw [State.netCause_net, if_pos (by simpa [and_assoc] using h)]
    rfl
  · next h =>
    rw [if_neg (by simpa [and_assoc] using h)]
    rfl

theorem linkMoved_pair (h : port < 4) (up : Bool) : (s.linkMoved port up).net = { s.net with
    link := bvBit s.net.link port up
    prpDeg := bvBit s.net.prpDeg (port / 2) (s.prpOn (port / 2) && degraded (bvBit s.net.link port up) (port / 2))
    cause := if s.prpOn (port / 2) = true ∧ degraded (bvBit s.net.link port up) (port / 2) = true ∧ s.net.prpDeg.getLsbD (port / 2) = false then setBit (setBit s.net.cause 0 true) 1 true else setBit s.net.cause 0 true } := by
  have hon : ((s.upNet (fun n => { n with link := bvBit n.link port up })).netCause 0 port).prpOn (port / 2) = s.prpOn (port / 2) := by
    unfold State.prpOn State.inForce
    rw [State.netCause_dict]
    rfl
  unfold State.linkMoved
  dsimp only
  rw [if_pos h, prpCheck_net, hon, State.netCause_net]
  rfl

theorem linkMoved_single (h : 4 ≤ port) (up : Bool) : (s.linkMoved port up).net = { s.net with link := bvBit s.net.link port up, cause := setBit s.net.cause 0 true } := by
  unfold State.linkMoved
  dsimp only
  rw [if_neg (by omega), State.netCause_net]
  rfl

/-- Sending leaves the links and the degradation of the pairs. -/
theorem Net.links_of_still {n m : Net} (h : m.still = n.still) : m.link = n.link ∧ m.prpDeg = n.prpDeg := by
  rw [Net.still_eq h]
  exact ⟨rfl, rfl⟩

theorem linkMoved_keep {L : Parts} (s : State) (port : Nat) (up : Bool) (hnet : L.net = true := by rfl) (hevr : L.evr = true := by rfl) : Keep L s (s.linkMoved port up) := by
  have hu : Keep L s ((s.upNet (fun n => { n with link := bvBit n.link port up })).netCause 0 port) := State.netCause_keep ((Keep.refl s).upNet _) _ _
  unfold State.linkMoved
  dsimp only
  split
  · exact State.prpCheck_keep hu _
  · exact hu

/-- What a link change leaves once the queued frames that it frees have left. -/
theorem linkMoved_drain (s : State) (port : Nat) (up : Bool) : (s.linkMoved port up).drain.net.link = bvBit s.net.link port up ∧
    (4 ≤ port → (s.linkMoved port up).drain.net.prpDeg = s.net.prpDeg) ∧
    (port < 4 → (s.linkMoved port up).drain.net.prpDeg = bvBit s.net.prpDeg (port / 2) (s.prpOn (port / 2) && degraded (bvBit s.net.link port up) (port / 2))) ∧
    (s.net.txq = [] → (s.linkMoved port up).drain.net.sent = s.net.sent ∧ (s.linkMoved port up).drain.net.cause =
      if port < 4 ∧ s.prpOn (port / 2) = true ∧ degraded (bvBit s.net.link port up) (port / 2) = true ∧ s.net.prpDeg.getLsbD (port / 2) = false then setBit (setBit s.net.cause 0 true) 1 true else setBit s.net.cause 0 true) := by
  obtain ⟨hlink, hdeg⟩ := Net.links_of_still (drain_still (s.linkMoved port up))
  rw [hlink, hdeg]
  by_cases hp : port < 4
  · have hmoved := linkMoved_pair (s := s) hp up
    rw [hmoved]
    refine ⟨rfl, fun h => absurd hp (by omega), fun _ => rfl, fun hq => ?_⟩
    rw [drain_none _ (by rw [hmoved]; exact hq), hmoved]
    exact ⟨rfl, if_congr (by simp [hp]) rfl rfl⟩
  · have hmoved := linkMoved_single (s := s) (Nat.not_lt.mp hp) up
    rw [hmoved]
    refine ⟨rfl, fun _ => rfl, fun h => absurd h hp, fun hq => ?_⟩
    rw [drain_none _ (by rw [hmoved]; exact hq), hmoved, if_neg (fun h => hp h.1)]
    exact ⟨rfl, rfl⟩

/-- Frames on those of a list of ports that are up. -/
theorem foldl_sendUp (g : Nat → Sent) : ∀ (l : List Nat) (s : State),
    l.foldl (fun acc k => if acc.net.link.getLsbD k then acc.send (g k) else acc) s = s.upNet (fun n => { n with sent := ((l.filter (fun k => s.net.link.getLsbD k)).reverse.map g) ++ n.sent })
  | [], _ => rfl
  | k :: l, s => by
    rw [List.foldl_cons, foldl_sendUp g l]
    cases hk : s.net.link.getLsbD k <;> simp [State.send, State.upNet, hk]

theorem exec_prpSupervisionSend (hd : s.domainOn 7 = true) (hp : pair < 2) (hon : s.prpOn pair = true) : exec (.prpSupervisionSend pair) s =
    commit s (s.upNet (fun n => { n with sent := ((([2 * pair, 2 * pair + 1] : List Nat).filter (fun k => s.net.link.getLsbD k)).reverse.map Sent.prp) ++ n.sent })) := by
  show commit s (if (!s.domainOn 7) = true ∨ 2 ≤ pair ∨ (!s.prpOn pair) = true then s else _) = _
  rw [if_neg (by simp [hd, hon, hp]), foldl_sendUp Sent.prp]

theorem exec_prpSupervisionSend_idle (h : s.domainOn 7 = false ∨ s.prpOn pair = false ∨ 2 ≤ pair) : exec (.prpSupervisionSend pair) s = .next s := by
  show commit s (if (!s.domainOn 7) = true ∨ 2 ≤ pair ∨ (!s.prpOn pair) = true then s else _) = _
  rw [if_pos, commit_self]
  rcases h with h | h | h <;> simp [h]

/-! ### ARP and ICMP echo (11 R342) -/

theorem exec_arpIcmpEchoRequest_idle (h : s.domainOn 7 = false ∨ s.inForce 0x1110 1 0 = 0) (port : Nat) (f : List Byte) : exec (.arpIcmpEchoRequest port f) s = .next s := by
  show commit s (if (!s.domainOn 7) = true ∨ s.inForce 0x1110 1 0 = 0 then s else _) = _
  rw [if_pos (by simpa using h), commit_self]

/-- A first copy, or a frame that has none: it is remembered. -/
def State.remembers (s : State) (q : List (Nat × List Byte)) : State := s.upNet (fun n => { n with seen := q })

theorem prpSeen_remembers (h : (s.prpSeen port f).1 = false) : (s.prpSeen port f).2 = s.remembers (s.prpSeen port f).2.net.seen := by
  obtain ⟨n, hn⟩ := prpSeen_upNet s port f
  obtain ⟨-, -, hnet, -⟩ := prpSeen_net s port f
  have hnet := hnet h
  rw [hn] at hnet ⊢
  exact congrArg (fun x => s.upNet (fun _ => x)) hnet

section
variable (hd : s.domainOn 7 = true) (ha : s.inForce 0x1110 1 0 ≠ 0)
include hd ha

theorem exec_arpIcmpEchoRequest_duplicate (h : (s.prpSeen port f).1 = true) : exec (.arpIcmpEchoRequest port f) s = commit s (s.prpSeen port f).2 := by
  show execArpIcmpEchoRequest port f s = _
  unfold execArpIcmpEchoRequest
  dsimp only
  rw [if_neg (by simp [hd, ha]), if_pos h]

section
variable {q : List (Nat × List Byte)} (h : (s.prpSeen port f).1 = false) (hq : q = (s.prpSeen port f).2.net.seen)
include h hq

theorem exec_arpIcmpEchoRequest_new : exec (.arpIcmpEchoRequest port f) s = commit s (match s.arpAnswer f, s.echoAnswer f with
    | some a, _ => (s.remembers q).sendPlain port a
    | none, some a => (s.remembers q).sendPlain port a
    | none, none => s.remembers q) := by
  show execArpIcmpEchoRequest port f s = _
  unfold execArpIcmpEchoRequest
  dsimp only
  rw [if_neg (by simp [hd, ha]), if_neg (by simp [h]), prpSeen_remembers h, ← hq]
  show commit s (match s.arpAnswer f with
    | some a => (s.remembers q).sendPlain port a
    | none => match s.echoAnswer f with
      | some a => (s.remembers q).sendPlain port a
      | none => s.remembers q) = _
  cases s.arpAnswer f with
  | some a => rfl
  | none => cases s.echoAnswer f <;> rfl

theorem exec_arpIcmpEchoRequest_answered {a : List Byte} (hans : s.arpAnswer f = some a ∨ s.arpAnswer f = none ∧ s.echoAnswer f = some a) :
    exec (.arpIcmpEchoRequest port f) s = commit s ((s.remembers q).sendPlain port a) := by
  rw [exec_arpIcmpEchoRequest_new hd ha h hq]
  rcases hans with harp | ⟨harp, hecho⟩
  · rw [harp]
  · rw [harp, hecho]

theorem exec_arpIcmpEchoRequest_other (harp : s.arpAnswer f = none) (hecho : s.echoAnswer f = none) : exec (.arpIcmpEchoRequest port f) s = commit s (s.remembers q) := by
  rw [exec_arpIcmpEchoRequest_new hd ha h hq, harp, hecho]

end

end

/-- In a PRP pair a plain frame leaves with the trailer on both ports that are up. -/
theorem sendPlain_pair (hp : port < 4) (hon : s.prpOn (port / 2) = true) (a : List Byte) : ∃ v, (s.sendPlain port a) = s.upNet (fun n => { n with
    prpSeq := v
    sent := (([2 * (port / 2), 2 * (port / 2) + 1] : List Nat).filter s.net.link.getLsbD).reverse.map (fun k => Sent.eth k (a.take 14 ++ (a.drop 14 ++ zeros (60 - a.length)) ++ rct (vget s.net.prpSeq (port / 2) 0) k (a.drop 14 ++ zeros (60 - a.length)).length)) ++ n.sent }) := by
  unfold State.sendPlain
  dsimp only
  rw [if_pos ⟨hp, hon⟩, foldl_send]
  exact ⟨_, rfl⟩

theorem sendPlain_single (h : 4 ≤ port ∨ s.prpOn (port / 2) = false) (a : List Byte) :
    s.sendPlain port a = if s.net.link.getLsbD port = true then s.send (.eth port (a.take 14 ++ (a.drop 14 ++ zeros (60 - a.length)))) else s := by
  unfold State.sendPlain
  dsimp only
  rw [if_neg]
  rintro ⟨hp, hon⟩
  rcases h with h | h
  · omega
  · simp [h] at hon

/-! ### The statement -/

/-- Settles O21: each command that sends is a queueing of frames from the state that time has reached, and every other command changes the network block by its own rule. -/
theorem stationFramesAreSent : Obligations.StationFramesAreSent := by
  intro s r r1 r2 u t0 l i port pair di ai up f a b pl x im row o ports hr hadv hlead
  have hr1 : r1 = s.dueAt t0 (t0 + 1000 * s.clk.adv) := by rw [hadv, hr, reach_firstDue]
  have hr2 : r2 = s.dueAt t0 (t0 + 1000 * s.clk.lead) := by rw [hlead, hr, reach_firstDue]
  have hk1 : Keep { clk := true, net := true, evr := true } s r1 := hr1 ▸ dueAt_keep s _ _
  have hk2 : Keep { clk := true, net := true, evr := true } s r2 := hr2 ▸ dueAt_keep s _ _
  refine ⟨fun hdi hai hpl hrole hstarted hd hl => ?_, fun h => hr ▸ answer_reach (exec_stationInputSend_idle h t0), fun hx hstarted hrole hd hl => ?_, fun h => hr ▸ answer_reach (exec_keepAliveSend_idle h t0),
    fun hx hn hrole hd him => ?_, fun h => hr ▸ answer_reach (exec_warmStartFrames_idle h t0), ?_, ?_, fun hd hp hlink => ?_, exec_ethLinkChange_idle,
    fun hd hp hon => answer_net (exec_prpSupervisionSend hd hp hon) rfl, exec_prpSupervisionSend_idle, fun hd hip hu => ?_, fun h => exec_arpIcmpEchoRequest_idle h port f⟩
  · -- STATION_INPUT_SEND
    have hexec := exec_stationInputSend hrole hstarted hd t0
    rw [← hr1] at hexec
    obtain ⟨hv, hframe, hclk⟩ := answer_sendsFrom hexec hk1 (State.inputSend_keep (Keep.refl r1) _)
    refine ⟨_, hv, hframe, hclk, (Net.still_eq (queueFrame_still r1 _ _ _ _)).trans (by rw [hr1]; rfl), fun hq => ?_⟩
    subst hr1 hdi hai hpl hl
    exact queueFrame_toControllers (s := s.dueAt t0 (t0 + 1000 * s.clk.adv)) hq _
  · -- KEEP_ALIVE_SEND
    have hexec := exec_keepAliveSend hx hstarted hrole hd t0
    rw [← hr2] at hexec
    obtain ⟨hv, hframe, hclk⟩ := answer_sendsFrom hexec hk2 (State.keepAlives_keep (Keep.refl r2) _)
    obtain ⟨hstill, hentered, hothers⟩ := keepAlives_slots r2 s.comingBeat
    rw [← hl] at hentered hothers
    subst hr2
    refine ⟨_, hv, hframe, hclk, Net.stillS_eq hstill, hentered, hothers, fun hused hnew hq hlate hb hports => ?_⟩
    rw [countEdges_net, keepAlives_one (s := s.dueAt _ _) hused (hl ▸ hnew), ← hl]
    exact queueOutput_sent hq (usedSlots_lt (s := s) (by rw [hused]; exact List.mem_singleton_self i)) hlate hb hports
  · -- WARM_START_FRAMES
    have hexec := exec_warmStartFrames hx hn hrole hd him t0
    rw [← hr2] at hexec
    obtain ⟨hv, hframe, hclk⟩ := answer_sendsFrom hexec hk2 (Keep.foldl (fun _ q h => warmTask_keep h q) (s.warmRows im) (Keep.refl r2))
    refine ⟨_, hv, hframe, hclk, fun hrows => ?_, fun hrows ho hslots hq hl hlate hb hports => ?_⟩
    · rw [countEdges_net, show s.warmRows im = [] from hrows, hr2]
      rfl
    · subst hr2 ho
      have hi : i ∈ s.usedSlots := List.mem_of_mem_filter (by rw [hslots]; exact List.mem_singleton_self i)
      rw [countEdges_net, show s.warmRows im = [row] from hrows, List.foldl_cons, List.foldl_nil, warmTask_one (s := s.dueAt _ _) hslots, ← hl]
      exact (queueOutput_sent (s := s.dueAt t0 (t0 + 1000 * s.clk.lead)) hq (usedSlots_lt hi) hlate hb hports).1
  · -- ACK_WAIT_EXPIRY
    subst hr
    obtain ⟨hstill, hunacked⟩ := afterAckWait_net s t0
    obtain ⟨hv, hframe, hclk⟩ := answer_sendsFrom (exec_ackWaitExpiry s t0) (waitsEnded_keep s t0) (afterAckWait_keep s t0)
    refine ⟨_, hv, hframe, hclk, Net.still_eq hstill, fun hg => ?_, fun hq => ⟨hunacked hq, fun hg hout hports => ⟨fun h => ?_, fun hlaunch hlate => ?_⟩⟩⟩
    · rw [countEdges_net, afterAckWait_idle hg]
      rfl
    · rw [countEdges_net, afterAckWait_one hg hout]
      exact repeatFrame_sent (s := s.waitsEnded t0) hq hports h
    · rw [countEdges_net, afterAckWait_one hg hout, repeatFrame_tooLate (s := s.waitsEnded t0) hlaunch hlate]
      rfl
  · -- TX_LATE_DROP
    subst hr
    obtain ⟨hv, hframe, -⟩ := answer_sendsFrom (c := .txLateDrop t0) rfl (State.reach_keep (Keep.refl s) t0) (State.dropLate_keep (Keep.refl _) t0)
    refine ⟨_, hv, hframe, ?_⟩
    rw [countEdges_net]
    simp only [← lateAt_eq_any]
    exact dropLate_net (s.reach t0) t0
  · -- ETH_LINK_CHANGE
    have hkeep : Keep { net := true, evr := true } s (s.linkMoved port up).drain := State.drain_keep (linkMoved_keep s port up)
    exact ⟨_, exec_ethLinkChange hd hp hlink, hkeep.frame.countEdges s, linkMoved_drain s port up⟩
  · -- ARP_ICMP_ECHO_REQUEST
    obtain ⟨hkeep, hdup, -, -⟩ := prpSeen_net s port f
    refine ⟨fun h => ?_, fun hnew => ?_⟩
    · obtain ⟨v, hv, hnet, hframe⟩ := answer_keep (exec_arpIcmpEchoRequest_duplicate hd hip h) hkeep
      exact ⟨v, hv, hu ▸ hnet.trans (hdup h), hframe⟩
    · obtain ⟨q, hq⟩ : ∃ q, q = (s.prpSeen port f).2.net.seen := ⟨_, rfl⟩
      obtain rfl : u = s.remembers q := by rw [hu, hq]; exact prpSeen_remembers hnew
      have hk : Keep { net := true } s (s.remembers q) := (Keep.refl s).upNet _
      refine ⟨rfl, fun h => ?_, fun harp hecho => answer_keep (exec_arpIcmpEchoRequest_other hd hip hnew hq harp hecho) hk⟩
      refine ⟨_, exec_arpIcmpEchoRequest_answered hd hip hnew hq h, (State.sendPlain_keep hk port a).frame.countEdges s, fun hp hon => ?_, fun h => ?_⟩
      · obtain ⟨k, hsend⟩ := sendPlain_pair (s := s.remembers q) hp hon a
        rw [countEdges_net, hsend]
        rfl
      · rw [countEdges_net, sendPlain_single (s := s.remembers q) h]
        exact apply_ite State.net _ _ _

end Sys2Proof.Machine
end

section
/-! PROOFS. One CAN port among the eight: what an update leaves of it and of the others, as one fact that composes along a command, and the registers of a port's page (10 R318; 12 R364). -/

set_option Elab.async false

namespace Sys2Proof.Machine

open Sys2Proof

/-- From `s` to `u` CAN port `n` has become `p`, and every other port is as it was. -/
structure PortTo (n : Nat) (s u : State) (p : Can) : Prop where
  port : u.canPort n = p
  others : ∀ j, j ≠ n → u.canPort j = s.canPort j

variable {s u v : State} {n b off : Nat} {p : Can} {m : Master} {w : Word}

/-! ### Updates of one port -/

namespace PortTo

theorem refl (s : State) (n : Nat) : PortTo n s s (s.canPort n) := ⟨rfl, fun _ _ => rfl⟩

/-- An operation on the other parts of the state leaves the ports. -/
theorem of_can (h : PortTo n s u p) (e : v.can = u.can) : PortTo n s v p := by
  have hv : ∀ j, v.canPort j = u.canPort j := fun j => by unfold State.canPort; rw [e]
  exact ⟨(hv n).trans h.port, fun j hj => (hv j).trans (h.others j hj)⟩

theorem reach (h : PortTo n s u p) (t : Nat) : PortTo n s (u.reach t) p := h.of_can rfl

theorem upCanPort (h : PortTo n s u p) (hn : n < 8) (k : Can → Can) : PortTo n s (u.upCanPort n k) (k p) :=
  ⟨by rw [upCanPort_port u hn, h.port], fun j hj => (upCanPort_other u hj k).trans (h.others j hj)⟩

theorem upBuf (h : PortTo n s u p) (hn : n < 8) (b : Nat) (k : CanBuf → CanBuf) :
    PortTo n s (u.upBuf n b k) { p with bufs := vup p.bufs b CanBuf.reset k } :=
  h.upCanPort hn _

theorem canCause (h : PortTo n s u p) (hn : n < 8) (b x : Nat) : PortTo n s (u.canCause n b x) { p with cause := setBit p.cause b true } :=
  ⟨by rw [canCause_port u hn, h.port], fun j hj => (canCause_other u hj b x).trans (h.others j hj)⟩

/-- What a command answers whose effect touches one port, among the parts `L`. -/
theorem answer {i : Instr} {L : Parts} (h : PortTo n s u p) (hexec : exec i s = commit s u) (hf : Frame L s (countEdges s u)) :
    ∃ v, exec i s = .next v ∧ Frame L s v ∧ (∀ j, j ≠ n → v.canPort j = s.canPort j) ∧ v.canPort n = p :=
  ⟨_, hexec, hf, h.others, h.port⟩

/-- The same answer with the port first. -/
theorem answer_port {i : Instr} {L : Parts} (h : PortTo n s u p) (hexec : exec i s = commit s u) (hf : Frame L s (countEdges s u)) :
    ∃ v, exec i s = .next v ∧ v.canPort n = p ∧ (∀ j, j ≠ n → v.canPort j = s.canPort j) ∧ Frame L s v :=
  ⟨_, hexec, h.port, h.others, hf⟩

end PortTo

/-- An update that gives an element of a vector its present value is none. -/
theorem vup_self {α : Type} {k : Nat} (v : Vector α k) (i : Nat) (d : α) (f : α → α) (h : f (vget v i d) = vget v i d) : vup v i d f = v := by
  refine Vector.ext (fun j hj => ?_)
  unfold vup vset
  rw [h, Vector.getElem_setIfInBounds]
  split
  · next e =>
    subst e
    simp [vget, hj]
  · rfl

/-- A buffer number beyond the 64 names no buffer. -/
theorem buf_beyond (c : Can) (h : 64 ≤ b) : c.buf b = CanBuf.reset := by
  unfold Can.buf vget
  rw [Vector.getElem?_eq_none h]
  rfl

/-! ### The error counters (10 R312, R313) -/

/-- CANn_CAUSE of a port whose counters become `tec` and `rec'`. -/
def Can.counterCause (c : Can) (tec rec' : Nat) : Word :=
  let a := if (96 ≤ tec ∧ c.txErr < 96) ∨ (96 ≤ rec' ∧ c.rxErr < 96) then setBit c.cause 2 true else c.cause
  let a := if c.errState = 0 ∧ (127 < tec ∨ 127 < rec') then setBit a 1 true else a
  if (decide (255 < tec) && !c.busOff) = true then setBit a 0 true else a

/-- A port whose counters become `tec` and `rec'`. -/
def Can.counted (c : Can) (tec rec' : Nat) : Can :=
  { c with
    txErr := min 255 tec, rxErr := min 255 rec', busOff := c.busOff || decide (255 < tec)
    recovering := c.recovering || (decide (255 < tec) && !c.busOff && c.ctrl.getLsbD 4), cause := c.counterCause tec rec' }

theorem PortTo.canCounters (h : PortTo n s u p) (hn : n < 8) (tec rec' : Nat) : PortTo n s (u.canCounters n tec rec') (p.counted tec rec') :=
  ⟨h.port ▸ canCounters_port u hn tec rec', fun j hj => (canCounters_other u hj tec rec').trans (h.others j hj)⟩

/-! ### The page of a port (12 R359, R364) -/

theorem canAddr_div (ho : off < 4096) : canAddr n off / 4096 = 8 + n := by
  unfold canAddr
  omega

theorem canAddr_mod (ho : off < 4096) : canAddr n off % 4096 = off := by
  unfold canAddr
  omega

theorem blockRead_can (s : State) (m : Master) (hn : n < 8) (off : Nat) (priv : Bool) : s.blockRead m (8 + n) off priv = s.canRead n off priv := by
  unfold State.blockRead
  repeat rw [if_neg (by omega)]
  rw [if_pos (by omega), Nat.add_sub_cancel_left]

theorem blockWrite_can (s : State) (m : Master) (hn : n < 8) (off : Nat) (w : Word) (priv : Bool) (ecc : List Ecc) :
    s.blockWrite m (8 + n) off w priv ecc = s.canWrite n off w priv := by
  unfold State.blockWrite
  repeat rw [if_neg (by omega)]
  rw [if_pos (by omega), Nat.add_sub_cancel_left]

/-- A read that reaches a port is that port's answer. -/
theorem fabricRead_can (h : s.readReaches m (canAddr n off) = true) (hn : n < 8) (ho : off < 4096) :
    s.fabricRead m (canAddr n off) = s.canRead n off (s.privOf m) := by
  rw [fabricRead_reaches h, canAddr_div ho, canAddr_mod ho, blockRead_can s m hn]

/-- A write that the port does is the port's effect. -/
theorem fabricWrite_can (h : s.readReaches m (canAddr n off) = true) (hn : n < 8) (ho : off < 4096) (e : s.canWrite n off w (s.privOf m) = .done u) :
    s.fabricWrite m (canAddr n off) w [] = u := by
  refine fabricWrite_done h ?_
  rw [canAddr_div ho, canAddr_mod ho, blockWrite_can s m hn, e]

/-- A write that the port refuses leaves the mark of the refusal alone. -/
theorem fabricWrite_can_refused {f : Nat} (h : s.readReaches m (canAddr n off) = true) (hn : n < 8) (ho : off < 4096)
    (e : s.canWrite n off w (s.privOf m) = .refused f) : s.fabricWrite m (canAddr n off) w [] = s.accessFault m (canAddr n off) f := by
  refine fabricWrite_refused h ?_
  rw [canAddr_div ho, canAddr_mod ho, blockWrite_can s m hn, e]

end Sys2Proof.Machine
end

section
/-! PROOFS. Reception at a CAN port (10 R297, R300 to R304, R308, R312): a received frame by the buffer that takes it, and the locks of the register window and of the overflow FIFO. That the buffer of Kivasel leaves a frame to its segments is log 29, the fall of REC log 60: both are the model's choice. -/

set_option Elab.async false

namespace Sys2Proof.Machine

open Sys2Proof

variable {s : State} {m : Master} {n t i b : Nat} {raw f : List Word}

/-! ### A received frame by its buffer (10 R301, R303, R308) -/

/-- REC falls by one, or from above 127 to a value from 119 to 127. -/
theorem canHeard_port (s : State) (hn : n < 8) : ∃ rx, ((s.canPort n).rxErr ≤ 127 → rx = (s.canPort n).rxErr - 1) ∧
    (127 < (s.canPort n).rxErr → 119 ≤ rx ∧ rx ≤ 127) ∧ PortTo n s (s.canHeard n) { s.canPort n with rxErr := rx } := by
  refine ⟨_, fun h => ?_, fun h => ?_, ((PortTo.refl s n).of_can (v := s.useFree) rfl).upCanPort hn _⟩
  · exact if_neg (by omega)
  · rw [if_pos h]
    omega

section
variable (hf : f = canFrame raw (256 * s.canStamp t) 64)
include hf

theorem canReceive_unmatched (ht : (s.canPort n).target f = none) :
    s.canReceive n t raw = s.upCanPort n (fun c => { c with dropUnm := sat16 c.dropUnm }) := by
  simp [State.canReceive, ← hf, ht]

variable (ht : (s.canPort n).target f = some b)
include ht

theorem canReceive_kivasel (ho : ((s.canPort n).buf b).owner = 2) : s.canReceive n t raw = s := by
  simp [State.canReceive, ← hf, ht, ho]

theorem canReceive_replay (ho : ((s.canPort n).buf b).owner = 1) (hr : s.pwr.role = .replay) : s.canReceive n t raw = s := by
  simp [State.canReceive, ← hf, ht, ho, hr]

theorem canReceive_image (ho : ((s.canPort n).buf b).owner = 1) (hr : s.pwr.role ≠ .replay) :
    s.canReceive n t raw = (s.upBuf n b (fun x => { x with frame := f, rxCount := min 255 (x.rxCount + 1) })).upTrc
      (fun q => { q with cans := q.cans ++ [⟨n, b, t, shownWords f⟩] }) := by
  simp [State.canReceive, ← hf, ht, ho, hr]

variable (h1 : ((s.canPort n).buf b).owner ≠ 1)
include h1

theorem canReceive_trc : (s.canReceive n t raw).trc = s.trc := by
  simp only [State.canReceive, ← hf, ht]
  rw [if_neg h1]
  split
  · rfl
  · split
    · rfl
    · split
      · rfl
      · exact State.canCause_trc ..

variable (h2 : ((s.canPort n).buf b).owner ≠ 2)
include h2

theorem canReceive_unlocked (hl : ((s.canPort n).buf b).locked = false) :
    s.canReceive n t raw = s.upBuf n b (fun x => { x with frame := f, overwrite := x.overwrite || x.new, new := true }) := by
  simp [State.canReceive, ← hf, ht, h1, h2, hl]

variable (hl : ((s.canPort n).buf b).locked = true)
include hl

theorem canReceive_locked (hroom : (s.canPort n).fifo.length < 16) :
    s.canReceive n t raw = s.upCanPort n (fun c => { c with fifo := c.fifo ++ [(b, f)] }) := by
  simp [State.canReceive, ← hf, ht, h1, h2, hl, hroom]

theorem canReceive_full (hfull : 16 ≤ (s.canPort n).fifo.length) :
    s.canReceive n t raw = (s.upCanPort n (fun c => { c with dropFull := sat16 c.dropFull })).canCause n 6 b := by
  simp [State.canReceive, ← hf, ht, h1, h2, hl, Nat.not_lt.mpr hfull]

end

theorem canReceive_other (s : State) {j : Nat} (hj : j ≠ n) (t : Nat) (raw : List Word) : (s.canReceive n t raw).canPort j = s.canPort j := by
  unfold State.canReceive
  dsimp only
  split
  · exact upCanPort_other s hj _
  · split
    · rfl
    · split
      · split
        · rfl
        · exact upBuf_other s hj _ _
      · split
        · exact upBuf_other s hj _ _
        · split
          · exact upCanPort_other s hj _
          · exact (canCause_other _ hj _ _).trans (upCanPort_other s hj _)

/-! ### CAN_FRAME_RECEIVED (10 R297, R301) -/

theorem exec_canFrameReceived_deaf (h : (s.canPort n).listens = false) : exec (.canFrameReceived n t raw) s = commit s (s.reach t) :=
  congrArg (commit s) (if_pos (by rw [show ((s.reach t).canPort n).listens = false from h]; rfl))

theorem exec_canFrameReceived_formError (h : (s.canPort n).listens = true) (hfd : (frameWord (canFrame raw 0 64) 1).getLsbD 4 = true)
    (hoff : (s.canPort n).ctrl.getLsbD 2 = false) : exec (.canFrameReceived n t raw) s =
      commit s (((s.reach t).upCanPort n (fun c => { c with lec := 2 })).canCounters n (s.canPort n).txErr ((s.canPort n).rxErr + 1)) := by
  show commit s (if _ then _ else if _ then _ else _) = _
  rw [if_neg (by rw [show ((s.reach t).canPort n).listens = true from h]; decide),
    if_pos (by rw [hfd, show ((s.reach t).canPort n).ctrl.getLsbD 2 = false from hoff]; rfl)]
  rfl

theorem exec_canFrameReceived_valid (h : (s.canPort n).listens = true)
    (hvalid : (frameWord (canFrame raw 0 64) 1).getLsbD 4 = false ∨ (s.canPort n).ctrl.getLsbD 2 = true) :
    exec (.canFrameReceived n t raw) s = commit s (((s.reach t).canHeard n).canReceive n t raw) := by
  show commit s (if _ then _ else if _ then _ else _) = _
  rw [if_neg (by rw [show ((s.reach t).canPort n).listens = true from h]; decide), if_neg]
  rw [Bool.and_eq_true, Bool.not_eq_true', not_and]
  intro hfd
  rw [show ((s.reach t).canPort n).ctrl.getLsbD 2 = true from hvalid.resolve_left (by rw [hfd]; decide)]
  decide

/-- A form error counts and names itself, and nothing is stored. -/
theorem formError_answer (hn : n < 8) (h : (s.canPort n).listens = true) (hfd : (frameWord (canFrame raw 0 64) 1).getLsbD 4 = true)
    (hoff : (s.canPort n).ctrl.getLsbD 2 = false) : ∃ u, exec (.canFrameReceived n t raw) s = .next u ∧ (u.canPort n).lec = 2 ∧
      (u.canPort n).rxErr = min 255 ((s.canPort n).rxErr + 1) ∧ (u.canPort n).bufs = (s.canPort n).bufs ∧ (u.canPort n).fifo = (s.canPort n).fifo ∧
      (u.canPort n).dropUnm = (s.canPort n).dropUnm ∧ (∀ k, k ≠ n → u.canPort k = s.canPort k) ∧ Frame { clk := true, can := true, evr := true } s u := by
  obtain ⟨u, hu, hframe, hothers, hport⟩ := ((((PortTo.refl s n).reach t).upCanPort hn (fun c => { c with lec := 2 })).canCounters hn
    (s.canPort n).txErr ((s.canPort n).rxErr + 1)).answer (L := { clk := true, can := true, evr := true }) (exec_canFrameReceived_formError h hfd hoff)
    ((State.canCounters_keep (State.upCanPort_keep (State.reach_keep (Keep.refl s) t) n _) n _ _).frame.countEdges s)
  refine ⟨u, hu, ?_⟩
  rw [hport]
  exact ⟨rfl, rfl, rfl, rfl, rfl, hothers, hframe⟩

/-! ### Reads of the window and of the FIFO (10 R302, R304) -/

theorem canRead_window (s : State) (n : Nat) (hi : i < 18) (priv : Bool) : s.canRead n (0xA00 + 4 * i) priv = s.canWinRead n i := by
  unfold State.canRead
  dsimp only
  repeat rw [if_neg (by omega)]
  rw [if_pos (by omega), Nat.add_sub_cancel_left, Nat.mul_div_cancel_left i (by decide)]

theorem canRead_fifo (s : State) (n : Nat) (hi : i < 18) (priv : Bool) : s.canRead n (0xA80 + 4 * i) priv = s.canFifoWord n i := by
  unfold State.canRead
  dsimp only
  repeat rw [if_neg (by omega)]
  rw [if_pos (by omega), Nat.add_sub_cancel_left, Nat.mul_div_cancel_left i (by decide)]

theorem exec_canWindowRead (hn : n < 8) (hi : i < 18) (h : s.readReaches m (canAddr n (0xA00 + 4 * i)) = true) :
    exec (.canWindowRead m n i) s = commit s ((s.canWinRead n i).2.upHost (fun h => { h with rdata := [(s.canWinRead n i).1] })) := by
  have hread : s.fabricRead m (canAddr n (0xA00 + 4 * i)) = s.canWinRead n i := by rw [fabricRead_can h hn (by omega), canRead_window s n hi]
  show commit s (if n < 8 ∧ i < 18 then s.regRead m (canAddr n (0xA00 + 4 * i)) else s) = _
  rw [if_pos ⟨hn, hi⟩, State.regRead, hread]

theorem exec_canFifoRead (hn : n < 8) (hi : i < 18) (h : s.readReaches m (canAddr n (0xA80 + 4 * i)) = true) :
    exec (.canFifoRead m n i) s = commit s ((s.canFifoWord n i).2.upHost (fun h => { h with rdata := [(s.canFifoWord n i).1] })) := by
  have hread : s.fabricRead m (canAddr n (0xA80 + 4 * i)) = s.canFifoWord n i := by rw [fabricRead_can h hn (by omega), canRead_fifo s n hi]
  show commit s (if n < 8 ∧ i < 18 then s.regRead m (canAddr n (0xA80 + 4 * i)) else s) = _
  rw [if_pos ⟨hn, hi⟩, State.regRead, hread]

/-- A read that does not reach its register obtains zero (12 R364). -/
theorem regRead_unreached {addr : Nat} (h : s.readReaches m addr = false) : s.regRead m addr = s.upHost (fun h => { h with rdata := [0] }) := by
  have hread : s.fabricRead m addr = (0, s) := if_neg (by rw [h]; decide)
  rw [State.regRead, hread]

/-- What a read command answers that obtains `w` and leaves `u` of the ports. -/
theorem read_answer {c : Instr} {u : State} {w : Word} {p : Can} (h : exec c s = commit s (u.upHost (fun h => { h with rdata := [w] })))
    (hk : Keep { can := true } s u) (hp : PortTo n s u p) : ∃ v, exec c s = .next v ∧ v.host = { s.host with rdata := [w], counts := v.host.counts } ∧
      Frame { host := true, can := true } s v ∧ (∀ k, k ≠ n → v.canPort k = s.canPort k) ∧ v.canPort n = p := by
  have hhost : Keep { host := true } u (u.upHost (fun h => { h with rdata := [w] })) := (Keep.refl u).upHost (fun hc => hc)
  refine ⟨_, h, ?_, (hk.frame.comp hhost.frame rfl rfl).countEdges s, hp.others, hp.port⟩
  exact congrArg (fun x : HostSt => { x with rdata := [w], counts := (countEdges s (u.upHost (fun h => { h with rdata := [w] }))).host.counts }) (hk.frame.host rfl)

/-- What a read command answers that does not reach its register. -/
theorem unreached_answer {c : Instr} (h : exec c s = commit s (s.upHost (fun h => { h with rdata := [0] }))) :
    ∃ v, exec c s = .next v ∧ v.host = { s.host with rdata := [0], counts := v.host.counts } ∧ Frame { host := true } s v := by
  have hk : Keep { host := true } s (s.upHost (fun h => { h with rdata := [0] })) := (Keep.refl s).upHost (fun hc => hc)
  exact ⟨_, h, rfl, hk.frame.countEdges s⟩

/-- The word of the selected buffer, of a transmit buffer as it would be sent. -/
theorem canWinRead_word (s : State) (n i : Nat) {x : CanBuf} (hx : x = (s.canPort n).buf (s.canPort n).bufSel) :
    (s.canWinRead n i).1 = frameWord (if x.dir = 2 then canFrame x.frame 0 64 else x.frame) i := by
  subst hx
  unfold State.canWinRead
  dsimp only
  split_ifs <;> rfl

/-- Word 0 of a receive buffer that the image does not own locks it, and its last word releases it. -/
theorem canWinRead_port (s : State) (hn : n < 8) (i : Nat) {c : Can} {x : CanBuf} (hc : c = s.canPort n) (hx : x = c.buf c.bufSel) :
    PortTo n s (s.canWinRead n i).2 (if x.dir = 1 ∧ x.owner ≠ 1 ∧ i = 0 then { c with bufs := vset c.bufs c.bufSel { x with locked := true } }
      else if x.dir = 1 ∧ x.owner ≠ 1 ∧ i = lastWord x.frame then { c with bufs := vset c.bufs c.bufSel { x with locked := false, new := false, overwrite := false } }
      else c) := by
  subst hx hc
  unfold State.canWinRead
  dsimp only
  by_cases hown : ((s.canPort n).buf (s.canPort n).bufSel).dir ≠ 1 ∨ ((s.canPort n).buf (s.canPort n).bufSel).owner = 1
  · have hno : ∀ a : Prop, ¬ (((s.canPort n).buf (s.canPort n).bufSel).dir = 1 ∧ ((s.canPort n).buf (s.canPort n).bufSel).owner ≠ 1 ∧ a) :=
      fun _ ⟨hdir, ho, _⟩ => hown.elim (fun h => h hdir) ho
    rw [if_pos hown, if_neg (hno _), if_neg (hno _)]
    exact PortTo.refl s n
  · obtain ⟨hdir, ho⟩ := not_or.mp hown
    rw [if_neg hown]
    simp only [not_not.mp hdir, ho, true_and, ne_eq, not_false_eq_true]
    split
    · exact (PortTo.refl s n).upBuf hn _ _
    · split
      · exact (PortTo.refl s n).upBuf hn _ _
      · exact PortTo.refl s n

theorem canFifoWord_empty (h : (s.canPort n).fifo = []) (i : Nat) : s.canFifoWord n i = (0, s) := by
  unfold State.canFifoWord
  rw [h]

section
variable {rest : List (Nat × List Word)} (h : (s.canPort n).fifo = (b, f) :: rest)
include h

theorem canFifoWord_word (i : Nat) : (s.canFifoWord n i).1 = frameWord f i := by
  unfold State.canFifoWord
  rw [h]
  dsimp only
  split_ifs <;> rfl

/-- Word 0 of the FIFO head locks it, and its last word removes it. -/
theorem canFifoWord_port (hn : n < 8) (i : Nat) : PortTo n s (s.canFifoWord n i).2 (if i = 0 then { s.canPort n with fifoLock := true }
    else if i = lastWord f then { s.canPort n with fifo := rest, fifoLock := false } else s.canPort n) := by
  unfold State.canFifoWord
  rw [h]
  dsimp only
  split
  · exact (PortTo.refl s n).upCanPort hn _
  · split
    · exact (PortTo.refl s n).upCanPort hn _
    · exact PortTo.refl s n

end

theorem canWindowRead_answer (hn : n < 8) (hi : i < 18) (h : s.readReaches m (canAddr n (0xA00 + 4 * i)) = true) {c : Can} {x : CanBuf} (hc : c = s.canPort n)
    (hx : x = c.buf c.bufSel) : ∃ u, exec (.canWindowRead m n i) s = .next u ∧
      u.host = { s.host with rdata := [frameWord (if x.dir = 2 then canFrame x.frame 0 64 else x.frame) i], counts := u.host.counts } ∧
      Frame { host := true, can := true } s u ∧ (∀ k, k ≠ n → u.canPort k = s.canPort k) ∧
      u.canPort n = (if x.dir = 1 ∧ x.owner ≠ 1 ∧ i = 0 then { c with bufs := vset c.bufs c.bufSel { x with locked := true } }
        else if x.dir = 1 ∧ x.owner ≠ 1 ∧ i = lastWord x.frame then { c with bufs := vset c.bufs c.bufSel { x with locked := false, new := false, overwrite := false } }
        else c) := by
  rw [← canWinRead_word s n i (hc ▸ hx)]
  exact read_answer (exec_canWindowRead hn hi h) (State.canWinRead_keep (Keep.refl s) n i) (canWinRead_port s hn i hc hx)

theorem canFifoRead_answer (hn : n < 8) (hi : i < 18) (h : s.readReaches m (canAddr n (0xA80 + 4 * i)) = true) (b : Nat) (f : List Word) (rest : List (Nat × List Word)) :
    ∃ u, exec (.canFifoRead m n i) s = .next u ∧ Frame { host := true, can := true } s u ∧ (∀ k, k ≠ n → u.canPort k = s.canPort k) ∧
      ((s.canPort n).fifo = [] → u.host = { s.host with rdata := [0], counts := u.host.counts } ∧ u.canPort n = s.canPort n) ∧
      ((s.canPort n).fifo = (b, f) :: rest → u.host = { s.host with rdata := [frameWord f i], counts := u.host.counts } ∧
        u.canPort n = (if i = 0 then { s.canPort n with fifoLock := true } else if i = lastWord f then { s.canPort n with fifo := rest, fifoLock := false } else s.canPort n)) := by
  have hexec := exec_canFifoRead hn hi h
  have hkeep : Keep { can := true } s (s.canFifoWord n i).2 := State.canFifoWord_keep (Keep.refl s) n i
  cases hq : (s.canPort n).fifo with
  | nil =>
    obtain ⟨u, hu, hhost, hframe, hothers, hport⟩ := read_answer hexec hkeep (by rw [canFifoWord_empty hq]; exact PortTo.refl s n)
    rw [canFifoWord_empty hq] at hhost
    refine ⟨u, hu, hframe, hothers, fun _ => ⟨hhost, hport⟩, fun e => ?_⟩
    cases e
  | cons x l =>
    obtain ⟨b', f'⟩ := x
    obtain ⟨u, hu, hhost, hframe, hothers, hport⟩ := read_answer hexec hkeep (canFifoWord_port hq hn i)
    rw [canFifoWord_word hq] at hhost
    refine ⟨u, hu, hframe, hothers, fun e => ?_, fun e => ?_⟩
    · cases e
    · cases e
      exact ⟨hhost, hport⟩

/-! ### CAN_LOCK_TIMEOUT and CAN_BUFSEL_WRITE (10 R302, R304) -/

theorem canLockTimeout_fifo_answer (s : State) (hn : n < 8) : ∃ u, exec (.canLockTimeout n true) s = .next u ∧ Frame { can := true, evr := true } s u ∧
    (∀ k, k ≠ n → u.canPort k = s.canPort k) ∧
    u.canPort n = (if (s.canPort n).fifoLock then { s.canPort n with fifoLock := false, cause := setBit (s.canPort n).cause 8 true } else s.canPort n) := by
  refine PortTo.answer ?_ rfl (execCanLockTimeout_keep n true rfl).frame
  show PortTo n s (if (s.canPort n).fifoLock = true then _ else s) _
  split
  · exact ((PortTo.refl s n).upCanPort hn _).canCause hn 8 _
  · exact PortTo.refl s n

theorem canLockTimeout_window_answer (s : State) (hn : n < 8) {c : Can} {x : CanBuf} (hc : c = s.canPort n) (hx : x = c.buf c.bufSel) :
    ∃ u, exec (.canLockTimeout n false) s = .next u ∧ Frame { can := true, evr := true } s u ∧ (∀ k, k ≠ n → u.canPort k = s.canPort k) ∧
      u.canPort n = (if x.locked then { c with bufs := vset c.bufs c.bufSel { x with locked := false }, cause := setBit c.cause 8 true } else c) := by
  subst hx hc
  refine PortTo.answer ?_ rfl (execCanLockTimeout_keep n false rfl).frame
  show PortTo n s (if ((s.canPort n).buf (s.canPort n).bufSel).locked = true then _ else s) _
  split
  · exact ((PortTo.refl s n).upBuf hn _ _).canCause hn 8 _
  · exact PortTo.refl s n

/-- The selection of a buffer releases the lock of the one selected before, then that of the FIFO head. -/
theorem canBufSel_port (s : State) (hn : n < 8) (b : Nat) {c p : Can} {x : CanBuf} (hc : c = s.canPort n) (hx : x = c.buf c.bufSel)
    (hp : p = (if x.locked then { c with bufSel := b, bufs := vset c.bufs c.bufSel { x with locked := false }, cause := setBit c.cause 9 true } else { c with bufSel := b })) :
    PortTo n s (s.canBufSel n b) (if c.fifoLock then { p with fifoLock := false, cause := setBit p.cause 9 true } else p) := by
  subst hx hc
  have hsel := (PortTo.refl s n).upCanPort hn (fun c => { c with bufSel := b })
  have hbuf : PortTo n s (if ((s.canPort n).buf (s.canPort n).bufSel).locked then
      ((s.upCanPort n (fun c => { c with bufSel := b })).upBuf n (s.canPort n).bufSel (fun x => { x with locked := false })).canCause n 9 (s.canPort n).bufSel
      else s.upCanPort n (fun c => { c with bufSel := b })) p := by
    rw [hp]
    split
    · exact (hsel.upBuf hn _ _).canCause hn 9 _
    · exact hsel
  unfold State.canBufSel
  dsimp only
  split
  · exact (hbuf.upCanPort hn _).canCause hn 9 _
  · exact hbuf

theorem exec_canBufselWrite (hn : n < 8) (h : s.readReaches m (canAddr n 0x038) = true) (v : Word) :
    exec (.canBufselWrite m n v) s = commit s (s.canBufSel n (v.toNat % 64)) :=
  congrArg (commit s) ((if_pos hn).trans (fabricWrite_can h hn (by decide) rfl))

/-! ### The statement -/

/-- A valid frame by the buffer that takes it. -/
theorem validFrame_answer (hn : n < 8) (b : Nat) {c : Can} {x : CanBuf} (hc : c = s.canPort n) (hf : f = canFrame raw (256 * (s.reach t).canStamp t) 64)
    (h : c.listens = true) (hvalid : (frameWord (canFrame raw 0 64) 1).getLsbD 4 = false ∨ c.ctrl.getLsbD 2 = true) : ∃ u rx, exec (.canFrameReceived n t raw) s = .next u ∧
      Frame { clk := true, can := true, trc := true, evr := true, free := true } s u ∧ (∀ k, k ≠ n → u.canPort k = s.canPort k) ∧ (c.rxErr ≤ 127 → rx = c.rxErr - 1) ∧ (127 < c.rxErr → 119 ≤ rx ∧ rx ≤ 127) ∧
      (c.target f = none → u.canPort n = { c with rxErr := rx, dropUnm := min 0xFFFF (c.dropUnm + 1) } ∧ u.trc = s.trc) ∧
      (c.target f = some b → x = c.buf b →
        (x.owner = 1 → s.pwr.role = .replay → u.canPort n = { c with rxErr := rx } ∧ u.trc = s.trc) ∧
        (x.owner = 1 → s.pwr.role ≠ .replay → u.canPort n = { c with rxErr := rx, bufs := vset c.bufs b { x with frame := f, rxCount := min 255 (x.rxCount + 1) } } ∧ u.trc = { s.trc with cans := s.trc.cans ++ [⟨n, b, t, shownWords f⟩] }) ∧
        (x.owner ≠ 1 → u.trc = s.trc) ∧
        (x.owner = 2 → u.canPort n = { c with rxErr := rx }) ∧
        (x.owner ≠ 1 → x.owner ≠ 2 → x.locked = false → u.canPort n = { c with rxErr := rx, bufs := vset c.bufs b { x with frame := f, overwrite := x.overwrite || x.new, new := true } }) ∧
        (x.owner ≠ 1 → x.owner ≠ 2 → x.locked = true → c.fifo.length < 16 → u.canPort n = { c with rxErr := rx, fifo := c.fifo ++ [(b, f)] }) ∧
        (x.owner ≠ 1 → x.owner ≠ 2 → x.locked = true → 16 ≤ c.fifo.length → u.canPort n = { c with rxErr := rx, dropFull := min 0xFFFF (c.dropFull + 1), cause := setBit c.cause 6 true })) := by
  subst hc
  have hexec := exec_canFrameReceived_valid (t := t) (raw := raw) h hvalid
  obtain ⟨rx, hlow, hhigh, hport⟩ := canHeard_port (s.reach t) hn
  generalize hr : (s.reach t).canHeard n = r at hexec hport
  have hstamp : f = canFrame raw (256 * r.canStamp t) 64 := by rw [hf, ← hr]; rfl
  have htarget : (r.canPort n).target f = (s.canPort n).target f := by rw [hport.port]; rfl
  have hbuf : (r.canPort n).buf b = (s.canPort n).buf b := by rw [hport.port]; rfl
  have hrole : r.pwr.role = s.pwr.role := by rw [← hr]; rfl
  have htrc : r.trc = s.trc := by rw [← hr]; rfl
  refine ⟨_, rx, hexec, (execCanFrameReceived_keep n t raw hexec).frame, fun k hk => (canReceive_other r hk t raw).trans (hport.others k hk), hlow, hhigh, fun ht => ?_,
    fun ht hx => ?_⟩
  · rw [countEdges_port, countEdges_trc, canReceive_unmatched hstamp (htarget.trans ht)]
    exact ⟨(hport.upCanPort hn _).port, htrc⟩
  · rw [← htarget] at ht
    rw [← hbuf] at hx
    subst hx
    rw [countEdges_port, countEdges_trc]
    refine ⟨fun ho hp => ?_, fun ho hp => ?_, fun h1 => (canReceive_trc hstamp ht h1).trans htrc, fun ho => ?_, fun h1 h2 hl => ?_, fun h1 h2 hl hroom => ?_,
      fun h1 h2 hl hfull => ?_⟩
    · rw [canReceive_replay hstamp ht ho (hrole.trans hp)]
      exact ⟨hport.port, htrc⟩
    · rw [canReceive_image hstamp ht ho (hrole.symm ▸ hp)]
      exact ⟨hbuf ▸ (hport.upBuf hn b _).port, by rw [← htrc]; rfl⟩
    · rw [canReceive_kivasel hstamp ht ho]
      exact hport.port
    · rw [canReceive_unlocked hstamp ht h1 h2 hl, hbuf]
      exact (hport.upBuf hn b _).port
    · rw [canReceive_locked hstamp ht h1 h2 hl (by rw [hport.port]; exact hroom)]
      exact (hport.upCanPort hn _).port
    · rw [canReceive_full hstamp ht h1 h2 hl (by rw [hport.port]; exact hfull)]
      exact ((hport.upCanPort hn _).canCause hn 6 b).port

/-- Settles O22: a received frame by the buffer that takes it, each read and each release of a lock as an update of its port. -/
theorem canFramesAreReceived : Obligations.CanFramesAreReceived := by
  intro s m n t i b raw f v c x rest hn hc hf
  refine ⟨fun h => ?_, fun h hfd hoff => ?_, fun h hvalid => validFrame_answer hn b hc hf h hvalid, fun hi h hx => canWindowRead_answer hn hi h hc hx, fun hi h => ?_,
    fun hi h => ?_, fun hi h => ?_, ?_, fun hx => canLockTimeout_window_answer s hn hc hx, fun p h hx hp => ?_⟩
  all_goals subst hc
  · exact ⟨_, exec_canFrameReceived_deaf h, (State.reach_keep (Keep.refl s) t).frame.countEdges s⟩
  · exact formError_answer hn h hfd hoff
  · exact unreached_answer (congrArg (commit s) ((if_pos ⟨hn, hi⟩).trans (regRead_unreached h)))
  · exact canFifoRead_answer hn hi h b f rest
  · exact unreached_answer (congrArg (commit s) ((if_pos ⟨hn, hi⟩).trans (regRead_unreached h)))
  · exact canLockTimeout_fifo_answer s hn
  · exact (canBufSel_port s hn _ rfl hx hp).answer (exec_canBufselWrite hn h v) ((State.canBufSel_keep (Keep.refl s) n _).frame.countEdges s)

end Sys2Proof.Machine
end

section
/-! PROOFS. Errors at a CAN port and its way off and onto the bus (10 R297, R306, R311 to R313, R317): the counters and what their thresholds report, an attempt that ends without the frame sent, and CANn_CTRL. By how much the counters move is log 60, the model's reading of ISO 11898-1. -/

set_option Elab.async false

namespace Sys2Proof.Machine

open Sys2Proof

variable {s : State} {m : Master} {n lec b dom tec r : Nat} {data ack stuff : Bool} {v : Word} {c : Can} {x : CanTx}

/-! ### The counters (10 R312, R313) -/

/-- A port that has noted the code of an error, of the data phase or not. -/
def Can.noted (c : Can) (data : Bool) (lec : Nat) : Can := { c with lec := if data then c.lec else lec, dlec := if data then lec else c.dlec }

theorem Can.noted_eq (c : Can) (data : Bool) (lec : Nat) : (if data then { c with dlec := lec } else { c with lec := lec }) = c.noted data lec := by
  cases data <;> rfl

theorem Can.errState_eq_zero : c.errState = 0 ↔ c.busOff = false ∧ c.txErr ≤ 127 ∧ c.rxErr ≤ 127 := by
  unfold Can.errState
  cases c.busOff <;> simp

theorem PortTo.noted {u : State} (h : PortTo n s u c) (hn : n < 8) (data : Bool) (lec : Nat) :
    PortTo n s (u.upCanPort n (fun c => if data then { c with dlec := lec } else { c with lec := lec })) (c.noted data lec) :=
  Can.noted_eq c data lec ▸ h.upCanPort hn _

/-- An error while receiving moves REC alone: TEC reaches no threshold. -/
theorem Can.counted_receive (hoff : c.busOff = false) (ht : c.txErr ≤ 255) {k : Word} (hk : k = (if 96 ≤ r ∧ c.rxErr < 96 then setBit c.cause 2 true else c.cause)) :
    c.counted c.txErr r = { c with rxErr := min 255 r, cause := if c.txErr ≤ 127 ∧ c.rxErr ≤ 127 ∧ 127 < r then setBit k 1 true else k } := by
  have hover : decide (255 < c.txErr) = false := decide_eq_false (by omega)
  have hwarn : ((96 ≤ c.txErr ∧ c.txErr < 96) ∨ (96 ≤ r ∧ c.rxErr < 96)) ↔ (96 ≤ r ∧ c.rxErr < 96) := by omega
  have hpassive : (c.errState = 0 ∧ (127 < c.txErr ∨ 127 < r)) ↔ (c.txErr ≤ 127 ∧ c.rxErr ≤ 127 ∧ 127 < r) := by
    rw [Can.errState_eq_zero]
    constructor
    · rintro ⟨⟨-, h1, h2⟩, h3⟩
      omega
    · rintro ⟨h1, h2, h3⟩
      exact ⟨⟨hoff, h1, h2⟩, .inr h3⟩
  simp [Can.counted, Can.counterCause, hover, hwarn, hpassive, hk, Nat.min_eq_right ht]

/-- An error while transmitting moves TEC alone: REC reaches no threshold. -/
theorem Can.counterCause_transmit {k1 k2 : Word} (h1 : k1 = (if 96 ≤ tec ∧ c.txErr < 96 then setBit c.cause 2 true else c.cause))
    (h2 : k2 = (if c.errState = 0 ∧ 127 < tec then setBit k1 1 true else k1)) :
    c.counterCause tec c.rxErr = (if c.busOff = false ∧ 255 < tec then setBit k2 0 true else k2) := by
  have hwarn : ((96 ≤ tec ∧ c.txErr < 96) ∨ (96 ≤ c.rxErr ∧ c.rxErr < 96)) ↔ (96 ≤ tec ∧ c.txErr < 96) := by omega
  have hpassive : (c.errState = 0 ∧ (127 < tec ∨ 127 < c.rxErr)) ↔ (c.errState = 0 ∧ 127 < tec) := by
    refine and_congr_right (fun h0 => ?_)
    have := (Can.errState_eq_zero.mp h0).2.2
    omega
  have hoff : ((decide (255 < tec) && !c.busOff) = true) ↔ (c.busOff = false ∧ 255 < tec) := by
    rw [Bool.and_eq_true, decide_eq_true_iff, Bool.not_eq_true', and_comm]
  simp only [Can.counterCause, hwarn, hpassive, hoff, h1, h2]

/-! ### CAN_RECEIVE_ERROR (10 R312) -/

theorem exec_canReceiveError_deaf (h : (s.canPort n).listens = false) (exempt : Bool) : exec (.canReceiveError n exempt dom lec data) s = .next s :=
  answer_self rfl (if_pos (by rw [h]; rfl))

theorem exec_canReceiveError (h : (s.canPort n).listens = true) (exempt : Bool) : exec (.canReceiveError n exempt dom lec data) s =
    commit s ((s.upCanPort n (fun c => if data then { c with dlec := lec } else { c with lec := lec })).canCounters n (s.canPort n).txErr
      ((s.canPort n).rxErr + (if exempt then 0 else 1) + 8 * dom)) :=
  congrArg (commit s) (if_neg (by rw [h]; decide))

theorem listens_busOff (h : c.listens = true) : c.busOff = false := by
  simp only [Can.listens, Bool.and_eq_true, Bool.not_eq_true'] at h
  exact h.2

theorem canReceiveError_answer (hn : n < 8) (h : (s.canPort n).listens = true) {exempt : Bool} {d : Nat} (hc : c = s.canPort n) (hd : d = (if exempt then 0 else 1) + 8 * dom)
    {k1 k2 : Word} (h1 : k1 = (if 96 ≤ c.rxErr + d ∧ c.rxErr < 96 then setBit c.cause 2 true else c.cause))
    (h2 : k2 = (if c.txErr ≤ 127 ∧ c.rxErr ≤ 127 ∧ 127 < c.rxErr + d then setBit k1 1 true else k1)) :
    ∃ u, exec (.canReceiveError n exempt dom lec data) s = .next u ∧ Frame { can := true, evr := true } s u ∧ (∀ k, k ≠ n → u.canPort k = s.canPort k) ∧
      (c.txErr ≤ 255 → u.canPort n = { c with lec := if data then c.lec else lec, dlec := if data then lec else c.dlec, rxErr := min 255 (c.rxErr + d), cause := k2 }) := by
  subst hc
  have hexec := exec_canReceiveError (lec := lec) (dom := dom) (data := data) h exempt
  rw [Nat.add_assoc, ← hd] at hexec
  obtain ⟨hport, hothers⟩ := ((PortTo.refl s n).noted hn data lec).canCounters hn (s.canPort n).txErr ((s.canPort n).rxErr + d)
  refine ⟨_, hexec, (State.canCounters_keep (State.upCanPort_keep (Keep.refl s) n _) n _ _).frame.countEdges s, hothers, fun ht => hport.trans ?_⟩
  rw [h2]
  exact Can.counted_receive (c := (s.canPort n).noted data lec) (listens_busOff h) ht h1

/-! ### CAN_TX_ERROR (10 R306, R311, R312) -/

theorem attempts_used (tries retry : Nat) : decide (1 + retry ≤ tries + 1) = !decide (tries + 1 < 1 + retry) := by
  rw [← decide_not]
  exact decide_eq_decide.mpr Nat.not_lt.symm

/-- The port after an attempt of the frame of buffer `b` has ended. -/
def State.attemptOver (s : State) (n b : Nat) : State := (s.upCanPort n Can.freed).upBuf n b (fun y => { y with inTx := false })

/-- The port after an attempt has ended in an error that makes TEC `tec`. -/
def State.attemptFailed (s : State) (n b : Nat) (x : CanTx) (lec : Nat) (data : Bool) (tec : Nat) : State :=
  (((s.attemptOver n b).upCanPort n (fun c => if data then { c with dlec := lec } else { c with lec := lec })).upBuf n b
    (fun y => { y with queue := countTry x y.queue })).canCounters n tec (s.canPort n).rxErr

theorem exec_canTxError_none (h : (s.canPort n).current = none) (out : Bool) : exec (.canTxError n lec data out ack stuff dom) s = .next s := by
  refine answer_self rfl ?_
  dsimp only
  rw [h]

theorem exec_canTxError_lost (h : (s.canPort n).current = some (b, x)) : exec (.canTxError n lec data true ack stuff dom) s =
    commit s (if ((s.canPort n).buf b).abortReq then (s.attemptOver n b).canRemove n b x
      else if b = 64 then (s.attemptOver n b).upCanPort n (fun c => { c with refPending := c.window = some (0, 64) }) else s.attemptOver n b) := by
  show commit s (match (s.canPort n).current with | none => s | some (b, x) => _) = _
  rw [h]
  rfl

theorem exec_canTxError_failed (h : (s.canPort n).current = some (b, x))
    (ht : tec = (if stuff || (ack && decide (127 < (s.canPort n).txErr)) then (s.canPort n).txErr else (s.canPort n).txErr + 8) + 8 * dom) :
    exec (.canTxError n lec data false ack stuff dom) s =
      commit s (if b = 64 then (s.attemptFailed n b x lec data tec).upCanPort n (fun c => { c with refPending := c.window = some (0, 64) })
        else if ((s.canPort n).buf b).abortReq then (s.attemptFailed n b x lec data tec).canRemove n b x
        else if ((s.attemptFailed n b x lec data tec).canPort n).busOff || ((s.canPort n).buf b).unlim || decide (x.tries + 1 < 1 + ((s.canPort n).buf b).retry) then
          s.attemptFailed n b x lec data tec
        else (((s.attemptFailed n b x lec data tec).canRemove n b x).upBuf n b (fun y => { y with aborted := true })).canCause n 5 b) := by
  subst ht
  show commit s (match (s.canPort n).current with | none => s | some (b, x) => _) = _
  rw [h]
  rfl

theorem attemptOver_port (s : State) (hn : n < 8) (b : Nat) : PortTo n s (s.attemptOver n b)
    { (s.canPort n).freed with bufs := vup (s.canPort n).bufs b CanBuf.reset (fun y => { y with inTx := false }) } :=
  ((PortTo.refl s n).upCanPort hn _).upBuf hn b _

theorem attemptFailed_port (s : State) (hn : n < 8) (b : Nat) (x : CanTx) (lec : Nat) (data : Bool) (tec : Nat) : PortTo n s (s.attemptFailed n b x lec data tec)
    { ((s.canPort n).freed.noted data lec).counted tec (s.canPort n).rxErr with
      bufs := vup (s.canPort n).bufs b CanBuf.reset (fun y => { y with inTx := false, queue := countTry x y.queue }) } := by
  have h := ((((attemptOver_port s hn b).noted hn data lec).upBuf hn b (fun y => { y with queue := countTry x y.queue })).canCounters hn tec (s.canPort n).rxErr)
  simp only [Can.noted, vup_vup] at h
  exact h

/-- A frame that leaves its queue leaves its buffer neither in transmission nor aborted. -/
theorem PortTo.canRemove {u : State} (h : PortTo n s u c) (hn : n < 8) (b : Nat) (x : CanTx) : PortTo n s (u.canRemove n b x)
    { c with bufs := vup c.bufs b CanBuf.reset (fun y => { y with queue := leaveQueue x y.queue, inTx := false, abortReq := false }) } :=
  h.upBuf hn b _

theorem canTxError_lost_answer (hn : n < 8) (hc : c = s.canPort n) (h : c.current = some (b, x)) {y : CanBuf} (hy : y = c.buf b) {q : List CanTx}
    (hq : q = (if y.queue.head?.any (fun z => decide (z.stamp = x.stamp)) = true then y.queue.tail else y.queue)) :
    ∃ u, exec (.canTxError n lec data true ack stuff dom) s = .next u ∧ Frame { can := true, evr := true } s u ∧ (∀ k, k ≠ n → u.canPort k = s.canPort k) ∧
      u.canPort n = { c with current := none, idle := !(c.offBus || c.init), offBus := c.offBus || c.init, refPending := if b = 64 then decide (c.window = some (0, 64)) else c.refPending, bufs := vset c.bufs b { y with inTx := false, abortReq := false, queue := if y.abortReq then q else y.queue } } := by
  subst hc
  have hexec := exec_canTxError_lost (lec := lec) (data := data) (ack := ack) (stuff := stuff) (dom := dom) h
  refine PortTo.answer ?_ hexec (execCanTxError_keep n lec data true ack stuff dom hexec).frame
  rw [← hy]
  have hover := attemptOver_port s hn b
  by_cases hab : y.abortReq = true
  · have hb : b ≠ 64 := by
      rintro rfl
      rw [hy, buf_beyond _ (Nat.le_refl 64)] at hab
      cases hab
    have hleft := hover.canRemove hn b x
    simp only [vup_vup] at hleft
    rw [if_pos hab, if_neg hb, if_pos hab, hq, ← leaveQueue_eq, hy]
    exact hleft
  · have hbuf : { y with inTx := false, abortReq := false, queue := y.queue } = { y with inTx := false } := by rw [← Bool.eq_false_iff.mpr hab]
    rw [if_neg hab, if_neg hab, hbuf, hy]
    split
    · exact hover.upCanPort hn (fun c => { c with refPending := c.window = some (0, 64) })
    · exact hover

theorem canTxError_failed_answer (hn : n < 8) (hc : c = s.canPort n) (h : c.current = some (b, x)) {y : CanBuf} (hy : y = c.buf b) {q : List CanTx}
    (hq : q = (if y.queue.head?.any (fun z => decide (z.stamp = x.stamp)) = true then y.queue.tail else y.queue))
    (ht : tec = (if stuff || (ack && decide (127 < c.txErr)) then c.txErr else c.txErr + 8) + 8 * dom) {out : Bool} {k1 k2 k3 : Word}
    (hout : out = (decide (b ≠ 64) && !y.abortReq && !(c.busOff || decide (255 < tec)) && !y.unlim && decide (1 + y.retry ≤ x.tries + 1)))
    (h1 : k1 = (if 96 ≤ tec ∧ c.txErr < 96 then setBit c.cause 2 true else c.cause)) (h2 : k2 = (if c.errState = 0 ∧ 127 < tec then setBit k1 1 true else k1))
    (h3 : k3 = (if c.busOff = false ∧ 255 < tec then setBit k2 0 true else k2)) :
    ∃ u, exec (.canTxError n lec data false ack stuff dom) s = .next u ∧ Frame { can := true, evr := true } s u ∧ (∀ k, k ≠ n → u.canPort k = s.canPort k) ∧
      u.canPort n = { c with current := none, idle := !(c.offBus || c.init), offBus := c.offBus || c.init, lec := if data then c.lec else lec, dlec := if data then lec else c.dlec, txErr := min 255 tec, rxErr := min 255 c.rxErr, busOff := c.busOff || decide (255 < tec), recovering := c.recovering || (decide (255 < tec) && !c.busOff && c.ctrl.getLsbD 4), refPending := if b = 64 then decide (c.window = some (0, 64)) else c.refPending, cause := if out then setBit k3 5 true else k3, bufs := vset c.bufs b { y with inTx := false, abortReq := false, aborted := y.aborted || out, queue := if out || y.abortReq then q else if y.queue.head?.any (fun z => decide (z.stamp = x.stamp)) = true then (y.queue.take 1).map (fun z => { z with tries := z.tries + 1 }) ++ y.queue.tail else y.queue } } := by
  subst hc
  have hexec := exec_canTxError_failed (lec := lec) (data := data) h ht
  refine PortTo.answer ?_ hexec (execCanTxError_keep n lec data false ack stuff dom hexec).frame
  have hfailed := attemptFailed_port s hn b x lec data tec
  have hbusOff : ((s.attemptFailed n b x lec data tec).canPort n).busOff = ((s.canPort n).busOff || decide (255 < tec)) := congrArg Can.busOff hfailed.port
  have hcause : ((s.canPort n).freed.noted data lec).counterCause tec (s.canPort n).rxErr = k3 := h3 ▸ Can.counterCause_transmit h1 h2
  rw [Can.counted, hcause] at hfailed
  have hstays : out = (decide (b ≠ 64) && !y.abortReq && !(((s.canPort n).busOff || decide (255 < tec)) || y.unlim || decide (x.tries + 1 < 1 + y.retry))) := by
    rw [hout, attempts_used]
    simp only [Bool.not_or, Bool.and_assoc]
  rw [hbusOff, ← hy, ← countTry_eq, hq, ← leaveQueue_eq]
  generalize (((s.canPort n).busOff || decide (255 < tec)) || y.unlim || decide (x.tries + 1 < 1 + y.retry)) = stays at hstays ⊢
  cases hab : y.abortReq with
  | true =>
    have hb : b ≠ 64 := by
      rintro rfl
      rw [hy, buf_beyond _ (Nat.le_refl 64)] at hab
      cases hab
    obtain rfl : out = false := by rw [hstays, hab, Bool.not_true, Bool.and_false, Bool.false_and]
    have hleft := hfailed.canRemove hn b x
    simp only [vup_vup, leaveQueue_countTry] at hleft
    rw [if_neg hb, if_pos rfl, if_neg hb, Bool.or_false, hy]
    exact hleft
  | false =>
    cases out with
    | false =>
      have hbuf : { y with inTx := false, abortReq := false, aborted := y.aborted || false, queue := countTry x y.queue } = { y with inTx := false, queue := countTry x y.queue } := by
        rw [Bool.or_false, ← hab]
      simp only [Bool.false_eq_true, if_false, Bool.or_false] at hbuf ⊢
      rw [hbuf, hy]
      by_cases hb : b = 64
      · rw [if_pos hb, if_pos hb]
        exact hfailed.upCanPort hn (fun c => { c with refPending := c.window = some (0, 64) })
      · have hstay : stays = true := by simpa [hb, hab] using hstays
        rw [if_neg hb, if_neg hb, if_pos hstay]
        exact hfailed
    | true =>
      obtain ⟨hb, hgo⟩ : b ≠ 64 ∧ stays = false := by simpa [hab] using hstays
      have hout := ((hfailed.canRemove hn b x).upBuf hn b (fun y => { y with aborted := true })).canCause hn 5 b
      simp only [vup_vup, leaveQueue_countTry] at hout
      rw [if_neg hb, if_neg (by decide), if_neg (by rw [hgo]; decide), if_neg hb, if_pos rfl, Bool.true_or, if_pos rfl, Bool.or_true, hy]
      exact hout

/-! ### CANn_CTRL (10 R313, R317; 12 R364) -/

/-- What a command answers that is refused under the flag `f`. -/
theorem refused_answer {i : Instr} {addr f : Nat} (h : exec i s = commit s (s.accessFault m addr f)) (hf : f < 32) :
    ∃ u, exec i s = .next u ∧ u.host.fault.getLsbD f = true ∧ Frame { host := true, evr := true } s u :=
  ⟨_, h, accessFault_flag s m addr hf, (State.accessFault_keep (Keep.refl s) m addr f).frame.countEdges s⟩

theorem canCtrl_port (s : State) (hn : n < 8) (v : Word) : PortTo n s (s.canCtrl n v)
    { s.canPort n with
      ctrl := v &&& 0x1DF, offBus := (s.canPort n).offBus || (v.getLsbD 0 && (s.canPort n).current.isNone)
      idle := (s.canPort n).idle && !(v.getLsbD 0 && (s.canPort n).current.isNone), xcvr := (s.canPort n).xcvr || !v.getLsbD 0
      recovering := (s.canPort n).recovering || ((s.canPort n).busOff && v.getLsbD 5) } :=
  (PortTo.refl s n).upCanPort hn _

section
variable (hn : n < 8) (h : s.readReaches m (canAddr n 0x00C) = true)
include hn h

theorem ctrlWrite_done (hp : s.privOf m = true) (hwake : n = 0 ∨ v.getLsbD 8 = false) (href : v.getLsbD 6 = false ∨ (s.canPort n).gateEn 0 = true) :
    s.fabricWrite m (canAddr n 0x00C) v [] = s.canCtrl n v := by
  refine fabricWrite_can h hn (by decide) ?_
  have hlegal : ((decide (n = 0) || !v.getLsbD 8) && (!v.getLsbD 6 || (s.canPort n).gateEn 0)) = true := by simpa using ⟨hwake, href⟩
  show needPriv (s.privOf m) (needLegal ((decide (n = 0) || !v.getLsbD 8) && (!v.getLsbD 6 || (s.canPort n).gateEn 0)) _) = _
  rw [hp, hlegal]
  rfl

theorem ctrlWrite_unprivileged (hp : s.privOf m = false) (v : Word) : s.fabricWrite m (canAddr n 0x00C) v [] = s.accessFault m (canAddr n 0x00C) 3 := by
  refine fabricWrite_can_refused h hn (by decide) ?_
  rw [hp]
  rfl

theorem ctrlWrite_reserved (hp : s.privOf m = true) (hbad : n ≠ 0 ∧ v.getLsbD 8 = true ∨ v.getLsbD 6 = true ∧ (s.canPort n).gateEn 0 = false) :
    s.fabricWrite m (canAddr n 0x00C) v [] = s.accessFault m (canAddr n 0x00C) 5 := by
  refine fabricWrite_can_refused h hn (by decide) ?_
  have hlegal : ((decide (n = 0) || !v.getLsbD 8) && (!v.getLsbD 6 || (s.canPort n).gateEn 0)) = false := by
    rcases hbad with ⟨h0, h8⟩ | ⟨h6, hg⟩
    · simp [h0, h8]
    · simp [h6, hg]
  show needPriv (s.privOf m) (needLegal ((decide (n = 0) || !v.getLsbD 8) && (!v.getLsbD 6 || (s.canPort n).gateEn 0)) _) = _
  rw [hp, hlegal]
  rfl

end

/-- A command that writes `w` to CANn_CTRL is a write of that word. -/
theorem exec_canInitWrite (hn : n < 8) (m : Master) (v : Word) : exec (.canInitWrite m n v) s = commit s (s.fabricWrite m (canAddr n 0x00C) v []) :=
  congrArg (commit s) (if_pos hn)

theorem exec_canRecover (hn : n < 8) (m : Master) :
    exec (.canRecover m n) s = commit s (s.fabricWrite m (canAddr n 0x00C) ((s.canPort n).ctrl ||| 0x20#32) []) :=
  congrArg (commit s) (if_pos hn)

/-- RECOVER leaves every other bit of CANn_CTRL as it stands. -/
theorem recover_getLsbD (w : Word) {i : Nat} (hi : i ≠ 5) : (w ||| 0x20#32).getLsbD i = w.getLsbD i := by
  have h : (0x20#32).getLsbD i = false := by
    rw [show (0x20#32) = BitVec.twoPow 32 5 from by decide, BitVec.getLsbD_twoPow]
    simp [Ne.symm hi]
  rw [BitVec.getLsbD_or, h, Bool.or_false]

/-! ### Recovery and integration (10 R313, R317) -/

theorem exec_canRecoveryEnd_done (hoff : (s.canPort n).busOff = true) (hr : (s.canPort n).recovering = true) : exec (.canRecoveryEnd n) s =
    commit s ((s.upCanPort n (fun c => { c with busOff := false, recovering := false, txErr := 0, rxErr := 0 })).canCause n 3 0) :=
  congrArg (commit s) (if_pos (by rw [hoff, hr]; rfl))

theorem exec_canRecoveryEnd_none (h : (s.canPort n).busOff = false ∨ (s.canPort n).recovering = false) : exec (.canRecoveryEnd n) s = .next s :=
  answer_self rfl (if_neg (by rcases h with h | h <;> simp [h]))

theorem exec_canBusIntegration_done (hi : (s.canPort n).init = false) (hx : (s.canPort n).xcvr = true) :
    exec (.canBusIntegration n) s = commit s (s.upCanPort n (fun c => { c with offBus := false, idle := true })) :=
  congrArg (commit s) (if_neg (by rw [hi, hx]; decide))

theorem exec_canBusIntegration_none (h : (s.canPort n).init = true ∨ (s.canPort n).xcvr = false) : exec (.canBusIntegration n) s = .next s :=
  answer_self rfl (if_pos (by rcases h with h | h <;> simp [h]))

/-! ### The statement -/

/-- Settles O23: the errors by the counters that they leave, CANn_CTRL by the checks of its write, recovery and integration as updates of the port. -/
theorem canErrorsAndBusState : Obligations.CanErrorsAndBusState := by
  intro s m n lec b d tec dom exempt data ack stuff out v w k1 k2 k3 c y x q hn hc
  refine ⟨fun h hd h1 h2 => canReceiveError_answer hn (hc ▸ h) hc hd h1 h2, fun h => exec_canReceiveError_deaf (hc ▸ h) exempt, fun h => exec_canTxError_none (hc ▸ h) out,
    fun h hy hq => ⟨canTxError_lost_answer hn hc h hy hq, fun ht hout h1 h2 h3 => canTxError_failed_answer hn hc h hy hq ht hout h1 h2 h3⟩, fun h => ?_, fun hoff hr => ?_,
    fun h => exec_canRecoveryEnd_none (hc ▸ h), fun hi hx => ?_, fun h => exec_canBusIntegration_none (hc ▸ h)⟩
  all_goals subst hc
  · refine ⟨fun hp hwake href => ?_, fun hp => ?_, fun hp hbad => ?_, fun hw hp hwake href => ?_, fun hp => ?_⟩
    · have hexec := exec_canInitWrite (s := s) hn m v
      rw [ctrlWrite_done hn h hp hwake href] at hexec
      exact (canCtrl_port s hn v).answer hexec ((State.canCtrl_keep (Keep.refl s) n v).frame.countEdges s)
    · exact refused_answer ((exec_canInitWrite hn m v).trans (congrArg (commit s) (ctrlWrite_unprivileged hn h hp v))) (by decide)
    · exact refused_answer ((exec_canInitWrite hn m v).trans (congrArg (commit s) (ctrlWrite_reserved hn h hp hbad))) (by decide)
    · have hexec := exec_canRecover (s := s) hn m
      rw [← hw, ctrlWrite_done hn h hp (by rwa [hw, recover_getLsbD _ (by decide)]) (by rwa [hw, recover_getLsbD _ (by decide)])] at hexec
      have hport := canCtrl_port s hn w
      have h5 : w.getLsbD 5 = true := by rw [hw, BitVec.getLsbD_or, Bool.or_eq_true]; exact .inr (by decide)
      rw [h5, Bool.and_true, show w.getLsbD 0 = (s.canPort n).ctrl.getLsbD 0 by rw [hw, recover_getLsbD _ (by decide)]] at hport
      exact hport.answer hexec ((State.canCtrl_keep (Keep.refl s) n w).frame.countEdges s)
    · exact refused_answer ((exec_canRecover hn m).trans (congrArg (commit s) (ctrlWrite_unprivileged hn h hp _))) (by decide)
  · exact (((PortTo.refl s n).upCanPort hn _).canCause hn 3 0).answer (exec_canRecoveryEnd_done hoff hr)
      ((State.canCause_keep (State.upCanPort_keep (Keep.refl s) n _) n 3 0).frame.countEdges s)
  · exact ((PortTo.refl s n).upCanPort hn _).answer (exec_canBusIntegration_done hi hx) ((State.upCanPort_keep (Keep.refl s) n _).frame.countEdges s)

end Sys2Proof.Machine
end

section
/-! PROOFS. Transmission at a CAN port (10 R306, R310, R311, R314 to R316, 11 R343): requests and aborts, the frame that a port offers, its start and its end, and the windows of the gate matrix. The value that TDCV takes is log 60, and that the segments of a unit wait for buffer 63 is log 29: both are the model's choice. -/

set_option Elab.async false

namespace Sys2Proof.Machine

open Sys2Proof

variable {s : State} {m : Master} {n t b g k : Nat} {v : Word} {c p : Can} {x z h : CanTx} {l : List CanTx}

/-! ### Requests and aborts (10 R306, R316) -/

theorem exec_canTxreq (hn : n < 8) (hr : s.readReaches m (canAddr n 0x03C) = true) (v : Word) :
    exec (.canTxreq m n v) s = commit s (s.canTxReq n (wfield v 5 0)) :=
  congrArg (commit s) ((if_pos hn).trans (fabricWrite_can hr hn (by decide) rfl))

theorem exec_canTxabort (hn : n < 8) (hr : s.readReaches m (canAddr n 0x040) = true) (v : Word) :
    exec (.canTxabort m n v) s = commit s (s.canTxAbort n (wfield v 5 0)) :=
  congrArg (commit s) ((if_pos hn).trans (fabricWrite_can hr hn (by decide) rfl))

theorem canTxReq_discarded (hrole : s.csw.role = .standby ∨ s.csw.role = .syncing) (n b : Nat) : s.canTxReq n b = s.canCause n 12 b := if_pos hrole

section
variable (h1 : s.csw.role ≠ .standby) (h2 : s.csw.role ≠ .syncing)
include h1 h2

theorem canTxReq_ignored (hbuf : ((s.canPort n).buf b).dir ≠ 2 ∨ ((s.canPort n).buf b).owner ≠ 0) : s.canTxReq n b = s :=
  (if_neg (not_or.mpr ⟨h1, h2⟩)).trans (if_pos hbuf)

theorem canTxReq_queued (hdir : ((s.canPort n).buf b).dir = 2) (ho : ((s.canPort n).buf b).owner = 0) :
    s.canTxReq n b = s.canQueue n b (canFrame ((s.canPort n).buf b).frame 0 64) false :=
  (if_neg (not_or.mpr ⟨h1, h2⟩)).trans (if_neg (not_or.mpr ⟨not_not_intro hdir, not_not_intro ho⟩))

end

/-- A port with the frame `f` queued at the end of buffer `b`. -/
def Can.enqueue (c : Can) (b : Nat) (f : List Word) : Can :=
  { c with stamp := c.stamp + 1, bufs := vup c.bufs b CanBuf.reset (fun x => { x with queue := x.queue ++ [⟨f, c.stamp, 0, false⟩] }) }

theorem enqueue_queue (c : Can) (hb : b < 64) (f : List Word) : ((c.enqueue b f).buf b).queue = (c.buf b).queue ++ [⟨f, c.stamp, 0, false⟩] :=
  congrArg CanBuf.queue (vget_vup_same hb _ _)

section
variable {u : State} (hp : PortTo n s u p) (hroom : (p.buf b).queue.length < 4)
include hp hroom

theorem PortTo.canQueue (hn : n < 8) (f : List Word) (drop : Bool) : PortTo n s (u.canQueue n b f drop) (p.enqueue b f) :=
  ⟨by rw [canQueue_port u hn, hp.port, if_pos hroom, Can.enqueue], fun j hj => (canQueue_other u hj b f drop).trans (hp.others j hj)⟩

/-- A frame that finds room is recorded nowhere. -/
theorem PortTo.canQueue_keep {L : Parts} {o : State} (hk : Keep L o u) (hl : L.can = true) (f : List Word) (drop : Bool) : Keep L o (u.canQueue n b f drop) := by
  unfold State.canQueue
  dsimp only
  rw [hp.port, if_pos hroom]
  exact State.upBuf_keep (State.upCanPort_keep hk n _) n b _

end

theorem canQueue_full (hfull : 4 ≤ ((s.canPort n).buf b).queue.length) (f : List Word) : s.canQueue n b f false = s.canCause n 7 b :=
  if_neg (Nat.not_lt.mpr hfull)

theorem sending_eq (c : Can) (b : Nat) : c.sending b = c.current.any (fun q => decide (q.1 = b)) := by
  unfold Can.sending
  cases c.current <;> rfl

/-! ### The frame that a port offers (10 R310) -/

theorem CanTx.before_iff (x y : CanTx) : x.before y = true ↔ arbKey x.words < arbKey y.words ∨ arbKey x.words = arbKey y.words ∧ x.stamp < y.stamp := by
  simp [CanTx.before]

theorem bestHead_mem : ∀ {l : List (Nat × CanTx)} {q : Nat × CanTx}, bestHead l = some q → q ∈ l
  | [], _, h => by cases h
  | x :: t, q, h => by
    unfold bestHead at h
    cases hb : bestHead t with
    | none =>
      rw [hb] at h
      cases h
      exact List.mem_cons_self ..
    | some y =>
      rw [hb] at h
      dsimp only at h
      split at h <;> cases h
      · exact List.mem_cons_of_mem x (bestHead_mem hb)
      · exact List.mem_cons_self ..

theorem bestHead_none : ∀ {l : List (Nat × CanTx)}, bestHead l = none → l = []
  | [], _ => rfl
  | x :: t, h => by
    unfold bestHead at h
    cases hb : bestHead t with
    | none => rw [hb] at h; cases h
    | some y => rw [hb] at h; dsimp only at h; split at h <;> cases h

/-- No head goes before the best: the order by priority and stamp is total. -/
theorem bestHead_least : ∀ {l : List (Nat × CanTx)} {q : Nat × CanTx}, bestHead l = some q → ∀ r ∈ l, ¬ r.2.before q.2 = true
  | [], _, h => by cases h
  | x :: t, q, h => by
    unfold bestHead at h
    cases hb : bestHead t with
    | none =>
      rw [hb] at h
      cases h
      rw [bestHead_none hb]
      intro r hr
      rw [List.mem_singleton.mp hr, CanTx.before_iff]
      omega
    | some y =>
      rw [hb] at h
      dsimp only at h
      have hrest := bestHead_least hb
      simp only [CanTx.before_iff] at hrest h ⊢
      split at h
      all_goals
        next hyx =>
        cases h
        intro r hr
        rcases List.mem_cons.mp hr with rfl | hr
        · omega
        · have := hrest r hr
          omega

/-- Outside a window the port offers the best of the event-mode and late heads. -/
theorem canOffer_event (h : (s.canPort n).window = none ∨ s.gateActive n = false) :
    s.canOffer n = bestHead ((s.canPort n).heads.filter (fun q => !((s.canPort n).buf q.1).gate || q.2.late)) := by
  unfold State.canOffer
  dsimp only
  rcases h with h | h
  · rw [h]
    split <;> rfl
  · rw [h]
    rfl

/-- In the window of a gate whose frame is pending the port offers for that frame. -/
theorem canOffer_gate (ha : s.gateActive n = true) (hw : (s.canPort n).window = some (g, b)) (hr : (s.canPort n).refPending = false)
    (hz : (s.canPort n).gateFrame b = some z) (hq : ((s.canPort n).buf b).queue = h :: l) :
    s.canOffer n = some ((s.canPort n).offerGate (b, z) (b, h)) := by
  unfold State.canOffer
  dsimp only
  rw [ha, hw]
  dsimp only
  rw [hr, hz, hq]
  rfl

/-- The head goes unless a frame of the same identifier was queued earlier in another buffer. -/
theorem offerGate_head (hno : ∀ q ∈ c.heads, q.1 ≠ b → sameId q.2 z = true → z.stamp ≤ q.2.stamp) : c.offerGate (b, z) (b, h) = (b, h) := by
  have hnone : c.heads.filter (fun k => decide (k.1 ≠ b) && sameId k.2 z && decide (k.2.stamp < z.stamp)) = [] := by
    refine List.filter_eq_nil_iff.mpr (fun q hq => ?_)
    simp only [Bool.and_eq_true, decide_eq_true_iff]
    rintro ⟨⟨hb, hid⟩, hlt⟩
    exact absurd (hno q hq hb hid) (by omega)
  unfold Can.offerGate
  rw [hnone]
  rfl

/-- A frame of the same identifier that was queued earlier in another buffer keeps the head back. -/
theorem offerGate_earlier {q : Nat × CanTx} (hq : q ∈ c.heads) (hb : q.1 ≠ b) (hid : sameId q.2 z = true) (hlt : q.2.stamp < z.stamp) :
    c.offerGate (b, z) (b, h) ∈ c.heads ∧ sameId (c.offerGate (b, z) (b, h)).2 z = true ∧ (c.offerGate (b, z) (b, h)).2.stamp < z.stamp := by
  have hmem : q ∈ c.heads.filter (fun k => decide (k.1 ≠ b) && sameId k.2 z && decide (k.2.stamp < z.stamp)) := by
    simp [hq, hb, hid, hlt]
  unfold Can.offerGate
  cases hbest : bestHead (c.heads.filter (fun k => decide (k.1 ≠ b) && sameId k.2 z && decide (k.2.stamp < z.stamp))) with
  | none =>
    rw [bestHead_none hbest] at hmem
    cases hmem
  | some r =>
    have hr := bestHead_mem hbest
    simp only [List.mem_filter, Bool.and_eq_true, decide_eq_true_iff] at hr
    obtain ⟨hheads, ⟨-, hsame⟩, hstamp⟩ := hr
    exact ⟨hheads, hsame, hstamp⟩

/-! ### CAN_TX_START (10 R310, R314, R316) -/

theorem canStart_idle (h : (s.canPort n).offBus = true ∨ (s.canPort n).init = true ∨ (s.canPort n).busOff = true ∨ s.romActive n = true ∨
    (s.canPort n).current.isSome = true ∨ s.canOffer n = none) : s.canStart n = s := by
  unfold State.canStart
  dsimp only
  split
  · rfl
  · next hgo =>
    simp only [Bool.or_eq_true, not_or] at hgo
    have hoffer : s.canOffer n = none := by tauto
    rw [hoffer]

theorem canStart_offered {mine : Bool} (h1 : (s.canPort n).offBus = false) (h2 : (s.canPort n).init = false) (h3 : (s.canPort n).busOff = false)
    (h4 : s.romActive n = false) (h5 : (s.canPort n).current = none) (ho : s.canOffer n = some (b, x))
    (hm : mine = ((s.canPort n).window.any (fun w => decide (w.2 = b)) && !x.late)) :
    s.canStart n = (s.upCanPort n (fun c => { c with
      current := some (b, x), idle := false, winStarted := c.winStarted || (mine && !c.refPending)
      refPending := c.refPending && decide (b ≠ 64) })).upBuf n b (fun y => { y with inTx := true, late := x.late, missed := y.missed && !mine }) := by
  subst hm
  unfold State.canStart
  dsimp only
  rw [if_neg (by simp [h1, h2, h3, h4, h5]), ho]
  cases (s.canPort n).window <;> rfl

/-! ### CAN_TX_END (10 R306, R310, 11 R343) -/

/-- Frames as they enter a queue, with stamps from `i` on. -/
def queuedFrames (fs : List (List Word)) (i : Nat) : List CanTx := (fs.zipIdx i).map (fun q => ⟨q.1, q.2, 0, false⟩)

section
variable {L : Parts} {o : State} (hn : n < 8) (hl : L.can = true)
include hn hl

/-- As many frames as a buffer has room for enter its queue one after another, and none is dropped. -/
theorem canQueue_foldl (hb : b < 64) (s : State) : ∀ (fs : List (List Word)) {u : State} {p : Can}, PortTo n s u p → Keep L o u → fs.length ≤ 4 - (p.buf b).queue.length →
    PortTo n s (fs.foldl (fun acc f => acc.canQueue n b f false) u)
      { p with stamp := p.stamp + fs.length, bufs := vup p.bufs b CanBuf.reset (fun y => { y with queue := y.queue ++ queuedFrames fs p.stamp }) } ∧
    Keep L o (fs.foldl (fun acc f => acc.canQueue n b f false) u)
  | [], u, p, hp, hk, _ => by
    refine ⟨?_, hk⟩
    rw [vup_self _ _ _ _ (by simp [queuedFrames])]
    exact hp
  | f :: fs, u, p, hp, hk, hroom => by
    rw [List.length_cons] at hroom
    have hone : (p.buf b).queue.length < 4 := by omega
    obtain ⟨hport, hkeep⟩ := canQueue_foldl hb s fs (hp.canQueue hone hn f false) (hp.canQueue_keep hone hk hl f false) (by
      rw [enqueue_queue p hb, List.length_append, List.length_singleton]
      omega)
    refine ⟨?_, hkeep⟩
    simp only [Can.enqueue, vup_vup, List.append_assoc, List.singleton_append] at hport
    rw [List.length_cons, Nat.add_comm fs.length 1, ← Nat.add_assoc]
    exact hport

/-- Waiting segments enter buffer 63 as far as it has room. -/
theorem feedKv_port {u : State} (hp : PortTo n s u p) (hk : Keep L o u) : PortTo n s (u.feedKv n)
    { p with
      kvOut := p.kvOut.drop (4 - (p.buf 63).queue.length), stamp := p.stamp + min (4 - (p.buf 63).queue.length) p.kvOut.length
      bufs := vup p.bufs 63 CanBuf.reset (fun y => { y with queue := y.queue ++ queuedFrames (p.kvOut.take (4 - (p.buf 63).queue.length)) p.stamp }) } ∧
    Keep L o (u.feedKv n) := by
  unfold State.feedKv
  dsimp only
  rw [hp.port, ← List.length_take]
  exact canQueue_foldl hn hl (by decide) s _ (hp.upCanPort hn (fun c => { c with kvOut := c.kvOut.drop (4 - (p.buf 63).queue.length) })) (State.upCanPort_keep hk n _)
    (List.length_take_le ..)

end

theorem PortTo.measureLoop {u : State} (hp : PortTo n s u p) (hn : n < 8) (x : CanTx) : PortTo n s (u.measureLoop n x)
    { p with tdc := if (frameWord x.words 1).getLsbD 4 && (frameWord x.words 1).getLsbD 5 && p.tdc.getLsbD 0 then
        mixWord p.tdc 0x007F0000 (w32 (2 ^ 16 * (Config.loopDelay u.free n % 128))) else p.tdc } := by
  unfold State.measureLoop
  dsimp only
  rw [hp.port]
  by_cases hc : ((frameWord x.words 1).getLsbD 4 && (frameWord x.words 1).getLsbD 5 && p.tdc.getLsbD 0) = true
  · rw [if_pos hc, if_pos hc]
    exact (hp.of_can (v := u.useFree) rfl).upCanPort hn _
  · rw [if_neg hc, if_neg hc]
    exact hp

theorem measureLoop_net (s : State) (n : Nat) (x : CanTx) : (s.measureLoop n x).net = s.net := by
  unfold State.measureLoop
  dsimp only
  split <;> rfl

/-- The port when the frame `x` of buffer `b` has been sent, before waiting segments enter buffer 63. -/
def State.frameSent (s : State) (n b : Nat) (x : CanTx) : State :=
  ((((s.canRemove n b x).upCanPort n (fun c => { c.freed with txErr := c.txErr - 1 })).measureLoop n x).upBuf n b (fun y => { y with aborted := false })).send
    (.can n (shownWords x.words))

theorem exec_canTxEnd_none (h : (s.canPort n).current = none) (t : Nat) : exec (.canTxEnd n t) s = commit s (s.reach t) := by
  show commit s (match (s.canPort n).current with | none => s.reach t | some (b, x) => _) = _
  rw [h]

theorem exec_canTxEnd_sent (h : (s.canPort n).current = some (b, x)) (t : Nat) : exec (.canTxEnd n t) s = commit s (((s.reach t).frameSent n b x).feedKv n) := by
  show commit s (match (s.canPort n).current with | none => s.reach t | some (b, x) => _) = _
  rw [h]
  rfl

theorem PortTo.frameSent {u : State} (hp : PortTo n s u p) (hn : n < 8) (b : Nat) (x : CanTx) : ∃ d, PortTo n s (u.frameSent n b x)
    { p.freed with
      txErr := p.txErr - 1
      tdc := if (frameWord x.words 1).getLsbD 4 && (frameWord x.words 1).getLsbD 5 && p.tdc.getLsbD 0 then
        mixWord p.tdc 0x007F0000 (w32 (2 ^ 16 * (d % 128))) else p.tdc
      bufs := vup p.bufs b CanBuf.reset (fun y => { y with queue := leaveQueue x y.queue, inTx := false, abortReq := false, aborted := false }) } := by
  have hremoved := (hp.canRemove hn b x).upCanPort hn (fun c => { c.freed with txErr := c.txErr - 1 })
  have hsent := ((hremoved.measureLoop hn x).upBuf hn b (fun y => { y with aborted := false })).of_can (v := u.frameSent n b x) rfl
  simp only [Can.freed, vup_vup] at hsent
  exact ⟨_, hsent⟩

theorem frameSent_net (s : State) (n b : Nat) (x : CanTx) : (s.frameSent n b x).net = { s.net with sent := .can n (shownWords x.words) :: s.net.sent } :=
  congrArg (fun w : Net => { w with sent := .can n (shownWords x.words) :: w.sent }) (measureLoop_net _ n x)

theorem frameSent_keep {L : Parts} {o : State} (hk : Keep L o s) (n b : Nat) (x : CanTx) (hc : L.can = true) (hnet : L.net = true) (hf : L.free = true) : Keep L o (s.frameSent n b x) :=
  State.send_keep (State.upBuf_keep (State.measureLoop_keep (State.upCanPort_keep (State.canRemove_keep hk n b x) n _) n x) n b _) _

/-- What CAN_TX_END answers on a port that is sending. -/
theorem canTxEnd_answer (hn : n < 8) (hc : c = s.canPort n) (h : c.current = some (b, x))
    (hp : p = { c with current := none, idle := !(c.offBus || c.init), offBus := c.offBus || c.init, txErr := c.txErr - 1, bufs := vup c.bufs b CanBuf.reset (fun y => { y with queue := if y.queue.head?.any (fun q => decide (q.stamp = x.stamp)) = true then y.queue.tail else y.queue, inTx := false, abortReq := false, aborted := false }) })
    (hk : k = 4 - (p.buf 63).queue.length) : ∃ u d, exec (.canTxEnd n t) s = .next u ∧ (∀ j, j ≠ n → u.canPort j = s.canPort j) ∧ u.net = { s.net with sent := .can n (shownWords x.words) :: s.net.sent } ∧ Frame { clk := true, can := true, net := true, free := true } s u ∧
      u.canPort n = { p with tdc := (if (frameWord x.words 1).getLsbD 4 && (frameWord x.words 1).getLsbD 5 && c.tdc.getLsbD 0 then mixWord c.tdc 0x007F0000 (w32 (2 ^ 16 * (d % 128))) else c.tdc), kvOut := c.kvOut.drop k, stamp := c.stamp + min k c.kvOut.length, bufs := vup p.bufs 63 CanBuf.reset (fun y => { y with queue := y.queue ++ ((c.kvOut.take k).zipIdx c.stamp).map (fun q => ⟨q.1, q.2, 0, false⟩) }) } := by
  subst hc hk
  simp only [← leaveQueue_eq] at hp
  have hexec := exec_canTxEnd_sent h t
  obtain ⟨d, hsent⟩ := ((PortTo.refl s n).reach t).frameSent hn b x
  have hkeep : Keep { clk := true, can := true, net := true, free := true } s ((s.reach t).frameSent n b x) :=
    frameSent_keep (State.reach_keep (Keep.refl s) t) n b x rfl rfl rfl
  obtain ⟨hport, hfed⟩ := feedKv_port hn rfl hsent hkeep
  have hnet := (feedKv_port (L := { can := true }) hn rfl hsent (Keep.refl _)).2.frame.net rfl
  refine ⟨_, d, hexec, fun j hj => (countEdges_port s _ j).trans (hport.others j hj), ?_, hfed.frame.countEdges s, ?_⟩
  · rw [countEdges_net, hnet, frameSent_net]
    rfl
  · rw [countEdges_port, hport.port]
    subst hp
    rfl

/-! ### Gate windows (10 R315) -/

/-- A port whose window has closed. -/
def Can.shut (c : Can) : Can := { c with window := none, refPending := false, winStarted := false }

/-- A port that has counted a missed frame. -/
def Can.countMissed (c : Can) : Can := { c with missed := sat32 c.missed, cause := setBit c.cause 4 true }

/-- A port whose gate's frame `z` of buffer `b` has left the window, dropped or as a late frame. -/
def Can.missGate (c : Can) (b : Nat) (z : CanTx) : Can :=
  { c with stamp := c.stamp + 1, bufs := vup c.bufs b CanBuf.reset (fun y => { y with missed := true, queue := missFrame z y.lateOk c.stamp y.queue }) }

/-- A port after its open window, if any, has closed. -/
def Can.closed (c : Can) : Can :=
  match c.window with
  | none => c
  | some (_, b) =>
    if c.refPending then c.countMissed.shut
    else if c.winStarted ∨ b = 64 then c.shut
    else match c.gateFrame b with
      | none => c.shut
      | some z => (c.missGate b z).countMissed.shut

theorem gateClose_port (s : State) (hn : n < 8) : PortTo n s (s.gateClose n) (s.canPort n).closed := by
  have hrefl := PortTo.refl s n
  unfold State.gateClose Can.closed
  dsimp only
  cases (s.canPort n).window with
  | none => exact hrefl
  | some w =>
    obtain ⟨g, b⟩ := w
    dsimp only
    split
    · exact ((hrefl.upCanPort hn _).canCause hn 4 0).upCanPort hn Can.shut
    · split
      · exact hrefl.upCanPort hn Can.shut
      · cases (s.canPort n).gateFrame b with
        | none => exact hrefl.upCanPort hn Can.shut
        | some z => exact ((((hrefl.upCanPort hn _).upBuf hn b _).upCanPort hn _).canCause hn 4 b).upCanPort hn Can.shut

/-- Without REF_EN, or at another gate than 0, a window is that of a cell. -/
theorem refWindow_eq_false (h : g ≠ 0 ∨ c.ctrl.getLsbD 6 = false) : (decide (g = 0) && c.ctrl.getLsbD 6) = false := by
  rcases h with h0 | h6
  · rw [decide_eq_false h0, Bool.false_and]
  · rw [h6, Bool.and_false]

theorem gateOpen_none (h : s.gateActive n = false ∨ (s.canPort n).gateEn g = false ∨
    (g ≠ 0 ∨ (s.canPort n).ctrl.getLsbD 6 = false) ∧ (s.canPort n).cell g (s.clk.beat % 16) = none) : s.gateOpen n g = s := by
  unfold State.gateOpen
  dsimp only
  split
  · rfl
  · next hgo =>
    simp only [Bool.or_eq_true, Bool.not_eq_true', not_or] at hgo
    obtain ⟨href, hcell⟩ := (h.resolve_left hgo.1).resolve_left hgo.2
    rw [refWindow_eq_false href, hcell]
    rfl

section
variable (ha : s.gateActive n = true) (he : (s.canPort n).gateEn g = true)
include ha he

/-- With REF_EN the window of gate 0 is that of the reference frame. -/
theorem gateOpen_ref (h0 : g = 0) (h6 : (s.canPort n).ctrl.getLsbD 6 = true) : s.gateOpen n g = (s.gateClose n).upCanPort n
    (fun c => { c with window := some (g, 64), winStarted := false, refPending := true, refStamp := c.stamp, stamp := c.stamp + 1 }) := by
  subst h0
  unfold State.gateOpen
  dsimp only
  rw [ha, he, h6]
  rfl

theorem gateOpen_cell (href : g ≠ 0 ∨ (s.canPort n).ctrl.getLsbD 6 = false) (hcell : (s.canPort n).cell g (s.clk.beat % 16) = some b) :
    s.gateOpen n g = (s.gateClose n).upCanPort n (fun c => { c with window := some (g, b), winStarted := false, refPending := false }) := by
  unfold State.gateOpen
  dsimp only
  rw [ha, he, refWindow_eq_false href, hcell]
  rfl

end

/-- What GATE_WINDOW_CLOSE leaves of a port, case by case. -/
theorem closed_eq (hnone : c.window = none → p = c) (hopen : ∀ w, c.window = some w →
    (c.refPending = true → p = c.countMissed.shut) ∧
    (c.refPending = false → c.winStarted = true ∨ w.2 = 64 ∨ c.gateFrame w.2 = none → p = c.shut) ∧
    (c.refPending = false → c.winStarted = false → w.2 ≠ 64 → ∀ z, c.gateFrame w.2 = some z → p = (c.missGate w.2 z).countMissed.shut)) : p = c.closed := by
  unfold Can.closed
  cases hw : c.window with
  | none => exact hnone hw
  | some w =>
    obtain ⟨href, hshut, hmissed⟩ := hopen w hw
    obtain ⟨g, b⟩ := w
    dsimp only
    split
    · next h => exact href h
    · next h =>
      rw [Bool.not_eq_true] at h
      split
      · next hs => exact hshut h (hs.imp_right .inl)
      · next hs =>
        obtain ⟨hstarted, hb⟩ := not_or.mp hs
        cases hz : c.gateFrame b with
        | none => exact hshut h (.inr (.inr hz))
        | some z => exact hmissed h (Bool.not_eq_true _ ▸ hstarted) hb z hz

/-! ### The statement -/

/-- Settles O24: the queues as updates of their port, the offer by the order of the heads, and the windows by the port that a close leaves. -/
theorem canTransmitQueuesAndGateWindows : Obligations.CanTransmitQueuesAndGateWindows := by
  intro s m n b t g b0 k v c p r y x z h l hn hc hb hy
  subst hc hy
  have hreach : PortTo n s (s.reach t) (s.canPort n) := (PortTo.refl s n).reach t
  refine ⟨fun hr => ?_, fun hr => ?_, fun hidle => ?_, fun h1 h2 h3 h4 h5 ho => ?_, fun hw => ?_, fun ha hw href hz hq => ?_, fun hcur => ?_, fun hcur hp hk => ?_,
    fun hnone hopen => ?_⟩
  · have hexec := exec_canTxreq hn hr v
    rw [← hb] at hexec
    refine ⟨fun hrole => ?_, fun h1 h2 => ⟨fun hbuf => ?_, fun hdir ho hroom => ?_, fun hdir ho hfull => ?_⟩⟩
    · rw [canTxReq_discarded hrole] at hexec
      exact ((PortTo.refl s n).canCause hn 12 b).answer_port hexec ((State.canCause_keep (Keep.refl s) n 12 b).frame.countEdges s)
    · exact answer_self hexec (canTxReq_ignored h1 h2 hbuf)
    · rw [canTxReq_queued h1 h2 hdir ho] at hexec
      exact ((PortTo.refl s n).canQueue hroom hn _ false).answer_port hexec (((PortTo.refl s n).canQueue_keep hroom (Keep.refl s) rfl _ false).frame.countEdges s)
    · rw [canTxReq_queued h1 h2 hdir ho, canQueue_full hfull] at hexec
      exact ((PortTo.refl s n).canCause hn 7 b).answer_port hexec ((State.canCause_keep (Keep.refl s) n 7 b).frame.countEdges s)
  · have hexec := exec_canTxabort hn hr v
    rw [← hb, State.canTxAbort, sending_eq] at hexec
    exact ((PortTo.refl s n).upBuf hn b _).answer_port hexec ((State.upBuf_keep (Keep.refl s) n b _).frame.countEdges s)
  · exact answer_reach (c := .canTxStart n t) (congrArg (commit s) (canStart_idle (s := s.reach t) hidle))
  · have hexec : exec (.canTxStart n t) s = commit s _ := congrArg (commit s) (canStart_offered (s := s.reach t) h1 h2 h3 h4 h5 ho rfl)
    obtain ⟨u, hu, hport, hothers, hframe⟩ := ((hreach.upCanPort hn _).upBuf hn b0 _).answer_port hexec
      ((State.upBuf_keep (L := { clk := true, can := true }) (State.upCanPort_keep (State.reach_keep (Keep.refl s) t) n _) n b0 _).frame.countEdges s)
    exact ⟨u, _, hu, rfl, hport, hothers, hframe⟩
  · rw [canOffer_event hw]
    refine ⟨fun ho q hq => ?_, fun ho => ?_⟩
    · simpa using List.filter_eq_nil_iff.mp (bestHead_none ho) q hq
    · have hmem := bestHead_mem ho
      have hleast := bestHead_least ho
      simp only [List.mem_filter, Bool.or_eq_true, Bool.not_eq_true', CanTx.before_iff] at hmem hleast
      exact ⟨hmem.1, hmem.2, fun q hq hfree => hleast q ⟨hq, hfree⟩⟩
  · rw [canOffer_gate ha hw href hz hq]
    exact ⟨rfl, fun hno => congrArg some (offerGate_head hno), fun q hq hne hid hlt => ⟨_, rfl, offerGate_earlier hq hne hid hlt⟩⟩
  · exact answer_reach (exec_canTxEnd_none hcur t)
  · exact canTxEnd_answer hn rfl hcur hp hk
  · have hclosed : p = (s.canPort n).closed := closed_eq hnone hopen
    have hclose : PortTo n s ((s.reach t).gateClose n) p := by
      obtain ⟨hport, hothers⟩ := gateClose_port (s.reach t) hn
      exact ⟨hport.trans hclosed.symm, hothers⟩
    have hkeep : Keep { clk := true, can := true, evr := true } s ((s.reach t).gateClose n) := State.gateClose_keep (State.reach_keep (Keep.refl s) t) n
    refine ⟨hclose.answer_port (i := .gateWindowClose n t) rfl (hkeep.frame.countEdges s), fun ha he href hcell => ?_, fun hno => ?_⟩
    · by_cases h06 : g = 0 ∧ (s.canPort n).ctrl.getLsbD 6 = true
      · obtain ⟨rfl, rfl⟩ := href h06
        exact (hclose.upCanPort hn _).answer_port (i := .gateWindowOpen n g t) (congrArg (commit s) (gateOpen_ref (s := s.reach t) ha he h06.1 h06.2))
          ((State.upCanPort_keep hkeep n _).frame.countEdges s)
      · have hcellWindow : g ≠ 0 ∨ (s.canPort n).ctrl.getLsbD 6 = false := (not_and_or.mp h06).imp_right Bool.eq_false_iff.mpr
        obtain ⟨hc, rfl⟩ := hcell hcellWindow
        exact (hclose.upCanPort hn _).answer_port (i := .gateWindowOpen n g t) (congrArg (commit s) (gateOpen_cell (s := s.reach t) ha he hcellWindow hc))
          ((State.upCanPort_keep hkeep n _).frame.countEdges s)
    · exact answer_reach (c := .gateWindowOpen n g t) (congrArg (commit s) (gateOpen_none (s := s.reach t) hno))

end Sys2Proof.Machine
end

section
/-! PROOFS. The state after a device reset, and fuses (11 R347, 12 R375, 13 R403, 17 R486): reset leaves a regular state, and no step restores a blown fuse. -/

namespace Sys2Proof.Machine

open Sys2Proof

/-- A blown fuse stays blown wherever no operation breaks the guard. -/
theorem Guard.fuse {o s : State} (h : Guard o s) {i : Nat} (hi : o.dict.fuses.getLsbD i = true) : s.dict.fuses.getLsbD i = true := by
  have hand : (o.dict.fuses &&& s.dict.fuses).getLsbD i = true := by rw [h.fuses, hi]
  rw [BitVec.getLsbD_and, Bool.and_eq_true] at hand
  exact hand.2

/-- Settles O56: the front command keeps every blown fuse, and an empty queue leaves the state. -/
theorem blownFusesStayBlown : Obligations.BlownFusesStayBlown := by
  intro s t i _ hblown hstep
  obtain ⟨-, hs⟩ | ⟨c, q, -, hs⟩ := step_cases s
  · rw [hs] at hstep
    cases hstep
    exact hblown
  · exact (exec_keep c (hs.symm.trans hstep)).guard.fuse hblown

/-- A vector of one value holds it at every place, and reads it beyond. -/
theorem vget_replicate {α : Type} (n : Nat) (d : α) (i : Nat) : vget (Vector.replicate n d) i d = d := by
  unfold vget
  rw [Vector.getElem?_replicate]
  split <;> rfl

/-- A device reset leaves every lane as Lane.reset gives it. -/
theorem reset_lane (l : Nat) : State.reset.lane l = Lane.reset := vget_replicate 8 Lane.reset l

theorem reset_regular : State.reset.regular where
  sto := ⟨rfl, rfl, rfl, rfl, rfl⟩
  conv := rfl
  queue := Nat.zero_le _
  counts := fun _ hc => absurd hc List.not_mem_nil
  audit := Nat.zero_le _

/-- Settles O54: the memories, the queues, the counters and the trail are empty after a reset, and each of the lanes is Lane.reset. -/
theorem resetIsRegular : Obligations.ResetIsRegular :=
  ⟨reset_regular, rfl, rfl, rfl, fun l _ => congrArg Lane.task (reset_lane l)⟩

end Sys2Proof.Machine
end

section
/-! PROOFS. Kivasel's transports (11 R330, R331, R336, R337, R342 to R345, R349): how a unit that arrives is queued or answered, how an answer leaves, and the segments of a CAN port. That a unit which breaks R330 is answered at the head of the queue is log 38, the bytes of a segment are log 29. -/

namespace Sys2Proof.Machine

open Sys2Proof

variable {s : State} {c : KChan} {b : List Byte} {n : Nat}

/-! ### Units at the head of the queue and their answers (11 R330, R331, R342 to R345) -/

/-- A unit that breaks R330 is removed and answered MALFORMED when its turn comes. -/
theorem kvAuto_malformed {rest : List (KChan × List Byte)} (hq : s.dict.queue = (c, b) :: rest) (hturn : s.kvWaits c b = false) (hbad : unitOk c b = false)
    (k : Nat) : s.kvAuto (k + 1) = ((s.upDict (fun d => { d with queue := rest })).replyAs c b (getLE b 2 2) 11 0 []).kvAuto k := by
  conv_lhs => unfold State.kvAuto
  simp only [hq, hturn, hbad]
  rfl

/-- What R330 asks of the header: the version, a LENGTH that is that of the payload, and a size within one transfer. -/
theorem unitOk_header (h : unitOk c b = true) : byteAt b 0 = 1 ∧ getLE b 10 2 = b.length - 16 ∧ b.length ≤ 1040 := by
  unfold unitOk at h
  simp only [Bool.and_eq_true, decide_eq_true_eq] at h
  obtain ⟨⟨⟨⟨⟨⟨hversion, hlength⟩, hsize⟩, -⟩, -⟩, -⟩, -⟩ := h
  exact ⟨hversion, hlength, hsize⟩

/-- An answer over S1 leaves while S1 is attached. -/
theorem replyAs_s1 (id st info : Nat) (pl : List Byte) : s.replyAs .s1 b id st info pl =
    if s.dict.usbOff then s else s.send (.kivasel .s1 (kvUnit (byteAt b 1 + 0x80) id (getLE b 4 4) st info pl)) := rfl

/-- An answer over CAN leaves in segments while KIVASEL_TX_ID names an identifier. -/
theorem replyAs_can (id st info : Nat) (pl : List Byte) : s.replyAs (.can n) b id st info pl =
    if s.inForce (0x2800 + n) 14 0xFFFFFFFF = 0xFFFFFFFF then s
    else (s.upCanPort n (fun x => { x with
      kvOut := x.kvOut ++ kvFrames (s.inForce (0x2800 + n) 14 0xFFFFFFFF) ((s.canPort n).ctrl.getLsbD 2) 160 0 (kvUnit (byteAt b 1 + 0x80) id (getLE b 4 4) st info pl) })).feedKv n := rfl

/-! ### Datagrams and transfers (11 R342, R344) -/

/-- A datagram brings a unit while the network's domain is on and the module has an address. -/
theorem exec_kivaselUdpReceive (ip port t : Nat) (b : List Byte) : exec (.kivaselUdpReceive ip port t b) s = .next (countEdges s
    (if s.domainOn 7 = true ∧ s.inForce 0x1110 1 0 ≠ 0 then (s.reach t).kvArrive (.udp ip port) b else s.reach t)) := by
  have hc : (!s.domainOn 7) = true ∨ s.inForce 0x1110 1 0 = 0 ↔ ¬ (s.domainOn 7 = true ∧ s.inForce 0x1110 1 0 ≠ 0) := by
    simp only [Bool.not_eq_true', not_and_or, not_not, Bool.not_eq_true]
  exact congrArg (commit s) ((ite_congr (propext hc) (fun _ => rfl) (fun _ => rfl)).trans (ite_not _ _ _))

/-- A transfer brings a unit over an attached S1, up to the longest unit. -/
theorem exec_kivaselUsbTransfer (t : Nat) (b : List Byte) : exec (.kivaselUsbTransfer t b) s = .next (countEdges s
    (if s.dict.usbOff = false ∧ b.length ≤ 1040 then (s.reach t).kvArrive .s1 b else s.reach t)) := by
  have hc : (s.dict.usbOff || decide (1040 < b.length)) = true ↔ ¬ (s.dict.usbOff = false ∧ b.length ≤ 1040) := by
    simp only [Bool.or_eq_true, decide_eq_true_eq, not_and_or, Bool.not_eq_false, not_le]
  exact congrArg (commit s) ((ite_congr (propext hc) (fun _ => rfl) (fun _ => rfl)).trans (ite_not _ _ _))

/-! ### Segments of a CAN port (11 R343) -/

/-- The unfinished unit of a port is dropped and counted. -/
def State.segLost (s : State) (n : Nat) : State := s.upCanPort n (fun c => { c with partUnit := [], partialSeq := none, segErr := min 0xFFFFFFFF (c.segErr + 1) })

/-- A segment that continues the bytes `old`: with LAST the unit arrives cut to its LENGTH, else it waits for the next segment. -/
def State.segTaken (s : State) (n : Nat) (b old : List Byte) : State :=
  if (byteAt b 0).testBit 6 then
    (s.upCanPort n (fun c => { c with partUnit := [], partialSeq := none })).kvArrive (.can n)
      (if 16 ≤ (old ++ b.drop 1).length then (old ++ b.drop 1).take (16 + getLE (old ++ b.drop 1) 10 2) else old ++ b.drop 1)
  else s.upCanPort n (fun c => { c with partUnit := old ++ b.drop 1, partialSeq := some (byteAt b 0 % 64) })

theorem segTaken_more (hlast : (byteAt b 0).testBit 6 = false) (old : List Byte) :
    s.segTaken n b old = s.upCanPort n (fun c => { c with partUnit := old ++ b.drop 1, partialSeq := some (byteAt b 0 % 64) }) := by
  unfold State.segTaken
  rw [hlast]
  rfl

theorem segTaken_last (hlast : (byteAt b 0).testBit 6 = true) {old : List Byte} (hlen : 16 ≤ (old ++ b.drop 1).length) :
    s.segTaken n b old = (s.upCanPort n (fun c => { c with partUnit := [], partialSeq := none })).kvArrive (.can n)
      ((old ++ b.drop 1).take (16 + getLE (old ++ b.drop 1) 10 2)) := by
  unfold State.segTaken
  rw [hlast, if_pos rfl, if_pos hlen]

/-- A port whose KIVASEL_RX_ID is off, and a frame without bytes, bring nothing. -/
theorem kvSegment_off (h : s.inForce (0x2800 + n) 13 0xFFFFFFFF = 0xFFFFFFFF ∨ b = []) : s.kvSegment n b = s := by
  unfold State.kvSegment
  rcases h with h | rfl
  · simp only [h, if_true]
  · simp only [List.isEmpty_nil, if_true, ite_self]

section
variable (hid : s.inForce (0x2800 + n) 13 0xFFFFFFFF ≠ 0xFFFFFFFF) (hb : b ≠ [])
include hid hb

/-- FIRST with SEQ 0 begins a unit where none was begun. -/
theorem kvSegment_first (hfirst : (byteAt b 0).testBit 7 = true) (hseq : byteAt b 0 % 64 = 0) (hnone : (s.canPort n).partialSeq = none) :
    s.kvSegment n b = s.segTaken n b [] := by
  unfold State.kvSegment
  simp only [if_neg hid, List.isEmpty_eq_false_iff.mpr hb, hfirst, hseq, hnone]
  unfold State.segTaken
  rw [hseq]
  rfl

/-- The next SEQ continues the unit. -/
theorem kvSegment_next {q : Nat} (hfirst : (byteAt b 0).testBit 7 = false) (hpart : (s.canPort n).partialSeq = some q) (hseq : byteAt b 0 % 64 = (q + 1) % 64) :
    s.kvSegment n b = s.segTaken n b (s.canPort n).partUnit := by
  unfold State.kvSegment
  simp only [if_neg hid, List.isEmpty_eq_false_iff.mpr hb, hfirst, hpart, hseq, Bool.false_eq_true, if_false, if_true]
  unfold State.segTaken
  rw [hseq]

/-- A gap, or a segment without FIRST where no unit was begun, drops the unfinished unit. -/
theorem kvSegment_gap (hfirst : (byteAt b 0).testBit 7 = false) (hgap : ∀ q, (s.canPort n).partialSeq = some q → byteAt b 0 % 64 ≠ (q + 1) % 64) :
    s.kvSegment n b = s.segLost n := by
  unfold State.kvSegment
  simp only [if_neg hid, List.isEmpty_eq_false_iff.mpr hb, hfirst, Bool.false_eq_true, if_false]
  cases hpart : (s.canPort n).partialSeq with
  | none => rfl
  | some q => exact if_neg (hgap q hpart)

end

/-- A port hears a segment while it listens, its receive error counter falling first. -/
theorem exec_kivaselCanSegment_heard (t : Nat) (h : (s.canPort n).listens = true) :
    exec (.kivaselCanSegment n t b) s = .next (countEdges s (((s.reach t).canHeard n).kvSegment n b)) :=
  congrArg (commit s) (if_pos h)

theorem exec_kivaselCanSegment_deaf (t : Nat) (h : (s.canPort n).listens = false) :
    exec (.kivaselCanSegment n t b) s = .next (countEdges s (s.reach t)) :=
  congrArg (commit s) (if_neg (Bool.eq_false_iff.mp h))

/-- An update of a port is determined by what it makes of the port as it stands. -/
theorem upCanPort_congr {k l : Can → Can} (h : k (s.canPort n) = l (s.canPort n)) : s.upCanPort n k = s.upCanPort n l :=
  congrArg (fun p => s.upCan (fun v => vset v n p)) h

/-- 100 ms of silence drop a unfinished unit. -/
theorem exec_kivaselCanSegmentTimeout (h : (s.canPort n).partialSeq.isSome = true) :
    exec (.kivaselCanSegmentTimeout n) s = .next (countEdges s (s.segLost n)) :=
  congrArg (commit s) (upCanPort_congr (if_pos h))

/-! ### The ODX window (11 R345, R346) -/

/-- A write that reaches ODX_CTRL with GO alone is GO. -/
theorem exec_odxGo {m : Master} (t : Nat) (h : s.readReaches m 0x13004 = true) : exec (.odxGo m t) s = commit s (s.reach t).odxGo :=
  congrArg (commit s) (fabricWrite_done (s := s.reach t) h rfl)

/-- A write that reaches ODX_CTRL with ACK alone is ACK. -/
theorem exec_odxAck {m : Master} (h : s.readReaches m 0x13004 = true) : exec (.odxAck m) s = commit s s.odxAck :=
  congrArg (commit s) (fabricWrite_done h rfl)

/-- GO sends the unit of the request window. -/
theorem odxGo_free (hbusy : s.dict.odxBusy = false) (hready : s.dict.odxReady = false) :
    s.odxGo = (s.upDict (fun d => { d with odxBusy := true, odxResp := [] })).kvArrive .odx (memBytes s.dict.odxReq 0 s.dict.odxLen) := by
  unfold State.odxGo
  rw [hbusy, hready]
  rfl

/-- A busy window, or one whose response waits, only reports it. -/
theorem odxGo_taken (h : s.dict.odxBusy = true ∨ s.dict.odxReady = true) : s.odxGo = s.odxCauseBit 2 := by
  unfold State.odxGo
  exact if_pos (Bool.or_eq_true _ _ ▸ h)

/-! ### The statement -/

/-- Settles O25: a unit's arrival by the room in the queue, an answer by its channel, each transport by whether it brings a unit. -/
theorem kivaselUnitsArriveAndAnswersLeave : Obligations.KivaselUnitsArriveAndAnswersLeave := by
  rintro s t n ip port id st info b pl unit rfl
  refine ⟨fun v c hon hrec hpark hlen => ⟨kvArrive_queues v c b hon hrec hlen hpark, kvArrive_full v c b hon hrec hlen hpark⟩,
    fun v c h => kvArrive_lost v c b h, fun v c rest k hq hturn hbad => kvAuto_malformed hq hturn hbad k, fun c h => unitOk_header h,
    fun v => ⟨rfl, fun h => ?_, fun h => ?_, rfl, fun h => ?_, fun h => ?_⟩, ?_, ?_, exec_kivaselCanSegment_deaf t, ?_, exec_kivaselCanSegmentTimeout, fun m h => ⟨?_, ?_, exec_odxAck h⟩⟩
  · rw [replyAs_s1, h]
    rfl
  · rw [replyAs_s1, if_pos h]
  · rw [replyAs_can, if_pos h]
  · rw [replyAs_can, if_neg h]
  · exact exec_kivaselUdpReceive ip port t b
  · exact exec_kivaselUsbTransfer t b
  · intro v hv hlistens
    have hentry : s.inForce (0x2800 + n) 13 0xFFFFFFFF = v.inForce (0x2800 + n) 13 0xFFFFFFFF := hv ▸ rfl
    rw [exec_kivaselCanSegment_heard t hlistens, ← hv, hentry]
    refine ⟨fun h => ?_, fun hid hb => ⟨fun hfirst hseq hnone => ?_, fun q hfirst hpart hseq => ?_, fun hfirst hgap => ?_⟩⟩
    · rw [kvSegment_off h]
    · rw [kvSegment_first hid hb hfirst hseq hnone]
      refine ⟨fun hlast => ?_, fun hlast hlen => ?_⟩
      · rw [segTaken_more hlast, hseq]
        rfl
      · exact congrArg (commit s) (segTaken_last hlast hlen)
    · rw [kvSegment_next hid hb hfirst hpart hseq]
      refine ⟨fun hlast => ?_, fun hlast hlen => ?_⟩
      · rw [segTaken_more hlast, hseq]
      · exact congrArg (commit s) (segTaken_last hlast hlen)
    · rw [kvSegment_gap hid hb hfirst hgap]
      rfl
  · rintro v rfl hbusy hready
    exact (exec_odxGo t h).trans (congrArg (commit s) (odxGo_free (s := s.reach t) hbusy hready))
  · exact fun htaken => (exec_odxGo t h).trans (congrArg (commit s) (odxGo_taken (s := s.reach t) htaken))

end Sys2Proof.Machine
end

section
/-! PROOFS. Requests at the head of Kivasel's queue (11 R333, R336, R348): the commands that serve them, what a request that must wait leaves, and the session that a served one finds. -/

namespace Sys2Proof.Machine

open Sys2Proof

variable {s : State} {o : Instr} {t op : Nat} {c : KChan} {u : List Byte} {rest : List (KChan × List Byte)} {x : Session}
  {want : List Byte → Bool} {k : KChan → List Byte → State → State}

/-! ### The request at the head (11 R336) -/

/-- The command `o` serves the request at the head of the queue by `k` when `want` holds of it. -/
def Serves (o : Instr) (t : Nat) (want : List Byte → Bool) (k : KChan → List Byte → State → State) : Prop :=
  ∀ s, exec o s = commit s (s.kvTake t want k)

/-- The whole unit `u` from the channel `c` stands at the head of the queue, and its turn has come. -/
structure State.AtHead (s : State) (c : KChan) (u : List Byte) (rest : List (KChan × List Byte)) : Prop where
  queue : s.dict.queue = (c, u) :: rest
  whole : unitOk c u = true
  turn : s.kvWaits c u = false

/-- The state in which the head of the queue is served: its time is reached and the unit has left the queue. -/
def State.taken (s : State) (t : Nat) (rest : List (KChan × List Byte)) : State := (s.reach t).upDict (fun d => { d with queue := rest })

/-- A command that finds no request of its own only reaches its time. -/
theorem Serves.left (h : Serves o t want k)
    (hq : s.dict.queue = [] ∨ (s.dict.queue = (c, u) :: rest ∧ unitOk c u = true ∧ (want u = false ∨ s.kvWaits c u = true))) :
    exec o s = .next (countEdges s (s.reach t)) := by
  refine (h s).trans (congrArg (commit s) ?_)
  rcases hq with hq | ⟨hq, hwhole, hnot⟩
  · exact kvTake_empty s hq t want k
  · exact kvTake_other s hq hwhole t k hnot

/-- The request that a command wants is served, and what then breaks R330 at the head is answered. -/
theorem Serves.answerWanted (h : Serves o t want k) (hu : s.AtHead c u rest) (hw : want u = true) {v : State} (hv : k c u (s.taken t rest) = v) :
    exec o s = .next (countEdges s (v.kvAuto 65)) := by
  subst hv
  exact (h s).trans (congrArg (commit s) (kvTake_serves s hu.queue hu.whole hu.turn t hw k))

/-- The request of a command's operation is served. -/
theorem Serves.answer (h : Serves o t (fun u => decide (uOp u = op)) k) (hu : s.AtHead c u rest) (hop : uOp u = op) {v : State}
    (hv : k c u (s.taken t rest) = v) : exec o s = .next (countEdges s (v.kvAuto 65)) :=
  h.answerWanted hu (decide_eq_true hop) hv

/-! ### The commands and the operations that they serve (11 R331) -/

theorem kOpen_serves : Serves (.kOpen t) t (fun u => decide (uOp u = 1)) (fun c u s => s.kvOpen c u) := fun _ => rfl
theorem kClose_serves : Serves (.kClose t) t (fun u => decide (uOp u = 2)) (fun c u s => s.kvClose c u) := fun _ => rfl
theorem kChallenge_serves : Serves (.kChallenge t) t (fun u => decide (uOp u = 3)) (fun c u s => s.kvChallenge c u) := fun _ => rfl
theorem kLogin_serves : Serves (.kLogin t) t (fun u => decide (uOp u = 4)) (fun c u s => s.kvLogin c u) := fun _ => rfl
theorem kRead_serves (ecc : List Ecc) : Serves (.kRead t ecc) t (fun u => decide (uOp u = 0x10)) (fun c u s => s.kvRead c u ecc) := fun _ => rfl
theorem kReadMulti_serves (ecc : List Ecc) : Serves (.kReadMulti t ecc) t (fun u => decide (uOp u = 0x11)) (fun c u s => s.kvReadMulti c u ecc) := fun _ => rfl
theorem kDescribe_serves : Serves (.kDescribe t) t (fun u => decide (uOp u = 0x12)) (fun c u s => s.kvDescribe c u) := fun _ => rfl
theorem kWrite_serves : Serves (.kWrite t) t (fun u => decide (uOp u = 0x20)) (fun c u s => s.kvWrite c u) := fun _ => rfl
theorem batchOpen_serves : Serves (.batchOpen t) t (fun u => decide (uOp u = 0x30)) (fun c u s => s.kvBatchOpen c u) := fun _ => rfl
theorem batchAdd_serves : Serves (.batchAdd t) t (fun u => decide (uOp u = 0x31)) (fun c u s => s.kvBatchAdd c u) := fun _ => rfl
theorem batchCommit_serves : Serves (.batchCommit t) t (fun u => decide (uOp u = 0x32)) (fun c u s => s.kvBatchCommit c u) := fun _ => rfl
theorem batchStatus_serves : Serves (.batchStatus t) t (fun u => decide (uOp u = 0x33)) (fun c u s => s.kvBatchStatus c u) := fun _ => rfl
theorem batchDiscard_serves : Serves (.batchDiscard t) t (fun u => decide (uOp u = 0x34)) (fun c u s => s.kvBatchDiscard c u) := fun _ => rfl

/-! ### Sessions (11 R333, R348) -/

theorem upSession_dict (s : State) (id : Nat) (k : Session → Session) : (s.upSession id k).dict =
    if id = 0 then { s.dict with session0 := k s.dict.session0 } else { s.dict with sessions := s.dict.sessions.map (fun x => if x.id = id then k x else x) } := rfl

@[simp] theorem upSession_force (s : State) (id : Nat) (k : Session → Session) : (s.upSession id k).dict.force = s.dict.force := by
  rw [upSession_dict]; split <;> rfl

@[simp] theorem upSession_lockedOut (s : State) (id : Nat) (k : Session → Session) : (s.upSession id k).dict.lockedOut = s.dict.lockedOut := by
  rw [upSession_dict]; split <;> rfl

@[simp] theorem upSession_fuses (s : State) (id : Nat) (k : Session → Session) : (s.upSession id k).dict.fuses = s.dict.fuses := by
  rw [upSession_dict]; split <;> rfl

@[simp] theorem upSession_blowing (s : State) (id : Nat) (k : Session → Session) : (s.upSession id k).dict.blowing = s.dict.blowing := by
  rw [upSession_dict]; split <;> rfl

/-- With a request the 60 s of its session start again. -/
def State.touched (s : State) (x : Session) : State := s.upSession x.id (fun y => { y with used := s.clk.now })

/-- Neither the recovery service nor fuse 2 ends a request from the channel `c`. -/
structure State.Open (s : State) (c : KChan) : Prop where
  recovery : s.pwr.recovery = false
  fuse : s.dict.fuses.getLsbD 2 = false ∨ netChan c = false

theorem netChan_iff : netChan c = true ↔ (∃ a b, c = .udp a b) ∨ ∃ n, c = .can n := by
  cases c <;> simp [netChan]

/-- S1 and the window stay open whatever fuse 2 is. -/
theorem open_of_channel (hr : s.pwr.recovery = false) (hf : s.dict.fuses.getLsbD 2 = false ∨ c = .odx ∨ c = .s1) : s.Open c := by
  refine ⟨hr, hf.imp_right ?_⟩
  rintro (rfl | rfl) <;> rfl

theorem State.Open.taken (h : s.Open c) (t : Nat) (rest : List (KChan × List Byte)) : (s.taken t rest).Open c := ⟨h.recovery, h.fuse⟩

/-- A request of an open channel is served in its session. -/
theorem State.Open.served (h : s.Open c) (who : s.sessionOf c u = some x) (k : Session → State → State) :
    s.inSession c u k = k { x with used := s.clk.now } (s.touched x) :=
  inSession_serves s c u k who (h.fuse.imp_right .inl) (.inl h.recovery)

/-- A request that needs a role which takes batches is served in its session where the unit has that role. -/
theorem State.Open.servedInRole (h : s.Open c) (who : s.sessionOf c u = some x) (hrole : s.takesBatches = true) (k : Session → State → State) :
    s.inSession c u (fun x s => s.needRole c u (k x s)) = k { x with used := s.clk.now } (s.touched x) :=
  (h.served who _).trans (needRole_serves (s.touched x) c u _ hrole)

/-- Where it has not, the request is answered ROLE and the refusal is kept. -/
theorem State.Open.refusedInRole (h : s.Open c) (who : s.sessionOf c u = some x) (hrole : s.takesBatches = false) (k : Session → State → State) :
    s.inSession c u (fun x s => s.needRole c u (k x s)) = ((s.touched x).modeRefuse 9).replyAs c u (getLE u 2 2) 8 s.csw.role.code [] :=
  (h.served who _).trans (needRole_refuses (s.touched x) c u _ hrole)

/-- A request of an open channel that names no session is answered NO_SESSION. -/
theorem State.Open.unknown (h : s.Open c) (who : s.sessionOf c u = none) (k : Session → State → State) :
    s.inSession c u k = s.replyAs c u (getLE u 2 2) 10 0 [] :=
  inSession_unknown s c u k who (h.fuse.imp_right .inl) (.inl h.recovery)

/-- The command `o` serves requests of the operation `op`, which name a session. -/
def SessionRequest (o : Instr) (t op : Nat) : Prop :=
  ∃ k : KChan → List Byte → Session → State → State, Serves o t (fun u => decide (uOp u = op)) (fun c u s => s.inSession c u (k c u))

/-- The command `o` serves requests of the operation `op`, which name a session and need a role that takes batches. -/
def RoleRequest (o : Instr) (t op : Nat) : Prop :=
  ∃ k : KChan → List Byte → Session → State → State, Serves o t (fun u => decide (uOp u = op)) (fun c u s => s.inSession c u (fun x s => s.needRole c u (k c u x s)))

/-- Which command serves which operation on a session (11 R331). -/
theorem sessionRequest_of_mem {ecc : List Ecc} {p : Instr × Nat} (h : p ∈ [(Instr.kClose t, 2), (.kChallenge t, 3), (.kLogin t, 4), (.kRead t ecc, 0x10), (.kReadMulti t ecc, 0x11),
    (.kDescribe t, 0x12), (.kWrite t, 0x20), (.batchOpen t, 0x30), (.batchAdd t, 0x31), (.batchCommit t, 0x32), (.batchStatus t, 0x33), (.batchDiscard t, 0x34)]) :
    SessionRequest p.1 t p.2 := by
  fin_cases h <;> exact ⟨_, fun _ => rfl⟩

/-- The operations on a session that fuse 2 ends (11 R349). -/
theorem fusedRequest_of_mem {p : Instr × Nat} (h : p ∈ [(Instr.kLogin t, 4), (.kWrite t, 0x20), (.batchOpen t, 0x30), (.batchAdd t, 0x31), (.batchCommit t, 0x32),
    (.batchStatus t, 0x33), (.batchDiscard t, 0x34)]) : SessionRequest p.1 t p.2 ∧ fusedOp p.2 = true := by
  fin_cases h <;> exact ⟨⟨_, fun _ => rfl⟩, rfl⟩

/-- The operations on a session that need a role which takes batches (11 R339). -/
theorem roleRequest_of_mem {p : Instr × Nat} (h : p ∈ [(Instr.batchOpen t, 0x30), (.batchAdd t, 0x31), (.batchCommit t, 0x32)]) : RoleRequest p.1 t p.2 := by
  fin_cases h <;> exact ⟨_, fun _ => rfl⟩

/-- Every request operation, OPEN and those on a session. -/
theorem request_of_mem {ecc : List Ecc} {p : Instr × Nat} (h : p ∈ [(Instr.kOpen t, 1), (.kClose t, 2), (.kChallenge t, 3), (.kLogin t, 4), (.kRead t ecc, 0x10), (.kReadMulti t ecc, 0x11),
    (.kDescribe t, 0x12), (.kWrite t, 0x20), (.batchOpen t, 0x30), (.batchAdd t, 0x31), (.batchCommit t, 0x32), (.batchStatus t, 0x33), (.batchDiscard t, 0x34)]) :
    ∃ k, Serves p.1 t (fun u => decide (uOp u = p.2)) k := by
  rcases List.mem_cons.mp h with rfl | h
  · exact ⟨_, fun _ => rfl⟩
  · obtain ⟨k, hk⟩ := sessionRequest_of_mem h
    exact ⟨_, hk⟩

end Sys2Proof.Machine
end

section
/-! PROOFS. Sessions, logins and edit batches (11 R333 to R335, R338 to R341, R348): one lemma for each way in which a request of a session is served. The answers that are free, and the one lockout for all UDP peers, are log 38. -/

namespace Sys2Proof.Machine

open Sys2Proof

variable {s w : State} {t id : Nat} {c : KChan} {u : List Byte} {x : Session}

/-! ### OPEN (11 R333, R335) -/

/-- On the window OPEN answers for session 0. -/
theorem kvOpen_window : s.kvOpen .odx u = s.replyAs .odx u (getLE u 2 2) 0 0 (s.openPayload 0 s.host.priv) := rfl

theorem kvOpen_noClient (hc : c ≠ .odx) (h0 : getLE (u.drop 16) 0 4 = 0) : s.kvOpen c u = s.replyAs c u (getLE u 2 2) 7 0 [] := by
  unfold State.kvOpen
  exact (if_neg hc).trans (if_pos h0)

/-- The state without the older session of a client. -/
def State.withoutClient (s : State) (id : Nat) : State :=
  match s.dict.sessions.find? (fun y => decide (y.client = id)) with
  | some y => s.closeSession y.id
  | none => s

theorem withoutClient_eq (h : s.dict.sessions.find? (fun y => decide (y.client = id)) = none ∧ w = s ∨
    ∃ y, s.dict.sessions.find? (fun y => decide (y.client = id)) = some y ∧ w = s.closeSession y.id) : s.withoutClient id = w := by
  unfold State.withoutClient
  rcases h with ⟨hf, rfl⟩ | ⟨y, hf, rfl⟩ <;> rw [hf]

/-- OPEN of a client: its older session closes, then a session is created where fewer than 32 are open. -/
theorem kvOpen_client (hc : c ≠ .odx) (h0 : getLE (u.drop 16) 0 4 ≠ 0) (hw : s.withoutClient (getLE (u.drop 16) 0 4) = w) : s.kvOpen c u =
    if 32 ≤ w.dict.sessions.length then w.replyAs c u (getLE u 2 2) 1 1000 []
    else (w.useFree.upDict (fun d => { d with
      sessions := d.sessions ++ [⟨w.freshSession, getLE (u.drop 16) 0 4, c, false, none, w.clk.now, none, 0⟩] })).replyAs c u w.freshSession 0 0
        (w.openPayload (getLE (u.drop 16) 0 4) false) := by
  subst hw
  unfold State.kvOpen
  exact (if_neg hc).trans (if_neg h0)

/-- Of 33 numbers in a row one is no session's while fewer than 33 are open. -/
theorem exists_unused (l : List Session) (hl : l.length < 33) (a : Nat) :
    ∃ k ∈ List.range 33, l.any (fun y => decide (y.id = (a + k) % 0xFFFE + 1)) = false := by
  by_contra hno
  push Not at hno
  have hsub : (List.range 33).map (fun k => (a + k) % 0xFFFE + 1) ⊆ l.map (·.id) := by
    intro n hn
    obtain ⟨k, hk, rfl⟩ := List.mem_map.mp hn
    obtain ⟨y, hy, hid⟩ := List.any_eq_true.mp (Bool.eq_true_of_not_eq_false (hno k hk))
    exact List.mem_map.mpr ⟨y, hy, of_decide_eq_true hid⟩
  have hnodup : ((List.range 33).map (fun k => (a + k) % 0xFFFE + 1)).Nodup := by
    refine List.Nodup.map_on (fun i hi j hj hij => ?_) List.nodup_range
    rw [List.mem_range] at hi hj
    omega
  have hle := (List.subperm_of_subset hnodup hsub).length_le
  rw [List.length_map, List.length_map, List.length_range] at hle
  omega

/-- The number of a new session is one of 1 to 0xFFFE that no open session has. -/
theorem freshSession_unused (h : s.dict.sessions.length < 33) :
    1 ≤ s.freshSession ∧ s.freshSession ≤ 0xFFFE ∧ ∀ y ∈ s.dict.sessions, y.id ≠ s.freshSession := by
  unfold State.freshSession
  dsimp only
  cases hf : (List.range 33).find? (fun k => !s.dict.sessions.any (fun x => decide (x.id = (Config.sessionSeed s.free + k) % 0xFFFE + 1))) with
  | none =>
    obtain ⟨k, hk, hfree⟩ := exists_unused s.dict.sessions h (Config.sessionSeed s.free)
    exact absurd (List.find?_eq_none.mp hf k hk) (by rw [hfree]; simp)
  | some k =>
    have hfree := List.find?_some hf
    refine ⟨Nat.le_add_left 1 _, Nat.mod_lt _ (Nat.zero_lt_succ _), fun y hy hid => ?_⟩
    rw [Bool.not_eq_true', List.any_eq_false] at hfree
    exact hfree y hy (decide_eq_true hid)

theorem freshNonce_length (n : Nat) : (freshNonce n).length = 16 := by
  rw [freshNonce, List.length_map, List.length_range]

@[simp] theorem upSession_proofOk (s : State) (id : Nat) (k : Session → Session) (c : KChan) (x : Session) (p : List Byte) :
    (s.upSession id k).proofOk c x p = s.proofOk c x p := by
  unfold State.proofOk State.accessKey
  rw [upSession_force]

/-- With a key of zero S1 alone needs no proof; with another the proof is the HMAC of the session's nonce and number (11 R334). -/
theorem proofOk_iff (s : State) (c : KChan) (x : Session) (p : List Byte) : s.proofOk c x p = true ↔
    allZero s.accessKey = true ∧ c = .s1 ∨ ∃ n, allZero s.accessKey = false ∧ x.nonce = some n ∧ p = hmac s.accessKey (n ++ leBytes 2 x.id) := by
  unfold State.proofOk
  cases allZero s.accessKey <;> cases x.nonce <;> simp

/-- A proof that is not the one asked for. -/
theorem proofOk_false {p : List Byte} (h : allZero s.accessKey = true ∧ c ≠ .s1 ∨ (allZero s.accessKey = false ∧ ∀ n, x.nonce = some n → p ≠ hmac s.accessKey (n ++ leBytes 2 x.id))) :
    s.proofOk c x p = false := by
  rw [Bool.eq_false_iff, Ne, proofOk_iff]
  rintro (⟨hz, hs1⟩ | ⟨n, hz, hn, hp⟩) <;> rcases h with ⟨hzero, hne⟩ | ⟨hzero, hne⟩
  · exact hne hs1
  · exact Bool.false_ne_true (hzero.symm.trans hz)
  · exact Bool.false_ne_true (hz.symm.trans hzero)
  · exact hne n hn hp

/-- Is a BATCH_ID at or below the last one applied of its client (11 R339)? -/
def Store.past (q : Store) (client id : Nat) : Bool :=
  match q.lastApplied client with
  | some l => atOrBelow id l
  | none => false

theorem past_true {q : Store} {client l : Nat} (hl : q.lastApplied client = some l) (h : atOrBelow id l = true) : q.past client id = true := by
  unfold Store.past
  rw [hl]
  exact h

theorem past_ne {q : Store} {client : Nat} (h : ∀ l, q.lastApplied client = some l → atOrBelow id l = false) : ¬ q.past client id = true := by
  unfold Store.past
  cases hl : q.lastApplied client with
  | none => exact Bool.false_ne_true
  | some l => exact Bool.eq_false_iff.mp (h l hl)

/-- A client that is not known may begin with any BATCH_ID, another with the expected one alone. -/
theorem batchNext {a b : Option Nat} {want : Nat} (h : a = none ∧ b = none ∨ id = want) : ¬ ((a.isSome = true ∨ b.isSome = true) ∧ id ≠ want) := by
  rintro ⟨hknown, hne⟩
  obtain ⟨rfl, rfl⟩ := h.resolve_right hne
  exact hknown.elim Bool.false_ne_true Bool.false_ne_true

theorem takesBatches_true (hgov : s.governs = true) (hrole : s.pwr.role = .controller) : s.takesBatches = true := by
  unfold State.takesBatches
  rw [hgov, hrole]
  rfl

theorem takesBatches_false (h : s.governs = false ∨ s.pwr.role ≠ .controller) : s.takesBatches = false := by
  unfold State.takesBatches
  rcases h with h | h
  · rw [h]
    rfl
  · rw [decide_eq_false h, Bool.and_false]

/-- An open batch is the one that a unit names. -/
theorem batch_named_iff {b : Option (Nat × List EditItem)} : b.map (·.1) = some id ↔ ∃ l, b = some (id, l) := by
  simp only [Option.map_eq_some_iff, Prod.exists, exists_and_right, exists_eq_right]

section
variable (hopen : s.Open c) (who : s.sessionOf c u = some x)
include hopen who

/-! ### CLOSE, CHALLENGE and LOGIN (11 R333 to R335) -/

theorem kvClose_window (h0 : x.id = 0) : s.kvClose c u = (s.touched x).replyAs c u (getLE u 2 2) 0 0 [] := by
  unfold State.kvClose
  rw [hopen.served who]
  dsimp only
  rw [if_pos h0]
  rfl

theorem kvClose_session (h0 : x.id ≠ 0) : s.kvClose c u = ((s.touched x).closeSession x.id).replyAs c u (getLE u 2 2) 0 0 [] := by
  unfold State.kvClose
  rw [hopen.served who]
  dsimp only
  rw [if_neg h0]
  rfl

theorem kvChallenge_window (hc : c = .odx) : s.kvChallenge c u = (s.touched x).replyAs c u (getLE u 2 2) 4 0 [] := by
  unfold State.kvChallenge
  rw [hopen.served who]
  exact if_pos hc

/-- While the channel is locked out, the INFO of the answer is free. -/
theorem kvChallenge_lockedOut (hc : c ≠ .odx) (hl : s.dict.lockedOut.contains (lockChan c) = true) :
    ∃ info, s.kvChallenge c u = ((s.touched x).replyAs c u (getLE u 2 2) 1 info []).useFree := by
  have hlocked : (s.touched x).dict.lockedOut.contains (lockChan c) = true := by rw [State.touched, upSession_lockedOut, hl]
  unfold State.kvChallenge
  rw [hopen.served who]
  exact ⟨_, (if_neg hc).trans (if_pos hlocked)⟩

theorem kvChallenge_fresh (hc : c ≠ .odx) (hl : s.dict.lockedOut.contains (lockChan c) = false) : s.kvChallenge c u =
    ((s.touched x).useFree.upSession x.id (fun y => { y with nonce := some (freshNonce s.free) })).replyAs c u (getLE u 2 2) 0 0 (freshNonce s.free) := by
  unfold State.kvChallenge
  rw [hopen.served who]
  refine (if_neg hc).trans (if_neg ?_)
  rw [State.touched, upSession_lockedOut, hl]
  exact Bool.false_ne_true

/-- On the window privilege is that of the HOST master. -/
theorem kvLogin_window (hc : c = .odx) : s.kvLogin c u = (s.touched x).replyAs c u (getLE u 2 2) 4 0 [] := by
  unfold State.kvLogin
  rw [hopen.served who]
  exact if_pos hc

theorem kvLogin_proved (hc : c ≠ .odx) (hp : s.proofOk c x (u.drop 16) = true) : s.kvLogin c u =
    (((s.touched x).upSession x.id (fun y => { y with nonce := none })).upSession x.id (fun y => { y with priv := true })).replyAs c u (getLE u 2 2) 0 0 [] := by
  unfold State.kvLogin
  rw [hopen.served who]
  refine (if_neg hc).trans (if_pos ?_)
  rw [State.touched, upSession_proofOk, upSession_proofOk]
  exact hp

theorem kvLogin_failed (hc : c ≠ .odx) (hp : s.proofOk c x (u.drop 16) = false) : s.kvLogin c u =
    ((((s.touched x).upSession x.id (fun y => { y with nonce := none })).authFailed 0x3002).upDict (fun d => { d with
      lockedOut := if d.lockedOut.contains (lockChan c) then d.lockedOut else d.lockedOut ++ [lockChan c] })).replyAs c u (getLE u 2 2) 13 0 [] := by
  unfold State.kvLogin
  rw [hopen.served who]
  refine (if_neg hc).trans (if_neg ?_)
  rw [State.touched, upSession_proofOk, upSession_proofOk]
  exact Bool.eq_false_iff.mp hp

/-! ### Batch units where batches are taken (11 R338, R339) -/

section
variable (hrole : s.takesBatches = true)
include hrole

/-- BATCH_OPEN discards an open batch, then the rows of R339. -/
theorem kvBatchOpen_rows {id want : Nat} (hid : id = getLE (u.drop 16) 0 4) (hwant : want = s.sto.expected x.client) {w : State}
    (hw : w = (s.touched x).upSession x.id (fun y => { y with batch := none })) : s.kvBatchOpen c u =
      if id = 0 then w.replyAs c u (getLE u 2 2) 14 want []
      else if s.sto.past x.client id = true then w.replyAs c u (getLE u 2 2) 15 0 []
      else if ((s.sto.lastApplied x.client).isSome = true ∨ (s.sto.lastAccepted x.client).isSome = true) ∧ id ≠ want then w.replyAs c u (getLE u 2 2) 14 want []
      else (w.upSession x.id (fun y => { y with batch := some (id, []), batchAt := s.clk.now })).replyAs c u (getLE u 2 2) 0 0 [] := by
  subst hid hwant hw
  unfold State.kvBatchOpen
  exact hopen.servedInRole who hrole _

theorem kvBatchAdd_none (hb : x.batch = none) : s.kvBatchAdd c u = (s.touched x).replyAs c u (getLE u 2 2) 14 (s.sto.expected x.client) [] := by
  unfold State.kvBatchAdd
  rw [hopen.servedInRole who hrole]
  simp only [hb]
  rfl

/-- BATCH_ADD drops a batch whose items are above 65,536 bytes, else appends. -/
theorem kvBatchAdd_open {b : Nat} {l : List EditItem} (hb : x.batch = some (b, l)) : s.kvBatchAdd c u =
    if 65536 < itemBytes (l ++ addItems (u.drop 16).length (u.drop 16)) then
      ((s.touched x).upSession x.id (fun y => { y with batch := none })).replyAs c u (getLE u 2 2) 12 65536 []
    else ((s.touched x).upSession x.id (fun y => { y with
      batch := some (b, l ++ addItems (u.drop 16).length (u.drop 16)), batchAt := s.clk.now })).replyAs c u (getLE u 2 2) 0 0 [] := by
  unfold State.kvBatchAdd
  rw [hopen.servedInRole who hrole]
  simp only [hb]
  rfl

theorem kvBatchCommit_named {l : List EditItem} (hb : x.batch = some (getLE (u.drop 16) 0 4, l)) {w : State}
    (hw : w = (s.touched x).upSession x.id (fun y => { y with batch := none })) :
    (∀ st info, w.checkItems l = .inr (st, info) → s.kvBatchCommit c u =
      (w.upSto (fun q => { q with outcomes := (x.client, (getLE (u.drop 16) 0 4, (4, 0))) :: q.outcomes })).replyAs c u (getLE u 2 2) st info []) ∧
    (∀ items, w.checkItems l = .inl items → s.kvBatchCommit c u = (w.upSto (fun q => { q with batches := q.batches ++
      [{ client := x.client, id := getLE (u.drop 16) 0 4, size := itemBytes items, accepted := s.clk.now, items := items, session := x.id, chan := c, ms := none }] })).replyAs c u (getLE u 2 2) 0 0 []) := by
  subst hw
  unfold State.kvBatchCommit
  rw [hopen.servedInRole who hrole]
  dsimp only
  simp only [hb]
  constructor
  · intro st info hcheck
    refine (if_neg (not_not.mpr rfl)).trans ?_
    rw [hcheck]
    rfl
  · intro items hcheck
    refine (if_neg (not_not.mpr rfl)).trans ?_
    rw [hcheck]
    rfl

/-- BATCH_COMMIT of a batch that is not open. -/
theorem kvBatchCommit_unnamed {id : Nat} (hid : id = getLE (u.drop 16) 0 4) (hb : ∀ l, x.batch ≠ some (id, l)) : s.kvBatchCommit c u =
    if s.sto.past x.client id = true then (s.touched x).replyAs c u (getLE u 2 2) 15 0 []
    else if s.sto.lastAccepted x.client = some id then (s.touched x).replyAs c u (getLE u 2 2) 0 0 []
    else (s.touched x).replyAs c u (getLE u 2 2) 14 ((x.batch.map (·.1)).getD (s.sto.expected x.client)) [] := by
  subst hid
  unfold State.kvBatchCommit
  rw [hopen.servedInRole who hrole]
  dsimp only
  cases hx : x.batch with
  | none => rfl
  | some p =>
    obtain ⟨b, l⟩ := p
    exact if_pos (fun (e : b = getLE (uBody u) 0 4) => hb l (e ▸ hx))

end

/-! ### BATCH_STATUS and BATCH_DISCARD (11 R331, R341) -/

theorem kvBatchStatus_answer {st ms : Nat} (h : s.batchState x (getLE (u.drop 16) 0 4) = (st, ms)) :
    s.kvBatchStatus c u = (s.touched x).replyAs c u (getLE u 2 2) 0 0 (leBytes 1 st ++ zeros 3 ++ leBytes 8 ms) := by
  have hv : (s.touched x).batchState { x with used := s.clk.now } (getLE (uBody u) 0 4) = (st, ms) := h
  unfold State.kvBatchStatus
  rw [hopen.served who]
  dsimp only
  rw [hv]
  rfl

theorem kvBatchDiscard_named (h : ∃ l, x.batch = some (getLE (u.drop 16) 0 4, l)) :
    s.kvBatchDiscard c u = ((s.touched x).upSession x.id (fun y => { y with batch := none })).replyAs c u (getLE u 2 2) 0 0 [] := by
  unfold State.kvBatchDiscard
  rw [hopen.served who]
  exact if_pos (batch_named_iff.mpr h)

/-- The answer to a BATCH_DISCARD that does not name the open batch is free. -/
theorem kvBatchDiscard_unnamed (h : ∀ l, x.batch ≠ some (getLE (u.drop 16) 0 4, l)) :
    ∃ st info, s.kvBatchDiscard c u = ((s.touched x).replyAs c u (getLE u 2 2) st info []).useFree := by
  unfold State.kvBatchDiscard
  rw [hopen.served who]
  exact ⟨_, _, if_neg (fun hn => (batch_named_iff.mp hn).elim h)⟩

end

/-! ### Time (11 R333, R334, R338) -/

/-- 60 s without a request close a session. -/
theorem exec_sessionTimeout_closes {n : Nat} {y : Session} (hn : n ≠ 0) (hy : s.dict.session n = some y) (hold : y.used + 60000000000 ≤ max s.clk.now t) :
    exec (.sessionTimeout n t) s = .next (countEdges s ((s.reach t).closeSession n)) := by
  have hr : (s.reach t).dict.session n = some y := hy
  refine congrArg (commit s) ?_
  simp only [hr]
  exact if_pos ⟨hn, hold⟩

/-- Session 0, a session that is not open and one that has had a request since stay as they are. -/
theorem exec_sessionTimeout_stays {n : Nat} (h : n = 0 ∨ s.dict.session n = none ∨ ∃ y, s.dict.session n = some y ∧ max s.clk.now t < y.used + 60000000000) :
    exec (.sessionTimeout n t) s = .next (countEdges s (s.reach t)) := by
  refine congrArg (commit s) ?_
  cases hy : (s.reach t).dict.session n with
  | none => rfl
  | some y =>
    refine if_neg (fun ⟨hn, hold⟩ => ?_)
    have hold : y.used + 60000000000 ≤ max s.clk.now t := hold
    rcases h with h | h | ⟨z, hz, hfresh⟩
    · exact hn h
    · exact Option.some_ne_none y (hy.symm.trans h)
    · have hyz : y = z := Option.some.inj (hy.symm.trans hz)
      subst hyz
      omega

/-! ### The statement -/

/-- Settles O26: the request at the head by its operation and its session, each by the lemma about the way in which it is served. -/
theorem kivaselSessionsAndBatches : Obligations.KivaselSessionsAndBatches := by
  rintro s r v t now id c u body rest x ecc rfl rfl rfl rfl rfl
  refine ⟨fun o op hmem hq => ?_, fun hq hwhole hturn => ?_, fun n y => exec_sessionTimeout_closes, fun n => exec_sessionTimeout_stays, fun n => rfl, rfl⟩
  · obtain ⟨k, hk⟩ := request_of_mem hmem
    exact hk.left (hq.imp_right (fun ⟨hq, hwhole, hnot⟩ => ⟨hq, hwhole, hnot.imp_left decide_eq_false⟩))
  have hhead : s.AtHead c u rest := ⟨hq, hwhole, hturn⟩
  refine ⟨fun hop hc => ?_, fun hop hc h0 => ?_, fun w hop hc h0 hw => ?_, fun hrec hfuse hnet who o op hmem hop => ?_, fun hrec hfuse => ?_⟩
  · subst hc
    exact kOpen_serves.answer hhead hop rfl
  · exact kOpen_serves.answer hhead hop (kvOpen_noClient hc h0)
  · have hserved := kvOpen_client (s := s.taken t rest) hc h0 (withoutClient_eq hw)
    refine ⟨fun hfull => ?_, fun hroom => ?_⟩
    · exact kOpen_serves.answer hhead hop (hserved.trans (if_pos hfull))
    · obtain ⟨hlow, hhigh, hnew⟩ := freshSession_unused (Nat.lt_succ_of_lt hroom)
      refine ⟨w.freshSession, hlow, hhigh, hnew, kOpen_serves.answer hhead hop (hserved.trans ((if_neg (Nat.not_le.mpr hroom)).trans ?_))⟩
      rcases hw with ⟨-, rfl⟩ | ⟨y, -, rfl⟩ <;> rfl
  · obtain ⟨⟨k, hk⟩, hended⟩ := fusedRequest_of_mem hmem
    subst hop
    exact hk.answer hhead rfl (inSession_fused (s.taken t rest) c u _ who hfuse (netChan_iff.mpr hnet) hended)
  have hopen : (s.taken t rest).Open c := (open_of_channel hrec hfuse).taken t rest
  refine ⟨fun who o op hmem hop => ?_, fun who => ?_⟩
  · obtain ⟨k, hk⟩ := sessionRequest_of_mem hmem
    exact hk.answer hhead hop (hopen.unknown who _)
  have who : (s.taken t rest).sessionOf c u = some x := who
  refine ⟨fun hop h0 => kClose_serves.answer hhead hop (kvClose_window hopen who h0),
    fun hop h0 => kClose_serves.answer hhead hop (kvClose_session hopen who h0),
    fun hop hc => kChallenge_serves.answer hhead hop (kvChallenge_window hopen who hc), fun hop hc hl => ?_, fun hop hc hl => ?_,
    fun hop hc => kLogin_serves.answer hhead hop (kvLogin_window hopen who hc), fun w hop hc hw => ⟨fun hp => ?_, fun hp => ?_⟩,
    fun hrole o op hmem hop => ?_, fun hgov hctrl => ?_,
    fun st ms hop h => batchStatus_serves.answer hhead hop (kvBatchStatus_answer hopen who h),
    fun hop h => batchDiscard_serves.answer hhead hop (kvBatchDiscard_named hopen who h), fun hop h => ?_⟩
  · obtain ⟨info, hserved⟩ := kvChallenge_lockedOut hopen who hc hl
    exact ⟨info, kChallenge_serves.answer hhead hop hserved⟩
  · exact ⟨_, freshNonce_length _, kChallenge_serves.answer hhead hop (kvChallenge_fresh hopen who hc hl)⟩
  · subst hw
    exact kLogin_serves.answer hhead hop (kvLogin_proved hopen who hc ((proofOk_iff ..).mpr hp))
  · subst hw
    exact kLogin_serves.answer hhead hop (kvLogin_failed hopen who hc (proofOk_false hp))
  · obtain ⟨k, hk⟩ := roleRequest_of_mem hmem
    exact hk.answer hhead hop (hopen.refusedInRole who (takesBatches_false hrole) _)
  · have hrole : (s.taken t rest).takesBatches = true := takesBatches_true hgov hctrl
    refine ⟨fun w want hop hwant hw => ?_, fun hop hb => ?_, fun b l hop hb => ?_, fun w l hop hb hw => ?_, fun hop hb => ?_⟩
    · have hserved := kvBatchOpen_rows hopen who hrole rfl hwant hw
      refine ⟨fun h0 => ?_, fun l h0 hl hpast => ?_, fun h0 hpast hknown hne => ?_, fun h0 hpast hnext => ?_⟩
      · exact batchOpen_serves.answer hhead hop (hserved.trans (if_pos h0))
      · exact batchOpen_serves.answer hhead hop (hserved.trans ((if_neg h0).trans (if_pos (past_true hl hpast))))
      · exact batchOpen_serves.answer hhead hop (hserved.trans ((if_neg h0).trans ((if_neg (past_ne hpast)).trans (if_pos ⟨hknown, hne⟩))))
      · exact batchOpen_serves.answer hhead hop (hserved.trans ((if_neg h0).trans ((if_neg (past_ne hpast)).trans (if_neg (batchNext hnext)))))
    · exact batchAdd_serves.answer hhead hop (kvBatchAdd_none hopen who hrole hb)
    · have hserved := kvBatchAdd_open hopen who hrole hb
      exact ⟨fun hbig => batchAdd_serves.answer hhead hop (hserved.trans (if_pos hbig)),
        fun hfits => batchAdd_serves.answer hhead hop (hserved.trans (if_neg (Nat.not_lt.mpr hfits)))⟩
    · obtain ⟨hrefused, haccepted⟩ := kvBatchCommit_named hopen who hrole hb hw
      exact ⟨fun st info h => batchCommit_serves.answer hhead hop (hrefused st info h),
        fun items h => batchCommit_serves.answer hhead hop (haccepted items h)⟩
    · have hserved := kvBatchCommit_unnamed hopen who hrole rfl hb
      refine ⟨fun l hl hpast => ?_, fun hpast => ⟨fun hlast => ?_, fun hlast => ?_⟩⟩
      · exact batchCommit_serves.answer hhead hop (hserved.trans (if_pos (past_true hl hpast)))
      · exact batchCommit_serves.answer hhead hop (hserved.trans ((if_neg (past_ne hpast)).trans (if_pos hlast)))
      · exact batchCommit_serves.answer hhead hop (hserved.trans ((if_neg (past_ne hpast)).trans (if_neg hlast)))
  · obtain ⟨st, info, hserved⟩ := kvBatchDiscard_unnamed hopen who h
    exact ⟨st, info, batchDiscard_serves.answer hhead hop hserved⟩

end Sys2Proof.Machine
end

section
/-! PROOFS. Reads of dictionary entries over Kivasel (11 R324, R326, R329, R331, 13 R413, 16 R477): READ, CALENDAR_NOW_READ, READ_MULTI and DESCRIBE. -/

namespace Sys2Proof.Machine

open Sys2Proof

variable {s w : State} {o : Instr} {t i sub st info ty : Nat} {rb : Byte} {val : List Byte} {c : KChan} {u : List Byte} {rest : List (KChan × List Byte)} {x : Session} {ecc : List Ecc}

/-! ### Entries that a request finds (11 R321, R326) -/

/-- Outside the recovery service an index below 0x8000 finds the entry of the tables. -/
theorem find_entry {e : Entry} (hrec : s.pwr.recovery = false) (hi : i < 0x8000) (he : entryAt i sub = some e) : s.find i sub = .entry e := by
  unfold State.find
  rw [hrec, Bool.false_and, if_neg Bool.false_ne_true, if_neg (by omega), if_neg (by omega)]
  simp only [he]

/-- Entry 0x2205 reads the calendar for a privileged session, and is refused to another. -/
theorem getEntry_calendar (hrec : s.pwr.recovery = false) (l : List Byte) :
    s.getEntry 0x2205 0 true l = .value 0x13 (Config.rightByte Right.priv.num) (leBytes 8 s.rtc.cal.ms) ∧ s.getEntry 0x2205 0 false l = .refused 4 0 := by
  have hfind : s.find 0x2205 0 = .entry ⟨0x13, .priv, 8, none, .command⟩ := find_entry hrec (by omega) rfl
  unfold State.getEntry
  rw [hfind]
  exact ⟨rfl, rfl⟩

/-! ### READ (11 R331, 13 R413) -/

theorem latchesLog_iff {off : Nat} : s.latchesLog i off = true ↔ off = 0 ∧ (i = 0x5005 ∨ i = 0x5304 ∧ s.trc.st = 2) := by
  simp [State.latchesLog]

/-- A READ that begins a transfer of the event log or of the frozen ring latches what the transfer reads. -/
def State.logLatched (s : State) (i off id : Nat) : State :=
  if s.latchesLog i off then s.upDict (fun d => { d with volatile := aput (logKey i id) (s.logNow i) d.volatile }) else s

theorem logLatched_eq {z : State} {off id : Nat} (h : ¬ (off = 0 ∧ (i = 0x5005 ∨ i = 0x5304 ∧ z.trc.st = 2)) ∧ w = z ∨
    (off = 0 ∧ (i = 0x5005 ∨ i = 0x5304 ∧ z.trc.st = 2)) ∧ w = z.upDict (fun d => { d with volatile := aput (logKey i id) (z.logNow i) d.volatile })) :
    z.logLatched i off id = w := by
  unfold State.logLatched
  obtain ⟨hno, rfl⟩ | ⟨hlatch, rfl⟩ := h
  · exact if_neg (latchesLog_iff.not.mpr hno)
  · exact if_pos (latchesLog_iff.mpr hlatch)

/-- The answer to a READ from the state `w` that its errors and its latch leave. -/
def State.readAnswer (w : State) (c : KChan) (u : List Byte) (x : Session) : State :=
  match w.getEntry (getLE (u.drop 16) 0 2) (byteAt (u.drop 16) 2) (w.isPriv x) (w.logFor (getLE (u.drop 16) 0 2) x.id) with
  | .refused st info => w.replyAs c u (getLE u 2 2) st info []
  | .value ty rb val => w.replyAs c u (getLE u 2 2) 0 0
    (leBytes 1 ty ++ [rb] ++ zeros 2 ++ leBytes 4 val.length ++ slice val (getLE (u.drop 16) 4 4) (min 1016 (getLE (u.drop 16) 8 4)))

theorem readAnswer_refused (h : w.getEntry (getLE (u.drop 16) 0 2) (byteAt (u.drop 16) 2) (w.isPriv x) (w.logFor (getLE (u.drop 16) 0 2) x.id) = .refused st info) :
    w.readAnswer c u x = w.replyAs c u (getLE u 2 2) st info [] := by
  unfold State.readAnswer
  rw [h]

theorem readAnswer_value (h : w.getEntry (getLE (u.drop 16) 0 2) (byteAt (u.drop 16) 2) (w.isPriv x) (w.logFor (getLE (u.drop 16) 0 2) x.id) = .value ty rb val) :
    w.readAnswer c u x = w.replyAs c u (getLE u 2 2) 0 0
      (leBytes 1 ty ++ [rb] ++ zeros 2 ++ leBytes 4 val.length ++ slice val (getLE (u.drop 16) 4 4) (min 1016 (getLE (u.drop 16) 8 4))) := by
  unfold State.readAnswer
  rw [h]

/-- CALENDAR_NOW_READ is the READ of entry 0x2205. -/
theorem calendarNowRead_serves : Serves .calendarNowRead 0 (fun u => decide (uOp u = 0x10) && decide (itemIndex (uBody u) = 0x2205)) (fun c u s => s.kvRead c u []) :=
  fun _ => rfl

section
variable (hopen : s.Open c) (who : s.sessionOf c u = some x)
include hopen who

/-- A READ finds the errors of what it reads, latches a log that it begins to transfer, and is answered. -/
theorem kvRead_answer (ecc : List Ecc) : s.kvRead c u ecc =
    (((s.touched x).entryReads (getLE (u.drop 16) 0 2) ecc).logLatched (getLE (u.drop 16) 0 2) (getLE (u.drop 16) 4 4) x.id).readAnswer c u x := by
  unfold State.kvRead
  rw [hopen.served who]
  rfl

/-! ### READ_MULTI and DESCRIBE (11 R331) -/

theorem kvReadMulti_answer {out : List Byte} (hw : w = (List.range ((u.drop 16).length / 4)).foldl (fun acc k => acc.entryReads (getLE (u.drop 16) (4 * k) 2) ecc) (s.touched x))
    (hout : out = (List.range ((u.drop 16).length / 4)).flatMap (fun k => (w.getEntry (getLE (u.drop 16) (4 * k) 2) (byteAt (u.drop 16) (4 * k + 2)) (w.isPriv x)
      (w.logNow (getLE (u.drop 16) (4 * k) 2))).item)) :
    s.kvReadMulti c u ecc = if 1024 < out.length then w.replyAs c u (getLE u 2 2) 12 1024 [] else w.replyAs c u (getLE u 2 2) 0 0 out := by
  subst hout hw
  unfold State.kvReadMulti
  exact hopen.served who _

theorem kvDescribe_refused (h : (s.touched x).describe (itemIndex (uBody u)) (itemSub (uBody u)) = .refused st info) :
    s.kvDescribe c u = (s.touched x).replyAs c u (getLE u 2 2) st info [] := by
  unfold State.kvDescribe
  rw [hopen.served who, h]
  rfl

/-- A default that does not fit a unit is refused. -/
theorem kvDescribe_value (h : (s.touched x).describe (itemIndex (uBody u)) (itemSub (uBody u)) = .value ty rb val) :
    s.kvDescribe c u = if 1020 < val.length then (s.touched x).replyAs c u (getLE u 2 2) 12 1024 []
      else (s.touched x).replyAs c u (getLE u 2 2) 0 0 (leBytes 1 ty ++ [rb] ++ zeros 2 ++ val) := by
  unfold State.kvDescribe
  rw [hopen.served who, h]
  rfl

end

/-- A READ, and CALENDAR_NOW_READ where it is one of entry 0x2205. -/
theorem exec_read (hu : s.AtHead c u rest) (hop : uOp u = 0x10)
    (ho : o = .kRead t ecc ∨ (o = .calendarNowRead ∧ getLE (u.drop 16) 0 2 = 0x2205 ∧ t = 0 ∧ ecc = [])) (hw : (s.taken t rest).kvRead c u ecc = w) :
    exec o s = .next (countEdges s (w.kvAuto 65)) := by
  obtain rfl | ⟨rfl, hi, rfl, rfl⟩ := ho
  · exact (kRead_serves ecc).answer hu hop hw
  · exact calendarNowRead_serves.answerWanted hu (Bool.and_eq_true _ _ ▸ ⟨decide_eq_true hop, decide_eq_true hi⟩) hw

end Sys2Proof.Machine
end

section
/-! PROOFS. Writes of dictionary entries over Kivasel (11 R324, R325, R331, R334, R348, R350): what a WRITE finds, how a whole value is judged, and the values of the entries with an effect of their own. That the answer to a WRITE in part of a value of fixed size is free is log 38. -/

namespace Sys2Proof.Machine

open Sys2Proof

variable {s : State} {o : Instr} {t i sub st f n : Nat} {c : KChan} {u v : List Byte} {rest : List (KChan × List Byte)} {x : Session} {e : Entry}

/-! ### WRITE (11 R324, R331) -/

/-- A WRITE of `data` at `off` to an entry that is found, by its right and its type. -/
def State.entryWrite (s : State) (c : KChan) (u : List Byte) (x : Session) (e : Entry) (i sub off : Nat) (data : List Byte) (last : Bool) : State :=
  if e.right = .sealed then s.replyAs c u (getLE u 2 2) 5 0 []
  else if e.right = .ro ∨ (e.right = .priv ∧ !s.isPriv x) then s.replyAs c u (getLE u 2 2) 4 0 []
  else if e.type = 0x21 then s.writeDomain c u i off data last
  else if off ≠ 0 ∨ !last then
    (s.replyAs c u (getLE u 2 2) (1 + (Config.openAnswer s.free).1 % 16) ((Config.openAnswer s.free).2 % 2 ^ 32) []).useFree
  else s.writeValue c u e i sub data

section
variable (hopen : s.Open c) (who : s.sessionOf c u = some x)
include hopen who

/-- A published value cannot be written. -/
theorem kvWrite_published (hlow : 0x8000 ≤ getLE (u.drop 16) 0 2) (hhigh : getLE (u.drop 16) 0 2 < 0xC000) :
    s.kvWrite c u = (s.touched x).replyAs c u (getLE u 2 2) 4 0 [] := by
  have hrec : (s.touched x).pwr.recovery = false := hopen.recovery
  unfold State.kvWrite
  rw [hopen.served who]
  refine if_pos ⟨hlow, hhigh, ?_⟩
  rw [hrec]
  rfl

theorem kvWrite_refused (hi : getLE (u.drop 16) 0 2 < 0x8000 ∨ 0xC000 ≤ getLE (u.drop 16) 0 2)
    (hfind : (s.touched x).find (itemIndex (uBody u)) (itemSub (uBody u)) = .refused st) : s.kvWrite c u = (s.touched x).replyAs c u (getLE u 2 2) st 0 [] := by
  unfold State.kvWrite
  rw [hopen.served who]
  refine (if_neg (fun ⟨hlow, hhigh, _⟩ => hi.elim (Nat.not_lt.mpr hlow) (Nat.not_le.mpr hhigh))).trans ?_
  rw [hfind]
  rfl

theorem kvWrite_entry (hi : getLE (u.drop 16) 0 2 < 0x8000) (hfind : (s.touched x).find (itemIndex (uBody u)) (itemSub (uBody u)) = .entry e) :
    s.kvWrite c u = (s.touched x).entryWrite c u x e (getLE (u.drop 16) 0 2) (byteAt (u.drop 16) 2) (getLE (u.drop 16) 4 4) ((u.drop 16).drop 12)
      ((byteAt (u.drop 16) 8).testBit 0) := by
  unfold State.kvWrite
  rw [hopen.served who]
  refine (if_neg (fun ⟨hlow, _, _⟩ => Nat.not_lt.mpr hlow hi)).trans ?_
  rw [hfind]
  rfl

end

section
variable {off : Nat} {data : List Byte} {last : Bool}

theorem entryWrite_sealed (h : e.right = .sealed) : s.entryWrite c u x e i sub off data last = s.replyAs c u (getLE u 2 2) 5 0 [] := if_pos h

theorem entryWrite_access (h : e.right = .ro ∨ e.right = .priv ∧ s.isPriv x = false) :
    s.entryWrite c u x e i sub off data last = s.replyAs c u (getLE u 2 2) 4 0 [] := by
  have hsealed : e.right ≠ .sealed := by
    intro hs
    rcases h with h | ⟨h, -⟩ <;> rw [hs] at h <;> cases h
  exact (if_neg hsealed).trans (if_pos (h.imp_right (And.imp_right (by simp))))

section
variable (hsealed : e.right ≠ .sealed) (hro : e.right ≠ .ro) (hpriv : e.right = .priv → s.isPriv x = true)
include hsealed hro hpriv

/-- An entry that the session may write takes a segment, a part of a value or a whole value. -/
theorem entryWrite_allowed : s.entryWrite c u x e i sub off data last =
    if e.type = 0x21 then s.writeDomain c u i off data last
    else if off ≠ 0 ∨ !last then
      (s.replyAs c u (getLE u 2 2) (1 + (Config.openAnswer s.free).1 % 16) ((Config.openAnswer s.free).2 % 2 ^ 32) []).useFree
    else s.writeValue c u e i sub data := by
  refine (if_neg hsealed).trans (if_neg ?_)
  rintro (h | ⟨h, hn⟩)
  · exact hro h
  · rw [hpriv h] at hn
    cases hn

theorem entryWrite_domain (hty : e.type = 0x21) : s.entryWrite c u x e i sub off data last = s.writeDomain c u i off data last :=
  (entryWrite_allowed hsealed hro hpriv).trans (if_pos hty)

/-- The answer to a part of a value of fixed size is free. -/
theorem entryWrite_part (hty : e.type ≠ 0x21) (hpart : off ≠ 0 ∨ last = false) :
    ∃ st info, s.entryWrite c u x e i sub off data last = (s.replyAs c u (getLE u 2 2) st info []).useFree :=
  ⟨_, _, (entryWrite_allowed hsealed hro hpriv).trans ((if_neg hty).trans (if_pos (hpart.imp_right (fun h => h ▸ rfl))))⟩

theorem entryWrite_whole (hty : e.type ≠ 0x21) (hoff : off = 0) (hlast : last = true) :
    s.entryWrite c u x e i sub off data last = s.writeValue c u e i sub data := by
  subst hoff hlast
  exact (entryWrite_allowed hsealed hro hpriv).trans ((if_neg hty).trans (if_neg (by decide)))

end

end

/-! ### A whole value (11 R325, R331) -/

theorem writeValue_refused {a : Ans} (h : s.valueRefusal e i sub v = some a) : s.writeValue c u e i sub v = a.state.replyAs c u (getLE u 2 2) a.status a.info [] := by
  unfold State.writeValue
  rw [h]
  rfl

theorem writeValue_command {a : Ans} (h : s.valueRefusal e i sub v = none) (he : e.eff = .command)
    (ha : a = if i < 0x3000 then s.commandLow c i (leNat v) else s.commandHigh i (leNat v)) :
    s.writeValue c u e i sub v = a.state.replyAs c u (getLE u 2 2) a.status a.info [] := by
  subst ha
  unfold State.writeValue
  rw [h]
  exact if_pos he

theorem writeValue_stored (h : s.valueRefusal e i sub v = none) (he : e.eff ≠ .command) :
    s.writeValue c u e i sub v = s.storeSystem (entryKey i sub) v (some ⟨c, getLE u 2 2, getLE u 4 4⟩) := by
  unfold State.writeValue
  rw [h]
  exact if_neg he

/-- A value of the right size within its range is not refused. -/
theorem valueRefusal_none (hcheck : valueCheck e.type e.size v = stOk)
    (hrange : (if i < 0x3000 then s.rangeLow i sub (leNat v) (entryKey i sub) v else s.rangeHigh i sub (leNat v) (entryKey i sub) v) = true) :
    s.valueRefusal e i sub v = none := by
  unfold State.valueRefusal
  rw [hcheck]
  exact (if_neg (by decide)).trans ((if_neg (not_not.mpr rfl)).trans (if_pos hrange))

/-! ### Entries with an effect of their own (11 R334, R348, R350) -/

theorem entryAt_accessKey : entryAt 0x1020 0 = some ⟨0x20, .priv, 32, some (zeros 32), .once⟩ := rfl
theorem entryAt_defaults : entryAt 0x1011 0 = some eC := rfl
theorem entryAt_fuses : entryAt 0x1010 1 = some (eU 0x08 4 .priv 0 .command) := rfl

theorem accessKey_value (h : v.length = 32) : s.valueRefusal ⟨0x20, .priv, 32, some (zeros 32), .once⟩ 0x1020 0 v = none :=
  valueRefusal_none (if_neg (not_not.mpr h)) rfl

theorem restoreDefaults_value : s.valueRefusal eC 0x1011 0 [1] = none := valueRefusal_none rfl rfl

theorem fuseBlow_value (h : v.length = 4) : s.valueRefusal (eU 0x08 4 .priv 0 .command) 0x1010 1 v = none :=
  valueRefusal_none (if_neg (not_not.mpr h)) rfl

/-- RESTORE_DEFAULTS marks the defaults for the next start-up, INFO telling so. -/
theorem commandLow_defaults : s.commandLow c 0x1011 1 = ⟨0, 1, s.upDict (fun d => { d with restoreDef := true })⟩ := rfl

theorem commandLow_fuse_net (hc : netChan c = true) : s.commandLow c 0x1010 n = s.no 4 0 := by
  unfold State.commandLow
  rw [if_pos rfl, if_pos hc]
  rfl

theorem commandLow_fuse_range (hc : netChan c = false) (hn : n < 0xA5A50000 ∨ 0xA5A50003 < n) : s.commandLow c 0x1010 n = s.no 7 0 := by
  unfold State.commandLow
  rw [if_pos rfl, if_neg (Bool.eq_false_iff.mp hc), if_pos hn]
  rfl

/-- A fuse that is blown, or whose blow has begun, is left so. -/
theorem commandLow_fuse (hc : netChan c = false) (hn : n = 0xA5A50000 + f) (hf : f < 4) : s.commandLow c 0x1010 n =
    if s.dict.fuses.getLsbD f || s.dict.blowing.contains f then s.ok else (s.upDict (fun d => { d with blowing := d.blowing ++ [f] })).ok := by
  subst hn
  have hsub : 0xA5A50000 + f - 0xA5A50000 = f := Nat.add_sub_cancel_left ..
  unfold State.commandLow
  rw [if_pos rfl, if_neg (Bool.eq_false_iff.mp hc), if_neg (by omega), hsub]

end Sys2Proof.Machine
end

section
/-! PROOFS. WRITE and its commands at the head of the queue, the end of a fuse's blow, and the segments of a publication map (11 R325, R327, R328, R331, R334, R347 to R350). -/

namespace Sys2Proof.Machine

open Sys2Proof

variable {s w : State} {o : Instr} {t i sub f off : Nat} {c : KChan} {u data part : List Byte} {rest : List (KChan × List Byte)} {x : Session} {e : Entry} {last : Bool}

/-! ### The commands that serve a WRITE (11 R331, R334, R348, R350) -/

theorem accessKeyWrite_serves : Serves (.accessKeyWrite t) t (isWrite (fun i _ => decide (i = 0x1020))) (fun c u s => s.kvWrite c u) := fun _ => rfl
theorem fuseBlow_serves : Serves (.fuseBlow t) t (isWrite (fun i j => decide (i = 0x1010 ∧ j = 1))) (fun c u s => s.kvWrite c u) := fun _ => rfl
theorem restoreDefaults_serves : Serves (.restoreDefaults t) t (isWrite (fun i _ => decide (i = 0x1011))) (fun c u s => s.kvWrite c u) := fun _ => rfl

theorem isWrite_true {p : Nat → Nat → Bool} (hop : uOp u = 0x20) (hp : p (itemIndex (uBody u)) (itemSub (uBody u)) = true) : isWrite p u = true := by
  unfold isWrite
  rw [decide_eq_true hop, hp]
  rfl

/-- A WRITE is served by the command of its operation, and one of an entry with an effect of its own by that entry's command too. -/
theorem exec_write (hu : s.AtHead c u rest) (hop : uOp u = 0x20) (hi : i = getLE (u.drop 16) 0 2) (hsub : sub = byteAt (u.drop 16) 2)
    (ho : o = .kWrite t ∨ (o = .accessKeyWrite t ∧ i = 0x1020) ∨ (o = .fuseBlow t ∧ i = 0x1010 ∧ sub = 1) ∨ (o = .restoreDefaults t ∧ i = 0x1011))
    (hw : (s.taken t rest).kvWrite c u = w) : exec o s = .next (countEdges s (w.kvAuto 65)) := by
  subst hi hsub
  obtain rfl | ⟨rfl, h⟩ | ⟨rfl, h⟩ | ⟨rfl, h⟩ := ho
  · exact kWrite_serves.answer hu hop hw
  · exact accessKeyWrite_serves.answerWanted hu (isWrite_true hop (decide_eq_true h)) hw
  · exact fuseBlow_serves.answerWanted hu (isWrite_true hop (decide_eq_true h)) hw
  · exact restoreDefaults_serves.answerWanted hu (isWrite_true hop (decide_eq_true h)) hw

/-- A privileged session's WRITE of a whole value to a privileged entry of fixed size. -/
theorem kvWrite_whole (hopen : s.Open c) (who : s.sessionOf c u = some x) (hi : getLE (u.drop 16) 0 2 = i) (hsub : byteAt (u.drop 16) 2 = sub) (hlow : i < 0x8000)
    (he : entryAt i sub = some e) (hright : e.right = .priv) (hty : e.type ≠ 0x21) (hpriv : (s.touched x).isPriv x = true)
    (hoff : getLE (u.drop 16) 4 4 = 0) (hlast : (byteAt (u.drop 16) 8).testBit 0 = true) :
    s.kvWrite c u = (s.touched x).writeValue c u e i sub ((u.drop 16).drop 12) := by
  subst hi hsub
  have hfind : (s.touched x).find (itemIndex (uBody u)) (itemSub (uBody u)) = .entry e := find_entry hopen.recovery hlow he
  exact (kvWrite_entry hopen who hlow hfind).trans (entryWrite_whole (by rw [hright]; decide) (by rw [hright]; decide) (fun _ => hpriv) hty hoff hlast)

section
variable (hopen : s.Open c) (who : s.sessionOf c u = some x) (hpriv : (s.touched x).isPriv x = true) (hoff : getLE (u.drop 16) 4 4 = 0)
  (hlast : (byteAt (u.drop 16) 8).testBit 0 = true)
include hopen who hpriv hoff hlast

/-- 32 bytes of access key are given to the system record. -/
theorem kvWrite_accessKey (hi : getLE (u.drop 16) 0 2 = 0x1020) (hsub : byteAt (u.drop 16) 2 = 0) (hlen : ((u.drop 16).drop 12).length = 32) :
    s.kvWrite c u = (s.touched x).storeSystem 0x102000 ((u.drop 16).drop 12) (some ⟨c, getLE u 2 2, getLE u 4 4⟩) :=
  (kvWrite_whole hopen who hi hsub (by decide) entryAt_accessKey rfl (by decide) hpriv hoff hlast).trans (writeValue_stored (accessKey_value hlen) (by decide))

/-- 1 marks the defaults for the next start-up. -/
theorem kvWrite_defaults (hi : getLE (u.drop 16) 0 2 = 0x1011) (hsub : byteAt (u.drop 16) 2 = 0) (hdata : (u.drop 16).drop 12 = [1]) :
    s.kvWrite c u = ((s.touched x).upDict (fun d => { d with restoreDef := true })).replyAs c u (getLE u 2 2) 0 1 [] := by
  have hwrite := kvWrite_whole hopen who hi hsub (by decide) entryAt_defaults rfl (by decide) hpriv hoff hlast
  rw [hdata] at hwrite
  exact hwrite.trans (writeValue_command restoreDefaults_value rfl (commandLow_defaults (c := c)).symm)

section
variable (hi : getLE (u.drop 16) 0 2 = 0x1010) (hsub : byteAt (u.drop 16) 2 = 1) (hlen : ((u.drop 16).drop 12).length = 4)
include hi hsub hlen

/-- A WRITE of four bytes to the fuses is answered as the blow answers. -/
theorem kvWrite_fuse {a : Ans} (ha : (s.touched x).commandLow c 0x1010 (leNat ((u.drop 16).drop 12)) = a) :
    s.kvWrite c u = a.state.replyAs c u (getLE u 2 2) a.status a.info [] := by
  refine (kvWrite_whole hopen who hi hsub (by decide) entryAt_fuses rfl (by decide) hpriv hoff hlast).trans (writeValue_command (fuseBlow_value hlen) rfl ?_)
  rw [if_pos (by decide), ha]

/-- No fuse is blown over UDP or CAN. -/
theorem kvWrite_fuse_net (hc : netChan c = true) : s.kvWrite c u = (s.touched x).replyAs c u (getLE u 2 2) 4 0 [] :=
  kvWrite_fuse hopen who hpriv hoff hlast hi hsub hlen (a := (s.touched x).no 4 0) (commandLow_fuse_net hc)

theorem kvWrite_fuse_range (hc : netChan c = false) (hn : leNat ((u.drop 16).drop 12) < 0xA5A50000 ∨ 0xA5A50003 < leNat ((u.drop 16).drop 12)) :
    s.kvWrite c u = (s.touched x).replyAs c u (getLE u 2 2) 7 0 [] :=
  kvWrite_fuse hopen who hpriv hoff hlast hi hsub hlen (a := (s.touched x).no 7 0) (commandLow_fuse_range hc hn)

section
variable (hc : netChan c = false) (hn : leNat ((u.drop 16).drop 12) = 0xA5A50000 + f) (hf : f < 4)
include hc hn hf

/-- A fuse that is blown, or whose blow has begun, is left so. -/
theorem kvWrite_fuse_begun (h : s.dict.fuses.getLsbD f = true ∨ s.dict.blowing.contains f = true) : s.kvWrite c u = (s.touched x).replyAs c u (getLE u 2 2) 0 0 [] := by
  refine kvWrite_fuse hopen who hpriv hoff hlast hi hsub hlen (a := (s.touched x).ok) ((commandLow_fuse hc hn hf).trans (if_pos ?_))
  rw [State.touched, upSession_fuses, upSession_blowing, Bool.or_eq_true]
  exact h

/-- The blow of an intact fuse begins. -/
theorem kvWrite_fuse_begins (hintact : s.dict.fuses.getLsbD f = false) (hidle : s.dict.blowing.contains f = false) : s.kvWrite c u =
    ((s.touched x).upDict (fun d => { d with blowing := d.blowing ++ [f] })).replyAs c u (getLE u 2 2) 0 0 [] := by
  refine kvWrite_fuse hopen who hpriv hoff hlast hi hsub hlen (a := ((s.touched x).upDict (fun d => { d with blowing := d.blowing ++ [f] })).ok)
    ((commandLow_fuse hc hn hf).trans (if_neg ?_))
  rw [State.touched, upSession_fuses, upSession_blowing, hintact, hidle]
  exact Bool.false_ne_true

end

end

end

/-! ### The end of a blow (11 R348, R349) -/

/-- The fuse whose blow began first is blown, with its effect. -/
theorem exec_fuseBlowEnd {l : List Nat} (h : s.dict.blowing = f :: l) : exec .fuseBlowEnd s = .next (countEdges s (s.fuseBlown f)) := by
  refine congrArg (commit s) ?_
  rw [h]

theorem exec_fuseBlowEnd_none (h : s.dict.blowing = []) : exec .fuseBlowEnd s = .next s := by
  refine (congrArg (commit s) ?_).trans (commit_self s)
  rw [h]

/-! ### Segments of a publication map (11 R327, R328) -/

/-- A segment out of order, or one beyond 16 MiB, drops what was staged. -/
theorem mapSegment_dropped (hpart : part = if off = 0 then [] else s.dict.pubStaged) (h : off ≠ part.length ∨ 16777216 < off + data.length) :
    (s.mapSegment off data last).state = s.upDict (fun q => { q with pubStaged := [] }) := by
  unfold State.mapSegment
  dsimp only
  rw [← hpart]
  by_cases horder : off = part.length
  · rw [if_neg (not_not.mpr horder), if_pos (h.resolve_left (not_not.mpr horder))]
    rfl
  · rw [if_pos horder]
    rfl

/-- The next segment waits with what was staged. -/
theorem mapSegment_waits (hpart : part = if off = 0 then [] else s.dict.pubStaged) (horder : off = part.length) (hsize : off + data.length ≤ 16777216) :
    (s.mapSegment off data false).state = s.upDict (fun q => { q with pubStaged := part ++ data }) := by
  unfold State.mapSegment
  dsimp only
  rw [← hpart, if_neg (not_not.mpr horder), if_neg (Nat.not_lt.mpr hsize)]
  rfl

/-- With the last segment the map is judged, and nothing stays staged. -/
theorem mapSegment_last (hpart : part = if off = 0 then [] else s.dict.pubStaged) (horder : off = part.length) (hsize : off + data.length ≤ 16777216) :
    s.mapSegment off data true = (s.upDict (fun q => { q with pubStaged := [] })).mapDone (part ++ data) := by
  unfold State.mapSegment
  dsimp only
  rw [← hpart, if_neg (not_not.mpr horder), if_neg (Nat.not_lt.mpr hsize)]
  rfl

/-- A map that breaks R327 changes nothing. -/
theorem mapDone_bad (h : mapOk data = false) : (s.mapDone data).state = s := by
  unfold State.mapDone
  rw [h]
  rfl

/-- A map of the image in force takes force at the next boundary while beats run, else at once. -/
theorem mapDone_inForce (hok : mapOk data = true) (himg : s.ldr.img.isSome = true) (hdigest : data.take 32 = s.ldr.digest) : (s.mapDone data).state =
    if s.clk.running then s.upDict (fun q => { q with pubNext := some (mapEntries data) }) else s.upDict (fun q => { q with pubMap := mapEntries data, pubNext := none }) := by
  unfold State.mapDone
  dsimp only
  rw [hok, Bool.not_true, if_neg Bool.false_ne_true, if_pos ⟨himg, hdigest⟩]
  rfl

/-- A map of another image waits with the staged one, where it is that image's; else it changes nothing. -/
theorem mapDone_staged (hok : mapOk data = true) (hother : s.ldr.img = none ∨ data.take 32 ≠ s.ldr.digest) : (s.mapDone data).state =
    if s.ldr.staged ≠ [] ∧ s.ldr.state ≠ 1 ∧ data.take 32 = s.ldr.stagedDigest then s.upDict (fun q => { q with pubPend := mapEntries data }) else s := by
  have hnot : ¬ (s.ldr.img.isSome = true ∧ data.take 32 = s.ldr.digest) := by
    rintro ⟨himg, hdigest⟩
    rcases hother with h | h
    · rw [h] at himg
      cases himg
    · exact h hdigest
  unfold State.mapDone
  dsimp only
  rw [hok, Bool.not_true, if_neg Bool.false_ne_true, if_neg hnot]
  simp only [Bool.not_eq_true', List.isEmpty_eq_false_iff]
  split <;> rfl

/-! ### The statement -/

/-- Settles O27: a READ or a WRITE at the head by what its entry answers, the entries with an effect of their own as WRITEs of whole values, then the fuses and the map. -/
theorem kivaselReadsAndWrites : Obligations.KivaselReadsAndWrites := by
  intro s r v z t now i sub off f c u body data part rest x ecc lastSeg
  refine ⟨?_, exec_fuseBlowEnd_none, ?_, ?_⟩
  · rintro rfl rfl rfl rfl rfl rfl rfl rfl rfl hq hwhole hturn who hrec hfuse
    have hhead : s.AtHead c u rest := ⟨hq, hwhole, hturn⟩
    have hopen : (s.taken t rest).Open c := (open_of_channel hrec hfuse).taken t rest
    have who : (s.taken t rest).sessionOf c u = some x := who
    refine ⟨fun w o ho hop hw => ?_, fun l => getEntry_calendar (s := (s.taken t rest).touched x) hrec l, fun w out hop hw hout => ?_,
      fun hop => ⟨fun st info h => ?_, fun ty rb val h => ?_⟩,
      fun hop o ho => ?_, fun hop hoff hlast hpriv => ?_⟩
    · have hserved := (kvRead_answer hopen who ecc).trans (congrArg (fun y : State => y.readAnswer c u x) (logLatched_eq hw))
      exact ⟨fun st info h => exec_read hhead hop ho (hserved.trans (readAnswer_refused h)), fun ty rb val h => exec_read hhead hop ho (hserved.trans (readAnswer_value h))⟩
    · have hserved := kvReadMulti_answer hopen who hw hout
      exact ⟨fun hbig => (kReadMulti_serves ecc).answer hhead hop (hserved.trans (if_pos hbig)),
        fun hfits => (kReadMulti_serves ecc).answer hhead hop (hserved.trans (if_neg (Nat.not_lt.mpr hfits)))⟩
    · exact kDescribe_serves.answer hhead hop (kvDescribe_refused hopen who h)
    · have hserved := kvDescribe_value hopen who h
      exact ⟨fun hbig => kDescribe_serves.answer hhead hop (hserved.trans (if_pos hbig)),
        fun hfits => kDescribe_serves.answer hhead hop (hserved.trans (if_neg (Nat.not_lt.mpr hfits)))⟩
    · refine ⟨fun hlow hhigh => exec_write hhead hop rfl rfl ho (kvWrite_published hopen who hlow hhigh),
        fun hi st h => exec_write hhead hop rfl rfl ho (kvWrite_refused hopen who hi h), fun hi e he => ?_⟩
      have hserved := kvWrite_entry hopen who hi he
      refine ⟨fun h => exec_write hhead hop rfl rfl ho (hserved.trans (entryWrite_sealed h)), fun h => exec_write hhead hop rfl rfl ho (hserved.trans (entryWrite_access h)),
        fun hsealed hro hpriv => ?_⟩
      refine ⟨fun hty => exec_write hhead hop rfl rfl ho (hserved.trans (entryWrite_domain hsealed hro hpriv hty)), fun hty h => ?_, fun hty hoff hlast => ?_⟩
      · obtain ⟨st, info, hfree⟩ := entryWrite_part hsealed hro hpriv hty h
        exact ⟨st, info, exec_write hhead hop rfl rfl ho (hserved.trans hfree)⟩
      · have hserved := hserved.trans (entryWrite_whole hsealed hro hpriv hty hoff hlast)
        exact ⟨fun a h => exec_write hhead hop rfl rfl ho (hserved.trans (writeValue_refused h)),
          fun a h he ha => exec_write hhead hop rfl rfl ho (hserved.trans (writeValue_command h he ha)),
          fun h he => exec_write hhead hop rfl rfl ho (hserved.trans (writeValue_stored h he))⟩
    · refine ⟨fun hi hsub hlen => ?_, fun hi hsub hdata => ?_, fun hi hsub hlen => ?_⟩
      · exact accessKeyWrite_serves.answerWanted hhead (isWrite_true hop (decide_eq_true hi)) (kvWrite_accessKey hopen who hpriv hoff hlast hi hsub hlen)
      · exact restoreDefaults_serves.answerWanted hhead (isWrite_true hop (decide_eq_true hi)) (kvWrite_defaults hopen who hpriv hoff hlast hi hsub hdata)
      · have hwant := isWrite_true (p := fun i j => decide (i = 0x1010 ∧ j = 1)) hop (decide_eq_true ⟨hi, hsub⟩)
        exact ⟨fun hc => fuseBlow_serves.answerWanted hhead hwant (kvWrite_fuse_net hopen who hpriv hoff hlast hi hsub hlen hc),
          fun hc hn => fuseBlow_serves.answerWanted hhead hwant (kvWrite_fuse_range hopen who hpriv hoff hlast hi hsub hlen hc hn),
          fun hc hn hf h => fuseBlow_serves.answerWanted hhead hwant (kvWrite_fuse_begun hopen who hpriv hoff hlast hi hsub hlen hc hn hf h),
          fun hc hn hf hintact hidle => fuseBlow_serves.answerWanted hhead hwant (kvWrite_fuse_begins hopen who hpriv hoff hlast hi hsub hlen hc hn hf hintact hidle)⟩
  · rintro l w hblow rfl
    refine ⟨fun h1 h2 h3 => ?_, fun h => ?_, fun h => ?_, fun h => ?_⟩ <;> refine (exec_fuseBlowEnd hblow).trans (congrArg (commit s) ?_)
    · exact (if_neg h1).trans ((if_neg h2).trans (if_neg h3))
    · exact if_pos h
    · subst h
      rfl
    · subst h
      rfl
  · rintro base rfl hpart
    refine ⟨fun h => congrArg (commit s) (mapSegment_dropped hpart h), fun horder hsize => ⟨fun hl => ?_, fun hl hbad => ?_, fun hl hok => ?_⟩⟩ <;> subst hl
    · exact congrArg (commit s) (mapSegment_waits hpart horder hsize)
    all_goals have hjudged := congrArg Ans.state (mapSegment_last hpart horder hsize)
    · exact congrArg (commit s) (hjudged.trans (mapDone_bad hbad))
    refine ⟨fun himg hdigest => ?_, fun hother => ?_⟩
    · have hinForce := hjudged.trans (mapDone_inForce hok himg hdigest)
      exact ⟨fun hrun => congrArg (commit s) (hinForce.trans (if_pos hrun)), fun hrun => congrArg (commit s) (hinForce.trans (if_neg (Bool.eq_false_iff.mp hrun)))⟩
    · have hstaged := hjudged.trans (mapDone_staged hok hother)
      refine ⟨fun h1 h2 h3 => congrArg (commit s) (hstaged.trans (if_pos ⟨h1, h2, h3⟩)), fun hno => congrArg (commit s) (hstaged.trans (if_neg ?_))⟩
      exact fun ⟨h1, h2, h3⟩ => hno.elim h1 (fun h => h.elim h2 (fun hne => hne h3))

end Sys2Proof.Machine
end

section
/-! PROOFS. The mailbox of wide values (12 R367 to R369): what an update of one master's own registers leaves of them and of those of the others, and the selection, the latch and the reads of a wide value. -/

namespace Sys2Proof.Machine

open Sys2Proof

variable {s u v : State} {m : Master} {r : MasterRegs} {w : Word} {i sel : Nat}

/-! ### One master's own registers (12 R367) -/

theorem masterCode_injective : Function.Injective masterCode := by
  intro a b h
  cases a <;> cases b <;> simp [masterCode] at h ⊢

/-- From `s` to `u` the own registers of master `m` have become `r`, and those of every other master are as they were. -/
structure MregsTo (m : Master) (s u : State) (r : MasterRegs) : Prop where
  own : u.mregs m = r
  others : ∀ q, q ≠ m → u.mregs q = s.mregs q

namespace MregsTo

theorem refl (s : State) (m : Master) : MregsTo m s s (s.mregs m) := ⟨rfl, fun _ _ => rfl⟩

theorem upMregs (s : State) (m : Master) (f : MasterRegs → MasterRegs) : MregsTo m s (s.upMregs m f) (f (s.mregs m)) :=
  ⟨upMregs_same s m f, fun _ hq => vget_vup_ne (fun h => hq (masterCode_injective h)) _ _⟩

/-- An operation on the rest of the state leaves the masters' own registers. -/
theorem of_regs (h : MregsTo m s u r) (e : v.host.regs = u.host.regs) : MregsTo m s v r := by
  have hv : ∀ q, v.mregs q = u.mregs q := fun q => by unfold State.mregs; rw [e]
  exact ⟨(hv m).trans h.own, fun q hq => (hv q).trans (h.others q hq)⟩

end MregsTo

/-! ### Reads that reach their register (12 R364) -/

/-- A read that reaches its register obtains the word that the block answers, and leaves what the block leaves. -/
theorem regRead_reaches {addr : Nat} (h : s.readReaches m addr = true) (e : s.blockRead m (addr / 4096) (addr % 4096) (s.privOf m) = (w, u)) :
    s.regRead m addr = u.hostGets [w] := by
  rw [State.regRead, fabricRead_reaches h, e]
  rfl

/-! ### MBX_SEL (12 R367, R368) -/

theorem exec_mbxSelWrite_legal (h : s.readReaches m 0x12000 = true) (hw : wfield w 7 0 ≤ 5) :
    exec (.mbxSelWrite m w) s = commit s (s.mbxSelect m (wfield w 7 0)) := by
  refine congrArg (commit s) (fabricWrite_done h ?_)
  show needLegal (decide (wfield w 7 0 ≤ 5)) _ = _
  rw [decide_eq_true hw]
  rfl

theorem exec_mbxSelWrite_reserved (h : s.readReaches m 0x12000 = true) (hw : 5 < wfield w 7 0) :
    exec (.mbxSelWrite m w) s = commit s (s.accessFault m 0x12000 flagRsvd) := by
  refine congrArg (commit s) (fabricWrite_refused h ?_)
  show needLegal (decide (wfield w 7 0 ≤ 5)) _ = _
  rw [decide_eq_false (Nat.not_le.mpr hw)]
  rfl

/-- A refused write leaves every master's own registers. -/
theorem accessFault_regs (s : State) (m : Master) (addr f : Nat) : (s.accessFault m addr f).host.regs = s.host.regs := by
  unfold State.accessFault
  rw [State.occur_host, State.upHost_host]
  split <;> rfl

/-! ### MBX_LATCH (12 R367) -/

theorem mbxLatch_awaited (h : (s.mregs m).mbxPending = true) :
    s.mbxLatch m = s.upMregs m (fun r => { r with mbxPending := false, mbxValid := true, mbxLatched := r.mbxSel, mbxData := s.wide (s.mregs m).mbxSel }) := if_pos h

theorem mbxLatch_idle (h : (s.mregs m).mbxPending = false) : s.mbxLatch m = s := if_neg (Bool.eq_false_iff.mp h)

/-- The latch takes the whole value of its own instant. -/
theorem mbxLatch_answer (s : State) (m q : Master) (t : Nat) : ∃ u, exec (.mbxLatch m t) s = .next u ∧ u.clk = { s.clk with now := max s.clk.now t } ∧
    ((s.mregs m).mbxPending = true → u.mregs m = { s.mregs m with
      mbxPending := false, mbxValid := true, mbxLatched := (s.mregs m).mbxSel, mbxData := (s.reach t).wide (s.mregs m).mbxSel }) ∧
    ((s.mregs m).mbxPending = false → u.mregs m = s.mregs m) ∧ (q ≠ m → u.mregs q = s.mregs q) ∧ Frame { clk := true, host := true } s u := by
  have hframe : Frame { clk := true, host := true } s (countEdges s ((s.reach t).mbxLatch m)) := (State.mbxLatch_keep (State.reach_keep (Keep.refl s) t) m).frame.countEdges s
  refine ⟨_, commit_eq s _, ?_⟩
  cases h : (s.mregs m).mbxPending with
  | true =>
    have hlatch := mbxLatch_awaited (s := s.reach t) h
    rw [hlatch] at hframe ⊢
    have hto := MregsTo.upMregs (s.reach t) m (fun r => { r with mbxPending := false, mbxValid := true, mbxLatched := r.mbxSel, mbxData := (s.reach t).wide (s.mregs m).mbxSel })
    exact ⟨rfl, fun _ => hto.own, (nomatch ·), hto.others q, hframe⟩
  | false =>
    have hlatch := mbxLatch_idle (s := s.reach t) h
    rw [hlatch] at hframe ⊢
    exact ⟨rfl, (nomatch ·), fun _ => rfl, fun _ => rfl, hframe⟩

/-! ### MBX_DATAi (12 R369) -/

theorem mbxData_latched (hv : (s.mregs m).mbxValid = true) (hi : i < (s.mregs m).mbxWords) :
    s.mbxData m i = ((s.mregs m).mbxData[i]?.getD 0, if i + 1 = (s.mregs m).mbxWords then s.upMregs m (fun r => { r with mbxValid := false }) else s) := by
  unfold State.mbxData
  dsimp only
  rw [hv, decide_eq_false (Nat.not_le.mpr hi), if_neg (by decide)]

theorem mbxData_nothing (h : (s.mregs m).mbxValid = false ∨ (s.mregs m).mbxWords ≤ i) : s.mbxData m i = (0, s) :=
  if_pos (by simpa using h)

/-- The read of the last word ends the latch; that of any other leaves it. -/
theorem mbxData_left (hv : (s.mregs m).mbxValid = true) (hi : i < (s.mregs m).mbxWords) :
    MregsTo m s (s.mbxData m i).2 { s.mregs m with mbxValid := decide (i + 1 ≠ (s.mregs m).mbxWords) } := by
  rw [mbxData_latched hv hi]
  dsimp only
  split
  · next hlast =>
    rw [decide_eq_false (not_not_intro hlast)]
    exact .upMregs s m _
  · next hmore =>
    rw [decide_eq_true hmore, ← hv]
    exact .refl s m

theorem mbxData_others {q : Master} (hq : q ≠ m) : (s.mbxData m i).2.mregs q = s.mregs q := by
  by_cases hw : (s.mregs m).mbxValid = true ∧ i < (s.mregs m).mbxWords
  · exact (mbxData_left hw.1 hw.2).others q hq
  · rw [mbxData_nothing (by simpa [or_iff_not_imp_left] using hw)]

theorem exec_mbxDataRead (hi : i < 3) (h : s.readReaches m (0x12008 + 4 * i) = true) :
    exec (.mbxDataRead m i) s = commit s ((s.mbxData m i).2.hostGets [(s.mbxData m i).1]) := by
  refine congrArg (commit s) ((if_pos hi).trans (regRead_reaches h ?_))
  have hpage : (0x12008 + 4 * i) / 4096 = 0x12 := by omega
  have hoff : (0x12008 + 4 * i) % 4096 = 8 + 4 * i := by omega
  rw [hpage, hoff]
  show s.mbxRead m (8 + 4 * i) = _
  unfold State.mbxRead
  dsimp only
  rw [if_neg (by omega), if_neg (by omega), if_pos (by omega), Nat.add_sub_cancel_left, Nat.mul_div_cancel_left i (by decide)]

/-! ### The statement -/

/-- Settles O31: each command as an update of the own registers of the master that uses it. -/
theorem mailboxOfWideValues : Obligations.MailboxOfWideValues := by
  intro s m q v t i hi
  refine ⟨fun h hv => ?_, fun h hv => ?_, mbxLatch_answer s m q t, fun h => ?_⟩
  · have hto := MregsTo.upMregs s m (fun r => { r with mbxSel := wfield v 7 0, mbxWords := mbxCount (wfield v 7 0), mbxPending := true, mbxValid := false })
    exact ⟨_, exec_mbxSelWrite_legal h hv, hto.own, hto.others q, (State.mbxSelect_keep (Keep.refl s) m _).frame.countEdges s⟩
  · have hto := (MregsTo.refl s m).of_regs (v := countEdges s _) (accessFault_regs s m 0x12000 flagRsvd)
    exact ⟨_, exec_mbxSelWrite_reserved h hv, hto.own, accessFault_flag s m _ (by decide), (State.accessFault_keep (Keep.refl s) m _ _).frame.countEdges s⟩
  · refine ⟨_, exec_mbxDataRead hi h, fun hv hw => ?_, fun hno => ?_, mbxData_others, (State.hostGets_keep (State.mbxData_keep (Keep.refl s) m i) _).frame.countEdges s⟩
    · exact ⟨congrArg (fun x : Word × State => [x.1]) (mbxData_latched hv hw), (mbxData_left hv hw).own⟩
    · rw [mbxData_nothing hno]
      exact ⟨rfl, rfl⟩

end Sys2Proof.Machine
end

section
/-! PROOFS. The interrupt controller (12 R374 to R379, R382): what is claimed, taken and ended for a target, and the routes. -/

namespace Sys2Proof.Machine

open Sys2Proof

variable {s : State} {m : Master} {n k tg : Nat} {v : Word}

/-! ### The sources in service (12 R375, R378) -/

theorem aget_adel {β : Type} (k j : Nat) : ∀ l : List (Nat × β), aget (adel l k) j = if j = k then none else aget l j
  | [] => by simp [adel, aget_nil]
  | (i, x) :: l => by
    have ih := aget_adel k j l
    unfold adel at ih ⊢
    rw [List.filter_cons]
    by_cases hik : i = k
    · subst hik
      rw [if_neg (by simp), ih, aget_cons]
      by_cases hj : j = i
      · rw [if_pos hj, if_pos hj]
      · rw [if_neg hj, if_neg hj, if_neg (Ne.symm hj)]
    · rw [if_pos (by simpa using hik), aget_cons, aget_cons, ih]
      by_cases hij : i = j
      · rw [if_pos hij, if_pos hij, if_neg (hij ▸ hik)]
      · rw [if_neg hij, if_neg hij]

theorem serve_same (s : State) (n tg : Nat) : aget (s.serve n tg).host.serving n = some tg :=
  (aget_aput tg n n s.host.serving).trans (if_pos rfl)

theorem serve_other (s : State) (tg : Nat) (h : k ≠ n) : aget (s.serve n tg).host.serving k = aget s.host.serving k :=
  (aget_aput tg n k s.host.serving).trans (if_neg (Ne.symm h))

/-- A source in service is not pending. -/
theorem pendingSrc_of_serving (h : aget s.host.serving n ≠ none) : s.pendingSrc n = false := by
  unfold State.pendingSrc
  rw [Option.isNone_eq_false_iff.mpr (Option.isSome_iff_ne_none.mpr h), Bool.and_false]

theorem endService_served (ht : targetOf m = some tg) (h : aget s.host.serving n = some tg) :
    s.endService m n = s.upHost (fun x => { x with serving := adel x.serving n }) :=
  if_pos ⟨by rw [ht]; rfl, h.trans ht.symm⟩

theorem endService_other (ht : targetOf m = some tg) (h : aget s.host.serving n ≠ some tg) : s.endService m n = s :=
  if_neg (fun hs => h (hs.2.trans ht))

/-! ### INT_CLAIM (12 R376) -/

/-- The highest number below `k` that satisfies `p` is the first of a search from above. -/
theorem find?_reverse_range {p : Nat → Bool} (hn : n < k) (hp : p n = true) (hmax : ∀ j, n < j → j < k → p j = false) :
    (List.range k).reverse.find? p = some n := by
  induction k with
  | zero => exact absurd hn (Nat.not_lt_zero n)
  | succ k ih =>
    rw [List.range_succ, List.reverse_append, List.reverse_singleton, List.singleton_append, List.find?_cons]
    rcases Nat.lt_succ_iff_lt_or_eq.mp hn with hlt | rfl
    · rw [hmax k hlt (Nat.lt_succ_self k)]
      exact ih hlt (fun j hj hjk => hmax j hj (Nat.lt_succ_of_lt hjk))
    · rw [hp]

theorem claim_highest (ht : targetOf m = some tg) (hn : n < 16) (hv : s.vectored tg n = true) (hmax : ∀ j, n < j → j < 16 → s.vectored tg j = false) :
    s.claim m = (w32 n, if n = 11 then s else s.serve n tg) := by
  unfold State.claim
  simp only [ht, find?_reverse_range hn hv hmax]

theorem claim_none (ht : targetOf m = some tg) (h : ∀ j, j < 16 → s.vectored tg j = false) : s.claim m = (w32 spurious, s) := by
  have hfind : (List.range 16).reverse.find? (s.vectored tg) = none :=
    List.find?_eq_none.mpr (fun j hj => by simp [h j (List.mem_range.mp (List.mem_reverse.mp hj))])
  unfold State.claim
  simp only [ht, hfind]

theorem exec_intClaim (h : s.readReaches m 0x1010 = true) : exec (.intClaim m) s = commit s ((s.claim m).2.hostGets [(s.claim m).1]) :=
  congrArg (commit s) (regRead_reaches h rfl)

theorem intClaim_answer (ht : targetOf m = some tg) (h : s.readReaches m 0x1010 = true) : ∃ t, exec (.intClaim m) s = .next t ∧ Frame { host := true } s t ∧
    (n < 16 → s.vectored tg n = true → (∀ j, n < j → j < 16 → s.vectored tg j = false) → t.host.rdata = [w32 n] ∧
      (n ≠ 11 → aget t.host.serving n = some tg) ∧ (n = 11 → t.host.serving = s.host.serving) ∧
      (k ≠ n → aget t.host.serving k = aget s.host.serving k)) ∧
    ((∀ j, j < 16 → s.vectored tg j = false) → t.host.rdata = [0x3FF#32] ∧ t.host.serving = s.host.serving) := by
  refine ⟨_, exec_intClaim h, (State.hostGets_keep (State.claim_keep (Keep.refl s) m) _).frame.countEdges s, fun hn hv hmax => ?_, fun hnone => ?_⟩
  · rw [claim_highest ht hn hv hmax]
    by_cases h11 : n = 11
    · rw [if_pos h11]
      exact ⟨rfl, absurd h11, fun _ => rfl, fun _ => rfl⟩
    · rw [if_neg h11]
      exact ⟨rfl, fun _ => serve_same s n tg, fun h => absurd h h11, serve_other s tg⟩
  · rw [claim_none ht hnone]
    exact ⟨rfl, rfl⟩

/-! ### INT_TAKE (12 R377) -/

theorem takeSource_pending (ht : targetOf m = some tg) (hp : s.pendingSrc n = true) (hr : (s.host.route n).testBit tg = true) :
    s.takeSource m n = (w32 n, s.serve n tg) := by
  unfold State.takeSource
  simp only [ht, hp, hr, Bool.and_self, if_true]

theorem takeSource_nothing (ht : targetOf m = some tg) (h : s.pendingSrc n = false ∨ (s.host.route n).testBit tg = false) :
    s.takeSource m n = (w32 spurious, s) := by
  unfold State.takeSource
  simp only [ht]
  exact if_neg (by simpa [or_iff_not_imp_left] using h)

/-- INT_TAKE puts no other source in service. -/
theorem takeSource_other (ht : targetOf m = some tg) (hk : k ≠ n) : aget (s.takeSource m n).2.host.serving k = aget s.host.serving k := by
  by_cases h : s.pendingSrc n = true ∧ (s.host.route n).testBit tg = true
  · rw [takeSource_pending ht h.1 h.2]
    exact serve_other s tg hk
  · rw [takeSource_nothing ht (by simpa [or_iff_not_imp_left] using h)]

theorem exec_intTake (hlow : 16 ≤ n) (hhigh : n < 256) (h : s.readReaches m (0x1400 + 4 * n) = true) :
    exec (.intTake m n) s = commit s ((s.takeSource m n).2.hostGets [(s.takeSource m n).1]) := by
  refine congrArg (commit s) ((if_pos ⟨hlow, hhigh⟩).trans (regRead_reaches h ?_))
  have hpage : (0x1400 + 4 * n) / 4096 = 1 := by omega
  have hoff : (0x1400 + 4 * n) % 4096 = 0x400 + 4 * n := by omega
  rw [hpage, hoff]
  show s.intRead m (0x400 + 4 * n) (s.privOf m) = _
  unfold State.intRead
  rw [if_neg (by omega), if_neg (by omega), if_neg (by omega), if_neg (by omega), if_pos (by omega), Nat.add_sub_cancel_left, Nat.mul_div_cancel_left n (by decide)]

/-! ### INT_DONE and INT_ROUTE (12 R378, R379) -/

theorem exec_intDone (h : s.readReaches m 0x1014 = true) (v : Word) : exec (.intDone m v) s = commit s (s.endService m (wfield v 7 0)) :=
  congrArg (commit s) (fabricWrite_done h rfl)

theorem intDone_answer (ht : targetOf m = some tg) (h : s.readReaches m 0x1014 = true) (v : Word) (k : Nat) : ∃ t, exec (.intDone m v) s = .next t ∧ Frame { host := true } s t ∧
    (aget s.host.serving (wfield v 7 0) = some tg → aget t.host.serving (wfield v 7 0) = none) ∧
    (aget s.host.serving (wfield v 7 0) ≠ some tg → t.host.serving = s.host.serving) ∧
    (k ≠ wfield v 7 0 → aget t.host.serving k = aget s.host.serving k) := by
  refine ⟨_, exec_intDone h v, (State.endService_keep (Keep.refl s) m _).frame.countEdges s, ?_⟩
  by_cases hs : aget s.host.serving (wfield v 7 0) = some tg
  · rw [endService_served ht hs]
    exact ⟨fun _ => (aget_adel ..).trans (if_pos rfl), absurd hs, fun hk => (aget_adel ..).trans (if_neg hk)⟩
  · rw [endService_other ht hs]
    exact ⟨fun h => absurd h hs, fun _ => rfl, fun _ => rfl⟩

theorem exec_intRouteWrite (hn : n < 256) (hused : sourceUsed n = true) (hp : s.privOf m = true) (hv : v &&& 0xF4#32 = 0) (h : s.readReaches m (0x1800 + 4 * n) = true) :
    exec (.intRouteWrite m n v) s = commit s (s.upHost (fun x => { x with routes := aput n (wfield v 3 0) x.routes })) := by
  refine congrArg (commit s) ((if_pos hn).trans (fabricWrite_done h ?_))
  have hpage : (0x1800 + 4 * n) / 4096 = 1 := by omega
  have hoff : (0x1800 + 4 * n) % 4096 = 0x800 + 4 * n := by omega
  rw [hpage, hoff, hp]
  show s.intWrite m (0x800 + 4 * n) v true = _
  unfold State.intWrite
  rw [if_neg (by omega), if_pos (by omega), Nat.add_sub_cancel_left, Nat.mul_div_cancel_left n (by decide)]
  dsimp only
  rw [hused, decide_eq_true hv, Bool.or_true]
  rfl

theorem route_stored (x : HostSt) (n k r : Nat) : HostSt.route { x with routes := aput n r x.routes } k = if n = k then r else x.route k := by
  unfold HostSt.route
  rw [aget_aput]
  split <;> rfl

/-! ### The statement -/

/-- Settles O32: what each access finds in service, and what it leaves there. -/
theorem interruptClaimTakeAndDone : Obligations.InterruptClaimTakeAndDone := by
  intro s m tg n k v ht
  refine ⟨intClaim_answer ht, fun hlow hhigh h => ?_, fun h => intDone_answer ht h v k, fun hn hused hp hv h => ?_, pendingSrc_of_serving⟩
  · refine ⟨_, exec_intTake hlow hhigh h, (State.hostGets_keep (State.takeSource_keep (Keep.refl s) m n) _).frame.countEdges s, fun hp hr => ?_, fun hno => ?_, takeSource_other ht⟩
    · rw [takeSource_pending ht hp hr]
      exact ⟨rfl, serve_same s n tg⟩
    · rw [takeSource_nothing ht hno]
      exact ⟨rfl, rfl⟩
  · exact ⟨_, exec_intRouteWrite hn hused hp hv h, (route_stored s.host n n _).trans (if_pos rfl), fun hk => (route_stored s.host n k _).trans (if_neg (Ne.symm hk)), rfl,
      ((Keep.refl s).upHost (fun hc => hc)).frame.countEdges s⟩

end Sys2Proof.Machine
end

section
/-! PROOFS. Host privilege (12 R361 to R363): CHALLENGE, GO, LOCK and the end of the lockout. That each GO consumes the nonce and that it fails under a blown fuse even in the lockout is log 37, the model's choice. -/

namespace Sys2Proof.Machine

open Sys2Proof

variable {s : State} {m : Master}

/-! ### CHALLENGE (12 R361) -/

theorem hptChallenge_open (h : s.host.lockout = false) : s.hptChallenge = (s.upHost (fun x => { x with nonce := freshNonce s.free, fresh := true })).useFree :=
  if_neg (Bool.eq_false_iff.mp h)

theorem hptChallenge_locked (h : s.host.lockout = true) : s.hptChallenge = s := if_pos h

theorem exec_unlockChallenge (h : s.readReaches m 0x1500C = true) : exec (.unlockChallenge m) s = commit s s.hptChallenge :=
  congrArg (commit s) (fabricWrite_done h rfl)

theorem unlockChallenge_answer (h : s.readReaches m 0x1500C = true) : ∃ t, exec (.unlockChallenge m) s = .next t ∧ t.host.priv = s.host.priv ∧ t.host.lockout = s.host.lockout ∧
    (s.host.lockout = false → t.host.fresh = true ∧ t.host.nonce = freshNonce s.free ∧ t.free = s.free + 1) ∧
    (s.host.lockout = true → t.host.fresh = s.host.fresh ∧ t.host.nonce = s.host.nonce) ∧ Frame { host := true, free := true } s t := by
  have hframe : Frame { host := true, free := true } s (countEdges s s.hptChallenge) := (State.hptChallenge_keep (Keep.refl s)).frame.countEdges s
  refine ⟨_, exec_unlockChallenge h, ?_⟩
  cases hl : s.host.lockout with
  | false =>
    rw [hptChallenge_open hl] at hframe ⊢
    exact ⟨rfl, hl, fun _ => ⟨rfl, rfl, rfl⟩, (nomatch ·), hframe⟩
  | true =>
    rw [hptChallenge_locked hl] at hframe ⊢
    exact ⟨rfl, hl, (nomatch ·), fun _ => ⟨rfl, rfl⟩, hframe⟩

/-! ### GO (12 R361, R362) -/

theorem hptProof_iff : s.hptProof = true ↔ s.host.fresh = true ∧ (allZero s.accessKey = true ∨ s.host.proof = hmac s.accessKey (s.host.nonce ++ zeros 2)) := by
  simp [State.hptProof]

theorem hptGo_fused (hf : s.dict.fuses.getLsbD 1 = true) : s.hptGo = s.upHost (fun x => { x with fresh := false, hptCause := setBit x.hptCause 2 true }) := if_pos hf

section
variable (hf : s.dict.fuses.getLsbD 1 = false) (hl : s.host.lockout = false)
include hf hl

theorem hptGo_opens (hp : s.hptProof = true) : s.hptGo = s.upHost (fun x => { x with fresh := false, priv := true }) :=
  (if_neg (Bool.eq_false_iff.mp hf)).trans ((if_neg (Bool.eq_false_iff.mp hl)).trans (if_pos hp))

theorem hptGo_fails (hp : s.hptProof = false) :
    s.hptGo = ((s.upHost (fun x => { x with fresh := false, lockout := true })).authFailed 0x3003).hptCauseBit 2 :=
  (if_neg (Bool.eq_false_iff.mp hf)).trans ((if_neg (Bool.eq_false_iff.mp hl)).trans (if_neg (Bool.eq_false_iff.mp hp)))

end

/-- A failed proof counts in the dictionary and is recorded; the register block stays. -/
theorem authFailed_host (s : State) (code : Nat) : (s.authFailed code).host = s.host := State.occur_host ..

theorem hptGo_fails_host (hf : s.dict.fuses.getLsbD 1 = false) (hl : s.host.lockout = false) (hp : s.hptProof = false) :
    s.hptGo.host = { s.host with fresh := false, lockout := true, hptCause := setBit s.host.hptCause 2 true } := by
  rw [hptGo_fails hf hl hp, State.hptCauseBit_host, authFailed_host]
  rfl

theorem exec_unlockGo (h : s.readReaches m 0x1500C = true) : exec (.unlockGo m) s = commit s s.hptGo := congrArg (commit s) (fabricWrite_done h rfl)

theorem unlockGo_answer (h : s.readReaches m 0x1500C = true) : ∃ t, exec (.unlockGo m) s = .next t ∧
    (s.dict.fuses.getLsbD 1 = false → s.host.lockout = false → s.host.fresh = true →
      (allZero s.accessKey = true ∨ s.host.proof = hmac s.accessKey (s.host.nonce ++ zeros 2)) →
      t.host.priv = true ∧ t.host.fresh = false ∧ t.host.lockout = false ∧ t.host.hptCause = s.host.hptCause) ∧
    (s.dict.fuses.getLsbD 1 = false → s.host.lockout = false →
      (s.host.fresh = false ∨ allZero s.accessKey = false ∧ s.host.proof ≠ hmac s.accessKey (s.host.nonce ++ zeros 2)) →
      t.host.priv = s.host.priv ∧ t.host.fresh = false ∧ t.host.lockout = true ∧ t.host.hptCause = setBit s.host.hptCause 2 true) ∧
    (s.dict.fuses.getLsbD 1 = true → t.host.priv = s.host.priv ∧ t.host.hptCause = setBit s.host.hptCause 2 true) ∧
    Frame { host := true, evr := true, dict := true } s t := by
  refine ⟨_, exec_unlockGo h, fun hf hl hfresh hproof => ?_, fun hf hl hbad => ?_, fun hf => ?_, (State.hptGo_keep (Keep.refl s)).frame.countEdges s⟩
  · rw [hptGo_opens hf hl (hptProof_iff.mpr ⟨hfresh, hproof⟩)]
    exact ⟨rfl, rfl, hl, rfl⟩
  · have hp : s.hptProof = false := by
      rw [Bool.eq_false_iff, ne_eq, hptProof_iff]
      rintro ⟨hfresh, hproof⟩
      rcases hbad with hstale | ⟨hkey, hwrong⟩
      · exact Bool.eq_false_iff.mp hstale hfresh
      · exact hproof.elim (Bool.eq_false_iff.mp hkey) hwrong
    simp only [countEdges_priv, countEdges_fresh, countEdges_lockout, countEdges_hptCause, hptGo_fails_host hf hl hp, and_self]
  · rw [hptGo_fused hf]
    exact ⟨rfl, rfl⟩

/-! ### LOCK and the end of the lockout (12 R362, R363) -/

theorem exec_unlockLock (h : s.readReaches m 0x1500C = true) : exec (.unlockLock m) s = commit s (s.upHost (fun x => { x with priv := false })) :=
  congrArg (commit s) (fabricWrite_done h rfl)

/-- Settles O29: CHALLENGE by the lockout, GO by the fuse and the proof, LOCK and the end of the lockout as updates of the register block. -/
theorem hostPrivilegeChallengeAndProof : Obligations.HostPrivilegeChallengeAndProof := fun s _ h =>
  ⟨unlockChallenge_answer h, unlockGo_answer h, ⟨_, exec_unlockLock h, rfl, rfl, rfl, ((Keep.refl s).upHost (fun hc => hc)).frame.countEdges s⟩,
    ⟨_, commit_eq s _, rfl, rfl, rfl, ((Keep.refl s).upHost (fun hc => hc)).frame.countEdges s⟩⟩

end Sys2Proof.Machine
end

section
/-! PROOFS. Host frames (12 R353 to R357, R360): reads, writes, status, and the errors of the port with their HPT_CAUSE bits. -/

namespace Sys2Proof.Machine

open Sys2Proof

variable {s u : State} {i : Instr} {cmd addr n : Nat} {ws : List Word}

/-! ### The words of a frame (12 R355) -/

theorem readWords_length (cmd : Nat) : ∀ (n addr : Nat) (s : State), (s.readWords cmd n addr).1.length = n
  | 0, _, _ => rfl
  | n + 1, addr, _ => congrArg (· + 1) (readWords_length cmd n (nextAddr cmd addr) _)

/-! ### A frame by its command byte (12 R353 to R357) -/

section
variable (hr : s.host.ready = true) (hd : s.domainOn 1 = true)
include hr hd

/-- A frame with a reserved command value, or an access at an address that is no multiple of 4, is a frame error alone. -/
theorem hostFrame_error (h : cmdOk cmd = false ∨ cmdOp cmd ≠ 2 ∧ addr % 4 ≠ 0) (n : Nat) (ws : List Word) :
    s.hostFrame cmd addr n ws = countEdges s (s.hptCauseBit 0) := by
  unfold State.hostFrame
  rw [hr, hd, if_neg (by decide)]
  cases hok : cmdOk cmd with
  | false => rfl
  | true =>
    obtain ⟨hop, haddr⟩ := h.resolve_left (by simp [hok])
    rw [if_neg (by decide), if_neg hop, if_pos haddr]

section
variable (hok : cmdOk cmd = true)
include hok

theorem hostFrame_status (hop : cmdOp cmd = 2) (addr n : Nat) (ws : List Word) : s.hostFrame cmd addr n ws = s.hostGets (List.replicate n s.hptStatus) := by
  unfold State.hostFrame
  rw [hr, hd, hok, if_neg (by decide), if_neg (by decide), if_pos hop]

theorem hostFrame_read (haddr : addr % 4 = 0) (hop : cmdOp cmd = 0) (n : Nat) (ws : List Word) :
    s.hostFrame cmd addr n ws = (s.readWords cmd n (addr % 2 ^ 24)).2.hostGets (s.readWords cmd n (addr % 2 ^ 24)).1 := by
  unfold State.hostFrame
  rw [hr, hd, hok, hop, if_neg (by decide), if_neg (by decide), if_neg (by decide), if_neg (not_not_intro haddr), if_pos rfl]

theorem hostFrame_write (haddr : addr % 4 = 0) (hop : cmdOp cmd = 1) (n : Nat) (ws : List Word) :
    s.hostFrame cmd addr n ws = s.writeWords cmd ws (addr % 2 ^ 24) := by
  unfold State.hostFrame
  rw [hr, hd, hok, hop, if_neg (by decide), if_neg (by decide), if_neg (by decide), if_neg (not_not_intro haddr), if_neg (by decide)]

end

end

/-! ### Errors of the port (12 R353, R354, R357, R360) -/

/-- What a command answers whose effect sets an HPT_CAUSE bit after `u`, which touches the register block alone. -/
theorem hptCause_answer {b : Nat} (h : exec i s = .next (countEdges s (u.hptCauseBit b))) (hk : Keep { host := true } s u) (hc : u.host.hptCause = s.host.hptCause) :
    ∃ t, exec i s = .next t ∧ t.host.hptCause = setBit s.host.hptCause b true ∧ t.host.rdata = u.host.rdata ∧ Frame { host := true, evr := true } s t := by
  have hframe : Frame { host := true, evr := true } u (u.hptCauseBit b) := (State.hptCauseBit_keep (Keep.refl u) b).frame
  refine ⟨_, h, ?_, ?_, (hk.frame.comp hframe rfl rfl).countEdges s⟩
  · rw [countEdges_hptCause, State.hptCauseBit_host, ← hc]
  · rw [countEdges_rdata, State.hptCauseBit_host]

theorem exec_hostStallViolation (hr : s.host.ready = true) : exec .hostStallViolation s = .next (countEdges s (s.hptCauseBit 0)) :=
  congrArg (commit s) (if_pos hr)

theorem exec_hostAccessTimeout (hr : s.host.ready = true) (write : Bool) :
    exec (.hostAccessTimeout write) s = .next (countEdges s ((if write then s else s.hostGets [0]).hptCauseBit 1)) :=
  congrArg (commit s) (if_pos hr)

theorem hostAccessTimeout_answer (hr : s.host.ready = true) (write : Bool) : ∃ t, exec (.hostAccessTimeout write) s = .next t ∧
    t.host.hptCause = setBit s.host.hptCause 1 true ∧ t.host.rdata = (if write then s.host.rdata else [0]) ∧ Frame { host := true, evr := true } s t := by
  have hexec := exec_hostAccessTimeout hr write
  cases write with
  | true => exact hptCause_answer hexec (Keep.refl s) rfl
  | false => exact hptCause_answer hexec (State.hostGets_keep (Keep.refl s) [0]) rfl

/-! ### The statement -/

/-- Settles O28: a frame by its command byte, and each error of the port as its HPT_CAUSE bit. -/
theorem hostFramesReachTheFabric : Obligations.HostFramesReachTheFabric := by
  intro s cmd addr n w ws b hr hd
  refine ⟨fun hok haddr hop => ?_, fun hok haddr hop => ⟨⟨_, rfl, (exec_keep (.hostWrite cmd addr (w :: ws)) rfl).frame.pending⟩, ?_, rfl⟩, fun hok hop => ?_, fun h => ?_, fun h => ?_,
    hptCause_answer (exec_hostStallViolation hr) (Keep.refl s) rfl, hostAccessTimeout_answer hr b⟩
  · have hframe := hostFrame_read hr hd hok haddr hop n []
    refine ⟨_, congrArg Host.Outcome.next hframe, readWords_length cmd n _ s, fun hn => ?_, (exec_keep (.hostRead cmd addr n) (congrArg Host.Outcome.next hframe)).frame.pending⟩
    subst hn
    rfl
  · exact congrArg Host.Outcome.next (hostFrame_write hr hd hok haddr hop 0 [w])
  · exact ⟨_, congrArg Host.Outcome.next (hostFrame_status hr hd hok hop 0 n []), rfl, rfl, rfl, (State.hostGets_keep (Keep.refl s) _).frame⟩
  · exact hptCause_answer (congrArg Host.Outcome.next (hostFrame_error hr hd h n [])) (Keep.refl s) rfl
  · exact hptCause_answer (congrArg Host.Outcome.next (hostFrame_error hr hd h 0 ws)) (Keep.refl s) rfl

end Sys2Proof.Machine
end

section
/-! PROOFS. RECORD_WRITE (13 R403 to R405, R412): a repetition merged into the newest record, a record written while a slot is free or over an older one, and an occurrence dropped. That a corrupt record takes no repetition is log 45, the model's choice. -/

namespace Sys2Proof.Machine

open Sys2Proof

variable {s : State} {e : Evr} {t : Nat} {o : Occ} {rest : List Occ} {r : Rec} {l : List Rec}

/-! ### The newest record (13 R404) -/

theorem repeats_last (h : e.recs = l ++ [r]) : e.repeats o = (decide (r.code = o.code ∧ r.source = o.source) && !r.corrupt) := by
  unfold Evr.repeats
  rw [h, List.getLast?_concat]

theorem repeats_true (h : e.recs = l ++ [r]) (hcode : r.code = o.code) (hsource : r.source = o.source) (hread : r.corrupt = false) : e.repeats o = true := by
  rw [repeats_last h, hread, decide_eq_true ⟨hcode, hsource⟩]
  rfl

theorem repeats_false (h : e.recs = [] ∨ e.recs = l ++ [r] ∧ (r.code ≠ o.code ∨ r.source ≠ o.source ∨ r.corrupt = true)) : e.repeats o = false := by
  rcases h with h | ⟨h, hother⟩
  · unfold Evr.repeats
    rw [h]
    rfl
  · rw [repeats_last h, Bool.and_eq_false_iff, decide_eq_false_iff_not]
    rcases hother with hcode | hsource | hcorrupt
    · exact .inl (fun h => hcode h.1)
    · exact .inl (fun h => hsource h.2)
    · exact .inr (by rw [hcorrupt]; rfl)

/-- A repetition counts in the newest record, which takes its time. -/
theorem merge_last (h : e.recs = l ++ [r]) : e.merge o = { e with recs := l ++ [{ r with repeats := min 0xFFFF (r.repeats + 1), otLast := o.ot }] } := by
  unfold Evr.merge
  rw [h, List.dropLast_concat, List.getLast?_concat]
  rfl

/-! ### The service takes the head of the queue (13 R403, R411) -/

/-- The state in which the recorder service works at the instant `t` on an occurrence that it has taken from the queue. -/
def State.unqueued (s : State) (t : Nat) (rest : List Occ) : State := (s.reach t).upEvr (fun e => { e with queue := rest })

theorem unqueued_keep (hq : s.evr.queue = o :: rest) : Keep { clk := true, evr := true } s (s.unqueued t rest) := by
  refine Keep.upEvr (State.reach_keep (Keep.refl s) t) (fun hlen => ?_)
  have hcons : (o :: rest).length ≤ 64 := hq ▸ hlen
  exact Nat.le_of_succ_le hcons

/-- With nothing in the queue, or while a clear is in progress, the service does nothing. -/
theorem writeRecord_idle (h : s.evr.queue = [] ∨ s.evr.clearing ≠ none) : s.writeRecord = s := by
  unfold State.writeRecord
  rcases h with hq | hc
  · rw [hq]
    exact ite_self _
  · rw [Option.isSome_iff_ne_none.mpr hc, Bool.true_or, if_pos rfl]

theorem writeRecord_head (hd : s.domainOn 1 = true) (hc : s.evr.clearing = none) (hq : s.evr.queue = o :: rest) {w : State} (hw : w = s.upEvr (fun e => { e with queue := rest })) :
    s.writeRecord = if w.evr.repeats o then w.upEvr (·.merge o) else w.newRecord o := by
  unfold State.writeRecord
  rw [hc, hd, hq, hw]
  rfl

section
variable (hd : s.domainOn 1 = true) (hc : s.evr.clearing = none) (hq : s.evr.queue = o :: rest)
include hd hc hq

theorem exec_recordWrite_head : exec (.recordWrite t) s = commit s (if (s.unqueued t rest).evr.repeats o then (s.unqueued t rest).upEvr (·.merge o) else (s.unqueued t rest).newRecord o) :=
  congrArg (commit s) (writeRecord_head (s := s.reach t) hd hc hq rfl)

/-- A repetition: one more in the newest record and nothing else of the log. -/
theorem recordWrite_merged (hl : s.evr.recs = l ++ [r]) (hcode : r.code = o.code) (hsource : r.source = o.source) (hread : r.corrupt = false) :
    ∃ u, exec (.recordWrite t) s = .next u ∧ u.evr = { s.evr with queue := rest, recs := l ++ [{ r with repeats := min 0xFFFF (r.repeats + 1), otLast := o.ot }] } ∧
      Frame { clk := true, evr := true } s u := by
  have hrep : (s.unqueued t rest).evr.repeats o = true := repeats_true hl hcode hsource hread
  have hmerge := merge_last (e := (s.unqueued t rest).evr) (o := o) hl
  have hkeep : Keep { clk := true, evr := true } s ((s.unqueued t rest).upEvr (·.merge o)) := (unqueued_keep hq).upEvr id
  exact ⟨_, (exec_recordWrite_head hd hc hq).trans (by rw [if_pos hrep]; rfl), hmerge, hkeep.frame.countEdges s⟩

section
variable (hnew : s.evr.recs = [] ∨ s.evr.recs = l ++ [r] ∧ (r.code ≠ o.code ∨ r.source ≠ o.source ∨ r.corrupt = true))
include hnew

theorem exec_recordWrite_new : exec (.recordWrite t) s = commit s ((s.unqueued t rest).newRecord o) := by
  have hrep : (s.unqueued t rest).evr.repeats o = false := repeats_false hnew
  rw [exec_recordWrite_head hd hc hq, hrep, if_neg Bool.false_ne_true]

variable (hlen : s.evr.queue.length ≤ 64)
include hlen

/-- A record that no trigger matches is the last of the log, after those that its room leaves. -/
theorem recordWrite_written {left : List Rec} (ht : s.trigger o = none) (hroom : (if s.evr.recs.length < slotCount then some s.evr.recs else makeRoom o.sev s.evr.recs) = some left) :
    ∃ u, exec (.recordWrite t) s = .next u ∧ u.evr.recs = left ++ [o.record s.evr.nextSeq] ∧ u.evr.nextSeq = (s.evr.nextSeq + 1) % 2 ^ 32 ∧ rest <+: u.evr.queue ∧
      u.evr.drops = s.evr.drops ∧ (o.sev ≤ s.evr.level → o.code / 256 ≠ 7 → u.evr.cause.getLsbD 0 = true) ∧ Frame { clk := true, evr := true } s u := by
  have hrest : rest.length < 64 := by
    rw [hq] at hlen
    exact hlen
  obtain ⟨hrecs, hseq, hqueue, hdrops, hcause, hkeep⟩ := newRecord_evr (s.unqueued t rest) ht hroom
  exact ⟨_, exec_recordWrite_new hd hc hq hnew, hrecs, hseq, hqueue, hdrops hrest, hcause, (hkeep rfl (Nat.le_of_lt hrest) (unqueued_keep hq)).frame.countEdges s⟩

/-- With every slot held by a record of higher severity the occurrence only counts as dropped. -/
theorem recordWrite_dropped (hfull : slotCount ≤ s.evr.recs.length) (hrank : ∀ y ∈ s.evr.recs, y.rank < o.sev) :
    ∃ u, exec (.recordWrite t) s = .next u ∧ u.evr.recs = s.evr.recs ∧ u.evr.nextSeq = s.evr.nextSeq ∧ u.evr.cause.getLsbD 1 = true ∧ rest <+: u.evr.queue ∧
      u.evr.drops = vup s.evr.drops o.sev 0 (fun n => min (2 ^ 32 - 1) (n + 1)) ∧ Frame { clk := true, evr := true } s u := by
  have hrest : rest.length < 64 := by
    rw [hq] at hlen
    exact hlen
  have hput : (s.unqueued t rest).evr.put o = none := by
    show Option.map _ (if s.evr.recs.length < slotCount then some s.evr.recs else makeRoom o.sev s.evr.recs) = none
    rw [if_neg (Nat.not_lt.mpr hfull), makeRoom_none _ hrank]
    rfl
  have hexec : exec (.recordWrite t) s = commit s (((s.unqueued t rest).upEvr (·.drop o.sev)).evrCause 1) := by
    rw [exec_recordWrite_new hd hc hq hnew, State.newRecord, hput]
  obtain ⟨hrecs, hseq, -, hcause, hqueue, hdrops⟩ := evrCause_evr ((s.unqueued t rest).upEvr (·.drop o.sev)) 1
  have hkeep : Keep { clk := true, evr := true } s (((s.unqueued t rest).upEvr (·.drop o.sev)).evrCause 1) := State.evrCause_keep ((unqueued_keep hq).upEvr id) 1
  exact ⟨_, hexec, hrecs, hseq, hcause (by decide), hqueue, hdrops hrest, hkeep.frame.countEdges s⟩

end

end

/-! ### The statements -/

/-- Settles O33: the repetition, the two ways in which a new record finds its slot, the drop, and the idle service. -/
theorem recordsAreMergedWrittenOrDropped : Obligations.RecordsAreMergedWrittenOrDropped := by
  intro s t o rest r l hd hlen
  refine ⟨fun hq hc => ⟨recordWrite_merged hd hc hq, fun hnew => ⟨fun ht hfree => ?_, fun a x b ht hfull hrecs hx ha => ?_, fun hfull hrank _ => ?_⟩⟩, fun h => ?_⟩
  · exact recordWrite_written hd hc hq hnew hlen ht (if_pos hfree)
  · have hroom : makeRoom o.sev s.evr.recs = some (a ++ b) := by rw [hrecs, makeRoom_some hx b a ha]
    obtain ⟨u, hexec, hwritten, hseq, hqueue, -, -, hframe⟩ := recordWrite_written (t := t) hd hc hq hnew hlen ht ((if_neg (Nat.not_lt.mpr hfull)).trans hroom)
    exact ⟨u, hexec, hwritten, hseq, hqueue, hframe⟩
  · exact recordWrite_dropped hd hc hq hnew hlen hfull hrank
  · obtain ⟨u, hexec, -, hframe⟩ := answer_reach (c := .recordWrite t) (congrArg (commit s) (writeRecord_idle (s := s.reach t) h))
    exact ⟨u, hexec, hframe.evr rfl, hframe⟩

/-- Settles O59: the repetition of O33, with REPEAT counted by cases. -/
theorem aRepetitionIsCountedInItsRecord : Obligations.ARepetitionIsCountedInItsRecord := by
  intro s t o rest r l hd hc hq _ hrecs hread hcode hsource
  obtain ⟨u, hexec, hevr, hframe⟩ := recordWrite_merged (t := t) hd hc hq hrecs hcode hsource hread
  have hcount : min 0xFFFF (r.repeats + 1) = if r.repeats < 0xFFFF then r.repeats + 1 else 0xFFFF := by split <;> omega
  exact ⟨u, hexec, hcount ▸ hevr, hframe⟩

end Sys2Proof.Machine
end

section
/-! PROOFS. Reading and clearing the event log (13 R410 to R412): the window of one master, the write that begins a clear, and the log that a clear leaves. -/

namespace Sys2Proof.Machine

open Sys2Proof

variable {s u : State} {m q : Master} {v : Word} {x : Rec} {o : Occ} {ecc : List Ecc} {n b c code : Nat}

/-! ### The record that a read latches (13 R406, R410) -/

/-- With no error on the way the log reads as it stands. -/
theorem recorderReads_latchErrors_nil (s : State) (m : Master) : s.recorderReads (s.latchErrors m []) = s := by
  unfold State.latchErrors
  split <;> rfl

/-- Where no record lies at or after the cursor no error is found. -/
theorem recorderReads_nothing (h : s.evr.at' (s.cursor m) = none) (ecc : List Ecc) : s.recorderReads (s.latchErrors m ecc) = s := by
  unfold State.latchErrors
  rw [h]
  rfl

/-- Errors in the log leave what the reads of it go by: rights, cursors and a clear. -/
theorem recorderReads_reaches (s : State) (l : List Ecc) (m : Master) (addr : Nat) : (s.recorderReads l).readReaches m addr = s.readReaches m addr := by
  have hframe : Frame { sto := true, host := true, evr := true } s (s.recorderReads l) := (State.recorderReads_keep (Keep.refl s) l).frame
  unfold State.readReaches State.pageServed State.reachable State.domainOn
  rw [hframe.pwr rfl, hframe.dict rfl]

theorem recorderReads_mregs (s : State) (l : List Ecc) (m : Master) : (s.recorderReads l).mregs m = s.mregs m := by
  unfold State.mregs
  rw [(recorderReads_evr l s).2]

theorem latchRecord_none (h : s.evr.at' (s.cursor m) = none) : s.latchRecord m = s.upMregs m (fun r => { r with window := zeros 256, winSeq := none, gap := false }) := by
  unfold State.latchRecord
  dsimp only
  rw [h]

/-- A master's own registers with record `x` in the window: GAP tells that it does not stand at the cursor (13 R410). -/
def MasterRegs.showing (r : MasterRegs) (x : Rec) : MasterRegs := { r with window := x.encode, winSeq := some x.seq, gap := decide (x.seq ≠ r.cursor) }

/-- The record enters the master's window, and a gap sets EVR_CAUSE.GAP. -/
theorem latchRecord_some (h : s.evr.at' (s.cursor m) = some x) :
    s.latchRecord m = if decide (x.seq ≠ s.cursor m) then (s.upMregs m (·.showing x)).evrCause 5 else s.upMregs m (·.showing x) := by
  unfold State.latchRecord
  dsimp only
  rw [h]
  rfl

/-- What the latch of record `x` leaves: the window of the one master, and of the log only EVR_CAUSE.GAP may change. -/
theorem latchRecord_left (h : s.evr.at' (s.cursor m) = some x) : MregsTo m s (s.latchRecord m) ((s.mregs m).showing x) ∧ (s.latchRecord m).evr.recs = s.evr.recs ∧
    (x.seq ≠ s.cursor m → (s.latchRecord m).evr.cause.getLsbD 5 = true) ∧ (x.seq = s.cursor m → (s.latchRecord m).evr = s.evr) := by
  have hto := MregsTo.upMregs s m (·.showing x)
  rw [latchRecord_some h]
  by_cases hgap : x.seq = s.cursor m
  · rw [decide_eq_false (not_not_intro hgap), if_neg Bool.false_ne_true]
    exact ⟨hto, rfl, fun hne => absurd hgap hne, fun _ => rfl⟩
  · rw [decide_eq_true hgap, if_pos rfl]
    obtain ⟨hrecs, -, -, hcause, -⟩ := evrCause_evr (s.upMregs m (·.showing x)) 5
    exact ⟨hto.of_regs (congrArg HostSt.regs (State.evrCause_host _ 5)), hrecs, fun _ => hcause (by decide), fun heq => absurd heq hgap⟩

/-! ### The reads of the window (13 R410) -/

/-- The first word of the window is that of the record just latched. -/
theorem windowWord_first (hc : s.evr.clearing = none) : s.windowWord m 0 = (w32 (getLE ((s.latchRecord m).mregs m).window 0 4), s.latchRecord m) := by
  unfold State.windowWord
  rw [hc, if_neg (by decide)]
  dsimp only
  split <;> rfl

/-- A read of the last word of a latched record moves the cursor past it. -/
theorem windowWord_last (hc : s.evr.clearing = none) (hn : (s.mregs m).winSeq = some n) :
    s.windowWord m 63 = (w32 (getLE (s.mregs m).window 252 4), s.upMregs m (fun r => { r with cursor := (n + 1) % 2 ^ 32 })) := by
  unfold State.windowWord
  rw [hc]
  dsimp only
  rw [if_neg (by decide : ¬ (63 : Nat) = 0), hn]
  rfl

theorem exec_evrWin0Read {w : State} (h : s.readReaches m 0x3100 = true) (hc : s.evr.clearing = none) (hw : w = s.recorderReads (s.latchErrors m ecc)) :
    exec (.evrWin0Read m ecc) s = commit s ((w.latchRecord m).hostGets [w32 (getLE ((w.latchRecord m).mregs m).window 0 4)]) := by
  have hreach : w.readReaches m 0x3100 = true := by rw [hw, recorderReads_reaches, h]
  have hidle : w.evr.clearing = none := by rw [hw, (recorderReads_evr _ s).1, hc]
  have hread : w.regRead m 0x3100 = _ := regRead_reaches hreach (windowWord_first hidle)
  refine congrArg (commit s) ?_
  rw [if_pos h, ← hw, hread]

theorem exec_evrWin63Read (h : s.readReaches m 0x31FC = true) (hc : s.evr.clearing = none) (hn : (s.mregs m).winSeq = some n) : exec (.evrWin63Read m) s =
    commit s ((s.upMregs m (fun r => { r with cursor := (n + 1) % 2 ^ 32 })).hostGets [w32 (getLE (s.mregs m).window 252 4)]) :=
  congrArg (commit s) (regRead_reaches h (windowWord_last hc hn))

theorem evrWin0Read_record {w : State} (hq : q ≠ m) (h : s.readReaches m 0x3100 = true) (hc : s.evr.clearing = none) (hw : w = s.recorderReads (s.latchErrors m ecc))
    (hx : w.evr.at' (s.cursor m) = some x) : ∃ u, exec (.evrWin0Read m ecc) s = .next u ∧
        u.host.rdata = [w32 (getLE x.encode 0 4)] ∧
        u.mregs m = { s.mregs m with window := x.encode, winSeq := some x.seq, gap := decide (x.seq ≠ s.cursor m) } ∧ u.mregs q = s.mregs q ∧
        (x.seq ≠ s.cursor m → u.evr.cause.getLsbD 5 = true) ∧ u.evr.recs = w.evr.recs ∧ (x.seq = s.cursor m → u.evr = w.evr) ∧
        Frame { sto := true, host := true, evr := true } s u ∧ (ecc = [] → w = s ∧ Frame { host := true, evr := true } s u) := by
  have hregs : ∀ k, w.mregs k = s.mregs k := fun k => by rw [hw, recorderReads_mregs]
  have hcursor : w.cursor m = s.cursor m := congrArg MasterRegs.cursor (hregs m)
  rw [← hcursor] at hx
  obtain ⟨hto, hrecs, hgap, hsame⟩ := latchRecord_left hx
  rw [hcursor] at hgap hsame
  have hreads : Keep { sto := true, host := true, evr := true } s w := hw ▸ State.recorderReads_keep (Keep.refl s) _
  have hgets : ∀ {L : Parts}, L.host = true → L.evr = true → Keep L s w → Keep L s ((w.latchRecord m).hostGets [w32 (getLE ((w.latchRecord m).mregs m).window 0 4)]) :=
    fun lHost lEvr hk => State.hostGets_keep (State.latchRecord_keep hk m) _
  refine ⟨_, exec_evrWin0Read h hc hw, ?_, hto.own.trans (congrArg (MasterRegs.showing · x) (hregs m)), (hto.others q hq).trans (hregs q), hgap, hrecs, hsame, (hgets rfl rfl hreads).frame.countEdges s, fun hnil => ?_⟩
  · show [w32 (getLE ((w.latchRecord m).mregs m).window 0 4)] = _
    rw [hto.own]
    rfl
  · have hws : w = s := by rw [hw, hnil, recorderReads_latchErrors_nil]
    exact ⟨hws, (hgets rfl rfl (hws ▸ Keep.refl w)).frame.countEdges s⟩

theorem evrWin0Read_nothing (hq : q ≠ m) (h : s.readReaches m 0x3100 = true) (hc : s.evr.clearing = none) (hx : s.evr.at' (s.cursor m) = none) (ecc : List Ecc) :
    ∃ u, exec (.evrWin0Read m ecc) s = .next u ∧ u.host.rdata = [0#32] ∧
        u.mregs m = { s.mregs m with window := zeros 256, winSeq := none, gap := false } ∧ u.mregs q = s.mregs q ∧ Frame { host := true } s u := by
  have hexec := exec_evrWin0Read (ecc := ecc) h hc (recorderReads_nothing hx ecc).symm
  rw [latchRecord_none hx] at hexec
  have hto := MregsTo.upMregs s m (fun r => { r with window := zeros 256, winSeq := none, gap := false })
  rw [hto.own] at hexec
  exact ⟨_, hexec, rfl, hto.own, hto.others q hq, (State.hostGets_keep (State.upMregs_keep (Keep.refl s) m _) _).frame.countEdges s⟩

/-! ### The write that begins a clear (13 R411) -/

theorem exec_eventClear_begins (h : s.readReaches m 0x301C = true) (hp : s.privOf m = true) : exec (.eventClear m 0xA5C3#32) s = commit s (s.startClear (masterCode m)) := by
  refine congrArg (commit s) (fabricWrite_done h ?_)
  show needPriv (s.privOf m) _ = _
  rw [hp]
  rfl

theorem exec_eventClear_refused (h : s.readReaches m 0x301C = true) (hv : s.privOf m = false ∨ v ≠ 0xA5C3#32) :
    exec (.eventClear m v) s = commit s (s.accessFault m 0x301C (if s.privOf m then flagRsvd else flagPriv)) := by
  refine congrArg (commit s) (fabricWrite_refused h ?_)
  show needPriv (s.privOf m) (needLegal (decide (v = 0xA5C3#32)) _) = _
  cases hp : s.privOf m with
  | false => rfl
  | true =>
    rw [decide_eq_false (hv.resolve_left (by rw [hp]; decide))]
    rfl

/-! ### The end of a clear (13 R411, R412) -/

/-- A cause bit of the recorder leaves the other bits but QUEUE_FULL. -/
theorem evrCause_other (s : State) (hc : c < 32) (hcb : c ≠ b) (h2 : c ≠ 2) : (s.evrCause b).evr.cause.getLsbD c = s.evr.cause.getLsbD c := by
  obtain ⟨-, -, -, hcause, -⟩ := occurSev_evr (s.upEvr (fun e => { e with cause := setBit e.cause b true })) (0x0700 + b) 0 (severityOf (0x0700 + b) (byteAt [] 0)) []
  refine (hcause c hc h2).trans ?_
  show (setBit s.evr.cause b true).getLsbD c = _
  rw [setBit_getLsbD _ _ _ _ hc, if_neg (Ne.symm hcb)]

theorem evrCause_queue_le (s : State) (b : Nat) : (s.evrCause b).evr.queue.length ≤ s.evr.queue.length + 1 :=
  occurSev_length (s.upEvr (fun e => { e with cause := setBit e.cause b true })) _ _ _ _

theorem evrCause_level (s : State) (b : Nat) : (s.evrCause b).evr.level = s.evr.level :=
  occurSev_level (s.upEvr (fun e => { e with cause := setBit e.cause b true })) _ _ _ _

/-- What follows a written record keeps every record's code, source, severity, DETAIL and SEQ, the SEQ to come, a clear and the cause bits but SEVERE and QUEUE_FULL, and only lengthens the queue; SEVERE is set by EVR_LEVEL. -/
theorem recordDone_evr (s : State) (o : Occ) (n : Nat) : (∃ k, Rec.Same k ∧ (s.recordDone o n).evr.recs = s.evr.recs.map k) ∧ (s.recordDone o n).evr.nextSeq = s.evr.nextSeq ∧
    (s.recordDone o n).evr.clearing = s.evr.clearing ∧ (∀ c, c < 32 → c ≠ 0 → c ≠ 2 → (s.recordDone o n).evr.cause.getLsbD c = s.evr.cause.getLsbD c) ∧
    (o.sev ≤ s.evr.level → o.code / 256 ≠ 7 → (s.recordDone o n).evr.cause.getLsbD 0 = true) ∧ s.evr.queue <+: (s.recordDone o n).evr.queue ∧
    (s.evr.queue.length < 63 → (s.recordDone o n).evr.drops = s.evr.drops) := by
  obtain ⟨⟨k, hk, hrecs⟩, hseq, hclear, hcause, hqueue, hlen, hdrops, hlevel, -⟩ := trigActs_evr s o n
  unfold State.recordDone
  dsimp only
  rw [hlevel]
  split
  · obtain ⟨hrecs', hseq', hclear', hsevere, hqueue', hdrops'⟩ := evrCause_evr (s.trigActs o n) 0
    exact ⟨⟨k, hk, hrecs'.trans hrecs⟩, hseq'.trans hseq, hclear'.trans hclear, fun c hc h0 h2 => (evrCause_other _ hc h0 h2).trans (hcause c hc h2),
      fun _ _ => hsevere (by decide), hqueue.trans hqueue', fun h => (hdrops' (by omega)).trans (hdrops (by omega))⟩
  · next hno =>
    exact ⟨⟨k, hk, hrecs⟩, hseq, hclear, fun c hc _ h2 => hcause c hc h2, fun h1 h2 => absurd ⟨h1, h2⟩ hno, hqueue, fun h => hdrops (by omega)⟩

theorem recordDone_keep_parts {L : Parts} (hk : Keep L s u) (lSto : L.sto = true) (lHost : L.host = true) (lEvr : L.evr = true) (lTrc : L.trc = true) (o : Occ) (n : Nat) :
    Keep L s (u.recordDone o n) := by
  obtain ⟨-, -, -, -, -, -, -, -, -, hkeep⟩ := trigActs_evr u o n
  have hacts := hkeep hk lSto lHost lEvr lTrc
  exact Keep.ite (State.evrCause_keep hacts 0) hacts

/-- Where no trigger matches, SEVERE is all that follows a written record. -/
theorem recordDone_untriggered (h : s.trigger o = none) (n : Nat) : s.recordDone o n = s ∨ s.recordDone o n = s.evrCause 0 := by
  obtain ⟨-, -, -, -, -, -, -, -, hnone, -⟩ := trigActs_evr s o n
  unfold State.recordDone
  dsimp only
  rw [hnone h]
  split
  · exact .inr rfl
  · exact .inl rfl

/-- Whether a trigger matches is a matter of the dictionary alone. -/
theorem trigger_eq_of_dict (h : u.dict = s.dict) (o : Occ) : u.trigger o = s.trigger o := by
  unfold State.trigger State.trigMatches State.trig State.inForce
  rw [h]

/-- The occurrence that the end of a clear by master `code` makes (13 R411). -/
def State.clearedOcc (s : State) (code : Nat) : Occ :=
  { code := 2, source := code, sev := 5, detail := padTo 8 (leBytes 4 s.evr.removed), cycles := s.rtc.pwrCycles
    ot := s.otMs, ms := s.recMilestone, date := s.rtc.date.toNat, time := s.rtc.time.toNat
    calValid := s.rtc.valid, term := s.csw.term, at' := s.clk.now }

/-- The log emptied but for that occurrence's record, with EVR_CAUSE.CLEARED; the drop counters are zero and no snapshot waits. -/
def State.emptied (s : State) (code : Nat) : State :=
  ((s.upOpen (fun h => { h with snaps := [] })).upEvr (fun e => { e with
    recs := [(s.clearedOcc code).record s.evr.nextSeq], nextSeq := (s.evr.nextSeq + 1) % 2 ^ 32, drops := Vector.replicate 8 0, clearing := none })).evrCause 4

theorem endClear_eq (h : s.evr.clearing = some code) : s.endClear = (s.emptied code).recordDone (s.clearedOcc code) s.evr.nextSeq := by
  unfold State.endClear
  rw [h]
  rfl

theorem emptied_keep {L : Parts} (lSto : L.sto = true) (lEvr : L.evr = true) (s : State) (code : Nat) : Keep L s (s.emptied code) :=
  State.evrCause_keep (Keep.upEvr (State.upOpen_keep (Keep.refl s) _) id) 4

theorem emptied_sto (s : State) (code : Nat) : (s.emptied code).sto = (s.upOpen (fun h => { h with snaps := [] })).sto := State.evrCause_sto _ 4

/-- The log when the slots have been cleared and the record of the clear has been written. -/
theorem emptied_evr (s : State) (code : Nat) : (s.emptied code).evr.recs = [(s.clearedOcc code).record s.evr.nextSeq] ∧ (s.emptied code).evr.nextSeq = (s.evr.nextSeq + 1) % 2 ^ 32 ∧
    (s.emptied code).evr.clearing = none ∧ (s.emptied code).evr.cause.getLsbD 4 = true ∧ s.evr.queue <+: (s.emptied code).evr.queue ∧
    (s.emptied code).evr.queue.length ≤ s.evr.queue.length + 1 ∧ (s.evr.queue.length < 62 → (s.emptied code).evr.drops = Vector.replicate 8 0) ∧
    (s.emptied code).evr.level = s.evr.level := by
  obtain ⟨w, hw⟩ : ∃ w : State, w = (s.upOpen (fun h => { h with snaps := [] })).upEvr (fun e => { e with
    recs := [(s.clearedOcc code).record s.evr.nextSeq], nextSeq := (s.evr.nextSeq + 1) % 2 ^ 32, drops := Vector.replicate 8 0, clearing := none }) := ⟨_, rfl⟩
  have hempty : s.emptied code = w.evrCause 4 := by rw [hw]; rfl
  have hqueue : w.evr.queue = s.evr.queue := by rw [hw]; rfl
  obtain ⟨hrecs, hseq, hclear, hcause, hprefix, hdrops⟩ := evrCause_evr w 4
  have hlen := evrCause_queue_le w 4
  have hlevel := evrCause_level w 4
  rw [hqueue] at hprefix hdrops hlen
  rw [hempty]
  refine ⟨hrecs.trans ?_, hseq.trans ?_, hclear.trans ?_, hcause (by decide), hprefix, hlen, fun h => (hdrops (by omega)).trans ?_, hlevel.trans ?_⟩ <;> rw [hw] <;> rfl

/-- The log that the end of a clear leaves. -/
theorem endClear_evr (h : s.evr.clearing = some code) : ∃ r, s.endClear.evr.recs = [r] ∧ r.code = 2 ∧ r.source = code ∧ r.sev = 5 ∧
      r.detail = padTo 8 (leBytes 4 s.evr.removed) ∧ r.seq = s.evr.nextSeq ∧ s.endClear.evr.nextSeq = (s.evr.nextSeq + 1) % 2 ^ 32 ∧ s.endClear.evr.clearing = none ∧
      (s.evr.queue.length < 62 → s.endClear.evr.drops = Vector.replicate 8 0) ∧ s.endClear.evr.cause.getLsbD 4 = true ∧
      (5 ≤ s.evr.level → s.endClear.evr.cause.getLsbD 0 = true) ∧ s.evr.queue <+: s.endClear.evr.queue := by
  obtain ⟨hrecs, hseq, hclear, hcause, hprefix, hlen, hdrops, hlevel⟩ := emptied_evr s code
  obtain ⟨⟨k, hsame, hrecs'⟩, hseq', hclear', hcause', hsevere, hprefix', hdrops'⟩ := recordDone_evr (s.emptied code) (s.clearedOcc code) s.evr.nextSeq
  rw [endClear_eq h]
  rw [hrecs] at hrecs'
  rw [hlevel] at hsevere
  obtain ⟨hcode, hsource, hsev, hdetail, hnum⟩ := hsame ((s.clearedOcc code).record s.evr.nextSeq)
  exact ⟨_, hrecs', hcode, hsource, hsev, hdetail, hnum, hseq'.trans hseq, hclear'.trans hclear, fun hroom => (hdrops' (by omega)).trans (hdrops hroom),
    (hcause' 4 (by decide) (by decide) (by decide)).trans hcause, fun h5 => hsevere h5 (by show ¬ (2 : Nat) / 256 = 7; decide), hprefix.trans hprefix'⟩

theorem endClear_untriggered (h : s.evr.clearing = some code) (ht : s.trigger (s.clearedOcc code) = none) :
    s.endClear.sto = (s.upOpen (fun h => { h with snaps := [] })).sto ∧ Keep { sto := true, evr := true } s s.endClear := by
  have hkeep : Keep { sto := true, evr := true } s (s.emptied code) := emptied_keep rfl rfl s code
  have hnone : (s.emptied code).trigger (s.clearedOcc code) = none := (trigger_eq_of_dict (hkeep.frame.dict rfl) _).trans ht
  rw [endClear_eq h]
  rcases recordDone_untriggered hnone s.evr.nextSeq with hdone | hdone <;> rw [hdone]
  · exact ⟨emptied_sto s code, hkeep⟩
  · exact ⟨(State.evrCause_sto _ 0).trans (emptied_sto s code), State.evrCause_keep hkeep 0⟩

/-! ### The statement -/

/-- Settles O34: the window by whether a record lies at or after the cursor, the move of the cursor, the write that begins a clear or is refused, and the log that a clear leaves. -/
theorem eventLogReadingAndClearing : Obligations.EventLogReadingAndClearing := by
  intro s m q v x code hq
  refine ⟨fun h hc => ⟨fun ecc w hw hx => evrWin0Read_record hq h hc hw hx, fun ecc hx => evrWin0Read_nothing hq h hc hx ecc⟩, fun n h hc hn => ?_, fun h hp hc => ?_, fun h hv => ?_,
    fun hc => ?_⟩
  · have hto := MregsTo.upMregs s m (fun r => { r with cursor := (n + 1) % 2 ^ 32 })
    exact ⟨_, exec_evrWin63Read h hc hn, rfl, hto.own, hto.others q hq, (State.hostGets_keep (State.upMregs_keep (Keep.refl s) m _) _).frame.countEdges s⟩
  · have hstart : s.startClear (masterCode m) = _ := if_neg (by rw [hc]; decide)
    have hframe : Frame { evr := true, dict := true } s (countEdges s (s.startClear (masterCode m))) := (State.startClear_keep (Keep.refl s) _).frame.countEdges s
    refine ⟨_, exec_eventClear_begins h hp, ?_, ?_, hframe⟩ <;> rw [hstart] <;> rfl
  · obtain ⟨hrecs, hclear⟩ := accessFault_evr s m 0x301C (if s.privOf m then flagRsvd else flagPriv)
    exact ⟨_, exec_eventClear_refused h hv, hclear, hrecs, accessFault_flag s m 0x301C (by split <;> decide), (State.accessFault_keep (Keep.refl s) m _ _).frame.countEdges s⟩
  · obtain ⟨r, hrecs, hcode, hsource, hsev, hdetail, hnum, hseq, hclear, hdrops, hcause, hsevere, hprefix⟩ := endClear_evr hc
    have hkeep : Keep { sto := true, host := true, evr := true, trc := true } s s.endClear := by
      rw [endClear_eq hc]
      exact recordDone_keep_parts (emptied_keep rfl rfl s code) rfl rfl rfl rfl _ _
    refine ⟨_, r, commit_eq s s.endClear, hrecs, hcode, hsource, hsev, hdetail, hnum, hseq, hclear, hdrops, hcause, hsevere, hprefix, hkeep.frame.countEdges s, fun hno => ?_⟩
    obtain ⟨hsto, hkept⟩ := endClear_untriggered hc (hno _ rfl rfl rfl)
    exact ⟨hsto, hkept.frame.countEdges s⟩

end Sys2Proof.Machine
end

section
/-! PROOFS. Waymark check-ins and period ends (13 R388 to R394): what a check-in within its period leaves of the slot and of the watchdog's registers, the check-ins of a service, and the end of one period. -/

namespace Sys2Proof.Machine

open Sys2Proof

variable {s : State} {m : Master} {v : Word} {i j t svc : Nat}

/-! ### One check-in within its period (13 R389 to R393) -/

/-- A check-in that only counts in EXTRA: the period has failed, or it is a later one of the first period (13 R390). -/
def WSlot.isExtra (w : WSlot) : Bool := w.failed || (w.first && w.checked)

/-- A check-in that is accepted where it is not extra (13 R389, R390). -/
def WSlot.accepts (w : WSlot) (t : Nat) : Bool := w.first || (decide (w.openTick ≤ t / 1000) && !w.checked)

/-- A check-in that fails its period: early before the tick at which the window opens, else the second one (13 R390). -/
def WSlot.checkinKind (w : WSlot) (t : Nat) : Nat := if t / 1000 < w.openTick then 1 else 2

section
variable (ha : (s.wslot i).armed = true) (ht : t / 1000 < (s.wslot i).endTick)
include ha ht

theorem wayCheckin_extra (hx : (s.wslot i).isExtra = true) : s.wayCheckin i t = s.upWslot i (fun x => { x with extra := satAdd 15 x.extra 1 }) := by
  unfold State.wayCheckin
  rw [wayCatchUp_idle s ht]
  dsimp only
  rw [ha, Bool.not_true, if_neg Bool.false_ne_true]
  exact if_pos hx

/-- A check-in that is not extra in an armed slot's current period. -/
theorem wayCheckin_counts (hx : (s.wslot i).isExtra = false) : s.wayCheckin i t =
    if (s.wslot i).first then s.upWslot i (fun x => { x with checked := true })
    else if t / 1000 < (s.wslot i).openTick then s.wayFail i 1 t
    else if (s.wslot i).checked then s.wayFail i 2 t else s.upWslot i (fun x => { x with checked := true }) := by
  unfold State.wayCheckin
  rw [wayCatchUp_idle s ht]
  dsimp only
  rw [ha, Bool.not_true, if_neg Bool.false_ne_true]
  exact if_neg (Bool.eq_false_iff.mp hx)

theorem wayCheckin_accepted (hx : (s.wslot i).isExtra = false) (hacc : (s.wslot i).accepts t = true) : s.wayCheckin i t = s.upWslot i (fun x => { x with checked := true }) := by
  rw [wayCheckin_counts ha ht hx]
  unfold WSlot.accepts at hacc
  rw [Bool.or_eq_true, Bool.and_eq_true, decide_eq_true_eq, Bool.not_eq_true'] at hacc
  rcases hacc with hfirst | ⟨hopen, hchecked⟩
  · exact if_pos hfirst
  · rw [if_neg (Nat.not_lt.mpr hopen), hchecked, if_neg Bool.false_ne_true]
    exact ite_self _

theorem wayCheckin_failed (hx : (s.wslot i).isExtra = false) (hacc : (s.wslot i).accepts t = false) : s.wayCheckin i t = s.wayFail i ((s.wslot i).checkinKind t) t := by
  rw [wayCheckin_counts ha ht hx]
  unfold WSlot.accepts at hacc
  rw [Bool.or_eq_false_iff, Bool.and_eq_false_iff, decide_eq_false_iff_not, Nat.not_le, Bool.not_eq_false'] at hacc
  obtain ⟨hfirst, hclosed⟩ := hacc
  rw [hfirst, if_neg Bool.false_ne_true]
  unfold WSlot.checkinKind
  by_cases hopen : t / 1000 < (s.wslot i).openTick
  · rw [if_pos hopen, if_pos hopen]
  · rw [if_neg hopen, if_neg hopen, hclosed.resolve_left hopen, if_pos rfl]

variable (hi : i < 32)
include hi

/-- The slot that a check-in leaves, by the three ways in which it counts. -/
theorem checkin_eq : (s.wslot i).checkin t = if (s.wslot i).isExtra then { s.wslot i with extra := satAdd 15 (s.wslot i).extra 1 }
    else if (s.wslot i).accepts t then { s.wslot i with checked := true } else (s.wslot i).fail ((s.wslot i).checkinKind t) := by
  rw [← wayCheckin_wslot s hi ht]
  cases hx : (s.wslot i).isExtra with
  | true => rw [wayCheckin_extra ha ht hx, wslot_same s hi, if_pos rfl]
  | false =>
    rw [if_neg Bool.false_ne_true]
    cases hacc : (s.wslot i).accepts t with
    | true => rw [wayCheckin_accepted ha ht hx hacc, wslot_same s hi, if_pos rfl]
    | false => rw [wayCheckin_failed ha ht hx hacc, wayFail_wslot s hi, if_neg Bool.false_ne_true]

/-- A check-in that does not fail its period touches its slot alone. -/
theorem wayCheckin_unfailed (h : (s.wslot i).checkin t ≠ (s.wslot i).fail ((s.wslot i).checkinKind t)) : ∃ k, s.wayCheckin i t = s.upWslot i k := by
  cases hx : (s.wslot i).isExtra with
  | true => exact ⟨_, wayCheckin_extra ha ht hx⟩
  | false =>
    cases hacc : (s.wslot i).accepts t with
    | true => exact ⟨_, wayCheckin_accepted ha ht hx hacc⟩
    | false => exact absurd (by rw [checkin_eq ha ht hi, hx, hacc]; rfl) h

/-- A check-in that leaves its slot failed, and is not extra, has failed the period. -/
theorem wayCheckin_fails (h : (s.wslot i).checkin t = (s.wslot i).fail ((s.wslot i).checkinKind t))
    (hne : (s.wslot i).checkin t ≠ { s.wslot i with extra := satAdd 15 (s.wslot i).extra 1 }) : s.wayCheckin i t = s.wayFail i ((s.wslot i).checkinKind t) t := by
  have heq := checkin_eq ha ht hi
  cases hx : (s.wslot i).isExtra with
  | true => exact absurd (heq.trans (if_pos hx)) hne
  | false =>
    cases hacc : (s.wslot i).accepts t with
    | true =>
      rw [heq, hx, hacc] at h
      have hfailed : (s.wslot i).failed = true := congrArg WSlot.failed h
      rw [WSlot.isExtra, hfailed] at hx
      cases hx
    | false => exact wayCheckin_failed ha ht hx hacc

end

/-! ### Check-ins of the host and of services (13 R388) -/

theorem countEdges_wslot (s u : State) (i : Nat) : (countEdges s u).wslot i = u.wslot i := rfl

theorem exec_hostCheckin (h : s.readReaches m 0x2018 = true) (hkey : wfield v 15 8 = 0xA5) (hslot : wfield v 4 0 = i) (hnow : s.clk.now ≤ t)
    (hown : (s.wslot i).owner = 3) (ha : (s.wslot i).armed = true) : exec (.hostCheckin m t v) s = commit s ((s.reach t).wayCheckin i t) := by
  have hblock : (s.reach t).wdgWrite 0x018 v (s.privOf m) = .done ((s.reach t).hostCheckin i (max s.clk.now t)) := by
    show needLegal (decide (wfield v 15 8 = 0xA5)) (.done ((s.reach t).hostCheckin (wfield v 4 0) (max s.clk.now t))) = _
    rw [decide_eq_true hkey, hslot]
    rfl
  rw [Nat.max_eq_right hnow] at hblock
  exact congrArg (commit s) ((fabricWrite_done (s := s.reach t) h hblock).trans (if_pos ⟨hown, ha⟩))

/-- A service's turn at slot `i`: it checks in where it owns the slot. -/
def State.serviceTurn (svc t : Nat) (s : State) (i : Nat) : State := if (s.wslot i).owner = 2 ∧ (s.wslot i).number = svc then s.wayCheckin i t else s

theorem exec_serviceCheckin (svc t : Nat) (s : State) : exec (.serviceCheckin svc t) s = commit s ((List.range 32).foldl (State.serviceTurn svc t) (s.reach t)) := rfl

/-- A slot that the service does not own stays, whatever slots it goes through. -/
theorem foldl_serviceTurn_other : ∀ (l : List Nat) (s : State), (s.wslot j).owner ≠ 2 ∨ (s.wslot j).number ≠ svc → (l.foldl (State.serviceTurn svc t) s).wslot j = s.wslot j
  | [], _, _ => rfl
  | k :: l, s, h => by
    have hturn : (s.serviceTurn svc t k).wslot j = s.wslot j := by
      unfold State.serviceTurn
      split
      · next hown =>
        have hne : j ≠ k := fun e => not_and_or.mpr (e ▸ h) hown
        exact wayCheckin_ne s hne t
      · rfl
    rw [List.foldl_cons, foldl_serviceTurn_other l _ (by rw [hturn]; exact h), hturn]

/-- A slot that the service owns takes one check-in. -/
theorem foldl_serviceTurn_own (hi : i < 32) (ht : t / 1000 < (s.wslot i).endTick) (hown : (s.wslot i).owner = 2) (hnum : (s.wslot i).number = svc) :
    ((List.range 32).foldl (State.serviceTurn svc t) s).wslot i = (s.wslot i).checkin t :=
  (checkin_mem hi (List.range 32) s List.nodup_range ht).trans (if_pos ⟨List.mem_range.mpr hi, hown, hnum⟩)

/-! ### The end of one period (13 R389, R394) -/

/-- The slot when its period has ended: one without an accepted check-in and without a failure has failed with kind 3 (13 R390). -/
def WSlot.judged (w : WSlot) : WSlot := if w.checked || w.failed then w else w.fail 3

/-- The slot in the period that follows: that starts where the last one ended and remembers whether it failed (13 R389, R394). -/
def WSlot.nextPeriod (w : WSlot) : WSlot :=
  { w.judged with prevFailed := w.judged.failed, warned := w.judged.failed && w.judged.warned, failed := false, checked := false, first := false, start := w.start + w.periodNs }

theorem wayPeriodEnd_own (s : State) (hi : i < 32) : (s.wayPeriodEnd i).wslot i = (s.wslot i).nextPeriod := by
  rw [wayPeriodEnd_wslot s hi]
  unfold WSlot.nextPeriod WSlot.judged
  dsimp only
  rw [← Bool.not_or]
  cases (s.wslot i).checked || (s.wslot i).failed <;> rfl

theorem nextPeriod_endTick (w : WSlot) : w.nextPeriod.endTick = (w.start + 2 * w.periodNs) / 1000 := by
  have hperiod : w.judged.period = w.period := by
    unfold WSlot.judged
    split <;> rfl
  show (w.start + w.periodNs + w.judged.period * 1000000) / 1000 = _
  rw [hperiod, Nat.two_mul, Nat.add_assoc]
  rfl

/-- Exactly one period has ended by `t`. -/
theorem wayCatchUp_turns (hi : i < 32) (ha : (s.wslot i).armed = true) (hend : (s.wslot i).endTick ≤ t / 1000)
    (hnext : t / 1000 < ((s.wslot i).start + 2 * (s.wslot i).periodNs) / 1000) : s.wayCatchUp i t ((s.wslot i).turns t) = s.wayPeriodEnd i := by
  have hperiod : (s.wslot i).period ≠ 0 := by
    intro h0
    unfold WSlot.endTick WSlot.periodNs at *
    rw [h0] at hend hnext
    omega
  unfold WSlot.turns
  rw [if_neg hperiod]
  refine wayCatchUp_once s ha hend ?_
  rw [wayPeriodEnd_own s hi, nextPeriod_endTick]
  exact hnext

/-- A period with a check-in, or one that has failed, ends in its slot alone. -/
theorem wayPeriodEnd_served (h : ((s.wslot i).checked || (s.wslot i).failed) = true) : ∃ k, s.wayPeriodEnd i = s.upWslot i k := by
  unfold State.wayPeriodEnd
  dsimp only
  rw [← Bool.not_or, h]
  exact ⟨_, rfl⟩

/-- A period without a check-in that has not failed fails with kind 3 as it ends. -/
theorem wayPeriodEnd_missed (h : ((s.wslot i).checked || (s.wslot i).failed) = false) : ∃ k, s.wayPeriodEnd i = (s.wayFail i 3 ((s.wslot i).start + (s.wslot i).periodNs)).upWslot i k := by
  unfold State.wayPeriodEnd
  dsimp only
  rw [← Bool.not_or, h]
  exact ⟨_, rfl⟩

/-! ### The statement -/

/-- Settles O35: a check-in of the host or of a service by the three ways in which it counts, and the end of one period with or without one. -/
theorem waymarkCheckinsAndPeriods : Obligations.WaymarkCheckinsAndPeriods := by
  intro s m v i j t svc w early miss hi _ hw ha hnow hearly hmiss
  subst hw
  have hearly : early = (s.wslot i).fail ((s.wslot i).checkinKind t) := hearly
  have hmiss : miss = (s.wslot i).fail 3 := hmiss
  subst hearly hmiss
  refine ⟨fun r ht hr => ?_, fun x hend hnext hx => ?_⟩
  · have hr : r = (s.wslot i).checkin t := hr.trans (checkin_eq ha ht hi).symm
    subst hr
    refine ⟨fun h hown hslot hkey => ⟨_, exec_hostCheckin h hkey hslot hnow hown ha, wayCheckin_wslot (s.reach t) hi ht, fun hj => wayCheckin_ne (s.reach t) hj t, fun hne => ?_, fun heq hne => ?_⟩,
      fun hown hnum => ⟨_, exec_serviceCheckin svc t s, (countEdges_wslot s _ i).trans (foldl_serviceTurn_own (s := s.reach t) hi ht hown hnum),
        fun hj => (countEdges_wslot s _ j).trans (foldl_serviceTurn_other _ (s.reach t) hj),
        (execServiceCheckin_keep svc t rfl).frame⟩⟩
    · obtain ⟨k, hk⟩ := wayCheckin_unfailed (s := s.reach t) ha ht hi hne
      rw [hk]
      exact ⟨rfl, (State.upWslot_keep (State.reach_keep (Keep.refl s) t) i k).frame.countEdges s⟩
    · have hfail := wayCheckin_fails (s := s.reach t) ha ht hi heq hne
      obtain ⟨hcause, hvalid, hfirst, hreset, -⟩ := wayFail_wdg (s.reach t) i ((s.wslot i).checkinKind t) t
      rw [show (s.reach t).clk.now = t from Nat.max_eq_right hnow] at hreset
      rw [heq, hfail]
      exact ⟨hcause, hvalid, hfirst, hreset⟩
  · have hexec : exec (.waymarkPeriodEnd i t) s = commit s ((s.reach t).wayPeriodEnd i) := congrArg (commit s) (wayCatchUp_turns (s := s.reach t) hi ha hend hnext)
    have hx : x = (s.wslot i).judged := hx
    subst hx
    refine ⟨_, hexec, wayPeriodEnd_own (s.reach t) hi, fun hj => wayPeriodEnd_ne (s.reach t) hj, fun hmissed => ?_, fun hserved => ?_⟩
    · obtain ⟨k, hk⟩ := wayPeriodEnd_missed (s := s.reach t) hmissed
      obtain ⟨hcause, -, -, hreset, -⟩ := wayFail_wdg (s.reach t) i 3 ((s.wslot i).start + (s.wslot i).periodNs)
      rw [show (s.reach t).clk.now = t from Nat.max_eq_right hnow] at hreset
      rw [hk]
      exact ⟨hcause, hreset⟩
    · obtain ⟨k, hk⟩ := wayPeriodEnd_served (s := s.reach t) hserved
      rw [hk]
      exact (State.upWslot_keep (State.reach_keep (Keep.refl s) t) i k).frame.countEdges s

end Sys2Proof.Machine
end

section
/-! PROOFS. The watchdog reset (13 R394 to R397): what WATCHDOG_RESET_EXECUTE waits for, the device reset that it makes, and the write that clears the count of resets. -/

namespace Sys2Proof.Machine

open Sys2Proof

variable {s : State} {m : Master} {v : Word} {i slot kind since t : Nat}

/-! ### WATCHDOG_RESET_EXECUTE (13 R395, R396) -/

/-- The acts of a watchdog reset decided at `since` that have not ended at the instant `now`: a page step, the record 0x3005 in the queue, or the 14 µs of a unit that withdraws as ACTIVE (13 R395). -/
@[reducible] def State.resetWaits (s : State) (since now : Nat) : Prop :=
  s.nvp.step.isSome = true ∨ s.evr.queue.any (fun o => decide (o.code = 0x3005)) = true ∨ s.csw.withdraw = true ∧ now < since + 14000

theorem not_resetWaits (hstep : s.nvp.step = none) (hqueue : s.evr.queue.any (fun o => decide (o.code = 0x3005)) = false)
    (hwithdraw : s.csw.withdraw = false ∨ since + 14000 ≤ max s.clk.now t) : ¬ s.resetWaits since (max s.clk.now t) := by
  rintro (h | h | ⟨h, hearly⟩)
  · rw [hstep] at h
    cases h
  · rw [hqueue] at h
    cases h
  · rcases hwithdraw with hoff | hlate
    · rw [hoff] at h
      cases h
    · exact Nat.not_le.mpr hearly hlate

theorem exec_watchdogResetExecute_none (h : s.wdg.resetting = none) : exec (.watchdogResetExecute t) s = commit s (s.reach t) := by
  show execWatchdogResetExecute t s = _
  unfold execWatchdogResetExecute
  dsimp only
  rw [show (s.reach t).wdg.resetting = none from h]

/-- The reset of slot `slot` with kind `kind` is counted (13 R396). -/
def State.countReset (s : State) (slot kind : Nat) : State := s.upWdg (fun w => { w with resets := min 0xFFFF (w.resets + 1), lastSlot := slot, lastKind := kind })

theorem exec_watchdogResetExecute_some (h : s.wdg.resetting = some (slot, kind, since)) :
    exec (.watchdogResetExecute t) s = commit s (if s.resetWaits since (max s.clk.now t) then s.reach t else ((s.reach t).countReset slot kind).deviceReset) := by
  show execWatchdogResetExecute t s = _
  unfold execWatchdogResetExecute
  dsimp only
  rw [show (s.reach t).wdg.resetting = some (slot, kind, since) from h]
  rfl

/-- No slot is armed after a device reset. -/
theorem deviceReset_wslot (s : State) (i : Nat) : s.deviceReset.wslot i = WSlot.reset := by
  unfold State.wslot
  rw [(deviceReset_left s).1]
  exact vget_replicate 32 WSlot.reset i

/-! ### WDG_CTRL.CLR_RESETS (13 R396) -/

theorem exec_clrResets_privileged (h : s.readReaches m 0x201C = true) (hp : s.privOf m = true) (hv : v.getLsbD 0 = true) : exec (.clrResets m v) s = commit s s.clearResets := by
  refine congrArg (commit s) (fabricWrite_done h ?_)
  show needPriv (s.privOf m) (.done (if v.getLsbD 0 then s.clearResets else s)) = _
  rw [hp, hv]
  rfl

theorem exec_clrResets_unprivileged (h : s.readReaches m 0x201C = true) (hp : s.privOf m = false) : exec (.clrResets m v) s = commit s (s.accessFault m 0x201C flagPriv) := by
  refine congrArg (commit s) (fabricWrite_refused h ?_)
  show needPriv (s.privOf m) _ = _
  rw [hp]
  rfl

/-! ### The statement -/

/-- Settles O36: the acts that the reset waits for, the device reset by what it leaves, and the two answers of CLR_RESETS. -/
theorem watchdogResetAndItsCount : Obligations.WatchdogResetAndItsCount := by
  intro s m v i slot kind since t _
  refine ⟨fun h => ⟨fun hw => answer_reach ((exec_watchdogResetExecute_some h).trans (congrArg (commit s) (if_pos hw))), fun hstep hqueue hwithdraw => ?_⟩,
    fun h => answer_reach (exec_watchdogResetExecute_none h), fun h hp hv => ?_, fun h hp => refused_answer (exec_clrResets_unprivileged h hp) (by decide)⟩
  · have hexec := (exec_watchdogResetExecute_some h).trans (congrArg (commit s) (if_neg (not_resetWaits hstep hqueue hwithdraw)))
    obtain ⟨hwdg, hclk, -, hstarted, href, hrole, hdict, haudit, -, -, hpending⟩ := deviceReset_left ((s.reach t).countReset slot kind)
    exact ⟨_, hexec, congrArg Wdg.resets hwdg, congrArg Wdg.lastSlot hwdg, congrArg Wdg.lastKind hwdg, congrArg Wdg.resetting hwdg, deviceReset_wslot _ i,
      congrArg Clk.running hclk, hstarted, href, haudit, (congrArg Dict.fuses hdict :), hrole, hpending⟩
  · subst hv
    exact ⟨_, exec_clrResets_privileged h hp rfl, rfl, (State.clearResets_keep (Keep.refl s)).frame.countEdges s⟩

end Sys2Proof.Machine
end

section
/-! PROOFS. One step of the block (98 opcode table), and what no step does to the sealed partition (17 R484 to R486, R492): the audit trail only grows, the event counter never falls, and sealed parameters stay. -/

namespace Sys2Proof.Machine

open Sys2Proof

/-! ### A step -/

/-- Settles O52: the queue's front is its first command, and a command's frame holds the queue. -/
theorem stepRunsTheFrontCommand : Obligations.StepRunsTheFrontCommand :=
  fun c _ _ _ => ⟨rfl, fun h => (exec_keep c h).frame.pending⟩

/-- The table gives its rows no bits, so no word of it spells a command. -/
theorem decodeTableWord_eq_none (nbits w : Nat) : decodeTableWord nbits w = none := rfl

theorem step_idle {s : State} (h : s.pending = []) : step s = .next s := by
  unfold step
  rw [h]

/-- Settles O53: the queue that holds no command, and the word that spells none. -/
theorem stepIdlesOnAnEmptyQueue : Obligations.StepIdlesOnAnEmptyQueue :=
  fun s nbits w => ⟨step_idle, decodeTableWord_eq_none nbits w, by unfold State.withFetchWord; rw [decodeTableWord_eq_none]⟩

/-! ### The sealed partition -/

/-- Whatever step answers, nothing of the guard is broken: an empty queue leaves the state, and every command keeps the guard. -/
theorem step_guard {s t : State} (h : step s = .next t) : Guard s t := by
  obtain ⟨-, hs⟩ | ⟨c, q, -, hs⟩ := step_cases s
  · rw [hs] at h
    cases h
    exact (Keep.refl (L := {}) s).guard
  · obtain ⟨hsto, hqueue, hcounts, hfuses, haudit, hbound, hevents, hcal⟩ := (exec_keep c (hs.symm.trans h)).guard
    exact ⟨hsto, hqueue, hcounts, hfuses, haudit, hbound, hevents, hcal⟩

/-- Settles O57: the trail and the event counter are in the guard. -/
theorem theAuditTrailOnlyGrows : Obligations.TheAuditTrailOnlyGrows :=
  fun _ _ h => ⟨(step_guard h).audit, (step_guard h).events⟩

/-- Settles O58: the sealed entries are in the guard. -/
theorem sealedParametersCannotChange : Obligations.SealedParametersCannotChange :=
  fun _ _ c hsealed h => (step_guard h).cal hsealed c

end Sys2Proof.Machine
end

section
/-! PROOFS. The metrology partition as a whole (17 R479, R484, R486, R487): its power-up, a recognised change of the seal, and the two faults that it reports. -/

namespace Sys2Proof.Machine

open Sys2Proof

variable {s : State} {closed on : Bool}

/-! ### Power-up and the seal -/

theorem exec_metPowerUp (h : s.domainOn 11 = true) : exec (.metPowerUp closed) s = commit s (s.metUp closed) :=
  congrArg (commit s) (if_pos h)

theorem exec_metPowerUp_idle (h : s.met.powered = true ∨ s.domainOn 11 = false) : exec (.metPowerUp closed) s = .next s := by
  refine answer_self (u := if s.domainOn 11 then s.metUp closed else s) rfl ?_
  rcases h with h | h
  · rw [show s.metUp closed = s from if_pos h, ite_self]
  · rw [h]; rfl

theorem exec_sealChange (h : s.met.powered = true) : exec (.sealChange closed) s = commit s (s.sealTo closed) :=
  congrArg (commit s) (if_pos h)

theorem exec_sealChange_off (h : s.met.powered = false) : exec (.sealChange closed) s = .next s :=
  answer_self rfl (if_neg (by rw [h]; decide))

/-- The change of the seal is a cause of its own, whether or not the trail has room for it. -/
theorem sealTo_cause (h : s.met.sealed ≠ closed) : (s.sealTo closed).met.cause.getLsbD 2 = true := by
  obtain ⟨-, -, -, -, hcause, -⟩ := sealTo_met s h
  rw [hcause, setBit_getLsbD _ _ _ _ (by decide), if_pos rfl]

/-! ### Faults of clock and excitation -/

/-- MET_CAUSE.FAULT is set where a fault begins. -/
theorem metCause_onset (s : State) (on was : Bool) : (if on && !was then s.metCause 1 else s).met = { s.met with cause := if on && !was then setBit s.met.cause 1 true else s.met.cause } := by
  split
  · exact State.metCause_met ..
  · rfl

theorem exec_clockPlausibilityFault (h : s.met.powered = true) : exec (.clockPlausibilityFault on) s =
    commit s (if on && !s.met.clockFault then (s.upMet (fun m => { m with clockFault := on })).metCause 1 else s.upMet (fun m => { m with clockFault := on })) :=
  congrArg (commit s) (if_neg (by rw [h]; decide))

theorem exec_excitationFault (h : s.met.powered = true) : exec (.excitationFault on) s =
    commit s (if on && !s.met.excFault then (s.upMet (fun m => { m with excFault := on })).metCause 1 else s.upMet (fun m => { m with excFault := on })) :=
  congrArg (commit s) (if_neg (by rw [h]; decide))

theorem exec_clockPlausibilityFault_off (h : s.met.powered = false) : exec (.clockPlausibilityFault on) s = .next s :=
  answer_self rfl (if_pos (by rw [h]; rfl))

theorem exec_excitationFault_off (h : s.met.powered = false) : exec (.excitationFault on) s = .next s :=
  answer_self rfl (if_pos (by rw [h]; rfl))

/-- Settles O46: the power-up by what the partition was, a change of the seal by the seal before it, and each fault by its onset. -/
theorem partitionPowerUpSealAndFaults : Obligations.PartitionPowerUpSealAndFaults := by
  intro s closed on
  refine ⟨exec_metPowerUp_idle, fun hd hp => ?_, fun hp hne => ?_, fun hp => ⟨exec_clockPlausibilityFault_off hp, exec_excitationFault_off hp, exec_sealChange_off hp⟩, fun hp => ?_, fun hp => ?_⟩
  · obtain ⟨hseal, hevents, hchans, hpow, hcycles, hdigest, hid⟩ := metUp_met s closed hp
    refine ⟨_, exec_metPowerUp hd, hpow, hcycles, hseal, hdigest, hid, hevents, fun c hc => ?_, (execMetPowerUp_keep closed (exec_metPowerUp hd)).frame⟩
    have hchan : vget (countEdges s (s.metUp closed)).met.chans c MetChan.reset = (vget s.met.chans c MetChan.reset).powerUp := by
      rw [countEdges_met, hchans, powerUp_chan s hc]
    rw [hchan]
    exact ⟨rfl, rfl, rfl, rfl⟩
  · obtain ⟨hseal, htele, hevents, hchans, -, haudit⟩ := sealTo_met s hne
    exact ⟨_, exec_sealChange hp, hseal, htele, hevents, hchans, sealTo_cause hne, haudit, (execSealChange_keep closed (exec_sealChange hp)).frame⟩
  · exact ⟨_, exec_clockPlausibilityFault hp, metCause_onset (s.upMet fun m => { m with clockFault := on }) on s.met.clockFault, (execClockPlausibilityFault_keep on (exec_clockPlausibilityFault hp)).frame⟩
  · exact ⟨_, exec_excitationFault hp, metCause_onset (s.upMet fun m => { m with excFault := on }) on s.met.excFault, (execExcitationFault_keep on (exec_excitationFault hp)).frame⟩

end Sys2Proof.Machine
end

section
/-! PROOFS. Adjustment (17 R484 to R486): the line while the seal is closed, and a complete telegram by its operation. -/

namespace Sys2Proof.Machine

open Sys2Proof

variable {s : State} {b : List Byte}

/-- A telegram that passes the checks of its frame: sixteen bytes, start byte, byte 5, CRC-16 and INDEX (17 R485; log 70). -/
structure FramedTelegram (b : List Byte) : Prop where
  length : b.length = 16
  start : byteAt b 0 = 0x4D
  reserved : byteAt b 5 = 0
  crc : getLE b 14 2 = crc16 (b.take 14)
  low : 0x7100 ≤ getLE b 2 2
  high : getLE b 2 2 ≤ 0x72FF

/-- While the seal is closed the line is a pulse input, and no byte on it is a telegram's. -/
theorem adjReceive_sealed (h : s.met.sealed = true) (b : List Byte) : s.adjReceive b = s :=
  if_pos (by rw [h, Bool.or_true])

/-- Sixteen bytes in adjustment, with no telegram begun, are acted on at once. -/
theorem adjReceive_complete (hp : s.met.powered = true) (ho : s.met.sealed = false) (ht : s.met.telegram = []) (hb : b.length = 16) :
    s.adjReceive b = s.telegramDone b := by
  have hsame : s.upMet (fun m => { m with telegram := [] }) = s := by
    unfold State.upMet
    rw [← ht]
  rw [adjReceive_telegram s hp ho ht hb, hsame]

/-! ### A framed telegram by its operation -/

section

variable (h : FramedTelegram b)
include h

theorem telegramDone_noChange (hop : byteAt b 1 = 4) : s.telegramDone b = s.adjResult 0 := by
  have := h.low
  have := h.high
  unfold State.telegramDone
  rw [if_neg (by simp [h.start, h.reserved, h.crc]), if_neg (by omega), if_pos hop]

theorem telegramDone_setEntry (hop : byteAt b 1 = 1) (he : (s.met.entry (getLE b 2 2) (byteAt b 4)).isSome = true)
    (hr : metInRange (getLE b 2 2) (byteAt b 4) (getLEs b 6 8) = true) :
    s.telegramDone b = s.adjust (getLE b 2 2) (byteAt b 4) 1 (getLEs b 6 8) := by
  have := h.low
  have := h.high
  unfold State.telegramDone
  rw [if_neg (by simp [h.start, h.reserved, h.crc]), if_neg (by omega), if_neg (by omega), if_pos hop, if_neg (by simp [Option.isSome_iff_ne_none.mp he]), if_neg (by simp [hr])]

/-- A capture of ZERO that leaves at least 210 counts per e, of an enabled channel whose record is stable, with room in the trail. -/
theorem telegramDone_captureZero {c : MetChan} (hc : c = vget s.met.chans (byteAt b 4) MetChan.reset) (hsub : byteAt b 4 < 8) (hroom : s.met.audit.length < 1024)
    (hen : c.enable = true) (hstable : (byteAt c.record 2).testBit 1 = true) (hop : byteAt b 1 = 2) (hcounts : 210 * (c.maxE : Int) ≤ c.span - c.raw) :
    s.telegramDone b = s.adjust (0x7100 + byteAt b 4) 6 2 c.raw := by
  have := h.low
  have := h.high
  subst hc
  unfold State.telegramDone
  rw [if_neg (by simp [h.start, h.reserved, h.crc]), if_neg (by omega), if_neg (by omega), if_neg (by omega), if_neg (by omega)]
  simp only [hop, if_true]
  rw [if_neg (by simp [enoughCounts, hcounts]), if_neg (by omega), if_neg (by simp [hen, hstable])]

/-- A capture of SPAN for a VALUE in range that gives at least 210 counts per e, of an enabled channel whose record is stable, with room in the trail. -/
theorem telegramDone_captureSpan {c : MetChan} (hc : c = vget s.met.chans (byteAt b 4) MetChan.reset) (hsub : byteAt b 4 < 8) (hroom : s.met.audit.length < 1024)
    (hen : c.enable = true) (hstable : (byteAt c.record 2).testBit 1 = true) (hop : byteAt b 1 = 3) (h1 : 1 ≤ getLEs b 6 8) (hmax : getLEs b 6 8 ≤ (c.maxE : Int))
    (hcounts : 210 * (c.maxE : Int) ≤ roundDiv ((c.raw - c.zero) * c.maxE) (getLEs b 6 8)) :
    s.telegramDone b = s.adjust (0x7100 + byteAt b 4) 7 3 (c.zero + roundDiv ((c.raw - c.zero) * c.maxE) (getLEs b 6 8)) := by
  have := h.low
  have := h.high
  have h2 : byteAt b 1 ≠ 2 := by omega
  subst hc
  unfold State.telegramDone
  rw [if_neg (by simp [h.start, h.reserved, h.crc]), if_neg (by omega), if_neg (by omega), if_neg (by omega), if_neg (by omega)]
  simp only [if_neg h2]
  rw [if_neg (by simp [enoughCounts, hcounts]; omega), if_neg (by omega), if_neg (by simp [hen, hstable])]

end

/-! ### An accepted change -/

/-- A sealed entry of a bridge channel set is that channel's entry put. -/
theorem metSet_chan (s : State) {c : Nat} (hc : c < 8) (sub : Nat) (v : Int) :
    vget (s.metSet (0x7100 + c) sub v).met.chans c MetChan.reset = (vget s.met.chans c MetChan.reset).put sub v := by
  unfold State.metSet
  rw [if_neg (by omega), show 0x7100 + c - 0x7100 = c by omega, State.upMetChan_met]
  exact vget_vup_same (by omega) _ _

theorem entry_zero (m : Met) {c : Nat} (hc : c < 8) : m.entry (0x7100 + c) 6 = some (vget m.chans c MetChan.reset).zero := by
  unfold Met.entry
  rw [if_pos (by omega), show 0x7100 + c - 0x7100 = c by omega]
  rfl

theorem entry_span (m : Met) {c : Nat} (hc : c < 8) : m.entry (0x7100 + c) 7 = some (vget m.chans c MetChan.reset).span := by
  unfold Met.entry
  rw [if_pos (by omega), show 0x7100 + c - 0x7100 = c by omega]
  rfl

/-- Settles O47: the line by the seal, and each telegram as the change that it makes, which `adjust_met` describes. -/
theorem adjustmentTelegrams : Obligations.AdjustmentTelegrams := by
  intro s b index sub old v hlen hstart hres hcrc hindex hsub hv hlow hhigh
  subst hindex hsub hv
  have hb : FramedTelegram b := ⟨hlen, hstart, hres, hcrc, hlow, hhigh⟩
  have hline : ∀ {c : Instr} {u : State}, exec c s = commit s (s.adjReceive b) → s.adjReceive b = u → exec c s = commit s u := fun h e => h.trans (congrArg (commit s) e)
  refine ⟨fun hs => ?_, fun hp ho ht => ?_⟩
  · have hself := adjReceive_sealed hs b
    exact ⟨answer_self rfl hself, answer_self rfl hself, answer_self rfl hself, answer_self rfl hself⟩
  have hdone := adjReceive_complete hp ho ht hlen
  refine ⟨fun hop => ?_, fun hop he hr hroom => ?_, fun c hc h8 hroom hen hstable => ⟨fun hop hcounts => ?_, fun hop h1 hm hcounts => ?_⟩⟩
  · have hexec : exec (.adjNoChange b) s = _ := hline rfl (hdone.trans (telegramDone_noChange hb hop))
    exact ⟨_, hexec, rfl, (execAdjNoChange_keep b hexec).frame⟩
  · have hexec : exec (.adjSetEntry b) s = _ := hline rfl (hdone.trans (telegramDone_setEntry hb hop (by rw [he]; rfl) hr))
    obtain ⟨hevents, haudit, hresult, hsealed, hcause, -, hentry⟩ := adjust_met s (k := 1) (n := getLEs b 6 8) hroom he
    exact ⟨_, hexec, hentry.trans (metSet_entry s (by rw [he]; rfl) hr), hevents, haudit, hresult, hsealed.trans ho, hcause, (execAdjSetEntry_keep b hexec).frame⟩
  · subst hc
    have hexec : exec (.adjCaptureZero b) s = _ := hline rfl (hdone.trans (telegramDone_captureZero hb rfl h8 hroom hen hstable hop hcounts))
    obtain ⟨hevents, haudit, hresult, -, -, hchans, -⟩ := adjust_met s (k := 2) (n := (vget s.met.chans (byteAt b 4) MetChan.reset).raw) hroom (entry_zero s.met h8)
    refine ⟨_, hexec, ?_, hevents, haudit, hresult, (execAdjCaptureZero_keep b hexec).frame⟩
    rw [countEdges_met, hchans, metSet_chan s h8]
    rfl
  · subst hc
    have hexec : exec (.adjCaptureSpan b) s = _ := hline rfl (hdone.trans (telegramDone_captureSpan hb rfl h8 hroom hen hstable hop h1 hm hcounts))
    obtain ⟨hevents, haudit, hresult, -, -, hchans, -⟩ := adjust_met s (k := 3)
      (n := (vget s.met.chans (byteAt b 4) MetChan.reset).zero + roundDiv (((vget s.met.chans (byteAt b 4) MetChan.reset).raw - (vget s.met.chans (byteAt b 4) MetChan.reset).zero) * (vget s.met.chans (byteAt b 4) MetChan.reset).maxE) (getLEs b 6 8))
      hroom (entry_span s.met h8)
    refine ⟨_, hexec, ?_, hevents, haudit, hresult, (execAdjCaptureSpan_keep b hexec).frame⟩
    rw [countEdges_met, hchans, metSet_chan s h8]
    rfl

end Sys2Proof.Machine
end

section
/-! PROOFS. The mailbox of the metrology partition (17 R481, R482, R488): the fields of a record, what a publication leaves of the channels, and the records of a bridge sample and of a pulse input. -/

namespace Sys2Proof.Machine

open Sys2Proof

variable {s : State} {c q n : Nat}

/-! ### Fields of a record (17 R488) -/

theorem metRecord_length {value : List Byte} (hv : value.length = 8) (kind chan flags seq eMant maxE events : Nat) (eExp : Int) :
    (metRecord kind chan flags seq value eMant eExp maxE events).length = 32 := by
  simp [metRecord, withCrc32, leBytes_length, zeros, hv]

/-- KIND, CHAN and the low byte of FLAGS are the first three bytes of a record. -/
theorem metRecord_head (kind chan flags seq eMant maxE events : Nat) (eExp : Int) (value : List Byte) :
    byteAt (metRecord kind chan flags seq value eMant eExp maxE events) 0 = kind % 256 ∧
    byteAt (metRecord kind chan flags seq value eMant eExp maxE events) 1 = chan % 256 ∧
    byteAt (metRecord kind chan flags seq value eMant eExp maxE events) 2 = flags % 256 := ⟨rfl, rfl, rfl⟩

/-- VALUE stands in bytes 8 to 15. -/
theorem metRecord_value {value : List Byte} (hv : value.length = 8) (kind chan flags seq eMant maxE events : Nat) (eExp : Int) :
    slice (metRecord kind chan flags seq value eMant eExp maxE events) 8 8 = value := by
  have hdrop : ∀ rest : List Byte, (leBytes 1 kind ++ leBytes 1 chan ++ leBytes 2 flags ++ leBytes 4 seq ++ rest).drop 8 = rest := fun _ => rfl
  unfold slice metRecord withCrc32
  simp only [List.append_assoc] at hdrop ⊢
  rw [hdrop]
  exact List.take_left' hv

/-! ### Publication -/

/-- A publication after an update of its channel leaves the other channels, the trail and the event counter, and sets ALIVE and MET_CAUSE.NEW. -/
theorem publish_left (s : State) (hc : c < 12) (k : MetChan → MetChan) (r : Nat → List Byte) {x : MetChan} (hx : x = k (vget s.met.chans c MetChan.reset)) :
    vget ((s.upMetChan c k).metPublish c r).met.chans c MetChan.reset =
      { x with seq := (x.seq + 1) % 2 ^ 32, record := r ((x.seq + 1) % 2 ^ 32), before := x.record, recAt := some s.clk.now } ∧
    (∀ d, d ≠ c → vget ((s.upMetChan c k).metPublish c r).met.chans d MetChan.reset = vget s.met.chans d MetChan.reset) ∧
    ((s.upMetChan c k).metPublish c r).met.alive = true ∧ ((s.upMetChan c k).metPublish c r).met.cause = setBit s.met.cause 0 true ∧
    ((s.upMetChan c k).metPublish c r).met.events = s.met.events ∧ ((s.upMetChan c k).metPublish c r).met.audit = s.met.audit := by
  subst hx
  rw [metPublish_met, State.upMetChan_met]
  refine ⟨?_, fun d hd => ?_, rfl, rfl, rfl, rfl⟩
  · dsimp only
    rw [vget_vup_same hc, vget_vup_same hc]
    rfl
  · dsimp only
    rw [vget_vup_ne hd, vget_vup_ne hd]

/-! ### Bridge samples (17 R482) -/

/-- FLAGS of a weight record keep VALID clear while the seal is open, the clock or the identification has failed, or a fault of the measurement stands. -/
theorem withValid_even : ∀ opened clock ident bad stable zero above below unset : Bool, opened = true ∨ clock = true ∨ ident = true ∨ bad = true →
    withValid (32 * bit opened + 64 * bit clock + 2048 * bit ident + 2 * bit stable + 4 * bit zero + 8 * bit above + 16 * bit below + 128 * bit bad + 1024 * bit unset) % 256 % 2 = 0 := by
  decide

theorem zeroStep_seq (m : MetChan) (x : Int × Int) (use : Nat) : (m.zeroStep x use).seq = m.seq := by
  unfold MetChan.zeroStep
  split
  · split <;> rfl
  · split <;> rfl

/-- A weight is stable only after a full second of samples. -/
theorem stable_short {m : MetChan} (h : m.hist.length < m.rate) (w : Int) : m.stable w = false := by
  unfold MetChan.stable
  rw [decide_eq_false (by omega), Bool.false_and]

/-- The weight of a sample before its zero correction moves; a free value where SPAN equals ZERO (log 70). -/
def MetChan.firstWeight (m : MetChan) (raw : Int) (use : Nat) : Int :=
  match m.quotient raw with
  | some x => m.weight x
  | none => Config.weight use

/-- The channel once a stable sample has moved its zero correction (17 R483). -/
def MetChan.zeroed (m : MetChan) (raw : Int) (use : Nat) : MetChan :=
  match m.quotient raw with
  | some x => if m.stable (m.weight x) then m.zeroStep x use else m
  | none => m

/-- The weight that a sample publishes, and whether it lies near zero. -/
def MetChan.reading (m : MetChan) (raw : Int) (use : Nat) : Int × Bool :=
  match (m.zeroed raw use).quotient raw with
  | some x => ((m.zeroed raw use).weight x, (m.zeroed raw use).nearZero x 4)
  | none => (m.firstWeight raw use, decide (m.firstWeight raw use = 0))

/-- A fault of the measurement: raw value or supply out of range, or the excitation at fault. -/
def State.sampleFault (s : State) (m : MetChan) (raw : Int) (supply sense : Bool) : Bool :=
  decide (2 ^ 23 < raw.natAbs) || (supply || (sense && m.sixWire)) || s.met.excFault

/-- The channel after a sample, but for its record. -/
def MetChan.sampled (m : MetChan) (raw : Int) (use : Nat) (supply sense : Bool) : MetChan :=
  { m.zeroed raw use with raw := raw, excBad := supply || (sense && m.sixWire), hist := ((m.reading raw use).1 :: (m.zeroed raw use).hist).take (m.zeroed raw use).rate }

/-- The record that a sample publishes with the number `n`. -/
def State.weightRecord (s : State) (c : Nat) (m : MetChan) (raw : Int) (supply sense : Bool) (n : Nat) : List Byte :=
  metRecord 1 c (withValid (s.weightFlags (m.zeroed raw s.free) (m.reading raw s.free).1 (m.stable (m.firstWeight raw s.free)) (m.reading raw s.free).2 (s.sampleFault m raw supply sense))) n
    (wbytes (i32 (m.reading raw s.free).1) ++ wbytes (i32 ((m.reading raw s.free).1 / 2 ^ 32))) (m.zeroed raw s.free).eMant (m.zeroed raw s.free).eExp (m.zeroed raw s.free).maxE s.met.events

/-- A sample of an enabled channel is stored and published. -/
theorem bridge_enabled {m : MetChan} (hp : s.met.powered = true) (hc : c < 8) (hm : m = vget s.met.chans c MetChan.reset) (hen : m.enable = true) (raw : Int) (supply sense : Bool) :
    s.bridge c raw supply sense = (s.useFree.upMetChan c (fun _ => m.sampled raw s.free supply sense)).metPublish c (s.weightRecord c m raw supply sense) := by
  subst hm
  unfold State.bridge
  extract_lets m0 bad fault
  rw [if_neg (by simp [hp]; omega), if_neg (by rw [hen]; decide)]
  unfold MetChan.sampled State.weightRecord MetChan.reading MetChan.zeroed MetChan.firstWeight
  cases hq : m0.quotient raw with
  | none => simp only [show vget s.met.chans c MetChan.reset = m0 from rfl, hq]; rfl
  | some x =>
    simp only [show vget s.met.chans c MetChan.reset = m0 from rfl]
    cases hst : m0.stable (m0.weight x)
    · simp only [Bool.false_eq_true, if_false, hq]; rfl
    · simp only [if_true]
      cases hz : (m0.zeroStep x s.free).quotient raw
      · rfl
      · rfl

theorem zeroed_seq (m : MetChan) (raw : Int) (use : Nat) : (m.zeroed raw use).seq = m.seq := by
  unfold MetChan.zeroed
  split
  · split
    · exact zeroStep_seq _ _ _
    · rfl
  · rfl

/-- Before the weight can be stable the zero correction stays, and the sample publishes the weight that it gives. -/
theorem reading_short {m : MetChan} (hne : m.span ≠ m.zero) (hshort : m.hist.length < m.rate) (raw : Int) (use : Nat) :
    (m.reading raw use).1 = m.weight ((raw - m.zero) * m.maxE, m.span - m.zero) := by
  have hq : m.quotient raw = some ((raw - m.zero) * m.maxE, m.span - m.zero) := if_neg hne
  have hz : m.zeroed raw use = m := by
    unfold MetChan.zeroed
    rw [hq]
    dsimp only
    rw [stable_short hshort]
    rfl
  unfold MetChan.reading
  rw [hz, hq]

/-- VALID of a weight record is clear where R488 has it so. -/
theorem weightRecord_invalid {m : MetChan} {raw : Int} {supply sense : Bool}
    (h : s.met.sealed = false ∨ s.met.clockFault = true ∨ s.met.idOk = false ∨ s.sampleFault m raw supply sense = true) (n : Nat) :
    byteAt (s.weightRecord c m raw supply sense n) 2 % 2 = 0 := by
  refine withValid_even _ _ _ _ _ _ _ _ _ ?_
  simpa using h

theorem exec_bridgeSample_enabled {m : MetChan} (hp : s.met.powered = true) (hc : c < 8) (hm : m = vget s.met.chans c MetChan.reset) (hen : m.enable = true) (raw : Int) (supply sense : Bool) :
    exec (.bridgeSample c n raw supply sense) s =
      commit s (((s.reach n).useFree.upMetChan c (fun _ => m.sampled raw s.free supply sense)).metPublish c ((s.reach n).weightRecord c m raw supply sense)) :=
  congrArg (commit s) (bridge_enabled (s := s.reach n) hp hc hm hen raw supply sense)

/-! ### Pulse inputs (17 R481, R488) -/

/-- One more edge on a totaliser (17 R481). -/
def MetChan.counted (m : MetChan) (now : Nat) : MetChan :=
  if m.total = 9999999999999999 then { m with total := 0, rollover := true, edgeAt := some now } else { m with total := m.total + 1, edgeAt := some now }

/-- An edge of a pulse input counts where the input is enabled; Q3 is one only while the seal is closed. -/
theorem exec_pulseEdge_counts (hp : s.met.powered = true) (hq : q < 4) (hline : q ≠ 3 ∨ s.met.sealed = true) :
    exec (.pulseEdge q n) s = commit s ((s.reach n).upMetChan (8 + q) (fun m => if !m.enable then m else m.counted (max s.clk.now n))) := by
  refine congrArg (commit s) (if_neg ?_)
  show ¬ ((!s.met.powered) = true ∨ 4 ≤ q ∨ q = 3 ∧ (!s.met.sealed) = true)
  rw [hp]
  rcases hline with h | h
  · simp [h]; omega
  · simp [h]; omega

/-- The record that a pulse input publishes with the number `n`. -/
def State.pulseRecord (s : State) (q : Nat) (m : MetChan) (n : Nat) : List Byte :=
  metRecord 2 (8 + q) (withValid (s.met.flags + 256 * bit m.rollover + 512 * bit m.gapFlag)) n (leBytes 8 (toBcd 16 m.total)) 0 0 0 s.met.events

theorem exec_pulseRecordPublish_enabled {m : MetChan} (hp : s.met.powered = true) (hq : q < 4) (hm : m = vget s.met.chans (8 + q) MetChan.reset) (hen : m.enable = true) :
    exec (.pulseRecordPublish q n) s =
      commit s (((s.reach n).upMetChan (8 + q) (fun m => { m with rollover := false, gapFlag := false })).metPublish (8 + q) ((s.reach n).pulseRecord q m)) := by
  subst hm
  have hpub : ¬ ((!s.met.powered) = true ∨ 4 ≤ q) := by simp [hp]; omega
  have hon : ¬ (!(vget s.met.chans (8 + q) MetChan.reset).enable) = true := by simp [hen]
  exact congrArg (commit s) ((if_neg hpub).trans (if_neg hon))

/-- Settles O48: each of the three as an update of its channel, two of them with its publication. -/
theorem mailboxRecordsOfTheChannels : Obligations.MailboxRecordsOfTheChannels := by
  intro s c q n raw supply sense bad m p hpow hc hq hm hp hbad
  refine ⟨fun hen => ?_, fun hen hline => ?_, fun hen => ?_⟩
  · have hexec := exec_bridgeSample_enabled (n := n) hpow hc hm hen raw supply sense
    obtain ⟨hchan, hother, halive, hcause, hevents, haudit⟩ := publish_left (s.reach n).useFree (c := c) (by omega) (fun _ => m.sampled raw s.free supply sense) ((s.reach n).weightRecord c m raw supply sense) rfl
    have hclk := (congrArg State.clk (bridge_enabled (s := s.reach n) hpow hc hm hen raw supply sense)).symm.trans
      ((State.bridge_keep (L := { met := true, evr := true, free := true }) (Keep.refl (s.reach n)) c raw supply sense).frame.clk rfl)
    have hseq : (m.sampled raw s.free supply sense).seq = m.seq := zeroed_seq m raw s.free
    refine ⟨_, _, hexec, hchan.symm, rfl, congrArg (fun k => (k + 1) % 2 ^ 32) hseq, metRecord_length rfl .., rfl, ?_, fun h => ?_, fun hne hshort => ?_, halive, hcause, hother, hevents, haudit, hclk,
      (execBridgeSample_keep c n raw supply sense hexec).frame⟩
    · exact (metRecord_head ..).2.1.trans (Nat.mod_eq_of_lt (by omega))
    · refine decide_eq_false ?_
      have hinvalid := weightRecord_invalid (s := s.reach n) (c := c) (m := m) (raw := raw) (supply := supply) (sense := sense) (by
        subst hbad
        simpa [State.sampleFault, State.reach, or_assoc, or_comm, or_left_comm] using h)
      rw [hinvalid]
      decide
    · exact (metRecord_value rfl ..).trans (congrArg (fun w => wbytes (i32 w) ++ wbytes (i32 (w / 2 ^ 32))) (reading_short hne hshort raw s.free))
  · have hexec := exec_pulseEdge_counts (n := n) hpow hq hline
    refine ⟨_, hexec, ?_, fun d hd => vget_vup_ne hd .., rfl, (execPulseEdge_keep q n hexec).frame⟩
    have hon : ¬ (!(vget s.met.chans (8 + q) MetChan.reset).enable) = true := by simp [← hp, hen]
    exact (vget_vup_same (by omega) _ _).trans ((if_neg hon).trans (congrArg (MetChan.counted · (max s.clk.now n)) hp.symm))
  · have hexec := exec_pulseRecordPublish_enabled (n := n) hpow hq hp hen
    obtain ⟨hchan, hother, halive, hcause, hevents, haudit⟩ := publish_left (s.reach n) (c := 8 + q) (by omega) (fun m => { m with rollover := false, gapFlag := false }) ((s.reach n).pulseRecord q p)
      (x := { p with rollover := false, gapFlag := false }) (by rw [hp]; rfl)
    exact ⟨_, _, hexec, hchan.symm, rfl, rfl, rfl, rfl, metRecord_length (leBytes_length 8 _) .., rfl, metRecord_value (leBytes_length 8 _) .., halive, hcause, hother, hevents, haudit,
      (execPulseRecordPublish_keep q n hexec).frame⟩

end Sys2Proof.Machine
end

section
/-! PROOFS. The timeouts of the metrology partition (17 R483, R485, R490) and a read of its block (17 R491). -/

namespace Sys2Proof.Machine

open Sys2Proof

variable {s : State} {m : Master} {c i n off : Nat}

/-! ### Timeouts -/

theorem exec_noZeroTimeout (h : s.met.powered = true ∧ s.met.metOn + 10000000000 ≤ max s.clk.now n) :
    exec (.noZeroTimeout c n) s = commit s ((s.reach n).upMetChan c (fun m => if m.zSet then m else { m with zTimedOut := true })) :=
  congrArg (commit s) (if_pos h)

theorem exec_noZeroTimeout_early (h : ¬ (s.met.powered = true ∧ s.met.metOn + 10000000000 ≤ max s.clk.now n)) : exec (.noZeroTimeout c n) s = commit s (s.reach n) :=
  congrArg (commit s) (if_neg h)

theorem exec_metAliveTimeout (h : s.met.alive = true) (ht : s.met.lastRec + 10000000 ≤ max s.clk.now n) :
    exec (.metAliveTimeout n) s = commit s (((s.reach n).upMet (fun m => { m with alive := false })).metCause 1) :=
  congrArg (commit s) (if_pos ⟨h, ht⟩)

theorem exec_metAliveTimeout_early (h : s.met.alive = false ∨ max s.clk.now n < s.met.lastRec + 10000000) : exec (.metAliveTimeout n) s = commit s (s.reach n) := by
  refine congrArg (commit s) (if_neg ?_)
  rintro ⟨halive, ht⟩
  rcases h with h | h
  · exact absurd (halive.symm.trans h) (by decide)
  · exact absurd ht (Nat.not_le.mpr h)

/-! ### Reads of the MET block -/

/-- A read that reaches the block obtains the block's word. -/
theorem exec_metRecordRead (h : s.readReaches m (0x11000 + off) = true) (ho : off < 4096) :
    exec (.metRecordRead m off) s = commit s ((s.metRead m off).2.hostGets [(s.metRead m off).1]) := by
  have hpage : (0x11000 + off) / 4096 = 0x11 := by omega
  have hoff : (0x11000 + off) % 4096 = off := by omega
  refine congrArg (commit s) ((if_pos ho).trans (regRead_reaches h ?_))
  rw [hpage, hoff]
  rfl

/-- A word of the digest. -/
theorem metRead_digest (hi : i < 8) : s.metRead m (0x020 + 4 * i) = (w32 (getLE s.met.digest (4 * i) 4), s) := by
  unfold State.metRead
  rw [if_neg (by omega), if_neg (by omega), if_neg (by omega), if_neg (by omega), if_neg (by omega), if_neg (by omega), if_neg (by omega), if_pos (by omega), show 0x020 + 4 * i - 0x020 = 4 * i by omega]

/-- Word `i` of the record of channel `c`. -/
theorem metRead_record (hc : c < 12) (hi : i < 8) : s.metRead m (0x100 + 32 * c + 4 * i) = s.metWord m c i := by
  unfold State.metRead
  rw [if_neg (by omega), if_neg (by omega), if_neg (by omega), if_neg (by omega), if_neg (by omega), if_neg (by omega), if_neg (by omega), if_neg (by omega), if_pos (by omega),
    show (0x100 + 32 * c + 4 * i - 0x100) / 32 = c by omega, show (0x100 + 32 * c + 4 * i - 0x100) % 32 / 4 = i by omega]

/-- Word 0 of a record latches the whole for its reader, and is read from there. -/
theorem metWord_first (hc : c < 12) : (s.metWord m c 0).1 = w32 (getLE (vget s.met.chans c MetChan.reset).record 0 4) ∧
    aget ((s.metWord m c 0).2.mregs m).metLatch c = some (vget s.met.chans c MetChan.reset).record := by
  have hsource : s.metSource m c = (vget s.met.chans c MetChan.reset).record := if_pos hc
  have hlatch : aget ((s.upMregs m (fun r => { r with metLatch := aput c (s.metSource m c) r.metLatch })).mregs m).metLatch c = some (vget s.met.chans c MetChan.reset).record := by
    rw [upMregs_same, aget_aput, if_pos rfl, hsource]
  refine ⟨?_, hlatch⟩
  show w32 (getLE ((aget ((s.upMregs m (fun r => { r with metLatch := aput c (s.metSource m c) r.metLatch })).mregs m).metLatch c).getD []) (4 * 0) 4) = _
  rw [hlatch]
  rfl

/-- A later word is read from what its reader latched. -/
theorem metWord_later (hi : i ≠ 0) : s.metWord m c i = (w32 (getLE ((aget (s.mregs m).metLatch c).getD []) (4 * i) 4), s) := by
  unfold State.metWord
  simp only [if_neg hi]

/-- Settles O49: each timeout by whether its time has come, and a read by its offset. -/
theorem partitionTimeoutsAndMailboxReads : Obligations.PartitionTimeoutsAndMailboxReads := by
  intro s c i n m hc hi
  refine ⟨?_, fun hp ht => ?_, ⟨_, rfl, rfl, (execTelegramGapTimeout_keep rfl).frame⟩, fun ha ht => ?_, fun h => ?_, fun off hr ho => ?_⟩
  · by_cases h : s.met.powered = true ∧ s.met.metOn + 10000000000 ≤ max s.clk.now n
    · exact ⟨_, exec_noZeroTimeout h, fun hn => absurd h hn, rfl⟩
    · exact ⟨_, exec_noZeroTimeout_early h, fun _ => ⟨rfl, (State.reach_keep (Keep.refl s) n).frame.countEdges s⟩, rfl⟩
  · exact ⟨_, exec_noZeroTimeout ⟨hp, ht⟩, vget_vup_same hc _ _, fun d hd => vget_vup_ne hd .., rfl, (execNoZeroTimeout_keep c n (exec_noZeroTimeout ⟨hp, ht⟩)).frame⟩
  · exact ⟨_, exec_metAliveTimeout ha ht, State.metCause_met .., (execMetAliveTimeout_keep n (exec_metAliveTimeout ha ht)).frame⟩
  · exact ⟨_, exec_metAliveTimeout_early h, rfl, (State.reach_keep (Keep.refl s) n).frame.countEdges s⟩
  · have hkeep : Keep { host := true } s ((s.metRead m off).2.hostGets [(s.metRead m off).1]) := State.hostGets_keep (State.metRead_keep (Keep.refl s) m off) _
    have hword : ∀ {w : Word} {u : State}, s.metRead m off = (w, u) → [(s.metRead m off).1] = [w] := fun h => by rw [h]
    refine ⟨_, exec_metRecordRead hr ho, fun h => ?_, fun h => ?_, fun h => ?_, fun h => ?_, fun h => ?_, fun h => ?_, fun h h0 => ?_, hkeep.frame.met rfl, hkeep.frame.countEdges s⟩
    · subst h; rfl
    · subst h; rfl
    · subst h; rfl
    · subst h; rfl
    · subst h
      exact hword (metRead_digest hi)
    · subst h
      have hread : s.metRead m (0x100 + 32 * c) = s.metWord m c 0 := metRead_record hc (i := 0) (by decide)
      obtain ⟨hfirst, hlatch⟩ := metWord_first (s := s) (m := m) hc
      rw [hread]
      exact ⟨congrArg (fun w => [w]) hfirst, hlatch⟩
    · subst h
      have hread := (metRead_record (s := s) (m := m) hc hi).trans (metWord_later h0)
      rw [hread]
      exact ⟨rfl, rfl⟩

end Sys2Proof.Machine
end

section
/-! PROOFS. Anchors, freezing and the stream of the trace ring (14 R420 to R422, R424, R426, R427). That a freezing ring discards UNFREEZE rests on log 61. -/

namespace Sys2Proof.Machine

open Sys2Proof

variable {s w u : State} {m : Master} {c : Instr} {t a v : Nat} {b : List Byte} {x : TItem} {l₁ l₂ : List TItem} {ecc : List Ecc} {q : Trc}

/-! ### Commands to the trace unit (14 R433) -/

/-- A privileged write of a command to TRC_CTRL is that command. -/
theorem fabricWrite_trcCommand (hr : s.readReaches m 0x1400C = true) (hp : s.privOf m = true) (hv : v = 1 ∨ v = 2 ∨ v = 4) :
    s.fabricWrite m 0x1400C (w32 v) [] = s.trcCommand v := by
  refine fabricWrite_done hr ?_
  show needPriv (s.privOf m) (needLegal _ (.done (s.trcCommand (wfield (w32 v) 2 0)))) = _
  rw [hp]
  rcases hv with rfl | rfl | rfl <;> rfl

theorem fabricWrite_trcUnprivileged (hr : s.readReaches m 0x1400C = true) (hp : s.privOf m = false) (v : Word) :
    s.fabricWrite m 0x1400C v [] = s.accessFault m 0x1400C flagPriv := by
  refine fabricWrite_refused hr ?_
  show needPriv (s.privOf m) _ = _
  rw [hp]
  rfl

theorem exec_anchorCmd (hr : s.readReaches m 0x1400C = true) (hp : s.privOf m = true) : exec (.anchorCmd m) s = commit s s.requestAnchor :=
  congrArg (commit s) (fabricWrite_trcCommand hr hp (.inl rfl))

theorem exec_freeze (hr : s.readReaches m 0x1400C = true) (hp : s.privOf m = true) : exec (.freeze m) s = commit s s.freezeReq :=
  congrArg (commit s) (fabricWrite_trcCommand hr hp (.inr (.inl rfl)))

theorem exec_unfreeze (hr : s.readReaches m 0x1400C = true) (hp : s.privOf m = true) : exec (.unfreeze m) s = commit s s.unfreeze :=
  congrArg (commit s) (fabricWrite_trcCommand hr hp (.inr (.inr rfl)))

/-- Each of the three commands is refused with PRIV to a master without privilege. -/
theorem trcCommand_unprivileged (hr : s.readReaches m 0x1400C = true) (hp : s.privOf m = false) (hc : c = .anchorCmd m ∨ c = .freeze m ∨ c = .unfreeze m) :
    exec c s = commit s (s.accessFault m 0x1400C flagPriv) := by
  rcases hc with rfl | rfl | rfl
  all_goals exact congrArg (commit s) (fabricWrite_trcUnprivileged hr hp _)

/-- What a command does that changes the trace unit alone. -/
theorem answer_trc {L : Parts} (h : exec c s = commit s u) (hk : Keep L s u) (hu : u.trc = q) : ∃ v, exec c s = .next v ∧ v.trc = q ∧ Frame L s v :=
  ⟨_, h, hu, hk.frame.countEdges s⟩

/-! ### Anchors (14 R420 to R422) -/

theorem exec_anchorRequestInterval (h : s.trc.anchorAt + s.inForce 0x5301 0 600 * 1000000000 ≤ max s.clk.now t) :
    exec (.anchorRequestInterval t) s = commit s (s.reach t).requestAnchor := congrArg (commit s) (if_pos h)

theorem exec_anchorRequestInterval_early (h : max s.clk.now t < s.trc.anchorAt + s.inForce 0x5301 0 600 * 1000000000) :
    exec (.anchorRequestInterval t) s = commit s (s.reach t) := congrArg (commit s) (if_neg (Nat.not_le.mpr h))

/-- An anchor whose copy is complete. -/
def TItem.copied (x : TItem) : TItem := { x with anchor := x.anchor.map (fun z => { z with complete := true }) }

/-- The ring holds no anchor that is being copied. -/
theorem copyEnd_eq_none {l : List TItem} (h : ∀ y ∈ l, q.heldBack y = false) (p : Nat) : q.copyEnd l p = none := by
  induction l generalizing p with
  | nil => rfl
  | cons y l ih =>
    rw [Trc.copyEnd, if_neg (Bool.eq_false_iff.mp (h y List.mem_cons_self))]
    exact ih (fun z hz => h z (List.mem_cons_of_mem _ hz)) _

/-- The end of the anchor that is being copied, after the items before it. -/
theorem copyEnd_append (h : ∀ y ∈ l₁, q.heldBack y = false) (hx : q.heldBack x = true) (p : Nat) :
    q.copyEnd (l₁ ++ x :: l₂) p = some (p + (l₁.map TItem.span).sum + x.span) := by
  induction l₁ generalizing p with
  | nil => rw [List.nil_append, Trc.copyEnd, if_pos hx]; rfl
  | cons y l ih =>
    rw [List.cons_append, Trc.copyEnd, if_neg (Bool.eq_false_iff.mp (h y List.mem_cons_self)), ih (fun z hz => h z (List.mem_cons_of_mem _ hz))]
    simp [Nat.add_assoc]

theorem map_copied_of_not_heldBack {l : List TItem} (h : ∀ y ∈ l, q.heldBack y = false) : l.map (fun y => if q.heldBack y then y.copied else y) = l :=
  (List.map_congr_left fun y hy => if_neg (Bool.eq_false_iff.mp (h y hy))).trans (List.map_id _)

theorem exec_anchorCopyComplete_none (h : s.trc.anchorCopy = none) : exec .anchorCopyComplete s = .next s := by
  refine answer_self rfl ?_
  rw [h]

/-- An anchor that staging has dropped only ends its copy. -/
theorem exec_anchorCopyComplete_dropped (h : s.trc.anchorCopy = some a) (hi : ∀ y ∈ s.trc.items, s.trc.heldBack y = false) :
    exec .anchorCopyComplete s = commit s (s.upTrc (fun q => { q with anchorCopy := none })) := by
  refine congrArg (commit s) ?_
  rw [h, copyEnd_eq_none hi]

/-- The copy of the one anchor that the ring holds back completes. -/
theorem exec_anchorCopyComplete (h : s.trc.anchorCopy = some a) (hi : s.trc.items = l₁ ++ x :: l₂) (hx : s.trc.heldBack x = true) (hrest : ∀ y ∈ l₁ ++ l₂, s.trc.heldBack y = false) :
    exec .anchorCopyComplete s = commit s ((s.upTrc (fun q => { q with
      items := l₁ ++ x.copied :: l₂, anchorCopy := none, anchorBeat := a, anchorPos := s.trc.lost + (l₁.map TItem.span).sum + x.span })).trcCause 0) := by
  have h1 : ∀ y ∈ l₁, s.trc.heldBack y = false := fun y hy => hrest y (List.mem_append_left _ hy)
  have h2 : ∀ y ∈ l₂, s.trc.heldBack y = false := fun y hy => hrest y (List.mem_append_right _ hy)
  have hmap : s.trc.items.map (fun y => if s.trc.heldBack y then y.copied else y) = l₁ ++ x.copied :: l₂ := by
    rw [hi, List.map_append, List.map_cons, map_copied_of_not_heldBack h1, map_copied_of_not_heldBack h2, if_pos hx]
  refine congrArg (commit s) ?_
  rw [h, show s.trc.copyEnd s.trc.items s.trc.lost = _ from (congrArg (s.trc.copyEnd · s.trc.lost) hi).trans (copyEnd_append h1 hx _), ← hmap]
  rfl

theorem exec_anchorMissed (hq : s.trc.anchorReq = true) (hw : 65536 ≤ s.trc.anchorWait) :
    exec .anchorMissed s = commit s ((s.upTrc (fun q => { q with anchorWait := 0 })).trcCause 1) :=
  congrArg (commit s) (if_pos (by rw [hq, decide_eq_true hw]; rfl))

theorem exec_anchorMissed_idle (h : s.trc.anchorReq = false ∨ s.trc.anchorWait < 65536) : exec .anchorMissed s = .next s := by
  refine answer_self rfl (if_neg ?_)
  rcases h with h | h
  · simp [h]
  · simp [Nat.not_le.mpr h]

/-! ### Freezing (14 R424) -/

theorem exec_ringFrozen (h : s.trc.st = 1) (hb : s.trc.postLeft = 0 ∨ s.clk.running = false) : exec .ringFrozen s = commit s s.ringFrozen :=
  congrArg (commit s) (if_pos ⟨h, hb.imp id (by simp)⟩)

theorem exec_ringFrozen_idle (h : s.trc.st ≠ 1 ∨ s.trc.postLeft ≠ 0 ∧ s.clk.running = true) : exec .ringFrozen s = .next s := by
  refine answer_self rfl (if_neg ?_)
  rintro ⟨hst, hb⟩
  rcases h with h | ⟨hp, hr⟩
  · exact h hst
  · simp [hp, hr] at hb

/-! ### The stream (14 R426, R427) -/

/-- The state after the reads of one datagram's bytes. -/
def State.streamReads (s : State) (ecc : List Ecc) : State :=
  s.ringReads ecc s.trc.streamPos (min (s.trc.streamPos + 1456) (s.trc.lost + s.trc.readable.length))

/-- The bytes that the next datagram takes. -/
def Trc.streamNext (q : Trc) : List Byte := (q.readable.drop (q.streamPos - q.lost)).take 1456

/-- One datagram leaves, and the stream moves on (14 R427). -/
def State.sendStream (s : State) : State :=
  (s.upTrc (fun q => { q with streamPos := q.streamPos + s.trc.streamNext.length, gapNext := false })).send
    (.trace (s.inForce 0x1110 1 0) (s.inForce 0x5305 2 0) (s.inForce 0x5305 3 41795)
      (leBytes 8 s.trc.streamPos ++ leBytes 2 s.trc.streamNext.length ++ leBytes 2 (bit s.trc.gapNext) ++ zeros 4 ++ s.trc.streamNext))

theorem exec_streamDatagramSend_idle (h : s.trc.streaming = false ∨ s.domainOn 7 = false ∨ s.net.link.getLsbD 5 = false) : exec (.streamDatagramSend ecc) s = .next s := by
  refine answer_self rfl (if_pos ?_)
  rcases h with h | h | h
  all_goals
    rw [h]
    simp

theorem exec_streamDatagramSend (hs : s.trc.streaming = true) (hd : s.domainOn 7 = true) (hl : s.net.link.getLsbD 5 = true) :
    exec (.streamDatagramSend ecc) s = commit s (if (s.streamReads ecc).trc.streamNext.isEmpty then s.streamReads ecc else (s.streamReads ecc).sendStream) :=
  congrArg (commit s) (if_neg (by simp [hs, hd, hl]))

theorem streamReads_keep (s : State) (ecc : List Ecc) : Keep { sto := true, host := true, evr := true, trc := true } s (s.streamReads ecc) :=
  State.ringReads_keep (Keep.refl s) ecc _ _

theorem sendStream_net (s : State) : s.sendStream.net = { s.net with
    sent := .trace (s.inForce 0x1110 1 0) (s.inForce 0x5305 2 0) (s.inForce 0x5305 3 41795) (leBytes 8 s.trc.streamPos ++ leBytes 2 s.trc.streamNext.length ++ leBytes 2 (if s.trc.gapNext then 1 else 0) ++ [0, 0, 0, 0] ++ s.trc.streamNext) :: s.net.sent } := rfl

/-- The datagram of what the reads left: nothing to send leaves what they left, and anything else is sent. -/
theorem streamDatagramSend_answer (hs : s.trc.streaming = true) (hd : s.domainOn 7 = true) (hl : s.net.link.getLsbD 5 = true) (hw : w = s.streamReads ecc) (hb : b = w.trc.streamNext) :
    (b = [] → ∃ v, exec (.streamDatagramSend ecc) s = .next v ∧ v.trc = w.trc ∧ v.net = s.net ∧ Frame { sto := true, host := true, evr := true, trc := true } s v) ∧
    (b ≠ [] → ∃ v, exec (.streamDatagramSend ecc) s = .next v ∧ v.trc = { w.trc with streamPos := w.trc.streamPos + b.length, gapNext := false } ∧
      v.net = w.sendStream.net ∧ Frame { sto := true, host := true, evr := true, trc := true, net := true } s v) := by
  have hexec := exec_streamDatagramSend (ecc := ecc) hs hd hl
  subst hw hb
  constructor
  · intro hnil
    rw [if_pos (by rw [hnil]; rfl)] at hexec
    exact ⟨_, hexec, rfl, (streamReads_keep s ecc).frame.net rfl, (streamReads_keep s ecc).frame.countEdges s⟩
  · intro hsome
    rw [if_neg (by simpa using hsome)] at hexec
    exact ⟨_, hexec, rfl, rfl, (execStreamDatagramSend_keep ecc hexec).frame⟩

/-- Settles O37: each command by the state of the ring, the copy of an anchor by what the ring holds of it, and a datagram by what the reads left. -/
theorem anchorsFreezesAndTheTraceStream : Obligations.AnchorsFreezesAndTheTraceStream := by
  intro s w m t a b x l₁ l₂ ecc
  refine ⟨fun hr hp => ⟨?_, fun h => ?_, fun h => ?_, fun h => ?_, fun h => ?_⟩, fun hr hp c hc => ?_, fun h => ?_, fun h => ?_, exec_anchorCopyComplete_none, fun hc hi => ?_, fun hc hi hx hrest => ?_,
    fun hq hwait => ?_, exec_anchorMissed_idle, fun h hb => ?_, exec_ringFrozen_idle, exec_streamDatagramSend_idle, fun hs hd hl hw hb => ?_⟩
  · exact answer_trc (exec_anchorCmd hr hp) (State.requestAnchor_keep (Keep.refl s)) rfl
  · have hfreeze : s.freezeReq = s.upTrc (fun q => { q with st := 1, postLeft := s.inForce 0x5302 0 1000 }) := if_neg (by simp [h])
    exact answer_trc (exec_freeze hr hp) (State.freezeReq_keep (Keep.refl s)) (by rw [hfreeze]; rfl)
  · exact answer_self (exec_freeze hr hp) (if_pos h)
  · have hunfreeze : s.unfreeze = ((s.upTrc (fun q => { q with st := 0 })).traceMark 5).requestAnchor := if_neg (by simp [h])
    obtain ⟨v, hv, htrc, hframe⟩ := answer_trc (L := { trc := true }) (exec_unfreeze hr hp) (State.unfreeze_keep (Keep.refl s)) (congrArg State.trc hunfreeze)
    exact ⟨v, hv, hframe, htrc⟩
  · exact answer_self (exec_unfreeze hr hp) (if_pos h)
  · exact refused_answer (trcCommand_unprivileged hr hp hc) (by decide)
  · exact ⟨_, exec_anchorRequestInterval h, rfl, rfl, (execAnchorRequestInterval_keep t (exec_anchorRequestInterval h)).frame⟩
  · exact answer_reach (exec_anchorRequestInterval_early h)
  · exact answer_trc (exec_anchorCopyComplete_dropped hc hi) ((Keep.refl s).upTrc _) rfl
  · exact ⟨_, exec_anchorCopyComplete hc hi hx hrest, (execAnchorCopyComplete_keep (exec_anchorCopyComplete hc hi hx hrest)).frame, State.trcCause_trc ..⟩
  · exact answer_trc (exec_anchorMissed hq hwait) (State.trcCause_keep ((Keep.refl s).upTrc _) 1) (State.trcCause_trc ..)
  · exact answer_trc (exec_ringFrozen h hb) (State.ringFrozen_keep (Keep.refl s)) (State.trcCause_trc ..)
  · have hkeep := streamReads_keep s ecc
    rw [show s.ringReads ecc _ _ = s.streamReads ecc from rfl] at hw
    obtain ⟨hnone, hsome⟩ := streamDatagramSend_answer hs hd hl hw hb
    rw [← hw] at hkeep
    refine ⟨fun he => by rw [hw, he]; rfl, hkeep.frame.net rfl, hkeep.frame.dict rfl, hnone, fun h => ?_⟩
    obtain ⟨v, hv, htrc, hnet, hframe⟩ := hsome h
    refine ⟨v, hv, htrc, ?_, hframe⟩
    rw [hnet, sendStream_net, hkeep.frame.net rfl, hkeep.frame.inForce rfl, hkeep.frame.inForce rfl, hkeep.frame.inForce rfl, hb]
    rfl

end Sys2Proof.Machine
end

section
/-! PROOFS. A replay's load, start, stop and discard (14 R428 to R434, 18 R497). That no item states the two recorded labels rests on log 46. -/

namespace Sys2Proof.Machine

open Sys2Proof

variable {s t u : State} {off : Nat} {data part : List Byte} {last : Bool} {x : TItem} {rest : List TItem} {a : Anchor}

/-! ### The load (14 R428, R434) -/

theorem exec_replayLoadSegment_ignored (h : s.pwr.role ≠ .replay ∨ s.trc.replay = 2) : exec (.replayLoadSegment off data last) s = .next s := by
  refine answer_self rfl ?_
  unfold State.replaySegment
  by_cases hr : s.pwr.role = .replay
  · rw [if_neg (not_not.mpr hr), if_pos (h.resolve_left (not_not.mpr hr))]
    rfl
  · rw [if_pos hr]
    rfl

/-- A segment that does not start where the load so far ends, or that would exceed the capacity, drops the partial load; any other is appended. -/
theorem exec_replayLoadSegment (hr : s.pwr.role = .replay) (hn : s.trc.replay ≠ 2) (hp : part = if off = 0 then [] else s.trc.loadPart) :
    (off ≠ part.length ∨ s.trc.cap < off + data.length → exec (.replayLoadSegment off data last) s = commit s (s.upTrc (fun q => { q with loadPart := [] }))) ∧
    (off = part.length → off + data.length ≤ s.trc.cap → exec (.replayLoadSegment off data last) s = commit s (s.upTrc (fun q =>
      if last then { q with load := part ++ data, loadPart := [], replay := 1 } else { q with loadPart := part ++ data }))) := by
  subst hp
  constructor
  · intro h
    refine congrArg (commit s) ?_
    unfold State.replaySegment
    rw [if_neg (not_not.mpr hr), if_neg hn]
    dsimp only
    by_cases ho : off = (if off = 0 then [] else s.trc.loadPart).length
    · rw [if_neg (not_not.mpr ho), if_pos (h.resolve_left (not_not.mpr ho))]
      rfl
    · rw [if_pos ho]
      rfl
  · intro ho hc
    refine congrArg (commit s) ?_
    unfold State.replaySegment
    rw [if_neg (not_not.mpr hr), if_neg hn]
    dsimp only
    rw [if_neg (not_not.mpr ho), if_neg (Nat.not_lt.mpr hc)]
    cases last <;> rfl

/-! ### Stop and discard (14 R431, R434) -/

theorem exec_replayStop_idle (h : s.pwr.role ≠ .replay ∨ s.trc.replay ≠ 2) : exec .replayStop s = .next s := by
  refine answer_self rfl (if_neg ?_)
  unfold State.replaying
  simpa only [Bool.and_eq_true, decide_eq_true_eq, not_and_or] using h

theorem exec_replayStop (hr : s.pwr.role = .replay) (h : s.trc.replay = 2) : exec .replayStop s = commit s (s.endReplay 3 0 0xFF 0 0 0) :=
  congrArg (commit s) (if_pos (by unfold State.replaying; rw [decide_eq_true hr, decide_eq_true h]; rfl))

theorem exec_replayDiscard (h : s.trc.replay ≠ 2) :
    exec .replayDiscard s = commit s (s.upTrc (fun q => { q with load := [], loadPart := [], replayItems := [], replayRuns := [], replay := 0 })) :=
  congrArg (commit s) (if_neg h)

/-! ### Refusal of a start (18 R497, R504) -/

/-- The report of a refusal names no beat and no label. -/
theorem refusal_report : leBytes 1 7 ++ leBytes 1 0 ++ leBytes 1 0xFF ++ leBytes 1 0 ++ zeros 4 ++ leBytes 8 0 ++ leBytes 8 0 ++ leBytes 8 0 ++ leBytes 4 0 ++ leBytes 4 0 ++ zeros 24 =
    [7, 0, 0xFF, 0] ++ zeros 60 := by decide

/-- A refusal is reported with CODE 7 and counted as a mode refusal with code 11. -/
theorem refuseReplay_eq (s : State) : s.refuseReplay =
    (s.upTrc (fun q => { q with replay := 5, replayFrom := 0, report := [7, 0, 0xFF, 0] ++ zeros 60 })).modeRefuse 11 := by
  rw [← refusal_report]
  rfl

theorem exec_replayStart_refused (hn : s.trc.replay ≠ 2) (h : s.pwr.role ≠ .replay ∨ s.pwr.state = .reduced ∨ s.replayAnchor = none) :
    exec .replayStart s = commit s s.refuseReplay := by
  refine congrArg (commit s) ?_
  unfold State.startReplay
  rw [if_neg hn]
  by_cases hrole : s.pwr.role ≠ .replay ∨ s.pwr.state = .reduced
  · rw [if_pos hrole]
  · have hnone : s.replayAnchor = none := by
      simp only [not_or] at hrole
      exact (h.resolve_left hrole.1).resolve_left hrole.2
    rw [if_neg hrole, hnone]

/-- The anchor that R428 asks for: a complete uncorrupted ANCHOR item at the head of the load, for the installed image, the period and the lane mode. -/
theorem replayAnchor_eq_some (hi : readItems s.trc.load.length s.trc.load = x :: rest) (hc : x.corrupt = false) (hx : x.anchor = some a) (hdone : a.complete = true)
    (himg : s.ldr.img.isSome = true) (hdigest : a.digest = s.ldr.digest) (hperiod : a.p = s.clk.p) (hlanes : a.laneMode = if s.clu.single then 1 else 0) :
    s.replayAnchor = some (a, x :: rest) := by
  have hbit : a.laneMode = bit s.clu.single := hlanes
  unfold State.replayAnchor
  rw [hi]
  dsimp only
  rw [hx]
  dsimp only
  rw [if_pos (by simp [hdone, hc, himg, hdigest, hperiod, hbit])]

/-- Any other load has no such anchor. -/
theorem replayAnchor_eq_none (h : readItems s.trc.load.length s.trc.load = [] ∨
    readItems s.trc.load.length s.trc.load = x :: rest ∧ (x.anchor = none ∨ x.corrupt = true ∨ x.anchor = some a ∧
      (a.complete = false ∨ s.ldr.img = none ∨ a.digest ≠ s.ldr.digest ∨ a.p ≠ s.clk.p ∨ a.laneMode ≠ if s.clu.single then 1 else 0))) : s.replayAnchor = none := by
  unfold State.replayAnchor
  rcases h with h | ⟨h, hx⟩
  · rw [h]
  rw [h]
  dsimp only
  cases hanchor : x.anchor with
  | none => rfl
  | some z =>
    refine if_neg ?_
    rintro ⟨hdone, hcorrupt, himg, hdigest, hperiod, hlanes⟩
    have hne : x.anchor ≠ none := by rw [hanchor]; exact Option.some_ne_none z
    rcases hx with hx | hx | ⟨hx, hbad⟩
    · exact hne hx
    · simp [hx] at hcorrupt
    · cases hanchor.symm.trans hx
      rcases hbad with hbad | hbad | hbad | hbad | hbad
      · simp [hbad] at hdone
      · simp [hbad] at himg
      · exact hbad hdigest
      · exact hbad hperiod
      · exact hbad hlanes

/-! ### The start (14 R429) -/

/-- What the launches of a boundary leave of the stores and of the role. -/
structure LaunchLeaves (s t : State) : Prop where
  lmem : t.sto.lmem = s.sto.lmem
  inView : t.sto.inView = s.sto.inView
  msCount : t.sto.msCount = s.sto.msCount
  term : t.csw.term = s.csw.term
  role : t.csw.role = s.csw.role

theorem LaunchLeaves.refl (s : State) : LaunchLeaves s s := ⟨rfl, rfl, rfl, rfl, rfl⟩

theorem LaunchLeaves.trans (h : LaunchLeaves s t) (g : LaunchLeaves t u) : LaunchLeaves s u :=
  ⟨g.lmem.trans h.lmem, g.inView.trans h.inView, g.msCount.trans h.msCount, g.term.trans h.term, g.role.trans h.role⟩

theorem LaunchLeaves.of_keep {L : Parts} (h : Keep L s t) (hsto : L.sto = false) (hcsw : L.csw = false) : LaunchLeaves s t := by
  have e1 := h.frame.sto hsto
  have e2 := h.frame.csw hcsw
  constructor <;> simp only [e1, e2]

theorem launchTask_leaves (s : State) (k : Nat) : LaunchLeaves s (s.launchTask k) := by
  obtain ⟨v, hv⟩ : ∃ v : State, v = (s.launchLocal (s.task k).outs).upTask k (fun x => { x with pendingAt := none, faultSafe := x.faultSafe && x.faulted }) := ⟨_, rfl⟩
  have hlocal : LaunchLeaves s v := by subst hv; exact ⟨rfl, rfl, rfl, rfl, rfl⟩
  obtain ⟨w, hw, hleaves⟩ : ∃ w : State, s.launchTask k = (if w.csw.awaitLaunch ∧ setsLocal (s.task k).outs then w.upCsw (fun c => { c with awaitLaunch := false, driversOff := false }) else w) ∧ LaunchLeaves v w := by
    unfold State.launchTask
    dsimp only
    rw [← hv]
    split
    · exact ⟨_, rfl, LaunchLeaves.of_keep (L := { can := true, evr := true }) (State.canTake_keep (Keep.refl v) _) rfl rfl⟩
    · exact ⟨_, rfl, LaunchLeaves.refl v⟩
  rw [hw]
  refine (hlocal.trans hleaves).trans ?_
  split
  · exact ⟨rfl, rfl, rfl, rfl, rfl⟩
  · exact LaunchLeaves.refl w

theorem launchAct_leaves (s : State) : LaunchLeaves s s.launchAct := by
  have hfold : ∀ (l : List Nat) (z : State), LaunchLeaves z (l.foldl (fun acc k => if (acc.task k).pendingAt = some acc.clk.beat then acc.launchTask k else acc) z) := by
    intro l
    induction l with
    | nil => exact LaunchLeaves.refl
    | cons k l ih =>
      intro z
      refine LaunchLeaves.trans ?_ (ih _)
      dsimp only
      split
      · exact launchTask_leaves z k
      · exact LaunchLeaves.refl z
  have hfirst : LaunchLeaves s (s.upTasks (·.map (fun x => { x with faultSafe := x.faultSafe || x.safeDue, safeDue := false }))) := ⟨rfl, rfl, rfl, rfl, rfl⟩
  exact (hfirst.trans (hfold _ _)).trans (LaunchLeaves.of_keep (L := { fio := true, evr := true }) (State.reapply_keep (State.imageArrives_keep (Keep.refl _))) rfl rfl)

/-- The stores and lanes set from an anchor, before its task words are. -/
def State.anchorStores (s : State) (a : Anchor) (b : Nat) : State :=
  ((s.upSto (fun x => { x with
    lmem := memOf (a.outs ++ a.inst), inView := memOf a.view, msCount := (readHead a.head).num, tableReduced := decide (a.table = 1), switching := none, isOpen := true, openHalf := 0
    half0 := { Half.reset with phase := .openHalf, firstBeat := b }, half1 := Half.reset, journal := [], settling := [] })).upClu (fun u => { u with
      lanes := u.lanes.map (fun l => { Lane.reset with scratch := l.scratch })
      x := Vector.ofFn (fun i => { XReg.zero with cur := a.x[i.val]?.getD 0 })
      items := Vector.replicate 4 [], queues := Vector.replicate 8 [] })).upTasks (fun _ => Vector.replicate 32 TaskSt.reset)

theorem setAnchor_eq (s : State) (a : Anchor) (b : Nat) : s.setAnchor a b =
    ((((s.anchorStores a b).applyWords (readHead a.head) false).upTasks (·.map (fun x => { x with firstNext := !x.completed }))).upCsw (fun c => { c with term := (readHead a.head).term })).upClk
      (fun c => { c with running := true, beat := b, beatAt := c.now, beatsRun := 0, powered := (readHead a.head).powered, ptpNum := a.ptp, alignedPrev := false }) := rfl

/-- The state that the unit takes from an anchor. -/
theorem setAnchor_left (s : State) (a : Anchor) (b : Nat) : (s.setAnchor a b).sto.lmem = memOf (a.outs ++ a.inst) ∧ (s.setAnchor a b).sto.inView = memOf a.view ∧
    (s.setAnchor a b).sto.msCount = (readHead a.head).num ∧ (s.setAnchor a b).csw.term = (readHead a.head).term ∧ (s.setAnchor a b).csw.role = s.csw.role ∧
    (s.setAnchor a b).clk = { s.clk with running := true, beat := b, beatAt := s.clk.now, beatsRun := 0, powered := (readHead a.head).powered, ptpNum := a.ptp, alignedPrev := false } := by
  have hkeep : Keep { tasks := true, sto := true, csw := true, fio := true } (s.anchorStores a b) ((s.anchorStores a b).applyWords (readHead a.head) false) :=
    State.applyWords_keep (Keep.refl _) _ false
  obtain ⟨l, hsto⟩ := applyWords_sto (s.anchorStores a b) (readHead a.head) false
  obtain ⟨p, hcsw⟩ := applyWords_csw (s.anchorStores a b) (readHead a.head) false
  have hclk : ((s.anchorStores a b).applyWords (readHead a.head) false).clk = s.clk := hkeep.frame.clk rfl
  rw [setAnchor_eq]
  simp only [State.upClk_sto, State.upCsw_sto, State.upTasks_sto, State.upClk_csw, State.upCsw_csw, State.upTasks_csw, State.upClk_clk, State.upCsw_clk, State.upTasks_clk, hsto, hcsw, hclk]
  exact ⟨rfl, rfl, rfl, trivial, rfl, trivial⟩

/-- What the trace unit holds of a load whose replay begins at beat `b`, and the two free labels (log 46). -/
def State.replayFrom (s : State) (b use : Nat) (items : List TItem) : State :=
  ((s.upTrc (fun q => { q with
    replay := 2, replayBeat := b, replayFrom := b, replayItems := (beatGroup items).2, report := zeros 64
    replayRuns := (((beatGroup items).1.filter (fun x => decide (x.type = 7))).map (·.bytes)).flatten
    mftask5 := Config.replayLabel use, mftask6 := Config.replayLabel (use + 1) })).useFree).useFree

theorem replayFrom_left (s : State) (b use : Nat) (items : List TItem) : (s.replayFrom b use items).clk = s.clk ∧ (s.replayFrom b use items).sto = s.sto ∧ (s.replayFrom b use items).csw = s.csw ∧
    (s.replayFrom b use items).free = s.free + 2 ∧ (s.replayFrom b use items).trc = { s.trc with
      replay := 2, replayBeat := b, replayFrom := b, replayItems := (beatGroup items).2, report := zeros 64
      replayRuns := (((beatGroup items).1.filter (fun x => decide (x.type = 7))).map (·.bytes)).flatten
      mftask5 := Config.replayLabel use, mftask6 := Config.replayLabel (use + 1) } := ⟨rfl, rfl, rfl, rfl, rfl⟩

theorem replayFrom_keep {L : Parts} {o : State} (h : Keep L o s) (b use : Nat) (items : List TItem) (htrc : L.trc = true := by rfl) (hfree : L.free = true := by rfl) :
    Keep L o (s.replayFrom b use items) := State.useFree_keep (State.useFree_keep (h.upTrc _))

theorem exec_replayStart (hn : s.trc.replay ≠ 2) (hr : s.pwr.role = .replay) (hs : s.pwr.state ≠ .reduced) (ha : s.replayAnchor = some (a, x :: rest)) :
    exec .replayStart s = commit s ((s.setAnchor a x.beat).replayFrom x.beat s.free (x :: rest)).releaseDue.state.launchAct := by
  refine congrArg (commit s) ?_
  unfold State.startReplay
  rw [if_neg hn, if_neg (by rintro (h | h); exacts [h hr, hs h]), ha]
  rfl

/-- The parts that the start of a replay may change. -/
def Parts.replayStart : Parts :=
  { clk := true, clu := true, tasks := true, sto := true, csw := true, fio := true, can := true, host := true, wdg := true, evr := true, trc := true, free := true }

/-- The acts of the first beat change of the stores, the role and the trace unit nothing that the anchor has set. -/
theorem firstBeat_left (s : State) : LaunchLeaves s s.releaseDue.state.launchAct ∧
    Keep { clu := true, tasks := true, sto := true, csw := true, fio := true, can := true, host := true, wdg := true, evr := true } s s.releaseDue.state.launchAct :=
  ⟨(LaunchLeaves.of_keep (L := { clu := true, tasks := true, host := true, wdg := true, evr := true }) (State.releaseDue_keep (Keep.refl s)) rfl rfl).trans (launchAct_leaves _),
    State.launchAct_keep (State.releaseDue_keep (Keep.refl s))⟩

/-- Settles O38: a segment by where it starts, a start by the anchor that the load begins with, stop and discard by whether a replay runs. -/
theorem replayLoadStartStopAndDiscard : Obligations.ReplayLoadStartStopAndDiscard := by
  intro s off data part last x rest a
  refine ⟨exec_replayLoadSegment_ignored, fun hr hn hp => ?_, fun h => ⟨answer_self rfl (if_pos h), answer_self rfl (if_pos h)⟩, fun hn h => ?_,
    fun hn hr hs hi hc hx hdone himg hdigest hperiod hlanes => ?_, exec_replayStop_idle, fun hr h => ?_, fun h => ?_⟩
  · obtain ⟨hdrop, happend⟩ := exec_replayLoadSegment (last := last) (data := data) hr hn hp
    refine ⟨fun ho => answer_trc (hdrop (.inl ho)) ((Keep.refl s).upTrc _) rfl, fun _ hc => answer_trc (hdrop (.inr hc)) ((Keep.refl s).upTrc _) rfl, fun ho hc => ?_⟩
    obtain ⟨v, hv, htrc, hframe⟩ := answer_trc (L := { trc := true }) (happend ho hc) ((Keep.refl s).upTrc _) rfl
    exact ⟨v, hv, hframe, htrc⟩
  · have hexec := exec_replayStart_refused hn (h.imp id (Or.imp id replayAnchor_eq_none))
    rw [refuseReplay_eq] at hexec
    exact ⟨_, hexec, rfl, rfl, rfl, (State.modeRefuse_keep ((Keep.refl s).upTrc _) 11).frame.countEdges s⟩
  · have hexec := exec_replayStart hn hr hs (replayAnchor_eq_some hi hc hx hdone himg hdigest hperiod hlanes)
    obtain ⟨hlmem, hview, hcount, hterm, hrole, hclk⟩ := setAnchor_left s a x.beat
    have hanchor : Keep { clk := true, clu := true, tasks := true, sto := true, csw := true, fio := true } s (s.setAnchor a x.beat) := State.setAnchor_keep (Keep.refl s) a _
    generalize s.setAnchor a x.beat = u at *
    obtain ⟨hclk', hsto, hcsw, hfree, htrc⟩ := replayFrom_left u x.beat s.free (x :: rest)
    have hframe : Frame Parts.replayStart s (u.replayFrom x.beat s.free (x :: rest)) := hanchor.frame.comp (replayFrom_keep (L := { trc := true, free := true }) (Keep.refl u) _ _ _).frame rfl rfl
    rw [hanchor.frame.trc rfl] at htrc
    rw [hanchor.frame.free rfl] at hfree
    generalize u.replayFrom x.beat s.free (x :: rest) = v at *
    obtain ⟨hleaves, hacts⟩ := firstBeat_left v
    refine ⟨_, hexec, ?_⟩
    rw [countEdges_clk, countEdges_trc, countEdges_sto, countEdges_csw, countEdges_free, hleaves.lmem, hleaves.inView, hleaves.msCount, hleaves.term, hleaves.role, hsto, hcsw]
    exact ⟨(hacts.frame.clk rfl).trans (hclk'.trans hclk), (hacts.frame.trc rfl).trans htrc, hlmem, hview, hcount, hterm, hrole, (hacts.frame.free rfl).trans hfree, (hframe.comp hacts.frame rfl rfl).countEdges s⟩
  · exact ⟨_, exec_replayStop hr h, State.trcCause_clk .., (execReplayStop_keep (exec_replayStop hr h)).frame, State.trcCause_trc ..⟩
  · exact answer_trc (exec_replayDiscard h) ((Keep.refl s).upTrc _) rfl

end Sys2Proof.Machine
end

section
/-! PROOFS. The calendar (16 R458 to R466): one tick, the second that begins, a set, a shift, a snapshot and a stopped crystal. -/

namespace Sys2Proof.Machine

open Sys2Proof

variable {s : State} {m : Master} {v : Word} {c : Cal} {k : Nat}

/-! ### The next second (16 R458, R459) -/

theorem nextSecond_within (h : c.sec + 1 < 86400) : c.nextSecond = ({ c with sec := c.sec + 1 }, false) := if_pos h

theorem nextSecond_day (h : 86400 ≤ c.sec + 1) (hd : c.d < monthDays c.y c.m) : c.nextSecond = ({ c with sec := 0, d := c.d + 1 }, false) := by
  unfold Cal.nextSecond
  rw [if_neg (Nat.not_lt.mpr h), if_pos hd]

theorem nextSecond_month (h : 86400 ≤ c.sec + 1) (hd : monthDays c.y c.m ≤ c.d) (hm : c.m < 12) : c.nextSecond = ({ c with sec := 0, d := 1, m := c.m + 1 }, false) := by
  unfold Cal.nextSecond
  rw [if_neg (Nat.not_lt.mpr h), if_neg (Nat.not_lt.mpr hd), if_pos hm]

theorem nextSecond_year (h : 86400 ≤ c.sec + 1) (hd : monthDays c.y c.m ≤ c.d) (hm : 12 ≤ c.m) (hy : c.y < 399) :
    c.nextSecond = ({ c with sec := 0, d := 1, m := 1, y := c.y + 1 }, false) := by
  unfold Cal.nextSecond
  rw [if_neg (Nat.not_lt.mpr h), if_neg (Nat.not_lt.mpr hd), if_neg (Nat.not_lt.mpr hm), if_pos hy]

theorem nextSecond_wrap (h : 86400 ≤ c.sec + 1) (hd : monthDays c.y c.m ≤ c.d) (hm : 12 ≤ c.m) (hy : 399 ≤ c.y) :
    c.nextSecond = ({ c with sec := 0, d := 1, m := 1, y := 0 }, true) := by
  unfold Cal.nextSecond
  rw [if_neg (Nat.not_lt.mpr h), if_neg (Nat.not_lt.mpr hd), if_neg (Nat.not_lt.mpr hm), if_neg (Nat.not_lt.mpr hy)]

theorem time_midnight (h : c.sec = 0) : c.time = 0 := by
  unfold Cal.time
  rw [h]
  decide

/-- The date and the time of an instant do not name its sub-second count. -/
theorem setCal_second (r : Rtc) (c : Cal) (j : Nat) : r.setCal { c with sub := j } = { r with date := c.date, time := c.time, sub := j } := rfl

theorem date_of_wrap (h : c.y = 0) (hm : c.m = 1) (hd : c.d = 1) : c.date = 0x20000101#32 := by
  unfold Cal.date
  rw [h, hm, hd]
  decide

/-! ### Counting -/

/-- The count after a tick that it counts, before the calendar moves: the periodic ticks and the trim. -/
def Rtc.ticked (r : Rtc) : Rtc := { r with ticks := r.ticks + 1, trim := r.trimNext.getD r.trim, trimNext := none }

theorem advance_within (h : s.rtc.sub + k < 32768) : s.advance k = s.upRtc (fun r => { r with sub := r.sub + k }) := if_pos h

/-- A wake event moves of the calendar block its pending bits and WAKE_SRC alone. -/
theorem wakeEvent_rtc (s : State) (b : Nat) : ∃ p q, (s.wakeEvent b).rtc = { s.rtc with wakePend := p, wakeSrc := q } := by
  unfold State.wakeEvent
  split
  · unfold State.wake
    split
    · exact ⟨_, _, rfl⟩
    · exact ⟨_, _, rfl⟩
  · exact ⟨_, _, rfl⟩

/-- The second that begins when the count carries: the alarm that it may meet leaves the calendar. -/
theorem advance_carry (h : s.rtc.sub + k = 32768) : (s.advance k).rtc.sub = 0 ∧ (s.advance k).rtc.valid = s.rtc.valid ∧
    (s.advance k).rtc.date = s.rtc.cal.nextSecond.1.date ∧ (s.advance k).rtc.time = s.rtc.cal.nextSecond.1.time ∧
    (s.rtc.cal.nextSecond.2 = true → (s.advance k).rtc.wrap = true ∧ (s.advance k).rtc.cause.getLsbD 3 = true) := by
  obtain ⟨u, hu⟩ : ∃ u : State, u = s.upRtc (fun r => r.setCal { s.rtc.cal.nextSecond.1 with sub := s.rtc.sub + k - 32768 }) := ⟨_, rfl⟩
  obtain ⟨w, hw⟩ : ∃ w : State, w = if s.rtc.cal.nextSecond.2 then (u.upRtc (fun r => { r with wrap := true })).rtcCause 3 else u := ⟨_, rfl⟩
  have hadv : s.advance k = if w.rtc.alarmMatch then (w.rtcCause 0).wakeEvent 0 else w := by
    unfold State.advance
    rw [if_neg (by omega), hw, hu]
  have hz : s.rtc.sub + k - 32768 = 0 := by omega
  replace hu := hu.trans (congrArg s.upRtc (funext fun r => setCal_second r _ _))
  rw [hz] at hu
  have hsecond : w.rtc.sub = 0 ∧ w.rtc.valid = s.rtc.valid ∧ w.rtc.date = s.rtc.cal.nextSecond.1.date ∧ w.rtc.time = s.rtc.cal.nextSecond.1.time ∧
      (s.rtc.cal.nextSecond.2 = true → w.rtc.wrap = true ∧ w.rtc.cause.getLsbD 3 = true) := by
    have hsub : u.rtc.sub = 0 := by rw [hu]; rfl
    rw [hw]
    cases s.rtc.cal.nextSecond.2
    · rw [hu] at hsub ⊢
      exact ⟨hsub, rfl, rfl, rfl, fun hf => by cases hf⟩
    · rw [if_pos rfl, State.rtcCause_rtc]
      refine ⟨hsub, ?_, ?_, ?_, fun _ => ⟨rfl, ?_⟩⟩
      · rw [hu]; rfl
      · rw [hu]; rfl
      · rw [hu]; rfl
      · exact (setBit_getLsbD _ _ _ _ (by decide)).trans (if_pos rfl)
  obtain ⟨hsub, hvalid, hdate, htime, hwrap⟩ := hsecond
  rw [hadv]
  split
  · obtain ⟨p, q, hwake⟩ := wakeEvent_rtc (w.rtcCause 0) 0
    rw [hwake, State.rtcCause_rtc]
    refine ⟨hsub, hvalid, hdate, htime, fun hn => ⟨(hwrap hn).1, ?_⟩⟩
    exact (setBit_getLsbD _ _ _ _ (by decide)).trans ((if_neg (by decide)).trans (hwrap hn).2)
  · exact ⟨hsub, hvalid, hdate, htime, hwrap⟩

/-- A tick with neither a set nor a shift in progress counts one. -/
theorem calTick_plain (ha : s.pwr.aoRunning = true) (hb : s.rtc.setBusy = none) (hs : s.rtc.shift = 0) : s.calTick = (s.upRtc Rtc.ticked).advance 1 := by
  have hstep : s.rtc.ticked.shiftStep = (1, s.rtc.ticked) := if_pos hs
  rw [calTick_count s ha hb]
  show (if decide (s.rtc.shift ≠ 0 ∧ s.rtc.ticked.shiftStep.2.shift = 0) then ((s.upRtc (fun _ => s.rtc.ticked.shiftStep.2)).advance s.rtc.ticked.shiftStep.1).rtcCause 5
    else (s.upRtc (fun _ => s.rtc.ticked.shiftStep.2)).advance s.rtc.ticked.shiftStep.1) = _
  rw [hstep, if_neg (by simp [hs])]
  rfl

/-- The 256th tick of a shift counts `k`, 2 or 0, and uses one count of the shift; the last sets SHIFT_DONE. -/
theorem calTick_shift {r : Rtc} {n : Int} (ha : s.pwr.aoRunning = true) (hb : s.rtc.setBusy = none) (hsub : s.rtc.sub + k < 32768) (hn : s.rtc.shift ≠ 0)
    (hstep : s.rtc.ticked.shiftStep = (k, { s.rtc.ticked with shiftTicks := 0, shift := n })) (hr : r = { s.rtc.ticked with shiftTicks := 0, shift := n, sub := s.rtc.sub + k }) :
    s.calTick = if n = 0 then (s.upRtc (fun _ => r)).rtcCause 5 else s.upRtc (fun _ => r) := by
  rw [calTick_count s ha hb]
  show (if decide (s.rtc.shift ≠ 0 ∧ s.rtc.ticked.shiftStep.2.shift = 0) then ((s.upRtc (fun _ => s.rtc.ticked.shiftStep.2)).advance s.rtc.ticked.shiftStep.1).rtcCause 5
    else (s.upRtc (fun _ => s.rtc.ticked.shiftStep.2)).advance s.rtc.ticked.shiftStep.1) = _
  rw [hstep, advance_within (s := s.upRtc _) hsub, hr]
  simp only [hn, ne_eq, not_false_eq_true, true_and, decide_eq_true_eq]
  rfl

theorem shift_answer {r : Rtc} {n : Int} (h : s.calTick = if n = 0 then (s.upRtc (fun _ => r)).rtcCause 5 else s.upRtc (fun _ => r)) (hr : r.shift = n) :
    ∃ t, exec .calendarTick s = .next t ∧ t.rtc.sub = r.sub ∧ t.rtc.shift = n ∧ t.rtc.date = r.date ∧ t.rtc.time = r.time ∧ (n = 0 → t.rtc.cause.getLsbD 5 = true) ∧
      Frame { rtc := true, evr := true } s t := by
  refine ⟨_, congrArg (commit s) h, ?_⟩
  rw [countEdges_rtc]
  by_cases hz : n = 0
  · rw [if_pos hz, State.rtcCause_rtc]
    exact ⟨rfl, hr, rfl, rfl, fun _ => (setBit_getLsbD _ _ _ _ (by decide)).trans (if_pos rfl), (State.rtcCause_keep ((Keep.refl s).upRtc _) 5).frame.countEdges s⟩
  · rw [if_neg hz]
    exact ⟨rfl, hr, rfl, rfl, fun h => absurd h hz, ((Keep.refl s).upRtc _).frame.countEdges s⟩

theorem shiftStep_positive {r : Rtc} (h : r.shiftTicks = 255) (hp : 0 < r.shift) : r.shiftStep = (2, { r with shiftTicks := 0, shift := r.shift - 1 }) := by
  unfold Rtc.shiftStep
  rw [if_neg (by omega), if_neg (by omega), if_pos hp]

theorem shiftStep_negative {r : Rtc} (h : r.shiftTicks = 255) (hn : r.shift < 0) : r.shiftStep = (0, { r with shiftTicks := 0, shift := r.shift + 1 }) := by
  unfold Rtc.shiftStep
  rw [if_neg (by omega), if_neg (by omega), if_neg (by omega)]

/-- A tick with a set in progress puts the staged values in place of its increment (16 R463). -/
theorem calTick_set {d t : Word} {n : Nat} (ha : s.pwr.aoRunning = true) (hb : s.rtc.setBusy = some (d, t, n)) :
    s.calTick = (s.upRtc Rtc.ticked).upRtc (fun r => { r with
      date := d, time := t &&& 0x00FFFFFF#32, sub := n, setBusy := none, valid := true, wrap := false, badset := false, oscStop := false, shift := 0, shiftTicks := 0 }) := by
  unfold State.calTick
  rw [if_neg (by rw [ha]; decide)]
  simp only [State.upRtc_rtc, hb]
  rfl

/-! ### Registers of the calendar (16 R461, R463, R464, R466) -/

theorem exec_calendarSetGo (hr : s.readReaches m 0x402C = true) (hp : s.privOf m = true) (hb : s.rtc.setBusy = none) :
    exec (.calendarSetGo m) s = commit s (s.setGo (s.mregs m).setDate (s.mregs m).setTime (s.mregs m).setSub.toNat) := by
  refine congrArg (commit s) (fabricWrite_done hr ?_)
  show needPriv (s.privOf m) (needOpen (!s.rtc.setBusy.isSome) (.done _)) = _
  rw [hp, hb]
  rfl

theorem exec_calendarSetGo_busy (hr : s.readReaches m 0x402C = true) (hp : s.privOf m = true) (hb : s.rtc.setBusy.isSome = true) :
    exec (.calendarSetGo m) s = commit s (s.accessFault m 0x402C flagLocked) := by
  refine congrArg (commit s) (fabricWrite_refused hr ?_)
  show needPriv (s.privOf m) (needOpen (!s.rtc.setBusy.isSome) (.done _)) = _
  rw [hp, hb]
  rfl

theorem exec_shiftStart (hr : s.readReaches m 0x4034 = true) (hp : s.privOf m = true) (hs : s.rtc.shift = 0) (hv : wfield v 15 0 ≠ 0x8000) :
    exec (.shiftStart m v) s = commit s (s.upRtc (fun r => { r with shift := if wfield v 15 0 < 0x8000 then (wfield v 15 0 : Int) else (wfield v 15 0 : Int) - 65536, shiftTicks := 0 })) := by
  refine congrArg (commit s) (fabricWrite_done hr ?_)
  show needPriv (s.privOf m) (needOpen (decide (s.rtc.shift = 0)) (needLegal (decide (wfield v 15 0 ≠ 0x8000)) (.done _))) = _
  rw [hp, decide_eq_true hs, decide_eq_true hv]
  rfl

/-- A shift is refused as locked while one is in progress, else as reserved. -/
theorem exec_shiftStart_refused (hr : s.readReaches m 0x4034 = true) (hp : s.privOf m = true) (h : s.rtc.shift ≠ 0 ∨ wfield v 15 0 = 0x8000) :
    exec (.shiftStart m v) s = commit s (s.accessFault m 0x4034 (if s.rtc.shift = 0 then 5 else 4)) := by
  refine congrArg (commit s) (fabricWrite_refused hr ?_)
  show needPriv (s.privOf m) (needOpen (decide (s.rtc.shift = 0)) (needLegal (decide (wfield v 15 0 ≠ 0x8000)) (.done _))) = _
  by_cases hs : s.rtc.shift = 0
  · rw [hp, decide_eq_true hs, decide_eq_false (not_not.mpr (h.resolve_left (not_not.mpr hs))), if_pos hs]
    rfl
  · rw [hp, decide_eq_false hs, if_neg hs]
    rfl

theorem exec_snapshotTake (hr : s.readReaches m 0x400C = true) : exec (.snapshotTake m) s = commit s (s.snapTake m) :=
  congrArg (commit s) (fabricWrite_done hr rfl)

theorem exec_oscStop (ha : s.pwr.aoRunning = true) : exec .oscStop s = commit s ((s.upRtc (fun r => { r with oscStop := true, valid := false })).rtcCause 4) :=
  congrArg (commit s) (if_pos ha)

/-- Settles O42: a tick by the set and the shift in progress, the second that begins by the calendar, and the registers by what they refuse. -/
theorem calendarTicksSetsAndShifts : Obligations.CalendarTicksSetsAndShifts := by
  intro s m q v d tm n ha hq
  refine ⟨fun hb hs => ⟨fun hsub => ?_, fun c hsub hc => ?_⟩, fun hb ht hsub => ⟨fun hpos => ?_, fun hneg => ?_⟩, fun hb => ?_, fun hr hp hb => ⟨fun hok => ?_, fun hbad => ?_⟩, fun hr hp hb => ?_,
    fun hr hp hs hv => ?_, fun hr hp h => ?_, fun hr => ?_, ?_⟩
  · have htick := (calTick_plain ha hb hs).trans (advance_within (s := s.upRtc Rtc.ticked) (k := 1) (by show s.rtc.sub + 1 < 32768; omega))
    exact ⟨_, congrArg (commit s) htick, rfl, (((Keep.refl s).upRtc _).upRtc _).frame.countEdges s⟩
  · subst hc
    obtain ⟨hzero, hvalid, hdate, htime, hwrap⟩ := advance_carry (s := s.upRtc Rtc.ticked) (k := 1) (by show s.rtc.sub + 1 = 32768; omega)
    rw [← calTick_plain ha hb hs] at hzero hvalid hdate htime hwrap
    rw [show (s.upRtc Rtc.ticked).rtc.cal = s.rtc.cal from rfl] at hdate htime hwrap
    refine ⟨_, commit_eq .., hzero, hvalid, fun h => ?_, fun h hd => ?_, fun h hd hm => ?_, fun h hd hm hy => ?_, fun h hd hm hy => ?_, (execCalendarTick_keep (commit_eq ..)).frame⟩
    all_goals rw [countEdges_rtc, hdate, htime]
    · rw [nextSecond_within h]
      exact ⟨rfl, rfl⟩
    · rw [nextSecond_day h hd]
      exact ⟨rfl, time_midnight rfl⟩
    · rw [nextSecond_month h hd hm]
      exact ⟨rfl, time_midnight rfl⟩
    · rw [nextSecond_year h hd hm hy]
      exact ⟨rfl, time_midnight rfl⟩
    · have hn := nextSecond_wrap h hd hm hy
      rw [hn]
      exact ⟨date_of_wrap rfl rfl rfl, time_midnight rfl, hwrap (by rw [hn])⟩
  · obtain ⟨t, ht', hsub', hshift, hdate, htime, hdone, hframe⟩ := shift_answer (calTick_shift (k := 2) ha hb (by omega) (by omega) (shiftStep_positive ht hpos) rfl) rfl
    exact ⟨t, ht', hsub', hshift, hdate, htime, fun h1 => hdone (by show s.rtc.shift - 1 = 0; omega), hframe⟩
  · obtain ⟨t, ht', hsub', hshift, hdate, htime, hdone, hframe⟩ := shift_answer (calTick_shift (k := 0) ha hb (by omega) (by omega) (shiftStep_negative ht hneg) rfl) rfl
    exact ⟨t, ht', hsub', hshift, hdate, htime, fun h1 => hdone (by show s.rtc.shift + 1 = 0; omega), hframe⟩
  · exact ⟨_, congrArg (commit s) (calTick_set ha hb), rfl, rfl, rfl, rfl, rfl, rfl, rfl, rfl, rfl, (((Keep.refl s).upRtc _).upRtc _).frame.countEdges s⟩
  · exact ⟨_, (exec_calendarSetGo hr hp hb).trans (congrArg (commit s) (if_pos hok)), rfl, ((Keep.refl s).upRtc _).frame.countEdges s⟩
  · exact ⟨_, (exec_calendarSetGo hr hp hb).trans (congrArg (commit s) (if_neg (Bool.eq_false_iff.mp hbad))), State.rtcCause_rtc .., (State.rtcCause_keep ((Keep.refl s).upRtc _) 2).frame.countEdges s⟩
  · exact refused_answer (exec_calendarSetGo_busy hr hp hb) (by decide)
  · exact ⟨_, exec_shiftStart hr hp hs hv, rfl, ((Keep.refl s).upRtc _).frame.countEdges s⟩
  · exact refused_answer (exec_shiftStart_refused hr hp h) (by split <;> decide)
  · obtain ⟨hown, hothers⟩ := MregsTo.upMregs s m (fun x => { x with
      snapDone := true, snapValid := s.rtc.valid, snapDate := s.rtc.date, snapTime := w32 (s.rtc.time.toNat + 0x1000000 * s.rtc.cal.weekday), snapSub := w32 s.rtc.sub })
    exact ⟨_, exec_snapshotTake hr, hown, hothers q hq, (State.snapTake_keep (Keep.refl s) m).frame.countEdges s⟩
  · exact ⟨_, exec_oscStop ha, State.rtcCause_rtc .., (execOscStop_keep (exec_oscStop ha)).frame⟩

end Sys2Proof.Machine
end

section
/-! PROOFS. The wake sources (16 R467, R469, R471 to R473): a source is a wake event over the calendar block's own bookkeeping. -/

namespace Sys2Proof.Machine

open Sys2Proof

variable {s : State} {c : Instr} {bytes : List Byte}

/-- What a wake event of bit `b` answers whose command has first kept the causes `k` and the periodic ticks `n`. -/
structure WakeAnswer (s t : State) (b n : Nat) (k : Word) : Prop where
  pend : t.rtc.wakePend = s.rtc.wakePend ||| (1#6 <<< b)
  woken : s.pwr.state = .parked ∧ (s.rtc.wakePend ||| (1#6 <<< b)) &&& s.wakeEnabled ≠ 0 → t.pwr.state = .run ∧ t.pwr.domains = 0x003#12 ∧ t.pwr.ref = .wake ∧
    t.pwr.started = false ∧ t.rtc.wakeSrc = (s.rtc.wakePend ||| (1#6 <<< b)) &&& s.wakeEnabled
  stays : s.pwr.state ≠ .parked ∨ (s.rtc.wakePend ||| (1#6 <<< b)) &&& s.wakeEnabled = 0 →
    t.pwr.state = s.pwr.state ∧ t.pwr.domains = s.pwr.domains ∧ t.rtc.wakeSrc = s.rtc.wakeSrc
  cause : t.rtc.cause = k
  ticks : t.rtc.ticks = n
  date : t.rtc.date = s.rtc.date
  enabled : t.rtc.wakeEn = s.rtc.wakeEn
  frame : Frame { rtc := true, pwr := true, evr := true } s t

theorem wake_answer {u : State} {b n : Nat} {k : Word} (h : exec c s = commit s (u.wakeEvent b)) (hr : u.rtc = { s.rtc with ticks := n, cause := k }) (ha : u.pwr.aoRunning = true)
    (hs : u.pwr.state = s.pwr.state) (hd : u.pwr.domains = s.pwr.domains) (hk : Keep { rtc := true, pwr := true, evr := true } s u) :
    ∃ t, exec c s = .next t ∧ WakeAnswer s t b n k := by
  obtain ⟨hpend, hwoken, hstays, -⟩ := wakeEvent_eq (s := u) (b := b) ha
  have hen : u.wakeEnabled = s.wakeEnabled := by
    unfold State.wakeEnabled State.canPort
    rw [hr, hk.frame.can rfl]
  have hframe := (State.wakeEvent_keep hk b).frame.countEdges s
  rw [hr, hen, hs] at hwoken hstays
  rw [hr] at hpend
  refine ⟨_, h, hpend, fun hw => ?_, fun hn => ?_, ?_, ?_, ?_, ?_, hframe⟩
  · obtain ⟨hpwr, hrtc⟩ := hwoken hw
    rw [countEdges_rtc, countEdges_pwr, hpwr, hrtc]
    exact ⟨rfl, rfl, rfl, rfl, rfl⟩
  · obtain ⟨hpwr, hrtc⟩ := hstays (fun hw => hn.elim (fun hp => hp hw.1) (fun hz => hw.2 hz))
    rw [countEdges_rtc, countEdges_pwr, hpwr, hrtc]
    exact ⟨hs, hd, rfl⟩
  all_goals
    obtain ⟨p, q, hwake⟩ := wakeEvent_rtc u b
    rw [countEdges_rtc, hwake, hr]

/-! ### The sources -/

theorem hostWakePin_answer (ha : s.pwr.aoRunning = true) : ∃ t, exec .hostWakePin s = .next t ∧ WakeAnswer s t 3 s.rtc.ticks s.rtc.cause :=
  wake_answer rfl rfl ha rfl rfl (Keep.refl s)

theorem canWakePattern_answer (ha : s.pwr.aoRunning = true) (hv : 4500 ≤ s.pwr.vinMv) : ∃ t, exec .canWakePattern s = .next t ∧ WakeAnswer s t 5 s.rtc.ticks s.rtc.cause :=
  wake_answer (congrArg (commit s) (if_pos hv)) rfl ha rfl rfl (Keep.refl s)

/-- Is the frame one that R472 takes for a wake frame? -/
def State.IsWakeFrame (s : State) (bytes : List Byte) : Prop :=
  (slice bytes 0 6 = ownMac ∨ slice bytes 0 6 = List.replicate 6 0xFF) ∧ getLE bytes 12 2 = 0xB688 ∧
    slice bytes 14 8 = padTo 8 ((aget s.dict.force (entryKey 0x2203 0)).getD [])

theorem wakeFrame_answer (ha : s.pwr.aoRunning = true) (ht : s.takesWakeFrame = true) (hf : s.IsWakeFrame bytes) :
    ∃ t, exec (.wakeFrameReceive bytes) s = .next t ∧ WakeAnswer s t 4 s.rtc.ticks s.rtc.cause :=
  wake_answer (congrArg (commit s) (if_pos ⟨ht, hf⟩)) rfl ha rfl rfl (Keep.refl s)

theorem wakeFrame_other (h : ¬ (s.takesWakeFrame = true ∧ s.IsWakeFrame bytes)) : exec (.wakeFrameReceive bytes) s = .next s :=
  answer_self (congrArg (commit s) (if_neg h)) rfl

theorem vinReturn_answer (ha : s.pwr.aoRunning = true) (hv : s.pwr.vinMv < 4500) : ∃ t, exec .vinReturn s = .next t ∧ WakeAnswer s t 2 s.rtc.ticks s.rtc.cause :=
  wake_answer (u := s.upPwr (fun p => { p with vinMv := 9001 })) (congrArg (commit s) (if_pos ⟨ha, hv⟩)) rfl ha rfl rfl ((Keep.refl s).upPwr _)

theorem periodicWake_answer (ha : s.pwr.aoRunning = true) (hi : s.rtc.interval ≠ 0) (ht : s.rtc.interval * 128 ≤ s.rtc.ticks) :
    ∃ t, exec .periodicWake s = .next t ∧ WakeAnswer s t 1 (s.rtc.ticks - s.rtc.interval * 128) (setBit s.rtc.cause 1 true) := by
  obtain ⟨u, hu⟩ : ∃ u, u = (s.upRtc (fun r => { r with ticks := r.ticks - r.interval * 128 })).rtcCause 1 := ⟨_, rfl⟩
  have hpwr : u.pwr = s.pwr := by rw [hu, State.rtcCause_pwr]; rfl
  refine wake_answer (u := u) ?_ ?_ (hpwr ▸ ha) (congrArg _ hpwr) (congrArg _ hpwr) (hu ▸ State.rtcCause_keep ((Keep.refl s).upRtc _) 1)
  · rw [hu]
    exact congrArg (commit s) (if_pos ⟨hi, ht⟩)
  · rw [hu, State.rtcCause_rtc]
    rfl

theorem takesWakeFrame_iff : s.takesWakeFrame = true ↔
    (s.pwr.state = .parked ∧ 4500 ≤ s.pwr.vinMv ∧ s.rtc.wakeEn.getLsbD 4 = true ∨ s.pwr.state ≠ .parked ∧ s.domainOn 7 = true ∧ s.net.link.getLsbD 0 = true) := by
  unfold State.takesWakeFrame
  by_cases hp : s.pwr.state = .parked
  · rw [if_pos hp, Bool.and_eq_true, decide_eq_true_eq]
    exact ⟨fun h => .inl ⟨hp, h⟩, fun h => h.elim And.right (fun h => absurd hp h.1)⟩
  · rw [if_neg hp, Bool.and_eq_true]
    exact ⟨fun h => .inr ⟨hp, h⟩, fun h => h.elim (fun h => absurd h.1 hp) And.right⟩

/-- What a source's answer says of the commands of the statement: bit 1 is the periodic wake's, the others keep the causes. -/
theorem WakeAnswer.stated {t : State} {b n : Nat} {k : Word} (h : WakeAnswer s t b n k) (h1 : b = 1 → k = setBit s.rtc.cause 1 true ∧ n = s.rtc.ticks - s.rtc.interval * 128)
    (hne : b ≠ 1 → k = s.rtc.cause) : t.rtc.wakePend = s.rtc.wakePend ||| (1#6 <<< b) ∧
      (s.pwr.state = .parked ∧ (s.rtc.wakePend ||| (1#6 <<< b)) &&& s.wakeEnabled ≠ 0 → t.pwr.state = .run ∧ t.pwr.domains = 0x003#12 ∧ t.pwr.ref = .wake ∧
        t.pwr.started = false ∧ t.rtc.wakeSrc = (s.rtc.wakePend ||| (1#6 <<< b)) &&& s.wakeEnabled) ∧
      (s.pwr.state ≠ .parked ∨ (s.rtc.wakePend ||| (1#6 <<< b)) &&& s.wakeEnabled = 0 →
        t.pwr.state = s.pwr.state ∧ t.pwr.domains = s.pwr.domains ∧ t.rtc.wakeSrc = s.rtc.wakeSrc) ∧
      (b = 1 → t.rtc.cause.getLsbD 1 = true ∧ t.rtc.ticks = s.rtc.ticks - s.rtc.interval * 128) ∧ (b ≠ 1 → t.rtc.cause = s.rtc.cause) ∧
      t.rtc.date = s.rtc.date ∧ t.rtc.wakeEn = s.rtc.wakeEn ∧ Frame { rtc := true, pwr := true, evr := true } s t := by
  refine ⟨h.pend, h.woken, h.stays, fun hb => ⟨?_, h.ticks.trans (h1 hb).2⟩, fun hb => h.cause.trans (hne hb), h.date, h.enabled, h.frame⟩
  rw [h.cause, (h1 hb).1, setBit_getLsbD _ _ _ _ (by decide)]
  exact if_pos rfl

/-! ### VIN low -/

theorem vinLow_other (h : s.pwr.state ≠ .run ∨ s.pwr.started = false) : exec .vinLow s = .next s :=
  answer_self (congrArg (commit s) (if_pos (by simpa using h))) rfl

theorem exec_vinLow (hs : s.pwr.state = .run) (hst : s.pwr.started = true) :
    exec .vinLow s = commit s ((s.upPwr (fun p => { p with vinLow := true, vinMv := min p.vinMv 8999 })).powerCause 0) :=
  congrArg (commit s) (if_neg (by simp [hs, hst]))

/-- Settles O43: each source is a wake event, which sets its bit in every power state (log 39), and VIN low is judged in a started module in Run alone. -/
theorem wakeSourcesSetTheirBit : Obligations.WakeSourcesSetTheirBit := by
  intro s c b bytes p ha hp
  subst hp
  refine ⟨?_, fun h => wakeFrame_other ?_, vinLow_other, fun hs hst => ?_, ?_, fun hv => ?_, fun hv => ?_, fun hi ht => ?_, fun ht hdst hty hkey => ?_⟩
  · rintro (⟨rfl, rfl⟩ | ⟨rfl, rfl, hv⟩ | ⟨rfl, rfl, ht, hf⟩ | ⟨rfl, rfl, hv⟩ | ⟨rfl, rfl, hi, ht⟩)
    · obtain ⟨t, ht, h⟩ := hostWakePin_answer ha
      exact ⟨t, ht, h.stated nofun fun _ => rfl⟩
    · obtain ⟨t, ht, h⟩ := canWakePattern_answer ha hv
      exact ⟨t, ht, h.stated nofun fun _ => rfl⟩
    · obtain ⟨t, ht, h⟩ := wakeFrame_answer ha (takesWakeFrame_iff.mpr ht) hf
      exact ⟨t, ht, h.stated nofun fun _ => rfl⟩
    · obtain ⟨t, ht, h⟩ := vinReturn_answer ha hv
      exact ⟨t, ht, h.stated nofun fun _ => rfl⟩
    · obtain ⟨t, ht, h⟩ := periodicWake_answer ha hi ht
      exact ⟨t, ht, h.stated (fun _ => ⟨rfl, rfl⟩) fun hn => absurd rfl hn⟩
  · rintro ⟨ht, -, hty, hkey⟩
    rcases h with h | h | ⟨hpk, hen⟩
    · exact h hkey
    · exact h hty
    · rcases takesWakeFrame_iff.mp ht with ⟨-, -, hbit⟩ | ⟨hnp, -⟩
      · exact absurd (hen.symm.trans hbit) nofun
      · exact hnp hpk
  · exact ⟨_, exec_vinLow hs hst, congrArg HostSt.powerCause (State.powerCause_host ..), State.powerCause_pwr .., (State.powerCause_keep ((Keep.refl s).upPwr _) 0).frame.countEdges s⟩
  · obtain ⟨t, ht, h⟩ := hostWakePin_answer ha
    exact ⟨t, ht, h.pend⟩
  · obtain ⟨t, ht, h⟩ := canWakePattern_answer ha hv
    exact ⟨t, ht, h.pend⟩
  · obtain ⟨t, ht, h⟩ := vinReturn_answer ha hv
    exact ⟨t, ht, h.pend⟩
  · obtain ⟨t, ht', h⟩ := periodicWake_answer ha hi ht
    exact ⟨t, ht', h.pend⟩
  · obtain ⟨t, ht', h⟩ := wakeFrame_answer ha ht ⟨hdst, hty, hkey⟩
    exact ⟨t, ht', h.pend⟩

end Sys2Proof.Machine
end

section
/-! PROOFS. Parked requests, the commit edge and the power-cycle record (16 R470, R471, R474, 18 R504). -/

namespace Sys2Proof.Machine

open Sys2Proof

variable {s : State} {m : Master} {t₀ i c : Nat}

/-! ### The request (16 R470, 18 R504) -/

theorem exec_parkRequest_unprivileged (hr : s.readReaches m 0x34 = true) (hp : s.privOf m = false) : exec (.parkRequest m 1#32) s = commit s (s.accessFault m 0x34 flagPriv) := by
  refine congrArg (commit s) (fabricWrite_refused hr ?_)
  show needPriv (s.privOf m) _ = _
  rw [hp]
  rfl

/-- The unit may not park: its partner is STANDBY or SYNCING beside an ACTIVE unit. -/
def State.PartnerHolds (s : State) : Prop := s.csw.role = .active ∧ s.csw.partnerSeen = true ∧ (s.csw.partnerRole = 2 ∨ s.csw.partnerRole = 3)

/-- A refused request counts as a mode refusal of code 1 or 2. -/
theorem parkRequest_refused (h : s.PartnerHolds ∨ s.fw.load.isSome = true) : ∃ code, s.parkRequest = (none, s.modeRefuse code) := by
  unfold State.parkRequest
  split
  · exact ⟨1, rfl⟩
  · next hn => exact ⟨2, if_pos (h.resolve_left hn)⟩

theorem parkRequest_accepted (hn : ¬ s.PartnerHolds) (hl : s.fw.load = none) (hq : s.pwr.parkReq = 0) (hs : s.pwr.started = true) :
    s.parkRequest.1 = some ((s.upDict (fun d => { d with parked := true })).upPwr (fun p => { p with parkReq := if s.executes && s.clk.running then 1 else 4 })) := by
  have hload : ¬ s.fw.load.isSome = true := by simp [hl]
  have hfree : ¬ (0 < s.pwr.parkReq ∨ (!s.pwr.started) = true) := by simp [hq, hs]
  exact congrArg Prod.fst ((if_neg hn).trans ((if_neg hload).trans (if_neg hfree)))

theorem exec_parkRequest_refused {u : State} (hr : s.readReaches m 0x34 = true) (hp : s.privOf m = true) (h : s.parkRequest = (none, u)) :
    exec (.parkRequest m 1#32) s = commit s (u.accessFault m 0x34 flagLocked) := by
  refine congrArg (commit s) ((fabricWrite_reaches hr 1#32 []).trans (congrArg (s.settle m 0x34) (?_ : _ = .refusedIn flagLocked u)))
  show needPriv (s.privOf m) (match s.parkRequest with
      | (none, t) => if (1#32 : Word) = 1 then .refusedIn flagLocked t else .refused flagRsvd
      | (some t, _) => needLegal (decide ((1#32 : Word) = 1)) (.done t)) = _
  rw [hp, h]
  rfl

theorem exec_parkRequest_accepted {u : State} (hr : s.readReaches m 0x34 = true) (hp : s.privOf m = true) (h : s.parkRequest.1 = some u) :
    exec (.parkRequest m 1#32) s = commit s u := by
  refine congrArg (commit s) (fabricWrite_done hr ?_)
  show needPriv (s.privOf m) (match s.parkRequest with
      | (none, t) => if (1#32 : Word) = 1 then .refusedIn flagLocked t else .refused flagRsvd
      | (some t, _) => needLegal (decide ((1#32 : Word) = 1)) (.done t)) = _
  rw [hp, ← Prod.mk.eta (p := s.parkRequest), h]
  rfl

/-! ### The commit edge (16 R470, R471) -/

/-- The field outputs are off and no waymark is armed. -/
def State.disarmed (s : State) : State := s.outputsOff.upWdg (fun w => { w with slots := w.slots.map (fun x => { x with armed := false, warned := false }) })

/-- The power-cycle record is written too. -/
def State.parkStored (s : State) : State := s.disarmed.storeNow keyPower s.disarmed.powerRecord

/-- The operating time is kept, the domains but the always-on one are off and the module is Parked. -/
def State.parkDown (u : State) : State :=
  (((u.keepTime.upCan (fun ps => ps.map Can.off)).metDown.upHost (fun h => { h with ready := false })).upClk (fun c => { c with running := false, now := 0 })).upPwr
    (fun p => { p with parkReq := 0, started := false, stopped := false, state := .parked, domains := 0x001#12 })

/-- The entry is given up over the pending wake bits `hits`. -/
def State.parkAbort (u : State) (hits : BitVec 6) : State :=
  (u.upRtc (fun r => { r with abortSrc := hits })).upPwr (fun p => { p with state := .run, domains := 0x003#12, ref := .abort })

theorem parkCommit_eq (s : State) : s.parkCommit = if s.parkStored.keepTime.wakeHits ≠ 0 then s.parkStored.parkDown.parkAbort s.parkStored.keepTime.wakeHits else s.parkStored.parkDown := rfl

theorem disarmed_keep (s : State) : Keep { fio := true, wdg := true } s s.disarmed := (State.outputsOff_keep (Keep.refl s)).upWdg _

theorem parkStored_keep (s : State) : Keep { fio := true, wdg := true, nvp := true, dict := true, free := true } s s.parkStored :=
  storeNow_keep _ rfl _ ((disarmed_keep s).widen rfl) rfl rfl rfl

/-- What the record's write leaves of the outputs and the waymarks. -/
theorem parkStored_outputs (s : State) : s.parkStored.fio = s.outputsOff.fio ∧ s.parkStored.wdg = s.disarmed.wdg := by
  have h := (storeNow_keep (L := { nvp := true, dict := true, free := true }) (key := keyPower) s.disarmed rfl s.disarmed.powerRecord (Keep.refl _) rfl rfl rfl).frame
  exact ⟨h.fio rfl, h.wdg rfl⟩

theorem outputsOff_chan (s : State) (hc : c < 512) : (s.outputsOff.chan c).conduct = false ∧ (s.outputsOff.chan c).onAt = none :=
  redrive_chan_off hc (driveVal_eq_false _ (.inr (.inr (.inl (by unfold State.driversOff; exact Bool.or_true _)))))

theorem disarmed_wslot (s : State) (hi : i < 32) : (s.disarmed.wslot i).armed = false := by
  unfold State.disarmed State.wslot
  rw [State.upWdg_wdg, vget_map _ _ hi WSlot.reset]

/-- Nothing before the departure moves the operating time. -/
theorem otMs_of_frame {u : State} {L : Parts} (h : Frame L s u) (hr : L.rtc = false) (hp : L.pwr = false) (hc : L.clk = false) : u.otMs = s.otMs := by
  unfold State.otMs
  rw [h.rtc hr, h.pwr hp, h.clk hc]

theorem keepTime_csw (u : State) : u.keepTime.csw = if u.csw.role = .active then { u.csw with sinceActive := u.otMs } else u.csw := rfl

theorem parkReady_of (hq : s.pwr.parkReq = 4) (hn : s.nvp.step = none) (hm : s.governs = false ∨ s.pwr.role ≠ .controller ∨ s.sto.msDurable = s.sto.msCount) : s.parkReady = true := by
  unfold State.parkReady
  rw [decide_eq_true hq, hn]
  rcases hm with hm | hm | hm <;> simp [hm]

theorem parkReady_false (h : s.pwr.parkReq ≠ 4 ∨ s.nvp.step.isSome = true) : ¬ s.parkReady = true := by
  unfold State.parkReady
  rcases h with h | h
  · simp [h]
  · rw [Option.isNone_eq_false_iff.mpr h]
    simp

/-- What the departure leaves: `u` is the unit with its outputs off and its record written. -/
theorem parkDown_left {u : State} (hu : Frame { fio := true, wdg := true, nvp := true, dict := true, free := true } s u) : u.parkDown.rtc = { s.rtc with opMs := s.otMs } ∧ u.parkDown.pwr =
      { s.pwr with parkReq := 0, started := false, stopped := false, state := .parked, domains := 0x001#12 } ∧ u.parkDown.can = s.can.map Can.off ∧
    u.parkDown.csw.sinceActive = (if s.csw.role = .active then s.otMs else s.csw.sinceActive) ∧ u.keepTime.wakeHits = s.rtc.wakePend &&& s.wakeEnabled ∧ u.parkDown.pending = s.pending := by
  have hot := otMs_of_frame hu rfl rfl rfl
  have hrtc : u.keepTime.rtc = { s.rtc with opMs := s.otMs } := by
    rw [← hot, ← hu.rtc rfl]
    rfl
  refine ⟨hrtc, ?_, congrArg (Vector.map Can.off) (hu.can rfl), ?_, ?_, hu.pending⟩
  · rw [← hu.pwr rfl]
    rfl
  · show u.keepTime.csw.sinceActive = _
    rw [keepTime_csw, hot, hu.csw rfl]
    split <;> rfl
  · unfold State.wakeHits State.wakeEnabled State.canPort
    rw [hrtc, show u.keepTime.can = s.can from hu.can rfl]

/-- What the two ends of the commit edge share. -/
structure ParkLeft (s t : State) (c i : Nat) : Prop where
  pin : (t.chan c).conduct = false ∧ (t.chan c).onAt = none
  slot : (t.wslot i).armed = false
  time : t.rtc.opMs = s.otMs
  pend : t.rtc.wakePend = s.rtc.wakePend
  started : t.pwr.started = false
  request : t.pwr.parkReq = 0
  beats : t.clk.running = false
  met : t.met.powered = false
  can : t.can = s.can.map Can.off
  departure : t.csw.sinceActive = if s.csw.role = .active then s.otMs else s.csw.sinceActive
  queue : t.pending = s.pending

theorem parkDown_parkLeft (hc : c < 512) (hi : i < 32) : ParkLeft s s.parkStored.parkDown c i := by
  obtain ⟨hfio, hwdg⟩ := parkStored_outputs s
  obtain ⟨hrtc, hpwr, hcan, hsince, -, hq⟩ := parkDown_left (parkStored_keep s).frame
  have hchan : s.parkStored.parkDown.chan c = s.outputsOff.chan c := congrArg (fun f : Fio => vget f.chans c Chan.reset) hfio
  have hslot : s.parkStored.parkDown.wslot i = s.disarmed.wslot i := congrArg (fun w : Wdg => vget w.slots i WSlot.reset) hwdg
  exact { pin := hchan ▸ outputsOff_chan s hc, slot := hslot ▸ disarmed_wslot s hi, time := by rw [hrtc], pend := by rw [hrtc], started := by rw [hpwr], request := by rw [hpwr],
          beats := rfl, met := rfl, can := hcan, departure := hsince, queue := hq }

/-- An abort changes the power state, the domains and ABORT_SRC alone. -/
theorem ParkLeft.abort {u : State} (h : ParkLeft s u c i) (hits : BitVec 6) : ParkLeft s (u.parkAbort hits) c i :=
  { pin := h.pin, slot := h.slot, time := h.time, pend := h.pend, started := h.started, request := h.request, beats := h.beats, met := h.met, can := h.can, departure := h.departure, queue := h.queue }

theorem ParkLeft.countEdges {u : State} (h : ParkLeft s u c i) : ParkLeft s (countEdges s u) c i :=
  { pin := h.pin, slot := h.slot, time := h.time, pend := h.pend, started := h.started, request := h.request, beats := h.beats, met := h.met, can := h.can, departure := h.departure, queue := h.queue }

theorem parkCommit_parked (h : s.rtc.wakePend &&& s.wakeEnabled = 0) : s.parkCommit = s.parkStored.parkDown := by
  obtain ⟨-, -, -, -, hhits, -⟩ := parkDown_left (parkStored_keep s).frame
  rw [parkCommit_eq, hhits, if_neg (not_not.mpr h)]

theorem parkCommit_aborted (h : s.rtc.wakePend &&& s.wakeEnabled ≠ 0) : s.parkCommit = s.parkStored.parkDown.parkAbort (s.rtc.wakePend &&& s.wakeEnabled) := by
  obtain ⟨-, -, -, -, hhits, -⟩ := parkDown_left (parkStored_keep s).frame
  rw [parkCommit_eq, hhits, if_pos h]

theorem parkCommit_left (hc : c < 512) (hi : i < 32) : ParkLeft s s.parkCommit c i := by
  by_cases h : s.rtc.wakePend &&& s.wakeEnabled = 0
  · exact parkCommit_parked h ▸ parkDown_parkLeft hc hi
  · exact parkCommit_aborted h ▸ (parkDown_parkLeft hc hi).abort _

/-! ### The power-cycle record (16 R474) -/

theorem exec_powerCycleRecord (hs : s.pwr.started = true) (ht : s.pwr.recordAt + 600000000000 ≤ max s.clk.now t₀) : exec (.powerCycleRecord t₀) s =
    commit s (((s.reach t₀).upPwr (fun p => { p with recordAt := max s.clk.now t₀ })).storeSystem keyPower (s.reach t₀).powerRecord none) :=
  congrArg (commit s) (if_pos ⟨hs, ht⟩)

theorem exec_powerCycleRecord_early (h : s.pwr.started = false ∨ max s.clk.now t₀ < s.pwr.recordAt + 600000000000) : exec (.powerCycleRecord t₀) s = commit s (s.reach t₀) := by
  refine congrArg (commit s) (if_neg fun ⟨hs, ht⟩ => ?_)
  rcases h with h | h
  · exact absurd (h.symm.trans hs) nofun
  · exact absurd ht (Nat.not_le.mpr h)

/-- Settles O44: the request by what R504 refuses (it answers and counts, and changes nothing else: log 39), the commit edge by what its two ends share, and the record by the time since its last copy. -/
theorem parkedRequestsAndTheCommitEdge : Obligations.ParkedRequestsAndTheCommitEdge := by
  intro s m c i t₀ hc hi
  refine ⟨fun hr hp => ⟨fun h => ?_, fun hn hl hq hs => ?_⟩, fun hr hp => ?_, fun hq hn hm => ?_, fun h => ?_, fun hs ht hn hcmds ho₁ ho₂ => ?_, fun h => answer_reach (exec_powerCycleRecord_early h)⟩
  · obtain ⟨code, hcode⟩ := parkRequest_refused h
    have hkeep := State.accessFault_keep (L := { host := true, evr := true }) (Keep.refl (s.modeRefuse code)) m 0x34 flagLocked
    refine ⟨_, exec_parkRequest_refused hr hp hcode, accessFault_flag _ m 0x34 (by decide), hkeep.frame.pwr rfl, (congrArg Dict.parked (hkeep.frame.dict rfl)).trans rfl, ?_⟩
    exact (State.accessFault_keep (L := { host := true, evr := true, dict := true }) (State.modeRefuse_keep (Keep.refl s) code) m 0x34 flagLocked).frame.countEdges s
  · exact ⟨_, exec_parkRequest_accepted hr hp (parkRequest_accepted hn hl hq hs), rfl, rfl, (((Keep.refl s).upDict rfl).upPwr _).frame.countEdges s⟩
  · have hkeep := State.accessFault_keep (L := { host := true, evr := true }) (Keep.refl s) m 0x34 flagPriv
    exact ⟨_, exec_parkRequest_unprivileged hr hp, accessFault_flag s m 0x34 (by decide), hkeep.frame.pwr rfl, hkeep.frame.countEdges s⟩
  · have hexec : exec .parkCommitEdge s = commit s s.parkCommit := congrArg (commit s) (if_pos (parkReady_of hq hn hm))
    have h := (parkCommit_left (s := s) hc hi).countEdges
    obtain ⟨-, hpwr, -⟩ := parkDown_left (parkStored_keep s).frame
    refine ⟨_, hexec, h.pin.1, h.pin.2, h.slot, h.time, h.pend, h.started, h.request, h.beats, h.met, h.can, h.departure, fun hz => ?_, fun hz => ?_, h.queue⟩
    · rw [countEdges_pwr, parkCommit_parked hz, hpwr]
      exact ⟨rfl, rfl⟩
    · rw [countEdges_pwr, countEdges_rtc, parkCommit_aborted hz]
      exact ⟨rfl, rfl, rfl, rfl⟩
  · exact answer_self (congrArg (commit s) (if_neg (parkReady_false h))) rfl
  · obtain ⟨p, x, hstep, herase, hcmd, hkey, hdata, -, -, hpages, hkeep⟩ :=
      storeSystem_idle (s := (s.reach t₀).upPwr (fun p => { p with recordAt := max s.clk.now t₀ })) (key := keyPower) (v := (s.reach t₀).powerRecord) (r := none) hn hcmds ho₁ ho₂
    have hclk := (hkeep (L := { nvp := true, free := true }) rfl rfl (Keep.refl _)).frame
    refine ⟨_, p, x, exec_powerCycleRecord hs ht, hclk.clk rfl, hstep, herase, hcmd, hkey, hdata, hclk.pwr rfl, hpages, ?_⟩
    exact (hkeep (L := { clk := true, nvp := true, pwr := true, free := true }) rfl rfl ((State.reach_keep (Keep.refl s) t₀).upPwr _)).frame.countEdges s

end Sys2Proof.Machine
end

section
/-! PROOFS. Loss of supply and the thermal stop (19 R506, R510, R515): the end of a powered period keeps what outlasts it, and the always-on block what VBAK holds. -/

namespace Sys2Proof.Machine

open Sys2Proof

variable {s : State} {c : Instr} {cut : List Nat} {he : Bool} {temp : Int}

/-! ### The end of a powered period (19 R515) -/

/-- The acts of R515 before the state is left. -/
def State.offPrelude (s : State) (cut : List Nat) (he : Bool) : State := (((s.journalEnds.cutPageStep cut).fwPowerLoss he).metDown).cutFuses

/-- What is left with the supply gone, before VBAK is judged. -/
def State.offKept (u : State) (thermal : Bool) : State :=
  (u.keepTime.retained false).upPwr (fun p => { p with
    state := .parked, domains := 0x001#12, vinMv := if thermal then p.vinMv else 0, ref := if thermal then .thermalRestart else .vinValid
    thermalHold := thermal, thermalStops := if thermal then sat32 p.thermalStops else p.thermalStops })

theorem powerOff_eq (s : State) (cut : List Nat) (he thermal : Bool) : s.powerOff cut he thermal =
    if !thermal && decide (s.pwr.vbakMv < 2000) then ((s.offPrelude cut he).offKept thermal).aoLost else (s.offPrelude cut he).offKept thermal := by
  have hpwr : ((s.offPrelude cut he).offKept thermal).pwr.vbakMv = s.pwr.vbakMv := by
    have hkeep : Keep { sto := true, evr := true, nvp := true, fw := true, met := true, dict := true, host := true, free := true } s (s.offPrelude cut he) :=
      State.cutFuses_keep (State.metDown_keep (State.fwPowerLoss_keep (State.cutPageStep_keep (State.journalEnds_keep (Keep.refl s)) cut) he))
    exact (congrArg Pwr.vbakMv (hkeep.frame.pwr rfl) : (s.offPrelude cut he).pwr.vbakMv = s.pwr.vbakMv)
  rw [← hpwr]
  rfl

theorem offPrelude_frame (s : State) (cut : List Nat) (he : Bool) :
    Frame { sto := true, evr := true, nvp := true, fw := true, met := true, dict := true, host := true, free := true } s (s.offPrelude cut he) :=
  (State.cutFuses_keep (State.metDown_keep (State.fwPowerLoss_keep (State.cutPageStep_keep (State.journalEnds_keep (Keep.refl s)) cut) he))).frame

/-- The partition keeps its own store: the loss of its supply leaves the audit trail and the event counter. -/
theorem offPrelude_met (s : State) (cut : List Nat) (he : Bool) : (s.offPrelude cut he).met.audit = s.met.audit ∧ (s.offPrelude cut he).met.events = s.met.events := by
  obtain ⟨u, hu⟩ : ∃ u, u = (s.journalEnds.cutPageStep cut).fwPowerLoss he := ⟨_, rfl⟩
  have hmet : u.met = s.met := by
    rw [hu]
    exact (State.fwPowerLoss_keep (L := { sto := true, evr := true, nvp := true, fw := true }) (State.cutPageStep_keep (State.journalEnds_keep (Keep.refl s)) cut) he).frame.met rfl
  have hcut : u.metDown.cutFuses.met = u.metDown.met := (State.cutFuses_keep (L := { dict := true, host := true, free := true }) (Keep.refl u.metDown)).frame.met rfl
  unfold State.offPrelude
  rw [← hu, hcut, ← hmet]
  exact ⟨rfl, rfl⟩

/-- What the end of a powered period leaves in every case, VBAK or not. -/
structure OffLeft (s t : State) (thermal : Bool) : Prop where
  state : t.pwr.state = .parked
  domains : t.pwr.domains = 0x001#12
  vin : t.pwr.vinMv = if thermal then s.pwr.vinMv else 0
  ref : t.pwr.ref = if thermal then .thermalRestart else .vinValid
  hold : t.pwr.thermalHold = thermal
  stops : t.pwr.thermalStops = if thermal then sat32 s.pwr.thermalStops else s.pwr.thermalStops
  overTemp : t.pwr.overTemp = s.pwr.overTemp
  started : t.pwr.started = false
  role : t.pwr.role = s.pwr.role
  clk : t.clk = State.reset.clk
  tasks : t.tasks = State.reset.tasks
  powered : t.met.powered = false
  audit : t.met.audit = s.met.audit
  events : t.met.events = s.met.events
  milestones : t.sto.msCount = t.sto.msDurable
  slots : t.wdg.slots = Wdg.reset.slots
  queue : t.pending = s.pending

theorem offKept_left (s : State) (cut : List Nat) (he thermal : Bool) : OffLeft s ((s.offPrelude cut he).offKept thermal) thermal := by
  have hframe := offPrelude_frame s cut he
  have hpwr := hframe.pwr rfl
  obtain ⟨haudit, hevents⟩ := offPrelude_met s cut he
  generalize s.offPrelude cut he = u at *
  have hkept : (u.offKept thermal).pwr = { Pwr.reset with
      role := s.pwr.role, vinMv := if thermal then s.pwr.vinMv else 0, vbakMv := s.pwr.vbakMv, aoRunning := s.pwr.aoRunning, temp := s.pwr.temp, overTemp := s.pwr.overTemp
      thermalStops := if thermal then sat32 s.pwr.thermalStops else s.pwr.thermalStops, thermalHold := thermal, ref := if thermal then .thermalRestart else .vinValid
      state := .parked, domains := 0x001#12 } := by
    rw [← hpwr]
    rfl
  exact { state := rfl, domains := rfl, vin := by rw [hkept], ref := rfl, hold := rfl, stops := by rw [hkept], overTemp := by rw [hkept], started := rfl, role := by rw [hkept], clk := rfl,
          tasks := rfl, powered := rfl, audit := haudit, events := hevents, milestones := rfl, slots := rfl, queue := hframe.pending }

/-- The loss of the retained registers touches the always-on block alone. -/
theorem aoLost_pwr (u : State) : u.aoLost.pwr = { u.pwr with aoRunning := false } := by
  unfold State.aoLost
  rfl

theorem aoLost_slots (u : State) : u.aoLost.wdg.slots = u.wdg.slots := by
  unfold State.aoLost
  rfl

theorem OffLeft.aoLost {u : State} {thermal : Bool} (h : OffLeft s u thermal) : OffLeft s u.aoLost thermal := by
  have hpwr := aoLost_pwr u
  have hslots := aoLost_slots u
  have hframe := (State.aoLost_keep (L := { host := true, wdg := true, nvp := true, rtc := true, pwr := true }) (Keep.refl u)).frame
  have hmet := hframe.met rfl
  have hsto := hframe.sto rfl
  generalize u.aoLost = v at *
  constructor
  case slots => exact hslots.trans h.slots
  case clk => exact (hframe.clk rfl).trans h.clk
  case tasks => exact (hframe.tasks rfl).trans h.tasks
  case queue => exact hframe.pending.trans h.queue
  case milestones => exact hsto ▸ h.milestones
  case powered => exact hmet ▸ h.powered
  case audit => exact hmet ▸ h.audit
  case events => exact hmet ▸ h.events
  all_goals rw [hpwr]
  case state => exact h.state
  case domains => exact h.domains
  case vin => exact h.vin
  case ref => exact h.ref
  case hold => exact h.hold
  case stops => exact h.stops
  case overTemp => exact h.overTemp
  case started => exact h.started
  case role => exact h.role

theorem OffLeft.countEdges {o u : State} {thermal : Bool} (h : OffLeft s u thermal) : OffLeft s (countEdges o u) thermal :=
  { state := h.state, domains := h.domains, vin := h.vin, ref := h.ref, hold := h.hold, stops := h.stops, overTemp := h.overTemp, started := h.started, role := h.role, clk := h.clk,
    tasks := h.tasks, powered := h.powered, audit := h.audit, events := h.events, milestones := h.milestones, slots := h.slots, queue := h.queue }

theorem powerOff_left (s : State) (cut : List Nat) (he thermal : Bool) : OffLeft s (s.powerOff cut he thermal) thermal := by
  rw [powerOff_eq]
  split
  · exact (offKept_left s cut he thermal).aoLost
  · exact offKept_left s cut he thermal

/-- With VBAK the always-on block keeps its values and the operating time. -/
theorem powerOff_vbak (h : 2000 ≤ s.pwr.vbakMv) : (s.powerOff cut he false).rtc = { s.rtc with opMs := s.otMs } ∧ (s.powerOff cut he false).wdg.resets = s.wdg.resets := by
  have hframe := offPrelude_frame s cut he
  have hot := otMs_of_frame hframe rfl rfl rfl
  rw [powerOff_eq, if_neg (by simpa using h)]
  constructor
  · rw [← hot, ← hframe.rtc rfl]
    rfl
  · exact (congrArg Wdg.resets (hframe.wdg rfl) : (s.offPrelude cut he).wdg.resets = s.wdg.resets)

/-- Without it the always-on block stops and its registers are lost. -/
theorem aoLost_left (u : State) : u.aoLost.pwr.aoRunning = false ∧ u.aoLost.rtc.valid = false ∧ u.aoLost.rtc.date = Rtc.reset.date ∧ u.aoLost.wdg.resets = 0 := ⟨rfl, rfl, rfl, rfl⟩

theorem powerOff_noVbak (h : s.pwr.vbakMv < 2000) : (s.powerOff cut he false).pwr.aoRunning = false ∧ (s.powerOff cut he false).rtc.valid = false ∧
    (s.powerOff cut he false).rtc.date = Rtc.reset.date ∧ (s.powerOff cut he false).wdg.resets = 0 := by
  rw [powerOff_eq, if_pos (by simpa using h)]
  exact aoLost_left _

/-! ### The commands -/

/-- An overvoltage is handled as a loss of VIN (19 R505). -/
theorem exec_vinGone (h : c = .vinLoss cut he ∨ c = .overvoltage cut he) : exec c s = commit s (s.vinGone cut he) := by
  rcases h with rfl | rfl <;> rfl

theorem exec_vinGone_present (h : c = .vinLoss cut he ∨ c = .overvoltage cut he) (hv : 4500 ≤ s.pwr.vinMv) : exec c s = commit s (s.powerOff cut he false) :=
  (exec_vinGone h).trans (congrArg (commit s) (if_neg (Nat.not_lt.mpr hv)))

theorem exec_vinGone_absent (h : c = .vinLoss cut he ∨ c = .overvoltage cut he) (hv : s.pwr.vinMv < 4500) : exec c s = .next s :=
  answer_self (exec_vinGone h) (if_pos hv)

/-- The reading is recorded, and the flag sets above 85 and clears below 82 (19 R510). -/
def State.reading (s : State) (temp : Int) : State :=
  s.upPwr (fun p => { p with temp := temp, overTemp := if 85 < temp then true else if temp < 82 then false else p.overTemp })

theorem exec_backplate_stop (hd : s.domainOn 1 = true) (ht : 95 ≤ temp) : exec (.backplateTempReport temp cut he) s = commit s ((s.reading temp).powerOff cut he true) :=
  congrArg (commit s) ((if_pos hd).trans (if_pos ht))

theorem exec_backplate_reading (hd : s.domainOn 1 = true) (ht : temp < 95) : exec (.backplateTempReport temp cut he) s = commit s (s.reading temp) :=
  congrArg (commit s) ((if_pos hd).trans (if_neg (Int.not_le.mpr ht)))

theorem exec_thermalRestart (hh : s.pwr.thermalHold = true) (hr : s.pwr.ref = .thermalRestart) : exec .thermalRestart s = commit s (s.upPwr (fun p => { p with thermalHold := false })) :=
  congrArg (commit s) (if_pos ⟨hh, hr⟩)

theorem exec_holdEnd (hh : s.pwr.thermalHold = true) (h1 : -40 ≤ temp) (h2 : temp ≤ 80) :
    exec (.startUpTemperatureHoldEnd temp) s = commit s (s.upPwr (fun p => { p with thermalHold := false, temp := temp })) :=
  congrArg (commit s) (if_pos ⟨hh, h1, h2⟩)

theorem exec_holdEnd_outside (h : temp < -40 ∨ 80 < temp) : exec (.startUpTemperatureHoldEnd temp) s = .next s := by
  refine answer_self (congrArg (commit s) (if_neg ?_)) rfl
  rintro ⟨-, h1, h2⟩
  omega

theorem exec_vbakLow_stops (hv : s.pwr.vinMv < 4500) (ha : s.pwr.aoRunning = true) :
    exec .vbakLow s = commit s (s.upPwr (fun p => { p with vbakMv := min p.vbakMv 1999 })).aoLost := congrArg (commit s) (if_pos ⟨hv, ha⟩)

theorem exec_vbakLow_runs (h : ¬ (s.pwr.vinMv < 4500 ∧ s.pwr.aoRunning = true)) : exec .vbakLow s = commit s (s.upPwr (fun p => { p with vbakMv := min p.vbakMv 1999 })) :=
  congrArg (commit s) (if_neg h)

/-- Settles O50: both losses by what outlasts a powered period and by VBAK (log 36), a reading by R510, and the hold and VBAK by their two ends each. -/
theorem powerLossAndThermalStop : Obligations.PowerLossAndThermalStop := by
  intro s cut he temp i hi
  refine ⟨fun c hc => ⟨fun hv => ?_, exec_vinGone_absent hc⟩, fun hd => ⟨fun ht => ?_, fun ht => ?_⟩, fun hh => ⟨fun hr => ?_, fun h1 h2 => ?_, exec_holdEnd_outside⟩, ?_, ?_, fun hv => ?_⟩
  · have h := (powerOff_left s cut he false).countEdges (o := s)
    have hslot : (countEdges s (s.powerOff cut he false)).wslot i = WSlot.reset := by
      unfold State.wslot
      rw [h.slots]
      exact vget_replicate _ _ _
    exact ⟨_, exec_vinGone_present hc hv, h.state, h.domains, h.vin, h.ref, h.started, h.role, h.clk, h.tasks, h.powered, h.audit, h.events, h.milestones, hslot, powerOff_vbak, powerOff_noVbak, h.queue⟩
  · have h := (powerOff_left (s.reading temp) cut he true).countEdges (o := s)
    exact ⟨_, exec_backplate_stop hd ht, h.state, h.domains, h.vin, h.hold, h.ref, h.stops, h.overTemp.trans (if_pos (by omega)), h.started, h.audit, h.queue⟩
  · exact ⟨_, exec_backplate_reading hd ht, rfl, ((Keep.refl s).upPwr _).frame.countEdges s⟩
  · exact ⟨_, exec_thermalRestart hh hr, rfl, ((Keep.refl s).upPwr _).frame.countEdges s⟩
  · exact ⟨_, exec_holdEnd hh h1 h2, rfl, ((Keep.refl s).upPwr _).frame.countEdges s⟩
  · by_cases h : s.pwr.vinMv < 4500 ∧ s.pwr.aoRunning = true
    · refine ⟨_, exec_vbakLow_stops h.1 h.2, rfl, fun _ _ => ⟨rfl, rfl, rfl⟩, fun hn => ?_⟩
      exact (hn.elim (fun hv => Nat.not_lt.mpr hv h.1) fun ha => absurd (ha.symm.trans h.2) nofun).elim
    · exact ⟨_, exec_vbakLow_runs h, rfl, fun hv ha => absurd ⟨hv, ha⟩ h, fun _ => ((Keep.refl s).upPwr _).frame.countEdges s⟩
  · exact ⟨_, commit_eq .., rfl, ((Keep.refl s).upPwr _).frame.countEdges s⟩
  · have h := (powerOff_left s cut he false).countEdges (o := s)
    exact ⟨⟨_, exec_vinGone_present (.inl rfl) hv, h.state, h.domains, h.vin, h.ref⟩, _, exec_vinGone_present (.inr rfl) hv, h.state, h.domains, h.vin, h.ref⟩

end Sys2Proof.Machine
end

section
/-! PROOFS. The parameter-store commands of a master (15 R438 to R445, R456): an idle controller ends a command with the result that refuses it, reads at once, or begins the erase of its first page. -/

namespace Sys2Proof.Machine

open Sys2Proof

variable {s : State} {m : Master} {r : MasterRegs} {c : NvpCmd} {op : NvpOp} {priv : Bool}

/-! ### Giving a command -/

theorem exec_nvpRecordWrite (hr : s.readReaches m 0x500C = true) (hb : (s.mregs m).nvpBusy = false) :
    exec (.nvpRecordWrite m) s = commit s (s.nvpGive (s.nvpCmd m .recWrite (s.privOf m) [])) := by
  refine congrArg (commit s) (fabricWrite_done hr ?_)
  show needOpen (!(s.mregs m).nvpBusy) (needLegal (decide (wfield 2#32 1 0 ≠ 3)) (.done _)) = _
  rw [hb]
  rfl

theorem exec_nvpRecordRead (hr : s.readReaches m 0x500C = true) (hb : (s.mregs m).nvpBusy = false) :
    exec (.nvpRecordRead m []) s = commit s (s.nvpGive (s.nvpCmd m .recRead (s.privOf m) [])) := by
  refine congrArg (commit s) (fabricWrite_done hr ?_)
  show needOpen (!(s.mregs m).nvpBusy) (needLegal (decide (wfield 1#32 1 0 ≠ 3)) (.done _)) = _
  rw [hb]
  rfl

theorem exec_nvpRecordWrite_busy (hr : s.readReaches m 0x500C = true) (hb : (s.mregs m).nvpBusy = true) :
    exec (.nvpRecordWrite m) s = commit s (s.accessFault m 0x500C flagLocked) := by
  refine congrArg (commit s) (fabricWrite_refused hr ?_)
  show needOpen (!(s.mregs m).nvpBusy) _ = _
  rw [hb]
  rfl

theorem exec_nvpRawWrite (hr : s.readReaches m 0x5018 = true) (hp : s.privOf m = true) (hb : (s.mregs m).nvpBusy = false) :
    exec (.nvpRawWrite m) s = commit s (s.nvpGive (s.nvpCmd m .rawWrite true [])) := by
  refine congrArg (commit s) (fabricWrite_done hr ?_)
  show needPriv (s.privOf m) (needOpen (!(s.mregs m).nvpBusy) (.done (s.nvpGive (s.nvpCmd m .rawWrite (s.privOf m) [])))) = _
  rw [hp, hb]
  rfl

theorem exec_nvpRawErase (hr : s.readReaches m 0x5018 = true) (hp : s.privOf m = true) (hb : (s.mregs m).nvpBusy = false) :
    exec (.nvpRawErase m) s = commit s (s.nvpGive (s.nvpCmd m .erase true [])) := by
  refine congrArg (commit s) (fabricWrite_done hr ?_)
  show needPriv (s.privOf m) (needOpen (!(s.mregs m).nvpBusy) (.done (s.nvpGive (s.nvpCmd m .erase (s.privOf m) [])))) = _
  rw [hp, hb]
  rfl

theorem exec_nvpRawRead (hr : s.readReaches m 0x5018 = true) (hp : s.privOf m = true) (hb : (s.mregs m).nvpBusy = false) :
    exec (.nvpRawRead m []) s = commit s (s.nvpGive (s.nvpCmd m .rawRead true [])) := by
  refine congrArg (commit s) (fabricWrite_done hr ?_)
  show needPriv (s.privOf m) (needOpen (!(s.mregs m).nvpBusy) (.done (s.nvpGive (s.nvpCmd m .rawRead (s.privOf m) [])))) = _
  rw [hp, hb]
  rfl

/-! ### What refuses a command (15 R442, R445, R448, R450, R456) -/

theorem nvpRefusal_notReady (hop : c.op ≠ .sys) (h : s.nvp.ready = false) : s.nvpRefusal c = some 7 := by
  unfold State.nvpRefusal
  rw [if_neg hop, h]
  rfl

/-- A record write is judged by the record's number, then by its two pages: protected, then read-only. -/
theorem nvpRefusal_recWrite (hr : s.nvp.ready = true) : s.nvpRefusal (s.nvpCmd m .recWrite priv []) =
    if (s.mregs m).nvpRec < 768 then some 6
    else if s.nvp.isProtected (2 * (s.mregs m).nvpRec) || s.nvp.isProtected (2 * (s.mregs m).nvpRec + 1) then some 3
    else if s.nvp.readOnly.contains (2 * (s.mregs m).nvpRec) || s.nvp.readOnly.contains (2 * (s.mregs m).nvpRec + 1) then some 5
    else none := by
  unfold State.nvpRefusal NvpCmd.pages State.nvpCmd
  simp [hr, resSystem, resProtected, resWorn]

/-- A record read needs privilege for a system record. -/
theorem nvpRefusal_recRead (hr : s.nvp.ready = true) (h : 768 ≤ (s.mregs m).nvpRec ∨ priv = true) : s.nvpRefusal (s.nvpCmd m .recRead priv []) = none := by
  unfold State.nvpRefusal State.nvpCmd
  rcases h with h | h <;> simp [hr, h]

theorem nvpRefusal_range (hr : s.nvp.ready = true) (h : 32768 < 16 * (s.mregs m).nvpPage + (s.mregs m).nvpGroup + (s.mregs m).nvpCount) :
    s.nvpRefusal (s.nvpCmd m .rawWrite true []) = some 4 := by
  have hin : (s.nvpCmd m .rawWrite true []).inRange = false := decide_eq_false (Nat.not_le.mpr h)
  unfold State.nvpRefusal
  rw [hin]
  simp [State.nvpCmd, hr, resRange]

/-- The registers name groups of one page that exists. -/
structure OnePage (r : MasterRegs) : Prop where
  some : 1 ≤ r.nvpCount
  within : r.nvpCount + r.nvpGroup ≤ 16
  page : r.nvpPage < 2048

theorem OnePage.inRange (h : OnePage (s.mregs m)) : (s.nvpCmd m op priv []).inRange = true := by
  obtain ⟨h1, h2, h3⟩ := h
  unfold NvpCmd.inRange State.nvpCmd pageCount
  simp only [decide_eq_true_eq]
  omega

theorem OnePage.parts (h : OnePage (s.mregs m)) : (s.nvpCmd m op priv []).parts = [((s.mregs m).nvpPage, (s.mregs m).nvpGroup, (s.mregs m).nvpCount)] :=
  parts_one h.some (by rw [Nat.add_comm]; exact h.within)

/-- Of the pages that a raw write or an erase of one page touches, there is that page alone. -/
theorem OnePage.pages (h : OnePage (s.mregs m)) (hop : op = .rawWrite ∨ op = .erase) : (s.nvpCmd m op priv []).pages = [(s.mregs m).nvpPage] := by
  rcases hop with rfl | rfl
  · exact congrArg (List.map (·.1)) h.parts
  · rfl

theorem nvpRefusal_protected (h : OnePage (s.mregs m)) (hr : s.nvp.ready = true) (hp : s.nvp.isProtected (s.mregs m).nvpPage = true) :
    s.nvpRefusal (s.nvpCmd m .erase true []) = some 3 := by
  unfold State.nvpRefusal
  rw [h.pages (.inr rfl)]
  simp [State.nvpCmd, hr, hp, resProtected]

theorem nvpRefusal_rawNone (h : OnePage (s.mregs m)) (hop : op = .rawWrite ∨ op = .erase) (hr : s.nvp.ready = true) (hp : s.nvp.isProtected (s.mregs m).nvpPage = false)
    (ho : s.nvp.readOnly.contains (s.mregs m).nvpPage = false) : s.nvpRefusal (s.nvpCmd m op true []) = none := by
  unfold State.nvpRefusal
  rw [h.pages hop, h.inRange]
  rcases hop with rfl | rfl <;> simp [State.nvpCmd, hr, hp, List.any_cons] <;> simpa using ho

theorem nvpRefusal_rawRead (h : OnePage (s.mregs m)) (hr : s.nvp.ready = true) : s.nvpRefusal (s.nvpCmd m .rawRead true []) = none := by
  unfold State.nvpRefusal
  rw [h.inRange]
  simp [State.nvpCmd, NvpCmd.pages, hr]

/-! ### What a command that is served does -/

/-- The jobs of a raw write of one page are one, with the first groups of the buffer. -/
theorem OnePage.jobs (h : OnePage (s.mregs m)) : (s.nvpCmd m .rawWrite priv []).jobs =
    [⟨(s.mregs m).nvpPage, (s.mregs m).nvpGroup, slice (memBytes (s.mregs m).nvpBuf 0 256) 0 (16 * (s.mregs m).nvpCount)⟩] := by
  unfold NvpCmd.jobs
  rw [h.parts]
  rfl

/-- A command that changes a master's registers alone answers with them. -/
theorem answer_mregs {i : Instr} {f : MasterRegs → MasterRegs} (h : exec i s = commit s (s.upMregs m f)) :
    ∃ t, exec i s = .next t ∧ t.mregs m = f (s.mregs m) ∧ t.nvp = s.nvp ∧ Frame { host := true, nvp := true } s t :=
  ⟨_, h, upMregs_same s m f, rfl, (State.upMregs_keep (Keep.refl s) m f).frame.countEdges s⟩

theorem nvpCmd_refused {i : Instr} {k : Nat} (h : exec i s = commit s (s.nvpGive (s.nvpCmd m op priv []))) (hop : op ≠ .sys) (hs : s.nvp.step = none) (hc : s.nvp.cmds = [])
    (hk : s.nvpRefusal (s.nvpCmd m op priv []) = some k) : ∃ t, exec i s = .next t ∧ t.mregs m = { s.mregs m with nvpBusy := false, nvpResult := k, nvpUncorr := false } ∧ t.nvp = s.nvp ∧
      Frame { host := true, nvp := true } s t :=
  answer_mregs (h.trans (congrArg (commit s) (nvpGive_refused rfl hop hs hc hk)))

/-- A command that begins page writes: its master is busy and the erase of its first page is in progress. -/
theorem nvpCmd_begins {i : Instr} {j : PageJob} (h : exec i s = commit s (s.nvpGive (s.nvpCmd m op priv []))) (hop : op ≠ .sys) (hs : s.nvp.step = none) (hc : s.nvp.cmds = [])
    (hj : ∀ u : State, u.nvp = s.nvp → u.nvpBegin (s.nvpCmd m op priv []) = u.beginErase (some (s.nvpCmd m op priv [])) j false []) :
    ∃ t p, exec i s = .next t ∧ t.nvp.step = some p ∧ p.erasing = true ∧ p.spare = false ∧ p.rest = [] ∧ p.job = j ∧ t.nvp.marker = some (j.page, true) ∧ t.nvp.pages = s.nvp.pages ∧
      t.mregs m = { s.mregs m with nvpBusy := true } ∧ Frame { host := true, nvp := true } s t := by
  refine ⟨_, _, h.trans (congrArg (commit s) ((nvpGive_idle rfl hop hs hc).trans (hj _ rfl))), rfl, rfl, rfl, rfl, rfl, rfl, rfl, upMregs_same s m _, ?_⟩
  exact (State.beginErase_keep (State.upMregs_keep (Keep.refl s) m _) _ _ _ _).frame.countEdges s

/-- A command without a refusal begins what its kind says. -/
theorem nvpBegin_served {u : State} (hu : u.nvp = s.nvp) (h : s.nvpRefusal c = none) : u.nvpBegin c = match c.op with
    | .recRead => u.recordRead c (c.who.getD .sup0)
    | .rawRead => u.rawRead c (c.who.getD .sup0)
    | .recWrite => u.beginPages (some c) [u.nvp.recordJob c.record c.data]
    | .sys => u.beginPages (some c) [u.nvp.recordJob c.record (Config.systemData u.free)]
    | .rawWrite => u.beginPages (some c) c.jobs
    | .erase => u.beginPages (some c) [⟨c.page, 0, []⟩] := by
  have hn : u.nvpRefusal c = none := by
    rw [← h]
    unfold State.nvpRefusal
    rw [hu]
  unfold State.nvpBegin
  rw [hn] <;> rfl

/-- A command that ends in the cycle that begins it leaves its master's registers alone changed. -/
theorem nvpCmd_ends {i : Instr} {f : MasterRegs → MasterRegs} {k : Nat} (h : exec i s = commit s (s.nvpGive (s.nvpCmd m op priv []))) (hop : op ≠ .sys) (hs : s.nvp.step = none)
    (hc : s.nvp.cmds = []) (hend : ∀ u : State, u.nvp = s.nvp → u.nvpBegin (s.nvpCmd m op priv []) = (u.upMregs m f).nvpEnd (s.nvpCmd m op priv []) k false) :
    ∃ t, exec i s = .next t ∧ t.mregs m = { f { s.mregs m with nvpBusy := true } with nvpBusy := false, nvpResult := k, nvpUncorr := false } ∧ t.nvp = s.nvp ∧
      Frame { host := true, nvp := true } s t := by
  refine answer_mregs (f := fun r => { f { r with nvpBusy := true } with nvpBusy := false, nvpResult := k, nvpUncorr := false }) (h.trans (congrArg (commit s) ?_))
  refine ((nvpGive_idle rfl hop hs hc).trans (hend _ rfl)).trans ?_
  show (((s.upMregs m _).upMregs m f).upMregs m _ : State) = _
  rw [upMregs_upMregs, upMregs_upMregs]

theorem nvpRecordRead_some {p : Page} (hr : s.readReaches m 0x500C = true) (hb : (s.mregs m).nvpBusy = false) (hs : s.nvp.step = none) (hc : s.nvp.cmds = [])
    (hn : s.nvpRefusal (s.nvpCmd m .recRead (s.privOf m) []) = none) (h0 : (s.nvp.page (2 * (s.mregs m).nvpRec)).bad = []) (h1 : (s.nvp.page (2 * (s.mregs m).nvpRec + 1)).bad = [])
    (ht : (chooseCopy (s.nvp.page (2 * (s.mregs m).nvpRec)) (s.nvp.page (2 * (s.mregs m).nvpRec + 1))).2 = false) (hp : s.nvp.selected (s.mregs m).nvpRec = some p) :
    ∃ t, exec (.nvpRecordRead m []) s = .next t ∧ t.mregs m = { s.mregs m with
      nvpBusy := false, nvpResult := 0, nvpUncorr := false, nvpTie := false, nvpLen := p.len, nvpBuf := memPut (s.mregs m).nvpBuf 0 p.content } ∧ t.nvp = s.nvp ∧
      Frame { host := true, nvp := true } s t := by
  refine nvpCmd_ends (f := fun r => { r with nvpTie := false, nvpLen := p.len, nvpBuf := memPut r.nvpBuf 0 p.content }) (k := resOk) (exec_nvpRecordRead hr hb) nofun hs hc fun u hu => ?_
  rw [← hu] at h0 h1 ht hp
  refine (nvpBegin_served hu hn).trans ((recordRead_clean (c := s.nvpCmd m .recRead (s.privOf m) []) rfl h0 h1 ht).trans ?_)
  rw [show (s.nvpCmd m .recRead (s.privOf m) []).record = (s.mregs m).nvpRec from rfl, hp]
  rfl

theorem nvpRecordRead_none (hr : s.readReaches m 0x500C = true) (hb : (s.mregs m).nvpBusy = false) (hs : s.nvp.step = none) (hc : s.nvp.cmds = [])
    (hn : s.nvpRefusal (s.nvpCmd m .recRead (s.privOf m) []) = none) (h0 : (s.nvp.page (2 * (s.mregs m).nvpRec)).bad = []) (h1 : (s.nvp.page (2 * (s.mregs m).nvpRec + 1)).bad = [])
    (hp : s.nvp.selected (s.mregs m).nvpRec = none) : ∃ t, exec (.nvpRecordRead m []) s = .next t ∧
      t.mregs m = { s.mregs m with nvpBusy := false, nvpResult := 1, nvpUncorr := false, nvpTie := false, nvpLen := 0 } ∧ t.nvp = s.nvp ∧ Frame { host := true, nvp := true } s t := by
  refine nvpCmd_ends (f := fun r => { r with nvpTie := false, nvpLen := 0 }) (k := resEmpty) (exec_nvpRecordRead hr hb) nofun hs hc fun u hu => ?_
  rw [← hu] at h0 h1 hp
  refine (nvpBegin_served hu hn).trans ((recordRead_clean (c := s.nvpCmd m .recRead (s.privOf m) []) rfl h0 h1 (chooseCopy_none (selected_none hp))).trans ?_)
  rw [show (s.nvpCmd m .recRead (s.privOf m) []).record = (s.mregs m).nvpRec from rfl, hp]
  rfl

/-- The bytes of the groups that a master's registers name of one page. -/
def State.namedGroups (s : State) (m : Master) : List Byte :=
  (List.range (s.mregs m).nvpCount).flatMap (fun i => (s.nvp.page (s.mregs m).nvpPage).group ((s.mregs m).nvpGroup + i))

theorem nvpRawRead_answer (hr : s.readReaches m 0x5018 = true) (hp : s.privOf m = true) (hb : (s.mregs m).nvpBusy = false) (hs : s.nvp.step = none) (hc : s.nvp.cmds = []) (ho : OnePage (s.mregs m))
    (hn : s.nvpRefusal (s.nvpCmd m .rawRead true []) = none) (h0 : (s.nvp.page (s.mregs m).nvpPage).bad = []) : ∃ t, exec (.nvpRawRead m []) s = .next t ∧
      t.mregs m = { s.mregs m with nvpBusy := false, nvpResult := 0, nvpUncorr := false, nvpBuf := memPut (s.mregs m).nvpBuf 0 (s.namedGroups m) } ∧ t.nvp = s.nvp ∧
      Frame { host := true, nvp := true } s t := by
  refine nvpCmd_ends (f := fun r => { r with nvpBuf := memPut r.nvpBuf 0 (s.namedGroups m) }) (k := resOk) (exec_nvpRawRead hr hp hb) nofun hs hc fun u hu => ?_
  rw [← hu] at h0
  refine (nvpBegin_served hu hn).trans ((rawRead_clean (c := s.nvpCmd m .rawRead true []) rfl h0 ho.some (by rw [Nat.add_comm]; exact ho.within)).trans ?_)
  rw [hu]
  rfl

/-- Settles O39: a command on an idle controller (the only one that takes it: log 39) by what refuses it, and else by its kind. -/
theorem parameterStoreCommands : Obligations.ParameterStoreCommands := by
  rintro s m r rfl hs hc
  refine ⟨fun hr hb hready => ⟨fun huser hfree => ?_, fun hsys => ?_, fun huser hp => ?_, fun huser hp₀ hp₁ ho => ?_, fun hmay h0 h1 => ⟨fun p hp ht => ?_, fun hp => ?_⟩⟩,
    fun hr hp hb hready h1 h2 h3 => ⟨fun hpr hro => ⟨?_, ?_, fun h0 => ?_⟩, fun hpr => ?_⟩, fun hr hp hb hready hrange => ?_, fun hr hb hready => ?_, fun hr hb => ?_⟩
  · obtain ⟨hp₀, ho₀⟩ := hfree _ (.inl rfl)
    obtain ⟨hp₁, ho₁⟩ := hfree _ (.inr rfl)
    have hn : s.nvpRefusal (s.nvpCmd m .recWrite (s.privOf m) []) = none := by
      rw [nvpRefusal_recWrite hready, if_neg (Nat.not_lt.mpr huser), hp₀, hp₁, ho₀, ho₁]
      rfl
    obtain ⟨t, p, ht, hstep, he, hsp, hrest, hjob, hmark, hpages, hown, hframe⟩ := nvpCmd_begins (exec_nvpRecordWrite hr hb) nofun hs hc fun u hu =>
      (nvpBegin_served hu hn).trans (congrArg (fun n : Nvp => u.beginPages _ [n.recordJob _ _]) hu)
    exact ⟨t, p, ht, hstep, he, hsp, hrest, hjob, hjob ▸ hmark, hpages, hown, hframe⟩
  · exact nvpCmd_refused (exec_nvpRecordWrite hr hb) nofun hs hc ((nvpRefusal_recWrite hready).trans (if_pos hsys))
  · refine nvpCmd_refused (exec_nvpRecordWrite hr hb) nofun hs hc ((nvpRefusal_recWrite hready).trans ((if_neg (Nat.not_lt.mpr huser)).trans (if_pos ?_)))
    rw [Bool.or_eq_true]
    exact hp
  · refine nvpCmd_refused (exec_nvpRecordWrite hr hb) nofun hs hc ((nvpRefusal_recWrite hready).trans ((if_neg (Nat.not_lt.mpr huser)).trans ((if_neg ?_).trans (if_pos ?_))))
    · rw [hp₀, hp₁]
      exact nofun
    · rw [Bool.or_eq_true]
      exact ho
  · exact nvpRecordRead_some hr hb hs hc (nvpRefusal_recRead hready hmay) h0 h1 ht hp
  · exact nvpRecordRead_none hr hb hs hc (nvpRefusal_recRead hready hmay) h0 h1 hp
  · have ho : OnePage (s.mregs m) := ⟨h1, h2, h3⟩
    obtain ⟨t, p, ht, hstep, he, hsp, -, hjob, -, hpages, hown, hframe⟩ := nvpCmd_begins (exec_nvpRawWrite hr hp hb) nofun hs hc
      fun u hu => (nvpBegin_served hu (nvpRefusal_rawNone ho (.inl rfl) hready hpr hro)).trans (congrArg (u.beginPages _) ho.jobs)
    exact ⟨t, p, ht, hstep, he, hsp, hjob, hpages, hown, hframe⟩
  · have ho : OnePage (s.mregs m) := ⟨h1, h2, h3⟩
    obtain ⟨t, p, ht, hstep, he, hsp, hrest, hjob, -, hpages, hown, hframe⟩ := nvpCmd_begins (exec_nvpRawErase hr hp hb) nofun hs hc
      fun u hu => nvpBegin_served hu (nvpRefusal_rawNone ho (.inr rfl) hready hpr hro)
    exact ⟨t, p, ht, hstep, he, hsp, hrest, hjob, hpages, hown, hframe⟩
  · have ho : OnePage (s.mregs m) := ⟨h1, h2, h3⟩
    exact nvpRawRead_answer hr hp hb hs hc ho (nvpRefusal_rawRead ho hready) h0
  · exact nvpCmd_refused (exec_nvpRawErase hr hp hb) nofun hs hc (nvpRefusal_protected ⟨h1, h2, h3⟩ hready hpr)
  · exact nvpCmd_refused (exec_nvpRawWrite hr hp hb) nofun hs hc (nvpRefusal_range hready hrange)
  · exact nvpCmd_refused (exec_nvpRecordWrite hr hb) nofun hs hc (nvpRefusal_notReady nofun hready)
  · obtain ⟨t, ht, hflag, hframe⟩ := refused_answer (exec_nvpRecordWrite_busy hr hb) (by decide)
    exact ⟨t, ht, hflag, hframe.nvp rfl, hframe⟩

end Sys2Proof.Machine
end

section
/-! PROOFS. Page steps, the wax pass and the correction counter (15 R435, R442, R447, R449, R450, R456). -/

namespace Sys2Proof.Machine

open Sys2Proof

variable {s : State} {m : Master} {p : PageStep} {c : NvpCmd} {g t₀ : Nat}

/-! ### The end of a page step -/

/-- With no reset waiting the step ends as the controller has it. -/
theorem exec_pageStepDone (bad : Option Nat) (hq : s.pwr.resetPend = false) (hw : s.wdg.resetting = none) : exec (.pageStepDone bad) s = commit s (s.pageStepDone bad) :=
  congrArg (commit s) (if_pos (by simp [hq, hw]))

/-- The erase of a page that is to be programmed: the program step is in progress. -/
theorem pageStepDone_erased (bad : Option Nat) (h : s.nvp.step = some p) (he : p.erasing = true) (hs : p.spare = false) (hd : p.job.data ≠ []) : s.pageStepDone bad =
    (s.upNvp (fun n => n.setPage p.job.page Page.blank)).upNvp (fun n => { n with step := some { p with erasing := false }, marker := some (p.job.page, false) }) := by
  unfold State.pageStepDone
  rw [h]
  dsimp only
  rw [if_pos he, hs, if_neg (by simpa using hd)]
  rfl

/-- The erase of a page that holds nothing afterwards ends the page. -/
theorem pageStepDone_blank (bad : Option Nat) (h : s.nvp.step = some p) (he : p.erasing = true) (hs : p.spare = false) (hd : p.job.data = []) : s.pageStepDone bad =
    (s.upNvp (fun n => n.setPage p.job.page Page.blank)).pageEnd p := by
  unfold State.pageStepDone
  rw [h]
  dsimp only
  rw [if_pos he, hs, if_pos (by simpa using hd)]
  rfl

theorem pageStepDone_programmed (h : s.nvp.step = some p) (he : p.erasing = false) (hs : p.spare = false) : s.pageStepDone none =
    (s.upNvp (fun n => n.setPage p.job.page (Page.blank.put (16 * p.job.first) p.job.data))).pageEnd p := by
  unfold State.pageStepDone State.programmed
  rw [h]
  dsimp only
  rw [if_neg (by simp [he]), hs]
  rfl

theorem pageStepDone_failed (h : s.nvp.step = some p) (he : p.erasing = false) (hs : p.spare = false) : s.pageStepDone (some g) =
    if s.nvp.spares < 64 then (s.upNvp (fun n => n.setPage p.job.page (cutPage p.job g))).beginErase p.cmd p.job true p.rest
    else (s.upNvp (fun n => n.setPage p.job.page (cutPage p.job g))).wornOut p := by
  unfold State.pageStepDone State.programFailed
  rw [h]
  dsimp only
  rw [if_neg (by simp [he]), hs]
  rfl

/-- With no command waiting the controller rests. -/
theorem nvpGo_rests {u : State} (h : u.nvp.cmds = []) : u.nvpGo = u := nvpServe_none h _

/-- The last page of a master's command ends it with OK. -/
theorem pageEnd_master (hc : s.nvp.cmds = []) (hp : p.cmd = some c) (hm : c.who = some m) (hr : p.rest = []) : s.pageEnd p =
    ((s.upNvp (fun n => { n with marker := none, step := none })).upNvp (fun n => { n with waxActive := false })).upMregs m
      (fun r => { r with nvpBusy := false, nvpResult := 0, nvpUncorr := false }) := by
  have hend : s.pageEnd p = ((((s.upNvp (fun n => { n with marker := none, step := none })).upNvp (fun n => { n with waxActive := false })).upMregs m
      (fun r => { r with nvpBusy := false, nvpResult := 0, nvpUncorr := false }))).nvpGo := by
    unfold State.pageEnd
    rw [hr, hp]
    dsimp only
    unfold State.nvpEnd
    rw [hm]
    rfl
  exact hend.trans (nvpGo_rests hc)

theorem pageEnd_answer {pg : Page} (hexec : exec (.pageStepDone none) s = commit s ((s.upNvp (fun n => n.setPage p.job.page pg)).pageEnd p)) (hc : s.nvp.cmds = []) (hp : p.cmd = some c)
    (hm : c.who = some m) (hr : p.rest = []) : ∃ t, exec (.pageStepDone none) s = .next t ∧ t.mregs m = { s.mregs m with nvpBusy := false, nvpResult := 0, nvpUncorr := false } ∧
      t.nvp = { s.nvp.setPage p.job.page pg with step := none, marker := none, waxActive := false } ∧ Frame { host := true, nvp := true } s t := by
  rw [pageEnd_master (s := s.upNvp (fun n => n.setPage p.job.page pg)) hc hp hm hr] at hexec
  refine ⟨_, hexec, upMregs_same _ m _, rfl, ?_⟩
  exact (State.upMregs_keep ((((Keep.refl s).upNvp _).upNvp _).upNvp _) m _).frame.countEdges s

theorem nvpCauseSev_nvp (u : State) (b source sev : Nat) : (u.nvpCauseSev b source sev).nvp = { u.nvp with cause := setBit u.nvp.cause b true } := State.occurSev_nvp ..

theorem nvpCauseSev_host (u : State) (b source sev : Nat) : (u.nvpCauseSev b source sev).host = u.host := State.occurSev_host ..

/-- A page that no spare can take any more is read-only, the cause says WORN and the command ends with it. -/
theorem wornOut_master (hc : s.nvp.cmds = []) (hp : p.cmd = some c) (hm : c.who = some m) : s.wornOut p =
    ((s.upNvp (fun n => { n with marker := none, step := none, worn := true, waxActive := false, readOnly := insertNat p.job.page n.readOnly })).nvpCauseSev 4 p.job.page 2).upMregs m
      (fun r => { r with nvpBusy := false, nvpResult := 5, nvpUncorr := false }) := by
  have hend : s.wornOut p = (((s.upNvp (fun n => { n with marker := none, step := none, worn := true, waxActive := false, readOnly := insertNat p.job.page n.readOnly })).nvpCauseSev
      4 p.job.page 2).upMregs m (fun r => { r with nvpBusy := false, nvpResult := 5, nvpUncorr := false })).nvpGo := by
    unfold State.wornOut
    rw [hp]
    dsimp only
    unfold State.nvpEnd
    rw [hm]
    rfl
  refine hend.trans (nvpGo_rests ?_)
  rw [State.upMregs_nvp, nvpCauseSev_nvp]
  exact hc

theorem wornOut_answer (hexec : exec (.pageStepDone (some g)) s = commit s ((s.upNvp (fun n => n.setPage p.job.page (cutPage p.job g))).wornOut p)) (hc : s.nvp.cmds = []) (hp : p.cmd = some c)
    (hm : c.who = some m) : ∃ t, exec (.pageStepDone (some g)) s = .next t ∧ t.mregs m = { s.mregs m with nvpBusy := false, nvpResult := 5, nvpUncorr := false } ∧
      t.nvp = { s.nvp.setPage p.job.page (cutPage p.job g) with
        marker := none, step := none, worn := true, waxActive := false, readOnly := insertNat p.job.page s.nvp.readOnly, cause := setBit s.nvp.cause 4 true } ∧
      Frame { host := true, nvp := true, evr := true } s t := by
  rw [wornOut_master (s := s.upNvp (fun n => n.setPage p.job.page (cutPage p.job g))) hc hp hm] at hexec
  refine ⟨_, hexec, (upMregs_same _ m _).trans ?_, ?_, ?_⟩
  · unfold State.mregs
    rw [nvpCauseSev_host]
    rfl
  · rw [countEdges_nvp, State.upMregs_nvp, nvpCauseSev_nvp]
    rfl
  · exact (State.upMregs_keep (State.nvpCauseSev_keep (((Keep.refl s).upNvp _).upNvp _) 4 p.job.page 2) m _).frame.countEdges s

/-! ### The wax pass (15 R447) -/

theorem exec_waxPassVisit (weak : Bool) (hm : s.waxMay = true) (hr : s.nvp.waxRunning = true) (hs : s.nvp.step = none) : exec (.waxPassVisit weak []) s = commit s (s.waxVisit weak []) :=
  congrArg (commit s) (if_pos (by simp [hm, hr, hs]))

/-- What a visit does with the page of its position before it moves on. -/
def State.waxLook (s : State) (weak : Bool) (pos : Nat) : State :=
  if weak then
    match s.nvp.rewriteJob pos with
    | some j => if s.nvp.rewritable j then (s.beginPages none [j]).upNvp (fun n => { n with waxActive := true }) else s
    | none => s
  else s

/-- A visit of a page without errors, in its own cells, looks at it and moves to the next. -/
theorem waxVisit_page (weak : Bool) (hp : s.nvp.waxPage < 2048) (ho : aget s.nvp.remaps s.nvp.waxPage = none) (hb : (s.nvp.page s.nvp.waxPage).bad = []) :
    s.waxVisit weak [] = (s.waxLook weak s.nvp.waxPage).upNvp (fun n => { n with waxPage := s.nvp.waxPage + 1 }) := by
  have htarget : s.nvp.waxTarget s.nvp.waxPage = some s.nvp.waxPage := if_pos hp
  have hown : s.nvp.ownCells s.nvp.waxPage = true := by simp [Nvp.ownCells, ho]
  have hlast : decide (s.nvp.waxPage + 1 = pageCount + spareCount) = false := decide_eq_false (by unfold pageCount spareCount; omega)
  have hecc : s.takeEcc [] = s := rfl
  unfold State.waxVisit
  simp only [htarget, hown, hlast, hecc, hb, List.filter_nil, List.isEmpty_nil, Bool.not_true, Bool.false_eq_true, if_false, Bool.or_false]
  rfl

/-- A page that is no valid record copy is rewritten as it stands. -/
theorem waxLook_weak {k : Nat} (hb : (s.nvp.page k).bad = []) (hv : (s.nvp.page k).valid = false) (ho : s.nvp.readOnly.contains k = false) :
    s.waxLook true k = (s.beginErase none ⟨k, 0, (s.nvp.page k).read⟩ false []).upNvp (fun n => { n with waxActive := true }) := by
  have hjob : s.nvp.rewriteJob k = some ⟨k, 0, (s.nvp.page k).read⟩ := by
    unfold Nvp.rewriteJob
    simp [hb, hv]
  unfold State.waxLook
  rw [if_pos rfl, hjob]
  exact if_pos (by unfold Nvp.rewritable; rw [ho]; rfl)

theorem waxLook_readOnly {k : Nat} (hb : (s.nvp.page k).bad = []) (hv : (s.nvp.page k).valid = false) (ho : s.nvp.readOnly.contains k = true) : s.waxLook true k = s := by
  have hjob : s.nvp.rewriteJob k = some ⟨k, 0, (s.nvp.page k).read⟩ := by
    unfold Nvp.rewriteJob
    simp [hb, hv]
  unfold State.waxLook
  rw [if_pos rfl, hjob]
  exact if_neg (by unfold Nvp.rewritable; rw [ho]; nofun)

/-- The visit of the last spare, when it stands for no page, completes the pass. -/
theorem waxVisit_last (hp : s.nvp.waxPage = 2111) (ht : s.nvp.waxTarget 2111 = none) : s.waxVisit false [] =
    s.upNvp (fun n => { n with waxPage := 0, waxRunning := false, waxLate := false, waxDone := s.otMs, history := true }) := by
  unfold State.waxVisit
  simp only [hp, ht]
  rfl

theorem waxMay_reach (t : Nat) : (s.reach t).waxMay = s.waxMay := rfl

theorem exec_waxLate (hr : s.nvp.waxRunning = true) (hl : s.nvp.waxLate = false) (ht : s.nvp.waxBegan + 604800000 ≤ (s.reach t₀).otMs) :
    exec (.waxLate t₀) s = commit s (((s.reach t₀).upNvp (fun n => { n with waxLate := true })).nvpCause 5 0) :=
  congrArg (commit s) (if_pos (by simp [hr, hl, ht]))

theorem exec_waxLate_not (h : s.nvp.waxRunning = false ∨ s.nvp.waxLate = true ∨ (s.reach t₀).otMs < s.nvp.waxBegan + 604800000) : exec (.waxLate t₀) s = commit s (s.reach t₀) := by
  refine congrArg (commit s) (if_neg fun hall => ?_)
  simp only [Bool.and_eq_true, Bool.not_eq_true', decide_eq_true_eq] at hall
  obtain ⟨⟨hrun, hlate⟩, htime⟩ := hall
  rcases h with h | h | h
  · exact absurd (h.symm.trans hrun) nofun
  · exact absurd (h.symm.trans hlate) nofun
  · exact Nat.not_lt.mpr htime h

theorem exec_waxPassBegin (hm : s.waxMay = true) (hr : s.nvp.waxRunning = false) (ht : s.nvp.waxBegan + 86400000 ≤ (s.reach t₀).otMs) :
    exec (.waxPassBegin t₀) s = commit s ((s.reach t₀).upNvp (fun n => { n with waxRunning := true, waxPage := 0, waxBegan := (s.reach t₀).otMs })) :=
  congrArg (commit s) (if_pos (by simp [waxMay_reach, hm, hr, ht]))

theorem exec_waxPassBegin_not (h : s.waxMay = false ∨ s.nvp.waxRunning = true ∨ (s.reach t₀).otMs < s.nvp.waxBegan + 86400000) : exec (.waxPassBegin t₀) s = commit s (s.reach t₀) := by
  refine congrArg (commit s) (if_neg fun hall => ?_)
  simp only [Bool.and_eq_true, Bool.not_eq_true', decide_eq_true_eq] at hall
  obtain ⟨⟨hmay, hrun⟩, htime⟩ := hall
  rcases h with h | h | h
  · exact absurd (h.symm.trans hmay) nofun
  · exact absurd (h.symm.trans hrun) nofun
  · exact Nat.not_lt.mpr htime h

theorem answer_reach_nvp_same {i : Instr} (h : exec i s = commit s (s.reach t₀)) : ∃ t, exec i s = .next t ∧ t.nvp = s.nvp ∧ Frame { clk := true } s t := by
  obtain ⟨t, ht, -, hframe⟩ := answer_reach h
  exact ⟨t, ht, hframe.nvp rfl, hframe⟩

/-! ### CLR_CORR (15 R456) -/

theorem exec_clrCorr (hr : s.readReaches m 0x5030 = true) (hp : s.privOf m = true) : exec (.clrCorr m) s = commit s (s.upNvp (fun n => { n with corr := 0 })) := by
  refine congrArg (commit s) (fabricWrite_done hr ?_)
  show needPriv (s.privOf m) _ = _
  rw [hp]
  rfl

theorem exec_clrCorr_unprivileged (hr : s.readReaches m 0x5030 = true) (hp : s.privOf m = false) : exec (.clrCorr m) s = commit s (s.accessFault m 0x5030 flagPriv) := by
  refine congrArg (commit s) (fabricWrite_refused hr ?_)
  show needPriv (s.privOf m) _ = _
  rw [hp]
  rfl

/-- Settles O40: a page step by its phase and its verification, a visit by what it finds of the page (log 39), and the pass by its times. -/
theorem pageStepsAndTheWaxPass : Obligations.PageStepsAndTheWaxPass := by
  intro s m p c g t₀ hq hw hc
  refine ⟨fun h hp hm hr hs => ⟨fun he hd => ?_, fun he hd => ?_, fun he => ?_, fun he hsp => ?_, fun he hsp => ?_⟩,
    fun hmay hrun hstep => ⟨fun hpage ho hb => ⟨?_, fun hv hro => ?_, fun hv hro => ?_⟩, fun hpage ht => ?_, fun hl ht => ?_⟩,
    fun h => answer_reach_nvp_same (exec_waxLate_not h), fun hmay hrun ht => ?_, fun h => answer_reach_nvp_same (exec_waxPassBegin_not h), fun hr hp => ?_, fun hr hp => ?_⟩
  · exact ⟨_, (exec_pageStepDone none hq hw).trans (congrArg (commit s) (pageStepDone_erased none h he hs hd)), rfl, (((Keep.refl s).upNvp _).upNvp _).frame.countEdges s⟩
  · exact pageEnd_answer ((exec_pageStepDone none hq hw).trans (congrArg (commit s) (pageStepDone_blank none h he hs hd))) hc hp hm hr
  · exact pageEnd_answer ((exec_pageStepDone none hq hw).trans (congrArg (commit s) (pageStepDone_programmed h he hs))) hc hp hm hr
  · refine ⟨_, _, (exec_pageStepDone (some g) hq hw).trans (congrArg (commit s) ((pageStepDone_failed h he hs).trans (if_pos hsp))), rfl, rfl, rfl, rfl, rfl, rfl, rfl, rfl, ?_⟩
    exact (State.beginErase_keep ((Keep.refl s).upNvp _) _ _ _ _).frame.countEdges s
  · obtain ⟨t, ht, hown, hnvp, hframe⟩ := wornOut_answer ((exec_pageStepDone (some g) hq hw).trans (congrArg (commit s) ((pageStepDone_failed h he hs).trans (if_neg (Nat.not_lt.mpr hsp))))) hc hp hm
    refine ⟨t, ht, hown, by rw [hnvp], by rw [hnvp], by rw [hnvp], ?_, ?_, by rw [hnvp], hframe⟩
    · rw [hnvp]
      exact insertNat_mem _ _
    · rw [hnvp]
      exact (setBit_getLsbD _ _ _ _ (by decide)).trans (if_pos rfl)
  · exact ⟨_, (exec_waxPassVisit false hmay hrun hstep).trans (congrArg (commit s) (waxVisit_page false hpage ho hb)), rfl, ((Keep.refl s).upNvp _).frame.countEdges s⟩
  · have hvisit := waxVisit_page true hpage ho hb
    rw [waxLook_readOnly hb hv hro] at hvisit
    exact ⟨_, (exec_waxPassVisit true hmay hrun hstep).trans (congrArg (commit s) hvisit), rfl, ((Keep.refl s).upNvp _).frame.countEdges s⟩
  · have hvisit := waxVisit_page true hpage ho hb
    rw [waxLook_weak hb hv hro] at hvisit
    refine ⟨_, _, (exec_waxPassVisit true hmay hrun hstep).trans (congrArg (commit s) hvisit), rfl, rfl, rfl, rfl, rfl, rfl, rfl, ?_⟩
    exact (((State.beginErase_keep (Keep.refl s) _ _ _ _).upNvp _).upNvp _).frame.countEdges s
  · exact ⟨_, (exec_waxPassVisit false hmay hrun hstep).trans (congrArg (commit s) (waxVisit_last hpage ht)), rfl, ((Keep.refl s).upNvp _).frame.countEdges s⟩
  · refine ⟨_, exec_waxLate hrun hl ht, ?_⟩
    rw [countEdges_nvp, State.nvpCause_nvp]
    exact ⟨rfl, (setBit_getLsbD _ _ _ _ (by decide)).trans (if_pos rfl), rfl, (State.nvpCause_keep ((State.reach_keep (Keep.refl s) t₀).upNvp _) 5 0).frame.countEdges s⟩
  · exact ⟨_, exec_waxPassBegin hmay hrun ht, rfl, ((State.reach_keep (Keep.refl s) t₀).upNvp _).frame.countEdges s⟩
  · exact ⟨_, exec_clrCorr hr hp, rfl, ((Keep.refl s).upNvp _).frame.countEdges s⟩
  · obtain ⟨t, ht, hflag, hframe⟩ := refused_answer (exec_clrCorr_unprivileged hr hp) (by decide)
    exact ⟨t, ht, hflag, hframe.nvp rfl, hframe⟩

end Sys2Proof.Machine
end

section
/-! PROOFS. Firmware loads (15 R451, R453, 19 R522): a segment, the end of a bank step, the verification and the abandonment, each by the load in progress. -/

namespace Sys2Proof.Machine

open Sys2Proof

variable {s : State} {l : FwLoad} {off : Nat} {data : List Byte} {last ok signed : Bool} {ecc : List Ecc}

/-! ### The banks and the load under the shared operations -/

theorem upBank_active (s : State) (k : Nat) (f : Bank → Bank) : (s.upBank k f).fw.active = s.fw.active := by
  unfold State.upBank
  rw [State.upFw_fw]
  split <;> rfl

theorem upBank_load (s : State) (k : Nat) (f : Bank → Bank) : (s.upBank k f).fw.load = s.fw.load ∧ (s.upBank k f).fw.result = s.fw.result := by
  unfold State.upBank
  rw [State.upFw_fw]
  split <;> exact ⟨rfl, rfl⟩

/-- The answer of a load ends nothing: after it the load is in progress and the banks are as they were. -/
theorem fwAnswer_left (h : s.fw.load = some l) (st : Nat) :
    (s.fwAnswer st).fw.load = some { l with reply := none } ∧ (s.fwAnswer st).fw.active = s.fw.active ∧ ∀ k, (s.fwAnswer st).fw.bank k = s.fw.bank k := by
  rw [fwAnswer_fw h]
  exact ⟨rfl, rfl, fun _ => rfl⟩

/-- A load that is answered and ends leaves its code, and its bank invalidated where the end says so. -/
theorem answered_end (h : s.fw.load = some l) (st code : Nat) (mark : Bool) :
    ((s.fwAnswer st).endLoad code mark).fw.load = none ∧ ((s.fwAnswer st).endLoad code mark).fw.result = code ∧ ((s.fwAnswer st).endLoad code mark).fw.active = s.fw.active ∧
    ((s.fwAnswer st).endLoad code mark).fw.bank l.bank = if mark then (s.fw.bank l.bank).invalidate else s.fw.bank l.bank := by
  obtain ⟨hload, hactive, hbank⟩ := fwAnswer_left h st
  obtain ⟨hnone, hcode, hact, hb⟩ := endLoad_end hload code mark
  exact ⟨hnone, hcode, hact.trans hactive, hb.trans (by rw [hbank])⟩

/-! ### A segment (15 R453) -/

theorem fwSegment_refusedHeader (hl : s.fw.load = none) (hh : fwHeaderOk data = false) : (s.fwSegment 0 data last none).1 = s.fwResult 1 := by
  unfold State.fwSegment State.fwFirst
  rw [hl, hh]
  rfl

/-- The bank that a good first segment finds: one that does not read erased is invalidated first. -/
def State.bankReady (s : State) : State :=
  if (s.fw.bank s.loadBank).get 0 256 = List.replicate 256 0xFF then s else s.upBank s.loadBank Bank.invalidate

theorem bankReady_bank (s : State) : s.bankReady.fw.bank s.loadBank =
    if (s.fw.bank s.loadBank).get 0 256 = List.replicate 256 0xFF then s.fw.bank s.loadBank else (s.fw.bank s.loadBank).invalidate := by
  unfold State.bankReady
  split
  · rfl
  · exact upBank_same s s.loadBank Bank.invalidate

theorem bankReady_active (s : State) : s.bankReady.fw.active = s.fw.active := by
  unfold State.bankReady
  split
  · rfl
  · exact upBank_active s s.loadBank Bank.invalidate

theorem fwSegment_first (hl : s.fw.load = none) (hh : fwHeaderOk data = true) : (s.fwSegment 0 data last none).1 =
    s.bankReady.upFw (fun x => { x with load := some ⟨s.loadBank, getLE data 8 4, .erase, 0, data, last, none⟩ }) := by
  unfold State.fwSegment State.fwFirst
  rw [hl, hh]
  rfl

theorem fwSegment_next (h : s.fw.load = some l) (hp : l.phase = .idle) (ho : off = l.next) (hn : off + data.length ≤ 256 + l.len) : (s.fwSegment off data last none).1 =
    s.upFw (fun x => { x with load := some { l with phase := .program, data := data, last := last, reply := none } }) := by
  unfold State.fwSegment
  rw [h]
  dsimp only
  rw [if_neg (not_not.mpr hp), if_neg (not_not.mpr ho), if_neg (Nat.not_lt.mpr hn)]

theorem fwSegment_wrongOffset (h : s.fw.load = some l) (hp : l.phase = .idle) (ho : off ≠ l.next) : (s.fwSegment off data last none).1 = s.endLoad 4 false := by
  unfold State.fwSegment
  rw [h]
  dsimp only
  rw [if_neg (not_not.mpr hp), if_pos ho]

theorem fwSegment_tooLong (h : s.fw.load = some l) (hp : l.phase = .idle) (ho : off = l.next) (hn : 256 + l.len < off + data.length) :
    (s.fwSegment off data last none).1 = s.endLoad 4 true := by
  unfold State.fwSegment
  rw [h]
  dsimp only
  rw [if_neg (not_not.mpr hp), if_neg (not_not.mpr ho), if_pos hn]

theorem fwSegment_busy (h : s.fw.load = some l) (hp : l.phase ≠ .idle) : (s.fwSegment off data last none).1 = s := by
  unfold State.fwSegment
  rw [h]
  dsimp only
  rw [if_pos hp]

theorem segment_frame (s : State) (off : Nat) (data : List Byte) (last : Bool) : Frame { fw := true } s (countEdges s (s.fwSegment off data last none).1) :=
  (State.fwSegment_keep (Keep.refl s) off data last none).frame.countEdges s

/-! ### The end of a bank step (15 R453) -/

/-- The bytes of the segment are in the bank and more follow: the load waits for the next one, its answer has left. -/
theorem fwPlaced_next (hl : l.last = false) :
    (s.fwPlaced l).fw = { s.fw with load := some { l with phase := .idle, next := l.next + l.data.length, data := [], reply := none } } := by
  have hmore : (!l.last) = true := by rw [hl]; rfl
  exact (congrArg State.fw (if_pos hmore)).trans (fwAnswer_fw (l := { l with phase := .idle, next := l.next + l.data.length, data := [] }) rfl stOk)

/-- The last segment of a complete image: the load waits for the verification. -/
theorem fwPlaced_verify (hl : l.last = true) (hn : l.next + l.data.length = 256 + l.len) :
    s.fwPlaced l = s.upFw (fun x => { x with load := some { l with phase := .verify, next := l.next + l.data.length, data := [] } }) := by
  have hmore : ¬ (!l.last) = true := by rw [hl]; decide
  exact (if_neg hmore).trans (if_pos hn)

theorem fwBankStep_failed (h : s.fw.load = some l) (hp : l.phase = .erase ∨ l.phase = .program) : s.fwBankStep false = (s.fwAnswer stOk).endLoad 5 true := by
  unfold State.fwBankStep
  rw [h]
  dsimp only
  rw [if_neg (by rcases hp with hp | hp <;> rw [hp] <;> decide)]
  rfl

theorem fwBankStep_erased (h : s.fw.load = some l) (hp : l.phase = .erase) (hn : l.data.length ≤ 256 + l.len) :
    s.fwBankStep true = (s.upBank l.bank (fun _ => (Bank.reset.put 0 l.data).markLoad)).fwPlaced l := by
  unfold State.fwBankStep
  rw [h]
  dsimp only
  rw [if_neg (by rw [hp]; decide), if_neg (by decide), if_pos hp, if_neg (Nat.not_lt.mpr hn)]

theorem fwBankStep_programmed (h : s.fw.load = some l) (hp : l.phase = .program) : s.fwBankStep true = (s.upBank l.bank (fun b => b.put l.next l.data)).fwPlaced l := by
  unfold State.fwBankStep
  rw [h]
  dsimp only
  rw [if_neg (by rw [hp]; decide), if_neg (by decide), if_neg (by rw [hp]; decide)]

/-- The bank `f` leaves and the load waits for the next segment. -/
theorem placed_answer {f : Bank → Bank} (hstep : s.fwBankStep true = (s.upBank l.bank f).fwPlaced l) (hl : l.last = false) : ∃ t, exec (.fwBankStepDone true) s = .next t ∧
    t.fw.load = some { l with phase := .idle, next := l.next + l.data.length, data := [], reply := none } ∧ t.fw.bank l.bank = f (s.fw.bank l.bank) ∧ t.fw.active = s.fw.active ∧
    Frame { net := true, can := true, dict := true, evr := true, fw := true } s t := by
  refine ⟨_, congrArg (commit s) hstep, ?_⟩
  rw [countEdges_fw, fwPlaced_next hl]
  exact ⟨rfl, upBank_same s l.bank f, upBank_active s l.bank f, (State.fwPlaced_keep (State.upBank_keep (Keep.refl s) l.bank f) l).frame.countEdges s⟩

/-! ### The verification (15 R453, log 8) -/

theorem exec_fwVerifyDone (h : s.fw.load = some l) (hp : l.phase = .verify) :
    exec (.fwVerifyDone signed ecc) s = commit s ((s.fwReads (ecc.filter (fun x => decide (x.addr / bankBytes = l.bank)))).fwVerified signed) := by
  show commit s (match s.fw.load with
    | some l => if l.phase = .verify then (s.fwReads (ecc.filter (fun x => decide (x.addr / bankBytes = l.bank)))).fwVerified signed else s
    | none => s) = _
  rw [h]
  dsimp only
  rw [if_pos hp]

/-- The load in its verification is answered, and ends by the digest and then by the signature. -/
theorem fwVerified_eq (h : s.fw.load = some l) (hp : l.phase = .verify) : s.fwVerified signed =
    if (s.fw.bank l.bank).digestOk then
      (if signed then ((s.fwAnswer stOk).endLoad 0 false).upBank l.bank Bank.markValid else (s.fwAnswer stOk).endLoad 2 true)
    else (s.fwAnswer stOk).endLoad 3 true := by
  obtain ⟨-, -, hbank⟩ := fwAnswer_left h stOk
  unfold State.fwVerified
  rw [h]
  dsimp only
  rw [if_neg (not_not.mpr hp), hbank]
  cases (s.fw.bank l.bank).digestOk <;> cases signed <;> rfl

/-- The end of the verification: the code, and the mark that the bank takes. -/
theorem fwVerified_left (h : s.fw.load = some l) (hp : l.phase = .verify) : (s.fwVerified signed).fw.load = none ∧ (s.fwVerified signed).fw.active = s.fw.active ∧
    (s.fwVerified signed).fw.result = (if (s.fw.bank l.bank).digestOk then (if signed then 0 else 2) else 3) ∧
    (s.fwVerified signed).fw.bank l.bank = if (s.fw.bank l.bank).digestOk && signed then (s.fw.bank l.bank).markValid else (s.fw.bank l.bank).invalidate := by
  rw [fwVerified_eq h hp]
  cases (s.fw.bank l.bank).digestOk
  · obtain ⟨hnone, hcode, hact, hb⟩ := answered_end h stOk 3 true
    exact ⟨hnone, hact, hcode, hb⟩
  · cases signed
    · obtain ⟨hnone, hcode, hact, hb⟩ := answered_end h stOk 2 true
      exact ⟨hnone, hact, hcode, hb⟩
    · obtain ⟨hnone, hcode, hact, hb⟩ := answered_end h stOk 0 false
      obtain ⟨hload, hresult⟩ := upBank_load ((s.fwAnswer stOk).endLoad 0 false) l.bank Bank.markValid
      exact ⟨hload.trans hnone, (upBank_active ..).trans hact, hresult.trans hcode, (upBank_same ..).trans (congrArg Bank.markValid hb)⟩

theorem fwVerified_sto (s : State) (signed : Bool) : (s.fwVerified signed).sto = s.sto :=
  (State.fwVerified_keep (L := { net := true, can := true, dict := true, evr := true, fw := true }) (Keep.refl s) signed).frame.sto rfl

/-! ### The abandonment (15 R453) -/

theorem fwAbandon_fw (h : s.fw.load = some l) : s.fwAbandon.fw = { s.fw with load := none, result := 6 } := by
  obtain ⟨hload, -, -⟩ := fwAnswer_left h stOk
  unfold State.fwAbandon
  rw [endLoad_fw hload, fwAnswer_fw h]
  rfl

/-- Settles O41: a segment by the load in progress and its offset, a bank step by its phase and verification, and the verification by digest and signature. -/
theorem firmwareLoadsStepByStep : Obligations.FirmwareLoadsStepByStep := by
  rintro s off data last signed ecc l r rfl
  refine ⟨fun hn => ⟨fun hh => ?_, fun hh => ?_⟩, fun h => ⟨fun hp => ⟨fun ho hn => ?_, fun ho => ?_, fun ho hn => ?_⟩, fun hp => ?_, fun hp hn hl => ?_, fun hp hl => ?_,
    fun hp hl hn => ?_, fun hp => ?_, fun hp => ?_, ?_⟩⟩
  · exact ⟨_, congrArg (commit s) (fwSegment_refusedHeader hn hh), rfl, fwSegment_refusedHeader hn hh ▸ segment_frame s 0 data last⟩
  · refine ⟨_, congrArg (commit s) (fwSegment_first hn hh), rfl, bankReady_active s, bankReady_bank s, fwSegment_first hn hh ▸ segment_frame s 0 data last⟩
  · exact ⟨_, congrArg (commit s) (fwSegment_next h hp ho hn), rfl, fwSegment_next (last := last) h hp ho hn ▸ segment_frame s off data last⟩
  · refine ⟨_, congrArg (commit s) (fwSegment_wrongOffset h hp ho), ?_, fwSegment_wrongOffset h hp ho ▸ segment_frame s off data last⟩
    exact (endLoad_fw h 4 false).trans (if_neg (by decide))
  · obtain ⟨hnone, hcode, hact, hb⟩ := endLoad_end h 4 true
    exact ⟨_, congrArg (commit s) (fwSegment_tooLong h hp ho hn), hnone, hcode, hb, hact, fwSegment_tooLong (last := last) h hp ho hn ▸ segment_frame s off data last⟩
  · exact answer_self (congrArg (commit s) (fwSegment_busy h hp)) rfl
  · exact placed_answer (fwBankStep_erased h hp hn) hl
  · exact placed_answer (fwBankStep_programmed h hp) hl
  · refine ⟨_, congrArg (commit s) ((fwBankStep_programmed h hp).trans (fwPlaced_verify hl hn)), rfl, upBank_same s l.bank _, upBank_active s l.bank _, ?_⟩
    exact ((State.upBank_keep (Keep.refl s) l.bank _).upFw _).frame.countEdges s
  · obtain ⟨hnone, hcode, hact, hb⟩ := answered_end h stOk 5 true
    exact ⟨_, congrArg (commit s) (fwBankStep_failed h hp), hnone, hcode, hb, hact, (State.endLoad_keep (State.fwAnswer_keep (Keep.refl s) stOk) 5 true).frame.countEdges s⟩
  · obtain ⟨hload, hactive, -⟩ := fwReads_load (ecc.filter (fun x => decide (x.addr / bankBytes = l.bank))) s
    obtain ⟨hnone, hact, hcode, hb⟩ := fwVerified_left (signed := signed) (hload.trans h) hp
    refine ⟨_, exec_fwVerifyDone h hp, hnone, hact.trans hactive, hcode, hb, ?_, (State.fwVerified_keep (State.fwReads_keep (Keep.refl s) _) signed).frame.countEdges s⟩
    rintro rfl
    exact ⟨rfl, fwVerified_sto s signed⟩
  · exact ⟨_, commit_eq .., fwAbandon_fw h, (State.fwAbandon_keep (Keep.refl s)).frame.countEdges s⟩

end Sys2Proof.Machine
end
